-- ==== Sys2Proof/Word.lean ====
section
/-! DEFINITION. The word widths of the Scevos 512: the 40-bit word (R8), the 96-bit accumulator (R36),
the byte of host-side data (R8), and the plainest arithmetic on them. -/

namespace Sys2Proof

/-- The 40-bit word of R8: registers, memory words, items. -/
abbrev Word := BitVec 40

/-- The 96-bit accumulator of R36. -/
abbrev Acc96 := BitVec 96

/-- A byte of a ring entry, image or frame (R8). -/
abbrev Byte := BitVec 8

/-- The word of a natural number, modulo 2^40. -/
def wd (n : Nat) : Word := BitVec.ofNat 40 n

/-- The word of an integer, modulo 2^40. -/
def wi (n : Int) : Word := BitVec.ofInt 40 n

/-- The void word of R21 and R253. -/
def voidWord : Word := wd 0x0F00000000

end Sys2Proof
end

