-- ==== Sys2Proof/Syntax.lean ====
section
/-! DEFINITION. The commands of the Scevos 512: one constructor of Instr per row of the opcode table, with the row's
operands, and the operand types they use. -/

namespace Sys2Proof

/-- A physical tine (R14, Table 1-1). -/
abbrev TineNo := Fin 144

/-- A general register number (R80). -/
abbrev Gr := Fin 32

/-- An accumulator number (R80). -/
abbrev Ar := Fin 4

/-- Who makes a register or memory access. -/
inductive Who where
  /-- a physical tine, in its current mode -/
  | tine (p : TineNo)
  /-- a drained store of a physical tine, in the world and as user or supervisor as it retired -/
  | store (p : TineNo) (walled sup : Bool)
  /-- a Trellis channel, in its owner's world (R139) -/
  | channel (c : Fin 128)
  /-- the host, in the world of its session (R138, R425) -/
  | host
  /-- the debug probe, in the world of its session (R425) -/
  | probe
  /-- a chain-window access from another device; the bit is the world it arrives in -/
  | chainWin (walled : Bool)
  /-- the graft and boot engine (R454) -/
  | graft
  /-- the Nursery (R258) -/
  | nursery
  deriving DecidableEq, Repr

/-- What the host's configuration of MSI-X writes: the enable, or an entry of the table of BAR4: vector, address, data and
mask; or an access to one 32-bit word of BAR4 (R321, R462). -/
inductive MsixCfg where
  | enable (on : Bool)
  | entry (v : Fin 64) (addr : BitVec 64) (data : BitVec 32) (mask : Bool)
  | read (dw : Fin 2048)
  | write (dw : Fin 2048) (v : BitVec 32)
  deriving DecidableEq, Repr

/-- A received gPTP message as the end station sees it (R340, R345): an Announce with its priority1 and whether it wins where
that equals the station's own; a Sync, of which a two-step one leaves its offset to its Follow_Up; a Pdelay request, and an
answer to the station's own. -/
inductive GptpMsg where
  | announce (prio1 : BitVec 8) (tie : Bool)
  | sync (twoStep : Bool)
  | followUp
  | pdelayReq
  | pdelayResp
  deriving DecidableEq, Repr

/-- A 1-bit stream, oldest bit first. -/
abbrev BitStream := List Bool

/-- What reading a stored word meets (R190): clean, a correctable upset, an uncorrectable one, a bus error, or in DRAM errors in
symbols of its half-trug's codeword: the position, of 36, and the value added (R188). -/
inductive Upset where
  | ok | ce | ue | bus
  | sym (errs : List (Nat × Nat))
  deriving DecidableEq, Repr

/-- What a received AAF frame says of its samples (R350): the code of its format as in STRM_CFG.FMT, and its bit depth. -/
structure AafFormat where
  code : Nat
  depth : Nat
  deriving DecidableEq, Repr

/-- The gPTP times in ns of the first five of the six timestamp events of a CRF PDU, oldest first, and the ns into the present
tick at which the sixth comes (R353). -/
structure CrfEvents where
  t0 : Nat
  t1 : Nat
  t2 : Nat
  t3 : Nat
  t4 : Nat
  sub : Fin 1000
  deriving DecidableEq, Repr

/-- A frame that the AON detector of a MAC sees (R363): its destination, its Ethertype, its OP and its bytes 1–4, the first of
them lowest. -/
structure WakeFrame where
  dst : BitVec 48
  ethertype : BitVec 16
  op : BitVec 8
  key : BitVec 32
  deriving DecidableEq, Repr

/-- The data of an outstanding memory read: its tag, counted from the head of the retirement window, and what its words
meet (R115). -/
structure LoadRet where
  tag : Fin 16
  ups : List Upset
  deriving DecidableEq, Repr

/-- A unit of the hierarchy that owns a mailbox (Table 1-3). -/
inductive MUnit where
  | plot (p : Fin 16) | slot (l : Fin 128) | bed (b : Fin 4) | device | chain
  deriving DecidableEq, Repr

/-- Two-register ALU forms: compact Gd := Gd op Gs, full R3 (R90, R91). -/
inductive RR where
  | c (gd gs : Gr)
  | f (gd ga gb : Gr)
  deriving DecidableEq, Repr

/-- Register-immediate ALU forms: compact imm10, full RI imm22 (R90, R91). -/
inductive RI where
  | c (gd : Gr) (imm : BitVec 10)
  | f (gd ga : Gr) (imm : BitVec 22)
  deriving DecidableEq, Repr

/-- Compare forms: compact and full (R98). -/
inductive CR where
  | c (ga gb : Gr)
  | f (ga gb : Gr)
  deriving DecidableEq, Repr

/-- Compare-immediate forms (R98). -/
inductive CI where
  | c (ga : Gr) (imm : BitVec 10)
  | f (ga : Gr) (imm : BitVec 22)
  deriving DecidableEq, Repr

/-- One-source forms: compact op5 0x14 or 0x01, full R3 (R98). -/
inductive Un where
  | c (gd gs : Gr)
  | f (gd ga : Gr)
  deriving DecidableEq, Repr

/-- A shift amount of SHL and SHR: a register or imm22[5:0] (R98). -/
inductive ShAmt where
  | reg (gb : Gr)
  | imm (k : BitVec 6)
  deriving DecidableEq, Repr

/-- The forms of ASH: register, compact immediate, full immediate (R55, R98). -/
inductive AshForm where
  | reg (gd ga gb : Gr)
  | ci (gd : Gr) (k : BitVec 10)
  | fi (gd ga : Gr) (k : BitVec 7)
  deriving DecidableEq, Repr

/-- Lane and pair operations (R91). -/
inductive MacOp where
  | absent | mpy | mac | msu
  deriving DecidableEq, Repr

/-- A dual-mode lane of format MD (R91). -/
structure Lane where
  op : MacOp
  an : Ar
  gx : Gr
  gy : Gr
  deriving DecidableEq, Repr

/-- A quad-mode pair's operation and target of format MQ (R91). -/
structure Pair where
  op : MacOp
  an : Ar
  deriving DecidableEq, Repr

/-- Accumulator operations with a compact and a full form (R98). -/
inductive AccForm where
  | c (an : Ar)
  | f (an : Ar)
  deriving DecidableEq, Repr

/-- The LS format (R91, R93): mode 0 to 7, off16 and, in IDX, Gb. -/
structure LS where
  gt : Gr
  ga : Gr
  mode : BitVec 3
  modr : Fin 8
  off : BitVec 16
  deriving DecidableEq, Repr

/-- LD and ST forms: compact [Ga], or full LS (R98). -/
inductive LdSt where
  | c (gt ga : Gr)
  | f (l : LS)
  deriving DecidableEq, Repr

/-- HPOP and HPUSH forms: compact with the hopper in the encoding, full with the hopper in Ga[7:0] (R98). -/
inductive HopForm where
  | c (g : Gr) (h : Fin 256)
  | f (g ga : Gr)
  deriving DecidableEq, Repr

/-- BRC forms: compact relative, full absolute (R98). -/
inductive BrcForm where
  | c (cond : BitVec 4) (off : BitVec 11)
  | f (cond : BitVec 4) (target : BitVec 14)
  deriving DecidableEq, Repr

/-- CALL forms: compact through Ga with link G27, full absolute with link Gl (R98). -/
inductive CallForm where
  | c (ga : Gr)
  | f (gl : Gr) (target : BitVec 14)
  deriving DecidableEq, Repr

/-- The access of a channel that is issued again: the one under way, or an outstanding write by its place (R244). -/
inductive ChAcc where
  | current
  | write (k : Nat)
  deriving DecidableEq, Repr

/-- A PCIe access in the 64-bit view (R459): the whole slot, or its low or high 32 bits. -/
inductive BarAcc where
  | r64
  | w64 (v : BitVec 64)
  | r32 (hi : Bool)
  | w32 (hi : Bool) (v : BitVec 32)
  /-- a poisoned request -/
  | poison
  deriving DecidableEq, Repr

/-- A host frame (R323, R367): its MAC, destination and source addresses, Ethertype 0x88B5 instead of 0x88B6, SEQ and word
address. -/
structure HFrame where
  mac : Fin 2
  dst : BitVec 48
  src : BitVec 48
  boot : Bool
  seq : BitVec 8
  addr : BitVec 40
  deriving DecidableEq, Repr

/-- The word a debug memory access names (R429): physical, or virtual through a tine's translation. -/
inductive DbgAddr where
  | phys (pa : BitVec 34)
  | virt (t : TineNo) (va : BitVec 32)
  deriving DecidableEq, Repr

/-- The register a debug register access names (R429): a page register, or a register of a tine: G, a 40-bit part of an
accumulator image, PC, or a control register. -/
inductive DbgReg where
  | page (pg : Fin 512) (off : Fin 1024)
  | g (t : TineNo) (i : Gr)
  | acc (t : TineNo) (n : Ar) (part : Fin 3)
  | pc (t : TineNo)
  | ctl (t : TineNo) (n : Fin 896)
  deriving DecidableEq, Repr

/-- A debug request (R429): halt, resume or step of a tine, an access to memory, or one to a register. -/
inductive DbgOp where
  | halt (t : TineNo)
  | resume (t : TineNo)
  | step (t : TineNo)
  | mem (a : DbgAddr) (wr : Option Word) (up : Upset)
  | reg (r : DbgReg) (wr : Option Word)
  deriving DecidableEq, Repr

/-- A source that wakes the device (R396). -/
inductive WakeSrc where
  /-- quad-SPI chip select falling -/
  | qspi
  /-- PERST_N rising -/
  | pcie
  | phyint (m : Fin 2)
  | frame (m : Fin 2)
  /-- the chain wake pattern, on DOWN or on UP -/
  | chain (down : Bool)
  deriving DecidableEq, Repr

/-- A sense stream: a rail's, or one that a Hoe names (R310, R311). -/
inductive SenseSrc where
  | rail (k : Fin 16)
  | hoe (r : Fin 4) (h : Fin 32)
  deriving DecidableEq, Repr

/-- A command: one constructor per row of the opcode table, in its order. -/
inductive Instr where
  /-- MBOX_PUT (R23) -/
  | mboxPut (w : Who) (u : MUnit) (item : Word)
  /-- MBOX_WITHHELD_WRITE_ACCEPT (R23) -/
  | mboxWithheldWriteAccept (u : MUnit) (k : Nat)
  /-- MBOX_TAKE (R21) -/
  | mboxTake (w : Who) (u : MUnit)
  /-- CLR_DROPS (R24) -/
  | clrDrops (w : Who) (u : MUnit)
  /-- BLOCK_BOUNDARY (R29) -/
  | blockBoundary
  /-- DEV_BLOCK_CFG_WRITE (R31) -/
  | devBlockCfgWrite (w : Who) (v : Word)
  /-- REGISTER_WRITE (R11) -/
  | registerWrite (w : Who) (pg : Fin 512) (off : Fin 1024) (v : Word)
  /-- COUNTER_CLEAR (R69) -/
  | counterClear (w : Who) (pg : Fin 512) (off : Fin 1024)
  /-- MOV (R98) -/
  | mov (t : TineNo) (f : Un)
  /-- MOVI (R98) -/
  | movi (t : TineNo) (f : RI)
  /-- MOVHI (R98) -/
  | movhi (t : TineNo) (gd : Gr) (imm : BitVec 22)
  /-- ADD (R83) -/
  | add (t : TineNo) (f : RR)
  /-- SUB (R83) -/
  | sub (t : TineNo) (f : RR)
  /-- ADDI (R83) -/
  | addi (t : TineNo) (f : RI)
  /-- ADDS (R83) -/
  | adds (t : TineNo) (gd ga gb : Gr)
  /-- SUBS (R83) -/
  | subs (t : TineNo) (gd ga gb : Gr)
  /-- AND (R98) -/
  | and (t : TineNo) (f : RR)
  /-- OR (R98) -/
  | or (t : TineNo) (f : RR)
  /-- XOR (R98) -/
  | xor (t : TineNo) (f : RR)
  /-- ANDN (R98) -/
  | andn (t : TineNo) (gd ga gb : Gr)
  /-- ANDI (R98) -/
  | andi (t : TineNo) (gd ga : Gr) (imm : BitVec 22)
  /-- ORI (R98) -/
  | ori (t : TineNo) (gd ga : Gr) (imm : BitVec 22)
  /-- XORI (R98) -/
  | xori (t : TineNo) (gd ga : Gr) (imm : BitVec 22)
  /-- SHL (R98) -/
  | shl (t : TineNo) (gd ga : Gr) (k : ShAmt)
  /-- SHR (R98) -/
  | shr (t : TineNo) (gd ga : Gr) (k : ShAmt)
  /-- ASH (R55) -/
  | ash (t : TineNo) (f : AshForm)
  /-- ROT (R98) -/
  | rot (t : TineNo) (gd ga gb : Gr)
  /-- MIN (R98) -/
  | min (t : TineNo) (gd ga gb : Gr)
  /-- MAX (R98) -/
  | max (t : TineNo) (gd ga gb : Gr)
  /-- CMP (R83) -/
  | cmp (t : TineNo) (f : CR)
  /-- CMPI (R83) -/
  | cmpi (t : TineNo) (f : CI)
  /-- NEG (R83) -/
  | neg (t : TineNo) (f : Un)
  /-- NOT (R98) -/
  | not (t : TineNo) (f : Un)
  /-- ABS (R98) -/
  | abs (t : TineNo) (f : Un)
  /-- NORM (R53) -/
  | norm (t : TineNo) (f : Un)
  /-- NORMM (R54) -/
  | normm (t : TineNo) (f : Un)
  /-- LOG2 (R72) -/
  | log2 (t : TineNo) (gd ga : Gr)
  /-- EXP2 (R72) -/
  | exp2 (t : TineNo) (gd ga : Gr)
  /-- RECIP (R72) -/
  | recip (t : TineNo) (gd ga : Gr)
  /-- RSQRT (R72) -/
  | rsqrt (t : TineNo) (gd ga : Gr)
  /-- CRC8 (R110) -/
  | crc8 (t : TineNo) (gd gs gp : Gr)
  /-- CRCW (R110) -/
  | crcw (t : TineNo) (gd gs gp : Gr)
  /-- PAR (R111) -/
  | par (t : TineNo) (gd gs : Gr) (w : BitVec 6)
  /-- BREV (R111) -/
  | brev (t : TineNo) (gd gs : Gr) (w : BitVec 6)
  /-- MAC_DUAL (R38) -/
  | macDual (t : TineNo) (fp : BitVec 2) (l0 l1 : Lane)
  /-- MAC_QUAD (R39) -/
  | macQuad (t : TineNo) (fp : BitVec 2) (p0 p1 : Pair) (gx gy gz gw : Gr)
  /-- MAC_C (R98) -/
  | macC (t : TineNo) (op : MacOp) (an : Ar) (gx gy : Gr) (fp1 : Bool)
  /-- MACM (R99) -/
  | macm (t : TineNo) (op : MacOp) (fp : BitVec 2) (an : Ar) (ga gb : Gr) (mj mk : Fin 8)
  /-- CLRA (R42) -/
  | clra (t : TineNo) (f : AccForm)
  /-- NEGA (R42) -/
  | nega (t : TineNo) (f : AccForm)
  /-- ABSA (R42) -/
  | absa (t : TineNo) (f : AccForm)
  /-- LDA (R42) -/
  | lda (t : TineNo) (an : Ar) (g : Gr) (k : BitVec 8)
  /-- ADDA (R42) -/
  | adda (t : TineNo) (an am : Ar)
  /-- SUBA (R42) -/
  | suba (t : TineNo) (an am : Ar)
  /-- ASHA (R55) -/
  | asha (t : TineNo) (an : Ar) (k : BitVec 8)
  /-- NORMA (R53) -/
  | norma (t : TineNo) (g : Gr) (an : Ar)
  /-- WBA (R46) -/
  | wba (t : TineNo) (gd : Gr) (an : Ar) (xs : BitVec 6) (code : BitVec 3)
  /-- WBA_H (R47) -/
  | wbaH (t : TineNo) (gd : Gr) (an : Ar) (xs : BitVec 6) (code : BitVec 3)
  /-- WBA_D (R47) -/
  | wbaD (t : TineNo) (gd : Gr) (an : Ar) (xs : BitVec 6) (code : BitVec 3)
  /-- LD (R92) -/
  | ld (t : TineNo) (f : LdSt)
  /-- ST (R120) -/
  | st (t : TineNo) (f : LdSt)
  /-- LDST_C (R94) -/
  | ldstC (t : TineNo) (store : Bool) (gt ga : Gr) (mk : Fin 8)
  /-- LDH (R92) -/
  | ldh (t : TineNo) (l : LS)
  /-- STH (R92) -/
  | sth (t : TineNo) (l : LS)
  /-- LDD (R124) -/
  | ldd (t : TineNo) (l : LS)
  /-- STD (R124) -/
  | std (t : TineNo) (l : LS)
  /-- SWAP (R184) -/
  | swap (t : TineNo) (l : LS)
  /-- SVA (R120) -/
  | sva (t : TineNo) (l : LS)
  /-- RSA (R37) -/
  | rsa (t : TineNo) (l : LS)
  /-- LOAD_DATA_RETURN (R115) -/
  | loadDataReturn (t : TineNo) (r : LoadRet)
  /-- HPOP (R252) -/
  | hpop (t : TineNo) (f : HopForm)
  /-- HPUSH (R100) -/
  | hpush (t : TineNo) (f : HopForm)
  /-- HPUSH_ACCEPT (R100) -/
  | hpushAccept (t : TineNo)
  /-- FENCE (R122) -/
  | fence (t : TineNo)
  /-- STORE_BUFFER_DRAIN (R120) -/
  | storeBufferDrain (t : TineNo) (up : Upset)
  /-- BR (R98) -/
  | br (t : TineNo) (off : BitVec 15)
  /-- BRC (R97) -/
  | brc (t : TineNo) (f : BrcForm)
  /-- JMP (R98) -/
  | jmp (t : TineNo) (ga : Gr)
  /-- CALL (R98) -/
  | call (t : TineNo) (f : CallForm)
  /-- NOP (R98) -/
  | nop (t : TineNo)
  /-- WAIT (R167) -/
  | wait (t : TineNo)
  /-- CLOCHE (R156) -/
  | cloche (t : TineNo) (nM1 : BitVec 6)
  /-- SYSC (R148) -/
  | sysc (t : TineNo) (code : BitVec 8)
  /-- RETX (R152) -/
  | retx (t : TineNo) (up upF upD : Upset) (latency : Nat)
  /-- BKPT (R430) -/
  | bkpt (t : TineNo)
  /-- MFC (R85) -/
  | mfc (t : TineNo) (g : Gr) (n : BitVec 10)
  /-- MTC (R85) -/
  | mtc (t : TineNo) (g : Gr) (n : BitVec 10)
  /-- REP (R101) -/
  | rep (t : TineNo) (nM1 : BitVec 12)
  /-- REPU (R104) -/
  | repu (t : TineNo) (nM1 : BitVec 12)
  /-- REPR (R101) -/
  | repr (t : TineNo) (gs : Gr) (u : Bool)
  /-- LOOP (R105) -/
  | loop (t : TineNo) (count : BitVec 16) (e : BitVec 13)
  /-- LOOPR (R105) -/
  | loopr (t : TineNo) (gs : Gr) (e : BitVec 13)
  /-- ENDL (R106) -/
  | endl (t : TineNo)
  /-- FAULT_ENTRY (R148) -/
  | faultEntry (t : TineNo) (up upF upD : Upset)
  /-- NURS_LOCK_TINE_CLR (R151) -/
  | nursLockTineClr (w : Who) (v : Word)
  /-- SIEVE_ARRIVAL (R160) -/
  | sieveArrival (t : TineNo) (n : Fin 64)
  /-- HANDLER_ENTRY (R145) -/
  | handlerEntry (t : TineNo) (up upF upD : Upset) (latency : Nat)
  /-- SIEVE_EOI (R165) -/
  | sieveEoi (w : Who) (t : TineNo) (v : Word)
  /-- SIEVE_CLRPEND (R160) -/
  | sieveClrpend (w : Who) (t : TineNo) (v : Word)
  /-- SIEVE_RAISE (R173) -/
  | sieveRaise (w : Who) (t : TineNo) (v : Word)
  /-- SIEVE_CFG_WRITE (R169) -/
  | sieveCfgWrite (w : Who) (t : TineNo) (n : Fin 64) (v : Word)
  /-- HOLD_OFF_END (R166) -/
  | holdOffEnd (t : TineNo) (n : Fin 64)
  /-- SIEVE_TMR_CMP_WRITE (R172) -/
  | sieveTmrCmpWrite (w : Who) (t : TineNo) (v : Word)
  /-- TIMER_COMPARE (R172) -/
  | timerCompare (t : TineNo)
  /-- DITHER_STATE_WRITE (R65) -/
  | ditherStateWrite (w : Who) (t : TineNo) (b : Bool) (v : Word)
  /-- CLR_E (R68) -/
  | clrE (w : Who) (t : TineNo) (n : Ar) (v : Word)
  /-- INTERPOLATOR_CALIBRATION (R77) -/
  | interpolatorCalibration (r : Fin 4) (h : Fin 32) (d1 d2 d3 : Fin 3)
  /-- TINE_XCFG_WRITE (R196) -/
  | tineXcfgWrite (w : Who) (t : TineNo) (v : Word)
  /-- XINV (R196) -/
  | xinv (w : Who) (t : TineNo) (all : Bool) (va : BitVec 20)
  /-- TINV (R196) -/
  | tinv (w : Who) (all : Bool) (va : BitVec 20)
  /-- SHOOT (R196) -/
  | shoot (w : Who) (all : Bool) (va : BitVec 20)
  /-- SHOOT_COMPLETE (R196) -/
  | shootComplete
  /-- WEEDER_STEP (R198) -/
  | weederStep (k : Fin 3) (ups : List Upset)
  /-- DRAM_REFRESH_POLL (R185) -/
  | dramRefreshPoll (mr4 : Fin 8)
  /-- DRAM_RETRAIN (R185) -/
  | dramRetrain (osc : BitVec 16)
  /-- CMD_FETCH (R205) -/
  | cmdFetch (c : Fin 128) (up0 up1 : Upset)
  /-- CMD_NOP (R208) -/
  | cmdNop (c : Fin 128)
  /-- CMD_MOVE (R233) -/
  | cmdMove (c : Fin 128) (ups : List Upset)
  /-- MOVE_ELEMENT (R240) -/
  | moveElement (c : Fin 128) (up wup : Upset)
  /-- ACCESS_REPLAY (R244) -/
  | accessReplay (c : Fin 128) (a : ChAcc) (ups : List Upset)
  /-- TRELLIS_WRITE_ACK (R210) -/
  | trellisWriteAck (c : Fin 128) (k : Nat) (up : Upset)
  /-- CMD_LOOP (R213) -/
  | cmdLoop (c : Fin 128)
  /-- CMD_ENDLOOP (R213) -/
  | cmdEndloop (c : Fin 128)
  /-- CMD_WAIT (R214) -/
  | cmdWait (c : Fin 128)
  /-- WAIT_COMPLETE (R215) -/
  | waitComplete (c : Fin 128)
  /-- WAIT_TIMEOUT (R215) -/
  | waitTimeout (c : Fin 128)
  /-- CMD_SIGNAL_HOPPER (R217) -/
  | cmdSignalHopper (c : Fin 128)
  /-- SIGNAL_PUSH_ACCEPT (R217) -/
  | signalPushAccept (c : Fin 128)
  /-- CMD_SIGNAL_SIEVE (R217) -/
  | cmdSignalSieve (c : Fin 128)
  /-- CMD_SIGNAL_CHANNEL (R217) -/
  | cmdSignalChannel (c : Fin 128)
  /-- CMD_SKIP (R218) -/
  | cmdSkip (c : Fin 128) (up : Upset)
  /-- CMD_SUSPEND (R219) -/
  | cmdSuspend (c : Fin 128)
  /-- CMD_RESUME (R219) -/
  | cmdResume (c : Fin 128)
  /-- CMD_POST (R220) -/
  | cmdPost (c : Fin 128)
  /-- POST_RESUME (R221) -/
  | postResume (c : Fin 128)
  /-- CMD_CHAIN (R222) -/
  | cmdChain (c : Fin 128)
  /-- CMD_PORTOP (R223) -/
  | cmdPortop (c : Fin 128)
  /-- TRCH_START (R227) -/
  | trchStart (w : Who) (c : Fin 128)
  /-- TRCH_STOP (R226) -/
  | trchStop (w : Who) (c : Fin 128)
  /-- TRCH_SUSPEND (R225) -/
  | trchSuspend (w : Who) (c : Fin 128)
  /-- TRCH_RESUME (R225) -/
  | trchResume (w : Who) (c : Fin 128)
  /-- CLRSIG (R217) -/
  | clrsig (w : Who) (c : Fin 128)
  /-- STOP_COMMIT (R226) -/
  | stopCommit (c : Fin 128)
  /-- DRAIN_COMPLETE (R226) -/
  | drainComplete (c : Fin 128)
  /-- CRING_PI_WRITE (R207) -/
  | cringPiWrite (w : Who) (c : Fin 128) (pi : BitVec 16)
  /-- SRING_CI_WRITE (R207) -/
  | sringCiWrite (w : Who) (c : Fin 128) (ci : BitVec 16)
  /-- TRCH_OWN_WRITE (R230) -/
  | trchOwnWrite (w : Who) (c : Fin 128) (v : Word)
  /-- TREL_JOURNAL_READ (R249) -/
  | trelJournalRead (w : Who)
  /-- HOP_PUSH (R259) -/
  | hopPush (w : Who) (h : Fin 256) (item : Word)
  /-- HOP_CFG_WRITE (R254) -/
  | hopCfgWrite (w : Who) (h : Fin 256) (v : Word)
  /-- HOP_OWN_WRITE (R263) -/
  | hopOwnWrite (w : Who) (h : Fin 256) (v : Word)
  /-- HOP_TAIL_NOTICE (R261) -/
  | hopTailNotice (h : Fin 256)
  /-- VIO_MEASURE (R267) -/
  | vioMeasure (r : Fin 4) (mv : Nat)
  /-- ROW_SUPPLY_FAIL (R467) -/
  | rowSupplyFail (r : Fin 4)
  /-- CELL_CFG_WRITE (R270) -/
  | cellCfgWrite (w : Who) (r : Fin 4) (c : Fin 128) (v : Word)
  /-- CELL_ENABLE (R271) -/
  | cellEnable (w : Who) (r : Fin 4) (c : Fin 128)
  /-- CELL_DISABLE (R272) -/
  | cellDisable (w : Who) (r : Fin 4) (c : Fin 128)
  /-- CELL_FIFO_WRITE (R284) -/
  | cellFifoWrite (w : Who) (r : Fin 4) (c : Fin 128) (v : Word)
  /-- PORTOP_CELL_ENABLE (R292) -/
  | portopCellEnable (r : Fin 4) (c : Fin 128)
  /-- PORTOP_CELL_DISABLE (R292) -/
  | portopCellDisable (r : Fin 4) (c : Fin 128)
  /-- PORTOP_CELL_FLUSH (R292) -/
  | portopCellFlush (r : Fin 4) (c : Fin 128)
  /-- GPIO_SET (R292) -/
  | gpioSet (r : Fin 4) (c : Fin 128) (out oe : Bool)
  /-- PORTOP_CELL_THRESH (R292) -/
  | portopCellThresh (r : Fin 4) (c : Fin 128) (rx tx : BitVec 11)
  /-- PORTOP_ENGINE_GO (R292) -/
  | portopEngineGo (r : Fin 4) (e : Fin 8) (arg : BitVec 23)
  /-- ROWC_CG_WRITE (R276) -/
  | rowcCgWrite (w : Who) (r : Fin 4) (g : Fin 8) (v : Word)
  /-- CLKERR (R275) -/
  | clkerr (r : Fin 4) (g : Fin 8)
  /-- LANE_IN_FRAME (R277) -/
  | laneInFrame (r : Fin 4) (c : Fin 128) (bits : List Bool)
  /-- LANE_OUT_FRAME (R281) -/
  | laneOutFrame (r : Fin 4) (c : Fin 128)
  /-- PDM_IN_SAMPLE (R279) -/
  | pdmInSample (r : Fin 4) (c : Fin 128) (streams : List BitStream)
  /-- PDM_OUT_SAMPLE (R282) -/
  | pdmOutSample (r : Fin 4) (c : Fin 128)
  /-- GPIO_EDGE (R280) -/
  | gpioEdge (r : Fin 4) (c : Fin 128) (level : Bool)
  /-- SE_GO (R290) -/
  | seGo (w : Who) (r : Fin 4) (e : Fin 8) (v : Word)
  /-- SE_TRANSACTION_END (R291) -/
  | seTransactionEnd (r : Fin 4) (e : Fin 8) (err : Fin 6) (count : Fin 33) (rx : List Byte)
  /-- HOE_ENABLE (R308) -/
  | hoeEnable (w : Who) (r : Fin 4) (h : Fin 32)
  /-- HOE_START (R308) -/
  | hoeStart (r : Fin 4) (h : Fin 32)
  /-- HOE_DISABLE (R309) -/
  | hoeDisable (w : Who) (r : Fin 4) (h : Fin 32)
  /-- HOE_CFG_WRITE (R307) -/
  | hoeCfgWrite (w : Who) (r : Fin 4) (h : Fin 32) (k : Fin 0x18) (v : Word)
  /-- CARRIER_PERIOD (R301) -/
  | carrierPeriod (r : Fin 4) (h : Fin 32) (pos : Fin 32) (vs is : Nat)
  /-- RAIL_CODE (R303) -/
  | railCode (rail : Fin 16) (ones : Nat)
  /-- SENSE_STREAM_LOSS (R310) -/
  | senseStreamLoss (what : SenseSrc)
  /-- FAST_DETECTOR (R311) -/
  | fastDetector (what : SenseSrc) (f : Fin 65)
  /-- HOE_TRIP (R311) -/
  | hoeTrip (w : Who) (r : Fin 4) (h : Fin 32)
  /-- HOE_REARM (R314) -/
  | hoeRearm (w : Who) (r : Fin 4) (h : Fin 32)
  /-- HOE_FLUSH (R309) -/
  | hoeFlush (w : Who) (r : Fin 4) (h : Fin 32)
  /-- CLR_RETRY (R314) -/
  | clrRetry (w : Who) (r : Fin 4) (h : Fin 32)
  /-- SHEAR_AUTO_RETRY (R314) -/
  | shearAutoRetry (r : Fin 4) (h : Fin 32)
  /-- PORTOP_HOE_ENABLE (R316) -/
  | portopHoeEnable (r : Fin 4) (h : Fin 32)
  /-- PORTOP_HOE_DISABLE (R316) -/
  | portopHoeDisable (r : Fin 4) (h : Fin 32)
  /-- PORTOP_HOE_FLUSH (R316) -/
  | portopHoeFlush (r : Fin 4) (h : Fin 32)
  /-- PORTOP_HOE_REARM (R316) -/
  | portopHoeRearm (r : Fin 4) (h : Fin 32)
  /-- PORTOP_HOE_THRESH (R316) -/
  | portopHoeThresh (r : Fin 4) (h : Fin 32) (tx : BitVec 11)
  /-- INJECT (R315) -/
  | inject (r : Fin 4) (h : Fin 32) (imode : BitVec 2)
  /-- RAIL_CFG_WRITE (R319) -/
  | railCfgWrite (w : Who) (rail : Fin 16) (v : Word)
  /-- PCIE_BAR0_ACCESS (R459) -/
  | pcieBar0Access (slot : Fin 524288) (a : BarAcc)
  /-- HELD_WRITE_EXPIRY (R459) -/
  | heldWriteExpiry
  /-- PCIE_BAR2_ACCESS (R321) -/
  | pcieBar2Access (n : Fin 2097152) (a : BarAcc) (up : Upset)
  /-- QSPI_READ (R322) -/
  | qspiRead (addr : BitVec 34) (n : Nat) (ups : List Upset)
  /-- QSPI_WRITE (R322) -/
  | qspiWrite (addr : BitVec 34) (ws : List Word) (cut : Bool) (ups : List Upset)
  /-- QSPI_BAD_OPCODE (R322) -/
  | qspiBadOpcode
  /-- HOST_FRAME_READ (R323) -/
  | hostFrameRead (f : HFrame) (n : Nat) (ups : List Upset)
  /-- HOST_FRAME_WRITE (R323) -/
  | hostFrameWrite (f : HFrame) (ws : List Word) (ups : List Upset)
  /-- HOST_SQDB (R325) -/
  | hostSqdb (w : Who) (q : Fin 65) (v : BitVec 12)
  /-- HOST_CQDB (R325) -/
  | hostCqdb (w : Who) (q : Fin 65) (v : BitVec 12)
  /-- SQ_FETCH (R328) -/
  | sqFetch
  /-- HANDOVER (R331) -/
  | handover (q : Fin 65)
  /-- CREATE_SQ (R332) -/
  | createSq
  /-- DELETE_SQ (R332) -/
  | deleteSq
  /-- CREATE_CQ (R332) -/
  | createCq
  /-- DELETE_CQ (R332) -/
  | deleteCq
  /-- HOST_CPL (R334) -/
  | hostCpl (w : Who) (q : BitVec 7) (slot : BitVec 6) (status : BitVec 16)
  /-- DATA_WRITE_BACK (R333) -/
  | dataWriteBack (q : Fin 65) (ok : Bool)
  /-- RECORD_PUBLISH (R335) -/
  | recordPublish (q : Fin 65)
  /-- VECTOR_RESEND (R336) -/
  | vectorResend (q : Fin 65)
  /-- HOST_DISABLE (R337) -/
  | hostDisable (w : Who)
  /-- HOST_ENABLE (R337) -/
  | hostEnable (w : Who)
  /-- ETH_FRAME_RECEIVE (R344) -/
  | ethFrameReceive (m : Fin 2) (len : Nat) (fcs : Bool) (etype : BitVec 16) (sid : BitVec 64)
  /-- GPTP_MESSAGE (R345) -/
  | gptpMessage (m : Fin 2) (msg : GptpMsg) (offset : Int)
  /-- LISTENER_FRAME (R350) -/
  | listenerFrame (m : Fin 2) (i : Fin 64) (fmt : AafFormat) (ch nsr : Nat) (seq : BitVec 8) (tv : Bool) (ts : BitVec 32) (raw : List Nat) (sub : Fin 1000)
  /-- LISTENER_PRESENT (R350) -/
  | listenerPresent (m : Fin 2) (i : Fin 64) (sub : Fin 1000)
  /-- TALKER_FRAME (R349) -/
  | talkerFrame (m : Fin 2) (i : Fin 64) (sub : Fin 1000)
  /-- MAC_TRANSMIT (R341) -/
  | macTransmit (m : Fin 2) (sub : Fin 1000) (tenth : Fin 10) (psub : Fin 1000)
  /-- GCL_CYCLE_START (R343) -/
  | gclCycleStart (m : Fin 2)
  /-- GCL_SWAP (R343) -/
  | gclSwap (w : Who) (m : Fin 2)
  /-- CRF_TALKER_PDU (R353) -/
  | crfTalkerPdu (m : Fin 2) (ev : CrfEvents)
  /-- ETH_PTP_CFG_WRITE (R345) -/
  | ethPtpCfgWrite (w : Who) (m : Fin 2) (v : Word)
  /-- ETH_PTP_TIME_READ (R345) -/
  | ethPtpTimeRead (w : Who) (m : Fin 2) (sub : Fin 1000)
  /-- STRM_CFG_WRITE (R348) -/
  | strmCfgWrite (w : Who) (m : Fin 2) (talk : Bool) (i : Fin 64) (v : Word)
  /-- ETH_QAV_WRITE (R342) -/
  | ethQavWrite (w : Who) (m : Fin 2) (b : Bool) (v : Word)
  /-- APLL_RUN_WRITE (R351) -/
  | apllRunWrite (w : Who) (run : Bool)
  /-- APLL_SRC_CHANGE (R352) -/
  | apllSrcChange (w : Who) (src : BitVec 2) (crfmac : Bool)
  /-- PLL_LOCK (R351) -/
  | pllLock (pherr : Int)
  /-- PLL_LOSS (R352) -/
  | pllLoss (pherr : Int)
  /-- CELL_RECEIVE (R356) -/
  | cellReceive (p : Fin 2) (ws : List Word)
  /-- CELL_RESEND (R355) -/
  | cellResend (p : Fin 2) (ack : BitVec 8)
  /-- LINK_RETRAIN (R355) -/
  | linkRetrain (p : Fin 2) (ok : Bool)
  /-- CHAIN_WRITE (R360) -/
  | chainWrite (walled : Bool) (ups : List Upset)
  /-- CHAIN_READ (R360) -/
  | chainRead (walled : Bool) (ups : List Upset)
  /-- CHAIN_RDATA (R360) -/
  | chainRdata
  /-- CHAIN_EVENT (R357) -/
  | chainEvent
  /-- ENUM (R358) -/
  | enum
  /-- ENUM_END (R358) -/
  | enumEnd
  /-- ENUM_DONE (R358) -/
  | enumDone
  /-- PORT_UNCONNECTED (R358) -/
  | portUnconnected (p : Fin 2)
  /-- ROUTE_CELL (R361) -/
  | routeCell
  /-- CHAIN_ROUTE_WRITE (R361) -/
  | chainRouteWrite (w : Who) (v : Word)
  /-- LINK_LOST (R359) -/
  | linkLost
  /-- LINK_DOWN (R359) -/
  | linkDown (p : Fin 2)
  /-- BCAST (R361) -/
  | bcast (walled : Bool) (up : Upset)
  /-- CHAIN_BCAST_DATA_WRITE (R361) -/
  | chainBcastDataWrite (w : Who) (v : Word)
  /-- REENUM (R359) -/
  | reenum (w : Who)
  /-- WAKE_UP (R362) -/
  | wakeUp (w : Who)
  /-- WAKE_DN (R362) -/
  | wakeDn (w : Who)
  /-- CHAIN_WAKE_PATTERN (R362) -/
  | chainWakePattern (down : Bool)
  /-- WAKE_FRAME (R363) -/
  | wakeFrame (m : Fin 2) (f : WakeFrame)
  /-- PHY_INTERRUPT_WAKE (R363) -/
  | phyInterruptWake (m : Fin 2)
  /-- BOOT_ROM_READY (R374) -/
  | bootRomReady (trimBad : Bool)
  /-- BOOT_RXLEN_WRITE (R367) -/
  | bootRxlenWrite (src : Fin 4) (v : Word)
  /-- SEED_LOAD (R383) -/
  | seedLoad (addr len : BitVec 32)
  /-- GRAFT (R378) -/
  | graft (scion tries : BitVec 8) (block : BitVec 24)
  /-- BOOT_GRAFT_GO (R378) -/
  | bootGraftGo (w : Who) (v : Word)
  /-- PWR_STOP (R389) -/
  | pwrStop (mask : BitVec 24)
  /-- DOMAIN_DRAIN_COMPLETE (R390) -/
  | domainDrainComplete
  /-- DOMAIN_DRAIN_TIMEOUT (R390) -/
  | domainDrainTimeout (src : BitVec 10)
  /-- DOMAIN_SWITCH_OPEN (R390) -/
  | domainSwitchOpen
  /-- PWR_RUN (R393) -/
  | pwrRun (mask : BitVec 24)
  /-- PWR_RUNREQ (R393) -/
  | pwrRunreq (w : Who) (mask : BitVec 24)
  /-- DOMAIN_RESTORED (R394) -/
  | domainRestored
  /-- DEVICE_STOP (R395) -/
  | deviceStop
  /-- DEVICE_WAKE (R396) -/
  | deviceWake (x : WakeSrc)
  /-- PWR_VOLT (R398) -/
  | pwrVolt (mv : BitVec 16) (mode : BitVec 8) (ack : Bool)
  /-- VOLT_STEP (R398) -/
  | voltStep (ack : Bool)
  /-- VREADY_RISE (R398) -/
  | vreadyRise
  /-- SETTLE_DONE (R398) -/
  | settleDone
  /-- VOLT_FAIL (R399) -/
  | voltFail
  /-- VDROP (R400) -/
  | vdrop
  /-- PWR_STATUS (R403) -/
  | pwrStatus
  /-- DISCIPLINE_LOSS (R401) -/
  | disciplineLoss
  /-- HEARTBEAT_STALL (R407) -/
  | heartbeatStall (t : TineNo)
  /-- NURS_RETIRE (R407) -/
  | nursRetire (w : Who) (t : BitVec 8)
  /-- REINSTATE (R406) -/
  | reinstate (w : Who) (t : BitVec 8)
  /-- REINSTATE_TEST_DONE (R406) -/
  | reinstateTestDone (passed : Bool)
  /-- TINE_REPLACEMENT (R414) -/
  | tineReplacement
  /-- TINE_CKPT_GO (R410) -/
  | tineCkptGo (t : TineNo) (full : Bool) (v : Word)
  /-- CKPT_COMMIT (R410) -/
  | ckptCommit (t : TineNo)
  /-- SEC_CHALLENGE (R426) -/
  | secChallenge (probe : Bool) (nonce : BitVec 256)
  /-- NONCE_EXPIRY (R426) -/
  | nonceExpiry (probe : Bool)
  /-- SEC_RESPOND (R426) -/
  | secRespond (probe : Bool) (data : List Byte)
  /-- SEC_CLOSE (R427) -/
  | secClose (probe : Bool)
  /-- SEC_LIFECYCLE (R422) -/
  | secLifecycle (target : BitVec 8)
  /-- SEC_SVN (R424) -/
  | secSvn (v : BitVec 8)
  /-- SEC_ZEROIZE (R433) -/
  | secZeroize
  /-- SEC_OTP_WRITE (R423) -/
  | secOtpWrite (field : BitVec 8) (data : List Byte)
  /-- SEC_CTRL_ZERO (R433) -/
  | secCtrlZero (w : Who)
  /-- TAP_RESET (R427) -/
  | tapReset
  /-- BYPASS (R428) -/
  | bypass
  /-- IDCODE (R428) -/
  | idcode
  /-- SAMPLE_PRELOAD (R428) -/
  | samplePreload
  /-- EXTEST (R428) -/
  | extest
  /-- CLAMP (R428) -/
  | clamp
  /-- HIGHZ (R428) -/
  | highz
  /-- DAP (R428) -/
  | dap
  /-- DEBUG_HALT (R430) -/
  | debugHalt (probe : Bool) (t : TineNo)
  /-- DEBUG_RESUME (R429) -/
  | debugResume (probe : Bool) (t : TineNo)
  /-- DEBUG_STEP (R430) -/
  | debugStep (probe : Bool) (t : TineNo)
  /-- DEBUG_MEMORY_ACCESS (R429) -/
  | debugMemoryAccess (probe : Bool) (a : DbgAddr) (wr : Option Word) (up : Upset)
  /-- DEBUG_REGISTER_ACCESS (R429) -/
  | debugRegisterAccess (probe : Bool) (r : DbgReg) (wr : Option Word)
  /-- GAUGE_CFG_WRITE (R440) -/
  | gaugeCfgWrite (w : Who) (g : Fin 64) (v : Word)
  /-- GAUGE_WINDOW_CLOSE (R439) -/
  | gaugeWindowClose (g : Fin 64)
  /-- GAUGE_SNAP (R439) -/
  | gaugeSnap (w : Who) (hi : BitVec 32)
  /-- SNAPSHOT_CLOSE (R439) -/
  | snapshotClose
  /-- GAUGE_SNAPSHOT (R439) -/
  | gaugeSnapshot (mask : BitVec 64) (dlen : Nat)
  /-- GAUGE_RECORD_READ (R441) -/
  | gaugeRecordRead (w : Who)
  /-- GAUGE_FREC_READ (R441) -/
  | gaugeFrecRead (w : Who)
  /-- DELAY_LINE_CALIBRATION (R442) -/
  | delayLineCalibration (steps : BitVec 12)
  /-- LINE_CAL (R445) -/
  | lineCal (r h : BitVec 8) (rref : BitVec 32)
  /-- LINE_DCR (R444) -/
  | lineDcr (r h : BitVec 8) (dcl settle avg : Nat)
  /-- LINE_IMP (R446) -/
  | lineImp (r h : BitVec 8) (amp f1 f2 n dlen : Nat)
  /-- LINE_CLASSIFY (R447) -/
  | lineClassify (r h cmcell : BitVec 8) (rshort ropen : BitVec 32)
  /-- FAULT_READ (R448) -/
  | faultRead (first count : Nat) (dlen : Nat)
  /-- FAULT_CLEAR (R448) -/
  | faultClear (seq : BitVec 32)
  /-- PAGE_CTRL_WRITE (R454) -/
  | pageCtrlWrite (w : Who) (pg : Fin 512) (v : Word)
  /-- PAGE_LOCK (R454) -/
  | pageLock (w : Who) (pg : Fin 512)
  /-- PAGE_SOFT_RESET (R454) -/
  | pageSoftReset (w : Who) (pg : Fin 512)
  /-- PAGE_IRQ_CLR (R455) -/
  | pageIrqClr (w : Who) (pg : Fin 512) (v : Word)
  /-- PAGE_IRQ_EN_WRITE (R455) -/
  | pageIrqEnWrite (w : Who) (pg : Fin 512) (v : Word)
  /-- PAGE_OWNER_WRITE (R456) -/
  | pageOwnerWrite (w : Who) (pg : Fin 512) (walled : Bool)
  /-- DEVICE_RESET (R465) -/
  | deviceReset
  /-- AON_RESET (R465) -/
  | aonReset
  /-- RESET_RELEASE (R465) -/
  | resetRelease (bootsel : Fin 8)
  /-- VCORE_UNDERVOLTAGE (R466) -/
  | vcoreUndervoltage
  /-- VCORE_SUPERVISOR_RELEASE (R466) -/
  | vcoreSupervisorRelease
  /-- GAUGE_TICK_SAMPLE (R437) -/
  | gaugeTickSample (g : Fin 64) (v : Nat)
  /-- DISCIPLINE_LOCK (R401) -/
  | disciplineLock
  /-- ETH_LINK_UP (R348) -/
  | ethLinkUp (m : Fin 2)
  /-- ETH_LINK_DOWN (R348) -/
  | ethLinkDown (m : Fin 2)
  /-- SYNC_INTERVAL (R340) -/
  | syncInterval (m : Fin 2) (sub : Fin 1000)
  /-- CHAIN_PORT_TRAINED (R359) -/
  | chainPortTrained (p : Fin 2) (host : Bool)
  /-- PCIE_LINK_UP (R455) -/
  | pcieLinkUp (gen : Fin 3) (lanes : Fin 2)
  /-- PCIE_LINK_DOWN (R455) -/
  | pcieLinkDown
  /-- PCIE_CONFIG_WRITE (R462) -/
  | pcieConfigWrite (a : MsixCfg)
  /-- HOST_READ_COMPLETION (R328) -/
  | hostReadCompletion (q : Fin 65) (ok : Bool) (bs : List Byte)
  /-- COMPLETION_TIMEOUT (R329) -/
  | completionTimeout (q : Fin 65)
  /-- GCL_ENTRY_START (R343) -/
  | gclEntryStart (m : Fin 2)
  /-- CELL_SEND (R356) -/
  | cellSend (p : Fin 2)
  /-- PER_BANK_REFRESH (R185) -/
  | perBankRefresh
  /-- LINE_TEST_PHASE_END (R444) -/
  | lineTestPhaseEnd (r : Fin 4) (h : Fin 32)
  /-- OTP_WRITE_COMPLETE (R422) -/
  | otpWriteComplete
  deriving DecidableEq, Repr

end Sys2Proof
end

