-- ==== Sys2Proof/Machine/Bits.lean ====
section
/-! DEFINITION. Bit fields of words (R6), sign extension, saturation and byte order: the helpers every block uses. -/

namespace Sys2Proof.Machine

/-- The mask of a field of `len` bits from bit `lo` (R6). -/
def fmask (lo len : Nat) : Nat := (2 ^ len - 1) * 2 ^ lo

/-- Field NAME[lo + len - 1 : lo] of a word, as a number (R6). -/
def getF (w : Word) (lo len : Nat) : Nat := (w.extractLsb' lo len).toNat

/-- A word with the field of `len` bits from bit `lo` replaced by `v` modulo 2^len. -/
def setF (w : Word) (lo len v : Nat) : Word :=
  (w &&& ~~~(wd (fmask lo len))) ||| (wd ((v % 2 ^ len) * 2 ^ lo) &&& wd (fmask lo len))

/-- Bit `i` of a word. -/
def bit (w : Word) (i : Nat) : Bool := w.getLsbD i

/-- A bit as a number. -/
def b2n (b : Bool) : Nat := if b then 1 else 0

/-- A saturating count: add `n`, stop at `top` (the counters of R69 and its likes). -/
def satAdd (top x n : Nat) : Nat := min top (x + n)

/-- The low `w` bits of `n` read as a two's-complement integer of width `w` (R33). -/
def sx (w n : Nat) : Int :=
  if n % 2 ^ w ≥ 2 ^ (w - 1) then (n % 2 ^ w : Nat) - (2 ^ w : Nat) else (n % 2 ^ w : Nat)

/-- Clamp an integer to the two's-complement range of width `w`. -/
def satI (w : Nat) (v : Int) : Int :=
  if v < -(2 ^ (w - 1) : Nat) then -(2 ^ (w - 1) : Nat)
  else if v > (2 ^ (w - 1) : Nat) - 1 then (2 ^ (w - 1) : Nat) - 1 else v

/-- The non-negative residue of an integer modulo 2^w. -/
def modI (w : Nat) (v : Int) : Nat := (v % (2 ^ w : Nat)).toNat

/-- Five bytes of a word, low byte first (R322, R367). -/
def wordBytes (w : Word) : List Byte :=
  (List.range 5).map fun k => BitVec.ofNat 8 (getF w (8 * k) 8)

/-- A number from bytes, low byte first. -/
def leBytes (bs : List Byte) : Nat :=
  match bs with
  | [] => 0
  | b :: rest => b.toNat + 256 * leBytes rest

/-- A number from bytes, high byte first. -/
def beBytes (bs : List Byte) : Nat := leBytes bs.reverse

/-- `n` bytes of a number, low byte first. -/
def toLe (n v : Nat) : List Byte :=
  match n with
  | 0 => []
  | k + 1 => BitVec.ofNat 8 (v % 256) :: toLe k (v / 256)

/-- Bytes `i` to `i + n - 1` of a byte string. -/
def bytesAt (bs : List Byte) (i n : Nat) : List Byte := (bs.drop i).take n

/-- The little-endian number in bytes `i` to `i + n - 1`. -/
def numAt (bs : List Byte) (i n : Nat) : Nat := leBytes (bytesAt bs i n)

/-- The low `w` bits of `x` in reverse order (brev of R95, R111). -/
def brevN (w x : Nat) : Nat :=
  match w with
  | 0 => 0
  | k + 1 => (x % 2) * 2 ^ k + brevN k (x / 2)

/-- The smallest k ≥ `k0` with 2^k ≥ n, searched over `fuel` steps (K of R94). -/
def ceilLogFrom (fuel k0 n : Nat) : Nat :=
  match fuel with
  | 0 => k0
  | f + 1 => if n ≤ 2 ^ k0 then k0 else ceilLogFrom f (k0 + 1) n

/-- The smallest k with 2^k ≥ n, for n up to 2^20 (K of R94). -/
def ceilLog (n : Nat) : Nat := ceilLogFrom 20 0 n

/-- Division rounded to nearest, exact halves to the even integer (RHE of R58). -/
def rheDiv (n : Int) (d : Nat) : Int :=
  let q := n / (d : Int)
  let r := n % (d : Int)
  if 2 * r > d then q + 1
  else if 2 * r = d then (if q % 2 = 0 then q else q + 1)
  else q

/-- A word with bit `i` set to `b`. -/
def setB (w : Word) (i : Nat) (b : Bool) : Word := setF w i 1 (b2n b)

/-- The signed value of a word (I40 of Table 2-1). -/
def sw (w : Word) : Int := w.toInt

/-- Position of the first element that `p` accepts. -/
def findPos {α : Type} (p : α → Bool) (l : List α) : Option Nat :=
  match l with
  | [] => none
  | a :: rest => if p a then some 0 else (findPos p rest).map (· + 1)

/-- Replace the element at position `i`, if there is one. -/
def setAt {α : Type} (l : List α) (i : Nat) (a : α) : List α :=
  match l, i with
  | [], _ => []
  | _ :: rest, 0 => a :: rest
  | b :: rest, k + 1 => b :: setAt rest k a

/-- Remove the element at position `i`, if there is one. -/
def dropAt {α : Type} (l : List α) (i : Nat) : List α :=
  match l, i with
  | [], _ => []
  | _ :: rest, 0 => rest
  | b :: rest, k + 1 => b :: dropAt rest k

/-- Insert a number into an ascending list without repeats. -/
def insSorted (l : List Nat) (a : Nat) : List Nat :=
  match l with
  | [] => [a]
  | b :: rest => if a < b then a :: b :: rest else if a = b then b :: rest else b :: insSorted rest a

/-- Apply `f` once for each element of a list, left to right. -/
def forAll {α σ : Type} (l : List α) (f : α → σ → σ) (s : σ) : σ :=
  match l with
  | [] => s
  | a :: rest => forAll rest f (f a s)

end Sys2Proof.Machine
end

