-- ==== Sys2Proof/Machine/Crypto.lean ====
section
/-! DEFINITION. SHA-256 (FIPS 180-4) and ECDSA verification on P-256 (FIPS 186-4), which R371 and R426 name. -/

namespace Sys2Proof.Machine

/-! ## SHA-256

The two families of constants are computed from what FIPS 180-4 says they are, and a block is run as the two coupled
sequences that its working variables spell: the newest `a` values and the newest `e` values. -/

abbrev W32 := BitVec 32

/-- The primes below 312, which are the first 64. -/
def shaPrimes : List Nat :=
  (List.range 312).filter fun n => decide (2 ≤ n) && (List.range n).all fun d => decide (d < 2) || decide (n % d ≠ 0)

/-- The largest number of `bits` more bits after `acc` whose `e`-th power is at most `n`. -/
def rootDown (e n bits acc : Nat) : Nat :=
  match bits with
  | 0 => acc
  | k + 1 => rootDown e n k (if (acc + 2 ^ k) ^ e ≤ n then acc + 2 ^ k else acc)

/-- The first 32 bits of the fractional part of the `e`-th root of `p`. -/
def rootFrac (e p : Nat) : W32 := BitVec.ofNat 32 (rootDown e (p * 2 ^ (32 * e)) 37 0)

/-- The constant of each round: cube roots. -/
def shaK : List W32 := shaPrimes.map (rootFrac 3)

/-- The exclusive or of two rotations and a third word. -/
def shaMix (x : W32) (i j : Nat) (last : W32) : W32 := x.rotateRight i ^^^ x.rotateRight j ^^^ last

/-- The schedule's next word from its words, newest first. -/
def shaNext (w : Nat → W32) : W32 :=
  w 15 + shaMix (w 14) 7 18 (w 14 >>> 3) + w 6 + shaMix (w 1) 17 19 (w 1 >>> 10)

/-- `n` more words of a schedule, newest first. -/
def shaSchedule (n : Nat) (w : List W32) : List W32 :=
  match n with
  | 0 => w
  | k + 1 => shaSchedule k (shaNext (fun i => w.getD i 0) :: w)

/-- The hash under way: the latest four values of each sequence, newest first. -/
structure ShaRun where
  as : List W32
  es : List W32
  deriving DecidableEq, Repr

/-- The value before the first block: square roots of the first eight primes. -/
def shaStart : ShaRun :=
  let h := (shaPrimes.take 8).map (rootFrac 2)
  { as := h.take 4, es := h.drop 4 }

/-- One round with the sum of its constant and its schedule word. -/
def shaStep (r : ShaRun) (kw : W32) : ShaRun :=
  let x (i : Nat) : W32 := r.as.getD i 0
  let y (i : Nat) : W32 := r.es.getD i 0
  let choice := y 2 ^^^ (y 0 &&& (y 1 ^^^ y 2))
  let majority := (x 0 &&& x 1) ||| (x 2 &&& (x 0 ||| x 1))
  let u := kw + y 3 + choice + shaMix (y 0) 6 11 ((y 0).rotateRight 25)
  { as := (u + majority + shaMix (x 0) 2 13 ((x 0).rotateRight 22)) :: r.as.take 3, es := (x 3 + u) :: r.es.take 3 }

/-- One block of sixteen words. -/
def shaBlock (h : ShaRun) (m : List W32) : ShaRun :=
  let v := (List.zipWith (· + ·) shaK (shaSchedule 48 m.reverse).reverse).foldl shaStep h
  { as := List.zipWith (· + ·) h.as v.as, es := List.zipWith (· + ·) h.es v.es }

/-- The 32-bit words of a byte string, high byte first. -/
def beWords (n : Nat) (bs : List Byte) : List W32 :=
  (List.range n).map fun i => BitVec.ofNat 32 (beBytes (bytesAt bs (4 * i) 4))

/-- A message with its padding: a one bit, zeros, and its length in bits in the last eight bytes of a block. -/
def shaPad (bs : List Byte) : List Byte :=
  bs ++ 0x80 :: List.replicate ((64 - (bs.length + 9) % 64) % 64) 0 ++ (toLe 8 (8 * bs.length)).reverse

/-- SHA-256 of a byte string. -/
def sha256 (bs : List Byte) : List Byte :=
  let p := shaPad bs
  let r := (List.range (p.length / 64)).foldl (fun h k => shaBlock h (beWords 16 (bytesAt p (64 * k) 64))) shaStart
  ((r.as ++ r.es).map fun w => (toLe 4 w.toNat).reverse).flatten

/-! ## P-256 -/

def p256P : Nat := 0xffffffff00000001000000000000000000000000ffffffffffffffffffffffff
def p256N : Nat := 0xffffffff00000000ffffffffffffffffbce6faada7179e84f3b9cac2fc632551
def p256B : Nat := 0x5ac635d8aa3a93e7b3ebbd55769886bc651d06b0cc53b0f63bce3c3e27d2604b
def p256G : Nat × Nat :=
  (0x6b17d1f2e12c4247f8bce6e563a440f277037d812deb33a0f4a13945d898c296,
   0x4fe342e2fe1a7f9b8ee7eb4a7c0f9e162bce33576b315ececbb6406837bf51f5)

/-- b^e modulo m, over `n` bits of e from the top. -/
def powMod (n b e m : Nat) : Nat :=
  match n with
  | 0 => 1 % m
  | k + 1 =>
    let h := powMod k b (e / 2) m
    let q := h * h % m
    if e % 2 = 1 then q * b % m else q

/-- Inverse modulo a prime below 2^256. -/
def invMod (a m : Nat) : Nat := powMod 256 a (m - 2) m

/-- Difference modulo m. -/
def subMod (a b m : Nat) : Nat := (a + m - b % m) % m

/-- Sum of two points of the curve; none is the point at infinity. -/
def ecAdd (x y : Option (Nat × Nat)) : Option (Nat × Nat) :=
  match x, y with
  | none, q => q
  | p, none => p
  | some (x1, y1), some (x2, y2) =>
    if x1 = x2 ∧ (y1 + y2) % p256P = 0 then none
    else
      let l := if x1 = x2 then (3 * x1 * x1 + (p256P - 3)) * invMod (2 * y1 % p256P) p256P % p256P
        else subMod y2 y1 p256P * invMod (subMod x2 x1 p256P) p256P % p256P
      let x3 := subMod (subMod (l * l) x1 p256P) x2 p256P
      some (x3, subMod (l * subMod x1 x3 p256P) y1 p256P)

/-- A multiple of a point, over `n` bits. -/
def ecMul (n k : Nat) (q : Option (Nat × Nat)) : Option (Nat × Nat) :=
  match n with
  | 0 => none
  | j + 1 =>
    let h := ecMul j (k / 2) q
    let d := ecAdd h h
    if k % 2 = 1 then ecAdd d q else d

/-- A point lies on the curve. -/
def ecOn (x y : Nat) : Bool :=
  decide (x < p256P) && decide (y < p256P) &&
    decide (y * y % p256P = (x * x % p256P * x + (p256P - 3) * x + p256B) % p256P)

/-- Verify an ECDSA signature (r, s) over a digest with a public key (X, Y), all big-endian bytes. -/
def ecdsaOk (key sig digest : List Byte) : Bool :=
  let x := beBytes (bytesAt key 0 32)
  let y := beBytes (bytesAt key 32 32)
  let r := beBytes (bytesAt sig 0 32)
  let t := beBytes (bytesAt sig 32 32)
  let z := beBytes digest
  decide (1 ≤ r) && decide (r < p256N) && decide (1 ≤ t) && decide (t < p256N) && ecOn x y &&
    (let w := invMod t p256N
     match ecAdd (ecMul 256 (z * w % p256N) (some p256G)) (ecMul 256 (r * w % p256N) (some (x, y))) with
     | some (x1, _) => decide (x1 % p256N = r)
     | none => false)

end Sys2Proof.Machine
end

