-- ==== Sys2Proof/Config.lean ====
section
/-! DEFINITION. What the spec leaves open and no proof may see: the free values. Each is a constant with no body, so a
claim is true whatever it is. The step supplies `free` with a counter of the state that it advances at every use. -/

namespace Sys2Proof

/-- A fresh word for a value the spec leaves open (assumption 3). -/
opaque Config.freeWord : Nat → Word

/-- A fresh bit for a choice the spec leaves open (assumption 3). -/
opaque Config.freeBit : Nat → Bool

/-- A fresh number for a choice the spec leaves open (assumption 3). -/
opaque Config.freeNat : Nat → Nat

/-- The sine of a tone of the given phase, in S.3.36 (R315 gives no rounding; assumption 4). -/
opaque Config.sine : BitVec 32 → Word

/-- The 802.1Q tag of frames for which no VID and no PCP is given (R339; assumption 122). -/
opaque Config.plainTag : Nat

/-- The ns by which REFIN advances a grandmaster's time in an AON tick (R345; assumption 123). -/
opaque Config.refinStep : Nat → Nat

/-- The check word of a factory trim record (R74 names none; assumption 116). -/
opaque Config.trimCheck : List (Nat × Int) → Nat

/-- The weight that a decimator of output rate code `ORATE` gives bit `k` of a window of `n` bits (R278 gives its response, not its
coefficients; assumption 117). -/
opaque Config.pdmTap : Nat → Nat → Nat → Int

/-- The rounding of a decimated sample of output rate code `ORATE`, and the sample where the weights give none (R278, assumption
117). -/
opaque Config.decimated : Nat → List Bool → Int

/-- The resource kind a WORLD fault puts into FINFO (Table 6-4 names no codes; assumption 5): 0 memory page, 1 register
page, 2 hopper, 3 channel. -/
opaque Config.resourceKind : Nat → Word

end Sys2Proof
end

