-- ==== Sys2Proof/Machine/RegMap.lean ====
section
/-! DEFINITION. The register pages: the page directory of Table 21-3 and, for every named offset of every page kind, what
the register tables give it: its reset value, its RW bits, its W1C bits, the bits its CLR bit zeroes and its Scion entry. -/

namespace Sys2Proof.Machine

/-- The block types of Table 21-3. -/
inductive PageKind where
  | dev | aon | pwr | sec | nurs | gauge | xlat | shed | dram | trel | trch | hop | host | pcie | qspi | eth
  | chain | boot | rowc | rowp | hoe | rail | plot | tine
  deriving DecidableEq, Repr

/-- The block and instance of a page number; none for a hole (R460). -/
def pageKind (pg : Nat) : Option (PageKind × Nat) :=
  if pg = 0x000 then some (.dev, 0)
  else if pg = 0x001 then some (.aon, 0)
  else if pg = 0x002 then some (.pwr, 0)
  else if pg = 0x003 then some (.sec, 0)
  else if pg = 0x004 then some (.nurs, 0)
  else if pg = 0x005 then some (.gauge, 0)
  else if pg = 0x006 then some (.xlat, 0)
  else if pg = 0x007 then some (.shed, 0)
  else if pg = 0x008 then some (.dram, 0)
  else if pg = 0x009 then some (.trel, 0)
  else if pg < 0x00A then none
  else if pg ≤ 0x00D then some (.trch, pg - 0x00A)
  else if pg ≤ 0x00F then some (.hop, pg - 0x00E)
  else if pg = 0x010 then some (.host, 0)
  else if pg = 0x011 then some (.pcie, 0)
  else if pg = 0x012 then some (.qspi, 0)
  else if pg ≤ 0x014 then some (.eth, pg - 0x013)
  else if pg = 0x015 then some (.chain, 0)
  else if pg = 0x016 then some (.boot, 0)
  else if pg < 0x020 then none
  else if pg ≤ 0x023 then some (.rowc, pg - 0x020)
  else if pg ≤ 0x027 then some (.rowp, pg - 0x024)
  else if pg ≤ 0x02B then some (.hoe, pg - 0x028)
  else if pg = 0x02C then some (.rail, 0)
  else if pg < 0x040 then none
  else if pg ≤ 0x04F then some (.plot, pg - 0x040)
  else if pg < 0x100 then none
  else if pg ≤ 0x18F then some (.tine, pg - 0x100)
  else none

/-- TYPE of PAGE_ID (Table 21-3). -/
def pageType (k : PageKind) : Nat :=
  match k with
  | .dev => 0x01 | .aon => 0x02 | .pwr => 0x03 | .sec => 0x04 | .nurs => 0x05 | .gauge => 0x06 | .xlat => 0x07
  | .shed => 0x08 | .dram => 0x09 | .trel => 0x0A | .trch => 0x0B | .hop => 0x0C | .host => 0x0D | .pcie => 0x0E
  | .qspi => 0x0F | .eth => 0x10 | .chain => 0x11 | .boot => 0x12 | .rowc => 0x13 | .rowp => 0x14 | .hoe => 0x15
  | .rail => 0x16 | .plot => 0x17 | .tine => 0x18

/-- PAGE_FEAT (Table 21-3, R453). -/
def pageFeat (k : PageKind) : Nat :=
  match k with
  | .sec => 0x006 | .nurs => 0x105 | .shed => 0x101 | .dram => 0x101 | .trel => 0x501
  | _ => 0

/-- NIRQ of PAGE_FEAT: the number of defined RAW bits. -/
def pageNirq (k : PageKind) : Nat := pageFeat k / 256

/-- PAGE_OWNER at reset: bit 0 the world, bit 1 FIXED (Table 21-3). -/
def pageOwnerReset (k : PageKind) : Nat :=
  match k with
  | .sec | .nurs => 2
  | .host | .pcie | .qspi | .boot => 0
  | _ => 1

/-- What the register tables give one offset. -/
structure RegSpec where
  /-- Reset value. -/
  rst : Nat := 0
  /-- Bits a plain write stores. -/
  rw : Nat := 0
  /-- Bits a write of 1 clears. -/
  w1c : Nat := 0
  /-- Bits the CLR bit zeroes. -/
  clr : Nat := 0
  /-- The CLR bit. -/
  clrBit : Nat := 39
  /-- A scion may change it (R13). -/
  scion : Bool := false
  /-- Bits that are RWL (R11). -/
  rwl : Nat := 0
  deriving DecidableEq, Repr

/-- All 40 bits. -/
def all40 : Nat := 0xFFFFFFFFFF

/-- A read-only register. -/
def rsRo (rst : Nat) : RegSpec := { rst := rst }

/-- A read-write register that only a rootstock may set. -/
def rsRw (rw rst : Nat) : RegSpec := { rst := rst, rw := rw }

/-- A read-write register that a scion may change. -/
def rsSc (rw rst : Nat) : RegSpec := { rst := rst, rw := rw, scion := true }

/-- A count register with a CLR bit. -/
def rsCnt (clr : Nat) : RegSpec := { clr := clr }

/-- A status register with W1C bits. -/
def rsW1c (w1c rst : Nat) : RegSpec := { rst := rst, w1c := w1c }

/-- The common header (Table 21-1); PAGE_CTRL, PAGE_IRQ_CLR and PAGE_OWNER have behaviour of their own. -/
def headerSpec (k : PageKind) (off : Nat) : RegSpec :=
  match off with
  | 2 => rsRw 0x7FFFFB 0
  | 3 => rsW1c 4 0
  | 5 => rsSc (2 ^ pageNirq k - 1) 0
  | 7 => rsRw 1 (pageOwnerReset k)
  | _ => {}

/-- A mailbox and route face of five registers (Table 1-3). -/
def faceSpec (j : Nat) (route : Bool) : RegSpec :=
  if j = 3 then { clr := 0xFF00, clrBit := 31 }
  else if j = 4 ∧ route then rsSc 0xFFFFF7 0
  else {}

/-- PLOTp (Table 1-3). -/
def plotSpec (off : Nat) : RegSpec :=
  if 0x010 ≤ off ∧ off ≤ 0x014 then faceSpec (off - 0x010) true
  else if 0x018 ≤ off ∧ off ≤ 0x037 then faceSpec ((off - 0x018) % 4) false
  else {}

/-- DEV (Tables 1-3, 1-7, 15-6 and 21-4). -/
def devSpec (off : Nat) : RegSpec :=
  if 0x010 ≤ off ∧ off ≤ 0x014 then faceSpec (off - 0x010) true
  else if 0x018 ≤ off ∧ off ≤ 0x037 ∧ (off - 0x018) % 8 ≤ 4 then faceSpec ((off - 0x018) % 8) true
  else if 0x040 ≤ off ∧ off ≤ 0x044 then faceSpec (off - 0x040) true
  else match off with
  | 0x048 => rsRw 0x103FF 0x10
  | 0x04A => rsW1c 0x8000000000 0
  | 0x060 => rsRo 0x00AD410512
  | 0x061 => rsRo 0x0000000110
  | 0x062 => rsRo 0x0090108090
  | 0x063 => rsRo 0x03A0201000
  | 0x050 => rsRw 0xF 0
  | 0x051 => rsW1c 0x4000000 0
  | 0x052 => rsCnt 0xFFFF
  | _ => {}

/-- TINEt (Tables 3-8, 4-3, 5-4, 6-6, 7-3, 8-8 and 18-6). -/
def tineSpec (off : Nat) : RegSpec :=
  if 0x080 ≤ off ∧ off ≤ 0x09F then
    match (off - 0x080) % 8 with
    | 0 => rsSc 0x1F 0x8
    | 1 | 2 | 3 => rsSc all40 0
    | 4 | 5 | 6 => rsRw all40 0
    | _ => {}
  else if 0x0A4 ≤ off ∧ off ≤ 0x0A7 then rsCnt 0xFFFFFFFF
  else if 0x0C8 ≤ off ∧ off ≤ 0x0CF then rsRw 0x1FFFFFF 0
  else if 0x0D0 ≤ off ∧ off ≤ 0x0D7 then rsRw 0x3FFF 0
  else if 0x0D8 ≤ off ∧ off ≤ 0x0DB then rsRw all40 0
  else if 0x1C0 ≤ off ∧ off ≤ 0x1FF then rsSc 0xFFFF (if off = 0x1FC then 0x3F else 0)
  else if 0x280 ≤ off ∧ off ≤ 0x2C7 then
    match (off - 0x280) % 4 with
    | 0 => rsRw 0x3FFF 0
    | 1 => rsRw 0xFF0F00000 0
    | 2 => rsRw 0x1FFFFF 0
    | _ => {}
  else if 0x2D0 ≤ off ∧ off ≤ 0x31B then rsRw all40 0
  else if 0x04C ≤ off ∧ off ≤ 0x04F then rsSc 0x1FFFFFF 0
  else match off with
  | 0x040 => rsSc 0xFF 0
  | 0x041 => rsRo 0xA0A0
  | 0x042 => rsCnt 0xFFFF0000
  | 0x044 => rsSc 0x3FFFFC001 0
  | 0x046 => rsCnt 0xFFFFFFFF
  | 0x048 => rsSc 0xFFFFF 0
  | 0x04A => rsSc all40 0
  | 0x04B => rsW1c 0x20000 0
  | 0x0A0 => rsSc 0xFFFFFFFF 0x12345679
  | 0x0A1 => rsSc 0xFFFFFFFF 0x87654321
  | 0x0A8 => rsCnt 0xFFFF
  | 0x0C0 => { rst := 0x0030000000, rw := 0xF20000, w1c := 0x16666 }
  | 0x0C1 => rsRw 0x1FFFFF 0
  | 0x0C4 => rsRo 0x00007FFFFF
  | 0x0C5 => rsRo 0x0FFF910460
  | 0x0C6 => rsRo 0x00FD820840
  | 0x0C7 => rsRo 0
  | 0x181 => rsW1c 0xC0000 0x10
  | 0x188 => rsSc 0xFFFFFFFF 0
  | 0x189 => rsSc 0xFFFFFFFF 0
  | 0x18A => rsCnt 0xFFFFFFFF
  | 0x320 => rsSc 0x7FFF 0
  | 0x321 => rsSc 0x7FFF 0
  | 0x322 => rsRw 0x1F 0
  | 0x324 => rsCnt 0xFFFFFFFF
  | _ => {}

/-- NURS (Tables 6-6 and 18-4). -/
def nursSpec (off : Nat) : RegSpec :=
  if 0x020 ≤ off ∧ off ≤ 0x09F then rsRo (9 * ((off - 0x020) / 8) + (off - 0x020) % 8)
  else if 0x0A0 ≤ off ∧ off ≤ 0x0AF then rsRo (0x100 + 9 * (off - 0x0A0) + 8)
  else if 0x0C0 ≤ off ∧ off ≤ 0x13F then
    (if off % 2 = 0 then rsRw 0x1FFFFFFFFF 0 else rsRw 0xFFFFFFFF 0)
  else match off with
  | 0x010 => rsRw 1 0
  | 0x012 => rsRw 0x3FFFFFFFF 0x03E82203E8
  | 0x013 => rsW1c 0x1000000000 0x0FFFF00000
  | 0x016 => rsCnt 0xFFFFFFFFF
  | _ => {}

/-- GAUGE (Table 20-4). -/
def gaugeSpec (off : Nat) : RegSpec :=
  if 0x100 ≤ off ∧ off ≤ 0x1FF then
    match (off - 0x100) % 4 with
    | 0 => rsSc 0x3FFFFFFFFF 0
    | 1 => rsSc 0x1FFFFFFFFF 0
    | 2 => rsSc 0x1FFF 0
    | _ => rsW1c 0x400000 0
  else if 0x200 ≤ off ∧ off ≤ 0x27F then rsRw 0xFFFFFF 0x400000
  else match off with
  | 0x010 | 0x011 => {}
  | 0x013 => rsRw 0x3F 0
  | 0x014 => rsRo 1
  | 0x015 => rsCnt 0xFFFF
  | 0x016 => rsRw 0x3F 0
  | _ => {}

/-- XLAT, SHED and DRAM (Table 8-8). -/
def memSpec (k : PageKind) (off : Nat) : RegSpec :=
  match k, off with
  | .xlat, 0x010 => rsSc 0x3FFFFC001 0
  | .shed, 0x010 => rsCnt 0xFFFFFFFF
  | .shed, 0x012 => rsSc 0x7FFF 0x21
  | .shed, 0x013 => rsSc 0x7FFF 0x21
  | .dram, 0x010 => rsRw 0xF 0
  | .dram, 0x011 => rsCnt 0xFFFFFFFF
  | .dram, 0x013 => rsSc 0x7FFF 0x21
  | _, _ => {}

/-- PCIE and QSPI (Table 21-4). -/
def linkSpec (k : PageKind) (off : Nat) : RegSpec :=
  match k, off with
  | .pcie, 0x011 => rsCnt 0xFFFFFFFF
  | .qspi, 0x010 => rsCnt 0xFFFFFFFF
  | _, _ => {}

/-- HOP0 and HOP1 (Table 11-2). -/
def hopSpec (i off : Nat) : RegSpec :=
  if 0x080 ≤ off then
    match (off - 0x080) % 7 with
    | 0 => rsRw 0x7FFFFF (if i = 1 ∧ 126 ≤ (off - 0x080) / 7 then 0x1840 else 0)
    | 1 => rsSc all40 0
    | 2 => rsRw 0x3FF 1
    | 3 => rsW1c 0x1800000 0
    | 4 => rsCnt 0xFFFFFFFF
    | _ => {}
  else {}

/-- TRCH0–TRCH3 (Tables 9-14, 9-15). -/
def trchSpec (off : Nat) : RegSpec :=
  if 0x100 ≤ off then
    match (off - 0x100) % 0x18 with
    | 0x1 => rsW1c 0x1E000 0
    | 0x2 => rsSc 0x1FFF 0x60
    | 0x3 => rsRw 0x3FF 1
    | 0x4 => rsSc 0xFFFFFFFF 0
    | 0x6 | 0x7 | 0x8 => rsRw 0xFFFF 0
    | 0x9 => rsRw 0xFFFFFFFF 0
    | 0xA | 0xB | 0xC => rsRw 0xFFFF 0
    | 0xD | 0xE => rsSc all40 0
    | 0xF => rsCnt 0xFFFFFFFF
    | _ => {}
  else {}

/-- SEC (Table 19-7). -/
def secSpec (off : Nat) : RegSpec :=
  if 0x020 ≤ off ∧ off ≤ 0x02F then { rw := 0x3FFFFFFFF, rwl := 0x3FFFFFFFF }
  else match off with
  | 0x015 => rsRw 1 0
  | 0x016 => rsCnt 0xFFFFFF
  | 0x018 => rsRw 0x3F 0
  | _ => {}

/-- ROWC pages (Table 12-9). -/
def rowcSpec (off : Nat) : RegSpec :=
  if 0x018 ≤ off ∧ off ≤ 0x01F then rsRw 0x1FFFFFFFFF 0
  else if 0x028 ≤ off ∧ off ≤ 0x02F then rsSc 0xFFFFFFFF 0
  else if 0x040 ≤ off ∧ off ≤ 0x04F then rsSc 0x7FFFFFF 0
  else if 0x080 ≤ off ∧ off ≤ 0x0FF then
    match (off - 0x080) % 16 with
    | 0 => rsRw 0xFFFFFF 0
    | 1 => rsRw 0x3FFFFF 0
    | 4 | 5 | 6 | 7 | 8 | 9 | 10 | 11 => rsRw 0xFFFFFFFF 0
    | _ => {}
  else if 0x100 ≤ off ∧ off ≤ 0x1FF then rsSc 0xFFFFFFFF (if off % 2 = 0 then 0x12345679 else 0x87654321)
  else match off with
  | 0x010 => rsW1c 0x1000 0
  | 0x020 => rsW1c 0x1FF00 0
  | _ => {}

/-- ROWP pages (Table 12-11). -/
def rowpSpec (off : Nat) : RegSpec :=
  if 0x010 ≤ off ∧ off < 0x010 + 6 * 128 then
    match (off - 0x010) % 6 with
    | 0 => rsSc 0xFFFFFFFFF 0x2000000
    | 1 => rsRw 0x1FFFFFFF 0
    | 2 => rsSc 0xFFFFFF 0x800000
    | 3 => rsSc 0xFFFFFF 0
    | 4 => rsW1c 0x7800 0
    | _ => rsCnt 0xFFFFFFFF
  else {}

/-- HOE pages (Table 13-6). -/
def hoeSpec (off : Nat) : RegSpec :=
  if 0x100 ≤ off then
    match (off - 0x100) % 0x18 with
    | 0x0 => rsSc 0x7FFFFFFFF 0
    | 0x1 => rsRw 0x3FFFF 0
    | 0x2 => rsSc 0x1FFFF 0x3000
    | 0x3 => rsSc 0x3FFFFFFFF 0
    | 0x4 => rsSc all40 0
    | 0x5 => rsSc 0xFFFFFFFFF 0x0101932E66
    | 0x6 => rsRw 0x1FFFF 0
    | 0x7 => rsSc 0x3 0
    | 0x8 | 0x9 => rsSc all40 0
    | 0xA => rsSc 0xFFFFFFFF 0
    | 0xC => rsW1c 0x7C0000 0
    | 0xD => rsCnt 0xFFFFFFFF
    | 0xE => rsCnt 0x7FFFFFFFFF
    | 0x12 => rsSc 0xFFFFFFFF 0x12345679
    | 0x13 => rsSc 0xFFFFFFFF 0x87654321
    | _ => {}
  else {}

/-- RAIL (Table 13-8). -/
def railSpec (off : Nat) : RegSpec :=
  if 0x100 ≤ off ∧ off < 0x180 then
    match (off - 0x100) % 8 with
    | 0 => rsRw 0x1FFFFFF 0
    | 1 => rsSc 0x1FFFFFFFF 0
    | 2 => rsW1c 0x1C0000 0
    | 3 => rsCnt 0xFFFFFFFF
    | _ => {}
  else {}

/-- TREL (Tables 9-13, 10-4). -/
def trelSpec (off : Nat) : RegSpec :=
  match off with
  | 0x018 => rsRw 0x7F 0
  | 0x030 => rsSc 0xFF 0
  | 0x031 => rsRo 0x8C8C
  | 0x032 => rsCnt 0xFFFFFFFF
  | _ => {}

/-- ETH0 and ETH1 (Table 15-4); the counters and dither of a stream are read through ETH_SSEL. -/
def ethSpec (off : Nat) : RegSpec :=
  if 0x040 ≤ off ∧ off ≤ 0x0BF then rsSc 0x7FFFFFFFF 0
  else if 0x100 ≤ off ∧ off ≤ 0x3FF then
    match (off - 0x100) % 6 with
    | 0 => rsSc 0x3FFFFFFF 0x10000000
    | 1 | 2 | 3 => rsSc 0xFFFFFFFF 0
    | 4 => rsSc all40 0
    | _ => rsW1c 0x7000 0
  else match off with
  | 0x010 => rsRw 0x1FF 0x98
  | 0x011 => rsW1c 2 0
  | 0x012 => rsRw 0xFFFFFFFF 0
  | 0x013 => rsRw 0xFFFF 0
  | 0x014 | 0x015 => rsSc 0xFFFFFFFF 0
  | 0x016 => rsCnt 0xFFFFFFFF
  | 0x018 => rsRw 0xFFF 0x7F0
  | 0x020 => rsRw 0xFFFD 0
  | 0x021 => rsSc 0x3FFFFFFF 0
  | 0x022 => rsSc all40 0
  | 0x023 => rsSc 0x3FFFFFFF 0
  | 0x0C1 => rsRw 0x7F 0
  | 0x0C2 => rsCnt 0xFFFFFFFF
  | 0x0C8 => rsRw 0x7FFFF 0
  | 0x0C9 | 0x0CA => rsRw 0xFFFFFFFF 0
  | 0x0CC => rsRw 0x3FFFFFFFF 0
  | _ => {}

/-- CHAIN (Table 15-4). -/
def chainSpec (off : Nat) : RegSpec :=
  match off with
  | 0x010 => rsRw 1 1
  | 0x011 => rsW1c 0x100 0
  | 0x014 => rsRw 0xFFFFFFF 0
  | 0x015 => rsRw 0xFFFF 0
  | 0x017 => rsCnt 0xFFFFFFFFF
  | _ => {}

/-- AON and PWR (Table 17-6). -/
def aonSpec (off : Nat) : RegSpec :=
  match off with
  | 0x010 => rsRw 1 0
  | 0x011 => rsCnt 0xFF00
  | 0x013 => rsRw 0xF 0
  | 0x014 => rsW1c 7 0
  | _ => {}

/-- PWR (Table 17-6). -/
def pwrSpec (off : Nat) : RegSpec :=
  match off with
  | 0x010 => rsRo 0xFFFFFF
  | 0x014 => rsCnt 0xFFFFFFFFF
  | 0x015 => rsRw 0x1FFFFFF 0x01141400
  | 0x016 => rsRo 0xB52
  | 0x017 => rsW1c 0xC 0
  | 0x018 => rsSc 0x7FFF 0
  | _ => {}

/-- HOST (Table 14-6). -/
def hostSpec (off : Nat) : RegSpec :=
  if 0x100 ≤ off ∧ off < 0x100 + 4 * 65 then
    (if off % 4 = 3 then rsCnt 0xFFFFFFFF else {})
  else match off with
  | 0x010 => rsRw 7 0
  | 0x011 => rsW1c 0xC 0
  | 0x012 => rsRw 0x7FFFFF 0
  | 0x013 | 0x014 | 0x015 | 0x016 | 0x017 | 0x018 => rsRw 0xFFFFFFFF 0
  | 0x019 => rsRw 0x7FFFFFFFFF 0
  | 0x01A => rsRw 0xFFFFFFFFF 0
  | 0x01C => rsCnt 0xFFFFFFFF
  | 0x01D => rsRw 0x3FFFFFFFF 0
  | 0x01E => rsRw 0xFFFFFFFF 0
  | 0x01F => rsRw 0xFFFF 0
  | _ => {}

/-- BOOT (Table 16-9). -/
def bootSpec (off : Nat) : RegSpec :=
  match off with
  | 0x011 => rsRw 0x80007FFFFF 0
  | 0x013 => rsRw 0x3FFFFFFFF 0
  | 0x015 => rsCnt 0xFFFFFFFF
  | _ => {}

/-- The specification of one register. -/
def regSpec (k : PageKind) (i off : Nat) : RegSpec :=
  if off < 8 then headerSpec k off
  else match k with
  | .plot => plotSpec off
  | .dev => devSpec off
  | .tine => tineSpec off
  | .nurs => nursSpec off
  | .gauge => gaugeSpec off
  | .xlat | .shed | .dram => memSpec k off
  | .pcie | .qspi => linkSpec k off
  | .hop => hopSpec i off
  | .trch => trchSpec off
  | .sec => secSpec off
  | .rowc => rowcSpec off
  | .rowp => rowpSpec off
  | .hoe => hoeSpec off
  | .rail => railSpec off
  | .trel => trelSpec off
  | .eth => ethSpec off
  | .chain => chainSpec off
  | .aon => aonSpec off
  | .pwr => pwrSpec off
  | .host => hostSpec off
  | .boot => bootSpec off

/-- The key of a register in the register table: page × 1,024 + offset (R28). -/
def regKey (pg off : Nat) : Nat := pg * 1024 + off

/-- The reset value of the register a key names. -/
def regReset (key : Nat) : Word :=
  match pageKind (key / 1024) with
  | some (k, i) => wd (regSpec k i (key % 1024)).rst
  | none => 0

end Sys2Proof.Machine
end

