-- ==== Sys2Proof/Machine/Tbl.lean ====
section
/-! DEFINITION. Sparse tables in one canonical form: a list of (key, value) pairs with strictly rising keys and no
entry equal to what an unlisted key reads as. Memory, registers and every numbered family of units are held so. -/

namespace Sys2Proof.Machine

/-- A sparse table: strictly rising keys, no entry equal to the default of its key (`Tbl.wf`). -/
abbrev Tbl (α : Type) := List (Nat × α)

/-- The value a table lists for a key, if it lists one. -/
def Tbl.find? {α : Type} (m : Tbl α) (k : Nat) : Option α :=
  match m with
  | [] => none
  | (j, v) :: rest => if j = k then some v else Tbl.find? rest k

/-- What key `k` reads as: the listed value, or the default of the key. -/
def Tbl.get {α : Type} (d : Nat → α) (m : Tbl α) (k : Nat) : α :=
  match Tbl.find? m k with
  | some v => v
  | none => d k

/-- List `v` for key `k`, in the place that keeps the keys rising. -/
def Tbl.insert {α : Type} (m : Tbl α) (k : Nat) (v : α) : Tbl α :=
  match m with
  | [] => [(k, v)]
  | (j, w) :: rest =>
    if k < j then (k, v) :: (j, w) :: rest
    else if j = k then (k, v) :: rest
    else (j, w) :: Tbl.insert rest k v

/-- Unlist key `k`. -/
def Tbl.erase {α : Type} (m : Tbl α) (k : Nat) : Tbl α :=
  match m with
  | [] => []
  | (j, w) :: rest => if j = k then Tbl.erase rest k else (j, w) :: Tbl.erase rest k

/-- Write `v` at key `k`; writing the default of the key unlists it. -/
def Tbl.set {α : Type} [DecidableEq α] (d : Nat → α) (m : Tbl α) (k : Nat) (v : α) : Tbl α :=
  if v = d k then Tbl.erase m k else Tbl.insert m k v

/-- Change every listed value; for an `f` that keeps the defaults this changes the whole table. -/
def Tbl.mapV {α : Type} [DecidableEq α] (d : Nat → α) (f : Nat → α → α) (m : Tbl α) : Tbl α :=
  match m with
  | [] => []
  | (j, v) :: rest => if f j v = d j then Tbl.mapV d f rest else (j, f j v) :: Tbl.mapV d f rest

/-- Every key of the table is above `b`, the keys rise strictly, and no value is its key's default. -/
def Tbl.wfFrom {α : Type} [DecidableEq α] (d : Nat → α) (lo : Nat) (m : Tbl α) : Bool :=
  match m with
  | [] => true
  | (j, v) :: rest => decide (lo ≤ j) && decide (v ≠ d j) && Tbl.wfFrom d (j + 1) rest

/-- The canonical form. -/
def Tbl.wf {α : Type} [DecidableEq α] (d : Nat → α) (m : Tbl α) : Bool := Tbl.wfFrom d 0 m

end Sys2Proof.Machine
end

