-- ==== Sys2Proof/Machine/State.lean ====
section
/-! DEFINITION. The state of the device as plain data, the outcomes that are no next state, and the state after reset. -/

namespace Sys2Proof.Machine

/-- The reasons a run stops with a fault. -/
inductive Fault where
  /-- No command of this model stops with a fault: every fault of the manual is an effect on the state. Kept so that the
  type is inhabited; raised by nothing. Safe. -/
  | unused
  deriving DecidableEq, Repr

/-- The reasons a command is refused. -/
inductive Refusal where
  /-- A command of the table without a meaning yet, by its mnemonic. Safe. -/
  | notModelled (mnemonic : String)
  deriving DecidableEq, Repr

/-- What a store carries: one word, one aligned double word or one half-word (R120), or the words of a run inside one DRAM
half-trug, lowest address first, which a Trellis channel writes as one access (R189, R241). -/
inductive StoreData where
  | word (d : Word)
  | dbl (lo hi : Word)
  | half (hi : Bool) (d : BitVec 20)
  | run (ws : List Word)
  deriving DecidableEq, Repr

/-- A buffered store: its physical address and data, and the mode it retired in. -/
structure StoreEnt where
  pa : Nat
  data : StoreData
  walled : Bool
  sup : Bool
  deriving DecidableEq, Repr

/-- A fault recorded in the window, not yet taken (R117, Table 6-4). -/
structure FaultRec where
  cause : Nat
  sub : Nat
  addr : Nat
  info : Word
  phys : Bool
  /-- taken after retirement, SPC at the next instruction -/
  after : Bool
  /-- the second half of a split access (R126) -/
  half : Bool
  deriving DecidableEq, Repr

/-- What a returning load does with its words (R92, R35, R37, R99, R184). -/
inductive LoadKind where
  | word (gt : Gr)
  | half (gt : Gr) (hi : Bool)
  /-- a double word, and the halves of a split one (R124, R126) -/
  | dbl (gt : Gr)
  | dblFirst (gt : Gr)
  | dblSecond (gt : Gr)
  | image (an : Ar)
  | macm (op : MacOp) (fp : BitVec 2) (an : Ar)
  | swap (gt : Gr) (new : Word)
  deriving DecidableEq, Repr

/-- A word of a load: forwarded from the store buffer at its issue, or to be read (R121). -/
inductive LSrc where
  | have' (w : Word)
  | read (pa : Nat)
  deriving DecidableEq, Repr

/-- What a checkpoint holds (R409): TST.W and TST.S of its header, TINE_CKPT_CFG and the four range registers as they declared
its words, and the words. -/
structure CkptCopy where
  walled : Bool
  sup : Bool
  cfg : Word
  ranges : List Word
  words : List Word
  deriving DecidableEq, Repr

/-- An instruction that has issued and waits (R115, R100, R120, R122, R167). -/
inductive Flight where
  /-- a load: what it does, where its words come from, their virtual addresses, its address updates, its length, and
  the fault of the second half that is taken once the first has its effect (R126) -/
  | load (k : LoadKind) (srcs : List LSrc) (vas : List Nat) (upds : List (Gr × Word)) (len : Nat)
      (f2 : Option FaultRec)
  /-- a store waiting for room in the store buffer, with the fault of its second half -/
  | store (ents : List StoreEnt) (upds : List (Gr × Word)) (len : Nat) (f2 : Option FaultRec)
  /-- an HPUSH at a full hopper -/
  | hpush (item : Word) (h : Nat) (len : Nat)
  | fence
  | wait
  /-- a checkpoint request whose commit is under way: PC addresses the store (R410); `others` are the words beside
  TINE_CKPT_GO that the store writes when it retires (R116), `copy` the copy once it has been taken and the push waits -/
  | ckpt (hopper : Nat) (push : Bool) (copy : Option CkptCopy) (others : List (Nat × Word)) (upds : List (Gr × Word)) (len : Nat)
  deriving DecidableEq, Repr

/-- What a load's reads gave before the load was at the head of the window: its physical addresses, the words, and the fault
of the word after them, if one could not be read (R115, R117). -/
structure Early where
  pas : List Nat
  got : List Word
  fail : Option FaultRec
  deriving DecidableEq, Repr

/-- An instruction that has issued behind an older one that waits (R114–R116): the instruction, and for a load whose data came
before its turn to retire, that data. -/
structure WinEnt where
  ins : Instr
  early : Option Early
  deriving DecidableEq, Repr

/-- A leaf held in a translation cache (R196): the virtual page number, its size and the entry. -/
structure XLeaf where
  large : Bool
  vpn : Nat
  ent : Word
  deriving DecidableEq, Repr

/-- Why a tine is halted (R375, R387, R430). -/
inductive HaltKind where
  /-- running -/
  | no
  /-- no CODE record has named it, or its plot was restored -/
  | unnamed
  /-- halted by the host session's request, the probe's, or a BKPT under either -/
  | host
  | probe
  deriving DecidableEq, Repr

/-- A halt or step request held until it can be taken (R430). -/
inductive DebugReq where
  | none
  | halt (probe : Bool)
  | step (probe : Bool)
  deriving DecidableEq, Repr

/-- What a physical tine holds beside the registers of its TINE page. -/
structure Tine where
  /-- G0–G27 (R80); G28–G31 are the banks of the TINE page -/
  g : Tbl Word
  /-- A0–A3 (R36) -/
  acc : Tbl Acc96
  pc : BitVec 14
  /-- the oldest unretired instruction, where it waits; and the younger ones that have issued, oldest first (R114) -/
  flight : Option Flight
  window : List WinEnt
  fault : Option FaultRec
  /-- failed drains not yet taken (R123): physical addresses -/
  drain : List Nat
  /-- buffered stores, oldest first (R120) -/
  sb : List StoreEnt
  /-- an entry in progress: the chosen input (R168) -/
  entry : Option Nat
  /-- ends of the open hold-off windows, by input (R166) -/
  hold : Tbl Nat
  /-- RETX returned with HALFDONE: the next instruction runs its second half only (R126) -/
  halfdone : Bool
  /-- length of the REP prefix in force, by level (R106) -/
  repLen : Tbl Nat
  xcache : List XLeaf
  halt : HaltKind
  dreq : DebugReq
  /-- locked up after a third fault (R151) -/
  locked : Bool
  /-- retired by the Nursery (R404) -/
  retired : Bool
  /-- the tick of the latest retirement or moment of being alive (Table 18-1) -/
  lastAlive : Nat
  /-- stamps of the latest uncorrectable tray errors, at most 15, oldest first (Table 18-1) -/
  ueWin : List Nat
  /-- saturating retirements in the present tick by flag (QTY 10 of Table 20-1) -/
  tsat : Tbl Nat
  deriving DecidableEq, Repr

/-- A physical tine after reset: halted until an image names it (R375). -/
def Tine.reset : Tine :=
  { g := [], acc := [], pc := 0, flight := none, window := [], fault := none, drain := [], sb := [], entry := none, hold := [],
    halfdone := false, repLen := [], xcache := [], halt := .unnamed, dreq := .none, locked := false, retired := false,
    lastAlive := 0, ueWin := [], tsat := [] }

/-- A power domain's state (R386, R390). -/
inductive DomSt where
  | run
  /-- STOPPING before the commit point: accesses that arrive are held -/
  | stopping
  /-- STOPPING after the commit point: the clamps are closed -/
  | closing
  | stop
  | restoring
  deriving DecidableEq, Repr

/-- Grants of a debug session (R425). -/
structure Session where
  level : Nat
  allowStop : Bool
  debugWake : Bool
  /-- nonce and the tick of its challenge (R426) -/
  nonce : Option (List Byte × Nat)
  fails : Nat
  deriving DecidableEq, Repr

/-- A session after device reset. -/
def Session.reset : Session := { level := 0, allowStop := false, debugWake := false, nonce := none, fails := 0 }

/-- A debug request that was accepted and waits, with the grant it was accepted under (R427, R431). -/
structure DbgReq where
  probe : Bool
  grant : Session
  op : DbgOp
  deriving DecidableEq, Repr

/-- A hopper's contents (R252, R262): held items, oldest push first, and retained ones, oldest pop first, each with
the logical tine that popped it; the end of the tail window. -/
structure HopQ where
  items : List Word
  retained : List (Word × Nat)
  /-- retained items given back to one logical tine after a replacement (R415), first pop first -/
  back : List (Word × Nat)
  tailEnd : Option Nat
  deriving DecidableEq, Repr

/-- A hopper after reset. -/
def HopQ.reset : HopQ := { items := [], retained := [], back := [], tailEnd := none }

/-- A gauge's open window and its last record (R438–R441). -/
structure GaugeRec where
  lo : Int
  hi : Int
  count : Nat
  bins : Tbl Nat
  clip : Nat
  index : Nat
  valid : Bool
  part : Bool
  deriving DecidableEq, Repr

/-- An empty record (R439). -/
def GaugeRec.empty : GaugeRec :=
  { lo := 0x7FFFFFFF, hi := -0x80000000, count := 0, bins := [], clip := 0, index := 0, valid := false, part := false }

/-- A gauge beside its registers. -/
structure Gauge where
  win : GaugeRec
  last : GaugeRec
  /-- first tick of the open window, and LO and BSH in force in it -/
  start : Nat
  base : Nat
  index : Nat
  loInForce : Int
  bshInForce : Nat
  /-- values taken in ticks at or after the end of the open window, whose close has not been commanded yet: tick, value,
  clamped at its source; oldest first (R9, R439) -/
  late : List (Nat × Int × Bool)
  /-- the tick of the latest per-tick value -/
  tick : Option Nat
  deriving DecidableEq, Repr

/-- A gauge after reset. -/
def Gauge.reset : Gauge :=
  { win := .empty, last := { GaugeRec.empty with lo := 0, hi := 0 }, start := 0, base := 0, index := 0, loInForce := 0,
    bshInForce := 0, late := [], tick := none }

/-- A fault record entry (R448). -/
structure FrecEnt where
  seq : Nat
  tick : Nat
  kind : Nat
  src : Nat
  data : Word
  deriving DecidableEq, Repr

/-- Who waits on a withheld mailbox write (R23). -/
inductive Withheld where
  /-- the oldest store of a tine's store buffer -/
  | store (p : TineNo)
  /-- a channel's outstanding write -/
  | chan (c : Fin 128)
  /-- a write commanded directly -/
  | direct (w : Who)
  deriving DecidableEq, Repr

/-- A Weiskeo cell before it is numbered (Table 15-3). -/
structure Cell where
  typ : Nat
  dst : Nat
  src : Nat
  /-- 1 for a sample cell (R357) -/
  cls : Nat
  /-- words 1 to 6 -/
  body : List Word
  deriving DecidableEq, Repr

/-- A chain port (R354, R355): what waits, what was sent and may be resent, sequence numbers and state. -/
structure Port where
  sample : List Cell
  bulk : List Cell
  /-- the last cells sent, oldest first, with LSEQ, at most 32 -/
  sent : List (Nat × Cell)
  lseq : Nat
  /-- LSEQ of the last good cell received -/
  good : Nat
  /-- a NAK is owed with the next cell -/
  nak : Bool
  /-- cells to resend first, with LSEQ -/
  again : List (Nat × Cell)
  /-- resends of the oldest cell since it was first sent -/
  resends : Nat
  /-- found unconnected 2 ms after reset (R358) -/
  unconnected : Bool
  deriving DecidableEq, Repr

/-- A port after reset. -/
def Port.reset : Port :=
  { sample := [], bulk := [], sent := [], lseq := 0, good := 255, nak := false, again := [], resends := 0,
    unconnected := false }

/-- What the device sends out, oldest first. -/
inductive Out where
  /-- MSI-X vector with the address and data of its table entry, to which the message is a write (R321, R335, R455) -/
  | msix (v addr data : Nat)
  /-- a cell on a chain port (0 UP, 1 DOWN): its eight words (R354) -/
  | cell (port : Nat) (ws : List Word)
  | other (tag : String) (ns : List Nat)
  deriving DecidableEq, Repr

/-- A port cell beside its registers (R277, R279, R268, R437). -/
structure CellSt where
  /-- grid points still discarded after the enable (R279) -/
  settle : Nat
  /-- frames in the latency match, oldest first (R277) -/
  delay : List (List Word)
  /-- saturated samples of the present tick (QTY 11 of Table 20-1) -/
  psat : Nat
  /-- the pad latch of R268: the last SAFE value written -/
  safe : Nat
  /-- a disabled output cell that still finishes its frame or output period (R272) -/
  drain : Bool
  /-- the tick at which the debounced level of a GPIO cell changed last (R280) -/
  edgeAt : Option Nat
  deriving DecidableEq, Repr

/-- A cell after reset; the latch is high-impedance (R465). -/
def CellSt.reset : CellSt := { settle := 0, delay := [], psat := 0, safe := 0, drain := false, edgeAt := none }

/-- A Hoe beside its registers (R301–R314). -/
structure Hoe where
  /-- a disable ramps down (R309) -/
  stopping : Bool
  /-- an accepted REARM that clears the latch at the next take instant (R314) -/
  rearm : Bool
  /-- end of the retry window (R314) -/
  retryAt : Option Nat
  /-- limiter gain × 2^23 (R302) -/
  g : Nat
  /-- held input word (R300) -/
  x : Word
  /-- integrators in units of 2^−36 (R301) -/
  i1 : Int
  i2 : Int
  /-- requantizer history (R306) -/
  e1 : Int
  e2 : Int
  /-- phase of the injected tone (R315) -/
  phi : Nat
  /-- LORD, QORD and IMODE of the previous period -/
  lord : Nat
  qord : Nat
  imode : Nat
  /-- the requantized value of the latest frame (R299) -/
  q : Int
  /-- interpolator taps of phases 1 to 3, in force and computed; none while they start from IP_TAP (R77) -/
  taps : Option (List Nat)
  tapsNext : Option (List Nat)
  /-- the AON window of the latest calibration (R77) -/
  calWin : Option Nat
  /-- the clock count of the next take instant, once one has been taken (R298) -/
  grid : Option Nat
  /-- 2d − 1 of the latest voltage windows, newest first (R304) -/
  ys : List Int
  /-- HOE_SHEAR and TXTH as the latest take instant found them (R307) -/
  shear : Word
  txth : Nat
  /-- the tick of the latest trip and the causes counted in it (R312) -/
  tripAt : Nat
  tripBy : List Nat
  /-- the latest value of the current detector (R311) -/
  ocf : Nat
  /-- the voltage sense stream has no edges (R311) -/
  vlost : Bool
  deriving DecidableEq, Repr

/-- A Hoe after reset; the taps start from IP_TAP (R77). -/
def Hoe.reset : Hoe :=
  { stopping := false, rearm := false, retryAt := none, g := 0, x := 0, i1 := 0, i2 := 0, e1 := 0, e2 := 0, phi := 0,
    lord := 0, qord := 0, imode := 0, q := 0, taps := none, tapsNext := none, calWin := none, grid := none, ys := [],
    shear := 0, txth := 0, tripAt := 0, tripBy := [], ocf := 32, vlost := false }

/-- A rail beside its registers: the latest value of its fast detector, a stream without edges (R310, R311), and RAIL_THR
as the latest code found it (R319). -/
structure Rail where
  f : Nat
  lost : Bool
  thr : Word
  deriving DecidableEq, Repr

/-- The journal record of a channel (Table 10-5). -/
structure Journal where
  /-- the number of the MOVE it records, 0 for another record; the model's own link, no part of Table 10-5 -/
  mv : Nat
  cmd : Nat
  valid : Bool
  flt : Bool
  k : Nat
  replays : Nat
  srcEl : Nat
  srcLine : Nat
  dstEl : Nat
  dstLine : Nat
  /-- the holding register, from bit 0 -/
  hold : Nat
  hfill : Nat
  fside : Nat
  fcause : Nat
  fsub : Nat
  hwords : Nat
  dbits : Nat
  cmdacc : Bool
  faddr : Nat
  deriving DecidableEq, Repr

/-- A journal after reset. -/
def Journal.reset : Journal :=
  { mv := 0, cmd := 0, valid := false, flt := false, k := 0, replays := 0, srcEl := 0, srcLine := 0, dstEl := 0, dstLine := 0,
    hold := 0, hfill := 0, fside := 0, fcause := 0, fsub := 0, hwords := 0, dbits := 0, cmdacc := false, faddr := 0 }

/-- A MOVE under way (R233–R249): its descriptor, its place on each side and what the holding register holds. -/
structure Move where
  desc : List Word
  /-- destination elements made so far; the source elements converted follow from it -/
  made : Nat
  /-- place and line of the next destination word to write (Table 10-5) -/
  dstEl : Nat
  dstLine : Nat
  /-- whole destination words held for writing, oldest first -/
  words : List Word
  /-- stream bits of the packed destination word being assembled -/
  dval : Nat
  dbits : Nat
  /-- source bits taken in and not yet converted; a TRANS8 group stays whole until its last bit plane is made -/
  sval : Nat
  sbits : Nat
  /-- physical address of the source word read last -/
  spa : Nat
  /-- a persistent bus error was met (R246) -/
  bad : Bool
  replays : Nat
  deriving DecidableEq, Repr

/-- Where a channel stands between two of its steps. -/
inductive ChPhase where
  /-- the next command is to be fetched -/
  | next
  /-- a command has been fetched and not begun -/
  | got (w0 w1 : Word)
  /-- inside a WAIT: kind, ARG, start tick, timeout, an occurrence of its line seen (R214, R215) -/
  | wait (kind arg start timeout : Nat) (seen : Bool)
  /-- a SIGNAL held at a full hopper (R217) -/
  | push (h : Nat) (item : Word)
  /-- a POST held at a full status ring: TAG, SEL, IMM (R221) -/
  | post (tag sel imm : Nat)
  /-- a POST whose words are outstanding (R220) -/
  | posted
  /-- a MOVE that reads its descriptor: DESC, the words read so far, its replays (R233) -/
  | desc (base : Nat) (ws : List Word) (replays : Nat)
  | move (m : Move)
  /-- a status half that is to be written: ST and CAUSE (R209) -/
  | status (st cause : Nat)
  /-- a status half that is outstanding -/
  | stated
  deriving DecidableEq, Repr

/-- An outstanding write of a channel (R210): 0 an element of the MOVE under way, 1 a word of the current
POST, 2 a status half, 3 a word that no command waits for, 4 an element of a MOVE that has ended, 5 the status half of a command
that is over; the number of its MOVE, its
addresses, its place and line on the destination side, its data and attempts. -/
structure ChWrite where
  kind : Nat
  mv : Nat
  va : Nat
  pa : Nat
  el : Nat
  line : Nat
  data : StoreData
  tries : Nat
  /-- 0 it is on its way, 1 its latest attempt met a bus error (R244), 2 held by an error until a RESUME (R245, R247) -/
  held : Nat
  /-- an error held it and a RESUME let it go on (R247) -/
  resumed : Bool
  /-- REPLAY_MAX and the cell class in force for its command (R228, R357) -/
  rmax : Nat
  cls : Nat
  deriving DecidableEq, Repr

/-- A MOVE that has ended, or that a STOP abandoned, with writes outstanding (R210, R226): its number, its record, its replays,
whether a persistent bus error marks it BAD, so that a status half is due, and whether the marks of a BAD command have been made
(R212, R246). -/
structure Ended where
  mv : Nat
  journal : Journal
  replays : Nat
  bad : Bool
  told : Bool
  deriving DecidableEq, Repr

/-- A Trellis channel beside its registers. -/
structure Chan where
  phase : ChPhase
  /-- what the current command was: its words, for the status half and the barrier -/
  w0 : Word
  /-- the address after the current command -/
  nextPc : Nat
  /-- replays the current command used, and attempts made of the access under way (R244) -/
  replays : Nat
  tries : Nat
  /-- the access under way met a bus error and is to be issued again -/
  retry : Bool
  outst : List ChWrite
  /-- TRCH_START as the latest START found it: the ring base in ring mode (R207, R227) -/
  base : Nat
  /-- BAR of the latest command (R210) -/
  bar : Bool
  /-- commands still to be passed over (R218) -/
  skip : Nat
  /-- cause of the pending suspend (R224, R225) -/
  suspCause : Nat
  /-- the state a STOP or a suspend left: RUN 1 or WAITING 2 -/
  prev : Nat
  /-- POSTs since reset, modulo 256 -/
  posts : Nat
  journal : Journal
  /-- TRCH_CFG as the current command found it when it began (R228) -/
  cfg : Word
  /-- MOVEs begun so far, the number of the latest -/
  mv : Nat
  /-- MOVEs that are over and whose writes are outstanding, oldest first -/
  ended : List Ended
  /-- an error struck while a STOP was requested: a START that cancels it finds the channel suspended (R225, R245) -/
  errStop : Bool
  /-- a RESUME has let the access of a recorded error go on, which has not succeeded yet (R247, R248) -/
  resuming : Bool
  deriving DecidableEq, Repr

/-- A channel after reset. -/
def Chan.reset : Chan :=
  { phase := .next, w0 := 0, nextPc := 0, replays := 0, tries := 0, retry := false, outst := [], base := 0, bar := false, skip := 0,
    suspCause := 0, prev := 1, posts := 0, journal := .reset, cfg := 0x60, mv := 0, ended := [], errStop := false, resuming := false }

/-- An Ethernet stream beside its registers (R347–R350). -/
structure Strm where
  /-- listener: the next sequence number, none before the first frame of a run -/
  expect : Option Nat
  /-- talker: the next sequence number -/
  seq : Nat
  /-- the presentation time of the latest frame -/
  pres : Option Nat
  /-- frames that wait for their presentation time, in order of arrival -/
  sched : List (Nat × List Word)
  /-- ETH_SCNT0, ETH_SCNT1 and the dither generators of the stream -/
  cnt0 : Word
  cnt1 : Word
  dthA : Nat
  dthB : Nat
  deriving DecidableEq, Repr

/-- A stream after reset. -/
def Strm.reset : Strm :=
  { expect := none, seq := 0, pres := none, sched := [], cnt0 := 0, cnt1 := 0, dthA := 0x12345679, dthB := 0x87654321 }

/-- A frame that waits in a MAC's transmit queues (R341): its queue, its length in bytes and its fields. -/
structure EFrame where
  queue : Nat
  len : Nat
  /-- the 802.1Q tag: VID + 4096 × PCP (R339) -/
  tag : Option Nat
  data : List Nat
  deriving DecidableEq, Repr

/-- A MAC beside its registers. -/
structure Mac where
  frames : List EFrame
  /-- credits of classes A and B in units of 10^−7 bit (R342) -/
  credA : Int
  credB : Int
  /-- the local time in tenths of ns to which the credits stand -/
  creditAt : Nat
  /-- queue of the frame started last, and the local times in tenths of ns at which it and its gap end -/
  lastQ : Nat
  txEnd : Nat
  gapEnd : Nat
  /-- gates open now, one bit for each of queues 0 to 2, and the entry in force (R343) -/
  gates : Nat
  entry : Nat
  /-- the gPTP time in ns at which a SWAP that waits for its cycle start was written -/
  swap : Option Nat
  /-- gPTP times in ns at which the present gate cycle and its present entry started -/
  cycle : Option Nat
  entAt : Nat
  /-- the tick at which a better master was heard last, a two-step Sync that waits for its Follow_Up, and the ticks of the
  latest sync interval and of the latest announce interval (R340) -/
  master : Option Nat
  syncWait : Bool
  syncAt : Option Nat
  annAt : Option Nat
  /-- the tick of the latest PDU of the CRF listener (R353) -/
  crfAt : Option Nat
  /-- the tick before which the CRF talker's next PDU cannot be complete (R353) -/
  crfDue : Nat
  /-- the latest sync offsets, newest first (R345) -/
  offs : List Int
  /-- gPTP time in ns at the start of the present AON tick -/
  ptp : Nat
  deriving DecidableEq, Repr

/-- A MAC after reset. -/
def Mac.reset : Mac :=
  { frames := [], credA := 0, credB := 0, creditAt := 0, lastQ := 0, txEnd := 0, gapEnd := 0, gates := 7, entry := 0,
    swap := none, cycle := none, entAt := 0, master := none, syncWait := false, syncAt := none, annAt := none, crfAt := none, crfDue := 0,
    offs := [], ptp := 0 }

/-- A serial engine beside its registers: the command latched at GO, the chip select held low, plus one (R290), and the tick
of the GO. -/
structure Engine where
  cmd : Nat
  cs : Nat
  start : Nat
  deriving DecidableEq, Repr

/-- Where an entry in a landing slot stands (R328–R335). -/
inductive HSt where
  /-- the read of the entry from host memory is outstanding -/
  | reading
  /-- the read of its data is outstanding, since a tick -/
  | copying (since : Nat)
  /-- it has passed the checks and waits for its hand-over -/
  | ready
  /-- handed to firmware -/
  | handed
  /-- an admin command that the engine or a sequencer executes -/
  | exec
  /-- an admin command that has begun and goes on -/
  | running
  /-- a DELETE_SQ that waits for the records of queue `q` -/
  | deleting (q : Nat)
  /-- completed, its data not yet written back -/
  | writing (status result : Nat)
  | finished (status result : Nat)
  deriving DecidableEq, Repr

/-- What a queue-management command changes when its record is published (R332). -/
inductive HEffect where
  | none
  /-- QID, base, size, vector, IHOLD, head word address -/
  | createCq (q base size : Nat) (vec : Option Nat) (ihold head : Nat)
  /-- QID, base, size, hopper, DBIN, DLEVEL, DUNIT, LANDBASE, LANDN, DBUFW -/
  | createSq (q base size hopper dbin dlevel dunit land landn dbufw : Nat)
  deriving DecidableEq, Repr

/-- An occupied landing slot. -/
structure HSlot where
  slot : Nat
  opc : Nat
  pri : Nat
  dir : Bool
  cid : Nat
  dptr : Nat
  dlen : Nat
  st : HSt
  eff : HEffect
  deriving DecidableEq, Repr

/-- A record that waits in a holding buffer: CID, STATUS, RESULT, and what its publishing changes. -/
structure HRec where
  cid : Nat
  status : Nat
  result : Nat
  eff : HEffect
  deriving DecidableEq, Repr

/-- A queue pair (R324–R337). -/
structure HQ where
  sqLive : Bool
  cqLive : Bool
  sqBase : Nat
  sqSize : Nat
  sqHead : Nat
  sqTail : Nat
  cqBase : Nat
  cqSize : Nat
  cqHead : Nat
  cqTail : Nat
  vec : Option Nat
  ihold : Nat
  headAddr : Nat
  land : Nat
  landn : Nat
  dbufw : Nat
  hopper : Nat
  dbin : Nat
  dlevel : Nat
  dunit : Nat
  /-- occupied slots in submission order -/
  slots : List HSlot
  /-- the next slot in slot order -/
  next : Nat
  /-- the holding buffer, oldest first -/
  held : List HRec
  /-- the open IHOLD window: its end, and whether the head has advanced since the vector was sent -/
  window : Option (Nat × Bool)
  /-- a DELETE_SQ of this queue is under way -/
  deleting : Bool
  /-- slots handed over before a disable and not yet completed (R337) -/
  orphans : List Nat
  deriving DecidableEq, Repr

/-- A queue that does not exist. -/
def HQ.reset : HQ :=
  { sqLive := false, cqLive := false, sqBase := 0, sqSize := 0, sqHead := 0, sqTail := 0, cqBase := 0, cqSize := 0,
    cqHead := 0, cqTail := 0, vec := none, ihold := 0, headAddr := 0, land := 0, landn := 0, dbufw := 0, hopper := 0,
    dbin := 0, dlevel := 0, dunit := 0, slots := [], next := 0, held := [], window := none, deleting := false,
    orphans := [] }

/-- A section of an image: its manifest entry, and where its bytes begin in the image (R370). -/
structure Sect where
  typ : Nat
  id : Nat
  be : Bool
  len : Nat
  store : Nat
  digest : List Byte
  off : Nat
  deriving DecidableEq, Repr

/-- A checked image: its address in Shed, its length, header fields and sections (R369). -/
structure Seed where
  base : Nat
  total : Nat
  svn : Nat
  start : Nat
  init : Nat
  sects : List Sect
  deriving DecidableEq, Repr

/-- A scion in the store (R377): its Shed address, length and digest. -/
structure Scion where
  addr : Nat
  len : Nat
  be : Bool
  digest : List Byte
  deriving DecidableEq, Repr

/-- A graft that stages or waits (R378–R382). -/
structure Graft where
  root : Bool
  block : Nat
  tries : Nat
  /-- requested by the admin command -/
  admin : Bool
  /-- the landing slot of its admin entry -/
  entry : Option Nat
  /-- shadows in record order: address as the record names it, and value -/
  shadows : List (Nat × Word)
  /-- logical tines with staged CODE, ascending -/
  coded : List Nat
  /-- channels marked by REDIRECT, ascending -/
  marks : List Nat
  /-- power domains that its records target, ascending -/
  doms : List Nat
  deriving DecidableEq, Repr

/-- The boot ROM and graft engine beside the BOOT page. -/
structure Boot where
  /-- BOOTSEL as sampled -/
  sel : Nat
  /-- the image whose header and manifest have passed -/
  seed : Option Seed
  /-- the next section, and a record has been applied -/
  next : Nat
  applied : Bool
  /-- the tick in which a source was locked -/
  lockAt : Nat
  /-- logical tines named by CODE records so far, ascending -/
  coded : List Nat
  scions : Tbl (Option Scion)
  /-- a rootstock that SEED_LOAD holds for a graft -/
  root : Option Seed
  graft : Option Graft
  /-- SVN of the running image (R424) -/
  svn : Nat
  /-- the lifecycle when the boot began, which image checks go by (R422) -/
  lc : Nat
  deriving DecidableEq, Repr

/-- The boot state after reset. -/
def Boot.reset : Boot :=
  { sel := 0, seed := none, next := 0, applied := false, lockAt := 0, coded := [], scions := [], root := none, graft := none, svn := 0, lc := 0 }

/-- The factory trim record of OTP with its check word (R74); the trims are numbered as in `trimDflt`. -/
structure TrimRec where
  vals : Tbl Int
  check : Nat
  deriving DecidableEq, Repr

/-- OTP (R422, R423): what is programmed; none where a field is not. -/
structure Otp where
  lc : Nat
  retPending : Bool
  img : Tbl (Option (List Byte))
  revoke : Nat
  revokeSet : Bool
  dbgO : Option (List Byte)
  dbgW : Option (List Byte)
  svn : Nat
  mac : Option (List Byte)
  uid : Nat
  secret : Option (List Byte)
  trim : Option TrimRec
  deriving DecidableEq, Repr

/-- OTP as a blank part has it. -/
def Otp.blank : Otp :=
  { lc := 0, retPending := false, img := [], revoke := 0, revokeSet := false, dbgO := none, dbgW := none, svn := 0,
    mac := none, uid := 0, secret := none, trim := none }

/-- An OTP programming under way (R422–R424): the new lifecycle, SVN, or field and data. -/
inductive OtpOp where
  | lifecycle (lc : Nat)
  | svn (v : Nat)
  | field (f : Nat) (data : List Byte)
  deriving DecidableEq, Repr

/-- A stop command under way (R389–R395): kind 0 PWR_STOP, 2 DEVICE_STOP; its mask, and the domains still to stop, in
order. -/
structure PwrCmd where
  kind : Nat
  mask : Nat
  todo : List Nat
  /-- the landing slot of its admin entry -/
  entry : Option Nat
  /-- a DEVICE_STOP has completed, and waits for its record to be published before LINK stops (R395) -/
  told : Bool
  deriving DecidableEq, Repr

/-- Where a voltage change stands (R398). -/
inductive VoltPhase where
  /-- the next step may be sent once 1 ms has passed since the latest one and VREADY is high -/
  | step
  /-- a step was sent; VREADY is awaited -/
  | ready
  /-- the last step's VREADY came at a tick; the settle time runs -/
  | settle (since : Nat)
  deriving DecidableEq, Repr

/-- A voltage change: its target in mV, the tick of the latest step, and where it stands. -/
structure Volt where
  target : Nat
  sent : Option Nat
  phase : VoltPhase
  /-- the landing slot of its admin entry -/
  entry : Option Nat
  deriving DecidableEq, Repr

/-- The power sequencer beside its registers. -/
structure Pwr where
  cmd : Option PwrCmd
  /-- stop commands that were accepted and wait for the one under way, oldest first -/
  cmdQ : List PwrCmd
  /-- the PWR_RUN commands under way, oldest first: mask, and the landing slot of its admin entry -/
  runs : List (Nat × Option Nat)
  /-- the domain that is stopping: index, tick it began, and the tick of its commit point -/
  stopping : Option (Nat × Nat × Option Nat)
  /-- accesses that were in flight into it when it began to stop: loads of tines, and words that channels write (R390) -/
  flying : List (Nat × Flight)
  flyingW : List (Nat × Nat)
  /-- domains named by a Run request and not yet begun, ascending -/
  want : List Nat
  /-- the domain that is restoring and the tick its delay ends -/
  restoring : Option (Nat × Nat)
  /-- a voltage change -/
  volt : Option Volt
  /-- VCORE is turned on again: VREADY is awaited, or the settle time runs (R396) -/
  wake : Option VoltPhase
  /-- a wake source was recognised, and its wake is not over (R396) -/
  woken : Bool
  /-- the set point in mV that VCORE was last commanded to -/
  mv : Nat
  /-- the tick of the latest VOUT_COMMAND that was accepted -/
  stepAt : Option Nat
  /-- VOUT_MODE once it has been read: its exponent is −mode -/
  mode : Option Nat
  /-- the device is in Stop, and VCORE was turned off -/
  devStop : Bool
  off : Bool
  deriving DecidableEq, Repr

/-- The sequencer after reset. -/
def Pwr.reset : Pwr :=
  { cmd := none, cmdQ := [], runs := [], stopping := none, flying := [], flyingW := [], want := [], restoring := none, volt := none,
    wake := none, woken := false, mv := 850, stepAt := none, mode := none, devStop := false,
    off := false }

/-- TAP instructions (R428). -/
inductive TapIr where
  | bypass | idcode | sample | extest | clamp | highz | dap
  deriving DecidableEq, Repr

/-- The phases of a speaker-line test (R444–R447). -/
inductive LinePhase where
  /-- the terminal is averaged with the stage off -/
  | terminal
  /-- the Hoe has been enabled and RUNNING is awaited -/
  | running
  | settle1 | avg1 | settle2 | avg2
  /-- an impedance point waits, then is demodulated -/
  | point | demod
  deriving DecidableEq, Repr

/-- A speaker-line test under way (R443–R447). -/
structure LineTest where
  /-- admin opcode 0x21–0x24 -/
  opc : Nat
  r : Nat
  h : Nat
  /-- Rref; AMP, F1, F2 and N; or CMCELL, RSHORT and ROPEN -/
  args : List Nat
  /-- DCL in mV, SETTLE and AVG in ms -/
  dcl : Nat
  settle : Nat
  avg : Nat
  phase : LinePhase
  /-- the tick at which the phase began -/
  since : Nat
  /-- what the phase under way has gathered: the number of its values, and the sums of HOE_VMEAS and HOE_IMEAS or of the
  terminal's voltage (R444, R447) -/
  cnt : Nat
  sv : Int
  si : Int
  /-- the same of the first averaging phase -/
  cnt1 : Nat
  v1 : Int
  i1 : Int
  /-- voltage and current against the tone's sine and cosine, summed over a point (R446) -/
  vs : Int
  vc : Int
  is : Int
  ic : Int
  /-- the status of a trip or a disable that broke the test off (R443) -/
  broken : Option Nat
  /-- impedance points measured so far -/
  bytes : List Byte
  deriving DecidableEq, Repr

/-- The copies of a logical tine's checkpoint (R409): the current one, its mode and words. -/
structure Ckpt where
  cur : Option CkptCopy
  /-- the tick of the first commit since the latest block boundary, if one was made, and of the latest (R32, Table 18-1) -/
  first : Option Nat
  last : Nat
  /-- CKPT_STAT.MISSES before the commits of tick `last` -/
  before : Nat
  deriving DecidableEq, Repr

/-- No checkpoint. -/
def Ckpt.reset : Ckpt := { cur := none, first := none, last := 0, before := 0 }

/-- The DRAM controller and the Weeder beside their registers (R185, R198): refresh interval divisor from MR4, the oscillator count
of the latest retraining, the next bank to refresh, and the tick at which the next step of each Weeder walk is due. -/
structure MemCtl where
  derate : Nat
  osc : Nat
  bank : Nat
  walk : Tbl Nat
  deriving DecidableEq, Repr

/-- An entry of the MSI-X table of BAR4 (R321). -/
structure MsixEnt where
  addr : Nat
  data : Nat
  mask : Bool
  deriving DecidableEq, Repr

/-- An entry after reset: masked, as PCI Express has it (assumption 121). -/
def MsixEnt.reset : MsixEnt := { addr := 0, data := 0, mask := true }

/-- The device. -/
structure State where
  /-- commands waiting, first in, first out -/
  pending : List Instr
  /-- AON_TICK: whole µs since AON reset (R9) -/
  now : Nat
  /-- the model's own count of the free values used so far (assumption 3) -/
  free : Nat
  /-- every register of every page that is not computed, by `regKey` -/
  regs : Tbl Word
  /-- boot ROM, trays, Shed and DRAM by physical word address (Table 1-6) -/
  mem : Tbl Word
  /-- words that hold an uncorrectable upset (R191), ascending -/
  ue : List Nat
  /-- the Trellis translation cache (R196) -/
  xcache : List XLeaf
  tines : Tbl Tine
  /-- the band cap in force, in 10 M instructions/s (Table 5-3) -/
  bandCap : Nat
  /-- mailbox items by mailbox number, oldest first (R21) -/
  mbox : Tbl (List Word)
  withheld : List (Withheld × Nat × Word)
  hops : Tbl HopQ
  /-- the member a unit's RR route chose last, plus one; 0 for none (R176) -/
  rrLast : Tbl Nat
  gauges : Tbl Gauge
  frec : List FrecEnt
  /-- locked tines that hold or wait for the latch (R151), ascending -/
  lockSet : List Nat
  /-- retirements decided and not yet replaced: tine, cause, tick (R414) -/
  retireQ : List (Nat × Nat × Nat)
  ports : Tbl Port
  /-- cells delivered to this device and not yet performed, oldest first (R356) -/
  cellsIn : List Cell
  /-- DEVICES_M1 of the identity words (R25, R358) -/
  devM1 : Nat
  /-- What the table reads of coming translation walks meet, first in first out, as `pending` is; with none listed a free value (R190,
  assumption 128). -/
  walkUps : List Upset
  /-- chain reads without an answer: tag, requester's source, physical address (R360) -/
  chainTags : List (Nat × Nat × Nat)
  nextTag : Nat
  /-- forwarded reads of other devices without an answer: the port they went out on, the reader's chain address, tag (R355) -/
  chainFwd : List (Nat × Nat × Nat)
  /-- the device took no address at its last ENUM and stays outside the chain (R358) -/
  outside : Bool
  /-- the addresses that the AON detectors of the two MACs know as their own (R363) -/
  wakeMac : Nat × Nat
  /-- results of chain-window reads not yet taken: requester's source, address, word or none for an error (R360) -/
  chainBack : List (Nat × Nat × Option Word)
  dom : Tbl DomSt
  /-- FIFOs of cells and Hoes by row × 160 + unit, of streams from 0x1000 -/
  fifo : Tbl (List Word)
  cells : Tbl CellSt
  hoes : Tbl Hoe
  chans : Tbl Chan
  /-- the channel whose journal was latched last (R249) -/
  jsel : Nat
  strms : Tbl Strm
  macs : Tbl Mac
  rails : Tbl Rail
  engines : Tbl Engine
  /-- clock groups that wait for their first block boundary, by row, one bit each (R276) -/
  cgArm : Tbl Nat
  /-- the MSI-X table and the vectors of its pending-bit array (R321) -/
  msixTab : Tbl MsixEnt
  msixPend : List Nat
  /-- the MAC that the latest accepted host frame came in on (R323, R336) -/
  hostMac : Nat
  /-- the tick from which the lock of the audio PLL counts: of RUN, or of a change of SRC (R351, R352) -/
  apllFrom : Nat
  /-- since which tick the PLL's reference is there without a break, none while it is not; and the last tick at which it was
  (R351, R352) -/
  refSince : Option Nat
  refLast : Nat
  /-- the audio PLL runs in the sense of R351 -/
  pllRuns : Bool
  /-- the tick at which the PLL began to run (R351) -/
  pllFrom : Nat
  /-- the PWM clock runs, and the clock count of the latest take instant or block boundary on the device's one grid, whose
  48 kHz boundaries are the multiples of 8,192 (R298) -/
  pwmOn : Bool
  pwmClk : Nat
  /-- the range in which a row's supply was classified: 1.8 V or 3.3 V (R267, R467) -/
  vio : Tbl (Option Bool)
  /-- the tick at which the running block sample count began: the latest boundary, or the lock that started it (R29, R31) -/
  blkFrom : Nat
  /-- factory trims as mirrored (R74), where not neutral -/
  trims : Tbl Int
  hq : Tbl HQ
  /-- the queue fetched last (R328) -/
  hqLast : Nat
  /-- a write of EN = 1 is held (R337) -/
  hqEnHeld : Bool
  /-- opcode, STATUS and RESULT of the latest admin command executed -/
  adminLast : Nat × Nat × Nat
  /-- a held 32-bit write: physical address, low bits, tick (R459) -/
  barHeld : Option (Nat × Nat × Nat)
  /-- bits [39:32] of the latest read over PCIe, by physical address (R459) -/
  barHi : Tbl Nat
  boot : Boot
  otp : Otp
  otpOp : Option OtpOp
  /-- key store: slot × 8 + word (R433) -/
  keys : Tbl Word
  pwr : Pwr
  tap : TapIr
  line : Option LineTest
  /-- gauges of a snapshot that waits for its tick, the tick it landed in, and the gauges whose records the admin command asked
  for, if it is one (R439, Table 20-2) -/
  snap : Option (Nat × Nat × Option Nat)
  /-- end of the latest delay-line calibration window (R442) -/
  dlcal : Option Nat
  ckpts : Tbl Ckpt
  /-- the reinstatement test under way (R406) -/
  reinst : Option Nat
  reinstQ : List Nat
  /-- registry writes that arrived during a replacement, oldest first (R418) -/
  leaseHeld : List (Nat × Word)
  memCtl : MemCtl
  /-- RESET_N has been released; the supervisor holds reset (R465, R466) -/
  released : Bool
  /-- the tick of the latest release (R358) -/
  releasedAt : Nat
  vcoreLow : Bool
  /-- the tick at which VCORE was found low last (R466) -/
  vcoreAt : Nat
  /-- debug requests that wait, oldest first (R427, R431) -/
  dbgHeld : List DbgReq
  hostSess : Session
  probeSess : Session
  /-- latest value a read command returned -/
  readData : Word
  out : List Out
  deriving DecidableEq, Repr

/-- The device right after reset. -/
def State.reset : State :=
  { pending := [], now := 0, free := 0, regs := [], mem := [], ue := [], xcache := [], tines := [], bandCap := 160, mbox := [], withheld := [],
    hops := [], rrLast := [], gauges := [], frec := [], lockSet := [], retireQ := [], ports := [], cellsIn := [], devM1 := 0, walkUps := [], chainTags := [], nextTag := 0, chainFwd := [], outside := false, wakeMac := (0, 0), chainBack := [], dom := [], fifo := [], cells := [], hoes := [], rails := [], chans := [], jsel := 0, strms := [], macs := [], engines := [],
    cgArm := [], msixTab := [], msixPend := [], hostMac := 0, apllFrom := 0, refSince := none, refLast := 0, pllRuns := false, pllFrom := 0, pwmOn := false, pwmClk := 0, vio := [], blkFrom := 0, trims := [], hq := [], hqLast := 0, hqEnHeld := false, adminLast := (0, 0, 0),
    barHeld := none, barHi := [], boot := .reset, otp := .blank, otpOp := none, keys := [], pwr := .reset, tap := .idcode,
    line := none, snap := none, dlcal := none, ckpts := [], reinst := none, reinstQ := [], leaseHeld := [],
    memCtl := { derate := 1, osc := 0, bank := 0, walk := [] }, released := false, releasedAt := 0, vcoreLow := false, vcoreAt := 0, dbgHeld := [], hostSess := .reset, probeSess := .reset,
    readData := 0, out := [] }

/-- The answer of a command's meaning. -/
abbrev Res := Host.Outcome State Fault Refusal

end Sys2Proof.Machine
end

