-- ==== Sys2Proof/Machine/Ops.lean ====
section
/-! DEFINITION. The named operations over registers, units and counters that every block uses: register access, power
domains, worlds and Walled writers, the tine map, free values, gauges and the fault record. -/

namespace Sys2Proof.Machine

/-! ## Registers -/

/-- The stored value of a register. -/
def reg (s : State) (pg off : Nat) : Word := Tbl.get regReset s.regs (regKey pg off)

/-- Store a register. -/
def setReg (pg off : Nat) (v : Word) (s : State) : State :=
  { s with regs := Tbl.set regReset s.regs (regKey pg off) v }

/-- A field of a stored register. -/
def regF (s : State) (pg off lo len : Nat) : Nat := getF (reg s pg off) lo len

/-- Store one field of a register. -/
def setRegF (pg off lo len v : Nat) (s : State) : State := setReg pg off (setF (reg s pg off) lo len v) s

/-- One bit of a stored register. -/
def regB (s : State) (pg off i : Nat) : Bool := bit (reg s pg off) i

/-- Store one bit of a register. -/
def setRegB (pg off i : Nat) (b : Bool) (s : State) : State := setRegF pg off i 1 (b2n b) s

/-- Count up in a field that stops at its largest value (R69). -/
def bumpF (pg off lo len n : Nat) (s : State) : State :=
  setRegF pg off lo len (satAdd (2 ^ len - 1) (regF s pg off lo len) n) s

/-- Count up in a field that wraps. -/
def wrapF (pg off lo len n : Nat) (s : State) : State :=
  setRegF pg off lo len (regF s pg off lo len + n) s

/-- A plain write under the access types of R11: RW bits stored, W1C bits cleared by ones, the CLR bit's counts zeroed. -/
def writeBySpec (sp : RegSpec) (old v : Word) : Word :=
  let kept := (old &&& ~~~(wd sp.rw)) ||| (v &&& wd sp.rw)
  let w := kept &&& ~~~(v &&& wd sp.w1c)
  if bit v sp.clrBit then w &&& ~~~(wd sp.clr) else w

/-- Words a write stores, with their offsets from its address. -/
def dataWords (d : StoreData) : List (Nat × Word) :=
  match d with
  | .word v => [(0, v)]
  | .dbl lo hi => [(0, lo), (1, hi)]
  | .half _ _ => []
  | .run ws => (List.range ws.length).zip ws

/-! ## Page numbers -/

def pgDev : Nat := 0x000
def pgAon : Nat := 0x001
def pgPwr : Nat := 0x002
def pgSec : Nat := 0x003
def pgNurs : Nat := 0x004
def pgGauge : Nat := 0x005
def pgXlat : Nat := 0x006
def pgShed : Nat := 0x007
def pgDram : Nat := 0x008
def pgTrel : Nat := 0x009
def pgTrch (c : Nat) : Nat := 0x00A + c / 32
def pgHop (h : Nat) : Nat := 0x00E + h / 128
def pgHost : Nat := 0x010
def pgPcie : Nat := 0x011
def pgQspi : Nat := 0x012
def pgEth (m : Nat) : Nat := 0x013 + m
def pgChain : Nat := 0x015
def pgBoot : Nat := 0x016
def pgRowc (r : Nat) : Nat := 0x020 + r
def pgRowp (r : Nat) : Nat := 0x024 + r
def pgHoe (r : Nat) : Nat := 0x028 + r
def pgRail : Nat := 0x02C
def pgPlot (p : Nat) : Nat := 0x040 + p
def pgTine (t : Nat) : Nat := 0x100 + t

/-! ## Power domains (R386, Table 17-1) -/

def domRow (r : Nat) : Nat := 16 + r
def domTrel : Nat := 20
def domShda : Nat := 21
def domShdb : Nat := 22
def domLink : Nat := 23

/-- The state of a domain. -/
def domSt (s : State) (d : Nat) : DomSt := Tbl.get (fun _ => DomSt.run) s.dom d

/-- Put a domain in a state. -/
def setDom (d : Nat) (x : DomSt) (s : State) : State := { s with dom := Tbl.set (fun _ => DomSt.run) s.dom d x }

/-- What is in a domain works: it is in Run, or stopping before its commit point (R390). -/
def domUp (s : State) (d : Nat) : Bool := domSt s d = .run || domSt s d = .stopping

/-- An access to a domain meets DORMANT: its switch is open, or it restores (R390, R394). -/
def domAsleep (s : State) (d : Nat) : Bool := domSt s d = .stop || domSt s d = .restoring

/-- The domain of a register page; none for AON (Table 21-3). -/
def kindDom (k : PageKind) (i : Nat) : Option Nat :=
  match k with
  | .xlat | .trel | .trch | .hop => some domTrel
  | .dram | .host | .pcie | .qspi | .eth | .chain => some domLink
  | .rowc | .rowp | .hoe => some (domRow i)
  | .plot => some i
  | .tine => some (i / 9)
  | _ => none

/-- The domain of a page's register at an offset (R458): a rail's registers are in its row's domain. -/
def pageDom (k : PageKind) (i off : Nat) : Option Nat :=
  match k with
  | .rail => if 0x100 ≤ off ∧ off < 0x180 then some (domRow ((off - 0x100) / 8 / 4)) else none
  | _ => kindDom k i

/-- An access to a page's register does not meet DORMANT (R458). -/
def pageUp (s : State) (k : PageKind) (i off : Nat) : Bool :=
  match pageDom k i off with
  | some d => !domAsleep s d
  | none => true

/-- A domain is STOPPING, before its commit point or after: accesses that arrive are held (R390). -/
def domHeld (s : State) (d : Nat) : Bool := domSt s d = .stopping || domSt s d = .closing

/-- An access to a page's register is held. -/
def pageHeld (s : State) (k : PageKind) (i off : Nat) : Bool :=
  match pageDom k i off with
  | some d => domHeld s d
  | none => false

/-! ## Tines -/

/-- What an unlisted tine is. -/
def tineDflt : Nat → Tine := fun _ => Tine.reset

/-- A physical tine. -/
def tineAt (s : State) (t : Nat) : Tine := Tbl.get tineDflt s.tines t

/-- Replace a physical tine. -/
def setTine (t : Nat) (x : Tine) (s : State) : State := { s with tines := Tbl.set tineDflt s.tines t x }

/-- Change a physical tine. -/
def modTine (t : Nat) (f : Tine → Tine) (s : State) : State := setTine t (f (tineAt s t)) s

/-- Offsets in the TINE pages. -/
def oPACE : Nat := 0x040
def oPSTAT : Nat := 0x041
def oSB : Nat := 0x042
def oRETIRED : Nat := 0x043
def oXCFG : Nat := 0x044
def oXINV : Nat := 0x045
def oTECC : Nat := 0x046
def oCKCFG : Nat := 0x048
def oCKGO : Nat := 0x049
def oCKITEM : Nat := 0x04A
def oCKSTAT : Nat := 0x04B
def oDTHA : Nat := 0x0A0
def oDTHB : Nat := 0x0A1
def oSATA (n : Nat) : Nat := 0x0A4 + n
def oSATG : Nat := 0x0A8
def oRQ (n : Nat) : Nat := 0x080 + 8 * n
def oTST : Nat := 0x0C0
def oLSTAT : Nat := 0x0C1
def oM (k : Nat) : Nat := 0x0C8 + k
def oLS (d : Nat) : Nat := 0x0D0 + d
def oLE (d : Nat) : Nat := 0x0D4 + d
def oLC (d : Nat) : Nat := 0x0D8 + d
def oEOI : Nat := 0x180
def oSSTAT : Nat := 0x181
def oPENDLO : Nat := 0x182
def oCLRPEND : Nat := 0x184
def oRAISE : Nat := 0x185
def oTCMP : Nat := 0x188
def oTPER : Nat := 0x189
def oSCNT : Nat := 0x18A
def oSTK (k : Nat) : Nat := 0x190 + k
def oSCFG (n : Nat) : Nat := 0x1C0 + n
def oSPC (k : Nat) : Nat := 0x280 + 4 * k
def oSST (k : Nat) : Nat := 0x281 + 4 * k
def oSLS (k : Nat) : Nat := 0x282 + 4 * k
def oBANK (b j : Nat) : Nat := 0x2D0 + 4 * b + j
def oVBARO : Nat := 0x320
def oVBARW : Nat := 0x321
def oWCFG : Nat := 0x322
def oCLOCHE : Nat := 0x323
def oFLT : Nat := 0x324

/-- TST.W: the tine runs in the Walled world (Table 6-2). -/
def tW (s : State) (t : Nat) : Bool := regB s (pgTine t) oTST 29

/-- TST.S: the tine runs as supervisor. -/
def tS (s : State) (t : Nat) : Bool := regB s (pgTine t) oTST 28

/-- TST.LVL. -/
def tLvl (s : State) (t : Nat) : Nat := regF s (pgTine t) oTST 30 5

/-- A condition flag of TST: Z 20, N 21, C 22, V 23 (Table 4-2). -/
def tFlag (s : State) (t i : Nat) : Bool := regB s (pgTine t) oTST i

/-- The tine's plot is reachable. -/
def tineUp (s : State) (t : Nat) : Bool := domUp s (t / 9)

/-- The offset of bank register `j` at the tine's level; LVL is 0–18 (Table 6-2, R143). -/
def bankOff (s : State) (t j : Nat) : Nat := oBANK (min (tLvl s t) 18) j

/-- G register `i` of a tine: G28–G31 are in the bank of the current level (R143). -/
def getG (s : State) (t : Nat) (i : Gr) : Word :=
  if i.val < 28 then Tbl.get (fun _ => (0 : Word)) (tineAt s t).g i.val
  else reg s (pgTine t) (bankOff s t (i.val - 28))

/-- Write G register `i` of a tine (R143). -/
def setG (t : Nat) (i : Gr) (v : Word) (s : State) : State :=
  if i.val < 28 then modTine t (fun x => { x with g := Tbl.set (fun _ => (0 : Word)) x.g i.val v }) s
  else setReg (pgTine t) (bankOff s t (i.val - 28)) v s

/-- Accumulator `n` of a tine. -/
def getAcc (s : State) (t : Nat) (n : Nat) : Acc96 := Tbl.get (fun _ => (0 : Acc96)) (tineAt s t).acc n

/-- Write accumulator `n` of a tine. -/
def setAcc (t : Nat) (n : Nat) (v : Acc96) (s : State) : State :=
  modTine t (fun x => { x with acc := Tbl.set (fun _ => (0 : Acc96)) x.acc n v }) s

/-- The physical tine of logical tine `l` (R404); none while it is vacant. -/
def physOf (s : State) (l : Nat) : Option Nat :=
  let w := reg s pgNurs (0x020 + l)
  if bit w 8 then none else some (getF w 0 8)

/-- Search the eight slots of a plot for a physical tine. -/
def logOfFrom (s : State) (p t : Nat) (k : Nat) : Option Nat :=
  match k with
  | 0 => none
  | j + 1 => if physOf s (8 * p + j) = some t then some (8 * p + j) else logOfFrom s p t j

/-- The logical tine a physical tine serves, if it is in service (R404). -/
def logOf (s : State) (t : Nat) : Option Nat := logOfFrom s (t / 9) t 8

/-! ## Worlds and writers -/

/-- The session of an outside requester. -/
def sessLevel (s : State) (w : Who) : Nat :=
  match w with
  | .host => s.hostSess.level
  | .probe => s.probeSess.level
  | _ => 0

/-- Base of channel `c`'s registers in its page (R201). -/
def chBase (c : Nat) : Nat := 0x100 + 0x18 * (c % 32)

/-- The world a requester's accesses carry (R135, R138, R139, R425). -/
def whoWalled (s : State) (w : Who) : Bool :=
  match w with
  | .tine p => tW s p
  | .store _ w _ => w
  | .channel c => regB s (pgTrch c) (chBase c + 3) 0
  | .host => s.hostSess.level = 2
  | .probe => s.probeSess.level = 2
  | .chainWin b => b
  | .graft => true
  | .nursery => true

/-- A Walled writer: WS code, the graft engine, the Nursery, a host or debugger under a Walled grant (R454). -/
def walledWriter (s : State) (w : Who) : Bool :=
  match w with
  | .tine p => tW s p && tS s p
  | .store _ w su => w && su
  | .host => s.hostSess.level = 2
  | .probe => s.probeSess.level = 2
  | .graft => true
  | .nursery => true
  | .channel _ => false
  | .chainWin _ => false

/-- Who may change an owner: WS code, or a host or debugger under a Walled grant (R138). -/
def ownerWriter (s : State) (w : Who) : Bool := walledWriter s w && decide (w ≠ .graft) && decide (w ≠ .nursery)

/-- The source identifier of a requester (Table 17-2). -/
def whoSrc (w : Who) : Nat :=
  match w with
  | .tine p => p
  | .store p _ _ => p
  | .channel c => 0x100 + c
  | .host => 0x310
  | .probe => 0x320
  | .chainWin _ => 0x310
  | .graft => 0x330
  | .nursery => 0x340

/-- Offset of hopper `h`'s block in its page (R265). -/
def hopBase (h : Nat) : Nat := 0x080 + 7 * (h % 128)

/-- A register is Walled-owned: by its page, or by its channel or hopper (R456, R229, R265); the registers of channel 127 and of
hoppers 254 and 255 may be read by anyone, and what others write there is discarded (R202, R258). -/
def offWalled (s : State) (k : PageKind) (pg off : Nat) : Bool :=
  match k with
  | .trch =>
    if 0x100 ≤ off then
      !(decide (pg = pgTrch 127) && decide (chBase 127 ≤ off)) &&
        regB s pg (0x100 + 0x18 * ((off - 0x100) / 0x18) + 3) 0
    else regB s pg 7 0
  | .hop =>
    if 0x080 ≤ off then
      !(decide (pg = pgHop 254) && decide (hopBase 254 ≤ off)) && regB s pg (0x080 + 7 * ((off - 0x080) / 7) + 2) 0
    else regB s pg 7 0
  | _ => regB s pg 7 0

/-- A physical word is fenced from the host and the probe (R432). -/
def fencedPa (s : State) (pa : Nat) : Bool :=
  (List.range 8).any fun i =>
    decide (regF s pgSec (0x020 + 2 * i) 0 34 ≤ pa) && decide (pa < regF s pgSec (0x021 + 2 * i) 0 34)

/-- Physical address of a register. -/
def pageAddr (pg off : Nat) : Nat := 0x08000000 + pg * 0x400 + off

/-- A host or probe access meets a fence: under grant none or Open the fenced ranges, and always the key store (R432). -/
def whoFenced (s : State) (w : Who) (pa : Nat) : Bool :=
  match w with
  | .host => (decide (s.hostSess.level ≠ 2) && fencedPa s pa) || decide (pa = pageAddr pgSec 0x019)
  | .probe => (decide (s.probeSess.level ≠ 2) && fencedPa s pa) || decide (pa = pageAddr pgSec 0x019)
  | _ => false

/-- The device is held in reset: RESET_N is low, or the supervisor holds it (R465, R466). -/
def inReset (s : State) : Bool := !s.released || s.vcoreLow

/-- What stands between a requester and a register. -/
inductive Gate where
  | ok | hole | dormant | held | world | fenced
  deriving DecidableEq, Repr

/-- The checks of a register access by the memory path (R138, R432, R456, R458, R460); a device held in reset answers none (R465). -/
def regGate (s : State) (w : Who) (pg off : Nat) : Gate :=
  match pageKind pg with
  | none => .hole
  | some (k, i) =>
    if inReset s then .hole
    else if !pageUp s k i off then .dormant
    else if pageHeld s k i off then .held
    else if offWalled s k pg off && !whoWalled s w then .world
    else if whoFenced s w (pageAddr pg off) then .fenced
    else .ok

/-- Record a fault on a tine, if it has none; the younger instructions are abandoned (R117). -/
def recordFault (t : Nat) (f : FaultRec) (s : State) : State :=
  modTine t (fun x => if x.fault.isSome then x else { x with fault := some f, window := [] }) s

/-- A fault of an access to a physical address. -/
def accessFault (cause sub addr : Nat) (info : Word) (phys : Bool) : FaultRec :=
  { cause := cause, sub := sub, addr := addr, info := if 0x07 ≤ cause ∧ cause ≤ 0x09 then wd sub else info, phys := phys,
    after := false, half := false }

/-- Record the fault of a tine's access to a register that a command names by its page: FADDR is virtual (Table 6-4), which
is the register's address while the tine does not translate, and a free value where it does (R192, assumption 106). -/
def pageFault (p : TineNo) (cause sub pg off : Nat) (info : Word) (s : State) : State :=
  if regB s (pgTine p) oXCFG 0 then
    recordFault p (accessFault cause sub (Config.freeNat s.free % 2 ^ 32) info false) { s with free := s.free + 1 }
  else recordFault p (accessFault cause sub (pageAddr pg off) info false) s

/-- A register access that does not pass: a held one waits, to be made again; a tine takes WORLD or ADDR (R137, R458), every
other requester's access is discarded, and a fenced one counts (R138, R390, R432). -/
def denied (w : Who) (pg off : Nat) (g : Gate) (s : State) : State :=
  match g, w with
  | .world, .tine p => pageFault p 0x0A 0 pg off (Config.resourceKind 1) s
  | .dormant, .tine p => pageFault p 0x07 5 pg off 0 s
  | .hole, .tine p => pageFault p 0x07 1 pg off 0 s
  | .fenced, _ => bumpF pgSec 0x016 12 12 1 s
  | _, _ => s

/-- Perform a register access if it passes its checks. -/
def gated (w : Who) (pg off : Nat) (f : State → State) (s : State) : State :=
  match regGate s w pg off with
  | .ok => f s
  | g => denied w pg off g s

/-! ## Free values and output -/

/-- Draw a free bit. -/
def drawBit (s : State) : Bool × State := (Config.freeBit s.free, { s with free := s.free + 1 })

/-- Draw a free number. -/
def drawNat (s : State) : Nat × State := (Config.freeNat s.free, { s with free := s.free + 1 })

/-- Draw a free word. -/
def drawWord (s : State) : Word × State := (Config.freeWord s.free, { s with free := s.free + 1 })

/-- Send something out. -/
def emit (o : Out) (s : State) : State := { s with out := s.out ++ [o] }

/-- AON_TICK as a 40-bit number. -/
def tick40 (s : State) : Nat := s.now % 2 ^ 40

/-- A tine that retires instructions or is alive by another rule, noted with the present tick (R407). -/
def alive (t : Nat) (s : State) : State := modTine t (fun x => { x with lastAlive := s.now }) s

/-! ## Gauges (R437, R438) -/

def gaugeDflt : Nat → Gauge := fun _ => Gauge.reset

def gaugeAt (s : State) (g : Nat) : Gauge := Tbl.get gaugeDflt s.gauges g

def setGauge (g : Nat) (x : Gauge) (s : State) : State := { s with gauges := Tbl.set gaugeDflt s.gauges g x }

/-- The bin of a value (R438). -/
def gaugeBin (v lo : Int) (bsh : Nat) : Nat :=
  let k := (v - lo) / (2 ^ bsh : Nat)
  if k < 0 then 0 else min 31 k.toNat

/-- Take one value into a window (R438); `clipped` counts a value clamped at its source (R437). -/
def gaugeAdd (abs clipped : Bool) (v : Int) (x : Gauge) : Gauge :=
  let a : Int := if abs ∧ v < 0 then (if v = -0x80000000 then 0x7FFFFFFF else -v) else v
  let w := x.win
  let k := gaugeBin a x.loInForce x.bshInForce
  { x with win := { w with
      lo := min w.lo a, hi := max w.hi a, count := satAdd 0xFFFFFFFF w.count 1,
      bins := Tbl.set (fun _ => 0) w.bins k (satAdd 0xFFFFFFFF (Tbl.get (fun _ => 0) w.bins k) 1),
      clip := satAdd 0xFFFF w.clip (b2n clipped), valid := true } }

/-- Offset of gauge `g`'s block. -/
def gBase (g : Nat) : Nat := 0x100 + 4 * g

/-- The tick at which a gauge's current window ends by itself, with WIN > 0 (R439). -/
def gaugeEnd (s : State) (g : Nat) : Option Nat :=
  let c := reg s pgGauge (gBase g)
  if bit c 0 ∧ getF c 18 20 ≠ 0 then some ((gaugeAt s g).base + getF c 18 20) else none

/-- The first tick that the current window excludes: its scheduled end, or the tick of a snapshot of the gauge, unless the window
opened at that tick: then one close has served both (R439). -/
def gaugeDue (s : State) (g : Nat) : Option Nat :=
  let snap := match s.snap with
    | some (mask, t, _) => if mask / 2 ^ g % 2 = 1 ∧ (gaugeAt s g).base < t + 1 then some (t + 1) else none
    | none => none
  match gaugeEnd s g, snap with
  | some a, some b => some (min a b)
  | some a, none => some a
  | none, b => b

/-- A tick lies before the end of the current window (R9). -/
def gaugeHolds (s : State) (g t : Nat) : Bool :=
  match gaugeDue s g with
  | some e => decide (t < e)
  | none => true

/-- Offer one value of a quantity to one gauge: a value of a tick that the open window excludes waits for the next (R9, R439). -/
def gaugeOffer (qty src : Nat) (v : Int) (clipped : Bool) (g : Nat) (s : State) : State :=
  let c := reg s pgGauge (gBase g)
  let x := gaugeAt s g
  if bit c 0 ∧ getF c 2 4 = qty ∧ getF c 6 12 = src ∧ x.start ≤ s.now then
    if gaugeHolds s g s.now then setGauge g (gaugeAdd (bit c 1) clipped v x) s
    else setGauge g { x with late := x.late ++ [(s.now, v, clipped)] } s
  else s

/-- Offer one value of a quantity to every gauge that watches it (R437). -/
def gaugeTake (qty src : Nat) (v : Int) (clipped : Bool) (s : State) : State :=
  forAll (List.range 64) (gaugeOffer qty src v clipped) s

/-! ## The fault record (R448) -/

/-- Append an entry to the fault record. -/
def frecAdd (kind src : Nat) (data : Word) (s : State) : State :=
  let seq := regF s pgGauge 0x014 0 32
  let ent : FrecEnt := { seq := seq, tick := tick40 s, kind := kind, src := src, data := data }
  let full := 64 ≤ s.frec.length
  let l := (if full then s.frec.drop 1 else s.frec) ++ [ent]
  let s1 := { s with frec := l }
  let s2 := setRegF pgGauge 0x014 0 32 (seq + 1) s1
  let s3 := setRegF pgGauge 0x014 32 7 l.length s2
  if full then bumpF pgGauge 0x015 0 16 1 s3 else s3

/-- Change the data of the entries that a test picks (R449). -/
def frecAmend (p : FrecEnt → Bool) (data : Word) (s : State) : State :=
  { s with frec := s.frec.map fun e => if p e then { e with data := data } else e }

end Sys2Proof.Machine
end

