-- ==== Sys2Proof/Machine/Sieve.lean ====
section
/-! DEFINITION. The event sieve: pending bits, deliverability, arbitration, takeover and abandonment, hold-off, the running
record, and the routes of plots, beds and the device (R159–R176). -/

namespace Sys2Proof.Machine

/-- The pending bit of input `n` on a physical tine. -/
def sievePend (s : State) (t n : Nat) : Bool := regB s (pgTine t) (oPENDLO + n / 32) (n % 32)

/-- Set or clear the pending bit of an input. -/
def setPend (t n : Nat) (b : Bool) (s : State) : State := setRegB (pgTine t) (oPENDLO + n / 32) (n % 32) b s

/-- PRI of an input (R161). -/
def inPri (s : State) (t n : Nat) : Nat := regF s (pgTine t) (oSCFG n) 0 4

/-- The owner of an input: Walled (R161). -/
def inWalled (s : State) (t n : Nat) : Bool := regB s (pgTine t) (oSCFG n) 5

/-- The tine is asleep in WAIT (R167). -/
def asleep (s : State) (t : Nat) : Bool := (tineAt s t).flight = some .wait

/-- The tine is held by nothing that stops delivery: not halted, not locked, not retired, its plot up. -/
def tineLive (s : State) (t : Nat) : Bool :=
  (tineAt s t).halt = .no && !(tineAt s t).locked && !(tineAt s t).retired && tineUp s t

/-- OPEN_FLOOR; values 17–31 act as 16 (R140). -/
def openFloor (s : State) (t : Nat) : Nat := min 16 (regF s (pgTine t) oWCFG 0 5)

/-- Input `n` is deliverable against level `lvl` and world `w` (R162, R140), the halt and the cloche aside. -/
def deliverableAt (s : State) (t : Nat) (lvl : Nat) (w sleeping : Bool) (n : Nat) : Bool :=
  let p := inPri s t n
  let st := reg s (pgTine t) oSSTAT
  sievePend s t n && regB s (pgTine t) (oSCFG n) 4 &&
    (bit st 4 || decide (getF st 0 4 < p)) && decide (lvl < p + 1) && decide (lvl ≤ 16) &&
    (sleeping || decide (Tbl.get (fun _ => 0) (tineAt s t).hold n ≤ s.now)) &&
    !(w && !inWalled s t n && decide (p < openFloor s t))

/-- The best of the first `k` inputs by priority, then by lowest number (R163). -/
def bestBelow (s : State) (t lvl : Nat) (w sleeping : Bool) (k : Nat) : Option Nat :=
  match k with
  | 0 => none
  | j + 1 =>
    match bestBelow s t lvl w sleeping j with
    | none => if deliverableAt s t lvl w sleeping j then some j else none
    | some b =>
      if deliverableAt s t lvl w sleeping j && decide (inPri s t b < inPri s t j) then some j else some b

/-- A debug step is under way: event delivery is held (R430). -/
def stepping (x : Tine) : Bool :=
  match x.dreq with
  | .step _ => true
  | _ => false

/-- The input the sieve would take now (R162, R163). -/
def sieveBest (s : State) (t : Nat) : Option Nat :=
  if tineLive s t && regF s (pgTine t) oCLOCHE 0 7 = 0 && !stepping (tineAt s t) then
    bestBelow s t (tLvl s t) (tW s t) (asleep s t) 64
  else none

/-- Choose an entry. -/
def setEntry (t : Nat) (e : Option Nat) (s : State) : State := modTine t (fun x => { x with entry := e }) s

/-- A recorded fault that no entry may pass: its instruction has retired (R52, SYSC), or the first half of its access
stands (R125, R126). -/
def faultStands (s : State) (t : Nat) : Bool :=
  match (tineAt s t).fault with
  | some f => f.after || f.half
  | none => false

/-- A fault is owed before any entry may begin: a standing one, or a reported drain (R123). -/
def owesFault (s : State) (t : Nat) : Bool := faultStands s t || !(tineAt s t).drain.isEmpty

/-- Arbitrate again: begin an entry, take it over for a higher input (R168), or drop one no longer deliverable. -/
def sieveUpdate (t : Nat) (s : State) : State :=
  match (tineAt s t).entry, sieveBest s t with
  | none, none => s
  | none, some n => if owesFault s t then s else setEntry t (some n) s
  | some _, none => setEntry t none s
  | some e, some n =>
    if n = e then s
    else if inPri s t e < inPri s t n then bumpF (pgTine t) oSCNT 0 16 1 (setEntry t (some n) s)
    else setEntry t (some n) s

/-- Abandon the entry in progress (R169) and arbitrate again. -/
def sieveAbandon (t : Nat) (s : State) : State :=
  sieveUpdate t (bumpF (pgTine t) oSCNT 16 16 1 (setEntry t none s))

/-- An arrival at input `n` of a physical tine (R160). -/
def raise (t n : Nat) (s : State) : State :=
  if tineUp s t then sieveUpdate t (setPend t n true s) else s

/-- An arrival at input `n` of a logical tine; a vacant one loses it (R405). -/
def raiseLog (n l : Nat) (s : State) : State :=
  match physOf s l with
  | some t => raise t n s
  | none => bumpF pgNurs 0x016 12 12 1 s

/-! ## Routes (R175, R176) -/

/-- The members of a unit: plot 0–15 as 0–15, beds as 16–19, the device as 20, the chain as 21. -/
def routeWord (s : State) (u : Nat) : Word :=
  if u < 16 then reg s (pgPlot u) 0x014
  else if u < 20 then reg s pgDev (0x01C + 8 * (u - 16))
  else if u = 20 then reg s pgDev 0x014
  else reg s pgDev 0x044

/-- A route register takes a route word (Table 7-2): MODE 4–7 leave MODE unchanged, and RR starts again at TARGET (R176). -/
def routeStore (u pg off : Nat) (v : Word) (s : State) : State :=
  let v1 := v &&& wd 0xFFFFF7
  let v2 := if 4 ≤ getF v 0 3 then setF v1 0 3 (regF s pg off 0 3) else v1
  { setReg pg off v2 s with rrLast := Tbl.set (fun _ => 0) s.rrLast u 0 }

/-- Members `from, from + 1, …` modulo `n`, `k` of them. -/
def ringFrom (n start k : Nat) : List Nat := (List.range k).map fun i => (start + i) % n

/-- The members a route word takes (R176): `bad` marks members treated as excluded, `idle` those with a sleeping tine. EXCL and
vacancies that exclude every member together act as no exclusion, as EXCL alone does (assumption 144). -/
def routePick (w : Word) (n last : Nat) (bad idle : Nat → Bool) : List Nat :=
  let excl (k : Nat) : Bool := bit w (8 + k) || bad k
  let none' := (List.range n).all excl
  let ok (k : Nat) : Bool := none' || !excl k
  let order := (ringFrom n (getF w 4 4 % n) n).filter ok
  match getF w 0 3 with
  | 0 => (List.range n).filter ok
  | 1 => order.take 1
  | 2 => match order.filter idle with
    | k :: _ => [k]
    | [] => order.take 1
  | _ => if last = 0 then order.take 1 else ((ringFrom n (last % n) n).filter ok).take 1

/-- The slot of a plot holds a tine asleep in WAIT, which no event has woken (R167, R176). -/
def slotIdle (s : State) (p k : Nat) : Bool :=
  match physOf s (8 * p + k) with
  | some t => asleep s t && decide ((tineAt s t).entry = none)
  | none => false

/-- A plot holds a tine asleep in WAIT. -/
def plotIdle (s : State) (p : Nat) : Bool := (List.range 8).any (slotIdle s p)

/-- A bed holds a tine asleep in WAIT. -/
def bedIdle (s : State) (b : Nat) : Bool := (List.range 4).any fun k => plotIdle s (4 * b + k)

/-- What the members of a unit are: their count, which are treated as excluded, which are idle. -/
def routeNow (s : State) (u : Nat) : List Nat :=
  let w := routeWord s u
  let last := Tbl.get (fun _ => 0) s.rrLast u
  if u < 16 then routePick w 8 last (fun k => (physOf s (8 * u + k)).isNone) (slotIdle s u)
  else if u < 20 then routePick w 4 last (fun _ => false) (fun k => plotIdle s (4 * (u - 16) + k))
  else routePick w 4 last (fun _ => false) (bedIdle s)

/-- Remember the member an RR route chose. -/
def noteRR (u : Nat) (ks : List Nat) (s : State) : State :=
  match ks with
  | [k] => if getF (routeWord s u) 0 3 = 3 then { s with rrLast := Tbl.set (fun _ => 0) s.rrLast u (k + 1) } else s
  | _ => s

/-- An event at a plot goes through its route. -/
def raisePlot (n p : Nat) (s : State) : State :=
  let ks := routeNow s p
  forAll ks (fun k => raiseLog n (8 * p + k)) (noteRR p ks s)

/-- An event at a bed goes through its route. -/
def raiseBed (n b : Nat) (s : State) : State :=
  let ks := routeNow s (16 + b)
  forAll ks (fun k => raisePlot n (4 * b + k)) (noteRR (16 + b) ks s)

/-- An event at the device goes through its route. -/
def raiseDev (n : Nat) (s : State) : State :=
  let ks := routeNow s 20
  forAll ks (raiseBed n) (noteRR 20 ks s)

/-- An event at a unit of LEVEL 0–3 (R175, R287). -/
def raiseUnit (level unit n : Nat) (s : State) : State :=
  match level with
  | 0 => raiseLog n (unit % 128) s
  | 1 => raisePlot n (unit % 16) s
  | 2 => raiseBed n (unit % 4) s
  | 3 => raiseDev n s
  | _ => s

/-! ## The running record (R164, R165) -/

/-- The layout of STAT [12:0] for an entry's record. -/
def recWord (pri : Nat) (w : Bool) (n : Nat) : Nat := pri + 32 * b2n w + 64 * n

/-- Push the record and make a new one, at the commit of an entry (R164). -/
def recPush (t : Nat) (pri : Nat) (w : Bool) (n : Nat) (s : State) : State :=
  let st := reg s (pgTine t) oSSTAT
  let d := getF st 13 5
  let s1 := setReg (pgTine t) (oSTK d) (wd (getF st 0 13)) s
  setReg (pgTine t) oSSTAT (setF (setF st 0 13 (recWord pri w n)) 13 5 (d + 1)) s1

/-- Pop the stack into the record; the entry popped then reads 0 (assumption 143). -/
def recPop (t : Nat) (s : State) : State :=
  let st := reg s (pgTine t) oSSTAT
  let d := getF st 13 5
  let top := getF (reg s (pgTine t) (oSTK (d - 1))) 0 13
  setReg (pgTine t) (oSTK (d - 1)) 0 (setReg (pgTine t) oSSTAT (setF (setF st 0 13 top) 13 5 (d - 1)) s)

/-- An input is active: in the running record or on the stack (R161). -/
def inActive (s : State) (t n : Nat) : Bool :=
  let st := reg s (pgTine t) oSSTAT
  (!bit st 4 && decide (getF st 6 6 = n)) ||
    (List.range (getF st 13 5)).any fun k =>
      let e := reg s (pgTine t) (oSTK k)
      !bit e 4 && decide (getF e 6 6 = n)

/-- A write to SIEVE_EOI by `osOnly` code in OS or by another party (R165). -/
def sieveEoi (openSup : Bool) (t : Nat) (s : State) : State :=
  let st := reg s (pgTine t) oSSTAT
  if bit st 4 then setRegB (pgTine t) oSSTAT 18 true s
  else if openSup && bit st 5 then setRegB (pgTine t) oSSTAT 19 true s
  else sieveUpdate t (recPop t s)

/-- A SIEVE_CLRPEND of input `n` (R160, R169, R174); it abandons the entry for `n`. -/
def sieveClrPend (t n : Nat) (s : State) : State :=
  if n = 60 then s
  else
    let s1 := setPend t n false s
    if (tineAt s t).entry = some n then sieveAbandon t s1 else sieveUpdate t s1

/-- The owner bit of a written configuration takes effect (R138, R161): by WS or a Walled grant, input neither pending
nor active. -/
def cfgOwnerOk (s : State) (who : Who) (t n : Nat) : Bool :=
  ownerWriter s who && !sievePend s t n && !inActive s t n

/-- A write of SIEVE_CFGn (R161, R165, R169, R174). `openSup`: from OS, or from a requester of the Open world. -/
def sieveCfgWrite (who : Who) (openSup : Bool) (t n : Nat) (v : Word) (s : State) : State :=
  let old := reg s (pgTine t) (oSCFG n)
  if n = 60 ∨ (openSup ∧ bit old 5) then s
  else
    let v1 := setF (setF 0 0 16 (getF v 0 16)) 5 1 (if cfgOwnerOk s who t n then getF v 5 1 else getF old 5 1)
    let s1 := setReg (pgTine t) (oSCFG n) v1 s
    if (tineAt s t).entry = some n ∧
        (getF old 0 5 ≠ getF v1 0 5 ∨
          !deliverableAt s1 t (tLvl s1 t) (tW s1 t) (asleep s1 t) n) then
      sieveAbandon t s1
    else sieveUpdate t s1

/-- A change of TINE_WCFG (R140, R169). -/
def wcfgWrite (t : Nat) (v : Word) (s : State) : State :=
  let s1 := setReg (pgTine t) oWCFG (wd (getF v 0 5)) s
  match (tineAt s t).entry with
  | some n =>
    if deliverableAt s1 t (tLvl s1 t) (tW s1 t) (asleep s1 t) n then sieveUpdate t s1 else sieveAbandon t s1
  | none => sieveUpdate t s1

/-! ## The tine timer (R172) -/

/-- A compare tick lies in the past: its tick has begun. -/
def tmrPast (s : State) (c : Nat) : Bool :=
  let d := (c + 2 ^ 32 - s.now % 2 ^ 32) % 2 ^ 32
  decide (d = 0) || decide (2 ^ 31 ≤ d)

/-- The smallest number of periods that places a compare `behind` ticks back after the present tick (R172). A period below
2^31 steps forward past the present tick; a larger one steps back by 2^32 − PER, half a turn or more behind. -/
def tmrSkip (behind per : Nat) : Nat :=
  if per < 2 ^ 31 then behind / per + 1 else (2 ^ 31 - behind) / (2 ^ 32 - per) + 1

/-- Raise input 62 and advance the compare, catching up past the present tick. Where no multiple of PER leaves the past, which
only PER = 2^31 allows, the new CMP is free (R172, assumption 101). -/
def tmrFire (t : Nat) (s : State) : State :=
  let c := regF s (pgTine t) oTCMP 0 32
  let per := regF s (pgTine t) oTPER 0 32
  let s1 := raise t 62 s
  if per = 0 then setRegB (pgTine t) oSSTAT 21 false s1
  else
    let c1 := (c + per) % 2 ^ 32
    if tmrPast s c1 then
      let c2 := (c1 + tmrSkip ((s.now % 2 ^ 32 + 2 ^ 32 - c1) % 2 ^ 32) per * per) % 2 ^ 32
      if tmrPast s c2 then
        let (v, s2) := drawNat s1
        setRegF (pgTine t) oTCMP 0 32 v s2
      else setRegF (pgTine t) oTCMP 0 32 c2 s1
    else setRegF (pgTine t) oTCMP 0 32 c1 s1

/-- A write of SIEVE_TMR_CMP (R172). -/
def tmrCmpWrite (t : Nat) (v : Word) (s : State) : State :=
  let s1 := setReg (pgTine t) oTCMP (wd (getF v 0 32)) s
  if getF v 0 32 = 0 ∧ regF s (pgTine t) oTPER 0 32 = 0 then setRegB (pgTine t) oSSTAT 21 false s1
  else
    let s2 := setRegB (pgTine t) oSSTAT 21 true s1
    if tmrPast s (getF v 0 32) then tmrFire t s2 else s2

end Sys2Proof.Machine
end

