-- ==== Sys2Proof/Machine/Hopper.lean ====
section
/-! DEFINITION. Hopper contents: acceptance of a push, pops in priority order, notices, retention and the tail window
(R251–R263), and the delivery of page interrupts through a hopper (R455). -/

namespace Sys2Proof.Machine

def hopDflt : Nat → HopQ := fun _ => HopQ.reset

/-- A hopper's contents. -/
def hopAt (s : State) (h : Nat) : HopQ := Tbl.get hopDflt s.hops h

/-- Replace a hopper's contents. -/
def setHop (h : Nat) (x : HopQ) (s : State) : State := { s with hops := Tbl.set hopDflt s.hops h x }

/-- HOP_CFG of a hopper. -/
def hopCfg (s : State) (h : Nat) : Word := reg s (pgHop h) (hopBase h)

/-- SLOTS (R254). -/
def hopSlots (s : State) (h : Nat) : Nat := getF (hopCfg s h) 0 11

/-- Visible items (DEPTH of Table 11-3). -/
def hopDepth (s : State) (h : Nat) : Nat := (hopAt s h).items.length + (hopAt s h).back.length

/-- RETAINED. -/
def hopRetained (s : State) (h : Nat) : Nat := (hopAt s h).retained.length

/-- An allocated hopper is full when DEPTH + RETAINED = SLOTS (R255). -/
def hopFull (s : State) (h : Nat) : Bool :=
  decide (0 < hopSlots s h) && decide (hopSlots s h ≤ hopDepth s h + hopRetained s h)

/-- HOP_POOL.FREE (R254). -/
def hopFree (s : State) : Nat := 16384 - ((List.range 256).map (hopSlots s)).foldl (· + ·) 0

/-- A logical tine is a member of the bound unit (R256). -/
def hopReader (s : State) (h l : Nat) : Bool :=
  let c := hopCfg s h
  match getF c 11 3 with
  | 0 => decide (l = getF c 14 7)
  | 1 => decide (l / 8 = getF c 14 7)
  | 2 => decide (l / 32 = getF c 14 7)
  | 3 => true
  | _ => false

/-- A physical tine is a reader: it serves a member of the bound unit. -/
def hopTineReader (s : State) (h t : Nat) : Bool :=
  match logOf s t with
  | some l => hopReader s h l
  | none => false

/-- A physical tine is a writer (R256). -/
def hopTineWriter (s : State) (h t : Nat) : Bool := bit (hopCfg s h) 21 || hopTineReader s h t

/-- The end of a tail window that opens at tick `t` (R261). -/
def tailOpen (s : State) (h : Nat) (t : Nat) : Option Nat :=
  let len := regF s (pgHop h) (hopBase h + 1) 20 20
  if len = 0 then none else some (t + len)

/-- The notice of an accepted push (R260). -/
def hopNotice (h before : Nat) (s : State) : State :=
  let n := reg s (pgHop h) (hopBase h + 1)
  let c := hopCfg s h
  let thr := if getF n 6 10 = 0 then 1 else getF n 6 10
  let fire := match getF n 0 2 with
    | 0 => false
    | 1 => true
    | 2 => decide (before = 0)
    | _ => decide (before + 1 = thr)
  if fire then raiseUnit (getF c 11 3) (getF c 14 7) (getF n 2 4) s else s

/-- The hopper's tail window has ended and its notice is still owed: what is stamped from then on does not prevent it (R261). -/
def tailDue (s : State) (h : Nat) : Bool :=
  match (hopAt s h).tailEnd with
  | some e => decide (e ≤ s.now)
  | none => false

/-- Accept a push (R252). -/
def hopAccept (h : Nat) (item : Word) (s : State) : State :=
  let q := hopAt s h
  let before := hopDepth s h
  let tail := if before = 0 ∧ !tailDue s h then tailOpen s h s.now else q.tailEnd
  let s1 := setHop h { q with items := q.items ++ [item], tailEnd := tail } s
  hopNotice h before (gaugeTake 4 h (before + 1 : Nat) false s1)

/-- Count a discarded push. -/
def hopDrop (h : Nat) (s : State) : State := bumpF (pgHop h) (hopBase h + 4) 0 16 1 s

/-- What becomes of a push (R253, R255, R259). -/
inductive PushEnd where
  | accepted | dropped | full | unalloc
  deriving DecidableEq, Repr

/-- Offer an item: accepted, counted as a drop for kind 0xF, or turned away as full or unallocated. -/
def hopOffer (h : Nat) (item : Word) (s : State) : PushEnd × State :=
  if hopSlots s h = 0 then (.unalloc, s)
  else if getF item 32 4 = 15 then (.dropped, hopDrop h s)
  else if hopFull s h then (.full, s)
  else (.accepted, hopAccept h item s)

/-- A write to HOP_PUSH (R259): what is not accepted is discarded and counted. -/
def hopWritePush (h : Nat) (item : Word) (s : State) : State :=
  match hopOffer h item s with
  | (.accepted, s1) => s1
  | (.dropped, s1) => s1
  | (.full, s1) => hopDrop h s1
  | (.unalloc, s1) => hopDrop h s1

/-- The priority of an item (R251). -/
def itemPri (w : Word) : Nat := getF w 36 4

/-- Position of the item of highest priority, the first accepted among equals (R252). -/
def bestItem (l : List Word) : Option Nat :=
  match l with
  | [] => none
  | w :: rest =>
    match bestItem rest with
    | none => some 0
    | some k =>
      match rest[k]? with
      | some x => if itemPri w < itemPri x then some (k + 1) else some 0
      | none => some 0

/-- What a pop would return, for readers that own no returned items (HOP_PEEK). -/
def hopPeek (s : State) (h : Nat) : Word :=
  match (hopAt s h).back with
  | (w, _) :: _ => w
  | [] =>
    match bestItem (hopAt s h).items with
    | some k => ((hopAt s h).items[k]?).getD voidWord
    | none => voidWord

/-- After a pop: the tail window restarts unless its end has come (R261), retention (R262), the gauge. -/
def popDone (h : Nat) (item : Word) (l : Option Nat) (items : List Word) (back : List (Word × Nat)) (s : State) : State :=
  let q := hopAt s h
  let depth := items.length + back.length
  let tail := if tailDue s h then q.tailEnd else if depth = 0 then none else tailOpen s h s.now
  let ret := if bit (hopCfg s h) 22 then q.retained ++ [(item, l.getD 255)] else q.retained
  gaugeTake 4 h (depth : Nat) false
    (setHop h { items := items, retained := ret, back := back, tailEnd := tail } s)

/-- A pop by a reader serving logical tine `l` (R252, R253, R415). -/
def hopPop (h : Nat) (l : Option Nat) (s : State) : Word × State :=
  let q := hopAt s h
  match findPos (fun e => decide (some e.2 = l)) q.back with
  | some k =>
    let w := ((q.back[k]?).map (·.1)).getD voidWord
    (w, popDone h w l q.items (dropAt q.back k) s)
  | none =>
    match bestItem q.items with
    | some k =>
      let w := (q.items[k]?).getD voidWord
      (w, popDone h w l (dropAt q.items k) q.back s)
    | none => (voidWord, s)

/-- A hopper's tail window ends on a non-empty hopper: the tail notice (R261). -/
def hopTail (h : Nat) (s : State) : State :=
  let q := hopAt s h
  match q.tailEnd with
  | none => s
  | some e =>
    if e ≤ s.now then
      let c := hopCfg s h
      let n := reg s (pgHop h) (hopBase h + 1)
      let next := if hopDepth s h = 0 then none else tailOpen s h e
      let s1 := setRegB (pgHop h) (hopBase h + 3) 23 true (setHop h { q with tailEnd := next } s)
      raiseUnit (getF c 11 3) (getF c 14 7) (getF n 16 4) (bumpF (pgHop h) (hopBase h + 4) 16 16 1 s1)
    else s

/-- The pages' interrupt word P = RAW and EN (R455). -/
def pageP (s : State) (pg : Nat) : Word := reg s pg 4 &&& reg s pg 5

/-- MSI-X messages can be sent: the link is up and the host has enabled them (R455). -/
def msixOk (s : State) : Bool := regB s pgPcie 0x010 4 && regB s pgPcie 0x010 5 && domUp s domLink

/-- Send MSI-X vector `v`: a masked entry leaves it pending (R321, R455). -/
def msixSend (v : Nat) (s : State) : State :=
  if !msixOk s then s
  else if (Tbl.get (fun _ => MsixEnt.reset) s.msixTab v).mask then { s with msixPend := insSorted s.msixPend v }
  else
    let e := Tbl.get (fun _ => MsixEnt.reset) s.msixTab v
    emit (.msix v e.addr e.data) s

/-- A page delivers: the notice item and the MSI-X message (R455). -/
def pageDeliver (pg : Nat) (s : State) : State :=
  let c := reg s pg 2
  let s1 :=
    if bit c 11 then
      match hopOffer (getF c 3 8) (wd (getF c 12 4 * 2 ^ 36 + 2 * 2 ^ 32 + pg % 512)) s with
      | (.accepted, s') => s'
      | (.dropped, s') => s'
      | (_, s') => setRegB pg 3 2 true (hopDrop (getF c 3 8) s')
    else s
  if bit c 22 then msixSend (getF c 16 6) s1 else s1

/-- A block sets RAW bit `n` of a page (R455). -/
def pageIrq (pg n : Nat) (s : State) : State :=
  let before := pageP s pg
  let s1 := setRegB pg 4 n true s
  if before = 0 ∧ pageP s1 pg ≠ 0 ∧ regB s1 pg 2 0 then pageDeliver pg s1 else s1

end Sys2Proof.Machine
end

