-- ==== Sys2Proof/Machine/Health.lean ====
section
/-! DEFINITION. Retirement decisions, the third fault and the lock latch (R151, R407, R408), and the counting and report
of ECC errors (R190, R191). -/

namespace Sys2Proof.Machine

/-- The Nursery decides to retire a physical tine: it stops and waits for its replacement (R408, R414). A locked tine stays
halted until the host orders its retirement, cause 5 (R151). -/
def nursDecide (t cause : Nat) (s : State) : State :=
  if (tineAt s t).retired || ((tineAt s t).locked && decide (cause ≠ 5)) then s
  else
    let s1 := modTine t (fun x => { x with
      retired := true, flight := none, window := [], fault := none, drain := [], sb := [], entry := none, dreq := .none }) s
    let s2 := { s1 with
      retireQ := s1.retireQ ++ [(t, cause, s.now)]
      withheld := s1.withheld.filter fun e => decide (e.1 ≠ .store (Fin.ofNat 144 t)) }
    bumpF pgNurs 0x016 0 12 1 s2

/-- Clear the lock latch and take the lowest other locked tine (R151). -/
def lockClr (s : State) : State :=
  if regB s pgNurs 0x011 8 then
    let rest := s.lockSet.filter fun t => decide (t ≠ regF s pgNurs 0x011 0 8)
    let s1 := { s with lockSet := rest }
    match rest with
    | t :: _ => setReg pgNurs 0x011 (wd (t + 0x100)) s1
    | [] => setReg pgNurs 0x011 0 s1
  else s

/-- A locked tine leaves the lock set, by retirement (R151, R407). -/
def lockRemove (t : Nat) (s : State) : State :=
  if regB s pgNurs 0x011 8 ∧ regF s pgNurs 0x011 0 8 = t then lockClr s
  else { s with lockSet := s.lockSet.filter fun x => decide (x ≠ t) }

/-- Locked tines other than the latched one (MORE of Table 6-7). -/
def lockMore (s : State) : Nat := s.lockSet.length - b2n (regB s pgNurs 0x011 8)

/-- The third fault (R151). -/
def thirdFault (t : Nat) (s : State) : State :=
  let s0 := modTine t (fun x => { x with flight := none, window := [], fault := none, drain := [], entry := none, dreq := .none }) s
  if regB s pgNurs 0x010 0 then
    let s1 := modTine t (fun x => { x with locked := true }) s0
    let s2 := { s1 with lockSet := insSorted s1.lockSet t }
    let s3 := if regB s2 pgNurs 0x011 8 then s2 else setReg pgNurs 0x011 (wd (t + 0x100)) s2
    frecAdd 5 t 0 s3
  else nursDecide t 1 s0

/-- UE_WIN in ticks and UE_MAX (Table 18-5). -/
def ueWinTicks (s : State) : Nat := 1000 * max 1 (regF s pgNurs 0x012 24 10)
def ueMax (s : State) : Nat := max 1 (regF s pgNurs 0x012 20 4)

/-- An uncorrectable error in a tine's trays counts toward TRAY_UE: UE_MAX of them within one window that begins with the first
of them (Table 18-1). -/
def nursTrayUe (t : Nat) (s : State) : State :=
  let old := (tineAt s t).ueWin
  let l := old.drop (old.length - 14) ++ [s.now]
  let s1 := modTine t (fun x => { x with ueWin := l }) s
  if ueMax s ≤ (l.filter fun a => decide (s.now < a + ueWinTicks s)).length ∧ (logOf s t).isSome then nursDecide t 4 s1
  else s1

/-! ## The physical map (R26, Table 1-6) -/

/-- Where a physical word address lies. -/
inductive Region where
  | rom
  | itray (t off : Nat)
  | dtray (t off : Nat)
  | shed (b : Bool)
  | page (pg off : Nat)
  | dram (line slot : Nat)
  | window (c n : Nat)
  | hole
  deriving DecidableEq, Repr

/-- The region of a physical word address. -/
def regionOf (pa : Nat) : Region :=
  if pa < 0x10000 then .rom
  else if 0x01000000 ≤ pa ∧ pa < 0x01000000 + 144 * 0x10000 then
    let t := (pa - 0x01000000) / 0x10000
    let o := pa % 0x10000
    if o < 0x4000 then .itray t o else if o < 0x8000 then .hole else .dtray t (o - 0x8000)
  else if 0x04000000 ≤ pa ∧ pa < 0x04200000 then .shed false
  else if 0x04200000 ≤ pa ∧ pa < 0x04400000 then .shed true
  else if 0x08000000 ≤ pa ∧ pa < 0x08000000 + 0x200 * 0x400 then
    let pg := (pa - 0x08000000) / 0x400
    if (pageKind pg).isSome then .page pg (pa % 0x400) else .hole
  else if 0x100000000 ≤ pa ∧ pa < 0x140000000 then .dram ((pa - 0x100000000) / 16) (pa % 16)
  else if 0x200000000 ≤ pa ∧ pa < 0x300000000 then .window ((pa - 0x200000000) / 0x10000000) (pa % 0x10000000)
  else .hole

/-- The Nursery's reserved region (R183). -/
def reservedPa (pa : Nat) : Bool := decide (0x041C0000 ≤ pa) && decide (pa < 0x04200000)

/-- The tray window of a tine. -/
def trayBase (t : Nat) : Nat := 0x01000000 + t * 0x10000

/-- Trugs of the fitted DRAM (R185, R186). -/
def dramLines (s : State) : Nat :=
  match regF s pgDram 0x010 0 2 with
  | 0 => 0
  | 1 => 2 ^ 24
  | 2 => 2 ^ 25
  | _ => 2 ^ 26

/-- CHAIN_STAT.READY and the device's own chain address (R358). -/
def chainReady (s : State) : Bool := regB s pgChain 0x011 5
def chainAddr (s : State) : Nat := regF s pgChain 0x011 0 4
def chainHead (s : State) : Bool := regB s pgChain 0x011 4

/-- The device stays outside the chain (R358), whether or not software has cleared OVER. -/
def chainOver (s : State) : Bool := s.outside

/-- The window of a chain address reaches an enumerated member that is not ABSENT (R27, R359). -/
def windowOpen (s : State) (c : Nat) : Bool :=
  chainReady s && regB s pgChain 0x012 c && !regB s pgChain 0x012 (16 + c)

/-- An address through the device's own window is the address itself (R27). -/
def ownPa (s : State) (pa : Nat) : Nat :=
  match regionOf pa with
  | .window c n => if windowOpen s c && decide (c = chainAddr s) then n else pa
  | _ => pa

/-- The power domain that a physical word address depends on (Table 8-1, Table 17-1). -/
def paDom (pa : Nat) : Option Nat :=
  match regionOf pa with
  | .itray t _ | .dtray t _ => some (t / 9)
  | .shed b => some (if b then domShdb else domShda)
  | .dram _ _ | .window _ _ => some domLink
  | .page pg off =>
    match pageKind pg with
    | some (k, i) => pageDom k i off
    | none => none
  | .rom | .hole => none

/-- The memory code of ECC_LAST.MEM (Table 8-10). -/
def memCode (pa : Nat) : Nat :=
  match regionOf pa with
  | .itray _ _ => 0
  | .dtray _ _ => 1
  | .shed false => 2
  | .shed true => 3
  | .dram _ _ => 4
  | _ => 0

/-- The address ECC_LAST records: for DRAM, the first word of the half-trug. -/
def eccAddr (pa : Nat) : Nat :=
  match regionOf pa with
  | .dram line slot => 0x100000000 + 16 * line + (if slot < 6 then 0 else 6)
  | _ => pa

/-- Record an error in an ECC_LAST register (Table 8-10). -/
def eccLast (pg pa : Nat) (isUe weeder : Bool) (s : State) : State :=
  let old := reg s pg (if pg = pgDram then 0x012 else 0x011)
  if bit old 37 && !isUe then s
  else
    setReg pg (if pg = pgDram then 0x012 else 0x011)
      (wd (eccAddr pa + memCode pa * 2 ^ 34 + b2n isUe * 2 ^ 37 + b2n weeder * 2 ^ 38 + 2 ^ 39)) s

/-- Count, record and report one ECC error (R190, R191, R199). -/
def eccEvent (pa : Nat) (isUe weeder : Bool) (src : Nat) (s : State) : State :=
  let lo := if isUe then 16 else 0
  let pg := if memCode pa = 4 then pgDram else pgShed
  let s1 := eccLast pg pa isUe weeder (bumpF pg (if pg = pgDram then 0x011 else 0x010) lo 16 1 s)
  let s2 := match regionOf pa with
    | .itray t _ => bumpF (pgTine t) oTECC lo 16 1 s1
    | .dtray t _ => bumpF (pgTine t) oTECC lo 16 1 s1
    | _ => s1
  if isUe then
    let s3 := pageIrq pg 0 s2
    let s4 := frecAdd 4 src (wd (eccAddr pa + memCode pa * 2 ^ 34)) s3
    match regionOf pa with
    | .itray t _ => nursTrayUe t s4
    | .dtray t _ => nursTrayUe t s4
    | _ => s4
  else s2

end Sys2Proof.Machine
end

