-- ==== Sys2Proof/Machine/Mem.lean ====
section
/-! DEFINITION. Memory words with their ECC, the DRAM code, address checks and translation (R178–R197). -/

namespace Sys2Proof.Machine

/-! ## Words -/

/-- What an unlisted word of memory reads as (assumption 2). -/
def memDflt : Nat → Word := fun _ => 0

/-- The stored word at a physical address. -/
def memGet (s : State) (pa : Nat) : Word := Tbl.get memDflt s.mem pa

/-- A word, or for DRAM its half-trug, holds an uncorrectable error (R191). -/
def ueAt (s : State) (pa : Nat) : Bool := s.ue.contains (eccAddr pa)

/-- Mark a word or half-trug uncorrectable. -/
def ueMark (pa : Nat) (s : State) : State := { s with ue := insSorted s.ue (eccAddr pa) }

/-- A write replaces it whole (R191). -/
def ueClear (pa : Nat) (s : State) : State := { s with ue := s.ue.filter fun x => decide (x ≠ eccAddr pa) }

/-- Store a word without any check; a whole word replaces an uncorrectable tray or Shed word (R191). -/
def memPut (pa : Nat) (v : Word) (s : State) : State :=
  let s1 := { s with mem := Tbl.set memDflt s.mem pa v }
  if memCode pa = 4 then s1 else ueClear pa s1

/-- Merge a half into a word (R35). -/
def mergeHalf (old : Word) (hi : Bool) (d : BitVec 20) : Word :=
  if hi then setF old 20 20 d.toNat else setF old 0 20 d.toNat

/-! ## The DRAM code (R186–R188) -/

/-- Multiplication by α in GF(2^8) with x^8 + x^4 + x^3 + x^2 + 1. -/
def gfDouble (a : Nat) : Nat := if a < 128 then 2 * a else Nat.xor (2 * a - 256) 0x1D

/-- α^k. -/
def gfPow (k : Nat) : Nat :=
  match k with
  | 0 => 1
  | j + 1 => gfDouble (gfPow j)

/-- Product in GF(2^8), over the bits of `b` from the top. -/
def gfMulBits (a b k : Nat) : Nat :=
  match k with
  | 0 => 0
  | j + 1 => Nat.xor (gfDouble (gfMulBits a b j)) (if (b / 2 ^ (8 - (j + 1))) % 2 = 1 then a else 0)

/-- Product in GF(2^8). -/
def gfMul (a b : Nat) : Nat := gfMulBits a b 8

/-- Evaluate a codeword at a point, first position the highest power (Horner; R188). -/
def gfEval (x : Nat) (cs : List Nat) : Nat := cs.foldl (fun acc c => Nat.xor (gfMul acc x) c) 0

/-- The 34 information positions of half `h` of line `L`: the virtual positions and the data symbols (R188). -/
def halfInfo (line h : Nat) (words : List Word) : List Nat :=
  let v := 2 * line + h
  [v / 2 ^ 24 % 256, v / 2 ^ 16 % 256, v / 2 ^ 8 % 256, v % 256] ++
    (words.map fun w => (wordBytes w).map (·.toNat)).flatten

/-- The check symbols P0 and P1 that make c(1) and c(α) zero (R188). -/
def halfCheck (line h : Nat) (words : List Word) : Nat × Nat :=
  let info := halfInfo line h words
  let a := gfEval 1 (info ++ [0, 0])
  let b := gfEval 2 (info ++ [0, 0])
  -- P0 + P1 = a and α P0 + P1 = b, so P0 = (a + b) / (1 + α), the division by 3 = 1 + α being by its inverse 0xF4
  let p0 := gfMul (Nat.xor a b) 0xF4
  (p0, Nat.xor a p0)

/-- What the decoder makes of received stored symbols: clean, one corrected symbol position 4–35, or uncorrectable. -/
inductive RsOut where
  | clean
  | fixed (pos add : Nat)
  | bad
  deriving DecidableEq, Repr

/-- Decode the 36 positions of a half-trug (R188). -/
def rsDecode (cs : List Nat) : RsOut :=
  let s0 := gfEval 1 cs
  let s1 := gfEval 2 cs
  if s0 = 0 ∧ s1 = 0 then .clean
  else if s0 = 0 ∨ s1 = 0 then .bad
  else
    match (List.range 36).filter fun i => decide (gfMul s0 (gfPow (35 - i)) = s1) with
    | i :: _ => if 4 ≤ i then .fixed i s0 else .bad
    | [] => .bad

/-- Where the controller places a trug (R186). -/
structure DramPlace where
  rank : Nat
  bank : Nat
  row : Nat
  col : Nat
  deriving DecidableEq, Repr

/-- The place of line `L`: bank L[2:0], column[9:4] L[8:3]; with two ranks the top line bit of the fitted size is the rank. -/
def dramPlace (s : State) (line : Nat) : DramPlace :=
  let perRank := if regB s pgDram 0x010 2 then dramLines s / 2 else dramLines s
  { rank := line / perRank, bank := line % 8, row := line % perRank / 2 ^ 9, col := line / 8 % 64 * 16 }

/-- Half `h` of a line: 0 for slots 0–5, 1 for slots 6–11 (R187). -/
def halfOf (slot : Nat) : Nat := if slot < 6 then 0 else 1

/-- The six words of half `h` of a line (R187). -/
def halfWords (s : State) (line h : Nat) : List Word :=
  (List.range 6).map fun j => memGet s (0x100000000 + 16 * line + 6 * h + j)

/-- The 32 bytes of a half of the burst: the words low byte first, then P0 and P1 (Table 8-4). -/
def halfBytes (line h : Nat) (ws : List Word) : List Nat :=
  (halfInfo line h ws).drop 4 ++ [(halfCheck line h ws).1, (halfCheck line h ws).2]

/-- The 64 bytes of a trug: symbol i of half h is byte 32h + i (R187). -/
def trugBytes (s : State) (line : Nat) : List Nat :=
  halfBytes line 0 (halfWords s line 0) ++ halfBytes line 1 (halfWords s line 1)

/-- The codeword of a half-trug: the virtual positions, then its stored symbols (R188). -/
def halfCode (line h : Nat) (ws : List Word) : List Nat :=
  (halfInfo line h ws).take 4 ++ halfBytes line h ws

/-- Symbols received with the errors `errs`, each a position of the 36 and what is added to its symbol. -/
def withErrs (cs : List Nat) (errs : List (Nat × Nat)) : List Nat :=
  errs.foldl (fun l e => l.modify e.1 fun x => Nat.xor x (e.2 % 256)) cs

/-- The words of data symbols 0–29. -/
def symWords (fuel : Nat) (syms : List Nat) : List Word :=
  match fuel, syms with
  | n + 1, a :: b :: c :: d :: e :: rest =>
    wd (a + b * 2 ^ 8 + c * 2 ^ 16 + d * 2 ^ 24 + e * 2 ^ 32) :: symWords n rest
  | _, _ => []

/-- What the reader makes of a half-trug received with errors: whether one was corrected, and the words, none where it is
uncorrectable. An error whose syndrome is another's is miscorrected, or not seen (R188). -/
def halfDecode (line h : Nat) (ws : List Word) (errs : List (Nat × Nat)) : Option (Bool × List Word) :=
  let got := withErrs (halfCode line h ws) errs
  match rsDecode got with
  | .clean => some (false, symWords 6 (got.drop 4))
  | .fixed pos x => some (true, symWords 6 ((withErrs got [(pos, x)]).drop 4))
  | .bad => none

/-- The ways a memory word answers a read. -/
inductive MemRead where
  | word (w : Word)
  | ue
  | bus
  deriving DecidableEq, Repr

/-- A read of a half-trug that meets symbol errors: what the decoder makes of it is written back; `false` where it is
uncorrectable (R188, R190, R199). Elsewhere no symbol is stored. -/
def symRead (pa : Nat) (errs : List (Nat × Nat)) (weeder : Bool) (src : Nat) (s : State) : Bool × State :=
  match regionOf pa with
  | .dram line slot =>
    match halfDecode line (halfOf slot) (halfWords s line (halfOf slot)) errs with
    | none => (false, eccEvent pa true weeder src (ueMark pa s))
    | some (fixed, ws) =>
      let s1 := forAll ((List.range 6).zip ws) (fun e x => memPut (eccAddr pa + e.1) e.2 x) s
      (true, if fixed then eccEvent pa false weeder src s1 else s1)
  | _ => (true, s)

/-- Read a stored word with the upset the read meets; errors are counted and reported to `src` (R190, R191). -/
def memRead (pa : Nat) (up : Upset) (src : Nat) (s : State) : MemRead × State :=
  if up = .bus then (.bus, s)
  else if ueAt s pa ∨ up = .ue then (.ue, eccEvent pa true false src (ueMark pa s))
  else match up with
    | .ce => (.word (memGet s pa), eccEvent pa false false src s)
    | .sym errs =>
      match symRead pa errs false src s with
      | (true, s1) => (.word (memGet s1 pa), s1)
      | (false, s1) => (.ue, s1)
    | _ => (.word (memGet s pa), s)

/-! ## Address checks (R26, R181–R184, R482) -/

/-- How an access meets the physical map. -/
structure Acc where
  store : Bool
  swap : Bool := false
  half : Bool := false
  split : Bool := false
  deriving DecidableEq, Repr

/-- The active instruction bank of a tine (TINE_BANK). -/
def activeBank (s : State) (t : Nat) : Nat := regF s (pgTine t) 0x047 0 1

/-- The ADDR sub-cause of an access by a tine or a channel, 0 for none (Table 8-7). -/
def addrSub (s : State) (a : Acc) (pa0 : Nat) : Nat :=
  let win := match regionOf pa0 with | .window _ _ => true | _ => false
  let pa := ownPa s pa0
  match regionOf pa with
  | .hole => 1
  | .rom => if a.swap then 6 else if a.store then 2 else 0
  | .itray t o =>
    if domAsleep s (t / 9) then 5
    else if a.swap && win then 6
    else if a.store && decide (o / 0x2000 = activeBank s t) then 7 else 0
  | .dtray t _ => if domAsleep s (t / 9) then 5 else if a.swap && win then 6 else 0
  | .shed b =>
    if domAsleep s (if b then domShdb else domShda) then 5
    else if reservedPa pa then 4
    else if a.swap && win then 6 else 0
  | .page pg off =>
    match pageKind pg with
    | none => 1
    | some (k, i) =>
      if a.split then 8
      else if !pageUp s k i off then 5
      else if a.swap then 6
      else if a.half && a.store then 9
      else if k = .tine ∧ 0x400 ≤ off then 1 else 0
  | .dram line slot =>
    if dramLines s ≤ line then 3 else if 12 ≤ slot then 1 else if domAsleep s domLink then 5 else 0
  | .window c n =>
    if !windowOpen s c then 1
    else if a.swap then 6
    else match regionOf n with
      | .page _ _ => if a.split then 8 else if a.half && a.store then 9 else 0
      | _ => 0

/-- Commands are fetched from Shed and DRAM only (R205). -/
def cmdSpace (pa : Nat) : Bool :=
  match regionOf pa with
  | .shed _ | .dram _ _ => true
  | _ => false

/-! ## Translation (R192–R196) -/

/-- A leaf, or a failed translation: the XLAT sub-cause. -/
inductive XRes where
  | leaf (l : XLeaf)
  | fail (sub : Nat)
  deriving DecidableEq, Repr

/-- Table words must lie in Shed outside the reserved region (R193). -/
def tableOk (pa : Nat) : Bool :=
  match regionOf pa with
  | .shed _ => !reservedPa pa
  | _ => false

/-- What the next table read of a walk meets: the first one listed, and a free value with none listed (assumption 128). -/
def tableUpset (s : State) : Upset × State :=
  match s.walkUps with
  | u :: us => (u, { s with walkUps := us })
  | [] =>
    let (k, s1) := drawNat s
    (if k % 3 = 0 then .ok else if k % 3 = 1 then .ce else .ue, s1)

/-- A table word read by a walk for `src`, with what its read meets; none where it is uncorrectable (R190). -/
def tableRead (src pa : Nat) (s : State) : Option Word × State :=
  let (u, s0) := tableUpset s
  match memRead pa u src s0 with
  | (.word v, s1) => (some v, s1)
  | (_, s1) => (none, s1)

/-- What an entry of the first table says: a large leaf, the table of the second level, or a fault (R193). -/
def firstEntry (v : Nat) (e : Word) : XRes ⊕ Nat :=
  if !bit e 0 then .inl (.fail 2)
  else if bit e 1 then
    if getF e 8 2 ≠ 0 ∨ getF e 32 8 ≠ 0 then .inl (.fail 4)
    else if bit e 7 then .inl (.fail 6)
    else if getF e 10 6 ≠ 0 then .inl (.fail 4)
    else .inl (.leaf { large := true, vpn := v / 2 ^ 18, ent := e })
  else if getF e 2 8 ≠ 0 ∨ getF e 38 2 ≠ 0 then .inl (.fail 4)
  else .inr (getF e 10 28 * 2 ^ 6 + v / 2 ^ 12 % 2 ^ 6)

/-- What an entry of the second table says (R193, R194). -/
def secondEntry (tineReq : Bool) (v : Nat) (e : Word) : XRes :=
  if !bit e 0 then .fail 3
  else if !bit e 1 ∨ getF e 8 2 ≠ 0 ∨ getF e 32 8 ≠ 0 then .fail 4
  else if bit e 7 then
    if !tineReq then .fail 6
    else if getF e 15 17 ≠ 0 then .fail 4
    else if 17 ≤ getF e 10 5 then .fail 6
    else .leaf { large := false, vpn := v / 2 ^ 12, ent := e }
  else .leaf { large := false, vpn := v / 2 ^ 12, ent := e }

/-- The walk of a virtual address for requester `src` (R193, R194); `tineReq` where a tine requests. -/
def xlatWalk (src : Nat) (tineReq : Bool) (root v : Nat) (s : State) : XRes × State :=
  let a1 := root * 2 ^ 14 + v / 2 ^ 18
  if !tableOk a1 then (.fail 5, s)
  else match tableRead src a1 s with
    | (none, s1) => (.fail 7, s1)
    | (some e, s1) =>
      match firstEntry v e with
      | .inl r => (r, s1)
      | .inr a2 =>
        if !tableOk a2 then (.fail 5, s1)
        else match tableRead src a2 s1 with
          | (none, s2) => (.fail 7, s2)
          | (some e2, s2) => (secondEntry tineReq v e2, s2)

/-- A leaf covers a virtual address. -/
def leafCovers (l : XLeaf) (v : Nat) : Bool :=
  if l.large then decide (l.vpn = v / 2 ^ 18) else decide (l.vpn = v / 2 ^ 12)

/-- The physical address a leaf gives (R193, R194); offsets 0x400 and above of the own TINE page are holes. -/
def leafPa (l : XLeaf) (t v : Nat) : Nat :=
  if l.large then getF l.ent 10 22 * 2 ^ 12 + v % 2 ^ 18
  else if bit l.ent 7 then
    if getF l.ent 10 5 < 16 then trayBase t + getF l.ent 10 5 * 0x1000 + v % 2 ^ 12
    else if v % 2 ^ 12 < 0x400 then pageAddr (pgTine t) (v % 2 ^ 12) else 0x300000000
  else getF l.ent 10 22 * 2 ^ 12 + v % 2 ^ 12

/-- Put a leaf into a cache of `size` entries; the victim of a full cache is free (R196, assumption 6). -/
def cacheInsert (size : Nat) (l : XLeaf) (c : List XLeaf) (s : State) : List XLeaf × State :=
  if c.length < size then (c ++ [l], s)
  else
    let (k, s1) := drawNat s
    (dropAt c (k % size) ++ [l], s1)

/-- Leaves that an invalidation leaves (R196): VA_PAGE is address bits [31:12]. -/
def cacheKeep (all : Bool) (vaPage : Nat) (c : List XLeaf) : List XLeaf :=
  if all then [] else c.filter fun l => !leafCovers l (vaPage * 2 ^ 12)

/-- The outcome of translating one access. -/
inductive XOut where
  | pa (a : Nat)
  | fault (cause sub : Nat) (info : Word)
  deriving DecidableEq, Repr

/-- The checks of a leaf: world, user, rights (R195 steps 2 to 4). -/
def leafRights (l : XLeaf) (walled user : Bool) (a : Acc) (fetch : Bool) : Option (Nat × Nat × Word) :=
  if bit l.ent 2 && !walled then some (0x0A, 0, Config.resourceKind 0)
  else if user && !bit l.ent 3 then some (0x09, 1, 0)
  else if fetch then (if bit l.ent 6 then none else some (0x09, 4, 0))
  else if (!a.store || a.swap) && !bit l.ent 4 then some (0x09, 2, 0)
  else if a.store && !bit l.ent 5 then some (0x09, 3, 0)
  else none

/-- The owner check of a register page reached by address (R137). -/
def pageWorld (s : State) (walled : Bool) (pa : Nat) : Option (Nat × Nat × Word) :=
  match regionOf (ownPa s pa) with
  | .page pg off =>
    match pageKind pg with
    | some (k, _) =>
      if offWalled s k pg off && !walled then
        some (0x0A, 0, Config.resourceKind (match k with | .hop => if 0x080 ≤ off then 2 else 1
                                                          | .trch => if 0x100 ≤ off then 3 else 1
                                                          | _ => 1))
      else none
    | none => none
  | _ => none

/-- The physical checks (R195 step 5), then the page's owner; a command fetch outside Shed and DRAM is CMD_SPACE (R205). -/
def physChecks (s : State) (walled : Bool) (a : Acc) (fetch : Bool) (pa : Nat) : XOut :=
  if fetch && !cmdSpace (ownPa s pa) then .fault 0x07 10 0
  else match addrSub s a pa with
    | 0 => match pageWorld s walled pa with
      | some (c, sb, i) => .fault c sb i
      | none => .pa pa
    | k => .fault 0x07 k 0

/-- Check a leaf and its address. -/
def leafOut (s : State) (l : XLeaf) (t v : Nat) (walled user : Bool) (a : Acc) (fetch : Bool) : XOut :=
  match leafRights l walled user a fetch with
  | some (c, sb, i) => .fault c sb i
  | none => physChecks s walled a fetch (leafPa l t v)

/-- Translate and check an access of a tine in its current mode (R192–R196). -/
def tineXlat (t v : Nat) (a : Acc) (s : State) : XOut × State :=
  let cfg := reg s (pgTine t) oXCFG
  if !bit cfg 0 then (if tW s t then physChecks s true a false v else .fault 0x08 1 0, s)
  else
    match (tineAt s t).xcache.find? (leafCovers · v) with
    | some l => (leafOut s l t v (tW s t) (!tS s t) a false, s)
    | none =>
      match xlatWalk t true (getF cfg 14 20) v s with
      | (.fail k, s0) => (.fault 0x08 k 0, s0)
      | (.leaf l, s0) =>
        let (c, s1) := cacheInsert 32 l (tineAt s t).xcache s0
        (leafOut s l t v (tW s t) (!tS s t) a false, modTine t (fun x => { x with xcache := c }) s1)

/-- Translate and check an access of a channel in its owner's world (R197). -/
def chanXlat (c v : Nat) (a : Acc) (fetch : Bool) (s : State) : XOut × State :=
  let cfg := reg s pgXlat 0x010
  let w := regB s (pgTrch c) (chBase c + 3) 0
  if !bit cfg 0 then (if w then physChecks s true a fetch v else .fault 0x08 1 0, s)
  else
    match s.xcache.find? (leafCovers · v) with
    | some l => (leafOut s l 0 v w false a fetch, s)
    | none =>
      match xlatWalk (0x100 + c) false (getF cfg 14 20) v s with
      | (.fail k, s0) => (.fault 0x08 k 0, s0)
      | (.leaf l, s0) =>
        let (cc, s1) := cacheInsert 64 l s.xcache s0
        (leafOut s l 0 v w false a fetch, { s1 with xcache := cc })

end Sys2Proof.Machine
end

