-- ==== Sys2Proof/Machine/ChainLink.lean ====
section
/-! DEFINITION. The Weiskeo link below its commands: queueing and forwarding of cells, posted writes, reads and events
to other devices, and the chain-level route (R175, R354–R361). -/

namespace Sys2Proof.Machine

def portDflt : Nat → Port := fun _ => Port.reset

/-- A chain port: 0 UP, 1 DOWN. -/
def portAt (s : State) (p : Nat) : Port := Tbl.get portDflt s.ports p

def setPort (p : Nat) (x : Port) (s : State) : State := { s with ports := Tbl.set portDflt s.ports p x }

/-- The port is trained (UPLINK, DNLINK). -/
def portUp (s : State) (p : Nat) : Bool := regB s pgChain 0x011 (6 + p)

/-- Queue a cell on a port by its class (R356); a port that is not trained loses it. -/
def portQueue (p : Nat) (c : Cell) (s : State) : State :=
  if portUp s p then
    let x := portAt s p
    setPort p (if c.cls = 1 then { x with sample := x.sample ++ [c] } else { x with bulk := x.bulk ++ [c] }) s
  else s

/-- A cell from this device. -/
def mkCell (s : State) (typ dst cls : Nat) (body : List Word) : Cell :=
  { typ := typ, dst := dst, src := chainAddr s, cls := cls, body := body }

/-- The port toward a chain address. -/
def portToward (s : State) (dst : Nat) : Nat := if chainAddr s < dst then 1 else 0

/-- Word `k` of a cell, from word 1. -/
def cellW (c : Cell) (k : Nat) : Word := (c.body[k - 1]?).getD 0

/-- A read of another device is lost on a link here: an ERR answer goes back to it (R355, R360). -/
def fwdLost (src tag : Nat) (s : State) : State := portQueue (portToward s src) (mkCell s 3 src 0 [wd (tag + 2 ^ 16)]) s

/-- A READ or RDATA cell of another device passes on a port: the read is remembered until its answer has passed (R355). -/
def cellForward (p : Nat) (c : Cell) (s : State) : State :=
  if c.typ = 2 ∧ c.src ≠ chainAddr s then
    let tag := getF (cellW c 2) 0 16
    if portUp s p then portQueue p c { s with chainFwd := s.chainFwd ++ [(p, c.src, tag)] } else fwdLost c.src tag s
  else if c.typ = 3 then
    let tag := getF (cellW c 1) 0 16
    portQueue p c { s with chainFwd := s.chainFwd.filter fun e => !decide (e.2 = (c.dst, tag)) }
  else portQueue p c s

/-- Send or forward a cell by its destination (R356). -/
def cellRoute (c : Cell) (s : State) : State :=
  if c.dst = chainAddr s then { s with cellsIn := s.cellsIn ++ [c] }
  else cellForward (portToward s c.dst) c s

/-- A posted write of words through the window of another device (R360). -/
def chainWriteReq (cls dst n : Nat) (ws : List Word) (s : State) : State :=
  cellRoute (mkCell s 1 dst cls (wd (n + (ws.length - 1) * 2 ^ 28) :: ws)) s

/-- A read of one word through the window of another device: a READ cell with a fresh tag, or at once an error on a
link that is down (R360). -/
def chainReadReq (src dst n pa : Nat) (s : State) : State :=
  if portUp s (portToward s dst) then
    let tag := s.nextTag % 2 ^ 16
    cellRoute (mkCell s 2 dst 0 [wd n, wd tag])
      { s with chainTags := s.chainTags ++ [(tag, src, pa)], nextTag := tag + 1 }
  else { s with chainBack := s.chainBack ++ [(src, pa, none)] }

/-- The answer to a requester's chain read, if it has come. -/
def chainAnswer (s : State) (src pa : Nat) : Option (Option Word) :=
  (s.chainBack.find? fun e => decide (e.1 = src) && decide (e.2.1 = pa)).map (·.2.2)

/-- Take the answer away. -/
def chainTake (src pa : Nat) (s : State) : State :=
  match findPos (fun e : Nat × Nat × Option Word => decide (e.1 = src) && decide (e.2.1 = pa)) s.chainBack with
  | some k => { s with chainBack := dropAt s.chainBack k }
  | none => s

/-- DEVICES_M1, held as a model field of the DEV page (R358). -/
def devicesM1 (s : State) : Nat := s.devM1

/-- Chain members a route may not choose: not present or ABSENT. -/
def chainBad (s : State) (k : Nat) : Bool := !regB s pgChain 0x012 k || regB s pgChain 0x012 (16 + k)

/-- A member holds a sleeping tine: known for this device, free for another (assumption 7). -/
def chainIdle (s : State) (k : Nat) : Bool :=
  if k = chainAddr s then (List.range 4).any (bedIdle s) else Config.freeBit (s.free + k)

/-- Word 1 of an EVENT cell (Table 15-3): inputs 16–31 in INPUT as Table 9-8; bit 18 marks the mailbox input 63, which
INPUT cannot hold (DESIGN CHOICE, assumption 13). -/
def eventWord (level unit n : Nat) : Word :=
  wd (level + unit * 2 ^ 3 + (if 16 ≤ n ∧ n < 32 then (n - 16) * 2 ^ 14 else 2 ^ 18))

/-- An event at the chain goes to the devices its route chooses among the enumerated ones (R175, R361); `cls` 1 for a sample
cell. -/
def raiseChain (cls n : Nat) (s : State) : State :=
  if chainReady s then
    let ks := routePick (routeWord s 21) (devicesM1 s + 1) (Tbl.get (fun _ => 0) s.rrLast 21) (chainBad s) (chainIdle s)
    forAll ks (fun k x =>
      if k = chainAddr x then raiseDev n x
      else cellRoute (mkCell x 4 k cls [eventWord 3 0 n]) x) (noteRR 21 ks { s with free := s.free + 16 })
  else s

/-! ## Mailboxes (R21–R24, R484) -/

/-- The number of a mailbox. -/
def mboxNo (u : MUnit) : Nat :=
  match u with
  | .plot p => p
  | .slot l => 16 + l
  | .bed b => 144 + b
  | .device => 148
  | .chain => 149

/-- Page and offset of a mailbox's PUT register (Table 1-3). -/
def mboxReg (u : MUnit) : Nat × Nat :=
  match u with
  | .plot p => (pgPlot p, 0x011)
  | .slot l => (pgPlot (l / 8), 0x019 + 4 * (l % 8))
  | .bed b => (pgDev, 0x019 + 8 * b)
  | .device => (pgDev, 0x011)
  | .chain => (pgDev, 0x041)

/-- The unit whose mailbox has a given PUT offset, and the register of its face (0 identity … 4 route). -/
def mboxAt (k : PageKind) (i off : Nat) : Option (MUnit × Nat) :=
  match k with
  | .plot =>
    if 0x010 ≤ off ∧ off ≤ 0x014 then some (.plot (Fin.ofNat 16 i), off - 0x010)
    else if 0x018 ≤ off ∧ off ≤ 0x037 then
      some (.slot (Fin.ofNat 128 (8 * i + (off - 0x018) / 4)), (off - 0x018) % 4)
    else none
  | .dev =>
    if 0x010 ≤ off ∧ off ≤ 0x014 then some (.device, off - 0x010)
    else if 0x018 ≤ off ∧ off ≤ 0x037 ∧ (off - 0x018) % 8 ≤ 4 then
      some (.bed (Fin.ofNat 4 ((off - 0x018) / 8)), (off - 0x018) % 8)
    else if 0x040 ≤ off ∧ off ≤ 0x044 then some (.chain, off - 0x040)
    else none
  | _ => none

/-- Items a mailbox holds, oldest first. -/
def mboxItems (s : State) (u : MUnit) : List Word := Tbl.get (fun _ => []) s.mbox (mboxNo u)

def setMbox (u : MUnit) (l : List Word) (s : State) : State :=
  { s with mbox := Tbl.set (fun _ => []) s.mbox (mboxNo u) l }

/-- The chain face answers: head, and READY (R484). -/
def chainFaceOn (s : State) : Bool := chainHead s && chainReady s

/-- A discarded mailbox write counts in DROPS (R21, R23). -/
def mboxDrop (u : MUnit) (s : State) : State := bumpF (mboxReg u).1 ((mboxReg u).2 + 2) 8 8 1 s

/-- A write that the mailbox discards; one of the graft engine also counts in BOOT_GSTAT.REFUSED (R23, R373). -/
def mboxRefuse (w : Who) (u : MUnit) (s : State) : State :=
  let s1 := mboxDrop u s
  if w = .graft then bumpF pgBoot 0x014 15 16 1 s1 else s1

/-- The event of an accepted write: input 63 on the members the unit's route selects (R22). -/
def mboxEvent (u : MUnit) (s : State) : State :=
  match u with
  | .plot p => raisePlot 63 p s
  | .slot l => raiseLog 63 l s
  | .bed b => raiseBed 63 b s
  | .device => raiseDev 63 s
  | .chain => raiseChain 0 63 s

/-- Accept an item. -/
def mboxAccept (u : MUnit) (item : Word) (s : State) : State :=
  mboxEvent u (setMbox u (mboxItems s u ++ [item]) s)

/-- A writer whose write to a full mailbox is withheld: a tine or channel of the device (R23). -/
def whoLocal (w : Who) : Bool :=
  match w with
  | .tine _ | .store _ _ _ | .channel _ => true
  | _ => false

/-- What becomes of a mailbox write. -/
inductive MboxEnd where
  | done | withheld
  deriving DecidableEq, Repr

/-- A write to a mailbox PUT register that has passed its access checks (R21–R23, R484). -/
def mboxOffer (w : Who) (u : MUnit) (item : Word) (s : State) : MboxEnd × State :=
  if u = .chain ∧ !chainFaceOn s then (.done, s)
  else if getF item 32 4 = 15 then (.done, mboxRefuse w u s)
  else if (mboxItems s u).length < 8 then (.done, mboxAccept u item s)
  else if whoLocal w then (.withheld, s)
  else (.done, mboxRefuse w u s)

/-- A take (R21, R23). Table 1-2 names who may take and gives no outcome for another reader: any requester that may read the
page takes the item (DESIGN CHOICE, assumption 102). -/
def mboxTake (u : MUnit) (s : State) : Word × State :=
  if u = .chain ∧ !chainFaceOn s then (voidWord, s)
  else
    match bestItem (mboxItems s u) with
    | some k => (((mboxItems s u)[k]?).getD voidWord, setMbox u (dropAt (mboxItems s u) k) s)
    | none => (voidWord, s)

/-- The computed part of a mailbox status register: DEPTH and FULL (Table 1-5). -/
def mboxStat (s : State) (u : MUnit) : Word :=
  let d := (mboxItems s u).length
  setF (setF (reg s (mboxReg u).1 ((mboxReg u).2 + 2)) 0 4 d) 4 1 (b2n (decide (8 ≤ d)))

/-- The identity word of a unit (Table 1-4, R484). -/
def identWord (s : State) (u : MUnit) : Word :=
  let dev := chainAddr s * 2 ^ 33 + devicesM1 s * 2 ^ 29
  match u with
  | .slot l => wd (dev + l.val * 2 ^ 22)
  | .plot p => wd (1 * 2 ^ 37 + dev + p.val * 2 ^ 25)
  | .bed b => wd (2 * 2 ^ 37 + dev + b.val * 2 ^ 27)
  | .device => wd (3 * 2 ^ 37 + dev)
  | .chain => if chainFaceOn s then wd (4 * 2 ^ 37 + devicesM1 s * 2 ^ 29) else 0

end Sys2Proof.Machine
end

