-- ==== Sys2Proof/Machine/Flags.lean ====
section
/-! DEFINITION. Arithmetic on words and accumulators with the flags each result sets (R41–R47, R53–R55, R83), the
roundings of R58, the dither generators of R61, the transcendental steps of R72 and the signatures of R110, R111. -/

namespace Sys2Proof.Machine

/-- Which condition flags an instruction sets (R83, R98). -/
inductive FlagSet where
  | none
  | zncv (z n c v : Bool)
  | z (z : Bool)
  deriving DecidableEq, Repr

/-- The result of an ALU instruction: the word written, the flags, and whether it sets GSAT (R48). -/
structure AluOut where
  val : Word
  flags : FlagSet
  gsat : Bool := false
  deriving DecidableEq, Repr

/-- Z and N from a word, C and V cleared (R83). -/
def flagsZN (r : Word) : FlagSet := .zncv (decide (r = 0)) (bit r 39) false false

/-- The exact signed result lies outside 40 bits. -/
def out40 (v : Int) : Bool := decide (v < -2 ^ 39) || decide (2 ^ 39 ≤ v)

/-- Carry out of bit 39 of the unsigned sum (R83). -/
def carryAdd (a b : Word) : Bool := decide (2 ^ 40 ≤ a.toNat + b.toNat)

/-- No borrow (R83). -/
def carrySub (a b : Word) : Bool := decide (b.toNat ≤ a.toNat)

/-- ADD, ADDI. -/
def aluAdd (a b : Word) : AluOut :=
  { val := a + b, flags := .zncv (decide (a + b = 0)) (bit (a + b) 39) (carryAdd a b) (out40 (sw a + sw b)) }

/-- SUB, CMP, CMPI, and NEG as 0 − Ga. -/
def aluSub (a b : Word) : AluOut :=
  { val := a - b, flags := .zncv (decide (a - b = 0)) (bit (a - b) 39) (carrySub a b) (out40 (sw a - sw b)) }

/-- ADDS (R83). -/
def aluAdds (a b : Word) : AluOut :=
  let r := wi (satI 40 (sw a + sw b))
  { val := r, flags := .zncv (decide (r = 0)) (bit r 39) (carryAdd a b) (out40 (sw a + sw b)),
    gsat := out40 (sw a + sw b) }

/-- SUBS (R83). -/
def aluSubs (a b : Word) : AluOut :=
  let r := wi (satI 40 (sw a - sw b))
  { val := r, flags := .zncv (decide (r = 0)) (bit r 39) (carrySub a b) (out40 (sw a - sw b)),
    gsat := out40 (sw a - sw b) }

/-- A logic result: Z and N, C and V cleared. -/
def aluLogic (r : Word) : AluOut := { val := r, flags := flagsZN r }

/-- SHL and SHR; amounts 40–63 give 0 (R98). -/
def aluShl (a : Word) (k : Nat) : AluOut := aluLogic (if 40 ≤ k then 0 else a <<< k)
def aluShr (a : Word) (k : Nat) : AluOut := aluLogic (if 40 ≤ k then 0 else a >>> k)

/-- ROT: rotate left by the amount modulo 40. -/
def aluRot (a : Word) (n : Nat) : AluOut := aluLogic (a.rotateLeft (n % 40))

/-- MIN and MAX, signed. -/
def aluMin (a b : Word) : AluOut := aluLogic (if sw a ≤ sw b then a else b)
def aluMax (a b : Word) : AluOut := aluLogic (if sw a ≤ sw b then b else a)

/-- ABS: −2^39 saturates with GSAT (R98). -/
def aluAbs (a : Word) : AluOut :=
  if a = wd 0x8000000000 then { val := wd 0x7FFFFFFFFF, flags := flagsZN (wd 0x7FFFFFFFFF), gsat := true }
  else aluLogic (if bit a 39 then -a else a)

/-- The exact value of an arithmetic shift (R55). -/
def ashExact (v : Int) (k : Int) : Int :=
  if 0 ≤ k then v * (2 ^ k.toNat : Nat) else v / (2 ^ (-k).toNat : Nat)

/-- ASH on 40 bits (R55). -/
def aluAsh (a : Word) (k : Int) : AluOut :=
  let e := ashExact (sw a) k
  { val := wi (satI 40 e), flags := flagsZN (wi (satI 40 e)), gsat := out40 e }

/-- Bits of `n` from position `k` − 1 down that equal `top`, stopping at the first that differs. -/
def runLen (n : Nat) (top : Bool) (k : Nat) : Nat :=
  match k with
  | 0 => 0
  | j + 1 => if n.testBit j = top then 1 + runLen n top j else 0

/-- NORM (R53). -/
def norm40 (a : Word) : Nat := runLen a.toNat (bit a 39) 39

/-- NORMA (R53). -/
def norm96 (a : Acc96) : Nat := runLen a.toNat (a.getLsbD 95) 95

/-! ## Accumulators (R36, R41, R42) -/

/-- sat96. -/
def sat96 (v : Int) : Acc96 := BitVec.ofInt 96 (satI 96 v)

/-- sat96 changes the value. -/
def out96 (v : Int) : Bool := decide (satI 96 v ≠ v)

/-- GIU: bits [95:79] are not all equal (R36). -/
def giu (a : Acc96) : Bool := decide (satI 80 a.toInt ≠ a.toInt)

/-- The alignment shift PS (Table 2-2). -/
def psDual (fp : Nat) : Nat := if fp = 1 then 2 else 0
def psQuad (fp : Nat) : Nat := match fp with | 0 => 40 | 1 => 42 | 2 => 40 | _ => 0

/-- The words of an accumulator image (R37). -/
def accImage (a : Acc96) : List Word :=
  [(a.extractLsb' 0 40), (a.extractLsb' 40 40), ((a.extractLsb' 80 16).signExtend 40)]

/-- The accumulator of an image; word 2 bits [39:16] are ignored (R37). -/
def accOfImage (w0 w1 w2 : Word) : Acc96 :=
  BitVec.ofNat 96 (w0.toNat + w1.toNat * 2 ^ 40 + (w2.toNat % 2 ^ 16) * 2 ^ 80)

/-! ## Dither (R61, R62) -/

/-- One step of a generator. -/
def lfsrStep (m s : Nat) : Nat := if s % 2 = 1 then Nat.xor (s / 2) m else s / 2

/-- `k` steps. -/
def lfsrSteps (m : Nat) (k : Nat) (s : Nat) : Nat :=
  match k with
  | 0 => s
  | j + 1 => lfsrSteps m j (lfsrStep m s)

def maskA : Nat := 0x80200003
def maskB : Nat := 0x80000062

/-- The state after a draw, which is also the draw D. -/
def drawA (s : Nat) : Nat := lfsrSteps maskA 32 s
def drawB (s : Nat) : Nat := lfsrSteps maskB 32 s

/-- A draw aligned to a shift. -/
def drawAlign (d xs : Nat) : Nat := if xs ≤ 32 then d / 2 ^ (32 - xs) else d * 2 ^ (xs - 32)

/-- A mode uses generator A, or B (R62). -/
def usesA (code : Nat) : Bool := code = 4 || code = 5
def usesB (code : Nat) : Bool := code = 5

/-! ## Rounding (R58, R59) -/

/-- The rounded integer of v / 2^xs in modes 0–5, with draws `da` and `db`. -/
def roundTo (code : Nat) (v : Int) (xs : Nat) (da db : Nat) : Int :=
  if xs = 0 then v
  else
    let one : Int := (2 ^ xs : Nat)
    let half : Int := (2 ^ (xs - 1) : Nat)
    let q := v / one
    let r := v % one
    match code with
    | 0 => q
    | 1 => if half ≤ r then q + 1 else q
    | 2 => if half < r ∨ (r = half ∧ q % 2 = 1) then q + 1 else q
    | 3 => if r = 0 ∨ q % 2 = 1 then q else q + 1
    | 4 => (v + (drawAlign da xs : Nat)) / one
    | _ => (v + (drawAlign da xs : Nat) + (drawAlign db xs : Nat) - half) / one

/-- What a write-back to `w` bits makes of t: the saturated integer and whether it saturated (R46, R47). -/
def satTo (w : Nat) (t : Int) : Int × Bool := (satI w t, decide (satI w t ≠ t))

/-- A narrowed port sample: S.3.36 to w bits at xs = 37 − w (R71). -/
def narrowSample (code : Nat) (x : Word) (w : Nat) (da db : Nat) : Int × Bool :=
  satTo w (roundTo code (sw x) (37 - w) da db)

/-- The outcome of a shaped write-back (R67): y, saturated, and the new error history. -/
structure Shaped where
  y : Int
  sat : Bool
  e1 : Word
  e2 : Word
  e3 : Word
  deriving DecidableEq, Repr

/-- The sum of the error feedback for order n (R67). -/
def shapeSum (n : Nat) (c1 c2 c3 e1 e2 e3 : Word) : Int :=
  (if 1 ≤ n then sw c1 * sw e1 else 0) + (if 2 ≤ n then sw c2 * sw e2 else 0) + (if 3 ≤ n then sw c3 * sw e3 else 0)

/-- The shaped write-back (R67), as its pseudocode has it: U is rounded at point 72 with the draws aligned to 72, so with a TPDF
BASE and ORDER 0, or with xs = 0, it may differ from the write-back in mode BASE that R67's last sentence and R59 give
(assumption 107). -/
def shape (v : Int) (xs w n base : Nat) (c1 c2 c3 e1 e2 e3 : Word) (da db : Nat) : Shaped :=
  let u := v * (2 ^ (72 - xs) : Nat) + shapeSum n c1 c2 c3 e1 e2 e3
  let t := roundTo base u 72 da db
  let (y, sat) := satTo w t
  if sat then { y := y, sat := true, e1 := 0, e2 := 0, e3 := 0 }
  else { y := y, sat := false, e1 := wi ((t * (2 ^ 72 : Nat) - u) / (2 ^ 36 : Nat)), e2 := e1, e3 := e2 }

/-! ## Transcendental steps (R72) -/

/-- Integer square root by bits from position `k` − 1 down. -/
def isqrtBits (n : Nat) (k r : Nat) : Nat :=
  match k with
  | 0 => r
  | j + 1 => if (r + 2 ^ j) * (r + 2 ^ j) ≤ n then isqrtBits n j (r + 2 ^ j) else isqrtBits n j r

/-- The largest r below 2^k with r^2 ≤ n. -/
def isqrt (k n : Nat) : Nat := isqrtBits n k 0

/-- The fraction bits of log2 of a mantissa in [1, 2) with 192 fraction bits, most significant first. -/
def log2Bits (k : Nat) (x acc : Nat) : Nat × Nat :=
  match k with
  | 0 => (acc, x)
  | j + 1 =>
    let y := x * x / 2 ^ 192
    if 2 ^ 193 ≤ y then log2Bits j (y / 2) (2 * acc + 1) else log2Bits j y (2 * acc)

/-- 2^28 · log2 of n / 2^38 for 2^37 ≤ n < 2^39, rounded to nearest even. -/
def log2Grid (n : Nat) : Int :=
  let big := decide (2 ^ 38 ≤ n)
  let x := if big then n * 2 ^ 154 else n * 2 ^ 155
  let (f, rest) := log2Bits 90 x 0
  let e : Int := if big then 0 else -1
  let sticky := b2n (decide (rest ≠ 2 ^ 192))
  rheDiv (e * (2 ^ 91 : Nat) + (2 * f + sticky : Nat)) (2 ^ 63)

/-- The product of the constants 2^(2^−k) over the fraction bits of x, in 192 fraction bits. -/
def exp2Prod (k : Nat) (c f acc : Nat) : Nat :=
  match k with
  | 0 => acc
  | j + 1 =>
    let c1 := isqrt 194 (c * 2 ^ 192)
    exp2Prod j c1 f (if f / 2 ^ j % 2 = 1 then acc * c1 / 2 ^ 192 else acc)

/-- 2^28 · 2^(n / 2^38) for −2^39 ≤ n < 2^38, rounded to nearest even. -/
def exp2Grid (n : Int) : Int :=
  let f := (n % (2 ^ 38 : Nat)).toNat
  let i := n / (2 ^ 38 : Nat)
  let p := exp2Prod 38 (2 ^ 193) f (2 ^ 192)
  -- sticky for the truncations, which only ever lower the product of an irrational value
  let v := if f = 0 then 2 * p else 2 * p + 1
  rheDiv (v : Nat) (2 ^ (165 + (-i).toNat))

/-- A transcendental result: the word and GSAT. -/
def trOut (v : Int) : AluOut := { val := wi v, flags := .none }
def trSat (v : Nat) : AluOut := { val := wd v, flags := .none, gsat := true }

/-- RECIP (Table 3-6). -/
def aluRecip (a : Word) : AluOut :=
  let n := sw a
  if 0 ≤ n ∧ n < 2 ^ 38 then trSat 0x7FFFFFFFFF
  else if n < 0 ∧ -(2 ^ 38) < n then trSat 0x8000000000
  else
    let r := rheDiv (2 ^ 62) n.natAbs
    trOut ((if n < 0 then -r else r) * 2 ^ 14)

/-- RSQRT (Table 3-6). -/
def aluRsqrt (a : Word) : AluOut :=
  let n := sw a
  if n < 0 then trSat 0
  else if n < 2 ^ 37 then trSat 0x7FFFFFFFFF
  else trOut ((((isqrt 46 (2 ^ 88 / n.toNat) + 1) / 2 : Nat) : Int) * 2 ^ 14)

/-- LOG2 (Table 3-6). -/
def aluLog2 (a : Word) : AluOut :=
  let n := sw a
  if n < 2 ^ 37 then trSat 0x8000000000 else trOut (log2Grid n.toNat * 2 ^ 10)

/-- EXP2 (Table 3-6); a result that rounds to 2.0 is the largest word, without a flag (R72). -/
def aluExp2 (a : Word) : AluOut :=
  let n := sw a
  if 2 ^ 38 ≤ n then trSat 0x7FFFFFFFFF
  else
    let r := exp2Grid n
    if r = 2 ^ 29 then trOut 0x7FFFFFFFFF else trOut (r * 2 ^ 10)

/-! ## Signatures (R109–R111) -/

/-- One bit of a CRC step. -/
def crcBit (w poly : Nat) (refl : Bool) (crc b : Nat) : Nat :=
  if refl then
    let fb := (crc + b) % 2
    if fb = 1 then Nat.xor (crc / 2) (poly % 2 ^ w) else crc / 2
  else
    let fb := (crc / 2 ^ (w - 1) + b) % 2
    if fb = 1 then Nat.xor ((crc * 2) % 2 ^ w) (poly % 2 ^ w) else (crc * 2) % 2 ^ w

/-- The eight bits of a byte, in processing order. -/
def crcByte (w poly : Nat) (refl : Bool) (crc byte : Nat) : Nat :=
  (List.range 8).foldl (fun c i => crcBit w poly refl c (byte / 2 ^ (if refl then i else 7 - i) % 2)) crc

/-- CRC8 with its parameter word (R110). -/
def aluCrc8 (gd gs gp : Word) : AluOut :=
  let w := getF gp 32 5 + 1
  { val := wd (crcByte w (getF gp 0 32) (bit gp 38) (gd.toNat % 2 ^ w) (getF gs 0 8)), flags := .none }

/-- CRCW: four bytes (R110). -/
def aluCrcw (gd gs gp : Word) : AluOut :=
  let w := getF gp 32 5 + 1
  let refl := bit gp 38
  let order : List Nat := if refl then [0, 8, 16, 24] else [24, 16, 8, 0]
  { val := wd (order.foldl (fun c i => crcByte w (getF gp 0 32) refl c (getF gs i 8)) (gd.toNat % 2 ^ w)),
    flags := .none }

/-- Parity of the low bits. -/
def parity (w n : Nat) : Nat :=
  match w with
  | 0 => 0
  | k + 1 => (n % 2 + parity k (n / 2)) % 2

/-- PAR (R111). -/
def aluPar (gs : Word) (w : Nat) : AluOut :=
  let p := parity w gs.toNat
  { val := wd p, flags := .z (decide (p = 0)) }

/-- BREV (R111). -/
def aluBrev (gs : Word) (w : Nat) : AluOut :=
  { val := setF gs 0 w (brevN w (gs.toNat % 2 ^ w)), flags := .none }

/-! ## Conditions (R97) -/

/-- A condition code on Z, N, C, V. -/
def condTrue (cond : Nat) (z n c v : Bool) : Bool :=
  match cond with
  | 0 => z
  | 1 => !z
  | 2 => c
  | 3 => !c
  | 4 => n
  | 5 => !n
  | 6 => v
  | 7 => !v
  | 8 => c && !z
  | 9 => !c || z
  | 10 => n == v
  | 11 => n != v
  | 12 => !z && (n == v)
  | 13 => z || (n != v)
  | _ => true

/-! ## Addressing (R93–R95) -/

/-- circ of R94: the next pointer of a circular buffer. -/
def circStep (a : Word) (off : Int) (m : Word) : Word :=
  let len := getF m 0 20
  if len = 0 then a + wi off
  else
    let k := 2 ^ ceilLog len
    let i := a.toNat % k
    wd (a.toNat - i + (((i : Int) + off) % (len : Int)).toNat)

/-- brstep of R95. -/
def brStep (a : Word) (off : Int) (m : Word) : Word :=
  let w := min (getF m 20 5) 20
  if w = 0 then a + wi off
  else
    let k := 2 ^ w
    let i := a.toNat % k
    wd (a.toNat - i + brevN w ((((brevN w i : Nat) : Int) + off) % (k : Int)).toNat)

end Sys2Proof.Machine
end

