-- ==== Sys2Proof/Machine/Units.lean ====
section
/-! DEFINITION. The units of a row: cells, Hoes and serial engines, their registers and FIFOs, clock groups, cell
functions, the row budget, event levels and event routes (R266–R288, R316). -/

namespace Sys2Proof.Machine

/-! ## Units and FIFOs -/

def cellDflt : Nat → CellSt := fun _ => CellSt.reset
def hoeDflt : Nat → Hoe := fun _ => Hoe.reset
def engDflt : Nat → Engine := fun _ => { cmd := 0, cs := 0, start := 0 }

/-- Cell `c` of row `r` beside its registers. -/
def cellAt (s : State) (r c : Nat) : CellSt := Tbl.get cellDflt s.cells (r * 128 + c)
def setCell (r c : Nat) (x : CellSt) (s : State) : State := { s with cells := Tbl.set cellDflt s.cells (r * 128 + c) x }

/-- Hoe `h` of row `r` beside its registers. -/
def hoeAt (s : State) (r h : Nat) : Hoe := Tbl.get hoeDflt s.hoes (r * 32 + h)
def setHoe (r h : Nat) (x : Hoe) (s : State) : State := { s with hoes := Tbl.set hoeDflt s.hoes (r * 32 + h) x }

/-- Engine `e` of row `r` beside its registers. -/
def engAt (s : State) (r e : Nat) : Engine := Tbl.get engDflt s.engines (r * 8 + e)
def setEng (r e : Nat) (x : Engine) (s : State) : State := { s with engines := Tbl.set engDflt s.engines (r * 8 + e) x }

/-- The FIFO number of a row unit. -/
def unitKey (r u : Nat) : Nat := r * 160 + u

/-- The words of a FIFO, oldest first. -/
def fifoAt (s : State) (k : Nat) : List Word := Tbl.get (fun _ => []) s.fifo k
def setFifo (k : Nat) (l : List Word) (s : State) : State := { s with fifo := Tbl.set (fun _ => []) s.fifo k l }

/-- Register offsets of a cell and of a Hoe (R294, R296). -/
def cB (c : Nat) : Nat := 0x010 + 6 * c
def hB (h : Nat) : Nat := 0x100 + 0x18 * h
/-- Register offset of a serial engine (Table 12-9). -/
def seB (e : Nat) : Nat := 0x080 + 16 * e

/-- CELL_CFG and HOE_CFG. -/
def cCfg (s : State) (r c : Nat) : Word := reg s (pgRowp r) (cB c)
def hCfg (s : State) (r h : Nat) : Word := reg s (pgHoe r) (hB h)

def cFunc (s : State) (r c : Nat) : Nat := getF (cCfg s r c) 0 4
def cEn (s : State) (r c : Nat) : Bool := bit (cCfg s r c) 34
def hEn (s : State) (r h : Nat) : Bool := bit (hCfg s r h) 0

/-- FIFO words allocated to a cell and to a Hoe (R284, R300). -/
def cDepth (s : State) (r c : Nat) : Nat := 16 * regF s (pgRowp r) (cB c + 1) 0 7
def hDepth (s : State) (r h : Nat) : Nat := 16 * regF s (pgHoe r) (hB h + 1) 0 7

/-- VIO_OK and VIO of a row (R267). -/
def vioOk (s : State) (r : Nat) : Bool := regB s (pgRowc r) 0x010 11
def vio33 (s : State) (r : Nat) : Bool := regB s (pgRowc r) 0x010 10

/-! ## Clock groups (R273, Tables 12-5, 12-10) -/

/-- ROWC_CG of group `g`. -/
def cgW (s : State) (r g : Nat) : Word := reg s (pgRowc r) (0x018 + g)

/-- fs of a RATE code in Hz; none for 15. -/
def rateHz (rate : Nat) : Option Nat :=
  match rate with
  | 0 => some 8000 | 1 => some 16000 | 2 => some 32000 | 3 => some 48000 | 4 => some 96000 | 5 => some 192000
  | 6 => some 384000 | 7 => some 11025 | 8 => some 22050 | 9 => some 44100 | 10 => some 88200 | 11 => some 176400
  | 12 => some 352800 | 13 => some 12000 | 14 => some 24000
  | _ => none

/-- The rate belongs to the 44.1 kHz family. -/
def rate44 (rate : Nat) : Bool := decide (7 ≤ rate) && decide (rate ≤ 12)

/-- fPDM of a PDMF code in Hz; none for 4. -/
def pdmHz (f : Nat) : Option Nat :=
  match f with
  | 0 => some 1536000 | 1 => some 3072000 | 2 => some 6144000 | 3 => some 12288000
  | 5 => some 2822400 | 6 => some 5644800 | 7 => some 11289600
  | _ => none

/-- The PDM output rate in Hz of an ORATE code in the family of PDMF; 768 kHz only in the 48 kHz family. -/
def orateHz (pdmf orate : Nat) : Option Nat :=
  if 5 ≤ pdmf then (if orate ≤ 3 then some (44100 * 2 ^ orate) else none)
  else if orate ≤ 4 then some (48000 * 2 ^ orate) else none

/-- fPDM / output rate is a power of two within Table 12-6. -/
def pdmRatioOk (pdmf orate : Nat) : Bool :=
  match pdmHz pdmf, orateHz pdmf orate with
  | some f, some o =>
    let q := f / o
    let range := match orate with
      | 0 => (32, 256) | 1 => (16, 128) | 2 => (8, 64) | 3 => (8, 32) | _ => (8, 16)
    decide (q * o = f) && decide (range.1 ≤ q) && decide (q ≤ range.2) &&
      [8, 16, 32, 64, 128, 256].contains q
  | _, _ => false

/-- Slot width in bits of an SW code, and data width of a DW code. -/
def widthOf (code : Nat) : Nat := match code with | 0 => 16 | 1 => 20 | 2 => 24 | _ => 32

/-- Slots per frame, and bits per frame. -/
def cgSlots (cg : Word) : Nat := getF cg 7 5 + 1
def cgBits (cg : Word) : Nat := cgSlots cg * widthOf (getF cg 12 2)

/-- BCLK of a frame group in Hz. -/
def bclkHz (cg : Word) : Option Nat := (rateHz (getF cg 3 4)).map (· * cgBits cg)

/-- A group's BCLK lies within the limit for the row's supply (R295). -/
def bclkOk (s : State) (r : Nat) (cg : Word) : Bool :=
  match bclkHz cg with
  | none => false
  | some b => decide (b ≤ 49152000) && (!vio33 s r || decide (b ≤ 24576000))

/-- A frame group's rate, bit clock, divider and format are permitted (R273, R274, R295): I²S and left-justified have two
slots (assumption 115). -/
def frameGroupOk (s : State) (r : Nat) (cg : Word) : Bool :=
  match bclkHz cg with
  | none => false
  | some bclk =>
    let master := if rate44 (getF cg 3 4) then 90316800 else 98304000
    bclkOk s r cg && (decide (2 ≤ getF cg 14 2) || decide (cgSlots cg = 2)) &&
      (decide (getF cg 0 3 ≠ 1) || (decide (master % bclk = 0) && decide (2 ≤ master / bclk)))

/-- The group produces clocks: a master group whose family master runs and whose start is not awaited (R273, R276). -/
def cgRuns (s : State) (r g : Nat) : Bool :=
  let m := getF (cgW s r g) 0 3
  (decide (m = 1) || decide (m = 3)) && s.pllRuns &&
    decide (Tbl.get (fun _ => 0) s.cgArm r / 2 ^ g % 2 = 0)

/-- The cell named for a group's bit clock, and for its frame clock. -/
def cgBcell (cg : Word) : Nat := getF cg 19 7
def cgFcell (cg : Word) : Nat := getF cg 26 7

/-- A slave group's clocks arrive: its BCLK_IN cell, and in frame mode its FCLK_IN cell, are enabled (R273). -/
def cgArrives (s : State) (r g : Nat) : Bool :=
  let cg := cgW s r g
  let takes (c f : Nat) : Bool := cEn s r c && decide (cFunc s r c = f)
  (decide (getF cg 0 3 = 2) && takes (cgBcell cg) 6 && takes (cgFcell cg) 8) ||
    (decide (getF cg 0 3 = 4) && takes (cgBcell cg) 6)

/-- The group has clocks for its cells: produced, or arriving on a slave group. -/
def cgClocked (s : State) (r g : Nat) : Bool := cgRuns s r g || cgArrives s r g

/-- A frame group that uses cell `c` as a clock cell has a BCLK over the row's limit: no clock cell of it is enabled (R295). -/
def clockOver (s : State) (r c : Nat) : Bool :=
  (List.range 8).any fun g =>
    let cg := cgW s r g
    (decide (getF cg 0 3 = 1) || decide (getF cg 0 3 = 2)) && (decide (cgBcell cg = c) || decide (cgFcell cg = c)) &&
      !bclkOk s r cg

/-- CLKERR of a group. -/
def cgErr (s : State) (r g : Nat) : Bool := regB s (pgRowc r) 0x020 (8 + g)

/-! ## Cell functions (R269–R271, R288) -/

/-- PARAM keeps Table 12-3, its unnamed bits 0. -/
def paramOk (s : State) (r : Nat) (v : Word) : Bool :=
  let cg := cgW s r (getF v 4 3)
  match getF v 0 4 with
  | 1 => decide (getF v 13 11 = 0)
  | 2 | 10 => decide (getF v 7 3 ≤ 4) && decide (getF v 10 2 ≠ 3) && decide (getF v 12 12 = 0)
  | 3 => decide (getF v 7 3 ≤ 3) && decide (getF v 11 13 = 0)
  | 4 | 5 =>
    decide (getF v 7 5 + getF v 12 5 ≤ getF cg 7 5) && decide (widthOf (getF v 17 2) ≤ widthOf (getF cg 12 2)) &&
      (if getF v 0 4 = 4 then decide (getF v 20 4 = 0) else decide (getF v 19 1 = 0) && decide (getF v 21 3 = 0))
  | 11 => decide (getF v 14 10 = 0)
  | 12 => decide (getF v 10 3 ≠ 7) && decide (getF v 13 11 = 0)
  | _ => decide (getF v 7 17 = 0)

/-- Another enabled SERIAL cell of the row holds the role that `v` names (R270). -/
def roleTaken (s : State) (r c : Nat) (v : Word) : Bool :=
  decide (getF v 0 4 = 12) &&
    (List.range 128).any fun d => decide (d ≠ c) && cEn s r d && decide (cFunc s r d = 12) &&
      decide (getF (cCfg s r d) 7 6 = getF v 7 6)

/-- The budget cost of a configured cell (Table 12-2, R288). -/
def cellCost (s : State) (r c : Nat) : Nat :=
  let v := cCfg s r c
  let cg := cgW s r (getF v 4 3)
  let pdm := match orateHz (getF cg 34 3) (getF v 7 3) with
    | some o => (o + 47999) / 48000
    | none => 0
  match getF v 0 4 with
  | 2 => if getF v 10 2 = 2 then 2 * pdm else pdm
  | 3 => pdm
  | 4 | 5 => (getF v 12 5 + 1) * (match rateHz (getF cg 3 4) with | some f => (f + 47999) / 48000 | none => 0)
  | 10 => if cDepth s r c = 0 then 0 else pdm
  | _ => 0

/-- USED (R288). -/
def rowUsed (s : State) (r : Nat) : Nat :=
  ((List.range 128).map fun c => if cEn s r c then cellCost s r c else 0).foldl (· + ·) 0

/-- ROWC_POOL.FREE (R284, R300). -/
def rowFree (s : State) (r : Nat) : Nat :=
  8192 - (((List.range 128).map (cDepth s r)).foldl (· + ·) 0 + ((List.range 32).map (hDepth s r)).foldl (· + ·) 0)

/-- The cell's group has a mode its function needs and permitted rates (R271, R273, R277, R295). -/
def groupOk (s : State) (r c : Nat) : Bool :=
  let v := cCfg s r c
  let cg := cgW s r (getF v 4 3)
  let m := getF cg 0 3
  match getF v 0 4 with
  | 2 | 3 | 10 => (decide (m = 3) || decide (m = 4)) && pdmRatioOk (getF cg 34 3) (getF v 7 3)
  | 4 | 5 =>
    (decide (m = 1) || decide (m = 2)) && frameGroupOk s r cg &&
      (decide (getF v 0 4 = 5) || !bit v 19 ||
        [3, 4, 5, 6, 9, 10, 11, 12].contains (getF cg 3 4))
  | 6 | 7 | 8 | 9 => !clockOver s r c
  | _ => true

/-- The checks of an enable (R271, R280). -/
def cellCanEnable (s : State) (r c : Nat) : Bool :=
  let v := cCfg s r c
  let f := getF v 0 4
  decide (f ≠ 0) && vioOk s r && (!([2, 3, 4, 5].contains f) || decide (0 < cDepth s r c)) && groupOk s r c &&
    !(decide (f = 1) && decide (getF v 7 2 ≠ 0) && decide (cDepth s r c = 0)) &&
    decide (rowUsed s r + (if bit v 34 then 0 else cellCost s r c) ≤ 512)

/-- Grid points a PDM or sense cell discards: those within two group delays of the enable (R279, Table 12-6). -/
def settlePoints (v : Word) : Nat := if getF v 7 3 = 4 then 6 else 64

/-- Set a sticky flag of CELL_STAT. -/
def cellFlag (r c b : Nat) (s : State) : State := setRegB (pgRowp r) (cB c + 4) b true s

/-! ## Event levels (R216, R285, R291, R316, R287) -/

/-- The FIFO's words flow in, from the pin. -/
def funcIn (f : Nat) : Bool := [1, 2, 4, 10].contains f
def funcOut (f : Nat) : Bool := [3, 5].contains f

/-- CELL_STAT.ERR: ORUN, URUN or CLKERR of the cell's group. -/
def cellErr (s : State) (r c : Nat) : Bool :=
  let st := reg s (pgRowp r) (cB c + 4)
  bit st 12 || bit st 13 || cgErr s r (getF (cCfg s r c) 4 3)

/-- HOE_STAT.ERR: SHEAR, URUN or CALF. -/
def hoeErr (s : State) (r h : Nat) : Bool :=
  let st := reg s (pgHoe r) (hB h + 0xC)
  bit st 12 || bit st 18 || bit st 21

/-- A running Hoe's limiter gain is below 1. -/
def hoeLimit (s : State) (r h : Nat) : Bool :=
  regB s (pgHoe r) (hB h + 0xC) 11 && decide ((hoeAt s r h).g < 2 ^ 23)

/-- LOW of the rail a Hoe follows. -/
def hoeRailLow (s : State) (r h : Nat) : Bool := regB s pgRail (0x100 + 8 * getF (hCfg s r h) 10 4 + 2) 17

/-- The event level of a unit of a row; none for an undefined code or unit (Tables 9-7, 13-4). -/
def unitEvent (s : State) (r u evt : Nat) : Option Bool :=
  if u < 128 then
    let l := (fifoAt s (unitKey r u)).length
    let th := reg s (pgRowp r) (cB u + 1)
    match evt with
    | 0 => some (funcIn (cFunc s r u) && decide (max 1 (getF th 7 11) ≤ l))
    | 1 => some (funcOut (cFunc s r u) && decide (l ≤ getF th 18 11))
    | 2 => some (cellErr s r u)
    | _ => none
  else if u < 160 then
    let h := u - 128
    match evt with
    | 1 => some (decide ((fifoAt s (unitKey r u)).length ≤ (hoeAt s r h).txth))
    | 2 => some (hoeErr s r h)
    | 4 => some (hoeLimit s r h)
    | 5 => some (hoeRailLow s r h)
    | _ => none
  else if u < 168 then
    let st := reg s (pgRowc r) (seB (u - 160) + 2)
    match evt with
    | 2 => some (decide (getF st 2 3 ≠ 0))
    | 3 => some (bit st 1)
    | _ => none
  else none

/-- The level route `k` of a row watches, if the route is enabled (R287). -/
def evrLevel (s : State) (r k : Nat) : Bool :=
  let v := reg s (pgRowc r) (0x040 + k)
  bit v 26 && decide (unitEvent s r (getF v 0 8) (getF v 8 4) = some true)

/-- Raise the input of route `k` of a row. -/
def evrRaise (r k : Nat) (s : State) : State :=
  let v := reg s (pgRowc r) (0x040 + k)
  raiseUnit (getF v 16 3) (getF v 19 7) (32 + getF v 12 4) s

/-- Raise every route of a row whose level rose between `s0` and `s1` (R287). -/
def routesBetween (r : Nat) (s0 s1 s : State) : State :=
  forAll (List.range 16) (fun k x => if !evrLevel s0 r k && evrLevel s1 r k then evrRaise r k x else x) s

/-- Raise the routes of a row against the state before. -/
def rowRoutes (r : Nat) (s0 s : State) : State := routesBetween r s0 s s

/-- Change units and raise the routes of all four rows. -/
def withRows (f : State → State) (s : State) : State :=
  let s1 := f s
  forAll (List.range 4) (fun r x => routesBetween r s s1 x) s1

/-- Change a row and raise its routes. -/
def withRow (r : Nat) (f : State → State) (s : State) : State := rowRoutes r s (f s)

end Sys2Proof.Machine
end

