-- ==== Sys2Proof/Machine/Framing.lean ====
section
/-! DEFINITION. The framing of lane data (R274): where a frame's bits lie on the lane, and what the frame clock does. -/

namespace Sys2Proof.Machine

/-- Bit clocks from the frame edge to the first bit of slot 0: one in I²S and DSP_A, none in left-justified and DSP_B. The
frame edge is the FCLK edge that begins slot 0's half, or the start of the sync. -/
def frameDelay (cg : Word) : Nat := if getF cg 14 2 = 0 ∨ getF cg 14 2 = 2 then 1 else 0

/-- FCLK in bit clock `n` of a frame: low in the first half for I²S, high for left-justified; a sync of one bit clock, or of
one slot with SYNCW, in the DSP formats; FPOL inverts. -/
def fclkLevel (cg : Word) (n : Nat) : Bool :=
  let hi := match getF cg 14 2 with
    | 0 => decide (cgBits cg / 2 ≤ n)
    | 1 => decide (n < cgBits cg / 2)
    | _ => decide (n < if bit cg 16 then widthOf (getF cg 12 2) else 1)
  hi != bit cg 18

/-- FCLK over one frame, from the frame edge. -/
def fclkWave (cg : Word) : List Bool := (List.range (cgBits cg)).map (fclkLevel cg)

/-- Output data launch on the falling BCLK edge, or with BPOL on the rising one; input data are sampled on the other. -/
def launchFalling (cg : Word) : Bool := !bit cg 17

/-- A bit that a lane output drives; none is high-impedance. -/
abbrev LaneBit := Option Bool

/-- One slot of an output lane: a value of `dw` bits from the top, the rest 0 or high-impedance (R274). -/
def slotBits (w dw : Nat) (tri : Bool) (y : Int) : List LaneBit :=
  (List.range w).map fun p =>
    if p < dw then some (decide (modI dw y / 2 ^ (dw - 1 - p) % 2 = 1)) else if tri then none else some false

/-- The bits of a frame of an output cell with CELL_CFG `v`, slot 0 first: its slots carry `ys`, the others 0 or
high-impedance under TRI. -/
def laneFrame (cg v : Word) (ys : List Int) : List LaneBit :=
  let w := widthOf (getF cg 12 2)
  let tri := bit v 20
  ((List.range (cgSlots cg)).map fun k =>
    match if k < getF v 7 5 then none else ys[k - getF v 7 5]? with
    | some y => slotBits w (widthOf (getF v 17 2)) tri y
    | none => List.replicate w (if tri then none else some false)).flatten

/-- A driven bit as it goes out: 0, 1, or 2 for high-impedance. -/
def laneCode (b : LaneBit) : Nat := match b with | none => 2 | some false => 0 | some true => 1

/-- The number that bits spell, most significant first. -/
def bitsVal (bs : List Bool) : Nat := bs.foldl (fun n b => 2 * n + if b then 1 else 0) 0

/-- The values an input cell with CELL_CFG `v` takes from the bits sampled in the bit clocks from a frame edge on: of each of
its slots the first DW bits; those after them are ignored (R274, R277). -/
def laneValues (cg v : Word) (bits : List Bool) : List Nat :=
  (List.range (getF v 12 5 + 1)).map fun j =>
    bitsVal ((bits.drop (frameDelay cg + (getF v 7 5 + j) * widthOf (getF cg 12 2))).take (widthOf (getF v 17 2)))

end Sys2Proof.Machine
end

