-- ==== Sys2Proof/Machine/Shear.lean ====
section
/-! DEFINITION. The Shear and the rails: trips and their scope, rail faults, LOW, and the stop of a Hoe (R303, R309–R314). -/

namespace Sys2Proof.Machine

def railDflt : Nat → Rail := fun _ => { f := 0, lost := false, thr := 0 }

/-- Rail `r` beside its registers. -/
def railAt (s : State) (r : Nat) : Rail := Tbl.get railDflt s.rails r
def setRail (r : Nat) (x : Rail) (s : State) : State := { s with rails := Tbl.set railDflt s.rails r x }

/-- Register offset of a rail (R319). -/
def rB (r : Nat) : Nat := 0x100 + 8 * r

/-- The rail a Hoe follows. -/
def hRail (s : State) (r h : Nat) : Nat := getF (hCfg s r h) 10 4

def hRunning (s : State) (r h : Nat) : Bool := regB s (pgHoe r) (hB h + 0xC) 11
def hSheared (s : State) (r h : Nat) : Bool := regB s (pgHoe r) (hB h + 0xC) 12

/-- Set a flag of HOE_STAT. -/
def hFlag (r h b : Nat) (v : Bool) (s : State) : State := setRegB (pgHoe r) (hB h + 0xC) b v s

/-- LIMG shows g. -/
def setG23 (r h g : Nat) (s : State) : State :=
  setReg (pgHoe r) (hB h + 0xF) (wd g) (setHoe r h { hoeAt s r h with g := g } s)

/-- A Hoe stops with the levels of EN = 0 (R309). -/
def hoeStop (r h : Nat) (s : State) : State :=
  let s1 := setHoe r h { hoeAt s r h with stopping := false, rearm := (hoeAt s r h).rearm } s
  emit (.other "hoe-stop" [r, h]) (hFlag r h 11 false s1)

/-- Count a trip by cause (HOE_SCNT). -/
def shearCount (r h cause : Nat) (s : State) : State :=
  if cause = 5 then bumpF (pgHoe r) (hB h + 0xE) 32 7 1 s
  else bumpF (pgHoe r) (hB h + 0xE) (8 * (cause - 1)) 8 1 s

/-- The end of the retry window of a trip (R314): a cause other than SW has one. -/
def retryEnd (s : State) (r h cause : Nat) : Option Nat :=
  if cause = 5 then none else some (s.now + 1000 * max 1 (getF (hoeAt s r h).shear 9 8))

/-- The fault record's data of a trip (Table 20-3). -/
def shearData (h cause : Nat) : Word := wd (h + 32 * cause)

/-- A further cause in the tick of a trip counts (R312, assumption 119). -/
def shearMore (s : State) (r h cause : Nat) : Bool :=
  decide ((hoeAt s r h).tripAt = s.now) && !(hoeAt s r h).tripBy.contains cause

/-- A further cause in the tick of the trip: it is counted, and the lowest is recorded, in the trip's entry too (R312, R449,
assumption 119). -/
def shearAlso (r h cause : Nat) (s : State) : State :=
  let x := hoeAt s r h
  if shearMore s r h cause then
    let old := regF s (pgHoe r) (hB h + 0xC) 13 3
    let low := min cause old
    let mine (e : FrecEnt) : Bool := decide (e.kind = 3) && decide (e.src = 0x300 + r) && decide (e.tick = tick40 s) &&
      decide (e.data = shearData h old)
    frecAmend mine (shearData h low) <| shearCount r h cause (setRegF (pgHoe r) (hB h + 0xC) 13 3 low
      (setHoe r h { x with tripBy := cause :: x.tripBy, retryAt := retryEnd s r h low } s))
  else s

/-- A Shear trip (`st` 0x21) or a disable (0x22) breaks off a speaker-line test on the Hoe: injection ends at once, and the
command ends with the status (R443, assumption 147). -/
def lineBreak (r h st : Nat) (s : State) : State :=
  match s.line with
  | some x =>
    if x.r = r ∧ x.h = h ∧ x.broken.isNone then
      setReg (pgHoe r) (hB h + 7) 0 { s with line := some { x with broken := some st } }
    else s
  | none => s

/-- Trip the Shear of a Hoe (R312, R314): once it is latched nothing more happens but for causes of the same instant. -/
def shearTrip (r h cause : Nat) (s : State) : State :=
  if hSheared s r h then shearAlso r h cause s
  else
    let s1 := setRegF (pgHoe r) (hB h + 0xC) 11 5 (2 + 4 * cause) s
    let s2 := setHoe r h { hoeAt s1 r h with
      i1 := 0, i2 := 0, e1 := 0, e2 := 0, stopping := false, rearm := false, retryAt := retryEnd s r h cause,
      tripAt := s.now, tripBy := [cause] } s1
    let s3 := lineBreak r h 0x0021 (shearCount r h cause (setG23 r h 0 s2))
    emit (.other "shear" [r, h]) (frecAdd 3 (0x300 + r) (shearData h cause) s3)

/-- Trip every enabled Hoe of a row that follows a rail. -/
def tripRow (rail cause : Nat) (r : Nat) (s : State) : State :=
  withRow r (forAll (List.range 32) fun h x =>
    if hEn x r h && decide (hRail x r h = rail) then shearTrip r h cause x else x) s

/-- Trip every enabled Hoe following a rail (Table 13-3). -/
def tripRail (rail cause : Nat) (s : State) : State := forAll (List.range 4) (tripRow rail cause) s

/-- An enabled Hoe follows the rail. -/
def railFollowed (s : State) (rail : Nat) : Bool :=
  (List.range 4).any fun r => (List.range 32).any fun h => hEn s r h && decide (hRail s r h = rail)

/-- FAULT stands on a rail. -/
def railFaulty (s : State) (rail : Nat) : Bool := regB s pgRail (rB rail + 2) 19

/-- A rail's FAULT sets. -/
def railFaultSet (rail : Nat) (s : State) : State :=
  setRegB pgRail (rB rail + 2) 19 true (setRail rail { railAt s rail with lost := true } s)

/-- Rails of row `r` lose their streams in one instant (R310): FAULT, and the record entries of the FAULTs that arise and of the
trips, in ascending order of SRC (R448). -/
def railsFault (r : Nat) (rails : List Nat) (s : State) : State :=
  let fresh := rails.filter fun k => !railFaulty s k
  forAll (List.range 4) (fun q x =>
    let x1 := if q = r then forAll fresh (fun k => frecAdd 7 (0x300 + r) (wd k)) x else x
    forAll rails (fun k => tripRow k 4 q) x1) (forAll rails railFaultSet s)

/-- A rail loses its stream (R310). -/
def railFault (rail : Nat) (s : State) : State := railsFault (rail / 4) [rail] s

/-- The enabled rails of row `r` that take one of the row's cells `cs`. -/
def railsOn (s : State) (r : Nat) (cs : List Nat) : List Nat :=
  ((List.range 4).map fun k => 4 * r + k).filter fun k =>
    let w := reg s pgRail (rB k)
    bit w 0 && cs.contains (getF w 1 7)

/-- Cells of a row are disabled: the enabled rails that take them lose their streams (R310). -/
def railCellLost (r : Nat) (cs : List Nat) (s : State) : State := railsFault r (railsOn s r cs) s

end Sys2Proof.Machine
end

