-- ==== Sys2Proof/Machine/Rows.lean ====
section
/-! DEFINITION. Port cells and serial engines below their commands: enables, FIFO transfer, trims, narrowing, register writes
and PORTOPs (R267–R292). -/

namespace Sys2Proof.Machine

/-- An accepted enable (R271): cells without a clock group run at once. -/
def cellEnable (r c : Nat) (s : State) : State :=
  let v := cCfg s r c
  let s1 := setRegB (pgRowp r) (cB c) 34 true s
  let s2 := setRegB (pgRowp r) (cB c + 4) 16 (!([2, 3, 4, 5, 10].contains (getF v 0 4))) s1
  setCell r c { cellAt s r c with settle := settlePoints v, delay := [], drain := false } s2

/-- A cell stops (R272): an output cell that runs finishes its frame or output period. -/
def cellOff (r c : Nat) (s : State) : State :=
  let last := funcOut (cFunc s r c) && regB s (pgRowp r) (cB c + 4) 16
  let s1 := setRegB (pgRowp r) (cB c + 4) 16 false (setRegB (pgRowp r) (cB c) 34 false s)
  setCell r c { cellAt s r c with settle := 0, delay := [], drain := last } s1

/-- A disable (R272): a rail loses its sense stream with its cell (R310). -/
def cellDisable (r c : Nat) (s : State) : State := railCellLost r [c] (cellOff r c s)

/-- An enable request: accepted or refused with CFG_REFUSED (R271). -/
def cellTryEnable (r c : Nat) (s : State) : Bool × State :=
  if cEn s r c then (true, s)
  else if cellCanEnable s r c then (true, cellEnable r c s) else (false, cellFlag r c 14 s)

/-! ## FIFO transfer (R284–R286, R437) -/

/-- Words enter an input FIFO, each offered to its gauge. -/
def cellEnter (r c : Nat) (ws : List Word) (s : State) : State :=
  forAll ws (fun w x => gaugeTake 0 (r * 128 + c) (sw w / 256) false x)
    (setFifo (unitKey r c) (fifoAt s (unitKey r c) ++ ws) s)

/-- Whole frames enter, or are discarded with ORUN and a count (R286). -/
def cellFrameIn (r c : Nat) (ws : List Word) (s : State) : State :=
  if (fifoAt s (unitKey r c)).length + ws.length ≤ cDepth s r c then cellEnter r c ws s
  else bumpF (pgRowp r) (cB c + 5) 16 16 1 (cellFlag r c 12 s)

/-- Take `n` words of an output FIFO, or zeros with URUN and a count (R286). -/
def cellFrameOut (r c n : Nat) (s : State) : List Word × State :=
  let l := fifoAt s (unitKey r c)
  if n ≤ l.length then
    (l.take n, forAll (l.take n) (fun w x => gaugeTake 0 (r * 128 + c) (sw w / 256) false x)
      (setFifo (unitKey r c) (l.drop n) s))
  else (List.replicate n 0, bumpF (pgRowp r) (cB c + 5) 16 16 1 (cellFlag r c 13 s))

/-- A saturated sample of a cell (R70). -/
def cellSat (r c : Nat) (s : State) : State :=
  let s1 := bumpF (pgRowp r) (cB c + 5) 0 16 1 (cellFlag r c 11 s)
  setCell r c { cellAt s1 r c with psat := (cellAt s1 r c).psat + 1 } s1

/-- The user trims on an input sample (R76): the word, and whether it saturated. -/
def cellTrim (s : State) (r c : Nat) (x : Int) : Word × Bool :=
  let g := regF s (pgRowp r) (cB c + 2) 0 24
  let o := sx 24 (regF s (pgRowp r) (cB c + 3) 0 24)
  let y := rheDiv (x * g) (2 ^ 23) + o * 4096
  (wi (satI 40 y), decide (satI 40 y ≠ y))

/-- Trim a list of samples, counting saturations. -/
def cellTrims (r c : Nat) (xs : List Int) (s : State) : List Word × State :=
  match xs with
  | [] => ([], s)
  | x :: rest =>
    let (w, sat) := cellTrim s r c x
    let (ws, s1) := cellTrims r c rest (if sat then cellSat r c s else s)
    (w :: ws, s1)

/-- Narrow one sample with the cell's rounding and generators (R71); `lim` clamps it further (R282). -/
def cellNarrow (r c w : Nat) (lim : Int) (x : Word) (s : State) : Int × State :=
  let code := getF (cCfg s r c) 24 3
  let da := if usesA code then drawA (regF s (pgRowc r) (0x100 + 2 * c) 0 32) else 0
  let db := if usesB code then drawB (regF s (pgRowc r) (0x101 + 2 * c) 0 32) else 0
  let s1 := if usesA code then setReg (pgRowc r) (0x100 + 2 * c) (wd da) s else s
  let s2 := if usesB code then setReg (pgRowc r) (0x101 + 2 * c) (wd db) s1 else s1
  let (y, sat) := narrowSample code x w da db
  let z := max (-lim) (min lim y)
  (z, if sat ∨ z ≠ y then cellSat r c s2 else s2)

/-- Narrow a list of samples in order. -/
def cellNarrows (r c w : Nat) (lim : Int) (xs : List Word) (s : State) : List Int × State :=
  match xs with
  | [] => ([], s)
  | x :: rest =>
    let (y, s1) := cellNarrow r c w lim x s
    let (ys, s2) := cellNarrows r c w lim rest s1
    (y :: ys, s2)

/-- The weight of bit `k` of the `n` that a decimated sample weighs. The audio rates' stages have linear phase: the weights are
symmetric about the window's middle, one group delay of Table 12-6 before the grid point (R278). -/
def tapAt (orate n k : Nat) : Int := Config.pdmTap orate n (if orate < 4 then min k (n - 1 - k) else k)

/-- The weighted sum of the bits from number `k` on, 1 standing for +1.0 and 0 for −1.0. -/
def tapSum (orate n k : Nat) (bits : List Bool) : Int :=
  match bits with
  | [] => 0
  | b :: rest => (if b then tapAt orate n k else -tapAt orate n k) + tapSum orate n (k + 1) rest

/-- One decimated sample of a bit stream, oldest bit first, in S.3.36: the chain is linear, and a stream of one value gives exactly
that value. The weights and the rounding are free (R278, assumption 117). -/
def decimate (orate : Nat) (bits : List Bool) : Int :=
  let free := Config.decimated orate bits
  if bits.isEmpty then free
  else if bits.all id then (2 ^ 36 : Nat)
  else if bits.all (!·) then -(2 ^ 36 : Nat)
  else
    let n := bits.length
    let d := tapSum orate n 0 (List.replicate n true)
    let v := tapSum orate n 0 bits * (2 ^ 36 : Nat)
    if d = 0 then free else if v % d = 0 then v / d else v / d + free % 2

/-- A number sent out, as a natural number modulo 2^40. -/
def outI (v : Int) : Nat := modI 40 v

/-! ## Register writes -/

/-- RND codes 6 and 7 leave the field unchanged. -/
def keepRnd (lo : Nat) (old v : Word) : Word := if 6 ≤ getF v lo 3 then setF v lo 3 (getF old lo 3) else v

/-- The fields fixed while a cell is enabled: FUNC, CG, PARAM, PULL, SAFE, OD (R270). -/
def cellFixed (v : Word) : Nat × Nat × Nat := (getF v 0 24, getF v 30 4, getF v 35 1)

/-- A write of CELL_CFG (R270–R272). -/
def cellCfgWrite (r c : Nat) (v0 : Word) (s : State) : State :=
  let old := cCfg s r c
  let v := keepRnd 24 old (v0 &&& wd 0xFFFFFFFFF)
  let changed := decide (cellFixed v ≠ cellFixed old)
  if (bit old 34 && changed) || decide (13 ≤ getF v 0 4) || !paramOk s r v || roleTaken s r c v then
    cellFlag r c 14 s
  else
    withRow r (fun s =>
      let s1 := setReg (pgRowp r) (cB c) (setB v 34 (bit old 34)) s
      let s2 := setCell r c { cellAt s1 r c with safe := getF v 32 2 } s1
      if bit v 34 then (cellTryEnable r c s2).2 else if bit old 34 then cellDisable r c s2 else s2) s

/-- A graft's write that changes CELL_CFG of an enabled cell acts as a disable and an enable (R270). -/
def cellCfgGraft (r c : Nat) (v : Word) (s : State) : State :=
  if cEn s r c ∧ keepRnd 24 (cCfg s r c) (v &&& wd 0xFFFFFFFFF) ≠ cCfg s r c then cellCfgWrite r c v (cellDisable r c s) else cellCfgWrite r c v s

/-- A write of CELL_FIFO (R284). -/
def cellFifoWrite (r c : Nat) (v : Word) (s : State) : State :=
  let old := cDepth s r c
  if cEn s r c ∨ 64 < getF v 0 7 ∨ rowFree s r + old < 16 * getF v 0 7 then cellFlag r c 14 s
  else withRow r (setReg (pgRowp r) (cB c + 1) (v &&& wd 0x1FFFFFFF)) s

/-- An enabled cell names a group (R276). -/
def groupNamed (s : State) (r g : Nat) : Bool :=
  (List.range 128).any fun c => cEn s r c && decide (getF (cCfg s r c) 4 3 = g)

/-- A write of ROWC_CG (R273, R276). -/
def cgWrite (r g : Nat) (v : Word) (s : State) : State :=
  if groupNamed s r g ∨ 5 ≤ getF v 0 3 ∨ getF v 3 4 = 15 ∨ getF v 34 3 = 4 then setRegB (pgRowc r) 0x020 16 true s
  else
    let arm := Tbl.get (fun _ => 0) s.cgArm r
    let cleared := arm - (arm / 2 ^ g % 2) * 2 ^ g
    let now := if bit v 33 ∧ (getF v 0 3 = 1 ∨ getF v 0 3 = 3) then cleared + 2 ^ g else cleared
    setReg (pgRowc r) (0x018 + g) (v &&& wd 0x1FFFFFFFFF) { s with cgArm := Tbl.set (fun _ => 0) s.cgArm r now }

/-- TUNIT lies within its level (R287). -/
def tunitOk (level tunit : Nat) : Bool :=
  match level with
  | 0 => true
  | 1 => decide (tunit < 16)
  | 2 => decide (tunit < 4)
  | 3 => decide (tunit = 0)
  | _ => false

/-- A write of ROWC_EVR (R287): a level already true when EN is written to 1 raises the input once. -/
def evrWrite (r k : Nat) (v : Word) (s : State) : State :=
  if !tunitOk (getF v 16 3) (getF v 19 7) || (unitEvent s r (getF v 0 8) (getF v 8 4)).isNone then
    setRegB (pgRowc r) 0x010 12 true s
  else
    let s1 := setReg (pgRowc r) (0x040 + k) (v &&& wd 0x7FFFFFF) s
    if evrLevel s1 r k then evrRaise r k s1 else s1

/-- A write of a dither generator: 0 loads the reset state (R65). -/
def cellDthWrite (r off : Nat) (v : Word) (s : State) : State :=
  let x := getF v 0 32
  setReg (pgRowc r) off (wd (if x = 0 then (if off % 2 = 0 then 0x12345679 else 0x87654321) else x)) s

/-! ## Serial engines (R289–R291) -/

/-- The mode of an engine; 3 acts as 0. -/
def seMode (s : State) (r e : Nat) : Nat :=
  let m := regF s (pgRowc r) (seB e) 0 2
  if m = 3 then 0 else m

def seBusy (s : State) (r e : Nat) : Bool := regB s (pgRowc r) (seB e + 2) 0

/-- A role of an engine is held by an enabled SERIAL cell. -/
def roleHeld (s : State) (r e role : Nat) : Bool :=
  (List.range 128).any fun c => cEn s r c && decide (cFunc s r c = 12) &&
    decide (getF (cCfg s r c) 7 3 = e) && decide (getF (cCfg s r c) 10 3 = role)

/-- The roles a transaction needs. -/
def rolesNeeded (mode cs : Nat) : List Nat := if mode = 1 then [0, 1] else [0, 1, 2, 3 + cs]

/-- Lengths are valid (R290). -/
def seLenOk (mode wlen rlen : Nat) : Bool :=
  if mode = 1 then decide (wlen + rlen ≤ 32) else decide (1 ≤ wlen) && decide (wlen ≤ 32) && decide (rlen = 0)

/-- A GO with command word `v` is accepted (R267, R290). -/
def seAccepts (s : State) (r e : Nat) (v : Word) : Bool :=
  !seBusy s r e && decide (seMode s r e ≠ 0) && seLenOk (seMode s r e) (getF v 0 6) (getF v 6 6) && vioOk s r

/-- Byte `i` of an engine's buffer (R290). -/
def seByte (s : State) (r e i : Nat) : Byte :=
  BitVec.ofNat 8 (regF s (pgRowc r) (seB e + 4 + i / 4) (8 * (i % 4)) 8)

/-- Store byte `i` of an engine's buffer. -/
def seSetByte (r e i : Nat) (b : Byte) (s : State) : State :=
  setRegF (pgRowc r) (seB e + 4 + i / 4) (8 * (i % 4)) 8 b.toNat s

/-- The clock of an engine in Hz: I²C by IRATE, SPI by DIV, where 0 acts as 1 (R289). -/
def seHz (s : State) (r e : Nat) : Nat :=
  if seMode s r e = 1 then
    match regF s (pgRowc r) (seB e) 2 2 with | 0 => 100000 | 1 => 400000 | _ => 1000000
  else 100000000 / (2 * (max 1 (regF s (pgRowc r) (seB e) 6 8) + 1))

/-- The stretch limit of an engine in AON ticks: units of 10 µs, 0 acts as 1,023 (R289, Table 12-10). -/
def seStretch (s : State) (r e : Nat) : Nat :=
  let n := regF s (pgRowc r) (seB e) 14 10
  10 * (if n = 0 then 1023 else n)

/-- An accepted GO starts the transaction, or ends it at once with PIN (R289, R290). What goes out names the mode, the clock,
the SPI mode and the bytes. -/
def seStart (r e : Nat) (v : Word) (s : State) : State :=
  let mode := seMode s r e
  let cs := getF v 19 2
  if (rolesNeeded mode cs).all (roleHeld s r e) then
    let x := engAt s r e
    let s2 := setEng r e { cmd := (v &&& wd 0x3FFFFF).toNat, cs := if mode = 2 then cs + 1 else x.cs, start := s.now } s
    emit (.other "serial" ([r, e, mode, getF v 0 22, seHz s r e, regF s (pgRowc r) (seB e) 4 2] ++
      ((List.range (getF v 0 6)).map fun i => (seByte s r e i).toNat))) s2
  else setReg (pgRowc r) (seB e + 2) (wd (2 + 5 * 4)) s

/-- An accepted GO sets BUSY and clears DONE, ERR and COUNT (R290). -/
def seBegin (r e : Nat) (v : Word) (s : State) : State :=
  setReg (pgRowc r) (seB e + 2) 1 (setReg (pgRowc r) (seB e + 1) (v &&& wd 0x3FFFFF) s)

/-- A GO request: whether it was accepted. The levels of DONE and ERR fall before the transaction can end (R287). -/
def seGo (r e : Nat) (v : Word) (s : State) : Bool × State :=
  if seAccepts s r e v then (true, withRow r (seStart r e v) (withRow r (seBegin r e v) s)) else (false, s)

/-- A write of SE_CMD (R290). -/
def seCmdWrite (r e : Nat) (v : Word) (s : State) : State :=
  if bit v 39 then
    (seGo r e v (setReg (pgRowc r) (seB e + 1) (v &&& wd 0x3FFFFF) s)).2
  else setReg (pgRowc r) (seB e + 1) (v &&& wd 0x3FFFFF) s

/-- Store received bytes from buffer position `i`. -/
def seLand (r e i : Nat) (bs : List Byte) (s : State) : State :=
  match bs with
  | [] => s
  | b :: rest => seLand r e (i + 1) rest (seSetByte r e i b s)

/-- SCL can have been held low longer than STRETCH since the GO (Table 12-7). -/
def stretchOver (s : State) (r e : Nat) : Bool :=
  decide (seMode s r e = 1) && decide ((engAt s r e).start + seStretch s r e ≤ s.now)

/-- A transaction ends (R291): `err` 0 for completion, `count` bytes transferred where it failed, `rx` what was read. I²C
ends with a STOP, unless the bus is held low: codes 3 and 4. -/
def seEnd (r e err count : Nat) (rx : List Byte) (s : State) : State :=
  if seBusy s r e ∧ (err ≠ 3 ∨ stretchOver s r e) then
    withRow r (fun s =>
      let x := engAt s r e
      let c := wd x.cmd
      let i2c := decide (seMode s r e = 1)
      let n := if err = 0 then getF c 0 6 + getF c 6 6 else count
      let s1 := if i2c then seLand r e (getF c 0 6) (rx.take (min (getF c 6 6) (n - getF c 0 6))) s
        else seLand r e 0 (rx.take (min (getF c 0 6) n)) s
      let s2 := setEng r e { x with cs := if i2c ∨ bit c 21 then x.cs else 0 } s1
      let s3 := if i2c ∧ err < 3 then emit (.other "serial-stop" [r, e]) s2 else s2
      setReg (pgRowc r) (seB e + 2) (wd (2 + 4 * (err % 8) + 32 * (n % 64))) s3) s
  else s

/-! ## PORTOPs on cells and engines (R292) -/

/-- FLUSH of a cell. -/
def cellFlush (r c : Nat) (s : State) : Bool × State :=
  if cEn s r c then (false, s) else (true, withRow r (setFifo (unitKey r c) []) s)

/-- GPIO_SET. -/
def gpioSet (r c : Nat) (out oe : Bool) (s : State) : Bool × State :=
  if cFunc s r c = 1 then
    (true, setRegB (pgRowc r) (0x02C + c / 32) (c % 32) oe (setRegB (pgRowc r) (0x028 + c / 32) (c % 32) out s))
  else (false, s)

/-- THRESH of a cell. -/
def cellThresh (r c rx tx : Nat) (s : State) : Bool × State :=
  if cDepth s r c < rx ∨ cDepth s r c < tx then (false, s)
  else
    (true, withRow r (fun s => setRegF (pgRowp r) (cB c + 1) 7 11 rx (setRegF (pgRowp r) (cB c + 1) 18 11 tx s)) s)

/-- A PORTOP on a cell (Table 12-8): whether the unit accepted it; ARG bits that the operation does not name do nothing. -/
def portopCell (r c op : Nat) (arg : Nat) (s : State) : Bool × State :=
  match op with
  | 0 =>
    let (ok, s1) := cellTryEnable r c s
    (ok, rowRoutes r s s1)
  | 1 => (true, if cEn s r c then withRow r (cellDisable r c) s else s)
  | 2 => cellFlush r c s
  | 3 => gpioSet r c (decide (arg % 2 = 1)) (decide (arg / 2 % 2 = 1)) s
  | 4 => cellThresh r c (arg % 2 ^ 11) (arg / 2 ^ 11 % 2 ^ 11) s
  | _ => (false, s)

/-- A PORTOP on a serial engine. -/
def portopEngine (r e op arg : Nat) (s : State) : Bool × State :=
  if op = 0 then seGo r e (wd (arg % 2 ^ 23)) s else (false, s)

/-! ## Supplies (R267, R467) -/

/-- A supply in mV classified: none outside both ranges (Table 22-2). -/
def vioClass (mv : Nat) : Option Bool :=
  if 1620 ≤ mv ∧ mv ≤ 1980 then some false else if 2970 ≤ mv ∧ mv ≤ 3630 then some true else none

end Sys2Proof.Machine
end

