-- ==== Sys2Proof/Machine/Hoes.lean ====
section
/-! DEFINITION. Hoes and rails: the carrier period, limiter, loop and requantizer, register writes, enables, PORTOPs and
injection (R296–R319). Fractions stand for the exact values between the roundings the manual names. -/

namespace Sys2Proof.Machine

/-! ## Exact fractions -/

/-- An exact value n / d, d ≥ 1. -/
structure Frac where
  n : Int
  d : Nat
  deriving DecidableEq, Repr

def Frac.ofInt (v : Int) : Frac := { n := v, d := 1 }
def Frac.add (a b : Frac) : Frac := { n := a.n * b.d + b.n * a.d, d := a.d * b.d }
def Frac.sub (a b : Frac) : Frac := { n := a.n * b.d - b.n * a.d, d := a.d * b.d }
def Frac.mul (a b : Frac) : Frac := { n := a.n * b.n, d := a.d * b.d }
def Frac.abs (a : Frac) : Frac := { a with n := a.n.natAbs }
def Frac.lt (a b : Frac) : Bool := decide (a.n * b.d < b.n * a.d)
def Frac.le (a b : Frac) : Bool := decide (a.n * b.d ≤ b.n * a.d)
def Frac.min (a b : Frac) : Frac := if Frac.le a b then a else b
def Frac.max (a b : Frac) : Frac := if Frac.le a b then b else a
/-- a / b for b > 0. -/
def Frac.div (a b : Frac) : Frac := { n := a.n * b.d, d := a.d * b.n.toNat }

/-- The largest multiple of 1 / k at or below a value, times k. -/
def Frac.floorBy (a : Frac) (k : Nat) : Int := a.n * k / a.d

/-- A value on a grid of 1 / k: where it lies between two grid points the manual names no rounding, and the choice is
free (assumption 10). -/
def Frac.grid (a : Frac) (k : Nat) (s : State) : Int × State :=
  let f := Frac.floorBy a k
  if f * a.d = a.n * k then (f, s)
  else
    let (b, s1) := drawBit s
    (if b then f + 1 else f, s1)

/-! ## Rails (R303) -/

/-- A rail's cell can serve it: an enabled SENSE_IN cell of a PDM group at 6.144 or 12.288 MHz. -/
def railCellOk (s : State) (rail c : Nat) : Bool :=
  let r := rail / 4
  let cg := cgW s r (getF (cCfg s r c) 4 3)
  cEn s r c && decide (cFunc s r c = 10) && (decide (getF cg 0 3 = 3) || decide (getF cg 0 3 = 4)) &&
    (decide (getF cg 34 3 = 2) || decide (getF cg 34 3 = 3))

/-- fPDM / 768 kHz of a rail's stream: 8 or 16. -/
def railRatio (s : State) (rail : Nat) : Nat :=
  let r := rail / 4
  let c := regF s pgRail (rB rail) 1 7
  if getF (cgW s r (getF (cCfg s r c) 4 3)) 34 3 = 3 then 16 else 8

/-- A factory trim (Table 3-7): RS_GAIN from 0, RS_OFFS from 16, TS_SLOPE from 32, TS_OFFS from 40, IP_TAP from 48. -/
def trimDflt : Nat → Int := fun k =>
  if k < 16 then 0x8000 else if k < 32 then 0 else if k < 40 then 0x4000 else if k < 48 then -3200 else 32

def trimAt (s : State) (k : Nat) : Int := Tbl.get trimDflt s.trims k

/-- The trimmed code c' and whether it saturated (R74, R75). -/
def railTrim (s : State) (rail c : Nat) : Nat × Bool :=
  let t := rheDiv (c * trimAt s rail) (2 ^ 15) + trimAt s (16 + rail)
  let u := max 0 (min 65535 t)
  (u.toNat, decide (u ≠ t))

/-- A rail's stream runs again once its cell is enabled and a window of it has held both bit values (R310, R319). -/
def railRuns (s : State) (rail : Nat) (edges : Bool) : Bool :=
  edges && cEn s (rail / 4) (regF s pgRail (rB rail) 1 7)

/-- A rail completes a code from the ones its sinc window weighs, 0 to ratio³ (R303, R310). -/
def railCode (rail ones : Nat) (s : State) : State :=
  let k := railRatio s rail
  let c := min 65535 (min ones (k * k * k) * 2 ^ 16 / (k * k * k))
  let (c', sat) := railTrim s rail c
  let thr := reg s pgRail (rB rail + 1)  -- in force from this code on (R319)
  let low := regB s pgRail (rB rail + 2) 17
  let low' := if low then decide (c' < getF thr 7 16 + getF thr 23 10) else decide (c' < getF thr 7 16)
  let back := railRuns s rail (decide (0 < ones) && decide (ones < k * k * k))
  let s1 := setRail rail { railAt s rail with lost := (railAt s rail).lost && !back, thr := thr } s
  let s2 := setRegF pgRail (rB rail + 2) 0 18 (c' + 2 ^ 16 + 2 ^ 17 * b2n low') s1
  let s3 := if low' && !low then bumpF pgRail (rB rail + 3) 16 16 1 s2 else s2
  let mv := rheDiv (c' * regF s pgRail (rB rail) 8 17 * 1000 : Nat) (2 ^ 26)
  gaugeTake 7 rail mv sat s3

/-- The rail gain G' (R303): the reciprocal to 24 significant bits times the constant to 24 significant bits. -/
def sig24 (a : Frac) (k : Nat) : Int := Frac.floorBy a (2 ^ k)

/-- Exponent shift that puts a positive fraction into [2^23, 2^24) when multiplied by 2^k, searched down from 2^40. -/
def sigShift (a : Frac) (k : Nat) : Nat :=
  match k with
  | 0 => 0
  | j + 1 => if sig24 a (j + 1) < 2 ^ 24 then j + 1 else sigShift a j

/-- Round to nearest at 24 significant bits. -/
def near24 (a : Frac) : Frac :=
  let k := sigShift a 40
  { n := rheDiv (a.n * (2 ^ k : Nat)) a.d, d := 2 ^ k }

/-- Rail gain G for VREF, VFS and c' (R303); with VFS 0 the manual gives none: free (assumption 11). -/
def railGain (vref vfs c : Nat) (s : State) : Frac × State :=
  if vfs = 0 then
    let (n, s1) := drawNat s
    ({ n := n, d := 2 ^ 36 }, s1)
  else
    let rec24 := near24 { n := 1, d := max c 256 }
    let k0 : Frac := { n := vref, d := vfs }
    let k := sigShift k0 48
    let (m, s1) := Frac.grid k0 (2 ^ k) s
    (Frac.mul rec24 { n := m * (2 ^ 16 : Nat), d := 2 ^ k }, s1)

/-! ## Configuration (R298, R299, R305, R307) -/

/-- P of a CARRIER code. -/
def carP (c : Nat) : Nat := match c with | 0 => 1024 | 1 => 512 | _ => 256
/-- Carrier frequency in Hz. -/
def carHz (c : Nat) : Nat := match c with | 0 => 384000 | 1 => 768000 | _ => 1536000

/-- MINP in force. -/
def minp (lim : Word) : Nat := max 2 (getF lim 28 8)
/-- QMAX = 2P − MINP. -/
def qmax (cfg lim : Word) : Nat := 2 * carP (getF cfg 2 2) - minp lim

/-- HR does not exceed MDMAX = QMAX / 2P. -/
def hrOk (cfg lim : Word) : Bool :=
  decide (getF lim 0 12 * (2 * carP (getF cfg 2 2)) ≤ qmax cfg lim * 2 ^ 12)

/-- HOE_LOOP lies inside Table 13-2; K values are not checked with LORD = 0 (R305). -/
def loopOk (cfg lp : Word) : Bool :=
  decide (getF cfg 14 2 = 0) ||
    (decide (getF lp 0 20 ≤ (if getF cfg 2 2 = 2 then 0x278DD else 0x40000)) &&
      decide (getF lp 20 20 ≤ getF lp 0 20 / 8))

/-- Codes Table 13-7 refuses. -/
def hoeCodesOk (cfg : Word) : Bool :=
  decide (getF cfg 2 2 ≠ 3) && decide (getF cfg 4 3 < 5) && decide (getF cfg 14 2 ≠ 3) && decide (getF cfg 16 2 ≠ 3)

/-- The static fields of HOE_CFG (R307). -/
def hoeStatic (v : Word) : Nat × Nat := (getF v 1 13, getF v 19 16)

/-- A named sense cell is an enabled SENSE_IN cell with fPDM / carrier 8, 16 or 32 (R308). -/
def hoeSenseOk (s : State) (r : Nat) (cfg : Word) (c : Nat) : Bool :=
  let cg := cgW s r (getF (cCfg s r c) 4 3)
  cEn s r c && decide (cFunc s r c = 10) &&
    (match pdmHz (getF cg 34 3) with
     | some f => [8, 16, 32].any fun k => decide (f = k * carHz (getF cfg 2 2))
     | none => false)

/-- The checks of an enable (R308). -/
def hoeCanEnable (s : State) (r h : Nat) : Bool :=
  let cfg := hCfg s r h
  let rail := getF cfg 10 4
  let sc := reg s (pgHoe r) (hB h + 3)
  vioOk s r && decide (0 < hDepth s r h) && regB s pgRail (rB rail) 0 && domSt s (domRow (rail / 4)) = .run &&
    decide (0 < regF s (pgHoe r) (hB h + 2) 0 17) && (!bit cfg 33 || decide (0 < getF sc 0 17)) &&
    (!bit cfg 34 || decide (0 < getF sc 17 17)) && (decide (getF cfg 14 2 = 0) || bit cfg 33) &&
    (!bit cfg 33 || hoeSenseOk s r cfg (getF cfg 19 7)) && (!bit cfg 34 || hoeSenseOk s r cfg (getF cfg 26 7)) &&
    decide (48000 * 2 ^ getF cfg 4 3 ≤ carHz (getF cfg 2 2)) &&
    hrOk cfg (reg s (pgHoe r) (hB h + 5)) && loopOk cfg (reg s (pgHoe r) (hB h + 4)) && !hSheared s r h

/-- An enable request (R308, R309): an accepted one cancels a ramping stop. -/
def hoeTryEnable (r h : Nat) (s : State) : Bool × State :=
  if hEn s r h then (true, s)
  else if hoeCanEnable s r h then
    (true, setHoe r h { hoeAt s r h with stopping := false } (setRegB (pgHoe r) (hB h) 0 true s))
  else (false, hFlag r h 22 true s)

/-- A disable (R309): it ramps a running Hoe down and stops any other at once; a speaker-line test on it ends (R443). -/
def hoeDisable (r h : Nat) (s : State) : State :=
  let s1 := lineBreak r h 0x0022 (setRegB (pgHoe r) (hB h) 0 false s)
  if hRunning s r h ∧ !hSheared s r h then setHoe r h { hoeAt s1 r h with stopping := true } s1
  else hoeStop r h s1

/-- A write of HOE_CFG (R307–R309). -/
def hoeCfgWrite (r h : Nat) (v : Word) (s : State) : State :=
  let old := hCfg s r h
  let lim := reg s (pgHoe r) (hB h + 5)
  if (bit old 0 && decide (hoeStatic v ≠ hoeStatic old)) || !hoeCodesOk v || !hrOk v lim ||
      !loopOk v (reg s (pgHoe r) (hB h + 4)) then hFlag r h 22 true s
  else
    withRow r (fun s =>
      let s0 := if getF v 2 2 = getF old 2 2 then s else setHoe r h { hoeAt s r h with grid := none } s
      let s1 := setReg (pgHoe r) (hB h) (setB (v &&& wd 0x7FFFFFFFF) 0 (bit old 0)) s0
      if bit v 0 then (hoeTryEnable r h s1).2 else if bit old 0 then hoeDisable r h s1 else s1) s

/-- A write of HOE_FIFO (R284, R300, R307). -/
def hoeFifoWrite (r h : Nat) (v : Word) (s : State) : State :=
  let old := regF s (pgHoe r) (hB h + 1) 0 7
  if (getF v 0 7 ≠ old ∧ (hEn s r h ∨ 64 < getF v 0 7 ∨ rowFree s r + 16 * old < 16 * getF v 0 7)) then
    hFlag r h 22 true s
  else withRow r (setReg (pgHoe r) (hB h + 1) (v &&& wd 0x3FFFF)) s

/-- A write of HOE_LIM (R302, R307): MINP is static. -/
def hoeLimWrite (r h : Nat) (v : Word) (s : State) : State :=
  let old := reg s (pgHoe r) (hB h + 5)
  if (hEn s r h && decide (getF v 28 8 ≠ getF old 28 8)) || !hrOk (hCfg s r h) v then hFlag r h 22 true s
  else setReg (pgHoe r) (hB h + 5) (v &&& wd 0xFFFFFFFFF) s

/-- A write of HOE_LOOP (R305, R307). -/
def hoeLoopWrite (r h : Nat) (v : Word) (s : State) : State :=
  if loopOk (hCfg s r h) v then setReg (pgHoe r) (hB h + 4) v s else hFlag r h 22 true s

/-- A speaker-line test owns the Hoe's injection registers (R443). -/
def lineOwns (s : State) (r h : Nat) : Bool :=
  match s.line with
  | some x => decide (x.r = r) && decide (x.h = h)
  | none => false

/-- Set IMODE (R307, R315); 3 is refused. -/
def hoeInject (r h imode : Nat) (s : State) : Bool × State :=
  if imode = 3 ∨ lineOwns s r h then (false, hFlag r h 22 true s) else (true, setReg (pgHoe r) (hB h + 7) (wd imode) s)

/-- FLUSH (R309). -/
def hoeFlush (r h : Nat) (s : State) : Bool × State :=
  if hEn s r h then (false, s) else (true, withRow r (setFifo (unitKey r (128 + h)) []) s)

/-- A cause of Table 13-3 is present for a Hoe (R314). -/
def causePresent (s : State) (r h : Nat) : Bool :=
  let cfg := hCfg s r h
  let rail := getF cfg 10 4
  let ovf := min 64 (getF (railAt s rail).thr 0 7)
  let ocf := min 32 (getF (hoeAt s r h).shear 0 6)
  let f := (hoeAt s r h).ocf
  (decide (0 < ovf) && decide (ovf ≤ (railAt s rail).f)) ||
    (bit cfg 34 && decide (0 < ocf) && decide (ocf ≤ (if f < 32 then 32 - f else f - 32))) ||
    (bit cfg 33 && (hoeAt s r h).vlost) || (railAt s rail).lost || regB s pgRail (rB rail + 2) 19

/-- A REARM request (R314): refused while a cause is present, and in the instant of a trip (assumption 119). -/
def hoeRearm (r h : Nat) (s : State) : Bool × State :=
  if hSheared s r h && !causePresent s r h && decide ((hoeAt s r h).tripAt ≠ s.now) then
    (true, setHoe r h { hoeAt s r h with rearm := true, retryAt := none } s)
  else (false, s)

/-- THRESH of a Hoe. -/
def hoeThresh (r h tx : Nat) (s : State) : Bool × State :=
  if hDepth s r h < tx then (false, s) else (true, withRow r (setRegF (pgHoe r) (hB h + 1) 7 11 tx) s)

/-- A PORTOP on a Hoe (Table 13-5); ARG bits that the operation does not name do nothing. -/
def portopHoe (r h op arg : Nat) (s : State) : Bool × State :=
  match op with
  | 0 =>
    let (ok, s1) := hoeTryEnable r h s
    (ok, rowRoutes r s s1)
  | 1 => (true, if hEn s r h then withRow r (hoeDisable r h) s else s)
  | 2 => hoeFlush r h s
  | 3 => hoeRearm r h s
  | 4 => hoeThresh r h (arg % 2 ^ 11) s
  | 5 => if arg % 4 < 3 then (true, (hoeInject r h (arg % 4) s).2) else (false, s)
  | _ => (false, s)

/-- A write of HOE_CTRL (R309, R311, R314). -/
def hoeCtrlWrite (r h : Nat) (v : Word) (s : State) : State :=
  let s1 := if bit v 0 ∧ !bit v 1 then (hoeRearm r h s).2 else s
  let s2 := if bit v 2 then (hoeFlush r h s1).2 else s1
  let s3 := if bit v 3 then setRegF (pgHoe r) (hB h + 0xC) 24 3 0 s2 else s2
  if bit v 1 then withRow r (shearTrip r h 5) s3 else s3

/-- A write of a Hoe's generator: 0 loads the reset state (R65). -/
def hoeDthWrite (r off : Nat) (b : Bool) (v : Word) (s : State) : State :=
  let x := getF v 0 32
  setReg (pgHoe r) off (wd (if x = 0 then (if b then 0x87654321 else 0x12345679) else x)) s

/-- A write of RAIL_CFG (R319). -/
def railCfgWrite (rail : Nat) (v : Word) (s : State) : State :=
  if railFollowed s rail ∨ (bit v 0 ∧ !railCellOk s rail (getF v 1 7)) then setRegB pgRail (rB rail + 2) 20 true s
  else
    let s1 := setReg pgRail (rB rail) (v &&& wd 0x1FFFFFF) s
    if bit v 0 ∧ !regB s pgRail (rB rail) 0 then setRegB pgRail (rB rail + 2) 16 false s1 else s1

/-- A write of RAIL_STAT: FAULT clears only once the stream runs again (Table 13-9). -/
def railStatWrite (rail : Nat) (v : Word) (s : State) : State :=
  let m := if (railAt s rail).lost then 0x140000 else 0x1C0000
  setReg pgRail (rB rail + 2) (reg s pgRail (rB rail + 2) &&& ~~~(v &&& wd m)) s

/-! ## One carrier period (R300–R306, R312, R315) -/

/-- The take instant at carrier period `pos` of the 48 kHz period is a sample instant (R300). -/
def sampleInstant (cfg : Word) (pos : Nat) : Bool :=
  decide (pos * carP (getF cfg 2 2) % (8192 / 2 ^ getF cfg 4 3) = 0)

/-- Take one word of the input FIFO, or 0 with URUN and a count. -/
def hoeTakeWord (r h : Nat) (s : State) : Word × State :=
  match fifoAt s (unitKey r (128 + h)) with
  | w :: rest => (w, setFifo (unitKey r (128 + h)) rest s)
  | [] => (0, bumpF (pgHoe r) (hB h + 0xD) 0 16 1 (hFlag r h 18 true s))

/-- π / 2 in units of 2^−64. -/
def piHalf : Nat := 28976077832308491369

/-- x^n / n! in units of 2^−64 from the term two before it, for the Taylor series. -/
def sineTerm (x t n : Nat) : Nat := t * x / 2 ^ 64 * x / 2 ^ 64 / (n * (n - 1))

/-- The series x − x³/3! + x⁵/5! − … of `k` terms from the term `t` of degree `n`. -/
def sineSum (k x t n : Nat) : Int :=
  match k with
  | 0 => 0
  | j + 1 => (t : Int) - sineSum j x (sineTerm x t (n + 2)) (n + 2)

/-- sin(π/2 × r / 2^30) in S.3.36, rounded down, for r up to 2^30. -/
def sineQuarter (r : Nat) : Int :=
  let x := r * piHalf / 2 ^ 30
  sineSum 14 x x 1 / (2 ^ 28 : Nat)

/-- sin(2π × phi / 2^32) in S.3.36 (R315): exact where it lies on the grid, else one of its two neighbours, a free choice
(assumption 4). -/
def toneSine (phi : Nat) : Int :=
  let r := phi % 2 ^ 30
  let up := if phi / 2 ^ 30 % 2 = 0 then r else 2 ^ 30 - r
  let v : Int := if up = 0 then 0 else if up = 2 ^ 30 then (2 ^ 36 : Nat)
    else sineQuarter up + (Config.sine (BitVec.ofNat 32 phi)).toNat % 2
  if phi / 2 ^ 31 % 2 = 0 then v else -v

/-- The injected value (R315). -/
def hoeInj (s : State) (r h phi : Nat) : Frac :=
  { n := sw (reg s (pgHoe r) (hB h + 8)) * (2 ^ 36 : Nat) + sw (reg s (pgHoe r) (hB h + 9)) * toneSine phi, d := 2 ^ 72 }

/-- 2d − 1 in S.3.36 from a second-order sinc value of a window of `k` bits. -/
def senseVal (k v : Nat) : Int := ((2 * min v (k * k) : Nat) - (k * k : Nat) : Int) * (2 ^ 36 : Nat) / (k * k : Nat)

/-- fPDM / carrier of a sense cell of a Hoe. -/
def senseRatio (s : State) (r : Nat) (cfg : Word) (c : Nat) : Nat :=
  match pdmHz (getF (cgW s r (getF (cCfg s r c) 4 3)) 34 3) with
  | some f => max 1 (f / carHz (getF cfg 2 2))
  | none => 1

/-- The limiter's new gain, times 2^23 (R302), and whether the catch acted. -/
def limiter (cfg lim : Word) (g : Nat) (down : Bool) (need : Frac) (s : State) : Nat × Bool × State :=
  let p := carP (getF cfg 2 2)
  let g0 : Frac := { n := g, d := 2 ^ 23 }
  let hr : Frac := { n := getF lim 0 12, d := 2 ^ 12 }
  let gt : Frac := if down then Frac.ofInt 0 else if Frac.le need hr then Frac.ofInt 1 else Frac.div hr need
  let atk : Frac := { n := p * 1000, d := 393216 * (min 50 (max 1 (getF lim 12 6))) }
  let rel : Frac := { n := p, d := 393216 * max 1 (getF lim 18 10) }
  let g1 := if Frac.lt gt g0 then Frac.max gt (Frac.sub g0 atk) else Frac.min gt (Frac.add g0 rel)
  let (k, s1) := Frac.grid g1 (2 ^ 23) s
  let mdmax : Frac := { n := qmax cfg lim, d := 2 * p }
  if Frac.lt mdmax (Frac.mul { n := k, d := 2 ^ 23 } need) then
    ((Frac.floorBy (Frac.div mdmax need) (2 ^ 23)).toNat, true, s1)
  else (k.toNat, false, s1)

/-- An integrator step, on the S.3.36 grid; reaching ±4.0 is a loop fault (R301, R305). -/
def integrate (i : Int) (k : Nat) (e : Frac) (s : State) : Int × Bool × State :=
  let (v, s1) := Frac.grid (Frac.add { n := i, d := 2 ^ 36 } (Frac.mul { n := k, d := 2 ^ 19 } e)) (2 ^ 36) s
  (v, decide ((4 * 2 ^ 36 : Nat) ≤ v.natAbs), s1)

/-- The loop of R301: v, the new integrators, and a loop fault. -/
def hoeLoop (lord : Nat) (lp : Word) (i1 i2 : Int) (u y : Frac) (s : State) : Frac × Int × Int × Bool × State :=
  if lord = 0 then (u, i1, i2, false, s)
  else
    let (j1, bad1, s1) := integrate i1 (getF lp 0 20) (Frac.sub u y) s
    let v1 := Frac.add u { n := j1, d := 2 ^ 36 }
    if bad1 ∨ lord ≠ 2 then (v1, j1, i2, bad1, s1)
    else
      let (j2, bad2, s2) := integrate i2 (getF lp 20 20) { n := j1, d := 2 ^ 36 } s1
      (Frac.add v1 { n := j2, d := 2 ^ 36 }, j1, j2, bad2, s2)

/-- What the requantizer gives (R306). -/
structure Requant where
  q : Int
  e1 : Int
  e2 : Int
  clamp : Bool
  deriving DecidableEq, Repr

/-- The requantizer (R306); `da` and `db` are the draws of TPDF. -/
def requantize (sx : Int) (qord : Nat) (dith : Bool) (e1 e2 : Int) (qm : Nat) (da db : Nat) : Requant :=
  let c1 : Int := match qord with | 0 => 0 | 1 => -1 | _ => -2
  let c2 : Int := match qord with | 0 => 0 | 1 => 0 | _ => 1
  let u := sx + c1 * e1 + c2 * e2
  let t := roundTo (if dith then 5 else 2) u 16 da db
  let q := max (-(qm : Int)) (min qm t)
  if q = t then { q := q, e1 := t * (2 ^ 16 : Nat) - u, e2 := e1, clamp := false }
  else { q := q, e1 := 0, e2 := 0, clamp := true }

/-- The edges of a frame (R299): rising step and width of PWM_A and PWM_B. -/
def hoeEdges (cfg : Word) (q : Int) : List Nat :=
  let p : Int := carP (getF cfg 2 2)
  let wa := 2 * p + q
  let ra := (4 * p - wa) / 2
  if bit cfg 1 then [ra.toNat, wa.toNat, ((4 * p - (2 * p - q)) / 2).toNat, (2 * p - q).toNat]
  else [ra.toNat, wa.toNat]

/-- The words of a period before the limiter: x after injection, with the FIFO taken from at a sample instant. -/
def hoeInput (r h pos : Nat) (s : State) : Frac × State :=
  let cfg := hCfg s r h
  let (w, s1) := if sampleInstant cfg pos then hoeTakeWord r h s else ((hoeAt s r h).x, s)
  let im := regF s (pgHoe r) (hB h + 7) 0 2
  let x := hoeAt s1 r h
  let phi := if im ≠ 0 ∧ x.imode = 0 then 0 else x.phi
  let held : Frac := { n := sw w, d := 2 ^ 36 }
  let v := match im with
    | 1 => Frac.add held (hoeInj s r h phi)
    | 2 => hoeInj s r h phi
    | _ => held
  let phi' := if im = 0 then phi else (phi + regF s (pgHoe r) (hB h + 0xA) 0 32) % 2 ^ 32
  (v, setHoe r h { x with x := w, imode := im, phi := phi' } s1)

/-- The voltage window of a take: its value, and a window that has held both bit values shows a running stream (R304, R311). -/
def hoeVolts (r h vs : Nat) (s : State) : State :=
  let cfg := hCfg s r h
  let k := senseRatio s r cfg (getF cfg 19 7)
  let x := hoeAt s r h
  setReg (pgHoe r) (hB h + 0x10) (wi (senseVal k vs))
    (setHoe r h { x with
      ys := (senseVal k vs :: x.ys).take 3
      vlost := x.vlost && !(decide (0 < vs) && decide (vs < k * k)) } s)

/-- The cosine of a tone's phase, a quarter turn ahead of its sine. -/
def toneCos (phi : Nat) : Int := toneSine ((phi + 2 ^ 30) % 2 ^ 32)

/-- Ticks that the demodulation of a tone of f Hz takes: the least whole number of periods that covers 8 of them and 10 ms
(R446). -/
def demodTicks (f : Nat) : Nat := (max 8 ((f + 99) / 100) * 1000000 + f - 1) / f

/-- The largest f for which (2f − 1)^n ≤ 2^n × p, over `k` bits: RHE of the n-th root of p, halves aside. -/
def rootUp (n p k acc : Nat) : Nat :=
  match k with
  | 0 => acc
  | j + 1 => if (2 * (acc + 2 ^ j) - 1) ^ n ≤ 2 ^ n * p then rootUp n p j (acc + 2 ^ j) else rootUp n p j acc

/-- f_i in Hz; an exact half goes to the even integer. -/
def lineFreq (f1 f2 n i : Nat) : Nat :=
  if n ≤ 1 then f1
  else
    let e := n - 1
    let p := f1 ^ (e - i) * f2 ^ i
    let f := rootUp e p 15 0
    if (2 * f - 1) ^ e = 2 ^ e * p ∧ f % 2 = 1 then f - 1 else f

/-- Points measured so far. -/
def linePoints (x : LineTest) : Nat := x.bytes.length / 8

/-- Argument `k` of a test. -/
def lineArg (x : LineTest) (k : Nat) : Nat := (x.args[k]?).getD 0

/-- The frequency of the point under way, in Hz. -/
def pointHz (x : LineTest) : Nat := lineFreq (lineArg x 1) (lineArg x 2) (lineArg x 3) (linePoints x)

/-- Ticks that a phase of a test lasts (R444, R446, R447). -/
def lineTicks (x : LineTest) : Nat :=
  match x.phase with
  | .terminal => 10000
  | .running => 0
  | .settle1 | .settle2 => 1000 * x.settle
  | .avg1 | .avg2 => 1000 * x.avg
  | .point => 5000
  | .demod => demodTicks (pointHz x)

/-- What a phase makes of the measures of one carrier period: their sums (R444), and over a point their products with the tone
that the period injects (R446). -/
def lineGather (v i phi : Int) (x : LineTest) : LineTest :=
  match x.phase with
  | .avg1 | .avg2 => { x with cnt := x.cnt + 1, sv := x.sv + v, si := x.si + i }
  | .demod =>
    let (a, b) := (toneSine phi.toNat, toneCos phi.toNat)
    { x with cnt := x.cnt + 1, vs := x.vs + v * a, vc := x.vc + v * b, is := x.is + i * a, ic := x.ic + i * b }
  | _ => x

/-- A speaker-line test takes the measures of a carrier period of its Hoe while its phase lasts (R444, R446). -/
def lineMeasure (r h : Nat) (s : State) : State :=
  match s.line with
  | some x =>
    if x.r = r ∧ x.h = h ∧ s.now < x.since + lineTicks x then
      { s with line := some (lineGather (sw (reg s (pgHoe r) (hB h + 0x10))) (sw (reg s (pgHoe r) (hB h + 0x11)))
          (hoeAt s r h).phi x) }
    else s
  | none => s

/-- Report the sensed voltage and current (R304, R315). -/
def hoeMeasure (r h vs is : Nat) (s : State) : State :=
  let cfg := hCfg s r h
  let s1 := if bit cfg 33 then hoeVolts r h vs s else s
  lineMeasure r h <| if bit cfg 34 then
    setReg (pgHoe r) (hB h + 0x11) (wi (senseVal (senseRatio s r cfg (getF cfg 26 7)) is)) s1 else s1

/-- Take the draws of TPDF (R306). -/
def hoeDraws (r h : Nat) (s : State) : Nat × Nat × State :=
  if bit (hCfg s r h) 18 then
    let da := drawA (regF s (pgHoe r) (hB h + 0x12) 0 32)
    let db := drawB (regF s (pgHoe r) (hB h + 0x13) 0 32)
    (da, db, setReg (pgHoe r) (hB h + 0x13) (wd db) (setReg (pgHoe r) (hB h + 0x12) (wd da) s))
  else (0, 0, s)

/-- y of R304; with VREF 0 the manual gives none: free (assumption 11). -/
def hoeSensed (m : Int) (vsfs vref : Nat) (s : State) : Frac × State :=
  if vref = 0 then
    let (w, s1) := drawWord s
    ({ n := sw w, d := 2 ^ 36 }, s1)
  else (Frac.mul { n := m, d := 2 ^ 36 } { n := vsfs, d := vref }, s)

/-- The loop delay D of a CARRIER code (Table 13-2). -/
def loopDelay (c : Nat) : Nat := if c = 2 then 3 else 2

/-- 2d − 1 of the window whose frame lies D periods before the take: the latest window is of the frame before the take
(R304, assumption 50). -/
def hoeY (s : State) (r h : Nat) : Int := ((hoeAt s r h).ys[loopDelay (getF (hCfg s r h) 2 2) - 1]?).getD 0

/-- The PWM clocks from a 48 kHz boundary to the start of the frame of carrier period `pos`: PHASE delays by P/8 each, and
the pipeline lead is 64 (R298, R299). -/
def frameStart (cfg : Word) (pos : Nat) : Nat :=
  pos * carP (getF cfg 2 2) + getF cfg 7 3 * (carP (getF cfg 2 2) / 8) + 64

/-- The period from the loop on: requantize, place the edges, keep the state. -/
def hoeModulate (r h pos : Nat) (u : Frac) (g : Frac) (s : State) : State :=
  let cfg := hCfg s r h
  let x := hoeAt s r h
  let lord := getF cfg 14 2
  let qord := getF cfg 16 2
  let vref := regF s (pgHoe r) (hB h + 2) 0 17
  let (y, s) := hoeSensed (hoeY s r h) (regF s (pgHoe r) (hB h + 3) 0 17) vref s
  let i1 := if lord = x.lord then x.i1 else 0
  let i2 := if lord = x.lord then x.i2 else 0
  let (v, j1, j2, bad, s1) := hoeLoop lord (reg s (pgHoe r) (hB h + 4)) i1 i2 u y s
  if bad then shearTrip r h 3 s1
  else
    let vg := Frac.mul v g
    let sx := rheDiv (vg.n * (2 * carP (getF cfg 2 2) * 2 ^ 16 : Nat)) vg.d
    let (da, db, s2) := hoeDraws r h s1
    let e1 := if qord = x.qord then x.e1 else 0
    let e2 := if qord = x.qord then x.e2 else 0
    let o := requantize sx qord (bit cfg 18) e1 e2 (qmax cfg (reg s (pgHoe r) (hB h + 5))) da db
    let s3 := if o.clamp then hFlag r h 20 true s2 else s2
    let s4 := setHoe r h { hoeAt s3 r h with
      i1 := j1, i2 := j2, e1 := o.e1, e2 := o.e2, lord := lord, qord := qord, q := o.q } s3
    emit (.other "hoe" ([r, h, frameStart cfg pos] ++ hoeEdges cfg o.q)) s4

/-- A gauge value as a signed 32-bit integer; for one outside that range the manual gives none: free (R437, assumption 148). -/
def gaugeFit (v : Int) (s : State) : Int × State :=
  if satI 32 v = v then (v, s)
  else
    let (n, s1) := drawNat s
    (sx 32 (n % 2 ^ 32), s1)

/-- A period of a running Hoe (R301). -/
def hoePeriod (r h pos : Nat) (s : State) : State :=
  let cfg := hCfg s r h
  let lim := reg s (pgHoe r) (hB h + 5)
  let rail := getF cfg 10 4
  let (x, s1) := hoeInput r h pos s
  let (g, s2) := railGain (regF s (pgHoe r) (hB h + 2) 0 17) (regF s pgRail (rB rail) 8 17)
    (regF s pgRail (rB rail + 2) 0 16) s1
  let down := regB s pgRail (rB rail + 2) 17 || (hoeAt s r h).stopping
  let (gn, caught, s3) := limiter cfg lim (hoeAt s r h).g down (Frac.mul (Frac.abs x) g) s2
  let s4 := if caught then bumpF (pgHoe r) (hB h + 0xD) 16 16 1 (hFlag r h 19 true s3) else s3
  let (xg, s4) := gaugeFit (Frac.floorBy x (2 ^ 28)) s4
  let s5 := gaugeTake 9 (r * 32 + h) gn false (gaugeTake 2 (r * 32 + h) xg false s4)
  hoeModulate r h pos (Frac.mul { n := gn, d := 2 ^ 23 } x) g (setG23 r h gn s5)

/-- The Hoe starts at a take instant (R308); DRV_EN goes high. -/
def hoeStart (r h : Nat) (s : State) : State :=
  let x := hoeAt s r h
  emit (.other "hoe-start" [r, h]) <| hFlag r h 11 true (setG23 r h 0 (setHoe r h { x with
    stopping := false, i1 := 0, i2 := 0, e1 := 0, e2 := 0, imode := 0, x := 0,
    lord := getF (hCfg s r h) 14 2, qord := getF (hCfg s r h) 16 2 } s))

/-- The audio PLL is locked. -/
def pllLock (s : State) : Bool := regB s pgDev 0x051 0

/-- The PWM clock runs: it has started, or a Hoe is enabled and the PLL locked (R298). -/
def pwmRuns (s : State) : Bool :=
  s.pllRuns && (s.pwmOn || (pllLock s && (List.range 4).any fun r => (List.range 32).any fun h => hEn s r h))

/-- The audio PLL stops, and with it the PWM clock and its grid. -/
def pllStop (s : State) : State :=
  { s with pllRuns := false, pwmOn := false, pwmClk := 0, hoes := Tbl.mapV hoeDflt (fun _ x => { x with grid := none }) s.hoes }

/-- Carrier periods in a 48 kHz period. -/
def carPeriods (cfg : Word) : Nat := 8192 / carP (getF cfg 2 2)

/-- The clock count of a Hoe's next boundary of period `pos`, of those at or after the latest instant of the grid: PHASE delays
it by P/8 each (R298). -/
def takeClk (s : State) (r h pos : Nat) : Nat :=
  let cfg := hCfg s r h
  let t := s.pwmClk / 8192 * 8192 + pos * carP (getF cfg 2 2) + getF cfg 7 3 * (carP (getF cfg 2 2) / 8)
  if t < s.pwmClk then t + 8192 else t

/-- No running Hoe has a take instant before clock `t` outstanding. -/
def takesDone (s : State) (t : Nat) : Bool :=
  (List.range 4).all fun r => (List.range 32).all fun h =>
    !hRunning s r h || (match (hoeAt s r h).grid with
      | some n => decide (t ≤ n) || decide (n < s.pwmClk)
      | none => true)

/-- The carrier boundary of period `pos` is the Hoe's next one, and the device's next take instant: the boundaries of all Hoes
lie on one grid (R298). -/
def onGrid (s : State) (r h pos : Nat) : Bool :=
  decide (pos < carPeriods (hCfg s r h)) &&
    (match (hoeAt s r h).grid with
     | some n => decide (n = takeClk s r h pos) || decide (n < s.pwmClk)
     | none => true) &&
    takesDone s (takeClk s r h pos)

/-- A processing block boundary of the 48 kHz base lies on a 48 kHz boundary of the grid (R298): every take instant before it
has come. -/
def gridBlock (s : State) : Option Nat :=
  let t := (s.pwmClk + 8191) / 8192 * 8192
  if !s.pwmOn then some s.pwmClk else if takesDone s t then some t else none

/-- An enabled Hoe may start: PLL lock, rail VALID, no latch (R308). -/
def hoeMayStart (s : State) (r h : Nat) : Bool :=
  hEn s r h && !hRunning s r h && !hSheared s r h && pllLock s && regB s pgRail (rB (hRail s r h) + 2) 16

/-- A take instant clears a latch whose REARM was accepted (R314). -/
def hoeUnlatch (r h : Nat) (s : State) : State :=
  let x := hoeAt s r h
  if x.rearm then
    let s1 := emit (.other "shear-clear" [r, h])
      (hFlag r h 12 false (setHoe r h { x with rearm := false, i1 := 0, i2 := 0, e1 := 0, e2 := 0 } s))
    if hoeMayStart s1 r h then hoeStart r h s1 else s1
  else s

/-- What every take instant does first: live fields written before it apply, new taps take effect, and the windows that
end with it are measured (R77, R304, R307). -/
def hoeLatch (r h pos vs is : Nat) (s : State) : State :=
  let x := hoeAt s r h
  hoeMeasure r h vs is (setHoe r h { x with
    shear := reg s (pgHoe r) (hB h + 6), txth := regF s (pgHoe r) (hB h + 1) 7 11, taps := x.tapsNext
    grid := some (takeClk s r h pos + carP (getF (hCfg s r h) 2 2)) } { s with pwmOn := true, pwmClk := takeClk s r h pos })

/-- A take instant of a Hoe, once its fields are latched (R297, R301, R309, R312). -/
def hoeTake (r h pos : Nat) (s : State) : State :=
  if hSheared s r h then
    (if hEn s r h && sampleInstant (hCfg s r h) pos then (hoeTakeWord r h s).2 else s)
  else if !hRunning s r h then s
  else if (hoeAt s r h).stopping && decide ((hoeAt s r h).g = 0) then hoeStop r h s
  else hoePeriod r h pos s

/-- A level or a wave at an output. -/
inductive Drive where
  | low | high
  /-- high on the steps [rise, rise + width) of each frame, or low on them -/
  | pulse (rise width : Nat)
  | gap (rise width : Nat)
  deriving DecidableEq, Repr

/-- Output `pin` of a Hoe: 0 PWM_A, 1 PWM_B, 2 DRV_EN, 3 FLT_N (Table 13-1). -/
def hoeOut (s : State) (r h pin : Nat) : Drive :=
  if hSheared s r h then .low
  else if !hRunning s r h then (if pin = 3 then .high else .low)
  else match pin, hoeEdges (hCfg s r h) (hoeAt s r h).q with
    | 0, ra :: wa :: _ => .pulse ra wa
    | 1, [_, _, rb, wb] => .pulse rb wb
    | 1, ra :: wa :: _ => .gap ra wa
    | _, _ => .high

/-! ## Detectors and supplies (R311, R467) -/

/-- A rail's fast detector gives a value (Table 13-3). -/
def fastRail (rail f : Nat) (s : State) : State :=
  let ovf := min 64 (getF (railAt s rail).thr 0 7)
  let back := railRuns s rail (decide (0 < f) && decide (f < 64))
  let s1 := setRail rail { railAt s rail with f := f, lost := (railAt s rail).lost && !back } s
  if 0 < ovf ∧ ovf ≤ f ∧ regB s pgRail (rB rail) 0 then
    let trips := (List.range 4).any fun r => (List.range 32).any fun h =>
      hEn s r h && decide (hRail s r h = rail) && (!hSheared s r h || shearMore s r h 1)
    let s2 := if trips then bumpF pgRail (rB rail + 3) 0 16 1 (setRegB pgRail (rB rail + 2) 18 true s1) else s1
    tripRail rail 1 s2
  else s1

/-- A Hoe's current detector gives a value: it trips this Hoe, enabled or on its way down. -/
def fastHoe (r h f : Nat) (s : State) : State :=
  let ocf := min 32 (getF (hoeAt s r h).shear 0 6)
  let s1 := setHoe r h { hoeAt s r h with ocf := f } s
  if bit (hCfg s r h) 34 ∧ 0 < ocf ∧ ocf ≤ (if f < 32 then 32 - f else f - 32) then
    withRow r (shearTrip r h 2) s1
  else s1

/-- VIO_OK of a row falls: cells, Hoes and engines stop (R467). -/
def rowSupplyFail (r : Nat) (s : State) : State :=
  withRow r (fun s =>
    let s1 := setRegB (pgRowc r) 0x010 11 false s
    let cs := (List.range 128).filter (cEn s1 r)
    let s2 := railCellLost r cs (forAll cs (cellOff r) s1)
    let s3 := forAll (List.range 32) (fun h x =>
      if hEn x r h then setG23 r h 0 (hoeStop r h (setRegB (pgHoe r) (hB h) 0 false x)) else x) s2
    forAll (List.range 8) (fun e x =>
      if seBusy x r e then setReg (pgRowc r) (seB e + 2) (wd (2 + 4 * 4 + getF (reg x (pgRowc r) (seB e + 2)) 5 6 * 32)) x
      else x) s3) s

end Sys2Proof.Machine
end

