-- ==== Sys2Proof/Machine/Eth.lean ====
section
/-! DEFINITION. The Ethernet MACs below their commands: streams and their FIFOs, enables, transmit selection, gPTP state and
register reads and writes (R339–R350, R353, R364). -/

namespace Sys2Proof.Machine

def strmDflt : Nat → Strm := fun _ => Strm.reset
def macDflt : Nat → Mac := fun _ => Mac.reset

/-- The number of a stream: MAC `m`, talker or listener, stream `i`. -/
def strmNo (m : Nat) (talk : Bool) (i : Nat) : Nat := m * 128 + 64 * b2n talk + i
def strmAt (s : State) (k : Nat) : Strm := Tbl.get strmDflt s.strms k
def setStrm (k : Nat) (x : Strm) (s : State) : State := { s with strms := Tbl.set strmDflt s.strms k x }
def macAt (s : State) (m : Nat) : Mac := Tbl.get macDflt s.macs m
def setMac (m : Nat) (x : Mac) (s : State) : State := { s with macs := Tbl.set macDflt s.macs m x }

/-- The FIFO number of a stream. -/
def strmKey (k : Nat) : Nat := 0x1000 + k

/-- Register offset of a stream's block (R364). -/
def strmB (talk : Bool) (i : Nat) : Nat := (if talk then 0x280 else 0x100) + 6 * i

def strmCfg (s : State) (m : Nat) (talk : Bool) (i : Nat) : Word := reg s (pgEth m) (strmB talk i)
def strmDepth (s : State) (m : Nat) (talk : Bool) (i : Nat) : Nat := 16 * getF (strmCfg s m talk i) 20 7

/-- ETH_POOL.FREE (R347). -/
def ethFree (s : State) (m : Nat) : Nat :=
  8192 - (((List.range 64).map (strmDepth s m false)).foldl (· + ·) 0 +
    ((List.range 64).map (strmDepth s m true)).foldl (· + ·) 0)

/-- Sample width in bits of a FMT code. -/
def fmtBits (f : Nat) : Nat := match f with | 0 => 16 | 1 => 24 | _ => 32

def ethLink (s : State) (m : Nat) : Bool := regB s (pgEth m) 0x011 0

/-- SYNCED or GM of the device's gPTP station (R345). -/
def ptpGood (s : State) : Bool :=
  (List.range 2).any fun m => regB s (pgEth m) 0x019 0 || regB s (pgEth m) 0x019 1

/-- The CRF listener of a MAC has taken a PDU within the last 4 ms (R352, R353). -/
def crfHere (s : State) (m : Nat) : Bool :=
  match (macAt s m).crfAt with
  | some t => decide (s.now < t + 4000)
  | none => false

/-- The reference of the PLL is there, as far as the device's own state tells: of REFIN only its pin does (Table 15-2). -/
def refHere (s : State) : Bool :=
  match regF s pgDev 0x050 0 2 with
  | 2 => ptpGood s
  | 3 => crfHere s (b2n (regB s pgDev 0x050 2))
  | _ => true

/-- How long the reference has been there, brought to the present tick (R351, R352). -/
def refNow (s : State) : State :=
  if refHere s then { s with refSince := some (s.refSince.getD s.now), refLast := s.now } else { s with refSince := none }

/-- RUNNING of a stream (R348). -/
def strmRuns (s : State) (m : Nat) (talk : Bool) (i : Nat) : Bool :=
  bit (strmCfg s m talk i) 0 && ethLink s m && pllLock s && ptpGood s && domUp s domLink

/-- Enabled listeners or talkers of the device. -/
def strmCount (s : State) (talk : Bool) : Nat :=
  ((List.range 2).map fun m => ((List.range 64).filter fun i => bit (strmCfg s m talk i) 0).length).foldl (· + ·) 0

/-- The checks of an enable with configuration `v` (R348). -/
def strmCanEnable (s : State) (talk : Bool) (v : Word) : Bool :=
  decide (0 < getF v 20 7) && decide (1 ≤ getF v 16 4) && decide (getF v 16 4 ≤ 10) && decide (getF v 3 2 ≠ 3) &&
    decide ((getF v 5 5 + 1) * (getF v 10 6 + 1) * (fmtBits (getF v 3 2) / 8) ≤ 1476) &&
    decide (strmCount s talk < 64)

/-- Set a flag of STRM_STAT. -/
def strmFlag (m : Nat) (talk : Bool) (i b : Nat) (s : State) : State :=
  setRegB (pgEth m) (strmB talk i + 5) b true s

/-- The fields of STRM_CFG fixed while EN = 1: all but EN, RND and W (R348). -/
def strmFixed (v : Word) : Nat := getF v 2 25

/-- A write of STRM_CFG (R284, R347, R348). -/
def strmCfgWrite (m : Nat) (talk : Bool) (i : Nat) (v0 : Word) (s : State) : State :=
  let old := strmCfg s m talk i
  let v := keepRnd 27 old (v0 &&& wd 0x3FFFFFFF)
  if bit old 0 ∧ strmFixed v ≠ strmFixed old then strmFlag m talk i 14 s
  else if 64 < getF v 20 7 ∨ ethFree s m + strmDepth s m talk i < 16 * getF v 20 7 then strmFlag m talk i 14 s
  else
    let s1 := setReg (pgEth m) (strmB talk i) (setB v 0 (bit old 0)) s
    if bit v 0 ∧ !bit old 0 then
      (if strmCanEnable s1 talk v then
        let x := strmAt s1 (strmNo m talk i)
        setRegB (pgEth m) (strmB talk i) 0 true
          (setStrm (strmNo m talk i) { x with expect := none, pres := none, sched := [] } s1)
      else strmFlag m talk i 14 s1)
    else setRegB (pgEth m) (strmB talk i) 0 (bit v 0) s1

/-- Add to a 16-bit count of a stream: 0 GAP, 1 LATE, 2 XRUN, 3 SAT. -/
def strmBump (k c n : Nat) (s : State) : State :=
  let x := strmAt s k
  let add (w : Word) (lo : Nat) : Word := setF w lo 16 (satAdd 0xFFFF (getF w lo 16) n)
  setStrm k (match c with
    | 0 => { x with cnt0 := add x.cnt0 0 }
    | 1 => { x with cnt0 := add x.cnt0 16 }
    | 2 => { x with cnt1 := add x.cnt1 0 }
    | _ => { x with cnt1 := add x.cnt1 16 }) s

/-- Gauge source of a stream (QTY 1 of Table 20-1). -/
def strmSrc (m : Nat) (talk : Bool) (i : Nat) : Nat := i + 64 * b2n talk + 128 * m

/-- A frame's words enter a listener FIFO whole, or are discarded (R350). -/
def listenerEnter (m i : Nat) (ws : List Word) (s : State) : State :=
  let k := strmNo m false i
  let q := fifoAt s (strmKey k)
  if q.length + ws.length ≤ strmDepth s m false i then
    forAll ws (fun w x => gaugeTake 1 (strmSrc m false i) (sw w / 256) false x) (setFifo (strmKey k) (q ++ ws) s)
  else strmBump k 2 1 (strmFlag m false i 13 s)

/-- Schedule words for a presentation time, in order of arrival. -/
def schedInsert (l : List (Nat × List Word)) (t : Nat) (ws : List Word) : List (Nat × List Word) :=
  l ++ [(t, ws)]

/-- Narrow one talker word with the stream's rounding and generators (R71, R347). -/
def talkNarrow (m i w : Nat) (x : Word) (s : State) : Int × State :=
  let k := strmNo m true i
  let code := getF (strmCfg s m true i) 27 3
  let t := strmAt s k
  let da := if usesA code then drawA t.dthA else t.dthA
  let db := if usesB code then drawB t.dthB else t.dthB
  let (y, sat) := narrowSample code x w da db
  let s1 := setStrm k { t with dthA := da, dthB := db } s
  (y, if sat then strmBump k 3 1 (strmFlag m true i 12 s1) else s1)

/-- Narrow a frame's words in order. -/
def talkNarrows (m i w : Nat) (xs : List Word) (s : State) : List Int × State :=
  match xs with
  | [] => ([], s)
  | x :: rest =>
    let (y, s1) := talkNarrow m i w x s
    let (ys, s2) := talkNarrows m i w rest s1
    (y :: ys, s2)

/-! ## Transmit selection (R341–R343) -/

/-- Port rate in kb/s. -/
def portRate (s : State) (m : Nat) : Nat :=
  match regF s (pgEth m) 0x010 1 2 with | 0 => 10000000 | 1 => 5000000 | 2 => 2500000 | _ => 1000000

/-- Time on the wire in tenths of ns, exact at the four rates, of a frame with preamble; the inter-frame gap is 12 bytes more. -/
def frameTime (rate len : Nat) : Nat := (len + 8) * 80000000 / rate
def gapTime (rate : Nat) : Nat := 12 * 80000000 / rate

/-- The whole ns that a frame and its gap take. -/
def wireNs (rate len : Nat) : Nat := (frameTime rate len + gapTime rate + 9) / 10

/-- The local time in tenths of ns, `sub` ns and `tenth` into the present tick. -/
def wireAt (s : State) (sub tenth : Nat) : Nat := 10 * (1000 * s.now + sub) + tenth

/-- A class's credit after `dt` tenths of ns, the first `busy` of them spent transmitting the class; `waiting` where a frame of it waits
all the time (R342). -/
def creditStep (cred : Int) (idle rate dt busy : Nat) (waiting : Bool) : Int :=
  let b := min busy dt
  let c1 := cred + (idle : Int) * b - (rate : Int) * b
  let rest := (idle : Int) * (dt - b : Nat)
  if waiting then c1 + rest
  else if c1 < 0 then min 0 (c1 + rest)
  else if dt ≤ b then c1 else 0

/-- The position of the first frame of queue `q`. -/
def firstOf (l : List EFrame) (q : Nat) : Option Nat := findPos (fun f => decide (f.queue = q)) l

/-- Credits brought to the local time `t`; the frames that wait have waited since the last such moment. -/
def macCredits (m t : Nat) (s : State) : State :=
  let x := macAt s m
  let rate := portRate s m
  let dt := t - x.creditAt
  let waits (q : Nat) : Bool := (firstOf x.frames q).isSome
  let busy (q : Nat) : Nat := if x.lastQ = q then x.txEnd - x.creditAt else 0
  let a := creditStep x.credA (regF s (pgEth m) 0x014 0 32) rate dt (busy 2) (waits 2)
  let b := creditStep x.credB (regF s (pgEth m) 0x015 0 32) rate dt (busy 1) (waits 1)
  setMac m { x with credA := a, credB := b, creditAt := max t x.creditAt } s

/-- Queue a frame on a MAC: from the local time `t` on it waits. -/
def macQueueAt (m t : Nat) (f : EFrame) (s0 : State) : State :=
  let s := macCredits m t s0
  let x := macAt s m
  setMac m { x with frames := x.frames ++ [f] } s

/-- Queue a frame on a MAC at the start of the present tick. -/
def macQueue (m : Nat) (f : EFrame) (s : State) : State := macQueueAt m (wireAt s 0 0) f s

/-- IDLE_A, IDLE_B or the port rate changes at the start of the present tick: what the credits have gained by then stands (R342). -/
def macSettle (m : Nat) (s : State) : State := macCredits m (wireAt s 0 0) s

/-- Entry `i` of a gate list: gates and interval. -/
def gclEntry (s : State) (m : Nat) (b : Bool) (i : Nat) : Nat × Nat :=
  let w := reg s (pgEth m) ((if b then 0x080 else 0x040) + i)
  (getF w 0 3, getF w 3 32)

/-- Entries in use of a list. -/
def gclCount (s : State) (m : Nat) (b : Bool) : Nat :=
  max 1 (min 64 (if b then regF s (pgEth m) 0x020 9 7 else regF s (pgEth m) 0x020 2 7))

/-- CYCLE, and BASE in ns. -/
def gclCycle (s : State) (m : Nat) : Nat := regF s (pgEth m) 0x021 0 30
def gclBase (s : State) (m : Nat) : Nat := reg s (pgEth m) 0x022 |>.toNat |> (· * 1000000000 + (reg s (pgEth m) 0x023).toNat)

/-- Gate `j` stays open for more than `need` ns from entry `i` of list `b` on, `left` ns of the cycle and `into` ns of the entry
spent; the last entry holds to the cycle's end, and the next cycle begins, with `swap` on the other list (R343). -/
def gateStays (s : State) (m j : Nat) (swap : Bool) (fuel : Nat) (b : Bool) (i into left need : Nat) : Bool :=
  match fuel with
  | 0 => false
  | f + 1 =>
    let (g, iv) := gclEntry s m b i
    let span := if gclCount s m b ≤ i + 1 then left else min left (iv - into)
    if g / 2 ^ j % 2 = 0 then false
    else if need < span then true
    else if left ≤ span then gateStays s m j false f (b != swap) 0 0 (gclCycle s m) (need - span)
    else gateStays s m j swap f b (i + 1) 0 (left - span) (need - span)

/-- A CYCLE in its range (R340). -/
def gclCycleOk (s : State) (m : Nat) : Bool := decide (1000 ≤ gclCycle s m) && decide (gclCycle s m ≤ 1000000000)

/-- The first cycle start after gPTP time `t`. -/
def gclNext (s : State) (m t : Nat) : Nat :=
  if t < gclBase s m then gclBase s m else gclBase s m + ((t - gclBase s m) / gclCycle s m + 1) * gclCycle s m

/-- A frame of queue `q` that with its gap takes `dur` ns may start at gPTP time `t` (R343). A cycle has at most 64 entries, which
bounds those that `dur` ns can meet; before the first cycle the gates stand until it starts. -/
def gateOk (s : State) (m q dur t : Nat) : Bool :=
  let x := macAt s m
  let two := regB s (pgEth m) 0x020 1
  let fuel := 64 * (dur / gclCycle s m + 3)
  if q = 3 ∨ !regB s (pgEth m) 0x020 0 then true
  else
    decide (x.gates / 2 ^ q % 2 = 1) &&
      match x.cycle with
      | none =>
        !gclCycleOk s m || decide (dur < gclNext s m t - t) ||
          gateStays s m q false fuel (two != x.swap.isSome) 0 0 (gclCycle s m) (dur - (gclNext s m t - t))
      | some c => gateStays s m q x.swap.isSome fuel two x.entry (t - x.entAt) (c + gclCycle s m - t) dur

/-- The frame the MAC takes next: the highest queue with an eligible frame (R341–R343). -/
def macPick (s : State) (m t : Nat) : Option (Nat × EFrame) :=
  let x := macAt s m
  let rate := portRate s m
  let try' (q : Nat) (creditOk : Bool) : Option (Nat × EFrame) :=
    match firstOf x.frames q with
    | some k =>
      match x.frames[k]? with
      | some f => if creditOk && gateOk s m q (wireNs rate f.len) t then some (k, f) else none
      | none => none
    | none => none
  match try' 3 true with
  | some r => some r
  | none => match try' 2 (decide (0 ≤ x.credA)) with
    | some r => some r
    | none => match try' 1 (decide (0 ≤ x.credB)) with
      | some r => some r
      | none => try' 0 true

/-! ## gPTP (R345) -/

/-- The MAC of the device's gPTP station: the one with EN = 1, and where none has it `m` itself. -/
def ptpMac (s : State) (m : Nat) : Nat :=
  if regB s (pgEth m) 0x018 0 then m else if regB s (pgEth (1 - m)) 0x018 0 then 1 - m else m

/-- gPTP time in ns, `sub` ns into the present tick: the device has one, whichever MAC uses it (R345, R349). -/
def ptpNow (s : State) (m sub : Nat) : Nat := (macAt s (ptpMac s m)).ptp + sub

/-- The ns by which a tick advances the time of MAC `m`: a grandmaster's by REFIN while it is the PLL's reference, else by the
AON oscillator (R345). -/
def ptpStep (s : State) (m : Nat) : Nat :=
  if regB s (pgEth m) 0x019 1 ∧ regF s pgDev 0x050 0 2 = 1 then Config.refinStep s.now else 1000

/-- SYNCED: slave, and the last eight sync offsets within ±1 µs. -/
def syncedNow (offs : List Int) (gm : Bool) : Bool :=
  !gm && decide (8 ≤ offs.length) && (offs.take 8).all fun o => decide (-1000 ≤ o) && decide (o ≤ 1000)

/-- Write SYNCED and GM. -/
def ptpStatus (m : Nat) (gm : Bool) (s : State) : State :=
  setRegB (pgEth m) 0x019 1 gm (setRegB (pgEth m) 0x019 0 (syncedNow (macAt s m).offs gm) s)

/-- A read of ETH_PTP_TIME_NS latches the seconds. -/
def ptpRead (m sub : Nat) (s : State) : Word × State :=
  let t := ptpNow s m sub
  (wd (t % 1000000000), setReg (pgEth m) 0x01B (wd (t / 1000000000)) s)

/-! ## Register access -/

/-- A write of ETH_PTP_CFG (R345). -/
def ptpCfgWrite (m : Nat) (v : Word) (s : State) : State :=
  if bit v 0 ∧ !regB s (pgEth m) 0x018 0 ∧ regB s (pgEth (1 - m)) 0x018 0 then setRegB (pgEth m) 0x011 1 true s
  else
    let s1 := setReg (pgEth m) 0x018 (v &&& wd 0xFFF) s
    if bit v 0 then s1
    else setReg (pgEth m) 0x019 0 (setMac m { macAt s1 m with
      offs := [], master := none, syncWait := false, syncAt := none, annAt := none } s1)

/-- A write of ETH_QAVA or ETH_QAVB (R342). -/
def qavWrite (m : Nat) (b : Bool) (v : Word) (s : State) : State :=
  let other := regF s (pgEth m) (if b then 0x014 else 0x015) 0 32
  if 3 * portRate s m < 4 * (getF v 0 32 + other) then setRegB (pgEth m) 0x011 1 true s
  else setReg (pgEth m) (if b then 0x015 else 0x014) (wd (getF v 0 32)) (macSettle m s)

/-- A write of ETH_CFG, whose SPEED gives the port rate that R342 bounds the slopes by. -/
def ethCfgWrite (m : Nat) (v : Word) (s : State) : State :=
  let s1 := setReg (pgEth m) 0x010 (writeBySpec (ethSpec 0x010) (reg s (pgEth m) 0x010) v) (macSettle m s)
  if 3 * portRate s1 m < 4 * (regF s (pgEth m) 0x014 0 32 + regF s (pgEth m) 0x015 0 32) then setRegB (pgEth m) 0x011 1 true s
  else s1

/-- The operative list, CYCLE and BASE are held while gates run (R343). -/
def gclHeld (s : State) (m off : Nat) : Bool :=
  regB s (pgEth m) 0x020 0 &&
    (decide (0x021 ≤ off) && decide (off ≤ 0x023) ||
      (if regB s (pgEth m) 0x020 1 then decide (0x080 ≤ off) && decide (off ≤ 0x0BF)
       else decide (0x040 ≤ off) && decide (off ≤ 0x07F)))

/-- The fewest ticks that `n` sample instants at the base frequency of FAM in `c` span, of an AON clock that may run 0.5 % slow
(R353, R401). -/
def crfTicks (c : Word) (n : Nat) : Nat := if bit c 2 then n * 10000 * 995 / 441000 else n * 125 * 995 / 6000

/-- A write of ETH_CRF_CFG; TSI = 0 is ignored. A talker's events begin again, the first of them at any sample instant (R353). -/
def crfCfgWrite (m : Nat) (v : Word) (s : State) : State :=
  if getF v 3 16 = 0 then s
  else setReg (pgEth m) 0x0C8 (v &&& wd 0x7FFFF) (setMac m { macAt s m with crfDue := s.now + crfTicks v (5 * getF v 3 16) } s)

/-- The selected stream's number. -/
def sselNo (s : State) (m : Nat) : Nat :=
  strmNo m (regB s (pgEth m) 0x0C1 6) (regF s (pgEth m) 0x0C1 0 6)

/-- A write to an ETH register (R342–R348, R364). -/
def ethWrite (m off : Nat) (v : Word) (s : State) : State :=
  let k := sselNo s m
  if 0x100 ≤ off ∧ off ≤ 0x3FF ∧ (off - 0x100) % 6 = 0 then
    let n := (off - 0x100) / 6
    strmCfgWrite m (decide (64 ≤ n)) (n % 64) v s
  else if gclHeld s m off then s
  else match off with
  | 0x010 => ethCfgWrite m v s
  | 0x014 => qavWrite m false v s
  | 0x015 => qavWrite m true v s
  | 0x018 => ptpCfgWrite m v s
  | 0x020 =>
    let s1 := setReg (pgEth m) off (writeBySpec (ethSpec off) (reg s (pgEth m) off) v) s
    if bit v 0 then s1 else setMac m { macAt s1 m with gates := 7, entry := 0, cycle := none } s1
  | 0x024 => if bit v 39 then setMac m { macAt s m with swap := some ((macAt s m).swap.getD (ptpNow s m 0)) } s else s
  | 0x0C2 => if bit v 39 then setStrm k { strmAt s k with cnt0 := 0, cnt1 := 0 } s else s
  | 0x0C4 => setStrm k { strmAt s k with dthA := if getF v 0 32 = 0 then 0x12345679 else getF v 0 32 } s
  | 0x0C5 => setStrm k { strmAt s k with dthB := if getF v 0 32 = 0 then 0x87654321 else getF v 0 32 } s
  | 0x0C8 => crfCfgWrite m v s
  | _ => setReg (pgEth m) off (writeBySpec (ethSpec off) (reg s (pgEth m) off) v) s

/-- What an ETH register reads, the time registers apart. -/
def ethRead (s : State) (m off : Nat) : Word :=
  let k := sselNo s m
  if 0x100 ≤ off ∧ off ≤ 0x3FF ∧ (off - 0x100) % 6 = 5 then
    let n := (off - 0x100) / 6
    let talk := decide (64 ≤ n)
    setF (setB (reg s (pgEth m) off) 11 (strmRuns s m talk (n % 64))) 0 11
      (fifoAt s (strmKey (strmNo m talk (n % 64)))).length
  else match off with
  | 0x0C0 => wd (ethFree s m)
  | 0x0C2 => (strmAt s k).cnt0
  | 0x0C3 => (strmAt s k).cnt1
  | 0x0C4 => wd (strmAt s k).dthA
  | 0x0C5 => wd (strmAt s k).dthB
  | _ => reg s (pgEth m) off

end Sys2Proof.Machine
end

