-- ==== Sys2Proof/Machine/Trch.lean ====
section
/-! DEFINITION. Trellis channels below their commands: states and requests, command addresses, status halves, errors, the
journal, and the registers of the TREL and TRCH pages (R201–R232, R245–R250). -/

namespace Sys2Proof.Machine

def chanDflt : Nat → Chan := fun _ => Chan.reset

/-- Channel `c` beside its registers. -/
def chanAt (s : State) (c : Nat) : Chan := Tbl.get chanDflt s.chans c
def setChan (c : Nat) (x : Chan) (s : State) : State := { s with chans := Tbl.set chanDflt s.chans c x }
def modChan (c : Nat) (f : Chan → Chan) (s : State) : State := setChan c (f (chanAt s c)) s

/-! ## Registers of a channel (Tables 9-14, 9-15) -/

/-- Register `k` of a channel's block. -/
def chR (s : State) (c k : Nat) : Word := reg s (pgTrch c) (chBase c + k)
def setChR (c k : Nat) (v : Word) (s : State) : State := setReg (pgTrch c) (chBase c + k) v s
def chF (s : State) (c k lo len : Nat) : Nat := getF (chR s c k) lo len
def setChF (c k lo len v : Nat) (s : State) : State := setRegF (pgTrch c) (chBase c + k) lo len v s

/-- STATE (Table 9-11): 0 IDLE, 1 RUN, 2 WAITING, 3 SUSPENDED, 4 STOPPING, 5 DRAINING. -/
def chState (s : State) (c : Nat) : Nat := chF s c 1 0 3
def setChState (c v : Nat) (s : State) : State := setChF c 1 0 3 v s

/-- Flags of TRCH_STAT. -/
def setStat (c b : Nat) (v : Bool) (s : State) : State := setRegB (pgTrch c) (chBase c + 1) b v s

def chRing (s : State) (c : Nat) : Bool := bit (chR s c 2) 0
def chWalled (s : State) (c : Nat) : Bool := bit (chR s c 3) 0
def chCpc (s : State) (c : Nat) : Nat := chF s c 5 0 32
def setCpc (c v : Nat) (s : State) : State := setChR c 5 (wd (v % 2 ^ 32)) s
def sigCnt (s : State) (c : Nat) : Nat := chF s c 1 22 8
def ringSize (s : State) (c : Nat) : Nat := chF s c 6 0 16
def ringPi (s : State) (c : Nat) : Nat := chF s c 7 0 16
def ringCi (s : State) (c : Nat) : Nat := chF s c 8 0 16
def chLd (s : State) (c : Nat) : Nat := chF s c 1 6 3

/-! ## Command addresses (R204, R207) -/

/-- The address after `a` in the walk. -/
def walkNext (hole : Bool) (a : Nat) : Nat := (if hole ∧ a % 16 = 10 then a + 6 else a + 2) % 2 ^ 32

/-- The i-th address of the walk from `a`. -/
def walkAt (hole : Bool) (a i : Nat) : Nat :=
  -- from bits [3:0] of 12 or more the walk reaches the next line in `k` plain steps
  let k := if a % 16 < 12 then 0 else (17 - a % 16) / 2
  if !hole ∨ i < k then (a + 2 * i) % 2 ^ 32
  else
    let b := a + 2 * k
    let j := b % 16 / 2 + (i - k)
    (b / 16 * 16 + j / 6 * 16 + j % 6 * 2 + b % 2) % 2 ^ 32

/-- An address at which a command may lie. -/
def slotOk (hole : Bool) (a : Nat) : Bool := decide (a % 2 = 0) && (!hole || decide (a % 16 < 12))

/-- CMD12 of a channel. -/
def cmd12 (s : State) (c : Nat) : Bool := bit (chR s c 2) 1

/-- The address of ring slot `i`: a write of TRCH_START affects only the next START (R227). -/
def ringSlot (s : State) (c i : Nat) : Nat := walkAt (cmd12 s c) (chanAt s c).base i

/-! ## The place of a MOVE (R234–R239, R245, R249) -/

/-- Word `k` of a descriptor side: 0 source, 3 destination. -/
def descW (m : Move) (side k : Nat) : Word := (m.desc[side + k]?).getD 0

/-- Width in bits of a WIDTH code (Table 10-1). -/
def widthBits (code : Nat) : Nat :=
  match code with
  | 0 => 8 | 1 => 16 | 2 => 20 | 3 => 24 | 4 => 32 | _ => 40

def sideSpace (m : Move) (side : Nat) : Nat := getF (descW m side 0) 32 2
def sideW (m : Move) (side : Nat) : Nat := widthBits (getF (descW m side 0) 34 3)
def sidePack (m : Move) (side : Nat) : Bool := bit (descW m side 0) 37
def sideLlen (m : Move) (side : Nat) : Nat := getF (descW m side 1) 20 16
def sideLines (m : Move) (side : Nat) : Nat := getF (descW m side 2) 24 16

/-- RESHUF = TRANS8. -/
def isTrans (m : Move) : Bool := bit (descW m 6 0) 10

/-- Source elements converted: a TRANS8 group counts with its last bit plane (R239). -/
def srcDone (m : Move) : Nat := if isTrans m then 8 * (m.made / sideW m 0) else m.made

/-- Source bits taken in since the start, the unused bits of packed lines left out. -/
def srcBits (m : Move) : Nat := srcDone m * sideW m 0 + m.sbits

/-- Source elements complete: every bit written or held (R245). -/
def srcK (m : Move) : Nat := srcBits m / sideW m 0

/-- Line and place of the next source read (Table 10-5). -/
def srcPos (m : Move) : Nat × Nat :=
  if sidePack m 0 then
    let line := sideLlen m 0 * sideW m 0
    (srcBits m / line, srcBits m % line / 40)
  else (srcK m / sideLlen m 0, srcK m % sideLlen m 0)

/-- The contents of the holding register from bit 0 (R249). -/
def holdBits (m : Move) : Nat :=
  let ws := m.words.foldr (fun (w : Word) acc => w.toNat + 2 ^ 40 * acc) 0
  ws + 2 ^ (40 * m.words.length) * (m.dval + 2 ^ m.dbits * m.sval)

/-- Destination elements of a MOVE: N_s, or its bit planes (R235, R239). -/
def srcCount (m : Move) : Nat := sideLlen m 0 * sideLines m 0
def dstCount (m : Move) : Nat := if isTrans m then srcCount m * sideW m 0 / 8 else srcCount m

/-- Every element is made and every word written or issued. -/
def moveOver (m : Move) : Bool := decide (dstCount m ≤ m.made) && m.words.isEmpty

/-- HWORDS and DBITS of `n` held words and `d` bits of the next: the record shows the first 160 bits, four words (Table 10-5,
assumption 152). -/
def holdShown (n d : Nat) : Nat × Nat := (min 4 n, min d (160 - 40 * min 4 n))

/-- The journal record of MOVE number `mv` (R245, R248). -/
def moveJournal (cmd mv : Nat) (m : Move) (flt : Bool) (fside fcause fsub faddr : Nat) : Journal :=
  { mv := mv, cmd := cmd, valid := true, flt := flt, k := srcK m, replays := m.replays, srcEl := (srcPos m).2, srcLine := (srcPos m).1,
    dstEl := m.dstEl, dstLine := m.dstLine, hold := holdBits m % 2 ^ 160,
    hfill := min 160 (40 * m.words.length + m.dbits + m.sbits), fside := fside, fcause := fcause, fsub := fsub,
    hwords := (holdShown m.words.length m.dbits).1, dbits := (holdShown m.words.length m.dbits).2, cmdacc := false, faddr := faddr }

/-- Element writes that an error holds, oldest first (R245). -/
def heldWrites (x : Chan) (kind mv : Nat) : List ChWrite :=
  x.outst.filter fun w => decide (w.kind = kind) && decide (w.mv = mv) && decide (w.held = 2)

/-- The whole words of a write. -/
def runWords (d : StoreData) : List Word := (dataWords d).map (·.2)

/-- A MOVE with the words that its failed writes hold before those it still has (R245). -/
def moveHolding (x : Chan) (m : Move) : Move :=
  match heldWrites x 0 x.mv with
  | w :: rest => { m with words := ((w :: rest).map fun v => runWords v.data).flatten ++ m.words, dstEl := w.el, dstLine := w.line }
  | [] => m

/-- The record of a MOVE that is over when one of its writes cannot be performed: with every word that is held (R245). -/
def lateJournal (x : Chan) (w : ChWrite) (cause sub : Nat) : Journal :=
  let j := match x.ended.find? fun e => decide (e.mv = w.mv) with
    | some e => e.journal
    | none => x.journal
  let hs := heldWrites x 4 w.mv
  let ws := (hs.map fun v => runWords v.data).flatten
  let f := hs.headD w
  { j with
    flt := true, fside := 1, fcause := cause, fsub := sub, faddr := w.va
    hold := (ws.foldr (fun (d : Word) acc => d.toNat + 2 ^ 40 * acc) 0) % 2 ^ 160
    hfill := min 160 (40 * ws.length), hwords := (holdShown ws.length 0).1, dbits := 0, dstEl := f.el, dstLine := f.line }

/-! ## Between commands (R207, R218, R225) -/

/-- The channel's chain reads under way are discarded (R226, R245). -/
def chForget (c : Nat) (s : State) : State :=
  { s with
    chainTags := s.chainTags.filter fun e => decide (e.2.1 ≠ 0x100 + c)
    chainBack := s.chainBack.filter fun e => decide (e.1 ≠ 0x100 + c) }

def setPhase (c : Nat) (p : ChPhase) (s : State) : State := modChan c (fun x => { x with phase := p }) s

/-- Nothing of the channel is withheld at a mailbox any more (R23). -/
def unhold (c : Nat) (s : State) : State :=
  { s with withheld := s.withheld.filter fun e => decide (e.1 ≠ .chan (Fin.ofNat 128 c)) }

/-- The record of a MOVE as it now stands, with the words that failed writes hold; an error that it holds stays in it (R245, R247,
R248). -/
def journalKeep (cmd : Nat) (x : Chan) (m0 : Move) : Journal :=
  let j := x.journal
  let m := moveHolding x m0
  if j.mv = x.mv ∧ (j.flt ∨ m.bad) then moveJournal cmd x.mv m j.flt j.fside j.fcause j.fsub j.faddr
  else moveJournal cmd x.mv m false 0 0 0 0

/-- Suspend a channel in RUN or WAITING: the journal of a MOVE is written, and what it withholds at a full mailbox goes back to
its holding register (R224, R225, R248, R485). -/
def chSuspend (c cause : Nat) (s : State) : State :=
  let was := chState s c
  let cpc := chCpc s c
  let s1 := chForget c (unhold c s)
  modChan c (fun x => { x with
    prev := was
    errStop := false
    resuming := false
    journal := match x.phase with
      | .move m => journalKeep cpc x m
      | _ => x.journal }) (setStat c 10 false (setChF c 1 0 6 (3 + 8 * cause) s1))

/-- Ring mode, in RUN or WAITING: consume passed-over entries, and wait on an empty ring or go on (R207, R218, R224). -/
def ringSettle (c : Nat) (s : State) : State :=
  if !chRing s c ∨ (chanAt s c).phase ≠ .next ∨ (chState s c ≠ 1 ∧ chState s c ≠ 2) then s
  else
    let n := max 1 (ringSize s c)
    let have' := (ringPi s c + n - ringCi s c) % n
    let k := min have' (chanAt s c).skip
    let ci := (ringCi s c + k) % n
    let s1 := setCpc c (ringSlot s c ci) (setChR c 8 (wd ci) (modChan c (fun x => { x with skip := x.skip - k }) s))
    if ci = ringPi s c then
      (if chState s c = 1 then setChF c 1 30 4 15 (setChState c 2 s1) else s1)
    else if chState s c = 2 then setChF c 1 30 4 0 (setChState c 1 s1) else s1

/-- A command boundary: a pending suspend takes effect (R225). -/
def chBoundary (c : Nat) (s : State) : State :=
  if bit (chR s c 1) 10 ∧ (chState s c = 1 ∨ chState s c = 2) then chSuspend c (chanAt s c).suspCause s else s

/-- The current command is finished: CPC, or CI in ring mode, moves on (R206, R207); while DRAINING, CPC keeps the address of the
stopped command (R226). -/
def chFinish (c : Nat) (s : State) : State :=
  let x := chanAt s c
  let s1 := setChan c { x with phase := .next, tries := 0, retry := false, replays := 0, bar := bit x.w0 5 } s
  let drain := decide (chState s c = 5)
  if chRing s c then
    let n := max 1 (ringSize s c)
    let ci := (ringCi s c + 1) % n
    let s2 := setChR c 8 (wd ci) s1
    if drain then s2 else chBoundary c (ringSettle c (setCpc c (ringSlot s c ci) s2))
  else if drain then s1
  else chBoundary c (setCpc c x.nextPc s1)

/-! ## Errors (R211, R212, R245, R248, R486) -/

/-- A program error (R211). -/
def progErr (c code : Nat) (s : State) : State :=
  let s1 := setChF c 1 17 5 code (chSuspend c 5 s)
  pageIrq pgTrel 0 (modChan c (fun x => { x with phase := .next, tries := 0, retry := false }) s1)

/-- (A SUSPEND SELF whose status half fails still suspends once that half is written: R219, R486.)
An error suspends the channel and is reported once to its owner (R245). -/
def chError (c : Nat) (j : Journal) (s : State) : State :=
  let self := bit (chR s c 1) 10 && decide ((chanAt s c).suspCause = 1) &&
    (match (chanAt s c).phase with | .status _ _ => true | _ => false)
  let s1 := if chState s c = 1 ∨ chState s c = 2 then setStat c 10 self (chSuspend c 4 s)
    else modChan c (fun x => { x with errStop := decide (chState s c = 4) }) s
  pageIrq pgTrel (if chWalled s c then 4 else 3)
    (modChan c (fun x => { x with journal := j, retry := false, tries := 0 }) s1)

/-- The record of a failed command access (R248). -/
def accJournal (cmd : Nat) (cmdacc : Bool) (cause sub addr : Nat) : Journal :=
  { Journal.reset with cmd := cmd, valid := true, flt := true, fside := 3, cmdacc := cmdacc, fcause := cause,
                       fsub := sub, faddr := addr }

/-- An operand, POST or status-half access fails (R486). -/
def accError (c cause sub addr : Nat) (s : State) : State := chError c (accJournal (chCpc s c) true cause sub addr) s

/-- An access of the current command succeeds: FLT of its record clears where a RESUME let it go on (R247, R248), and its attempts
end. -/
def fltClear (c : Nat) (s : State) : State :=
  let cpc := chCpc s c
  modChan c (fun x =>
    let mine := x.resuming && decide (x.journal.cmd = cpc)
    { x with
      journal := if mine then { x.journal with flt := false } else x.journal
      resuming := x.resuming && !mine, tries := 0, retry := false }) s

/-- The marks of a BAD command (R212). -/
def badMark (c : Nat) (s : State) : State :=
  let s1 := setStat c 12 true (setStat c 13 true s)
  pageIrq pgTrel 1 (bumpF (pgTrch c) (chBase c + 0xF) 0 16 1 s1)

/-- A channel's accesses are urgent: URGENT as its current command found it, and channel 127 always (R203, R228). -/
def chUrgent (s : State) (c : Nat) : Bool := decide (c = 127) || bit (chanAt s c).cfg 4

/-- A write of a channel's current command that sets out: its address is the one a direct access would have (R27). -/
def chWriteNew (s : State) (c kind va pa el line : Nat) (data : StoreData) : ChWrite :=
  { kind := kind, mv := (chanAt s c).mv, va := va, pa := ownPa s pa, el := el, line := line, data := data, tries := 0, held := 0,
    resumed := false, rmax := getF (chanAt s c).cfg 5 8, cls := b2n (chUrgent s c) }

/-- Put a write among the channel's outstanding ones. -/
def chIssue (c : Nat) (w : ChWrite) (s : State) : State := modChan c (fun x => { x with outst := x.outst ++ [w] }) s

/-- The data of a status half (Table 9-3). -/
def statusHalf (st cause replays : Nat) : StoreData := .half true (BitVec.ofNat 20 (st + 4 * cause + 2 ^ 8 * replays))

/-- Issue the status half of the current command (R209, R486). -/
def statusIssue (c st cause : Nat) (s : State) : State :=
  let va := (chCpc s c + 1) % 2 ^ 32
  match chanXlat c va { store := true, half := true } false s with
  | (.pa a, s1) =>
    modChan c (fun x => { x with phase := .stated })
      (chIssue c (chWriteNew s1 c 2 va a 0 0 (statusHalf st cause (chanAt s c).replays)) s1)
  | (.fault cs sb _, s1) => accError c cs sb va (modChan c (fun x => { x with phase := .status st cause }) s1)

/-- The current command completes as not BAD, with ST `st` if a status half is due (R209). -/
def chDone (c st : Nat) (s : State) : State :=
  let s1 := setStat c 12 false s
  if bit (chanAt s c).w0 6 ∨ st = 3 then statusIssue c st 0 s1 else chFinish c s1

/-- The current command is marked BAD (R212). -/
def chBad (c cause : Nat) (s : State) : State := statusIssue c 2 cause (badMark c s)

/-- A memory fault or an uncorrectable error on a side (R245). -/
def moveError (c side cause sub va : Nat) (m : Move) (s : State) : State :=
  let x := chanAt s c
  chError c (moveJournal (chCpc s c) x.mv (moveHolding x m) true side cause sub va) (setPhase c (.move m) s)

/-- A memory fault or an uncorrectable error on a write of a channel that stays held for a RESUME: of the MOVE under way, of a MOVE
that is over, or the status half of a command that is over (R245, R486). -/
def heldError (c cause sub : Nat) (w : ChWrite) (s : State) : State :=
  match w.kind, (chanAt s c).phase with
  | 0, .move m => moveError c 1 cause sub w.va m s
  | 4, _ => chError c (lateJournal (chanAt s c) w cause sub) s
  | _, _ => chError c (accJournal ((w.va + 2 ^ 32 - 1) % 2 ^ 32) true cause sub w.va) s

/-! ## The end of a MOVE (R210, R226, R246) -/

/-- A MOVE leaves the channel: nothing of it is withheld, its record has its replays, and its element writes become those of a MOVE
that is over; `bad`, a BAD status half is due after them; `told`, its marks of a BAD command have been made. -/
def moveLeave (c : Nat) (bad told : Bool) (s : State) : State :=
  modChan c (fun x =>
    let j := match x.phase with
      | .move m => if x.journal.mv = x.mv then { x.journal with replays := m.replays } else x.journal
      | _ => x.journal
    { x with
      journal := j
      outst := x.outst.map fun w => if w.kind = 0 then { w with kind := 4 } else w
      ended := if x.outst.any (fun w => decide (w.kind = 0)) then
          x.ended ++ [{ mv := x.mv, journal := j, replays := x.replays, bad := bad, told := told }]
        else x.ended }) (unhold c s)

/-- A MOVE ends in RUN: BAD once all its writes have their outcomes (R246); else with its last element, after the outcome of
every write where BAR = 1, and with writes outstanding where BAR = 0 (R210, assumption 113). -/
def moveEnd (c : Nat) (s : State) : State :=
  match (chanAt s c).phase with
  | .move m =>
    let open' := (chanAt s c).outst.any fun x => decide (x.kind = 0)
    if chState s c ≠ 1 then s
    else if m.bad then (if open' then s else chBad c 1 (moveLeave c true true s))
    else if !moveOver m ∨ (open' ∧ bit (chanAt s c).w0 5) then s
    else chDone c 1 (moveLeave c false false s)
  | _ => s

/-- A BAD command that is not the current one any more: counted and reported (R212, R246). -/
def lateMark (c : Nat) (s : State) : State :=
  pageIrq pgTrel 1 (bumpF (pgTrch c) (chBase c + 0xF) 0 16 1 (setStat c 13 true s))

/-- The status half of a command that is over. One that a memory fault stops is held for a RESUME, as the write of R486 that it is;
after the commit of a STOP it is dropped. -/
def lateStatus (c cmd st cause replays : Nat) (s : State) : State :=
  let va := (cmd + 1) % 2 ^ 32
  let half (s : State) (a : Nat) : ChWrite := chWriteNew s c 5 va a 0 0 (statusHalf st cause replays)
  match chanXlat c va { store := true, half := true } false s with
  | (.pa a, s1) => chIssue c (half s1 a) s1
  | (.fault cs sb _, s1) =>
    let w := { half s1 0 with held := 2 }
    heldError c cs sb w (if chState s c = 5 then s1 else chIssue c w s1)

/-- The last write of a MOVE that is over has its outcome: a BAD one gets its status half (R246). -/
def tailEnd (c mv : Nat) (s : State) : State :=
  let x := chanAt s c
  if x.outst.any fun w => decide (w.kind = 4) && decide (w.mv = mv) then s
  else
    let s1 := modChan c (fun x => { x with ended := x.ended.filter fun e => decide (e.mv ≠ mv) }) s
    match x.ended.find? fun e => decide (e.mv = mv) with
    | some e => if e.bad then lateStatus c e.journal.cmd 2 1 e.replays s1 else s1
    | none => s1

/-! ## Requests (R219, R225–R228) -/

/-- A START may run (R227). -/
def startOk (s : State) (c : Nat) : Bool :=
  if chRing s c then decide (2 ≤ ringSize s c) else slotOk (cmd12 s c) (chF s c 4 0 32)

/-- An accepted START (R227). -/
def chStart (c : Nat) (s : State) : State :=
  let st := chR s c 1
  let st1 := setF (setF (setF (setF st 0 9 1) 9 4 0) 17 5 0) 30 4 0
  let s1 := setChR c 1 st1 s
  let s2 := modChan c (fun x => { x with
    phase := .next, base := chF s c 4 0 32, bar := false, skip := 0, tries := 0, retry := false, replays := 0
    errStop := false, resuming := false }) s1
  if chRing s c then ringSettle c (setCpc c (ringSlot s c (ringCi s c)) s2)
  else setCpc c (chF s c 4 0 32) s2

/-- START on an idle channel. -/
def tryStart (c : Nat) (s : State) : State := if startOk s c then chStart c s else setStat c 14 true s

/-- The channel is in RUN or WAITING again: what waited for that goes on. -/
def chGoOn (c : Nat) (s : State) : State :=
  match (chanAt s c).phase with
  | .status st cause => statusIssue c st cause s
  | .move _ => moveEnd c s
  | _ => ringSettle c s

/-- A START request (Table 9-12); one that cancels a STOP finds an error that struck meanwhile (R245). -/
def reqStart (c : Nat) (s : State) : State :=
  match chState s c with
  | 0 => tryStart c s
  | 4 =>
    let s1 := setChState c (chanAt s c).prev s
    if (chanAt s c).errStop then chSuspend c 4 s1 else chGoOn c s1
  | 5 => setStat c 9 true s
  | _ => setStat c 14 true s

/-- A unit FIFO or stream FIFO that a MOVE side of SPACE 1 or 2 reads or fills: its words and its depth. -/
def sideFifo (s : State) (w : Word) (src : Bool) : Nat × Nat :=
  if getF w 32 2 = 1 then
    let r := getF w 0 2
    let u := getF w 2 8
    (unitKey r u, if u < 128 then cDepth s r u else hDepth s r (u - 128))
  else
    let m := getF w 0 1
    let i := getF w 1 6
    (strmKey (strmNo m (!src) i), strmDepth s m (!src) i)

/-- A MOVE element is held at an empty or full FIFO or at a full mailbox (R238, R485). -/
def moveHeld (s : State) (c : Nat) : Bool :=
  match (chanAt s c).phase with
  | .move m =>
    let src := (m.desc[0]?).getD 0
    let dst := (m.desc[3]?).getD 0
    (s.withheld.any fun e => decide (e.1 = .chan (Fin.ofNat 128 c))) ||
      (decide (getF src 32 2 ≠ 0) && m.words.isEmpty && (fifoAt s (sideFifo s src true).1).isEmpty) ||
      (decide (getF dst 32 2 ≠ 0) &&
        decide ((sideFifo s dst false).2 ≤ (fifoAt s (sideFifo s dst false).1).length))
  | _ => false

/-- The MOVE under way has met a persistent bus error (R246). -/
def moveBad (x : Chan) : Bool := match x.phase with | .move m => m.bad | _ => false

/-- A status half that an error does not hold and that is still to be written (R212, R486). -/
def statusDue (s : State) (c : Nat) : Option (Nat × Nat) :=
  let x := chanAt s c
  match x.phase with
  | .status st cause =>
    if x.journal.flt && x.journal.cmdacc && decide (x.journal.cmd = chCpc s c) then none else some (st, cause)
  | .move m => if m.bad && !(x.outst.any fun w => decide (w.kind = 0) && decide (w.held ≠ 2)) then some (2, 1) else none
  | _ => none

/-- What the commit of a STOP does to the command that it ends: one that is BAD is marked so, and a status half that is due is
written (R212, R246). -/
def stopMarks (c : Nat) (bad : Bool) (due : Option (Nat × Nat)) (replays : Nat) (s : State) : State :=
  let s1 := if bad then badMark c s else s
  match due with
  | some (st, cause) => lateStatus c (chCpc s c) st cause replays s1
  | none => s1

/-- A STOP commits: no element of the channel has a read outstanding (R226). -/
def stopCommit (c : Nat) (s : State) : State :=
  let keep := match (chanAt s c).phase with | .posted | .stated => true | _ => false
  let bad := moveBad (chanAt s c)
  let s0 := chForget c (modChan c (fun x => { x with outst := x.outst.filter fun w => decide (w.held ≠ 2) }) s)
  let s2 := moveLeave c bad bad s0
  let s3 := modChan c (fun x => { x with
    phase := if keep then x.phase else .next
    skip := if keep then x.skip else 0
    ended := x.ended.filter fun e => x.outst.any fun w => decide (w.kind = 4) && decide (w.mv = e.mv)
    retry := false, tries := 0, errStop := false, resuming := false }) s2
  let s4 := setChF c 1 30 4 0 (setChF c 1 0 6 5 (setStat c 10 false s3))
  stopMarks c bad (statusDue s c) (chanAt s c).replays s4

/-- A STOP request (Table 9-12, R226). -/
def reqStop (c : Nat) (s : State) : State :=
  match chState s c with
  | 1 =>
    let held := match (chanAt s c).phase with | .push _ _ | .post _ _ _ => true | _ => moveHeld s c
    if held then stopCommit c s else setChState c 4 (modChan c (fun x => { x with prev := 1 }) s)
  | 2 => stopCommit c s
  | 3 => stopCommit c s
  | _ => s

/-- A SUSPEND request (Table 9-12): at once at a boundary, in a WAIT or a hold; else pending. -/
def reqSuspend (c cause : Nat) (s : State) : State :=
  let x := chanAt s c
  match chState s c with
  | 1 =>
    let now := match x.phase with
      | .next => !x.retry
      | .move _ => !x.retry
      | .push _ _ | .post _ _ _ => true
      | _ => false
    if now then chSuspend c cause s
    else setStat c 10 true (setChan c { x with suspCause := cause } s)
  | 2 => chSuspend c cause s
  | _ => s

/-- A RESUME issues a held write again: its address is checked and translated as before the error (R195, R247). -/
def reissue (c k : Nat) (s : State) : State :=
  match (chanAt s c).outst[k]? with
  | some w =>
    if w.held ≠ 2 ∨ chState s c = 3 then s
    else match chanXlat c w.va { store := true, half := decide (w.kind = 5) } false s with
      | (.pa a, s1) =>
        modChan c (fun x => { x with
          outst := setAt x.outst k { w with held := 0, resumed := true, tries := 0, pa := ownPa s1 a } }) s1
      | (.fault cs sb _, s1) => heldError c cs sb w s1
  | none => s

/-- A RESUME request (Table 9-12, R211, R486). It leaves SCAUSE at 0, as START and the commit of a STOP do (assumption 33). -/
def reqResume (c : Nat) (s : State) : State :=
  match chState s c with
  | 1 => setStat c 10 false s
  | 3 =>
    if chF s c 1 3 3 = 5 then s
    else
      let s1 := setChF c 1 0 6 (chanAt s c).prev (modChan c (fun x => { x with resuming := x.journal.flt }) s)
      let s2 := forAll (List.range (chanAt s c).outst.length) (reissue c) s1
      if chState s2 c = 3 then s2 else chGoOn c s2
  | _ => s

/-- CLRSIG. -/
def clrSig (c : Nat) (s : State) : State := setChF c 1 22 8 0 s

/-- Add to SIGCNT (R217). -/
def sigAdd (c n : Nat) (s : State) : State :=
  let v := sigCnt s c + n
  let s1 := setChF c 1 22 8 (min 255 v) s
  if 255 < v then setStat c 16 true s1 else s1

/-- A write of TRCH_CTRL (R228). -/
def trchCtrl (c : Nat) (v : Word) (s : State) : State :=
  let n := b2n (bit v 0) + b2n (bit v 1) + b2n (bit v 2) + b2n (bit v 3)
  if 1 < n then setStat c 15 true s
  else
    let s1 := if bit v 4 then clrSig c s else s
    if bit v 0 then reqStart c s1
    else if bit v 1 then reqStop c s1
    else if bit v 2 then reqSuspend c 3 s1
    else if bit v 3 then reqResume c s1
    else s1

/-! ## Ownership (R229, R230) -/

/-- A write of an OWN register with lease fields: `wOk` lets W change (R230, R263). -/
def ownWrite (s : State) (w : Who) (wOk : Bool) (old v : Word) : Word :=
  let v1 := if walledWriter s w then setF old 1 9 (getF v 1 9) else old
  if wOk && ownerWriter s w then setF v1 0 1 (getF v 0 1) else v1

/-- A write of TRCH_OWN. -/
def trchOwn (w : Who) (c : Nat) (v : Word) (s : State) : State :=
  setChR c 3 (ownWrite s w (decide (chState s c = 0) && decide (c ≠ 127)) (chR s c 3) v) s

/-! ## Register access (R202, R228, R232) -/

/-- A write of TRCH_CFG: RING, CMD12 and POST12 only while IDLE; a command keeps the fields it began with (R228). -/
def trchCfg (c : Nat) (v : Word) (s : State) : State :=
  let old := chR s c 2
  let v1 := wd (getF v 0 13)
  setChR c 2 (if chState s c = 0 then v1 else setF v1 0 3 (getF old 0 3)) s

/-- A write to register `k` of a channel. -/
def trchWrite (w : Who) (c k : Nat) (v : Word) (s : State) : State :=
  if c = 127 ∧ w ≠ .nursery then s
  else
    let idle := decide (chState s c = 0)
    match k with
    | 0x0 => trchCtrl c v s
    | 0x2 => trchCfg c v s
    | 0x3 => trchOwn w c v s
    | 0x6 => if idle then setChR c k (wd (getF v 0 16)) s else s
    | 0x7 => if getF v 0 16 < ringSize s c then ringSettle c (setChR c k (wd (getF v 0 16)) s) else s
    | 0x8 => if idle then setChR c k (wd (getF v 0 16)) s else s
    | 0x9 => if idle then setChR c k (wd (getF v 0 32)) s else s
    | 0xA => if idle then setChR c k (wd (getF v 0 16)) s else s
    | 0xB => if idle then setChR c k (wd (getF v 0 16)) s else s
    | _ => if k < 0x18 then
        setChR c k (writeBySpec (trchSpec (chBase c + k)) (chR s c k) v) s
      else s

/-! ## The journal and the TREL page (R231, R249, R250) -/

/-- Journal word `k` of a channel (Table 10-5). -/
def journalWord (j : Journal) (k : Nat) : Word :=
  match k with
  | 0 => wd (j.cmd + 2 ^ 32 * b2n j.valid + 2 ^ 33 * b2n j.flt)
  | 1 => wd (j.k % 2 ^ 32 + 2 ^ 32 * j.replays)
  | 2 => wd (j.srcEl + 2 ^ 16 * j.srcLine)
  | 3 => wd (j.dstEl + 2 ^ 16 * j.dstLine)
  | 8 => wd (j.hfill + 2 ^ 8 * j.fside + 2 ^ 10 * j.fcause + 2 ^ 18 * j.fsub + 2 ^ 26 * j.hwords + 2 ^ 29 * j.dbits +
      2 ^ 35 * b2n j.cmdacc)
  | 9 => wd j.faddr
  | _ => wd (j.hold / 2 ^ (40 * (k - 4)) % 2 ^ 40)

/-- A requester may see the journal of a channel (R229, R249). -/
def journalSeen (s : State) (w : Who) (c : Nat) : Bool := !chWalled s c || whoWalled s w

/-- A read of TREL_JOURNAL0: word 0, and the latch of words 1–9. -/
def journalRead (w : Who) (s : State) : Word × State :=
  let c := regF s pgTrel 0x018 0 7
  let j := (chanAt s c).journal
  let s1 := forAll (List.range 9) (fun k x => setReg pgTrel (0x021 + k) (journalWord j (k + 1)) x) { s with jsel := c }
  (if journalSeen s w c then journalWord j 0 else 0, s1)

/-- Bits of the 32 channels from 32k whose state satisfies `p`. -/
def chanBits (s : State) (k : Nat) (p : Nat → Bool) : Word :=
  wd ((List.range 32).foldl (fun acc j => acc + (if p (chState s (32 * k + j)) then 2 ^ j else 0)) 0)

/-- What a TREL register reads, JOURNAL0 apart. -/
def trelRead (s : State) (w : Who) (off : Nat) : Word :=
  if 0x010 ≤ off ∧ off ≤ 0x013 then chanBits s (off - 0x010) (fun x => decide (x ≠ 0))
  else if 0x014 ≤ off ∧ off ≤ 0x017 then chanBits s (off - 0x014) (fun x => decide (x = 3))
  else if 0x021 ≤ off ∧ off ≤ 0x029 then (if journalSeen s w s.jsel then reg s pgTrel off else 0)
  else if off = 0x031 then
    let band := regF s pgTrel 0x031 0 8
    let cap := regF s pgTrel 0x030 0 8
    wd (band + 256 * (if cap = 0 then band else min band cap))
  else reg s pgTrel off

/-- An occurrence of an event line reaches every WAIT on it (R214, R215). -/
def waitEvent (line : Nat) (s : State) : State :=
  { s with chans := Tbl.mapV chanDflt (fun _ x =>
      match x.phase with
      | .wait 5 arg st tm _ => if arg = line then { x with phase := .wait 5 arg st tm true } else x
      | _ => x) s.chans }

end Sys2Proof.Machine
end

