-- ==== Sys2Proof/Machine/HopRegs.lean ====
section
/-! DEFINITION. The registers of hoppers and the commands that write them (R254–R265). -/

namespace Sys2Proof.Machine

/-- BUNIT lies in the range of BLEVEL (R256). -/
def hopUnitOk (level unit : Nat) : Bool :=
  match level with
  | 0 => decide (unit < 128)
  | 1 => decide (unit < 16)
  | 2 => decide (unit < 4)
  | 3 => decide (unit = 0)
  | _ => false

/-- A hopper holds neither a visible nor a retained item. -/
def hopEmpty (s : State) (h : Nat) : Bool := decide (hopDepth s h = 0) && decide (hopRetained s h = 0)

/-- A write of HOP_CFG (R254, R256). -/
def hopCfgWrite (h : Nat) (v : Word) (s : State) : State :=
  let n := getF v 0 11
  if (0 < n ∧ n < 16) ∨ 1024 < n ∨ hopFree s + hopSlots s h < n ∨ !hopEmpty s h ∨ !hopUnitOk (getF v 11 3) (getF v 14 7) then
    setRegB (pgHop h) (hopBase h + 3) 24 true s
  else setReg (pgHop h) (hopBase h) (v &&& wd 0x7FFFFF) s

/-- A write of HOP_OWN (R263). -/
def hopOwnWrite (w : Who) (h : Nat) (v : Word) (s : State) : State :=
  setReg (pgHop h) (hopBase h + 2) (ownWrite s w (hopEmpty s h) (reg s (pgHop h) (hopBase h + 2)) v) s

/-- A write to register `k` of a hopper (R258, R265). -/
def hopRegWrite (w : Who) (h k : Nat) (v : Word) (s : State) : State :=
  if 254 ≤ h ∧ w ≠ .nursery then s
  else match k with
  | 0 => hopCfgWrite h v s
  | 2 => hopOwnWrite w h v s
  | 5 => hopWritePush h v s
  | _ =>
    setReg (pgHop h) (hopBase h + k)
      (writeBySpec (hopSpec (h / 128) (hopBase h + k)) (reg s (pgHop h) (hopBase h + k)) v) s

/-- What register `k` of a hopper reads. -/
def hopRegRead (s : State) (h k : Nat) : Word :=
  match k with
  | 3 =>
    setB (setF (setF (reg s (pgHop h) (hopBase h + 3)) 0 11 (hopDepth s h)) 11 11 (hopRetained s h)) 22 (hopFull s h)
  | 5 => 0
  | 6 => hopPeek s h
  | _ => reg s (pgHop h) (hopBase h + k)

/-- HOP_PUSH (R259). -/
def execHopPush (w : Who) (h : Fin 256) (item : Word) (s : State) : Res :=
  .next (gated w (pgHop h) (hopBase h + 5) (hopRegWrite w h 5 item) s)

/-- HOP_CFG_WRITE (R254, R256). -/
def execHopCfgWrite (w : Who) (h : Fin 256) (v : Word) (s : State) : Res :=
  .next (gated w (pgHop h) (hopBase h) (hopRegWrite w h 0 v) s)

/-- HOP_OWN_WRITE (R263). -/
def execHopOwnWrite (w : Who) (h : Fin 256) (v : Word) (s : State) : Res :=
  .next (gated w (pgHop h) (hopBase h + 2) (hopRegWrite w h 2 v) s)

/-- HOP_TAIL_NOTICE (R261): the tail window of a hopper has ended. -/
def execHopTailNotice (h : Fin 256) (s : State) : Res := .next (if domUp s domTrel then hopTail h s else s)

end Sys2Proof.Machine
end

