-- ==== Sys2Proof/Machine/Chain.lean ====
section
/-! DEFINITION. The Weiskeo link: cells on the wire, sequence numbers and resends, enumeration, lost links, and the CHAIN
page (R354–R362, R484). -/

namespace Sys2Proof.Machine

/-! ## Cells on the wire (R354, R355, Table 15-3) -/

/-- One bit of the cell CRC, most significant bit first. -/
def crc24Bit (crc b : Nat) : Nat :=
  let top := crc / 2 ^ 23 % 2
  let sh := crc * 2 % 2 ^ 24
  if (top + b) % 2 = 1 then Nat.xor sh 0x864CFB else sh

/-- The CRC over the `k` low bits of a word, most significant first. -/
def crc24Word (w : Nat) (k : Nat) (crc : Nat) : Nat :=
  match k with
  | 0 => crc
  | j + 1 => crc24Word w j (crc24Bit crc (w / 2 ^ j % 2))

/-- The CRC of words 0–6. -/
def cellCrc (ws : List Word) : Nat := (ws.take 7).foldl (fun acc w => crc24Word w.toNat 40 acc) 0xFFFFFF

/-- The eight words of a cell. -/
def cellWords (c : Cell) (lseq ack : Nat) (nak : Bool) : List Word :=
  let h := wd (c.typ + 2 ^ 4 * c.dst + 2 ^ 8 * c.src + 2 ^ 12 * c.cls + 2 ^ 13 * lseq + 2 ^ 21 * ack + 2 ^ 29 * b2n nak)
  let ws := ([h] ++ c.body ++ List.replicate 6 0).take 7
  ws ++ [wd (cellCrc ws)]

/-- The cell that eight received words spell. -/
def cellOf (ws : List Word) : Cell :=
  let h := (ws[0]?).getD 0
  { typ := getF h 0 4, dst := getF h 4 4, src := getF h 8 4, cls := getF h 12 1, body := (ws.drop 1).take 6 }

/-- The CRC of received words is good. -/
def cellGood (ws : List Word) : Bool := decide (ws.length = 8) && decide (((ws[7]?).getD 0).toNat = cellCrc ws)

/-- A port's next cell goes out (R355, R356): resends first, then sample cells, bulk cells, or IDLE. -/
def portSend (p : Nat) (s : State) : State :=
  let x := portAt s p
  let out (lseq : Nat) (c : Cell) (y : Port) : State :=
    emit (.cell p (cellWords c lseq y.good x.nak)) (setPort p { y with nak := false } s)
  let fresh (c : Cell) (y : Port) : State :=
    out x.lseq c { y with lseq := (x.lseq + 1) % 256, sent := (y.sent ++ [(x.lseq, c)]).drop (y.sent.length + 1 - 32) }
  match x.again, x.sample, x.bulk with
  | (n, c) :: rest, _, _ => out n c { x with again := rest }
  | [], c :: rest, _ => fresh c { x with sample := rest }
  | [], [], c :: rest => fresh c { x with bulk := rest }
  | [], [], [] => out ((x.lseq + 255) % 256) { typ := 0, dst := 0, src := chainAddr s, cls := 0, body := [] } x

/-- A received NAK names the last good cell: every later one is sent again (R355). -/
def portResend (p ack : Nat) (s : State) : State :=
  let x := portAt s p
  let l := x.sent.filter fun e => decide ((e.1 + 256 - ack) % 256 ≠ 0) && decide ((e.1 + 256 - ack) % 256 < 128)
  let n := if l.length < x.sent.length then 1 else x.resends + 1
  if l.isEmpty then s
  else bumpF pgChain 0x017 0 12 l.length (setPort p { x with again := l, sent := l, resends := n } s)

/-- Cells that every device takes and passes on: ENUM_DONE, ROUTE and BCAST, and LINK_LOST from above. -/
def cellRelayed (p : Nat) (c : Cell) : Bool :=
  decide (c.typ = 7) || decide (c.typ = 8) || decide (c.typ = 10) || (decide (c.typ = 9) && decide (p = 0))

/-- A good cell in order arrives at a port (R356). -/
def cellTake (p : Nat) (c : Cell) (s : State) : State :=
  if c.typ = 0 ∨ 11 ≤ c.typ then s
  else if c.typ = 5 then { s with cellsIn := s.cellsIn ++ [c] }
  else if cellRelayed p c then portQueue (1 - p) c { s with cellsIn := s.cellsIn ++ [c] }
  else cellRoute c s

/-- Eight words arrive at a port (R355, R356). -/
def portReceive (p : Nat) (ws : List Word) (s : State) : State :=
  if portUp s p then
    let x := portAt s p
    let c := cellOf ws
    let seq := getF ((ws[0]?).getD 0) 13 8
    if !cellGood ws then setPort p { x with nak := true } s
    else if c.typ = 0 then s
    else if seq = (x.good + 1) % 256 then cellTake p c (setPort p { x with good := seq } s)
    else setPort p { x with nak := true } s
  else s

/-! ## Enumeration (R358) -/

/-- READY with `n` members: DEVICES_M1, the map, READY (R358). -/
def setReady (n : Nat) (s : State) : State :=
  let s1 := { s with devM1 := n - 1 }
  let s2 := setRegF pgChain 0x012 0 16 (2 ^ n - 1) s1
  setRegB pgChain 0x011 5 true s2

/-- The head makes the chain ready (R358, R361); a re-enumeration keeps DEVICES_M1 and brings its members back (R359). -/
def headReady (n : Nat) (s : State) : State :=
  let s1 :=
    if chainReady s then
      let a := regF s pgChain 0x012 16 16
      setRegF pgChain 0x012 16 16 (a / 2 ^ n * 2 ^ n) s
    else setReady n s
  portQueue 1 (mkCell s1 8 0 0 [reg s1 pgDev 0x044]) (portQueue 1 (mkCell s1 7 0 0 [wd n]) s1)

/-- The head starts or finishes what it can (R358). -/
def headStart (s : State) : State :=
  if chainHead s ∧ !chainReady s then
    (if portUp s 1 then portQueue 1 (mkCell s 5 0 0 [1]) s
     else if (portAt s 1).unconnected then setReady 1 s else s)
  else s

/-- The device becomes head (R358). -/
def becomeHead (s : State) : State :=
  if chainHead s ∨ chainReady s then s
  else headStart (setRegB pgChain 0x011 4 true (setRegF pgChain 0x011 0 4 0 s))

/-- An ENUM cell (R358). -/
def enumCell (a : Nat) (s : State) : State :=
  if 15 < a then portQueue 0 (mkCell s 6 0 0 [wd 16]) (setRegB pgChain 0x011 8 true { s with outside := true })
  else
    let s1 := setRegF pgChain 0x011 0 4 a { s with outside := false }
    if portUp s1 1 then portQueue 1 (mkCell s1 5 0 0 [wd (a + 1)]) s1
    else portQueue 0 (mkCell s1 6 0 0 [wd (a + 1)]) s1

/-- An ENUM_DONE cell on a member (R358, R359). -/
def enumDone (n : Nat) (s : State) : State :=
  if chainReady s then
    let a := regF s pgChain 0x012 16 16
    setRegF pgChain 0x012 16 16 (a / 2 ^ n * 2 ^ n) s
  else setReady n s

/-! ## Lost links (R355, R359, R360) -/

/-- Reads that can no longer be answered end as errors (R360). -/
def readsLost (p : Nat → Bool) (s : State) : State :=
  let lost := s.chainTags.filter fun e => p ((e.2.2 - 0x200000000) / 0x10000000)
  { s with
    chainTags := s.chainTags.filter (fun e => !p ((e.2.2 - 0x200000000) / 0x10000000))
    chainBack := s.chainBack ++ lost.map fun e => (e.2.1, e.2.2, none) }

/-- Mark every present address from `n` on as ABSENT (R359). -/
def markAbsent (n : Nat) (s : State) : State :=
  let m := regF s pgChain 0x012 0 16
  let a := regF s pgChain 0x012 16 16
  readsLost (fun c => decide (n ≤ c))
    (setRegF pgChain 0x012 16 16 (Nat.lor a (m / 2 ^ n * 2 ^ n)) s)

/-- The head hears that the addresses from `n` on are lost: it marks and broadcasts (R359). -/
def headLost (n : Nat) (s : State) : State :=
  let s1 := markAbsent n s
  portQueue 1 (mkCell s1 9 0 0 [wd n]) s1

/-- A LINK_LOST cell (R359). -/
def linkLost (n : Nat) (s : State) : State := if chainHead s then headLost n s else markAbsent n s

/-- Reads of other devices that went out on a port are lost with it (R355). -/
def fwdsLost (p : Nat) (s : State) : State :=
  forAll (s.chainFwd.filter fun e => decide (e.1 = p)) (fun e x => fwdLost e.2.1 e.2.2 x)
    { s with chainFwd := s.chainFwd.filter fun e => !decide (e.1 = p) }

/-- A port goes down (R355, R359). Beyond the member at address 15 no address lies, so that it has none to report
(assumption 155). -/
def portDown (p : Nat) (s : State) : State :=
  let s1 := setPort p { portAt s p with sample := [], bulk := [], again := [], sent := [], resends := 0 }
    (setRegB pgChain 0x011 (6 + p) false s)
  let s2 := bumpF pgChain 0x017 12 12 1 s1
  let own := chainAddr s
  let s3 := fwdsLost p (readsLost (fun c => if p = 1 then decide (own < c) else decide (c < own)) s2)
  if p = 1 ∧ chainReady s3 ∧ own < 15 then
    (if chainHead s3 then headLost (own + 1) s3 else portQueue 0 (mkCell s3 9 0 0 [wd (own + 1)]) s3)
  else s3

/-- A port trains (R358, R359); `host`: the UP port trained with a host. Below a member that keeps its address the segment is
enumerated again from there, ENUM_END answering to the head (assumption 126). -/
def portTrained (p : Nat) (host : Bool) (s : State) : State :=
  if portUp s p then s
  else
    let s1 := setPort p { portAt s p with unconnected := false } (setRegB pgChain 0x011 (6 + p) true s)
    if p = 0 then (if host then becomeHead s1 else s1)
    else if chainHead s1 then
      portQueue 1 (mkCell s1 5 0 0 [1]) s1
    else if chainReady s1 then portQueue 1 (mkCell s1 5 0 0 [wd (chainAddr s1 + 1)]) s1
    else s1

/-- A port is found unconnected (R358). -/
def portAlone (p : Nat) (s : State) : State :=
  if portUp s p then s
  else
    let s1 := setPort p { portAt s p with unconnected := true } s
    if p = 0 then becomeHead s1 else headStart s1

/-! ## The CHAIN page (R359, R361, R362) -/

/-- A write of CHAIN_ROUTE (R361, R484): only on the head, which sends it on once READY. -/
def chainRouteWrite (v : Word) (s : State) : State :=
  if chainHead s then
    let s1 := routeStore 21 pgDev 0x044 v s
    if chainReady s1 then portQueue 1 (mkCell s1 8 0 0 [reg s1 pgDev 0x044]) s1 else s1
  else s

/-- A write of CHAIN_BCAST_DATA (R361). -/
def bcastWrite (v : Word) (s : State) : State :=
  let c := mkCell s 10 0 0 [wd (regF s pgChain 0x014 0 28), wd (regF s pgChain 0x015 0 16), v]
  portQueue 0 c (portQueue 1 c { s with cellsIn := s.cellsIn ++ [c] })

/-- The wake pattern goes out on a port (R362). -/
def wakeSend (p : Nat) (s : State) : State := emit (.other "chain-wake" [p]) s

/-- A re-enumeration of every address (R359). -/
def reenum (s : State) : State := if chainHead s then portQueue 1 (mkCell s 5 0 0 [1]) s else s

/-- A write to a CHAIN register. -/
def chainRegWrite (off : Nat) (v : Word) (s : State) : State :=
  match off with
  | 0x013 =>
    let s1 := if bit v 0 then wakeSend 0 s else s
    let s2 := if bit v 1 then wakeSend 1 s1 else s1
    if bit v 2 then reenum s2 else s2
  | 0x016 => bcastWrite v s
  | _ => setReg pgChain off (writeBySpec (chainSpec off) (reg s pgChain off) v) s

end Sys2Proof.Machine
end

