-- ==== Sys2Proof/Machine/Session.lean ====
section
/-! DEFINITION. Sessions, grants and the key store (R425–R427, R433, R435). -/

namespace Sys2Proof.Machine

/-- The host's or the probe's session. -/
def sessOf (s : State) (probe : Bool) : Session := if probe then s.probeSess else s.hostSess

/-- Replace a session and show its grant in SEC_PGRANT or SEC_HGRANT (Table 19-7). -/
def setSess (probe : Bool) (x : Session) (s : State) : State :=
  let g := wd (x.level + 4 * b2n x.allowStop + 8 * b2n x.debugWake)
  if probe then setReg pgSec 0x013 g { s with probeSess := x } else setReg pgSec 0x014 g { s with hostSess := x }

/-- Tines halted by a session resume, and its held requests are withdrawn (R427). -/
def resumeAll (probe : Bool) (s : State) : State :=
  forAll (List.range 144) (fun t x =>
    if (tineAt x t).halt = (if probe then HaltKind.probe else HaltKind.host) then
      sieveUpdate t (alive t (modTine t (fun y => { y with halt := .no, dreq := .none }) x))
    else if (tineAt x t).dreq = .halt probe ∨ (tineAt x t).dreq = .step probe then
      modTine t (fun y => { y with dreq := .none }) x
    else x) s

/-- A session's grant returns to none (R427). -/
def sessEnd (probe : Bool) (s : State) : State :=
  let x := sessOf s probe
  resumeAll probe (setSess probe { x with level := 0, allowStop := false, debugWake := false } s)

/-! ## The key store (R433) -/

/-- WS code of a tine. -/
def whoWS (s : State) (w : Who) : Bool :=
  match w with
  | .tine p => tW s p && tS s p
  | .store _ w su => w && su
  | _ => false

/-- WS code, or a host or probe under a Walled grant (R402, R420, R435). -/
def wsOrGrant (s : State) (w : Who) : Bool :=
  match w with
  | .tine p => tW s p && tS s p
  | .store _ w su => w && su
  | .host | .probe => decide (sessLevel s w = 2)
  | _ => false

/-- Word `k` of slot `i`. -/
def keyWord (s : State) (i k : Nat) : Word := Tbl.get (fun _ => (0 : Word)) s.keys (8 * i + k)

/-- Write word `k` of slot `i`; word 6 holds 16 bits, and there is no word 7. -/
def setKeyWord (i k : Nat) (v : Word) (s : State) : State :=
  if k < 6 then { s with keys := Tbl.set (fun _ => (0 : Word)) s.keys (8 * i + k) v }
  else if k = 6 then { s with keys := Tbl.set (fun _ => (0 : Word)) s.keys (8 * i + k) (v &&& wd 0xFFFF) }
  else s

/-- Zeroization (R433). -/
def keysZero (s : State) : State := wrapF pgSec 0x015 8 8 1 { s with keys := [] }

/-- Load slot 0 from 32 bytes, low byte first. -/
def keyLoad (bs : List Byte) (s : State) : State :=
  forAll (List.range 7) (fun k x => setKeyWord 0 k (wd (numAt bs (5 * k) 5)) x) s

/-- Slot 0 loads from DEV_SECRET, except in RETURNED (R433). -/
def keysAtReset (s : State) : State :=
  match s.otp.secret with
  | some bs => if s.otp.lc = 3 then { s with keys := [] } else keyLoad bs { s with keys := [] }
  | none => { s with keys := [] }

/-- A write to a SEC register (R435). -/
def secWrite (w : Who) (off : Nat) (v : Word) (s : State) : State :=
  match off with
  | 0x015 =>
    if wsOrGrant s w then
      let s1 := setRegB pgSec 0x015 0 (bit v 0) s
      if bit v 1 && whoWS s w then keysZero s1 else s1
    else s
  | 0x019 =>
    if whoWS s w then setKeyWord (regF s pgSec 0x018 0 3) (regF s pgSec 0x018 3 3) v s else s
  | _ =>
    if 0x020 ≤ off ∧ off ≤ 0x02F then
      (if wsOrGrant s w && !regB s pgSec 2 2 then setReg pgSec off (v &&& wd 0x3FFFFFFFF) s else s)
    else setReg pgSec off (writeBySpec (secSpec off) (reg s pgSec off) v) s

/-- What a SEC register reads. -/
def secRead (s : State) (w : Who) (off : Nat) : Word :=
  match off with
  | 0x010 => wd (s.otp.lc + 4 * b2n s.otp.retPending)
  | 0x011 => wd (s.otp.uid % 2 ^ 32)
  | 0x012 => wd (s.otp.uid / 2 ^ 32 % 2 ^ 32)
  | 0x016 =>
    setF (reg s pgSec 0x016) 24 4 (b2n (decide (8 ≤ s.probeSess.fails)) + 2 * b2n (decide (8 ≤ s.hostSess.fails)))
  | 0x017 => wd s.otp.svn
  | 0x019 =>
    if whoWS s w then
      (if s.otp.lc = 3 ∧ regF s pgSec 0x018 0 3 = 0 then 0
       else keyWord s (regF s pgSec 0x018 0 3) (regF s pgSec 0x018 3 3))
    else 0
  | _ => reg s pgSec off

end Sys2Proof.Machine
end

