-- ==== Sys2Proof/Machine/Hazards.lean ====
section
/-! DEFINITION. The retirement window and the reservation stations (R114–R116): the class of an instruction, what it reads and
writes, which entries of the window have dispatched, and whether another instruction may issue. -/

namespace Sys2Proof.Machine

/-- What one instruction hands to another by a tag: a G register, an accumulator, the flags Z, N, and C with V, and the
dither and requantizer state that write-backs share. -/
inductive Tag where
  | g (i : Gr)
  | a (n : Ar)
  | z | n | cv | q
  deriving DecidableEq, Repr

/-- A reservation station (R114). -/
inductive Station where
  | alu | mac | ls | br
  deriving DecidableEq, Repr

/-- What an instruction reads: listed values, or, for MFC and instructions that act on the tine's control state, everything
that is older (R85, R97). -/
inductive Reads where
  | these (l : List Tag)
  | older
  deriving DecidableEq, Repr

/-- How an instruction takes part in the window. `data` is what a read of memory or a hopper gives it, known once that read
has returned. -/
structure Hazard where
  st : List Station
  reads : Reads
  writes : List Tag
  /-- results that wait for a memory or hopper read -/
  data : List Tag
  /-- no later instruction issues before this one retires (SER of Table 4-12, and WAIT) -/
  ser : Bool
  /-- it stores, so that a younger load does not pass it -/
  stores : Bool
  deriving DecidableEq, Repr

/-- An instruction of the ALU station. -/
def hAlu (reads writes : List Tag) : Option Hazard :=
  some { st := [.alu], reads := .these reads, writes := writes, data := [], ser := false, stores := false }
/-- One of the MAC station. -/
def hMac (reads writes : List Tag) : Option Hazard :=
  some { st := [.mac], reads := .these reads, writes := writes, data := [], ser := false, stores := false }
/-- One of the BR station. -/
def hBr (reads writes : List Tag) (ser : Bool) : Option Hazard :=
  some { st := [.br], reads := .these reads, writes := writes, data := [], ser := ser, stores := false }
/-- A load, and a store. -/
def hLoad (reads writes data : List Tag) : Option Hazard :=
  some { st := [.ls], reads := .these reads, writes := writes, data := data, ser := false, stores := false }
def hStore (reads writes : List Tag) : Option Hazard :=
  some { st := [.ls], reads := .these reads, writes := writes, data := [], ser := false, stores := true }

/-- All flags of an ALU instruction, and Z with N. -/
def fAll : List Tag := [.z, .n, .cv]
def fZn : List Tag := [.z, .n]

/-- Address registers that an LS access reads, and the one it updates (Table 4-6). -/
def lsReads (l : LS) : List Tag :=
  if l.mode.toNat = 4 then [.g l.ga, .g (Fin.ofNat 32 (l.off.toNat / 2 ^ 11))] else [.g l.ga]
def lsUpds (l : LS) : List Tag :=
  match l.mode.toNat with
  | 1 | 2 | 3 | 5 => [.g l.ga]
  | _ => []
/-- The register pair of a double word. -/
def pairTags (gt : Gr) : List Tag := [.g gt, .g (Fin.ofNat 32 (gt.val + 1))]

/-- Reads and writes of the operand forms. -/
def rrTags (f : RR) : List Tag := match f with | .c gd gs => [.g gd, .g gs] | .f _ ga gb => [.g ga, .g gb]
def rrDst (f : RR) : Tag := match f with | .c gd _ => .g gd | .f gd _ _ => .g gd
def unTags (f : Un) : List Tag := match f with | .c _ gs => [.g gs] | .f _ ga => [.g ga]
def unDst (f : Un) : Tag := match f with | .c gd _ => .g gd | .f gd _ => .g gd
def laneTags (l : Lane) : List Tag := if l.op = .absent then [] else [.g l.gx, .g l.gy, .a l.an]
def laneDst (l : Lane) : List Tag := if l.op = .absent then [] else [.a l.an]
def quadTags (p : Pair) (gx gy : Gr) : List Tag := if p.op = .absent then [] else [.g gx, .g gy, .a p.an]
def quadDst (p : Pair) : List Tag := if p.op = .absent then [] else [.a p.an]
def accTag (f : AccForm) : Tag := match f with | .c a => .a a | .f a => .a a

/-- The class, reads and writes of a tine instruction (Tables 4-9 to 4-12); none for a command that is no instruction. -/
def hazardOf (i : Instr) : Option Hazard :=
  match i with
  | .mov _ f | .norm _ f => hAlu (unTags f) [unDst f]
  | .normm _ f => hAlu (unDst f :: unTags f) [unDst f]
  | .movi _ f => hAlu [] [match f with | .c gd _ => .g gd | .f gd _ _ => .g gd]
  | .movhi _ gd _ => hAlu [.g gd] [.g gd]
  | .add _ f | .sub _ f => hAlu (rrTags f) (rrDst f :: fAll)
  | .addi _ f => (match f with
    | .c gd _ => hAlu [.g gd] (.g gd :: fAll)
    | .f gd ga _ => hAlu [.g ga] (.g gd :: fAll))
  | .adds _ gd ga gb | .subs _ gd ga gb => hAlu [.g ga, .g gb] (.g gd :: fAll)
  | .and _ f | .or _ f | .xor _ f => hAlu (rrTags f) (rrDst f :: fZn)
  | .andn _ gd ga gb | .rot _ gd ga gb | .min _ gd ga gb | .max _ gd ga gb => hAlu [.g ga, .g gb] (.g gd :: fZn)
  | .andi _ gd ga _ | .ori _ gd ga _ | .xori _ gd ga _ => hAlu [.g ga] (.g gd :: fZn)
  | .shl _ gd ga k | .shr _ gd ga k => (match k with
    | .reg gb => hAlu [.g ga, .g gb] (.g gd :: fZn)
    | .imm _ => hAlu [.g ga] (.g gd :: fZn))
  | .ash _ f => (match f with
    | .reg gd ga gb => hAlu [.g ga, .g gb] (.g gd :: fZn)
    | .ci gd _ => hAlu [.g gd] (.g gd :: fZn)
    | .fi gd ga _ => hAlu [.g ga] (.g gd :: fZn))
  | .cmp _ f => (match f with | .c a b | .f a b => hAlu [.g a, .g b] fAll)
  | .cmpi _ f => (match f with | .c a _ | .f a _ => hAlu [.g a] fAll)
  | .neg _ f => hAlu (unTags f) (unDst f :: fAll)
  | .not _ f | .abs _ f => hAlu (unTags f) (unDst f :: fZn)
  | .log2 _ gd ga | .exp2 _ gd ga | .recip _ gd ga | .rsqrt _ gd ga => hAlu [.g ga] [.g gd]
  | .crc8 _ gd gs gp | .crcw _ gd gs gp => hAlu [.g gd, .g gs, .g gp] [.g gd]
  | .par _ gd gs _ => hAlu [.g gs] [.g gd, .z]
  | .brev _ gd gs _ => hAlu [.g gs] [.g gd]
  | .macDual _ _ l0 l1 => hMac (laneTags l0 ++ laneTags l1) (laneDst l0 ++ laneDst l1)
  | .macQuad _ _ p0 p1 gx gy gz gw => hMac (quadTags p0 gx gy ++ quadTags p1 gz gw) (quadDst p0 ++ quadDst p1)
  | .macC _ _ an gx gy _ => hMac [.g gx, .g gy, .a an] [.a an]
  | .macm _ _ _ an ga gb _ _ =>
    some { st := [.mac, .ls], reads := .these [.g ga, .g gb, .a an], writes := [.g ga, .g gb], data := [.a an], ser := false,
           stores := false }
  | .clra _ f => hMac [] [accTag f]
  | .nega _ f | .absa _ f => hMac [accTag f] [accTag f]
  | .lda _ an g _ => hMac [.g g] [.a an]
  | .adda _ an am | .suba _ an am => hMac [.a an, .a am] [.a an]
  | .asha _ an _ => hMac [.a an] [.a an]
  | .norma _ g an => hMac [.a an] [.g g]
  | .wba _ gd an _ _ | .wbaH _ gd an _ _ => hMac [.a an, .q] [.g gd, .q]
  | .wbaD _ gd an _ _ => hMac [.a an] (pairTags gd)
  | .ld _ f => (match f with
    | .c gt ga => hLoad [.g ga] [] [.g gt]
    | .f l => hLoad (lsReads l) (lsUpds l) [.g l.gt])
  | .ldh _ l => hLoad (lsReads l) (lsUpds l) [.g l.gt]
  | .ldd _ l => hLoad (lsReads l) (lsUpds l) (pairTags l.gt)
  | .rsa _ l => hLoad (lsReads l) (lsUpds l) [.a (Fin.ofNat 4 l.gt.val)]
  | .ldstC _ store gt ga _ => if store then hStore [.g ga, .g gt] [.g ga] else hLoad [.g ga] [.g ga] [.g gt]
  | .st _ f => (match f with
    | .c gt ga => hStore [.g ga, .g gt] []
    | .f l => hStore (.g l.gt :: lsReads l) (lsUpds l))
  | .sth _ l => hStore (.g l.gt :: lsReads l) (lsUpds l)
  | .std _ l => hStore (pairTags l.gt ++ lsReads l) (lsUpds l)
  | .sva _ l => hStore (.a (Fin.ofNat 4 l.gt.val) :: lsReads l) (lsUpds l)
  | .swap _ l =>
    some { st := [.ls], reads := .these (.g l.gt :: lsReads l), writes := lsUpds l, data := [.g l.gt], ser := false, stores := true }
  | .hpop _ f => (match f with
    | .c g _ => hLoad [] [] [.g g]
    | .f g ga => hLoad [.g ga] [] [.g g])
  | .hpush _ f => (match f with
    | .c g _ => hLoad [.g g] [] []
    | .f g ga => hLoad [.g g, .g ga] [] [])
  | .fence _ => hLoad [] [] []
  | .br _ _ => hBr [] [] false
  | .brc _ _ => hBr fAll [] false
  | .jmp _ ga => hBr [.g ga] [] false
  | .call _ f => (match f with
    | .c ga => hBr [.g ga] [.g (Fin.ofNat 32 27)] false
    | .f gl _ => hBr [] [.g gl] false)
  | .nop _ => hAlu [] []
  | .wait _ | .sysc _ _ | .retx _ _ _ _ _ | .bkpt _ => hBr [] [] true
  | .cloche _ _ | .rep _ _ | .repu _ _ | .loop _ _ _ | .endl _ => hBr [] [] false
  | .repr _ gs _ | .loopr _ gs _ => hBr [.g gs] [] false
  | .mfc _ g _ => some { st := [.alu], reads := .older, writes := [.g g], data := [], ser := false, stores := false }
  | .mtc _ g _ => some { st := [.alu], reads := .these [.g g], writes := [], data := [], ser := true, stores := false }
  | _ => none

/-! ## What has dispatched -/

/-- Values that no completed instruction gives yet, and whether any older instruction is not complete. -/
structure Pending where
  tags : List Tag
  open' : Bool
  deriving DecidableEq, Repr

/-- The values that the instruction at the head still owes (R115). -/
def flightTags (f : Flight) : List Tag :=
  match f with
  | .load k _ _ _ _ _ =>
    (match k with
     | .word gt | .half gt _ | .swap gt _ => [.g gt]
     | .dbl gt | .dblFirst gt => pairTags gt
     | .dblSecond gt => [.g (Fin.ofNat 32 (gt.val + 1))]
     | .image an | .macm _ _ an => [.a an])
  | _ => []

/-- At the head of the window. -/
def pendingHead (f : Option Flight) : Pending :=
  match f with
  | some x => { tags := flightTags x, open' := true }
  | none => { tags := [], open' := false }

/-- Every operand of an instruction is present (R115). -/
def operandsHere (p : Pending) (h : Hazard) : Bool :=
  match h.reads with
  | .these l => l.all fun x => !p.tags.contains x
  | .older => !p.open'

/-- After an entry: what it gives once its operands are present, its data once its read has returned. -/
def pendingAfter (p : Pending) (h : Hazard) (early : Bool) : Pending :=
  let here := operandsHere p h
  let done := here && (h.data.isEmpty || early)
  let given := if here then h.writes ++ (if early then h.data else []) else []
  let owed := if here then (if early then [] else h.data) else h.writes ++ h.data
  { tags := (p.tags.filter fun x => !given.contains x) ++ owed, open' := p.open' || !done }

/-- The entries of a window with what is pending before each. -/
def scanWindow (p : Pending) (l : List WinEnt) : List (WinEnt × Hazard × Pending) :=
  match l with
  | [] => []
  | e :: rest =>
    match hazardOf e.ins with
    | some h => (e, h, p) :: scanWindow (pendingAfter p h e.early.isSome) rest
    | none => scanWindow p rest

/-- Entries that wait in a station: their operands are not all present (R114, R115). -/
def inStation (x : Station) (l : List (WinEnt × Hazard × Pending)) : Nat :=
  (l.filter fun e => e.2.1.st.contains x && !operandsHere e.2.2 e.2.1).length

/-- What is older lets another instruction issue behind it: nothing that serializes, and no branch whose operands are not
present, since the next instruction in program order is not known then (R85, R114). -/
def mayFollow (e : WinEnt × Hazard × Pending) : Bool :=
  !e.2.1.ser && (!e.2.1.st.contains .br || operandsHere e.2.2 e.2.1)

/-- The flight at the head serializes: WAIT, and a checkpoint request (R167, R410). -/
def flightSer (f : Option Flight) : Bool :=
  match f with
  | some .wait | some (.ckpt _ _ _ _ _ _) => true
  | _ => false

/-- There is room for an instruction behind those in flight: an entry of the 16-entry window and one of the four of each of
its stations (R114, assumption 18). -/
def windowRoom (f : Option Flight) (w : List WinEnt) (i : Instr) : Bool :=
  match hazardOf i with
  | none => false
  | some h =>
    let l := scanWindow (pendingHead f) w
    decide (w.length + 1 < 16) && !flightSer f && l.all mayFollow && h.st.all fun x => decide (inStation x l < 4)

end Sys2Proof.Machine
end

