-- ==== Sys2Proof/Machine/TineOps.lean ====
section
/-! DEFINITION. What every tine instruction shares: when it may issue, retirement with repeat, loops and cloche, recorded
faults, entries to handlers and faults, and the return (R101–R118, R141–R157, R167–R170). -/

namespace Sys2Proof.Machine

/-! ## Issue -/

/-- A debug step is in progress or the tine is not halted (R430). -/
def tineGoes (x : Tine) : Bool := decide (x.halt = .no) || stepping x

/-- A buffered store of the tine to its own TINE_XCFG, TINE_XINV or TINE_CKPT_GO serializes it (R196, R410). So does one to its
own TINE_TST: it clears flags against the instructions before it, and no later one retires before it acts (R49, assumption 103). -/
def serialStore (t : Nat) (e : StoreEnt) : Bool :=
  [oXCFG, oXINV, oCKGO, oTST].any fun o => decide (e.pa = pageAddr (pgTine t) o)

/-- The tine issues at all (R114, R117, R123): issue has stopped once an entry is chosen (Table 5-6), so what a cloche held off
is delivered before the next issue (R157). -/
def issueOpen (s : State) (t : Nat) : Bool :=
  let x := tineAt s t
  tineGoes x && !x.locked && !x.retired && tineUp s t && decide (x.fault = none) && decide (x.entry = none) &&
    x.drain.isEmpty && !x.sb.any (serialStore t)

/-- The tine's next instruction may issue and go to the head of an empty window. -/
def canIssue (s : State) (t : Nat) : Bool :=
  issueOpen s t && decide ((tineAt s t).flight = none) && (tineAt s t).window.isEmpty

/-- The instruction may issue behind those in flight (R114); a tine that is stepped has one at a time (R430). -/
def canQueue (s : State) (t : Nat) (i : Instr) : Bool :=
  let x := tineAt s t
  issueOpen s t && decide (x.halt = .no) && (x.flight.isSome || !x.window.isEmpty) && windowRoom x.flight x.window i

/-- It enters the window behind them. -/
def enqueue (t : Nat) (i : Instr) (s : State) : State :=
  modTine t (fun x => { x with window := x.window ++ [{ ins := i, early := none }] }) s

/-- The fetch word at a half-word address of the active bank (R86). -/
def fetchAt (s : State) (t : Nat) (pc : BitVec 14) : Word :=
  memGet s (trayBase t + 0x2000 * activeBank s t + pc.toNat / 2)

/-- An instruction fault of Table 6-4 that addresses the instruction. -/
def instrFault (cause : Nat) (info : Word) : FaultRec :=
  { cause := cause, sub := 0, addr := 0, info := info, phys := false, after := false, half := false }

/-- ILLEGAL_INSTR with the fetch word. -/
def illegal (t : Nat) (s : State) : State :=
  recordFault t (instrFault 0x01 (fetchAt s t (tineAt s t).pc)) s

/-- PRIV_INSTR with the fetch word. -/
def privFault (t : Nat) (s : State) : State :=
  recordFault t (instrFault 0x02 (fetchAt s t (tineAt s t).pc)) s

/-- An instruction, other than LDD or STD, at the head of the window: after a return with HALFDONE it is illegal and keeps HALFDONE
(R154). -/
def issueHead (t : Nat) (f : State → State) (s : State) : State :=
  if !canIssue s t then s
  else if (tineAt s t).halfdone then
    recordFault t { instrFault 0x01 (fetchAt s t (tineAt s t).pc) with half := true } s
  else f s

/-- Instruction `i` issues: behind others it enters the window, and without room it has no effect (R114). -/
def issue (t : Nat) (i : Instr) (f : State → State) (s : State) : State :=
  if canIssue s t then issueHead t f s else if canQueue s t i then enqueue t i s else s

/-! ## Debug halts (R430) -/

/-- A session's grant covers the tine's present mode. -/
def grantCovers (s : State) (probe : Bool) (t : Nat) : Bool :=
  let l := if probe then s.probeSess.level else s.hostSess.level
  decide (l = 2) || (decide (l = 1) && !tW s t)

/-- Stop a tine for a session. -/
def haltNow (t : Nat) (probe : Bool) (s : State) : State :=
  modTine t (fun x => { x with
    halt := if probe then .probe else .host, dreq := .none, flight := none, window := [], fault := none, entry := none }) s

/-- At a boundary between two retirements: take a held halt once no cloche is open and the mode allows. -/
def haltHeld (t : Nat) (s : State) : State :=
  match (tineAt s t).dreq with
  | .halt pr =>
    if regF s (pgTine t) oCLOCHE 0 7 = 0 ∧ grantCovers s pr t ∧ !owesFault s t then haltNow t pr s else s
  | _ => s

/-- After a retirement: a held halt, or the end of a step. -/
def haltCheck (t : Nat) (s : State) : State :=
  match (tineAt s t).dreq with
  | .step pr => if grantCovers s pr t then modTine t (fun x => { x with dreq := .none }) s else s
  | _ => haltHeld t s

/-! ## Retirement (R101, R106, R116, R156) -/

/-- The loop test of R106 for a retiring instruction at one of `addrs`; LD is 0–4 (Table 4-13). LC = 0, which only software
writes, wraps and loops back (assumption 108). -/
def loopTest (t : Nat) (addrs : List (BitVec 14)) (next : BitVec 14) (s : State) : BitVec 14 × State :=
  let l := reg s (pgTine t) oLSTAT
  let ld := getF l 0 3
  if getF l 3 3 < ld ∧ ld ≤ 4 ∧ addrs.any (fun a => decide (regF s (pgTine t) (oLE (ld - 1)) 0 14 = a.toNat)) then
    let lc := reg s (pgTine t) (oLC (ld - 1)) - 1
    let s1 := setReg (pgTine t) (oLC (ld - 1)) lc s
    if lc ≠ 0 then (BitVec.ofNat 14 (regF s (pgTine t) (oLS (ld - 1)) 0 14), s1)
    else (next, setRegF (pgTine t) oLSTAT 0 3 (ld - 1) s1)
  else (next, s)

/-- Set PC. -/
def setPc (t : Nat) (a : BitVec 14) (s : State) : State := modTine t (fun x => { x with pc := a }) s

/-- The PC after an instruction of `len` half-words that transfers no control: repeat, then loop (R101, R106). The length of
the prefix in force is kept by level, 1 where software set RA; RA with RC = 0 ends at the next retirement (assumption 109). -/
def advance (t len : Nat) (s : State) : State :=
  let pc := (tineAt s t).pc
  let next := pc + BitVec.ofNat 14 len
  let l := reg s (pgTine t) oLSTAT
  if bit l 20 then
    if 1 < getF l 6 13 then setRegF (pgTine t) oLSTAT 6 13 (getF l 6 13 - 1) s
    else
      let s1 := setReg (pgTine t) oLSTAT (setF (setF l 6 13 0) 19 2 0) s
      let back := BitVec.ofNat 14 (Tbl.get (fun _ => 1) (tineAt s t).repLen (tLvl s t))
      let (a, s2) := loopTest t [pc, pc - back] next s1
      setPc t a s2
  else
    let (a, s1) := loopTest t [pc] next s
    setPc t a s1

/-- What every retirement does after the PC moved: counts, the cloche, held halts, arbitration. -/
def retireEnd (t : Nat) (opener : Bool) (s : State) : State :=
  let s1 := alive t (wrapF (pgTine t) oRETIRED 0 40 1 s)
  let n := regF s1 (pgTine t) oCLOCHE 0 7
  let s2 := if opener then s1 else setReg (pgTine t) oCLOCHE (wd (n - 1)) s1
  sieveUpdate t (haltCheck t (modTine t (fun x => { x with flight := none, halfdone := false }) s2))

/-- An ordinary instruction of `len` half-words retires. -/
def retire (t len : Nat) (s : State) : State := retireEnd t false (advance t len s)

/-- An instruction retires that transfers control. -/
def retireTo (t : Nat) (a : BitVec 14) (s : State) : State := retireEnd t false (setPc t a s)

/-! ## Flags (R48–R52, R69) -/

/-- Store condition flags. -/
def putFlags (t : Nat) (f : FlagSet) (s : State) : State :=
  match f with
  | .none => s
  | .zncv z n c v => setRegF (pgTine t) oTST 20 4 (b2n z + 2 * b2n n + 4 * b2n c + 8 * b2n v) s
  | .z z => setRegB (pgTine t) oTST 20 z s

/-- A saturation flag set by a retirement: k = 0–3 AOV, 4–7 WSAT, 8 GSAT; with its counter (R48, R69). -/
def satFlag (t k : Nat) (s : State) : State :=
  let bitNo := if k < 4 then 4 * k + 1 else if k < 8 then 4 * (k - 4) + 2 else 16
  let s1 := setRegB (pgTine t) oTST bitNo true s
  let s2 :=
    if k < 4 then bumpF (pgTine t) (oSATA k) 0 16 1 s1
    else if k < 8 then bumpF (pgTine t) (oSATA (k - 4)) 16 16 1 s1
    else bumpF (pgTine t) oSATG 0 16 1 s1
  modTine t (fun x => { x with
    tsat := Tbl.set (fun _ => 0) x.tsat k (Tbl.get (fun _ => 0) x.tsat k + 1) }) s2

/-- TST as it reads: with the live GIU flags (R36, R48). -/
def tstRead (s : State) (t : Nat) : Word :=
  let w := reg s (pgTine t) oTST
  setB (setB (setB (setB w 0 (giu (getAcc s t 0))) 4 (giu (getAcc s t 1))) 8 (giu (getAcc s t 2))) 12
    (giu (getAcc s t 3))

/-- The arithmetic fault of a saturating retirement while ATE = 1 (R52). -/
def arithTrap (t : Nat) (sats : List Nat) (s : State) : State :=
  if sats = [] ∨ !regB s (pgTine t) oTST 17 then s
  else recordFault t { instrFault 0x05 (wd (getF (tstRead s t) 0 17)) with after := true } s

/-- A retirement with its saturation flags (R49, R52). -/
def retireSat (t len : Nat) (sats : List Nat) (s : State) : State :=
  let s1 := arithTrap t sats (forAll sats (satFlag t) s)
  retire t len s1

/-- An ALU instruction retires: Gd, flags, GSAT. -/
def aluRetire (t : Nat) (gd : Gr) (r : AluOut) (len : Nat) (s : State) : State :=
  retireSat t len (if r.gsat then [8] else []) (putFlags t r.flags (setG t gd r.val s))

/-- A compare retires: flags only. -/
def cmpRetire (t : Nat) (r : AluOut) (len : Nat) (s : State) : State :=
  retire t len (putFlags t r.flags s)

/-! ## Vectors and entries (R145, R146, R149, R150) -/

/-- The saved status of the state being left: S, W, LVL, condition flags, HALFDONE (R142). -/
def sstNow (s : State) (t : Nat) (half : Bool) : Word :=
  let w := reg s (pgTine t) oTST
  wd (getF w 20 4 * 2 ^ 20 + getF w 28 7 * 2 ^ 28 + b2n half * 2 ^ 35)

/-- Write a save set. -/
def saveSet (t k : Nat) (spc sst sls : Word) (s : State) : State :=
  setReg (pgTine t) (oSLS k) sls (setReg (pgTine t) (oSST k) sst (setReg (pgTine t) (oSPC k) spc s))

/-- LSTAT at an entry: FLOOR := LD, RA, RU, RC := 0 (R108). -/
def entryLstat (t : Nat) (s : State) : State :=
  let l := reg s (pgTine t) oLSTAT
  setReg (pgTine t) oLSTAT (wd (getF l 0 3 + 8 * getF l 0 3)) s

/-- Waiting in this way a tine counts as alive (R407). -/
def flightAlive (f : Option Flight) : Bool :=
  match f with
  | some .wait | some (.hpush _ _ _) | some (.ckpt _ _ _ _ _ _) => true
  | _ => false

/-- What waits is abandoned; where the tine was alive by it, the heartbeat's count starts afresh (R118, R407). -/
def abandon (t : Nat) (s : State) : State :=
  modTine t (fun x => { x with
    flight := none, window := [], fault := none, lastAlive := if flightAlive x.flight then s.now else x.lastAlive }) s

/-- Switch to level `lvl` in world `w` as supervisor at handler `pc` (R145 steps 2 to 7). -/
def enterLevel (t lvl : Nat) (w : Bool) (pc : Nat) (s : State) : State :=
  let s1 := entryLstat t s
  let s2 := setReg (pgTine t) oTST
    (setF (setF (setF (reg s1 (pgTine t) oTST) 28 1 1) 29 1 (b2n w)) 30 5 lvl) s1
  let s3 := setReg (pgTine t) oCLOCHE 0 s2
  modTine t (fun x => { x with pc := BitVec.ofNat 14 pc, entry := none, halfdone := false }) (abandon t s3)

/-- Physical address of a vector word (R146). -/
def vectorPa (s : State) (t : Nat) (w : Bool) (index : Nat) : Nat :=
  let base := regF s (pgTine t) (if w then oVBARW else oVBARO) 0 15
  trayBase t + 0x8000 + (base / 128 * 128 + index) % 0x8000

/-- Read a vector word: the handler PC, or none where it is not valid or unreadable. -/
def vectorRead (t : Nat) (w : Bool) (index : Nat) (up : Upset) (s : State) : Option Nat × State :=
  match memRead (vectorPa s t w index) up t s with
  | (.word v, s1) => (if bit v 39 then some (getF v 0 14) else none, s1)
  | (_, s1) => (none, s1)

/-- What a fault entry records (Table 6-7). -/
structure FaultCtx where
  cause : Nat
  sub : Nat
  addr : Nat
  info : Word
  phys : Bool
  /-- the fault arose during an entry -/
  entry : Bool
  /-- the cause being entered into F when it arose -/
  prev : Nat
  deriving DecidableEq, Repr

/-- The faults for which Table 6-4 names an address, and those for which it names FINFO. -/
def causeHasAddr (c : Nat) : Bool := decide (7 ≤ c)
def causeHasInfo (c : Nat) : Bool := decide (c ≠ 0x06) && decide (c ≠ 0x0C) && decide (c ≠ 0x0E)

/-- Write the fault record of F (0) or D (1); a field that Table 6-4 leaves without content is free (assumption 8). -/
def faultRecord (t d : Nat) (c : FaultCtx) (lvl : Nat) (w su : Bool) (s0 : State) : State :=
  let b := 0x2C8 + 4 * d
  let (a, s1) := drawWord s0
  let (i, s) := drawWord s1
  let addr := if causeHasAddr c.cause then wd (c.addr % 2 ^ 34) else a
  let info := if causeHasInfo c.cause then c.info else i
  setReg (pgTine t) (b + 2) info (setReg (pgTine t) (b + 1) addr (setReg (pgTine t) b
    (wd (c.cause + c.sub * 2 ^ 8 + lvl * 2 ^ 16 + b2n w * 2 ^ 21 + b2n su * 2 ^ 22 + b2n c.phys * 2 ^ 23 +
      b2n c.entry * 2 ^ 24 + (if d = 1 then c.prev else 0) * 2 ^ 32)) s))

/-- Enter D for a fault (R150); a fault of the entry itself is the third fault. `spc`, `sst`, `sls` are of the state
being left. -/
def enterD (t : Nat) (c : FaultCtx) (target : Bool) (spc sst sls : Word) (up : Upset) (s : State) : State :=
  match vectorRead t target 65 up s with
  | (some pc, s1) =>
    let s2 := saveSet t 17 spc sst sls s1
    let s3 := faultRecord t 1 c (tLvl s t) (tW s t) (tS s t) s2
    haltHeld t (enterLevel t 18 target pc (bumpF (pgTine t) oFLT 16 16 1 s3))
  | (none, s1) => thirdFault t s1

/-- A fault is taken (R148–R151): into F, into D while LVL = 17 or where the F entry itself faults, the third fault
beyond. `up` is what each vector read meets, F's first. -/
def takeFault (t : Nat) (c : FaultCtx) (world : Bool) (spc sst : Word) (upF upD : Upset) (s : State) : State :=
  let sls := reg s (pgTine t) oLSTAT
  let lvl := tLvl s t
  if lvl = 18 then thirdFault t s
  else if lvl = 17 then enterD t c (tW s t) spc sst sls upD s
  else
    match vectorRead t world 64 upF s with
    | (some pc, s1) =>
      let s2 := saveSet t 16 spc sst sls s1
      let s3 := faultRecord t 0 c lvl (tW s t) (tS s t) s2
      haltHeld t (enterLevel t 17 world pc (bumpF (pgTine t) oFLT 0 16 1 s3))
    | (none, s1) =>
      enterD t { cause := 0x0D, sub := 0, addr := vectorPa s t world 64, info := wd 64, phys := true, entry := true,
                 prev := c.cause } world spc sst sls upD s1

/-- The world of F for a fault (R148). -/
def faultWorld (s : State) (t : Nat) (f : FaultRec) : Bool :=
  if f.cause = 0x04 then (if 0x80 ≤ getF f.info 0 8 then true else tW s t) else tW s t

/-- Commit the entry for input `n` at level PRI + 1 (R145, R160, R164, R166), from the given saved state. A commit out of WAIT in
an open hold-off window opens the new window in place of the old one, also where that one would have ended later
(assumption 142). -/
def commitEntry (t n pc : Nat) (spc sst sls : Word) (s : State) : State :=
  let p := inPri s t n
  let w := inWalled s t n
  let s1 := saveSet t p spc sst sls s
  let s2 := recPush t p w n (setPend t n false s1)
  let h := regF s (pgTine t) (oSCFG n) 6 10
  let s3 := if h = 0 then s2 else modTine t (fun x => { x with hold := Tbl.set (fun _ => 0) x.hold n (s.now + h) }) s2
  haltCheck t (sieveUpdate t (enterLevel t (p + 1) w pc s3))

/-- The latency of a handler entry goes to its gauge in 0.1 ns units, clamped at 4,095 (R437, R442). -/
def latencyGauge (t latency : Nat) (s : State) : State :=
  match logOf s t with
  | some l => gaugeTake 3 l (min latency 4095 : Nat) (decide (4095 < latency)) s
  | none => s

/-- The entry of the chosen input reaches its commit point, or faults on its vector word (R149, R167, R168). A drain reported
meanwhile leaves it to end (R123); a fault that stands is taken first (R125). -/
def entryCommit (t : Nat) (up upF upD : Upset) (latency : Nat) (s : State) : State :=
  match (tineAt s t).entry with
  | none => s
  | some n =>
    if faultStands s t then s
    else
      match vectorRead t (inWalled s t n) n up s with
      | (some pc, s1) =>
        -- an asleep WAIT retires at the commit point (R167)
        let s2 := if asleep s1 t then
            let s' := advance t 1 s1
            alive t (wrapF (pgTine t) oRETIRED 0 40 1 s')
          else s1
        let spc := wd (tineAt s2 t).pc.toNat
        latencyGauge t latency
          (commitEntry t n pc spc (sstNow s2 t (tineAt s2 t).halfdone) (reg s2 (pgTine t) oLSTAT) s2)
      | (none, s1) =>
        let s2 := setEntry t none (setPend t n false s1)
        takeFault t { cause := 0x0D, sub := 0, addr := vectorPa s t (inWalled s t n) n, info := wd n, phys := true,
                      entry := true, prev := 0 } (tW s t) (wd (tineAt s t).pc.toNat)
          (sstNow s t (tineAt s t).halfdone) upF upD s2

end Sys2Proof.Machine
end

