-- ==== Sys2Proof/Machine/TineRegs.lean ====
section
/-! DEFINITION. The TINE page: what each register reads and what a write to it does, by MFC and MTC and by the memory
path (R65, R79, R84, R85, R144, R158, R165, R172, R196, R410). -/

namespace Sys2Proof.Machine

/-- A tine register as it reads, without access checks. -/
def tineRegRead (s : State) (t off : Nat) : Word :=
  let w := reg s (pgTine t) off
  let band := s.bandCap
  match off with
  | 0x041 =>
    let cap := regF s (pgTine t) oPACE 0 8
    wd (band + 256 * (if cap = 0 then band else min band cap))
  | 0x042 => setF w 0 4 (tineAt s t).sb.length
  | 0x0C0 => tstRead s t
  | 0x181 => setB w 20 (asleep s t && decide ((tineAt s t).entry = none))
  | _ => w

/-- An offset lies in the bank that a saved status names; LVL is 0–18 (R142, R144). -/
def sstBank (sst : Word) (off : Nat) : Bool :=
  decide (getF sst 30 5 ≤ 18) && decide (oBANK (getF sst 30 5) 0 ≤ off) && decide (off ≤ oBANK (getF sst 30 5) 3)

/-- What OS may reach of control numbers 0x200–0x2FF (R144). -/
def osReach (s : State) (t off : Nat) : Bool :=
  let lvl := tLvl s t
  let k := lvl - 1
  let sst := reg s (pgTine t) (oSST k)
  let own := decide (1 ≤ lvl) && !bit sst 29
  (own && decide (oSPC k ≤ off) && decide (off ≤ oSLS k)) ||
    (own && sstBank sst off) ||
    (decide (bankOff s t 0 ≤ off) && decide (off ≤ bankOff s t 3)) ||
    decide (off = oVBARO) ||
    (decide (0x2C8 ≤ off) && decide (off ≤ 0x2CA) && !regB s (pgTine t) (oSST 16) 29)

/-- What an access without a Walled grant reaches of them from outside (R158). -/
def outReach (s : State) (t off : Nat) : Bool :=
  (decide (0x280 ≤ off) && decide (off ≤ 0x2C7) && !regB s (pgTine t) (oSST ((off - 0x280) / 4)) 29) ||
    ((List.range 18).any fun k =>
      let sst := reg s (pgTine t) (oSST k)
      !bit sst 29 && sstBank sst off) ||
    (!tW s t && decide (bankOff s t 0 ≤ off) && decide (off ≤ bankOff s t 3)) ||
    decide (off = oVBARO) ||
    (decide (0x2C8 ≤ off) && decide (off ≤ 0x2CA) && !regB s (pgTine t) (oSST 16) 29)

/-- Offsets of the world and fault registers. -/
def isWorldReg (off : Nat) : Bool := decide (0x280 ≤ off) && decide (off < 0x380)

/-- A requester from outside is limited by R158. -/
def outLimited (s : State) (w : Who) : Bool :=
  match w with
  | .host | .probe => decide (sessLevel s w ≠ 2)
  | .chainWin b => !b
  | _ => false

/-- A read by the memory path. -/
def tinePageRead (s : State) (w : Who) (t off : Nat) : Word :=
  if isWorldReg off && outLimited s w && !outReach s t off then 0 else tineRegRead s t off

/-- A write of TINE_RQn_CTRL (R68, R79). -/
def rqCtrlWrite (t n : Nat) (v : Word) (s : State) : State :=
  let old := reg s (pgTine t) (oRQ n)
  let base := if getF v 2 3 < 6 then getF v 2 3 else getF old 2 3
  let s1 := setReg (pgTine t) (oRQ n) (wd (getF v 0 2 + 4 * base)) s
  if bit v 5 then
    setReg (pgTine t) (oRQ n + 6) 0 (setReg (pgTine t) (oRQ n + 5) 0 (setReg (pgTine t) (oRQ n + 4) 0 s1))
  else s1

/-- A write of a dither generator: 0 loads the reset state (R65). -/
def dthWrite (t : Nat) (b : Bool) (v : Word) (s : State) : State :=
  let x := getF v 0 32
  if b then setReg (pgTine t) oDTHB (wd (if x = 0 then 0x87654321 else x)) s
  else setReg (pgTine t) oDTHA (wd (if x = 0 then 0x12345679 else x)) s

/-- A write of TST: sticky flags by ones, ATE where `ateOk` (R51), condition flags; mode and level fields ignored. -/
def tstWrite (t : Nat) (ateOk : Bool) (v : Word) (s : State) : State :=
  let old := reg s (pgTine t) oTST
  let w := writeBySpec (tineSpec oTST) old v
  setReg (pgTine t) oTST (if ateOk then w else setF w 17 1 (getF old 17 1)) s

/-- A write of LSTAT, or of an SLS, which has its layout (R142); LD values 5–7 are ignored (Table 4-13). -/
def lstatWrite (t off : Nat) (v : Word) (s : State) : State :=
  let old := reg s (pgTine t) off
  let ld := if getF v 0 3 ≤ 4 then getF v 0 3 else getF old 0 3
  setReg (pgTine t) off (setF (wd (getF v 0 21)) 0 3 ld) s

/-- Drop leaves of one tine's cache (R196). -/
def tineInval (t : Nat) (all : Bool) (vaPage : Nat) (s : State) : State :=
  modTine t (fun x => { x with xcache := cacheKeep all vaPage x.xcache }) s

/-- A write of TINE_XCFG empties the cache (R196). -/
def xcfgWrite (t : Nat) (v : Word) (s : State) : State :=
  tineInval t true 0 (setReg (pgTine t) oXCFG (v &&& wd 0x3FFFFC001) s)

/-- A write of TINE_XINV (R196). -/
def xinvWrite (t : Nat) (v : Word) (s : State) : State :=
  if bit v 39 then tineInval t (bit v 38) (getF v 12 20) s else s

/-- Words the checkpoint of a tine declares (R409). -/
def ckptWords (s : State) (t : Nat) : Nat :=
  let c := reg s (pgTine t) oCKCFG
  b2n (bit c 1) + 2 * b2n (bit c 2) + 28 * b2n (bit c 3) + 12 * b2n (bit c 4) + 40 * b2n (bit c 5) +
    ((List.range 4).map fun r => regF s (pgTine t) (0x04C + r) 15 10).foldl (· + ·) 0

/-- A write to a tine register by requester `w`, which may reach it (R65, R85, R165, R172). -/
def tineRegWrite (w : Who) (t off : Nat) (v : Word) (s : State) : State :=
  let open' := !whoWalled s w
  if 0x080 ≤ off ∧ off ≤ 0x09F ∧ off % 8 = 0 then rqCtrlWrite t ((off - 0x080) / 8) v s
  else if 0x1C0 ≤ off ∧ off ≤ 0x1FF then sieveCfgWrite w open' t (off - 0x1C0) v s
  else if 0x4C ≤ off ∧ off ≤ 0x4F then setReg (pgTine t) off (writeBySpec (tineSpec off) (reg s (pgTine t) off) v) s
  else if 0x280 ≤ off ∧ off ≤ 0x2C6 ∧ off % 4 = 2 then lstatWrite t off v s
  else match off with
  -- in a Walled-owned page only by a Walled writer (R200)
  | 0x044 => if regB s (pgTine t) 7 0 && !walledWriter s w then s else xcfgWrite t v s
  | 0x045 => if regB s (pgTine t) 7 0 && !walledWriter s w then s else xinvWrite t v s
  -- only the tine's own store requests a checkpoint (R410), and that one does not come here
  | 0x049 => s
  | 0x0A0 => dthWrite t false v s
  | 0x0A1 => dthWrite t true v s
  -- ATE by the mode of the writer (R51); a writer that has no mode may write it (assumption 145)
  | 0x0C0 => tstWrite t (match w with
    | .tine p => tS s p
    | .store _ _ su => su
    | _ => true) v s
  | 0x0C1 => lstatWrite t oLSTAT v s
  | 0x180 => sieveEoi open' t s
  | 0x184 =>
    if bit v 39 && !(open' && inWalled s t (getF v 0 6)) then sieveClrPend t (getF v 0 6) s else s
  -- the writing tine alone is raised (R173, assumption 104)
  | 0x185 =>
    if bit v 39 then
      match w with
      | .tine p => raise p 63 s
      | .store p _ _ => raise p 63 s
      | _ => s
    else s
  | 0x188 => if open' && inWalled s t 62 then s else tmrCmpWrite t v s
  | 0x189 => if open' && inWalled s t 62 then s else setReg (pgTine t) off (wd (getF v 0 32)) s
  | 0x322 => wcfgWrite t v s
  | _ => setReg (pgTine t) off (writeBySpec (tineSpec off) (reg s (pgTine t) off) v) s

/-- A write by the memory path. -/
def tinePageWrite (w : Who) (t off : Nat) (v : Word) (s : State) : State :=
  if isWorldReg off && outLimited s w && !outReach s t off then s else tineRegWrite w t off v s

/-- What a control number needs of the mode (R85, R144, R165). -/
def ctlPriv (s : State) (t n : Nat) (write : Bool) : Bool :=
  !tS s t && ((decide (0x100 ≤ n) && decide (n < 0x180)) || (decide (0x200 ≤ n) && decide (n < 0x300)) ||
    (write && decide (n = 0x041)))

/-- The value MFC returns (R84, R144). -/
def ctlRead (s : State) (t n : Nat) : Word :=
  if 0x380 ≤ n then 0
  else if isWorldReg (n + 0x80) && !tW s t && !osReach s t (n + 0x80) then 0
  else tineRegRead s t (n + 0x80)

/-- The effect of MTC (R84, R144). -/
def ctlWrite (t : TineNo) (n : Nat) (v : Word) (s : State) : State :=
  if 0x380 ≤ n then s
  else if isWorldReg (n + 0x80) && !tW s t && !osReach s t (n + 0x80) then s
  else tineRegWrite (.tine t) t (n + 0x80) v s

end Sys2Proof.Machine
end

