-- ==== Sys2Proof/Machine/Nursery.lean ====
section
/-! DEFINITION. The Nursery: conditions of tines, retirement requests, checkpoints, uprooting, replacement, reinstatement,
and the NURS page (R404–R421); the checks of a tine's hopper access (R257). -/

namespace Sys2Proof.Machine

/-! ## A tine's hopper access (R257) -/

/-- The fault of an HPOP or HPUSH of hopper `h`, if any. -/
def hopFault (s : State) (t h : Nat) (pop : Bool) : Option FaultRec :=
  let f (sub : Nat) : FaultRec := accessFault 0x0E sub h 0 false
  if 254 ≤ h then some (f 1)
  else if hopSlots s h = 0 then some (f 2)
  else if !domUp s domTrel then some (f 3)
  else if regB s (pgHop h) (hopBase h + 2) 0 && !tW s t then some (accessFault 0x0A 0 h (Config.resourceKind 2) false)
  else if pop && !hopTineReader s h t then some (f 4)
  else if !pop && !hopTineWriter s h t then some (f 5)
  else none

/-! ## Conditions (R404, R405) -/

/-- The spare of a plot. -/
def spareOf (s : State) (p : Nat) : Option Nat :=
  let w := reg s pgNurs (0x0A0 + p)
  if bit w 8 then some (getF w 0 8) else none

/-- Name a plot's spare, or none. -/
def setSpare (p : Nat) (t : Option Nat) (s : State) : State :=
  match t with
  | some k => setRegB pgNurs 0x013 (20 + p) true (setReg pgNurs (0x0A0 + p) (wd (k + 0x100)) s)
  | none => setRegB pgNurs 0x013 (20 + p) false (setRegB pgNurs (0x0A0 + p) 8 false s)

/-- Mark a physical tine retired, or not. -/
def setRetired (t : Nat) (b : Bool) (s : State) : State :=
  setRegB pgNurs (0x0B0 + t / 32) (t % 32) b (modTine t (fun x => { x with retired := b }) s)

/-- Raise input 60 on every tine in service (R408). -/
def raise60 (s : State) : State :=
  forAll (List.range 128) (fun l x => match physOf x l with | some t => raise t 60 x | none => x) s

/-- What every retirement and reinstatement does (R408). -/
def nursReport (kind t : Nat) (data : Word) (s : State) : State := pageIrq pgNurs 0 (raise60 (frecAdd kind t data s))

/-! ## Checkpoints (R409, R410, R411, R413) -/

def ckptDflt : Nat → Ckpt := fun _ => Ckpt.reset

/-- The checkpoints of logical tine `l`. -/
def ckptAt (s : State) (l : Nat) : Ckpt := Tbl.get ckptDflt s.ckpts l
def setCkpt (l : Nat) (x : Ckpt) (s : State) : State := { s with ckpts := Tbl.set ckptDflt s.ckpts l x }

/-- Registers that the RQ group holds, in order. -/
def rqOffs : List Nat := ((List.range 4).map fun n => (List.range 7).map fun k => oRQ n + k).flatten

/-- Physical addresses of the data-tray words of tine `t` that range words declare, in order. -/
def ckptRange (t : Nat) (ranges : List Word) : List Nat :=
  (ranges.map fun w =>
    (List.range (getF w 15 10)).map fun k => trayBase t + 0x8000 + (getF w 0 15 + k) % 0x8000).flatten

/-- TINE_CKPT_R0 to R3. -/
def ckptRanges (s : State) (t : Nat) : List Word := (List.range 4).map fun r => reg s (pgTine t) (0x04C + r)

/-- The words of the declared groups and ranges of a tine (R409). -/
def ckptWordsNow (s : State) (t : Nat) : List Word :=
  let c := reg s (pgTine t) oCKCFG
  (if bit c 1 then [wd (regF s (pgTine t) oTST 0 20)] else []) ++
    (if bit c 2 then [reg s (pgTine t) oDTHA, reg s (pgTine t) oDTHB] else []) ++
    (if bit c 3 then rqOffs.map fun k => reg s (pgTine t) k else []) ++
    (if bit c 4 then ((List.range 4).map fun n => accImage (getAcc s t n)).flatten else []) ++
    (if bit c 5 then
      ((List.range 28).map fun i => Tbl.get (fun _ => (0 : Word)) (tineAt s t).g i) ++
        ((List.range 4).map fun j => reg s (pgTine t) (oBANK 0 j)) ++ ((List.range 8).map fun k => reg s (pgTine t) (oM k))
     else []) ++
    (ckptRange t (ckptRanges s t)).map fun pa => memGet s pa

/-- The copy that the Nursery takes of a tine (R410 step 2). -/
def ckptCopy (s : State) (t : Nat) : CkptCopy :=
  { walled := tW s t, sup := tS s t, cfg := reg s (pgTine t) oCKCFG, ranges := ckptRanges s t, words := ckptWordsNow s t }

/-- Store words to consecutive places. -/
def putEach {α : Type} (put : α → Word → State → State) (ks : List α) (ws : List Word) (s : State) : State :=
  forAll (ks.zip ws) (fun p x => put p.1 p.2 x) s

/-- Restore a checkpoint into a tine, as it was declared at its commit: the inverse of `ckptCopy`. -/
def ckptRestore (t : Nat) (k : CkptCopy) (s : State) : State :=
  let c := k.cfg
  let ws := k.words
  let rg (offs : List Nat) (ws : List Word) (s : State) : State := putEach (fun k v x => setReg (pgTine t) k v x) offs ws s
  let a := b2n (bit c 1)
  let b := a + 2 * b2n (bit c 2)
  let d := b + 28 * b2n (bit c 3)
  let e := d + 12 * b2n (bit c 4)
  let f := e + 40 * b2n (bit c 5)
  let s1 := if bit c 1 then setRegF (pgTine t) oTST 0 20 (getF (ws.headD 0) 0 20) s else s
  let s2 := if bit c 2 then rg [oDTHA, oDTHB] (ws.drop a) s1 else s1
  let s3 := if bit c 3 then rg rqOffs (ws.drop b) s2 else s2
  let s4 := if bit c 4 then
      forAll (List.range 4) (fun n x =>
        let w (k : Nat) : Word := (ws[d + 3 * n + k]?).getD 0
        setAcc t n (accOfImage (w 0) (w 1) (w 2)) x) s3
    else s3
  let s5 := if bit c 5 then
      let g := ws.drop e
      let s' := putEach (fun i v x => modTine t (fun y => { y with g := Tbl.set (fun _ => (0 : Word)) y.g i v }) x)
        (List.range 28) g s4
      rg ((List.range 4).map (oBANK 0) ++ (List.range 8).map oM) (g.drop 28) s'
    else s4
  putEach memPut (ckptRange t k.ranges) (ws.drop f) s5

/-- Release the items that logical tine `l` popped and that wait for its commit (R411). -/
def releaseItems (l : Nat) (s : State) : State :=
  { s with hops := Tbl.mapV hopDflt (fun _ x => { x with retained := x.retained.filter fun r => decide (r.2 ≠ l) }) s.hops }

/-- A store that wrote TINE_CKPT_GO retires: its other words enter the store buffer then (R116, R120). -/
def ckptRetire (t len : Nat) (others : List (Nat × Word)) (upds : List (Gr × Word)) (s : State) : State :=
  let ents : List StoreEnt := others.map fun e => { pa := e.1, data := .word e.2, walled := tW s t, sup := tS s t }
  retire t len (forAll upds (fun u x => setG t u.1 u.2 x)
    (modTine t (fun x => { x with sb := x.sb ++ ents, flight := none }) s))

/-- The tine's own store of `v` to TINE_CKPT_GO (R410): refused, or the commit is under way. -/
def ckptStore (t len : Nat) (v : Word) (others : List (Nat × Word)) (upds : List (Gr × Word)) (s : State) : State :=
  if !bit v 39 then ckptRetire t len others upds s
  else if tLvl s t ≠ 0 ∨ 888 < ckptWords s t then ckptRetire t len others upds (setRegB (pgTine t) oCKSTAT 17 true s)
  else modTine t (fun x => { x with flight := some (.ckpt (getF v 0 8) (bit v 8) none others upds len) }) s

/-- The new copy becomes current (R410 step 4): the commit. -/
def ckptBecome (t : Nat) (k : CkptCopy) (s : State) : State :=
  match logOf s t with
  | some l =>
    let st := reg s (pgTine t) oCKSTAT
    let x := ckptAt s l
    let s1 := setReg (pgTine t) oCKSTAT (setF (setB (setF st 0 16 (getF st 0 16 + 1)) 16 true) 18 4 0) s
    releaseItems l (setCkpt l
      { cur := some k, first := some (x.first.getD s.now), last := s.now,
        before := if x.first.isSome ∧ x.last = s.now then x.before else getF st 18 4 } s1)
  | none => s

/-- The copy and the push of a checkpoint end (R410): the copy is taken first, and with a full hopper it waits. -/
def ckptCommit (t : Nat) (s : State) : State :=
  match (tineAt s t).flight with
  | some (.ckpt h push copy others upds len) =>
    if !(tineAt s t).sb.isEmpty ∨ !(tineAt s t).drain.isEmpty then s
    else
      let k := copy.getD (ckptCopy s t)
      let fin (s : State) : State := ckptRetire t len others upds (ckptBecome t k s)
      if push then
        match hopFault s t h false with
        | some f => recordFault t f (alive t (modTine t (fun x => { x with flight := none }) s))
        | none =>
          match hopOffer h (reg s (pgTine t) oCKITEM) s with
          | (.full, _) => modTine t (fun x => { x with flight := some (.ckpt h push (some k) others upds len) }) s
          | (_, s1) => fin s1
      else fin s
  | _ => s

/-- Checkpoints become invalid (R413). -/
def ckptInvalid (l : Nat) (s : State) : State :=
  let s1 := setCkpt l { ckptAt s l with cur := none } s
  match physOf s l with
  | some t => setRegB (pgTine t) oCKSTAT 16 false s1
  | none => s1

/-- The end of a block window for logical tine `l` (CKPT_MISS of Table 18-1). A commit stamped with the tick of the boundary
belongs to the block that it opens (R32). -/
def ckptWindow (l : Nat) (s : State) : State :=
  let x := ckptAt s l
  let old := match x.first with
    | some a => decide (a < s.now)
    | none => false
  let new := x.first.isSome && decide (s.now ≤ x.last)
  let s1 := setCkpt l { x with first := if new then some s.now else none } s
  match physOf s l with
  | some t =>
    if regB s (pgTine t) oCKCFG 0 && !old && tineUp s t && !(tineAt s t).retired then
      let n := satAdd 15 (if new then x.before else regF s (pgTine t) oCKSTAT 18 4) 1
      let s2 := bumpF pgNurs 0x016 24 12 1 (setRegF (pgTine t) oCKSTAT 18 4 (if new then 0 else n) s1)
      let m := regF s pgNurs 0x012 16 4
      if m ≠ 0 ∧ m ≤ n then nursDecide t 3 s2 else s2
    else s1
  | none => s1

/-! ## Uprooting (R417) -/

/-- An OWN word leased to `l` is uprooted. -/
def uprootWord (l : Nat) (w : Word) : Word :=
  if bit w 1 && decide (getF w 2 7 = l) then setB (setB w 1 false) 9 true else w

/-- One registry entry is uprooted; `routeWr` writes a route register by physical address. -/
def uprootEntry (routeWr : Nat → Word → State → State) (l i : Nat) (s : State) : State :=
  let a := reg s pgNurs (0x0C0 + 2 * i)
  let b := reg s pgNurs (0x0C1 + 2 * i)
  let pa := getF a 0 34
  match getF a 34 2 with
  | 1 =>
    let w := memGet s pa
    if inShed' pa && bit w 39 && decide (getF w 32 7 = l) then memPut pa (setB (setB w 39 false) 31 true) s else s
  | 2 =>
    if bit b 7 && decide (getF b 0 7 = l) then
      let s1 := routeWr pa (wd (getF b 8 24)) s
      setRegB pgNurs (0x0C0 + 2 * i) 36 true (setRegB pgNurs (0x0C1 + 2 * i) 7 false s1)
    else s
  | _ => s
where
  inShed' (pa : Nat) : Bool := decide (0x04000000 ≤ pa) && decide (pa < 0x04400000)

/-- Uproot logical tine `l` (R417). -/
def uproot (routeWr : Nat → Word → State → State) (l : Nat) (s : State) : State :=
  let s1 := forAll (List.range 128) (fun c x =>
    setReg (pgTrch c) (chBase c + 3) (uprootWord l (reg x (pgTrch c) (chBase c + 3))) x) s
  let s2 := forAll (List.range 256) (fun h x =>
    setReg (pgHop h) (hopBase h + 2) (uprootWord l (reg x (pgHop h) (hopBase h + 2))) x) s1
  forAll (List.range 64) (uprootEntry routeWr l) s2

/-! ## Replacement (R414, R415) -/

/-- Copy `n` words of memory, uncorrectable words included. -/
def copyRange (src dst n : Nat) (s : State) : State :=
  let from' (a : Nat) : Bool := decide (src ≤ a) && decide (a < src + n)
  let put (l : List Nat) : List Nat :=
    let k := l.filter fun a => !(decide (dst ≤ a) && decide (a < dst + n))
    k.filter (fun a => decide (a < dst)) ++ (l.filter from').map (fun a => a - src + dst) ++ k.filter (fun a => decide (dst < a))
  let keep := s.mem.filter fun e => !(decide (dst ≤ e.1) && decide (e.1 < dst + n))
  { s with
    mem := keep.filter (fun e => decide (e.1 < dst)) ++ ((s.mem.filter fun e => from' e.1).map fun e => (e.1 - src + dst, e.2)) ++
      keep.filter (fun e => decide (dst < e.1))
    ue := put s.ue }

/-- Clear `n` words of memory. -/
def clearRange (dst n : Nat) (s : State) : State :=
  { s with
    mem := s.mem.filter fun e => !(decide (dst ≤ e.1) && decide (e.1 < dst + n))
    ue := s.ue.filter fun a => !(decide (dst ≤ a) && decide (a < dst + n)) }

/-- An uncorrectable word lies in a range. -/
def ueIn (s : State) (a n : Nat) : Bool := s.ue.any fun x => decide (a ≤ x) && decide (x < a + n)

/-- The TINE-page registers that step 4 of Table 18-2 copies. -/
def cfgOffs : List Nat :=
  [2, 5, 7, 0x040, 0x044, 0x047, 0x048, 0x04A, 0x04B, 0x04C, 0x04D, 0x04E, 0x04F, 0x188, 0x189, 0x320, 0x321, 0x322] ++
    (List.range 8).map oM ++ (List.range 64).map oSCFG ++
    ((List.range 4).map fun n => (List.range 4).map fun k => oRQ n + k).flatten

/-- Unlist every register of a page. -/
def clearPage (pg : Nat) (s : State) : State := { s with regs := s.regs.filter fun e => decide (e.1 / 1024 ≠ pg) }

/-- Steps 3 and 4 of Table 18-2. -/
def copyTine (t u : Nat) (s : State) : State :=
  let s1 := copyRange (trayBase t) (trayBase u) 0x4000 s
  let s2 := copyRange (trayBase t + 0x8000) (trayBase u + 0x8000) 0x8000 s1
  let bad := s2.ue.filter fun a => decide (trayBase u + 0x8000 ≤ a) && decide (a < trayBase u + 0x10000)
  let s3 := forAll bad (fun a x => memPut a 0 x) s2
  let s4 := clearPage (pgTine u) s3
  let s5 := forAll cfgOffs (fun k x => setReg (pgTine u) k (reg s (pgTine t) k) x) s4
  let s6 := setRegB (pgTine u) oSSTAT 21 (regB s (pgTine t) oSSTAT 21) s5
  setTine u Tine.reset s6

/-- Retained items of logical tine `l` return to it, in their pop order (R415). -/
def representItems (l : Nat) (s : State) : State :=
  { s with hops := Tbl.mapV hopDflt (fun _ x => { x with
      back := (x.retained.filter fun r => decide (r.2 = l)) ++ x.back
      retained := x.retained.filter fun r => decide (r.2 ≠ l) }) s.hops }

/-- Steps 5 and 6 of Table 18-2 on the spare `u`. -/
def startSpare (l u : Nat) (s : State) : State :=
  let ck := ckptAt s l
  let valid := regB s (pgTine u) oCKCFG 0
  let s1 := match ck.cur with
    | some k =>
      if valid then setRegF (pgTine u) oTST 28 2 (b2n k.sup + 2 * b2n k.walled) (ckptRestore u k s) else s
    | none => s
  let s2 := modTine u (fun x => { x with
    halt := .no, pc := BitVec.ofNat 14 (regF s (pgTine u) oCKCFG 6 14) }) s1
  alive u (representItems l s2)

/-- A checkpoint is there to be restored. -/
def hasCkpt (s : State) (l t : Nat) : Bool := regB s (pgTine t) oCKCFG 0 && (ckptAt s l).cur.isSome

/-- Write NURS_EVENT. -/
def nursEvent (l old new cause : Nat) (replayed : Bool) (tick : Nat) (s : State) : State :=
  setReg pgNurs 0x015
    (wd (l + 2 ^ 7 * old + 2 ^ 15 * new + 2 ^ 23 * cause + 2 ^ 26 * b2n replayed + 2 ^ 27 * (tick % 2 ^ 13))) s

/-- DATA of a retirement's entry (Table 20-3). -/
def retireData (l new cause : Nat) : Word := wd (l + 2 ^ 7 * new + 2 ^ 15 * cause)

/-- The Nursery carries out a decided retirement of tine `t` (R405, R414). -/
def nursReplace (routeWr : Nat → Word → State → State) (t cause tick : Nat) (s0 : State) : State :=
  let p := t / 9
  let s := setRetired t true (lockRemove t (modTine t (fun x => { x with locked := false }) s0))
  match logOf s t, spareOf s p with
  | none, sp =>
    let (l, s1) := drawNat (if sp = some t then setSpare p none s else s)
    nursReport 1 t (retireData (l % 128) 0xFF cause) s1
  | some l, none =>
    let s1 := setRegB pgNurs (0x020 + l) 8 true (uproot routeWr l s)
    nursReport 1 t (retireData l 0xFF cause) (nursEvent l t 0xFF cause false tick s1)
  | some l, some u =>
    let s1 := setSpare p none (setReg pgNurs (0x020 + l) (wd u) (uproot routeWr l s))
    let bad := ueIn s (trayBase t) 0x4000
    let s2 := copyTine t u s1
    let replayed := !bad && hasCkpt s2 l u
    let s3 := if bad then s2 else startSpare l u s2
    nursReport 1 t (retireData l u cause)
      (nursEvent l t u (if bad then 4 else cause) replayed tick s3)

/-- The retirement that is taken next: the earliest decided, among equals the lowest tine (R414). -/
def nextRetire (s : State) : Option (Nat × Nat × Nat) :=
  match s.retireQ with
  | [] => none
  | e :: _ => (s.retireQ.filter fun x => decide (x.2.2 = e.2.2)).foldl
      (fun acc x => match acc with
        | none => some x
        | some y => if x.1 < y.1 then some x else some y) none

/-! ## Retire and reinstate requests (R406, R407) -/

/-- Logical tine vacant in a plot, lowest first. -/
def vacantIn (s : State) (p : Nat) : Option Nat :=
  (List.range 8).find? (fun k => (physOf s (8 * p + k)).isNone) |>.map fun k => 8 * p + k

/-- A reinstatement attempt ends (R406). -/
def reinstEnd (t : Nat) (passed : Bool) (s : State) : State :=
  let p := t / 9
  let s1 := { s with reinst := none }
  if passed ∧ spareOf s p = none then
    let s2 := clearRange (trayBase t + 0x8000) 0x8000 (clearRange (trayBase t) 0x4000 s1)
    let s3 := setRetired t false (setTine t Tine.reset (clearPage (pgTine t) s2))
    let s4 := match vacantIn s p with
      | some l => setReg pgNurs (0x020 + l) (wd t) (setCkpt l { ckptAt s3 l with cur := none } s3)
      | none => setSpare p (some t) s3
    nursReport 2 t 1 s4
  else nursReport 2 t 0 (setRegB pgNurs 0x013 36 true s1)

/-- The test of a retired tine begins, or the attempt fails at once (R406). -/
def reinstStart (t : Nat) (s : State) : State :=
  if !regB s pgNurs (0x0B0 + t / 32) (t % 32) then s
  else if (spareOf s (t / 9)).isSome then reinstEnd t false s
  else { s with reinst := some t }

/-- A write of NURS_RETIRE with GO (R406, R407, R419). -/
def nursRetireWrite (v : Word) (s : State) : State :=
  let t := getF v 0 8
  if !bit v 39 ∨ 144 ≤ t then s
  else if bit v 8 then
    (if s.reinst.isSome || !s.retireQ.isEmpty then { s with reinstQ := s.reinstQ ++ [t] } else reinstStart t s)
  else nursDecide t 5 s

/-- Held reinstatements begin in turn, up to one that is under way. -/
def reinstGo (l : List Nat) (s : State) : State :=
  match l with
  | [] => s
  | t :: rest =>
    if s.reinst.isSome || !s.retireQ.isEmpty then { s with reinstQ := t :: rest } else reinstGo rest (reinstStart t s)

/-- Held reinstatements go on once nothing is under way (R419). -/
def reinstNext (s : State) : State := reinstGo s.reinstQ { s with reinstQ := [] }

/-- Held registry writes land once no replacement is under way (R418). -/
def leaseNext (s : State) : State :=
  if s.retireQ.isEmpty then
    forAll s.leaseHeld (fun e x => setReg pgNurs e.1 (e.2 &&& wd (nursSpec e.1).rw) x) { s with leaseHeld := [] }
  else s

/-- A write to a NURS register (R151, R420, R456). -/
def nursWrite (w : Who) (off : Nat) (v : Word) (s : State) : State :=
  if 0x0C0 ≤ off ∧ off ≤ 0x13F then
    (if !wsOrGrant s w then s
     else if s.retireQ.isEmpty then setReg pgNurs off (v &&& wd (nursSpec off).rw) s
     else { s with leaseHeld := s.leaseHeld ++ [(off, v)] })
  else match off with
  | 0x014 => if wsOrGrant s w then nursRetireWrite v s else s
  | 0x011 => if walledWriter s w && bit v 39 then lockClr s else s
  -- RO and W1C: open to every writer (R456)
  | 0x013 => setReg pgNurs off (writeBySpec (nursSpec off) (reg s pgNurs off) v) s
  | _ =>
    if walledWriter s w then setReg pgNurs off (writeBySpec (nursSpec off) (reg s pgNurs off) v) s else s

/-- What a NURS register reads. -/
def nursRead (s : State) (off : Nat) : Word :=
  match off with
  | 0x011 => setF (reg s pgNurs off) 16 8 (lockMore s)
  | 0x013 =>
    let w := reg s pgNurs off
    match nextRetire s with
    | some (t, _, _) =>
      let l := (logOf s t).getD 0
      let u := (spareOf s (t / 9)).getD 0xFF
      setF (setF (setF (setB w 0 true) 1 7 l) 8 8 u) 16 4 (min 15 (s.retireQ.length - 1))
    | none => w
  | _ => reg s pgNurs off

end Sys2Proof.Machine
end

