-- ==== Sys2Proof/Machine/NurseryCmds.lean ====
section
/-! DEFINITION. The commands of the Nursery (R404–R421). -/

namespace Sys2Proof.Machine

/-- A route register is written through its physical address (R417), as any write of it (R176): the route of a plot, bed, the
device or the chain. -/
def routeWrite (pa : Nat) (v : Word) (s : State) : State :=
  match regionOf pa with
  | .page pg off =>
    match pageKind pg with
    | some (k, i) =>
      match mboxAt k i off with
      | some (.chain, 4) => chainRouteWrite v s
      | some (.plot p, 4) => routeStore p pg off v s
      | some (.bed b, 4) => routeStore (16 + b) pg off v s
      | some (.device, 4) => routeStore 20 pg off v s
      | _ => s
    | none => s
  | _ => s

/-- A tine counts as alive now (Table 18-1): halted, locked, in WAIT, at a full hopper, or in a checkpoint. -/
def tineAliveNow (s : State) (t : Nat) : Bool :=
  let x := tineAt s t
  decide (x.halt ≠ .no) || x.locked ||
    flightAlive x.flight

/-- HEARTBEAT_STALL (R407). -/
def execHeartbeatStall (t : TineNo) (s : State) : Res :=
  .next (
    let hb := regF s pgNurs 0x012 0 16
    if hb ≠ 0 ∧ (logOf s t).isSome ∧ tineUp s t ∧ !tineAliveNow s t ∧ (tineAt s t).lastAlive + hb + 1 ≤ s.now then
      nursDecide t 2 s
    else s)

/-- NURS_RETIRE (R407, R419). -/
def execNursRetire (w : Who) (t : BitVec 8) (s : State) : Res :=
  .next (gated w pgNurs 0x014 (nursWrite w 0x014 (wd (t.toNat + 2 ^ 39))) s)

/-- REINSTATE (R406). -/
def execReinstate (w : Who) (t : BitVec 8) (s : State) : Res :=
  .next (gated w pgNurs 0x014 (nursWrite w 0x014 (wd (t.toNat + 2 ^ 8 + 2 ^ 39))) s)

/-- The Nursery's engine runs: some plot is in Run. -/
def nursRuns (s : State) : Bool := (List.range 16).any (domUp s)

/-- REINSTATE_TEST_DONE (R406): every word passed, or one failed. -/
def execReinstateTestDone (passed : Bool) (s : State) : Res :=
  .next (
    match s.reinst with
    | some t => if nursRuns s then reinstNext (reinstEnd t passed s) else s
    | none => s)

/-- TINE_REPLACEMENT (R414): the retirement decided first is carried out. -/
def execTineReplacement (s : State) : Res :=
  .next (
    match nextRetire s with
    | some (t, cause, tick) =>
      if nursRuns s then
        let s1 := { s with retireQ := s.retireQ.filter fun e => decide (e.1 ≠ t) }
        reinstNext (leaseNext (nursReplace routeWrite t cause tick s1))
      else s
    | none => s)

/-- TINE_CKPT_GO (R410): the tine's own store of `v` to its TINE_CKPT_GO, by a compact or a full store. It serializes, and here
issues once nothing is in flight. -/
def execTineCkptGo (t : TineNo) (full : Bool) (v : Word) (s : State) : Res :=
  .next (issueHead t (ckptStore t (if full then 2 else 1) v [] []) s)

end Sys2Proof.Machine
end

