-- ==== Sys2Proof/Machine/EthCmds.lean ====
section
/-! DEFINITION. The commands of the Ethernet MACs and of the audio PLL (R339–R353). -/

namespace Sys2Proof.Machine

/-- A MAC is on, its link is up and LINK can be reached. -/
def ethOn (s : State) (m : Nat) : Bool := regB s (pgEth m) 0x010 0 && ethLink s m && domUp s domLink

/-- A listener of MAC `m` matches a stream ID (R344); CRF listeners are number 64. -/
def listenerFor (s : State) (m sid : Nat) : Option Nat :=
  let crf := reg s (pgEth m) 0x0C8
  match findPos (fun i => bit (strmCfg s m false i) 0 &&
      decide (regF s (pgEth m) (strmB false i + 1) 0 32 + 2 ^ 32 * regF s (pgEth m) (strmB false i + 2) 0 32 = sid))
      (List.range 64) with
  | some i => some i
  | none =>
    if bit crf 0 && !bit crf 1 &&
        decide (regF s (pgEth m) 0x0C9 0 32 + 2 ^ 32 * regF s (pgEth m) 0x0CA 0 32 = sid) then some 64 else none

/-- The boot Ethertype (R370). -/
def etBoot : Nat := 0x88B5

/-- The class of a received frame: 1 gPTP, 2 host, 3 boot, 16 + listener; none where it matches no class (R344). -/
def frameClass (s : State) (m etype sid : Nat) : Option Nat :=
  if etype = 0x88F7 then some 1
  else if etype = 0x88B6 then some 2
  else if etype = etBoot then some 3
  else if etype = 0x22F0 then (listenerFor s m sid).map (16 + ·)
  else none

/-- A frame that has been classified goes on; a PDU of the CRF listener is a reference of the PLL (R344, R353). -/
def frameTaken (m k : Nat) (s : State) : State :=
  emit (.other "eth-rx" [m, k]) (if k = 80 then setMac m { macAt s m with crfAt := some s.now } s else s)

/-- ETH_FRAME_RECEIVE (R339, R344): the frame's length in bytes, whether its FCS is good, its Ethertype and stream ID. -/
def execEthFrameReceive (m : Fin 2) (len : Nat) (fcs : Bool) (etype : BitVec 16) (sid : BitVec 64) (s : State) : Res :=
  .next (
    if ethOn s m then
      if !fcs then bumpF (pgEth m) 0x016 16 16 1 s
      else if 1522 < len then bumpF (pgEth m) 0x016 0 16 1 s
      else match frameClass s m etype.toNat sid.toNat with
        | some k => frameTaken m k s
        | none => bumpF (pgEth m) 0x016 0 16 1 s
    else s)

/-- gPTP frames are handled on the MAC whose EN is 1. -/
def ptpOn (s : State) (m : Nat) : Bool := ethOn s m && regB s (pgEth m) 0x018 0

/-- A better master has been heard within three announce intervals of 1 s (R340, assumption 124). -/
def masterHeard (s : State) (m : Nat) : Bool :=
  match (macAt s m).master with
  | some t => decide (s.now < t + 3000000)
  | none => false

/-- A slave takes the offset of a Sync: the correction that it makes to the time is free (assumption 12). -/
def syncOffset (m : Nat) (o : Int) (s : State) : State :=
  let (d, s1) := drawNat s
  let x := macAt s1 m
  let s2 := setMac m { x with offs := (o :: x.offs).take 8, ptp := x.ptp + d, syncWait := false } s1
  ptpStatus m false (setRegF (pgEth m) 0x019 2 30 (modI 30 o) s2)

/-- An untagged gPTP frame put into queue 3 at the local time `t` (R339, R341): 0 Sync, 1 Follow_Up, 2 Pdelay_Req, 3 Pdelay_Resp, 4
Pdelay_Resp_Follow_Up, 5 Announce. -/
def ptpFrame (m t kind len : Nat) (s : State) : State :=
  macQueueAt m t { queue := 3, len := len, tag := none, data := [kind] } s

/-- GPTP_MESSAGE (R340, R345): an Announce of a better master makes the station a slave, a Sync of that master gives its
`offset` in ns, at once or with its Follow_Up, and a Pdelay request is answered in two steps. -/
def execGptpMessage (m : Fin 2) (msg : GptpMsg) (offset : Int) (s : State) : Res :=
  .next (
    if ptpOn s m then
      match msg with
      | .announce prio1 tie =>
        let own := regF s (pgEth m) 0x018 1 8
        if prio1.toNat < own ∨ (prio1.toNat = own ∧ tie) then
          ptpStatus m false (setMac m { macAt s m with master := some s.now } s)
        else s
      | .sync twoStep =>
        if !masterHeard s m then s
        else if twoStep then setMac m { macAt s m with syncWait := true } s else syncOffset m offset s
      | .followUp => if masterHeard s m ∧ (macAt s m).syncWait then syncOffset m offset s else s
      | .pdelayReq => ptpFrame m (wireAt s 0 0) 4 72 (ptpFrame m (wireAt s 0 0) 3 72 s)
      | .pdelayResp => s
    else s)

/-- A window of `n` ticks has passed since `t`, or none has begun. -/
def passed (s : State) (t : Option Nat) (n : Nat) : Bool :=
  match t with
  | some x => decide (x + n ≤ s.now)
  | none => true

/-- SYNC_INTERVAL (R340, R345): each 2^−SYNCEXP s, `sub` ns into the present tick. A station that hears no better master is grandmaster and sends Sync and
Follow_Up; once a second a grandmaster sends Announce, and every station Pdelay_Req. -/
def execSyncInterval (m : Fin 2) (sub : Fin 1000) (s : State) : Res :=
  .next (
    if ptpOn s m ∧ passed s (macAt s m).syncAt (1000000 / 2 ^ min 5 (regF s (pgEth m) 0x018 9 3)) then
      let gm := !masterHeard s m
      let second := passed s (macAt s m).annAt 1000000
      let x := macAt s m
      let t := wireAt s sub 0
      let s1 := ptpStatus m gm (setMac m { x with syncAt := some s.now, annAt := if second then some s.now else x.annAt } s)
      let s2 := if gm then ptpFrame m t 1 94 (ptpFrame m t 0 64 s1) else s1
      let s3 := if second ∧ gm then ptpFrame m t 5 94 s2 else s2
      if second then ptpFrame m t 2 72 s3 else s3
    else s)

/-- The sample words of a frame: value × 2^(37 − w) (R347). -/
def aafWords (w : Nat) (raw : List Nat) : List Word := raw.map fun x => wi (sx w x * (2 ^ (37 - w) : Nat))

/-- Sample rate in Hz of an AAF nsr code (IEEE 1722-2016). -/
def nsrHz (nsr : Nat) : Nat :=
  match nsr with
  | 1 => 8000 | 2 => 16000 | 3 => 32000 | 4 => 44100 | 5 => 48000 | 6 => 88200 | 7 => 96000 | 8 => 176400
  | 9 => 192000 | _ => 24000

/-- Duration in ns of the samples of a frame, rounded down. -/
def frameSpanNs (cfg : Word) : Nat := (getF cfg 10 6 + 1) * 1000000000 / nsrHz (getF cfg 16 4)

/-- A received AAF frame is as STRM_CFG says (R350). The bit depth is all of the format's bits (assumption 154). -/
def aafMatches (cfg : Word) (fmt : AafFormat) (ch nsr : Nat) : Bool :=
  decide (fmt.code = getF cfg 3 2) && decide (fmt.depth = fmtBits (getF cfg 3 2)) && decide (ch = getF cfg 5 5 + 1) && decide (nsr = getF cfg 16 4)

/-- LISTENER_FRAME (R350): format, channels, nsr, sequence_num, tv, avtp_timestamp and the samples of a frame,
`sub` ns into the present tick. -/
def execListenerFrame (m : Fin 2) (i : Fin 64) (fmt : AafFormat) (ch nsr : Nat) (seq : BitVec 8) (tv : Bool) (ts : BitVec 32)
    (raw : List Nat) (sub : Fin 1000) (s : State) : Res :=
  .next (
    let cfg := strmCfg s m false i
    let k := strmNo m false i
    let x := strmAt s k
    let n := match x.expect with | some e => (seq.toNat + 256 - e) % 256 | none => 0
    if !ethOn s m || !bit cfg 0 then s
    else if !aafMatches cfg fmt ch nsr then bumpF (pgEth m) 0x016 0 16 1 s
    else if 128 ≤ n then strmBump k 1 1 s
    else
      let now := ptpNow s m sub % 2 ^ 32
      let pres := if tv then ts.toNat
        else match x.pres with | some p => (p + frameSpanNs cfg) % 2 ^ 32 | none => now
      let zeros := if 1 ≤ n ∧ n ≤ 8 then List.replicate (n * ((getF cfg 10 6 + 1) * ch)) (0 : Word) else []
      let s1 := if 0 < n then strmBump k 0 n s else s
      let s2 := if 9 ≤ n then setFifo (strmKey k) [] s1 else s1
      let sched := if 9 ≤ n then [] else (strmAt s2 k).sched
      let ws := zeros ++ aafWords (fmtBits (getF cfg 3 2)) raw
      let y := { strmAt s2 k with expect := some ((seq.toNat + 1) % 256), pres := some pres }
      if 2 ^ 31 ≤ (pres + 2 ^ 32 - now) % 2 ^ 32 then
        listenerEnter m i ws (strmBump k 1 1 (setStrm k { y with sched := sched } s2))
      else setStrm k { y with sched := schedInsert sched pres ws } s2)

/-- LISTENER_PRESENT (R350): the earliest scheduled frame whose presentation time has come enters the FIFO. -/
def execListenerPresent (m : Fin 2) (i : Fin 64) (sub : Fin 1000) (s : State) : Res :=
  .next (
    let k := strmNo m false i
    let x := strmAt s k
    let now := ptpNow s m sub % 2 ^ 32
    let due (e : Nat × List Word) : Bool := decide ((now + 2 ^ 32 - e.1) % 2 ^ 32 < 2 ^ 31)
    if domUp s domLink && bit (strmCfg s m false i) 0 then
      match findPos due x.sched with
      | some j =>
        let ws := ((x.sched[j]?).map (·.2)).getD []
        listenerEnter m i ws (setStrm k { x with sched := dropAt x.sched j } s)
      | none => s
    else s)

/-- TALKER_FRAME (R349): an SPF-th sample instant, `sub` ns into the present tick, from which the frame waits. -/
def execTalkerFrame (m : Fin 2) (i : Fin 64) (sub : Fin 1000) (s : State) : Res :=
  .next (
    if strmRuns s m true i then
      let cfg := strmCfg s m true i
      let k := strmNo m true i
      let n := (getF cfg 5 5 + 1) * (getF cfg 10 6 + 1)
      let w := fmtBits (getF cfg 3 2)
      let q := fifoAt s (strmKey k)
      let (ys, s1) :=
        if n ≤ q.length then
          let (ys, s1) := talkNarrows m i w (q.take n) (setFifo (strmKey k) (q.drop n) s)
          (ys, forAll (q.take n) (fun x t => gaugeTake 1 (strmSrc m true i) (sw x / 256) false t) s1)
        else (List.replicate n (0 : Int), strmBump k 2 1 (strmFlag m true i 13 s))
      let x := strmAt s1 k
      let ts := (ptpNow s m sub + 1000 * regF s (pgEth m) (strmB true i + 4) 28 12) % 2 ^ 32
      let s2 := setStrm k { x with seq := (x.seq + 1) % 256 } s1
      let vid := getF (reg s (pgEth m) (strmB true i + 4)) 16 12
      let pcp := getF (reg s (pgEth m) 0x010) (if bit cfg 2 then 6 else 3) 3
      macQueueAt m (wireAt s2 sub 0)
        { queue := if bit cfg 2 then 1 else 2, len := 46 + n * (w / 8), tag := some (vid + 4096 * pcp),
          data := [3, i.val, x.seq, ts] ++ ys.map (fun y => modI 32 y) } s2
    else s)

/-- MAC_TRANSMIT (R341–R343), the frame before and its gap having ended. The MAC's clock stands `sub` ns and `tenth` into the
present tick, and gPTP time, which REFIN and the servo move, `psub` ns. -/
def execMacTransmit (m : Fin 2) (sub : Fin 1000) (tenth : Fin 10) (psub : Fin 1000) (s : State) : Res :=
  .next (
    let t := wireAt s sub tenth
    if ethOn s m ∧ (macAt s m).gapEnd ≤ t then
      let s1 := macCredits m t s
      match macPick s1 m (ptpNow s m psub) with
      | some (k, f) =>
        let x := macAt s1 m
        let fin := t + frameTime (portRate s m) f.len
        emit (.other "eth-tx" ([m.val, f.queue, f.len] ++ (match f.tag with | some v => [1, v] | none => [0]) ++ f.data))
          (setMac m { x with
            frames := dropAt x.frames k, lastQ := f.queue, txEnd := fin, gapEnd := fin + gapTime (portRate s m) } s1)
      | none => s1
    else s)

/-- The gates of the entry in force open and close, from gPTP time `t` on. -/
def gclApply (m i t : Nat) (s : State) : State :=
  setMac m { macAt s m with entry := i, entAt := t, gates := (gclEntry s m (regB s (pgEth m) 0x020 1) i).1 } s

/-- The latest cycle start by the end of the present tick: BASE + k × CYCLE; none before BASE, or with a CYCLE out of its range
(R340, R343). -/
def gclStart (s : State) (m : Nat) : Option Nat :=
  let c := gclCycle s m
  let e := ptpNow s m 999
  if gclCycleOk s m ∧ gclBase s m ≤ e then some (gclBase s m + (e - gclBase s m) / c * c) else none

/-- GCL_CYCLE_START (R343): a cycle starts in the present tick. -/
def execGclCycleStart (m : Fin 2) (s : State) : Res :=
  .next (
    match gclStart s m with
    | some c =>
      if domUp s domLink && regB s (pgEth m) 0x020 0 && decide ((macAt s m).cycle ≠ some c) then
        let x := macAt s m
        let swaps := match x.swap with | some w => decide (w < c) | none => false
        let s1 := setMac m { x with cycle := some c, swap := if swaps then none else x.swap }
          (if swaps then setRegB (pgEth m) 0x020 1 (!regB s (pgEth m) 0x020 1) s else s)
        gclApply m 0 c s1
      else s
    | none => s)

/-- GCL_ENTRY_START (R343): the entry's interval ends within the cycle and by the end of the present tick; after the last
entry its gates hold. -/
def execGclEntryStart (m : Fin 2) (s : State) : Res :=
  .next (
    let x := macAt s m
    match x.cycle with
    | some c =>
      let i := x.entry + 1
      let t := x.entAt + (gclEntry s m (regB s (pgEth m) 0x020 1) x.entry).2
      if domUp s domLink && regB s (pgEth m) 0x020 0 && decide (i < gclCount s m (regB s (pgEth m) 0x020 1)) &&
          decide (t < c + gclCycle s m) && decide (t ≤ ptpNow s m 999) then gclApply m i t s
      else s
    | none => s)

/-- GCL_SWAP (R343): a write of ETH_GCL_CTRL with SWAP set. -/
def execGclSwap (w : Who) (m : Fin 2) (s : State) : Res :=
  .next (gated w (pgEth m) 0x024 (ethWrite m 0x024 (wd (2 ^ 39))) s)

/-- CRF_TALKER_PDU (R353): the sixth timestamp event, each of the six with its gPTP time, while the PLL's sample instants run. Six events
span 6 × TSI instants after the PDU before, and 5 × TSI at the talker's start or the PLL's (assumption 120). -/
def execCrfTalkerPdu (m : Fin 2) (ev : CrfEvents) (s : State) : Res :=
  .next (
    let c := reg s (pgEth m) 0x0C8
    let tsi := getF c 3 16
    let due := decide ((macAt s m).crfDue ≤ s.now + 1) && decide (s.pllFrom + crfTicks c (5 * tsi) ≤ s.now + 1)
    if ethOn s m && bit c 0 && bit c 1 && s.pllRuns && due then
      macQueueAt m (wireAt s ev.sub 0)
        { queue := 3, len := 90, tag := some Config.plainTag,
          data := [4, ev.t0, ev.t1, ev.t2, ev.t3, ev.t4, ptpNow s m ev.sub] }
        (setMac m { macAt s m with crfDue := s.now + crfTicks c (6 * tsi) } s)
    else s)

/-- ETH_PTP_CFG_WRITE (R345). -/
def execEthPtpCfgWrite (w : Who) (m : Fin 2) (v : Word) (s : State) : Res :=
  .next (gated w (pgEth m) 0x018 (ethWrite m 0x018 v) s)

/-- ETH_PTP_TIME_READ (R345): a read of ETH_PTP_TIME_NS, `sub` ns into the present tick. -/
def execEthPtpTimeRead (w : Who) (m : Fin 2) (sub : Fin 1000) (s : State) : Res :=
  .next (
    match regGate s w (pgEth m) 0x01A with
    | .ok => let (v, s1) := ptpRead m sub s; { s1 with readData := v }
    | g => denied w (pgEth m) 0x01A g { s with readData := 0 })

/-- STRM_CFG_WRITE (R348). -/
def execStrmCfgWrite (w : Who) (m : Fin 2) (talk : Bool) (i : Fin 64) (v : Word) (s : State) : Res :=
  .next (gated w (pgEth m) (strmB talk i) (strmCfgWrite m talk i v) s)

/-- ETH_QAV_WRITE (R342): ETH_QAVA or, with `b`, ETH_QAVB. -/
def execEthQavWrite (w : Who) (m : Fin 2) (b : Bool) (v : Word) (s : State) : Res :=
  .next (gated w (pgEth m) (if b then 0x015 else 0x014) (qavWrite m b v) s)

/-- ETH_LINK_UP (R348). -/
def execEthLinkUp (m : Fin 2) (s : State) : Res :=
  .next (if domUp s domLink then setRegB (pgEth m) 0x011 0 true s else s)

/-- ETH_LINK_DOWN (R348). -/
def execEthLinkDown (m : Fin 2) (s : State) : Res :=
  .next (if domUp s domLink then setRegB (pgEth m) 0x011 0 false s else s)

/-! ## The audio PLL (R351, R352) -/

/-- DEV_APLL_CFG.RUN. -/
def apllOn (s : State) : Bool := regB s pgDev 0x050 3

/-- Something that uses the PLL is enabled (R351): a Hoe, a cell tied to a clock group mode, a stream or a CRF function. -/
def apllUsed (s : State) : Bool :=
  ((List.range 4).any fun r =>
    (List.range 32).any (fun h => hEn s r h) ||
    (List.range 128).any fun c => cEn s r c && [2, 3, 4, 5, 10].contains (cFunc s r c)) ||
  (List.range 2).any fun m =>
    regB s (pgEth m) 0x0C8 0 || (List.range 64).any fun i => bit (strmCfg s m false i) 0 || bit (strmCfg s m true i) 0

/-- A write of DEV_APLL_CFG (R351, R352). -/
def apllCfgWrite (v : Word) (s : State) : State :=
  let old := reg s pgDev 0x050
  let nw := v &&& wd 0xF
  if bit old 3 ∧ !bit v 3 then
    if apllUsed s then setRegB pgDev 0x051 26 true s
    else
      setRegF pgDev 0x051 0 2 0 (setReg pgDev 0x050 nw (pllStop s))
  else if bit old 3 ∧ getF v 0 2 ≠ getF old 0 2 then
    setRegB pgDev 0x051 0 false (setRegB pgDev 0x051 1 (s.pllRuns) (setReg pgDev 0x050 nw { s with apllFrom := s.now }))
  else setReg pgDev 0x050 nw (if bit v 3 ∧ !bit old 3 then { s with apllFrom := s.now } else s)

/-- APLL_RUN_WRITE (R351): a write of the present reference with RUN as given. -/
def execApllRunWrite (w : Who) (run : Bool) (s : State) : Res :=
  .next (gated w pgDev 0x050 (fun s => apllCfgWrite (setB (reg s pgDev 0x050) 3 run) s) s)

/-- APLL_SRC_CHANGE (R352): a write of SRC and CRFMAC with the present RUN. -/
def execApllSrcChange (w : Who) (src : BitVec 2) (crfmac : Bool) (s : State) : Res :=
  .next (gated w pgDev 0x050
    (fun s => apllCfgWrite (setB (setF (reg s pgDev 0x050) 0 2 src.toNat) 2 crfmac) s) s)

/-- Store the PLL's phase error in ns. -/
def apllErr (pherr : Int) (s : State) : State := setRegF pgDev 0x051 2 24 (modI 24 (satI 24 pherr)) s

/-- Sixteen windows of 1 ms can have passed since the PLL began to acquire, and since its reference came; free running has no
reference to compare with (R351, assumption 125). -/
def lockDue (s : State) : Bool :=
  decide (regF s pgDev 0x050 0 2 = 0) ||
    (decide (s.apllFrom + 16000 ≤ s.now) &&
      match s.refSince with
      | some t => decide (t + 16000 ≤ s.now)
      | none => false)

/-- The reference has been absent for 4 ms, as far as the device's own state tells (R352). -/
def refGone (s : State) : Bool :=
  match regF s pgDev 0x050 0 2 with
  | 2 => !ptpGood s && decide (s.refLast + 4000 ≤ s.now)
  | _ => !refHere s

/-- PLL_LOCK (R351, R352): the phase error has stayed within ±50 ns through 16 windows of a reference that is there. -/
def execPllLock (pherr : Int) (s : State) : Res :=
  .next (
    if apllOn s && !pllLock s && refHere s && lockDue s && decide (pherr.natAbs ≤ 50) then
      waitEvent 1 { setRegB pgDev 0x051 0 true (setRegB pgDev 0x051 1 false (apllErr pherr s)) with
        pllRuns := true, blkFrom := if s.pllRuns then s.blkFrom else s.now, pllFrom := if s.pllRuns then s.pllFrom else s.now }
    else s)

/-- PLL_LOSS (R352, R448): the phase error exceeds 1 µs, or the reference is absent for 4 ms, which of REFIN the command
says. -/
def execPllLoss (pherr : Int) (s : State) : Res :=
  .next (
    if pllLock s ∧ (1000 < pherr.natAbs ∨ refGone s ∨ regF s pgDev 0x050 0 2 = 1) then
      frecAdd 9 0x350 0 (bumpF pgDev 0x052 0 16 1
        (setRegB pgDev 0x051 0 false (setRegB pgDev 0x051 1 true (apllErr pherr { s with apllFrom := s.now }))))
    else s)

end Sys2Proof.Machine
end

