-- ==== Sys2Proof/Machine/HostQ.lean ====
section
/-! DEFINITION. The host queue engine: rings, landing slots, checks, completion, holding buffers and the HOST page
(R320, R324–R338). -/

namespace Sys2Proof.Machine

def hqDflt : Nat → HQ := fun _ => HQ.reset

/-- Queue `q`. -/
def hqAt (s : State) (q : Nat) : HQ := Tbl.get hqDflt s.hq q
def setHq (q : Nat) (x : HQ) (s : State) : State := { s with hq := Tbl.set hqDflt s.hq q x }
def modHq (q : Nat) (f : HQ → HQ) (s : State) : State := setHq q (f (hqAt s q)) s

def hostEn (s : State) : Bool := regB s pgHost 0x010 0
def hostIface (s : State) : Nat := regF s pgHost 0x010 1 2

/-- Physical address of a Shed word offset. -/
def shedPa (off : Nat) : Nat := 0x04000000 + off

/-- A range of words lies in Shed. -/
def inShed (pa n : Nat) : Bool := decide (0x04000000 ≤ pa) && decide (pa + n ≤ 0x04400000)

/-! ## Bytes in Shed words, four to a word (R326) -/

/-- `n` bytes from word address `pa`. -/
def shedBytes (s : State) (pa n : Nat) : List Byte :=
  (((List.range ((n + 3) / 4)).map fun k => toLe 4 (getF (memGet s (pa + k)) 0 32)).flatten).take n

/-- Put bytes into words, the last one zero-filled. -/
def putBytes (pa k : Nat) (bs : List Byte) (s : State) : State :=
  forAll (List.range k) (fun i x => memPut (pa + i) (wd (numAt bs (4 * i) 4)) x) s

/-! ## Landing slots (R327) -/

/-- Physical address of slot `k` of a queue. -/
def slotPa (x : HQ) (k : Nat) : Nat := shedPa (x.land + k * (16 + x.dbufw))

/-- Bytes of the entry in a slot. -/
def slotNum (s : State) (x : HQ) (k i n : Nat) : Nat := numAt (shedBytes s (slotPa x k) 64) i n

/-- Replace the slot at position `i`. -/
def setSlot (q i : Nat) (y : HSlot) (s : State) : State := modHq q (fun x => { x with slots := setAt x.slots i y }) s

/-- Opcodes that the admin queue assigns to the engine and the sequencers (R330, R384, R403, R434, Table 20-2). -/
def adminExec (opc : Nat) : Bool :=
  (decide (1 ≤ opc) && decide (opc ≤ 4)) || (decide (0x10 ≤ opc) && decide (opc ≤ 0x14)) || decide (opc = 0x18) ||
    decide (opc = 0x19) || (decide (0x20 ≤ opc) && decide (opc ≤ 0x26)) || (decide (0x30 ≤ opc) && decide (opc ≤ 0x36))

/-- Reserved bits and bytes of an entry are 0 (Tables 14-2, 14-4). -/
def entryZeros (bs : List Byte) : Bool :=
  let opc := numAt bs 0 1
  decide (numAt bs 1 1 / 32 = 0) && decide (numAt bs 20 4 = 0) &&
    (!(decide (1 ≤ opc) && decide (opc ≤ 4)) || decide (numAt bs 4 4 = 0)) &&
    (decide (opc ≠ 2) && decide (opc ≠ 4) || decide (numAt bs 8 12 = 0)) &&
    (decide (opc ≠ 3) || decide (numAt bs 29 1 = 0)) && (decide (opc ≠ 1) || decide (numAt bs 37 1 = 0))

/-- The status of a fetched entry by R329, the data copy apart; 0 where it passes. -/
def entryCheck (s : State) (q : Nat) (bs : List Byte) : Nat :=
  let opc := numAt bs 0 1
  let dptr := numAt bs 8 8
  let dlen := numAt bs 16 4
  if !entryZeros bs then 0x0002
  else if opc < 0x40 ∧ !adminExec opc then 0x0001
  else if q ≠ 0 ∧ opc < 0x40 then 0x0008
  else if 4 * (hqAt s q).dbufw < dlen then 0x0004
  else if hostIface s = 0 then (if dptr % 4 = 0 then 0 else 0x0002)
  else if 0 < dlen ∧ !inShed dptr ((dlen + 3) / 4) then 0x0002
  else 0

/-- Count in MALF_CNT. -/
def malf (q : Nat) (s : State) : State := bumpF pgHost (0x103 + 4 * q) 16 16 1 s

/-- Requests of at most `m` bytes that cover `n` bytes from `addr` (R321). -/
def pcieParts (fuel m addr n : Nat) : List (Nat × Nat) :=
  match fuel with
  | 0 => []
  | f + 1 => if n ≤ m then [(addr, n)] else (addr, m) :: pcieParts f m (addr + m) (n - m)

/-- Read requests to the host, 512 bytes at most each (R321). -/
def pcieRead (addr n : Nat) (s : State) : State :=
  forAll (pcieParts n 512 addr n) (fun e x => emit (.other "pcie-read" [e.1, e.2]) x) s

/-- Posted writes of bytes to the host, 256 bytes at most each (R321). -/
def pcieWrite (addr : Nat) (bs : List Byte) (s : State) : State :=
  forAll (pcieParts bs.length 256 addr bs.length) (fun e x =>
    emit (.other "pcie-write" (e.1 :: ((bs.drop (e.1 - addr)).take e.2).map (·.toNat))) x) s

/-- Finish a slot with a status; a write-back follows where data goes to the host (R333). -/
def slotDone (q i : Nat) (y : HSlot) (status result : Nat) (data : Bool) (s : State) : State :=
  setSlot q i { y with st := if data && y.dir && decide (0 < y.dlen) then .writing status result
                             else .finished status result } s

/-- What an entry is after its checks and its data copy: executed here, or handed over (R331, R332). -/
def slotReady (q i : Nat) (y : HSlot) (s : State) : State :=
  setSlot q i { y with st := if q = 0 ∧ y.opc < 0x40 then .exec else .ready } s

/-- The data of an entry has arrived, or has failed (R328, R329). -/
def dataLand (q i : Nat) (y : HSlot) (ok : Bool) (bs : List Byte) (s : State) : State :=
  if ok then
    let x := hqAt s q
    slotReady q i y (putBytes (slotPa x y.slot + 16) ((y.dlen + 3) / 4) (bs.take y.dlen) s)
  else slotDone q i y 0x0003 0 false (malf q s)

/-- An entry has arrived in the slot at position `i` of a queue (R328, R329). -/
def entryLand (q i : Nat) (y0 : HSlot) (bs : List Byte) (s : State) : State :=
  let x := hqAt s q
  let y : HSlot := { y0 with
    opc := numAt bs 0 1, pri := numAt bs 1 1 % 16, dir := decide (numAt bs 1 1 / 16 % 2 = 1), cid := numAt bs 2 2,
    dptr := numAt bs 8 8, dlen := numAt bs 16 4 }
  let s1 := putBytes (slotPa x y.slot) 16 bs s
  let c := entryCheck s1 q bs
  if c ≠ 0 then slotDone q i y c 0 false (malf q s1)
  else if !y.dir && decide (0 < y.dlen) then
    (if hostIface s1 = 0 then
      pcieRead y.dptr y.dlen (setSlot q i { y with st := .copying s1.now } s1)
     else
      let n := (y.dlen + 3) / 4
      let bad := (List.range n).any fun k => ueAt s1 (y.dptr + k)
      dataLand q i y (!bad) (shedBytes s1 y.dptr y.dlen) s1)
  else slotReady q i y s1

/-- A DELETE_SQ waits, or waits in queue 0 (R332). -/
def slotWaits (y : HSlot) : Bool :=
  match y.st with
  | .deleting _ => true
  | _ => false

/-- A read of the slot's entry or data is outstanding. -/
def slotReads (y : HSlot) : Bool :=
  match y.st with
  | .reading => true
  | .copying _ => true
  | _ => false

/-- The engine may fetch from a queue now (R328, R332, R335). -/
def fetchable (s : State) (q : Nat) : Bool :=
  let x := hqAt s q
  hostEn s && domUp s domLink && x.sqLive && !x.deleting && decide (x.sqHead ≠ x.sqTail) &&
    decide (x.slots.length < x.landn) && decide (x.held.length < 32) && !x.slots.any slotWaits && !x.slots.any slotReads

/-- The next queue in round-robin order that can be fetched (R328). -/
def fetchNext (s : State) : Option Nat := (ringFrom 65 ((s.hqLast + 1) % 65) 65).find? (fetchable s)

/-- Fetch the entry at the tail of a queue (R328). -/
def sqFetch (q : Nat) (s : State) : State :=
  let x := hqAt s q
  let y : HSlot := { slot := x.next, opc := 0, pri := 0, dir := false, cid := 0, dptr := 0, dlen := 0, st := .reading
                     eff := .none }
  let i := x.slots.length
  let s1 := setHq q { x with slots := x.slots ++ [y], next := (x.next + 1) % max 1 x.landn
                             sqTail := (x.sqTail + 1) % max 1 x.sqSize } { s with hqLast := q }
  if hostIface s = 0 then pcieRead (x.sqBase + 64 * x.sqTail) 64 s1
  else entryLand q i y (shedBytes s1 (x.sqBase + 16 * x.sqTail) 64) s1

/-- The position of the slot whose read is outstanding. -/
def readingSlot (s : State) (q : Nat) : Option (Nat × HSlot) :=
  match findPos slotReads (hqAt s q).slots with
  | some i => ((hqAt s q).slots[i]?).map fun y => (i, y)
  | none => none

/-! ## Admin commands (R332) -/

/-- The position of the queue-management entry whose turn it is: the oldest to be executed, no older one unpublished that
creates a queue or waits (R332). -/
def adminTurn (s : State) (opc : Nat) : Option (Nat × HSlot) :=
  let l := (hqAt s 0).slots
  match findPos (fun y => decide (y.st = .exec) && decide (y.opc ≤ 4)) l with
  | some i =>
    if (l.take i).any (fun y => decide (y.eff ≠ .none) || slotWaits y) then none
    else match l[i]? with
      | some y => if y.opc = opc then some (i, y) else none
      | none => none
  | none => none

/-- The first admin entry that a test finds, with its position. -/
def adminFind (s : State) (p : HSlot → Bool) : Option (Nat × HSlot) :=
  let l := (hqAt s 0).slots
  match findPos p l with
  | some i => (l[i]?).map fun y => (i, y)
  | none => none

/-- An admin command's outcome is noted, and its entry, if it has one, finishes with data for the host in its slot. -/
def adminFinish (e : Option (Nat × HSlot)) (opc status result : Nat) (data : List Byte) (s : State) : State :=
  let s1 := { s with adminLast := (opc, status, result) }
  match e with
  | some (i, y) =>
    let s2 := if data.isEmpty then s1
      else putBytes (slotPa (hqAt s1 0) y.slot + 16) ((data.length + 3) / 4) data s1
    slotDone 0 i y status result (decide (status = 0)) s2
  | none => s1

/-- An admin command of an opcode has been executed: the oldest entry that asks for it and has not begun finishes. -/
def adminDone (opc status result : Nat) (data : List Byte) (s : State) : State :=
  adminFinish (adminFind s fun y => decide (y.st = .exec) && decide (y.opc = opc)) opc status result data s

/-- An admin command of an opcode begins and goes on: the landing slot of the oldest entry that asks for it. -/
def adminBegin (opc : Nat) (s : State) : Option Nat × State :=
  match adminFind s fun y => decide (y.st = .exec) && decide (y.opc = opc) with
  | some (i, y) => (some y.slot, setSlot 0 i { y with st := .running } s)
  | none => (none, s)

/-- An admin command that went on ends: its entry finishes. -/
def adminEnd (entry : Option Nat) (opc status result : Nat) (s : State) : State :=
  adminFinish (adminFind s fun y => decide (y.st = .running) && decide (entry = some y.slot)) opc status result [] s

/-- Landing words of a queue. -/
def landLen (x : HQ) : Nat := x.landn * (16 + x.dbufw)

/-- A landing region lies in Shed outside the Nursery's region, and apart from those of the live queues (Table 14-4). -/
def landOk (s : State) (land n : Nat) : Bool :=
  decide (land + n ≤ 0x400000) && (decide (land + n ≤ 0x1C0000) || decide (0x200000 ≤ land)) &&
    (List.range 65).all fun q =>
      let x := hqAt s q
      !x.sqLive || decide (land + n ≤ x.land) || decide (x.land + landLen x ≤ land)

/-- DUNIT lies in the range of DLEVEL. -/
def doorOk (level unit : Nat) : Bool :=
  match level with
  | 0 => decide (unit < 128)
  | 1 => decide (unit < 16)
  | 2 => decide (unit < 4)
  | 3 => decide (unit = 0)
  | _ => false

/-- A ring base of `n` entries of `w` words, or 4w bytes (R326): aligned, and in Shed where rings lie there. -/
def ringOk (s : State) (base n w : Nat) : Bool :=
  if hostIface s = 0 then decide (base % (4 * w) = 0) else decide (base % w = 0) && inShed base (n * w)

/-- A head word address is good. -/
def headOk (s : State) (a : Nat) : Bool := if hostIface s = 0 then decide (a % 4 = 0) else inShed a 1

/-- CREATE_CQ's checks and effect (Table 14-4). -/
def createCq (s : State) (y : HSlot) : Nat × HEffect :=
  let x := hqAt s 0
  let f (i n : Nat) : Nat := slotNum s x y.slot i n
  let q := f 24 2
  let size := f 26 2
  let vec := f 28 1
  if q < 1 ∨ 64 < q ∨ (hqAt s q).cqLive then (0x0005, .none)
  else if size < 2 ∨ 4096 < size then (0x0006, .none)
  else if !ringOk s y.dptr size 4 || !headOk s (f 32 8) || (decide (64 ≤ vec) && decide (vec ≠ 0xFF)) ||
      decide (y.dlen ≠ 0) then (0x0002, .none)
  else (0, .createCq q y.dptr size (if vec = 0xFF then none else some vec) (f 30 2) (f 32 8))

/-- CREATE_SQ's checks and effect (Table 14-4); `slots` gives SLOTS of a hopper. -/
def createSq (s : State) (y : HSlot) : Nat × HEffect :=
  let x := hqAt s 0
  let f (i n : Nat) : Nat := slotNum s x y.slot i n
  let q := f 24 2
  let size := f 26 2
  if q < 1 ∨ 64 < q ∨ (hqAt s q).sqLive ∨ !(hqAt s q).cqLive then (0x0005, .none)
  else if size < 2 ∨ 4096 < size then (0x0006, .none)
  else if !ringOk s y.dptr size 16 || decide (y.dlen ≠ 0) || decide (253 < f 28 1) || decide (hopSlots s (f 28 1) = 0) ||
      decide (7 < f 29 1) || !doorOk (f 30 1) (f 31 1) || decide (f 36 1 = 0) || decide (64 < f 36 1) ||
      decide (1024 < f 38 2) || !landOk s (f 32 4) (f 36 1 * (16 + f 38 2)) then (0x0002, .none)
  else (0, .createSq q y.dptr size (f 28 1) (f 29 1) (f 30 1) (f 31 1) (f 32 4) (f 36 1) (f 38 2))

/-! ## Records (R333–R336) -/

/-- The ring of a CQ is full. -/
def cqFull (x : HQ) : Bool := decide ((x.cqHead + 1) % max 1 x.cqSize = x.cqTail)

/-- Write a 32-bit word to the host's side: host memory, or Shed. -/
def hostPut (addr v : Nat) (s : State) : State :=
  if hostIface s = 0 then emit (.other "pcie-write" [addr, v]) s else memPut addr (wd (v % 2 ^ 32)) s

/-- A host frame that the device sends: OP, SEQ, address, COUNT and words, in queue 0 of a MAC (R323, R341). -/
def hostFrame (m op seq addr n : Nat) (ws : List Nat) (s : State) : State :=
  macQueue m { queue := 0, len := max 64 (31 + 5 * ws.length), tag := some Config.plainTag
               data := [5, op, seq, addr, n] ++ ws } s

/-- A vector can be sent now: MSI-X is on and the entry not masked. -/
def vecGoes (s : State) (v : Nat) : Bool := msixOk s && !(Tbl.get (fun _ => MsixEnt.reset) s.msixTab v).mask

/-- Send a queue's completion interrupt: the vector, or on Ethernet the notice frame with the queue and its head (R336); what
was sent opens the IHOLD window. -/
def sendVec (q : Nat) (s : State) : State :=
  let x := hqAt s q
  match x.vec with
  | none => s
  | some v =>
    let s1 := if hostIface s = 0 then msixSend v s
      else if hostIface s = 2 then hostFrame s.hostMac 5 0 0 1 [q + 2 ^ 16 * x.cqHead] s else s
    let sent := if hostIface s = 0 then vecGoes s v else decide (hostIface s = 2)
    modHq q (fun x => { x with window := if sent && decide (x.ihold ≠ 0) then some (s.now + x.ihold, false) else none }) s1

/-- The head word, then the vector unless its window is open (R336). -/
def headOut (q : Nat) (s : State) : State :=
  let x := hqAt s q
  let s1 := hostPut x.headAddr x.cqHead s
  match x.window with
  | some (e, _) => if s.now < e then modHq q (fun x => { x with window := some (e, true) }) s1 else sendVec q s1
  | none => sendVec q s1

/-- What the publishing of a record changes (R332). -/
def applyEff (e : HEffect) (s : State) : State :=
  match e with
  | .none => s
  | .createCq q base size vec ihold head =>
    hostPut head 0 (setHq q { hqAt s q with
      cqLive := true, cqBase := base, cqSize := size, cqHead := 0, cqTail := 0, vec := vec, ihold := ihold,
      headAddr := head, held := [], window := none } s)
  | .createSq q base size hopper dbin dlevel dunit land landn dbufw =>
    setHq q { hqAt s q with
      sqLive := true, sqBase := base, sqSize := size, sqHead := 0, sqTail := 0, hopper := hopper, dbin := dbin,
      dlevel := dlevel, dunit := dunit, land := land, landn := landn, dbufw := dbufw, slots := [], next := 0,
      deleting := false } s

/-- A record enters the CQ at the head (R335, R336). -/
def recordIn (q : Nat) (r : HRec) (s : State) : State :=
  let x := hqAt s q
  let words := [r.result, q + 2 ^ 16 * x.sqTail, r.cid + 2 ^ 16 * r.status, 0]
  let base := if hostIface s = 0 then x.cqBase + 16 * x.cqHead else x.cqBase + 4 * x.cqHead
  let s1 := if hostIface s = 0 then emit (.other "pcie-write" (base :: words)) s
    else forAll (List.range 4) (fun k y => memPut (base + k) (wd (((words[k]?).getD 0) % 2 ^ 32)) y) s
  headOut q (applyEff r.eff (setHq q { x with cqHead := (x.cqHead + 1) % max 1 x.cqSize } s1))

/-- The record of the oldest slot, if that slot is finished. -/
def slotRec (x : HQ) : Option HRec :=
  match x.slots with
  | y :: _ =>
    match y.st with
    | .finished st r => some { cid := y.cid, status := st, result := r, eff := y.eff }
    | _ => none
  | [] => none

/-- A record enters the holding buffer; the change to stalled counts (R335). -/
def holdIn (q : Nat) (r : HRec) (stalledBefore : Bool) (s : State) : State :=
  let x := hqAt s q
  let s1 := setHq q { x with held := x.held ++ [r], slots := x.slots.drop 1 } s
  if x.held.length + 1 = 32 ∧ !stalledBefore then bumpF pgHost (0x103 + 4 * q) 0 16 1 s1 else s1

/-- One step of a queue's records (R335). -/
def recordStep (q : Nat) (s : State) : State :=
  let x := hqAt s q
  if !x.cqLive then s
  else match x.held with
  | r :: rest =>
    if cqFull x then
      (match slotRec x with
       | some r2 => if x.held.length < 32 then holdIn q r2 false s else s
       | none => s)
    else
      let s1 := recordIn q r (setHq q { x with held := rest } s)
      (match slotRec (hqAt s1 q) with
       | some r2 => holdIn q r2 (decide (32 ≤ x.held.length)) s1
       | none => s1)
  | [] =>
    match slotRec x with
    | some r =>
      if cqFull x then holdIn q r false s
      else recordIn q r (setHq q { x with slots := x.slots.drop 1 } s)
    | none => s

/-- A DELETE_SQ whose queue has no fetched entry left without a published record finishes (R332). -/
def deleteStep (s : State) : State :=
  let l := (hqAt s 0).slots
  match findPos slotWaits l with
  | some i =>
    match l[i]? with
    | some y =>
      match y.st with
      | .deleting q =>
        let x := hqAt s q
        if x.slots.isEmpty && x.held.isEmpty then
          slotDone 0 i y 0 0 false (setHq q { x with sqLive := false, deleting := false } s)
        else s
      | _ => s
    | none => s
  | none => s

/-! ## Enable and shutdown (R337) -/

/-- HOST_STAT.BUSY. -/
def hostBusy (s : State) : Bool := (List.range 65).any fun q => !(hqAt s q).orphans.isEmpty

/-- Queue 0 as the HOST_AQ registers describe it. -/
def adminQueue (s : State) : HQ :=
  let c := reg s pgHost 0x012
  let l := reg s pgHost 0x019
  let r := reg s pgHost 0x01A
  let a (k : Nat) : Nat := regF s pgHost k 0 32 + 2 ^ 32 * regF s pgHost (k + 1) 0 32
  { HQ.reset with
    sqLive := true, cqLive := true, sqBase := a 0x013, sqSize := getF c 0 8 + 1, cqBase := a 0x015,
    cqSize := getF c 8 8 + 1, vec := if bit c 22 then some (getF c 16 6) else none, ihold := getF r 20 16,
    headAddr := a 0x017, land := getF l 0 22, landn := getF l 22 6 + 1, dbufw := getF l 28 11, hopper := getF r 12 8,
    dbin := getF r 9 3, dlevel := getF r 0 2, dunit := getF r 2 7 }

/-- The admin sizes let the queue be enabled (Table 14-7). -/
def hostCanEnable (s : State) : Bool :=
  decide (regF s pgHost 0x012 0 8 ≠ 0) && decide (regF s pgHost 0x012 8 8 ≠ 0)

/-- EN becomes 1: queue 0 is live. -/
def hostEnable (s : State) : State :=
  setRegB pgHost 0x010 0 true (setHq 0 (adminQueue s) { s with hqEnHeld := false })

/-- No admin command that goes on has an entry any more. -/
def adminForget (s : State) : State :=
  { s with
    pwr := { s.pwr with
      cmd := s.pwr.cmd.map fun c => { c with entry := none }
      cmdQ := s.pwr.cmdQ.map fun c => { c with entry := none }
      runs := s.pwr.runs.map fun r => (r.1, none)
      volt := s.pwr.volt.map fun v => { v with entry := none } }
    boot := { s.boot with graft := s.boot.graft.map fun g => { g with entry := none } } }

/-- EN becomes 0: no queue is live; entries handed over keep their slots; the host's grant ends (R337, R427). -/
def hostDisable (s0 : State) : State :=
  let s := adminForget s0
  let s1 := forAll (List.range 65) (fun q x =>
    let y := hqAt x q
    setHq q { HQ.reset with
      orphans := y.orphans ++ ((y.slots.filter fun e => decide (e.st = .handed)).map (·.slot)) } x) s
  sessEnd false (setRegB pgHost 0x010 0 false { s1 with hqEnHeld := false })

/-- HOST_CTRL ignores a write: another interface while EN = 1, or EN = 1 on an admin ring of one slot (R320, R338). -/
def hostCtrlRefused (s : State) (v : Word) : Bool :=
  if hostEn s then decide (getF v 1 2 ≠ hostIface s) && decide (getF v 1 2 ≠ 3) else bit v 0 && !hostCanEnable s

/-- A write of HOST_CTRL (R320, R337). -/
def hostCtrlWrite (v : Word) (s : State) : State :=
  let en := hostEn s
  let iface := getF v 1 2
  if hostCtrlRefused s v then s
  else
    let s1 := if !en ∧ iface ≠ 3 then setRegF pgHost 0x010 1 2 iface s else s
    if bit v 0 then
      (if en then s1
       else if hostBusy s1 then { s1 with hqEnHeld := true }
       else hostEnable s1)
    else if en then hostDisable s1
    else { s1 with hqEnHeld := false }

/-- BUSY may have cleared: a held enable takes effect, unless the admin sizes now refuse it (R337, R338). -/
def hostSettle (s : State) : State :=
  if s.hqEnHeld && !hostBusy s then (if hostCanEnable s then hostEnable s else { s with hqEnHeld := false }) else s

/-! ## Doorbells and completion (R325, R334) -/

/-- A bad doorbell. -/
def dbBad (s : State) : State := setRegB pgHost 0x011 2 true (bumpF pgHost 0x01C 0 16 1 s)

/-- A write of HOST_SQDBq. -/
def sqDoorbell (q v : Nat) (s : State) : State :=
  let x := hqAt s q
  if !x.sqLive ∨ x.sqSize ≤ v then dbBad s else setHq q { x with sqHead := v } s

/-- A write of HOST_CQDBq. -/
def cqDoorbell (q v : Nat) (s : State) : State :=
  let x := hqAt s q
  let n := max 1 x.cqSize
  if !x.cqLive ∨ x.cqSize ≤ v ∨ (x.cqHead + n - x.cqTail) % n < (v + n - x.cqTail) % n then dbBad s
  else setHq q { x with cqTail := v } s

/-- A write of HOST_CPL (R334, R337). -/
def hostCpl (v : Word) (s : State) : State :=
  let q := getF v 0 7
  let k := getF v 7 6
  if !bit v 39 then s
  else
    let x := hqAt s q
    match findPos (fun y => decide (y.slot = k) && decide (y.st = .handed)) x.slots with
    | some i =>
      (match x.slots[i]? with
       | some y => slotDone q i y (getF v 13 16) (getF (memGet s (slotPa x k + 15)) 0 32) true s
       | none => s)
    | none =>
      if x.orphans.contains k then hostSettle (setHq q { x with orphans := x.orphans.filter fun j => decide (j ≠ k) } s)
      else setRegB pgHost 0x011 3 true (bumpF pgHost 0x01C 16 16 1 s)

/-- A write to a HOST register (R321, R324, R338). -/
def hostWrite (off : Nat) (v : Word) (s : State) : State :=
  if 0x100 ≤ off ∧ off < 0x100 + 4 * 65 ∧ off % 4 < 2 then
    (if off % 4 = 0 then sqDoorbell ((off - 0x100) / 4) (getF v 0 12) s
     else cqDoorbell ((off - 0x100) / 4) (getF v 0 12) s)
  else if 0x012 ≤ off ∧ off ≤ 0x01A then (if hostEn s then s else setReg pgHost off (v &&& wd (hostSpec off).rw) s)
  else match off with
  | 0x010 => hostCtrlWrite v s
  | 0x01B => hostCpl v s
  | 0x01D => if getF v 0 34 % 0x200000 = 0 then setReg pgHost off (wd (getF v 0 34)) s else s
  | _ => setReg pgHost off (writeBySpec (hostSpec off) (reg s pgHost off) v) s

/-- What a HOST register reads. -/
def hostRead (s : State) (off : Nat) : Word :=
  if 0x100 ≤ off ∧ off < 0x100 + 4 * 65 ∧ off % 4 ≠ 3 then
    (if off % 4 = 2 then
      let x := hqAt s ((off - 0x100) / 4)
      wd (x.sqTail + 2 ^ 12 * x.cqHead + 2 ^ 24 * x.held.length + 2 ^ 30 * b2n (decide (32 ≤ x.held.length)) +
        2 ^ 31 * b2n (x.sqLive || x.cqLive) + 2 ^ 32 * (x.slots.length + x.orphans.length))
     else 0)
  else match off with
  | 0x011 => setB (setB (reg s pgHost off) 0 (hostEn s)) 1 (hostBusy s)
  | 0x01B => 0
  | _ => reg s pgHost off

/-- The level of pin HOST_IRQ_N (R336). -/
def hostIrqN (s : State) : Bool :=
  !(decide (hostIface s = 1) && (List.range 65).any fun q =>
    let x := hqAt s q
    x.cqLive && x.vec.isSome && decide (x.cqHead ≠ x.cqTail))

end Sys2Proof.Machine
end

