-- ==== Sys2Proof/Machine/Gauges.lean ====
section
/-! DEFINITION. Gauges, snapshots, the delay line and the fault record: the GAUGE page and its commands (R436–R442, R448,
R450). -/

namespace Sys2Proof.Machine

/-- A quantity and source of Table 20-1. -/
def gaugeSrcOk (qty src : Nat) : Bool :=
  match qty with
  | 0 | 11 => decide (src < 512)
  | 1 | 4 => decide (src < 256)
  | 2 | 3 | 5 | 9 => decide (src < 128)
  | 6 => decide (src = 0)
  | 7 => decide (src < 16)
  | 8 => decide (src < 8)
  | 10 => decide (src / 128 ≤ 8)
  | _ => false

/-- The power domain in which a source lies (R436). -/
def gaugeDom (qty src : Nat) : Option Nat :=
  let plot (l : Nat) : Option Nat := some (l / 8)
  match qty with
  | 0 | 11 => some (domRow (src / 128))
  | 1 => some domLink
  | 2 | 9 => some (domRow (src / 32))
  | 3 | 5 => plot src
  | 4 => some domTrel
  | 7 => some (domRow (src / 4))
  | 10 => plot (src % 128)
  | _ => none

/-- Offsets of a gauge's registers. -/
def gCfg (s : State) (g : Nat) : Word := reg s pgGauge (gBase g)

/-- A new empty window that starts at tick `t` with the scale now written (R439, R440). -/
def gaugeOpen (g t index : Nat) (s : State) : State :=
  let lo := reg s pgGauge (gBase g + 1)
  setGauge g { gaugeAt s g with
    win := { GaugeRec.empty with index := index }, base := t, index := index, loInForce := sx 32 (getF lo 0 32)
    bshInForce := getF lo 32 5 } s

/-- The fields that change only while EN = 0 (R440). -/
def gaugeFixed (v : Word) : Nat := getF v 1 37

/-- A write of GAUGE_CFGg (R439, R440). -/
def gaugeCfgWrite (g : Nat) (v0 : Word) (s : State) : State :=
  let v := v0 &&& wd 0x3FFFFFFFFF
  let old := gCfg s g
  if (bit old 0 ∧ gaugeFixed v ≠ gaugeFixed old) ∨ !gaugeSrcOk (getF v 2 4) (getF v 6 12) then
    setRegB pgGauge (gBase g + 3) 22 true s
  else
    let s1 := setReg pgGauge (gBase g) v s
    if bit v 0 ∧ !bit old 0 then
      gaugeOpen g (s.now + 1) 0 (setGauge g { gaugeAt s1 g with start := s.now + 1, late := [] } s1)
    else if !bit v 0 then setGauge g { gaugeAt s1 g with win := .empty, late := [] } s1
    else s1

/-- The values that waited and lie in the window now open enter it (R9, R439). -/
def gaugeCatch (g : Nat) (s : State) : State :=
  let x := gaugeAt s g
  let mine := x.late.filter fun e => gaugeHolds s g e.1
  let rest := x.late.filter fun e => !gaugeHolds s g e.1
  setGauge g (mine.foldl (fun y e => gaugeAdd (bit (gCfg s g) 1) e.2.2 e.2.1 y) { x with late := rest }) s

/-- Close the current window of a gauge at tick `t` (R439). -/
def gaugeClose (g t : Nat) (part : Bool) (s : State) : State :=
  let x := gaugeAt s g
  let r := { x.win with index := x.index, part := part }
  let s1 := wrapF pgGauge (gBase g + 3) 0 20 1 (setGauge g { x with last := r } s)
  let s2 := gaugeCatch g (gaugeOpen g t (x.index + 1) s1)
  let e := reg s pgGauge (gBase g + 2)
  if bit e 12 then raiseUnit (getF e 0 3) (getF e 3 7) (56 + getF e 10 2) s2 else s2

/-- A snapshot is requested: it closes at the first tick that begins after now (R439). -/
def snapAsk (mask : Nat) (admin : Option Nat) (s : State) : State :=
  match s.snap with
  | some (m, t, a) => { s with snap := some (Nat.lor m mask, t, admin <|> a) }
  | none => { s with snap := some (mask, s.now, admin) }

/-- The snapshot's close of one gauge at tick `t`; a window that a scheduled close opened at `t` is left as it is. -/
def snapOne (mask t g : Nat) (s : State) : State :=
  if mask / 2 ^ g % 2 = 1 ∧ bit (gCfg s g) 0 ∧ (gaugeAt s g).base < t then
    gaugeClose g t (decide (gaugeEnd s g ≠ some t)) s
  else s

/-- The four words of L0–L3 and the bins of a record (R450). -/
def recordWord (r : GaugeRec) (k : Nat) : Word :=
  match k with
  | 0 => wd (modI 32 r.lo)
  | 1 => wd (modI 32 r.hi)
  | 2 => wd r.count
  | 3 => wd (r.index % 2 ^ 20 + 2 ^ 20 * r.clip + 2 ^ 36 * b2n r.valid + 2 ^ 37 * b2n r.part)
  | _ => wd (Tbl.get (fun _ => 0) r.bins (k - 4))

/-- A read of GAUGE_L0: word 0 of the last record of the selected gauge, and the latch (R441). -/
def gaugeL0 (s : State) : Word × State :=
  let r := (gaugeAt s (regF s pgGauge 0x013 0 6)).last
  (recordWord r 0, forAll (List.range 36) (fun k x => setReg pgGauge (0x020 + k) (recordWord r k) x) s)

/-- The words of a fault entry (R448). -/
def frecWord (e : FrecEnt) (k : Nat) : Word :=
  match k with
  | 0 => wd e.seq
  | 1 => wd e.tick
  | 2 => wd (e.kind + 16 * e.src)
  | _ => e.data

/-- A read of GAUGE_FREC_E0: word 0 of the selected entry, and the latch of words 1 to 3. -/
def gaugeE0 (s : State) : Word × State :=
  let w (k : Nat) : Word := match s.frec[regF s pgGauge 0x016 0 6]? with
    | some e => frecWord e k
    | none => 0
  (w 0, forAll [1, 2, 3] (fun k x => setReg pgGauge (0x018 + k) (w k) x) s)

/-- A write to a GAUGE register. -/
def gaugeWrite (off : Nat) (v : Word) (s : State) : State :=
  if 0x100 ≤ off ∧ off ≤ 0x1FF ∧ off % 4 = 0 then gaugeCfgWrite ((off - 0x100) / 4) v s
  else if 0x100 ≤ off ∧ off ≤ 0x1FF ∧ off % 4 = 2 ∧ !tunitOk (getF v 0 3) (getF v 3 7) then s  -- as R287
  else match off with
  | 0x010 => setReg pgGauge off (wd (getF v 0 32)) s
  | 0x011 =>
    let s1 := setReg pgGauge off (wd (getF v 0 32)) s
    if bit v 39 then snapAsk (regF s1 pgGauge 0x010 0 32 + 2 ^ 32 * getF v 0 32) none s1 else s1
  | _ => setReg pgGauge off (writeBySpec (gaugeSpec off) (reg s pgGauge off) v) s

/-- What a GAUGE register reads, L0 and E0 apart. -/
def gaugeRead (s : State) (off : Nat) : Word :=
  if 0x100 ≤ off ∧ off ≤ 0x1FF ∧ off % 4 = 3 then
    let g := (off - 0x100) / 4
    let c := gCfg s g
    let dorm := match gaugeDom (getF c 2 4) (getF c 6 12) with
      | some d => !domUp s d
      | none => false
    setB (setB (reg s pgGauge off) 20 (bit c 0)) 21 (bit c 0 && dorm)
  else match off with
  | 0x010 | 0x011 => 0
  | 0x012 => setB (reg s pgGauge off) 12 (match s.dlcal with | some t => decide (s.now < t + 1000) | none => false)
  | _ => reg s pgGauge off

/-! ## Commands -/

/-- GAUGE_CFG_WRITE (R440). -/
def execGaugeCfgWrite (w : Who) (g : Fin 64) (v : Word) (s : State) : Res :=
  .next (gated w pgGauge (gBase g) (gaugeWrite (gBase g) v) s)

/-- GAUGE_WINDOW_CLOSE (R439): the end of a gauge's window has come. -/
def execGaugeWindowClose (g : Fin 64) (s : State) : Res :=
  .next (match gaugeEnd s g with
    | some e => if e ≤ s.now then gaugeClose g e false s else s
    | none => s)

/-- GAUGE_SNAP (R439): a write of GAUGE_SNAP_HI with GO. -/
def execGaugeSnap (w : Who) (hi : BitVec 32) (s : State) : Res :=
  .next (gated w pgGauge 0x011 (gaugeWrite 0x011 (wd (hi.toNat + 2 ^ 39))) s)

/-- Bytes of a snapshot record. -/
def snapBytes (s : State) (g : Nat) : List Byte :=
  let r := (gaugeAt s g).last
  toLe 4 g ++ toLe 4 (modI 32 r.lo) ++ toLe 4 (modI 32 r.hi) ++ toLe 4 r.count ++ toLe 4 r.index ++ toLe 2 r.clip ++
    toLe 2 (b2n r.valid + 2 * b2n r.part) ++
    ((List.range 32).map fun k => toLe 4 (Tbl.get (fun _ => 0) r.bins k)).flatten

/-- The gauges of a mask. -/
def maskBits (mask : Nat) : List Nat := (List.range 64).filter fun g => decide (mask / 2 ^ g % 2 = 1)

/-- A scheduled close of a masked gauge lies before the snapshot's tick and has not been made. -/
def snapBehind (s : State) (mask t : Nat) : Bool :=
  (List.range 64).any fun g => decide (mask / 2 ^ g % 2 = 1) && (match gaugeEnd s g with
    | some e => decide (e < t)
    | none => false)

/-- SNAPSHOT_CLOSE (R439): the first tick after the request has begun, and every scheduled close before it has been made. -/
def execSnapshotClose (s : State) : Res :=
  .next (
    match s.snap with
    | some (mask, t, admin) =>
      if t < s.now ∧ !snapBehind s mask (t + 1) then
        let s1 := forAll (List.range 64) (snapOne mask (t + 1)) { s with snap := none }
        match admin with
        | some asked => adminDone 0x20 0 ((t + 1) % 2 ^ 32) ((maskBits asked).map (snapBytes s1)).flatten s1
        | none => s1
      else s
    | none => s)

/-- The diagnostic sequencer carries out a command: a test, or a snapshot that its command asked for (R443). -/
def diagBusy (s : State) : Bool :=
  s.line.isSome || (match s.snap with
    | some (_, _, admin) => admin.isSome
    | none => false)

/-- GAUGE_SNAPSHOT (R439, Table 20-2). -/
def execGaugeSnapshot (mask : BitVec 64) (dlen : Nat) (s : State) : Res :=
  .next (
    if diagBusy s then s
    else if dlen < 152 * (maskBits mask.toNat).length then adminDone 0x20 0x0024 0 [] s
    else snapAsk mask.toNat (some mask.toNat) s)

/-- The value of a temperature: the corrected 14-bit raw code, held at the limits of 16 bits (R74, R75). -/
def tempValue (s : State) (sensor c : Nat) : Int × Bool :=
  let t := rheDiv (c * trimAt s (32 + sensor)) (2 ^ 14) + trimAt s (40 + sensor)
  (satI 16 t, decide (satI 16 t ≠ t))

/-- The logical tine's physical one, while no replacement of it is under way (R437). -/
def gaugeTine (s : State) (l : Nat) : Option Nat :=
  match physOf s l with
  | some t => if (tineAt s t).retired || !tineUp s t then none else some t
  | none => none

/-- GAUGE_TICK_SAMPLE (R437): a gauge takes its one value of this tick. `v` is ns awake for UTIL, mV for VCORE and the raw
code for TEMP; TSAT and PSAT are counted by the device. -/
def execGaugeTickSample (g : Fin 64) (v : Nat) (s : State) : Res :=
  .next (
    let c := gCfg s g
    let src := getF c 6 12
    let offer (x : Int) (clip : Bool) : State :=
      if (gaugeAt s g).tick = some s.now then s
      else
        let s1 := gaugeOffer (getF c 2 4) src x clip g s
        setGauge g { gaugeAt s1 g with tick := some s.now } s1
    match getF c 2 4 with
    | 5 => match gaugeTine s src with
      | some _ => offer (min v 1000 : Nat) false
      | none => s
    | 6 => offer v false
    | 8 => if s.now % 64 = 0 then (let (x, k) := tempValue s src (v % 2 ^ 14); offer x k) else s
    | 10 => match gaugeTine s (src % 128) with
      | some t => offer (Tbl.get (fun _ => 0) (tineAt s t).tsat (src / 128) : Nat) false
      | none => s
    | 11 => if domUp s (domRow (src / 128)) then offer (cellAt s (src / 128) (src % 128)).psat false else s
    | _ => s)

/-- GAUGE_RECORD_READ (R441). -/
def execGaugeRecordRead (w : Who) (s : State) : Res :=
  .next (match regGate s w pgGauge 0x020 with
    | .ok => let (v, s1) := gaugeL0 s; { s1 with readData := v }
    | k => denied w pgGauge 0x020 k { s with readData := 0 })

/-- GAUGE_FREC_READ (R448, Table 20-4). -/
def execGaugeFrecRead (w : Who) (s : State) : Res :=
  .next (match regGate s w pgGauge 0x017 with
    | .ok => let (v, s1) := gaugeE0 s; { s1 with readData := v }
    | k => denied w pgGauge 0x017 k { s with readData := 0 })

/-- The delay line has not been calibrated in this AON window of 1,000 ticks. -/
def dlcalDue (s : State) : Bool :=
  match s.dlcal with
  | some t => decide (t / 1000 < s.now / 1000)
  | none => true

/-- DELAY_LINE_CALIBRATION (R442): steps counted in one 98.304 MHz period, once in a window. -/
def execDelayLineCalibration (steps : BitVec 12) (s : State) : Res :=
  .next (if pllLock s ∧ dlcalDue s then setReg pgGauge 0x012 (wd steps.toNat) { s with dlcal := some s.now } else s)

/-- FAULT_READ (R448, Table 20-2). -/
def execFaultRead (first count : Nat) (dlen : Nat) (s : State) : Res :=
  .next (
    if diagBusy s then s
    else if count < 1 ∨ 64 < count then adminDone 0x25 0x0023 0 [] s
    else if dlen < 20 * count then adminDone 0x25 0x0024 0 [] s
    else
      let l := (s.frec.drop first).take count
      adminDone 0x25 0 l.length ((l.map fun e =>
        toLe 4 e.seq ++ toLe 5 e.tick ++ toLe 1 e.kind ++ toLe 2 e.src ++ toLe 5 e.data.toNat ++ toLe 3 0).flatten) s)

/-- Remove the entries up to a SEQ (R448). -/
def frecClear (seq : Nat) (s : State) : State :=
  let next := regF s pgGauge 0x014 0 32
  let v := if next ≤ seq then next - 1 else seq
  let l := s.frec.filter fun e => decide (v < e.seq)
  setRegF pgGauge 0x014 32 7 l.length { s with frec := l }

/-- FAULT_CLEAR (R448). -/
def execFaultClear (seq : BitVec 32) (s : State) : Res :=
  .next (if diagBusy s then s else (let s1 := frecClear seq.toNat s; adminDone 0x26 0 s1.frec.length [] s1))

end Sys2Proof.Machine
end

