-- ==== Sys2Proof/Machine/Line.lean ====
section
/-! DEFINITION. The diagnostic sequencer's speaker-line tests (R443–R447). -/

namespace Sys2Proof.Machine

/-- DIAG_CAL of a Hoe. -/
def diagCal (s : State) (r h : Nat) : Nat := regF s pgGauge (0x200 + 32 * r + h) 0 24

/-- The Hoe is in the state that R443 asks for. -/
def lineReady (s : State) (r h : Nat) : Bool :=
  hRunning s r h && bit (hCfg s r h) 33 && bit (hCfg s r h) 34 && !hSheared s r h &&
    decide (regF s (pgHoe r) (hB h + 7) 0 2 = 0)

/-- Set the injection registers of the Hoe: mode, DC in S.3.36, amplitude and frequency. -/
def lineInject (r h imode : Nat) (dc amp : Word) (freq : Nat) (s : State) : State :=
  setReg (pgHoe r) (hB h + 7) (wd imode) (setReg (pgHoe r) (hB h + 8) dc (setReg (pgHoe r) (hB h + 9) amp
    (setReg (pgHoe r) (hB h + 0xA) (wd (freq % 2 ^ 32)) s)))

/-- A voltage in mV in units of VREF, S.3.36, rounded; a VREF of 0 never runs. -/
def perVref (s : State) (r h : Nat) (mv : Int) : Word :=
  wi (satI 40 (rheDiv (mv * (2 ^ 36 : Nat) * 1024) (1000 * max 1 (regF s (pgHoe r) (hB h + 2) 0 17))))

/-- Begin a phase of the test; it has gathered nothing. -/
def linePhase (x : LineTest) (p : LinePhase) (s : State) : State :=
  { s with line := some { x with phase := p, since := s.now, cnt := 0, sv := 0, si := 0, vs := 0, vc := 0, is := 0, ic := 0 } }

/-- Begin the first phase of a DC measurement (R444). -/
def dcrBegin (x : LineTest) (s : State) : State :=
  linePhase x .settle1 (lineInject x.r x.h 2 (perVref s x.r x.h x.dcl) 0 0 s)

/-- A test ends: IMODE returns to 0, the command completes (R443). -/
def lineEnd (x : LineTest) (status result : Nat) (s : State) : State :=
  adminDone x.opc status result (if status = 0 then x.bytes else [])
    (setReg (pgHoe x.r) (hB x.h + 7) 0 { s with line := none })

/-- A phase's count of values and sums; a phase in which no value came has no mean: one free value stands for it (R444,
assumption 149). -/
def lineMeans (x : LineTest) (s : State) : (Nat × Int × Int) × State :=
  if x.cnt = 0 then
    let (v, s1) := drawWord s
    let (i, s2) := drawWord s1
    ((1, sw v, sw i), s2)
  else ((x.cnt, x.sv, x.si), s)

/-- R in mΩ from the counts and sums of two phases, with CAL as CAL / 2^22; none for an open line (R444). The means are exact:
all differences carry the factor n1 × n2. -/
def lineR (s : State) (r h cal : Nat) (m1 m2 : Nat × Int × Int) : Option Int :=
  let vsfs := regF s (pgHoe r) (hB h + 3) 0 17
  let isfs := regF s (pgHoe r) (hB h + 3) 17 17
  let (n1, v1, i1) := m1
  let (n2, v2, i2) := m2
  let di := i1 * n2 - i2 * n1
  -- |I1 − I2| < 0.01 × ISFS
  if (di.natAbs : Int) * 100 < (2 ^ 36 * n1 * n2 : Nat) then none
  else
    let n := (v1 * n2 - v2 * n1) * vsfs * cal * 1000
    let d := di * isfs * (2 ^ 22 : Nat)
    if d = 0 then none
    else if d < 0 then some (rheDiv (-n) d.natAbs) else some (rheDiv n d.natAbs)

/-- RESULT of a resistance: 32 bits, the open code for none. -/
def lineResult (r : Option Int) : Nat :=
  match r with
  | none => 0xFFFFFFFF
  | some v => modI 32 v

/-- The class of a line (R447): 0 OK, 1 OPEN, 2 SHORT. -/
def lineClass (r : Option Int) (rshort ropen : Nat) : Nat :=
  match r with
  | none => 1
  | some v => if v < (rshort : Int) then 2 else if (ropen : Int) ≤ v then 1 else 0

/-- End a classification with a class and R in mΩ (R447). -/
def classEnd (x : LineTest) (cls : Nat) (r : Option Int) (s : State) : State :=
  let rr := match r with | some v => v.toNat | none => 0xFFFFFFFF
  let s1 := if cls = 0 then s
    else frecAdd 8 (0x300 + x.r) (wd (x.h + 2 ^ 5 * cls + 2 ^ 8 * min rr 0xFFFFFFFF)) s
  lineEnd x 0 (cls + 16 * min rr 0xFFFFFFF) s1

/-- Both phases of a DC measurement are done (R444, R445, R447). -/
def dcrEnd (x : LineTest) (m2 : Nat × Int × Int) (s : State) : State :=
  let m1 := (x.cnt1, x.v1, x.i1)
  match x.opc with
  | 0x21 =>
    match lineR s x.r x.h (2 ^ 22) m1 m2 with
    | some ru =>
      let cal := if ru ≤ 0 then 0 else rheDiv (x.args.headD 0 * 2 ^ 22 : Nat) ru.toNat
      if 0x200000 ≤ cal ∧ cal ≤ 0x600000 then
        lineEnd x 0 cal.toNat (setReg pgGauge (0x200 + 32 * x.r + x.h) (wd cal.toNat) s)
      else lineEnd x 0x0023 0 s
    | none => lineEnd x 0x0023 0 s
  | 0x22 => lineEnd x 0 (lineResult (lineR s x.r x.h (diagCal s x.r x.h) m1 m2)) s
  | _ =>
    let rv := lineR s x.r x.h (diagCal s x.r x.h) m1 m2
    let s1 := hoeDisable x.r x.h s
    classEnd x (lineClass rv ((x.args[1]?).getD 0) ((x.args[2]?).getD 0)) rv s1

/-! ## Impedance points (R446) -/

/-- Begin the next point. -/
def pointBegin (x : LineTest) (s : State) : State :=
  let hz := carHz (getF (hCfg s x.r x.h) 2 2)
  linePhase x .point
    (lineInject x.r x.h 2 0 (perVref s x.r x.h (lineArg x 0)) (rheDiv (pointHz x * 2 ^ 32 : Nat) hz).toNat s)

/-- The largest f with f² ≤ p, over `k` bits. -/
def sqrtDown (p k acc : Nat) : Nat :=
  match k with
  | 0 => acc
  | j + 1 => if (acc + 2 ^ j) ^ 2 ≤ p then sqrtDown p j (acc + 2 ^ j) else sqrtDown p j acc

/-- |Z| in mΩ, scaled by CAL: the quotient of the amplitudes of V and I. No rounding is named, and an amplitude of 0 in the
current gives no value: both are free, as is a value above 32 bits (R446, assumption 149). -/
def pointZ (x : LineTest) (s : State) : Nat × State :=
  let sc := reg s (pgHoe x.r) (hB x.h + 3)
  let n := (x.vs.natAbs ^ 2 + x.vc.natAbs ^ 2) * (getF sc 0 17 * 1000 * diagCal s x.r x.h) ^ 2
  let d := (x.is.natAbs ^ 2 + x.ic.natAbs ^ 2) * (getF sc 17 17 * 2 ^ 22) ^ 2
  let z := sqrtDown (n / d) 33 0
  if d = 0 ∨ 2 ^ 32 - 2 < z then
    let (k, s1) := drawNat s
    (k % 2 ^ 32, s1)
  else if z ^ 2 * d = n then (z, s)
  else
    let (b, s1) := drawBit s
    (if b then z + 1 else z, s1)

/-- The sine of k × 0.01°, for k up to 9,000, in units of 2^−64. -/
def sineCenti (k : Nat) : Int := sineSum 14 (k * piHalf / 9000) (k * piHalf / 9000) 1

/-- The largest k × 0.01° at or below the angle of (re, im), both at least 0: over `n` bits of k, up to 9,000. -/
def angleDown (re im : Int) (n acc : Nat) : Nat :=
  match n with
  | 0 => acc
  | j + 1 =>
    let k := acc + 2 ^ j
    if k ≤ 9000 ∧ re * sineCenti k ≤ im * sineCenti (9000 - k) then angleDown re im j k else angleDown re im j acc

/-- The phase of V against I in 0.01°, between −180° and 180°: the angle of V × conj(I). No rounding is named: one of its two
neighbours, and any value where either is 0 (R446, assumption 149). -/
def pointPhase (x : LineTest) (s : State) : Int × State :=
  -- V sin(wt + a) has the sums V cos a against the sine and V sin a against the cosine
  let re := x.vs * x.is + x.vc * x.ic
  let im := x.vc * x.is - x.vs * x.ic
  if re = 0 ∧ im = 0 then
    let (w, s1) := drawWord s
    (sx 16 (w.toNat % 2 ^ 16), s1)
  else
    let (b, s1) := drawBit s
    let up (p q : Int) : Int := (angleDown p q 14 0 : Int) + b2n b
    (if im = 0 then (if 0 < re then 0 else 18000)
     else if 0 < re then (if 0 < im then up re im else -(up re (-im)))
     else if 0 < im then 9000 + up im (-re) else -(9000 + up (-im) (-re)), s1)

/-- A point is added to the record: its frequency, |Z| and the phase. -/
def pointAdd (x : LineTest) (z : Nat) (ph : Int) : LineTest :=
  { x with bytes := x.bytes ++ toLe 2 (pointHz x) ++ toLe 4 z ++ toLe 2 (modI 16 ph) }

/-- After a point comes the next one, or the end. -/
def pointNext (x : LineTest) (s : State) : State :=
  if lineArg x 3 ≤ linePoints x then lineEnd x 0 (lineArg x 3) s else pointBegin x s

/-- A point has been demodulated: |Z| and the phase (R446). -/
def pointEnd (x : LineTest) (s : State) : State :=
  let z := pointZ x s
  let ph := pointPhase x z.2
  pointNext (pointAdd x z.1 ph.1) ph.2

/-! ## Commands -/

/-- A test with given numbers. -/
def lineNew (opc r h : Nat) (args : List Nat) (dcl settle avg : Nat) : LineTest :=
  { opc := opc, r := r, h := h, args := args, dcl := dcl, settle := settle, avg := avg, phase := .settle1, since := 0,
    cnt := 0, sv := 0, si := 0, cnt1 := 0, v1 := 0, i1 := 0, vs := 0, vc := 0, is := 0, ic := 0, broken := none, bytes := [] }

/-- The command names a row and a Hoe that exist; else DIAG_RANGE. -/
def lineUnit (r h : BitVec 8) : Bool := decide (r.toNat < 4) && decide (h.toNat < 32)

/-- LINE_CAL (R445): Rref in mΩ. -/
def execLineCal (r h : BitVec 8) (rref : BitVec 32) (s : State) : Res :=
  .next (
    if diagBusy s then s
    else if !lineUnit r h then adminDone 0x21 0x0023 0 [] s
    else if !lineReady s r.toNat h.toNat then adminDone 0x21 0x0020 0 [] s
    else dcrBegin (lineNew 0x21 r.toNat h.toNat [rref.toNat] 500 20 100) s)

/-- LINE_DCR (R444): DCL in mV, SETTLE and AVG in ms. -/
def execLineDcr (r h : BitVec 8) (dcl settle avg : Nat) (s : State) : Res :=
  .next (
    if diagBusy s then s
    else if !lineUnit r h ∨ dcl < 10 ∨ 2000 < dcl ∨ settle < 1 ∨ 1000 < settle ∨ avg < 1 ∨ 1000 < avg then adminDone 0x22 0x0023 0 [] s
    else if !lineReady s r.toNat h.toNat then adminDone 0x22 0x0020 0 [] s
    else dcrBegin (lineNew 0x22 r.toNat h.toNat [] dcl settle avg) s)

/-- LINE_IMP (R446): AMP in mV, F1 and F2 in Hz, N points, DLEN. -/
def execLineImp (r h : BitVec 8) (amp f1 f2 n dlen : Nat) (s : State) : Res :=
  .next (
    if diagBusy s then s
    else if !lineUnit r h ∨ amp < 10 ∨ 2000 < amp ∨ f1 < 20 ∨ 20000 < f2 ∨ f2 < f1 ∨ n < 1 ∨ 64 < n then adminDone 0x23 0x0023 0 [] s
    else if dlen < 8 * n then adminDone 0x23 0x0024 0 [] s
    else if !lineReady s r.toNat h.toNat then adminDone 0x23 0x0020 0 [] s
    else pointBegin (lineNew 0x23 r.toNat h.toNat [amp, f1, f2, n] 0 0 0) s)

/-- CMCELL is an enabled SENSE_IN cell (R447). -/
def cmCellOk (s : State) (r c : Nat) : Bool := cEn s r c && decide (cFunc s r c = 10)

/-- LINE_CLASSIFY (R447): CMCELL, RSHORT and ROPEN in mΩ. -/
def execLineClassify (r h cmcell : BitVec 8) (rshort ropen : BitVec 32) (s : State) : Res :=
  .next (
    let (row, hoe) := (r.toNat, h.toNat)
    if diagBusy s then s
    else if !lineUnit r h || decide (128 ≤ cmcell.toNat) then adminDone 0x24 0x0023 0 [] s
    else if hEn s row hoe || hSheared s row hoe || !cmCellOk s row cmcell.toNat then adminDone 0x24 0x0020 0 [] s
    else linePhase (lineNew 0x24 row hoe [cmcell.toNat, rshort.toNat, ropen.toNat] 500 20 20) .terminal s)

/-- The terminal's average, a sum of `n` values in S.3.36 of VSFS, against the rail: 3 SHORT_BAT, 4 SHORT_GND, none between
(R447). -/
def terminalClass (s : State) (r h n : Nat) (v : Int) : Option Nat :=
  let rail := hRail s r h
  let vsfs := regF s (pgHoe r) (hB h + 3) 0 17
  -- V = v / n / 2^36 × VSFS and Vbus = c' / 2^16 × VFS, both in 2^−10 V
  let num := v * vsfs * 10
  let bus := (regF s pgRail (rB rail + 2) 0 16 * regF s pgRail (rB rail) 8 17 * n : Nat) * (2 ^ 20 : Nat)
  if 9 * (bus : Int) ≤ num then some 3 else if num ≤ (bus : Int) then some 4 else none

/-- The test has met a Shear trip or a disable (R443). -/
def lineBroken (s : State) (x : LineTest) : Option Nat :=
  match x.broken with
  | some st => some st
  | none =>
    match x.phase with
    | .terminal => none
    | .running => if hEn s x.r x.h then none else some 0x0022
    | _ => if hEn s x.r x.h ∧ hRunning s x.r x.h then none else some 0x0022

/-- The phase has lasted its time, in ticks since it began. -/
def lineDue (s : State) (x : LineTest) : Bool := decide (x.since + lineTicks x ≤ s.now)

/-- The terminal has been averaged (R447): a short ends the test; else the sequencer enables the Hoe. -/
def terminalEnd (x : LineTest) (s : State) : State :=
  let ((n, v, _), s1) := lineMeans x s
  match terminalClass s1 x.r x.h n v with
  | some c => lineEnd x 0 c (frecAdd 8 (0x300 + x.r) (wd (x.h + 2 ^ 5 * c)) s1)
  | none =>
    let (ok, s2) := hoeTryEnable x.r x.h s1
    if ok then linePhase x .running s2 else lineEnd x 0x0020 0 s2

/-- RUNNING has come (R447): LINE_DCR runs under its own conditions, and where they fail the Hoe is disabled again (R443,
assumption 150). -/
def runningEnd (x : LineTest) (s : State) : State :=
  if lineReady s x.r x.h then dcrBegin x s else lineEnd x 0x0020 0 (hoeDisable x.r x.h s)

/-- A phase ends with what it has gathered. -/
def lineNext (x : LineTest) (s : State) : State :=
  match x.phase with
  | .terminal => terminalEnd x s
  | .running => if hRunning s x.r x.h then runningEnd x s else s
  | .settle1 => linePhase x .avg1 s
  | .avg1 =>
    let ((n, v, i), s1) := lineMeans x s
    linePhase { x with cnt1 := n, v1 := v, i1 := i } .settle2
      (lineInject x.r x.h 2 (perVref s1 x.r x.h (-(x.dcl : Int))) 0 0 s1)
  | .settle2 => linePhase x .avg2 s
  | .avg2 =>
    let (m, s1) := lineMeans x s
    dcrEnd x m s1
  | .point => linePhase x .demod s
  | .demod => pointEnd x s

/-- LINE_TEST_PHASE_END (R444): a phase of the test on a Hoe ends, at once where the test is broken off. -/
def execLineTestPhaseEnd (r : Fin 4) (h : Fin 32) (s : State) : Res :=
  .next (match s.line with
    | some x =>
      if x.r ≠ r ∨ x.h ≠ h then s
      else match lineBroken s x with
        | some st => lineEnd x st 0 s
        | none => if lineDue s x then lineNext x s else s
    | none => s)

end Sys2Proof.Machine
end

