-- ==== Sys2Proof/Machine/Power.lean ====
section
/-! DEFINITION. Power domains, Run and Stop, device Stop and wake, VCORE and the AON time base (R386–R403). -/

namespace Sys2Proof.Machine

/-- Change the sequencer's state. -/
def modPwr (f : Pwr → Pwr) (s : State) : State := { s with pwr := f s.pwr }

/-! ## What a stopped domain loses (R387) -/

/-- Unlist the entries of a table that `p` accepts. -/
def Tbl.drop' {α : Type} (p : Nat → Bool) (m : Tbl α) : Tbl α := m.filter fun e => !p e.1

/-- A register of a domain that is lost with it: all but ETH_WAKE, CHAIN_CFG.WRELAY and DRAM_CFG (R387). -/
def regLost (d : Nat) (key : Nat) : Bool :=
  match pageKind (key / 1024) with
  | some (k, i) =>
    decide (pageDom k i (key % 1024) = some d) && !(decide (k = .eth) && decide (key % 1024 = 0x0CC)) &&
      !(decide (k = .chain) && decide (key % 1024 = 0x010)) && !(decide (k = .dram) && decide (key % 1024 = 0x010))
  | none => false

/-- VIO and VIO_OK of a row as `old` has them: their reset is per supply (Table 12-9). -/
def keepVio (old : State) (r : Nat) (s : State) : State :=
  setRegF (pgRowc r) 0x010 10 2 (regF old (pgRowc r) 0x010 10 2) s

/-- Registers of a domain go back to reset. -/
def dropRegs (d : Nat) (s : State) : State :=
  let s1 := { s with regs := Tbl.drop' (regLost d) s.regs }
  if 16 ≤ d ∧ d < 20 then keepVio s (d - 16) s1 else s1

/-- The Trellis band cap of a band, in 10 M steps/s (Table 10-2). -/
def trelCap (band : Nat) : Nat := ([160, 150, 140, 125, 110, 95, 70, 45, 30][band]?).getD 30

/-- The tine band cap of a band, in 10 M instructions/s (Table 5-3). -/
def tineCap (band : Nat) : Nat := ([190, 175, 160, 145, 130, 110, 80, 50, 35][band]?).getD 35

/-- VTARGET.BAND. -/
def bandNow (s : State) : Nat := regF s pgPwr 0x016 10 4

/-- A band takes effect (R130, R398): VTARGET.BAND, the tine caps and the Trellis caps. -/
def setBand (b : Nat) (s : State) : State :=
  setRegF pgTrel 0x031 0 8 (trelCap b) (setRegF pgPwr 0x016 10 4 b { s with bandCap := tineCap b })

/-- A mailbox, by its number, is in a plot: the plot's own, or one of its eight tine slots (Table 1-3). -/
def plotMbox (p n : Nat) : Bool := decide (n = p) || (decide (16 + 8 * p ≤ n) && decide (n < 24 + 8 * p))

/-- A plot loses its state; its tines stay halted, and what the Nursery knows of them is held in AON. A write withheld at one of its
mailboxes waits there no more, and meets DORMANT when it is tried again (R390). -/
def plotLost (p : Nat) (s : State) : State :=
  let s1 := forAll (List.range 9) (fun k x =>
    let t := 9 * p + k
    clearRange (trayBase t + 0x8000) 0x8000 (clearRange (trayBase t) 0x4000
      (setTine t { Tine.reset with retired := (tineAt x t).retired, lastAlive := x.now } x))) s
  { s1 with
    mbox := Tbl.drop' (plotMbox p) s1.mbox
    rrLast := Tbl.drop' (fun u => decide (u = p)) s1.rrLast
    withheld := s1.withheld.filter fun e =>
      !plotMbox p e.2.1 &&
        match e.1 with
        | .store t => decide (t.val / 9 ≠ p)
        | _ => true }

/-- A row loses its state but for the pad latches (R268). -/
def rowLost (r : Nat) (s : State) : State :=
  let cs := (List.range 128).map fun c => (c, (cellAt s r c).safe)
  let s1 := { s with
    fifo := Tbl.drop' (fun k => decide (k / 160 = r)) s.fifo
    cells := Tbl.drop' (fun k => decide (k / 128 = r)) s.cells
    hoes := Tbl.drop' (fun k => decide (k / 32 = r)) s.hoes
    rails := Tbl.drop' (fun k => decide (k / 4 = r)) s.rails
    engines := Tbl.drop' (fun k => decide (k / 8 = r)) s.engines
    cgArm := Tbl.drop' (fun k => decide (k = r)) s.cgArm }
  forAll cs (fun e x => setCell r e.1 { CellSt.reset with safe := e.2 } x) s1

/-- The own address of a MAC (Table 15-4). -/
def ethMac (s : State) (m : Nat) : Nat := regF s (pgEth m) 0x012 0 32 + 2 ^ 32 * regF s (pgEth m) 0x013 0 16

/-- LINK loses its state; the DRAM is in self-refresh. -/
def linkLost' (s : State) : State :=
  { s with
    hq := [], hqLast := 0, hqEnHeld := false, ports := [], cellsIn := [], chainTags := [], chainBack := [], chainFwd := [], outside := false, nextTag := 0,
    msixTab := [], msixPend := [], devM1 := 0, strms := [], macs := [], fifo := Tbl.drop' (fun k => decide (0x1000 ≤ k)) s.fifo, barHeld := none,
    barHi := [], memCtl := { s.memCtl with derate := 1, osc := 0, bank := 0 } }

/-- TREL loses its state. -/
def trelLost (s : State) : State :=
  { s with
    hops := [], chans := [], xcache := [], jsel := 0
    withheld := s.withheld.filter fun e =>
      match e.1 with
      | .chan _ => false
      | _ => true }

/-- A domain has no power: everything in it is lost (R387). -/
def domLost (d : Nat) (s : State) : State :=
  let s1 := dropRegs d s
  if d < 16 then plotLost d s1
  else if d < 20 then rowLost (d - 16) s1
  else if d = 20 then setRegF pgTrel 0x031 0 8 (trelCap (bandNow s1)) (trelLost s1)
  else if d = 21 then clearRange 0x04000000 0x200000 s1
  else if d = 22 then clearRange 0x04200000 0x200000 s1
  else linkLost' { s1 with wakeMac := (ethMac s 0, ethMac s 1) }

/-! ## Refusals (Table 17-1, R389) -/

/-- A refuser: its reason, its source identifier and the domain it names. -/
structure Refuser where
  reason : Nat
  src : Nat
  dom : Nat
  deriving DecidableEq, Repr

/-- The lowest domain in Run that depends on `d` and is not in `named`: plots on TREL and Shed, TREL on Shed. -/
def dependentOn (s : State) (named : Nat → Bool) (d : Nat) : Option Nat :=
  let above := List.range 16 ++ (if d = domTrel then [] else [domTrel])
  above.find? fun x => domSt s x = .run && !named x

/-- The first of `n` units that a test finds. -/
def firstUnit (n : Nat) (p : Nat → Bool) : Option Nat := (List.range n).find? p

/-- A tine keeps its plot from stopping: not asleep at level 0 and not halted (Table 17-1). -/
def tineActive (s : State) (t : Nat) : Bool :=
  !(asleep s t && decide (tLvl s t = 0)) && decide ((tineAt s t).halt = .no) && !(tineAt s t).retired

/-- A debugger holds a tine halted without allow-stop (Table 17-1). -/
def tineHeldHalt (s : State) (t : Nat) : Bool :=
  match (tineAt s t).halt with
  | .host => !s.hostSess.allowStop
  | .probe => !s.probeSess.allowStop
  | _ => false

/-- The Nursery is replacing, or testing, a tine of a plot. -/
def nursBusy (s : State) (p : Nat) : Bool :=
  s.retireQ.any (fun e => decide (e.1 / 9 = p)) || (match s.reinst with | some t => decide (t / 9 = p) | none => false)

/-- A stream or CRF function of a MAC is enabled. -/
def macUsed (s : State) (m : Nat) : Bool :=
  regB s (pgEth m) 0x0C8 0 || (List.range 64).any fun i => bit (strmCfg s m false i) 0 || bit (strmCfg s m true i) 0

/-- A row refuses Stop (R268, R309). -/
def rowUsedAtAll (s : State) (r : Nat) : Bool :=
  (List.range 128).any (cEn s r ·) || (List.range 8).any (fun e => regB s (pgRowc r) (seB e + 2) 0) ||
    (List.range 32).any (hEn s r ·) || (List.range 4).any fun k => regB s pgRail (0x100 + 8 * (4 * r + k)) 0

/-- The refusals of a domain by its contents; `dev` for DEVICE_STOP (R395). -/
def refuseUnits (s : State) (named : Nat → Bool) (dev : Bool) (d : Nat) : Option Refuser :=
  let dep : Option Refuser :=
    if dev then none else (dependentOn s named d).map fun x => { reason := 10, src := 0x350, dom := x }
  if d < 16 then
    match (List.range 9).find? (fun k => tineActive s (9 * d + k)) with
    | some k => some { reason := 1, src := 9 * d + k, dom := d }
    | none =>
      if (List.range 9).any (fun k => tineHeldHalt s (9 * d + k)) then some { reason := 7, src := 0x320, dom := d }
      else if nursBusy s d then some { reason := 9, src := 0x340, dom := d } else none
  else if d < 20 then
    if rowUsedAtAll s (d - 16) then some { reason := 4, src := 0x300 + (d - 16), dom := d } else none
  else if d = domTrel then
    match firstUnit 128 (fun c => decide (chState s c ≠ 0)) with
    | some c => some { reason := 2, src := 0x100 + c, dom := d }
    | none =>
      match firstUnit 256 (fun h => decide (0 < hopDepth s h + hopRetained s h)) with
      | some h => some { reason := 3, src := 0x200 + h, dom := d }
      | none => dep
  else if d = domLink then
    if hostEn s && !dev then some { reason := 6, src := 0x310, dom := d }
    else match firstUnit 2 (macUsed s) with
      | some m => some { reason := 5, src := 0x311 + m, dom := d }
      | none => none
  else dep

/-- A graft that waits targets a domain (R378). -/
def graftOn (s : State) (d : Nat) : Bool :=
  match s.boot.graft with
  | some g => g.doms.contains d
  | none => false

/-- The first refuser of a domain (Table 17-1); `again` at the retest of a domain that is already stopping. -/
def refuses (s : State) (named : Nat → Bool) (dev again : Bool) (d : Nat) : Option Refuser :=
  match refuseUnits s named dev d with
  | some r => some r
  | none =>
    if graftOn s d then some { reason := 8, src := 0x330, dom := d }
    else if !again && (domSt s d = .stopping || domSt s d = .closing || domSt s d = .restoring) then
      some { reason := 13, src := 0x350, dom := d }
    else none

/-- The first refuser of a mask, in Index order; domains already in Stop are not tested. -/
def refuseMask (s : State) (mask : Nat) (dev : Bool) : Option Refuser :=
  (List.range 24).findSome? fun d =>
    if mask / 2 ^ d % 2 = 1 ∧ domSt s d ≠ .stop then refuses s (fun x => decide (mask / 2 ^ x % 2 = 1)) dev false d
    else none

/-! ## Records and events (R389, R391, R402) -/

/-- PWR_STATE. -/
def pwrState (s : State) : Nat :=
  (List.range 24).foldl (fun acc d => acc + (if domSt s d = .run then 2 ^ d else 0)) 0

/-- PWR_BUSY. -/
def pwrBusy (s : State) : Nat :=
  (List.range 24).foldl (fun acc d =>
    acc + (if domSt s d = .stopping ∨ domSt s d = .closing ∨ domSt s d = .restoring then 2 ^ d else 0)) 0

/-- The mask of domains in Stop. -/
def stopMask (s : State) : Nat :=
  (List.range 24).foldl (fun acc d => acc + (if domSt s d = .stop then 2 ^ d else 0)) 0

/-- Record a refusal or an abort in PWR_REFUSE_SRC. -/
def refuseRec (r : Refuser) (abort : Bool) (s : State) : State :=
  setReg pgPwr 0x013
    (wd (r.src + 2 ^ 10 * r.dom + 2 ^ 15 * r.reason + 2 ^ 19 * b2n abort + 2 ^ 20 * (s.now % 2 ^ 20))) s

/-- A power event: 0 command, 1 voltage, 2 VDROP, 3 refusal (R402). -/
def powerEvent (k : Nat) (s : State) : State :=
  let v := reg s pgPwr 0x018
  if bit v 10 && bit v (11 + k) then raiseUnit (getF v 0 3) (getF v 3 7) 61 s else s

/-- A refusal counts, is recorded and raised. -/
def pwrRefused (r : Refuser) (s : State) : State := powerEvent 3 (bumpF pgPwr 0x014 0 12 1 (refuseRec r false s))

/-- A PWR_STOP, PWR_RUN or DEVICE_STOP command that was refused, or had nothing to do, completes. -/
def pwrDone (opc status result : Nat) (s : State) : State := powerEvent 0 (adminDone opc status result [] s)

/-- A PWR_STOP, PWR_RUN or DEVICE_STOP command that went on completes. -/
def pwrEnd (entry : Option Nat) (opc status result : Nat) (s : State) : State :=
  powerEvent 0 (adminEnd entry opc status result s)

/-! ## Accesses in flight (R390) -/

/-- A physical address is in a domain. -/
def inDom (s : State) (d pa : Nat) : Bool := decide (paDom (ownPa s pa) = some d)

/-- An outstanding load reads a word in a domain. -/
def flightIn (s : State) (d : Nat) (f : Flight) : Bool :=
  match f with
  | .load _ srcs _ _ _ _ => srcs.any fun x => match x with | .read pa => inDom s d pa | .have' _ => false
  | _ => false

/-- Loads of tines outstanding into a domain. -/
def loadsInto (s : State) (d : Nat) : List (Nat × Flight) :=
  (List.range 144).filterMap fun t =>
    match (tineAt s t).flight with
    | some f => if flightIn s d f then some (t, f) else none
    | none => none

/-- Words that channels have outstanding into a domain. -/
def writesInto (s : State) (d : Nat) : List (Nat × Nat) :=
  ((List.range 128).map fun c =>
    (((chanAt s c).outst.map fun x => (dataWords x.data).map fun e => x.pa + e.1).flatten.filter (inDom s d)).map fun a => (c, a)).flatten

/-- The domain of a mailbox, by its number (Table 1-3). -/
def mboxIn (d n : Nat) : Bool := decide (d < 16) && plotMbox d n

/-- An access that was in flight when the domain began to stop is still outstanding: a load, a channel's write, a write withheld at
a mailbox of it, a read through a chain window. -/
def stillOut (s : State) (d : Nat) : Bool :=
  s.pwr.flying.any (fun e => decide ((tineAt s e.1).flight = some e.2)) ||
    s.pwr.flyingW.any (fun e => (writesInto s d).contains e) ||
    s.withheld.any (fun e => mboxIn d e.2.1) || (decide (d = domLink) && !s.chainTags.isEmpty)

/-! ## Stopping (R390–R392, R395) -/

/-- Restore order (Table 17-1). -/
def restoreOrder : List Nat := [23, 21, 22, 20, 16, 17, 18, 19] ++ List.range 16

/-- Restore delay in ticks. -/
def restoreDelay (d : Nat) : Nat :=
  if d = 23 then 180 else if d = 21 ∨ d = 22 then 25 else if d = 20 then 15 else if d < 16 then 12 else 10

/-- A domain begins its stop. -/
def stopBegin (d : Nat) (s : State) : State :=
  setDom d .stopping (modPwr (fun x => { x with
    stopping := some (d, s.now, none), flying := loadsInto s d, flyingW := writesInto s d }) s)

/-- A PMBus transaction goes out (R397): PWR_VCFG.ADDR, PEC, the command and its data. -/
def pmbus (ws : List Nat) (s : State) : State :=
  emit (.other "pmbus" (regF s pgPwr 0x015 0 7 :: regF s pgPwr 0x015 7 1 :: ws)) s

/-- OPERATION on or off goes out; whether the PMIC acknowledges it is free (assumption 161), and where it does not STATUS_WORD is
read (R397). -/
def operation (on : Bool) (s : State) : Bool × State :=
  let (nack, s1) := drawBit (pmbus [0x01, b2n on] s)
  (!nack, if nack then pmbus [0x79] s1 else s1)

/-- The device is in Stop; VCORE is turned off under OFFSTOP (R395). -/
def deviceStopped (s : State) : State :=
  let s1 := modPwr (fun x => { x with devStop := true }) s
  if regB s pgPwr 0x015 24 then
    let (ack, s2) := operation false s1
    if ack then setRegB pgPwr 0x017 1 false (modPwr (fun x => { x with off := true }) s2) else s2
  else s1

/-- The record of an admin entry of queue 0 has been published. -/
def recordOut (s : State) (entry : Option Nat) : Bool :=
  match entry with
  | some k => (hqAt s 0).held.isEmpty && !(hqAt s 0).slots.any fun y => decide (y.slot = k)
  | none => true

/-- Queue 0 publishes what it can. -/
def publishAll (s : State) : State := forAll (List.range 64) (fun _ x => recordStep 0 x) s

/-- LINK begins its stop in a device Stop: the PLL is stopped without R351's test, and EN is cleared (R395). -/
def linkBegin (s : State) : State :=
  let s1 := setRegF pgDev 0x051 0 2 0 (setRegB pgDev 0x050 3 false (pllStop s))
  stopBegin domLink (if hostEn s1 then hostDisable s1 else s1)

/-- A DEVICE_STOP that has completed stops LINK, once its record and head word are published (R395). -/
def linkTry (s : State) : State :=
  match s.pwr.cmd with
  | some c =>
    if c.told && s.pwr.stopping.isNone && decide (c.todo.head? = some domLink) then
      let s1 := publishAll s
      if recordOut s1 c.entry then linkBegin (modPwr (fun x => { x with cmd := some { c with todo := c.todo.drop 1 } }) s1) else s1
    else s
  | none => s

/-- The domains of a stop command that are still to stop. -/
def stopTodo (s : State) (c : PwrCmd) : List Nat := c.todo.filter fun d => domSt s d ≠ .stop

/-- A stop command whose domains are all in Stop ends (R389, R395, R403). -/
def stopOver (c : PwrCmd) (s : State) : State :=
  if c.kind = 2 then deviceStopped (if c.told then s else pwrEnd c.entry 0x12 0 0 s) else pwrEnd c.entry 0x10 0 (stopMask s) s

/-- Accepted stop commands go on in order: the next domain of the first begins, or that command ends. -/
def stopRun (q : List PwrCmd) (s : State) : State :=
  match q with
  | [] => modPwr (fun x => { x with cmd := none, cmdQ := [] }) s
  | c :: rest =>
    match stopTodo s c with
    | d :: ds =>
      if c.kind = 2 ∧ d = domLink then
        linkTry (modPwr (fun x => { x with cmd := some { c with todo := d :: ds, told := true }, cmdQ := rest })
          (if c.told then s else pwrEnd c.entry 0x12 0 0 s))
      else stopBegin d (modPwr (fun x => { x with cmd := some { c with todo := ds }, cmdQ := rest }) s)
    | [] => stopRun rest (stopOver c s)

/-- The stop commands that are left, the one under way first. -/
def stopQueue (s : State) : List PwrCmd := (match s.pwr.cmd with | some c => [c] | none => []) ++ s.pwr.cmdQ

/-- A stop command has been accepted: it begins, or waits for the one under way. -/
def stopAccept (c : PwrCmd) (s : State) : State :=
  if s.pwr.cmd.isSome then modPwr (fun x => { x with cmdQ := x.cmdQ ++ [c] }) s else stopRun [c] s

/-- A stop is aborted (R391): counted and recorded, and the command ends with PWR_ABORTED, if it has not completed. -/
def cmdAbort (r : Refuser) (c : PwrCmd) (s : State) : State :=
  let s1 := powerEvent 3 (bumpF pgPwr 0x014 12 12 1 (refuseRec r true (modPwr (fun x => { x with stopping := none, cmd := none }) s)))
  stopRun s.pwr.cmdQ
    (if c.told then s1 else pwrEnd c.entry (if c.kind = 2 then 0x12 else 0x10) 0x0011 (stopMask s1) s1)

/-- A stop is aborted before its commit point: the domain is in Run again (R391). -/
def stopAbort (r : Refuser) (s : State) : State :=
  match s.pwr.stopping, s.pwr.cmd with
  | some (d, _, none), some c => cmdAbort r c (setDom d .run s)
  | _, _ => s

/-- The accesses in flight have drained before tick s + 64: the tests are made again, and the domain commits or the stop aborts
(R390). -/
def drainDone (s : State) : State :=
  match s.pwr.stopping, s.pwr.cmd with
  | some (d, t, none), some c =>
    if t + 64 ≤ s.now ∨ stillOut s d then s
    else match refuses s (fun x => decide (c.mask / 2 ^ x % 2 = 1)) (decide (c.kind = 2)) true d with
    | some r => stopAbort r s
    | none => setDom d .closing (modPwr (fun x => { x with stopping := some (d, t, some s.now) }) s)
  | _, _ => s

/-! ## Run requests and restore (R392–R394) -/

/-- The domains a request names with those they depend on (R393). -/
def withDeps (mask : Nat) : List Nat :=
  let has (d : Nat) : Bool := decide (mask / 2 ^ d % 2 = 1)
  let plot := (List.range 16).any has
  let trel := plot || has domTrel
  (List.range 24).filter fun d =>
    has d || (plot && decide (d = domTrel)) || (trel && (decide (d = domShda) || decide (d = domShdb)))

/-- The next domain begins its restore, one at a time in order; none while VCORE is off (R394). -/
def restoreNext (s : State) : State :=
  if s.pwr.restoring.isSome || s.pwr.off then s
  else match restoreOrder.find? (fun d => s.pwr.want.contains d && domSt s d = .stop) with
    | some d =>
      setDom d .restoring (modPwr (fun x => { x with
        want := x.want.filter fun y => decide (y ≠ d), restoring := some (d, s.now + restoreDelay d) }) s)
    | none => s

/-- One domain of a Run request (R392, R393). -/
def runOne (src d : Nat) (s : State) : State :=
  match domSt s d with
  | .run | .restoring => s
  | .stopping => stopAbort { reason := 11, src := src, dom := d } s
  | .closing | .stop => modPwr (fun x => { x with want := insSorted x.want d }) s

/-- A Run request takes away a device Stop that waits to stop LINK: LINK's stop has not come to its commit point (R392, R395,
assumption 157). -/
def linkStays (src : Nat) (s : State) : State :=
  match s.pwr.cmd with
  | some c =>
    if c.told && s.pwr.stopping.isNone then cmdAbort { reason := 11, src := src, dom := domLink } c s else s
  | none => s

/-- VCORE is turned on for a restore, if it is off (R396). -/
def vcoreOn (s : State) : State :=
  if s.pwr.off && s.pwr.wake.isNone && !s.pwr.want.isEmpty then
    (operation true (modPwr (fun x => { x with wake := some .ready }) s)).2
  else s

/-- A Run request (R393). -/
def runRequest (src mask : Nat) (s : State) : State :=
  if mask = 0 then s else restoreNext (vcoreOn (forAll (withDeps mask) (runOne src) (linkStays src s)))

/-- The domains of a PWR_RUN are all in Run. -/
def runMet (s : State) (r : Nat × Option Nat) : Bool := (withDeps r.1).all fun d => domSt s d = .run

/-- PWR_RUN commands whose domains all run complete (R403). -/
def runDone (s : State) : State :=
  forAll (s.pwr.runs.filter (runMet s)) (fun r x => pwrEnd r.2 0x11 0 (pwrState x) x)
    (modPwr (fun x => { x with runs := x.runs.filter fun r => !runMet s r }) s)

/-- The boot ROM starts again: the boot state and the BOOT page but for ERR (R374, R396). -/
def bootAgain (s : State) : State :=
  let err := regF s pgBoot 0x010 5 4
  setRegF pgBoot 0x010 5 4 err (clearPage pgBoot { s with boot := { Boot.reset with sel := s.boot.sel } })

/-- A wake is over: all domains run again, and the boot proceeds; of LINK alone, LINK runs (R396). -/
def wakeDone (s : State) : State :=
  let all := (List.range 24).all fun d => domSt s d = .run
  if s.pwr.devStop then
    (if all then bootAgain (modPwr (fun x => { x with devStop := false, woken := false }) s) else s)
  else if domSt s domLink = .run ∧ s.pwr.want.isEmpty then modPwr (fun x => { x with woken := false }) s
  else s

/-- A restored domain is at reset; checkpoints of a plot, or with SHDA of every plot, are invalid (R394, R413). -/
def restored (d : Nat) (s : State) : State :=
  let s1 := setDom d .run s
  if d < 16 then forAll ((List.range 8).map fun k => 8 * d + k) ckptInvalid s1
  else if d = domShda then forAll (List.range 128) ckptInvalid s1
  else s1

/-! ## Commands of Stop and Run -/

/-- PWR_STOP (R389). -/
def execPwrStop (mask : BitVec 24) (s : State) : Res :=
  .next (
    if inReset s then s
    else match refuseMask s mask.toNat false with
    | some r => pwrDone 0x10 0x0010 (stopMask s) (pwrRefused r s)
    | none =>
      let (e, s1) := adminBegin 0x10 s
      let todo := restoreOrder.reverse.filter fun d => decide (mask.toNat / 2 ^ d % 2 = 1)
      stopAccept { kind := 0, mask := mask.toNat, todo := todo, entry := e, told := false } s1)

/-- DOMAIN_DRAIN_COMPLETE (R390). -/
def execDomainDrainComplete (s : State) : Res := .next (drainDone s)

/-- Table 17-2 lists a source identifier (R388). -/
def srcListed (n : Nat) : Bool :=
  decide (n < 0x090) || (decide (0x100 ≤ n) && decide (n < 0x180)) || (decide (0x200 ≤ n) && decide (n < 0x304)) ||
    [0x310, 0x311, 0x312, 0x320, 0x330, 0x340, 0x350].contains n

/-- DOMAIN_DRAIN_TIMEOUT (R390): at tick s + 64, with the source of the oldest access outstanding. -/
def execDomainDrainTimeout (src : BitVec 10) (s : State) : Res :=
  .next (
    match s.pwr.stopping with
    | some (d, t, none) =>
      if t + 64 ≤ s.now ∧ srcListed src.toNat then stopAbort { reason := 12, src := src.toNat, dom := d } s else s
    | _ => s)

/-- The sequencer brings every domain back, and VCORE first, if it is off. -/
def wakeBegin (s : State) : State := runRequest 0x350 0xFFFFFF s

/-- The last domain of a device Stop, LINK, is in Stop: the device is, unless a request has brought another domain back; a wake or
a request that came after the commit point is met now (R392, R395). -/
def deviceOff (s : State) : State :=
  let s1 := modPwr (fun x => { x with cmd := none }) s
  let s2 := if (List.range 24).all fun d => domSt s d = .stop then deviceStopped s1 else s1
  stopRun s2.pwr.cmdQ (if s2.pwr.woken then wakeBegin s2 else restoreNext (vcoreOn s2))

/-- DOMAIN_SWITCH_OPEN (R390): 5 µs after the commit the domain is in Stop. -/
def execDomainSwitchOpen (s : State) : Res :=
  .next (
    match s.pwr.stopping with
    | some (d, _, some c) =>
      if c + 5 ≤ s.now then
        let s1 := domLost d (setDom d .stop (modPwr (fun x => { x with stopping := none }) s))
        match s.pwr.cmd with
        | some cmd =>
          if cmd.kind = 2 ∧ d = domLink then deviceOff s1 else restoreNext (stopRun (stopQueue s1) s1)
        | none => restoreNext s1
      else s
    | _ => s)

/-- PWR_RUN (R393, R403). -/
def execPwrRun (mask : BitVec 24) (s : State) : Res :=
  .next (
    if inReset s then s
    else
      let (e, s1) := adminBegin 0x11 s
      runDone (runRequest 0x310 mask.toNat (modPwr (fun x => { x with runs := x.runs ++ [(mask.toNat, e)] }) s1)))

/-- The requester of a write of PWR_RUNREQ that is accepted: WS code of a tine, or a host or debugger as debugger under a Walled
grant that includes debug-wake (R393, R402, assumption 158). -/
def runreqSrc (s : State) (w : Who) : Option Nat :=
  if !wsOrGrant s w then none
  else match w with
  | .host => if s.hostSess.debugWake then some 0x320 else none
  | .probe => if s.probeSess.debugWake then some 0x320 else none
  | _ => some (whoSrc w)

/-- A write of PWR_RUNREQ (R393, R402). -/
def runreqWrite (w : Who) (v : Word) (s : State) : State :=
  match runreqSrc s w with
  | some src => if bit v 39 then runRequest src (getF v 0 24) s else s
  | none => s

/-- PWR_RUNREQ (R393). -/
def execPwrRunreq (w : Who) (mask : BitVec 24) (s : State) : Res :=
  .next (gated w pgPwr 0x012 (runreqWrite w (wd (mask.toNat + 2 ^ 39))) s)

/-- DOMAIN_RESTORED (R394). -/
def execDomainRestored (s : State) : Res :=
  .next (
    match s.pwr.restoring with
    | some (d, e) =>
      if e ≤ s.now then
        wakeDone (runDone (restoreNext (restored d (modPwr (fun x => { x with restoring := none }) s))))
      else s
    | none => s)

/-- DEVICE_STOP (R395): every domain, LINK last; DEPENDENT and HOST do not refuse. -/
def execDeviceStop (s : State) : Res :=
  .next (
    if inReset s then s
    else match refuseMask s 0xFFFFFF true with
    | some r => pwrDone 0x12 0x0010 0 (pwrRefused r s)
    | none =>
      let (e, s1) := adminBegin 0x12 s
      stopAccept { kind := 2, mask := 0xFFFFFF, todo := restoreOrder.reverse, entry := e, told := false } s1)

/-! ## Wake (R362, R363, R396) -/

/-- A source that wakes the device. -/
def wakeCause (x : WakeSrc) : Nat :=
  match x with
  | .qspi => 1 | .pcie => 2 | .phyint _ => 3 | .frame _ => 4 | .chain _ => 5

/-- A wake source is enabled. -/
def wakeEnabled (s : State) (x : WakeSrc) : Bool :=
  match x with
  | .qspi => regB s pgAon 0x013 0
  | .pcie => regB s pgAon 0x013 1
  | .phyint m => regB s (pgEth m) 0x0CC 1
  | .frame m => regB s (pgEth m) 0x0CC 0
  | .chain p => regB s pgAon 0x013 (2 + b2n p)

/-- A DEVICE_STOP is under way. -/
def devStopping (s : State) : Bool := match s.pwr.cmd with | some c => decide (c.kind = 2) | none => false

/-- A wake source is recognised: its cause is recorded, and it is a Run request, of every domain in a device Stop and while a
DEVICE_STOP is under way, else of LINK; later sources in the same wake are ignored (R392, R393, R396). -/
def wakeOn (x : WakeSrc) (s : State) : State :=
  if !wakeEnabled s x || s.pwr.woken || inReset s then s
  else
    let s1 := setRegF pgAon 0x014 0 3 (wakeCause x) (modPwr (fun p => { p with woken := true }) s)
    if s.pwr.devStop || devStopping s then wakeDone (wakeBegin s1)
    else if domSt s domLink = .stop then wakeDone (runRequest 0x350 (2 ^ domLink) s1)
    else s

/-- The AON detectors look: LINK is in Stop, or a DEVICE_STOP is on its way there (R363, R396). -/
def detects (s : State) : Bool := decide (domSt s domLink = .stop) || devStopping s

/-- DEVICE_WAKE (R396). -/
def execDeviceWake (x : WakeSrc) (s : State) : Res := .next (if s.pwr.devStop || devStopping s then wakeOn x s else s)

/-- CHAIN_WAKE_PATTERN (R362): recognised on a port, and relayed under WRELAY. -/
def execChainWakePattern (down : Bool) (s : State) : Res :=
  .next (
    if detects s then
      let s1 := wakeOn (.chain down) s
      if regB s pgChain 0x010 0 && wakeEnabled s (.chain down) then wakeSend (1 - b2n down) s1 else s1
    else s)

/-- A frame is a wake frame of a MAC: Ethertype 0x88B6, OP 6, to the MAC's own address or to broadcast, with its KEY (R363). The own
address is ETH_MAC as LINK's switch found it (assumption 156). -/
def wakeMatches (s : State) (m : Nat) (f : WakeFrame) : Bool :=
  let own := if domSt s domLink ≠ .stop then ethMac s m else if m = 0 then s.wakeMac.1 else s.wakeMac.2
  decide (f.ethertype = 0x88B6) && decide (f.op = 6) && decide (f.key.toNat = regF s (pgEth m) 0x0CC 2 32) &&
    (decide (f.dst.toNat = 2 ^ 48 - 1) || decide (f.dst.toNat = own))

/-- WAKE_FRAME (R363): a MAC's PHY receives a frame. -/
def execWakeFrame (m : Fin 2) (f : WakeFrame) (s : State) : Res :=
  .next (if detects s ∧ wakeMatches s m f then wakeOn (.frame m) s else s)

/-- PHY_INTERRUPT_WAKE (R363). -/
def execPhyInterruptWake (m : Fin 2) (s : State) : Res :=
  .next (if detects s then wakeOn (.phyint m) s else s)

/-! ## VCORE (R397–R400) -/

/-- The band row of a target (R128). -/
def bandOf (mv : Nat) : Nat :=
  if 950 ≤ mv then 0 else if 900 ≤ mv then 1 else if 850 ≤ mv then 2 else if 800 ≤ mv then 3 else if 750 ≤ mv then 4
  else if 700 ≤ mv then 5 else if 600 ≤ mv then 6 else if 500 ≤ mv then 7 else 8

/-- A linear VOUT_MODE with exponent −8 to −15 (R397). -/
def voutModeOk (mode : Nat) : Bool := decide (mode / 32 = 0) && decide (17 ≤ mode % 32) && decide (mode % 32 ≤ 24)

/-- A change ends with VOLT_FAIL (R399). -/
def voltFail (s : State) : State :=
  adminEnd (s.pwr.volt.bind (·.entry)) 0x13 0x0014 (getF (reg s pgPwr 0x016) 0 14)
    (pmbus [0x79] (setRegB pgPwr 0x017 0 false (setRegB pgPwr 0x017 2 true
      (modPwr (fun x => { x with volt := none }) s))))

/-- A change completes: a raise sets the new band (R398). -/
def voltDone (target : Nat) (s : State) : State :=
  let s1 := setBand (bandOf target) (setRegB pgPwr 0x017 0 false (modPwr (fun x => { x with volt := none }) s))
  powerEvent 1 (adminEnd (s.pwr.volt.bind (·.entry)) 0x13 0 (getF (reg s1 pgPwr 0x016) 0 14) s1)

/-- A change to the present set point: a band that it raises waits for VREADY and the settle time all the same (R130, R398). -/
def voltHere (m : Nat) (s : State) : State :=
  if bandOf m < bandNow s then
    modPwr (fun x => { x with volt := x.volt.map fun v =>
      { v with sent := some s.now, phase := if regB s pgPwr 0x017 1 then .settle s.now else .ready } }) s
  else voltDone m s

/-- Another PWR_VOLT, PWR_STOP, PWR_RUN or DEVICE_STOP is in progress (R399). -/
def pwrInUse (s : State) : Bool := s.pwr.cmd.isSome || !s.pwr.runs.isEmpty || s.pwr.volt.isSome

/-- PWR_VOLT (R398, R399); `mode` and `ack` are the PMIC's answer to the first command's VOUT_MODE read. A lowering sets the band of
its target before anything else. -/
def execPwrVolt (mv : BitVec 16) (mode : BitVec 8) (ack : Bool) (s : State) : Res :=
  .next (
    let m := mv.toNat
    let res := getF (reg s pgPwr 0x016) 0 14
    if inReset s then s
    else if m < 450 ∨ 950 < m then adminDone 0x13 0x0012 res [] s
    else if pwrInUse s then adminDone 0x13 0x0015 res [] s
    else if m < 700 ∧ apllOn s then
      adminDone 0x13 0x0013 res [] (bumpF pgPwr 0x014 0 12 1 (refuseRec { reason := 14, src := 0x350, dom := 0 } false s))
    else
      let (e, s0) := adminBegin 0x13 s
      let s1 := setRegB pgPwr 0x017 0 true (setRegF pgPwr 0x016 0 10 m s0)
      let s2 := modPwr (fun x => { x with volt := some { target := m, sent := none, phase := .step, entry := e } })
        (if m < s.pwr.mv then setBand (bandOf m) s1 else s1)
      if s.pwr.mode = none ∧ (!ack ∨ !voutModeOk mode.toNat) then voltFail (pmbus [0x20] s2)
      else
        let s3 := if s.pwr.mode.isSome then s2
          else pmbus [0x20] (modPwr (fun x => { x with mode := some (32 - mode.toNat % 32) }) s2)
        if m = s.pwr.mv then voltHere m s3 else s3)

/-- The next set point toward a target. -/
def voltNext (present target : Nat) : Nat :=
  if present < target then min target (present + 10) else max target (present - 10)

/-- The ULINEAR16 code of a set point (R397); where it falls between two codes either results (assumption 10). -/
def voutCode (mv : Nat) (s : State) : Nat × State :=
  let k := mv * 2 ^ (s.pwr.mode.getD 8)
  if k % 1000 = 0 then (k / 1000, s)
  else
    let (b, s1) := drawBit s
    (k / 1000 + b2n b, s1)

/-- VOLT_STEP (R398): a VOUT_COMMAND is sent, 1 ms after the one before at the earliest; `ack` is false for a NACK or PEC
error. -/
def execVoltStep (ack : Bool) (s : State) : Res :=
  .next (
    match s.pwr.volt with
    | some v =>
      let due : Bool := match s.pwr.stepAt with | some t => decide (t + 1000 ≤ s.now) | none => true
      if v.phase = .step ∧ due ∧ regB s pgPwr 0x017 1 ∧ !s.pwr.off then
        let n := voltNext s.pwr.mv v.target
        let (code, s0) := voutCode n s
        let s1 := modPwr (fun x => { x with stepAt := some s.now }) (pmbus [0x21, code] s0)
        if !ack then voltFail s1
        else setRegB pgPwr 0x017 1 false (modPwr (fun x => { x with
          mv := n, volt := some { v with sent := some s.now, phase := .ready } }) s1)
      else s
    | none => s)

/-- VREADY_RISE (R398): the pin rises; after the last step, or at a wake, the settle time begins. -/
def execVreadyRise (s : State) : Res :=
  .next (
    if s.pwr.off ∧ s.pwr.wake = none then s
    else
      let s1 := modPwr (fun x => { x with wake := if x.wake = some .ready then some (.settle s.now) else x.wake })
        (setRegB pgPwr 0x017 1 true s)
      match s.pwr.volt with
      | some v =>
        if v.phase = .ready then
          modPwr (fun x => { x with volt := some { v with
            phase := if v.target = x.mv then .settle s.now else .step } }) s1
        else s1
      | none => s1)

/-- The settle time that began at a tick is over. -/
def settled (s : State) (t : Nat) : Bool := decide (t + regF s pgPwr 0x015 8 8 ≤ s.now)

/-- SETTLE_DONE (R396, R398): of a wake, whose restore begins, or of a voltage change. -/
def execSettleDone (s : State) : Res :=
  .next (
    match s.pwr.wake, s.pwr.volt with
    | some (.settle t), _ =>
      if settled s t then restoreNext (modPwr (fun x => { x with wake := none, off := false }) s) else s
    | _, some v =>
      match v.phase with
      | .settle t => if settled s t then voltDone v.target s else s
      | _ => s
    | _, none => s)

/-- VOLT_FAIL (R399): VREADY has not returned within VTO ms of a step. -/
def execVoltFail (s : State) : Res :=
  .next (
    match s.pwr.volt with
    | some v =>
      let due : Bool := match v.sent with | some t => decide (t + 1000 * max 1 (regF s pgPwr 0x015 16 8) ≤ s.now) | none => false
      if v.phase = .ready ∧ due then voltFail s else s
    | none => s)

/-- VDROP (R400, R449). -/
def execVdrop (s : State) : Res :=
  .next (
    if s.pwr.volt.isNone ∧ regB s pgPwr 0x017 1 ∧ !s.pwr.off then
      powerEvent 2 (frecAdd 6 0x350 (wd (regF s pgPwr 0x016 0 10))
        (bumpF pgPwr 0x014 24 12 1 (setRegB pgPwr 0x017 3 true (setRegB pgPwr 0x017 1 false s))))
    else s)

/-- PWR_STATUS (R403). -/
def execPwrStatus (s : State) : Res := .next (adminDone 0x14 0 (pwrState s) [] s)

/-! ## The AON time base (R401) -/

/-- DISCIPLINE_LOSS (R401). -/
def execDisciplineLoss (s : State) : Res :=
  .next (if regB s pgAon 0x011 0 then bumpF pgAon 0x011 8 8 1 (setRegB pgAon 0x011 0 false s) else s)

/-- DISCIPLINE_LOCK (R401): REFIN runs and disciplines the oscillator. -/
def execDisciplineLock (s : State) : Res :=
  .next (if regB s pgAon 0x010 0 then setRegB pgAon 0x011 0 true s else s)

/-- A write to an AON register; clearing DISC ends the discipline. -/
def aonWrite (off : Nat) (v : Word) (s : State) : State :=
  let s1 := setReg pgAon off (writeBySpec (aonSpec off) (reg s pgAon off) v) s
  if off = 0x010 ∧ !bit v 0 then setRegB pgAon 0x011 0 false s1 else s1

/-- What an AON register reads. -/
def aonRead (s : State) (off : Nat) : Word := if off = 0x012 then wd (s.now % 2 ^ 40) else reg s pgAon off

/-- A write to a PWR register. -/
def pwrWrite (w : Who) (off : Nat) (v : Word) (s : State) : State :=
  if off = 0x012 then runreqWrite w v s
  else if off = 0x018 ∧ !tunitOk (getF v 0 3) (getF v 3 7) then s  -- as R287
  else setReg pgPwr off (writeBySpec (pwrSpec off) (reg s pgPwr off) v) s

/-- What a PWR register reads. -/
def pwrRead (s : State) (off : Nat) : Word :=
  match off with
  | 0x010 => wd (pwrState s)
  | 0x011 => wd (pwrBusy s)
  | 0x012 => 0
  | _ => reg s pgPwr off

end Sys2Proof.Machine
end

