-- ==== Sys2Proof/Machine/Pads.lean ====
section
/-! DEFINITION. What each pad of a row carries in a state (R267–R269, R273, R274, R283, R297). -/

namespace Sys2Proof.Machine

/-- What a pad is driven with. -/
inductive Pad where
  /-- high-impedance: an input, an open output, or a pad without a supply -/
  | z
  | level (high : Bool)
  /-- a bit or PDM clock of so many Hz; none while the group gives none -/
  | clock (hz : Option Nat)
  /-- the frame clock, one value per bit clock of a frame -/
  | frame (wave : List Bool)
  /-- the bits of the output records, launched on the falling or the rising clock edge -/
  | data (falling : Bool)
  | hoe (d : Drive)
  /-- a role of a serial engine (Table 12-3) -/
  | serial (engine role : Nat)
  deriving DecidableEq, Repr

/-- A SAFE code: 0 high-impedance, 1 low, 2 high; 3 acts as 0 (Table 12-12). -/
def padSafe (code : Nat) : Pad := match code with | 1 => .level false | 2 => .level true | _ => .z

/-- The group that names a cell as its clock cell in a mode that drives it. -/
def drivingGroup (s : State) (r c : Nat) (frame : Bool) : Option Nat :=
  (List.range 8).find? fun g =>
    let cg := cgW s r g
    if frame then decide (getF cg 0 3 = 1) && decide (cgFcell cg = c)
    else (decide (getF cg 0 3 = 1) || decide (getF cg 0 3 = 3)) && decide (cgBcell cg = c)

/-- The clock a group drives on its clock cell. -/
def padClock (s : State) (r : Nat) (frame : Bool) (g : Nat) : Pad :=
  let cg := cgW s r g
  if !cgRuns s r g then .clock none
  else if frame then .frame (fclkWave cg)
  else .clock (if getF cg 0 3 = 1 then bclkHz cg else pdmHz (getF cg 34 3))

/-- A GPIO pad: its output value while its output enable is set; open-drain drives low only. -/
def padGpio (s : State) (r c : Nat) : Pad :=
  let out := regB s (pgRowc r) (0x028 + c / 32) (c % 32)
  if !regB s (pgRowc r) (0x02C + c / 32) (c % 32) then .z
  else if out && bit (cCfg s r c) 35 then .z else .level out

/-- What an enabled cell, or an output cell in its last frame, drives (Table 12-2). -/
def padFunc (s : State) (r c : Nat) : Pad :=
  let v := cCfg s r c
  match getF v 0 4 with
  | 1 => padGpio s r c
  | 3 => .data (bit v 10)
  | 5 => .data (launchFalling (cgW s r (getF v 4 3)))
  | 7 => (match drivingGroup s r c false with | some g => padClock s r false g | none => .clock none)
  | 9 => (match drivingGroup s r c true with | some g => padClock s r true g | none => .clock none)
  | 11 => .hoe (hoeOut s r (getF v 7 5) (getF v 12 2))
  | 12 => .serial (getF v 7 3) (getF v 10 3)
  | _ => .z

/-! ## The TAP's hold on the pads (R428) -/

/-- Pin instructions act in BLANK or PROVISIONED, or under a Walled probe grant (R428). -/
def tapPins (s : State) : Bool := decide (s.otp.lc ≤ 1) || decide (s.probeSess.level = 2)

/-- The instruction that the TAP acts by: pin instructions outside those conditions act as BYPASS. -/
def tapActs (s : State) : TapIr :=
  match s.tap with
  | .extest => if tapPins s then .extest else .bypass
  | .clamp => if tapPins s then .clamp else .bypass
  | .highz => if tapPins s then .highz else .bypass
  | i => i

/-- What the boundary register drives on a pad is free: the spec gives no layout of it (assumption 160). -/
def padBoundary (s : State) (r c : Nat) : Pad :=
  let n := 2 * (128 * r + c)
  if Config.freeBit (s.free + n) then .data (Config.freeBit (s.free + n + 1)) else .z

/-- What the pad of a cell carries by its row: high-impedance without a supply, the latched SAFE value in Stop or while EN = 0, else its
function's signal (R267, R268, R272). -/
def padRow (s : State) (r c : Nat) : Pad :=
  if !vioOk s r then .z
  else if domSt s (domRow r) = .stop then padSafe (cellAt s r c).safe
  else if cEn s r c || (cellAt s r c).drain then padFunc s r c
  else padSafe (cellAt s r c).safe

/-- What the pad of a cell carries: under EXTEST and CLAMP what the boundary register drives, under HIGHZ nothing (R428). -/
def padOut (s : State) (r c : Nat) : Pad :=
  match tapActs s with
  | .extest | .clamp => if vioOk s r then padBoundary s r c else .z
  | .highz => .z
  | _ => padRow s r c

end Sys2Proof.Machine
end

