-- ==== Sys2Proof/Machine/RowCmds.lean ====
section
/-! DEFINITION. The commands of rows, cells, engines, Hoes and rails (chapters 12 and 13). -/

namespace Sys2Proof.Machine

/-! ## Supplies -/

/-- A row's supply measured at `mv` millivolts (R267, R467): it is classified while it has no class, and has none again once it
has fallen below 1.2 V; VIO_OK follows its lying in the class's range. -/
def vioMeasure (r mv : Nat) (s : State) : State :=
  let fail (s : State) : State := if vioOk s r then rowSupplyFail r s else s
  match Tbl.get (fun _ => none) s.vio r with
  | some v =>
    if mv < 1200 then fail { s with vio := Tbl.set (fun _ => none) s.vio r none }
    else if vioClass mv = some v then setRegB (pgRowc r) 0x010 11 true s
    else fail s
  | none =>
    match vioClass mv with
    | some v =>
      setRegB (pgRowc r) 0x010 11 true (setRegB (pgRowc r) 0x010 10 v { s with vio := Tbl.set (fun _ => none) s.vio r (some v) })
    | none => s

/-- VIO_MEASURE (R267, R467): a row's supply of `mv` millivolts is measured. -/
def execVioMeasure (r : Fin 4) (mv : Nat) (s : State) : Res := .next (vioMeasure r mv s)

/-- ROW_SUPPLY_FAIL (R467). -/
def execRowSupplyFail (r : Fin 4) (s : State) : Res := .next (if vioOk s r then rowSupplyFail r s else s)

/-! ## Cells -/

/-- CELL_CFG_WRITE (R270). -/
def execCellCfgWrite (w : Who) (r : Fin 4) (c : Fin 128) (v : Word) (s : State) : Res :=
  .next (gated w (pgRowp r) (cB c)
    (if w = .graft then cellCfgGraft r c v else cellCfgWrite r c v) s)

/-- CELL_ENABLE (R271): a write of the present fields with EN = 1. -/
def execCellEnable (w : Who) (r : Fin 4) (c : Fin 128) (s : State) : Res :=
  .next (gated w (pgRowp r) (cB c) (fun s => cellCfgWrite r c (setB (cCfg s r c) 34 true) s) s)

/-- CELL_DISABLE (R272): a write of the present fields with EN = 0. -/
def execCellDisable (w : Who) (r : Fin 4) (c : Fin 128) (s : State) : Res :=
  .next (gated w (pgRowp r) (cB c) (fun s => cellCfgWrite r c (setB (cCfg s r c) 34 false) s) s)

/-- CELL_FIFO_WRITE (R284). -/
def execCellFifoWrite (w : Who) (r : Fin 4) (c : Fin 128) (v : Word) (s : State) : Res :=
  .next (gated w (pgRowp r) (cB c + 1) (cellFifoWrite r c v) s)

/-- A PORTOP reaches a unit of a row whose domain is up (R223). -/
def atRow (r : Nat) (f : State → Bool × State) (s : State) : State := if domUp s (domRow r) then (f s).2 else s

/-- PORTOP_CELL_ENABLE (R292). -/
def execPortopCellEnable (r : Fin 4) (c : Fin 128) (s : State) : Res := .next (atRow r (portopCell r c 0 0) s)
/-- PORTOP_CELL_DISABLE (R292). -/
def execPortopCellDisable (r : Fin 4) (c : Fin 128) (s : State) : Res := .next (atRow r (portopCell r c 1 0) s)
/-- PORTOP_CELL_FLUSH (R292). -/
def execPortopCellFlush (r : Fin 4) (c : Fin 128) (s : State) : Res := .next (atRow r (portopCell r c 2 0) s)
/-- GPIO_SET (R292). -/
def execGpioSet (r : Fin 4) (c : Fin 128) (out oe : Bool) (s : State) : Res :=
  .next (atRow r (portopCell r c 3 (b2n out + 2 * b2n oe)) s)
/-- PORTOP_CELL_THRESH (R292). -/
def execPortopCellThresh (r : Fin 4) (c : Fin 128) (rx tx : BitVec 11) (s : State) : Res :=
  .next (atRow r (portopCell r c 4 (rx.toNat + 2 ^ 11 * tx.toNat)) s)
/-- PORTOP_ENGINE_GO (R292). -/
def execPortopEngineGo (r : Fin 4) (e : Fin 8) (arg : BitVec 23) (s : State) : Res :=
  .next (atRow r (portopEngine r e 0 arg.toNat) s)

/-- ROWC_CG_WRITE (R276). -/
def execRowcCgWrite (w : Who) (r : Fin 4) (g : Fin 8) (v : Word) (s : State) : Res :=
  .next (gated w (pgRowc r) (0x018 + g) (cgWrite r g v) s)

/-- CLKERR (R275): a slave group's clock is missing or off rate. -/
def execClkerr (r : Fin 4) (g : Fin 8) (s : State) : Res :=
  .next (
    let m := getF (cgW s r g) 0 3
    if domUp s (domRow r) && (decide (m = 2) || decide (m = 4)) then
      withRow r (setRegB (pgRowc r) 0x020 (8 + g) true) s
    else s)

/-- A cell of a running group takes part in its frames. -/
def cellTicks (s : State) (r c f : Nat) : Bool :=
  domUp s (domRow r) && cEn s r c && decide (cFunc s r c = f) && cgClocked s r (getF (cCfg s r c) 4 3)

/-- Mark a cell started. -/
def cellStarted (r c : Nat) (s : State) : State := setRegB (pgRowp r) (cB c + 4) 16 true s

/-- The frame a latency match gives out after `d` frames of delay (R277). -/
def matchDelay (r c d : Nat) (ws : List Word) (s : State) : Option (List Word) × State :=
  let q := (cellAt s r c).delay ++ [ws]
  if q.length ≤ d then (none, setCell r c { cellAt s r c with delay := q } s)
  else (some (q.headD []), setCell r c { cellAt s r c with delay := q.drop 1 } s)

/-- LANE_IN_FRAME (R274, R277): the bits sampled on the lane in the bit clocks of one frame, from its edge on, and in the one
after them. -/
def execLaneInFrame (r : Fin 4) (c : Fin 128) (bits : List Bool) (s : State) : Res :=
  .next (
    let v := cCfg s r c
    let cg := cgW s r (getF v 4 3)
    let w := widthOf (getF v 17 2)
    if cellTicks s r c 4 && decide (bits.length = cgBits cg + 1) then
      withRow r (fun s =>
        let (ws, s1) := cellTrims r c ((laneValues cg v bits).map fun x => sx w x * (2 ^ (37 - w) : Nat)) (cellStarted r c s)
        if bit v 19 then
          match matchDelay r c 32 ws s1 with
          | (some f, s2) => cellFrameIn r c f s2
          | (none, s2) => s2
        else cellFrameIn r c ws s1) s
    else s)

/-- An output cell that was disabled in its frame or output period has finished it and drives SAFE (R272). -/
def cellFinish (r c : Nat) (s : State) : State := setCell r c { cellAt s r c with drain := false } s

/-- LANE_OUT_FRAME (R274, R281): the bit clocks from the frame edge to slot 0, and the frame's bits from there. -/
def execLaneOutFrame (r : Fin 4) (c : Fin 128) (s : State) : Res :=
  .next (
    let v := cCfg s r c
    if cellTicks s r c 5 then
      withRow r (fun s =>
        let (ws, s1) := cellFrameOut r c (getF v 12 5 + 1) (cellStarted r c s)
        let have' := decide (getF v 12 5 + 1 ≤ (fifoAt s (unitKey r c)).length)
        let (ys, s2) := if have' then cellNarrows r c (widthOf (getF v 17 2)) (2 ^ 40) ws s1
          else (ws.map fun _ => (0 : Int), s1)
        let cg := cgW s r (getF v 4 3)
        emit (.other "lane" ([r.val, c.val, frameDelay cg] ++ (laneFrame cg v ys).map laneCode)) s2) s
    else if (cellAt s r c).drain then cellFinish r c s else s)

/-- A speaker-line test averages the terminal's voltage, the samples of its cell before the user trims, while the phase lasts
(R447, assumption 151). -/
def terminalSample (r c : Nat) (streams : List BitStream) (s : State) : State :=
  match s.line with
  | some x =>
    if x.phase = .terminal ∧ x.r = r ∧ lineArg x 0 = c ∧ s.now < x.since + lineTicks x then
      { s with line := some { x with
        cnt := x.cnt + 1, sv := x.sv + decimate (getF (cCfg s r c) 7 3) (streams.headD []) } }
    else s
  | none => s

/-- PDM_IN_SAMPLE (R278, R279): the bits that one output period's decimation weighs, of the rising edge first. -/
def execPdmInSample (r : Fin 4) (c : Fin 128) (streams : List BitStream) (s : State) : Res :=
  .next (
    let v := cCfg s r c
    let n := if getF v 10 2 = 2 then 2 else 1
    if (cellTicks s r c 2 || cellTicks s r c 10) && decide (streams.length = n) then
      if 0 < (cellAt s r c).settle then
        setCell r c { cellAt s r c with settle := (cellAt s r c).settle - 1 } s
      else
        withRow r (fun s =>
          let s0 := cellStarted r c (if cFunc s r c = 10 then terminalSample r c streams s else s)
          if cFunc s r c = 10 ∧ cDepth s r c = 0 then s0  -- a sense cell without a FIFO (R283)
          else
            let (ws, s1) := cellTrims r c (streams.map (decimate (getF v 7 3))) s0
            cellFrameIn r c ws s1) s
    else s)

/-- The sample a PDM output represents now: the path delays by 32 input samples (R282). -/
def pdmDelay (r c : Nat) (y : Int) (s : State) : Int × State :=
  match matchDelay r c 32 [wi y] s with
  | (some (w :: _), s1) => (sw w, s1)
  | (_, s1) => (0, s1)

/-- The bits the modulator launches in one input period: its coefficients are not given, and the bits are free (R282,
assumption 118). -/
def pdmBits (s : State) (r c : Nat) : Nat × State :=
  let v := cCfg s r c
  let pdmf := getF (cgW s r (getF v 4 3)) 34 3
  let q := match pdmHz pdmf, orateHz pdmf (getF v 7 3) with | some f, some o => f / o | _, _ => 0
  let (n, s1) := drawNat s
  (n % 2 ^ q, s1)

/-- PDM_OUT_SAMPLE (R282): the launch edge, the sample represented, and the period's bits. -/
def execPdmOutSample (r : Fin 4) (c : Fin 128) (s : State) : Res :=
  .next (
    if cellTicks s r c 3 then
      withRow r (fun s =>
        let have' := decide (1 ≤ (fifoAt s (unitKey r c)).length)
        let (ws, s1) := cellFrameOut r c 1 (cellStarted r c s)
        let (ys, s2) := if have' then cellNarrows r c 24 6291456 ws s1 else ([0], s1)
        let (y, s3) := pdmDelay r c (ys.headD 0) s2
        let (b, s4) := pdmBits s3 r c
        emit (.other "pdm" [r.val, c.val, b2n (bit (cCfg s r c) 10), outI y, b]) s4) s
    else if (cellAt s r c).drain then cellFinish r c s else s)

/-- A new level can have held for DEB + 1 ticks: it was first sampled after the latest change of the debounced level (R280). -/
def debounced (s : State) (r c : Nat) : Bool :=
  let deb := getF (cCfg s r c) 9 4
  decide (deb ≤ s.now) &&
    (match (cellAt s r c).edgeAt with
     | some t => decide (t + deb < s.now)
     | none => true)

/-- GPIO_EDGE (R280): a level has held for DEB + 1 ticks. -/
def execGpioEdge (r : Fin 4) (c : Fin 128) (level : Bool) (s : State) : Res :=
  .next (
    let v := cCfg s r c
    let old := regB s (pgRowc r) (0x024 + c / 32) (c % 32)
    if domUp s (domRow r) && decide (getF v 0 4 = 1) && decide (old ≠ level) && debounced s r c then
      withRow r (fun s =>
        let s1 := setRegB (pgRowc r) (0x024 + c / 32) (c % 32) level
          (setCell r c { cellAt s r c with edgeAt := some s.now } s)
        let sel := (level && bit v 7) || (!level && bit v 8)
        if bit v 34 && sel then
          cellFrameIn r c [wd ((s.now - getF v 9 4) % 2 ^ 32 + 2 ^ 32 * b2n level)] s1
        else s1) s
    else s)

/-- SE_GO (R290): the command word with GO set. -/
def execSeGo (w : Who) (r : Fin 4) (e : Fin 8) (v : Word) (s : State) : Res :=
  .next (gated w (pgRowc r) (seB e + 1) (seCmdWrite r e (setB v 39 true)) s)

/-- SE_TRANSACTION_END (R291). -/
def execSeTransactionEnd (r : Fin 4) (e : Fin 8) (err : Fin 6) (count : Fin 33) (rx : List Byte) (s : State) : Res :=
  .next (seEnd r e err count rx s)

/-! ## Hoes -/

/-- HOE_ENABLE (R308): a write of the present fields with EN = 1. -/
def execHoeEnable (w : Who) (r : Fin 4) (h : Fin 32) (s : State) : Res :=
  .next (gated w (pgHoe r) (hB h) (fun s => hoeCfgWrite r h (setB (hCfg s r h) 0 true) s) s)

/-- HOE_START (R308). -/
def execHoeStart (r : Fin 4) (h : Fin 32) (s : State) : Res :=
  .next (if hoeMayStart s r h then withRow r (hoeStart r h) s else s)

/-- HOE_DISABLE (R309): a write of the present fields with EN = 0. -/
def execHoeDisable (w : Who) (r : Fin 4) (h : Fin 32) (s : State) : Res :=
  .next (gated w (pgHoe r) (hB h) (fun s => hoeCfgWrite r h (setB (hCfg s r h) 0 false) s) s)

/-- A write to a register of a Hoe by its offset in the block (R307, R309, R315). -/
def hoeRegWrite (r h k : Nat) (v : Word) (s : State) : State :=
  match k with
  | 0x0 => hoeCfgWrite r h v s
  | 0x1 => hoeFifoWrite r h v s
  | 0x4 => hoeLoopWrite r h v s
  | 0x5 => hoeLimWrite r h v s
  | 0x7 => (hoeInject r h (getF v 0 2) s).2
  | 0xB => hoeCtrlWrite r h v s
  | 0x12 => hoeDthWrite r (hB h + 0x12) false v s
  | 0x13 => hoeDthWrite r (hB h + 0x13) true v s
  | _ =>
    if 0x8 ≤ k ∧ k ≤ 0xA ∧ lineOwns s r h then hFlag r h 22 true s
    else if k < 0x18 then
      withRow r (setReg (pgHoe r) (hB h + k)
        (writeBySpec (hoeSpec (hB h + k)) (reg s (pgHoe r) (hB h + k)) v)) s
    else s

/-- HOE_CFG_WRITE (R307): any field of a Hoe, by register offset in its block. -/
def execHoeCfgWrite (w : Who) (r : Fin 4) (h : Fin 32) (k : Fin 0x18) (v : Word) (s : State) : Res :=
  .next (gated w (pgHoe r) (hB h + k) (hoeRegWrite r h k v) s)

/-- CARRIER_PERIOD (R301): the take instant at carrier period `pos` of the 48 kHz period, with the sense windows of
this take. -/
def execCarrierPeriod (r : Fin 4) (h : Fin 32) (pos : Fin 32) (vs is : Nat) (s : State) : Res :=
  .next (if domUp s (domRow r) ∧ pwmRuns s ∧ onGrid s r h pos then
      withRow r (hoeTake r h pos) (withRow r (fun x => hoeUnlatch r h (hoeLatch r h pos vs is x)) s) else s)

/-- RAIL_CODE (R303): a code from the ones of its sinc window. -/
def execRailCode (rail : Fin 16) (ones : Nat) (s : State) : Res :=
  .next (
    if domUp s (domRow (rail / 4)) && regB s pgRail (rB rail) 0 then withRows (railCode rail ones) s else s)

/-- A rail's stream is lost (R310). -/
def senseLossRail (rail : Nat) (s : State) : State :=
  if regB s pgRail (rB rail) 0 then railFault rail s else s

/-- A Hoe's voltage stream is lost (R311). -/
def senseLossHoe (r h : Nat) (s : State) : State :=
  if bit (hCfg s r h) 33 then
    withRow r (shearTrip r h 3) (setHoe r h { hoeAt s r h with vlost := true } s)
  else s

/-- SENSE_STREAM_LOSS (R310, R311): a rail's stream, or the voltage stream of a Hoe. -/
def execSenseStreamLoss (what : SenseSrc) (s : State) : Res :=
  .next (
    match what with
    | .rail k => if domUp s (domRow (k / 4)) then senseLossRail k s else s
    | .hoe r h => if domUp s (domRow r) then senseLossHoe r h s else s)

/-- FAST_DETECTOR (R311): a new value 0–64 of a rail's or a Hoe's current detector. -/
def execFastDetector (what : SenseSrc) (f : Fin 65) (s : State) : Res :=
  .next (
    match what with
    | .rail k => if domUp s (domRow (k / 4)) then fastRail k f s else s
    | .hoe r h => if domUp s (domRow r) then fastHoe r h f s else s)

/-- HOE_TRIP (R311). -/
def execHoeTrip (w : Who) (r : Fin 4) (h : Fin 32) (s : State) : Res :=
  .next (gated w (pgHoe r) (hB h + 0xB) (hoeCtrlWrite r h (wd 2)) s)

/-- HOE_REARM (R314). -/
def execHoeRearm (w : Who) (r : Fin 4) (h : Fin 32) (s : State) : Res :=
  .next (gated w (pgHoe r) (hB h + 0xB) (hoeCtrlWrite r h (wd 1)) s)

/-- HOE_FLUSH (R309). -/
def execHoeFlush (w : Who) (r : Fin 4) (h : Fin 32) (s : State) : Res :=
  .next (gated w (pgHoe r) (hB h + 0xB) (hoeCtrlWrite r h (wd 4)) s)

/-- CLR_RETRY (R314). -/
def execClrRetry (w : Who) (r : Fin 4) (h : Fin 32) (s : State) : Res :=
  .next (gated w (pgHoe r) (hB h + 0xB) (hoeCtrlWrite r h (wd 8)) s)

/-- SHEAR_AUTO_RETRY (R314): the retry window has ended. -/
def execShearAutoRetry (r : Fin 4) (h : Fin 32) (s : State) : Res :=
  .next (
    match (hoeAt s r h).retryAt with
    | none => s
    | some e =>
      let n := getF (hoeAt s r h).shear 6 3
      if e ≤ s.now then
        let s1 := setHoe r h { hoeAt s r h with retryAt := none } s
        if hSheared s r h ∧ regF s (pgHoe r) (hB h + 0xC) 24 3 < n then
          (hoeRearm r h (bumpF (pgHoe r) (hB h + 0xC) 24 3 1 s1)).2
        else s1
      else s)

/-- PORTOP_HOE_ENABLE (R316). -/
def execPortopHoeEnable (r : Fin 4) (h : Fin 32) (s : State) : Res := .next (atRow r (portopHoe r h 0 0) s)
/-- PORTOP_HOE_DISABLE (R316). -/
def execPortopHoeDisable (r : Fin 4) (h : Fin 32) (s : State) : Res := .next (atRow r (portopHoe r h 1 0) s)
/-- PORTOP_HOE_FLUSH (R316). -/
def execPortopHoeFlush (r : Fin 4) (h : Fin 32) (s : State) : Res := .next (atRow r (portopHoe r h 2 0) s)
/-- PORTOP_HOE_REARM (R316). -/
def execPortopHoeRearm (r : Fin 4) (h : Fin 32) (s : State) : Res := .next (atRow r (portopHoe r h 3 0) s)
/-- PORTOP_HOE_THRESH (R316). -/
def execPortopHoeThresh (r : Fin 4) (h : Fin 32) (tx : BitVec 11) (s : State) : Res :=
  .next (atRow r (portopHoe r h 4 tx.toNat) s)
/-- INJECT (R315). -/
def execInject (r : Fin 4) (h : Fin 32) (imode : BitVec 2) (s : State) : Res :=
  .next (atRow r (portopHoe r h 5 imode.toNat) s)

/-- RAIL_CFG_WRITE (R319). -/
def execRailCfgWrite (w : Who) (rail : Fin 16) (v : Word) (s : State) : Res :=
  .next (gated w pgRail (rB rail) (railCfgWrite rail v) s)

/-- A tap moved by one calibration: 1 up, 2 down, else held; none where it would leave 0–63 (R77). -/
def tapMove (tap dir : Nat) : Option Nat :=
  match dir with
  | 1 => if tap < 63 then some (tap + 1) else none
  | 2 => if 0 < tap then some (tap - 1) else none
  | _ => some tap

/-- The taps in force: IP_TAP until a calibration has moved them (R77). -/
def tapsOf (s : State) (r h : Nat) (taps : Option (List Nat)) : List Nat :=
  taps.getD ((List.range 3).map fun k => (trimAt s (48 + 3 * (32 * r + h) + k)).toNat)

/-- INTERPOLATOR_CALIBRATION (R77), once in each window of 1,000 ticks while the PWM clock runs: the direction in which each of phases 1–3 is off. -/
def execInterpolatorCalibration (r : Fin 4) (h : Fin 32) (d1 d2 d3 : Fin 3) (s : State) : Res :=
  .next (
    let x := hoeAt s r h
    if domUp s (domRow r) ∧ pwmRuns s ∧ x.calWin ≠ some (s.now / 1000) then
      let ms := ((tapsOf s r h x.tapsNext).zip [d1.val, d2.val, d3.val]).map fun p => (p.1, tapMove p.1 p.2)
      let next := ms.map fun m => m.2.getD m.1
      let s1 := setHoe r h { x with tapsNext := some next, calWin := some (s.now / 1000) } s
      if ms.any (fun m => m.2.isNone) then withRow r (hFlag r h 21 true) s1 else s1
    else s)

end Sys2Proof.Machine
end

