-- ==== Sys2Proof/Machine/PageRegs.lean ====
section
/-! DEFINITION. The common header of every page, and the registers of the DEV, PLOT, XLAT, SHED, DRAM, row, Hoe and rail pages:
what each reads and what a write does (R11, R24, R30, R31, R184, R196, R200, R293, R294, R317, R319, R451–R456, R484). -/

namespace Sys2Proof.Machine

/-! ## The common header (R451–R456) -/

/-- PAGE_CTRL.LOCK. -/
def pageLocked (s : State) (pg : Nat) : Bool := regB s pg 2 2

/-- Bits of one register that a soft reset puts back: its W1C bits and its counters; ECC_LAST is zeroed with its counts, and
HOE_STAT.RETRIES is the counter that CLR_RETRY of HOE_CTRL zeroes (R314). -/
def srstMask (k : PageKind) (i off : Nat) : Nat :=
  let sp := regSpec k i off
  if (k = .shed ∧ off = 0x011) ∨ (k = .dram ∧ off = 0x012) then all40
  else if k = .hoe ∧ 0x100 ≤ off ∧ (off - 0x100) % 0x18 = 0xC then Nat.lor sp.w1c 0x7000000
  else Nat.lor sp.w1c sp.clr

/-- One register of a page under a soft reset. -/
def srstReg (k : PageKind) (i pg off : Nat) (s : State) : State :=
  let m := wd (srstMask k i off)
  if m = 0 then s else setReg pg off ((reg s pg off &&& ~~~m) ||| (wd (regSpec k i off).rst &&& m)) s

/-- The soft reset of a page (R454). -/
def pageSrst (k : PageKind) (i pg : Nat) (s : State) : State :=
  let s1 := forAll (List.range 1024) (srstReg k i pg) (setReg pg 4 0 s)
  if k = .eth then
    forAll (List.range 128) (fun j x =>
      let n := i * 128 + j
      setStrm n { strmAt x n with cnt0 := 0, cnt1 := 0 } x) s1
  else s1

/-- PAGE_CTRL after a write of `v`: LOCK stays set, IHOP takes no reserved hopper. -/
def ctrlNext (old v : Word) : Word :=
  let v1 := v &&& wd 0x7FFFFD
  let v2 := setB v1 2 (bit old 2 || bit v 2)
  if 254 ≤ getF v 3 8 then setF v2 3 8 (getF old 3 8) else v2

/-- A write of PAGE_CTRL (R454, R455). -/
def pageCtrlWrite (w : Who) (k : PageKind) (i pg : Nat) (v : Word) (s : State) : State :=
  if !walledWriter s w then s
  else
    let s1 := if bit v 1 then pageSrst k i pg s else s
    if pageLocked s pg then s1
    else
      let old := reg s1 pg 2
      let s2 := setReg pg 2 (ctrlNext old v) s1
      if !bit old 0 && bit v 0 && decide (pageP s2 pg ≠ 0) then pageDeliver pg s2 else s2

/-- A write of PAGE_IRQ_EN: bits below NIRQ; a change of P from 0 delivers (R453, R455). -/
def pageIrqEnWrite (k : PageKind) (pg : Nat) (v : Word) (s : State) : State :=
  let s1 := setReg pg 5 (v &&& wd (2 ^ pageNirq k - 1)) s
  if pageP s pg = 0 ∧ pageP s1 pg ≠ 0 ∧ regB s1 pg 2 0 then pageDeliver pg s1 else s1

/-- A write of PAGE_IRQ_CLR (R455). -/
def pageIrqClrWrite (k : PageKind) (pg : Nat) (v : Word) (s : State) : State :=
  setReg pg 4 (reg s pg 4 &&& ~~~(v &&& wd (2 ^ pageNirq k - 1))) s

/-- A write of PAGE_OWNER (R138, R454, R456). -/
def pageOwnerWrite (w : Who) (k : PageKind) (pg : Nat) (v : Word) (s : State) : State :=
  if ownerWriter s w && decide (pageOwnerReset k < 2) && !pageLocked s pg then setRegB pg 7 0 (bit v 0) s else s

/-- A write to a header register. -/
def headerWrite (w : Who) (k : PageKind) (i pg off : Nat) (v : Word) (s : State) : State :=
  match off with
  | 2 => pageCtrlWrite w k i pg v s
  | 3 => if bit v 2 then setRegB pg 3 2 false s else s
  | 5 => if k = .nurs ∧ !walledWriter s w then s else pageIrqEnWrite k pg v s
  | 6 => pageIrqClrWrite k pg v s
  | 7 => pageOwnerWrite w k pg v s
  | _ => s

/-- What a header register reads (R452, R453). -/
def headerRead (s : State) (k : PageKind) (i pg off : Nat) : Word :=
  match off with
  | 0 => wd (pageType k + i * 2 ^ 8 + 2 ^ 16 + pg * 2 ^ 24)
  | 1 => wd (pageFeat k)
  | 3 => setB (setB (reg s pg 3) 0 (pageLocked s pg)) 1 (decide (pageP s pg ≠ 0))
  | 6 => reg s pg 4
  | _ => reg s pg off

/-! ## The DEV and PLOT pages (R24, R30, R31, R351, R484) -/

/-- A write of DEV_BLOCK_CFG (R31). -/
def blockCfgWrite (v : Word) (s : State) : State :=
  if s.pllRuns ∨ getF v 0 10 < 8 then setRegB pgDev 0x04A 39 true s else setReg pgDev 0x048 (v &&& wd 0x103FF) s

/-- A write to a mailbox PUT register: a write that R23 withholds waits. -/
def mboxWrite (w : Who) (u : MUnit) (item : Word) (s : State) : State :=
  match mboxOffer w u item s with
  | (.done, s1) => s1
  | (.withheld, s1) => { s1 with withheld := s1.withheld ++ [(.direct w, mboxNo u, item)] }

/-- A write to a face register: 1 PUT, 3 STAT, 4 ROUTE. -/
def faceWrite (w : Who) (u : MUnit) (j pg off : Nat) (v : Word) (s : State) : State :=
  match j with
  | 1 => mboxWrite w u v s
  | 3 => if bit v 31 then setRegF pg off 8 8 0 s else s
  | 4 =>
    match u with
    | .chain => chainRouteWrite v s
    | .plot p => routeStore p pg off v s
    | .bed b => routeStore (16 + b) pg off v s
    | .device => routeStore 20 pg off v s
    | .slot _ => s
  | _ => s

/-- What a face register reads; a read of TAKE takes an item. -/
def faceRead (u : MUnit) (j pg off : Nat) (s : State) : Word × State :=
  match j with
  | 0 => (identWord s u, s)
  | 1 => (0, s)
  | 2 => mboxTake u s
  | 3 => (if u = .chain ∧ !chainFaceOn s then 0 else mboxStat s u, s)
  | _ => (reg s pg off, s)

/-- A write to a DEV or PLOT register. -/
def devWrite (w : Who) (k : PageKind) (i pg off : Nat) (v : Word) (s : State) : State :=
  match mboxAt k i off with
  | some (u, j) => faceWrite w u j pg off v s
  | none =>
    if k = .dev ∧ off = 0x048 then blockCfgWrite v s
    else if k = .dev ∧ off = 0x050 then apllCfgWrite v s
    else setReg pg off (writeBySpec (regSpec k i off) (reg s pg off) v) s

/-- What a DEV or PLOT register reads. -/
def devRead (k : PageKind) (i pg off : Nat) (s : State) : Word × State :=
  match mboxAt k i off with
  | some (u, j) => faceRead u j pg off s
  | none => (reg s pg off, s)

/-! ## Memory pages (R196, R200) -/

/-- A write to XLAT_SHOOT: a GO starts an invalidation of every cache, unless one is under way (R196). -/
def shootWrite (v : Word) (s : State) : State :=
  if bit v 39 && !regB s pgXlat 0x012 0 then setReg pgXlat 0x012 (setB (v &&& wd 0x40FFFFF000) 0 true) s else s

/-- Every cache has applied the shootdown (R196). -/
def shootDone (s : State) : State :=
  let c := reg s pgXlat 0x012
  if bit c 0 then
    let s1 := forAll (List.range 144) (fun t x => tineInval t (bit c 38) (getF c 12 20) x) s
    setReg pgXlat 0x012 0 { s1 with xcache := cacheKeep (bit c 38) (getF c 12 20) s1.xcache }
  else s

/-- A write to an XLAT register. -/
def xlatWrite (off : Nat) (v : Word) (s : State) : State :=
  match off with
  | 0x010 => { setReg pgXlat off (v &&& wd 0x3FFFFC001) s with xcache := [] }
  | 0x011 => if bit v 39 then { s with xcache := cacheKeep (bit v 38) (getF v 12 20) s.xcache } else s
  | 0x012 => shootWrite v s
  | _ => setReg pgXlat off (writeBySpec (memSpec .xlat off) (reg s pgXlat off) v) s

/-- A write to a SHED or DRAM register: CLR of the counts empties ECC_LAST too. -/
def eccPageWrite (k : PageKind) (pg off : Nat) (v : Word) (s : State) : State :=
  let s1 := setReg pg off (writeBySpec (memSpec k off) (reg s pg off) v) s
  if k = .shed ∧ off = 0x010 ∧ bit v 39 then setReg pg 0x011 0 s1
  else if k = .dram ∧ off = 0x011 ∧ bit v 39 then setReg pg 0x012 0 s1
  else s1

/-! ## Row pages (R293, R294) -/

/-- A write to a ROWC register. -/
def rowcWrite (r off : Nat) (v : Word) (s : State) : State :=
  if 0x018 ≤ off ∧ off ≤ 0x01F then cgWrite r (off - 0x018) v s
  else if 0x040 ≤ off ∧ off ≤ 0x04F then evrWrite r (off - 0x040) v s
  else if 0x080 ≤ off ∧ off ≤ 0x0FF ∧ off % 16 = 1 then seCmdWrite r ((off - 0x080) / 16) v s
  else if 0x100 ≤ off ∧ off ≤ 0x1FF then cellDthWrite r off v s
  else if 0x080 ≤ off ∧ off ≤ 0x0FF ∧ seBusy s r ((off - 0x080) / 16) then s
  else withRow r (setReg (pgRowc r) off (writeBySpec (rowcSpec off) (reg s (pgRowc r) off) v)) s

/-- What a ROWC register reads. -/
def rowcRead (s : State) (r off : Nat) : Word :=
  match off with
  | 0x010 => setF (reg s (pgRowc r) off) 0 10 (rowUsed s r)
  | 0x011 => wd (rowFree s r)
  | 0x020 => setF (reg s (pgRowc r) off) 0 8 ((List.range 8).foldl (fun acc g => acc + 2 ^ g * b2n (cgRuns s r g)) 0)
  | _ => reg s (pgRowc r) off

/-- A write to a ROWP register. -/
def rowpWrite (w : Who) (r off : Nat) (v : Word) (s : State) : State :=
  let c := (off - 0x010) / 6
  if off < 0x010 ∨ 128 ≤ c then s
  else match (off - 0x010) % 6 with
  | 0 => if w = .graft then cellCfgGraft r c v s else cellCfgWrite r c v s
  | 1 => cellFifoWrite r c v s
  | _ => withRow r (setReg (pgRowp r) off (writeBySpec (rowpSpec off) (reg s (pgRowp r) off) v)) s

/-- What a ROWP register reads. -/
def rowpRead (s : State) (r off : Nat) : Word :=
  let c := (off - 0x010) / 6
  if 0x010 ≤ off ∧ c < 128 ∧ (off - 0x010) % 6 = 4 then
    setB (setF (reg s (pgRowp r) off) 0 11 (fifoAt s (unitKey r c)).length) 15 (cellErr s r c)
  else reg s (pgRowp r) off

/-- A write to a HOE register. -/
def hoePageWrite (r off : Nat) (v : Word) (s : State) : State :=
  if off < 0x100 then s else hoeRegWrite r ((off - 0x100) / 0x18) ((off - 0x100) % 0x18) v s

/-- What a HOE register reads. -/
def hoeRead (s : State) (r off : Nat) : Word :=
  let h := (off - 0x100) / 0x18
  let w := reg s (pgHoe r) off
  if off < 0x100 then 0
  else match (off - 0x100) % 0x18 with
  | 0x0C =>
    setB (setB (setB (setF w 0 11 (fifoAt s (unitKey r (128 + h))).length) 16 (hoeLimit s r h)) 17 (hoeRailLow s r h)) 23
      (hoeErr s r h)
  | 0x0F => wd (hoeAt s r h).g
  | _ => w

/-- A write to a RAIL register. -/
def railWrite (off : Nat) (v : Word) (s : State) : State :=
  if off < 0x100 ∨ 0x180 ≤ off then s
  else
    let k := (off - 0x100) / 8
    match (off - 0x100) % 8 with
    | 0 => railCfgWrite k v s
    | 2 => railStatWrite k v s
    | _ => withRows (setReg pgRail off (writeBySpec (railSpec off) (reg s pgRail off) v)) s

/-! ## Every page -/

/-- What a register reads, with the side effect of the read, for a requester that may reach it. -/
def regRead (w : Who) (pg off : Nat) (s : State) : Word × State :=
  match pageKind pg with
  | none => (0, s)
  | some (k, i) =>
    if off < 8 then (headerRead s k i pg off, s)
    else if off < 0x10 then (0, s)
    else match k with
    | .dev | .plot => devRead k i pg off s
    | .aon => (aonRead s off, s)
    | .pwr => (pwrRead s off, s)
    | .sec => (secRead s w off, s)
    | .nurs => (nursRead s off, s)
    | .gauge => if off = 0x020 then gaugeL0 s else if off = 0x017 then gaugeE0 s else (gaugeRead s off, s)
    | .xlat => (if off = 0x012 then wd (b2n (regB s pg off 0)) else reg s pg off, s)
    | .trel => if off = 0x020 then journalRead w s else (trelRead s w off, s)
    | .trch => if off < 0x100 then (0, s) else (reg s pg off, s)
    | .hop => if off < 0x080 then (if off = 0x010 ∧ i = 0 then wd (hopFree s) else 0, s)
      else (hopRegRead s (128 * i + (off - 0x080) / 7) ((off - 0x080) % 7), s)
    | .host => (hostRead s off, s)
    | .eth => if off = 0x01A then ptpRead i 0 s else (ethRead s i off, s)
    | .rowc => (rowcRead s i off, s)
    | .rowp => (rowpRead s i off, s)
    | .hoe => (hoeRead s i off, s)
    | .tine => (tinePageRead s w i off, s)
    | _ => (reg s pg off, s)

/-- A write to a register by a requester that may reach it; the BOOT page apart, whose writes Boot.lean completes. -/
def regWriteBase (w : Who) (pg off : Nat) (v : Word) (s : State) : State :=
  match pageKind pg with
  | none => s
  | some (k, i) =>
    if off < 8 then headerWrite w k i pg off v s
    else if off < 0x10 then s
    else match k with
    | .dev | .plot => devWrite w k i pg off v s
    | .aon => aonWrite off v s
    | .pwr => pwrWrite w off v s
    | .sec => secWrite w off v s
    | .nurs => nursWrite w off v s
    | .gauge => gaugeWrite off v s
    | .xlat => xlatWrite off v s
    | .shed | .dram => eccPageWrite k pg off v s
    | .trch => if off < 0x100 then s else trchWrite w (32 * i + (off - 0x100) / 0x18) ((off - 0x100) % 0x18) v s
    | .hop => if off < 0x080 then s else hopRegWrite w (128 * i + (off - 0x080) / 7) ((off - 0x080) % 7) v s
    | .host => hostWrite off v s
    | .eth => ethWrite i off v s
    | .chain => chainRegWrite off v s
    | .rowc => rowcWrite i off v s
    | .rowp => rowpWrite w i off v s
    | .hoe => hoePageWrite i off v s
    | .rail => railWrite off v s
    | .tine => tinePageWrite w i off v s
    | .trel | .pcie | .qspi | .boot => setReg pg off (writeBySpec (regSpec k i off) (reg s pg off) v) s

end Sys2Proof.Machine
end

