-- ==== Sys2Proof/Machine/SecCmds.lean ====
section
/-! DEFINITION. The commands of sessions, lifecycle, OTP, the key store and the TAP (R422–R428, R433, R434). -/

namespace Sys2Proof.Machine

/-- Change a session. -/
def modSess (probe : Bool) (f : Session → Session) (s : State) : State := setSess probe (f (sessOf s probe)) s

/-- A session's command answers: the host's completes its admin command, the probe's goes out on its port. -/
def sessAnswer (probe : Bool) (opc status result : Nat) (data : List Byte) (s : State) : State :=
  if probe then emit (.other "dap" ([opc, status, result] ++ data.map (·.toNat))) s
  else adminDone opc status result data s

/-- A session's command reaches the device, out of reset (R465): the probe's only while the TAP selects the Dunden access
port (R428). -/
def viaTap (probe : Bool) (f : State → State) (s : State) : State :=
  if inReset s || (probe && decide (s.tap ≠ .dap)) then s else f s

/-- SEC_CHALLENGE (R426): the device's random source gives the nonce. -/
def execSecChallenge (probe : Bool) (nonce : BitVec 256) (s : State) : Res :=
  .next (viaTap probe (fun s =>
    if 8 ≤ (sessOf s probe).fails then sessAnswer probe 0x30 0x0031 0 [] s
    else
      let bs := toLe 32 nonce.toNat
      sessAnswer probe 0x30 0 0 bs (modSess probe (fun x => { x with nonce := some (bs, s.now) }) s)) s)

/-- The end of a nonce's window [s, s + 1,000,000) (R426). -/
def nonceEnd (at' : Nat) : Nat := at' + 1000000

/-- NONCE_EXPIRY (R426). -/
def execNonceExpiry (probe : Bool) (s : State) : Res :=
  .next (
    match (sessOf s probe).nonce with
    | some (_, t) => if nonceEnd t ≤ s.now then modSess probe (fun x => { x with nonce := none }) s else s
    | none => s)

/-- The highest LEVEL of the lifecycle (Table 19-1). -/
def lcCeiling (s : State) : Nat := if s.otp.lc = 2 ∧ !regB s pgSec 0x015 0 then 1 else 2

/-- REQ is well formed and within the ceiling. -/
def reqOk (s : State) (req : Nat) : Bool := decide (req / 16 = 0) && decide (req % 4 ≤ lcCeiling s)

/-- The key's hash is the one REQ's level needs (R426). -/
def dbgKeyOk (s : State) (level : Nat) (key : List Byte) : Bool :=
  let h := some (sha256 key)
  decide (s.otp.dbgW = h) || (decide (level ≠ 2) && decide (s.otp.dbgO = h))

/-- The status of a response: 0 where every check passes (R426). -/
def respCheck (s : State) (probe : Bool) (data : List Byte) : Nat :=
  let req := numAt data 0 1
  let key := bytesAt data 1 64
  match (sessOf s probe).nonce with
  | none => 0x0036
  | some (n, t) =>
    if nonceEnd t ≤ s.now then 0x0036
    else if !reqOk s req then 0x0030
    else if s.otp.lc = 0 then 0
    else if !dbgKeyOk s (req % 4) key then 0x0030
    else if ecdsaOk key (bytesAt data 65 64) (sha256 (n ++ toLe 8 s.otp.uid ++ bytesAt data 0 1)) then 0 else 0x0030

/-- The grant of a session as SEC_HGRANT shows it. -/
def grantWord (x : Session) : Nat := x.level + 4 * b2n x.allowStop + 8 * b2n x.debugWake

/-- SEC_RESPOND (R426): REQ, the public key and the signature. -/
def execSecRespond (probe : Bool) (data : List Byte) (s : State) : Res :=
  .next (viaTap probe (fun s =>
    let st := if data.length = 129 then respCheck s probe data else 0x0030
    let req := numAt data 0 1
    if st = 0 then
      let s1 := modSess probe (fun x => { x with
        nonce := none, fails := 0, level := req % 4, allowStop := decide (req / 4 % 2 = 1),
        debugWake := decide (req / 8 % 2 = 1) }) s
      sessAnswer probe 0x31 0 (grantWord (sessOf s1 probe)) [] s1
    else
      let s1 := bumpF pgSec 0x016 0 12 1 (modSess probe (fun x => { x with
        nonce := none, fails := min 8 (x.fails + 1) }) s)
      sessAnswer probe 0x31 st (grantWord (sessOf s1 probe)) [] s1) s)

/-- SEC_CLOSE (R427). -/
def execSecClose (probe : Bool) (s : State) : Res := .next (viaTap probe (fun s => sessEnd probe (sessAnswer probe 0x32 0 0 [] s)) s)

/-! ## Lifecycle, SVN, OTP and zeroization (R422–R424, R433, R434) -/

/-- An admin command that needs a Walled host grant. -/
def withGrant (opc : Nat) (f : State → State) (s : State) : State :=
  if s.hostSess.level = 2 then f s else adminDone opc 0x0032 0 [] s

/-- The host's admin command waits while an OTP programming is under way. -/
def otpFree (f : State → State) (s : State) : State := if s.otpOp.isSome then s else f s

/-- SEC_LC. -/
def lcWord (o : Otp) : Nat := o.lc + 4 * b2n o.retPending

/-- A lifecycle state may be entered (Table 19-1). -/
def lcOk (o : Otp) (target : Nat) : Bool :=
  match target with
  | 1 => decide (o.lc = 0) && (List.range 4).any (fun k => (Tbl.get (fun _ => none) o.img k).isSome) && o.dbgO.isSome &&
      o.dbgW.isSome
  | 2 => decide (o.lc = 1)
  | 3 => decide (o.lc = 1) || decide (o.lc = 2)
  | _ => false

/-- A SEC_LIFECYCLE completes, with whatever status: both sessions close (R427). -/
def lifecycleDone (status result : Nat) (s : State) : State :=
  sessEnd false (sessEnd true (adminDone 0x33 status result [] s))

/-- SEC_LIFECYCLE (R422, Table 19-5): entry to RETURNED zeroizes and sets RET_PENDING. -/
def execSecLifecycle (target : BitVec 8) (s : State) : Res :=
  .next (
    if s.hostSess.level ≠ 2 then lifecycleDone 0x0032 0 s
    else otpFree (fun s =>
      if !lcOk s.otp target.toNat then lifecycleDone 0x0033 (lcWord s.otp) s
      else
        let s1 := { s with otpOp := some (.lifecycle target.toNat) }
        if target.toNat = 3 then keysZero { s1 with otp := { s1.otp with retPending := true } } else s1) s)

/-- SEC_SVN (R424). -/
def execSecSvn (v : BitVec 8) (s : State) : Res :=
  .next (withGrant 0x34 (otpFree fun s =>
    if v.toNat < s.otp.svn ∨ s.boot.svn < v.toNat ∨ 64 < v.toNat then adminDone 0x34 0x0035 s.otp.svn [] s
    else { s with otpOp := some (.svn v.toNat) }) s)

/-- SEC_ZEROIZE (R433). -/
def execSecZeroize (s : State) : Res :=
  .next (withGrant 0x35 (fun s =>
    let s1 := keysZero s
    adminDone 0x35 0 (regF s1 pgSec 0x015 8 8) [] s1) s)

/-- A field has been programmed (R423). -/
def otpUsed (o : Otp) (f : Nat) : Bool :=
  if f < 4 then (Tbl.get (fun _ => none) o.img f).isSome
  else match f with
  | 4 => o.revokeSet
  | 5 => o.dbgO.isSome
  | 6 => o.dbgW.isSome
  | 7 => o.mac.isSome
  | _ => o.secret.isSome

/-- A field may be programmed in the present state (Table 19-2). -/
def otpStateOk (o : Otp) (f : Nat) : Bool :=
  if f = 4 then decide (o.lc ≠ 3) else if f = 8 then decide (o.lc = 0) else decide (o.lc ≤ 1)

/-- SEC_OTP_WRITE (R423). -/
def execSecOtpWrite (field : BitVec 8) (data : List Byte) (s : State) : Res :=
  .next (withGrant 0x36 (otpFree fun s =>
    let f := field.toNat
    if 8 < f then adminDone 0x36 0x0002 0 [] s
    else if otpUsed s.otp f then adminDone 0x36 0x0034 0 [] s
    else if !otpStateOk s.otp f then adminDone 0x36 0x0033 0 [] s
    else { s with otpOp := some (.field f data) }) s)

/-- `n` bytes of a field's data. -/
def otpBytes (n : Nat) (data : List Byte) : List Byte := (data ++ List.replicate n 0).take n

/-- A field's data is programmed. -/
def otpProgram (f : Nat) (data : List Byte) (o : Otp) : Otp :=
  if f < 4 then { o with img := Tbl.set (fun _ => none) o.img f (some (otpBytes 32 data)) }
  else match f with
  | 4 => { o with revoke := numAt data 0 1 % 16, revokeSet := true }
  | 5 => { o with dbgO := some (otpBytes 32 data) }
  | 6 => { o with dbgW := some (otpBytes 32 data) }
  | 7 => { o with mac := some (otpBytes 6 data) }
  | _ => { o with secret := some (otpBytes 32 data) }

/-- A lifecycle takes effect in OTP; RETURNED overwrites DEV_SECRET with ones (Table 19-5). -/
def otpLifecycle (lc : Nat) (o : Otp) : Otp :=
  if lc = 3 then { o with lc := 3, secret := some (List.replicate 32 0xFF) } else { o with lc := lc }

/-- OTP_WRITE_COMPLETE (R422–R424): the command completes; after a lifecycle both sessions close (R427). -/
def execOtpWriteComplete (s : State) : Res :=
  .next (
    match s.otpOp with
    | none => s
    | some op =>
      let s1 := { s with otpOp := none }
      match op with
      | .lifecycle lc =>
        let s2 := { s1 with otp := otpLifecycle lc s1.otp }
        lifecycleDone 0 (lcWord s2.otp) s2
      | .svn v => adminDone 0x34 0 v [] { s1 with otp := { s1.otp with svn := v } }
      | .field f data => adminDone 0x36 0 0 [] { s1 with otp := otpProgram f data s1.otp })

/-- SEC_CTRL_ZERO (R433): a write of ZERO with the present WCONSENT. -/
def execSecCtrlZero (w : Who) (s : State) : Res :=
  .next (gated w pgSec 0x015 (fun s => secWrite w 0x015 (wd (2 + b2n (regB s pgSec 0x015 0))) s) s)

/-! ## The TAP (R427, R428) -/

/-- The TAP's instruction. -/
def setTap (i : TapIr) (s : State) : State := { s with tap := i }

/-- TAP_RESET (R427): the probe grant ends. -/
def execTapReset (s : State) : Res := .next (sessEnd true (setTap .idcode s))

/-- BYPASS (R428). -/
def execBypass (s : State) : Res := .next (setTap .bypass s)

/-- IDCODE (R428). -/
def execIdcode (s : State) : Res := .next { setTap .idcode s with readData := wd 0x0512A0C3 }

/-- SAMPLE_PRELOAD (R428). -/
def execSamplePreload (s : State) : Res := .next (setTap .sample s)

/-- EXTEST (R428). -/
def execExtest (s : State) : Res := .next (setTap .extest s)

/-- CLAMP (R428). -/
def execClamp (s : State) : Res := .next (setTap .clamp s)

/-- HIGHZ (R428). -/
def execHighz (s : State) : Res := .next (setTap .highz s)

/-- DAP (R428). -/
def execDap (s : State) : Res := .next (setTap .dap s)

end Sys2Proof.Machine
end

