-- ==== Sys2Proof/Machine/Reset.lean ====
section
/-! DEFINITION. What a device reset and an AON reset leave, and the supervisor (R376, R465, R466). -/

namespace Sys2Proof.Machine

/-- A register that a device reset keeps: the AON page, ETH_WAKE, CHAIN_CFG with WRELAY, the fault record's numbers and
DIAG_CAL (R465). -/
def regKept (key : Nat) : Bool :=
  let pg := key / 1024
  let off := key % 1024
  decide (pg = pgAon) || ((decide (pg = pgEth 0) || decide (pg = pgEth 1)) && decide (off = 0x0CC)) ||
    (decide (pg = pgChain) && decide (off = 0x010)) || (decide (pg = pgGauge) && decide (off = 0x014)) ||
    (decide (pg = pgGauge) && decide (0x200 ≤ off) && decide (off ≤ 0x27F))

/-- The state after a device reset: AON-held state, OTP and the rows' supplies survive, and the model's own fields go on
(R267, R465); the factory trims are read again before boot ROM ready (R74). -/
def deviceReset (s : State) : State :=
  forAll (List.range 4) (keepVio s) <| setRegF pgBoot 0x010 5 4 (regF s pgBoot 0x010 5 4)
    { State.reset with
      pending := s.pending, walkUps := s.walkUps, now := s.now, free := s.free, regs := s.regs.filter fun e => regKept e.1
      frec := s.frec, otp := s.otp, keys := s.keys, vio := s.vio, released := s.released
      releasedAt := s.releasedAt, vcoreLow := s.vcoreLow, vcoreAt := s.vcoreAt, boot := { Boot.reset with sel := s.boot.sel }, readData := s.readData, out := s.out }

/-- The state after an AON reset: only OTP survives (R465); slot 0 loads from DEV_SECRET (R433). -/
def aonReset (s : State) : State :=
  keysAtReset
    { State.reset with
      pending := s.pending, walkUps := s.walkUps, free := s.free, otp := s.otp, readData := s.readData, out := s.out }

/-- An entry to RETURNED that a reset interrupted is completed before boot ROM ready (R433, Table 19-5). -/
def returnedFinish (s : State) : State :=
  if s.otp.retPending ∧ s.otp.lc ≠ 3 ∧ s.otpOp = none then
    let s1 := keysZero s
    { s1 with otp := otpLifecycle 3 s1.otp }
  else s

/-- DEVICE_RESET (R465): a RESET_N pulse of 1 µs to 10 ms; RESET_N is low until RESET_RELEASE. -/
def execDeviceReset (s : State) : Res := .next { deviceReset s with released := false }

/-- AON_RESET (R465): a RESET_N pulse of 10 ms or more, or a rise of VAON. -/
def execAonReset (s : State) : Res := .next (aonReset s)

/-- The hold in reset ends: nothing that came while it lasted is left (R465, R466). -/
def resetLeave (s : State) : State := { deviceReset s with releasedAt := s.now }

/-- RESET_RELEASE (R366, R465): the straps are sampled and the boot begins. -/
def execResetRelease (bootsel : Fin 8) (s : State) : Res :=
  .next (if s.released then s else
    let s1 := resetLeave s
    { s1 with released := true, boot := { s1.boot with sel := bootsel.val } })

/-- VCORE_UNDERVOLTAGE (R466): while VCORE may lie off in device Stop the supervisor does not act. -/
def execVcoreUndervoltage (s : State) : Res :=
  .next (if s.pwr.off then s else { deviceReset s with vcoreLow := true, vcoreAt := s.now })

/-- VCORE_SUPERVISOR_RELEASE (R466): 100 µs after VCORE is back, and so no sooner than that after it was found low. -/
def execVcoreSupervisorRelease (s : State) : Res :=
  .next (if s.vcoreLow ∧ s.vcoreAt + 100 ≤ s.now then { resetLeave s with vcoreLow := false } else s)

end Sys2Proof.Machine
end

