-- ==== Sys2Proof/Machine/Boot.lean ====
section
/-! DEFINITION. Seed images, the boot, the scion store and grafts (R365–R385). -/

namespace Sys2Proof.Machine

/-! ## Images (R369–R371) -/

/-- The receive area (R367). -/
def rxBase : Nat := 0x04300000

/-- Byte `i` of an image at a Shed address, five bytes per word, low byte first (R367). -/
def imgByte (s : State) (base i : Nat) : Byte := BitVec.ofNat 8 (getF (memGet s (base + i / 5)) (8 * (i % 5)) 8)

/-- Bytes `i` to `i + n − 1` of an image. -/
def imgBytes (s : State) (base i n : Nat) : List Byte := (List.range n).map fun k => imgByte s base (i + k)

/-- A little-endian field of an image. -/
def imgNum (s : State) (base i n : Nat) : Nat := leBytes (imgBytes s base i n)

/-- Bytes of an image are all zero. -/
def imgZero (s : State) (base i n : Nat) : Bool := decide (imgNum s base i n = 0)

/-- ERR codes of BOOT_STAT. -/
def eFORMAT : Nat := 1
def eKEY : Nat := 2
def eROLLBACK : Nat := 3
def eSIGNATURE : Nat := 4
def eHASH : Nat := 5
def eTARGET : Nat := 6

/-- NSEC of a header. -/
def imgNsec (s : State) (base : Nat) : Nat := imgNum s base 6 2

/-- The fixed part of a header is well formed (Table 16-2). -/
def headerOk (s : State) (base : Nat) : Bool :=
  decide (imgBytes s base 0 4 = [0x53, 0x45, 0x45, 0x44]) && decide (imgNum s base 4 2 = 1) &&
    decide (1 ≤ imgNsec s base) && decide (imgNsec s base ≤ 64) && decide (imgNum s base 8 4 ≤ 5242880) &&
    decide (imgNum s base 14 1 < imgNsec s base) &&
    (decide (imgNum s base 15 1 < 32) || decide (imgNum s base 15 1 = 0xFF)) && decide (imgNum s base 16 1 ≤ 3) &&
    imgZero s base 17 3 && imgZero s base 148 108

/-- Manifest entry `k` (Table 16-3), whose section begins at byte `off`. -/
def entryAt (s : State) (base k off : Nat) : Sect :=
  let e := 256 + 48 * k
  { typ := imgNum s base e 1, id := imgNum s base (e + 1) 1, be := decide (imgNum s base (e + 2) 1 % 2 = 1)
    len := imgNum s base (e + 4) 4, store := imgNum s base (e + 8) 4, digest := imgBytes s base (e + 16) 32, off := off }

/-- A manifest entry is well formed. -/
def entryOk (s : State) (base k : Nat) : Bool :=
  let e := 256 + 48 * k
  let x := entryAt s base k 0
  (decide (x.typ = 1) && decide (x.id = 0) && decide (x.store = 0) || decide (x.typ = 2) && decide (x.id < 32)) &&
    decide (imgNum s base (e + 2) 1 < 2) && imgZero s base (e + 3) 1 && decide (x.len % 5 = 0) && imgZero s base (e + 12) 4

/-- `n` manifest entries from entry `k`, the first section at byte `off`. -/
def entries (s : State) (base : Nat) (n k off : Nat) : List Sect :=
  match n with
  | 0 => []
  | j + 1 =>
    let x := entryAt s base k off
    x :: entries s base j (k + 1) (off + x.len)

/-- ROOT sections precede SCION sections. -/
def rootsFirst (l : List Sect) : Bool := (l.dropWhile fun x => decide (x.typ = 1)).all fun x => decide (x.typ = 2)

/-- The manifest obeys R370. -/
def manifestOk (s : State) (base : Nat) : Bool :=
  let n := imgNsec s base
  let l := entries s base n 0 (256 + 48 * n)
  let init := imgNum s base 15 1
  (List.range n).all (entryOk s base) && rootsFirst l &&
    decide (256 + 48 * n + (l.map (·.len)).foldl (· + ·) 0 = imgNum s base 8 4) &&
    (match findPos (fun x => decide (x.typ = 2) && decide (x.id = init)) l with
     | some i => decide (i ≤ imgNum s base 14 1)
     | none => true)

/-- What the checks of a header and manifest give. -/
inductive SeedRes where
  | good (x : Seed)
  | bad (err : Nat)
  deriving DecidableEq, Repr

/-- The key of a header passes (R371, R423). -/
def keyOk (s : State) (base : Nat) : Bool :=
  let k := imgNum s base 16 1
  decide (s.otp.revoke / 2 ^ k % 2 = 0) &&
    decide (Tbl.get (fun _ => none) s.otp.img k = some (sha256 (imgBytes s base 20 64)))

/-- The digest that the signature covers. -/
def signedDigest (s : State) (base : Nat) : List Byte :=
  sha256 (imgBytes s base 0 84 ++ imgBytes s base 148 108 ++ imgBytes s base 256 (48 * imgNsec s base))

/-- Steps 1 to 4 of R371 on a header and manifest that have arrived, by the lifecycle of the boot (R422, Table 19-1). -/
def seedCheck (s : State) (base : Nat) : SeedRes :=
  if !headerOk s base || !manifestOk s base then .bad eFORMAT
  else if s.boot.lc ≠ 0 ∧ !keyOk s base then .bad eKEY
  else if s.boot.lc ≠ 0 ∧ imgNum s base 12 2 < s.otp.svn then .bad eROLLBACK
  else if !ecdsaOk (imgBytes s base 20 64) (imgBytes s base 84 64) (signedDigest s base) then .bad eSIGNATURE
  else
    let n := imgNsec s base
    .good { base := base, total := imgNum s base 8 4, svn := imgNum s base 12 2, start := imgNum s base 14 1
            init := imgNum s base 15 1, sects := entries s base n 0 (256 + 48 * n) }

/-- The bytes of a section. -/
def sectBytes (s : State) (base : Nat) (x : Sect) : List Byte := imgBytes s base x.off x.len

/-- A section's digest passes. -/
def sectOk (s : State) (base : Nat) (x : Sect) : Bool := decide (sha256 (sectBytes s base x) = x.digest)

/-- Words of a byte string, five bytes each; `be` where the high byte comes first (Table 16-3). -/
def bytesWords (be : Bool) (n : Nat) (bs : List Byte) : List Word :=
  match n with
  | 0 => []
  | k + 1 =>
    let b := bs.take 5
    wd (if be then beBytes b else leBytes b) :: bytesWords be k (bs.drop 5)

/-- The words of a section. -/
def sectWords (s : State) (base : Nat) (x : Sect) : List Word := bytesWords x.be (x.len / 5) (sectBytes s base x)

/-! ## Records (R372, R373) -/

/-- A record of Table 16-4. -/
inductive Rec where
  | code (l off : Nat) (ws : List Word)
  | data (l off : Nat) (ws : List Word)
  | words (pa : Nat) (ws : List Word)
  | regs (ps : List (Nat × Word))
  | redirect (cs : List Nat)
  deriving DecidableEq, Repr

/-- What the next words of a section spell. -/
inductive RecRes where
  | done
  | bad
  | one (r : Rec) (rest : List Word)
  deriving DecidableEq, Repr

/-- Pairs of an address word and a value word. -/
def pairsOf (n : Nat) (ws : List Word) : List (Nat × Word) :=
  match n with
  | 0 => []
  | k + 1 => ((ws.headD 0).toNat, (ws.drop 1).headD 0) :: pairsOf k (ws.drop 2)

/-- Every address word of the pairs has only bits [33:0]. -/
def pairsOk (ps : List (Nat × Word)) : Bool := ps.all fun p => decide (p.1 < 2 ^ 34)

/-- Read one record. -/
def recNext (root : Bool) (ws : List Word) : RecRes :=
  match ws with
  | h :: c :: rest =>
    let n := getF c 0 20
    if getF c 20 20 ≠ 0 then .bad
    else match getF h 0 3 with
    | 0 => if getF h 3 37 = 0 ∧ n = 0 ∧ rest = [] then .done else .bad
    | 1 =>
      if getF h 23 17 ≠ 0 ∨ rest.length < n ∨ 0x2000 < getF h 10 13 + n then .bad
      else .one (.code (getF h 3 7) (getF h 10 13) (rest.take n)) (rest.drop n)
    | 2 =>
      if getF h 25 15 ≠ 0 ∨ rest.length < n ∨ 0x8000 < getF h 10 15 + n then .bad
      else .one (.data (getF h 3 7) (getF h 10 15) (rest.take n)) (rest.drop n)
    | 3 =>
      if getF h 37 3 ≠ 0 ∨ rest.length < n then .bad
      else .one (.words (getF h 3 34) (rest.take n)) (rest.drop n)
    | 4 =>
      if getF h 3 37 ≠ 0 ∨ rest.length < 2 * n ∨ !pairsOk (pairsOf n rest) then .bad
      else .one (.regs (pairsOf n rest)) (rest.drop (2 * n))
    | 5 =>
      if root ∨ getF h 3 37 ≠ 0 ∨ rest.length < n ∨ (rest.take n).any (fun w => decide (128 ≤ w.toNat)) then .bad
      else .one (.redirect ((rest.take n).map (·.toNat))) (rest.drop n)
    | _ => .bad
  | _ => .bad

/-- A register that a scion may change (the Scion columns). -/
def scionReg (k : PageKind) (off : Nat) : Bool :=
  if off = 5 then true
  else if off < 0x10 then false
  else match k with
  | .plot => decide (off = 0x014)
  | .dev => [0x014, 0x01C, 0x024, 0x02C, 0x034, 0x044].contains off
  | .tine =>
    [0x040, 0x044, 0x048, 0x04A, 0x04C, 0x04D, 0x04E, 0x04F, 0x0A0, 0x0A1, 0x188, 0x189, 0x320, 0x321].contains off ||
      (decide (0x080 ≤ off) && decide (off ≤ 0x09F) && decide (off % 8 < 4)) ||
      (decide (0x1C0 ≤ off) && decide (off ≤ 0x1FF))
  | .xlat => decide (off = 0x010)
  | .shed => decide (off = 0x012) || decide (off = 0x013)
  | .dram => decide (off = 0x013)
  | .trel => decide (off = 0x030)
  | .trch => decide (0x100 ≤ off) && [2, 4, 0xD, 0xE].contains ((off - 0x100) % 0x18)
  | .hop => decide (0x080 ≤ off) && decide ((off - 0x080) % 7 = 1)
  | .rowc =>
    (decide (0x028 ≤ off) && decide (off ≤ 0x02F)) || (decide (0x040 ≤ off) && decide (off ≤ 0x04F)) ||
      (decide (0x100 ≤ off) && decide (off ≤ 0x1FF))
  | .rowp => decide (off < 0x310) && [0, 2, 3].contains ((off - 0x010) % 6)
  | .hoe => decide (0x100 ≤ off) && [0, 2, 3, 4, 5, 7, 8, 9, 0xA, 0x12, 0x13].contains ((off - 0x100) % 0x18)
  | .rail => decide (0x100 ≤ off) && decide (off < 0x180) && decide (off % 8 = 1)
  | .eth =>
    [0x014, 0x015, 0x021, 0x022, 0x023, 0x0C4, 0x0C5].contains off || (decide (0x040 ≤ off) && decide (off ≤ 0x0BF)) ||
      (decide (0x100 ≤ off) && decide ((off - 0x100) % 6 < 5))
  | .pwr => decide (off = 0x018)
  | .gauge => decide (0x100 ≤ off) && decide (off < 0x200) && decide (off % 4 < 3)
  | _ => false

/-- The page and offset of a REGS address; none outside the register pages. -/
def regAt (a : Nat) : Option (Nat × Nat) :=
  match regionOf a with
  | .page pg off => some (pg, off)
  | _ => none

/-- A REGS target that R373 refuses. -/
def regRefusedTarget (a : Nat) : Bool :=
  match regAt a with
  | none => true
  | some (pg, off) =>
    decide (0x180 ≤ pg) || (decide (pg = pgHop 254) && decide (hopBase 254 ≤ off) && decide (off < hopBase 255 + 7)) ||
      (decide (pg = pgTrch 127) && decide (chBase 127 ≤ off) && decide (off < chBase 127 + 0x18))

/-- A REGS target names a register that a scion may change. -/
def regScion (a : Nat) : Bool :=
  match regAt a with
  | some (pg, off) =>
    match pageKind pg with
    | some (k, _) => scionReg k off
    | none => false
  | none => false

/-- A Shed word that records may write: outside the reserved region, the receive area and the image being loaded. -/
def shedTarget (img : Option (Nat × Nat)) (pa : Nat) : Bool :=
  decide (0x04000000 ≤ pa) && decide (pa < 0x04400000) && !reservedPa pa && decide (pa < rxBase) &&
    (match img with
     | some (a, n) => !(decide (a ≤ pa) && decide (pa < a + n))
     | none => true)

/-- The words of an image being loaded. -/
def imgRange (x : Seed) : Nat × Nat := (x.base, (x.total + 4) / 5)

/-- What the whole-record check of R373 gives: 0, eTARGET, or 7 for NOT_SCION_FIELD. -/
def recCheck (root : Bool) (img : Option (Nat × Nat)) (r : Rec) : Nat :=
  match r with
  | .code _ _ _ => 0
  | .data _ _ _ => 0
  | .words pa ws => if (List.range ws.length).all fun i => shedTarget img (pa + i) then 0 else eTARGET
  | .regs ps =>
    if ps.any fun p => regRefusedTarget p.1 then eTARGET
    else if !root && ps.any (fun p => !regScion p.1) then 7 else 0
  | .redirect cs => if cs.contains 127 then eTARGET else 0

/-! ## Writes of the graft engine (R373) -/

/-- A refused write counts. -/
def graftRefused (n : Nat) (s : State) : State := bumpF pgBoot 0x014 15 16 n s

/-- The physical page and offset of a REGS address, through the Nursery's map. -/
def regTarget (s : State) (a : Nat) : Option (Nat × Nat) :=
  match regAt a with
  | some (pg, off) =>
    if 0x100 ≤ pg then (physOf s (pg - 0x100)).map fun t => (pgTine t, off) else some (pg, off)
  | none => none

/-- The sticky flag that a refused write of a register sets. -/
def refuseFlag (k : PageKind) (off : Nat) : Option (Nat × Nat) :=
  match k with
  | .dev => if off = 0x048 then some (0x04A, 39) else if off = 0x050 then some (0x051, 26) else none
  | .hop => if 0x080 ≤ off ∧ (off - 0x080) % 7 = 0 then some (off + 3, 24) else none
  | .rowc =>
    if 0x018 ≤ off ∧ off ≤ 0x01F then some (0x020, 16) else if 0x040 ≤ off ∧ off ≤ 0x04F then some (0x010, 12) else none
  | .rowp =>
    if 0x010 ≤ off ∧ off < 0x310 ∧ (off - 0x010) % 6 < 2 then some (off - (off - 0x010) % 6 + 4, 14) else none
  | .hoe => if 0x100 ≤ off then some (off - (off - 0x100) % 0x18 + 0xC, 22) else none
  | .rail => if 0x100 ≤ off ∧ off < 0x180 ∧ off % 8 = 0 then some (off + 2, 20) else none
  | .eth =>
    if off = 0x010 ∨ off = 0x014 ∨ off = 0x015 ∨ off = 0x018 then some (0x011, 1)
    else if 0x100 ≤ off ∧ (off - 0x100) % 6 = 0 then some (off + 5, 14) else none
  | .gauge => if 0x100 ≤ off ∧ off < 0x200 ∧ off % 4 = 0 then some (off + 3, 22) else none
  | .trch => if 0x100 ≤ off ∧ (off - 0x100) % 0x18 = 0 then some (off + 1, 14) else none
  | .host => if 0x100 ≤ off ∧ off < 0x100 + 4 * 65 ∧ off % 4 < 2 then some (0x011, 2) else none
  | _ => none

/-- A header write that its register refuses to the graft engine: a locked PAGE_CTRL, and every PAGE_OWNER (R138, R454). -/
def headerRefused (s : State) (pg off : Nat) (v : Word) : Bool :=
  match off with
  | 2 => pageLocked s pg && !bit v 1
  | 7 => true
  | _ => false

/-- A write that its register ignores by a rule of its own without a flag, in a channel's block (R227, R228, R230). -/
def trchRefused (s : State) (c k : Nat) (v : Word) : Bool :=
  match k with
  | 0x0 => decide (1 < b2n (bit v 0) + b2n (bit v 1) + b2n (bit v 2) + b2n (bit v 3))
  | 0x6 | 0x8 | 0x9 | 0xA | 0xB => decide (chState s c ≠ 0)
  | 0x7 => decide (ringSize s c ≤ getF v 0 16)
  | _ => false

/-- A write that its register ignores by a rule of its own without a flag, in a row's ROWC page (R290). -/
def rowcRefused (s : State) (r off : Nat) (v : Word) : Bool :=
  let e := (off - 0x080) / 16
  decide (0x080 ≤ off) && decide (off ≤ 0x0FF) &&
    (if off % 16 = 1 then bit v 39 && !seAccepts s r e v else seBusy s r e)

/-- A write of `v` that its register ignores by a rule of its own without a flag (R373). -/
def silentRefused (s : State) (k : PageKind) (i pg off : Nat) (v : Word) : Bool :=
  if off < 8 then headerRefused s pg off v
  else match k with
  | .eth => gclHeld s i off || (decide (off = 0x0C8) && decide (getF v 3 16 = 0))
  | .host =>
    (hostEn s && decide (0x012 ≤ off) && decide (off ≤ 0x01A)) ||
      (decide (off = 0x01D) && decide (getF v 0 34 % 0x200000 ≠ 0)) || (decide (off = 0x010) && hostCtrlRefused s v)
  | .trch => decide (0x100 ≤ off) && trchRefused s (32 * i + (off - 0x100) / 0x18) ((off - 0x100) % 0x18) v
  | .hop =>
    decide (0x080 ≤ off) && decide ((off - 0x080) % 7 = 5) &&
      decide ((hopOffer (128 * i + (off - 0x080) / 7) v s).1 ≠ .accepted)
  | .dev => (decide (off = 0x044) && !chainHead s) || (decide (off = 0x041) && !chainFaceOn s)
  | .tine => decide (off = oCKGO) || decide (off = oSCFG 60)
  | .boot => decide (off = 0x013)
  | .xlat => decide (off = 0x012) && bit v 39 && regB s pg off 0
  | .rowc => rowcRefused s i off v
  | .pwr => decide (off = 0x012) || (decide (off = 0x018) && !tunitOk (getF v 0 3) (getF v 3 7))
  | .gauge => decide (0x100 ≤ off) && decide (off ≤ 0x1FF) && decide (off % 4 = 2) && !tunitOk (getF v 0 3) (getF v 3 7)
  | .sec => decide (off = 0x015) || decide (off = 0x019) || (decide (0x020 ≤ off) && decide (off ≤ 0x02F))
  | .nurs => (decide (0x0C0 ≤ off) && decide (off ≤ 0x13F)) || decide (off = 0x014)
  | _ => false

/-- One REGS pair is applied. -/
def applyReg (a : Nat) (v : Word) (s : State) : State :=
  match regTarget s a with
  | none => graftRefused 1 s
  | some (pg, off) =>
    match pageKind pg with
    | none => graftRefused 1 s
    | some (k, i) =>
      if !pageUp s k i off || silentRefused s k i pg off v then graftRefused 1 s
      else match refuseFlag k off with
        | some (fo, fb) =>
          let s1 := regWriteBase .graft pg off v (setRegB pg fo fb false s)
          if regB s1 pg fo fb then graftRefused 1 s1 else setRegB pg fo fb (regB s pg fo fb) s1
        | none => regWriteBase .graft pg off v s

/-- Words are stored from an address on, if its domain is up; else they are refused. -/
def applyWords (d pa : Nat) (ws : List Word) (s : State) : State :=
  if domUp s d then
    forAll ((List.range ws.length).zip ws) (fun e x => memPut (pa + e.1) e.2 x) s
  else graftRefused ws.length s

/-- The domain of a Shed word. -/
def shedDom (pa : Nat) : Nat := if pa < 0x04200000 then domShda else domShdb

/-- CODE goes to the idle bank of the tine that serves a logical tine; the tine, if there is one (R372, R379). -/
def applyCode (l off : Nat) (ws : List Word) (s : State) : Option Nat × State :=
  match physOf s l with
  | some t => (some t, applyWords (t / 9) (trayBase t + 0x2000 * (1 - activeBank s t) + off) ws s)
  | none => (none, graftRefused ws.length s)

/-- DATA goes to the data tray. -/
def applyData (l off : Nat) (ws : List Word) (s : State) : State :=
  match physOf s l with
  | some t => applyWords (t / 9) (trayBase t + 0x8000 + off) ws s
  | none => graftRefused ws.length s

/-- WORDS go to Shed, each by its own half's domain. -/
def applyShed (pa : Nat) (ws : List Word) (s : State) : State :=
  forAll ((List.range ws.length).zip ws) (fun e x => applyWords (shedDom (pa + e.1)) (pa + e.1) [e.2] x) s

/-- Change the boot state. -/
def modBoot (f : Boot → Boot) (s : State) : State := { s with boot := f s.boot }

/-- Apply a rootstock's record (R372, R373). -/
def applyRoot (r : Rec) (s : State) : State :=
  let s0 := modBoot (fun b => { b with applied := true }) s
  match r with
  | .code l off ws =>
    match applyCode l off ws s0 with
    | (some _, s1) => modBoot (fun b => { b with coded := insSorted b.coded l }) s1
    | (none, s1) => s1
  | .data l off ws => applyData l off ws s0
  | .words pa ws => applyShed pa ws s0
  | .regs ps => forAll ps (fun p x => applyReg p.1 p.2 x) s0
  | .redirect _ => s0  -- no program of the old machine runs on (R375)

/-- Apply the records of a section in order as a rootstock's: 0, or the error that ends it. `form` is the column of Table 16-4
that says which records the section may hold: a scion that INIT names keeps its own (R375). -/
def applySect (fuel : Nat) (form : Bool) (img : Option (Nat × Nat)) (ws : List Word) (s : State) : Nat × State :=
  match fuel with
  | 0 => (eFORMAT, s)
  | n + 1 =>
    match recNext form ws with
    | .done => (0, s)
    | .bad => (eFORMAT, s)
    | .one r rest =>
      let e := recCheck true img r
      if e ≠ 0 then (e, s) else applySect n form img rest (applyRoot r s)

/-! ## The scion store (R370, R377) -/

/-- A scion of the store. -/
def scionAt (s : State) (id : Nat) : Option Scion := Tbl.get (fun _ => none) s.boot.scions id

/-- Hold a scion, or none. -/
def setScion (id : Nat) (x : Option Scion) (s : State) : State :=
  setRegB pgBoot 0x012 id x.isSome (modBoot (fun b => { b with scions := Tbl.set (fun _ => none) b.scions id x }) s)

/-- A checked SCION section is copied to STORE: 0, or eTARGET where it may not lie there. -/
def storeScion (img : Seed) (x : Sect) (s : State) : Nat × State :=
  let pa := 0x04000000 + x.store
  let n := x.len / 5
  if (List.range n).all fun i => shedTarget (some (imgRange img)) (pa + i) then
    let s1 := applyShed pa (bytesWords false n (sectBytes s img.base x)) s
    (0, setScion x.id (some { addr := pa, len := x.len, be := x.be, digest := x.digest }) s1)
  else (eTARGET, s)

/-- The bytes of a held scion. -/
def scionBytes (s : State) (x : Scion) : List Byte := imgBytes s x.addr 0 x.len

/-- The words of a held scion. -/
def scionWords (s : State) (x : Scion) : List Word := bytesWords x.be (x.len / 5) (scionBytes s x)

/-! ## The boot (R366–R376) -/

/-- BOOT_STAT fields: STATE, SRC, ERR, SECTION, LOCKED. -/
def bootState (s : State) : Nat := regF s pgBoot 0x010 0 3
def setBootState (v : Nat) (s : State) : State := setRegF pgBoot 0x010 0 3 v s
def setBootErr (v : Nat) (s : State) : State := setRegF pgBoot 0x010 5 4 v s
def setBootSect (v : Nat) (s : State) : State := setRegF pgBoot 0x010 10 6 v s
def bootLocked (s : State) : Bool := regB s pgBoot 0x010 16

/-- The sources of Table 16-1 by BOOTSEL: 0 quad-SPI, 1 PCIe, 2 Ethernet, 3 chain UP, highest priority first. -/
def bootSources (sel : Nat) : List Nat :=
  match sel with
  | 0 => [0] | 1 => [1] | 2 => [2] | 3 => [3] | 4 => [1, 0] | 5 => [1, 2] | 6 => [3, 0] | _ => [1, 0, 3, 2]

/-- Lock or release the source. -/
def bootLock (src : Option Nat) (s : State) : State :=
  match src with
  | some k => setRegB pgBoot 0x010 16 true (setRegF pgBoot 0x010 3 2 k s)
  | none => setRegB pgBoot 0x010 16 false (setRegF pgBoot 0x010 3 2 0 s)

/-- An error before launch (R376): the deposit is discarded, or the device resets itself. -/
def bootFail (err : Nat) (s : State) : State :=
  let s1 := setBootErr err s
  if s.boot.applied then deviceReset s1
  else setReg pgBoot 0x011 0 (setBootState 1 (bootLock none (modBoot (fun b => { b with seed := none, next := 0 }) s1)))

/-- A tine starts at half-word 0 of bank 1 in WS at base level (R375). -/
def launchTine (l : Nat) (s : State) : State :=
  match physOf s l with
  | some t =>
    let s1 := setRegF (pgTine t) oTST 28 7 3 (setRegF (pgTine t) 0x047 0 1 1 s)
    alive t (modTine t (fun x => { x with halt := .no, pc := 0, flight := none, window := [], fault := none, entry := none }) s1)
  | none => s

/-- The launch (R375): INIT's records, then every coded tine starts; tine 0 leaves the ROM. -/
def bootLaunch (x : Seed) (s : State) : State :=
  let (e, s1) := match scionAt s x.init with
    | some sc => if x.init < 32 then applySect (sc.len + 1) false (some (imgRange x)) (scionWords s sc) s else (0, s)
    | none => (0, s)
  if e ≠ 0 then bootFail e s1
  else
    let s2 := modTine 0 (fun y => { y with halt := .unnamed, flight := none, window := [], fault := none, entry := none }) s1
    setBootState 3 (modBoot (fun b => { b with svn := x.svn }) (forAll s1.boot.coded launchTine s2))

/-- A section is complete: it is checked and applied or stored; what an error does depends on the launch (R371, R374,
R376). -/
def bootSect (x : Seed) (i : Nat) (y : Sect) (s : State) : State :=
  let s0 := setBootSect i s
  let (e, s1) :=
    if !sectOk s x.base y then (eHASH, s0)
    else if y.typ = 1 then applySect (y.len + 1) true (some (imgRange x)) (sectWords s x.base y) s0
    else storeScion x y s0
  if e = 0 then
    let s2 := modBoot (fun b => { b with next := i + 1 }) (if i + 1 < x.sects.length then setBootSect (i + 1) s1 else s1)
    if i = x.start ∧ bootState s < 3 then bootLaunch x s2 else s2
  else if bootState s = 3 then
    let s2 := setBootErr e (modBoot (fun b => { b with next := i + 1 }) s1)
    if y.typ = 2 then setScion y.id none s2 else s2
  else bootFail e s1

/-- Sections that have arrived whole are taken in order. -/
def bootSects (fuel bytes : Nat) (s : State) : State :=
  match fuel with
  | 0 => s
  | n + 1 =>
    match s.boot.seed with
    | none => s
    | some x =>
      match x.sects[s.boot.next]? with
      | none => s
      | some y =>
        if y.off + y.len ≤ bytes then bootSects n bytes (bootSect x s.boot.next y s) else s

/-- Header and manifest are checked once they have arrived, then the sections (Table 16-5). -/
def bootProgress (bytes : Nat) (done : Bool) (s : State) : State :=
  let s1 :=
    match s.boot.seed with
    | some _ => s
    | none =>
      if bytes < 256 then s
      else if imgNsec s rxBase < 1 ∨ 64 < imgNsec s rxBase then bootFail eFORMAT s
      else if bytes < 256 + 48 * imgNsec s rxBase then s
      else match seedCheck s rxBase with
        | .bad e => bootFail e s
        | .good x => setBootSect 0 <| setBootState 2 (modBoot (fun b => { b with seed := some x, next := 0 }) s)
  let s2 := bootSects 65 bytes s1
  if done ∧ bootState s2 < 3 ∧ bootLocked s2 then bootFail eFORMAT s2 else s2

/-- Boot bytes are still awaited: LISTEN, RECEIVE, or sections after START. -/
def bootOpen (s : State) : Bool :=
  decide (bootState s = 1) || decide (bootState s = 2) ||
    (decide (bootState s = 3) && bootLocked s && !regB s pgBoot 0x011 39 &&
      (match s.boot.seed with
       | some x => decide (s.boot.next < x.sects.length)
       | none => false))

/-- A source comes before another in Table 16-1's order for the straps. -/
def srcBefore (sel a b : Nat) : Bool :=
  match findPos (· = a) (bootSources sel), findPos (· = b) (bootSources sel) with
  | some i, some j => decide (i < j)
  | _, _ => false

/-- GSTAT.STATE shows the load of an image that is being received: 1 while its sections are awaited, and 0 after (R385,
assumption 159). -/
def loadShown (s : State) : State :=
  if bootState s = 2 ∨ (bootState s = 3 ∧ bootOpen s) then setRegF pgBoot 0x014 0 3 1 s
  else if regF s pgBoot 0x014 0 3 = 1 then setRegF pgBoot 0x014 0 3 0 s
  else s

/-- A write of BOOT_RXLEN by a boot source (R367, R368); of sources that write in one tick the first in Table 16-1's order is
locked (assumption 127). -/
def rxlenTake (src : Nat) (v : Word) (s0 : State) : State :=
  let n := getF v 0 23
  let held := regF s0 pgBoot 0x010 3 2
  let s := if bootLocked s0 ∧ bootState s0 = 1 ∧ s0.boot.lockAt = s0.now ∧ srcBefore s0.boot.sel src held ∧ n ≠ 0 ∧
      ¬(src = 3 ∧ !chainReady s0) then
      setReg pgBoot 0x011 0 (bootLock none s0) else s0
  if bootState s = 0 ∨ !(bootSources s.boot.sel).contains src ∨ (src = 3 ∧ !chainReady s) then s
  else if bootLocked s ∧ regF s pgBoot 0x010 3 2 ≠ src ∧ bootOpen s then s
  else if !bootOpen s then setReg pgBoot 0x011 (v &&& wd 0x80007FFFFF) s
  else if !bootLocked s ∧ n = 0 then setReg pgBoot 0x011 (v &&& wd 0x80007FFFFF) s
  else
    let old := regF s pgBoot 0x011 0 23
    let s1 := if bootLocked s then s else modBoot (fun b => { b with lockAt := s.now }) (bootLock (some src) s)
    if bootLocked s ∧ n < old ∨ 5242880 < n then
      (if bootState s = 3 then setBootErr eFORMAT s1 else bootFail eFORMAT s1)
    else bootProgress n (bit v 39) (setReg pgBoot 0x011 (v &&& wd 0x80007FFFFF) s1)

/-- A write of BOOT_RXLEN, and what GSTAT shows of the load after it. -/
def rxlenWrite (src : Nat) (v : Word) (s : State) : State := loadShown (rxlenTake src v s)

/-- A write of a source that the boot discards (R368): to the receive area or the BOOT page, before LISTEN, or while boot bytes are
awaited by a source that is not the locked one. -/
def bootDiscards (s : State) (src pa : Nat) : Bool :=
  let area := (decide (rxBase ≤ pa) && decide (pa < 0x04400000)) ||
    (match regionOf pa with | .page pg _ => decide (pg = pgBoot) | _ => false)
  area && (decide (bootState s = 0) || (bootOpen s && bootLocked s && decide (regF s pgBoot 0x010 3 2 ≠ src)))

/-- The trim record cannot be used: it is unprogrammed, or its check word or its ECC is bad (R74). -/
def trimsBad (eccBad : Bool) (s : State) : Bool :=
  eccBad || (match s.otp.trim with
    | some x => decide (x.check ≠ Config.trimCheck x.vals)
    | none => true)

/-- The mirrors of the factory trims: the record's, or the neutral values where it cannot be used (R74); no table gives the mirrors
an offset (assumption 146). -/
def trimMirrors (eccBad : Bool) (s : State) : Tbl Int :=
  if trimsBad eccBad s then [] else
    match s.otp.trim with
    | some x => x.vals.foldl (fun m e => Tbl.set trimDflt m e.1 e.2) []
    | none => []

/-- The boot ROM is ready (R367, R368, R374): TRIM_BAD, HOST_APER for PCIe, the ROM in tine 0, LISTEN. -/
def bootReady (eccBad : Bool) (s : State) : State :=
  if inReset s || s.pwr.devStop || decide (bootState s ≠ 0) then s
  else
    let s0 := modBoot (fun b => { b with lc := (returnedFinish s).otp.lc }) (returnedFinish s)
    let s1 := { s0 with trims := trimMirrors eccBad s }
    let s2 := setRegB pgBoot 0x010 9 (trimsBad eccBad s) s1
    let s3 := if (bootSources s.boot.sel).contains 1 then setReg pgHost 0x01D (wd 0x04200000) s2 else s2
    let s4 := copyRange 0 (trayBase 0) 0x2000 s3
    let s5 := modTine 0 (fun x => { x with halt := .no, pc := 0 }) (setRegF (pgTine 0) oTST 28 7 3 s4)
    setBootState 1 (alive 0 s5)

/-! ## Grafts (R377–R383) -/

/-- GSTAT fields: STATE and RESULT. -/
def setGState (v : Nat) (s : State) : State := setRegF pgBoot 0x014 0 3 v s
def setGResult (v : Nat) (s : State) : State := setRegF pgBoot 0x014 3 8 v s

/-- A load or graft is in progress (R378). -/
def graftBusy (s : State) : Bool := s.boot.graft.isSome || decide (bootState s < 3) || bootOpen s

/-- RESULT of a GRAFT command (Table 16-7). -/
def graftResult (s : State) : Nat := regF s pgBoot 0x014 15 16 + 2 ^ 16 * regF s pgDev 0x049 0 16

/-- The graft's answer: RESULT of GSTAT, and the admin command that asked for it (Table 16-7). -/
def graftAnswer (g : Graft) (status : Nat) (s : State) : State :=
  let s1 := setGResult status s
  if g.admin then adminEnd g.entry 0x19 status (graftResult s1) s1 else s1

/-- A graft's registry of tines with staged code clears. -/
def unstage (g : Graft) (s : State) : State :=
  forAll g.coded (fun l x => match physOf x l with
    | some t => setRegB (pgTine t) 0x047 1 false x
    | none => x) s

/-- A graft fails (R379). -/
def graftFail (g : Graft) (status : Nat) (s : State) : State :=
  graftAnswer g status (setGState 5 (unstage g (modBoot (fun b => { b with graft := none }) s)))

/-- The status of an error of a section (Table 16-8). -/
def seedStatus (e : Nat) : Nat :=
  match e with
  | 1 => 0x42 | 2 => 0x40 | 3 => 0x41 | 4 => 0x40 | 5 => 0x43 | 6 => 0x44 | _ => 0x46

/-- The domain a REGS address targets. -/
def regDom (s : State) (a : Nat) : Option Nat :=
  match regTarget s a with
  | some (pg, off) =>
    match pageKind pg with
    | some (k, i) => pageDom k i off
    | none => none
  | none => none

/-- Domains that a record targets. -/
def recDoms (s : State) (r : Rec) : List Nat :=
  match r with
  | .code l _ _ | .data l _ _ => (match physOf s l with | some t => [t / 9] | none => [])
  | .words pa ws => (List.range ws.length).map fun i => shedDom (pa + i)
  | .regs ps => ps.filterMap fun p => regDom s p.1
  | .redirect _ => [domTrel]

/-- The value in force of a register that a rootstock graft names. -/
def regInForce (s : State) (a : Nat) : Word :=
  match regTarget s a with
  | some (pg, off) => (regRead .graft pg off s).1
  | none => 0

/-- Stage one record (R379, R382): the graft, or the status that ends it. -/
def stageRec (g : Graft) (r : Rec) (s : State) : Nat × Graft × State :=
  let g0 := { g with doms := (recDoms s r).foldl insSorted g.doms }
  match r with
  | .code l off ws =>
    match applyCode l off ws s with
    | (some t, s1) => (0, { g0 with coded := insSorted g0.coded l }, setRegB (pgTine t) 0x047 1 true s1)
    | (none, s1) => (0, g0, s1)
  | .data l off ws => (0, g0, applyData l off ws s)
  | .words pa ws => (0, g0, applyShed pa ws s)
  | .regs ps =>
    if g.root ∧ ps.any (fun p => !regScion p.1 && decide (regInForce s p.1 ≠ p.2)) then (0x47, g0, s)
    else (0, { g0 with shadows := g0.shadows ++ (if g.root then ps.filter (fun p => regScion p.1) else ps) }, s)
  | .redirect cs => (0, { g0 with marks := cs.foldl insSorted g0.marks }, s)

/-- Stage the records of a section in order, checked as a rootstock's or a scion's; `form` as in `applySect`. -/
def stageSect (fuel : Nat) (form asRoot : Bool) (img : Option (Nat × Nat)) (ws : List Word) (g : Graft) (s : State) :
    Nat × Graft × State :=
  match fuel with
  | 0 => (0x42, g, s)
  | n + 1 =>
    match recNext form ws with
    | .done => (0, g, s)
    | .bad => (0x42, g, s)
    | .one r rest =>
      let e := recCheck asRoot img r
      if e ≠ 0 then (seedStatus e, g, s)
      else match stageRec g r s with
        | (0, g1, s1) => stageSect n form asRoot img rest g1 s1
        | x => x

/-- Stage the ROOT sections of a held rootstock. -/
def stageRoots (x : Seed) (l : List Sect) (g : Graft) (s : State) : Nat × Graft × State :=
  match l with
  | [] => (0, g, s)
  | y :: rest =>
    if !sectOk s x.base y then (0x43, g, s)
    else match stageSect (y.len + 1) true true (some (imgRange x)) (sectWords s x.base y) g s with
      | (0, g1, s1) => stageRoots x rest g1 s1
      | r => r

/-- Stage a held scion, as a scion or as a rootstock's last records. -/
def stageScion (asRoot : Bool) (sc : Scion) (g : Graft) (s : State) : Nat × Graft × State :=
  if sha256 (scionBytes s sc) ≠ sc.digest then (0x43, g, s)
  else stageSect (sc.len + 1) false asRoot none (scionWords s sc) g s

/-- Stage a graft's records. -/
def stageAll (scion : Nat) (g : Graft) (s : State) : Nat × Graft × State :=
  if g.root then
    match s.boot.root with
    | none => (0x4A, g, s)
    | some x =>
      match stageRoots x (x.sects.filter fun y => decide (y.typ = 1)) g s with
      | (0, g1, s1) =>
        match scionAt s1 x.init with
        | some sc => if x.init < 32 then stageScion true sc g1 s1 else (0, g1, s1)
        | none => (0, g1, s1)
      | r => r
  else match scionAt s scion with
    | none => (0x4A, g, s)
    | some sc => stageScion false sc g s

/-- A graft is requested (R378, R379). -/
def graftRequest (root : Bool) (scion block tries : Nat) (admin : Bool) (s : State) : State :=
  if graftBusy s then
    let s1 := setGResult 0x48 s
    if admin then adminDone 0x19 0x48 (graftResult s1) [] s1 else s1
  else
    let (entry, sb) := if admin then adminBegin 0x19 s else (none, s)
    let g : Graft := { root := root, block := block, tries := max 1 tries, admin := admin, entry := entry, shadows := []
                       coded := [], marks := [], doms := [] }
    let s0 := setReg pgBoot 0x014 2 sb
    match stageAll scion g s0 with
    | (0, g1, s1) => setGState 3 (modBoot (fun b => { b with graft := some g1 }) s1)
    | (e, g1, s1) => graftFail g1 e s1

/-- Logical tines that a graft names: staged CODE or TINE-page shadows (R379). -/
def graftTines (g : Graft) : List Nat :=
  (g.shadows.filterMap fun p => match regAt p.1 with
    | some (pg, _) => if 0x100 ≤ pg ∧ pg < 0x180 then some (pg - 0x100) else none
    | none => none).foldl insSorted g.coded

/-- A grafted tine may be switched (R380); one that no image has named yet sleeps in the same sense. -/
def graftReady (s : State) (l : Nat) : Bool :=
  match physOf s l with
  | some t =>
    let x := tineAt s t
    !x.retired && (decide (x.halt = .unnamed) ||
      (asleep s t && decide (x.entry = none) && decide (tLvl s t = 0) && regB s (pgTine t) oSSTAT 4))
  | none => false

/-- A grafted tine starts on its new bank (R381, R382). -/
def graftTine (g : Graft) (l : Nat) (s : State) : State :=
  if g.root && !g.coded.contains l then s
  else match physOf s l with
    | some t =>
      let s1 := setReg (pgTine t) 0x047 (wd (1 - activeBank s t)) s
      alive t (modTine t (fun x => { x with
        halt := if x.halt = .unnamed then .no else x.halt, pc := 0, flight := none, window := [], fault := none, entry := none
        halfdone := false }) (setReg (pgTine t) oLSTAT 0 s1))
    | none => s

/-- A marked channel continues at its TRCH_START (R381). -/
def graftChan (c : Nat) (s : State) : State :=
  if chState s c = 0 ∨ chRing s c then s
  else
    let start := chF s c 4 0 32
    let s1 := setChF c 1 6 3 0 s
    let there (s : State) : State :=
      setCpc c start (modChan c (fun x => { x with phase := .next, tries := 0, retry := false }) s)
    match (chanAt s c).phase with
    | .next => there s1
    | .got _ _ => there s1
    | .wait _ _ _ _ _ =>
      if chState s c = 2 then setChF c 1 30 4 0 (setChState c 1 (there s1))
      else setChF c 1 30 4 0 (modChan c (fun x => { x with prev := 1 }) (there s1))
    | _ => modChan c (fun x => { x with nextPc := start }) s1

/-- The switch (R381): shadows in record order, tines, channels, then held events; after a rootstock's its SVN is that of the image
that runs (R424). -/
def graftSwitch (g : Graft) (s : State) : State :=
  let ts := graftTines g
  let s1 := forAll g.shadows (fun p x => applyReg p.1 p.2 x) s
  let s2 := forAll g.marks graftChan (forAll ts (graftTine g) s1)
  let s3 := forAll ts (fun l x => match physOf x l with | some t => sieveUpdate t x | none => x) s2
  let s4 := modBoot (fun b => { b with
    graft := none, root := if g.root then none else b.root
    svn := if g.root then (b.root.map (·.svn)).getD b.svn else b.svn }) s3
  graftAnswer g 0 (setGState 4 (bumpF pgBoot 0x015 0 16 1 s4))

/-- The attempt at a block boundary (R380). -/
def graftBoundary (s : State) : State :=
  match s.boot.graft with
  | none => s
  | some g =>
    let used := regF s pgBoot 0x014 11 4
    if used = 0 ∧ g.block ≠ 0 ∧ regF s pgDev 0x049 0 24 ≠ g.block then s
    else
      let s1 := setRegF pgBoot 0x014 11 4 (used + 1) s
      if (graftTines g).all (graftReady s) then graftSwitch g s1
      else
        let s2 := bumpF pgBoot 0x015 16 16 1 s1
        if g.tries ≤ used + 1 then graftFail g 0x49 s2 else s2

/-! ## SEED_LOAD (R383) -/

/-- Every section's digest passes. -/
def allSectsOk (s : State) (x : Seed) : Bool := x.sects.all (sectOk s x.base)

/-- Copy the scions of a checked image: the first error. -/
def loadScions (x : Seed) (l : List Sect) (s : State) : Nat × State :=
  match l with
  | [] => (0, s)
  | y :: rest =>
    match storeScion x y s with
    | (0, s1) => loadScions x rest s1
    | r => r

/-- Process an image in Shed: a status, and the state. -/
def seedLoad (addr len : Nat) (s : State) : Nat × State :=
  if addr < 0x04000000 ∨ 0x04400000 < addr + (len + 4) / 5 ∨ len < 256 then (0x42, s)
  else if imgNsec s addr < 1 ∨ 64 < imgNsec s addr ∨ len < 256 + 48 * imgNsec s addr then (0x42, s)
  else match seedCheck s addr with
    | .bad e => (seedStatus e, s)
    | .good x =>
      if x.total ≠ len then (0x42, s)
      else if !allSectsOk s x then (0x43, s)
      else match loadScions x (x.sects.filter fun y => decide (y.typ = 2)) s with
        | (0, s1) =>
          let roots := x.sects.any fun y => decide (y.typ = 1)
          (0, if roots then modBoot (fun b => { b with root := some x }) s1 else s1)
        | (e, s1) => (seedStatus e, s1)

/-! ## The BOOT page (R378, R385) -/

/-- A write of BOOT_GRAFT; GO requests a graft. -/
def bootGraftWrite (v : Word) (s : State) : State :=
  let s1 := setReg pgBoot 0x013 (v &&& wd 0x3FFFFFFFF) s
  if bit v 39 then graftRequest (bit v 5) (getF v 0 5) (getF v 6 24) (getF v 30 4) false s1 else s1

/-- A write to a register by a requester that may reach it. -/
def regWrite (w : Who) (pg off : Nat) (v : Word) (s : State) : State :=
  if pg = pgBoot ∧ off = 0x013 ∧ w ≠ .graft then bootGraftWrite v s else regWriteBase w pg off v s

/-! ## Commands -/

/-- BOOT_ROM_READY (R374); `trimBad`: the ECC of the trim record fails (R74). -/
def execBootRomReady (trimBad : Bool) (s : State) : Res := .next (bootReady trimBad s)

/-- BOOT_RXLEN_WRITE (R367, R368) by a boot source: 0 quad-SPI, 1 PCIe, 2 Ethernet, 3 chain UP. -/
def execBootRxlenWrite (src : Fin 4) (v : Word) (s : State) : Res :=
  .next (rxlenWrite src.val v s)

/-- SEED_LOAD (R383): its image's Shed word address and byte length; BOOT_GSTAT shows the load as it shows a graft
(assumption 86). -/
def execSeedLoad (addr len : BitVec 32) (s : State) : Res :=
  .next (
    if inReset s then s
    else if graftBusy s then adminDone 0x18 0x48 (reg s pgBoot 0x012).toNat [] s
    else
      let (st, s1) := seedLoad addr.toNat len.toNat (setReg pgBoot 0x014 1 s)
      let s2 := setGState (if st = 0 then 4 else 5) (setGResult st s1)
      adminDone 0x18 st (reg s2 pgBoot 0x012).toNat [] (if st = 0x44 then setBootErr eTARGET s2 else s2))

/-- GRAFT (R378): SCION, TRIES and BLOCK of the admin command. -/
def execGraft (scion tries : BitVec 8) (block : BitVec 24) (s : State) : Res :=
  .next (
    if inReset s then s
    else if (31 < scion.toNat ∧ scion.toNat ≠ 0xFF) ∨ tries.toNat < 1 ∨ 15 < tries.toNat then adminDone 0x19 0x0002 0 [] s
    else graftRequest (decide (scion.toNat = 0xFF)) scion.toNat block.toNat tries.toNat true s)

/-- BOOT_GRAFT_GO (R378): a write of BOOT_GRAFT with GO. -/
def execBootGraftGo (w : Who) (v : Word) (s : State) : Res :=
  .next (gated w pgBoot 0x013 (regWrite w pgBoot 0x013 (setB v 39 true)) s)

end Sys2Proof.Machine
end

