-- ==== Sys2Proof/Machine/Phys.lean ====
section
/-! DEFINITION. The physical word space as every requester reaches it: reads and writes of memory, registers and chain
windows by tines and channels, by the host and the probe, and by other devices (R23, R26, R27, R181–R191, R360, R390, R432). -/

namespace Sys2Proof.Machine

/-- An access that was in flight when its domain began to stop, and drains (R390). -/
def inFlight (s : State) (w : Who) (pa : Nat) : Bool :=
  match w with
  | .tine t => s.pwr.flying.any fun e => decide (e.1 = t.val) && decide ((tineAt s t).flight = some e.2)
  | .channel c => s.pwr.flyingW.any fun e => decide (e = (c.val, pa))
  | _ => false

/-- An access waits: its domain is stopping (R390). -/
def paHeld (s : State) (w : Who) (pa : Nat) : Bool :=
  match paDom pa with
  | some d => domHeld s d && !(decide (domSt s d = .stopping) && inFlight s w pa)
  | none => false

/-- The domain of an address is out of reach. -/
def paDormant (s : State) (pa : Nat) : Bool :=
  match paDom pa with
  | some d => domAsleep s d
  | none => false

/-! ## Reads -/

/-- How a word answers a read that has passed its checks. -/
inductive PRead where
  | word (w : Word)
  | ue
  | bus
  /-- it waits (R390, R360) -/
  | hold
  | dormant
  /-- a chain read that ended as an error (R360) -/
  | lost
  deriving DecidableEq, Repr

/-- Read one word for a requester whose access has passed its checks; `up` is what the stored word meets. -/
def physRead (w : Who) (pa0 : Nat) (up : Upset) (s : State) : PRead × State :=
  let pa := ownPa s pa0
  if paHeld s w pa then (.hold, s)
  else if paDormant s pa then (.dormant, s)
  else
    match regionOf pa with
    | .rom => (.word (memGet s pa), s)
    | .page pg off =>
      let (v, s1) := regRead w pg off s
      (.word v, s1)
    | .window _ _ =>
      match chainAnswer s (whoSrc w) pa with
      | none => (.hold, s)
      | some none => (.lost, chainTake (whoSrc w) pa s)
      | some (some v) => (.word v, chainTake (whoSrc w) pa s)
    | .hole => (.lost, s)
    | _ =>
      match memRead pa up (whoSrc w) s with
      | (.word v, s1) => (.word v, s1)
      | (.ue, s1) => (.ue, s1)
      | (.bus, s1) => (.bus, s1)

/-- A read of a word would wait now. -/
def physWaits (s : State) (w : Who) (pa0 : Nat) : Bool :=
  let pa := ownPa s pa0
  paHeld s w pa ||
    (match regionOf pa with
     | .window _ _ => !paDormant s pa && (chainAnswer s (whoSrc w) pa).isNone
     | _ => false)

/-- A read through the window of another device sends its READ cell (R360). -/
def physAsk (w : Who) (pa0 : Nat) (s : State) : State :=
  match regionOf (ownPa s pa0) with
  | .window c n => chainReadReq (whoSrc w) c n (ownPa s pa0) s
  | _ => s

/-- A requester drops the chain reads it no longer waits for. -/
def physForget (w : Who) (s : State) : State :=
  { s with
    chainTags := s.chainTags.filter fun e => decide (e.2.1 ≠ whoSrc w)
    chainBack := s.chainBack.filter fun e => decide (e.1 ≠ whoSrc w) }

/-! ## Writes -/

/-- What becomes of a write that has passed its checks. -/
inductive PWrite where
  | done
  /-- an uncorrectable merge or a bus error: not performed -/
  | error
  | hold
  /-- a local write to a full mailbox (R23) -/
  | withheld (u : MUnit) (item : Word)
  | dormant
  deriving DecidableEq, Repr

/-- Store into memory words that are readable (R35, R184). -/
def memStore (pa : Nat) (d : StoreData) (s : State) : State :=
  match d with
  | .half hi v => memPut pa (mergeHalf (memGet s pa) hi v) s
  | _ => forAll (dataWords d) (fun e x => memPut (pa + e.1) e.2 x) s

/-- A write covers a whole DRAM half-trug (R189). -/
def wholeHalf (pa : Nat) (d : StoreData) : Bool :=
  match d with
  | .run ws => decide (memCode pa = 4) && decide (eccAddr pa = pa) && decide (ws.length = 6)
  | _ => false

/-- A write must read its word or half-trug first (R189, R190). -/
def needsMerge (pa : Nat) (d : StoreData) : Bool :=
  decide (memCode pa = 4) || (match d with | .half _ _ => true | _ => false)

/-- Write into a tray, Shed or DRAM; a whole half-trug is replaced without a read and clears its error (R189, R191). -/
def memWrite (src pa : Nat) (d : StoreData) (up : Upset) (s : State) : PWrite × State :=
  if up = .bus then (.error, s)
  else if wholeHalf pa d then (.done, ueClear pa (memStore pa d s))
  else if needsMerge pa d then
    match memRead pa up src s with
    | (.word _, s1) => (.done, memStore pa d s1)
    | (_, s1) => (.error, s1)
  else (.done, memStore pa d s)

/-- The mailbox that a physical word address puts into. -/
def putMbox (pa : Nat) : Option MUnit :=
  match regionOf pa with
  | .page pg off =>
    match pageKind pg with
    | some (k, i) =>
      match mboxAt k i off with
      | some (u, 1) => some u
      | _ => none
    | none => none
  | _ => none

/-- The item of a write, if it is a local write to a full mailbox (R23). -/
def withholds (s : State) (w : Who) (pa : Nat) (d : StoreData) : Option (MUnit × Word) :=
  if !whoLocal w then none
  else
    (dataWords d).findSome? fun e =>
      match putMbox (pa + e.1) with
      | some u =>
        if (mboxItems s u).length < 8 || decide (getF e.2 32 4 = 15) || (decide (u = .chain) && !chainFaceOn s) then none
        else some (u, e.2)
      | none => none

/-- The words a chain WRITE carries; a half-word's other half is free (assumption 3, R360). -/
def chainWords (d : StoreData) (s : State) : List Word × State :=
  match d with
  | .half hi v =>
    let (f, s1) := drawWord s
    ([mergeHalf f hi v], s1)
  | _ => ((dataWords d).map (·.2), s)

/-- Write for a requester whose access has passed its checks; `cls` 1 for an urgent channel (R357). -/
def physWrite (w : Who) (cls pa0 : Nat) (d : StoreData) (up : Upset) (s : State) : PWrite × State :=
  let pa := ownPa s pa0
  if paHeld s w pa then (.hold, s)
  else if paDormant s pa then (.dormant, s)
  else
    match withholds s w pa d with
    | some (u, item) => (.withheld u item, s)
    | none =>
      match regionOf pa with
      | .page pg off => (.done, forAll (dataWords d) (fun e x => regWrite w pg (off + e.1) e.2 x) s)
      | .window c n =>
        let (ws, s1) := chainWords d s
        (.done, chainWriteReq cls c n ws s1)
      | .rom | .hole => (.error, s)
      | _ => memWrite (whoSrc w) pa d up s

/-! ## The host, the probe and other devices (R181–R183, R360, R429, R432) -/

/-- What stands between an outside requester and a physical word. -/
inductive HGate where
  | ok
  /-- a hole, a reserved or a Walled-owned word: reads 0, writes discarded -/
  | hole
  | dormant
  | hold
  | fenced
  | active
  deriving DecidableEq, Repr

/-- A debugger may write the active bank of a halted tine (R181). -/
def bankOpen (s : State) (w : Who) (t : Nat) : Bool :=
  decide (w = .probe) && decide ((tineAt s t).halt ≠ .no)

/-- The checks of an outside access. What another device cannot do is found there: the write counts in its WERR and the read
is answered with ERR (R360). -/
def outGate (s : State) (w : Who) (store : Bool) (pa : Nat) : HGate :=
  let fence := whoFenced s w pa || ((decide (w = .host) || decide (w = .probe)) && reservedPa pa)
  if inReset s then .hole
  else match regionOf pa with
  | .hole => .hole
  | .rom => if store then .hole else if fence then .fenced else .ok
  | .page pg off =>
    match regGate s w pg off with
    | .ok => .ok
    | .dormant => .dormant
    | .held => .hold
    | .fenced => .fenced
    | .hole | .world => .hole
  | .window c _ =>
    if paDormant s pa then .dormant else if paHeld s w pa then .hold
    else if !windowOpen s c then .hole else if fence then .fenced else .ok
  | .dram line slot =>
    if 12 ≤ slot ∨ dramLines s ≤ line then .hole
    else if paDormant s pa then .dormant else if paHeld s w pa then .hold else if fence then .fenced else .ok
  | .itray t o =>
    if paDormant s pa then .dormant else if paHeld s w pa then .hold else if fence then .fenced
    else if store && decide (o / 0x2000 = activeBank s t) && !bankOpen s w t then .active else .ok
  | .dtray _ _ | .shed _ =>
    if fence then .fenced
    else if reservedPa pa then .hole
    else if paDormant s pa then .dormant else if paHeld s w pa then .hold else .ok

/-- A fenced access counts (R432). -/
def fenceCount (s : State) : State := bumpF pgSec 0x016 12 12 1 s

/-- How an outside read ends. -/
inductive HRead where
  | word (w : Word)
  /-- 0 with an error (R190) -/
  | ue
  /-- it waits -/
  | hold
  | dormant
  deriving DecidableEq, Repr

/-- An outside read of one word: what cannot be read reads 0 (R26, R182, R183, R190, R360). -/
def outRead (w : Who) (pa0 : Nat) (up : Upset) (s : State) : HRead × State :=
  let pa := ownPa s pa0
  match outGate s w false pa with
  | .hole | .active => (.word 0, s)
  | .dormant => (.dormant, s)
  | .hold => (.hold, s)
  | .fenced => (.word 0, fenceCount s)
  | .ok =>
    match physRead w pa up s with
    | (.word v, s1) => (.word v, s1)
    | (.ue, s1) => (.ue, s1)
    | (.bus, s1) => (.ue, s1)
    | (.hold, s1) => (.hold, s1)
    | (.dormant, s1) => (.dormant, s1)
    | (.lost, s1) => (.word 0, s1)

/-- How an outside write ends. -/
inductive HWrite where
  | done
  /-- it could not be performed and is discarded -/
  | discarded
  | hold
  | dormant
  deriving DecidableEq, Repr

/-- An outside write of one word. -/
def outWrite (w : Who) (pa0 : Nat) (v : Word) (up : Upset) (s : State) : HWrite × State :=
  let pa := ownPa s pa0
  match outGate s w true pa with
  | .hole | .active => (.discarded, s)
  | .dormant => (.dormant, s)
  | .hold => (.hold, s)
  | .fenced => (.discarded, fenceCount s)
  | .ok =>
    match physWrite w 0 pa (.word v) up s with
    | (.done, s1) => (.done, s1)
    | (.error, s1) => (.discarded, s1)
    | (.hold, s1) => (.hold, s1)
    | (.withheld _ _, s1) => (.discarded, s1)
    | (.dormant, s1) => (.dormant, s1)

end Sys2Proof.Machine
end

