-- ==== Sys2Proof/Machine/Operands.lean ====
section
/-! DEFINITION. Every operand form of the tine instructions: which registers and immediates a form names, its length in
half-words, and the operand values its encoding excludes (R89–R98). -/

namespace Sys2Proof.Machine

/-- A sign-extended immediate. -/
def imm10 (v : BitVec 10) : Word := v.signExtend 40
def imm22 (v : BitVec 22) : Word := v.signExtend 40
def zimm22 (v : BitVec 22) : Word := v.zeroExtend 40

/-- Destination, length and the two operand values of a two-register form. -/
def rrGd (f : RR) : Gr := match f with | .c gd _ => gd | .f gd _ _ => gd
def rrLen (f : RR) : Nat := match f with | .c _ _ => 1 | .f _ _ _ => 2
def rrA (s : State) (t : Nat) (f : RR) : Word := match f with | .c gd _ => getG s t gd | .f _ ga _ => getG s t ga
def rrB (s : State) (t : Nat) (f : RR) : Word := match f with | .c _ gs => getG s t gs | .f _ _ gb => getG s t gb

/-- A register-immediate form with a sign-extended immediate. -/
def riGd (f : RI) : Gr := match f with | .c gd _ => gd | .f gd _ _ => gd
def riLen (f : RI) : Nat := match f with | .c _ _ => 1 | .f _ _ _ => 2
def riA (s : State) (t : Nat) (f : RI) : Word := match f with | .c gd _ => getG s t gd | .f _ ga _ => getG s t ga
def riImm (f : RI) : Word := match f with | .c _ i => imm10 i | .f _ _ i => imm22 i

/-- Compare forms. -/
def crLen (f : CR) : Nat := match f with | .c _ _ => 1 | .f _ _ => 2
def crA (s : State) (t : Nat) (f : CR) : Word := match f with | .c a _ => getG s t a | .f a _ => getG s t a
def crB (s : State) (t : Nat) (f : CR) : Word := match f with | .c _ b => getG s t b | .f _ b => getG s t b
def ciLen (f : CI) : Nat := match f with | .c _ _ => 1 | .f _ _ => 2
def ciA (s : State) (t : Nat) (f : CI) : Word := match f with | .c a _ => getG s t a | .f a _ => getG s t a
def ciImm (f : CI) : Word := match f with | .c _ i => imm10 i | .f _ i => imm22 i

/-- One-source forms. -/
def unGd (f : Un) : Gr := match f with | .c gd _ => gd | .f gd _ => gd
def unLen (f : Un) : Nat := match f with | .c _ _ => 1 | .f _ _ => 2
def unA (s : State) (t : Nat) (f : Un) : Word := match f with | .c _ gs => getG s t gs | .f _ ga => getG s t ga

/-- The shift amount of SHL and SHR. -/
def shAmt (s : State) (t : Nat) (k : ShAmt) : Nat :=
  match k with
  | .reg gb => getF (getG s t gb) 0 6
  | .imm v => v.toNat

/-- ASH: destination, source, amount, length; none for an excluded immediate (R55, Table 4-4). -/
def ashForm (s : State) (t : Nat) (f : AshForm) : Option (Gr × Word × Int × Nat) :=
  match f with
  | .reg gd ga gb => some (gd, getG s t ga, ((getG s t gb).extractLsb' 0 7).toInt, 2)
  | .ci gd k => if -64 ≤ k.toInt ∧ k.toInt ≤ 63 then some (gd, getG s t gd, k.toInt, 1) else none
  | .fi gd ga k => some (gd, getG s t ga, k.toInt, 2)

/-- Accumulator forms. -/
def accAn (f : AccForm) : Ar := match f with | .c a => a | .f a => a
def accLen (f : AccForm) : Nat := match f with | .c _ => 1 | .f _ => 2

/-- Hopper forms: the hopper number and length. -/
def hopNo (s : State) (t : Nat) (f : HopForm) : Nat :=
  match f with | .c _ h => h.val | .f _ ga => getF (getG s t ga) 0 8
def hopG (f : HopForm) : Gr := match f with | .c g _ => g | .f g _ => g
def hopLen (f : HopForm) : Nat := match f with | .c _ _ => 1 | .f _ _ => 2

/-- Gb of the IDX mode (R91). -/
def lsGb (l : LS) : Gr := Fin.ofNat 32 (l.off.toNat / 2 ^ 11)

/-- The LS format is legal: mode 0–5, unused fields zero (R89, R93). -/
def lsOk (l : LS) : Bool :=
  match l.mode.toNat with
  | 0 | 1 | 5 => decide (l.modr.val = 0)
  | 2 | 3 => true
  | 4 => decide (l.modr.val = 0) && decide (l.off.toNat % 2 ^ 11 = 0)
  | _ => false

/-- Effective address and Ga's update of an LS access (R93–R95). Mk is read with the other operands, when the access is
executed (assumption 111); off16 is two's complement, as the other offsets are (assumption 136). -/
def lsEa (s : State) (t : Nat) (l : LS) : Word × Option (Gr × Word) :=
  let a := getG s t l.ga
  let off := l.off.toInt
  let m := reg s (pgTine t) (oM l.modr.val)
  match l.mode.toNat with
  | 0 => (a + wi off, none)
  | 1 => (a, some (l.ga, a + wi off))
  | 2 => (a, some (l.ga, circStep a off m))
  | 3 => (a, some (l.ga, brStep a off m))
  | 4 => (a + getG s t (lsGb l), none)
  | _ => (a + wi off, some (l.ga, a + wi off))

/-- LD and ST forms: Gt, the effective address, Ga's update, length, legality. -/
def ldstGt (f : LdSt) : Gr := match f with | .c gt _ => gt | .f l => l.gt
def ldstLen (f : LdSt) : Nat := match f with | .c _ _ => 1 | .f _ => 2
def ldstEa (s : State) (t : Nat) (f : LdSt) : Word × Option (Gr × Word) :=
  match f with | .c _ ga => (getG s t ga, none) | .f l => lsEa s t l
def ldstOk (f : LdSt) : Bool := match f with | .c _ _ => true | .f l => lsOk l

end Sys2Proof.Machine
end

