-- ==== Sys2Proof/Machine/TineDecode.lean ====
section
/-! DEFINITION. Which fetch words a tine takes as instructions (R87–R91, R98): the legality of a half, and the instructions
a REP may not repeat (R102). The commands of this model carry their operands themselves; this file decides only what the
device decides by looking at a fetch word. -/

namespace Sys2Proof.Machine

/-- A field of an instruction is zero. -/
def zf (w : Nat) (lo len : Nat) : Bool := decide (w / 2 ^ lo % 2 ^ len = 0)

/-- A field's value. -/
def nf (w : Nat) (lo len : Nat) : Nat := w / 2 ^ lo % 2 ^ len

/-- A compact half is a legal instruction (Table 4-4, R89). -/
def compactLegal (h : Nat) : Bool :=
  match nf h 15 5 with
  | 0x00 =>
    match nf h 10 5 with
    | 0 | 1 | 2 | 3 | 6 | 10 => zf h 0 10
    | 4 => zf h 6 4
    | 5 => zf h 8 2
    | 7 | 8 | 9 => zf h 2 8
    | _ => false
  | 0x01 | 0x02 | 0x03 | 0x04 | 0x05 | 0x06 | 0x07 | 0x0C | 0x0D => zf h 0 5
  | 0x08 | 0x09 | 0x0A | 0x0F => true
  | 0x0B => decide (nf h 0 10 < 64) || decide (960 ≤ nf h 0 10)
  | 0x0E => zf h 3 1
  | 0x10 => decide (nf h 11 4 ≠ 15)
  | 0x11 => zf h 10 5 && decide (nf h 0 5 ≤ 1)
  | 0x12 => !zf h 13 2
  | 0x13 => zf h 12 2 && (zf h 14 1 || decide (nf h 0 12 < 64))
  | 0x14 => decide (nf h 0 5 ≤ 4)
  | 0x15 | 0x16 => zf h 8 2
  | _ => false

/-- A mode of the LS format with its unused fields zero (R89, R93). -/
def lsLegal (w : Nat) : Bool :=
  match nf w 19 3 with
  | 0 | 1 | 5 => zf w 16 3
  | 2 | 3 => true
  | 4 => zf w 16 3 && zf w 0 11
  | _ => false

/-- LDD and STD: Gt even; LDD with a base register in the pair is illegal (R98, R124). -/
def dwordLegal (w : Nat) (load : Bool) : Bool :=
  let gt := nf w 27 5
  decide (gt % 2 = 0) && lsLegal w &&
    (!load || (decide (nf w 22 5 / 2 ≠ gt / 2) && (decide (nf w 19 3 ≠ 4) || decide (nf w 11 5 / 2 ≠ gt / 2))))

/-- An absent lane or pair has zero operands (R89). -/
def mdLegal (w : Nat) : Bool :=
  let l0 := zf w 28 2
  let l1 := zf w 14 2
  zf w 0 2 && (!l0 || (zf w 26 2 && zf w 21 5 && zf w 16 5)) && (!l1 || (zf w 12 2 && zf w 7 5 && zf w 2 5)) &&
    (!(l0 && l1) || zf w 30 2)

def mqLegal (w : Nat) : Bool :=
  let p0 := zf w 28 2
  let p1 := zf w 24 2
  zf w 0 2 && (!p0 || (zf w 26 2 && zf w 17 5 && zf w 12 5)) && (!p1 || (zf w 22 2 && zf w 7 5 && zf w 2 5)) &&
    (!(p0 && p1) || zf w 30 2)

/-- A full instruction is legal (Tables 4-5 and 4-9 to 4-12, R89). -/
def fullLegal (w : Nat) : Bool :=
  match nf w 32 6 with
  | 0x00 =>
    zf w 8 9 &&
      (match nf w 0 8 with
      | 0x01 | 0x02 | 0x03 | 0x04 | 0x05 | 0x06 | 0x07 | 0x08 | 0x09 | 0x0A | 0x0B | 0x0C | 0x0D | 0x0E => true
      | 0x0F => zf w 27 5
      | 0x10 | 0x11 | 0x12 | 0x13 | 0x14 | 0x15 | 0x18 | 0x19 | 0x1A | 0x1B => zf w 17 5
      | _ => false)
  | 0x01 | 0x05 | 0x06 | 0x07 => true
  | 0x02 | 0x03 => zf w 22 5
  | 0x04 => zf w 27 5
  | 0x08 => decide (nf w 6 16 = 0) || decide (nf w 6 16 = 0xFFFF)
  | 0x09 | 0x0A => zf w 6 16
  | 0x0C | 0x0D => zf w 0 17
  | 0x0E | 0x0F => zf w 0 16 && decide (1 ≤ nf w 16 6) && decide (nf w 16 6 ≤ 40)
  | 0x10 | 0x11 | 0x12 | 0x13 | 0x16 => lsLegal w
  | 0x14 => dwordLegal w true
  | 0x15 => dwordLegal w false
  | 0x17 | 0x18 => zf w 29 3 && lsLegal w
  | 0x19 | 0x1A => zf w 0 22
  | 0x20 => decide (nf w 28 4 ≠ 15) && zf w 23 5 && zf w 14 9
  | 0x21 => zf w 28 4 && zf w 14 9
  | 0x22 => zf w 13 3 && decide (2 ≤ nf w 0 13)
  | 0x23 => zf w 13 14 && decide (2 ≤ nf w 0 13)
  | 0x24 => zf w 0 26
  | 0x28 | 0x29 => zf w 10 17
  | 0x30 => mdLegal w
  | 0x31 => mqLegal w
  | 0x32 =>
    zf w 0 14 &&
      (match nf w 14 2 with
      | 0 | 1 => decide (nf w 16 3 ≠ 7)
      | 2 => zf w 16 9 && decide (nf w 27 5 % 2 = 0)
      | _ => false)
  | 0x33 =>
    zf w 8 7 &&
      (match nf w 0 8 with
      | 0x01 | 0x05 | 0x06 => zf w 27 5 && zf w 23 2 && zf w 15 8
      | 0x02 => zf w 23 2 && decide (nf w 15 8 ≤ 56)
      | 0x03 | 0x04 => zf w 27 5 && zf w 15 8
      | 0x07 => zf w 27 5 && zf w 23 2 && (decide (nf w 15 8 ≤ 95) || decide (160 ≤ nf w 15 8))
      | 0x08 => zf w 23 2 && zf w 15 8
      | _ => false)
  | 0x34 => zf w 0 10 && !zf w 28 2 && decide (nf w 21 5 ≠ nf w 13 5)
  | _ => false

/-- A fetch word is one full instruction (R87). -/
def isFull (w : Word) : Bool := decide (getF w 38 2 = 3)

/-- A half of a fetch word holds a legal instruction (R87). -/
def halfLegal (w : Word) (hi : Bool) : Bool :=
  if isFull w then !hi && fullLegal w.toNat
  else compactLegal (if hi then getF w 20 20 else getF w 0 20)

/-- The instruction at a half may not follow a REP (R102). -/
def repForbidden (w : Word) (hi : Bool) : Bool :=
  if isFull w then
    !hi && [0x20, 0x21, 0x22, 0x23, 0x24, 0x29].contains (nf w.toNat 32 6)
  else
    let h := if hi then getF w 20 20 else getF w 0 20
    match nf h 15 5 with
    | 0x00 => [1, 3, 4, 5, 6, 10].contains (nf h 10 5)
    | 0x0F | 0x10 | 0x11 | 0x13 => true
    | _ => false

end Sys2Proof.Machine
end

