-- ==== Sys2Proof/Machine/TineControl.lean ====
section
/-! DEFINITION. Control flow, repeats and loops, the cloche, WAIT, SYSC, RETX, BKPT, MFC and MTC (Table 4-12), fault and
handler entries, and the sieve's commands (R101–R108, R145–R173). -/

namespace Sys2Proof.Machine

/-- The half-word address after an instruction of `len` half-words. -/
def pcNext (s : State) (t len : Nat) : BitVec 14 := (tineAt s t).pc + BitVec.ofNat 14 len

/-- BR (R86): PC-relative, modulo 2^14. -/
def execBr (t : TineNo) (off : BitVec 15) (s : State) : Res :=
  .next (issue t (.br t off) (fun s => retireTo t ((tineAt s t).pc + off.setWidth 14) s) s)

/-- A condition on the tine's flags (R97). -/
def condNow (s : State) (t : Nat) (cond : BitVec 4) : Bool :=
  condTrue cond.toNat (tFlag s t 20) (tFlag s t 21) (tFlag s t 22) (tFlag s t 23)

/-- BRC (R97): condition 15 is illegal. -/
def execBrc (t : TineNo) (f : BrcForm) (s : State) : Res :=
  .next (issue t (.brc t f) (fun s =>
    match f with
    | .c cond off =>
      if cond.toNat = 15 then illegal t s
      else if condNow s t cond then retireTo t ((tineAt s t).pc + off.signExtend 14) s
      else retire t 1 s
    | .f cond target =>
      if cond.toNat = 15 then illegal t s
      else if condNow s t cond then retireTo t target s
      else retire t 2 s) s)

/-- JMP (R98). -/
def execJmp (t : TineNo) (ga : Gr) (s : State) : Res :=
  .next (issue t (.jmp t ga) (fun s => retireTo t ((getG s t ga).extractLsb' 0 14) s) s)

/-- CALL (R98): the link is the zero-extended address of the next instruction. -/
def execCall (t : TineNo) (f : CallForm) (s : State) : Res :=
  .next (issue t (.call t f) (fun s =>
    match f with
    | .c ga =>
      retireTo t ((getG s t ga).extractLsb' 0 14) (setG t (Fin.ofNat 32 27) ((pcNext s t 1).setWidth 40) s)
    | .f gl target => retireTo t target (setG t gl ((pcNext s t 2).setWidth 40) s)) s)

/-- NOP (R98). -/
def execNop (t : TineNo) (s : State) : Res := .next (issue t (.nop t) (fun s => retire t 1 s) s)

/-- WAIT (R100, R167): ends any cloche and sleeps. -/
def execWait (t : TineNo) (s : State) : Res :=
  .next (issue t (.wait t) (fun s =>
    haltHeld t (sieveUpdate t (modTine t (fun x => { x with flight := some .wait })
      (setReg (pgTine t) oCLOCHE 0 s)))) s)

/-- Open a cloche of `n` instructions where none is open (R156). -/
def openCloche (t n : Nat) (s : State) : State :=
  if regF s (pgTine t) oCLOCHE 0 7 = 0 then setReg (pgTine t) oCLOCHE (wd n) s else s

/-- CLOCHE n with n − 1 in the encoding (R156). -/
def execCloche (t : TineNo) (nM1 : BitVec 6) (s : State) : Res :=
  .next (issue t (.cloche t nM1) (fun s =>
    let opens := decide (regF s (pgTine t) oCLOCHE 0 7 = 0)
    retireEnd t opens (advance t 1 (openCloche t (nM1.toNat + 1) s))) s)

/-- SYSC (R148): retires, then the fault SYSCALL with the code. -/
def execSysc (t : TineNo) (code : BitVec 8) (s : State) : Res :=
  .next (issue t (.sysc t code) (fun s =>
    retire t 1 (recordFault t { instrFault 0x04 (wd code.toNat) with after := true } s)) s)

/-- The session that a BKPT halts for: the probe's, then the host's (R430). -/
def bkptFor (s : State) (t : Nat) : Option Bool :=
  if grantCovers s true t then some true else if grantCovers s false t then some false else none

/-- BKPT (R430): halts after retiring when a session's grant covers the present world; otherwise nothing more. -/
def execBkpt (t : TineNo) (s : State) : Res :=
  .next (issue t (.bkpt t) (fun s =>
    let s1 := retire t 1 s
    match bkptFor s t with
    | some pr => haltNow t pr s1
    | none => s1) s)

/-- MFC (R84, R85, R144, R165). -/
def execMfc (t : TineNo) (g : Gr) (n : BitVec 10) (s : State) : Res :=
  .next (issue t (.mfc t g n) (fun s =>
    if ctlPriv s t n.toNat false then privFault t s
    else retire t 2 (setG t g (ctlRead s t n.toNat) s)) s)

/-- MTC (R85, R144, R165); it takes effect at its retirement, which is counted and tested with what it wrote (R101, R106,
assumption 109). -/
def execMtc (t : TineNo) (g : Gr) (n : BitVec 10) (s : State) : Res :=
  .next (issue t (.mtc t g n) (fun s =>
    if ctlPriv s t n.toNat true then privFault t s
    else retire t 2 (ctlWrite t n.toNat (getG s t g) s)) s)

/-! ## Repeats and loops -/

/-- The instruction at a half-word address may not be repeated (R102). -/
def nextForbidden (s : State) (t : Nat) (pc : BitVec 14) : Bool :=
  repForbidden (fetchAt s t pc) (pc.getLsbD 0)

/-- The length in half-words of the instruction at an address (R87). -/
def lenAt (s : State) (t : Nat) (pc : BitVec 14) : Nat :=
  if isFull (fetchAt s t pc) && !pc.getLsbD 0 then 2 else 1

/-- A repeat of `n` ≥ 1 begins; with `u` it opens a cloche (R101, R104). -/
def startRep (t : TineNo) (n : Nat) (u : Bool) (len : Nat) (s : State) : State :=
  if nextForbidden s t (pcNext s t len) then illegal t s
  else
    let opens := u && decide (regF s (pgTine t) oCLOCHE 0 7 = 0)
    let l := reg s (pgTine t) oLSTAT
    let s1 := setReg (pgTine t) oLSTAT (setF (setF l 6 13 n) 19 2 (b2n u + 2)) s
    let s2 := if u then openCloche t n s1 else s1
    let s3 := modTine t (fun x => { x with repLen := Tbl.set (fun _ => 1) x.repLen (tLvl s t) len }) s2
    retireEnd t opens (setPc t (pcNext s t len) s3)

/-- REP with n − 1 in the encoding (R101). -/
def execRep (t : TineNo) (nM1 : BitVec 12) (s : State) : Res :=
  .next (issue t (.rep t nM1) (fun s => startRep t (nM1.toNat + 1) false 1 s) s)

/-- REPU (R104): n is 1–64. -/
def execRepu (t : TineNo) (nM1 : BitVec 12) (s : State) : Res :=
  .next (issue t (.repu t nM1) (fun s => if 64 ≤ nM1.toNat then illegal t s else startRep t (nM1.toNat + 1) true 1 s) s)

/-- REPR (R101, R106): the count from Gs; 0 skips the next instruction. -/
def execRepr (t : TineNo) (gs : Gr) (u : Bool) (s : State) : Res :=
  .next (issue t (.repr t gs u) (fun s =>
    let n := (getG s t gs).toNat
    if (if u then 64 else 4096) < n then illegal t s
    else if 0 < n then startRep t n u 2 s
    else
      let nx := pcNext s t 2
      if nextForbidden s t nx then illegal t s
      else
        let (a, s1) := loopTest t [(tineAt s t).pc, nx] (nx + BitVec.ofNat 14 (lenAt s t nx)) s
        retireEnd t false (setPc t a s1)) s)

/-- LOOP and LOOPR with their count (R105). With a count of 0 the skip counts as a transfer of control and no loop test is made;
at the end of an enclosing level a new level is tested, not that one (assumption 108). -/
def startLoop (t : TineNo) (c : Word) (e : BitVec 13) (s : State) : State :=
  let pc := (tineAt s t).pc
  let le := pc + e.setWidth 14
  let ld := regF s (pgTine t) oLSTAT 0 3
  if e.toNat < 2 then illegal t s
  else if c = 0 then retireTo t (le + BitVec.ofNat 14 (lenAt s t le)) s
  else if 4 ≤ ld then recordFault t (instrFault 0x06 0) s
  else
    let s1 := setReg (pgTine t) (oLC ld) c
      (setReg (pgTine t) (oLE ld) (le.setWidth 40) (setReg (pgTine t) (oLS ld) ((pcNext s t 2).setWidth 40) s))
    retire t 2 (setRegF (pgTine t) oLSTAT 0 3 (ld + 1) s1)

/-- LOOP (R105). -/
def execLoop (t : TineNo) (count : BitVec 16) (e : BitVec 13) (s : State) : Res :=
  .next (issue t (.loop t count e) (fun s => startLoop t (count.setWidth 40) e s) s)

/-- LOOPR (R105). -/
def execLoopr (t : TineNo) (gs : Gr) (e : BitVec 13) (s : State) : Res :=
  .next (issue t (.loopr t gs e) (fun s => startLoop t (getG s t gs) e s) s)

/-- ENDL (R106): with LD = FLOOR it does nothing. Standing at an LE it pops first, and the loop test takes the level that is
innermost then (assumption 108). -/
def execEndl (t : TineNo) (s : State) : Res :=
  .next (issue t (.endl t) (fun s =>
    let l := reg s (pgTine t) oLSTAT
    let s1 := if getF l 3 3 < getF l 0 3 then setRegF (pgTine t) oLSTAT 0 3 (getF l 0 3 - 1) s else s
    retire t 1 s1) s)

/-! ## RETX (R152–R154, R170) -/

/-- The input deliverable at a return to status `new` (R170). -/
def retxBest (s : State) (t : Nat) (new : Word) : Option Nat :=
  if tineLive s t then bestBelow s t (getF new 30 5) (bit new 29) false 64 else none

/-- Restore the checked save set (R152). -/
def retxRestore (t k : Nat) (new : Word) (s : State) : State :=
  let tst := reg s (pgTine t) oTST
  let s1 := setReg (pgTine t) oTST (setF (setF tst 20 4 (getF new 20 4)) 28 7 (getF new 28 7)) s
  let s2 := setReg (pgTine t) oLSTAT (reg s (pgTine t) (oSLS k)) s1
  let s3 := setReg (pgTine t) oCLOCHE 0 s2
  let s4 := alive t (wrapF (pgTine t) oRETIRED 0 40 1 s3)
  sieveUpdate t (haltCheck t (modTine t (fun x => { x with
    pc := BitVec.ofNat 14 (regF s (pgTine t) (oSPC k) 0 14), flight := none, window := [], halfdone := bit new 35 }) s4))

/-- A chain entry for input `n`: the checked save set goes to the new level unchanged (R153). FLOOR takes LD of the LSTAT in
force, the returning handler's (R108, assumption 110). Where its vector word faults, F saves the state of the RETX itself
(assumption 141). -/
def chainEntry (t k n : Nat) (up upF upD : Upset) (latency : Nat) (s : State) : State :=
  match vectorRead t (inWalled s t n) n up s with
  | (some pc, s1) =>
    let s2 := alive t (wrapF (pgTine t) oRETIRED 0 40 1 s1)
    latencyGauge t latency
      (commitEntry t n pc (reg s2 (pgTine t) (oSPC k)) (reg s2 (pgTine t) (oSST k)) (reg s2 (pgTine t) (oSLS k)) s2)
  | (none, s1) =>
    takeFault t { cause := 0x0D, sub := 0, addr := vectorPa s t (inWalled s t n) n, info := wd n, phys := true,
                  entry := true, prev := 0 } (tW s t) (wd (tineAt s t).pc.toNat) (sstNow s t false) upF upD
      (setPend t n false s1)

/-- RETX (R152); a chain entry's vector read meets `up`. At base no SST failed, and FINFO is free (assumption 140). -/
def execRetx (t : TineNo) (up upF upD : Upset) (latency : Nat) (s : State) : Res :=
  .next (issue t (.retx t up upF upD latency) (fun s =>
    let cur := tLvl s t
    let k := cur - 1
    let new := reg s (pgTine t) (oSST k)
    if !tS s t then privFault t s
    else if cur = 0 then
      let (w, s1) := drawWord s
      recordFault t (instrFault 0x03 w) s1
    else if cur ≤ getF new 30 5 ∨ (bit new 29 && !tW s t) then recordFault t (instrFault 0x03 new) s
    else
      match retxBest s t new with
      | some n => chainEntry t k n up upF upD latency s
      | none => retxRestore t k new s) s)

/-! ## Fault and handler entries -/

/-- Take a recorded fault (R117, R148). -/
def takeRecorded (t : TineNo) (f : FaultRec) (upF upD : Upset) (s : State) : State :=
  takeFault t { cause := f.cause, sub := f.sub, addr := f.addr, info := f.info, phys := f.phys, entry := false,
                prev := 0 } (faultWorld s t f) (wd (tineAt s t).pc.toNat)
    (sstNow s t (f.half || (tineAt s t).halfdone)) upF upD s

/-- Take the oldest reported drain error (R123). -/
def takeDrain (t : TineNo) (pa : Nat) (upF upD : Upset) (s : State) : State :=
  let s1 := modTine t (fun x => { x with drain := x.drain.drop 1 }) (abandon t s)
  takeFault t { cause := 0x0C, sub := 0, addr := pa, info := 0, phys := true, entry := false, prev := 0 } (tW s t)
    (wd (tineAt s t).pc.toNat) (sstNow s t (tineAt s t).halfdone) upF upD s1

/-- The fetch at PC faults: an uncorrectable word, or no legal instruction (R87, R190). -/
def fetchFault (t : TineNo) (up upF upD : Upset) (s : State) : State :=
  let pc := (tineAt s t).pc
  let pa := trayBase t + 0x2000 * activeBank s t + pc.toNat / 2
  match memRead pa up t s with
  | (.word w, s1) =>
    if halfLegal w (pc.getLsbD 0) then s1
    else takeRecorded t (instrFault 0x01 w) upF upD s1
  | (_, s1) => takeRecorded t (accessFault 0x0B 2 pa 0 true) upF upD s1

/-- FAULT_ENTRY (R148–R151): a fault at the head of the window is taken; with none recorded the fetch at PC is made. A
drain error waits for an entry in progress to end (R123). `up` meets the fetch, `upF` and `upD` the vector reads. -/
def execFaultEntry (t : TineNo) (up upF upD : Upset) (s : State) : Res :=
  .next (
    let x := tineAt s t
    if !tineGoes x || x.locked || x.retired || !tineUp s t then s
    else
      match x.fault, x.drain with
      | some f, d =>
        if faultStands s t then takeRecorded t f upF upD s
        else match d with
          | pa :: _ => if x.entry.isSome then takeRecorded t f upF upD s else takeDrain t pa upF upD s
          | [] => takeRecorded t f upF upD s
      | none, pa :: _ => if x.entry.isSome then s else takeDrain t pa upF upD s
      | none, [] => if canIssue s t then fetchFault t up upF upD s else s)

/-- HANDLER_ENTRY (R145, R168): the chosen entry reaches its commit point. -/
def execHandlerEntry (t : TineNo) (up upF upD : Upset) (latency : Nat) (s : State) : Res :=
  .next (entryCommit t up upF upD latency s)

/-! ## Sieve commands -/

/-- SIEVE_ARRIVAL (R160). -/
def execSieveArrival (t : TineNo) (n : Fin 64) (s : State) : Res := .next (raise t n s)

/-- A write to a tine register by the memory path of another party, or by a control instruction of the tine itself. -/
def tineCmdWrite (w : Who) (t off : Nat) (v : Word) (s : State) : State :=
  if w = .tine (Fin.ofNat 144 t) then
    if ctlPriv s t (off - 0x80) true then privFault t s else ctlWrite (Fin.ofNat 144 t) (off - 0x80) v s
  else gated w (pgTine t) off (tinePageWrite w t off v) s

/-- SIEVE_EOI (R165). -/
def execSieveEoi (w : Who) (t : TineNo) (v : Word) (s : State) : Res := .next (tineCmdWrite w t oEOI v s)
/-- SIEVE_CLRPEND (R160, R169). -/
def execSieveClrpend (w : Who) (t : TineNo) (v : Word) (s : State) : Res := .next (tineCmdWrite w t oCLRPEND v s)
/-- SIEVE_RAISE (R173). -/
def execSieveRaise (w : Who) (t : TineNo) (v : Word) (s : State) : Res := .next (tineCmdWrite w t oRAISE v s)
/-- SIEVE_CFG_WRITE (R169). -/
def execSieveCfgWrite (w : Who) (t : TineNo) (n : Fin 64) (v : Word) (s : State) : Res :=
  .next (tineCmdWrite w t (oSCFG n) v s)
/-- SIEVE_TMR_CMP_WRITE (R172). -/
def execSieveTmrCmpWrite (w : Who) (t : TineNo) (v : Word) (s : State) : Res := .next (tineCmdWrite w t oTCMP v s)
/-- DITHER_STATE_WRITE (R65). -/
def execDitherStateWrite (w : Who) (t : TineNo) (b : Bool) (v : Word) (s : State) : Res :=
  .next (tineCmdWrite w t (if b then oDTHB else oDTHA) v s)
/-- CLR_E (R68): a write of TINE_RQn_CTRL; the row's command sets CLR_E. -/
def execClrE (w : Who) (t : TineNo) (n : Ar) (v : Word) (s : State) : Res :=
  .next (tineCmdWrite w t (oRQ n) (setB v 5 true) s)

/-- HOLD_OFF_END (R166, R171): the window of an input has ended; the input is considered again. -/
def execHoldOffEnd (t : TineNo) (n : Fin 64) (s : State) : Res :=
  .next (
    if Tbl.get (fun _ => 0) (tineAt s t).hold n ≤ s.now then
      sieveUpdate t (modTine t (fun x => { x with hold := Tbl.set (fun _ => 0) x.hold n 0 }) s)
    else s)

/-- TIMER_COMPARE (R172): the armed timer's compare tick has begun. -/
def execTimerCompare (t : TineNo) (s : State) : Res :=
  .next (
    if regB s (pgTine t) oSSTAT 21 && tmrPast s (regF s (pgTine t) oTCMP 0 32) then tmrFire t s else s)

/-- NURS_LOCK_TINE_CLR (R151): by a Walled writer (R456). -/
def execNursLockTineClr (w : Who) (v : Word) (s : State) : Res :=
  .next (gated w pgNurs 0x011 (fun s => if walledWriter s w && bit v 39 then lockClr s else s) s)

end Sys2Proof.Machine
end

