-- ==== Sys2Proof/Machine/TineMac.lean ====
section
/-! DEFINITION. The MAC datapath, the accumulator operations and the write-backs (Table 4-10, R38–R47, R58, R67). -/

namespace Sys2Proof.Machine

/-- One product with its operation and target, already aligned (R40). -/
structure Term where
  op : MacOp
  an : Nat
  p : Int
  deriving DecidableEq, Repr

/-- The exact total of the terms for accumulator `n` (R41). -/
def macTotal (s : State) (t n : Nat) (ts : List Term) : Int :=
  let mine := ts.filter fun x => decide (x.an = n)
  let base : Int := if mine.any (fun x => decide (x.op = .mpy)) then 0 else (getAcc s t n).toInt
  mine.foldl (fun acc x => if x.op = .msu then acc - x.p else acc + x.p) base

/-- Accumulators that some term targets. -/
def macTargets (ts : List Term) : List Nat :=
  (List.range 4).filter fun n => ts.any fun x => decide (x.an = n)

/-- The new accumulators, all computed from the state before (R41). -/
def macWrite (t : Nat) (s0 : State) (ts : List Term) (s : State) : State :=
  forAll (macTargets ts) (fun n x => setAcc t n (sat96 (macTotal s0 t n ts)) x) s

/-- The accumulators that saturate. -/
def macSats (s : State) (t : Nat) (ts : List Term) : List Nat :=
  (macTargets ts).filter fun n => out96 (macTotal s t n ts)

/-- A MAC-group instruction retires: accumulators and AOV (R41, R69). -/
def macRetire (t : TineNo) (ts : List Term) (len : Nat) (s : State) : State :=
  retireSat t len (macSats s t ts) (macWrite t s ts s)

/-- The term of a dual-mode lane. -/
def laneTerm (s : State) (t : Nat) (fp : Nat) (l : Lane) : List Term :=
  if l.op = .absent then []
  else [{ op := l.op, an := l.an, p := sw (getG s t l.gx) * sw (getG s t l.gy) * (2 ^ psDual fp : Nat) }]

/-- An absent lane names nothing (R89). -/
def laneOk (l : Lane) : Bool :=
  decide (l.op ≠ .absent) || (decide (l.an.val = 0) && decide (l.gx.val = 0) && decide (l.gy.val = 0))

/-- MAC_DUAL (R38, R41, R89). -/
def execMacDual (t : TineNo) (fp : BitVec 2) (l0 l1 : Lane) (s : State) : Res :=
  .next (issue t (.macDual t fp l0 l1) (fun s =>
    if laneOk l0 && laneOk l1 && (decide (l0.op ≠ .absent) || decide (l1.op ≠ .absent) || decide (fp.toNat = 0)) then
      macRetire t (laneTerm s t fp.toNat l0 ++ laneTerm s t fp.toNat l1) 2 s
    else illegal t s) s)

/-- The low and high halves of a word, signed. -/
def halfLo (w : Word) : Int := sx 20 (getF w 0 20)
def halfHi (w : Word) : Int := sx 20 (getF w 20 20)

/-- The terms of a quad-mode pair (R39). -/
def pairTerms (s : State) (t : Nat) (fp : Nat) (p : Pair) (gx gy : Gr) : List Term :=
  if p.op = .absent then []
  else
    let x := getG s t gx
    let y := getG s t gy
    [{ op := p.op, an := p.an, p := halfLo x * halfLo y * (2 ^ psQuad fp : Nat) },
     { op := p.op, an := p.an, p := halfHi x * halfHi y * (2 ^ psQuad fp : Nat) }]

/-- An absent pair names nothing (R89). -/
def pairOk (p : Pair) (gx gy : Gr) : Bool :=
  decide (p.op ≠ .absent) || (decide (p.an.val = 0) && decide (gx.val = 0) && decide (gy.val = 0))

/-- MAC_QUAD (R39, R41, R89). -/
def execMacQuad (t : TineNo) (fp : BitVec 2) (p0 p1 : Pair) (gx gy gz gw : Gr) (s : State) : Res :=
  .next (issue t (.macQuad t fp p0 p1 gx gy gz gw) (fun s =>
    if pairOk p0 gx gy && pairOk p1 gz gw &&
        (decide (p0.op ≠ .absent) || decide (p1.op ≠ .absent) || decide (fp.toNat = 0)) then
      macRetire t (pairTerms s t fp.toNat p0 gx gy ++ pairTerms s t fp.toNat p1 gz gw) 2 s
    else illegal t s) s)

/-- MAC_C (Table 4-4): op 00 is illegal. -/
def execMacC (t : TineNo) (op : MacOp) (an : Ar) (gx gy : Gr) (fp1 : Bool) (s : State) : Res :=
  .next (issue t (.macC t op an gx gy fp1) (fun s =>
    if op = .absent then illegal t s
    else macRetire t (laneTerm s t (b2n fp1) { op := op, an := an, gx := gx, gy := gy }) 1 s) s)

/-- An accumulator operation retires with the exact result `v` (R42). -/
def accRetire (t : TineNo) (an : Ar) (v : Int) (len : Nat) (s : State) : State :=
  retireSat t len (if out96 v then [an.val] else []) (setAcc t an (sat96 v) s)

/-- CLRA (R42). -/
def execClra (t : TineNo) (f : AccForm) (s : State) : Res :=
  .next (issue t (.clra t f) (fun s => accRetire t (accAn f) 0 (accLen f) s) s)
/-- NEGA (R42). -/
def execNega (t : TineNo) (f : AccForm) (s : State) : Res :=
  .next (issue t (.nega t f) (fun s => accRetire t (accAn f) (-(getAcc s t (accAn f)).toInt) (accLen f) s) s)
/-- ABSA (R42). -/
def execAbsa (t : TineNo) (f : AccForm) (s : State) : Res :=
  .next (issue t (.absa t f) (fun s => accRetire t (accAn f) ((getAcc s t (accAn f)).toInt.natAbs : Nat) (accLen f) s) s)
/-- LDA (R42); k above 56 is illegal. -/
def execLda (t : TineNo) (an : Ar) (g : Gr) (k : BitVec 8) (s : State) : Res :=
  .next (issue t (.lda t an g k) (fun s =>
    if k.toNat ≤ 56 then accRetire t an (sw (getG s t g) * (2 ^ k.toNat : Nat)) 2 s else illegal t s) s)
/-- ADDA (R42). -/
def execAdda (t : TineNo) (an am : Ar) (s : State) : Res :=
  .next (issue t (.adda t an am) (fun s => accRetire t an ((getAcc s t an).toInt + (getAcc s t am).toInt) 2 s) s)
/-- SUBA (R42). -/
def execSuba (t : TineNo) (an am : Ar) (s : State) : Res :=
  .next (issue t (.suba t an am) (fun s => accRetire t an ((getAcc s t an).toInt - (getAcc s t am).toInt) 2 s) s)
/-- ASHA (R55); k outside −96 to 95 is illegal. -/
def execAsha (t : TineNo) (an : Ar) (k : BitVec 8) (s : State) : Res :=
  .next (issue t (.asha t an k) (fun s =>
    if -96 ≤ k.toInt ∧ k.toInt ≤ 95 then accRetire t an (ashExact (getAcc s t an).toInt k.toInt) 2 s
    else illegal t s) s)
/-- NORMA (R53). -/
def execNorma (t : TineNo) (g : Gr) (an : Ar) (s : State) : Res :=
  .next (issue t (.norma t g an) (fun s => aluRetire t g { val := wd (norm96 (getAcc s t an)), flags := .none } 2 s) s)

/-! ## Write-back -/

/-- The generator states after the draws of a mode (R62, R63). -/
def dithered (code : Nat) (t : Nat) (s : State) : Nat × Nat × State :=
  let a := regF s (pgTine t) oDTHA 0 32
  let b := regF s (pgTine t) oDTHB 0 32
  let a1 := if usesA code then drawA a else a
  let b1 := if usesB code then drawB b else b
  (a1, b1, setRegF (pgTine t) oDTHB 0 32 b1 (setRegF (pgTine t) oDTHA 0 32 a1 s))

/-- A rounded write-back to `w` bits: the result, saturation, and the state with dither and shaper stepped (R58, R67). -/
def writeBack (t : Nat) (an : Ar) (xs code w : Nat) (s : State) : Int × Bool × State :=
  let v := (getAcc s t an).toInt
  if code = 6 then
    let rq := oRQ an.val
    let c := reg s (pgTine t) rq
    let (a, b, s1) := dithered (getF c 2 3) t s
    let r := shape v xs w (getF c 0 2) (getF c 2 3) (reg s (pgTine t) (rq + 1)) (reg s (pgTine t) (rq + 2))
      (reg s (pgTine t) (rq + 3)) (reg s (pgTine t) (rq + 4)) (reg s (pgTine t) (rq + 5)) (reg s (pgTine t) (rq + 6)) a b
    (r.y, r.sat, setReg (pgTine t) (rq + 6) r.e3 (setReg (pgTine t) (rq + 5) r.e2 (setReg (pgTine t) (rq + 4) r.e1 s1)))
  else
    let (a, b, s1) := dithered code t s
    let (y, sat) := satTo w (roundTo code v xs a b)
    (y, sat, s1)

/-- WBA and WBA.H: code 7 is illegal (R46, R47, R57). -/
def wbInstr (i : Instr) (w : Nat) (t : TineNo) (gd : Gr) (an : Ar) (xs : BitVec 6) (code : BitVec 3) (s : State) : State :=
  issue t i (fun s =>
    if code.toNat = 7 then illegal t s
    else
      let (y, sat, s1) := writeBack t an xs.toNat code.toNat w s
      retireSat t 2 (if sat then [4 + an.val] else []) (setG t gd (wi y) s1)) s

/-- WBA (R46). -/
def execWba (t : TineNo) (gd : Gr) (an : Ar) (xs : BitVec 6) (code : BitVec 3) (s : State) : Res :=
  .next (wbInstr (.wba t gd an xs code) 40 t gd an xs code s)
/-- WBA_H (R47). -/
def execWbaH (t : TineNo) (gd : Gr) (an : Ar) (xs : BitVec 6) (code : BitVec 3) (s : State) : Res :=
  .next (wbInstr (.wbaH t gd an xs code) 20 t gd an xs code s)
/-- WBA_D (R47): an odd Gd, a shift or a code is illegal. -/
def execWbaD (t : TineNo) (gd : Gr) (an : Ar) (xs : BitVec 6) (code : BitVec 3) (s : State) : Res :=
  .next (issue t (.wbaD t gd an xs code) (fun s =>
    if gd.val % 2 ≠ 0 ∨ xs.toNat ≠ 0 ∨ code.toNat ≠ 0 then illegal t s
    else
      let (y, sat) := satTo 80 (getAcc s t an).toInt
      let n := modI 80 y
      retireSat t 2 (if sat then [4 + an.val] else [])
        (setG t (Fin.ofNat 32 (gd.val + 1)) (wd (n / 2 ^ 40)) (setG t gd (wd n) s))) s)

end Sys2Proof.Machine
end

