-- ==== Sys2Proof/Machine/TineMem.lean ====
section
/-! DEFINITION. A tine's memory and hopper instructions, its store buffer and the returns of its reads (R35, R37, R92–R100,
R120–R126, R184, R189, R190, R252, R257). -/

namespace Sys2Proof.Machine

/-! ## Addresses -/

/-- The outcome of translating the words of one access. -/
inductive XAll where
  | pas (l : List Nat)
  | fault (f : FaultRec)
  deriving DecidableEq, Repr

/-- Translate and check words in order; the first failure decides, with its virtual address (R195). -/
def xlatWords (t : Nat) (a : Acc) (vas : List Nat) (s : State) : XAll × State :=
  match vas with
  | [] => (.pas [], s)
  | v :: rest =>
    match tineXlat t v a s with
    | (.fault c k i, s1) => (.fault (accessFault c k v i false), s1)
    | (.pa p, s1) =>
      match xlatWords t a rest s1 with
      | (.pas l, s2) => (.pas (ownPa s1 p :: l), s2)
      | (.fault f, s2) => (.fault f, s2)

/-- The virtual word address of a word access (R92). -/
def wordVa (ea : Word) : Nat := getF ea 0 32
/-- The virtual word address and the half of a half-word access (R92). -/
def halfVa (ea : Word) : Nat := getF ea 1 32
def halfSel (ea : Word) : Bool := bit ea 0
/-- The words after a word of the virtual space. -/
def vaPlus (v k : Nat) : Nat := (v + k) % 2 ^ 32

/-- An address update as a list. -/
def updList (u : Option (Gr × Word)) : List (Gr × Word) := match u with | some e => [e] | none => []

/-- Address register updates at retirement (R96). -/
def doUpds (t : Nat) (upds : List (Gr × Word)) (s : State) : State := forAll upds (fun u x => setG t u.1 u.2 x) s

/-! ## Forwarding (R121, Table 5-2) -/

/-- A buffered store touches a word, or the half of it that is loaded. -/
def entHit (e : StoreEnt) (pa : Nat) (half : Option Bool) : Bool :=
  match e.data with
  | .word _ => decide (e.pa = pa)
  | .dbl _ _ => decide (e.pa = pa) || decide (e.pa + 1 = pa)
  | .half h _ => decide (e.pa = pa) && (half.isNone || decide (half = some h))
  | .run _ => false

/-- What a buffered store gives for a word, or for the half of it that is loaded. -/
def entWord (e : StoreEnt) (pa : Nat) (half : Option Bool) : Option Word :=
  match e.data with
  | .word v => if e.pa = pa then some v else none
  | .dbl lo hi => if e.pa = pa then some lo else if e.pa + 1 = pa then some hi else none
  | .half h d => if e.pa = pa ∧ half = some h then some (mergeHalf 0 h d) else none
  | .run _ => none

/-- How the store buffer serves a load. -/
inductive Fwd where
  | mem
  | fwd (ws : List Word)
  | wait
  deriving DecidableEq, Repr

/-- The rule of R121 for a load of the words `pas`. -/
def fwdOf (sb : List StoreEnt) (half : Option Bool) (pas : List Nat) : Fwd :=
  let hit := sb.filter fun e => pas.any fun p => entHit e p half
  match hit.getLast? with
  | none => .mem
  | some y =>
    if hit.all fun e => pas.all fun p => (entWord e p half).isSome then
      .fwd (pas.map fun p => (entWord y p half).getD 0)
    else .wait

/-- The half a load takes. -/
def loadHalf (k : LoadKind) : Option Bool := match k with | .half _ hi => some hi | _ => none
def loadSwap (k : LoadKind) : Bool := match k with | .swap _ _ => true | _ => false

/-- How the buffer serves each access of a load; a SWAP goes to memory (R122). -/
def fwdAll (s : State) (t : Nat) (k : LoadKind) (groups : List (List Nat)) : List Fwd :=
  groups.map fun g => if loadSwap k then .mem else fwdOf (tineAt s t).sb (loadHalf k) g

/-- Where the words of a load come from, in order. -/
def loadSrcs : List Fwd → List (List Nat) → List LSrc
  | .fwd ws :: fs, _ :: gs => ws.map .have' ++ loadSrcs fs gs
  | _ :: fs, g :: gs => g.map .read ++ loadSrcs fs gs
  | _, _ => []

/-! ## The end of a load -/

/-- A load has all its words: its effect and its retirement (R35, R37, R92, R96, R99, R126, R184). -/
def loadDone (t : TineNo) (k : LoadKind) (srcs : List LSrc) (ws : List Word) (upds : List (Gr × Word)) (len : Nat)
    (f2 : Option FaultRec) (s : State) : State :=
  let w (i : Nat) : Word := (ws[i]?).getD 0
  let s1 := doUpds t upds s
  match k with
  | .word gt => retire t len (setG t gt (w 0) s1)
  | .half gt hi => retire t len (setG t gt (wi (if hi then halfHi (w 0) else halfLo (w 0))) s1)
  | .dbl gt => retire t len (setG t (Fin.ofNat 32 (gt.val + 1)) (w 1) (setG t gt (w 0) s1))
  | .dblFirst gt =>
    let s2 := modTine t (fun x => { x with flight := none }) (setG t gt (w 0) s)
    (match f2 with
     | some f => recordFault t f s2
     | none => s2)
  | .dblSecond gt => retire t len (setG t (Fin.ofNat 32 (gt.val + 1)) (w 0) s1)
  | .image an => retire t len (setAcc t an (accOfImage (w 0) (w 1) (w 2)) s1)
  | .macm op fp an =>
    macRetire t [{ op := op, an := an, p := sw (w 0) * sw (w 1) * (2 ^ psDual fp.toNat : Nat) }] len s1
  | .swap gt new =>
    (match srcs with
     | .read pa :: _ => retire t len (setG t gt (w 0) (doUpds t upds (memPut pa new s)))
     | _ => s)

/-- A load faults at its head of the window (R117). -/
def loadFault (t : Nat) (f : FaultRec) (s : State) : State :=
  recordFault t f (modTine t (fun x => { x with flight := none }) s)

/-- A split load of which the first half's read came and the second's failed: the first half stands (R126). -/
def loadFail (t : Nat) (k : LoadKind) (vas : List Nat) (got : List Word) (f : FaultRec) (s : State) : State :=
  match k, vas, got with
  | .dbl gt, v :: _, w :: _ =>
    if v % 2 = 1 then loadFault t { f with half := true } (setG t gt w s) else loadFault t f s
  | .dblSecond _, _, _ => loadFault t { f with half := true } s
  | _, _, _ => loadFault t f s

/-- The outcome of a load's reads: all words, or the words before the first that failed. -/
inductive RAll where
  | words (ws : List Word)
  | fail (got : List Word) (f : FaultRec)
  deriving DecidableEq, Repr

/-- The fault of a word that could not be read (R182, R190, R360). -/
def readFault (swap : Bool) (r : PRead) (pa va : Nat) : FaultRec :=
  match r with
  | .dormant => accessFault 0x07 5 va 0 false
  | .lost => accessFault 0x07 1 va 0 false
  | _ => accessFault 0x0B (if swap then 3 else 1) pa (wd (memCode pa)) true

/-- Read the words of a load in order. What a read of a register page did before a later word failed stands (assumption 139). -/
def readAll (t : TineNo) (swap : Bool) (srcs : List LSrc) (vas : List Nat) (ups : List Upset) (got : List Word)
    (s : State) : RAll × State :=
  match srcs with
  | [] => (.words got, s)
  | .have' w :: rest => readAll t swap rest (vas.drop 1) ups (got ++ [w]) s
  | .read pa :: rest =>
    match physRead (.tine t) pa (ups.headD .ok) s with
    | (.word w, s1) => readAll t swap rest (vas.drop 1) (ups.drop 1) (got ++ [w]) s1
    | (r, s1) => (.fail got (readFault swap r pa (vas.headD 0)), s1)

/-- Words still to be read that wait. -/
def srcWaits (s : State) (t : TineNo) (x : LSrc) : Bool :=
  match x with
  | .have' _ => false
  | .read pa => physWaits s (.tine t) pa

/-- READ cells go out for words in the windows of other devices, each once (R360). -/
def srcAsk (t : TineNo) (x : LSrc) (s : State) : State :=
  match x with
  | .have' _ => s
  | .read pa =>
    if (s.chainTags.any fun e => decide (e.2.1 = t.val) && decide (e.2.2 = pa)) || (chainAnswer s t pa).isSome then s
    else physAsk (.tine t) pa s

/-- A load issues: from the store buffer alone it retires, else it waits for its data. A load that must wait for a partly overlapping store counts in PWAIT here, so once for each time it is executed
(assumption 137). -/
def loadStart (t : TineNo) (k : LoadKind) (groups : List (List Nat)) (vas : List Nat) (upds : List (Gr × Word))
    (len : Nat) (f2 : Option FaultRec) (s : State) : State :=
  let fs := fwdAll s t k groups
  let srcs := loadSrcs fs groups
  let s0 := physForget (.tine t) s
  if fs.all fun f => (match f with | .fwd _ => true | _ => false) then
    match readAll t false srcs vas [] [] s0 with
    | (.words ws, s1) => loadDone t k srcs ws upds len f2 s1
    | (.fail _ _, s1) => s1
  else
    let wait := fs.any fun f => decide (f = .wait)
    let s1 := modTine t (fun x => { x with flight := some (.load k srcs vas upds len f2) })
      (if wait then bumpF (pgTine t) oSB 16 16 1 s0 else s0)
    if wait then s1 else forAll srcs (srcAsk t) s1

/-- A word that a load is to read from memory is still overlapped by a buffered store (R121). -/
def srcOver (sb : List StoreEnt) (half : Option Bool) (x : LSrc) : Bool :=
  match x with
  | .have' _ => false
  | .read pa => sb.any fun e => entHit e pa half

/-- A split double word of which no half has been read (R124). -/
def splitFirst (k : LoadKind) (vas : List Nat) (srcs : List LSrc) : Option (Nat × Nat) :=
  match k, vas, srcs with
  | .dbl _, v :: _, [.read a, .read b] => if v % 2 = 1 then some (a, b) else none
  | _, _, _ => none

/-- The data of the load at the head returns, each word meeting an upset of `ups`: not before every store that it overlaps has
drained, nor once a failed drain is to be taken (R115, R121, R123, R190). The halves of a split access return one after the
other, so that another agent's write may fall between them (R125). -/
def loadReturn (t : TineNo) (ups : List Upset) (s : State) : State :=
  match (tineAt s t).flight with
  | some (.load k srcs vas upds len f2) =>
    let sb := (tineAt s t).sb
    if srcs.any (srcOver sb (loadHalf k)) || (loadSwap k && !sb.isEmpty) || !(tineAt s t).drain.isEmpty ||
        ups.contains .bus then s
    else if srcs.any (srcWaits s t) then forAll srcs (srcAsk t) s
    else
      match splitFirst k vas srcs with
      | some (a, b) =>
        (match physRead (.tine t) a (ups.headD .ok) s with
         | (.word w, s1) =>
           modTine t (fun x => { x with flight := some (.load k [.have' w, .read b] vas upds len f2) }) s1
         | (r, s1) => loadFail t k vas [] (readFault false r a (vas.headD 0)) s1)
      | none =>
        match readAll t (loadSwap k) srcs vas ups [] s with
        | (.words ws, s1) => loadDone t k srcs ws upds len f2 s1
        | (.fail got f, s1) => loadFail t k vas got f s1
  | _ => s

/-! ## The store buffer (R120–R123) -/

/-- An entry of a retiring store. -/
def stEnt (s : State) (t pa : Nat) (d : StoreData) : StoreEnt :=
  { pa := pa, data := d, walled := tW s t, sup := tS s t }

/-- A store enters the buffer and retires; where its second half faulted, only the entry of the first (R126). -/
def storeRetire (t : Nat) (ents : List StoreEnt) (upds : List (Gr × Word)) (len : Nat) (f2 : Option FaultRec) (s : State) :
    State :=
  let s1 := modTine t (fun x => { x with sb := x.sb ++ ents, flight := none }) s
  match f2 with
  | some f => recordFault t f s1
  | none => retire t len (doUpds t upds s1)

/-- A store whose checks passed: it retires, or waits for room (R120). -/
def storeStart (t : Nat) (ents : List StoreEnt) (upds : List (Gr × Word)) (len : Nat) (f2 : Option FaultRec) (s : State) :
    State :=
  if (tineAt s t).sb.length + ents.length ≤ 8 then storeRetire t ents upds len f2 s
  else modTine t (fun x => { x with flight := some (.store ents upds len f2) }) s

/-- What waited for the buffer goes on: a store with room, a FENCE on an empty buffer (R120, R122); not once a failed drain is
to be taken, which abandons it (R123). -/
def storeNext (t : Nat) (s : State) : State :=
  let x := tineAt s t
  match x.flight with
  | some (.store ents upds len f2) =>
    if x.drain.isEmpty && decide (x.sb.length + ents.length ≤ 8) then storeRetire t ents upds len f2 s else s
  | some .fence => if x.sb.isEmpty && x.drain.isEmpty then retire t 1 s else s
  | _ => s

/-- The oldest entry leaves the buffer. -/
def sbPop (t : Nat) (s : State) : State := storeNext t (modTine t (fun x => { x with sb := x.sb.drop 1 }) s)

/-- A drain fails: the entry is discarded and the error reported (R123). -/
def sbFail (t pa : Nat) (s : State) : State :=
  modTine t (fun x => { x with sb := x.sb.drop 1, drain := x.drain ++ [pa] }) s

/-- A write of a tine or a channel waits at a full mailbox. -/
def isWithheld (s : State) (x : Withheld) : Bool := s.withheld.any fun e => decide (e.1 = x)

/-- The oldest entry drains (R120, R123, R190). -/
def drainOldest (t : TineNo) (up : Upset) (s : State) : State :=
  match (tineAt s t).sb with
  | [] => s
  | e :: _ =>
    if isWithheld s (.store t) then s
    else
      match physWrite (.store t e.walled e.sup) 0 e.pa e.data up s with
      | (.done, s1) => sbPop t s1
      | (.error, s1) => sbFail t e.pa s1
      | (.dormant, s1) => sbFail t e.pa s1
      | (.hold, s1) => s1
      | (.withheld u item, s1) => { s1 with withheld := s1.withheld ++ [(.store t, mboxNo u, item)] }

/-- Words of store entries with their addresses, in order. -/
def entWords (ents : List StoreEnt) : List (Nat × Word) :=
  (ents.map fun e => (dataWords e.data).map fun d => (e.pa + d.1, d.2)).flatten

/-- A store that reaches the tine's own TINE_CKPT_GO, with an empty buffer, makes the request; its other words wait for its
retirement (R116, R410, assumption 105). -/
def goStore (t : TineNo) (ents : List StoreEnt) (go : Word) (upds : List (Gr × Word)) (len : Nat) (s : State) : State :=
  if !(tineAt s t).sb.isEmpty then s
  else
    let own := pageAddr (pgTine t) oCKGO
    ckptStore t len go ((entWords ents).filter fun e => decide (e.1 ≠ own)) upds s

/-- A store whose words passed their checks. -/
def storeGo (t : TineNo) (ents : List StoreEnt) (upds : List (Gr × Word)) (len : Nat) (s : State) : State :=
  match (entWords ents).find? fun e => decide (e.1 = pageAddr (pgTine t) oCKGO) with
  | some e => goStore t ents e.2 upds len s
  | none => storeStart t ents upds len none s

/-! ## Loads and stores -/

/-- A word load. -/
def loadWord (t : TineNo) (gt : Gr) (ea : Word) (upds : List (Gr × Word)) (len : Nat) (s : State) : State :=
  match xlatWords t { store := false } [wordVa ea] s with
  | (.fault f, s1) => recordFault t f s1
  | (.pas ps, s1) => loadStart t (.word gt) [ps] [wordVa ea] upds len none s1

/-- A word store of `v`. -/
def storeWord (t : TineNo) (v ea : Word) (upds : List (Gr × Word)) (len : Nat) (s : State) : State :=
  match xlatWords t { store := true } [wordVa ea] s with
  | (.fault f, s1) => recordFault t f s1
  | (.pas ps, s1) => storeGo t [stEnt s1 t (ps.headD 0) (.word v)] upds len s1

/-- LD (R92, R93). -/
def execLd (t : TineNo) (f : LdSt) (s : State) : Res :=
  .next (issue t (.ld t f) (fun s =>
    if ldstOk f then loadWord t (ldstGt f) (ldstEa s t f).1 (updList (ldstEa s t f).2) (ldstLen f) s else illegal t s) s)

/-- ST (R120). -/
def execSt (t : TineNo) (f : LdSt) (s : State) : Res :=
  .next (issue t (.st t f) (fun s =>
    if ldstOk f then
      storeWord t (getG s t (ldstGt f)) (ldstEa s t f).1 (updList (ldstEa s t f).2) (ldstLen f) s
    else illegal t s) s)

/-- LDST_C (Table 4-4): mode CIRC with step +1. -/
def execLdstC (t : TineNo) (store : Bool) (gt ga : Gr) (mk : Fin 8) (s : State) : Res :=
  .next (issue t (.ldstC t store gt ga mk) (fun s =>
    let a := getG s t ga
    let upds := [(ga, circStep a 1 (reg s (pgTine t) (oM mk.val)))]
    if store then storeWord t (getG s t gt) a upds 1 s else loadWord t gt a upds 1 s) s)

/-- LDH (R92). -/
def execLdh (t : TineNo) (l : LS) (s : State) : Res :=
  .next (issue t (.ldh t l) (fun s =>
    if lsOk l then
      let (ea, u) := lsEa s t l
      match xlatWords t { store := false, half := true } [halfVa ea] s with
      | (.fault f, s1) => recordFault t f s1
      | (.pas ps, s1) => loadStart t (.half l.gt (halfSel ea)) [ps] [halfVa ea] (updList u) 2 none s1
    else illegal t s) s)

/-- STH (R92, R482). -/
def execSth (t : TineNo) (l : LS) (s : State) : Res :=
  .next (issue t (.sth t l) (fun s =>
    if lsOk l then
      let (ea, u) := lsEa s t l
      match xlatWords t { store := true, half := true } [halfVa ea] s with
      | (.fault f, s1) => recordFault t f s1
      | (.pas ps, s1) =>
        storeStart t [stEnt s1 t (ps.headD 0) (.half (halfSel ea) ((getG s1 t l.gt).extractLsb' 0 20))] (updList u) 2 none s1
    else illegal t s) s)

/-! ## Double words (R124–R126) -/

/-- The halves of a double-word access after their checks. -/
inductive DOut where
  | fault (f : FaultRec)
  /-- the first half stands and the second faults -/
  | second (pa : Nat) (f : FaultRec)
  | both (a b : Nat)
  deriving DecidableEq, Repr

/-- A word lies in a register page. -/
def inPage (pa : Nat) : Bool := match regionOf pa with | .page _ _ => true | _ => false

/-- The SPLIT_PAGE fault of a split access at `x`. -/
def splitFault (x : Nat) : FaultRec := accessFault 0x07 8 x 0 false

/-- Check both halves of a double-word access at virtual address `x` (R124). A first word that fails another check is reported
with that check's sub-cause, wherever the second lies (assumption 138). -/
def dwordCheck (t : TineNo) (store : Bool) (x : Nat) (s : State) : DOut × State :=
  let split := decide (x % 2 = 1)
  match xlatWords t { store := store, split := split } [x] s with
  | (.fault f, s1) => (.fault f, s1)
  | (.pas l1, s1) =>
    let a := l1.headD 0
    match xlatWords t { store := store, split := split } [vaPlus x 1] s1 with
    | (.fault f, s2) =>
      if !split then (.fault f, s2)
      else if f.cause = 0x07 ∧ f.sub = 8 then (.fault (splitFault x), s2)
      else (.second a { f with half := true }, s2)
    | (.pas l2, s2) => (.both a (l2.headD 0), s2)

/-- An LDD or STD may issue; with HALFDONE set an even address is illegal and keeps it (R154). -/
def issueDword (t : Nat) (i : Instr) (x : Nat) (f : Bool → State → State) (s : State) : State :=
  if !canIssue s t then (if canQueue s t i then enqueue t i s else s)
  else if (tineAt s t).halfdone then
    (if x % 2 = 0 then recordFault t { instrFault 0x01 (fetchAt s t (tineAt s t).pc) with half := true } s else f true s)
  else f false s

/-- The fields of an LDD or STD are legal (R98, R124). -/
def dwordOk (l : LS) (load : Bool) : Bool :=
  decide (l.gt.val % 2 = 0) && lsOk l &&
    (!load || (decide (l.ga.val / 2 ≠ l.gt.val / 2) &&
      (decide (l.mode.toNat ≠ 4) || decide ((lsGb l).val / 2 ≠ l.gt.val / 2))))

/-- The register after Gt. -/
def gtNext (l : LS) : Gr := Fin.ofNat 32 (l.gt.val + 1)

/-- LDD (R124–R126). -/
def execLdd (t : TineNo) (l : LS) (s : State) : Res :=
  .next (
    let (ea, u) := lsEa s t l
    let x := wordVa ea
    issueDword t (.ldd t l) x (fun second s =>
      if !dwordOk l true then illegal t s
      else if second then
        match xlatWords t { store := false, split := true } [vaPlus x 1] s with
        | (.fault f, s1) => recordFault t { f with half := true } s1
        | (.pas ps, s1) => loadStart t (.dblSecond l.gt) [ps] [vaPlus x 1] (updList u) 2 none s1
      else
        match dwordCheck t false x s with
        | (.fault f, s1) => recordFault t f s1
        | (.second a f, s1) => loadStart t (.dblFirst l.gt) [[a]] [x] [] 2 (some f) s1
        | (.both a b, s1) => loadStart t (.dbl l.gt) [[a, b]] [x, vaPlus x 1] (updList u) 2 none s1) s)

/-- STD (R124–R126). -/
def execStd (t : TineNo) (l : LS) (s : State) : Res :=
  .next (
    let (ea, u) := lsEa s t l
    let x := wordVa ea
    issueDword t (.std t l) x (fun second s =>
      let lo := getG s t l.gt
      let hi := getG s t (gtNext l)
      if !dwordOk l false then illegal t s
      else if second then
        match xlatWords t { store := true, split := true } [vaPlus x 1] s with
        | (.fault f, s1) => recordFault t { f with half := true } s1
        | (.pas ps, s1) => storeStart t [stEnt s1 t (ps.headD 0) (.word hi)] (updList u) 2 none s1
      else
        match dwordCheck t true x s with
        | (.fault f, s1) => recordFault t f s1
        | (.second a f, s1) => storeStart t [stEnt s1 t a (.word lo)] [] 2 (some f) s1
        | (.both a b, s1) =>
          if x % 2 = 1 then
            storeStart t [stEnt s1 t a (.word lo), stEnt s1 t b (.word hi)] (updList u) 2 none s1
          else storeGo t [stEnt s1 t a (.dbl lo hi)] (updList u) 2 s1) s)

/-! ## SWAP, images, MACM -/

/-- SWAP (R122, R184). -/
def execSwap (t : TineNo) (l : LS) (s : State) : Res :=
  .next (issue t (.swap t l) (fun s =>
    if lsOk l then
      let (ea, u) := lsEa s t l
      match xlatWords t { store := true, swap := true } [wordVa ea] s with
      | (.fault f, s1) => recordFault t f s1
      | (.pas ps, s1) => loadStart t (.swap l.gt (getG s1 t l.gt)) [ps] [wordVa ea] (updList u) 2 none s1
    else illegal t s) s)

/-- The three virtual words of an image at `ea`. -/
def imageVas (ea : Word) : List Nat := [wordVa ea, vaPlus (wordVa ea) 1, vaPlus (wordVa ea) 2]

/-- SVA and RSA: the Gt field holds An, its upper bits zero (Table 4-11). -/
def imageOk (l : LS) : Bool := lsOk l && decide (l.gt.val < 4)

/-- SVA (R37, R120). -/
def execSva (t : TineNo) (l : LS) (s : State) : Res :=
  .next (issue t (.sva t l) (fun s =>
    if imageOk l then
      let (ea, u) := lsEa s t l
      match xlatWords t { store := true } (imageVas ea) s with
      | (.fault f, s1) => recordFault t f s1
      | (.pas ps, s1) =>
        let ws := accImage (getAcc s1 t l.gt.val)
        let p (i : Nat) : Nat := (ps[i]?).getD 0
        let w (i : Nat) : Word := (ws[i]?).getD 0
        let ents :=
          if wordVa ea % 2 = 0 then [stEnt s1 t (p 0) (.dbl (w 0) (w 1)), stEnt s1 t (p 2) (.word (w 2))]
          else [stEnt s1 t (p 0) (.word (w 0)), stEnt s1 t (p 1) (.dbl (w 1) (w 2))]
        storeGo t ents (updList u) 2 s1
    else illegal t s) s)

/-- RSA (R37). -/
def execRsa (t : TineNo) (l : LS) (s : State) : Res :=
  .next (issue t (.rsa t l) (fun s =>
    if imageOk l then
      let (ea, u) := lsEa s t l
      match xlatWords t { store := false } (imageVas ea) s with
      | (.fault f, s1) => recordFault t f s1
      | (.pas ps, s1) => loadStart t (.image (Fin.ofNat 4 l.gt.val)) [ps] (imageVas ea) (updList u) 2 none s1
    else illegal t s) s)

/-- MACM (R99). -/
def execMacm (t : TineNo) (op : MacOp) (fp : BitVec 2) (an : Ar) (ga gb : Gr) (mj mk : Fin 8) (s : State) : Res :=
  .next (issue t (.macm t op fp an ga gb mj mk) (fun s =>
    if ga = gb ∨ op = .absent then illegal t s
    else
      let a := getG s t ga
      let b := getG s t gb
      match xlatWords t { store := false } [wordVa a, wordVa b] s with
      | (.fault f, s1) => recordFault t f s1
      | (.pas ps, s1) =>
        loadStart t (.macm op fp an) (ps.map fun p => [p]) [wordVa a, wordVa b]
          [(ga, circStep a 1 (reg s (pgTine t) (oM mj.val))), (gb, circStep b 1 (reg s (pgTine t) (oM mk.val)))] 2 none s1) s)

/-! ## Hoppers (R100, R252–R257) -/

/-- HPOP (R252). -/
def execHpop (t : TineNo) (f : HopForm) (s : State) : Res :=
  .next (issue t (.hpop t f) (fun s =>
    let h := hopNo s t f
    match hopFault s t h true with
    | some x => recordFault t x s
    | none =>
      if domHeld s domTrel then s
      else
        let (w, s1) := hopPop h (logOf s t) s
        retire t (hopLen f) (setG t (hopG f) w s1)) s)

/-- A push of a tine: accepted or dropped it retires; at a full hopper it ends any cloche and waits (R100). -/
def tinePush (t : Nat) (h : Nat) (item : Word) (len : Nat) (s : State) : State :=
  match hopOffer h item s with
  | (.full, _) =>
    if (tineAt s t).flight.isSome then s
    else
      haltHeld t (sieveUpdate t (modTine t (fun x => { x with flight := some (.hpush item h len) })
        (setReg (pgTine t) oCLOCHE 0 s)))
  | (_, s1) => retire t len s1

/-- HPUSH (R100, R252). -/
def execHpush (t : TineNo) (f : HopForm) (s : State) : Res :=
  .next (issue t (.hpush t f) (fun s =>
    let h := hopNo s t f
    match hopFault s t h false with
    | some x => recordFault t x s
    | none => if domHeld s domTrel then s else tinePush t h (getG s t (hopG f)) (hopLen f) s) s)

/-- A waiting push meets a hopper with room (R100); not once a failed drain is to be taken, which abandons it (R123). -/
def pushAgain (t : TineNo) (s : State) : State :=
  match (tineAt s t).flight with
  | some (.hpush item h len) =>
    match hopFault s t h false with
    | some x => loadFault t x (alive t s)
    | none => if domHeld s domTrel || !(tineAt s t).drain.isEmpty then s else tinePush t h item len s
  | _ => s

/-- FENCE (R122). -/
def execFence (t : TineNo) (s : State) : Res :=
  .next (issue t (.fence t) (fun s =>
    if (tineAt s t).sb.isEmpty then retire t 1 s
    else modTine t (fun x => { x with flight := some .fence }) s) s)

end Sys2Proof.Machine
end

