-- ==== Sys2Proof/Machine/TrchExec.lean ====
section
/-! DEFINITION. The accesses of Trellis channels and the elements of a MOVE: reads and writes with their replay, the
descriptor checks, conversion, and what the outcome of an outstanding write does (R205, R209, R210, R220, R233–R248, R486). -/

namespace Sys2Proof.Machine

/-! ## Accesses (R197, R210, R243, R244) -/

/-- What an access of a channel meets. -/
inductive ChRead where
  | word (w : Word) (pa : Nat)
  /-- it waits: for a write of the channel's own, a held domain, or an answer from the chain -/
  | wait
  | fault (cause sub : Nat)
  | bus
  deriving DecidableEq, Repr

/-- Physical words that a write covers, by their direct addresses (R27). -/
def writeWords (x : ChWrite) : List Nat :=
  match x.data with
  | .dbl _ _ => [x.pa, x.pa + 1]
  | .run ws => (List.range ws.length).map fun i => x.pa + i
  | _ => [x.pa]

/-- An outstanding write of the channel still has to reach a word (R210, R240). -/
def ownWrite? (s : State) (c pa : Nat) : Bool := (chanAt s c).outst.any fun x => (writeWords x).contains pa

/-- Who a channel is to memory. -/
def chWho (c : Nat) : Who := .channel (Fin.ofNat 128 c)

/-- One read of a channel; an address in its own window is the direct one (R27). -/
def chRead (c va : Nat) (up : Upset) (fetch : Bool) (s : State) : ChRead × State :=
  match chanXlat c va { store := false } fetch s with
  | (.fault cs sb _, s1) => (.fault cs sb, s1)
  | (.pa a0, s1) =>
    let a := ownPa s1 a0
    if ownWrite? s1 c a then (.wait, s1)
    else if up = .bus then (.bus, chForget c s1)
    else if physWaits s1 (chWho c) a then
      (.wait, if s1.chainTags.any (fun e => decide (e.2.1 = 0x100 + c)) then s1 else physAsk (chWho c) a s1)
    else match physRead (chWho c) a up s1 with
      | (.word w, s2) => (.word w a, s2)
      | (.ue, s2) => (.fault 0x0B (if fetch then 2 else 1), s2)
      | (.bus, s2) | (.lost, s2) => (.bus, s2)
      | (.hold, s2) => (.wait, s2)
      | (.dormant, s2) => (.fault 0x07 5, s2)

/-- REPLAY_MAX for the access under way: as the current command found it, or as it stands for the fetch of the next (R228). -/
def replayMax (s : State) (c : Nat) : Nat :=
  if (chanAt s c).phase = .next then chF s c 2 5 8 else getF (chanAt s c).cfg 5 8

/-- Count a persistent bus error (Table 10-5). -/
def persistCount (s : State) : State := bumpF pgTrel 0x032 16 16 1 s

/-- Count a replay of the current command: in its status half, in the MOVE's journal, and in TREL_REPLAY_CNT (R244). -/
def replayCount (c : Nat) (s : State) : State :=
  bumpF pgTrel 0x032 0 16 1 (modChan c (fun x => { x with
    replays := satAdd 255 x.replays 1
    phase := match x.phase with
      | .move m => .move { m with replays := satAdd 255 m.replays 1 }
      | .desc b ws r => .desc b ws (satAdd 255 r 1)
      | p => p }) s)

/-- Count a replay of an outstanding write for the command that made it: the current one, a MOVE that is over, or none whose
status half is still to be written (R244). -/
def replayWrite (c : Nat) (w : ChWrite) (s : State) : State :=
  if w.kind < 3 then replayCount c s
  else
    bumpF pgTrel 0x032 0 16 1 (modChan c (fun x => { x with
      ended := x.ended.map fun e =>
        if w.kind = 4 ∧ e.mv = w.mv then
          { e with replays := satAdd 255 e.replays 1
                   journal := { e.journal with replays := satAdd 255 e.journal.replays 1 } }
        else e
      journal := if w.kind = 4 ∧ x.journal.mv = w.mv ∧ x.journal.mv ≠ 0 then
          { x.journal with replays := satAdd 255 x.journal.replays 1 }
        else x.journal }) s)

/-- An attempt of the access under way met a bus error: it waits for its replay, or the error is persistent (R244). -/
def busTry (c : Nat) (s : State) : Bool × State :=
  if (chanAt s c).tries < replayMax s c then
    (false, modChan c (fun x => { x with tries := x.tries + 1, retry := true }) s)
  else (true, persistCount (modChan c (fun x => { x with tries := 0, retry := false }) s))

/-- The channel can make a step: it runs, its domain is up, and its access under way awaits no replay. -/
def chRuns (s : State) (c : Nat) : Bool :=
  domUp s domTrel && decide (chState s c = 1) && !(chanAt s c).retry

/-! ## The fetch (R205, R208, R209) -/

/-- Bits lo to lo + len − 1 of a command. -/
def cf (cmd lo len : Nat) : Nat := cmd / 2 ^ lo % 2 ^ len

/-- Operand bits of a command that its layout names, from bit 8, as (lo, len) of its zero fields (R208, R213–R223, R233). -/
def mustZero (cmd : Nat) : List (Nat × Nat) :=
  match cf cmd 0 5 with
  | 0x00 | 0x03 => [(8, 52)]
  | 0x01 | 0x0A => [(8, 4), (44, 16)]
  | 0x02 => [(32, 28)]
  | 0x05 =>
    match cf cmd 8 3 with
    | 0 => [(59, 1)]
    | 1 => [(29, 31)]
    | 2 => [(26, 34)]
    | _ => []
  | 0x06 => [(50, 10)]
  | 0x07 => [(16, 44)]
  | 0x08 => [(8, 1), (16, 44)]
  | 0x09 => [(40, 20)]
  | 0x0B => [(55, 5)]
  | _ => []

/-- The program error of a fetched command that its form alone shows, 0 for none (Table 9-4). -/
def formErr (ring : Bool) (cmd : Nat) : Nat :=
  let op := cf cmd 0 5
  if 0x0B < op then 1
  else if cf cmd 7 1 ≠ 0 ∨ (mustZero cmd).any (fun f => decide (cf cmd f.1 f.2 ≠ 0)) then 2
  else if ring ∧ (op = 2 ∨ op = 3 ∨ op = 0x0A) then 5
  else if op = 5 ∧ 2 < cf cmd 8 3 then 7
  else 0

/-- A command that its ST marks BAD is passed over (R209). -/
def chSkipBad (c : Nat) (s : State) : State :=
  chFinish c (setStat c 12 false (modChan c (fun x => { x with w0 := 0, nextPc := walkNext (cmd12 s c) (chCpc s c) }) s))

/-- A fetched command. -/
def chGot (c : Nat) (w0 w1 : Word) (s : State) : State :=
  let s1 := fltClear c s
  if getF w1 20 2 = 2 ∧ !bit (chR s c 2) 3 then chSkipBad c s1
  else
    let cfg := chR s c 2
    let s2 := modChan c (fun x => { x with
      phase := .got w0 w1, w0 := w0, nextPc := walkNext (cmd12 s c) (chCpc s c), cfg := cfg }) s1
    let e := formErr (chRing s c) (w0.toNat + 2 ^ 40 * w1.toNat)
    if e = 0 then s2 else progErr c e s2

/-- A fetch fails (R205); its replays count for no command. -/
def fetchFail (c cause sub va : Nat) (s : State) : State :=
  chError c (accJournal (chCpc s c) false cause sub va) (modChan c (fun x => { x with replays := 0 }) s)

/-- A fetch attempt met a bus error. -/
def fetchBus (c va : Nat) (s : State) : State :=
  match busTry c s with
  | (true, s1) => fetchFail c 0 0 va s1
  | (false, s1) => s1

/-- Fetch the command at CPC (R205). -/
def chFetch (c : Nat) (up0 up1 : Upset) (s : State) : State :=
  let a := chCpc s c
  if !slotOk (cmd12 s c) a ∨ (chRing s c ∧ !slotOk (cmd12 s c) (chanAt s c).base) then progErr c 6 s
  else match chRead c a up0 true s with
    | (.wait, s1) => s1
    | (.fault cs sb, s1) => fetchFail c cs sb a s1
    | (.bus, s1) => fetchBus c a s1
    | (.word w0 _, s1) =>
      match chRead c (a + 1) up1 true s1 with
      | (.wait, s2) => s2
      | (.fault cs sb, s2) => fetchFail c cs sb (a + 1) s2
      | (.bus, s2) => fetchBus c (a + 1) s2
      | (.word w1 _, s2) => chGot c w0 w1 s2

/-- The channel is ready to fetch (R209, R210). -/
def fetchReady (s : State) (c : Nat) : Bool :=
  decide ((chanAt s c).phase = .next) && (!(chanAt s c).bar || (chanAt s c).outst.isEmpty)

/-! ## Targets (R137, R202, R258, Table 9-5) -/

/-- A channel of the Open world meets a Walled-owned target. -/
def worldBad (s : State) (c : Nat) (walled : Bool) : Bool := walled && !chWalled s c

/-- The BAD cause of a command that names hopper `h`, 0 for none. -/
def hopBad (s : State) (c h : Nat) : Nat :=
  if 254 ≤ h ∧ c ≠ 127 then 4
  else if worldBad s c (regB s (pgHop h) (hopBase h + 2) 0) then 2 else 0

/-- The BAD cause of a command that names channel `t`. -/
def chanBad (s : State) (c t : Nat) : Nat :=
  if t = 127 ∧ c ≠ 127 then 4 else if worldBad s c (chWalled s t) then 2 else 0

/-- The page whose owner is a unit's owner: ROWP for cells, HOE for Hoes, ROWC for engines. -/
def unitPage (r u : Nat) : Nat := if u < 128 then pgRowp r else if u < 160 then pgHoe r else pgRowc r

/-- The BAD cause of a command that names a unit of a row. -/
def unitBad (s : State) (c r u : Nat) : Nat :=
  if !domUp s (domRow r) then 3 else if worldBad s c (regB s (unitPage r u) 7 0) then 2 else 0

/-! ## Descriptors (R234, R236, R238, R239) -/

/-- A must-be-0 bit of one side is set, those of R238 included. -/
def sideMbz (m : Move) (side : Nat) : Bool :=
  let w := descW m side 0
  decide (getF w 38 2 ≠ 0) || decide (getF (descW m side 1) 36 4 ≠ 0) ||
    (match getF w 32 2 with
     | 1 => bit w 37 || decide (getF w 10 22 ≠ 0) || decide (getF (descW m side 1) 0 20 ≠ 0) ||
              decide (getF (descW m side 2) 0 24 ≠ 0)
     | 2 => bit w 37 || decide (getF w 7 25 ≠ 0) || decide (getF (descW m side 1) 0 20 ≠ 0) ||
              decide (getF (descW m side 2) 0 24 ≠ 0)
     | _ => false)

/-- A side has an unlisted value or an excluded combination. -/
def sideRange (m : Move) (side : Nat) : Bool :=
  let w := descW m side 0
  decide (5 < getF w 34 3) ||
    (match getF w 32 2 with
     | 0 => bit w 37 && decide (getF (descW m side 1) 0 20 ≠ 1)
     | 1 => decide (160 ≤ getF w 2 8) || (decide (side = 0) && decide (128 ≤ getF w 2 8))
     | 2 => false
     | _ => true)

/-- The conversion has an unlisted value or an excluded combination. -/
def convRange (m : Move) : Bool :=
  let w := descW m 6 0
  let ws := sideW m 0
  let shift := sx 7 (getF w 1 7)
  let swap := getF w 8 2
  decide (shift < -40) || decide (39 < shift) || decide (swap = 3) || bit w 11 ||
    (decide (swap = 1) && (decide (ws = 8) || decide (ws = 20))) || (decide (swap = 2) && decide (ws < 32)) ||
    (bit w 10 && (decide (20 < ws) || decide (sideW m 3 ≠ 8) || decide (getF w 0 10 ≠ 0) ||
      decide (sideLlen m 0 * sideLines m 0 % 8 ≠ 0)))

/-- The program error of a descriptor, 0 for none: MBZ, then RANGE, then ZERO (R234). -/
def descErr (m : Move) : Nat :=
  if sideMbz m 0 || sideMbz m 3 || decide (getF (descW m 6 0) 12 28 ≠ 0) || decide (descW m 7 0 ≠ 0) then 2
  else if sideRange m 0 || sideRange m 3 || convRange m then 7
  else if sideLlen m 0 = 0 ∨ sideLines m 0 = 0 ∨ sideLlen m 3 = 0 ∨ sideLines m 3 = 0 then 8
  else 0

/-- A MOVE that is about to begin. -/
def Move.start (desc : List Word) (replays : Nat) : Move :=
  { desc := desc, made := 0, dstEl := 0, dstLine := 0, words := [], dval := 0, dbits := 0, sval := 0, sbits := 0, spa := 0,
    bad := false, replays := replays }

/-! ## Walks (R235, R236) -/

/-- The virtual address of line `l`, place or word `e`, of a memory side. -/
def sideAddr (m : Move) (side l e : Nat) : Nat :=
  let step : Int := if sidePack m side then 1 else sx 20 (getF (descW m side 1) 0 20)
  modI 32 ((getF (descW m side 0) 0 32 : Int) + l * sx 24 (getF (descW m side 2) 0 24) + e * step)

/-- Words of one destination line: places, or packed words. -/
def dstLineWords (m : Move) : Nat :=
  if sidePack m 3 then (sideLlen m 3 * sideW m 3 + 39) / 40 else sideLlen m 3

/-- The oldest held word has been written. -/
def dstNext (m : Move) : Move :=
  let e := m.dstEl + 1
  let m1 := { m with words := m.words.drop 1 }
  if e < dstLineWords m then { m1 with dstEl := e }
  else { m1 with dstEl := 0, dstLine := if m.dstLine + 1 < sideLines m 3 then m.dstLine + 1 else 0 }

/-! ## Conversion (R237, R239) -/

/-- The bytes of a w-bit element in reverse order. -/
def byteSwap (w e : Nat) : Nat := beBytes (toLe (w / 8) e)

/-- One element converted. -/
def convElem (m : Move) (e0 : Nat) : Nat :=
  let c := descW m 6 0
  let ws := sideW m 0
  let e := match getF c 8 2 with
    | 1 => byteSwap ws e0
    | 2 => e0 % 2 ^ (ws / 2) * 2 ^ (ws / 2) + e0 / 2 ^ (ws / 2)
    | _ => e0
  let x : Int := if bit c 0 then sx ws e else e
  let k := sx 7 (getF c 1 7)
  let y : Int := if 0 ≤ k then x * 2 ^ k.toNat else x / 2 ^ (-k).toNat
  modI (sideW m 3) y

/-- Bit plane `b` of a TRANS8 group. -/
def transPlane (ws group b : Nat) : Nat :=
  (List.range 8).foldl (fun acc i => acc + 2 ^ i * (group / 2 ^ (ws * i + b) % 2)) 0

/-- Source data for a conversion is held. -/
def canConvert (m : Move) : Bool := decide ((if isTrans m then 8 * sideW m 0 else sideW m 0) ≤ m.sbits)

/-- An unpacked destination word of value `d` (R237). -/
def dstWord (m : Move) (d : Nat) : Word :=
  let w := sideW m 3
  if bit (descW m 6 0) 0 then BitVec.ofInt 40 (sx w d) else wd d

/-- The packed bits held are taken as a word, whole or with zeros above. -/
def packFlush (m : Move) : Move :=
  if m.dbits = 0 then m else { m with words := m.words ++ [wd (m.dval % 2 ^ 40)], dval := m.dval / 2 ^ 40, dbits := m.dbits - 40 }

/-- A destination element is made (R235–R237). -/
def emitElem (d : Nat) (m : Move) : Move :=
  let m1 := { m with made := m.made + 1 }
  if !sidePack m 3 then { m1 with words := m.words ++ [dstWord m d] }
  else
    let m2 := { m1 with dval := m.dval + d * 2 ^ m.dbits, dbits := m.dbits + sideW m 3 }
    let m3 := if 40 ≤ m2.dbits then packFlush m2 else m2
    if m.made % sideLlen m 3 + 1 = sideLlen m 3 ∨ m1.made = dstCount m then packFlush m3 else m3

/-- Convert one element, or one bit plane of a TRANS8 group (R239). -/
def convOne (m : Move) : Move :=
  let ws := sideW m 0
  if isTrans m then
    let b := m.made % ws
    let m1 := emitElem (transPlane ws m.sval b) m
    if b + 1 = ws then { m1 with sval := m.sval / 2 ^ (8 * ws), sbits := m.sbits - 8 * ws } else m1
  else
    emitElem (convElem m (m.sval % 2 ^ ws)) { m with sval := m.sval / 2 ^ ws, sbits := m.sbits - ws }

/-- A source word is taken in (R236, R237). -/
def takeWord (w : Word) (pa : Nat) (m : Move) : Move :=
  let ws := sideW m 0
  if sidePack m 0 then
    let off := srcBits m % (sideLlen m 0 * ws)
    let skip := off % 40
    let n := min 40 (sideLlen m 0 * ws - off / 40 * 40) - skip
    { m with sval := m.sval + getF w skip n * 2 ^ m.sbits, sbits := m.sbits + n, spa := pa }
  else { m with sval := m.sval + getF w 0 ws * 2 ^ m.sbits, sbits := m.sbits + ws, spa := pa }

/-- A write reached the packed source word that is held in part: later elements read it again (R240). -/
def rereadSource (pa : Nat) (m : Move) : Move :=
  if sideSpace m 0 = 0 ∧ sidePack m 0 ∧ pa = m.spa then
    let keep := if isTrans m ∧ m.made % sideW m 0 ≠ 0 then min m.sbits (8 * sideW m 0) else 0
    { m with sval := m.sval % 2 ^ keep, sbits := keep }
  else m

/-! ## The end of a MOVE and its errors (R245, R246) -/

/-- Write the journal at an element boundary (R248). -/
def journalNow (c : Nat) (m : Move) (s : State) : State :=
  let cpc := chCpc s c
  modChan c (fun x => { x with
    phase := .move m, journal := moveJournal cpc x.mv m false 0 0 0 0, tries := 0, retry := false }) s

/-- A persistent bus error on an element; a second one in the same MOVE changes nothing more (R246). -/
def movePersist (c side va : Nat) (m : Move) (s0 : State) : State :=
  let s := unhold c s0
  let cpc := chCpc s c
  moveEnd c (if m.bad then s else modChan c (fun x => { x with
    phase := .move { m with bad := true }, journal := moveJournal cpc x.mv m false side 0 0 va }) s)

/-- An attempt of an element's access met a bus error. -/
def moveBus (c side va : Nat) (m : Move) (s : State) : State :=
  match busTry c s with
  | (true, s1) => movePersist c side va m s1
  | (false, s1) => setPhase c (.move m) s1

/-- An element boundary: the journal, the end of the MOVE, or a pending suspend (R225, R245). -/
def moveBoundary (c : Nat) (m : Move) (s : State) : State :=
  let s1 := journalNow c m s
  if moveOver m && !(bit (chanAt s c).w0 5 && (chanAt s c).outst.any fun x => decide (x.kind = 0)) then moveEnd c s1
  else chBoundary c s1

/-! ## Destination words (R236, R238, R240, R241, R485) -/

/-- The BAD cause of a unit or stream side, 0 for none (R238). -/
def sideBad (s : State) (c : Nat) (m : Move) (side : Nat) : Nat :=
  let w := descW m side 0
  match getF w 32 2 with
  | 1 =>
    let r := getF w 0 2
    let u := getF w 2 8
    match unitBad s c r u with
    | 0 => if 128 ≤ u then 0 else if (if side = 0 then funcIn (cFunc s r u) else funcOut (cFunc s r u)) then 0 else 6
    | k => k
  | 2 =>
    if !domUp s domLink then 3
    else if worldBad s c (bit (strmCfg s (getF w 0 1) (side ≠ 0) (getF w 1 6)) 1) then 2 else 0
  | _ => 0

/-- A write of the MOVE that covers part of a half-trug is outstanding (R241). -/
def partOut (s : State) (c : Nat) : Bool :=
  (chanAt s c).outst.any fun x => decide (x.kind = 0) && (match x.data with
    | .run ws => decide (ws.length < 6)
    | _ => false)

/-- A word for address `a` continues the MOVE's latest write inside one half-trug, of which no attempt has failed. -/
def runOn (s : State) (c a : Nat) : Bool :=
  match (chanAt s c).outst.getLast? with
  | some x => decide (x.kind = 0) && decide (x.tries = 0) && decide (x.held = 0) && (match x.data with
      | .run ws => decide (a = x.pa + ws.length) && decide (eccAddr a = eccAddr x.pa)
      | _ => false)
  | none => false

/-- Add a word to the latest outstanding write. -/
def runAdd (c : Nat) (w : Word) (s : State) : State :=
  modChan c (fun x => { x with
    outst := match x.outst.getLast? with
      | some y => x.outst.dropLast ++ [{ y with data := .run (runWords y.data ++ [w]) }]
      | none => x.outst }) s

/-- How the writing of held words ended. -/
inductive Flush where
  /-- all written -/
  | done
  /-- the oldest waits: nothing more happens now -/
  | hold
  /-- an error has been dealt with -/
  | stop
  deriving DecidableEq, Repr

/-- An access under way has succeeded: the next one has all its attempts (R244). -/
def accessOver (c : Nat) (s : State) : State := modChan c (fun x => { x with tries := 0, retry := false }) s

/-- Issue one destination word to memory: words of one DRAM half-trug in rising order go out as one write, and nothing else
while a write of part of a half-trug is outstanding (R189, R241). -/
def putMem (c va : Nat) (w : Word) (up : Upset) (m : Move) (s : State) : Flush × Move × State :=
  match chanXlat c va { store := true } false s with
  | (.fault cs sb _, s1) => (.stop, m, moveError c 1 cs sb va m s1)
  | (.pa a0, s1) =>
    let a := ownPa s1 a0
    if runOn s1 c a then (.done, dstNext (rereadSource a m), runAdd c w s1)
    else if partOut s1 c then (.hold, m, s1)
    else match regionOf a with
      | .page _ _ =>
        if up = .bus then (.stop, m, moveBus c 1 va m s1)
        else match physWrite (chWho c) 0 a (.word w) .ok s1 with
          | (.withheld u item, s2) =>
            (.hold, m, if s2.withheld.any (fun e => decide (e.1 = .chan (Fin.ofNat 128 c))) then s2
                       else { s2 with withheld := s2.withheld ++ [(.chan (Fin.ofNat 128 c), mboxNo u, item)] })
          | (.hold, s2) => (.hold, m, s2)
          | (.dormant, s2) => (.stop, m, moveError c 1 0x07 5 va m s2)
          | (_, s2) => (.done, dstNext m, accessOver c (unhold c s2))
      | _ =>
        (.done, dstNext (rereadSource a m),
          chIssue c (chWriteNew s1 c 0 va a m.dstEl m.dstLine (if memCode a = 4 then .run [w] else .word w)) s1)

/-- The change of a unit's or stream's FIFO by a MOVE that moves word `w`: a unit's raises the routes of its row, and a stream's word
is a value of its gauges (R287, R437). -/
def sideTransfer (d : Word) (talk : Bool) (w : Word) (f : State → State) (s : State) : State :=
  if getF d 32 2 = 1 then withRow (getF d 0 2) f s
  else gaugeTake 1 (strmSrc (getF d 0 1) talk (getF d 1 6)) (sw w / 256) false (f s)

/-- Put one destination word into a unit or stream FIFO, with the upset that the transfer meets (R238, R243). -/
def putFifo (c : Nat) (w : Word) (up : Upset) (m : Move) (s : State) : Flush × Move × State :=
  let d := descW m 3 0
  let (k, depth) := sideFifo s d false
  if depth ≤ (fifoAt s k).length then (.hold, m, s)
  else if up = .bus then (.stop, m, moveBus c 1 (getF d 0 32) m s)
  else (.done, dstNext m, accessOver c (sideTransfer d true w (fun s => setFifo k (fifoAt s k ++ [w]) s) s))

/-- Write the words held, oldest first. -/
def flushWords (c : Nat) (up : Upset) (ws : List Word) (m : Move) (s : State) : Flush × Move × State :=
  match ws with
  | [] => (.done, m, s)
  | w :: rest =>
    match (if sideSpace m 3 = 0 then putMem c (sideAddr m 3 m.dstLine m.dstEl) w up m s else putFifo c w up m s) with
    | (.done, m1, s1) => flushWords c up rest m1 s1
    | x => x

/-- Convert what one step converts and write it: one element, or the bit planes of a TRANS8 group. -/
def convFlush (fuel c : Nat) (up : Upset) (m : Move) (s : State) : Flush × Move × State :=
  match fuel with
  | 0 => (.done, m, s)
  | n + 1 =>
    let m1 := convOne m
    match flushWords c up m1.words m1 s with
    | (.done, m2, s2) =>
      if isTrans m ∧ m1.made % sideW m 0 ≠ 0 then convFlush n c up m2 s2 else (.done, m2, s2)
    | x => x

/-- After the words of a step. -/
def afterFlush (c : Nat) (r : Flush × Move × State) : State :=
  match r with
  | (.stop, _, s) => s
  | (_, m, s) => moveBoundary c m s

/-! ## Source words (R235, R238) -/

/-- A destination FIFO has no room for a further element: it holds the element, and nothing is taken (R238). -/
def dstFull (s : State) (m : Move) : Bool :=
  decide (sideSpace m 3 ≠ 0) &&
    (let (k, depth) := sideFifo s (descW m 3 0) false
     decide (depth ≤ (fifoAt s k).length))

/-- A source word has come. -/
def tookWord (c : Nat) (w : Word) (pa : Nat) (wup : Upset) (m : Move) (s0 : State) : State :=
  let s := accessOver c s0
  let m1 := takeWord w pa m
  if canConvert m1 then afterFlush c (convFlush 20 c wup m1 s) else moveBoundary c m1 s

/-- Read the next source word. -/
def moveRead (c : Nat) (up wup : Upset) (m : Move) (s : State) : State :=
  if sideSpace m 0 = 0 then
    let (l, e) := srcPos m
    let va := sideAddr m 0 l e
    match chRead c va up false s with
    | (.word w pa, s1) => tookWord c w pa wup m s1
    | (.wait, s1) => s1
    | (.fault cs sb, s1) => moveError c 0 cs sb va m s1
    | (.bus, s1) => moveBus c 0 va m s1
  else
    let d := descW m 0 0
    let (k, _) := sideFifo s d true
    match fifoAt s k with
    | [] => s
    | w :: rest =>
      if up = .bus then moveBus c 0 (getF d 0 32) m s
      else
        tookWord c w 0 wup m (sideTransfer d false w (setFifo k rest) s)

/-- A unit or stream side whose domain holds accesses (R390). -/
def sideHeld (s : State) (m : Move) (side : Nat) : Bool :=
  let w := descW m side 0
  match getF w 32 2 with
  | 1 => domHeld s (domRow (getF w 0 2))
  | 2 => domHeld s domLink
  | _ => false

/-- A unit refuses: the MOVE is BAD and over, and the writes it has issued go on to their own outcomes (R238). -/
def moveRefused (c cause : Nat) (s : State) : State := chBad c cause (moveLeave c false true s)

/-- One step of a MOVE (R240): a held word is written first; else an element held is converted, or one is read. -/
def moveStep (c : Nat) (up wup : Upset) (m : Move) (s : State) : State :=
  if m.bad ∨ moveOver m ∨ sideHeld s m 0 ∨ sideHeld s m 3 ∨ (chanAt s c).outst.any (fun x => decide (x.held = 2)) then s
  else match sideBad s c m 0, sideBad s c m 3 with
    | 0, 0 =>
      if !m.words.isEmpty then
        (match flushWords c wup m.words m s with
         | (.hold, m1, s1) =>
           if m1.words.length < m.words.length then chBoundary c (journalNow c m1 s1)
           else chBoundary c (setPhase c (.move m1) s1)
         | r => afterFlush c r)
      else if dstFull s m then s
      else if canConvert m then afterFlush c (convFlush 20 c wup m s)
      else moveRead c up wup m s
    | 0, k => moveRefused c k s
    | k, _ => moveRefused c k s

/-! ## Descriptor reads (R233, R247) -/

/-- The descriptor is read: the MOVE begins, or is a program error. -/
def descDone (c : Nat) (ws : List Word) (r : Nat) (s : State) : State :=
  let m := Move.start ws r
  match descErr m with
  | 0 => chBoundary c (journalNow c m s)
  | e => progErr c e s

/-- A memory fault or an uncorrectable error on a descriptor word: it is read again from its first word. -/
def descError (c base r cause sub va : Nat) (s : State) : State :=
  let cpc := chCpc s c
  let mv := (chanAt s c).mv
  chError c { Journal.reset with mv := mv, cmd := cpc, valid := true, flt := true, replays := r, fside := 2, fcause := cause,
                                 fsub := sub, faddr := va } (setPhase c (.desc base [] r) s)

/-- A persistent bus error on a descriptor word (R246). -/
def descPersist (c r va : Nat) (s : State) : State :=
  let cpc := chCpc s c
  chBad c 1 (modChan c (fun x => { x with
    journal := { Journal.reset with mv := x.mv, cmd := cpc, valid := true, replays := r, fside := 2, faddr := va } }) s)

/-- Read the descriptor words that are left. -/
def descRead (fuel c base : Nat) (ws : List Word) (r : Nat) (ups : List Upset) (s : State) : State :=
  match fuel with
  | 0 => descDone c ws r s
  | n + 1 =>
    let va := (base + ws.length) % 2 ^ 32
    match chRead c va (ups.headD .ok) false s with
    | (.word w _, s1) => descRead n c base (ws ++ [w]) r (ups.drop 1) (setPhase c (.desc base (ws ++ [w]) r) (fltClear c s1))
    | (.wait, s1) => s1
    | (.fault cs sb, s1) => descError c base r cs sb va s1
    | (.bus, s1) =>
      match busTry c s1 with
      | (true, s2) => descPersist c r va s2
      | (false, s2) => s2

/-- Go on with the descriptor read under way. -/
def descGo (c : Nat) (ups : List Upset) (s : State) : State :=
  match (chanAt s c).phase with
  | .desc base ws r => descRead (8 - ws.length) c base ws r ups s
  | _ => s

/-! ## POST (R220, R221, R486) -/

/-- The status ring is full. -/
def sringFull (s : State) (c : Nat) : Bool :=
  decide ((chF s c 0xB 0 16 + 1) % max 1 (chF s c 0xA 0 16) = chF s c 0xC 0 16)

/-- VALUE of an entry. -/
def postValue (s : State) (c sel imm : Nat) : Nat :=
  match sel with
  | 0 => imm
  | 1 => regF s pgDev 0x049 0 25
  | 2 => ringCi s c
  | 3 => if chLd s c = 0 then 0 else chF s c (0x11 + 2 * (chLd s c - 1)) 0 24
  | _ => sigCnt s c

/-- Issue the two words of an entry. -/
def postWrite (c tag sel imm : Nat) (s : State) : State :=
  let va := walkAt (bit (chR s c 2) 2) (chF s c 9 0 32) (chF s c 0xB 0 16)
  let v1 := (va + 1) % 2 ^ 32
  let w0 := wd (postValue s c sel imm % 2 ^ 25 + 2 ^ 27 * b2n (bit (chR s c 1) 11) + 2 ^ 28 * b2n (bit (chR s c 1) 13) +
    2 ^ 29 * tag + 2 ^ 33 * c)
  let w1 := wd (s.now % 2 ^ 32 + 2 ^ 32 * (chanAt s c).posts)
  let again := setPhase c (.got (chanAt s c).w0 0) s
  match chanXlat c va { store := true } false s with
  | (.fault cs sb _, _) => accError c cs sb va again
  | (.pa a0, s1) =>
    match chanXlat c v1 { store := true } false s1 with
    | (.fault cs sb _, _) => accError c cs sb v1 again
    | (.pa a1, s2) =>
      setPhase c .posted (chIssue c (chWriteNew s2 c 1 v1 a1 0 0 (.word w1))
        (chIssue c (chWriteNew s2 c 1 va a0 0 0 (.word w0)) s2))

/-- Both words of an entry are acknowledged: it is published (R220), and the POST completes unless a STOP has committed. -/
def postPublish (c : Nat) (s : State) : State :=
  let n := max 1 (chF s c 0xA 0 16)
  let s1 := setChR c 0xB (wd ((chF s c 0xB 0 16 + 1) % n)) (modChan c (fun x => { x with posts := (x.posts + 1) % 256 }) s)
  let s2 := fltClear c s1
  if chState s c = 5 then setPhase c .next s2 else chDone c 1 s2

/-! ## Outcomes of outstanding writes (R210, R241, R243–R246, R486) -/

/-- Forget the words of a POST that no entry waits for. -/
def postDrop (c : Nat) (s : State) : State :=
  modChan c (fun x => { x with outst := x.outst.map fun w => if w.kind = 1 then { w with kind := 3 } else w }) s

/-- A write that an error had held succeeds after a RESUME: FLT of its record clears (R247). -/
def resumedOk (c : Nat) (w : ChWrite) (s : State) : State :=
  let mine (j : Journal) : Bool :=
    if w.kind = 5 then j.cmdacc && decide ((j.cmd + 1) % 2 ^ 32 = w.va) else decide (j.mv = w.mv)
  if w.resumed then
    modChan c (fun x => { x with journal := if mine x.journal then { x.journal with flt := false } else x.journal }) s
  else s

/-- A write that has been taken off the list stands. -/
def writeDone (c : Nat) (w : ChWrite) (s0 : State) : State :=
  let s := resumedOk c w s0
  let x := chanAt s c
  match w.kind with
  | 0 => moveEnd c s
  | 1 => if x.phase = .posted ∧ !(x.outst.any fun w => decide (w.kind = 1)) then postPublish c s else s
  | 2 => if x.phase = .stated then chFinish c (fltClear c s) else s
  | 4 => tailEnd c w.mv s
  | _ => s

/-- A status half is lost (R486). -/
def statusLost (c : Nat) (s : State) : State :=
  let s1 := badMark c s
  if (chanAt s c).phase = .stated then chFinish c s1 else s1

/-- A persistent bus error on a word of a POST: BAD at once in RUN, once a requested STOP is cancelled, or as a command that a
STOP has ended; no entry is published (R486). -/
def postPersist (c : Nat) (s : State) : State :=
  let s1 := postDrop c s
  if (chanAt s c).phase ≠ .posted then s1
  else match chState s c with
    | 1 => chBad c 1 s1
    | 5 => lateStatus c (chCpc s c) 2 1 (chanAt s c).replays (badMark c (setPhase c .next s1))
    | _ => setPhase c (.status 2 1) (badMark c s1)

/-- A persistent bus error on an element of a MOVE that is over: it is marked BAD once (R246). -/
def latePersist (c : Nat) (w : ChWrite) (s : State) : State :=
  let hit := (chanAt s c).ended.any fun e => decide (e.mv = w.mv) && !e.told
  let s1 := modChan c (fun x => { x with
    ended := x.ended.map fun e => if e.mv = w.mv ∧ !e.told then { e with bad := true, told := true } else e
    journal := if hit ∧ x.journal.mv = w.mv then { x.journal with fside := 1, fcause := 0, fsub := 0, faddr := w.va }
      else x.journal }) s
  tailEnd c w.mv (if hit then lateMark c s1 else s1)

/-- A persistent bus error on a write that has been taken off the list (R246, R486). -/
def writePersist (c : Nat) (w : ChWrite) (s0 : State) : State :=
  let s := persistCount s0
  match w.kind with
  | 0 =>
    match (chanAt s c).phase with
    | .move m => movePersist c 1 w.va m s
    | _ => s
  | 1 => postPersist c s
  | 2 => statusLost c s
  | 4 => latePersist c w s
  | 5 => badMark c s
  | _ => s

/-- A write that cannot be performed: the word stays held and the channel suspends (R245, R486); after the commit of a STOP it is
dropped. -/
def writeError (c cause sub : Nat) (w : ChWrite) (k : Nat) (s : State) : State :=
  let off (s : State) : State := modChan c (fun x => { x with outst := dropAt x.outst k }) s
  let keep (s : State) : State := modChan c (fun x => { x with outst := setAt x.outst k { w with held := 2, resumed := false } }) s
  let live : Bool := decide (chState s c ≠ 5)
  match w.kind with
  | 0 => heldError c cause sub w (keep s)
  | 4 =>
    let s1 := heldError c cause sub w (if live then keep s else off s)
    if live then s1 else tailEnd c w.mv s1
  | 5 => heldError c cause sub w (if live then keep s else off s)
  | 1 => accError c cause sub w.va (setPhase c (if live then .got (chanAt s c).w0 0 else .next) (postDrop c (off s)))
  | 2 =>
    let d := match w.data with | .half _ v => v.toNat | _ => 0
    accError c cause sub w.va (setPhase c (if live then .status (d % 4) (d / 4 % 64) else .next) (off s))
  | _ => off s

/-- The write may reach its outcome now: no earlier write of the channel covers one of its words (R240). -/
def inOrder (l : List ChWrite) (k : Nat) (w : ChWrite) : Bool :=
  !((l.take k).any fun e => (writeWords e).any fun a => (writeWords w).contains a)

/-- Outstanding write `k` of a channel reaches an outcome. -/
def writeOutcome (c k : Nat) (up : Upset) (s : State) : State :=
  match (chanAt s c).outst[k]? with
  | none => s
  | some w =>
    if w.held ≠ 0 ∨ !inOrder (chanAt s c).outst k w then s
    else
      let off (s : State) : State := modChan c (fun x => { x with outst := dropAt x.outst k }) s
      if up = .bus then
        (if w.tries < w.rmax then
          modChan c (fun x => { x with outst := setAt x.outst k { w with tries := w.tries + 1, held := 1 } }) s
         else writePersist c w (off s))
      else match physWrite (chWho c) w.cls w.pa w.data up s with
        | (.done, s1) => writeDone c w (off s1)
        | (.error, s1) => writeError c 0x0B 1 w k s1
        | (.dormant, s1) => writeError c 0x07 5 w k s1
        | (.hold, s1) | (.withheld _ _, s1) => s1

/-! ## Event levels and waits (R214, R215) -/

/-- Free slots of a hopper. -/
def hopRoom (s : State) (h : Nat) : Nat := hopSlots s h - (hopDepth s h + hopRetained s h)

/-- A WAIT's condition holds. -/
def waitHolds (s : State) (c kind arg : Nat) (seen : Bool) : Bool :=
  match kind with
  | 0 => decide (unitEvent s (getF (wd arg) 0 2) (getF (wd arg) 2 8) (getF (wd arg) 10 4) = some true)
  | 1 => decide (arg / 256 ≤ hopDepth s (arg % 256))
  | 2 => decide (arg / 256 ≤ hopRoom s (arg % 256))
  | 3 | 4 => decide (arg ≤ s.now)
  | 5 => seen
  | _ => decide (arg ≤ sigCnt s c)

/-- A WAIT completes DONE. -/
def waitDone (c kind arg : Nat) (s : State) : State :=
  let s1 := if kind = 6 then setChF c 1 22 8 (sigCnt s c - arg) s else s
  chDone c 1 (setStat c 11 false (setChF c 1 30 4 0 (setChState c 1 s1)))

/-- A WAIT begins. -/
def waitBegin (c kind arg timeout : Nat) (s : State) : State :=
  if waitHolds s c kind arg false then waitDone c kind arg s
  else setChF c 1 30 4 kind (setChState c 2 (setPhase c (.wait kind arg s.now timeout false) s))

/-- The window of a WAIT has ended (R9, R215). -/
def waitOver (s : State) (start timeout : Nat) : Bool := decide (timeout ≠ 0) && decide (start + timeout ≤ s.now)

end Sys2Proof.Machine
end

