-- ==== Sys2Proof/Machine/TrchCmds.lean ====
section
/-! DEFINITION. The commands of the Trellis: what a channel's commands do and the requests it takes (chapters 9 and 10). -/

namespace Sys2Proof.Machine

/-! ## Fetch, elements, replay, acknowledgements -/

/-- CMD_FETCH (R205): the two words of the next command, with the upset each read meets. -/
def execCmdFetch (c : Fin 128) (up0 up1 : Upset) (s : State) : Res :=
  .next (if chRuns s c && fetchReady s c then chFetch c up0 up1 s else s)

/-- Begin the fetched command if it is `op` (Table 9-2) and, for a SIGNAL, of kind `sub`. -/
def withCmd (c op : Nat) (sub : Option Nat) (f : Nat → State → State) (s : State) : State :=
  match (chanAt s c).phase with
  | .got w0 w1 =>
    let cmd := w0.toNat + 2 ^ 40 * w1.toNat
    if chRuns s c && decide (cf cmd 0 5 = op) &&
        (match sub with | some k => decide (cf cmd 8 3 = k) | none => true) then f cmd s
    else s
  | _ => s

/-- CMD_NOP (R208). -/
def execCmdNop (c : Fin 128) (s : State) : Res := .next (withCmd c 0 none (fun _ => chDone c 1) s)

/-- A MOVE's own fields, and the start of its journal (R233, R248). -/
def moveCmd (c : Nat) (ups : List Upset) (cmd : Nat) (s : State) : State :=
  let base := cf cmd 12 32
  if base % 8 ≠ 0 then progErr c 6 s
  else
    let cpc := chCpc s c
    descGo c ups (modChan c (fun x => { x with
      phase := .desc base [] 0, mv := x.mv + 1
      journal := { Journal.reset with mv := x.mv + 1, cmd := cpc, valid := true } }) s)

/-- CMD_MOVE (R233, R234): with the upsets that the descriptor reads still to be made meet. -/
def execCmdMove (c : Fin 128) (ups : List Upset) (s : State) : Res :=
  .next (match (chanAt s c).phase with
    | .desc _ _ _ => if chRuns s c then descGo c ups s else s
    | _ => withCmd c 1 none (moveCmd c ups) s)

/-- MOVE_ELEMENT (R240): the upsets that the source read and a destination write to a register meet. -/
def execMoveElement (c : Fin 128) (up wup : Upset) (s : State) : Res :=
  .next (match (chanAt s c).phase with
    | .move m => if chRuns s c then moveStep c up wup m s else s
    | _ => s)

/-! ## Commands -/

/-- LOOP (R213). -/
def loopCmd (c cmd : Nat) (s : State) : State :=
  let d := chLd s c
  let n := cf cmd 8 24
  if 4 ≤ d then progErr c 3 s
  else
    chDone c 1 (setChF c 1 6 3 (d + 1) (setChR c (0x11 + 2 * d) (wd (n + 2 ^ 24 * b2n (decide (n = 0))))
      (setChR c (0x10 + 2 * d) (wd (chanAt s c).nextPc) s)))

/-- CMD_LOOP (R213). -/
def execCmdLoop (c : Fin 128) (s : State) : Res := .next (withCmd c 2 none (loopCmd c) s)

/-- The next command is at `a`. -/
def chJump (c a : Nat) (s : State) : State := modChan c (fun x => { x with nextPc := a }) s

/-- ENDLOOP (R213). -/
def endloopCmd (c : Nat) (s : State) : State :=
  let d := chLd s c
  if d = 0 then progErr c 4 s
  else
    let i := d - 1
    let back (s : State) : State := chDone c 1 (chJump c (chF s c (0x10 + 2 * i) 0 32) s)
    if bit (chR s c (0x11 + 2 * i)) 24 then back s
    else
      let n := chF s c (0x11 + 2 * i) 0 24 - 1
      let s1 := setChF c (0x11 + 2 * i) 0 24 n s
      if n ≠ 0 then back s1 else chDone c 1 (setChF c 1 6 3 i s1)

/-- CMD_ENDLOOP (R213). -/
def execCmdEndloop (c : Fin 128) (s : State) : Res := .next (withCmd c 3 none (fun _ => endloopCmd c) s)

/-- The program error of a WAIT, 0 for none (Table 9-6, R216). -/
def waitErr (s : State) (kind arg : Nat) : Nat :=
  match kind with
  | 0 =>
    if 2 ^ 14 ≤ arg then 2
    else if (unitEvent s (getF (wd arg) 0 2) (getF (wd arg) 2 8) (getF (wd arg) 10 4)).isNone then 7 else 0
  | 1 | 2 => if 2 ^ 18 ≤ arg then 2 else if arg / 256 = 0 then 8 else 0
  | 3 | 4 => 0
  | 5 => if 16 ≤ arg then 2 else if 2 < arg then 7 else 0
  | 6 => if 256 ≤ arg then 2 else if arg = 0 then 8 else 0
  | _ => 7

/-- The BAD cause of a WAIT, 0 for none (R215). -/
def waitBad (s : State) (c kind arg : Nat) : Nat :=
  match kind with
  | 0 => unitBad s c (getF (wd arg) 0 2) (getF (wd arg) 2 8)
  | 1 | 2 => hopBad s c (arg % 256)
  | _ => 0

/-- What a WAIT waits for: a tick for kinds 3 and 4 (Table 9-6). -/
def waitArg (s : State) (kind arg : Nat) : Nat :=
  match kind with
  | 3 =>
    let d := (arg + 2 ^ 32 - s.now % 2 ^ 32) % 2 ^ 32
    if 2 ^ 31 ≤ d then s.now else s.now + d
  | 4 => s.now + arg
  | _ => arg

/-- WAIT (R214, R215). -/
def waitCmd (c cmd : Nat) (s : State) : State :=
  let kind := cf cmd 8 4
  let arg := cf cmd 12 32
  match waitErr s kind arg, waitBad s c kind arg with
  | 0, 0 => waitBegin c kind (waitArg s kind arg) (cf cmd 44 16) s
  | 0, k => chBad c k s
  | e, _ => progErr c e s

/-- CMD_WAIT (R214, R215): a level that holds completes it at once. -/
def execCmdWait (c : Fin 128) (s : State) : Res := .next (withCmd c 4 none (waitCmd c) s)

/-- WAIT_COMPLETE (R215): the condition holds within the window. -/
def execWaitComplete (c : Fin 128) (s : State) : Res :=
  .next (match (chanAt s c).phase with
    | .wait kind arg start timeout seen =>
      if chState s c = 2 ∧ domUp s domTrel ∧ !waitOver s start timeout ∧ waitHolds s c kind arg seen then
        waitDone c kind arg s
      else s
    | _ => s)

/-- WAIT_TIMEOUT (R215): the window has ended first. -/
def execWaitTimeout (c : Fin 128) (s : State) : Res :=
  .next (match (chanAt s c).phase with
    | .wait _ _ start timeout _ =>
      if chState s c = 2 ∧ domUp s domTrel ∧ waitOver s start timeout then
        chDone c 3 (setStat c 11 true (setChF c 1 30 4 0 (setChState c 1 s)))
      else s
    | _ => s)

/-- A push of a SIGNAL: refused, done, or held at a full hopper, where a pending suspend takes effect (R217, R225). -/
def signalPush (c h : Nat) (item : Word) (s : State) : State :=
  match hopOffer h item s with
  | (.unalloc, _) => chBad c 5 s
  | (.full, _) => chBoundary c (setPhase c (.push h item) s)
  | (_, s1) => chDone c 1 s1

/-- SIGNAL HOPPER (R217). -/
def signalHopper (c cmd : Nat) (s : State) : State :=
  let h := cf cmd 11 8
  match hopBad s c h with
  | 0 => signalPush c h (wd (cf cmd 19 40)) s
  | k => chBad c k s

/-- CMD_SIGNAL_HOPPER (R217). -/
def execCmdSignalHopper (c : Fin 128) (s : State) : Res := .next (withCmd c 5 (some 0) (signalHopper c) s)

/-- SIGNAL_PUSH_ACCEPT (R217): a held push is attempted again. -/
def execSignalPushAccept (c : Fin 128) (s : State) : Res :=
  .next (match (chanAt s c).phase with
    | .push h item => if chRuns s c then signalPush c h item s else s
    | _ => s)

/-- Units of a LEVEL in one device. -/
def levelUnits (level : Nat) : Nat := match level with | 0 => 128 | 1 => 16 | 2 => 4 | _ => 1

/-- A tine or a plot of this device is in a domain that is not up. -/
def unitDormant (s : State) (level unit : Nat) : Bool :=
  match level with
  | 0 => !domUp s (unit / 8)
  | 1 => !domUp s unit
  | _ => false

/-- The event of a SIGNAL SIEVE at a unit of levels 0 to 3, counted chain-wide (R217). -/
def signalUnit (c level unit n : Nat) (s : State) : State :=
  let a := unit / levelUnits level
  let u := unit % levelUnits level
  if 16 ≤ a then progErr c 7 s
  else if a = chainAddr s then
    (if unitDormant s level u then chBad c 3 s else chDone c 1 (raiseUnit level u n s))
  else if windowOpen s a then
    chDone c 1 (cellRoute (mkCell s 4 a (b2n (chUrgent s c)) [eventWord level u n]) s)
  else chBad c 5 s

/-- SIGNAL SIEVE (R217, R484). -/
def signalSieve (c cmd : Nat) (s : State) : State :=
  let level := cf cmd 11 3
  let unit := cf cmd 14 11
  let n := 16 + cf cmd 25 4
  if 4 < level then progErr c 7 s
  else if level = 4 then
    (if unit ≠ 0 then progErr c 2 s
     else if chainReady s then chDone c 1 (raiseChain (b2n (chUrgent s c)) n s) else chBad c 5 s)
  else signalUnit c level unit n s

/-- CMD_SIGNAL_SIEVE (R217). -/
def execCmdSignalSieve (c : Fin 128) (s : State) : Res := .next (withCmd c 5 (some 1) (signalSieve c) s)

/-- SIGNAL CHANNEL (R217). -/
def signalChannel (c cmd : Nat) (s : State) : State :=
  let t := cf cmd 11 7
  let n := cf cmd 18 8
  if n = 0 then progErr c 8 s
  else match chanBad s c t with
    | 0 => chDone c 1 (sigAdd t n s)
    | k => chBad c k s

/-- CMD_SIGNAL_CHANNEL (R217). -/
def execCmdSignalChannel (c : Fin 128) (s : State) : Res := .next (withCmd c 5 (some 2) (signalChannel c) s)

/-- The program error of a SKIP, 0 for none (Table 9-9). -/
def skipErr (cond arg : Nat) : Nat :=
  if 8 < cond then 7
  else if (cond = 0 ∨ cond = 1 ∨ cond = 2 ∨ cond = 6) ∧ arg ≠ 0 then 2
  else if (cond = 3 ∨ cond = 4 ∨ cond = 5) ∧ 256 ≤ arg then 2
  else 0

/-- A SKIP whose condition is known completes (R218). -/
def skipEnd (c n : Nat) (holds : Bool) (s : State) : State :=
  chDone c 1 (if holds && decide (n ≠ 0) then
    (if chRing s c then modChan c (fun x => { x with skip := n }) s
     else chJump c (walkAt (cmd12 s c) (chCpc s c) (n + 1)) s)
   else s)

/-- SKIP 7 and 8 read a word (R218, R486). -/
def skipRead (c cond n arg : Nat) (up : Upset) (s : State) : State :=
  match chRead c arg up false s with
  | (.word w _, s1) =>
    let eq := decide ((w &&& chR s1 c 0xE) = (chR s1 c 0xD &&& chR s1 c 0xE))
    skipEnd c n (if cond = 7 then eq else !eq) (fltClear c s1)
  | (.wait, s1) => s1
  | (.fault cs sb, s1) => accError c cs sb arg s1
  | (.bus, s1) =>
    match busTry c s1 with
    | (true, s2) => chBad c 1 s2
    | (false, s2) => s2

/-- SKIP (R218). -/
def skipCmd (c : Nat) (up : Upset) (cmd : Nat) (s : State) : State :=
  let cond := cf cmd 8 4
  let n := cf cmd 12 6
  let arg := cf cmd 18 32
  if skipErr cond arg ≠ 0 then progErr c (skipErr cond arg) s
  else match cond with
    | 0 => skipEnd c n true s
    | 1 => skipEnd c n (bit (chR s c 1) 11) s
    | 2 => skipEnd c n (!bit (chR s c 1) 11) s
    | 5 => skipEnd c n (decide (arg ≤ sigCnt s c)) s
    | 6 => skipEnd c n (bit (chR s c 1) 12) s
    | 7 | 8 => skipRead c cond n arg up s
    | _ =>
      match hopBad s c arg with
      | 0 => skipEnd c n (decide (hopDepth s arg = 0) == decide (cond = 3)) s
      | k => chBad c k s

/-- CMD_SKIP (R218): with the upset that the read of conditions 7 and 8 meets. -/
def execCmdSkip (c : Fin 128) (up : Upset) (s : State) : Res := .next (withCmd c 6 none (skipCmd c up) s)

/-- SUSPEND (R219, R225). -/
def suspendCmd (c cmd : Nat) (s : State) : State :=
  let t := cf cmd 9 7
  if cf cmd 8 1 = 1 then
    (if t ≠ 0 then progErr c 2 s
     else chDone c 1 (setStat c 10 true (modChan c (fun x => { x with suspCause := 1 }) s)))
  else match chanBad s c t with
    | 0 => chDone c 1 (reqSuspend t 2 s)
    | k => chBad c k s

/-- CMD_SUSPEND (R219). -/
def execCmdSuspend (c : Fin 128) (s : State) : Res := .next (withCmd c 7 none (suspendCmd c) s)

/-- RESUME (R219). -/
def resumeCmd (c cmd : Nat) (s : State) : State :=
  match chanBad s c (cf cmd 9 7) with
  | 0 => chDone c 1 (reqResume (cf cmd 9 7) s)
  | k => chBad c k s

/-- CMD_RESUME (R219). -/
def execCmdResume (c : Fin 128) (s : State) : Res := .next (withCmd c 8 none (resumeCmd c) s)

/-- POST (R220, R221). -/
def postCmd (c cmd : Nat) (s : State) : State :=
  let sel := cf cmd 12 3
  if 5 ≤ sel then progErr c 7 s
  else if chF s c 0xA 0 16 < 2 ∨ chF s c 9 0 32 % 2 = 1 then chBad c 7 s
  else if sringFull s c then
    chBoundary c (setPhase c (.post (cf cmd 8 4) sel (cf cmd 15 25))
      (pageIrq pgTrel 2 (bumpF (pgTrch c) (chBase c + 0xF) 16 16 1 s)))
  else postWrite c (cf cmd 8 4) sel (cf cmd 15 25) s

/-- CMD_POST (R220). -/
def execCmdPost (c : Fin 128) (s : State) : Res := .next (withCmd c 9 none (postCmd c) s)

/-- POST_RESUME (R221): an entry of the status ring has been freed. -/
def execPostResume (c : Fin 128) (s : State) : Res :=
  .next (match (chanAt s c).phase with
    | .post tag sel imm => if chRuns s c && !sringFull s c then postWrite c tag sel imm s else s
    | _ => s)

/-- CHAIN (R204, R222). -/
def chainCmd (c cmd : Nat) (s : State) : State :=
  let a := cf cmd 12 32
  if slotOk (cmd12 s c) a then chDone c 1 (chJump c a (setChF c 1 6 3 0 s)) else progErr c 6 s

/-- CMD_CHAIN (R222). -/
def execCmdChain (c : Fin 128) (s : State) : Res := .next (withCmd c 0xA none (chainCmd c) s)

/-- A PORTOP delivered to its unit (R223, R292, R316). -/
def portopUnit (r u op arg : Nat) (s : State) : Bool × State :=
  if u < 128 then portopCell r u op arg s
  else if u < 160 then portopHoe r (u - 128) op arg s
  else portopEngine r (u - 160) op arg s

/-- PORTOP (R223); a unit whose domain is stopping holds it (R390). -/
def portopCmd (c cmd : Nat) (s : State) : State :=
  let r := cf cmd 8 2
  let u := cf cmd 10 8
  if 168 ≤ u then progErr c 7 s
  else if domHeld s (domRow r) then s
  else match unitBad s c r u with
    | 0 =>
      match portopUnit r u (cf cmd 18 4) (cf cmd 22 33) s with
      | (true, s1) => chDone c 1 s1
      | (false, s1) => chBad c 6 s1
    | k => chBad c k s

/-- CMD_PORTOP (R223). -/
def execCmdPortop (c : Fin 128) (s : State) : Res := .next (withCmd c 0xB none (portopCmd c) s)

/-! ## Replay and outcomes -/

/-- The access under way is issued again with the upsets it now meets (R244). -/
def replayCurrent (c : Nat) (ups : List Upset) (s : State) : State :=
  let up := ups.headD .ok
  let up1 := (ups.drop 1).headD .ok
  let s1 := replayCount c (modChan c (fun x => { x with retry := false }) s)
  match (chanAt s c).phase with
  | .next => chFetch c up up1 s1
  | .got w0 w1 => skipCmd c up (w0.toNat + 2 ^ 40 * w1.toNat) s1
  | .desc _ _ _ => descGo c ups s1
  | .move m => moveStep c up up1 { m with replays := satAdd 255 m.replays 1 } s1
  | _ => s1

/-- ACCESS_REPLAY (R244): the access under way, or an outstanding write, is issued again. -/
def execAccessReplay (c : Fin 128) (a : ChAcc) (ups : List Upset) (s : State) : Res :=
  .next (match a with
    | .current =>
      if (chanAt s c).retry ∧ chState s c = 1 ∧ domUp s domTrel then replayCurrent c ups s else s
    | .write k =>
      match (chanAt s c).outst[k]? with
      | some w =>
        if w.held = 1 then
          writeOutcome c k (ups.headD .ok)
            (replayWrite c w (modChan c (fun x => { x with outst := setAt x.outst k { w with held := 0 } }) s))
        else s
      | none => s)

/-- TRELLIS_WRITE_ACK (R210): outstanding write `k` of a channel, with the upset it meets. -/
def execTrellisWriteAck (c : Fin 128) (k : Nat) (up : Upset) (s : State) : Res :=
  .next (if domUp s domTrel then writeOutcome c k up s else s)

/-! ## Requests (R217, R225–R228) -/

/-- A write of TRCH_CTRL with one request bit. -/
def trchReq (w : Who) (c : Fin 128) (b : Nat) (s : State) : Res :=
  .next (gated w (pgTrch c) (chBase c) (trchWrite w c 0 (wd (2 ^ b))) s)

/-- TRCH_START (R227). -/
def execTrchStart (w : Who) (c : Fin 128) (s : State) : Res := trchReq w c 0 s
/-- TRCH_STOP (R226). -/
def execTrchStop (w : Who) (c : Fin 128) (s : State) : Res := trchReq w c 1 s
/-- TRCH_SUSPEND (R225). -/
def execTrchSuspend (w : Who) (c : Fin 128) (s : State) : Res := trchReq w c 2 s
/-- TRCH_RESUME (R225). -/
def execTrchResume (w : Who) (c : Fin 128) (s : State) : Res := trchReq w c 3 s
/-- CLRSIG (R217). -/
def execClrsig (w : Who) (c : Fin 128) (s : State) : Res := trchReq w c 4 s

/-- STOP_COMMIT (R226): the last read of a stopping channel ends and is discarded. -/
def execStopCommit (c : Fin 128) (s : State) : Res :=
  .next (if chState s c = 4 ∧ domUp s domTrel then stopCommit c s else s)

/-- DRAIN_COMPLETE (R226): every write of a draining channel has its outcome. -/
def execDrainComplete (c : Fin 128) (s : State) : Res :=
  .next (if chState s c = 5 ∧ (chanAt s c).outst.isEmpty ∧ domUp s domTrel then
      let s1 := setChState c 0 s
      if bit (chR s c 1) 9 then tryStart c (setStat c 9 false s1) else s1
    else s)

/-- CRING_PI_WRITE (R207). -/
def execCringPiWrite (w : Who) (c : Fin 128) (pi : BitVec 16) (s : State) : Res :=
  .next (gated w (pgTrch c) (chBase c + 7) (trchWrite w c 7 (wd pi.toNat)) s)

/-- SRING_CI_WRITE (R207). -/
def execSringCiWrite (w : Who) (c : Fin 128) (ci : BitVec 16) (s : State) : Res :=
  .next (gated w (pgTrch c) (chBase c + 0xC) (trchWrite w c 0xC (wd ci.toNat)) s)

/-- TRCH_OWN_WRITE (R230). -/
def execTrchOwnWrite (w : Who) (c : Fin 128) (v : Word) (s : State) : Res :=
  .next (gated w (pgTrch c) (chBase c + 3) (trchWrite w c 3 v) s)

end Sys2Proof.Machine
end

