-- ==== Sys2Proof/Machine/TineAlu.lean ====
section
/-! DEFINITION. Moves, integer ALU, transcendental and signature instructions (Table 4-9). -/

namespace Sys2Proof.Machine

/-- MOV (R98): no flags. -/
def execMov (t : TineNo) (f : Un) (s : State) : Res :=
  .next (issue t (.mov t f) (fun s => aluRetire t (unGd f) { val := unA s t f, flags := .none } (unLen f) s) s)

/-- MOVI (R98). -/
def execMovi (t : TineNo) (f : RI) (s : State) : Res :=
  .next (issue t (.movi t f) (fun s => aluRetire t (riGd f) { val := riImm f, flags := .none } (riLen f) s) s)

/-- MOVHI (R98): Gd[39:18] := imm22, the rest kept. -/
def execMovhi (t : TineNo) (gd : Gr) (imm : BitVec 22) (s : State) : Res :=
  .next (issue t (.movhi t gd imm) (fun s =>
    aluRetire t gd { val := setF (getG s t gd) 18 22 imm.toNat, flags := .none } 2 s) s)

/-- A two-register ALU instruction. -/
def aluRR (i : Instr) (op : Word → Word → AluOut) (t : TineNo) (f : RR) (s : State) : State :=
  issue t i (fun s => aluRetire t (rrGd f) (op (rrA s t f) (rrB s t f)) (rrLen f) s) s

/-- A full-form ALU instruction on two registers. -/
def aluF3 (i : Instr) (op : Word → Word → AluOut) (t : TineNo) (gd ga gb : Gr) (s : State) : State :=
  issue t i (fun s => aluRetire t gd (op (getG s t ga) (getG s t gb)) 2 s) s

/-- A one-source ALU instruction. -/
def aluUn (i : Instr) (op : Word → AluOut) (t : TineNo) (f : Un) (s : State) : State :=
  issue t i (fun s => aluRetire t (unGd f) (op (unA s t f)) (unLen f) s) s

/-- ADD (R83). -/
def execAdd (t : TineNo) (f : RR) (s : State) : Res := .next (aluRR (.add t f) aluAdd t f s)
/-- SUB (R83). -/
def execSub (t : TineNo) (f : RR) (s : State) : Res := .next (aluRR (.sub t f) aluSub t f s)
/-- ADDI (R83). -/
def execAddi (t : TineNo) (f : RI) (s : State) : Res :=
  .next (issue t (.addi t f) (fun s => aluRetire t (riGd f) (aluAdd (riA s t f) (riImm f)) (riLen f) s) s)
/-- ADDS (R83). -/
def execAdds (t : TineNo) (gd ga gb : Gr) (s : State) : Res := .next (aluF3 (.adds t gd ga gb) aluAdds t gd ga gb s)
/-- SUBS (R83). -/
def execSubs (t : TineNo) (gd ga gb : Gr) (s : State) : Res := .next (aluF3 (.subs t gd ga gb) aluSubs t gd ga gb s)
/-- AND (R98). -/
def execAnd (t : TineNo) (f : RR) (s : State) : Res := .next (aluRR (.and t f) (fun a b => aluLogic (a &&& b)) t f s)
/-- OR (R98). -/
def execOr (t : TineNo) (f : RR) (s : State) : Res := .next (aluRR (.or t f) (fun a b => aluLogic (a ||| b)) t f s)
/-- XOR (R98). -/
def execXor (t : TineNo) (f : RR) (s : State) : Res := .next (aluRR (.xor t f) (fun a b => aluLogic (a ^^^ b)) t f s)
/-- ANDN (R98). -/
def execAndn (t : TineNo) (gd ga gb : Gr) (s : State) : Res :=
  .next (aluF3 (.andn t gd ga gb) (fun a b => aluLogic (a &&& ~~~b)) t gd ga gb s)

/-- A logic instruction with a zero-extended immediate. -/
def aluLogImm (i : Instr) (op : Word → Word → Word) (t : TineNo) (gd ga : Gr) (imm : BitVec 22) (s : State) : State :=
  issue t i (fun s => aluRetire t gd (aluLogic (op (getG s t ga) (zimm22 imm))) 2 s) s

/-- ANDI (R98). -/
def execAndi (t : TineNo) (gd ga : Gr) (imm : BitVec 22) (s : State) : Res :=
  .next (aluLogImm (.andi t gd ga imm) (· &&& ·) t gd ga imm s)
/-- ORI (R98). -/
def execOri (t : TineNo) (gd ga : Gr) (imm : BitVec 22) (s : State) : Res :=
  .next (aluLogImm (.ori t gd ga imm) (· ||| ·) t gd ga imm s)
/-- XORI (R98). -/
def execXori (t : TineNo) (gd ga : Gr) (imm : BitVec 22) (s : State) : Res :=
  .next (aluLogImm (.xori t gd ga imm) (· ^^^ ·) t gd ga imm s)

/-- SHL (R98). -/
def execShl (t : TineNo) (gd ga : Gr) (k : ShAmt) (s : State) : Res :=
  .next (issue t (.shl t gd ga k) (fun s => aluRetire t gd (aluShl (getG s t ga) (shAmt s t k)) 2 s) s)
/-- SHR (R98). -/
def execShr (t : TineNo) (gd ga : Gr) (k : ShAmt) (s : State) : Res :=
  .next (issue t (.shr t gd ga k) (fun s => aluRetire t gd (aluShr (getG s t ga) (shAmt s t k)) 2 s) s)
/-- ASH (R55); an immediate outside −64 to 63 is illegal. -/
def execAsh (t : TineNo) (f : AshForm) (s : State) : Res :=
  .next (issue t (.ash t f) (fun s =>
    match ashForm s t f with
    | some (gd, a, k, len) => aluRetire t gd (aluAsh a k) len s
    | none => illegal t s) s)
/-- ROT (R98): by Gb mod 40, Gb read as an unsigned number (assumption 135). -/
def execRot (t : TineNo) (gd ga gb : Gr) (s : State) : Res :=
  .next (aluF3 (.rot t gd ga gb) (fun a b => aluRot a b.toNat) t gd ga gb s)
/-- MIN (R98). -/
def execMin (t : TineNo) (gd ga gb : Gr) (s : State) : Res := .next (aluF3 (.min t gd ga gb) aluMin t gd ga gb s)
/-- MAX (R98). -/
def execMax (t : TineNo) (gd ga gb : Gr) (s : State) : Res := .next (aluF3 (.max t gd ga gb) aluMax t gd ga gb s)
/-- CMP (R83). -/
def execCmp (t : TineNo) (f : CR) (s : State) : Res :=
  .next (issue t (.cmp t f) (fun s => cmpRetire t (aluSub (crA s t f) (crB s t f)) (crLen f) s) s)
/-- CMPI (R83). -/
def execCmpi (t : TineNo) (f : CI) (s : State) : Res :=
  .next (issue t (.cmpi t f) (fun s => cmpRetire t (aluSub (ciA s t f) (ciImm f)) (ciLen f) s) s)
/-- NEG (R83). -/
def execNeg (t : TineNo) (f : Un) (s : State) : Res := .next (aluUn (.neg t f) (fun a => aluSub 0 a) t f s)
/-- NOT (R98). -/
def execNot (t : TineNo) (f : Un) (s : State) : Res := .next (aluUn (.not t f) (fun a => aluLogic (~~~a)) t f s)
/-- ABS (R98). -/
def execAbs (t : TineNo) (f : Un) (s : State) : Res := .next (aluUn (.abs t f) aluAbs t f s)
/-- NORM (R53): no flags. -/
def execNorm (t : TineNo) (f : Un) (s : State) : Res :=
  .next (aluUn (.norm t f) (fun a => { val := wd (norm40 a), flags := .none }) t f s)
/-- NORMM (R54): min(Gd, NORM(Gs)), Gd signed. -/
def execNormm (t : TineNo) (f : Un) (s : State) : Res :=
  .next (issue t (.normm t f) (fun s =>
    let d := getG s t (unGd f)
    let n := norm40 (unA s t f)
    aluRetire t (unGd f) { val := if sw d ≤ (n : Int) then d else wd n, flags := .none } (unLen f) s) s)
/-- LOG2 (R72). -/
def execLog2 (t : TineNo) (gd ga : Gr) (s : State) : Res := .next (aluUn (.log2 t gd ga) aluLog2 t (.f gd ga) s)
/-- EXP2 (R72). -/
def execExp2 (t : TineNo) (gd ga : Gr) (s : State) : Res := .next (aluUn (.exp2 t gd ga) aluExp2 t (.f gd ga) s)
/-- RECIP (R72). -/
def execRecip (t : TineNo) (gd ga : Gr) (s : State) : Res := .next (aluUn (.recip t gd ga) aluRecip t (.f gd ga) s)
/-- RSQRT (R72). -/
def execRsqrt (t : TineNo) (gd ga : Gr) (s : State) : Res := .next (aluUn (.rsqrt t gd ga) aluRsqrt t (.f gd ga) s)

/-- A CRC instruction; Gp bits 37 and 39 must be 0 (Table 4-14). -/
def crcInstr (i : Instr) (op : Word → Word → Word → AluOut) (t : TineNo) (gd gs gp : Gr) (s : State) : State :=
  issue t i (fun s =>
    let p := getG s t gp
    if bit p 37 || bit p 39 then illegal t s else aluRetire t gd (op (getG s t gd) (getG s t gs) p) 2 s) s

/-- CRC8 (R110). -/
def execCrc8 (t : TineNo) (gd gs gp : Gr) (s : State) : Res := .next (crcInstr (.crc8 t gd gs gp) aluCrc8 t gd gs gp s)
/-- CRCW (R110). -/
def execCrcw (t : TineNo) (gd gs gp : Gr) (s : State) : Res := .next (crcInstr (.crcw t gd gs gp) aluCrcw t gd gs gp s)

/-- A width operand of PAR and BREV is 1–40 (R111). -/
def widthOk (w : BitVec 6) : Bool := decide (1 ≤ w.toNat) && decide (w.toNat ≤ 40)

/-- PAR (R111). -/
def execPar (t : TineNo) (gd gs : Gr) (w : BitVec 6) (s : State) : Res :=
  .next (issue t (.par t gd gs w) (fun s =>
    if widthOk w then aluRetire t gd (aluPar (getG s t gs) w.toNat) 2 s else illegal t s) s)
/-- BREV (R111). -/
def execBrev (t : TineNo) (gd gs : Gr) (w : BitVec 6) (s : State) : Res :=
  .next (issue t (.brev t gd gs w) (fun s =>
    if widthOk w then aluRetire t gd (aluBrev (getG s t gs) w.toNat) 2 s else illegal t s) s)

end Sys2Proof.Machine
end

