-- ==== Sys2Proof/Machine/Window.lean ====
section
/-! DEFINITION. The retirement window at work (R114–R118): instructions that issued behind one that waits take their turn, loads
among them read memory before it, and the commands that let the head of the window go on. -/

namespace Sys2Proof.Machine

/-- An instruction of a tine at the head of the window; any other command has no effect here. -/
def runTine (i : Instr) (s : State) : Res :=
  match i with
  | .mov t f => execMov t f s
  | .movi t f => execMovi t f s
  | .movhi t gd imm => execMovhi t gd imm s
  | .add t f => execAdd t f s
  | .sub t f => execSub t f s
  | .addi t f => execAddi t f s
  | .adds t gd ga gb => execAdds t gd ga gb s
  | .subs t gd ga gb => execSubs t gd ga gb s
  | .and t f => execAnd t f s
  | .or t f => execOr t f s
  | .xor t f => execXor t f s
  | .andn t gd ga gb => execAndn t gd ga gb s
  | .andi t gd ga imm => execAndi t gd ga imm s
  | .ori t gd ga imm => execOri t gd ga imm s
  | .xori t gd ga imm => execXori t gd ga imm s
  | .shl t gd ga k => execShl t gd ga k s
  | .shr t gd ga k => execShr t gd ga k s
  | .ash t f => execAsh t f s
  | .rot t gd ga gb => execRot t gd ga gb s
  | .min t gd ga gb => execMin t gd ga gb s
  | .max t gd ga gb => execMax t gd ga gb s
  | .cmp t f => execCmp t f s
  | .cmpi t f => execCmpi t f s
  | .neg t f => execNeg t f s
  | .not t f => execNot t f s
  | .abs t f => execAbs t f s
  | .norm t f => execNorm t f s
  | .normm t f => execNormm t f s
  | .log2 t gd ga => execLog2 t gd ga s
  | .exp2 t gd ga => execExp2 t gd ga s
  | .recip t gd ga => execRecip t gd ga s
  | .rsqrt t gd ga => execRsqrt t gd ga s
  | .crc8 t gd gs gp => execCrc8 t gd gs gp s
  | .crcw t gd gs gp => execCrcw t gd gs gp s
  | .par t gd gs w => execPar t gd gs w s
  | .brev t gd gs w => execBrev t gd gs w s
  | .macDual t fp l0 l1 => execMacDual t fp l0 l1 s
  | .macQuad t fp p0 p1 gx gy gz gw => execMacQuad t fp p0 p1 gx gy gz gw s
  | .macC t op an gx gy fp1 => execMacC t op an gx gy fp1 s
  | .macm t op fp an ga gb mj mk => execMacm t op fp an ga gb mj mk s
  | .clra t f => execClra t f s
  | .nega t f => execNega t f s
  | .absa t f => execAbsa t f s
  | .lda t an g k => execLda t an g k s
  | .adda t an am => execAdda t an am s
  | .suba t an am => execSuba t an am s
  | .asha t an k => execAsha t an k s
  | .norma t g an => execNorma t g an s
  | .wba t gd an xs code => execWba t gd an xs code s
  | .wbaH t gd an xs code => execWbaH t gd an xs code s
  | .wbaD t gd an xs code => execWbaD t gd an xs code s
  | .ld t f => execLd t f s
  | .st t f => execSt t f s
  | .ldstC t store gt ga mk => execLdstC t store gt ga mk s
  | .ldh t l => execLdh t l s
  | .sth t l => execSth t l s
  | .ldd t l => execLdd t l s
  | .std t l => execStd t l s
  | .swap t l => execSwap t l s
  | .sva t l => execSva t l s
  | .rsa t l => execRsa t l s
  | .hpop t f => execHpop t f s
  | .hpush t f => execHpush t f s
  | .fence t => execFence t s
  | .br t off => execBr t off s
  | .brc t f => execBrc t f s
  | .jmp t ga => execJmp t ga s
  | .call t f => execCall t f s
  | .nop t => execNop t s
  | .wait t => execWait t s
  | .cloche t n => execCloche t n s
  | .sysc t code => execSysc t code s
  | .retx t up upF upD latency => execRetx t up upF upD latency s
  | .bkpt t => execBkpt t s
  | .mfc t g n => execMfc t g n s
  | .mtc t g n => execMtc t g n s
  | .rep t n => execRep t n s
  | .repu t n => execRepu t n s
  | .repr t gs u => execRepr t gs u s
  | .loop t count e => execLoop t count e s
  | .loopr t gs e => execLoopr t gs e s
  | .endl t => execEndl t s
  | _ => .next s

/-- The state that a meaning answers. -/
def resState (r : Res) (s : State) : State :=
  match r with
  | .next s1 => s1
  | _ => s

/-- The words at `pas` are those that a load takes from `srcs`. -/
def earlyFits (srcs : List LSrc) (pas : List Nat) : Bool :=
  decide (srcs.length = pas.length) &&
    (srcs.zip pas).all fun x => (match x.1 with | .have' _ => true | .read p => decide (p = x.2))

/-- A load that waits at the head has its data where the words that came while it was in the window are those it needs
(R115). -/
def earlyDone (t : TineNo) (e : Option Early) (s : State) : State :=
  match (tineAt s t).flight, e with
  | some (.load k srcs vas upds len f2), some e =>
    if !earlyFits srcs e.pas then s
    else
      match e.fail with
      | none => loadDone t k (e.got.map .have') e.got upds len f2 s
      | some f => loadFail t k vas e.got f s
  | _, _ => s

/-- The next entry of the window takes its turn: it is executed, and has the data that came early for it, if any. -/
def runEntry (t : TineNo) (e : WinEnt) (s : State) : State := earlyDone t e.early (resState (runTine e.ins s) s)

/-- What is younger than a fault, a halt or the end of a tine is abandoned (R117, R118). -/
def abandons (s : State) (t : Nat) : Bool :=
  let x := tineAt s t
  x.fault.isSome || !tineGoes x || x.locked || x.retired || !tineUp s t

/-- The entries of a window take their turns in program order, up to one that waits (R115, R116). -/
def runWindow (t : TineNo) (l : List WinEnt) (s : State) : State :=
  match l with
  | [] => s
  | e :: rest =>
    if canIssue s t then runWindow t rest (runEntry t e s)
    else if abandons s t then s
    else modTine t (fun x => { x with window := e :: rest }) s

/-- The window goes on where nothing at its head waits. -/
def windowGo (t : TineNo) (s : State) : State :=
  let x := tineAt s t
  if x.flight.isSome || x.window.isEmpty then s
  else runWindow t x.window (modTine t (fun y => { y with window := [] }) s)

/-- Every tine's window goes on. -/
def windowsGo (s : State) : State :=
  forAll ((List.range 144).filter fun t => !(tineAt s t).window.isEmpty) (fun t => windowGo (Fin.ofNat 144 t)) s

/-! ## Loads that read ahead (R115, R121) -/

/-- The virtual words of a load, grouped as `loadStart` takes them, with its checks; none for another instruction. -/
def loadWords (s : State) (t : Nat) (i : Instr) : Option (Acc × Option Bool × List (List Nat)) :=
  let rd : Acc := { store := false }
  match i with
  | .ld _ f => some (rd, none, [[wordVa (ldstEa s t f).1]])
  | .ldstC _ false _ ga _ => some (rd, none, [[wordVa (getG s t ga)]])
  | .ldh _ l => some ({ rd with half := true }, some (halfSel (lsEa s t l).1), [[halfVa (lsEa s t l).1]])
  | .ldd _ l =>
    let x := wordVa (lsEa s t l).1
    some ({ rd with split := decide (x % 2 = 1) }, none, [[x, vaPlus x 1]])
  | .rsa _ l => some (rd, none, [imageVas (lsEa s t l).1])
  | .macm _ _ _ _ ga gb _ _ => some (rd, none, [[wordVa (getG s t ga)], [wordVa (getG s t gb)]])
  | _ => none

/-- The address registers that a memory instruction updates, known once its operands are (Table 4-6). -/
def addrUpds (s : State) (t : Nat) (i : Instr) : List (Gr × Word) :=
  match i with
  | .ld _ f | .st _ f => updList (ldstEa s t f).2
  | .ldstC _ _ _ ga mk => [(ga, circStep (getG s t ga) 1 (reg s (pgTine t) (oM mk.val)))]
  | .ldh _ l | .sth _ l | .ldd _ l | .std _ l | .rsa _ l | .sva _ l | .swap _ l => updList (lsEa s t l).2
  | .macm _ _ _ _ ga gb mj mk =>
    [(ga, circStep (getG s t ga) 1 (reg s (pgTine t) (oM mj.val))), (gb, circStep (getG s t gb) 1 (reg s (pgTine t) (oM mk.val)))]
  | _ => []

/-- What the older entries of the window hand on by tag (R115, R116): the registers as those whose operands are present leave
them. Of a memory instruction only its address update, and its data where it came early, are known. -/
def byTag (t : TineNo) (l : List (WinEnt × Hazard × Pending)) (s : State) : State :=
  match l with
  | [] => s
  | (e, h, p) :: rest =>
    let s1 :=
      if !operandsHere p h || h.ser then s
      else if h.st.contains .ls then (if e.early.isSome then runEntry t e s else doUpds t (addrUpds s t e.ins) s)
      else runEntry t e s
    byTag t rest s1

/-- The registers as an instruction behind `l` receives them. -/
def tagState (s : State) (t : TineNo) (l : List (WinEnt × Hazard × Pending)) : State :=
  let upds := match (tineAt s t).flight with
    | some (.load _ _ _ u _ _) => u
    | some (.store _ u _ _) => u
    | _ => []
  byTag t l (doUpds t upds (modTine t (fun x => { x with flight := none, window := [] }) s))

/-- A word in a tray, in Shed or in DRAM: reading it has no side effect and it may be read ahead. -/
def plainPa (pa : Nat) : Bool :=
  match regionOf pa with
  | .itray _ _ | .dtray _ _ | .shed _ | .dram _ _ => true
  | _ => false

/-- The instruction at the head stores. -/
def flightStores (f : Option Flight) : Bool :=
  match f with
  | some (.store _ _ _ _) | some (.load (.swap _ _) _ _ _ _ _) => true
  | _ => false

/-- The load at place `k` of the window reads ahead: its operands are present, no older store is unretired, it overlaps no
buffered store in part, and its words lie in memory (R115, R121, assumption 18). -/
def readAhead (t : TineNo) (k : Nat) (ups : List Upset) (s : State) : State :=
  let w := (tineAt s t).window
  let l := scanWindow (pendingHead (tineAt s t).flight) w
  match w[k]?, l[k]? with
  | some e, some (_, h, p) =>
    let older := l.take k
    let st := tagState s t older
    (match loadWords st t e.ins with
     | some (a, half, groups) =>
       if e.early.isSome || !operandsHere p h || older.any (fun x => x.2.1.stores) || flightStores (tineAt s t).flight ||
           ups.contains .bus || !issueOpen s t then s
       else
         (match xlatWords t a groups.flatten s with
          | (.fault _, s1) => s1
          | (.pas ps, s1) =>
            let gs := if groups.length = 2 then ps.map fun x => [x] else [ps]
            let fs := gs.map (fwdOf (tineAt s1 t).sb half)
            let srcs := loadSrcs fs gs
            if !ps.all plainPa || fs.any (fun f => decide (f = .wait)) || srcs.any (srcWaits s1 t) then s1
            else
              let (r, s2) := readAll t false srcs groups.flatten ups [] s1
              let y : Early := match r with
                | .words ws => { pas := ps, got := ws, fail := none }
                | .fail got f => { pas := ps, got := got, fail := some f }
              modTine t (fun x => { x with window := x.window.set k { e with early := some y } }) s2)
     | none => s)
  | _, _ => s

/-! ## The commands that let it go on -/

/-- LOAD_DATA_RETURN (R115): tag 0 is the load at the head, tag k the k-th instruction behind it. -/
def execLoadDataReturn (t : TineNo) (r : LoadRet) (s : State) : Res :=
  .next (
    match r.tag.val with
    | 0 => windowGo t (loadReturn t r.ups s)
    | k + 1 => readAhead t k r.ups s)

/-- STORE_BUFFER_DRAIN (R120). -/
def execStoreBufferDrain (t : TineNo) (up : Upset) (s : State) : Res := .next (windowGo t (drainOldest t up s))

/-- HPUSH_ACCEPT (R100). -/
def execHpushAccept (t : TineNo) (s : State) : Res := .next (windowGo t (pushAgain t s))

/-- CKPT_COMMIT (R410). -/
def execCkptCommit (t : TineNo) (s : State) : Res := .next (ckptCommit t s)

end Sys2Proof.Machine
end

