-- ==== Sys2Proof/Machine/PageCmds.lean ====
section
/-! DEFINITION. The commands on mailboxes, block registers, page headers, translation and memory upkeep (R21–R31, R184, R185,
R196–R200, R451–R456). -/

namespace Sys2Proof.Machine

/-! ## Registers -/

/-- A register write that passes the checks of the memory path. -/
def gatedWrite (w : Who) (pg off : Nat) (v : Word) (s : State) : State := gated w pg off (regWrite w pg off v) s

/-- A register read; the value goes to `readData`. What does not pass reads 0, and a held read waits (R138, R390). -/
def gatedRead (w : Who) (pg off : Nat) (s : State) : State :=
  match regGate s w pg off with
  | .ok =>
    let (v, s1) := regRead w pg off s
    { s1 with readData := v }
  | .held => s
  | g => denied w pg off g { s with readData := 0 }

/-- REGISTER_WRITE (R11). -/
def execRegisterWrite (w : Who) (pg : Fin 512) (off : Fin 1024) (v : Word) (s : State) : Res :=
  .next (gatedWrite w pg off v s)

/-- The write that clears a register's counts: its RW bits as they stand, and the CLR bit. -/
def clearWord (s : State) (pg off : Nat) : Word :=
  match pageKind pg with
  | none => 0
  | some (k, i) =>
    let sp := regSpec k i off
    if sp.clr = 0 then reg s pg off &&& wd sp.rw else setB (reg s pg off &&& wd sp.rw) sp.clrBit true

/-- The register holds counts with a CLR bit (R69). -/
def isCounter (pg off : Nat) : Bool :=
  match pageKind pg with
  | none => false
  | some (k, i) => decide ((regSpec k i off).clr ≠ 0)

/-- COUNTER_CLEAR (R69): of a register that holds counts. -/
def execCounterClear (w : Who) (pg : Fin 512) (off : Fin 1024) (s : State) : Res :=
  .next (if isCounter pg off then gatedWrite w pg off (clearWord s pg off) s else s)

/-- TREL_JOURNAL_READ (R249): JOURNAL0, of the channel TREL_JOURNAL_SEL selects. -/
def execTrelJournalRead (w : Who) (s : State) : Res := .next (gatedRead w pgTrel 0x020 s)

/-! ## Mailboxes (R21–R24) -/

/-- MBOX_PUT (R21–R23). -/
def execMboxPut (w : Who) (u : MUnit) (item : Word) (s : State) : Res :=
  .next (gatedWrite w (mboxReg u).1 (mboxReg u).2 item s)

/-- MBOX_TAKE (R21). -/
def execMboxTake (w : Who) (u : MUnit) (s : State) : Res := .next (gatedRead w (mboxReg u).1 ((mboxReg u).2 + 1) s)

/-- CLR_DROPS (R24). -/
def execClrDrops (w : Who) (u : MUnit) (s : State) : Res :=
  .next (gatedWrite w (mboxReg u).1 ((mboxReg u).2 + 2) (wd (2 ^ 31)) s)

/-- A withheld write still stands: it is the oldest store of its buffer and goes to that mailbox, or its channel holds the word. -/
def withheldLive (s : State) (x : Withheld) (u : MUnit) (item : Word) : Bool :=
  match x with
  | .store t =>
    match (tineAt s t).sb with
    | e :: _ => (dataWords e.data).any fun d => decide (putMbox (ownPa s e.pa + d.1) = some u) && decide (d.2 = item)
    | [] => false
  | .chan c =>
    match (chanAt s c).phase with
    | .move m => decide (m.words.head? = some item) &&
        (match (chanXlat c (sideAddr m 3 m.dstLine m.dstEl) { store := true } false s).1 with
         | .pa a => decide (putMbox (ownPa s a) = some u)
         | .fault _ _ _ => false)
    | _ => false
  | .direct _ => true

/-- The writer of an accepted write goes on (R120, R485). -/
def withheldDone (x : Withheld) (s : State) : State :=
  match x with
  | .store t => windowGo t (sbPop t s)
  | .chan c =>
    match (chanAt s c).phase with
    | .move m => moveBoundary c (dstNext m) s
    | _ => s
  | .direct _ => s

/-- A mailbox takes items: its plot's domain is up. -/
def mboxUp (s : State) (u : MUnit) : Bool :=
  match u with
  | .plot p => domUp s p
  | .slot l => domUp s (l / 8)
  | _ => true

/-- The k-th write that waits at a mailbox. -/
def withheldAt (s : State) (u : MUnit) (k : Nat) : Option (Withheld × Nat × Word) :=
  (s.withheld.filter fun e => decide (e.2.1 = mboxNo u))[k]?

/-- MBOX_WITHHELD_WRITE_ACCEPT (R23): a slot is free and the k-th write waiting at the mailbox is accepted. -/
def execMboxWithheldWriteAccept (u : MUnit) (k : Nat) (s : State) : Res :=
  .next (match withheldAt s u k with
    | none => s
    | some e =>
      let s1 := { s with withheld := s.withheld.erase e }
      if !withheldLive s e.1 u e.2.2 then s1
      else if (mboxItems s u).length < 8 ∧ mboxUp s u then withheldDone e.1 (mboxAccept u e.2.2 s1)
      else s)

/-! ## Blocks (R29–R32) -/

/-- The fewest ticks that LEN samples of the base rate can span: 125/6 µs a sample at 48 kHz, 10000/441 µs at 44.1 kHz, of an
AON clock that may run 0.5 % slow (R29, R401). -/
def blockTicks (s : State) : Nat :=
  let len := regF s pgDev 0x048 0 10
  if regB s pgDev 0x048 16 then len * 10000 * 995 / 441000 else len * 125 * 995 / 6000

/-- The carrier grid's clock count after a block boundary, none where the boundary cannot come yet: only a block of the 48 kHz
base is tied to the grid (R298). -/
def gridClk (s : State) : Option Nat := if regB s pgDev 0x048 16 then some s.pwmClk else gridBlock s

/-- BLOCK_BOUNDARY (R29, R31, R32): the block sample count rolls over, while the PLL runs and not before LEN samples of the base
rate can have passed since the boundary before it or the lock: the AON clock that counts them may run 0.5 % slow (R401,
assumption 112). -/
def execBlockBoundary (s : State) : Res :=
  .next (if s.pllRuns ∧ s.blkFrom + blockTicks s ≤ s.now + 1 ∧ (gridClk s).isSome then
      let s1 := setReg pgDev 0x049 (reg s pgDev 0x049 + 1) { s with pwmClk := (gridClk s).getD s.pwmClk }
      let s2 := setRegF pgDev 0x04A 0 32 (s.now % 2 ^ 32) s1
      let s3 := waitEvent 0 { s2 with cgArm := [], blkFrom := s.now }
      graftBoundary (forAll (List.range 128) ckptWindow s3)
    else s)

/-- DEV_BLOCK_CFG_WRITE (R31). -/
def execDevBlockCfgWrite (w : Who) (v : Word) (s : State) : Res := .next (gatedWrite w pgDev 0x048 v s)

/-! ## Page headers (R454–R456) -/

/-- PAGE_CTRL_WRITE (R454). -/
def execPageCtrlWrite (w : Who) (pg : Fin 512) (v : Word) (s : State) : Res := .next (gatedWrite w pg 2 v s)

/-- PAGE_LOCK (R454). -/
def execPageLock (w : Who) (pg : Fin 512) (s : State) : Res := .next (gatedWrite w pg 2 (setB (reg s pg 2) 2 true) s)

/-- PAGE_SOFT_RESET (R454). -/
def execPageSoftReset (w : Who) (pg : Fin 512) (s : State) : Res := .next (gatedWrite w pg 2 (setB (reg s pg 2) 1 true) s)

/-- PAGE_IRQ_CLR (R455). -/
def execPageIrqClr (w : Who) (pg : Fin 512) (v : Word) (s : State) : Res := .next (gatedWrite w pg 6 v s)

/-- PAGE_IRQ_EN_WRITE (R455). -/
def execPageIrqEnWrite (w : Who) (pg : Fin 512) (v : Word) (s : State) : Res := .next (gatedWrite w pg 5 v s)

/-- PAGE_OWNER_WRITE (R456). -/
def execPageOwnerWrite (w : Who) (pg : Fin 512) (walled : Bool) (s : State) : Res :=
  .next (gatedWrite w pg 7 (wd (b2n walled)) s)

/-! ## Translation (R196) -/

/-- The word of XINV, TINV and SHOOT with GO. -/
def invWord (all : Bool) (va : BitVec 20) : Word := wd (va.toNat * 2 ^ 12 + b2n all * 2 ^ 38 + 2 ^ 39)

/-- TINE_XCFG_WRITE (R196). -/
def execTineXcfgWrite (w : Who) (t : TineNo) (v : Word) (s : State) : Res := .next (gatedWrite w (pgTine t) oXCFG v s)

/-- XINV (R196). -/
def execXinv (w : Who) (t : TineNo) (all : Bool) (va : BitVec 20) (s : State) : Res :=
  .next (gatedWrite w (pgTine t) oXINV (invWord all va) s)

/-- TINV (R196). -/
def execTinv (w : Who) (all : Bool) (va : BitVec 20) (s : State) : Res := .next (gatedWrite w pgXlat 0x011 (invWord all va) s)

/-- SHOOT (R196). -/
def execShoot (w : Who) (all : Bool) (va : BitVec 20) (s : State) : Res := .next (gatedWrite w pgXlat 0x012 (invWord all va) s)

/-- SHOOT_COMPLETE (R196). -/
def execShootComplete (s : State) : Res := .next (shootDone s)

/-! ## The Weeder (R198, R199) -/

/-- Words, or DRAM lines, of a walk: 0 trays, 1 Shed, 2 DRAM. -/
def weedRange (s : State) (k : Nat) : Nat :=
  match k with
  | 0 => 144 * 0xC000
  | 1 => 0x400000
  | _ => dramLines s

/-- Words that stop together: a tray pair, half of Shed, the DRAM. -/
def weedChunk (s : State) (k : Nat) : Nat :=
  match k with
  | 0 => 0xC000
  | 1 => 0x200000
  | _ => max 1 (dramLines s)

/-- The memory at a place of a walk can be read. -/
def weedUp (s : State) (k pos : Nat) : Bool :=
  match k with
  | 0 => domUp s (pos / 0xC000 / 9)
  | 1 => domUp s (if pos < 0x200000 then domShda else domShdb)
  | _ => domUp s domLink

/-- The physical addresses read at a place: one word, or the first words of a trug's halves. -/
def weedPas (k pos : Nat) : List Nat :=
  match k with
  | 0 =>
    let o := pos % 0xC000
    [trayBase (pos / 0xC000) + (if o < 0x4000 then o else o + 0x4000)]
  | 1 => [0x04000000 + pos]
  | _ => [0x100000000 + 16 * pos, 0x100000000 + 16 * pos + 6]

/-- The next place at or after `pos` whose memory can be read, and the passes completed on the way. -/
def weedSeek (fuel : Nat) (s : State) (k pos passes : Nat) : Option (Nat × Nat) :=
  match fuel with
  | 0 => none
  | n + 1 =>
    if weedRange s k ≤ pos then weedSeek n s k 0 (passes + 1)
    else if weedUp s k pos then some (pos, passes)
    else weedSeek n s k ((pos / weedChunk s k + 1) * weedChunk s k) passes

/-- The Weeder reads one word or half-trug (R199). -/
def weedRead (pa : Nat) (up : Upset) (s : State) : State :=
  if ueAt s pa ∨ up = .ue then eccEvent pa true true 0x340 (ueMark pa s)
  else match up with
    | .ce => eccEvent pa false true 0x340 s
    | .sym errs => (symRead pa errs true 0x340 s).2
    | _ => s

/-- Read the places of one step, in order. -/
def weedPlaces (n k pos passes : Nat) (ups : List Upset) (s : State) : Nat × Nat × State :=
  match n with
  | 0 => (pos, passes, s)
  | j + 1 =>
    match weedSeek 148 s k pos passes with
    | none => (pos, passes, s)
    | some (p, q) =>
      let pas := weedPas k p
      let s1 := forAll (pas.zip (ups ++ List.replicate pas.length .ok)) (fun e x => weedRead e.1 e.2 x) s
      weedPlaces j k (p + 1) q (ups.drop pas.length) s1

/-- Page and offsets of a walk's configuration and progress registers. -/
def weedRegs (k : Nat) : Nat × Nat × Nat :=
  match k with
  | 0 => (pgShed, 0x012, 0x014)
  | 1 => (pgShed, 0x013, 0x015)
  | _ => (pgDram, 0x013, 0x014)

/-- One step of a walk, which sets when its next one is due: a write to its register acts there (R198); `ups` is what its reads meet, in order. -/
def weedStep (k : Nat) (ups : List Upset) (s : State) : State :=
  let (pg, oc, op) := weedRegs k
  let cfg := reg s pg oc
  if !bit cfg 0 ∨ s.now < Tbl.get (fun _ => 0) s.memCtl.walk k then s
  else
    let st := reg s pg op
    let (pos, passes, s1) := weedPlaces (getF cfg 1 4 + 1) k (getF st 14 26) (getF st 0 14) ups s
    let wrap := weedRange s k ≤ pos
    let st1 := wd ((if wrap then 0 else pos) * 2 ^ 14 + min 0x3FFF (passes + b2n (decide wrap)))
    setReg pg op st1 { s1 with memCtl := { s1.memCtl with walk := Tbl.set (fun _ => 0) s1.memCtl.walk k (s.now + max 1 (getF cfg 5 10)) } }

/-- WEEDER_STEP (R198, R199): walk 0 trays, 1 Shed, 2 DRAM. -/
def execWeederStep (k : Fin 3) (ups : List Upset) (s : State) : Res :=
  .next (if k.val = 2 ∧ (weedRange s 2 = 0 ∨ !domUp s domLink) then s else weedStep k ups s)

/-! ## DRAM (R185) -/

/-- The DRAM is fitted and its controller runs. -/
def dramLive (s : State) : Bool := decide (regF s pgDram 0x010 0 2 ≠ 0) && domUp s domLink

/-- DRAM_REFRESH_POLL (R185): every 1 ms, the divisor that MR4 asks for. -/
def execDramRefreshPoll (mr4 : Fin 8) (s : State) : Res :=
  .next (if dramLive s ∧ s.now % 1000 = 0 then { s with memCtl := { s.memCtl with derate := mr4 } } else s)

/-- DRAM_RETRAIN (R185): every 100 ms, the oscillator count read. -/
def execDramRetrain (osc : BitVec 16) (s : State) : Res :=
  .next (if dramLive s ∧ s.now % 100000 = 0 then { s with memCtl := { s.memCtl with osc := osc.toNat } } else s)

/-- PER_BANK_REFRESH (R185): the banks in turn. -/
def execPerBankRefresh (s : State) : Res :=
  .next (if dramLive s then { s with memCtl := { s.memCtl with bank := (s.memCtl.bank + 1) % 8 } } else s)

end Sys2Proof.Machine
end

