-- ==== Sys2Proof/Machine/ChainCmds.lean ====
section
/-! DEFINITION. Accesses from outside as their boot source carries them (R367, R368), and the commands of the Weiskeo chain
(R354–R362). -/

namespace Sys2Proof.Machine

/-! ## Accesses from outside -/

/-- The boot's view of a write: 0 quad-SPI, 1 PCIe, 2 Ethernet, 3 chain UP, 4 no boot source. -/
def srcWrite (src : Nat) (w : Who) (pa : Nat) (v : Word) (up : Upset) (s : State) : HWrite × State :=
  if bootDiscards s src (ownPa s pa) then (.discarded, s)
  else if ownPa s pa = pageAddr pgBoot 0x011 then
    match outGate s w true pa with
    | .ok => (.done, rxlenWrite src v s)
    | _ => outWrite w pa v up s
  else outWrite w pa v up s

/-- Addresses from `pa` on. -/
def pasFrom (pa n : Nat) : List Nat := (List.range n).map fun i => pa + i

/-- Some word of an outside access is in a domain that holds accesses (R390). -/
def anyHeld (s : State) (w : Who) (store : Bool) (pas : List Nat) : Bool :=
  pas.any fun a => decide (outGate s w store a = .hold)

/-- Write words in order; how many could not be performed. -/
def srcWrites (src : Nat) (w : Who) (l : List (Nat × Word)) (ups : List Upset) (s : State) : Nat × State :=
  match l with
  | [] => (0, s)
  | (a, v) :: rest =>
    let (r, s1) := srcWrite src w a v (ups.headD .ok) s
    let (n, s2) := srcWrites src w rest (ups.drop 1) s1
    (n + b2n (decide (r ≠ .done)), s2)

/-- A read of these words waits for answers from the chain: those not yet asked for are asked for. -/
def readsWait (w : Who) (pas : List Nat) (s : State) : Bool × State :=
  let late (a : Nat) : Bool := decide (outGate s w false a = .ok) && physWaits s w a
  if pas.any late then
    (true, forAll (pas.filter fun a => late a && !(s.chainTags.any fun e =>
      decide (e.2.1 = whoSrc w) && decide (e.2.2 = ownPa s a))) (fun a x => physAsk w a x) s)
  else (false, s)

/-- The word a read answers with: 0 where it cannot be read (R190). -/
def readWord (r : HRead) : Word :=
  match r with
  | .word v => v
  | .ue => 0
  | .hold => 0
  | .dormant => 0

/-- Read words in order: each word, 0 where it cannot be read, and whether one ended with an error (R190). -/
def outReads (w : Who) (pas : List Nat) (ups : List Upset) (s : State) : List Word × Bool × State :=
  match pas with
  | [] => ([], false, s)
  | a :: rest =>
    let (r, s1) := outRead w a (ups.headD .ok) s
    let (ws, e, s2) := outReads w rest (ups.drop 1) s1
    (readWord r :: ws, e || decide (r = .ue), s2)

/-! ## Ports (R354–R356, R358, R359) -/

/-- The chain ports work. -/
def chainLive (s : State) : Bool := domUp s domLink && !inReset s

/-- CELL_RECEIVE (R355, R356): eight words arrive at a port. -/
def execCellReceive (p : Fin 2) (ws : List Word) (s : State) : Res := .next (if chainLive s then portReceive p ws s else s)

/-- CELL_SEND (R354–R356): a trained port starts its next cell. -/
def execCellSend (p : Fin 2) (s : State) : Res := .next (if chainLive s ∧ portUp s p then portSend p s else s)

/-- CELL_RESEND (R355): a received NAK names the last good cell. -/
def execCellResend (p : Fin 2) (ack : BitVec 8) (s : State) : Res :=
  .next (if chainLive s ∧ portUp s p then portResend p ack.toNat s else s)

/-- LINK_RETRAIN (R355): after eight resends of one cell the port retrains, or goes down. -/
def execLinkRetrain (p : Fin 2) (ok : Bool) (s : State) : Res :=
  .next (if chainLive s ∧ portUp s p ∧ 8 ≤ (portAt s p).resends then
      (if ok then setPort p { portAt s p with resends := 0 } s else portDown p s)
    else s)

/-- LINK_DOWN (R359). -/
def execLinkDown (p : Fin 2) (s : State) : Res := .next (if chainLive s ∧ portUp s p then portDown p s else s)

/-- PORT_UNCONNECTED (R358): 2 ms after reset release at the earliest. -/
def execPortUnconnected (p : Fin 2) (s : State) : Res :=
  .next (if chainLive s ∧ s.releasedAt + 2000 ≤ s.now then portAlone p s else s)

/-- CHAIN_PORT_TRAINED (R358, R359): on the UP port, with a host or with a device. -/
def execChainPortTrained (p : Fin 2) (host : Bool) (s : State) : Res :=
  .next (if chainLive s then portTrained p host s else s)

/-! ## Delivered cells (R356–R361) -/

/-- The oldest delivered cell of a type, and the state without it. -/
def nextCell (typ : Nat) (s : State) : Option (Cell × State) :=
  match findPos (fun c : Cell => decide (c.typ = typ)) s.cellsIn with
  | some k =>
    match s.cellsIn[k]? with
    | some c => some (c, { s with cellsIn := dropAt s.cellsIn k })
    | none => none
  | none => none

/-- Words that a WRITE or READ cell covers (Table 15-3). -/
def cellPas (c : Cell) : List Nat := pasFrom (getF (cellW c 1) 0 28) (min 5 (getF (cellW c 1) 28 3 + 1))

/-- The boot source of a cell: chain UP once READY is set, or none (R367). -/
def cellSrc (s : State) (c : Cell) : Nat := if chainReady s ∧ c.src < chainAddr s then 3 else 4

/-- A write that cannot be performed counts in WERR (R360). -/
def werrCount (n : Nat) (s : State) : State := if n = 0 then s else bumpF pgChain 0x017 24 12 1 s

/-- A WRITE cell (R360), made in the world `walled`; `ups` is what merges of its words meet. -/
def chainWrite (walled : Bool) (ups : List Upset) (s : State) : State :=
  match nextCell 1 s with
  | none => s
  | some (c, s1) =>
    if anyHeld s1 (.chainWin walled) true (cellPas c) then s
    else
      let (n, s2) := srcWrites (cellSrc s1 c) (.chainWin walled) ((cellPas c).zip (c.body.drop 1)) ups s1
      werrCount n s2

/-- CHAIN_WRITE (R360). -/
def execChainWrite (walled : Bool) (ups : List Upset) (s : State) : Res :=
  .next (if chainLive s then chainWrite walled ups s else s)

/-- A READ cell (R360): its RDATA answers with the words, or with ERR. -/
def chainRead (walled : Bool) (ups : List Upset) (s : State) : State :=
  match nextCell 2 s with
  | none => s
  | some (c, s1) =>
    let w : Who := .chainWin walled
    let pas := cellPas c
    let tag := getF (cellW c 2) 0 16
    let answer (err : Bool) (ws : List Word) (s : State) : State :=
      cellRoute (mkCell s 3 c.src 0 (wd (tag + 2 ^ 16 * b2n err) :: ws)) s
    if anyHeld s1 w false pas then s
    else if pas.all fun a => decide (outGate s1 w false a = .ok) then
      let (ws, e, s2) := outReads w pas ups s1
      if e then answer true [] s2 else answer false ws s2
    else
      answer true [] (if pas.any (fun a => decide (outGate s1 w false a = .fenced)) then fenceCount s1 else s1)

/-- CHAIN_READ (R360). -/
def execChainRead (walled : Bool) (ups : List Upset) (s : State) : Res :=
  .next (if chainLive s then chainRead walled ups s else s)

/-- An RDATA cell (R360): its tag names the read; a tag that names none is dropped. -/
def chainRdata (s : State) : State :=
  match nextCell 3 s with
  | none => s
  | some (c, s1) =>
    let tag := getF (cellW c 1) 0 16
    match s1.chainTags.find? fun e => decide (e.1 = tag) with
    | none => s1
    | some e =>
      { s1 with
        chainTags := s1.chainTags.filter fun x => decide (x.1 ≠ tag)
        chainBack := s1.chainBack ++ [(e.2.1, e.2.2, if bit (cellW c 1) 16 then none else some (cellW c 2))] }

/-- CHAIN_RDATA (R360). -/
def execChainRdata (s : State) : Res := .next (if chainLive s then chainRdata s else s)

/-- An EVENT cell (R357): LEVEL, UNIT and INPUT as Table 9-8. -/
def chainEvent (s : State) : State :=
  match nextCell 4 s with
  | none => s
  | some (c, s1) =>
    let w := cellW c 1
    raiseUnit (getF w 0 3) (getF w 3 11) (if bit w 18 then 63 else 16 + getF w 14 4) s1

/-- CHAIN_EVENT (R357). -/
def execChainEvent (s : State) : Res := .next (if chainLive s then chainEvent s else s)

/-- Perform the oldest cell of a type that carries a number. -/
def withNumber (typ : Nat) (f : Nat → State → State) (s : State) : State :=
  match nextCell typ s with
  | none => s
  | some (c, s1) => if chainLive s then f (getF (cellW c 1) 0 5) s1 else s

/-- ENUM (R358). -/
def execEnum (s : State) : Res := .next (withNumber 5 enumCell s)

/-- ENUM_END (R358): on the head. -/
def execEnumEnd (s : State) : Res := .next (withNumber 6 (fun n x => if chainHead x then headReady n x else x) s)

/-- ENUM_DONE (R358): on a member; a device with OVER stays outside the chain. -/
def execEnumDone (s : State) : Res := .next (withNumber 7 (fun n x => if chainHead x || chainOver x then x else enumDone n x) s)

/-- A ROUTE cell (R361): the member's copy changes, its RR position stays. -/
def routeCell (s : State) : State :=
  match nextCell 8 s with
  | none => s
  | some (c, s1) => if chainHead s1 || chainOver s1 then s1 else setReg pgDev 0x044 (cellW c 1 &&& wd 0xFFFFF7) s1

/-- ROUTE_CELL (R361). -/
def execRouteCell (s : State) : Res := .next (if chainLive s then routeCell s else s)

/-- LINK_LOST (R359): the first address lost. -/
def execLinkLost (s : State) : Res := .next (withNumber 9 (fun n x => if chainOver x ∨ 16 ≤ n then x else linkLost n x) s)

/-- A BCAST cell (R361): checked as a chain-window write in the world `walled`. -/
def bcastCell (walled : Bool) (up : Upset) (s : State) : State :=
  match nextCell 10 s with
  | none => s
  | some (c, s1) =>
    let pa := getF (cellW c 1) 0 28
    if chainOver s1 || !bit (cellW c 2) (chainAddr s1) then s1
    else if anyHeld s1 (.chainWin walled) true [pa] then s
    else
      let (n, s2) := srcWrites (cellSrc s1 c) (.chainWin walled) [(pa, cellW c 3)] [up] s1
      werrCount n s2

/-- BCAST (R361). -/
def execBcast (walled : Bool) (up : Upset) (s : State) : Res :=
  .next (if chainLive s then bcastCell walled up s else s)

/-! ## Register writes (R359, R361, R362) -/

/-- CHAIN_ROUTE_WRITE (R361). -/
def execChainRouteWrite (w : Who) (v : Word) (s : State) : Res := .next (gatedWrite w pgDev 0x044 v s)
/-- CHAIN_BCAST_DATA_WRITE (R361). -/
def execChainBcastDataWrite (w : Who) (v : Word) (s : State) : Res := .next (gatedWrite w pgChain 0x016 v s)
/-- REENUM (R359). -/
def execReenum (w : Who) (s : State) : Res := .next (gatedWrite w pgChain 0x013 4 s)
/-- WAKE_UP (R362). -/
def execWakeUp (w : Who) (s : State) : Res := .next (gatedWrite w pgChain 0x013 1 s)
/-- WAKE_DN (R362). -/
def execWakeDn (w : Who) (s : State) : Res := .next (gatedWrite w pgChain 0x013 2 s)

end Sys2Proof.Machine
end

