-- ==== Sys2Proof/Machine/HostAccess.lean ====
section
/-! DEFINITION. Direct accesses of the host over PCIe, quad-SPI and Ethernet (R320–R323, R367, R459). -/

namespace Sys2Proof.Machine

/-! ## PCIe (R321, R459) -/

/-- The PCIe link carries accesses. -/
def pcieLive (s : State) : Bool := domUp s domLink && regB s pgPcie 0x010 4

/-- A PCIe write of one word. -/
def barWrite (pa : Nat) (v : Word) (up : Upset) (s : State) : State := (srcWrite 1 .host pa v up s).2

/-- A held 32-bit write is performed alone (R459); one to a domain that holds accesses stays (R390). -/
def barFlush (s : State) : State :=
  match s.barHeld with
  | some (pa, v, _) => if anyHeld s .host true [pa] then s else barWrite pa (wd v) .ok { s with barHeld := none }
  | none => s

/-- A held write could not be performed: what comes after it waits. -/
def barStuck (s : State) : Bool :=
  match s.barHeld with
  | some (pa, _, _) => anyHeld s .host true [pa]
  | none => false

/-- The error status of a host read that met an uncorrectable word (R190). -/
def hostError (bad : Bool) (pas : List Nat) (s : State) : State := if bad then emit (.other "host-error" pas) s else s

/-- What a PCIe read returned: 0 with an error, or the word (R190). -/
def barRead (pa : Nat) (up : Upset) (low : Bool) (s : State) : State :=
  let (r, s1) := outRead .host pa up s
  let v : Word := match r with | .word v => v | _ => 0
  let s2 := hostError (decide (r = .ue)) [pa] s1
  { s2 with readData := if low then wd (getF v 0 32) else v, barHi := Tbl.set (fun _ => 0) s2.barHi pa (getF v 32 8) }

/-- The access completes the held write (R459). -/
def barCompletes (s : State) (pa : Nat) (a : BarAcc) : Bool :=
  match a, s.barHeld with
  | .w32 true _, some (q, _, _) => decide (q = pa)
  | _, _ => false

/-- One access to a slot, what was held before it performed. -/
def barDo (pa : Nat) (a : BarAcc) (up : Upset) (s : State) : State :=
  match a with
  | .r64 => barRead pa up false s
  | .r32 false => barRead pa up true s
  | .r32 true => { s with readData := wd (Tbl.get (fun _ => 0) s.barHi pa) }
  | .w64 v => barWrite pa (wd (v.toNat % 2 ^ 40)) up s
  | .w32 false v => { s with barHeld := some (pa, v.toNat, s.now) }
  | .w32 true v =>
    let low := match s.barHeld with | some (_, x, _) => x | none => 0
    barWrite pa (wd (low + v.toNat % 256 * 2 ^ 32)) up { s with barHeld := none }
  | .poison => bumpF pgPcie 0x011 16 16 1 s

/-- The access reads memory or a register. -/
def barReads (a : BarAcc) : Bool :=
  match a with
  | .r64 | .r32 false => true
  | _ => false

/-- The access writes it. -/
def barWrites (a : BarAcc) : Bool :=
  match a with
  | .w64 _ | .w32 true _ => true
  | _ => false

/-- A PCIe access to the slot of a physical word (R459). -/
def barAccess (pa : Nat) (a : BarAcc) (up : Upset) (s : State) : State :=
  let s1 := if barCompletes s pa a then s else barFlush s
  if (!barCompletes s pa a && barStuck s1) || (barReads a && anyHeld s1 .host false [pa]) || (barWrites a && anyHeld s1 .host true [pa]) then s1
  else if barReads a then
    match readsWait .host [pa] s1 with
    | (true, s2) => s2
    | (false, s2) => barDo pa a up s2
  else barDo pa a up s1

/-- PCIE_BAR0_ACCESS (R321, R459): register slot `slot`, page × 1,024 + offset. -/
def execPcieBar0Access (slot : Fin 524288) (a : BarAcc) (s : State) : Res :=
  .next (if pcieLive s then barAccess (0x08000000 + slot.val) a .ok s else s)

/-- HELD_WRITE_EXPIRY (R459): at the start of the second tick after it was received. -/
def execHeldWriteExpiry (s : State) : Res :=
  .next (match s.barHeld with
    | some (_, _, t) => if domUp s domLink ∧ t + 2 ≤ s.now then barFlush s else s
    | none => s)

/-- PCIE_BAR2_ACCESS (R321): word `n` of the aperture. -/
def execPcieBar2Access (n : Fin 2097152) (a : BarAcc) (up : Upset) (s : State) : Res :=
  .next (if pcieLive s then barAccess (regF s pgHost 0x01D 0 34 + n.val) a up s else s)

/-! ## Quad-SPI (R322) -/

/-- QSPI_READ (R322): `n` words; they go out, five bytes per word. -/
def execQspiRead (addr : BitVec 34) (n : Nat) (ups : List Upset) (s : State) : Res :=
  .next (
    let pas := pasFrom addr.toNat n
    if !domUp s domLink || anyHeld s .host false pas then s
    else match readsWait .host pas s with
      | (true, s1) => s1
      | (false, s1) =>
        let (ws, bad, s2) := outReads .host pas ups s1
        emit (.other "qspi" (ws.map (·.toNat))) (hostError bad pas { s2 with readData := ws.getLastD 0 }))

/-- QSPI_WRITE (R322): whole words, and whether a partial one was cut off. -/
def execQspiWrite (addr : BitVec 34) (ws : List Word) (cut : Bool) (ups : List Upset) (s : State) : Res :=
  .next (
    let pas := pasFrom addr.toNat ws.length
    if !domUp s domLink || anyHeld s .host true pas then s
    else
      let s1 := (srcWrites 0 .host (pas.zip ws) ups s).2
      if cut then bumpF pgQspi 0x010 16 16 1 s1 else s1)

/-- QSPI_BAD_OPCODE (R322). -/
def execQspiBadOpcode (s : State) : Res := .next (if domUp s domLink then bumpF pgQspi 0x010 0 16 1 s else s)

/-! ## Host frames (R323, R367) -/

/-- HOST_ETH_PEER (R323). -/
def ethPeer (s : State) : Nat := regF s pgHost 0x01E 0 32 + 2 ^ 32 * regF s pgHost 0x01F 0 16

/-- BOOT_MAC as a number; none while it is not programmed (R367). -/
def bootMac (s : State) : Option Nat := s.otp.mac.map fun bs => numAt bs 0 6

/-- A host frame is accepted: from the peer; or in a boot that listens to Ethernet, to broadcast or to BOOT_MAC. -/
def frameOk (s : State) (f : HFrame) : Bool :=
  domUp s domLink && ethLink s f.mac.val &&
    (if f.boot then
      (bootSources s.boot.sel).contains 2 && bootOpen s &&
        (decide (f.dst.toNat = 2 ^ 48 - 1) || decide (bootMac s = some f.dst.toNat))
     else decide (f.src.toNat = ethPeer s))

/-- The answer to a host frame goes into queue 0 of its MAC, echoing SEQ (R323, R341); a frame of the boot ROM is marked by
its OP + 16. -/
def frameAnswer (f : HFrame) (op n : Nat) (ws : List Word) (s : State) : State :=
  hostFrame f.mac (op + 16 * b2n f.boot) f.seq.toNat f.addr.toNat n (ws.map (·.toNat)) { s with hostMac := f.mac.val }

/-- HOST_FRAME_READ (R323): OP 1 with COUNT `n`; a boot frame has no reads. -/
def execHostFrameRead (f : HFrame) (n : Nat) (ups : List Upset) (s : State) : Res :=
  .next (
    let pas := pasFrom (f.addr.toNat % 2 ^ 34) n
    if !frameOk s f || f.boot || decide (n = 0) || decide (256 < n) || anyHeld s .host false pas then s
    else match readsWait .host pas s with
      | (true, s1) => s1
      | (false, s1) =>
        let (ws, bad, s2) := outReads .host pas ups s1
        frameAnswer f 3 n ws (hostError bad pas { s2 with readData := ws.getLastD 0 }))

/-- HOST_FRAME_WRITE (R323, R367): OP 2 with its words. -/
def execHostFrameWrite (f : HFrame) (ws : List Word) (ups : List Upset) (s : State) : Res :=
  .next (
    let pas := pasFrom (f.addr.toNat % 2 ^ 34) ws.length
    if !frameOk s f || ws.isEmpty || decide (256 < ws.length) || anyHeld s .host true pas then s
    else frameAnswer f 4 ws.length [] (srcWrites 2 .host (pas.zip ws) ups s).2)

end Sys2Proof.Machine
end

