-- ==== Sys2Proof/Machine/DebugCmds.lean ====
section
/-! DEFINITION. Debug requests of the probe and of the host session (R425, R429–R432). -/

namespace Sys2Proof.Machine

/-- The requester of a session. -/
def dbgWho (probe : Bool) : Who := if probe then .probe else .host

/-- The answer to a debug request: its opcode letter, its status (Table 19-4) and numbers. -/
def dbgAnswer (probe : Bool) (op : String) (status : Nat) (ns : List Nat) (s : State) : State :=
  emit (.other op ([b2n probe, status] ++ ns)) s

/-- What a debug request comes to: whether it still waits (then it is made again), and the state. -/
abbrev DbgRes := Bool × State

/-- A request that has its answer. -/
def dbgEnd (probe : Bool) (op : String) (status : Nat) (ns : List Nat) (s : State) : DbgRes :=
  (false, dbgAnswer probe op status ns s)

/-- A Run request for the domain that a request waits for, made once (R393, R431). -/
def dbgWake (d : Nat) (s : State) : State :=
  if s.pwr.want.contains d || domSt s d = .restoring then s else runRequest 0x320 (2 ^ d) s

/-- A request that needs a grant and a domain in Run. It waits while the domain is stopping; once the domain is past its
commit point it waits for a Run request under DEBUG_WAKE, and without it ends DORMANT when the domain is in Stop (R390,
R429, R431). -/
def dbgAt (probe : Bool) (op : String) (d : Option Nat) (f : State → DbgRes) (s : State) : DbgRes :=
  if (sessOf s probe).level = 0 then dbgEnd probe op 1 [] s
  else match d with
    | none => f s
    | some d =>
      match domSt s d with
      | .run => f s
      | .stopping => (true, s)
      | .closing => (true, if (sessOf s probe).debugWake then dbgWake d s else s)
      | .stop | .restoring =>
        if (sessOf s probe).debugWake then (true, dbgWake d s) else dbgEnd probe op 3 [] s

/-! ## Halt, resume and step (R430) -/

/-- A halt is requested: taken at once where it can be. -/
def dbgHalt (probe : Bool) (t : Nat) (s : State) : DbgRes :=
  let s1 := if (tineAt s t).halt = .no then haltCheck t (modTine t (fun x => { x with dreq := .halt probe }) s) else s
  dbgEnd probe "halt" 0 [] s1

/-- The tine was halted by a session. -/
def dbgHalted (s : State) (t : Nat) : Bool := decide ((tineAt s t).halt = .host) || decide ((tineAt s t).halt = .probe)

/-- A halted tine resumes; a halt request that is held is withdrawn. -/
def dbgResume (probe : Bool) (t : Nat) (s : State) : DbgRes :=
  if !grantCovers s probe t then dbgEnd probe "resume" 2 [] s
  else
    let s1 := modTine t (fun x => { x with dreq := .none, halt := if dbgHalted s t then .no else x.halt }) s
    dbgEnd probe "resume" 0 [] (sieveUpdate t (alive t s1))

/-- A halted tine steps. -/
def dbgStep (probe : Bool) (t : Nat) (s : State) : DbgRes :=
  if !dbgHalted s t then dbgEnd probe "step" 5 [] s
  else if !grantCovers s probe t then dbgEnd probe "step" 2 [] s
  else dbgEnd probe "step" 0 [] (modTine t (fun x => { x with dreq := .step probe }) s)

/-! ## Memory (R429, R432) -/

/-- Make a permitted access to a physical word. -/
def dbgTouch (probe : Bool) (pa : Nat) (wr : Option Word) (up : Upset) (s : State) : DbgRes :=
  let w := dbgWho probe
  match wr with
  | some v =>
    match physWrite w 0 pa (.word v) up s with
    | (.done, s1) | (.withheld _ _, s1) => dbgEnd probe "mem" 0 [] s1
    | (.error, s1) => dbgEnd probe "mem" 4 [0x0B, 1] s1
    | (.dormant, s1) => dbgEnd probe "mem" 3 [] s1
    | (.hold, s1) => (true, s1)
  | none =>
    if physWaits s w pa then
      (true, if s.chainTags.any (fun e => decide (e.2.1 = whoSrc w) && decide (e.2.2 = ownPa s pa)) then s else physAsk w pa s)
    else match physRead w pa up s with
      | (.word v, s1) => dbgEnd probe "mem" 0 [v.toNat] { s1 with readData := v }
      | (.ue, s1) | (.bus, s1) => dbgEnd probe "mem" 4 [0x0B, 1] s1
      | (.lost, s1) => dbgEnd probe "mem" 4 [0x07, 1] s1
      | (.dormant, s1) => dbgEnd probe "mem" 3 [] s1
      | (.hold, s1) => (true, s1)

/-- A fenced word reads 0, discards writes and counts (R432). -/
def dbgFenced (probe : Bool) (op : String) (s : State) : DbgRes := dbgEnd probe op 0 [0] { fenceCount s with readData := 0 }

/-- The checks of a physical word under a Walled grant, or of one that a translation gave. -/
def dbgPhys (probe : Bool) (pa : Nat) (wr : Option Word) (up : Upset) (s : State) : DbgRes :=
  let walled := decide ((sessOf s probe).level = 2)
  if reservedPa (ownPa s pa) || whoFenced s (dbgWho probe) (ownPa s pa) then dbgFenced probe "mem" s
  else match physChecks s walled { store := wr.isSome } false pa with
    | .pa _ => dbgTouch probe pa wr up s
    | .fault c k _ =>
      if c = 0x07 ∧ k = 7 ∧ walled then
        match regionOf (ownPa s pa) with
        | .itray t _ => if (tineAt s t).halt = .no then dbgEnd probe "mem" 5 [] s else dbgTouch probe pa wr up s
        | _ => dbgEnd probe "mem" 4 [c, k] s
      else dbgEnd probe "mem" 4 [c, k] s

/-- A physical address: under an Open grant only Open-owned register pages. -/
def dbgPhysical (probe : Bool) (pa : Nat) (wr : Option Word) (up : Upset) (s : State) : DbgRes :=
  if (sessOf s probe).level = 2 then dbgPhys probe pa wr up s
  else match regionOf (ownPa s pa) with
    | .page pg off =>
      match regGate s (dbgWho probe) pg off with
      | .world => dbgEnd probe "mem" 2 [] s
      | _ => dbgPhys probe pa wr up s
    | .hole => dbgEnd probe "mem" 4 [0x07, 1] s
    | _ => dbgEnd probe "mem" 1 [] s

/-- The physical address that a tine's translation gives a session, or the fault (R195). -/
def dbgXlat (src : Nat) (walled : Bool) (t v : Nat) (store : Bool) (s : State) : XOut × State :=
  let cfg := reg s (pgTine t) oXCFG
  let leaf (l : XLeaf) : XOut :=
    match leafRights l walled false { store := store } false with
    | some (c, k, i) => .fault c k i
    | none => .pa (leafPa l t v)
  if !bit cfg 0 then (if walled then .pa v else .fault 0x08 1 0, s)
  else match (tineAt s t).xcache.find? (leafCovers · v) with
    | some l => (leaf l, s)
    | none =>
      match xlatWalk src true (getF cfg 14 20) v s with
      | (.fail k, s1) => (.fault 0x08 k 0, s1)
      | (.leaf l, s1) => (leaf l, s1)

/-- An access to a memory word (R429). -/
def dbgMem (probe : Bool) (a : DbgAddr) (wr : Option Word) (up : Upset) (s : State) : DbgRes :=
  match a with
  | .phys pa => dbgAt probe "mem" (paDom (ownPa s pa.toNat)) (dbgPhysical probe pa.toNat wr up) s
  | .virt t v =>
    dbgAt probe "mem" (some (t.val / 9)) (fun s =>
      match dbgXlat (whoSrc (dbgWho probe)) (decide ((sessOf s probe).level = 2)) t v.toNat wr.isSome s with
      | (.fault c k _, s) => dbgEnd probe "mem" 4 [c, k] s
      | (.pa pa, s) => dbgAt probe "mem" (paDom (ownPa s pa)) (dbgPhys probe pa wr up) s) s

/-! ## Registers (R429) -/

/-- A read or a write of a page register that may be reached. -/
def dbgRegTouch (probe : Bool) (pg off : Nat) (wr : Option Word) (s : State) : DbgRes :=
  match wr with
  | some v => dbgEnd probe "reg" 0 [] (regWrite (dbgWho probe) pg off v s)
  | none =>
    let (v, s1) := regRead (dbgWho probe) pg off s
    dbgEnd probe "reg" 0 [v.toNat] { s1 with readData := v }

/-- A page register under a grant. -/
def dbgPage (probe : Bool) (pg off : Nat) (wr : Option Word) (s : State) : DbgRes :=
  match regGate s (dbgWho probe) pg off with
  | .ok => dbgRegTouch probe pg off wr s
  | .world => dbgEnd probe "reg" 2 [] s
  | .fenced => dbgFenced probe "reg" s
  | .hole => dbgEnd probe "reg" 4 [0x07, 1] s
  | .dormant => dbgEnd probe "reg" 3 [] s
  | .held => (true, s)

/-- Registers that a session without a grant may read. -/
def dbgFree (pg off : Nat) : Bool := decide (pg = pgSec) && decide (0x010 ≤ off) && decide (off ≤ 0x014)

/-- The power domain of a page register. -/
def offDom (pg off : Nat) : Option Nat :=
  match pageKind pg with
  | some (k, i) => pageDom k i off
  | none => none

/-- A register for a session: without a grant only what everyone may read, and of a domain in Stop nothing else than DORMANT
(Table 19-3). -/
def dbgRegAt (probe : Bool) (d : Option Nat) (f : State → DbgRes) (s : State) : DbgRes :=
  if (sessOf s probe).level = 0 then dbgEnd probe "reg" (if d.any (domAsleep s) then 3 else 1) [] s
  else dbgAt probe "reg" d f s

/-- A page register for a session. -/
def dbgPageAt (probe : Bool) (pg off : Nat) (wr : Option Word) (s : State) : DbgRes :=
  if (sessOf s probe).level = 0 ∧ dbgFree pg off ∧ wr = none then dbgRegTouch probe pg off none s
  else dbgRegAt probe (offDom pg off) (dbgPage probe pg off wr) s

/-- A register of a halted tine. -/
def dbgTine (probe : Bool) (t : Nat) (rd : State → Word) (f : Word → State → State) (wr : Option Word) (s : State) : DbgRes :=
  if (tineAt s t).halt = .no then dbgEnd probe "reg" 5 [] s
  else if !grantCovers s probe t then dbgEnd probe "reg" 2 [] s
  else match wr with
    | some v => dbgEnd probe "reg" 0 [] (f v s)
    | none => dbgEnd probe "reg" 0 [(rd s).toNat] { s with readData := rd s }

/-- Part `k` of an accumulator image. -/
def accPart (a : Acc96) (k : Nat) : Word := ((accImage a)[k]?).getD 0

/-- Write part `k` of an accumulator image. -/
def accSetPart (a : Acc96) (k : Nat) (v : Word) : Acc96 :=
  let ws := setAt (accImage a) k v
  accOfImage ((ws[0]?).getD 0) ((ws[1]?).getD 0) ((ws[2]?).getD 0)

/-- An access to a register (R429). -/
def dbgReg (probe : Bool) (r : DbgReg) (wr : Option Word) (s : State) : DbgRes :=
  let tine (t : TineNo) (rd : State → Word) (f : Word → State → State) : DbgRes :=
    dbgRegAt probe (some (t.val / 9)) (dbgTine probe t rd f wr) s
  match r with
  | .page pg off => dbgPageAt probe pg off wr s
  | .g t i => tine t (fun s => getG s t i) (fun v => setG t i v)
  | .acc t n k => tine t (fun s => accPart (getAcc s t n) k) (fun v s => setAcc t n (accSetPart (getAcc s t n) k v) s)
  | .pc t => tine t (fun s => wd (tineAt s t).pc.toNat) (fun v => setPc t (BitVec.ofNat 14 v.toNat))
  | .ctl t n =>
    tine t (fun s => tinePageRead s (dbgWho probe) t (0x080 + n.val)) (fun v => tinePageWrite (dbgWho probe) t (0x080 + n.val) v)

/-! ## Requests -/

/-- A debug request under the session's present grant. -/
def dbgDo (probe : Bool) (op : DbgOp) (s : State) : DbgRes :=
  match op with
  | .halt t => dbgAt probe "halt" (some (t.val / 9)) (dbgHalt probe t) s
  | .resume t => dbgAt probe "resume" (some (t.val / 9)) (dbgResume probe t) s
  | .step t => dbgAt probe "step" (some (t.val / 9)) (dbgStep probe t) s
  | .mem a wr up => dbgMem probe a wr up s
  | .reg r wr => dbgReg probe r wr s

/-- A debug request arrives: one that waits is accepted, with the grant it came under (R427, R431). -/
def dbgRequest (probe : Bool) (op : DbgOp) (s : State) : Res :=
  .next (viaTap probe (fun s =>
    let r := dbgDo probe op s
    if r.1 then { r.2 with dbgHeld := r.2.dbgHeld ++ [{ probe := probe, grant := sessOf s probe, op := op }] } else r.2) s)

/-- Replace a session's grant, and no register. -/
def putSess (probe : Bool) (x : Session) (s : State) : State :=
  if probe then { s with probeSess := x } else { s with hostSess := x }

/-- An accepted request is made again under its own grant; the session keeps the grant it has (R427). -/
def dbgAgain (r : DbgReq) (s : State) : State :=
  let cur := sessOf s r.probe
  let o := dbgDo r.probe r.op (putSess r.probe r.grant s)
  let s1 := if sessOf o.2 r.probe = r.grant then putSess r.probe cur o.2 else o.2
  if o.1 then { s1 with dbgHeld := s1.dbgHeld ++ [r] } else s1

/-- The requests that wait are made again, oldest first. -/
def dbgGo (s : State) : State := forAll s.dbgHeld dbgAgain { s with dbgHeld := [] }

/-- DEBUG_HALT (R430). -/
def execDebugHalt (probe : Bool) (t : TineNo) (s : State) : Res := dbgRequest probe (.halt t) s

/-- DEBUG_RESUME (R429). -/
def execDebugResume (probe : Bool) (t : TineNo) (s : State) : Res := dbgRequest probe (.resume t) s

/-- DEBUG_STEP (R430). -/
def execDebugStep (probe : Bool) (t : TineNo) (s : State) : Res := dbgRequest probe (.step t) s

/-- DEBUG_MEMORY_ACCESS (R429): a read, or a write of a word. -/
def execDebugMemoryAccess (probe : Bool) (a : DbgAddr) (wr : Option Word) (up : Upset) (s : State) : Res :=
  dbgRequest probe (.mem a wr up) s

/-- DEBUG_REGISTER_ACCESS (R429): a read, or a write of a word. -/
def execDebugRegisterAccess (probe : Bool) (r : DbgReg) (wr : Option Word) (s : State) : Res := dbgRequest probe (.reg r wr) s

end Sys2Proof.Machine
end

