-- ==== Sys2Proof/Machine/HostCmds.lean ====
section
/-! DEFINITION. The commands of the host queue engine and of the PCIe link (R325–R337, R455, R462). -/

namespace Sys2Proof.Machine

/-- HOST_SQDB (R325). -/
def execHostSqdb (w : Who) (q : Fin 65) (v : BitVec 12) (s : State) : Res :=
  .next (gated w pgHost (0x100 + 4 * q) (hostWrite (0x100 + 4 * q) (wd v.toNat)) s)

/-- HOST_CQDB (R325). -/
def execHostCqdb (w : Who) (q : Fin 65) (v : BitVec 12) (s : State) : Res :=
  .next (gated w pgHost (0x101 + 4 * q) (hostWrite (0x101 + 4 * q) (wd v.toNat)) s)

/-- SQ_FETCH (R328): the next queue in round-robin order is fetched. -/
def execSqFetch (s : State) : Res :=
  .next (match fetchNext s with
    | some q => sqFetch q s
    | none => s)

/-- HOST_READ_COMPLETION (R328, R329): the outstanding read of a queue completes with bytes, or fails. -/
def execHostReadCompletion (q : Fin 65) (ok : Bool) (bs : List Byte) (s : State) : Res :=
  .next (
    if hostEn s && domUp s domLink then
      match readingSlot s q with
      | some (i, y) =>
        let s1 := if ok then s else bumpF pgPcie 0x011 0 16 1 s
        match y.st with
        | .reading =>
          if ok then entryLand q i y (bs ++ List.replicate (64 - bs.length) 0) s1
          else slotDone q i y 0x0003 0 false (malf q s1)
        | _ => dataLand q i y ok (bs ++ List.replicate (y.dlen - bs.length) 0) s1
      | none => s
    else s)

/-- COMPLETION_TIMEOUT (R329): the data copy of a queue has had no completion for 50 ms. -/
def execCompletionTimeout (q : Fin 65) (s : State) : Res :=
  .next (
    match readingSlot s q with
    | some (i, y) =>
      match y.st with
      | .copying t =>
        if t + 50000 ≤ s.now then
          slotDone q i y 0x0003 0 false (malf q (bumpF pgPcie 0x011 0 16 1 s))
        else s
      | _ => s
    | none => s)

/-- HANDOVER (R331): the oldest passed entry of a queue is pushed and its doorbell raised. Hoppers 254 and 255 take nothing
from the engine, and the entry waits (R258, assumption 114). -/
def execHandover (q : Fin 65) (s : State) : Res :=
  .next (
    let x := hqAt s q
    match findPos (fun y => decide (y.st = .ready)) x.slots with
    | some i =>
      match x.slots[i]? with
      | some y =>
        if domUp s domTrel ∧ x.hopper < 254 then
          match hopOffer x.hopper (wd (y.slot + 2 ^ 6 * q.val + 2 ^ 32 + 2 ^ 36 * y.pri)) s with
          | (.accepted, s1) => raiseUnit x.dlevel x.dunit (48 + x.dbin) (setSlot q i { y with st := .handed } s1)
          | _ => s
        else s
      | none => s
    | none => s)

/-- CREATE_CQ (R332). -/
def execCreateCq (s : State) : Res :=
  .next (match adminTurn s 3 with
    | some (i, y) =>
      let (st, e) := createCq s y
      slotDone 0 i { y with eff := e } st 0 false { s with adminLast := (3, st, 0) }
    | none => s)

/-- CREATE_SQ (R332). -/
def execCreateSq (s : State) : Res :=
  .next (match adminTurn s 1 with
    | some (i, y) =>
      let (st, e) := createSq s y
      slotDone 0 i { y with eff := e } st 0 false { s with adminLast := (1, st, 0) }
    | none => s)

/-- DELETE_SQ (R332). -/
def execDeleteSq (s : State) : Res :=
  .next (match adminTurn s 2 with
    | some (i, y) =>
      let q := slotNum s (hqAt s 0) y.slot 24 2
      if 1 ≤ q ∧ q ≤ 64 ∧ (hqAt s q).sqLive then
        deleteStep (modHq q (fun x => { x with deleting := true })
          (setSlot 0 i { y with st := .deleting q } { s with adminLast := (2, 0, 0) }))
      else slotDone 0 i y 0x0005 0 false { s with adminLast := (2, 0x0005, 0) }
    | none => s)

/-- DELETE_CQ (R332). -/
def execDeleteCq (s : State) : Res :=
  .next (match adminTurn s 4 with
    | some (i, y) =>
      let q := slotNum s (hqAt s 0) y.slot 24 2
      if 64 < q ∨ !(hqAt s q).cqLive then slotDone 0 i y 0x0005 0 false { s with adminLast := (4, 0x0005, 0) }
      else if (hqAt s q).sqLive then slotDone 0 i y 0x0007 0 false { s with adminLast := (4, 0x0007, 0) }
      else slotDone 0 i y 0 0 false (modHq q (fun x => { x with cqLive := false, held := [], window := none })
        { s with adminLast := (4, 0, 0) })
    | none => s)

/-- HOST_CPL (R334): firmware completes a slot of a queue with a status. -/
def execHostCpl (w : Who) (q : BitVec 7) (slot : BitVec 6) (status : BitVec 16) (s : State) : Res :=
  .next (gated w pgHost 0x01B
    (hostWrite 0x01B (wd (q.toNat + 2 ^ 7 * slot.toNat + 2 ^ 13 * status.toNat + 2 ^ 39))) s)

/-- Send or store the data of a slot (R333). -/
def dataOut (q : Nat) (y : HSlot) (s : State) : State :=
  let bs := shedBytes s (slotPa (hqAt s q) y.slot + 16) y.dlen
  if hostIface s = 0 then pcieWrite y.dptr bs s
  else putBytes y.dptr ((y.dlen + 3) / 4) bs s

/-- DATA_WRITE_BACK (R333): the oldest completed entry of a queue with data writes it to DPTR, or fails. -/
def execDataWriteBack (q : Fin 65) (ok : Bool) (s : State) : Res :=
  .next (
    let x := hqAt s q
    let isW (y : HSlot) : Bool := match y.st with | .writing _ _ => true | _ => false
    match findPos isW x.slots with
    | some i =>
      match x.slots[i]? with
      | some y =>
        match y.st with
        | .writing st r =>
          if ok then setSlot q i { y with st := .finished st r } (dataOut q y s)
          else setSlot q i { y with st := .finished 0x0003 r } s
        | _ => s
      | none => s
    | none => s)

/-- RECORD_PUBLISH (R335): one step of a queue's records. -/
def execRecordPublish (q : Fin 65) (s : State) : Res :=
  .next (if hostEn s && domUp s domLink then deleteStep (recordStep q s) else s)

/-- VECTOR_RESEND (R336): an IHOLD window has ended. -/
def execVectorResend (q : Fin 65) (s : State) : Res :=
  .next (
    let x := hqAt s q
    match x.window with
    | some (e, advanced) =>
      if e ≤ s.now then
        (if x.cqLive && advanced then sendVec q s else setHq q { x with window := none } s)
      else s
    | none => s)

/-- HOST_DISABLE (R337): a write of EN = 0. -/
def execHostDisable (w : Who) (s : State) : Res :=
  .next (gated w pgHost 0x010 (fun s => hostWrite 0x010 (setB (reg s pgHost 0x010) 0 false) s) s)

/-- HOST_ENABLE (R324, R337): a write of EN = 1. -/
def execHostEnable (w : Who) (s : State) : Res :=
  .next (gated w pgHost 0x010 (fun s => hostWrite 0x010 (setB (reg s pgHost 0x010) 0 true) s) s)

/-! ## The PCIe link (R455, R462, Table 21-5) -/

/-- PCIE_LINK_UP: the link trains at a generation 1–3 with 1 or 2 lanes. -/
def execPcieLinkUp (gen : Fin 3) (lanes : Fin 2) (s : State) : Res :=
  .next (
    if domUp s domLink then
      setRegF pgPcie 0x010 0 5 (gen.val + 1 + 4 * (lanes.val + 1) + 16) s
    else s)

/-- PCIE_LINK_DOWN. -/
def execPcieLinkDown (s : State) : Res :=
  .next (if domUp s domLink then setRegF pgPcie 0x010 0 5 0 s else s)

/-- The entry of a vector in the MSI-X table. -/
def msixAt (s : State) (v : Nat) : MsixEnt := Tbl.get (fun _ => MsixEnt.reset) s.msixTab v

/-- A vector that was held by its mask has now been sent: it opens the window of each queue that it serves (R336). -/
def vecWindows (v : Nat) (s : State) : State :=
  forAll (List.range 65) (fun q x =>
    let y := hqAt x q
    if y.cqLive ∧ y.vec = some v ∧ y.ihold ≠ 0 ∧ hostIface s = 0 then
      setHq q { y with window := some (s.now + y.ihold, false) } x
    else x) s

/-- The host writes an entry of the MSI-X table; a vector that pends and is unmasked goes (R321). -/
def msixEntry (v : Nat) (e : MsixEnt) (s : State) : State :=
  let s1 := { s with msixTab := Tbl.set (fun _ => MsixEnt.reset) s.msixTab v e }
  if !e.mask ∧ s.msixPend.contains v ∧ msixOk s then
    vecWindows v (msixSend v { s1 with msixPend := s1.msixPend.filter fun k => decide (k ≠ v) })
  else s1

/-- A read of 32-bit word `dw` of BAR4: the table, four words a vector, at offset 0x0000, and the pending bits at 0x1000 (R321,
assumption 153). -/
def bar4Read (s : State) (dw : Nat) : Word :=
  let e := msixAt s (dw / 4)
  if dw < 256 then
    match dw % 4 with
    | 0 => wd (e.addr % 2 ^ 32)
    | 1 => wd (e.addr / 2 ^ 32 % 2 ^ 32)
    | 2 => wd (e.data % 2 ^ 32)
    | _ => wd (b2n e.mask)
  else if 1024 ≤ dw ∧ dw < 1026 then
    wd ((List.range 32).foldl (fun acc k => acc + 2 ^ k * b2n (s.msixPend.contains (32 * (dw - 1024) + k))) 0)
  else 0

/-- A write of 32-bit word `dw` of BAR4: of the table; the pending bits are read only (R321, assumption 153). -/
def bar4Write (dw v : Nat) (s : State) : State :=
  let e := msixAt s (dw / 4)
  if dw < 256 then
    msixEntry (dw / 4) (match dw % 4 with
      | 0 => { e with addr := e.addr / 2 ^ 32 * 2 ^ 32 + v }
      | 1 => { e with addr := e.addr % 2 ^ 32 + 2 ^ 32 * v }
      | 2 => { e with data := v }
      | _ => { e with mask := decide (v % 2 = 1) }) s
  else s

/-- PCIE_CONFIG_WRITE (R321, R462): the host enables or disables MSI-X, writes an entry of its table, or reads or writes a word of
BAR4. -/
def execPcieConfigWrite (a : MsixCfg) (s : State) : Res :=
  .next (
    if domUp s domLink && regB s pgPcie 0x010 4 then
      match a with
      | .enable on => setRegB pgPcie 0x010 5 on s
      | .entry v addr data mask => msixEntry v { addr := addr.toNat, data := data.toNat, mask := mask } s
      | .read dw => { s with readData := bar4Read s dw }
      | .write dw v => bar4Write dw v.toNat s
    else s)

end Sys2Proof.Machine
end

