-- ==== Sys2Proof/Machine/Dispatch.lean ====
section
/-! DEFINITION. The meaning of every command: one arm per constructor of Instr. -/

namespace Sys2Proof.Machine

def exec (i : Instr) (s : State) : Host.Outcome State Fault Refusal :=
  match i with
  | .mboxPut w u item => Sys2Proof.Machine.execMboxPut w u item s
  | .mboxWithheldWriteAccept u k => Sys2Proof.Machine.execMboxWithheldWriteAccept u k s
  | .mboxTake w u => Sys2Proof.Machine.execMboxTake w u s
  | .clrDrops w u => Sys2Proof.Machine.execClrDrops w u s
  | .blockBoundary => Sys2Proof.Machine.execBlockBoundary s
  | .devBlockCfgWrite w v => Sys2Proof.Machine.execDevBlockCfgWrite w v s
  | .registerWrite w pg off v => Sys2Proof.Machine.execRegisterWrite w pg off v s
  | .counterClear w pg off => Sys2Proof.Machine.execCounterClear w pg off s
  | .mov t f => Sys2Proof.Machine.execMov t f s
  | .movi t f => Sys2Proof.Machine.execMovi t f s
  | .movhi t gd imm => Sys2Proof.Machine.execMovhi t gd imm s
  | .add t f => Sys2Proof.Machine.execAdd t f s
  | .sub t f => Sys2Proof.Machine.execSub t f s
  | .addi t f => Sys2Proof.Machine.execAddi t f s
  | .adds t gd ga gb => Sys2Proof.Machine.execAdds t gd ga gb s
  | .subs t gd ga gb => Sys2Proof.Machine.execSubs t gd ga gb s
  | .and t f => Sys2Proof.Machine.execAnd t f s
  | .or t f => Sys2Proof.Machine.execOr t f s
  | .xor t f => Sys2Proof.Machine.execXor t f s
  | .andn t gd ga gb => Sys2Proof.Machine.execAndn t gd ga gb s
  | .andi t gd ga imm => Sys2Proof.Machine.execAndi t gd ga imm s
  | .ori t gd ga imm => Sys2Proof.Machine.execOri t gd ga imm s
  | .xori t gd ga imm => Sys2Proof.Machine.execXori t gd ga imm s
  | .shl t gd ga k => Sys2Proof.Machine.execShl t gd ga k s
  | .shr t gd ga k => Sys2Proof.Machine.execShr t gd ga k s
  | .ash t f => Sys2Proof.Machine.execAsh t f s
  | .rot t gd ga gb => Sys2Proof.Machine.execRot t gd ga gb s
  | .min t gd ga gb => Sys2Proof.Machine.execMin t gd ga gb s
  | .max t gd ga gb => Sys2Proof.Machine.execMax t gd ga gb s
  | .cmp t f => Sys2Proof.Machine.execCmp t f s
  | .cmpi t f => Sys2Proof.Machine.execCmpi t f s
  | .neg t f => Sys2Proof.Machine.execNeg t f s
  | .not t f => Sys2Proof.Machine.execNot t f s
  | .abs t f => Sys2Proof.Machine.execAbs t f s
  | .norm t f => Sys2Proof.Machine.execNorm t f s
  | .normm t f => Sys2Proof.Machine.execNormm t f s
  | .log2 t gd ga => Sys2Proof.Machine.execLog2 t gd ga s
  | .exp2 t gd ga => Sys2Proof.Machine.execExp2 t gd ga s
  | .recip t gd ga => Sys2Proof.Machine.execRecip t gd ga s
  | .rsqrt t gd ga => Sys2Proof.Machine.execRsqrt t gd ga s
  | .crc8 t gd gs gp => Sys2Proof.Machine.execCrc8 t gd gs gp s
  | .crcw t gd gs gp => Sys2Proof.Machine.execCrcw t gd gs gp s
  | .par t gd gs w => Sys2Proof.Machine.execPar t gd gs w s
  | .brev t gd gs w => Sys2Proof.Machine.execBrev t gd gs w s
  | .macDual t fp l0 l1 => Sys2Proof.Machine.execMacDual t fp l0 l1 s
  | .macQuad t fp p0 p1 gx gy gz gw => Sys2Proof.Machine.execMacQuad t fp p0 p1 gx gy gz gw s
  | .macC t op an gx gy fp1 => Sys2Proof.Machine.execMacC t op an gx gy fp1 s
  | .macm t op fp an ga gb mj mk => Sys2Proof.Machine.execMacm t op fp an ga gb mj mk s
  | .clra t f => Sys2Proof.Machine.execClra t f s
  | .nega t f => Sys2Proof.Machine.execNega t f s
  | .absa t f => Sys2Proof.Machine.execAbsa t f s
  | .lda t an g k => Sys2Proof.Machine.execLda t an g k s
  | .adda t an am => Sys2Proof.Machine.execAdda t an am s
  | .suba t an am => Sys2Proof.Machine.execSuba t an am s
  | .asha t an k => Sys2Proof.Machine.execAsha t an k s
  | .norma t g an => Sys2Proof.Machine.execNorma t g an s
  | .wba t gd an xs code => Sys2Proof.Machine.execWba t gd an xs code s
  | .wbaH t gd an xs code => Sys2Proof.Machine.execWbaH t gd an xs code s
  | .wbaD t gd an xs code => Sys2Proof.Machine.execWbaD t gd an xs code s
  | .ld t f => Sys2Proof.Machine.execLd t f s
  | .st t f => Sys2Proof.Machine.execSt t f s
  | .ldstC t store gt ga mk => Sys2Proof.Machine.execLdstC t store gt ga mk s
  | .ldh t l => Sys2Proof.Machine.execLdh t l s
  | .sth t l => Sys2Proof.Machine.execSth t l s
  | .ldd t l => Sys2Proof.Machine.execLdd t l s
  | .std t l => Sys2Proof.Machine.execStd t l s
  | .swap t l => Sys2Proof.Machine.execSwap t l s
  | .sva t l => Sys2Proof.Machine.execSva t l s
  | .rsa t l => Sys2Proof.Machine.execRsa t l s
  | .loadDataReturn t r => Sys2Proof.Machine.execLoadDataReturn t r s
  | .hpop t f => Sys2Proof.Machine.execHpop t f s
  | .hpush t f => Sys2Proof.Machine.execHpush t f s
  | .hpushAccept t => Sys2Proof.Machine.execHpushAccept t s
  | .fence t => Sys2Proof.Machine.execFence t s
  | .storeBufferDrain t up => Sys2Proof.Machine.execStoreBufferDrain t up s
  | .br t off => Sys2Proof.Machine.execBr t off s
  | .brc t f => Sys2Proof.Machine.execBrc t f s
  | .jmp t ga => Sys2Proof.Machine.execJmp t ga s
  | .call t f => Sys2Proof.Machine.execCall t f s
  | .nop t => Sys2Proof.Machine.execNop t s
  | .wait t => Sys2Proof.Machine.execWait t s
  | .cloche t nM1 => Sys2Proof.Machine.execCloche t nM1 s
  | .sysc t code => Sys2Proof.Machine.execSysc t code s
  | .retx t up upF upD latency => Sys2Proof.Machine.execRetx t up upF upD latency s
  | .bkpt t => Sys2Proof.Machine.execBkpt t s
  | .mfc t g n => Sys2Proof.Machine.execMfc t g n s
  | .mtc t g n => Sys2Proof.Machine.execMtc t g n s
  | .rep t nM1 => Sys2Proof.Machine.execRep t nM1 s
  | .repu t nM1 => Sys2Proof.Machine.execRepu t nM1 s
  | .repr t gs u => Sys2Proof.Machine.execRepr t gs u s
  | .loop t count e => Sys2Proof.Machine.execLoop t count e s
  | .loopr t gs e => Sys2Proof.Machine.execLoopr t gs e s
  | .endl t => Sys2Proof.Machine.execEndl t s
  | .faultEntry t up upF upD => Sys2Proof.Machine.execFaultEntry t up upF upD s
  | .nursLockTineClr w v => Sys2Proof.Machine.execNursLockTineClr w v s
  | .sieveArrival t n => Sys2Proof.Machine.execSieveArrival t n s
  | .handlerEntry t up upF upD latency => Sys2Proof.Machine.execHandlerEntry t up upF upD latency s
  | .sieveEoi w t v => Sys2Proof.Machine.execSieveEoi w t v s
  | .sieveClrpend w t v => Sys2Proof.Machine.execSieveClrpend w t v s
  | .sieveRaise w t v => Sys2Proof.Machine.execSieveRaise w t v s
  | .sieveCfgWrite w t n v => Sys2Proof.Machine.execSieveCfgWrite w t n v s
  | .holdOffEnd t n => Sys2Proof.Machine.execHoldOffEnd t n s
  | .sieveTmrCmpWrite w t v => Sys2Proof.Machine.execSieveTmrCmpWrite w t v s
  | .timerCompare t => Sys2Proof.Machine.execTimerCompare t s
  | .ditherStateWrite w t b v => Sys2Proof.Machine.execDitherStateWrite w t b v s
  | .clrE w t n v => Sys2Proof.Machine.execClrE w t n v s
  | .interpolatorCalibration r h d1 d2 d3 => Sys2Proof.Machine.execInterpolatorCalibration r h d1 d2 d3 s
  | .tineXcfgWrite w t v => Sys2Proof.Machine.execTineXcfgWrite w t v s
  | .xinv w t all va => Sys2Proof.Machine.execXinv w t all va s
  | .tinv w all va => Sys2Proof.Machine.execTinv w all va s
  | .shoot w all va => Sys2Proof.Machine.execShoot w all va s
  | .shootComplete => Sys2Proof.Machine.execShootComplete s
  | .weederStep k ups => Sys2Proof.Machine.execWeederStep k ups s
  | .dramRefreshPoll mr4 => Sys2Proof.Machine.execDramRefreshPoll mr4 s
  | .dramRetrain osc => Sys2Proof.Machine.execDramRetrain osc s
  | .cmdFetch c up0 up1 => Sys2Proof.Machine.execCmdFetch c up0 up1 s
  | .cmdNop c => Sys2Proof.Machine.execCmdNop c s
  | .cmdMove c ups => Sys2Proof.Machine.execCmdMove c ups s
  | .moveElement c up wup => Sys2Proof.Machine.execMoveElement c up wup s
  | .accessReplay c a ups => Sys2Proof.Machine.execAccessReplay c a ups s
  | .trellisWriteAck c k up => Sys2Proof.Machine.execTrellisWriteAck c k up s
  | .cmdLoop c => Sys2Proof.Machine.execCmdLoop c s
  | .cmdEndloop c => Sys2Proof.Machine.execCmdEndloop c s
  | .cmdWait c => Sys2Proof.Machine.execCmdWait c s
  | .waitComplete c => Sys2Proof.Machine.execWaitComplete c s
  | .waitTimeout c => Sys2Proof.Machine.execWaitTimeout c s
  | .cmdSignalHopper c => Sys2Proof.Machine.execCmdSignalHopper c s
  | .signalPushAccept c => Sys2Proof.Machine.execSignalPushAccept c s
  | .cmdSignalSieve c => Sys2Proof.Machine.execCmdSignalSieve c s
  | .cmdSignalChannel c => Sys2Proof.Machine.execCmdSignalChannel c s
  | .cmdSkip c up => Sys2Proof.Machine.execCmdSkip c up s
  | .cmdSuspend c => Sys2Proof.Machine.execCmdSuspend c s
  | .cmdResume c => Sys2Proof.Machine.execCmdResume c s
  | .cmdPost c => Sys2Proof.Machine.execCmdPost c s
  | .postResume c => Sys2Proof.Machine.execPostResume c s
  | .cmdChain c => Sys2Proof.Machine.execCmdChain c s
  | .cmdPortop c => Sys2Proof.Machine.execCmdPortop c s
  | .trchStart w c => Sys2Proof.Machine.execTrchStart w c s
  | .trchStop w c => Sys2Proof.Machine.execTrchStop w c s
  | .trchSuspend w c => Sys2Proof.Machine.execTrchSuspend w c s
  | .trchResume w c => Sys2Proof.Machine.execTrchResume w c s
  | .clrsig w c => Sys2Proof.Machine.execClrsig w c s
  | .stopCommit c => Sys2Proof.Machine.execStopCommit c s
  | .drainComplete c => Sys2Proof.Machine.execDrainComplete c s
  | .cringPiWrite w c pi => Sys2Proof.Machine.execCringPiWrite w c pi s
  | .sringCiWrite w c ci => Sys2Proof.Machine.execSringCiWrite w c ci s
  | .trchOwnWrite w c v => Sys2Proof.Machine.execTrchOwnWrite w c v s
  | .trelJournalRead w => Sys2Proof.Machine.execTrelJournalRead w s
  | .hopPush w h item => Sys2Proof.Machine.execHopPush w h item s
  | .hopCfgWrite w h v => Sys2Proof.Machine.execHopCfgWrite w h v s
  | .hopOwnWrite w h v => Sys2Proof.Machine.execHopOwnWrite w h v s
  | .hopTailNotice h => Sys2Proof.Machine.execHopTailNotice h s
  | .vioMeasure r mv => Sys2Proof.Machine.execVioMeasure r mv s
  | .rowSupplyFail r => Sys2Proof.Machine.execRowSupplyFail r s
  | .cellCfgWrite w r c v => Sys2Proof.Machine.execCellCfgWrite w r c v s
  | .cellEnable w r c => Sys2Proof.Machine.execCellEnable w r c s
  | .cellDisable w r c => Sys2Proof.Machine.execCellDisable w r c s
  | .cellFifoWrite w r c v => Sys2Proof.Machine.execCellFifoWrite w r c v s
  | .portopCellEnable r c => Sys2Proof.Machine.execPortopCellEnable r c s
  | .portopCellDisable r c => Sys2Proof.Machine.execPortopCellDisable r c s
  | .portopCellFlush r c => Sys2Proof.Machine.execPortopCellFlush r c s
  | .gpioSet r c out oe => Sys2Proof.Machine.execGpioSet r c out oe s
  | .portopCellThresh r c rx tx => Sys2Proof.Machine.execPortopCellThresh r c rx tx s
  | .portopEngineGo r e arg => Sys2Proof.Machine.execPortopEngineGo r e arg s
  | .rowcCgWrite w r g v => Sys2Proof.Machine.execRowcCgWrite w r g v s
  | .clkerr r g => Sys2Proof.Machine.execClkerr r g s
  | .laneInFrame r c bits => Sys2Proof.Machine.execLaneInFrame r c bits s
  | .laneOutFrame r c => Sys2Proof.Machine.execLaneOutFrame r c s
  | .pdmInSample r c streams => Sys2Proof.Machine.execPdmInSample r c streams s
  | .pdmOutSample r c => Sys2Proof.Machine.execPdmOutSample r c s
  | .gpioEdge r c level => Sys2Proof.Machine.execGpioEdge r c level s
  | .seGo w r e v => Sys2Proof.Machine.execSeGo w r e v s
  | .seTransactionEnd r e err count rx => Sys2Proof.Machine.execSeTransactionEnd r e err count rx s
  | .hoeEnable w r h => Sys2Proof.Machine.execHoeEnable w r h s
  | .hoeStart r h => Sys2Proof.Machine.execHoeStart r h s
  | .hoeDisable w r h => Sys2Proof.Machine.execHoeDisable w r h s
  | .hoeCfgWrite w r h k v => Sys2Proof.Machine.execHoeCfgWrite w r h k v s
  | .carrierPeriod r h pos vs is => Sys2Proof.Machine.execCarrierPeriod r h pos vs is s
  | .railCode rail ones => Sys2Proof.Machine.execRailCode rail ones s
  | .senseStreamLoss what => Sys2Proof.Machine.execSenseStreamLoss what s
  | .fastDetector what f => Sys2Proof.Machine.execFastDetector what f s
  | .hoeTrip w r h => Sys2Proof.Machine.execHoeTrip w r h s
  | .hoeRearm w r h => Sys2Proof.Machine.execHoeRearm w r h s
  | .hoeFlush w r h => Sys2Proof.Machine.execHoeFlush w r h s
  | .clrRetry w r h => Sys2Proof.Machine.execClrRetry w r h s
  | .shearAutoRetry r h => Sys2Proof.Machine.execShearAutoRetry r h s
  | .portopHoeEnable r h => Sys2Proof.Machine.execPortopHoeEnable r h s
  | .portopHoeDisable r h => Sys2Proof.Machine.execPortopHoeDisable r h s
  | .portopHoeFlush r h => Sys2Proof.Machine.execPortopHoeFlush r h s
  | .portopHoeRearm r h => Sys2Proof.Machine.execPortopHoeRearm r h s
  | .portopHoeThresh r h tx => Sys2Proof.Machine.execPortopHoeThresh r h tx s
  | .inject r h imode => Sys2Proof.Machine.execInject r h imode s
  | .railCfgWrite w rail v => Sys2Proof.Machine.execRailCfgWrite w rail v s
  | .pcieBar0Access slot a => Sys2Proof.Machine.execPcieBar0Access slot a s
  | .heldWriteExpiry => Sys2Proof.Machine.execHeldWriteExpiry s
  | .pcieBar2Access n a up => Sys2Proof.Machine.execPcieBar2Access n a up s
  | .qspiRead addr n ups => Sys2Proof.Machine.execQspiRead addr n ups s
  | .qspiWrite addr ws cut ups => Sys2Proof.Machine.execQspiWrite addr ws cut ups s
  | .qspiBadOpcode => Sys2Proof.Machine.execQspiBadOpcode s
  | .hostFrameRead f n ups => Sys2Proof.Machine.execHostFrameRead f n ups s
  | .hostFrameWrite f ws ups => Sys2Proof.Machine.execHostFrameWrite f ws ups s
  | .hostSqdb w q v => Sys2Proof.Machine.execHostSqdb w q v s
  | .hostCqdb w q v => Sys2Proof.Machine.execHostCqdb w q v s
  | .sqFetch => Sys2Proof.Machine.execSqFetch s
  | .handover q => Sys2Proof.Machine.execHandover q s
  | .createSq => Sys2Proof.Machine.execCreateSq s
  | .deleteSq => Sys2Proof.Machine.execDeleteSq s
  | .createCq => Sys2Proof.Machine.execCreateCq s
  | .deleteCq => Sys2Proof.Machine.execDeleteCq s
  | .hostCpl w q slot status => Sys2Proof.Machine.execHostCpl w q slot status s
  | .dataWriteBack q ok => Sys2Proof.Machine.execDataWriteBack q ok s
  | .recordPublish q => Sys2Proof.Machine.execRecordPublish q s
  | .vectorResend q => Sys2Proof.Machine.execVectorResend q s
  | .hostDisable w => Sys2Proof.Machine.execHostDisable w s
  | .hostEnable w => Sys2Proof.Machine.execHostEnable w s
  | .ethFrameReceive m len fcs etype sid => Sys2Proof.Machine.execEthFrameReceive m len fcs etype sid s
  | .gptpMessage m msg offset => Sys2Proof.Machine.execGptpMessage m msg offset s
  | .listenerFrame m i1 fmt ch nsr seq tv ts raw sub => Sys2Proof.Machine.execListenerFrame m i1 fmt ch nsr seq tv ts raw sub s
  | .listenerPresent m i1 sub => Sys2Proof.Machine.execListenerPresent m i1 sub s
  | .talkerFrame m i1 sub => Sys2Proof.Machine.execTalkerFrame m i1 sub s
  | .macTransmit m sub tenth psub => Sys2Proof.Machine.execMacTransmit m sub tenth psub s
  | .gclCycleStart m => Sys2Proof.Machine.execGclCycleStart m s
  | .gclSwap w m => Sys2Proof.Machine.execGclSwap w m s
  | .crfTalkerPdu m ev => Sys2Proof.Machine.execCrfTalkerPdu m ev s
  | .ethPtpCfgWrite w m v => Sys2Proof.Machine.execEthPtpCfgWrite w m v s
  | .ethPtpTimeRead w m sub => Sys2Proof.Machine.execEthPtpTimeRead w m sub s
  | .strmCfgWrite w m talk i1 v => Sys2Proof.Machine.execStrmCfgWrite w m talk i1 v s
  | .ethQavWrite w m b v => Sys2Proof.Machine.execEthQavWrite w m b v s
  | .apllRunWrite w run => Sys2Proof.Machine.execApllRunWrite w run s
  | .apllSrcChange w src crfmac => Sys2Proof.Machine.execApllSrcChange w src crfmac s
  | .pllLock pherr => Sys2Proof.Machine.execPllLock pherr s
  | .pllLoss pherr => Sys2Proof.Machine.execPllLoss pherr s
  | .cellReceive p ws => Sys2Proof.Machine.execCellReceive p ws s
  | .cellResend p ack => Sys2Proof.Machine.execCellResend p ack s
  | .linkRetrain p ok => Sys2Proof.Machine.execLinkRetrain p ok s
  | .chainWrite walled ups => Sys2Proof.Machine.execChainWrite walled ups s
  | .chainRead walled ups => Sys2Proof.Machine.execChainRead walled ups s
  | .chainRdata => Sys2Proof.Machine.execChainRdata s
  | .chainEvent => Sys2Proof.Machine.execChainEvent s
  | .enum => Sys2Proof.Machine.execEnum s
  | .enumEnd => Sys2Proof.Machine.execEnumEnd s
  | .enumDone => Sys2Proof.Machine.execEnumDone s
  | .portUnconnected p => Sys2Proof.Machine.execPortUnconnected p s
  | .routeCell => Sys2Proof.Machine.execRouteCell s
  | .chainRouteWrite w v => Sys2Proof.Machine.execChainRouteWrite w v s
  | .linkLost => Sys2Proof.Machine.execLinkLost s
  | .linkDown p => Sys2Proof.Machine.execLinkDown p s
  | .bcast walled up => Sys2Proof.Machine.execBcast walled up s
  | .chainBcastDataWrite w v => Sys2Proof.Machine.execChainBcastDataWrite w v s
  | .reenum w => Sys2Proof.Machine.execReenum w s
  | .wakeUp w => Sys2Proof.Machine.execWakeUp w s
  | .wakeDn w => Sys2Proof.Machine.execWakeDn w s
  | .chainWakePattern down => Sys2Proof.Machine.execChainWakePattern down s
  | .wakeFrame m f => Sys2Proof.Machine.execWakeFrame m f s
  | .phyInterruptWake m => Sys2Proof.Machine.execPhyInterruptWake m s
  | .bootRomReady trimBad => Sys2Proof.Machine.execBootRomReady trimBad s
  | .bootRxlenWrite src v => Sys2Proof.Machine.execBootRxlenWrite src v s
  | .seedLoad addr len => Sys2Proof.Machine.execSeedLoad addr len s
  | .graft scion tries block => Sys2Proof.Machine.execGraft scion tries block s
  | .bootGraftGo w v => Sys2Proof.Machine.execBootGraftGo w v s
  | .pwrStop mask => Sys2Proof.Machine.execPwrStop mask s
  | .domainDrainComplete => Sys2Proof.Machine.execDomainDrainComplete s
  | .domainDrainTimeout src => Sys2Proof.Machine.execDomainDrainTimeout src s
  | .domainSwitchOpen => Sys2Proof.Machine.execDomainSwitchOpen s
  | .pwrRun mask => Sys2Proof.Machine.execPwrRun mask s
  | .pwrRunreq w mask => Sys2Proof.Machine.execPwrRunreq w mask s
  | .domainRestored => Sys2Proof.Machine.execDomainRestored s
  | .deviceStop => Sys2Proof.Machine.execDeviceStop s
  | .deviceWake x => Sys2Proof.Machine.execDeviceWake x s
  | .pwrVolt mv mode ack => Sys2Proof.Machine.execPwrVolt mv mode ack s
  | .voltStep ack => Sys2Proof.Machine.execVoltStep ack s
  | .vreadyRise => Sys2Proof.Machine.execVreadyRise s
  | .settleDone => Sys2Proof.Machine.execSettleDone s
  | .voltFail => Sys2Proof.Machine.execVoltFail s
  | .vdrop => Sys2Proof.Machine.execVdrop s
  | .pwrStatus => Sys2Proof.Machine.execPwrStatus s
  | .disciplineLoss => Sys2Proof.Machine.execDisciplineLoss s
  | .heartbeatStall t => Sys2Proof.Machine.execHeartbeatStall t s
  | .nursRetire w t => Sys2Proof.Machine.execNursRetire w t s
  | .reinstate w t => Sys2Proof.Machine.execReinstate w t s
  | .reinstateTestDone passed => Sys2Proof.Machine.execReinstateTestDone passed s
  | .tineReplacement => Sys2Proof.Machine.execTineReplacement s
  | .tineCkptGo t full v => Sys2Proof.Machine.execTineCkptGo t full v s
  | .ckptCommit t => Sys2Proof.Machine.execCkptCommit t s
  | .secChallenge probe nonce => Sys2Proof.Machine.execSecChallenge probe nonce s
  | .nonceExpiry probe => Sys2Proof.Machine.execNonceExpiry probe s
  | .secRespond probe data => Sys2Proof.Machine.execSecRespond probe data s
  | .secClose probe => Sys2Proof.Machine.execSecClose probe s
  | .secLifecycle target => Sys2Proof.Machine.execSecLifecycle target s
  | .secSvn v => Sys2Proof.Machine.execSecSvn v s
  | .secZeroize => Sys2Proof.Machine.execSecZeroize s
  | .secOtpWrite field data => Sys2Proof.Machine.execSecOtpWrite field data s
  | .secCtrlZero w => Sys2Proof.Machine.execSecCtrlZero w s
  | .tapReset => Sys2Proof.Machine.execTapReset s
  | .bypass => Sys2Proof.Machine.execBypass s
  | .idcode => Sys2Proof.Machine.execIdcode s
  | .samplePreload => Sys2Proof.Machine.execSamplePreload s
  | .extest => Sys2Proof.Machine.execExtest s
  | .clamp => Sys2Proof.Machine.execClamp s
  | .highz => Sys2Proof.Machine.execHighz s
  | .dap => Sys2Proof.Machine.execDap s
  | .debugHalt probe t => Sys2Proof.Machine.execDebugHalt probe t s
  | .debugResume probe t => Sys2Proof.Machine.execDebugResume probe t s
  | .debugStep probe t => Sys2Proof.Machine.execDebugStep probe t s
  | .debugMemoryAccess probe a wr up => Sys2Proof.Machine.execDebugMemoryAccess probe a wr up s
  | .debugRegisterAccess probe r wr => Sys2Proof.Machine.execDebugRegisterAccess probe r wr s
  | .gaugeCfgWrite w g v => Sys2Proof.Machine.execGaugeCfgWrite w g v s
  | .gaugeWindowClose g => Sys2Proof.Machine.execGaugeWindowClose g s
  | .gaugeSnap w hi => Sys2Proof.Machine.execGaugeSnap w hi s
  | .snapshotClose => Sys2Proof.Machine.execSnapshotClose s
  | .gaugeSnapshot mask dlen => Sys2Proof.Machine.execGaugeSnapshot mask dlen s
  | .gaugeRecordRead w => Sys2Proof.Machine.execGaugeRecordRead w s
  | .gaugeFrecRead w => Sys2Proof.Machine.execGaugeFrecRead w s
  | .delayLineCalibration steps => Sys2Proof.Machine.execDelayLineCalibration steps s
  | .lineCal r h rref => Sys2Proof.Machine.execLineCal r h rref s
  | .lineDcr r h dcl settle avg => Sys2Proof.Machine.execLineDcr r h dcl settle avg s
  | .lineImp r h amp f1 f2 n dlen => Sys2Proof.Machine.execLineImp r h amp f1 f2 n dlen s
  | .lineClassify r h cmcell rshort ropen => Sys2Proof.Machine.execLineClassify r h cmcell rshort ropen s
  | .faultRead first count dlen => Sys2Proof.Machine.execFaultRead first count dlen s
  | .faultClear seq => Sys2Proof.Machine.execFaultClear seq s
  | .pageCtrlWrite w pg v => Sys2Proof.Machine.execPageCtrlWrite w pg v s
  | .pageLock w pg => Sys2Proof.Machine.execPageLock w pg s
  | .pageSoftReset w pg => Sys2Proof.Machine.execPageSoftReset w pg s
  | .pageIrqClr w pg v => Sys2Proof.Machine.execPageIrqClr w pg v s
  | .pageIrqEnWrite w pg v => Sys2Proof.Machine.execPageIrqEnWrite w pg v s
  | .pageOwnerWrite w pg walled => Sys2Proof.Machine.execPageOwnerWrite w pg walled s
  | .deviceReset => Sys2Proof.Machine.execDeviceReset s
  | .aonReset => Sys2Proof.Machine.execAonReset s
  | .resetRelease bootsel => Sys2Proof.Machine.execResetRelease bootsel s
  | .vcoreUndervoltage => Sys2Proof.Machine.execVcoreUndervoltage s
  | .vcoreSupervisorRelease => Sys2Proof.Machine.execVcoreSupervisorRelease s
  | .gaugeTickSample g v => Sys2Proof.Machine.execGaugeTickSample g v s
  | .disciplineLock => Sys2Proof.Machine.execDisciplineLock s
  | .ethLinkUp m => Sys2Proof.Machine.execEthLinkUp m s
  | .ethLinkDown m => Sys2Proof.Machine.execEthLinkDown m s
  | .syncInterval m sub => Sys2Proof.Machine.execSyncInterval m sub s
  | .chainPortTrained p host => Sys2Proof.Machine.execChainPortTrained p host s
  | .pcieLinkUp gen lanes => Sys2Proof.Machine.execPcieLinkUp gen lanes s
  | .pcieLinkDown => Sys2Proof.Machine.execPcieLinkDown s
  | .pcieConfigWrite a => Sys2Proof.Machine.execPcieConfigWrite a s
  | .hostReadCompletion q ok bs => Sys2Proof.Machine.execHostReadCompletion q ok bs s
  | .completionTimeout q => Sys2Proof.Machine.execCompletionTimeout q s
  | .gclEntryStart m => Sys2Proof.Machine.execGclEntryStart m s
  | .cellSend p => Sys2Proof.Machine.execCellSend p s
  | .perBankRefresh => Sys2Proof.Machine.execPerBankRefresh s
  | .lineTestPhaseEnd r h => Sys2Proof.Machine.execLineTestPhaseEnd r h s
  | .otpWriteComplete => Sys2Proof.Machine.execOtpWriteComplete s

end Sys2Proof.Machine
end

