-- ==== Sys2Proof/Machine/Idle.lean ====
section
/-! DEFINITION. What happens by itself: one AON tick passes (R9), which is what a step on an empty queue does
(assumption 1). -/

namespace Sys2Proof.Machine

/-- One AON tick: the counts of saturating events per tick begin again (QTY 10 and 11 of Table 20-1), gPTP time moves
(R345), the presence of the PLL's reference is timed (R352), a device Stop that waits for its record goes on (R395), debug
requests that wait are made again (R431), and the 1 ms EVENT line occurs (Table 9-7). Everything else that time drives is a
command of its own. -/
def aonTick (s : State) : State :=
  let s1 := windowsGo { s with
    now := s.now + 1
    tines := Tbl.mapV (fun _ => Tine.reset) (fun _ t => { t with tsat := [] }) s.tines
    cells := Tbl.mapV (fun _ => CellSt.reset) (fun _ c => { c with psat := 0 }) s.cells
    macs := (List.range 2).foldl (fun ms m =>
      Tbl.set (fun _ => Mac.reset) ms m { (Tbl.get (fun _ => Mac.reset) ms m) with
        ptp := (Tbl.get (fun _ => Mac.reset) ms m).ptp + ptpStep s m }) s.macs }
  let s2 := dbgGo (linkTry (refNow s1))
  if s2.now % 1000 = 0 then waitEvent 2 s2 else s2

end Sys2Proof.Machine
end

