-- ==== Sys2Proof/Safety.lean ====
section
/-! DEFINITION. The terms claims are stated in: the canonical form every state of a run has, what it means that a command
completes, and the frames of the commands: what stays as it was. -/

namespace Sys2Proof.Machine

/-! ## The canonical form -/

/-- Ascending without repeats. -/
def ascending (l : List Nat) : Bool :=
  match l with
  | [] => true
  | [_] => true
  | a :: b :: rest => decide (a < b) && ascending (b :: rest)

/-- The canonical form of memory: strictly rising addresses, no listed word equal to what an unlisted one reads as. -/
def Memory.wf (m : Tbl Word) : Bool := Tbl.wf memDflt m

/-- Memory and registers are held in their canonical form, so that equal memories are equal data. -/
def State.canonical (s : State) : Bool := Memory.wf s.mem && Tbl.wf regReset s.regs

/-! ## Completion -/

/-- The command `c` answers a next state at `s`, and that state satisfies `P`. -/
def Runs (c : Instr) (s : State) (P : State → Prop) : Prop := ∃ s', exec c s = .next s' ∧ P s'

/-- The command `c` answers a next state at `s`, the command `d` answers one after it, and `P` holds there. -/
def RunsThen (c d : Instr) (s : State) (P : State → Prop) : Prop := Runs c s fun s1 => Runs d s1 P

/-! ## Frames of the tine instructions -/

/-- Only tine `t` and its register page differ. -/
structure OnlyTine (t : Nat) (s s' : State) : Prop where
  fields : s' = { s with tines := s'.tines, regs := s'.regs }
  tines : ∀ u, u ≠ t → tineAt s' u = tineAt s u
  pages : ∀ pg off, off < 1024 → pg ≠ pgTine t → reg s' pg off = reg s pg off

/-- The tine's instruction may issue and no second half is owed (R154). -/
abbrev Ready (s : State) (t : Nat) : Prop := canIssue s t = true ∧ (tineAt s t).halfdone = false

/-- No repeat and no loop level is in force, so that the PC moves past the instruction (R101, R106). -/
abbrev Straight (s : State) (t : Nat) : Prop :=
  regB s (pgTine t) oLSTAT 20 = false ∧ regF s (pgTine t) oLSTAT 0 3 ≤ regF s (pgTine t) oLSTAT 3 3

/-- Every G register but those listed keeps its value. -/
def KeepsG (t : Nat) (l : List Gr) (s s' : State) : Prop := ∀ i, i ∉ l → getG s' t i = getG s t i

/-- Every accumulator but those listed keeps its value. -/
def KeepsAcc (t : Nat) (l : List Nat) (s s' : State) : Prop := ∀ n, n ∉ l → getAcc s' t n = getAcc s t n

/-- The offset of a G register's bank register at the tine's level; 1,024, which names none, for G0 to G27 (R143). -/
def gOff (s : State) (t : Nat) (i : Gr) : Nat := if i.val < 28 then 1024 else bankOff s t (i.val - 28)

/-- Registers that any retirement may change: LSTAT and the loop counts (R101, R106), the retirement count (R116), the
cloche (R156) and the takeover count (R168). -/
def sideOffs : List Nat := [oLSTAT, oLC 0, oLC 1, oLC 2, oLC 3, oRETIRED, oCLOCHE, oSCNT]

/-- One instruction of tine `t` has retired and changed, of the registers of its page, at most those at `offs` and
`sideOffs`; what it did to G registers and accumulators is said apart. -/
structure Retired (t : Nat) (offs : List Nat) (s s' : State) : Prop where
  only : OnlyTine t s s'
  count : reg s' (pgTine t) oRETIRED = reg s (pgTine t) oRETIRED + 1
  page : ∀ off, off < 1024 → off ∉ offs → off ∉ sideOffs → reg s' (pgTine t) off = reg s (pgTine t) off
  buffer : (tineAt s' t).sb = (tineAt s t).sb
  caches : (tineAt s' t).xcache = (tineAt s t).xcache

/-- Without a repeat or loop in force the PC moves past `len` half-words. -/
def Moves (t len : Nat) (s s' : State) : Prop :=
  Straight s t → (tineAt s' t).pc = (tineAt s t).pc + BitVec.ofNat 14 len

/-- TST after an instruction that sets the flags `fl` and, with `gsat`, GSAT. -/
def tstAfter (w : Word) (fl : FlagSet) (gsat : Bool) : Word :=
  let w1 := match fl with
    | .none => w
    | .zncv z n c v => setF w 20 4 (b2n z + 2 * b2n n + 4 * b2n c + 8 * b2n v)
    | .z z => setB w 20 z
  if gsat then setB w1 16 true else w1

/-- An instruction that writes G register `gd` has retired: `gd` holds `val`, the flags are as `fl` and `gsat` say, and
nothing else that a program can see has changed but what every retirement changes. -/
structure WroteG (t : TineNo) (gd : Gr) (val : Word) (fl : FlagSet) (gsat : Bool) (len : Nat) (s s' : State) : Prop where
  result : getG s' t gd = val
  others : KeepsG t [gd] s s'
  accs : KeepsAcc t [] s s'
  flags : reg s' (pgTine t) oTST = tstAfter (reg s (pgTine t) oTST) fl gsat
  counts : gsat = false → reg s' (pgTine t) oSATG = reg s (pgTine t) oSATG
  retired : Retired t [oTST, oSATG, gOff s t gd] s s'
  pc : Moves t len s s'

/-- The exact result clamped to a two's-complement range of `w` bits. -/
def clamp (w : Nat) (v : Int) : Int := max (-(2 ^ (w - 1) : Int)) (min ((2 ^ (w - 1) : Int) - 1) v)

/-- An instruction that writes accumulators has retired: accumulator `n` is the exact `total n` after one saturation, AOV
of the saturated ones is set, and nothing else has changed but what every retirement changes. -/
structure WroteAcc (t : TineNo) (total : Nat → Int) (len : Nat) (s s' : State) : Prop where
  result : ∀ n, n < 4 → (getAcc s' t n).toInt = clamp 96 (total n)
  regs : KeepsG t [] s s'
  flags : ∀ i, i < 40 → bit (reg s' (pgTine t) oTST) i =
    (bit (reg s (pgTine t) oTST) i || (decide (i % 4 = 1) && decide (i < 16) && decide (clamp 96 (total (i / 4)) ≠ total (i / 4))))
  retired : Retired t [oTST, oSATA 0, oSATA 1, oSATA 2, oSATA 3] s s'
  pc : Moves t len s s'

end Sys2Proof.Machine
end

