-- ==== Sys2Proof/Certificates/Slice0/Obligations.lean ====
section
/-! DEFINITION. The statements for the provers, one definition each; OBLIGATIONS.json lists them. -/

open Sys2Proof Sys2Proof.Machine

/-- With a command at the front of the queue, a step is that command's meaning on the device with the rest of the queue;
on an empty queue it is one AON tick (R9; that a step does so is the model's choice, assumption 1). -/
def Obligations.StepRunsFront : Prop :=
  (∀ (c : Instr) (rest : List Instr) (s : State),
    step { s with pending := c :: rest } = exec c { s with pending := rest }) ∧
  (∀ s : State, s.pending = [] → ∃ s', step s = .next s' ∧ s'.now = s.now + 1 ∧ s'.pending = [])

/-- Two-register ALU instructions (R83, Table 4-9): the result in Gd, the flags, and the frame; ROT takes Gb unsigned
(assumption 135). -/
def Obligations.AluTwoRegister : Prop :=
  ∀ (s : State) (t : TineNo), Ready s t →
    (∀ f : RR,
      let a := rrA s t f
      let b := rrB s t f
      Runs (.add t f) s (WroteG t (rrGd f) (a + b)
        (.zncv (decide (a + b = 0)) (bit (a + b) 39) (decide (2 ^ 40 ≤ a.toNat + b.toNat))
          (decide (sw a + sw b < -2 ^ 39 ∨ 2 ^ 39 - 1 < sw a + sw b))) false (rrLen f) s) ∧
      Runs (.sub t f) s (WroteG t (rrGd f) (a - b)
        (.zncv (decide (a - b = 0)) (bit (a - b) 39) (decide (b.toNat ≤ a.toNat))
          (decide (sw a - sw b < -2 ^ 39 ∨ 2 ^ 39 - 1 < sw a - sw b))) false (rrLen f) s) ∧
      Runs (.and t f) s (WroteG t (rrGd f) (a &&& b) (.zncv (decide (a &&& b = 0)) (bit (a &&& b) 39) false false)
        false (rrLen f) s) ∧
      Runs (.or t f) s (WroteG t (rrGd f) (a ||| b) (.zncv (decide (a ||| b = 0)) (bit (a ||| b) 39) false false)
        false (rrLen f) s) ∧
      Runs (.xor t f) s (WroteG t (rrGd f) (a ^^^ b) (.zncv (decide (a ^^^ b = 0)) (bit (a ^^^ b) 39) false false)
        false (rrLen f) s)) ∧
    (∀ gd ga gb : Gr,
      let a := getG s t ga
      let b := getG s t gb
      let sum := wi (clamp 40 (sw a + sw b))
      let dif := wi (clamp 40 (sw a - sw b))
      let rot := a.rotateLeft (b.toNat % 40)
      let mn := if sw b < sw a then b else a
      let mx := if sw b < sw a then a else b
      Runs (.adds t gd ga gb) s (WroteG t gd sum
        (.zncv (decide (sum = 0)) (bit sum 39) (decide (2 ^ 40 ≤ a.toNat + b.toNat))
          (decide (clamp 40 (sw a + sw b) ≠ sw a + sw b))) (decide (clamp 40 (sw a + sw b) ≠ sw a + sw b)) 2 s) ∧
      Runs (.subs t gd ga gb) s (WroteG t gd dif
        (.zncv (decide (dif = 0)) (bit dif 39) (decide (b.toNat ≤ a.toNat))
          (decide (clamp 40 (sw a - sw b) ≠ sw a - sw b))) (decide (clamp 40 (sw a - sw b) ≠ sw a - sw b)) 2 s) ∧
      Runs (.andn t gd ga gb) s (WroteG t gd (a &&& ~~~b)
        (.zncv (decide (a &&& ~~~b = 0)) (bit (a &&& ~~~b) 39) false false) false 2 s) ∧
      Runs (.rot t gd ga gb) s (WroteG t gd rot (.zncv (decide (rot = 0)) (bit rot 39) false false) false 2 s) ∧
      Runs (.min t gd ga gb) s (WroteG t gd mn (.zncv (decide (mn = 0)) (bit mn 39) false false) false 2 s) ∧
      Runs (.max t gd ga gb) s (WroteG t gd mx (.zncv (decide (mx = 0)) (bit mx 39) false false) false 2 s))

/-- Moves, immediates, shifts and one-source ALU instructions (Table 4-9, R53–R55, R83). -/
def Obligations.AluImmediateAndMove : Prop :=
  ∀ (s : State) (t : TineNo), Ready s t →
    (∀ f : Un,
      let a := unA s t f
      let n := 0 - a
      let ab := if sw a = -2 ^ 39 then wd 0x7FFFFFFFFF else wi (sw a).natAbs
      Runs (.mov t f) s (WroteG t (unGd f) a .none false (unLen f) s) ∧
      Runs (.neg t f) s (WroteG t (unGd f) n
        (.zncv (decide (n = 0)) (bit n 39) (decide (a = 0)) (decide (sw a = -2 ^ 39))) false (unLen f) s) ∧
      Runs (.not t f) s (WroteG t (unGd f) (~~~a) (.zncv (decide (~~~a = 0)) (bit (~~~a) 39) false false) false
        (unLen f) s) ∧
      Runs (.abs t f) s (WroteG t (unGd f) ab (.zncv (decide (ab = 0)) (bit ab 39) false false)
        (decide (sw a = -2 ^ 39)) (unLen f) s) ∧
      -- the largest k ≤ 39 for which the top k + 1 bits are equal, Gs · 2^k still fitting 40 bits (R53)
      (∃ k ≤ 39, Runs (.norm t f) s (WroteG t (unGd f) (wd k) .none false (unLen f) s) ∧
        (∀ j, j ≤ k → bit a (39 - j) = bit a 39) ∧ (k < 39 → bit a (38 - k) ≠ bit a 39) ∧
        Runs (.normm t f) s (WroteG t (unGd f)
          (if sw (getG s t (unGd f)) ≤ k then getG s t (unGd f) else wd k) .none false (unLen f) s))) ∧
    (∀ f : RI,
      let a := riA s t f
      let b := riImm f
      Runs (.movi t f) s (WroteG t (riGd f) b .none false (riLen f) s) ∧
      Runs (.addi t f) s (WroteG t (riGd f) (a + b)
        (.zncv (decide (a + b = 0)) (bit (a + b) 39) (decide (2 ^ 40 ≤ a.toNat + b.toNat))
          (decide (sw a + sw b < -2 ^ 39 ∨ 2 ^ 39 - 1 < sw a + sw b))) false (riLen f) s)) ∧
    (∀ (gd ga : Gr) (imm : BitVec 22),
      let a := getG s t ga
      let z : Word := imm.zeroExtend 40
      (∃ r : Word, Runs (.movhi t gd imm) s (WroteG t gd r .none false 2 s) ∧
        r.extractLsb' 18 22 = imm ∧ r.extractLsb' 0 18 = (getG s t gd).extractLsb' 0 18) ∧
      Runs (.andi t gd ga imm) s (WroteG t gd (a &&& z) (.zncv (decide (a &&& z = 0)) (bit (a &&& z) 39) false false)
        false 2 s) ∧
      Runs (.ori t gd ga imm) s (WroteG t gd (a ||| z) (.zncv (decide (a ||| z = 0)) (bit (a ||| z) 39) false false)
        false 2 s) ∧
      Runs (.xori t gd ga imm) s (WroteG t gd (a ^^^ z) (.zncv (decide (a ^^^ z = 0)) (bit (a ^^^ z) 39) false false)
        false 2 s)) ∧
    (∀ (gd ga : Gr) (k : ShAmt),
      let a := getG s t ga
      let l := wd (a.toNat * 2 ^ shAmt s t k)
      let r := wd (a.toNat / 2 ^ shAmt s t k)
      Runs (.shl t gd ga k) s (WroteG t gd l (.zncv (decide (l = 0)) (bit l 39) false false) false 2 s) ∧
      Runs (.shr t gd ga k) s (WroteG t gd r (.zncv (decide (r = 0)) (bit r 39) false false) false 2 s)) ∧
    (∀ (f : AshForm) (gd : Gr) (a : Word) (k : Int) (len : Nat), ashForm s t f = some (gd, a, k, len) →
      let e : Int := if 0 ≤ k then sw a * 2 ^ k.toNat else sw a / 2 ^ (-k).toNat
      let r := wi (clamp 40 e)
      Runs (.ash t f) s (WroteG t gd r (.zncv (decide (r = 0)) (bit r 39) false false) (decide (clamp 40 e ≠ e)) len s))

/-- CMP and CMPI (R83). -/
def Obligations.ComparesSetFlagsOnly : Prop :=
  ∀ (s : State) (t : TineNo), Ready s t →
    let done := fun (a b : Word) (len : Nat) (s' : State) =>
      KeepsG t [] s s' ∧ KeepsAcc t [] s s' ∧
      reg s' (pgTine t) oTST = tstAfter (reg s (pgTine t) oTST)
        (.zncv (decide (a - b = 0)) (bit (a - b) 39) (decide (b.toNat ≤ a.toNat))
          (decide (sw a - sw b < -2 ^ 39 ∨ 2 ^ 39 - 1 < sw a - sw b))) false ∧
      Retired t [oTST] s s' ∧ Moves t len s s'
    (∀ f : CR, Runs (.cmp t f) s (done (crA s t f) (crB s t f) (crLen f))) ∧
    (∀ f : CI, Runs (.cmpi t f) s (done (ciA s t f) (ciImm f) (ciLen f)))

/-- CRC8, CRCW, PAR and BREV (R109–R111). -/
def Obligations.SignatureInstructions : Prop :=
  ∀ (s : State) (t : TineNo) (gd gs gp : Gr) (w : BitVec 6), Ready s t →
    let p := getG s t gp
    let v := getG s t gs
    let n := getF p 32 5 + 1
    let poly := getF p 0 32
    let refl := bit p 38
    let crc0 := (getG s t gd).toNat % 2 ^ n
    let one := fun (c i : Nat) => crcByte n poly refl c (getF v (8 * i) 8)
    (bit p 37 = false → bit p 39 = false →
      Runs (.crc8 t gd gs gp) s (WroteG t gd (wd (one crc0 0)) .none false 2 s) ∧
      Runs (.crcw t gd gs gp) s (WroteG t gd
        (wd (if refl then one (one (one (one crc0 0) 1) 2) 3 else one (one (one (one crc0 3) 2) 1) 0)) .none false 2 s)) ∧
    (bit p 37 = true ∨ bit p 39 = true →
      (Runs (.crc8 t gd gs gp) s fun s' => (tineAt s' t).fault.map (·.cause) = some 0x01 ∧ KeepsG t [] s s') ∧
      (Runs (.crcw t gd gs gp) s fun s' => (tineAt s' t).fault.map (·.cause) = some 0x01 ∧ KeepsG t [] s s')) ∧
    (1 ≤ w.toNat → w.toNat ≤ 40 →
      (∃ b : Bool, Runs (.par t gd gs w) s (WroteG t gd (wd (b2n b)) (.z (!b)) false 2 s) ∧
        (b = true ↔ ((List.range w.toNat).filter fun i => bit v i).length % 2 = 1)) ∧
      (∃ r : Word, Runs (.brev t gd gs w) s (WroteG t gd r .none false 2 s) ∧
        (∀ i, i < w.toNat → bit r i = bit v (w.toNat - 1 - i)) ∧ (∀ i, w.toNat ≤ i → bit r i = bit v i)))

/-- The transcendental steps (R72, Table 3-6). -/
def Obligations.TranscendentalInstructions : Prop :=
  ∀ (s : State) (t : TineNo) (gd ga : Gr), Ready s t →
    let a := getG s t ga
    let n := sw a
    (∃ r g, Runs (.log2 t gd ga) s (WroteG t gd r .none g 2 s) ∧ (g = decide (n < 2 ^ 37)) ∧
      (n < 2 ^ 37 → r = wd 0x8000000000) ∧ (n = 2 ^ 38 → r = 0) ∧ (n = 2 ^ 37 → r = wi (-(2 ^ 38))) ∧
      (2 ^ 37 ≤ n → ∃ k : Int, r = wi (k * 2 ^ 10) ∧ -(2 ^ 28) ≤ k ∧ k ≤ 2 ^ 28)) ∧
    (∃ r g, Runs (.exp2 t gd ga) s (WroteG t gd r .none g 2 s) ∧ (g = decide (2 ^ 38 ≤ n)) ∧
      (2 ^ 38 ≤ n → r = wd 0x7FFFFFFFFF) ∧ (n = 0 → r = wi (2 ^ 38)) ∧ (n = -(2 ^ 38) → r = wi (2 ^ 37)) ∧
      (n = -(2 ^ 39) → r = wi (2 ^ 36)) ∧ (n < 2 ^ 38 → r = wd 0x7FFFFFFFFF ∨ ∃ k : Int, r = wi (k * 2 ^ 10))) ∧
    (∃ r g, Runs (.recip t gd ga) s (WroteG t gd r .none g 2 s) ∧ (g = decide (-(2 ^ 38) < n ∧ n < 2 ^ 38)) ∧
      (0 ≤ n → n < 2 ^ 38 → r = wd 0x7FFFFFFFFF) ∧ (-(2 ^ 38) < n → n < 0 → r = wd 0x8000000000) ∧
      (2 ^ 38 ≤ n → r = wi (rheDiv (2 ^ 62) n.toNat * 2 ^ 14)) ∧
      (n ≤ -(2 ^ 38) → r = wi (-(rheDiv (2 ^ 62) (-n).toNat) * 2 ^ 14))) ∧
    (∃ r g, Runs (.rsqrt t gd ga) s (WroteG t gd r .none g 2 s) ∧ (g = decide (n < 2 ^ 37)) ∧
      (n < 0 → r = 0) ∧ (0 ≤ n → n < 2 ^ 37 → r = wd 0x7FFFFFFFFF) ∧
      -- the nearest multiple of 2^14 to 2^38 · sqrt(2^38 / n)
      (2 ^ 37 ≤ n → ∃ y : Nat, r = wd (y * 2 ^ 14) ∧ (2 * (y : Int) - 1) ^ 2 * n ≤ 2 ^ 88 ∧ 2 ^ 88 ≤ (2 * (y : Int) + 1) ^ 2 * n))

/-- The product of two words in a dual-mode lane, aligned (R38, R40, Table 2-2). -/
def laneShare (s : State) (t : TineNo) (ps n : Nat) (l : Lane) : Int :=
  if l.op = .absent ∨ l.an.val ≠ n then 0
  else (if l.op = .msu then -1 else 1) * (sw (getG s t l.gx) * sw (getG s t l.gy) * 2 ^ ps)

/-- The two half-word products of a quad-mode pair, aligned (R39, R40, Table 2-2). -/
def pairShare (s : State) (t : TineNo) (ps n : Nat) (p : Pair) (gx gy : Gr) : Int :=
  let lo := fun g : Gr => ((getG s t g).extractLsb' 0 20).toInt
  let hi := fun g : Gr => ((getG s t g).extractLsb' 20 20).toInt
  if p.op = .absent ∨ p.an.val ≠ n then 0
  else (if p.op = .msu then -1 else 1) * ((lo gx * lo gy + hi gx * hi gy) * 2 ^ ps)

/-- The base of accumulator `n`: 0 where a MPY targets it (R41). -/
def macBase (s : State) (t : TineNo) (n : Nat) (mpy : Bool) : Int := if mpy then 0 else (getAcc s t n).toInt

/-- MAC_DUAL, MAC_QUAD and MAC_C (R38–R41). -/
def Obligations.MacAccumulates : Prop :=
  ∀ (s : State) (t : TineNo) (fp : BitVec 2), Ready s t →
    (∀ l0 l1 : Lane, laneOk l0 = true → laneOk l1 = true → (l0.op ≠ .absent ∨ l1.op ≠ .absent) →
      let ps := if fp = 1 then 2 else 0
      Runs (.macDual t fp l0 l1) s (WroteAcc t (fun n =>
        macBase s t n ((decide (l0.op = .mpy) && decide (l0.an.val = n)) || (decide (l1.op = .mpy) && decide (l1.an.val = n))) +
          laneShare s t ps n l0 + laneShare s t ps n l1) 2 s)) ∧
    (∀ (p0 p1 : Pair) (gx gy gz gw : Gr), pairOk p0 gx gy = true → pairOk p1 gz gw = true →
      (p0.op ≠ .absent ∨ p1.op ≠ .absent) →
      let ps := if fp = 3 then 0 else if fp = 1 then 42 else 40
      Runs (.macQuad t fp p0 p1 gx gy gz gw) s (WroteAcc t (fun n =>
        macBase s t n ((decide (p0.op = .mpy) && decide (p0.an.val = n)) || (decide (p1.op = .mpy) && decide (p1.an.val = n))) +
          pairShare s t ps n p0 gx gy + pairShare s t ps n p1 gz gw) 2 s)) ∧
    (∀ (op : MacOp) (an : Ar) (gx gy : Gr) (fp1 : Bool), op ≠ .absent →
      Runs (.macC t op an gx gy fp1) s (WroteAcc t (fun n =>
        macBase s t n (decide (op = .mpy) && decide (an.val = n)) +
          laneShare s t (if fp1 then 2 else 0) n { op := op, an := an, gx := gx, gy := gy }) 1 s))

/-- The accumulator operations (R42, R53, R55, Table 2-3). -/
def Obligations.AccumulatorOperations : Prop :=
  ∀ (s : State) (t : TineNo), Ready s t →
    let acc := fun (n : Nat) => (getAcc s t n).toInt
    let only := fun (an : Ar) (v : Int) (n : Nat) => if n = an.val then v else acc n
    (∀ f : AccForm,
      Runs (.clra t f) s (WroteAcc t (only (accAn f) 0) (accLen f) s) ∧
      Runs (.nega t f) s (WroteAcc t (only (accAn f) (-acc (accAn f).val)) (accLen f) s) ∧
      Runs (.absa t f) s (WroteAcc t (only (accAn f)
        (if acc (accAn f).val < 0 then -acc (accAn f).val else acc (accAn f).val)) (accLen f) s)) ∧
    (∀ an am : Ar,
      Runs (.adda t an am) s (WroteAcc t (only an (acc an.val + acc am.val)) 2 s) ∧
      Runs (.suba t an am) s (WroteAcc t (only an (acc an.val - acc am.val)) 2 s)) ∧
    (∀ (an : Ar) (g : Gr) (k : BitVec 8),
      (k.toNat ≤ 56 → Runs (.lda t an g k) s (WroteAcc t (only an (sw (getG s t g) * 2 ^ k.toNat)) 2 s)) ∧
      (0 ≤ k.toInt → k.toInt ≤ 95 → Runs (.asha t an k) s (WroteAcc t (only an (acc an.val * 2 ^ k.toInt.toNat)) 2 s)) ∧
      (k.toInt < 0 → -96 ≤ k.toInt →
        Runs (.asha t an k) s (WroteAcc t (only an (acc an.val / 2 ^ (-k.toInt).toNat)) 2 s)) ∧
      (∃ m ≤ 95, Runs (.norma t g an) s (WroteG t g (wd m) .none false 2 s) ∧
        (∀ j, j ≤ m → (getAcc s t an.val).getLsbD (95 - j) = (getAcc s t an.val).getLsbD 95) ∧
        (m < 95 → (getAcc s t an.val).getLsbD (94 - m) ≠ (getAcc s t an.val).getLsbD 95)))

/-- A write-back has retired: `gd` holds `y` clamped to `w` bits, WSAT of the accumulator is set where it saturated, and
besides these only registers at `offs` may have changed. -/
structure WroteBack (t : TineNo) (gd : Gr) (an : Ar) (w : Nat) (y : Int) (offs : List Nat) (s s' : State) : Prop where
  result : getG s' t gd = wi (clamp w y)
  others : KeepsG t [gd] s s'
  accs : KeepsAcc t [] s s'
  flags : reg s' (pgTine t) oTST =
    if clamp w y ≠ y then setB (reg s (pgTine t) oTST) (4 * an.val + 2) true else reg s (pgTine t) oTST
  retired : Retired t ([oTST, oSATA an.val, gOff s t gd] ++ offs) s s'
  pc : Moves t 2 s s'

/-- An integer rounded at point `p` in a base mode, with the draws `a` and `b` of the generators (R58, R62). -/
def roundedAt (base : Nat) (u : Int) (p a b : Nat) : Int :=
  let q := u / 2 ^ p
  let r := u % 2 ^ p
  let half : Int := 2 ^ (p - 1)
  match base with
  | 0 => q
  | 1 => if half ≤ r then q + 1 else q
  | 2 => if half < r ∨ (r = half ∧ q % 2 = 1) then q + 1 else q
  | 3 => if r = 0 ∨ q % 2 = 1 then q else q + 1
  | 4 => (u + drawAlign a p) / 2 ^ p
  | _ => (u + drawAlign a p + drawAlign b p - half) / 2 ^ p

/-- U of a shaped write-back: the input at point 72 and the error feedback of the order (R67). -/
def shapedInput (s : State) (t : TineNo) (an : Ar) (v : Int) (xs : Nat) : Int :=
  let w := fun k => sw (reg s (pgTine t) (oRQ an.val + k))
  v * 2 ^ (72 - xs) + ((List.range (regF s (pgTine t) (oRQ an.val) 0 2)).map fun k => w (1 + k) * w (4 + k)).sum

/-- WBA, WBA_H and WBA_D (R46, R47, R58, R59, R62, R67; R67's pseudocode is followed, assumption 107). -/
def Obligations.WriteBackRounds : Prop :=
  ∀ (s : State) (t : TineNo) (gd : Gr) (an : Ar) (xs : BitVec 6) (code : BitVec 3), Ready s t →
    let v := (getAcc s t an.val).toInt
    let d : Int := 2 ^ xs.toNat
    let odd := if v % d = 0 ∨ v / d % 2 = 1 then v / d else v / d + 1
    let even := if 2 * (v % d) > d ∨ (2 * (v % d) = d ∧ v / d % 2 = 1) then v / d + 1 else v / d
    let up := (2 * v + d) / (2 * d)
    let up' := if xs = 0 then v else up
    -- WBA writes 40 bits and WBA_H 20, by the same rounding codes
    let both := fun (c : BitVec 3) (P : Nat → State → Prop) => Runs (.wba t gd an xs c) s (P 40) ∧ Runs (.wbaH t gd an xs c) s (P 20)
    both 0 (fun w => WroteBack t gd an w (v / d) [] s) ∧ both 1 (fun w => WroteBack t gd an w up' [] s) ∧
    both 2 (fun w => WroteBack t gd an w even [] s) ∧ both 3 (fun w => WroteBack t gd an w odd [] s) ∧
    (let a := drawA (regF s (pgTine t) oDTHA 0 32)
     both 4 fun w s' => WroteBack t gd an w (if xs = 0 then v else (v + (drawAlign a xs.toNat : Nat)) / d) [oDTHA] s s' ∧
       regF s' (pgTine t) oDTHA 0 32 = a % 2 ^ 32) ∧
    (let a := drawA (regF s (pgTine t) oDTHA 0 32)
     let b := drawB (regF s (pgTine t) oDTHB 0 32)
     both 5 fun w s' => WroteBack t gd an w (if xs = 0 then v else roundedAt 5 v xs.toNat a b) [oDTHA, oDTHB] s s' ∧
       regF s' (pgTine t) oDTHA 0 32 = a % 2 ^ 32 ∧ regF s' (pgTine t) oDTHB 0 32 = b % 2 ^ 32) ∧
    (let rq := oRQ an.val
     let base := regF s (pgTine t) rq 2 3
     let a0 := regF s (pgTine t) oDTHA 0 32
     let b0 := regF s (pgTine t) oDTHB 0 32
     let a := if base = 4 ∨ base = 5 then drawA a0 else a0
     let b := if base = 5 then drawB b0 else b0
     let u := shapedInput s t an v xs.toNat
     let y := roundedAt base u 72 a b
     both 6 fun w s' => WroteBack t gd an w y [oDTHA, oDTHB, rq + 4, rq + 5, rq + 6] s s' ∧
       regF s' (pgTine t) oDTHA 0 32 = a % 2 ^ 32 ∧ regF s' (pgTine t) oDTHB 0 32 = b % 2 ^ 32 ∧
       (clamp w y ≠ y → reg s' (pgTine t) (rq + 4) = 0 ∧ reg s' (pgTine t) (rq + 5) = 0 ∧ reg s' (pgTine t) (rq + 6) = 0) ∧
       (clamp w y = y → reg s' (pgTine t) (rq + 4) = wi ((y * 2 ^ 72 - u) / 2 ^ 36) ∧
         reg s' (pgTine t) (rq + 5) = reg s (pgTine t) (rq + 4) ∧ reg s' (pgTine t) (rq + 6) = reg s (pgTine t) (rq + 5))) ∧
    both 7 (fun _ s' => (tineAt s' t).fault.map (·.cause) = some 0x01 ∧ KeepsG t [] s s') ∧
    (gd.val % 2 = 0 →
      let n := BitVec.ofInt 80 (clamp 80 v)
      let hi : Gr := Fin.ofNat 32 (gd.val + 1)
      Runs (.wbaD t gd an 0 0) s fun s' =>
        getG s' t gd = n.extractLsb' 0 40 ∧ getG s' t hi = n.extractLsb' 40 40 ∧ KeepsG t [gd, hi] s s' ∧
        KeepsAcc t [] s s' ∧
        reg s' (pgTine t) oTST =
          (if clamp 80 v ≠ v then setB (reg s (pgTine t) oTST) (4 * an.val + 2) true else reg s (pgTine t) oTST) ∧
        Retired t [oTST, oSATA an.val, gOff s t gd, gOff s t hi] s s' ∧ Moves t 2 s s') ∧
    (gd.val % 2 = 1 ∨ xs ≠ 0 ∨ code ≠ 0 →
      Runs (.wbaD t gd an xs code) s fun s' => (tineAt s' t).fault.map (·.cause) = some 0x01 ∧ KeepsG t [] s s')

/-- A virtual word through which tine `t` reaches plain memory, for reading and writing, at physical word `pa`: it runs Walled
with translation off, or in either world with a cached leaf that grants its mode both (R192 to R195); the word is a readable data
tray or Shed word that passes the address checks of R181 to R183. -/
structure PlainWord (s : State) (t : TineNo) (va pa : Nat) : Prop where
  reached : (regB s (pgTine t) oXCFG 0 = false ∧ tW s t = true ∧ pa = va) ∨
    (regB s (pgTine t) oXCFG 0 = true ∧ ∃ l, (tineAt s t).xcache.find? (leafCovers · va) = some l ∧ pa = leafPa l t va ∧
      ∀ a : Acc, leafRights l (tW s t) (!tS s t) a false = none)
  checks : addrSub s { store := true } pa = 0
  region : (∃ u o, regionOf pa = .dtray u o) ∨ (∃ b, regionOf pa = .shed b)
  clean : ueAt s pa = false
  free : paHeld s (.tine t) pa = false

/-- Tine `t` waits for no word of another device. -/
def NoChainRead (s : State) (t : TineNo) : Prop :=
  (∀ e ∈ s.chainTags, e.2.1 ≠ t.val) ∧ (∀ e ∈ s.chainBack, e.1 ≠ t.val)

/-- A G register after the address updates `upds` (R96). -/
def afterUpds (s : State) (t : TineNo) (upds : List (Gr × Word)) (i : Gr) : Word :=
  match upds.find? fun u => decide (u.1 = i) with
  | some u => u.2
  | none => getG s t i

/-- A load has ended: `gt` holds `val`, address registers have moved, nothing else changed but what retiring changes. -/
structure Loaded (t : TineNo) (gt : Gr) (val : Word) (upds : List (Gr × Word)) (len : Nat) (s s' : State) : Prop where
  result : getG s' t gt = val
  others : ∀ i, i ≠ gt → getG s' t i = afterUpds s t upds i
  accs : KeepsAcc t [] s s'
  flags : reg s' (pgTine t) oTST = reg s (pgTine t) oTST
  retired : Retired t (gOff s t gt :: upds.map fun u => gOff s t u.1) s s'
  pc : Moves t len s s'

/-- A load is under way: it has neither retired nor written a register. -/
def Waiting (t : TineNo) (s s1 : State) : Prop :=
  (tineAt s1 t).flight.isSome = true ∧ (tineAt s1 t).pc = (tineAt s t).pc ∧ s1.regs = s.regs ∧ s1.mem = s.mem ∧
    (∀ i, getG s1 t i = getG s t i) ∧ (∀ n, getAcc s1 t n = getAcc s t n)

/-- The return of the data of the load at the head, whose words meet no error. -/
def headData : LoadRet := { tag := 0, ups := [] }

/-- Loads (R92–R96, R115, R124, R125): issue and return; off16 is two's complement (assumption 136). -/
def Obligations.LoadsReadMemory : Prop :=
  ∀ (s : State) (t : TineNo), Ready s t → (tineAt s t).sb = [] → NoChainRead s t →
    (∀ (f : LdSt) (pa : Nat), ldstOk f = true → PlainWord s t (wordVa (ldstEa s t f).1) pa →
      Runs (.ld t f) s fun s1 => Waiting t s s1 ∧
        Runs (.loadDataReturn t headData) s1 (Loaded t (ldstGt f) (memGet s pa) (updList (ldstEa s t f).2) (ldstLen f) s)) ∧
    (∀ (gt ga : Gr) (mk : Fin 8) (pa : Nat), PlainWord s t (wordVa (getG s t ga)) pa →
      Runs (.ldstC t false gt ga mk) s fun s1 => Waiting t s s1 ∧
        Runs (.loadDataReturn t headData) s1 (Loaded t gt (memGet s pa)
          [(ga, circStep (getG s t ga) 1 (reg s (pgTine t) (oM mk.val)))] 1 s)) ∧
    (∀ (l : LS) (pa : Nat), lsOk l = true → PlainWord s t (halfVa (lsEa s t l).1) pa →
      let w := memGet s pa
      let h : BitVec 20 := if bit (lsEa s t l).1 0 then w.extractLsb' 20 20 else w.extractLsb' 0 20
      Runs (.ldh t l) s fun s1 => Waiting t s s1 ∧
        Runs (.loadDataReturn t headData) s1 (Loaded t l.gt (h.signExtend 40) (updList (lsEa s t l).2) 2 s)) ∧
    (∀ (l : LS) (p0 p1 : Nat), dwordOk l true = true → PlainWord s t (wordVa (lsEa s t l).1) p0 →
      PlainWord s t (vaPlus (wordVa (lsEa s t l).1) 1) p1 →
      let done := fun s2 =>
        getG s2 t l.gt = memGet s p0 ∧ getG s2 t (gtNext l) = memGet s p1 ∧
        (∀ i, i ≠ l.gt → i ≠ gtNext l → getG s2 t i = afterUpds s t (updList (lsEa s t l).2) i) ∧
        KeepsAcc t [] s s2 ∧ reg s2 (pgTine t) oTST = reg s (pgTine t) oTST ∧
        Retired t ([gOff s t l.gt, gOff s t (gtNext l)] ++ (updList (lsEa s t l).2).map fun u => gOff s t u.1) s s2 ∧
        Moves t 2 s s2
      Runs (.ldd t l) s fun s1 => Waiting t s s1 ∧
        (wordVa (lsEa s t l).1 % 2 = 0 → Runs (.loadDataReturn t headData) s1 done) ∧
        (wordVa (lsEa s t l).1 % 2 = 1 → Runs (.loadDataReturn t headData) s1 fun s2 => Waiting t s s2 ∧
          Runs (.loadDataReturn t headData) s2 done))

/-- RSA, MACM and SWAP (R37, R99, R184). -/
def Obligations.AccumulatorAndExchangeLoads : Prop :=
  ∀ (s : State) (t : TineNo), Ready s t → (tineAt s t).sb = [] → NoChainRead s t →
    (∀ (l : LS) (pa : Nat → Nat), imageOk l = true → (∀ k, k < 3 → PlainWord s t (vaPlus (wordVa (lsEa s t l).1) k) (pa k)) →
      let w := fun k => memGet s (pa k)
      Runs (.rsa t l) s fun s1 => Waiting t s s1 ∧
        Runs (.loadDataReturn t headData) s1 fun s2 =>
          getAcc s2 t l.gt.val = (w 2).extractLsb' 0 16 ++ w 1 ++ w 0 ∧ KeepsAcc t [l.gt.val] s s2 ∧
          (∀ i, getG s2 t i = afterUpds s t (updList (lsEa s t l).2) i) ∧
          reg s2 (pgTine t) oTST = reg s (pgTine t) oTST ∧
          Retired t ((updList (lsEa s t l).2).map fun u => gOff s t u.1) s s2 ∧ Moves t 2 s s2) ∧
    (∀ (op : MacOp) (fp : BitVec 2) (an : Ar) (ga gb : Gr) (mj mk : Fin 8) (pa pb : Nat), op ≠ .absent → ga ≠ gb →
      PlainWord s t (wordVa (getG s t ga)) pa → PlainWord s t (wordVa (getG s t gb)) pb →
      let p := sw (memGet s pa) * sw (memGet s pb) * 2 ^ (if fp = 1 then 2 else 0)
      let total := if op = .mpy then p else if op = .msu then (getAcc s t an.val).toInt - p else (getAcc s t an.val).toInt + p
      let upds := [(ga, circStep (getG s t ga) 1 (reg s (pgTine t) (oM mj.val))),
                   (gb, circStep (getG s t gb) 1 (reg s (pgTine t) (oM mk.val)))]
      Runs (.macm t op fp an ga gb mj mk) s fun s1 => Waiting t s s1 ∧
        Runs (.loadDataReturn t headData) s1 fun s2 =>
          (getAcc s2 t an.val).toInt = clamp 96 total ∧ KeepsAcc t [an.val] s s2 ∧
          (∀ i, getG s2 t i = afterUpds s t upds i) ∧
          Retired t ([oTST, oSATA an.val] ++ upds.map fun u => gOff s t u.1) s s2 ∧ Moves t 2 s s2) ∧
    (∀ (l : LS) (pa : Nat), lsOk l = true → PlainWord s t (wordVa (lsEa s t l).1) pa →
      Runs (.swap t l) s fun s1 => Waiting t s s1 ∧
        Runs (.loadDataReturn t headData) s1 fun s2 =>
          memGet s2 pa = getG s t l.gt ∧ (∀ a, a ≠ pa → memGet s2 a = memGet s a) ∧
          Loaded t l.gt (memGet s pa) (updList (lsEa s t l).2) 2 { s with mem := s2.mem } s2)

/-- Entries of the store buffer that a store adds, each in the mode it retires in (R120). -/
def entFor (s : State) (t : TineNo) (pa : Nat) (d : StoreData) : StoreEnt :=
  { pa := pa, data := d, walled := tW s t, sup := tS s t }

/-- A store has retired: its entries stand at the end of the store buffer, memory is as it was. -/
structure Stored (t : TineNo) (ents : List StoreEnt) (upds : List (Gr × Word)) (len : Nat) (s s' : State) : Prop where
  buffer : (tineAt s' t).sb = (tineAt s t).sb ++ ents
  regs : ∀ i, getG s' t i = afterUpds s t upds i
  accs : KeepsAcc t [] s s'
  flags : reg s' (pgTine t) oTST = reg s (pgTine t) oTST
  retired : Retired t (upds.map fun u => gOff s t u.1) (modTine t (fun x => { x with sb := x.sb ++ ents }) s) s'
  pc : Moves t len s s'

/-- Stores (R37, R92, R120, R124); off16 is two's complement (assumption 136). -/
def Obligations.StoresEnterTheBuffer : Prop :=
  ∀ (s : State) (t : TineNo), Ready s t →
    (∀ (f : LdSt) (pa : Nat), ldstOk f = true → (tineAt s t).sb.length < 8 → PlainWord s t (wordVa (ldstEa s t f).1) pa →
      Runs (.st t f) s (Stored t [entFor s t pa (.word (getG s t (ldstGt f)))] (updList (ldstEa s t f).2) (ldstLen f) s)) ∧
    (∀ (gt ga : Gr) (mk : Fin 8) (pa : Nat), (tineAt s t).sb.length < 8 → PlainWord s t (wordVa (getG s t ga)) pa →
      Runs (.ldstC t true gt ga mk) s (Stored t [entFor s t pa (.word (getG s t gt))]
        [(ga, circStep (getG s t ga) 1 (reg s (pgTine t) (oM mk.val)))] 1 s)) ∧
    (∀ (l : LS) (pa : Nat), lsOk l = true → (tineAt s t).sb.length < 8 → PlainWord s t (halfVa (lsEa s t l).1) pa →
      Runs (.sth t l) s (Stored t [entFor s t pa (.half (bit (lsEa s t l).1 0) ((getG s t l.gt).extractLsb' 0 20))]
        (updList (lsEa s t l).2) 2 s)) ∧
    (∀ (l : LS) (p0 p1 : Nat), dwordOk l false = true → PlainWord s t (wordVa (lsEa s t l).1) p0 →
      PlainWord s t (vaPlus (wordVa (lsEa s t l).1) 1) p1 →
      let lo := getG s t l.gt
      let hi := getG s t (gtNext l)
      (wordVa (lsEa s t l).1 % 2 = 0 → (tineAt s t).sb.length < 8 →
        Runs (.std t l) s (Stored t [entFor s t p0 (.dbl lo hi)] (updList (lsEa s t l).2) 2 s)) ∧
      (wordVa (lsEa s t l).1 % 2 = 1 → (tineAt s t).sb.length < 7 →
        Runs (.std t l) s (Stored t [entFor s t p0 (.word lo), entFor s t p1 (.word hi)] (updList (lsEa s t l).2) 2 s))) ∧
    (∀ (l : LS) (pa : Nat → Nat), imageOk l = true → (tineAt s t).sb.length < 7 →
      (∀ k, k < 3 → PlainWord s t (vaPlus (wordVa (lsEa s t l).1) k) (pa k)) →
      let a := getAcc s t l.gt.val
      let w0 : Word := a.extractLsb' 0 40
      let w1 : Word := a.extractLsb' 40 40
      let w2 : Word := (a.extractLsb' 80 16).signExtend 40
      Runs (.sva t l) s (Stored t
        (if wordVa (lsEa s t l).1 % 2 = 0 then [entFor s t (pa 0) (.dbl w0 w1), entFor s t (pa 2) (.word w2)]
         else [entFor s t (pa 0) (.word w0), entFor s t (pa 1) (.dbl w1 w2)]) (updList (lsEa s t l).2) 2 s))

/-- The oldest entry of a store buffer may drain into a readable tray or Shed word. -/
def CanDrain (s : State) (t : TineNo) (e : StoreEnt) : Prop :=
  isWithheld s (.store t) = false ∧
  ((∃ u o, regionOf e.pa = .dtray u o) ∨ (∃ b, regionOf e.pa = .shed b)) ∧ ueAt s e.pa = false ∧
  (match e.data with
   | .dbl _ _ => e.pa % 2 = 0 ∧ ueAt s (e.pa + 1) = false
   | .run _ => False
   | _ => True) ∧
  paHeld s (.store t e.walled e.sup) e.pa = false ∧ paDormant s e.pa = false

/-- The entry's word, both its words, or its half of a word is in memory, and no other word has changed. -/
def Drained (s : State) (e : StoreEnt) (s' : State) : Prop :=
  match e.data with
  | .word v => memGet s' e.pa = v ∧ (∀ a, a ≠ e.pa → memGet s' a = memGet s a)
  | .dbl lo hi => memGet s' e.pa = lo ∧ memGet s' (e.pa + 1) = hi ∧ (∀ a, a ≠ e.pa → a ≠ e.pa + 1 → memGet s' a = memGet s a)
  | .half hi v => (memGet s' e.pa).extractLsb' (if hi then 20 else 0) 20 = v ∧
      (memGet s' e.pa).extractLsb' (if hi then 0 else 20) 20 = (memGet s e.pa).extractLsb' (if hi then 0 else 20) 20 ∧
      (∀ a, a ≠ e.pa → memGet s' a = memGet s a)
  | .run _ => False

/-- STORE_BUFFER_DRAIN and FENCE (R120, R122). -/
def Obligations.DrainWritesMemoryInOrder : Prop :=
  (∀ (s : State) (t : TineNo) (e : StoreEnt) (rest : List StoreEnt), (tineAt s t).sb = e :: rest →
    (tineAt s t).window = [] → CanDrain s t e →
    ((tineAt s t).flight = none ∨ ((tineAt s t).flight = some .fence ∧ rest ≠ []) →
      Runs (.storeBufferDrain t .ok) s fun s' =>
        s' = { s with tines := s'.tines, mem := s'.mem } ∧
        (∀ u, u ≠ t.val → tineAt s' u = tineAt s u) ∧ tineAt s' t = { tineAt s t with sb := rest } ∧ Drained s e s') ∧
    ((tineAt s t).flight = some .fence → (tineAt s t).drain = [] → rest = [] →
      Runs (.storeBufferDrain t .ok) s fun s' =>
        Drained s e s' ∧ (tineAt s' t).sb = [] ∧ (tineAt s' t).flight = none ∧ KeepsG t [] s s' ∧ KeepsAcc t [] s s' ∧
        reg s' (pgTine t) oRETIRED = reg s (pgTine t) oRETIRED + 1 ∧ Moves t 1 s s')) ∧
  (∀ (s : State) (t : TineNo), Ready s t →
    ((tineAt s t).sb = [] → Runs (.fence t) s fun s' => Retired t [] s s' ∧ KeepsG t [] s s' ∧ KeepsAcc t [] s s' ∧ Moves t 1 s s') ∧
    ((tineAt s t).sb ≠ [] → Runs (.fence t) s fun s' =>
      (tineAt s' t).flight = some .fence ∧ s' = { s with tines := s'.tines } ∧ (tineAt s' t).sb = (tineAt s t).sb))

/-- HPOP, HPUSH and HPUSH_ACCEPT (R100, R252, R253, R255). -/
def Obligations.HopperInstructions : Prop :=
  (∀ (s : State) (t : TineNo) (f : HopForm), Ready s t → domSt s domTrel = .run →
    let h := hopNo s t f
    let q := hopAt s h
    (hopFault s t h true = none → q.back = [] → q.items = [] →
      Runs (.hpop t f) s fun s' => getG s' t (hopG f) = voidWord ∧ KeepsG t [hopG f] s s' ∧ KeepsAcc t [] s s' ∧
        s'.hops = s.hops ∧ Retired t [gOff s t (hopG f)] s s' ∧ Moves t (hopLen f) s s') ∧
    (hopFault s t h true = none → q.back = [] → q.items ≠ [] →
      ∃ (k : Nat) (w : Word), q.items[k]? = some w ∧
        (∀ j x, q.items[j]? = some x → getF x 36 4 ≤ getF w 36 4 ∧ (j < k → getF x 36 4 < getF w 36 4)) ∧
        Runs (.hpop t f) s fun s' => getG s' t (hopG f) = w ∧ KeepsG t [hopG f] s s' ∧ KeepsAcc t [] s s' ∧
          (hopAt s' h).items = q.items.eraseIdx k ∧ (hopAt s' h).retained.length ≤ q.retained.length + 1 ∧
          (∀ j, j ≠ h → hopAt s' j = hopAt s j) ∧ s'.mem = s.mem ∧
          reg s' (pgTine t) oRETIRED = reg s (pgTine t) oRETIRED + 1 ∧ Moves t (hopLen f) s s') ∧
    (hopFault s t h false = none → 0 < hopSlots s h → getF (getG s t (hopG f)) 32 4 ≠ 15 → hopFull s h = false →
      Runs (.hpush t f) s fun s' => (hopAt s' h).items = q.items ++ [getG s t (hopG f)] ∧ (hopAt s' h).back = q.back ∧
        (hopAt s' h).retained = q.retained ∧ (∀ j, j ≠ h → hopAt s' j = hopAt s j) ∧ s'.mem = s.mem ∧
        KeepsG t [] s s' ∧ KeepsAcc t [] s s' ∧ reg s' (pgTine t) oRETIRED = reg s (pgTine t) oRETIRED + 1) ∧
    (hopFault s t h false = none → getF (getG s t (hopG f)) 32 4 ≠ 15 → hopFull s h = true → (∀ pr, (tineAt s t).dreq ≠ .halt pr) →
      Runs (.hpush t f) s fun s' => (tineAt s' t).flight = some (.hpush (getG s t (hopG f)) h (hopLen f)) ∧
        reg s' (pgTine t) oCLOCHE = 0 ∧ s'.hops = s.hops ∧ reg s' (pgTine t) oRETIRED = reg s (pgTine t) oRETIRED ∧
        (tineAt s' t).pc = (tineAt s t).pc)) ∧
  (∀ (s : State) (t : TineNo) (item : Word) (h len : Nat), (tineAt s t).flight = some (.hpush item h len) →
    (tineAt s t).window = [] → hopFault s t h false = none → domSt s domTrel = .run → 0 < hopSlots s h → getF item 32 4 ≠ 15 →
    hopFull s h = false →
    ((tineAt s t).drain = [] → Runs (.hpushAccept t) s fun s' => (hopAt s' h).items = (hopAt s h).items ++ [item] ∧
      (∀ j, j ≠ h → hopAt s' j = hopAt s j) ∧ s'.mem = s.mem ∧ (tineAt s' t).flight = none ∧
      reg s' (pgTine t) oRETIRED = reg s (pgTine t) oRETIRED + 1) ∧
    ((tineAt s t).drain ≠ [] → Runs (.hpushAccept t) s fun s' => s' = s))

/-- An instruction that transfers control to `a` has retired. -/
structure Jumped (t : TineNo) (a : BitVec 14) (s s' : State) : Prop where
  pc : (tineAt s' t).pc = a
  accs : KeepsAcc t [] s s'
  flags : reg s' (pgTine t) oTST = reg s (pgTine t) oTST
  loops : reg s' (pgTine t) oLSTAT = reg s (pgTine t) oLSTAT

/-- BR, BRC, JMP, CALL, NOP (R86, R97, R106). -/
def Obligations.BranchesAndCalls : Prop :=
  ∀ (s : State) (t : TineNo), Ready s t →
    let pc := (tineAt s t).pc
    let z := bit (reg s (pgTine t) oTST) 20
    let n := bit (reg s (pgTine t) oTST) 21
    let c := bit (reg s (pgTine t) oTST) 22
    let v := bit (reg s (pgTine t) oTST) 23
    let holds := fun (k : BitVec 4) => match k.toNat with
      | 0 => z | 1 => !z | 2 => c | 3 => !c | 4 => n | 5 => !n | 6 => v | 7 => !v
      | 8 => c && !z | 9 => !c || z | 10 => n == v | 11 => n != v | 12 => !z && (n == v) | 13 => z || (n != v)
      | _ => true
    (∀ off, Runs (.br t off) s fun s' => Jumped t (pc + off.setWidth 14) s s' ∧ KeepsG t [] s s' ∧ Retired t [] s s') ∧
    (∀ ga, Runs (.jmp t ga) s fun s' => Jumped t ((getG s t ga).setWidth 14) s s' ∧ KeepsG t [] s s' ∧ Retired t [] s s') ∧
    (∀ ga, Runs (.call t (.c ga)) s fun s' => Jumped t ((getG s t ga).setWidth 14) s s' ∧
      getG s' t (Fin.ofNat 32 27) = (pc + 1).setWidth 40 ∧ KeepsG t [Fin.ofNat 32 27] s s' ∧ Retired t [] s s') ∧
    (∀ gl target, Runs (.call t (.f gl target)) s fun s' => Jumped t target s s' ∧
      getG s' t gl = (pc + 2).setWidth 40 ∧ KeepsG t [gl] s s' ∧ Retired t [gOff s t gl] s s') ∧
    (∀ (k : BitVec 4) (off : BitVec 11), k ≠ 15 → Runs (.brc t (.c k off)) s fun s' =>
      Retired t [] s s' ∧ KeepsG t [] s s' ∧ reg s' (pgTine t) oTST = reg s (pgTine t) oTST ∧
        (if holds k then Jumped t (pc + off.signExtend 14) s s' else Moves t 1 s s')) ∧
    (∀ (k : BitVec 4) (target : BitVec 14), k ≠ 15 → Runs (.brc t (.f k target)) s fun s' =>
      Retired t [] s s' ∧ KeepsG t [] s s' ∧ reg s' (pgTine t) oTST = reg s (pgTine t) oTST ∧
        (if holds k then Jumped t target s s' else Moves t 2 s s')) ∧
    Runs (.nop t) s fun s' => Retired t [] s s' ∧ KeepsG t [] s s' ∧ KeepsAcc t [] s s' ∧ Moves t 1 s s'

/-- Loops and repeats (R101, R104–R106); LC = 0, the level that is tested, and the order of an effect and its loop test are as
assumptions 108 and 109 choose. -/
def Obligations.LoopsRepeat : Prop :=
  ∀ (s : State) (t : TineNo), Ready s t →
    let pc := (tineAt s t).pc
    let ls := reg s (pgTine t) oLSTAT
    let ld := getF ls 0 3
    let floor := getF ls 3 3
    -- outside a repeat and with no loop end at this instruction
    let plain := bit ls 20 = false ∧ ¬ (floor < ld ∧ regF s (pgTine t) (oLE (ld - 1)) 0 14 = pc.toNat)
    (∀ e : BitVec 13, 2 ≤ e.toNat → ld < 4 → bit ls 20 = false →
      let begun := fun (c : Word) (s' : State) =>
        regF s' (pgTine t) oLSTAT 0 3 = ld + 1 ∧ reg s' (pgTine t) (oLC ld) = c ∧
        reg s' (pgTine t) (oLE ld) = (pc + e.setWidth 14).setWidth 40 ∧
        reg s' (pgTine t) (oLS ld) = (pc + 2).setWidth 40 ∧ (tineAt s' t).pc = pc + 2 ∧
        KeepsG t [] s s' ∧ KeepsAcc t [] s s' ∧ Retired t [oLE ld, oLS ld] s s'
      (∀ n : BitVec 16, n ≠ 0 → Runs (.loop t n e) s (begun (n.setWidth 40))) ∧
      (∀ g : Gr, getG s t g ≠ 0 → Runs (.loopr t g e) s (begun (getG s t g)))) ∧
    (floor < ld → ld ≤ 4 → bit ls 20 = false → (ld - 1 ≤ floor ∨ regF s (pgTine t) (oLE (ld - 2)) 0 14 ≠ pc.toNat) →
      Runs (.endl t) s fun s' => regF s' (pgTine t) oLSTAT 0 3 = ld - 1 ∧ Retired t [] s s' ∧ KeepsG t [] s s' ∧
        (tineAt s' t).pc = pc + 1) ∧
    (∀ n : BitVec 12, nextForbidden s t (pc + 1) = false →
      (Runs (.rep t n) s fun s' => regF s' (pgTine t) oLSTAT 6 13 = n.toNat + 1 ∧ regB s' (pgTine t) oLSTAT 20 = true ∧
        (tineAt s' t).pc = pc + 1 ∧ Retired t [] s s' ∧ KeepsG t [] s s') ∧
      (n.toNat < 64 → regF s (pgTine t) oCLOCHE 0 7 = 0 →
        Runs (.repu t n) s fun s' => regF s' (pgTine t) oLSTAT 6 13 = n.toNat + 1 ∧ regB s' (pgTine t) oLSTAT 20 = true ∧
          regF s' (pgTine t) oCLOCHE 0 7 = n.toNat + 1 ∧ (tineAt s' t).pc = pc + 1 ∧ Retired t [] s s' ∧ KeepsG t [] s s')) ∧
    (∀ (g : Gr) (u : Bool), 0 < (getG s t g).toNat → (getG s t g).toNat ≤ (if u then 64 else 4096) →
      nextForbidden s t (pc + 2) = false →
      Runs (.repr t g u) s fun s' => regF s' (pgTine t) oLSTAT 6 13 = (getG s t g).toNat ∧
        regB s' (pgTine t) oLSTAT 20 = true ∧ (tineAt s' t).pc = pc + 2 ∧ Retired t [] s s' ∧ KeepsG t [] s s') ∧
    -- the loop-back rule, seen at a NOP
    (bit ls 20 = false → floor < ld → ld ≤ 4 → regF s (pgTine t) (oLE (ld - 1)) 0 14 = pc.toNat →
      Runs (.nop t) s fun s' =>
        let lc := reg s (pgTine t) (oLC (ld - 1)) - 1
        reg s' (pgTine t) (oLC (ld - 1)) = lc ∧
        (lc ≠ 0 → (tineAt s' t).pc.toNat = regF s (pgTine t) (oLS (ld - 1)) 0 14 ∧ regF s' (pgTine t) oLSTAT 0 3 = ld) ∧
        (lc = 0 → (tineAt s' t).pc = pc + 1 ∧ regF s' (pgTine t) oLSTAT 0 3 = ld - 1)) ∧
    -- the repeat rule, seen at a NOP
    (bit ls 20 = true → 1 < getF ls 6 13 →
      Runs (.nop t) s fun s' => (tineAt s' t).pc = pc ∧ regF s' (pgTine t) oLSTAT 6 13 = getF ls 6 13 - 1) ∧
    (plain → Runs (.nop t) s fun s' => (tineAt s' t).pc = pc + 1 ∧ reg s' (pgTine t) oLSTAT = ls)

/-- CLOCHE, SYSC, BKPT, WAIT, MFC, MTC (R84, R85, R148, R156, R167, R430). -/
def Obligations.SystemInstructions : Prop :=
  ∀ (s : State) (t : TineNo), Ready s t →
    (∀ n : BitVec 6, regF s (pgTine t) oCLOCHE 0 7 = 0 → Runs (.cloche t n) s fun s' =>
      regF s' (pgTine t) oCLOCHE 0 7 = n.toNat + 1 ∧ Retired t [] s s' ∧ KeepsG t [] s s' ∧ Moves t 1 s s') ∧
    (∀ code : BitVec 8, Runs (.sysc t code) s fun s' =>
      (∃ f, (tineAt s' t).fault = some f ∧ f.cause = 0x04 ∧ f.info = wd code.toNat ∧ f.after = true) ∧
      Retired t [] s s' ∧ KeepsG t [] s s' ∧ Moves t 1 s s') ∧
    (Runs (.bkpt t) s fun s' => Retired t [] s s' ∧ KeepsG t [] s s' ∧ Moves t 1 s s' ∧
      (grantCovers s true t = true → (tineAt s' t).halt = .probe) ∧
      (grantCovers s true t = false → grantCovers s false t = true → (tineAt s' t).halt = .host)) ∧
    ((∀ pr, (tineAt s t).dreq ≠ .halt pr) → Runs (.wait t) s fun s' => (tineAt s' t).flight = some .wait ∧
      (tineAt s' t).pc = (tineAt s t).pc ∧ reg s' (pgTine t) oCLOCHE = 0 ∧ KeepsG t [] s s' ∧ KeepsAcc t [] s s' ∧
      reg s' (pgTine t) oRETIRED = reg s (pgTine t) oRETIRED ∧ OnlyTine t s s') ∧
    (∀ (g : Gr) (n : BitVec 10), ctlPriv s t n.toNat false = false → Runs (.mfc t g n) s
      (WroteG t g (ctlRead s t n.toNat) .none false 2 s)) ∧
    (∀ (g : Gr) (n : BitVec 10), 0x380 ≤ n.toNat → Runs (.mfc t g n) s (WroteG t g 0 .none false 2 s)) ∧
    (∀ (g : Gr) (k : Fin 8), Runs (.mfc t g (BitVec.ofNat 10 (oM k.val - 0x80))) s
      (WroteG t g (reg s (pgTine t) (oM k.val)) .none false 2 s)) ∧
    (∀ (g : Gr) (k : Fin 8), Runs (.mtc t g (BitVec.ofNat 10 (oM k.val - 0x80))) s fun s' =>
      getF (reg s' (pgTine t) (oM k.val)) 0 25 = getF (getG s t g) 0 25 ∧ Retired t [oM k.val] s s' ∧ KeepsG t [] s s' ∧
      KeepsAcc t [] s s' ∧ Moves t 2 s s') ∧
    -- TST: AOV and WSAT of the four accumulators and GSAT are cleared by ones
    (∀ g : Gr, Runs (.mtc t g 0x040) s fun s' =>
      let old := reg s (pgTine t) oTST
      let v := getG s t g
      (∀ i, i < 40 → bit (reg s' (pgTine t) oTST) i =
        (if i ∈ [1, 2, 5, 6, 9, 10, 13, 14, 16] then (bit old i && !bit v i)
         else if 20 ≤ i ∧ i ≤ 23 then bit v i
         else if i = 17 ∧ tS s t = true then bit v i else bit old i)) ∧
      Retired t [oTST] s s' ∧ KeepsG t [] s s' ∧ KeepsAcc t [] s s' ∧ Moves t 2 s s') ∧
    (let stopped := fun (s' : State) => (tineAt s' t).fault.map (·.cause) = some 0x02 ∧ KeepsG t [] s s' ∧
        KeepsAcc t [] s s' ∧ s'.regs = s.regs
     (∀ (g : Gr) (n : BitVec 10), ctlPriv s t n.toNat true = true → Runs (.mtc t g n) s stopped) ∧
     (∀ (g : Gr) (n : BitVec 10), ctlPriv s t n.toNat false = true → Runs (.mfc t g n) s stopped) ∧
     (∀ (up upF upD : Upset) (lat : Nat), tS s t = false → Runs (.retx t up upF upD lat) s stopped)) ∧
    (∀ (n : BitVec 10) (w : Bool), ctlPriv s t n.toNat w = true ↔ (tS s t = false ∧
      ((0x100 ≤ n.toNat ∧ n.toNat < 0x180) ∨ (0x200 ≤ n.toNat ∧ n.toNat < 0x300) ∨ (w = true ∧ n.toNat = 0x041))))

/-- Tine `t` stands in handler level `lvl`, world `w`, as supervisor, at `pc`, with no repeat or cloche in force. -/
structure Entered (t : TineNo) (lvl : Nat) (w : Bool) (pc : Nat) (s' : State) : Prop where
  level : tLvl s' t = lvl
  world : tW s' t = w
  super : tS s' t = true
  addr : (tineAt s' t).pc = BitVec.ofNat 14 pc
  noRepeat : regF s' (pgTine t) oLSTAT 6 13 = 0 ∧ regB s' (pgTine t) oLSTAT 20 = false
  noCloche : reg s' (pgTine t) oCLOCHE = 0

/-- FAULT_ENTRY (R148–R151). -/
def Obligations.FaultsEnterTheFaultLevel : Prop :=
  ∀ (s : State) (t : TineNo) (f : FaultRec), tineGoes (tineAt s t) = true → (tineAt s t).locked = false →
    (tineAt s t).retired = false → tineUp s t = true → (tineAt s t).fault = some f → (tineAt s t).drain = [] →
    let w := if f.cause = 0x04 then (decide (0x80 ≤ getF f.info 0 8) || tW s t) else tW s t
    let tst := reg s (pgTine t) oTST
    let saved := fun (k : Nat) (s' : State) =>
      regF s' (pgTine t) (oSPC k) 0 14 = (tineAt s t).pc.toNat ∧
      regF s' (pgTine t) (oSST k) 20 4 = getF tst 20 4 ∧ regF s' (pgTine t) (oSST k) 28 1 = b2n (tS s t) ∧
      regF s' (pgTine t) (oSST k) 29 1 = b2n (tW s t) ∧ regF s' (pgTine t) (oSST k) 30 5 = tLvl s t ∧
      reg s' (pgTine t) (oSLS k) = reg s (pgTine t) oLSTAT
    let kept := fun (s' : State) => s'.mem = s.mem ∧ (∀ i : Gr, i.val < 28 → getG s' t i = getG s t i) ∧
      KeepsAcc t [] s s' ∧ (∀ u, u ≠ t.val → tineAt s' u = tineAt s u)
    (tLvl s t < 17 → ∀ v : Word, memGet s (vectorPa s t w 64) = v → bit v 39 = true → ueAt s (vectorPa s t w 64) = false →
      Runs (.faultEntry t .ok .ok .ok) s fun s' => Entered t 17 w (getF v 0 14) s' ∧ saved 16 s' ∧ kept s' ∧
        regF s' (pgTine t) 0x2C8 0 8 = f.cause % 256 ∧
        (f.cause < 256 → f.sub < 256 → regF s' (pgTine t) 0x2C8 16 5 = tLvl s t ∧
          regB s' (pgTine t) 0x2C8 21 = tW s t ∧ regB s' (pgTine t) 0x2C8 22 = tS s t)) ∧
    (tLvl s t = 17 → ∀ v : Word, memGet s (vectorPa s t (tW s t) 65) = v → bit v 39 = true →
      ueAt s (vectorPa s t (tW s t) 65) = false →
      Runs (.faultEntry t .ok .ok .ok) s fun s' => Entered t 18 (tW s t) (getF v 0 14) s' ∧ saved 17 s' ∧ kept s' ∧
        regF s' (pgTine t) 0x2CC 0 8 = f.cause % 256) ∧
    (tLvl s t = 18 → regB s pgNurs 0x010 0 = true →
      Runs (.faultEntry t .ok .ok .ok) s fun s' => (tineAt s' t).locked = true ∧ s'.mem = s.mem ∧
        (∃ e ∈ s'.frec, e.kind = 5 ∧ e.src = t.val))

/-- HANDLER_ENTRY and RETX (R145, R152, R164). -/
def Obligations.HandlerEntriesAndReturns : Prop :=
  ∀ (s : State) (t : TineNo),
    let kept := fun (s' : State) => s'.mem = s.mem ∧ (∀ i : Gr, i.val < 28 → getG s' t i = getG s t i) ∧
      KeepsAcc t [] s s' ∧ (∀ u, u ≠ t.val → tineAt s' u = tineAt s u)
    (∀ (n : Fin 64) (v : Word) (lat : Nat), (tineAt s t).entry = some n.val → owesFault s t = false → asleep s t = false →
      (tineAt s t).dreq = .none →
      memGet s (vectorPa s t (inWalled s t n) n) = v → bit v 39 = true → ueAt s (vectorPa s t (inWalled s t n) n) = false →
      let p := inPri s t n
      Runs (.handlerEntry t .ok .ok .ok lat) s fun s' => Entered t (p + 1) (inWalled s t n) (getF v 0 14) s' ∧
        sievePend s' t n = false ∧ regF s' (pgTine t) (oSPC p) 0 14 = (tineAt s t).pc.toNat ∧
        regF s' (pgTine t) (oSST p) 20 4 = getF (reg s (pgTine t) oTST) 20 4 ∧
        regF s' (pgTine t) (oSST p) 30 5 = tLvl s t ∧ regF s' (pgTine t) (oSST p) 29 1 = b2n (tW s t) ∧
        reg s' (pgTine t) (oSLS p) = reg s (pgTine t) oLSTAT ∧
        getF (reg s' (pgTine t) oSSTAT) 6 6 = n.val % 64 ∧ getF (reg s' (pgTine t) oSSTAT) 0 4 = p ∧ kept s') ∧
    (∀ lat, Ready s t → tS s t = true → 0 < tLvl s t →
      let k := tLvl s t - 1
      let new := reg s (pgTine t) (oSST k)
      getF new 30 5 < tLvl s t → (bit new 29 = true → tW s t = true) → retxBest s t new = none → (tineAt s t).dreq = .none →
      Runs (.retx t .ok .ok .ok lat) s fun s' =>
        (tineAt s' t).pc.toNat = regF s (pgTine t) (oSPC k) 0 14 ∧ tLvl s' t = getF new 30 5 ∧ tW s' t = bit new 29 ∧
        tS s' t = bit new 28 ∧ regF s' (pgTine t) oTST 20 4 = getF new 20 4 ∧
        reg s' (pgTine t) oLSTAT = reg s (pgTine t) (oSLS k) ∧ (tineAt s' t).halfdone = bit new 35 ∧
        reg s' (pgTine t) oRETIRED = reg s (pgTine t) oRETIRED + 1 ∧ kept s')

/-- Requester `w` may write register `off` of tine `t`: the tine itself by a control instruction its mode may use, any
other party by a memory access that passes its checks. -/
def Writes (s : State) (w : Who) (t : TineNo) (off : Nat) : Prop :=
  (w = .tine t → ctlPriv s t (off - 0x80) true = false) ∧ (w ≠ .tine t → regGate s w (pgTine t) off = .ok)

/-- Registers of the TINE page of `t` other than those at `offs` and the takeover and abandon counts keep their values, and
so do all G registers, accumulators, the PC, memory and other tines. -/
structure SieveFrame (t : TineNo) (offs : List Nat) (s s' : State) : Prop where
  only : OnlyTine t s s'
  page : ∀ off, off < 1024 → off ∉ offs → off ≠ oSCNT → reg s' (pgTine t) off = reg s (pgTine t) off
  regs : (∀ i, getG s' t i = getG s t i) ∧ KeepsAcc t [] s s'
  pc : (tineAt s' t).pc = (tineAt s t).pc

/-- The event sieve's inputs and record (R138, R160, R161, R165, R166, R169, R173); a popped entry reads 0 by assumption 143. -/
def Obligations.SieveInputs : Prop :=
  ∀ (s : State) (t : TineNo) (w : Who) (v : Word),
    let openW := !whoWalled s w
    (∀ n : Fin 64, tineUp s t = true → Runs (.sieveArrival t n) s fun s' =>
      sievePend s' t n = true ∧ (∀ m, m < 64 → m ≠ n.val → sievePend s' t m = sievePend s t m) ∧
      SieveFrame t [oPENDLO + n.val / 32] s s') ∧
    -- a raise reaches the writing tine alone, and no other writer raises (R173, assumption 104)
    (∀ p : TineNo, (w = .tine p ∨ ∃ wl su, w = .store p wl su) → tineUp s p = true → Writes s w t oRAISE → bit v 39 = true →
      Runs (.sieveRaise w t v) s fun s' => sievePend s' p 63 = true ∧ (∀ m, m < 63 → sievePend s' p m = sievePend s p m) ∧
        SieveFrame p [oPENDLO + 1] s s') ∧
    ((∀ p wl su, w ≠ .tine p ∧ w ≠ .store p wl su) → Writes s w t oRAISE → Runs (.sieveRaise w t v) s fun s' => s' = s) ∧
    (Writes s w t oCLRPEND → bit v 39 = true → getF v 0 6 ≠ 60 → (openW && inWalled s t (getF v 0 6)) = false →
      Runs (.sieveClrpend w t v) s fun s' => sievePend s' t (getF v 0 6) = false ∧
        (∀ m, m < 64 → m ≠ getF v 0 6 → sievePend s' t m = sievePend s t m) ∧
        SieveFrame t [oPENDLO + getF v 0 6 / 32] s s') ∧
    (Writes s w t oEOI → bit (reg s (pgTine t) oSSTAT) 4 = true → Runs (.sieveEoi w t v) s fun s' =>
      reg s' (pgTine t) oSSTAT = setB (reg s (pgTine t) oSSTAT) 18 true ∧ SieveFrame t [oSSTAT] s s') ∧
    (Writes s w t oEOI → bit (reg s (pgTine t) oSSTAT) 4 = false → (openW && bit (reg s (pgTine t) oSSTAT) 5) = false →
      0 < getF (reg s (pgTine t) oSSTAT) 13 5 → getF (reg s (pgTine t) oSSTAT) 13 5 ≤ 16 →
      Runs (.sieveEoi w t v) s fun s' =>
        let d := getF (reg s (pgTine t) oSSTAT) 13 5
        getF (reg s' (pgTine t) oSSTAT) 0 13 = getF (reg s (pgTine t) (oSTK (d - 1))) 0 13 ∧
        getF (reg s' (pgTine t) oSSTAT) 13 5 = d - 1 ∧ reg s' (pgTine t) (oSTK (d - 1)) = 0 ∧
        SieveFrame t [oSSTAT, oSTK (d - 1)] s s') ∧
    (∀ n : Fin 64, n.val ≠ 60 → Writes s w t (oSCFG n) → (openW && inWalled s t n) = false →
      Runs (.sieveCfgWrite w t n v) s fun s' =>
        getF (reg s' (pgTine t) (oSCFG n)) 0 5 = getF v 0 5 ∧ getF (reg s' (pgTine t) (oSCFG n)) 6 10 = getF v 6 10 ∧
        inWalled s' t n = (if walledWriter s w && decide (w ≠ .graft ∧ w ≠ .nursery) && !sievePend s t n && !inActive s t n then bit v 5
          else inWalled s t n) ∧
        SieveFrame t [oSCFG n] s s') ∧
    (∀ n : Fin 64, Tbl.get (fun _ => 0) (tineAt s t).hold n ≤ s.now → Runs (.holdOffEnd t n) s fun s' =>
      Tbl.get (fun _ => 0) (tineAt s' t).hold n = 0 ∧
      (∀ m, m ≠ n.val → Tbl.get (fun _ => 0) (tineAt s' t).hold m = Tbl.get (fun _ => 0) (tineAt s t).hold m) ∧
      SieveFrame t [] s s')

/-- The timer, dither, shaper and lock commands (R65, R68, R151, R172). -/
def Obligations.TimerDitherAndLock : Prop :=
  (∀ (s : State) (t : TineNo) (w : Who) (v : Word),
    (Writes s w t oTCMP → ((!whoWalled s w) && inWalled s t 62) = false → tmrPast s (getF v 0 32) = false →
      (getF v 0 32 ≠ 0 ∨ regF s (pgTine t) oTPER 0 32 ≠ 0) →
      Runs (.sieveTmrCmpWrite w t v) s fun s' => regF s' (pgTine t) oTCMP 0 32 = getF v 0 32 ∧
        regB s' (pgTine t) oSSTAT 21 = true ∧ SieveFrame t [oTCMP, oSSTAT] s s') ∧
    (regB s (pgTine t) oSSTAT 21 = true → tmrPast s (regF s (pgTine t) oTCMP 0 32) = true → tineUp s t = true →
      Runs (.timerCompare t) s fun s' => sievePend s' t 62 = true ∧
        (regF s (pgTine t) oTPER 0 32 = 0 → regB s' (pgTine t) oSSTAT 21 = false) ∧
        (0 < regF s (pgTine t) oTPER 0 32 → regF s (pgTine t) oTPER 0 32 < 2 ^ 31 →
          (regF s' (pgTine t) oTCMP 0 32 + 2 ^ 32 - s.now % 2 ^ 32) % 2 ^ 32 ≤ regF s (pgTine t) oTPER 0 32 ∧
          0 < (regF s' (pgTine t) oTCMP 0 32 + 2 ^ 32 - s.now % 2 ^ 32) % 2 ^ 32) ∧
        SieveFrame t [oTCMP, oSSTAT, oPENDLO + 1] s s') ∧
    (Writes s w t oDTHA → Runs (.ditherStateWrite w t false v) s fun s' =>
      reg s' (pgTine t) oDTHA = (if getF v 0 32 = 0 then wd 0x12345679 else wd (getF v 0 32)) ∧
      SieveFrame t [oDTHA] s s') ∧
    (Writes s w t oDTHB → Runs (.ditherStateWrite w t true v) s fun s' =>
      reg s' (pgTine t) oDTHB = (if getF v 0 32 = 0 then wd 0x87654321 else wd (getF v 0 32)) ∧
      SieveFrame t [oDTHB] s s') ∧
    (∀ n : Ar, Writes s w t (oRQ n) → Runs (.clrE w t n v) s fun s' =>
      reg s' (pgTine t) (oRQ n + 4) = 0 ∧ reg s' (pgTine t) (oRQ n + 5) = 0 ∧ reg s' (pgTine t) (oRQ n + 6) = 0 ∧
      getF (reg s' (pgTine t) (oRQ n)) 0 2 = getF v 0 2 ∧
      getF (reg s' (pgTine t) (oRQ n)) 2 3 = (if getF v 2 3 < 6 then getF v 2 3 else getF (reg s (pgTine t) (oRQ n)) 2 3) ∧
      SieveFrame t [oRQ n, oRQ n + 4, oRQ n + 5, oRQ n + 6] s s')) ∧
  (∀ (s : State) (w : Who) (v : Word), regGate s w pgNurs 0x011 = .ok → walledWriter s w = true → bit v 39 = true →
    regB s pgNurs 0x011 8 = true →
    Runs (.nursLockTineClr w v) s fun s' =>
      s'.lockSet = s.lockSet.filter (fun x => decide (x ≠ regF s pgNurs 0x011 0 8)) ∧
      (match s'.lockSet with
       | x :: _ => x < 144 → reg s' pgNurs 0x011 = wd (0x100 + x)
       | [] => reg s' pgNurs 0x011 = 0) ∧
      s' = { s with lockSet := s'.lockSet, regs := s'.regs } ∧
      (∀ pg off, off < 1024 → (pg ≠ pgNurs ∨ off ≠ 0x011) → reg s' pg off = reg s pg off))

/-- Input `n` is pending at the tine that serves logical tine `l`, where its plot can be reached. -/
def SlotRaised (n l : Nat) (s s' : State) : Prop :=
  ∀ t, physOf s l = some t → tineUp s t = true → sievePend s' t n = true

/-- Input `n` is pending at every member that the route of plot `p` selects. -/
def PlotRaised (n p : Nat) (s s' : State) : Prop := ∀ k ∈ routeNow s p, SlotRaised n (8 * p + k) s s'

/-- Input `n` is pending at every member that the route of bed `b` and those of its plots select. -/
def BedRaised (n b : Nat) (s s' : State) : Prop := ∀ k ∈ routeNow s (16 + b), PlotRaised n (4 * b + k) s s'

/-- Input `n` is pending at every member that the route of the device and those below select. -/
def DevRaised (n : Nat) (s s' : State) : Prop := ∀ b ∈ routeNow s 20, BedRaised n b s s'

/-- Every logical tine in service is served by a tine of its own plot (R404). -/
def OwnPlots (s : State) : Prop := ∀ l, l < 128 → ∀ t, physOf s l = some t → t / 9 = l / 8

/-- Input `n` is pending at every member that an event at a unit of LEVEL 0–3 reaches (R175). -/
def UnitRaised (level unit n : Nat) (s s' : State) : Prop :=
  match level with
  | 0 => SlotRaised n (unit % 128) s s'
  | 1 => PlotRaised n (unit % 16) s s'
  | 2 => OwnPlots s → BedRaised n (unit % 4) s s'
  | 3 => OwnPlots s → DevRaised n s s'
  | _ => True

/-- The event of an accepted mailbox write: input 63 on the members that the unit's route selects (R22); of the chain, where
its route selects this device alone. -/
def MboxRaised (u : MUnit) (s s' : State) : Prop :=
  match u with
  | .slot l => SlotRaised 63 l s s'
  | .plot p => PlotRaised 63 p s s'
  | .bed b => OwnPlots s → BedRaised 63 b s s'
  | .device => OwnPlots s → DevRaised 63 s s'
  | .chain => OwnPlots s →
      routePick (routeWord s 21) (devicesM1 s + 1) (Tbl.get (fun _ => 0) s.rrLast 21) (chainBad s) (chainIdle s) = [chainAddr s] →
      DevRaised 63 s s'

/-- MBOX_PUT, MBOX_TAKE, CLR_DROPS and MBOX_WITHHELD_WRITE_ACCEPT (R21–R24). -/
def Obligations.Mailboxes : Prop :=
  ∀ (s : State) (w : Who) (u : MUnit) (item : Word), (u = .chain → chainFaceOn s = true) →
    let pg := (mboxReg u).1
    let off := (mboxReg u).2
    let items := mboxItems s u
    let drops := regF s pg (off + 2) 8 8
    let others := fun s' : State => s'.mem = s.mem ∧ s'.hops = s.hops ∧ (∀ v, v ≠ u → mboxItems s' v = mboxItems s v)
    let dropped := fun s' : State => mboxItems s' u = items ∧ regF s' pg (off + 2) 8 8 = min 255 (drops + 1) ∧
      s' = { s with regs := s'.regs } ∧
      (∀ p o, o < 1024 → (p ≠ pg ∨ o ≠ off + 2) → reg s' p o = reg s p o)
    (regGate s w pg off = .ok →
      (getF item 32 4 ≠ 15 → items.length < 8 →
        Runs (.mboxPut w u item) s fun s' => mboxItems s' u = items ++ [item] ∧ others s' ∧ MboxRaised u s s') ∧
      (getF item 32 4 = 15 → w ≠ .graft → Runs (.mboxPut w u item) s dropped) ∧
      (getF item 32 4 ≠ 15 → 8 ≤ items.length → whoLocal w = false → w ≠ .graft → Runs (.mboxPut w u item) s dropped) ∧
      (getF item 32 4 = 15 ∨ 8 ≤ items.length → w = .graft → Runs (.mboxPut w u item) s fun s' => mboxItems s' u = items ∧
        regF s' pg (off + 2) 8 8 = min 255 (drops + 1) ∧
        regF s' pgBoot 0x014 15 16 = min 65535 (regF s pgBoot 0x014 15 16 + 1) ∧ s' = { s with regs := s'.regs }) ∧
      (getF item 32 4 ≠ 15 → 8 ≤ items.length → whoLocal w = true →
        Runs (.mboxPut w u item) s fun s' => s' = { s with withheld := s.withheld ++ [(.direct w, mboxNo u, item)] })) ∧
    (regGate s w pg (off + 1) = .ok →
      (items = [] → Runs (.mboxTake w u) s fun s' => s' = { s with readData := voidWord }) ∧
      (items ≠ [] → ∃ k x, items[k]? = some x ∧
        (∀ j y, items[j]? = some y → getF y 36 4 ≤ getF x 36 4 ∧ (j < k → getF y 36 4 < getF x 36 4)) ∧
        Runs (.mboxTake w u) s fun s' => s'.readData = x ∧ mboxItems s' u = items.eraseIdx k ∧ others s' ∧
          s' = { s with mbox := s'.mbox, readData := x })) ∧
    (regGate s w pg (off + 2) = .ok → Runs (.clrDrops w u) s fun s' => regF s' pg (off + 2) 8 8 = 0 ∧
      s' = { s with regs := s'.regs } ∧ (∀ p o, o < 1024 → (p ≠ pg ∨ o ≠ off + 2) → reg s' p o = reg s p o)) ∧
    (∀ k x, withheldAt s u k = some (.direct x, mboxNo u, item) → items.length < 8 → mboxUp s u = true →
      Runs (.mboxWithheldWriteAccept u k) s fun s' => mboxItems s' u = items ++ [item] ∧ others s' ∧ MboxRaised u s s' ∧
        s'.withheld = s.withheld.erase (.direct x, mboxNo u, item))

/-- REGISTER_WRITE and COUNTER_CLEAR (R11, R69), seen at the pages whose registers are plain. -/
def Obligations.RegisterAccessTypes : Prop :=
  (∀ (s : State) (w : Who) (pg : Fin 512) (off : Fin 1024) (v : Word) (k : PageKind) (i : Nat),
    pageKind pg = some (k, i) → (k = .pcie ∨ k = .qspi ∨ k = .trel) → 0x010 ≤ off.val → regGate s w pg off = .ok →
    let sp := regSpec k i off
    let only := fun s' : State => s' = { s with regs := s'.regs } ∧
      (∀ p o, o < 1024 → (p ≠ pg.val ∨ o ≠ off.val) → reg s' p o = reg s p o)
    (Runs (.registerWrite w pg off v) s fun s' => only s' ∧
      ∀ b, b < 40 → bit (reg s' pg off) b =
        (if bit v sp.clrBit && bit (wd sp.clr) b then false
         else if bit v b && bit (wd sp.w1c) b then false
         else if bit (wd sp.rw) b then bit v b else bit (reg s pg off) b)) ∧
    (sp.clr ≠ 0 → Runs (.counterClear w pg off) s fun s' => only s' ∧
      ∀ b, b < 40 → bit (reg s' pg off) b = (bit (reg s pg off) b && !bit (wd sp.clr) b))) ∧
  (∀ (s : State) (w : Who) (pg : Fin 512) (off : Fin 1024) (v : Word), pageKind pg = none →
    (match w with | .tine _ => false | _ => true) = true →
    Runs (.registerWrite w pg off v) s fun s' => s' = s)

/-- The page header commands (R454–R456). -/
def Obligations.PageHeaders : Prop :=
  ∀ (s : State) (w : Who) (pg : Fin 512) (v : Word) (k : PageKind) (i : Nat), pageKind pg = some (k, i) →
    let n := pageNirq k
    let onlyAt := fun (o : Nat) (s' : State) => s' = { s with regs := s'.regs } ∧
      (∀ p x, x < 1024 → (p ≠ pg.val ∨ x ≠ o) → reg s' p x = reg s p x)
    (regGate s w pg 2 = .ok → walledWriter s w = true → pageLocked s pg = false → bit v 1 = false →
      (bit (reg s pg 2) 0 = true ∨ bit v 0 = false) →
      Runs (.pageCtrlWrite w pg v) s fun s' => onlyAt 2 s' ∧ bit (reg s' pg 2) 0 = bit v 0 ∧ bit (reg s' pg 2) 2 = bit v 2 ∧
        (getF v 3 8 < 254 → getF (reg s' pg 2) 3 8 = getF v 3 8) ∧
        (254 ≤ getF v 3 8 → getF (reg s' pg 2) 3 8 = getF (reg s pg 2) 3 8) ∧
        getF (reg s' pg 2) 11 12 = getF v 11 12) ∧
    (regGate s w pg 2 = .ok → walledWriter s w = true → pageLocked s pg = true → bit v 1 = false →
      Runs (.pageCtrlWrite w pg v) s fun s' => s' = s) ∧
    (walledWriter s w = false → regGate s w pg 2 = .ok → Runs (.pageCtrlWrite w pg v) s fun s' => s' = s) ∧
    (walledWriter s w = false → regGate s w pg 2 = .ok → (Runs (.pageLock w pg) s fun s' => s' = s) ∧
      Runs (.pageSoftReset w pg) s fun s' => s' = s) ∧
    (regGate s w pg 2 = .ok → walledWriter s w = true → Runs (.pageLock w pg) s fun s' =>
      pageLocked s' pg = true ∧ bit (reg s' pg 2) 0 = bit (reg s pg 2) 0 ∧
      getF (reg s' pg 2) 3 8 = getF (reg s pg 2) 3 8) ∧
    (regGate s w pg 2 = .ok → walledWriter s w = true → Runs (.pageSoftReset w pg) s fun s' =>
      reg s' pg 4 = 0 ∧ s'.mem = s.mem ∧ s'.tines = s.tines ∧
      (∀ o, 8 ≤ o → o < 1024 → reg s' pg o =
        ((reg s pg o &&& ~~~(wd (srstMask k i o))) ||| (wd (regSpec k i o).rst &&& wd (srstMask k i o)))) ∧
      (∀ p o, o < 1024 → p ≠ pg.val → reg s' p o = reg s p o)) ∧
    (regGate s w pg 6 = .ok → Runs (.pageIrqClr w pg v) s fun s' => onlyAt 4 s' ∧
      ∀ b, b < 40 → bit (reg s' pg 4) b = (bit (reg s pg 4) b && !(bit v b && decide (b < n)))) ∧
    (regGate s w pg 5 = .ok → (k = .nurs → walledWriter s w = true) → (regB s pg 2 0 = false ∨ pageP s pg ≠ 0) →
      Runs (.pageIrqEnWrite w pg v) s fun s' => onlyAt 5 s' ∧
        ∀ b, b < 40 → bit (reg s' pg 5) b = (bit v b && decide (b < n))) ∧
    (∀ x : Bool, regGate s w pg 7 = .ok →
      Runs (.pageOwnerWrite w pg x) s fun s' =>
        if ownerWriter s w && decide (pageOwnerReset k < 2) && !pageLocked s pg then
          onlyAt 7 s' ∧ bit (reg s' pg 7) 0 = x
        else s' = s)

/-- TINE_XCFG_WRITE, XINV, TINV, SHOOT, SHOOT_COMPLETE (R196). -/
def Obligations.TranslationCaches : Prop :=
  (∀ (s : State) (w : Who) (t : TineNo) (v : Word), regGate s w (pgTine t) oXCFG = .ok →
    (regB s (pgTine t) 7 0 = true → walledWriter s w = true) →
    Runs (.tineXcfgWrite w t v) s fun s' => reg s' (pgTine t) oXCFG = v &&& wd 0x3FFFFC001 ∧
      tineAt s' t = { tineAt s t with xcache := [] } ∧ (∀ u, u ≠ t.val → tineAt s' u = tineAt s u) ∧
      s' = { s with tines := s'.tines, regs := s'.regs } ∧
      (∀ p o, o < 1024 → (p ≠ pgTine t ∨ o ≠ oXCFG) → reg s' p o = reg s p o)) ∧
  (∀ (s : State) (w : Who) (t : TineNo) (all : Bool) (va : BitVec 20),
    let keep := fun c : List XLeaf => if all then [] else c.filter fun l => !leafCovers l (va.toNat * 2 ^ 12)
    (regGate s w (pgTine t) oXINV = .ok → (regB s (pgTine t) 7 0 = true → walledWriter s w = true) →
      Runs (.xinv w t all va) s fun s' => s' = { s with tines := s'.tines } ∧
        tineAt s' t = { tineAt s t with xcache := keep (tineAt s t).xcache } ∧
        (∀ u, u ≠ t.val → tineAt s' u = tineAt s u)) ∧
    (regGate s w pgXlat 0x011 = .ok →
      Runs (.tinv w all va) s fun s' => s' = { s with xcache := keep s.xcache }) ∧
    (regGate s w pgXlat 0x012 = .ok → regB s pgXlat 0x012 0 = false →
      Runs (.shoot w all va) s fun s1 => regB s1 pgXlat 0x012 0 = true ∧ s1 = { s with regs := s1.regs } ∧
        Runs .shootComplete s1 fun s' => regB s' pgXlat 0x012 0 = false ∧ s'.xcache = keep s.xcache ∧
          (∀ u, u < 144 → tineAt s' u = { tineAt s u with xcache := keep (tineAt s u).xcache }) ∧
          s' = { s with tines := s'.tines, regs := s'.regs, xcache := s'.xcache }))

/-- WEEDER_STEP, DRAM_REFRESH_POLL, DRAM_RETRAIN, PER_BANK_REFRESH (R185, R198). -/
def Obligations.MemoryUpkeep : Prop :=
  (∀ s : State, s.ue = [] → domSt s domShda = .run → domSt s domShdb = .run → regB s pgShed 0x013 0 = true →
    Tbl.get (fun _ => 0) s.memCtl.walk 1 ≤ s.now →
    regF s pgShed 0x015 14 26 + (regF s pgShed 0x013 1 4 + 1) < 0x400000 →
    Runs (.weederStep 1 []) s fun s' =>
      regF s' pgShed 0x015 14 26 = regF s pgShed 0x015 14 26 + (regF s pgShed 0x013 1 4 + 1) ∧
      regF s' pgShed 0x015 0 14 = regF s pgShed 0x015 0 14 ∧
      s' = { s with regs := s'.regs, memCtl := s'.memCtl } ∧
      Tbl.get (fun _ => 0) s'.memCtl.walk 1 = s.now + max 1 (regF s pgShed 0x013 5 10) ∧
      (∀ p o, o < 1024 → (p ≠ pgShed ∨ o ≠ 0x015) → reg s' p o = reg s p o)) ∧
  (∀ s : State, regF s pgDram 0x010 0 2 ≠ 0 → domSt s domLink = .run →
    (∀ m : Fin 8, s.now % 1000 = 0 → Runs (.dramRefreshPoll m) s fun s' =>
      s' = { s with memCtl := { s.memCtl with derate := m.val } }) ∧
    (∀ o : BitVec 16, s.now % 100000 = 0 → Runs (.dramRetrain o) s fun s' =>
      s' = { s with memCtl := { s.memCtl with osc := o.toNat } }) ∧
    Runs .perBankRefresh s fun s' => s' = { s with memCtl := { s.memCtl with bank := (s.memCtl.bank + 1) % 8 } })

/-- BLOCK_BOUNDARY and DEV_BLOCK_CFG_WRITE (R29, R31, R298). -/
def Obligations.BlockClock : Prop :=
  (∀ s : State, s.pllRuns = true → s.boot.graft = none → s.blkFrom + blockTicks s ≤ s.now + 1 → gridClk s ≠ none →
    Runs .blockBoundary s fun s' => gridClk s = some s'.pwmClk ∧
    (regB s pgDev 0x048 16 = false → s.pwmOn = true → s'.pwmClk % 8192 = 0 ∧ s.pwmClk ≤ s'.pwmClk) ∧
    reg s' pgDev 0x049 = reg s pgDev 0x049 + 1 ∧ regF s' pgDev 0x04A 0 32 = s.now % 2 ^ 32 ∧ s'.cgArm = [] ∧ s'.blkFrom = s.now ∧
    s'.mem = s.mem) ∧
  (∀ s : State, s.pllRuns = false ∨ s.now + 1 < s.blkFrom + blockTicks s ∨ gridClk s = none → Runs .blockBoundary s fun s' => s' = s) ∧
  (∀ (s : State) (w : Who) (v : Word), regGate s w pgDev 0x048 = .ok →
    (s.pllRuns = false → 8 ≤ getF v 0 10 → Runs (.devBlockCfgWrite w v) s fun s' =>
      reg s' pgDev 0x048 = v &&& wd 0x103FF ∧ s' = { s with regs := s'.regs } ∧
      (∀ p o, o < 1024 → (p ≠ pgDev ∨ o ≠ 0x048) → reg s' p o = reg s p o)) ∧
    (s.pllRuns = true ∨ getF v 0 10 < 8 → Runs (.devBlockCfgWrite w v) s fun s' =>
      regB s' pgDev 0x04A 39 = true ∧ s' = { s with regs := s'.regs } ∧
      (∀ p o, o < 1024 → (p ≠ pgDev ∨ o ≠ 0x04A) → reg s' p o = reg s p o)))

/-- Registers agree but at the given offsets of the CHAIN page. -/
def ChainRegsOnly (offs : List Nat) (s s' : State) : Prop :=
  ∀ p o, o < 1024 → (p ≠ pgChain ∨ o ∉ offs) → reg s' p o = reg s p o

/-- CELL_SEND, CELL_RECEIVE, CELL_RESEND, LINK_RETRAIN, LINK_DOWN, PORT_UNCONNECTED, CHAIN_PORT_TRAINED, the wake patterns
and REENUM (R354–R356, R358, R359, R362); log entry 58 numbers IDLE cells, 63 clears the resend count at a retraining. -/
def Obligations.ChainPorts : Prop :=
  ∀ (s : State) (p : Fin 2), domSt s domLink = .run → s.released = true → s.vcoreLow = false →
    let x := portAt s p
    let sends := fun (c : Cell) (n : Nat) (y : Port) (s' : State) =>
      s' = { s with out := s.out ++ [.cell p (cellWords c n x.good x.nak)], ports := s'.ports } ∧
      portAt s' p = { y with nak := false } ∧ (∀ q, q ≠ p.val → portAt s' q = portAt s q)
    let down := fun s' : State =>
      portUp s' p = false ∧ (portAt s' p).sample = [] ∧ (portAt s' p).bulk = [] ∧ (portAt s' p).again = [] ∧
      regF s' pgChain 0x017 12 12 = min 4095 (regF s pgChain 0x017 12 12 + 1) ∧ s'.mem = s.mem ∧ s'.tines = s.tines ∧
      (p = 1 → portUp s 0 = true → (∀ e ∈ s.chainFwd, e.1 = 1 → e.2.1 < chainAddr s) →
        (portAt s' 0).bulk = (portAt s 0).bulk ++
          (s.chainFwd.filter fun e => decide (e.1 = 1)).map (fun e => mkCell s 3 e.2.1 0 [wd (e.2.2 + 2 ^ 16)]) ++
          (if chainReady s && !chainHead s && decide (chainAddr s < 15) then [mkCell s 9 0 0 [wd (chainAddr s + 1)]] else []))
    (portUp s p = true →
      (∀ n c rest, x.again = (n, c) :: rest → Runs (.cellSend p) s (sends c n { x with again := rest })) ∧
      (∀ c rest, x.again = [] → x.sample = c :: rest → x.sent.length < 32 →
        Runs (.cellSend p) s (sends c x.lseq
          { x with sample := rest, lseq := (x.lseq + 1) % 256, sent := x.sent ++ [(x.lseq, c)] })) ∧
      (∀ c rest, x.again = [] → x.sample = [] → x.bulk = c :: rest → x.sent.length < 32 →
        Runs (.cellSend p) s (sends c x.lseq
          { x with bulk := rest, lseq := (x.lseq + 1) % 256, sent := x.sent ++ [(x.lseq, c)] })) ∧
      (x.again = [] → x.sample = [] → x.bulk = [] →
        Runs (.cellSend p) s (sends { typ := 0, dst := 0, src := chainAddr s, cls := 0, body := [] } ((x.lseq + 255) % 256) x)) ∧
      (∀ ws, cellGood ws = true → (cellOf ws).dst = chainAddr s → (cellOf ws).typ ∈ [1, 2, 3, 4] →
        getF ((ws[0]?).getD 0) 13 8 = (x.good + 1) % 256 →
        Runs (.cellReceive p ws) s fun s' => s'.cellsIn = s.cellsIn ++ [cellOf ws] ∧
          portAt s' p = { x with good := (x.good + 1) % 256 } ∧ s' = { s with cellsIn := s'.cellsIn, ports := s'.ports }) ∧
      (∀ ws, cellGood ws = false → Runs (.cellReceive p ws) s fun s' =>
        portAt s' p = { x with nak := true } ∧ s' = { s with ports := s'.ports }) ∧
      (∀ ack : BitVec 8,
        let later := x.sent.filter fun e => decide (0 < (e.1 + 256 - ack.toNat) % 256 ∧ (e.1 + 256 - ack.toNat) % 256 < 128)
        later ≠ [] → Runs (.cellResend p ack) s fun s' => (portAt s' p).again = later ∧ (portAt s' p).sent = later ∧
          regF s' pgChain 0x017 0 12 = min 4095 (regF s pgChain 0x017 0 12 + later.length) ∧
          ChainRegsOnly [0x017] s s') ∧
      (8 ≤ x.resends → Runs (.linkRetrain p true) s fun s' =>
        portAt s' p = { x with resends := 0 } ∧ s' = { s with ports := s'.ports }) ∧
      Runs (.linkDown p) s down ∧ (8 ≤ x.resends → Runs (.linkRetrain p false) s down)) ∧
    (portUp s p = false → ∀ h, Runs (.chainPortTrained p h) s fun s' => portUp s' p = true ∧ s'.mem = s.mem ∧ s'.tines = s.tines) ∧
    (portUp s 1 = false → chainHead s = false → chainReady s = true → ∀ h, Runs (.chainPortTrained 1 h) s fun s' =>
      (portAt s' 1).bulk = (portAt s 1).bulk ++ [mkCell s 5 0 0 [wd (chainAddr s + 1)]]) ∧
    (portUp s 0 = false → chainHead s = false → chainReady s = false → s.releasedAt + 2000 ≤ s.now → Runs (.portUnconnected 0) s fun s' =>
      chainHead s' = true ∧ chainAddr s' = 0 ∧ s'.mem = s.mem ∧ s'.tines = s.tines) ∧
    (∀ w, regGate s w pgChain 0x013 = .ok →
      (Runs (.wakeUp w) s fun s' => s' = { s with out := s.out ++ [.other "chain-wake" [0]] }) ∧
      (Runs (.wakeDn w) s fun s' => s' = { s with out := s.out ++ [.other "chain-wake" [1]] }) ∧
      (chainHead s = true → portUp s 1 = true → Runs (.reenum w) s fun s' =>
        (portAt s' 1).bulk = (portAt s 1).bulk ++ [mkCell s 5 0 0 [1]] ∧ s' = { s with ports := s'.ports }))

/-- The chain's cells (R357–R361). -/
def Obligations.ChainCells : Prop :=
  ∀ (s : State) (c : Cell) (rest : List Cell), domSt s domLink = .run → s.released = true → s.vcoreLow = false → s.cellsIn = c :: rest →
    let word := fun k : Nat => (c.body[k - 1]?).getD 0
    (∀ (walled : Bool) (pa : Nat) (v : Word) (b : Bool), c.typ = 1 → c.body = [wd pa, v] → pa < 2 ^ 28 →
      regionOf pa = .shed b → outGate s (.chainWin walled) true pa = .ok → bootDiscards s (cellSrc s c) pa = false →
      Runs (.chainWrite walled []) s fun s' => memGet s' pa = v ∧ (∀ a, a ≠ pa → memGet s' a = memGet s a) ∧
        s' = { s with cellsIn := rest, mem := s'.mem, ue := s'.ue }) ∧
    (∀ (walled : Bool) (pa tag : Nat) (b : Bool), c.typ = 2 → c.body = [wd pa, wd tag] → pa < 2 ^ 28 → tag < 2 ^ 16 →
      regionOf pa = .shed b → outGate s (.chainWin walled) false pa = .ok → ueAt s pa = false → c.src ≠ chainAddr s →
      portUp s (portToward s c.src) = true →
      Runs (.chainRead walled []) s fun s' =>
        (portAt s' (portToward s c.src)).bulk = (portAt s (portToward s c.src)).bulk ++
          [mkCell s 3 c.src 0 [wd tag, memGet s pa]] ∧
        s' = { s with cellsIn := rest, ports := s'.ports, chainFwd := s.chainFwd.filter fun e => !decide (e.2 = (c.src, tag)) }) ∧
    (∀ tag src pa, c.typ = 3 → getF (word 1) 0 16 = tag → bit (word 1) 16 = false →
      s.chainTags.find? (fun e => decide (e.1 = tag)) = some (tag, src, pa) →
      Runs .chainRdata s fun s' => s' = { s with
        cellsIn := rest
        chainTags := s.chainTags.filter (fun e => decide (e.1 ≠ tag))
        chainBack := s.chainBack ++ [(src, pa, some (word 2))] }) ∧
    (∀ (t : Nat) (n : Nat), c.typ = 4 → n < 16 → getF (word 1) 0 3 = 0 → getF (word 1) 14 4 = n → bit (word 1) 18 = false →
      physOf s (getF (word 1) 3 11 % 128) = some t → tineUp s t = true →
      Runs .chainEvent s fun s' => sievePend s' t (16 + n) = true ∧ s'.cellsIn = rest ∧ s'.mem = s.mem) ∧
    (∀ a, c.typ = 5 → getF (word 1) 0 5 = a → a ≤ 15 → Runs .enum s fun s' => chainAddr s' = a ∧ s'.cellsIn = rest ∧
      (portUp s 1 = true → (portAt s' 1).bulk = (portAt s 1).bulk ++
        [{ typ := 5, dst := 0, src := a, cls := 0, body := [wd (a + 1)] }]) ∧
      (portUp s 1 = false → portUp s 0 = true → (portAt s' 0).bulk = (portAt s 0).bulk ++
        [{ typ := 6, dst := 0, src := a, cls := 0, body := [wd (a + 1)] }]) ∧
      chainOver s' = false ∧ ChainRegsOnly [0x011] s s' ∧ s'.mem = s.mem) ∧
    (c.typ = 5 → 15 < getF (word 1) 0 5 → Runs .enum s fun s' => chainOver s' = true ∧ regB s' pgChain 0x011 8 = true ∧
      chainAddr s' = chainAddr s ∧ s'.cellsIn = rest ∧ ChainRegsOnly [0x011] s s' ∧
      (portUp s 0 = true → (portAt s' 0).bulk = (portAt s 0).bulk ++ [mkCell s 6 0 0 [wd 16]])) ∧
    (∀ n, getF (word 1) 0 5 = n → 0 < n → n ≤ 16 → chainReady s = false →
      (c.typ = 6 → chainHead s = true → Runs .enumEnd s fun s' => chainReady s' = true ∧ s'.devM1 = n - 1 ∧
        regF s' pgChain 0x012 0 16 = 2 ^ n - 1 ∧ ChainRegsOnly [0x011, 0x012] s s' ∧ s'.mem = s.mem) ∧
      (c.typ = 7 → chainHead s = false → chainOver s = false → Runs .enumDone s fun s' => chainReady s' = true ∧ s'.devM1 = n - 1 ∧
        regF s' pgChain 0x012 0 16 = 2 ^ n - 1 ∧ ChainRegsOnly [0x011, 0x012] s s' ∧ s'.mem = s.mem)) ∧
    (c.typ = 7 → chainHead s = false → chainOver s = true → Runs .enumDone s fun s' => s' = { s with cellsIn := rest }) ∧
    (c.typ = 8 → chainHead s = false → chainOver s = false → Runs .routeCell s fun s' => reg s' pgDev 0x044 = word 1 &&& wd 0xFFFFF7 ∧
      s' = { s with cellsIn := rest, regs := s'.regs } ∧
      (∀ p o, o < 1024 → (p ≠ pgDev ∨ o ≠ 0x044) → reg s' p o = reg s p o)) ∧
    (∀ n, c.typ = 9 → getF (word 1) 0 5 = n → n < 16 → chainHead s = false → chainOver s = false → Runs .linkLost s fun s' =>
      (∀ k, k < 16 → regB s' pgChain 0x012 (16 + k) =
        (regB s pgChain 0x012 (16 + k) || (decide (n ≤ k) && regB s pgChain 0x012 k))) ∧
      ChainRegsOnly [0x012] s s' ∧ s'.mem = s.mem) ∧
    (∀ (walled : Bool) (pa : Nat) (b : Bool), c.typ = 10 → chainOver s = false → getF (word 1) 0 28 = pa → bit (word 2) (chainAddr s) = true →
      regionOf pa = .shed b → outGate s (.chainWin walled) true pa = .ok → bootDiscards s (cellSrc s c) pa = false →
      Runs (.bcast walled .ok) s fun s' => memGet s' pa = word 3 ∧ (∀ a, a ≠ pa → memGet s' a = memGet s a) ∧
        s' = { s with cellsIn := rest, mem := s'.mem, ue := s'.ue }) ∧
    (∀ (w : Who) (v : Word),
      (regGate s w pgDev 0x044 = .ok → chainHead s = true → chainReady s = true → portUp s 1 = true → getF v 0 3 < 4 →
        Runs (.chainRouteWrite w v) s fun s' => reg s' pgDev 0x044 = v &&& wd 0xFFFFF7 ∧
          (portAt s' 1).bulk = (portAt s 1).bulk ++ [mkCell s 8 0 0 [v &&& wd 0xFFFFF7]] ∧ s'.mem = s.mem) ∧
      (regGate s w pgChain 0x016 = .ok → Runs (.chainBcastDataWrite w v) s fun s' =>
        let b := mkCell s 10 0 0 [wd (regF s pgChain 0x014 0 28), wd (regF s pgChain 0x015 0 16), v]
        s'.cellsIn = s.cellsIn ++ [b] ∧ (∀ p, p < 2 → portUp s p = true → (portAt s' p).bulk = (portAt s p).bulk ++ [b]) ∧
        s' = { s with cellsIn := s'.cellsIn, ports := s'.ports }))

/-- HOP_PUSH, HOP_CFG_WRITE, HOP_OWN_WRITE, HOP_TAIL_NOTICE (R252–R263). -/
def Obligations.Hoppers : Prop :=
  (∀ (s : State) (w : Who) (h : Fin 256), (h.val < 254 ∨ w = .nursery) →
    let pg := pgHop h
    let b := hopBase h
    let only := fun (k : Nat) (s' : State) => s' = { s with regs := s'.regs } ∧
      (∀ p o, o < 1024 → (p ≠ pg ∨ o ≠ b + k) → reg s' p o = reg s p o)
    (∀ item, regGate s w pg (b + 5) = .ok →
      (hopSlots s h ≠ 0 → getF item 32 4 ≠ 15 → hopFull s h = false → Runs (.hopPush w h item) s fun s' =>
        (hopAt s' h).items = (hopAt s h).items ++ [item] ∧ (hopAt s' h).retained = (hopAt s h).retained ∧
        (hopAt s' h).back = (hopAt s h).back ∧ (∀ g, g ≠ h.val → hopAt s' g = hopAt s g) ∧ s'.mem = s.mem) ∧
      ((hopSlots s h = 0 ∨ getF item 32 4 = 15 ∨ hopFull s h = true) → Runs (.hopPush w h item) s fun s' => only 4 s' ∧
        regF s' pg (b + 4) 0 16 = min 65535 (regF s pg (b + 4) 0 16 + 1) ∧
        regF s' pg (b + 4) 16 24 = regF s pg (b + 4) 16 24)) ∧
    (∀ v : Word, regGate s w pg b = .ok →
      let n := getF v 0 11
      let ok := (n = 0 ∨ (16 ≤ n ∧ n ≤ 1024)) ∧ n ≤ hopFree s + hopSlots s h ∧ hopDepth s h = 0 ∧ hopRetained s h = 0 ∧
        ((getF v 11 3 = 0 ∧ getF v 14 7 < 128) ∨ (getF v 11 3 = 1 ∧ getF v 14 7 < 16) ∨
          (getF v 11 3 = 2 ∧ getF v 14 7 < 4) ∨ (getF v 11 3 = 3 ∧ getF v 14 7 = 0))
      (ok → Runs (.hopCfgWrite w h v) s fun s' => only 0 s' ∧ reg s' pg b = v &&& wd 0x7FFFFF) ∧
      (¬ok → Runs (.hopCfgWrite w h v) s fun s' => only 3 s' ∧ regB s' pg (b + 3) 24 = true ∧
        regF s' pg (b + 3) 0 24 = regF s pg (b + 3) 0 24)) ∧
    (∀ v : Word, regGate s w pg (b + 2) = .ok → Runs (.hopOwnWrite w h v) s fun s' => only 2 s' ∧
      ∀ i, i < 40 → bit (reg s' pg (b + 2)) i =
        (if (if i = 0 then ownerWriter s w = true ∧ hopDepth s h = 0 ∧ hopRetained s h = 0 else walledWriter s w = true ∧ i < 10) then bit v i
         else bit (reg s pg (b + 2)) i))) ∧
  (∀ (s : State) (h : Fin 256) (e : Nat), domUp s domTrel = true → (hopAt s h).tailEnd = some e → e ≤ s.now →
    Runs (.hopTailNotice h) s fun s' =>
      regB s' (pgHop h) (hopBase h + 3) 23 = true ∧
      regF s' (pgHop h) (hopBase h + 4) 16 16 = min 65535 (regF s (pgHop h) (hopBase h + 4) 16 16 + 1) ∧
      (let len := regF s (pgHop h) (hopBase h + 1) 20 20
       hopAt s' h = { hopAt s h with tailEnd := if hopDepth s h = 0 ∨ len = 0 then none else some (e + len) }) ∧
      (∀ g, g ≠ h.val → hopAt s' g = hopAt s g) ∧ s'.mem = s.mem)

/-- Only channel `c` and the registers `ks` of its block differ. -/
def ChOnly (c : Nat) (ks : List Nat) (s s' : State) : Prop :=
  s' = { s with chans := s'.chans, regs := s'.regs } ∧ (∀ d, d ≠ c → chanAt s' d = chanAt s d) ∧
    (∀ p o, o < 1024 → (p ≠ pgTrch c ∨ ∀ k ∈ ks, o ≠ chBase c + k) → reg s' p o = reg s p o)

/-- A word of Shed in Run, outside the reserved region, that the channel reaches untranslated in the Walled world. -/
def ChPlain (s : State) (c va : Nat) : Prop :=
  bit (reg s pgXlat 0x010) 0 = false ∧ chWalled s c = true ∧ reservedPa va = false ∧
    ∃ b, regionOf va = .shed b ∧ domSt s (if b then domShdb else domShda) = .run

/-- A plain word that holds `w`, clean, with no write of the channel's own on its way to it. -/
def ChReads (s : State) (c va : Nat) (w : Word) : Prop :=
  ChPlain s c va ∧ ueAt s va = false ∧ ownWrite? s c va = false ∧ memGet s va = w

/-- The channel is about to perform the fetched command `cmd`, with no suspend pending and no status half asked for. -/
structure Begun (s : State) (c cmd : Nat) : Prop where
  runs : chRuns s c = true
  got : ∃ w0 w1 : Word, (chanAt s c).phase = .got w0 w1 ∧ (chanAt s c).w0 = w0 ∧ cmd = w0.toNat + 2 ^ 40 * w1.toNat
  quiet : bit (chR s c 1) 10 = false
  plain : cf cmd 6 1 = 0

/-- The channel has finished its command: linear at `next`, or in ring mode past the entry and `skip` more that the ring
holds, where it waits if the ring is then empty (R206, R207, R218). -/
structure Finished (c next skip : Nat) (s s' : State) : Prop where
  phase : (chanAt s' c).phase = .next
  good : bit (chR s' c 1) 12 = false
  linear : chRing s c = false → chCpc s' c = next % 2 ^ 32 ∧ chState s' c = 1
  ring : chRing s c = true →
    let n := max 1 (ringSize s c)
    let i := (ringCi s c + 1) % n
    let ci := (i + min ((ringPi s c + n - i) % n) skip) % n
    ringCi s' c = ci ∧ chCpc s' c = ringSlot s c ci ∧ chState s' c = (if ci = ringPi s c then 2 else 1)

/-- A program error has suspended the channel at its command (R211). -/
structure ProgErr (c code : Nat) (s s' : State) : Prop where
  state : chState s' c = 3 ∧ chF s' c 1 3 3 = 5 ∧ chF s' c 1 17 5 = code
  place : chCpc s' c = chCpc s c ∧ (chanAt s' c).phase = .next
  report : regB s' pgTrel 4 0 = true
  memory : s'.mem = s.mem

/-- A phase that a RESUME or a cancelled STOP finds as it left it: no MOVE that could end, no status half due, and outside ring
mode or inside a command. -/
def ChSettled (s : State) (c : Nat) : Prop :=
  (∀ m, (chanAt s c).phase = .move m → m.bad = false ∧ moveOver m = false) ∧ (∀ a b, (chanAt s c).phase ≠ .status a b) ∧
    (chRing s c = false ∨ (chanAt s c).phase ≠ .next)

/-- CMD_FETCH and the replay of a fetch (R205, R208, R209, R211, R244); forms are checked at the fetch by assumption 34. -/
def Obligations.ChannelFetches : Prop :=
  ∀ (s : State) (c : Fin 128) (w0 w1 : Word),
    let a := chCpc s c
    let cmd := w0.toNat + 2 ^ 40 * w1.toNat
    let next := walkNext (cmd12 s c) a
    let e := formErr (chRing s c) cmd
    let strict := bit (chR s c 2) 3
    let placed := slotOk (cmd12 s c) a = true ∧ (chRing s c = true → slotOk (cmd12 s c) (chanAt s c).base = true)
    (chanAt s c).phase = .next → bit (chR s c 1) 10 = false →
    (fetchReady s c = true → chRuns s c = true → placed → ChReads s c a w0 → ChReads s c (a + 1) w1 →
      (getF w1 20 2 = 2 → strict = false → Runs (.cmdFetch c .ok .ok) s fun s' =>
        Finished c next (chanAt s c).skip s s' ∧ ChOnly c [1, 5, 8] s s') ∧
      ((getF w1 20 2 ≠ 2 ∨ strict = true) →
        (e ≠ 0 → Runs (.cmdFetch c .ok .ok) s (ProgErr c e s)) ∧
        (e = 0 → Runs (.cmdFetch c .ok .ok) s fun s' => (chanAt s' c).phase = .got w0 w1 ∧ (chanAt s' c).w0 = w0 ∧
          (chanAt s' c).nextPc = next ∧ ChOnly c [] s s'))) ∧
    (fetchReady s c = true → chRuns s c = true → ¬placed → Runs (.cmdFetch c .ok .ok) s (ProgErr c 6 s)) ∧
    (chState s c = 1 → domUp s domTrel = true → (chanAt s c).retry = true →
      let counted := fun s' : State => regF s' pgTrel 0x032 0 16 = min 65535 (regF s pgTrel 0x032 0 16 + 1)
      (¬placed → Runs (.accessReplay c .current [.ok, .ok]) s fun s' => ProgErr c 6 s s' ∧ counted s') ∧
      (placed → ChReads s c a w0 → ChReads s c (a + 1) w1 →
        (getF w1 20 2 = 2 → strict = false → Runs (.accessReplay c .current [.ok, .ok]) s fun s' =>
          Finished c next (chanAt s c).skip s s' ∧ counted s' ∧ (chanAt s' c).replays = 0 ∧ s'.mem = s.mem) ∧
        ((getF w1 20 2 ≠ 2 ∨ strict = true) → e ≠ 0 → Runs (.accessReplay c .current [.ok, .ok]) s fun s' =>
          ProgErr c e s s' ∧ counted s') ∧
        ((getF w1 20 2 ≠ 2 ∨ strict = true) → e = 0 → Runs (.accessReplay c .current [.ok, .ok]) s fun s' =>
          (chanAt s' c).phase = .got w0 w1 ∧ (chanAt s' c).retry = false ∧
          (chanAt s' c).replays = min 255 ((chanAt s c).replays + 1) ∧ counted s' ∧ s'.mem = s.mem)))

/-- CMD_NOP, CMD_LOOP, CMD_ENDLOOP, CMD_CHAIN, CMD_SKIP (R208, R213, R218, R222). -/
def Obligations.ChannelControlCommands : Prop :=
  ∀ (s : State) (c : Fin 128) (cmd : Nat), Begun s c cmd →
    let next := (chanAt s c).nextPc
    let fin := Finished c next (chanAt s c).skip s
    let d := chLd s c
    (cf cmd 0 5 = 0 → Runs (.cmdNop c) s fun s' => fin s' ∧ ChOnly c [1, 5, 8] s s' ∧ chLd s' c = d) ∧
    (cf cmd 0 5 = 2 → d < 4 → Runs (.cmdLoop c) s fun s' => fin s' ∧ chLd s' c = d + 1 ∧
      chF s' c (0x10 + 2 * d) 0 32 = next % 2 ^ 32 ∧ chF s' c (0x11 + 2 * d) 0 24 = cf cmd 8 24 ∧
      bit (chR s' c (0x11 + 2 * d)) 24 = decide (cf cmd 8 24 = 0) ∧ ChOnly c [1, 5, 8, 0x10 + 2 * d, 0x11 + 2 * d] s s') ∧
    (cf cmd 0 5 = 2 → 4 ≤ d → Runs (.cmdLoop c) s (ProgErr c 3 s)) ∧
    (cf cmd 0 5 = 3 → d = 0 → Runs (.cmdEndloop c) s (ProgErr c 4 s)) ∧
    (cf cmd 0 5 = 3 → 0 < d → d ≤ 4 → chRing s c = false →
      let k := 0x11 + 2 * (d - 1)
      let body := chF s c (k - 1) 0 32
      (bit (chR s c k) 24 = true → Runs (.cmdEndloop c) s fun s' => chCpc s' c = body ∧ chLd s' c = d ∧
        (chanAt s' c).phase = .next ∧ ChOnly c [1, 5] s s') ∧
      (bit (chR s c k) 24 = false → 1 < chF s c k 0 24 → Runs (.cmdEndloop c) s fun s' => chCpc s' c = body ∧ chLd s' c = d ∧
        chF s' c k 0 24 = chF s c k 0 24 - 1 ∧ (chanAt s' c).phase = .next ∧ ChOnly c [1, 5, k] s s') ∧
      (bit (chR s c k) 24 = false → chF s c k 0 24 = 1 → Runs (.cmdEndloop c) s fun s' => chCpc s' c = next % 2 ^ 32 ∧
        chLd s' c = d - 1 ∧ (chanAt s' c).phase = .next ∧ ChOnly c [1, 5, k] s s')) ∧
    (cf cmd 0 5 = 0xA → chRing s c = false →
      (slotOk (cmd12 s c) (cf cmd 12 32) = true → Runs (.cmdChain c) s fun s' => chCpc s' c = cf cmd 12 32 ∧ chLd s' c = 0 ∧
        (chanAt s' c).phase = .next ∧ chState s' c = 1 ∧ ChOnly c [1, 5] s s') ∧
      (slotOk (cmd12 s c) (cf cmd 12 32) = false → Runs (.cmdChain c) s (ProgErr c 6 s))) ∧
    (cf cmd 0 5 = 6 → skipErr (cf cmd 8 4) (cf cmd 18 32) = 0 →
      let cond := cf cmd 8 4
      let n := cf cmd 12 6
      let arg := cf cmd 18 32
      let ends := fun holds : Bool => Runs (.cmdSkip c .ok) s fun s' =>
        Finished c (if holds && decide (n ≠ 0) then walkAt (cmd12 s c) (chCpc s c) (n + 1) else next)
          (if holds && decide (n ≠ 0) then n else (chanAt s c).skip) s s' ∧ ChOnly c [1, 5, 8] s s'
      (cond = 0 → ends true) ∧
      (cond = 1 → ends (bit (chR s c 1) 11)) ∧
      (cond = 2 → ends (!bit (chR s c 1) 11)) ∧
      (cond = 3 → hopBad s c arg = 0 → ends (decide (hopDepth s arg = 0))) ∧
      (cond = 4 → hopBad s c arg = 0 → ends (decide (hopDepth s arg ≠ 0))) ∧
      (cond = 5 → ends (decide (arg ≤ sigCnt s c))) ∧
      (cond = 6 → ends (bit (chR s c 1) 12)) ∧
      (∀ w, ChReads s c arg w →
        let eq := decide ((w &&& chR s c 0xE) = (chR s c 0xD &&& chR s c 0xE))
        (cond = 7 → ends eq) ∧ (cond = 8 → ends (!eq))))

/-- CMD_SIGNAL_*, SIGNAL_PUSH_ACCEPT, CMD_SUSPEND, CMD_RESUME, CMD_PORTOP (R217, R219, R223); SCAUSE after a RESUME is
assumption 33's. -/
def Obligations.ChannelSignals : Prop :=
  (∀ (s : State) (c : Fin 128) (h : Nat) (item : Word), hopSlots s h ≠ 0 → getF item 32 4 ≠ 15 → h < 256 →
    let pushed := fun s' : State => Finished c (chanAt s c).nextPc (chanAt s c).skip s s' ∧ s'.mem = s.mem ∧
      (hopAt s' h).items = (hopAt s h).items ++ [item] ∧ (∀ g, g ≠ h → hopAt s' g = hopAt s g)
    (∀ cmd, Begun s c cmd → cf cmd 0 5 = 5 → cf cmd 8 3 = 0 → cf cmd 11 8 = h → wd (cf cmd 19 40) = item → hopBad s c h = 0 →
      (hopFull s h = false → Runs (.cmdSignalHopper c) s pushed) ∧
      (hopFull s h = true → Runs (.cmdSignalHopper c) s fun s' => (chanAt s' c).phase = .push h item ∧ ChOnly c [] s s')) ∧
    ((chanAt s c).phase = .push h item → chRuns s c = true → bit (chR s c 1) 10 = false → bit (chanAt s c).w0 6 = false →
      hopFull s h = false → Runs (.signalPushAccept c) s pushed)) ∧
  (∀ (s : State) (c : Fin 128) (cmd : Nat), Begun s c cmd →
    let fin := Finished c (chanAt s c).nextPc (chanAt s c).skip s
    (∀ u t, cf cmd 0 5 = 5 → cf cmd 8 3 = 1 → cf cmd 11 3 = 0 → cf cmd 14 11 = 128 * chainAddr s + u → u < 128 →
      physOf s u = some t → tineUp s t = true → domUp s (u / 8) = true → Runs (.cmdSignalSieve c) s fun s' =>
        fin s' ∧ sievePend s' t (16 + cf cmd 25 4) = true ∧ s'.mem = s.mem ∧ s'.hops = s.hops) ∧
    (∀ t, cf cmd 0 5 = 5 → cf cmd 8 3 = 2 → cf cmd 11 7 = t → cf cmd 18 8 ≠ 0 → chanBad s c t = 0 →
      Runs (.cmdSignalChannel c) s fun s' => fin s' ∧ sigCnt s' t = min 255 (sigCnt s t + cf cmd 18 8) ∧
        (bit (chR s' t 1) 16 = true ↔ bit (chR s t 1) 16 = true ∨ 255 < sigCnt s t + cf cmd 18 8) ∧
        (∀ d, d ≠ c.val → d < 128 → chanAt s' d = chanAt s d) ∧ s'.mem = s.mem ∧ s'.hops = s.hops) ∧
    (cf cmd 0 5 = 7 → cf cmd 8 1 = 1 → cf cmd 9 7 = 0 → Runs (.cmdSuspend c) s fun s' =>
      chState s' c = 3 ∧ chF s' c 1 3 3 = 1 ∧ (chanAt s' c).phase = .next ∧
      (chRing s c = false → chCpc s' c = (chanAt s c).nextPc % 2 ^ 32) ∧ s'.mem = s.mem ∧ s'.hops = s.hops) ∧
    (∀ t, cf cmd 9 7 = t → t ≠ c.val → chanBad s c t = 0 →
      (cf cmd 0 5 = 7 → cf cmd 8 1 = 0 → chState s t = 2 → Runs (.cmdSuspend c) s fun s' => fin s' ∧
        chState s' t = 3 ∧ chF s' t 1 3 3 = 2 ∧ (chanAt s' t).prev = 2 ∧ s'.mem = s.mem ∧ s'.hops = s.hops) ∧
      (cf cmd 0 5 = 8 → chState s t = 3 → chF s t 1 3 3 ≠ 5 → ChSettled s t → ((chanAt s t).prev = 1 ∨ (chanAt s t).prev = 2) →
        (∀ y ∈ (chanAt s t).outst, y.held = 2 → ChPlain s t y.va) → Runs (.cmdResume c) s fun s' => fin s' ∧
        chState s' t = (chanAt s t).prev ∧ chF s' t 1 3 3 = 0 ∧ s'.mem = s.mem ∧ s'.hops = s.hops)) ∧
    (∀ r u, cf cmd 0 5 = 0xB → cf cmd 8 2 = r → cf cmd 10 8 = u → u < 128 → domSt s (domRow r) = .run → unitBad s c r u = 0 →
      cf cmd 18 4 = 3 → cf cmd 22 33 < 4 → cFunc s r u = 1 → Runs (.cmdPortop c) s fun s' => fin s' ∧
        regB s' (pgRowc r) (0x028 + u / 32) (u % 32) = decide (cf cmd 22 33 % 2 = 1) ∧
        regB s' (pgRowc r) (0x02C + u / 32) (u % 32) = decide (cf cmd 22 33 / 2 = 1) ∧ s'.mem = s.mem ∧ s'.fifo = s.fifo))

/-- CMD_WAIT, WAIT_COMPLETE, WAIT_TIMEOUT (R214, R215). -/
def Obligations.ChannelWaits : Prop :=
  ∀ (s : State) (c : Fin 128) (kind arg : Nat),
    let goesOn := fun s' : State => Finished c (chanAt s c).nextPc (chanAt s c).skip s s' ∧ bit (chR s' c 1) 11 = false ∧
      sigCnt s' c = (if kind = 6 then sigCnt s c - arg else sigCnt s c) ∧ ChOnly c [1, 5, 8] s s'
    (∀ cmd, Begun s c cmd → cf cmd 0 5 = 4 → cf cmd 8 4 = kind → waitErr s kind (cf cmd 12 32) = 0 →
      waitBad s c kind (cf cmd 12 32) = 0 → waitArg s kind (cf cmd 12 32) = arg →
      (waitHolds s c kind arg false = true → Runs (.cmdWait c) s goesOn) ∧
      (waitHolds s c kind arg false = false → Runs (.cmdWait c) s fun s' =>
        (chanAt s' c).phase = .wait kind arg s.now (cf cmd 44 16) false ∧ chState s' c = 2 ∧ chF s' c 1 30 4 = kind ∧
        ChOnly c [1] s s')) ∧
    (∀ start timeout seen, (chanAt s c).phase = .wait kind arg start timeout seen → kind < 7 → chState s c = 2 →
      domUp s domTrel = true →
      bit (chR s c 1) 10 = false →
      (bit (chanAt s c).w0 6 = false → (timeout = 0 ∨ s.now < start + timeout) → waitHolds s c kind arg seen = true →
        Runs (.waitComplete c) s goesOn) ∧
      (timeout ≠ 0 → start + timeout ≤ s.now → ChPlain s c ((chCpc s c + 1) % 2 ^ 32) → Runs (.waitTimeout c) s fun s' =>
        (chanAt s' c).phase = .stated ∧ chState s' c = 1 ∧ bit (chR s' c 1) 11 = true ∧
        (∃ x, (chanAt s' c).outst = (chanAt s c).outst ++ [x] ∧ x.kind = 2 ∧ x.pa = (chCpc s c + 1) % 2 ^ 32 ∧
          ∃ d : BitVec 20, x.data = .half true d ∧ d.toNat % 4 = 3) ∧ ChOnly c [1] s s'))

/-- CMD_POST, POST_RESUME, TRELLIS_WRITE_ACK (R209, R210, R220, R221); a MOVE that is over is as assumptions 40 and 113 read it. -/
def Obligations.ChannelPostsAndWrites : Prop :=
  (∀ (s : State) (c : Fin 128) (tag sel imm : Nat), sel < 5 →
    let va := walkAt (bit (chR s c 2) 2) (chF s c 9 0 32) (chF s c 0xB 0 16)
    let value := match sel with
      | 0 => imm
      | 1 => regF s pgDev 0x049 0 25
      | 2 => ringCi s c
      | 3 => if chLd s c = 0 then 0 else chF s c (0x11 + 2 * (chLd s c - 1)) 0 24
      | _ => sigCnt s c
    let issued := fun s' : State => (chanAt s' c).phase = .posted ∧ ChOnly c [] s s' ∧
      ∃ x y, (chanAt s' c).outst = (chanAt s c).outst ++ [x, y] ∧ x.kind = 1 ∧ y.kind = 1 ∧ x.pa = va ∧
        y.pa = (va + 1) % 2 ^ 32 ∧
        x.data = .word (wd (value % 2 ^ 25 + 2 ^ 27 * b2n (bit (chR s c 1) 11) + 2 ^ 28 * b2n (bit (chR s c 1) 13) +
          2 ^ 29 * tag + 2 ^ 33 * c)) ∧
        y.data = .word (wd (s.now % 2 ^ 32 + 2 ^ 32 * (chanAt s c).posts))
    let full := (chF s c 0xB 0 16 + 1) % max 1 (chF s c 0xA 0 16) = chF s c 0xC 0 16
    ChPlain s c va → ChPlain s c ((va + 1) % 2 ^ 32) →
    (∀ cmd, Begun s c cmd → cf cmd 0 5 = 9 → cf cmd 8 4 = tag → cf cmd 12 3 = sel → cf cmd 15 25 = imm →
      2 ≤ chF s c 0xA 0 16 → chF s c 9 0 32 % 2 = 0 →
      (¬full → Runs (.cmdPost c) s issued) ∧
      (full → Runs (.cmdPost c) s fun s' => (chanAt s' c).phase = .post tag sel imm ∧ regB s' pgTrel 4 2 = true ∧
        chF s' c 0xF 16 16 = min 65535 (chF s c 0xF 16 16 + 1) ∧ s'.mem = s.mem)) ∧
    ((chanAt s c).phase = .post tag sel imm → chRuns s c = true → ¬full → Runs (.postResume c) s issued)) ∧
  (∀ (s : State) (c : Fin 128) (k : Nat) (x : ChWrite) (b : Bool), domUp s domTrel = true → (chanAt s c).outst[k]? = some x →
    x.held = 0 → inOrder (chanAt s c).outst k x = true → regionOf x.pa = .shed b →
    domSt s (if b then domShdb else domShda) = .run →
    let left := (chanAt s c).outst.eraseIdx k
    let more := fun n : Nat => ∃ y ∈ left, y.kind = n ∧ (n = 4 → y.mv = x.mv)
    let record := if x.resumed = true ∧ (chanAt s c).journal.mv = x.mv then { (chanAt s c).journal with flt := false }
      else (chanAt s c).journal
    let stored := fun (v : Word) (s' : State) => memGet s' x.pa = v ∧ (∀ a, a ≠ x.pa → memGet s' a = memGet s a)
    (∀ v, x.data = .word v →
      (x.kind = 3 ∨ (x.kind = 0 ∧ ∀ m, (chanAt s c).phase = .move m → m.bad = false ∧ moveOver m = false) ∨
        (x.kind = 4 ∧ more 4)) →
      Runs (.trellisWriteAck c k .ok) s fun s' => stored v s' ∧
        chanAt s' c = { chanAt s c with outst := left, journal := record } ∧
        (∀ d, d ≠ c.val → chanAt s' d = chanAt s d) ∧ s' = { s with mem := s'.mem, ue := s'.ue, chans := s'.chans }) ∧
    (∀ v, x.data = .word v → x.kind = 4 → ¬more 4 → (∀ e ∈ (chanAt s c).ended, e.mv = x.mv → e.bad = false) →
      Runs (.trellisWriteAck c k .ok) s fun s' => stored v s' ∧ chanAt s' c = { chanAt s c with
        outst := left, journal := record, ended := (chanAt s c).ended.filter fun e => decide (e.mv ≠ x.mv) }) ∧
    (∀ v m, x.data = .word v → x.kind = 0 → ¬more 0 → (chanAt s c).phase = .move m → m.bad = false → moveOver m = true →
      chState s c = 1 → bit (chanAt s c).w0 6 = false → bit (chR s c 1) 10 = false →
      Runs (.trellisWriteAck c k .ok) s fun s' => stored v s' ∧ Finished c (chanAt s c).nextPc (chanAt s c).skip s s') ∧
    (chRuns s c = true → bit (chR s c 1) 10 = false → bit (chanAt s c).w0 6 = false →
      (∀ v, x.data = .word v → x.kind = 1 → (chanAt s c).phase = .posted → (∀ y ∈ left, y.kind ≠ 1) →
        Runs (.trellisWriteAck c k .ok) s fun s' => stored v s' ∧
          chF s' c 0xB 0 16 = (chF s c 0xB 0 16 + 1) % max 1 (chF s c 0xA 0 16) ∧
          (chanAt s' c).posts = ((chanAt s c).posts + 1) % 256 ∧ (chanAt s' c).outst = left ∧
          Finished c (chanAt s c).nextPc (chanAt s c).skip s s')) ∧
    (∀ d, chState s c = 1 → bit (chR s c 1) 10 = false → bit (chR s c 1) 12 = false → x.data = .half true d → x.kind = 2 →
      (chanAt s c).phase = .stated →
      ueAt s x.pa = false →
      Runs (.trellisWriteAck c k .ok) s fun s' => getF (memGet s' x.pa) 20 20 = d.toNat ∧
        getF (memGet s' x.pa) 0 20 = getF (memGet s x.pa) 0 20 ∧ (∀ a, a ≠ x.pa → memGet s' a = memGet s a) ∧
        (chanAt s' c).outst = left ∧ Finished c (chanAt s c).nextPc (chanAt s c).skip s s'))

/-- CMD_MOVE, MOVE_ELEMENT (R233–R237, R240, R245). -/
def Obligations.ChannelMoves : Prop :=
  (∀ (s : State) (c : Fin 128) (cmd : Nat) (ws : List Word), Begun s c cmd → cf cmd 0 5 = 1 →
    let base := cf cmd 12 32
    (base % 8 ≠ 0 → Runs (.cmdMove c []) s (ProgErr c 6 s)) ∧
    (base % 8 = 0 → ws.length = 8 → (∀ (i : Nat) (w : Word), ws[i]? = some w → ChReads s c (base + i) w) →
      let m := Move.start ws 0
      (descErr m ≠ 0 → Runs (.cmdMove c []) s (ProgErr c (descErr m) s)) ∧
      (descErr m = 0 → Runs (.cmdMove c []) s fun s' => (chanAt s' c).phase = .move m ∧
        (chanAt s' c).journal.cmd = chCpc s c ∧ (chanAt s' c).journal.valid = true ∧ (chanAt s' c).journal.k = 0 ∧
        ChOnly c [] s s'))) ∧
  (∀ (s : State) (c : Fin 128) (m : Move) (v : Word), (chanAt s c).phase = .move m → chRuns s c = true →
    bit (chR s c 1) 10 = false → bit (chanAt s c).w0 6 = false → m.bad = false → m.words = [] → m.sbits = 0 → m.sval = 0 →
    m.made < dstCount m → isTrans m = false → sidePack m 0 = false → sidePack m 3 = false → sideSpace m 3 = 0 →
    0 < sideLlen m 0 → (∀ x ∈ (chanAt s c).outst, x.held ≠ 2) → partOut s c = false →
    let dst := sideAddr m 3 m.dstLine m.dstEl
    let elem := if bit ((m.desc[6]?).getD 0) 0 then BitVec.ofInt 40 (sx (sideW m 3) (convElem m (getF v 0 (sideW m 0))))
      else wd (convElem m (getF v 0 (sideW m 0)))
    let wrap := m.dstEl + 1 < sideLlen m 3
    let after := fun s' : State =>
      (∃ x, (chanAt s' c).outst.map (fun y => (y.pa, y.data)) = (chanAt s c).outst.map (fun y => (y.pa, y.data)) ++ [x] ∧
        x = (dst, .word elem)) ∧ (chanAt s' c).journal.k = m.made + 1 ∧
      (m.made + 1 < dstCount m → ∃ m', (chanAt s' c).phase = .move m' ∧ m'.made = m.made + 1 ∧ m'.words = [] ∧ m'.sbits = 0 ∧
        m'.desc = m.desc ∧ m'.dstEl = (if wrap then m.dstEl + 1 else 0) ∧
        m'.dstLine = (if wrap then m.dstLine else if m.dstLine + 1 < sideLines m 3 then m.dstLine + 1 else 0)) ∧
      (m.made + 1 = dstCount m → bit (chanAt s c).w0 5 = false → Finished c (chanAt s c).nextPc (chanAt s c).skip s s') ∧
      (m.made + 1 = dstCount m → bit (chanAt s c).w0 5 = true → ∃ m', (chanAt s' c).phase = .move m' ∧ moveOver m' = true)
    ChPlain s c dst → runOn s c dst = false →
    (sideSpace m 0 = 0 → ChReads s c (sideAddr m 0 (m.made / sideLlen m 0) (m.made % sideLlen m 0)) v →
      Runs (.moveElement c .ok .ok) s fun s' => after s' ∧ ChOnly c [1, 5, 8] s s') ∧
    (∀ rest, sideSpace m 0 = 2 → sideBad s c m 0 = 0 → sideHeld s m 0 = false →
      fifoAt s (sideFifo s ((m.desc[0]?).getD 0) true).1 = v :: rest →
      Runs (.moveElement c .ok .ok) s fun s' => after s' ∧ fifoAt s' (sideFifo s ((m.desc[0]?).getD 0) true).1 = rest ∧
        s' = { s with chans := s'.chans, regs := s'.regs, fifo := s'.fifo, gauges := s'.gauges }))

/-- TRCH_START to TREL_JOURNAL_READ (R207, R212, R217, R225–R231, R246, R249); SCAUSE after START and RESUME is assumption 33's. -/
def Obligations.ChannelRequests : Prop :=
  (∀ (s : State) (w : Who) (c : Fin 128), (c.val < 127 ∨ w = .nursery) →
    let st := chState s c
    let x := chanAt s c
    (regGate s w (pgTrch c) (chBase c) = .ok →
      (st = 0 → chRing s c = false →
        (slotOk (cmd12 s c) (chF s c 4 0 32) = true → Runs (.trchStart w c) s fun s' => chState s' c = 1 ∧
          chCpc s' c = chF s c 4 0 32 ∧ chLd s' c = 0 ∧ chF s' c 1 3 3 = 0 ∧ (chanAt s' c).phase = .next ∧
          (chanAt s' c).outst = x.outst ∧ ChOnly c [1, 5] s s') ∧
        (slotOk (cmd12 s c) (chF s c 4 0 32) = false → Runs (.trchStart w c) s fun s' => bit (chR s' c 1) 14 = true ∧
          chState s' c = 0 ∧ ChOnly c [1] s s')) ∧
      (st = 4 → x.prev < 8 → x.errStop = false → ChSettled s c → Runs (.trchStart w c) s fun s' => chState s' c = x.prev ∧
        ChOnly c [1] s s') ∧
      (st = 4 → x.prev < 8 → x.errStop = true → Runs (.trchStart w c) s fun s' => chState s' c = 3 ∧ chF s' c 1 3 3 = 4 ∧
        (chanAt s' c).prev = x.prev ∧ s'.mem = s.mem) ∧
      (st = 5 → Runs (.trchStart w c) s fun s' => bit (chR s' c 1) 9 = true ∧ chState s' c = 5 ∧ ChOnly c [1] s s') ∧
      (st ∈ [1, 2, 3] → Runs (.trchStart w c) s fun s' => bit (chR s' c 1) 14 = true ∧ chState s' c = st ∧ ChOnly c [1] s s') ∧
      (st = 1 → (x.phase = .next ∨ ∃ a b, x.phase = .got a b) → Runs (.trchStop w c) s fun s' => chState s' c = 4 ∧
        bit (chR s' c 1) 10 = bit (chR s c 1) 10 ∧ (chanAt s' c).prev = 1 ∧ ChOnly c [1] s s') ∧
      (st = 2 ∨ st = 3 →
        let left := (x.outst.filter fun y => decide (y.held ≠ 2)).map (fun y => (y.pa, y.data))
        let at' := (chCpc s c + 1) % 2 ^ 32
        let stopped := fun s' : State => chState s' c = 5 ∧ bit (chR s' c 1) 10 = false ∧ s'.mem = s.mem ∧
          (moveBad x = true → bit (chR s' c 1) 13 = true ∧ chF s' c 0xF 0 16 = min 65535 (chF s c 0xF 0 16 + 1))
        (statusDue s c = none → Runs (.trchStop w c) s fun s' => stopped s' ∧
          (chanAt s' c).outst.map (fun y => (y.pa, y.data)) = left) ∧
        (∀ ts cause, statusDue s c = some (ts, cause) → ChPlain s c at' → Runs (.trchStop w c) s fun s' => stopped s' ∧
          (chanAt s' c).outst.map (fun y => (y.pa, y.data)) = left ++
            [(at', .half true (BitVec.ofNat 20 (ts + 4 * cause + 2 ^ 8 * x.replays)))])) ∧
      (st = 1 → (x.phase = .next ∨ ∃ m, x.phase = .move m) → x.retry = false → Runs (.trchSuspend w c) s fun s' => chState s' c = 3 ∧
        chF s' c 1 3 3 = 3 ∧ (chanAt s' c).prev = 1 ∧ s'.mem = s.mem) ∧
      (st = 1 → (∃ a b, x.phase = .got a b) → Runs (.trchSuspend w c) s fun s' => chState s' c = 1 ∧
        bit (chR s' c 1) 10 = true ∧ ChOnly c [1] s s') ∧
      (st = 2 → Runs (.trchSuspend w c) s fun s' => chState s' c = 3 ∧ chF s' c 1 3 3 = 3 ∧ (chanAt s' c).prev = 2 ∧
        s'.mem = s.mem) ∧
      (st = 1 → Runs (.trchResume w c) s fun s' => chState s' c = 1 ∧ bit (chR s' c 1) 10 = false ∧ ChOnly c [1] s s') ∧
      (st = 3 → chF s c 1 3 3 ≠ 5 → ChSettled s c → (x.prev = 1 ∨ x.prev = 2) →
        (∀ y ∈ x.outst, y.held = 2 → ChPlain s c y.va) → Runs (.trchResume w c) s fun s' => chState s' c = x.prev ∧ chF s' c 1 3 3 = 0 ∧ (chanAt s' c).phase = x.phase ∧
          (∀ y ∈ (chanAt s' c).outst, y.held ≠ 2) ∧ ChOnly c [1] s s') ∧
      (st = 3 → chF s c 1 3 3 = 5 → Runs (.trchResume w c) s fun s' => s' = s) ∧
      Runs (.clrsig w c) s fun s' => sigCnt s' c = 0 ∧ chState s' c = st ∧ ChOnly c [1] s s') ∧
    (∀ pi : BitVec 16, regGate s w (pgTrch c) (chBase c + 7) = .ok →
      (ringSize s c ≤ pi.toNat → Runs (.cringPiWrite w c pi) s fun s' => s' = s) ∧
      (pi.toNat < ringSize s c → Runs (.cringPiWrite w c pi) s fun s' => ringPi s' c = pi.toNat ∧
        (chRing s c = true → st = 2 → x.phase = .next → x.skip = 0 → ringCi s c < ringSize s c → pi.toNat ≠ ringCi s c →
          chState s' c = 1 ∧ chF s' c 1 30 4 = 0) ∧ ChOnly c [1, 5, 7, 8] s s')) ∧
    (∀ ci : BitVec 16, regGate s w (pgTrch c) (chBase c + 0xC) = .ok → Runs (.sringCiWrite w c ci) s fun s' =>
      chF s' c 0xC 0 16 = ci.toNat ∧ ChOnly c [0xC] s s') ∧
    (∀ v : Word, regGate s w (pgTrch c) (chBase c + 3) = .ok → Runs (.trchOwnWrite w c v) s fun s' => ChOnly c [3] s s' ∧
      ∀ i, i < 40 → bit (chR s' c 3) i =
        (if (if i = 0 then ownerWriter s w = true ∧ st = 0 ∧ c.val ≠ 127 else walledWriter s w = true ∧ i < 10) then bit v i else bit (chR s c 3) i))) ∧
  (∀ (s : State) (w : Who), w ≠ .nursery → regGate s w (pgTrch 127) (chBase 127) = .ok →
    Runs (.trchStart w 127) s fun s' => s' = s) ∧
  (∀ (s : State) (c : Fin 128), domUp s domTrel = true →
    (chState s c = 4 → Runs (.stopCommit c) s fun s' => chState s' c = 5 ∧ bit (chR s' c 1) 10 = false ∧
      chF s' c 1 30 4 = 0 ∧ s'.mem = s.mem ∧ (moveBad (chanAt s c) = false → statusDue s c = none → s'.hops = s.hops)) ∧
    (chState s c = 5 → (chanAt s c).outst = [] →
      (bit (chR s c 1) 9 = false → Runs (.drainComplete c) s fun s' => chState s' c = 0 ∧ ChOnly c [1] s s') ∧
      (bit (chR s c 1) 9 = true → chRing s c = false → slotOk (cmd12 s c) (chF s c 4 0 32) = true →
        Runs (.drainComplete c) s fun s' => chState s' c = 1 ∧ chCpc s' c = chF s c 4 0 32 ∧ bit (chR s' c 1) 9 = false ∧
          ChOnly c [1, 5] s s'))) ∧
  (∀ (s : State) (w : Who), regGate s w pgTrel 0x020 = .ok →
    let c := regF s pgTrel 0x018 0 7
    let j := (chanAt s c).journal
    Runs (.trelJournalRead w) s fun s' => s'.jsel = c ∧
      s'.readData = (if chWalled s c = false ∨ whoWalled s w = true then
        wd (j.cmd + 2 ^ 32 * b2n j.valid + 2 ^ 33 * b2n j.flt) else 0) ∧
      (∀ k, 1 ≤ k → k ≤ 9 → reg s' pgTrel (0x020 + k) = journalWord j k) ∧
      s' = { s with jsel := c, readData := s'.readData, regs := s'.regs } ∧
      (∀ p o, o < 1024 → (p ≠ pgTrel ∨ o < 0x021 ∨ 0x029 < o) → reg s' p o = reg s p o))

/-- Memory, channels, hoppers and mailboxes are unchanged, and of the registers below the TINE pages only those of the pages
`pgs` and the Nursery's count of lost events may differ (a row raises its event routes, R287). -/
def RowFrame (pgs : List Nat) (s s' : State) : Prop :=
  s'.mem = s.mem ∧ s'.chans = s.chans ∧ s'.hops = s.hops ∧ s'.mbox = s.mbox ∧
    (∀ p o, o < 1024 → p < 0x100 → p ∉ pgs → (p ≠ pgNurs ∨ o ≠ 0x016) → reg s' p o = reg s p o)

/-- The fields of a cell are ones that a write may store, its reserved bits 0. -/
abbrev CellSound (s : State) (r c : Nat) : Prop :=
  cFunc s r c < 13 ∧ paramOk s r (cCfg s r c) = true ∧ roleTaken s r c (cCfg s r c) = false ∧ getF (cCfg s r c) 24 3 < 6 ∧
    getF (cCfg s r c) 36 4 = 0

/-- VIO_MEASURE to CLKERR (R267–R276, R284, R286, R292, R467). -/
def Obligations.CellControl : Prop :=
  (∀ (s : State) (r : Fin 4) (mv : Nat),
    let was := Tbl.get (fun _ => none) s.vio r
    let only := fun s' : State => s' = { s with regs := s'.regs, vio := s'.vio } ∧
      (∀ p o, o < 1024 → (p ≠ pgRowc r ∨ o ≠ 0x010) → reg s' p o = reg s p o)
    (was = none → 1620 ≤ mv → mv ≤ 1980 → Runs (.vioMeasure r mv) s fun s' => only s' ∧ vioOk s' r = true ∧ vio33 s' r = false ∧
      Tbl.get (fun _ => none) s'.vio r = some false) ∧
    (was = none → 2970 ≤ mv → mv ≤ 3630 → Runs (.vioMeasure r mv) s fun s' => only s' ∧ vioOk s' r = true ∧ vio33 s' r = true ∧
      Tbl.get (fun _ => none) s'.vio r = some true) ∧
    (was = none → mv < 1620 ∨ (1980 < mv ∧ mv < 2970) ∨ 3630 < mv → Runs (.vioMeasure r mv) s fun s' => s' = s) ∧
    -- once classified, VIO stands and VIO_OK follows its lying in that range; below 1.2 V the class goes (R267)
    (∀ hi : Bool, was = some hi → 1200 ≤ mv →
      let inside := if hi then 2970 ≤ mv ∧ mv ≤ 3630 else 1620 ≤ mv ∧ mv ≤ 1980
      (inside → Runs (.vioMeasure r mv) s fun s' => only s' ∧ vioOk s' r = true ∧ vio33 s' r = vio33 s r ∧ s'.vio = s.vio) ∧
      -- a pad without a supply is high-impedance whatever the TAP drives (R267, R428)
      (¬inside → Runs (.vioMeasure r mv) s fun s' => vioOk s' r = false ∧ vio33 s' r = vio33 s r ∧ s'.vio = s.vio ∧
        (∀ c, c < 128 → padOut s' r c = .z))) ∧
    (was.isSome = true → mv < 1200 → Runs (.vioMeasure r mv) s fun s' => vioOk s' r = false ∧
      Tbl.get (fun _ => none) s'.vio r = none) ∧
    (vioOk s r = true → Runs (.rowSupplyFail r) s fun s' => vioOk s' r = false ∧ (∀ c, c < 128 → cEn s' r c = false) ∧
      (∀ h, h < 32 → hEn s' r h = false) ∧ (∀ e, e < 8 → seBusy s' r e = false) ∧ s'.mem = s.mem)) ∧
  (∀ (s : State) (w : Who) (r : Fin 4) (c : Fin 128),
    let pg := pgRowp r
    let key := unitKey r c
    let flagged := fun s' : State => regB s' pg (cB c + 4) 14 = true ∧ s' = { s with regs := s'.regs } ∧
      (∀ p o, o < 1024 → (p ≠ pg ∨ o ≠ cB c + 4) → reg s' p o = reg s p o)
    let row := RowFrame [pg, pgRowc r, pgRail, pgGauge, pgHoe 0, pgHoe 1, pgHoe 2, pgHoe 3] s
    (∀ v : Word, w ≠ .graft → regGate s w pg (cB c) = .ok →
      (cEn s r c = false → bit v 34 = false → getF v 0 4 < 13 → paramOk s r v = true → roleTaken s r c v = false →
        getF v 24 3 < 6 → getF v 36 4 = 0 → Runs (.cellCfgWrite w r c v) s fun s' => cCfg s' r c = v ∧
          (cellAt s' r c).safe = getF v 32 2 ∧ s'.fifo = s.fifo ∧ RowFrame [pg] s s') ∧
      (cEn s r c = true → getF v 0 24 ≠ getF (cCfg s r c) 0 24 → Runs (.cellCfgWrite w r c v) s flagged)) ∧
    (CellSound s r c →
      (cEn s r c = false →
        (cellCanEnable s r c = true →
          (regGate s w pg (cB c) = .ok → Runs (.cellEnable w r c) s fun s' => cEn s' r c = true ∧ s'.fifo = s.fifo ∧
            RowFrame [pg] s s') ∧
          (domUp s (domRow r) = true → Runs (.portopCellEnable r c) s fun s' => cEn s' r c = true ∧ s'.fifo = s.fifo ∧
            RowFrame [pg] s s')) ∧
        (cellCanEnable s r c = false →
          (regGate s w pg (cB c) = .ok → Runs (.cellEnable w r c) s fun s' => regB s' pg (cB c + 4) 14 = true ∧
            cEn s' r c = false ∧ RowFrame [pg] s s') ∧
          (domUp s (domRow r) = true → Runs (.portopCellEnable r c) s flagged))) ∧
      (cEn s r c = true →
        (regGate s w pg (cB c) = .ok → Runs (.cellDisable w r c) s fun s' => cEn s' r c = false ∧ s'.fifo = s.fifo ∧ row s') ∧
        (domUp s (domRow r) = true → Runs (.portopCellDisable r c) s fun s' => cEn s' r c = false ∧ s'.fifo = s.fifo ∧
          row s'))) ∧
    (∀ v : Word, regGate s w pg (cB c + 1) = .ok →
      let fits := cEn s r c = false ∧ getF v 0 7 ≤ 64 ∧ 16 * getF v 0 7 ≤ rowFree s r + cDepth s r c
      (fits → Runs (.cellFifoWrite w r c v) s fun s' => reg s' pg (cB c + 1) = v &&& wd 0x1FFFFFFF ∧ s'.fifo = s.fifo ∧
        RowFrame [pg] s s') ∧
      (¬fits → Runs (.cellFifoWrite w r c v) s flagged)) ∧
    (domUp s (domRow r) = true →
      (cEn s r c = false → Runs (.portopCellFlush r c) s fun s' => fifoAt s' key = [] ∧
        (∀ k, k ≠ key → fifoAt s' k = fifoAt s k) ∧ RowFrame [] s s') ∧
      (cEn s r c = true → Runs (.portopCellFlush r c) s fun s' => s' = s) ∧
      (∀ rx tx : BitVec 11,
        (rx.toNat ≤ cDepth s r c ∧ tx.toNat ≤ cDepth s r c → Runs (.portopCellThresh r c rx tx) s fun s' =>
          regF s' pg (cB c + 1) 7 11 = rx.toNat ∧ regF s' pg (cB c + 1) 18 11 = tx.toNat ∧ cDepth s' r c = cDepth s r c ∧
          RowFrame [pg] s s') ∧
        (cDepth s r c < rx.toNat ∨ cDepth s r c < tx.toNat → Runs (.portopCellThresh r c rx tx) s fun s' => s' = s)) ∧
      (∀ out oe : Bool, cFunc s r c = 1 → Runs (.gpioSet r c out oe) s fun s' =>
        regB s' (pgRowc r) (0x028 + c / 32) (c % 32) = out ∧ regB s' (pgRowc r) (0x02C + c / 32) (c % 32) = oe ∧
        s' = { s with regs := s'.regs } ∧ RowFrame [pgRowc r] s s'))) ∧
  (∀ (s : State) (w : Who) (r : Fin 4) (g : Fin 8),
    (∀ v : Word, regGate s w (pgRowc r) (0x018 + g) = .ok →
      let ok := groupNamed s r g = false ∧ getF v 0 3 < 5 ∧ getF v 3 4 ≠ 15 ∧ getF v 34 3 ≠ 4
      (ok → Runs (.rowcCgWrite w r g v) s fun s' => cgW s' r g = v &&& wd 0x1FFFFFFFFF ∧
        s' = { s with regs := s'.regs, cgArm := s'.cgArm } ∧
        (∀ p o, o < 1024 → (p ≠ pgRowc r ∨ o ≠ 0x018 + g) → reg s' p o = reg s p o)) ∧
      (¬ok → Runs (.rowcCgWrite w r g v) s fun s' => regB s' (pgRowc r) 0x020 16 = true ∧ s' = { s with regs := s'.regs } ∧
        (∀ p o, o < 1024 → (p ≠ pgRowc r ∨ o ≠ 0x020) → reg s' p o = reg s p o))) ∧
    (domUp s (domRow r) = true → (getF (cgW s r g) 0 3 = 2 ∨ getF (cgW s r g) 0 3 = 4) → Runs (.clkerr r g) s fun s' =>
      cgErr s' r g = true ∧ (∀ k, k < 8 → k ≠ g.val → cgErr s' r k = cgErr s r k) ∧ RowFrame [pgRowc r] s s'))

/-- LANE_IN_FRAME to SE_TRANSACTION_END and PORTOP_ENGINE_GO (R277–R282, R286, R290–R292). -/
def Obligations.CellFrames : Prop :=
  (∀ (s : State) (r : Fin 4) (c : Fin 128),
    let pg := pgRowp r
    let v := cCfg s r c
    let cg := cgW s r (getF v 4 3)
    let key := unitKey r c
    let q := fifoAt s key
    let others := fun s' : State => (∀ k, k ≠ key → fifoAt s' k = fifoAt s k) ∧ RowFrame [pg, pgRowc r] s s'
    let enters := fun (ws : List Word) (s' : State) => others s' ∧
      (q.length + ws.length ≤ cDepth s r c → fifoAt s' key = q ++ ws) ∧
      (cDepth s r c < q.length + ws.length → fifoAt s' key = q ∧ regB s' pg (cB c + 4) 12 = true ∧
        regF s' pg (cB c + 5) 16 16 = min 65535 (regF s pg (cB c + 5) 16 16 + 1))
    -- slot k of a frame begins k · SW bit clocks after slot 0, which is 1 bit clock after the edge in I²S and DSP_A (R274)
    (∀ bits : List Bool, cellTicks s r c 4 = true → bits.length = cgBits cg + 1 → bit v 19 = false →
      let dw := widthOf (getF v 17 2)
      let raw := (List.range (getF v 12 5 + 1)).map fun j =>
        bitsVal ((bits.drop ((if getF cg 14 2 = 0 ∨ getF cg 14 2 = 2 then 1 else 0) +
          (getF v 7 5 + j) * widthOf (getF cg 12 2))).take dw)
      Runs (.laneInFrame r c bits) s (enters (raw.map fun x => (cellTrim s r c (sx dw x * (2 ^ (37 - dw) : Nat))).1))) ∧
    (∀ bits : List BitStream, (cellTicks s r c 2 = true ∨ (cellTicks s r c 10 = true ∧ 0 < cDepth s r c)) →
      bits.length = (if getF v 10 2 = 2 then 2 else 1) →
      -- a stream of ones stands for +1.0 and one of zeros for −1.0; the response between is free (R278, assumption 117)
      ((cellAt s r c).settle = 0 → ∃ xs : List Int, xs.length = bits.length ∧
        (∀ (i : Nat) (b : BitStream) (x : Int), bits[i]? = some b → xs[i]? = some x → b ≠ [] →
          (b.all id = true → x = 2 ^ 36) ∧ (b.all (!·) = true → x = -2 ^ 36)) ∧
        Runs (.pdmInSample r c bits) s (enters (xs.map fun x => (cellTrim s r c x).1))) ∧
      (0 < (cellAt s r c).settle → Runs (.pdmInSample r c bits) s fun s' => s' = { s with cells := s'.cells } ∧
        cellAt s' r c = { cellAt s r c with settle := (cellAt s r c).settle - 1 })) ∧
    -- a sense cell without a FIFO keeps no sample (R283)
    (∀ bits : List BitStream, cellTicks s r c 10 = true → cDepth s r c = 0 → bits.length = (if getF v 10 2 = 2 then 2 else 1) →
      (cellAt s r c).settle = 0 → Runs (.pdmInSample r c bits) s fun s' => s'.fifo = s.fifo ∧ s'.out = s.out ∧
        RowFrame [] s s') ∧
    (let n := getF v 12 5 + 1
     let w := widthOf (getF v 17 2)
     -- the bits of a frame, 2 for high-impedance: slot START + j carries sample j from its top bit, the rest 0 or TRI (R274)
     let bitAt := fun (ys : List Int) (k p : Nat) =>
       if k < getF v 7 5 ∨ w ≤ p then (if bit v 20 then 2 else 0)
       else match ys[k - getF v 7 5]? with
         | some y => modI w y / 2 ^ (w - 1 - p) % 2
         | none => if bit v 20 then 2 else 0
     let sends := fun (ys : List Int) (s' : State) =>
       s'.out = s.out ++ [.other "lane" ([r.val, c.val, if getF cg 14 2 = 0 ∨ getF cg 14 2 = 2 then 1 else 0] ++
         ((List.range (getF cg 7 5 + 1)).map fun k => (List.range (widthOf (getF cg 12 2))).map (bitAt ys k)).flatten)]
     cellTicks s r c 5 = true →
      (n ≤ q.length → Runs (.laneOutFrame r c) s fun s' => others s' ∧ fifoAt s' key = q.drop n ∧
        ∃ ys : List Int, sends ys s' ∧ ys.length = n ∧
          (getF v 24 3 < 4 → ys = (q.take n).map fun x => (narrowSample (getF v 24 3) x w 0 0).1)) ∧
      (q.length < n → Runs (.laneOutFrame r c) s fun s' => others s' ∧ fifoAt s' key = q ∧
        sends (List.replicate n 0) s' ∧ regB s' pg (cB c + 4) 13 = true ∧
        regF s' pg (cB c + 5) 16 16 = min 65535 (regF s pg (cB c + 5) 16 16 + 1))) ∧
    (cellTicks s r c 3 = true →
      -- the cell launches the sample of 32 periods before, as bits that are free (R282, assumption 118)
      let d := (cellAt s r c).delay
      let delayed := fun s' : State =>
        (d.length < 32 → (cellAt s' r c).delay.length = d.length + 1 ∧ (cellAt s' r c).delay.take d.length = d) ∧
        (d.length = 32 → (cellAt s' r c).delay.length = 32 ∧ (cellAt s' r c).delay.take 31 = d.drop 1) ∧
        ∃ n : Nat, s'.out = s.out ++ [.other "pdm" [r.val, c.val, b2n (bit v 10),
          if d.length = 32 then outI (sw ((d.headD []).headD 0)) else 0, n]]
      let newest := fun s' : State => (cellAt s' r c).delay.getLastD []
      d.length ≤ 32 →
      (∀ x rest, q = x :: rest → Runs (.pdmOutSample r c) s fun s' => others s' ∧ fifoAt s' key = rest ∧
        delayed s' ∧ (getF v 24 3 < 4 →
          newest s' = [wi (max (-6291456) (min 6291456 (narrowSample (getF v 24 3) x 24 0 0).1))])) ∧
      (q = [] → Runs (.pdmOutSample r c) s fun s' => others s' ∧ fifoAt s' key = [] ∧ delayed s' ∧ newest s' = [0] ∧
        regB s' pg (cB c + 4) 13 = true)) ∧
    -- a cell disabled in its last frame or period finishes it and drives SAFE (R272)
    ((cellAt s r c).drain = true → cellTicks s r c 5 = false → cellTicks s r c 3 = false →
      let done := { s with cells := (setCell r c { cellAt s r c with drain := false } s).cells }
      Runs (.laneOutFrame r c) s (· = done) ∧ Runs (.pdmOutSample r c) s (· = done) ∧
      (cEn s r c = false → vioOk s r = true → domSt s (domRow r) = .run →
        tapActs s ≠ .extest → tapActs s ≠ .clamp → tapActs s ≠ .highz →
        padOut done r c = padSafe (cellAt s r c).safe)) ∧
    (∀ level : Bool, domUp s (domRow r) = true → getF v 0 4 = 1 → regB s (pgRowc r) (0x024 + c / 32) (c % 32) ≠ level →
      -- the level has held for DEB + 1 ticks since the last change (R280)
      getF v 9 4 ≤ s.now → (∀ t, (cellAt s r c).edgeAt = some t → t + getF v 9 4 < s.now) →
      let taken := bit v 34 && ((level && bit v 7) || (!level && bit v 8))
      (taken = true → Runs (.gpioEdge r c level) s fun s' => regB s' (pgRowc r) (0x024 + c / 32) (c % 32) = level ∧
        enters [wd ((s.now - getF v 9 4) % 2 ^ 32 + 2 ^ 32 * b2n level)] s') ∧
      (taken = false → Runs (.gpioEdge r c level) s fun s' => regB s' (pgRowc r) (0x024 + c / 32) (c % 32) = level ∧
        others s' ∧ fifoAt s' key = q))) ∧
  (∀ (s : State) (r : Fin 4) (e : Fin 8),
    let b := seB e
    let started := fun (v : Word) (s' : State) => seBusy s' r e = true ∧
      (engAt s' r e).cmd = (v &&& wd 0x3FFFFF).toNat ∧ reg s' (pgRowc r) (b + 1) = v &&& wd 0x3FFFFF ∧
      RowFrame [pgRowc r] s s' ∧ s'.fifo = s.fifo ∧
      ∃ e0 : List Nat, s'.out = s.out ++ [.other "serial" ([r.val, e.val, seMode s r e, getF v 0 22, seHz s r e] ++ e0)]
    let roles := fun v : Word => (rolesNeeded (seMode s r e) (getF v 19 2)).all (roleHeld s r e) = true
    (∀ (w : Who) (v : Word), regGate s w (pgRowc r) (b + 1) = .ok →
      (seAccepts s r e v = true → roles v → Runs (.seGo w r e v) s (started v)) ∧
      (seAccepts s r e v = false → Runs (.seGo w r e v) s fun s' => s' = { s with regs := s'.regs } ∧
        reg s' (pgRowc r) (b + 1) = v &&& wd 0x3FFFFF ∧
        (∀ p o, o < 1024 → (p ≠ pgRowc r ∨ o ≠ b + 1) → reg s' p o = reg s p o))) ∧
    (∀ arg : BitVec 23, domUp s (domRow r) = true →
      (seAccepts s r e (wd arg.toNat) = true → roles (wd arg.toNat) →
        Runs (.portopEngineGo r e arg) s (started (wd arg.toNat))) ∧
      (seAccepts s r e (wd arg.toNat) = false → Runs (.portopEngineGo r e arg) s fun s' => s' = s)) ∧
    (∀ (err : Fin 6) (count : Fin 33) (rx : List Byte), seBusy s r e = true → getF (wd (engAt s r e).cmd) 0 6 ≤ 32 →
      getF (wd (engAt s r e).cmd) 6 6 ≤ 32 →
      -- the stretch limit can be over only STRETCH after the GO (Table 12-7)
      (err.val = 3 → seMode s r e = 1 ∧ (engAt s r e).start + seStretch s r e ≤ s.now) →
      Runs (.seTransactionEnd r e err count rx) s fun s' => seBusy s' r e = false ∧
        regB s' (pgRowc r) (b + 2) 1 = true ∧ regF s' (pgRowc r) (b + 2) 2 3 = err.val ∧
        (err.val ≠ 0 → regF s' (pgRowc r) (b + 2) 5 6 = count.val) ∧
        (seMode s r e = 2 → err.val = 0 → ∀ (i : Nat) (x : Byte), rx[i]? = some x → i < getF (wd (engAt s r e).cmd) 0 6 →
          seByte s' r e i = x) ∧
        s'.out = s.out ++ (if seMode s r e = 1 ∧ err.val < 3 then [.other "serial-stop" [r.val, e.val]] else []) ∧ RowFrame [pgRowc r] s s' ∧ s'.fifo = s.fifo))

/-- HOE_ENABLE to INJECT, and INTERPOLATOR_CALIBRATION (R77, R307–R316); the instant of a trip and the retry are as
assumptions 119 and 80 read them. -/
def Obligations.HoeControl : Prop :=
  ∀ (s : State) (w : Who) (r : Fin 4) (h : Fin 32),
    let pg := pgHoe r
    let b := hB h
    let cfg := hCfg s r h
    let key := unitKey r (128 + h)
    let row := RowFrame [pg] s
    let flagged := fun s' : State => regB s' pg (b + 0xC) 22 = true ∧ s' = { s with regs := s'.regs } ∧ row s'
    let enabled := fun s' : State => hEn s' r h = true ∧ s'.fifo = s.fifo ∧ row s'
    let disabled := fun s' : State => hEn s' r h = false ∧ s'.fifo = s.fifo ∧ row s' ∧
      (hRunning s r h = true → hSheared s r h = false → (hoeAt s' r h).stopping = true ∧ hRunning s' r h = true) ∧
      (hRunning s r h = false ∨ hSheared s r h = true → hRunning s' r h = false ∧ hoeOut s' r h 2 = .low)
    let sound := hoeCodesOk cfg = true ∧ hrOk cfg (reg s pg (b + 5)) = true ∧ loopOk cfg (reg s pg (b + 4)) = true ∧
      getF cfg 35 5 = 0
    let rearmed := fun s' : State => hoeAt s' r h = { hoeAt s r h with rearm := true, retryAt := none } ∧
      s' = { s with hoes := s'.hoes }
    let flushed := fun s' : State => fifoAt s' key = [] ∧ (∀ k, k ≠ key → fifoAt s' k = fifoAt s k) ∧ RowFrame [] s s'
    (regGate s w pg b = .ok →
      (∀ v : Word, hEn s r h = false → bit v 0 = false → hoeCodesOk v = true → hrOk v (reg s pg (b + 5)) = true →
        loopOk v (reg s pg (b + 4)) = true → getF v 35 5 = 0 →
        Runs (.hoeCfgWrite w r h 0 v) s fun s' => hCfg s' r h = v ∧ s'.fifo = s.fifo ∧ row s') ∧
      (∀ v : Word, hEn s r h = true → getF v 1 13 ≠ getF cfg 1 13 → Runs (.hoeCfgWrite w r h 0 v) s flagged) ∧
      (sound → hEn s r h = false → hoeCanEnable s r h = true → Runs (.hoeEnable w r h) s enabled) ∧
      (sound → hEn s r h = false → hoeCanEnable s r h = false → Runs (.hoeEnable w r h) s fun s' =>
        hEn s' r h = false ∧ regB s' pg (b + 0xC) 22 = true ∧ row s') ∧
      (sound → hEn s r h = true → Runs (.hoeDisable w r h) s disabled)) ∧
    (domUp s (domRow r) = true →
      (hEn s r h = false → hoeCanEnable s r h = true → Runs (.portopHoeEnable r h) s enabled) ∧
      (hEn s r h = false → hoeCanEnable s r h = false → Runs (.portopHoeEnable r h) s flagged) ∧
      (hEn s r h = true → Runs (.portopHoeDisable r h) s disabled) ∧
      (hEn s r h = false → Runs (.portopHoeFlush r h) s flushed) ∧
      (hSheared s r h = true → causePresent s r h = false → (hoeAt s r h).tripAt ≠ s.now →
        Runs (.portopHoeRearm r h) s rearmed) ∧
      (∀ tx : BitVec 11, tx.toNat ≤ hDepth s r h → Runs (.portopHoeThresh r h tx) s fun s' =>
        regF s' pg (b + 1) 7 11 = tx.toNat ∧ hDepth s' r h = hDepth s r h ∧ row s') ∧
      (∀ m : BitVec 2, m.toNat < 3 → lineOwns s r h = false → Runs (.inject r h m) s fun s' => reg s' pg (b + 7) = wd m.toNat ∧
        s' = { s with regs := s'.regs } ∧ (∀ p o, o < 1024 → (p ≠ pg ∨ o ≠ b + 7) → reg s' p o = reg s p o))) ∧
    (hoeMayStart s r h = true → Runs (.hoeStart r h) s fun s' => hRunning s' r h = true ∧ hoeOut s' r h 2 = .high ∧
      s'.out = s.out ++ [.other "hoe-start" [r.val, h.val]] ∧ (hoeAt s' r h).g = 0 ∧
      (hoeAt s' r h).i1 = 0 ∧ (hoeAt s' r h).i2 = 0 ∧ (hoeAt s' r h).e1 = 0 ∧ (hoeAt s' r h).e2 = 0 ∧ row s') ∧
    (regGate s w pg (b + 0xB) = .ok →
      (hSheared s r h = false → Runs (.hoeTrip w r h) s fun s' => hSheared s' r h = true ∧ hRunning s' r h = false ∧
        regF s' pg (b + 0xC) 13 3 = 5 ∧ (hoeAt s' r h).g = 0 ∧ (hoeAt s' r h).i1 = 0 ∧ (hoeAt s' r h).i2 = 0 ∧
        (hoeAt s' r h).e1 = 0 ∧ (hoeAt s' r h).e2 = 0 ∧
        regF s' pg (b + 0xE) 32 7 = min 127 (regF s pg (b + 0xE) 32 7 + 1) ∧ hEn s' r h = hEn s r h ∧
        (∀ pin, hoeOut s' r h pin = .low) ∧ RowFrame [pg, pgGauge] s s') ∧
      -- a latched Hoe only counts further causes of the trip's own tick (R312, assumption 119)
      (hSheared s r h = true →
        ((hoeAt s r h).tripAt ≠ s.now ∨ 5 ∈ (hoeAt s r h).tripBy → Runs (.hoeTrip w r h) s fun s' => s' = s) ∧
        ((hoeAt s r h).tripAt = s.now → 5 ∉ (hoeAt s r h).tripBy → Runs (.hoeTrip w r h) s fun s' =>
          regF s' pg (b + 0xE) 32 7 = min 127 (regF s pg (b + 0xE) 32 7 + 1) ∧
          regF s' pg (b + 0xC) 13 3 = min 5 (regF s pg (b + 0xC) 13 3) ∧ hSheared s' r h = true ∧ s'.fifo = s.fifo ∧
          s'.out = s.out ∧ row s')) ∧
      (hSheared s r h = true → causePresent s r h = false → (hoeAt s r h).tripAt ≠ s.now →
        Runs (.hoeRearm w r h) s rearmed) ∧
      (hSheared s r h = false ∨ causePresent s r h = true ∨ (hoeAt s r h).tripAt = s.now → Runs (.hoeRearm w r h) s fun s' => s' = s) ∧
      (hEn s r h = false → Runs (.hoeFlush w r h) s flushed) ∧
      (hEn s r h = true → Runs (.hoeFlush w r h) s fun s' => s' = s) ∧
      Runs (.clrRetry w r h) s fun s' => regF s' pg (b + 0xC) 24 3 = 0 ∧ hSheared s' r h = hSheared s r h ∧
        s' = { s with regs := s'.regs } ∧ (∀ p o, o < 1024 → (p ≠ pg ∨ o ≠ b + 0xC) → reg s' p o = reg s p o)) ∧
    (∀ e, (hoeAt s r h).retryAt = some e → e ≤ s.now → (hoeAt s r h).tripAt ≠ s.now → hSheared s r h = true →
      -- RETRIES in force is that of the latest take instant (R307)
      regF s pg (b + 0xC) 24 3 < getF (hoeAt s r h).shear 6 3 → Runs (.shearAutoRetry r h) s fun s' =>
        regF s' pg (b + 0xC) 24 3 = regF s pg (b + 0xC) 24 3 + 1 ∧ (hoeAt s' r h).retryAt = none ∧
        (causePresent s r h = false → (hoeAt s' r h).rearm = true) ∧ row s') ∧
    (∀ d1 d2 d3 : Fin 3, domUp s (domRow r) = true → pwmRuns s = true →
      let cur := match (hoeAt s r h).tapsNext with
        | some l => l
        | none => (List.range 3).map fun k => (trimAt s (48 + 3 * (32 * r + h) + k)).toNat
      ((hoeAt s r h).calWin ≠ some (s.now / 1000) → cur.length = 3 → Runs (.interpolatorCalibration r h d1 d2 d3) s fun s' =>
        (hoeAt s' r h).taps = (hoeAt s r h).taps ∧ (hoeAt s' r h).calWin = some (s.now / 1000) ∧
        (∃ l, (hoeAt s' r h).tapsNext = some l ∧ l.length = 3 ∧
          (∀ (i : Nat) (t : Nat) (d : Fin 3), cur[i]? = some t → [d1, d2, d3][i]? = some d →
            l[i]? = some (if d = 1 then (if t < 63 then t + 1 else t) else if d = 2 then t - 1 else t))) ∧ row s') ∧
      ((hoeAt s r h).calWin = some (s.now / 1000) → Runs (.interpolatorCalibration r h d1 d2 d3) s fun s' => s' = s))

/-- The new limiter gain and the commanded value of a running Hoe without a loop, in a carrier period that holds the sample `w`:
the sample and what is injected, times the limiter's gain, times the rail's, rounded to 2^-16 of an edge step and requantized
(R301–R303, R306, R315). -/
def hoeWant (s : State) (r h : Nat) (w : Word) : Nat × Int :=
  let cfg := hCfg s r h
  let lim := reg s (pgHoe r) (hB h + 5)
  let rail := getF cfg 10 4
  let x := hoeAt s r h
  let im := regF s (pgHoe r) (hB h + 7) 0 2
  let phi := if im ≠ 0 ∧ x.imode = 0 then 0 else x.phi
  let held : Frac := { n := sw w, d := 2 ^ 36 }
  let v := match im with
    | 1 => Frac.add held (hoeInj s r h phi)
    | 2 => hoeInj s r h phi
    | _ => held
  let (g, s1) := railGain (regF s (pgHoe r) (hB h + 2) 0 17) (regF s pgRail (rB rail) 8 17) (regF s pgRail (rB rail + 2) 0 16) s
  let (gn, _, _) := limiter cfg lim x.g (regB s pgRail (rB rail + 2) 17) (Frac.mul (Frac.abs v) g) s1
  let m := Frac.mul (Frac.mul { n := gn, d := 2 ^ 23 } v) g
  let steps := rheDiv (m.n * (2 * carP (getF cfg 2 2) * 2 ^ 16 : Nat)) m.d
  let dith := bit cfg 18
  let da := if dith then drawA (regF s (pgHoe r) (hB h + 0x12) 0 32) else 0
  let db := if dith then drawB (regF s (pgHoe r) (hB h + 0x13) 0 32) else 0
  let qord := getF cfg 16 2
  (gn, (requantize steps qord dith (if qord = x.qord then x.e1 else 0) (if qord = x.qord then x.e2 else 0) (qmax cfg lim) da db).q)

/-- CARRIER_PERIOD, RAIL_CODE, SENSE_STREAM_LOSS, FAST_DETECTOR, RAIL_CFG_WRITE (R299–R312, R319). -/
def Obligations.RailsAndCarrier : Prop :=
  (∀ (s : State) (r : Fin 4) (h : Fin 32) (pos : Fin 32) (vs is : Nat), domUp s (domRow r) = true →
    (hoeAt s r h).rearm = false → pwmRuns s = true → onGrid s r h pos = true →
    -- every take instant applies the live fields, the computed taps and the windows that end with it (R77, R304, R307)
    let latched := fun s' : State => (hoeAt s' r h).taps = (hoeAt s r h).tapsNext ∧
      (hoeAt s' r h).shear = reg s (pgHoe r) (hB h + 6) ∧ (hoeAt s' r h).txth = regF s (pgHoe r) (hB h + 1) 7 11 ∧
      (bit (hCfg s r h) 33 = true → (hoeAt s' r h).ys.head? = some (sw (reg s' (pgHoe r) (hB h + 0x10)))) ∧
      s'.pwmOn = true ∧ s'.pwmClk = takeClk s r h pos
    let cfg := hCfg s r h
    let key := unitKey r (128 + h)
    let lim := reg s (pgHoe r) (hB h + 5)
    let takes := fun s' : State => (∀ k, k ≠ key → fifoAt s' k = fifoAt s k) ∧
      (sampleInstant cfg pos = false → fifoAt s' key = fifoAt s key) ∧
      (sampleInstant cfg pos = true → fifoAt s' key = (fifoAt s key).tail ∧
        (fifoAt s key = [] → regB s' (pgHoe r) (hB h + 0xC) 18 = true ∧
          regF s' (pgHoe r) (hB h + 0xD) 0 16 = min 65535 (regF s (pgHoe r) (hB h + 0xD) 0 16 + 1)))
    (hSheared s r h = true → hEn s r h = true → Runs (.carrierPeriod r h pos vs is) s fun s' => takes s' ∧ s'.out = s.out ∧
      latched s' ∧ hSheared s' r h = true ∧ RowFrame [pgHoe r] s s') ∧
    (hSheared s r h = false → hRunning s r h = false → Runs (.carrierPeriod r h pos vs is) s fun s' => latched s' ∧
      s'.fifo = s.fifo ∧ s'.out = s.out ∧ hRunning s' r h = false ∧ RowFrame [pgHoe r] s s') ∧
    (hSheared s r h = false → hRunning s r h = true → (hoeAt s r h).stopping = true → (hoeAt s r h).g = 0 →
      Runs (.carrierPeriod r h pos vs is) s fun s' => latched s' ∧ hRunning s' r h = false ∧
        s'.out = s.out ++ [.other "hoe-stop" [r.val, h.val]] ∧ s'.fifo = s.fifo ∧ RowFrame [pgHoe r] s s') ∧
    (hSheared s r h = false → hRunning s r h = true → (hoeAt s r h).stopping = false → getF cfg 14 2 = 0 →
      Runs (.carrierPeriod r h pos vs is) s fun s' => latched s' ∧ takes s' ∧ hRunning s' r h = true ∧
        RowFrame [pgHoe r] s s' ∧
        ∃ q : Int, s'.out = s.out ++ [.other "hoe" ([r.val, h.val, frameStart cfg pos] ++ hoeEdges cfg q)] ∧
          (hoeAt s' r h).q = q ∧
          (hoeWant s r h (if sampleInstant cfg pos then (fifoAt s key).headD 0 else (hoeAt s r h).x) =
            ((hoeAt s' r h).g, q)) ∧
          -(qmax cfg lim : Int) ≤ q ∧ q ≤ qmax cfg lim ∧
          (getF cfg 16 2 = 0 → bit cfg 18 = false → regF s (pgHoe r) (hB h + 7) 0 2 = 0 → sampleInstant cfg pos = true →
            (fifoAt s key).headD 0 = 0 → q = 0))) ∧
  -- a latch whose rearm was accepted clears at the take instant (R314)
  (∀ (s : State) (r : Fin 4) (h : Fin 32) (pos : Fin 32) (vs is : Nat), domUp s (domRow r) = true →
    (hoeAt s r h).rearm = true → pwmRuns s = true → onGrid s r h pos = true → hSheared s r h = true → hRunning s r h = false →
    hEn s r h = false → Runs (.carrierPeriod r h pos vs is) s fun s' => hSheared s' r h = false ∧ hRunning s' r h = false ∧
      (hoeAt s' r h).rearm = false ∧ s'.out = s.out ++ [.other "shear-clear" [r.val, h.val]] ∧ s'.fifo = s.fifo ∧
      RowFrame [pgHoe r] s s') ∧
  (∀ (s : State) (k : Fin 16) (ones : Nat), domUp s (domRow (k / 4)) = true → regB s pgRail (rB k) 0 = true →
    let n := railRatio s k
    let code := (railTrim s k (min 65535 (min ones (n * n * n) * 2 ^ 16 / (n * n * n)))).1
    let thr := regF s pgRail (rB k + 1) 7 16
    Runs (.railCode k ones) s fun s' => regF s' pgRail (rB k + 2) 0 16 = code ∧ regB s' pgRail (rB k + 2) 16 = true ∧
      (railAt s' k).thr = reg s pgRail (rB k + 1) ∧
      (railAt s' k).lost = ((railAt s k).lost &&
        !(decide (0 < ones ∧ ones < n * n * n) && cEn s (k / 4) (regF s pgRail (rB k) 1 7))) ∧ (regB s' pgRail (rB k + 2) 17 = true ↔
        code < (if regB s pgRail (rB k + 2) 17 then thr + regF s pgRail (rB k + 1) 23 10 else thr)) ∧
      s'.fifo = s.fifo ∧ s'.hoes = s.hoes ∧ RowFrame [pgRail] s s') ∧
  (∀ (s : State) (k : Fin 16), domUp s (domRow (k / 4)) = true → regB s pgRail (rB k) 0 = true →
    let all := fun s' : State => (∀ r h, r < 4 → h < 32 → hEn s r h = true → hRail s r h = k.val → hSheared s' r h = true ∧
        (hSheared s r h = false → hRunning s' r h = false ∧ (hoeAt s' r h).g = 0)) ∧
      s'.fifo = s.fifo ∧ RowFrame [pgRail, pgGauge, pgHoe 0, pgHoe 1, pgHoe 2, pgHoe 3] s s'
    let ovf := min 64 (getF (railAt s k).thr 0 7)
    (∀ f : Fin 65, 0 < ovf → ovf ≤ f.val → Runs (.fastDetector (.rail k) f) s fun s' => all s' ∧ (railAt s' k).f = f.val) ∧
    (∀ f : Fin 65, (ovf = 0 ∨ f.val < ovf) → Runs (.fastDetector (.rail k) f) s fun s' =>
      s' = { s with rails := s'.rails } ∧ railAt s' k = { railAt s k with
        f := f.val
        lost := (railAt s k).lost && !(decide (0 < f.val ∧ f.val < 64) && cEn s (k / 4) (regF s pgRail (rB k) 1 7)) }) ∧
    (Runs (.senseStreamLoss (.rail k)) s fun s' => all s' ∧ regB s' pgRail (rB k + 2) 19 = true ∧
      (railAt s' k).lost = true)) ∧
  (∀ (s : State) (r : Fin 4) (h : Fin 32), domUp s (domRow r) = true → hSheared s r h = false →
    let tripped := fun (cause : Nat) (s' : State) => hSheared s' r h = true ∧ hRunning s' r h = false ∧
      regF s' (pgHoe r) (hB h + 0xC) 13 3 = cause ∧ (hoeAt s' r h).g = 0 ∧ s'.fifo = s.fifo ∧
      RowFrame [pgHoe r, pgGauge] s s'
    (bit (hCfg s r h) 33 = true → Runs (.senseStreamLoss (.hoe r h)) s (tripped 3)) ∧
    (∀ f : Fin 65,
      let ocf := min 32 (getF (hoeAt s r h).shear 0 6)
      bit (hCfg s r h) 34 = true → 0 < ocf → (ocf + f.val ≤ 32 ∨ ocf + 32 ≤ f.val) →
        Runs (.fastDetector (.hoe r h) f) s (tripped 2))) ∧
  (∀ (s : State) (w : Who) (k : Fin 16) (v : Word), regGate s w pgRail (rB k) = .ok →
    let ok := railFollowed s k = false ∧ (bit v 0 = true → railCellOk s k (getF v 1 7) = true)
    (ok → Runs (.railCfgWrite w k v) s fun s' => reg s' pgRail (rB k) = v &&& wd 0x1FFFFFF ∧ s' = { s with regs := s'.regs } ∧
      (∀ p o, o < 1024 → (p ≠ pgRail ∨ (o ≠ rB k ∧ o ≠ rB k + 2)) → reg s' p o = reg s p o)) ∧
    (¬ok → Runs (.railCfgWrite w k v) s fun s' => regB s' pgRail (rB k + 2) 20 = true ∧ s' = { s with regs := s'.regs } ∧
      (∀ p o, o < 1024 → (p ≠ pgRail ∨ o ≠ rB k + 2) → reg s' p o = reg s p o)))

/-- A word of Shed that the host may read, clean. -/
def HostReads (s : State) (a : Nat) : Prop := (∃ b, regionOf a = .shed b) ∧ outGate s .host false a = .ok ∧ ueAt s a = false

/-- A word of Shed that the host may read. -/
def HostSees (s : State) (a : Nat) : Prop := (∃ b, regionOf a = .shed b) ∧ outGate s .host false a = .ok

/-- A word of Shed that the host may write over the boot's source `src`. -/
def HostWrites (s : State) (src a : Nat) : Prop :=
  (∃ b, regionOf a = .shed b) ∧ outGate s .host true a = .ok ∧ bootDiscards s src a = false

/-- PCIE_BAR0_ACCESS to HOST_FRAME_WRITE, PCIE_LINK_UP, PCIE_LINK_DOWN, PCIE_CONFIG_WRITE (R321–R323, R455, R459, R462); the
error's report and boot frames are assumption 87's, BAR4's layout is assumption 153's. -/
def Obligations.HostDirectAccess : Prop :=
  (∀ (s : State) (n : Fin 2097152), domSt s domLink = .run → regB s pgPcie 0x010 4 = true →
    let pa := regF s pgHost 0x01D 0 34 + n.val
    let wrote := fun (v : Word) (s' : State) => memGet s' pa = v ∧ (∀ a, a ≠ pa → memGet s' a = memGet s a) ∧
      s'.barHeld = none ∧ s' = { s with mem := s'.mem, ue := s'.ue, barHeld := none }
    (s.barHeld = none →
      (HostReads s pa → Runs (.pcieBar2Access n .r64 .ok) s fun s' => s'.readData = memGet s pa ∧
        s' = { s with readData := s'.readData, barHi := s'.barHi }) ∧
      (HostReads s pa → RunsThen (.pcieBar2Access n (.r32 false) .ok) (.pcieBar2Access n (.r32 true) .ok) s fun s' =>
        s'.readData = wd (getF (memGet s pa) 32 8)) ∧
      (∀ v, HostWrites s 1 pa → Runs (.pcieBar2Access n (.w64 v) .ok) s (wrote (wd (v.toNat % 2 ^ 40)))) ∧
      (∀ v, Runs (.pcieBar2Access n (.w32 false v) .ok) s fun s' => s' = { s with barHeld := some (pa, v.toNat, s.now) }) ∧
      (Runs (.pcieBar2Access n .poison .ok) s fun s' =>
        regF s' pgPcie 0x011 16 16 = min 65535 (regF s pgPcie 0x011 16 16 + 1) ∧ s' = { s with regs := s'.regs } ∧
        (∀ p o, o < 1024 → (p ≠ pgPcie ∨ o ≠ 0x011) → reg s' p o = reg s p o))) ∧
    (∀ x t, s.barHeld = some (pa, x, t) → HostWrites s 1 pa →
      (∀ v : BitVec 32, Runs (.pcieBar2Access n (.w32 true v) .ok) s (wrote (wd (x + v.toNat % 256 * 2 ^ 32)))) ∧
      (t + 2 ≤ s.now → Runs .heldWriteExpiry s (wrote (wd x))))) ∧
  (∀ (s : State) (pg off : Nat) (slot : Fin 524288), domSt s domLink = .run → regB s pgPcie 0x010 4 = true →
    s.barHeld = none → (pg = pgPcie ∨ pg = pgQspi) → 0x010 ≤ off → off < 1024 → slot.val = pg * 1024 + off →
    (outGate s .host false (0x08000000 + slot.val) = .ok → Runs (.pcieBar0Access slot .r64) s fun s' =>
      s'.readData = reg s pg off ∧ s' = { s with readData := s'.readData, barHi := s'.barHi }) ∧
    (∀ v : BitVec 64, outGate s .host true (0x08000000 + slot.val) = .ok → Runs (.pcieBar0Access slot (.w64 v)) s fun s' =>
      reg s' pg off = writeBySpec (linkSpec (if pg = pgPcie then .pcie else .qspi) off) (reg s pg off) (wd (v.toNat % 2 ^ 40)) ∧
      s' = { s with regs := s'.regs } ∧ (∀ p o, o < 1024 → (p ≠ pg ∨ o ≠ off) → reg s' p o = reg s p o))) ∧
  (∀ (s : State) (a : BitVec 34) (n : Nat), domSt s domLink = .run →
    let at' := fun k : Nat => a.toNat + k
    let stores := fun (ws : List Word) (s' : State) => (∀ (k : Nat) (v : Word), ws[k]? = some v → memGet s' (at' k) = v) ∧
      (∀ x, (∀ k, k < ws.length → x ≠ at' k) → memGet s' x = memGet s x)
    ((∀ k, k < n → HostReads s (at' k)) → Runs (.qspiRead a n []) s fun s' =>
      s'.out = s.out ++ [.other "qspi" ((List.range n).map fun k => (memGet s (at' k)).toNat)] ∧
      s' = { s with out := s'.out, readData := s'.readData }) ∧
    -- a word with an uncorrectable error ends the read with the error status (R190)
    ((∀ k, k < n → HostSees s (at' k)) → (∃ k, k < n ∧ ueAt s (at' k) = true) → Runs (.qspiRead a n []) s fun s' =>
      s'.mem = s.mem ∧ ∃ irqs : List Out, (regB s pgShed 2 0 = false → irqs = []) ∧
        s'.out = s.out ++ irqs ++ [.other "host-error" ((List.range n).map at'),
          .other "qspi" ((List.range n).map fun k => if ueAt s (at' k) then 0 else (memGet s (at' k)).toNat)]) ∧
    (∀ (ws : List Word) (cut : Bool), (∀ k, k < ws.length → HostWrites s 0 (at' k)) →
      Runs (.qspiWrite a ws cut []) s fun s' => stores ws s' ∧
        regF s' pgQspi 0x010 16 16 = (if cut then min 65535 (regF s pgQspi 0x010 16 16 + 1) else regF s pgQspi 0x010 16 16) ∧
        s' = { s with mem := s'.mem, ue := s'.ue, regs := s'.regs }) ∧
    (Runs .qspiBadOpcode s fun s' => regF s' pgQspi 0x010 0 16 = min 65535 (regF s pgQspi 0x010 0 16 + 1) ∧
      s' = { s with regs := s'.regs } ∧ (∀ p o, o < 1024 → (p ≠ pgQspi ∨ o ≠ 0x010) → reg s' p o = reg s p o)) ∧
    (∀ f : HFrame, frameOk s f = true → f.addr.toNat % 2 ^ 34 = a.toNat →
      -- the answer enters queue 0 of the frame's MAC (R341); a boot answer is marked by its OP + 16
      let answered := fun (op : Nat) (ws : List Nat) (s' : State) => ∃ len,
        (macAt s' f.mac).frames = (macAt s f.mac).frames ++
          [EFrame.mk 0 len (some Config.plainTag) ([5, op, f.seq.toNat, f.addr.toNat] ++ ws)] ∧ (∀ k, k ≠ f.mac.val → macAt s' k = macAt s k) ∧
        s'.hostMac = f.mac.val ∧ s'.out = s.out
      (f.boot = false → 0 < n → n ≤ 256 → (∀ k, k < n → HostReads s (at' k)) → Runs (.hostFrameRead f n []) s fun s' =>
        answered 3 (n :: (List.range n).map fun k => (memGet s (at' k)).toNat) s' ∧
        s' = { s with macs := s'.macs, hostMac := s'.hostMac, readData := s'.readData }) ∧
      (∀ ws : List Word, ws ≠ [] → ws.length ≤ 256 → (∀ k, k < ws.length → HostWrites s 2 (at' k)) →
        Runs (.hostFrameWrite f ws []) s fun s' => stores ws s' ∧ answered (4 + 16 * b2n f.boot) [ws.length] s' ∧
          s' = { s with mem := s'.mem, ue := s'.ue, macs := s'.macs, hostMac := s'.hostMac }))) ∧
  (∀ s : State, domSt s domLink = .run →
    let only := fun s' : State => s' = { s with regs := s'.regs } ∧
      (∀ p o, o < 1024 → (p ≠ pgPcie ∨ o ≠ 0x010) → reg s' p o = reg s p o)
    (∀ (gen : Fin 3) (lanes : Fin 2), Runs (.pcieLinkUp gen lanes) s fun s' => only s' ∧
      regF s' pgPcie 0x010 0 2 = gen.val + 1 ∧ regF s' pgPcie 0x010 2 2 = lanes.val + 1 ∧ regB s' pgPcie 0x010 4 = true) ∧
    (Runs .pcieLinkDown s fun s' => only s' ∧ regF s' pgPcie 0x010 0 5 = 0) ∧
    (∀ on : Bool, regB s pgPcie 0x010 4 = true → Runs (.pcieConfigWrite (.enable on)) s fun s' => only s' ∧
      regB s' pgPcie 0x010 5 = on ∧ regF s' pgPcie 0x010 0 5 = regF s pgPcie 0x010 0 5) ∧
    -- BAR4: an entry of the MSI-X table is stored, and a pending vector that it unmasks is sent (R321)
    (∀ (v : Fin 64) (a : BitVec 64) (d : BitVec 32) (mask : Bool), regB s pgPcie 0x010 4 = true →
      let entry := Tbl.set (fun _ => MsixEnt.reset) s.msixTab v { addr := a.toNat, data := d.toNat, mask := mask }
      let goes := mask = false ∧ v.val ∈ s.msixPend ∧ regB s pgPcie 0x010 5 = true
      -- what goes out then opens the IHOLD windows of the queues it serves (R336)
      (goes → Runs (.pcieConfigWrite (.entry v a d mask)) s fun s' => s'.out = s.out ++ [.msix v a.toNat d.toNat] ∧
        v.val ∉ s'.msixPend ∧ (∀ q, q < 65 → hqAt s' q =
          if (hqAt s q).cqLive = true ∧ (hqAt s q).vec = some v.val ∧ (hqAt s q).ihold ≠ 0 ∧ hostIface s = 0 then
            { hqAt s q with window := some (s.now + (hqAt s q).ihold, false) } else hqAt s q) ∧
        s' = { s with msixTab := entry, msixPend := s'.msixPend, out := s'.out, hq := s'.hq }) ∧
      (¬goes → Runs (.pcieConfigWrite (.entry v a d mask)) s fun s' => s' = { s with msixTab := entry })) ∧
    (∀ (v : Fin 64) (dw : Fin 2048), regB s pgPcie 0x010 4 = true →
      let e := Tbl.get (fun _ => MsixEnt.reset) s.msixTab v
      let reads := fun x : Nat => Runs (.pcieConfigWrite (.read dw)) s fun s' => s' = { s with readData := wd x }
      (dw.val = 4 * v.val → reads (e.addr % 2 ^ 32)) ∧ (dw.val = 4 * v.val + 1 → reads (e.addr / 2 ^ 32 % 2 ^ 32)) ∧
      (dw.val = 4 * v.val + 2 → reads (e.data % 2 ^ 32)) ∧ (dw.val = 4 * v.val + 3 → reads (b2n e.mask)) ∧
      (dw.val = 1024 + v.val / 32 → Runs (.pcieConfigWrite (.read dw)) s fun s' =>
        bit s'.readData (v.val % 32) = decide (v.val ∈ s.msixPend) ∧ s' = { s with readData := s'.readData })))

/-- HOST_SQDB to VECTOR_RESEND (R325–R336); doorbells of queues not live and failed reads of entries are as assumptions 73 and 75
read them. -/
def Obligations.HostQueueFlow : Prop :=
  ∀ (s : State) (q : Fin 65),
    let x := hqAt s q
    let onlyQ := fun s' : State => ∀ p, p ≠ q.val → hqAt s' p = hqAt s p
    let bad := fun (k lo : Nat) (s' : State) => s' = { s with regs := s'.regs } ∧ regB s' pgHost 0x011 k = true ∧
      regF s' pgHost 0x01C lo 16 = min 65535 (regF s pgHost 0x01C lo 16 + 1) ∧
      (∀ p o, o < 1024 → (p ≠ pgHost ∨ (o ≠ 0x011 ∧ o ≠ 0x01C)) → reg s' p o = reg s p o)
    let slotAt := fun (s' : State) (i : Nat) (y : HSlot) => (hqAt s' q).slots[i]? = some y ∧
      (∀ j, j ≠ i → (hqAt s' q).slots[j]? = x.slots[j]?)
    let malfs := fun s' : State => regF s' pgHost (0x103 + 4 * q) 16 16 = min 65535 (regF s pgHost (0x103 + 4 * q) 16 16 + 1)
    (∀ (w : Who) (v : BitVec 12),
      (regGate s w pgHost (0x100 + 4 * q) = .ok →
        (x.sqLive = true → v.toNat < x.sqSize → Runs (.hostSqdb w q v) s fun s' =>
          hqAt s' q = { x with sqHead := v.toNat } ∧ onlyQ s' ∧ s' = { s with hq := s'.hq }) ∧
        (x.sqLive = false ∨ x.sqSize ≤ v.toNat → Runs (.hostSqdb w q v) s (bad 2 0))) ∧
      (regGate s w pgHost (0x101 + 4 * q) = .ok →
        let n := max 1 x.cqSize
        let ok := x.cqLive = true ∧ v.toNat < x.cqSize ∧ (v.toNat + n - x.cqTail) % n ≤ (x.cqHead + n - x.cqTail) % n
        (ok → Runs (.hostCqdb w q v) s fun s' => hqAt s' q = { x with cqTail := v.toNat } ∧ onlyQ s' ∧
          s' = { s with hq := s'.hq }) ∧
        (¬ok → Runs (.hostCqdb w q v) s (bad 2 0)))) ∧
    (fetchNext s = some q.val → hostIface s = 0 → Runs .sqFetch s fun s' => s'.hqLast = q.val ∧ onlyQ s' ∧
      s'.out = s.out ++ [.other "pcie-read" [x.sqBase + 64 * x.sqTail, 64]] ∧ s'.mem = s.mem ∧ s'.regs = s.regs ∧
      (hqAt s' q).sqTail = (x.sqTail + 1) % max 1 x.sqSize ∧ (hqAt s' q).sqHead = x.sqHead ∧
      ∃ y, slotAt s' x.slots.length y ∧ y.st = .reading ∧ y.slot = x.next) ∧
    (∀ (i : Nat) (y : HSlot) (bs : List Byte), hostEn s = true → domUp s domLink = true → readingSlot s q = some (i, y) →
      y.st = .reading → hostIface s = 0 → bs.length = 64 →
      let c := entryCheck s q bs
      let landed := fun s' : State => onlyQ s' ∧ s'.out = s.out ∧
        (∀ k, k < 16 → memGet s' (slotPa x y.slot + k) = wd (numAt bs (4 * k) 4)) ∧
        (∀ a, (∀ k, k < 16 → a ≠ slotPa x y.slot + k) → memGet s' a = memGet s a)
      (c ≠ 0 → Runs (.hostReadCompletion q true bs) s fun s' => landed s' ∧ malfs s' ∧
        ∃ z, slotAt s' i z ∧ z.st = .finished c 0 ∧ z.cid = numAt bs 2 2) ∧
      (c = 0 → (numAt bs 1 1 / 16 % 2 = 1 ∨ numAt bs 16 4 = 0) → Runs (.hostReadCompletion q true bs) s fun s' => landed s' ∧
        ∃ z, slotAt s' i z ∧ z.st = (if q.val = 0 ∧ numAt bs 0 1 < 0x40 then .exec else .ready) ∧
          z.opc = numAt bs 0 1 ∧ z.cid = numAt bs 2 2 ∧ z.dptr = numAt bs 8 8 ∧ z.dlen = numAt bs 16 4 ∧ z.slot = y.slot) ∧
      (Runs (.hostReadCompletion q false bs) s fun s' => onlyQ s' ∧ s'.mem = s.mem ∧ malfs s' ∧
        slotAt s' i { y with st := .finished 0x0003 0 })) ∧
    (∀ i y t, readingSlot s q = some (i, y) → y.st = .copying t → t + 50000 ≤ s.now → Runs (.completionTimeout q) s fun s' =>
      onlyQ s' ∧ s'.mem = s.mem ∧ malfs s' ∧ slotAt s' i { y with st := .finished 0x0003 0 }) ∧
    (∀ i y, findPos (fun e => decide (e.st = .ready)) x.slots = some i → x.slots[i]? = some y → y.slot < 64 → y.pri < 16 →
      domUp s domTrel = true → x.hopper < 254 → hopSlots s x.hopper ≠ 0 → hopFull s x.hopper = false → Runs (.handover q) s fun s' =>
        onlyQ s' ∧ s'.mem = s.mem ∧ slotAt s' i { y with st := .handed } ∧
        (x.dlevel = 0 ∨ regF s (pgHop x.hopper) (hopBase x.hopper + 1) 0 2 = 0 →
          UnitRaised x.dlevel x.dunit (48 + x.dbin) s s') ∧
        (hopAt s' x.hopper).items = (hopAt s x.hopper).items ++ [wd (y.slot + 2 ^ 6 * q.val + 2 ^ 32 + 2 ^ 36 * y.pri)]) ∧
    (∀ (w : Who) (k : BitVec 6) (st : BitVec 16), regGate s w pgHost 0x01B = .ok →
      let pos := findPos (fun e => decide (e.slot = k.toNat) && decide (e.st = .handed)) x.slots
      let done := Runs (.hostCpl w (BitVec.ofNat 7 q) k st) s
      (∀ i y, pos = some i → x.slots[i]? = some y →
        let r := getF (memGet s (slotPa x k.toNat + 15)) 0 32
        done fun s' => onlyQ s' ∧ s' = { s with hq := s'.hq } ∧
          slotAt s' i { y with st := if y.dir && decide (0 < y.dlen) then .writing st.toNat r else .finished st.toNat r }) ∧
      (pos = none → k.toNat ∉ x.orphans → done (bad 3 16))) ∧
    (∀ i y st r, findPos (fun e => match e.st with | .writing _ _ => true | _ => false) x.slots = some i →
      x.slots[i]? = some y → y.st = .writing st r → hostIface s = 0 →
      (Runs (.dataWriteBack q true) s fun s' => onlyQ s' ∧ slotAt s' i { y with st := .finished st r } ∧
        -- posted writes of at most 256 bytes (R321)
        (let bs := (shedBytes s (slotPa x y.slot + 16) y.dlen).map (·.toNat)
         s'.out = s.out ++ (List.range ((bs.length + 255) / 256)).map fun k =>
           .other "pcie-write" ((y.dptr + 256 * k) :: (bs.drop (256 * k)).take 256)) ∧
        s' = { s with hq := s'.hq, out := s'.out }) ∧
      (Runs (.dataWriteBack q false) s fun s' => onlyQ s' ∧ slotAt s' i { y with st := .finished 0x0003 r } ∧
        s' = { s with hq := s'.hq })) ∧
    (∀ y rest st r, hostEn s = true → domUp s domLink = true → hostIface s = 0 → x.cqLive = true → x.held = [] →
      x.slots = y :: rest → y.st = .finished st r → y.eff = .none → ((hqAt s 0).slots.any slotWaits = false) →
      ((x.cqHead + 1) % max 1 x.cqSize ≠ x.cqTail → Runs (.recordPublish q) s fun s' => onlyQ s' ∧ s'.mem = s.mem ∧
        (hqAt s' q).cqHead = (x.cqHead + 1) % max 1 x.cqSize ∧ (hqAt s' q).slots = rest ∧ (hqAt s' q).held = [] ∧
        (let open' := match x.window with | some (e, _) => decide (s.now < e) | none => false
         s'.out = s.out ++ [.other "pcie-write" [x.cqBase + 16 * x.cqHead, r, q + 2 ^ 16 * x.sqTail, y.cid + 2 ^ 16 * st, 0],
            .other "pcie-write" [x.headAddr, (x.cqHead + 1) % max 1 x.cqSize]] ++
          (match x.vec with
           | some v =>
             let m := Tbl.get (fun _ => MsixEnt.reset) s.msixTab v
             if !open' && msixOk s && !m.mask then [.msix v m.addr m.data] else []
           | none => []))) ∧
      ((x.cqHead + 1) % max 1 x.cqSize = x.cqTail → Runs (.recordPublish q) s fun s' => s' = { s with hq := s'.hq } ∧
        onlyQ s' ∧ hqAt s' q = { x with slots := rest, held := [{ cid := y.cid, status := st, result := r, eff := .none }] })) ∧
    (∀ e advanced, x.window = some (e, advanced) → e ≤ s.now →
      (∀ v, x.cqLive = true → advanced = true → x.vec = some v → hostIface s = 0 → msixOk s = true →
        ((Tbl.get (fun _ => MsixEnt.reset) s.msixTab v).mask = false → Runs (.vectorResend q) s fun s' =>
          s'.out = s.out ++ [.msix v (Tbl.get (fun _ => MsixEnt.reset) s.msixTab v).addr
            (Tbl.get (fun _ => MsixEnt.reset) s.msixTab v).data] ∧ onlyQ s' ∧
          hqAt s' q = { x with window := if x.ihold = 0 then none else some (s.now + x.ihold, false) } ∧
          s' = { s with hq := s'.hq, out := s'.out }) ∧
        -- a masked vector pends and opens no window
        ((Tbl.get (fun _ => MsixEnt.reset) s.msixTab v).mask = true → Runs (.vectorResend q) s fun s' => v ∈ s'.msixPend ∧
          onlyQ s' ∧ hqAt s' q = { x with window := none } ∧ s' = { s with hq := s'.hq, msixPend := s'.msixPend })) ∧
      (x.cqLive = false ∨ advanced = false → Runs (.vectorResend q) s fun s' => hqAt s' q = { x with window := none } ∧
        onlyQ s' ∧ s' = { s with hq := s'.hq }))

/-- CREATE_CQ, CREATE_SQ, DELETE_SQ, DELETE_CQ, HOST_ENABLE, HOST_DISABLE (R324, R332, R337). -/
def Obligations.HostQueueAdmin : Prop :=
  (∀ (s : State) (opc i : Nat) (y : HSlot), adminTurn s opc = some (i, y) →
    let q := slotNum s (hqAt s 0) y.slot 24 2
    let size := slotNum s (hqAt s 0) y.slot 26 2
    let ends := fun (st : Nat) (e : HEffect) (s' : State) => (hqAt s' 0).slots[i]? = some { y with st := .finished st 0, eff := e } ∧
      (∀ j, j ≠ i → (hqAt s' 0).slots[j]? = (hqAt s 0).slots[j]?) ∧ s'.adminLast = (opc, st, 0) ∧
      s' = { s with hq := s'.hq, adminLast := s'.adminLast }
    let others := fun s' : State => ∀ p, p ≠ 0 → p ≠ q → hqAt s' p = hqAt s p
    let same := fun s' : State => ∀ p, p ≠ 0 → hqAt s' p = hqAt s p
    (opc = 3 →
      ((q = 0 ∨ 64 < q ∨ (hqAt s q).cqLive = true) → Runs .createCq s fun s' => ends 5 .none s' ∧ same s') ∧
      (0 < q → q ≤ 64 → (hqAt s q).cqLive = false → (size < 2 ∨ 4096 < size) → Runs .createCq s fun s' =>
        ends 6 .none s' ∧ same s') ∧
      (∀ e, createCq s y = (0, e) → Runs .createCq s fun s' => ends 0 e s' ∧ same s' ∧
        ∃ vec ihold head, e = .createCq q y.dptr size vec ihold head)) ∧
    (opc = 1 →
      ((q = 0 ∨ 64 < q ∨ (hqAt s q).sqLive = true ∨ (hqAt s q).cqLive = false) → Runs .createSq s fun s' =>
        ends 5 .none s' ∧ same s') ∧
      (0 < q → q ≤ 64 → (hqAt s q).sqLive = false → (hqAt s q).cqLive = true → (size < 2 ∨ 4096 < size) →
        Runs .createSq s fun s' => ends 6 .none s' ∧ same s') ∧
      (let f := slotNum s (hqAt s 0) y.slot
       let words := f 36 1 * (16 + f 38 2)
       -- the ring: on 64 bytes of host memory, or on an entry's 16 words in Shed
       let ring := (hostIface s = 0 → y.dptr % 64 = 0) ∧
         (hostIface s ≠ 0 → y.dptr % 16 = 0 ∧ 0x04000000 ≤ y.dptr ∧ y.dptr + 16 * size ≤ 0x04400000)
       let door := (f 30 1 = 0 ∧ f 31 1 < 128) ∨ (f 30 1 = 1 ∧ f 31 1 < 16) ∨ (f 30 1 = 2 ∧ f 31 1 < 4) ∨ (f 30 1 = 3 ∧ f 31 1 = 0)
       -- the landing region: in Shed outside the Nursery's region, apart from those of the live queues
       let land := f 32 4 + words ≤ 0x400000 ∧ (f 32 4 + words ≤ 0x1C0000 ∨ 0x200000 ≤ f 32 4) ∧
         (∀ p, p < 65 → (hqAt s p).sqLive = true → f 32 4 + words ≤ (hqAt s p).land ∨
           (hqAt s p).land + (hqAt s p).landn * (16 + (hqAt s p).dbufw) ≤ f 32 4)
       0 < q → q ≤ 64 → (hqAt s q).sqLive = false → (hqAt s q).cqLive = true → 2 ≤ size → size ≤ 4096 → ring → y.dlen = 0 →
         f 28 1 < 254 → hopSlots s (f 28 1) ≠ 0 → f 29 1 < 8 → door → 0 < f 36 1 → f 36 1 ≤ 64 → f 38 2 ≤ 1024 → land →
         Runs .createSq s fun s' => same s' ∧
           ends 0 (.createSq q y.dptr size (f 28 1) (f 29 1) (f 30 1) (f 31 1) (f 32 4) (f 36 1) (f 38 2)) s')) ∧
    (opc = 2 →
      ((q = 0 ∨ 64 < q ∨ (hqAt s q).sqLive = false) → Runs .deleteSq s fun s' => ends 5 y.eff s' ∧ same s') ∧
      (0 < q → q ≤ 64 → (hqAt s q).sqLive = true →
        ((hqAt s q).slots ≠ [] → Runs .deleteSq s fun s' => (hqAt s' q).deleting = true ∧ (hqAt s' q).sqLive = true ∧
          others s' ∧ (hqAt s' 0).slots[i]? = some { y with st := .deleting q } ∧
          s' = { s with hq := s'.hq, adminLast := s'.adminLast }) ∧
        ((hqAt s q).slots = [] → (hqAt s q).held = [] → Runs .deleteSq s fun s' => ends 0 y.eff s' ∧ others s' ∧
          (hqAt s' q).sqLive = false ∧ (hqAt s' q).deleting = false))) ∧
    (opc = 4 →
      ((64 < q ∨ (hqAt s q).cqLive = false) → Runs .deleteCq s fun s' => ends 5 y.eff s' ∧ same s') ∧
      (q ≤ 64 → (hqAt s q).cqLive = true → (hqAt s q).sqLive = true → Runs .deleteCq s fun s' =>
        ends 7 y.eff s' ∧ same s') ∧
      (0 < q → q ≤ 64 → (hqAt s q).cqLive = true → (hqAt s q).sqLive = false → Runs .deleteCq s fun s' =>
        ends 0 y.eff s' ∧ others s' ∧ hqAt s' q = { hqAt s q with cqLive := false, held := [], window := none }))) ∧
  (∀ (s : State) (w : Who), regGate s w pgHost 0x010 = .ok →
    (hostEn s = false → hostCanEnable s = true → hostBusy s = false → Runs (.hostEnable w) s fun s' => hostEn s' = true ∧
      hqAt s' 0 = adminQueue s ∧ (∀ p, p ≠ 0 → hqAt s' p = hqAt s p) ∧ s'.hqEnHeld = false ∧ s'.mem = s.mem) ∧
    (hostEn s = false → hostCanEnable s = true → hostBusy s = true → Runs (.hostEnable w) s fun s' => hostEn s' = false ∧
      s'.hqEnHeld = true ∧ s'.hq = s.hq) ∧
    (hostEn s = false → hostCanEnable s = false → Runs (.hostEnable w) s fun s' => hostEn s' = false ∧ s'.hq = s.hq) ∧
    (hostEn s = true → Runs (.hostDisable w) s fun s' => hostEn s' = false ∧ s'.hqEnHeld = false ∧
      s'.hostSess.level = 0 ∧ s'.mem = s.mem ∧
      (∀ p, p < 65 → (hqAt s' p).sqLive = false ∧ (hqAt s' p).cqLive = false ∧ (hqAt s' p).slots = [] ∧
        (hqAt s' p).orphans = (hqAt s p).orphans ++
          (((hqAt s p).slots.filter fun e => decide (e.st = .handed)).map (·.slot)))))

/-- What a MAC's command may change: MACs, streams, their FIFOs, gauges, free values, output and, of the registers, those of
MAC `m`'s page at `offs`; the other MAC stays as it was. -/
structure MacOnly (m : Nat) (offs : List Nat) (s s' : State) : Prop where
  fields : s' = { s with regs := s'.regs, macs := s'.macs, strms := s'.strms, fifo := s'.fifo, gauges := s'.gauges, free := s'.free, out := s'.out }
  regs : ∀ p o, o < 1024 → (p ≠ pgEth m ∨ o ∉ offs) → reg s' p o = reg s p o
  others : ∀ k, k ≠ m → macAt s' k = macAt s k

/-- A received frame that goes nowhere: one half of the MAC's discard counts counts it, and nothing else happens. -/
def FrameDropped (m lo : Nat) (s s' : State) : Prop :=
  s' = { s with regs := s'.regs } ∧ (∀ p o, o < 1024 → (p ≠ pgEth m ∨ o ≠ 0x016) → reg s' p o = reg s p o) ∧
    regF s' (pgEth m) 0x016 lo 16 = min 65535 (regF s (pgEth m) 0x016 lo 16 + 1) ∧
    regF s' (pgEth m) 0x016 (16 - lo) 16 = regF s (pgEth m) 0x016 (16 - lo) 16

/-- A 16-bit count of a stream after `n` more. -/
def countUp (w : Word) (lo n : Nat) : Word := setF w lo 16 (min 65535 (getF w lo 16 + n))

/-- The first frame of queue `q` that MAC `m` holds may start at gPTP time `t`: its class's credit is not negative and its gate
stays open for it and its gap (R341–R343). -/
def Eligible (s : State) (m t q : Nat) (f : EFrame) : Prop :=
  (macAt s m).frames.find? (fun e => decide (e.queue = q)) = some f ∧ (q = 2 → 0 ≤ (macAt s m).credA) ∧
    (q = 1 → 0 ≤ (macAt s m).credB) ∧
    gateOk s m q (wireNs (portRate s m) f.len) t = true

/-- Frames join the end of MAC `m`'s list; its other frames and the output stay. -/
def Queued (m : Nat) (l : List (Nat × Option Nat × List Nat)) (s s' : State) : Prop :=
  (∃ fs : List EFrame, (macAt s' m).frames = (macAt s m).frames ++ fs ∧ fs.map (fun f => (f.queue, f.tag, f.data)) = l) ∧
    s'.out = s.out

/-- ETH_FRAME_RECEIVE to CRF_TALKER_PDU (R339–R353). Frame lengths of gPTP and CRF messages are the model's own (NOTES.md), and
nothing is said of them; the announce timeout is assumption 124's, the CRF events assumption 120's, their PDU's tag assumption
122's, where a bad FCS and an overlong frame count assumption 71's, the AAF depth assumption 154's. -/
def Obligations.EthernetFrames : Prop :=
  (∀ (s : State) (m : Fin 2), ethOn s m = true →
    (∀ (len : Nat) (et : BitVec 16) (sid : BitVec 64),
      Runs (.ethFrameReceive m len false et sid) s (FrameDropped m 16 s) ∧
      (1522 < len → Runs (.ethFrameReceive m len true et sid) s (FrameDropped m 0 s)) ∧
      (len ≤ 1522 → frameClass s m et.toNat sid.toNat = none →
        Runs (.ethFrameReceive m len true et sid) s (FrameDropped m 0 s)) ∧
      (∀ k, len ≤ 1522 → frameClass s m et.toNat sid.toNat = some k →
        Runs (.ethFrameReceive m len true et sid) s fun s' => s'.out = s.out ++ [.other "eth-rx" [m.val, k]] ∧
          (k ≠ 80 → s' = { s with out := s'.out }) ∧
          -- a PDU of the CRF listener is a reference of the PLL (R353)
          (k = 80 → macAt s' m = { macAt s m with crfAt := some s.now } ∧ (∀ j, j ≠ m.val → macAt s' j = macAt s j) ∧
            s' = { s with out := s'.out, macs := s'.macs }))) ∧
    let same := fun s' : State => s' = s
    (ptpOn s m = true →
      let heard := ∃ t, (macAt s m).master = some t ∧ s.now < t + 3000000
      let status := fun (gm : Bool) (s' : State) => regB s' (pgEth m) 0x019 1 = gm ∧
        (regB s' (pgEth m) 0x019 0 = true ↔ gm = false ∧ 8 ≤ (macAt s' m).offs.length ∧
          ∀ o ∈ (macAt s' m).offs.take 8, -1000 ≤ o ∧ o ≤ 1000)
      let frame := fun s' : State => MacOnly m [0x019] s s' ∧ s'.strms = s.strms ∧ s'.fifo = s.fifo
      let offset := fun (o : Int) (s' : State) => status false s' ∧ frame s' ∧
        (macAt s' m).offs = (o :: (macAt s m).offs).take 8 ∧ regF s' (pgEth m) 0x019 2 30 = modI 30 o ∧
        (macAt s' m).syncWait = false ∧ Queued m [] s s'
      -- an Announce of a better master: a lower priority1, or a tie that it wins
      (∀ (p : BitVec 8) (tie : Bool) (o : Int),
        let better := p.toNat < regF s (pgEth m) 0x018 1 8 ∨ (p.toNat = regF s (pgEth m) 0x018 1 8 ∧ tie = true)
        (better → Runs (.gptpMessage m (.announce p tie) o) s fun s' => status false s' ∧ frame s' ∧
          macAt s' m = { macAt s m with master := some s.now } ∧ s'.out = s.out) ∧
        (¬better → Runs (.gptpMessage m (.announce p tie) o) s same)) ∧
      (∀ o : Int,
        (heard → Runs (.gptpMessage m (.sync false) o) s (offset o) ∧
          Runs (.gptpMessage m (.sync true) o) s (fun s' => macAt s' m = { macAt s m with syncWait := true } ∧
            s' = { s with macs := s'.macs } ∧ MacOnly m [] s s') ∧
          ((macAt s m).syncWait = true → Runs (.gptpMessage m .followUp o) s (offset o))) ∧
        (¬heard → ∀ two : Bool, Runs (.gptpMessage m (.sync two) o) s same ∧ Runs (.gptpMessage m .followUp o) s same)) ∧
      (∀ o : Int,
        Runs (.gptpMessage m .pdelayReq o) s (fun s' => frame s' ∧ Queued m [(3, none, [3]), (3, none, [4])] s s') ∧
        Runs (.gptpMessage m .pdelayResp o) s same) ∧
      -- a station that hears no better master is grandmaster: Sync and Follow_Up, and once a second Announce (R340, R345)
      (∀ sub : Fin 1000,
        (∀ t, (macAt s m).syncAt = some t → t + 1000000 / 2 ^ min 5 (regF s (pgEth m) 0x018 9 3) ≤ s.now) →
        Runs (.syncInterval m sub) s fun s' => frame s' ∧ (macAt s' m).syncAt = some s.now ∧ ∃ (gm second : Bool),
          (gm = true ↔ ¬heard) ∧ (second = true ↔ ∀ t, (macAt s m).annAt = some t → t + 1000000 ≤ s.now) ∧ status gm s' ∧
          Queued m ((if gm then [(3, none, [0]), (3, none, [1])] else []) ++ (if second && gm then [(3, none, [5])] else []) ++
            (if second then [(3, none, [2])] else [])) s s') ∧
      (∀ (sub : Fin 1000) (t : Nat), (macAt s m).syncAt = some t →
        s.now < t + 1000000 / 2 ^ min 5 (regF s (pgEth m) 0x018 9 3) → Runs (.syncInterval m sub) s same)) ∧
    -- six events, TSI sample instants apart, since the PDU before; five since the talker's start and the PLL's (R353, assumption 120)
    (∀ ev : CrfEvents, regB s (pgEth m) 0x0C8 0 = true → regB s (pgEth m) 0x0C8 1 = true →
      let tsi := regF s (pgEth m) 0x0C8 3 16
      let ticks := crfTicks (reg s (pgEth m) 0x0C8)
      let due := s.pllRuns = true ∧ (macAt s m).crfDue ≤ s.now + 1 ∧ s.pllFrom + ticks (5 * tsi) ≤ s.now + 1
      (due → Runs (.crfTalkerPdu m ev) s fun s' => s' = { s with macs := s'.macs } ∧ MacOnly m [] s s' ∧
        (macAt s' m).crfDue = s.now + ticks (6 * tsi) ∧
        Queued m [(3, some Config.plainTag, [4, ev.t0, ev.t1, ev.t2, ev.t3, ev.t4, ptpNow s m ev.sub])] s s') ∧
      (¬due → Runs (.crfTalkerPdu m ev) s same)) ∧
    (∀ (sub : Fin 1000) (tenth : Fin 10) (psub : Fin 1000),
      let t := wireAt s sub tenth
      let s1 := macCredits m t s
      let at' := ptpNow s m psub
      (t < (macAt s m).gapEnd → Runs (.macTransmit m sub tenth psub) s fun s' => s' = s) ∧
      ((macAt s m).gapEnd ≤ t → Runs (.macTransmit m sub tenth psub) s fun s' =>
        MacOnly m [] s s' ∧ s'.strms = s.strms ∧ s'.fifo = s.fifo ∧
        (macAt s' m).credA = (macAt s1 m).credA ∧ (macAt s' m).credB = (macAt s1 m).credB ∧
        (((∀ q f, q < 4 → ¬Eligible s1 m at' q f) ∧ s'.out = s.out ∧ (macAt s' m).frames = (macAt s m).frames) ∨
          ∃ f, f.queue < 4 ∧ Eligible s1 m at' f.queue f ∧ (∀ q g, f.queue < q → q < 4 → ¬Eligible s1 m at' q g) ∧
            s'.out = s.out ++ [.other "eth-tx" ([m.val, f.queue, f.len] ++
              (match f.tag with | some v => [1, v] | none => [0]) ++ f.data)] ∧
            (macAt s' m).frames = (macAt s m).frames.erase f ∧ (macAt s' m).lastQ = f.queue ∧
            (macAt s' m).txEnd = t + frameTime (portRate s m) f.len ∧
            (macAt s' m).gapEnd = (macAt s' m).txEnd + gapTime (portRate s m))))) ∧
  (∀ (s : State) (m : Fin 2) (i : Fin 64) (sub : Fin 1000),
    let k := strmNo m false i
    let key := strmKey k
    let q := fifoAt s key
    let x := strmAt s k
    let now := ptpNow s m sub % 2 ^ 32
    let enters := fun (q : List Word) (x : Strm) (ws : List Word) (s' : State) => s'.macs = s.macs ∧ s'.out = s.out ∧
      s'.mem = s.mem ∧ (∀ j, j ≠ key → fifoAt s' j = fifoAt s j) ∧ (∀ j, j ≠ k → strmAt s' j = strmAt s j) ∧
      (q.length + ws.length ≤ strmDepth s m false i → fifoAt s' key = q ++ ws ∧ strmAt s' k = x ∧ s'.regs = s.regs) ∧
      (strmDepth s m false i < q.length + ws.length → fifoAt s' key = q ∧ strmAt s' k = { x with cnt1 := countUp x.cnt1 0 1 } ∧
        regB s' (pgEth m) (strmB false i + 5) 13 = true ∧
        ∀ p o, o < 1024 → (p ≠ pgEth m ∨ o ≠ strmB false i + 5) → reg s' p o = reg s p o)
    (domUp s domLink = true → bit (strmCfg s m false i) 0 = true →
      (∀ a e b, x.sched = a ++ e :: b → (now + 2 ^ 32 - e.1) % 2 ^ 32 < 2 ^ 31 →
        (∀ y ∈ a, 2 ^ 31 ≤ (now + 2 ^ 32 - y.1) % 2 ^ 32) →
        Runs (.listenerPresent m i sub) s (enters q { x with sched := a ++ b } e.2)) ∧
      ((∀ y ∈ x.sched, 2 ^ 31 ≤ (now + 2 ^ 32 - y.1) % 2 ^ 32) → Runs (.listenerPresent m i sub) s fun s' => s' = s)) ∧
    (∀ (fmt : AafFormat) (ch nsr : Nat) (seq : BitVec 8) (tv : Bool) (ts : BitVec 32) (raw : List Nat), ethOn s m = true →
      bit (strmCfg s m false i) 0 = true →
      let cfg := strmCfg s m false i
      let fits := fmt.code = getF cfg 3 2 ∧ fmt.depth = fmtBits (getF cfg 3 2) ∧ ch = getF cfg 5 5 + 1 ∧ nsr = getF cfg 16 4
      let lost := match x.expect with | some e => (seq.toNat + 256 - e) % 256 | none => 0
      (¬fits → Runs (.listenerFrame m i fmt ch nsr seq tv ts raw sub) s (FrameDropped m 0 s)) ∧
      (fits → 128 ≤ lost → Runs (.listenerFrame m i fmt ch nsr seq tv ts raw sub) s fun s' => s' = { s with strms := s'.strms } ∧
        strmAt s' k = { x with cnt0 := countUp x.cnt0 16 1 } ∧ ∀ j, j ≠ k → strmAt s' j = strmAt s j) ∧
      (fits → lost < 128 →
        let q' := if 9 ≤ lost then [] else q
        let sched' := if 9 ≤ lost then [] else x.sched
        let ws := (if lost ≤ 8 then List.replicate (lost * ((getF cfg 10 6 + 1) * ch)) 0 else []) ++
          raw.map fun v => wi (sx (fmtBits (getF cfg 3 2)) v * (2 ^ (37 - fmtBits (getF cfg 3 2)) : Nat))
        let pres := if tv then ts.toNat else
          match x.pres with | some p => (p + frameSpanNs cfg) % 2 ^ 32 | none => now
        let nx := some ((seq.toNat + 1) % 256)
        let y := { x with expect := nx, pres := some pres, cnt0 := countUp x.cnt0 0 lost, sched := sched' }
        (2 ^ 31 ≤ (pres + 2 ^ 32 - now) % 2 ^ 32 → Runs (.listenerFrame m i fmt ch nsr seq tv ts raw sub) s (enters q' { y with cnt0 := countUp y.cnt0 16 1 } ws)) ∧
        ((pres + 2 ^ 32 - now) % 2 ^ 32 < 2 ^ 31 → Runs (.listenerFrame m i fmt ch nsr seq tv ts raw sub) s fun s' => s' = { s with strms := s'.strms, fifo := s'.fifo } ∧
          fifoAt s' key = q' ∧ strmAt s' k = { y with sched := sched' ++ [(pres, ws)] } ∧
          (∀ j, j ≠ key → fifoAt s' j = fifoAt s j) ∧ ∀ j, j ≠ k → strmAt s' j = strmAt s j)))) ∧
  (∀ (s : State) (m : Fin 2) (i : Fin 64) (sub : Fin 1000), strmRuns s m true i = true →
    let cfg := strmCfg s m true i
    let k := strmNo m true i
    let key := strmKey k
    let q := fifoAt s key
    let x := strmAt s k
    let n := (getF cfg 5 5 + 1) * (getF cfg 10 6 + 1)
    let w := fmtBits (getF cfg 3 2)
    let code := getF cfg 27 3
    Runs (.talkerFrame m i sub) s fun s' =>
      MacOnly m [strmB true i + 5] s s' ∧ s'.out = s.out ∧ s'.free = s.free ∧ (strmAt s' k).seq = (x.seq + 1) % 256 ∧
      (∀ j, j ≠ key → fifoAt s' j = fifoAt s j) ∧ (∀ j, j ≠ k → strmAt s' j = strmAt s j) ∧
      ∃ ys, ys.length = n ∧
        (macAt s' m).frames = (macAt s m).frames ++ [{
          queue := if bit cfg 2 then 1 else 2, len := 46 + n * (w / 8)
          tag := some (regF s (pgEth m) (strmB true i + 4) 16 12 +
            4096 * regF s (pgEth m) 0x010 (if bit cfg 2 then 6 else 3) 3)
          data := [3, i.val, x.seq, (ptpNow s m sub + 1000 * regF s (pgEth m) (strmB true i + 4) 28 12) % 2 ^ 32] ++ ys }] ∧
        (q.length < n → ys = List.replicate n 0 ∧ fifoAt s' key = q ∧ regB s' (pgEth m) (strmB true i + 5) 13 = true ∧
          (strmAt s' k).cnt1 = countUp x.cnt1 0 1) ∧
        (n ≤ q.length → fifoAt s' key = q.drop n ∧
          (usesA code = false → usesB code = false →
            ys = (q.take n).map fun v => modI 32 (narrowSample code v w x.dthA x.dthB).1)))

/-- GCL_CYCLE_START to ETH_LINK_DOWN and APLL_RUN_WRITE to PLL_LOSS (R342, R343, R345, R347, R348, R351, R352); the beginning of
the 16 windows is assumption 125's, that a schedule with a CYCLE out of range is not taken up assumption 65's. -/
def Obligations.EthernetSettings : Prop :=
  (∀ (s : State) (w : Who) (m : Fin 2),
    let pg := pgEth m
    let x := macAt s m
    -- entry `i` of list `b` is in force from gPTP time `t` on, in the cycle that began at `c`
    let gcl := fun (b : Bool) (i t c : Nat) (sw : Option Nat) (s' : State) =>
      let e := reg s pg ((if b then 0x080 else 0x040) + i)
      macAt s' m = { x with swap := sw, entry := i, entAt := t, cycle := some c, gates := getF e 0 3 } ∧
        MacOnly m (if i = 0 then [0x020] else []) s s' ∧ s' = { s with macs := s'.macs, regs := s'.regs }
    let flag := fun s' : State => regB s' pg 0x011 1 = true ∧ MacOnly m [0x011] s s' ∧ s' = { s with regs := s'.regs }
    let only := fun (off : Nat) (v : Word) (s' : State) =>
      reg s' pg off = v ∧ MacOnly m [off] s s' ∧ s' = { s with regs := s'.regs }
    (domUp s domLink = true → regB s pg 0x020 0 = true →
      let cyc := regF s pg 0x021 0 30
      let base := (reg s pg 0x022).toNat * 1000000000 + (reg s pg 0x023).toNat
      let e := ptpNow s m 999
      -- cycles start at BASE + k · CYCLE, for a CYCLE of 1 µs to 1 s (R340, R343)
      (let start := base + (e - base) / cyc * cyc
       let b := regB s pg 0x020 1
       let armed := ∃ t, x.swap = some t ∧ t < start
       (1000 ≤ cyc → cyc ≤ 1000000000 → base ≤ e → x.cycle ≠ some start →
         (armed → Runs (.gclCycleStart m) s fun s' => regB s' pg 0x020 1 = !b ∧ gcl (!b) 0 start start none s') ∧
         (¬armed → Runs (.gclCycleStart m) s fun s' => s'.regs = s.regs ∧ gcl b 0 start start x.swap s')) ∧
       (cyc < 1000 ∨ 1000000000 < cyc ∨ e < base ∨ x.cycle = some start →
         Runs (.gclCycleStart m) s fun s' => s' = s)) ∧
      (∀ c, x.cycle = some c →
        let t := x.entAt + regF s pg ((if regB s pg 0x020 1 then 0x080 else 0x040) + x.entry) 3 32
        let due := x.entry + 1 < gclCount s m (regB s pg 0x020 1) ∧ t < c + cyc ∧ t ≤ e
        (due → Runs (.gclEntryStart m) s (gcl (regB s pg 0x020 1) (x.entry + 1) t c x.swap)) ∧
        (¬due → Runs (.gclEntryStart m) s fun s' => s' = s))) ∧
    (regGate s w pg 0x024 = .ok → Runs (.gclSwap w m) s fun s' => macAt s' m = { x with swap := some (x.swap.getD (ptpNow s m 0)) } ∧
      s' = { s with macs := s'.macs } ∧ MacOnly m [] s s') ∧
    (∀ v : Word, regGate s w pg 0x018 = .ok →
      let refused := bit v 0 = true ∧ regB s pg 0x018 0 = false ∧ regB s (pgEth (1 - m)) 0x018 0 = true
      (refused → Runs (.ethPtpCfgWrite w m v) s flag) ∧
      (¬refused → Runs (.ethPtpCfgWrite w m v) s fun s' => reg s' pg 0x018 = v &&& wd 0xFFF ∧ MacOnly m [0x018, 0x019] s s' ∧
        (bit v 0 = false → reg s' pg 0x019 = 0 ∧
          macAt s' m = { x with offs := [], master := none, syncWait := false, syncAt := none, annAt := none }) ∧
        (bit v 0 = true → s' = { s with regs := s'.regs } ∧ reg s' pg 0x019 = reg s pg 0x019))) ∧
    (∀ sub : Fin 1000, regGate s w pg 0x01A = .ok → Runs (.ethPtpTimeRead w m sub) s fun s' =>
      s'.readData = wd (ptpNow s m sub % 1000000000) ∧ reg s' pg 0x01B = wd (ptpNow s m sub / 1000000000) ∧
      s' = { s with regs := s'.regs, readData := s'.readData } ∧ MacOnly m [0x01B] { s with readData := s'.readData } s') ∧
    (∀ (b : Bool) (v : Word), regGate s w pg (if b then 0x015 else 0x014) = .ok →
      let sum := getF v 0 32 + regF s pg (if b then 0x014 else 0x015) 0 32
      (3 * portRate s m < 4 * sum → Runs (.ethQavWrite w m b v) s flag) ∧
      (4 * sum ≤ 3 * portRate s m → Runs (.ethQavWrite w m b v) s fun s' =>
        let off := if b then 0x015 else 0x014
        reg s' pg off = wd (getF v 0 32) ∧ MacOnly m [off] s s' ∧ s' = { s with regs := s'.regs, macs := s'.macs } ∧
        -- the credits gained until now stay
        macAt s' m = macAt (macCredits m (wireAt s 0 0) s) m)) ∧
    (domUp s domLink = true →
      Runs (.ethLinkUp m) s (fun s' => ethLink s' m = true ∧ MacOnly m [0x011] s s' ∧ s' = { s with regs := s'.regs }) ∧
      Runs (.ethLinkDown m) s (fun s' => ethLink s' m = false ∧ (∀ t i, strmRuns s' m t i = false) ∧ MacOnly m [0x011] s s' ∧
        s' = { s with regs := s'.regs })) ∧
    (∀ (talk : Bool) (i : Fin 64) (v : Word),
      let b := strmB talk i
      let old := strmCfg s m talk i
      regGate s w pg b = .ok →
      let refused := fun s' : State => regB s' pg (b + 5) 14 = true ∧ s' = { s with regs := s'.regs }
      let tooBig := 64 < getF v 20 7 ∨ ethFree s m + strmDepth s m talk i < 16 * getF v 20 7
      (bit old 0 = true → strmFixed v ≠ strmFixed old → Runs (.strmCfgWrite w m talk i v) s fun s' =>
        refused s' ∧ MacOnly m [b + 5] s s') ∧
      (bit old 0 = false → tooBig → Runs (.strmCfgWrite w m talk i v) s fun s' => refused s' ∧ MacOnly m [b + 5] s s') ∧
      (bit old 0 = false → ¬tooBig → getF v 27 3 < 6 →
        (bit v 0 = false → Runs (.strmCfgWrite w m talk i v) s (only b (v &&& wd 0x3FFFFFFF))) ∧
        (bit v 0 = true → strmCanEnable s talk v = true → Runs (.strmCfgWrite w m talk i v) s fun s' =>
          strmCfg s' m talk i = v &&& wd 0x3FFFFFFF ∧ MacOnly m [b] s s' ∧ s' = { s with regs := s'.regs, strms := s'.strms } ∧
          (strmAt s' (strmNo m talk i)).expect = none ∧ (strmAt s' (strmNo m talk i)).sched = []) ∧
        (bit v 0 = true → strmCanEnable s talk v = false → Runs (.strmCfgWrite w m talk i v) s fun s' =>
          refused s' ∧ bit (strmCfg s' m talk i) 0 = false ∧ MacOnly m [b, b + 5] s s')))) ∧
  (∀ (s : State) (w : Who),
    let devOnly := fun (offs : List Nat) (s' : State) =>
      s' = { s with regs := s'.regs, pllRuns := s'.pllRuns, apllFrom := s'.apllFrom, pwmOn := s'.pwmOn, pwmClk := s'.pwmClk, hoes := s'.hoes } ∧
      ∀ p o, o < 1024 → (p ≠ pgDev ∨ o ∉ offs) → reg s' p o = reg s p o
    (regGate s w pgDev 0x050 = .ok →
      (apllOn s = false → Runs (.apllRunWrite w true) s fun s' => apllOn s' = true ∧ devOnly [0x050] s' ∧
        s'.apllFrom = s.now ∧ s'.pllRuns = s.pllRuns ∧ s'.hoes = s.hoes) ∧
      (apllOn s = true → apllUsed s = true → Runs (.apllRunWrite w false) s fun s' => regB s' pgDev 0x051 26 = true ∧
        apllOn s' = true ∧ s'.pllRuns = s.pllRuns ∧ devOnly [0x051] s') ∧
      (apllOn s = true → apllUsed s = false → Runs (.apllRunWrite w false) s fun s' => apllOn s' = false ∧
        pllLock s' = false ∧ regB s' pgDev 0x051 1 = false ∧ s'.pllRuns = false ∧ s'.pwmOn = false ∧ s'.pwmClk = 0 ∧ devOnly [0x050, 0x051] s') ∧
      (∀ (src : BitVec 2) (mc : Bool), Runs (.apllSrcChange w src mc) s fun s' => regF s' pgDev 0x050 0 2 = src.toNat ∧
        regB s' pgDev 0x050 2 = mc ∧ apllOn s' = apllOn s ∧ s'.pllRuns = s.pllRuns ∧ devOnly [0x050, 0x051] s' ∧
        (apllOn s = true → src.toNat ≠ regF s pgDev 0x050 0 2 → pllLock s' = false ∧ regB s' pgDev 0x051 1 = s.pllRuns ∧
          s'.apllFrom = s.now))) ∧
    (∀ e : Int,
      let src := regF s pgDev 0x050 0 2
      -- the reference is there: gPTP is synchronized or grandmaster, or a CRF PDU came in the last 4 ms (Table 15-2)
      let crf := ∃ t, (macAt s (b2n (regB s pgDev 0x050 2))).crfAt = some t ∧ s.now < t + 4000
      let here := (src = 2 → ptpGood s = true) ∧ (src = 3 → crf)
      -- 16 windows of 1 ms of it; and it has been absent for 4 ms
      let due := src = 0 ∨ (s.apllFrom + 16000 ≤ s.now ∧ ∃ t, s.refSince = some t ∧ t + 16000 ≤ s.now)
      let gone := src = 1 ∨ (src = 2 ∧ ptpGood s = false ∧ s.refLast + 4000 ≤ s.now) ∨ (src = 3 ∧ ¬crf)
      (apllOn s = true → pllLock s = false → here → due → -50 ≤ e → e ≤ 50 →
        Runs (.pllLock e) s fun s' => pllLock s' = true ∧ regB s' pgDev 0x051 1 = false ∧
        regF s' pgDev 0x051 2 24 = modI 24 (clamp 24 e) ∧ s'.pllRuns = true ∧ s'.mem = s.mem ∧ s'.fifo = s.fifo) ∧
      (apllOn s = false ∨ pllLock s = true ∨ ¬here ∨ ¬due ∨ e < -50 ∨ 50 < e → Runs (.pllLock e) s fun s' => s' = s) ∧
      (pllLock s = false ∨ (-1000 ≤ e ∧ e ≤ 1000 ∧ ¬gone) → Runs (.pllLoss e) s fun s' => s' = s) ∧
      (pllLock s = true → (e < -1000 ∨ 1000 < e ∨ gone) → Runs (.pllLoss e) s fun s' => pllLock s' = false ∧ s'.apllFrom = s.now ∧ regB s' pgDev 0x051 1 = true ∧
        regF s' pgDev 0x051 2 24 = modI 24 (clamp 24 e) ∧
        regF s' pgDev 0x052 0 16 = min 65535 (regF s pgDev 0x052 0 16 + 1) ∧ s'.mem = s.mem ∧ s'.fifo = s.fifo)))

/-- A command of the admin queue has ended with this status and result; memory is as it was. -/
def AdminEnds (opc status result : Nat) (s s' : State) : Prop :=
  s'.adminLast = (opc, status, result) ∧ s'.mem = s.mem

/-- The sequencer's stop job is the only domain that is stopping before its commit point, and no other stop command waits. -/
def StopsAgree (s : State) : Prop := (∀ d, domSt s d = .stopping → s.pwr.cmd.isSome = true ∧ ∃ t, s.pwr.stopping = some (d, t, none)) ∧
  s.pwr.cmdQ = []

/-- A DEVICE_STOP is under way. -/
def DeviceStopping (s : State) : Prop := ∃ c, s.pwr.cmd = some c ∧ c.kind = 2

/-- A Run request for the domains `ds` (R392, R393): one that runs or restores goes on, one that is stopping before its commit
point runs again, one in or past Stop is wanted or restores. -/
structure RunAsked (ds : List Nat) (s s' : State) : Prop where
  up : ∀ d ∈ ds, domSt s d = .run ∨ domSt s d = .restoring → domSt s' d = domSt s d
  back : ∀ d ∈ ds, domSt s d = .stopping → domSt s' d = .run
  down : ∀ d ∈ ds, domSt s d = .stop ∨ domSt s d = .closing → d ∈ s'.pwr.want ∨ domSt s' d = .restoring
  others : ∀ d, d ∉ ds → domSt s d ≠ .stop → domSt s' d = domSt s d

/-- A stop of `d` was aborted before its commit point by the refuser `r` (R391); a stop command that waited behind it goes on. -/
structure StopAborted (d : Nat) (r : Refuser) (s s' : State) : Prop where
  doms : ∀ x, domSt s' x = (if x = d then .run else domSt s x) ∨ (s.pwr.cmdQ ≠ [] ∧ s'.pwr.stopping = some (x, s.now, none))
  idle : s.pwr.cmdQ = [] → s'.pwr.stopping = none ∧ s'.pwr.cmd = none
  count : regF s' pgPwr 0x014 12 12 = min 4095 (regF s pgPwr 0x014 12 12 + 1)
  record : reg s' pgPwr 0x013 = wd (r.src + 2 ^ 10 * r.dom + 2 ^ 15 * r.reason + 2 ^ 19 + 2 ^ 20 * (s.now % 2 ^ 20))
  ends : ∀ c, s.pwr.cmd = some c → c.told = false → s.pwr.cmdQ = [] →
    s'.adminLast = (if c.kind = 2 then 0x12 else 0x10, 0x0011, stopMask s')
  memory : s.pwr.cmdQ = [] → s'.mem = s.mem

/-- A stop command was refused: counted and recorded, and no domain changed (R389). -/
structure StopRefused (opc result : Nat) (r : Refuser) (s s' : State) : Prop where
  ends : AdminEnds opc 0x0010 result s s'
  doms : s'.dom = s.dom ∧ s'.pwr = s.pwr
  count : regF s' pgPwr 0x014 0 12 = min 4095 (regF s pgPwr 0x014 0 12 + 1)
  record : reg s' pgPwr 0x013 = wd (r.src + 2 ^ 10 * r.dom + 2 ^ 15 * r.reason + 2 ^ 20 * (s.now % 2 ^ 20))

/-- The words of memory that a domain loses with its power (R387): the two instruction banks and the data tray of each tine of a
plot, or a Shed bank. -/
def lostWord (d pa : Nat) : Prop :=
  (d < 16 ∧ ∃ k, k < 9 ∧ ((trayBase (9 * d + k) ≤ pa ∧ pa < trayBase (9 * d + k) + 0x4000) ∨
    (trayBase (9 * d + k) + 0x8000 ≤ pa ∧ pa < trayBase (9 * d + k) + 0x10000))) ∨
  (d = domShda ∧ 0x04000000 ≤ pa ∧ pa < 0x04200000) ∨ (d = domShdb ∧ 0x04200000 ≤ pa ∧ pa < 0x04400000)

/-- A PMBus transaction as it goes out: PWR_VCFG.ADDR, PEC, the command and its data (R397). -/
def pmbusOut (s : State) (ws : List Nat) : Out := .other "pmbus" ([regF s pgPwr 0x015 0 7, regF s pgPwr 0x015 7 1] ++ ws)

/-- A wake of the whole device from source `x` (R396). -/
structure Woken (x : WakeSrc) (s s' : State) : Prop where
  cause : regF s' pgAon 0x014 0 3 = wakeCause x
  asked : RunAsked (List.range 24) s s'
  -- VCORE is turned on again, if it is off
  vcore : s.pwr.off = true → s.pwr.wake = none → domSt s domLink = .stop → s'.pwr.wake = some .ready ∧ s'.pwr.volt = s.pwr.volt ∧
    pmbusOut s [0x01, 1] ∈ s'.out
  later : (∃ d, d < 24 ∧ domSt s' d ≠ .run) → domSt s' domLink ≠ .run → s'.pwr.woken = true

/-- PWR_STOP to DEVICE_WAKE, CHAIN_WAKE_PATTERN, WAKE_FRAME and PHY_INTERRUPT_WAKE (R362, R363, R387–R396, R413). Assumptions 2 and
21 choose what a domain without power holds, 82 the refuser and the order of commands, 161 the acknowledgement of OPERATION, 157 and
158 who may take back a stop, 156 a wake frame's address. -/
def Obligations.StopAndRun : Prop :=
  (∀ mask d, d ∈ withDeps mask ↔ d < 24 ∧ (mask / 2 ^ d % 2 = 1 ∨
    (d = domTrel ∧ ∃ p, p < 16 ∧ mask / 2 ^ p % 2 = 1) ∨
    ((d = domShda ∨ d = domShdb) ∧ (mask / 2 ^ domTrel % 2 = 1 ∨ ∃ p, p < 16 ∧ mask / 2 ^ p % 2 = 1)))) ∧
  (∀ s : State, inReset s = false →
    let begins := fun (kind mask d : Nat) (rest : List Nat) (s' : State) => domSt s' d = .stopping ∧
      (∀ x, x ≠ d → domSt s' x = domSt s x) ∧ s'.mem = s.mem ∧ s'.regs = s.regs ∧ ∃ e,
      s'.pwr = { s.pwr with
        cmd := some { kind := kind, mask := mask, todo := rest, entry := e, told := false }, cmdQ := [],
        stopping := some (d, s.now, none), flying := loadsInto s d, flyingW := writesInto s d }
    let waits := fun (kind mask : Nat) (s' : State) => s'.dom = s.dom ∧ s'.mem = s.mem ∧ s'.regs = s.regs ∧ ∃ l e,
      s'.pwr = { s.pwr with cmdQ := s.pwr.cmdQ ++ [{ kind := kind, mask := mask, todo := l, entry := e, told := false }] }
    (∀ mask : BitVec 24,
      let todo := restoreOrder.reverse.filter fun d => decide (mask.toNat / 2 ^ d % 2 = 1) && decide (domSt s d ≠ .stop)
      (∀ r, refuseMask s mask.toNat false = some r → Runs (.pwrStop mask) s (StopRefused 0x10 (stopMask s) r s)) ∧
      (refuseMask s mask.toNat false = none → s.pwr.cmd.isSome = true → Runs (.pwrStop mask) s (waits 0 mask.toNat)) ∧
      (∀ d rest, refuseMask s mask.toNat false = none → s.pwr.cmd = none → todo = d :: rest →
        Runs (.pwrStop mask) s (begins 0 mask.toNat d rest)) ∧
      (refuseMask s mask.toNat false = none → s.pwr.cmd = none → todo = [] → Runs (.pwrStop mask) s fun s' =>
        AdminEnds 0x10 0 (stopMask s) s s' ∧ s'.dom = s.dom ∧ s'.pwr = { s.pwr with cmdQ := [] })) ∧
    (let todo := restoreOrder.reverse.filter fun x => decide (domSt s x ≠ .stop)
     (∀ r, refuseMask s 0xFFFFFF true = some r → Runs .deviceStop s (StopRefused 0x12 0 r s)) ∧
     (refuseMask s 0xFFFFFF true = none → s.pwr.cmd.isSome = true → Runs .deviceStop s (waits 2 0xFFFFFF)) ∧
     (∀ d rest, refuseMask s 0xFFFFFF true = none → s.pwr.cmd = none → todo = d :: rest → d ≠ domLink →
       Runs .deviceStop s (begins 2 0xFFFFFF d rest)) ∧
     -- with LINK alone left the command has completed, and LINK stops when the record is out (R395)
     (refuseMask s 0xFFFFFF true = none → s.pwr.cmd = none → todo = [domLink] → Runs .deviceStop s fun s' =>
       s'.adminLast = (0x12, 0, 0) ∧ (∀ x, x ≠ domLink → domSt s' x = domSt s x) ∧
       ∃ c, s'.pwr.cmd = some c ∧ c.kind = 2 ∧ c.told = true ∧
         ((c.todo = [] ∧ domSt s' domLink = .stopping ∧ s'.pwr.stopping = some (domLink, s.now, none) ∧ s'.pllRuns = false ∧
            hostEn s' = false) ∨ (c.todo = [domLink] ∧ domSt s' domLink = domSt s domLink))))) ∧
  (∀ s : State, inReset s = true → ∀ (mask : BitVec 24) (x : WakeSrc),
    Runs (.pwrStop mask) s (fun s' => s' = s) ∧ Runs .deviceStop s (fun s' => s' = s) ∧ Runs (.pwrRun mask) s (fun s' => s' = s) ∧
    Runs (.deviceWake x) s fun s' => s' = s) ∧
  (∀ (s : State) (d t : Nat) (c : PwrCmd), s.pwr.cmd = some c → s.pwr.stopping = some (d, t, none) →
    -- an access is outstanding, or from tick s + 64 on only the timeout ends the drain (R390)
    (stillOut s d = true ∨ t + 64 ≤ s.now → Runs .domainDrainComplete s fun s' => s' = s) ∧
    (stillOut s d = false → s.now < t + 64 →
      (∀ r, refuses s (fun x => decide (c.mask / 2 ^ x % 2 = 1)) (decide (c.kind = 2)) true d = some r →
        Runs .domainDrainComplete s (StopAborted d r s)) ∧
      (refuses s (fun x => decide (c.mask / 2 ^ x % 2 = 1)) (decide (c.kind = 2)) true d = none →
        Runs .domainDrainComplete s fun s' => domSt s' d = .closing ∧ (∀ x, x ≠ d → domSt s' x = domSt s x) ∧
          s' = { s with dom := s'.dom, pwr := { s.pwr with stopping := some (d, t, some s.now) } })) ∧
    (∀ src : BitVec 10,
      (t + 64 ≤ s.now → srcListed src.toNat = true →
        Runs (.domainDrainTimeout src) s (StopAborted d { reason := 12, src := src.toNat, dom := d } s)) ∧
      (s.now < t + 64 ∨ srcListed src.toNat = false → Runs (.domainDrainTimeout src) s fun s' => s' = s))) ∧
  (∀ (s : State) (d t k : Nat) (c : PwrCmd), s.pwr.cmd = some c → s.pwr.stopping = some (d, t, some k) →
    (s.now < k + 5 → Runs .domainSwitchOpen s fun s' => s' = s) ∧
    (k + 5 ≤ s.now → c.kind = 0 → s.pwr.cmdQ = [] → d < 24 → Runs .domainSwitchOpen s fun s' =>
      (domSt s' d = .stop ∨ (d ∈ s.pwr.want ∧ domSt s' d = .restoring)) ∧
      (∀ pa, lostWord d pa → memGet s' pa = 0) ∧ (∀ pa, ¬lostWord d pa → memGet s' pa = memGet s pa) ∧
      (d ≠ domTrel → d ≠ domLink → ∀ p o, o < 1024 → regLost d (regKey p o) = true →
        (∀ r, p = pgRowc r → o ≠ 0x010) → reg s' p o = regReset (regKey p o)) ∧
      -- VIO and VIO_OK are the supply's, not the domain's (Table 12-9)
      (∀ r, r < 4 → d = domRow r → vioOk s' r = vioOk s r ∧ vio33 s' r = vio33 s r) ∧
      (∀ u, d < 16 → u / 9 = d → (tineAt s' u).pc = Tine.reset.pc ∧ (tineAt s' u).g = [] ∧ (tineAt s' u).acc = [])) ∧
    -- LINK's stop ends a device Stop; a request made since its commit point is met at once (R392, R395)
    (k + 5 ≤ s.now → c.kind = 2 → d = domLink → StopsAgree s → s.pwr.woken = false → Runs .domainSwitchOpen s fun s' =>
      s'.pwr.cmd = none ∧
      ((∀ x, x < 24 → x ≠ domLink → domSt s x = .stop) → s'.pwr.devStop = true) ∧
      ((∃ x, x < 24 ∧ x ≠ domLink ∧ domSt s x ≠ .stop) → s'.pwr.devStop = s.pwr.devStop) ∧
      (s.pwr.want = [] → domSt s' d = .stop) ∧
      (s.pwr.want = [] → regB s pgPwr 0x015 24 = true → (∀ x, x < 24 → x ≠ domLink → domSt s x = .stop) →
        (s'.pwr.off = true ∧ s'.out = s.out ++ [pmbusOut s [0x01, 0]]) ∨
        (s'.pwr.off = s.pwr.off ∧ s'.out = s.out ++ [pmbusOut s [0x01, 0], pmbusOut s [0x79]])) ∧
      (∀ x ∈ s.pwr.want, domSt s' x = .restoring ∨ x ∈ s'.pwr.want)) ∧
    (k + 5 ≤ s.now → c.kind = 2 → d = domLink → StopsAgree s → s.pwr.woken = true → Runs .domainSwitchOpen s fun s' =>
      s'.pwr.cmd = none ∧ ∀ x, x < 24 → domSt s' x = .run ∨ domSt s' x = .restoring ∨ x ∈ s'.pwr.want)) ∧
  (∀ s : State, StopsAgree s → inReset s = false →
    (∀ mask : BitVec 24, Runs (.pwrRun mask) s fun s' => RunAsked (withDeps mask.toNat) s s' ∧
      s'.mem = s.mem ∧
      ((∀ d ∈ withDeps mask.toNat, domSt s d = .run) → s'.adminLast = (0x11, 0, pwrState s) ∧ ∀ r ∈ s'.pwr.runs, r ∈ s.pwr.runs) ∧
      ((∃ d ∈ withDeps mask.toNat, domSt s d = .stop) → ∃ e, (mask.toNat, e) ∈ s'.pwr.runs)) ∧
    (∀ (w : Who) (mask : BitVec 24), regGate s w pgPwr 0x012 = .ok →
      let may := wsOrGrant s w = true ∧ (w = .host → s.hostSess.debugWake = true) ∧ (w = .probe → s.probeSess.debugWake = true)
      (may → Runs (.pwrRunreq w mask) s (RunAsked (withDeps mask.toNat) s)) ∧
      (¬may → Runs (.pwrRunreq w mask) s fun s' => s' = s)) ∧
    (∀ d e, s.pwr.restoring = some (d, e) →
      (s.now < e → Runs .domainRestored s fun s' => s' = s) ∧
      (e ≤ s.now → d < 24 → Runs .domainRestored s fun s' => domSt s' d = .run ∧
        (∀ x, x ≠ d → domSt s' x = domSt s x ∨ (domSt s x = .stop ∧ domSt s' x = .restoring)) ∧
        (∀ l, l < 128 → (d < 16 ∧ l / 8 = d) ∨ d = domShda → (ckptAt s' l).cur = none) ∧
        (∀ l, ¬((d < 16 ∧ l / 8 = d) ∨ d = domShda) → ckptAt s' l = ckptAt s l))) ∧
    (s.pwr.devStop = true ∨ DeviceStopping s → s.pwr.woken = false →
      (∀ x, wakeEnabled s x = true → Runs (.deviceWake x) s (Woken x s)) ∧
      (∀ x, wakeEnabled s x = false → Runs (.deviceWake x) s fun s' => s' = s) ∧
      (domSt s domLink = .stop ∨ DeviceStopping s →
        (∀ down, wakeEnabled s (.chain down) = true → Runs (.chainWakePattern down) s fun s' => Woken (.chain down) s s' ∧
          (regB s pgChain 0x010 0 = true → Out.other "chain-wake" [if down then 0 else 1] ∈ s'.out)) ∧
        (∀ m : Fin 2, wakeEnabled s (.phyint m) = true → Runs (.phyInterruptWake m) s (Woken (.phyint m) s)) ∧
        (∀ (m : Fin 2) (f : WakeFrame), wakeEnabled s (.frame m) = true →
          let own := if domSt s domLink = .stop then (if m = 0 then s.wakeMac.1 else s.wakeMac.2)
            else regF s (pgEth m) 0x012 0 32 + 2 ^ 32 * regF s (pgEth m) 0x013 0 16
          let mine := f.ethertype.toNat = 0x88B6 ∧ f.op.toNat = 6 ∧ f.key.toNat = regF s (pgEth m) 0x0CC 2 32 ∧
            (f.dst.toNat = 2 ^ 48 - 1 ∨ f.dst.toNat = own)
          (mine → Runs (.wakeFrame m f) s (Woken (.frame m) s)) ∧
          (¬mine → Runs (.wakeFrame m f) s fun s' => s' = s)))) ∧
    -- one wake at a time (R396)
    (s.pwr.woken = true → ∀ x, Runs (.deviceWake x) s fun s' => s' = s) ∧
    (s.pwr.devStop = false → s.pwr.cmd = none → s.pwr.woken = false → domSt s domLink = .stop → ∀ m : Fin 2,
      wakeEnabled s (.phyint m) = true → Runs (.phyInterruptWake m) s (RunAsked [domLink] s)) ∧
    (domSt s domLink ≠ .stop → ¬DeviceStopping s → ∀ m : Fin 2, Runs (.phyInterruptWake m) s fun s' => s' = s))

/-- PWR_VOLT to PWR_STATUS, DISCIPLINE_LOCK and DISCIPLINE_LOSS (R128, R130, R397–R403); the refused voltage's record and the
fall of VREADY at a step are assumption 82's, the set point's code assumption 10's. -/
def Obligations.VoltageAndTimeBase : Prop :=
  (∀ s : State,
    let now := getF (reg s pgPwr 0x016) 0 14
    let band := fun (b : Nat) (s' : State) => regF s' pgPwr 0x016 10 4 = b ∧ s'.bandCap = tineCap b ∧
      regF s' pgTrel 0x031 0 8 = trelCap b
    let failed := fun s' : State => s'.pwr.volt = none ∧ regB s' pgPwr 0x017 0 = false ∧ regB s' pgPwr 0x017 2 = true ∧
      s'.adminLast.1 = 0x13 ∧ s'.adminLast.2.1 = 0x0014 ∧ s'.pwr.mv = s.pwr.mv ∧ s'.mem = s.mem
    let ended := fun (mv : Nat) (s' : State) => s'.pwr.volt = none ∧ s'.pwr.mv = s.pwr.mv ∧ regB s' pgPwr 0x017 0 = false ∧
      band (bandOf mv) s' ∧ AdminEnds 0x13 0 (regF s' pgPwr 0x016 0 14) s s'
    (inReset s = true → ∀ mv mode ack, Runs (.pwrVolt mv mode ack) s fun s' => s' = s) ∧
    (inReset s = false → ∀ (mv : BitVec 16) (mode : BitVec 8) (ack : Bool),
      let m := mv.toNat
      let busy := s.pwr.cmd.isSome = true ∨ s.pwr.runs ≠ [] ∨ s.pwr.volt.isSome = true
      let refused := fun (st : Nat) (s' : State) => AdminEnds 0x13 st now s s' ∧ s'.pwr = s.pwr ∧ s'.bandCap = s.bandCap ∧
        regF s' pgPwr 0x016 0 14 = now
      let reads := s.pwr.mode.isSome = true ∨ (ack = true ∧ voutModeOk mode.toNat = true)
      -- the first command reads VOUT_MODE, whose exponent −8 to −15 every later one uses (R397)
      let modeKept := fun s' : State => s'.pwr.mode = (if s.pwr.mode.isSome then s.pwr.mode else some (32 - mode.toNat % 32))
      (m < 450 ∨ 950 < m → Runs (.pwrVolt mv mode ack) s (refused 0x0012)) ∧
      let lowered := fun s' : State => (m < s.pwr.mv → band (bandOf m) s') ∧
        (s.pwr.mv ≤ m → s'.bandCap = s.bandCap ∧ bandNow s' = bandNow s ∧ reg s' pgTrel 0x031 = reg s pgTrel 0x031)
      (450 ≤ m → m ≤ 950 →
        (busy → Runs (.pwrVolt mv mode ack) s (refused 0x0015)) ∧
        (¬busy → m < 700 → apllOn s = true → Runs (.pwrVolt mv mode ack) s fun s' => refused 0x0013 s' ∧
          regF s' pgPwr 0x014 0 12 = min 4095 (regF s pgPwr 0x014 0 12 + 1) ∧ regF s' pgPwr 0x013 15 4 = 14) ∧
        (¬busy → 700 ≤ m ∨ apllOn s = false →
          (¬reads → Runs (.pwrVolt mv mode ack) s fun s' => failed s' ∧ regF s' pgPwr 0x016 0 10 = m ∧ lowered s') ∧
          (reads → m = s.pwr.mv → bandNow s ≤ bandOf m → Runs (.pwrVolt mv mode ack) s fun s' => ended m s' ∧ modeKept s' ∧
            regF s' pgPwr 0x016 0 10 = m) ∧
          -- a band that rises waits for VREADY and the settle time all the same (R130)
          (reads → m = s.pwr.mv → bandOf m < bandNow s → Runs (.pwrVolt mv mode ack) s fun s' => lowered s' ∧
            modeKept s' ∧ regB s' pgPwr 0x017 0 = true ∧ ∃ e, s'.pwr.volt = some {
              target := m, sent := some s.now, phase := if regB s pgPwr 0x017 1 then .settle s.now else .ready, entry := e }) ∧
          (reads → m ≠ s.pwr.mv → Runs (.pwrVolt mv mode ack) s fun s' => regF s' pgPwr 0x016 0 10 = m ∧ modeKept s' ∧ regB s' pgPwr 0x017 0 = true ∧
            s'.pwr.mv = s.pwr.mv ∧ s'.mem = s.mem ∧ lowered s' ∧
            ∃ e, s'.pwr.volt = some { target := m, sent := none, phase := .step, entry := e })))) ∧
    (∀ v, s.pwr.volt = some v → v.phase = .step → regB s pgPwr 0x017 1 = true → s.pwr.off = false →
      (∀ t, s.pwr.stepAt = some t → t + 1000 ≤ s.now) →
      let n := if s.pwr.mv < v.target then min v.target (s.pwr.mv + 10) else max v.target (s.pwr.mv - 10)
      -- the ULINEAR16 code of the set point, n · 2^e / 1000, is one of its two neighbours (R397, assumption 10)
      let coded := fun code : Nat => code * 1000 < n * 2 ^ s.pwr.mode.getD 8 + 1000 ∧
        n * 2 ^ s.pwr.mode.getD 8 < code * 1000 + 1000
      Runs (.voltStep true) s (fun s' => s'.pwr.mv = n ∧ s'.pwr.stepAt = some s.now ∧
        (∃ code, coded code ∧ s'.out = s.out ++ [pmbusOut s [0x21, code]]) ∧
        regB s' pgPwr 0x017 1 = false ∧ s'.pwr.volt = some { v with sent := some s.now, phase := .ready } ∧
        s' = { s with pwr := s'.pwr, out := s'.out, regs := s'.regs, free := s'.free }) ∧
      Runs (.voltStep false) s fun s' => failed s' ∧ s'.pwr.stepAt = some s.now ∧ ∃ code, coded code ∧
        s'.out = s.out ++ [pmbusOut s [0x21, code], pmbusOut s [0x79]]) ∧
    -- steps are at least 1 ms apart (R398)
    (∀ t, s.pwr.stepAt = some t → s.now < t + 1000 → ∀ ack, Runs (.voltStep ack) s fun s' => s' = s) ∧
    -- VREADY rises; at a wake the settle time begins (R396, R398)
    (let woke := if s.pwr.wake = some .ready then some (.settle s.now) else s.pwr.wake
     let rises := fun (volt : Option Volt) (s' : State) => regB s' pgPwr 0x017 1 = true ∧
       s' = { s with pwr := { s.pwr with wake := woke, volt := volt }, regs := s'.regs }
     (s.pwr.off = true → s.pwr.wake = none → Runs .vreadyRise s fun s' => s' = s) ∧
     (s.pwr.off = false ∨ s.pwr.wake ≠ none →
       (s.pwr.volt = none → Runs .vreadyRise s (rises none)) ∧
       (∀ v, s.pwr.volt = some v → Runs .vreadyRise s (rises (some
         (if v.phase = .ready then { v with phase := if v.target = s.pwr.mv then .settle s.now else .step } else v)))))) ∧
    (∀ v, s.pwr.volt = some v → v.phase = .ready →
      (∀ t, v.sent = some t →
        (t + 1000 * max 1 (regF s pgPwr 0x015 16 8) ≤ s.now → Runs .voltFail s failed) ∧
        (s.now < t + 1000 * max 1 (regF s pgPwr 0x015 16 8) → Runs .voltFail s fun s' => s' = s))) ∧
    (s.pwr.volt = none → s.pwr.off = false →
      (regB s pgPwr 0x017 1 = true → Runs .vdrop s fun s' => regB s' pgPwr 0x017 1 = false ∧ regB s' pgPwr 0x017 3 = true ∧
        (∃ e, s'.frec.getLast? = some e ∧ e.kind = 6 ∧ e.src = 0x350 ∧ e.data = wd (regF s pgPwr 0x016 0 10)) ∧
        regF s' pgPwr 0x014 24 12 = min 4095 (regF s pgPwr 0x014 24 12 + 1) ∧ s'.pwr = s.pwr ∧ s'.mem = s.mem)) ∧
    (∀ t, s.pwr.wake = some (.settle t) →
      (s.now < t + regF s pgPwr 0x015 8 8 → Runs .settleDone s fun s' => s' = s) ∧
      (t + regF s pgPwr 0x015 8 8 ≤ s.now → Runs .settleDone s fun s' =>
        s'.pwr.off = false ∧ s'.pwr.wake = none ∧ s'.mem = s.mem ∧ s'.regs = s.regs)) ∧
    (∀ v t, (∀ u, s.pwr.wake ≠ some (.settle u)) → s.pwr.volt = some v → v.phase = .settle t →
      (s.now < t + regF s pgPwr 0x015 8 8 → Runs .settleDone s fun s' => s' = s) ∧
      (t + regF s pgPwr 0x015 8 8 ≤ s.now → Runs .settleDone s (ended v.target))) ∧
    Runs .pwrStatus s (fun s' => AdminEnds 0x14 0 (pwrState s) s s' ∧ s'.pwr = s.pwr ∧ s'.dom = s.dom) ∧
    (let aon := fun s' : State => s' = { s with regs := s'.regs } ∧
       ∀ p o, o < 1024 → (p ≠ pgAon ∨ o ≠ 0x011) → reg s' p o = reg s p o
     (regB s pgAon 0x010 0 = true → Runs .disciplineLock s fun s' => regB s' pgAon 0x011 0 = true ∧ aon s') ∧
     (regB s pgAon 0x010 0 = false → Runs .disciplineLock s fun s' => s' = s) ∧
     (regB s pgAon 0x011 0 = true → Runs .disciplineLoss s fun s' => regB s' pgAon 0x011 0 = false ∧
       regF s' pgAon 0x011 8 8 = min 255 (regF s pgAon 0x011 8 8 + 1) ∧ aon s') ∧
     (regB s pgAon 0x011 0 = false → Runs .disciplineLoss s fun s' => s' = s)))

/-- A boot image was rejected before anything of it was applied (R371, R376): the error is shown, the source is released and the
deposit is discarded. -/
def BootRejected (e : Nat) (s s' : State) : Prop :=
  regF s' pgBoot 0x010 5 4 = e ∧ bootState s' = 1 ∧ bootLocked s' = false ∧ reg s' pgBoot 0x011 = 0 ∧ s'.boot.seed = none ∧
    s'.mem = s.mem ∧ s'.tines = s.tines

/-- A graft command has ended without a switch (R378, R379): by the admin queue or by BOOT_GRAFT. -/
def GraftEnds (admin : Bool) (status : Nat) (s s' : State) : Prop :=
  regF s' pgBoot 0x014 3 8 = status ∧ (admin = true → s'.adminLast.1 = 0x19 ∧ s'.adminLast.2.1 = status) ∧
    s'.mem = s.mem ∧ s'.tines = s.tines ∧ s'.chans = s.chans

/-- BOOT_ROM_READY, BOOT_RXLEN_WRITE, SEED_LOAD, GRAFT and BOOT_GRAFT_GO (R367–R383). Assumption 24 gives the ROM's words, 84 the
RETURNED finished at boot, 85 the statuses of a malformed image, 86 and 159 what GSTAT shows, 127 the source that locks. -/
def Obligations.BootAndGrafts : Prop :=
  (∀ (s : State) (bad : Bool),
    let ready := s.released = true ∧ s.vcoreLow = false ∧ s.pwr.devStop = false ∧ bootState s = 0
    (¬ready → Runs (.bootRomReady bad) s fun s' => s' = s) ∧
    (ready → Runs (.bootRomReady bad) s fun s' => bootState s' = 1 ∧ regB s' pgBoot 0x010 9 = trimsBad bad s ∧
      s'.trims = trimMirrors bad s ∧ s'.boot.lc = s'.otp.lc ∧
      (1 ∈ bootSources s.boot.sel → reg s' pgHost 0x01D = wd 0x04200000) ∧ (tineAt s' 0).halt = .no ∧ (tineAt s' 0).pc = 0 ∧ tW s' 0 = true ∧
      tS s' 0 = true ∧ tLvl s' 0 = 0 ∧ (s.otp.retPending = false → s'.otp = s.otp ∧ s'.keys = s.keys) ∧
      (s.otp.retPending = true → s.otpOp = none → s'.otp.lc = 3 ∧ (s.otp.lc ≠ 3 → s'.keys = [])) ∧
      (∀ k, k < 0x2000 → memGet s' (trayBase 0 + k) = memGet s k) ∧
      (∀ pa, ¬(trayBase 0 ≤ pa ∧ pa < trayBase 0 + 0x2000) → memGet s' pa = memGet s pa))) ∧
  (∀ (s : State) (src : Fin 4) (v : Word),
    let n := getF v 0 23
    let len := v &&& wd 0x80007FFFFF
    let held := regF s pgBoot 0x010 3 2
    let takes := bootState s = 1 ∧ s.boot.lockAt = s.now ∧ srcBefore s.boot.sel src held = true ∧ n ≠ 0
    -- GSTAT.STATE shows the reception as a load (assumption 159), and nothing else of BOOT_GSTAT changes
    Runs (.bootRxlenWrite src v) s (fun s' =>
      (regF s' pgBoot 0x014 0 3 = 1 ↔ bootState s' = 2 ∨ (bootState s' = 3 ∧ bootOpen s' = true))) ∧
    (bootState s = 0 ∨ src.val ∉ bootSources s.boot.sel ∨ (src = 3 ∧ chainReady s = false) →
      Runs (.bootRxlenWrite src v) s fun s' => s' = loadShown s) ∧
    -- another source is discarded while boot bytes are awaited, after the launch too
    (bootLocked s = true → held ≠ src → bootOpen s = true → ¬takes → Runs (.bootRxlenWrite src v) s fun s' => s' = loadShown s) ∧
    ((src = 3 → chainReady s = true) →
    (bootLocked s = true → takes → s.boot.seed = none → n < 256 → bit v 39 = false → Runs (.bootRxlenWrite src v) s fun s' => bootLocked s' = true ∧
      regF s' pgBoot 0x010 3 2 = src ∧ reg s' pgBoot 0x011 = len ∧ s'.boot = s.boot ∧ s'.mem = s.mem ∧ s'.tines = s.tines) ∧
    (bootState s = 1 → bootLocked s = false → src.val ∈ bootSources s.boot.sel → s.boot.seed = none → s.boot.applied = false →
      let locks := fun s' : State => bootLocked s' = true ∧ regF s' pgBoot 0x010 3 2 = src ∧ reg s' pgBoot 0x011 = len ∧
        s'.mem = s.mem ∧ s'.tines = s.tines
      (5242880 < n → Runs (.bootRxlenWrite src v) s (BootRejected eFORMAT s)) ∧
      (0 < n → n < 256 → bit v 39 = false → Runs (.bootRxlenWrite src v) s fun s' => locks s' ∧
        s'.boot = { s.boot with lockAt := s.now }) ∧
      (256 ≤ n → n ≤ 5242880 → 1 ≤ imgNsec s rxBase → imgNsec s rxBase ≤ 64 → 256 + 48 * imgNsec s rxBase ≤ n →
        (∀ e, seedCheck s rxBase = .bad e → bit v 39 = false → Runs (.bootRxlenWrite src v) s (BootRejected e s)) ∧
        (∀ x y, seedCheck s rxBase = .good x → x.sects[0]? = some y → n < y.off + y.len → bit v 39 = false →
          Runs (.bootRxlenWrite src v) s fun s' => locks s' ∧ bootState s' = 2 ∧ regF s' pgBoot 0x010 10 6 = 0 ∧ s'.boot = { s.boot with seed := some x, next := 0, lockAt := s.now }))) ∧
    (∀ x y s1, bootState s = 2 → bootLocked s = true → regF s pgBoot 0x010 3 2 = src → src.val ∈ bootSources s.boot.sel →
      regF s pgBoot 0x011 0 23 ≤ n → n ≤ 5242880 → s.boot.seed = some x → s.boot.next = x.start → x.sects.length = x.start + 1 →
      x.sects[x.start]? = some y → y.off + y.len ≤ n → y.typ = 1 → sectOk s rxBase y = true → x.base = rxBase →
      applySect (y.len + 1) true (some (imgRange x)) (sectWords s rxBase y)
        (setBootSect x.start (setReg pgBoot 0x011 len s)) = (0, s1) →
      bootState s1 = 2 → s1.boot.seed = some x → scionAt s1 x.init = none →
      Runs (.bootRxlenWrite src v) s fun s' => bootState s' = 3 ∧ s'.boot.svn = x.svn ∧ s'.mem = s1.mem ∧
        ∀ l t, l ∈ s1.boot.coded → physOf s1 l = some t → (tineAt s' t).halt = .no ∧ (tineAt s' t).pc = 0 ∧
          activeBank s' t = 1 ∧ tW s' t = true ∧ tS s' t = true ∧ tLvl s' t = 0))) ∧
  (∀ (s : State) (addr len : BitVec 32),
    let ends := fun (st : Nat) (s' : State) => s'.adminLast.1 = 0x18 ∧ s'.adminLast.2.1 = st ∧ regF s' pgBoot 0x014 3 8 = st ∧
      regF s' pgBoot 0x014 0 3 = (if st = 0 then 4 else 5)
    let fails := fun (st : Nat) (s' : State) => ends st s' ∧ s'.mem = s.mem ∧ s'.boot = s.boot
    let inShed' := 0x04000000 ≤ addr.toNat ∧ addr.toNat + (len.toNat + 4) / 5 ≤ 0x04400000
    let nsec := imgNsec s addr.toNat
    (inReset s = true → Runs (.seedLoad addr len) s fun s' => s' = s) ∧
    (inReset s = false → graftBusy s = true → Runs (.seedLoad addr len) s fun s' => s'.adminLast.1 = 0x18 ∧ s'.adminLast.2.1 = 0x48 ∧ s'.mem = s.mem ∧
      s'.boot = s.boot ∧ reg s' pgBoot 0x014 = reg s pgBoot 0x014) ∧
    (inReset s = false → graftBusy s = false →
      (¬inShed' ∨ len.toNat < 256 ∨ nsec < 1 ∨ 64 < nsec ∨ len.toNat < 256 + 48 * nsec → Runs (.seedLoad addr len) s (fails 0x42)) ∧
      (inShed' → 1 ≤ nsec → nsec ≤ 64 → 256 + 48 * nsec ≤ len.toNat →
        (∀ e, seedCheck s addr.toNat = .bad e → Runs (.seedLoad addr len) s (fails (seedStatus e))) ∧
        (∀ x, seedCheck s addr.toNat = .good x →
          (x.total ≠ len.toNat → Runs (.seedLoad addr len) s (fails 0x42)) ∧
          (x.total = len.toNat → (∃ y ∈ x.sects, sectOk s addr.toNat y = false) → Runs (.seedLoad addr len) s (fails 0x43)) ∧
          (x.total = len.toNat → (∀ y ∈ x.sects, sectOk s addr.toNat y = true) → x.base = addr.toNat →
            (x.sects ≠ [] → (∀ y ∈ x.sects, y.typ = 1) → Runs (.seedLoad addr len) s fun s' => ends 0 s' ∧ s'.mem = s.mem ∧
              s'.boot = { s.boot with root := some x }) ∧
            (∀ y, x.sects = [y] → y.typ = 2 →
              let pa := 0x04000000 + y.store
              let target := ∀ i, i < y.len / 5 → shedTarget (some (imgRange x)) (pa + i) = true
              (¬target → Runs (.seedLoad addr len) s fun s' => ends 0x44 s' ∧ regF s' pgBoot 0x010 5 4 = eTARGET ∧ s'.mem = s.mem) ∧
              (target → domUp s domShda = true → domUp s domShdb = true → Runs (.seedLoad addr len) s fun s' => ends 0 s' ∧
                scionAt s' y.id = some { addr := pa, len := y.len, be := y.be, digest := y.digest } ∧
                ∀ i w, (bytesWords false (y.len / 5) (sectBytes s x.base y))[i]? = some w → memGet s' (pa + i) = w))))))) ∧
  (∀ (s : State) (w : Who),
    (∀ (scion tries : BitVec 8) (block : BitVec 24),
      let root := scion.toNat = 0xFF
      let valid := (scion.toNat ≤ 31 ∨ root) ∧ 1 ≤ tries.toNat ∧ tries.toNat ≤ 15
      let g : Graft := Graft.mk (decide root) block.toNat tries.toNat true (adminBegin 0x19 s).1 [] [] [] []
      let s0 := setReg pgBoot 0x014 2 (adminBegin 0x19 s).2
      (inReset s = true → Runs (.graft scion tries block) s fun s' => s' = s) ∧
      (inReset s = false → ¬valid → Runs (.graft scion tries block) s fun s' => s'.adminLast = (0x19, 0x0002, 0) ∧ s'.boot = s.boot ∧ s'.regs = s.regs ∧ s'.mem = s.mem) ∧
      (inReset s = false → valid → graftBusy s = true → Runs (.graft scion tries block) s fun s' => GraftEnds true 0x48 s s' ∧ s'.boot = s.boot) ∧
      (inReset s = false → valid → graftBusy s = false →
        ((root ∧ s.boot.root = none) ∨ (¬root ∧ scionAt s scion.toNat = none) → Runs (.graft scion tries block) s fun s' => GraftEnds true 0x4A s s' ∧
          regF s' pgBoot 0x014 0 3 = 5 ∧ s'.boot.graft = none) ∧
        (∀ g1 s1, stageAll scion.toNat g s0 = (0, g1, s1) → Runs (.graft scion tries block) s fun s' => regF s' pgBoot 0x014 0 3 = 3 ∧
          s'.boot.graft = some g1 ∧ s'.mem = s1.mem ∧ s'.tines = s1.tines))) ∧
    (∀ v : Word, regGate s w pgBoot 0x013 = .ok → w ≠ .graft →
      (graftBusy s = true → Runs (.bootGraftGo w v) s fun s' => GraftEnds false 0x48 s s' ∧ s'.boot = s.boot) ∧
      (graftBusy s = false →
        ((bit v 5 = true ∧ s.boot.root = none) ∨ (bit v 5 = false ∧ scionAt s (getF v 0 5) = none) → Runs (.bootGraftGo w v) s fun s' =>
          GraftEnds false 0x4A s s' ∧ regF s' pgBoot 0x014 0 3 = 5 ∧ s'.adminLast = s.adminLast) ∧
        (∀ g1 s1, stageAll (getF v 0 5) (Graft.mk (bit v 5) (getF v 6 24) (max 1 (getF v 30 4)) false none [] [] [] [])
            (setReg pgBoot 0x014 2 (setReg pgBoot 0x013 (v &&& wd 0x3FFFFFFFF) s)) = (0, g1, s1) →
          Runs (.bootGraftGo w v) s fun s' => regF s' pgBoot 0x014 0 3 = 3 ∧ s'.boot.graft = some g1 ∧ s'.adminLast = s1.adminLast ∧
            s'.mem = s1.mem ∧ s'.tines = s1.tines))) ∧
    (∀ g, s.boot.graft = some g → s.pllRuns = true → s.blkFrom + blockTicks s ≤ s.now + 1 → (gridClk s).isSome = true → g.block = 0 → g.shadows = [] → g.coded = [] → g.marks = [] →
      regF s pgBoot 0x014 11 4 = 0 → Runs .blockBoundary s fun s' => s'.boot.graft = none ∧ regF s' pgBoot 0x014 0 3 = 4 ∧
        regF s' pgBoot 0x014 3 8 = 0 ∧ regF s' pgBoot 0x015 0 16 = min 65535 (regF s pgBoot 0x015 0 16 + 1) ∧
        (g.root = true → ∀ x, s.boot.root = some x → s'.boot.root = none ∧ s'.boot.svn = x.svn)))

/-- The Nursery has decided to retire tine `t` for `cause` (R408): it stops at once and waits its turn. -/
structure Decided (t cause : Nat) (s s' : State) : Prop where
  stops : (tineAt s' t).retired = true ∧ (tineAt s' t).flight = none ∧ (tineAt s' t).sb = [] ∧ (tineAt s' t).entry = none
  others : ∀ u, u ≠ t → tineAt s' u = tineAt s u
  queue : s'.retireQ = s.retireQ ++ [(t, cause, s.now)]
  count : regF s' pgNurs 0x016 0 12 = min 4095 (regF s pgNurs 0x016 0 12 + 1)
  window : (tineAt s' t).window = []
  frame : s' = { s with tines := s'.tines, retireQ := s'.retireQ, regs := s'.regs, withheld := s'.withheld }
  regs : ∀ p o, o < 1024 → (p ≠ pgNurs ∨ o ≠ 0x016) → reg s' p o = reg s p o

/-- HEARTBEAT_STALL to CKPT_COMMIT (R404–R420); a replacement in one step, and the memory of a reinstated tine, are assumption 78's. -/
def Obligations.NurseryDecisions : Prop :=
  (∀ (s : State) (t : TineNo),
    let hb := regF s pgNurs 0x012 0 16
    let stalled := hb ≠ 0 ∧ (logOf s t).isSome = true ∧ tineUp s t = true ∧ tineAliveNow s t = false ∧
      (tineAt s t).lastAlive + hb + 1 ≤ s.now
    (stalled → (tineAt s t).retired = false → Runs (.heartbeatStall t) s (Decided t 2 s)) ∧
    (¬stalled → Runs (.heartbeatStall t) s fun s' => s' = s)) ∧
  (∀ (s : State) (w : Who) (t : BitVec 8), regGate s w pgNurs 0x014 = .ok →
    (wsOrGrant s w = false ∨ 144 ≤ t.toNat → Runs (.nursRetire w t) s (fun s' => s' = s) ∧
      Runs (.reinstate w t) s (fun s' => s' = s)) ∧
    (wsOrGrant s w = true → t.toNat < 144 →
      ((tineAt s t.toNat).retired = false → Runs (.nursRetire w t) s (Decided t.toNat 5 s)) ∧
      (regB s pgNurs (0x0B0 + t.toNat / 32) (t.toNat % 32) = true →
        (s.reinst = none → s.retireQ = [] → spareOf s (t.toNat / 9) = none → Runs (.reinstate w t) s fun s' =>
          s' = { s with reinst := some t.toNat }) ∧
        (s.reinst = none → s.retireQ = [] → spareOf s (t.toNat / 9) ≠ none → Runs (.reinstate w t) s fun s' =>
          s'.reinst = none ∧ regB s' pgNurs 0x013 36 = true ∧ s'.mem = s.mem ∧ (∀ l, physOf s' l = physOf s l)) ∧
        (s.reinst ≠ none ∨ s.retireQ ≠ [] → Runs (.reinstate w t) s fun s' =>
          s' = { s with reinstQ := s.reinstQ ++ [t.toNat] })))) ∧
  (∀ s : State, (∀ p, p < 16 → domUp s p = false) → Runs .tineReplacement s (fun s' => s' = s) ∧
    ∀ b, Runs (.reinstateTestDone b) s fun s' => s' = s) ∧
  (∀ (s : State) (t : TineNo), s.reinst = some t.val → s.reinstQ = [] → (∃ p, p < 16 ∧ domUp s p = true) →
    Runs (.reinstateTestDone false) s (fun s' => s'.reinst = none ∧ regB s' pgNurs 0x013 36 = true ∧ s'.mem = s.mem ∧
      (tineAt s' t).retired = (tineAt s t).retired ∧ (∀ l, physOf s' l = physOf s l)) ∧
    (spareOf s (t / 9) = none → Runs (.reinstateTestDone true) s fun s' => s'.reinst = none ∧ (tineAt s' t).retired = false ∧
      regB s' pgNurs (0x0B0 + t / 32) (t % 32) = false ∧
      (∀ k, k < 0x4000 → memGet s' (trayBase t + k) = 0) ∧ (∀ k, k < 0x8000 → memGet s' (trayBase t + 0x8000 + k) = 0) ∧
      (∀ l, vacantIn s (t / 9) = some l → physOf s' l = some t.val) ∧
      (vacantIn s (t / 9) = none → spareOf s' (t / 9) = some t.val ∧ ∀ l, physOf s' l = physOf s l))) ∧
  (∀ (s : State) (t : TineNo) (cause tick : Nat), nextRetire s = some (t.val, cause, tick) → s.leaseHeld = [] → s.reinstQ = [] →
    (∃ p, p < 16 ∧ domUp s p = true) →
    let p := t.val / 9
    let gone := fun s' : State => (tineAt s' t).retired = true ∧ regB s' pgNurs (0x0B0 + t / 32) (t % 32) = true ∧
      s'.retireQ = s.retireQ.filter fun e => decide (e.1 ≠ t.val)
    (logOf s t = none → spareOf s p = some t.val → Runs .tineReplacement s fun s' => gone s' ∧ spareOf s' p = none ∧
      s'.mem = s.mem ∧ ∀ l, physOf s' l = physOf s l) ∧
    (∀ l, logOf s t = some l → spareOf s p = none → Runs .tineReplacement s fun s' => gone s' ∧ physOf s' l = none) ∧
    (∀ l u, logOf s t = some l → spareOf s p = some u → u ≠ t.val → u < 144 → (tineAt s u).retired = false →
      Runs .tineReplacement s fun s' => gone s' ∧ physOf s' l = some u ∧ spareOf s' p = none ∧
        (∀ k, k < 0x4000 → memGet s' (trayBase u + k) = memGet s (trayBase t + k)) ∧
        (ueIn s (trayBase t) 0x4000 = false → (tineAt s' u).halt = .no ∧
          (tineAt s' u).pc = BitVec.ofNat 14 (regF s (pgTine t) oCKCFG 6 14)) ∧
        (ueIn s (trayBase t) 0x4000 = true → (tineAt s' u).halt = .unnamed) ∧
        -- the configuration and the data tray of step 3 and 4, which only a restored checkpoint changes
        (let restores := ueIn s (trayBase t) 0x4000 = false ∧ regB s (pgTine t) oCKCFG 0 = true ∧ (ckptAt s l).cur.isSome = true
         (∀ o ∈ cfgOffs, ¬restores ∨ o < 0x050 → reg s' (pgTine u) o = reg s (pgTine t) o) ∧
         (¬restores → ∀ k, k < 0x8000 → memGet s' (trayBase u + 0x8000 + k) =
           if ueAt s (trayBase t + 0x8000 + k) then 0 else memGet s (trayBase t + 0x8000 + k))))) ∧
  (∀ (s : State) (t : TineNo) (full : Bool) (v : Word), Ready s t →
    let len := if full then 2 else 1
    (bit v 39 = false → Runs (.tineCkptGo t full v) s fun s' => Retired t [] s s' ∧ Moves t len s s' ∧ KeepsG t [] s s') ∧
    (bit v 39 = true → tLvl s t ≠ 0 ∨ 888 < ckptWords s t → Runs (.tineCkptGo t full v) s fun s' =>
      Retired t [oCKSTAT] s s' ∧ Moves t len s s' ∧ KeepsG t [] s s' ∧ regB s' (pgTine t) oCKSTAT 17 = true) ∧
    (bit v 39 = true → tLvl s t = 0 → ckptWords s t ≤ 888 → Runs (.tineCkptGo t full v) s fun s' =>
      s' = { s with tines := s'.tines } ∧ (∀ u, u ≠ t.val → tineAt s' u = tineAt s u) ∧
        tineAt s' t = { tineAt s t with flight := some (.ckpt (getF v 0 8) (bit v 8) none [] [] len) })) ∧
  (∀ (s : State) (t : TineNo) (l h len : Nat) (copy : Option CkptCopy),
    (tineAt s t).flight = some (.ckpt h false copy [] [] len) → (tineAt s t).sb = [] →
    (tineAt s t).drain = [] → logOf s t = some l → Runs (.ckptCommit t) s fun s' =>
      -- the commits since the block boundary: the first and the latest tick, and MISSES before them (R32)
      (let x := ckptAt s l
       ckptAt s' l = {
         cur := some (copy.getD (ckptCopy s t)), first := some (x.first.getD s.now), last := s.now,
         before := if x.first.isSome ∧ x.last = s.now then x.before else regF s (pgTine t) oCKSTAT 18 4 }) ∧
      (∀ k, k ≠ l → ckptAt s' k = ckptAt s k) ∧ s'.mem = s.mem ∧ Moves t len s s' ∧
      regF s' (pgTine t) oCKSTAT 0 16 = (regF s (pgTine t) oCKSTAT 0 16 + 1) % 65536 ∧ regB s' (pgTine t) oCKSTAT 16 = true ∧
      regF s' (pgTine t) oCKSTAT 18 4 = 0 ∧ reg s' (pgTine t) oRETIRED = reg s (pgTine t) oRETIRED + 1 ∧
      (∀ k r, r ∈ (hopAt s' k).retained → r.2 ≠ l))

/-- A session's command was answered (R425): the host's at the admin queue, the probe's on its port. -/
def SessAnswered (probe : Bool) (opc status result : Nat) (data : List Byte) (s s' : State) : Prop :=
  if probe then s'.out = s.out ++ [.other "dap" ([opc, status, result] ++ data.map (·.toNat))] ∧ s'.adminLast = s.adminLast
  else s'.adminLast = (opc, status, result) ∧ s'.out = s.out

/-- A session's grant has returned to none, the tines it had halted run again and the requests it held are withdrawn (R427). -/
structure GrantEnded (probe : Bool) (s s' : State) : Prop where
  none : (sessOf s' probe).level = 0 ∧ (sessOf s' probe).allowStop = false ∧ (sessOf s' probe).debugWake = false
  resumes : ∀ t, t < 144 → (tineAt s t).halt = (if probe then .probe else .host) → (tineAt s' t).halt = .no
  withdrawn : ∀ t, t < 144 → (tineAt s t).dreq = .halt probe ∨ (tineAt s t).dreq = .step probe → (tineAt s' t).dreq = .none
  memory : s'.mem = s.mem

/-- A session's command reaches the device: out of reset, and the probe's while the TAP selects the debug port (R428, R465). -/
def SessReaches (probe : Bool) (s : State) : Prop := inReset s = false ∧ (probe = true → s.tap = .dap)

/-- SEC_CHALLENGE to SEC_CTRL_ZERO and OTP_WRITE_COMPLETE (R422–R427, R433, R435). The model's random source is the command's
operand; assumption 84 assigns the statuses, 132 fills short data, 134 withdraws what a tine has not taken. -/
def Obligations.SessionsAndOtp : Prop :=
  -- in reset, and to the probe's commands while the TAP does not select the debug port, nothing happens (R428, R465)
  (∀ (s : State) (probe : Bool), ¬SessReaches probe s → ∀ nonce data,
    Runs (.secChallenge probe nonce) s (fun s' => s' = s) ∧ Runs (.secRespond probe data) s (fun s' => s' = s) ∧
    Runs (.secClose probe) s fun s' => s' = s) ∧
  (∀ (s : State) (probe : Bool) (nonce : BitVec 256), SessReaches probe s →
    let x := sessOf s probe
    (8 ≤ x.fails → Runs (.secChallenge probe nonce) s fun s' => SessAnswered probe 0x30 0x0031 0 [] s s' ∧
      sessOf s' probe = x ∧ s'.mem = s.mem) ∧
    (x.fails < 8 → Runs (.secChallenge probe nonce) s fun s' => SessAnswered probe 0x30 0 0 (toLe 32 nonce.toNat) s s' ∧
      sessOf s' probe = { x with nonce := some (toLe 32 nonce.toNat, s.now) })) ∧
  (∀ (s : State) (probe : Bool),
    let x := sessOf s probe
    (∀ n t, x.nonce = some (n, t) →
      (t + 1000000 ≤ s.now → Runs (.nonceExpiry probe) s fun s' => sessOf s' probe = { x with nonce := none } ∧ s'.mem = s.mem) ∧
      (s.now < t + 1000000 → Runs (.nonceExpiry probe) s fun s' => s' = s)) ∧
    (SessReaches probe s → Runs (.secClose probe) s fun s' => SessAnswered probe 0x32 0 0 [] s s' ∧ GrantEnded probe s s') ∧
    (SessReaches probe s → ∀ data : List Byte,
      let req := numAt data 0 1
      let key := bytesAt data 1 64
      let proven := fun n => s.otp.lc = 0 ∨
        ((s.otp.dbgW = some (sha256 key) ∨ (req % 4 ≠ 2 ∧ s.otp.dbgO = some (sha256 key))) ∧
          ecdsaOk key (bytesAt data 65 64) (sha256 (n ++ toLe 8 s.otp.uid ++ bytesAt data 0 1)) = true)
      let passes := data.length = 129 ∧ req < 16 ∧ req % 4 ≤ lcCeiling s ∧
        ∃ n t, x.nonce = some (n, t) ∧ s.now < t + 1000000 ∧ proven n
      (passes → Runs (.secRespond probe data) s fun s' =>
        let y : Session := Session.mk (req % 4) (decide (req / 4 % 2 = 1)) (decide (req / 8 % 2 = 1)) none 0
        sessOf s' probe = y ∧ SessAnswered probe 0x31 0 (grantWord y) [] s s' ∧ s'.mem = s.mem ∧ s'.otp = s.otp) ∧
      let spent := data.length = 129 ∧ (x.nonce = none ∨ ∃ n t, x.nonce = some (n, t) ∧ t + 1000000 ≤ s.now)
      (∀ st, ¬passes → (spent → st = 0x0036) → (¬spent → st = 0x0030) → Runs (.secRespond probe data) s fun s' =>
        sessOf s' probe = { x with nonce := none, fails := min 8 (x.fails + 1) } ∧ SessAnswered probe 0x31 st (grantWord x) [] s s' ∧
        regF s' pgSec 0x016 0 12 = min 4095 (regF s pgSec 0x016 0 12 + 1) ∧ s'.mem = s.mem ∧ s'.otp = s.otp))) ∧
  (∀ s : State,
    let ends := fun (opc st res : Nat) (s' : State) => s'.adminLast = (opc, st, res) ∧ s'.otp = s.otp ∧ s'.otpOp = s.otpOp ∧
      s'.mem = s.mem
    let starts := fun (op : OtpOp) (s' : State) => s' = { s with otpOp := some op }
    let closed := fun s' : State => GrantEnded true s s' ∧ GrantEnded false s s'
    let zeroed := fun s' : State => s'.keys = [] ∧ regF s' pgSec 0x015 8 8 = (regF s pgSec 0x015 8 8 + 1) % 256
    (s.hostSess.level ≠ 2 →
      (∀ x, Runs (.secLifecycle x) s fun s' => ends 0x33 0x0032 0 s' ∧ closed s') ∧ (∀ v, Runs (.secSvn v) s (ends 0x34 0x0032 0)) ∧
      Runs .secZeroize s (fun s' => ends 0x35 0x0032 0 s' ∧ s'.keys = s.keys) ∧
      (∀ f data, Runs (.secOtpWrite f data) s (ends 0x36 0x0032 0))) ∧
    (s.hostSess.level = 2 →
      Runs .secZeroize s (fun s' => zeroed s' ∧ ends 0x35 0 (regF s' pgSec 0x015 8 8) s') ∧
      (s.otpOp = none →
        (∀ x : BitVec 8,
          (lcOk s.otp x.toNat = false → Runs (.secLifecycle x) s fun s' =>
            ends 0x33 0x0033 (s.otp.lc + 4 * b2n s.otp.retPending) s' ∧ closed s') ∧
          (lcOk s.otp x.toNat = true → x.toNat ≠ 3 → Runs (.secLifecycle x) s (starts (.lifecycle x.toNat))) ∧
          (lcOk s.otp x.toNat = true → x.toNat = 3 → Runs (.secLifecycle x) s fun s' => zeroed s' ∧ s'.otp.retPending = true ∧
            s'.otp.lc = s.otp.lc ∧ s'.otpOp = some (.lifecycle 3))) ∧
        (∀ v : BitVec 8,
          (v.toNat < s.otp.svn ∨ s.boot.svn < v.toNat ∨ 64 < v.toNat → Runs (.secSvn v) s (ends 0x34 0x0035 s.otp.svn)) ∧
          (s.otp.svn ≤ v.toNat → v.toNat ≤ s.boot.svn → v.toNat ≤ 64 → Runs (.secSvn v) s (starts (.svn v.toNat)))) ∧
        (∀ (f : BitVec 8) (data : List Byte), f.toNat ≤ 8 →
          (otpUsed s.otp f.toNat = true → Runs (.secOtpWrite f data) s (ends 0x36 0x0034 0)) ∧
          (otpStateOk s.otp f.toNat = false → otpUsed s.otp f.toNat = false → Runs (.secOtpWrite f data) s (ends 0x36 0x0033 0)) ∧
          (otpStateOk s.otp f.toNat = true → otpUsed s.otp f.toNat = false →
            Runs (.secOtpWrite f data) s (starts (.field f.toNat data))))) ∧
      (s.otpOp ≠ none → ∀ v, Runs (.secSvn v) s fun s' => s' = s)) ∧
    (s.otpOp = none → Runs .otpWriteComplete s fun s' => s' = s) ∧
    (∀ v, s.otpOp = some (.svn v) → Runs .otpWriteComplete s fun s' => s'.otp = { s.otp with svn := v } ∧ s'.otpOp = none ∧
      s'.adminLast = (0x34, 0, v) ∧ s'.mem = s.mem) ∧
    (∀ f data, s.otpOp = some (.field f data) → f ≤ 8 → Runs .otpWriteComplete s fun s' => s'.otpOp = none ∧
      s'.adminLast = (0x36, 0, 0) ∧ otpUsed s'.otp f = true ∧ (∀ g, g ≤ 8 → g ≠ f → otpUsed s'.otp g = otpUsed s.otp g) ∧
      s'.otp.lc = s.otp.lc ∧ s'.otp.svn = s.otp.svn ∧ s'.mem = s.mem ∧
      (f < 4 → Tbl.get (fun _ => none) s'.otp.img f = some (otpBytes 32 data)) ∧
      (f = 5 → s'.otp.dbgO = some (otpBytes 32 data)) ∧ (f = 6 → s'.otp.dbgW = some (otpBytes 32 data)) ∧
      (f = 8 → s'.otp.secret = some (otpBytes 32 data)) ∧
      (f = 4 → s'.otp.revoke = numAt data 0 1 % 16) ∧ (f = 7 → s'.otp.mac = some (otpBytes 6 data))) ∧
    (∀ lc, s.otpOp = some (.lifecycle lc) → Runs .otpWriteComplete s fun s' => s'.otp.lc = lc ∧ s'.otpOp = none ∧
      s'.otp.svn = s.otp.svn ∧ (lc = 3 → s'.otp.secret = some (List.replicate 32 0xFF)) ∧
      s'.adminLast = (0x33, 0, lc + 4 * b2n s.otp.retPending) ∧ closed s') ∧
    (∀ w, regGate s w pgSec 0x015 = .ok →
      (whoWS s w = true → Runs (.secCtrlZero w) s fun s' => zeroed s' ∧ s'.mem = s.mem ∧ s'.otp = s.otp) ∧
      (whoWS s w = false → Runs (.secCtrlZero w) s fun s' => s'.keys = s.keys ∧ s'.mem = s.mem ∧ s'.otp = s.otp)))

/-- A debug request was answered with a status and numbers (Table 19-4) and did nothing else. -/
def DbgSaid (probe : Bool) (op : String) (status : Nat) (ns : List Nat) (s s' : State) : Prop :=
  s' = { s with out := s.out ++ [.other op ([b2n probe, status] ++ ns)] }

/-- TAP_RESET to DAP and DEBUG_HALT to DEBUG_REGISTER_ACCESS (R427–R431). What a request's answer looks like on the port is the
model's own (NOTES.md); assumption 25 gives IDCODE after a TAP reset, 88 the statuses, 134 withdraws what a tine has not taken. -/
def Obligations.TapAndDebugRequests : Prop :=
  (∀ s : State,
    (∃ s', exec .tapReset s = .next s' ∧ s'.tap = .idcode ∧ GrantEnded true s s') ∧
    exec .bypass s = .next { s with tap := .bypass } ∧ exec .samplePreload s = .next { s with tap := .sample } ∧
    exec .dap s = .next { s with tap := .dap } ∧
    exec .idcode s = .next { s with tap := .idcode, readData := wd 0x0512A0C3 } ∧
    exec .extest s = .next { s with tap := .extest } ∧ exec .clamp s = .next { s with tap := .clamp } ∧
    exec .highz s = .next { s with tap := .highz } ∧
    (let may := s.otp.lc = 0 ∨ s.otp.lc = 1 ∨ s.probeSess.level = 2
     (s.tap = .extest ∨ s.tap = .clamp ∨ s.tap = .highz → (may → tapActs s = s.tap) ∧ (¬may → tapActs s = .bypass)) ∧
     (s.tap ≠ .extest → s.tap ≠ .clamp → s.tap ≠ .highz → tapActs s = s.tap))) ∧
  (∀ (s : State) (probe : Bool) (t : TineNo) (up : Upset) (wr : Option Word),
    let x := sessOf s probe
    let d := t.val / 9
    let mine : HaltKind := if probe then .probe else .host
    let onTine := fun (op : String) (y : Tine) (s' : State) => tineAt s' t = y ∧ (∀ u, u ≠ t.val → tineAt s' u = tineAt s u) ∧
      s'.out = s.out ++ [.other op [b2n probe, 0]] ∧ s' = { s with tines := s'.tines, regs := s'.regs, out := s'.out }
    let waits := fun (op : DbgOp) (s' : State) => s'.dbgHeld = s.dbgHeld ++ [{ probe := probe, grant := x, op := op }]
    (¬SessReaches probe s → Runs (.debugHalt probe t) s (fun s' => s' = s) ∧ Runs (.debugResume probe t) s (fun s' => s' = s) ∧
      Runs (.debugStep probe t) s (fun s' => s' = s) ∧ (∀ a, Runs (.debugMemoryAccess probe a wr up) s fun s' => s' = s) ∧
      ∀ r, Runs (.debugRegisterAccess probe r wr) s fun s' => s' = s) ∧
    (SessReaches probe s →
    (x.level = 0 → Runs (.debugHalt probe t) s (DbgSaid probe "halt" 1 [] s) ∧
      Runs (.debugResume probe t) s (DbgSaid probe "resume" 1 [] s) ∧ Runs (.debugStep probe t) s (DbgSaid probe "step" 1 [] s) ∧
      (∀ a, Runs (.debugMemoryAccess probe a wr up) s (DbgSaid probe "mem" 1 [] s)) ∧
      (∀ i, Runs (.debugRegisterAccess probe (.g t i) wr) s (DbgSaid probe "reg" (if domAsleep s d then 3 else 1) [] s))) ∧
    (x.level ≠ 0 → domSt s d = .stop → x.debugWake = false →
      Runs (.debugHalt probe t) s (DbgSaid probe "halt" 3 [] s) ∧ Runs (.debugResume probe t) s (DbgSaid probe "resume" 3 [] s) ∧
      Runs (.debugStep probe t) s (DbgSaid probe "step" 3 [] s)) ∧
    -- a request to a domain that is stopping waits, and one that wakes it waits for it (R429, R431)
    (x.level ≠ 0 → domSt s d = .stopping → Runs (.debugHalt probe t) s (fun s' => waits (.halt t) s' ∧ s' = { s with dbgHeld := s'.dbgHeld }) ∧
      Runs (.debugResume probe t) s (fun s' => waits (.resume t) s' ∧ s' = { s with dbgHeld := s'.dbgHeld }) ∧
      Runs (.debugStep probe t) s (fun s' => waits (.step t) s' ∧ s' = { s with dbgHeld := s'.dbgHeld }) ∧
      ∀ i, Runs (.debugRegisterAccess probe (.g t i) wr) s fun s' => waits (.reg (.g t i) wr) s' ∧ s' = { s with dbgHeld := s'.dbgHeld }) ∧
    (x.level ≠ 0 → domSt s d = .stop → x.debugWake = true → StopsAgree s → d ∉ s.pwr.want →
      Runs (.debugHalt probe t) s fun s' => RunAsked (withDeps (2 ^ d)) s s' ∧ waits (.halt t) s') ∧
    (x.level ≠ 0 → domSt s d = .run →
      let covered := x.level = 2 ∨ (x.level = 1 ∧ tW s t = false)
      let between := regF s (pgTine t) oCLOCHE 0 7 = 0 ∧ owesFault s t = false
      let halted := (tineAt s t).halt = .host ∨ (tineAt s t).halt = .probe
      ((tineAt s t).halt = .no → covered → between → Runs (.debugHalt probe t) s (onTine "halt"
        { tineAt s t with halt := mine, dreq := .none, flight := none, window := [], fault := none, entry := none })) ∧
      ((tineAt s t).halt ≠ .no → Runs (.debugHalt probe t) s (DbgSaid probe "halt" 0 [] s)) ∧
      ((tineAt s t).halt = .no → ¬(covered ∧ between) → Runs (.debugHalt probe t) s (onTine "halt"
        { tineAt s t with dreq := .halt probe })) ∧
      (¬covered → Runs (.debugResume probe t) s (DbgSaid probe "resume" 2 [] s) ∧
        (halted → Runs (.debugStep probe t) s (DbgSaid probe "step" 2 [] s))) ∧
      (covered → halted → Runs (.debugResume probe t) s (fun s' => (tineAt s' t).halt = .no ∧ (tineAt s' t).dreq = .none ∧
          (tineAt s' t).pc = (tineAt s t).pc ∧ (∀ u, u ≠ t.val → tineAt s' u = tineAt s u) ∧ s'.mem = s.mem) ∧
        Runs (.debugStep probe t) s (onTine "step" { tineAt s t with dreq := .step probe })) ∧
      ((tineAt s t).halt = .no → Runs (.debugStep probe t) s (DbgSaid probe "step" 5 [] s) ∧
        (∀ i, Runs (.debugRegisterAccess probe (.g t i) wr) s (DbgSaid probe "reg" 5 [] s))) ∧
      ((tineAt s t).halt ≠ .no → covered → ∀ (i : Gr) (v : Word),
        Runs (.debugRegisterAccess probe (.g t i) none) s (fun s' => s'.readData = getG s t i ∧
          s' = { s with readData := s'.readData, out := s.out ++ [.other "reg" [b2n probe, 0, (getG s t i).toNat]] }) ∧
        Runs (.debugRegisterAccess probe (.g t i) (some v)) s (fun s' => getG s' t i = v ∧ KeepsG t [i] s s' ∧ OnlyTine t s { s' with out := s.out }) ∧
        Runs (.debugRegisterAccess probe (.pc t) (some v)) s (fun s' => (tineAt s' t).pc = BitVec.ofNat 14 v.toNat ∧
          KeepsG t [] s s') ∧
        Runs (.debugRegisterAccess probe (.pc t) none) s (fun s' => s'.readData = wd (tineAt s t).pc.toNat))) ∧
    (∀ (pa : BitVec 34) (v : Word), x.level = 2 → regionOf pa.toNat = .shed false → domSt s domShda = .run →
      (reservedPa pa.toNat = false → ueAt s pa.toNat = false →
        Runs (.debugMemoryAccess probe (.phys pa) none .ok) s (fun s' => s'.readData = memGet s pa.toNat ∧
          s' = { s with readData := s'.readData, out := s.out ++ [.other "mem" [b2n probe, 0, (memGet s pa.toNat).toNat]] }) ∧
        Runs (.debugMemoryAccess probe (.phys pa) (some v) .ok) s (fun s' => memGet s' pa.toNat = v ∧
          (∀ a, a ≠ pa.toNat → memGet s' a = memGet s a) ∧ s' = { s with mem := s'.mem, ue := s'.ue, out := s'.out })) ∧
      (reservedPa pa.toNat = true → Runs (.debugMemoryAccess probe (.phys pa) (some v) .ok) s fun s' => s'.mem = s.mem ∧
        regF s' pgSec 0x016 12 12 = min 4095 (regF s pgSec 0x016 12 12 + 1)))))

/-- Every offer of a value (`gaugeOffer`) and GAUGE_TICK_SAMPLE obey R438. -/
def Obligations.GaugeBins : Prop :=
  ∀ (s : State) (g : Fin 64) (v : Int), bit (gCfg s g) 0 = true → (gaugeAt s g).start ≤ s.now →
    let x := gaugeAt s g
    let takes := fun (v : Int) (s' : State) =>
      let a := if bit (gCfg s g) 1 then (if v = -2147483648 then 2147483647 else max v (-v)) else v
      let k := (min 31 (max 0 ((a - x.loInForce) / 2 ^ x.bshInForce))).toNat
      let y := gaugeAt s' g
      let bin := fun (r : GaugeRec) (k : Nat) => Tbl.get (fun _ => 0) r.bins k
      y.win.lo = min x.win.lo a ∧ y.win.hi = max x.win.hi a ∧ y.win.count = min 0xFFFFFFFF (x.win.count + 1) ∧
        bin y.win k = min 0xFFFFFFFF (bin x.win k + 1) ∧ (∀ j, j ≠ k → bin y.win j = bin x.win j) ∧
        (∀ h, h ≠ g.val → gaugeAt s' h = gaugeAt s h) ∧ s' = { s with gauges := s'.gauges }
    gaugeHolds s g s.now = true →
    (-2147483648 ≤ v → v ≤ 2147483647 → ∀ clipped : Bool,
      takes v (gaugeOffer (getF (gCfg s g) 2 4) (getF (gCfg s g) 6 12) v clipped g s)) ∧
    (∀ mv : Nat, mv < 65536 → getF (gCfg s g) 2 4 = 6 → x.tick ≠ some s.now → Runs (.gaugeTickSample g mv) s (takes mv))

/-- GAUGE_CFG_WRITE and GAUGE_WINDOW_CLOSE (R440). -/
def Obligations.GaugeConfiguration : Prop :=
  ∀ (s : State) (w : Who) (g : Fin 64) (v : Word), regGate s w pgGauge (gBase g) = .ok →
    let old := gCfg s g
    let changed := getF v 2 4 ≠ getF old 2 4 ∨ getF v 6 12 ≠ getF old 6 12 ∨ bit v 1 ≠ bit old 1 ∨ getF v 18 20 ≠ getF old 18 20
    let named := match getF v 2 4 with
      | 0 | 11 => getF v 6 12 < 512
      | 1 | 4 => getF v 6 12 < 256
      | 2 | 3 | 5 | 9 => getF v 6 12 < 128
      | 6 => getF v 6 12 = 0
      | 7 => getF v 6 12 < 16
      | 8 => getF v 6 12 < 8
      | 10 => getF v 6 12 < 1152
      | _ => False
    let lo := reg s pgGauge (gBase g + 1)
    let scale := fun s' : State => (gaugeAt s' g).loInForce = sx 32 (getF lo 0 32) ∧ (gaugeAt s' g).bshInForce = getF lo 32 5
    let only := fun s' : State => s' = { s with regs := s'.regs, gauges := s'.gauges } ∧
      ∀ h, h ≠ g.val → gaugeAt s' h = gaugeAt s h
    ((bit old 0 = true ∧ changed) ∨ ¬named → Runs (.gaugeCfgWrite w g v) s fun s' => regB s' pgGauge (gBase g + 3) 22 = true ∧ gCfg s' g = old ∧
      s' = { s with regs := s'.regs } ∧ ∀ p o, o < 1024 → (p ≠ pgGauge ∨ o ≠ gBase g + 3) → reg s' p o = reg s p o) ∧
    (¬(bit old 0 = true ∧ changed) → named →
      (bit v 0 = true → bit old 0 = false → Runs (.gaugeCfgWrite w g v) s fun s' => gCfg s' g = v &&& wd 0x3FFFFFFFFF ∧ only s' ∧ scale s' ∧
        (gaugeAt s' g).win.count = 0 ∧ (gaugeAt s' g).last = (gaugeAt s g).last) ∧
      (bit v 0 = true → bit old 0 = true → Runs (.gaugeCfgWrite w g v) s fun s' => gCfg s' g = v &&& wd 0x3FFFFFFFFF ∧ s'.gauges = s.gauges ∧ only s') ∧
      (bit v 0 = false → Runs (.gaugeCfgWrite w g v) s fun s' => gCfg s' g = v &&& wd 0x3FFFFFFFFF ∧ only s' ∧
        (gaugeAt s' g).win = GaugeRec.empty ∧ (gaugeAt s' g).last = (gaugeAt s g).last)) ∧
    (gaugeWrite (gBase g + 1) v s).gauges = s.gauges ∧
    (∀ e, gaugeEnd s g = some e → e ≤ s.now → Runs (.gaugeWindowClose g) s scale)

/-- GAUGE_WINDOW_CLOSE to FAULT_CLEAR (R439, R441, R442, R448, R450). -/
def Obligations.GaugeWindowsAndRecords : Prop :=
  (∀ (s : State) (g : Fin 64) (v : Int) (k : Bool), bit (gCfg s g) 0 = true → (gaugeAt s g).start ≤ s.now →
    gaugeHolds s g s.now = false →
    gaugeOffer (getF (gCfg s g) 2 4) (getF (gCfg s g) 6 12) v k g s =
      setGauge g { gaugeAt s g with late := (gaugeAt s g).late ++ [(s.now, v, k)] } s) ∧
  (∀ (s : State) (g : Fin 64) (e : Nat), gaugeEnd s g = some e →
    (s.now < e → Runs (.gaugeWindowClose g) s fun s' => s' = s) ∧
    (e ≤ s.now → Runs (.gaugeWindowClose g) s fun s' =>
      let x := gaugeAt s g
      (gaugeAt s' g).last = { x.win with index := x.index, part := false } ∧
      (x.late = [] → (gaugeAt s' g).win = { GaugeRec.empty with index := x.index + 1 }) ∧ (gaugeAt s' g).base = e ∧
      (∀ t v k, x.late = [(t, v, k)] → t < e + getF (gCfg s g) 18 20 → (∀ m u a, s.snap = some (m, u, a) → u + 1 = e) →
        (gaugeAt s' g).win.count = 1 ∧ (gaugeAt s' g).late = []) ∧
      regF s' pgGauge (gBase g + 3) 0 20 = (regF s pgGauge (gBase g + 3) 0 20 + 1) % 2 ^ 20 ∧
      (∀ h, h ≠ g.val → gaugeAt s' h = gaugeAt s h) ∧ s'.mem = s.mem)) ∧
  (∀ (s : State) (w : Who) (hi : BitVec 32), regGate s w pgGauge 0x011 = .ok → s.snap = none →
    Runs (.gaugeSnap w hi) s fun s' => s'.snap = some (regF s pgGauge 0x010 0 32 + 2 ^ 32 * hi.toNat, s.now, none) ∧
      s' = { s with snap := s'.snap, regs := s'.regs } ∧
      ∀ p o, o < 1024 → (p ≠ pgGauge ∨ o ≠ 0x011) → reg s' p o = reg s p o) ∧
  (∀ (s : State) (mask : BitVec 64) (dlen : Nat),
    let n := ((List.range 64).filter fun i => mask.getLsbD i).length
    (diagBusy s = true → Runs (.gaugeSnapshot mask dlen) s fun s' => s' = s) ∧
    (diagBusy s = false → dlen < 152 * n → Runs (.gaugeSnapshot mask dlen) s fun s' => s'.adminLast = (0x20, 0x0024, 0) ∧ s'.snap = s.snap ∧
      s'.mem = s.mem) ∧
    (diagBusy s = false → 152 * n ≤ dlen → s.snap = none → Runs (.gaugeSnapshot mask dlen) s fun s' =>
      s' = { s with snap := some (mask.toNat, s.now, some mask.toNat) }) ∧
    -- one that a register asked for in the same tick closes with it; the record holds the command's gauges alone
    (diagBusy s = false → 152 * n ≤ dlen → ∀ m t, s.snap = some (m, t, none) → Runs (.gaugeSnapshot mask dlen) s fun s' =>
      s' = { s with snap := some (Nat.lor m mask.toNat, t, some mask.toNat) })) ∧
  (∀ (s : State) (mask t : Nat) (admin : Option Nat), s.snap = some (mask, t, admin) →
    (s.now ≤ t ∨ snapBehind s mask (t + 1) = true → Runs .snapshotClose s fun s' => s' = s) ∧
    (t < s.now → snapBehind s mask (t + 1) = false → Runs .snapshotClose s fun s' => s'.snap = none ∧
      (admin.isSome = true → s'.adminLast = (0x20, 0, (t + 1) % 2 ^ 32)) ∧
      ∀ g, g < 64 →
        let x := gaugeAt s g
        let closes := mask.testBit g = true ∧ bit (gCfg s g) 0 = true ∧ x.base < t + 1
        (closes → (gaugeAt s' g).last = { x.win with index := x.index, part := decide (gaugeEnd s g ≠ some (t + 1)) } ∧
          (x.late = [] → (gaugeAt s' g).win = { GaugeRec.empty with index := x.index + 1 }) ∧ (gaugeAt s' g).base = t + 1) ∧
        (¬closes → gaugeAt s' g = x))) ∧
  (∀ (s : State) (w : Who),
    (regGate s w pgGauge 0x020 = .ok → Runs (.gaugeRecordRead w) s fun s' =>
      let r := (gaugeAt s (regF s pgGauge 0x013 0 6)).last
      s'.readData = wd (modI 32 r.lo) ∧ reg s' pgGauge 0x021 = wd (modI 32 r.hi) ∧ reg s' pgGauge 0x022 = wd r.count ∧
        (∀ k, k < 32 → reg s' pgGauge (0x024 + k) = wd (Tbl.get (fun _ => 0) r.bins k)) ∧
        s' = { s with readData := s'.readData, regs := s'.regs } ∧
        ∀ p o, o < 1024 → (p ≠ pgGauge ∨ o < 0x020 ∨ 0x043 < o) → reg s' p o = reg s p o) ∧
    (regGate s w pgGauge 0x017 = .ok → Runs (.gaugeFrecRead w) s fun s' =>
      s' = { s with readData := s'.readData, regs := s'.regs } ∧
      (∀ e, s.frec[regF s pgGauge 0x016 0 6]? = some e → s'.readData = wd e.seq ∧ reg s' pgGauge 0x019 = wd e.tick ∧
        reg s' pgGauge 0x01A = wd (e.kind + 16 * e.src) ∧ reg s' pgGauge 0x01B = e.data) ∧
      (s.frec[regF s pgGauge 0x016 0 6]? = none → s'.readData = 0 ∧ ∀ k, k < 3 → reg s' pgGauge (0x019 + k) = 0))) ∧
  (∀ (s : State) (steps : BitVec 12),
    (pllLock s = true → dlcalDue s = true → Runs (.delayLineCalibration steps) s fun s' => reg s' pgGauge 0x012 = wd steps.toNat ∧
      s'.dlcal = some s.now ∧ s'.gauges = s.gauges ∧ s'.mem = s.mem) ∧
    (pllLock s = false ∨ dlcalDue s = false → Runs (.delayLineCalibration steps) s fun s' => s' = s)) ∧
  (∀ (s : State) (first count dlen : Nat), diagBusy s = false →
    (count < 1 ∨ 64 < count → Runs (.faultRead first count dlen) s fun s' => s'.adminLast = (0x25, 0x0023, 0) ∧ s'.mem = s.mem) ∧
    (1 ≤ count → count ≤ 64 → dlen < 20 * count → Runs (.faultRead first count dlen) s fun s' =>
      s'.adminLast = (0x25, 0x0024, 0) ∧ s'.mem = s.mem) ∧
    (1 ≤ count → count ≤ 64 → 20 * count ≤ dlen → Runs (.faultRead first count dlen) s fun s' =>
      s'.adminLast = (0x25, 0, min count (s.frec.length - first)) ∧ s'.frec = s.frec ∧ s'.regs = s.regs)) ∧
  (∀ (s : State) (seq : BitVec 32),
    let next := regF s pgGauge 0x014 0 32
    let v := if next ≤ seq.toNat then next - 1 else seq.toNat
    (diagBusy s = true → Runs (.faultClear seq) s fun s' => s' = s) ∧
    (diagBusy s = false → Runs (.faultClear seq) s fun s' => s'.frec = s.frec.filter (fun e => decide (v < e.seq)) ∧
      (s.frec.length ≤ 64 → regF s' pgGauge 0x014 32 7 = s'.frec.length) ∧ regF s' pgGauge 0x014 0 32 = next ∧
      s'.adminLast = (0x26, 0, s'.frec.length) ∧ s'.mem = s.mem))

/-- LINE_CAL to LINE_CLASSIFY and LINE_TEST_PHASE_END (R443–R447); when a trip ends the injection is assumption 147's. -/
def Obligations.LineTests : Prop :=
  (∀ (s : State) (r8 h8 : BitVec 8),
    let r := r8.toNat
    let h := h8.toNat
    let ends := fun (opc st : Nat) (s' : State) => s'.adminLast = (opc, st, 0) ∧ s'.line = none ∧ s'.mem = s.mem ∧ s'.regs = s.regs
    let injects := fun (x : LineTest) (mv : Int) (s' : State) => s'.line = some x ∧ regF s' (pgHoe r) (hB h + 7) 0 2 = 2 ∧
      reg s' (pgHoe r) (hB h + 8) = perVref s r h mv ∧ reg s' (pgHoe r) (hB h + 9) = 0 ∧
      s' = { s with line := s'.line, regs := s'.regs }
    -- a test that begins with phase `ph` and has gathered nothing
    let test := fun (ph : LinePhase) (opc : Nat) (args : List Nat) (dcl settle avg : Nat) =>
      LineTest.mk opc r h args dcl settle avg ph s.now 0 0 0 0 0 0 0 0 0 0 none []
    let dc := test .settle1
    (diagBusy s = true → (∀ x, Runs (.lineCal r8 h8 x) s fun s' => s' = s) ∧ (∀ a b c, Runs (.lineDcr r8 h8 a b c) s fun s' => s' = s) ∧
      (∀ a b c d e, Runs (.lineImp r8 h8 a b c d e) s fun s' => s' = s) ∧
      (∀ a b c, Runs (.lineClassify r8 h8 a b c) s fun s' => s' = s)) ∧
    (diagBusy s = false → ¬(r < 4 ∧ h < 32) → (∀ x, Runs (.lineCal r8 h8 x) s (ends 0x21 0x0023)) ∧
      (∀ a b c, Runs (.lineDcr r8 h8 a b c) s (ends 0x22 0x0023)) ∧ (∀ a b c d e, Runs (.lineImp r8 h8 a b c d e) s (ends 0x23 0x0023)) ∧
      (∀ a b c, Runs (.lineClassify r8 h8 a b c) s (ends 0x24 0x0023))) ∧
    (diagBusy s = false → r < 4 → h < 32 →
      (∀ rref : BitVec 32,
        (lineReady s r h = false → Runs (.lineCal r8 h8 rref) s (ends 0x21 0x0020)) ∧
        (lineReady s r h = true → Runs (.lineCal r8 h8 rref) s (injects (dc 0x21 [rref.toNat] 500 20 100) 500))) ∧
      (∀ dcl settle avg : Nat,
        let good := 10 ≤ dcl ∧ dcl ≤ 2000 ∧ 1 ≤ settle ∧ settle ≤ 1000 ∧ 1 ≤ avg ∧ avg ≤ 1000
        (¬good → Runs (.lineDcr r8 h8 dcl settle avg) s (ends 0x22 0x0023)) ∧
        (good → lineReady s r h = false → Runs (.lineDcr r8 h8 dcl settle avg) s (ends 0x22 0x0020)) ∧
        (good → lineReady s r h = true → Runs (.lineDcr r8 h8 dcl settle avg) s (injects (dc 0x22 [] dcl settle avg) dcl))) ∧
      (∀ amp f1 f2 n dlen : Nat,
        let good := 10 ≤ amp ∧ amp ≤ 2000 ∧ 20 ≤ f1 ∧ f1 ≤ f2 ∧ f2 ≤ 20000 ∧ 1 ≤ n ∧ n ≤ 64
        (¬good → Runs (.lineImp r8 h8 amp f1 f2 n dlen) s (ends 0x23 0x0023)) ∧
        (good → dlen < 8 * n → Runs (.lineImp r8 h8 amp f1 f2 n dlen) s (ends 0x23 0x0024)) ∧
        (good → 8 * n ≤ dlen → lineReady s r h = false → Runs (.lineImp r8 h8 amp f1 f2 n dlen) s (ends 0x23 0x0020)) ∧
        (good → 8 * n ≤ dlen → lineReady s r h = true → Runs (.lineImp r8 h8 amp f1 f2 n dlen) s fun s' =>
          s'.line = some (test .point 0x23 [amp, f1, f2, n] 0 0 0) ∧
          regF s' (pgHoe r) (hB h + 7) 0 2 = 2 ∧ reg s' (pgHoe r) (hB h + 8) = 0 ∧
          reg s' (pgHoe r) (hB h + 9) = perVref s r h amp)) ∧
      (∀ (cell : BitVec 8) (rs ro : BitVec 32),
        let good := hEn s r h = false ∧ hSheared s r h = false ∧ cEn s r cell.toNat = true ∧ cFunc s r cell.toNat = 10
        (128 ≤ cell.toNat → Runs (.lineClassify r8 h8 cell rs ro) s (ends 0x24 0x0023)) ∧
        (cell.toNat < 128 → ¬good → Runs (.lineClassify r8 h8 cell rs ro) s (ends 0x24 0x0020)) ∧
        (cell.toNat < 128 → good → Runs (.lineClassify r8 h8 cell rs ro) s fun s' => s' = { s with
          line := some (test .terminal 0x24 [cell.toNat, rs.toNat, ro.toNat] 500 20 20) })))) ∧
  (∀ (s : State) (x : LineTest) (r : Fin 4) (h : Fin 32), s.line = some x →
    let done := fun (st : Nat) (s' : State) => s'.line = none ∧ s'.adminLast.1 = x.opc ∧ s'.adminLast.2.1 = st ∧
      reg s' (pgHoe r) (hB h + 7) = 0
    let fresh := fun y : LineTest => { y with since := s.now, cnt := 0, sv := 0, si := 0, vs := 0, vc := 0, is := 0, ic := 0 }
    let phase := fun (p : LinePhase) (s' : State) => s' = { s with line := some (fresh { x with phase := p }) }
    let same := fun s' : State => s' = s
    (x.r ≠ r ∨ x.h ≠ h → Runs (.lineTestPhaseEnd r h) s same) ∧
    (x.r = r → x.h = h →
      (∀ st, x.broken = some st → 0 < st → Runs (.lineTestPhaseEnd r h) s fun s' => done st s' ∧ s'.mem = s.mem) ∧
      (x.broken = none →
        -- a Shear trip or a disable ends the injection at once (R443, assumption 147)
        (∀ w, regGate s w (pgHoe r) (hB h + 0xB) = .ok → hSheared s r h = false → Runs (.hoeTrip w r h) s fun s' =>
          s'.line = some { x with broken := some 0x21 } ∧ reg s' (pgHoe r) (hB h + 7) = 0) ∧
        (domUp s (domRow r) = true → hEn s r h = true → Runs (.portopHoeDisable r h) s fun s' =>
          s'.line = some { x with broken := some 0x22 } ∧ reg s' (pgHoe r) (hB h + 7) = 0) ∧
        (x.phase = .running → hEn s r h = false → Runs (.lineTestPhaseEnd r h) s fun s' => done 0x22 s' ∧ s'.mem = s.mem) ∧
        (x.phase ≠ .terminal → x.phase ≠ .running → hEn s r h = false ∨ hRunning s r h = false →
          Runs (.lineTestPhaseEnd r h) s fun s' => done 0x22 s' ∧ s'.mem = s.mem) ∧
        (hEn s r h = true → hRunning s r h = true →
          (x.phase = .running → lineReady s r h = true → Runs (.lineTestPhaseEnd r h) s fun s' =>
            s'.line = some (fresh { x with phase := .settle1 }) ∧ regF s' (pgHoe r) (hB h + 7) 0 2 = 2 ∧
            reg s' (pgHoe r) (hB h + 8) = perVref s r h x.dcl) ∧
          (x.phase = .settle1 ∨ x.phase = .settle2 → s.now < x.since + 1000 * x.settle → Runs (.lineTestPhaseEnd r h) s same) ∧
          (x.phase = .avg1 ∨ x.phase = .avg2 → s.now < x.since + 1000 * x.avg → Runs (.lineTestPhaseEnd r h) s same) ∧
          (x.phase = .settle1 → x.since + 1000 * x.settle ≤ s.now → Runs (.lineTestPhaseEnd r h) s (phase .avg1)) ∧
          -- the means of the registers over the phase, as their count and sums
          (x.phase = .avg1 → x.since + 1000 * x.avg ≤ s.now → 0 < x.cnt → Runs (.lineTestPhaseEnd r h) s fun s' =>
            s'.line = some (fresh { x with cnt1 := x.cnt, v1 := x.sv, i1 := x.si, phase := .settle2 }) ∧
            reg s' (pgHoe r) (hB h + 8) = perVref s r h (-(x.dcl : Int)) ∧ s'.mem = s.mem) ∧
          (x.phase = .settle2 → x.since + 1000 * x.settle ≤ s.now → Runs (.lineTestPhaseEnd r h) s (phase .avg2)) ∧
          (x.phase = .avg2 → x.since + 1000 * x.avg ≤ s.now → 0 < x.cnt → x.opc = 0x22 → Runs (.lineTestPhaseEnd r h) s fun s' => done 0 s' ∧
            s'.adminLast.2.2 = lineResult (lineR s r h (diagCal s r h) (x.cnt1, x.v1, x.i1) (x.cnt, x.sv, x.si))) ∧
          (x.phase = .point → x.since + 5000 ≤ s.now → Runs (.lineTestPhaseEnd r h) s (phase .demod))))))

/-- DEVICE_RESET to VCORE_SUPERVISOR_RELEASE (R365, R433, R465, R466). What memory reads as after a reset is the model's choice
(assumption 2), as is the TAP's instruction (assumption 25), and nothing is said of it but that no word is listed. -/
def Obligations.Resets : Prop :=
  ∀ s : State,
    let wiped := fun s' : State => s'.mem = [] ∧ s'.ue = [] ∧ s'.tines = [] ∧ s'.chans = [] ∧ s'.hops = [] ∧ s'.fifo = [] ∧
      s'.hq = [] ∧ s'.mbox = [] ∧ s'.otp = s.otp ∧ s'.pending = s.pending ∧ (∀ d, domSt s' d = .run) ∧
      s'.hostSess = Session.reset ∧ s'.probeSess = Session.reset
    let device := fun s' : State => wiped s' ∧ s'.keys = s.keys ∧ s'.vio = s.vio ∧ s'.now = s.now ∧ s'.frec = s.frec ∧ s'.tap = .idcode ∧ s'.line = none ∧
      (∀ p o, o < 1024 → (p ≠ pgBoot ∨ o ≠ 0x010) → (∀ r, r < 4 → p ≠ pgRowc r ∨ o ≠ 0x010) → reg s' p o = if regKept (regKey p o) then reg s p o else regReset (regKey p o)) ∧
      regF s' pgBoot 0x010 5 4 = regF s pgBoot 0x010 5 4 ∧ bootState s' = 0 ∧
      (∀ r, r < 4 → regF s' (pgRowc r) 0x010 10 2 = regF s (pgRowc r) 0x010 10 2)
    Runs .deviceReset s (fun s' => device s' ∧ s'.released = false) ∧
    Runs .aonReset s (fun s' => wiped s' ∧ s'.now = 0 ∧ s'.frec = [] ∧ s'.released = false ∧ s'.regs = [] ∧
      (s.otp.secret = none ∨ s.otp.lc = 3 → s'.keys = []) ∧
      (∀ bs, s.otp.secret = some bs → s.otp.lc ≠ 3 → ∀ k, k < 6 → keyWord s' 0 k = wd (numAt bs (5 * k) 5))) ∧
    (∀ sel : Fin 8,
      -- the release: nothing that came while RESET_N was low is left (R465)
      (s.released = false → Runs (.resetRelease sel) s fun s' => device s' ∧ s'.released = true ∧ s'.releasedAt = s.now ∧
        s'.boot = { Boot.reset with sel := sel.val } ∧ s'.vcoreLow = s.vcoreLow) ∧
      (s.released = true → Runs (.resetRelease sel) s fun s' => s' = s)) ∧
    (s.pwr.off = false → Runs .vcoreUndervoltage s fun s' => device s' ∧ s'.vcoreLow = true ∧ s'.vcoreAt = s.now ∧ s'.released = s.released) ∧
    (s.pwr.off = true → Runs .vcoreUndervoltage s fun s' => s' = s) ∧
    -- the hold lasts 100 µs at least (R466)
    (s.vcoreLow = true → s.vcoreAt + 100 ≤ s.now → Runs .vcoreSupervisorRelease s fun s' => device s' ∧ s'.vcoreLow = false ∧
      s'.released = s.released ∧ s'.releasedAt = s.now) ∧
    (s.vcoreLow = false ∨ s.now < s.vcoreAt + 100 → Runs .vcoreSupervisorRelease s fun s' => s' = s)

/-- The OTP programming under way may take effect when it completes, and LC is one of its four states (R422–R424). -/
def OtpSound (s : State) : Prop :=
  s.otp.lc ≤ 3 ∧
    match s.otpOp with
    | none => True
    | some (.svn v) => s.otp.svn ≤ v ∧ v ≤ 64
    | some (.field f _) => f ≤ 8 ∧ otpUsed s.otp f = false ∧ otpStateOk s.otp f = true
    | some (.lifecycle x) => lcOk s.otp x = true

/-- OTP `b` may come after OTP `a`: the lifecycle and the SVN never fall, RETURNED is never left, a programmed field is never
programmed again, and only DEV_SECRET is overwritten, at the entry to RETURNED (R422–R424). -/
structure OtpAdvances (a b : Otp) : Prop where
  lifecycle : a.lc ≤ b.lc
  svn : a.svn ≤ b.svn
  pending : a.retPending = true → b.retPending = true
  used : ∀ f, f ≤ 8 → otpUsed a f = true → otpUsed b f = true
  keys : ∀ k, k < 4 → otpUsed a k = true → Tbl.get (fun _ => none) b.img k = Tbl.get (fun _ => none) a.img k
  revoke : a.revokeSet = true → b.revoke = a.revoke
  debug : (a.dbgO.isSome = true → b.dbgO = a.dbgO) ∧ (a.dbgW.isSome = true → b.dbgW = a.dbgW)
  mac : a.mac.isSome = true → b.mac = a.mac
  factory : b.uid = a.uid ∧ b.trim = a.trim
  secret : a.secret.isSome = true → b.secret = a.secret ∨ (a.lc ≠ 3 ∧ b.lc = 3)

/-- Over every command, not only over runs from reset: the form of memory and of the registers (the model's own representation
of R8, R26 and R451, DESIGN CHOICE, assumption 2) is kept. -/
def Obligations.EveryStepKeepsTheCanonicalForm : Prop :=
  ∀ s s' : State, s.canonical = true → step s = .next s' → s'.canonical = true

/-- Over every command, resets among them (R422–R424, R433, R465). -/
def Obligations.OtpNeverGoesBack : Prop :=
  ∀ s s' : State, OtpSound s → step s = .next s' → OtpSound s' ∧ OtpAdvances s.otp s'.otp

/-- `State.reset` (R64, R224, R258, R365, R386, R448). That OTP is blank there is the model's choice (DESIGN CHOICE, NOTES.md). -/
def Obligations.ResetState : Prop :=
  let s := State.reset
  s.canonical = true ∧ OtpSound s ∧ s.pending = [] ∧ (∀ d, domSt s d = .run) ∧ bootState s = 0 ∧ s.hostSess.level = 0 ∧
    s.probeSess.level = 0 ∧ (∀ c, c < 128 → chState s c = 0) ∧
    hopSlots s 254 = 64 ∧ hopSlots s 255 = 64 ∧ (∀ h, h < 254 → hopSlots s h = 0) ∧ (∀ h, hopDepth s h = 0) ∧
    regB s (pgHop 254) (hopBase 254 + 2) 0 = true ∧ regB s (pgHop 255) (hopBase 255 + 2) 0 = true ∧
    (∀ t : TineNo, reg s (pgTine t) oDTHA = wd 0x12345679 ∧ reg s (pgTine t) oDTHB = wd 0x87654321 ∧
      (tineAt s t).halt ≠ .no) ∧
    regF s pgGauge 0x014 0 32 = 1
end

