-- ==== Sys2Proof/Laws/Bits.lean ====
section
/-! SUPPORT. Laws of bit fields: what a bit and a field of a word read as after a field was replaced. -/

namespace Sys2Proof.Machine

theorem testBit_fmask (lo len i : Nat) : (fmask lo len).testBit i = (decide (lo ≤ i) && decide (i < lo + len)) := by
  unfold fmask
  rw [Nat.testBit_mul_two_pow, Nat.testBit_two_pow_sub_one]
  by_cases h : lo ≤ i <;> simp [h]
  omega

theorem bit_wd (n i : Nat) : bit (wd n) i = (decide (i < 40) && n.testBit i) := by
  unfold bit wd
  rw [BitVec.getLsbD_ofNat]

theorem bit_ge (w : Word) {i : Nat} (h : 40 ≤ i) : bit w i = false := BitVec.getLsbD_of_ge _ _ h

theorem word_ext {a b : Word} (h : ∀ i, i < 40 → bit a i = bit b i) : a = b := BitVec.eq_of_getLsbD_eq fun i hi => h i hi

/-- A bit of a word with a field replaced. -/
theorem bit_setF (w : Word) (lo len v i : Nat) :
    bit (setF w lo len v) i = if lo ≤ i ∧ i < lo + len then decide (i < 40) && v.testBit (i - lo) else bit w i := by
  unfold setF
  by_cases h40 : i < 40
  · have e : bit (w &&& ~~~wd (fmask lo len) ||| wd (v % 2 ^ len * 2 ^ lo) &&& wd (fmask lo len)) i =
        ((bit w i && !bit (wd (fmask lo len)) i) || (bit (wd (v % 2 ^ len * 2 ^ lo)) i && bit (wd (fmask lo len)) i)) := by
      simp [bit, h40]
    rw [e, bit_wd, bit_wd, testBit_fmask, Nat.testBit_mul_two_pow, Nat.testBit_mod_two_pow]
    by_cases h1 : lo ≤ i <;> by_cases h2 : i < lo + len <;> simp [h1, h2, h40]
    intro _
    omega
  · rw [bit_ge _ (by omega), bit_ge w (by omega)]
    simp [h40]

theorem testBit_getF (w : Word) (lo len i : Nat) : (getF w lo len).testBit i = (decide (i < len) && bit w (lo + i)) := by
  unfold getF bit
  rw [BitVec.testBit_toNat, BitVec.getLsbD_extractLsb']

theorem getF_lt (w : Word) (lo len : Nat) : getF w lo len < 2 ^ len := (w.extractLsb' lo len).isLt

/-- The field replaced reads as what was put into it. -/
theorem getF_setF_same (w : Word) {lo len : Nat} (v : Nat) (h : lo + len ≤ 40) : getF (setF w lo len v) lo len = v % 2 ^ len := by
  apply Nat.eq_of_testBit_eq
  intro i
  rw [testBit_getF, bit_setF, Nat.testBit_mod_two_pow]
  by_cases hi : i < len <;> simp [hi]
  intro _
  omega

/-- A field apart from the one replaced reads as before. -/
theorem getF_setF_ne (w : Word) {lo len a n : Nat} (v : Nat) (h : a + n ≤ lo ∨ lo + len ≤ a) : getF (setF w lo len v) a n = getF w a n := by
  apply Nat.eq_of_testBit_eq
  intro i
  rw [testBit_getF, testBit_getF, bit_setF]
  by_cases hi : i < n
  · rw [if_neg (by omega)]
  · simp [hi]

theorem bit_setF_ne (w : Word) {lo len i : Nat} (v : Nat) (h : i < lo ∨ lo + len ≤ i) : bit (setF w lo len v) i = bit w i := by
  rw [bit_setF, if_neg (by omega)]

/-- A word replaced whole. -/
theorem setF_whole (w : Word) (v : Nat) : setF w 0 40 v = wd v := by
  apply word_ext
  intro i hi
  rw [bit_setF, bit_wd]
  simp [hi]

theorem bit_setB_same (w : Word) {i : Nat} (b : Bool) (h : i < 40) : bit (setB w i b) i = b := by
  unfold setB
  rw [bit_setF]
  cases b <;> simp [b2n, h]

theorem bit_setB_ne (w : Word) {i j : Nat} (b : Bool) (h : j ≠ i) : bit (setB w i b) j = bit w j := by
  unfold setB
  rw [bit_setF_ne _ _ (by omega)]

theorem getF_setB_ne (w : Word) {i a n : Nat} (b : Bool) (h : a + n ≤ i ∨ i + 1 ≤ a) : getF (setB w i b) a n = getF w a n := by
  unfold setB
  exact getF_setF_ne _ _ h

theorem getF_wd (v lo len : Nat) (h : lo + len ≤ 40) : getF (wd v) lo len = v / 2 ^ lo % 2 ^ len := by
  apply Nat.eq_of_testBit_eq
  intro i
  rw [testBit_getF, bit_wd, Nat.testBit_mod_two_pow, Nat.testBit_div_two_pow]
  by_cases hi : i < len
  · have : lo + i < 40 := by omega
    simp [hi, this, Nat.add_comm]
  · simp [hi]

end Sys2Proof.Machine
end

