-- ==== Sys2Proof/Laws/Tbl.lean ====
section
/-! SUPPORT. Laws of sparse tables: a read after a write, and the canonical form through every operation. -/

namespace Sys2Proof.Machine

variable {α : Type}

/-! ## Read after write -/

@[simp] theorem Tbl.find_insert_same (m : Tbl α) (k : Nat) (v : α) : (m.insert k v).find? k = some v := by
  induction m with
  | nil => simp [Tbl.insert, Tbl.find?]
  | cons e m ih =>
    obtain ⟨j, w⟩ := e
    simp only [Tbl.insert]
    split
    · simp [Tbl.find?]
    · split <;> simp_all [Tbl.find?]

theorem Tbl.find_insert_ne (m : Tbl α) {k l : Nat} (v : α) (h : l ≠ k) : (m.insert k v).find? l = m.find? l := by
  induction m with
  | nil => simp [Tbl.insert, Tbl.find?, Ne.symm h]
  | cons e m ih =>
    obtain ⟨j, w⟩ := e
    simp only [Tbl.insert]
    split
    · simp [Tbl.find?, Ne.symm h]
    · split
      · next hj => subst hj; simp [Tbl.find?, Ne.symm h]
      · simp [Tbl.find?, ih]

@[simp] theorem Tbl.find_erase_same (m : Tbl α) (k : Nat) : (m.erase k).find? k = none := by
  induction m with
  | nil => rfl
  | cons e m ih =>
    obtain ⟨j, w⟩ := e
    simp only [Tbl.erase]
    split <;> simp_all [Tbl.find?]

theorem Tbl.find_erase_ne (m : Tbl α) {k l : Nat} (h : l ≠ k) : (m.erase k).find? l = m.find? l := by
  induction m with
  | nil => rfl
  | cons e m ih =>
    obtain ⟨j, w⟩ := e
    simp only [Tbl.erase]
    split
    · next hj => subst hj; simp [Tbl.find?, Ne.symm h, ih]
    · simp [Tbl.find?, ih]

variable [DecidableEq α] (d : Nat → α)

/-- A read of the key written gives the value written. -/
@[simp] theorem Tbl.get_set_same (m : Tbl α) (k : Nat) (v : α) : Tbl.get d (Tbl.set d m k v) k = v := by
  unfold Tbl.get Tbl.set
  by_cases h : v = d k <;> simp [h]

/-- A write leaves every other key alone. -/
theorem Tbl.get_set_ne (m : Tbl α) {k l : Nat} (v : α) (h : l ≠ k) : Tbl.get d (Tbl.set d m k v) l = Tbl.get d m l := by
  unfold Tbl.get Tbl.set
  by_cases hv : v = d k <;> simp [hv, Tbl.find_erase_ne _ h, Tbl.find_insert_ne _ _ h]

theorem Tbl.get_set (m : Tbl α) (k l : Nat) (v : α) :
    Tbl.get d (Tbl.set d m k v) l = if l = k then v else Tbl.get d m l := by
  split
  · next h => subst h; simp
  · next h => exact Tbl.get_set_ne d m v h

omit [DecidableEq α] in
@[simp] theorem Tbl.get_nil (k : Nat) : Tbl.get d ([] : Tbl α) k = d k := rfl

/-! ## The canonical form -/

theorem Tbl.wfFrom_mono {a b : Nat} {m : Tbl α} (hab : a ≤ b) (h : Tbl.wfFrom d b m = true) : Tbl.wfFrom d a m = true := by
  cases m with
  | nil => rfl
  | cons e m =>
    obtain ⟨j, w⟩ := e
    simp only [Tbl.wfFrom, Bool.and_eq_true, decide_eq_true_eq] at *
    exact ⟨⟨by omega, h.1.2⟩, h.2⟩

theorem Tbl.wfFrom_erase {a : Nat} {m : Tbl α} (k : Nat) (h : Tbl.wfFrom d a m = true) : Tbl.wfFrom d a (m.erase k) = true := by
  induction m generalizing a with
  | nil => rfl
  | cons e m ih =>
    obtain ⟨j, w⟩ := e
    simp only [Tbl.wfFrom, Bool.and_eq_true, decide_eq_true_eq] at h
    simp only [Tbl.erase]
    split
    · exact Tbl.wfFrom_mono d (by omega) (ih h.2)
    · simp [Tbl.wfFrom, h.1.1, h.1.2, ih h.2]

theorem Tbl.wfFrom_insert {a : Nat} {m : Tbl α} {k : Nat} {v : α} (ha : a ≤ k) (hv : v ≠ d k) (h : Tbl.wfFrom d a m = true) :
    Tbl.wfFrom d a (m.insert k v) = true := by
  induction m generalizing a with
  | nil => simp [Tbl.insert, Tbl.wfFrom, ha, hv]
  | cons e m ih =>
    obtain ⟨j, w⟩ := e
    simp only [Tbl.wfFrom, Bool.and_eq_true, decide_eq_true_eq] at h
    simp only [Tbl.insert]
    split
    · next hk => simp [Tbl.wfFrom, ha, hv, h.1.2, h.2, Nat.succ_le_of_lt hk]
    · split
      · next hj => subst hj; simp [Tbl.wfFrom, ha, hv, h.2]
      · next hk hj => simp [Tbl.wfFrom, h.1.1, h.1.2, ih (by omega) h.2]

/-- Writing keeps the canonical form. -/
theorem Tbl.wf_set {m : Tbl α} (k : Nat) (v : α) (h : Tbl.wf d m = true) : Tbl.wf d (Tbl.set d m k v) = true := by
  unfold Tbl.wf Tbl.set at *
  split
  · exact Tbl.wfFrom_erase d k h
  · next hv => exact Tbl.wfFrom_insert d (Nat.zero_le k) hv h

theorem Tbl.wfFrom_filter {a : Nat} {m : Tbl α} (p : Nat × α → Bool) (h : Tbl.wfFrom d a m = true) :
    Tbl.wfFrom d a (m.filter p) = true := by
  induction m generalizing a with
  | nil => rfl
  | cons e m ih =>
    obtain ⟨j, w⟩ := e
    simp only [Tbl.wfFrom, Bool.and_eq_true, decide_eq_true_eq] at h
    simp only [List.filter]
    split
    · simp [Tbl.wfFrom, h.1.1, h.1.2, ih h.2]
    · exact Tbl.wfFrom_mono d (by omega) (ih h.2)

/-- Dropping entries keeps the canonical form. -/
theorem Tbl.wf_filter {m : Tbl α} (p : Nat × α → Bool) (h : Tbl.wf d m = true) : Tbl.wf d (m.filter p) = true :=
  Tbl.wfFrom_filter d p h

/-- Changing every listed value keeps the canonical form. -/
theorem Tbl.wf_mapV {m : Tbl α} (f : Nat → α → α) (h : Tbl.wf d m = true) : Tbl.wf d (m.mapV d f) = true := by
  suffices ∀ a, Tbl.wfFrom d a m = true → Tbl.wfFrom d a (m.mapV d f) = true from this 0 h
  clear h
  induction m with
  | nil => intros; rfl
  | cons e m ih =>
    obtain ⟨j, w⟩ := e
    intro a h
    simp only [Tbl.wfFrom, Bool.and_eq_true, decide_eq_true_eq] at h
    simp only [Tbl.mapV]
    split
    · exact Tbl.wfFrom_mono d (by omega) (ih _ h.2)
    · next hne => simp [Tbl.wfFrom, h.1.1, hne, ih _ h.2]

/-! ## Equal reads are equal tables -/

theorem Tbl.find_none_of_wfFrom {a k : Nat} {m : Tbl α} (hk : k < a) (h : Tbl.wfFrom d a m = true) : m.find? k = none := by
  induction m generalizing a with
  | nil => rfl
  | cons e m ih =>
    obtain ⟨j, w⟩ := e
    simp only [Tbl.wfFrom, Bool.and_eq_true, decide_eq_true_eq] at h
    simp only [Tbl.find?, show ¬j = k by omega, if_false]
    exact ih (by omega) h.2

theorem Tbl.get_of_wfFrom {a k : Nat} {m : Tbl α} (hk : k < a) (h : Tbl.wfFrom d a m = true) : Tbl.get d m k = d k := by
  simp [Tbl.get, Tbl.find_none_of_wfFrom d hk h]

/-- Two canonical tables that read alike at every key are the same table. -/
theorem Tbl.ext_of_wf {m n : Tbl α} (hm : Tbl.wf d m = true) (hn : Tbl.wf d n = true)
    (h : ∀ k, Tbl.get d m k = Tbl.get d n k) : m = n := by
  suffices ∀ a, Tbl.wfFrom d a m = true → Tbl.wfFrom d a n = true → m = n from this 0 hm hn
  clear hm hn
  induction m generalizing n with
  | nil =>
    intro a _ hn
    cases n with
    | nil => rfl
    | cons e n =>
      obtain ⟨j, w⟩ := e
      simp only [Tbl.wfFrom, Bool.and_eq_true, decide_eq_true_eq] at hn
      exact absurd (h j).symm (by simpa [Tbl.get, Tbl.find?] using hn.1.2)
  | cons e m ih =>
    intro a hm hn
    obtain ⟨j, w⟩ := e
    simp only [Tbl.wfFrom, Bool.and_eq_true, decide_eq_true_eq] at hm
    cases n with
    | nil => exact absurd (h j) (by simpa [Tbl.get, Tbl.find?] using hm.1.2)
    | cons f n =>
      obtain ⟨i, v⟩ := f
      simp only [Tbl.wfFrom, Bool.and_eq_true, decide_eq_true_eq] at hn
      have at_j := h j
      have at_i := h i
      have hji : j = i := by
        rcases Nat.lt_trichotomy j i with hl | he | hl
        · have := Tbl.get_of_wfFrom d (show j < i + 1 by omega) hn.2
          simp only [Tbl.get, Tbl.find?, if_true, show ¬i = j by omega, if_false] at at_j this
          exact absurd (at_j.trans this) hm.1.2
        · exact he
        · have := Tbl.get_of_wfFrom d (show i < j + 1 by omega) hm.2
          simp only [Tbl.get, Tbl.find?, if_true, show ¬j = i by omega, if_false] at at_i this
          exact absurd (at_i.symm.trans this) hn.1.2
      subst hji
      have hvw : w = v := by simpa [Tbl.get, Tbl.find?] using at_j
      subst hvw
      refine congrArg _ (ih (n := n) (fun k => ?_) _ hm.2 hn.2)
      rcases Nat.lt_or_ge k (j + 1) with hk | hk
      · rw [Tbl.get_of_wfFrom d hk hm.2, Tbl.get_of_wfFrom d hk hn.2]
      · have := h k
        simpa [Tbl.get, Tbl.find?, show ¬j = k by omega] using this

end Sys2Proof.Machine
end

