-- ==== Sys2Proof/Laws/State.lean ====
section
/-! SUPPORT. One law per update and field, and per update and read: an update leaves every field of State but its own as it was,
and a read after a write gives what was written. -/

namespace Sys2Proof.Machine

variable (s : State)

/-! ## Keys -/

theorem regKey_inj {p o q i : Nat} (ho : o < 1024) (hi : i < 1024) : regKey p o = regKey q i ↔ p = q ∧ o = i := by
  unfold regKey
  omega

/-! ## setReg -/

@[simp] theorem setReg_pending (pg off : Nat) (v : Word) : (setReg pg off v s).pending = s.pending := rfl
@[simp] theorem setReg_now (pg off : Nat) (v : Word) : (setReg pg off v s).now = s.now := rfl
@[simp] theorem setReg_free (pg off : Nat) (v : Word) : (setReg pg off v s).free = s.free := rfl
@[simp] theorem setReg_mem (pg off : Nat) (v : Word) : (setReg pg off v s).mem = s.mem := rfl
@[simp] theorem setReg_ue (pg off : Nat) (v : Word) : (setReg pg off v s).ue = s.ue := rfl
@[simp] theorem setReg_xcache (pg off : Nat) (v : Word) : (setReg pg off v s).xcache = s.xcache := rfl
@[simp] theorem setReg_tines (pg off : Nat) (v : Word) : (setReg pg off v s).tines = s.tines := rfl
@[simp] theorem setReg_bandCap (pg off : Nat) (v : Word) : (setReg pg off v s).bandCap = s.bandCap := rfl
@[simp] theorem setReg_mbox (pg off : Nat) (v : Word) : (setReg pg off v s).mbox = s.mbox := rfl
@[simp] theorem setReg_withheld (pg off : Nat) (v : Word) : (setReg pg off v s).withheld = s.withheld := rfl
@[simp] theorem setReg_hops (pg off : Nat) (v : Word) : (setReg pg off v s).hops = s.hops := rfl
@[simp] theorem setReg_rrLast (pg off : Nat) (v : Word) : (setReg pg off v s).rrLast = s.rrLast := rfl
@[simp] theorem setReg_gauges (pg off : Nat) (v : Word) : (setReg pg off v s).gauges = s.gauges := rfl
@[simp] theorem setReg_frec (pg off : Nat) (v : Word) : (setReg pg off v s).frec = s.frec := rfl
@[simp] theorem setReg_lockSet (pg off : Nat) (v : Word) : (setReg pg off v s).lockSet = s.lockSet := rfl
@[simp] theorem setReg_retireQ (pg off : Nat) (v : Word) : (setReg pg off v s).retireQ = s.retireQ := rfl
@[simp] theorem setReg_ports (pg off : Nat) (v : Word) : (setReg pg off v s).ports = s.ports := rfl
@[simp] theorem setReg_cellsIn (pg off : Nat) (v : Word) : (setReg pg off v s).cellsIn = s.cellsIn := rfl
@[simp] theorem setReg_devM1 (pg off : Nat) (v : Word) : (setReg pg off v s).devM1 = s.devM1 := rfl
@[simp] theorem setReg_walkUps (pg off : Nat) (v : Word) : (setReg pg off v s).walkUps = s.walkUps := rfl
@[simp] theorem setReg_chainTags (pg off : Nat) (v : Word) : (setReg pg off v s).chainTags = s.chainTags := rfl
@[simp] theorem setReg_nextTag (pg off : Nat) (v : Word) : (setReg pg off v s).nextTag = s.nextTag := rfl
@[simp] theorem setReg_chainFwd (pg off : Nat) (v : Word) : (setReg pg off v s).chainFwd = s.chainFwd := rfl
@[simp] theorem setReg_outside (pg off : Nat) (v : Word) : (setReg pg off v s).outside = s.outside := rfl
@[simp] theorem setReg_wakeMac (pg off : Nat) (v : Word) : (setReg pg off v s).wakeMac = s.wakeMac := rfl
@[simp] theorem setReg_chainBack (pg off : Nat) (v : Word) : (setReg pg off v s).chainBack = s.chainBack := rfl
@[simp] theorem setReg_dom (pg off : Nat) (v : Word) : (setReg pg off v s).dom = s.dom := rfl
@[simp] theorem setReg_fifo (pg off : Nat) (v : Word) : (setReg pg off v s).fifo = s.fifo := rfl
@[simp] theorem setReg_cells (pg off : Nat) (v : Word) : (setReg pg off v s).cells = s.cells := rfl
@[simp] theorem setReg_hoes (pg off : Nat) (v : Word) : (setReg pg off v s).hoes = s.hoes := rfl
@[simp] theorem setReg_chans (pg off : Nat) (v : Word) : (setReg pg off v s).chans = s.chans := rfl
@[simp] theorem setReg_jsel (pg off : Nat) (v : Word) : (setReg pg off v s).jsel = s.jsel := rfl
@[simp] theorem setReg_strms (pg off : Nat) (v : Word) : (setReg pg off v s).strms = s.strms := rfl
@[simp] theorem setReg_macs (pg off : Nat) (v : Word) : (setReg pg off v s).macs = s.macs := rfl
@[simp] theorem setReg_rails (pg off : Nat) (v : Word) : (setReg pg off v s).rails = s.rails := rfl
@[simp] theorem setReg_engines (pg off : Nat) (v : Word) : (setReg pg off v s).engines = s.engines := rfl
@[simp] theorem setReg_cgArm (pg off : Nat) (v : Word) : (setReg pg off v s).cgArm = s.cgArm := rfl
@[simp] theorem setReg_msixTab (pg off : Nat) (v : Word) : (setReg pg off v s).msixTab = s.msixTab := rfl
@[simp] theorem setReg_msixPend (pg off : Nat) (v : Word) : (setReg pg off v s).msixPend = s.msixPend := rfl
@[simp] theorem setReg_hostMac (pg off : Nat) (v : Word) : (setReg pg off v s).hostMac = s.hostMac := rfl
@[simp] theorem setReg_apllFrom (pg off : Nat) (v : Word) : (setReg pg off v s).apllFrom = s.apllFrom := rfl
@[simp] theorem setReg_refSince (pg off : Nat) (v : Word) : (setReg pg off v s).refSince = s.refSince := rfl
@[simp] theorem setReg_refLast (pg off : Nat) (v : Word) : (setReg pg off v s).refLast = s.refLast := rfl
@[simp] theorem setReg_pllRuns (pg off : Nat) (v : Word) : (setReg pg off v s).pllRuns = s.pllRuns := rfl
@[simp] theorem setReg_pllFrom (pg off : Nat) (v : Word) : (setReg pg off v s).pllFrom = s.pllFrom := rfl
@[simp] theorem setReg_pwmOn (pg off : Nat) (v : Word) : (setReg pg off v s).pwmOn = s.pwmOn := rfl
@[simp] theorem setReg_pwmClk (pg off : Nat) (v : Word) : (setReg pg off v s).pwmClk = s.pwmClk := rfl
@[simp] theorem setReg_vio (pg off : Nat) (v : Word) : (setReg pg off v s).vio = s.vio := rfl
@[simp] theorem setReg_blkFrom (pg off : Nat) (v : Word) : (setReg pg off v s).blkFrom = s.blkFrom := rfl
@[simp] theorem setReg_trims (pg off : Nat) (v : Word) : (setReg pg off v s).trims = s.trims := rfl
@[simp] theorem setReg_hq (pg off : Nat) (v : Word) : (setReg pg off v s).hq = s.hq := rfl
@[simp] theorem setReg_hqLast (pg off : Nat) (v : Word) : (setReg pg off v s).hqLast = s.hqLast := rfl
@[simp] theorem setReg_hqEnHeld (pg off : Nat) (v : Word) : (setReg pg off v s).hqEnHeld = s.hqEnHeld := rfl
@[simp] theorem setReg_adminLast (pg off : Nat) (v : Word) : (setReg pg off v s).adminLast = s.adminLast := rfl
@[simp] theorem setReg_barHeld (pg off : Nat) (v : Word) : (setReg pg off v s).barHeld = s.barHeld := rfl
@[simp] theorem setReg_barHi (pg off : Nat) (v : Word) : (setReg pg off v s).barHi = s.barHi := rfl
@[simp] theorem setReg_boot (pg off : Nat) (v : Word) : (setReg pg off v s).boot = s.boot := rfl
@[simp] theorem setReg_otp (pg off : Nat) (v : Word) : (setReg pg off v s).otp = s.otp := rfl
@[simp] theorem setReg_otpOp (pg off : Nat) (v : Word) : (setReg pg off v s).otpOp = s.otpOp := rfl
@[simp] theorem setReg_keys (pg off : Nat) (v : Word) : (setReg pg off v s).keys = s.keys := rfl
@[simp] theorem setReg_pwr (pg off : Nat) (v : Word) : (setReg pg off v s).pwr = s.pwr := rfl
@[simp] theorem setReg_tap (pg off : Nat) (v : Word) : (setReg pg off v s).tap = s.tap := rfl
@[simp] theorem setReg_line (pg off : Nat) (v : Word) : (setReg pg off v s).line = s.line := rfl
@[simp] theorem setReg_snap (pg off : Nat) (v : Word) : (setReg pg off v s).snap = s.snap := rfl
@[simp] theorem setReg_dlcal (pg off : Nat) (v : Word) : (setReg pg off v s).dlcal = s.dlcal := rfl
@[simp] theorem setReg_ckpts (pg off : Nat) (v : Word) : (setReg pg off v s).ckpts = s.ckpts := rfl
@[simp] theorem setReg_reinst (pg off : Nat) (v : Word) : (setReg pg off v s).reinst = s.reinst := rfl
@[simp] theorem setReg_reinstQ (pg off : Nat) (v : Word) : (setReg pg off v s).reinstQ = s.reinstQ := rfl
@[simp] theorem setReg_leaseHeld (pg off : Nat) (v : Word) : (setReg pg off v s).leaseHeld = s.leaseHeld := rfl
@[simp] theorem setReg_memCtl (pg off : Nat) (v : Word) : (setReg pg off v s).memCtl = s.memCtl := rfl
@[simp] theorem setReg_released (pg off : Nat) (v : Word) : (setReg pg off v s).released = s.released := rfl
@[simp] theorem setReg_releasedAt (pg off : Nat) (v : Word) : (setReg pg off v s).releasedAt = s.releasedAt := rfl
@[simp] theorem setReg_vcoreLow (pg off : Nat) (v : Word) : (setReg pg off v s).vcoreLow = s.vcoreLow := rfl
@[simp] theorem setReg_vcoreAt (pg off : Nat) (v : Word) : (setReg pg off v s).vcoreAt = s.vcoreAt := rfl
@[simp] theorem setReg_dbgHeld (pg off : Nat) (v : Word) : (setReg pg off v s).dbgHeld = s.dbgHeld := rfl
@[simp] theorem setReg_hostSess (pg off : Nat) (v : Word) : (setReg pg off v s).hostSess = s.hostSess := rfl
@[simp] theorem setReg_probeSess (pg off : Nat) (v : Word) : (setReg pg off v s).probeSess = s.probeSess := rfl
@[simp] theorem setReg_readData (pg off : Nat) (v : Word) : (setReg pg off v s).readData = s.readData := rfl
@[simp] theorem setReg_out (pg off : Nat) (v : Word) : (setReg pg off v s).out = s.out := rfl
@[simp] theorem tineAt_setReg (pg off : Nat) (v : Word) (i₁ : Nat) : tineAt (setReg pg off v s) i₁ = tineAt s i₁ := rfl
@[simp] theorem domSt_setReg (pg off : Nat) (v : Word) (i₁ : Nat) : domSt (setReg pg off v s) i₁ = domSt s i₁ := rfl
@[simp] theorem gaugeAt_setReg (pg off : Nat) (v : Word) (i₁ : Nat) : gaugeAt (setReg pg off v s) i₁ = gaugeAt s i₁ := rfl
@[simp] theorem hopAt_setReg (pg off : Nat) (v : Word) (i₁ : Nat) : hopAt (setReg pg off v s) i₁ = hopAt s i₁ := rfl
@[simp] theorem chanAt_setReg (pg off : Nat) (v : Word) (i₁ : Nat) : chanAt (setReg pg off v s) i₁ = chanAt s i₁ := rfl
@[simp] theorem cellAt_setReg (pg off : Nat) (v : Word) (i₁ i₂ : Nat) : cellAt (setReg pg off v s) i₁ i₂ = cellAt s i₁ i₂ := rfl
@[simp] theorem hoeAt_setReg (pg off : Nat) (v : Word) (i₁ i₂ : Nat) : hoeAt (setReg pg off v s) i₁ i₂ = hoeAt s i₁ i₂ := rfl
@[simp] theorem fifoAt_setReg (pg off : Nat) (v : Word) (i₁ : Nat) : fifoAt (setReg pg off v s) i₁ = fifoAt s i₁ := rfl
@[simp] theorem memGet_setReg (pg off : Nat) (v : Word) (i₁ : Nat) : memGet (setReg pg off v s) i₁ = memGet s i₁ := rfl
@[simp] theorem portAt_setReg (pg off : Nat) (v : Word) (i₁ : Nat) : portAt (setReg pg off v s) i₁ = portAt s i₁ := rfl
@[simp] theorem strmAt_setReg (pg off : Nat) (v : Word) (i₁ : Nat) : strmAt (setReg pg off v s) i₁ = strmAt s i₁ := rfl
@[simp] theorem macAt_setReg (pg off : Nat) (v : Word) (i₁ : Nat) : macAt (setReg pg off v s) i₁ = macAt s i₁ := rfl
@[simp] theorem railAt_setReg (pg off : Nat) (v : Word) (i₁ : Nat) : railAt (setReg pg off v s) i₁ = railAt s i₁ := rfl
@[simp] theorem hqAt_setReg (pg off : Nat) (v : Word) (i₁ : Nat) : hqAt (setReg pg off v s) i₁ = hqAt s i₁ := rfl

/-! ## setRegF -/

@[simp] theorem setRegF_pending (pg off lo len v : Nat) : (setRegF pg off lo len v s).pending = s.pending := rfl
@[simp] theorem setRegF_now (pg off lo len v : Nat) : (setRegF pg off lo len v s).now = s.now := rfl
@[simp] theorem setRegF_free (pg off lo len v : Nat) : (setRegF pg off lo len v s).free = s.free := rfl
@[simp] theorem setRegF_mem (pg off lo len v : Nat) : (setRegF pg off lo len v s).mem = s.mem := rfl
@[simp] theorem setRegF_ue (pg off lo len v : Nat) : (setRegF pg off lo len v s).ue = s.ue := rfl
@[simp] theorem setRegF_xcache (pg off lo len v : Nat) : (setRegF pg off lo len v s).xcache = s.xcache := rfl
@[simp] theorem setRegF_tines (pg off lo len v : Nat) : (setRegF pg off lo len v s).tines = s.tines := rfl
@[simp] theorem setRegF_bandCap (pg off lo len v : Nat) : (setRegF pg off lo len v s).bandCap = s.bandCap := rfl
@[simp] theorem setRegF_mbox (pg off lo len v : Nat) : (setRegF pg off lo len v s).mbox = s.mbox := rfl
@[simp] theorem setRegF_withheld (pg off lo len v : Nat) : (setRegF pg off lo len v s).withheld = s.withheld := rfl
@[simp] theorem setRegF_hops (pg off lo len v : Nat) : (setRegF pg off lo len v s).hops = s.hops := rfl
@[simp] theorem setRegF_rrLast (pg off lo len v : Nat) : (setRegF pg off lo len v s).rrLast = s.rrLast := rfl
@[simp] theorem setRegF_gauges (pg off lo len v : Nat) : (setRegF pg off lo len v s).gauges = s.gauges := rfl
@[simp] theorem setRegF_frec (pg off lo len v : Nat) : (setRegF pg off lo len v s).frec = s.frec := rfl
@[simp] theorem setRegF_lockSet (pg off lo len v : Nat) : (setRegF pg off lo len v s).lockSet = s.lockSet := rfl
@[simp] theorem setRegF_retireQ (pg off lo len v : Nat) : (setRegF pg off lo len v s).retireQ = s.retireQ := rfl
@[simp] theorem setRegF_ports (pg off lo len v : Nat) : (setRegF pg off lo len v s).ports = s.ports := rfl
@[simp] theorem setRegF_cellsIn (pg off lo len v : Nat) : (setRegF pg off lo len v s).cellsIn = s.cellsIn := rfl
@[simp] theorem setRegF_devM1 (pg off lo len v : Nat) : (setRegF pg off lo len v s).devM1 = s.devM1 := rfl
@[simp] theorem setRegF_walkUps (pg off lo len v : Nat) : (setRegF pg off lo len v s).walkUps = s.walkUps := rfl
@[simp] theorem setRegF_chainTags (pg off lo len v : Nat) : (setRegF pg off lo len v s).chainTags = s.chainTags := rfl
@[simp] theorem setRegF_nextTag (pg off lo len v : Nat) : (setRegF pg off lo len v s).nextTag = s.nextTag := rfl
@[simp] theorem setRegF_chainFwd (pg off lo len v : Nat) : (setRegF pg off lo len v s).chainFwd = s.chainFwd := rfl
@[simp] theorem setRegF_outside (pg off lo len v : Nat) : (setRegF pg off lo len v s).outside = s.outside := rfl
@[simp] theorem setRegF_wakeMac (pg off lo len v : Nat) : (setRegF pg off lo len v s).wakeMac = s.wakeMac := rfl
@[simp] theorem setRegF_chainBack (pg off lo len v : Nat) : (setRegF pg off lo len v s).chainBack = s.chainBack := rfl
@[simp] theorem setRegF_dom (pg off lo len v : Nat) : (setRegF pg off lo len v s).dom = s.dom := rfl
@[simp] theorem setRegF_fifo (pg off lo len v : Nat) : (setRegF pg off lo len v s).fifo = s.fifo := rfl
@[simp] theorem setRegF_cells (pg off lo len v : Nat) : (setRegF pg off lo len v s).cells = s.cells := rfl
@[simp] theorem setRegF_hoes (pg off lo len v : Nat) : (setRegF pg off lo len v s).hoes = s.hoes := rfl
@[simp] theorem setRegF_chans (pg off lo len v : Nat) : (setRegF pg off lo len v s).chans = s.chans := rfl
@[simp] theorem setRegF_jsel (pg off lo len v : Nat) : (setRegF pg off lo len v s).jsel = s.jsel := rfl
@[simp] theorem setRegF_strms (pg off lo len v : Nat) : (setRegF pg off lo len v s).strms = s.strms := rfl
@[simp] theorem setRegF_macs (pg off lo len v : Nat) : (setRegF pg off lo len v s).macs = s.macs := rfl
@[simp] theorem setRegF_rails (pg off lo len v : Nat) : (setRegF pg off lo len v s).rails = s.rails := rfl
@[simp] theorem setRegF_engines (pg off lo len v : Nat) : (setRegF pg off lo len v s).engines = s.engines := rfl
@[simp] theorem setRegF_cgArm (pg off lo len v : Nat) : (setRegF pg off lo len v s).cgArm = s.cgArm := rfl
@[simp] theorem setRegF_msixTab (pg off lo len v : Nat) : (setRegF pg off lo len v s).msixTab = s.msixTab := rfl
@[simp] theorem setRegF_msixPend (pg off lo len v : Nat) : (setRegF pg off lo len v s).msixPend = s.msixPend := rfl
@[simp] theorem setRegF_hostMac (pg off lo len v : Nat) : (setRegF pg off lo len v s).hostMac = s.hostMac := rfl
@[simp] theorem setRegF_apllFrom (pg off lo len v : Nat) : (setRegF pg off lo len v s).apllFrom = s.apllFrom := rfl
@[simp] theorem setRegF_refSince (pg off lo len v : Nat) : (setRegF pg off lo len v s).refSince = s.refSince := rfl
@[simp] theorem setRegF_refLast (pg off lo len v : Nat) : (setRegF pg off lo len v s).refLast = s.refLast := rfl
@[simp] theorem setRegF_pllRuns (pg off lo len v : Nat) : (setRegF pg off lo len v s).pllRuns = s.pllRuns := rfl
@[simp] theorem setRegF_pllFrom (pg off lo len v : Nat) : (setRegF pg off lo len v s).pllFrom = s.pllFrom := rfl
@[simp] theorem setRegF_pwmOn (pg off lo len v : Nat) : (setRegF pg off lo len v s).pwmOn = s.pwmOn := rfl
@[simp] theorem setRegF_pwmClk (pg off lo len v : Nat) : (setRegF pg off lo len v s).pwmClk = s.pwmClk := rfl
@[simp] theorem setRegF_vio (pg off lo len v : Nat) : (setRegF pg off lo len v s).vio = s.vio := rfl
@[simp] theorem setRegF_blkFrom (pg off lo len v : Nat) : (setRegF pg off lo len v s).blkFrom = s.blkFrom := rfl
@[simp] theorem setRegF_trims (pg off lo len v : Nat) : (setRegF pg off lo len v s).trims = s.trims := rfl
@[simp] theorem setRegF_hq (pg off lo len v : Nat) : (setRegF pg off lo len v s).hq = s.hq := rfl
@[simp] theorem setRegF_hqLast (pg off lo len v : Nat) : (setRegF pg off lo len v s).hqLast = s.hqLast := rfl
@[simp] theorem setRegF_hqEnHeld (pg off lo len v : Nat) : (setRegF pg off lo len v s).hqEnHeld = s.hqEnHeld := rfl
@[simp] theorem setRegF_adminLast (pg off lo len v : Nat) : (setRegF pg off lo len v s).adminLast = s.adminLast := rfl
@[simp] theorem setRegF_barHeld (pg off lo len v : Nat) : (setRegF pg off lo len v s).barHeld = s.barHeld := rfl
@[simp] theorem setRegF_barHi (pg off lo len v : Nat) : (setRegF pg off lo len v s).barHi = s.barHi := rfl
@[simp] theorem setRegF_boot (pg off lo len v : Nat) : (setRegF pg off lo len v s).boot = s.boot := rfl
@[simp] theorem setRegF_otp (pg off lo len v : Nat) : (setRegF pg off lo len v s).otp = s.otp := rfl
@[simp] theorem setRegF_otpOp (pg off lo len v : Nat) : (setRegF pg off lo len v s).otpOp = s.otpOp := rfl
@[simp] theorem setRegF_keys (pg off lo len v : Nat) : (setRegF pg off lo len v s).keys = s.keys := rfl
@[simp] theorem setRegF_pwr (pg off lo len v : Nat) : (setRegF pg off lo len v s).pwr = s.pwr := rfl
@[simp] theorem setRegF_tap (pg off lo len v : Nat) : (setRegF pg off lo len v s).tap = s.tap := rfl
@[simp] theorem setRegF_line (pg off lo len v : Nat) : (setRegF pg off lo len v s).line = s.line := rfl
@[simp] theorem setRegF_snap (pg off lo len v : Nat) : (setRegF pg off lo len v s).snap = s.snap := rfl
@[simp] theorem setRegF_dlcal (pg off lo len v : Nat) : (setRegF pg off lo len v s).dlcal = s.dlcal := rfl
@[simp] theorem setRegF_ckpts (pg off lo len v : Nat) : (setRegF pg off lo len v s).ckpts = s.ckpts := rfl
@[simp] theorem setRegF_reinst (pg off lo len v : Nat) : (setRegF pg off lo len v s).reinst = s.reinst := rfl
@[simp] theorem setRegF_reinstQ (pg off lo len v : Nat) : (setRegF pg off lo len v s).reinstQ = s.reinstQ := rfl
@[simp] theorem setRegF_leaseHeld (pg off lo len v : Nat) : (setRegF pg off lo len v s).leaseHeld = s.leaseHeld := rfl
@[simp] theorem setRegF_memCtl (pg off lo len v : Nat) : (setRegF pg off lo len v s).memCtl = s.memCtl := rfl
@[simp] theorem setRegF_released (pg off lo len v : Nat) : (setRegF pg off lo len v s).released = s.released := rfl
@[simp] theorem setRegF_releasedAt (pg off lo len v : Nat) : (setRegF pg off lo len v s).releasedAt = s.releasedAt := rfl
@[simp] theorem setRegF_vcoreLow (pg off lo len v : Nat) : (setRegF pg off lo len v s).vcoreLow = s.vcoreLow := rfl
@[simp] theorem setRegF_vcoreAt (pg off lo len v : Nat) : (setRegF pg off lo len v s).vcoreAt = s.vcoreAt := rfl
@[simp] theorem setRegF_dbgHeld (pg off lo len v : Nat) : (setRegF pg off lo len v s).dbgHeld = s.dbgHeld := rfl
@[simp] theorem setRegF_hostSess (pg off lo len v : Nat) : (setRegF pg off lo len v s).hostSess = s.hostSess := rfl
@[simp] theorem setRegF_probeSess (pg off lo len v : Nat) : (setRegF pg off lo len v s).probeSess = s.probeSess := rfl
@[simp] theorem setRegF_readData (pg off lo len v : Nat) : (setRegF pg off lo len v s).readData = s.readData := rfl
@[simp] theorem setRegF_out (pg off lo len v : Nat) : (setRegF pg off lo len v s).out = s.out := rfl
@[simp] theorem tineAt_setRegF (pg off lo len v : Nat) (i₁ : Nat) : tineAt (setRegF pg off lo len v s) i₁ = tineAt s i₁ := rfl
@[simp] theorem domSt_setRegF (pg off lo len v : Nat) (i₁ : Nat) : domSt (setRegF pg off lo len v s) i₁ = domSt s i₁ := rfl
@[simp] theorem gaugeAt_setRegF (pg off lo len v : Nat) (i₁ : Nat) : gaugeAt (setRegF pg off lo len v s) i₁ = gaugeAt s i₁ := rfl
@[simp] theorem hopAt_setRegF (pg off lo len v : Nat) (i₁ : Nat) : hopAt (setRegF pg off lo len v s) i₁ = hopAt s i₁ := rfl
@[simp] theorem chanAt_setRegF (pg off lo len v : Nat) (i₁ : Nat) : chanAt (setRegF pg off lo len v s) i₁ = chanAt s i₁ := rfl
@[simp] theorem cellAt_setRegF (pg off lo len v : Nat) (i₁ i₂ : Nat) : cellAt (setRegF pg off lo len v s) i₁ i₂ = cellAt s i₁ i₂ := rfl
@[simp] theorem hoeAt_setRegF (pg off lo len v : Nat) (i₁ i₂ : Nat) : hoeAt (setRegF pg off lo len v s) i₁ i₂ = hoeAt s i₁ i₂ := rfl
@[simp] theorem fifoAt_setRegF (pg off lo len v : Nat) (i₁ : Nat) : fifoAt (setRegF pg off lo len v s) i₁ = fifoAt s i₁ := rfl
@[simp] theorem memGet_setRegF (pg off lo len v : Nat) (i₁ : Nat) : memGet (setRegF pg off lo len v s) i₁ = memGet s i₁ := rfl
@[simp] theorem portAt_setRegF (pg off lo len v : Nat) (i₁ : Nat) : portAt (setRegF pg off lo len v s) i₁ = portAt s i₁ := rfl
@[simp] theorem strmAt_setRegF (pg off lo len v : Nat) (i₁ : Nat) : strmAt (setRegF pg off lo len v s) i₁ = strmAt s i₁ := rfl
@[simp] theorem macAt_setRegF (pg off lo len v : Nat) (i₁ : Nat) : macAt (setRegF pg off lo len v s) i₁ = macAt s i₁ := rfl
@[simp] theorem railAt_setRegF (pg off lo len v : Nat) (i₁ : Nat) : railAt (setRegF pg off lo len v s) i₁ = railAt s i₁ := rfl
@[simp] theorem hqAt_setRegF (pg off lo len v : Nat) (i₁ : Nat) : hqAt (setRegF pg off lo len v s) i₁ = hqAt s i₁ := rfl

/-! ## setRegB -/

@[simp] theorem setRegB_pending (pg off i : Nat) (b : Bool) : (setRegB pg off i b s).pending = s.pending := rfl
@[simp] theorem setRegB_now (pg off i : Nat) (b : Bool) : (setRegB pg off i b s).now = s.now := rfl
@[simp] theorem setRegB_free (pg off i : Nat) (b : Bool) : (setRegB pg off i b s).free = s.free := rfl
@[simp] theorem setRegB_mem (pg off i : Nat) (b : Bool) : (setRegB pg off i b s).mem = s.mem := rfl
@[simp] theorem setRegB_ue (pg off i : Nat) (b : Bool) : (setRegB pg off i b s).ue = s.ue := rfl
@[simp] theorem setRegB_xcache (pg off i : Nat) (b : Bool) : (setRegB pg off i b s).xcache = s.xcache := rfl
@[simp] theorem setRegB_tines (pg off i : Nat) (b : Bool) : (setRegB pg off i b s).tines = s.tines := rfl
@[simp] theorem setRegB_bandCap (pg off i : Nat) (b : Bool) : (setRegB pg off i b s).bandCap = s.bandCap := rfl
@[simp] theorem setRegB_mbox (pg off i : Nat) (b : Bool) : (setRegB pg off i b s).mbox = s.mbox := rfl
@[simp] theorem setRegB_withheld (pg off i : Nat) (b : Bool) : (setRegB pg off i b s).withheld = s.withheld := rfl
@[simp] theorem setRegB_hops (pg off i : Nat) (b : Bool) : (setRegB pg off i b s).hops = s.hops := rfl
@[simp] theorem setRegB_rrLast (pg off i : Nat) (b : Bool) : (setRegB pg off i b s).rrLast = s.rrLast := rfl
@[simp] theorem setRegB_gauges (pg off i : Nat) (b : Bool) : (setRegB pg off i b s).gauges = s.gauges := rfl
@[simp] theorem setRegB_frec (pg off i : Nat) (b : Bool) : (setRegB pg off i b s).frec = s.frec := rfl
@[simp] theorem setRegB_lockSet (pg off i : Nat) (b : Bool) : (setRegB pg off i b s).lockSet = s.lockSet := rfl
@[simp] theorem setRegB_retireQ (pg off i : Nat) (b : Bool) : (setRegB pg off i b s).retireQ = s.retireQ := rfl
@[simp] theorem setRegB_ports (pg off i : Nat) (b : Bool) : (setRegB pg off i b s).ports = s.ports := rfl
@[simp] theorem setRegB_cellsIn (pg off i : Nat) (b : Bool) : (setRegB pg off i b s).cellsIn = s.cellsIn := rfl
@[simp] theorem setRegB_devM1 (pg off i : Nat) (b : Bool) : (setRegB pg off i b s).devM1 = s.devM1 := rfl
@[simp] theorem setRegB_walkUps (pg off i : Nat) (b : Bool) : (setRegB pg off i b s).walkUps = s.walkUps := rfl
@[simp] theorem setRegB_chainTags (pg off i : Nat) (b : Bool) : (setRegB pg off i b s).chainTags = s.chainTags := rfl
@[simp] theorem setRegB_nextTag (pg off i : Nat) (b : Bool) : (setRegB pg off i b s).nextTag = s.nextTag := rfl
@[simp] theorem setRegB_chainFwd (pg off i : Nat) (b : Bool) : (setRegB pg off i b s).chainFwd = s.chainFwd := rfl
@[simp] theorem setRegB_outside (pg off i : Nat) (b : Bool) : (setRegB pg off i b s).outside = s.outside := rfl
@[simp] theorem setRegB_wakeMac (pg off i : Nat) (b : Bool) : (setRegB pg off i b s).wakeMac = s.wakeMac := rfl
@[simp] theorem setRegB_chainBack (pg off i : Nat) (b : Bool) : (setRegB pg off i b s).chainBack = s.chainBack := rfl
@[simp] theorem setRegB_dom (pg off i : Nat) (b : Bool) : (setRegB pg off i b s).dom = s.dom := rfl
@[simp] theorem setRegB_fifo (pg off i : Nat) (b : Bool) : (setRegB pg off i b s).fifo = s.fifo := rfl
@[simp] theorem setRegB_cells (pg off i : Nat) (b : Bool) : (setRegB pg off i b s).cells = s.cells := rfl
@[simp] theorem setRegB_hoes (pg off i : Nat) (b : Bool) : (setRegB pg off i b s).hoes = s.hoes := rfl
@[simp] theorem setRegB_chans (pg off i : Nat) (b : Bool) : (setRegB pg off i b s).chans = s.chans := rfl
@[simp] theorem setRegB_jsel (pg off i : Nat) (b : Bool) : (setRegB pg off i b s).jsel = s.jsel := rfl
@[simp] theorem setRegB_strms (pg off i : Nat) (b : Bool) : (setRegB pg off i b s).strms = s.strms := rfl
@[simp] theorem setRegB_macs (pg off i : Nat) (b : Bool) : (setRegB pg off i b s).macs = s.macs := rfl
@[simp] theorem setRegB_rails (pg off i : Nat) (b : Bool) : (setRegB pg off i b s).rails = s.rails := rfl
@[simp] theorem setRegB_engines (pg off i : Nat) (b : Bool) : (setRegB pg off i b s).engines = s.engines := rfl
@[simp] theorem setRegB_cgArm (pg off i : Nat) (b : Bool) : (setRegB pg off i b s).cgArm = s.cgArm := rfl
@[simp] theorem setRegB_msixTab (pg off i : Nat) (b : Bool) : (setRegB pg off i b s).msixTab = s.msixTab := rfl
@[simp] theorem setRegB_msixPend (pg off i : Nat) (b : Bool) : (setRegB pg off i b s).msixPend = s.msixPend := rfl
@[simp] theorem setRegB_hostMac (pg off i : Nat) (b : Bool) : (setRegB pg off i b s).hostMac = s.hostMac := rfl
@[simp] theorem setRegB_apllFrom (pg off i : Nat) (b : Bool) : (setRegB pg off i b s).apllFrom = s.apllFrom := rfl
@[simp] theorem setRegB_refSince (pg off i : Nat) (b : Bool) : (setRegB pg off i b s).refSince = s.refSince := rfl
@[simp] theorem setRegB_refLast (pg off i : Nat) (b : Bool) : (setRegB pg off i b s).refLast = s.refLast := rfl
@[simp] theorem setRegB_pllRuns (pg off i : Nat) (b : Bool) : (setRegB pg off i b s).pllRuns = s.pllRuns := rfl
@[simp] theorem setRegB_pllFrom (pg off i : Nat) (b : Bool) : (setRegB pg off i b s).pllFrom = s.pllFrom := rfl
@[simp] theorem setRegB_pwmOn (pg off i : Nat) (b : Bool) : (setRegB pg off i b s).pwmOn = s.pwmOn := rfl
@[simp] theorem setRegB_pwmClk (pg off i : Nat) (b : Bool) : (setRegB pg off i b s).pwmClk = s.pwmClk := rfl
@[simp] theorem setRegB_vio (pg off i : Nat) (b : Bool) : (setRegB pg off i b s).vio = s.vio := rfl
@[simp] theorem setRegB_blkFrom (pg off i : Nat) (b : Bool) : (setRegB pg off i b s).blkFrom = s.blkFrom := rfl
@[simp] theorem setRegB_trims (pg off i : Nat) (b : Bool) : (setRegB pg off i b s).trims = s.trims := rfl
@[simp] theorem setRegB_hq (pg off i : Nat) (b : Bool) : (setRegB pg off i b s).hq = s.hq := rfl
@[simp] theorem setRegB_hqLast (pg off i : Nat) (b : Bool) : (setRegB pg off i b s).hqLast = s.hqLast := rfl
@[simp] theorem setRegB_hqEnHeld (pg off i : Nat) (b : Bool) : (setRegB pg off i b s).hqEnHeld = s.hqEnHeld := rfl
@[simp] theorem setRegB_adminLast (pg off i : Nat) (b : Bool) : (setRegB pg off i b s).adminLast = s.adminLast := rfl
@[simp] theorem setRegB_barHeld (pg off i : Nat) (b : Bool) : (setRegB pg off i b s).barHeld = s.barHeld := rfl
@[simp] theorem setRegB_barHi (pg off i : Nat) (b : Bool) : (setRegB pg off i b s).barHi = s.barHi := rfl
@[simp] theorem setRegB_boot (pg off i : Nat) (b : Bool) : (setRegB pg off i b s).boot = s.boot := rfl
@[simp] theorem setRegB_otp (pg off i : Nat) (b : Bool) : (setRegB pg off i b s).otp = s.otp := rfl
@[simp] theorem setRegB_otpOp (pg off i : Nat) (b : Bool) : (setRegB pg off i b s).otpOp = s.otpOp := rfl
@[simp] theorem setRegB_keys (pg off i : Nat) (b : Bool) : (setRegB pg off i b s).keys = s.keys := rfl
@[simp] theorem setRegB_pwr (pg off i : Nat) (b : Bool) : (setRegB pg off i b s).pwr = s.pwr := rfl
@[simp] theorem setRegB_tap (pg off i : Nat) (b : Bool) : (setRegB pg off i b s).tap = s.tap := rfl
@[simp] theorem setRegB_line (pg off i : Nat) (b : Bool) : (setRegB pg off i b s).line = s.line := rfl
@[simp] theorem setRegB_snap (pg off i : Nat) (b : Bool) : (setRegB pg off i b s).snap = s.snap := rfl
@[simp] theorem setRegB_dlcal (pg off i : Nat) (b : Bool) : (setRegB pg off i b s).dlcal = s.dlcal := rfl
@[simp] theorem setRegB_ckpts (pg off i : Nat) (b : Bool) : (setRegB pg off i b s).ckpts = s.ckpts := rfl
@[simp] theorem setRegB_reinst (pg off i : Nat) (b : Bool) : (setRegB pg off i b s).reinst = s.reinst := rfl
@[simp] theorem setRegB_reinstQ (pg off i : Nat) (b : Bool) : (setRegB pg off i b s).reinstQ = s.reinstQ := rfl
@[simp] theorem setRegB_leaseHeld (pg off i : Nat) (b : Bool) : (setRegB pg off i b s).leaseHeld = s.leaseHeld := rfl
@[simp] theorem setRegB_memCtl (pg off i : Nat) (b : Bool) : (setRegB pg off i b s).memCtl = s.memCtl := rfl
@[simp] theorem setRegB_released (pg off i : Nat) (b : Bool) : (setRegB pg off i b s).released = s.released := rfl
@[simp] theorem setRegB_releasedAt (pg off i : Nat) (b : Bool) : (setRegB pg off i b s).releasedAt = s.releasedAt := rfl
@[simp] theorem setRegB_vcoreLow (pg off i : Nat) (b : Bool) : (setRegB pg off i b s).vcoreLow = s.vcoreLow := rfl
@[simp] theorem setRegB_vcoreAt (pg off i : Nat) (b : Bool) : (setRegB pg off i b s).vcoreAt = s.vcoreAt := rfl
@[simp] theorem setRegB_dbgHeld (pg off i : Nat) (b : Bool) : (setRegB pg off i b s).dbgHeld = s.dbgHeld := rfl
@[simp] theorem setRegB_hostSess (pg off i : Nat) (b : Bool) : (setRegB pg off i b s).hostSess = s.hostSess := rfl
@[simp] theorem setRegB_probeSess (pg off i : Nat) (b : Bool) : (setRegB pg off i b s).probeSess = s.probeSess := rfl
@[simp] theorem setRegB_readData (pg off i : Nat) (b : Bool) : (setRegB pg off i b s).readData = s.readData := rfl
@[simp] theorem setRegB_out (pg off i : Nat) (b : Bool) : (setRegB pg off i b s).out = s.out := rfl
@[simp] theorem tineAt_setRegB (pg off i : Nat) (b : Bool) (i₁ : Nat) : tineAt (setRegB pg off i b s) i₁ = tineAt s i₁ := rfl
@[simp] theorem domSt_setRegB (pg off i : Nat) (b : Bool) (i₁ : Nat) : domSt (setRegB pg off i b s) i₁ = domSt s i₁ := rfl
@[simp] theorem gaugeAt_setRegB (pg off i : Nat) (b : Bool) (i₁ : Nat) : gaugeAt (setRegB pg off i b s) i₁ = gaugeAt s i₁ := rfl
@[simp] theorem hopAt_setRegB (pg off i : Nat) (b : Bool) (i₁ : Nat) : hopAt (setRegB pg off i b s) i₁ = hopAt s i₁ := rfl
@[simp] theorem chanAt_setRegB (pg off i : Nat) (b : Bool) (i₁ : Nat) : chanAt (setRegB pg off i b s) i₁ = chanAt s i₁ := rfl
@[simp] theorem cellAt_setRegB (pg off i : Nat) (b : Bool) (i₁ i₂ : Nat) : cellAt (setRegB pg off i b s) i₁ i₂ = cellAt s i₁ i₂ := rfl
@[simp] theorem hoeAt_setRegB (pg off i : Nat) (b : Bool) (i₁ i₂ : Nat) : hoeAt (setRegB pg off i b s) i₁ i₂ = hoeAt s i₁ i₂ := rfl
@[simp] theorem fifoAt_setRegB (pg off i : Nat) (b : Bool) (i₁ : Nat) : fifoAt (setRegB pg off i b s) i₁ = fifoAt s i₁ := rfl
@[simp] theorem memGet_setRegB (pg off i : Nat) (b : Bool) (i₁ : Nat) : memGet (setRegB pg off i b s) i₁ = memGet s i₁ := rfl
@[simp] theorem portAt_setRegB (pg off i : Nat) (b : Bool) (i₁ : Nat) : portAt (setRegB pg off i b s) i₁ = portAt s i₁ := rfl
@[simp] theorem strmAt_setRegB (pg off i : Nat) (b : Bool) (i₁ : Nat) : strmAt (setRegB pg off i b s) i₁ = strmAt s i₁ := rfl
@[simp] theorem macAt_setRegB (pg off i : Nat) (b : Bool) (i₁ : Nat) : macAt (setRegB pg off i b s) i₁ = macAt s i₁ := rfl
@[simp] theorem railAt_setRegB (pg off i : Nat) (b : Bool) (i₁ : Nat) : railAt (setRegB pg off i b s) i₁ = railAt s i₁ := rfl
@[simp] theorem hqAt_setRegB (pg off i : Nat) (b : Bool) (i₁ : Nat) : hqAt (setRegB pg off i b s) i₁ = hqAt s i₁ := rfl

/-! ## bumpF -/

@[simp] theorem bumpF_pending (pg off lo len n : Nat) : (bumpF pg off lo len n s).pending = s.pending := rfl
@[simp] theorem bumpF_now (pg off lo len n : Nat) : (bumpF pg off lo len n s).now = s.now := rfl
@[simp] theorem bumpF_free (pg off lo len n : Nat) : (bumpF pg off lo len n s).free = s.free := rfl
@[simp] theorem bumpF_mem (pg off lo len n : Nat) : (bumpF pg off lo len n s).mem = s.mem := rfl
@[simp] theorem bumpF_ue (pg off lo len n : Nat) : (bumpF pg off lo len n s).ue = s.ue := rfl
@[simp] theorem bumpF_xcache (pg off lo len n : Nat) : (bumpF pg off lo len n s).xcache = s.xcache := rfl
@[simp] theorem bumpF_tines (pg off lo len n : Nat) : (bumpF pg off lo len n s).tines = s.tines := rfl
@[simp] theorem bumpF_bandCap (pg off lo len n : Nat) : (bumpF pg off lo len n s).bandCap = s.bandCap := rfl
@[simp] theorem bumpF_mbox (pg off lo len n : Nat) : (bumpF pg off lo len n s).mbox = s.mbox := rfl
@[simp] theorem bumpF_withheld (pg off lo len n : Nat) : (bumpF pg off lo len n s).withheld = s.withheld := rfl
@[simp] theorem bumpF_hops (pg off lo len n : Nat) : (bumpF pg off lo len n s).hops = s.hops := rfl
@[simp] theorem bumpF_rrLast (pg off lo len n : Nat) : (bumpF pg off lo len n s).rrLast = s.rrLast := rfl
@[simp] theorem bumpF_gauges (pg off lo len n : Nat) : (bumpF pg off lo len n s).gauges = s.gauges := rfl
@[simp] theorem bumpF_frec (pg off lo len n : Nat) : (bumpF pg off lo len n s).frec = s.frec := rfl
@[simp] theorem bumpF_lockSet (pg off lo len n : Nat) : (bumpF pg off lo len n s).lockSet = s.lockSet := rfl
@[simp] theorem bumpF_retireQ (pg off lo len n : Nat) : (bumpF pg off lo len n s).retireQ = s.retireQ := rfl
@[simp] theorem bumpF_ports (pg off lo len n : Nat) : (bumpF pg off lo len n s).ports = s.ports := rfl
@[simp] theorem bumpF_cellsIn (pg off lo len n : Nat) : (bumpF pg off lo len n s).cellsIn = s.cellsIn := rfl
@[simp] theorem bumpF_devM1 (pg off lo len n : Nat) : (bumpF pg off lo len n s).devM1 = s.devM1 := rfl
@[simp] theorem bumpF_walkUps (pg off lo len n : Nat) : (bumpF pg off lo len n s).walkUps = s.walkUps := rfl
@[simp] theorem bumpF_chainTags (pg off lo len n : Nat) : (bumpF pg off lo len n s).chainTags = s.chainTags := rfl
@[simp] theorem bumpF_nextTag (pg off lo len n : Nat) : (bumpF pg off lo len n s).nextTag = s.nextTag := rfl
@[simp] theorem bumpF_chainFwd (pg off lo len n : Nat) : (bumpF pg off lo len n s).chainFwd = s.chainFwd := rfl
@[simp] theorem bumpF_outside (pg off lo len n : Nat) : (bumpF pg off lo len n s).outside = s.outside := rfl
@[simp] theorem bumpF_wakeMac (pg off lo len n : Nat) : (bumpF pg off lo len n s).wakeMac = s.wakeMac := rfl
@[simp] theorem bumpF_chainBack (pg off lo len n : Nat) : (bumpF pg off lo len n s).chainBack = s.chainBack := rfl
@[simp] theorem bumpF_dom (pg off lo len n : Nat) : (bumpF pg off lo len n s).dom = s.dom := rfl
@[simp] theorem bumpF_fifo (pg off lo len n : Nat) : (bumpF pg off lo len n s).fifo = s.fifo := rfl
@[simp] theorem bumpF_cells (pg off lo len n : Nat) : (bumpF pg off lo len n s).cells = s.cells := rfl
@[simp] theorem bumpF_hoes (pg off lo len n : Nat) : (bumpF pg off lo len n s).hoes = s.hoes := rfl
@[simp] theorem bumpF_chans (pg off lo len n : Nat) : (bumpF pg off lo len n s).chans = s.chans := rfl
@[simp] theorem bumpF_jsel (pg off lo len n : Nat) : (bumpF pg off lo len n s).jsel = s.jsel := rfl
@[simp] theorem bumpF_strms (pg off lo len n : Nat) : (bumpF pg off lo len n s).strms = s.strms := rfl
@[simp] theorem bumpF_macs (pg off lo len n : Nat) : (bumpF pg off lo len n s).macs = s.macs := rfl
@[simp] theorem bumpF_rails (pg off lo len n : Nat) : (bumpF pg off lo len n s).rails = s.rails := rfl
@[simp] theorem bumpF_engines (pg off lo len n : Nat) : (bumpF pg off lo len n s).engines = s.engines := rfl
@[simp] theorem bumpF_cgArm (pg off lo len n : Nat) : (bumpF pg off lo len n s).cgArm = s.cgArm := rfl
@[simp] theorem bumpF_msixTab (pg off lo len n : Nat) : (bumpF pg off lo len n s).msixTab = s.msixTab := rfl
@[simp] theorem bumpF_msixPend (pg off lo len n : Nat) : (bumpF pg off lo len n s).msixPend = s.msixPend := rfl
@[simp] theorem bumpF_hostMac (pg off lo len n : Nat) : (bumpF pg off lo len n s).hostMac = s.hostMac := rfl
@[simp] theorem bumpF_apllFrom (pg off lo len n : Nat) : (bumpF pg off lo len n s).apllFrom = s.apllFrom := rfl
@[simp] theorem bumpF_refSince (pg off lo len n : Nat) : (bumpF pg off lo len n s).refSince = s.refSince := rfl
@[simp] theorem bumpF_refLast (pg off lo len n : Nat) : (bumpF pg off lo len n s).refLast = s.refLast := rfl
@[simp] theorem bumpF_pllRuns (pg off lo len n : Nat) : (bumpF pg off lo len n s).pllRuns = s.pllRuns := rfl
@[simp] theorem bumpF_pllFrom (pg off lo len n : Nat) : (bumpF pg off lo len n s).pllFrom = s.pllFrom := rfl
@[simp] theorem bumpF_pwmOn (pg off lo len n : Nat) : (bumpF pg off lo len n s).pwmOn = s.pwmOn := rfl
@[simp] theorem bumpF_pwmClk (pg off lo len n : Nat) : (bumpF pg off lo len n s).pwmClk = s.pwmClk := rfl
@[simp] theorem bumpF_vio (pg off lo len n : Nat) : (bumpF pg off lo len n s).vio = s.vio := rfl
@[simp] theorem bumpF_blkFrom (pg off lo len n : Nat) : (bumpF pg off lo len n s).blkFrom = s.blkFrom := rfl
@[simp] theorem bumpF_trims (pg off lo len n : Nat) : (bumpF pg off lo len n s).trims = s.trims := rfl
@[simp] theorem bumpF_hq (pg off lo len n : Nat) : (bumpF pg off lo len n s).hq = s.hq := rfl
@[simp] theorem bumpF_hqLast (pg off lo len n : Nat) : (bumpF pg off lo len n s).hqLast = s.hqLast := rfl
@[simp] theorem bumpF_hqEnHeld (pg off lo len n : Nat) : (bumpF pg off lo len n s).hqEnHeld = s.hqEnHeld := rfl
@[simp] theorem bumpF_adminLast (pg off lo len n : Nat) : (bumpF pg off lo len n s).adminLast = s.adminLast := rfl
@[simp] theorem bumpF_barHeld (pg off lo len n : Nat) : (bumpF pg off lo len n s).barHeld = s.barHeld := rfl
@[simp] theorem bumpF_barHi (pg off lo len n : Nat) : (bumpF pg off lo len n s).barHi = s.barHi := rfl
@[simp] theorem bumpF_boot (pg off lo len n : Nat) : (bumpF pg off lo len n s).boot = s.boot := rfl
@[simp] theorem bumpF_otp (pg off lo len n : Nat) : (bumpF pg off lo len n s).otp = s.otp := rfl
@[simp] theorem bumpF_otpOp (pg off lo len n : Nat) : (bumpF pg off lo len n s).otpOp = s.otpOp := rfl
@[simp] theorem bumpF_keys (pg off lo len n : Nat) : (bumpF pg off lo len n s).keys = s.keys := rfl
@[simp] theorem bumpF_pwr (pg off lo len n : Nat) : (bumpF pg off lo len n s).pwr = s.pwr := rfl
@[simp] theorem bumpF_tap (pg off lo len n : Nat) : (bumpF pg off lo len n s).tap = s.tap := rfl
@[simp] theorem bumpF_line (pg off lo len n : Nat) : (bumpF pg off lo len n s).line = s.line := rfl
@[simp] theorem bumpF_snap (pg off lo len n : Nat) : (bumpF pg off lo len n s).snap = s.snap := rfl
@[simp] theorem bumpF_dlcal (pg off lo len n : Nat) : (bumpF pg off lo len n s).dlcal = s.dlcal := rfl
@[simp] theorem bumpF_ckpts (pg off lo len n : Nat) : (bumpF pg off lo len n s).ckpts = s.ckpts := rfl
@[simp] theorem bumpF_reinst (pg off lo len n : Nat) : (bumpF pg off lo len n s).reinst = s.reinst := rfl
@[simp] theorem bumpF_reinstQ (pg off lo len n : Nat) : (bumpF pg off lo len n s).reinstQ = s.reinstQ := rfl
@[simp] theorem bumpF_leaseHeld (pg off lo len n : Nat) : (bumpF pg off lo len n s).leaseHeld = s.leaseHeld := rfl
@[simp] theorem bumpF_memCtl (pg off lo len n : Nat) : (bumpF pg off lo len n s).memCtl = s.memCtl := rfl
@[simp] theorem bumpF_released (pg off lo len n : Nat) : (bumpF pg off lo len n s).released = s.released := rfl
@[simp] theorem bumpF_releasedAt (pg off lo len n : Nat) : (bumpF pg off lo len n s).releasedAt = s.releasedAt := rfl
@[simp] theorem bumpF_vcoreLow (pg off lo len n : Nat) : (bumpF pg off lo len n s).vcoreLow = s.vcoreLow := rfl
@[simp] theorem bumpF_vcoreAt (pg off lo len n : Nat) : (bumpF pg off lo len n s).vcoreAt = s.vcoreAt := rfl
@[simp] theorem bumpF_dbgHeld (pg off lo len n : Nat) : (bumpF pg off lo len n s).dbgHeld = s.dbgHeld := rfl
@[simp] theorem bumpF_hostSess (pg off lo len n : Nat) : (bumpF pg off lo len n s).hostSess = s.hostSess := rfl
@[simp] theorem bumpF_probeSess (pg off lo len n : Nat) : (bumpF pg off lo len n s).probeSess = s.probeSess := rfl
@[simp] theorem bumpF_readData (pg off lo len n : Nat) : (bumpF pg off lo len n s).readData = s.readData := rfl
@[simp] theorem bumpF_out (pg off lo len n : Nat) : (bumpF pg off lo len n s).out = s.out := rfl
@[simp] theorem tineAt_bumpF (pg off lo len n : Nat) (i₁ : Nat) : tineAt (bumpF pg off lo len n s) i₁ = tineAt s i₁ := rfl
@[simp] theorem domSt_bumpF (pg off lo len n : Nat) (i₁ : Nat) : domSt (bumpF pg off lo len n s) i₁ = domSt s i₁ := rfl
@[simp] theorem gaugeAt_bumpF (pg off lo len n : Nat) (i₁ : Nat) : gaugeAt (bumpF pg off lo len n s) i₁ = gaugeAt s i₁ := rfl
@[simp] theorem hopAt_bumpF (pg off lo len n : Nat) (i₁ : Nat) : hopAt (bumpF pg off lo len n s) i₁ = hopAt s i₁ := rfl
@[simp] theorem chanAt_bumpF (pg off lo len n : Nat) (i₁ : Nat) : chanAt (bumpF pg off lo len n s) i₁ = chanAt s i₁ := rfl
@[simp] theorem cellAt_bumpF (pg off lo len n : Nat) (i₁ i₂ : Nat) : cellAt (bumpF pg off lo len n s) i₁ i₂ = cellAt s i₁ i₂ := rfl
@[simp] theorem hoeAt_bumpF (pg off lo len n : Nat) (i₁ i₂ : Nat) : hoeAt (bumpF pg off lo len n s) i₁ i₂ = hoeAt s i₁ i₂ := rfl
@[simp] theorem fifoAt_bumpF (pg off lo len n : Nat) (i₁ : Nat) : fifoAt (bumpF pg off lo len n s) i₁ = fifoAt s i₁ := rfl
@[simp] theorem memGet_bumpF (pg off lo len n : Nat) (i₁ : Nat) : memGet (bumpF pg off lo len n s) i₁ = memGet s i₁ := rfl
@[simp] theorem portAt_bumpF (pg off lo len n : Nat) (i₁ : Nat) : portAt (bumpF pg off lo len n s) i₁ = portAt s i₁ := rfl
@[simp] theorem strmAt_bumpF (pg off lo len n : Nat) (i₁ : Nat) : strmAt (bumpF pg off lo len n s) i₁ = strmAt s i₁ := rfl
@[simp] theorem macAt_bumpF (pg off lo len n : Nat) (i₁ : Nat) : macAt (bumpF pg off lo len n s) i₁ = macAt s i₁ := rfl
@[simp] theorem railAt_bumpF (pg off lo len n : Nat) (i₁ : Nat) : railAt (bumpF pg off lo len n s) i₁ = railAt s i₁ := rfl
@[simp] theorem hqAt_bumpF (pg off lo len n : Nat) (i₁ : Nat) : hqAt (bumpF pg off lo len n s) i₁ = hqAt s i₁ := rfl

/-! ## wrapF -/

@[simp] theorem wrapF_pending (pg off lo len n : Nat) : (wrapF pg off lo len n s).pending = s.pending := rfl
@[simp] theorem wrapF_now (pg off lo len n : Nat) : (wrapF pg off lo len n s).now = s.now := rfl
@[simp] theorem wrapF_free (pg off lo len n : Nat) : (wrapF pg off lo len n s).free = s.free := rfl
@[simp] theorem wrapF_mem (pg off lo len n : Nat) : (wrapF pg off lo len n s).mem = s.mem := rfl
@[simp] theorem wrapF_ue (pg off lo len n : Nat) : (wrapF pg off lo len n s).ue = s.ue := rfl
@[simp] theorem wrapF_xcache (pg off lo len n : Nat) : (wrapF pg off lo len n s).xcache = s.xcache := rfl
@[simp] theorem wrapF_tines (pg off lo len n : Nat) : (wrapF pg off lo len n s).tines = s.tines := rfl
@[simp] theorem wrapF_bandCap (pg off lo len n : Nat) : (wrapF pg off lo len n s).bandCap = s.bandCap := rfl
@[simp] theorem wrapF_mbox (pg off lo len n : Nat) : (wrapF pg off lo len n s).mbox = s.mbox := rfl
@[simp] theorem wrapF_withheld (pg off lo len n : Nat) : (wrapF pg off lo len n s).withheld = s.withheld := rfl
@[simp] theorem wrapF_hops (pg off lo len n : Nat) : (wrapF pg off lo len n s).hops = s.hops := rfl
@[simp] theorem wrapF_rrLast (pg off lo len n : Nat) : (wrapF pg off lo len n s).rrLast = s.rrLast := rfl
@[simp] theorem wrapF_gauges (pg off lo len n : Nat) : (wrapF pg off lo len n s).gauges = s.gauges := rfl
@[simp] theorem wrapF_frec (pg off lo len n : Nat) : (wrapF pg off lo len n s).frec = s.frec := rfl
@[simp] theorem wrapF_lockSet (pg off lo len n : Nat) : (wrapF pg off lo len n s).lockSet = s.lockSet := rfl
@[simp] theorem wrapF_retireQ (pg off lo len n : Nat) : (wrapF pg off lo len n s).retireQ = s.retireQ := rfl
@[simp] theorem wrapF_ports (pg off lo len n : Nat) : (wrapF pg off lo len n s).ports = s.ports := rfl
@[simp] theorem wrapF_cellsIn (pg off lo len n : Nat) : (wrapF pg off lo len n s).cellsIn = s.cellsIn := rfl
@[simp] theorem wrapF_devM1 (pg off lo len n : Nat) : (wrapF pg off lo len n s).devM1 = s.devM1 := rfl
@[simp] theorem wrapF_walkUps (pg off lo len n : Nat) : (wrapF pg off lo len n s).walkUps = s.walkUps := rfl
@[simp] theorem wrapF_chainTags (pg off lo len n : Nat) : (wrapF pg off lo len n s).chainTags = s.chainTags := rfl
@[simp] theorem wrapF_nextTag (pg off lo len n : Nat) : (wrapF pg off lo len n s).nextTag = s.nextTag := rfl
@[simp] theorem wrapF_chainFwd (pg off lo len n : Nat) : (wrapF pg off lo len n s).chainFwd = s.chainFwd := rfl
@[simp] theorem wrapF_outside (pg off lo len n : Nat) : (wrapF pg off lo len n s).outside = s.outside := rfl
@[simp] theorem wrapF_wakeMac (pg off lo len n : Nat) : (wrapF pg off lo len n s).wakeMac = s.wakeMac := rfl
@[simp] theorem wrapF_chainBack (pg off lo len n : Nat) : (wrapF pg off lo len n s).chainBack = s.chainBack := rfl
@[simp] theorem wrapF_dom (pg off lo len n : Nat) : (wrapF pg off lo len n s).dom = s.dom := rfl
@[simp] theorem wrapF_fifo (pg off lo len n : Nat) : (wrapF pg off lo len n s).fifo = s.fifo := rfl
@[simp] theorem wrapF_cells (pg off lo len n : Nat) : (wrapF pg off lo len n s).cells = s.cells := rfl
@[simp] theorem wrapF_hoes (pg off lo len n : Nat) : (wrapF pg off lo len n s).hoes = s.hoes := rfl
@[simp] theorem wrapF_chans (pg off lo len n : Nat) : (wrapF pg off lo len n s).chans = s.chans := rfl
@[simp] theorem wrapF_jsel (pg off lo len n : Nat) : (wrapF pg off lo len n s).jsel = s.jsel := rfl
@[simp] theorem wrapF_strms (pg off lo len n : Nat) : (wrapF pg off lo len n s).strms = s.strms := rfl
@[simp] theorem wrapF_macs (pg off lo len n : Nat) : (wrapF pg off lo len n s).macs = s.macs := rfl
@[simp] theorem wrapF_rails (pg off lo len n : Nat) : (wrapF pg off lo len n s).rails = s.rails := rfl
@[simp] theorem wrapF_engines (pg off lo len n : Nat) : (wrapF pg off lo len n s).engines = s.engines := rfl
@[simp] theorem wrapF_cgArm (pg off lo len n : Nat) : (wrapF pg off lo len n s).cgArm = s.cgArm := rfl
@[simp] theorem wrapF_msixTab (pg off lo len n : Nat) : (wrapF pg off lo len n s).msixTab = s.msixTab := rfl
@[simp] theorem wrapF_msixPend (pg off lo len n : Nat) : (wrapF pg off lo len n s).msixPend = s.msixPend := rfl
@[simp] theorem wrapF_hostMac (pg off lo len n : Nat) : (wrapF pg off lo len n s).hostMac = s.hostMac := rfl
@[simp] theorem wrapF_apllFrom (pg off lo len n : Nat) : (wrapF pg off lo len n s).apllFrom = s.apllFrom := rfl
@[simp] theorem wrapF_refSince (pg off lo len n : Nat) : (wrapF pg off lo len n s).refSince = s.refSince := rfl
@[simp] theorem wrapF_refLast (pg off lo len n : Nat) : (wrapF pg off lo len n s).refLast = s.refLast := rfl
@[simp] theorem wrapF_pllRuns (pg off lo len n : Nat) : (wrapF pg off lo len n s).pllRuns = s.pllRuns := rfl
@[simp] theorem wrapF_pllFrom (pg off lo len n : Nat) : (wrapF pg off lo len n s).pllFrom = s.pllFrom := rfl
@[simp] theorem wrapF_pwmOn (pg off lo len n : Nat) : (wrapF pg off lo len n s).pwmOn = s.pwmOn := rfl
@[simp] theorem wrapF_pwmClk (pg off lo len n : Nat) : (wrapF pg off lo len n s).pwmClk = s.pwmClk := rfl
@[simp] theorem wrapF_vio (pg off lo len n : Nat) : (wrapF pg off lo len n s).vio = s.vio := rfl
@[simp] theorem wrapF_blkFrom (pg off lo len n : Nat) : (wrapF pg off lo len n s).blkFrom = s.blkFrom := rfl
@[simp] theorem wrapF_trims (pg off lo len n : Nat) : (wrapF pg off lo len n s).trims = s.trims := rfl
@[simp] theorem wrapF_hq (pg off lo len n : Nat) : (wrapF pg off lo len n s).hq = s.hq := rfl
@[simp] theorem wrapF_hqLast (pg off lo len n : Nat) : (wrapF pg off lo len n s).hqLast = s.hqLast := rfl
@[simp] theorem wrapF_hqEnHeld (pg off lo len n : Nat) : (wrapF pg off lo len n s).hqEnHeld = s.hqEnHeld := rfl
@[simp] theorem wrapF_adminLast (pg off lo len n : Nat) : (wrapF pg off lo len n s).adminLast = s.adminLast := rfl
@[simp] theorem wrapF_barHeld (pg off lo len n : Nat) : (wrapF pg off lo len n s).barHeld = s.barHeld := rfl
@[simp] theorem wrapF_barHi (pg off lo len n : Nat) : (wrapF pg off lo len n s).barHi = s.barHi := rfl
@[simp] theorem wrapF_boot (pg off lo len n : Nat) : (wrapF pg off lo len n s).boot = s.boot := rfl
@[simp] theorem wrapF_otp (pg off lo len n : Nat) : (wrapF pg off lo len n s).otp = s.otp := rfl
@[simp] theorem wrapF_otpOp (pg off lo len n : Nat) : (wrapF pg off lo len n s).otpOp = s.otpOp := rfl
@[simp] theorem wrapF_keys (pg off lo len n : Nat) : (wrapF pg off lo len n s).keys = s.keys := rfl
@[simp] theorem wrapF_pwr (pg off lo len n : Nat) : (wrapF pg off lo len n s).pwr = s.pwr := rfl
@[simp] theorem wrapF_tap (pg off lo len n : Nat) : (wrapF pg off lo len n s).tap = s.tap := rfl
@[simp] theorem wrapF_line (pg off lo len n : Nat) : (wrapF pg off lo len n s).line = s.line := rfl
@[simp] theorem wrapF_snap (pg off lo len n : Nat) : (wrapF pg off lo len n s).snap = s.snap := rfl
@[simp] theorem wrapF_dlcal (pg off lo len n : Nat) : (wrapF pg off lo len n s).dlcal = s.dlcal := rfl
@[simp] theorem wrapF_ckpts (pg off lo len n : Nat) : (wrapF pg off lo len n s).ckpts = s.ckpts := rfl
@[simp] theorem wrapF_reinst (pg off lo len n : Nat) : (wrapF pg off lo len n s).reinst = s.reinst := rfl
@[simp] theorem wrapF_reinstQ (pg off lo len n : Nat) : (wrapF pg off lo len n s).reinstQ = s.reinstQ := rfl
@[simp] theorem wrapF_leaseHeld (pg off lo len n : Nat) : (wrapF pg off lo len n s).leaseHeld = s.leaseHeld := rfl
@[simp] theorem wrapF_memCtl (pg off lo len n : Nat) : (wrapF pg off lo len n s).memCtl = s.memCtl := rfl
@[simp] theorem wrapF_released (pg off lo len n : Nat) : (wrapF pg off lo len n s).released = s.released := rfl
@[simp] theorem wrapF_releasedAt (pg off lo len n : Nat) : (wrapF pg off lo len n s).releasedAt = s.releasedAt := rfl
@[simp] theorem wrapF_vcoreLow (pg off lo len n : Nat) : (wrapF pg off lo len n s).vcoreLow = s.vcoreLow := rfl
@[simp] theorem wrapF_vcoreAt (pg off lo len n : Nat) : (wrapF pg off lo len n s).vcoreAt = s.vcoreAt := rfl
@[simp] theorem wrapF_dbgHeld (pg off lo len n : Nat) : (wrapF pg off lo len n s).dbgHeld = s.dbgHeld := rfl
@[simp] theorem wrapF_hostSess (pg off lo len n : Nat) : (wrapF pg off lo len n s).hostSess = s.hostSess := rfl
@[simp] theorem wrapF_probeSess (pg off lo len n : Nat) : (wrapF pg off lo len n s).probeSess = s.probeSess := rfl
@[simp] theorem wrapF_readData (pg off lo len n : Nat) : (wrapF pg off lo len n s).readData = s.readData := rfl
@[simp] theorem wrapF_out (pg off lo len n : Nat) : (wrapF pg off lo len n s).out = s.out := rfl
@[simp] theorem tineAt_wrapF (pg off lo len n : Nat) (i₁ : Nat) : tineAt (wrapF pg off lo len n s) i₁ = tineAt s i₁ := rfl
@[simp] theorem domSt_wrapF (pg off lo len n : Nat) (i₁ : Nat) : domSt (wrapF pg off lo len n s) i₁ = domSt s i₁ := rfl
@[simp] theorem gaugeAt_wrapF (pg off lo len n : Nat) (i₁ : Nat) : gaugeAt (wrapF pg off lo len n s) i₁ = gaugeAt s i₁ := rfl
@[simp] theorem hopAt_wrapF (pg off lo len n : Nat) (i₁ : Nat) : hopAt (wrapF pg off lo len n s) i₁ = hopAt s i₁ := rfl
@[simp] theorem chanAt_wrapF (pg off lo len n : Nat) (i₁ : Nat) : chanAt (wrapF pg off lo len n s) i₁ = chanAt s i₁ := rfl
@[simp] theorem cellAt_wrapF (pg off lo len n : Nat) (i₁ i₂ : Nat) : cellAt (wrapF pg off lo len n s) i₁ i₂ = cellAt s i₁ i₂ := rfl
@[simp] theorem hoeAt_wrapF (pg off lo len n : Nat) (i₁ i₂ : Nat) : hoeAt (wrapF pg off lo len n s) i₁ i₂ = hoeAt s i₁ i₂ := rfl
@[simp] theorem fifoAt_wrapF (pg off lo len n : Nat) (i₁ : Nat) : fifoAt (wrapF pg off lo len n s) i₁ = fifoAt s i₁ := rfl
@[simp] theorem memGet_wrapF (pg off lo len n : Nat) (i₁ : Nat) : memGet (wrapF pg off lo len n s) i₁ = memGet s i₁ := rfl
@[simp] theorem portAt_wrapF (pg off lo len n : Nat) (i₁ : Nat) : portAt (wrapF pg off lo len n s) i₁ = portAt s i₁ := rfl
@[simp] theorem strmAt_wrapF (pg off lo len n : Nat) (i₁ : Nat) : strmAt (wrapF pg off lo len n s) i₁ = strmAt s i₁ := rfl
@[simp] theorem macAt_wrapF (pg off lo len n : Nat) (i₁ : Nat) : macAt (wrapF pg off lo len n s) i₁ = macAt s i₁ := rfl
@[simp] theorem railAt_wrapF (pg off lo len n : Nat) (i₁ : Nat) : railAt (wrapF pg off lo len n s) i₁ = railAt s i₁ := rfl
@[simp] theorem hqAt_wrapF (pg off lo len n : Nat) (i₁ : Nat) : hqAt (wrapF pg off lo len n s) i₁ = hqAt s i₁ := rfl

/-! ## setTine -/

@[simp] theorem setTine_pending (t : Nat) (x : Tine) : (setTine t x s).pending = s.pending := rfl
@[simp] theorem setTine_now (t : Nat) (x : Tine) : (setTine t x s).now = s.now := rfl
@[simp] theorem setTine_free (t : Nat) (x : Tine) : (setTine t x s).free = s.free := rfl
@[simp] theorem setTine_regs (t : Nat) (x : Tine) : (setTine t x s).regs = s.regs := rfl
@[simp] theorem setTine_mem (t : Nat) (x : Tine) : (setTine t x s).mem = s.mem := rfl
@[simp] theorem setTine_ue (t : Nat) (x : Tine) : (setTine t x s).ue = s.ue := rfl
@[simp] theorem setTine_xcache (t : Nat) (x : Tine) : (setTine t x s).xcache = s.xcache := rfl
@[simp] theorem setTine_bandCap (t : Nat) (x : Tine) : (setTine t x s).bandCap = s.bandCap := rfl
@[simp] theorem setTine_mbox (t : Nat) (x : Tine) : (setTine t x s).mbox = s.mbox := rfl
@[simp] theorem setTine_withheld (t : Nat) (x : Tine) : (setTine t x s).withheld = s.withheld := rfl
@[simp] theorem setTine_hops (t : Nat) (x : Tine) : (setTine t x s).hops = s.hops := rfl
@[simp] theorem setTine_rrLast (t : Nat) (x : Tine) : (setTine t x s).rrLast = s.rrLast := rfl
@[simp] theorem setTine_gauges (t : Nat) (x : Tine) : (setTine t x s).gauges = s.gauges := rfl
@[simp] theorem setTine_frec (t : Nat) (x : Tine) : (setTine t x s).frec = s.frec := rfl
@[simp] theorem setTine_lockSet (t : Nat) (x : Tine) : (setTine t x s).lockSet = s.lockSet := rfl
@[simp] theorem setTine_retireQ (t : Nat) (x : Tine) : (setTine t x s).retireQ = s.retireQ := rfl
@[simp] theorem setTine_ports (t : Nat) (x : Tine) : (setTine t x s).ports = s.ports := rfl
@[simp] theorem setTine_cellsIn (t : Nat) (x : Tine) : (setTine t x s).cellsIn = s.cellsIn := rfl
@[simp] theorem setTine_devM1 (t : Nat) (x : Tine) : (setTine t x s).devM1 = s.devM1 := rfl
@[simp] theorem setTine_walkUps (t : Nat) (x : Tine) : (setTine t x s).walkUps = s.walkUps := rfl
@[simp] theorem setTine_chainTags (t : Nat) (x : Tine) : (setTine t x s).chainTags = s.chainTags := rfl
@[simp] theorem setTine_nextTag (t : Nat) (x : Tine) : (setTine t x s).nextTag = s.nextTag := rfl
@[simp] theorem setTine_chainFwd (t : Nat) (x : Tine) : (setTine t x s).chainFwd = s.chainFwd := rfl
@[simp] theorem setTine_outside (t : Nat) (x : Tine) : (setTine t x s).outside = s.outside := rfl
@[simp] theorem setTine_wakeMac (t : Nat) (x : Tine) : (setTine t x s).wakeMac = s.wakeMac := rfl
@[simp] theorem setTine_chainBack (t : Nat) (x : Tine) : (setTine t x s).chainBack = s.chainBack := rfl
@[simp] theorem setTine_dom (t : Nat) (x : Tine) : (setTine t x s).dom = s.dom := rfl
@[simp] theorem setTine_fifo (t : Nat) (x : Tine) : (setTine t x s).fifo = s.fifo := rfl
@[simp] theorem setTine_cells (t : Nat) (x : Tine) : (setTine t x s).cells = s.cells := rfl
@[simp] theorem setTine_hoes (t : Nat) (x : Tine) : (setTine t x s).hoes = s.hoes := rfl
@[simp] theorem setTine_chans (t : Nat) (x : Tine) : (setTine t x s).chans = s.chans := rfl
@[simp] theorem setTine_jsel (t : Nat) (x : Tine) : (setTine t x s).jsel = s.jsel := rfl
@[simp] theorem setTine_strms (t : Nat) (x : Tine) : (setTine t x s).strms = s.strms := rfl
@[simp] theorem setTine_macs (t : Nat) (x : Tine) : (setTine t x s).macs = s.macs := rfl
@[simp] theorem setTine_rails (t : Nat) (x : Tine) : (setTine t x s).rails = s.rails := rfl
@[simp] theorem setTine_engines (t : Nat) (x : Tine) : (setTine t x s).engines = s.engines := rfl
@[simp] theorem setTine_cgArm (t : Nat) (x : Tine) : (setTine t x s).cgArm = s.cgArm := rfl
@[simp] theorem setTine_msixTab (t : Nat) (x : Tine) : (setTine t x s).msixTab = s.msixTab := rfl
@[simp] theorem setTine_msixPend (t : Nat) (x : Tine) : (setTine t x s).msixPend = s.msixPend := rfl
@[simp] theorem setTine_hostMac (t : Nat) (x : Tine) : (setTine t x s).hostMac = s.hostMac := rfl
@[simp] theorem setTine_apllFrom (t : Nat) (x : Tine) : (setTine t x s).apllFrom = s.apllFrom := rfl
@[simp] theorem setTine_refSince (t : Nat) (x : Tine) : (setTine t x s).refSince = s.refSince := rfl
@[simp] theorem setTine_refLast (t : Nat) (x : Tine) : (setTine t x s).refLast = s.refLast := rfl
@[simp] theorem setTine_pllRuns (t : Nat) (x : Tine) : (setTine t x s).pllRuns = s.pllRuns := rfl
@[simp] theorem setTine_pllFrom (t : Nat) (x : Tine) : (setTine t x s).pllFrom = s.pllFrom := rfl
@[simp] theorem setTine_pwmOn (t : Nat) (x : Tine) : (setTine t x s).pwmOn = s.pwmOn := rfl
@[simp] theorem setTine_pwmClk (t : Nat) (x : Tine) : (setTine t x s).pwmClk = s.pwmClk := rfl
@[simp] theorem setTine_vio (t : Nat) (x : Tine) : (setTine t x s).vio = s.vio := rfl
@[simp] theorem setTine_blkFrom (t : Nat) (x : Tine) : (setTine t x s).blkFrom = s.blkFrom := rfl
@[simp] theorem setTine_trims (t : Nat) (x : Tine) : (setTine t x s).trims = s.trims := rfl
@[simp] theorem setTine_hq (t : Nat) (x : Tine) : (setTine t x s).hq = s.hq := rfl
@[simp] theorem setTine_hqLast (t : Nat) (x : Tine) : (setTine t x s).hqLast = s.hqLast := rfl
@[simp] theorem setTine_hqEnHeld (t : Nat) (x : Tine) : (setTine t x s).hqEnHeld = s.hqEnHeld := rfl
@[simp] theorem setTine_adminLast (t : Nat) (x : Tine) : (setTine t x s).adminLast = s.adminLast := rfl
@[simp] theorem setTine_barHeld (t : Nat) (x : Tine) : (setTine t x s).barHeld = s.barHeld := rfl
@[simp] theorem setTine_barHi (t : Nat) (x : Tine) : (setTine t x s).barHi = s.barHi := rfl
@[simp] theorem setTine_boot (t : Nat) (x : Tine) : (setTine t x s).boot = s.boot := rfl
@[simp] theorem setTine_otp (t : Nat) (x : Tine) : (setTine t x s).otp = s.otp := rfl
@[simp] theorem setTine_otpOp (t : Nat) (x : Tine) : (setTine t x s).otpOp = s.otpOp := rfl
@[simp] theorem setTine_keys (t : Nat) (x : Tine) : (setTine t x s).keys = s.keys := rfl
@[simp] theorem setTine_pwr (t : Nat) (x : Tine) : (setTine t x s).pwr = s.pwr := rfl
@[simp] theorem setTine_tap (t : Nat) (x : Tine) : (setTine t x s).tap = s.tap := rfl
@[simp] theorem setTine_line (t : Nat) (x : Tine) : (setTine t x s).line = s.line := rfl
@[simp] theorem setTine_snap (t : Nat) (x : Tine) : (setTine t x s).snap = s.snap := rfl
@[simp] theorem setTine_dlcal (t : Nat) (x : Tine) : (setTine t x s).dlcal = s.dlcal := rfl
@[simp] theorem setTine_ckpts (t : Nat) (x : Tine) : (setTine t x s).ckpts = s.ckpts := rfl
@[simp] theorem setTine_reinst (t : Nat) (x : Tine) : (setTine t x s).reinst = s.reinst := rfl
@[simp] theorem setTine_reinstQ (t : Nat) (x : Tine) : (setTine t x s).reinstQ = s.reinstQ := rfl
@[simp] theorem setTine_leaseHeld (t : Nat) (x : Tine) : (setTine t x s).leaseHeld = s.leaseHeld := rfl
@[simp] theorem setTine_memCtl (t : Nat) (x : Tine) : (setTine t x s).memCtl = s.memCtl := rfl
@[simp] theorem setTine_released (t : Nat) (x : Tine) : (setTine t x s).released = s.released := rfl
@[simp] theorem setTine_releasedAt (t : Nat) (x : Tine) : (setTine t x s).releasedAt = s.releasedAt := rfl
@[simp] theorem setTine_vcoreLow (t : Nat) (x : Tine) : (setTine t x s).vcoreLow = s.vcoreLow := rfl
@[simp] theorem setTine_vcoreAt (t : Nat) (x : Tine) : (setTine t x s).vcoreAt = s.vcoreAt := rfl
@[simp] theorem setTine_dbgHeld (t : Nat) (x : Tine) : (setTine t x s).dbgHeld = s.dbgHeld := rfl
@[simp] theorem setTine_hostSess (t : Nat) (x : Tine) : (setTine t x s).hostSess = s.hostSess := rfl
@[simp] theorem setTine_probeSess (t : Nat) (x : Tine) : (setTine t x s).probeSess = s.probeSess := rfl
@[simp] theorem setTine_readData (t : Nat) (x : Tine) : (setTine t x s).readData = s.readData := rfl
@[simp] theorem setTine_out (t : Nat) (x : Tine) : (setTine t x s).out = s.out := rfl
@[simp] theorem reg_setTine (t : Nat) (x : Tine) (i₁ i₂ : Nat) : reg (setTine t x s) i₁ i₂ = reg s i₁ i₂ := rfl
@[simp] theorem domSt_setTine (t : Nat) (x : Tine) (i₁ : Nat) : domSt (setTine t x s) i₁ = domSt s i₁ := rfl
@[simp] theorem gaugeAt_setTine (t : Nat) (x : Tine) (i₁ : Nat) : gaugeAt (setTine t x s) i₁ = gaugeAt s i₁ := rfl
@[simp] theorem hopAt_setTine (t : Nat) (x : Tine) (i₁ : Nat) : hopAt (setTine t x s) i₁ = hopAt s i₁ := rfl
@[simp] theorem chanAt_setTine (t : Nat) (x : Tine) (i₁ : Nat) : chanAt (setTine t x s) i₁ = chanAt s i₁ := rfl
@[simp] theorem cellAt_setTine (t : Nat) (x : Tine) (i₁ i₂ : Nat) : cellAt (setTine t x s) i₁ i₂ = cellAt s i₁ i₂ := rfl
@[simp] theorem hoeAt_setTine (t : Nat) (x : Tine) (i₁ i₂ : Nat) : hoeAt (setTine t x s) i₁ i₂ = hoeAt s i₁ i₂ := rfl
@[simp] theorem fifoAt_setTine (t : Nat) (x : Tine) (i₁ : Nat) : fifoAt (setTine t x s) i₁ = fifoAt s i₁ := rfl
@[simp] theorem memGet_setTine (t : Nat) (x : Tine) (i₁ : Nat) : memGet (setTine t x s) i₁ = memGet s i₁ := rfl
@[simp] theorem portAt_setTine (t : Nat) (x : Tine) (i₁ : Nat) : portAt (setTine t x s) i₁ = portAt s i₁ := rfl
@[simp] theorem strmAt_setTine (t : Nat) (x : Tine) (i₁ : Nat) : strmAt (setTine t x s) i₁ = strmAt s i₁ := rfl
@[simp] theorem macAt_setTine (t : Nat) (x : Tine) (i₁ : Nat) : macAt (setTine t x s) i₁ = macAt s i₁ := rfl
@[simp] theorem railAt_setTine (t : Nat) (x : Tine) (i₁ : Nat) : railAt (setTine t x s) i₁ = railAt s i₁ := rfl
@[simp] theorem hqAt_setTine (t : Nat) (x : Tine) (i₁ : Nat) : hqAt (setTine t x s) i₁ = hqAt s i₁ := rfl

/-! ## modTine -/

@[simp] theorem modTine_pending (t : Nat) (f : Tine → Tine) : (modTine t f s).pending = s.pending := rfl
@[simp] theorem modTine_now (t : Nat) (f : Tine → Tine) : (modTine t f s).now = s.now := rfl
@[simp] theorem modTine_free (t : Nat) (f : Tine → Tine) : (modTine t f s).free = s.free := rfl
@[simp] theorem modTine_regs (t : Nat) (f : Tine → Tine) : (modTine t f s).regs = s.regs := rfl
@[simp] theorem modTine_mem (t : Nat) (f : Tine → Tine) : (modTine t f s).mem = s.mem := rfl
@[simp] theorem modTine_ue (t : Nat) (f : Tine → Tine) : (modTine t f s).ue = s.ue := rfl
@[simp] theorem modTine_xcache (t : Nat) (f : Tine → Tine) : (modTine t f s).xcache = s.xcache := rfl
@[simp] theorem modTine_bandCap (t : Nat) (f : Tine → Tine) : (modTine t f s).bandCap = s.bandCap := rfl
@[simp] theorem modTine_mbox (t : Nat) (f : Tine → Tine) : (modTine t f s).mbox = s.mbox := rfl
@[simp] theorem modTine_withheld (t : Nat) (f : Tine → Tine) : (modTine t f s).withheld = s.withheld := rfl
@[simp] theorem modTine_hops (t : Nat) (f : Tine → Tine) : (modTine t f s).hops = s.hops := rfl
@[simp] theorem modTine_rrLast (t : Nat) (f : Tine → Tine) : (modTine t f s).rrLast = s.rrLast := rfl
@[simp] theorem modTine_gauges (t : Nat) (f : Tine → Tine) : (modTine t f s).gauges = s.gauges := rfl
@[simp] theorem modTine_frec (t : Nat) (f : Tine → Tine) : (modTine t f s).frec = s.frec := rfl
@[simp] theorem modTine_lockSet (t : Nat) (f : Tine → Tine) : (modTine t f s).lockSet = s.lockSet := rfl
@[simp] theorem modTine_retireQ (t : Nat) (f : Tine → Tine) : (modTine t f s).retireQ = s.retireQ := rfl
@[simp] theorem modTine_ports (t : Nat) (f : Tine → Tine) : (modTine t f s).ports = s.ports := rfl
@[simp] theorem modTine_cellsIn (t : Nat) (f : Tine → Tine) : (modTine t f s).cellsIn = s.cellsIn := rfl
@[simp] theorem modTine_devM1 (t : Nat) (f : Tine → Tine) : (modTine t f s).devM1 = s.devM1 := rfl
@[simp] theorem modTine_walkUps (t : Nat) (f : Tine → Tine) : (modTine t f s).walkUps = s.walkUps := rfl
@[simp] theorem modTine_chainTags (t : Nat) (f : Tine → Tine) : (modTine t f s).chainTags = s.chainTags := rfl
@[simp] theorem modTine_nextTag (t : Nat) (f : Tine → Tine) : (modTine t f s).nextTag = s.nextTag := rfl
@[simp] theorem modTine_chainFwd (t : Nat) (f : Tine → Tine) : (modTine t f s).chainFwd = s.chainFwd := rfl
@[simp] theorem modTine_outside (t : Nat) (f : Tine → Tine) : (modTine t f s).outside = s.outside := rfl
@[simp] theorem modTine_wakeMac (t : Nat) (f : Tine → Tine) : (modTine t f s).wakeMac = s.wakeMac := rfl
@[simp] theorem modTine_chainBack (t : Nat) (f : Tine → Tine) : (modTine t f s).chainBack = s.chainBack := rfl
@[simp] theorem modTine_dom (t : Nat) (f : Tine → Tine) : (modTine t f s).dom = s.dom := rfl
@[simp] theorem modTine_fifo (t : Nat) (f : Tine → Tine) : (modTine t f s).fifo = s.fifo := rfl
@[simp] theorem modTine_cells (t : Nat) (f : Tine → Tine) : (modTine t f s).cells = s.cells := rfl
@[simp] theorem modTine_hoes (t : Nat) (f : Tine → Tine) : (modTine t f s).hoes = s.hoes := rfl
@[simp] theorem modTine_chans (t : Nat) (f : Tine → Tine) : (modTine t f s).chans = s.chans := rfl
@[simp] theorem modTine_jsel (t : Nat) (f : Tine → Tine) : (modTine t f s).jsel = s.jsel := rfl
@[simp] theorem modTine_strms (t : Nat) (f : Tine → Tine) : (modTine t f s).strms = s.strms := rfl
@[simp] theorem modTine_macs (t : Nat) (f : Tine → Tine) : (modTine t f s).macs = s.macs := rfl
@[simp] theorem modTine_rails (t : Nat) (f : Tine → Tine) : (modTine t f s).rails = s.rails := rfl
@[simp] theorem modTine_engines (t : Nat) (f : Tine → Tine) : (modTine t f s).engines = s.engines := rfl
@[simp] theorem modTine_cgArm (t : Nat) (f : Tine → Tine) : (modTine t f s).cgArm = s.cgArm := rfl
@[simp] theorem modTine_msixTab (t : Nat) (f : Tine → Tine) : (modTine t f s).msixTab = s.msixTab := rfl
@[simp] theorem modTine_msixPend (t : Nat) (f : Tine → Tine) : (modTine t f s).msixPend = s.msixPend := rfl
@[simp] theorem modTine_hostMac (t : Nat) (f : Tine → Tine) : (modTine t f s).hostMac = s.hostMac := rfl
@[simp] theorem modTine_apllFrom (t : Nat) (f : Tine → Tine) : (modTine t f s).apllFrom = s.apllFrom := rfl
@[simp] theorem modTine_refSince (t : Nat) (f : Tine → Tine) : (modTine t f s).refSince = s.refSince := rfl
@[simp] theorem modTine_refLast (t : Nat) (f : Tine → Tine) : (modTine t f s).refLast = s.refLast := rfl
@[simp] theorem modTine_pllRuns (t : Nat) (f : Tine → Tine) : (modTine t f s).pllRuns = s.pllRuns := rfl
@[simp] theorem modTine_pllFrom (t : Nat) (f : Tine → Tine) : (modTine t f s).pllFrom = s.pllFrom := rfl
@[simp] theorem modTine_pwmOn (t : Nat) (f : Tine → Tine) : (modTine t f s).pwmOn = s.pwmOn := rfl
@[simp] theorem modTine_pwmClk (t : Nat) (f : Tine → Tine) : (modTine t f s).pwmClk = s.pwmClk := rfl
@[simp] theorem modTine_vio (t : Nat) (f : Tine → Tine) : (modTine t f s).vio = s.vio := rfl
@[simp] theorem modTine_blkFrom (t : Nat) (f : Tine → Tine) : (modTine t f s).blkFrom = s.blkFrom := rfl
@[simp] theorem modTine_trims (t : Nat) (f : Tine → Tine) : (modTine t f s).trims = s.trims := rfl
@[simp] theorem modTine_hq (t : Nat) (f : Tine → Tine) : (modTine t f s).hq = s.hq := rfl
@[simp] theorem modTine_hqLast (t : Nat) (f : Tine → Tine) : (modTine t f s).hqLast = s.hqLast := rfl
@[simp] theorem modTine_hqEnHeld (t : Nat) (f : Tine → Tine) : (modTine t f s).hqEnHeld = s.hqEnHeld := rfl
@[simp] theorem modTine_adminLast (t : Nat) (f : Tine → Tine) : (modTine t f s).adminLast = s.adminLast := rfl
@[simp] theorem modTine_barHeld (t : Nat) (f : Tine → Tine) : (modTine t f s).barHeld = s.barHeld := rfl
@[simp] theorem modTine_barHi (t : Nat) (f : Tine → Tine) : (modTine t f s).barHi = s.barHi := rfl
@[simp] theorem modTine_boot (t : Nat) (f : Tine → Tine) : (modTine t f s).boot = s.boot := rfl
@[simp] theorem modTine_otp (t : Nat) (f : Tine → Tine) : (modTine t f s).otp = s.otp := rfl
@[simp] theorem modTine_otpOp (t : Nat) (f : Tine → Tine) : (modTine t f s).otpOp = s.otpOp := rfl
@[simp] theorem modTine_keys (t : Nat) (f : Tine → Tine) : (modTine t f s).keys = s.keys := rfl
@[simp] theorem modTine_pwr (t : Nat) (f : Tine → Tine) : (modTine t f s).pwr = s.pwr := rfl
@[simp] theorem modTine_tap (t : Nat) (f : Tine → Tine) : (modTine t f s).tap = s.tap := rfl
@[simp] theorem modTine_line (t : Nat) (f : Tine → Tine) : (modTine t f s).line = s.line := rfl
@[simp] theorem modTine_snap (t : Nat) (f : Tine → Tine) : (modTine t f s).snap = s.snap := rfl
@[simp] theorem modTine_dlcal (t : Nat) (f : Tine → Tine) : (modTine t f s).dlcal = s.dlcal := rfl
@[simp] theorem modTine_ckpts (t : Nat) (f : Tine → Tine) : (modTine t f s).ckpts = s.ckpts := rfl
@[simp] theorem modTine_reinst (t : Nat) (f : Tine → Tine) : (modTine t f s).reinst = s.reinst := rfl
@[simp] theorem modTine_reinstQ (t : Nat) (f : Tine → Tine) : (modTine t f s).reinstQ = s.reinstQ := rfl
@[simp] theorem modTine_leaseHeld (t : Nat) (f : Tine → Tine) : (modTine t f s).leaseHeld = s.leaseHeld := rfl
@[simp] theorem modTine_memCtl (t : Nat) (f : Tine → Tine) : (modTine t f s).memCtl = s.memCtl := rfl
@[simp] theorem modTine_released (t : Nat) (f : Tine → Tine) : (modTine t f s).released = s.released := rfl
@[simp] theorem modTine_releasedAt (t : Nat) (f : Tine → Tine) : (modTine t f s).releasedAt = s.releasedAt := rfl
@[simp] theorem modTine_vcoreLow (t : Nat) (f : Tine → Tine) : (modTine t f s).vcoreLow = s.vcoreLow := rfl
@[simp] theorem modTine_vcoreAt (t : Nat) (f : Tine → Tine) : (modTine t f s).vcoreAt = s.vcoreAt := rfl
@[simp] theorem modTine_dbgHeld (t : Nat) (f : Tine → Tine) : (modTine t f s).dbgHeld = s.dbgHeld := rfl
@[simp] theorem modTine_hostSess (t : Nat) (f : Tine → Tine) : (modTine t f s).hostSess = s.hostSess := rfl
@[simp] theorem modTine_probeSess (t : Nat) (f : Tine → Tine) : (modTine t f s).probeSess = s.probeSess := rfl
@[simp] theorem modTine_readData (t : Nat) (f : Tine → Tine) : (modTine t f s).readData = s.readData := rfl
@[simp] theorem modTine_out (t : Nat) (f : Tine → Tine) : (modTine t f s).out = s.out := rfl
@[simp] theorem reg_modTine (t : Nat) (f : Tine → Tine) (i₁ i₂ : Nat) : reg (modTine t f s) i₁ i₂ = reg s i₁ i₂ := rfl
@[simp] theorem domSt_modTine (t : Nat) (f : Tine → Tine) (i₁ : Nat) : domSt (modTine t f s) i₁ = domSt s i₁ := rfl
@[simp] theorem gaugeAt_modTine (t : Nat) (f : Tine → Tine) (i₁ : Nat) : gaugeAt (modTine t f s) i₁ = gaugeAt s i₁ := rfl
@[simp] theorem hopAt_modTine (t : Nat) (f : Tine → Tine) (i₁ : Nat) : hopAt (modTine t f s) i₁ = hopAt s i₁ := rfl
@[simp] theorem chanAt_modTine (t : Nat) (f : Tine → Tine) (i₁ : Nat) : chanAt (modTine t f s) i₁ = chanAt s i₁ := rfl
@[simp] theorem cellAt_modTine (t : Nat) (f : Tine → Tine) (i₁ i₂ : Nat) : cellAt (modTine t f s) i₁ i₂ = cellAt s i₁ i₂ := rfl
@[simp] theorem hoeAt_modTine (t : Nat) (f : Tine → Tine) (i₁ i₂ : Nat) : hoeAt (modTine t f s) i₁ i₂ = hoeAt s i₁ i₂ := rfl
@[simp] theorem fifoAt_modTine (t : Nat) (f : Tine → Tine) (i₁ : Nat) : fifoAt (modTine t f s) i₁ = fifoAt s i₁ := rfl
@[simp] theorem memGet_modTine (t : Nat) (f : Tine → Tine) (i₁ : Nat) : memGet (modTine t f s) i₁ = memGet s i₁ := rfl
@[simp] theorem portAt_modTine (t : Nat) (f : Tine → Tine) (i₁ : Nat) : portAt (modTine t f s) i₁ = portAt s i₁ := rfl
@[simp] theorem strmAt_modTine (t : Nat) (f : Tine → Tine) (i₁ : Nat) : strmAt (modTine t f s) i₁ = strmAt s i₁ := rfl
@[simp] theorem macAt_modTine (t : Nat) (f : Tine → Tine) (i₁ : Nat) : macAt (modTine t f s) i₁ = macAt s i₁ := rfl
@[simp] theorem railAt_modTine (t : Nat) (f : Tine → Tine) (i₁ : Nat) : railAt (modTine t f s) i₁ = railAt s i₁ := rfl
@[simp] theorem hqAt_modTine (t : Nat) (f : Tine → Tine) (i₁ : Nat) : hqAt (modTine t f s) i₁ = hqAt s i₁ := rfl

/-! ## setDom -/

@[simp] theorem setDom_pending (d : Nat) (x : DomSt) : (setDom d x s).pending = s.pending := rfl
@[simp] theorem setDom_now (d : Nat) (x : DomSt) : (setDom d x s).now = s.now := rfl
@[simp] theorem setDom_free (d : Nat) (x : DomSt) : (setDom d x s).free = s.free := rfl
@[simp] theorem setDom_regs (d : Nat) (x : DomSt) : (setDom d x s).regs = s.regs := rfl
@[simp] theorem setDom_mem (d : Nat) (x : DomSt) : (setDom d x s).mem = s.mem := rfl
@[simp] theorem setDom_ue (d : Nat) (x : DomSt) : (setDom d x s).ue = s.ue := rfl
@[simp] theorem setDom_xcache (d : Nat) (x : DomSt) : (setDom d x s).xcache = s.xcache := rfl
@[simp] theorem setDom_tines (d : Nat) (x : DomSt) : (setDom d x s).tines = s.tines := rfl
@[simp] theorem setDom_bandCap (d : Nat) (x : DomSt) : (setDom d x s).bandCap = s.bandCap := rfl
@[simp] theorem setDom_mbox (d : Nat) (x : DomSt) : (setDom d x s).mbox = s.mbox := rfl
@[simp] theorem setDom_withheld (d : Nat) (x : DomSt) : (setDom d x s).withheld = s.withheld := rfl
@[simp] theorem setDom_hops (d : Nat) (x : DomSt) : (setDom d x s).hops = s.hops := rfl
@[simp] theorem setDom_rrLast (d : Nat) (x : DomSt) : (setDom d x s).rrLast = s.rrLast := rfl
@[simp] theorem setDom_gauges (d : Nat) (x : DomSt) : (setDom d x s).gauges = s.gauges := rfl
@[simp] theorem setDom_frec (d : Nat) (x : DomSt) : (setDom d x s).frec = s.frec := rfl
@[simp] theorem setDom_lockSet (d : Nat) (x : DomSt) : (setDom d x s).lockSet = s.lockSet := rfl
@[simp] theorem setDom_retireQ (d : Nat) (x : DomSt) : (setDom d x s).retireQ = s.retireQ := rfl
@[simp] theorem setDom_ports (d : Nat) (x : DomSt) : (setDom d x s).ports = s.ports := rfl
@[simp] theorem setDom_cellsIn (d : Nat) (x : DomSt) : (setDom d x s).cellsIn = s.cellsIn := rfl
@[simp] theorem setDom_devM1 (d : Nat) (x : DomSt) : (setDom d x s).devM1 = s.devM1 := rfl
@[simp] theorem setDom_walkUps (d : Nat) (x : DomSt) : (setDom d x s).walkUps = s.walkUps := rfl
@[simp] theorem setDom_chainTags (d : Nat) (x : DomSt) : (setDom d x s).chainTags = s.chainTags := rfl
@[simp] theorem setDom_nextTag (d : Nat) (x : DomSt) : (setDom d x s).nextTag = s.nextTag := rfl
@[simp] theorem setDom_chainFwd (d : Nat) (x : DomSt) : (setDom d x s).chainFwd = s.chainFwd := rfl
@[simp] theorem setDom_outside (d : Nat) (x : DomSt) : (setDom d x s).outside = s.outside := rfl
@[simp] theorem setDom_wakeMac (d : Nat) (x : DomSt) : (setDom d x s).wakeMac = s.wakeMac := rfl
@[simp] theorem setDom_chainBack (d : Nat) (x : DomSt) : (setDom d x s).chainBack = s.chainBack := rfl
@[simp] theorem setDom_fifo (d : Nat) (x : DomSt) : (setDom d x s).fifo = s.fifo := rfl
@[simp] theorem setDom_cells (d : Nat) (x : DomSt) : (setDom d x s).cells = s.cells := rfl
@[simp] theorem setDom_hoes (d : Nat) (x : DomSt) : (setDom d x s).hoes = s.hoes := rfl
@[simp] theorem setDom_chans (d : Nat) (x : DomSt) : (setDom d x s).chans = s.chans := rfl
@[simp] theorem setDom_jsel (d : Nat) (x : DomSt) : (setDom d x s).jsel = s.jsel := rfl
@[simp] theorem setDom_strms (d : Nat) (x : DomSt) : (setDom d x s).strms = s.strms := rfl
@[simp] theorem setDom_macs (d : Nat) (x : DomSt) : (setDom d x s).macs = s.macs := rfl
@[simp] theorem setDom_rails (d : Nat) (x : DomSt) : (setDom d x s).rails = s.rails := rfl
@[simp] theorem setDom_engines (d : Nat) (x : DomSt) : (setDom d x s).engines = s.engines := rfl
@[simp] theorem setDom_cgArm (d : Nat) (x : DomSt) : (setDom d x s).cgArm = s.cgArm := rfl
@[simp] theorem setDom_msixTab (d : Nat) (x : DomSt) : (setDom d x s).msixTab = s.msixTab := rfl
@[simp] theorem setDom_msixPend (d : Nat) (x : DomSt) : (setDom d x s).msixPend = s.msixPend := rfl
@[simp] theorem setDom_hostMac (d : Nat) (x : DomSt) : (setDom d x s).hostMac = s.hostMac := rfl
@[simp] theorem setDom_apllFrom (d : Nat) (x : DomSt) : (setDom d x s).apllFrom = s.apllFrom := rfl
@[simp] theorem setDom_refSince (d : Nat) (x : DomSt) : (setDom d x s).refSince = s.refSince := rfl
@[simp] theorem setDom_refLast (d : Nat) (x : DomSt) : (setDom d x s).refLast = s.refLast := rfl
@[simp] theorem setDom_pllRuns (d : Nat) (x : DomSt) : (setDom d x s).pllRuns = s.pllRuns := rfl
@[simp] theorem setDom_pllFrom (d : Nat) (x : DomSt) : (setDom d x s).pllFrom = s.pllFrom := rfl
@[simp] theorem setDom_pwmOn (d : Nat) (x : DomSt) : (setDom d x s).pwmOn = s.pwmOn := rfl
@[simp] theorem setDom_pwmClk (d : Nat) (x : DomSt) : (setDom d x s).pwmClk = s.pwmClk := rfl
@[simp] theorem setDom_vio (d : Nat) (x : DomSt) : (setDom d x s).vio = s.vio := rfl
@[simp] theorem setDom_blkFrom (d : Nat) (x : DomSt) : (setDom d x s).blkFrom = s.blkFrom := rfl
@[simp] theorem setDom_trims (d : Nat) (x : DomSt) : (setDom d x s).trims = s.trims := rfl
@[simp] theorem setDom_hq (d : Nat) (x : DomSt) : (setDom d x s).hq = s.hq := rfl
@[simp] theorem setDom_hqLast (d : Nat) (x : DomSt) : (setDom d x s).hqLast = s.hqLast := rfl
@[simp] theorem setDom_hqEnHeld (d : Nat) (x : DomSt) : (setDom d x s).hqEnHeld = s.hqEnHeld := rfl
@[simp] theorem setDom_adminLast (d : Nat) (x : DomSt) : (setDom d x s).adminLast = s.adminLast := rfl
@[simp] theorem setDom_barHeld (d : Nat) (x : DomSt) : (setDom d x s).barHeld = s.barHeld := rfl
@[simp] theorem setDom_barHi (d : Nat) (x : DomSt) : (setDom d x s).barHi = s.barHi := rfl
@[simp] theorem setDom_boot (d : Nat) (x : DomSt) : (setDom d x s).boot = s.boot := rfl
@[simp] theorem setDom_otp (d : Nat) (x : DomSt) : (setDom d x s).otp = s.otp := rfl
@[simp] theorem setDom_otpOp (d : Nat) (x : DomSt) : (setDom d x s).otpOp = s.otpOp := rfl
@[simp] theorem setDom_keys (d : Nat) (x : DomSt) : (setDom d x s).keys = s.keys := rfl
@[simp] theorem setDom_pwr (d : Nat) (x : DomSt) : (setDom d x s).pwr = s.pwr := rfl
@[simp] theorem setDom_tap (d : Nat) (x : DomSt) : (setDom d x s).tap = s.tap := rfl
@[simp] theorem setDom_line (d : Nat) (x : DomSt) : (setDom d x s).line = s.line := rfl
@[simp] theorem setDom_snap (d : Nat) (x : DomSt) : (setDom d x s).snap = s.snap := rfl
@[simp] theorem setDom_dlcal (d : Nat) (x : DomSt) : (setDom d x s).dlcal = s.dlcal := rfl
@[simp] theorem setDom_ckpts (d : Nat) (x : DomSt) : (setDom d x s).ckpts = s.ckpts := rfl
@[simp] theorem setDom_reinst (d : Nat) (x : DomSt) : (setDom d x s).reinst = s.reinst := rfl
@[simp] theorem setDom_reinstQ (d : Nat) (x : DomSt) : (setDom d x s).reinstQ = s.reinstQ := rfl
@[simp] theorem setDom_leaseHeld (d : Nat) (x : DomSt) : (setDom d x s).leaseHeld = s.leaseHeld := rfl
@[simp] theorem setDom_memCtl (d : Nat) (x : DomSt) : (setDom d x s).memCtl = s.memCtl := rfl
@[simp] theorem setDom_released (d : Nat) (x : DomSt) : (setDom d x s).released = s.released := rfl
@[simp] theorem setDom_releasedAt (d : Nat) (x : DomSt) : (setDom d x s).releasedAt = s.releasedAt := rfl
@[simp] theorem setDom_vcoreLow (d : Nat) (x : DomSt) : (setDom d x s).vcoreLow = s.vcoreLow := rfl
@[simp] theorem setDom_vcoreAt (d : Nat) (x : DomSt) : (setDom d x s).vcoreAt = s.vcoreAt := rfl
@[simp] theorem setDom_dbgHeld (d : Nat) (x : DomSt) : (setDom d x s).dbgHeld = s.dbgHeld := rfl
@[simp] theorem setDom_hostSess (d : Nat) (x : DomSt) : (setDom d x s).hostSess = s.hostSess := rfl
@[simp] theorem setDom_probeSess (d : Nat) (x : DomSt) : (setDom d x s).probeSess = s.probeSess := rfl
@[simp] theorem setDom_readData (d : Nat) (x : DomSt) : (setDom d x s).readData = s.readData := rfl
@[simp] theorem setDom_out (d : Nat) (x : DomSt) : (setDom d x s).out = s.out := rfl
@[simp] theorem reg_setDom (d : Nat) (x : DomSt) (i₁ i₂ : Nat) : reg (setDom d x s) i₁ i₂ = reg s i₁ i₂ := rfl
@[simp] theorem tineAt_setDom (d : Nat) (x : DomSt) (i₁ : Nat) : tineAt (setDom d x s) i₁ = tineAt s i₁ := rfl
@[simp] theorem gaugeAt_setDom (d : Nat) (x : DomSt) (i₁ : Nat) : gaugeAt (setDom d x s) i₁ = gaugeAt s i₁ := rfl
@[simp] theorem hopAt_setDom (d : Nat) (x : DomSt) (i₁ : Nat) : hopAt (setDom d x s) i₁ = hopAt s i₁ := rfl
@[simp] theorem chanAt_setDom (d : Nat) (x : DomSt) (i₁ : Nat) : chanAt (setDom d x s) i₁ = chanAt s i₁ := rfl
@[simp] theorem cellAt_setDom (d : Nat) (x : DomSt) (i₁ i₂ : Nat) : cellAt (setDom d x s) i₁ i₂ = cellAt s i₁ i₂ := rfl
@[simp] theorem hoeAt_setDom (d : Nat) (x : DomSt) (i₁ i₂ : Nat) : hoeAt (setDom d x s) i₁ i₂ = hoeAt s i₁ i₂ := rfl
@[simp] theorem fifoAt_setDom (d : Nat) (x : DomSt) (i₁ : Nat) : fifoAt (setDom d x s) i₁ = fifoAt s i₁ := rfl
@[simp] theorem memGet_setDom (d : Nat) (x : DomSt) (i₁ : Nat) : memGet (setDom d x s) i₁ = memGet s i₁ := rfl
@[simp] theorem portAt_setDom (d : Nat) (x : DomSt) (i₁ : Nat) : portAt (setDom d x s) i₁ = portAt s i₁ := rfl
@[simp] theorem strmAt_setDom (d : Nat) (x : DomSt) (i₁ : Nat) : strmAt (setDom d x s) i₁ = strmAt s i₁ := rfl
@[simp] theorem macAt_setDom (d : Nat) (x : DomSt) (i₁ : Nat) : macAt (setDom d x s) i₁ = macAt s i₁ := rfl
@[simp] theorem railAt_setDom (d : Nat) (x : DomSt) (i₁ : Nat) : railAt (setDom d x s) i₁ = railAt s i₁ := rfl
@[simp] theorem hqAt_setDom (d : Nat) (x : DomSt) (i₁ : Nat) : hqAt (setDom d x s) i₁ = hqAt s i₁ := rfl

/-! ## setGauge -/

@[simp] theorem setGauge_pending (g : Nat) (x : Gauge) : (setGauge g x s).pending = s.pending := rfl
@[simp] theorem setGauge_now (g : Nat) (x : Gauge) : (setGauge g x s).now = s.now := rfl
@[simp] theorem setGauge_free (g : Nat) (x : Gauge) : (setGauge g x s).free = s.free := rfl
@[simp] theorem setGauge_regs (g : Nat) (x : Gauge) : (setGauge g x s).regs = s.regs := rfl
@[simp] theorem setGauge_mem (g : Nat) (x : Gauge) : (setGauge g x s).mem = s.mem := rfl
@[simp] theorem setGauge_ue (g : Nat) (x : Gauge) : (setGauge g x s).ue = s.ue := rfl
@[simp] theorem setGauge_xcache (g : Nat) (x : Gauge) : (setGauge g x s).xcache = s.xcache := rfl
@[simp] theorem setGauge_tines (g : Nat) (x : Gauge) : (setGauge g x s).tines = s.tines := rfl
@[simp] theorem setGauge_bandCap (g : Nat) (x : Gauge) : (setGauge g x s).bandCap = s.bandCap := rfl
@[simp] theorem setGauge_mbox (g : Nat) (x : Gauge) : (setGauge g x s).mbox = s.mbox := rfl
@[simp] theorem setGauge_withheld (g : Nat) (x : Gauge) : (setGauge g x s).withheld = s.withheld := rfl
@[simp] theorem setGauge_hops (g : Nat) (x : Gauge) : (setGauge g x s).hops = s.hops := rfl
@[simp] theorem setGauge_rrLast (g : Nat) (x : Gauge) : (setGauge g x s).rrLast = s.rrLast := rfl
@[simp] theorem setGauge_frec (g : Nat) (x : Gauge) : (setGauge g x s).frec = s.frec := rfl
@[simp] theorem setGauge_lockSet (g : Nat) (x : Gauge) : (setGauge g x s).lockSet = s.lockSet := rfl
@[simp] theorem setGauge_retireQ (g : Nat) (x : Gauge) : (setGauge g x s).retireQ = s.retireQ := rfl
@[simp] theorem setGauge_ports (g : Nat) (x : Gauge) : (setGauge g x s).ports = s.ports := rfl
@[simp] theorem setGauge_cellsIn (g : Nat) (x : Gauge) : (setGauge g x s).cellsIn = s.cellsIn := rfl
@[simp] theorem setGauge_devM1 (g : Nat) (x : Gauge) : (setGauge g x s).devM1 = s.devM1 := rfl
@[simp] theorem setGauge_walkUps (g : Nat) (x : Gauge) : (setGauge g x s).walkUps = s.walkUps := rfl
@[simp] theorem setGauge_chainTags (g : Nat) (x : Gauge) : (setGauge g x s).chainTags = s.chainTags := rfl
@[simp] theorem setGauge_nextTag (g : Nat) (x : Gauge) : (setGauge g x s).nextTag = s.nextTag := rfl
@[simp] theorem setGauge_chainFwd (g : Nat) (x : Gauge) : (setGauge g x s).chainFwd = s.chainFwd := rfl
@[simp] theorem setGauge_outside (g : Nat) (x : Gauge) : (setGauge g x s).outside = s.outside := rfl
@[simp] theorem setGauge_wakeMac (g : Nat) (x : Gauge) : (setGauge g x s).wakeMac = s.wakeMac := rfl
@[simp] theorem setGauge_chainBack (g : Nat) (x : Gauge) : (setGauge g x s).chainBack = s.chainBack := rfl
@[simp] theorem setGauge_dom (g : Nat) (x : Gauge) : (setGauge g x s).dom = s.dom := rfl
@[simp] theorem setGauge_fifo (g : Nat) (x : Gauge) : (setGauge g x s).fifo = s.fifo := rfl
@[simp] theorem setGauge_cells (g : Nat) (x : Gauge) : (setGauge g x s).cells = s.cells := rfl
@[simp] theorem setGauge_hoes (g : Nat) (x : Gauge) : (setGauge g x s).hoes = s.hoes := rfl
@[simp] theorem setGauge_chans (g : Nat) (x : Gauge) : (setGauge g x s).chans = s.chans := rfl
@[simp] theorem setGauge_jsel (g : Nat) (x : Gauge) : (setGauge g x s).jsel = s.jsel := rfl
@[simp] theorem setGauge_strms (g : Nat) (x : Gauge) : (setGauge g x s).strms = s.strms := rfl
@[simp] theorem setGauge_macs (g : Nat) (x : Gauge) : (setGauge g x s).macs = s.macs := rfl
@[simp] theorem setGauge_rails (g : Nat) (x : Gauge) : (setGauge g x s).rails = s.rails := rfl
@[simp] theorem setGauge_engines (g : Nat) (x : Gauge) : (setGauge g x s).engines = s.engines := rfl
@[simp] theorem setGauge_cgArm (g : Nat) (x : Gauge) : (setGauge g x s).cgArm = s.cgArm := rfl
@[simp] theorem setGauge_msixTab (g : Nat) (x : Gauge) : (setGauge g x s).msixTab = s.msixTab := rfl
@[simp] theorem setGauge_msixPend (g : Nat) (x : Gauge) : (setGauge g x s).msixPend = s.msixPend := rfl
@[simp] theorem setGauge_hostMac (g : Nat) (x : Gauge) : (setGauge g x s).hostMac = s.hostMac := rfl
@[simp] theorem setGauge_apllFrom (g : Nat) (x : Gauge) : (setGauge g x s).apllFrom = s.apllFrom := rfl
@[simp] theorem setGauge_refSince (g : Nat) (x : Gauge) : (setGauge g x s).refSince = s.refSince := rfl
@[simp] theorem setGauge_refLast (g : Nat) (x : Gauge) : (setGauge g x s).refLast = s.refLast := rfl
@[simp] theorem setGauge_pllRuns (g : Nat) (x : Gauge) : (setGauge g x s).pllRuns = s.pllRuns := rfl
@[simp] theorem setGauge_pllFrom (g : Nat) (x : Gauge) : (setGauge g x s).pllFrom = s.pllFrom := rfl
@[simp] theorem setGauge_pwmOn (g : Nat) (x : Gauge) : (setGauge g x s).pwmOn = s.pwmOn := rfl
@[simp] theorem setGauge_pwmClk (g : Nat) (x : Gauge) : (setGauge g x s).pwmClk = s.pwmClk := rfl
@[simp] theorem setGauge_vio (g : Nat) (x : Gauge) : (setGauge g x s).vio = s.vio := rfl
@[simp] theorem setGauge_blkFrom (g : Nat) (x : Gauge) : (setGauge g x s).blkFrom = s.blkFrom := rfl
@[simp] theorem setGauge_trims (g : Nat) (x : Gauge) : (setGauge g x s).trims = s.trims := rfl
@[simp] theorem setGauge_hq (g : Nat) (x : Gauge) : (setGauge g x s).hq = s.hq := rfl
@[simp] theorem setGauge_hqLast (g : Nat) (x : Gauge) : (setGauge g x s).hqLast = s.hqLast := rfl
@[simp] theorem setGauge_hqEnHeld (g : Nat) (x : Gauge) : (setGauge g x s).hqEnHeld = s.hqEnHeld := rfl
@[simp] theorem setGauge_adminLast (g : Nat) (x : Gauge) : (setGauge g x s).adminLast = s.adminLast := rfl
@[simp] theorem setGauge_barHeld (g : Nat) (x : Gauge) : (setGauge g x s).barHeld = s.barHeld := rfl
@[simp] theorem setGauge_barHi (g : Nat) (x : Gauge) : (setGauge g x s).barHi = s.barHi := rfl
@[simp] theorem setGauge_boot (g : Nat) (x : Gauge) : (setGauge g x s).boot = s.boot := rfl
@[simp] theorem setGauge_otp (g : Nat) (x : Gauge) : (setGauge g x s).otp = s.otp := rfl
@[simp] theorem setGauge_otpOp (g : Nat) (x : Gauge) : (setGauge g x s).otpOp = s.otpOp := rfl
@[simp] theorem setGauge_keys (g : Nat) (x : Gauge) : (setGauge g x s).keys = s.keys := rfl
@[simp] theorem setGauge_pwr (g : Nat) (x : Gauge) : (setGauge g x s).pwr = s.pwr := rfl
@[simp] theorem setGauge_tap (g : Nat) (x : Gauge) : (setGauge g x s).tap = s.tap := rfl
@[simp] theorem setGauge_line (g : Nat) (x : Gauge) : (setGauge g x s).line = s.line := rfl
@[simp] theorem setGauge_snap (g : Nat) (x : Gauge) : (setGauge g x s).snap = s.snap := rfl
@[simp] theorem setGauge_dlcal (g : Nat) (x : Gauge) : (setGauge g x s).dlcal = s.dlcal := rfl
@[simp] theorem setGauge_ckpts (g : Nat) (x : Gauge) : (setGauge g x s).ckpts = s.ckpts := rfl
@[simp] theorem setGauge_reinst (g : Nat) (x : Gauge) : (setGauge g x s).reinst = s.reinst := rfl
@[simp] theorem setGauge_reinstQ (g : Nat) (x : Gauge) : (setGauge g x s).reinstQ = s.reinstQ := rfl
@[simp] theorem setGauge_leaseHeld (g : Nat) (x : Gauge) : (setGauge g x s).leaseHeld = s.leaseHeld := rfl
@[simp] theorem setGauge_memCtl (g : Nat) (x : Gauge) : (setGauge g x s).memCtl = s.memCtl := rfl
@[simp] theorem setGauge_released (g : Nat) (x : Gauge) : (setGauge g x s).released = s.released := rfl
@[simp] theorem setGauge_releasedAt (g : Nat) (x : Gauge) : (setGauge g x s).releasedAt = s.releasedAt := rfl
@[simp] theorem setGauge_vcoreLow (g : Nat) (x : Gauge) : (setGauge g x s).vcoreLow = s.vcoreLow := rfl
@[simp] theorem setGauge_vcoreAt (g : Nat) (x : Gauge) : (setGauge g x s).vcoreAt = s.vcoreAt := rfl
@[simp] theorem setGauge_dbgHeld (g : Nat) (x : Gauge) : (setGauge g x s).dbgHeld = s.dbgHeld := rfl
@[simp] theorem setGauge_hostSess (g : Nat) (x : Gauge) : (setGauge g x s).hostSess = s.hostSess := rfl
@[simp] theorem setGauge_probeSess (g : Nat) (x : Gauge) : (setGauge g x s).probeSess = s.probeSess := rfl
@[simp] theorem setGauge_readData (g : Nat) (x : Gauge) : (setGauge g x s).readData = s.readData := rfl
@[simp] theorem setGauge_out (g : Nat) (x : Gauge) : (setGauge g x s).out = s.out := rfl
@[simp] theorem reg_setGauge (g : Nat) (x : Gauge) (i₁ i₂ : Nat) : reg (setGauge g x s) i₁ i₂ = reg s i₁ i₂ := rfl
@[simp] theorem tineAt_setGauge (g : Nat) (x : Gauge) (i₁ : Nat) : tineAt (setGauge g x s) i₁ = tineAt s i₁ := rfl
@[simp] theorem domSt_setGauge (g : Nat) (x : Gauge) (i₁ : Nat) : domSt (setGauge g x s) i₁ = domSt s i₁ := rfl
@[simp] theorem hopAt_setGauge (g : Nat) (x : Gauge) (i₁ : Nat) : hopAt (setGauge g x s) i₁ = hopAt s i₁ := rfl
@[simp] theorem chanAt_setGauge (g : Nat) (x : Gauge) (i₁ : Nat) : chanAt (setGauge g x s) i₁ = chanAt s i₁ := rfl
@[simp] theorem cellAt_setGauge (g : Nat) (x : Gauge) (i₁ i₂ : Nat) : cellAt (setGauge g x s) i₁ i₂ = cellAt s i₁ i₂ := rfl
@[simp] theorem hoeAt_setGauge (g : Nat) (x : Gauge) (i₁ i₂ : Nat) : hoeAt (setGauge g x s) i₁ i₂ = hoeAt s i₁ i₂ := rfl
@[simp] theorem fifoAt_setGauge (g : Nat) (x : Gauge) (i₁ : Nat) : fifoAt (setGauge g x s) i₁ = fifoAt s i₁ := rfl
@[simp] theorem memGet_setGauge (g : Nat) (x : Gauge) (i₁ : Nat) : memGet (setGauge g x s) i₁ = memGet s i₁ := rfl
@[simp] theorem portAt_setGauge (g : Nat) (x : Gauge) (i₁ : Nat) : portAt (setGauge g x s) i₁ = portAt s i₁ := rfl
@[simp] theorem strmAt_setGauge (g : Nat) (x : Gauge) (i₁ : Nat) : strmAt (setGauge g x s) i₁ = strmAt s i₁ := rfl
@[simp] theorem macAt_setGauge (g : Nat) (x : Gauge) (i₁ : Nat) : macAt (setGauge g x s) i₁ = macAt s i₁ := rfl
@[simp] theorem railAt_setGauge (g : Nat) (x : Gauge) (i₁ : Nat) : railAt (setGauge g x s) i₁ = railAt s i₁ := rfl
@[simp] theorem hqAt_setGauge (g : Nat) (x : Gauge) (i₁ : Nat) : hqAt (setGauge g x s) i₁ = hqAt s i₁ := rfl

/-! ## setHop -/

@[simp] theorem setHop_pending (h : Nat) (x : HopQ) : (setHop h x s).pending = s.pending := rfl
@[simp] theorem setHop_now (h : Nat) (x : HopQ) : (setHop h x s).now = s.now := rfl
@[simp] theorem setHop_free (h : Nat) (x : HopQ) : (setHop h x s).free = s.free := rfl
@[simp] theorem setHop_regs (h : Nat) (x : HopQ) : (setHop h x s).regs = s.regs := rfl
@[simp] theorem setHop_mem (h : Nat) (x : HopQ) : (setHop h x s).mem = s.mem := rfl
@[simp] theorem setHop_ue (h : Nat) (x : HopQ) : (setHop h x s).ue = s.ue := rfl
@[simp] theorem setHop_xcache (h : Nat) (x : HopQ) : (setHop h x s).xcache = s.xcache := rfl
@[simp] theorem setHop_tines (h : Nat) (x : HopQ) : (setHop h x s).tines = s.tines := rfl
@[simp] theorem setHop_bandCap (h : Nat) (x : HopQ) : (setHop h x s).bandCap = s.bandCap := rfl
@[simp] theorem setHop_mbox (h : Nat) (x : HopQ) : (setHop h x s).mbox = s.mbox := rfl
@[simp] theorem setHop_withheld (h : Nat) (x : HopQ) : (setHop h x s).withheld = s.withheld := rfl
@[simp] theorem setHop_rrLast (h : Nat) (x : HopQ) : (setHop h x s).rrLast = s.rrLast := rfl
@[simp] theorem setHop_gauges (h : Nat) (x : HopQ) : (setHop h x s).gauges = s.gauges := rfl
@[simp] theorem setHop_frec (h : Nat) (x : HopQ) : (setHop h x s).frec = s.frec := rfl
@[simp] theorem setHop_lockSet (h : Nat) (x : HopQ) : (setHop h x s).lockSet = s.lockSet := rfl
@[simp] theorem setHop_retireQ (h : Nat) (x : HopQ) : (setHop h x s).retireQ = s.retireQ := rfl
@[simp] theorem setHop_ports (h : Nat) (x : HopQ) : (setHop h x s).ports = s.ports := rfl
@[simp] theorem setHop_cellsIn (h : Nat) (x : HopQ) : (setHop h x s).cellsIn = s.cellsIn := rfl
@[simp] theorem setHop_devM1 (h : Nat) (x : HopQ) : (setHop h x s).devM1 = s.devM1 := rfl
@[simp] theorem setHop_walkUps (h : Nat) (x : HopQ) : (setHop h x s).walkUps = s.walkUps := rfl
@[simp] theorem setHop_chainTags (h : Nat) (x : HopQ) : (setHop h x s).chainTags = s.chainTags := rfl
@[simp] theorem setHop_nextTag (h : Nat) (x : HopQ) : (setHop h x s).nextTag = s.nextTag := rfl
@[simp] theorem setHop_chainFwd (h : Nat) (x : HopQ) : (setHop h x s).chainFwd = s.chainFwd := rfl
@[simp] theorem setHop_outside (h : Nat) (x : HopQ) : (setHop h x s).outside = s.outside := rfl
@[simp] theorem setHop_wakeMac (h : Nat) (x : HopQ) : (setHop h x s).wakeMac = s.wakeMac := rfl
@[simp] theorem setHop_chainBack (h : Nat) (x : HopQ) : (setHop h x s).chainBack = s.chainBack := rfl
@[simp] theorem setHop_dom (h : Nat) (x : HopQ) : (setHop h x s).dom = s.dom := rfl
@[simp] theorem setHop_fifo (h : Nat) (x : HopQ) : (setHop h x s).fifo = s.fifo := rfl
@[simp] theorem setHop_cells (h : Nat) (x : HopQ) : (setHop h x s).cells = s.cells := rfl
@[simp] theorem setHop_hoes (h : Nat) (x : HopQ) : (setHop h x s).hoes = s.hoes := rfl
@[simp] theorem setHop_chans (h : Nat) (x : HopQ) : (setHop h x s).chans = s.chans := rfl
@[simp] theorem setHop_jsel (h : Nat) (x : HopQ) : (setHop h x s).jsel = s.jsel := rfl
@[simp] theorem setHop_strms (h : Nat) (x : HopQ) : (setHop h x s).strms = s.strms := rfl
@[simp] theorem setHop_macs (h : Nat) (x : HopQ) : (setHop h x s).macs = s.macs := rfl
@[simp] theorem setHop_rails (h : Nat) (x : HopQ) : (setHop h x s).rails = s.rails := rfl
@[simp] theorem setHop_engines (h : Nat) (x : HopQ) : (setHop h x s).engines = s.engines := rfl
@[simp] theorem setHop_cgArm (h : Nat) (x : HopQ) : (setHop h x s).cgArm = s.cgArm := rfl
@[simp] theorem setHop_msixTab (h : Nat) (x : HopQ) : (setHop h x s).msixTab = s.msixTab := rfl
@[simp] theorem setHop_msixPend (h : Nat) (x : HopQ) : (setHop h x s).msixPend = s.msixPend := rfl
@[simp] theorem setHop_hostMac (h : Nat) (x : HopQ) : (setHop h x s).hostMac = s.hostMac := rfl
@[simp] theorem setHop_apllFrom (h : Nat) (x : HopQ) : (setHop h x s).apllFrom = s.apllFrom := rfl
@[simp] theorem setHop_refSince (h : Nat) (x : HopQ) : (setHop h x s).refSince = s.refSince := rfl
@[simp] theorem setHop_refLast (h : Nat) (x : HopQ) : (setHop h x s).refLast = s.refLast := rfl
@[simp] theorem setHop_pllRuns (h : Nat) (x : HopQ) : (setHop h x s).pllRuns = s.pllRuns := rfl
@[simp] theorem setHop_pllFrom (h : Nat) (x : HopQ) : (setHop h x s).pllFrom = s.pllFrom := rfl
@[simp] theorem setHop_pwmOn (h : Nat) (x : HopQ) : (setHop h x s).pwmOn = s.pwmOn := rfl
@[simp] theorem setHop_pwmClk (h : Nat) (x : HopQ) : (setHop h x s).pwmClk = s.pwmClk := rfl
@[simp] theorem setHop_vio (h : Nat) (x : HopQ) : (setHop h x s).vio = s.vio := rfl
@[simp] theorem setHop_blkFrom (h : Nat) (x : HopQ) : (setHop h x s).blkFrom = s.blkFrom := rfl
@[simp] theorem setHop_trims (h : Nat) (x : HopQ) : (setHop h x s).trims = s.trims := rfl
@[simp] theorem setHop_hq (h : Nat) (x : HopQ) : (setHop h x s).hq = s.hq := rfl
@[simp] theorem setHop_hqLast (h : Nat) (x : HopQ) : (setHop h x s).hqLast = s.hqLast := rfl
@[simp] theorem setHop_hqEnHeld (h : Nat) (x : HopQ) : (setHop h x s).hqEnHeld = s.hqEnHeld := rfl
@[simp] theorem setHop_adminLast (h : Nat) (x : HopQ) : (setHop h x s).adminLast = s.adminLast := rfl
@[simp] theorem setHop_barHeld (h : Nat) (x : HopQ) : (setHop h x s).barHeld = s.barHeld := rfl
@[simp] theorem setHop_barHi (h : Nat) (x : HopQ) : (setHop h x s).barHi = s.barHi := rfl
@[simp] theorem setHop_boot (h : Nat) (x : HopQ) : (setHop h x s).boot = s.boot := rfl
@[simp] theorem setHop_otp (h : Nat) (x : HopQ) : (setHop h x s).otp = s.otp := rfl
@[simp] theorem setHop_otpOp (h : Nat) (x : HopQ) : (setHop h x s).otpOp = s.otpOp := rfl
@[simp] theorem setHop_keys (h : Nat) (x : HopQ) : (setHop h x s).keys = s.keys := rfl
@[simp] theorem setHop_pwr (h : Nat) (x : HopQ) : (setHop h x s).pwr = s.pwr := rfl
@[simp] theorem setHop_tap (h : Nat) (x : HopQ) : (setHop h x s).tap = s.tap := rfl
@[simp] theorem setHop_line (h : Nat) (x : HopQ) : (setHop h x s).line = s.line := rfl
@[simp] theorem setHop_snap (h : Nat) (x : HopQ) : (setHop h x s).snap = s.snap := rfl
@[simp] theorem setHop_dlcal (h : Nat) (x : HopQ) : (setHop h x s).dlcal = s.dlcal := rfl
@[simp] theorem setHop_ckpts (h : Nat) (x : HopQ) : (setHop h x s).ckpts = s.ckpts := rfl
@[simp] theorem setHop_reinst (h : Nat) (x : HopQ) : (setHop h x s).reinst = s.reinst := rfl
@[simp] theorem setHop_reinstQ (h : Nat) (x : HopQ) : (setHop h x s).reinstQ = s.reinstQ := rfl
@[simp] theorem setHop_leaseHeld (h : Nat) (x : HopQ) : (setHop h x s).leaseHeld = s.leaseHeld := rfl
@[simp] theorem setHop_memCtl (h : Nat) (x : HopQ) : (setHop h x s).memCtl = s.memCtl := rfl
@[simp] theorem setHop_released (h : Nat) (x : HopQ) : (setHop h x s).released = s.released := rfl
@[simp] theorem setHop_releasedAt (h : Nat) (x : HopQ) : (setHop h x s).releasedAt = s.releasedAt := rfl
@[simp] theorem setHop_vcoreLow (h : Nat) (x : HopQ) : (setHop h x s).vcoreLow = s.vcoreLow := rfl
@[simp] theorem setHop_vcoreAt (h : Nat) (x : HopQ) : (setHop h x s).vcoreAt = s.vcoreAt := rfl
@[simp] theorem setHop_dbgHeld (h : Nat) (x : HopQ) : (setHop h x s).dbgHeld = s.dbgHeld := rfl
@[simp] theorem setHop_hostSess (h : Nat) (x : HopQ) : (setHop h x s).hostSess = s.hostSess := rfl
@[simp] theorem setHop_probeSess (h : Nat) (x : HopQ) : (setHop h x s).probeSess = s.probeSess := rfl
@[simp] theorem setHop_readData (h : Nat) (x : HopQ) : (setHop h x s).readData = s.readData := rfl
@[simp] theorem setHop_out (h : Nat) (x : HopQ) : (setHop h x s).out = s.out := rfl
@[simp] theorem reg_setHop (h : Nat) (x : HopQ) (i₁ i₂ : Nat) : reg (setHop h x s) i₁ i₂ = reg s i₁ i₂ := rfl
@[simp] theorem tineAt_setHop (h : Nat) (x : HopQ) (i₁ : Nat) : tineAt (setHop h x s) i₁ = tineAt s i₁ := rfl
@[simp] theorem domSt_setHop (h : Nat) (x : HopQ) (i₁ : Nat) : domSt (setHop h x s) i₁ = domSt s i₁ := rfl
@[simp] theorem gaugeAt_setHop (h : Nat) (x : HopQ) (i₁ : Nat) : gaugeAt (setHop h x s) i₁ = gaugeAt s i₁ := rfl
@[simp] theorem chanAt_setHop (h : Nat) (x : HopQ) (i₁ : Nat) : chanAt (setHop h x s) i₁ = chanAt s i₁ := rfl
@[simp] theorem cellAt_setHop (h : Nat) (x : HopQ) (i₁ i₂ : Nat) : cellAt (setHop h x s) i₁ i₂ = cellAt s i₁ i₂ := rfl
@[simp] theorem hoeAt_setHop (h : Nat) (x : HopQ) (i₁ i₂ : Nat) : hoeAt (setHop h x s) i₁ i₂ = hoeAt s i₁ i₂ := rfl
@[simp] theorem fifoAt_setHop (h : Nat) (x : HopQ) (i₁ : Nat) : fifoAt (setHop h x s) i₁ = fifoAt s i₁ := rfl
@[simp] theorem memGet_setHop (h : Nat) (x : HopQ) (i₁ : Nat) : memGet (setHop h x s) i₁ = memGet s i₁ := rfl
@[simp] theorem portAt_setHop (h : Nat) (x : HopQ) (i₁ : Nat) : portAt (setHop h x s) i₁ = portAt s i₁ := rfl
@[simp] theorem strmAt_setHop (h : Nat) (x : HopQ) (i₁ : Nat) : strmAt (setHop h x s) i₁ = strmAt s i₁ := rfl
@[simp] theorem macAt_setHop (h : Nat) (x : HopQ) (i₁ : Nat) : macAt (setHop h x s) i₁ = macAt s i₁ := rfl
@[simp] theorem railAt_setHop (h : Nat) (x : HopQ) (i₁ : Nat) : railAt (setHop h x s) i₁ = railAt s i₁ := rfl
@[simp] theorem hqAt_setHop (h : Nat) (x : HopQ) (i₁ : Nat) : hqAt (setHop h x s) i₁ = hqAt s i₁ := rfl

/-! ## setChan -/

@[simp] theorem setChan_pending (c : Nat) (x : Chan) : (setChan c x s).pending = s.pending := rfl
@[simp] theorem setChan_now (c : Nat) (x : Chan) : (setChan c x s).now = s.now := rfl
@[simp] theorem setChan_free (c : Nat) (x : Chan) : (setChan c x s).free = s.free := rfl
@[simp] theorem setChan_regs (c : Nat) (x : Chan) : (setChan c x s).regs = s.regs := rfl
@[simp] theorem setChan_mem (c : Nat) (x : Chan) : (setChan c x s).mem = s.mem := rfl
@[simp] theorem setChan_ue (c : Nat) (x : Chan) : (setChan c x s).ue = s.ue := rfl
@[simp] theorem setChan_xcache (c : Nat) (x : Chan) : (setChan c x s).xcache = s.xcache := rfl
@[simp] theorem setChan_tines (c : Nat) (x : Chan) : (setChan c x s).tines = s.tines := rfl
@[simp] theorem setChan_bandCap (c : Nat) (x : Chan) : (setChan c x s).bandCap = s.bandCap := rfl
@[simp] theorem setChan_mbox (c : Nat) (x : Chan) : (setChan c x s).mbox = s.mbox := rfl
@[simp] theorem setChan_withheld (c : Nat) (x : Chan) : (setChan c x s).withheld = s.withheld := rfl
@[simp] theorem setChan_hops (c : Nat) (x : Chan) : (setChan c x s).hops = s.hops := rfl
@[simp] theorem setChan_rrLast (c : Nat) (x : Chan) : (setChan c x s).rrLast = s.rrLast := rfl
@[simp] theorem setChan_gauges (c : Nat) (x : Chan) : (setChan c x s).gauges = s.gauges := rfl
@[simp] theorem setChan_frec (c : Nat) (x : Chan) : (setChan c x s).frec = s.frec := rfl
@[simp] theorem setChan_lockSet (c : Nat) (x : Chan) : (setChan c x s).lockSet = s.lockSet := rfl
@[simp] theorem setChan_retireQ (c : Nat) (x : Chan) : (setChan c x s).retireQ = s.retireQ := rfl
@[simp] theorem setChan_ports (c : Nat) (x : Chan) : (setChan c x s).ports = s.ports := rfl
@[simp] theorem setChan_cellsIn (c : Nat) (x : Chan) : (setChan c x s).cellsIn = s.cellsIn := rfl
@[simp] theorem setChan_devM1 (c : Nat) (x : Chan) : (setChan c x s).devM1 = s.devM1 := rfl
@[simp] theorem setChan_walkUps (c : Nat) (x : Chan) : (setChan c x s).walkUps = s.walkUps := rfl
@[simp] theorem setChan_chainTags (c : Nat) (x : Chan) : (setChan c x s).chainTags = s.chainTags := rfl
@[simp] theorem setChan_nextTag (c : Nat) (x : Chan) : (setChan c x s).nextTag = s.nextTag := rfl
@[simp] theorem setChan_chainFwd (c : Nat) (x : Chan) : (setChan c x s).chainFwd = s.chainFwd := rfl
@[simp] theorem setChan_outside (c : Nat) (x : Chan) : (setChan c x s).outside = s.outside := rfl
@[simp] theorem setChan_wakeMac (c : Nat) (x : Chan) : (setChan c x s).wakeMac = s.wakeMac := rfl
@[simp] theorem setChan_chainBack (c : Nat) (x : Chan) : (setChan c x s).chainBack = s.chainBack := rfl
@[simp] theorem setChan_dom (c : Nat) (x : Chan) : (setChan c x s).dom = s.dom := rfl
@[simp] theorem setChan_fifo (c : Nat) (x : Chan) : (setChan c x s).fifo = s.fifo := rfl
@[simp] theorem setChan_cells (c : Nat) (x : Chan) : (setChan c x s).cells = s.cells := rfl
@[simp] theorem setChan_hoes (c : Nat) (x : Chan) : (setChan c x s).hoes = s.hoes := rfl
@[simp] theorem setChan_jsel (c : Nat) (x : Chan) : (setChan c x s).jsel = s.jsel := rfl
@[simp] theorem setChan_strms (c : Nat) (x : Chan) : (setChan c x s).strms = s.strms := rfl
@[simp] theorem setChan_macs (c : Nat) (x : Chan) : (setChan c x s).macs = s.macs := rfl
@[simp] theorem setChan_rails (c : Nat) (x : Chan) : (setChan c x s).rails = s.rails := rfl
@[simp] theorem setChan_engines (c : Nat) (x : Chan) : (setChan c x s).engines = s.engines := rfl
@[simp] theorem setChan_cgArm (c : Nat) (x : Chan) : (setChan c x s).cgArm = s.cgArm := rfl
@[simp] theorem setChan_msixTab (c : Nat) (x : Chan) : (setChan c x s).msixTab = s.msixTab := rfl
@[simp] theorem setChan_msixPend (c : Nat) (x : Chan) : (setChan c x s).msixPend = s.msixPend := rfl
@[simp] theorem setChan_hostMac (c : Nat) (x : Chan) : (setChan c x s).hostMac = s.hostMac := rfl
@[simp] theorem setChan_apllFrom (c : Nat) (x : Chan) : (setChan c x s).apllFrom = s.apllFrom := rfl
@[simp] theorem setChan_refSince (c : Nat) (x : Chan) : (setChan c x s).refSince = s.refSince := rfl
@[simp] theorem setChan_refLast (c : Nat) (x : Chan) : (setChan c x s).refLast = s.refLast := rfl
@[simp] theorem setChan_pllRuns (c : Nat) (x : Chan) : (setChan c x s).pllRuns = s.pllRuns := rfl
@[simp] theorem setChan_pllFrom (c : Nat) (x : Chan) : (setChan c x s).pllFrom = s.pllFrom := rfl
@[simp] theorem setChan_pwmOn (c : Nat) (x : Chan) : (setChan c x s).pwmOn = s.pwmOn := rfl
@[simp] theorem setChan_pwmClk (c : Nat) (x : Chan) : (setChan c x s).pwmClk = s.pwmClk := rfl
@[simp] theorem setChan_vio (c : Nat) (x : Chan) : (setChan c x s).vio = s.vio := rfl
@[simp] theorem setChan_blkFrom (c : Nat) (x : Chan) : (setChan c x s).blkFrom = s.blkFrom := rfl
@[simp] theorem setChan_trims (c : Nat) (x : Chan) : (setChan c x s).trims = s.trims := rfl
@[simp] theorem setChan_hq (c : Nat) (x : Chan) : (setChan c x s).hq = s.hq := rfl
@[simp] theorem setChan_hqLast (c : Nat) (x : Chan) : (setChan c x s).hqLast = s.hqLast := rfl
@[simp] theorem setChan_hqEnHeld (c : Nat) (x : Chan) : (setChan c x s).hqEnHeld = s.hqEnHeld := rfl
@[simp] theorem setChan_adminLast (c : Nat) (x : Chan) : (setChan c x s).adminLast = s.adminLast := rfl
@[simp] theorem setChan_barHeld (c : Nat) (x : Chan) : (setChan c x s).barHeld = s.barHeld := rfl
@[simp] theorem setChan_barHi (c : Nat) (x : Chan) : (setChan c x s).barHi = s.barHi := rfl
@[simp] theorem setChan_boot (c : Nat) (x : Chan) : (setChan c x s).boot = s.boot := rfl
@[simp] theorem setChan_otp (c : Nat) (x : Chan) : (setChan c x s).otp = s.otp := rfl
@[simp] theorem setChan_otpOp (c : Nat) (x : Chan) : (setChan c x s).otpOp = s.otpOp := rfl
@[simp] theorem setChan_keys (c : Nat) (x : Chan) : (setChan c x s).keys = s.keys := rfl
@[simp] theorem setChan_pwr (c : Nat) (x : Chan) : (setChan c x s).pwr = s.pwr := rfl
@[simp] theorem setChan_tap (c : Nat) (x : Chan) : (setChan c x s).tap = s.tap := rfl
@[simp] theorem setChan_line (c : Nat) (x : Chan) : (setChan c x s).line = s.line := rfl
@[simp] theorem setChan_snap (c : Nat) (x : Chan) : (setChan c x s).snap = s.snap := rfl
@[simp] theorem setChan_dlcal (c : Nat) (x : Chan) : (setChan c x s).dlcal = s.dlcal := rfl
@[simp] theorem setChan_ckpts (c : Nat) (x : Chan) : (setChan c x s).ckpts = s.ckpts := rfl
@[simp] theorem setChan_reinst (c : Nat) (x : Chan) : (setChan c x s).reinst = s.reinst := rfl
@[simp] theorem setChan_reinstQ (c : Nat) (x : Chan) : (setChan c x s).reinstQ = s.reinstQ := rfl
@[simp] theorem setChan_leaseHeld (c : Nat) (x : Chan) : (setChan c x s).leaseHeld = s.leaseHeld := rfl
@[simp] theorem setChan_memCtl (c : Nat) (x : Chan) : (setChan c x s).memCtl = s.memCtl := rfl
@[simp] theorem setChan_released (c : Nat) (x : Chan) : (setChan c x s).released = s.released := rfl
@[simp] theorem setChan_releasedAt (c : Nat) (x : Chan) : (setChan c x s).releasedAt = s.releasedAt := rfl
@[simp] theorem setChan_vcoreLow (c : Nat) (x : Chan) : (setChan c x s).vcoreLow = s.vcoreLow := rfl
@[simp] theorem setChan_vcoreAt (c : Nat) (x : Chan) : (setChan c x s).vcoreAt = s.vcoreAt := rfl
@[simp] theorem setChan_dbgHeld (c : Nat) (x : Chan) : (setChan c x s).dbgHeld = s.dbgHeld := rfl
@[simp] theorem setChan_hostSess (c : Nat) (x : Chan) : (setChan c x s).hostSess = s.hostSess := rfl
@[simp] theorem setChan_probeSess (c : Nat) (x : Chan) : (setChan c x s).probeSess = s.probeSess := rfl
@[simp] theorem setChan_readData (c : Nat) (x : Chan) : (setChan c x s).readData = s.readData := rfl
@[simp] theorem setChan_out (c : Nat) (x : Chan) : (setChan c x s).out = s.out := rfl
@[simp] theorem reg_setChan (c : Nat) (x : Chan) (i₁ i₂ : Nat) : reg (setChan c x s) i₁ i₂ = reg s i₁ i₂ := rfl
@[simp] theorem tineAt_setChan (c : Nat) (x : Chan) (i₁ : Nat) : tineAt (setChan c x s) i₁ = tineAt s i₁ := rfl
@[simp] theorem domSt_setChan (c : Nat) (x : Chan) (i₁ : Nat) : domSt (setChan c x s) i₁ = domSt s i₁ := rfl
@[simp] theorem gaugeAt_setChan (c : Nat) (x : Chan) (i₁ : Nat) : gaugeAt (setChan c x s) i₁ = gaugeAt s i₁ := rfl
@[simp] theorem hopAt_setChan (c : Nat) (x : Chan) (i₁ : Nat) : hopAt (setChan c x s) i₁ = hopAt s i₁ := rfl
@[simp] theorem cellAt_setChan (c : Nat) (x : Chan) (i₁ i₂ : Nat) : cellAt (setChan c x s) i₁ i₂ = cellAt s i₁ i₂ := rfl
@[simp] theorem hoeAt_setChan (c : Nat) (x : Chan) (i₁ i₂ : Nat) : hoeAt (setChan c x s) i₁ i₂ = hoeAt s i₁ i₂ := rfl
@[simp] theorem fifoAt_setChan (c : Nat) (x : Chan) (i₁ : Nat) : fifoAt (setChan c x s) i₁ = fifoAt s i₁ := rfl
@[simp] theorem memGet_setChan (c : Nat) (x : Chan) (i₁ : Nat) : memGet (setChan c x s) i₁ = memGet s i₁ := rfl
@[simp] theorem portAt_setChan (c : Nat) (x : Chan) (i₁ : Nat) : portAt (setChan c x s) i₁ = portAt s i₁ := rfl
@[simp] theorem strmAt_setChan (c : Nat) (x : Chan) (i₁ : Nat) : strmAt (setChan c x s) i₁ = strmAt s i₁ := rfl
@[simp] theorem macAt_setChan (c : Nat) (x : Chan) (i₁ : Nat) : macAt (setChan c x s) i₁ = macAt s i₁ := rfl
@[simp] theorem railAt_setChan (c : Nat) (x : Chan) (i₁ : Nat) : railAt (setChan c x s) i₁ = railAt s i₁ := rfl
@[simp] theorem hqAt_setChan (c : Nat) (x : Chan) (i₁ : Nat) : hqAt (setChan c x s) i₁ = hqAt s i₁ := rfl

/-! ## modChan -/

@[simp] theorem modChan_pending (c : Nat) (f : Chan → Chan) : (modChan c f s).pending = s.pending := rfl
@[simp] theorem modChan_now (c : Nat) (f : Chan → Chan) : (modChan c f s).now = s.now := rfl
@[simp] theorem modChan_free (c : Nat) (f : Chan → Chan) : (modChan c f s).free = s.free := rfl
@[simp] theorem modChan_regs (c : Nat) (f : Chan → Chan) : (modChan c f s).regs = s.regs := rfl
@[simp] theorem modChan_mem (c : Nat) (f : Chan → Chan) : (modChan c f s).mem = s.mem := rfl
@[simp] theorem modChan_ue (c : Nat) (f : Chan → Chan) : (modChan c f s).ue = s.ue := rfl
@[simp] theorem modChan_xcache (c : Nat) (f : Chan → Chan) : (modChan c f s).xcache = s.xcache := rfl
@[simp] theorem modChan_tines (c : Nat) (f : Chan → Chan) : (modChan c f s).tines = s.tines := rfl
@[simp] theorem modChan_bandCap (c : Nat) (f : Chan → Chan) : (modChan c f s).bandCap = s.bandCap := rfl
@[simp] theorem modChan_mbox (c : Nat) (f : Chan → Chan) : (modChan c f s).mbox = s.mbox := rfl
@[simp] theorem modChan_withheld (c : Nat) (f : Chan → Chan) : (modChan c f s).withheld = s.withheld := rfl
@[simp] theorem modChan_hops (c : Nat) (f : Chan → Chan) : (modChan c f s).hops = s.hops := rfl
@[simp] theorem modChan_rrLast (c : Nat) (f : Chan → Chan) : (modChan c f s).rrLast = s.rrLast := rfl
@[simp] theorem modChan_gauges (c : Nat) (f : Chan → Chan) : (modChan c f s).gauges = s.gauges := rfl
@[simp] theorem modChan_frec (c : Nat) (f : Chan → Chan) : (modChan c f s).frec = s.frec := rfl
@[simp] theorem modChan_lockSet (c : Nat) (f : Chan → Chan) : (modChan c f s).lockSet = s.lockSet := rfl
@[simp] theorem modChan_retireQ (c : Nat) (f : Chan → Chan) : (modChan c f s).retireQ = s.retireQ := rfl
@[simp] theorem modChan_ports (c : Nat) (f : Chan → Chan) : (modChan c f s).ports = s.ports := rfl
@[simp] theorem modChan_cellsIn (c : Nat) (f : Chan → Chan) : (modChan c f s).cellsIn = s.cellsIn := rfl
@[simp] theorem modChan_devM1 (c : Nat) (f : Chan → Chan) : (modChan c f s).devM1 = s.devM1 := rfl
@[simp] theorem modChan_walkUps (c : Nat) (f : Chan → Chan) : (modChan c f s).walkUps = s.walkUps := rfl
@[simp] theorem modChan_chainTags (c : Nat) (f : Chan → Chan) : (modChan c f s).chainTags = s.chainTags := rfl
@[simp] theorem modChan_nextTag (c : Nat) (f : Chan → Chan) : (modChan c f s).nextTag = s.nextTag := rfl
@[simp] theorem modChan_chainFwd (c : Nat) (f : Chan → Chan) : (modChan c f s).chainFwd = s.chainFwd := rfl
@[simp] theorem modChan_outside (c : Nat) (f : Chan → Chan) : (modChan c f s).outside = s.outside := rfl
@[simp] theorem modChan_wakeMac (c : Nat) (f : Chan → Chan) : (modChan c f s).wakeMac = s.wakeMac := rfl
@[simp] theorem modChan_chainBack (c : Nat) (f : Chan → Chan) : (modChan c f s).chainBack = s.chainBack := rfl
@[simp] theorem modChan_dom (c : Nat) (f : Chan → Chan) : (modChan c f s).dom = s.dom := rfl
@[simp] theorem modChan_fifo (c : Nat) (f : Chan → Chan) : (modChan c f s).fifo = s.fifo := rfl
@[simp] theorem modChan_cells (c : Nat) (f : Chan → Chan) : (modChan c f s).cells = s.cells := rfl
@[simp] theorem modChan_hoes (c : Nat) (f : Chan → Chan) : (modChan c f s).hoes = s.hoes := rfl
@[simp] theorem modChan_jsel (c : Nat) (f : Chan → Chan) : (modChan c f s).jsel = s.jsel := rfl
@[simp] theorem modChan_strms (c : Nat) (f : Chan → Chan) : (modChan c f s).strms = s.strms := rfl
@[simp] theorem modChan_macs (c : Nat) (f : Chan → Chan) : (modChan c f s).macs = s.macs := rfl
@[simp] theorem modChan_rails (c : Nat) (f : Chan → Chan) : (modChan c f s).rails = s.rails := rfl
@[simp] theorem modChan_engines (c : Nat) (f : Chan → Chan) : (modChan c f s).engines = s.engines := rfl
@[simp] theorem modChan_cgArm (c : Nat) (f : Chan → Chan) : (modChan c f s).cgArm = s.cgArm := rfl
@[simp] theorem modChan_msixTab (c : Nat) (f : Chan → Chan) : (modChan c f s).msixTab = s.msixTab := rfl
@[simp] theorem modChan_msixPend (c : Nat) (f : Chan → Chan) : (modChan c f s).msixPend = s.msixPend := rfl
@[simp] theorem modChan_hostMac (c : Nat) (f : Chan → Chan) : (modChan c f s).hostMac = s.hostMac := rfl
@[simp] theorem modChan_apllFrom (c : Nat) (f : Chan → Chan) : (modChan c f s).apllFrom = s.apllFrom := rfl
@[simp] theorem modChan_refSince (c : Nat) (f : Chan → Chan) : (modChan c f s).refSince = s.refSince := rfl
@[simp] theorem modChan_refLast (c : Nat) (f : Chan → Chan) : (modChan c f s).refLast = s.refLast := rfl
@[simp] theorem modChan_pllRuns (c : Nat) (f : Chan → Chan) : (modChan c f s).pllRuns = s.pllRuns := rfl
@[simp] theorem modChan_pllFrom (c : Nat) (f : Chan → Chan) : (modChan c f s).pllFrom = s.pllFrom := rfl
@[simp] theorem modChan_pwmOn (c : Nat) (f : Chan → Chan) : (modChan c f s).pwmOn = s.pwmOn := rfl
@[simp] theorem modChan_pwmClk (c : Nat) (f : Chan → Chan) : (modChan c f s).pwmClk = s.pwmClk := rfl
@[simp] theorem modChan_vio (c : Nat) (f : Chan → Chan) : (modChan c f s).vio = s.vio := rfl
@[simp] theorem modChan_blkFrom (c : Nat) (f : Chan → Chan) : (modChan c f s).blkFrom = s.blkFrom := rfl
@[simp] theorem modChan_trims (c : Nat) (f : Chan → Chan) : (modChan c f s).trims = s.trims := rfl
@[simp] theorem modChan_hq (c : Nat) (f : Chan → Chan) : (modChan c f s).hq = s.hq := rfl
@[simp] theorem modChan_hqLast (c : Nat) (f : Chan → Chan) : (modChan c f s).hqLast = s.hqLast := rfl
@[simp] theorem modChan_hqEnHeld (c : Nat) (f : Chan → Chan) : (modChan c f s).hqEnHeld = s.hqEnHeld := rfl
@[simp] theorem modChan_adminLast (c : Nat) (f : Chan → Chan) : (modChan c f s).adminLast = s.adminLast := rfl
@[simp] theorem modChan_barHeld (c : Nat) (f : Chan → Chan) : (modChan c f s).barHeld = s.barHeld := rfl
@[simp] theorem modChan_barHi (c : Nat) (f : Chan → Chan) : (modChan c f s).barHi = s.barHi := rfl
@[simp] theorem modChan_boot (c : Nat) (f : Chan → Chan) : (modChan c f s).boot = s.boot := rfl
@[simp] theorem modChan_otp (c : Nat) (f : Chan → Chan) : (modChan c f s).otp = s.otp := rfl
@[simp] theorem modChan_otpOp (c : Nat) (f : Chan → Chan) : (modChan c f s).otpOp = s.otpOp := rfl
@[simp] theorem modChan_keys (c : Nat) (f : Chan → Chan) : (modChan c f s).keys = s.keys := rfl
@[simp] theorem modChan_pwr (c : Nat) (f : Chan → Chan) : (modChan c f s).pwr = s.pwr := rfl
@[simp] theorem modChan_tap (c : Nat) (f : Chan → Chan) : (modChan c f s).tap = s.tap := rfl
@[simp] theorem modChan_line (c : Nat) (f : Chan → Chan) : (modChan c f s).line = s.line := rfl
@[simp] theorem modChan_snap (c : Nat) (f : Chan → Chan) : (modChan c f s).snap = s.snap := rfl
@[simp] theorem modChan_dlcal (c : Nat) (f : Chan → Chan) : (modChan c f s).dlcal = s.dlcal := rfl
@[simp] theorem modChan_ckpts (c : Nat) (f : Chan → Chan) : (modChan c f s).ckpts = s.ckpts := rfl
@[simp] theorem modChan_reinst (c : Nat) (f : Chan → Chan) : (modChan c f s).reinst = s.reinst := rfl
@[simp] theorem modChan_reinstQ (c : Nat) (f : Chan → Chan) : (modChan c f s).reinstQ = s.reinstQ := rfl
@[simp] theorem modChan_leaseHeld (c : Nat) (f : Chan → Chan) : (modChan c f s).leaseHeld = s.leaseHeld := rfl
@[simp] theorem modChan_memCtl (c : Nat) (f : Chan → Chan) : (modChan c f s).memCtl = s.memCtl := rfl
@[simp] theorem modChan_released (c : Nat) (f : Chan → Chan) : (modChan c f s).released = s.released := rfl
@[simp] theorem modChan_releasedAt (c : Nat) (f : Chan → Chan) : (modChan c f s).releasedAt = s.releasedAt := rfl
@[simp] theorem modChan_vcoreLow (c : Nat) (f : Chan → Chan) : (modChan c f s).vcoreLow = s.vcoreLow := rfl
@[simp] theorem modChan_vcoreAt (c : Nat) (f : Chan → Chan) : (modChan c f s).vcoreAt = s.vcoreAt := rfl
@[simp] theorem modChan_dbgHeld (c : Nat) (f : Chan → Chan) : (modChan c f s).dbgHeld = s.dbgHeld := rfl
@[simp] theorem modChan_hostSess (c : Nat) (f : Chan → Chan) : (modChan c f s).hostSess = s.hostSess := rfl
@[simp] theorem modChan_probeSess (c : Nat) (f : Chan → Chan) : (modChan c f s).probeSess = s.probeSess := rfl
@[simp] theorem modChan_readData (c : Nat) (f : Chan → Chan) : (modChan c f s).readData = s.readData := rfl
@[simp] theorem modChan_out (c : Nat) (f : Chan → Chan) : (modChan c f s).out = s.out := rfl
@[simp] theorem reg_modChan (c : Nat) (f : Chan → Chan) (i₁ i₂ : Nat) : reg (modChan c f s) i₁ i₂ = reg s i₁ i₂ := rfl
@[simp] theorem tineAt_modChan (c : Nat) (f : Chan → Chan) (i₁ : Nat) : tineAt (modChan c f s) i₁ = tineAt s i₁ := rfl
@[simp] theorem domSt_modChan (c : Nat) (f : Chan → Chan) (i₁ : Nat) : domSt (modChan c f s) i₁ = domSt s i₁ := rfl
@[simp] theorem gaugeAt_modChan (c : Nat) (f : Chan → Chan) (i₁ : Nat) : gaugeAt (modChan c f s) i₁ = gaugeAt s i₁ := rfl
@[simp] theorem hopAt_modChan (c : Nat) (f : Chan → Chan) (i₁ : Nat) : hopAt (modChan c f s) i₁ = hopAt s i₁ := rfl
@[simp] theorem cellAt_modChan (c : Nat) (f : Chan → Chan) (i₁ i₂ : Nat) : cellAt (modChan c f s) i₁ i₂ = cellAt s i₁ i₂ := rfl
@[simp] theorem hoeAt_modChan (c : Nat) (f : Chan → Chan) (i₁ i₂ : Nat) : hoeAt (modChan c f s) i₁ i₂ = hoeAt s i₁ i₂ := rfl
@[simp] theorem fifoAt_modChan (c : Nat) (f : Chan → Chan) (i₁ : Nat) : fifoAt (modChan c f s) i₁ = fifoAt s i₁ := rfl
@[simp] theorem memGet_modChan (c : Nat) (f : Chan → Chan) (i₁ : Nat) : memGet (modChan c f s) i₁ = memGet s i₁ := rfl
@[simp] theorem portAt_modChan (c : Nat) (f : Chan → Chan) (i₁ : Nat) : portAt (modChan c f s) i₁ = portAt s i₁ := rfl
@[simp] theorem strmAt_modChan (c : Nat) (f : Chan → Chan) (i₁ : Nat) : strmAt (modChan c f s) i₁ = strmAt s i₁ := rfl
@[simp] theorem macAt_modChan (c : Nat) (f : Chan → Chan) (i₁ : Nat) : macAt (modChan c f s) i₁ = macAt s i₁ := rfl
@[simp] theorem railAt_modChan (c : Nat) (f : Chan → Chan) (i₁ : Nat) : railAt (modChan c f s) i₁ = railAt s i₁ := rfl
@[simp] theorem hqAt_modChan (c : Nat) (f : Chan → Chan) (i₁ : Nat) : hqAt (modChan c f s) i₁ = hqAt s i₁ := rfl

/-! ## setCell -/

@[simp] theorem setCell_pending (r c : Nat) (x : CellSt) : (setCell r c x s).pending = s.pending := rfl
@[simp] theorem setCell_now (r c : Nat) (x : CellSt) : (setCell r c x s).now = s.now := rfl
@[simp] theorem setCell_free (r c : Nat) (x : CellSt) : (setCell r c x s).free = s.free := rfl
@[simp] theorem setCell_regs (r c : Nat) (x : CellSt) : (setCell r c x s).regs = s.regs := rfl
@[simp] theorem setCell_mem (r c : Nat) (x : CellSt) : (setCell r c x s).mem = s.mem := rfl
@[simp] theorem setCell_ue (r c : Nat) (x : CellSt) : (setCell r c x s).ue = s.ue := rfl
@[simp] theorem setCell_xcache (r c : Nat) (x : CellSt) : (setCell r c x s).xcache = s.xcache := rfl
@[simp] theorem setCell_tines (r c : Nat) (x : CellSt) : (setCell r c x s).tines = s.tines := rfl
@[simp] theorem setCell_bandCap (r c : Nat) (x : CellSt) : (setCell r c x s).bandCap = s.bandCap := rfl
@[simp] theorem setCell_mbox (r c : Nat) (x : CellSt) : (setCell r c x s).mbox = s.mbox := rfl
@[simp] theorem setCell_withheld (r c : Nat) (x : CellSt) : (setCell r c x s).withheld = s.withheld := rfl
@[simp] theorem setCell_hops (r c : Nat) (x : CellSt) : (setCell r c x s).hops = s.hops := rfl
@[simp] theorem setCell_rrLast (r c : Nat) (x : CellSt) : (setCell r c x s).rrLast = s.rrLast := rfl
@[simp] theorem setCell_gauges (r c : Nat) (x : CellSt) : (setCell r c x s).gauges = s.gauges := rfl
@[simp] theorem setCell_frec (r c : Nat) (x : CellSt) : (setCell r c x s).frec = s.frec := rfl
@[simp] theorem setCell_lockSet (r c : Nat) (x : CellSt) : (setCell r c x s).lockSet = s.lockSet := rfl
@[simp] theorem setCell_retireQ (r c : Nat) (x : CellSt) : (setCell r c x s).retireQ = s.retireQ := rfl
@[simp] theorem setCell_ports (r c : Nat) (x : CellSt) : (setCell r c x s).ports = s.ports := rfl
@[simp] theorem setCell_cellsIn (r c : Nat) (x : CellSt) : (setCell r c x s).cellsIn = s.cellsIn := rfl
@[simp] theorem setCell_devM1 (r c : Nat) (x : CellSt) : (setCell r c x s).devM1 = s.devM1 := rfl
@[simp] theorem setCell_walkUps (r c : Nat) (x : CellSt) : (setCell r c x s).walkUps = s.walkUps := rfl
@[simp] theorem setCell_chainTags (r c : Nat) (x : CellSt) : (setCell r c x s).chainTags = s.chainTags := rfl
@[simp] theorem setCell_nextTag (r c : Nat) (x : CellSt) : (setCell r c x s).nextTag = s.nextTag := rfl
@[simp] theorem setCell_chainFwd (r c : Nat) (x : CellSt) : (setCell r c x s).chainFwd = s.chainFwd := rfl
@[simp] theorem setCell_outside (r c : Nat) (x : CellSt) : (setCell r c x s).outside = s.outside := rfl
@[simp] theorem setCell_wakeMac (r c : Nat) (x : CellSt) : (setCell r c x s).wakeMac = s.wakeMac := rfl
@[simp] theorem setCell_chainBack (r c : Nat) (x : CellSt) : (setCell r c x s).chainBack = s.chainBack := rfl
@[simp] theorem setCell_dom (r c : Nat) (x : CellSt) : (setCell r c x s).dom = s.dom := rfl
@[simp] theorem setCell_fifo (r c : Nat) (x : CellSt) : (setCell r c x s).fifo = s.fifo := rfl
@[simp] theorem setCell_hoes (r c : Nat) (x : CellSt) : (setCell r c x s).hoes = s.hoes := rfl
@[simp] theorem setCell_chans (r c : Nat) (x : CellSt) : (setCell r c x s).chans = s.chans := rfl
@[simp] theorem setCell_jsel (r c : Nat) (x : CellSt) : (setCell r c x s).jsel = s.jsel := rfl
@[simp] theorem setCell_strms (r c : Nat) (x : CellSt) : (setCell r c x s).strms = s.strms := rfl
@[simp] theorem setCell_macs (r c : Nat) (x : CellSt) : (setCell r c x s).macs = s.macs := rfl
@[simp] theorem setCell_rails (r c : Nat) (x : CellSt) : (setCell r c x s).rails = s.rails := rfl
@[simp] theorem setCell_engines (r c : Nat) (x : CellSt) : (setCell r c x s).engines = s.engines := rfl
@[simp] theorem setCell_cgArm (r c : Nat) (x : CellSt) : (setCell r c x s).cgArm = s.cgArm := rfl
@[simp] theorem setCell_msixTab (r c : Nat) (x : CellSt) : (setCell r c x s).msixTab = s.msixTab := rfl
@[simp] theorem setCell_msixPend (r c : Nat) (x : CellSt) : (setCell r c x s).msixPend = s.msixPend := rfl
@[simp] theorem setCell_hostMac (r c : Nat) (x : CellSt) : (setCell r c x s).hostMac = s.hostMac := rfl
@[simp] theorem setCell_apllFrom (r c : Nat) (x : CellSt) : (setCell r c x s).apllFrom = s.apllFrom := rfl
@[simp] theorem setCell_refSince (r c : Nat) (x : CellSt) : (setCell r c x s).refSince = s.refSince := rfl
@[simp] theorem setCell_refLast (r c : Nat) (x : CellSt) : (setCell r c x s).refLast = s.refLast := rfl
@[simp] theorem setCell_pllRuns (r c : Nat) (x : CellSt) : (setCell r c x s).pllRuns = s.pllRuns := rfl
@[simp] theorem setCell_pllFrom (r c : Nat) (x : CellSt) : (setCell r c x s).pllFrom = s.pllFrom := rfl
@[simp] theorem setCell_pwmOn (r c : Nat) (x : CellSt) : (setCell r c x s).pwmOn = s.pwmOn := rfl
@[simp] theorem setCell_pwmClk (r c : Nat) (x : CellSt) : (setCell r c x s).pwmClk = s.pwmClk := rfl
@[simp] theorem setCell_vio (r c : Nat) (x : CellSt) : (setCell r c x s).vio = s.vio := rfl
@[simp] theorem setCell_blkFrom (r c : Nat) (x : CellSt) : (setCell r c x s).blkFrom = s.blkFrom := rfl
@[simp] theorem setCell_trims (r c : Nat) (x : CellSt) : (setCell r c x s).trims = s.trims := rfl
@[simp] theorem setCell_hq (r c : Nat) (x : CellSt) : (setCell r c x s).hq = s.hq := rfl
@[simp] theorem setCell_hqLast (r c : Nat) (x : CellSt) : (setCell r c x s).hqLast = s.hqLast := rfl
@[simp] theorem setCell_hqEnHeld (r c : Nat) (x : CellSt) : (setCell r c x s).hqEnHeld = s.hqEnHeld := rfl
@[simp] theorem setCell_adminLast (r c : Nat) (x : CellSt) : (setCell r c x s).adminLast = s.adminLast := rfl
@[simp] theorem setCell_barHeld (r c : Nat) (x : CellSt) : (setCell r c x s).barHeld = s.barHeld := rfl
@[simp] theorem setCell_barHi (r c : Nat) (x : CellSt) : (setCell r c x s).barHi = s.barHi := rfl
@[simp] theorem setCell_boot (r c : Nat) (x : CellSt) : (setCell r c x s).boot = s.boot := rfl
@[simp] theorem setCell_otp (r c : Nat) (x : CellSt) : (setCell r c x s).otp = s.otp := rfl
@[simp] theorem setCell_otpOp (r c : Nat) (x : CellSt) : (setCell r c x s).otpOp = s.otpOp := rfl
@[simp] theorem setCell_keys (r c : Nat) (x : CellSt) : (setCell r c x s).keys = s.keys := rfl
@[simp] theorem setCell_pwr (r c : Nat) (x : CellSt) : (setCell r c x s).pwr = s.pwr := rfl
@[simp] theorem setCell_tap (r c : Nat) (x : CellSt) : (setCell r c x s).tap = s.tap := rfl
@[simp] theorem setCell_line (r c : Nat) (x : CellSt) : (setCell r c x s).line = s.line := rfl
@[simp] theorem setCell_snap (r c : Nat) (x : CellSt) : (setCell r c x s).snap = s.snap := rfl
@[simp] theorem setCell_dlcal (r c : Nat) (x : CellSt) : (setCell r c x s).dlcal = s.dlcal := rfl
@[simp] theorem setCell_ckpts (r c : Nat) (x : CellSt) : (setCell r c x s).ckpts = s.ckpts := rfl
@[simp] theorem setCell_reinst (r c : Nat) (x : CellSt) : (setCell r c x s).reinst = s.reinst := rfl
@[simp] theorem setCell_reinstQ (r c : Nat) (x : CellSt) : (setCell r c x s).reinstQ = s.reinstQ := rfl
@[simp] theorem setCell_leaseHeld (r c : Nat) (x : CellSt) : (setCell r c x s).leaseHeld = s.leaseHeld := rfl
@[simp] theorem setCell_memCtl (r c : Nat) (x : CellSt) : (setCell r c x s).memCtl = s.memCtl := rfl
@[simp] theorem setCell_released (r c : Nat) (x : CellSt) : (setCell r c x s).released = s.released := rfl
@[simp] theorem setCell_releasedAt (r c : Nat) (x : CellSt) : (setCell r c x s).releasedAt = s.releasedAt := rfl
@[simp] theorem setCell_vcoreLow (r c : Nat) (x : CellSt) : (setCell r c x s).vcoreLow = s.vcoreLow := rfl
@[simp] theorem setCell_vcoreAt (r c : Nat) (x : CellSt) : (setCell r c x s).vcoreAt = s.vcoreAt := rfl
@[simp] theorem setCell_dbgHeld (r c : Nat) (x : CellSt) : (setCell r c x s).dbgHeld = s.dbgHeld := rfl
@[simp] theorem setCell_hostSess (r c : Nat) (x : CellSt) : (setCell r c x s).hostSess = s.hostSess := rfl
@[simp] theorem setCell_probeSess (r c : Nat) (x : CellSt) : (setCell r c x s).probeSess = s.probeSess := rfl
@[simp] theorem setCell_readData (r c : Nat) (x : CellSt) : (setCell r c x s).readData = s.readData := rfl
@[simp] theorem setCell_out (r c : Nat) (x : CellSt) : (setCell r c x s).out = s.out := rfl
@[simp] theorem reg_setCell (r c : Nat) (x : CellSt) (i₁ i₂ : Nat) : reg (setCell r c x s) i₁ i₂ = reg s i₁ i₂ := rfl
@[simp] theorem tineAt_setCell (r c : Nat) (x : CellSt) (i₁ : Nat) : tineAt (setCell r c x s) i₁ = tineAt s i₁ := rfl
@[simp] theorem domSt_setCell (r c : Nat) (x : CellSt) (i₁ : Nat) : domSt (setCell r c x s) i₁ = domSt s i₁ := rfl
@[simp] theorem gaugeAt_setCell (r c : Nat) (x : CellSt) (i₁ : Nat) : gaugeAt (setCell r c x s) i₁ = gaugeAt s i₁ := rfl
@[simp] theorem hopAt_setCell (r c : Nat) (x : CellSt) (i₁ : Nat) : hopAt (setCell r c x s) i₁ = hopAt s i₁ := rfl
@[simp] theorem chanAt_setCell (r c : Nat) (x : CellSt) (i₁ : Nat) : chanAt (setCell r c x s) i₁ = chanAt s i₁ := rfl
@[simp] theorem hoeAt_setCell (r c : Nat) (x : CellSt) (i₁ i₂ : Nat) : hoeAt (setCell r c x s) i₁ i₂ = hoeAt s i₁ i₂ := rfl
@[simp] theorem fifoAt_setCell (r c : Nat) (x : CellSt) (i₁ : Nat) : fifoAt (setCell r c x s) i₁ = fifoAt s i₁ := rfl
@[simp] theorem memGet_setCell (r c : Nat) (x : CellSt) (i₁ : Nat) : memGet (setCell r c x s) i₁ = memGet s i₁ := rfl
@[simp] theorem portAt_setCell (r c : Nat) (x : CellSt) (i₁ : Nat) : portAt (setCell r c x s) i₁ = portAt s i₁ := rfl
@[simp] theorem strmAt_setCell (r c : Nat) (x : CellSt) (i₁ : Nat) : strmAt (setCell r c x s) i₁ = strmAt s i₁ := rfl
@[simp] theorem macAt_setCell (r c : Nat) (x : CellSt) (i₁ : Nat) : macAt (setCell r c x s) i₁ = macAt s i₁ := rfl
@[simp] theorem railAt_setCell (r c : Nat) (x : CellSt) (i₁ : Nat) : railAt (setCell r c x s) i₁ = railAt s i₁ := rfl
@[simp] theorem hqAt_setCell (r c : Nat) (x : CellSt) (i₁ : Nat) : hqAt (setCell r c x s) i₁ = hqAt s i₁ := rfl

/-! ## setHoe -/

@[simp] theorem setHoe_pending (r h : Nat) (x : Hoe) : (setHoe r h x s).pending = s.pending := rfl
@[simp] theorem setHoe_now (r h : Nat) (x : Hoe) : (setHoe r h x s).now = s.now := rfl
@[simp] theorem setHoe_free (r h : Nat) (x : Hoe) : (setHoe r h x s).free = s.free := rfl
@[simp] theorem setHoe_regs (r h : Nat) (x : Hoe) : (setHoe r h x s).regs = s.regs := rfl
@[simp] theorem setHoe_mem (r h : Nat) (x : Hoe) : (setHoe r h x s).mem = s.mem := rfl
@[simp] theorem setHoe_ue (r h : Nat) (x : Hoe) : (setHoe r h x s).ue = s.ue := rfl
@[simp] theorem setHoe_xcache (r h : Nat) (x : Hoe) : (setHoe r h x s).xcache = s.xcache := rfl
@[simp] theorem setHoe_tines (r h : Nat) (x : Hoe) : (setHoe r h x s).tines = s.tines := rfl
@[simp] theorem setHoe_bandCap (r h : Nat) (x : Hoe) : (setHoe r h x s).bandCap = s.bandCap := rfl
@[simp] theorem setHoe_mbox (r h : Nat) (x : Hoe) : (setHoe r h x s).mbox = s.mbox := rfl
@[simp] theorem setHoe_withheld (r h : Nat) (x : Hoe) : (setHoe r h x s).withheld = s.withheld := rfl
@[simp] theorem setHoe_hops (r h : Nat) (x : Hoe) : (setHoe r h x s).hops = s.hops := rfl
@[simp] theorem setHoe_rrLast (r h : Nat) (x : Hoe) : (setHoe r h x s).rrLast = s.rrLast := rfl
@[simp] theorem setHoe_gauges (r h : Nat) (x : Hoe) : (setHoe r h x s).gauges = s.gauges := rfl
@[simp] theorem setHoe_frec (r h : Nat) (x : Hoe) : (setHoe r h x s).frec = s.frec := rfl
@[simp] theorem setHoe_lockSet (r h : Nat) (x : Hoe) : (setHoe r h x s).lockSet = s.lockSet := rfl
@[simp] theorem setHoe_retireQ (r h : Nat) (x : Hoe) : (setHoe r h x s).retireQ = s.retireQ := rfl
@[simp] theorem setHoe_ports (r h : Nat) (x : Hoe) : (setHoe r h x s).ports = s.ports := rfl
@[simp] theorem setHoe_cellsIn (r h : Nat) (x : Hoe) : (setHoe r h x s).cellsIn = s.cellsIn := rfl
@[simp] theorem setHoe_devM1 (r h : Nat) (x : Hoe) : (setHoe r h x s).devM1 = s.devM1 := rfl
@[simp] theorem setHoe_walkUps (r h : Nat) (x : Hoe) : (setHoe r h x s).walkUps = s.walkUps := rfl
@[simp] theorem setHoe_chainTags (r h : Nat) (x : Hoe) : (setHoe r h x s).chainTags = s.chainTags := rfl
@[simp] theorem setHoe_nextTag (r h : Nat) (x : Hoe) : (setHoe r h x s).nextTag = s.nextTag := rfl
@[simp] theorem setHoe_chainFwd (r h : Nat) (x : Hoe) : (setHoe r h x s).chainFwd = s.chainFwd := rfl
@[simp] theorem setHoe_outside (r h : Nat) (x : Hoe) : (setHoe r h x s).outside = s.outside := rfl
@[simp] theorem setHoe_wakeMac (r h : Nat) (x : Hoe) : (setHoe r h x s).wakeMac = s.wakeMac := rfl
@[simp] theorem setHoe_chainBack (r h : Nat) (x : Hoe) : (setHoe r h x s).chainBack = s.chainBack := rfl
@[simp] theorem setHoe_dom (r h : Nat) (x : Hoe) : (setHoe r h x s).dom = s.dom := rfl
@[simp] theorem setHoe_fifo (r h : Nat) (x : Hoe) : (setHoe r h x s).fifo = s.fifo := rfl
@[simp] theorem setHoe_cells (r h : Nat) (x : Hoe) : (setHoe r h x s).cells = s.cells := rfl
@[simp] theorem setHoe_chans (r h : Nat) (x : Hoe) : (setHoe r h x s).chans = s.chans := rfl
@[simp] theorem setHoe_jsel (r h : Nat) (x : Hoe) : (setHoe r h x s).jsel = s.jsel := rfl
@[simp] theorem setHoe_strms (r h : Nat) (x : Hoe) : (setHoe r h x s).strms = s.strms := rfl
@[simp] theorem setHoe_macs (r h : Nat) (x : Hoe) : (setHoe r h x s).macs = s.macs := rfl
@[simp] theorem setHoe_rails (r h : Nat) (x : Hoe) : (setHoe r h x s).rails = s.rails := rfl
@[simp] theorem setHoe_engines (r h : Nat) (x : Hoe) : (setHoe r h x s).engines = s.engines := rfl
@[simp] theorem setHoe_cgArm (r h : Nat) (x : Hoe) : (setHoe r h x s).cgArm = s.cgArm := rfl
@[simp] theorem setHoe_msixTab (r h : Nat) (x : Hoe) : (setHoe r h x s).msixTab = s.msixTab := rfl
@[simp] theorem setHoe_msixPend (r h : Nat) (x : Hoe) : (setHoe r h x s).msixPend = s.msixPend := rfl
@[simp] theorem setHoe_hostMac (r h : Nat) (x : Hoe) : (setHoe r h x s).hostMac = s.hostMac := rfl
@[simp] theorem setHoe_apllFrom (r h : Nat) (x : Hoe) : (setHoe r h x s).apllFrom = s.apllFrom := rfl
@[simp] theorem setHoe_refSince (r h : Nat) (x : Hoe) : (setHoe r h x s).refSince = s.refSince := rfl
@[simp] theorem setHoe_refLast (r h : Nat) (x : Hoe) : (setHoe r h x s).refLast = s.refLast := rfl
@[simp] theorem setHoe_pllRuns (r h : Nat) (x : Hoe) : (setHoe r h x s).pllRuns = s.pllRuns := rfl
@[simp] theorem setHoe_pllFrom (r h : Nat) (x : Hoe) : (setHoe r h x s).pllFrom = s.pllFrom := rfl
@[simp] theorem setHoe_pwmOn (r h : Nat) (x : Hoe) : (setHoe r h x s).pwmOn = s.pwmOn := rfl
@[simp] theorem setHoe_pwmClk (r h : Nat) (x : Hoe) : (setHoe r h x s).pwmClk = s.pwmClk := rfl
@[simp] theorem setHoe_vio (r h : Nat) (x : Hoe) : (setHoe r h x s).vio = s.vio := rfl
@[simp] theorem setHoe_blkFrom (r h : Nat) (x : Hoe) : (setHoe r h x s).blkFrom = s.blkFrom := rfl
@[simp] theorem setHoe_trims (r h : Nat) (x : Hoe) : (setHoe r h x s).trims = s.trims := rfl
@[simp] theorem setHoe_hq (r h : Nat) (x : Hoe) : (setHoe r h x s).hq = s.hq := rfl
@[simp] theorem setHoe_hqLast (r h : Nat) (x : Hoe) : (setHoe r h x s).hqLast = s.hqLast := rfl
@[simp] theorem setHoe_hqEnHeld (r h : Nat) (x : Hoe) : (setHoe r h x s).hqEnHeld = s.hqEnHeld := rfl
@[simp] theorem setHoe_adminLast (r h : Nat) (x : Hoe) : (setHoe r h x s).adminLast = s.adminLast := rfl
@[simp] theorem setHoe_barHeld (r h : Nat) (x : Hoe) : (setHoe r h x s).barHeld = s.barHeld := rfl
@[simp] theorem setHoe_barHi (r h : Nat) (x : Hoe) : (setHoe r h x s).barHi = s.barHi := rfl
@[simp] theorem setHoe_boot (r h : Nat) (x : Hoe) : (setHoe r h x s).boot = s.boot := rfl
@[simp] theorem setHoe_otp (r h : Nat) (x : Hoe) : (setHoe r h x s).otp = s.otp := rfl
@[simp] theorem setHoe_otpOp (r h : Nat) (x : Hoe) : (setHoe r h x s).otpOp = s.otpOp := rfl
@[simp] theorem setHoe_keys (r h : Nat) (x : Hoe) : (setHoe r h x s).keys = s.keys := rfl
@[simp] theorem setHoe_pwr (r h : Nat) (x : Hoe) : (setHoe r h x s).pwr = s.pwr := rfl
@[simp] theorem setHoe_tap (r h : Nat) (x : Hoe) : (setHoe r h x s).tap = s.tap := rfl
@[simp] theorem setHoe_line (r h : Nat) (x : Hoe) : (setHoe r h x s).line = s.line := rfl
@[simp] theorem setHoe_snap (r h : Nat) (x : Hoe) : (setHoe r h x s).snap = s.snap := rfl
@[simp] theorem setHoe_dlcal (r h : Nat) (x : Hoe) : (setHoe r h x s).dlcal = s.dlcal := rfl
@[simp] theorem setHoe_ckpts (r h : Nat) (x : Hoe) : (setHoe r h x s).ckpts = s.ckpts := rfl
@[simp] theorem setHoe_reinst (r h : Nat) (x : Hoe) : (setHoe r h x s).reinst = s.reinst := rfl
@[simp] theorem setHoe_reinstQ (r h : Nat) (x : Hoe) : (setHoe r h x s).reinstQ = s.reinstQ := rfl
@[simp] theorem setHoe_leaseHeld (r h : Nat) (x : Hoe) : (setHoe r h x s).leaseHeld = s.leaseHeld := rfl
@[simp] theorem setHoe_memCtl (r h : Nat) (x : Hoe) : (setHoe r h x s).memCtl = s.memCtl := rfl
@[simp] theorem setHoe_released (r h : Nat) (x : Hoe) : (setHoe r h x s).released = s.released := rfl
@[simp] theorem setHoe_releasedAt (r h : Nat) (x : Hoe) : (setHoe r h x s).releasedAt = s.releasedAt := rfl
@[simp] theorem setHoe_vcoreLow (r h : Nat) (x : Hoe) : (setHoe r h x s).vcoreLow = s.vcoreLow := rfl
@[simp] theorem setHoe_vcoreAt (r h : Nat) (x : Hoe) : (setHoe r h x s).vcoreAt = s.vcoreAt := rfl
@[simp] theorem setHoe_dbgHeld (r h : Nat) (x : Hoe) : (setHoe r h x s).dbgHeld = s.dbgHeld := rfl
@[simp] theorem setHoe_hostSess (r h : Nat) (x : Hoe) : (setHoe r h x s).hostSess = s.hostSess := rfl
@[simp] theorem setHoe_probeSess (r h : Nat) (x : Hoe) : (setHoe r h x s).probeSess = s.probeSess := rfl
@[simp] theorem setHoe_readData (r h : Nat) (x : Hoe) : (setHoe r h x s).readData = s.readData := rfl
@[simp] theorem setHoe_out (r h : Nat) (x : Hoe) : (setHoe r h x s).out = s.out := rfl
@[simp] theorem reg_setHoe (r h : Nat) (x : Hoe) (i₁ i₂ : Nat) : reg (setHoe r h x s) i₁ i₂ = reg s i₁ i₂ := rfl
@[simp] theorem tineAt_setHoe (r h : Nat) (x : Hoe) (i₁ : Nat) : tineAt (setHoe r h x s) i₁ = tineAt s i₁ := rfl
@[simp] theorem domSt_setHoe (r h : Nat) (x : Hoe) (i₁ : Nat) : domSt (setHoe r h x s) i₁ = domSt s i₁ := rfl
@[simp] theorem gaugeAt_setHoe (r h : Nat) (x : Hoe) (i₁ : Nat) : gaugeAt (setHoe r h x s) i₁ = gaugeAt s i₁ := rfl
@[simp] theorem hopAt_setHoe (r h : Nat) (x : Hoe) (i₁ : Nat) : hopAt (setHoe r h x s) i₁ = hopAt s i₁ := rfl
@[simp] theorem chanAt_setHoe (r h : Nat) (x : Hoe) (i₁ : Nat) : chanAt (setHoe r h x s) i₁ = chanAt s i₁ := rfl
@[simp] theorem cellAt_setHoe (r h : Nat) (x : Hoe) (i₁ i₂ : Nat) : cellAt (setHoe r h x s) i₁ i₂ = cellAt s i₁ i₂ := rfl
@[simp] theorem fifoAt_setHoe (r h : Nat) (x : Hoe) (i₁ : Nat) : fifoAt (setHoe r h x s) i₁ = fifoAt s i₁ := rfl
@[simp] theorem memGet_setHoe (r h : Nat) (x : Hoe) (i₁ : Nat) : memGet (setHoe r h x s) i₁ = memGet s i₁ := rfl
@[simp] theorem portAt_setHoe (r h : Nat) (x : Hoe) (i₁ : Nat) : portAt (setHoe r h x s) i₁ = portAt s i₁ := rfl
@[simp] theorem strmAt_setHoe (r h : Nat) (x : Hoe) (i₁ : Nat) : strmAt (setHoe r h x s) i₁ = strmAt s i₁ := rfl
@[simp] theorem macAt_setHoe (r h : Nat) (x : Hoe) (i₁ : Nat) : macAt (setHoe r h x s) i₁ = macAt s i₁ := rfl
@[simp] theorem railAt_setHoe (r h : Nat) (x : Hoe) (i₁ : Nat) : railAt (setHoe r h x s) i₁ = railAt s i₁ := rfl
@[simp] theorem hqAt_setHoe (r h : Nat) (x : Hoe) (i₁ : Nat) : hqAt (setHoe r h x s) i₁ = hqAt s i₁ := rfl

/-! ## setFifo -/

@[simp] theorem setFifo_pending (k : Nat) (l : List Word) : (setFifo k l s).pending = s.pending := rfl
@[simp] theorem setFifo_now (k : Nat) (l : List Word) : (setFifo k l s).now = s.now := rfl
@[simp] theorem setFifo_free (k : Nat) (l : List Word) : (setFifo k l s).free = s.free := rfl
@[simp] theorem setFifo_regs (k : Nat) (l : List Word) : (setFifo k l s).regs = s.regs := rfl
@[simp] theorem setFifo_mem (k : Nat) (l : List Word) : (setFifo k l s).mem = s.mem := rfl
@[simp] theorem setFifo_ue (k : Nat) (l : List Word) : (setFifo k l s).ue = s.ue := rfl
@[simp] theorem setFifo_xcache (k : Nat) (l : List Word) : (setFifo k l s).xcache = s.xcache := rfl
@[simp] theorem setFifo_tines (k : Nat) (l : List Word) : (setFifo k l s).tines = s.tines := rfl
@[simp] theorem setFifo_bandCap (k : Nat) (l : List Word) : (setFifo k l s).bandCap = s.bandCap := rfl
@[simp] theorem setFifo_mbox (k : Nat) (l : List Word) : (setFifo k l s).mbox = s.mbox := rfl
@[simp] theorem setFifo_withheld (k : Nat) (l : List Word) : (setFifo k l s).withheld = s.withheld := rfl
@[simp] theorem setFifo_hops (k : Nat) (l : List Word) : (setFifo k l s).hops = s.hops := rfl
@[simp] theorem setFifo_rrLast (k : Nat) (l : List Word) : (setFifo k l s).rrLast = s.rrLast := rfl
@[simp] theorem setFifo_gauges (k : Nat) (l : List Word) : (setFifo k l s).gauges = s.gauges := rfl
@[simp] theorem setFifo_frec (k : Nat) (l : List Word) : (setFifo k l s).frec = s.frec := rfl
@[simp] theorem setFifo_lockSet (k : Nat) (l : List Word) : (setFifo k l s).lockSet = s.lockSet := rfl
@[simp] theorem setFifo_retireQ (k : Nat) (l : List Word) : (setFifo k l s).retireQ = s.retireQ := rfl
@[simp] theorem setFifo_ports (k : Nat) (l : List Word) : (setFifo k l s).ports = s.ports := rfl
@[simp] theorem setFifo_cellsIn (k : Nat) (l : List Word) : (setFifo k l s).cellsIn = s.cellsIn := rfl
@[simp] theorem setFifo_devM1 (k : Nat) (l : List Word) : (setFifo k l s).devM1 = s.devM1 := rfl
@[simp] theorem setFifo_walkUps (k : Nat) (l : List Word) : (setFifo k l s).walkUps = s.walkUps := rfl
@[simp] theorem setFifo_chainTags (k : Nat) (l : List Word) : (setFifo k l s).chainTags = s.chainTags := rfl
@[simp] theorem setFifo_nextTag (k : Nat) (l : List Word) : (setFifo k l s).nextTag = s.nextTag := rfl
@[simp] theorem setFifo_chainFwd (k : Nat) (l : List Word) : (setFifo k l s).chainFwd = s.chainFwd := rfl
@[simp] theorem setFifo_outside (k : Nat) (l : List Word) : (setFifo k l s).outside = s.outside := rfl
@[simp] theorem setFifo_wakeMac (k : Nat) (l : List Word) : (setFifo k l s).wakeMac = s.wakeMac := rfl
@[simp] theorem setFifo_chainBack (k : Nat) (l : List Word) : (setFifo k l s).chainBack = s.chainBack := rfl
@[simp] theorem setFifo_dom (k : Nat) (l : List Word) : (setFifo k l s).dom = s.dom := rfl
@[simp] theorem setFifo_cells (k : Nat) (l : List Word) : (setFifo k l s).cells = s.cells := rfl
@[simp] theorem setFifo_hoes (k : Nat) (l : List Word) : (setFifo k l s).hoes = s.hoes := rfl
@[simp] theorem setFifo_chans (k : Nat) (l : List Word) : (setFifo k l s).chans = s.chans := rfl
@[simp] theorem setFifo_jsel (k : Nat) (l : List Word) : (setFifo k l s).jsel = s.jsel := rfl
@[simp] theorem setFifo_strms (k : Nat) (l : List Word) : (setFifo k l s).strms = s.strms := rfl
@[simp] theorem setFifo_macs (k : Nat) (l : List Word) : (setFifo k l s).macs = s.macs := rfl
@[simp] theorem setFifo_rails (k : Nat) (l : List Word) : (setFifo k l s).rails = s.rails := rfl
@[simp] theorem setFifo_engines (k : Nat) (l : List Word) : (setFifo k l s).engines = s.engines := rfl
@[simp] theorem setFifo_cgArm (k : Nat) (l : List Word) : (setFifo k l s).cgArm = s.cgArm := rfl
@[simp] theorem setFifo_msixTab (k : Nat) (l : List Word) : (setFifo k l s).msixTab = s.msixTab := rfl
@[simp] theorem setFifo_msixPend (k : Nat) (l : List Word) : (setFifo k l s).msixPend = s.msixPend := rfl
@[simp] theorem setFifo_hostMac (k : Nat) (l : List Word) : (setFifo k l s).hostMac = s.hostMac := rfl
@[simp] theorem setFifo_apllFrom (k : Nat) (l : List Word) : (setFifo k l s).apllFrom = s.apllFrom := rfl
@[simp] theorem setFifo_refSince (k : Nat) (l : List Word) : (setFifo k l s).refSince = s.refSince := rfl
@[simp] theorem setFifo_refLast (k : Nat) (l : List Word) : (setFifo k l s).refLast = s.refLast := rfl
@[simp] theorem setFifo_pllRuns (k : Nat) (l : List Word) : (setFifo k l s).pllRuns = s.pllRuns := rfl
@[simp] theorem setFifo_pllFrom (k : Nat) (l : List Word) : (setFifo k l s).pllFrom = s.pllFrom := rfl
@[simp] theorem setFifo_pwmOn (k : Nat) (l : List Word) : (setFifo k l s).pwmOn = s.pwmOn := rfl
@[simp] theorem setFifo_pwmClk (k : Nat) (l : List Word) : (setFifo k l s).pwmClk = s.pwmClk := rfl
@[simp] theorem setFifo_vio (k : Nat) (l : List Word) : (setFifo k l s).vio = s.vio := rfl
@[simp] theorem setFifo_blkFrom (k : Nat) (l : List Word) : (setFifo k l s).blkFrom = s.blkFrom := rfl
@[simp] theorem setFifo_trims (k : Nat) (l : List Word) : (setFifo k l s).trims = s.trims := rfl
@[simp] theorem setFifo_hq (k : Nat) (l : List Word) : (setFifo k l s).hq = s.hq := rfl
@[simp] theorem setFifo_hqLast (k : Nat) (l : List Word) : (setFifo k l s).hqLast = s.hqLast := rfl
@[simp] theorem setFifo_hqEnHeld (k : Nat) (l : List Word) : (setFifo k l s).hqEnHeld = s.hqEnHeld := rfl
@[simp] theorem setFifo_adminLast (k : Nat) (l : List Word) : (setFifo k l s).adminLast = s.adminLast := rfl
@[simp] theorem setFifo_barHeld (k : Nat) (l : List Word) : (setFifo k l s).barHeld = s.barHeld := rfl
@[simp] theorem setFifo_barHi (k : Nat) (l : List Word) : (setFifo k l s).barHi = s.barHi := rfl
@[simp] theorem setFifo_boot (k : Nat) (l : List Word) : (setFifo k l s).boot = s.boot := rfl
@[simp] theorem setFifo_otp (k : Nat) (l : List Word) : (setFifo k l s).otp = s.otp := rfl
@[simp] theorem setFifo_otpOp (k : Nat) (l : List Word) : (setFifo k l s).otpOp = s.otpOp := rfl
@[simp] theorem setFifo_keys (k : Nat) (l : List Word) : (setFifo k l s).keys = s.keys := rfl
@[simp] theorem setFifo_pwr (k : Nat) (l : List Word) : (setFifo k l s).pwr = s.pwr := rfl
@[simp] theorem setFifo_tap (k : Nat) (l : List Word) : (setFifo k l s).tap = s.tap := rfl
@[simp] theorem setFifo_line (k : Nat) (l : List Word) : (setFifo k l s).line = s.line := rfl
@[simp] theorem setFifo_snap (k : Nat) (l : List Word) : (setFifo k l s).snap = s.snap := rfl
@[simp] theorem setFifo_dlcal (k : Nat) (l : List Word) : (setFifo k l s).dlcal = s.dlcal := rfl
@[simp] theorem setFifo_ckpts (k : Nat) (l : List Word) : (setFifo k l s).ckpts = s.ckpts := rfl
@[simp] theorem setFifo_reinst (k : Nat) (l : List Word) : (setFifo k l s).reinst = s.reinst := rfl
@[simp] theorem setFifo_reinstQ (k : Nat) (l : List Word) : (setFifo k l s).reinstQ = s.reinstQ := rfl
@[simp] theorem setFifo_leaseHeld (k : Nat) (l : List Word) : (setFifo k l s).leaseHeld = s.leaseHeld := rfl
@[simp] theorem setFifo_memCtl (k : Nat) (l : List Word) : (setFifo k l s).memCtl = s.memCtl := rfl
@[simp] theorem setFifo_released (k : Nat) (l : List Word) : (setFifo k l s).released = s.released := rfl
@[simp] theorem setFifo_releasedAt (k : Nat) (l : List Word) : (setFifo k l s).releasedAt = s.releasedAt := rfl
@[simp] theorem setFifo_vcoreLow (k : Nat) (l : List Word) : (setFifo k l s).vcoreLow = s.vcoreLow := rfl
@[simp] theorem setFifo_vcoreAt (k : Nat) (l : List Word) : (setFifo k l s).vcoreAt = s.vcoreAt := rfl
@[simp] theorem setFifo_dbgHeld (k : Nat) (l : List Word) : (setFifo k l s).dbgHeld = s.dbgHeld := rfl
@[simp] theorem setFifo_hostSess (k : Nat) (l : List Word) : (setFifo k l s).hostSess = s.hostSess := rfl
@[simp] theorem setFifo_probeSess (k : Nat) (l : List Word) : (setFifo k l s).probeSess = s.probeSess := rfl
@[simp] theorem setFifo_readData (k : Nat) (l : List Word) : (setFifo k l s).readData = s.readData := rfl
@[simp] theorem setFifo_out (k : Nat) (l : List Word) : (setFifo k l s).out = s.out := rfl
@[simp] theorem reg_setFifo (k : Nat) (l : List Word) (i₁ i₂ : Nat) : reg (setFifo k l s) i₁ i₂ = reg s i₁ i₂ := rfl
@[simp] theorem tineAt_setFifo (k : Nat) (l : List Word) (i₁ : Nat) : tineAt (setFifo k l s) i₁ = tineAt s i₁ := rfl
@[simp] theorem domSt_setFifo (k : Nat) (l : List Word) (i₁ : Nat) : domSt (setFifo k l s) i₁ = domSt s i₁ := rfl
@[simp] theorem gaugeAt_setFifo (k : Nat) (l : List Word) (i₁ : Nat) : gaugeAt (setFifo k l s) i₁ = gaugeAt s i₁ := rfl
@[simp] theorem hopAt_setFifo (k : Nat) (l : List Word) (i₁ : Nat) : hopAt (setFifo k l s) i₁ = hopAt s i₁ := rfl
@[simp] theorem chanAt_setFifo (k : Nat) (l : List Word) (i₁ : Nat) : chanAt (setFifo k l s) i₁ = chanAt s i₁ := rfl
@[simp] theorem cellAt_setFifo (k : Nat) (l : List Word) (i₁ i₂ : Nat) : cellAt (setFifo k l s) i₁ i₂ = cellAt s i₁ i₂ := rfl
@[simp] theorem hoeAt_setFifo (k : Nat) (l : List Word) (i₁ i₂ : Nat) : hoeAt (setFifo k l s) i₁ i₂ = hoeAt s i₁ i₂ := rfl
@[simp] theorem memGet_setFifo (k : Nat) (l : List Word) (i₁ : Nat) : memGet (setFifo k l s) i₁ = memGet s i₁ := rfl
@[simp] theorem portAt_setFifo (k : Nat) (l : List Word) (i₁ : Nat) : portAt (setFifo k l s) i₁ = portAt s i₁ := rfl
@[simp] theorem strmAt_setFifo (k : Nat) (l : List Word) (i₁ : Nat) : strmAt (setFifo k l s) i₁ = strmAt s i₁ := rfl
@[simp] theorem macAt_setFifo (k : Nat) (l : List Word) (i₁ : Nat) : macAt (setFifo k l s) i₁ = macAt s i₁ := rfl
@[simp] theorem railAt_setFifo (k : Nat) (l : List Word) (i₁ : Nat) : railAt (setFifo k l s) i₁ = railAt s i₁ := rfl
@[simp] theorem hqAt_setFifo (k : Nat) (l : List Word) (i₁ : Nat) : hqAt (setFifo k l s) i₁ = hqAt s i₁ := rfl

/-! ## setPort -/

@[simp] theorem setPort_pending (p : Nat) (x : Port) : (setPort p x s).pending = s.pending := rfl
@[simp] theorem setPort_now (p : Nat) (x : Port) : (setPort p x s).now = s.now := rfl
@[simp] theorem setPort_free (p : Nat) (x : Port) : (setPort p x s).free = s.free := rfl
@[simp] theorem setPort_regs (p : Nat) (x : Port) : (setPort p x s).regs = s.regs := rfl
@[simp] theorem setPort_mem (p : Nat) (x : Port) : (setPort p x s).mem = s.mem := rfl
@[simp] theorem setPort_ue (p : Nat) (x : Port) : (setPort p x s).ue = s.ue := rfl
@[simp] theorem setPort_xcache (p : Nat) (x : Port) : (setPort p x s).xcache = s.xcache := rfl
@[simp] theorem setPort_tines (p : Nat) (x : Port) : (setPort p x s).tines = s.tines := rfl
@[simp] theorem setPort_bandCap (p : Nat) (x : Port) : (setPort p x s).bandCap = s.bandCap := rfl
@[simp] theorem setPort_mbox (p : Nat) (x : Port) : (setPort p x s).mbox = s.mbox := rfl
@[simp] theorem setPort_withheld (p : Nat) (x : Port) : (setPort p x s).withheld = s.withheld := rfl
@[simp] theorem setPort_hops (p : Nat) (x : Port) : (setPort p x s).hops = s.hops := rfl
@[simp] theorem setPort_rrLast (p : Nat) (x : Port) : (setPort p x s).rrLast = s.rrLast := rfl
@[simp] theorem setPort_gauges (p : Nat) (x : Port) : (setPort p x s).gauges = s.gauges := rfl
@[simp] theorem setPort_frec (p : Nat) (x : Port) : (setPort p x s).frec = s.frec := rfl
@[simp] theorem setPort_lockSet (p : Nat) (x : Port) : (setPort p x s).lockSet = s.lockSet := rfl
@[simp] theorem setPort_retireQ (p : Nat) (x : Port) : (setPort p x s).retireQ = s.retireQ := rfl
@[simp] theorem setPort_cellsIn (p : Nat) (x : Port) : (setPort p x s).cellsIn = s.cellsIn := rfl
@[simp] theorem setPort_devM1 (p : Nat) (x : Port) : (setPort p x s).devM1 = s.devM1 := rfl
@[simp] theorem setPort_walkUps (p : Nat) (x : Port) : (setPort p x s).walkUps = s.walkUps := rfl
@[simp] theorem setPort_chainTags (p : Nat) (x : Port) : (setPort p x s).chainTags = s.chainTags := rfl
@[simp] theorem setPort_nextTag (p : Nat) (x : Port) : (setPort p x s).nextTag = s.nextTag := rfl
@[simp] theorem setPort_chainFwd (p : Nat) (x : Port) : (setPort p x s).chainFwd = s.chainFwd := rfl
@[simp] theorem setPort_outside (p : Nat) (x : Port) : (setPort p x s).outside = s.outside := rfl
@[simp] theorem setPort_wakeMac (p : Nat) (x : Port) : (setPort p x s).wakeMac = s.wakeMac := rfl
@[simp] theorem setPort_chainBack (p : Nat) (x : Port) : (setPort p x s).chainBack = s.chainBack := rfl
@[simp] theorem setPort_dom (p : Nat) (x : Port) : (setPort p x s).dom = s.dom := rfl
@[simp] theorem setPort_fifo (p : Nat) (x : Port) : (setPort p x s).fifo = s.fifo := rfl
@[simp] theorem setPort_cells (p : Nat) (x : Port) : (setPort p x s).cells = s.cells := rfl
@[simp] theorem setPort_hoes (p : Nat) (x : Port) : (setPort p x s).hoes = s.hoes := rfl
@[simp] theorem setPort_chans (p : Nat) (x : Port) : (setPort p x s).chans = s.chans := rfl
@[simp] theorem setPort_jsel (p : Nat) (x : Port) : (setPort p x s).jsel = s.jsel := rfl
@[simp] theorem setPort_strms (p : Nat) (x : Port) : (setPort p x s).strms = s.strms := rfl
@[simp] theorem setPort_macs (p : Nat) (x : Port) : (setPort p x s).macs = s.macs := rfl
@[simp] theorem setPort_rails (p : Nat) (x : Port) : (setPort p x s).rails = s.rails := rfl
@[simp] theorem setPort_engines (p : Nat) (x : Port) : (setPort p x s).engines = s.engines := rfl
@[simp] theorem setPort_cgArm (p : Nat) (x : Port) : (setPort p x s).cgArm = s.cgArm := rfl
@[simp] theorem setPort_msixTab (p : Nat) (x : Port) : (setPort p x s).msixTab = s.msixTab := rfl
@[simp] theorem setPort_msixPend (p : Nat) (x : Port) : (setPort p x s).msixPend = s.msixPend := rfl
@[simp] theorem setPort_hostMac (p : Nat) (x : Port) : (setPort p x s).hostMac = s.hostMac := rfl
@[simp] theorem setPort_apllFrom (p : Nat) (x : Port) : (setPort p x s).apllFrom = s.apllFrom := rfl
@[simp] theorem setPort_refSince (p : Nat) (x : Port) : (setPort p x s).refSince = s.refSince := rfl
@[simp] theorem setPort_refLast (p : Nat) (x : Port) : (setPort p x s).refLast = s.refLast := rfl
@[simp] theorem setPort_pllRuns (p : Nat) (x : Port) : (setPort p x s).pllRuns = s.pllRuns := rfl
@[simp] theorem setPort_pllFrom (p : Nat) (x : Port) : (setPort p x s).pllFrom = s.pllFrom := rfl
@[simp] theorem setPort_pwmOn (p : Nat) (x : Port) : (setPort p x s).pwmOn = s.pwmOn := rfl
@[simp] theorem setPort_pwmClk (p : Nat) (x : Port) : (setPort p x s).pwmClk = s.pwmClk := rfl
@[simp] theorem setPort_vio (p : Nat) (x : Port) : (setPort p x s).vio = s.vio := rfl
@[simp] theorem setPort_blkFrom (p : Nat) (x : Port) : (setPort p x s).blkFrom = s.blkFrom := rfl
@[simp] theorem setPort_trims (p : Nat) (x : Port) : (setPort p x s).trims = s.trims := rfl
@[simp] theorem setPort_hq (p : Nat) (x : Port) : (setPort p x s).hq = s.hq := rfl
@[simp] theorem setPort_hqLast (p : Nat) (x : Port) : (setPort p x s).hqLast = s.hqLast := rfl
@[simp] theorem setPort_hqEnHeld (p : Nat) (x : Port) : (setPort p x s).hqEnHeld = s.hqEnHeld := rfl
@[simp] theorem setPort_adminLast (p : Nat) (x : Port) : (setPort p x s).adminLast = s.adminLast := rfl
@[simp] theorem setPort_barHeld (p : Nat) (x : Port) : (setPort p x s).barHeld = s.barHeld := rfl
@[simp] theorem setPort_barHi (p : Nat) (x : Port) : (setPort p x s).barHi = s.barHi := rfl
@[simp] theorem setPort_boot (p : Nat) (x : Port) : (setPort p x s).boot = s.boot := rfl
@[simp] theorem setPort_otp (p : Nat) (x : Port) : (setPort p x s).otp = s.otp := rfl
@[simp] theorem setPort_otpOp (p : Nat) (x : Port) : (setPort p x s).otpOp = s.otpOp := rfl
@[simp] theorem setPort_keys (p : Nat) (x : Port) : (setPort p x s).keys = s.keys := rfl
@[simp] theorem setPort_pwr (p : Nat) (x : Port) : (setPort p x s).pwr = s.pwr := rfl
@[simp] theorem setPort_tap (p : Nat) (x : Port) : (setPort p x s).tap = s.tap := rfl
@[simp] theorem setPort_line (p : Nat) (x : Port) : (setPort p x s).line = s.line := rfl
@[simp] theorem setPort_snap (p : Nat) (x : Port) : (setPort p x s).snap = s.snap := rfl
@[simp] theorem setPort_dlcal (p : Nat) (x : Port) : (setPort p x s).dlcal = s.dlcal := rfl
@[simp] theorem setPort_ckpts (p : Nat) (x : Port) : (setPort p x s).ckpts = s.ckpts := rfl
@[simp] theorem setPort_reinst (p : Nat) (x : Port) : (setPort p x s).reinst = s.reinst := rfl
@[simp] theorem setPort_reinstQ (p : Nat) (x : Port) : (setPort p x s).reinstQ = s.reinstQ := rfl
@[simp] theorem setPort_leaseHeld (p : Nat) (x : Port) : (setPort p x s).leaseHeld = s.leaseHeld := rfl
@[simp] theorem setPort_memCtl (p : Nat) (x : Port) : (setPort p x s).memCtl = s.memCtl := rfl
@[simp] theorem setPort_released (p : Nat) (x : Port) : (setPort p x s).released = s.released := rfl
@[simp] theorem setPort_releasedAt (p : Nat) (x : Port) : (setPort p x s).releasedAt = s.releasedAt := rfl
@[simp] theorem setPort_vcoreLow (p : Nat) (x : Port) : (setPort p x s).vcoreLow = s.vcoreLow := rfl
@[simp] theorem setPort_vcoreAt (p : Nat) (x : Port) : (setPort p x s).vcoreAt = s.vcoreAt := rfl
@[simp] theorem setPort_dbgHeld (p : Nat) (x : Port) : (setPort p x s).dbgHeld = s.dbgHeld := rfl
@[simp] theorem setPort_hostSess (p : Nat) (x : Port) : (setPort p x s).hostSess = s.hostSess := rfl
@[simp] theorem setPort_probeSess (p : Nat) (x : Port) : (setPort p x s).probeSess = s.probeSess := rfl
@[simp] theorem setPort_readData (p : Nat) (x : Port) : (setPort p x s).readData = s.readData := rfl
@[simp] theorem setPort_out (p : Nat) (x : Port) : (setPort p x s).out = s.out := rfl
@[simp] theorem reg_setPort (p : Nat) (x : Port) (i₁ i₂ : Nat) : reg (setPort p x s) i₁ i₂ = reg s i₁ i₂ := rfl
@[simp] theorem tineAt_setPort (p : Nat) (x : Port) (i₁ : Nat) : tineAt (setPort p x s) i₁ = tineAt s i₁ := rfl
@[simp] theorem domSt_setPort (p : Nat) (x : Port) (i₁ : Nat) : domSt (setPort p x s) i₁ = domSt s i₁ := rfl
@[simp] theorem gaugeAt_setPort (p : Nat) (x : Port) (i₁ : Nat) : gaugeAt (setPort p x s) i₁ = gaugeAt s i₁ := rfl
@[simp] theorem hopAt_setPort (p : Nat) (x : Port) (i₁ : Nat) : hopAt (setPort p x s) i₁ = hopAt s i₁ := rfl
@[simp] theorem chanAt_setPort (p : Nat) (x : Port) (i₁ : Nat) : chanAt (setPort p x s) i₁ = chanAt s i₁ := rfl
@[simp] theorem cellAt_setPort (p : Nat) (x : Port) (i₁ i₂ : Nat) : cellAt (setPort p x s) i₁ i₂ = cellAt s i₁ i₂ := rfl
@[simp] theorem hoeAt_setPort (p : Nat) (x : Port) (i₁ i₂ : Nat) : hoeAt (setPort p x s) i₁ i₂ = hoeAt s i₁ i₂ := rfl
@[simp] theorem fifoAt_setPort (p : Nat) (x : Port) (i₁ : Nat) : fifoAt (setPort p x s) i₁ = fifoAt s i₁ := rfl
@[simp] theorem memGet_setPort (p : Nat) (x : Port) (i₁ : Nat) : memGet (setPort p x s) i₁ = memGet s i₁ := rfl
@[simp] theorem strmAt_setPort (p : Nat) (x : Port) (i₁ : Nat) : strmAt (setPort p x s) i₁ = strmAt s i₁ := rfl
@[simp] theorem macAt_setPort (p : Nat) (x : Port) (i₁ : Nat) : macAt (setPort p x s) i₁ = macAt s i₁ := rfl
@[simp] theorem railAt_setPort (p : Nat) (x : Port) (i₁ : Nat) : railAt (setPort p x s) i₁ = railAt s i₁ := rfl
@[simp] theorem hqAt_setPort (p : Nat) (x : Port) (i₁ : Nat) : hqAt (setPort p x s) i₁ = hqAt s i₁ := rfl

/-! ## emit -/

@[simp] theorem emit_pending (o : Out) : (emit o s).pending = s.pending := rfl
@[simp] theorem emit_now (o : Out) : (emit o s).now = s.now := rfl
@[simp] theorem emit_free (o : Out) : (emit o s).free = s.free := rfl
@[simp] theorem emit_regs (o : Out) : (emit o s).regs = s.regs := rfl
@[simp] theorem emit_mem (o : Out) : (emit o s).mem = s.mem := rfl
@[simp] theorem emit_ue (o : Out) : (emit o s).ue = s.ue := rfl
@[simp] theorem emit_xcache (o : Out) : (emit o s).xcache = s.xcache := rfl
@[simp] theorem emit_tines (o : Out) : (emit o s).tines = s.tines := rfl
@[simp] theorem emit_bandCap (o : Out) : (emit o s).bandCap = s.bandCap := rfl
@[simp] theorem emit_mbox (o : Out) : (emit o s).mbox = s.mbox := rfl
@[simp] theorem emit_withheld (o : Out) : (emit o s).withheld = s.withheld := rfl
@[simp] theorem emit_hops (o : Out) : (emit o s).hops = s.hops := rfl
@[simp] theorem emit_rrLast (o : Out) : (emit o s).rrLast = s.rrLast := rfl
@[simp] theorem emit_gauges (o : Out) : (emit o s).gauges = s.gauges := rfl
@[simp] theorem emit_frec (o : Out) : (emit o s).frec = s.frec := rfl
@[simp] theorem emit_lockSet (o : Out) : (emit o s).lockSet = s.lockSet := rfl
@[simp] theorem emit_retireQ (o : Out) : (emit o s).retireQ = s.retireQ := rfl
@[simp] theorem emit_ports (o : Out) : (emit o s).ports = s.ports := rfl
@[simp] theorem emit_cellsIn (o : Out) : (emit o s).cellsIn = s.cellsIn := rfl
@[simp] theorem emit_devM1 (o : Out) : (emit o s).devM1 = s.devM1 := rfl
@[simp] theorem emit_walkUps (o : Out) : (emit o s).walkUps = s.walkUps := rfl
@[simp] theorem emit_chainTags (o : Out) : (emit o s).chainTags = s.chainTags := rfl
@[simp] theorem emit_nextTag (o : Out) : (emit o s).nextTag = s.nextTag := rfl
@[simp] theorem emit_chainFwd (o : Out) : (emit o s).chainFwd = s.chainFwd := rfl
@[simp] theorem emit_outside (o : Out) : (emit o s).outside = s.outside := rfl
@[simp] theorem emit_wakeMac (o : Out) : (emit o s).wakeMac = s.wakeMac := rfl
@[simp] theorem emit_chainBack (o : Out) : (emit o s).chainBack = s.chainBack := rfl
@[simp] theorem emit_dom (o : Out) : (emit o s).dom = s.dom := rfl
@[simp] theorem emit_fifo (o : Out) : (emit o s).fifo = s.fifo := rfl
@[simp] theorem emit_cells (o : Out) : (emit o s).cells = s.cells := rfl
@[simp] theorem emit_hoes (o : Out) : (emit o s).hoes = s.hoes := rfl
@[simp] theorem emit_chans (o : Out) : (emit o s).chans = s.chans := rfl
@[simp] theorem emit_jsel (o : Out) : (emit o s).jsel = s.jsel := rfl
@[simp] theorem emit_strms (o : Out) : (emit o s).strms = s.strms := rfl
@[simp] theorem emit_macs (o : Out) : (emit o s).macs = s.macs := rfl
@[simp] theorem emit_rails (o : Out) : (emit o s).rails = s.rails := rfl
@[simp] theorem emit_engines (o : Out) : (emit o s).engines = s.engines := rfl
@[simp] theorem emit_cgArm (o : Out) : (emit o s).cgArm = s.cgArm := rfl
@[simp] theorem emit_msixTab (o : Out) : (emit o s).msixTab = s.msixTab := rfl
@[simp] theorem emit_msixPend (o : Out) : (emit o s).msixPend = s.msixPend := rfl
@[simp] theorem emit_hostMac (o : Out) : (emit o s).hostMac = s.hostMac := rfl
@[simp] theorem emit_apllFrom (o : Out) : (emit o s).apllFrom = s.apllFrom := rfl
@[simp] theorem emit_refSince (o : Out) : (emit o s).refSince = s.refSince := rfl
@[simp] theorem emit_refLast (o : Out) : (emit o s).refLast = s.refLast := rfl
@[simp] theorem emit_pllRuns (o : Out) : (emit o s).pllRuns = s.pllRuns := rfl
@[simp] theorem emit_pllFrom (o : Out) : (emit o s).pllFrom = s.pllFrom := rfl
@[simp] theorem emit_pwmOn (o : Out) : (emit o s).pwmOn = s.pwmOn := rfl
@[simp] theorem emit_pwmClk (o : Out) : (emit o s).pwmClk = s.pwmClk := rfl
@[simp] theorem emit_vio (o : Out) : (emit o s).vio = s.vio := rfl
@[simp] theorem emit_blkFrom (o : Out) : (emit o s).blkFrom = s.blkFrom := rfl
@[simp] theorem emit_trims (o : Out) : (emit o s).trims = s.trims := rfl
@[simp] theorem emit_hq (o : Out) : (emit o s).hq = s.hq := rfl
@[simp] theorem emit_hqLast (o : Out) : (emit o s).hqLast = s.hqLast := rfl
@[simp] theorem emit_hqEnHeld (o : Out) : (emit o s).hqEnHeld = s.hqEnHeld := rfl
@[simp] theorem emit_adminLast (o : Out) : (emit o s).adminLast = s.adminLast := rfl
@[simp] theorem emit_barHeld (o : Out) : (emit o s).barHeld = s.barHeld := rfl
@[simp] theorem emit_barHi (o : Out) : (emit o s).barHi = s.barHi := rfl
@[simp] theorem emit_boot (o : Out) : (emit o s).boot = s.boot := rfl
@[simp] theorem emit_otp (o : Out) : (emit o s).otp = s.otp := rfl
@[simp] theorem emit_otpOp (o : Out) : (emit o s).otpOp = s.otpOp := rfl
@[simp] theorem emit_keys (o : Out) : (emit o s).keys = s.keys := rfl
@[simp] theorem emit_pwr (o : Out) : (emit o s).pwr = s.pwr := rfl
@[simp] theorem emit_tap (o : Out) : (emit o s).tap = s.tap := rfl
@[simp] theorem emit_line (o : Out) : (emit o s).line = s.line := rfl
@[simp] theorem emit_snap (o : Out) : (emit o s).snap = s.snap := rfl
@[simp] theorem emit_dlcal (o : Out) : (emit o s).dlcal = s.dlcal := rfl
@[simp] theorem emit_ckpts (o : Out) : (emit o s).ckpts = s.ckpts := rfl
@[simp] theorem emit_reinst (o : Out) : (emit o s).reinst = s.reinst := rfl
@[simp] theorem emit_reinstQ (o : Out) : (emit o s).reinstQ = s.reinstQ := rfl
@[simp] theorem emit_leaseHeld (o : Out) : (emit o s).leaseHeld = s.leaseHeld := rfl
@[simp] theorem emit_memCtl (o : Out) : (emit o s).memCtl = s.memCtl := rfl
@[simp] theorem emit_released (o : Out) : (emit o s).released = s.released := rfl
@[simp] theorem emit_releasedAt (o : Out) : (emit o s).releasedAt = s.releasedAt := rfl
@[simp] theorem emit_vcoreLow (o : Out) : (emit o s).vcoreLow = s.vcoreLow := rfl
@[simp] theorem emit_vcoreAt (o : Out) : (emit o s).vcoreAt = s.vcoreAt := rfl
@[simp] theorem emit_dbgHeld (o : Out) : (emit o s).dbgHeld = s.dbgHeld := rfl
@[simp] theorem emit_hostSess (o : Out) : (emit o s).hostSess = s.hostSess := rfl
@[simp] theorem emit_probeSess (o : Out) : (emit o s).probeSess = s.probeSess := rfl
@[simp] theorem emit_readData (o : Out) : (emit o s).readData = s.readData := rfl
@[simp] theorem reg_emit (o : Out) (i₁ i₂ : Nat) : reg (emit o s) i₁ i₂ = reg s i₁ i₂ := rfl
@[simp] theorem tineAt_emit (o : Out) (i₁ : Nat) : tineAt (emit o s) i₁ = tineAt s i₁ := rfl
@[simp] theorem domSt_emit (o : Out) (i₁ : Nat) : domSt (emit o s) i₁ = domSt s i₁ := rfl
@[simp] theorem gaugeAt_emit (o : Out) (i₁ : Nat) : gaugeAt (emit o s) i₁ = gaugeAt s i₁ := rfl
@[simp] theorem hopAt_emit (o : Out) (i₁ : Nat) : hopAt (emit o s) i₁ = hopAt s i₁ := rfl
@[simp] theorem chanAt_emit (o : Out) (i₁ : Nat) : chanAt (emit o s) i₁ = chanAt s i₁ := rfl
@[simp] theorem cellAt_emit (o : Out) (i₁ i₂ : Nat) : cellAt (emit o s) i₁ i₂ = cellAt s i₁ i₂ := rfl
@[simp] theorem hoeAt_emit (o : Out) (i₁ i₂ : Nat) : hoeAt (emit o s) i₁ i₂ = hoeAt s i₁ i₂ := rfl
@[simp] theorem fifoAt_emit (o : Out) (i₁ : Nat) : fifoAt (emit o s) i₁ = fifoAt s i₁ := rfl
@[simp] theorem memGet_emit (o : Out) (i₁ : Nat) : memGet (emit o s) i₁ = memGet s i₁ := rfl
@[simp] theorem portAt_emit (o : Out) (i₁ : Nat) : portAt (emit o s) i₁ = portAt s i₁ := rfl
@[simp] theorem strmAt_emit (o : Out) (i₁ : Nat) : strmAt (emit o s) i₁ = strmAt s i₁ := rfl
@[simp] theorem macAt_emit (o : Out) (i₁ : Nat) : macAt (emit o s) i₁ = macAt s i₁ := rfl
@[simp] theorem railAt_emit (o : Out) (i₁ : Nat) : railAt (emit o s) i₁ = railAt s i₁ := rfl
@[simp] theorem hqAt_emit (o : Out) (i₁ : Nat) : hqAt (emit o s) i₁ = hqAt s i₁ := rfl

/-! ## A read after a write -/

@[simp] theorem reg_setReg_same (pg off : Nat) (v : Word) : reg (setReg pg off v s) pg off = v := Tbl.get_set_same _ _ _ _

theorem reg_setReg_key {pg off p o : Nat} (v : Word) (h : regKey p o ≠ regKey pg off) : reg (setReg pg off v s) p o = reg s p o :=
  Tbl.get_set_ne _ _ _ h

/-- A register write leaves every other register of its page alone. -/
theorem reg_setReg_off {pg off o : Nat} (v : Word) (h : o ≠ off) : reg (setReg pg off v s) pg o = reg s pg o :=
  reg_setReg_key s v (by unfold regKey; omega)

/-- A register write leaves every other page alone. -/
theorem reg_setReg_page {pg off p o : Nat} (v : Word) (hp : p ≠ pg) (ho : o < 1024) (hoff : off < 1024) :
    reg (setReg pg off v s) p o = reg s p o :=
  reg_setReg_key s v (by rw [Ne, regKey_inj ho hoff]; omega)

theorem reg_setReg {pg off p o : Nat} (v : Word) (ho : o < 1024) (hoff : off < 1024) :
    reg (setReg pg off v s) p o = if p = pg ∧ o = off then v else reg s p o := by
  split
  · next h => rw [h.1, h.2]; simp
  · next h => exact reg_setReg_key s v (by rw [Ne, regKey_inj ho hoff]; exact h)

@[simp] theorem tineAt_setTine_same (t : Nat) (x : Tine) : tineAt (setTine t x s) t = x := Tbl.get_set_same _ _ _ _
theorem tineAt_setTine_ne {t u : Nat} (x : Tine) (h : u ≠ t) : tineAt (setTine t x s) u = tineAt s u := Tbl.get_set_ne _ _ _ h
theorem tineAt_setTine (t u : Nat) (x : Tine) : tineAt (setTine t x s) u = if u = t then x else tineAt s u := Tbl.get_set _ _ _ _ _
@[simp] theorem gaugeAt_setGauge_same (t : Nat) (x : Gauge) : gaugeAt (setGauge t x s) t = x := Tbl.get_set_same _ _ _ _
theorem gaugeAt_setGauge_ne {t u : Nat} (x : Gauge) (h : u ≠ t) : gaugeAt (setGauge t x s) u = gaugeAt s u := Tbl.get_set_ne _ _ _ h
theorem gaugeAt_setGauge (t u : Nat) (x : Gauge) : gaugeAt (setGauge t x s) u = if u = t then x else gaugeAt s u := Tbl.get_set _ _ _ _ _
@[simp] theorem hopAt_setHop_same (t : Nat) (x : HopQ) : hopAt (setHop t x s) t = x := Tbl.get_set_same _ _ _ _
theorem hopAt_setHop_ne {t u : Nat} (x : HopQ) (h : u ≠ t) : hopAt (setHop t x s) u = hopAt s u := Tbl.get_set_ne _ _ _ h
theorem hopAt_setHop (t u : Nat) (x : HopQ) : hopAt (setHop t x s) u = if u = t then x else hopAt s u := Tbl.get_set _ _ _ _ _
@[simp] theorem chanAt_setChan_same (t : Nat) (x : Chan) : chanAt (setChan t x s) t = x := Tbl.get_set_same _ _ _ _
theorem chanAt_setChan_ne {t u : Nat} (x : Chan) (h : u ≠ t) : chanAt (setChan t x s) u = chanAt s u := Tbl.get_set_ne _ _ _ h
theorem chanAt_setChan (t u : Nat) (x : Chan) : chanAt (setChan t x s) u = if u = t then x else chanAt s u := Tbl.get_set _ _ _ _ _
@[simp] theorem domSt_setDom_same (t : Nat) (x : DomSt) : domSt (setDom t x s) t = x := Tbl.get_set_same _ _ _ _
theorem domSt_setDom_ne {t u : Nat} (x : DomSt) (h : u ≠ t) : domSt (setDom t x s) u = domSt s u := Tbl.get_set_ne _ _ _ h
theorem domSt_setDom (t u : Nat) (x : DomSt) : domSt (setDom t x s) u = if u = t then x else domSt s u := Tbl.get_set _ _ _ _ _
@[simp] theorem fifoAt_setFifo_same (t : Nat) (x : List Word) : fifoAt (setFifo t x s) t = x := Tbl.get_set_same _ _ _ _
theorem fifoAt_setFifo_ne {t u : Nat} (x : List Word) (h : u ≠ t) : fifoAt (setFifo t x s) u = fifoAt s u := Tbl.get_set_ne _ _ _ h
theorem fifoAt_setFifo (t u : Nat) (x : List Word) : fifoAt (setFifo t x s) u = if u = t then x else fifoAt s u := Tbl.get_set _ _ _ _ _
@[simp] theorem portAt_setPort_same (t : Nat) (x : Port) : portAt (setPort t x s) t = x := Tbl.get_set_same _ _ _ _
theorem portAt_setPort_ne {t u : Nat} (x : Port) (h : u ≠ t) : portAt (setPort t x s) u = portAt s u := Tbl.get_set_ne _ _ _ h
theorem portAt_setPort (t u : Nat) (x : Port) : portAt (setPort t x s) u = if u = t then x else portAt s u := Tbl.get_set _ _ _ _ _
@[simp] theorem strmAt_setStrm_same (t : Nat) (x : Strm) : strmAt (setStrm t x s) t = x := Tbl.get_set_same _ _ _ _
theorem strmAt_setStrm_ne {t u : Nat} (x : Strm) (h : u ≠ t) : strmAt (setStrm t x s) u = strmAt s u := Tbl.get_set_ne _ _ _ h
theorem strmAt_setStrm (t u : Nat) (x : Strm) : strmAt (setStrm t x s) u = if u = t then x else strmAt s u := Tbl.get_set _ _ _ _ _
@[simp] theorem macAt_setMac_same (t : Nat) (x : Mac) : macAt (setMac t x s) t = x := Tbl.get_set_same _ _ _ _
theorem macAt_setMac_ne {t u : Nat} (x : Mac) (h : u ≠ t) : macAt (setMac t x s) u = macAt s u := Tbl.get_set_ne _ _ _ h
theorem macAt_setMac (t u : Nat) (x : Mac) : macAt (setMac t x s) u = if u = t then x else macAt s u := Tbl.get_set _ _ _ _ _
@[simp] theorem railAt_setRail_same (t : Nat) (x : Rail) : railAt (setRail t x s) t = x := Tbl.get_set_same _ _ _ _
theorem railAt_setRail_ne {t u : Nat} (x : Rail) (h : u ≠ t) : railAt (setRail t x s) u = railAt s u := Tbl.get_set_ne _ _ _ h
theorem railAt_setRail (t u : Nat) (x : Rail) : railAt (setRail t x s) u = if u = t then x else railAt s u := Tbl.get_set _ _ _ _ _
@[simp] theorem hqAt_setHq_same (t : Nat) (x : HQ) : hqAt (setHq t x s) t = x := Tbl.get_set_same _ _ _ _
theorem hqAt_setHq_ne {t u : Nat} (x : HQ) (h : u ≠ t) : hqAt (setHq t x s) u = hqAt s u := Tbl.get_set_ne _ _ _ h
theorem hqAt_setHq (t u : Nat) (x : HQ) : hqAt (setHq t x s) u = if u = t then x else hqAt s u := Tbl.get_set _ _ _ _ _
@[simp] theorem cellAt_setCell_same (r c : Nat) (x : CellSt) : cellAt (setCell r c x s) r c = x := Tbl.get_set_same _ _ _ _
theorem cellAt_setCell_ne {r c p o : Nat} (x : CellSt) (ho : o < 128) (hc : c < 128) (h : p ≠ r ∨ o ≠ c) :
    cellAt (setCell r c x s) p o = cellAt s p o := Tbl.get_set_ne _ _ _ (by omega)
@[simp] theorem hoeAt_setHoe_same (r c : Nat) (x : Hoe) : hoeAt (setHoe r c x s) r c = x := Tbl.get_set_same _ _ _ _
theorem hoeAt_setHoe_ne {r c p o : Nat} (x : Hoe) (ho : o < 32) (hc : c < 32) (h : p ≠ r ∨ o ≠ c) :
    hoeAt (setHoe r c x s) p o = hoeAt s p o := Tbl.get_set_ne _ _ _ (by omega)

@[simp] theorem tineAt_modTine_same (t : Nat) (f : Tine → Tine) : tineAt (modTine t f s) t = f (tineAt s t) := by simp [modTine]
theorem tineAt_modTine_ne {t u : Nat} (f : Tine → Tine) (h : u ≠ t) : tineAt (modTine t f s) u = tineAt s u := by
  simp [modTine, tineAt_setTine_ne s _ h]
@[simp] theorem chanAt_modChan_same (c : Nat) (f : Chan → Chan) : chanAt (modChan c f s) c = f (chanAt s c) := by simp [modChan]
theorem chanAt_modChan_ne {c u : Nat} (f : Chan → Chan) (h : u ≠ c) : chanAt (modChan c f s) u = chanAt s u := by
  simp [modChan, chanAt_setChan_ne s _ h]

theorem reg_setRegF_off {pg off o lo len v : Nat} (h : o ≠ off) : reg (setRegF pg off lo len v s) pg o = reg s pg o :=
  reg_setReg_off s _ h
theorem reg_setRegB_off {pg off o i : Nat} (b : Bool) (h : o ≠ off) : reg (setRegB pg off i b s) pg o = reg s pg o :=
  reg_setReg_off s _ h
theorem reg_bumpF_off {pg off o lo len n : Nat} (h : o ≠ off) : reg (bumpF pg off lo len n s) pg o = reg s pg o :=
  reg_setReg_off s _ h
theorem reg_wrapF_off {pg off o lo len n : Nat} (h : o ≠ off) : reg (wrapF pg off lo len n s) pg o = reg s pg o :=
  reg_setReg_off s _ h

end Sys2Proof.Machine
end

