-- ==== Sys2Proof/Laws/Mem.lean ====
section
/-! SUPPORT. Laws of memory: a read after a write, and that every memory operation keeps the canonical form `Memory.wf`. -/

namespace Sys2Proof.Machine

variable (s : State)

/-! ## Read after write -/

@[simp] theorem memPut_mem (pa : Nat) (v : Word) : (memPut pa v s).mem = Tbl.set memDflt s.mem pa v := by
  unfold memPut ueClear
  split <;> rfl

/-- A read of the word written gives what was written. -/
@[simp] theorem memGet_memPut_same (pa : Nat) (v : Word) : memGet (memPut pa v s) pa = v := by simp [memGet]

/-- A write leaves every other word alone. -/
theorem memGet_memPut_ne {pa a : Nat} (v : Word) (h : a ≠ pa) : memGet (memPut pa v s) a = memGet s a := by
  simp [memGet, Tbl.get_set_ne memDflt s.mem v h]

@[simp] theorem memPut_regs (pa : Nat) (v : Word) : (memPut pa v s).regs = s.regs := by
  unfold memPut ueClear
  split <;> rfl

@[simp] theorem memPut_tines (pa : Nat) (v : Word) : (memPut pa v s).tines = s.tines := by
  unfold memPut ueClear
  split <;> rfl

/-- A write of a word changes memory and the marks of uncorrectable words, and nothing else. -/
theorem memPut_fields (pa : Nat) (v : Word) : memPut pa v s = { s with mem := (memPut pa v s).mem, ue := (memPut pa v s).ue } := by
  unfold memPut ueClear
  split <;> rfl

/-- A read of memory that meets no errors of DRAM symbols answers the word it holds. -/
theorem memRead_word {pa src : Nat} {up : Upset} {w : Word} {s' : State} (h : memRead pa up src s = (.word w, s'))
    (hup : ∀ errs, up ≠ .sym errs) : w = memGet s pa := by
  unfold memRead at h
  grind

/-! ## The canonical form -/

/-- `memPut` keeps the canonical form. -/
theorem Memory.wf_set {m : Tbl Word} (pa : Nat) (v : Word) (h : Memory.wf m = true) :
    Memory.wf (Tbl.set memDflt m pa v) = true := Tbl.wf_set memDflt pa v h

theorem memPut_wf (pa : Nat) (v : Word) (h : Memory.wf s.mem = true) : Memory.wf (memPut pa v s).mem = true := by
  rw [memPut_mem]
  exact Memory.wf_set pa v h

/-- `clearRange` keeps the canonical form. -/
theorem clearRange_wf (dst n : Nat) (h : Memory.wf s.mem = true) : Memory.wf (clearRange dst n s).mem = true :=
  Tbl.wf_filter memDflt _ h

theorem Memory.wfFrom_append {a b : Nat} {m n : Tbl Word} (hm : Tbl.wfFrom memDflt a m = true) (hb : ∀ e ∈ m, e.1 < b)
    (hn : Tbl.wfFrom memDflt b n = true) (hab : a ≤ b) : Tbl.wfFrom memDflt a (m ++ n) = true := by
  induction m generalizing a with
  | nil => exact Tbl.wfFrom_mono _ hab hn
  | cons e m ih =>
    obtain ⟨j, w⟩ := e
    simp only [Tbl.wfFrom, Bool.and_eq_true, decide_eq_true_eq, List.cons_append] at *
    exact ⟨hm.1, ih hm.2 (fun e he => hb e (List.mem_cons_of_mem _ he)) (hb (j, w) (List.mem_cons_self ..))⟩

theorem Memory.wfFrom_ge {a b : Nat} {m : Tbl Word} (hm : Tbl.wfFrom memDflt a m = true) (hb : ∀ e ∈ m, b ≤ e.1) :
    Tbl.wfFrom memDflt b m = true := by
  cases m with
  | nil => rfl
  | cons e m =>
    obtain ⟨j, w⟩ := e
    simp only [Tbl.wfFrom, Bool.and_eq_true, decide_eq_true_eq] at *
    exact ⟨⟨hb (j, w) (List.mem_cons_self ..), hm.1.2⟩, hm.2⟩

theorem Memory.wfFrom_shift {a src dst : Nat} {m : Tbl Word} (hm : Tbl.wfFrom memDflt a m = true) (hs : ∀ e ∈ m, src ≤ e.1) (ha : src ≤ a) :
    Tbl.wfFrom memDflt (a - src + dst) (m.map fun e => (e.1 - src + dst, e.2)) = true := by
  induction m generalizing a with
  | nil => rfl
  | cons e m ih =>
    obtain ⟨j, w⟩ := e
    have hj := hs (j, w) (List.mem_cons_self ..)
    simp only [Tbl.wfFrom, Bool.and_eq_true, decide_eq_true_eq, List.map_cons] at *
    refine ⟨⟨by omega, hm.1.2⟩, ?_⟩
    have := ih hm.2 (fun e he => hs e (List.mem_cons_of_mem _ he)) (by omega)
    rwa [show j - src + dst + 1 = j + 1 - src + dst by omega]

/-- Moving a range of memory keeps the canonical form. -/
theorem Memory.wf_copy {m : Tbl Word} (src dst n : Nat) (h : Memory.wf m = true) :
    Memory.wf ((m.filter fun e => !(decide (dst ≤ e.1) && decide (e.1 < dst + n))).filter (fun e => decide (e.1 < dst)) ++
      ((m.filter fun e => decide (src ≤ e.1) && decide (e.1 < src + n)).map fun e => (e.1 - src + dst, e.2)) ++
      (m.filter fun e => !(decide (dst ≤ e.1) && decide (e.1 < dst + n))).filter (fun e => decide (dst < e.1))) = true := by
  have hA := Tbl.wfFrom_filter memDflt (fun e => decide (e.1 < dst)) (Tbl.wfFrom_filter memDflt (fun e => !(decide (dst ≤ e.1) && decide (e.1 < dst + n))) h)
  have hC := Tbl.wfFrom_filter memDflt (fun e => decide (dst < e.1)) (Tbl.wfFrom_filter memDflt (fun e => !(decide (dst ≤ e.1) && decide (e.1 < dst + n))) h)
  have hB := Tbl.wfFrom_filter memDflt (fun e => decide (src ≤ e.1) && decide (e.1 < src + n)) h
  have hB' := Memory.wfFrom_shift (src := src) (dst := dst) (Memory.wfFrom_ge (b := src) hB (by simp; omega)) (by simp; omega) (Nat.le_refl _)
  rw [Nat.sub_self, Nat.zero_add] at hB'
  have hC' := Memory.wfFrom_ge (b := dst + n) hC (by simp; omega)
  refine Memory.wfFrom_append (b := dst + n) (Memory.wfFrom_append (b := dst) hA (by simp; intros; assumption) hB' (Nat.zero_le _)) ?_ hC' (Nat.zero_le _)
  intro e he
  simp only [List.mem_append, List.mem_filter, List.mem_map, Bool.and_eq_true, decide_eq_true_eq] at he
  rcases he with he | ⟨x, he, rfl⟩ <;> simp at * <;> omega

/-- `copyRange` keeps the canonical form. -/
theorem copyRange_wf (src dst n : Nat) (h : Memory.wf s.mem = true) : Memory.wf (copyRange src dst n s).mem = true :=
  Memory.wf_copy src dst n h

/-- Memory is in canonical form at reset. -/
theorem reset_mem_wf : Memory.wf State.reset.mem = true := rfl

end Sys2Proof.Machine
end

