-- ==== Sys2Proof/Laws/Keeps.lean ====
section
/-! SUPPORT. What every operation of the model keeps: the canonical form of memory and registers, the queue of waiting commands, and
OTP with the programming under way, which a reset ends. `op_keeps` says it of an operation `op`, `op_keeps_out` of the state
among what `op` answers; both chain backwards from a later state to an earlier one. -/

namespace Sys2Proof.Machine

/-- From `kz` to `s` the canonical form and the queue are kept, and with `kb` OTP is, and a programming under way goes on or was
ended by a reset. -/
structure Keeps (kb : Bool) (kz s : State) : Prop where
  canon : kz.canonical = true → s.canonical = true
  pend : s.pending = kz.pending
  otp : kb = true → s.otp = kz.otp ∧ (s.otpOp = kz.otpOp ∨ s.otpOp = none)

/-- The same of the five fields it rests on. -/
def KeepsParts (kb : Bool) (kz : State) (p : List Instr) (m r : Tbl Word) (o : Otp) (q : Option OtpOp) : Prop :=
  (kz.canonical = true → (Memory.wf m && Tbl.wf regReset r) = true) ∧ p = kz.pending ∧
    (kb = true → o = kz.otp ∧ (q = kz.otpOp ∨ q = none))

/-- The same of a state answered with one, two, three or four other results. -/
structure Keeps1 {α : Type} (kb : Bool) (kz : State) (p : α × State) : Prop where
  out : Keeps kb kz p.2
structure Keeps2 {α β : Type} (kb : Bool) (kz : State) (p : α × β × State) : Prop where
  out : Keeps kb kz p.2.2
structure Keeps3 {α β γ : Type} (kb : Bool) (kz : State) (p : α × β × γ × State) : Prop where
  out : Keeps kb kz p.2.2.2
structure Keeps4 {α β γ δ : Type} (kb : Bool) (kz : State) (p : α × β × γ × δ × State) : Prop where
  out : Keeps kb kz p.2.2.2.2

theorem keeps_refl (kb : Bool) (s : State) : Keeps kb s s := ⟨id, rfl, fun _ => ⟨rfl, .inl rfl⟩⟩

theorem keeps_iff {kb kz} {s : State} : Keeps kb kz s ↔ KeepsParts kb kz s.pending s.mem s.regs s.otp s.otpOp :=
  ⟨fun h => ⟨h.canon, h.pend, h.otp⟩, fun h => ⟨h.1, h.2.1, h.2.2⟩⟩

theorem parts_of {kb kz} {s : State} (h : Keeps kb kz s) : KeepsParts kb kz s.pending s.mem s.regs s.otp s.otpOp := keeps_iff.1 h

/-- An update of other fields keeps what was kept. -/
theorem keeps_mk {kb kz} {x_pending x_now x_free x_regs x_mem x_ue x_xcache x_tines x_bandCap x_mbox x_withheld x_hops x_rrLast x_gauges
    x_frec x_lockSet x_retireQ x_ports x_cellsIn x_devM1 x_walkUps x_chainTags x_nextTag x_chainFwd x_outside x_wakeMac
    x_chainBack x_dom x_fifo x_cells x_hoes x_chans x_jsel x_strms x_macs x_rails x_engines x_cgArm x_msixTab
    x_msixPend x_hostMac x_apllFrom x_refSince x_refLast x_pllRuns x_pllFrom x_pwmOn x_pwmClk x_vio x_blkFrom x_trims
    x_hq x_hqLast x_hqEnHeld x_adminLast x_barHeld x_barHi x_boot x_otp x_otpOp x_keys x_pwr x_tap x_line x_snap
    x_dlcal x_ckpts x_reinst x_reinstQ x_leaseHeld x_memCtl x_released x_releasedAt x_vcoreLow x_vcoreAt x_dbgHeld
    x_hostSess x_probeSess x_readData x_out} :
    Keeps kb kz (State.mk x_pending x_now x_free x_regs x_mem x_ue x_xcache x_tines x_bandCap x_mbox x_withheld x_hops x_rrLast x_gauges
    x_frec x_lockSet x_retireQ x_ports x_cellsIn x_devM1 x_walkUps x_chainTags x_nextTag x_chainFwd x_outside x_wakeMac
    x_chainBack x_dom x_fifo x_cells x_hoes x_chans x_jsel x_strms x_macs x_rails x_engines x_cgArm x_msixTab
    x_msixPend x_hostMac x_apllFrom x_refSince x_refLast x_pllRuns x_pllFrom x_pwmOn x_pwmClk x_vio x_blkFrom x_trims
    x_hq x_hqLast x_hqEnHeld x_adminLast x_barHeld x_barHi x_boot x_otp x_otpOp x_keys x_pwr x_tap x_line x_snap
    x_dlcal x_ckpts x_reinst x_reinstQ x_leaseHeld x_memCtl x_released x_releasedAt x_vcoreLow x_vcoreAt x_dbgHeld
    x_hostSess x_probeSess x_readData x_out) ↔
      KeepsParts kb kz x_pending x_mem x_regs x_otp x_otpOp := keeps_iff

theorem parts_otp {kz} {s : State} {o q} (h : Keeps false kz s) : KeepsParts false kz s.pending s.mem s.regs o q :=
  ⟨h.canon, h.pend, fun h => absurd h (by decide)⟩

theorem parts_none {kb kz} {s : State} (h : Keeps kb kz s) : KeepsParts kb kz s.pending s.mem s.regs s.otp none :=
  ⟨h.canon, h.pend, fun e => ⟨(h.otp e).1, .inr rfl⟩⟩

theorem parts_set {kb kz} {p m r o q} (k : Nat) (v : Word) (h : KeepsParts kb kz p m r o q) :
    KeepsParts kb kz p (Tbl.set memDflt m k v) r o q := by
  obtain ⟨h1, h2⟩ := h
  refine ⟨fun x => ?_, h2⟩
  have := h1 x
  simp only [Bool.and_eq_true] at *
  exact ⟨Memory.wf_set k v this.1, this.2⟩

theorem ite_keeps {kb kz} (c : Prop) [Decidable c] {s t : State} (h : c → Keeps kb kz s) (g : ¬c → Keeps kb kz t) :
    Keeps kb kz (if c then s else t) := by
  by_cases hc : c <;> simp only [hc, if_true, if_false]
  · exact h hc
  · exact g hc

theorem keeps1_mk {kb kz} {α : Type} (a : α) (s : State) : Keeps1 kb kz (a, s) ↔ Keeps kb kz s :=
  ⟨fun h => h.out, fun h => ⟨h⟩⟩
theorem keeps2_mk {kb kz} {α β : Type} (a : α) (b : β) (s : State) : Keeps2 kb kz (a, b, s) ↔ Keeps kb kz s :=
  ⟨fun h => h.out, fun h => ⟨h⟩⟩
theorem keeps3_mk {kb kz} {α β γ : Type} (a : α) (b : β) (c : γ) (s : State) : Keeps3 kb kz (a, b, c, s) ↔ Keeps kb kz s :=
  ⟨fun h => h.out, fun h => ⟨h⟩⟩
theorem keeps4_mk {kb kz} {α β γ δ : Type} (a : α) (b : β) (c : γ) (d : δ) (s : State) :
    Keeps4 kb kz (a, b, c, d, s) ↔ Keeps kb kz s := ⟨fun h => h.out, fun h => ⟨h⟩⟩

theorem Keeps1.of {kb kz} {α : Type} {p : α × State} {a : α} {s : State} (h : Keeps1 kb kz p) (e : p = (a, s)) : Keeps kb kz s := by
  subst e
  exact h.out
theorem Keeps2.of {kb kz} {α β : Type} {p : α × β × State} {a : α} {b : β} {s : State} (h : Keeps2 kb kz p) (e : p = (a, b, s)) :
    Keeps kb kz s := by
  subst e
  exact h.out

theorem forAll_keeps {kb kz} {α : Type} (l : List α) (f : α → State → State) (hf : ∀ a s, Keeps kb kz s → Keeps kb kz (f a s))
    {s : State} (h : Keeps kb kz s) : Keeps kb kz (forAll l f s) := by
  induction l generalizing s with
  | nil => exact h
  | cons a l ih => exact ih (hf _ _ h)

theorem setReg_keeps {kb kz} (pg off : Nat) (v : Word) {s : State} (h : Keeps kb kz s) : Keeps kb kz (setReg pg off v s) := by
  refine ⟨fun x => ?_, h.pend, h.otp⟩
  have := h.canon x
  simp only [State.canonical, Bool.and_eq_true, setReg_mem] at *
  exact ⟨this.1, Tbl.wf_set _ _ _ this.2⟩

end Sys2Proof.Machine
end

