-- ==== Sys2Proof/Laws/KeepsBase.lean ====
section
/-! SUPPORT. Laws that say, operation by operation, that the canonical form, the queue and OTP are kept: registers, the sieve, hoppers, memory words and ports. -/

namespace Sys2Proof.Machine

/-! ## Machine/Ops.lean -/

theorem setRegF_keeps {kb kz} (pg off lo len v : Nat) {s : State} (hK : Keeps kb kz s) : Keeps kb kz (setRegF pg off lo len v s) := by
  unfold setRegF
  with_reducible repeat' (first | (assumption) | (refine ite_keeps _ (fun _ => ?_) (fun _ => ?_)) | (refine setReg_keeps _ _ _ ?_))

theorem setRegB_keeps {kb kz} (pg off i : Nat) (b : Bool) {s : State} (hK : Keeps kb kz s) : Keeps kb kz (setRegB pg off i b s) := by
  unfold setRegB
  with_reducible repeat' (first | (assumption) | (refine ite_keeps _ (fun _ => ?_) (fun _ => ?_)) | (refine setRegF_keeps _ _ _ _ _ ?_))

theorem bumpF_keeps {kb kz} (pg off lo len n : Nat) {s : State} (hK : Keeps kb kz s) : Keeps kb kz (bumpF pg off lo len n s) := by
  unfold bumpF
  with_reducible repeat' (first | (assumption) | (refine ite_keeps _ (fun _ => ?_) (fun _ => ?_)) | (refine setRegF_keeps _ _ _ _ _ ?_))

theorem wrapF_keeps {kb kz} (pg off lo len n : Nat) {s : State} (hK : Keeps kb kz s) : Keeps kb kz (wrapF pg off lo len n s) := by
  unfold wrapF
  with_reducible repeat' (first | (assumption) | (refine ite_keeps _ (fun _ => ?_) (fun _ => ?_)) | (refine setRegF_keeps _ _ _ _ _ ?_))

theorem setDom_keeps {kb kz} (d : Nat) (x : DomSt) {s : State} (hK : Keeps kb kz s) : Keeps kb kz (setDom d x s) := by
  unfold setDom
  with_reducible repeat' (first | (assumption) | (refine ite_keeps _ (fun _ => ?_) (fun _ => ?_)) | (refine setReg_keeps _ _ _ ?_) | (intro _) | (split) | (simp only [keeps_mk, keeps1_mk, keeps2_mk, keeps3_mk, keeps4_mk]) | (refine parts_of ?_))

theorem setTine_keeps {kb kz} (t : Nat) (x : Tine) {s : State} (hK : Keeps kb kz s) : Keeps kb kz (setTine t x s) := by
  unfold setTine
  with_reducible repeat' (first | (assumption) | (refine ite_keeps _ (fun _ => ?_) (fun _ => ?_)) | (refine setReg_keeps _ _ _ ?_) | (intro _) | (split) | (simp only [keeps_mk, keeps1_mk, keeps2_mk, keeps3_mk, keeps4_mk]) | (refine parts_of ?_))

theorem modTine_keeps {kb kz} (t : Nat) (f : Tine → Tine) {s : State} (hK : Keeps kb kz s) : Keeps kb kz (modTine t f s) := by
  unfold modTine
  with_reducible repeat' (first | (assumption) | (refine ite_keeps _ (fun _ => ?_) (fun _ => ?_)) | (refine setTine_keeps _ _ ?_))

theorem setG_keeps {kb kz} (t : Nat) (i : Gr) (v : Word) {s : State} (hK : Keeps kb kz s) : Keeps kb kz (setG t i v s) := by
  unfold setG
  with_reducible repeat' (first | (assumption) | (refine ite_keeps _ (fun _ => ?_) (fun _ => ?_)) | (refine modTine_keeps _ _ ?_) | (refine setReg_keeps _ _ _ ?_))

theorem setAcc_keeps {kb kz} (t : Nat) (n : Nat) (v : Acc96) {s : State} (hK : Keeps kb kz s) : Keeps kb kz (setAcc t n v s) := by
  unfold setAcc
  with_reducible repeat' (first | (assumption) | (refine ite_keeps _ (fun _ => ?_) (fun _ => ?_)) | (refine modTine_keeps _ _ ?_))

theorem recordFault_keeps {kb kz} (t : Nat) (f : FaultRec) {s : State} (hK : Keeps kb kz s) : Keeps kb kz (recordFault t f s) := by
  unfold recordFault
  with_reducible repeat' (first | (assumption) | (refine ite_keeps _ (fun _ => ?_) (fun _ => ?_)) | (refine modTine_keeps _ _ ?_))

theorem pageFault_keeps {kb kz} (p : TineNo) (cause sub pg off : Nat) (info : Word) {s : State} (hK : Keeps kb kz s) : Keeps kb kz (pageFault p cause sub pg off info s) := by
  unfold pageFault
  with_reducible repeat' (first | (assumption) | (refine ite_keeps _ (fun _ => ?_) (fun _ => ?_)) | (refine recordFault_keeps _ _ ?_) | (refine setReg_keeps _ _ _ ?_) | (intro _) | (split) | (simp only [keeps_mk, keeps1_mk, keeps2_mk, keeps3_mk, keeps4_mk]) | (refine parts_of ?_))

theorem denied_keeps {kb kz} (w : Who) (pg off : Nat) (g : Gate) {s : State} (hK : Keeps kb kz s) : Keeps kb kz (denied w pg off g s) := by
  unfold denied
  with_reducible repeat' (first | (assumption) | (refine ite_keeps _ (fun _ => ?_) (fun _ => ?_)) | (refine pageFault_keeps _ _ _ _ _ _ ?_) | (refine bumpF_keeps _ _ _ _ _ ?_) | (refine setReg_keeps _ _ _ ?_) | (intro _) | (split))

theorem gated_keeps {kb kz} (w : Who) (pg off : Nat) (f : State → State) {s : State} (h_f : ∀  s, Keeps kb kz s → Keeps kb kz (f  s)) (hK : Keeps kb kz s) : Keeps kb kz (gated w pg off f s) := by
  unfold gated
  with_reducible repeat' (first | (assumption) | (refine ite_keeps _ (fun _ => ?_) (fun _ => ?_)) | (refine denied_keeps _ _ _ _ ?_) | (refine setReg_keeps _ _ _ ?_) | (apply h_f) | (refine (h_f _ ?_).out) | (intro _) | (split))

theorem drawBit_keeps {kb kz}  {s : State} (hK : Keeps kb kz s) : Keeps1 kb kz (drawBit s) := by
  unfold drawBit
  with_reducible repeat' (first | (assumption) | (refine ite_keeps _ (fun _ => ?_) (fun _ => ?_)) | (refine setReg_keeps _ _ _ ?_) | (intro _) | (split) | (simp only [keeps_mk, keeps1_mk, keeps2_mk, keeps3_mk, keeps4_mk]) | (refine parts_of ?_))
theorem drawBit_keeps_out {kb kz}  {s : State} (hK : Keeps kb kz s) {x0 s₁} (hE : drawBit s = (x0, s₁)) : Keeps kb kz s₁ := by
  have := drawBit_keeps (kb := kb) (kz := kz)   hK
  rw [hE] at this; exact this.out

theorem drawNat_keeps {kb kz}  {s : State} (hK : Keeps kb kz s) : Keeps1 kb kz (drawNat s) := by
  unfold drawNat
  with_reducible repeat' (first | (assumption) | (refine ite_keeps _ (fun _ => ?_) (fun _ => ?_)) | (refine setReg_keeps _ _ _ ?_) | (intro _) | (split) | (simp only [keeps_mk, keeps1_mk, keeps2_mk, keeps3_mk, keeps4_mk]) | (refine parts_of ?_))
theorem drawNat_keeps_out {kb kz}  {s : State} (hK : Keeps kb kz s) {x0 s₁} (hE : drawNat s = (x0, s₁)) : Keeps kb kz s₁ := by
  have := drawNat_keeps (kb := kb) (kz := kz)   hK
  rw [hE] at this; exact this.out

theorem drawWord_keeps {kb kz}  {s : State} (hK : Keeps kb kz s) : Keeps1 kb kz (drawWord s) := by
  unfold drawWord
  with_reducible repeat' (first | (assumption) | (refine ite_keeps _ (fun _ => ?_) (fun _ => ?_)) | (refine setReg_keeps _ _ _ ?_) | (intro _) | (split) | (simp only [keeps_mk, keeps1_mk, keeps2_mk, keeps3_mk, keeps4_mk]) | (refine parts_of ?_))
theorem drawWord_keeps_out {kb kz}  {s : State} (hK : Keeps kb kz s) {x0 s₁} (hE : drawWord s = (x0, s₁)) : Keeps kb kz s₁ := by
  have := drawWord_keeps (kb := kb) (kz := kz)   hK
  rw [hE] at this; exact this.out

theorem emit_keeps {kb kz} (o : Out) {s : State} (hK : Keeps kb kz s) : Keeps kb kz (emit o s) := by
  unfold emit
  with_reducible repeat' (first | (assumption) | (refine ite_keeps _ (fun _ => ?_) (fun _ => ?_)) | (refine setReg_keeps _ _ _ ?_) | (intro _) | (split) | (simp only [keeps_mk, keeps1_mk, keeps2_mk, keeps3_mk, keeps4_mk]) | (refine parts_of ?_))

theorem alive_keeps {kb kz} (t : Nat) {s : State} (hK : Keeps kb kz s) : Keeps kb kz (alive t s) := by
  unfold alive
  with_reducible repeat' (first | (assumption) | (refine ite_keeps _ (fun _ => ?_) (fun _ => ?_)) | (refine modTine_keeps _ _ ?_))

theorem setGauge_keeps {kb kz} (g : Nat) (x : Gauge) {s : State} (hK : Keeps kb kz s) : Keeps kb kz (setGauge g x s) := by
  unfold setGauge
  with_reducible repeat' (first | (assumption) | (refine ite_keeps _ (fun _ => ?_) (fun _ => ?_)) | (refine setReg_keeps _ _ _ ?_) | (intro _) | (split) | (simp only [keeps_mk, keeps1_mk, keeps2_mk, keeps3_mk, keeps4_mk]) | (refine parts_of ?_))

theorem gaugeOffer_keeps {kb kz} (qty src : Nat) (v : Int) (clipped : Bool) (g : Nat) {s : State} (hK : Keeps kb kz s) : Keeps kb kz (gaugeOffer qty src v clipped g s) := by
  unfold gaugeOffer
  (try dsimp only)
  with_reducible repeat' (first | (assumption) | (refine ite_keeps _ (fun _ => ?_) (fun _ => ?_)) | (refine setGauge_keeps _ _ ?_))

theorem gaugeTake_keeps {kb kz} (qty src : Nat) (v : Int) (clipped : Bool) {s : State} (hK : Keeps kb kz s) : Keeps kb kz (gaugeTake qty src v clipped s) := by
  unfold gaugeTake
  with_reducible repeat' (first | (assumption) | (refine ite_keeps _ (fun _ => ?_) (fun _ => ?_)) | (refine forAll_keeps _ _ ?_ ?_) | (refine gaugeOffer_keeps _ _ _ _ _ ?_) | (refine setReg_keeps _ _ _ ?_) | (intro _))

theorem frecAdd_keeps {kb kz} (kind src : Nat) (data : Word) {s : State} (hK : Keeps kb kz s) : Keeps kb kz (frecAdd kind src data s) := by
  unfold frecAdd
  (try dsimp only)
  with_reducible repeat' (first | (assumption) | (refine ite_keeps _ (fun _ => ?_) (fun _ => ?_)) | (refine setRegF_keeps _ _ _ _ _ ?_) | (refine bumpF_keeps _ _ _ _ _ ?_) | (refine setReg_keeps _ _ _ ?_) | (intro _) | (split) | (simp only [keeps_mk, keeps1_mk, keeps2_mk, keeps3_mk, keeps4_mk]) | (refine parts_of ?_))

theorem frecAmend_keeps {kb kz} (p : FrecEnt → Bool) (data : Word) {s : State} (hK : Keeps kb kz s) : Keeps kb kz (frecAmend p data s) := by
  unfold frecAmend
  with_reducible repeat' (first | (assumption) | (refine ite_keeps _ (fun _ => ?_) (fun _ => ?_)) | (refine setReg_keeps _ _ _ ?_) | (intro _) | (split) | (simp only [keeps_mk, keeps1_mk, keeps2_mk, keeps3_mk, keeps4_mk]) | (refine parts_of ?_))

/-! ## Machine/Sieve.lean -/

theorem setPend_keeps {kb kz} (t n : Nat) (b : Bool) {s : State} (hK : Keeps kb kz s) : Keeps kb kz (setPend t n b s) := by
  unfold setPend
  with_reducible repeat' (first | (assumption) | (refine ite_keeps _ (fun _ => ?_) (fun _ => ?_)) | (refine setRegB_keeps _ _ _ _ ?_))

theorem setEntry_keeps {kb kz} (t : Nat) (e : Option Nat) {s : State} (hK : Keeps kb kz s) : Keeps kb kz (setEntry t e s) := by
  unfold setEntry
  with_reducible repeat' (first | (assumption) | (refine ite_keeps _ (fun _ => ?_) (fun _ => ?_)) | (refine modTine_keeps _ _ ?_))

theorem sieveUpdate_keeps {kb kz} (t : Nat) {s : State} (hK : Keeps kb kz s) : Keeps kb kz (sieveUpdate t s) := by
  unfold sieveUpdate
  with_reducible repeat' (first | (assumption) | (refine ite_keeps _ (fun _ => ?_) (fun _ => ?_)) | (refine setEntry_keeps _ _ ?_) | (refine bumpF_keeps _ _ _ _ _ ?_) | (refine setReg_keeps _ _ _ ?_) | (intro _) | (split))

theorem sieveAbandon_keeps {kb kz} (t : Nat) {s : State} (hK : Keeps kb kz s) : Keeps kb kz (sieveAbandon t s) := by
  unfold sieveAbandon
  with_reducible repeat' (first | (assumption) | (refine ite_keeps _ (fun _ => ?_) (fun _ => ?_)) | (refine sieveUpdate_keeps _ ?_) | (refine bumpF_keeps _ _ _ _ _ ?_) | (refine setEntry_keeps _ _ ?_))

theorem raise_keeps {kb kz} (t n : Nat) {s : State} (hK : Keeps kb kz s) : Keeps kb kz (raise t n s) := by
  unfold raise
  with_reducible repeat' (first | (assumption) | (refine ite_keeps _ (fun _ => ?_) (fun _ => ?_)) | (refine sieveUpdate_keeps _ ?_) | (refine setPend_keeps _ _ _ ?_))

theorem raiseLog_keeps {kb kz} (n l : Nat) {s : State} (hK : Keeps kb kz s) : Keeps kb kz (raiseLog n l s) := by
  unfold raiseLog
  with_reducible repeat' (first | (assumption) | (refine ite_keeps _ (fun _ => ?_) (fun _ => ?_)) | (refine raise_keeps _ _ ?_) | (refine bumpF_keeps _ _ _ _ _ ?_) | (refine setReg_keeps _ _ _ ?_) | (intro _) | (split))

theorem routeStore_keeps {kb kz} (u pg off : Nat) (v : Word) {s : State} (hK : Keeps kb kz s) : Keeps kb kz (routeStore u pg off v s) := by
  unfold routeStore
  (try dsimp only)
  with_reducible repeat' (first | (assumption) | (refine ite_keeps _ (fun _ => ?_) (fun _ => ?_)) | (refine setReg_keeps _ _ _ ?_) | (intro _) | (split) | (simp only [keeps_mk, keeps1_mk, keeps2_mk, keeps3_mk, keeps4_mk]) | (refine parts_of ?_))

theorem noteRR_keeps {kb kz} (u : Nat) (ks : List Nat) {s : State} (hK : Keeps kb kz s) : Keeps kb kz (noteRR u ks s) := by
  unfold noteRR
  with_reducible repeat' (first | (assumption) | (refine ite_keeps _ (fun _ => ?_) (fun _ => ?_)) | (refine setReg_keeps _ _ _ ?_) | (intro _) | (split) | (simp only [keeps_mk, keeps1_mk, keeps2_mk, keeps3_mk, keeps4_mk]) | (refine parts_of ?_))

theorem raisePlot_keeps {kb kz} (n p : Nat) {s : State} (hK : Keeps kb kz s) : Keeps kb kz (raisePlot n p s) := by
  unfold raisePlot
  (try dsimp only)
  with_reducible repeat' (first | (assumption) | (refine ite_keeps _ (fun _ => ?_) (fun _ => ?_)) | (refine forAll_keeps _ _ ?_ ?_) | (refine raiseLog_keeps _ _ ?_) | (refine noteRR_keeps _ _ ?_) | (refine setReg_keeps _ _ _ ?_) | (intro _))

theorem raiseBed_keeps {kb kz} (n b : Nat) {s : State} (hK : Keeps kb kz s) : Keeps kb kz (raiseBed n b s) := by
  unfold raiseBed
  (try dsimp only)
  with_reducible repeat' (first | (assumption) | (refine ite_keeps _ (fun _ => ?_) (fun _ => ?_)) | (refine forAll_keeps _ _ ?_ ?_) | (refine raisePlot_keeps _ _ ?_) | (refine noteRR_keeps _ _ ?_) | (refine setReg_keeps _ _ _ ?_) | (intro _))

theorem raiseDev_keeps {kb kz} (n : Nat) {s : State} (hK : Keeps kb kz s) : Keeps kb kz (raiseDev n s) := by
  unfold raiseDev
  (try dsimp only)
  with_reducible repeat' (first | (assumption) | (refine ite_keeps _ (fun _ => ?_) (fun _ => ?_)) | (refine forAll_keeps _ _ ?_ ?_) | (refine raiseBed_keeps _ _ ?_) | (refine noteRR_keeps _ _ ?_) | (refine setReg_keeps _ _ _ ?_) | (intro _))

theorem raiseUnit_keeps {kb kz} (level unit n : Nat) {s : State} (hK : Keeps kb kz s) : Keeps kb kz (raiseUnit level unit n s) := by
  unfold raiseUnit
  with_reducible repeat' (first | (assumption) | (refine ite_keeps _ (fun _ => ?_) (fun _ => ?_)) | (refine raiseLog_keeps _ _ ?_) | (refine raisePlot_keeps _ _ ?_) | (refine raiseBed_keeps _ _ ?_) | (refine raiseDev_keeps _ ?_) | (refine setReg_keeps _ _ _ ?_) | (intro _) | (split))

theorem recPush_keeps {kb kz} (t : Nat) (pri : Nat) (w : Bool) (n : Nat) {s : State} (hK : Keeps kb kz s) : Keeps kb kz (recPush t pri w n s) := by
  unfold recPush
  (try dsimp only)
  with_reducible repeat' (first | (assumption) | (refine ite_keeps _ (fun _ => ?_) (fun _ => ?_)) | (refine setReg_keeps _ _ _ ?_))

theorem recPop_keeps {kb kz} (t : Nat) {s : State} (hK : Keeps kb kz s) : Keeps kb kz (recPop t s) := by
  unfold recPop
  (try dsimp only)
  with_reducible repeat' (first | (assumption) | (refine ite_keeps _ (fun _ => ?_) (fun _ => ?_)) | (refine setReg_keeps _ _ _ ?_))

theorem sieveEoi_keeps {kb kz} (openSup : Bool) (t : Nat) {s : State} (hK : Keeps kb kz s) : Keeps kb kz (sieveEoi openSup t s) := by
  unfold sieveEoi
  (try dsimp only)
  with_reducible repeat' (first | (assumption) | (refine ite_keeps _ (fun _ => ?_) (fun _ => ?_)) | (refine setRegB_keeps _ _ _ _ ?_) | (refine sieveUpdate_keeps _ ?_) | (refine recPop_keeps _ ?_))

theorem sieveClrPend_keeps {kb kz} (t n : Nat) {s : State} (hK : Keeps kb kz s) : Keeps kb kz (sieveClrPend t n s) := by
  unfold sieveClrPend
  (try dsimp only)
  with_reducible repeat' (first | (assumption) | (refine ite_keeps _ (fun _ => ?_) (fun _ => ?_)) | (refine setPend_keeps _ _ _ ?_) | (refine sieveAbandon_keeps _ ?_) | (refine sieveUpdate_keeps _ ?_))

theorem sieveCfgWrite_keeps {kb kz} (who : Who) (openSup : Bool) (t n : Nat) (v : Word) {s : State} (hK : Keeps kb kz s) : Keeps kb kz (sieveCfgWrite who openSup t n v s) := by
  unfold sieveCfgWrite
  (try dsimp only)
  with_reducible repeat' (first | (assumption) | (refine ite_keeps _ (fun _ => ?_) (fun _ => ?_)) | (refine setReg_keeps _ _ _ ?_) | (refine sieveAbandon_keeps _ ?_) | (refine sieveUpdate_keeps _ ?_))

theorem wcfgWrite_keeps {kb kz} (t : Nat) (v : Word) {s : State} (hK : Keeps kb kz s) : Keeps kb kz (wcfgWrite t v s) := by
  unfold wcfgWrite
  (try dsimp only)
  with_reducible repeat' (first | (assumption) | (refine ite_keeps _ (fun _ => ?_) (fun _ => ?_)) | (refine setReg_keeps _ _ _ ?_) | (refine sieveUpdate_keeps _ ?_) | (refine sieveAbandon_keeps _ ?_) | (intro _) | (split))

theorem tmrFire_keeps {kb kz} (t : Nat) {s : State} (hK : Keeps kb kz s) : Keeps kb kz (tmrFire t s) := by
  unfold tmrFire
  (try dsimp only)
  with_reducible repeat' (first | (assumption) | (refine ite_keeps _ (fun _ => ?_) (fun _ => ?_)) | (refine raise_keeps _ _ ?_) | (refine setRegB_keeps _ _ _ _ ?_) | (refine (drawNat_keeps ?_).out) | (refine drawNat_keeps_out ?_ (by assumption)) | (refine setRegF_keeps _ _ _ _ _ ?_))

theorem tmrCmpWrite_keeps {kb kz} (t : Nat) (v : Word) {s : State} (hK : Keeps kb kz s) : Keeps kb kz (tmrCmpWrite t v s) := by
  unfold tmrCmpWrite
  (try dsimp only)
  with_reducible repeat' (first | (assumption) | (refine ite_keeps _ (fun _ => ?_) (fun _ => ?_)) | (refine setReg_keeps _ _ _ ?_) | (refine setRegB_keeps _ _ _ _ ?_) | (refine tmrFire_keeps _ ?_))

/-! ## Machine/Hopper.lean -/

theorem setHop_keeps {kb kz} (h : Nat) (x : HopQ) {s : State} (hK : Keeps kb kz s) : Keeps kb kz (setHop h x s) := by
  unfold setHop
  with_reducible repeat' (first | (assumption) | (refine ite_keeps _ (fun _ => ?_) (fun _ => ?_)) | (refine setReg_keeps _ _ _ ?_) | (intro _) | (split) | (simp only [keeps_mk, keeps1_mk, keeps2_mk, keeps3_mk, keeps4_mk]) | (refine parts_of ?_))

theorem hopNotice_keeps {kb kz} (h before : Nat) {s : State} (hK : Keeps kb kz s) : Keeps kb kz (hopNotice h before s) := by
  unfold hopNotice
  (try dsimp only)
  with_reducible repeat' (first | (assumption) | (refine ite_keeps _ (fun _ => ?_) (fun _ => ?_)) | (refine raiseUnit_keeps _ _ _ ?_))

theorem hopAccept_keeps {kb kz} (h : Nat) (item : Word) {s : State} (hK : Keeps kb kz s) : Keeps kb kz (hopAccept h item s) := by
  unfold hopAccept
  (try dsimp only)
  with_reducible repeat' (first | (assumption) | (refine ite_keeps _ (fun _ => ?_) (fun _ => ?_)) | (refine setHop_keeps _ _ ?_) | (refine tailEnd_keeps _ _ ?_) | (refine hopNotice_keeps _ _ ?_) | (refine gaugeTake_keeps _ _ _ _ ?_))

theorem hopDrop_keeps {kb kz} (h : Nat) {s : State} (hK : Keeps kb kz s) : Keeps kb kz (hopDrop h s) := by
  unfold hopDrop
  with_reducible repeat' (first | (assumption) | (refine ite_keeps _ (fun _ => ?_) (fun _ => ?_)) | (refine bumpF_keeps _ _ _ _ _ ?_))

theorem hopOffer_keeps {kb kz} (h : Nat) (item : Word) {s : State} (hK : Keeps kb kz s) : Keeps1 kb kz (hopOffer h item s) := by
  unfold hopOffer
  with_reducible repeat' (first | (assumption) | (refine ite_keeps _ (fun _ => ?_) (fun _ => ?_)) | (refine hopDrop_keeps _ ?_) | (refine hopAccept_keeps _ _ ?_) | (refine setReg_keeps _ _ _ ?_) | (intro _) | (split) | (simp only [keeps_mk, keeps1_mk, keeps2_mk, keeps3_mk, keeps4_mk]))
theorem hopOffer_keeps_out {kb kz} (h : Nat) (item : Word) {s : State} (hK : Keeps kb kz s) {x0 s₁} (hE : hopOffer h item s = (x0, s₁)) : Keeps kb kz s₁ := by
  have := hopOffer_keeps (kb := kb) (kz := kz) h item  hK
  rw [hE] at this; exact this.out

theorem hopWritePush_keeps {kb kz} (h : Nat) (item : Word) {s : State} (hK : Keeps kb kz s) : Keeps kb kz (hopWritePush h item s) := by
  unfold hopWritePush
  with_reducible repeat' (first | (assumption) | (refine ite_keeps _ (fun _ => ?_) (fun _ => ?_)) | (refine (hopOffer_keeps _ _ ?_).out) | (refine hopOffer_keeps_out _ _ ?_ (by assumption)) | (refine hopDrop_keeps _ ?_) | (refine setReg_keeps _ _ _ ?_) | (intro _) | (split))

theorem popDone_keeps {kb kz} (h : Nat) (item : Word) (l : Option Nat) (items : List Word) (back : List (Word × Nat)) {s : State} (hK : Keeps kb kz s) : Keeps kb kz (popDone h item l items back s) := by
  unfold popDone
  (try dsimp only)
  with_reducible repeat' (first | (assumption) | (refine ite_keeps _ (fun _ => ?_) (fun _ => ?_)) | (refine gaugeTake_keeps _ _ _ _ ?_) | (refine setHop_keeps _ _ ?_))

theorem hopPop_keeps {kb kz} (h : Nat) (l : Option Nat) {s : State} (hK : Keeps kb kz s) : Keeps1 kb kz (hopPop h l s) := by
  unfold hopPop
  (try dsimp only)
  with_reducible repeat' (first | (assumption) | (refine ite_keeps _ (fun _ => ?_) (fun _ => ?_)) | (refine popDone_keeps _ _ _ _ _ ?_) | (refine setReg_keeps _ _ _ ?_) | (intro _) | (split) | (simp only [keeps_mk, keeps1_mk, keeps2_mk, keeps3_mk, keeps4_mk]))
theorem hopPop_keeps_out {kb kz} (h : Nat) (l : Option Nat) {s : State} (hK : Keeps kb kz s) {x0 s₁} (hE : hopPop h l s = (x0, s₁)) : Keeps kb kz s₁ := by
  have := hopPop_keeps (kb := kb) (kz := kz) h l  hK
  rw [hE] at this; exact this.out

theorem hopTail_keeps {kb kz} (h : Nat) {s : State} (hK : Keeps kb kz s) : Keeps kb kz (hopTail h s) := by
  unfold hopTail
  (try dsimp only)
  with_reducible repeat' (first | (assumption) | (refine ite_keeps _ (fun _ => ?_) (fun _ => ?_)) | (refine setRegB_keeps _ _ _ _ ?_) | (refine setHop_keeps _ _ ?_) | (refine tailEnd_keeps _ _ ?_) | (refine raiseUnit_keeps _ _ _ ?_) | (refine bumpF_keeps _ _ _ _ _ ?_) | (refine setReg_keeps _ _ _ ?_) | (intro _) | (split))

theorem msixSend_keeps {kb kz} (v : Nat) {s : State} (hK : Keeps kb kz s) : Keeps kb kz (msixSend v s) := by
  unfold msixSend
  (try dsimp only)
  with_reducible repeat' (first | (assumption) | (refine ite_keeps _ (fun _ => ?_) (fun _ => ?_)) | (refine emit_keeps _ ?_) | (refine setReg_keeps _ _ _ ?_) | (intro _) | (split) | (simp only [keeps_mk, keeps1_mk, keeps2_mk, keeps3_mk, keeps4_mk]) | (refine parts_of ?_))

theorem pageDeliver_keeps {kb kz} (pg : Nat) {s : State} (hK : Keeps kb kz s) : Keeps kb kz (pageDeliver pg s) := by
  unfold pageDeliver
  (try dsimp only)
  with_reducible repeat' (first | (assumption) | (refine ite_keeps _ (fun _ => ?_) (fun _ => ?_)) | (refine (hopOffer_keeps _ _ ?_).out) | (refine hopOffer_keeps_out _ _ ?_ (by assumption)) | (refine setRegB_keeps _ _ _ _ ?_) | (refine hopDrop_keeps _ ?_) | (refine msixSend_keeps _ ?_) | (refine setReg_keeps _ _ _ ?_) | (intro _) | (split))

theorem pageIrq_keeps {kb kz} (pg n : Nat) {s : State} (hK : Keeps kb kz s) : Keeps kb kz (pageIrq pg n s) := by
  unfold pageIrq
  (try dsimp only)
  with_reducible repeat' (first | (assumption) | (refine ite_keeps _ (fun _ => ?_) (fun _ => ?_)) | (refine setRegB_keeps _ _ _ _ ?_) | (refine pageDeliver_keeps _ ?_))

/-! ## Machine/Health.lean -/

theorem nursDecide_keeps {kb kz} (t cause : Nat) {s : State} (hK : Keeps kb kz s) : Keeps kb kz (nursDecide t cause s) := by
  unfold nursDecide
  (try dsimp only)
  with_reducible repeat' (first | (assumption) | (refine ite_keeps _ (fun _ => ?_) (fun _ => ?_)) | (refine modTine_keeps _ _ ?_) | (refine bumpF_keeps _ _ _ _ _ ?_) | (refine setReg_keeps _ _ _ ?_) | (intro _) | (split) | (simp only [keeps_mk, keeps1_mk, keeps2_mk, keeps3_mk, keeps4_mk]) | (refine parts_of ?_))

theorem lockClr_keeps {kb kz}  {s : State} (hK : Keeps kb kz s) : Keeps kb kz (lockClr s) := by
  unfold lockClr
  (try dsimp only)
  with_reducible repeat' (first | (assumption) | (refine ite_keeps _ (fun _ => ?_) (fun _ => ?_)) | (refine setReg_keeps _ _ _ ?_) | (intro _) | (split) | (simp only [keeps_mk, keeps1_mk, keeps2_mk, keeps3_mk, keeps4_mk]) | (refine parts_of ?_))

theorem lockRemove_keeps {kb kz} (t : Nat) {s : State} (hK : Keeps kb kz s) : Keeps kb kz (lockRemove t s) := by
  unfold lockRemove
  with_reducible repeat' (first | (assumption) | (refine ite_keeps _ (fun _ => ?_) (fun _ => ?_)) | (refine lockClr_keeps ?_) | (refine setReg_keeps _ _ _ ?_) | (intro _) | (split) | (simp only [keeps_mk, keeps1_mk, keeps2_mk, keeps3_mk, keeps4_mk]) | (refine parts_of ?_))

theorem thirdFault_keeps {kb kz} (t : Nat) {s : State} (hK : Keeps kb kz s) : Keeps kb kz (thirdFault t s) := by
  unfold thirdFault
  (try dsimp only)
  with_reducible repeat' (first | (assumption) | (refine ite_keeps _ (fun _ => ?_) (fun _ => ?_)) | (refine modTine_keeps _ _ ?_) | (refine setReg_keeps _ _ _ ?_) | (refine frecAdd_keeps _ _ _ ?_) | (refine nursDecide_keeps _ _ ?_) | (intro _) | (split) | (simp only [keeps_mk, keeps1_mk, keeps2_mk, keeps3_mk, keeps4_mk]) | (refine parts_of ?_))

theorem nursTrayUe_keeps {kb kz} (t : Nat) {s : State} (hK : Keeps kb kz s) : Keeps kb kz (nursTrayUe t s) := by
  unfold nursTrayUe
  (try dsimp only)
  with_reducible repeat' (first | (assumption) | (refine ite_keeps _ (fun _ => ?_) (fun _ => ?_)) | (refine modTine_keeps _ _ ?_) | (refine nursDecide_keeps _ _ ?_))

theorem eccLast_keeps {kb kz} (pg pa : Nat) (isUe weeder : Bool) {s : State} (hK : Keeps kb kz s) : Keeps kb kz (eccLast pg pa isUe weeder s) := by
  unfold eccLast
  generalize 2 ^ 39 = a
  dsimp only
  refine ite_keeps _ (fun _ => ?_) (fun _ => ?_)
  · assumption
  · exact setReg_keeps _ _ _ hK

theorem eccEvent_keeps {kb kz} (pa : Nat) (isUe weeder : Bool) (src : Nat) {s : State} (hK : Keeps kb kz s) : Keeps kb kz (eccEvent pa isUe weeder src s) := by
  unfold eccEvent
  (try dsimp only)
  with_reducible repeat' (first | (assumption) | (refine ite_keeps _ (fun _ => ?_) (fun _ => ?_)) | (refine eccLast_keeps _ _ _ _ ?_) | (refine bumpF_keeps _ _ _ _ _ ?_) | (refine pageIrq_keeps _ _ ?_) | (refine frecAdd_keeps _ _ _ ?_) | (refine nursTrayUe_keeps _ ?_) | (refine setReg_keeps _ _ _ ?_) | (intro _) | (split))

/-! ## Machine/Mem.lean -/

theorem ueMark_keeps {kb kz} (pa : Nat) {s : State} (hK : Keeps kb kz s) : Keeps kb kz (ueMark pa s) := by
  unfold ueMark
  with_reducible repeat' (first | (assumption) | (refine ite_keeps _ (fun _ => ?_) (fun _ => ?_)) | (refine setReg_keeps _ _ _ ?_) | (intro _) | (split) | (simp only [keeps_mk, keeps1_mk, keeps2_mk, keeps3_mk, keeps4_mk]) | (refine parts_of ?_))

theorem ueClear_keeps {kb kz} (pa : Nat) {s : State} (hK : Keeps kb kz s) : Keeps kb kz (ueClear pa s) := by
  unfold ueClear
  with_reducible repeat' (first | (assumption) | (refine ite_keeps _ (fun _ => ?_) (fun _ => ?_)) | (refine setReg_keeps _ _ _ ?_) | (intro _) | (split) | (simp only [keeps_mk, keeps1_mk, keeps2_mk, keeps3_mk, keeps4_mk]) | (refine parts_of ?_))

theorem memPut_keeps {kb kz} (pa : Nat) (v : Word) {s : State} (hK : Keeps kb kz s) : Keeps kb kz (memPut pa v s) := by
  unfold memPut
  (try dsimp only)
  with_reducible repeat' (first | (assumption) | (refine ite_keeps _ (fun _ => ?_) (fun _ => ?_)) | (refine ueClear_keeps _ ?_) | (refine setReg_keeps _ _ _ ?_) | (intro _) | (split) | (simp only [keeps_mk, keeps1_mk, keeps2_mk, keeps3_mk, keeps4_mk]) | (refine parts_of ?_) | (refine parts_set _ _ ?_))

theorem symRead_keeps {kb kz} (pa : Nat) (errs : List (Nat × Nat)) (weeder : Bool) (src : Nat) {s : State} (hK : Keeps kb kz s) : Keeps1 kb kz (symRead pa errs weeder src s) := by
  unfold symRead
  (try dsimp only)
  with_reducible repeat' (first | (assumption) | (refine ite_keeps _ (fun _ => ?_) (fun _ => ?_)) | (refine forAll_keeps _ _ ?_ ?_) | (refine eccEvent_keeps _ _ _ _ ?_) | (refine ueMark_keeps _ ?_) | (refine memPut_keeps _ _ ?_) | (refine setReg_keeps _ _ _ ?_) | (intro _) | (split) | (simp only [keeps_mk, keeps1_mk, keeps2_mk, keeps3_mk, keeps4_mk]))
theorem symRead_keeps_out {kb kz} (pa : Nat) (errs : List (Nat × Nat)) (weeder : Bool) (src : Nat) {s : State} (hK : Keeps kb kz s) {x0 s₁} (hE : symRead pa errs weeder src s = (x0, s₁)) : Keeps kb kz s₁ := by
  have := symRead_keeps (kb := kb) (kz := kz) pa errs weeder src  hK
  rw [hE] at this; exact this.out

theorem memRead_keeps {kb kz} (pa : Nat) (up : Upset) (src : Nat) {s : State} (hK : Keeps kb kz s) : Keeps1 kb kz (memRead pa up src s) := by
  unfold memRead
  with_reducible repeat' (first | (assumption) | (refine ite_keeps _ (fun _ => ?_) (fun _ => ?_)) | (refine eccEvent_keeps _ _ _ _ ?_) | (refine ueMark_keeps _ ?_) | (refine (symRead_keeps _ _ _ _ ?_).out) | (refine symRead_keeps_out _ _ _ _ ?_ (by assumption)) | (refine setReg_keeps _ _ _ ?_) | (intro _) | (split) | (refine symRead_keeps _ _ _ _ ?_) | (simp only [keeps_mk, keeps1_mk, keeps2_mk, keeps3_mk, keeps4_mk]))
theorem memRead_keeps_out {kb kz} (pa : Nat) (up : Upset) (src : Nat) {s : State} (hK : Keeps kb kz s) {x0 s₁} (hE : memRead pa up src s = (x0, s₁)) : Keeps kb kz s₁ := by
  have := memRead_keeps (kb := kb) (kz := kz) pa up src  hK
  rw [hE] at this; exact this.out

theorem tableUpset_keeps {kb kz}  {s : State} (hK : Keeps kb kz s) : Keeps1 kb kz (tableUpset s) := by
  unfold tableUpset
  (try dsimp only)
  with_reducible repeat' (first | (assumption) | (refine ite_keeps _ (fun _ => ?_) (fun _ => ?_)) | (refine (drawNat_keeps ?_).out) | (refine drawNat_keeps_out ?_ (by assumption)) | (refine setReg_keeps _ _ _ ?_) | (intro _) | (split) | (refine drawNat_keeps ?_) | (simp only [keeps_mk, keeps1_mk, keeps2_mk, keeps3_mk, keeps4_mk]) | (refine parts_of ?_))
theorem tableUpset_keeps_out {kb kz}  {s : State} (hK : Keeps kb kz s) {x0 s₁} (hE : tableUpset s = (x0, s₁)) : Keeps kb kz s₁ := by
  have := tableUpset_keeps (kb := kb) (kz := kz)   hK
  rw [hE] at this; exact this.out

theorem tableRead_keeps {kb kz} (src pa : Nat) {s : State} (hK : Keeps kb kz s) : Keeps1 kb kz (tableRead src pa s) := by
  unfold tableRead
  (try dsimp only)
  with_reducible repeat' (first | (assumption) | (refine ite_keeps _ (fun _ => ?_) (fun _ => ?_)) | (refine (tableUpset_keeps ?_).out) | (refine tableUpset_keeps_out ?_ (by assumption)) | (refine (memRead_keeps _ _ _ ?_).out) | (refine memRead_keeps_out _ _ _ ?_ (by assumption)) | (refine setReg_keeps _ _ _ ?_) | (intro _) | (split) | (refine tableUpset_keeps ?_) | (refine memRead_keeps _ _ _ ?_) | (simp only [keeps_mk, keeps1_mk, keeps2_mk, keeps3_mk, keeps4_mk]))
theorem tableRead_keeps_out {kb kz} (src pa : Nat) {s : State} (hK : Keeps kb kz s) {x0 s₁} (hE : tableRead src pa s = (x0, s₁)) : Keeps kb kz s₁ := by
  have := tableRead_keeps (kb := kb) (kz := kz) src pa  hK
  rw [hE] at this; exact this.out

theorem xlatWalk_keeps {kb kz} (src : Nat) (tineReq : Bool) (root v : Nat) {s : State} (hK : Keeps kb kz s) : Keeps1 kb kz (xlatWalk src tineReq root v s) := by
  unfold xlatWalk
  (try dsimp only)
  with_reducible repeat' (first | (assumption) | (refine ite_keeps _ (fun _ => ?_) (fun _ => ?_)) | (refine (tableRead_keeps _ _ ?_).out) | (refine tableRead_keeps_out _ _ ?_ (by assumption)) | (refine setReg_keeps _ _ _ ?_) | (intro _) | (split) | (refine tableRead_keeps _ _ ?_) | (simp only [keeps_mk, keeps1_mk, keeps2_mk, keeps3_mk, keeps4_mk]))
theorem xlatWalk_keeps_out {kb kz} (src : Nat) (tineReq : Bool) (root v : Nat) {s : State} (hK : Keeps kb kz s) {x0 s₁} (hE : xlatWalk src tineReq root v s = (x0, s₁)) : Keeps kb kz s₁ := by
  have := xlatWalk_keeps (kb := kb) (kz := kz) src tineReq root v  hK
  rw [hE] at this; exact this.out

theorem cacheInsert_keeps {kb kz} (size : Nat) (l : XLeaf) (c : List XLeaf) {s : State} (hK : Keeps kb kz s) : Keeps1 kb kz (cacheInsert size l c s) := by
  unfold cacheInsert
  (try dsimp only)
  with_reducible repeat' (first | (assumption) | (refine ite_keeps _ (fun _ => ?_) (fun _ => ?_)) | (refine (drawNat_keeps ?_).out) | (refine drawNat_keeps_out ?_ (by assumption)) | (refine setReg_keeps _ _ _ ?_) | (intro _) | (split) | (refine drawNat_keeps ?_) | (simp only [keeps_mk, keeps1_mk, keeps2_mk, keeps3_mk, keeps4_mk]))
theorem cacheInsert_keeps_out {kb kz} (size : Nat) (l : XLeaf) (c : List XLeaf) {s : State} (hK : Keeps kb kz s) {x0 s₁} (hE : cacheInsert size l c s = (x0, s₁)) : Keeps kb kz s₁ := by
  have := cacheInsert_keeps (kb := kb) (kz := kz) size l c  hK
  rw [hE] at this; exact this.out

theorem tineXlat_keeps {kb kz} (t v : Nat) (a : Acc) {s : State} (hK : Keeps kb kz s) : Keeps1 kb kz (tineXlat t v a s) := by
  unfold tineXlat
  (try dsimp only)
  with_reducible repeat' (first | (assumption) | (refine ite_keeps _ (fun _ => ?_) (fun _ => ?_)) | (refine (xlatWalk_keeps _ _ _ _ ?_).out) | (refine xlatWalk_keeps_out _ _ _ _ ?_ (by assumption)) | (refine (cacheInsert_keeps _ _ _ ?_).out) | (refine cacheInsert_keeps_out _ _ _ ?_ (by assumption)) | (refine modTine_keeps _ _ ?_) | (refine setReg_keeps _ _ _ ?_) | (intro _) | (split) | (refine xlatWalk_keeps _ _ _ _ ?_) | (refine cacheInsert_keeps _ _ _ ?_) | (simp only [keeps_mk, keeps1_mk, keeps2_mk, keeps3_mk, keeps4_mk]))
theorem tineXlat_keeps_out {kb kz} (t v : Nat) (a : Acc) {s : State} (hK : Keeps kb kz s) {x0 s₁} (hE : tineXlat t v a s = (x0, s₁)) : Keeps kb kz s₁ := by
  have := tineXlat_keeps (kb := kb) (kz := kz) t v a  hK
  rw [hE] at this; exact this.out

theorem chanXlat_keeps {kb kz} (c v : Nat) (a : Acc) (fetch : Bool) {s : State} (hK : Keeps kb kz s) : Keeps1 kb kz (chanXlat c v a fetch s) := by
  unfold chanXlat
  (try dsimp only)
  with_reducible repeat' (first | (assumption) | (refine ite_keeps _ (fun _ => ?_) (fun _ => ?_)) | (refine (xlatWalk_keeps _ _ _ _ ?_).out) | (refine xlatWalk_keeps_out _ _ _ _ ?_ (by assumption)) | (refine (cacheInsert_keeps _ _ _ ?_).out) | (refine cacheInsert_keeps_out _ _ _ ?_ (by assumption)) | (refine setReg_keeps _ _ _ ?_) | (intro _) | (split) | (refine xlatWalk_keeps _ _ _ _ ?_) | (refine cacheInsert_keeps _ _ _ ?_) | (simp only [keeps_mk, keeps1_mk, keeps2_mk, keeps3_mk, keeps4_mk]) | (refine parts_of ?_))
theorem chanXlat_keeps_out {kb kz} (c v : Nat) (a : Acc) (fetch : Bool) {s : State} (hK : Keeps kb kz s) {x0 s₁} (hE : chanXlat c v a fetch s = (x0, s₁)) : Keeps kb kz s₁ := by
  have := chanXlat_keeps (kb := kb) (kz := kz) c v a fetch  hK
  rw [hE] at this; exact this.out

/-! ## Machine/ChainLink.lean -/

theorem setPort_keeps {kb kz} (p : Nat) (x : Port) {s : State} (hK : Keeps kb kz s) : Keeps kb kz (setPort p x s) := by
  unfold setPort
  with_reducible repeat' (first | (assumption) | (refine ite_keeps _ (fun _ => ?_) (fun _ => ?_)) | (refine setReg_keeps _ _ _ ?_) | (intro _) | (split) | (simp only [keeps_mk, keeps1_mk, keeps2_mk, keeps3_mk, keeps4_mk]) | (refine parts_of ?_))

theorem portQueue_keeps {kb kz} (p : Nat) (c : Cell) {s : State} (hK : Keeps kb kz s) : Keeps kb kz (portQueue p c s) := by
  unfold portQueue
  (try dsimp only)
  with_reducible repeat' (first | (assumption) | (refine ite_keeps _ (fun _ => ?_) (fun _ => ?_)) | (refine setPort_keeps _ _ ?_))

theorem fwdLost_keeps {kb kz} (src tag : Nat) {s : State} (hK : Keeps kb kz s) : Keeps kb kz (fwdLost src tag s) := by
  unfold fwdLost
  with_reducible repeat' (first | (assumption) | (refine ite_keeps _ (fun _ => ?_) (fun _ => ?_)) | (refine portQueue_keeps _ _ ?_))

theorem cellForward_keeps {kb kz} (p : Nat) (c : Cell) {s : State} (hK : Keeps kb kz s) : Keeps kb kz (cellForward p c s) := by
  unfold cellForward
  (try dsimp only)
  with_reducible repeat' (first | (assumption) | (refine ite_keeps _ (fun _ => ?_) (fun _ => ?_)) | (refine portQueue_keeps _ _ ?_) | (refine fwdLost_keeps _ _ ?_) | (refine setReg_keeps _ _ _ ?_) | (intro _) | (split) | (simp only [keeps_mk, keeps1_mk, keeps2_mk, keeps3_mk, keeps4_mk]) | (refine parts_of ?_))

theorem cellRoute_keeps {kb kz} (c : Cell) {s : State} (hK : Keeps kb kz s) : Keeps kb kz (cellRoute c s) := by
  unfold cellRoute
  with_reducible repeat' (first | (assumption) | (refine ite_keeps _ (fun _ => ?_) (fun _ => ?_)) | (refine cellForward_keeps _ _ ?_) | (refine setReg_keeps _ _ _ ?_) | (intro _) | (split) | (simp only [keeps_mk, keeps1_mk, keeps2_mk, keeps3_mk, keeps4_mk]) | (refine parts_of ?_))

theorem chainWriteReq_keeps {kb kz} (cls dst n : Nat) (ws : List Word) {s : State} (hK : Keeps kb kz s) : Keeps kb kz (chainWriteReq cls dst n ws s) := by
  unfold chainWriteReq
  with_reducible repeat' (first | (assumption) | (refine ite_keeps _ (fun _ => ?_) (fun _ => ?_)) | (refine cellRoute_keeps _ ?_))

theorem chainReadReq_keeps {kb kz} (src dst n pa : Nat) {s : State} (hK : Keeps kb kz s) : Keeps kb kz (chainReadReq src dst n pa s) := by
  unfold chainReadReq
  (try dsimp only)
  with_reducible repeat' (first | (assumption) | (refine ite_keeps _ (fun _ => ?_) (fun _ => ?_)) | (refine cellRoute_keeps _ ?_) | (refine setReg_keeps _ _ _ ?_) | (intro _) | (split) | (simp only [keeps_mk, keeps1_mk, keeps2_mk, keeps3_mk, keeps4_mk]) | (refine parts_of ?_))

theorem chainTake_keeps {kb kz} (src pa : Nat) {s : State} (hK : Keeps kb kz s) : Keeps kb kz (chainTake src pa s) := by
  unfold chainTake
  with_reducible repeat' (first | (assumption) | (refine ite_keeps _ (fun _ => ?_) (fun _ => ?_)) | (refine setReg_keeps _ _ _ ?_) | (intro _) | (split) | (simp only [keeps_mk, keeps1_mk, keeps2_mk, keeps3_mk, keeps4_mk]) | (refine parts_of ?_))

theorem raiseChain_keeps {kb kz} (cls n : Nat) {s : State} (hK : Keeps kb kz s) : Keeps kb kz (raiseChain cls n s) := by
  unfold raiseChain
  (try dsimp only)
  with_reducible repeat' (first | (assumption) | (refine ite_keeps _ (fun _ => ?_) (fun _ => ?_)) | (refine forAll_keeps _ _ ?_ ?_) | (refine raiseDev_keeps _ ?_) | (refine cellRoute_keeps _ ?_) | (refine noteRR_keeps _ _ ?_) | (refine setReg_keeps _ _ _ ?_) | (intro _) | (split) | (simp only [keeps_mk, keeps1_mk, keeps2_mk, keeps3_mk, keeps4_mk]) | (refine parts_of ?_))

theorem setMbox_keeps {kb kz} (u : MUnit) (l : List Word) {s : State} (hK : Keeps kb kz s) : Keeps kb kz (setMbox u l s) := by
  unfold setMbox
  with_reducible repeat' (first | (assumption) | (refine ite_keeps _ (fun _ => ?_) (fun _ => ?_)) | (refine setReg_keeps _ _ _ ?_) | (intro _) | (split) | (simp only [keeps_mk, keeps1_mk, keeps2_mk, keeps3_mk, keeps4_mk]) | (refine parts_of ?_))

theorem mboxDrop_keeps {kb kz} (u : MUnit) {s : State} (hK : Keeps kb kz s) : Keeps kb kz (mboxDrop u s) := by
  unfold mboxDrop
  with_reducible repeat' (first | (assumption) | (refine ite_keeps _ (fun _ => ?_) (fun _ => ?_)) | (refine bumpF_keeps _ _ _ _ _ ?_))

theorem mboxRefuse_keeps {kb kz} (w : Who) (u : MUnit) {s : State} (hK : Keeps kb kz s) : Keeps kb kz (mboxRefuse w u s) := by
  unfold mboxRefuse
  (try dsimp only)
  with_reducible repeat' (first | (assumption) | (refine ite_keeps _ (fun _ => ?_) (fun _ => ?_)) | (refine mboxDrop_keeps _ ?_) | (refine bumpF_keeps _ _ _ _ _ ?_))

theorem mboxEvent_keeps {kb kz} (u : MUnit) {s : State} (hK : Keeps kb kz s) : Keeps kb kz (mboxEvent u s) := by
  unfold mboxEvent
  with_reducible repeat' (first | (assumption) | (refine ite_keeps _ (fun _ => ?_) (fun _ => ?_)) | (refine raisePlot_keeps _ _ ?_) | (refine raiseLog_keeps _ _ ?_) | (refine raiseBed_keeps _ _ ?_) | (refine raiseDev_keeps _ ?_) | (refine raiseChain_keeps _ _ ?_) | (refine setReg_keeps _ _ _ ?_) | (intro _) | (split))

theorem mboxAccept_keeps {kb kz} (u : MUnit) (item : Word) {s : State} (hK : Keeps kb kz s) : Keeps kb kz (mboxAccept u item s) := by
  unfold mboxAccept
  with_reducible repeat' (first | (assumption) | (refine ite_keeps _ (fun _ => ?_) (fun _ => ?_)) | (refine mboxEvent_keeps _ ?_) | (refine setMbox_keeps _ _ ?_))

theorem mboxOffer_keeps {kb kz} (w : Who) (u : MUnit) (item : Word) {s : State} (hK : Keeps kb kz s) : Keeps1 kb kz (mboxOffer w u item s) := by
  unfold mboxOffer
  with_reducible repeat' (first | (assumption) | (refine ite_keeps _ (fun _ => ?_) (fun _ => ?_)) | (refine mboxRefuse_keeps _ _ ?_) | (refine mboxAccept_keeps _ _ ?_) | (refine setReg_keeps _ _ _ ?_) | (intro _) | (split) | (simp only [keeps_mk, keeps1_mk, keeps2_mk, keeps3_mk, keeps4_mk]))
theorem mboxOffer_keeps_out {kb kz} (w : Who) (u : MUnit) (item : Word) {s : State} (hK : Keeps kb kz s) {x0 s₁} (hE : mboxOffer w u item s = (x0, s₁)) : Keeps kb kz s₁ := by
  have := mboxOffer_keeps (kb := kb) (kz := kz) w u item  hK
  rw [hE] at this; exact this.out

theorem mboxTake_keeps {kb kz} (u : MUnit) {s : State} (hK : Keeps kb kz s) : Keeps1 kb kz (mboxTake u s) := by
  unfold mboxTake
  with_reducible repeat' (first | (assumption) | (refine ite_keeps _ (fun _ => ?_) (fun _ => ?_)) | (refine setMbox_keeps _ _ ?_) | (refine setReg_keeps _ _ _ ?_) | (intro _) | (split) | (simp only [keeps_mk, keeps1_mk, keeps2_mk, keeps3_mk, keeps4_mk]))
theorem mboxTake_keeps_out {kb kz} (u : MUnit) {s : State} (hK : Keeps kb kz s) {x0 s₁} (hE : mboxTake u s = (x0, s₁)) : Keeps kb kz s₁ := by
  have := mboxTake_keeps (kb := kb) (kz := kz) u  hK
  rw [hE] at this; exact this.out

end Sys2Proof.Machine
end

