-- ==== Sys2Proof/Laws/KeepsTineOps.lean ====
section
/-! SUPPORT. Laws that say, operation by operation, that the canonical form, the queue and OTP are kept: what tine instructions share, sessions and the Nursery. -/

namespace Sys2Proof.Machine

/-! ## Machine/TineOps.lean -/

theorem enqueue_keeps {kb kz} (t : Nat) (i : Instr) {s : State} (hK : Keeps kb kz s) : Keeps kb kz (enqueue t i s) := by
  unfold enqueue
  with_reducible repeat' (first | (assumption) | (refine ite_keeps _ (fun _ => ?_) (fun _ => ?_)) | (refine modTine_keeps _ _ ?_))

theorem illegal_keeps {kb kz} (t : Nat) {s : State} (hK : Keeps kb kz s) : Keeps kb kz (illegal t s) := by
  unfold illegal
  with_reducible repeat' (first | (assumption) | (refine ite_keeps _ (fun _ => ?_) (fun _ => ?_)) | (refine recordFault_keeps _ _ ?_))

theorem privFault_keeps {kb kz} (t : Nat) {s : State} (hK : Keeps kb kz s) : Keeps kb kz (privFault t s) := by
  unfold privFault
  with_reducible repeat' (first | (assumption) | (refine ite_keeps _ (fun _ => ?_) (fun _ => ?_)) | (refine recordFault_keeps _ _ ?_))

theorem issueHead_keeps {kb kz} (t : Nat) (f : State → State) {s : State} (h_f : ∀  s, Keeps kb kz s → Keeps kb kz (f  s)) (hK : Keeps kb kz s) : Keeps kb kz (issueHead t f s) := by
  unfold issueHead
  (try dsimp only)
  with_reducible repeat' (first | (assumption) | (refine ite_keeps _ (fun _ => ?_) (fun _ => ?_)) | (refine recordFault_keeps _ _ ?_) | (refine setReg_keeps _ _ _ ?_) | (apply h_f))

theorem issue_keeps {kb kz} (t : Nat) (i : Instr) (f : State → State) {s : State} (h_f : ∀  s, Keeps kb kz s → Keeps kb kz (f  s)) (hK : Keeps kb kz s) : Keeps kb kz (issue t i f s) := by
  unfold issue
  with_reducible repeat' (first | (assumption) | (refine ite_keeps _ (fun _ => ?_) (fun _ => ?_)) | (refine issueHead_keeps _ _ ?_ ?_) | (refine enqueue_keeps _ _ ?_))

theorem haltNow_keeps {kb kz} (t : Nat) (probe : Bool) {s : State} (hK : Keeps kb kz s) : Keeps kb kz (haltNow t probe s) := by
  unfold haltNow
  with_reducible repeat' (first | (assumption) | (refine ite_keeps _ (fun _ => ?_) (fun _ => ?_)) | (refine modTine_keeps _ _ ?_))

theorem haltHeld_keeps {kb kz} (t : Nat) {s : State} (hK : Keeps kb kz s) : Keeps kb kz (haltHeld t s) := by
  unfold haltHeld
  with_reducible repeat' (first | (assumption) | (refine ite_keeps _ (fun _ => ?_) (fun _ => ?_)) | (refine haltNow_keeps _ _ ?_) | (refine setReg_keeps _ _ _ ?_) | (intro _) | (split))

theorem haltCheck_keeps {kb kz} (t : Nat) {s : State} (hK : Keeps kb kz s) : Keeps kb kz (haltCheck t s) := by
  unfold haltCheck
  with_reducible repeat' (first | (assumption) | (refine ite_keeps _ (fun _ => ?_) (fun _ => ?_)) | (refine modTine_keeps _ _ ?_) | (refine haltHeld_keeps _ ?_) | (refine setReg_keeps _ _ _ ?_) | (intro _) | (split))

theorem loopTest_keeps {kb kz} (t : Nat) (addrs : List (BitVec 14)) (next : BitVec 14) {s : State} (hK : Keeps kb kz s) : Keeps1 kb kz (loopTest t addrs next s) := by
  unfold loopTest
  (try dsimp only)
  with_reducible repeat' (first | (assumption) | (refine ite_keeps _ (fun _ => ?_) (fun _ => ?_)) | (refine setReg_keeps _ _ _ ?_) | (refine setRegF_keeps _ _ _ _ _ ?_) | (intro _) | (split) | (simp only [keeps_mk, keeps1_mk, keeps2_mk, keeps3_mk, keeps4_mk]))
theorem loopTest_keeps_out {kb kz} (t : Nat) (addrs : List (BitVec 14)) (next : BitVec 14) {s : State} (hK : Keeps kb kz s) {x0 s₁} (hE : loopTest t addrs next s = (x0, s₁)) : Keeps kb kz s₁ := by
  have := loopTest_keeps (kb := kb) (kz := kz) t addrs next  hK
  rw [hE] at this; exact this.out

theorem setPc_keeps {kb kz} (t : Nat) (a : BitVec 14) {s : State} (hK : Keeps kb kz s) : Keeps kb kz (setPc t a s) := by
  unfold setPc
  with_reducible repeat' (first | (assumption) | (refine ite_keeps _ (fun _ => ?_) (fun _ => ?_)) | (refine modTine_keeps _ _ ?_))

theorem advance_keeps {kb kz} (t len : Nat) {s : State} (hK : Keeps kb kz s) : Keeps kb kz (advance t len s) := by
  unfold advance
  (try dsimp only)
  with_reducible repeat' (first | (assumption) | (refine ite_keeps _ (fun _ => ?_) (fun _ => ?_)) | (refine setRegF_keeps _ _ _ _ _ ?_) | (refine setReg_keeps _ _ _ ?_) | (refine (loopTest_keeps _ _ _ ?_).out) | (refine loopTest_keeps_out _ _ _ ?_ (by assumption)) | (refine setPc_keeps _ _ ?_))

theorem retireEnd_keeps {kb kz} (t : Nat) (opener : Bool) {s : State} (hK : Keeps kb kz s) : Keeps kb kz (retireEnd t opener s) := by
  unfold retireEnd
  (try dsimp only)
  with_reducible repeat' (first | (assumption) | (refine ite_keeps _ (fun _ => ?_) (fun _ => ?_)) | (refine alive_keeps _ ?_) | (refine wrapF_keeps _ _ _ _ _ ?_) | (refine setReg_keeps _ _ _ ?_) | (refine sieveUpdate_keeps _ ?_) | (refine haltCheck_keeps _ ?_) | (refine modTine_keeps _ _ ?_))

theorem retire_keeps {kb kz} (t len : Nat) {s : State} (hK : Keeps kb kz s) : Keeps kb kz (retire t len s) := by
  unfold retire
  with_reducible repeat' (first | (assumption) | (refine ite_keeps _ (fun _ => ?_) (fun _ => ?_)) | (refine retireEnd_keeps _ _ ?_) | (refine advance_keeps _ _ ?_))

theorem retireTo_keeps {kb kz} (t : Nat) (a : BitVec 14) {s : State} (hK : Keeps kb kz s) : Keeps kb kz (retireTo t a s) := by
  unfold retireTo
  with_reducible repeat' (first | (assumption) | (refine ite_keeps _ (fun _ => ?_) (fun _ => ?_)) | (refine retireEnd_keeps _ _ ?_) | (refine setPc_keeps _ _ ?_))

theorem putFlags_keeps {kb kz} (t : Nat) (f : FlagSet) {s : State} (hK : Keeps kb kz s) : Keeps kb kz (putFlags t f s) := by
  unfold putFlags
  with_reducible repeat' (first | (assumption) | (refine ite_keeps _ (fun _ => ?_) (fun _ => ?_)) | (refine setRegF_keeps _ _ _ _ _ ?_) | (refine setRegB_keeps _ _ _ _ ?_) | (refine setReg_keeps _ _ _ ?_) | (intro _) | (split))

theorem satFlag_keeps {kb kz} (t k : Nat) {s : State} (hK : Keeps kb kz s) : Keeps kb kz (satFlag t k s) := by
  unfold satFlag
  (try dsimp only)
  with_reducible repeat' (first | (assumption) | (refine ite_keeps _ (fun _ => ?_) (fun _ => ?_)) | (refine setRegB_keeps _ _ _ _ ?_) | (refine bumpF_keeps _ _ _ _ _ ?_) | (refine modTine_keeps _ _ ?_))

theorem arithTrap_keeps {kb kz} (t : Nat) (sats : List Nat) {s : State} (hK : Keeps kb kz s) : Keeps kb kz (arithTrap t sats s) := by
  unfold arithTrap
  (try dsimp only)
  with_reducible repeat' (first | (assumption) | (refine ite_keeps _ (fun _ => ?_) (fun _ => ?_)) | (refine recordFault_keeps _ _ ?_))

theorem retireSat_keeps {kb kz} (t len : Nat) (sats : List Nat) {s : State} (hK : Keeps kb kz s) : Keeps kb kz (retireSat t len sats s) := by
  unfold retireSat
  (try dsimp only)
  with_reducible repeat' (first | (assumption) | (refine ite_keeps _ (fun _ => ?_) (fun _ => ?_)) | (refine forAll_keeps _ _ ?_ ?_) | (refine arithTrap_keeps _ _ ?_) | (refine satFlag_keeps _ _ ?_) | (refine retire_keeps _ _ ?_) | (refine setReg_keeps _ _ _ ?_) | (intro _))

theorem aluRetire_keeps {kb kz} (t : Nat) (gd : Gr) (r : AluOut) (len : Nat) {s : State} (hK : Keeps kb kz s) : Keeps kb kz (aluRetire t gd r len s) := by
  unfold aluRetire
  with_reducible repeat' (first | (assumption) | (refine ite_keeps _ (fun _ => ?_) (fun _ => ?_)) | (refine retireSat_keeps _ _ _ ?_) | (refine putFlags_keeps _ _ ?_) | (refine setG_keeps _ _ _ ?_))

theorem cmpRetire_keeps {kb kz} (t : Nat) (r : AluOut) (len : Nat) {s : State} (hK : Keeps kb kz s) : Keeps kb kz (cmpRetire t r len s) := by
  unfold cmpRetire
  with_reducible repeat' (first | (assumption) | (refine ite_keeps _ (fun _ => ?_) (fun _ => ?_)) | (refine retire_keeps _ _ ?_) | (refine putFlags_keeps _ _ ?_))

theorem saveSet_keeps {kb kz} (t k : Nat) (spc sst sls : Word) {s : State} (hK : Keeps kb kz s) : Keeps kb kz (saveSet t k spc sst sls s) := by
  unfold saveSet
  with_reducible repeat' (first | (assumption) | (refine ite_keeps _ (fun _ => ?_) (fun _ => ?_)) | (refine setReg_keeps _ _ _ ?_))

theorem entryLstat_keeps {kb kz} (t : Nat) {s : State} (hK : Keeps kb kz s) : Keeps kb kz (entryLstat t s) := by
  unfold entryLstat
  (try dsimp only)
  with_reducible repeat' (first | (assumption) | (refine ite_keeps _ (fun _ => ?_) (fun _ => ?_)) | (refine setReg_keeps _ _ _ ?_))

theorem abandon_keeps {kb kz} (t : Nat) {s : State} (hK : Keeps kb kz s) : Keeps kb kz (abandon t s) := by
  unfold abandon
  with_reducible repeat' (first | (assumption) | (refine ite_keeps _ (fun _ => ?_) (fun _ => ?_)) | (refine modTine_keeps _ _ ?_))

theorem enterLevel_keeps {kb kz} (t lvl : Nat) (w : Bool) (pc : Nat) {s : State} (hK : Keeps kb kz s) : Keeps kb kz (enterLevel t lvl w pc s) := by
  unfold enterLevel
  (try dsimp only)
  with_reducible repeat' (first | (assumption) | (refine ite_keeps _ (fun _ => ?_) (fun _ => ?_)) | (refine entryLstat_keeps _ ?_) | (refine setReg_keeps _ _ _ ?_) | (refine modTine_keeps _ _ ?_) | (refine abandon_keeps _ ?_))

theorem vectorRead_keeps {kb kz} (t : Nat) (w : Bool) (index : Nat) (up : Upset) {s : State} (hK : Keeps kb kz s) : Keeps1 kb kz (vectorRead t w index up s) := by
  unfold vectorRead
  with_reducible repeat' (first | (assumption) | (refine ite_keeps _ (fun _ => ?_) (fun _ => ?_)) | (refine (memRead_keeps _ _ _ ?_).out) | (refine memRead_keeps_out _ _ _ ?_ (by assumption)) | (refine setReg_keeps _ _ _ ?_) | (intro _) | (split) | (refine memRead_keeps _ _ _ ?_) | (simp only [keeps_mk, keeps1_mk, keeps2_mk, keeps3_mk, keeps4_mk]))
theorem vectorRead_keeps_out {kb kz} (t : Nat) (w : Bool) (index : Nat) (up : Upset) {s : State} (hK : Keeps kb kz s) {x0 s₁} (hE : vectorRead t w index up s = (x0, s₁)) : Keeps kb kz s₁ := by
  have := vectorRead_keeps (kb := kb) (kz := kz) t w index up  hK
  rw [hE] at this; exact this.out

theorem faultRecord_keeps {kb kz} (t d : Nat) (c : FaultCtx) (lvl : Nat) (w su : Bool) {s0 : State} (hK : Keeps kb kz s0) : Keeps kb kz (faultRecord t d c lvl w su s0) := by
  unfold faultRecord
  (try dsimp only)
  with_reducible repeat' (first | (assumption) | (refine ite_keeps _ (fun _ => ?_) (fun _ => ?_)) | (refine (drawWord_keeps ?_).out) | (refine drawWord_keeps_out ?_ (by assumption)) | (refine setReg_keeps _ _ _ ?_))

theorem enterD_keeps {kb kz} (t : Nat) (c : FaultCtx) (target : Bool) (spc sst sls : Word) (up : Upset) {s : State} (hK : Keeps kb kz s) : Keeps kb kz (enterD t c target spc sst sls up s) := by
  unfold enterD
  (try dsimp only)
  with_reducible repeat' (first | (assumption) | (refine ite_keeps _ (fun _ => ?_) (fun _ => ?_)) | (refine (vectorRead_keeps _ _ _ _ ?_).out) | (refine vectorRead_keeps_out _ _ _ _ ?_ (by assumption)) | (refine saveSet_keeps _ _ _ _ _ ?_) | (refine faultRecord_keeps _ _ _ _ _ _ ?_) | (refine haltHeld_keeps _ ?_) | (refine enterLevel_keeps _ _ _ _ ?_) | (refine bumpF_keeps _ _ _ _ _ ?_) | (refine thirdFault_keeps _ ?_) | (refine setReg_keeps _ _ _ ?_) | (intro _) | (split))

theorem takeFault_keeps {kb kz} (t : Nat) (c : FaultCtx) (world : Bool) (spc sst : Word) (upF upD : Upset) {s : State} (hK : Keeps kb kz s) : Keeps kb kz (takeFault t c world spc sst upF upD s) := by
  unfold takeFault
  (try dsimp only)
  with_reducible repeat' (first | (assumption) | (refine ite_keeps _ (fun _ => ?_) (fun _ => ?_)) | (refine thirdFault_keeps _ ?_) | (refine enterD_keeps _ _ _ _ _ _ _ ?_) | (refine (vectorRead_keeps _ _ _ _ ?_).out) | (refine vectorRead_keeps_out _ _ _ _ ?_ (by assumption)) | (refine saveSet_keeps _ _ _ _ _ ?_) | (refine faultRecord_keeps _ _ _ _ _ _ ?_) | (refine haltHeld_keeps _ ?_) | (refine enterLevel_keeps _ _ _ _ ?_) | (refine bumpF_keeps _ _ _ _ _ ?_) | (refine setReg_keeps _ _ _ ?_) | (intro _) | (split))

theorem commitEntry_keeps {kb kz} (t n pc : Nat) (spc sst sls : Word) {s : State} (hK : Keeps kb kz s) : Keeps kb kz (commitEntry t n pc spc sst sls s) := by
  unfold commitEntry
  (try dsimp only)
  with_reducible repeat' (first | (assumption) | (refine ite_keeps _ (fun _ => ?_) (fun _ => ?_)) | (refine saveSet_keeps _ _ _ _ _ ?_) | (refine recPush_keeps _ _ _ _ ?_) | (refine setPend_keeps _ _ _ ?_) | (refine modTine_keeps _ _ ?_) | (refine haltCheck_keeps _ ?_) | (refine sieveUpdate_keeps _ ?_) | (refine enterLevel_keeps _ _ _ _ ?_))

theorem latencyGauge_keeps {kb kz} (t latency : Nat) {s : State} (hK : Keeps kb kz s) : Keeps kb kz (latencyGauge t latency s) := by
  unfold latencyGauge
  with_reducible repeat' (first | (assumption) | (refine ite_keeps _ (fun _ => ?_) (fun _ => ?_)) | (refine gaugeTake_keeps _ _ _ _ ?_) | (refine setReg_keeps _ _ _ ?_) | (intro _) | (split))

theorem entryCommit_keeps {kb kz} (t : Nat) (up upF upD : Upset) (latency : Nat) {s : State} (hK : Keeps kb kz s) : Keeps kb kz (entryCommit t up upF upD latency s) := by
  unfold entryCommit
  (try dsimp only)
  with_reducible repeat' (first | (assumption) | (refine ite_keeps _ (fun _ => ?_) (fun _ => ?_)) | (refine (vectorRead_keeps _ _ _ _ ?_).out) | (refine vectorRead_keeps_out _ _ _ _ ?_ (by assumption)) | (refine advance_keeps _ _ ?_) | (refine alive_keeps _ ?_) | (refine wrapF_keeps _ _ _ _ _ ?_) | (refine latencyGauge_keeps _ _ ?_) | (refine commitEntry_keeps _ _ _ _ _ _ ?_) | (refine setEntry_keeps _ _ ?_) | (refine setPend_keeps _ _ _ ?_) | (refine takeFault_keeps _ _ _ _ _ _ _ ?_) | (refine setReg_keeps _ _ _ ?_) | (intro _) | (split))

/-! ## Machine/TineRegs.lean -/

theorem rqCtrlWrite_keeps {kb kz} (t n : Nat) (v : Word) {s : State} (hK : Keeps kb kz s) : Keeps kb kz (rqCtrlWrite t n v s) := by
  unfold rqCtrlWrite
  (try dsimp only)
  with_reducible repeat' (first | (assumption) | (refine ite_keeps _ (fun _ => ?_) (fun _ => ?_)) | (refine setReg_keeps _ _ _ ?_))

theorem dthWrite_keeps {kb kz} (t : Nat) (b : Bool) (v : Word) {s : State} (hK : Keeps kb kz s) : Keeps kb kz (dthWrite t b v s) := by
  unfold dthWrite
  (try dsimp only)
  with_reducible repeat' (first | (assumption) | (refine ite_keeps _ (fun _ => ?_) (fun _ => ?_)) | (refine setReg_keeps _ _ _ ?_))

theorem tstWrite_keeps {kb kz} (t : Nat) (ateOk : Bool) (v : Word) {s : State} (hK : Keeps kb kz s) : Keeps kb kz (tstWrite t ateOk v s) := by
  unfold tstWrite
  (try dsimp only)
  with_reducible repeat' (first | (assumption) | (refine ite_keeps _ (fun _ => ?_) (fun _ => ?_)) | (refine setReg_keeps _ _ _ ?_))

theorem lstatWrite_keeps {kb kz} (t off : Nat) (v : Word) {s : State} (hK : Keeps kb kz s) : Keeps kb kz (lstatWrite t off v s) := by
  unfold lstatWrite
  (try dsimp only)
  with_reducible repeat' (first | (assumption) | (refine ite_keeps _ (fun _ => ?_) (fun _ => ?_)) | (refine setReg_keeps _ _ _ ?_))

theorem tineInval_keeps {kb kz} (t : Nat) (all : Bool) (vaPage : Nat) {s : State} (hK : Keeps kb kz s) : Keeps kb kz (tineInval t all vaPage s) := by
  unfold tineInval
  with_reducible repeat' (first | (assumption) | (refine ite_keeps _ (fun _ => ?_) (fun _ => ?_)) | (refine modTine_keeps _ _ ?_))

theorem xcfgWrite_keeps {kb kz} (t : Nat) (v : Word) {s : State} (hK : Keeps kb kz s) : Keeps kb kz (xcfgWrite t v s) := by
  unfold xcfgWrite
  with_reducible repeat' (first | (assumption) | (refine ite_keeps _ (fun _ => ?_) (fun _ => ?_)) | (refine tineInval_keeps _ _ _ ?_) | (refine setReg_keeps _ _ _ ?_))

theorem xinvWrite_keeps {kb kz} (t : Nat) (v : Word) {s : State} (hK : Keeps kb kz s) : Keeps kb kz (xinvWrite t v s) := by
  unfold xinvWrite
  with_reducible repeat' (first | (assumption) | (refine ite_keeps _ (fun _ => ?_) (fun _ => ?_)) | (refine tineInval_keeps _ _ _ ?_))

theorem tineRegWrite_keeps {kb kz} (w : Who) (t off : Nat) (v : Word) {s : State} (hK : Keeps kb kz s) : Keeps kb kz (tineRegWrite w t off v s) := by
  unfold tineRegWrite
  (try dsimp only)
  with_reducible repeat' (first | (assumption) | (refine ite_keeps _ (fun _ => ?_) (fun _ => ?_)) | (refine rqCtrlWrite_keeps _ _ _ ?_) | (refine sieveCfgWrite_keeps _ _ _ _ _ ?_) | (refine setReg_keeps _ _ _ ?_) | (refine lstatWrite_keeps _ _ _ ?_) | (refine xcfgWrite_keeps _ _ ?_) | (refine xinvWrite_keeps _ _ ?_) | (refine dthWrite_keeps _ _ _ ?_) | (refine tstWrite_keeps _ _ _ ?_) | (refine sieveEoi_keeps _ _ ?_) | (refine sieveClrPend_keeps _ _ ?_) | (refine raise_keeps _ _ ?_) | (refine tmrCmpWrite_keeps _ _ ?_) | (refine wcfgWrite_keeps _ _ ?_) | (intro _) | (split))

theorem tinePageWrite_keeps {kb kz} (w : Who) (t off : Nat) (v : Word) {s : State} (hK : Keeps kb kz s) : Keeps kb kz (tinePageWrite w t off v s) := by
  unfold tinePageWrite
  with_reducible repeat' (first | (assumption) | (refine ite_keeps _ (fun _ => ?_) (fun _ => ?_)) | (refine tineRegWrite_keeps _ _ _ _ ?_))

theorem ctlWrite_keeps {kb kz} (t : TineNo) (n : Nat) (v : Word) {s : State} (hK : Keeps kb kz s) : Keeps kb kz (ctlWrite t n v s) := by
  unfold ctlWrite
  with_reducible repeat' (first | (assumption) | (refine ite_keeps _ (fun _ => ?_) (fun _ => ?_)) | (refine tineRegWrite_keeps _ _ _ _ ?_))

/-! ## Machine/Session.lean -/

theorem setSess_keeps {kb kz} (probe : Bool) (x : Session) {s : State} (hK : Keeps kb kz s) : Keeps kb kz (setSess probe x s) := by
  unfold setSess
  (try dsimp only)
  with_reducible repeat' (first | (assumption) | (refine ite_keeps _ (fun _ => ?_) (fun _ => ?_)) | (refine setReg_keeps _ _ _ ?_) | (intro _) | (split) | (simp only [keeps_mk, keeps1_mk, keeps2_mk, keeps3_mk, keeps4_mk]) | (refine parts_of ?_))

theorem resumeAll_keeps {kb kz} (probe : Bool) {s : State} (hK : Keeps kb kz s) : Keeps kb kz (resumeAll probe s) := by
  unfold resumeAll
  with_reducible repeat' (first | (assumption) | (refine ite_keeps _ (fun _ => ?_) (fun _ => ?_)) | (refine forAll_keeps _ _ ?_ ?_) | (refine sieveUpdate_keeps _ ?_) | (refine alive_keeps _ ?_) | (refine modTine_keeps _ _ ?_) | (refine setReg_keeps _ _ _ ?_) | (intro _))

theorem sessEnd_keeps {kb kz} (probe : Bool) {s : State} (hK : Keeps kb kz s) : Keeps kb kz (sessEnd probe s) := by
  unfold sessEnd
  (try dsimp only)
  with_reducible repeat' (first | (assumption) | (refine ite_keeps _ (fun _ => ?_) (fun _ => ?_)) | (refine resumeAll_keeps _ ?_) | (refine setSess_keeps _ _ ?_))

theorem setKeyWord_keeps {kb kz} (i k : Nat) (v : Word) {s : State} (hK : Keeps kb kz s) : Keeps kb kz (setKeyWord i k v s) := by
  unfold setKeyWord
  with_reducible repeat' (first | (assumption) | (refine ite_keeps _ (fun _ => ?_) (fun _ => ?_)) | (refine setReg_keeps _ _ _ ?_) | (intro _) | (split) | (simp only [keeps_mk, keeps1_mk, keeps2_mk, keeps3_mk, keeps4_mk]) | (refine parts_of ?_))

theorem keysZero_keeps {kb kz}  {s : State} (hK : Keeps kb kz s) : Keeps kb kz (keysZero s) := by
  unfold keysZero
  with_reducible repeat' (first | (assumption) | (refine ite_keeps _ (fun _ => ?_) (fun _ => ?_)) | (refine wrapF_keeps _ _ _ _ _ ?_) | (refine setReg_keeps _ _ _ ?_) | (intro _) | (split) | (simp only [keeps_mk, keeps1_mk, keeps2_mk, keeps3_mk, keeps4_mk]) | (refine parts_of ?_))

theorem keyLoad_keeps {kb kz} (bs : List Byte) {s : State} (hK : Keeps kb kz s) : Keeps kb kz (keyLoad bs s) := by
  unfold keyLoad
  with_reducible repeat' (first | (assumption) | (refine ite_keeps _ (fun _ => ?_) (fun _ => ?_)) | (refine forAll_keeps _ _ ?_ ?_) | (refine setKeyWord_keeps _ _ _ ?_) | (refine setReg_keeps _ _ _ ?_) | (intro _))

theorem keysAtReset_keeps {kb kz}  {s : State} (hK : Keeps kb kz s) : Keeps kb kz (keysAtReset s) := by
  unfold keysAtReset
  with_reducible repeat' (first | (assumption) | (refine ite_keeps _ (fun _ => ?_) (fun _ => ?_)) | (refine keyLoad_keeps _ ?_) | (refine setReg_keeps _ _ _ ?_) | (intro _) | (split) | (simp only [keeps_mk, keeps1_mk, keeps2_mk, keeps3_mk, keeps4_mk]) | (refine parts_of ?_))

theorem secWrite_keeps {kb kz} (w : Who) (off : Nat) (v : Word) {s : State} (hK : Keeps kb kz s) : Keeps kb kz (secWrite w off v s) := by
  unfold secWrite
  (try dsimp only)
  with_reducible repeat' (first | (assumption) | (refine ite_keeps _ (fun _ => ?_) (fun _ => ?_)) | (refine setRegB_keeps _ _ _ _ ?_) | (refine keysZero_keeps ?_) | (refine setKeyWord_keeps _ _ _ ?_) | (refine setReg_keeps _ _ _ ?_) | (intro _) | (split))

/-! ## Machine/Nursery.lean -/

theorem setSpare_keeps {kb kz} (p : Nat) (t : Option Nat) {s : State} (hK : Keeps kb kz s) : Keeps kb kz (setSpare p t s) := by
  unfold setSpare
  with_reducible repeat' (first | (assumption) | (refine ite_keeps _ (fun _ => ?_) (fun _ => ?_)) | (refine setRegB_keeps _ _ _ _ ?_) | (refine setReg_keeps _ _ _ ?_) | (intro _) | (split))

theorem setRetired_keeps {kb kz} (t : Nat) (b : Bool) {s : State} (hK : Keeps kb kz s) : Keeps kb kz (setRetired t b s) := by
  unfold setRetired
  with_reducible repeat' (first | (assumption) | (refine ite_keeps _ (fun _ => ?_) (fun _ => ?_)) | (refine setRegB_keeps _ _ _ _ ?_) | (refine modTine_keeps _ _ ?_))

theorem raise60_keeps {kb kz}  {s : State} (hK : Keeps kb kz s) : Keeps kb kz (raise60 s) := by
  unfold raise60
  with_reducible repeat' (first | (assumption) | (refine ite_keeps _ (fun _ => ?_) (fun _ => ?_)) | (refine forAll_keeps _ _ ?_ ?_) | (refine raise_keeps _ _ ?_) | (refine setReg_keeps _ _ _ ?_) | (intro _) | (split))

theorem nursReport_keeps {kb kz} (kind t : Nat) (data : Word) {s : State} (hK : Keeps kb kz s) : Keeps kb kz (nursReport kind t data s) := by
  unfold nursReport
  with_reducible repeat' (first | (assumption) | (refine ite_keeps _ (fun _ => ?_) (fun _ => ?_)) | (refine pageIrq_keeps _ _ ?_) | (refine raise60_keeps ?_) | (refine frecAdd_keeps _ _ _ ?_))

theorem setCkpt_keeps {kb kz} (l : Nat) (x : Ckpt) {s : State} (hK : Keeps kb kz s) : Keeps kb kz (setCkpt l x s) := by
  unfold setCkpt
  with_reducible repeat' (first | (assumption) | (refine ite_keeps _ (fun _ => ?_) (fun _ => ?_)) | (refine setReg_keeps _ _ _ ?_) | (intro _) | (split) | (simp only [keeps_mk, keeps1_mk, keeps2_mk, keeps3_mk, keeps4_mk]) | (refine parts_of ?_))

theorem putEach_keeps {kb kz} {α : Type} (put : α → Word → State → State) (ks : List α) (ws : List Word) {s : State} (h_put : ∀ a0 a1 s, Keeps kb kz s → Keeps kb kz (put a0 a1 s)) (hK : Keeps kb kz s) : Keeps kb kz (putEach put ks ws s) := by
  unfold putEach
  with_reducible repeat' (first | (assumption) | (refine ite_keeps _ (fun _ => ?_) (fun _ => ?_)) | (refine forAll_keeps _ _ ?_ ?_) | (refine setReg_keeps _ _ _ ?_) | (apply h_put) | (refine (h_put _ ?_).out) | (intro _))

theorem ckptRestore_keeps {kb kz} (t : Nat) (k : CkptCopy) {s : State} (hK : Keeps kb kz s) : Keeps kb kz (ckptRestore t k s) := by
  unfold ckptRestore
  (try dsimp only)
  with_reducible repeat' (first | (assumption) | (refine ite_keeps _ (fun _ => ?_) (fun _ => ?_)) | (refine forAll_keeps _ _ ?_ ?_) | (refine putEach_keeps _ _ _ ?_ ?_) | (refine setReg_keeps _ _ _ ?_) | (refine setRegF_keeps _ _ _ _ _ ?_) | (refine setAcc_keeps _ _ _ ?_) | (refine modTine_keeps _ _ ?_) | (refine memPut_keeps _ _ ?_) | (intro _))

theorem releaseItems_keeps {kb kz} (l : Nat) {s : State} (hK : Keeps kb kz s) : Keeps kb kz (releaseItems l s) := by
  unfold releaseItems
  with_reducible repeat' (first | (assumption) | (refine ite_keeps _ (fun _ => ?_) (fun _ => ?_)) | (refine setReg_keeps _ _ _ ?_) | (intro _) | (split) | (simp only [keeps_mk, keeps1_mk, keeps2_mk, keeps3_mk, keeps4_mk]) | (refine parts_of ?_))

theorem ckptRetire_keeps {kb kz} (t len : Nat) (others : List (Nat × Word)) (upds : List (Gr × Word)) {s : State} (hK : Keeps kb kz s) : Keeps kb kz (ckptRetire t len others upds s) := by
  unfold ckptRetire
  (try dsimp only)
  with_reducible repeat' (first | (assumption) | (refine ite_keeps _ (fun _ => ?_) (fun _ => ?_)) | (refine forAll_keeps _ _ ?_ ?_) | (refine retire_keeps _ _ ?_) | (refine setG_keeps _ _ _ ?_) | (refine modTine_keeps _ _ ?_) | (refine setReg_keeps _ _ _ ?_) | (intro _))

theorem ckptStore_keeps {kb kz} (t len : Nat) (v : Word) (others : List (Nat × Word)) (upds : List (Gr × Word)) {s : State} (hK : Keeps kb kz s) : Keeps kb kz (ckptStore t len v others upds s) := by
  unfold ckptStore
  with_reducible repeat' (first | (assumption) | (refine ite_keeps _ (fun _ => ?_) (fun _ => ?_)) | (refine ckptRetire_keeps _ _ _ _ ?_) | (refine setRegB_keeps _ _ _ _ ?_) | (refine modTine_keeps _ _ ?_))

theorem ckptBecome_keeps {kb kz} (t : Nat) (k : CkptCopy) {s : State} (hK : Keeps kb kz s) : Keeps kb kz (ckptBecome t k s) := by
  unfold ckptBecome
  (try dsimp only)
  with_reducible repeat' (first | (assumption) | (refine ite_keeps _ (fun _ => ?_) (fun _ => ?_)) | (refine setReg_keeps _ _ _ ?_) | (refine releaseItems_keeps _ ?_) | (refine setCkpt_keeps _ _ ?_) | (intro _) | (split))

theorem ckptCommit_keeps {kb kz} (t : Nat) {s : State} (hK : Keeps kb kz s) : Keeps kb kz (ckptCommit t s) := by
  unfold ckptCommit
  (try dsimp only)
  with_reducible repeat' (first | (assumption) | (refine ite_keeps _ (fun _ => ?_) (fun _ => ?_)) | (refine ckptRetire_keeps _ _ _ _ ?_) | (refine ckptBecome_keeps _ _ ?_) | (refine recordFault_keeps _ _ ?_) | (refine alive_keeps _ ?_) | (refine modTine_keeps _ _ ?_) | (refine (hopOffer_keeps _ _ ?_).out) | (refine hopOffer_keeps_out _ _ ?_ (by assumption)) | (refine setReg_keeps _ _ _ ?_) | (intro _) | (split))

theorem ckptInvalid_keeps {kb kz} (l : Nat) {s : State} (hK : Keeps kb kz s) : Keeps kb kz (ckptInvalid l s) := by
  unfold ckptInvalid
  (try dsimp only)
  with_reducible repeat' (first | (assumption) | (refine ite_keeps _ (fun _ => ?_) (fun _ => ?_)) | (refine setCkpt_keeps _ _ ?_) | (refine setRegB_keeps _ _ _ _ ?_) | (refine setReg_keeps _ _ _ ?_) | (intro _) | (split))

theorem ckptWindow_keeps {kb kz} (l : Nat) {s : State} (hK : Keeps kb kz s) : Keeps kb kz (ckptWindow l s) := by
  unfold ckptWindow
  (try dsimp only)
  with_reducible repeat' (first | (assumption) | (refine ite_keeps _ (fun _ => ?_) (fun _ => ?_)) | (refine setCkpt_keeps _ _ ?_) | (refine bumpF_keeps _ _ _ _ _ ?_) | (refine setRegF_keeps _ _ _ _ _ ?_) | (refine nursDecide_keeps _ _ ?_) | (refine setReg_keeps _ _ _ ?_) | (intro _) | (split))

theorem uprootEntry_keeps {kb kz} (routeWr : Nat → Word → State → State) (l i : Nat) {s : State} (h_routeWr : ∀ a0 a1 s, Keeps kb kz s → Keeps kb kz (routeWr a0 a1 s)) (hK : Keeps kb kz s) : Keeps kb kz (uprootEntry routeWr l i s) := by
  unfold uprootEntry
  (try dsimp only)
  with_reducible repeat' (first | (assumption) | (refine ite_keeps _ (fun _ => ?_) (fun _ => ?_)) | (refine memPut_keeps _ _ ?_) | (refine setRegB_keeps _ _ _ _ ?_) | (refine setReg_keeps _ _ _ ?_) | (apply h_routeWr) | (refine (h_routeWr _ ?_).out) | (intro _) | (split))

theorem uproot_keeps {kb kz} (routeWr : Nat → Word → State → State) (l : Nat) {s : State} (h_routeWr : ∀ a0 a1 s, Keeps kb kz s → Keeps kb kz (routeWr a0 a1 s)) (hK : Keeps kb kz s) : Keeps kb kz (uproot routeWr l s) := by
  unfold uproot
  (try dsimp only)
  with_reducible repeat' (first | (assumption) | (refine ite_keeps _ (fun _ => ?_) (fun _ => ?_)) | (refine forAll_keeps _ _ ?_ ?_) | (refine setReg_keeps _ _ _ ?_) | (refine uprootEntry_keeps _ _ _ ?_ ?_) | (apply h_routeWr) | (refine (h_routeWr _ ?_).out) | (intro _))

theorem copyRange_keeps {kb kz} (src dst n : Nat) {s : State} (hK : Keeps kb kz s) : Keeps kb kz (copyRange src dst n s) := by
  have hC := parts_of hK
  refine keeps_iff.2 ⟨fun x => ?_, hC.2⟩
  have := hC.1 x
  simp only [Bool.and_eq_true] at *
  exact ⟨Memory.wf_copy src dst n this.1, this.2⟩

theorem clearRange_keeps {kb kz} (dst n : Nat) {s : State} (hK : Keeps kb kz s) : Keeps kb kz (clearRange dst n s) := by
  have hC := parts_of hK
  refine keeps_iff.2 ⟨fun x => ?_, hC.2⟩
  have := hC.1 x
  simp only [Bool.and_eq_true] at *
  exact ⟨Tbl.wf_filter _ _ this.1, this.2⟩

theorem filterRegs_keeps {kb kz} (p : Nat × Word → Bool) {s : State} (hK : Keeps kb kz s) : Keeps kb kz { s with regs := s.regs.filter p } := by
  have hC := parts_of hK
  refine keeps_iff.2 ⟨fun x => ?_, hC.2⟩
  have := hC.1 x
  simp only [Bool.and_eq_true] at *
  exact ⟨this.1, Tbl.wf_filter _ _ this.2⟩

theorem clearPage_keeps {kb kz} (pg : Nat) {s : State} (hK : Keeps kb kz s) : Keeps kb kz (clearPage pg s) := filterRegs_keeps _ hK

theorem copyTine_keeps {kb kz} (t u : Nat) {s : State} (hK : Keeps kb kz s) : Keeps kb kz (copyTine t u s) := by
  unfold copyTine
  (try dsimp only)
  with_reducible repeat' (first | (assumption) | (refine ite_keeps _ (fun _ => ?_) (fun _ => ?_)) | (refine forAll_keeps _ _ ?_ ?_) | (refine copyRange_keeps _ _ _ ?_) | (refine memPut_keeps _ _ ?_) | (refine clearPage_keeps _ ?_) | (refine setReg_keeps _ _ _ ?_) | (refine setRegB_keeps _ _ _ _ ?_) | (refine setTine_keeps _ _ ?_) | (intro _))

theorem representItems_keeps {kb kz} (l : Nat) {s : State} (hK : Keeps kb kz s) : Keeps kb kz (representItems l s) := by
  unfold representItems
  with_reducible repeat' (first | (assumption) | (refine ite_keeps _ (fun _ => ?_) (fun _ => ?_)) | (refine setReg_keeps _ _ _ ?_) | (intro _) | (split) | (simp only [keeps_mk, keeps1_mk, keeps2_mk, keeps3_mk, keeps4_mk]) | (refine parts_of ?_))

theorem startSpare_keeps {kb kz} (l u : Nat) {s : State} (hK : Keeps kb kz s) : Keeps kb kz (startSpare l u s) := by
  unfold startSpare
  (try dsimp only)
  with_reducible repeat' (first | (assumption) | (refine ite_keeps _ (fun _ => ?_) (fun _ => ?_)) | (refine setRegF_keeps _ _ _ _ _ ?_) | (refine ckptRestore_keeps _ _ ?_) | (refine modTine_keeps _ _ ?_) | (refine alive_keeps _ ?_) | (refine representItems_keeps _ ?_) | (refine setReg_keeps _ _ _ ?_) | (intro _) | (split))

theorem nursEvent_keeps {kb kz} (l old new cause : Nat) (replayed : Bool) (tick : Nat) {s : State} (hK : Keeps kb kz s) : Keeps kb kz (nursEvent l old new cause replayed tick s) := by
  unfold nursEvent
  with_reducible repeat' (first | (assumption) | (refine ite_keeps _ (fun _ => ?_) (fun _ => ?_)) | (refine setReg_keeps _ _ _ ?_))

theorem nursReplace_keeps {kb kz} (routeWr : Nat → Word → State → State) (t cause tick : Nat) {s0 : State} (h_routeWr : ∀ a0 a1 s, Keeps kb kz s → Keeps kb kz (routeWr a0 a1 s)) (hK : Keeps kb kz s0) : Keeps kb kz (nursReplace routeWr t cause tick s0) := by
  unfold nursReplace
  (try dsimp only)
  with_reducible repeat' (first | (assumption) | (refine ite_keeps _ (fun _ => ?_) (fun _ => ?_)) | (refine setRetired_keeps _ _ ?_) | (refine lockRemove_keeps _ ?_) | (refine modTine_keeps _ _ ?_) | (refine (drawNat_keeps ?_).out) | (refine drawNat_keeps_out ?_ (by assumption)) | (refine setSpare_keeps _ _ ?_) | (refine nursReport_keeps _ _ _ ?_) | (refine setRegB_keeps _ _ _ _ ?_) | (refine uproot_keeps _ _ ?_ ?_) | (refine nursEvent_keeps _ _ _ _ _ _ ?_) | (refine setReg_keeps _ _ _ ?_) | (refine copyTine_keeps _ _ ?_) | (refine startSpare_keeps _ _ ?_) | (apply h_routeWr) | (refine (h_routeWr _ ?_).out) | (intro _) | (split))

theorem reinstEnd_keeps {kb kz} (t : Nat) (passed : Bool) {s : State} (hK : Keeps kb kz s) : Keeps kb kz (reinstEnd t passed s) := by
  unfold reinstEnd
  (try dsimp only)
  with_reducible repeat' (first | (assumption) | (refine ite_keeps _ (fun _ => ?_) (fun _ => ?_)) | (refine clearRange_keeps _ _ ?_) | (refine setRetired_keeps _ _ ?_) | (refine setTine_keeps _ _ ?_) | (refine clearPage_keeps _ ?_) | (refine setReg_keeps _ _ _ ?_) | (refine setCkpt_keeps _ _ ?_) | (refine setSpare_keeps _ _ ?_) | (refine nursReport_keeps _ _ _ ?_) | (refine setRegB_keeps _ _ _ _ ?_) | (intro _) | (split) | (simp only [keeps_mk, keeps1_mk, keeps2_mk, keeps3_mk, keeps4_mk]) | (refine parts_of ?_))

theorem reinstStart_keeps {kb kz} (t : Nat) {s : State} (hK : Keeps kb kz s) : Keeps kb kz (reinstStart t s) := by
  unfold reinstStart
  with_reducible repeat' (first | (assumption) | (refine ite_keeps _ (fun _ => ?_) (fun _ => ?_)) | (refine reinstEnd_keeps _ _ ?_) | (refine setReg_keeps _ _ _ ?_) | (intro _) | (split) | (simp only [keeps_mk, keeps1_mk, keeps2_mk, keeps3_mk, keeps4_mk]) | (refine parts_of ?_))

theorem nursRetireWrite_keeps {kb kz} (v : Word) {s : State} (hK : Keeps kb kz s) : Keeps kb kz (nursRetireWrite v s) := by
  unfold nursRetireWrite
  (try dsimp only)
  with_reducible repeat' (first | (assumption) | (refine ite_keeps _ (fun _ => ?_) (fun _ => ?_)) | (refine reinstStart_keeps _ ?_) | (refine nursDecide_keeps _ _ ?_) | (refine setReg_keeps _ _ _ ?_) | (intro _) | (split) | (simp only [keeps_mk, keeps1_mk, keeps2_mk, keeps3_mk, keeps4_mk]) | (refine parts_of ?_))

theorem reinstGo_keeps {kb kz} (l : List Nat) {s : State} (hK : Keeps kb kz s) : Keeps kb kz (reinstGo l s) := by
  revert hK
  fun_induction reinstGo l s <;> intro hK <;> (try dsimp only) <;> with_reducible repeat' (first | (assumption) | (refine ite_keeps _ (fun _ => ?_) (fun _ => ?_)) | (refine reinstStart_keeps _ ?_) | (refine setReg_keeps _ _ _ ?_) | (apply_assumption) | (refine Keeps1.of ?_ (by assumption)) | (refine Keeps2.of ?_ (by assumption)) | (intro _) | (split) | (simp only [keeps_mk, keeps1_mk, keeps2_mk, keeps3_mk, keeps4_mk]) | (refine parts_of ?_))

theorem reinstNext_keeps {kb kz}  {s : State} (hK : Keeps kb kz s) : Keeps kb kz (reinstNext s) := by
  unfold reinstNext
  with_reducible repeat' (first | (assumption) | (refine ite_keeps _ (fun _ => ?_) (fun _ => ?_)) | (refine reinstGo_keeps _ ?_) | (refine setReg_keeps _ _ _ ?_) | (intro _) | (split) | (simp only [keeps_mk, keeps1_mk, keeps2_mk, keeps3_mk, keeps4_mk]) | (refine parts_of ?_))

theorem leaseNext_keeps {kb kz}  {s : State} (hK : Keeps kb kz s) : Keeps kb kz (leaseNext s) := by
  unfold leaseNext
  with_reducible repeat' (first | (assumption) | (refine ite_keeps _ (fun _ => ?_) (fun _ => ?_)) | (refine forAll_keeps _ _ ?_ ?_) | (refine setReg_keeps _ _ _ ?_) | (intro _) | (split) | (simp only [keeps_mk, keeps1_mk, keeps2_mk, keeps3_mk, keeps4_mk]) | (refine parts_of ?_))

theorem nursWrite_keeps {kb kz} (w : Who) (off : Nat) (v : Word) {s : State} (hK : Keeps kb kz s) : Keeps kb kz (nursWrite w off v s) := by
  unfold nursWrite
  with_reducible repeat' (first | (assumption) | (refine ite_keeps _ (fun _ => ?_) (fun _ => ?_)) | (refine setReg_keeps _ _ _ ?_) | (refine nursRetireWrite_keeps _ ?_) | (refine lockClr_keeps ?_) | (intro _) | (split) | (simp only [keeps_mk, keeps1_mk, keeps2_mk, keeps3_mk, keeps4_mk]) | (refine parts_of ?_))

end Sys2Proof.Machine
end

