-- ==== Sys2Proof/Laws/KeepsRows.lean ====
section
/-! SUPPORT. Laws that say, operation by operation, that the canonical form, the queue and OTP are kept: row units and Hoes. -/

namespace Sys2Proof.Machine

/-! ## Machine/Units.lean -/

theorem setCell_keeps {kb kz} (r c : Nat) (x : CellSt) {s : State} (hK : Keeps kb kz s) : Keeps kb kz (setCell r c x s) := by
  unfold setCell
  with_reducible repeat' (first | (assumption) | (refine ite_keeps _ (fun _ => ?_) (fun _ => ?_)) | (refine setReg_keeps _ _ _ ?_) | (intro _) | (split) | (simp only [keeps_mk, keeps1_mk, keeps2_mk, keeps3_mk, keeps4_mk]) | (refine parts_of ?_))

theorem setHoe_keeps {kb kz} (r h : Nat) (x : Hoe) {s : State} (hK : Keeps kb kz s) : Keeps kb kz (setHoe r h x s) := by
  unfold setHoe
  with_reducible repeat' (first | (assumption) | (refine ite_keeps _ (fun _ => ?_) (fun _ => ?_)) | (refine setReg_keeps _ _ _ ?_) | (intro _) | (split) | (simp only [keeps_mk, keeps1_mk, keeps2_mk, keeps3_mk, keeps4_mk]) | (refine parts_of ?_))

theorem setEng_keeps {kb kz} (r e : Nat) (x : Engine) {s : State} (hK : Keeps kb kz s) : Keeps kb kz (setEng r e x s) := by
  unfold setEng
  with_reducible repeat' (first | (assumption) | (refine ite_keeps _ (fun _ => ?_) (fun _ => ?_)) | (refine setReg_keeps _ _ _ ?_) | (intro _) | (split) | (simp only [keeps_mk, keeps1_mk, keeps2_mk, keeps3_mk, keeps4_mk]) | (refine parts_of ?_))

theorem setFifo_keeps {kb kz} (k : Nat) (l : List Word) {s : State} (hK : Keeps kb kz s) : Keeps kb kz (setFifo k l s) := by
  unfold setFifo
  with_reducible repeat' (first | (assumption) | (refine ite_keeps _ (fun _ => ?_) (fun _ => ?_)) | (refine setReg_keeps _ _ _ ?_) | (intro _) | (split) | (simp only [keeps_mk, keeps1_mk, keeps2_mk, keeps3_mk, keeps4_mk]) | (refine parts_of ?_))

theorem cellFlag_keeps {kb kz} (r c b : Nat) {s : State} (hK : Keeps kb kz s) : Keeps kb kz (cellFlag r c b s) := by
  unfold cellFlag
  with_reducible repeat' (first | (assumption) | (refine ite_keeps _ (fun _ => ?_) (fun _ => ?_)) | (refine setRegB_keeps _ _ _ _ ?_))

theorem evrRaise_keeps {kb kz} (r k : Nat) {s : State} (hK : Keeps kb kz s) : Keeps kb kz (evrRaise r k s) := by
  unfold evrRaise
  (try dsimp only)
  with_reducible repeat' (first | (assumption) | (refine ite_keeps _ (fun _ => ?_) (fun _ => ?_)) | (refine raiseUnit_keeps _ _ _ ?_))

theorem routesBetween_keeps {kb kz} (r : Nat) (s0 s1 : State) {s : State} (hK : Keeps kb kz s) : Keeps kb kz (routesBetween r s0 s1 s) := by
  unfold routesBetween
  with_reducible repeat' (first | (assumption) | (refine ite_keeps _ (fun _ => ?_) (fun _ => ?_)) | (refine forAll_keeps _ _ ?_ ?_) | (refine evrRaise_keeps _ _ ?_) | (refine setReg_keeps _ _ _ ?_) | (intro _))

theorem rowRoutes_keeps {kb kz} (r : Nat) (s0 : State) {s : State} (hK : Keeps kb kz s) : Keeps kb kz (rowRoutes r s0 s) := by
  unfold rowRoutes
  with_reducible repeat' (first | (assumption) | (refine ite_keeps _ (fun _ => ?_) (fun _ => ?_)) | (refine routesBetween_keeps _ _ _ ?_))

theorem withRows_keeps {kb kz} (f : State → State) {s : State} (h_f : ∀  s, Keeps kb kz s → Keeps kb kz (f  s)) (hK : Keeps kb kz s) : Keeps kb kz (withRows f s) := by
  unfold withRows
  (try dsimp only)
  with_reducible repeat' (first | (assumption) | (refine ite_keeps _ (fun _ => ?_) (fun _ => ?_)) | (refine forAll_keeps _ _ ?_ ?_) | (refine routesBetween_keeps _ _ _ ?_) | (refine setReg_keeps _ _ _ ?_) | (apply h_f) | (refine (h_f _ ?_).out) | (intro _))

theorem withRow_keeps {kb kz} (r : Nat) (f : State → State) {s : State} (h_f : ∀  s, Keeps kb kz s → Keeps kb kz (f  s)) (hK : Keeps kb kz s) : Keeps kb kz (withRow r f s) := by
  unfold withRow
  with_reducible repeat' (first | (assumption) | (refine ite_keeps _ (fun _ => ?_) (fun _ => ?_)) | (refine rowRoutes_keeps _ _ ?_) | (refine setReg_keeps _ _ _ ?_) | (apply h_f))

/-! ## Machine/Shear.lean -/

theorem setRail_keeps {kb kz} (r : Nat) (x : Rail) {s : State} (hK : Keeps kb kz s) : Keeps kb kz (setRail r x s) := by
  unfold setRail
  with_reducible repeat' (first | (assumption) | (refine ite_keeps _ (fun _ => ?_) (fun _ => ?_)) | (refine setReg_keeps _ _ _ ?_) | (intro _) | (split) | (simp only [keeps_mk, keeps1_mk, keeps2_mk, keeps3_mk, keeps4_mk]) | (refine parts_of ?_))

theorem hFlag_keeps {kb kz} (r h b : Nat) (v : Bool) {s : State} (hK : Keeps kb kz s) : Keeps kb kz (hFlag r h b v s) := by
  unfold hFlag
  with_reducible repeat' (first | (assumption) | (refine ite_keeps _ (fun _ => ?_) (fun _ => ?_)) | (refine setRegB_keeps _ _ _ _ ?_))

theorem setG23_keeps {kb kz} (r h g : Nat) {s : State} (hK : Keeps kb kz s) : Keeps kb kz (setG23 r h g s) := by
  unfold setG23
  (try dsimp only)
  with_reducible repeat' (first | (assumption) | (refine ite_keeps _ (fun _ => ?_) (fun _ => ?_)) | (refine setReg_keeps _ _ _ ?_) | (refine setHoe_keeps _ _ _ ?_))

theorem hoeStop_keeps {kb kz} (r h : Nat) {s : State} (hK : Keeps kb kz s) : Keeps kb kz (hoeStop r h s) := by
  unfold hoeStop
  (try dsimp only)
  with_reducible repeat' (first | (assumption) | (refine ite_keeps _ (fun _ => ?_) (fun _ => ?_)) | (refine setHoe_keeps _ _ _ ?_) | (refine emit_keeps _ ?_) | (refine hFlag_keeps _ _ _ _ ?_))

theorem shearCount_keeps {kb kz} (r h cause : Nat) {s : State} (hK : Keeps kb kz s) : Keeps kb kz (shearCount r h cause s) := by
  unfold shearCount
  with_reducible repeat' (first | (assumption) | (refine ite_keeps _ (fun _ => ?_) (fun _ => ?_)) | (refine bumpF_keeps _ _ _ _ _ ?_))

theorem shearAlso_keeps {kb kz} (r h cause : Nat) {s : State} (hK : Keeps kb kz s) : Keeps kb kz (shearAlso r h cause s) := by
  unfold shearAlso
  (try dsimp only)
  with_reducible repeat' (first | (assumption) | (refine ite_keeps _ (fun _ => ?_) (fun _ => ?_)) | (refine frecAmend_keeps _ _ ?_) | (refine shearCount_keeps _ _ _ ?_) | (refine setRegF_keeps _ _ _ _ _ ?_) | (refine setHoe_keeps _ _ _ ?_))

theorem lineBreak_keeps {kb kz} (r h st : Nat) {s : State} (hK : Keeps kb kz s) : Keeps kb kz (lineBreak r h st s) := by
  unfold lineBreak
  with_reducible repeat' (first | (assumption) | (refine ite_keeps _ (fun _ => ?_) (fun _ => ?_)) | (refine setReg_keeps _ _ _ ?_) | (intro _) | (split) | (simp only [keeps_mk, keeps1_mk, keeps2_mk, keeps3_mk, keeps4_mk]) | (refine parts_of ?_))

theorem shearTrip_keeps {kb kz} (r h cause : Nat) {s : State} (hK : Keeps kb kz s) : Keeps kb kz (shearTrip r h cause s) := by
  unfold shearTrip
  (try dsimp only)
  with_reducible repeat' (first | (assumption) | (refine ite_keeps _ (fun _ => ?_) (fun _ => ?_)) | (refine shearAlso_keeps _ _ _ ?_) | (refine setRegF_keeps _ _ _ _ _ ?_) | (refine setHoe_keeps _ _ _ ?_) | (refine lineBreak_keeps _ _ _ ?_) | (refine shearCount_keeps _ _ _ ?_) | (refine setG23_keeps _ _ _ ?_) | (refine emit_keeps _ ?_) | (refine frecAdd_keeps _ _ _ ?_))

theorem tripRow_keeps {kb kz} (rail cause : Nat) (r : Nat) {s : State} (hK : Keeps kb kz s) : Keeps kb kz (tripRow rail cause r s) := by
  unfold tripRow
  with_reducible repeat' (first | (assumption) | (refine ite_keeps _ (fun _ => ?_) (fun _ => ?_)) | (refine forAll_keeps _ _ ?_ ?_) | (refine withRow_keeps _ _ ?_ ?_) | (refine shearTrip_keeps _ _ _ ?_) | (refine setReg_keeps _ _ _ ?_) | (intro _))

theorem tripRail_keeps {kb kz} (rail cause : Nat) {s : State} (hK : Keeps kb kz s) : Keeps kb kz (tripRail rail cause s) := by
  unfold tripRail
  with_reducible repeat' (first | (assumption) | (refine ite_keeps _ (fun _ => ?_) (fun _ => ?_)) | (refine forAll_keeps _ _ ?_ ?_) | (refine tripRow_keeps _ _ _ ?_) | (refine setReg_keeps _ _ _ ?_) | (intro _))

theorem railFaultSet_keeps {kb kz} (rail : Nat) {s : State} (hK : Keeps kb kz s) : Keeps kb kz (railFaultSet rail s) := by
  unfold railFaultSet
  (try dsimp only)
  with_reducible repeat' (first | (assumption) | (refine ite_keeps _ (fun _ => ?_) (fun _ => ?_)) | (refine setRegB_keeps _ _ _ _ ?_) | (refine setRail_keeps _ _ ?_))

theorem railsFault_keeps {kb kz} (r : Nat) (rails : List Nat) {s : State} (hK : Keeps kb kz s) : Keeps kb kz (railsFault r rails s) := by
  unfold railsFault
  (try dsimp only)
  with_reducible repeat' (first | (assumption) | (refine ite_keeps _ (fun _ => ?_) (fun _ => ?_)) | (refine forAll_keeps _ _ ?_ ?_) | (refine frecAdd_keeps _ _ _ ?_) | (refine tripRow_keeps _ _ _ ?_) | (refine railFaultSet_keeps _ ?_) | (refine setReg_keeps _ _ _ ?_) | (intro _))

theorem railFault_keeps {kb kz} (rail : Nat) {s : State} (hK : Keeps kb kz s) : Keeps kb kz (railFault rail s) := by
  unfold railFault
  with_reducible repeat' (first | (assumption) | (refine ite_keeps _ (fun _ => ?_) (fun _ => ?_)) | (refine railsFault_keeps _ _ ?_))

theorem railCellLost_keeps {kb kz} (r : Nat) (cs : List Nat) {s : State} (hK : Keeps kb kz s) : Keeps kb kz (railCellLost r cs s) := by
  unfold railCellLost
  with_reducible repeat' (first | (assumption) | (refine ite_keeps _ (fun _ => ?_) (fun _ => ?_)) | (refine railsFault_keeps _ _ ?_))

/-! ## Machine/Rows.lean -/

theorem cellEnable_keeps {kb kz} (r c : Nat) {s : State} (hK : Keeps kb kz s) : Keeps kb kz (cellEnable r c s) := by
  unfold cellEnable
  (try dsimp only)
  with_reducible repeat' (first | (assumption) | (refine ite_keeps _ (fun _ => ?_) (fun _ => ?_)) | (refine setRegB_keeps _ _ _ _ ?_) | (refine setCell_keeps _ _ _ ?_))

theorem cellOff_keeps {kb kz} (r c : Nat) {s : State} (hK : Keeps kb kz s) : Keeps kb kz (cellOff r c s) := by
  unfold cellOff
  (try dsimp only)
  with_reducible repeat' (first | (assumption) | (refine ite_keeps _ (fun _ => ?_) (fun _ => ?_)) | (refine setRegB_keeps _ _ _ _ ?_) | (refine setCell_keeps _ _ _ ?_))

theorem cellDisable_keeps {kb kz} (r c : Nat) {s : State} (hK : Keeps kb kz s) : Keeps kb kz (cellDisable r c s) := by
  unfold cellDisable
  with_reducible repeat' (first | (assumption) | (refine ite_keeps _ (fun _ => ?_) (fun _ => ?_)) | (refine railCellLost_keeps _ _ ?_) | (refine cellOff_keeps _ _ ?_))

theorem cellTryEnable_keeps {kb kz} (r c : Nat) {s : State} (hK : Keeps kb kz s) : Keeps1 kb kz (cellTryEnable r c s) := by
  unfold cellTryEnable
  with_reducible repeat' (first | (assumption) | (refine ite_keeps _ (fun _ => ?_) (fun _ => ?_)) | (refine cellEnable_keeps _ _ ?_) | (refine cellFlag_keeps _ _ _ ?_) | (refine setReg_keeps _ _ _ ?_) | (intro _) | (split) | (simp only [keeps_mk, keeps1_mk, keeps2_mk, keeps3_mk, keeps4_mk]))
theorem cellTryEnable_keeps_out {kb kz} (r c : Nat) {s : State} (hK : Keeps kb kz s) {x0 s₁} (hE : cellTryEnable r c s = (x0, s₁)) : Keeps kb kz s₁ := by
  have := cellTryEnable_keeps (kb := kb) (kz := kz) r c  hK
  rw [hE] at this; exact this.out

theorem cellEnter_keeps {kb kz} (r c : Nat) (ws : List Word) {s : State} (hK : Keeps kb kz s) : Keeps kb kz (cellEnter r c ws s) := by
  unfold cellEnter
  with_reducible repeat' (first | (assumption) | (refine ite_keeps _ (fun _ => ?_) (fun _ => ?_)) | (refine forAll_keeps _ _ ?_ ?_) | (refine gaugeTake_keeps _ _ _ _ ?_) | (refine setFifo_keeps _ _ ?_) | (refine setReg_keeps _ _ _ ?_) | (intro _))

theorem cellFrameIn_keeps {kb kz} (r c : Nat) (ws : List Word) {s : State} (hK : Keeps kb kz s) : Keeps kb kz (cellFrameIn r c ws s) := by
  unfold cellFrameIn
  with_reducible repeat' (first | (assumption) | (refine ite_keeps _ (fun _ => ?_) (fun _ => ?_)) | (refine cellEnter_keeps _ _ _ ?_) | (refine bumpF_keeps _ _ _ _ _ ?_) | (refine cellFlag_keeps _ _ _ ?_))

theorem cellFrameOut_keeps {kb kz} (r c n : Nat) {s : State} (hK : Keeps kb kz s) : Keeps1 kb kz (cellFrameOut r c n s) := by
  unfold cellFrameOut
  (try dsimp only)
  with_reducible repeat' (first | (assumption) | (refine ite_keeps _ (fun _ => ?_) (fun _ => ?_)) | (refine forAll_keeps _ _ ?_ ?_) | (refine gaugeTake_keeps _ _ _ _ ?_) | (refine setFifo_keeps _ _ ?_) | (refine bumpF_keeps _ _ _ _ _ ?_) | (refine cellFlag_keeps _ _ _ ?_) | (refine setReg_keeps _ _ _ ?_) | (intro _) | (split) | (simp only [keeps_mk, keeps1_mk, keeps2_mk, keeps3_mk, keeps4_mk]))
theorem cellFrameOut_keeps_out {kb kz} (r c n : Nat) {s : State} (hK : Keeps kb kz s) {x0 s₁} (hE : cellFrameOut r c n s = (x0, s₁)) : Keeps kb kz s₁ := by
  have := cellFrameOut_keeps (kb := kb) (kz := kz) r c n  hK
  rw [hE] at this; exact this.out

theorem cellSat_keeps {kb kz} (r c : Nat) {s : State} (hK : Keeps kb kz s) : Keeps kb kz (cellSat r c s) := by
  unfold cellSat
  (try dsimp only)
  with_reducible repeat' (first | (assumption) | (refine ite_keeps _ (fun _ => ?_) (fun _ => ?_)) | (refine bumpF_keeps _ _ _ _ _ ?_) | (refine cellFlag_keeps _ _ _ ?_) | (refine setCell_keeps _ _ _ ?_))

theorem cellTrims_keeps {kb kz} (r c : Nat) (xs : List Int) {s : State} (hK : Keeps kb kz s) : Keeps1 kb kz (cellTrims r c xs s) := by
  induction xs generalizing s with
  | nil => exact ⟨hK⟩
  | cons x xs ih =>
    unfold cellTrims
    exact ⟨(ih (ite_keeps _ (fun _ => cellSat_keeps _ _ hK) (fun _ => hK))).out⟩
theorem cellTrims_keeps_out {kb kz} (r c : Nat) (xs : List Int) {s : State} (hK : Keeps kb kz s) {x0 s₁} (hE : cellTrims r c xs s = (x0, s₁)) : Keeps kb kz s₁ := by
  have := cellTrims_keeps r c xs hK
  rw [hE] at this; exact this.out

theorem cellNarrow_keeps {kb kz} (r c w : Nat) (lim : Int) (x : Word) {s : State} (hK : Keeps kb kz s) : Keeps1 kb kz (cellNarrow r c w lim x s) := by
  unfold cellNarrow
  (try dsimp only)
  with_reducible repeat' (first | (assumption) | (refine ite_keeps _ (fun _ => ?_) (fun _ => ?_)) | (refine setReg_keeps _ _ _ ?_) | (refine cellSat_keeps _ _ ?_) | (intro _) | (split) | (simp only [keeps_mk, keeps1_mk, keeps2_mk, keeps3_mk, keeps4_mk]))
theorem cellNarrow_keeps_out {kb kz} (r c w : Nat) (lim : Int) (x : Word) {s : State} (hK : Keeps kb kz s) {x0 s₁} (hE : cellNarrow r c w lim x s = (x0, s₁)) : Keeps kb kz s₁ := by
  have := cellNarrow_keeps (kb := kb) (kz := kz) r c w lim x  hK
  rw [hE] at this; exact this.out

theorem cellNarrows_keeps {kb kz} (r c w : Nat) (lim : Int) (xs : List Word) {s : State} (hK : Keeps kb kz s) : Keeps1 kb kz (cellNarrows r c w lim xs s) := by
  induction xs generalizing s with
  | nil => exact ⟨hK⟩
  | cons x xs ih =>
    unfold cellNarrows
    exact ⟨(ih (cellNarrow_keeps _ _ _ _ _ hK).out).out⟩
theorem cellNarrows_keeps_out {kb kz} (r c w : Nat) (lim : Int) (xs : List Word) {s : State} (hK : Keeps kb kz s) {x0 s₁} (hE : cellNarrows r c w lim xs s = (x0, s₁)) : Keeps kb kz s₁ := by
  have := cellNarrows_keeps r c w lim xs hK
  rw [hE] at this; exact this.out

theorem cellCfgWrite_keeps {kb kz} (r c : Nat) (v0 : Word) {s : State} (hK : Keeps kb kz s) : Keeps kb kz (cellCfgWrite r c v0 s) := by
  unfold cellCfgWrite
  (try dsimp only)
  with_reducible repeat' (first | (assumption) | (refine ite_keeps _ (fun _ => ?_) (fun _ => ?_)) | (refine cellFlag_keeps _ _ _ ?_) | (refine withRow_keeps _ _ ?_ ?_) | (refine setReg_keeps _ _ _ ?_) | (refine setCell_keeps _ _ _ ?_) | (refine (cellTryEnable_keeps _ _ ?_).out) | (refine cellTryEnable_keeps_out _ _ ?_ (by assumption)) | (refine cellDisable_keeps _ _ ?_) | (intro _))

theorem cellCfgGraft_keeps {kb kz} (r c : Nat) (v : Word) {s : State} (hK : Keeps kb kz s) : Keeps kb kz (cellCfgGraft r c v s) := by
  unfold cellCfgGraft
  with_reducible repeat' (first | (assumption) | (refine ite_keeps _ (fun _ => ?_) (fun _ => ?_)) | (refine cellCfgWrite_keeps _ _ _ ?_) | (refine cellDisable_keeps _ _ ?_))

theorem cellFifoWrite_keeps {kb kz} (r c : Nat) (v : Word) {s : State} (hK : Keeps kb kz s) : Keeps kb kz (cellFifoWrite r c v s) := by
  unfold cellFifoWrite
  (try dsimp only)
  with_reducible repeat' (first | (assumption) | (refine ite_keeps _ (fun _ => ?_) (fun _ => ?_)) | (refine cellFlag_keeps _ _ _ ?_) | (refine withRow_keeps _ _ ?_ ?_) | (refine setReg_keeps _ _ _ ?_) | (intro _))

theorem cgWrite_keeps {kb kz} (r g : Nat) (v : Word) {s : State} (hK : Keeps kb kz s) : Keeps kb kz (cgWrite r g v s) := by
  unfold cgWrite
  (try dsimp only)
  with_reducible repeat' (first | (assumption) | (refine ite_keeps _ (fun _ => ?_) (fun _ => ?_)) | (refine setRegB_keeps _ _ _ _ ?_) | (refine setReg_keeps _ _ _ ?_) | (intro _) | (split) | (simp only [keeps_mk, keeps1_mk, keeps2_mk, keeps3_mk, keeps4_mk]) | (refine parts_of ?_))

theorem evrWrite_keeps {kb kz} (r k : Nat) (v : Word) {s : State} (hK : Keeps kb kz s) : Keeps kb kz (evrWrite r k v s) := by
  unfold evrWrite
  (try dsimp only)
  with_reducible repeat' (first | (assumption) | (refine ite_keeps _ (fun _ => ?_) (fun _ => ?_)) | (refine setRegB_keeps _ _ _ _ ?_) | (refine setReg_keeps _ _ _ ?_) | (refine evrRaise_keeps _ _ ?_))

theorem cellDthWrite_keeps {kb kz} (r off : Nat) (v : Word) {s : State} (hK : Keeps kb kz s) : Keeps kb kz (cellDthWrite r off v s) := by
  unfold cellDthWrite
  (try dsimp only)
  with_reducible repeat' (first | (assumption) | (refine ite_keeps _ (fun _ => ?_) (fun _ => ?_)) | (refine setReg_keeps _ _ _ ?_))

theorem seSetByte_keeps {kb kz} (r e i : Nat) (b : Byte) {s : State} (hK : Keeps kb kz s) : Keeps kb kz (seSetByte r e i b s) := by
  unfold seSetByte
  with_reducible repeat' (first | (assumption) | (refine ite_keeps _ (fun _ => ?_) (fun _ => ?_)) | (refine setRegF_keeps _ _ _ _ _ ?_))

theorem seStart_keeps {kb kz} (r e : Nat) (v : Word) {s : State} (hK : Keeps kb kz s) : Keeps kb kz (seStart r e v s) := by
  unfold seStart
  (try dsimp only)
  with_reducible repeat' (first | (assumption) | (refine ite_keeps _ (fun _ => ?_) (fun _ => ?_)) | (refine setEng_keeps _ _ _ ?_) | (refine emit_keeps _ ?_) | (refine setReg_keeps _ _ _ ?_))

theorem seBegin_keeps {kb kz} (r e : Nat) (v : Word) {s : State} (hK : Keeps kb kz s) : Keeps kb kz (seBegin r e v s) := by
  unfold seBegin
  with_reducible repeat' (first | (assumption) | (refine ite_keeps _ (fun _ => ?_) (fun _ => ?_)) | (refine setReg_keeps _ _ _ ?_))

theorem seGo_keeps {kb kz} (r e : Nat) (v : Word) {s : State} (hK : Keeps kb kz s) : Keeps1 kb kz (seGo r e v s) := by
  unfold seGo
  with_reducible repeat' (first | (assumption) | (refine ite_keeps _ (fun _ => ?_) (fun _ => ?_)) | (refine withRow_keeps _ _ ?_ ?_) | (refine seStart_keeps _ _ _ ?_) | (refine seBegin_keeps _ _ _ ?_) | (refine setReg_keeps _ _ _ ?_) | (intro _) | (split) | (simp only [keeps_mk, keeps1_mk, keeps2_mk, keeps3_mk, keeps4_mk]))
theorem seGo_keeps_out {kb kz} (r e : Nat) (v : Word) {s : State} (hK : Keeps kb kz s) {x0 s₁} (hE : seGo r e v s = (x0, s₁)) : Keeps kb kz s₁ := by
  have := seGo_keeps (kb := kb) (kz := kz) r e v  hK
  rw [hE] at this; exact this.out

theorem seCmdWrite_keeps {kb kz} (r e : Nat) (v : Word) {s : State} (hK : Keeps kb kz s) : Keeps kb kz (seCmdWrite r e v s) := by
  unfold seCmdWrite
  with_reducible repeat' (first | (assumption) | (refine ite_keeps _ (fun _ => ?_) (fun _ => ?_)) | (refine (seGo_keeps _ _ _ ?_).out) | (refine seGo_keeps_out _ _ _ ?_ (by assumption)) | (refine setReg_keeps _ _ _ ?_))

theorem seLand_keeps {kb kz} (r e i : Nat) (bs : List Byte) {s : State} (hK : Keeps kb kz s) : Keeps kb kz (seLand r e i bs s) := by
  revert hK
  fun_induction seLand r e i bs s <;> intro hK <;> (try dsimp only) <;> with_reducible repeat' (first | (assumption) | (refine ite_keeps _ (fun _ => ?_) (fun _ => ?_)) | (refine seSetByte_keeps _ _ _ _ ?_) | (refine setReg_keeps _ _ _ ?_) | (apply_assumption))

theorem seEnd_keeps {kb kz} (r e err count : Nat) (rx : List Byte) {s : State} (hK : Keeps kb kz s) : Keeps kb kz (seEnd r e err count rx s) := by
  unfold seEnd
  (try dsimp only)
  with_reducible repeat' (first | (assumption) | (refine ite_keeps _ (fun _ => ?_) (fun _ => ?_)) | (refine withRow_keeps _ _ ?_ ?_) | (refine seLand_keeps _ _ _ _ ?_) | (refine setEng_keeps _ _ _ ?_) | (refine emit_keeps _ ?_) | (refine setReg_keeps _ _ _ ?_) | (intro _))

theorem cellFlush_keeps {kb kz} (r c : Nat) {s : State} (hK : Keeps kb kz s) : Keeps1 kb kz (cellFlush r c s) := by
  unfold cellFlush
  with_reducible repeat' (first | (assumption) | (refine ite_keeps _ (fun _ => ?_) (fun _ => ?_)) | (refine withRow_keeps _ _ ?_ ?_) | (refine setFifo_keeps _ _ ?_) | (refine setReg_keeps _ _ _ ?_) | (intro _) | (split) | (simp only [keeps_mk, keeps1_mk, keeps2_mk, keeps3_mk, keeps4_mk]))
theorem cellFlush_keeps_out {kb kz} (r c : Nat) {s : State} (hK : Keeps kb kz s) {x0 s₁} (hE : cellFlush r c s = (x0, s₁)) : Keeps kb kz s₁ := by
  have := cellFlush_keeps (kb := kb) (kz := kz) r c  hK
  rw [hE] at this; exact this.out

theorem gpioSet_keeps {kb kz} (r c : Nat) (out oe : Bool) {s : State} (hK : Keeps kb kz s) : Keeps1 kb kz (gpioSet r c out oe s) := by
  unfold gpioSet
  with_reducible repeat' (first | (assumption) | (refine ite_keeps _ (fun _ => ?_) (fun _ => ?_)) | (refine setRegB_keeps _ _ _ _ ?_) | (refine setReg_keeps _ _ _ ?_) | (intro _) | (split) | (simp only [keeps_mk, keeps1_mk, keeps2_mk, keeps3_mk, keeps4_mk]))
theorem gpioSet_keeps_out {kb kz} (r c : Nat) (out oe : Bool) {s : State} (hK : Keeps kb kz s) {x0 s₁} (hE : gpioSet r c out oe s = (x0, s₁)) : Keeps kb kz s₁ := by
  have := gpioSet_keeps (kb := kb) (kz := kz) r c out oe  hK
  rw [hE] at this; exact this.out

theorem cellThresh_keeps {kb kz} (r c rx tx : Nat) {s : State} (hK : Keeps kb kz s) : Keeps1 kb kz (cellThresh r c rx tx s) := by
  unfold cellThresh
  with_reducible repeat' (first | (assumption) | (refine ite_keeps _ (fun _ => ?_) (fun _ => ?_)) | (refine withRow_keeps _ _ ?_ ?_) | (refine setRegF_keeps _ _ _ _ _ ?_) | (refine setReg_keeps _ _ _ ?_) | (intro _) | (split) | (simp only [keeps_mk, keeps1_mk, keeps2_mk, keeps3_mk, keeps4_mk]))
theorem cellThresh_keeps_out {kb kz} (r c rx tx : Nat) {s : State} (hK : Keeps kb kz s) {x0 s₁} (hE : cellThresh r c rx tx s = (x0, s₁)) : Keeps kb kz s₁ := by
  have := cellThresh_keeps (kb := kb) (kz := kz) r c rx tx  hK
  rw [hE] at this; exact this.out

theorem portopCell_keeps {kb kz} (r c op : Nat) (arg : Nat) {s : State} (hK : Keeps kb kz s) : Keeps1 kb kz (portopCell r c op arg s) := by
  unfold portopCell
  (try dsimp only)
  with_reducible repeat' (first | (assumption) | (refine ite_keeps _ (fun _ => ?_) (fun _ => ?_)) | (refine (cellTryEnable_keeps _ _ ?_).out) | (refine cellTryEnable_keeps_out _ _ ?_ (by assumption)) | (refine rowRoutes_keeps _ _ ?_) | (refine withRow_keeps _ _ ?_ ?_) | (refine cellDisable_keeps _ _ ?_) | (refine (cellFlush_keeps _ _ ?_).out) | (refine cellFlush_keeps_out _ _ ?_ (by assumption)) | (refine (gpioSet_keeps _ _ _ _ ?_).out) | (refine gpioSet_keeps_out _ _ _ _ ?_ (by assumption)) | (refine (cellThresh_keeps _ _ _ _ ?_).out) | (refine cellThresh_keeps_out _ _ _ _ ?_ (by assumption)) | (refine setReg_keeps _ _ _ ?_) | (intro _) | (split) | (refine cellTryEnable_keeps _ _ ?_) | (refine cellFlush_keeps _ _ ?_) | (refine gpioSet_keeps _ _ _ _ ?_) | (refine cellThresh_keeps _ _ _ _ ?_) | (simp only [keeps_mk, keeps1_mk, keeps2_mk, keeps3_mk, keeps4_mk]))
theorem portopCell_keeps_out {kb kz} (r c op : Nat) (arg : Nat) {s : State} (hK : Keeps kb kz s) {x0 s₁} (hE : portopCell r c op arg s = (x0, s₁)) : Keeps kb kz s₁ := by
  have := portopCell_keeps (kb := kb) (kz := kz) r c op arg  hK
  rw [hE] at this; exact this.out

theorem portopEngine_keeps {kb kz} (r e op arg : Nat) {s : State} (hK : Keeps kb kz s) : Keeps1 kb kz (portopEngine r e op arg s) := by
  unfold portopEngine
  with_reducible repeat' (first | (assumption) | (refine ite_keeps _ (fun _ => ?_) (fun _ => ?_)) | (refine (seGo_keeps _ _ _ ?_).out) | (refine seGo_keeps_out _ _ _ ?_ (by assumption)) | (refine setReg_keeps _ _ _ ?_) | (intro _) | (split) | (refine seGo_keeps _ _ _ ?_) | (simp only [keeps_mk, keeps1_mk, keeps2_mk, keeps3_mk, keeps4_mk]))
theorem portopEngine_keeps_out {kb kz} (r e op arg : Nat) {s : State} (hK : Keeps kb kz s) {x0 s₁} (hE : portopEngine r e op arg s = (x0, s₁)) : Keeps kb kz s₁ := by
  have := portopEngine_keeps (kb := kb) (kz := kz) r e op arg  hK
  rw [hE] at this; exact this.out

/-! ## Machine/Hoes.lean -/

theorem Frac.grid_keeps {kb kz} (a : Frac) (k : Nat) {s : State} (hK : Keeps kb kz s) : Keeps1 kb kz (Frac.grid a k s) := by
  unfold Frac.grid
  (try dsimp only)
  with_reducible repeat' (first | (assumption) | (refine ite_keeps _ (fun _ => ?_) (fun _ => ?_)) | (refine (drawBit_keeps ?_).out) | (refine drawBit_keeps_out ?_ (by assumption)) | (refine setReg_keeps _ _ _ ?_) | (intro _) | (split) | (refine drawBit_keeps ?_) | (simp only [keeps_mk, keeps1_mk, keeps2_mk, keeps3_mk, keeps4_mk]))
theorem Frac.grid_keeps_out {kb kz} (a : Frac) (k : Nat) {s : State} (hK : Keeps kb kz s) {x0 s₁} (hE : Frac.grid a k s = (x0, s₁)) : Keeps kb kz s₁ := by
  have := Frac.grid_keeps (kb := kb) (kz := kz) a k  hK
  rw [hE] at this; exact this.out

theorem railCode_keeps {kb kz} (rail ones : Nat) {s : State} (hK : Keeps kb kz s) : Keeps kb kz (railCode rail ones s) := by
  unfold railCode
  (try dsimp only)
  with_reducible repeat' (first | (assumption) | (refine ite_keeps _ (fun _ => ?_) (fun _ => ?_)) | (refine setRail_keeps _ _ ?_) | (refine setRegF_keeps _ _ _ _ _ ?_) | (refine bumpF_keeps _ _ _ _ _ ?_) | (refine gaugeTake_keeps _ _ _ _ ?_))

theorem railGain_keeps {kb kz} (vref vfs c : Nat) {s : State} (hK : Keeps kb kz s) : Keeps1 kb kz (railGain vref vfs c s) := by
  unfold railGain
  split
  · split
    next h => exact ⟨drawNat_keeps_out hK h⟩
  · extract_lets
    split
    next h => exact ⟨Frac.grid_keeps_out _ _ hK h⟩
theorem railGain_keeps_out {kb kz} (vref vfs c : Nat) {s : State} (hK : Keeps kb kz s) {x0 s₁} (hE : railGain vref vfs c s = (x0, s₁)) : Keeps kb kz s₁ := by
  have := railGain_keeps (kb := kb) (kz := kz) vref vfs c  hK
  rw [hE] at this; exact this.out

theorem hoeTryEnable_keeps {kb kz} (r h : Nat) {s : State} (hK : Keeps kb kz s) : Keeps1 kb kz (hoeTryEnable r h s) := by
  unfold hoeTryEnable
  (try dsimp only)
  with_reducible repeat' (first | (assumption) | (refine ite_keeps _ (fun _ => ?_) (fun _ => ?_)) | (refine setHoe_keeps _ _ _ ?_) | (refine setRegB_keeps _ _ _ _ ?_) | (refine hFlag_keeps _ _ _ _ ?_) | (refine setReg_keeps _ _ _ ?_) | (intro _) | (split) | (simp only [keeps_mk, keeps1_mk, keeps2_mk, keeps3_mk, keeps4_mk]))
theorem hoeTryEnable_keeps_out {kb kz} (r h : Nat) {s : State} (hK : Keeps kb kz s) {x0 s₁} (hE : hoeTryEnable r h s = (x0, s₁)) : Keeps kb kz s₁ := by
  have := hoeTryEnable_keeps (kb := kb) (kz := kz) r h  hK
  rw [hE] at this; exact this.out

theorem hoeDisable_keeps {kb kz} (r h : Nat) {s : State} (hK : Keeps kb kz s) : Keeps kb kz (hoeDisable r h s) := by
  unfold hoeDisable
  (try dsimp only)
  with_reducible repeat' (first | (assumption) | (refine ite_keeps _ (fun _ => ?_) (fun _ => ?_)) | (refine lineBreak_keeps _ _ _ ?_) | (refine setRegB_keeps _ _ _ _ ?_) | (refine setHoe_keeps _ _ _ ?_) | (refine hoeStop_keeps _ _ ?_))

theorem hoeCfgWrite_keeps {kb kz} (r h : Nat) (v : Word) {s : State} (hK : Keeps kb kz s) : Keeps kb kz (hoeCfgWrite r h v s) := by
  unfold hoeCfgWrite
  (try dsimp only)
  with_reducible repeat' (first | (assumption) | (refine ite_keeps _ (fun _ => ?_) (fun _ => ?_)) | (refine hFlag_keeps _ _ _ _ ?_) | (refine withRow_keeps _ _ ?_ ?_) | (refine setHoe_keeps _ _ _ ?_) | (refine setReg_keeps _ _ _ ?_) | (refine (hoeTryEnable_keeps _ _ ?_).out) | (refine hoeTryEnable_keeps_out _ _ ?_ (by assumption)) | (refine hoeDisable_keeps _ _ ?_) | (intro _))

theorem hoeFifoWrite_keeps {kb kz} (r h : Nat) (v : Word) {s : State} (hK : Keeps kb kz s) : Keeps kb kz (hoeFifoWrite r h v s) := by
  unfold hoeFifoWrite
  (try dsimp only)
  with_reducible repeat' (first | (assumption) | (refine ite_keeps _ (fun _ => ?_) (fun _ => ?_)) | (refine hFlag_keeps _ _ _ _ ?_) | (refine withRow_keeps _ _ ?_ ?_) | (refine setReg_keeps _ _ _ ?_) | (intro _))

theorem hoeLimWrite_keeps {kb kz} (r h : Nat) (v : Word) {s : State} (hK : Keeps kb kz s) : Keeps kb kz (hoeLimWrite r h v s) := by
  unfold hoeLimWrite
  (try dsimp only)
  with_reducible repeat' (first | (assumption) | (refine ite_keeps _ (fun _ => ?_) (fun _ => ?_)) | (refine hFlag_keeps _ _ _ _ ?_) | (refine setReg_keeps _ _ _ ?_))

theorem hoeLoopWrite_keeps {kb kz} (r h : Nat) (v : Word) {s : State} (hK : Keeps kb kz s) : Keeps kb kz (hoeLoopWrite r h v s) := by
  unfold hoeLoopWrite
  with_reducible repeat' (first | (assumption) | (refine ite_keeps _ (fun _ => ?_) (fun _ => ?_)) | (refine setReg_keeps _ _ _ ?_) | (refine hFlag_keeps _ _ _ _ ?_))

theorem hoeInject_keeps {kb kz} (r h imode : Nat) {s : State} (hK : Keeps kb kz s) : Keeps1 kb kz (hoeInject r h imode s) := by
  unfold hoeInject
  with_reducible repeat' (first | (assumption) | (refine ite_keeps _ (fun _ => ?_) (fun _ => ?_)) | (refine hFlag_keeps _ _ _ _ ?_) | (refine setReg_keeps _ _ _ ?_) | (intro _) | (split) | (simp only [keeps_mk, keeps1_mk, keeps2_mk, keeps3_mk, keeps4_mk]))
theorem hoeInject_keeps_out {kb kz} (r h imode : Nat) {s : State} (hK : Keeps kb kz s) {x0 s₁} (hE : hoeInject r h imode s = (x0, s₁)) : Keeps kb kz s₁ := by
  have := hoeInject_keeps (kb := kb) (kz := kz) r h imode  hK
  rw [hE] at this; exact this.out

theorem hoeFlush_keeps {kb kz} (r h : Nat) {s : State} (hK : Keeps kb kz s) : Keeps1 kb kz (hoeFlush r h s) := by
  unfold hoeFlush
  with_reducible repeat' (first | (assumption) | (refine ite_keeps _ (fun _ => ?_) (fun _ => ?_)) | (refine withRow_keeps _ _ ?_ ?_) | (refine setFifo_keeps _ _ ?_) | (refine setReg_keeps _ _ _ ?_) | (intro _) | (split) | (simp only [keeps_mk, keeps1_mk, keeps2_mk, keeps3_mk, keeps4_mk]))
theorem hoeFlush_keeps_out {kb kz} (r h : Nat) {s : State} (hK : Keeps kb kz s) {x0 s₁} (hE : hoeFlush r h s = (x0, s₁)) : Keeps kb kz s₁ := by
  have := hoeFlush_keeps (kb := kb) (kz := kz) r h  hK
  rw [hE] at this; exact this.out

theorem hoeRearm_keeps {kb kz} (r h : Nat) {s : State} (hK : Keeps kb kz s) : Keeps1 kb kz (hoeRearm r h s) := by
  unfold hoeRearm
  (try dsimp only)
  with_reducible repeat' (first | (assumption) | (refine ite_keeps _ (fun _ => ?_) (fun _ => ?_)) | (refine setHoe_keeps _ _ _ ?_) | (refine setReg_keeps _ _ _ ?_) | (intro _) | (split) | (simp only [keeps_mk, keeps1_mk, keeps2_mk, keeps3_mk, keeps4_mk]))
theorem hoeRearm_keeps_out {kb kz} (r h : Nat) {s : State} (hK : Keeps kb kz s) {x0 s₁} (hE : hoeRearm r h s = (x0, s₁)) : Keeps kb kz s₁ := by
  have := hoeRearm_keeps (kb := kb) (kz := kz) r h  hK
  rw [hE] at this; exact this.out

theorem hoeThresh_keeps {kb kz} (r h tx : Nat) {s : State} (hK : Keeps kb kz s) : Keeps1 kb kz (hoeThresh r h tx s) := by
  unfold hoeThresh
  with_reducible repeat' (first | (assumption) | (refine ite_keeps _ (fun _ => ?_) (fun _ => ?_)) | (refine withRow_keeps _ _ ?_ ?_) | (refine setRegF_keeps _ _ _ _ _ ?_) | (refine setReg_keeps _ _ _ ?_) | (intro _) | (split) | (simp only [keeps_mk, keeps1_mk, keeps2_mk, keeps3_mk, keeps4_mk]))
theorem hoeThresh_keeps_out {kb kz} (r h tx : Nat) {s : State} (hK : Keeps kb kz s) {x0 s₁} (hE : hoeThresh r h tx s = (x0, s₁)) : Keeps kb kz s₁ := by
  have := hoeThresh_keeps (kb := kb) (kz := kz) r h tx  hK
  rw [hE] at this; exact this.out

theorem portopHoe_keeps {kb kz} (r h op arg : Nat) {s : State} (hK : Keeps kb kz s) : Keeps1 kb kz (portopHoe r h op arg s) := by
  unfold portopHoe
  (try dsimp only)
  with_reducible repeat' (first | (assumption) | (refine ite_keeps _ (fun _ => ?_) (fun _ => ?_)) | (refine (hoeTryEnable_keeps _ _ ?_).out) | (refine hoeTryEnable_keeps_out _ _ ?_ (by assumption)) | (refine rowRoutes_keeps _ _ ?_) | (refine withRow_keeps _ _ ?_ ?_) | (refine hoeDisable_keeps _ _ ?_) | (refine (hoeFlush_keeps _ _ ?_).out) | (refine hoeFlush_keeps_out _ _ ?_ (by assumption)) | (refine (hoeRearm_keeps _ _ ?_).out) | (refine hoeRearm_keeps_out _ _ ?_ (by assumption)) | (refine (hoeThresh_keeps _ _ _ ?_).out) | (refine hoeThresh_keeps_out _ _ _ ?_ (by assumption)) | (refine (hoeInject_keeps _ _ _ ?_).out) | (refine hoeInject_keeps_out _ _ _ ?_ (by assumption)) | (refine setReg_keeps _ _ _ ?_) | (intro _) | (split) | (refine hoeTryEnable_keeps _ _ ?_) | (refine hoeFlush_keeps _ _ ?_) | (refine hoeRearm_keeps _ _ ?_) | (refine hoeThresh_keeps _ _ _ ?_) | (refine hoeInject_keeps _ _ _ ?_) | (simp only [keeps_mk, keeps1_mk, keeps2_mk, keeps3_mk, keeps4_mk]))
theorem portopHoe_keeps_out {kb kz} (r h op arg : Nat) {s : State} (hK : Keeps kb kz s) {x0 s₁} (hE : portopHoe r h op arg s = (x0, s₁)) : Keeps kb kz s₁ := by
  have := portopHoe_keeps (kb := kb) (kz := kz) r h op arg  hK
  rw [hE] at this; exact this.out

theorem hoeCtrlWrite_keeps {kb kz} (r h : Nat) (v : Word) {s : State} (hK : Keeps kb kz s) : Keeps kb kz (hoeCtrlWrite r h v s) := by
  unfold hoeCtrlWrite
  (try dsimp only)
  with_reducible repeat' (first | (assumption) | (refine ite_keeps _ (fun _ => ?_) (fun _ => ?_)) | (refine (hoeRearm_keeps _ _ ?_).out) | (refine hoeRearm_keeps_out _ _ ?_ (by assumption)) | (refine (hoeFlush_keeps _ _ ?_).out) | (refine hoeFlush_keeps_out _ _ ?_ (by assumption)) | (refine setRegF_keeps _ _ _ _ _ ?_) | (refine withRow_keeps _ _ ?_ ?_) | (refine shearTrip_keeps _ _ _ ?_) | (refine setReg_keeps _ _ _ ?_) | (intro _))

theorem hoeDthWrite_keeps {kb kz} (r off : Nat) (b : Bool) (v : Word) {s : State} (hK : Keeps kb kz s) : Keeps kb kz (hoeDthWrite r off b v s) := by
  unfold hoeDthWrite
  (try dsimp only)
  with_reducible repeat' (first | (assumption) | (refine ite_keeps _ (fun _ => ?_) (fun _ => ?_)) | (refine setReg_keeps _ _ _ ?_))

theorem railCfgWrite_keeps {kb kz} (rail : Nat) (v : Word) {s : State} (hK : Keeps kb kz s) : Keeps kb kz (railCfgWrite rail v s) := by
  unfold railCfgWrite
  (try dsimp only)
  with_reducible repeat' (first | (assumption) | (refine ite_keeps _ (fun _ => ?_) (fun _ => ?_)) | (refine setRegB_keeps _ _ _ _ ?_) | (refine setReg_keeps _ _ _ ?_))

theorem railStatWrite_keeps {kb kz} (rail : Nat) (v : Word) {s : State} (hK : Keeps kb kz s) : Keeps kb kz (railStatWrite rail v s) := by
  unfold railStatWrite
  (try dsimp only)
  with_reducible repeat' (first | (assumption) | (refine ite_keeps _ (fun _ => ?_) (fun _ => ?_)) | (refine setReg_keeps _ _ _ ?_))

theorem hoeTakeWord_keeps {kb kz} (r h : Nat) {s : State} (hK : Keeps kb kz s) : Keeps1 kb kz (hoeTakeWord r h s) := by
  unfold hoeTakeWord
  with_reducible repeat' (first | (assumption) | (refine ite_keeps _ (fun _ => ?_) (fun _ => ?_)) | (refine setFifo_keeps _ _ ?_) | (refine bumpF_keeps _ _ _ _ _ ?_) | (refine hFlag_keeps _ _ _ _ ?_) | (refine setReg_keeps _ _ _ ?_) | (intro _) | (split) | (simp only [keeps_mk, keeps1_mk, keeps2_mk, keeps3_mk, keeps4_mk]))
theorem hoeTakeWord_keeps_out {kb kz} (r h : Nat) {s : State} (hK : Keeps kb kz s) {x0 s₁} (hE : hoeTakeWord r h s = (x0, s₁)) : Keeps kb kz s₁ := by
  have := hoeTakeWord_keeps (kb := kb) (kz := kz) r h  hK
  rw [hE] at this; exact this.out

theorem limiter_keeps {kb kz} (cfg lim : Word) (g : Nat) (down : Bool) (need : Frac) {s : State} (hK : Keeps kb kz s) : Keeps2 kb kz (limiter cfg lim g down need s) := by
  unfold limiter
  (try dsimp only)
  with_reducible repeat' (first | (assumption) | (refine ite_keeps _ (fun _ => ?_) (fun _ => ?_)) | (refine (Frac.grid_keeps _ _ ?_).out) | (refine Frac.grid_keeps_out _ _ ?_ (by assumption)) | (refine setReg_keeps _ _ _ ?_) | (intro _) | (split) | (refine Frac.grid_keeps _ _ ?_) | (simp only [keeps_mk, keeps1_mk, keeps2_mk, keeps3_mk, keeps4_mk]))
theorem limiter_keeps_out {kb kz} (cfg lim : Word) (g : Nat) (down : Bool) (need : Frac) {s : State} (hK : Keeps kb kz s) {x0 x1 s₁} (hE : limiter cfg lim g down need s = (x0, x1, s₁)) : Keeps kb kz s₁ := by
  have := limiter_keeps (kb := kb) (kz := kz) cfg lim g down need  hK
  rw [hE] at this; exact this.out

theorem integrate_keeps {kb kz} (i : Int) (k : Nat) (e : Frac) {s : State} (hK : Keeps kb kz s) : Keeps2 kb kz (integrate i k e s) := by
  unfold integrate
  (try dsimp only)
  with_reducible repeat' (first | (assumption) | (refine ite_keeps _ (fun _ => ?_) (fun _ => ?_)) | (refine (Frac.grid_keeps _ _ ?_).out) | (refine Frac.grid_keeps_out _ _ ?_ (by assumption)) | (refine setReg_keeps _ _ _ ?_) | (intro _) | (split) | (refine Frac.grid_keeps _ _ ?_) | (simp only [keeps_mk, keeps1_mk, keeps2_mk, keeps3_mk, keeps4_mk]))
theorem integrate_keeps_out {kb kz} (i : Int) (k : Nat) (e : Frac) {s : State} (hK : Keeps kb kz s) {x0 x1 s₁} (hE : integrate i k e s = (x0, x1, s₁)) : Keeps kb kz s₁ := by
  have := integrate_keeps (kb := kb) (kz := kz) i k e  hK
  rw [hE] at this; exact this.out

theorem hoeLoop_keeps {kb kz} (lord : Nat) (lp : Word) (i1 i2 : Int) (u y : Frac) {s : State} (hK : Keeps kb kz s) : Keeps4 kb kz (hoeLoop lord lp i1 i2 u y s) := by
  unfold hoeLoop
  (try dsimp only)
  with_reducible repeat' (first | (assumption) | (refine ite_keeps _ (fun _ => ?_) (fun _ => ?_)) | (refine (integrate_keeps _ _ _ ?_).out) | (refine integrate_keeps_out _ _ _ ?_ (by assumption)) | (refine setReg_keeps _ _ _ ?_) | (intro _) | (split) | (refine integrate_keeps _ _ _ ?_) | (simp only [keeps_mk, keeps1_mk, keeps2_mk, keeps3_mk, keeps4_mk]))
theorem hoeLoop_keeps_out {kb kz} (lord : Nat) (lp : Word) (i1 i2 : Int) (u y : Frac) {s : State} (hK : Keeps kb kz s) {x0 x1 x2 x3 s₁} (hE : hoeLoop lord lp i1 i2 u y s = (x0, x1, x2, x3, s₁)) : Keeps kb kz s₁ := by
  have := hoeLoop_keeps (kb := kb) (kz := kz) lord lp i1 i2 u y  hK
  rw [hE] at this; exact this.out

theorem hoeInput_keeps {kb kz} (r h pos : Nat) {s : State} (hK : Keeps kb kz s) : Keeps1 kb kz (hoeInput r h pos s) := by
  unfold hoeInput
  (try dsimp only)
  with_reducible repeat' (first | (assumption) | (refine ite_keeps _ (fun _ => ?_) (fun _ => ?_)) | (refine (hoeTakeWord_keeps _ _ ?_).out) | (refine hoeTakeWord_keeps_out _ _ ?_ (by assumption)) | (refine setHoe_keeps _ _ _ ?_) | (refine setReg_keeps _ _ _ ?_) | (intro _) | (split) | (refine hoeTakeWord_keeps _ _ ?_) | (simp only [keeps_mk, keeps1_mk, keeps2_mk, keeps3_mk, keeps4_mk]))
theorem hoeInput_keeps_out {kb kz} (r h pos : Nat) {s : State} (hK : Keeps kb kz s) {x0 s₁} (hE : hoeInput r h pos s = (x0, s₁)) : Keeps kb kz s₁ := by
  have := hoeInput_keeps (kb := kb) (kz := kz) r h pos  hK
  rw [hE] at this; exact this.out

theorem hoeVolts_keeps {kb kz} (r h vs : Nat) {s : State} (hK : Keeps kb kz s) : Keeps kb kz (hoeVolts r h vs s) := by
  unfold hoeVolts
  (try dsimp only)
  with_reducible repeat' (first | (assumption) | (refine ite_keeps _ (fun _ => ?_) (fun _ => ?_)) | (refine setReg_keeps _ _ _ ?_) | (refine setHoe_keeps _ _ _ ?_))

theorem lineMeasure_keeps {kb kz} (r h : Nat) {s : State} (hK : Keeps kb kz s) : Keeps kb kz (lineMeasure r h s) := by
  unfold lineMeasure
  with_reducible repeat' (first | (assumption) | (refine ite_keeps _ (fun _ => ?_) (fun _ => ?_)) | (refine setReg_keeps _ _ _ ?_) | (intro _) | (split) | (simp only [keeps_mk, keeps1_mk, keeps2_mk, keeps3_mk, keeps4_mk]) | (refine parts_of ?_))

theorem hoeMeasure_keeps {kb kz} (r h vs is : Nat) {s : State} (hK : Keeps kb kz s) : Keeps kb kz (hoeMeasure r h vs is s) := by
  unfold hoeMeasure
  (try dsimp only)
  with_reducible repeat' (first | (assumption) | (refine ite_keeps _ (fun _ => ?_) (fun _ => ?_)) | (refine hoeVolts_keeps _ _ _ ?_) | (refine lineMeasure_keeps _ _ ?_) | (refine setReg_keeps _ _ _ ?_))

theorem hoeDraws_keeps {kb kz} (r h : Nat) {s : State} (hK : Keeps kb kz s) : Keeps2 kb kz (hoeDraws r h s) := by
  unfold hoeDraws
  (try dsimp only)
  with_reducible repeat' (first | (assumption) | (refine ite_keeps _ (fun _ => ?_) (fun _ => ?_)) | (refine setReg_keeps _ _ _ ?_) | (intro _) | (split) | (simp only [keeps_mk, keeps1_mk, keeps2_mk, keeps3_mk, keeps4_mk]))
theorem hoeDraws_keeps_out {kb kz} (r h : Nat) {s : State} (hK : Keeps kb kz s) {x0 x1 s₁} (hE : hoeDraws r h s = (x0, x1, s₁)) : Keeps kb kz s₁ := by
  have := hoeDraws_keeps (kb := kb) (kz := kz) r h  hK
  rw [hE] at this; exact this.out

theorem hoeSensed_keeps {kb kz} (m : Int) (vsfs vref : Nat) {s : State} (hK : Keeps kb kz s) : Keeps1 kb kz (hoeSensed m vsfs vref s) := by
  unfold hoeSensed
  (try dsimp only)
  with_reducible repeat' (first | (assumption) | (refine ite_keeps _ (fun _ => ?_) (fun _ => ?_)) | (refine (drawWord_keeps ?_).out) | (refine drawWord_keeps_out ?_ (by assumption)) | (refine setReg_keeps _ _ _ ?_) | (intro _) | (split) | (refine drawWord_keeps ?_) | (simp only [keeps_mk, keeps1_mk, keeps2_mk, keeps3_mk, keeps4_mk]))
theorem hoeSensed_keeps_out {kb kz} (m : Int) (vsfs vref : Nat) {s : State} (hK : Keeps kb kz s) {x0 s₁} (hE : hoeSensed m vsfs vref s = (x0, s₁)) : Keeps kb kz s₁ := by
  have := hoeSensed_keeps (kb := kb) (kz := kz) m vsfs vref  hK
  rw [hE] at this; exact this.out

theorem hoeModulate_keeps {kb kz} (r h pos : Nat) (u : Frac) (g : Frac) {s : State} (hK : Keeps kb kz s) : Keeps kb kz (hoeModulate r h pos u g s) := by
  unfold hoeModulate
  (try dsimp only)
  with_reducible repeat' (first | (assumption) | (refine ite_keeps _ (fun _ => ?_) (fun _ => ?_)) | (refine (hoeSensed_keeps _ _ _ ?_).out) | (refine hoeSensed_keeps_out _ _ _ ?_ (by assumption)) | (refine (hoeLoop_keeps _ _ _ _ _ _ ?_).out) | (refine hoeLoop_keeps_out _ _ _ _ _ _ ?_ (by assumption)) | (refine shearTrip_keeps _ _ _ ?_) | (refine (hoeDraws_keeps _ _ ?_).out) | (refine hoeDraws_keeps_out _ _ ?_ (by assumption)) | (refine hFlag_keeps _ _ _ _ ?_) | (refine setHoe_keeps _ _ _ ?_) | (refine emit_keeps _ ?_))

theorem gaugeFit_keeps {kb kz} (v : Int) {s : State} (hK : Keeps kb kz s) : Keeps1 kb kz (gaugeFit v s) := by
  unfold gaugeFit
  (try dsimp only)
  with_reducible repeat' (first | (assumption) | (refine ite_keeps _ (fun _ => ?_) (fun _ => ?_)) | (refine (drawNat_keeps ?_).out) | (refine drawNat_keeps_out ?_ (by assumption)) | (refine setReg_keeps _ _ _ ?_) | (intro _) | (split) | (refine drawNat_keeps ?_) | (simp only [keeps_mk, keeps1_mk, keeps2_mk, keeps3_mk, keeps4_mk]))
theorem gaugeFit_keeps_out {kb kz} (v : Int) {s : State} (hK : Keeps kb kz s) {x0 s₁} (hE : gaugeFit v s = (x0, s₁)) : Keeps kb kz s₁ := by
  have := gaugeFit_keeps (kb := kb) (kz := kz) v  hK
  rw [hE] at this; exact this.out

theorem hoePeriod_keeps {kb kz} (r h pos : Nat) {s : State} (hK : Keeps kb kz s) : Keeps kb kz (hoePeriod r h pos s) := by
  unfold hoePeriod
  extract_lets cfg lim rail
  split
  next x s1 hx =>
  have h1 := hoeInput_keeps_out _ _ _ hK hx
  split
  next g s2 hg =>
  have h2 := railGain_keeps_out _ _ _ h1 hg
  split
  next gn caught s3 hl =>
  have h3 := limiter_keeps_out _ _ _ _ _ h2 hl
  extract_lets s4
  have h4 : Keeps kb kz s4 := ite_keeps _ (fun _ => bumpF_keeps _ _ _ _ _ (hFlag_keeps _ _ _ _ h3)) (fun _ => h3)
  split
  next xg s5 hf =>
  have h5 := gaugeFit_keeps_out _ h4 hf
  exact hoeModulate_keeps _ _ _ _ _ (setG23_keeps _ _ _ (gaugeTake_keeps _ _ _ _ (gaugeTake_keeps _ _ _ _ h5)))

theorem hoeStart_keeps {kb kz} (r h : Nat) {s : State} (hK : Keeps kb kz s) : Keeps kb kz (hoeStart r h s) := by
  unfold hoeStart
  (try dsimp only)
  with_reducible repeat' (first | (assumption) | (refine ite_keeps _ (fun _ => ?_) (fun _ => ?_)) | (refine emit_keeps _ ?_) | (refine hFlag_keeps _ _ _ _ ?_) | (refine setG23_keeps _ _ _ ?_) | (refine setHoe_keeps _ _ _ ?_))

theorem pllStop_keeps {kb kz}  {s : State} (hK : Keeps kb kz s) : Keeps kb kz (pllStop s) := by
  unfold pllStop
  with_reducible repeat' (first | (assumption) | (refine ite_keeps _ (fun _ => ?_) (fun _ => ?_)) | (refine setReg_keeps _ _ _ ?_) | (intro _) | (split) | (simp only [keeps_mk, keeps1_mk, keeps2_mk, keeps3_mk, keeps4_mk]) | (refine parts_of ?_))

theorem hoeUnlatch_keeps {kb kz} (r h : Nat) {s : State} (hK : Keeps kb kz s) : Keeps kb kz (hoeUnlatch r h s) := by
  unfold hoeUnlatch
  (try dsimp only)
  with_reducible repeat' (first | (assumption) | (refine ite_keeps _ (fun _ => ?_) (fun _ => ?_)) | (refine emit_keeps _ ?_) | (refine hFlag_keeps _ _ _ _ ?_) | (refine setHoe_keeps _ _ _ ?_) | (refine hoeStart_keeps _ _ ?_))

theorem hoeLatch_keeps {kb kz} (r h pos vs is : Nat) {s : State} (hK : Keeps kb kz s) : Keeps kb kz (hoeLatch r h pos vs is s) := by
  unfold hoeLatch
  (try dsimp only)
  with_reducible repeat' (first | (assumption) | (refine ite_keeps _ (fun _ => ?_) (fun _ => ?_)) | (refine hoeMeasure_keeps _ _ _ _ ?_) | (refine setHoe_keeps _ _ _ ?_) | (refine setReg_keeps _ _ _ ?_) | (intro _) | (split) | (simp only [keeps_mk, keeps1_mk, keeps2_mk, keeps3_mk, keeps4_mk]) | (refine parts_of ?_))

theorem hoeTake_keeps {kb kz} (r h pos : Nat) {s : State} (hK : Keeps kb kz s) : Keeps kb kz (hoeTake r h pos s) := by
  unfold hoeTake
  with_reducible repeat' (first | (assumption) | (refine ite_keeps _ (fun _ => ?_) (fun _ => ?_)) | (refine (hoeTakeWord_keeps _ _ ?_).out) | (refine hoeTakeWord_keeps_out _ _ ?_ (by assumption)) | (refine hoeStop_keeps _ _ ?_) | (refine hoePeriod_keeps _ _ _ ?_))

theorem fastRail_keeps {kb kz} (rail f : Nat) {s : State} (hK : Keeps kb kz s) : Keeps kb kz (fastRail rail f s) := by
  unfold fastRail
  (try dsimp only)
  with_reducible repeat' (first | (assumption) | (refine ite_keeps _ (fun _ => ?_) (fun _ => ?_)) | (refine setRail_keeps _ _ ?_) | (refine bumpF_keeps _ _ _ _ _ ?_) | (refine setRegB_keeps _ _ _ _ ?_) | (refine tripRail_keeps _ _ ?_))

theorem fastHoe_keeps {kb kz} (r h f : Nat) {s : State} (hK : Keeps kb kz s) : Keeps kb kz (fastHoe r h f s) := by
  unfold fastHoe
  (try dsimp only)
  with_reducible repeat' (first | (assumption) | (refine ite_keeps _ (fun _ => ?_) (fun _ => ?_)) | (refine setHoe_keeps _ _ _ ?_) | (refine withRow_keeps _ _ ?_ ?_) | (refine shearTrip_keeps _ _ _ ?_) | (refine setReg_keeps _ _ _ ?_) | (intro _))

theorem rowSupplyFail_keeps {kb kz} (r : Nat) {s : State} (hK : Keeps kb kz s) : Keeps kb kz (rowSupplyFail r s) := by
  unfold rowSupplyFail
  (try dsimp only)
  with_reducible repeat' (first | (assumption) | (refine ite_keeps _ (fun _ => ?_) (fun _ => ?_)) | (refine forAll_keeps _ _ ?_ ?_) | (refine withRow_keeps _ _ ?_ ?_) | (refine setRegB_keeps _ _ _ _ ?_) | (refine railCellLost_keeps _ _ ?_) | (refine cellOff_keeps _ _ ?_) | (refine setG23_keeps _ _ _ ?_) | (refine hoeStop_keeps _ _ ?_) | (refine setReg_keeps _ _ _ ?_) | (intro _))

end Sys2Proof.Machine
end

