-- ==== Sys2Proof/Laws/KeepsLinks.lean ====
section
/-! SUPPORT. Laws that say, operation by operation, that the canonical form, the queue and OTP are kept: Ethernet, host queues, gauges, line tests, channels outside their steps and chain cells. -/

namespace Sys2Proof.Machine

/-! ## Machine/Eth.lean -/

theorem setStrm_keeps {kb kz} (k : Nat) (x : Strm) {s : State} (hK : Keeps kb kz s) : Keeps kb kz (setStrm k x s) := by
  unfold setStrm
  with_reducible repeat' (first | (assumption) | (refine ite_keeps _ (fun _ => ?_) (fun _ => ?_)) | (refine setReg_keeps _ _ _ ?_) | (intro _) | (split) | (simp only [keeps_mk, keeps1_mk, keeps2_mk, keeps3_mk, keeps4_mk]) | (refine parts_of ?_))

theorem setMac_keeps {kb kz} (m : Nat) (x : Mac) {s : State} (hK : Keeps kb kz s) : Keeps kb kz (setMac m x s) := by
  unfold setMac
  with_reducible repeat' (first | (assumption) | (refine ite_keeps _ (fun _ => ?_) (fun _ => ?_)) | (refine setReg_keeps _ _ _ ?_) | (intro _) | (split) | (simp only [keeps_mk, keeps1_mk, keeps2_mk, keeps3_mk, keeps4_mk]) | (refine parts_of ?_))

theorem refNow_keeps {kb kz}  {s : State} (hK : Keeps kb kz s) : Keeps kb kz (refNow s) := by
  unfold refNow
  with_reducible repeat' (first | (assumption) | (refine ite_keeps _ (fun _ => ?_) (fun _ => ?_)) | (refine setReg_keeps _ _ _ ?_) | (intro _) | (split) | (simp only [keeps_mk, keeps1_mk, keeps2_mk, keeps3_mk, keeps4_mk]) | (refine parts_of ?_))

theorem strmFlag_keeps {kb kz} (m : Nat) (talk : Bool) (i b : Nat) {s : State} (hK : Keeps kb kz s) : Keeps kb kz (strmFlag m talk i b s) := by
  unfold strmFlag
  with_reducible repeat' (first | (assumption) | (refine ite_keeps _ (fun _ => ?_) (fun _ => ?_)) | (refine setRegB_keeps _ _ _ _ ?_))

theorem strmCfgWrite_keeps {kb kz} (m : Nat) (talk : Bool) (i : Nat) (v0 : Word) {s : State} (hK : Keeps kb kz s) : Keeps kb kz (strmCfgWrite m talk i v0 s) := by
  unfold strmCfgWrite
  (try dsimp only)
  with_reducible repeat' (first | (assumption) | (refine ite_keeps _ (fun _ => ?_) (fun _ => ?_)) | (refine strmFlag_keeps _ _ _ _ ?_) | (refine setReg_keeps _ _ _ ?_) | (refine setRegB_keeps _ _ _ _ ?_) | (refine setStrm_keeps _ _ ?_))

theorem strmBump_keeps {kb kz} (k c n : Nat) {s : State} (hK : Keeps kb kz s) : Keeps kb kz (strmBump k c n s) := by
  unfold strmBump
  (try dsimp only)
  with_reducible repeat' (first | (assumption) | (refine ite_keeps _ (fun _ => ?_) (fun _ => ?_)) | (refine setStrm_keeps _ _ ?_))

theorem listenerEnter_keeps {kb kz} (m i : Nat) (ws : List Word) {s : State} (hK : Keeps kb kz s) : Keeps kb kz (listenerEnter m i ws s) := by
  unfold listenerEnter
  (try dsimp only)
  with_reducible repeat' (first | (assumption) | (refine ite_keeps _ (fun _ => ?_) (fun _ => ?_)) | (refine forAll_keeps _ _ ?_ ?_) | (refine gaugeTake_keeps _ _ _ _ ?_) | (refine setFifo_keeps _ _ ?_) | (refine strmBump_keeps _ _ _ ?_) | (refine strmFlag_keeps _ _ _ _ ?_) | (refine setReg_keeps _ _ _ ?_) | (intro _))

theorem talkNarrow_keeps {kb kz} (m i w : Nat) (x : Word) {s : State} (hK : Keeps kb kz s) : Keeps1 kb kz (talkNarrow m i w x s) := by
  unfold talkNarrow
  (try dsimp only)
  with_reducible repeat' (first | (assumption) | (refine ite_keeps _ (fun _ => ?_) (fun _ => ?_)) | (refine setStrm_keeps _ _ ?_) | (refine strmBump_keeps _ _ _ ?_) | (refine strmFlag_keeps _ _ _ _ ?_) | (refine setReg_keeps _ _ _ ?_) | (intro _) | (split) | (simp only [keeps_mk, keeps1_mk, keeps2_mk, keeps3_mk, keeps4_mk]))
theorem talkNarrow_keeps_out {kb kz} (m i w : Nat) (x : Word) {s : State} (hK : Keeps kb kz s) {x0 s₁} (hE : talkNarrow m i w x s = (x0, s₁)) : Keeps kb kz s₁ := by
  have := talkNarrow_keeps (kb := kb) (kz := kz) m i w x  hK
  rw [hE] at this; exact this.out

theorem talkNarrows_keeps {kb kz} (m i w : Nat) (xs : List Word) {s : State} (hK : Keeps kb kz s) : Keeps1 kb kz (talkNarrows m i w xs s) := by
  revert hK
  fun_induction talkNarrows m i w xs s <;> intro hK <;> (try dsimp only) <;> with_reducible repeat' (first | (assumption) | (refine ite_keeps _ (fun _ => ?_) (fun _ => ?_)) | (refine (talkNarrow_keeps _ _ _ _ ?_).out) | (refine talkNarrow_keeps_out _ _ _ _ ?_ (by assumption)) | (refine setReg_keeps _ _ _ ?_) | (apply_assumption) | (refine Keeps1.of ?_ (by assumption)) | (refine Keeps2.of ?_ (by assumption)) | (intro _) | (split) | (refine talkNarrow_keeps _ _ _ _ ?_) | (simp only [keeps_mk, keeps1_mk, keeps2_mk, keeps3_mk, keeps4_mk]))
theorem talkNarrows_keeps_out {kb kz} (m i w : Nat) (xs : List Word) {s : State} (hK : Keeps kb kz s) {x0 s₁} (hE : talkNarrows m i w xs s = (x0, s₁)) : Keeps kb kz s₁ := by
  have := talkNarrows_keeps (kb := kb) (kz := kz) m i w xs  hK
  rw [hE] at this; exact this.out

theorem macCredits_keeps {kb kz} (m t : Nat) {s : State} (hK : Keeps kb kz s) : Keeps kb kz (macCredits m t s) := by
  unfold macCredits
  (try dsimp only)
  with_reducible repeat' (first | (assumption) | (refine ite_keeps _ (fun _ => ?_) (fun _ => ?_)) | (refine setMac_keeps _ _ ?_))

theorem macQueueAt_keeps {kb kz} (m t : Nat) (f : EFrame) {s0 : State} (hK : Keeps kb kz s0) : Keeps kb kz (macQueueAt m t f s0) := by
  unfold macQueueAt
  (try dsimp only)
  with_reducible repeat' (first | (assumption) | (refine ite_keeps _ (fun _ => ?_) (fun _ => ?_)) | (refine macCredits_keeps _ _ ?_) | (refine setMac_keeps _ _ ?_))

theorem macQueue_keeps {kb kz} (m : Nat) (f : EFrame) {s : State} (hK : Keeps kb kz s) : Keeps kb kz (macQueue m f s) :=
  macQueueAt_keeps _ _ _ hK

theorem macSettle_keeps {kb kz} (m : Nat) {s : State} (hK : Keeps kb kz s) : Keeps kb kz (macSettle m s) := by
  unfold macSettle
  with_reducible repeat' (first | (assumption) | (refine ite_keeps _ (fun _ => ?_) (fun _ => ?_)) | (refine macCredits_keeps _ _ ?_))

theorem ptpStatus_keeps {kb kz} (m : Nat) (gm : Bool) {s : State} (hK : Keeps kb kz s) : Keeps kb kz (ptpStatus m gm s) := by
  unfold ptpStatus
  with_reducible repeat' (first | (assumption) | (refine ite_keeps _ (fun _ => ?_) (fun _ => ?_)) | (refine setRegB_keeps _ _ _ _ ?_))

theorem ptpRead_keeps {kb kz} (m sub : Nat) {s : State} (hK : Keeps kb kz s) : Keeps1 kb kz (ptpRead m sub s) := by
  unfold ptpRead
  (try dsimp only)
  with_reducible repeat' (first | (assumption) | (refine ite_keeps _ (fun _ => ?_) (fun _ => ?_)) | (refine setReg_keeps _ _ _ ?_) | (intro _) | (split) | (simp only [keeps_mk, keeps1_mk, keeps2_mk, keeps3_mk, keeps4_mk]))
theorem ptpRead_keeps_out {kb kz} (m sub : Nat) {s : State} (hK : Keeps kb kz s) {x0 s₁} (hE : ptpRead m sub s = (x0, s₁)) : Keeps kb kz s₁ := by
  have := ptpRead_keeps (kb := kb) (kz := kz) m sub  hK
  rw [hE] at this; exact this.out

theorem ptpCfgWrite_keeps {kb kz} (m : Nat) (v : Word) {s : State} (hK : Keeps kb kz s) : Keeps kb kz (ptpCfgWrite m v s) := by
  unfold ptpCfgWrite
  (try dsimp only)
  with_reducible repeat' (first | (assumption) | (refine ite_keeps _ (fun _ => ?_) (fun _ => ?_)) | (refine setRegB_keeps _ _ _ _ ?_) | (refine setReg_keeps _ _ _ ?_) | (refine setMac_keeps _ _ ?_))

theorem qavWrite_keeps {kb kz} (m : Nat) (b : Bool) (v : Word) {s : State} (hK : Keeps kb kz s) : Keeps kb kz (qavWrite m b v s) := by
  unfold qavWrite
  (try dsimp only)
  with_reducible repeat' (first | (assumption) | (refine ite_keeps _ (fun _ => ?_) (fun _ => ?_)) | (refine setRegB_keeps _ _ _ _ ?_) | (refine setReg_keeps _ _ _ ?_) | (refine macSettle_keeps _ ?_))

theorem ethCfgWrite_keeps {kb kz} (m : Nat) (v : Word) {s : State} (hK : Keeps kb kz s) : Keeps kb kz (ethCfgWrite m v s) := by
  unfold ethCfgWrite
  (try dsimp only)
  with_reducible repeat' (first | (assumption) | (refine ite_keeps _ (fun _ => ?_) (fun _ => ?_)) | (refine setReg_keeps _ _ _ ?_) | (refine macSettle_keeps _ ?_) | (refine setRegB_keeps _ _ _ _ ?_))

theorem crfCfgWrite_keeps {kb kz} (m : Nat) (v : Word) {s : State} (hK : Keeps kb kz s) : Keeps kb kz (crfCfgWrite m v s) := by
  unfold crfCfgWrite
  (try dsimp only)
  with_reducible repeat' (first | (assumption) | (refine ite_keeps _ (fun _ => ?_) (fun _ => ?_)) | (refine setReg_keeps _ _ _ ?_) | (refine setMac_keeps _ _ ?_))

theorem ethWrite_keeps {kb kz} (m off : Nat) (v : Word) {s : State} (hK : Keeps kb kz s) : Keeps kb kz (ethWrite m off v s) := by
  unfold ethWrite
  (try dsimp only)
  with_reducible repeat' (first | (assumption) | (refine ite_keeps _ (fun _ => ?_) (fun _ => ?_)) | (refine strmCfgWrite_keeps _ _ _ _ ?_) | (refine ethCfgWrite_keeps _ _ ?_) | (refine qavWrite_keeps _ _ _ ?_) | (refine ptpCfgWrite_keeps _ _ ?_) | (refine setReg_keeps _ _ _ ?_) | (refine setMac_keeps _ _ ?_) | (refine setStrm_keeps _ _ ?_) | (refine crfCfgWrite_keeps _ _ ?_) | (intro _) | (split))

/-! ## Machine/HostQ.lean -/

theorem setHq_keeps {kb kz} (q : Nat) (x : HQ) {s : State} (hK : Keeps kb kz s) : Keeps kb kz (setHq q x s) := by
  unfold setHq
  with_reducible repeat' (first | (assumption) | (refine ite_keeps _ (fun _ => ?_) (fun _ => ?_)) | (refine setReg_keeps _ _ _ ?_) | (intro _) | (split) | (simp only [keeps_mk, keeps1_mk, keeps2_mk, keeps3_mk, keeps4_mk]) | (refine parts_of ?_))

theorem modHq_keeps {kb kz} (q : Nat) (f : HQ → HQ) {s : State} (hK : Keeps kb kz s) : Keeps kb kz (modHq q f s) := by
  unfold modHq
  with_reducible repeat' (first | (assumption) | (refine ite_keeps _ (fun _ => ?_) (fun _ => ?_)) | (refine setHq_keeps _ _ ?_))

theorem putBytes_keeps {kb kz} (pa k : Nat) (bs : List Byte) {s : State} (hK : Keeps kb kz s) : Keeps kb kz (putBytes pa k bs s) := by
  unfold putBytes
  with_reducible repeat' (first | (assumption) | (refine ite_keeps _ (fun _ => ?_) (fun _ => ?_)) | (refine forAll_keeps _ _ ?_ ?_) | (refine memPut_keeps _ _ ?_) | (refine setReg_keeps _ _ _ ?_) | (intro _))

theorem setSlot_keeps {kb kz} (q i : Nat) (y : HSlot) {s : State} (hK : Keeps kb kz s) : Keeps kb kz (setSlot q i y s) := by
  unfold setSlot
  with_reducible repeat' (first | (assumption) | (refine ite_keeps _ (fun _ => ?_) (fun _ => ?_)) | (refine modHq_keeps _ _ ?_))

theorem malf_keeps {kb kz} (q : Nat) {s : State} (hK : Keeps kb kz s) : Keeps kb kz (malf q s) := by
  unfold malf
  with_reducible repeat' (first | (assumption) | (refine ite_keeps _ (fun _ => ?_) (fun _ => ?_)) | (refine bumpF_keeps _ _ _ _ _ ?_))

theorem pcieRead_keeps {kb kz} (addr n : Nat) {s : State} (hK : Keeps kb kz s) : Keeps kb kz (pcieRead addr n s) := by
  unfold pcieRead
  with_reducible repeat' (first | (assumption) | (refine ite_keeps _ (fun _ => ?_) (fun _ => ?_)) | (refine forAll_keeps _ _ ?_ ?_) | (refine emit_keeps _ ?_) | (refine setReg_keeps _ _ _ ?_) | (intro _))

theorem pcieWrite_keeps {kb kz} (addr : Nat) (bs : List Byte) {s : State} (hK : Keeps kb kz s) : Keeps kb kz (pcieWrite addr bs s) := by
  unfold pcieWrite
  with_reducible repeat' (first | (assumption) | (refine ite_keeps _ (fun _ => ?_) (fun _ => ?_)) | (refine forAll_keeps _ _ ?_ ?_) | (refine emit_keeps _ ?_) | (refine setReg_keeps _ _ _ ?_) | (intro _))

theorem slotDone_keeps {kb kz} (q i : Nat) (y : HSlot) (status result : Nat) (data : Bool) {s : State} (hK : Keeps kb kz s) : Keeps kb kz (slotDone q i y status result data s) := by
  unfold slotDone
  with_reducible repeat' (first | (assumption) | (refine ite_keeps _ (fun _ => ?_) (fun _ => ?_)) | (refine setSlot_keeps _ _ _ ?_))

theorem slotReady_keeps {kb kz} (q i : Nat) (y : HSlot) {s : State} (hK : Keeps kb kz s) : Keeps kb kz (slotReady q i y s) := by
  unfold slotReady
  with_reducible repeat' (first | (assumption) | (refine ite_keeps _ (fun _ => ?_) (fun _ => ?_)) | (refine setSlot_keeps _ _ _ ?_))

theorem dataLand_keeps {kb kz} (q i : Nat) (y : HSlot) (ok : Bool) (bs : List Byte) {s : State} (hK : Keeps kb kz s) : Keeps kb kz (dataLand q i y ok bs s) := by
  unfold dataLand
  (try dsimp only)
  with_reducible repeat' (first | (assumption) | (refine ite_keeps _ (fun _ => ?_) (fun _ => ?_)) | (refine slotReady_keeps _ _ _ ?_) | (refine putBytes_keeps _ _ _ ?_) | (refine slotDone_keeps _ _ _ _ _ _ ?_) | (refine malf_keeps _ ?_))

theorem entryLand_keeps {kb kz} (q i : Nat) (y0 : HSlot) (bs : List Byte) {s : State} (hK : Keeps kb kz s) : Keeps kb kz (entryLand q i y0 bs s) := by
  unfold entryLand
  (try dsimp only)
  with_reducible repeat' (first | (assumption) | (refine ite_keeps _ (fun _ => ?_) (fun _ => ?_)) | (refine putBytes_keeps _ _ _ ?_) | (refine slotDone_keeps _ _ _ _ _ _ ?_) | (refine malf_keeps _ ?_) | (refine pcieRead_keeps _ _ ?_) | (refine setSlot_keeps _ _ _ ?_) | (refine dataLand_keeps _ _ _ _ _ ?_) | (refine slotReady_keeps _ _ _ ?_))

theorem sqFetch_keeps {kb kz} (q : Nat) {s : State} (hK : Keeps kb kz s) : Keeps kb kz (sqFetch q s) := by
  unfold sqFetch
  (try dsimp only)
  with_reducible repeat' (first | (assumption) | (refine ite_keeps _ (fun _ => ?_) (fun _ => ?_)) | (refine setHq_keeps _ _ ?_) | (refine pcieRead_keeps _ _ ?_) | (refine entryLand_keeps _ _ _ _ ?_) | (refine setReg_keeps _ _ _ ?_) | (intro _) | (split) | (simp only [keeps_mk, keeps1_mk, keeps2_mk, keeps3_mk, keeps4_mk]) | (refine parts_of ?_))

theorem adminFinish_keeps {kb kz} (e : Option (Nat × HSlot)) (opc status result : Nat) (data : List Byte) {s : State} (hK : Keeps kb kz s) : Keeps kb kz (adminFinish e opc status result data s) := by
  unfold adminFinish
  (try dsimp only)
  with_reducible repeat' (first | (assumption) | (refine ite_keeps _ (fun _ => ?_) (fun _ => ?_)) | (refine putBytes_keeps _ _ _ ?_) | (refine slotDone_keeps _ _ _ _ _ _ ?_) | (refine setReg_keeps _ _ _ ?_) | (intro _) | (split) | (simp only [keeps_mk, keeps1_mk, keeps2_mk, keeps3_mk, keeps4_mk]) | (refine parts_of ?_))

theorem adminDone_keeps {kb kz} (opc status result : Nat) (data : List Byte) {s : State} (hK : Keeps kb kz s) : Keeps kb kz (adminDone opc status result data s) := by
  unfold adminDone
  with_reducible repeat' (first | (assumption) | (refine ite_keeps _ (fun _ => ?_) (fun _ => ?_)) | (refine adminFinish_keeps _ _ _ _ _ ?_))

theorem adminBegin_keeps {kb kz} (opc : Nat) {s : State} (hK : Keeps kb kz s) : Keeps1 kb kz (adminBegin opc s) := by
  unfold adminBegin
  with_reducible repeat' (first | (assumption) | (refine ite_keeps _ (fun _ => ?_) (fun _ => ?_)) | (refine setSlot_keeps _ _ _ ?_) | (refine setReg_keeps _ _ _ ?_) | (intro _) | (split) | (simp only [keeps_mk, keeps1_mk, keeps2_mk, keeps3_mk, keeps4_mk]))
theorem adminBegin_keeps_out {kb kz} (opc : Nat) {s : State} (hK : Keeps kb kz s) {x0 s₁} (hE : adminBegin opc s = (x0, s₁)) : Keeps kb kz s₁ := by
  have := adminBegin_keeps (kb := kb) (kz := kz) opc  hK
  rw [hE] at this; exact this.out

theorem adminEnd_keeps {kb kz} (entry : Option Nat) (opc status result : Nat) {s : State} (hK : Keeps kb kz s) : Keeps kb kz (adminEnd entry opc status result s) := by
  unfold adminEnd
  with_reducible repeat' (first | (assumption) | (refine ite_keeps _ (fun _ => ?_) (fun _ => ?_)) | (refine adminFinish_keeps _ _ _ _ _ ?_))

theorem hostPut_keeps {kb kz} (addr v : Nat) {s : State} (hK : Keeps kb kz s) : Keeps kb kz (hostPut addr v s) := by
  unfold hostPut
  with_reducible repeat' (first | (assumption) | (refine ite_keeps _ (fun _ => ?_) (fun _ => ?_)) | (refine emit_keeps _ ?_) | (refine memPut_keeps _ _ ?_))

theorem hostFrame_keeps {kb kz} (m op seq addr n : Nat) (ws : List Nat) {s : State} (hK : Keeps kb kz s) : Keeps kb kz (hostFrame m op seq addr n ws s) := by
  unfold hostFrame
  with_reducible repeat' (first | (assumption) | (refine ite_keeps _ (fun _ => ?_) (fun _ => ?_)) | (refine macQueue_keeps _ _ ?_))

theorem sendVec_keeps {kb kz} (q : Nat) {s : State} (hK : Keeps kb kz s) : Keeps kb kz (sendVec q s) := by
  unfold sendVec
  (try dsimp only)
  with_reducible repeat' (first | (assumption) | (refine ite_keeps _ (fun _ => ?_) (fun _ => ?_)) | (refine msixSend_keeps _ ?_) | (refine hostFrame_keeps _ _ _ _ _ _ ?_) | (refine modHq_keeps _ _ ?_) | (refine setReg_keeps _ _ _ ?_) | (intro _) | (split))

theorem headOut_keeps {kb kz} (q : Nat) {s : State} (hK : Keeps kb kz s) : Keeps kb kz (headOut q s) := by
  unfold headOut
  (try dsimp only)
  with_reducible repeat' (first | (assumption) | (refine ite_keeps _ (fun _ => ?_) (fun _ => ?_)) | (refine hostPut_keeps _ _ ?_) | (refine modHq_keeps _ _ ?_) | (refine sendVec_keeps _ ?_) | (refine setReg_keeps _ _ _ ?_) | (intro _) | (split))

theorem applyEff_keeps {kb kz} (e : HEffect) {s : State} (hK : Keeps kb kz s) : Keeps kb kz (applyEff e s) := by
  unfold applyEff
  (try dsimp only)
  with_reducible repeat' (first | (assumption) | (refine ite_keeps _ (fun _ => ?_) (fun _ => ?_)) | (refine hostPut_keeps _ _ ?_) | (refine setHq_keeps _ _ ?_) | (refine setReg_keeps _ _ _ ?_) | (intro _) | (split))

theorem recordIn_keeps {kb kz} (q : Nat) (r : HRec) {s : State} (hK : Keeps kb kz s) : Keeps kb kz (recordIn q r s) := by
  unfold recordIn
  (try dsimp only)
  with_reducible repeat' (first | (assumption) | (refine ite_keeps _ (fun _ => ?_) (fun _ => ?_)) | (refine forAll_keeps _ _ ?_ ?_) | (refine emit_keeps _ ?_) | (refine memPut_keeps _ _ ?_) | (refine headOut_keeps _ ?_) | (refine applyEff_keeps _ ?_) | (refine setHq_keeps _ _ ?_) | (refine setReg_keeps _ _ _ ?_) | (intro _))

theorem holdIn_keeps {kb kz} (q : Nat) (r : HRec) (stalledBefore : Bool) {s : State} (hK : Keeps kb kz s) : Keeps kb kz (holdIn q r stalledBefore s) := by
  unfold holdIn
  (try dsimp only)
  with_reducible repeat' (first | (assumption) | (refine ite_keeps _ (fun _ => ?_) (fun _ => ?_)) | (refine setHq_keeps _ _ ?_) | (refine bumpF_keeps _ _ _ _ _ ?_))

theorem recordStep_keeps {kb kz} (q : Nat) {s : State} (hK : Keeps kb kz s) : Keeps kb kz (recordStep q s) := by
  unfold recordStep
  (try dsimp only)
  with_reducible repeat' (first | (assumption) | (refine ite_keeps _ (fun _ => ?_) (fun _ => ?_)) | (refine holdIn_keeps _ _ _ ?_) | (refine recordIn_keeps _ _ ?_) | (refine setHq_keeps _ _ ?_) | (refine setReg_keeps _ _ _ ?_) | (intro _) | (split))

theorem deleteStep_keeps {kb kz}  {s : State} (hK : Keeps kb kz s) : Keeps kb kz (deleteStep s) := by
  unfold deleteStep
  (try dsimp only)
  with_reducible repeat' (first | (assumption) | (refine ite_keeps _ (fun _ => ?_) (fun _ => ?_)) | (refine slotDone_keeps _ _ _ _ _ _ ?_) | (refine setHq_keeps _ _ ?_) | (refine setReg_keeps _ _ _ ?_) | (intro _) | (split))

theorem hostEnable_keeps {kb kz}  {s : State} (hK : Keeps kb kz s) : Keeps kb kz (hostEnable s) := by
  unfold hostEnable
  with_reducible repeat' (first | (assumption) | (refine ite_keeps _ (fun _ => ?_) (fun _ => ?_)) | (refine setRegB_keeps _ _ _ _ ?_) | (refine setHq_keeps _ _ ?_) | (refine setReg_keeps _ _ _ ?_) | (intro _) | (split) | (simp only [keeps_mk, keeps1_mk, keeps2_mk, keeps3_mk, keeps4_mk]) | (refine parts_of ?_))

theorem adminForget_keeps {kb kz}  {s : State} (hK : Keeps kb kz s) : Keeps kb kz (adminForget s) := by
  unfold adminForget
  (try dsimp only)
  with_reducible repeat' (first | (assumption) | (refine ite_keeps _ (fun _ => ?_) (fun _ => ?_)) | (refine setReg_keeps _ _ _ ?_) | (intro _) | (split) | (simp only [keeps_mk, keeps1_mk, keeps2_mk, keeps3_mk, keeps4_mk]) | (refine parts_of ?_))

theorem hostDisable_keeps {kb kz}  {s0 : State} (hK : Keeps kb kz s0) : Keeps kb kz (hostDisable s0) := by
  unfold hostDisable
  (try dsimp only)
  with_reducible repeat' (first | (assumption) | (refine ite_keeps _ (fun _ => ?_) (fun _ => ?_)) | (refine forAll_keeps _ _ ?_ ?_) | (refine adminForget_keeps ?_) | (refine setHq_keeps _ _ ?_) | (refine sessEnd_keeps _ ?_) | (refine setRegB_keeps _ _ _ _ ?_) | (refine setReg_keeps _ _ _ ?_) | (intro _) | (split) | (simp only [keeps_mk, keeps1_mk, keeps2_mk, keeps3_mk, keeps4_mk]) | (refine parts_of ?_))

theorem hostCtrlWrite_keeps {kb kz} (v : Word) {s : State} (hK : Keeps kb kz s) : Keeps kb kz (hostCtrlWrite v s) := by
  unfold hostCtrlWrite
  (try dsimp only)
  with_reducible repeat' (first | (assumption) | (refine ite_keeps _ (fun _ => ?_) (fun _ => ?_)) | (refine setRegF_keeps _ _ _ _ _ ?_) | (refine hostEnable_keeps ?_) | (refine hostDisable_keeps ?_) | (refine setReg_keeps _ _ _ ?_) | (intro _) | (split) | (simp only [keeps_mk, keeps1_mk, keeps2_mk, keeps3_mk, keeps4_mk]) | (refine parts_of ?_))

theorem hostSettle_keeps {kb kz}  {s : State} (hK : Keeps kb kz s) : Keeps kb kz (hostSettle s) := by
  unfold hostSettle
  with_reducible repeat' (first | (assumption) | (refine ite_keeps _ (fun _ => ?_) (fun _ => ?_)) | (refine hostEnable_keeps ?_) | (refine setReg_keeps _ _ _ ?_) | (intro _) | (split) | (simp only [keeps_mk, keeps1_mk, keeps2_mk, keeps3_mk, keeps4_mk]) | (refine parts_of ?_))

theorem dbBad_keeps {kb kz}  {s : State} (hK : Keeps kb kz s) : Keeps kb kz (dbBad s) := by
  unfold dbBad
  with_reducible repeat' (first | (assumption) | (refine ite_keeps _ (fun _ => ?_) (fun _ => ?_)) | (refine setRegB_keeps _ _ _ _ ?_) | (refine bumpF_keeps _ _ _ _ _ ?_))

theorem sqDoorbell_keeps {kb kz} (q v : Nat) {s : State} (hK : Keeps kb kz s) : Keeps kb kz (sqDoorbell q v s) := by
  unfold sqDoorbell
  (try dsimp only)
  with_reducible repeat' (first | (assumption) | (refine ite_keeps _ (fun _ => ?_) (fun _ => ?_)) | (refine dbBad_keeps ?_) | (refine setHq_keeps _ _ ?_))

theorem cqDoorbell_keeps {kb kz} (q v : Nat) {s : State} (hK : Keeps kb kz s) : Keeps kb kz (cqDoorbell q v s) := by
  unfold cqDoorbell
  (try dsimp only)
  with_reducible repeat' (first | (assumption) | (refine ite_keeps _ (fun _ => ?_) (fun _ => ?_)) | (refine dbBad_keeps ?_) | (refine setHq_keeps _ _ ?_))

theorem hostCpl_keeps {kb kz} (v : Word) {s : State} (hK : Keeps kb kz s) : Keeps kb kz (hostCpl v s) := by
  unfold hostCpl
  (try dsimp only)
  with_reducible repeat' (first | (assumption) | (refine ite_keeps _ (fun _ => ?_) (fun _ => ?_)) | (refine slotDone_keeps _ _ _ _ _ _ ?_) | (refine hostSettle_keeps ?_) | (refine setHq_keeps _ _ ?_) | (refine setRegB_keeps _ _ _ _ ?_) | (refine bumpF_keeps _ _ _ _ _ ?_) | (refine setReg_keeps _ _ _ ?_) | (intro _) | (split))

theorem hostWrite_keeps {kb kz} (off : Nat) (v : Word) {s : State} (hK : Keeps kb kz s) : Keeps kb kz (hostWrite off v s) := by
  unfold hostWrite
  with_reducible repeat' (first | (assumption) | (refine ite_keeps _ (fun _ => ?_) (fun _ => ?_)) | (refine sqDoorbell_keeps _ _ ?_) | (refine cqDoorbell_keeps _ _ ?_) | (refine setReg_keeps _ _ _ ?_) | (refine hostCtrlWrite_keeps _ ?_) | (refine hostCpl_keeps _ ?_) | (intro _) | (split))

/-! ## Machine/Gauges.lean -/

theorem gaugeOpen_keeps {kb kz} (g t index : Nat) {s : State} (hK : Keeps kb kz s) : Keeps kb kz (gaugeOpen g t index s) := by
  unfold gaugeOpen
  (try dsimp only)
  with_reducible repeat' (first | (assumption) | (refine ite_keeps _ (fun _ => ?_) (fun _ => ?_)) | (refine setGauge_keeps _ _ ?_))

theorem gaugeCfgWrite_keeps {kb kz} (g : Nat) (v0 : Word) {s : State} (hK : Keeps kb kz s) : Keeps kb kz (gaugeCfgWrite g v0 s) := by
  unfold gaugeCfgWrite
  (try dsimp only)
  with_reducible repeat' (first | (assumption) | (refine ite_keeps _ (fun _ => ?_) (fun _ => ?_)) | (refine setRegB_keeps _ _ _ _ ?_) | (refine setReg_keeps _ _ _ ?_) | (refine gaugeOpen_keeps _ _ _ ?_) | (refine setGauge_keeps _ _ ?_))

theorem gaugeCatch_keeps {kb kz} (g : Nat) {s : State} (hK : Keeps kb kz s) : Keeps kb kz (gaugeCatch g s) := by
  unfold gaugeCatch
  (try dsimp only)
  with_reducible repeat' (first | (assumption) | (refine ite_keeps _ (fun _ => ?_) (fun _ => ?_)) | (refine setGauge_keeps _ _ ?_))

theorem gaugeClose_keeps {kb kz} (g t : Nat) (part : Bool) {s : State} (hK : Keeps kb kz s) : Keeps kb kz (gaugeClose g t part s) := by
  unfold gaugeClose
  (try dsimp only)
  with_reducible repeat' (first | (assumption) | (refine ite_keeps _ (fun _ => ?_) (fun _ => ?_)) | (refine wrapF_keeps _ _ _ _ _ ?_) | (refine setGauge_keeps _ _ ?_) | (refine gaugeCatch_keeps _ ?_) | (refine gaugeOpen_keeps _ _ _ ?_) | (refine raiseUnit_keeps _ _ _ ?_))

theorem snapAsk_keeps {kb kz} (mask : Nat) (admin : Option Nat) {s : State} (hK : Keeps kb kz s) : Keeps kb kz (snapAsk mask admin s) := by
  unfold snapAsk
  with_reducible repeat' (first | (assumption) | (refine ite_keeps _ (fun _ => ?_) (fun _ => ?_)) | (refine setReg_keeps _ _ _ ?_) | (intro _) | (split) | (simp only [keeps_mk, keeps1_mk, keeps2_mk, keeps3_mk, keeps4_mk]) | (refine parts_of ?_))

theorem snapOne_keeps {kb kz} (mask t g : Nat) {s : State} (hK : Keeps kb kz s) : Keeps kb kz (snapOne mask t g s) := by
  unfold snapOne
  with_reducible repeat' (first | (assumption) | (refine ite_keeps _ (fun _ => ?_) (fun _ => ?_)) | (refine gaugeClose_keeps _ _ _ ?_))

theorem gaugeL0_keeps {kb kz}  {s : State} (hK : Keeps kb kz s) : Keeps1 kb kz (gaugeL0 s) := by
  unfold gaugeL0
  (try dsimp only)
  with_reducible repeat' (first | (assumption) | (refine ite_keeps _ (fun _ => ?_) (fun _ => ?_)) | (refine forAll_keeps _ _ ?_ ?_) | (refine setReg_keeps _ _ _ ?_) | (intro _) | (split) | (simp only [keeps_mk, keeps1_mk, keeps2_mk, keeps3_mk, keeps4_mk]))
theorem gaugeL0_keeps_out {kb kz}  {s : State} (hK : Keeps kb kz s) {x0 s₁} (hE : gaugeL0 s = (x0, s₁)) : Keeps kb kz s₁ := by
  have := gaugeL0_keeps (kb := kb) (kz := kz)   hK
  rw [hE] at this; exact this.out

theorem gaugeE0_keeps {kb kz}  {s : State} (hK : Keeps kb kz s) : Keeps1 kb kz (gaugeE0 s) := by
  unfold gaugeE0
  (try dsimp only)
  with_reducible repeat' (first | (assumption) | (refine ite_keeps _ (fun _ => ?_) (fun _ => ?_)) | (refine forAll_keeps _ _ ?_ ?_) | (refine setReg_keeps _ _ _ ?_) | (intro _) | (split) | (simp only [keeps_mk, keeps1_mk, keeps2_mk, keeps3_mk, keeps4_mk]))
theorem gaugeE0_keeps_out {kb kz}  {s : State} (hK : Keeps kb kz s) {x0 s₁} (hE : gaugeE0 s = (x0, s₁)) : Keeps kb kz s₁ := by
  have := gaugeE0_keeps (kb := kb) (kz := kz)   hK
  rw [hE] at this; exact this.out

theorem gaugeWrite_keeps {kb kz} (off : Nat) (v : Word) {s : State} (hK : Keeps kb kz s) : Keeps kb kz (gaugeWrite off v s) := by
  unfold gaugeWrite
  (try dsimp only)
  with_reducible repeat' (first | (assumption) | (refine ite_keeps _ (fun _ => ?_) (fun _ => ?_)) | (refine gaugeCfgWrite_keeps _ _ ?_) | (refine setReg_keeps _ _ _ ?_) | (refine snapAsk_keeps _ _ ?_) | (intro _) | (split))

theorem execGaugeCfgWrite_keeps {kb kz} (w : Who) (g : Fin 64) (v : Word) {s : State} (hK : Keeps kb kz s) : ∃ s', execGaugeCfgWrite w g v s = .next s' ∧ Keeps kb kz s' := by
  unfold execGaugeCfgWrite
  refine ⟨_, rfl, ?_⟩
  with_reducible repeat' (first | (assumption) | (refine ite_keeps _ (fun _ => ?_) (fun _ => ?_)) | (refine gated_keeps _ _ _ _ ?_ ?_) | (refine gaugeWrite_keeps _ _ ?_) | (refine setReg_keeps _ _ _ ?_) | (intro _))

theorem execGaugeWindowClose_keeps {kb kz} (g : Fin 64) {s : State} (hK : Keeps kb kz s) : ∃ s', execGaugeWindowClose g s = .next s' ∧ Keeps kb kz s' := by
  unfold execGaugeWindowClose
  refine ⟨_, rfl, ?_⟩
  with_reducible repeat' (first | (assumption) | (refine ite_keeps _ (fun _ => ?_) (fun _ => ?_)) | (refine gaugeClose_keeps _ _ _ ?_) | (refine setReg_keeps _ _ _ ?_) | (intro _) | (split))

theorem execGaugeSnap_keeps {kb kz} (w : Who) (hi : BitVec 32) {s : State} (hK : Keeps kb kz s) : ∃ s', execGaugeSnap w hi s = .next s' ∧ Keeps kb kz s' := by
  unfold execGaugeSnap
  refine ⟨_, rfl, ?_⟩
  with_reducible repeat' (first | (assumption) | (refine ite_keeps _ (fun _ => ?_) (fun _ => ?_)) | (refine gated_keeps _ _ _ _ ?_ ?_) | (refine gaugeWrite_keeps _ _ ?_) | (refine setReg_keeps _ _ _ ?_) | (intro _))

theorem execSnapshotClose_keeps {kb kz}  {s : State} (hK : Keeps kb kz s) : ∃ s', execSnapshotClose s = .next s' ∧ Keeps kb kz s' := by
  unfold execSnapshotClose
  refine ⟨_, rfl, ?_⟩
  (try dsimp only)
  with_reducible repeat' (first | (assumption) | (refine ite_keeps _ (fun _ => ?_) (fun _ => ?_)) | (refine forAll_keeps _ _ ?_ ?_) | (refine snapOne_keeps _ _ _ ?_) | (refine adminDone_keeps _ _ _ _ ?_) | (refine setReg_keeps _ _ _ ?_) | (intro _) | (split) | (simp only [keeps_mk, keeps1_mk, keeps2_mk, keeps3_mk, keeps4_mk]) | (refine parts_of ?_))

theorem execGaugeSnapshot_keeps {kb kz} (mask : BitVec 64) (dlen : Nat) {s : State} (hK : Keeps kb kz s) : ∃ s', execGaugeSnapshot mask dlen s = .next s' ∧ Keeps kb kz s' := by
  unfold execGaugeSnapshot
  refine ⟨_, rfl, ?_⟩
  with_reducible repeat' (first | (assumption) | (refine ite_keeps _ (fun _ => ?_) (fun _ => ?_)) | (refine adminDone_keeps _ _ _ _ ?_) | (refine snapAsk_keeps _ _ ?_))

theorem execGaugeTickSample_keeps {kb kz} (g : Fin 64) (v : Nat) {s : State} (hK : Keeps kb kz s) : ∃ s', execGaugeTickSample g v s = .next s' ∧ Keeps kb kz s' := by
  unfold execGaugeTickSample
  refine ⟨_, rfl, ?_⟩
  (try dsimp only)
  with_reducible repeat' (first | (assumption) | (refine ite_keeps _ (fun _ => ?_) (fun _ => ?_)) | (refine gaugeOffer_keeps _ _ _ _ _ ?_) | (refine setGauge_keeps _ _ ?_) | (refine setReg_keeps _ _ _ ?_) | (intro _) | (split))

theorem execGaugeRecordRead_keeps {kb kz} (w : Who) {s : State} (hK : Keeps kb kz s) : ∃ s', execGaugeRecordRead w s = .next s' ∧ Keeps kb kz s' := by
  unfold execGaugeRecordRead
  refine ⟨_, rfl, ?_⟩
  (try dsimp only)
  with_reducible repeat' (first | (assumption) | (refine ite_keeps _ (fun _ => ?_) (fun _ => ?_)) | (refine (gaugeL0_keeps ?_).out) | (refine gaugeL0_keeps_out ?_ (by assumption)) | (refine denied_keeps _ _ _ _ ?_) | (refine setReg_keeps _ _ _ ?_) | (intro _) | (split) | (refine gaugeL0_keeps ?_) | (simp only [keeps_mk, keeps1_mk, keeps2_mk, keeps3_mk, keeps4_mk]) | (refine parts_of ?_))

theorem execGaugeFrecRead_keeps {kb kz} (w : Who) {s : State} (hK : Keeps kb kz s) : ∃ s', execGaugeFrecRead w s = .next s' ∧ Keeps kb kz s' := by
  unfold execGaugeFrecRead
  refine ⟨_, rfl, ?_⟩
  (try dsimp only)
  with_reducible repeat' (first | (assumption) | (refine ite_keeps _ (fun _ => ?_) (fun _ => ?_)) | (refine (gaugeE0_keeps ?_).out) | (refine gaugeE0_keeps_out ?_ (by assumption)) | (refine denied_keeps _ _ _ _ ?_) | (refine setReg_keeps _ _ _ ?_) | (intro _) | (split) | (refine gaugeE0_keeps ?_) | (simp only [keeps_mk, keeps1_mk, keeps2_mk, keeps3_mk, keeps4_mk]) | (refine parts_of ?_))

theorem execDelayLineCalibration_keeps {kb kz} (steps : BitVec 12) {s : State} (hK : Keeps kb kz s) : ∃ s', execDelayLineCalibration steps s = .next s' ∧ Keeps kb kz s' := by
  unfold execDelayLineCalibration
  refine ⟨_, rfl, ?_⟩
  with_reducible repeat' (first | (assumption) | (refine ite_keeps _ (fun _ => ?_) (fun _ => ?_)) | (refine setReg_keeps _ _ _ ?_) | (intro _) | (split) | (simp only [keeps_mk, keeps1_mk, keeps2_mk, keeps3_mk, keeps4_mk]) | (refine parts_of ?_))

theorem execFaultRead_keeps {kb kz} (first count : Nat) (dlen : Nat) {s : State} (hK : Keeps kb kz s) : ∃ s', execFaultRead first count dlen s = .next s' ∧ Keeps kb kz s' := by
  unfold execFaultRead
  refine ⟨_, rfl, ?_⟩
  (try dsimp only)
  with_reducible repeat' (first | (assumption) | (refine ite_keeps _ (fun _ => ?_) (fun _ => ?_)) | (refine adminDone_keeps _ _ _ _ ?_))

theorem frecClear_keeps {kb kz} (seq : Nat) {s : State} (hK : Keeps kb kz s) : Keeps kb kz (frecClear seq s) := by
  unfold frecClear
  (try dsimp only)
  with_reducible repeat' (first | (assumption) | (refine ite_keeps _ (fun _ => ?_) (fun _ => ?_)) | (refine setRegF_keeps _ _ _ _ _ ?_) | (refine setReg_keeps _ _ _ ?_) | (intro _) | (split) | (simp only [keeps_mk, keeps1_mk, keeps2_mk, keeps3_mk, keeps4_mk]) | (refine parts_of ?_))

theorem execFaultClear_keeps {kb kz} (seq : BitVec 32) {s : State} (hK : Keeps kb kz s) : ∃ s', execFaultClear seq s = .next s' ∧ Keeps kb kz s' := by
  unfold execFaultClear
  refine ⟨_, rfl, ?_⟩
  (try dsimp only)
  with_reducible repeat' (first | (assumption) | (refine ite_keeps _ (fun _ => ?_) (fun _ => ?_)) | (refine frecClear_keeps _ ?_) | (refine adminDone_keeps _ _ _ _ ?_))

/-! ## Machine/Line.lean -/

theorem lineInject_keeps {kb kz} (r h imode : Nat) (dc amp : Word) (freq : Nat) {s : State} (hK : Keeps kb kz s) : Keeps kb kz (lineInject r h imode dc amp freq s) := by
  unfold lineInject
  with_reducible repeat' (first | (assumption) | (refine ite_keeps _ (fun _ => ?_) (fun _ => ?_)) | (refine setReg_keeps _ _ _ ?_))

theorem linePhase_keeps {kb kz} (x : LineTest) (p : LinePhase) {s : State} (hK : Keeps kb kz s) : Keeps kb kz (linePhase x p s) := by
  unfold linePhase
  with_reducible repeat' (first | (assumption) | (refine ite_keeps _ (fun _ => ?_) (fun _ => ?_)) | (refine setReg_keeps _ _ _ ?_) | (intro _) | (split) | (simp only [keeps_mk, keeps1_mk, keeps2_mk, keeps3_mk, keeps4_mk]) | (refine parts_of ?_))

theorem dcrBegin_keeps {kb kz} (x : LineTest) {s : State} (hK : Keeps kb kz s) : Keeps kb kz (dcrBegin x s) := by
  unfold dcrBegin
  with_reducible repeat' (first | (assumption) | (refine ite_keeps _ (fun _ => ?_) (fun _ => ?_)) | (refine linePhase_keeps _ _ ?_) | (refine lineInject_keeps _ _ _ _ _ _ ?_))

theorem lineEnd_keeps {kb kz} (x : LineTest) (status result : Nat) {s : State} (hK : Keeps kb kz s) : Keeps kb kz (lineEnd x status result s) := by
  unfold lineEnd
  with_reducible repeat' (first | (assumption) | (refine ite_keeps _ (fun _ => ?_) (fun _ => ?_)) | (refine adminDone_keeps _ _ _ _ ?_) | (refine setReg_keeps _ _ _ ?_) | (intro _) | (split) | (simp only [keeps_mk, keeps1_mk, keeps2_mk, keeps3_mk, keeps4_mk]) | (refine parts_of ?_))

theorem lineMeans_keeps {kb kz} (x : LineTest) {s : State} (hK : Keeps kb kz s) : Keeps1 kb kz (lineMeans x s) := by
  unfold lineMeans
  (try dsimp only)
  with_reducible repeat' (first | (assumption) | (refine ite_keeps _ (fun _ => ?_) (fun _ => ?_)) | (refine (drawWord_keeps ?_).out) | (refine drawWord_keeps_out ?_ (by assumption)) | (refine setReg_keeps _ _ _ ?_) | (intro _) | (split) | (refine drawWord_keeps ?_) | (simp only [keeps_mk, keeps1_mk, keeps2_mk, keeps3_mk, keeps4_mk]))
theorem lineMeans_keeps_out {kb kz} (x : LineTest) {s : State} (hK : Keeps kb kz s) {x0 s₁} (hE : lineMeans x s = (x0, s₁)) : Keeps kb kz s₁ := by
  have := lineMeans_keeps (kb := kb) (kz := kz) x  hK
  rw [hE] at this; exact this.out

theorem classEnd_keeps {kb kz} (x : LineTest) (cls : Nat) (r : Option Int) {s : State} (hK : Keeps kb kz s) : Keeps kb kz (classEnd x cls r s) := by
  unfold classEnd
  (try dsimp only)
  with_reducible repeat' (first | (assumption) | (refine ite_keeps _ (fun _ => ?_) (fun _ => ?_)) | (refine frecAdd_keeps _ _ _ ?_) | (refine lineEnd_keeps _ _ _ ?_))

theorem dcrEnd_keeps {kb kz} (x : LineTest) (m2 : Nat × Int × Int) {s : State} (hK : Keeps kb kz s) :
    Keeps kb kz (dcrEnd x m2 s) := by
  unfold dcrEnd
  generalize 2 ^ 22 = z
  extract_lets m1
  split
  · split
    · extract_lets cal
      exact ite_keeps _ (fun _ => lineEnd_keeps _ _ _ (setReg_keeps _ _ _ hK)) (fun _ => lineEnd_keeps _ _ _ hK)
    · exact lineEnd_keeps _ _ _ hK
  · exact lineEnd_keeps _ _ _ hK
  · exact classEnd_keeps _ _ _ (hoeDisable_keeps _ _ hK)

theorem pointBegin_keeps {kb kz} (x : LineTest) {s : State} (hK : Keeps kb kz s) : Keeps kb kz (pointBegin x s) := by
  unfold pointBegin
  (try dsimp only)
  with_reducible repeat' (first | (assumption) | (refine ite_keeps _ (fun _ => ?_) (fun _ => ?_)) | (refine linePhase_keeps _ _ ?_) | (refine lineInject_keeps _ _ _ _ _ _ ?_))

theorem pointZ_keeps {kb kz} (x : LineTest) {s : State} (hK : Keeps kb kz s) : Keeps1 kb kz (pointZ x s) := by
  unfold pointZ
  extract_lets sc n d z
  clear_value sc n d z
  split
  · exact ⟨(drawNat_keeps hK).out⟩
  · split
    · exact ⟨hK⟩
    · exact ⟨(drawBit_keeps hK).out⟩
theorem pointZ_keeps_out {kb kz} (x : LineTest) {s : State} (hK : Keeps kb kz s) {x0 s₁} (hE : pointZ x s = (x0, s₁)) : Keeps kb kz s₁ :=
  (pointZ_keeps (kb := kb) x hK).of hE

theorem pointPhase_keeps {kb kz} (x : LineTest) {s : State} (hK : Keeps kb kz s) : Keeps1 kb kz (pointPhase x s) := by
  unfold pointPhase
  extract_lets re im
  clear_value re im
  split
  · exact ⟨(drawWord_keeps hK).out⟩
  · exact ⟨(drawBit_keeps hK).out⟩
theorem pointPhase_keeps_out {kb kz} (x : LineTest) {s : State} (hK : Keeps kb kz s) {x0 s₁} (hE : pointPhase x s = (x0, s₁)) : Keeps kb kz s₁ :=
  (pointPhase_keeps (kb := kb) x hK).of hE

theorem pointNext_keeps {kb kz} (x : LineTest) {s : State} (hK : Keeps kb kz s) : Keeps kb kz (pointNext x s) := by
  unfold pointNext
  with_reducible repeat' (first | (assumption) | (refine ite_keeps _ (fun _ => ?_) (fun _ => ?_)) | (refine lineEnd_keeps _ _ _ ?_) | (refine pointBegin_keeps _ ?_))

theorem pointEnd_keeps {kb kz} (x : LineTest) {s : State} (hK : Keeps kb kz s) : Keeps kb kz (pointEnd x s) :=
  pointNext_keeps _ (pointPhase_keeps _ (pointZ_keeps _ hK).out).out

theorem execLineCal_keeps {kb kz} (r h : BitVec 8) (rref : BitVec 32) {s : State} (hK : Keeps kb kz s) : ∃ s', execLineCal r h rref s = .next s' ∧ Keeps kb kz s' := by
  unfold execLineCal
  refine ⟨_, rfl, ?_⟩
  with_reducible repeat' (first | (assumption) | (refine ite_keeps _ (fun _ => ?_) (fun _ => ?_)) | (refine adminDone_keeps _ _ _ _ ?_) | (refine dcrBegin_keeps _ ?_))

theorem execLineDcr_keeps {kb kz} (r h : BitVec 8) (dcl settle avg : Nat) {s : State} (hK : Keeps kb kz s) : ∃ s', execLineDcr r h dcl settle avg s = .next s' ∧ Keeps kb kz s' := by
  unfold execLineDcr
  refine ⟨_, rfl, ?_⟩
  with_reducible repeat' (first | (assumption) | (refine ite_keeps _ (fun _ => ?_) (fun _ => ?_)) | (refine adminDone_keeps _ _ _ _ ?_) | (refine dcrBegin_keeps _ ?_))

theorem execLineImp_keeps {kb kz} (r h : BitVec 8) (amp f1 f2 n dlen : Nat) {s : State} (hK : Keeps kb kz s) : ∃ s', execLineImp r h amp f1 f2 n dlen s = .next s' ∧ Keeps kb kz s' := by
  unfold execLineImp
  refine ⟨_, rfl, ?_⟩
  with_reducible repeat' (first | (assumption) | (refine ite_keeps _ (fun _ => ?_) (fun _ => ?_)) | (refine adminDone_keeps _ _ _ _ ?_) | (refine pointBegin_keeps _ ?_))

theorem execLineClassify_keeps {kb kz} (r h cmcell : BitVec 8) (rshort ropen : BitVec 32) {s : State} (hK : Keeps kb kz s) : ∃ s', execLineClassify r h cmcell rshort ropen s = .next s' ∧ Keeps kb kz s' := by
  unfold execLineClassify
  refine ⟨_, rfl, ?_⟩
  (try dsimp only)
  with_reducible repeat' (first | (assumption) | (refine ite_keeps _ (fun _ => ?_) (fun _ => ?_)) | (refine adminDone_keeps _ _ _ _ ?_) | (refine linePhase_keeps _ _ ?_))

theorem terminalEnd_keeps {kb kz} (x : LineTest) {s : State} (hK : Keeps kb kz s) : Keeps kb kz (terminalEnd x s) := by
  unfold terminalEnd
  (try dsimp only)
  with_reducible repeat' (first | (assumption) | (refine ite_keeps _ (fun _ => ?_) (fun _ => ?_)) | (refine (lineMeans_keeps _ ?_).out) | (refine lineMeans_keeps_out _ ?_ (by assumption)) | (refine lineEnd_keeps _ _ _ ?_) | (refine frecAdd_keeps _ _ _ ?_) | (refine (hoeTryEnable_keeps _ _ ?_).out) | (refine hoeTryEnable_keeps_out _ _ ?_ (by assumption)) | (refine linePhase_keeps _ _ ?_) | (refine setReg_keeps _ _ _ ?_) | (intro _) | (split))

theorem runningEnd_keeps {kb kz} (x : LineTest) {s : State} (hK : Keeps kb kz s) : Keeps kb kz (runningEnd x s) := by
  unfold runningEnd
  with_reducible repeat' (first | (assumption) | (refine ite_keeps _ (fun _ => ?_) (fun _ => ?_)) | (refine dcrBegin_keeps _ ?_) | (refine lineEnd_keeps _ _ _ ?_) | (refine hoeDisable_keeps _ _ ?_))

theorem lineNext_keeps {kb kz} (x : LineTest) {s : State} (hK : Keeps kb kz s) : Keeps kb kz (lineNext x s) := by
  unfold lineNext
  (try dsimp only)
  with_reducible repeat' (first | (assumption) | (refine ite_keeps _ (fun _ => ?_) (fun _ => ?_)) | (refine terminalEnd_keeps _ ?_) | (refine runningEnd_keeps _ ?_) | (refine linePhase_keeps _ _ ?_) | (refine (lineMeans_keeps _ ?_).out) | (refine lineMeans_keeps_out _ ?_ (by assumption)) | (refine lineInject_keeps _ _ _ _ _ _ ?_) | (refine dcrEnd_keeps _ _ ?_) | (refine pointEnd_keeps _ ?_) | (refine setReg_keeps _ _ _ ?_) | (intro _) | (split))

theorem execLineTestPhaseEnd_keeps {kb kz} (r : Fin 4) (h : Fin 32) {s : State} (hK : Keeps kb kz s) : ∃ s', execLineTestPhaseEnd r h s = .next s' ∧ Keeps kb kz s' := by
  unfold execLineTestPhaseEnd
  refine ⟨_, rfl, ?_⟩
  with_reducible repeat' (first | (assumption) | (refine ite_keeps _ (fun _ => ?_) (fun _ => ?_)) | (refine lineEnd_keeps _ _ _ ?_) | (refine lineNext_keeps _ ?_) | (refine setReg_keeps _ _ _ ?_) | (intro _) | (split))

/-! ## Machine/Trch.lean -/

theorem setChan_keeps {kb kz} (c : Nat) (x : Chan) {s : State} (hK : Keeps kb kz s) : Keeps kb kz (setChan c x s) := by
  unfold setChan
  with_reducible repeat' (first | (assumption) | (refine ite_keeps _ (fun _ => ?_) (fun _ => ?_)) | (refine setReg_keeps _ _ _ ?_) | (intro _) | (split) | (simp only [keeps_mk, keeps1_mk, keeps2_mk, keeps3_mk, keeps4_mk]) | (refine parts_of ?_))

theorem modChan_keeps {kb kz} (c : Nat) (f : Chan → Chan) {s : State} (hK : Keeps kb kz s) : Keeps kb kz (modChan c f s) := by
  unfold modChan
  with_reducible repeat' (first | (assumption) | (refine ite_keeps _ (fun _ => ?_) (fun _ => ?_)) | (refine setChan_keeps _ _ ?_))

theorem setChR_keeps {kb kz} (c k : Nat) (v : Word) {s : State} (hK : Keeps kb kz s) : Keeps kb kz (setChR c k v s) := by
  unfold setChR
  with_reducible repeat' (first | (assumption) | (refine ite_keeps _ (fun _ => ?_) (fun _ => ?_)) | (refine setReg_keeps _ _ _ ?_))

theorem setChF_keeps {kb kz} (c k lo len v : Nat) {s : State} (hK : Keeps kb kz s) : Keeps kb kz (setChF c k lo len v s) := by
  unfold setChF
  with_reducible repeat' (first | (assumption) | (refine ite_keeps _ (fun _ => ?_) (fun _ => ?_)) | (refine setRegF_keeps _ _ _ _ _ ?_))

theorem setChState_keeps {kb kz} (c v : Nat) {s : State} (hK : Keeps kb kz s) : Keeps kb kz (setChState c v s) := by
  unfold setChState
  with_reducible repeat' (first | (assumption) | (refine ite_keeps _ (fun _ => ?_) (fun _ => ?_)) | (refine setChF_keeps _ _ _ _ _ ?_))

theorem setStat_keeps {kb kz} (c b : Nat) (v : Bool) {s : State} (hK : Keeps kb kz s) : Keeps kb kz (setStat c b v s) := by
  unfold setStat
  with_reducible repeat' (first | (assumption) | (refine ite_keeps _ (fun _ => ?_) (fun _ => ?_)) | (refine setRegB_keeps _ _ _ _ ?_))

theorem setCpc_keeps {kb kz} (c v : Nat) {s : State} (hK : Keeps kb kz s) : Keeps kb kz (setCpc c v s) := by
  unfold setCpc
  with_reducible repeat' (first | (assumption) | (refine ite_keeps _ (fun _ => ?_) (fun _ => ?_)) | (refine setChR_keeps _ _ _ ?_))

theorem chForget_keeps {kb kz} (c : Nat) {s : State} (hK : Keeps kb kz s) : Keeps kb kz (chForget c s) := by
  unfold chForget
  with_reducible repeat' (first | (assumption) | (refine ite_keeps _ (fun _ => ?_) (fun _ => ?_)) | (refine setReg_keeps _ _ _ ?_) | (intro _) | (split) | (simp only [keeps_mk, keeps1_mk, keeps2_mk, keeps3_mk, keeps4_mk]) | (refine parts_of ?_))

theorem setPhase_keeps {kb kz} (c : Nat) (p : ChPhase) {s : State} (hK : Keeps kb kz s) : Keeps kb kz (setPhase c p s) := by
  unfold setPhase
  with_reducible repeat' (first | (assumption) | (refine ite_keeps _ (fun _ => ?_) (fun _ => ?_)) | (refine modChan_keeps _ _ ?_))

theorem unhold_keeps {kb kz} (c : Nat) {s : State} (hK : Keeps kb kz s) : Keeps kb kz (unhold c s) := by
  unfold unhold
  with_reducible repeat' (first | (assumption) | (refine ite_keeps _ (fun _ => ?_) (fun _ => ?_)) | (refine setReg_keeps _ _ _ ?_) | (intro _) | (split) | (simp only [keeps_mk, keeps1_mk, keeps2_mk, keeps3_mk, keeps4_mk]) | (refine parts_of ?_))

theorem chSuspend_keeps {kb kz} (c cause : Nat) {s : State} (hK : Keeps kb kz s) : Keeps kb kz (chSuspend c cause s) := by
  unfold chSuspend
  (try dsimp only)
  with_reducible repeat' (first | (assumption) | (refine ite_keeps _ (fun _ => ?_) (fun _ => ?_)) | (refine chForget_keeps _ ?_) | (refine unhold_keeps _ ?_) | (refine modChan_keeps _ _ ?_) | (refine setStat_keeps _ _ _ ?_) | (refine setChF_keeps _ _ _ _ _ ?_))

theorem ringSettle_keeps {kb kz} (c : Nat) {s : State} (hK : Keeps kb kz s) : Keeps kb kz (ringSettle c s) := by
  unfold ringSettle
  (try dsimp only)
  with_reducible repeat' (first | (assumption) | (refine ite_keeps _ (fun _ => ?_) (fun _ => ?_)) | (refine setCpc_keeps _ _ ?_) | (refine setChR_keeps _ _ _ ?_) | (refine modChan_keeps _ _ ?_) | (refine setChF_keeps _ _ _ _ _ ?_) | (refine setChState_keeps _ _ ?_))

theorem chBoundary_keeps {kb kz} (c : Nat) {s : State} (hK : Keeps kb kz s) : Keeps kb kz (chBoundary c s) := by
  unfold chBoundary
  with_reducible repeat' (first | (assumption) | (refine ite_keeps _ (fun _ => ?_) (fun _ => ?_)) | (refine chSuspend_keeps _ _ ?_))

theorem chFinish_keeps {kb kz} (c : Nat) {s : State} (hK : Keeps kb kz s) : Keeps kb kz (chFinish c s) := by
  unfold chFinish
  (try dsimp only)
  with_reducible repeat' (first | (assumption) | (refine ite_keeps _ (fun _ => ?_) (fun _ => ?_)) | (refine setChan_keeps _ _ ?_) | (refine setChR_keeps _ _ _ ?_) | (refine chBoundary_keeps _ ?_) | (refine ringSettle_keeps _ ?_) | (refine setCpc_keeps _ _ ?_))

theorem progErr_keeps {kb kz} (c code : Nat) {s : State} (hK : Keeps kb kz s) : Keeps kb kz (progErr c code s) := by
  unfold progErr
  (try dsimp only)
  with_reducible repeat' (first | (assumption) | (refine ite_keeps _ (fun _ => ?_) (fun _ => ?_)) | (refine setChF_keeps _ _ _ _ _ ?_) | (refine chSuspend_keeps _ _ ?_) | (refine pageIrq_keeps _ _ ?_) | (refine modChan_keeps _ _ ?_))

theorem chError_keeps {kb kz} (c : Nat) (j : Journal) {s : State} (hK : Keeps kb kz s) : Keeps kb kz (chError c j s) := by
  unfold chError
  (try dsimp only)
  with_reducible repeat' (first | (assumption) | (refine ite_keeps _ (fun _ => ?_) (fun _ => ?_)) | (refine setStat_keeps _ _ _ ?_) | (refine chSuspend_keeps _ _ ?_) | (refine modChan_keeps _ _ ?_) | (refine pageIrq_keeps _ _ ?_))

theorem accError_keeps {kb kz} (c cause sub addr : Nat) {s : State} (hK : Keeps kb kz s) : Keeps kb kz (accError c cause sub addr s) := by
  unfold accError
  with_reducible repeat' (first | (assumption) | (refine ite_keeps _ (fun _ => ?_) (fun _ => ?_)) | (refine chError_keeps _ _ ?_))

theorem fltClear_keeps {kb kz} (c : Nat) {s : State} (hK : Keeps kb kz s) : Keeps kb kz (fltClear c s) := by
  unfold fltClear
  (try dsimp only)
  with_reducible repeat' (first | (assumption) | (refine ite_keeps _ (fun _ => ?_) (fun _ => ?_)) | (refine modChan_keeps _ _ ?_))

theorem badMark_keeps {kb kz} (c : Nat) {s : State} (hK : Keeps kb kz s) : Keeps kb kz (badMark c s) := by
  unfold badMark
  (try dsimp only)
  with_reducible repeat' (first | (assumption) | (refine ite_keeps _ (fun _ => ?_) (fun _ => ?_)) | (refine setStat_keeps _ _ _ ?_) | (refine pageIrq_keeps _ _ ?_) | (refine bumpF_keeps _ _ _ _ _ ?_))

theorem chIssue_keeps {kb kz} (c : Nat) (w : ChWrite) {s : State} (hK : Keeps kb kz s) : Keeps kb kz (chIssue c w s) := by
  unfold chIssue
  with_reducible repeat' (first | (assumption) | (refine ite_keeps _ (fun _ => ?_) (fun _ => ?_)) | (refine modChan_keeps _ _ ?_))

theorem statusIssue_keeps {kb kz} (c st cause : Nat) {s : State} (hK : Keeps kb kz s) : Keeps kb kz (statusIssue c st cause s) := by
  unfold statusIssue
  (try dsimp only)
  with_reducible repeat' (first | (assumption) | (refine ite_keeps _ (fun _ => ?_) (fun _ => ?_)) | (refine (chanXlat_keeps _ _ _ _ ?_).out) | (refine chanXlat_keeps_out _ _ _ _ ?_ (by assumption)) | (refine modChan_keeps _ _ ?_) | (refine chIssue_keeps _ _ ?_) | (refine accError_keeps _ _ _ _ ?_) | (refine setReg_keeps _ _ _ ?_) | (intro _) | (split))

theorem chDone_keeps {kb kz} (c st : Nat) {s : State} (hK : Keeps kb kz s) : Keeps kb kz (chDone c st s) := by
  unfold chDone
  (try dsimp only)
  with_reducible repeat' (first | (assumption) | (refine ite_keeps _ (fun _ => ?_) (fun _ => ?_)) | (refine setStat_keeps _ _ _ ?_) | (refine statusIssue_keeps _ _ _ ?_) | (refine chFinish_keeps _ ?_))

theorem chBad_keeps {kb kz} (c cause : Nat) {s : State} (hK : Keeps kb kz s) : Keeps kb kz (chBad c cause s) := by
  unfold chBad
  with_reducible repeat' (first | (assumption) | (refine ite_keeps _ (fun _ => ?_) (fun _ => ?_)) | (refine statusIssue_keeps _ _ _ ?_) | (refine badMark_keeps _ ?_))

theorem moveError_keeps {kb kz} (c side cause sub va : Nat) (m : Move) {s : State} (hK : Keeps kb kz s) : Keeps kb kz (moveError c side cause sub va m s) := by
  unfold moveError
  (try dsimp only)
  with_reducible repeat' (first | (assumption) | (refine ite_keeps _ (fun _ => ?_) (fun _ => ?_)) | (refine chError_keeps _ _ ?_) | (refine setPhase_keeps _ _ ?_))

theorem heldError_keeps {kb kz} (c cause sub : Nat) (w : ChWrite) {s : State} (hK : Keeps kb kz s) : Keeps kb kz (heldError c cause sub w s) := by
  unfold heldError
  with_reducible repeat' (first | (assumption) | (refine ite_keeps _ (fun _ => ?_) (fun _ => ?_)) | (refine moveError_keeps _ _ _ _ _ _ ?_) | (refine chError_keeps _ _ ?_) | (refine setReg_keeps _ _ _ ?_) | (intro _) | (split))

theorem moveLeave_keeps {kb kz} (c : Nat) (bad told : Bool) {s : State} (hK : Keeps kb kz s) : Keeps kb kz (moveLeave c bad told s) := by
  unfold moveLeave
  (try dsimp only)
  with_reducible repeat' (first | (assumption) | (refine ite_keeps _ (fun _ => ?_) (fun _ => ?_)) | (refine modChan_keeps _ _ ?_) | (refine unhold_keeps _ ?_))

theorem moveEnd_keeps {kb kz} (c : Nat) {s : State} (hK : Keeps kb kz s) : Keeps kb kz (moveEnd c s) := by
  unfold moveEnd
  (try dsimp only)
  with_reducible repeat' (first | (assumption) | (refine ite_keeps _ (fun _ => ?_) (fun _ => ?_)) | (refine chBad_keeps _ _ ?_) | (refine moveLeave_keeps _ _ _ ?_) | (refine chDone_keeps _ _ ?_) | (refine setReg_keeps _ _ _ ?_) | (intro _) | (split))

theorem lateMark_keeps {kb kz} (c : Nat) {s : State} (hK : Keeps kb kz s) : Keeps kb kz (lateMark c s) := by
  unfold lateMark
  with_reducible repeat' (first | (assumption) | (refine ite_keeps _ (fun _ => ?_) (fun _ => ?_)) | (refine pageIrq_keeps _ _ ?_) | (refine bumpF_keeps _ _ _ _ _ ?_) | (refine setStat_keeps _ _ _ ?_))

theorem lateStatus_keeps {kb kz} (c cmd st cause replays : Nat) {s : State} (hK : Keeps kb kz s) : Keeps kb kz (lateStatus c cmd st cause replays s) := by
  unfold lateStatus
  (try dsimp only)
  with_reducible repeat' (first | (assumption) | (refine ite_keeps _ (fun _ => ?_) (fun _ => ?_)) | (refine (chanXlat_keeps _ _ _ _ ?_).out) | (refine chanXlat_keeps_out _ _ _ _ ?_ (by assumption)) | (refine chIssue_keeps _ _ ?_) | (refine heldError_keeps _ _ _ _ ?_) | (refine setReg_keeps _ _ _ ?_) | (intro _) | (split))

theorem tailEnd_keeps {kb kz} (c mv : Nat) {s : State} (hK : Keeps kb kz s) : Keeps kb kz (tailEnd c mv s) := by
  unfold tailEnd
  (try dsimp only)
  with_reducible repeat' (first | (assumption) | (refine ite_keeps _ (fun _ => ?_) (fun _ => ?_)) | (refine modChan_keeps _ _ ?_) | (refine lateStatus_keeps _ _ _ _ _ ?_) | (refine setReg_keeps _ _ _ ?_) | (intro _) | (split))

theorem chStart_keeps {kb kz} (c : Nat) {s : State} (hK : Keeps kb kz s) : Keeps kb kz (chStart c s) := by
  unfold chStart
  (try dsimp only)
  with_reducible repeat' (first | (assumption) | (refine ite_keeps _ (fun _ => ?_) (fun _ => ?_)) | (refine setChR_keeps _ _ _ ?_) | (refine modChan_keeps _ _ ?_) | (refine ringSettle_keeps _ ?_) | (refine setCpc_keeps _ _ ?_))

theorem tryStart_keeps {kb kz} (c : Nat) {s : State} (hK : Keeps kb kz s) : Keeps kb kz (tryStart c s) := by
  unfold tryStart
  with_reducible repeat' (first | (assumption) | (refine ite_keeps _ (fun _ => ?_) (fun _ => ?_)) | (refine chStart_keeps _ ?_) | (refine setStat_keeps _ _ _ ?_))

theorem chGoOn_keeps {kb kz} (c : Nat) {s : State} (hK : Keeps kb kz s) : Keeps kb kz (chGoOn c s) := by
  unfold chGoOn
  with_reducible repeat' (first | (assumption) | (refine ite_keeps _ (fun _ => ?_) (fun _ => ?_)) | (refine statusIssue_keeps _ _ _ ?_) | (refine moveEnd_keeps _ ?_) | (refine ringSettle_keeps _ ?_) | (refine setReg_keeps _ _ _ ?_) | (intro _) | (split))

theorem reqStart_keeps {kb kz} (c : Nat) {s : State} (hK : Keeps kb kz s) : Keeps kb kz (reqStart c s) := by
  unfold reqStart
  (try dsimp only)
  with_reducible repeat' (first | (assumption) | (refine ite_keeps _ (fun _ => ?_) (fun _ => ?_)) | (refine tryStart_keeps _ ?_) | (refine setChState_keeps _ _ ?_) | (refine chSuspend_keeps _ _ ?_) | (refine chGoOn_keeps _ ?_) | (refine setStat_keeps _ _ _ ?_) | (refine setReg_keeps _ _ _ ?_) | (intro _) | (split))

theorem stopMarks_keeps {kb kz} (c : Nat) (bad : Bool) (due : Option (Nat × Nat)) (replays : Nat) {s : State} (hK : Keeps kb kz s) : Keeps kb kz (stopMarks c bad due replays s) := by
  unfold stopMarks
  (try dsimp only)
  with_reducible repeat' (first | (assumption) | (refine ite_keeps _ (fun _ => ?_) (fun _ => ?_)) | (refine badMark_keeps _ ?_) | (refine lateStatus_keeps _ _ _ _ _ ?_) | (refine setReg_keeps _ _ _ ?_) | (intro _) | (split))

theorem stopCommit_keeps {kb kz} (c : Nat) {s : State} (hK : Keeps kb kz s) : Keeps kb kz (stopCommit c s) := by
  unfold stopCommit
  (try dsimp only)
  with_reducible repeat' (first | (assumption) | (refine ite_keeps _ (fun _ => ?_) (fun _ => ?_)) | (refine chForget_keeps _ ?_) | (refine modChan_keeps _ _ ?_) | (refine moveLeave_keeps _ _ _ ?_) | (refine setChF_keeps _ _ _ _ _ ?_) | (refine setStat_keeps _ _ _ ?_) | (refine stopMarks_keeps _ _ _ _ ?_))

theorem reqStop_keeps {kb kz} (c : Nat) {s : State} (hK : Keeps kb kz s) : Keeps kb kz (reqStop c s) := by
  unfold reqStop
  (try dsimp only)
  with_reducible repeat' (first | (assumption) | (refine ite_keeps _ (fun _ => ?_) (fun _ => ?_)) | (refine stopCommit_keeps _ ?_) | (refine setChState_keeps _ _ ?_) | (refine modChan_keeps _ _ ?_) | (refine setReg_keeps _ _ _ ?_) | (intro _) | (split))

theorem reqSuspend_keeps {kb kz} (c cause : Nat) {s : State} (hK : Keeps kb kz s) : Keeps kb kz (reqSuspend c cause s) := by
  unfold reqSuspend
  (try dsimp only)
  with_reducible repeat' (first | (assumption) | (refine ite_keeps _ (fun _ => ?_) (fun _ => ?_)) | (refine chSuspend_keeps _ _ ?_) | (refine setStat_keeps _ _ _ ?_) | (refine setChan_keeps _ _ ?_) | (refine setReg_keeps _ _ _ ?_) | (intro _) | (split))

theorem reissue_keeps {kb kz} (c k : Nat) {s : State} (hK : Keeps kb kz s) : Keeps kb kz (reissue c k s) := by
  unfold reissue
  with_reducible repeat' (first | (assumption) | (refine ite_keeps _ (fun _ => ?_) (fun _ => ?_)) | (refine (chanXlat_keeps _ _ _ _ ?_).out) | (refine chanXlat_keeps_out _ _ _ _ ?_ (by assumption)) | (refine modChan_keeps _ _ ?_) | (refine heldError_keeps _ _ _ _ ?_) | (refine setReg_keeps _ _ _ ?_) | (intro _) | (split))

theorem reqResume_keeps {kb kz} (c : Nat) {s : State} (hK : Keeps kb kz s) : Keeps kb kz (reqResume c s) := by
  unfold reqResume
  (try dsimp only)
  with_reducible repeat' (first | (assumption) | (refine ite_keeps _ (fun _ => ?_) (fun _ => ?_)) | (refine forAll_keeps _ _ ?_ ?_) | (refine setStat_keeps _ _ _ ?_) | (refine setChF_keeps _ _ _ _ _ ?_) | (refine modChan_keeps _ _ ?_) | (refine reissue_keeps _ _ ?_) | (refine chGoOn_keeps _ ?_) | (refine setReg_keeps _ _ _ ?_) | (intro _) | (split))

theorem clrSig_keeps {kb kz} (c : Nat) {s : State} (hK : Keeps kb kz s) : Keeps kb kz (clrSig c s) := by
  unfold clrSig
  with_reducible repeat' (first | (assumption) | (refine ite_keeps _ (fun _ => ?_) (fun _ => ?_)) | (refine setChF_keeps _ _ _ _ _ ?_))

theorem sigAdd_keeps {kb kz} (c n : Nat) {s : State} (hK : Keeps kb kz s) : Keeps kb kz (sigAdd c n s) := by
  unfold sigAdd
  (try dsimp only)
  with_reducible repeat' (first | (assumption) | (refine ite_keeps _ (fun _ => ?_) (fun _ => ?_)) | (refine setChF_keeps _ _ _ _ _ ?_) | (refine setStat_keeps _ _ _ ?_))

theorem trchCtrl_keeps {kb kz} (c : Nat) (v : Word) {s : State} (hK : Keeps kb kz s) : Keeps kb kz (trchCtrl c v s) := by
  unfold trchCtrl
  (try dsimp only)
  with_reducible repeat' (first | (assumption) | (refine ite_keeps _ (fun _ => ?_) (fun _ => ?_)) | (refine setStat_keeps _ _ _ ?_) | (refine clrSig_keeps _ ?_) | (refine reqStart_keeps _ ?_) | (refine reqStop_keeps _ ?_) | (refine reqSuspend_keeps _ _ ?_) | (refine reqResume_keeps _ ?_))

theorem trchOwn_keeps {kb kz} (w : Who) (c : Nat) (v : Word) {s : State} (hK : Keeps kb kz s) : Keeps kb kz (trchOwn w c v s) := by
  unfold trchOwn
  with_reducible repeat' (first | (assumption) | (refine ite_keeps _ (fun _ => ?_) (fun _ => ?_)) | (refine setChR_keeps _ _ _ ?_))

theorem trchCfg_keeps {kb kz} (c : Nat) (v : Word) {s : State} (hK : Keeps kb kz s) : Keeps kb kz (trchCfg c v s) := by
  unfold trchCfg
  (try dsimp only)
  with_reducible repeat' (first | (assumption) | (refine ite_keeps _ (fun _ => ?_) (fun _ => ?_)) | (refine setChR_keeps _ _ _ ?_))

theorem trchWrite_keeps {kb kz} (w : Who) (c k : Nat) (v : Word) {s : State} (hK : Keeps kb kz s) : Keeps kb kz (trchWrite w c k v s) := by
  unfold trchWrite
  (try dsimp only)
  with_reducible repeat' (first | (assumption) | (refine ite_keeps _ (fun _ => ?_) (fun _ => ?_)) | (refine trchCtrl_keeps _ _ ?_) | (refine trchCfg_keeps _ _ ?_) | (refine trchOwn_keeps _ _ _ ?_) | (refine setChR_keeps _ _ _ ?_) | (refine ringSettle_keeps _ ?_) | (refine setReg_keeps _ _ _ ?_) | (intro _) | (split))

theorem journalRead_keeps {kb kz} (w : Who) {s : State} (hK : Keeps kb kz s) : Keeps1 kb kz (journalRead w s) := by
  unfold journalRead
  (try dsimp only)
  with_reducible repeat' (first | (assumption) | (refine ite_keeps _ (fun _ => ?_) (fun _ => ?_)) | (refine forAll_keeps _ _ ?_ ?_) | (refine setReg_keeps _ _ _ ?_) | (intro _) | (split) | (simp only [keeps_mk, keeps1_mk, keeps2_mk, keeps3_mk, keeps4_mk]) | (refine parts_of ?_))
theorem journalRead_keeps_out {kb kz} (w : Who) {s : State} (hK : Keeps kb kz s) {x0 s₁} (hE : journalRead w s = (x0, s₁)) : Keeps kb kz s₁ := by
  have := journalRead_keeps (kb := kb) (kz := kz) w  hK
  rw [hE] at this; exact this.out

theorem waitEvent_keeps {kb kz} (line : Nat) {s : State} (hK : Keeps kb kz s) : Keeps kb kz (waitEvent line s) := by
  unfold waitEvent
  with_reducible repeat' (first | (assumption) | (refine ite_keeps _ (fun _ => ?_) (fun _ => ?_)) | (refine setReg_keeps _ _ _ ?_) | (intro _) | (split) | (simp only [keeps_mk, keeps1_mk, keeps2_mk, keeps3_mk, keeps4_mk]) | (refine parts_of ?_))

/-! ## Machine/EthCmds.lean -/

theorem frameTaken_keeps {kb kz} (m k : Nat) {s : State} (hK : Keeps kb kz s) : Keeps kb kz (frameTaken m k s) := by
  unfold frameTaken
  (try dsimp only)
  with_reducible repeat' (first | (assumption) | (refine ite_keeps _ (fun _ => ?_) (fun _ => ?_)) | (refine emit_keeps _ ?_) | (refine setMac_keeps _ _ ?_))

theorem execEthFrameReceive_keeps {kb kz} (m : Fin 2) (len : Nat) (fcs : Bool) (etype : BitVec 16) (sid : BitVec 64) {s : State} (hK : Keeps kb kz s) : ∃ s', execEthFrameReceive m len fcs etype sid s = .next s' ∧ Keeps kb kz s' := by
  unfold execEthFrameReceive
  refine ⟨_, rfl, ?_⟩
  with_reducible repeat' (first | (assumption) | (refine ite_keeps _ (fun _ => ?_) (fun _ => ?_)) | (refine bumpF_keeps _ _ _ _ _ ?_) | (refine frameTaken_keeps _ _ ?_) | (refine setReg_keeps _ _ _ ?_) | (intro _) | (split))

theorem syncOffset_keeps {kb kz} (m : Nat) (o : Int) {s : State} (hK : Keeps kb kz s) : Keeps kb kz (syncOffset m o s) := by
  unfold syncOffset
  (try dsimp only)
  with_reducible repeat' (first | (assumption) | (refine ite_keeps _ (fun _ => ?_) (fun _ => ?_)) | (refine (drawNat_keeps ?_).out) | (refine drawNat_keeps_out ?_ (by assumption)) | (refine setMac_keeps _ _ ?_) | (refine ptpStatus_keeps _ _ ?_) | (refine setRegF_keeps _ _ _ _ _ ?_))

theorem ptpFrame_keeps {kb kz} (m t kind len : Nat) {s : State} (hK : Keeps kb kz s) : Keeps kb kz (ptpFrame m t kind len s) := by
  unfold ptpFrame
  with_reducible repeat' (first | (assumption) | (refine ite_keeps _ (fun _ => ?_) (fun _ => ?_)) | (refine macQueueAt_keeps _ _ _ ?_))

theorem execGptpMessage_keeps {kb kz} (m : Fin 2) (msg : GptpMsg) (offset : Int) {s : State} (hK : Keeps kb kz s) : ∃ s', execGptpMessage m msg offset s = .next s' ∧ Keeps kb kz s' := by
  unfold execGptpMessage
  refine ⟨_, rfl, ?_⟩
  (try dsimp only)
  with_reducible repeat' (first | (assumption) | (refine ite_keeps _ (fun _ => ?_) (fun _ => ?_)) | (refine ptpStatus_keeps _ _ ?_) | (refine setMac_keeps _ _ ?_) | (refine syncOffset_keeps _ _ ?_) | (refine ptpFrame_keeps _ _ _ _ ?_) | (refine setReg_keeps _ _ _ ?_) | (intro _) | (split))

theorem execSyncInterval_keeps {kb kz} (m : Fin 2) (sub : Fin 1000) {s : State} (hK : Keeps kb kz s) : ∃ s', execSyncInterval m sub s = .next s' ∧ Keeps kb kz s' := by
  unfold execSyncInterval
  refine ⟨_, rfl, ?_⟩
  (try dsimp only)
  with_reducible repeat' (first | (assumption) | (refine ite_keeps _ (fun _ => ?_) (fun _ => ?_)) | (refine ptpStatus_keeps _ _ ?_) | (refine setMac_keeps _ _ ?_) | (refine ptpFrame_keeps _ _ _ _ ?_))

theorem execListenerFrame_keeps {kb kz} (m : Fin 2) (i : Fin 64) (fmt : AafFormat) (ch nsr : Nat) (seq : BitVec 8) (tv : Bool) (ts : BitVec 32) (raw : List Nat) (sub : Fin 1000) {s : State} (hK : Keeps kb kz s) : ∃ s', execListenerFrame m i fmt ch nsr seq tv ts raw sub s = .next s' ∧ Keeps kb kz s' := by
  unfold execListenerFrame
  refine ⟨_, rfl, ?_⟩
  (try dsimp only)
  with_reducible repeat' (first | (assumption) | (refine ite_keeps _ (fun _ => ?_) (fun _ => ?_)) | (refine bumpF_keeps _ _ _ _ _ ?_) | (refine strmBump_keeps _ _ _ ?_) | (refine setFifo_keeps _ _ ?_) | (refine listenerEnter_keeps _ _ _ ?_) | (refine setStrm_keeps _ _ ?_))

theorem execListenerPresent_keeps {kb kz} (m : Fin 2) (i : Fin 64) (sub : Fin 1000) {s : State} (hK : Keeps kb kz s) : ∃ s', execListenerPresent m i sub s = .next s' ∧ Keeps kb kz s' := by
  unfold execListenerPresent
  refine ⟨_, rfl, ?_⟩
  (try dsimp only)
  with_reducible repeat' (first | (assumption) | (refine ite_keeps _ (fun _ => ?_) (fun _ => ?_)) | (refine listenerEnter_keeps _ _ _ ?_) | (refine setStrm_keeps _ _ ?_) | (refine setReg_keeps _ _ _ ?_) | (intro _) | (split))

theorem execTalkerFrame_keeps {kb kz} (m : Fin 2) (i : Fin 64) (sub : Fin 1000) {s : State} (hK : Keeps kb kz s) : ∃ s', execTalkerFrame m i sub s = .next s' ∧ Keeps kb kz s' := by
  unfold execTalkerFrame
  refine ⟨_, rfl, ?_⟩
  (try dsimp only)
  with_reducible repeat' (first | (assumption) | (refine ite_keeps _ (fun _ => ?_) (fun _ => ?_)) | (refine forAll_keeps _ _ ?_ ?_) | (refine (talkNarrows_keeps _ _ _ _ ?_).out) | (refine talkNarrows_keeps_out _ _ _ _ ?_ (by assumption)) | (refine setFifo_keeps _ _ ?_) | (refine gaugeTake_keeps _ _ _ _ ?_) | (refine strmBump_keeps _ _ _ ?_) | (refine strmFlag_keeps _ _ _ _ ?_) | (refine setStrm_keeps _ _ ?_) | (refine macQueueAt_keeps _ _ _ ?_) | (refine setReg_keeps _ _ _ ?_) | (intro _) | (split))

theorem execMacTransmit_keeps {kb kz} (m : Fin 2) (sub : Fin 1000) (tenth : Fin 10) (psub : Fin 1000) {s : State} (hK : Keeps kb kz s) : ∃ s', execMacTransmit m sub tenth psub s = .next s' ∧ Keeps kb kz s' := by
  unfold execMacTransmit
  refine ⟨_, rfl, ?_⟩
  (try dsimp only)
  with_reducible repeat' (first | (assumption) | (refine ite_keeps _ (fun _ => ?_) (fun _ => ?_)) | (refine macCredits_keeps _ _ ?_) | (refine emit_keeps _ ?_) | (refine setMac_keeps _ _ ?_) | (refine setReg_keeps _ _ _ ?_) | (intro _) | (split))

theorem gclApply_keeps {kb kz} (m i t : Nat) {s : State} (hK : Keeps kb kz s) : Keeps kb kz (gclApply m i t s) := by
  unfold gclApply
  (try dsimp only)
  with_reducible repeat' (first | (assumption) | (refine ite_keeps _ (fun _ => ?_) (fun _ => ?_)) | (refine setMac_keeps _ _ ?_))

theorem execGclCycleStart_keeps {kb kz} (m : Fin 2) {s : State} (hK : Keeps kb kz s) : ∃ s', execGclCycleStart m s = .next s' ∧ Keeps kb kz s' := by
  unfold execGclCycleStart
  refine ⟨_, rfl, ?_⟩
  (try dsimp only)
  with_reducible repeat' (first | (assumption) | (refine ite_keeps _ (fun _ => ?_) (fun _ => ?_)) | (refine setMac_keeps _ _ ?_) | (refine setRegB_keeps _ _ _ _ ?_) | (refine gclApply_keeps _ _ _ ?_) | (refine setReg_keeps _ _ _ ?_) | (intro _) | (split))

theorem execGclEntryStart_keeps {kb kz} (m : Fin 2) {s : State} (hK : Keeps kb kz s) : ∃ s', execGclEntryStart m s = .next s' ∧ Keeps kb kz s' := by
  unfold execGclEntryStart
  refine ⟨_, rfl, ?_⟩
  (try dsimp only)
  with_reducible repeat' (first | (assumption) | (refine ite_keeps _ (fun _ => ?_) (fun _ => ?_)) | (refine gclApply_keeps _ _ _ ?_) | (refine setReg_keeps _ _ _ ?_) | (intro _) | (split))

theorem execGclSwap_keeps {kb kz} (w : Who) (m : Fin 2) {s : State} (hK : Keeps kb kz s) : ∃ s', execGclSwap w m s = .next s' ∧ Keeps kb kz s' := by
  unfold execGclSwap
  refine ⟨_, rfl, ?_⟩
  with_reducible repeat' (first | (assumption) | (refine ite_keeps _ (fun _ => ?_) (fun _ => ?_)) | (refine gated_keeps _ _ _ _ ?_ ?_) | (refine ethWrite_keeps _ _ _ ?_) | (refine setReg_keeps _ _ _ ?_) | (intro _))

theorem execCrfTalkerPdu_keeps {kb kz} (m : Fin 2) (ev : CrfEvents) {s : State} (hK : Keeps kb kz s) : ∃ s', execCrfTalkerPdu m ev s = .next s' ∧ Keeps kb kz s' := by
  unfold execCrfTalkerPdu
  refine ⟨_, rfl, ?_⟩
  (try dsimp only)
  with_reducible repeat' (first | (assumption) | (refine ite_keeps _ (fun _ => ?_) (fun _ => ?_)) | (refine macQueueAt_keeps _ _ _ ?_) | (refine setMac_keeps _ _ ?_))

theorem execEthPtpCfgWrite_keeps {kb kz} (w : Who) (m : Fin 2) (v : Word) {s : State} (hK : Keeps kb kz s) : ∃ s', execEthPtpCfgWrite w m v s = .next s' ∧ Keeps kb kz s' := by
  unfold execEthPtpCfgWrite
  refine ⟨_, rfl, ?_⟩
  with_reducible repeat' (first | (assumption) | (refine ite_keeps _ (fun _ => ?_) (fun _ => ?_)) | (refine gated_keeps _ _ _ _ ?_ ?_) | (refine ethWrite_keeps _ _ _ ?_) | (refine setReg_keeps _ _ _ ?_) | (intro _))

theorem execEthPtpTimeRead_keeps {kb kz} (w : Who) (m : Fin 2) (sub : Fin 1000) {s : State} (hK : Keeps kb kz s) : ∃ s', execEthPtpTimeRead w m sub s = .next s' ∧ Keeps kb kz s' := by
  unfold execEthPtpTimeRead
  refine ⟨_, rfl, ?_⟩
  (try dsimp only)
  with_reducible repeat' (first | (assumption) | (refine ite_keeps _ (fun _ => ?_) (fun _ => ?_)) | (refine (ptpRead_keeps _ _ ?_).out) | (refine ptpRead_keeps_out _ _ ?_ (by assumption)) | (refine denied_keeps _ _ _ _ ?_) | (refine setReg_keeps _ _ _ ?_) | (intro _) | (split) | (refine ptpRead_keeps _ _ ?_) | (simp only [keeps_mk, keeps1_mk, keeps2_mk, keeps3_mk, keeps4_mk]) | (refine parts_of ?_))

theorem execStrmCfgWrite_keeps {kb kz} (w : Who) (m : Fin 2) (talk : Bool) (i : Fin 64) (v : Word) {s : State} (hK : Keeps kb kz s) : ∃ s', execStrmCfgWrite w m talk i v s = .next s' ∧ Keeps kb kz s' := by
  unfold execStrmCfgWrite
  refine ⟨_, rfl, ?_⟩
  with_reducible repeat' (first | (assumption) | (refine ite_keeps _ (fun _ => ?_) (fun _ => ?_)) | (refine gated_keeps _ _ _ _ ?_ ?_) | (refine strmCfgWrite_keeps _ _ _ _ ?_) | (refine setReg_keeps _ _ _ ?_) | (intro _))

theorem execEthQavWrite_keeps {kb kz} (w : Who) (m : Fin 2) (b : Bool) (v : Word) {s : State} (hK : Keeps kb kz s) : ∃ s', execEthQavWrite w m b v s = .next s' ∧ Keeps kb kz s' := by
  unfold execEthQavWrite
  refine ⟨_, rfl, ?_⟩
  with_reducible repeat' (first | (assumption) | (refine ite_keeps _ (fun _ => ?_) (fun _ => ?_)) | (refine gated_keeps _ _ _ _ ?_ ?_) | (refine qavWrite_keeps _ _ _ ?_) | (refine setReg_keeps _ _ _ ?_) | (intro _))

theorem execEthLinkUp_keeps {kb kz} (m : Fin 2) {s : State} (hK : Keeps kb kz s) : ∃ s', execEthLinkUp m s = .next s' ∧ Keeps kb kz s' := by
  unfold execEthLinkUp
  refine ⟨_, rfl, ?_⟩
  with_reducible repeat' (first | (assumption) | (refine ite_keeps _ (fun _ => ?_) (fun _ => ?_)) | (refine setRegB_keeps _ _ _ _ ?_))

theorem execEthLinkDown_keeps {kb kz} (m : Fin 2) {s : State} (hK : Keeps kb kz s) : ∃ s', execEthLinkDown m s = .next s' ∧ Keeps kb kz s' := by
  unfold execEthLinkDown
  refine ⟨_, rfl, ?_⟩
  with_reducible repeat' (first | (assumption) | (refine ite_keeps _ (fun _ => ?_) (fun _ => ?_)) | (refine setRegB_keeps _ _ _ _ ?_))

theorem apllCfgWrite_keeps {kb kz} (v : Word) {s : State} (hK : Keeps kb kz s) : Keeps kb kz (apllCfgWrite v s) := by
  unfold apllCfgWrite
  (try dsimp only)
  with_reducible repeat' (first | (assumption) | (refine ite_keeps _ (fun _ => ?_) (fun _ => ?_)) | (refine setRegB_keeps _ _ _ _ ?_) | (refine setRegF_keeps _ _ _ _ _ ?_) | (refine setReg_keeps _ _ _ ?_) | (refine pllStop_keeps ?_) | (intro _) | (split) | (simp only [keeps_mk, keeps1_mk, keeps2_mk, keeps3_mk, keeps4_mk]) | (refine parts_of ?_))

theorem execApllRunWrite_keeps {kb kz} (w : Who) (run : Bool) {s : State} (hK : Keeps kb kz s) : ∃ s', execApllRunWrite w run s = .next s' ∧ Keeps kb kz s' := by
  unfold execApllRunWrite
  refine ⟨_, rfl, ?_⟩
  with_reducible repeat' (first | (assumption) | (refine ite_keeps _ (fun _ => ?_) (fun _ => ?_)) | (refine gated_keeps _ _ _ _ ?_ ?_) | (refine apllCfgWrite_keeps _ ?_) | (refine setReg_keeps _ _ _ ?_) | (intro _))

theorem execApllSrcChange_keeps {kb kz} (w : Who) (src : BitVec 2) (crfmac : Bool) {s : State} (hK : Keeps kb kz s) : ∃ s', execApllSrcChange w src crfmac s = .next s' ∧ Keeps kb kz s' := by
  unfold execApllSrcChange
  refine ⟨_, rfl, ?_⟩
  with_reducible repeat' (first | (assumption) | (refine ite_keeps _ (fun _ => ?_) (fun _ => ?_)) | (refine gated_keeps _ _ _ _ ?_ ?_) | (refine apllCfgWrite_keeps _ ?_) | (refine setReg_keeps _ _ _ ?_) | (intro _))

theorem apllErr_keeps {kb kz} (pherr : Int) {s : State} (hK : Keeps kb kz s) : Keeps kb kz (apllErr pherr s) := by
  unfold apllErr
  with_reducible repeat' (first | (assumption) | (refine ite_keeps _ (fun _ => ?_) (fun _ => ?_)) | (refine setRegF_keeps _ _ _ _ _ ?_))

theorem execPllLock_keeps {kb kz} (pherr : Int) {s : State} (hK : Keeps kb kz s) : ∃ s', execPllLock pherr s = .next s' ∧ Keeps kb kz s' := by
  unfold execPllLock
  refine ⟨_, rfl, ?_⟩
  (try dsimp only)
  with_reducible repeat' (first | (assumption) | (refine ite_keeps _ (fun _ => ?_) (fun _ => ?_)) | (refine waitEvent_keeps _ ?_) | (refine setRegB_keeps _ _ _ _ ?_) | (refine apllErr_keeps _ ?_) | (refine setReg_keeps _ _ _ ?_) | (intro _) | (split) | (simp only [keeps_mk, keeps1_mk, keeps2_mk, keeps3_mk, keeps4_mk]) | (refine parts_of ?_))

theorem execPllLoss_keeps {kb kz} (pherr : Int) {s : State} (hK : Keeps kb kz s) : ∃ s', execPllLoss pherr s = .next s' ∧ Keeps kb kz s' := by
  unfold execPllLoss
  refine ⟨_, rfl, ?_⟩
  with_reducible repeat' (first | (assumption) | (refine ite_keeps _ (fun _ => ?_) (fun _ => ?_)) | (refine frecAdd_keeps _ _ _ ?_) | (refine bumpF_keeps _ _ _ _ _ ?_) | (refine setRegB_keeps _ _ _ _ ?_) | (refine apllErr_keeps _ ?_) | (refine setReg_keeps _ _ _ ?_) | (intro _) | (split) | (simp only [keeps_mk, keeps1_mk, keeps2_mk, keeps3_mk, keeps4_mk]) | (refine parts_of ?_))

/-! ## Machine/Chain.lean -/

theorem portSend_keeps {kb kz} (p : Nat) {s : State} (hK : Keeps kb kz s) : Keeps kb kz (portSend p s) := by
  unfold portSend
  (try dsimp only)
  with_reducible repeat' (first | (assumption) | (refine ite_keeps _ (fun _ => ?_) (fun _ => ?_)) | (refine emit_keeps _ ?_) | (refine setPort_keeps _ _ ?_) | (refine setReg_keeps _ _ _ ?_) | (intro _) | (split))

theorem portResend_keeps {kb kz} (p ack : Nat) {s : State} (hK : Keeps kb kz s) : Keeps kb kz (portResend p ack s) := by
  unfold portResend
  (try dsimp only)
  with_reducible repeat' (first | (assumption) | (refine ite_keeps _ (fun _ => ?_) (fun _ => ?_)) | (refine bumpF_keeps _ _ _ _ _ ?_) | (refine setPort_keeps _ _ ?_))

theorem cellTake_keeps {kb kz} (p : Nat) (c : Cell) {s : State} (hK : Keeps kb kz s) : Keeps kb kz (cellTake p c s) := by
  unfold cellTake
  with_reducible repeat' (first | (assumption) | (refine ite_keeps _ (fun _ => ?_) (fun _ => ?_)) | (refine portQueue_keeps _ _ ?_) | (refine cellRoute_keeps _ ?_) | (refine setReg_keeps _ _ _ ?_) | (intro _) | (split) | (simp only [keeps_mk, keeps1_mk, keeps2_mk, keeps3_mk, keeps4_mk]) | (refine parts_of ?_))

theorem portReceive_keeps {kb kz} (p : Nat) (ws : List Word) {s : State} (hK : Keeps kb kz s) : Keeps kb kz (portReceive p ws s) := by
  unfold portReceive
  (try dsimp only)
  with_reducible repeat' (first | (assumption) | (refine ite_keeps _ (fun _ => ?_) (fun _ => ?_)) | (refine setPort_keeps _ _ ?_) | (refine cellTake_keeps _ _ ?_))

theorem setReady_keeps {kb kz} (n : Nat) {s : State} (hK : Keeps kb kz s) : Keeps kb kz (setReady n s) := by
  unfold setReady
  (try dsimp only)
  with_reducible repeat' (first | (assumption) | (refine ite_keeps _ (fun _ => ?_) (fun _ => ?_)) | (refine setRegF_keeps _ _ _ _ _ ?_) | (refine setRegB_keeps _ _ _ _ ?_) | (refine setReg_keeps _ _ _ ?_) | (intro _) | (split) | (simp only [keeps_mk, keeps1_mk, keeps2_mk, keeps3_mk, keeps4_mk]) | (refine parts_of ?_))

theorem headReady_keeps {kb kz} (n : Nat) {s : State} (hK : Keeps kb kz s) : Keeps kb kz (headReady n s) := by
  unfold headReady
  (try dsimp only)
  with_reducible repeat' (first | (assumption) | (refine ite_keeps _ (fun _ => ?_) (fun _ => ?_)) | (refine setRegF_keeps _ _ _ _ _ ?_) | (refine setReady_keeps _ ?_) | (refine portQueue_keeps _ _ ?_))

theorem headStart_keeps {kb kz}  {s : State} (hK : Keeps kb kz s) : Keeps kb kz (headStart s) := by
  unfold headStart
  with_reducible repeat' (first | (assumption) | (refine ite_keeps _ (fun _ => ?_) (fun _ => ?_)) | (refine portQueue_keeps _ _ ?_) | (refine setReady_keeps _ ?_))

theorem becomeHead_keeps {kb kz}  {s : State} (hK : Keeps kb kz s) : Keeps kb kz (becomeHead s) := by
  unfold becomeHead
  with_reducible repeat' (first | (assumption) | (refine ite_keeps _ (fun _ => ?_) (fun _ => ?_)) | (refine headStart_keeps ?_) | (refine setRegB_keeps _ _ _ _ ?_) | (refine setRegF_keeps _ _ _ _ _ ?_))

theorem enumCell_keeps {kb kz} (a : Nat) {s : State} (hK : Keeps kb kz s) : Keeps kb kz (enumCell a s) := by
  unfold enumCell
  (try dsimp only)
  with_reducible repeat' (first | (assumption) | (refine ite_keeps _ (fun _ => ?_) (fun _ => ?_)) | (refine portQueue_keeps _ _ ?_) | (refine setRegB_keeps _ _ _ _ ?_) | (refine setRegF_keeps _ _ _ _ _ ?_) | (refine setReg_keeps _ _ _ ?_) | (intro _) | (split) | (simp only [keeps_mk, keeps1_mk, keeps2_mk, keeps3_mk, keeps4_mk]) | (refine parts_of ?_))

theorem enumDone_keeps {kb kz} (n : Nat) {s : State} (hK : Keeps kb kz s) : Keeps kb kz (enumDone n s) := by
  unfold enumDone
  (try dsimp only)
  with_reducible repeat' (first | (assumption) | (refine ite_keeps _ (fun _ => ?_) (fun _ => ?_)) | (refine setRegF_keeps _ _ _ _ _ ?_) | (refine setReady_keeps _ ?_))

theorem readsLost_keeps {kb kz} (p : Nat → Bool) {s : State} (hK : Keeps kb kz s) : Keeps kb kz (readsLost p s) := by
  unfold readsLost
  (try dsimp only)
  with_reducible repeat' (first | (assumption) | (refine ite_keeps _ (fun _ => ?_) (fun _ => ?_)) | (refine setReg_keeps _ _ _ ?_) | (intro _) | (split) | (simp only [keeps_mk, keeps1_mk, keeps2_mk, keeps3_mk, keeps4_mk]) | (refine parts_of ?_))

theorem markAbsent_keeps {kb kz} (n : Nat) {s : State} (hK : Keeps kb kz s) : Keeps kb kz (markAbsent n s) := by
  unfold markAbsent
  (try dsimp only)
  with_reducible repeat' (first | (assumption) | (refine ite_keeps _ (fun _ => ?_) (fun _ => ?_)) | (refine readsLost_keeps _ ?_) | (refine setRegF_keeps _ _ _ _ _ ?_))

theorem headLost_keeps {kb kz} (n : Nat) {s : State} (hK : Keeps kb kz s) : Keeps kb kz (headLost n s) := by
  unfold headLost
  (try dsimp only)
  with_reducible repeat' (first | (assumption) | (refine ite_keeps _ (fun _ => ?_) (fun _ => ?_)) | (refine markAbsent_keeps _ ?_) | (refine portQueue_keeps _ _ ?_))

theorem linkLost_keeps {kb kz} (n : Nat) {s : State} (hK : Keeps kb kz s) : Keeps kb kz (linkLost n s) := by
  unfold linkLost
  with_reducible repeat' (first | (assumption) | (refine ite_keeps _ (fun _ => ?_) (fun _ => ?_)) | (refine headLost_keeps _ ?_) | (refine markAbsent_keeps _ ?_))

theorem fwdsLost_keeps {kb kz} (p : Nat) {s : State} (hK : Keeps kb kz s) : Keeps kb kz (fwdsLost p s) := by
  unfold fwdsLost
  with_reducible repeat' (first | (assumption) | (refine ite_keeps _ (fun _ => ?_) (fun _ => ?_)) | (refine forAll_keeps _ _ ?_ ?_) | (refine fwdLost_keeps _ _ ?_) | (refine setReg_keeps _ _ _ ?_) | (intro _) | (split) | (simp only [keeps_mk, keeps1_mk, keeps2_mk, keeps3_mk, keeps4_mk]) | (refine parts_of ?_))

theorem portDown_keeps {kb kz} (p : Nat) {s : State} (hK : Keeps kb kz s) : Keeps kb kz (portDown p s) := by
  unfold portDown
  (try dsimp only)
  with_reducible repeat' (first | (assumption) | (refine ite_keeps _ (fun _ => ?_) (fun _ => ?_)) | (refine setPort_keeps _ _ ?_) | (refine setRegB_keeps _ _ _ _ ?_) | (refine bumpF_keeps _ _ _ _ _ ?_) | (refine fwdsLost_keeps _ ?_) | (refine readsLost_keeps _ ?_) | (refine headLost_keeps _ ?_) | (refine portQueue_keeps _ _ ?_))

theorem portTrained_keeps {kb kz} (p : Nat) (host : Bool) {s : State} (hK : Keeps kb kz s) : Keeps kb kz (portTrained p host s) := by
  unfold portTrained
  (try dsimp only)
  with_reducible repeat' (first | (assumption) | (refine ite_keeps _ (fun _ => ?_) (fun _ => ?_)) | (refine setPort_keeps _ _ ?_) | (refine setRegB_keeps _ _ _ _ ?_) | (refine becomeHead_keeps ?_) | (refine portQueue_keeps _ _ ?_))

theorem portAlone_keeps {kb kz} (p : Nat) {s : State} (hK : Keeps kb kz s) : Keeps kb kz (portAlone p s) := by
  unfold portAlone
  (try dsimp only)
  with_reducible repeat' (first | (assumption) | (refine ite_keeps _ (fun _ => ?_) (fun _ => ?_)) | (refine setPort_keeps _ _ ?_) | (refine becomeHead_keeps ?_) | (refine headStart_keeps ?_))

theorem chainRouteWrite_keeps {kb kz} (v : Word) {s : State} (hK : Keeps kb kz s) : Keeps kb kz (chainRouteWrite v s) := by
  unfold chainRouteWrite
  (try dsimp only)
  with_reducible repeat' (first | (assumption) | (refine ite_keeps _ (fun _ => ?_) (fun _ => ?_)) | (refine routeStore_keeps _ _ _ _ ?_) | (refine portQueue_keeps _ _ ?_))

theorem bcastWrite_keeps {kb kz} (v : Word) {s : State} (hK : Keeps kb kz s) : Keeps kb kz (bcastWrite v s) := by
  unfold bcastWrite
  (try dsimp only)
  with_reducible repeat' (first | (assumption) | (refine ite_keeps _ (fun _ => ?_) (fun _ => ?_)) | (refine portQueue_keeps _ _ ?_) | (refine setReg_keeps _ _ _ ?_) | (intro _) | (split) | (simp only [keeps_mk, keeps1_mk, keeps2_mk, keeps3_mk, keeps4_mk]) | (refine parts_of ?_))

theorem wakeSend_keeps {kb kz} (p : Nat) {s : State} (hK : Keeps kb kz s) : Keeps kb kz (wakeSend p s) := by
  unfold wakeSend
  with_reducible repeat' (first | (assumption) | (refine ite_keeps _ (fun _ => ?_) (fun _ => ?_)) | (refine emit_keeps _ ?_))

theorem reenum_keeps {kb kz}  {s : State} (hK : Keeps kb kz s) : Keeps kb kz (reenum s) := by
  unfold reenum
  with_reducible repeat' (first | (assumption) | (refine ite_keeps _ (fun _ => ?_) (fun _ => ?_)) | (refine portQueue_keeps _ _ ?_))

theorem chainRegWrite_keeps {kb kz} (off : Nat) (v : Word) {s : State} (hK : Keeps kb kz s) : Keeps kb kz (chainRegWrite off v s) := by
  unfold chainRegWrite
  (try dsimp only)
  with_reducible repeat' (first | (assumption) | (refine ite_keeps _ (fun _ => ?_) (fun _ => ?_)) | (refine wakeSend_keeps _ ?_) | (refine reenum_keeps ?_) | (refine bcastWrite_keeps _ ?_) | (refine setReg_keeps _ _ _ ?_) | (intro _) | (split))

end Sys2Proof.Machine
end

