-- ==== Sys2Proof/Laws/KeepsPower.lean ====
section
/-! SUPPORT. Laws that say, operation by operation, that the canonical form, the queue and OTP are kept: power, row commands, page registers, OTP and resets. -/

namespace Sys2Proof.Machine

/-! ## Machine/Power.lean -/

theorem modPwr_keeps {kb kz} (f : Pwr → Pwr) {s : State} (hK : Keeps kb kz s) : Keeps kb kz (modPwr f s) := by
  unfold modPwr
  with_reducible repeat' (first | (assumption) | (refine ite_keeps _ (fun _ => ?_) (fun _ => ?_)) | (refine setReg_keeps _ _ _ ?_) | (intro _) | (split) | (simp only [keeps_mk, keeps1_mk, keeps2_mk, keeps3_mk, keeps4_mk]) | (refine parts_of ?_))

theorem keepVio_keeps {kb kz} (old : State) (r : Nat) {s : State} (hK : Keeps kb kz s) : Keeps kb kz (keepVio old r s) := by
  unfold keepVio
  with_reducible repeat' (first | (assumption) | (refine ite_keeps _ (fun _ => ?_) (fun _ => ?_)) | (refine setRegF_keeps _ _ _ _ _ ?_))

theorem dropRegs_keeps {kb kz} (d : Nat) {s : State} (hK : Keeps kb kz s) : Keeps kb kz (dropRegs d s) := by
  unfold dropRegs
  extract_lets s1
  have h1 : Keeps kb kz s1 := filterRegs_keeps _ hK
  exact ite_keeps _ (fun _ => keepVio_keeps _ _ h1) (fun _ => h1)

theorem setBand_keeps {kb kz} (b : Nat) {s : State} (hK : Keeps kb kz s) : Keeps kb kz (setBand b s) := by
  unfold setBand
  with_reducible repeat' (first | (assumption) | (refine ite_keeps _ (fun _ => ?_) (fun _ => ?_)) | (refine setRegF_keeps _ _ _ _ _ ?_) | (refine setReg_keeps _ _ _ ?_) | (intro _) | (split) | (simp only [keeps_mk, keeps1_mk, keeps2_mk, keeps3_mk, keeps4_mk]) | (refine parts_of ?_))

theorem plotLost_keeps {kb kz} (p : Nat) {s : State} (hK : Keeps kb kz s) : Keeps kb kz (plotLost p s) := by
  unfold plotLost
  (try dsimp only)
  with_reducible repeat' (first | (assumption) | (refine ite_keeps _ (fun _ => ?_) (fun _ => ?_)) | (refine forAll_keeps _ _ ?_ ?_) | (refine clearRange_keeps _ _ ?_) | (refine setTine_keeps _ _ ?_) | (refine setReg_keeps _ _ _ ?_) | (intro _) | (split) | (simp only [keeps_mk, keeps1_mk, keeps2_mk, keeps3_mk, keeps4_mk]) | (refine parts_of ?_))

theorem rowLost_keeps {kb kz} (r : Nat) {s : State} (hK : Keeps kb kz s) : Keeps kb kz (rowLost r s) := by
  unfold rowLost
  (try dsimp only)
  with_reducible repeat' (first | (assumption) | (refine ite_keeps _ (fun _ => ?_) (fun _ => ?_)) | (refine forAll_keeps _ _ ?_ ?_) | (refine setCell_keeps _ _ _ ?_) | (refine setReg_keeps _ _ _ ?_) | (intro _) | (split) | (simp only [keeps_mk, keeps1_mk, keeps2_mk, keeps3_mk, keeps4_mk]) | (refine parts_of ?_))

theorem linkLost'_keeps {kb kz}  {s : State} (hK : Keeps kb kz s) : Keeps kb kz (linkLost' s) := by
  unfold linkLost'
  (try dsimp only)
  with_reducible repeat' (first | (assumption) | (refine ite_keeps _ (fun _ => ?_) (fun _ => ?_)) | (refine setReg_keeps _ _ _ ?_) | (intro _) | (split) | (simp only [keeps_mk, keeps1_mk, keeps2_mk, keeps3_mk, keeps4_mk]) | (refine parts_of ?_))

theorem trelLost_keeps {kb kz}  {s : State} (hK : Keeps kb kz s) : Keeps kb kz (trelLost s) := by
  unfold trelLost
  with_reducible repeat' (first | (assumption) | (refine ite_keeps _ (fun _ => ?_) (fun _ => ?_)) | (refine setReg_keeps _ _ _ ?_) | (intro _) | (split) | (simp only [keeps_mk, keeps1_mk, keeps2_mk, keeps3_mk, keeps4_mk]) | (refine parts_of ?_))

theorem domLost_keeps {kb kz} (d : Nat) {s : State} (hK : Keeps kb kz s) : Keeps kb kz (domLost d s) := by
  unfold domLost
  (try dsimp only)
  with_reducible repeat' (first | (assumption) | (refine ite_keeps _ (fun _ => ?_) (fun _ => ?_)) | (refine dropRegs_keeps _ ?_) | (refine plotLost_keeps _ ?_) | (refine rowLost_keeps _ ?_) | (refine setRegF_keeps _ _ _ _ _ ?_) | (refine trelLost_keeps ?_) | (refine clearRange_keeps _ _ ?_) | (refine linkLost'_keeps ?_) | (refine setReg_keeps _ _ _ ?_) | (intro _) | (split) | (simp only [keeps_mk, keeps1_mk, keeps2_mk, keeps3_mk, keeps4_mk]) | (refine parts_of ?_))

theorem refuseRec_keeps {kb kz} (r : Refuser) (abort : Bool) {s : State} (hK : Keeps kb kz s) : Keeps kb kz (refuseRec r abort s) := by
  unfold refuseRec
  with_reducible repeat' (first | (assumption) | (refine ite_keeps _ (fun _ => ?_) (fun _ => ?_)) | (refine setReg_keeps _ _ _ ?_))

theorem powerEvent_keeps {kb kz} (k : Nat) {s : State} (hK : Keeps kb kz s) : Keeps kb kz (powerEvent k s) := by
  unfold powerEvent
  (try dsimp only)
  with_reducible repeat' (first | (assumption) | (refine ite_keeps _ (fun _ => ?_) (fun _ => ?_)) | (refine raiseUnit_keeps _ _ _ ?_))

theorem pwrRefused_keeps {kb kz} (r : Refuser) {s : State} (hK : Keeps kb kz s) : Keeps kb kz (pwrRefused r s) := by
  unfold pwrRefused
  with_reducible repeat' (first | (assumption) | (refine ite_keeps _ (fun _ => ?_) (fun _ => ?_)) | (refine powerEvent_keeps _ ?_) | (refine bumpF_keeps _ _ _ _ _ ?_) | (refine refuseRec_keeps _ _ ?_))

theorem pwrDone_keeps {kb kz} (opc status result : Nat) {s : State} (hK : Keeps kb kz s) : Keeps kb kz (pwrDone opc status result s) := by
  unfold pwrDone
  with_reducible repeat' (first | (assumption) | (refine ite_keeps _ (fun _ => ?_) (fun _ => ?_)) | (refine powerEvent_keeps _ ?_) | (refine adminDone_keeps _ _ _ _ ?_))

theorem pwrEnd_keeps {kb kz} (entry : Option Nat) (opc status result : Nat) {s : State} (hK : Keeps kb kz s) : Keeps kb kz (pwrEnd entry opc status result s) := by
  unfold pwrEnd
  with_reducible repeat' (first | (assumption) | (refine ite_keeps _ (fun _ => ?_) (fun _ => ?_)) | (refine powerEvent_keeps _ ?_) | (refine adminEnd_keeps _ _ _ _ ?_))

theorem stopBegin_keeps {kb kz} (d : Nat) {s : State} (hK : Keeps kb kz s) : Keeps kb kz (stopBegin d s) := by
  unfold stopBegin
  with_reducible repeat' (first | (assumption) | (refine ite_keeps _ (fun _ => ?_) (fun _ => ?_)) | (refine setDom_keeps _ _ ?_) | (refine modPwr_keeps _ ?_))

theorem pmbus_keeps {kb kz} (ws : List Nat) {s : State} (hK : Keeps kb kz s) : Keeps kb kz (pmbus ws s) := by
  unfold pmbus
  exact emit_keeps _ hK

theorem operation_keeps {kb kz} (on : Bool) {s : State} (hK : Keeps kb kz s) : Keeps1 kb kz (operation on s) := by
  unfold operation
  (try dsimp only)
  with_reducible repeat' (first | (assumption) | (refine ite_keeps _ (fun _ => ?_) (fun _ => ?_)) | (refine (drawBit_keeps ?_).out) | (refine drawBit_keeps_out ?_ (by assumption)) | (refine pmbus_keeps _ ?_) | (refine setReg_keeps _ _ _ ?_) | (intro _) | (split) | (refine drawBit_keeps ?_) | (simp only [keeps_mk, keeps1_mk, keeps2_mk, keeps3_mk, keeps4_mk]))
theorem operation_keeps_out {kb kz} (on : Bool) {s : State} (hK : Keeps kb kz s) {x0 s₁} (hE : operation on s = (x0, s₁)) : Keeps kb kz s₁ := by
  have := operation_keeps (kb := kb) (kz := kz) on  hK
  rw [hE] at this; exact this.out

theorem deviceStopped_keeps {kb kz}  {s : State} (hK : Keeps kb kz s) : Keeps kb kz (deviceStopped s) := by
  unfold deviceStopped
  (try dsimp only)
  with_reducible repeat' (first | (assumption) | (refine ite_keeps _ (fun _ => ?_) (fun _ => ?_)) | (refine modPwr_keeps _ ?_) | (refine (operation_keeps _ ?_).out) | (refine operation_keeps_out _ ?_ (by assumption)) | (refine setRegB_keeps _ _ _ _ ?_))

theorem publishAll_keeps {kb kz}  {s : State} (hK : Keeps kb kz s) : Keeps kb kz (publishAll s) := by
  unfold publishAll
  with_reducible repeat' (first | (assumption) | (refine ite_keeps _ (fun _ => ?_) (fun _ => ?_)) | (refine forAll_keeps _ _ ?_ ?_) | (refine recordStep_keeps _ ?_) | (refine setReg_keeps _ _ _ ?_) | (intro _))

theorem linkBegin_keeps {kb kz}  {s : State} (hK : Keeps kb kz s) : Keeps kb kz (linkBegin s) := by
  unfold linkBegin
  (try dsimp only)
  with_reducible repeat' (first | (assumption) | (refine ite_keeps _ (fun _ => ?_) (fun _ => ?_)) | (refine setRegF_keeps _ _ _ _ _ ?_) | (refine setRegB_keeps _ _ _ _ ?_) | (refine pllStop_keeps ?_) | (refine stopBegin_keeps _ ?_) | (refine hostDisable_keeps ?_))

theorem linkTry_keeps {kb kz}  {s : State} (hK : Keeps kb kz s) : Keeps kb kz (linkTry s) := by
  unfold linkTry
  (try dsimp only)
  with_reducible repeat' (first | (assumption) | (refine ite_keeps _ (fun _ => ?_) (fun _ => ?_)) | (refine publishAll_keeps ?_) | (refine linkBegin_keeps ?_) | (refine modPwr_keeps _ ?_) | (refine setReg_keeps _ _ _ ?_) | (intro _) | (split))

theorem stopOver_keeps {kb kz} (c : PwrCmd) {s : State} (hK : Keeps kb kz s) : Keeps kb kz (stopOver c s) := by
  unfold stopOver
  with_reducible repeat' (first | (assumption) | (refine ite_keeps _ (fun _ => ?_) (fun _ => ?_)) | (refine deviceStopped_keeps ?_) | (refine pwrEnd_keeps _ _ _ _ ?_))

theorem stopRun_keeps {kb kz} (q : List PwrCmd) {s : State} (hK : Keeps kb kz s) : Keeps kb kz (stopRun q s) := by
  revert hK
  fun_induction stopRun q s <;> intro hK <;> (try dsimp only) <;> with_reducible repeat' (first | (assumption) | (refine ite_keeps _ (fun _ => ?_) (fun _ => ?_)) | (refine modPwr_keeps _ ?_) | (refine linkTry_keeps ?_) | (refine pwrEnd_keeps _ _ _ _ ?_) | (refine stopBegin_keeps _ ?_) | (refine stopOver_keeps _ ?_) | (refine setReg_keeps _ _ _ ?_) | (apply_assumption))

theorem stopAccept_keeps {kb kz} (c : PwrCmd) {s : State} (hK : Keeps kb kz s) : Keeps kb kz (stopAccept c s) := by
  unfold stopAccept
  with_reducible repeat' (first | (assumption) | (refine ite_keeps _ (fun _ => ?_) (fun _ => ?_)) | (refine modPwr_keeps _ ?_) | (refine stopRun_keeps _ ?_))

theorem cmdAbort_keeps {kb kz} (r : Refuser) (c : PwrCmd) {s : State} (hK : Keeps kb kz s) : Keeps kb kz (cmdAbort r c s) := by
  unfold cmdAbort
  (try dsimp only)
  with_reducible repeat' (first | (assumption) | (refine ite_keeps _ (fun _ => ?_) (fun _ => ?_)) | (refine powerEvent_keeps _ ?_) | (refine bumpF_keeps _ _ _ _ _ ?_) | (refine refuseRec_keeps _ _ ?_) | (refine modPwr_keeps _ ?_) | (refine stopRun_keeps _ ?_) | (refine pwrEnd_keeps _ _ _ _ ?_))

theorem stopAbort_keeps {kb kz} (r : Refuser) {s : State} (hK : Keeps kb kz s) : Keeps kb kz (stopAbort r s) := by
  unfold stopAbort
  with_reducible repeat' (first | (assumption) | (refine ite_keeps _ (fun _ => ?_) (fun _ => ?_)) | (refine cmdAbort_keeps _ _ ?_) | (refine setDom_keeps _ _ ?_) | (refine setReg_keeps _ _ _ ?_) | (intro _) | (split))

theorem drainDone_keeps {kb kz}  {s : State} (hK : Keeps kb kz s) : Keeps kb kz (drainDone s) := by
  unfold drainDone
  with_reducible repeat' (first | (assumption) | (refine ite_keeps _ (fun _ => ?_) (fun _ => ?_)) | (refine stopAbort_keeps _ ?_) | (refine setDom_keeps _ _ ?_) | (refine modPwr_keeps _ ?_) | (refine setReg_keeps _ _ _ ?_) | (intro _) | (split))

theorem restoreNext_keeps {kb kz}  {s : State} (hK : Keeps kb kz s) : Keeps kb kz (restoreNext s) := by
  unfold restoreNext
  with_reducible repeat' (first | (assumption) | (refine ite_keeps _ (fun _ => ?_) (fun _ => ?_)) | (refine setDom_keeps _ _ ?_) | (refine modPwr_keeps _ ?_) | (refine setReg_keeps _ _ _ ?_) | (intro _) | (split))

theorem runOne_keeps {kb kz} (src d : Nat) {s : State} (hK : Keeps kb kz s) : Keeps kb kz (runOne src d s) := by
  unfold runOne
  with_reducible repeat' (first | (assumption) | (refine ite_keeps _ (fun _ => ?_) (fun _ => ?_)) | (refine stopAbort_keeps _ ?_) | (refine modPwr_keeps _ ?_) | (refine setReg_keeps _ _ _ ?_) | (intro _) | (split))

theorem linkStays_keeps {kb kz} (src : Nat) {s : State} (hK : Keeps kb kz s) : Keeps kb kz (linkStays src s) := by
  unfold linkStays
  with_reducible repeat' (first | (assumption) | (refine ite_keeps _ (fun _ => ?_) (fun _ => ?_)) | (refine cmdAbort_keeps _ _ ?_) | (refine setReg_keeps _ _ _ ?_) | (intro _) | (split))

theorem vcoreOn_keeps {kb kz}  {s : State} (hK : Keeps kb kz s) : Keeps kb kz (vcoreOn s) := by
  unfold vcoreOn
  with_reducible repeat' (first | (assumption) | (refine ite_keeps _ (fun _ => ?_) (fun _ => ?_)) | (refine (operation_keeps _ ?_).out) | (refine operation_keeps_out _ ?_ (by assumption)) | (refine modPwr_keeps _ ?_))

theorem runRequest_keeps {kb kz} (src mask : Nat) {s : State} (hK : Keeps kb kz s) : Keeps kb kz (runRequest src mask s) := by
  unfold runRequest
  with_reducible repeat' (first | (assumption) | (refine ite_keeps _ (fun _ => ?_) (fun _ => ?_)) | (refine forAll_keeps _ _ ?_ ?_) | (refine restoreNext_keeps ?_) | (refine vcoreOn_keeps ?_) | (refine runOne_keeps _ _ ?_) | (refine linkStays_keeps _ ?_) | (refine setReg_keeps _ _ _ ?_) | (intro _))

theorem runDone_keeps {kb kz}  {s : State} (hK : Keeps kb kz s) : Keeps kb kz (runDone s) := by
  unfold runDone
  with_reducible repeat' (first | (assumption) | (refine ite_keeps _ (fun _ => ?_) (fun _ => ?_)) | (refine forAll_keeps _ _ ?_ ?_) | (refine pwrEnd_keeps _ _ _ _ ?_) | (refine modPwr_keeps _ ?_) | (refine setReg_keeps _ _ _ ?_) | (intro _))

theorem bootAgain_keeps {kb kz}  {s : State} (hK : Keeps kb kz s) : Keeps kb kz (bootAgain s) := by
  unfold bootAgain
  (try dsimp only)
  with_reducible repeat' (first | (assumption) | (refine ite_keeps _ (fun _ => ?_) (fun _ => ?_)) | (refine setRegF_keeps _ _ _ _ _ ?_) | (refine clearPage_keeps _ ?_) | (refine setReg_keeps _ _ _ ?_) | (intro _) | (split) | (simp only [keeps_mk, keeps1_mk, keeps2_mk, keeps3_mk, keeps4_mk]) | (refine parts_of ?_))

theorem wakeDone_keeps {kb kz}  {s : State} (hK : Keeps kb kz s) : Keeps kb kz (wakeDone s) := by
  unfold wakeDone
  (try dsimp only)
  with_reducible repeat' (first | (assumption) | (refine ite_keeps _ (fun _ => ?_) (fun _ => ?_)) | (refine bootAgain_keeps ?_) | (refine modPwr_keeps _ ?_))

theorem restored_keeps {kb kz} (d : Nat) {s : State} (hK : Keeps kb kz s) : Keeps kb kz (restored d s) := by
  unfold restored
  (try dsimp only)
  with_reducible repeat' (first | (assumption) | (refine ite_keeps _ (fun _ => ?_) (fun _ => ?_)) | (refine forAll_keeps _ _ ?_ ?_) | (refine setDom_keeps _ _ ?_) | (refine ckptInvalid_keeps _ ?_) | (refine setReg_keeps _ _ _ ?_) | (intro _))

theorem execPwrStop_keeps {kb kz} (mask : BitVec 24) {s : State} (hK : Keeps kb kz s) : ∃ s', execPwrStop mask s = .next s' ∧ Keeps kb kz s' := by
  unfold execPwrStop
  refine ⟨_, rfl, ?_⟩
  (try dsimp only)
  with_reducible repeat' (first | (assumption) | (refine ite_keeps _ (fun _ => ?_) (fun _ => ?_)) | (refine pwrDone_keeps _ _ _ ?_) | (refine pwrRefused_keeps _ ?_) | (refine (adminBegin_keeps _ ?_).out) | (refine adminBegin_keeps_out _ ?_ (by assumption)) | (refine stopAccept_keeps _ ?_) | (refine setReg_keeps _ _ _ ?_) | (intro _) | (split))

theorem execDomainDrainComplete_keeps {kb kz}  {s : State} (hK : Keeps kb kz s) : ∃ s', execDomainDrainComplete s = .next s' ∧ Keeps kb kz s' := by
  unfold execDomainDrainComplete
  refine ⟨_, rfl, ?_⟩
  with_reducible repeat' (first | (assumption) | (refine ite_keeps _ (fun _ => ?_) (fun _ => ?_)) | (refine drainDone_keeps ?_))

theorem execDomainDrainTimeout_keeps {kb kz} (src : BitVec 10) {s : State} (hK : Keeps kb kz s) : ∃ s', execDomainDrainTimeout src s = .next s' ∧ Keeps kb kz s' := by
  unfold execDomainDrainTimeout
  refine ⟨_, rfl, ?_⟩
  with_reducible repeat' (first | (assumption) | (refine ite_keeps _ (fun _ => ?_) (fun _ => ?_)) | (refine stopAbort_keeps _ ?_) | (refine setReg_keeps _ _ _ ?_) | (intro _) | (split))

theorem wakeBegin_keeps {kb kz}  {s : State} (hK : Keeps kb kz s) : Keeps kb kz (wakeBegin s) := by
  unfold wakeBegin
  with_reducible repeat' (first | (assumption) | (refine ite_keeps _ (fun _ => ?_) (fun _ => ?_)) | (refine runRequest_keeps _ _ ?_))

theorem deviceOff_keeps {kb kz}  {s : State} (hK : Keeps kb kz s) : Keeps kb kz (deviceOff s) := by
  unfold deviceOff
  (try dsimp only)
  with_reducible repeat' (first | (assumption) | (refine ite_keeps _ (fun _ => ?_) (fun _ => ?_)) | (refine modPwr_keeps _ ?_) | (refine deviceStopped_keeps ?_) | (refine stopRun_keeps _ ?_) | (refine wakeBegin_keeps ?_) | (refine restoreNext_keeps ?_) | (refine vcoreOn_keeps ?_))

theorem execDomainSwitchOpen_keeps {kb kz}  {s : State} (hK : Keeps kb kz s) : ∃ s', execDomainSwitchOpen s = .next s' ∧ Keeps kb kz s' := by
  unfold execDomainSwitchOpen
  refine ⟨_, rfl, ?_⟩
  (try dsimp only)
  with_reducible repeat' (first | (assumption) | (refine ite_keeps _ (fun _ => ?_) (fun _ => ?_)) | (refine domLost_keeps _ ?_) | (refine setDom_keeps _ _ ?_) | (refine modPwr_keeps _ ?_) | (refine deviceOff_keeps ?_) | (refine restoreNext_keeps ?_) | (refine stopRun_keeps _ ?_) | (refine setReg_keeps _ _ _ ?_) | (intro _) | (split))

theorem execPwrRun_keeps {kb kz} (mask : BitVec 24) {s : State} (hK : Keeps kb kz s) : ∃ s', execPwrRun mask s = .next s' ∧ Keeps kb kz s' := by
  unfold execPwrRun
  refine ⟨_, rfl, ?_⟩
  (try dsimp only)
  with_reducible repeat' (first | (assumption) | (refine ite_keeps _ (fun _ => ?_) (fun _ => ?_)) | (refine (adminBegin_keeps _ ?_).out) | (refine adminBegin_keeps_out _ ?_ (by assumption)) | (refine runDone_keeps ?_) | (refine runRequest_keeps _ _ ?_) | (refine modPwr_keeps _ ?_))

theorem runreqWrite_keeps {kb kz} (w : Who) (v : Word) {s : State} (hK : Keeps kb kz s) : Keeps kb kz (runreqWrite w v s) := by
  unfold runreqWrite
  with_reducible repeat' (first | (assumption) | (refine ite_keeps _ (fun _ => ?_) (fun _ => ?_)) | (refine runRequest_keeps _ _ ?_) | (refine setReg_keeps _ _ _ ?_) | (intro _) | (split))

theorem execPwrRunreq_keeps {kb kz} (w : Who) (mask : BitVec 24) {s : State} (hK : Keeps kb kz s) : ∃ s', execPwrRunreq w mask s = .next s' ∧ Keeps kb kz s' := by
  unfold execPwrRunreq
  refine ⟨_, rfl, ?_⟩
  with_reducible repeat' (first | (assumption) | (refine ite_keeps _ (fun _ => ?_) (fun _ => ?_)) | (refine gated_keeps _ _ _ _ ?_ ?_) | (refine runreqWrite_keeps _ _ ?_) | (refine setReg_keeps _ _ _ ?_) | (intro _))

theorem execDomainRestored_keeps {kb kz}  {s : State} (hK : Keeps kb kz s) : ∃ s', execDomainRestored s = .next s' ∧ Keeps kb kz s' := by
  unfold execDomainRestored
  refine ⟨_, rfl, ?_⟩
  with_reducible repeat' (first | (assumption) | (refine ite_keeps _ (fun _ => ?_) (fun _ => ?_)) | (refine wakeDone_keeps ?_) | (refine runDone_keeps ?_) | (refine restoreNext_keeps ?_) | (refine restored_keeps _ ?_) | (refine modPwr_keeps _ ?_) | (refine setReg_keeps _ _ _ ?_) | (intro _) | (split))

theorem execDeviceStop_keeps {kb kz}  {s : State} (hK : Keeps kb kz s) : ∃ s', execDeviceStop s = .next s' ∧ Keeps kb kz s' := by
  unfold execDeviceStop
  refine ⟨_, rfl, ?_⟩
  (try dsimp only)
  with_reducible repeat' (first | (assumption) | (refine ite_keeps _ (fun _ => ?_) (fun _ => ?_)) | (refine pwrDone_keeps _ _ _ ?_) | (refine pwrRefused_keeps _ ?_) | (refine (adminBegin_keeps _ ?_).out) | (refine adminBegin_keeps_out _ ?_ (by assumption)) | (refine stopAccept_keeps _ ?_) | (refine setReg_keeps _ _ _ ?_) | (intro _) | (split))

theorem wakeOn_keeps {kb kz} (x : WakeSrc) {s : State} (hK : Keeps kb kz s) : Keeps kb kz (wakeOn x s) := by
  unfold wakeOn
  (try dsimp only)
  with_reducible repeat' (first | (assumption) | (refine ite_keeps _ (fun _ => ?_) (fun _ => ?_)) | (refine setRegF_keeps _ _ _ _ _ ?_) | (refine modPwr_keeps _ ?_) | (refine wakeDone_keeps ?_) | (refine wakeBegin_keeps ?_) | (refine runRequest_keeps _ _ ?_))

theorem execDeviceWake_keeps {kb kz} (x : WakeSrc) {s : State} (hK : Keeps kb kz s) : ∃ s', execDeviceWake x s = .next s' ∧ Keeps kb kz s' := by
  unfold execDeviceWake
  refine ⟨_, rfl, ?_⟩
  with_reducible repeat' (first | (assumption) | (refine ite_keeps _ (fun _ => ?_) (fun _ => ?_)) | (refine wakeOn_keeps _ ?_))

theorem execChainWakePattern_keeps {kb kz} (down : Bool) {s : State} (hK : Keeps kb kz s) : ∃ s', execChainWakePattern down s = .next s' ∧ Keeps kb kz s' := by
  unfold execChainWakePattern
  refine ⟨_, rfl, ?_⟩
  (try dsimp only)
  with_reducible repeat' (first | (assumption) | (refine ite_keeps _ (fun _ => ?_) (fun _ => ?_)) | (refine wakeOn_keeps _ ?_) | (refine wakeSend_keeps _ ?_))

theorem execWakeFrame_keeps {kb kz} (m : Fin 2) (f : WakeFrame) {s : State} (hK : Keeps kb kz s) : ∃ s', execWakeFrame m f s = .next s' ∧ Keeps kb kz s' := by
  unfold execWakeFrame
  refine ⟨_, rfl, ?_⟩
  with_reducible repeat' (first | (assumption) | (refine ite_keeps _ (fun _ => ?_) (fun _ => ?_)) | (refine wakeOn_keeps _ ?_))

theorem execPhyInterruptWake_keeps {kb kz} (m : Fin 2) {s : State} (hK : Keeps kb kz s) : ∃ s', execPhyInterruptWake m s = .next s' ∧ Keeps kb kz s' := by
  unfold execPhyInterruptWake
  refine ⟨_, rfl, ?_⟩
  with_reducible repeat' (first | (assumption) | (refine ite_keeps _ (fun _ => ?_) (fun _ => ?_)) | (refine wakeOn_keeps _ ?_))

theorem voltFail_keeps {kb kz}  {s : State} (hK : Keeps kb kz s) : Keeps kb kz (voltFail s) := by
  unfold voltFail
  with_reducible repeat' (first | (assumption) | (refine ite_keeps _ (fun _ => ?_) (fun _ => ?_)) | (refine adminEnd_keeps _ _ _ _ ?_) | (refine pmbus_keeps _ ?_) | (refine setRegB_keeps _ _ _ _ ?_) | (refine modPwr_keeps _ ?_))

theorem voltDone_keeps {kb kz} (target : Nat) {s : State} (hK : Keeps kb kz s) : Keeps kb kz (voltDone target s) := by
  unfold voltDone
  (try dsimp only)
  with_reducible repeat' (first | (assumption) | (refine ite_keeps _ (fun _ => ?_) (fun _ => ?_)) | (refine setBand_keeps _ ?_) | (refine setRegB_keeps _ _ _ _ ?_) | (refine modPwr_keeps _ ?_) | (refine powerEvent_keeps _ ?_) | (refine adminEnd_keeps _ _ _ _ ?_))

theorem voltHere_keeps {kb kz} (m : Nat) {s : State} (hK : Keeps kb kz s) : Keeps kb kz (voltHere m s) := by
  unfold voltHere
  with_reducible repeat' (first | (assumption) | (refine ite_keeps _ (fun _ => ?_) (fun _ => ?_)) | (refine modPwr_keeps _ ?_) | (refine voltDone_keeps _ ?_))

theorem execPwrVolt_keeps {kb kz} (mv : BitVec 16) (mode : BitVec 8) (ack : Bool) {s : State} (hK : Keeps kb kz s) : ∃ s', execPwrVolt mv mode ack s = .next s' ∧ Keeps kb kz s' := by
  unfold execPwrVolt
  refine ⟨_, rfl, ?_⟩
  (try dsimp only)
  with_reducible repeat' (first | (assumption) | (refine ite_keeps _ (fun _ => ?_) (fun _ => ?_)) | (refine adminDone_keeps _ _ _ _ ?_) | (refine bumpF_keeps _ _ _ _ _ ?_) | (refine refuseRec_keeps _ _ ?_) | (refine (adminBegin_keeps _ ?_).out) | (refine adminBegin_keeps_out _ ?_ (by assumption)) | (refine setRegB_keeps _ _ _ _ ?_) | (refine setRegF_keeps _ _ _ _ _ ?_) | (refine modPwr_keeps _ ?_) | (refine setBand_keeps _ ?_) | (refine voltFail_keeps ?_) | (refine pmbus_keeps _ ?_) | (refine voltHere_keeps _ ?_))

theorem voutCode_keeps {kb kz} (mv : Nat) {s : State} (hK : Keeps kb kz s) : Keeps1 kb kz (voutCode mv s) := by
  unfold voutCode
  (try dsimp only)
  with_reducible repeat' (first | (assumption) | (refine ite_keeps _ (fun _ => ?_) (fun _ => ?_)) | (refine (drawBit_keeps ?_).out) | (refine drawBit_keeps_out ?_ (by assumption)) | (refine setReg_keeps _ _ _ ?_) | (intro _) | (split) | (refine drawBit_keeps ?_) | (simp only [keeps_mk, keeps1_mk, keeps2_mk, keeps3_mk, keeps4_mk]))
theorem voutCode_keeps_out {kb kz} (mv : Nat) {s : State} (hK : Keeps kb kz s) {x0 s₁} (hE : voutCode mv s = (x0, s₁)) : Keeps kb kz s₁ := by
  have := voutCode_keeps (kb := kb) (kz := kz) mv  hK
  rw [hE] at this; exact this.out

theorem execVoltStep_keeps {kb kz} (ack : Bool) {s : State} (hK : Keeps kb kz s) : ∃ s', execVoltStep ack s = .next s' ∧ Keeps kb kz s' := by
  unfold execVoltStep
  refine ⟨_, rfl, ?_⟩
  (try dsimp only)
  with_reducible repeat' (first | (assumption) | (refine ite_keeps _ (fun _ => ?_) (fun _ => ?_)) | (refine (voutCode_keeps _ ?_).out) | (refine voutCode_keeps_out _ ?_ (by assumption)) | (refine modPwr_keeps _ ?_) | (refine pmbus_keeps _ ?_) | (refine voltFail_keeps ?_) | (refine setRegB_keeps _ _ _ _ ?_) | (refine setReg_keeps _ _ _ ?_) | (intro _) | (split))

theorem execVreadyRise_keeps {kb kz}  {s : State} (hK : Keeps kb kz s) : ∃ s', execVreadyRise s = .next s' ∧ Keeps kb kz s' := by
  unfold execVreadyRise
  refine ⟨_, rfl, ?_⟩
  (try dsimp only)
  with_reducible repeat' (first | (assumption) | (refine ite_keeps _ (fun _ => ?_) (fun _ => ?_)) | (refine modPwr_keeps _ ?_) | (refine setRegB_keeps _ _ _ _ ?_) | (refine setReg_keeps _ _ _ ?_) | (intro _) | (split))

theorem execSettleDone_keeps {kb kz}  {s : State} (hK : Keeps kb kz s) : ∃ s', execSettleDone s = .next s' ∧ Keeps kb kz s' := by
  unfold execSettleDone
  refine ⟨_, rfl, ?_⟩
  with_reducible repeat' (first | (assumption) | (refine ite_keeps _ (fun _ => ?_) (fun _ => ?_)) | (refine restoreNext_keeps ?_) | (refine modPwr_keeps _ ?_) | (refine voltDone_keeps _ ?_) | (refine setReg_keeps _ _ _ ?_) | (intro _) | (split))

theorem execVoltFail_keeps {kb kz}  {s : State} (hK : Keeps kb kz s) : ∃ s', execVoltFail s = .next s' ∧ Keeps kb kz s' := by
  unfold execVoltFail
  refine ⟨_, rfl, ?_⟩
  (try dsimp only)
  with_reducible repeat' (first | (assumption) | (refine ite_keeps _ (fun _ => ?_) (fun _ => ?_)) | (refine voltFail_keeps ?_) | (refine setReg_keeps _ _ _ ?_) | (intro _) | (split))

theorem execVdrop_keeps {kb kz}  {s : State} (hK : Keeps kb kz s) : ∃ s', execVdrop s = .next s' ∧ Keeps kb kz s' := by
  unfold execVdrop
  refine ⟨_, rfl, ?_⟩
  with_reducible repeat' (first | (assumption) | (refine ite_keeps _ (fun _ => ?_) (fun _ => ?_)) | (refine powerEvent_keeps _ ?_) | (refine frecAdd_keeps _ _ _ ?_) | (refine bumpF_keeps _ _ _ _ _ ?_) | (refine setRegB_keeps _ _ _ _ ?_))

theorem execPwrStatus_keeps {kb kz}  {s : State} (hK : Keeps kb kz s) : ∃ s', execPwrStatus s = .next s' ∧ Keeps kb kz s' := by
  unfold execPwrStatus
  refine ⟨_, rfl, ?_⟩
  with_reducible repeat' (first | (assumption) | (refine ite_keeps _ (fun _ => ?_) (fun _ => ?_)) | (refine adminDone_keeps _ _ _ _ ?_))

theorem execDisciplineLoss_keeps {kb kz}  {s : State} (hK : Keeps kb kz s) : ∃ s', execDisciplineLoss s = .next s' ∧ Keeps kb kz s' := by
  unfold execDisciplineLoss
  refine ⟨_, rfl, ?_⟩
  with_reducible repeat' (first | (assumption) | (refine ite_keeps _ (fun _ => ?_) (fun _ => ?_)) | (refine bumpF_keeps _ _ _ _ _ ?_) | (refine setRegB_keeps _ _ _ _ ?_))

theorem execDisciplineLock_keeps {kb kz}  {s : State} (hK : Keeps kb kz s) : ∃ s', execDisciplineLock s = .next s' ∧ Keeps kb kz s' := by
  unfold execDisciplineLock
  refine ⟨_, rfl, ?_⟩
  with_reducible repeat' (first | (assumption) | (refine ite_keeps _ (fun _ => ?_) (fun _ => ?_)) | (refine setRegB_keeps _ _ _ _ ?_))

theorem aonWrite_keeps {kb kz} (off : Nat) (v : Word) {s : State} (hK : Keeps kb kz s) : Keeps kb kz (aonWrite off v s) := by
  unfold aonWrite
  (try dsimp only)
  with_reducible repeat' (first | (assumption) | (refine ite_keeps _ (fun _ => ?_) (fun _ => ?_)) | (refine setReg_keeps _ _ _ ?_) | (refine setRegB_keeps _ _ _ _ ?_))

theorem pwrWrite_keeps {kb kz} (w : Who) (off : Nat) (v : Word) {s : State} (hK : Keeps kb kz s) : Keeps kb kz (pwrWrite w off v s) := by
  unfold pwrWrite
  with_reducible repeat' (first | (assumption) | (refine ite_keeps _ (fun _ => ?_) (fun _ => ?_)) | (refine runreqWrite_keeps _ _ ?_) | (refine setReg_keeps _ _ _ ?_))

/-! ## Machine/HopRegs.lean -/

theorem hopCfgWrite_keeps {kb kz} (h : Nat) (v : Word) {s : State} (hK : Keeps kb kz s) : Keeps kb kz (hopCfgWrite h v s) := by
  unfold hopCfgWrite
  (try dsimp only)
  with_reducible repeat' (first | (assumption) | (refine ite_keeps _ (fun _ => ?_) (fun _ => ?_)) | (refine setRegB_keeps _ _ _ _ ?_) | (refine setReg_keeps _ _ _ ?_))

theorem hopOwnWrite_keeps {kb kz} (w : Who) (h : Nat) (v : Word) {s : State} (hK : Keeps kb kz s) : Keeps kb kz (hopOwnWrite w h v s) := by
  unfold hopOwnWrite
  with_reducible repeat' (first | (assumption) | (refine ite_keeps _ (fun _ => ?_) (fun _ => ?_)) | (refine setReg_keeps _ _ _ ?_))

theorem hopRegWrite_keeps {kb kz} (w : Who) (h k : Nat) (v : Word) {s : State} (hK : Keeps kb kz s) : Keeps kb kz (hopRegWrite w h k v s) := by
  unfold hopRegWrite
  with_reducible repeat' (first | (assumption) | (refine ite_keeps _ (fun _ => ?_) (fun _ => ?_)) | (refine hopCfgWrite_keeps _ _ ?_) | (refine hopOwnWrite_keeps _ _ _ ?_) | (refine hopWritePush_keeps _ _ ?_) | (refine setReg_keeps _ _ _ ?_) | (intro _) | (split))

theorem execHopPush_keeps {kb kz} (w : Who) (h : Fin 256) (item : Word) {s : State} (hK : Keeps kb kz s) : ∃ s', execHopPush w h item s = .next s' ∧ Keeps kb kz s' := by
  unfold execHopPush
  refine ⟨_, rfl, ?_⟩
  with_reducible repeat' (first | (assumption) | (refine ite_keeps _ (fun _ => ?_) (fun _ => ?_)) | (refine gated_keeps _ _ _ _ ?_ ?_) | (refine hopRegWrite_keeps _ _ _ _ ?_) | (refine setReg_keeps _ _ _ ?_) | (intro _))

theorem execHopCfgWrite_keeps {kb kz} (w : Who) (h : Fin 256) (v : Word) {s : State} (hK : Keeps kb kz s) : ∃ s', execHopCfgWrite w h v s = .next s' ∧ Keeps kb kz s' := by
  unfold execHopCfgWrite
  refine ⟨_, rfl, ?_⟩
  with_reducible repeat' (first | (assumption) | (refine ite_keeps _ (fun _ => ?_) (fun _ => ?_)) | (refine gated_keeps _ _ _ _ ?_ ?_) | (refine hopRegWrite_keeps _ _ _ _ ?_) | (refine setReg_keeps _ _ _ ?_) | (intro _))

theorem execHopOwnWrite_keeps {kb kz} (w : Who) (h : Fin 256) (v : Word) {s : State} (hK : Keeps kb kz s) : ∃ s', execHopOwnWrite w h v s = .next s' ∧ Keeps kb kz s' := by
  unfold execHopOwnWrite
  refine ⟨_, rfl, ?_⟩
  with_reducible repeat' (first | (assumption) | (refine ite_keeps _ (fun _ => ?_) (fun _ => ?_)) | (refine gated_keeps _ _ _ _ ?_ ?_) | (refine hopRegWrite_keeps _ _ _ _ ?_) | (refine setReg_keeps _ _ _ ?_) | (intro _))

theorem execHopTailNotice_keeps {kb kz} (h : Fin 256) {s : State} (hK : Keeps kb kz s) : ∃ s', execHopTailNotice h s = .next s' ∧ Keeps kb kz s' := by
  unfold execHopTailNotice
  refine ⟨_, rfl, ?_⟩
  with_reducible repeat' (first | (assumption) | (refine ite_keeps _ (fun _ => ?_) (fun _ => ?_)) | (refine hopTail_keeps _ ?_))

/-! ## Machine/RowCmds.lean -/

theorem vioMeasure_keeps {kb kz} (r mv : Nat) {s : State} (hK : Keeps kb kz s) : Keeps kb kz (vioMeasure r mv s) := by
  unfold vioMeasure
  (try dsimp only)
  with_reducible repeat' (first | (assumption) | (refine ite_keeps _ (fun _ => ?_) (fun _ => ?_)) | (refine rowSupplyFail_keeps _ ?_) | (refine setRegB_keeps _ _ _ _ ?_) | (refine setReg_keeps _ _ _ ?_) | (intro _) | (split) | (simp only [keeps_mk, keeps1_mk, keeps2_mk, keeps3_mk, keeps4_mk]) | (refine parts_of ?_))

theorem execVioMeasure_keeps {kb kz} (r : Fin 4) (mv : Nat) {s : State} (hK : Keeps kb kz s) : ∃ s', execVioMeasure r mv s = .next s' ∧ Keeps kb kz s' := by
  unfold execVioMeasure
  refine ⟨_, rfl, ?_⟩
  with_reducible repeat' (first | (assumption) | (refine ite_keeps _ (fun _ => ?_) (fun _ => ?_)) | (refine vioMeasure_keeps _ _ ?_))

theorem execRowSupplyFail_keeps {kb kz} (r : Fin 4) {s : State} (hK : Keeps kb kz s) : ∃ s', execRowSupplyFail r s = .next s' ∧ Keeps kb kz s' := by
  unfold execRowSupplyFail
  refine ⟨_, rfl, ?_⟩
  with_reducible repeat' (first | (assumption) | (refine ite_keeps _ (fun _ => ?_) (fun _ => ?_)) | (refine rowSupplyFail_keeps _ ?_))

theorem execCellCfgWrite_keeps {kb kz} (w : Who) (r : Fin 4) (c : Fin 128) (v : Word) {s : State} (hK : Keeps kb kz s) : ∃ s', execCellCfgWrite w r c v s = .next s' ∧ Keeps kb kz s' := by
  unfold execCellCfgWrite
  refine ⟨_, rfl, ?_⟩
  with_reducible repeat' (first | (assumption) | (refine ite_keeps _ (fun _ => ?_) (fun _ => ?_)) | (refine gated_keeps _ _ _ _ ?_ ?_) | (refine cellCfgGraft_keeps _ _ _ ?_) | (refine cellCfgWrite_keeps _ _ _ ?_) | (refine setReg_keeps _ _ _ ?_) | (intro _) | (split))

theorem execCellEnable_keeps {kb kz} (w : Who) (r : Fin 4) (c : Fin 128) {s : State} (hK : Keeps kb kz s) : ∃ s', execCellEnable w r c s = .next s' ∧ Keeps kb kz s' := by
  unfold execCellEnable
  refine ⟨_, rfl, ?_⟩
  with_reducible repeat' (first | (assumption) | (refine ite_keeps _ (fun _ => ?_) (fun _ => ?_)) | (refine gated_keeps _ _ _ _ ?_ ?_) | (refine cellCfgWrite_keeps _ _ _ ?_) | (refine setReg_keeps _ _ _ ?_) | (intro _))

theorem execCellDisable_keeps {kb kz} (w : Who) (r : Fin 4) (c : Fin 128) {s : State} (hK : Keeps kb kz s) : ∃ s', execCellDisable w r c s = .next s' ∧ Keeps kb kz s' := by
  unfold execCellDisable
  refine ⟨_, rfl, ?_⟩
  with_reducible repeat' (first | (assumption) | (refine ite_keeps _ (fun _ => ?_) (fun _ => ?_)) | (refine gated_keeps _ _ _ _ ?_ ?_) | (refine cellCfgWrite_keeps _ _ _ ?_) | (refine setReg_keeps _ _ _ ?_) | (intro _))

theorem execCellFifoWrite_keeps {kb kz} (w : Who) (r : Fin 4) (c : Fin 128) (v : Word) {s : State} (hK : Keeps kb kz s) : ∃ s', execCellFifoWrite w r c v s = .next s' ∧ Keeps kb kz s' := by
  unfold execCellFifoWrite
  refine ⟨_, rfl, ?_⟩
  with_reducible repeat' (first | (assumption) | (refine ite_keeps _ (fun _ => ?_) (fun _ => ?_)) | (refine gated_keeps _ _ _ _ ?_ ?_) | (refine cellFifoWrite_keeps _ _ _ ?_) | (refine setReg_keeps _ _ _ ?_) | (intro _))

theorem atRow_keeps {kb kz} (r : Nat) (f : State → Bool × State) {s : State} (h_f : ∀  s, Keeps kb kz s → Keeps1 kb kz (f  s)) (hK : Keeps kb kz s) : Keeps kb kz (atRow r f s) := by
  unfold atRow
  with_reducible repeat' (first | (assumption) | (refine ite_keeps _ (fun _ => ?_) (fun _ => ?_)) | (refine setReg_keeps _ _ _ ?_) | (apply h_f) | (refine (h_f _ ?_).out))

theorem execPortopCellEnable_keeps {kb kz} (r : Fin 4) (c : Fin 128) {s : State} (hK : Keeps kb kz s) : ∃ s', execPortopCellEnable r c s = .next s' ∧ Keeps kb kz s' := by
  unfold execPortopCellEnable
  refine ⟨_, rfl, ?_⟩
  with_reducible repeat' (first | (assumption) | (refine ite_keeps _ (fun _ => ?_) (fun _ => ?_)) | (refine atRow_keeps _ _ ?_ ?_) | (refine (portopCell_keeps _ _ _ _ ?_).out) | (refine portopCell_keeps_out _ _ _ _ ?_ (by assumption)) | (refine setReg_keeps _ _ _ ?_) | (intro _) | (split) | (refine portopCell_keeps _ _ _ _ ?_))

theorem execPortopCellDisable_keeps {kb kz} (r : Fin 4) (c : Fin 128) {s : State} (hK : Keeps kb kz s) : ∃ s', execPortopCellDisable r c s = .next s' ∧ Keeps kb kz s' := by
  unfold execPortopCellDisable
  refine ⟨_, rfl, ?_⟩
  with_reducible repeat' (first | (assumption) | (refine ite_keeps _ (fun _ => ?_) (fun _ => ?_)) | (refine atRow_keeps _ _ ?_ ?_) | (refine (portopCell_keeps _ _ _ _ ?_).out) | (refine portopCell_keeps_out _ _ _ _ ?_ (by assumption)) | (refine setReg_keeps _ _ _ ?_) | (intro _) | (split) | (refine portopCell_keeps _ _ _ _ ?_))

theorem execPortopCellFlush_keeps {kb kz} (r : Fin 4) (c : Fin 128) {s : State} (hK : Keeps kb kz s) : ∃ s', execPortopCellFlush r c s = .next s' ∧ Keeps kb kz s' := by
  unfold execPortopCellFlush
  refine ⟨_, rfl, ?_⟩
  with_reducible repeat' (first | (assumption) | (refine ite_keeps _ (fun _ => ?_) (fun _ => ?_)) | (refine atRow_keeps _ _ ?_ ?_) | (refine (portopCell_keeps _ _ _ _ ?_).out) | (refine portopCell_keeps_out _ _ _ _ ?_ (by assumption)) | (refine setReg_keeps _ _ _ ?_) | (intro _) | (split) | (refine portopCell_keeps _ _ _ _ ?_))

theorem execGpioSet_keeps {kb kz} (r : Fin 4) (c : Fin 128) (out oe : Bool) {s : State} (hK : Keeps kb kz s) : ∃ s', execGpioSet r c out oe s = .next s' ∧ Keeps kb kz s' := by
  unfold execGpioSet
  refine ⟨_, rfl, ?_⟩
  with_reducible repeat' (first | (assumption) | (refine ite_keeps _ (fun _ => ?_) (fun _ => ?_)) | (refine atRow_keeps _ _ ?_ ?_) | (refine (portopCell_keeps _ _ _ _ ?_).out) | (refine portopCell_keeps_out _ _ _ _ ?_ (by assumption)) | (refine setReg_keeps _ _ _ ?_) | (intro _) | (split) | (refine portopCell_keeps _ _ _ _ ?_))

theorem execPortopCellThresh_keeps {kb kz} (r : Fin 4) (c : Fin 128) (rx tx : BitVec 11) {s : State} (hK : Keeps kb kz s) : ∃ s', execPortopCellThresh r c rx tx s = .next s' ∧ Keeps kb kz s' := by
  unfold execPortopCellThresh
  refine ⟨_, rfl, ?_⟩
  with_reducible repeat' (first | (assumption) | (refine ite_keeps _ (fun _ => ?_) (fun _ => ?_)) | (refine atRow_keeps _ _ ?_ ?_) | (refine (portopCell_keeps _ _ _ _ ?_).out) | (refine portopCell_keeps_out _ _ _ _ ?_ (by assumption)) | (refine setReg_keeps _ _ _ ?_) | (intro _) | (split) | (refine portopCell_keeps _ _ _ _ ?_))

theorem execPortopEngineGo_keeps {kb kz} (r : Fin 4) (e : Fin 8) (arg : BitVec 23) {s : State} (hK : Keeps kb kz s) : ∃ s', execPortopEngineGo r e arg s = .next s' ∧ Keeps kb kz s' := by
  unfold execPortopEngineGo
  refine ⟨_, rfl, ?_⟩
  with_reducible repeat' (first | (assumption) | (refine ite_keeps _ (fun _ => ?_) (fun _ => ?_)) | (refine atRow_keeps _ _ ?_ ?_) | (refine (portopEngine_keeps _ _ _ _ ?_).out) | (refine portopEngine_keeps_out _ _ _ _ ?_ (by assumption)) | (refine setReg_keeps _ _ _ ?_) | (intro _) | (split) | (refine portopEngine_keeps _ _ _ _ ?_))

theorem execRowcCgWrite_keeps {kb kz} (w : Who) (r : Fin 4) (g : Fin 8) (v : Word) {s : State} (hK : Keeps kb kz s) : ∃ s', execRowcCgWrite w r g v s = .next s' ∧ Keeps kb kz s' := by
  unfold execRowcCgWrite
  refine ⟨_, rfl, ?_⟩
  with_reducible repeat' (first | (assumption) | (refine ite_keeps _ (fun _ => ?_) (fun _ => ?_)) | (refine gated_keeps _ _ _ _ ?_ ?_) | (refine cgWrite_keeps _ _ _ ?_) | (refine setReg_keeps _ _ _ ?_) | (intro _))

theorem execClkerr_keeps {kb kz} (r : Fin 4) (g : Fin 8) {s : State} (hK : Keeps kb kz s) : ∃ s', execClkerr r g s = .next s' ∧ Keeps kb kz s' := by
  unfold execClkerr
  refine ⟨_, rfl, ?_⟩
  (try dsimp only)
  with_reducible repeat' (first | (assumption) | (refine ite_keeps _ (fun _ => ?_) (fun _ => ?_)) | (refine withRow_keeps _ _ ?_ ?_) | (refine setRegB_keeps _ _ _ _ ?_) | (refine setReg_keeps _ _ _ ?_) | (intro _))

theorem cellStarted_keeps {kb kz} (r c : Nat) {s : State} (hK : Keeps kb kz s) : Keeps kb kz (cellStarted r c s) := by
  unfold cellStarted
  with_reducible repeat' (first | (assumption) | (refine ite_keeps _ (fun _ => ?_) (fun _ => ?_)) | (refine setRegB_keeps _ _ _ _ ?_))

theorem matchDelay_keeps {kb kz} (r c d : Nat) (ws : List Word) {s : State} (hK : Keeps kb kz s) : Keeps1 kb kz (matchDelay r c d ws s) := by
  unfold matchDelay
  (try dsimp only)
  with_reducible repeat' (first | (assumption) | (refine ite_keeps _ (fun _ => ?_) (fun _ => ?_)) | (refine setCell_keeps _ _ _ ?_) | (refine setReg_keeps _ _ _ ?_) | (intro _) | (split) | (simp only [keeps_mk, keeps1_mk, keeps2_mk, keeps3_mk, keeps4_mk]))
theorem matchDelay_keeps_out {kb kz} (r c d : Nat) (ws : List Word) {s : State} (hK : Keeps kb kz s) {x0 s₁} (hE : matchDelay r c d ws s = (x0, s₁)) : Keeps kb kz s₁ := by
  have := matchDelay_keeps (kb := kb) (kz := kz) r c d ws  hK
  rw [hE] at this; exact this.out

theorem execLaneInFrame_keeps {kb kz} (r : Fin 4) (c : Fin 128) (bits : List Bool) {s : State} (hK : Keeps kb kz s) : ∃ s', execLaneInFrame r c bits s = .next s' ∧ Keeps kb kz s' := by
  unfold execLaneInFrame
  refine ⟨_, rfl, ?_⟩
  (try dsimp only)
  with_reducible repeat' (first | (assumption) | (refine ite_keeps _ (fun _ => ?_) (fun _ => ?_)) | (refine withRow_keeps _ _ ?_ ?_) | (refine (cellTrims_keeps _ _ _ ?_).out) | (refine cellTrims_keeps_out _ _ _ ?_ (by assumption)) | (refine cellStarted_keeps _ _ ?_) | (refine (matchDelay_keeps _ _ _ _ ?_).out) | (refine matchDelay_keeps_out _ _ _ _ ?_ (by assumption)) | (refine cellFrameIn_keeps _ _ _ ?_) | (refine setReg_keeps _ _ _ ?_) | (intro _) | (split))

theorem cellFinish_keeps {kb kz} (r c : Nat) {s : State} (hK : Keeps kb kz s) : Keeps kb kz (cellFinish r c s) := by
  unfold cellFinish
  (try dsimp only)
  with_reducible repeat' (first | (assumption) | (refine ite_keeps _ (fun _ => ?_) (fun _ => ?_)) | (refine setCell_keeps _ _ _ ?_))

theorem execLaneOutFrame_keeps {kb kz} (r : Fin 4) (c : Fin 128) {s : State} (hK : Keeps kb kz s) : ∃ s', execLaneOutFrame r c s = .next s' ∧ Keeps kb kz s' := by
  unfold execLaneOutFrame
  refine ⟨_, rfl, ?_⟩
  (try dsimp only)
  with_reducible repeat' (first | (assumption) | (refine ite_keeps _ (fun _ => ?_) (fun _ => ?_)) | (refine withRow_keeps _ _ ?_ ?_) | (refine (cellFrameOut_keeps _ _ _ ?_).out) | (refine cellFrameOut_keeps_out _ _ _ ?_ (by assumption)) | (refine cellStarted_keeps _ _ ?_) | (refine (cellNarrows_keeps _ _ _ _ _ ?_).out) | (refine cellNarrows_keeps_out _ _ _ _ _ ?_ (by assumption)) | (refine emit_keeps _ ?_) | (refine cellFinish_keeps _ _ ?_) | (refine setReg_keeps _ _ _ ?_) | (intro _) | (split))

theorem terminalSample_keeps {kb kz} (r c : Nat) (streams : List BitStream) {s : State} (hK : Keeps kb kz s) : Keeps kb kz (terminalSample r c streams s) := by
  unfold terminalSample
  with_reducible repeat' (first | (assumption) | (refine ite_keeps _ (fun _ => ?_) (fun _ => ?_)) | (refine setReg_keeps _ _ _ ?_) | (intro _) | (split) | (simp only [keeps_mk, keeps1_mk, keeps2_mk, keeps3_mk, keeps4_mk]) | (refine parts_of ?_))

theorem execPdmInSample_keeps {kb kz} (r : Fin 4) (c : Fin 128) (streams : List BitStream) {s : State} (hK : Keeps kb kz s) : ∃ s', execPdmInSample r c streams s = .next s' ∧ Keeps kb kz s' := by
  unfold execPdmInSample
  refine ⟨_, rfl, ?_⟩
  (try dsimp only)
  with_reducible repeat' (first | (assumption) | (refine ite_keeps _ (fun _ => ?_) (fun _ => ?_)) | (refine setCell_keeps _ _ _ ?_) | (refine withRow_keeps _ _ ?_ ?_) | (refine cellStarted_keeps _ _ ?_) | (refine terminalSample_keeps _ _ _ ?_) | (refine (cellTrims_keeps _ _ _ ?_).out) | (refine cellTrims_keeps_out _ _ _ ?_ (by assumption)) | (refine cellFrameIn_keeps _ _ _ ?_) | (refine setReg_keeps _ _ _ ?_) | (intro _))

theorem pdmDelay_keeps {kb kz} (r c : Nat) (y : Int) {s : State} (hK : Keeps kb kz s) : Keeps1 kb kz (pdmDelay r c y s) := by
  unfold pdmDelay
  with_reducible repeat' (first | (assumption) | (refine ite_keeps _ (fun _ => ?_) (fun _ => ?_)) | (refine (matchDelay_keeps _ _ _ _ ?_).out) | (refine matchDelay_keeps_out _ _ _ _ ?_ (by assumption)) | (refine setReg_keeps _ _ _ ?_) | (intro _) | (split) | (refine matchDelay_keeps _ _ _ _ ?_) | (simp only [keeps_mk, keeps1_mk, keeps2_mk, keeps3_mk, keeps4_mk]))
theorem pdmDelay_keeps_out {kb kz} (r c : Nat) (y : Int) {s : State} (hK : Keeps kb kz s) {x0 s₁} (hE : pdmDelay r c y s = (x0, s₁)) : Keeps kb kz s₁ := by
  have := pdmDelay_keeps (kb := kb) (kz := kz) r c y  hK
  rw [hE] at this; exact this.out

theorem pdmBits_keeps {kb kz} (r c : Nat) {s : State} (hK : Keeps kb kz s) : Keeps1 kb kz (pdmBits s r c) := by
  unfold pdmBits
  (try dsimp only)
  with_reducible repeat' (first | (assumption) | (refine ite_keeps _ (fun _ => ?_) (fun _ => ?_)) | (refine (drawNat_keeps ?_).out) | (refine drawNat_keeps_out ?_ (by assumption)) | (refine setReg_keeps _ _ _ ?_) | (intro _) | (split) | (refine drawNat_keeps ?_) | (simp only [keeps_mk, keeps1_mk, keeps2_mk, keeps3_mk, keeps4_mk]))
theorem pdmBits_keeps_out {kb kz} (r c : Nat) {s : State} (hK : Keeps kb kz s) {x0 s₁} (hE : pdmBits s r c = (x0, s₁)) : Keeps kb kz s₁ := by
  have := pdmBits_keeps (kb := kb) (kz := kz) r c  hK
  rw [hE] at this; exact this.out

theorem execPdmOutSample_keeps {kb kz} (r : Fin 4) (c : Fin 128) {s : State} (hK : Keeps kb kz s) : ∃ s', execPdmOutSample r c s = .next s' ∧ Keeps kb kz s' := by
  unfold execPdmOutSample
  refine ⟨_, rfl, ?_⟩
  (try dsimp only)
  with_reducible repeat' (first | (assumption) | (refine ite_keeps _ (fun _ => ?_) (fun _ => ?_)) | (refine withRow_keeps _ _ ?_ ?_) | (refine (cellFrameOut_keeps _ _ _ ?_).out) | (refine cellFrameOut_keeps_out _ _ _ ?_ (by assumption)) | (refine cellStarted_keeps _ _ ?_) | (refine (cellNarrows_keeps _ _ _ _ _ ?_).out) | (refine cellNarrows_keeps_out _ _ _ _ _ ?_ (by assumption)) | (refine (pdmDelay_keeps _ _ _ ?_).out) | (refine pdmDelay_keeps_out _ _ _ ?_ (by assumption)) | (refine (pdmBits_keeps _ _ ?_).out) | (refine pdmBits_keeps_out _ _ ?_ (by assumption)) | (refine emit_keeps _ ?_) | (refine cellFinish_keeps _ _ ?_) | (refine setReg_keeps _ _ _ ?_) | (intro _) | (split))

theorem execGpioEdge_keeps {kb kz} (r : Fin 4) (c : Fin 128) (level : Bool) {s : State} (hK : Keeps kb kz s) : ∃ s', execGpioEdge r c level s = .next s' ∧ Keeps kb kz s' := by
  unfold execGpioEdge
  refine ⟨_, rfl, ?_⟩
  (try dsimp only)
  with_reducible repeat' (first | (assumption) | (refine ite_keeps _ (fun _ => ?_) (fun _ => ?_)) | (refine withRow_keeps _ _ ?_ ?_) | (refine setRegB_keeps _ _ _ _ ?_) | (refine setCell_keeps _ _ _ ?_) | (refine cellFrameIn_keeps _ _ _ ?_) | (refine setReg_keeps _ _ _ ?_) | (intro _))

theorem execSeGo_keeps {kb kz} (w : Who) (r : Fin 4) (e : Fin 8) (v : Word) {s : State} (hK : Keeps kb kz s) : ∃ s', execSeGo w r e v s = .next s' ∧ Keeps kb kz s' := by
  unfold execSeGo
  refine ⟨_, rfl, ?_⟩
  with_reducible repeat' (first | (assumption) | (refine ite_keeps _ (fun _ => ?_) (fun _ => ?_)) | (refine gated_keeps _ _ _ _ ?_ ?_) | (refine seCmdWrite_keeps _ _ _ ?_) | (refine setReg_keeps _ _ _ ?_) | (intro _))

theorem execSeTransactionEnd_keeps {kb kz} (r : Fin 4) (e : Fin 8) (err : Fin 6) (count : Fin 33) (rx : List Byte) {s : State} (hK : Keeps kb kz s) : ∃ s', execSeTransactionEnd r e err count rx s = .next s' ∧ Keeps kb kz s' := by
  unfold execSeTransactionEnd
  refine ⟨_, rfl, ?_⟩
  with_reducible repeat' (first | (assumption) | (refine ite_keeps _ (fun _ => ?_) (fun _ => ?_)) | (refine seEnd_keeps _ _ _ _ _ ?_))

theorem execHoeEnable_keeps {kb kz} (w : Who) (r : Fin 4) (h : Fin 32) {s : State} (hK : Keeps kb kz s) : ∃ s', execHoeEnable w r h s = .next s' ∧ Keeps kb kz s' := by
  unfold execHoeEnable
  refine ⟨_, rfl, ?_⟩
  with_reducible repeat' (first | (assumption) | (refine ite_keeps _ (fun _ => ?_) (fun _ => ?_)) | (refine gated_keeps _ _ _ _ ?_ ?_) | (refine hoeCfgWrite_keeps _ _ _ ?_) | (refine setReg_keeps _ _ _ ?_) | (intro _))

theorem execHoeStart_keeps {kb kz} (r : Fin 4) (h : Fin 32) {s : State} (hK : Keeps kb kz s) : ∃ s', execHoeStart r h s = .next s' ∧ Keeps kb kz s' := by
  unfold execHoeStart
  refine ⟨_, rfl, ?_⟩
  with_reducible repeat' (first | (assumption) | (refine ite_keeps _ (fun _ => ?_) (fun _ => ?_)) | (refine withRow_keeps _ _ ?_ ?_) | (refine hoeStart_keeps _ _ ?_) | (refine setReg_keeps _ _ _ ?_) | (intro _))

theorem execHoeDisable_keeps {kb kz} (w : Who) (r : Fin 4) (h : Fin 32) {s : State} (hK : Keeps kb kz s) : ∃ s', execHoeDisable w r h s = .next s' ∧ Keeps kb kz s' := by
  unfold execHoeDisable
  refine ⟨_, rfl, ?_⟩
  with_reducible repeat' (first | (assumption) | (refine ite_keeps _ (fun _ => ?_) (fun _ => ?_)) | (refine gated_keeps _ _ _ _ ?_ ?_) | (refine hoeCfgWrite_keeps _ _ _ ?_) | (refine setReg_keeps _ _ _ ?_) | (intro _))

theorem hoeRegWrite_keeps {kb kz} (r h k : Nat) (v : Word) {s : State} (hK : Keeps kb kz s) : Keeps kb kz (hoeRegWrite r h k v s) := by
  unfold hoeRegWrite
  with_reducible repeat' (first | (assumption) | (refine ite_keeps _ (fun _ => ?_) (fun _ => ?_)) | (refine hoeCfgWrite_keeps _ _ _ ?_) | (refine hoeFifoWrite_keeps _ _ _ ?_) | (refine hoeLoopWrite_keeps _ _ _ ?_) | (refine hoeLimWrite_keeps _ _ _ ?_) | (refine (hoeInject_keeps _ _ _ ?_).out) | (refine hoeInject_keeps_out _ _ _ ?_ (by assumption)) | (refine hoeCtrlWrite_keeps _ _ _ ?_) | (refine hoeDthWrite_keeps _ _ _ _ ?_) | (refine hFlag_keeps _ _ _ _ ?_) | (refine withRow_keeps _ _ ?_ ?_) | (refine setReg_keeps _ _ _ ?_) | (intro _) | (split))

theorem execHoeCfgWrite_keeps {kb kz} (w : Who) (r : Fin 4) (h : Fin 32) (k : Fin 0x18) (v : Word) {s : State} (hK : Keeps kb kz s) : ∃ s', execHoeCfgWrite w r h k v s = .next s' ∧ Keeps kb kz s' := by
  unfold execHoeCfgWrite
  refine ⟨_, rfl, ?_⟩
  with_reducible repeat' (first | (assumption) | (refine ite_keeps _ (fun _ => ?_) (fun _ => ?_)) | (refine gated_keeps _ _ _ _ ?_ ?_) | (refine hoeRegWrite_keeps _ _ _ _ ?_) | (refine setReg_keeps _ _ _ ?_) | (intro _))

theorem execCarrierPeriod_keeps {kb kz} (r : Fin 4) (h : Fin 32) (pos : Fin 32) (vs is : Nat) {s : State} (hK : Keeps kb kz s) : ∃ s', execCarrierPeriod r h pos vs is s = .next s' ∧ Keeps kb kz s' := by
  unfold execCarrierPeriod
  refine ⟨_, rfl, ?_⟩
  with_reducible repeat' (first | (assumption) | (refine ite_keeps _ (fun _ => ?_) (fun _ => ?_)) | (refine withRow_keeps _ _ ?_ ?_) | (refine hoeTake_keeps _ _ _ ?_) | (refine hoeUnlatch_keeps _ _ ?_) | (refine hoeLatch_keeps _ _ _ _ _ ?_) | (refine setReg_keeps _ _ _ ?_) | (intro _))

theorem execRailCode_keeps {kb kz} (rail : Fin 16) (ones : Nat) {s : State} (hK : Keeps kb kz s) : ∃ s', execRailCode rail ones s = .next s' ∧ Keeps kb kz s' := by
  unfold execRailCode
  refine ⟨_, rfl, ?_⟩
  with_reducible repeat' (first | (assumption) | (refine ite_keeps _ (fun _ => ?_) (fun _ => ?_)) | (refine withRows_keeps _ ?_ ?_) | (refine railCode_keeps _ _ ?_) | (refine setReg_keeps _ _ _ ?_) | (intro _))

theorem senseLossRail_keeps {kb kz} (rail : Nat) {s : State} (hK : Keeps kb kz s) : Keeps kb kz (senseLossRail rail s) := by
  unfold senseLossRail
  with_reducible repeat' (first | (assumption) | (refine ite_keeps _ (fun _ => ?_) (fun _ => ?_)) | (refine railFault_keeps _ ?_))

theorem senseLossHoe_keeps {kb kz} (r h : Nat) {s : State} (hK : Keeps kb kz s) : Keeps kb kz (senseLossHoe r h s) := by
  unfold senseLossHoe
  (try dsimp only)
  with_reducible repeat' (first | (assumption) | (refine ite_keeps _ (fun _ => ?_) (fun _ => ?_)) | (refine withRow_keeps _ _ ?_ ?_) | (refine shearTrip_keeps _ _ _ ?_) | (refine setHoe_keeps _ _ _ ?_) | (refine setReg_keeps _ _ _ ?_) | (intro _))

theorem execSenseStreamLoss_keeps {kb kz} (what : SenseSrc) {s : State} (hK : Keeps kb kz s) : ∃ s', execSenseStreamLoss what s = .next s' ∧ Keeps kb kz s' := by
  unfold execSenseStreamLoss
  refine ⟨_, rfl, ?_⟩
  with_reducible repeat' (first | (assumption) | (refine ite_keeps _ (fun _ => ?_) (fun _ => ?_)) | (refine senseLossRail_keeps _ ?_) | (refine senseLossHoe_keeps _ _ ?_) | (refine setReg_keeps _ _ _ ?_) | (intro _) | (split))

theorem execFastDetector_keeps {kb kz} (what : SenseSrc) (f : Fin 65) {s : State} (hK : Keeps kb kz s) : ∃ s', execFastDetector what f s = .next s' ∧ Keeps kb kz s' := by
  unfold execFastDetector
  refine ⟨_, rfl, ?_⟩
  with_reducible repeat' (first | (assumption) | (refine ite_keeps _ (fun _ => ?_) (fun _ => ?_)) | (refine fastRail_keeps _ _ ?_) | (refine fastHoe_keeps _ _ _ ?_) | (refine setReg_keeps _ _ _ ?_) | (intro _) | (split))

theorem execHoeTrip_keeps {kb kz} (w : Who) (r : Fin 4) (h : Fin 32) {s : State} (hK : Keeps kb kz s) : ∃ s', execHoeTrip w r h s = .next s' ∧ Keeps kb kz s' := by
  unfold execHoeTrip
  refine ⟨_, rfl, ?_⟩
  with_reducible repeat' (first | (assumption) | (refine ite_keeps _ (fun _ => ?_) (fun _ => ?_)) | (refine gated_keeps _ _ _ _ ?_ ?_) | (refine hoeCtrlWrite_keeps _ _ _ ?_) | (refine setReg_keeps _ _ _ ?_) | (intro _))

theorem execHoeRearm_keeps {kb kz} (w : Who) (r : Fin 4) (h : Fin 32) {s : State} (hK : Keeps kb kz s) : ∃ s', execHoeRearm w r h s = .next s' ∧ Keeps kb kz s' := by
  unfold execHoeRearm
  refine ⟨_, rfl, ?_⟩
  with_reducible repeat' (first | (assumption) | (refine ite_keeps _ (fun _ => ?_) (fun _ => ?_)) | (refine gated_keeps _ _ _ _ ?_ ?_) | (refine hoeCtrlWrite_keeps _ _ _ ?_) | (refine setReg_keeps _ _ _ ?_) | (intro _))

theorem execHoeFlush_keeps {kb kz} (w : Who) (r : Fin 4) (h : Fin 32) {s : State} (hK : Keeps kb kz s) : ∃ s', execHoeFlush w r h s = .next s' ∧ Keeps kb kz s' := by
  unfold execHoeFlush
  refine ⟨_, rfl, ?_⟩
  with_reducible repeat' (first | (assumption) | (refine ite_keeps _ (fun _ => ?_) (fun _ => ?_)) | (refine gated_keeps _ _ _ _ ?_ ?_) | (refine hoeCtrlWrite_keeps _ _ _ ?_) | (refine setReg_keeps _ _ _ ?_) | (intro _))

theorem execClrRetry_keeps {kb kz} (w : Who) (r : Fin 4) (h : Fin 32) {s : State} (hK : Keeps kb kz s) : ∃ s', execClrRetry w r h s = .next s' ∧ Keeps kb kz s' := by
  unfold execClrRetry
  refine ⟨_, rfl, ?_⟩
  with_reducible repeat' (first | (assumption) | (refine ite_keeps _ (fun _ => ?_) (fun _ => ?_)) | (refine gated_keeps _ _ _ _ ?_ ?_) | (refine hoeCtrlWrite_keeps _ _ _ ?_) | (refine setReg_keeps _ _ _ ?_) | (intro _))

theorem execShearAutoRetry_keeps {kb kz} (r : Fin 4) (h : Fin 32) {s : State} (hK : Keeps kb kz s) : ∃ s', execShearAutoRetry r h s = .next s' ∧ Keeps kb kz s' := by
  unfold execShearAutoRetry
  refine ⟨_, rfl, ?_⟩
  (try dsimp only)
  with_reducible repeat' (first | (assumption) | (refine ite_keeps _ (fun _ => ?_) (fun _ => ?_)) | (refine setHoe_keeps _ _ _ ?_) | (refine (hoeRearm_keeps _ _ ?_).out) | (refine hoeRearm_keeps_out _ _ ?_ (by assumption)) | (refine bumpF_keeps _ _ _ _ _ ?_) | (refine setReg_keeps _ _ _ ?_) | (intro _) | (split))

theorem execPortopHoeEnable_keeps {kb kz} (r : Fin 4) (h : Fin 32) {s : State} (hK : Keeps kb kz s) : ∃ s', execPortopHoeEnable r h s = .next s' ∧ Keeps kb kz s' := by
  unfold execPortopHoeEnable
  refine ⟨_, rfl, ?_⟩
  with_reducible repeat' (first | (assumption) | (refine ite_keeps _ (fun _ => ?_) (fun _ => ?_)) | (refine atRow_keeps _ _ ?_ ?_) | (refine (portopHoe_keeps _ _ _ _ ?_).out) | (refine portopHoe_keeps_out _ _ _ _ ?_ (by assumption)) | (refine setReg_keeps _ _ _ ?_) | (intro _) | (split) | (refine portopHoe_keeps _ _ _ _ ?_))

theorem execPortopHoeDisable_keeps {kb kz} (r : Fin 4) (h : Fin 32) {s : State} (hK : Keeps kb kz s) : ∃ s', execPortopHoeDisable r h s = .next s' ∧ Keeps kb kz s' := by
  unfold execPortopHoeDisable
  refine ⟨_, rfl, ?_⟩
  with_reducible repeat' (first | (assumption) | (refine ite_keeps _ (fun _ => ?_) (fun _ => ?_)) | (refine atRow_keeps _ _ ?_ ?_) | (refine (portopHoe_keeps _ _ _ _ ?_).out) | (refine portopHoe_keeps_out _ _ _ _ ?_ (by assumption)) | (refine setReg_keeps _ _ _ ?_) | (intro _) | (split) | (refine portopHoe_keeps _ _ _ _ ?_))

theorem execPortopHoeFlush_keeps {kb kz} (r : Fin 4) (h : Fin 32) {s : State} (hK : Keeps kb kz s) : ∃ s', execPortopHoeFlush r h s = .next s' ∧ Keeps kb kz s' := by
  unfold execPortopHoeFlush
  refine ⟨_, rfl, ?_⟩
  with_reducible repeat' (first | (assumption) | (refine ite_keeps _ (fun _ => ?_) (fun _ => ?_)) | (refine atRow_keeps _ _ ?_ ?_) | (refine (portopHoe_keeps _ _ _ _ ?_).out) | (refine portopHoe_keeps_out _ _ _ _ ?_ (by assumption)) | (refine setReg_keeps _ _ _ ?_) | (intro _) | (split) | (refine portopHoe_keeps _ _ _ _ ?_))

theorem execPortopHoeRearm_keeps {kb kz} (r : Fin 4) (h : Fin 32) {s : State} (hK : Keeps kb kz s) : ∃ s', execPortopHoeRearm r h s = .next s' ∧ Keeps kb kz s' := by
  unfold execPortopHoeRearm
  refine ⟨_, rfl, ?_⟩
  with_reducible repeat' (first | (assumption) | (refine ite_keeps _ (fun _ => ?_) (fun _ => ?_)) | (refine atRow_keeps _ _ ?_ ?_) | (refine (portopHoe_keeps _ _ _ _ ?_).out) | (refine portopHoe_keeps_out _ _ _ _ ?_ (by assumption)) | (refine setReg_keeps _ _ _ ?_) | (intro _) | (split) | (refine portopHoe_keeps _ _ _ _ ?_))

theorem execPortopHoeThresh_keeps {kb kz} (r : Fin 4) (h : Fin 32) (tx : BitVec 11) {s : State} (hK : Keeps kb kz s) : ∃ s', execPortopHoeThresh r h tx s = .next s' ∧ Keeps kb kz s' := by
  unfold execPortopHoeThresh
  refine ⟨_, rfl, ?_⟩
  with_reducible repeat' (first | (assumption) | (refine ite_keeps _ (fun _ => ?_) (fun _ => ?_)) | (refine atRow_keeps _ _ ?_ ?_) | (refine (portopHoe_keeps _ _ _ _ ?_).out) | (refine portopHoe_keeps_out _ _ _ _ ?_ (by assumption)) | (refine setReg_keeps _ _ _ ?_) | (intro _) | (split) | (refine portopHoe_keeps _ _ _ _ ?_))

theorem execInject_keeps {kb kz} (r : Fin 4) (h : Fin 32) (imode : BitVec 2) {s : State} (hK : Keeps kb kz s) : ∃ s', execInject r h imode s = .next s' ∧ Keeps kb kz s' := by
  unfold execInject
  refine ⟨_, rfl, ?_⟩
  with_reducible repeat' (first | (assumption) | (refine ite_keeps _ (fun _ => ?_) (fun _ => ?_)) | (refine atRow_keeps _ _ ?_ ?_) | (refine (portopHoe_keeps _ _ _ _ ?_).out) | (refine portopHoe_keeps_out _ _ _ _ ?_ (by assumption)) | (refine setReg_keeps _ _ _ ?_) | (intro _) | (split) | (refine portopHoe_keeps _ _ _ _ ?_))

theorem execRailCfgWrite_keeps {kb kz} (w : Who) (rail : Fin 16) (v : Word) {s : State} (hK : Keeps kb kz s) : ∃ s', execRailCfgWrite w rail v s = .next s' ∧ Keeps kb kz s' := by
  unfold execRailCfgWrite
  refine ⟨_, rfl, ?_⟩
  with_reducible repeat' (first | (assumption) | (refine ite_keeps _ (fun _ => ?_) (fun _ => ?_)) | (refine gated_keeps _ _ _ _ ?_ ?_) | (refine railCfgWrite_keeps _ _ ?_) | (refine setReg_keeps _ _ _ ?_) | (intro _))

theorem execInterpolatorCalibration_keeps {kb kz} (r : Fin 4) (h : Fin 32) (d1 d2 d3 : Fin 3) {s : State} (hK : Keeps kb kz s) : ∃ s', execInterpolatorCalibration r h d1 d2 d3 s = .next s' ∧ Keeps kb kz s' := by
  unfold execInterpolatorCalibration
  refine ⟨_, rfl, ?_⟩
  (try dsimp only)
  with_reducible repeat' (first | (assumption) | (refine ite_keeps _ (fun _ => ?_) (fun _ => ?_)) | (refine setHoe_keeps _ _ _ ?_) | (refine withRow_keeps _ _ ?_ ?_) | (refine hFlag_keeps _ _ _ _ ?_) | (refine setReg_keeps _ _ _ ?_) | (intro _))

/-! ## Machine/NurseryCmds.lean -/

theorem routeWrite_keeps {kb kz} (pa : Nat) (v : Word) {s : State} (hK : Keeps kb kz s) : Keeps kb kz (routeWrite pa v s) := by
  unfold routeWrite
  with_reducible repeat' (first | (assumption) | (refine ite_keeps _ (fun _ => ?_) (fun _ => ?_)) | (refine chainRouteWrite_keeps _ ?_) | (refine routeStore_keeps _ _ _ _ ?_) | (refine setReg_keeps _ _ _ ?_) | (intro _) | (split))

theorem execHeartbeatStall_keeps {kb kz} (t : TineNo) {s : State} (hK : Keeps kb kz s) : ∃ s', execHeartbeatStall t s = .next s' ∧ Keeps kb kz s' := by
  unfold execHeartbeatStall
  refine ⟨_, rfl, ?_⟩
  (try dsimp only)
  with_reducible repeat' (first | (assumption) | (refine ite_keeps _ (fun _ => ?_) (fun _ => ?_)) | (refine nursDecide_keeps _ _ ?_))

theorem execNursRetire_keeps {kb kz} (w : Who) (t : BitVec 8) {s : State} (hK : Keeps kb kz s) : ∃ s', execNursRetire w t s = .next s' ∧ Keeps kb kz s' := by
  unfold execNursRetire
  refine ⟨_, rfl, ?_⟩
  with_reducible repeat' (first | (assumption) | (refine ite_keeps _ (fun _ => ?_) (fun _ => ?_)) | (refine gated_keeps _ _ _ _ ?_ ?_) | (refine nursWrite_keeps _ _ _ ?_) | (refine setReg_keeps _ _ _ ?_) | (intro _))

theorem execReinstate_keeps {kb kz} (w : Who) (t : BitVec 8) {s : State} (hK : Keeps kb kz s) : ∃ s', execReinstate w t s = .next s' ∧ Keeps kb kz s' := by
  unfold execReinstate
  refine ⟨_, rfl, ?_⟩
  with_reducible repeat' (first | (assumption) | (refine ite_keeps _ (fun _ => ?_) (fun _ => ?_)) | (refine gated_keeps _ _ _ _ ?_ ?_) | (refine nursWrite_keeps _ _ _ ?_) | (refine setReg_keeps _ _ _ ?_) | (intro _))

theorem execReinstateTestDone_keeps {kb kz} (passed : Bool) {s : State} (hK : Keeps kb kz s) : ∃ s', execReinstateTestDone passed s = .next s' ∧ Keeps kb kz s' := by
  unfold execReinstateTestDone
  refine ⟨_, rfl, ?_⟩
  with_reducible repeat' (first | (assumption) | (refine ite_keeps _ (fun _ => ?_) (fun _ => ?_)) | (refine reinstNext_keeps ?_) | (refine reinstEnd_keeps _ _ ?_) | (refine setReg_keeps _ _ _ ?_) | (intro _) | (split))

theorem execTineReplacement_keeps {kb kz}  {s : State} (hK : Keeps kb kz s) : ∃ s', execTineReplacement s = .next s' ∧ Keeps kb kz s' := by
  unfold execTineReplacement
  refine ⟨_, rfl, ?_⟩
  (try dsimp only)
  with_reducible repeat' (first | (assumption) | (refine ite_keeps _ (fun _ => ?_) (fun _ => ?_)) | (refine reinstNext_keeps ?_) | (refine leaseNext_keeps ?_) | (refine nursReplace_keeps _ _ _ _ ?_ ?_) | (refine routeWrite_keeps _ _ ?_) | (refine setReg_keeps _ _ _ ?_) | (intro _) | (split) | (simp only [keeps_mk, keeps1_mk, keeps2_mk, keeps3_mk, keeps4_mk]) | (refine parts_of ?_))

theorem execTineCkptGo_keeps {kb kz} (t : TineNo) (full : Bool) (v : Word) {s : State} (hK : Keeps kb kz s) : ∃ s', execTineCkptGo t full v s = .next s' ∧ Keeps kb kz s' := by
  unfold execTineCkptGo
  refine ⟨_, rfl, ?_⟩
  with_reducible repeat' (first | (assumption) | (refine ite_keeps _ (fun _ => ?_) (fun _ => ?_)) | (refine issueHead_keeps _ _ ?_ ?_) | (refine ckptStore_keeps _ _ _ _ _ ?_) | (refine setReg_keeps _ _ _ ?_) | (intro _))

/-! ## Machine/PageRegs.lean -/

theorem srstReg_keeps {kb kz} (k : PageKind) (i pg off : Nat) {s : State} (hK : Keeps kb kz s) : Keeps kb kz (srstReg k i pg off s) := by
  unfold srstReg
  (try dsimp only)
  with_reducible repeat' (first | (assumption) | (refine ite_keeps _ (fun _ => ?_) (fun _ => ?_)) | (refine setReg_keeps _ _ _ ?_))

theorem pageSrst_keeps {kb kz} (k : PageKind) (i pg : Nat) {s : State} (hK : Keeps kb kz s) : Keeps kb kz (pageSrst k i pg s) := by
  unfold pageSrst
  (try dsimp only)
  with_reducible repeat' (first | (assumption) | (refine ite_keeps _ (fun _ => ?_) (fun _ => ?_)) | (refine forAll_keeps _ _ ?_ ?_) | (refine srstReg_keeps _ _ _ _ ?_) | (refine setReg_keeps _ _ _ ?_) | (refine setStrm_keeps _ _ ?_) | (intro _))

theorem pageCtrlWrite_keeps {kb kz} (w : Who) (k : PageKind) (i pg : Nat) (v : Word) {s : State} (hK : Keeps kb kz s) : Keeps kb kz (pageCtrlWrite w k i pg v s) := by
  unfold pageCtrlWrite
  (try dsimp only)
  with_reducible repeat' (first | (assumption) | (refine ite_keeps _ (fun _ => ?_) (fun _ => ?_)) | (refine pageSrst_keeps _ _ _ ?_) | (refine setReg_keeps _ _ _ ?_) | (refine pageDeliver_keeps _ ?_))

theorem pageIrqEnWrite_keeps {kb kz} (k : PageKind) (pg : Nat) (v : Word) {s : State} (hK : Keeps kb kz s) : Keeps kb kz (pageIrqEnWrite k pg v s) := by
  unfold pageIrqEnWrite
  (try dsimp only)
  with_reducible repeat' (first | (assumption) | (refine ite_keeps _ (fun _ => ?_) (fun _ => ?_)) | (refine setReg_keeps _ _ _ ?_) | (refine pageDeliver_keeps _ ?_))

theorem pageIrqClrWrite_keeps {kb kz} (k : PageKind) (pg : Nat) (v : Word) {s : State} (hK : Keeps kb kz s) : Keeps kb kz (pageIrqClrWrite k pg v s) := by
  unfold pageIrqClrWrite
  with_reducible repeat' (first | (assumption) | (refine ite_keeps _ (fun _ => ?_) (fun _ => ?_)) | (refine setReg_keeps _ _ _ ?_))

theorem pageOwnerWrite_keeps {kb kz} (w : Who) (k : PageKind) (pg : Nat) (v : Word) {s : State} (hK : Keeps kb kz s) : Keeps kb kz (pageOwnerWrite w k pg v s) := by
  unfold pageOwnerWrite
  with_reducible repeat' (first | (assumption) | (refine ite_keeps _ (fun _ => ?_) (fun _ => ?_)) | (refine setRegB_keeps _ _ _ _ ?_))

theorem headerWrite_keeps {kb kz} (w : Who) (k : PageKind) (i pg off : Nat) (v : Word) {s : State} (hK : Keeps kb kz s) : Keeps kb kz (headerWrite w k i pg off v s) := by
  unfold headerWrite
  with_reducible repeat' (first | (assumption) | (refine ite_keeps _ (fun _ => ?_) (fun _ => ?_)) | (refine pageCtrlWrite_keeps _ _ _ _ _ ?_) | (refine setRegB_keeps _ _ _ _ ?_) | (refine pageIrqEnWrite_keeps _ _ _ ?_) | (refine pageIrqClrWrite_keeps _ _ _ ?_) | (refine pageOwnerWrite_keeps _ _ _ _ ?_) | (refine setReg_keeps _ _ _ ?_) | (intro _) | (split))

theorem blockCfgWrite_keeps {kb kz} (v : Word) {s : State} (hK : Keeps kb kz s) : Keeps kb kz (blockCfgWrite v s) := by
  unfold blockCfgWrite
  with_reducible repeat' (first | (assumption) | (refine ite_keeps _ (fun _ => ?_) (fun _ => ?_)) | (refine setRegB_keeps _ _ _ _ ?_) | (refine setReg_keeps _ _ _ ?_))

theorem mboxWrite_keeps {kb kz} (w : Who) (u : MUnit) (item : Word) {s : State} (hK : Keeps kb kz s) : Keeps kb kz (mboxWrite w u item s) := by
  unfold mboxWrite
  with_reducible repeat' (first | (assumption) | (refine ite_keeps _ (fun _ => ?_) (fun _ => ?_)) | (refine (mboxOffer_keeps _ _ _ ?_).out) | (refine mboxOffer_keeps_out _ _ _ ?_ (by assumption)) | (refine setReg_keeps _ _ _ ?_) | (intro _) | (split) | (refine mboxOffer_keeps _ _ _ ?_) | (simp only [keeps_mk, keeps1_mk, keeps2_mk, keeps3_mk, keeps4_mk]) | (refine parts_of ?_))

theorem faceWrite_keeps {kb kz} (w : Who) (u : MUnit) (j pg off : Nat) (v : Word) {s : State} (hK : Keeps kb kz s) : Keeps kb kz (faceWrite w u j pg off v s) := by
  unfold faceWrite
  with_reducible repeat' (first | (assumption) | (refine ite_keeps _ (fun _ => ?_) (fun _ => ?_)) | (refine mboxWrite_keeps _ _ _ ?_) | (refine setRegF_keeps _ _ _ _ _ ?_) | (refine chainRouteWrite_keeps _ ?_) | (refine routeStore_keeps _ _ _ _ ?_) | (refine setReg_keeps _ _ _ ?_) | (intro _) | (split))

theorem faceRead_keeps {kb kz} (u : MUnit) (j pg off : Nat) {s : State} (hK : Keeps kb kz s) : Keeps1 kb kz (faceRead u j pg off s) := by
  unfold faceRead
  with_reducible repeat' (first | (assumption) | (refine ite_keeps _ (fun _ => ?_) (fun _ => ?_)) | (refine (mboxTake_keeps _ ?_).out) | (refine mboxTake_keeps_out _ ?_ (by assumption)) | (refine setReg_keeps _ _ _ ?_) | (intro _) | (split) | (refine mboxTake_keeps _ ?_) | (simp only [keeps_mk, keeps1_mk, keeps2_mk, keeps3_mk, keeps4_mk]))
theorem faceRead_keeps_out {kb kz} (u : MUnit) (j pg off : Nat) {s : State} (hK : Keeps kb kz s) {x0 s₁} (hE : faceRead u j pg off s = (x0, s₁)) : Keeps kb kz s₁ := by
  have := faceRead_keeps (kb := kb) (kz := kz) u j pg off  hK
  rw [hE] at this; exact this.out

theorem devWrite_keeps {kb kz} (w : Who) (k : PageKind) (i pg off : Nat) (v : Word) {s : State} (hK : Keeps kb kz s) : Keeps kb kz (devWrite w k i pg off v s) := by
  unfold devWrite
  with_reducible repeat' (first | (assumption) | (refine ite_keeps _ (fun _ => ?_) (fun _ => ?_)) | (refine faceWrite_keeps _ _ _ _ _ _ ?_) | (refine blockCfgWrite_keeps _ ?_) | (refine apllCfgWrite_keeps _ ?_) | (refine setReg_keeps _ _ _ ?_) | (intro _) | (split))

theorem devRead_keeps {kb kz} (k : PageKind) (i pg off : Nat) {s : State} (hK : Keeps kb kz s) : Keeps1 kb kz (devRead k i pg off s) := by
  unfold devRead
  with_reducible repeat' (first | (assumption) | (refine ite_keeps _ (fun _ => ?_) (fun _ => ?_)) | (refine (faceRead_keeps _ _ _ _ ?_).out) | (refine faceRead_keeps_out _ _ _ _ ?_ (by assumption)) | (refine setReg_keeps _ _ _ ?_) | (intro _) | (split) | (refine faceRead_keeps _ _ _ _ ?_) | (simp only [keeps_mk, keeps1_mk, keeps2_mk, keeps3_mk, keeps4_mk]))
theorem devRead_keeps_out {kb kz} (k : PageKind) (i pg off : Nat) {s : State} (hK : Keeps kb kz s) {x0 s₁} (hE : devRead k i pg off s = (x0, s₁)) : Keeps kb kz s₁ := by
  have := devRead_keeps (kb := kb) (kz := kz) k i pg off  hK
  rw [hE] at this; exact this.out

theorem shootWrite_keeps {kb kz} (v : Word) {s : State} (hK : Keeps kb kz s) : Keeps kb kz (shootWrite v s) := by
  unfold shootWrite
  with_reducible repeat' (first | (assumption) | (refine ite_keeps _ (fun _ => ?_) (fun _ => ?_)) | (refine setReg_keeps _ _ _ ?_))

theorem shootDone_keeps {kb kz}  {s : State} (hK : Keeps kb kz s) : Keeps kb kz (shootDone s) := by
  unfold shootDone
  (try dsimp only)
  with_reducible repeat' (first | (assumption) | (refine ite_keeps _ (fun _ => ?_) (fun _ => ?_)) | (refine forAll_keeps _ _ ?_ ?_) | (refine tineInval_keeps _ _ _ ?_) | (refine setReg_keeps _ _ _ ?_) | (intro _) | (split) | (simp only [keeps_mk, keeps1_mk, keeps2_mk, keeps3_mk, keeps4_mk]) | (refine parts_of ?_))

theorem xlatWrite_keeps {kb kz} (off : Nat) (v : Word) {s : State} (hK : Keeps kb kz s) : Keeps kb kz (xlatWrite off v s) := by
  unfold xlatWrite
  (try dsimp only)
  with_reducible repeat' (first | (assumption) | (refine ite_keeps _ (fun _ => ?_) (fun _ => ?_)) | (refine setReg_keeps _ _ _ ?_) | (refine shootWrite_keeps _ ?_) | (intro _) | (split) | (simp only [keeps_mk, keeps1_mk, keeps2_mk, keeps3_mk, keeps4_mk]) | (refine parts_of ?_))

theorem eccPageWrite_keeps {kb kz} (k : PageKind) (pg off : Nat) (v : Word) {s : State} (hK : Keeps kb kz s) : Keeps kb kz (eccPageWrite k pg off v s) := by
  unfold eccPageWrite
  (try dsimp only)
  with_reducible repeat' (first | (assumption) | (refine ite_keeps _ (fun _ => ?_) (fun _ => ?_)) | (refine setReg_keeps _ _ _ ?_))

theorem rowcWrite_keeps {kb kz} (r off : Nat) (v : Word) {s : State} (hK : Keeps kb kz s) : Keeps kb kz (rowcWrite r off v s) := by
  unfold rowcWrite
  with_reducible repeat' (first | (assumption) | (refine ite_keeps _ (fun _ => ?_) (fun _ => ?_)) | (refine cgWrite_keeps _ _ _ ?_) | (refine evrWrite_keeps _ _ _ ?_) | (refine seCmdWrite_keeps _ _ _ ?_) | (refine cellDthWrite_keeps _ _ _ ?_) | (refine withRow_keeps _ _ ?_ ?_) | (refine setReg_keeps _ _ _ ?_) | (intro _))

theorem rowpWrite_keeps {kb kz} (w : Who) (r off : Nat) (v : Word) {s : State} (hK : Keeps kb kz s) : Keeps kb kz (rowpWrite w r off v s) := by
  unfold rowpWrite
  (try dsimp only)
  with_reducible repeat' (first | (assumption) | (refine ite_keeps _ (fun _ => ?_) (fun _ => ?_)) | (refine cellCfgGraft_keeps _ _ _ ?_) | (refine cellCfgWrite_keeps _ _ _ ?_) | (refine cellFifoWrite_keeps _ _ _ ?_) | (refine withRow_keeps _ _ ?_ ?_) | (refine setReg_keeps _ _ _ ?_) | (intro _) | (split))

theorem hoePageWrite_keeps {kb kz} (r off : Nat) (v : Word) {s : State} (hK : Keeps kb kz s) : Keeps kb kz (hoePageWrite r off v s) := by
  unfold hoePageWrite
  with_reducible repeat' (first | (assumption) | (refine ite_keeps _ (fun _ => ?_) (fun _ => ?_)) | (refine hoeRegWrite_keeps _ _ _ _ ?_))

theorem railWrite_keeps {kb kz} (off : Nat) (v : Word) {s : State} (hK : Keeps kb kz s) : Keeps kb kz (railWrite off v s) := by
  unfold railWrite
  (try dsimp only)
  with_reducible repeat' (first | (assumption) | (refine ite_keeps _ (fun _ => ?_) (fun _ => ?_)) | (refine railCfgWrite_keeps _ _ ?_) | (refine railStatWrite_keeps _ _ ?_) | (refine withRows_keeps _ ?_ ?_) | (refine setReg_keeps _ _ _ ?_) | (intro _) | (split))

theorem regRead_keeps {kb kz} (w : Who) (pg off : Nat) {s : State} (hK : Keeps kb kz s) : Keeps1 kb kz (regRead w pg off s) := by
  unfold regRead
  with_reducible repeat' (first | (assumption) | (refine ite_keeps _ (fun _ => ?_) (fun _ => ?_)) | (refine (devRead_keeps _ _ _ _ ?_).out) | (refine devRead_keeps_out _ _ _ _ ?_ (by assumption)) | (refine (gaugeL0_keeps ?_).out) | (refine gaugeL0_keeps_out ?_ (by assumption)) | (refine (gaugeE0_keeps ?_).out) | (refine gaugeE0_keeps_out ?_ (by assumption)) | (refine (journalRead_keeps _ ?_).out) | (refine journalRead_keeps_out _ ?_ (by assumption)) | (refine (ptpRead_keeps _ _ ?_).out) | (refine ptpRead_keeps_out _ _ ?_ (by assumption)) | (refine setReg_keeps _ _ _ ?_) | (intro _) | (split) | (refine devRead_keeps _ _ _ _ ?_) | (refine gaugeL0_keeps ?_) | (refine gaugeE0_keeps ?_) | (refine journalRead_keeps _ ?_) | (refine ptpRead_keeps _ _ ?_) | (simp only [keeps_mk, keeps1_mk, keeps2_mk, keeps3_mk, keeps4_mk]))
theorem regRead_keeps_out {kb kz} (w : Who) (pg off : Nat) {s : State} (hK : Keeps kb kz s) {x0 s₁} (hE : regRead w pg off s = (x0, s₁)) : Keeps kb kz s₁ := by
  have := regRead_keeps (kb := kb) (kz := kz) w pg off  hK
  rw [hE] at this; exact this.out

theorem regWriteBase_keeps {kb kz} (w : Who) (pg off : Nat) (v : Word) {s : State} (hK : Keeps kb kz s) : Keeps kb kz (regWriteBase w pg off v s) := by
  unfold regWriteBase
  with_reducible repeat' (first | (assumption) | (refine ite_keeps _ (fun _ => ?_) (fun _ => ?_)) | (refine headerWrite_keeps _ _ _ _ _ _ ?_) | (refine devWrite_keeps _ _ _ _ _ _ ?_) | (refine aonWrite_keeps _ _ ?_) | (refine pwrWrite_keeps _ _ _ ?_) | (refine secWrite_keeps _ _ _ ?_) | (refine nursWrite_keeps _ _ _ ?_) | (refine gaugeWrite_keeps _ _ ?_) | (refine xlatWrite_keeps _ _ ?_) | (refine eccPageWrite_keeps _ _ _ _ ?_) | (refine trchWrite_keeps _ _ _ _ ?_) | (refine hopRegWrite_keeps _ _ _ _ ?_) | (refine hostWrite_keeps _ _ ?_) | (refine ethWrite_keeps _ _ _ ?_) | (refine chainRegWrite_keeps _ _ ?_) | (refine rowcWrite_keeps _ _ _ ?_) | (refine rowpWrite_keeps _ _ _ _ ?_) | (refine hoePageWrite_keeps _ _ _ ?_) | (refine railWrite_keeps _ _ ?_) | (refine tinePageWrite_keeps _ _ _ _ ?_) | (refine setReg_keeps _ _ _ ?_) | (intro _) | (split))

/-! ## Machine/SecCmds.lean -/

theorem modSess_keeps {kb kz} (probe : Bool) (f : Session → Session) {s : State} (hK : Keeps kb kz s) : Keeps kb kz (modSess probe f s) := by
  unfold modSess
  with_reducible repeat' (first | (assumption) | (refine ite_keeps _ (fun _ => ?_) (fun _ => ?_)) | (refine setSess_keeps _ _ ?_))

theorem sessAnswer_keeps {kb kz} (probe : Bool) (opc status result : Nat) (data : List Byte) {s : State} (hK : Keeps kb kz s) : Keeps kb kz (sessAnswer probe opc status result data s) := by
  unfold sessAnswer
  with_reducible repeat' (first | (assumption) | (refine ite_keeps _ (fun _ => ?_) (fun _ => ?_)) | (refine emit_keeps _ ?_) | (refine adminDone_keeps _ _ _ _ ?_))

theorem viaTap_keeps {kb kz} (probe : Bool) (f : State → State) {s : State} (h_f : ∀  s, Keeps kb kz s → Keeps kb kz (f  s)) (hK : Keeps kb kz s) : Keeps kb kz (viaTap probe f s) := by
  unfold viaTap
  with_reducible repeat' (first | (assumption) | (refine ite_keeps _ (fun _ => ?_) (fun _ => ?_)) | (refine setReg_keeps _ _ _ ?_) | (apply h_f))

theorem execSecChallenge_keeps {kb kz} (probe : Bool) (nonce : BitVec 256) {s : State} (hK : Keeps kb kz s) : ∃ s', execSecChallenge probe nonce s = .next s' ∧ Keeps kb kz s' := by
  unfold execSecChallenge
  refine ⟨_, rfl, ?_⟩
  (try dsimp only)
  with_reducible repeat' (first | (assumption) | (refine ite_keeps _ (fun _ => ?_) (fun _ => ?_)) | (refine viaTap_keeps _ _ ?_ ?_) | (refine sessAnswer_keeps _ _ _ _ _ ?_) | (refine modSess_keeps _ _ ?_) | (refine setReg_keeps _ _ _ ?_) | (intro _))

theorem execNonceExpiry_keeps {kb kz} (probe : Bool) {s : State} (hK : Keeps kb kz s) : ∃ s', execNonceExpiry probe s = .next s' ∧ Keeps kb kz s' := by
  unfold execNonceExpiry
  refine ⟨_, rfl, ?_⟩
  with_reducible repeat' (first | (assumption) | (refine ite_keeps _ (fun _ => ?_) (fun _ => ?_)) | (refine modSess_keeps _ _ ?_) | (refine setReg_keeps _ _ _ ?_) | (intro _) | (split))

theorem execSecRespond_keeps {kb kz} (probe : Bool) (data : List Byte) {s : State} (hK : Keeps kb kz s) : ∃ s', execSecRespond probe data s = .next s' ∧ Keeps kb kz s' := by
  unfold execSecRespond
  refine ⟨_, rfl, ?_⟩
  (try dsimp only)
  with_reducible repeat' (first | (assumption) | (refine ite_keeps _ (fun _ => ?_) (fun _ => ?_)) | (refine viaTap_keeps _ _ ?_ ?_) | (refine modSess_keeps _ _ ?_) | (refine sessAnswer_keeps _ _ _ _ _ ?_) | (refine bumpF_keeps _ _ _ _ _ ?_) | (refine setReg_keeps _ _ _ ?_) | (intro _))

theorem execSecClose_keeps {kb kz} (probe : Bool) {s : State} (hK : Keeps kb kz s) : ∃ s', execSecClose probe s = .next s' ∧ Keeps kb kz s' := by
  unfold execSecClose
  refine ⟨_, rfl, ?_⟩
  with_reducible repeat' (first | (assumption) | (refine ite_keeps _ (fun _ => ?_) (fun _ => ?_)) | (refine viaTap_keeps _ _ ?_ ?_) | (refine sessEnd_keeps _ ?_) | (refine sessAnswer_keeps _ _ _ _ _ ?_) | (refine setReg_keeps _ _ _ ?_) | (intro _))

theorem withGrant_keeps {kb kz} (opc : Nat) (f : State → State) {s : State} (h_f : ∀  s, Keeps kb kz s → Keeps kb kz (f  s)) (hK : Keeps kb kz s) : Keeps kb kz (withGrant opc f s) := by
  unfold withGrant
  with_reducible repeat' (first | (assumption) | (refine ite_keeps _ (fun _ => ?_) (fun _ => ?_)) | (refine adminDone_keeps _ _ _ _ ?_) | (refine setReg_keeps _ _ _ ?_) | (apply h_f))

theorem otpFree_keeps {kb kz} (f : State → State) {s : State} (h_f : ∀  s, Keeps kb kz s → Keeps kb kz (f  s)) (hK : Keeps kb kz s) : Keeps kb kz (otpFree f s) := by
  unfold otpFree
  with_reducible repeat' (first | (assumption) | (refine ite_keeps _ (fun _ => ?_) (fun _ => ?_)) | (refine setReg_keeps _ _ _ ?_) | (apply h_f))

theorem lifecycleDone_keeps {kb kz} (status result : Nat) {s : State} (hK : Keeps kb kz s) : Keeps kb kz (lifecycleDone status result s) := by
  unfold lifecycleDone
  with_reducible repeat' (first | (assumption) | (refine ite_keeps _ (fun _ => ?_) (fun _ => ?_)) | (refine sessEnd_keeps _ ?_) | (refine adminDone_keeps _ _ _ _ ?_))

theorem execSecLifecycle_keeps {kz} (target : BitVec 8) {s : State} (hK : Keeps false kz s) : ∃ s', execSecLifecycle target s = .next s' ∧ Keeps false kz s' := by
  unfold execSecLifecycle
  refine ⟨_, rfl, ?_⟩
  (try dsimp only)
  with_reducible repeat' (first | (assumption) | (refine ite_keeps _ (fun _ => ?_) (fun _ => ?_)) | (refine lifecycleDone_keeps _ _ ?_) | (refine otpFree_keeps _ ?_ ?_) | (refine keysZero_keeps ?_) | (refine setReg_keeps _ _ _ ?_) | (intro _) | (split) | (simp only [keeps_mk, keeps1_mk, keeps2_mk, keeps3_mk, keeps4_mk]) | (refine parts_of ?_) | (refine parts_otp ?_))

theorem execSecSvn_keeps {kz} (v : BitVec 8) {s : State} (hK : Keeps false kz s) : ∃ s', execSecSvn v s = .next s' ∧ Keeps false kz s' := by
  unfold execSecSvn
  refine ⟨_, rfl, ?_⟩
  with_reducible repeat' (first | (assumption) | (refine ite_keeps _ (fun _ => ?_) (fun _ => ?_)) | (refine withGrant_keeps _ _ ?_ ?_) | (refine otpFree_keeps _ ?_ ?_) | (refine adminDone_keeps _ _ _ _ ?_) | (refine setReg_keeps _ _ _ ?_) | (intro _) | (split) | (simp only [keeps_mk, keeps1_mk, keeps2_mk, keeps3_mk, keeps4_mk]) | (refine parts_of ?_) | (refine parts_otp ?_))

theorem execSecZeroize_keeps {kb kz}  {s : State} (hK : Keeps kb kz s) : ∃ s', execSecZeroize s = .next s' ∧ Keeps kb kz s' := by
  unfold execSecZeroize
  refine ⟨_, rfl, ?_⟩
  (try dsimp only)
  with_reducible repeat' (first | (assumption) | (refine ite_keeps _ (fun _ => ?_) (fun _ => ?_)) | (refine withGrant_keeps _ _ ?_ ?_) | (refine keysZero_keeps ?_) | (refine adminDone_keeps _ _ _ _ ?_) | (refine setReg_keeps _ _ _ ?_) | (intro _))

theorem execSecOtpWrite_keeps {kz} (field : BitVec 8) (data : List Byte) {s : State} (hK : Keeps false kz s) : ∃ s', execSecOtpWrite field data s = .next s' ∧ Keeps false kz s' := by
  unfold execSecOtpWrite
  refine ⟨_, rfl, ?_⟩
  (try dsimp only)
  with_reducible repeat' (first | (assumption) | (refine ite_keeps _ (fun _ => ?_) (fun _ => ?_)) | (refine withGrant_keeps _ _ ?_ ?_) | (refine otpFree_keeps _ ?_ ?_) | (refine adminDone_keeps _ _ _ _ ?_) | (refine setReg_keeps _ _ _ ?_) | (intro _) | (split) | (simp only [keeps_mk, keeps1_mk, keeps2_mk, keeps3_mk, keeps4_mk]) | (refine parts_of ?_) | (refine parts_otp ?_))

theorem execOtpWriteComplete_keeps {kz}  {s : State} (hK : Keeps false kz s) : ∃ s', execOtpWriteComplete s = .next s' ∧ Keeps false kz s' := by
  unfold execOtpWriteComplete
  refine ⟨_, rfl, ?_⟩
  (try dsimp only)
  with_reducible repeat' (first | (assumption) | (refine ite_keeps _ (fun _ => ?_) (fun _ => ?_)) | (refine lifecycleDone_keeps _ _ ?_) | (refine adminDone_keeps _ _ _ _ ?_) | (refine setReg_keeps _ _ _ ?_) | (intro _) | (split) | (simp only [keeps_mk, keeps1_mk, keeps2_mk, keeps3_mk, keeps4_mk]) | (refine parts_of ?_) | (refine parts_otp ?_))

theorem execSecCtrlZero_keeps {kb kz} (w : Who) {s : State} (hK : Keeps kb kz s) : ∃ s', execSecCtrlZero w s = .next s' ∧ Keeps kb kz s' := by
  unfold execSecCtrlZero
  refine ⟨_, rfl, ?_⟩
  with_reducible repeat' (first | (assumption) | (refine ite_keeps _ (fun _ => ?_) (fun _ => ?_)) | (refine gated_keeps _ _ _ _ ?_ ?_) | (refine secWrite_keeps _ _ _ ?_) | (refine setReg_keeps _ _ _ ?_) | (intro _))

theorem setTap_keeps {kb kz} (i : TapIr) {s : State} (hK : Keeps kb kz s) : Keeps kb kz (setTap i s) := by
  unfold setTap
  with_reducible repeat' (first | (assumption) | (refine ite_keeps _ (fun _ => ?_) (fun _ => ?_)) | (refine setReg_keeps _ _ _ ?_) | (intro _) | (split) | (simp only [keeps_mk, keeps1_mk, keeps2_mk, keeps3_mk, keeps4_mk]) | (refine parts_of ?_))

theorem execTapReset_keeps {kb kz}  {s : State} (hK : Keeps kb kz s) : ∃ s', execTapReset s = .next s' ∧ Keeps kb kz s' := by
  unfold execTapReset
  refine ⟨_, rfl, ?_⟩
  with_reducible repeat' (first | (assumption) | (refine ite_keeps _ (fun _ => ?_) (fun _ => ?_)) | (refine sessEnd_keeps _ ?_) | (refine setTap_keeps _ ?_))

theorem execBypass_keeps {kb kz}  {s : State} (hK : Keeps kb kz s) : ∃ s', execBypass s = .next s' ∧ Keeps kb kz s' := by
  unfold execBypass
  refine ⟨_, rfl, ?_⟩
  with_reducible repeat' (first | (assumption) | (refine ite_keeps _ (fun _ => ?_) (fun _ => ?_)) | (refine setTap_keeps _ ?_))

theorem execIdcode_keeps {kb kz}  {s : State} (hK : Keeps kb kz s) : ∃ s', execIdcode s = .next s' ∧ Keeps kb kz s' := by
  unfold execIdcode
  refine ⟨_, rfl, ?_⟩
  (try dsimp only)
  with_reducible repeat' (first | (assumption) | (refine ite_keeps _ (fun _ => ?_) (fun _ => ?_)) | (refine setTap_keeps _ ?_) | (refine setReg_keeps _ _ _ ?_) | (intro _) | (split) | (simp only [keeps_mk, keeps1_mk, keeps2_mk, keeps3_mk, keeps4_mk]) | (refine parts_of ?_))

theorem execSamplePreload_keeps {kb kz}  {s : State} (hK : Keeps kb kz s) : ∃ s', execSamplePreload s = .next s' ∧ Keeps kb kz s' := by
  unfold execSamplePreload
  refine ⟨_, rfl, ?_⟩
  with_reducible repeat' (first | (assumption) | (refine ite_keeps _ (fun _ => ?_) (fun _ => ?_)) | (refine setTap_keeps _ ?_))

theorem execExtest_keeps {kb kz}  {s : State} (hK : Keeps kb kz s) : ∃ s', execExtest s = .next s' ∧ Keeps kb kz s' := by
  unfold execExtest
  refine ⟨_, rfl, ?_⟩
  with_reducible repeat' (first | (assumption) | (refine ite_keeps _ (fun _ => ?_) (fun _ => ?_)) | (refine setTap_keeps _ ?_))

theorem execClamp_keeps {kb kz}  {s : State} (hK : Keeps kb kz s) : ∃ s', execClamp s = .next s' ∧ Keeps kb kz s' := by
  unfold execClamp
  refine ⟨_, rfl, ?_⟩
  with_reducible repeat' (first | (assumption) | (refine ite_keeps _ (fun _ => ?_) (fun _ => ?_)) | (refine setTap_keeps _ ?_))

theorem execHighz_keeps {kb kz}  {s : State} (hK : Keeps kb kz s) : ∃ s', execHighz s = .next s' ∧ Keeps kb kz s' := by
  unfold execHighz
  refine ⟨_, rfl, ?_⟩
  with_reducible repeat' (first | (assumption) | (refine ite_keeps _ (fun _ => ?_) (fun _ => ?_)) | (refine setTap_keeps _ ?_))

theorem execDap_keeps {kb kz}  {s : State} (hK : Keeps kb kz s) : ∃ s', execDap s = .next s' ∧ Keeps kb kz s' := by
  unfold execDap
  refine ⟨_, rfl, ?_⟩
  with_reducible repeat' (first | (assumption) | (refine ite_keeps _ (fun _ => ?_) (fun _ => ?_)) | (refine setTap_keeps _ ?_))

/-! ## Machine/Reset.lean -/

theorem deviceReset_keeps {kb kz} {s : State} (hK : Keeps kb kz s) : Keeps kb kz (deviceReset s) := by
  unfold deviceReset
  refine forAll_keeps _ _ (fun _ _ h => keepVio_keeps _ _ h) ?_
  refine setRegF_keeps _ _ _ _ _ ?_
  have hC := parts_of hK
  refine keeps_iff.2 ⟨fun x => ?_, hC.2.1, fun e => ⟨(hC.2.2 e).1, .inr rfl⟩⟩
  have := hC.1 x
  simp only [Bool.and_eq_true] at *
  exact ⟨rfl, Tbl.wf_filter _ _ this.2⟩

theorem aonReset_keeps {kb kz} {s : State} (hK : Keeps kb kz s) : Keeps kb kz (aonReset s) := by
  unfold aonReset
  refine keysAtReset_keeps ?_
  exact keeps_iff.2 ⟨fun _ => rfl, (parts_of hK).2.1, fun e => ⟨((parts_of hK).2.2 e).1, .inr rfl⟩⟩

theorem returnedFinish_keeps {kz}  {s : State} (hK : Keeps false kz s) : Keeps false kz (returnedFinish s) := by
  unfold returnedFinish
  (try dsimp only)
  with_reducible repeat' (first | (assumption) | (refine ite_keeps _ (fun _ => ?_) (fun _ => ?_)) | (refine keysZero_keeps ?_) | (refine setReg_keeps _ _ _ ?_) | (intro _) | (split) | (simp only [keeps_mk, keeps1_mk, keeps2_mk, keeps3_mk, keeps4_mk]) | (refine parts_of ?_) | (refine parts_otp ?_))

theorem execDeviceReset_keeps {kb kz}  {s : State} (hK : Keeps kb kz s) : ∃ s', execDeviceReset s = .next s' ∧ Keeps kb kz s' := by
  unfold execDeviceReset
  refine ⟨_, rfl, ?_⟩
  (try dsimp only)
  with_reducible repeat' (first | (assumption) | (refine ite_keeps _ (fun _ => ?_) (fun _ => ?_)) | (refine deviceReset_keeps ?_) | (refine setReg_keeps _ _ _ ?_) | (intro _) | (split) | (simp only [keeps_mk, keeps1_mk, keeps2_mk, keeps3_mk, keeps4_mk]) | (refine parts_of ?_))

theorem execAonReset_keeps {kb kz}  {s : State} (hK : Keeps kb kz s) : ∃ s', execAonReset s = .next s' ∧ Keeps kb kz s' := by
  unfold execAonReset
  refine ⟨_, rfl, ?_⟩
  with_reducible repeat' (first | (assumption) | (refine ite_keeps _ (fun _ => ?_) (fun _ => ?_)) | (refine aonReset_keeps ?_))

theorem resetLeave_keeps {kb kz}  {s : State} (hK : Keeps kb kz s) : Keeps kb kz (resetLeave s) := by
  unfold resetLeave
  (try dsimp only)
  with_reducible repeat' (first | (assumption) | (refine ite_keeps _ (fun _ => ?_) (fun _ => ?_)) | (refine deviceReset_keeps ?_) | (refine setReg_keeps _ _ _ ?_) | (intro _) | (split) | (simp only [keeps_mk, keeps1_mk, keeps2_mk, keeps3_mk, keeps4_mk]) | (refine parts_of ?_))

theorem execResetRelease_keeps {kb kz} (bootsel : Fin 8) {s : State} (hK : Keeps kb kz s) : ∃ s', execResetRelease bootsel s = .next s' ∧ Keeps kb kz s' := by
  unfold execResetRelease
  refine ⟨_, rfl, ?_⟩
  (try dsimp only)
  with_reducible repeat' (first | (assumption) | (refine ite_keeps _ (fun _ => ?_) (fun _ => ?_)) | (refine resetLeave_keeps ?_) | (refine setReg_keeps _ _ _ ?_) | (intro _) | (split) | (simp only [keeps_mk, keeps1_mk, keeps2_mk, keeps3_mk, keeps4_mk]) | (refine parts_of ?_))

theorem execVcoreUndervoltage_keeps {kb kz}  {s : State} (hK : Keeps kb kz s) : ∃ s', execVcoreUndervoltage s = .next s' ∧ Keeps kb kz s' := by
  unfold execVcoreUndervoltage
  refine ⟨_, rfl, ?_⟩
  (try dsimp only)
  with_reducible repeat' (first | (assumption) | (refine ite_keeps _ (fun _ => ?_) (fun _ => ?_)) | (refine deviceReset_keeps ?_) | (refine setReg_keeps _ _ _ ?_) | (intro _) | (split) | (simp only [keeps_mk, keeps1_mk, keeps2_mk, keeps3_mk, keeps4_mk]) | (refine parts_of ?_))

theorem execVcoreSupervisorRelease_keeps {kb kz}  {s : State} (hK : Keeps kb kz s) : ∃ s', execVcoreSupervisorRelease s = .next s' ∧ Keeps kb kz s' := by
  unfold execVcoreSupervisorRelease
  refine ⟨_, rfl, ?_⟩
  (try dsimp only)
  with_reducible repeat' (first | (assumption) | (refine ite_keeps _ (fun _ => ?_) (fun _ => ?_)) | (refine resetLeave_keeps ?_) | (refine setReg_keeps _ _ _ ?_) | (intro _) | (split) | (simp only [keeps_mk, keeps1_mk, keeps2_mk, keeps3_mk, keeps4_mk]) | (refine parts_of ?_))

end Sys2Proof.Machine
end

