-- ==== Sys2Proof/Laws/KeepsBoot.lean ====
section
/-! SUPPORT. Laws that say, operation by operation, that the canonical form, the queue and OTP are kept: boot, grafts and accesses by physical address. -/

namespace Sys2Proof.Machine

/-! ## Machine/Boot.lean -/

theorem graftRefused_keeps {kb kz} (n : Nat) {s : State} (hK : Keeps kb kz s) : Keeps kb kz (graftRefused n s) := by
  unfold graftRefused
  with_reducible repeat' (first | (assumption) | (refine ite_keeps _ (fun _ => ?_) (fun _ => ?_)) | (refine bumpF_keeps _ _ _ _ _ ?_))

theorem applyReg_keeps {kb kz} (a : Nat) (v : Word) {s : State} (hK : Keeps kb kz s) : Keeps kb kz (applyReg a v s) := by
  unfold applyReg
  (try dsimp only)
  with_reducible repeat' (first | (assumption) | (refine ite_keeps _ (fun _ => ?_) (fun _ => ?_)) | (refine graftRefused_keeps _ ?_) | (refine regWriteBase_keeps _ _ _ _ ?_) | (refine setRegB_keeps _ _ _ _ ?_) | (refine setReg_keeps _ _ _ ?_) | (intro _) | (split))

theorem applyWords_keeps {kb kz} (d pa : Nat) (ws : List Word) {s : State} (hK : Keeps kb kz s) : Keeps kb kz (applyWords d pa ws s) := by
  unfold applyWords
  with_reducible repeat' (first | (assumption) | (refine ite_keeps _ (fun _ => ?_) (fun _ => ?_)) | (refine forAll_keeps _ _ ?_ ?_) | (refine memPut_keeps _ _ ?_) | (refine graftRefused_keeps _ ?_) | (refine setReg_keeps _ _ _ ?_) | (intro _))

theorem applyCode_keeps {kb kz} (l off : Nat) (ws : List Word) {s : State} (hK : Keeps kb kz s) : Keeps1 kb kz (applyCode l off ws s) := by
  unfold applyCode
  with_reducible repeat' (first | (assumption) | (refine ite_keeps _ (fun _ => ?_) (fun _ => ?_)) | (refine applyWords_keeps _ _ _ ?_) | (refine graftRefused_keeps _ ?_) | (refine setReg_keeps _ _ _ ?_) | (intro _) | (split) | (simp only [keeps_mk, keeps1_mk, keeps2_mk, keeps3_mk, keeps4_mk]))
theorem applyCode_keeps_out {kb kz} (l off : Nat) (ws : List Word) {s : State} (hK : Keeps kb kz s) {x0 s₁} (hE : applyCode l off ws s = (x0, s₁)) : Keeps kb kz s₁ := by
  have := applyCode_keeps (kb := kb) (kz := kz) l off ws  hK
  rw [hE] at this; exact this.out

theorem applyData_keeps {kb kz} (l off : Nat) (ws : List Word) {s : State} (hK : Keeps kb kz s) : Keeps kb kz (applyData l off ws s) := by
  unfold applyData
  with_reducible repeat' (first | (assumption) | (refine ite_keeps _ (fun _ => ?_) (fun _ => ?_)) | (refine applyWords_keeps _ _ _ ?_) | (refine graftRefused_keeps _ ?_) | (refine setReg_keeps _ _ _ ?_) | (intro _) | (split))

theorem applyShed_keeps {kb kz} (pa : Nat) (ws : List Word) {s : State} (hK : Keeps kb kz s) : Keeps kb kz (applyShed pa ws s) := by
  unfold applyShed
  with_reducible repeat' (first | (assumption) | (refine ite_keeps _ (fun _ => ?_) (fun _ => ?_)) | (refine forAll_keeps _ _ ?_ ?_) | (refine applyWords_keeps _ _ _ ?_) | (refine setReg_keeps _ _ _ ?_) | (intro _))

theorem modBoot_keeps {kb kz} (f : Boot → Boot) {s : State} (hK : Keeps kb kz s) : Keeps kb kz (modBoot f s) := by
  unfold modBoot
  with_reducible repeat' (first | (assumption) | (refine ite_keeps _ (fun _ => ?_) (fun _ => ?_)) | (refine setReg_keeps _ _ _ ?_) | (intro _) | (split) | (simp only [keeps_mk, keeps1_mk, keeps2_mk, keeps3_mk, keeps4_mk]) | (refine parts_of ?_))

theorem applyRoot_keeps {kb kz} (r : Rec) {s : State} (hK : Keeps kb kz s) : Keeps kb kz (applyRoot r s) := by
  unfold applyRoot
  (try dsimp only)
  with_reducible repeat' (first | (assumption) | (refine ite_keeps _ (fun _ => ?_) (fun _ => ?_)) | (refine forAll_keeps _ _ ?_ ?_) | (refine modBoot_keeps _ ?_) | (refine (applyCode_keeps _ _ _ ?_).out) | (refine applyCode_keeps_out _ _ _ ?_ (by assumption)) | (refine applyData_keeps _ _ _ ?_) | (refine applyShed_keeps _ _ ?_) | (refine applyReg_keeps _ _ ?_) | (refine setReg_keeps _ _ _ ?_) | (intro _) | (split))

theorem applySect_keeps {kb kz} (fuel : Nat) (form : Bool) (img : Option (Nat × Nat)) (ws : List Word) {s : State} (hK : Keeps kb kz s) : Keeps1 kb kz (applySect fuel form img ws s) := by
  induction fuel generalizing ws s with
  | zero => exact ⟨hK⟩
  | succ n ih =>
    unfold applySect
    split
    · exact ⟨hK⟩
    · exact ⟨hK⟩
    · extract_lets e
      split
      · exact ⟨hK⟩
      · exact ih _ (applyRoot_keeps _ hK)
theorem applySect_keeps_out {kb kz} (fuel : Nat) (form : Bool) (img : Option (Nat × Nat)) (ws : List Word) {s : State} (hK : Keeps kb kz s) {x0 s₁} (hE : applySect fuel form img ws s = (x0, s₁)) : Keeps kb kz s₁ := by
  have := applySect_keeps (kb := kb) (kz := kz) fuel form img ws  hK
  rw [hE] at this; exact this.out

theorem setScion_keeps {kb kz} (id : Nat) (x : Option Scion) {s : State} (hK : Keeps kb kz s) : Keeps kb kz (setScion id x s) := by
  unfold setScion
  with_reducible repeat' (first | (assumption) | (refine ite_keeps _ (fun _ => ?_) (fun _ => ?_)) | (refine setRegB_keeps _ _ _ _ ?_) | (refine modBoot_keeps _ ?_))

theorem storeScion_keeps {kb kz} (img : Seed) (x : Sect) {s : State} (hK : Keeps kb kz s) : Keeps1 kb kz (storeScion img x s) := by
  unfold storeScion
  (try dsimp only)
  with_reducible repeat' (first | (assumption) | (refine ite_keeps _ (fun _ => ?_) (fun _ => ?_)) | (refine applyShed_keeps _ _ ?_) | (refine setScion_keeps _ _ ?_) | (refine setReg_keeps _ _ _ ?_) | (intro _) | (split) | (simp only [keeps_mk, keeps1_mk, keeps2_mk, keeps3_mk, keeps4_mk]))
theorem storeScion_keeps_out {kb kz} (img : Seed) (x : Sect) {s : State} (hK : Keeps kb kz s) {x0 s₁} (hE : storeScion img x s = (x0, s₁)) : Keeps kb kz s₁ := by
  have := storeScion_keeps (kb := kb) (kz := kz) img x  hK
  rw [hE] at this; exact this.out

theorem setBootState_keeps {kb kz} (v : Nat) {s : State} (hK : Keeps kb kz s) : Keeps kb kz (setBootState v s) := by
  unfold setBootState
  with_reducible repeat' (first | (assumption) | (refine ite_keeps _ (fun _ => ?_) (fun _ => ?_)) | (refine setRegF_keeps _ _ _ _ _ ?_))

theorem setBootErr_keeps {kb kz} (v : Nat) {s : State} (hK : Keeps kb kz s) : Keeps kb kz (setBootErr v s) := by
  unfold setBootErr
  with_reducible repeat' (first | (assumption) | (refine ite_keeps _ (fun _ => ?_) (fun _ => ?_)) | (refine setRegF_keeps _ _ _ _ _ ?_))

theorem setBootSect_keeps {kb kz} (v : Nat) {s : State} (hK : Keeps kb kz s) : Keeps kb kz (setBootSect v s) := by
  unfold setBootSect
  with_reducible repeat' (first | (assumption) | (refine ite_keeps _ (fun _ => ?_) (fun _ => ?_)) | (refine setRegF_keeps _ _ _ _ _ ?_))

theorem bootLock_keeps {kb kz} (src : Option Nat) {s : State} (hK : Keeps kb kz s) : Keeps kb kz (bootLock src s) := by
  unfold bootLock
  with_reducible repeat' (first | (assumption) | (refine ite_keeps _ (fun _ => ?_) (fun _ => ?_)) | (refine setRegB_keeps _ _ _ _ ?_) | (refine setRegF_keeps _ _ _ _ _ ?_) | (refine setReg_keeps _ _ _ ?_) | (intro _) | (split))

theorem bootFail_keeps {kb kz} (err : Nat) {s : State} (hK : Keeps kb kz s) : Keeps kb kz (bootFail err s) := by
  unfold bootFail
  (try dsimp only)
  with_reducible repeat' (first | (assumption) | (refine ite_keeps _ (fun _ => ?_) (fun _ => ?_)) | (refine setBootErr_keeps _ ?_) | (refine deviceReset_keeps ?_) | (refine setReg_keeps _ _ _ ?_) | (refine setBootState_keeps _ ?_) | (refine bootLock_keeps _ ?_) | (refine modBoot_keeps _ ?_))

theorem launchTine_keeps {kb kz} (l : Nat) {s : State} (hK : Keeps kb kz s) : Keeps kb kz (launchTine l s) := by
  unfold launchTine
  (try dsimp only)
  with_reducible repeat' (first | (assumption) | (refine ite_keeps _ (fun _ => ?_) (fun _ => ?_)) | (refine setRegF_keeps _ _ _ _ _ ?_) | (refine alive_keeps _ ?_) | (refine modTine_keeps _ _ ?_) | (refine setReg_keeps _ _ _ ?_) | (intro _) | (split))

theorem bootLaunch_keeps {kb kz} (x : Seed) {s : State} (hK : Keeps kb kz s) : Keeps kb kz (bootLaunch x s) := by
  unfold bootLaunch
  (try dsimp only)
  with_reducible repeat' (first | (assumption) | (refine ite_keeps _ (fun _ => ?_) (fun _ => ?_)) | (refine forAll_keeps _ _ ?_ ?_) | (refine (applySect_keeps _ _ _ _ ?_).out) | (refine applySect_keeps_out _ _ _ _ ?_ (by assumption)) | (refine bootFail_keeps _ ?_) | (refine modTine_keeps _ _ ?_) | (refine setBootState_keeps _ ?_) | (refine modBoot_keeps _ ?_) | (refine launchTine_keeps _ ?_) | (refine setReg_keeps _ _ _ ?_) | (intro _) | (split))

theorem bootSect_keeps {kb kz} (x : Seed) (i : Nat) (y : Sect) {s : State} (hK : Keeps kb kz s) : Keeps kb kz (bootSect x i y s) := by
  unfold bootSect
  (try dsimp only)
  with_reducible repeat' (first | (assumption) | (refine ite_keeps _ (fun _ => ?_) (fun _ => ?_)) | (refine setBootSect_keeps _ ?_) | (refine (applySect_keeps _ _ _ _ ?_).out) | (refine applySect_keeps_out _ _ _ _ ?_ (by assumption)) | (refine (storeScion_keeps _ _ ?_).out) | (refine storeScion_keeps_out _ _ ?_ (by assumption)) | (refine modBoot_keeps _ ?_) | (refine bootLaunch_keeps _ ?_) | (refine setBootErr_keeps _ ?_) | (refine setScion_keeps _ _ ?_) | (refine bootFail_keeps _ ?_) | (refine setReg_keeps _ _ _ ?_) | (intro _) | (split))

theorem bootSects_keeps {kb kz} (fuel bytes : Nat) {s : State} (hK : Keeps kb kz s) : Keeps kb kz (bootSects fuel bytes s) := by
  revert hK
  fun_induction bootSects fuel bytes s <;> intro hK <;> (try dsimp only) <;> with_reducible repeat' (first | (assumption) | (refine ite_keeps _ (fun _ => ?_) (fun _ => ?_)) | (refine bootSect_keeps _ _ _ ?_) | (refine setReg_keeps _ _ _ ?_) | (apply_assumption))

theorem bootProgress_keeps {kb kz} (bytes : Nat) (done : Bool) {s : State} (hK : Keeps kb kz s) : Keeps kb kz (bootProgress bytes done s) := by
  unfold bootProgress
  (try dsimp only)
  with_reducible repeat' (first | (assumption) | (refine ite_keeps _ (fun _ => ?_) (fun _ => ?_)) | (refine bootFail_keeps _ ?_) | (refine setBootSect_keeps _ ?_) | (refine setBootState_keeps _ ?_) | (refine modBoot_keeps _ ?_) | (refine bootSects_keeps _ _ ?_) | (refine setReg_keeps _ _ _ ?_) | (intro _) | (split))

theorem loadShown_keeps {kb kz}  {s : State} (hK : Keeps kb kz s) : Keeps kb kz (loadShown s) := by
  unfold loadShown
  with_reducible repeat' (first | (assumption) | (refine ite_keeps _ (fun _ => ?_) (fun _ => ?_)) | (refine setRegF_keeps _ _ _ _ _ ?_))

theorem rxlenTake_keeps {kb kz} (src : Nat) (v : Word) {s0 : State} (hK : Keeps kb kz s0) : Keeps kb kz (rxlenTake src v s0) := by
  unfold rxlenTake
  (try dsimp only)
  with_reducible repeat' (first | (assumption) | (refine ite_keeps _ (fun _ => ?_) (fun _ => ?_)) | (refine setReg_keeps _ _ _ ?_) | (refine bootLock_keeps _ ?_) | (refine modBoot_keeps _ ?_) | (refine setBootErr_keeps _ ?_) | (refine bootFail_keeps _ ?_) | (refine bootProgress_keeps _ _ ?_))

theorem rxlenWrite_keeps {kb kz} (src : Nat) (v : Word) {s : State} (hK : Keeps kb kz s) : Keeps kb kz (rxlenWrite src v s) := by
  unfold rxlenWrite
  with_reducible repeat' (first | (assumption) | (refine ite_keeps _ (fun _ => ?_) (fun _ => ?_)) | (refine loadShown_keeps ?_) | (refine rxlenTake_keeps _ _ ?_))

theorem bootReady_keeps {kz} (eccBad : Bool) {s : State} (hK : Keeps false kz s) : Keeps false kz (bootReady eccBad s) := by
  unfold bootReady
  (try dsimp only)
  with_reducible repeat' (first | (assumption) | (refine ite_keeps _ (fun _ => ?_) (fun _ => ?_)) | (refine modBoot_keeps _ ?_) | (refine returnedFinish_keeps ?_) | (refine setRegB_keeps _ _ _ _ ?_) | (refine setReg_keeps _ _ _ ?_) | (refine copyRange_keeps _ _ _ ?_) | (refine modTine_keeps _ _ ?_) | (refine setRegF_keeps _ _ _ _ _ ?_) | (refine setBootState_keeps _ ?_) | (refine alive_keeps _ ?_) | (intro _) | (split) | (simp only [keeps_mk, keeps1_mk, keeps2_mk, keeps3_mk, keeps4_mk]) | (refine parts_of ?_))

theorem setGState_keeps {kb kz} (v : Nat) {s : State} (hK : Keeps kb kz s) : Keeps kb kz (setGState v s) := by
  unfold setGState
  with_reducible repeat' (first | (assumption) | (refine ite_keeps _ (fun _ => ?_) (fun _ => ?_)) | (refine setRegF_keeps _ _ _ _ _ ?_))

theorem setGResult_keeps {kb kz} (v : Nat) {s : State} (hK : Keeps kb kz s) : Keeps kb kz (setGResult v s) := by
  unfold setGResult
  with_reducible repeat' (first | (assumption) | (refine ite_keeps _ (fun _ => ?_) (fun _ => ?_)) | (refine setRegF_keeps _ _ _ _ _ ?_))

theorem graftAnswer_keeps {kb kz} (g : Graft) (status : Nat) {s : State} (hK : Keeps kb kz s) : Keeps kb kz (graftAnswer g status s) := by
  unfold graftAnswer
  (try dsimp only)
  with_reducible repeat' (first | (assumption) | (refine ite_keeps _ (fun _ => ?_) (fun _ => ?_)) | (refine setGResult_keeps _ ?_) | (refine adminEnd_keeps _ _ _ _ ?_))

theorem unstage_keeps {kb kz} (g : Graft) {s : State} (hK : Keeps kb kz s) : Keeps kb kz (unstage g s) := by
  unfold unstage
  with_reducible repeat' (first | (assumption) | (refine ite_keeps _ (fun _ => ?_) (fun _ => ?_)) | (refine forAll_keeps _ _ ?_ ?_) | (refine setRegB_keeps _ _ _ _ ?_) | (refine setReg_keeps _ _ _ ?_) | (intro _) | (split))

theorem graftFail_keeps {kb kz} (g : Graft) (status : Nat) {s : State} (hK : Keeps kb kz s) : Keeps kb kz (graftFail g status s) := by
  unfold graftFail
  with_reducible repeat' (first | (assumption) | (refine ite_keeps _ (fun _ => ?_) (fun _ => ?_)) | (refine graftAnswer_keeps _ _ ?_) | (refine setGState_keeps _ ?_) | (refine unstage_keeps _ ?_) | (refine modBoot_keeps _ ?_))

theorem stageRec_keeps {kb kz} (g : Graft) (r : Rec) {s : State} (hK : Keeps kb kz s) : Keeps2 kb kz (stageRec g r s) := by
  unfold stageRec
  (try dsimp only)
  with_reducible repeat' (first | (assumption) | (refine ite_keeps _ (fun _ => ?_) (fun _ => ?_)) | (refine (applyCode_keeps _ _ _ ?_).out) | (refine applyCode_keeps_out _ _ _ ?_ (by assumption)) | (refine setRegB_keeps _ _ _ _ ?_) | (refine applyData_keeps _ _ _ ?_) | (refine applyShed_keeps _ _ ?_) | (refine setReg_keeps _ _ _ ?_) | (intro _) | (split) | (refine applyCode_keeps _ _ _ ?_) | (simp only [keeps_mk, keeps1_mk, keeps2_mk, keeps3_mk, keeps4_mk]))
theorem stageRec_keeps_out {kb kz} (g : Graft) (r : Rec) {s : State} (hK : Keeps kb kz s) {x0 x1 s₁} (hE : stageRec g r s = (x0, x1, s₁)) : Keeps kb kz s₁ := by
  have := stageRec_keeps (kb := kb) (kz := kz) g r  hK
  rw [hE] at this; exact this.out

theorem stageSect_keeps {kb kz} (fuel : Nat) (form asRoot : Bool) (img : Option (Nat × Nat)) (ws : List Word) (g : Graft) {s : State} (hK : Keeps kb kz s) : Keeps2 kb kz (stageSect fuel form asRoot img ws g s) := by
  induction fuel generalizing ws g s with
  | zero => exact ⟨hK⟩
  | succ n ih =>
    unfold stageSect
    split
    · exact ⟨hK⟩
    · exact ⟨hK⟩
    · extract_lets e
      split
      · exact ⟨hK⟩
      · have h1 := stageRec_keeps g ‹_› hK
        split
        next h => rw [h] at h1; exact ih _ _ ((keeps2_mk _ _ _).1 h1)
        next => exact h1
theorem stageSect_keeps_out {kb kz} (fuel : Nat) (form asRoot : Bool) (img : Option (Nat × Nat)) (ws : List Word) (g : Graft) {s : State} (hK : Keeps kb kz s) {x0 x1 s₁} (hE : stageSect fuel form asRoot img ws g s = (x0, x1, s₁)) : Keeps kb kz s₁ := by
  have := stageSect_keeps (kb := kb) (kz := kz) fuel form asRoot img ws g  hK
  rw [hE] at this; exact this.out

theorem stageRoots_keeps {kb kz} (x : Seed) (l : List Sect) (g : Graft) {s : State} (hK : Keeps kb kz s) : Keeps2 kb kz (stageRoots x l g s) := by
  induction l generalizing g s with
  | nil => exact ⟨hK⟩
  | cons y ys ih =>
    unfold stageRoots
    split
    · exact ⟨hK⟩
    · have h1 := stageSect_keeps (y.len + 1) true true (some (imgRange x)) (sectWords s x.base y) g hK
      split
      next h => rw [h] at h1; exact ih _ ((keeps2_mk _ _ _).1 h1)
      next => exact h1
theorem stageRoots_keeps_out {kb kz} (x : Seed) (l : List Sect) (g : Graft) {s : State} (hK : Keeps kb kz s) {x0 x1 s₁} (hE : stageRoots x l g s = (x0, x1, s₁)) : Keeps kb kz s₁ := by
  have := stageRoots_keeps (kb := kb) (kz := kz) x l g  hK
  rw [hE] at this; exact this.out

theorem stageScion_keeps {kb kz} (asRoot : Bool) (sc : Scion) (g : Graft) {s : State} (hK : Keeps kb kz s) : Keeps2 kb kz (stageScion asRoot sc g s) := by
  unfold stageScion
  with_reducible repeat' (first | (assumption) | (refine ite_keeps _ (fun _ => ?_) (fun _ => ?_)) | (refine (stageSect_keeps _ _ _ _ _ _ ?_).out) | (refine stageSect_keeps_out _ _ _ _ _ _ ?_ (by assumption)) | (refine setReg_keeps _ _ _ ?_) | (intro _) | (split) | (refine stageSect_keeps _ _ _ _ _ _ ?_) | (simp only [keeps_mk, keeps1_mk, keeps2_mk, keeps3_mk, keeps4_mk]))
theorem stageScion_keeps_out {kb kz} (asRoot : Bool) (sc : Scion) (g : Graft) {s : State} (hK : Keeps kb kz s) {x0 x1 s₁} (hE : stageScion asRoot sc g s = (x0, x1, s₁)) : Keeps kb kz s₁ := by
  have := stageScion_keeps (kb := kb) (kz := kz) asRoot sc g  hK
  rw [hE] at this; exact this.out

theorem stageAll_keeps {kb kz} (scion : Nat) (g : Graft) {s : State} (hK : Keeps kb kz s) : Keeps2 kb kz (stageAll scion g s) := by
  unfold stageAll
  with_reducible repeat' (first | (assumption) | (refine ite_keeps _ (fun _ => ?_) (fun _ => ?_)) | (refine (stageRoots_keeps _ _ _ ?_).out) | (refine stageRoots_keeps_out _ _ _ ?_ (by assumption)) | (refine (stageScion_keeps _ _ _ ?_).out) | (refine stageScion_keeps_out _ _ _ ?_ (by assumption)) | (refine setReg_keeps _ _ _ ?_) | (intro _) | (split) | (refine stageRoots_keeps _ _ _ ?_) | (refine stageScion_keeps _ _ _ ?_) | (simp only [keeps_mk, keeps1_mk, keeps2_mk, keeps3_mk, keeps4_mk]))
theorem stageAll_keeps_out {kb kz} (scion : Nat) (g : Graft) {s : State} (hK : Keeps kb kz s) {x0 x1 s₁} (hE : stageAll scion g s = (x0, x1, s₁)) : Keeps kb kz s₁ := by
  have := stageAll_keeps (kb := kb) (kz := kz) scion g  hK
  rw [hE] at this; exact this.out

theorem graftRequest_keeps {kb kz} (root : Bool) (scion block tries : Nat) (admin : Bool) {s : State} (hK : Keeps kb kz s) : Keeps kb kz (graftRequest root scion block tries admin s) := by
  unfold graftRequest
  (try dsimp only)
  with_reducible repeat' (first | (assumption) | (refine ite_keeps _ (fun _ => ?_) (fun _ => ?_)) | (refine setGResult_keeps _ ?_) | (refine adminDone_keeps _ _ _ _ ?_) | (refine (adminBegin_keeps _ ?_).out) | (refine adminBegin_keeps_out _ ?_ (by assumption)) | (refine setReg_keeps _ _ _ ?_) | (refine (stageAll_keeps _ _ ?_).out) | (refine stageAll_keeps_out _ _ ?_ (by assumption)) | (refine setGState_keeps _ ?_) | (refine modBoot_keeps _ ?_) | (refine graftFail_keeps _ _ ?_) | (intro _) | (split))

theorem graftTine_keeps {kb kz} (g : Graft) (l : Nat) {s : State} (hK : Keeps kb kz s) : Keeps kb kz (graftTine g l s) := by
  unfold graftTine
  (try dsimp only)
  with_reducible repeat' (first | (assumption) | (refine ite_keeps _ (fun _ => ?_) (fun _ => ?_)) | (refine setReg_keeps _ _ _ ?_) | (refine alive_keeps _ ?_) | (refine modTine_keeps _ _ ?_) | (intro _) | (split))

theorem graftChan_keeps {kb kz} (c : Nat) {s : State} (hK : Keeps kb kz s) : Keeps kb kz (graftChan c s) := by
  unfold graftChan
  (try dsimp only)
  with_reducible repeat' (first | (assumption) | (refine ite_keeps _ (fun _ => ?_) (fun _ => ?_)) | (refine setChF_keeps _ _ _ _ _ ?_) | (refine setCpc_keeps _ _ ?_) | (refine modChan_keeps _ _ ?_) | (refine setChState_keeps _ _ ?_) | (refine setReg_keeps _ _ _ ?_) | (intro _) | (split))

theorem graftSwitch_keeps {kb kz} (g : Graft) {s : State} (hK : Keeps kb kz s) : Keeps kb kz (graftSwitch g s) := by
  unfold graftSwitch
  (try dsimp only)
  with_reducible repeat' (first | (assumption) | (refine ite_keeps _ (fun _ => ?_) (fun _ => ?_)) | (refine forAll_keeps _ _ ?_ ?_) | (refine applyReg_keeps _ _ ?_) | (refine graftChan_keeps _ ?_) | (refine graftTine_keeps _ _ ?_) | (refine sieveUpdate_keeps _ ?_) | (refine modBoot_keeps _ ?_) | (refine graftAnswer_keeps _ _ ?_) | (refine setGState_keeps _ ?_) | (refine bumpF_keeps _ _ _ _ _ ?_) | (refine setReg_keeps _ _ _ ?_) | (intro _) | (split))

theorem graftBoundary_keeps {kb kz}  {s : State} (hK : Keeps kb kz s) : Keeps kb kz (graftBoundary s) := by
  unfold graftBoundary
  (try dsimp only)
  with_reducible repeat' (first | (assumption) | (refine ite_keeps _ (fun _ => ?_) (fun _ => ?_)) | (refine setRegF_keeps _ _ _ _ _ ?_) | (refine graftSwitch_keeps _ ?_) | (refine bumpF_keeps _ _ _ _ _ ?_) | (refine graftFail_keeps _ _ ?_) | (refine setReg_keeps _ _ _ ?_) | (intro _) | (split))

theorem loadScions_keeps {kb kz} (x : Seed) (l : List Sect) {s : State} (hK : Keeps kb kz s) : Keeps1 kb kz (loadScions x l s) := by
  induction l generalizing s with
  | nil => exact ⟨hK⟩
  | cons y ys ih =>
    unfold loadScions
    have h1 := storeScion_keeps x y hK
    split
    next h => rw [h] at h1; exact ih ((keeps1_mk _ _).1 h1)
    next => exact h1
theorem loadScions_keeps_out {kb kz} (x : Seed) (l : List Sect) {s : State} (hK : Keeps kb kz s) {x0 s₁} (hE : loadScions x l s = (x0, s₁)) : Keeps kb kz s₁ := by
  have := loadScions_keeps (kb := kb) (kz := kz) x l  hK
  rw [hE] at this; exact this.out

theorem seedLoad_keeps {kb kz} (addr len : Nat) {s : State} (hK : Keeps kb kz s) : Keeps1 kb kz (seedLoad addr len s) := by
  unfold seedLoad
  (try dsimp only)
  with_reducible repeat' (first | (assumption) | (refine ite_keeps _ (fun _ => ?_) (fun _ => ?_)) | (refine (loadScions_keeps _ _ ?_).out) | (refine loadScions_keeps_out _ _ ?_ (by assumption)) | (refine modBoot_keeps _ ?_) | (refine setReg_keeps _ _ _ ?_) | (intro _) | (split) | (refine loadScions_keeps _ _ ?_) | (simp only [keeps_mk, keeps1_mk, keeps2_mk, keeps3_mk, keeps4_mk]))
theorem seedLoad_keeps_out {kb kz} (addr len : Nat) {s : State} (hK : Keeps kb kz s) {x0 s₁} (hE : seedLoad addr len s = (x0, s₁)) : Keeps kb kz s₁ := by
  have := seedLoad_keeps (kb := kb) (kz := kz) addr len  hK
  rw [hE] at this; exact this.out

theorem bootGraftWrite_keeps {kb kz} (v : Word) {s : State} (hK : Keeps kb kz s) : Keeps kb kz (bootGraftWrite v s) := by
  unfold bootGraftWrite
  (try dsimp only)
  with_reducible repeat' (first | (assumption) | (refine ite_keeps _ (fun _ => ?_) (fun _ => ?_)) | (refine setReg_keeps _ _ _ ?_) | (refine graftRequest_keeps _ _ _ _ _ ?_))

theorem regWrite_keeps {kb kz} (w : Who) (pg off : Nat) (v : Word) {s : State} (hK : Keeps kb kz s) : Keeps kb kz (regWrite w pg off v s) := by
  unfold regWrite
  with_reducible repeat' (first | (assumption) | (refine ite_keeps _ (fun _ => ?_) (fun _ => ?_)) | (refine bootGraftWrite_keeps _ ?_) | (refine regWriteBase_keeps _ _ _ _ ?_))

theorem execBootRomReady_keeps {kz} (trimBad : Bool) {s : State} (hK : Keeps false kz s) : ∃ s', execBootRomReady trimBad s = .next s' ∧ Keeps false kz s' := by
  unfold execBootRomReady
  refine ⟨_, rfl, ?_⟩
  with_reducible repeat' (first | (assumption) | (refine ite_keeps _ (fun _ => ?_) (fun _ => ?_)) | (refine bootReady_keeps _ ?_))

theorem execBootRxlenWrite_keeps {kb kz} (src : Fin 4) (v : Word) {s : State} (hK : Keeps kb kz s) : ∃ s', execBootRxlenWrite src v s = .next s' ∧ Keeps kb kz s' := by
  unfold execBootRxlenWrite
  refine ⟨_, rfl, ?_⟩
  with_reducible repeat' (first | (assumption) | (refine ite_keeps _ (fun _ => ?_) (fun _ => ?_)) | (refine rxlenWrite_keeps _ _ ?_))

theorem execSeedLoad_keeps {kb kz} (addr len : BitVec 32) {s : State} (hK : Keeps kb kz s) : ∃ s', execSeedLoad addr len s = .next s' ∧ Keeps kb kz s' := by
  unfold execSeedLoad
  refine ⟨_, rfl, ?_⟩
  (try dsimp only)
  with_reducible repeat' (first | (assumption) | (refine ite_keeps _ (fun _ => ?_) (fun _ => ?_)) | (refine adminDone_keeps _ _ _ _ ?_) | (refine (seedLoad_keeps _ _ ?_).out) | (refine seedLoad_keeps_out _ _ ?_ (by assumption)) | (refine setReg_keeps _ _ _ ?_) | (refine setGState_keeps _ ?_) | (refine setGResult_keeps _ ?_) | (refine setBootErr_keeps _ ?_))

theorem execGraft_keeps {kb kz} (scion tries : BitVec 8) (block : BitVec 24) {s : State} (hK : Keeps kb kz s) : ∃ s', execGraft scion tries block s = .next s' ∧ Keeps kb kz s' := by
  unfold execGraft
  refine ⟨_, rfl, ?_⟩
  with_reducible repeat' (first | (assumption) | (refine ite_keeps _ (fun _ => ?_) (fun _ => ?_)) | (refine adminDone_keeps _ _ _ _ ?_) | (refine graftRequest_keeps _ _ _ _ _ ?_))

theorem execBootGraftGo_keeps {kb kz} (w : Who) (v : Word) {s : State} (hK : Keeps kb kz s) : ∃ s', execBootGraftGo w v s = .next s' ∧ Keeps kb kz s' := by
  unfold execBootGraftGo
  refine ⟨_, rfl, ?_⟩
  with_reducible repeat' (first | (assumption) | (refine ite_keeps _ (fun _ => ?_) (fun _ => ?_)) | (refine gated_keeps _ _ _ _ ?_ ?_) | (refine regWrite_keeps _ _ _ _ ?_) | (refine setReg_keeps _ _ _ ?_) | (intro _))

/-! ## Machine/Phys.lean -/

theorem physRead_keeps {kb kz} (w : Who) (pa0 : Nat) (up : Upset) {s : State} (hK : Keeps kb kz s) : Keeps1 kb kz (physRead w pa0 up s) := by
  unfold physRead
  (try dsimp only)
  with_reducible repeat' (first | (assumption) | (refine ite_keeps _ (fun _ => ?_) (fun _ => ?_)) | (refine (regRead_keeps _ _ _ ?_).out) | (refine regRead_keeps_out _ _ _ ?_ (by assumption)) | (refine chainTake_keeps _ _ ?_) | (refine (memRead_keeps _ _ _ ?_).out) | (refine memRead_keeps_out _ _ _ ?_ (by assumption)) | (refine setReg_keeps _ _ _ ?_) | (intro _) | (split) | (refine regRead_keeps _ _ _ ?_) | (refine memRead_keeps _ _ _ ?_) | (simp only [keeps_mk, keeps1_mk, keeps2_mk, keeps3_mk, keeps4_mk]))
theorem physRead_keeps_out {kb kz} (w : Who) (pa0 : Nat) (up : Upset) {s : State} (hK : Keeps kb kz s) {x0 s₁} (hE : physRead w pa0 up s = (x0, s₁)) : Keeps kb kz s₁ := by
  have := physRead_keeps (kb := kb) (kz := kz) w pa0 up  hK
  rw [hE] at this; exact this.out

theorem physAsk_keeps {kb kz} (w : Who) (pa0 : Nat) {s : State} (hK : Keeps kb kz s) : Keeps kb kz (physAsk w pa0 s) := by
  unfold physAsk
  with_reducible repeat' (first | (assumption) | (refine ite_keeps _ (fun _ => ?_) (fun _ => ?_)) | (refine chainReadReq_keeps _ _ _ _ ?_) | (refine setReg_keeps _ _ _ ?_) | (intro _) | (split))

theorem physForget_keeps {kb kz} (w : Who) {s : State} (hK : Keeps kb kz s) : Keeps kb kz (physForget w s) := by
  unfold physForget
  with_reducible repeat' (first | (assumption) | (refine ite_keeps _ (fun _ => ?_) (fun _ => ?_)) | (refine setReg_keeps _ _ _ ?_) | (intro _) | (split) | (simp only [keeps_mk, keeps1_mk, keeps2_mk, keeps3_mk, keeps4_mk]) | (refine parts_of ?_))

theorem memStore_keeps {kb kz} (pa : Nat) (d : StoreData) {s : State} (hK : Keeps kb kz s) : Keeps kb kz (memStore pa d s) := by
  unfold memStore
  with_reducible repeat' (first | (assumption) | (refine ite_keeps _ (fun _ => ?_) (fun _ => ?_)) | (refine forAll_keeps _ _ ?_ ?_) | (refine memPut_keeps _ _ ?_) | (refine setReg_keeps _ _ _ ?_) | (intro _) | (split))

theorem memWrite_keeps {kb kz} (src pa : Nat) (d : StoreData) (up : Upset) {s : State} (hK : Keeps kb kz s) : Keeps1 kb kz (memWrite src pa d up s) := by
  unfold memWrite
  with_reducible repeat' (first | (assumption) | (refine ite_keeps _ (fun _ => ?_) (fun _ => ?_)) | (refine ueClear_keeps _ ?_) | (refine memStore_keeps _ _ ?_) | (refine (memRead_keeps _ _ _ ?_).out) | (refine memRead_keeps_out _ _ _ ?_ (by assumption)) | (refine setReg_keeps _ _ _ ?_) | (intro _) | (split) | (refine memRead_keeps _ _ _ ?_) | (simp only [keeps_mk, keeps1_mk, keeps2_mk, keeps3_mk, keeps4_mk]))
theorem memWrite_keeps_out {kb kz} (src pa : Nat) (d : StoreData) (up : Upset) {s : State} (hK : Keeps kb kz s) {x0 s₁} (hE : memWrite src pa d up s = (x0, s₁)) : Keeps kb kz s₁ := by
  have := memWrite_keeps (kb := kb) (kz := kz) src pa d up  hK
  rw [hE] at this; exact this.out

theorem chainWords_keeps {kb kz} (d : StoreData) {s : State} (hK : Keeps kb kz s) : Keeps1 kb kz (chainWords d s) := by
  unfold chainWords
  (try dsimp only)
  with_reducible repeat' (first | (assumption) | (refine ite_keeps _ (fun _ => ?_) (fun _ => ?_)) | (refine (drawWord_keeps ?_).out) | (refine drawWord_keeps_out ?_ (by assumption)) | (refine setReg_keeps _ _ _ ?_) | (intro _) | (split) | (refine drawWord_keeps ?_) | (simp only [keeps_mk, keeps1_mk, keeps2_mk, keeps3_mk, keeps4_mk]))
theorem chainWords_keeps_out {kb kz} (d : StoreData) {s : State} (hK : Keeps kb kz s) {x0 s₁} (hE : chainWords d s = (x0, s₁)) : Keeps kb kz s₁ := by
  have := chainWords_keeps (kb := kb) (kz := kz) d  hK
  rw [hE] at this; exact this.out

theorem physWrite_keeps {kb kz} (w : Who) (cls pa0 : Nat) (d : StoreData) (up : Upset) {s : State} (hK : Keeps kb kz s) : Keeps1 kb kz (physWrite w cls pa0 d up s) := by
  unfold physWrite
  (try dsimp only)
  with_reducible repeat' (first | (assumption) | (refine ite_keeps _ (fun _ => ?_) (fun _ => ?_)) | (refine forAll_keeps _ _ ?_ ?_) | (refine regWrite_keeps _ _ _ _ ?_) | (refine (chainWords_keeps _ ?_).out) | (refine chainWords_keeps_out _ ?_ (by assumption)) | (refine chainWriteReq_keeps _ _ _ _ ?_) | (refine (memWrite_keeps _ _ _ _ ?_).out) | (refine memWrite_keeps_out _ _ _ _ ?_ (by assumption)) | (refine setReg_keeps _ _ _ ?_) | (intro _) | (split) | (refine chainWords_keeps _ ?_) | (refine memWrite_keeps _ _ _ _ ?_) | (simp only [keeps_mk, keeps1_mk, keeps2_mk, keeps3_mk, keeps4_mk]))
theorem physWrite_keeps_out {kb kz} (w : Who) (cls pa0 : Nat) (d : StoreData) (up : Upset) {s : State} (hK : Keeps kb kz s) {x0 s₁} (hE : physWrite w cls pa0 d up s = (x0, s₁)) : Keeps kb kz s₁ := by
  have := physWrite_keeps (kb := kb) (kz := kz) w cls pa0 d up  hK
  rw [hE] at this; exact this.out

theorem fenceCount_keeps {kb kz}  {s : State} (hK : Keeps kb kz s) : Keeps kb kz (fenceCount s) := by
  unfold fenceCount
  with_reducible repeat' (first | (assumption) | (refine ite_keeps _ (fun _ => ?_) (fun _ => ?_)) | (refine bumpF_keeps _ _ _ _ _ ?_))

theorem outRead_keeps {kb kz} (w : Who) (pa0 : Nat) (up : Upset) {s : State} (hK : Keeps kb kz s) : Keeps1 kb kz (outRead w pa0 up s) := by
  unfold outRead
  (try dsimp only)
  with_reducible repeat' (first | (assumption) | (refine ite_keeps _ (fun _ => ?_) (fun _ => ?_)) | (refine fenceCount_keeps ?_) | (refine (physRead_keeps _ _ _ ?_).out) | (refine physRead_keeps_out _ _ _ ?_ (by assumption)) | (refine setReg_keeps _ _ _ ?_) | (intro _) | (split) | (refine physRead_keeps _ _ _ ?_) | (simp only [keeps_mk, keeps1_mk, keeps2_mk, keeps3_mk, keeps4_mk]))
theorem outRead_keeps_out {kb kz} (w : Who) (pa0 : Nat) (up : Upset) {s : State} (hK : Keeps kb kz s) {x0 s₁} (hE : outRead w pa0 up s = (x0, s₁)) : Keeps kb kz s₁ := by
  have := outRead_keeps (kb := kb) (kz := kz) w pa0 up  hK
  rw [hE] at this; exact this.out

theorem outWrite_keeps {kb kz} (w : Who) (pa0 : Nat) (v : Word) (up : Upset) {s : State} (hK : Keeps kb kz s) : Keeps1 kb kz (outWrite w pa0 v up s) := by
  unfold outWrite
  (try dsimp only)
  with_reducible repeat' (first | (assumption) | (refine ite_keeps _ (fun _ => ?_) (fun _ => ?_)) | (refine fenceCount_keeps ?_) | (refine (physWrite_keeps _ _ _ _ _ ?_).out) | (refine physWrite_keeps_out _ _ _ _ _ ?_ (by assumption)) | (refine setReg_keeps _ _ _ ?_) | (intro _) | (split) | (refine physWrite_keeps _ _ _ _ _ ?_) | (simp only [keeps_mk, keeps1_mk, keeps2_mk, keeps3_mk, keeps4_mk]))
theorem outWrite_keeps_out {kb kz} (w : Who) (pa0 : Nat) (v : Word) (up : Upset) {s : State} (hK : Keeps kb kz s) {x0 s₁} (hE : outWrite w pa0 v up s = (x0, s₁)) : Keeps kb kz s₁ := by
  have := outWrite_keeps (kb := kb) (kz := kz) w pa0 v up  hK
  rw [hE] at this; exact this.out

end Sys2Proof.Machine
end

