-- ==== Sys2Proof/Laws/KeepsTines.lean ====
section
/-! SUPPORT. Laws that say, operation by operation, that the canonical form, the queue and OTP are kept: the tine instructions and the retirement window. -/

namespace Sys2Proof.Machine

/-! ## Machine/TineMac.lean -/

theorem macWrite_keeps {kb kz} (t : Nat) (s0 : State) (ts : List Term) {s : State} (hK : Keeps kb kz s) : Keeps kb kz (macWrite t s0 ts s) := by
  unfold macWrite
  with_reducible repeat' (first | (assumption) | (refine ite_keeps _ (fun _ => ?_) (fun _ => ?_)) | (refine forAll_keeps _ _ ?_ ?_) | (refine setAcc_keeps _ _ _ ?_) | (refine setReg_keeps _ _ _ ?_) | (intro _))

theorem macRetire_keeps {kb kz} (t : TineNo) (ts : List Term) (len : Nat) {s : State} (hK : Keeps kb kz s) : Keeps kb kz (macRetire t ts len s) := by
  unfold macRetire
  with_reducible repeat' (first | (assumption) | (refine ite_keeps _ (fun _ => ?_) (fun _ => ?_)) | (refine retireSat_keeps _ _ _ ?_) | (refine macWrite_keeps _ _ _ ?_))

theorem execMacDual_keeps {kb kz} (t : TineNo) (fp : BitVec 2) (l0 l1 : Lane) {s : State} (hK : Keeps kb kz s) : ∃ s', execMacDual t fp l0 l1 s = .next s' ∧ Keeps kb kz s' := by
  unfold execMacDual
  refine ⟨_, rfl, ?_⟩
  with_reducible repeat' (first | (assumption) | (refine ite_keeps _ (fun _ => ?_) (fun _ => ?_)) | (refine issue_keeps _ _ _ ?_ ?_) | (refine macRetire_keeps _ _ _ ?_) | (refine illegal_keeps _ ?_) | (refine setReg_keeps _ _ _ ?_) | (intro _))

theorem execMacQuad_keeps {kb kz} (t : TineNo) (fp : BitVec 2) (p0 p1 : Pair) (gx gy gz gw : Gr) {s : State} (hK : Keeps kb kz s) : ∃ s', execMacQuad t fp p0 p1 gx gy gz gw s = .next s' ∧ Keeps kb kz s' := by
  unfold execMacQuad
  refine ⟨_, rfl, ?_⟩
  with_reducible repeat' (first | (assumption) | (refine ite_keeps _ (fun _ => ?_) (fun _ => ?_)) | (refine issue_keeps _ _ _ ?_ ?_) | (refine macRetire_keeps _ _ _ ?_) | (refine illegal_keeps _ ?_) | (refine setReg_keeps _ _ _ ?_) | (intro _))

theorem execMacC_keeps {kb kz} (t : TineNo) (op : MacOp) (an : Ar) (gx gy : Gr) (fp1 : Bool) {s : State} (hK : Keeps kb kz s) : ∃ s', execMacC t op an gx gy fp1 s = .next s' ∧ Keeps kb kz s' := by
  unfold execMacC
  refine ⟨_, rfl, ?_⟩
  with_reducible repeat' (first | (assumption) | (refine ite_keeps _ (fun _ => ?_) (fun _ => ?_)) | (refine issue_keeps _ _ _ ?_ ?_) | (refine illegal_keeps _ ?_) | (refine macRetire_keeps _ _ _ ?_) | (refine setReg_keeps _ _ _ ?_) | (intro _))

theorem accRetire_keeps {kb kz} (t : TineNo) (an : Ar) (v : Int) (len : Nat) {s : State} (hK : Keeps kb kz s) : Keeps kb kz (accRetire t an v len s) := by
  unfold accRetire
  with_reducible repeat' (first | (assumption) | (refine ite_keeps _ (fun _ => ?_) (fun _ => ?_)) | (refine retireSat_keeps _ _ _ ?_) | (refine setAcc_keeps _ _ _ ?_))

theorem execClra_keeps {kb kz} (t : TineNo) (f : AccForm) {s : State} (hK : Keeps kb kz s) : ∃ s', execClra t f s = .next s' ∧ Keeps kb kz s' := by
  unfold execClra
  refine ⟨_, rfl, ?_⟩
  with_reducible repeat' (first | (assumption) | (refine ite_keeps _ (fun _ => ?_) (fun _ => ?_)) | (refine issue_keeps _ _ _ ?_ ?_) | (refine accRetire_keeps _ _ _ _ ?_) | (refine setReg_keeps _ _ _ ?_) | (intro _))

theorem execNega_keeps {kb kz} (t : TineNo) (f : AccForm) {s : State} (hK : Keeps kb kz s) : ∃ s', execNega t f s = .next s' ∧ Keeps kb kz s' := by
  unfold execNega
  refine ⟨_, rfl, ?_⟩
  with_reducible repeat' (first | (assumption) | (refine ite_keeps _ (fun _ => ?_) (fun _ => ?_)) | (refine issue_keeps _ _ _ ?_ ?_) | (refine accRetire_keeps _ _ _ _ ?_) | (refine setReg_keeps _ _ _ ?_) | (intro _))

theorem execAbsa_keeps {kb kz} (t : TineNo) (f : AccForm) {s : State} (hK : Keeps kb kz s) : ∃ s', execAbsa t f s = .next s' ∧ Keeps kb kz s' := by
  unfold execAbsa
  refine ⟨_, rfl, ?_⟩
  with_reducible repeat' (first | (assumption) | (refine ite_keeps _ (fun _ => ?_) (fun _ => ?_)) | (refine issue_keeps _ _ _ ?_ ?_) | (refine accRetire_keeps _ _ _ _ ?_) | (refine setReg_keeps _ _ _ ?_) | (intro _))

theorem execLda_keeps {kb kz} (t : TineNo) (an : Ar) (g : Gr) (k : BitVec 8) {s : State} (hK : Keeps kb kz s) : ∃ s', execLda t an g k s = .next s' ∧ Keeps kb kz s' := by
  unfold execLda
  refine ⟨_, rfl, ?_⟩
  with_reducible repeat' (first | (assumption) | (refine ite_keeps _ (fun _ => ?_) (fun _ => ?_)) | (refine issue_keeps _ _ _ ?_ ?_) | (refine accRetire_keeps _ _ _ _ ?_) | (refine illegal_keeps _ ?_) | (refine setReg_keeps _ _ _ ?_) | (intro _))

theorem execAdda_keeps {kb kz} (t : TineNo) (an am : Ar) {s : State} (hK : Keeps kb kz s) : ∃ s', execAdda t an am s = .next s' ∧ Keeps kb kz s' := by
  unfold execAdda
  refine ⟨_, rfl, ?_⟩
  with_reducible repeat' (first | (assumption) | (refine ite_keeps _ (fun _ => ?_) (fun _ => ?_)) | (refine issue_keeps _ _ _ ?_ ?_) | (refine accRetire_keeps _ _ _ _ ?_) | (refine setReg_keeps _ _ _ ?_) | (intro _))

theorem execSuba_keeps {kb kz} (t : TineNo) (an am : Ar) {s : State} (hK : Keeps kb kz s) : ∃ s', execSuba t an am s = .next s' ∧ Keeps kb kz s' := by
  unfold execSuba
  refine ⟨_, rfl, ?_⟩
  with_reducible repeat' (first | (assumption) | (refine ite_keeps _ (fun _ => ?_) (fun _ => ?_)) | (refine issue_keeps _ _ _ ?_ ?_) | (refine accRetire_keeps _ _ _ _ ?_) | (refine setReg_keeps _ _ _ ?_) | (intro _))

theorem execAsha_keeps {kb kz} (t : TineNo) (an : Ar) (k : BitVec 8) {s : State} (hK : Keeps kb kz s) : ∃ s', execAsha t an k s = .next s' ∧ Keeps kb kz s' := by
  unfold execAsha
  refine ⟨_, rfl, ?_⟩
  with_reducible repeat' (first | (assumption) | (refine ite_keeps _ (fun _ => ?_) (fun _ => ?_)) | (refine issue_keeps _ _ _ ?_ ?_) | (refine accRetire_keeps _ _ _ _ ?_) | (refine illegal_keeps _ ?_) | (refine setReg_keeps _ _ _ ?_) | (intro _))

theorem execNorma_keeps {kb kz} (t : TineNo) (g : Gr) (an : Ar) {s : State} (hK : Keeps kb kz s) : ∃ s', execNorma t g an s = .next s' ∧ Keeps kb kz s' := by
  unfold execNorma
  refine ⟨_, rfl, ?_⟩
  with_reducible repeat' (first | (assumption) | (refine ite_keeps _ (fun _ => ?_) (fun _ => ?_)) | (refine issue_keeps _ _ _ ?_ ?_) | (refine aluRetire_keeps _ _ _ _ ?_) | (refine setReg_keeps _ _ _ ?_) | (intro _))

theorem dithered_keeps {kb kz} (code : Nat) (t : Nat) {s : State} (hK : Keeps kb kz s) : Keeps2 kb kz (dithered code t s) := by
  unfold dithered
  (try dsimp only)
  with_reducible repeat' (first | (assumption) | (refine ite_keeps _ (fun _ => ?_) (fun _ => ?_)) | (refine setRegF_keeps _ _ _ _ _ ?_) | (refine setReg_keeps _ _ _ ?_) | (intro _) | (split) | (simp only [keeps_mk, keeps1_mk, keeps2_mk, keeps3_mk, keeps4_mk]))
theorem dithered_keeps_out {kb kz} (code : Nat) (t : Nat) {s : State} (hK : Keeps kb kz s) {x0 x1 s₁} (hE : dithered code t s = (x0, x1, s₁)) : Keeps kb kz s₁ := by
  have := dithered_keeps (kb := kb) (kz := kz) code t  hK
  rw [hE] at this; exact this.out

theorem writeBack_keeps {kb kz} (t : Nat) (an : Ar) (xs code w : Nat) {s : State} (hK : Keeps kb kz s) : Keeps2 kb kz (writeBack t an xs code w s) := by
  unfold writeBack
  (try dsimp only)
  with_reducible repeat' (first | (assumption) | (refine ite_keeps _ (fun _ => ?_) (fun _ => ?_)) | (refine (dithered_keeps _ _ ?_).out) | (refine dithered_keeps_out _ _ ?_ (by assumption)) | (refine setReg_keeps _ _ _ ?_) | (intro _) | (split) | (refine dithered_keeps _ _ ?_) | (simp only [keeps_mk, keeps1_mk, keeps2_mk, keeps3_mk, keeps4_mk]))
theorem writeBack_keeps_out {kb kz} (t : Nat) (an : Ar) (xs code w : Nat) {s : State} (hK : Keeps kb kz s) {x0 x1 s₁} (hE : writeBack t an xs code w s = (x0, x1, s₁)) : Keeps kb kz s₁ := by
  have := writeBack_keeps (kb := kb) (kz := kz) t an xs code w  hK
  rw [hE] at this; exact this.out

theorem wbInstr_keeps {kb kz} (i : Instr) (w : Nat) (t : TineNo) (gd : Gr) (an : Ar) (xs : BitVec 6) (code : BitVec 3) {s : State} (hK : Keeps kb kz s) : Keeps kb kz (wbInstr i w t gd an xs code s) := by
  unfold wbInstr
  (try dsimp only)
  with_reducible repeat' (first | (assumption) | (refine ite_keeps _ (fun _ => ?_) (fun _ => ?_)) | (refine issue_keeps _ _ _ ?_ ?_) | (refine illegal_keeps _ ?_) | (refine (writeBack_keeps _ _ _ _ _ ?_).out) | (refine writeBack_keeps_out _ _ _ _ _ ?_ (by assumption)) | (refine retireSat_keeps _ _ _ ?_) | (refine setG_keeps _ _ _ ?_) | (refine setReg_keeps _ _ _ ?_) | (intro _))

theorem execWba_keeps {kb kz} (t : TineNo) (gd : Gr) (an : Ar) (xs : BitVec 6) (code : BitVec 3) {s : State} (hK : Keeps kb kz s) : ∃ s', execWba t gd an xs code s = .next s' ∧ Keeps kb kz s' := by
  unfold execWba
  refine ⟨_, rfl, ?_⟩
  with_reducible repeat' (first | (assumption) | (refine ite_keeps _ (fun _ => ?_) (fun _ => ?_)) | (refine wbInstr_keeps _ _ _ _ _ _ _ ?_))

theorem execWbaH_keeps {kb kz} (t : TineNo) (gd : Gr) (an : Ar) (xs : BitVec 6) (code : BitVec 3) {s : State} (hK : Keeps kb kz s) : ∃ s', execWbaH t gd an xs code s = .next s' ∧ Keeps kb kz s' := by
  unfold execWbaH
  refine ⟨_, rfl, ?_⟩
  with_reducible repeat' (first | (assumption) | (refine ite_keeps _ (fun _ => ?_) (fun _ => ?_)) | (refine wbInstr_keeps _ _ _ _ _ _ _ ?_))

theorem execWbaD_keeps {kb kz} (t : TineNo) (gd : Gr) (an : Ar) (xs : BitVec 6) (code : BitVec 3) {s : State} (hK : Keeps kb kz s) : ∃ s', execWbaD t gd an xs code s = .next s' ∧ Keeps kb kz s' := by
  unfold execWbaD
  refine ⟨_, rfl, ?_⟩
  (try dsimp only)
  with_reducible repeat' (first | (assumption) | (refine ite_keeps _ (fun _ => ?_) (fun _ => ?_)) | (refine issue_keeps _ _ _ ?_ ?_) | (refine illegal_keeps _ ?_) | (refine retireSat_keeps _ _ _ ?_) | (refine setG_keeps _ _ _ ?_) | (refine setReg_keeps _ _ _ ?_) | (intro _))

/-! ## Machine/TineControl.lean -/

theorem execBr_keeps {kb kz} (t : TineNo) (off : BitVec 15) {s : State} (hK : Keeps kb kz s) : ∃ s', execBr t off s = .next s' ∧ Keeps kb kz s' := by
  unfold execBr
  refine ⟨_, rfl, ?_⟩
  with_reducible repeat' (first | (assumption) | (refine ite_keeps _ (fun _ => ?_) (fun _ => ?_)) | (refine issue_keeps _ _ _ ?_ ?_) | (refine retireTo_keeps _ _ ?_) | (refine setReg_keeps _ _ _ ?_) | (intro _))

theorem execBrc_keeps {kb kz} (t : TineNo) (f : BrcForm) {s : State} (hK : Keeps kb kz s) : ∃ s', execBrc t f s = .next s' ∧ Keeps kb kz s' := by
  unfold execBrc
  refine ⟨_, rfl, ?_⟩
  with_reducible repeat' (first | (assumption) | (refine ite_keeps _ (fun _ => ?_) (fun _ => ?_)) | (refine issue_keeps _ _ _ ?_ ?_) | (refine illegal_keeps _ ?_) | (refine retireTo_keeps _ _ ?_) | (refine retire_keeps _ _ ?_) | (refine setReg_keeps _ _ _ ?_) | (intro _) | (split))

theorem execJmp_keeps {kb kz} (t : TineNo) (ga : Gr) {s : State} (hK : Keeps kb kz s) : ∃ s', execJmp t ga s = .next s' ∧ Keeps kb kz s' := by
  unfold execJmp
  refine ⟨_, rfl, ?_⟩
  with_reducible repeat' (first | (assumption) | (refine ite_keeps _ (fun _ => ?_) (fun _ => ?_)) | (refine issue_keeps _ _ _ ?_ ?_) | (refine retireTo_keeps _ _ ?_) | (refine setReg_keeps _ _ _ ?_) | (intro _))

theorem execCall_keeps {kb kz} (t : TineNo) (f : CallForm) {s : State} (hK : Keeps kb kz s) : ∃ s', execCall t f s = .next s' ∧ Keeps kb kz s' := by
  unfold execCall
  refine ⟨_, rfl, ?_⟩
  with_reducible repeat' (first | (assumption) | (refine ite_keeps _ (fun _ => ?_) (fun _ => ?_)) | (refine issue_keeps _ _ _ ?_ ?_) | (refine retireTo_keeps _ _ ?_) | (refine setG_keeps _ _ _ ?_) | (refine setReg_keeps _ _ _ ?_) | (intro _) | (split))

theorem execNop_keeps {kb kz} (t : TineNo) {s : State} (hK : Keeps kb kz s) : ∃ s', execNop t s = .next s' ∧ Keeps kb kz s' := by
  unfold execNop
  refine ⟨_, rfl, ?_⟩
  with_reducible repeat' (first | (assumption) | (refine ite_keeps _ (fun _ => ?_) (fun _ => ?_)) | (refine issue_keeps _ _ _ ?_ ?_) | (refine retire_keeps _ _ ?_) | (refine setReg_keeps _ _ _ ?_) | (intro _))

theorem execWait_keeps {kb kz} (t : TineNo) {s : State} (hK : Keeps kb kz s) : ∃ s', execWait t s = .next s' ∧ Keeps kb kz s' := by
  unfold execWait
  refine ⟨_, rfl, ?_⟩
  with_reducible repeat' (first | (assumption) | (refine ite_keeps _ (fun _ => ?_) (fun _ => ?_)) | (refine issue_keeps _ _ _ ?_ ?_) | (refine haltHeld_keeps _ ?_) | (refine sieveUpdate_keeps _ ?_) | (refine modTine_keeps _ _ ?_) | (refine setReg_keeps _ _ _ ?_) | (intro _))

theorem openCloche_keeps {kb kz} (t n : Nat) {s : State} (hK : Keeps kb kz s) : Keeps kb kz (openCloche t n s) := by
  unfold openCloche
  with_reducible repeat' (first | (assumption) | (refine ite_keeps _ (fun _ => ?_) (fun _ => ?_)) | (refine setReg_keeps _ _ _ ?_))

theorem execCloche_keeps {kb kz} (t : TineNo) (nM1 : BitVec 6) {s : State} (hK : Keeps kb kz s) : ∃ s', execCloche t nM1 s = .next s' ∧ Keeps kb kz s' := by
  unfold execCloche
  refine ⟨_, rfl, ?_⟩
  (try dsimp only)
  with_reducible repeat' (first | (assumption) | (refine ite_keeps _ (fun _ => ?_) (fun _ => ?_)) | (refine issue_keeps _ _ _ ?_ ?_) | (refine retireEnd_keeps _ _ ?_) | (refine advance_keeps _ _ ?_) | (refine openCloche_keeps _ _ ?_) | (refine setReg_keeps _ _ _ ?_) | (intro _))

theorem execSysc_keeps {kb kz} (t : TineNo) (code : BitVec 8) {s : State} (hK : Keeps kb kz s) : ∃ s', execSysc t code s = .next s' ∧ Keeps kb kz s' := by
  unfold execSysc
  refine ⟨_, rfl, ?_⟩
  (try dsimp only)
  with_reducible repeat' (first | (assumption) | (refine ite_keeps _ (fun _ => ?_) (fun _ => ?_)) | (refine issue_keeps _ _ _ ?_ ?_) | (refine retire_keeps _ _ ?_) | (refine recordFault_keeps _ _ ?_) | (refine setReg_keeps _ _ _ ?_) | (intro _))

theorem execBkpt_keeps {kb kz} (t : TineNo) {s : State} (hK : Keeps kb kz s) : ∃ s', execBkpt t s = .next s' ∧ Keeps kb kz s' := by
  unfold execBkpt
  refine ⟨_, rfl, ?_⟩
  (try dsimp only)
  with_reducible repeat' (first | (assumption) | (refine ite_keeps _ (fun _ => ?_) (fun _ => ?_)) | (refine issue_keeps _ _ _ ?_ ?_) | (refine retire_keeps _ _ ?_) | (refine haltNow_keeps _ _ ?_) | (refine setReg_keeps _ _ _ ?_) | (intro _) | (split))

theorem execMfc_keeps {kb kz} (t : TineNo) (g : Gr) (n : BitVec 10) {s : State} (hK : Keeps kb kz s) : ∃ s', execMfc t g n s = .next s' ∧ Keeps kb kz s' := by
  unfold execMfc
  refine ⟨_, rfl, ?_⟩
  with_reducible repeat' (first | (assumption) | (refine ite_keeps _ (fun _ => ?_) (fun _ => ?_)) | (refine issue_keeps _ _ _ ?_ ?_) | (refine privFault_keeps _ ?_) | (refine retire_keeps _ _ ?_) | (refine setG_keeps _ _ _ ?_) | (refine setReg_keeps _ _ _ ?_) | (intro _))

theorem execMtc_keeps {kb kz} (t : TineNo) (g : Gr) (n : BitVec 10) {s : State} (hK : Keeps kb kz s) : ∃ s', execMtc t g n s = .next s' ∧ Keeps kb kz s' := by
  unfold execMtc
  refine ⟨_, rfl, ?_⟩
  with_reducible repeat' (first | (assumption) | (refine ite_keeps _ (fun _ => ?_) (fun _ => ?_)) | (refine issue_keeps _ _ _ ?_ ?_) | (refine privFault_keeps _ ?_) | (refine retire_keeps _ _ ?_) | (refine ctlWrite_keeps _ _ _ ?_) | (refine setReg_keeps _ _ _ ?_) | (intro _))

theorem startRep_keeps {kb kz} (t : TineNo) (n : Nat) (u : Bool) (len : Nat) {s : State} (hK : Keeps kb kz s) : Keeps kb kz (startRep t n u len s) := by
  unfold startRep
  (try dsimp only)
  with_reducible repeat' (first | (assumption) | (refine ite_keeps _ (fun _ => ?_) (fun _ => ?_)) | (refine illegal_keeps _ ?_) | (refine setReg_keeps _ _ _ ?_) | (refine openCloche_keeps _ _ ?_) | (refine modTine_keeps _ _ ?_) | (refine retireEnd_keeps _ _ ?_) | (refine setPc_keeps _ _ ?_))

theorem execRep_keeps {kb kz} (t : TineNo) (nM1 : BitVec 12) {s : State} (hK : Keeps kb kz s) : ∃ s', execRep t nM1 s = .next s' ∧ Keeps kb kz s' := by
  unfold execRep
  refine ⟨_, rfl, ?_⟩
  with_reducible repeat' (first | (assumption) | (refine ite_keeps _ (fun _ => ?_) (fun _ => ?_)) | (refine issue_keeps _ _ _ ?_ ?_) | (refine startRep_keeps _ _ _ _ ?_) | (refine setReg_keeps _ _ _ ?_) | (intro _))

theorem execRepu_keeps {kb kz} (t : TineNo) (nM1 : BitVec 12) {s : State} (hK : Keeps kb kz s) : ∃ s', execRepu t nM1 s = .next s' ∧ Keeps kb kz s' := by
  unfold execRepu
  refine ⟨_, rfl, ?_⟩
  with_reducible repeat' (first | (assumption) | (refine ite_keeps _ (fun _ => ?_) (fun _ => ?_)) | (refine issue_keeps _ _ _ ?_ ?_) | (refine illegal_keeps _ ?_) | (refine startRep_keeps _ _ _ _ ?_) | (refine setReg_keeps _ _ _ ?_) | (intro _))

theorem execRepr_keeps {kb kz} (t : TineNo) (gs : Gr) (u : Bool) {s : State} (hK : Keeps kb kz s) : ∃ s', execRepr t gs u s = .next s' ∧ Keeps kb kz s' := by
  unfold execRepr
  refine ⟨_, rfl, ?_⟩
  (try dsimp only)
  with_reducible repeat' (first | (assumption) | (refine ite_keeps _ (fun _ => ?_) (fun _ => ?_)) | (refine issue_keeps _ _ _ ?_ ?_) | (refine illegal_keeps _ ?_) | (refine startRep_keeps _ _ _ _ ?_) | (refine (loopTest_keeps _ _ _ ?_).out) | (refine loopTest_keeps_out _ _ _ ?_ (by assumption)) | (refine retireEnd_keeps _ _ ?_) | (refine setPc_keeps _ _ ?_) | (refine setReg_keeps _ _ _ ?_) | (intro _))

theorem startLoop_keeps {kb kz} (t : TineNo) (c : Word) (e : BitVec 13) {s : State} (hK : Keeps kb kz s) : Keeps kb kz (startLoop t c e s) := by
  unfold startLoop
  (try dsimp only)
  with_reducible repeat' (first | (assumption) | (refine ite_keeps _ (fun _ => ?_) (fun _ => ?_)) | (refine illegal_keeps _ ?_) | (refine retireTo_keeps _ _ ?_) | (refine recordFault_keeps _ _ ?_) | (refine setReg_keeps _ _ _ ?_) | (refine retire_keeps _ _ ?_) | (refine setRegF_keeps _ _ _ _ _ ?_))

theorem execLoop_keeps {kb kz} (t : TineNo) (count : BitVec 16) (e : BitVec 13) {s : State} (hK : Keeps kb kz s) : ∃ s', execLoop t count e s = .next s' ∧ Keeps kb kz s' := by
  unfold execLoop
  refine ⟨_, rfl, ?_⟩
  with_reducible repeat' (first | (assumption) | (refine ite_keeps _ (fun _ => ?_) (fun _ => ?_)) | (refine issue_keeps _ _ _ ?_ ?_) | (refine startLoop_keeps _ _ _ ?_) | (refine setReg_keeps _ _ _ ?_) | (intro _))

theorem execLoopr_keeps {kb kz} (t : TineNo) (gs : Gr) (e : BitVec 13) {s : State} (hK : Keeps kb kz s) : ∃ s', execLoopr t gs e s = .next s' ∧ Keeps kb kz s' := by
  unfold execLoopr
  refine ⟨_, rfl, ?_⟩
  with_reducible repeat' (first | (assumption) | (refine ite_keeps _ (fun _ => ?_) (fun _ => ?_)) | (refine issue_keeps _ _ _ ?_ ?_) | (refine startLoop_keeps _ _ _ ?_) | (refine setReg_keeps _ _ _ ?_) | (intro _))

theorem execEndl_keeps {kb kz} (t : TineNo) {s : State} (hK : Keeps kb kz s) : ∃ s', execEndl t s = .next s' ∧ Keeps kb kz s' := by
  unfold execEndl
  refine ⟨_, rfl, ?_⟩
  (try dsimp only)
  with_reducible repeat' (first | (assumption) | (refine ite_keeps _ (fun _ => ?_) (fun _ => ?_)) | (refine issue_keeps _ _ _ ?_ ?_) | (refine setRegF_keeps _ _ _ _ _ ?_) | (refine retire_keeps _ _ ?_) | (refine setReg_keeps _ _ _ ?_) | (intro _))

theorem retxRestore_keeps {kb kz} (t k : Nat) (new : Word) {s : State} (hK : Keeps kb kz s) : Keeps kb kz (retxRestore t k new s) := by
  unfold retxRestore
  (try dsimp only)
  with_reducible repeat' (first | (assumption) | (refine ite_keeps _ (fun _ => ?_) (fun _ => ?_)) | (refine setReg_keeps _ _ _ ?_) | (refine alive_keeps _ ?_) | (refine wrapF_keeps _ _ _ _ _ ?_) | (refine sieveUpdate_keeps _ ?_) | (refine haltCheck_keeps _ ?_) | (refine modTine_keeps _ _ ?_))

theorem chainEntry_keeps {kb kz} (t k n : Nat) (up upF upD : Upset) (latency : Nat) {s : State} (hK : Keeps kb kz s) : Keeps kb kz (chainEntry t k n up upF upD latency s) := by
  unfold chainEntry
  (try dsimp only)
  with_reducible repeat' (first | (assumption) | (refine ite_keeps _ (fun _ => ?_) (fun _ => ?_)) | (refine (vectorRead_keeps _ _ _ _ ?_).out) | (refine vectorRead_keeps_out _ _ _ _ ?_ (by assumption)) | (refine alive_keeps _ ?_) | (refine wrapF_keeps _ _ _ _ _ ?_) | (refine latencyGauge_keeps _ _ ?_) | (refine commitEntry_keeps _ _ _ _ _ _ ?_) | (refine takeFault_keeps _ _ _ _ _ _ _ ?_) | (refine setPend_keeps _ _ _ ?_) | (refine setReg_keeps _ _ _ ?_) | (intro _) | (split))

theorem execRetx_keeps {kb kz} (t : TineNo) (up upF upD : Upset) (latency : Nat) {s : State} (hK : Keeps kb kz s) : ∃ s', execRetx t up upF upD latency s = .next s' ∧ Keeps kb kz s' := by
  unfold execRetx
  refine ⟨_, rfl, ?_⟩
  (try dsimp only)
  with_reducible repeat' (first | (assumption) | (refine ite_keeps _ (fun _ => ?_) (fun _ => ?_)) | (refine issue_keeps _ _ _ ?_ ?_) | (refine privFault_keeps _ ?_) | (refine (drawWord_keeps ?_).out) | (refine drawWord_keeps_out ?_ (by assumption)) | (refine recordFault_keeps _ _ ?_) | (refine chainEntry_keeps _ _ _ _ _ _ _ ?_) | (refine retxRestore_keeps _ _ _ ?_) | (refine setReg_keeps _ _ _ ?_) | (intro _) | (split))

theorem takeRecorded_keeps {kb kz} (t : TineNo) (f : FaultRec) (upF upD : Upset) {s : State} (hK : Keeps kb kz s) : Keeps kb kz (takeRecorded t f upF upD s) := by
  unfold takeRecorded
  with_reducible repeat' (first | (assumption) | (refine ite_keeps _ (fun _ => ?_) (fun _ => ?_)) | (refine takeFault_keeps _ _ _ _ _ _ _ ?_))

theorem takeDrain_keeps {kb kz} (t : TineNo) (pa : Nat) (upF upD : Upset) {s : State} (hK : Keeps kb kz s) : Keeps kb kz (takeDrain t pa upF upD s) := by
  unfold takeDrain
  (try dsimp only)
  with_reducible repeat' (first | (assumption) | (refine ite_keeps _ (fun _ => ?_) (fun _ => ?_)) | (refine modTine_keeps _ _ ?_) | (refine abandon_keeps _ ?_) | (refine takeFault_keeps _ _ _ _ _ _ _ ?_))

theorem fetchFault_keeps {kb kz} (t : TineNo) (up upF upD : Upset) {s : State} (hK : Keeps kb kz s) : Keeps kb kz (fetchFault t up upF upD s) := by
  unfold fetchFault
  (try dsimp only)
  with_reducible repeat' (first | (assumption) | (refine ite_keeps _ (fun _ => ?_) (fun _ => ?_)) | (refine (memRead_keeps _ _ _ ?_).out) | (refine memRead_keeps_out _ _ _ ?_ (by assumption)) | (refine takeRecorded_keeps _ _ _ _ ?_) | (refine setReg_keeps _ _ _ ?_) | (intro _) | (split))

theorem execFaultEntry_keeps {kb kz} (t : TineNo) (up upF upD : Upset) {s : State} (hK : Keeps kb kz s) : ∃ s', execFaultEntry t up upF upD s = .next s' ∧ Keeps kb kz s' := by
  unfold execFaultEntry
  refine ⟨_, rfl, ?_⟩
  (try dsimp only)
  with_reducible repeat' (first | (assumption) | (refine ite_keeps _ (fun _ => ?_) (fun _ => ?_)) | (refine takeRecorded_keeps _ _ _ _ ?_) | (refine takeDrain_keeps _ _ _ _ ?_) | (refine fetchFault_keeps _ _ _ _ ?_) | (refine setReg_keeps _ _ _ ?_) | (intro _) | (split))

theorem execHandlerEntry_keeps {kb kz} (t : TineNo) (up upF upD : Upset) (latency : Nat) {s : State} (hK : Keeps kb kz s) : ∃ s', execHandlerEntry t up upF upD latency s = .next s' ∧ Keeps kb kz s' := by
  unfold execHandlerEntry
  refine ⟨_, rfl, ?_⟩
  with_reducible repeat' (first | (assumption) | (refine ite_keeps _ (fun _ => ?_) (fun _ => ?_)) | (refine entryCommit_keeps _ _ _ _ _ ?_))

theorem execSieveArrival_keeps {kb kz} (t : TineNo) (n : Fin 64) {s : State} (hK : Keeps kb kz s) : ∃ s', execSieveArrival t n s = .next s' ∧ Keeps kb kz s' := by
  unfold execSieveArrival
  refine ⟨_, rfl, ?_⟩
  with_reducible repeat' (first | (assumption) | (refine ite_keeps _ (fun _ => ?_) (fun _ => ?_)) | (refine raise_keeps _ _ ?_))

theorem tineCmdWrite_keeps {kb kz} (w : Who) (t off : Nat) (v : Word) {s : State} (hK : Keeps kb kz s) : Keeps kb kz (tineCmdWrite w t off v s) := by
  unfold tineCmdWrite
  with_reducible repeat' (first | (assumption) | (refine ite_keeps _ (fun _ => ?_) (fun _ => ?_)) | (refine privFault_keeps _ ?_) | (refine ctlWrite_keeps _ _ _ ?_) | (refine gated_keeps _ _ _ _ ?_ ?_) | (refine tinePageWrite_keeps _ _ _ _ ?_) | (refine setReg_keeps _ _ _ ?_) | (intro _))

theorem execSieveEoi_keeps {kb kz} (w : Who) (t : TineNo) (v : Word) {s : State} (hK : Keeps kb kz s) : ∃ s', execSieveEoi w t v s = .next s' ∧ Keeps kb kz s' := by
  unfold execSieveEoi
  refine ⟨_, rfl, ?_⟩
  with_reducible repeat' (first | (assumption) | (refine ite_keeps _ (fun _ => ?_) (fun _ => ?_)) | (refine tineCmdWrite_keeps _ _ _ _ ?_))

theorem execSieveClrpend_keeps {kb kz} (w : Who) (t : TineNo) (v : Word) {s : State} (hK : Keeps kb kz s) : ∃ s', execSieveClrpend w t v s = .next s' ∧ Keeps kb kz s' := by
  unfold execSieveClrpend
  refine ⟨_, rfl, ?_⟩
  with_reducible repeat' (first | (assumption) | (refine ite_keeps _ (fun _ => ?_) (fun _ => ?_)) | (refine tineCmdWrite_keeps _ _ _ _ ?_))

theorem execSieveRaise_keeps {kb kz} (w : Who) (t : TineNo) (v : Word) {s : State} (hK : Keeps kb kz s) : ∃ s', execSieveRaise w t v s = .next s' ∧ Keeps kb kz s' := by
  unfold execSieveRaise
  refine ⟨_, rfl, ?_⟩
  with_reducible repeat' (first | (assumption) | (refine ite_keeps _ (fun _ => ?_) (fun _ => ?_)) | (refine tineCmdWrite_keeps _ _ _ _ ?_))

theorem execSieveCfgWrite_keeps {kb kz} (w : Who) (t : TineNo) (n : Fin 64) (v : Word) {s : State} (hK : Keeps kb kz s) : ∃ s', execSieveCfgWrite w t n v s = .next s' ∧ Keeps kb kz s' := by
  unfold execSieveCfgWrite
  refine ⟨_, rfl, ?_⟩
  with_reducible repeat' (first | (assumption) | (refine ite_keeps _ (fun _ => ?_) (fun _ => ?_)) | (refine tineCmdWrite_keeps _ _ _ _ ?_))

theorem execSieveTmrCmpWrite_keeps {kb kz} (w : Who) (t : TineNo) (v : Word) {s : State} (hK : Keeps kb kz s) : ∃ s', execSieveTmrCmpWrite w t v s = .next s' ∧ Keeps kb kz s' := by
  unfold execSieveTmrCmpWrite
  refine ⟨_, rfl, ?_⟩
  with_reducible repeat' (first | (assumption) | (refine ite_keeps _ (fun _ => ?_) (fun _ => ?_)) | (refine tineCmdWrite_keeps _ _ _ _ ?_))

theorem execDitherStateWrite_keeps {kb kz} (w : Who) (t : TineNo) (b : Bool) (v : Word) {s : State} (hK : Keeps kb kz s) : ∃ s', execDitherStateWrite w t b v s = .next s' ∧ Keeps kb kz s' := by
  unfold execDitherStateWrite
  refine ⟨_, rfl, ?_⟩
  with_reducible repeat' (first | (assumption) | (refine ite_keeps _ (fun _ => ?_) (fun _ => ?_)) | (refine tineCmdWrite_keeps _ _ _ _ ?_))

theorem execClrE_keeps {kb kz} (w : Who) (t : TineNo) (n : Ar) (v : Word) {s : State} (hK : Keeps kb kz s) : ∃ s', execClrE w t n v s = .next s' ∧ Keeps kb kz s' := by
  unfold execClrE
  refine ⟨_, rfl, ?_⟩
  with_reducible repeat' (first | (assumption) | (refine ite_keeps _ (fun _ => ?_) (fun _ => ?_)) | (refine tineCmdWrite_keeps _ _ _ _ ?_))

theorem execHoldOffEnd_keeps {kb kz} (t : TineNo) (n : Fin 64) {s : State} (hK : Keeps kb kz s) : ∃ s', execHoldOffEnd t n s = .next s' ∧ Keeps kb kz s' := by
  unfold execHoldOffEnd
  refine ⟨_, rfl, ?_⟩
  with_reducible repeat' (first | (assumption) | (refine ite_keeps _ (fun _ => ?_) (fun _ => ?_)) | (refine sieveUpdate_keeps _ ?_) | (refine modTine_keeps _ _ ?_))

theorem execTimerCompare_keeps {kb kz} (t : TineNo) {s : State} (hK : Keeps kb kz s) : ∃ s', execTimerCompare t s = .next s' ∧ Keeps kb kz s' := by
  unfold execTimerCompare
  refine ⟨_, rfl, ?_⟩
  with_reducible repeat' (first | (assumption) | (refine ite_keeps _ (fun _ => ?_) (fun _ => ?_)) | (refine tmrFire_keeps _ ?_))

theorem execNursLockTineClr_keeps {kb kz} (w : Who) (v : Word) {s : State} (hK : Keeps kb kz s) : ∃ s', execNursLockTineClr w v s = .next s' ∧ Keeps kb kz s' := by
  unfold execNursLockTineClr
  refine ⟨_, rfl, ?_⟩
  with_reducible repeat' (first | (assumption) | (refine ite_keeps _ (fun _ => ?_) (fun _ => ?_)) | (refine gated_keeps _ _ _ _ ?_ ?_) | (refine lockClr_keeps ?_) | (refine setReg_keeps _ _ _ ?_) | (intro _))

/-! ## Machine/TineMem.lean -/

theorem xlatWords_keeps {kb kz} (t : Nat) (a : Acc) (vas : List Nat) {s : State} (hK : Keeps kb kz s) : Keeps1 kb kz (xlatWords t a vas s) := by
  revert hK
  fun_induction xlatWords t a vas s <;> intro hK <;> (try dsimp only) <;> with_reducible repeat' (first | (assumption) | (refine ite_keeps _ (fun _ => ?_) (fun _ => ?_)) | (refine (tineXlat_keeps _ _ _ ?_).out) | (refine tineXlat_keeps_out _ _ _ ?_ (by assumption)) | (refine setReg_keeps _ _ _ ?_) | (apply_assumption) | (refine Keeps1.of ?_ (by assumption)) | (refine Keeps2.of ?_ (by assumption)) | (intro _) | (split) | (refine tineXlat_keeps _ _ _ ?_) | (simp only [keeps_mk, keeps1_mk, keeps2_mk, keeps3_mk, keeps4_mk]))
theorem xlatWords_keeps_out {kb kz} (t : Nat) (a : Acc) (vas : List Nat) {s : State} (hK : Keeps kb kz s) {x0 s₁} (hE : xlatWords t a vas s = (x0, s₁)) : Keeps kb kz s₁ := by
  have := xlatWords_keeps (kb := kb) (kz := kz) t a vas  hK
  rw [hE] at this; exact this.out

theorem doUpds_keeps {kb kz} (t : Nat) (upds : List (Gr × Word)) {s : State} (hK : Keeps kb kz s) : Keeps kb kz (doUpds t upds s) := by
  unfold doUpds
  with_reducible repeat' (first | (assumption) | (refine ite_keeps _ (fun _ => ?_) (fun _ => ?_)) | (refine forAll_keeps _ _ ?_ ?_) | (refine setG_keeps _ _ _ ?_) | (refine setReg_keeps _ _ _ ?_) | (intro _))

theorem loadDone_keeps {kb kz} (t : TineNo) (k : LoadKind) (srcs : List LSrc) (ws : List Word) (upds : List (Gr × Word)) (len : Nat) (f2 : Option FaultRec) {s : State} (hK : Keeps kb kz s) : Keeps kb kz (loadDone t k srcs ws upds len f2 s) := by
  unfold loadDone
  (try dsimp only)
  with_reducible repeat' (first | (assumption) | (refine ite_keeps _ (fun _ => ?_) (fun _ => ?_)) | (refine doUpds_keeps _ _ ?_) | (refine retire_keeps _ _ ?_) | (refine setG_keeps _ _ _ ?_) | (refine modTine_keeps _ _ ?_) | (refine recordFault_keeps _ _ ?_) | (refine setAcc_keeps _ _ _ ?_) | (refine macRetire_keeps _ _ _ ?_) | (refine memPut_keeps _ _ ?_) | (refine setReg_keeps _ _ _ ?_) | (intro _) | (split))

theorem loadFault_keeps {kb kz} (t : Nat) (f : FaultRec) {s : State} (hK : Keeps kb kz s) : Keeps kb kz (loadFault t f s) := by
  unfold loadFault
  with_reducible repeat' (first | (assumption) | (refine ite_keeps _ (fun _ => ?_) (fun _ => ?_)) | (refine recordFault_keeps _ _ ?_) | (refine modTine_keeps _ _ ?_))

theorem loadFail_keeps {kb kz} (t : Nat) (k : LoadKind) (vas : List Nat) (got : List Word) (f : FaultRec) {s : State} (hK : Keeps kb kz s) : Keeps kb kz (loadFail t k vas got f s) := by
  unfold loadFail
  with_reducible repeat' (first | (assumption) | (refine ite_keeps _ (fun _ => ?_) (fun _ => ?_)) | (refine loadFault_keeps _ _ ?_) | (refine setG_keeps _ _ _ ?_) | (refine setReg_keeps _ _ _ ?_) | (intro _) | (split))

theorem readAll_keeps {kb kz} (t : TineNo) (swap : Bool) (srcs : List LSrc) (vas : List Nat) (ups : List Upset) (got : List Word) {s : State} (hK : Keeps kb kz s) : Keeps1 kb kz (readAll t swap srcs vas ups got s) := by
  induction srcs generalizing vas ups got s with
  | nil => exact ⟨hK⟩
  | cons y ys ih =>
    cases y with
    | have' w => rw [readAll]; exact ih _ _ _ hK
    | read pa =>
      rw [readAll]
      have h1 := physRead_keeps (.tine t) pa (ups.headD .ok) hK
      split
      next h => rw [h] at h1; exact ih _ _ _ ((keeps1_mk _ _).1 h1)
      next h => rw [h] at h1; exact ⟨((keeps1_mk _ _).1 h1)⟩
theorem readAll_keeps_out {kb kz} (t : TineNo) (swap : Bool) (srcs : List LSrc) (vas : List Nat) (ups : List Upset) (got : List Word) {s : State} (hK : Keeps kb kz s) {x0 s₁} (hE : readAll t swap srcs vas ups got s = (x0, s₁)) : Keeps kb kz s₁ := by
  have := readAll_keeps (kb := kb) (kz := kz) t swap srcs vas ups got  hK
  rw [hE] at this; exact this.out

theorem srcAsk_keeps {kb kz} (t : TineNo) (x : LSrc) {s : State} (hK : Keeps kb kz s) : Keeps kb kz (srcAsk t x s) := by
  unfold srcAsk
  with_reducible repeat' (first | (assumption) | (refine ite_keeps _ (fun _ => ?_) (fun _ => ?_)) | (refine physAsk_keeps _ _ ?_) | (refine setReg_keeps _ _ _ ?_) | (intro _) | (split))

theorem loadStart_keeps {kb kz} (t : TineNo) (k : LoadKind) (groups : List (List Nat)) (vas : List Nat) (upds : List (Gr × Word)) (len : Nat) (f2 : Option FaultRec) {s : State} (hK : Keeps kb kz s) : Keeps kb kz (loadStart t k groups vas upds len f2 s) := by
  unfold loadStart
  (try dsimp only)
  with_reducible repeat' (first | (assumption) | (refine ite_keeps _ (fun _ => ?_) (fun _ => ?_)) | (refine forAll_keeps _ _ ?_ ?_) | (refine physForget_keeps _ ?_) | (refine (readAll_keeps _ _ _ _ _ _ ?_).out) | (refine readAll_keeps_out _ _ _ _ _ _ ?_ (by assumption)) | (refine loadDone_keeps _ _ _ _ _ _ _ ?_) | (refine modTine_keeps _ _ ?_) | (refine bumpF_keeps _ _ _ _ _ ?_) | (refine srcAsk_keeps _ _ ?_) | (refine setReg_keeps _ _ _ ?_) | (intro _) | (split))

theorem loadReturn_keeps {kb kz} (t : TineNo) (ups : List Upset) {s : State} (hK : Keeps kb kz s) : Keeps kb kz (loadReturn t ups s) := by
  unfold loadReturn
  (try dsimp only)
  with_reducible repeat' (first | (assumption) | (refine ite_keeps _ (fun _ => ?_) (fun _ => ?_)) | (refine forAll_keeps _ _ ?_ ?_) | (refine srcAsk_keeps _ _ ?_) | (refine (physRead_keeps _ _ _ ?_).out) | (refine physRead_keeps_out _ _ _ ?_ (by assumption)) | (refine modTine_keeps _ _ ?_) | (refine loadFail_keeps _ _ _ _ _ ?_) | (refine (readAll_keeps _ _ _ _ _ _ ?_).out) | (refine readAll_keeps_out _ _ _ _ _ _ ?_ (by assumption)) | (refine loadDone_keeps _ _ _ _ _ _ _ ?_) | (refine setReg_keeps _ _ _ ?_) | (intro _) | (split))

theorem storeRetire_keeps {kb kz} (t : Nat) (ents : List StoreEnt) (upds : List (Gr × Word)) (len : Nat) (f2 : Option FaultRec) {s : State} (hK : Keeps kb kz s) : Keeps kb kz (storeRetire t ents upds len f2 s) := by
  unfold storeRetire
  (try dsimp only)
  with_reducible repeat' (first | (assumption) | (refine ite_keeps _ (fun _ => ?_) (fun _ => ?_)) | (refine modTine_keeps _ _ ?_) | (refine recordFault_keeps _ _ ?_) | (refine retire_keeps _ _ ?_) | (refine doUpds_keeps _ _ ?_) | (refine setReg_keeps _ _ _ ?_) | (intro _) | (split))

theorem storeStart_keeps {kb kz} (t : Nat) (ents : List StoreEnt) (upds : List (Gr × Word)) (len : Nat) (f2 : Option FaultRec) {s : State} (hK : Keeps kb kz s) : Keeps kb kz (storeStart t ents upds len f2 s) := by
  unfold storeStart
  with_reducible repeat' (first | (assumption) | (refine ite_keeps _ (fun _ => ?_) (fun _ => ?_)) | (refine storeRetire_keeps _ _ _ _ _ ?_) | (refine modTine_keeps _ _ ?_))

theorem storeNext_keeps {kb kz} (t : Nat) {s : State} (hK : Keeps kb kz s) : Keeps kb kz (storeNext t s) := by
  unfold storeNext
  (try dsimp only)
  with_reducible repeat' (first | (assumption) | (refine ite_keeps _ (fun _ => ?_) (fun _ => ?_)) | (refine storeRetire_keeps _ _ _ _ _ ?_) | (refine retire_keeps _ _ ?_) | (refine setReg_keeps _ _ _ ?_) | (intro _) | (split))

theorem sbPop_keeps {kb kz} (t : Nat) {s : State} (hK : Keeps kb kz s) : Keeps kb kz (sbPop t s) := by
  unfold sbPop
  with_reducible repeat' (first | (assumption) | (refine ite_keeps _ (fun _ => ?_) (fun _ => ?_)) | (refine storeNext_keeps _ ?_) | (refine modTine_keeps _ _ ?_))

theorem sbFail_keeps {kb kz} (t pa : Nat) {s : State} (hK : Keeps kb kz s) : Keeps kb kz (sbFail t pa s) := by
  unfold sbFail
  with_reducible repeat' (first | (assumption) | (refine ite_keeps _ (fun _ => ?_) (fun _ => ?_)) | (refine modTine_keeps _ _ ?_))

theorem drainOldest_keeps {kb kz} (t : TineNo) (up : Upset) {s : State} (hK : Keeps kb kz s) : Keeps kb kz (drainOldest t up s) := by
  unfold drainOldest
  with_reducible repeat' (first | (assumption) | (refine ite_keeps _ (fun _ => ?_) (fun _ => ?_)) | (refine (physWrite_keeps _ _ _ _ _ ?_).out) | (refine physWrite_keeps_out _ _ _ _ _ ?_ (by assumption)) | (refine sbPop_keeps _ ?_) | (refine sbFail_keeps _ _ ?_) | (refine setReg_keeps _ _ _ ?_) | (intro _) | (split) | (refine physWrite_keeps _ _ _ _ _ ?_) | (simp only [keeps_mk, keeps1_mk, keeps2_mk, keeps3_mk, keeps4_mk]) | (refine parts_of ?_))

theorem goStore_keeps {kb kz} (t : TineNo) (ents : List StoreEnt) (go : Word) (upds : List (Gr × Word)) (len : Nat) {s : State} (hK : Keeps kb kz s) : Keeps kb kz (goStore t ents go upds len s) := by
  unfold goStore
  (try dsimp only)
  with_reducible repeat' (first | (assumption) | (refine ite_keeps _ (fun _ => ?_) (fun _ => ?_)) | (refine ckptStore_keeps _ _ _ _ _ ?_))

theorem storeGo_keeps {kb kz} (t : TineNo) (ents : List StoreEnt) (upds : List (Gr × Word)) (len : Nat) {s : State} (hK : Keeps kb kz s) : Keeps kb kz (storeGo t ents upds len s) := by
  unfold storeGo
  with_reducible repeat' (first | (assumption) | (refine ite_keeps _ (fun _ => ?_) (fun _ => ?_)) | (refine goStore_keeps _ _ _ _ _ ?_) | (refine storeStart_keeps _ _ _ _ _ ?_) | (refine setReg_keeps _ _ _ ?_) | (intro _) | (split))

theorem loadWord_keeps {kb kz} (t : TineNo) (gt : Gr) (ea : Word) (upds : List (Gr × Word)) (len : Nat) {s : State} (hK : Keeps kb kz s) : Keeps kb kz (loadWord t gt ea upds len s) := by
  unfold loadWord
  with_reducible repeat' (first | (assumption) | (refine ite_keeps _ (fun _ => ?_) (fun _ => ?_)) | (refine (xlatWords_keeps _ _ _ ?_).out) | (refine xlatWords_keeps_out _ _ _ ?_ (by assumption)) | (refine recordFault_keeps _ _ ?_) | (refine loadStart_keeps _ _ _ _ _ _ _ ?_) | (refine setReg_keeps _ _ _ ?_) | (intro _) | (split))

theorem storeWord_keeps {kb kz} (t : TineNo) (v ea : Word) (upds : List (Gr × Word)) (len : Nat) {s : State} (hK : Keeps kb kz s) : Keeps kb kz (storeWord t v ea upds len s) := by
  unfold storeWord
  with_reducible repeat' (first | (assumption) | (refine ite_keeps _ (fun _ => ?_) (fun _ => ?_)) | (refine (xlatWords_keeps _ _ _ ?_).out) | (refine xlatWords_keeps_out _ _ _ ?_ (by assumption)) | (refine recordFault_keeps _ _ ?_) | (refine storeGo_keeps _ _ _ _ ?_) | (refine setReg_keeps _ _ _ ?_) | (intro _) | (split))

theorem execLd_keeps {kb kz} (t : TineNo) (f : LdSt) {s : State} (hK : Keeps kb kz s) : ∃ s', execLd t f s = .next s' ∧ Keeps kb kz s' := by
  unfold execLd
  refine ⟨_, rfl, ?_⟩
  with_reducible repeat' (first | (assumption) | (refine ite_keeps _ (fun _ => ?_) (fun _ => ?_)) | (refine issue_keeps _ _ _ ?_ ?_) | (refine loadWord_keeps _ _ _ _ _ ?_) | (refine illegal_keeps _ ?_) | (refine setReg_keeps _ _ _ ?_) | (intro _))

theorem execSt_keeps {kb kz} (t : TineNo) (f : LdSt) {s : State} (hK : Keeps kb kz s) : ∃ s', execSt t f s = .next s' ∧ Keeps kb kz s' := by
  unfold execSt
  refine ⟨_, rfl, ?_⟩
  with_reducible repeat' (first | (assumption) | (refine ite_keeps _ (fun _ => ?_) (fun _ => ?_)) | (refine issue_keeps _ _ _ ?_ ?_) | (refine storeWord_keeps _ _ _ _ _ ?_) | (refine illegal_keeps _ ?_) | (refine setReg_keeps _ _ _ ?_) | (intro _))

theorem execLdstC_keeps {kb kz} (t : TineNo) (store : Bool) (gt ga : Gr) (mk : Fin 8) {s : State} (hK : Keeps kb kz s) : ∃ s', execLdstC t store gt ga mk s = .next s' ∧ Keeps kb kz s' := by
  unfold execLdstC
  refine ⟨_, rfl, ?_⟩
  (try dsimp only)
  with_reducible repeat' (first | (assumption) | (refine ite_keeps _ (fun _ => ?_) (fun _ => ?_)) | (refine issue_keeps _ _ _ ?_ ?_) | (refine storeWord_keeps _ _ _ _ _ ?_) | (refine loadWord_keeps _ _ _ _ _ ?_) | (refine setReg_keeps _ _ _ ?_) | (intro _))

theorem execLdh_keeps {kb kz} (t : TineNo) (l : LS) {s : State} (hK : Keeps kb kz s) : ∃ s', execLdh t l s = .next s' ∧ Keeps kb kz s' := by
  unfold execLdh
  refine ⟨_, rfl, ?_⟩
  (try dsimp only)
  with_reducible repeat' (first | (assumption) | (refine ite_keeps _ (fun _ => ?_) (fun _ => ?_)) | (refine issue_keeps _ _ _ ?_ ?_) | (refine (xlatWords_keeps _ _ _ ?_).out) | (refine xlatWords_keeps_out _ _ _ ?_ (by assumption)) | (refine recordFault_keeps _ _ ?_) | (refine loadStart_keeps _ _ _ _ _ _ _ ?_) | (refine illegal_keeps _ ?_) | (refine setReg_keeps _ _ _ ?_) | (intro _) | (split))

theorem execSth_keeps {kb kz} (t : TineNo) (l : LS) {s : State} (hK : Keeps kb kz s) : ∃ s', execSth t l s = .next s' ∧ Keeps kb kz s' := by
  unfold execSth
  refine ⟨_, rfl, ?_⟩
  (try dsimp only)
  with_reducible repeat' (first | (assumption) | (refine ite_keeps _ (fun _ => ?_) (fun _ => ?_)) | (refine issue_keeps _ _ _ ?_ ?_) | (refine (xlatWords_keeps _ _ _ ?_).out) | (refine xlatWords_keeps_out _ _ _ ?_ (by assumption)) | (refine recordFault_keeps _ _ ?_) | (refine storeStart_keeps _ _ _ _ _ ?_) | (refine illegal_keeps _ ?_) | (refine setReg_keeps _ _ _ ?_) | (intro _) | (split))

theorem dwordCheck_keeps {kb kz} (t : TineNo) (store : Bool) (x : Nat) {s : State} (hK : Keeps kb kz s) : Keeps1 kb kz (dwordCheck t store x s) := by
  unfold dwordCheck
  (try dsimp only)
  with_reducible repeat' (first | (assumption) | (refine ite_keeps _ (fun _ => ?_) (fun _ => ?_)) | (refine (xlatWords_keeps _ _ _ ?_).out) | (refine xlatWords_keeps_out _ _ _ ?_ (by assumption)) | (refine setReg_keeps _ _ _ ?_) | (intro _) | (split) | (refine xlatWords_keeps _ _ _ ?_) | (simp only [keeps_mk, keeps1_mk, keeps2_mk, keeps3_mk, keeps4_mk]))
theorem dwordCheck_keeps_out {kb kz} (t : TineNo) (store : Bool) (x : Nat) {s : State} (hK : Keeps kb kz s) {x0 s₁} (hE : dwordCheck t store x s = (x0, s₁)) : Keeps kb kz s₁ := by
  have := dwordCheck_keeps (kb := kb) (kz := kz) t store x  hK
  rw [hE] at this; exact this.out

theorem issueDword_keeps {kb kz} (t : Nat) (i : Instr) (x : Nat) (f : Bool → State → State) {s : State} (h_f : ∀ a0 s, Keeps kb kz s → Keeps kb kz (f a0 s)) (hK : Keeps kb kz s) : Keeps kb kz (issueDword t i x f s) := by
  unfold issueDword
  (try dsimp only)
  with_reducible repeat' (first | (assumption) | (refine ite_keeps _ (fun _ => ?_) (fun _ => ?_)) | (refine enqueue_keeps _ _ ?_) | (refine recordFault_keeps _ _ ?_) | (refine setReg_keeps _ _ _ ?_) | (apply h_f))

theorem execLdd_keeps {kb kz} (t : TineNo) (l : LS) {s : State} (hK : Keeps kb kz s) : ∃ s', execLdd t l s = .next s' ∧ Keeps kb kz s' := by
  unfold execLdd
  refine ⟨_, rfl, ?_⟩
  (try dsimp only)
  with_reducible repeat' (first | (assumption) | (refine ite_keeps _ (fun _ => ?_) (fun _ => ?_)) | (refine issueDword_keeps _ _ _ _ ?_ ?_) | (refine illegal_keeps _ ?_) | (refine (xlatWords_keeps _ _ _ ?_).out) | (refine xlatWords_keeps_out _ _ _ ?_ (by assumption)) | (refine recordFault_keeps _ _ ?_) | (refine loadStart_keeps _ _ _ _ _ _ _ ?_) | (refine (dwordCheck_keeps _ _ _ ?_).out) | (refine dwordCheck_keeps_out _ _ _ ?_ (by assumption)) | (refine setReg_keeps _ _ _ ?_) | (intro _) | (split))

theorem execStd_keeps {kb kz} (t : TineNo) (l : LS) {s : State} (hK : Keeps kb kz s) : ∃ s', execStd t l s = .next s' ∧ Keeps kb kz s' := by
  unfold execStd
  refine ⟨_, rfl, ?_⟩
  (try dsimp only)
  with_reducible repeat' (first | (assumption) | (refine ite_keeps _ (fun _ => ?_) (fun _ => ?_)) | (refine issueDword_keeps _ _ _ _ ?_ ?_) | (refine illegal_keeps _ ?_) | (refine (xlatWords_keeps _ _ _ ?_).out) | (refine xlatWords_keeps_out _ _ _ ?_ (by assumption)) | (refine recordFault_keeps _ _ ?_) | (refine storeStart_keeps _ _ _ _ _ ?_) | (refine (dwordCheck_keeps _ _ _ ?_).out) | (refine dwordCheck_keeps_out _ _ _ ?_ (by assumption)) | (refine storeGo_keeps _ _ _ _ ?_) | (refine setReg_keeps _ _ _ ?_) | (intro _) | (split))

theorem execSwap_keeps {kb kz} (t : TineNo) (l : LS) {s : State} (hK : Keeps kb kz s) : ∃ s', execSwap t l s = .next s' ∧ Keeps kb kz s' := by
  unfold execSwap
  refine ⟨_, rfl, ?_⟩
  (try dsimp only)
  with_reducible repeat' (first | (assumption) | (refine ite_keeps _ (fun _ => ?_) (fun _ => ?_)) | (refine issue_keeps _ _ _ ?_ ?_) | (refine (xlatWords_keeps _ _ _ ?_).out) | (refine xlatWords_keeps_out _ _ _ ?_ (by assumption)) | (refine recordFault_keeps _ _ ?_) | (refine loadStart_keeps _ _ _ _ _ _ _ ?_) | (refine illegal_keeps _ ?_) | (refine setReg_keeps _ _ _ ?_) | (intro _) | (split))

theorem execSva_keeps {kb kz} (t : TineNo) (l : LS) {s : State} (hK : Keeps kb kz s) : ∃ s', execSva t l s = .next s' ∧ Keeps kb kz s' := by
  unfold execSva
  refine ⟨_, rfl, ?_⟩
  (try dsimp only)
  with_reducible repeat' (first | (assumption) | (refine ite_keeps _ (fun _ => ?_) (fun _ => ?_)) | (refine issue_keeps _ _ _ ?_ ?_) | (refine (xlatWords_keeps _ _ _ ?_).out) | (refine xlatWords_keeps_out _ _ _ ?_ (by assumption)) | (refine recordFault_keeps _ _ ?_) | (refine storeGo_keeps _ _ _ _ ?_) | (refine illegal_keeps _ ?_) | (refine setReg_keeps _ _ _ ?_) | (intro _) | (split))

theorem execRsa_keeps {kb kz} (t : TineNo) (l : LS) {s : State} (hK : Keeps kb kz s) : ∃ s', execRsa t l s = .next s' ∧ Keeps kb kz s' := by
  unfold execRsa
  refine ⟨_, rfl, ?_⟩
  (try dsimp only)
  with_reducible repeat' (first | (assumption) | (refine ite_keeps _ (fun _ => ?_) (fun _ => ?_)) | (refine issue_keeps _ _ _ ?_ ?_) | (refine (xlatWords_keeps _ _ _ ?_).out) | (refine xlatWords_keeps_out _ _ _ ?_ (by assumption)) | (refine recordFault_keeps _ _ ?_) | (refine loadStart_keeps _ _ _ _ _ _ _ ?_) | (refine illegal_keeps _ ?_) | (refine setReg_keeps _ _ _ ?_) | (intro _) | (split))

theorem execMacm_keeps {kb kz} (t : TineNo) (op : MacOp) (fp : BitVec 2) (an : Ar) (ga gb : Gr) (mj mk : Fin 8) {s : State} (hK : Keeps kb kz s) : ∃ s', execMacm t op fp an ga gb mj mk s = .next s' ∧ Keeps kb kz s' := by
  unfold execMacm
  refine ⟨_, rfl, ?_⟩
  (try dsimp only)
  with_reducible repeat' (first | (assumption) | (refine ite_keeps _ (fun _ => ?_) (fun _ => ?_)) | (refine issue_keeps _ _ _ ?_ ?_) | (refine illegal_keeps _ ?_) | (refine (xlatWords_keeps _ _ _ ?_).out) | (refine xlatWords_keeps_out _ _ _ ?_ (by assumption)) | (refine recordFault_keeps _ _ ?_) | (refine loadStart_keeps _ _ _ _ _ _ _ ?_) | (refine setReg_keeps _ _ _ ?_) | (intro _) | (split))

theorem execHpop_keeps {kb kz} (t : TineNo) (f : HopForm) {s : State} (hK : Keeps kb kz s) : ∃ s', execHpop t f s = .next s' ∧ Keeps kb kz s' := by
  unfold execHpop
  refine ⟨_, rfl, ?_⟩
  (try dsimp only)
  with_reducible repeat' (first | (assumption) | (refine ite_keeps _ (fun _ => ?_) (fun _ => ?_)) | (refine issue_keeps _ _ _ ?_ ?_) | (refine recordFault_keeps _ _ ?_) | (refine (hopPop_keeps _ _ ?_).out) | (refine hopPop_keeps_out _ _ ?_ (by assumption)) | (refine retire_keeps _ _ ?_) | (refine setG_keeps _ _ _ ?_) | (refine setReg_keeps _ _ _ ?_) | (intro _) | (split))

theorem tinePush_keeps {kb kz} (t : Nat) (h : Nat) (item : Word) (len : Nat) {s : State} (hK : Keeps kb kz s) : Keeps kb kz (tinePush t h item len s) := by
  unfold tinePush
  with_reducible repeat' (first | (assumption) | (refine ite_keeps _ (fun _ => ?_) (fun _ => ?_)) | (refine (hopOffer_keeps _ _ ?_).out) | (refine hopOffer_keeps_out _ _ ?_ (by assumption)) | (refine haltHeld_keeps _ ?_) | (refine sieveUpdate_keeps _ ?_) | (refine modTine_keeps _ _ ?_) | (refine setReg_keeps _ _ _ ?_) | (refine retire_keeps _ _ ?_) | (intro _) | (split))

theorem execHpush_keeps {kb kz} (t : TineNo) (f : HopForm) {s : State} (hK : Keeps kb kz s) : ∃ s', execHpush t f s = .next s' ∧ Keeps kb kz s' := by
  unfold execHpush
  refine ⟨_, rfl, ?_⟩
  (try dsimp only)
  with_reducible repeat' (first | (assumption) | (refine ite_keeps _ (fun _ => ?_) (fun _ => ?_)) | (refine issue_keeps _ _ _ ?_ ?_) | (refine recordFault_keeps _ _ ?_) | (refine tinePush_keeps _ _ _ _ ?_) | (refine setReg_keeps _ _ _ ?_) | (intro _) | (split))

theorem pushAgain_keeps {kb kz} (t : TineNo) {s : State} (hK : Keeps kb kz s) : Keeps kb kz (pushAgain t s) := by
  unfold pushAgain
  with_reducible repeat' (first | (assumption) | (refine ite_keeps _ (fun _ => ?_) (fun _ => ?_)) | (refine loadFault_keeps _ _ ?_) | (refine alive_keeps _ ?_) | (refine tinePush_keeps _ _ _ _ ?_) | (refine setReg_keeps _ _ _ ?_) | (intro _) | (split))

theorem execFence_keeps {kb kz} (t : TineNo) {s : State} (hK : Keeps kb kz s) : ∃ s', execFence t s = .next s' ∧ Keeps kb kz s' := by
  unfold execFence
  refine ⟨_, rfl, ?_⟩
  with_reducible repeat' (first | (assumption) | (refine ite_keeps _ (fun _ => ?_) (fun _ => ?_)) | (refine issue_keeps _ _ _ ?_ ?_) | (refine retire_keeps _ _ ?_) | (refine modTine_keeps _ _ ?_) | (refine setReg_keeps _ _ _ ?_) | (intro _))

/-! ## Machine/TineAlu.lean -/

theorem execMov_keeps {kb kz} (t : TineNo) (f : Un) {s : State} (hK : Keeps kb kz s) : ∃ s', execMov t f s = .next s' ∧ Keeps kb kz s' := by
  unfold execMov
  refine ⟨_, rfl, ?_⟩
  with_reducible repeat' (first | (assumption) | (refine ite_keeps _ (fun _ => ?_) (fun _ => ?_)) | (refine issue_keeps _ _ _ ?_ ?_) | (refine aluRetire_keeps _ _ _ _ ?_) | (refine setReg_keeps _ _ _ ?_) | (intro _))

theorem execMovi_keeps {kb kz} (t : TineNo) (f : RI) {s : State} (hK : Keeps kb kz s) : ∃ s', execMovi t f s = .next s' ∧ Keeps kb kz s' := by
  unfold execMovi
  refine ⟨_, rfl, ?_⟩
  with_reducible repeat' (first | (assumption) | (refine ite_keeps _ (fun _ => ?_) (fun _ => ?_)) | (refine issue_keeps _ _ _ ?_ ?_) | (refine aluRetire_keeps _ _ _ _ ?_) | (refine setReg_keeps _ _ _ ?_) | (intro _))

theorem execMovhi_keeps {kb kz} (t : TineNo) (gd : Gr) (imm : BitVec 22) {s : State} (hK : Keeps kb kz s) : ∃ s', execMovhi t gd imm s = .next s' ∧ Keeps kb kz s' := by
  unfold execMovhi
  refine ⟨_, rfl, ?_⟩
  with_reducible repeat' (first | (assumption) | (refine ite_keeps _ (fun _ => ?_) (fun _ => ?_)) | (refine issue_keeps _ _ _ ?_ ?_) | (refine aluRetire_keeps _ _ _ _ ?_) | (refine setReg_keeps _ _ _ ?_) | (intro _))

theorem aluRR_keeps {kb kz} (i : Instr) (op : Word → Word → AluOut) (t : TineNo) (f : RR) {s : State} (hK : Keeps kb kz s) : Keeps kb kz (aluRR i op t f s) := by
  unfold aluRR
  with_reducible repeat' (first | (assumption) | (refine ite_keeps _ (fun _ => ?_) (fun _ => ?_)) | (refine issue_keeps _ _ _ ?_ ?_) | (refine aluRetire_keeps _ _ _ _ ?_) | (refine setReg_keeps _ _ _ ?_) | (intro _))

theorem aluF3_keeps {kb kz} (i : Instr) (op : Word → Word → AluOut) (t : TineNo) (gd ga gb : Gr) {s : State} (hK : Keeps kb kz s) : Keeps kb kz (aluF3 i op t gd ga gb s) := by
  unfold aluF3
  with_reducible repeat' (first | (assumption) | (refine ite_keeps _ (fun _ => ?_) (fun _ => ?_)) | (refine issue_keeps _ _ _ ?_ ?_) | (refine aluRetire_keeps _ _ _ _ ?_) | (refine setReg_keeps _ _ _ ?_) | (intro _))

theorem aluUn_keeps {kb kz} (i : Instr) (op : Word → AluOut) (t : TineNo) (f : Un) {s : State} (hK : Keeps kb kz s) : Keeps kb kz (aluUn i op t f s) := by
  unfold aluUn
  with_reducible repeat' (first | (assumption) | (refine ite_keeps _ (fun _ => ?_) (fun _ => ?_)) | (refine issue_keeps _ _ _ ?_ ?_) | (refine aluRetire_keeps _ _ _ _ ?_) | (refine setReg_keeps _ _ _ ?_) | (intro _))

theorem execAdd_keeps {kb kz} (t : TineNo) (f : RR) {s : State} (hK : Keeps kb kz s) : ∃ s', execAdd t f s = .next s' ∧ Keeps kb kz s' := by
  unfold execAdd
  refine ⟨_, rfl, ?_⟩
  with_reducible repeat' (first | (assumption) | (refine ite_keeps _ (fun _ => ?_) (fun _ => ?_)) | (refine aluRR_keeps _ _ _ _ ?_))

theorem execSub_keeps {kb kz} (t : TineNo) (f : RR) {s : State} (hK : Keeps kb kz s) : ∃ s', execSub t f s = .next s' ∧ Keeps kb kz s' := by
  unfold execSub
  refine ⟨_, rfl, ?_⟩
  with_reducible repeat' (first | (assumption) | (refine ite_keeps _ (fun _ => ?_) (fun _ => ?_)) | (refine aluRR_keeps _ _ _ _ ?_))

theorem execAddi_keeps {kb kz} (t : TineNo) (f : RI) {s : State} (hK : Keeps kb kz s) : ∃ s', execAddi t f s = .next s' ∧ Keeps kb kz s' := by
  unfold execAddi
  refine ⟨_, rfl, ?_⟩
  with_reducible repeat' (first | (assumption) | (refine ite_keeps _ (fun _ => ?_) (fun _ => ?_)) | (refine issue_keeps _ _ _ ?_ ?_) | (refine aluRetire_keeps _ _ _ _ ?_) | (refine setReg_keeps _ _ _ ?_) | (intro _))

theorem execAdds_keeps {kb kz} (t : TineNo) (gd ga gb : Gr) {s : State} (hK : Keeps kb kz s) : ∃ s', execAdds t gd ga gb s = .next s' ∧ Keeps kb kz s' := by
  unfold execAdds
  refine ⟨_, rfl, ?_⟩
  with_reducible repeat' (first | (assumption) | (refine ite_keeps _ (fun _ => ?_) (fun _ => ?_)) | (refine aluF3_keeps _ _ _ _ _ _ ?_))

theorem execSubs_keeps {kb kz} (t : TineNo) (gd ga gb : Gr) {s : State} (hK : Keeps kb kz s) : ∃ s', execSubs t gd ga gb s = .next s' ∧ Keeps kb kz s' := by
  unfold execSubs
  refine ⟨_, rfl, ?_⟩
  with_reducible repeat' (first | (assumption) | (refine ite_keeps _ (fun _ => ?_) (fun _ => ?_)) | (refine aluF3_keeps _ _ _ _ _ _ ?_))

theorem execAnd_keeps {kb kz} (t : TineNo) (f : RR) {s : State} (hK : Keeps kb kz s) : ∃ s', execAnd t f s = .next s' ∧ Keeps kb kz s' := by
  unfold execAnd
  refine ⟨_, rfl, ?_⟩
  with_reducible repeat' (first | (assumption) | (refine ite_keeps _ (fun _ => ?_) (fun _ => ?_)) | (refine aluRR_keeps _ _ _ _ ?_))

theorem execOr_keeps {kb kz} (t : TineNo) (f : RR) {s : State} (hK : Keeps kb kz s) : ∃ s', execOr t f s = .next s' ∧ Keeps kb kz s' := by
  unfold execOr
  refine ⟨_, rfl, ?_⟩
  with_reducible repeat' (first | (assumption) | (refine ite_keeps _ (fun _ => ?_) (fun _ => ?_)) | (refine aluRR_keeps _ _ _ _ ?_))

theorem execXor_keeps {kb kz} (t : TineNo) (f : RR) {s : State} (hK : Keeps kb kz s) : ∃ s', execXor t f s = .next s' ∧ Keeps kb kz s' := by
  unfold execXor
  refine ⟨_, rfl, ?_⟩
  with_reducible repeat' (first | (assumption) | (refine ite_keeps _ (fun _ => ?_) (fun _ => ?_)) | (refine aluRR_keeps _ _ _ _ ?_))

theorem execAndn_keeps {kb kz} (t : TineNo) (gd ga gb : Gr) {s : State} (hK : Keeps kb kz s) : ∃ s', execAndn t gd ga gb s = .next s' ∧ Keeps kb kz s' := by
  unfold execAndn
  refine ⟨_, rfl, ?_⟩
  with_reducible repeat' (first | (assumption) | (refine ite_keeps _ (fun _ => ?_) (fun _ => ?_)) | (refine aluF3_keeps _ _ _ _ _ _ ?_))

theorem aluLogImm_keeps {kb kz} (i : Instr) (op : Word → Word → Word) (t : TineNo) (gd ga : Gr) (imm : BitVec 22) {s : State} (hK : Keeps kb kz s) : Keeps kb kz (aluLogImm i op t gd ga imm s) := by
  unfold aluLogImm
  with_reducible repeat' (first | (assumption) | (refine ite_keeps _ (fun _ => ?_) (fun _ => ?_)) | (refine issue_keeps _ _ _ ?_ ?_) | (refine aluRetire_keeps _ _ _ _ ?_) | (refine setReg_keeps _ _ _ ?_) | (intro _))

theorem execAndi_keeps {kb kz} (t : TineNo) (gd ga : Gr) (imm : BitVec 22) {s : State} (hK : Keeps kb kz s) : ∃ s', execAndi t gd ga imm s = .next s' ∧ Keeps kb kz s' := by
  unfold execAndi
  refine ⟨_, rfl, ?_⟩
  with_reducible repeat' (first | (assumption) | (refine ite_keeps _ (fun _ => ?_) (fun _ => ?_)) | (refine aluLogImm_keeps _ _ _ _ _ _ ?_))

theorem execOri_keeps {kb kz} (t : TineNo) (gd ga : Gr) (imm : BitVec 22) {s : State} (hK : Keeps kb kz s) : ∃ s', execOri t gd ga imm s = .next s' ∧ Keeps kb kz s' := by
  unfold execOri
  refine ⟨_, rfl, ?_⟩
  with_reducible repeat' (first | (assumption) | (refine ite_keeps _ (fun _ => ?_) (fun _ => ?_)) | (refine aluLogImm_keeps _ _ _ _ _ _ ?_))

theorem execXori_keeps {kb kz} (t : TineNo) (gd ga : Gr) (imm : BitVec 22) {s : State} (hK : Keeps kb kz s) : ∃ s', execXori t gd ga imm s = .next s' ∧ Keeps kb kz s' := by
  unfold execXori
  refine ⟨_, rfl, ?_⟩
  with_reducible repeat' (first | (assumption) | (refine ite_keeps _ (fun _ => ?_) (fun _ => ?_)) | (refine aluLogImm_keeps _ _ _ _ _ _ ?_))

theorem execShl_keeps {kb kz} (t : TineNo) (gd ga : Gr) (k : ShAmt) {s : State} (hK : Keeps kb kz s) : ∃ s', execShl t gd ga k s = .next s' ∧ Keeps kb kz s' := by
  unfold execShl
  refine ⟨_, rfl, ?_⟩
  with_reducible repeat' (first | (assumption) | (refine ite_keeps _ (fun _ => ?_) (fun _ => ?_)) | (refine issue_keeps _ _ _ ?_ ?_) | (refine aluRetire_keeps _ _ _ _ ?_) | (refine setReg_keeps _ _ _ ?_) | (intro _))

theorem execShr_keeps {kb kz} (t : TineNo) (gd ga : Gr) (k : ShAmt) {s : State} (hK : Keeps kb kz s) : ∃ s', execShr t gd ga k s = .next s' ∧ Keeps kb kz s' := by
  unfold execShr
  refine ⟨_, rfl, ?_⟩
  with_reducible repeat' (first | (assumption) | (refine ite_keeps _ (fun _ => ?_) (fun _ => ?_)) | (refine issue_keeps _ _ _ ?_ ?_) | (refine aluRetire_keeps _ _ _ _ ?_) | (refine setReg_keeps _ _ _ ?_) | (intro _))

theorem execAsh_keeps {kb kz} (t : TineNo) (f : AshForm) {s : State} (hK : Keeps kb kz s) : ∃ s', execAsh t f s = .next s' ∧ Keeps kb kz s' := by
  unfold execAsh
  refine ⟨_, rfl, ?_⟩
  with_reducible repeat' (first | (assumption) | (refine ite_keeps _ (fun _ => ?_) (fun _ => ?_)) | (refine issue_keeps _ _ _ ?_ ?_) | (refine aluRetire_keeps _ _ _ _ ?_) | (refine illegal_keeps _ ?_) | (refine setReg_keeps _ _ _ ?_) | (intro _) | (split))

theorem execRot_keeps {kb kz} (t : TineNo) (gd ga gb : Gr) {s : State} (hK : Keeps kb kz s) : ∃ s', execRot t gd ga gb s = .next s' ∧ Keeps kb kz s' := by
  unfold execRot
  refine ⟨_, rfl, ?_⟩
  with_reducible repeat' (first | (assumption) | (refine ite_keeps _ (fun _ => ?_) (fun _ => ?_)) | (refine aluF3_keeps _ _ _ _ _ _ ?_))

theorem execMin_keeps {kb kz} (t : TineNo) (gd ga gb : Gr) {s : State} (hK : Keeps kb kz s) : ∃ s', execMin t gd ga gb s = .next s' ∧ Keeps kb kz s' := by
  unfold execMin
  refine ⟨_, rfl, ?_⟩
  with_reducible repeat' (first | (assumption) | (refine ite_keeps _ (fun _ => ?_) (fun _ => ?_)) | (refine aluF3_keeps _ _ _ _ _ _ ?_))

theorem execMax_keeps {kb kz} (t : TineNo) (gd ga gb : Gr) {s : State} (hK : Keeps kb kz s) : ∃ s', execMax t gd ga gb s = .next s' ∧ Keeps kb kz s' := by
  unfold execMax
  refine ⟨_, rfl, ?_⟩
  with_reducible repeat' (first | (assumption) | (refine ite_keeps _ (fun _ => ?_) (fun _ => ?_)) | (refine aluF3_keeps _ _ _ _ _ _ ?_))

theorem execCmp_keeps {kb kz} (t : TineNo) (f : CR) {s : State} (hK : Keeps kb kz s) : ∃ s', execCmp t f s = .next s' ∧ Keeps kb kz s' := by
  unfold execCmp
  refine ⟨_, rfl, ?_⟩
  with_reducible repeat' (first | (assumption) | (refine ite_keeps _ (fun _ => ?_) (fun _ => ?_)) | (refine issue_keeps _ _ _ ?_ ?_) | (refine cmpRetire_keeps _ _ _ ?_) | (refine setReg_keeps _ _ _ ?_) | (intro _))

theorem execCmpi_keeps {kb kz} (t : TineNo) (f : CI) {s : State} (hK : Keeps kb kz s) : ∃ s', execCmpi t f s = .next s' ∧ Keeps kb kz s' := by
  unfold execCmpi
  refine ⟨_, rfl, ?_⟩
  with_reducible repeat' (first | (assumption) | (refine ite_keeps _ (fun _ => ?_) (fun _ => ?_)) | (refine issue_keeps _ _ _ ?_ ?_) | (refine cmpRetire_keeps _ _ _ ?_) | (refine setReg_keeps _ _ _ ?_) | (intro _))

theorem execNeg_keeps {kb kz} (t : TineNo) (f : Un) {s : State} (hK : Keeps kb kz s) : ∃ s', execNeg t f s = .next s' ∧ Keeps kb kz s' := by
  unfold execNeg
  refine ⟨_, rfl, ?_⟩
  with_reducible repeat' (first | (assumption) | (refine ite_keeps _ (fun _ => ?_) (fun _ => ?_)) | (refine aluUn_keeps _ _ _ _ ?_))

theorem execNot_keeps {kb kz} (t : TineNo) (f : Un) {s : State} (hK : Keeps kb kz s) : ∃ s', execNot t f s = .next s' ∧ Keeps kb kz s' := by
  unfold execNot
  refine ⟨_, rfl, ?_⟩
  with_reducible repeat' (first | (assumption) | (refine ite_keeps _ (fun _ => ?_) (fun _ => ?_)) | (refine aluUn_keeps _ _ _ _ ?_))

theorem execAbs_keeps {kb kz} (t : TineNo) (f : Un) {s : State} (hK : Keeps kb kz s) : ∃ s', execAbs t f s = .next s' ∧ Keeps kb kz s' := by
  unfold execAbs
  refine ⟨_, rfl, ?_⟩
  with_reducible repeat' (first | (assumption) | (refine ite_keeps _ (fun _ => ?_) (fun _ => ?_)) | (refine aluUn_keeps _ _ _ _ ?_))

theorem execNorm_keeps {kb kz} (t : TineNo) (f : Un) {s : State} (hK : Keeps kb kz s) : ∃ s', execNorm t f s = .next s' ∧ Keeps kb kz s' := by
  unfold execNorm
  refine ⟨_, rfl, ?_⟩
  with_reducible repeat' (first | (assumption) | (refine ite_keeps _ (fun _ => ?_) (fun _ => ?_)) | (refine aluUn_keeps _ _ _ _ ?_))

theorem execNormm_keeps {kb kz} (t : TineNo) (f : Un) {s : State} (hK : Keeps kb kz s) : ∃ s', execNormm t f s = .next s' ∧ Keeps kb kz s' := by
  unfold execNormm
  refine ⟨_, rfl, ?_⟩
  (try dsimp only)
  with_reducible repeat' (first | (assumption) | (refine ite_keeps _ (fun _ => ?_) (fun _ => ?_)) | (refine issue_keeps _ _ _ ?_ ?_) | (refine aluRetire_keeps _ _ _ _ ?_) | (refine setReg_keeps _ _ _ ?_) | (intro _))

theorem execLog2_keeps {kb kz} (t : TineNo) (gd ga : Gr) {s : State} (hK : Keeps kb kz s) : ∃ s', execLog2 t gd ga s = .next s' ∧ Keeps kb kz s' := by
  unfold execLog2
  refine ⟨_, rfl, ?_⟩
  with_reducible repeat' (first | (assumption) | (refine ite_keeps _ (fun _ => ?_) (fun _ => ?_)) | (refine aluUn_keeps _ _ _ _ ?_))

theorem execExp2_keeps {kb kz} (t : TineNo) (gd ga : Gr) {s : State} (hK : Keeps kb kz s) : ∃ s', execExp2 t gd ga s = .next s' ∧ Keeps kb kz s' := by
  unfold execExp2
  refine ⟨_, rfl, ?_⟩
  with_reducible repeat' (first | (assumption) | (refine ite_keeps _ (fun _ => ?_) (fun _ => ?_)) | (refine aluUn_keeps _ _ _ _ ?_))

theorem execRecip_keeps {kb kz} (t : TineNo) (gd ga : Gr) {s : State} (hK : Keeps kb kz s) : ∃ s', execRecip t gd ga s = .next s' ∧ Keeps kb kz s' := by
  unfold execRecip
  refine ⟨_, rfl, ?_⟩
  with_reducible repeat' (first | (assumption) | (refine ite_keeps _ (fun _ => ?_) (fun _ => ?_)) | (refine aluUn_keeps _ _ _ _ ?_))

theorem execRsqrt_keeps {kb kz} (t : TineNo) (gd ga : Gr) {s : State} (hK : Keeps kb kz s) : ∃ s', execRsqrt t gd ga s = .next s' ∧ Keeps kb kz s' := by
  unfold execRsqrt
  refine ⟨_, rfl, ?_⟩
  with_reducible repeat' (first | (assumption) | (refine ite_keeps _ (fun _ => ?_) (fun _ => ?_)) | (refine aluUn_keeps _ _ _ _ ?_))

theorem crcInstr_keeps {kb kz} (i : Instr) (op : Word → Word → Word → AluOut) (t : TineNo) (gd gs gp : Gr) {s : State} (hK : Keeps kb kz s) : Keeps kb kz (crcInstr i op t gd gs gp s) := by
  unfold crcInstr
  (try dsimp only)
  with_reducible repeat' (first | (assumption) | (refine ite_keeps _ (fun _ => ?_) (fun _ => ?_)) | (refine issue_keeps _ _ _ ?_ ?_) | (refine illegal_keeps _ ?_) | (refine aluRetire_keeps _ _ _ _ ?_) | (refine setReg_keeps _ _ _ ?_) | (intro _))

theorem execCrc8_keeps {kb kz} (t : TineNo) (gd gs gp : Gr) {s : State} (hK : Keeps kb kz s) : ∃ s', execCrc8 t gd gs gp s = .next s' ∧ Keeps kb kz s' := by
  unfold execCrc8
  refine ⟨_, rfl, ?_⟩
  with_reducible repeat' (first | (assumption) | (refine ite_keeps _ (fun _ => ?_) (fun _ => ?_)) | (refine crcInstr_keeps _ _ _ _ _ _ ?_))

theorem execCrcw_keeps {kb kz} (t : TineNo) (gd gs gp : Gr) {s : State} (hK : Keeps kb kz s) : ∃ s', execCrcw t gd gs gp s = .next s' ∧ Keeps kb kz s' := by
  unfold execCrcw
  refine ⟨_, rfl, ?_⟩
  with_reducible repeat' (first | (assumption) | (refine ite_keeps _ (fun _ => ?_) (fun _ => ?_)) | (refine crcInstr_keeps _ _ _ _ _ _ ?_))

theorem execPar_keeps {kb kz} (t : TineNo) (gd gs : Gr) (w : BitVec 6) {s : State} (hK : Keeps kb kz s) : ∃ s', execPar t gd gs w s = .next s' ∧ Keeps kb kz s' := by
  unfold execPar
  refine ⟨_, rfl, ?_⟩
  with_reducible repeat' (first | (assumption) | (refine ite_keeps _ (fun _ => ?_) (fun _ => ?_)) | (refine issue_keeps _ _ _ ?_ ?_) | (refine aluRetire_keeps _ _ _ _ ?_) | (refine illegal_keeps _ ?_) | (refine setReg_keeps _ _ _ ?_) | (intro _))

theorem execBrev_keeps {kb kz} (t : TineNo) (gd gs : Gr) (w : BitVec 6) {s : State} (hK : Keeps kb kz s) : ∃ s', execBrev t gd gs w s = .next s' ∧ Keeps kb kz s' := by
  unfold execBrev
  refine ⟨_, rfl, ?_⟩
  with_reducible repeat' (first | (assumption) | (refine ite_keeps _ (fun _ => ?_) (fun _ => ?_)) | (refine issue_keeps _ _ _ ?_ ?_) | (refine aluRetire_keeps _ _ _ _ ?_) | (refine illegal_keeps _ ?_) | (refine setReg_keeps _ _ _ ?_) | (intro _))

/-! ## Machine/Window.lean -/

theorem runTine_keeps {kb kz} (i : Instr) {s : State} (hK : Keeps kb kz s) : ∃ s', runTine i s = .next s' ∧ Keeps kb kz s' := by
  unfold runTine
  split
  · exact execMov_keeps _ _ hK
  · exact execMovi_keeps _ _ hK
  · exact execMovhi_keeps _ _ _ hK
  · exact execAdd_keeps _ _ hK
  · exact execSub_keeps _ _ hK
  · exact execAddi_keeps _ _ hK
  · exact execAdds_keeps _ _ _ _ hK
  · exact execSubs_keeps _ _ _ _ hK
  · exact execAnd_keeps _ _ hK
  · exact execOr_keeps _ _ hK
  · exact execXor_keeps _ _ hK
  · exact execAndn_keeps _ _ _ _ hK
  · exact execAndi_keeps _ _ _ _ hK
  · exact execOri_keeps _ _ _ _ hK
  · exact execXori_keeps _ _ _ _ hK
  · exact execShl_keeps _ _ _ _ hK
  · exact execShr_keeps _ _ _ _ hK
  · exact execAsh_keeps _ _ hK
  · exact execRot_keeps _ _ _ _ hK
  · exact execMin_keeps _ _ _ _ hK
  · exact execMax_keeps _ _ _ _ hK
  · exact execCmp_keeps _ _ hK
  · exact execCmpi_keeps _ _ hK
  · exact execNeg_keeps _ _ hK
  · exact execNot_keeps _ _ hK
  · exact execAbs_keeps _ _ hK
  · exact execNorm_keeps _ _ hK
  · exact execNormm_keeps _ _ hK
  · exact execLog2_keeps _ _ _ hK
  · exact execExp2_keeps _ _ _ hK
  · exact execRecip_keeps _ _ _ hK
  · exact execRsqrt_keeps _ _ _ hK
  · exact execCrc8_keeps _ _ _ _ hK
  · exact execCrcw_keeps _ _ _ _ hK
  · exact execPar_keeps _ _ _ _ hK
  · exact execBrev_keeps _ _ _ _ hK
  · exact execMacDual_keeps _ _ _ _ hK
  · exact execMacQuad_keeps _ _ _ _ _ _ _ _ hK
  · exact execMacC_keeps _ _ _ _ _ _ hK
  · exact execMacm_keeps _ _ _ _ _ _ _ _ hK
  · exact execClra_keeps _ _ hK
  · exact execNega_keeps _ _ hK
  · exact execAbsa_keeps _ _ hK
  · exact execLda_keeps _ _ _ _ hK
  · exact execAdda_keeps _ _ _ hK
  · exact execSuba_keeps _ _ _ hK
  · exact execAsha_keeps _ _ _ hK
  · exact execNorma_keeps _ _ _ hK
  · exact execWba_keeps _ _ _ _ _ hK
  · exact execWbaH_keeps _ _ _ _ _ hK
  · exact execWbaD_keeps _ _ _ _ _ hK
  · exact execLd_keeps _ _ hK
  · exact execSt_keeps _ _ hK
  · exact execLdstC_keeps _ _ _ _ _ hK
  · exact execLdh_keeps _ _ hK
  · exact execSth_keeps _ _ hK
  · exact execLdd_keeps _ _ hK
  · exact execStd_keeps _ _ hK
  · exact execSwap_keeps _ _ hK
  · exact execSva_keeps _ _ hK
  · exact execRsa_keeps _ _ hK
  · exact execHpop_keeps _ _ hK
  · exact execHpush_keeps _ _ hK
  · exact execFence_keeps _ hK
  · exact execBr_keeps _ _ hK
  · exact execBrc_keeps _ _ hK
  · exact execJmp_keeps _ _ hK
  · exact execCall_keeps _ _ hK
  · exact execNop_keeps _ hK
  · exact execWait_keeps _ hK
  · exact execCloche_keeps _ _ hK
  · exact execSysc_keeps _ _ hK
  · exact execRetx_keeps _ _ _ _ _ hK
  · exact execBkpt_keeps _ hK
  · exact execMfc_keeps _ _ _ hK
  · exact execMtc_keeps _ _ _ hK
  · exact execRep_keeps _ _ hK
  · exact execRepu_keeps _ _ hK
  · exact execRepr_keeps _ _ _ hK
  · exact execLoop_keeps _ _ _ hK
  · exact execLoopr_keeps _ _ _ hK
  · exact execEndl_keeps _ hK
  · exact ⟨_, rfl, hK⟩

theorem resState_keeps {kb kz} {r : Res} (s : State) (h : ∃ s', r = .next s' ∧ Keeps kb kz s') : Keeps kb kz (resState r s) := by
  obtain ⟨s', rfl, h⟩ := h
  exact h

theorem earlyDone_keeps {kb kz} (t : TineNo) (e : Option Early) {s : State} (hK : Keeps kb kz s) : Keeps kb kz (earlyDone t e s) := by
  unfold earlyDone
  with_reducible repeat' (first | (assumption) | (refine ite_keeps _ (fun _ => ?_) (fun _ => ?_)) | (refine loadDone_keeps _ _ _ _ _ _ _ ?_) | (refine loadFail_keeps _ _ _ _ _ ?_) | (refine setReg_keeps _ _ _ ?_) | (intro _) | (split))

theorem runEntry_keeps {kb kz} (t : TineNo) (e : WinEnt) {s : State} (hK : Keeps kb kz s) : Keeps kb kz (runEntry t e s) := by
  unfold runEntry
  exact earlyDone_keeps _ _ (resState_keeps _ (runTine_keeps _ hK))

theorem runWindow_keeps {kb kz} (t : TineNo) (l : List WinEnt) {s : State} (hK : Keeps kb kz s) : Keeps kb kz (runWindow t l s) := by
  revert hK
  fun_induction runWindow t l s <;> intro hK <;> (try dsimp only) <;> with_reducible repeat' (first | (assumption) | (refine ite_keeps _ (fun _ => ?_) (fun _ => ?_)) | (refine runEntry_keeps _ _ ?_) | (refine modTine_keeps _ _ ?_) | (refine setReg_keeps _ _ _ ?_) | (apply_assumption))

theorem windowGo_keeps {kb kz} (t : TineNo) {s : State} (hK : Keeps kb kz s) : Keeps kb kz (windowGo t s) := by
  unfold windowGo
  (try dsimp only)
  with_reducible repeat' (first | (assumption) | (refine ite_keeps _ (fun _ => ?_) (fun _ => ?_)) | (refine runWindow_keeps _ _ ?_) | (refine modTine_keeps _ _ ?_))

theorem windowsGo_keeps {kb kz}  {s : State} (hK : Keeps kb kz s) : Keeps kb kz (windowsGo s) := by
  unfold windowsGo
  with_reducible repeat' (first | (assumption) | (refine ite_keeps _ (fun _ => ?_) (fun _ => ?_)) | (refine forAll_keeps _ _ ?_ ?_) | (refine windowGo_keeps _ ?_) | (refine setReg_keeps _ _ _ ?_) | (intro _))

theorem byTag_keeps {kb kz} (t : TineNo) (l : List (WinEnt × Hazard × Pending)) {s : State} (hK : Keeps kb kz s) : Keeps kb kz (byTag t l s) := by
  revert hK
  fun_induction byTag t l s <;> intro hK <;> (try dsimp only) <;> with_reducible repeat' (first | (assumption) | (refine ite_keeps _ (fun _ => ?_) (fun _ => ?_)) | (refine runEntry_keeps _ _ ?_) | (refine doUpds_keeps _ _ ?_) | (refine setReg_keeps _ _ _ ?_) | (apply_assumption))

theorem tagState_keeps {kb kz} (t : TineNo) (l : List (WinEnt × Hazard × Pending)) {s : State} (hK : Keeps kb kz s) : Keeps kb kz (tagState s t l) := by
  unfold tagState
  (try dsimp only)
  with_reducible repeat' (first | (assumption) | (refine ite_keeps _ (fun _ => ?_) (fun _ => ?_)) | (refine byTag_keeps _ _ ?_) | (refine doUpds_keeps _ _ ?_) | (refine modTine_keeps _ _ ?_))

theorem readAhead_keeps {kb kz} (t : TineNo) (k : Nat) (ups : List Upset) {s : State} (hK : Keeps kb kz s) : Keeps kb kz (readAhead t k ups s) := by
  unfold readAhead
  (try dsimp only)
  with_reducible repeat' (first | (assumption) | (refine ite_keeps _ (fun _ => ?_) (fun _ => ?_)) | (refine tagState_keeps _ _ ?_) | (refine (xlatWords_keeps _ _ _ ?_).out) | (refine xlatWords_keeps_out _ _ _ ?_ (by assumption)) | (refine (readAll_keeps _ _ _ _ _ _ ?_).out) | (refine readAll_keeps_out _ _ _ _ _ _ ?_ (by assumption)) | (refine modTine_keeps _ _ ?_) | (refine setReg_keeps _ _ _ ?_) | (intro _) | (split))

theorem execLoadDataReturn_keeps {kb kz} (t : TineNo) (r : LoadRet) {s : State} (hK : Keeps kb kz s) : ∃ s', execLoadDataReturn t r s = .next s' ∧ Keeps kb kz s' := by
  unfold execLoadDataReturn
  refine ⟨_, rfl, ?_⟩
  with_reducible repeat' (first | (assumption) | (refine ite_keeps _ (fun _ => ?_) (fun _ => ?_)) | (refine windowGo_keeps _ ?_) | (refine loadReturn_keeps _ _ ?_) | (refine readAhead_keeps _ _ _ ?_) | (refine setReg_keeps _ _ _ ?_) | (intro _) | (split))

theorem execStoreBufferDrain_keeps {kb kz} (t : TineNo) (up : Upset) {s : State} (hK : Keeps kb kz s) : ∃ s', execStoreBufferDrain t up s = .next s' ∧ Keeps kb kz s' := by
  unfold execStoreBufferDrain
  refine ⟨_, rfl, ?_⟩
  with_reducible repeat' (first | (assumption) | (refine ite_keeps _ (fun _ => ?_) (fun _ => ?_)) | (refine windowGo_keeps _ ?_) | (refine drainOldest_keeps _ _ ?_))

theorem execHpushAccept_keeps {kb kz} (t : TineNo) {s : State} (hK : Keeps kb kz s) : ∃ s', execHpushAccept t s = .next s' ∧ Keeps kb kz s' := by
  unfold execHpushAccept
  refine ⟨_, rfl, ?_⟩
  with_reducible repeat' (first | (assumption) | (refine ite_keeps _ (fun _ => ?_) (fun _ => ?_)) | (refine windowGo_keeps _ ?_) | (refine pushAgain_keeps _ ?_))

theorem execCkptCommit_keeps {kb kz} (t : TineNo) {s : State} (hK : Keeps kb kz s) : ∃ s', execCkptCommit t s = .next s' ∧ Keeps kb kz s' := by
  unfold execCkptCommit
  refine ⟨_, rfl, ?_⟩
  with_reducible repeat' (first | (assumption) | (refine ite_keeps _ (fun _ => ?_) (fun _ => ?_)) | (refine ckptCommit_keeps _ ?_))

end Sys2Proof.Machine
end

