-- ==== Sys2Proof/Laws/KeepsTrch.lean ====
section
/-! SUPPORT. Laws that say, operation by operation, that the canonical form, the queue and OTP are kept: channel programs. -/

namespace Sys2Proof.Machine

/-! ## Machine/TrchExec.lean -/

theorem chRead_keeps {kb kz} (c va : Nat) (up : Upset) (fetch : Bool) {s : State} (hK : Keeps kb kz s) : Keeps1 kb kz (chRead c va up fetch s) := by
  unfold chRead
  (try dsimp only)
  with_reducible repeat' (first | (assumption) | (refine ite_keeps _ (fun _ => ?_) (fun _ => ?_)) | (refine (chanXlat_keeps _ _ _ _ ?_).out) | (refine chanXlat_keeps_out _ _ _ _ ?_ (by assumption)) | (refine chForget_keeps _ ?_) | (refine physAsk_keeps _ _ ?_) | (refine (physRead_keeps _ _ _ ?_).out) | (refine physRead_keeps_out _ _ _ ?_ (by assumption)) | (refine setReg_keeps _ _ _ ?_) | (intro _) | (split) | (refine chanXlat_keeps _ _ _ _ ?_) | (refine physRead_keeps _ _ _ ?_) | (simp only [keeps_mk, keeps1_mk, keeps2_mk, keeps3_mk, keeps4_mk]))
theorem chRead_keeps_out {kb kz} (c va : Nat) (up : Upset) (fetch : Bool) {s : State} (hK : Keeps kb kz s) {x0 s₁} (hE : chRead c va up fetch s = (x0, s₁)) : Keeps kb kz s₁ := by
  have := chRead_keeps (kb := kb) (kz := kz) c va up fetch  hK
  rw [hE] at this; exact this.out

theorem persistCount_keeps {kb kz}  {s : State} (hK : Keeps kb kz s) : Keeps kb kz (persistCount s) := by
  unfold persistCount
  with_reducible repeat' (first | (assumption) | (refine ite_keeps _ (fun _ => ?_) (fun _ => ?_)) | (refine bumpF_keeps _ _ _ _ _ ?_))

theorem replayCount_keeps {kb kz} (c : Nat) {s : State} (hK : Keeps kb kz s) : Keeps kb kz (replayCount c s) := by
  unfold replayCount
  with_reducible repeat' (first | (assumption) | (refine ite_keeps _ (fun _ => ?_) (fun _ => ?_)) | (refine bumpF_keeps _ _ _ _ _ ?_) | (refine modChan_keeps _ _ ?_))

theorem replayWrite_keeps {kb kz} (c : Nat) (w : ChWrite) {s : State} (hK : Keeps kb kz s) : Keeps kb kz (replayWrite c w s) := by
  unfold replayWrite
  (try dsimp only)
  with_reducible repeat' (first | (assumption) | (refine ite_keeps _ (fun _ => ?_) (fun _ => ?_)) | (refine replayCount_keeps _ ?_) | (refine bumpF_keeps _ _ _ _ _ ?_) | (refine modChan_keeps _ _ ?_))

theorem busTry_keeps {kb kz} (c : Nat) {s : State} (hK : Keeps kb kz s) : Keeps1 kb kz (busTry c s) := by
  unfold busTry
  with_reducible repeat' (first | (assumption) | (refine ite_keeps _ (fun _ => ?_) (fun _ => ?_)) | (refine modChan_keeps _ _ ?_) | (refine persistCount_keeps ?_) | (refine setReg_keeps _ _ _ ?_) | (intro _) | (split) | (simp only [keeps_mk, keeps1_mk, keeps2_mk, keeps3_mk, keeps4_mk]))
theorem busTry_keeps_out {kb kz} (c : Nat) {s : State} (hK : Keeps kb kz s) {x0 s₁} (hE : busTry c s = (x0, s₁)) : Keeps kb kz s₁ := by
  have := busTry_keeps (kb := kb) (kz := kz) c  hK
  rw [hE] at this; exact this.out

theorem chSkipBad_keeps {kb kz} (c : Nat) {s : State} (hK : Keeps kb kz s) : Keeps kb kz (chSkipBad c s) := by
  unfold chSkipBad
  with_reducible repeat' (first | (assumption) | (refine ite_keeps _ (fun _ => ?_) (fun _ => ?_)) | (refine chFinish_keeps _ ?_) | (refine setStat_keeps _ _ _ ?_) | (refine modChan_keeps _ _ ?_))

theorem chGot_keeps {kb kz} (c : Nat) (w0 w1 : Word) {s : State} (hK : Keeps kb kz s) : Keeps kb kz (chGot c w0 w1 s) := by
  unfold chGot
  (try dsimp only)
  with_reducible repeat' (first | (assumption) | (refine ite_keeps _ (fun _ => ?_) (fun _ => ?_)) | (refine fltClear_keeps _ ?_) | (refine chSkipBad_keeps _ ?_) | (refine modChan_keeps _ _ ?_) | (refine progErr_keeps _ _ ?_))

theorem fetchFail_keeps {kb kz} (c cause sub va : Nat) {s : State} (hK : Keeps kb kz s) : Keeps kb kz (fetchFail c cause sub va s) := by
  unfold fetchFail
  with_reducible repeat' (first | (assumption) | (refine ite_keeps _ (fun _ => ?_) (fun _ => ?_)) | (refine chError_keeps _ _ ?_) | (refine modChan_keeps _ _ ?_))

theorem fetchBus_keeps {kb kz} (c va : Nat) {s : State} (hK : Keeps kb kz s) : Keeps kb kz (fetchBus c va s) := by
  unfold fetchBus
  with_reducible repeat' (first | (assumption) | (refine ite_keeps _ (fun _ => ?_) (fun _ => ?_)) | (refine (busTry_keeps _ ?_).out) | (refine busTry_keeps_out _ ?_ (by assumption)) | (refine fetchFail_keeps _ _ _ _ ?_) | (refine setReg_keeps _ _ _ ?_) | (intro _) | (split))

theorem chFetch_keeps {kb kz} (c : Nat) (up0 up1 : Upset) {s : State} (hK : Keeps kb kz s) : Keeps kb kz (chFetch c up0 up1 s) := by
  unfold chFetch
  (try dsimp only)
  with_reducible repeat' (first | (assumption) | (refine ite_keeps _ (fun _ => ?_) (fun _ => ?_)) | (refine progErr_keeps _ _ ?_) | (refine (chRead_keeps _ _ _ _ ?_).out) | (refine chRead_keeps_out _ _ _ _ ?_ (by assumption)) | (refine fetchFail_keeps _ _ _ _ ?_) | (refine fetchBus_keeps _ _ ?_) | (refine chGot_keeps _ _ _ ?_) | (refine setReg_keeps _ _ _ ?_) | (intro _) | (split))

theorem journalNow_keeps {kb kz} (c : Nat) (m : Move) {s : State} (hK : Keeps kb kz s) : Keeps kb kz (journalNow c m s) := by
  unfold journalNow
  (try dsimp only)
  with_reducible repeat' (first | (assumption) | (refine ite_keeps _ (fun _ => ?_) (fun _ => ?_)) | (refine modChan_keeps _ _ ?_))

theorem movePersist_keeps {kb kz} (c side va : Nat) (m : Move) {s0 : State} (hK : Keeps kb kz s0) : Keeps kb kz (movePersist c side va m s0) := by
  unfold movePersist
  (try dsimp only)
  with_reducible repeat' (first | (assumption) | (refine ite_keeps _ (fun _ => ?_) (fun _ => ?_)) | (refine unhold_keeps _ ?_) | (refine moveEnd_keeps _ ?_) | (refine modChan_keeps _ _ ?_))

theorem moveBus_keeps {kb kz} (c side va : Nat) (m : Move) {s : State} (hK : Keeps kb kz s) : Keeps kb kz (moveBus c side va m s) := by
  unfold moveBus
  with_reducible repeat' (first | (assumption) | (refine ite_keeps _ (fun _ => ?_) (fun _ => ?_)) | (refine (busTry_keeps _ ?_).out) | (refine busTry_keeps_out _ ?_ (by assumption)) | (refine movePersist_keeps _ _ _ _ ?_) | (refine setPhase_keeps _ _ ?_) | (refine setReg_keeps _ _ _ ?_) | (intro _) | (split))

theorem moveBoundary_keeps {kb kz} (c : Nat) (m : Move) {s : State} (hK : Keeps kb kz s) : Keeps kb kz (moveBoundary c m s) := by
  unfold moveBoundary
  (try dsimp only)
  with_reducible repeat' (first | (assumption) | (refine ite_keeps _ (fun _ => ?_) (fun _ => ?_)) | (refine journalNow_keeps _ _ ?_) | (refine moveEnd_keeps _ ?_) | (refine chBoundary_keeps _ ?_))

theorem runAdd_keeps {kb kz} (c : Nat) (w : Word) {s : State} (hK : Keeps kb kz s) : Keeps kb kz (runAdd c w s) := by
  unfold runAdd
  with_reducible repeat' (first | (assumption) | (refine ite_keeps _ (fun _ => ?_) (fun _ => ?_)) | (refine modChan_keeps _ _ ?_))

theorem accessOver_keeps {kb kz} (c : Nat) {s : State} (hK : Keeps kb kz s) : Keeps kb kz (accessOver c s) := by
  unfold accessOver
  with_reducible repeat' (first | (assumption) | (refine ite_keeps _ (fun _ => ?_) (fun _ => ?_)) | (refine modChan_keeps _ _ ?_))

theorem putMem_keeps {kb kz} (c va : Nat) (w : Word) (up : Upset) (m : Move) {s : State} (hK : Keeps kb kz s) : Keeps2 kb kz (putMem c va w up m s) := by
  unfold putMem
  (try dsimp only)
  with_reducible repeat' (first | (assumption) | (refine ite_keeps _ (fun _ => ?_) (fun _ => ?_)) | (refine (chanXlat_keeps _ _ _ _ ?_).out) | (refine chanXlat_keeps_out _ _ _ _ ?_ (by assumption)) | (refine moveError_keeps _ _ _ _ _ _ ?_) | (refine runAdd_keeps _ _ ?_) | (refine moveBus_keeps _ _ _ _ ?_) | (refine (physWrite_keeps _ _ _ _ _ ?_).out) | (refine physWrite_keeps_out _ _ _ _ _ ?_ (by assumption)) | (refine accessOver_keeps _ ?_) | (refine unhold_keeps _ ?_) | (refine chIssue_keeps _ _ ?_) | (refine setReg_keeps _ _ _ ?_) | (intro _) | (split) | (refine chanXlat_keeps _ _ _ _ ?_) | (refine physWrite_keeps _ _ _ _ _ ?_) | (simp only [keeps_mk, keeps1_mk, keeps2_mk, keeps3_mk, keeps4_mk]) | (refine parts_of ?_))
theorem putMem_keeps_out {kb kz} (c va : Nat) (w : Word) (up : Upset) (m : Move) {s : State} (hK : Keeps kb kz s) {x0 x1 s₁} (hE : putMem c va w up m s = (x0, x1, s₁)) : Keeps kb kz s₁ := by
  have := putMem_keeps (kb := kb) (kz := kz) c va w up m  hK
  rw [hE] at this; exact this.out

theorem sideTransfer_keeps {kb kz} (d : Word) (talk : Bool) (w : Word) (f : State → State) {s : State} (h_f : ∀  s, Keeps kb kz s → Keeps kb kz (f  s)) (hK : Keeps kb kz s) : Keeps kb kz (sideTransfer d talk w f s) := by
  unfold sideTransfer
  with_reducible repeat' (first | (assumption) | (refine ite_keeps _ (fun _ => ?_) (fun _ => ?_)) | (refine withRow_keeps _ _ ?_ ?_) | (refine gaugeTake_keeps _ _ _ _ ?_) | (refine setReg_keeps _ _ _ ?_) | (apply h_f))

theorem putFifo_keeps {kb kz} (c : Nat) (w : Word) (up : Upset) (m : Move) {s : State} (hK : Keeps kb kz s) : Keeps2 kb kz (putFifo c w up m s) := by
  unfold putFifo
  (try dsimp only)
  with_reducible repeat' (first | (assumption) | (refine ite_keeps _ (fun _ => ?_) (fun _ => ?_)) | (refine moveBus_keeps _ _ _ _ ?_) | (refine accessOver_keeps _ ?_) | (refine sideTransfer_keeps _ _ _ _ ?_ ?_) | (refine setFifo_keeps _ _ ?_) | (refine setReg_keeps _ _ _ ?_) | (intro _) | (split) | (simp only [keeps_mk, keeps1_mk, keeps2_mk, keeps3_mk, keeps4_mk]))
theorem putFifo_keeps_out {kb kz} (c : Nat) (w : Word) (up : Upset) (m : Move) {s : State} (hK : Keeps kb kz s) {x0 x1 s₁} (hE : putFifo c w up m s = (x0, x1, s₁)) : Keeps kb kz s₁ := by
  have := putFifo_keeps (kb := kb) (kz := kz) c w up m  hK
  rw [hE] at this; exact this.out

theorem flushWords_keeps {kb kz} (c : Nat) (up : Upset) (ws : List Word) (m : Move) {s : State} (hK : Keeps kb kz s) : Keeps2 kb kz (flushWords c up ws m s) := by
  induction ws generalizing m s with
  | nil => exact ⟨hK⟩
  | cons w rest ih =>
    unfold flushWords
    have h1 : Keeps2 kb kz (if sideSpace m 3 = 0 then putMem c (sideAddr m 3 m.dstLine m.dstEl) w up m s else putFifo c w up m s) := by
      split
      · exact putMem_keeps _ _ _ _ _ hK
      · exact putFifo_keeps _ _ _ _ hK
    split
    next h => rw [h] at h1; exact ih _ ((keeps2_mk _ _ _).1 h1)
    next => exact h1
theorem flushWords_keeps_out {kb kz} (c : Nat) (up : Upset) (ws : List Word) (m : Move) {s : State} (hK : Keeps kb kz s) {x0 x1 s₁} (hE : flushWords c up ws m s = (x0, x1, s₁)) : Keeps kb kz s₁ := by
  have := flushWords_keeps (kb := kb) (kz := kz) c up ws m  hK
  rw [hE] at this; exact this.out

theorem convFlush_keeps {kb kz} (fuel c : Nat) (up : Upset) (m : Move) {s : State} (hK : Keeps kb kz s) : Keeps2 kb kz (convFlush fuel c up m s) := by
  induction fuel generalizing m s with
  | zero => exact ⟨hK⟩
  | succ n ih =>
    unfold convFlush
    extract_lets m1
    have h1 := flushWords_keeps c up m1.words m1 hK
    split
    next h =>
      rw [h] at h1
      have h2 := (keeps2_mk _ _ _).1 h1
      split
      · exact ih _ h2
      · exact ⟨h2⟩
    next => exact h1
theorem convFlush_keeps_out {kb kz} (fuel c : Nat) (up : Upset) (m : Move) {s : State} (hK : Keeps kb kz s) {x0 x1 s₁} (hE : convFlush fuel c up m s = (x0, x1, s₁)) : Keeps kb kz s₁ := by
  have := convFlush_keeps (kb := kb) (kz := kz) fuel c up m  hK
  rw [hE] at this; exact this.out

theorem afterFlush_keeps {kb kz} (c : Nat) {r : Flush × Move × State} (hK : Keeps2 kb kz r) : Keeps kb kz (afterFlush c r) := by
  obtain ⟨f, m, s⟩ := r
  cases f
  all_goals first | exact (keeps2_mk _ _ _).1 hK | exact moveBoundary_keeps _ _ ((keeps2_mk _ _ _).1 hK)

theorem tookWord_keeps {kb kz} (c : Nat) (w : Word) (pa : Nat) (wup : Upset) (m : Move) {s0 : State} (hK : Keeps kb kz s0) : Keeps kb kz (tookWord c w pa wup m s0) := by
  unfold tookWord
  (try dsimp only)
  with_reducible repeat' (first | (assumption) | (refine ite_keeps _ (fun _ => ?_) (fun _ => ?_)) | (refine accessOver_keeps _ ?_) | (refine (convFlush_keeps _ _ _ _ ?_).out) | (refine convFlush_keeps_out _ _ _ _ ?_ (by assumption)) | (refine moveBoundary_keeps _ _ ?_) | (refine setReg_keeps _ _ _ ?_) | (refine afterFlush_keeps _ ?_) | (intro _) | (split) | (refine convFlush_keeps _ _ _ _ ?_))

theorem moveRead_keeps {kb kz} (c : Nat) (up wup : Upset) (m : Move) {s : State} (hK : Keeps kb kz s) : Keeps kb kz (moveRead c up wup m s) := by
  unfold moveRead
  (try dsimp only)
  with_reducible repeat' (first | (assumption) | (refine ite_keeps _ (fun _ => ?_) (fun _ => ?_)) | (refine (chRead_keeps _ _ _ _ ?_).out) | (refine chRead_keeps_out _ _ _ _ ?_ (by assumption)) | (refine tookWord_keeps _ _ _ _ _ ?_) | (refine moveError_keeps _ _ _ _ _ _ ?_) | (refine moveBus_keeps _ _ _ _ ?_) | (refine sideTransfer_keeps _ _ _ _ ?_ ?_) | (refine setFifo_keeps _ _ ?_) | (refine setReg_keeps _ _ _ ?_) | (intro _) | (split))

theorem moveRefused_keeps {kb kz} (c cause : Nat) {s : State} (hK : Keeps kb kz s) : Keeps kb kz (moveRefused c cause s) := by
  unfold moveRefused
  with_reducible repeat' (first | (assumption) | (refine ite_keeps _ (fun _ => ?_) (fun _ => ?_)) | (refine chBad_keeps _ _ ?_) | (refine moveLeave_keeps _ _ _ ?_))

theorem moveStep_keeps {kb kz} (c : Nat) (up wup : Upset) (m : Move) {s : State} (hK : Keeps kb kz s) : Keeps kb kz (moveStep c up wup m s) := by
  unfold moveStep
  with_reducible repeat' (first | (assumption) | (refine ite_keeps _ (fun _ => ?_) (fun _ => ?_)) | (refine (flushWords_keeps _ _ _ _ ?_).out) | (refine flushWords_keeps_out _ _ _ _ ?_ (by assumption)) | (refine chBoundary_keeps _ ?_) | (refine journalNow_keeps _ _ ?_) | (refine setPhase_keeps _ _ ?_) | (refine (convFlush_keeps _ _ _ _ ?_).out) | (refine convFlush_keeps_out _ _ _ _ ?_ (by assumption)) | (refine moveRead_keeps _ _ _ _ ?_) | (refine moveRefused_keeps _ _ ?_) | (refine setReg_keeps _ _ _ ?_) | (refine afterFlush_keeps _ ?_) | (intro _) | (split) | (refine flushWords_keeps _ _ _ _ ?_) | (refine convFlush_keeps _ _ _ _ ?_))

theorem descDone_keeps {kb kz} (c : Nat) (ws : List Word) (r : Nat) {s : State} (hK : Keeps kb kz s) : Keeps kb kz (descDone c ws r s) := by
  unfold descDone
  (try dsimp only)
  with_reducible repeat' (first | (assumption) | (refine ite_keeps _ (fun _ => ?_) (fun _ => ?_)) | (refine chBoundary_keeps _ ?_) | (refine journalNow_keeps _ _ ?_) | (refine progErr_keeps _ _ ?_) | (refine setReg_keeps _ _ _ ?_) | (intro _) | (split))

theorem descError_keeps {kb kz} (c base r cause sub va : Nat) {s : State} (hK : Keeps kb kz s) : Keeps kb kz (descError c base r cause sub va s) := by
  unfold descError
  (try dsimp only)
  with_reducible repeat' (first | (assumption) | (refine ite_keeps _ (fun _ => ?_) (fun _ => ?_)) | (refine chError_keeps _ _ ?_) | (refine setPhase_keeps _ _ ?_))

theorem descPersist_keeps {kb kz} (c r va : Nat) {s : State} (hK : Keeps kb kz s) : Keeps kb kz (descPersist c r va s) := by
  unfold descPersist
  (try dsimp only)
  with_reducible repeat' (first | (assumption) | (refine ite_keeps _ (fun _ => ?_) (fun _ => ?_)) | (refine chBad_keeps _ _ ?_) | (refine modChan_keeps _ _ ?_))

theorem descRead_keeps {kb kz} (fuel c base : Nat) (ws : List Word) (r : Nat) (ups : List Upset) {s : State} (hK : Keeps kb kz s) : Keeps kb kz (descRead fuel c base ws r ups s) := by
  induction fuel generalizing ws ups s with
  | zero => exact descDone_keeps _ _ _ hK
  | succ n ih =>
    unfold descRead
    extract_lets va
    have h1 := chRead_keeps c va (ups.headD .ok) false hK
    split
    next h => rw [h] at h1; exact ih _ _ (setPhase_keeps _ _ (fltClear_keeps _ ((keeps1_mk _ _).1 h1)))
    next h => rw [h] at h1; exact (keeps1_mk _ _).1 h1
    next h => rw [h] at h1; exact descError_keeps _ _ _ _ _ _ ((keeps1_mk _ _).1 h1)
    next s1 h =>
      rw [h] at h1
      have h2 := busTry_keeps c ((keeps1_mk _ _).1 h1)
      split
      next e => rw [e] at h2; exact descPersist_keeps _ _ _ ((keeps1_mk _ _).1 h2)
      next e => rw [e] at h2; exact (keeps1_mk _ _).1 h2

theorem descGo_keeps {kb kz} (c : Nat) (ups : List Upset) {s : State} (hK : Keeps kb kz s) : Keeps kb kz (descGo c ups s) := by
  unfold descGo
  with_reducible repeat' (first | (assumption) | (refine ite_keeps _ (fun _ => ?_) (fun _ => ?_)) | (refine descRead_keeps _ _ _ _ _ _ ?_) | (refine setReg_keeps _ _ _ ?_) | (intro _) | (split))

theorem postWrite_keeps {kb kz} (c tag sel imm : Nat) {s : State} (hK : Keeps kb kz s) : Keeps kb kz (postWrite c tag sel imm s) := by
  unfold postWrite
  (try dsimp only)
  with_reducible repeat' (first | (assumption) | (refine ite_keeps _ (fun _ => ?_) (fun _ => ?_)) | (refine setPhase_keeps _ _ ?_) | (refine (chanXlat_keeps _ _ _ _ ?_).out) | (refine chanXlat_keeps_out _ _ _ _ ?_ (by assumption)) | (refine accError_keeps _ _ _ _ ?_) | (refine chIssue_keeps _ _ ?_) | (refine setReg_keeps _ _ _ ?_) | (intro _) | (split))

theorem postPublish_keeps {kb kz} (c : Nat) {s : State} (hK : Keeps kb kz s) : Keeps kb kz (postPublish c s) := by
  unfold postPublish
  (try dsimp only)
  with_reducible repeat' (first | (assumption) | (refine ite_keeps _ (fun _ => ?_) (fun _ => ?_)) | (refine setChR_keeps _ _ _ ?_) | (refine modChan_keeps _ _ ?_) | (refine fltClear_keeps _ ?_) | (refine setPhase_keeps _ _ ?_) | (refine chDone_keeps _ _ ?_))

theorem postDrop_keeps {kb kz} (c : Nat) {s : State} (hK : Keeps kb kz s) : Keeps kb kz (postDrop c s) := by
  unfold postDrop
  with_reducible repeat' (first | (assumption) | (refine ite_keeps _ (fun _ => ?_) (fun _ => ?_)) | (refine modChan_keeps _ _ ?_))

theorem resumedOk_keeps {kb kz} (c : Nat) (w : ChWrite) {s : State} (hK : Keeps kb kz s) : Keeps kb kz (resumedOk c w s) := by
  unfold resumedOk
  (try dsimp only)
  with_reducible repeat' (first | (assumption) | (refine ite_keeps _ (fun _ => ?_) (fun _ => ?_)) | (refine modChan_keeps _ _ ?_))

theorem writeDone_keeps {kb kz} (c : Nat) (w : ChWrite) {s0 : State} (hK : Keeps kb kz s0) : Keeps kb kz (writeDone c w s0) := by
  unfold writeDone
  (try dsimp only)
  with_reducible repeat' (first | (assumption) | (refine ite_keeps _ (fun _ => ?_) (fun _ => ?_)) | (refine resumedOk_keeps _ _ ?_) | (refine moveEnd_keeps _ ?_) | (refine postPublish_keeps _ ?_) | (refine chFinish_keeps _ ?_) | (refine fltClear_keeps _ ?_) | (refine tailEnd_keeps _ _ ?_) | (refine setReg_keeps _ _ _ ?_) | (intro _) | (split))

theorem statusLost_keeps {kb kz} (c : Nat) {s : State} (hK : Keeps kb kz s) : Keeps kb kz (statusLost c s) := by
  unfold statusLost
  (try dsimp only)
  with_reducible repeat' (first | (assumption) | (refine ite_keeps _ (fun _ => ?_) (fun _ => ?_)) | (refine badMark_keeps _ ?_) | (refine chFinish_keeps _ ?_))

theorem postPersist_keeps {kb kz} (c : Nat) {s : State} (hK : Keeps kb kz s) : Keeps kb kz (postPersist c s) := by
  unfold postPersist
  (try dsimp only)
  with_reducible repeat' (first | (assumption) | (refine ite_keeps _ (fun _ => ?_) (fun _ => ?_)) | (refine postDrop_keeps _ ?_) | (refine chBad_keeps _ _ ?_) | (refine lateStatus_keeps _ _ _ _ _ ?_) | (refine badMark_keeps _ ?_) | (refine setPhase_keeps _ _ ?_) | (refine setReg_keeps _ _ _ ?_) | (intro _) | (split))

theorem latePersist_keeps {kb kz} (c : Nat) (w : ChWrite) {s : State} (hK : Keeps kb kz s) : Keeps kb kz (latePersist c w s) := by
  unfold latePersist
  (try dsimp only)
  with_reducible repeat' (first | (assumption) | (refine ite_keeps _ (fun _ => ?_) (fun _ => ?_)) | (refine modChan_keeps _ _ ?_) | (refine tailEnd_keeps _ _ ?_) | (refine lateMark_keeps _ ?_))

theorem writePersist_keeps {kb kz} (c : Nat) (w : ChWrite) {s0 : State} (hK : Keeps kb kz s0) : Keeps kb kz (writePersist c w s0) := by
  unfold writePersist
  (try dsimp only)
  with_reducible repeat' (first | (assumption) | (refine ite_keeps _ (fun _ => ?_) (fun _ => ?_)) | (refine persistCount_keeps ?_) | (refine movePersist_keeps _ _ _ _ ?_) | (refine postPersist_keeps _ ?_) | (refine statusLost_keeps _ ?_) | (refine latePersist_keeps _ _ ?_) | (refine badMark_keeps _ ?_) | (refine setReg_keeps _ _ _ ?_) | (intro _) | (split))

theorem writeError_keeps {kb kz} (c cause sub : Nat) (w : ChWrite) (k : Nat) {s : State} (hK : Keeps kb kz s) : Keeps kb kz (writeError c cause sub w k s) := by
  unfold writeError
  (try dsimp only)
  with_reducible repeat' (first | (assumption) | (refine ite_keeps _ (fun _ => ?_) (fun _ => ?_)) | (refine modChan_keeps _ _ ?_) | (refine heldError_keeps _ _ _ _ ?_) | (refine tailEnd_keeps _ _ ?_) | (refine accError_keeps _ _ _ _ ?_) | (refine setPhase_keeps _ _ ?_) | (refine postDrop_keeps _ ?_) | (refine setReg_keeps _ _ _ ?_) | (intro _) | (split))

theorem writeOutcome_keeps {kb kz} (c k : Nat) (up : Upset) {s : State} (hK : Keeps kb kz s) : Keeps kb kz (writeOutcome c k up s) := by
  unfold writeOutcome
  (try dsimp only)
  with_reducible repeat' (first | (assumption) | (refine ite_keeps _ (fun _ => ?_) (fun _ => ?_)) | (refine modChan_keeps _ _ ?_) | (refine writePersist_keeps _ _ ?_) | (refine (physWrite_keeps _ _ _ _ _ ?_).out) | (refine physWrite_keeps_out _ _ _ _ _ ?_ (by assumption)) | (refine writeDone_keeps _ _ ?_) | (refine writeError_keeps _ _ _ _ _ ?_) | (refine setReg_keeps _ _ _ ?_) | (intro _) | (split))

theorem waitDone_keeps {kb kz} (c kind arg : Nat) {s : State} (hK : Keeps kb kz s) : Keeps kb kz (waitDone c kind arg s) := by
  unfold waitDone
  (try dsimp only)
  with_reducible repeat' (first | (assumption) | (refine ite_keeps _ (fun _ => ?_) (fun _ => ?_)) | (refine setChF_keeps _ _ _ _ _ ?_) | (refine chDone_keeps _ _ ?_) | (refine setStat_keeps _ _ _ ?_) | (refine setChState_keeps _ _ ?_))

theorem waitBegin_keeps {kb kz} (c kind arg timeout : Nat) {s : State} (hK : Keeps kb kz s) : Keeps kb kz (waitBegin c kind arg timeout s) := by
  unfold waitBegin
  with_reducible repeat' (first | (assumption) | (refine ite_keeps _ (fun _ => ?_) (fun _ => ?_)) | (refine waitDone_keeps _ _ _ ?_) | (refine setChF_keeps _ _ _ _ _ ?_) | (refine setChState_keeps _ _ ?_) | (refine setPhase_keeps _ _ ?_))

/-! ## Machine/TrchCmds.lean -/

theorem execCmdFetch_keeps {kb kz} (c : Fin 128) (up0 up1 : Upset) {s : State} (hK : Keeps kb kz s) : ∃ s', execCmdFetch c up0 up1 s = .next s' ∧ Keeps kb kz s' := by
  unfold execCmdFetch
  refine ⟨_, rfl, ?_⟩
  with_reducible repeat' (first | (assumption) | (refine ite_keeps _ (fun _ => ?_) (fun _ => ?_)) | (refine chFetch_keeps _ _ _ ?_))

theorem withCmd_keeps {kb kz} (c op : Nat) (sub : Option Nat) (f : Nat → State → State) {s : State} (h_f : ∀ a0 s, Keeps kb kz s → Keeps kb kz (f a0 s)) (hK : Keeps kb kz s) : Keeps kb kz (withCmd c op sub f s) := by
  unfold withCmd
  (try dsimp only)
  with_reducible repeat' (first | (assumption) | (refine ite_keeps _ (fun _ => ?_) (fun _ => ?_)) | (refine setReg_keeps _ _ _ ?_) | (apply h_f) | (refine (h_f _ ?_).out) | (intro _) | (split))

theorem execCmdNop_keeps {kb kz} (c : Fin 128) {s : State} (hK : Keeps kb kz s) : ∃ s', execCmdNop c s = .next s' ∧ Keeps kb kz s' := by
  unfold execCmdNop
  refine ⟨_, rfl, ?_⟩
  with_reducible repeat' (first | (assumption) | (refine ite_keeps _ (fun _ => ?_) (fun _ => ?_)) | (refine withCmd_keeps _ _ _ _ ?_ ?_) | (refine chDone_keeps _ _ ?_) | (refine setReg_keeps _ _ _ ?_) | (intro _))

theorem moveCmd_keeps {kb kz} (c : Nat) (ups : List Upset) (cmd : Nat) {s : State} (hK : Keeps kb kz s) : Keeps kb kz (moveCmd c ups cmd s) := by
  unfold moveCmd
  (try dsimp only)
  with_reducible repeat' (first | (assumption) | (refine ite_keeps _ (fun _ => ?_) (fun _ => ?_)) | (refine progErr_keeps _ _ ?_) | (refine descGo_keeps _ _ ?_) | (refine modChan_keeps _ _ ?_))

theorem execCmdMove_keeps {kb kz} (c : Fin 128) (ups : List Upset) {s : State} (hK : Keeps kb kz s) : ∃ s', execCmdMove c ups s = .next s' ∧ Keeps kb kz s' := by
  unfold execCmdMove
  refine ⟨_, rfl, ?_⟩
  with_reducible repeat' (first | (assumption) | (refine ite_keeps _ (fun _ => ?_) (fun _ => ?_)) | (refine descGo_keeps _ _ ?_) | (refine withCmd_keeps _ _ _ _ ?_ ?_) | (refine moveCmd_keeps _ _ _ ?_) | (refine setReg_keeps _ _ _ ?_) | (intro _) | (split))

theorem execMoveElement_keeps {kb kz} (c : Fin 128) (up wup : Upset) {s : State} (hK : Keeps kb kz s) : ∃ s', execMoveElement c up wup s = .next s' ∧ Keeps kb kz s' := by
  unfold execMoveElement
  refine ⟨_, rfl, ?_⟩
  with_reducible repeat' (first | (assumption) | (refine ite_keeps _ (fun _ => ?_) (fun _ => ?_)) | (refine moveStep_keeps _ _ _ _ ?_) | (refine setReg_keeps _ _ _ ?_) | (intro _) | (split))

theorem loopCmd_keeps {kb kz} (c cmd : Nat) {s : State} (hK : Keeps kb kz s) : Keeps kb kz (loopCmd c cmd s) := by
  unfold loopCmd
  (try dsimp only)
  with_reducible repeat' (first | (assumption) | (refine ite_keeps _ (fun _ => ?_) (fun _ => ?_)) | (refine progErr_keeps _ _ ?_) | (refine chDone_keeps _ _ ?_) | (refine setChF_keeps _ _ _ _ _ ?_) | (refine setChR_keeps _ _ _ ?_))

theorem execCmdLoop_keeps {kb kz} (c : Fin 128) {s : State} (hK : Keeps kb kz s) : ∃ s', execCmdLoop c s = .next s' ∧ Keeps kb kz s' := by
  unfold execCmdLoop
  refine ⟨_, rfl, ?_⟩
  with_reducible repeat' (first | (assumption) | (refine ite_keeps _ (fun _ => ?_) (fun _ => ?_)) | (refine withCmd_keeps _ _ _ _ ?_ ?_) | (refine loopCmd_keeps _ _ ?_) | (refine setReg_keeps _ _ _ ?_) | (intro _))

theorem chJump_keeps {kb kz} (c a : Nat) {s : State} (hK : Keeps kb kz s) : Keeps kb kz (chJump c a s) := by
  unfold chJump
  with_reducible repeat' (first | (assumption) | (refine ite_keeps _ (fun _ => ?_) (fun _ => ?_)) | (refine modChan_keeps _ _ ?_))

theorem endloopCmd_keeps {kb kz} (c : Nat) {s : State} (hK : Keeps kb kz s) : Keeps kb kz (endloopCmd c s) := by
  unfold endloopCmd
  (try dsimp only)
  with_reducible repeat' (first | (assumption) | (refine ite_keeps _ (fun _ => ?_) (fun _ => ?_)) | (refine progErr_keeps _ _ ?_) | (refine chDone_keeps _ _ ?_) | (refine chJump_keeps _ _ ?_) | (refine setChF_keeps _ _ _ _ _ ?_))

theorem execCmdEndloop_keeps {kb kz} (c : Fin 128) {s : State} (hK : Keeps kb kz s) : ∃ s', execCmdEndloop c s = .next s' ∧ Keeps kb kz s' := by
  unfold execCmdEndloop
  refine ⟨_, rfl, ?_⟩
  with_reducible repeat' (first | (assumption) | (refine ite_keeps _ (fun _ => ?_) (fun _ => ?_)) | (refine withCmd_keeps _ _ _ _ ?_ ?_) | (refine endloopCmd_keeps _ ?_) | (refine setReg_keeps _ _ _ ?_) | (intro _))

theorem waitCmd_keeps {kb kz} (c cmd : Nat) {s : State} (hK : Keeps kb kz s) : Keeps kb kz (waitCmd c cmd s) := by
  unfold waitCmd
  (try dsimp only)
  with_reducible repeat' (first | (assumption) | (refine ite_keeps _ (fun _ => ?_) (fun _ => ?_)) | (refine waitBegin_keeps _ _ _ _ ?_) | (refine chBad_keeps _ _ ?_) | (refine progErr_keeps _ _ ?_) | (refine setReg_keeps _ _ _ ?_) | (intro _) | (split))

theorem execCmdWait_keeps {kb kz} (c : Fin 128) {s : State} (hK : Keeps kb kz s) : ∃ s', execCmdWait c s = .next s' ∧ Keeps kb kz s' := by
  unfold execCmdWait
  refine ⟨_, rfl, ?_⟩
  with_reducible repeat' (first | (assumption) | (refine ite_keeps _ (fun _ => ?_) (fun _ => ?_)) | (refine withCmd_keeps _ _ _ _ ?_ ?_) | (refine waitCmd_keeps _ _ ?_) | (refine setReg_keeps _ _ _ ?_) | (intro _))

theorem execWaitComplete_keeps {kb kz} (c : Fin 128) {s : State} (hK : Keeps kb kz s) : ∃ s', execWaitComplete c s = .next s' ∧ Keeps kb kz s' := by
  unfold execWaitComplete
  refine ⟨_, rfl, ?_⟩
  with_reducible repeat' (first | (assumption) | (refine ite_keeps _ (fun _ => ?_) (fun _ => ?_)) | (refine waitDone_keeps _ _ _ ?_) | (refine setReg_keeps _ _ _ ?_) | (intro _) | (split))

theorem execWaitTimeout_keeps {kb kz} (c : Fin 128) {s : State} (hK : Keeps kb kz s) : ∃ s', execWaitTimeout c s = .next s' ∧ Keeps kb kz s' := by
  unfold execWaitTimeout
  refine ⟨_, rfl, ?_⟩
  with_reducible repeat' (first | (assumption) | (refine ite_keeps _ (fun _ => ?_) (fun _ => ?_)) | (refine chDone_keeps _ _ ?_) | (refine setStat_keeps _ _ _ ?_) | (refine setChF_keeps _ _ _ _ _ ?_) | (refine setChState_keeps _ _ ?_) | (refine setReg_keeps _ _ _ ?_) | (intro _) | (split))

theorem signalPush_keeps {kb kz} (c h : Nat) (item : Word) {s : State} (hK : Keeps kb kz s) : Keeps kb kz (signalPush c h item s) := by
  unfold signalPush
  with_reducible repeat' (first | (assumption) | (refine ite_keeps _ (fun _ => ?_) (fun _ => ?_)) | (refine (hopOffer_keeps _ _ ?_).out) | (refine hopOffer_keeps_out _ _ ?_ (by assumption)) | (refine chBad_keeps _ _ ?_) | (refine chBoundary_keeps _ ?_) | (refine setPhase_keeps _ _ ?_) | (refine chDone_keeps _ _ ?_) | (refine setReg_keeps _ _ _ ?_) | (intro _) | (split))

theorem signalHopper_keeps {kb kz} (c cmd : Nat) {s : State} (hK : Keeps kb kz s) : Keeps kb kz (signalHopper c cmd s) := by
  unfold signalHopper
  (try dsimp only)
  with_reducible repeat' (first | (assumption) | (refine ite_keeps _ (fun _ => ?_) (fun _ => ?_)) | (refine signalPush_keeps _ _ _ ?_) | (refine chBad_keeps _ _ ?_) | (refine setReg_keeps _ _ _ ?_) | (intro _) | (split))

theorem execCmdSignalHopper_keeps {kb kz} (c : Fin 128) {s : State} (hK : Keeps kb kz s) : ∃ s', execCmdSignalHopper c s = .next s' ∧ Keeps kb kz s' := by
  unfold execCmdSignalHopper
  refine ⟨_, rfl, ?_⟩
  with_reducible repeat' (first | (assumption) | (refine ite_keeps _ (fun _ => ?_) (fun _ => ?_)) | (refine withCmd_keeps _ _ _ _ ?_ ?_) | (refine signalHopper_keeps _ _ ?_) | (refine setReg_keeps _ _ _ ?_) | (intro _))

theorem execSignalPushAccept_keeps {kb kz} (c : Fin 128) {s : State} (hK : Keeps kb kz s) : ∃ s', execSignalPushAccept c s = .next s' ∧ Keeps kb kz s' := by
  unfold execSignalPushAccept
  refine ⟨_, rfl, ?_⟩
  with_reducible repeat' (first | (assumption) | (refine ite_keeps _ (fun _ => ?_) (fun _ => ?_)) | (refine signalPush_keeps _ _ _ ?_) | (refine setReg_keeps _ _ _ ?_) | (intro _) | (split))

theorem signalUnit_keeps {kb kz} (c level unit n : Nat) {s : State} (hK : Keeps kb kz s) : Keeps kb kz (signalUnit c level unit n s) := by
  unfold signalUnit
  (try dsimp only)
  with_reducible repeat' (first | (assumption) | (refine ite_keeps _ (fun _ => ?_) (fun _ => ?_)) | (refine progErr_keeps _ _ ?_) | (refine chBad_keeps _ _ ?_) | (refine chDone_keeps _ _ ?_) | (refine raiseUnit_keeps _ _ _ ?_) | (refine cellRoute_keeps _ ?_))

theorem signalSieve_keeps {kb kz} (c cmd : Nat) {s : State} (hK : Keeps kb kz s) : Keeps kb kz (signalSieve c cmd s) := by
  unfold signalSieve
  (try dsimp only)
  with_reducible repeat' (first | (assumption) | (refine ite_keeps _ (fun _ => ?_) (fun _ => ?_)) | (refine progErr_keeps _ _ ?_) | (refine chDone_keeps _ _ ?_) | (refine raiseChain_keeps _ _ ?_) | (refine chBad_keeps _ _ ?_) | (refine signalUnit_keeps _ _ _ _ ?_))

theorem execCmdSignalSieve_keeps {kb kz} (c : Fin 128) {s : State} (hK : Keeps kb kz s) : ∃ s', execCmdSignalSieve c s = .next s' ∧ Keeps kb kz s' := by
  unfold execCmdSignalSieve
  refine ⟨_, rfl, ?_⟩
  with_reducible repeat' (first | (assumption) | (refine ite_keeps _ (fun _ => ?_) (fun _ => ?_)) | (refine withCmd_keeps _ _ _ _ ?_ ?_) | (refine signalSieve_keeps _ _ ?_) | (refine setReg_keeps _ _ _ ?_) | (intro _))

theorem signalChannel_keeps {kb kz} (c cmd : Nat) {s : State} (hK : Keeps kb kz s) : Keeps kb kz (signalChannel c cmd s) := by
  unfold signalChannel
  (try dsimp only)
  with_reducible repeat' (first | (assumption) | (refine ite_keeps _ (fun _ => ?_) (fun _ => ?_)) | (refine progErr_keeps _ _ ?_) | (refine chDone_keeps _ _ ?_) | (refine sigAdd_keeps _ _ ?_) | (refine chBad_keeps _ _ ?_) | (refine setReg_keeps _ _ _ ?_) | (intro _) | (split))

theorem execCmdSignalChannel_keeps {kb kz} (c : Fin 128) {s : State} (hK : Keeps kb kz s) : ∃ s', execCmdSignalChannel c s = .next s' ∧ Keeps kb kz s' := by
  unfold execCmdSignalChannel
  refine ⟨_, rfl, ?_⟩
  with_reducible repeat' (first | (assumption) | (refine ite_keeps _ (fun _ => ?_) (fun _ => ?_)) | (refine withCmd_keeps _ _ _ _ ?_ ?_) | (refine signalChannel_keeps _ _ ?_) | (refine setReg_keeps _ _ _ ?_) | (intro _))

theorem skipEnd_keeps {kb kz} (c n : Nat) (holds : Bool) {s : State} (hK : Keeps kb kz s) : Keeps kb kz (skipEnd c n holds s) := by
  unfold skipEnd
  with_reducible repeat' (first | (assumption) | (refine ite_keeps _ (fun _ => ?_) (fun _ => ?_)) | (refine chDone_keeps _ _ ?_) | (refine modChan_keeps _ _ ?_) | (refine chJump_keeps _ _ ?_))

theorem skipRead_keeps {kb kz} (c cond n arg : Nat) (up : Upset) {s : State} (hK : Keeps kb kz s) : Keeps kb kz (skipRead c cond n arg up s) := by
  unfold skipRead
  (try dsimp only)
  with_reducible repeat' (first | (assumption) | (refine ite_keeps _ (fun _ => ?_) (fun _ => ?_)) | (refine (chRead_keeps _ _ _ _ ?_).out) | (refine chRead_keeps_out _ _ _ _ ?_ (by assumption)) | (refine skipEnd_keeps _ _ _ ?_) | (refine fltClear_keeps _ ?_) | (refine accError_keeps _ _ _ _ ?_) | (refine (busTry_keeps _ ?_).out) | (refine busTry_keeps_out _ ?_ (by assumption)) | (refine chBad_keeps _ _ ?_) | (refine setReg_keeps _ _ _ ?_) | (intro _) | (split))

theorem skipCmd_keeps {kb kz} (c : Nat) (up : Upset) (cmd : Nat) {s : State} (hK : Keeps kb kz s) : Keeps kb kz (skipCmd c up cmd s) := by
  unfold skipCmd
  (try dsimp only)
  with_reducible repeat' (first | (assumption) | (refine ite_keeps _ (fun _ => ?_) (fun _ => ?_)) | (refine progErr_keeps _ _ ?_) | (refine skipEnd_keeps _ _ _ ?_) | (refine skipRead_keeps _ _ _ _ _ ?_) | (refine chBad_keeps _ _ ?_) | (refine setReg_keeps _ _ _ ?_) | (intro _) | (split))

theorem execCmdSkip_keeps {kb kz} (c : Fin 128) (up : Upset) {s : State} (hK : Keeps kb kz s) : ∃ s', execCmdSkip c up s = .next s' ∧ Keeps kb kz s' := by
  unfold execCmdSkip
  refine ⟨_, rfl, ?_⟩
  with_reducible repeat' (first | (assumption) | (refine ite_keeps _ (fun _ => ?_) (fun _ => ?_)) | (refine withCmd_keeps _ _ _ _ ?_ ?_) | (refine skipCmd_keeps _ _ _ ?_) | (refine setReg_keeps _ _ _ ?_) | (intro _))

theorem suspendCmd_keeps {kb kz} (c cmd : Nat) {s : State} (hK : Keeps kb kz s) : Keeps kb kz (suspendCmd c cmd s) := by
  unfold suspendCmd
  (try dsimp only)
  with_reducible repeat' (first | (assumption) | (refine ite_keeps _ (fun _ => ?_) (fun _ => ?_)) | (refine progErr_keeps _ _ ?_) | (refine chDone_keeps _ _ ?_) | (refine setStat_keeps _ _ _ ?_) | (refine modChan_keeps _ _ ?_) | (refine reqSuspend_keeps _ _ ?_) | (refine chBad_keeps _ _ ?_) | (refine setReg_keeps _ _ _ ?_) | (intro _) | (split))

theorem execCmdSuspend_keeps {kb kz} (c : Fin 128) {s : State} (hK : Keeps kb kz s) : ∃ s', execCmdSuspend c s = .next s' ∧ Keeps kb kz s' := by
  unfold execCmdSuspend
  refine ⟨_, rfl, ?_⟩
  with_reducible repeat' (first | (assumption) | (refine ite_keeps _ (fun _ => ?_) (fun _ => ?_)) | (refine withCmd_keeps _ _ _ _ ?_ ?_) | (refine suspendCmd_keeps _ _ ?_) | (refine setReg_keeps _ _ _ ?_) | (intro _))

theorem resumeCmd_keeps {kb kz} (c cmd : Nat) {s : State} (hK : Keeps kb kz s) : Keeps kb kz (resumeCmd c cmd s) := by
  unfold resumeCmd
  with_reducible repeat' (first | (assumption) | (refine ite_keeps _ (fun _ => ?_) (fun _ => ?_)) | (refine chDone_keeps _ _ ?_) | (refine reqResume_keeps _ ?_) | (refine chBad_keeps _ _ ?_) | (refine setReg_keeps _ _ _ ?_) | (intro _) | (split))

theorem execCmdResume_keeps {kb kz} (c : Fin 128) {s : State} (hK : Keeps kb kz s) : ∃ s', execCmdResume c s = .next s' ∧ Keeps kb kz s' := by
  unfold execCmdResume
  refine ⟨_, rfl, ?_⟩
  with_reducible repeat' (first | (assumption) | (refine ite_keeps _ (fun _ => ?_) (fun _ => ?_)) | (refine withCmd_keeps _ _ _ _ ?_ ?_) | (refine resumeCmd_keeps _ _ ?_) | (refine setReg_keeps _ _ _ ?_) | (intro _))

theorem postCmd_keeps {kb kz} (c cmd : Nat) {s : State} (hK : Keeps kb kz s) : Keeps kb kz (postCmd c cmd s) := by
  unfold postCmd
  (try dsimp only)
  with_reducible repeat' (first | (assumption) | (refine ite_keeps _ (fun _ => ?_) (fun _ => ?_)) | (refine progErr_keeps _ _ ?_) | (refine chBad_keeps _ _ ?_) | (refine chBoundary_keeps _ ?_) | (refine setPhase_keeps _ _ ?_) | (refine pageIrq_keeps _ _ ?_) | (refine bumpF_keeps _ _ _ _ _ ?_) | (refine postWrite_keeps _ _ _ _ ?_))

theorem execCmdPost_keeps {kb kz} (c : Fin 128) {s : State} (hK : Keeps kb kz s) : ∃ s', execCmdPost c s = .next s' ∧ Keeps kb kz s' := by
  unfold execCmdPost
  refine ⟨_, rfl, ?_⟩
  with_reducible repeat' (first | (assumption) | (refine ite_keeps _ (fun _ => ?_) (fun _ => ?_)) | (refine withCmd_keeps _ _ _ _ ?_ ?_) | (refine postCmd_keeps _ _ ?_) | (refine setReg_keeps _ _ _ ?_) | (intro _))

theorem execPostResume_keeps {kb kz} (c : Fin 128) {s : State} (hK : Keeps kb kz s) : ∃ s', execPostResume c s = .next s' ∧ Keeps kb kz s' := by
  unfold execPostResume
  refine ⟨_, rfl, ?_⟩
  with_reducible repeat' (first | (assumption) | (refine ite_keeps _ (fun _ => ?_) (fun _ => ?_)) | (refine postWrite_keeps _ _ _ _ ?_) | (refine setReg_keeps _ _ _ ?_) | (intro _) | (split))

theorem chainCmd_keeps {kb kz} (c cmd : Nat) {s : State} (hK : Keeps kb kz s) : Keeps kb kz (chainCmd c cmd s) := by
  unfold chainCmd
  (try dsimp only)
  with_reducible repeat' (first | (assumption) | (refine ite_keeps _ (fun _ => ?_) (fun _ => ?_)) | (refine chDone_keeps _ _ ?_) | (refine chJump_keeps _ _ ?_) | (refine setChF_keeps _ _ _ _ _ ?_) | (refine progErr_keeps _ _ ?_))

theorem execCmdChain_keeps {kb kz} (c : Fin 128) {s : State} (hK : Keeps kb kz s) : ∃ s', execCmdChain c s = .next s' ∧ Keeps kb kz s' := by
  unfold execCmdChain
  refine ⟨_, rfl, ?_⟩
  with_reducible repeat' (first | (assumption) | (refine ite_keeps _ (fun _ => ?_) (fun _ => ?_)) | (refine withCmd_keeps _ _ _ _ ?_ ?_) | (refine chainCmd_keeps _ _ ?_) | (refine setReg_keeps _ _ _ ?_) | (intro _))

theorem portopUnit_keeps {kb kz} (r u op arg : Nat) {s : State} (hK : Keeps kb kz s) : Keeps1 kb kz (portopUnit r u op arg s) := by
  unfold portopUnit
  with_reducible repeat' (first | (assumption) | (refine ite_keeps _ (fun _ => ?_) (fun _ => ?_)) | (refine (portopCell_keeps _ _ _ _ ?_).out) | (refine portopCell_keeps_out _ _ _ _ ?_ (by assumption)) | (refine (portopHoe_keeps _ _ _ _ ?_).out) | (refine portopHoe_keeps_out _ _ _ _ ?_ (by assumption)) | (refine (portopEngine_keeps _ _ _ _ ?_).out) | (refine portopEngine_keeps_out _ _ _ _ ?_ (by assumption)) | (refine setReg_keeps _ _ _ ?_) | (intro _) | (split) | (refine portopCell_keeps _ _ _ _ ?_) | (refine portopHoe_keeps _ _ _ _ ?_) | (refine portopEngine_keeps _ _ _ _ ?_))
theorem portopUnit_keeps_out {kb kz} (r u op arg : Nat) {s : State} (hK : Keeps kb kz s) {x0 s₁} (hE : portopUnit r u op arg s = (x0, s₁)) : Keeps kb kz s₁ := by
  have := portopUnit_keeps (kb := kb) (kz := kz) r u op arg  hK
  rw [hE] at this; exact this.out

theorem portopCmd_keeps {kb kz} (c cmd : Nat) {s : State} (hK : Keeps kb kz s) : Keeps kb kz (portopCmd c cmd s) := by
  unfold portopCmd
  (try dsimp only)
  with_reducible repeat' (first | (assumption) | (refine ite_keeps _ (fun _ => ?_) (fun _ => ?_)) | (refine progErr_keeps _ _ ?_) | (refine (portopUnit_keeps _ _ _ _ ?_).out) | (refine portopUnit_keeps_out _ _ _ _ ?_ (by assumption)) | (refine chDone_keeps _ _ ?_) | (refine chBad_keeps _ _ ?_) | (refine setReg_keeps _ _ _ ?_) | (intro _) | (split))

theorem execCmdPortop_keeps {kb kz} (c : Fin 128) {s : State} (hK : Keeps kb kz s) : ∃ s', execCmdPortop c s = .next s' ∧ Keeps kb kz s' := by
  unfold execCmdPortop
  refine ⟨_, rfl, ?_⟩
  with_reducible repeat' (first | (assumption) | (refine ite_keeps _ (fun _ => ?_) (fun _ => ?_)) | (refine withCmd_keeps _ _ _ _ ?_ ?_) | (refine portopCmd_keeps _ _ ?_) | (refine setReg_keeps _ _ _ ?_) | (intro _))

theorem replayCurrent_keeps {kb kz} (c : Nat) (ups : List Upset) {s : State} (hK : Keeps kb kz s) : Keeps kb kz (replayCurrent c ups s) := by
  unfold replayCurrent
  (try dsimp only)
  with_reducible repeat' (first | (assumption) | (refine ite_keeps _ (fun _ => ?_) (fun _ => ?_)) | (refine replayCount_keeps _ ?_) | (refine modChan_keeps _ _ ?_) | (refine chFetch_keeps _ _ _ ?_) | (refine skipCmd_keeps _ _ _ ?_) | (refine descGo_keeps _ _ ?_) | (refine moveStep_keeps _ _ _ _ ?_) | (refine setReg_keeps _ _ _ ?_) | (intro _) | (split))

theorem execAccessReplay_keeps {kb kz} (c : Fin 128) (a : ChAcc) (ups : List Upset) {s : State} (hK : Keeps kb kz s) : ∃ s', execAccessReplay c a ups s = .next s' ∧ Keeps kb kz s' := by
  unfold execAccessReplay
  refine ⟨_, rfl, ?_⟩
  with_reducible repeat' (first | (assumption) | (refine ite_keeps _ (fun _ => ?_) (fun _ => ?_)) | (refine replayCurrent_keeps _ _ ?_) | (refine writeOutcome_keeps _ _ _ ?_) | (refine replayWrite_keeps _ _ ?_) | (refine modChan_keeps _ _ ?_) | (refine setReg_keeps _ _ _ ?_) | (intro _) | (split))

theorem execTrellisWriteAck_keeps {kb kz} (c : Fin 128) (k : Nat) (up : Upset) {s : State} (hK : Keeps kb kz s) : ∃ s', execTrellisWriteAck c k up s = .next s' ∧ Keeps kb kz s' := by
  unfold execTrellisWriteAck
  refine ⟨_, rfl, ?_⟩
  with_reducible repeat' (first | (assumption) | (refine ite_keeps _ (fun _ => ?_) (fun _ => ?_)) | (refine writeOutcome_keeps _ _ _ ?_))

theorem trchReq_keeps {kb kz} (w : Who) (c : Fin 128) (b : Nat) {s : State} (hK : Keeps kb kz s) : ∃ s', trchReq w c b s = .next s' ∧ Keeps kb kz s' := by
  unfold trchReq
  refine ⟨_, rfl, ?_⟩
  with_reducible repeat' (first | (assumption) | (refine ite_keeps _ (fun _ => ?_) (fun _ => ?_)) | (refine gated_keeps _ _ _ _ ?_ ?_) | (refine trchWrite_keeps _ _ _ _ ?_) | (refine setReg_keeps _ _ _ ?_) | (intro _))

theorem execTrchStart_keeps {kb kz} (w : Who) (c : Fin 128) {s : State} (hK : Keeps kb kz s) : ∃ s', execTrchStart w c s = .next s' ∧ Keeps kb kz s' := by
  unfold execTrchStart
  refine ⟨_, rfl, ?_⟩
  with_reducible repeat' (first | (assumption) | (refine ite_keeps _ (fun _ => ?_) (fun _ => ?_)) | (refine trchReq_keeps _ _ _ ?_) | (refine setReg_keeps _ _ _ ?_) | (refine gated_keeps _ _ _ _ ?_ ?_) | (refine trchWrite_keeps _ _ _ _ ?_) | (intro _))

theorem execTrchStop_keeps {kb kz} (w : Who) (c : Fin 128) {s : State} (hK : Keeps kb kz s) : ∃ s', execTrchStop w c s = .next s' ∧ Keeps kb kz s' := by
  unfold execTrchStop
  refine ⟨_, rfl, ?_⟩
  with_reducible repeat' (first | (assumption) | (refine ite_keeps _ (fun _ => ?_) (fun _ => ?_)) | (refine trchReq_keeps _ _ _ ?_) | (refine setReg_keeps _ _ _ ?_) | (refine gated_keeps _ _ _ _ ?_ ?_) | (refine trchWrite_keeps _ _ _ _ ?_) | (intro _))

theorem execTrchSuspend_keeps {kb kz} (w : Who) (c : Fin 128) {s : State} (hK : Keeps kb kz s) : ∃ s', execTrchSuspend w c s = .next s' ∧ Keeps kb kz s' := by
  unfold execTrchSuspend
  refine ⟨_, rfl, ?_⟩
  with_reducible repeat' (first | (assumption) | (refine ite_keeps _ (fun _ => ?_) (fun _ => ?_)) | (refine trchReq_keeps _ _ _ ?_) | (refine setReg_keeps _ _ _ ?_) | (refine gated_keeps _ _ _ _ ?_ ?_) | (refine trchWrite_keeps _ _ _ _ ?_) | (intro _))

theorem execTrchResume_keeps {kb kz} (w : Who) (c : Fin 128) {s : State} (hK : Keeps kb kz s) : ∃ s', execTrchResume w c s = .next s' ∧ Keeps kb kz s' := by
  unfold execTrchResume
  refine ⟨_, rfl, ?_⟩
  with_reducible repeat' (first | (assumption) | (refine ite_keeps _ (fun _ => ?_) (fun _ => ?_)) | (refine trchReq_keeps _ _ _ ?_) | (refine setReg_keeps _ _ _ ?_) | (refine gated_keeps _ _ _ _ ?_ ?_) | (refine trchWrite_keeps _ _ _ _ ?_) | (intro _))

theorem execClrsig_keeps {kb kz} (w : Who) (c : Fin 128) {s : State} (hK : Keeps kb kz s) : ∃ s', execClrsig w c s = .next s' ∧ Keeps kb kz s' := by
  unfold execClrsig
  refine ⟨_, rfl, ?_⟩
  with_reducible repeat' (first | (assumption) | (refine ite_keeps _ (fun _ => ?_) (fun _ => ?_)) | (refine trchReq_keeps _ _ _ ?_) | (refine setReg_keeps _ _ _ ?_) | (refine gated_keeps _ _ _ _ ?_ ?_) | (refine trchWrite_keeps _ _ _ _ ?_) | (intro _))

theorem execStopCommit_keeps {kb kz} (c : Fin 128) {s : State} (hK : Keeps kb kz s) : ∃ s', execStopCommit c s = .next s' ∧ Keeps kb kz s' := by
  unfold execStopCommit
  refine ⟨_, rfl, ?_⟩
  with_reducible repeat' (first | (assumption) | (refine ite_keeps _ (fun _ => ?_) (fun _ => ?_)) | (refine stopCommit_keeps _ ?_))

theorem execDrainComplete_keeps {kb kz} (c : Fin 128) {s : State} (hK : Keeps kb kz s) : ∃ s', execDrainComplete c s = .next s' ∧ Keeps kb kz s' := by
  unfold execDrainComplete
  refine ⟨_, rfl, ?_⟩
  (try dsimp only)
  with_reducible repeat' (first | (assumption) | (refine ite_keeps _ (fun _ => ?_) (fun _ => ?_)) | (refine setChState_keeps _ _ ?_) | (refine tryStart_keeps _ ?_) | (refine setStat_keeps _ _ _ ?_))

theorem execCringPiWrite_keeps {kb kz} (w : Who) (c : Fin 128) (pi : BitVec 16) {s : State} (hK : Keeps kb kz s) : ∃ s', execCringPiWrite w c pi s = .next s' ∧ Keeps kb kz s' := by
  unfold execCringPiWrite
  refine ⟨_, rfl, ?_⟩
  with_reducible repeat' (first | (assumption) | (refine ite_keeps _ (fun _ => ?_) (fun _ => ?_)) | (refine gated_keeps _ _ _ _ ?_ ?_) | (refine trchWrite_keeps _ _ _ _ ?_) | (refine setReg_keeps _ _ _ ?_) | (intro _))

theorem execSringCiWrite_keeps {kb kz} (w : Who) (c : Fin 128) (ci : BitVec 16) {s : State} (hK : Keeps kb kz s) : ∃ s', execSringCiWrite w c ci s = .next s' ∧ Keeps kb kz s' := by
  unfold execSringCiWrite
  refine ⟨_, rfl, ?_⟩
  with_reducible repeat' (first | (assumption) | (refine ite_keeps _ (fun _ => ?_) (fun _ => ?_)) | (refine gated_keeps _ _ _ _ ?_ ?_) | (refine trchWrite_keeps _ _ _ _ ?_) | (refine setReg_keeps _ _ _ ?_) | (intro _))

theorem execTrchOwnWrite_keeps {kb kz} (w : Who) (c : Fin 128) (v : Word) {s : State} (hK : Keeps kb kz s) : ∃ s', execTrchOwnWrite w c v s = .next s' ∧ Keeps kb kz s' := by
  unfold execTrchOwnWrite
  refine ⟨_, rfl, ?_⟩
  with_reducible repeat' (first | (assumption) | (refine ite_keeps _ (fun _ => ?_) (fun _ => ?_)) | (refine gated_keeps _ _ _ _ ?_ ?_) | (refine trchWrite_keeps _ _ _ _ ?_) | (refine setReg_keeps _ _ _ ?_) | (intro _))

end Sys2Proof.Machine
end

