-- ==== Sys2Proof/Laws/KeepsCmds.lean ====
section
/-! SUPPORT. Laws that say, operation by operation, that the canonical form, the queue and OTP are kept: page, chain, host and debug commands and the tick. -/

namespace Sys2Proof.Machine

/-! ## Machine/PageCmds.lean -/

theorem gatedWrite_keeps {kb kz} (w : Who) (pg off : Nat) (v : Word) {s : State} (hK : Keeps kb kz s) : Keeps kb kz (gatedWrite w pg off v s) := by
  unfold gatedWrite
  with_reducible repeat' (first | (assumption) | (refine ite_keeps _ (fun _ => ?_) (fun _ => ?_)) | (refine gated_keeps _ _ _ _ ?_ ?_) | (refine regWrite_keeps _ _ _ _ ?_) | (refine setReg_keeps _ _ _ ?_) | (intro _))

theorem gatedRead_keeps {kb kz} (w : Who) (pg off : Nat) {s : State} (hK : Keeps kb kz s) : Keeps kb kz (gatedRead w pg off s) := by
  unfold gatedRead
  (try dsimp only)
  with_reducible repeat' (first | (assumption) | (refine ite_keeps _ (fun _ => ?_) (fun _ => ?_)) | (refine (regRead_keeps _ _ _ ?_).out) | (refine regRead_keeps_out _ _ _ ?_ (by assumption)) | (refine denied_keeps _ _ _ _ ?_) | (refine setReg_keeps _ _ _ ?_) | (intro _) | (split) | (refine regRead_keeps _ _ _ ?_) | (simp only [keeps_mk, keeps1_mk, keeps2_mk, keeps3_mk, keeps4_mk]) | (refine parts_of ?_))

theorem execRegisterWrite_keeps {kb kz} (w : Who) (pg : Fin 512) (off : Fin 1024) (v : Word) {s : State} (hK : Keeps kb kz s) : ∃ s', execRegisterWrite w pg off v s = .next s' ∧ Keeps kb kz s' := by
  unfold execRegisterWrite
  refine ⟨_, rfl, ?_⟩
  with_reducible repeat' (first | (assumption) | (refine ite_keeps _ (fun _ => ?_) (fun _ => ?_)) | (refine gatedWrite_keeps _ _ _ _ ?_))

theorem execCounterClear_keeps {kb kz} (w : Who) (pg : Fin 512) (off : Fin 1024) {s : State} (hK : Keeps kb kz s) : ∃ s', execCounterClear w pg off s = .next s' ∧ Keeps kb kz s' := by
  unfold execCounterClear
  refine ⟨_, rfl, ?_⟩
  with_reducible repeat' (first | (assumption) | (refine ite_keeps _ (fun _ => ?_) (fun _ => ?_)) | (refine gatedWrite_keeps _ _ _ _ ?_))

theorem execTrelJournalRead_keeps {kb kz} (w : Who) {s : State} (hK : Keeps kb kz s) : ∃ s', execTrelJournalRead w s = .next s' ∧ Keeps kb kz s' := by
  unfold execTrelJournalRead
  refine ⟨_, rfl, ?_⟩
  with_reducible repeat' (first | (assumption) | (refine ite_keeps _ (fun _ => ?_) (fun _ => ?_)) | (refine gatedRead_keeps _ _ _ ?_))

theorem execMboxPut_keeps {kb kz} (w : Who) (u : MUnit) (item : Word) {s : State} (hK : Keeps kb kz s) : ∃ s', execMboxPut w u item s = .next s' ∧ Keeps kb kz s' := by
  unfold execMboxPut
  refine ⟨_, rfl, ?_⟩
  with_reducible repeat' (first | (assumption) | (refine ite_keeps _ (fun _ => ?_) (fun _ => ?_)) | (refine gatedWrite_keeps _ _ _ _ ?_))

theorem execMboxTake_keeps {kb kz} (w : Who) (u : MUnit) {s : State} (hK : Keeps kb kz s) : ∃ s', execMboxTake w u s = .next s' ∧ Keeps kb kz s' := by
  unfold execMboxTake
  refine ⟨_, rfl, ?_⟩
  with_reducible repeat' (first | (assumption) | (refine ite_keeps _ (fun _ => ?_) (fun _ => ?_)) | (refine gatedRead_keeps _ _ _ ?_))

theorem execClrDrops_keeps {kb kz} (w : Who) (u : MUnit) {s : State} (hK : Keeps kb kz s) : ∃ s', execClrDrops w u s = .next s' ∧ Keeps kb kz s' := by
  unfold execClrDrops
  refine ⟨_, rfl, ?_⟩
  with_reducible repeat' (first | (assumption) | (refine ite_keeps _ (fun _ => ?_) (fun _ => ?_)) | (refine gatedWrite_keeps _ _ _ _ ?_))

theorem withheldDone_keeps {kb kz} (x : Withheld) {s : State} (hK : Keeps kb kz s) : Keeps kb kz (withheldDone x s) := by
  unfold withheldDone
  with_reducible repeat' (first | (assumption) | (refine ite_keeps _ (fun _ => ?_) (fun _ => ?_)) | (refine windowGo_keeps _ ?_) | (refine sbPop_keeps _ ?_) | (refine moveBoundary_keeps _ _ ?_) | (refine setReg_keeps _ _ _ ?_) | (intro _) | (split))

theorem execMboxWithheldWriteAccept_keeps {kb kz} (u : MUnit) (k : Nat) {s : State} (hK : Keeps kb kz s) : ∃ s', execMboxWithheldWriteAccept u k s = .next s' ∧ Keeps kb kz s' := by
  unfold execMboxWithheldWriteAccept
  refine ⟨_, rfl, ?_⟩
  (try dsimp only)
  with_reducible repeat' (first | (assumption) | (refine ite_keeps _ (fun _ => ?_) (fun _ => ?_)) | (refine withheldDone_keeps _ ?_) | (refine mboxAccept_keeps _ _ ?_) | (refine setReg_keeps _ _ _ ?_) | (intro _) | (split) | (simp only [keeps_mk, keeps1_mk, keeps2_mk, keeps3_mk, keeps4_mk]) | (refine parts_of ?_))

theorem execBlockBoundary_keeps {kb kz}  {s : State} (hK : Keeps kb kz s) : ∃ s', execBlockBoundary s = .next s' ∧ Keeps kb kz s' := by
  unfold execBlockBoundary
  refine ⟨_, rfl, ?_⟩
  (try dsimp only)
  with_reducible repeat' (first | (assumption) | (refine ite_keeps _ (fun _ => ?_) (fun _ => ?_)) | (refine forAll_keeps _ _ ?_ ?_) | (refine setReg_keeps _ _ _ ?_) | (refine setRegF_keeps _ _ _ _ _ ?_) | (refine waitEvent_keeps _ ?_) | (refine graftBoundary_keeps ?_) | (refine ckptWindow_keeps _ ?_) | (intro _) | (split) | (simp only [keeps_mk, keeps1_mk, keeps2_mk, keeps3_mk, keeps4_mk]) | (refine parts_of ?_))

theorem execDevBlockCfgWrite_keeps {kb kz} (w : Who) (v : Word) {s : State} (hK : Keeps kb kz s) : ∃ s', execDevBlockCfgWrite w v s = .next s' ∧ Keeps kb kz s' := by
  unfold execDevBlockCfgWrite
  refine ⟨_, rfl, ?_⟩
  with_reducible repeat' (first | (assumption) | (refine ite_keeps _ (fun _ => ?_) (fun _ => ?_)) | (refine gatedWrite_keeps _ _ _ _ ?_))

theorem execPageCtrlWrite_keeps {kb kz} (w : Who) (pg : Fin 512) (v : Word) {s : State} (hK : Keeps kb kz s) : ∃ s', execPageCtrlWrite w pg v s = .next s' ∧ Keeps kb kz s' := by
  unfold execPageCtrlWrite
  refine ⟨_, rfl, ?_⟩
  with_reducible repeat' (first | (assumption) | (refine ite_keeps _ (fun _ => ?_) (fun _ => ?_)) | (refine gatedWrite_keeps _ _ _ _ ?_))

theorem execPageLock_keeps {kb kz} (w : Who) (pg : Fin 512) {s : State} (hK : Keeps kb kz s) : ∃ s', execPageLock w pg s = .next s' ∧ Keeps kb kz s' := by
  unfold execPageLock
  refine ⟨_, rfl, ?_⟩
  with_reducible repeat' (first | (assumption) | (refine ite_keeps _ (fun _ => ?_) (fun _ => ?_)) | (refine gatedWrite_keeps _ _ _ _ ?_))

theorem execPageSoftReset_keeps {kb kz} (w : Who) (pg : Fin 512) {s : State} (hK : Keeps kb kz s) : ∃ s', execPageSoftReset w pg s = .next s' ∧ Keeps kb kz s' := by
  unfold execPageSoftReset
  refine ⟨_, rfl, ?_⟩
  with_reducible repeat' (first | (assumption) | (refine ite_keeps _ (fun _ => ?_) (fun _ => ?_)) | (refine gatedWrite_keeps _ _ _ _ ?_))

theorem execPageIrqClr_keeps {kb kz} (w : Who) (pg : Fin 512) (v : Word) {s : State} (hK : Keeps kb kz s) : ∃ s', execPageIrqClr w pg v s = .next s' ∧ Keeps kb kz s' := by
  unfold execPageIrqClr
  refine ⟨_, rfl, ?_⟩
  with_reducible repeat' (first | (assumption) | (refine ite_keeps _ (fun _ => ?_) (fun _ => ?_)) | (refine gatedWrite_keeps _ _ _ _ ?_))

theorem execPageIrqEnWrite_keeps {kb kz} (w : Who) (pg : Fin 512) (v : Word) {s : State} (hK : Keeps kb kz s) : ∃ s', execPageIrqEnWrite w pg v s = .next s' ∧ Keeps kb kz s' := by
  unfold execPageIrqEnWrite
  refine ⟨_, rfl, ?_⟩
  with_reducible repeat' (first | (assumption) | (refine ite_keeps _ (fun _ => ?_) (fun _ => ?_)) | (refine gatedWrite_keeps _ _ _ _ ?_))

theorem execPageOwnerWrite_keeps {kb kz} (w : Who) (pg : Fin 512) (walled : Bool) {s : State} (hK : Keeps kb kz s) : ∃ s', execPageOwnerWrite w pg walled s = .next s' ∧ Keeps kb kz s' := by
  unfold execPageOwnerWrite
  refine ⟨_, rfl, ?_⟩
  with_reducible repeat' (first | (assumption) | (refine ite_keeps _ (fun _ => ?_) (fun _ => ?_)) | (refine gatedWrite_keeps _ _ _ _ ?_))

theorem execTineXcfgWrite_keeps {kb kz} (w : Who) (t : TineNo) (v : Word) {s : State} (hK : Keeps kb kz s) : ∃ s', execTineXcfgWrite w t v s = .next s' ∧ Keeps kb kz s' := by
  unfold execTineXcfgWrite
  refine ⟨_, rfl, ?_⟩
  with_reducible repeat' (first | (assumption) | (refine ite_keeps _ (fun _ => ?_) (fun _ => ?_)) | (refine gatedWrite_keeps _ _ _ _ ?_))

theorem execXinv_keeps {kb kz} (w : Who) (t : TineNo) (all : Bool) (va : BitVec 20) {s : State} (hK : Keeps kb kz s) : ∃ s', execXinv w t all va s = .next s' ∧ Keeps kb kz s' := by
  unfold execXinv
  refine ⟨_, rfl, ?_⟩
  with_reducible repeat' (first | (assumption) | (refine ite_keeps _ (fun _ => ?_) (fun _ => ?_)) | (refine gatedWrite_keeps _ _ _ _ ?_))

theorem execTinv_keeps {kb kz} (w : Who) (all : Bool) (va : BitVec 20) {s : State} (hK : Keeps kb kz s) : ∃ s', execTinv w all va s = .next s' ∧ Keeps kb kz s' := by
  unfold execTinv
  refine ⟨_, rfl, ?_⟩
  with_reducible repeat' (first | (assumption) | (refine ite_keeps _ (fun _ => ?_) (fun _ => ?_)) | (refine gatedWrite_keeps _ _ _ _ ?_))

theorem execShoot_keeps {kb kz} (w : Who) (all : Bool) (va : BitVec 20) {s : State} (hK : Keeps kb kz s) : ∃ s', execShoot w all va s = .next s' ∧ Keeps kb kz s' := by
  unfold execShoot
  refine ⟨_, rfl, ?_⟩
  with_reducible repeat' (first | (assumption) | (refine ite_keeps _ (fun _ => ?_) (fun _ => ?_)) | (refine gatedWrite_keeps _ _ _ _ ?_))

theorem execShootComplete_keeps {kb kz}  {s : State} (hK : Keeps kb kz s) : ∃ s', execShootComplete s = .next s' ∧ Keeps kb kz s' := by
  unfold execShootComplete
  refine ⟨_, rfl, ?_⟩
  with_reducible repeat' (first | (assumption) | (refine ite_keeps _ (fun _ => ?_) (fun _ => ?_)) | (refine shootDone_keeps ?_))

theorem weedRead_keeps {kb kz} (pa : Nat) (up : Upset) {s : State} (hK : Keeps kb kz s) : Keeps kb kz (weedRead pa up s) := by
  unfold weedRead
  with_reducible repeat' (first | (assumption) | (refine ite_keeps _ (fun _ => ?_) (fun _ => ?_)) | (refine eccEvent_keeps _ _ _ _ ?_) | (refine ueMark_keeps _ ?_) | (refine (symRead_keeps _ _ _ _ ?_).out) | (refine symRead_keeps_out _ _ _ _ ?_ (by assumption)) | (refine setReg_keeps _ _ _ ?_) | (intro _) | (split))

theorem weedPlaces_keeps {kb kz} (n k pos passes : Nat) (ups : List Upset) {s : State} (hK : Keeps kb kz s) : Keeps2 kb kz (weedPlaces n k pos passes ups s) := by
  revert hK
  fun_induction weedPlaces n k pos passes ups s <;> intro hK <;> (try dsimp only) <;> with_reducible repeat' (first | (assumption) | (refine ite_keeps _ (fun _ => ?_) (fun _ => ?_)) | (refine forAll_keeps _ _ ?_ ?_) | (refine weedRead_keeps _ _ ?_) | (refine setReg_keeps _ _ _ ?_) | (apply_assumption) | (refine Keeps1.of ?_ (by assumption)) | (refine Keeps2.of ?_ (by assumption)) | (intro _) | (split) | (simp only [keeps_mk, keeps1_mk, keeps2_mk, keeps3_mk, keeps4_mk]))
theorem weedPlaces_keeps_out {kb kz} (n k pos passes : Nat) (ups : List Upset) {s : State} (hK : Keeps kb kz s) {x0 x1 s₁} (hE : weedPlaces n k pos passes ups s = (x0, x1, s₁)) : Keeps kb kz s₁ := by
  have := weedPlaces_keeps (kb := kb) (kz := kz) n k pos passes ups  hK
  rw [hE] at this; exact this.out

theorem weedStep_keeps {kb kz} (k : Nat) (ups : List Upset) {s : State} (hK : Keeps kb kz s) : Keeps kb kz (weedStep k ups s) := by
  unfold weedStep
  (try dsimp only)
  with_reducible repeat' (first | (assumption) | (refine ite_keeps _ (fun _ => ?_) (fun _ => ?_)) | (refine (weedPlaces_keeps _ _ _ _ _ ?_).out) | (refine weedPlaces_keeps_out _ _ _ _ _ ?_ (by assumption)) | (refine setReg_keeps _ _ _ ?_) | (intro _) | (split) | (refine weedPlaces_keeps _ _ _ _ _ ?_) | (simp only [keeps_mk, keeps1_mk, keeps2_mk, keeps3_mk, keeps4_mk]) | (refine parts_of ?_))

theorem execWeederStep_keeps {kb kz} (k : Fin 3) (ups : List Upset) {s : State} (hK : Keeps kb kz s) : ∃ s', execWeederStep k ups s = .next s' ∧ Keeps kb kz s' := by
  unfold execWeederStep
  refine ⟨_, rfl, ?_⟩
  with_reducible repeat' (first | (assumption) | (refine ite_keeps _ (fun _ => ?_) (fun _ => ?_)) | (refine weedStep_keeps _ _ ?_))

theorem execDramRefreshPoll_keeps {kb kz} (mr4 : Fin 8) {s : State} (hK : Keeps kb kz s) : ∃ s', execDramRefreshPoll mr4 s = .next s' ∧ Keeps kb kz s' := by
  unfold execDramRefreshPoll
  refine ⟨_, rfl, ?_⟩
  (try dsimp only)
  with_reducible repeat' (first | (assumption) | (refine ite_keeps _ (fun _ => ?_) (fun _ => ?_)) | (refine setReg_keeps _ _ _ ?_) | (intro _) | (split) | (simp only [keeps_mk, keeps1_mk, keeps2_mk, keeps3_mk, keeps4_mk]) | (refine parts_of ?_))

theorem execDramRetrain_keeps {kb kz} (osc : BitVec 16) {s : State} (hK : Keeps kb kz s) : ∃ s', execDramRetrain osc s = .next s' ∧ Keeps kb kz s' := by
  unfold execDramRetrain
  refine ⟨_, rfl, ?_⟩
  (try dsimp only)
  with_reducible repeat' (first | (assumption) | (refine ite_keeps _ (fun _ => ?_) (fun _ => ?_)) | (refine setReg_keeps _ _ _ ?_) | (intro _) | (split) | (simp only [keeps_mk, keeps1_mk, keeps2_mk, keeps3_mk, keeps4_mk]) | (refine parts_of ?_))

theorem execPerBankRefresh_keeps {kb kz}  {s : State} (hK : Keeps kb kz s) : ∃ s', execPerBankRefresh s = .next s' ∧ Keeps kb kz s' := by
  unfold execPerBankRefresh
  refine ⟨_, rfl, ?_⟩
  (try dsimp only)
  with_reducible repeat' (first | (assumption) | (refine ite_keeps _ (fun _ => ?_) (fun _ => ?_)) | (refine setReg_keeps _ _ _ ?_) | (intro _) | (split) | (simp only [keeps_mk, keeps1_mk, keeps2_mk, keeps3_mk, keeps4_mk]) | (refine parts_of ?_))

/-! ## Machine/ChainCmds.lean -/

theorem srcWrite_keeps {kb kz} (src : Nat) (w : Who) (pa : Nat) (v : Word) (up : Upset) {s : State} (hK : Keeps kb kz s) : Keeps1 kb kz (srcWrite src w pa v up s) := by
  unfold srcWrite
  with_reducible repeat' (first | (assumption) | (refine ite_keeps _ (fun _ => ?_) (fun _ => ?_)) | (refine rxlenWrite_keeps _ _ ?_) | (refine (outWrite_keeps _ _ _ _ ?_).out) | (refine outWrite_keeps_out _ _ _ _ ?_ (by assumption)) | (refine setReg_keeps _ _ _ ?_) | (intro _) | (split) | (refine outWrite_keeps _ _ _ _ ?_) | (simp only [keeps_mk, keeps1_mk, keeps2_mk, keeps3_mk, keeps4_mk]))
theorem srcWrite_keeps_out {kb kz} (src : Nat) (w : Who) (pa : Nat) (v : Word) (up : Upset) {s : State} (hK : Keeps kb kz s) {x0 s₁} (hE : srcWrite src w pa v up s = (x0, s₁)) : Keeps kb kz s₁ := by
  have := srcWrite_keeps (kb := kb) (kz := kz) src w pa v up  hK
  rw [hE] at this; exact this.out

theorem srcWrites_keeps {kb kz} (src : Nat) (w : Who) (l : List (Nat × Word)) (ups : List Upset) {s : State} (hK : Keeps kb kz s) : Keeps1 kb kz (srcWrites src w l ups s) := by
  revert hK
  fun_induction srcWrites src w l ups s <;> intro hK <;> (try dsimp only) <;> with_reducible repeat' (first | (assumption) | (refine ite_keeps _ (fun _ => ?_) (fun _ => ?_)) | (refine (srcWrite_keeps _ _ _ _ _ ?_).out) | (refine srcWrite_keeps_out _ _ _ _ _ ?_ (by assumption)) | (refine setReg_keeps _ _ _ ?_) | (apply_assumption) | (refine Keeps1.of ?_ (by assumption)) | (refine Keeps2.of ?_ (by assumption)) | (intro _) | (split) | (refine srcWrite_keeps _ _ _ _ _ ?_) | (simp only [keeps_mk, keeps1_mk, keeps2_mk, keeps3_mk, keeps4_mk]))
theorem srcWrites_keeps_out {kb kz} (src : Nat) (w : Who) (l : List (Nat × Word)) (ups : List Upset) {s : State} (hK : Keeps kb kz s) {x0 s₁} (hE : srcWrites src w l ups s = (x0, s₁)) : Keeps kb kz s₁ := by
  have := srcWrites_keeps (kb := kb) (kz := kz) src w l ups  hK
  rw [hE] at this; exact this.out

theorem readsWait_keeps {kb kz} (w : Who) (pas : List Nat) {s : State} (hK : Keeps kb kz s) : Keeps1 kb kz (readsWait w pas s) := by
  unfold readsWait
  (try dsimp only)
  with_reducible repeat' (first | (assumption) | (refine ite_keeps _ (fun _ => ?_) (fun _ => ?_)) | (refine forAll_keeps _ _ ?_ ?_) | (refine physAsk_keeps _ _ ?_) | (refine setReg_keeps _ _ _ ?_) | (intro _) | (split) | (simp only [keeps_mk, keeps1_mk, keeps2_mk, keeps3_mk, keeps4_mk]))
theorem readsWait_keeps_out {kb kz} (w : Who) (pas : List Nat) {s : State} (hK : Keeps kb kz s) {x0 s₁} (hE : readsWait w pas s = (x0, s₁)) : Keeps kb kz s₁ := by
  have := readsWait_keeps (kb := kb) (kz := kz) w pas  hK
  rw [hE] at this; exact this.out

theorem nextCell_keeps_out {kb kz} (typ : Nat) {s : State} (hK : Keeps kb kz s) {c s₁} (hE : nextCell typ s = some (c, s₁)) : Keeps kb kz s₁ := by
  unfold nextCell at hE
  split at hE
  · split at hE
    · cases hE
      simp only [keeps_mk]
      exact parts_of hK
    · cases hE
  · cases hE

theorem outReads_keeps {kb kz} (w : Who) (pas : List Nat) (ups : List Upset) {s : State} (hK : Keeps kb kz s) : Keeps2 kb kz (outReads w pas ups s) := by
  induction pas generalizing ups s with
  | nil => exact ⟨hK⟩
  | cons a rest ih =>
    unfold outReads
    split
    next h1 =>
    split
    next h2 =>
    have hs := Keeps2.of (ih (ups := ups.drop 1) (outRead_keeps_out _ _ _ hK h1)) h2
    exact ⟨hs⟩
theorem outReads_keeps_out {kb kz} (w : Who) (pas : List Nat) (ups : List Upset) {s : State} (hK : Keeps kb kz s) {x0 x1 s₁} (hE : outReads w pas ups s = (x0, x1, s₁)) : Keeps kb kz s₁ := by
  have := outReads_keeps (kb := kb) (kz := kz) w pas ups  hK
  rw [hE] at this; exact this.out

theorem execCellReceive_keeps {kb kz} (p : Fin 2) (ws : List Word) {s : State} (hK : Keeps kb kz s) : ∃ s', execCellReceive p ws s = .next s' ∧ Keeps kb kz s' := by
  unfold execCellReceive
  refine ⟨_, rfl, ?_⟩
  with_reducible repeat' (first | (assumption) | (refine ite_keeps _ (fun _ => ?_) (fun _ => ?_)) | (refine portReceive_keeps _ _ ?_))

theorem execCellSend_keeps {kb kz} (p : Fin 2) {s : State} (hK : Keeps kb kz s) : ∃ s', execCellSend p s = .next s' ∧ Keeps kb kz s' := by
  unfold execCellSend
  refine ⟨_, rfl, ?_⟩
  with_reducible repeat' (first | (assumption) | (refine ite_keeps _ (fun _ => ?_) (fun _ => ?_)) | (refine portSend_keeps _ ?_))

theorem execCellResend_keeps {kb kz} (p : Fin 2) (ack : BitVec 8) {s : State} (hK : Keeps kb kz s) : ∃ s', execCellResend p ack s = .next s' ∧ Keeps kb kz s' := by
  unfold execCellResend
  refine ⟨_, rfl, ?_⟩
  with_reducible repeat' (first | (assumption) | (refine ite_keeps _ (fun _ => ?_) (fun _ => ?_)) | (refine portResend_keeps _ _ ?_))

theorem execLinkRetrain_keeps {kb kz} (p : Fin 2) (ok : Bool) {s : State} (hK : Keeps kb kz s) : ∃ s', execLinkRetrain p ok s = .next s' ∧ Keeps kb kz s' := by
  unfold execLinkRetrain
  refine ⟨_, rfl, ?_⟩
  (try dsimp only)
  with_reducible repeat' (first | (assumption) | (refine ite_keeps _ (fun _ => ?_) (fun _ => ?_)) | (refine setPort_keeps _ _ ?_) | (refine portDown_keeps _ ?_))

theorem execLinkDown_keeps {kb kz} (p : Fin 2) {s : State} (hK : Keeps kb kz s) : ∃ s', execLinkDown p s = .next s' ∧ Keeps kb kz s' := by
  unfold execLinkDown
  refine ⟨_, rfl, ?_⟩
  with_reducible repeat' (first | (assumption) | (refine ite_keeps _ (fun _ => ?_) (fun _ => ?_)) | (refine portDown_keeps _ ?_))

theorem execPortUnconnected_keeps {kb kz} (p : Fin 2) {s : State} (hK : Keeps kb kz s) : ∃ s', execPortUnconnected p s = .next s' ∧ Keeps kb kz s' := by
  unfold execPortUnconnected
  refine ⟨_, rfl, ?_⟩
  with_reducible repeat' (first | (assumption) | (refine ite_keeps _ (fun _ => ?_) (fun _ => ?_)) | (refine portAlone_keeps _ ?_))

theorem execChainPortTrained_keeps {kb kz} (p : Fin 2) (host : Bool) {s : State} (hK : Keeps kb kz s) : ∃ s', execChainPortTrained p host s = .next s' ∧ Keeps kb kz s' := by
  unfold execChainPortTrained
  refine ⟨_, rfl, ?_⟩
  with_reducible repeat' (first | (assumption) | (refine ite_keeps _ (fun _ => ?_) (fun _ => ?_)) | (refine portTrained_keeps _ _ ?_))

theorem werrCount_keeps {kb kz} (n : Nat) {s : State} (hK : Keeps kb kz s) : Keeps kb kz (werrCount n s) := by
  unfold werrCount
  with_reducible repeat' (first | (assumption) | (refine ite_keeps _ (fun _ => ?_) (fun _ => ?_)) | (refine bumpF_keeps _ _ _ _ _ ?_))

theorem chainWrite_keeps {kb kz} (walled : Bool) (ups : List Upset) {s : State} (hK : Keeps kb kz s) : Keeps kb kz (chainWrite walled ups s) := by
  unfold chainWrite
  (try dsimp only)
  with_reducible repeat' (first | (assumption) | (refine ite_keeps _ (fun _ => ?_) (fun _ => ?_)) | (refine (srcWrites_keeps _ _ _ _ ?_).out) | (refine srcWrites_keeps_out _ _ _ _ ?_ (by assumption)) | (refine werrCount_keeps _ ?_) | (refine setReg_keeps _ _ _ ?_) | (refine nextCell_keeps_out _ ?_ (by assumption)) | (intro _) | (split))

theorem execChainWrite_keeps {kb kz} (walled : Bool) (ups : List Upset) {s : State} (hK : Keeps kb kz s) : ∃ s', execChainWrite walled ups s = .next s' ∧ Keeps kb kz s' := by
  unfold execChainWrite
  refine ⟨_, rfl, ?_⟩
  with_reducible repeat' (first | (assumption) | (refine ite_keeps _ (fun _ => ?_) (fun _ => ?_)) | (refine chainWrite_keeps _ _ ?_))

theorem chainRead_keeps {kb kz} (walled : Bool) (ups : List Upset) {s : State} (hK : Keeps kb kz s) : Keeps kb kz (chainRead walled ups s) := by
  unfold chainRead
  (try dsimp only)
  with_reducible repeat' (first | (assumption) | (refine ite_keeps _ (fun _ => ?_) (fun _ => ?_)) | (refine cellRoute_keeps _ ?_) | (refine (outReads_keeps _ _ _ ?_).out) | (refine outReads_keeps_out _ _ _ ?_ (by assumption)) | (refine fenceCount_keeps ?_) | (refine setReg_keeps _ _ _ ?_) | (refine nextCell_keeps_out _ ?_ (by assumption)) | (intro _) | (split))

theorem execChainRead_keeps {kb kz} (walled : Bool) (ups : List Upset) {s : State} (hK : Keeps kb kz s) : ∃ s', execChainRead walled ups s = .next s' ∧ Keeps kb kz s' := by
  unfold execChainRead
  refine ⟨_, rfl, ?_⟩
  with_reducible repeat' (first | (assumption) | (refine ite_keeps _ (fun _ => ?_) (fun _ => ?_)) | (refine chainRead_keeps _ _ ?_))

theorem chainRdata_keeps {kb kz}  {s : State} (hK : Keeps kb kz s) : Keeps kb kz (chainRdata s) := by
  unfold chainRdata
  (try dsimp only)
  with_reducible repeat' (first | (assumption) | (refine ite_keeps _ (fun _ => ?_) (fun _ => ?_)) | (refine setReg_keeps _ _ _ ?_) | (refine nextCell_keeps_out _ ?_ (by assumption)) | (intro _) | (split) | (simp only [keeps_mk, keeps1_mk, keeps2_mk, keeps3_mk, keeps4_mk]) | (refine parts_of ?_))

theorem execChainRdata_keeps {kb kz}  {s : State} (hK : Keeps kb kz s) : ∃ s', execChainRdata s = .next s' ∧ Keeps kb kz s' := by
  unfold execChainRdata
  refine ⟨_, rfl, ?_⟩
  with_reducible repeat' (first | (assumption) | (refine ite_keeps _ (fun _ => ?_) (fun _ => ?_)) | (refine chainRdata_keeps ?_))

theorem chainEvent_keeps {kb kz}  {s : State} (hK : Keeps kb kz s) : Keeps kb kz (chainEvent s) := by
  unfold chainEvent
  (try dsimp only)
  with_reducible repeat' (first | (assumption) | (refine ite_keeps _ (fun _ => ?_) (fun _ => ?_)) | (refine raiseUnit_keeps _ _ _ ?_) | (refine setReg_keeps _ _ _ ?_) | (refine nextCell_keeps_out _ ?_ (by assumption)) | (intro _) | (split))

theorem execChainEvent_keeps {kb kz}  {s : State} (hK : Keeps kb kz s) : ∃ s', execChainEvent s = .next s' ∧ Keeps kb kz s' := by
  unfold execChainEvent
  refine ⟨_, rfl, ?_⟩
  with_reducible repeat' (first | (assumption) | (refine ite_keeps _ (fun _ => ?_) (fun _ => ?_)) | (refine chainEvent_keeps ?_))

theorem withNumber_keeps {kb kz} (typ : Nat) (f : Nat → State → State) {s : State} (h_f : ∀ a0 s, Keeps kb kz s → Keeps kb kz (f a0 s)) (hK : Keeps kb kz s) : Keeps kb kz (withNumber typ f s) := by
  unfold withNumber
  with_reducible repeat' (first | (assumption) | (refine ite_keeps _ (fun _ => ?_) (fun _ => ?_)) | (refine setReg_keeps _ _ _ ?_) | (refine nextCell_keeps_out _ ?_ (by assumption)) | (apply h_f) | (refine (h_f _ ?_).out) | (intro _) | (split))

theorem execEnum_keeps {kb kz}  {s : State} (hK : Keeps kb kz s) : ∃ s', execEnum s = .next s' ∧ Keeps kb kz s' := by
  unfold execEnum
  refine ⟨_, rfl, ?_⟩
  with_reducible repeat' (first | (assumption) | (refine ite_keeps _ (fun _ => ?_) (fun _ => ?_)) | (refine withNumber_keeps _ _ ?_ ?_) | (refine enumCell_keeps _ ?_) | (refine setReg_keeps _ _ _ ?_) | (intro _))

theorem execEnumEnd_keeps {kb kz}  {s : State} (hK : Keeps kb kz s) : ∃ s', execEnumEnd s = .next s' ∧ Keeps kb kz s' := by
  unfold execEnumEnd
  refine ⟨_, rfl, ?_⟩
  with_reducible repeat' (first | (assumption) | (refine ite_keeps _ (fun _ => ?_) (fun _ => ?_)) | (refine withNumber_keeps _ _ ?_ ?_) | (refine headReady_keeps _ ?_) | (refine setReg_keeps _ _ _ ?_) | (intro _))

theorem execEnumDone_keeps {kb kz}  {s : State} (hK : Keeps kb kz s) : ∃ s', execEnumDone s = .next s' ∧ Keeps kb kz s' := by
  unfold execEnumDone
  refine ⟨_, rfl, ?_⟩
  with_reducible repeat' (first | (assumption) | (refine ite_keeps _ (fun _ => ?_) (fun _ => ?_)) | (refine withNumber_keeps _ _ ?_ ?_) | (refine enumDone_keeps _ ?_) | (refine setReg_keeps _ _ _ ?_) | (intro _))

theorem routeCell_keeps {kb kz}  {s : State} (hK : Keeps kb kz s) : Keeps kb kz (routeCell s) := by
  unfold routeCell
  with_reducible repeat' (first | (assumption) | (refine ite_keeps _ (fun _ => ?_) (fun _ => ?_)) | (refine setReg_keeps _ _ _ ?_) | (refine nextCell_keeps_out _ ?_ (by assumption)) | (intro _) | (split))

theorem execRouteCell_keeps {kb kz}  {s : State} (hK : Keeps kb kz s) : ∃ s', execRouteCell s = .next s' ∧ Keeps kb kz s' := by
  unfold execRouteCell
  refine ⟨_, rfl, ?_⟩
  with_reducible repeat' (first | (assumption) | (refine ite_keeps _ (fun _ => ?_) (fun _ => ?_)) | (refine routeCell_keeps ?_))

theorem execLinkLost_keeps {kb kz}  {s : State} (hK : Keeps kb kz s) : ∃ s', execLinkLost s = .next s' ∧ Keeps kb kz s' := by
  unfold execLinkLost
  refine ⟨_, rfl, ?_⟩
  with_reducible repeat' (first | (assumption) | (refine ite_keeps _ (fun _ => ?_) (fun _ => ?_)) | (refine withNumber_keeps _ _ ?_ ?_) | (refine linkLost_keeps _ ?_) | (refine setReg_keeps _ _ _ ?_) | (intro _))

theorem bcastCell_keeps {kb kz} (walled : Bool) (up : Upset) {s : State} (hK : Keeps kb kz s) : Keeps kb kz (bcastCell walled up s) := by
  unfold bcastCell
  (try dsimp only)
  with_reducible repeat' (first | (assumption) | (refine ite_keeps _ (fun _ => ?_) (fun _ => ?_)) | (refine (srcWrites_keeps _ _ _ _ ?_).out) | (refine srcWrites_keeps_out _ _ _ _ ?_ (by assumption)) | (refine werrCount_keeps _ ?_) | (refine setReg_keeps _ _ _ ?_) | (refine nextCell_keeps_out _ ?_ (by assumption)) | (intro _) | (split))

theorem execBcast_keeps {kb kz} (walled : Bool) (up : Upset) {s : State} (hK : Keeps kb kz s) : ∃ s', execBcast walled up s = .next s' ∧ Keeps kb kz s' := by
  unfold execBcast
  refine ⟨_, rfl, ?_⟩
  with_reducible repeat' (first | (assumption) | (refine ite_keeps _ (fun _ => ?_) (fun _ => ?_)) | (refine bcastCell_keeps _ _ ?_))

theorem execChainRouteWrite_keeps {kb kz} (w : Who) (v : Word) {s : State} (hK : Keeps kb kz s) : ∃ s', execChainRouteWrite w v s = .next s' ∧ Keeps kb kz s' := by
  unfold execChainRouteWrite
  refine ⟨_, rfl, ?_⟩
  with_reducible repeat' (first | (assumption) | (refine ite_keeps _ (fun _ => ?_) (fun _ => ?_)) | (refine gatedWrite_keeps _ _ _ _ ?_))

theorem execChainBcastDataWrite_keeps {kb kz} (w : Who) (v : Word) {s : State} (hK : Keeps kb kz s) : ∃ s', execChainBcastDataWrite w v s = .next s' ∧ Keeps kb kz s' := by
  unfold execChainBcastDataWrite
  refine ⟨_, rfl, ?_⟩
  with_reducible repeat' (first | (assumption) | (refine ite_keeps _ (fun _ => ?_) (fun _ => ?_)) | (refine gatedWrite_keeps _ _ _ _ ?_))

theorem execReenum_keeps {kb kz} (w : Who) {s : State} (hK : Keeps kb kz s) : ∃ s', execReenum w s = .next s' ∧ Keeps kb kz s' := by
  unfold execReenum
  refine ⟨_, rfl, ?_⟩
  with_reducible repeat' (first | (assumption) | (refine ite_keeps _ (fun _ => ?_) (fun _ => ?_)) | (refine gatedWrite_keeps _ _ _ _ ?_))

theorem execWakeUp_keeps {kb kz} (w : Who) {s : State} (hK : Keeps kb kz s) : ∃ s', execWakeUp w s = .next s' ∧ Keeps kb kz s' := by
  unfold execWakeUp
  refine ⟨_, rfl, ?_⟩
  with_reducible repeat' (first | (assumption) | (refine ite_keeps _ (fun _ => ?_) (fun _ => ?_)) | (refine gatedWrite_keeps _ _ _ _ ?_))

theorem execWakeDn_keeps {kb kz} (w : Who) {s : State} (hK : Keeps kb kz s) : ∃ s', execWakeDn w s = .next s' ∧ Keeps kb kz s' := by
  unfold execWakeDn
  refine ⟨_, rfl, ?_⟩
  with_reducible repeat' (first | (assumption) | (refine ite_keeps _ (fun _ => ?_) (fun _ => ?_)) | (refine gatedWrite_keeps _ _ _ _ ?_))

/-! ## Machine/HostAccess.lean -/

theorem barWrite_keeps {kb kz} (pa : Nat) (v : Word) (up : Upset) {s : State} (hK : Keeps kb kz s) : Keeps kb kz (barWrite pa v up s) := by
  unfold barWrite
  with_reducible repeat' (first | (assumption) | (refine ite_keeps _ (fun _ => ?_) (fun _ => ?_)) | (refine (srcWrite_keeps _ _ _ _ _ ?_).out))

theorem barFlush_keeps {kb kz}  {s : State} (hK : Keeps kb kz s) : Keeps kb kz (barFlush s) := by
  unfold barFlush
  with_reducible repeat' (first | (assumption) | (refine ite_keeps _ (fun _ => ?_) (fun _ => ?_)) | (refine barWrite_keeps _ _ _ ?_) | (refine setReg_keeps _ _ _ ?_) | (intro _) | (split) | (simp only [keeps_mk, keeps1_mk, keeps2_mk, keeps3_mk, keeps4_mk]) | (refine parts_of ?_))

theorem hostError_keeps {kb kz} (bad : Bool) (pas : List Nat) {s : State} (hK : Keeps kb kz s) : Keeps kb kz (hostError bad pas s) := by
  unfold hostError
  with_reducible repeat' (first | (assumption) | (refine ite_keeps _ (fun _ => ?_) (fun _ => ?_)) | (refine emit_keeps _ ?_))

theorem barRead_keeps {kb kz} (pa : Nat) (up : Upset) (low : Bool) {s : State} (hK : Keeps kb kz s) : Keeps kb kz (barRead pa up low s) := by
  unfold barRead
  (try dsimp only)
  with_reducible repeat' (first | (assumption) | (refine ite_keeps _ (fun _ => ?_) (fun _ => ?_)) | (refine (outRead_keeps _ _ _ ?_).out) | (refine outRead_keeps_out _ _ _ ?_ (by assumption)) | (refine hostError_keeps _ _ ?_) | (refine setReg_keeps _ _ _ ?_) | (intro _) | (split) | (refine outRead_keeps _ _ _ ?_) | (simp only [keeps_mk, keeps1_mk, keeps2_mk, keeps3_mk, keeps4_mk]) | (refine parts_of ?_))

theorem barDo_keeps {kb kz} (pa : Nat) (a : BarAcc) (up : Upset) {s : State} (hK : Keeps kb kz s) : Keeps kb kz (barDo pa a up s) := by
  unfold barDo
  (try dsimp only)
  with_reducible repeat' (first | (assumption) | (refine ite_keeps _ (fun _ => ?_) (fun _ => ?_)) | (refine barRead_keeps _ _ _ ?_) | (refine barWrite_keeps _ _ _ ?_) | (refine bumpF_keeps _ _ _ _ _ ?_) | (refine setReg_keeps _ _ _ ?_) | (intro _) | (split) | (simp only [keeps_mk, keeps1_mk, keeps2_mk, keeps3_mk, keeps4_mk]) | (refine parts_of ?_))

theorem barAccess_keeps {kb kz} (pa : Nat) (a : BarAcc) (up : Upset) {s : State} (hK : Keeps kb kz s) : Keeps kb kz (barAccess pa a up s) := by
  unfold barAccess
  (try dsimp only)
  with_reducible repeat' (first | (assumption) | (refine ite_keeps _ (fun _ => ?_) (fun _ => ?_)) | (refine barFlush_keeps ?_) | (refine (readsWait_keeps _ _ ?_).out) | (refine readsWait_keeps_out _ _ ?_ (by assumption)) | (refine barDo_keeps _ _ _ ?_) | (refine setReg_keeps _ _ _ ?_) | (intro _) | (split))

theorem execPcieBar0Access_keeps {kb kz} (slot : Fin 524288) (a : BarAcc) {s : State} (hK : Keeps kb kz s) : ∃ s', execPcieBar0Access slot a s = .next s' ∧ Keeps kb kz s' := by
  unfold execPcieBar0Access
  refine ⟨_, rfl, ?_⟩
  with_reducible repeat' (first | (assumption) | (refine ite_keeps _ (fun _ => ?_) (fun _ => ?_)) | (refine barAccess_keeps _ _ _ ?_))

theorem execHeldWriteExpiry_keeps {kb kz}  {s : State} (hK : Keeps kb kz s) : ∃ s', execHeldWriteExpiry s = .next s' ∧ Keeps kb kz s' := by
  unfold execHeldWriteExpiry
  refine ⟨_, rfl, ?_⟩
  with_reducible repeat' (first | (assumption) | (refine ite_keeps _ (fun _ => ?_) (fun _ => ?_)) | (refine barFlush_keeps ?_) | (refine setReg_keeps _ _ _ ?_) | (intro _) | (split))

theorem execPcieBar2Access_keeps {kb kz} (n : Fin 2097152) (a : BarAcc) (up : Upset) {s : State} (hK : Keeps kb kz s) : ∃ s', execPcieBar2Access n a up s = .next s' ∧ Keeps kb kz s' := by
  unfold execPcieBar2Access
  refine ⟨_, rfl, ?_⟩
  with_reducible repeat' (first | (assumption) | (refine ite_keeps _ (fun _ => ?_) (fun _ => ?_)) | (refine barAccess_keeps _ _ _ ?_))

theorem execQspiRead_keeps {kb kz} (addr : BitVec 34) (n : Nat) (ups : List Upset) {s : State} (hK : Keeps kb kz s) : ∃ s', execQspiRead addr n ups s = .next s' ∧ Keeps kb kz s' := by
  unfold execQspiRead
  refine ⟨_, rfl, ?_⟩
  (try dsimp only)
  with_reducible repeat' (first | (assumption) | (refine ite_keeps _ (fun _ => ?_) (fun _ => ?_)) | (refine (readsWait_keeps _ _ ?_).out) | (refine readsWait_keeps_out _ _ ?_ (by assumption)) | (refine (outReads_keeps _ _ _ ?_).out) | (refine outReads_keeps_out _ _ _ ?_ (by assumption)) | (refine emit_keeps _ ?_) | (refine hostError_keeps _ _ ?_) | (refine setReg_keeps _ _ _ ?_) | (intro _) | (split) | (refine readsWait_keeps _ _ ?_) | (refine outReads_keeps _ _ _ ?_) | (simp only [keeps_mk, keeps1_mk, keeps2_mk, keeps3_mk, keeps4_mk]) | (refine parts_of ?_))

theorem execQspiWrite_keeps {kb kz} (addr : BitVec 34) (ws : List Word) (cut : Bool) (ups : List Upset) {s : State} (hK : Keeps kb kz s) : ∃ s', execQspiWrite addr ws cut ups s = .next s' ∧ Keeps kb kz s' := by
  unfold execQspiWrite
  refine ⟨_, rfl, ?_⟩
  (try dsimp only)
  with_reducible repeat' (first | (assumption) | (refine ite_keeps _ (fun _ => ?_) (fun _ => ?_)) | (refine (srcWrites_keeps _ _ _ _ ?_).out) | (refine srcWrites_keeps_out _ _ _ _ ?_ (by assumption)) | (refine bumpF_keeps _ _ _ _ _ ?_))

theorem execQspiBadOpcode_keeps {kb kz}  {s : State} (hK : Keeps kb kz s) : ∃ s', execQspiBadOpcode s = .next s' ∧ Keeps kb kz s' := by
  unfold execQspiBadOpcode
  refine ⟨_, rfl, ?_⟩
  with_reducible repeat' (first | (assumption) | (refine ite_keeps _ (fun _ => ?_) (fun _ => ?_)) | (refine bumpF_keeps _ _ _ _ _ ?_))

theorem frameAnswer_keeps {kb kz} (f : HFrame) (op n : Nat) (ws : List Word) {s : State} (hK : Keeps kb kz s) : Keeps kb kz (frameAnswer f op n ws s) := by
  unfold frameAnswer
  with_reducible repeat' (first | (assumption) | (refine ite_keeps _ (fun _ => ?_) (fun _ => ?_)) | (refine hostFrame_keeps _ _ _ _ _ _ ?_) | (refine setReg_keeps _ _ _ ?_) | (intro _) | (split) | (simp only [keeps_mk, keeps1_mk, keeps2_mk, keeps3_mk, keeps4_mk]) | (refine parts_of ?_))

theorem execHostFrameRead_keeps {kb kz} (f : HFrame) (n : Nat) (ups : List Upset) {s : State} (hK : Keeps kb kz s) : ∃ s', execHostFrameRead f n ups s = .next s' ∧ Keeps kb kz s' := by
  unfold execHostFrameRead
  refine ⟨_, rfl, ?_⟩
  (try dsimp only)
  with_reducible repeat' (first | (assumption) | (refine ite_keeps _ (fun _ => ?_) (fun _ => ?_)) | (refine (readsWait_keeps _ _ ?_).out) | (refine readsWait_keeps_out _ _ ?_ (by assumption)) | (refine (outReads_keeps _ _ _ ?_).out) | (refine outReads_keeps_out _ _ _ ?_ (by assumption)) | (refine frameAnswer_keeps _ _ _ _ ?_) | (refine hostError_keeps _ _ ?_) | (refine setReg_keeps _ _ _ ?_) | (intro _) | (split) | (refine readsWait_keeps _ _ ?_) | (refine outReads_keeps _ _ _ ?_) | (simp only [keeps_mk, keeps1_mk, keeps2_mk, keeps3_mk, keeps4_mk]) | (refine parts_of ?_))

theorem execHostFrameWrite_keeps {kb kz} (f : HFrame) (ws : List Word) (ups : List Upset) {s : State} (hK : Keeps kb kz s) : ∃ s', execHostFrameWrite f ws ups s = .next s' ∧ Keeps kb kz s' := by
  unfold execHostFrameWrite
  refine ⟨_, rfl, ?_⟩
  (try dsimp only)
  with_reducible repeat' (first | (assumption) | (refine ite_keeps _ (fun _ => ?_) (fun _ => ?_)) | (refine frameAnswer_keeps _ _ _ _ ?_) | (refine (srcWrites_keeps _ _ _ _ ?_).out))

/-! ## Machine/DebugCmds.lean -/

theorem dbgAnswer_keeps {kb kz} (probe : Bool) (op : String) (status : Nat) (ns : List Nat) {s : State} (hK : Keeps kb kz s) : Keeps kb kz (dbgAnswer probe op status ns s) := by
  unfold dbgAnswer
  with_reducible repeat' (first | (assumption) | (refine ite_keeps _ (fun _ => ?_) (fun _ => ?_)) | (refine emit_keeps _ ?_))

theorem dbgEnd_keeps {kb kz} (probe : Bool) (op : String) (status : Nat) (ns : List Nat) {s : State} (hK : Keeps kb kz s) : Keeps1 kb kz (dbgEnd probe op status ns s) := by
  unfold dbgEnd
  with_reducible repeat' (first | (assumption) | (refine ite_keeps _ (fun _ => ?_) (fun _ => ?_)) | (refine dbgAnswer_keeps _ _ _ _ ?_) | (refine setReg_keeps _ _ _ ?_) | (intro _) | (split) | (simp only [keeps_mk, keeps1_mk, keeps2_mk, keeps3_mk, keeps4_mk]))
theorem dbgEnd_keeps_out {kb kz} (probe : Bool) (op : String) (status : Nat) (ns : List Nat) {s : State} (hK : Keeps kb kz s) {x0 s₁} (hE : dbgEnd probe op status ns s = (x0, s₁)) : Keeps kb kz s₁ := by
  have := dbgEnd_keeps (kb := kb) (kz := kz) probe op status ns  hK
  rw [hE] at this; exact this.out

theorem dbgWake_keeps {kb kz} (d : Nat) {s : State} (hK : Keeps kb kz s) : Keeps kb kz (dbgWake d s) := by
  unfold dbgWake
  with_reducible repeat' (first | (assumption) | (refine ite_keeps _ (fun _ => ?_) (fun _ => ?_)) | (refine runRequest_keeps _ _ ?_))

theorem dbgAt_keeps {kb kz} (probe : Bool) (op : String) (d : Option Nat) (f : State → Bool × State) {s : State} (h_f : ∀  s, Keeps kb kz s → Keeps1 kb kz (f  s)) (hK : Keeps kb kz s) : Keeps1 kb kz (dbgAt probe op d f s) := by
  unfold dbgAt
  with_reducible repeat' (first | (assumption) | (refine ite_keeps _ (fun _ => ?_) (fun _ => ?_)) | (refine (dbgEnd_keeps _ _ _ _ ?_).out) | (refine dbgEnd_keeps_out _ _ _ _ ?_ (by assumption)) | (refine dbgWake_keeps _ ?_) | (refine setReg_keeps _ _ _ ?_) | (apply h_f) | (refine (h_f _ ?_).out) | (intro _) | (split) | (refine dbgEnd_keeps _ _ _ _ ?_) | (simp only [keeps_mk, keeps1_mk, keeps2_mk, keeps3_mk, keeps4_mk]))
theorem dbgAt_keeps_out {kb kz} (probe : Bool) (op : String) (d : Option Nat) (f : State → Bool × State) {s : State} (h_f : ∀  s, Keeps kb kz s → Keeps1 kb kz (f  s)) (hK : Keeps kb kz s) {x0 s₁} (hE : dbgAt probe op d f s = (x0, s₁)) : Keeps kb kz s₁ := by
  have := dbgAt_keeps (kb := kb) (kz := kz) probe op d f h_f hK
  rw [hE] at this; exact this.out

theorem dbgHalt_keeps {kb kz} (probe : Bool) (t : Nat) {s : State} (hK : Keeps kb kz s) : Keeps1 kb kz (dbgHalt probe t s) := by
  unfold dbgHalt
  (try dsimp only)
  with_reducible repeat' (first | (assumption) | (refine ite_keeps _ (fun _ => ?_) (fun _ => ?_)) | (refine haltCheck_keeps _ ?_) | (refine modTine_keeps _ _ ?_) | (refine (dbgEnd_keeps _ _ _ _ ?_).out) | (refine dbgEnd_keeps_out _ _ _ _ ?_ (by assumption)) | (refine setReg_keeps _ _ _ ?_) | (intro _) | (split) | (refine dbgEnd_keeps _ _ _ _ ?_))
theorem dbgHalt_keeps_out {kb kz} (probe : Bool) (t : Nat) {s : State} (hK : Keeps kb kz s) {x0 s₁} (hE : dbgHalt probe t s = (x0, s₁)) : Keeps kb kz s₁ := by
  have := dbgHalt_keeps (kb := kb) (kz := kz) probe t  hK
  rw [hE] at this; exact this.out

theorem dbgResume_keeps {kb kz} (probe : Bool) (t : Nat) {s : State} (hK : Keeps kb kz s) : Keeps1 kb kz (dbgResume probe t s) := by
  unfold dbgResume
  (try dsimp only)
  with_reducible repeat' (first | (assumption) | (refine ite_keeps _ (fun _ => ?_) (fun _ => ?_)) | (refine (dbgEnd_keeps _ _ _ _ ?_).out) | (refine dbgEnd_keeps_out _ _ _ _ ?_ (by assumption)) | (refine modTine_keeps _ _ ?_) | (refine sieveUpdate_keeps _ ?_) | (refine alive_keeps _ ?_) | (refine setReg_keeps _ _ _ ?_) | (intro _) | (split) | (refine dbgEnd_keeps _ _ _ _ ?_))
theorem dbgResume_keeps_out {kb kz} (probe : Bool) (t : Nat) {s : State} (hK : Keeps kb kz s) {x0 s₁} (hE : dbgResume probe t s = (x0, s₁)) : Keeps kb kz s₁ := by
  have := dbgResume_keeps (kb := kb) (kz := kz) probe t  hK
  rw [hE] at this; exact this.out

theorem dbgStep_keeps {kb kz} (probe : Bool) (t : Nat) {s : State} (hK : Keeps kb kz s) : Keeps1 kb kz (dbgStep probe t s) := by
  unfold dbgStep
  with_reducible repeat' (first | (assumption) | (refine ite_keeps _ (fun _ => ?_) (fun _ => ?_)) | (refine (dbgEnd_keeps _ _ _ _ ?_).out) | (refine dbgEnd_keeps_out _ _ _ _ ?_ (by assumption)) | (refine modTine_keeps _ _ ?_) | (refine setReg_keeps _ _ _ ?_) | (intro _) | (split) | (refine dbgEnd_keeps _ _ _ _ ?_))
theorem dbgStep_keeps_out {kb kz} (probe : Bool) (t : Nat) {s : State} (hK : Keeps kb kz s) {x0 s₁} (hE : dbgStep probe t s = (x0, s₁)) : Keeps kb kz s₁ := by
  have := dbgStep_keeps (kb := kb) (kz := kz) probe t  hK
  rw [hE] at this; exact this.out

theorem dbgTouch_keeps {kb kz} (probe : Bool) (pa : Nat) (wr : Option Word) (up : Upset) {s : State} (hK : Keeps kb kz s) : Keeps1 kb kz (dbgTouch probe pa wr up s) := by
  unfold dbgTouch
  (try dsimp only)
  with_reducible repeat' (first | (assumption) | (refine ite_keeps _ (fun _ => ?_) (fun _ => ?_)) | (refine (physWrite_keeps _ _ _ _ _ ?_).out) | (refine physWrite_keeps_out _ _ _ _ _ ?_ (by assumption)) | (refine (dbgEnd_keeps _ _ _ _ ?_).out) | (refine dbgEnd_keeps_out _ _ _ _ ?_ (by assumption)) | (refine physAsk_keeps _ _ ?_) | (refine (physRead_keeps _ _ _ ?_).out) | (refine physRead_keeps_out _ _ _ ?_ (by assumption)) | (refine setReg_keeps _ _ _ ?_) | (intro _) | (split) | (refine physWrite_keeps _ _ _ _ _ ?_) | (refine dbgEnd_keeps _ _ _ _ ?_) | (refine physRead_keeps _ _ _ ?_) | (simp only [keeps_mk, keeps1_mk, keeps2_mk, keeps3_mk, keeps4_mk]) | (refine parts_of ?_))
theorem dbgTouch_keeps_out {kb kz} (probe : Bool) (pa : Nat) (wr : Option Word) (up : Upset) {s : State} (hK : Keeps kb kz s) {x0 s₁} (hE : dbgTouch probe pa wr up s = (x0, s₁)) : Keeps kb kz s₁ := by
  have := dbgTouch_keeps (kb := kb) (kz := kz) probe pa wr up  hK
  rw [hE] at this; exact this.out

theorem dbgFenced_keeps {kb kz} (probe : Bool) (op : String) {s : State} (hK : Keeps kb kz s) : Keeps1 kb kz (dbgFenced probe op s) := by
  unfold dbgFenced
  (try dsimp only)
  with_reducible repeat' (first | (assumption) | (refine ite_keeps _ (fun _ => ?_) (fun _ => ?_)) | (refine (dbgEnd_keeps _ _ _ _ ?_).out) | (refine dbgEnd_keeps_out _ _ _ _ ?_ (by assumption)) | (refine fenceCount_keeps ?_) | (refine setReg_keeps _ _ _ ?_) | (intro _) | (split) | (refine dbgEnd_keeps _ _ _ _ ?_) | (simp only [keeps_mk, keeps1_mk, keeps2_mk, keeps3_mk, keeps4_mk]) | (refine parts_of ?_))
theorem dbgFenced_keeps_out {kb kz} (probe : Bool) (op : String) {s : State} (hK : Keeps kb kz s) {x0 s₁} (hE : dbgFenced probe op s = (x0, s₁)) : Keeps kb kz s₁ := by
  have := dbgFenced_keeps (kb := kb) (kz := kz) probe op  hK
  rw [hE] at this; exact this.out

theorem dbgPhys_keeps {kb kz} (probe : Bool) (pa : Nat) (wr : Option Word) (up : Upset) {s : State} (hK : Keeps kb kz s) : Keeps1 kb kz (dbgPhys probe pa wr up s) := by
  unfold dbgPhys
  (try dsimp only)
  with_reducible repeat' (first | (assumption) | (refine ite_keeps _ (fun _ => ?_) (fun _ => ?_)) | (refine (dbgFenced_keeps _ _ ?_).out) | (refine dbgFenced_keeps_out _ _ ?_ (by assumption)) | (refine (dbgTouch_keeps _ _ _ _ ?_).out) | (refine dbgTouch_keeps_out _ _ _ _ ?_ (by assumption)) | (refine (dbgEnd_keeps _ _ _ _ ?_).out) | (refine dbgEnd_keeps_out _ _ _ _ ?_ (by assumption)) | (refine setReg_keeps _ _ _ ?_) | (intro _) | (split) | (refine dbgFenced_keeps _ _ ?_) | (refine dbgTouch_keeps _ _ _ _ ?_) | (refine dbgEnd_keeps _ _ _ _ ?_))
theorem dbgPhys_keeps_out {kb kz} (probe : Bool) (pa : Nat) (wr : Option Word) (up : Upset) {s : State} (hK : Keeps kb kz s) {x0 s₁} (hE : dbgPhys probe pa wr up s = (x0, s₁)) : Keeps kb kz s₁ := by
  have := dbgPhys_keeps (kb := kb) (kz := kz) probe pa wr up  hK
  rw [hE] at this; exact this.out

theorem dbgPhysical_keeps {kb kz} (probe : Bool) (pa : Nat) (wr : Option Word) (up : Upset) {s : State} (hK : Keeps kb kz s) : Keeps1 kb kz (dbgPhysical probe pa wr up s) := by
  unfold dbgPhysical
  with_reducible repeat' (first | (assumption) | (refine ite_keeps _ (fun _ => ?_) (fun _ => ?_)) | (refine (dbgPhys_keeps _ _ _ _ ?_).out) | (refine dbgPhys_keeps_out _ _ _ _ ?_ (by assumption)) | (refine (dbgEnd_keeps _ _ _ _ ?_).out) | (refine dbgEnd_keeps_out _ _ _ _ ?_ (by assumption)) | (refine setReg_keeps _ _ _ ?_) | (intro _) | (split) | (refine dbgPhys_keeps _ _ _ _ ?_) | (refine dbgEnd_keeps _ _ _ _ ?_))
theorem dbgPhysical_keeps_out {kb kz} (probe : Bool) (pa : Nat) (wr : Option Word) (up : Upset) {s : State} (hK : Keeps kb kz s) {x0 s₁} (hE : dbgPhysical probe pa wr up s = (x0, s₁)) : Keeps kb kz s₁ := by
  have := dbgPhysical_keeps (kb := kb) (kz := kz) probe pa wr up  hK
  rw [hE] at this; exact this.out

theorem dbgXlat_keeps {kb kz} (src : Nat) (walled : Bool) (t v : Nat) (store : Bool) {s : State} (hK : Keeps kb kz s) : Keeps1 kb kz (dbgXlat src walled t v store s) := by
  unfold dbgXlat
  (try dsimp only)
  with_reducible repeat' (first | (assumption) | (refine ite_keeps _ (fun _ => ?_) (fun _ => ?_)) | (refine (xlatWalk_keeps _ _ _ _ ?_).out) | (refine xlatWalk_keeps_out _ _ _ _ ?_ (by assumption)) | (refine setReg_keeps _ _ _ ?_) | (intro _) | (split) | (refine xlatWalk_keeps _ _ _ _ ?_) | (simp only [keeps_mk, keeps1_mk, keeps2_mk, keeps3_mk, keeps4_mk]))
theorem dbgXlat_keeps_out {kb kz} (src : Nat) (walled : Bool) (t v : Nat) (store : Bool) {s : State} (hK : Keeps kb kz s) {x0 s₁} (hE : dbgXlat src walled t v store s = (x0, s₁)) : Keeps kb kz s₁ := by
  have := dbgXlat_keeps (kb := kb) (kz := kz) src walled t v store  hK
  rw [hE] at this; exact this.out

theorem dbgMem_keeps {kb kz} (probe : Bool) (a : DbgAddr) (wr : Option Word) (up : Upset) {s : State} (hK : Keeps kb kz s) : Keeps1 kb kz (dbgMem probe a wr up s) := by
  unfold dbgMem
  with_reducible repeat' (first | (assumption) | (refine ite_keeps _ (fun _ => ?_) (fun _ => ?_)) | (refine (dbgAt_keeps _ _ _ _ ?_ ?_).out) | (refine dbgAt_keeps_out _ _ _ _ ?_ ?_ (by assumption)) | (refine (dbgPhysical_keeps _ _ _ _ ?_).out) | (refine dbgPhysical_keeps_out _ _ _ _ ?_ (by assumption)) | (refine (dbgXlat_keeps _ _ _ _ _ ?_).out) | (refine dbgXlat_keeps_out _ _ _ _ _ ?_ (by assumption)) | (refine (dbgEnd_keeps _ _ _ _ ?_).out) | (refine dbgEnd_keeps_out _ _ _ _ ?_ (by assumption)) | (refine (dbgPhys_keeps _ _ _ _ ?_).out) | (refine dbgPhys_keeps_out _ _ _ _ ?_ (by assumption)) | (refine setReg_keeps _ _ _ ?_) | (intro _) | (split) | (refine dbgAt_keeps _ _ _ _ ?_ ?_) | (refine dbgPhysical_keeps _ _ _ _ ?_) | (refine dbgXlat_keeps _ _ _ _ _ ?_) | (refine dbgEnd_keeps _ _ _ _ ?_) | (refine dbgPhys_keeps _ _ _ _ ?_))
theorem dbgMem_keeps_out {kb kz} (probe : Bool) (a : DbgAddr) (wr : Option Word) (up : Upset) {s : State} (hK : Keeps kb kz s) {x0 s₁} (hE : dbgMem probe a wr up s = (x0, s₁)) : Keeps kb kz s₁ := by
  have := dbgMem_keeps (kb := kb) (kz := kz) probe a wr up  hK
  rw [hE] at this; exact this.out

theorem dbgRegTouch_keeps {kb kz} (probe : Bool) (pg off : Nat) (wr : Option Word) {s : State} (hK : Keeps kb kz s) : Keeps1 kb kz (dbgRegTouch probe pg off wr s) := by
  unfold dbgRegTouch
  (try dsimp only)
  with_reducible repeat' (first | (assumption) | (refine ite_keeps _ (fun _ => ?_) (fun _ => ?_)) | (refine (dbgEnd_keeps _ _ _ _ ?_).out) | (refine dbgEnd_keeps_out _ _ _ _ ?_ (by assumption)) | (refine regWrite_keeps _ _ _ _ ?_) | (refine (regRead_keeps _ _ _ ?_).out) | (refine regRead_keeps_out _ _ _ ?_ (by assumption)) | (refine setReg_keeps _ _ _ ?_) | (intro _) | (split) | (refine dbgEnd_keeps _ _ _ _ ?_) | (refine regRead_keeps _ _ _ ?_) | (simp only [keeps_mk, keeps1_mk, keeps2_mk, keeps3_mk, keeps4_mk]) | (refine parts_of ?_))
theorem dbgRegTouch_keeps_out {kb kz} (probe : Bool) (pg off : Nat) (wr : Option Word) {s : State} (hK : Keeps kb kz s) {x0 s₁} (hE : dbgRegTouch probe pg off wr s = (x0, s₁)) : Keeps kb kz s₁ := by
  have := dbgRegTouch_keeps (kb := kb) (kz := kz) probe pg off wr  hK
  rw [hE] at this; exact this.out

theorem dbgPage_keeps {kb kz} (probe : Bool) (pg off : Nat) (wr : Option Word) {s : State} (hK : Keeps kb kz s) : Keeps1 kb kz (dbgPage probe pg off wr s) := by
  unfold dbgPage
  with_reducible repeat' (first | (assumption) | (refine ite_keeps _ (fun _ => ?_) (fun _ => ?_)) | (refine (dbgRegTouch_keeps _ _ _ _ ?_).out) | (refine dbgRegTouch_keeps_out _ _ _ _ ?_ (by assumption)) | (refine (dbgEnd_keeps _ _ _ _ ?_).out) | (refine dbgEnd_keeps_out _ _ _ _ ?_ (by assumption)) | (refine (dbgFenced_keeps _ _ ?_).out) | (refine dbgFenced_keeps_out _ _ ?_ (by assumption)) | (refine setReg_keeps _ _ _ ?_) | (intro _) | (split) | (refine dbgRegTouch_keeps _ _ _ _ ?_) | (refine dbgEnd_keeps _ _ _ _ ?_) | (refine dbgFenced_keeps _ _ ?_) | (simp only [keeps_mk, keeps1_mk, keeps2_mk, keeps3_mk, keeps4_mk]))
theorem dbgPage_keeps_out {kb kz} (probe : Bool) (pg off : Nat) (wr : Option Word) {s : State} (hK : Keeps kb kz s) {x0 s₁} (hE : dbgPage probe pg off wr s = (x0, s₁)) : Keeps kb kz s₁ := by
  have := dbgPage_keeps (kb := kb) (kz := kz) probe pg off wr  hK
  rw [hE] at this; exact this.out

theorem dbgRegAt_keeps {kb kz} (probe : Bool) (d : Option Nat) (f : State → Bool × State) {s : State} (h_f : ∀  s, Keeps kb kz s → Keeps1 kb kz (f  s)) (hK : Keeps kb kz s) : Keeps1 kb kz (dbgRegAt probe d f s) := by
  unfold dbgRegAt
  with_reducible repeat' (first | (assumption) | (refine ite_keeps _ (fun _ => ?_) (fun _ => ?_)) | (refine (dbgEnd_keeps _ _ _ _ ?_).out) | (refine dbgEnd_keeps_out _ _ _ _ ?_ (by assumption)) | (refine (dbgAt_keeps _ _ _ _ ?_ ?_).out) | (refine dbgAt_keeps_out _ _ _ _ ?_ ?_ (by assumption)) | (refine setReg_keeps _ _ _ ?_) | (apply h_f) | (refine (h_f _ ?_).out) | (intro _) | (split) | (refine dbgEnd_keeps _ _ _ _ ?_) | (refine dbgAt_keeps _ _ _ _ ?_ ?_))
theorem dbgRegAt_keeps_out {kb kz} (probe : Bool) (d : Option Nat) (f : State → Bool × State) {s : State} (h_f : ∀  s, Keeps kb kz s → Keeps1 kb kz (f  s)) (hK : Keeps kb kz s) {x0 s₁} (hE : dbgRegAt probe d f s = (x0, s₁)) : Keeps kb kz s₁ := by
  have := dbgRegAt_keeps (kb := kb) (kz := kz) probe d f h_f hK
  rw [hE] at this; exact this.out

theorem dbgPageAt_keeps {kb kz} (probe : Bool) (pg off : Nat) (wr : Option Word) {s : State} (hK : Keeps kb kz s) : Keeps1 kb kz (dbgPageAt probe pg off wr s) := by
  unfold dbgPageAt
  with_reducible repeat' (first | (assumption) | (refine ite_keeps _ (fun _ => ?_) (fun _ => ?_)) | (refine (dbgRegTouch_keeps _ _ _ _ ?_).out) | (refine dbgRegTouch_keeps_out _ _ _ _ ?_ (by assumption)) | (refine (dbgRegAt_keeps _ _ _ ?_ ?_).out) | (refine dbgRegAt_keeps_out _ _ _ ?_ ?_ (by assumption)) | (refine (dbgPage_keeps _ _ _ _ ?_).out) | (refine dbgPage_keeps_out _ _ _ _ ?_ (by assumption)) | (refine setReg_keeps _ _ _ ?_) | (intro _) | (split) | (refine dbgRegTouch_keeps _ _ _ _ ?_) | (refine dbgRegAt_keeps _ _ _ ?_ ?_) | (refine dbgPage_keeps _ _ _ _ ?_))
theorem dbgPageAt_keeps_out {kb kz} (probe : Bool) (pg off : Nat) (wr : Option Word) {s : State} (hK : Keeps kb kz s) {x0 s₁} (hE : dbgPageAt probe pg off wr s = (x0, s₁)) : Keeps kb kz s₁ := by
  have := dbgPageAt_keeps (kb := kb) (kz := kz) probe pg off wr  hK
  rw [hE] at this; exact this.out

theorem dbgTine_keeps {kb kz} (probe : Bool) (t : Nat) (rd : State → Word) (f : Word → State → State) (wr : Option Word) {s : State} (h_f : ∀ a0 s, Keeps kb kz s → Keeps kb kz (f a0 s)) (hK : Keeps kb kz s) : Keeps1 kb kz (dbgTine probe t rd f wr s) := by
  unfold dbgTine
  with_reducible repeat' (first | (assumption) | (refine ite_keeps _ (fun _ => ?_) (fun _ => ?_)) | (refine (dbgEnd_keeps _ _ _ _ ?_).out) | (refine dbgEnd_keeps_out _ _ _ _ ?_ (by assumption)) | (refine setReg_keeps _ _ _ ?_) | (apply h_f) | (refine (h_f _ ?_).out) | (intro _) | (split) | (refine dbgEnd_keeps _ _ _ _ ?_) | (simp only [keeps_mk, keeps1_mk, keeps2_mk, keeps3_mk, keeps4_mk]) | (refine parts_of ?_))
theorem dbgTine_keeps_out {kb kz} (probe : Bool) (t : Nat) (rd : State → Word) (f : Word → State → State) (wr : Option Word) {s : State} (h_f : ∀ a0 s, Keeps kb kz s → Keeps kb kz (f a0 s)) (hK : Keeps kb kz s) {x0 s₁} (hE : dbgTine probe t rd f wr s = (x0, s₁)) : Keeps kb kz s₁ := by
  have := dbgTine_keeps (kb := kb) (kz := kz) probe t rd f wr h_f hK
  rw [hE] at this; exact this.out

theorem dbgReg_keeps {kb kz} (probe : Bool) (r : DbgReg) (wr : Option Word) {s : State} (hK : Keeps kb kz s) : Keeps1 kb kz (dbgReg probe r wr s) := by
  unfold dbgReg
  (try dsimp only)
  with_reducible repeat' (first | (assumption) | (refine ite_keeps _ (fun _ => ?_) (fun _ => ?_)) | (refine (dbgRegAt_keeps _ _ _ ?_ ?_).out) | (refine dbgRegAt_keeps_out _ _ _ ?_ ?_ (by assumption)) | (refine (dbgTine_keeps _ _ _ _ _ ?_ ?_).out) | (refine dbgTine_keeps_out _ _ _ _ _ ?_ ?_ (by assumption)) | (refine (dbgPageAt_keeps _ _ _ _ ?_).out) | (refine dbgPageAt_keeps_out _ _ _ _ ?_ (by assumption)) | (refine setG_keeps _ _ _ ?_) | (refine setAcc_keeps _ _ _ ?_) | (refine setPc_keeps _ _ ?_) | (refine tinePageWrite_keeps _ _ _ _ ?_) | (refine setReg_keeps _ _ _ ?_) | (intro _) | (split) | (refine dbgRegAt_keeps _ _ _ ?_ ?_) | (refine dbgTine_keeps _ _ _ _ _ ?_ ?_) | (refine dbgPageAt_keeps _ _ _ _ ?_))
theorem dbgReg_keeps_out {kb kz} (probe : Bool) (r : DbgReg) (wr : Option Word) {s : State} (hK : Keeps kb kz s) {x0 s₁} (hE : dbgReg probe r wr s = (x0, s₁)) : Keeps kb kz s₁ := by
  have := dbgReg_keeps (kb := kb) (kz := kz) probe r wr  hK
  rw [hE] at this; exact this.out

theorem dbgDo_keeps {kb kz} (probe : Bool) (op : DbgOp) {s : State} (hK : Keeps kb kz s) : Keeps1 kb kz (dbgDo probe op s) := by
  unfold dbgDo
  with_reducible repeat' (first | (assumption) | (refine ite_keeps _ (fun _ => ?_) (fun _ => ?_)) | (refine (dbgAt_keeps _ _ _ _ ?_ ?_).out) | (refine dbgAt_keeps_out _ _ _ _ ?_ ?_ (by assumption)) | (refine (dbgHalt_keeps _ _ ?_).out) | (refine dbgHalt_keeps_out _ _ ?_ (by assumption)) | (refine (dbgResume_keeps _ _ ?_).out) | (refine dbgResume_keeps_out _ _ ?_ (by assumption)) | (refine (dbgStep_keeps _ _ ?_).out) | (refine dbgStep_keeps_out _ _ ?_ (by assumption)) | (refine (dbgMem_keeps _ _ _ _ ?_).out) | (refine dbgMem_keeps_out _ _ _ _ ?_ (by assumption)) | (refine (dbgReg_keeps _ _ _ ?_).out) | (refine dbgReg_keeps_out _ _ _ ?_ (by assumption)) | (refine setReg_keeps _ _ _ ?_) | (intro _) | (split) | (refine dbgAt_keeps _ _ _ _ ?_ ?_) | (refine dbgHalt_keeps _ _ ?_) | (refine dbgResume_keeps _ _ ?_) | (refine dbgStep_keeps _ _ ?_) | (refine dbgMem_keeps _ _ _ _ ?_) | (refine dbgReg_keeps _ _ _ ?_))
theorem dbgDo_keeps_out {kb kz} (probe : Bool) (op : DbgOp) {s : State} (hK : Keeps kb kz s) {x0 s₁} (hE : dbgDo probe op s = (x0, s₁)) : Keeps kb kz s₁ := by
  have := dbgDo_keeps (kb := kb) (kz := kz) probe op  hK
  rw [hE] at this; exact this.out

theorem dbgRequest_keeps {kb kz} (probe : Bool) (op : DbgOp) {s : State} (hK : Keeps kb kz s) : ∃ s', dbgRequest probe op s = .next s' ∧ Keeps kb kz s' := by
  unfold dbgRequest
  refine ⟨_, rfl, ?_⟩
  (try dsimp only)
  with_reducible repeat' (first | (assumption) | (refine ite_keeps _ (fun _ => ?_) (fun _ => ?_)) | (refine viaTap_keeps _ _ ?_ ?_) | (refine (dbgDo_keeps _ _ ?_).out) | (refine dbgDo_keeps_out _ _ ?_ (by assumption)) | (refine setReg_keeps _ _ _ ?_) | (intro _) | (split) | (refine dbgDo_keeps _ _ ?_) | (simp only [keeps_mk, keeps1_mk, keeps2_mk, keeps3_mk, keeps4_mk]) | (refine parts_of ?_))

theorem putSess_keeps {kb kz} (probe : Bool) (x : Session) {s : State} (hK : Keeps kb kz s) : Keeps kb kz (putSess probe x s) := by
  unfold putSess
  with_reducible repeat' (first | (assumption) | (refine ite_keeps _ (fun _ => ?_) (fun _ => ?_)) | (refine setReg_keeps _ _ _ ?_) | (intro _) | (split) | (simp only [keeps_mk, keeps1_mk, keeps2_mk, keeps3_mk, keeps4_mk]) | (refine parts_of ?_))

theorem dbgAgain_keeps {kb kz} (r : DbgReq) {s : State} (hK : Keeps kb kz s) : Keeps kb kz (dbgAgain r s) := by
  unfold dbgAgain
  (try dsimp only)
  with_reducible repeat' (first | (assumption) | (refine ite_keeps _ (fun _ => ?_) (fun _ => ?_)) | (refine (dbgDo_keeps _ _ ?_).out) | (refine dbgDo_keeps_out _ _ ?_ (by assumption)) | (refine putSess_keeps _ _ ?_) | (refine setReg_keeps _ _ _ ?_) | (intro _) | (split) | (refine dbgDo_keeps _ _ ?_) | (simp only [keeps_mk, keeps1_mk, keeps2_mk, keeps3_mk, keeps4_mk]) | (refine parts_of ?_))

theorem dbgGo_keeps {kb kz}  {s : State} (hK : Keeps kb kz s) : Keeps kb kz (dbgGo s) := by
  unfold dbgGo
  with_reducible repeat' (first | (assumption) | (refine ite_keeps _ (fun _ => ?_) (fun _ => ?_)) | (refine forAll_keeps _ _ ?_ ?_) | (refine dbgAgain_keeps _ ?_) | (refine setReg_keeps _ _ _ ?_) | (intro _) | (split) | (simp only [keeps_mk, keeps1_mk, keeps2_mk, keeps3_mk, keeps4_mk]) | (refine parts_of ?_))

theorem execDebugHalt_keeps {kb kz} (probe : Bool) (t : TineNo) {s : State} (hK : Keeps kb kz s) :
    ∃ s', execDebugHalt probe t s = .next s' ∧ Keeps kb kz s' := by
  unfold execDebugHalt
  exact dbgRequest_keeps _ _ hK

theorem execDebugResume_keeps {kb kz} (probe : Bool) (t : TineNo) {s : State} (hK : Keeps kb kz s) :
    ∃ s', execDebugResume probe t s = .next s' ∧ Keeps kb kz s' := by
  unfold execDebugResume
  exact dbgRequest_keeps _ _ hK

theorem execDebugStep_keeps {kb kz} (probe : Bool) (t : TineNo) {s : State} (hK : Keeps kb kz s) :
    ∃ s', execDebugStep probe t s = .next s' ∧ Keeps kb kz s' := by
  unfold execDebugStep
  exact dbgRequest_keeps _ _ hK

theorem execDebugMemoryAccess_keeps {kb kz} (probe : Bool) (a : DbgAddr) (wr : Option Word) (up : Upset) {s : State} (hK : Keeps kb kz s) :
    ∃ s', execDebugMemoryAccess probe a wr up s = .next s' ∧ Keeps kb kz s' := by
  unfold execDebugMemoryAccess
  exact dbgRequest_keeps _ _ hK

theorem execDebugRegisterAccess_keeps {kb kz} (probe : Bool) (r : DbgReg) (wr : Option Word) {s : State} (hK : Keeps kb kz s) :
    ∃ s', execDebugRegisterAccess probe r wr s = .next s' ∧ Keeps kb kz s' := by
  unfold execDebugRegisterAccess
  exact dbgRequest_keeps _ _ hK

/-! ## Machine/HostCmds.lean -/

theorem execHostSqdb_keeps {kb kz} (w : Who) (q : Fin 65) (v : BitVec 12) {s : State} (hK : Keeps kb kz s) : ∃ s', execHostSqdb w q v s = .next s' ∧ Keeps kb kz s' := by
  unfold execHostSqdb
  refine ⟨_, rfl, ?_⟩
  with_reducible repeat' (first | (assumption) | (refine ite_keeps _ (fun _ => ?_) (fun _ => ?_)) | (refine gated_keeps _ _ _ _ ?_ ?_) | (refine hostWrite_keeps _ _ ?_) | (refine setReg_keeps _ _ _ ?_) | (intro _))

theorem execHostCqdb_keeps {kb kz} (w : Who) (q : Fin 65) (v : BitVec 12) {s : State} (hK : Keeps kb kz s) : ∃ s', execHostCqdb w q v s = .next s' ∧ Keeps kb kz s' := by
  unfold execHostCqdb
  refine ⟨_, rfl, ?_⟩
  with_reducible repeat' (first | (assumption) | (refine ite_keeps _ (fun _ => ?_) (fun _ => ?_)) | (refine gated_keeps _ _ _ _ ?_ ?_) | (refine hostWrite_keeps _ _ ?_) | (refine setReg_keeps _ _ _ ?_) | (intro _))

theorem execSqFetch_keeps {kb kz}  {s : State} (hK : Keeps kb kz s) : ∃ s', execSqFetch s = .next s' ∧ Keeps kb kz s' := by
  unfold execSqFetch
  refine ⟨_, rfl, ?_⟩
  with_reducible repeat' (first | (assumption) | (refine ite_keeps _ (fun _ => ?_) (fun _ => ?_)) | (refine sqFetch_keeps _ ?_) | (refine setReg_keeps _ _ _ ?_) | (intro _) | (split))

theorem execHostReadCompletion_keeps {kb kz} (q : Fin 65) (ok : Bool) (bs : List Byte) {s : State} (hK : Keeps kb kz s) : ∃ s', execHostReadCompletion q ok bs s = .next s' ∧ Keeps kb kz s' := by
  unfold execHostReadCompletion
  refine ⟨_, rfl, ?_⟩
  (try dsimp only)
  with_reducible repeat' (first | (assumption) | (refine ite_keeps _ (fun _ => ?_) (fun _ => ?_)) | (refine bumpF_keeps _ _ _ _ _ ?_) | (refine entryLand_keeps _ _ _ _ ?_) | (refine slotDone_keeps _ _ _ _ _ _ ?_) | (refine malf_keeps _ ?_) | (refine dataLand_keeps _ _ _ _ _ ?_) | (refine setReg_keeps _ _ _ ?_) | (intro _) | (split))

theorem execCompletionTimeout_keeps {kb kz} (q : Fin 65) {s : State} (hK : Keeps kb kz s) : ∃ s', execCompletionTimeout q s = .next s' ∧ Keeps kb kz s' := by
  unfold execCompletionTimeout
  refine ⟨_, rfl, ?_⟩
  with_reducible repeat' (first | (assumption) | (refine ite_keeps _ (fun _ => ?_) (fun _ => ?_)) | (refine slotDone_keeps _ _ _ _ _ _ ?_) | (refine malf_keeps _ ?_) | (refine bumpF_keeps _ _ _ _ _ ?_) | (refine setReg_keeps _ _ _ ?_) | (intro _) | (split))

theorem execHandover_keeps {kb kz} (q : Fin 65) {s : State} (hK : Keeps kb kz s) : ∃ s', execHandover q s = .next s' ∧ Keeps kb kz s' := by
  unfold execHandover
  refine ⟨_, rfl, ?_⟩
  (try dsimp only)
  with_reducible repeat' (first | (assumption) | (refine ite_keeps _ (fun _ => ?_) (fun _ => ?_)) | (refine (hopOffer_keeps _ _ ?_).out) | (refine hopOffer_keeps_out _ _ ?_ (by assumption)) | (refine raiseUnit_keeps _ _ _ ?_) | (refine setSlot_keeps _ _ _ ?_) | (refine setReg_keeps _ _ _ ?_) | (intro _) | (split))

theorem execCreateCq_keeps {kb kz}  {s : State} (hK : Keeps kb kz s) : ∃ s', execCreateCq s = .next s' ∧ Keeps kb kz s' := by
  unfold execCreateCq
  refine ⟨_, rfl, ?_⟩
  (try dsimp only)
  with_reducible repeat' (first | (assumption) | (refine ite_keeps _ (fun _ => ?_) (fun _ => ?_)) | (refine slotDone_keeps _ _ _ _ _ _ ?_) | (refine setReg_keeps _ _ _ ?_) | (intro _) | (split) | (simp only [keeps_mk, keeps1_mk, keeps2_mk, keeps3_mk, keeps4_mk]) | (refine parts_of ?_))

theorem execCreateSq_keeps {kb kz}  {s : State} (hK : Keeps kb kz s) : ∃ s', execCreateSq s = .next s' ∧ Keeps kb kz s' := by
  unfold execCreateSq
  refine ⟨_, rfl, ?_⟩
  (try dsimp only)
  with_reducible repeat' (first | (assumption) | (refine ite_keeps _ (fun _ => ?_) (fun _ => ?_)) | (refine slotDone_keeps _ _ _ _ _ _ ?_) | (refine setReg_keeps _ _ _ ?_) | (intro _) | (split) | (simp only [keeps_mk, keeps1_mk, keeps2_mk, keeps3_mk, keeps4_mk]) | (refine parts_of ?_))

theorem execDeleteSq_keeps {kb kz}  {s : State} (hK : Keeps kb kz s) : ∃ s', execDeleteSq s = .next s' ∧ Keeps kb kz s' := by
  unfold execDeleteSq
  refine ⟨_, rfl, ?_⟩
  (try dsimp only)
  with_reducible repeat' (first | (assumption) | (refine ite_keeps _ (fun _ => ?_) (fun _ => ?_)) | (refine deleteStep_keeps ?_) | (refine modHq_keeps _ _ ?_) | (refine setSlot_keeps _ _ _ ?_) | (refine slotDone_keeps _ _ _ _ _ _ ?_) | (refine setReg_keeps _ _ _ ?_) | (intro _) | (split) | (simp only [keeps_mk, keeps1_mk, keeps2_mk, keeps3_mk, keeps4_mk]) | (refine parts_of ?_))

theorem execDeleteCq_keeps {kb kz}  {s : State} (hK : Keeps kb kz s) : ∃ s', execDeleteCq s = .next s' ∧ Keeps kb kz s' := by
  unfold execDeleteCq
  refine ⟨_, rfl, ?_⟩
  (try dsimp only)
  with_reducible repeat' (first | (assumption) | (refine ite_keeps _ (fun _ => ?_) (fun _ => ?_)) | (refine slotDone_keeps _ _ _ _ _ _ ?_) | (refine modHq_keeps _ _ ?_) | (refine setReg_keeps _ _ _ ?_) | (intro _) | (split) | (simp only [keeps_mk, keeps1_mk, keeps2_mk, keeps3_mk, keeps4_mk]) | (refine parts_of ?_))

theorem execHostCpl_keeps {kb kz} (w : Who) (q : BitVec 7) (slot : BitVec 6) (status : BitVec 16) {s : State} (hK : Keeps kb kz s) : ∃ s', execHostCpl w q slot status s = .next s' ∧ Keeps kb kz s' := by
  unfold execHostCpl
  refine ⟨_, rfl, ?_⟩
  with_reducible repeat' (first | (assumption) | (refine ite_keeps _ (fun _ => ?_) (fun _ => ?_)) | (refine gated_keeps _ _ _ _ ?_ ?_) | (refine hostWrite_keeps _ _ ?_) | (refine setReg_keeps _ _ _ ?_) | (intro _))

theorem dataOut_keeps {kb kz} (q : Nat) (y : HSlot) {s : State} (hK : Keeps kb kz s) : Keeps kb kz (dataOut q y s) := by
  unfold dataOut
  (try dsimp only)
  with_reducible repeat' (first | (assumption) | (refine ite_keeps _ (fun _ => ?_) (fun _ => ?_)) | (refine pcieWrite_keeps _ _ ?_) | (refine putBytes_keeps _ _ _ ?_))

theorem execDataWriteBack_keeps {kb kz} (q : Fin 65) (ok : Bool) {s : State} (hK : Keeps kb kz s) : ∃ s', execDataWriteBack q ok s = .next s' ∧ Keeps kb kz s' := by
  unfold execDataWriteBack
  refine ⟨_, rfl, ?_⟩
  (try dsimp only)
  with_reducible repeat' (first | (assumption) | (refine ite_keeps _ (fun _ => ?_) (fun _ => ?_)) | (refine setSlot_keeps _ _ _ ?_) | (refine dataOut_keeps _ _ ?_) | (refine setReg_keeps _ _ _ ?_) | (intro _) | (split))

theorem execRecordPublish_keeps {kb kz} (q : Fin 65) {s : State} (hK : Keeps kb kz s) : ∃ s', execRecordPublish q s = .next s' ∧ Keeps kb kz s' := by
  unfold execRecordPublish
  refine ⟨_, rfl, ?_⟩
  with_reducible repeat' (first | (assumption) | (refine ite_keeps _ (fun _ => ?_) (fun _ => ?_)) | (refine deleteStep_keeps ?_) | (refine recordStep_keeps _ ?_))

theorem execVectorResend_keeps {kb kz} (q : Fin 65) {s : State} (hK : Keeps kb kz s) : ∃ s', execVectorResend q s = .next s' ∧ Keeps kb kz s' := by
  unfold execVectorResend
  refine ⟨_, rfl, ?_⟩
  (try dsimp only)
  with_reducible repeat' (first | (assumption) | (refine ite_keeps _ (fun _ => ?_) (fun _ => ?_)) | (refine sendVec_keeps _ ?_) | (refine setHq_keeps _ _ ?_) | (refine setReg_keeps _ _ _ ?_) | (intro _) | (split))

theorem execHostDisable_keeps {kb kz} (w : Who) {s : State} (hK : Keeps kb kz s) : ∃ s', execHostDisable w s = .next s' ∧ Keeps kb kz s' := by
  unfold execHostDisable
  refine ⟨_, rfl, ?_⟩
  with_reducible repeat' (first | (assumption) | (refine ite_keeps _ (fun _ => ?_) (fun _ => ?_)) | (refine gated_keeps _ _ _ _ ?_ ?_) | (refine hostWrite_keeps _ _ ?_) | (refine setReg_keeps _ _ _ ?_) | (intro _))

theorem execHostEnable_keeps {kb kz} (w : Who) {s : State} (hK : Keeps kb kz s) : ∃ s', execHostEnable w s = .next s' ∧ Keeps kb kz s' := by
  unfold execHostEnable
  refine ⟨_, rfl, ?_⟩
  with_reducible repeat' (first | (assumption) | (refine ite_keeps _ (fun _ => ?_) (fun _ => ?_)) | (refine gated_keeps _ _ _ _ ?_ ?_) | (refine hostWrite_keeps _ _ ?_) | (refine setReg_keeps _ _ _ ?_) | (intro _))

theorem execPcieLinkUp_keeps {kb kz} (gen : Fin 3) (lanes : Fin 2) {s : State} (hK : Keeps kb kz s) : ∃ s', execPcieLinkUp gen lanes s = .next s' ∧ Keeps kb kz s' := by
  unfold execPcieLinkUp
  refine ⟨_, rfl, ?_⟩
  with_reducible repeat' (first | (assumption) | (refine ite_keeps _ (fun _ => ?_) (fun _ => ?_)) | (refine setRegF_keeps _ _ _ _ _ ?_))

theorem execPcieLinkDown_keeps {kb kz}  {s : State} (hK : Keeps kb kz s) : ∃ s', execPcieLinkDown s = .next s' ∧ Keeps kb kz s' := by
  unfold execPcieLinkDown
  refine ⟨_, rfl, ?_⟩
  with_reducible repeat' (first | (assumption) | (refine ite_keeps _ (fun _ => ?_) (fun _ => ?_)) | (refine setRegF_keeps _ _ _ _ _ ?_))

theorem vecWindows_keeps {kb kz} (v : Nat) {s : State} (hK : Keeps kb kz s) : Keeps kb kz (vecWindows v s) := by
  unfold vecWindows
  (try dsimp only)
  with_reducible repeat' (first | (assumption) | (refine ite_keeps _ (fun _ => ?_) (fun _ => ?_)) | (refine forAll_keeps _ _ ?_ ?_) | (refine setHq_keeps _ _ ?_) | (refine setReg_keeps _ _ _ ?_) | (intro _))

theorem msixEntry_keeps {kb kz} (v : Nat) (e : MsixEnt) {s : State} (hK : Keeps kb kz s) : Keeps kb kz (msixEntry v e s) := by
  unfold msixEntry
  (try dsimp only)
  with_reducible repeat' (first | (assumption) | (refine ite_keeps _ (fun _ => ?_) (fun _ => ?_)) | (refine vecWindows_keeps _ ?_) | (refine msixSend_keeps _ ?_) | (refine setReg_keeps _ _ _ ?_) | (intro _) | (split) | (simp only [keeps_mk, keeps1_mk, keeps2_mk, keeps3_mk, keeps4_mk]) | (refine parts_of ?_))

theorem bar4Write_keeps {kb kz} (dw v : Nat) {s : State} (hK : Keeps kb kz s) : Keeps kb kz (bar4Write dw v s) := by
  unfold bar4Write
  (try dsimp only)
  with_reducible repeat' (first | (assumption) | (refine ite_keeps _ (fun _ => ?_) (fun _ => ?_)) | (refine msixEntry_keeps _ _ ?_))

theorem execPcieConfigWrite_keeps {kb kz} (a : MsixCfg) {s : State} (hK : Keeps kb kz s) : ∃ s', execPcieConfigWrite a s = .next s' ∧ Keeps kb kz s' := by
  unfold execPcieConfigWrite
  refine ⟨_, rfl, ?_⟩
  with_reducible repeat' (first | (assumption) | (refine ite_keeps _ (fun _ => ?_) (fun _ => ?_)) | (refine setRegB_keeps _ _ _ _ ?_) | (refine msixEntry_keeps _ _ ?_) | (refine bar4Write_keeps _ _ ?_) | (refine setReg_keeps _ _ _ ?_) | (intro _) | (split) | (simp only [keeps_mk, keeps1_mk, keeps2_mk, keeps3_mk, keeps4_mk]) | (refine parts_of ?_))

/-! ## Machine/Idle.lean -/

theorem aonTick_keeps {kb kz}  {s : State} (hK : Keeps kb kz s) : Keeps kb kz (aonTick s) := by
  unfold aonTick
  (try dsimp only)
  with_reducible repeat' (first | (assumption) | (refine ite_keeps _ (fun _ => ?_) (fun _ => ?_)) | (refine windowsGo_keeps ?_) | (refine dbgGo_keeps ?_) | (refine linkTry_keeps ?_) | (refine refNow_keeps ?_) | (refine waitEvent_keeps _ ?_) | (refine setReg_keeps _ _ _ ?_) | (intro _) | (split) | (simp only [keeps_mk, keeps1_mk, keeps2_mk, keeps3_mk, keeps4_mk]) | (refine parts_of ?_))

end Sys2Proof.Machine
end

