-- ==== Sys2Proof/Laws/Retire.lean ====
section
/-! SUPPORT. What a retirement does (R101, R106, R116, R156): one law per shared operation of Machine/TineOps.lean that says everything
it can change, and from them the laws of the instructions that write a G register, accumulators or flags only. -/

namespace Sys2Proof.Machine

/-- Between `s` and `s'` only tine `t` changed, of its page at most the registers at `offs`, and not its G registers,
accumulators, store buffer or translation cache. -/
structure Side (t : Nat) (offs : List Nat) (s s' : State) : Prop where
  only : OnlyTine t s s'
  page : ∀ off, off < 1024 → off ∉ offs → reg s' (pgTine t) off = reg s (pgTine t) off
  g : (tineAt s' t).g = (tineAt s t).g
  acc : (tineAt s' t).acc = (tineAt s t).acc
  sb : (tineAt s' t).sb = (tineAt s t).sb
  xcache : (tineAt s' t).xcache = (tineAt s t).xcache

theorem OnlyTine.refl (t : Nat) (s : State) : OnlyTine t s s := ⟨rfl, fun _ _ => rfl, fun _ _ _ _ => rfl⟩

theorem OnlyTine.trans {t : Nat} {a b c : State} (h : OnlyTine t a b) (k : OnlyTine t b c) : OnlyTine t a c where
  fields := by rw [k.fields, h.fields]
  tines u hu := (k.tines u hu).trans (h.tines u hu)
  pages pg off ho hp := (k.pages pg off ho hp).trans (h.pages pg off ho hp)

theorem Side.refl (t : Nat) (s : State) : Side t [] s s := ⟨.refl t s, fun _ _ _ => rfl, rfl, rfl, rfl, rfl⟩

theorem Side.trans {t : Nat} {x y : List Nat} {a b c : State} (h : Side t x a b) (k : Side t y b c) : Side t (x ++ y) a c where
  only := h.only.trans k.only
  page off ho hn := by
    rw [List.mem_append, not_or] at hn
    exact (k.page off ho hn.2).trans (h.page off ho hn.1)
  g := k.g.trans h.g
  acc := k.acc.trans h.acc
  sb := k.sb.trans h.sb
  xcache := k.xcache.trans h.xcache

theorem Side.mono {t : Nat} {x y : List Nat} {a b : State} (h : Side t x a b) (hxy : ∀ o, o ∈ x → o ∈ y) : Side t y a b :=
  { h with page := fun off ho hn => h.page off ho (fun hx => hn (hxy off hx)) }

/-! ## Updates -/

theorem side_setReg (t off : Nat) (v : Word) (s : State) (ho : off < 1024) : Side t [off] s (setReg (pgTine t) off v s) where
  only := ⟨rfl, fun _ _ => rfl, fun _ _ h hp => reg_setReg_page s v hp h ho⟩
  page o _ hn := reg_setReg_off s v (by simpa using hn)
  g := rfl
  acc := rfl
  sb := rfl
  xcache := rfl

theorem onlyTine_modTine (t : Nat) (f : Tine → Tine) (s : State) : OnlyTine t s (modTine t f s) :=
  ⟨rfl, fun _ hu => tineAt_modTine_ne s f hu, fun _ _ _ _ => rfl⟩

theorem side_modTine (t : Nat) (f : Tine → Tine) (s : State)
    (hf : ∀ x, (f x).g = x.g ∧ (f x).acc = x.acc ∧ (f x).sb = x.sb ∧ (f x).xcache = x.xcache) : Side t [] s (modTine t f s) where
  only := onlyTine_modTine t f s
  page _ _ _ := rfl
  g := by rw [tineAt_modTine_same]; exact (hf _).1
  acc := by rw [tineAt_modTine_same]; exact (hf _).2.1
  sb := by rw [tineAt_modTine_same]; exact (hf _).2.2.1
  xcache := by rw [tineAt_modTine_same]; exact (hf _).2.2.2

theorem side_ite {t : Nat} {offs : List Nat} {s a b : State} (c : Prop) [Decidable c] (h : c → Side t offs s a)
    (k : ¬c → Side t offs s b) : Side t offs s (if c then a else b) := by
  split
  · next hc => exact h hc
  · next hc => exact k hc

/-! ## Retirement -/

theorem side_setPc (t : Nat) (a : BitVec 14) (s : State) : Side t [] s (setPc t a s) :=
  side_modTine t _ s fun _ => ⟨rfl, rfl, rfl, rfl⟩

theorem side_recordFault (t : Nat) (f : FaultRec) (s : State) : Side t [] s (recordFault t f s) :=
  side_modTine t _ s fun x => by split <;> exact ⟨rfl, rfl, rfl, rfl⟩

theorem side_alive (t : Nat) (s : State) : Side t [] s (alive t s) := side_modTine t _ s fun _ => ⟨rfl, rfl, rfl, rfl⟩

theorem side_setEntry (t : Nat) (e : Option Nat) (s : State) : Side t [] s (setEntry t e s) :=
  side_modTine t _ s fun _ => ⟨rfl, rfl, rfl, rfl⟩

theorem side_haltCheck (t : Nat) (s : State) : Side t [] s (haltCheck t s) := by
  unfold haltCheck haltHeld haltNow
  split
  · exact side_ite _ (fun _ => side_modTine t _ s fun _ => ⟨rfl, rfl, rfl, rfl⟩) (fun _ => .refl t s)
  · split
    · exact side_ite _ (fun _ => side_modTine t _ s fun _ => ⟨rfl, rfl, rfl, rfl⟩) (fun _ => .refl t s)
    · exact .refl t s

theorem side_sieveUpdate (t : Nat) (s : State) : Side t [oSCNT] s (sieveUpdate t s) := by
  have e : ∀ x, Side t [oSCNT] s (setEntry t x s) := fun x => (side_setEntry t x s).mono (by simp)
  have r : Side t [oSCNT] s s := (Side.refl t s).mono (by simp)
  unfold sieveUpdate
  split
  · exact r
  · exact side_ite _ (fun _ => r) (fun _ => e _)
  · exact e _
  · refine side_ite _ (fun _ => r) (fun _ => side_ite _ (fun _ => ?_) (fun _ => e _))
    exact (side_setEntry t _ s).trans (side_setReg t oSCNT _ _ (by decide))

/-- The PC stays through `haltCheck` and `sieveUpdate`. -/
theorem pc_haltCheck (t : Nat) (s : State) : (tineAt (haltCheck t s) t).pc = (tineAt s t).pc := by
  unfold haltCheck haltHeld haltNow
  split
  · split
    · rw [tineAt_modTine_same]
    · rfl
  · split
    · split
      · rw [tineAt_modTine_same]
      · rfl
    · rfl

theorem pc_sieveUpdate (t : Nat) (s : State) : (tineAt (sieveUpdate t s) t).pc = (tineAt s t).pc := by
  unfold sieveUpdate setEntry
  split
  · rfl
  · split
    · rfl
    · rw [tineAt_modTine_same]
  · rw [tineAt_modTine_same]
  · split
    · rfl
    · split
      · rw [tineAt_bumpF, tineAt_modTine_same]
      · rw [tineAt_modTine_same]

/-- The loop registers that `advance` may change. -/
def loopOffs : List Nat := [oLSTAT, oLC 0, oLC 1, oLC 2, oLC 3]

theorem side_lstat (t : Nat) (v : Word) (s : State) : Side t loopOffs s (setReg (pgTine t) oLSTAT v s) :=
  (side_setReg t oLSTAT v s (by decide)).mono (by simp [loopOffs])

theorem side_loopTest (t : Nat) (l : List (BitVec 14)) (n : BitVec 14) (s : State) :
    Side t loopOffs s (loopTest t l n s).2 := by
  have r : Side t loopOffs s s := (Side.refl t s).mono (by simp)
  unfold loopTest
  extract_lets w ld lc s1
  split
  · next h =>
    have h1 : Side t loopOffs s s1 := by
      refine (side_setReg t (oLC (ld - 1)) lc s ?_).mono ?_
      · simp only [oLC]; omega
      · have : ld - 1 = 0 ∨ ld - 1 = 1 ∨ ld - 1 = 2 ∨ ld - 1 = 3 := by omega
        intro o ho
        rw [List.mem_singleton] at ho
        rcases this with e | e | e | e <;> simp [ho, e, loopOffs]
    split
    · exact h1
    · exact (h1.trans (side_lstat t _ s1)).mono (by simp)
  · exact r

/-- `advance` changes the PC, LSTAT and the loop counts. -/
theorem side_advance (t len : Nat) (s : State) : Side t loopOffs s (advance t len s) := by
  unfold advance
  extract_lets pc next l s1 back
  split
  · split
    · exact side_lstat t _ s
    · have h := side_loopTest t [pc, pc - back] next s1
      generalize loopTest t [pc, pc - back] next s1 = r at *
      obtain ⟨a, s2⟩ := r
      exact (((side_lstat t _ s).trans h).trans (side_setPc t a s2)).mono (by simp)
  · have h := side_loopTest t [pc] next s
    generalize loopTest t [pc] next s = r at *
    obtain ⟨a, s2⟩ := r
    exact (h.trans (side_setPc t a s2)).mono (by simp)

theorem loopTest_straight {t : Nat} {s : State} (h : regF s (pgTine t) oLSTAT 0 3 ≤ regF s (pgTine t) oLSTAT 3 3)
    (l : List (BitVec 14)) (n : BitVec 14) : loopTest t l n s = (n, s) := by
  unfold loopTest
  extract_lets w ld lc s1
  rw [if_neg (by
    have : ld ≤ getF w 3 3 := h
    omega)]

/-- Outside repeats and loops `advance` moves the PC past the instruction and changes nothing else. -/
theorem advance_straight {t len : Nat} {s : State} (h : Straight s t) :
    advance t len s = setPc t ((tineAt s t).pc + BitVec.ofNat 14 len) s := by
  unfold advance
  extract_lets pc next l s1 back
  rw [if_neg (by simpa [regB] using h.1), loopTest_straight h.2]

/-- What every retirement changes beside its PC. -/
theorem side_retireEnd (t : Nat) (opener : Bool) (s : State) :
    Side t [oRETIRED, oCLOCHE, oSCNT] s (retireEnd t opener s) := by
  unfold retireEnd
  extract_lets s1 n s2
  have h1 : Side t [oRETIRED] s s1 := ((side_setReg t oRETIRED _ s (by decide)).trans (side_alive t _)).mono (by simp)
  have h2 : Side t [oCLOCHE] s1 s2 :=
    side_ite _ (fun _ => (Side.refl t s1).mono (by simp)) (fun _ => side_setReg t oCLOCHE _ s1 (by decide))
  have h3 := side_modTine t (fun x => { x with flight := none, halfdone := false }) s2 fun _ => ⟨rfl, rfl, rfl, rfl⟩
  exact (((h1.trans h2).trans h3).trans ((side_haltCheck t _).trans (side_sieveUpdate t _))).mono (by simp)

theorem pc_retireEnd (t : Nat) (opener : Bool) (s : State) : (tineAt (retireEnd t opener s) t).pc = (tineAt s t).pc := by
  unfold retireEnd
  extract_lets s1 n s2
  rw [pc_sieveUpdate, pc_haltCheck, tineAt_modTine_same]
  have : tineAt s2 t = tineAt s1 t := by
    simp only [s2]
    split <;> rfl
  rw [this]
  simp [s1, alive, wrapF, setRegF]

theorem count_retireEnd (t : Nat) (opener : Bool) (s : State) :
    reg (retireEnd t opener s) (pgTine t) oRETIRED = reg s (pgTine t) oRETIRED + 1 := by
  unfold retireEnd
  extract_lets s1 n s2
  have h1 : reg s1 (pgTine t) oRETIRED = reg s (pgTine t) oRETIRED + 1 := by
    simp only [s1, alive, reg_modTine, wrapF, setRegF, reg_setReg_same, regF, setF_whole]
    simp [getF, wd]
    apply BitVec.eq_of_toNat_eq
    simp
  have h2 : Side t [oCLOCHE] s1 s2 :=
    side_ite _ (fun _ => (Side.refl t s1).mono (by simp)) (fun _ => side_setReg t oCLOCHE _ s1 (by decide))
  have h3 := side_modTine t (fun x => { x with flight := none, halfdone := false }) s2 fun _ => ⟨rfl, rfl, rfl, rfl⟩
  have h := (h2.trans h3).trans ((side_haltCheck t _).trans (side_sieveUpdate t _))
  rw [h.page oRETIRED (by decide) (by decide), h1]

/-- An instruction that ends in `retireEnd` after changes `h` to a state whose retirement count is as it was. -/
theorem retired_of_side {t : Nat} {offs : List Nat} {s a : State} (opener : Bool) (h : Side t offs s a) (hr : oRETIRED ∉ offs) :
    Retired t offs s (retireEnd t opener a) := by
  have k := side_retireEnd t opener a
  refine ⟨h.only.trans k.only, ?_, ?_, k.sb.trans h.sb, k.xcache.trans h.xcache⟩
  · rw [count_retireEnd, h.page oRETIRED (by decide) hr]
  · intro off ho hn hs
    rw [k.page off ho ?_, h.page off ho hn]
    simp only [sideOffs, List.mem_cons, not_or] at hs
    simp [hs]

theorem Retired.mono {t : Nat} {x y : List Nat} {s s' : State} (h : Retired t x s s')
    (hxy : ∀ o, o ∈ x → o ∈ y ∨ o ∈ sideOffs) : Retired t y s s' :=
  { h with page := fun off ho hn hs => h.page off ho (fun hx => (hxy off hx).elim hn hs) hs }

/-- `retire` after changes to registers that no retirement touches. -/
theorem retire_retired {t len : Nat} {offs : List Nat} {s a : State} (h : Side t offs s a) (hr : oRETIRED ∉ offs) :
    Retired t offs s (retire t len a) := by
  refine (retired_of_side false (h.trans (side_advance t len a)) ?_).mono ?_
  · simp only [List.mem_append, not_or]
    exact ⟨hr, by decide⟩
  · intro o ho
    rcases List.mem_append.1 ho with ho | ho
    · exact .inl ho
    · exact .inr (by simp only [loopOffs, sideOffs, List.mem_cons] at *; tauto)

theorem straight_of_page {t : Nat} {s a : State} (h : reg a (pgTine t) oLSTAT = reg s (pgTine t) oLSTAT) :
    Straight a t ↔ Straight s t := by
  unfold Straight regB regF
  rw [h]

/-- The PC after `retire`. -/
theorem retire_moves {t len : Nat} {s a : State} (hl : reg a (pgTine t) oLSTAT = reg s (pgTine t) oLSTAT)
    (hp : (tineAt a t).pc = (tineAt s t).pc) : Moves t len s (retire t len a) := by
  intro h
  rw [retire, pc_retireEnd, advance_straight ((straight_of_page hl).2 h), setPc, tineAt_modTine_same, hp]

/-! ## G registers and accumulators -/

theorem bankOff_ge (s : State) (t j : Nat) : 0x2D0 ≤ bankOff s t j := by
  unfold bankOff oBANK
  omega

theorem bankOff_lt (s : State) (t : Nat) {j : Nat} (h : j < 4) : bankOff s t j < 0x31C := by
  unfold bankOff oBANK
  omega

theorem bankOff_inj (s : State) (t : Nat) {i j : Nat} : bankOff s t i = bankOff s t j ↔ i = j := by
  unfold bankOff oBANK
  omega

theorem bankOff_of_lvl {s s' : State} {t : Nat} (h : tLvl s' t = tLvl s t) (j : Nat) : bankOff s' t j = bankOff s t j := by
  unfold bankOff
  rw [h]

theorem getG_of_side {t : Nat} {offs : List Nat} {s s' : State} (h : Side t offs s s') (hl : tLvl s' t = tLvl s t) (i : Gr)
    (hi : ∀ k, k < 4 → bankOff s t k ∉ offs) : getG s' t i = getG s t i := by
  have hi' := i.isLt
  unfold getG
  rw [h.g]
  split
  · rfl
  · rw [bankOff_of_lvl hl]
    have := bankOff_lt s t (show i.val - 28 < 4 by omega)
    exact h.page _ (by omega) (hi _ (by omega))

theorem getAcc_of_side {t : Nat} {offs : List Nat} {s s' : State} (h : Side t offs s s') (n : Nat) : getAcc s' t n = getAcc s t n := by
  unfold getAcc
  rw [h.acc]

/-! ## Writing a G register -/

theorem gOff_bank {s : State} {t : Nat} {i : Gr} (h : ¬ i.val < 28) : gOff s t i = bankOff s t (i.val - 28) := by
  simp [gOff, h]

theorem gOff_tst {s : State} {t : Nat} {i : Gr} : gOff s t i ≠ oTST := by
  unfold gOff oTST
  have := bankOff_ge s t (i.val - 28)
  split <;> omega

theorem tLvl_setG (s : State) (t : Nat) (i : Gr) (v : Word) : tLvl (setG t i v s) t = tLvl s t := by
  unfold setG
  split
  · rfl
  · next h => rw [tLvl, regF, reg_setReg_off s v (by rw [← gOff_bank h]; exact gOff_tst.symm)]; rfl

@[simp] theorem getG_setG_same (s : State) (t : Nat) (i : Gr) (v : Word) : getG (setG t i v s) t i = v := by
  by_cases h : i.val < 28
  · simp [getG, setG, h]
  · unfold getG
    rw [if_neg h, bankOff_of_lvl (tLvl_setG s t i v)]
    simp [setG, h]

theorem getG_setG_ne (s : State) (t : Nat) {i j : Gr} (v : Word) (hij : j ≠ i) : getG (setG t i v s) t j = getG s t j := by
  have hv : j.val ≠ i.val := fun e => hij (Fin.ext e)
  unfold getG
  rw [bankOff_of_lvl (tLvl_setG s t i v)]
  by_cases h : j.val < 28
  · simp only [h, if_true, setG]
    split
    · rw [tineAt_modTine_same, Tbl.get_set_ne _ _ _ hv]
    · rfl
  · simp only [h, if_false, setG]
    split
    · rfl
    · rw [reg_setReg_off]
      have := i.isLt
      have := j.isLt
      rw [Ne, bankOff_inj]
      omega

theorem onlyTine_setG (s : State) (t : Nat) (i : Gr) (v : Word) : OnlyTine t s (setG t i v s) := by
  unfold setG
  split
  · exact onlyTine_modTine t _ s
  · have := i.isLt
    have := bankOff_lt s t (show i.val - 28 < 4 by omega)
    exact (side_setReg t _ v s (by omega)).only

theorem reg_setG_ne (s : State) (t : Nat) {i : Gr} {off : Nat} (v : Word) (h : off ≠ gOff s t i) (ho : off < 1024) :
    reg (setG t i v s) (pgTine t) off = reg s (pgTine t) off := by
  unfold setG
  split
  · rfl
  · next hi => exact reg_setReg_off s v (by rwa [gOff_bank hi] at h)

theorem tine_setG (s : State) (t : Nat) (i : Gr) (v : Word) :
    (tineAt (setG t i v s) t).acc = (tineAt s t).acc ∧ (tineAt (setG t i v s) t).sb = (tineAt s t).sb ∧
      (tineAt (setG t i v s) t).xcache = (tineAt s t).xcache ∧ (tineAt (setG t i v s) t).pc = (tineAt s t).pc := by
  unfold setG
  split
  · rw [tineAt_modTine_same]
    exact ⟨rfl, rfl, rfl, rfl⟩
  · exact ⟨rfl, rfl, rfl, rfl⟩

/-! ## Flags -/

theorem side_putFlags (t : Nat) (f : FlagSet) (s : State) : Side t [oTST] s (putFlags t f s) := by
  unfold putFlags
  split
  · exact (Side.refl t s).mono (by simp)
  · exact side_setReg t oTST _ s (by decide)
  · exact side_setReg t oTST _ s (by decide)

theorem pc_putFlags (t : Nat) (f : FlagSet) (s : State) : (tineAt (putFlags t f s) t).pc = (tineAt s t).pc := by
  unfold putFlags
  split <;> rfl

theorem tst_putFlags (t : Nat) (f : FlagSet) (s : State) :
    reg (putFlags t f s) (pgTine t) oTST = tstAfter (reg s (pgTine t) oTST) f false := by
  unfold putFlags tstAfter
  split <;> simp [setRegF, setRegB, setB]

theorem side_arithTrap (t : Nat) (l : List Nat) (s : State) : Side t [] s (arithTrap t l s) := by
  unfold arithTrap
  exact side_ite _ (fun _ => .refl t s) (fun _ => side_recordFault t _ s)

theorem pc_arithTrap (t : Nat) (l : List Nat) (s : State) : (tineAt (arithTrap t l s) t).pc = (tineAt s t).pc := by
  unfold arithTrap recordFault
  split
  · rfl
  · rw [tineAt_modTine_same]
    split <;> rfl

theorem side_satFlag8 (t : Nat) (s : State) : Side t [oTST, oSATG] s (satFlag t 8 s) := by
  unfold satFlag
  extract_lets b s1 s2
  have h1 : Side t [oTST] s s1 := side_setReg t oTST _ s (by decide)
  have h2 : Side t [oSATG] s1 s2 := side_setReg t oSATG _ s1 (by decide)
  have h3 := side_modTine t (fun x => { x with tsat := Tbl.set (fun _ => 0) x.tsat 8 (Tbl.get (fun _ => 0) x.tsat 8 + 1) }) s2
    fun _ => ⟨rfl, rfl, rfl, rfl⟩
  exact ((h1.trans h2).trans h3).mono (by simp)

theorem tst_satFlag8 (t : Nat) (s : State) : reg (satFlag t 8 s) (pgTine t) oTST = setB (reg s (pgTine t) oTST) 16 true := by
  unfold satFlag
  extract_lets b s1 s2
  rw [reg_modTine]
  have e : reg s2 (pgTine t) oTST = reg s1 (pgTine t) oTST := reg_setReg_off s1 _ (by decide)
  rw [e]
  simp [s1, b, setRegB, setRegF, setB]

theorem pc_satFlag8 (t : Nat) (s : State) : (tineAt (satFlag t 8 s) t).pc = (tineAt s t).pc := by
  unfold satFlag
  extract_lets b s1 s2
  rw [tineAt_modTine_same]
  rfl

/-- The level of TST does not change with the condition flags and GSAT. -/
theorem lvl_tstAfter (w : Word) (f : FlagSet) (b : Bool) : getF (tstAfter w f b) 30 5 = getF w 30 5 := by
  unfold tstAfter
  cases f <;> cases b <;> simp [getF_setB_ne, getF_setF_ne]

theorem bank_notMem (s : State) (t : Nat) {k : Nat} (h : k < 4) :
    bankOff s t k ∉ ([oTST, oSATG] ++ (loopOffs ++ [oRETIRED, oCLOCHE, oSCNT])) := by
  have h1 := bankOff_ge s t k
  have h2 := bankOff_lt s t h
  intro hm
  simp only [loopOffs, oTST, oSATG, oLSTAT, oLC, oRETIRED, oCLOCHE, oSCNT, List.mem_append, List.mem_cons,
    List.not_mem_nil, or_false] at hm
  omega

/-- Every instruction that writes a G register and retires (R83, R116): `WroteG` says all it does. -/
theorem aluRetire_wroteG (t : TineNo) (gd : Gr) (r : AluOut) (len : Nat) (s : State) :
    WroteG t gd r.val r.flags r.gsat len s (aluRetire t gd r len s) := by
  unfold aluRetire retireSat
  extract_lets s1
  -- the state before the retirement: Gd written, then flags, GSAT and the trap
  let y := setG t gd r.val s
  have hy : s1 = arithTrap t (if r.gsat then [8] else []) (forAll (if r.gsat then [8] else []) (satFlag t) (putFlags t r.flags y)) := rfl
  have hT : reg s1 (pgTine t) oTST = tstAfter (reg y (pgTine t) oTST) r.flags r.gsat := by
    rw [hy, (side_arithTrap t _ _).page oTST (by decide) (by simp)]
    cases r.gsat
    · exact tst_putFlags t r.flags y
    · show reg (satFlag t 8 (putFlags t r.flags y)) (pgTine t) oTST = _
      rw [tst_satFlag8, tst_putFlags]
      rfl
  have hS : Side t [oTST, oSATG] y s1 := by
    rw [hy]
    cases r.gsat
    · exact ((side_putFlags t _ y).trans (side_arithTrap t _ _)).mono (by simp)
    · exact (((side_putFlags t _ y).trans (side_satFlag8 t _)).trans (side_arithTrap t _ _)).mono (by simp)
  have hG : r.gsat = false → Side t [oTST] y s1 := by
    intro h
    rw [hy, h]
    exact ((side_putFlags t _ y).trans (side_arithTrap t _ _)).mono (by simp)
  have hP : (tineAt s1 t).pc = (tineAt s t).pc := by
    rw [hy, pc_arithTrap, ← (tine_setG s t gd r.val).2.2.2]
    cases r.gsat
    · exact pc_putFlags t _ _
    · exact (pc_satFlag8 t _).trans (pc_putFlags t _ _)
  have hyT : reg y (pgTine t) oTST = reg s (pgTine t) oTST := reg_setG_ne s t r.val gOff_tst.symm (by decide)
  have hL : ∀ x, reg x (pgTine t) oTST = reg s1 (pgTine t) oTST → tLvl x t = tLvl s t := by
    intro x hx
    rw [tLvl, regF, hx, hT, hyT, lvl_tstAfter]
    rfl
  have hR := side_retireEnd t false (advance t len s1)
  have hA := (side_advance t len s1).trans hR
  have hfT : reg (retire t len s1) (pgTine t) oTST = reg s1 (pgTine t) oTST := hA.page oTST (by decide) (by decide)
  have hF : Side t ([oTST, oSATG] ++ (loopOffs ++ [oRETIRED, oCLOCHE, oSCNT])) y (retire t len s1) := hS.trans hA
  have hLy : tLvl (retire t len s1) t = tLvl y t := by rw [hL _ hfT, tLvl_setG]
  have hbank : ∀ k, k < 4 → bankOff y t k ∉ ([oTST, oSATG] ++ (loopOffs ++ [oRETIRED, oCLOCHE, oSCNT])) := by
    exact fun k hk => bank_notMem y t hk
  have hreg : ∀ i, getG (retire t len s1) t i = getG y t i := fun i => getG_of_side hF hLy i hbank
  refine ⟨?_, ?_, ?_, ?_, ?_, ?_, ?_⟩
  · rw [hreg]; exact getG_setG_same s t gd r.val
  · intro i hi
    rw [hreg]
    exact getG_setG_ne s t r.val (by simpa using hi)
  · intro n _
    rw [getAcc_of_side hF]
    unfold getAcc
    rw [(tine_setG s t gd r.val).1]
  · rw [hfT, hT, hyT]
  · intro h
    have : oSATG ≠ gOff s t gd := by
      have := bankOff_ge s t (gd.val - 28)
      unfold gOff oSATG
      split <;> omega
    have e : reg (retire t len s1) (pgTine t) oSATG = reg y (pgTine t) oSATG := ((hG h).trans hA).page oSATG (by decide) (by decide)
    rw [e]
    exact reg_setG_ne s t r.val this (by decide)
  · refine ⟨(onlyTine_setG s t gd r.val).trans hF.only, ?_, ?_, hF.sb.trans (tine_setG s t gd r.val).2.1, hF.xcache.trans (tine_setG s t gd r.val).2.2.1⟩
    · have hne : oRETIRED ≠ gOff s t gd := by
        have := bankOff_ge s t (gd.val - 28)
        unfold gOff oRETIRED
        split <;> omega
      show reg (retireEnd t false (advance t len s1)) (pgTine t) oRETIRED = _
      rw [count_retireEnd, (side_advance t len s1).page oRETIRED (by decide) (by decide), hS.page oRETIRED (by decide) (by decide),
        reg_setG_ne s t r.val hne (by decide)]
    · intro off ho hn hs
      simp only [List.mem_cons, List.not_mem_nil, or_false, not_or, sideOffs] at hn hs
      rw [hF.page off ho ?_, reg_setG_ne s t r.val hn.2.2 ho]
      simp [loopOffs, hn, hs]
  · refine retire_moves ?_ hP
    have hne : oLSTAT ≠ gOff s t gd := by
      have := bankOff_ge s t (gd.val - 28)
      unfold gOff oLSTAT
      split <;> omega
    rw [hS.page oLSTAT (by decide) (by decide), reg_setG_ne s t r.val hne (by decide)]

/-! ## Retirements that write no G register -/

theorem lvl_of_tst {s s' : State} {t : Nat} (h : reg s' (pgTine t) oTST = reg s (pgTine t) oTST) : tLvl s' t = tLvl s t := by
  unfold tLvl regF
  rw [h]

theorem side_retire (t len : Nat) (s : State) : Side t (loopOffs ++ [oRETIRED, oCLOCHE, oSCNT]) s (retire t len s) :=
  (side_advance t len s).trans (side_retireEnd t false _)

theorem tst_retire (t len : Nat) (s : State) : reg (retire t len s) (pgTine t) oTST = reg s (pgTine t) oTST :=
  (side_retire t len s).page oTST (by decide) (by decide)

/-- `retire` after changes that leave the level, the banks and the G registers alone. -/
theorem retire_keepsG {t len : Nat} {offs : List Nat} {s a : State} (h : Side t offs s a) (hl : tLvl a t = tLvl s t)
    (hb : ∀ k, k < 4 → bankOff s t k ∉ offs) : KeepsG t [] s (retire t len a) := by
  intro i _
  rw [getG_of_side (side_retire t len a) (lvl_of_tst (tst_retire t len a)) i
    (fun k hk hm => bank_notMem a t hk (List.mem_append_right _ hm))]
  exact getG_of_side h hl i hb

theorem retire_keepsAcc {t len : Nat} {offs : List Nat} {s a : State} (h : Side t offs s a) : KeepsAcc t [] s (retire t len a) :=
  fun n _ => getAcc_of_side (h.trans (side_retire t len a)) n

/-- A compare retires (R83): `cmpRetire` sets the condition flags and nothing else. -/
theorem cmpRetire_flags (t : TineNo) (r : AluOut) (len : Nat) (s : State) :
    KeepsG t [] s (cmpRetire t r len s) ∧ KeepsAcc t [] s (cmpRetire t r len s) ∧
      reg (cmpRetire t r len s) (pgTine t) oTST = tstAfter (reg s (pgTine t) oTST) r.flags false ∧
      Retired t [oTST] s (cmpRetire t r len s) ∧ Moves t len s (cmpRetire t r len s) := by
  have h := side_putFlags t r.flags s
  have hT := tst_putFlags t r.flags s
  have hl : tLvl (putFlags t r.flags s) t = tLvl s t := by
    unfold tLvl regF
    rw [hT, lvl_tstAfter]
  unfold cmpRetire
  refine ⟨retire_keepsG h hl ?_, retire_keepsAcc h, by rw [tst_retire, hT], retire_retired h (by decide), ?_⟩
  · intro k hk hm
    have := bankOff_ge s t k
    simp only [oTST, List.mem_cons, List.not_mem_nil, or_false] at hm
    omega
  · exact retire_moves (h.page oLSTAT (by decide) (by decide)) (pc_putFlags t _ s)

/-- An instruction with no effect but its retirement. -/
theorem retire_plain (t len : Nat) (s : State) :
    KeepsG t [] s (retire t len s) ∧ KeepsAcc t [] s (retire t len s) ∧ Retired t [] s (retire t len s) ∧
      Moves t len s (retire t len s) :=
  ⟨retire_keepsG (.refl t s) rfl (by simp), retire_keepsAcc (.refl t s), retire_retired (.refl t s) (by simp),
    retire_moves rfl rfl⟩

/-! ## Issue -/

/-- Where the instruction may issue, `issue` runs it. -/
theorem issue_ready {s : State} {t : Nat} (h : Ready s t) (i : Instr) (f : State → State) : issue t i f s = f s := by
  unfold issue issueHead
  simp [h.1, h.2]

/-- Behind others it enters the window (R114). -/
theorem issue_queued {s : State} {t : Nat} {i : Instr} (h : canIssue s t = false) (q : canQueue s t i = true)
    (f : State → State) : issue t i f s = enqueue t i s := by
  unfold issue
  simp [h, q]

/-- Where it may do neither, it has no effect. -/
theorem issue_not {s : State} {t : Nat} {i : Instr} (h : canIssue s t = false) (q : canQueue s t i = false)
    (f : State → State) : issue t i f s = s := by
  unfold issue
  simp [h, q]

end Sys2Proof.Machine
end

