-- ==== Sys2Proof/Machine/FetchDecode.lean ====
section
/-! DEFINITION. The instruction that a half of a fetch word spells, with its operands (Tables 4-4, 4-5 and 4-9 to 4-12). The
opcode table gives its rows no bits, so no command is decoded from a word; these tables say which command a tine issues for
the word at its PC. -/

namespace Sys2Proof.Machine

/-- A register field from bit `lo` (R90, R91). -/
def grAt (w lo : Nat) : Gr := Fin.ofNat 32 (nf w lo 5)

/-- An accumulator field from bit `lo`. -/
def arAt (w lo : Nat) : Ar := Fin.ofNat 4 (nf w lo 2)

/-- Lane and pair operation codes (R91). -/
def macOpAt (w lo : Nat) : MacOp :=
  match nf w lo 2 with
  | 0 => .absent
  | 1 => .mpy
  | 2 => .mac
  | _ => .msu

/-- The misc group of Table 4-4. -/
def miscInstr (t : TineNo) (h : Nat) : Instr :=
  match nf h 10 5 with
  | 0 => .nop t
  | 1 => .wait t
  | 2 => .fence t
  | 3 => .retx t .ok .ok .ok 0
  | 4 => .cloche t (BitVec.ofNat 6 h)
  | 5 => .sysc t (BitVec.ofNat 8 h)
  | 6 => .endl t
  | 7 => .clra t (.c (arAt h 0))
  | 8 => .nega t (.c (arAt h 0))
  | 9 => .absa t (.c (arAt h 0))
  | _ => .bkpt t

/-- A legal compact half (Table 4-4). -/
def compactInstr (t : TineNo) (h : Nat) : Instr :=
  let d := grAt h 10
  let a := grAt h 5
  match nf h 15 5 with
  | 0x00 => miscInstr t h
  | 0x01 => .mov t (.c d a)
  | 0x02 => .add t (.c d a)
  | 0x03 => .sub t (.c d a)
  | 0x04 => .and t (.c d a)
  | 0x05 => .or t (.c d a)
  | 0x06 => .xor t (.c d a)
  | 0x07 => .cmp t (.c d a)
  | 0x08 => .addi t (.c d (BitVec.ofNat 10 h))
  | 0x09 => .movi t (.c d (BitVec.ofNat 10 h))
  | 0x0A => .cmpi t (.c d (BitVec.ofNat 10 h))
  | 0x0B => .ash t (.ci d (BitVec.ofNat 10 h))
  | 0x0C => .ld t (.c d a)
  | 0x0D => .st t (.c d a)
  | 0x0E => .ldstC t (nf h 4 1 = 1) d a (Fin.ofNat 8 (nf h 0 3))
  | 0x0F => .br t (BitVec.ofNat 15 h)
  | 0x10 => .brc t (.c (BitVec.ofNat 4 (nf h 11 4)) (BitVec.ofNat 11 h))
  | 0x11 => if nf h 0 5 = 0 then .jmp t a else .call t (.c a)
  | 0x12 => .macC t (macOpAt h 13) (arAt h 11) (grAt h 6) (grAt h 1) (nf h 0 1 = 1)
  | 0x13 => if nf h 14 1 = 0 then .rep t (BitVec.ofNat 12 h) else .repu t (BitVec.ofNat 12 h)
  | 0x14 =>
    match nf h 0 5 with
    | 0 => .neg t (.c d a)
    | 1 => .not t (.c d a)
    | 2 => .abs t (.c d a)
    | 3 => .norm t (.c d a)
    | _ => .normm t (.c d a)
  | 0x15 => .hpop t (.c d (Fin.ofNat 256 (nf h 0 8)))
  | _ => .hpush t (.c d (Fin.ofNat 256 (nf h 0 8)))

/-- A legal full instruction of major 0x00, format R3 (Table 4-9). -/
def r3Instr (t : TineNo) (w : Nat) : Instr :=
  let d := grAt w 27
  let a := grAt w 22
  let b := grAt w 17
  match nf w 0 8 with
  | 0x01 => .add t (.f d a b)
  | 0x02 => .sub t (.f d a b)
  | 0x03 => .adds t d a b
  | 0x04 => .subs t d a b
  | 0x05 => .and t (.f d a b)
  | 0x06 => .or t (.f d a b)
  | 0x07 => .xor t (.f d a b)
  | 0x08 => .andn t d a b
  | 0x09 => .shl t d a (.reg b)
  | 0x0A => .shr t d a (.reg b)
  | 0x0B => .ash t (.reg d a b)
  | 0x0C => .rot t d a b
  | 0x0D => .min t d a b
  | 0x0E => .max t d a b
  | 0x0F => .cmp t (.f a b)
  | 0x10 => .mov t (.f d a)
  | 0x11 => .neg t (.f d a)
  | 0x12 => .not t (.f d a)
  | 0x13 => .abs t (.f d a)
  | 0x14 => .norm t (.f d a)
  | 0x15 => .normm t (.f d a)
  | 0x18 => .log2 t d a
  | 0x19 => .exp2 t d a
  | 0x1A => .recip t d a
  | _ => .rsqrt t d a

/-- A legal full instruction of major 0x33, format AC (Table 4-10). -/
def acInstr (t : TineNo) (w : Nat) : Instr :=
  let g := grAt w 27
  let n := arAt w 25
  let m := arAt w 23
  let k := BitVec.ofNat 8 (nf w 15 8)
  match nf w 0 8 with
  | 0x01 => .clra t (.f n)
  | 0x02 => .lda t n g k
  | 0x03 => .adda t n m
  | 0x04 => .suba t n m
  | 0x05 => .nega t (.f n)
  | 0x06 => .absa t (.f n)
  | 0x07 => .asha t n k
  | _ => .norma t g n

/-- The LS format (Table 4-5). -/
def lsAt (w : Nat) : LS :=
  { gt := grAt w 27, ga := grAt w 22, mode := BitVec.ofNat 3 (nf w 19 3), modr := Fin.ofNat 8 (nf w 16 3),
    off := BitVec.ofNat 16 w }

/-- A lane of the MD format with its operation at bit `lo`. -/
def laneAt (w lo : Nat) : Lane := { op := macOpAt w lo, an := arAt w (lo - 2), gx := grAt w (lo - 7), gy := grAt w (lo - 12) }

/-- A pair of the MQ format with its operation at bit `lo`. -/
def pairAt (w lo : Nat) : Pair := { op := macOpAt w lo, an := arAt w (lo - 2) }

/-- A legal full instruction (Tables 4-5 and 4-9 to 4-12). -/
def fullInstr (t : TineNo) (w : Nat) : Instr :=
  let d := grAt w 27
  let a := grAt w 22
  let i := BitVec.ofNat 22 w
  let fp := BitVec.ofNat 2 (nf w 30 2)
  match nf w 32 6 with
  | 0x00 => r3Instr t w
  | 0x01 => .addi t (.f d a i)
  | 0x02 => .movi t (.f d a i)
  | 0x03 => .movhi t d i
  | 0x04 => .cmpi t (.f a i)
  | 0x05 => .andi t d a i
  | 0x06 => .ori t d a i
  | 0x07 => .xori t d a i
  | 0x08 => .ash t (.fi d a (BitVec.ofNat 7 w))
  | 0x09 => .shl t d a (.imm (BitVec.ofNat 6 w))
  | 0x0A => .shr t d a (.imm (BitVec.ofNat 6 w))
  | 0x0C => .crc8 t d a (grAt w 17)
  | 0x0D => .crcw t d a (grAt w 17)
  | 0x0E => .par t d a (BitVec.ofNat 6 (nf w 16 6))
  | 0x0F => .brev t d a (BitVec.ofNat 6 (nf w 16 6))
  | 0x10 => .ld t (.f (lsAt w))
  | 0x11 => .st t (.f (lsAt w))
  | 0x12 => .ldh t (lsAt w)
  | 0x13 => .sth t (lsAt w)
  | 0x14 => .ldd t (lsAt w)
  | 0x15 => .std t (lsAt w)
  | 0x16 => .swap t (lsAt w)
  | 0x17 => .sva t (lsAt w)
  | 0x18 => .rsa t (lsAt w)
  | 0x19 => .hpop t (.f d a)
  | 0x1A => .hpush t (.f d a)
  | 0x20 => .brc t (.f (BitVec.ofNat 4 (nf w 28 4)) (BitVec.ofNat 14 w))
  | 0x21 => .call t (.f (grAt w 23) (BitVec.ofNat 14 w))
  | 0x22 => .loop t (BitVec.ofNat 16 (nf w 16 16)) (BitVec.ofNat 13 w)
  | 0x23 => .loopr t d (BitVec.ofNat 13 w)
  | 0x24 => .repr t d (nf w 26 1 = 1)
  | 0x28 => .mfc t d (BitVec.ofNat 10 w)
  | 0x29 => .mtc t d (BitVec.ofNat 10 w)
  | 0x30 => .macDual t fp (laneAt w 28) (laneAt w 14)
  | 0x31 => .macQuad t fp (pairAt w 28) (pairAt w 24) (grAt w 17) (grAt w 12) (grAt w 7) (grAt w 2)
  | 0x32 =>
    let n := arAt w 25
    let xs := BitVec.ofNat 6 (nf w 19 6)
    let code := BitVec.ofNat 3 (nf w 16 3)
    match nf w 14 2 with
    | 0 => .wba t d n xs code
    | 1 => .wbaH t d n xs code
    | _ => .wbaD t d n xs code
  | 0x33 => acInstr t w
  | _ => .macm t (macOpAt w 28) fp (arAt w 26) (grAt w 21) (grAt w 13) (Fin.ofNat 8 (nf w 18 3)) (Fin.ofNat 8 (nf w 10 3))

/-- The instruction at a half of a fetch word: none where the half is illegal (R87, R89). -/
def halfInstr (t : TineNo) (w : Word) (hi : Bool) : Option Instr :=
  if !halfLegal w hi then none
  else if isFull w then some (fullInstr t w.toNat)
  else some (compactInstr t (if hi then getF w 20 20 else getF w 0 20))

/-- The instruction that a tine's fetch at its PC gives (R86, R87). -/
def pcInstr (s : State) (t : TineNo) : Option Instr :=
  halfInstr t (fetchAt s t (tineAt s t).pc) ((tineAt s t).pc.getLsbD 0)

end Sys2Proof.Machine
end

