-- ==== Sys2Proof/WellFormed.lean ====
section
/-! DEFINITION. Which commands are well formed: operands whose types are wider than what the spec lets a command carry are
within the spec's ranges. Every other constructor's operands are bounded by their types. -/

namespace Sys2Proof

/-- A list has `lo` to `hi` elements. -/
def lenIn {α : Type} (lo hi : Nat) (l : List α) : Bool := decide (lo ≤ l.length) && decide (l.length ≤ hi)

/-- Every number of a list is below a bound. -/
def below (n : Nat) (l : List Nat) : Bool := l.all fun x => decide (x < n)

/-- Errors met in a half-trug are of its 32 stored symbols, positions 4 to 35, of eight bits (R187, R188). -/
def Upset.wf : Upset → Bool
  | .sym errs => errs.all fun e => decide (4 ≤ e.1) && decide (e.1 < 36) && decide (e.2 < 256)
  | _ => true

/-- A command is well formed: a compact MAC names an operation (R98); a frame, sample or transaction is as long as its rule
says (R274, R279, R291, R322, R323, R347, R354); OTP data fills at most the longest field (R423). -/
def Instr.wf (i : Instr) : Bool :=
  match i with
  | .mboxPut _ _ _ => true
  | .mboxWithheldWriteAccept _ _ => true
  | .mboxTake _ _ => true
  | .clrDrops _ _ => true
  | .blockBoundary => true
  | .devBlockCfgWrite _ _ => true
  | .registerWrite _ _ _ _ => true
  | .counterClear _ _ _ => true
  | .mov _ _ => true
  | .movi _ _ => true
  | .movhi _ _ _ => true
  | .add _ _ => true
  | .sub _ _ => true
  | .addi _ _ => true
  | .adds _ _ _ _ => true
  | .subs _ _ _ _ => true
  | .and _ _ => true
  | .or _ _ => true
  | .xor _ _ => true
  | .andn _ _ _ _ => true
  | .andi _ _ _ _ => true
  | .ori _ _ _ _ => true
  | .xori _ _ _ _ => true
  | .shl _ _ _ _ => true
  | .shr _ _ _ _ => true
  | .ash _ _ => true
  | .rot _ _ _ _ => true
  | .min _ _ _ _ => true
  | .max _ _ _ _ => true
  | .cmp _ _ => true
  | .cmpi _ _ => true
  | .neg _ _ => true
  | .not _ _ => true
  | .abs _ _ => true
  | .norm _ _ => true
  | .normm _ _ => true
  | .log2 _ _ _ => true
  | .exp2 _ _ _ => true
  | .recip _ _ _ => true
  | .rsqrt _ _ _ => true
  | .crc8 _ _ _ _ => true
  | .crcw _ _ _ _ => true
  | .par _ _ _ _ => true
  | .brev _ _ _ _ => true
  | .macDual _ _ _ _ => true
  | .macQuad _ _ _ _ _ _ _ _ => true
  | .macC _ op _ _ _ _ => decide (op ≠ .absent)
  | .macm _ _ _ _ _ _ _ _ => true
  | .clra _ _ => true
  | .nega _ _ => true
  | .absa _ _ => true
  | .lda _ _ _ _ => true
  | .adda _ _ _ => true
  | .suba _ _ _ => true
  | .asha _ _ _ => true
  | .norma _ _ _ => true
  | .wba _ _ _ _ _ => true
  | .wbaH _ _ _ _ _ => true
  | .wbaD _ _ _ _ _ => true
  | .ld _ _ => true
  | .st _ _ => true
  | .ldstC _ _ _ _ _ => true
  | .ldh _ _ => true
  | .sth _ _ => true
  | .ldd _ _ => true
  | .std _ _ => true
  | .swap _ _ => true
  | .sva _ _ => true
  | .rsa _ _ => true
  | .loadDataReturn _ r => r.ups.all Upset.wf
  | .hpop _ _ => true
  | .hpush _ _ => true
  | .hpushAccept _ => true
  | .fence _ => true
  | .storeBufferDrain _ up => up.wf
  | .br _ _ => true
  | .brc _ _ => true
  | .jmp _ _ => true
  | .call _ _ => true
  | .nop _ => true
  | .wait _ => true
  | .cloche _ _ => true
  | .sysc _ _ => true
  | .retx _ up upF upD _ => up.wf && upF.wf && upD.wf
  | .bkpt _ => true
  | .mfc _ _ _ => true
  | .mtc _ _ _ => true
  | .rep _ _ => true
  | .repu _ _ => true
  | .repr _ _ _ => true
  | .loop _ _ _ => true
  | .loopr _ _ _ => true
  | .endl _ => true
  | .faultEntry _ up upF upD => up.wf && upF.wf && upD.wf
  | .nursLockTineClr _ _ => true
  | .sieveArrival _ _ => true
  | .handlerEntry _ up upF upD _ => up.wf && upF.wf && upD.wf
  | .sieveEoi _ _ _ => true
  | .sieveClrpend _ _ _ => true
  | .sieveRaise _ _ _ => true
  | .sieveCfgWrite _ _ _ _ => true
  | .holdOffEnd _ _ => true
  | .sieveTmrCmpWrite _ _ _ => true
  | .timerCompare _ => true
  | .ditherStateWrite _ _ _ _ => true
  | .clrE _ _ _ _ => true
  | .interpolatorCalibration _ _ _ _ _ => true
  | .tineXcfgWrite _ _ _ => true
  | .xinv _ _ _ _ => true
  | .tinv _ _ _ => true
  | .shoot _ _ _ => true
  | .shootComplete => true
  | .weederStep _ ups => ups.all Upset.wf
  | .dramRefreshPoll _ => true
  | .dramRetrain _ => true
  | .cmdFetch _ up0 up1 => up0.wf && up1.wf
  | .cmdNop _ => true
  | .cmdMove _ ups => ups.all Upset.wf
  | .moveElement _ up wup => up.wf && wup.wf
  | .accessReplay _ _ ups => ups.all Upset.wf
  | .trellisWriteAck _ _ up => up.wf
  | .cmdLoop _ => true
  | .cmdEndloop _ => true
  | .cmdWait _ => true
  | .waitComplete _ => true
  | .waitTimeout _ => true
  | .cmdSignalHopper _ => true
  | .signalPushAccept _ => true
  | .cmdSignalSieve _ => true
  | .cmdSignalChannel _ => true
  | .cmdSkip _ up => up.wf
  | .cmdSuspend _ => true
  | .cmdResume _ => true
  | .cmdPost _ => true
  | .postResume _ => true
  | .cmdChain _ => true
  | .cmdPortop _ => true
  | .trchStart _ _ => true
  | .trchStop _ _ => true
  | .trchSuspend _ _ => true
  | .trchResume _ _ => true
  | .clrsig _ _ => true
  | .stopCommit _ => true
  | .drainComplete _ => true
  | .cringPiWrite _ _ _ => true
  | .sringCiWrite _ _ _ => true
  | .trchOwnWrite _ _ _ => true
  | .trelJournalRead _ => true
  | .hopPush _ _ _ => true
  | .hopCfgWrite _ _ _ => true
  | .hopOwnWrite _ _ _ => true
  | .hopTailNotice _ => true
  | .vioMeasure _ _ => true
  | .rowSupplyFail _ => true
  | .cellCfgWrite _ _ _ _ => true
  | .cellEnable _ _ _ => true
  | .cellDisable _ _ _ => true
  | .cellFifoWrite _ _ _ _ => true
  | .portopCellEnable _ _ => true
  | .portopCellDisable _ _ => true
  | .portopCellFlush _ _ => true
  | .gpioSet _ _ _ _ => true
  | .portopCellThresh _ _ _ _ => true
  | .portopEngineGo _ _ _ => true
  | .rowcCgWrite _ _ _ _ => true
  | .clkerr _ _ => true
  | .laneInFrame _ _ bits => lenIn 17 1025 bits
  | .laneOutFrame _ _ => true
  | .pdmInSample _ _ streams => lenIn 1 2 streams
  | .pdmOutSample _ _ => true
  | .gpioEdge _ _ _ => true
  | .seGo _ _ _ _ => true
  | .seTransactionEnd _ _ _ _ rx => lenIn 0 32 rx
  | .hoeEnable _ _ _ => true
  | .hoeStart _ _ => true
  | .hoeDisable _ _ _ => true
  | .hoeCfgWrite _ _ _ _ _ => true
  | .carrierPeriod _ _ _ _ _ => true
  | .railCode _ _ => true
  | .senseStreamLoss _ => true
  | .fastDetector _ _ => true
  | .hoeTrip _ _ _ => true
  | .hoeRearm _ _ _ => true
  | .hoeFlush _ _ _ => true
  | .clrRetry _ _ _ => true
  | .shearAutoRetry _ _ => true
  | .portopHoeEnable _ _ => true
  | .portopHoeDisable _ _ => true
  | .portopHoeFlush _ _ => true
  | .portopHoeRearm _ _ => true
  | .portopHoeThresh _ _ _ => true
  | .inject _ _ _ => true
  | .railCfgWrite _ _ _ => true
  | .pcieBar0Access _ _ => true
  | .heldWriteExpiry => true
  | .pcieBar2Access _ _ up => up.wf
  | .qspiRead _ n ups => decide (1 ≤ n) && ups.all Upset.wf
  | .qspiWrite _ ws cut ups => (cut || lenIn 1 0x400000000 ws) && ups.all Upset.wf
  | .qspiBadOpcode => true
  | .hostFrameRead _ n ups => decide (1 ≤ n) && decide (n ≤ 256) && ups.all Upset.wf
  | .hostFrameWrite _ ws ups => lenIn 1 256 ws && ups.all Upset.wf
  | .hostSqdb _ _ _ => true
  | .hostCqdb _ _ _ => true
  | .sqFetch => true
  | .handover _ => true
  | .createSq => true
  | .deleteSq => true
  | .createCq => true
  | .deleteCq => true
  | .hostCpl _ _ _ _ => true
  | .dataWriteBack _ _ => true
  | .recordPublish _ => true
  | .vectorResend _ => true
  | .hostDisable _ => true
  | .hostEnable _ => true
  | .ethFrameReceive _ len _ _ _ => decide (1 ≤ len)
  | .gptpMessage _ _ _ => true
  | .listenerFrame _ _ fmt ch nsr _ _ _ raw _ => decide (fmt.code < 256) && decide (fmt.depth < 256) && decide (ch < 1024) && decide (nsr < 16) && below (2 ^ 32) raw
  | .listenerPresent _ _ _ => true
  | .talkerFrame _ _ _ => true
  | .macTransmit _ _ _ _ => true
  | .gclCycleStart _ => true
  | .gclSwap _ _ => true
  | .crfTalkerPdu _ ev => below (2 ^ 64) [ev.t0, ev.t1, ev.t2, ev.t3, ev.t4]
  | .ethPtpCfgWrite _ _ _ => true
  | .ethPtpTimeRead _ _ _ => true
  | .strmCfgWrite _ _ _ _ _ => true
  | .ethQavWrite _ _ _ _ => true
  | .apllRunWrite _ _ => true
  | .apllSrcChange _ _ _ => true
  | .pllLock _ => true
  | .pllLoss _ => true
  | .cellReceive _ ws => lenIn 8 8 ws
  | .cellResend _ _ => true
  | .linkRetrain _ _ => true
  | .chainWrite _ ups => ups.all Upset.wf
  | .chainRead _ ups => ups.all Upset.wf
  | .chainRdata => true
  | .chainEvent => true
  | .enum => true
  | .enumEnd => true
  | .enumDone => true
  | .portUnconnected _ => true
  | .routeCell => true
  | .chainRouteWrite _ _ => true
  | .linkLost => true
  | .linkDown _ => true
  | .bcast _ up => up.wf
  | .chainBcastDataWrite _ _ => true
  | .reenum _ => true
  | .wakeUp _ => true
  | .wakeDn _ => true
  | .chainWakePattern _ => true
  | .wakeFrame _ _ => true
  | .phyInterruptWake _ => true
  | .bootRomReady _ => true
  | .bootRxlenWrite _ _ => true
  | .seedLoad _ _ => true
  | .graft _ _ _ => true
  | .bootGraftGo _ _ => true
  | .pwrStop _ => true
  | .domainDrainComplete => true
  | .domainDrainTimeout _ => true
  | .domainSwitchOpen => true
  | .pwrRun _ => true
  | .pwrRunreq _ _ => true
  | .domainRestored => true
  | .deviceStop => true
  | .deviceWake _ => true
  | .pwrVolt _ _ _ => true
  | .voltStep _ => true
  | .vreadyRise => true
  | .settleDone => true
  | .voltFail => true
  | .vdrop => true
  | .pwrStatus => true
  | .disciplineLoss => true
  | .heartbeatStall _ => true
  | .nursRetire _ _ => true
  | .reinstate _ _ => true
  | .reinstateTestDone _ => true
  | .tineReplacement => true
  | .tineCkptGo _ _ _ => true
  | .ckptCommit _ => true
  | .secChallenge _ _ => true
  | .nonceExpiry _ => true
  | .secRespond _ _ => true
  | .secClose _ => true
  | .secLifecycle _ => true
  | .secSvn _ => true
  | .secZeroize => true
  | .secOtpWrite _ data => lenIn 0 32 data
  | .secCtrlZero _ => true
  | .tapReset => true
  | .bypass => true
  | .idcode => true
  | .samplePreload => true
  | .extest => true
  | .clamp => true
  | .highz => true
  | .dap => true
  | .debugHalt _ _ => true
  | .debugResume _ _ => true
  | .debugStep _ _ => true
  | .debugMemoryAccess _ _ _ up => up.wf
  | .debugRegisterAccess _ _ _ => true
  | .gaugeCfgWrite _ _ _ => true
  | .gaugeWindowClose _ => true
  | .gaugeSnap _ _ => true
  | .snapshotClose => true
  | .gaugeSnapshot _ _ => true
  | .gaugeRecordRead _ => true
  | .gaugeFrecRead _ => true
  | .delayLineCalibration _ => true
  | .lineCal _ _ _ => true
  | .lineDcr _ _ _ _ _ => true
  | .lineImp _ _ _ _ _ _ _ => true
  | .lineClassify _ _ _ _ _ => true
  | .faultRead _ _ _ => true
  | .faultClear _ => true
  | .pageCtrlWrite _ _ _ => true
  | .pageLock _ _ => true
  | .pageSoftReset _ _ => true
  | .pageIrqClr _ _ _ => true
  | .pageIrqEnWrite _ _ _ => true
  | .pageOwnerWrite _ _ _ => true
  | .deviceReset => true
  | .aonReset => true
  | .resetRelease _ => true
  | .vcoreUndervoltage => true
  | .vcoreSupervisorRelease => true
  | .gaugeTickSample _ _ => true
  | .disciplineLock => true
  | .ethLinkUp _ => true
  | .ethLinkDown _ => true
  | .syncInterval _ _ => true
  | .chainPortTrained _ _ => true
  | .pcieLinkUp _ _ => true
  | .pcieLinkDown => true
  | .pcieConfigWrite _ => true
  | .hostReadCompletion _ _ _ => true
  | .completionTimeout _ => true
  | .gclEntryStart _ => true
  | .cellSend _ => true
  | .perBankRefresh => true
  | .lineTestPhaseEnd _ _ => true
  | .otpWriteComplete => true

end Sys2Proof
end

