-- ==== Sys2Proof/Tests/Slice0.lean ====
section
/-! SUPPORT. Tests: ill-formed commands that the check refuses, for every statement with hypotheses a state and operands
that meet them together, and single steps against the spec's own numbers. -/

set_option Elab.async false

namespace Sys2Proof.Tests

open Sys2Proof Sys2Proof.Machine

/-! ## Small states -/

/-- The device after reset with some registers (page, offset, value) stored. -/
def st (ws : List (Nat × Nat × Nat)) : State :=
  { State.reset with
    released := true
    regs := ws.foldl (fun m e => Tbl.set regReset m (regKey e.1 e.2.1) (wd e.2.2)) [] }

/-- Tine `t` of a state made `x`. -/
def wT (t : Nat) (x : Tine) (s : State) : State := setTine t x s

/-- A tine that runs. -/
def go : Tine := { Tine.reset with halt := .no }

/-- A running tine with G registers. -/
def goG (g : List (Nat × Nat)) : Tine := { go with g := g.map fun e => (e.1, wd e.2) }

/-- Memory words put in place. -/
def wM (ws : List (Nat × Nat)) (s : State) : State := ws.foldl (fun s e => memPut e.1 (wd e.2) s) s

/-- Tine 0 runs, Open and supervisor, at level 0. -/
def s0 : State := wT 0 go (st [])

/-- Hopper `h` with `n` slots bound to logical tine 0, holding `items`. -/
def sHop (h n : Nat) (items : List Word) (s : State) : State :=
  setHop h { hopAt s h with items := items } (setReg (pgHop h) (hopBase h) (wd n) s)

/-! ## What the check refuses -/

theorem test_wf_mac_absent : Instr.wf (.macC 0 .absent 0 0 0 false) = false := by decide
theorem test_wf_mac_present : Instr.wf (.macC 0 .mpy 0 0 0 false) = true := by decide

/-- A frame of the host to MAC 0. -/
def hf : HFrame := { mac := 0, dst := 0, src := 0, boot := false, seq := 0, addr := 0 }

theorem test_wf_lane_frame :
    Instr.wf (.laneInFrame 0 0 (List.replicate 16 true)) = false ∧ Instr.wf (.laneInFrame 0 0 (List.replicate 1026 true)) = false ∧
    Instr.wf (.laneInFrame 0 0 (List.replicate 17 true)) = true ∧ Instr.wf (.laneInFrame 0 0 (List.replicate 1025 false)) = true := by
  decide +kernel
theorem test_wf_pdm : Instr.wf (.pdmInSample 0 0 []) = false ∧ Instr.wf (.pdmInSample 0 0 [[], [], []]) = false ∧
    Instr.wf (.pdmInSample 0 0 [[true], []]) = true := by decide
/-- Errors in a symbol that is not stored, beyond the codeword, and of more than eight bits; the first and the last stored symbol. -/
theorem test_wf_symbols :
    (∀ e ∈ [(3, 1), (36, 1), (4, 256)], Instr.wf (.storeBufferDrain 0 (.sym [e])) = false) ∧
    Instr.wf (.weederStep 0 [.ok, .sym [(4, 1), (35, 255)]]) = true := by decide
theorem test_wf_se : Instr.wf (.seTransactionEnd 0 0 0 0 (List.replicate 33 0)) = false := by decide
theorem test_wf_qspi :
    Instr.wf (.qspiRead 0 0 []) = false ∧ Instr.wf (.qspiWrite 0 [] false []) = false ∧
    Instr.wf (.qspiWrite 0 [] true []) = true := by decide

theorem test_wf_host_frame :
    Instr.wf (.hostFrameRead hf 0 []) = false ∧ Instr.wf (.hostFrameRead hf 257 []) = false ∧
    Instr.wf (.hostFrameRead hf 256 []) = true ∧ Instr.wf (.hostFrameWrite hf [] []) = false ∧
    Instr.wf (.hostFrameWrite hf (List.replicate 257 0) []) = false := by decide +kernel
theorem test_wf_eth_frame : Instr.wf (.ethFrameReceive 0 0 true 0 0) = false := by decide
theorem test_wf_listener :
    Instr.wf (.listenerFrame 0 0 ⟨256, 16⟩ 1 0 0 true 0 [] 0) = false ∧ Instr.wf (.listenerFrame 0 0 ⟨2, 256⟩ 1 0 0 true 0 [] 0) = false ∧
    Instr.wf (.listenerFrame 0 0 ⟨2, 16⟩ 1024 0 0 true 0 [] 0) = false ∧
    Instr.wf (.listenerFrame 0 0 ⟨2, 16⟩ 1 16 0 true 0 [] 0) = false ∧
    Instr.wf (.listenerFrame 0 0 ⟨2, 16⟩ 1 0 0 true 0 [2 ^ 32] 0) = false ∧
    Instr.wf (.listenerFrame 0 0 ⟨255, 255⟩ 1023 15 0 true 0 [2 ^ 32 - 1] 0) = true := by decide
theorem test_wf_load_return : Instr.wf (.loadDataReturn 0 { tag := 0, ups := [.sym [(36, 1)]] }) = false := by decide
theorem test_wf_crf :
    Instr.wf (.crfTalkerPdu 0 { t0 := 0, t1 := 0, t2 := 0, t3 := 0, t4 := 2 ^ 64, sub := 0 }) = false := by decide
theorem test_wf_cell : Instr.wf (.cellReceive 0 [0, 0, 0, 0, 0, 0, 0]) = false := by decide
theorem test_wf_otp : Instr.wf (.secOtpWrite 0 (List.replicate 33 0)) = false := by decide

/-! ## Witnesses: tine instructions -/

/-- Tine 0 with G1 and G2. -/
def s12 (a b : Nat) : State := wT 0 (goG [(1, a), (2, b)]) (st [])

theorem wit_StepRunsFront : State.reset.pending = [] := by decide

theorem wit_AluTwoRegister : Ready s0 0 ∧ Ready (s12 1 2) 0 ∧ Ready (wT 143 go (st [])) 143 := by decide

theorem wit_AluImmediateAndMove :
    Ready (s12 1 2) 0 ∧
    -- NORM at its ends: all bits equal, and sign bit alone
    sw (getG (s12 (2 ^ 40 - 1) 0) 0 1) = -1 ∧ sw (getG (s12 (2 ^ 39) 0) 0 1) = -2 ^ 39 ∧
    ashForm (s12 (2 ^ 39) 39) 0 (.reg 3 1 2) = some (3, wd (2 ^ 39), 39, 2) ∧
    ashForm (s12 5 0) 0 (.ci 1 0x3FF) = some (1, 5, -1, 1) := by decide

theorem wit_ComparesSetFlagsOnly : Ready (s12 1 2) 0 := by decide

theorem wit_SignatureInstructions :
    Ready (s12 5 (2 ^ 38)) 0 ∧
    -- a defined polynomial word, bit-reversed; each of the two bits that must be 0
    (bit (getG (s12 5 (2 ^ 38)) 0 2) 37 = false ∧ bit (getG (s12 5 (2 ^ 38)) 0 2) 39 = false) ∧
    Ready (s12 5 (2 ^ 37)) 0 ∧ bit (getG (s12 5 (2 ^ 37)) 0 2) 37 = true ∧
    Ready (s12 5 (2 ^ 39)) 0 ∧ bit (getG (s12 5 (2 ^ 39)) 0 2) 39 = true ∧
    (1 ≤ (40 : BitVec 6).toNat ∧ (40 : BitVec 6).toNat ≤ 40) := by decide

theorem wit_TranscendentalInstructions :
    Ready (s12 (2 ^ 37 - 1) (2 ^ 37)) 0 ∧ sw (getG (s12 (2 ^ 37 - 1) 0) 0 1) < 2 ^ 37 ∧ sw (getG (s12 (2 ^ 38) 0) 0 1) = 2 ^ 38 ∧
    2 ^ 38 ≤ sw (getG (s12 (2 ^ 38) 0) 0 1) ∧ (0 ≤ sw (getG (s12 0 0) 0 1) ∧ sw (getG (s12 (2 ^ 38 - 1) 0) 0 1) < 2 ^ 38) ∧
    (-(2 ^ 38) < sw (getG (s12 (2 ^ 40 - 1) 0) 0 1) ∧ sw (getG (s12 (2 ^ 40 - 1) 0) 0 1) < 0) ∧
    sw (getG (s12 (2 ^ 40 - 2 ^ 38) 0) 0 1) ≤ -(2 ^ 38) := by decide

theorem wit_MacAccumulates :
    Ready (s12 1 2) 0 ∧ laneOk { op := .mac, an := 0, gx := 1, gy := 2 } = true ∧
    laneOk { op := .absent, an := 0, gx := 0, gy := 0 } = true ∧
    pairOk { op := .msu, an := 3 } 1 2 = true ∧ pairOk { op := .absent, an := 0 } 0 0 = true ∧ MacOp.mpy ≠ .absent := by decide

theorem wit_AccumulatorOperations :
    Ready s0 0 ∧ (56 : BitVec 8).toNat ≤ 56 ∧ (0 ≤ (95 : BitVec 8).toInt ∧ (95 : BitVec 8).toInt ≤ 95) ∧
    ((0xA0 : BitVec 8).toInt < 0 ∧ -96 ≤ (0xA0 : BitVec 8).toInt) := by decide

theorem wit_WriteBackRounds :
    Ready s0 0 ∧ (30 : Gr).val % 2 = 0 ∧
    -- each condition under which WBA_D is illegal
    (31 : Gr).val % 2 = 1 ∧ (1 : BitVec 6) ≠ 0 ∧ (1 : BitVec 3) ≠ 0 ∧
    -- no shift, and the base modes with and without draws
    (0 : BitVec 6) = 0 ∧ (∀ m ∈ [0, 4, 5], regF (setReg (pgTine 0) (oRQ 3) (wd (2 ^ 2 * m)) s0) (pgTine 0) (oRQ 3) 2 3 = m) := by
  decide

/-- Tine 0 Walled, with translation off, and words of Shed in place. -/
def sW (g ws : List (Nat × Nat)) : State := wM ws (wT 0 (goG g) (st [(pgTine 0, oTST, 2 ^ 29)]))

/-- Gt = G2, Ga = G1, mode 0. -/
def ls0 : LS := { gt := 2, ga := 1, mode := 0, modr := 0, off := 0 }

/-- G1 four words below the end of the unreserved part of Shed, G3 the upper half of the word G1 names, G4 in the tray of
tine 5. -/
def sShed : State := sW [(1, 0x041BFFFC), (2, 5), (3, 2 * 0x041BFFFC + 1), (4, 0x0105FFFF)] [(0x041BFFFC, 7)]

theorem plain_of_shed (s : State) (pa : Nat) (b : Bool)
    (h : regB s (pgTine 0) oXCFG 0 = false ∧ tW s 0 = true ∧ addrSub s { store := true } pa = 0 ∧ regionOf pa = .shed b ∧
      ueAt s pa = false ∧ paHeld s (.tine 0) pa = false) : PlainWord s 0 pa pa :=
  ⟨.inl ⟨h.1, h.2.1, rfl⟩, h.2.2.1, .inr ⟨b, h.2.2.2.1⟩, h.2.2.2.2.1, h.2.2.2.2.2⟩

/-- The word G4 of `sShed` names, in the tray of tine 5. -/
theorem plain_of_tray (s : State)
    (h : regB s (pgTine 0) oXCFG 0 = false ∧ tW s 0 = true ∧ addrSub s { store := true } (wordVa (getG s 0 4)) = 0 ∧
      regionOf (wordVa (getG s 0 4)) = .dtray 5 0x7FFF ∧ ueAt s (wordVa (getG s 0 4)) = false ∧
      paHeld s (.tine 0) (wordVa (getG s 0 4)) = false) : PlainWord s 0 (wordVa (getG s 0 4)) (wordVa (getG s 0 4)) :=
  ⟨.inl ⟨h.1, h.2.1, rfl⟩, h.2.2.1, .inl ⟨5, 0x7FFF, h.2.2.2.1⟩, h.2.2.2.2.1, h.2.2.2.2.2⟩

/-- A leaf of the page at Shed 0x04000000 for the virtual page 5, which grants every mode a read and a write. -/
def leaf5 : XLeaf := { large := false, vpn := 5, ent := wd (1 + 2 ^ 3 + 2 ^ 4 + 2 ^ 5 + 2 ^ 10 * 0x4000) }

/-- Tine 0 Open with translation on, its leaf cached, G1 at the page's last word and G3 at its first. -/
def sX : State :=
  wT 0 { goG [(1, 0x5FFF), (2, 5), (3, 0x5000)] with xcache := [leaf5] } (st [(pgTine 0, oXCFG, 1), (pgTine 0, oTST, 0)])

theorem plain_translated (va : Nat)
    (h : va / 2 ^ 12 = 5 ∧ addrSub sX { store := true } (leafPa leaf5 0 va) = 0 ∧ regionOf (leafPa leaf5 0 va) = .shed false ∧
      ueAt sX (leafPa leaf5 0 va) = false ∧ paHeld sX (.tine 0) (leafPa leaf5 0 va) = false) :
    PlainWord sX 0 va (leafPa leaf5 0 va) := by
  have hc : leafCovers leaf5 va = true := decide_eq_true (by rw [h.1]; rfl)
  refine ⟨.inr ⟨by decide, leaf5, ?_, rfl, fun a => ?_⟩, h.2.1, .inr ⟨false, h.2.2.1⟩, h.2.2.2.1, h.2.2.2.2⟩
  · show List.find? (leafCovers · va) [leaf5] = some leaf5
    simp only [List.find?_cons, hc]
  · obtain ⟨st, sw, h, sp⟩ := a
    revert h sp st sw
    decide

theorem noChain (s : State) (t : TineNo) (h : s.chainTags = [] ∧ s.chainBack = []) : NoChainRead s t := by
  constructor <;> simp [h]

theorem wit_LoadsReadMemory :
    Ready sShed 0 ∧ (tineAt sShed 0).sb = [] ∧ NoChainRead sShed 0 ∧ ldstOk (.f ls0) = true ∧ lsOk { ls0 with ga := 3 } = true ∧
    dwordOk { ls0 with gt := 4 } true = true ∧ dwordOk ls0 true = true ∧
    -- a pair at an even and at an odd address, and in the Open world with translation on
    (∀ o ∈ [(0 : BitVec 16), 1], let l := { ls0 with off := o }
      wordVa (lsEa sShed 0 l).1 % 2 = o.toNat ∧ dwordOk l true = true ∧
      PlainWord sShed 0 (wordVa (lsEa sShed 0 l).1) (wordVa (lsEa sShed 0 l).1) ∧
      PlainWord sShed 0 (vaPlus (wordVa (lsEa sShed 0 l).1) 1) (vaPlus (wordVa (lsEa sShed 0 l).1) 1)) ∧
    PlainWord sShed 0 (wordVa (getG sShed 0 1)) (wordVa (getG sShed 0 1)) ∧
    PlainWord sShed 0 (wordVa (getG sShed 0 4)) (wordVa (getG sShed 0 4)) ∧
    PlainWord sShed 0 (halfVa (lsEa sShed 0 { ls0 with ga := 3 }).1) (halfVa (lsEa sShed 0 { ls0 with ga := 3 }).1) ∧
    Ready sX 0 ∧ (tineAt sX 0).sb = [] ∧ NoChainRead sX 0 ∧ tW sX 0 = false ∧
    PlainWord sX 0 (wordVa (getG sX 0 1)) 0x04000FFF ∧
    PlainWord sX 0 (wordVa (lsEa sX 0 { ls0 with ga := 3 }).1) 0x04000000 ∧
    PlainWord sX 0 (vaPlus (wordVa (lsEa sX 0 { ls0 with ga := 3 }).1) 1) 0x04000001 := by
  refine ⟨by decide, by decide, noChain _ _ (by decide), by decide, by decide, by decide, by decide, fun o h => ?_, ?_,
    plain_of_tray _ (by decide), ?_, by decide, by decide, noChain _ _ (by decide), by decide, ?_, ?_, ?_⟩
  · simp only [List.mem_cons, List.not_mem_nil, or_false] at h
    rcases h with rfl | rfl <;>
      exact ⟨by decide, by decide, plain_of_shed _ _ false (by decide), plain_of_shed _ _ false (by decide)⟩
  · exact plain_of_shed _ _ false (by decide)
  · exact plain_of_shed _ _ false (by decide)
  · exact plain_translated 0x5FFF (by decide)
  · exact plain_translated 0x5000 (by decide)
  · exact plain_translated 0x5001 (by decide)

theorem wit_AccumulatorAndExchangeLoads :
    Ready sShed 0 ∧ NoChainRead sShed 0 ∧ imageOk { ls0 with gt := 3 } = true ∧
    (∀ k, k < 3 → PlainWord sShed 0 (vaPlus (wordVa (lsEa sShed 0 { ls0 with gt := 3 }).1) k)
      (vaPlus (wordVa (lsEa sShed 0 { ls0 with gt := 3 }).1) k)) ∧
    MacOp.msu ≠ .absent ∧ (1 : Gr) ≠ 4 ∧ PlainWord sShed 0 (wordVa (getG sShed 0 1)) (wordVa (getG sShed 0 1)) ∧
    PlainWord sShed 0 (wordVa (getG sShed 0 4)) (wordVa (getG sShed 0 4)) ∧ lsOk ls0 = true := by
  refine ⟨by decide, noChain _ _ (by decide), by decide, fun k hk => ?_, by decide, by decide,
    plain_of_shed _ _ false (by decide), plain_of_tray _ (by decide), by decide⟩
  match k, hk with
  | 0, _ => exact plain_of_shed _ _ false (by decide)
  | 1, _ => exact plain_of_shed _ _ false (by decide)
  | 2, _ => exact plain_of_shed _ _ false (by decide)

/-- Seven stores of a word of Shed buffered. -/
def sb7 (n : Nat) (e : StoreEnt) : State := modTine 0 (fun x => { x with sb := List.replicate n e }) sShed
def ent (d : StoreData) (pa : Nat) : StoreEnt := { pa := pa, data := d, walled := true, sup := false }

theorem wit_StoresEnterTheBuffer :
    (let s := sb7 7 (ent (.word 3) 0x04000000)
     Ready s 0 ∧ (tineAt s 0).sb.length < 8 ∧ dwordOk ls0 false = true ∧ wordVa (lsEa s 0 ls0).1 % 2 = 0 ∧
      PlainWord s 0 (wordVa (lsEa s 0 ls0).1) (wordVa (lsEa s 0 ls0).1) ∧
      PlainWord s 0 (vaPlus (wordVa (lsEa s 0 ls0).1) 1) (vaPlus (wordVa (lsEa s 0 ls0).1) 1) ∧
      PlainWord s 0 (halfVa (lsEa s 0 { ls0 with ga := 3 }).1) (halfVa (lsEa s 0 { ls0 with ga := 3 }).1)) ∧
    -- an odd address, with room for two entries
    (let s := sb7 6 (ent (.word 3) 0x04000000); let l := { ls0 with off := 1 }
     Ready s 0 ∧ (tineAt s 0).sb.length < 7 ∧ dwordOk l false = true ∧ wordVa (lsEa s 0 l).1 % 2 = 1 ∧
      PlainWord s 0 (wordVa (lsEa s 0 l).1) (wordVa (lsEa s 0 l).1) ∧
      PlainWord s 0 (vaPlus (wordVa (lsEa s 0 l).1) 1) (vaPlus (wordVa (lsEa s 0 l).1) 1)) ∧
    (let s := sb7 6 (ent (.word 3) 0x04000000)
     Ready s 0 ∧ (tineAt s 0).sb.length < 7 ∧ imageOk { ls0 with gt := 0 } = true ∧
      (∀ k, k < 3 → PlainWord s 0 (vaPlus (wordVa (lsEa s 0 { ls0 with gt := 0 }).1) k)
        (vaPlus (wordVa (lsEa s 0 { ls0 with gt := 0 }).1) k))) := by
  refine ⟨⟨by decide, by decide, by decide, by decide, ?_, ?_, ?_⟩, ⟨by decide, by decide, by decide, by decide, ?_, ?_⟩,
    by decide, by decide, by decide, fun k hk => ?_⟩
  · exact plain_of_shed _ _ false (by decide)
  · exact plain_of_shed _ _ false (by decide)
  · exact plain_of_shed _ _ false (by decide)
  · exact plain_of_shed _ _ false (by decide)
  · exact plain_of_shed _ _ false (by decide)
  · match k, hk with
    | 0, _ => exact plain_of_shed _ _ false (by decide)
    | 1, _ => exact plain_of_shed _ _ false (by decide)
    | 2, _ => exact plain_of_shed _ _ false (by decide)

theorem wit_DrainWritesMemoryInOrder :
    let ok := fun (e : StoreEnt) (s : State) => (tineAt s 0).sb.head? = some e ∧ (tineAt s 0).window = [] ∧
      (tineAt s 0).flight = none ∧ isWithheld s (.store 0) = false ∧ regionOf e.pa = .shed true ∧ ueAt s e.pa = false ∧
      paHeld s (.store 0 e.walled e.sup) e.pa = false ∧ paDormant s e.pa = false
    (let e := ent (.word 3) 0x043FFFFF; ok e (sb7 1 e)) ∧
    -- under FENCE: the last entry, and one before it
    (∀ n ∈ [1, 2], let s := modTine 0 (fun x => { x with flight := some .fence }) (sb7 n (ent (.word 3) 0x043FFFFF))
      (tineAt s 0).flight = some .fence ∧ (tineAt s 0).drain = [] ∧ decide ((tineAt s 0).sb.tail = []) = decide (n = 1)) ∧
    (let e := ent (.dbl 3 4) 0x043FFFFE; ok e (sb7 1 e) ∧ e.pa % 2 = 0 ∧ ueAt (sb7 1 e) (e.pa + 1) = false) ∧
    (let e := ent (.half true 4) 0x04200000; ok e (sb7 2 e) ∧ Ready (sb7 2 e) 0 ∧ (tineAt (sb7 2 e) 0).sb ≠ []) ∧
    Ready s0 0 ∧ (tineAt s0 0).sb = [] := by decide

theorem wit_HopperInstructions :
    let empty := sHop 253 16 [] s0
    let some2 := sHop 253 16 [wd (3 * 2 ^ 36), wd (9 * 2 ^ 36)] s0
    let full := sHop 0 16 (List.replicate 16 0) s0
    let waits := modTine 0 (fun x => { x with flight := some (.hpush 7 253 1) }) some2
    (Ready empty 0 ∧ domSt empty domTrel = .run ∧ hopNo empty 0 (.c 1 253) = 253 ∧ hopFault empty 0 253 true = none ∧
      (hopAt empty 253).back = [] ∧ (hopAt empty 253).items = []) ∧
    (Ready some2 0 ∧ domSt some2 domTrel = .run ∧ hopFault some2 0 253 true = none ∧ (hopAt some2 253).back = [] ∧
      (hopAt some2 253).items ≠ []) ∧
    (hopFault some2 0 253 false = none ∧ 0 < hopSlots some2 253 ∧ getF (getG some2 0 1) 32 4 ≠ 15 ∧ hopFull some2 253 = false) ∧
    (Ready full 0 ∧ hopFault full 0 0 false = none ∧ hopFull full 0 = true ∧ (tineAt full 0).dreq = .none) ∧
    ((tineAt waits 0).drain = [] ∧ (tineAt (modTine 0 (fun x => { x with drain := [7] }) waits) 0).drain ≠ []) ∧
    ((tineAt waits 0).window = [] ∧ (tineAt waits 0).flight = some (.hpush 7 253 1) ∧ hopFault waits 0 253 false = none ∧ domSt waits domTrel = .run ∧
      0 < hopSlots waits 253 ∧ getF (7 : Word) 32 4 ≠ 15 ∧ hopFull waits 253 = false) := by decide

theorem wit_BranchesAndCalls : Ready s0 0 ∧ (14 : BitVec 4) ≠ 15 := by decide

/-- Tine 0 at PC 7 with LSTAT and the end of loop level 1. -/
def sLoop (ls le : Nat) (g : List (Nat × Nat)) : State :=
  wT 0 { goG g with pc := 7 } (st [(pgTine 0, oLSTAT, ls), (pgTine 0, oLE 0, le), (pgTine 0, oLE 3, le)])

theorem wit_LoopsRepeat :
    (let s := sLoop 3 0 [(1, 1)]
     Ready s 0 ∧ getF (reg s (pgTine 0) oLSTAT) 0 3 < 4 ∧ bit (reg s (pgTine 0) oLSTAT) 20 = false ∧
      2 ≤ (2 : BitVec 13).toNat ∧ getG s 0 1 ≠ 0) ∧
    -- ENDL at the first and at the deepest level, its own loop's end at this instruction
    (let s := sLoop 4 7 []
     Ready s 0 ∧ getF (reg s (pgTine 0) oLSTAT) 3 3 < 4 ∧ bit (reg s (pgTine 0) oLSTAT) 20 = false ∧
      regF s (pgTine 0) (oLE 2) 0 14 ≠ 7 ∧ regF s (pgTine 0) (oLE 3) 0 14 = 7) ∧
    (let s := sLoop 1 7 []; Ready s 0 ∧ 1 - 1 ≤ getF (reg s (pgTine 0) oLSTAT) 3 3 ∧ regF s (pgTine 0) (oLE 0) 0 14 = 7) ∧
    -- REP, REPU and REPR before a NOP
    (let s := sLoop 0 0 [(1, 4096), (2, 64)]
     Ready s 0 ∧ nextForbidden s 0 8 = false ∧ nextForbidden s 0 9 = false ∧ (63 : BitVec 12).toNat < 64 ∧
      regF s (pgTine 0) oCLOCHE 0 7 = 0 ∧ (getG s 0 1).toNat = 4096 ∧ (getG s 0 2).toNat = 64) ∧
    -- a repeat in force
    (let s := sLoop (2 ^ 20 + 2 * 2 ^ 6) 0 []
     Ready s 0 ∧ bit (reg s (pgTine 0) oLSTAT) 20 = true ∧ 1 < getF (reg s (pgTine 0) oLSTAT) 6 13) := by decide

theorem wit_SystemInstructions :
    (let s := wT 0 (goG [(1, 5)]) (st [(pgTine 0, oTST, 2 ^ 28)])
     Ready s 0 ∧ regF s (pgTine 0) oCLOCHE 0 7 = 0 ∧ (tineAt s 0).dreq = .none ∧ ctlPriv s 0 0x100 false = false ∧
      ctlPriv s 0 0x041 true = false) ∧
    (let s := wT 0 go (st [(pgTine 0, oTST, 0)])
     Ready s 0 ∧ ctlPriv s 0 0x100 true = true ∧ ctlPriv s 0 0x17F true = true ∧ ctlPriv s 0 0x200 true = true ∧
      ctlPriv s 0 0x2FF true = true ∧ ctlPriv s 0 0x041 true = true ∧ ctlPriv s 0 0x041 false = false ∧
      ctlPriv s 0 0x180 true = false ∧ ctlPriv s 0 0x300 true = false ∧ ctlPriv s 0 0x100 false = true ∧
      ctlPriv s 0 0x2FF false = true ∧ tS s 0 = false) ∧
    0x380 ≤ (0x380 : BitVec 10).toNat ∧
    (let s := { s0 with probeSess := { s0.probeSess with level := 2 } }; Ready s 0 ∧ grantCovers s true 0 = true) ∧
    (let s := { s0 with hostSess := { s0.hostSess with level := 2 } }
     Ready s 0 ∧ grantCovers s true 0 = false ∧ grantCovers s false 0 = true) := by decide

/-! ## Witnesses: faults, handlers, the sieve, pages -/

/-- A fault of tine 0 at handler level `lvl`, its vector valid. -/
def sFault (lvl cause index : Nat) : State :=
  let s := wT 0 { go with fault := some { cause := cause, sub := 0, addr := 0, info := 0, phys := false, after := false, half := false } }
    (st [(pgTine 0, oTST, 2 ^ 28 + 2 ^ 30 * lvl), (pgNurs, 0x010, 1)])
  wM [(vectorPa s 0 false index, 2 ^ 39 + 0x3FFF)] s

theorem wit_FaultsEnterTheFaultLevel :
    let ok := fun s : State => tineGoes (tineAt s 0) = true ∧ (tineAt s 0).locked = false ∧ (tineAt s 0).retired = false ∧
      tineUp s 0 = true ∧ (tineAt s 0).fault.isSome = true ∧ (tineAt s 0).drain = []
    let vec := fun (s : State) (n : Nat) => bit (memGet s (vectorPa s 0 false n)) 39 = true ∧
      ueAt s (vectorPa s 0 false n) = false
    (∀ l ∈ [0, 16], let s := sFault l 0x01 64; ok s ∧ tLvl s 0 = l ∧ vec s 64) ∧
    (let s := sFault 17 0x04 65; ok s ∧ tLvl s 0 = 17 ∧ tW s 0 = false ∧ vec s 65) ∧
    (let s := sFault 18 0x01 65; ok s ∧ tLvl s 0 = 18 ∧ regB s pgNurs 0x010 0 = true) := by decide

/-- Input `n` of tine 0 chosen for entry, its vector valid. -/
def sEntry (n : Nat) : State :=
  let s := wT 0 { go with entry := some n } (st [])
  wM [(vectorPa s 0 (inWalled s 0 n) n, 2 ^ 39 + 5)] s

/-- Tine 0 in a handler at level `l`, its save set naming the level `o` below. -/
def sHandler (l o : Nat) : State :=
  wT 0 go (st [(pgTine 0, oTST, 2 ^ 28 + 2 ^ 30 * l), (pgTine 0, oSST (l - 1), 2 ^ 30 * o), (pgTine 0, oSPC (l - 1), 9)])

theorem wit_HandlerEntriesAndReturns :
    (∀ n ∈ [(0 : Fin 64), 63], let s := sEntry n
      (tineAt s 0).entry = some n.val ∧ owesFault s 0 = false ∧ asleep s 0 = false ∧ (tineAt s 0).dreq = .none ∧
        bit (memGet s (vectorPa s 0 (inWalled s 0 n) n)) 39 = true ∧ ueAt s (vectorPa s 0 (inWalled s 0 n) n) = false) ∧
    (∀ l ∈ [1, 16], let s := sHandler l (l - 1)
      let new := reg s (pgTine 0) (oSST (l - 1))
      Ready s 0 ∧ tS s 0 = true ∧ tLvl s 0 = l ∧ getF new 30 5 < l ∧ bit new 29 = false ∧ retxBest s 0 new = none ∧
        (tineAt s 0).dreq = .none) := by decide +kernel

theorem writes_ok (s : State) (w : Who) (t : TineNo) (off : Nat) (h1 : w ≠ .tine t) (h2 : regGate s w (pgTine t) off = .ok) :
    Writes s w t off := ⟨fun h => absurd h h1, fun _ => h2⟩

/-- Nesting depth `d` of tine 0, the input in work at its top a tine input. -/
def sNest (d extra : Nat) : State := st [(pgTine 0, oSSTAT, extra + 2 ^ 13 * d)]

theorem wit_SieveInputs :
    let s := st []
    tineUp s 0 = true ∧ Writes s (.store 0 true true) 0 oRAISE ∧ Writes s .graft 0 oRAISE ∧ Writes s .graft 0 oCLRPEND ∧ Writes s .nursery 0 oEOI ∧
    bit (wd (2 ^ 39 + 59)) 39 = true ∧ getF (wd (2 ^ 39 + 59)) 0 6 ≠ 60 ∧
    (Writes (sNest 0 16) .graft 0 oEOI ∧ bit (reg (sNest 0 16) (pgTine 0) oSSTAT) 4 = true) ∧
    (∀ d ∈ [1, 16], Writes (sNest d 0) .graft 0 oEOI ∧ bit (reg (sNest d 0) (pgTine 0) oSSTAT) 4 = false ∧
      getF (reg (sNest d 0) (pgTine 0) oSSTAT) 13 5 = d ∧ (!whoWalled (sNest d 0) .graft) = false) ∧
    (∀ n ∈ [(0 : Fin 64), 63], n.val ≠ 60 ∧ Writes s .graft 0 (oSCFG n) ∧ (!whoWalled s .graft) = false ∧
      Tbl.get (fun _ => 0) (tineAt s 0).hold n ≤ s.now) := by
  refine ⟨by decide, ?_, ?_, ?_, ?_, by decide, by decide, ⟨?_, by decide⟩, fun d h => ?_, fun n h => ?_⟩
  · exact writes_ok _ _ _ _ (by decide) (by decide)
  · exact writes_ok _ _ _ _ (by decide) (by decide)
  · exact writes_ok _ _ _ _ (by decide) (by decide)
  · exact writes_ok _ _ _ _ (by decide) (by decide)
  · exact writes_ok _ _ _ _ (by decide) (by decide)
  · simp only [List.mem_cons, List.not_mem_nil, or_false] at h
    rcases h with rfl | rfl <;> exact ⟨writes_ok _ _ _ _ (by decide) (by decide), by decide⟩
  · simp only [List.mem_cons, List.not_mem_nil, or_false] at h
    rcases h with rfl | rfl <;> exact ⟨by decide, writes_ok _ _ _ _ (by decide) (by decide), by decide⟩

theorem wit_TimerDitherAndLock :
    (let s := st [(pgTine 0, oTPER, 1)]
     Writes s .graft 0 oTCMP ∧ tmrPast s 0x7FFFFFFF = false ∧ tmrPast s 0x80000000 = true ∧ tmrPast s 1 = false ∧
      Writes s .graft 0 oDTHA ∧ Writes s .graft 0 oDTHB ∧ Writes s .graft 0 (oRQ 3)) ∧
    (∀ p ∈ [0, 1, 2 ^ 31 - 1], let s := st [(pgTine 0, oSSTAT, 2 ^ 21), (pgTine 0, oTPER, p)]
      regB s (pgTine 0) oSSTAT 21 = true ∧ tmrPast s (regF s (pgTine 0) oTCMP 0 32) = true ∧ tineUp s 0 = true ∧
        regF s (pgTine 0) oTPER 0 32 = p) ∧
    (let s := { st [(pgNurs, 0x011, 0x100 + 3)] with lockSet := [3, 143] }
     regGate s .graft pgNurs 0x011 = .ok ∧ walledWriter s .graft = true ∧ bit (wd (2 ^ 39)) 39 = true ∧
      regB s pgNurs 0x011 8 = true) := by
  refine ⟨⟨?_, by decide, by decide, by decide, ?_, ?_, ?_⟩, by decide, by decide⟩ <;>
    exact writes_ok _ _ _ _ (by decide) (by decide)

/-- The chain head, enumerated. -/
def sHead : State := st [(pgChain, 0x011, 2 ^ 4 + 2 ^ 5), (pgDev, 7, 0)]

/-- A mailbox of a state holding `items`. -/
def sBox (u : MUnit) (items : List Word) (s : State) : State := setMbox u items s

theorem wit_Mailboxes :
    (∀ u ∈ [MUnit.plot 15, .slot 127, .bed 3, .device, .chain], let s := sBox u (List.replicate 7 (wd (3 * 2 ^ 36))) sHead
      (u = .chain → chainFaceOn s = true) ∧ regGate s .graft (mboxReg u).1 (mboxReg u).2 = .ok ∧
        regGate s .graft (mboxReg u).1 ((mboxReg u).2 + 1) = .ok ∧ regGate s .graft (mboxReg u).1 ((mboxReg u).2 + 2) = .ok ∧
        (mboxItems s u).length < 8 ∧ mboxItems s u ≠ []) ∧
    getF (wd (14 * 2 ^ 32)) 32 4 ≠ 15 ∧ getF (wd (15 * 2 ^ 32)) 32 4 = 15 ∧
    (let s := sBox .device (List.replicate 8 0) sHead
     8 ≤ (mboxItems s .device).length ∧ whoLocal .host = false ∧ Who.host ≠ .graft ∧ whoLocal (.tine 0) = true ∧
      regGate s .host pgDev 0x011 = .ok ∧ regGate s (.tine 0) pgDev 0x011 = .ok ∧ regGate s .graft pgDev 0x011 = .ok) ∧
    mboxItems sHead .device = [] ∧
    (let s := { sHead with withheld := [(.direct (.tine 0), 148, 5)] }
     withheldAt s .device 0 = some (.direct (.tine 0), mboxNo .device, 5) ∧ (mboxItems s .device).length < 8 ∧
      mboxUp s .device = true) ∧
    -- the units at the last numbers, whose events reach their members
    (∀ u ∈ [MUnit.plot 15, .slot 127, .bed 3], mboxUp sHead u = true) ∧ physOf sHead 127 = some 142 ∧ tineUp sHead 142 = true ∧
    routePick (routeWord sHead 21) (devicesM1 sHead + 1) (Tbl.get (fun _ => 0) sHead.rrLast 21) (chainBad sHead) (chainIdle sHead) =
      [chainAddr sHead] := by decide

theorem wit_OwnPlots : OwnPlots (st []) := by
  intro l hl t ht
  have h : ∀ l, l < 128 → physOf (st []) l = some (l / 8 * 9 + l % 8) := by decide +kernel
  rw [h l hl] at ht
  have := Option.some.inj ht
  omega

theorem wit_RegisterAccessTypes :
    let s := st []
    (∀ p ∈ [(0x011 : Fin 512), 0x012, 0x009], (pageKind p).isSome = true ∧ regGate s .graft p 0x010 = .ok) ∧
    pageKind 0x009 = some (.trel, 0) ∧ (regSpec .trel 0 0x032).clr ≠ 0 ∧ regGate s .graft 0x009 0x032 = .ok ∧
    pageKind 0x030 = none ∧ pageKind 0x1FF = none := by decide +kernel

theorem wit_PageHeaders :
    let free := st [(pgGauge, 2, 1), (pgGauge, 7, 0)]
    let locked := st [(pgGauge, 2, 4)]
    pageKind pgGauge = some (.gauge, 0) ∧
    (regGate free .graft pgGauge 2 = .ok ∧ walledWriter free .graft = true ∧ pageLocked free pgGauge = false ∧
      bit (reg free pgGauge 2) 0 = true ∧ getF (wd (253 * 8)) 3 8 < 254 ∧ 254 ≤ getF (wd (254 * 8)) 3 8 ∧
      bit (wd (254 * 8)) 1 = false) ∧
    (pageLocked (st []) pgGauge = false ∧ bit (wd 0) 0 = false ∧ regGate (st []) .graft pgGauge 2 = .ok) ∧
    (regGate locked .graft pgGauge 2 = .ok ∧ pageLocked locked pgGauge = true) ∧
    (walledWriter free .host = false ∧ regGate free .host pgGauge 2 = .ok) ∧
    regGate free .host pgGauge 6 = .ok ∧ regGate free .host pgGauge 5 = .ok ∧ regB (st []) pgGauge 2 0 = false ∧
    (let s := st [(pgGauge, 2, 1), (pgGauge, 4, 1), (pgGauge, 5, 1)]; regB s pgGauge 2 0 = true ∧ pageP s pgGauge ≠ 0) ∧
    regGate free .host pgGauge 7 = .ok ∧
    (let s := { free with hostSess := { free.hostSess with level := 2 } }
     ownerWriter s .host = true ∧ pageOwnerReset .gauge < 2 ∧ regGate s .host pgGauge 7 = .ok) := by decide

theorem wit_TranslationCaches :
    let s := st []
    (∀ t ∈ [(0 : TineNo), 143], regGate s .graft (pgTine t) oXCFG = .ok ∧ walledWriter s .graft = true ∧
      regGate s .graft (pgTine t) oXINV = .ok) ∧
    regGate s .graft pgXlat 0x011 = .ok ∧ regGate s .graft pgXlat 0x012 = .ok ∧ regB s pgXlat 0x012 0 = false := by decide +kernel

theorem wit_MemoryUpkeep :
    (let s := { st [(pgShed, 0x013, 1 + 2 ^ 5 * 1 + 2 * 15), (pgShed, 0x015, 2 ^ 14 * 0x3FFFEF)] with now := 1 }
     s.ue = [] ∧ domSt s domShda = .run ∧ domSt s domShdb = .run ∧ regB s pgShed 0x013 0 = true ∧
      Tbl.get (fun _ => 0) s.memCtl.walk 1 ≤ s.now ∧
      regF s pgShed 0x015 14 26 + (regF s pgShed 0x013 1 4 + 1) = 0x3FFFFF) ∧
    (∀ n ∈ [1000, 100000], let s := { st [(pgDram, 0x010, 1)] with now := n }
      regF s pgDram 0x010 0 2 ≠ 0 ∧ domSt s domLink = .run ∧ s.now % n = 0) := by decide

theorem wit_BlockClock :
    (let s := { st [(pgDev, 0x048, 8)] with pllRuns := true, now := blockTicks (st [(pgDev, 0x048, 8)]) }
     s.pllRuns = true ∧ s.boot.graft = none ∧ s.blkFrom + blockTicks s ≤ s.now + 1 ∧
      gridClk s ≠ none ∧ regB s pgDev 0x048 16 = false) ∧
    (let s := { st [(pgDev, 0x048, 8)] with pllRuns := true, pwmOn := true, now := blockTicks (st [(pgDev, 0x048, 8)]) }
     s.pwmOn = true ∧ gridClk s ≠ none) ∧
    -- a Hoe's carrier boundary before the block's is outstanding
    (let s := { setHoe 0 0 { Hoe.reset with grid := some 4096 } (st [(pgHoe 0, hB 0 + 0xC, 2 ^ 11)]) with pwmOn := true, pwmClk := 1 }
     gridClk s = none) ∧
    (st []).pllRuns = false ∧
    (let s := { st [(pgDev, 0x048, 64)] with pllRuns := true }; s.pllRuns = true ∧ s.now + 1 < s.blkFrom + blockTicks s) ∧
    (let s := st []; regGate s .graft pgDev 0x048 = .ok ∧ s.pllRuns = false ∧ getF (wd 8) 0 10 = 8 ∧ getF (wd 7) 0 10 < 8) := by
  decide

/-! ## Witnesses: the chain and the hoppers -/

/-- A device of the chain with ports trained per `links` (bit 6 UP, bit 7 DOWN), address `a`, port 0 as `x`, cells waiting. -/
def sPort (links a : Nat) (x : Port) (cs : List Cell) : State :=
  { setPort 0 x (st [(pgChain, 0x011, links + a), (pgChain, 7, 0)]) with cellsIn := cs }

/-- A cell of a type with payload words. -/
def cl (typ : Nat) (body : List Nat) : Cell := { typ := typ, dst := 0, src := 1, cls := 0, body := body.map wd }

/-- The eight words of a good WRITE cell to device 0 with LSEQ 0. -/
def goodCell : List Word := cellWords (cl 1 [5, 6]) 0 0 false

theorem wit_ChainPorts :
    let base := fun s : State => domSt s domLink = .run ∧ s.released = true ∧ s.vcoreLow = false
    (let s := sPort 0x40 0 { Port.reset with again := [(3, cl 1 [])] } []
     base s ∧ portUp s 0 = true ∧ (portAt s 0).again = [(3, cl 1 [])]) ∧
    (let s := sPort 0x40 0 { Port.reset with sample := [cl 1 []], sent := List.replicate 31 (0, cl 1 []) } []
     base s ∧ portUp s 0 = true ∧ (portAt s 0).again = [] ∧ (portAt s 0).sample = [cl 1 []] ∧ (portAt s 0).sent.length < 32) ∧
    (let s := sPort 0x40 0 { Port.reset with bulk := [cl 1 []] } []
     base s ∧ portUp s 0 = true ∧ (portAt s 0).again = [] ∧ (portAt s 0).sample = [] ∧ (portAt s 0).bulk = [cl 1 []] ∧
      (portAt s 0).sent.length < 32) ∧
    (let s := sPort 0x40 0 Port.reset []
     base s ∧ portUp s 0 = true ∧ (portAt s 0).again = [] ∧ (portAt s 0).sample = [] ∧ (portAt s 0).bulk = [] ∧
      cellGood goodCell = true ∧ (cellOf goodCell).dst = chainAddr s ∧ (cellOf goodCell).typ ∈ [1, 2, 3, 4] ∧
      getF ((goodCell[0]?).getD 0) 13 8 = ((portAt s 0).good + 1) % 256 ∧ cellGood [0, 0, 0, 0, 0, 0, 0, 0] = false) ∧
    (let s := sPort 0x40 0 { Port.reset with sent := [(255, cl 1 []), (0, cl 2 [])], resends := 8 } []
     base s ∧ portUp s 0 = true ∧ 8 ≤ (portAt s 0).resends ∧
      ((portAt s 0).sent.filter fun e =>
        decide (0 < (e.1 + 256 - (254 : BitVec 8).toNat) % 256 ∧ (e.1 + 256 - (254 : BitVec 8).toNat) % 256 < 128)) ≠ []) ∧
    (let s := sPort 0 0 Port.reset []
     base s ∧ portUp s 0 = false ∧ chainHead s = false ∧ chainReady s = false ∧ regGate s .graft pgChain 0x013 = .ok) ∧
    (let s := { sPort 0 0 Port.reset [] with now := 2000 }
     base s ∧ portUp s 0 = false ∧ chainHead s = false ∧ chainReady s = false ∧ s.releasedAt + 2000 ≤ s.now) ∧
    (let s := sPort 0x61 0 Port.reset []
     base s ∧ portUp s 1 = false ∧ chainHead s = false ∧ chainReady s = true) ∧
    -- a member that has sent another's READ down
    (let s := { sPort 0xE1 3 Port.reset [] with chainFwd := [(1, 2, 9), (0, 5, 7)] }
     base s ∧ portUp s 0 = true ∧ s.chainFwd.all (fun e => decide (e.1 = 1 → e.2.1 < chainAddr s)) = true ∧ chainAddr s < 15) ∧
    (let s := sPort 0x90 0 Port.reset []; base s ∧ chainHead s = true ∧ portUp s 1 = true ∧ regGate s .graft pgChain 0x013 = .ok) := by
  refine ⟨?_, ?_, ?_, ?_, ?_, ?_, ?_, ?_, ?_, ?_⟩ <;> decide +kernel

/-- Cell `c` waits alone. -/
abbrev cellWaits (s : State) (c : Cell) : Prop :=
  domSt s domLink = .run ∧ s.released = true ∧ s.vcoreLow = false ∧ s.cellsIn = [c]

theorem wit_ChainCells :
    (let c := cl 1 [0x043FFFFF, 9]
     let s := sPort 0xE0 0 Port.reset [c]
     cellWaits s c ∧ c.body = [wd 0x043FFFFF, 9] ∧ 0x043FFFFF < 2 ^ 28 ∧ regionOf 0x043FFFFF = .shed true ∧ outGate s (.chainWin true) true 0x04000000 = .ok ∧
      bootDiscards s (cellSrc s c) 0x04000000 = false) ∧
    (let c := cl 2 [0x043FFFFF, 0xFFFF]
     let s := sPort 0xE0 0 Port.reset [c]
     cellWaits s c ∧ outGate s (.chainWin true) false 0x043FFFFF = .ok ∧ ueAt s 0x043FFFFF = false ∧ c.src ≠ chainAddr s ∧
      portUp s (portToward s c.src) = true) ∧
    (let c := cl 3 [0xFFFF, 8]
     let s := { sPort 0xE0 0 Port.reset [c] with chainTags := [(1, 2, 3), (0xFFFF, 5, 6)] }
     cellWaits s c ∧ bit ((c.body[0]?).getD 0) 16 = false ∧
      s.chainTags.find? (fun e => decide (e.1 = getF ((c.body[0]?).getD 0) 0 16)) = some (0xFFFF, 5, 6)) ∧
    (∀ n ∈ [0, 15], let c := cl 4 [8 * 0 + 2 ^ 14 * n]
     let s := sPort 0xE0 0 Port.reset [c]
     cellWaits s c ∧ getF ((c.body[0]?).getD 0) 14 4 = n ∧ bit ((c.body[0]?).getD 0) 18 = false ∧
      physOf s (getF ((c.body[0]?).getD 0) 3 11 % 128) = some 0 ∧ tineUp s 0 = true) ∧
    (∀ a ∈ [0, 15], let c := cl 5 [a]
     cellWaits (sPort 0xC0 0 Port.reset [c]) c ∧ portUp (sPort 0xC0 0 Port.reset [c]) 1 = true ∧
      portUp (sPort 0x40 0 Port.reset [c]) 1 = false ∧ portUp (sPort 0x40 0 Port.reset [c]) 0 = true ∧
      getF ((c.body[0]?).getD 0) 0 5 = a) ∧
    (∀ n ∈ [1, 16], let c := cl 6 [n]; let d := cl 7 [n]
     cellWaits (sPort 0x90 0 Port.reset [c]) c ∧ chainReady (sPort 0x90 0 Port.reset [c]) = false ∧
      chainHead (sPort 0x90 0 Port.reset [c]) = true ∧ chainHead (sPort 0x40 0 Port.reset [d]) = false ∧
      chainOver (sPort 0x40 0 Port.reset [d]) = false ∧ getF ((c.body[0]?).getD 0) 0 5 = n) ∧
    (let c := cl 7 [16]; let s := { sPort 0x4F00 0 Port.reset [c] with outside := true }
     cellWaits s c ∧ chainHead s = false ∧ chainOver s = true) ∧
    (let c := cl 5 [16]; let s := sPort 0x40 0 Port.reset [c]
     cellWaits s c ∧ 15 < getF ((c.body[0]?).getD 0) 0 5 ∧ portUp s 0 = true) ∧
    (let c := cl 8 [3]; let s := sPort 0x40 1 Port.reset [c]
     cellWaits s c ∧ chainHead s = false ∧ chainOver s = false) ∧
    (∀ n ∈ [0, 15], let c := cl 9 [n]
     cellWaits (sPort 0x40 1 Port.reset [c]) c ∧ chainOver (sPort 0x40 1 Port.reset [c]) = false ∧
      chainHead (sPort 0x40 1 Port.reset [c]) = false ∧ getF ((c.body[0]?).getD 0) 0 5 = n) ∧
    (let c := cl 10 [0x04000000, 1, 8]
     let s := sPort 0xE0 0 Port.reset [c]
     cellWaits s c ∧ bit ((c.body[1]?).getD 0) (chainAddr s) = true ∧ outGate s (.chainWin true) true 0x04000000 = .ok ∧
      bootDiscards s (cellSrc s c) 0x04000000 = false ∧ chainOver s = false) ∧
    (let s := sPort 0xB0 0 Port.reset [cl 1 []]
     regGate s .graft pgDev 0x044 = .ok ∧ chainHead s = true ∧ chainReady s = true ∧ portUp s 1 = true ∧
      getF (wd 3) 0 3 < 4 ∧ regGate s .graft pgChain 0x016 = .ok) := by
  refine ⟨?_, ?_, ?_, ?_, ?_, ?_, ?_, ?_, ?_, ?_, ?_, ?_⟩ <;> decide +kernel

theorem wit_Hoppers :
    let room := sHop 253 16 (List.replicate 15 0) (st [])
    let full := sHop 253 16 (List.replicate 16 0) (st [])
    let none := st []
    (regGate room .graft (pgHop 253) (hopBase 253 + 5) = .ok ∧ hopSlots room 253 ≠ 0 ∧ getF (wd 0) 32 4 ≠ 15 ∧
      hopFull room 253 = false) ∧
    (hopSlots none 1 = 0 ∧ getF (wd (15 * 2 ^ 32)) 32 4 = 15 ∧ hopFull full 253 = true ∧
      regGate full .nursery (pgHop 255) (hopBase 255 + 5) = .ok) ∧
    regGate none .graft (pgHop 0) (hopBase 0) = .ok ∧
    -- HOP_CFG at the ends of its ranges
    (∀ v ∈ [0, 16, 1024, 16 + 2 ^ 14 * 127, 16 + 2 ^ 11 + 2 ^ 14 * 15, 16 + 2 ^ 12 + 2 ^ 14 * 3, 16 + 3 * 2 ^ 11],
      getF (wd v) 0 11 ≤ hopFree none + hopSlots none 0) ∧ hopDepth none 0 = 0 ∧ hopRetained none 0 = 0 ∧
    regGate none .graft (pgHop 0) (hopBase 0 + 2) = .ok ∧ walledWriter none .graft = true ∧
    (let s := { none with hostSess := { none.hostSess with level := 2 } }
     ownerWriter s .host = true ∧ regGate s .host (pgHop 0) (hopBase 0 + 2) = .ok) ∧
    (let s := setHop 0 { hopAt none 0 with tailEnd := some 0 } none
     domUp s domTrel = true ∧ (hopAt s 0).tailEnd = some 0 ∧ 0 ≤ s.now) := by decide +kernel

/-! ## Witnesses: the Trellis -/

/-- Channel `c` Walled, registers at offsets of its block, and the rest of its state. -/
def sCh (c : Nat) (rs : List (Nat × Nat)) (x : Chan) : State :=
  setChan c x (st ((pgTrch c, chBase c + 3, 1) :: (pgHop 0, hopBase 5, 16) :: rs.map fun e => (pgTrch c, chBase c + e.1, e.2)))

theorem chPlain (s : State) (c va : Nat) (b : Bool)
    (h : bit (reg s pgXlat 0x010) 0 = false ∧ chWalled s c = true ∧ reservedPa va = false ∧ regionOf va = .shed b ∧
      domSt s (if b then domShdb else domShda) = .run) : ChPlain s c va :=
  ⟨h.1, h.2.1, h.2.2.1, b, h.2.2.2.1, h.2.2.2.2⟩

theorem chReads (s : State) (c va : Nat) (b : Bool)
    (h : (bit (reg s pgXlat 0x010) 0 = false ∧ chWalled s c = true ∧ reservedPa va = false ∧ regionOf va = .shed b ∧
      domSt s (if b then domShdb else domShda) = .run) ∧ ueAt s va = false ∧ ownWrite? s c va = false) :
    ChReads s c va (memGet s va) := ⟨chPlain s c va b h.1, h.2.1, h.2.2, rfl⟩

/-- A channel at CPC 0x04000000 whose command's words are `w0` and `w1`. -/
def sGot (c : Nat) (w0 w1 : Nat) (rs : List (Nat × Nat)) : State :=
  sCh c ((1, 1) :: (5, 0x04000000) :: rs) { Chan.reset with phase := .got (wd w0) (wd w1), w0 := wd w0, nextPc := 0x04000002 }

theorem begun (s : State) (c : Nat) (w0 w1 : Word) (cmd : Nat)
    (h : chRuns s c = true ∧ (chanAt s c).phase = .got w0 w1 ∧ (chanAt s c).w0 = w0 ∧ cmd = w0.toNat + 2 ^ 40 * w1.toNat ∧
      bit (chR s c 1) 10 = false ∧ cf cmd 6 1 = 0) : Begun s c cmd :=
  ⟨h.1, ⟨w0, w1, h.2.1, h.2.2.1, h.2.2.2.1⟩, h.2.2.2.2.1, h.2.2.2.2.2⟩

/-- A channel of 0 to 127 that has fetched the command `cmd` and is to perform it. -/
theorem begun' (c cmd : Nat) (rs : List (Nat × Nat))
    (h : chRuns (sGot c (cmd % 2 ^ 40) (cmd / 2 ^ 40) rs) c = true ∧
      (chanAt (sGot c (cmd % 2 ^ 40) (cmd / 2 ^ 40) rs) c).phase = .got (wd (cmd % 2 ^ 40)) (wd (cmd / 2 ^ 40)) ∧
      (chanAt (sGot c (cmd % 2 ^ 40) (cmd / 2 ^ 40) rs) c).w0 = wd (cmd % 2 ^ 40) ∧
      cmd = (wd (cmd % 2 ^ 40)).toNat + 2 ^ 40 * (wd (cmd / 2 ^ 40)).toNat ∧
      bit (chR (sGot c (cmd % 2 ^ 40) (cmd / 2 ^ 40) rs) c 1) 10 = false ∧ cf cmd 6 1 = 0) :
    Begun (sGot c (cmd % 2 ^ 40) (cmd / 2 ^ 40) rs) c cmd := begun _ _ _ _ _ h

/-- The state in which channel `c` is to perform `cmd`. -/
abbrev sCmd (c cmd : Nat) (rs : List (Nat × Nat)) : State := sGot c (cmd % 2 ^ 40) (cmd / 2 ^ 40) rs

/-- A channel about to fetch at `pc` the words `w0` and `w1`. -/
def sFetch (pc w0 w1 : Nat) (x : Chan) (rs : List (Nat × Nat)) : State :=
  wM [(pc, w0), (pc + 1, w1)] (sCh 126 ((1, 1) :: (5, pc) :: rs) x)

theorem wit_ChannelFetches :
    let reads := fun (s : State) (a : Nat) => ChReads s 126 a (memGet s a) ∧ ChReads s 126 (a + 1) (memGet s (a + 1))
    let idle := fun s : State => (chanAt s 126).phase = .next ∧ bit (chR s 126 1) 10 = false
    let placed := fun s : State => slotOk (cmd12 s 126) (chCpc s 126) = true ∧
      (chRing s 126 = true → slotOk (cmd12 s 126) (chanAt s 126).base = true)
    -- a NOP; an owner tag other than the channel's; a command of no listed opcode; the same in ring mode
    (let s := sFetch 0x043FFFFE 0 0 Chan.reset []
     idle s ∧ fetchReady s 126 = true ∧ chRuns s 126 = true ∧ placed s ∧ reads s 0x043FFFFE ∧ getF (memGet s 0x043FFFFF) 20 2 ≠ 2 ∧
      formErr false 0 = 0) ∧
    (let s := sFetch 0x04000000 0 (2 ^ 21) Chan.reset []
     idle s ∧ fetchReady s 126 = true ∧ chRuns s 126 = true ∧ placed s ∧ reads s 0x04000000 ∧
      getF (memGet s 0x04000001) 20 2 = 2 ∧ bit (chR s 126 2) 3 = false) ∧
    (let s := sFetch 0x04000000 0xC 0 { Chan.reset with base := 0x04000000 } [(2, 1)]
     idle s ∧ fetchReady s 126 = true ∧ chRuns s 126 = true ∧ placed s ∧ reads s 0x04000000 ∧ chRing s 126 = true ∧
      formErr true 0xC ≠ 0) ∧
    (let s := sFetch 0x0400000C 0 0 Chan.reset [(2, 2)]
     idle s ∧ fetchReady s 126 = true ∧ chRuns s 126 = true ∧ ¬placed s) ∧
    -- the replay of each of them
    (let again := fun s : State => idle s ∧ chState s 126 = 1 ∧ domUp s domTrel = true ∧ (chanAt s 126).retry = true
     (let s := sFetch 0x04000000 0 0 { Chan.reset with retry := true } []; again s ∧ placed s ∧ reads s 0x04000000 ∧ formErr false 0 = 0) ∧
     (let s := sFetch 0x04000000 0 (2 ^ 21) { Chan.reset with retry := true } []
      again s ∧ placed s ∧ reads s 0x04000000 ∧ getF (memGet s 0x04000001) 20 2 = 2 ∧ bit (chR s 126 2) 3 = false) ∧
     (let s := sFetch 0x04000000 0xC 0 { Chan.reset with base := 0x04000000, retry := true } [(2, 1)]
      again s ∧ placed s ∧ reads s 0x04000000 ∧ chRing s 126 = true ∧ formErr true 0xC ≠ 0) ∧
     (let s := sFetch 0x0400000C 0 0 { Chan.reset with retry := true } [(2, 2)]; again s ∧ ¬placed s)) := by
  refine ⟨⟨?_, ?_, ?_, ?_, ⟨?_, ?_⟩, ?_, ?_⟩, ⟨?_, ?_, ?_, ?_, ⟨?_, ?_⟩, ?_, ?_⟩, ⟨?_, ?_, ?_, ?_, ⟨?_, ?_⟩, ?_, ?_⟩, ?_,
    ⟨?_, ?_, ⟨?_, ?_⟩, ?_⟩, ⟨?_, ?_, ⟨?_, ?_⟩, ?_, ?_⟩, ⟨?_, ?_, ⟨?_, ?_⟩, ?_, ?_⟩, ?_⟩ <;>
    first | decide | exact chReads _ _ _ true (by decide) | exact chReads _ _ _ false (by decide)

theorem wit_ChannelControlCommands :
    Begun (sCmd 0 0 []) 0 0 ∧ Begun (sCmd 127 0 []) 127 0 ∧
    -- LOOP at depth 3 and at depth 4
    (Begun (sCmd 1 (2 + 2 ^ 8 * 5) [(1, 1 + 3 * 2 ^ 6)]) 1 (2 + 2 ^ 8 * 5) ∧ chLd (sCmd 1 (2 + 2 ^ 8 * 5) [(1, 1 + 3 * 2 ^ 6)]) 1 = 3) ∧
    (Begun (sCmd 1 2 [(1, 1 + 4 * 2 ^ 6)]) 1 2 ∧ chLd (sCmd 1 2 [(1, 1 + 4 * 2 ^ 6)]) 1 = 4) ∧
    -- ENDLOOP outside a loop, in an endless one, with turns left, at the last turn
    (Begun (sCmd 1 3 []) 1 3 ∧ chLd (sCmd 1 3 []) 1 = 0) ∧
    (∀ v ∈ [2 ^ 24, 2, 1], let rs := [(1, 1 + 4 * 2 ^ 6), (0x17, v)]
      Begun (sCmd 1 3 rs) 1 3 ∧ chLd (sCmd 1 3 rs) 1 = 4 ∧ chRing (sCmd 1 3 rs) 1 = false ∧ chR (sCmd 1 3 rs) 1 0x17 = wd v) ∧
    (∀ t ∈ [0x04000000, 0x04000001], Begun (sCmd 1 (10 + 2 ^ 12 * t) []) 1 (10 + 2 ^ 12 * t) ∧
      slotOk false t = decide (t % 2 = 0)) := by
  refine ⟨begun' _ _ _ (by decide), begun' _ _ _ (by decide), ⟨begun' _ _ _ (by decide), by decide⟩,
    ⟨begun' _ _ _ (by decide), by decide⟩, ⟨begun' _ _ _ (by decide), by decide⟩, fun v h => ?_, fun t h => ?_⟩ <;>
    simp only [List.mem_cons, List.not_mem_nil, or_false] at h
  · rcases h with rfl | rfl | rfl <;> exact ⟨begun' _ _ _ (by decide), by decide⟩
  · rcases h with rfl | rfl <;> exact ⟨begun' _ _ _ (by decide), by decide⟩

theorem wit_ChannelSkips :
    (∀ e ∈ [(0, 0), (1, 0), (2, 0), (3, 5), (4, 5), (5, 255), (6, 0), (7, 0x04000000), (8, 0x043FFFFF)],
      let cmd := 6 + 2 ^ 8 * e.1 + 2 ^ 12 * 63 + 2 ^ 18 * e.2
      Begun (sCmd 1 cmd []) 1 cmd ∧ skipErr (cf cmd 8 4) (cf cmd 18 32) = 0 ∧ cf cmd 8 4 = e.1 ∧ hopBad (sCmd 1 cmd []) 1 5 = 0) ∧
    (let cmd := 6 + 2 ^ 8 * 8 + 2 ^ 18 * 0x043FFFFF
     ChReads (sCmd 1 cmd []) 1 0x043FFFFF (memGet (sCmd 1 cmd []) 0x043FFFFF)) := by
  refine ⟨fun e h => ?_, chReads _ _ _ true (by decide)⟩
  simp only [List.mem_cons, List.not_mem_nil, or_false] at h
  rcases h with rfl | rfl | rfl | rfl | rfl | rfl | rfl | rfl | rfl <;> exact ⟨begun' _ _ _ (by decide), by decide⟩

/-- The channel's hopper 5 holds `n` items. -/
def sFill (n : Nat) (s : State) : State := setHop 5 { hopAt s 5 with items := List.replicate n 0 } s

theorem wit_ChannelSignals :
    (∀ n ∈ [15, 16], let cmd := 5 + 2 ^ 11 * 5 + 2 ^ 19 * 7
      let s := sFill n (sCmd 1 cmd [])
      Begun s 1 cmd ∧ hopSlots s 5 ≠ 0 ∧ cf cmd 8 3 = 0 ∧ cf cmd 11 8 = 5 ∧ wd (cf cmd 19 40) = 7 ∧ hopBad s 1 5 = 0 ∧
        hopFull s 5 = decide (n = 16)) ∧
    (let s := sCh 1 [(1, 1)] { Chan.reset with phase := .push 5 7 }
     (chanAt s 1).phase = .push 5 7 ∧ chRuns s 1 = true ∧ bit (chR s 1 1) 10 = false ∧ bit (chanAt s 1).w0 6 = false ∧
      hopFull s 5 = false) ∧
    (let cmd := 5 + 2 ^ 8 + 2 ^ 14 * 127 + 2 ^ 25 * 15
     let s := sCmd 1 cmd []
     Begun s 1 cmd ∧ cf cmd 11 3 = 0 ∧ cf cmd 14 11 = 128 * chainAddr s + 127 ∧ physOf s 127 = some 142 ∧ tineUp s 142 = true ∧
      domUp s (127 / 8) = true) ∧
    (let cmd := 5 + 2 ^ 8 * 2 + 2 ^ 11 * 3 + 2 ^ 18 * 255
     Begun (sCmd 1 cmd []) 1 cmd ∧ cf cmd 11 7 = 3 ∧ cf cmd 18 8 = 255 ∧ chanBad (sCmd 1 cmd []) 1 3 = 0) ∧
    (let cmd := 7 + 2 ^ 8; Begun (sCmd 1 cmd []) 1 cmd ∧ cf cmd 8 1 = 1 ∧ cf cmd 9 7 = 0) ∧
    (let cmd := 7 + 2 ^ 9 * 0
     Begun (setChState 0 2 (sCmd 1 cmd [])) 1 cmd ∧ chState (setChState 0 2 (sCmd 1 cmd [])) 0 = 2 ∧
      chanBad (setChState 0 2 (sCmd 1 cmd [])) 1 0 = 0) ∧
    (let cmd := 8 + 2 ^ 9 * 0
     let s := setChState 0 3 (setChan 0 { Chan.reset with prev := 2 } (sCmd 1 cmd []))
     Begun s 1 cmd ∧ chState s 0 = 3 ∧ chF s 0 1 3 3 ≠ 5 ∧ (chanAt s 0).phase = .next ∧ chRing s 0 = false ∧ (chanAt s 0).prev = 2 ∧
      (chanAt s 0).outst = []) ∧
    (let cmd := 0xB + 2 ^ 8 * 3 + 2 ^ 10 * 127 + 2 ^ 18 * 3 + 2 ^ 22 * 3
     let s := setReg (pgRowp 3) (cB 127) 1 (sCmd 1 cmd [])
     Begun s 1 cmd ∧ domSt s (domRow 3) = .run ∧ unitBad s 1 3 127 = 0 ∧ cFunc s 3 127 = 1 ∧ cf cmd 22 33 = 3) := by
  refine ⟨fun n h => ?_, by decide, ⟨begun' _ _ _ (by decide), by decide⟩, ⟨begun' _ _ _ (by decide), by decide⟩,
    ⟨begun' _ _ _ (by decide), by decide⟩, ⟨begun _ _ 7 0 _ (by decide), by decide⟩, ⟨begun _ _ 8 0 _ (by decide), by decide⟩,
    ⟨begun _ _ (wd 13500171) 0 _ (by decide), by decide⟩⟩
  simp only [List.mem_cons, List.not_mem_nil, or_false] at h
  rcases h with rfl | rfl <;> exact ⟨begun _ _ (wd (5 + 2 ^ 11 * 5 + 2 ^ 19 * 7)) 0 _ (by decide), by decide⟩

theorem wit_ChannelWaits :
    -- a WAIT for 16 items that holds, one for a later tick that does not, and one for signals
    (let cmd := 4 + 2 ^ 8 * 1 + 2 ^ 12 * (5 + 256 * 16)
     let s := sFill 16 (sCmd 1 cmd [])
     Begun s 1 cmd ∧ cf cmd 8 4 = 1 ∧ waitErr s 1 (cf cmd 12 32) = 0 ∧ waitBad s 1 1 (cf cmd 12 32) = 0 ∧
      waitHolds s 1 1 (waitArg s 1 (cf cmd 12 32)) false = true) ∧
    (let cmd := 4 + 2 ^ 8 * 4 + 2 ^ 12 * 1 + 2 ^ 44 * 65535
     let s := sCmd 1 cmd []
     Begun s 1 cmd ∧ cf cmd 8 4 = 4 ∧ waitErr s 4 (cf cmd 12 32) = 0 ∧ waitBad s 1 4 (cf cmd 12 32) = 0 ∧
      waitHolds s 1 4 (waitArg s 4 (cf cmd 12 32)) false = false) ∧
    (let s := sCh 1 [(1, 2 + 2 ^ 22 * 255)] { Chan.reset with phase := .wait 6 255 0 0 false }
     chState s 1 = 2 ∧ domUp s domTrel = true ∧ bit (chR s 1 1) 10 = false ∧ bit (chanAt s 1).w0 6 = false ∧
      waitHolds s 1 6 255 false = true) ∧
    (let s := { sCh 1 [(1, 2), (5, 0x04000000)] { Chan.reset with phase := .wait 6 255 3 4 false } with now := 7 }
     chState s 1 = 2 ∧ domUp s domTrel = true ∧ bit (chR s 1 1) 10 = false ∧ 3 + 4 ≤ s.now ∧
      ChPlain s 1 ((chCpc s 1 + 1) % 2 ^ 32)) := by
  refine ⟨⟨begun _ _ (wd (4 + 2 ^ 8 * 1 + 2 ^ 12 * (5 + 256 * 16))) 0 _ (by decide), by decide⟩, ⟨begun' _ _ _ (by decide), by decide⟩,
    by decide, by decide, by decide, by decide, by decide, chPlain _ _ _ false (by decide)⟩

/-- A status ring at 0x04000010 of `size` slots, PI at `pi`, CI at 0. -/
def sringRegs (size pi : Nat) : List (Nat × Nat) := [(9, 0x04000010), (0xA, size), (0xB, pi)]

/-- An outstanding write of a channel. -/
def wr (kind pa : Nat) (d : StoreData) : ChWrite :=
  { kind := kind, mv := 0, va := pa, pa := pa, el := 0, line := 0, data := d, tries := 0, held := 0, resumed := false, rmax := 4,
    cls := 0 }

theorem wit_ChannelPostsAndWrites :
    (∀ pi ∈ [0, 1], let cmd := 9 + 2 ^ 12 * 4
      let s := sCmd 1 cmd (sringRegs 2 pi)
      let va := walkAt (bit (chR s 1 2) 2) (chF s 1 9 0 32) (chF s 1 0xB 0 16)
      Begun s 1 cmd ∧ ChPlain s 1 va ∧ ChPlain s 1 ((va + 1) % 2 ^ 32) ∧ cf cmd 12 3 = 4 ∧ 2 ≤ chF s 1 0xA 0 16 ∧
        chF s 1 9 0 32 % 2 = 0 ∧ decide ((chF s 1 0xB 0 16 + 1) % max 1 (chF s 1 0xA 0 16) = chF s 1 0xC 0 16) = decide (pi = 1)) ∧
    (let s := sCh 1 ((1, 1) :: sringRegs 2 0) { Chan.reset with phase := .post 1 0 5 }
     (chanAt s 1).phase = .post 1 0 5 ∧ chRuns s 1 = true ∧
      (chF s 1 0xB 0 16 + 1) % max 1 (chF s 1 0xA 0 16) ≠ chF s 1 0xC 0 16) ∧
    (let x := wr 0 0x043FFFFF (.word 5)
     let s := sCh 1 [(1, 1)] { Chan.reset with outst := [wr 0 0x04000000 (.word 4), x] }
     domUp s domTrel = true ∧ (chanAt s 1).outst[1]? = some x ∧ x.held = 0 ∧ inOrder (chanAt s 1).outst 1 x = true ∧
      regionOf x.pa = .shed true ∧ domSt s domShdb = .run ∧
      ∀ m, (chanAt s 1).phase ≠ .move m) ∧
    -- the last but one and the last write of a MOVE that has ended, and the last of one with BAR = 1
    (∀ l ∈ [[wr 4 0x04000001 (.word 4)], []], let x := wr 4 0x04000000 (.word 5)
     let s := sCh 1 [(1, 1)] { Chan.reset with outst := x :: l }
     (chanAt s 1).outst[0]? = some x ∧ inOrder (chanAt s 1).outst 0 x = true ∧ (chanAt s 1).ended = [] ∧
      l.any (fun y => decide (y.kind = 4 ∧ y.mv = x.mv)) = decide (l ≠ [])) ∧
    (let x := wr 0 0x04000000 (.word 5)
     let m := Move.start [] 0
     let s := sCh 1 [(1, 1)] { Chan.reset with outst := [x], phase := .move m }
     (chanAt s 1).outst[0]? = some x ∧ inOrder (chanAt s 1).outst 0 x = true ∧ (chanAt s 1).phase = .move m ∧ m.bad = false ∧
      moveOver m = true ∧ chState s 1 = 1 ∧ bit (chanAt s 1).w0 6 = false ∧ bit (chR s 1 1) 10 = false) ∧
    (let x := wr 1 0x04000010 (.word 5)
     let s := sCh 1 [(1, 1)] { Chan.reset with outst := [x], phase := .posted }
     domUp s domTrel = true ∧ (chanAt s 1).outst[0]? = some x ∧ inOrder (chanAt s 1).outst 0 x = true ∧ chRuns s 1 = true ∧
      bit (chR s 1 1) 10 = false ∧ bit (chanAt s 1).w0 6 = false ∧ (chanAt s 1).outst.eraseIdx 0 = [] ∧
      regionOf x.pa = .shed false ∧ domSt s domShda = .run) ∧
    (let x := wr 2 0x04000010 (.half true 3)
     let s := sCh 1 [(1, 1)] { Chan.reset with outst := [x], phase := .stated }
     (chanAt s 1).outst[0]? = some x ∧ inOrder (chanAt s 1).outst 0 x = true ∧ chState s 1 = 1 ∧ bit (chR s 1 1) 10 = false ∧
      bit (chR s 1 1) 12 = false ∧ regionOf x.pa = .shed false ∧ ueAt s x.pa = false) := by
  refine ⟨fun pi h => ?_, by decide, ⟨by decide, by decide, by decide, by decide, by decide, by decide, fun m h => nomatch h⟩,
    by decide, by decide, by decide, by decide⟩
  simp only [List.mem_cons, List.not_mem_nil, or_false] at h
  rcases h with rfl | rfl <;>
    exact ⟨begun' _ _ _ (by decide), chPlain _ _ _ false (by decide), chPlain _ _ _ false (by decide), by decide⟩

/-- A descriptor that moves `llen` words of 40 bits from `w0` of one space to 0x04000100 on. -/
def dsc (w0 llen : Nat) : List Word :=
  [w0 + 5 * 2 ^ 34, 1 + 2 ^ 20 * llen, 2 ^ 24, 0x04000100 + 5 * 2 ^ 34, 1 + 2 ^ 20 * llen, 2 ^ 24, 0, 0].map wd

/-- The descriptor in memory at 0x04000200. -/
def sDesc (l : List Word) (s : State) : State := (List.range 8).foldl (fun s i => memPut (0x04000200 + i) ((l[i]?).getD 0) s) s

theorem dsc_reads (l : List Word) (s : State) (i : Nat) (w : Word) (hw : l[i]? = some w)
    (h : ∀ i ∈ List.range 8, (bit (reg (sDesc l s) pgXlat 0x010) 0 = false ∧ chWalled (sDesc l s) 1 = true ∧
      reservedPa (0x04000200 + i) = false ∧ regionOf (0x04000200 + i) = .shed false ∧ domSt (sDesc l s) domShda = .run) ∧
      ueAt (sDesc l s) (0x04000200 + i) = false ∧ ownWrite? (sDesc l s) 1 (0x04000200 + i) = false ∧
      some (memGet (sDesc l s) (0x04000200 + i)) = l[i]?) (hl : l.length = 8) :
    ChReads (sDesc l s) 1 (0x04000200 + i) w := by
  have hi : i < 8 := by
    have := (List.getElem?_eq_some_iff.mp hw).1
    omega
  have h1 := h i (List.mem_range.mpr hi)
  refine ⟨chPlain _ _ _ false ⟨h1.1.1, h1.1.2.1, h1.1.2.2.1, h1.1.2.2.2.1, h1.1.2.2.2.2⟩, h1.2.1, h1.2.2.1, ?_⟩
  have := h1.2.2.2
  rw [hw] at this
  exact Option.some.inj this

theorem wit_ChannelMoves :
    (let cmd := 1 + 2 ^ 12 * 0x04000204; Begun (sCmd 1 cmd []) 1 cmd ∧ cf cmd 12 32 % 8 ≠ 0) ∧
    (∀ n ∈ [0, 3], let cmd := 1 + 2 ^ 12 * 0x04000200
      let s := sDesc (dsc 0x04000300 n) (sCmd 1 cmd [])
      Begun s 1 cmd ∧ cf cmd 12 32 = 0x04000200 ∧ (dsc 0x04000300 n).length = 8 ∧
        (∀ (i : Nat) (w : Word), (dsc 0x04000300 n)[i]? = some w → ChReads s 1 (0x04000200 + i) w) ∧
        decide (descErr (Move.start (dsc 0x04000300 n) 0) = 0) = decide (n = 3)) ∧
    (let ok := fun (s : State) (m : Move) => (chanAt s 1).phase = .move m ∧ chRuns s 1 = true ∧ bit (chR s 1 1) 10 = false ∧
       bit (chanAt s 1).w0 6 = false ∧ m.bad = false ∧ m.words = [] ∧ m.sbits = 0 ∧ m.sval = 0 ∧ m.made < dstCount m ∧
       isTrans m = false ∧ sidePack m 0 = false ∧ sidePack m 3 = false ∧ sideSpace m 3 = 0 ∧ 0 < sideLlen m 0 ∧
       (chanAt s 1).outst = [] ∧ partOut s 1 = false ∧ runOn s 1 (sideAddr m 3 m.dstLine m.dstEl) = false
     -- the last of three elements, with BAR 0 and 1, from memory, and one from a stream's FIFO
     (let m := { Move.start (dsc 0x04000300 3) 0 with made := 2, dstEl := 2 }
      let sm := fun w0 => sCh 1 [(1, 1)] { Chan.reset with phase := .move m, w0 := w0 }
      let s := sm 0
      (∀ b : Bool, ok (sm (if b then 32 else 0)) m ∧ bit (chanAt (sm (if b then 32 else 0)) 1).w0 5 = b) ∧ m.made + 1 = dstCount m ∧ ChPlain s 1 (sideAddr m 3 m.dstLine m.dstEl) ∧ sideSpace m 0 = 0 ∧
       ChReads s 1 (sideAddr m 0 (m.made / sideLlen m 0) (m.made % sideLlen m 0)) 0) ∧
     (let m := Move.start ([wd (2 ^ 33 + 5 * 2 ^ 34), wd (2 ^ 20 * 3)] ++ (dsc 0 3).drop 2) 0
      let k := (sideFifo (st []) ((m.desc[0]?).getD 0) true).1
      let s := setFifo k [7, 8] (sCh 1 [(1, 1)] { Chan.reset with phase := .move m })
      ok s m ∧ m.made + 1 < dstCount m ∧ sideSpace m 0 = 2 ∧ sideBad s 1 m 0 = 0 ∧ sideHeld s m 0 = false ∧
       fifoAt s (sideFifo s ((m.desc[0]?).getD 0) true).1 = [7, 8] ∧ ChPlain s 1 (sideAddr m 3 m.dstLine m.dstEl))) := by
  refine ⟨⟨begun' _ _ _ (by decide), by decide⟩, fun n h => ?_, ⟨by decide, by decide, chPlain _ _ _ false (by decide), by decide,
    chReads _ _ _ false (by decide)⟩, ⟨by decide, by decide, by decide, by decide, by decide, by decide, chPlain _ _ _ false (by decide)⟩⟩
  simp only [List.mem_cons, List.not_mem_nil, or_false] at h
  rcases h with rfl | rfl <;>
    exact ⟨begun _ _ (wd (1 + 2 ^ 12 * 0x04000200)) 0 _ (by decide), by decide, by decide,
      fun i w hw => dsc_reads _ _ i w hw (by decide) (by decide), by decide⟩

/-- Channel 126 in state `n` with a write that an error holds; its status half is due, or its MOVE is BAD. -/
def sHeld (n : Nat) (p : ChPhase) : State :=
  sCh 126 [(1, n), (5, 0x04000000)] { Chan.reset with phase := p, prev := 1, outst := [{ wr 0 0x04000100 (.word 4) with held := 2 }] }

theorem wit_ChannelStopsAndResumes :
    (∀ n ∈ [2, 3], let s := sHeld n (.status 2 1)
      chState s 126 = n ∧ statusDue s 126 = some (2, 1) ∧ ChPlain s 126 ((chCpc s 126 + 1) % 2 ^ 32)) ∧
    (let s := sHeld 3 (.move { Move.start [] 0 with bad := true })
     moveBad (chanAt s 126) = true ∧ statusDue s 126 = some (2, 1) ∧ ChPlain s 126 ((chCpc s 126 + 1) % 2 ^ 32)) ∧
    (let s := sHeld 3 .next
     regGate s .graft (pgTrch 126) (chBase 126) = .ok ∧ chState s 126 = 3 ∧ chF s 126 1 3 3 ≠ 5 ∧ ChSettled s 126 ∧
      (chanAt s 126).prev = 1 ∧ ∀ y ∈ (chanAt s 126).outst, y.held = 2 → ChPlain s 126 y.va) := by
  refine ⟨fun n h => ?_, ⟨by decide, by decide, chPlain _ _ _ false (by decide)⟩,
    by decide +kernel, by decide, by decide,
    ⟨fun m h => (nomatch h), fun a b => (nofun), .inl (by decide)⟩, by decide, fun y hy _ => ?_⟩
  · simp only [List.mem_cons, List.not_mem_nil, or_false] at h
    rcases h with rfl | rfl <;> exact ⟨by decide, by decide, chPlain _ _ _ false (by decide)⟩
  · rw [List.mem_singleton.mp hy]
    exact chPlain _ _ _ false (by decide)

theorem wit_ChannelRequests :
    (let idle := sCh 126 [(4, 0x04000000)] Chan.reset
     regGate idle .graft (pgTrch 126) (chBase 126) = .ok ∧ chState idle 126 = 0 ∧ chRing idle 126 = false ∧
      slotOk (cmd12 idle 126) (chF idle 126 4 0 32) = true ∧
      slotOk false (chF (sCh 126 [(4, 1)] Chan.reset) 126 4 0 32) = false ∧ walledWriter idle .graft = true ∧
      regGate idle .nursery (pgTrch 127) (chBase 127) = .ok ∧ regGate idle .graft (pgTrch 126) (chBase 126 + 3) = .ok ∧
      regGate idle .graft (pgTrch 126) (chBase 126 + 0xC) = .ok) ∧
    (∀ n ∈ [1, 2, 3, 4, 5], let s := sCh 126 [(1, n)] { Chan.reset with prev := 1 }
      regGate s .graft (pgTrch 126) (chBase 126) = .ok ∧ chState s 126 = n ∧ (chanAt s 126).prev = 1 ∧ (chanAt s 126).phase = .next ∧
        (chanAt s 126).retry = false ∧ chRing s 126 = false ∧ chF s 126 1 3 3 ≠ 5 ∧ statusDue s 126 = none ∧ (chanAt s 126).outst = []) ∧
    (let s := sCh 126 [(1, 1)] { Chan.reset with phase := .got 0 0 }; chState s 126 = 1 ∧ (chanAt s 126).phase = .got 0 0) ∧
    (let s := sCh 126 [(1, 4)] { Chan.reset with errStop := true }; chState s 126 = 4 ∧ (chanAt s 126).errStop = true) ∧
    (let s := { sCh 126 [] Chan.reset with hostSess := { Session.reset with level := 2 } }
     ownerWriter s .host = true ∧ chState s 126 = 0 ∧ regGate s .host (pgTrch 126) (chBase 126 + 3) = .ok ∧
      regGate s .host (pgTrch 127) (chBase 127) = .ok) ∧
    (let s := sCh 126 [(1, 3 + 2 ^ 3 * 5)] Chan.reset; chState s 126 = 3 ∧ chF s 126 1 3 3 = 5) ∧
    (let s := sCh 126 [(1, 2), (2, 1), (6, 2), (8, 1)] Chan.reset
     regGate s .graft (pgTrch 126) (chBase 126 + 7) = .ok ∧ ringSize s 126 = 2 ∧ chRing s 126 = true ∧ chState s 126 = 2 ∧
      (chanAt s 126).phase = .next ∧ (chanAt s 126).skip = 0 ∧ ringCi s 126 = 1) ∧
    (∀ v ∈ [5, 5 + 2 ^ 9], let s := sCh 0 [(1, v), (4, 0x04000000)] Chan.reset
      domUp s domTrel = true ∧ chState s 0 = 5 ∧ (chanAt s 0).outst = [] ∧ bit (chR s 0 1) 9 = decide (v ≠ 5) ∧
        slotOk (cmd12 s 0) (chF s 0 4 0 32) = true) ∧
    (let s := st []; regGate s .graft pgTrel 0x020 = .ok) := by decide +kernel

/-! ## Witnesses: rows, cells, Hoes, rails -/

/-- Row 3 with VIO_OK, all its pages Open, cell 127 configured as `v` in FIFO space of `n` · 16 words holding `q`, and
further registers of the row's control page and other pages; the PLL runs. -/
def sCell (v n : Nat) (q : List Word) (more : List (Nat × Nat × Nat)) : State :=
  { setFifo (unitKey 3 127) q (st ((pgRowc 3, 0x010, 2 ^ 11) :: (pgRowp 3, cB 127, v) :: (pgRowp 3, cB 127 + 1, n) :: more)) with
    pllRuns := true }

theorem wit_CellControl :
    (vioOk (st [(pgRowc 3, 0x010, 2 ^ 11)]) 3 = true ∧ Tbl.get (fun _ => none) (st []).vio 3 = none ∧
      (∀ hi : Bool, let s := { st [] with vio := Tbl.set (fun _ => none) [] 3 (some hi) }
        Tbl.get (fun _ => none) s.vio 3 = some hi)) ∧
    (let s := sCell 0 1 [] []
     Who.nursery ≠ .graft ∧ regGate s .nursery (pgRowp 3) (cB 127) = .ok ∧ cEn s 3 127 = false ∧ paramOk s 3 12 = true ∧
      roleTaken s 3 127 12 = false ∧ regGate s .graft (pgRowp 3) (cB 127 + 1) = .ok ∧ domUp s (domRow 3) = true ∧
      16 * getF (wd 64) 0 7 ≤ rowFree s 3 + cDepth s 3 127 ∧ CellSound s 3 127 ∧ cellCanEnable s 3 127 = false ∧
      (16 : BitVec 11).toNat ≤ cDepth s 3 127 ∧ cDepth s 3 127 < (17 : BitVec 11).toNat) ∧
    (let s := sCell 1 1 [] []; cFunc s 3 127 = 1 ∧ CellSound s 3 127 ∧ cEn s 3 127 = false ∧ cellCanEnable s 3 127 = true) ∧
    (let s := sCell (1 + 2 ^ 34) 1 [] []
     cEn s 3 127 = true ∧ getF (wd 2) 0 24 ≠ getF (cCfg s 3 127) 0 24 ∧ CellSound s 3 127 ∧ domUp s (domRow 3) = true) ∧
    (let s := st [(pgRowc 3, 0x018 + 7, 4)]
     regGate s .graft (pgRowc 3) (0x018 + 7) = .ok ∧ groupNamed s 3 7 = false ∧ getF (wd 4) 0 3 < 5 ∧ getF (wd (14 * 8)) 3 4 ≠ 15 ∧
      getF (cgW s 3 7) 0 3 = 4 ∧ domUp s (domRow 3) = true) := by
  refine ⟨?_, ?_, ?_, ?_, ?_⟩ <;> decide +kernel

theorem wit_CellFrames :
    -- a frame cell in and out, at a full and at an empty FIFO, of a master group of one slot of 16 bits
    (let s := sCell (4 + 2 ^ 12 * 31 + 2 ^ 34) 1 [] [(pgRowc 3, 0x018, 1)]
     cellTicks s 3 127 4 = true ∧ (List.replicate 17 true).length = cgBits (cgW s 3 0) + 1 ∧ bit (cCfg s 3 127) 19 = false) ∧
    (let s := sCell (5 + 2 ^ 34) 1 [7] [(pgRowc 3, 0x018, 1)]
     cellTicks s 3 127 5 = true ∧ getF (cCfg s 3 127) 12 5 + 1 ≤ (fifoAt s (unitKey 3 127)).length ∧ getF (cCfg s 3 127) 24 3 < 4) ∧
    (let s := sCell (5 + 2 ^ 34) 1 [] [(pgRowc 3, 0x018, 1)]; cellTicks s 3 127 5 = true ∧ fifoAt s (unitKey 3 127) = []) ∧
    (let s := sCell (2 + 2 ^ 10 * 2 + 2 ^ 34) 1 [] [(pgRowc 3, 0x018, 3)]
     cellTicks s 3 127 2 = true ∧ getF (cCfg s 3 127) 10 2 = 2 ∧ (cellAt s 3 127).settle = 0 ∧
      0 < (cellAt (setCell 3 127 { CellSt.reset with settle := 1 } s) 3 127).settle) ∧
    (let s := sCell (10 + 2 ^ 34) 1 [] [(pgRowc 3, 0x018, 3)]; cellTicks s 3 127 10 = true ∧ 0 < cDepth s 3 127) ∧
    (let s := sCell (10 + 2 ^ 34) 0 [] [(pgRowc 3, 0x018, 3)]
     cellTicks s 3 127 10 = true ∧ cDepth s 3 127 = 0 ∧ (cellAt s 3 127).settle = 0 ∧ getF (cCfg s 3 127) 10 2 ≠ 2) ∧
    (∀ q ∈ [[], [(7 : Word)]], ∀ n ∈ [0, 32],
     let s := setCell 3 127 { CellSt.reset with delay := List.replicate n [0] } (sCell (3 + 2 ^ 34) 1 q [(pgRowc 3, 0x018, 3)])
     cellTicks s 3 127 3 = true ∧ (cellAt s 3 127).delay.length = n ∧ fifoAt s (unitKey 3 127) = q) ∧
    -- a frame output that finishes after its disable
    (let s := setCell 3 127 { CellSt.reset with drain := true } (sCell 5 1 [] [])
     (cellAt s 3 127).drain = true ∧ cellTicks s 3 127 5 = false ∧ cellTicks s 3 127 3 = false ∧ cEn s 3 127 = false ∧
      vioOk s 3 = true ∧ domSt s (domRow 3) = .run ∧ tapActs s = .idcode) ∧
    -- the earliest edges a debounce of 15 allows
    (∀ at' ∈ [none, some 0],
     let s := { setCell 3 127 { CellSt.reset with edgeAt := at' } (sCell (1 + 2 ^ 7 + 2 ^ 9 * 15 + 2 ^ 34) 1 [] []) with now := 16 }
     domUp s (domRow 3) = true ∧ getF (cCfg s 3 127) 0 4 = 1 ∧ regB s (pgRowc 3) (0x024 + 127 / 32) (127 % 32) ≠ true ∧
      getF (cCfg s 3 127) 9 4 = 15 ∧ (cellAt s 3 127).edgeAt = at' ∧ 0 + 15 < s.now ∧
      (bit (cCfg s 3 127) 34 && bit (cCfg s 3 127) 7) = true) ∧
    -- an engine in I2C mode whose roles cell 127 and cell 126 hold
    (let s := sCell (12 + 2 ^ 7 * 7 + 2 ^ 34) 0 []
       [(pgRowp 3, cB 126, 12 + 2 ^ 7 * 7 + 2 ^ 10 + 2 ^ 34), (pgRowc 3, seB 7, 1), (pgRowc 3, 7, 0)]
     let v := wd (32 + 2 ^ 19)
     regGate s .host (pgRowc 3) (seB 7 + 1) = .ok ∧ domUp s (domRow 3) = true ∧ seAccepts s 3 7 v = true ∧
      (rolesNeeded (seMode s 3 7) (getF v 19 2)).all (roleHeld s 3 7) = true ∧ seAccepts s 3 7 33 = false) ∧
    (∀ m ∈ [1, 2], let s := { setEng 3 7 { engAt (st []) 3 7 with cmd := 32 + 2 ^ 6 * 32, start := 5 }
       (st [(pgRowc 3, seB 7, m + 2 ^ 14), (pgRowc 3, seB 7 + 2, 1)]) with now := 15 }
     seBusy s 3 7 = true ∧ getF (wd (engAt s 3 7).cmd) 0 6 ≤ 32 ∧ getF (wd (engAt s 3 7).cmd) 6 6 ≤ 32 ∧ seMode s 3 7 = m ∧
      (engAt s 3 7).start + seStretch s 3 7 = s.now) := by
  refine ⟨?_, ?_, ?_, ?_, ?_, ?_, ?_, ?_, ?_, ?_, ?_⟩ <;> decide +kernel

/-- Hoe 31 of row 3 configured as `v` with state bits `stat`, following rail 15, which is enabled and has a code. -/
def sHoe (v stat : Nat) (x : Hoe) (more : List (Nat × Nat × Nat)) : State :=
  { setHoe 3 31 x (st ([(pgRowc 3, 0x010, 2 ^ 11), (pgHoe 3, hB 31, v + 2 ^ 10 * 15), (pgHoe 3, hB 31 + 1, 1),
      (pgHoe 3, hB 31 + 2, 1), (pgHoe 3, hB 31 + 0xC, stat), (pgRail, rB 15, 1), (pgRail, rB 15 + 2, 2 ^ 16)] ++ more)) with
    pllRuns := true }

theorem wit_HoeControl :
    let sound := fun s : State => hoeCodesOk (hCfg s 3 31) = true ∧ hrOk (hCfg s 3 31) (reg s (pgHoe 3) (hB 31 + 5)) = true ∧
      loopOk (hCfg s 3 31) (reg s (pgHoe 3) (hB 31 + 4)) = true ∧ getF (hCfg s 3 31) 35 5 = 0
    (let s := sHoe 0 0 Hoe.reset []
     regGate s .graft (pgHoe 3) (hB 31) = .ok ∧ hEn s 3 31 = false ∧ hoeCodesOk 0 = true ∧
      hrOk 0 (reg s (pgHoe 3) (hB 31 + 5)) = true ∧ loopOk 0 (reg s (pgHoe 3) (hB 31 + 4)) = true ∧ sound s ∧
      hoeCanEnable s 3 31 = true ∧ domUp s (domRow 3) = true ∧ (16 : BitVec 11).toNat ≤ hDepth s 3 31 ∧
      lineOwns s 3 31 = false ∧ (2 : BitVec 2).toNat < 3 ∧ regGate s .graft (pgHoe 3) (hB 31 + 0xB) = .ok ∧
      hSheared s 3 31 = false) ∧
    (let s := sHoe 0 0 Hoe.reset [(pgHoe 3, hB 31 + 1, 0)]; sound s ∧ hEn s 3 31 = false ∧ hoeCanEnable s 3 31 = false) ∧
    (let s := sHoe 1 (2 ^ 11) Hoe.reset []
     sound s ∧ hEn s 3 31 = true ∧ getF (wd 2) 1 13 ≠ getF (hCfg s 3 31) 1 13 ∧ hRunning s 3 31 = true ∧ hSheared s 3 31 = false) ∧
    (let s := sHoe 1 (2 ^ 12) { Hoe.reset with tripAt := 7, tripBy := [1, 2] } []
     hSheared { s with now := 7 } 3 31 = true ∧ (hoeAt s 3 31).tripAt = { s with now := 7 }.now ∧ 5 ∉ (hoeAt s 3 31).tripBy ∧
      (hoeAt s 3 31).tripAt ≠ s.now ∧ causePresent s 3 31 = false) ∧
    -- taps that start from IP_TAP, and computed ones at both ends of their range
    (∀ l ∈ [none, some [0, 63, 32]], let s := { sHoe 1 0 { Hoe.reset with tapsNext := l } [(pgDev, 0x051, 1)] with now := 1000 }
     domUp s (domRow 3) = true ∧ pwmRuns s = true ∧ (hoeAt s 3 31).tapsNext = l ∧ (hoeAt s 3 31).calWin ≠ some (s.now / 1000)) ∧
    (let s := sHoe 1 0 { Hoe.reset with calWin := some 0 } []; (hoeAt s 3 31).calWin = some (s.now / 1000)) ∧
    (let s := sHoe 1 (2 ^ 12) Hoe.reset []; hEn s 3 31 = true ∧ hSheared s 3 31 = true ∧ causePresent s 3 31 = false) ∧
    (let s := setRail 15 { f := 64, lost := true, thr := 0 } (sHoe 1 (2 ^ 12) Hoe.reset []); causePresent s 3 31 = true) ∧
    (let s := sHoe 1 0 Hoe.reset [(pgDev, 0x051, 1)]; pllLock s = true ∧ hoeMayStart s 3 31 = true) ∧
    (let s := { sHoe 1 (2 ^ 12 + 2 ^ 24 * 6) { Hoe.reset with retryAt := some 0, shear := 7 * 2 ^ 6 } [] with now := 1 }
     (hoeAt s 3 31).retryAt = some 0 ∧ 0 ≤ s.now ∧ (hoeAt s 3 31).tripAt ≠ s.now ∧ hSheared s 3 31 = true ∧
      regF s (pgHoe 3) (hB 31 + 0xC) 24 3 < getF (hoeAt s 3 31).shear 6 3) := by
  refine ⟨?_, ?_, ?_, ?_, ?_, ?_, ?_, ?_, ?_, ?_⟩ <;> decide +kernel

theorem wit_RailsAndCarrier :
    (∀ e ∈ [(1, 2 ^ 12), (1, 0), (1, 2 ^ 11)], let s := { sHoe e.1 e.2 Hoe.reset [] with pwmOn := true }
      domUp s (domRow 3) = true ∧ pwmRuns s = true ∧ onGrid s 3 31 0 = true ∧ (hoeAt s 3 31).rearm = false ∧ hSheared s 3 31 = decide (e.2 = 2 ^ 12) ∧
        hRunning s 3 31 = decide (e.2 = 2 ^ 11) ∧ hEn s 3 31 = true ∧ (hoeAt s 3 31).stopping = false ∧
        getF (hCfg s 3 31) 14 2 = 0 ∧ getF (hCfg s 3 31) 16 2 = 0 ∧ bit (hCfg s 3 31) 18 = false ∧
        regF s (pgHoe 3) (hB 31 + 7) 0 2 = 0 ∧ sampleInstant (hCfg s 3 31) 0 = true) ∧
    (let s := { sHoe 0 (2 ^ 11) { Hoe.reset with stopping := true, grid := some (carP 0) } [] with pwmOn := true }
     pwmRuns s = true ∧ onGrid s 3 31 1 = true ∧ onGrid s 3 31 0 = false ∧ hSheared s 3 31 = false ∧ hRunning s 3 31 = true ∧ (hoeAt s 3 31).stopping = true ∧ (hoeAt s 3 31).g = 0) ∧
    -- a latch whose rearm was accepted, of a disabled Hoe
    (let s := { sHoe 0 (2 ^ 12) { Hoe.reset with rearm := true } [] with pwmOn := true }
     domUp s (domRow 3) = true ∧ (hoeAt s 3 31).rearm = true ∧ pwmRuns s = true ∧ onGrid s 3 31 0 = true ∧ hSheared s 3 31 = true ∧
      hRunning s 3 31 = false ∧ hEn s 3 31 = false) ∧
    (let s := setRail 15 { f := 0, lost := false, thr := 64 } (sHoe 1 0 Hoe.reset [])
     domUp s (domRow (15 / 4)) = true ∧ regB s pgRail (rB 15) 0 = true ∧ 0 < min 64 (getF (railAt s 15).thr 0 7) ∧
      min 64 (getF (railAt s 15).thr 0 7) ≤ (64 : Fin 65).val ∧ hRail s 3 31 = 15 ∧ hEn s 3 31 = true) ∧
    (let s := sHoe (1 + 2 ^ 33 + 2 ^ 34) 0 { Hoe.reset with shear := 32 } []
     domUp s (domRow 3) = true ∧ hEn s 3 31 = true ∧ hSheared s 3 31 = false ∧ bit (hCfg s 3 31) 33 = true ∧
      bit (hCfg s 3 31) 34 = true ∧ min 32 (getF (hoeAt s 3 31).shear 0 6) = 32) ∧
    (let s := st []
     regGate s .graft pgRail (rB 15) = .ok ∧ railFollowed s 15 = false ∧ bit (wd 0) 0 = false ∧ railCellOk s 15 0 = false) := by
  refine ⟨?_, ?_, ?_, ?_, ?_, ?_⟩ <;> decide +kernel

/-! ## Witnesses: the host's accesses and queues -/

/-- The link is up, the BAR2 window starts at `base`; further registers. -/
def sHost (base : Nat) (more : List (Nat × Nat × Nat)) : State := st ((pgPcie, 0x010, 2 ^ 4) :: (pgHost, 0x01D, base) :: more)

theorem hostReads (s : State) (a : Nat) (b : Bool) (h : regionOf a = .shed b ∧ outGate s .host false a = .ok ∧ ueAt s a = false) :
    HostReads s a := ⟨⟨b, h.1⟩, h.2⟩
theorem hostWrites (s : State) (src a : Nat) (b : Bool)
    (h : regionOf a = .shed b ∧ outGate s .host true a = .ok ∧ bootDiscards s src a = false) : HostWrites s src a := ⟨⟨b, h.1⟩, h.2⟩

theorem wit_HostDirectAccess :
    (let s := sHost 0x04200000 []
     domSt s domLink = .run ∧ regB s pgPcie 0x010 4 = true ∧ s.barHeld = none ∧ HostReads s (0x04200000 + 2097151) ∧
      HostWrites s 1 0x04000000) ∧
    (let s := { sHost 0x04000000 [] with barHeld := some (0x04000000, 5, 0), now := 2 }
     s.barHeld = some (regF s pgHost 0x01D 0 34 + 0, 5, 0) ∧ HostWrites s 1 0x04000000 ∧ 0 + 2 ≤ s.now) ∧
    (let s := sHost 0 []
     outGate s .host false (0x08000000 + (pgPcie * 1024 + 0x010)) = .ok ∧ outGate s .host true (0x08000000 + (pgQspi * 1024 + 1023)) = .ok ∧
      pgQspi * 1024 + 1023 < 524288) ∧
    (let s := sHost 0 [(pgEth 1, 0x011, 1)]
     (∀ k, k < 2 → HostReads s (0x041BFFFE + k)) ∧ (∀ k, k < 2 → HostWrites s 0 (0x041BFFFE + k) ∧ HostWrites s 2 (0x041BFFFE + k)) ∧
      frameOk s { hf with mac := 1, src := 0, addr := 0x041BFFFE } = true) ∧
    -- an uncorrectable word beside a good one
    (let s := { sHost 0 [] with ue := [0x041BFFFF] }
     (∀ k, k < 2 → HostSees s (0x041BFFFE + k)) ∧ ∃ k, k < 2 ∧ ueAt s (0x041BFFFE + k) = true) ∧
    (let s := { sHost 0 [(pgPcie, 0x010, 2 ^ 4 + 2 ^ 5)] with msixPend := [63] }
     regB s pgPcie 0x010 4 = true ∧ 63 ∈ s.msixPend ∧ regB s pgPcie 0x010 5 = true ∧
      (4 * 63 + 3 : Fin 2048).val = 4 * 63 + 3 ∧ (1025 : Fin 2048).val = 1024 + 63 / 32) := by
  refine ⟨⟨by decide, by decide, by decide, hostReads _ _ true (by decide), hostWrites _ _ _ false (by decide)⟩,
    ⟨by decide, hostWrites _ _ _ false (by decide), by decide⟩, by decide, ⟨fun k h => ?_, fun k h => ?_, by decide⟩,
    ⟨fun k h => ?_, 1, by decide, by decide⟩, by decide⟩
  · match k, h with
    | 0, _ => exact hostReads _ _ false (by decide)
    | 1, _ => exact hostReads _ _ false (by decide)
  · match k, h with
    | 0, _ => exact ⟨hostWrites _ _ _ false (by decide), hostWrites _ _ _ false (by decide)⟩
    | 1, _ => exact ⟨hostWrites _ _ _ false (by decide), hostWrites _ _ _ false (by decide)⟩
  · match k, h with
    | 0, _ => exact ⟨⟨false, by decide⟩, by decide⟩
    | 1, _ => exact ⟨⟨false, by decide⟩, by decide⟩

/-- A live queue pair of two entries with two landing slots. -/
def hq0 : HQ := { HQ.reset with sqLive := true, cqLive := true, sqSize := 2, cqSize := 2, landn := 2, hopper := 5 }

/-- A slot in a state. -/
def hs (opc : Nat) (x : HSt) : HSlot :=
  { slot := 1, opc := opc, pri := 15, dir := true, cid := 9, dptr := 0, dlen := 4, st := x, eff := .none }

/-- The host interface enabled, queue `q` as `x`. -/
def sHq (q : Nat) (x : HQ) : State :=
  setHq q x (st [(pgHost, 0x010, 1), (pgHop 5, hopBase 5, 16), (pgPcie, 0x010, 2 ^ 4 + 2 ^ 5), (pgHost, 7, 0)])

theorem wit_HostQueueFlow :
    (let s := sHq 64 hq0
     regGate s .host pgHost (0x100 + 4 * 64) = .ok ∧ (hqAt s 64).sqLive = true ∧ (1 : BitVec 12).toNat < (hqAt s 64).sqSize ∧
      (hqAt s 64).sqSize ≤ (2 : BitVec 12).toNat ∧ regGate s .host pgHost (0x101 + 4 * 64) = .ok ∧ (hqAt s 64).cqLive = true ∧
      (0 + 2 - (hqAt s 64).cqTail) % 2 ≤ ((hqAt s 64).cqHead + 2 - (hqAt s 64).cqTail) % 2 ∧
      ¬ (1 + 2 - (hqAt s 64).cqTail) % 2 ≤ ((hqAt s 64).cqHead + 2 - (hqAt s 64).cqTail) % 2) ∧
    (let s := sHq 64 { hq0 with sqHead := 1 }; fetchNext s = some 64 ∧ hostIface s = 0) ∧
    (let s := sHq 64 { hq0 with slots := [hs 0 .reading] }
     hostEn s = true ∧ domUp s domLink = true ∧ readingSlot s 64 = some (0, hs 0 .reading) ∧ (List.replicate 64 (0 : Byte)).length = 64 ∧
      entryCheck s 64 (List.replicate 64 0) ≠ 0 ∧ entryCheck s 64 (0x40 :: List.replicate 63 0) = 0 ∧
      numAt (0x40 :: List.replicate 63 0) 16 4 = 0) ∧
    (let s := { sHq 64 { hq0 with slots := [hs 0 (.copying 0)] } with now := 50000 }
     readingSlot s 64 = some (0, hs 0 (.copying 0)) ∧ 0 + 50000 ≤ s.now) ∧
    (let s := sHq 64 { hq0 with slots := [hs 0x40 .ready] }
     findPos (fun e => decide (e.st = .ready)) (hqAt s 64).slots = some 0 ∧ (hs 0x40 .ready).slot < 64 ∧ (hs 0x40 .ready).pri < 16 ∧
      domUp s domTrel = true ∧ (hqAt s 64).hopper < 254 ∧ hopSlots s 5 ≠ 0 ∧ hopFull s 5 = false) ∧
    (let s := sHq 64 { hq0 with slots := [hs 0x40 .handed] }
     regGate s .graft pgHost 0x01B = .ok ∧
      findPos (fun e => decide (e.slot = 1) && decide (e.st = .handed)) (hqAt s 64).slots = some 0 ∧
      findPos (fun e => decide (e.slot = 0) && decide (e.st = .handed)) (hqAt s 64).slots = none ∧ 0 ∉ (hqAt s 64).orphans) ∧
    (let s := sHq 64 { hq0 with slots := [hs 0x40 (.writing 0 7)] }
     findPos (fun e => match e.st with | .writing _ _ => true | _ => false) (hqAt s 64).slots = some 0 ∧ hostIface s = 0) ∧
    (let s := sHq 64 { hq0 with slots := [hs 0x40 (.finished 0 7)] }
     hostEn s = true ∧ domUp s domLink = true ∧ (hqAt s 64).held = [] ∧ (hqAt s 64).slots = [hs 0x40 (.finished 0 7)] ∧
      ((hqAt s 0).slots.any slotWaits) = false ∧ ((hqAt s 64).cqHead + 1) % max 1 (hqAt s 64).cqSize ≠ (hqAt s 64).cqTail) ∧
    (let s := sHq 64 { hq0 with slots := [hs 0x40 (.finished 0 7)], cqHead := 1 }
     ((hqAt s 64).cqHead + 1) % max 1 (hqAt s 64).cqSize = (hqAt s 64).cqTail) ∧
    (∀ m b : Bool, let s := { sHq 64 { hq0 with window := some (0, b), vec := some 63 } with msixTab := [(63, { addr := 0, data := 0, mask := m })] }
     (hqAt s 64).window = some (0, b) ∧ 0 ≤ s.now ∧ (hqAt s 64).cqLive = true ∧ (hqAt s 64).vec = some 63 ∧ hostIface s = 0 ∧
      msixOk s = true ∧ (Tbl.get (fun _ => MsixEnt.reset) s.msixTab 63).mask = m) := by
  refine ⟨?_, ?_, ?_, ?_, ?_, ?_, ?_, ?_, ?_, ?_⟩ <;> decide +kernel

/-- An admin entry without data. -/
def ha (opc : Nat) : HSlot := { hs opc .exec with dlen := 0 }

/-- Queue 0 executes the entry of slot 1 with opcode `opc`, naming queue `q` and size `n`, its words 7 to 9 `ws`. -/
def sAdm (opc q n : Nat) (ws : List Nat) (x : HQ) : State :=
  wM ([(0x04000016, q + 2 ^ 16 * n)] ++ ws.zipIdx.map fun e => (0x04000017 + e.2, e.1))
    (setHq 0 { hq0 with slots := [ha opc] } (sHq q x))

theorem wit_HostQueueAdmin :
    let turn := fun (s : State) (opc : Nat) => adminTurn s opc = some (0, ha opc)
    (let s := sAdm 3 64 4096 [0xFF] HQ.reset
     turn s 3 ∧ slotNum s (hqAt s 0) 1 24 2 = 64 ∧ slotNum s (hqAt s 0) 1 26 2 = 4096 ∧ (hqAt s 64).cqLive = false) ∧
    (let s := sAdm 3 1 2 [0xFF] HQ.reset
     turn s 3 ∧ createCq s (ha 3) = (0, .createCq 1 0 2 none 0 0)) ∧
    (let s := sAdm 3 1 1 [0xFF] HQ.reset; turn s 3 ∧ (hqAt s 1).cqLive = false ∧ slotNum s (hqAt s 0) 1 26 2 < 2) ∧
    (let s := sAdm 3 65 4097 [0xFF] HQ.reset; turn s 3 ∧ 64 < slotNum s (hqAt s 0) 1 24 2 ∧ 4096 < slotNum s (hqAt s 0) 1 26 2) ∧
    (let s := sAdm 1 1 2 [5 + 3 * 2 ^ 16, 0x1000, 1] { HQ.reset with cqLive := true }
     turn s 1 ∧ (createSq s (ha 1)).1 = 0) ∧
    -- the conditions of CREATE_SQ one by one, its landing region just below the Nursery's, and a size of one
    (∀ n ∈ [1, 2, 4096], let s := sAdm 1 64 n [5 + 3 * 2 ^ 16, 0x1BFFF0, 1] { HQ.reset with cqLive := true }
     let f := slotNum s (hqAt s 0) 1
     turn s 1 ∧ f 24 2 = 64 ∧ f 26 2 = n ∧ (hqAt s 64).sqLive = false ∧ (hqAt s 64).cqLive = true ∧ hostIface s = 0 ∧
      (ha 1).dptr % 64 = 0 ∧ (ha 1).dlen = 0 ∧ f 28 1 < 254 ∧ hopSlots s (f 28 1) ≠ 0 ∧ f 29 1 < 8 ∧ f 30 1 = 3 ∧ f 31 1 = 0 ∧
      f 36 1 = 1 ∧ f 38 2 ≤ 1024 ∧ f 32 4 + f 36 1 * (16 + f 38 2) = 0x1C0000 ∧
      ((List.range 65).all fun p => !(hqAt s p).sqLive ||
        decide ((hqAt s p).land + (hqAt s p).landn * (16 + (hqAt s p).dbufw) ≤ f 32 4)) = true) ∧
    (let s := sAdm 1 1 2 [] HQ.reset; turn s 1 ∧ (hqAt s 1).cqLive = false) ∧
    (let s := sAdm 2 64 0 [] { hq0 with slots := [hs 0x40 .handed] }; turn s 2 ∧ (hqAt s 64).sqLive = true ∧ (hqAt s 64).slots ≠ []) ∧
    (let s := sAdm 2 1 0 [] hq0; turn s 2 ∧ (hqAt s 1).sqLive = true ∧ (hqAt s 1).slots = [] ∧ (hqAt s 1).held = []) ∧
    (let s := sAdm 4 1 0 [] hq0; turn s 4 ∧ (hqAt s 1).cqLive = true ∧ (hqAt s 1).sqLive = true) ∧
    (let s := sAdm 4 0 0 [] hq0; turn s 4 ∧ (hqAt s 0).cqLive = true ∧ (hqAt s 0).sqLive = true) ∧
    (let s := sAdm 4 64 0 [] { hq0 with sqLive := false }; turn s 4 ∧ (hqAt s 64).cqLive = true ∧ (hqAt s 64).sqLive = false) ∧
    (let s := st [(pgHost, 0x012, 1 + 2 ^ 8)]
     regGate s .graft pgHost 0x010 = .ok ∧ hostEn s = false ∧ hostCanEnable s = true ∧ hostBusy s = false ∧
      hostBusy (setHq 64 { HQ.reset with orphans := [3] } s) = true ∧ hostCanEnable (st [(pgHost, 0x012, 0)]) = false) ∧
    hostEn (sHq 1 hq0) = true := by
  refine ⟨?_, ?_, ?_, ?_, ?_, ?_, ?_, ?_, ?_, ?_, ?_, ?_, ?_, ?_⟩ <;> decide +kernel

/-! ## Witnesses: Ethernet -/

/-- MAC 1 enabled with its link up, further registers. -/
def sEth (more : List (Nat × Nat × Nat)) : State := st ([(pgEth 1, 0x010, 1), (pgEth 1, 0x011, 1), (pgEth 1, 7, 0)] ++ more)

/-- Stream number 127 of MAC 1's listeners, of 16-bit mono frames of one sample at 8 kHz into 16 words. -/
def strmV : Nat := 1 + 2 ^ 16 + 2 ^ 20

theorem wit_EthernetFrames :
    (let s := sEth [(pgEth 1, 0x018, 1), (pgEth 1, 0x0C8, 3)]
     ethOn s 1 = true ∧ frameClass s 1 0x0800 0 = none ∧ frameClass s 1 0x88B6 0 = some 2 ∧ ptpOn s 1 = true ∧
      regB s (pgEth 1) 0x0C8 0 = true ∧ regB s (pgEth 1) 0x0C8 1 = true) ∧
    -- a CRF PDU of TSI 48, first a tick before it may come
    (∀ n ∈ [3999, 4999, 5000], let s := { sEth [(pgEth 1, 0x0C8, 3 + 2 ^ 3 * 48)] with pllRuns := true, now := n }
      let ticks := crfTicks (reg s (pgEth 1) 0x0C8)
      decide (s.pllRuns = true ∧ (macAt s 1).crfDue ≤ s.now + 1 ∧ s.pllFrom + ticks (5 * 48) ≤ s.now + 1) = decide (n ≠ 3999)) ∧
    (let s := sEth [(pgEth 1, 0x0C8, 1), (pgEth 1, 0x0C9, 7)]; frameClass s 1 0x22F0 7 = some 80) ∧
    -- a better master heard a tick less than three seconds ago, and three seconds ago; sync intervals due and not
    (∀ n ∈ [2999999, 3000000],
     let s := { setMac 1 { Mac.reset with master := some 0, syncWait := true, syncAt := some 0, annAt := some 2000000 }
       (sEth [(pgEth 1, 0x018, 1 + 2 ^ 1 * 246)]) with now := n }
     ptpOn s 1 = true ∧ (macAt s 1).master = some 0 ∧ decide (s.now < 0 + 3000000) = decide (n = 2999999) ∧
      (macAt s 1).syncWait = true ∧ (245 : BitVec 8).toNat < regF s (pgEth 1) 0x018 1 8 ∧
      (246 : BitVec 8).toNat = regF s (pgEth 1) 0x018 1 8 ∧ (macAt s 1).syncAt = some 0 ∧
      0 + 1000000 / 2 ^ min 5 (regF s (pgEth 1) 0x018 9 3) ≤ s.now ∧
      decide (2000000 + 1000000 ≤ s.now) = decide (n = 3000000)) ∧
    (let s := { setMac 1 { Mac.reset with syncAt := some 0 } (sEth [(pgEth 1, 0x018, 1 + 2 ^ 9 * 3)]) with now := 124999 }
     ptpOn s 1 = true ∧ (macAt s 1).syncAt = some 0 ∧ s.now < 0 + 1000000 / 2 ^ min 5 (regF s (pgEth 1) 0x018 9 3)) ∧
    (let s := setMac 1 { Mac.reset with gapEnd := 5 } (sEth [])
     ethOn s 1 = true ∧ wireAt s (0 : Fin 1000) (4 : Fin 10) < (macAt s 1).gapEnd ∧
      (macAt s 1).gapEnd ≤ wireAt s (0 : Fin 1000) (5 : Fin 10)) ∧
    (let k := strmNo 1 false 63
     let s := setStrm k { Strm.reset with sched := [(2 ^ 31 + 5, [7]), (0, [8])], expect := some 255 }
       (sEth [(pgEth 1, strmB false 63, strmV)])
     let now := ptpNow s 1 999 % 2 ^ 32
     domUp s domLink = true ∧ bit (strmCfg s 1 false 63) 0 = true ∧ now = 999 ∧ (now + 2 ^ 32 - 0) % 2 ^ 32 < 2 ^ 31 ∧
      2 ^ 31 ≤ (now + 2 ^ 32 - 2147483653) % 2 ^ 32 ∧
      -- a frame that fits, in sequence, and one 128 numbers ahead
      (0 = getF (strmCfg s 1 false 63) 3 2 ∧ (16 = fmtBits 0 ∧ 24 = fmtBits 1) ∧ 1 = getF (strmCfg s 1 false 63) 5 5 + 1 ∧ 1 = getF (strmCfg s 1 false 63) 16 4 ∧
        [5].length = 1 * (getF (strmCfg s 1 false 63) 10 6 + 1)) ∧
      ((255 : BitVec 8).toNat + 256 - 255) % 256 = 0 ∧ ((127 : BitVec 8).toNat + 256 - 255) % 256 = 128 ∧
      ((7 : BitVec 8).toNat + 256 - 255) % 256 = 8 ∧ ((8 : BitVec 8).toNat + 256 - 255) % 256 = 9) ∧
    (let s := sEth [(pgEth 1, strmB true 63, strmV), (pgEth 1, 0x019, 2), (pgDev, 0x051, 1)]
     strmRuns s 1 true 63 = true ∧ (fifoAt s (strmKey (strmNo 1 true 63))).length < 1 ∧
      (1 ≤ (fifoAt (setFifo (strmKey (strmNo 1 true 63)) [5] s) (strmKey (strmNo 1 true 63))).length) ∧
      usesA (getF (strmCfg s 1 true 63) 27 3) = false) := by
  refine ⟨?_, ?_, ?_, ?_, ?_, ?_, ?_, ?_⟩ <;> decide +kernel

theorem wit_EthernetSettings :
    -- the shortest and the longest cycle; an entry that is due, the last one, and one after the cycle's end
    (∀ cyc ∈ [1000, 1000000000], let s := sEth [(pgEth 1, 0x020, 1), (pgEth 1, 0x021, cyc)]
     domUp s domLink = true ∧ regB s (pgEth 1) 0x020 0 = true ∧ regF s (pgEth 1) 0x021 0 30 = cyc ∧
      (reg s (pgEth 1) 0x022).toNat * 1000000000 + (reg s (pgEth 1) 0x023).toNat ≤ ptpNow s 1 999 ∧ (macAt s 1).cycle = none) ∧
    -- a cycle that starts after SWAP was written, and in the same nanosecond
    (∀ n ∈ [1000, 999], let s := { setMac 1 { Mac.reset with cycle := some 0, swap := some 999 } (sEth [(pgEth 1, 0x020, 1), (pgEth 1, 0x021, 1000)]) with
        now := 1 }
     decide (∃ t ∈ (macAt s 1).swap, t < n) = decide (n = 1000)) ∧
    (let s := setMac 1 { Mac.reset with cycle := some 0 } (sEth [(pgEth 1, 0x020, 1), (pgEth 1, 0x021, 1000)])
     ptpNow s 1 999 / regF s (pgEth 1) 0x021 0 30 = 0 ∧ (macAt s 1).cycle = some 0) ∧
    (∀ e ∈ [(0, 2, 999), (1, 2, 999), (0, 2, 1000)],
     let s := setMac 1 { Mac.reset with cycle := some 0, entry := e.1 }
       (sEth [(pgEth 1, 0x020, 1 + 2 ^ 2 * e.2.1), (pgEth 1, 0x021, 1000), (pgEth 1, 0x040, 2 ^ 3 * e.2.2), (pgEth 1, 0x041, 8)])
     (macAt s 1).cycle = some 0 ∧
      decide ((macAt s 1).entry + 1 < gclCount s 1 (regB s (pgEth 1) 0x020 1) ∧
        (macAt s 1).entAt + regF s (pgEth 1) (0x040 + (macAt s 1).entry) 3 32 < 0 + regF s (pgEth 1) 0x021 0 30 ∧
        (macAt s 1).entAt + regF s (pgEth 1) (0x040 + (macAt s 1).entry) 3 32 ≤ ptpNow s 1 999) = decide (e = (0, 2, 999))) ∧
    (let s := sEth []
     regB s (pgEth 1) 0x020 0 = false ∧
      regGate s .host (pgEth 1) 0x024 = .ok ∧ regGate s .host (pgEth 1) 0x018 = .ok ∧ regGate s .host (pgEth 1) 0x01A = .ok ∧
      regGate s .host (pgEth 1) 0x015 = .ok ∧ regGate s .host (pgEth 1) 0x014 = .ok) ∧
    (let s := sEth [(pgEth 0, 0x018, 1)]
     bit (wd 1) 0 = true ∧ regB s (pgEth 1) 0x018 0 = false ∧ regB s (pgEth (1 - 1)) 0x018 0 = true) ∧
    -- the two idle slopes together at and just over three quarters of the rate
    (let s := sEth [(pgEth 1, 0x014, 7499999)]
     4 * (getF (wd 1) 0 32 + regF s (pgEth 1) 0x014 0 32) ≤ 3 * portRate s 1 ∧
      3 * portRate s 1 < 4 * (getF (wd 2) 0 32 + regF s (pgEth 1) 0x014 0 32)) ∧
    (let s := sEth [(pgEth 1, strmB true 63, strmV)]
     regGate s .host (pgEth 1) (strmB true 63) = .ok ∧ bit (strmCfg s 1 true 63) 0 = true ∧
      strmFixed (wd 4) ≠ strmFixed (strmCfg s 1 true 63)) ∧
    (let s := sEth []
     bit (strmCfg s 1 false 63) 0 = false ∧ 64 < getF (wd (65 * 2 ^ 20)) 20 7 ∧ ¬ 64 < getF (wd (64 * 2 ^ 20)) 20 7 ∧
      ¬ ethFree s 1 + strmDepth s 1 false 63 < 16 * 64 ∧ getF (wd (5 * 2 ^ 27)) 27 3 < 6 ∧
      strmCanEnable s false (wd strmV) = true ∧ strmCanEnable s false 1 = false) ∧
    (let s := st []
     regGate s .graft pgDev 0x050 = .ok ∧ apllOn s = false ∧ apllUsed s = false) ∧
    (let s := st [(pgDev, 0x050, 8), (pgDev, 0x051, 1)]
     apllOn s = true ∧ apllUsed s = false ∧ pllLock s = true ∧ (0 : BitVec 2).toNat = regF s pgDev 0x050 0 2) ∧
    (let s := sEth [(pgEth 1, strmB true 63, strmV), (pgDev, 0x050, 8)]; apllOn s = true ∧ apllUsed s = true ∧ pllLock s = false) ∧
    -- each source's reference, and its absence, at the first tick a lock to it may come
    (∀ e ∈ [(0, 0, 0, true), (1, 0, 0, true), (2, 1, 0, true), (2, 2, 0, true), (2, 0, 0, false), (3, 0, 12001, true), (3, 0, 12000, false)],
     let s := { setMac 1 { Mac.reset with crfAt := some e.2.2.1 }
       (st [(pgDev, 0x050, e.1 + 4 + 8), (pgEth 0, 0x019, e.2.1)]) with now := 16000, refSince := some 0, refLast := 12000 }
     apllOn s = true ∧ pllLock s = false ∧ s.apllFrom + 16000 ≤ s.now ∧ s.refSince = some 0 ∧ 0 + 16000 ≤ s.now ∧
      s.refLast + 4000 ≤ s.now ∧ s.now = 16000 ∧ regF s pgDev 0x050 0 2 = e.1 ∧
      ((e.1 = 2 → ptpGood s = true) ∧ (e.1 = 3 → e.2.2.1 + 4000 > s.now) ↔ e.2.2.2 = true) ∧ (macAt s 1).crfAt = some e.2.2.1 ∧
      regB s pgDev 0x050 2 = true) := by
  refine ⟨?_, ?_, ?_, ?_, ?_, ?_, ?_, ?_, ?_, ?_, ?_, ?_, ?_⟩ <;> decide +kernel

/-! ## Witnesses: power -/

/-- Domain `d` in a state, sequencer as `p`. -/
def sPwr (d : Nat) (x : DomSt) (p : Pwr) (more : List (Nat × Nat × Nat)) : State := { setDom d x (st more) with pwr := p }

/-- The same after the launch, so that no boot holds a domain. -/
def sUp (d : Nat) (x : DomSt) (p : Pwr) (more : List (Nat × Nat × Nat)) : State := sPwr d x p ((pgBoot, 0x010, 3) :: more)

theorem found {α : Type} (l : Tbl α) (d : Nat) (v : α) (h : Tbl.find? l d = some v) : ∃ e ∈ l, e.2 = v := by
  induction l with
  | nil => cases h
  | cons e l ih =>
    obtain ⟨k, w⟩ := e
    simp only [Tbl.find?] at h
    split at h
    · exact ⟨(k, w), List.mem_cons_self, Option.some.inj h⟩
    · obtain ⟨e, he, hv⟩ := ih h
      exact ⟨e, List.mem_cons_of_mem _ he, hv⟩

theorem stopsAgree_of (s : State) (h : s.dom.all (fun e => decide (e.2 ≠ .stopping)) = true) (hq : s.pwr.cmdQ = []) :
    StopsAgree s := by
  refine ⟨fun d hd => ?_, hq⟩
  unfold domSt Tbl.get at hd
  split at hd
  · next v hv =>
    obtain ⟨e, he, hv'⟩ := found _ _ _ hv
    have := of_decide_eq_true (List.all_eq_true.mp h e he)
    exact absurd (hv'.trans hd) this
  · cases hd

/-- A stop command of a kind and mask that has begun its last domain. -/
def pc (kind mask : Nat) : PwrCmd := { kind := kind, mask := mask, todo := [], entry := none, told := false }

/-- Every domain but LINK in Stop. -/
def sLinkLeft (p : Pwr) : State := (List.range 23).foldl (fun s d => setDom d .stop s) (sUp domLink .run p [])

theorem wit_StopAndRun :
    -- PWR_STOP of a row, refused while it has an enabled cell, and with all it names in Stop already
    (let s := sUp 16 .run Pwr.reset []
     inReset s = false ∧ s.pwr.cmd = none ∧ refuseMask s (2 ^ 16) false = none ∧
      (restoreOrder.reverse.filter fun d => decide (2 ^ 16 / 2 ^ d % 2 = 1) && decide (domSt s d ≠ .stop)) = [16]) ∧
    (let s := sUp 16 .run Pwr.reset [(pgRowp 0, cB 0, 1 + 2 ^ 34)]
     (refuseMask s (2 ^ 16) false).isSome = true ∧ (refuseMask s 0xFFFFFF true).isSome = true) ∧
    (let s := sUp 16 .stop Pwr.reset []
     refuseMask s (2 ^ 16) false = none ∧
      (restoreOrder.reverse.filter fun d => decide (2 ^ 16 / 2 ^ d % 2 = 1) && decide (domSt s d ≠ .stop)) = []) ∧
    -- a stop of another row while one is under way
    (let s := sUp 17 .stopping { Pwr.reset with cmd := some (pc 0 (2 ^ 17)), stopping := some (17, 0, none) } []
     s.pwr.cmd.isSome = true ∧ refuseMask s (2 ^ 16) false = none) ∧
    (inReset (st []) = false ∧ inReset State.reset = true ∧ inReset { st [] with vcoreLow := true } = true) ∧
    -- a drain with nothing outstanding, with a write withheld in its plot, and refused
    (let s := sUp 16 .stopping { Pwr.reset with cmd := some (pc 0 (2 ^ 16)), stopping := some (16, 0, none) } []
     refuses s (fun x => decide ((pc 0 (2 ^ 16)).mask / 2 ^ x % 2 = 1)) (decide ((pc 0 (2 ^ 16)).kind = 2)) true 16 = none ∧
      (refuses (setReg (pgRowp 0) (cB 0) (wd (1 + 2 ^ 34)) s) (fun x => decide ((pc 0 (2 ^ 16)).mask / 2 ^ x % 2 = 1)) false true 16).isSome =
        true ∧ stillOut s 16 = false ∧ s.now < 0 + 64 ∧ ¬ ({ s with now := 64 }.now < 0 + 64) ∧
      (pc 0 (2 ^ 16)).told = false ∧ s.pwr.cmdQ = []) ∧
    (let s := { sUp 15 .stopping { Pwr.reset with stopping := some (15, 0, none) } [] with withheld := [(.direct (.tine 0), 15, 5)] }
     stillOut s 15 = true ∧ stillOut s 16 = false) ∧
    (∀ n ∈ [0, 0x08F, 0x100, 0x17F, 0x200, 0x303, 0x350], srcListed n = true) ∧ (∀ n ∈ [0x090, 0x180, 0x304, 0x3FF], srcListed n = false) ∧
    (∀ n ∈ [4, 5], let s := { sUp 16 .closing { Pwr.reset with cmd := some (pc 0 (2 ^ 16)), stopping := some (16, 0, some 0) } [] with now := n }
     s.pwr.cmd = some (pc 0 (2 ^ 16)) ∧ s.pwr.stopping = some (16, 0, some 0) ∧ s.pwr.cmdQ = [] ∧ decide (0 + 5 ≤ s.now) = decide (n = 5)) := by
  refine ⟨?_, ?_, ?_, ?_, ?_, ?_, ?_, ?_, ?_, ?_⟩ <;> decide +kernel

/-- LINK, the last domain of a device Stop, past its commit point, with a request `w` made since then or a wake `k`. -/
def sLast (w : List Nat) (k : Bool) : State :=
  { sUp domLink .closing { Pwr.reset with cmd := some (pc 2 0xFFFFFF), stopping := some (domLink, 0, some 0), want := w, woken := k }
      [(pgPwr, 0x015, 2 ^ 24)] with now := 5 }

theorem wit_DeviceStop :
    -- with every domain running, and with LINK alone left
    (let s := sUp 16 .run Pwr.reset []
     refuseMask s 0xFFFFFF true = none ∧ (restoreOrder.reverse.filter fun x => decide (domSt s x ≠ .stop)).head? = some 15 ∧ 15 ≠ domLink) ∧
    (let s := sLinkLeft Pwr.reset
     refuseMask s 0xFFFFFF true = none ∧ s.pwr.cmd = none ∧
      (restoreOrder.reverse.filter fun x => decide (domSt s x ≠ .stop)) = [domLink]) ∧
    (∀ w ∈ [[], [16]], ∀ k ∈ [false, true], StopsAgree (sLast w k) ∧
      (sLast w k).pwr.cmd = some (pc 2 0xFFFFFF) ∧ (sLast w k).pwr.stopping = some (domLink, 0, some 0) ∧ 0 + 5 ≤ (sLast w k).now ∧
      (sLast w k).pwr.want = w ∧ (sLast w k).pwr.woken = k ∧ regB (sLast w k) pgPwr 0x015 24 = true) ∧
    -- the whole device goes into Stop, or not where a domain runs again
    (let s := setDom domLink .closing (sLinkLeft (sLast [] false).pwr); ∀ x ∈ List.range 23, domSt s x = .stop) ∧
    (domSt (sLast [] false) 16 = .run ∧ 16 ≠ domLink) := by
  refine ⟨?_, ?_, fun w hw k hk => ?_, ?_, ?_⟩
  · decide +kernel
  · decide +kernel
  · simp only [List.mem_cons, List.not_mem_nil, or_false] at hw hk
    rcases hw with rfl | rfl <;> rcases hk with rfl | rfl <;>
      exact ⟨stopsAgree_of _ (by decide) rfl, rfl, rfl, by decide, rfl, rfl, by decide +kernel⟩
  · decide +kernel
  · decide +kernel

theorem wit_RunRequests :
    let asleep := { Pwr.reset with devStop := true }
    (let s := sUp 16 .stop Pwr.reset []
     StopsAgree s ∧ inReset s = false ∧ (∃ d ∈ withDeps (2 ^ 16), domSt s d = .stop) ∧
      (∀ d ∈ withDeps (2 ^ 17), domSt s d = .run) ∧
      regGate s (.store 0 true true) pgPwr 0x012 = .ok ∧ wsOrGrant s (.store 0 true true) = true ∧ wsOrGrant s .host = false) ∧
    -- the host under a Walled grant with debug-wake, and without it
    (∀ b ∈ [true, false], let s := { sUp 16 .stop Pwr.reset [] with hostSess := { Session.reset with level := 2, debugWake := b } }
     wsOrGrant s .host = true ∧ regGate s .host pgPwr 0x012 = .ok ∧ s.hostSess.debugWake = b) ∧
    (let s := { sUp 23 .restoring { Pwr.reset with restoring := some (23, 180) } [] with now := 180 }
     StopsAgree s ∧ s.pwr.restoring = some (23, 180) ∧ 180 ≤ s.now ∧ { s with now := 179 }.now < 180) ∧
    (let s := { sUp 23 .stop asleep [(pgAon, 0x013, 0xF), (pgEth 0, 0x0CC, 3 + 2 ^ 2 * 9)] with wakeMac := (5, 6) }
     StopsAgree s ∧ s.pwr.devStop = true ∧ s.pwr.woken = false ∧ domSt s domLink = .stop ∧ wakeEnabled s (.chain true) = true ∧
      wakeEnabled s (.phyint 0) = true ∧ wakeEnabled s (.frame 0) = true ∧ wakeEnabled s (.frame 1) = false ∧
      (9 : BitVec 32).toNat = regF s (pgEth 0) 0x0CC 2 32 ∧ (5 : BitVec 48).toNat = s.wakeMac.1) ∧
    -- VCORE off; a wake that is not over; a wake before LINK has stopped
    (let s := sUp 23 .stop { asleep with off := true } []
     s.pwr.off = true ∧ s.pwr.wake = none ∧ domSt s domLink = .stop) ∧
    (sUp 23 .stop { asleep with woken := true } []).pwr.woken = true ∧
    (let s := sUp 23 .run { Pwr.reset with cmd := some (pc 2 0xFFFFFF) } [(pgAon, 0x013, 0xF)]
     StopsAgree s ∧ DeviceStopping s ∧ s.pwr.woken = false ∧ domSt s domLink ≠ .stop ∧ wakeEnabled s (.chain true) = true) ∧
    (let s := sUp 23 .stop Pwr.reset [(pgEth 1, 0x0CC, 2)]
     StopsAgree s ∧ s.pwr.devStop = false ∧ s.pwr.cmd = none ∧ s.pwr.woken = false ∧ domSt s domLink = .stop ∧
      wakeEnabled s (.phyint 1) = true) ∧
    (domSt (st []) domLink ≠ .stop ∧ ¬DeviceStopping (st [])) := by
  refine ⟨⟨stopsAgree_of _ (by decide) rfl, ?_⟩, ?_, ⟨stopsAgree_of _ (by decide) rfl, ?_⟩, ⟨stopsAgree_of _ (by decide) rfl, ?_⟩,
    ?_, ?_, ⟨stopsAgree_of _ (by decide) rfl, ⟨_, rfl, rfl⟩, ?_⟩, ⟨stopsAgree_of _ (by decide) rfl, ?_⟩,
    by decide, fun h => by obtain ⟨c, h, _⟩ := h; cases h⟩ <;> decide +kernel

theorem wit_VoltageAndTimeBase :
    (let s := sUp 16 .run { Pwr.reset with mode := some 8 } []
     inReset s = false ∧ s.pwr.cmd = none ∧ s.pwr.runs = [] ∧ s.pwr.volt = none ∧ s.pwr.mode.isSome = true ∧ bandNow s ≤ bandOf s.pwr.mv ∧
      apllOn s = false ∧ s.pwr.mv = 850 ∧ (450 : BitVec 16).toNat ≠ s.pwr.mv ∧ bandNow s ≤ bandOf 450 ∧ s.pwr.off = false) ∧
    (let s := sUp 16 .run { Pwr.reset with mode := some 15 } [(pgPwr, 0x016, 850 + 3 * 2 ^ 10)]
     s.pwr.mv = 850 ∧ bandOf 850 < bandNow s ∧ regB s pgPwr 0x017 1 = false) ∧
    (sUp 16 .run { Pwr.reset with runs := [(1, none)] } []).pwr.runs ≠ [] ∧
    (voutModeOk (0x17 : BitVec 8).toNat = true ∧ voutModeOk (0x16 : BitVec 8).toNat = true ∧ voutModeOk (0 : BitVec 8).toNat = false) ∧
    apllOn (sUp 16 .run Pwr.reset [(pgDev, 0x050, 8)]) = true ∧
    (let v : Volt := { target := 845, sent := some 0, phase := .step, entry := none }
     let s := { sUp 16 .run { Pwr.reset with volt := some v, stepAt := some 0 } [(pgPwr, 0x017, 2)] with now := 1000 }
     s.pwr.volt = some v ∧ regB s pgPwr 0x017 1 = true ∧ s.pwr.off = false ∧ s.pwr.stepAt = some 0 ∧ 0 + 1000 ≤ s.now ∧ v.phase = .step ∧
      { s with now := 999 }.now < 0 + 1000) ∧
    (let v : Volt := { target := 850, sent := some 0, phase := .ready, entry := some 3 }
     let s := sUp 16 .run { Pwr.reset with volt := some v } [(pgPwr, 0x015, 0)]
     s.pwr.volt = some v ∧ v.phase = .ready ∧ v.sent = some 0 ∧ s.now < 0 + 1000 * max 1 (regF s pgPwr 0x015 16 8) ∧
      0 + 1000 * max 1 (regF s pgPwr 0x015 16 8) ≤ { s with now := 1000 }.now) ∧
    (let s := sUp 16 .run Pwr.reset [(pgPwr, 0x017, 2)]; s.pwr.volt = none ∧ s.pwr.off = false ∧ regB s pgPwr 0x017 1 = true) ∧
    -- VREADY while VCORE is off, and at a wake; the settle time of each
    ((sUp 16 .run { Pwr.reset with off := true } []).pwr.wake = none ∧
      (sUp 16 .run { Pwr.reset with off := true, wake := some .ready } []).pwr.wake ≠ none) ∧
    (let s := sUp 16 .run { Pwr.reset with off := true, wake := some (.settle 0) } [(pgPwr, 0x015, 2 ^ 8)]
     s.pwr.wake = some (.settle 0) ∧ s.now < 0 + regF s pgPwr 0x015 8 8 ∧ 0 + regF s pgPwr 0x015 8 8 ≤ { s with now := 1 }.now) ∧
    (let v : Volt := { target := 850, sent := some 0, phase := .settle 0, entry := none }
     let s := sUp 16 .run { Pwr.reset with volt := some v } [(pgPwr, 0x015, 0)]
     s.pwr.wake = none ∧ s.pwr.volt = some v ∧ v.phase = .settle 0 ∧ 0 + regF s pgPwr 0x015 8 8 ≤ s.now) ∧
    (let s := st [(pgAon, 0x010, 1), (pgAon, 0x011, 1)]; regB s pgAon 0x010 0 = true ∧ regB s pgAon 0x011 0 = true) ∧
    (let s := st [(pgAon, 0x010, 0), (pgAon, 0x011, 0)]; regB s pgAon 0x010 0 = false ∧ regB s pgAon 0x011 0 = false) := by
  refine ⟨?_, ?_, ?_, ?_, ?_, ?_, ?_, ?_, ?_, ?_, ?_, ?_, ?_⟩ <;> decide +kernel

/-! ## Witnesses: boot and grafts -/

/-- A signed image of one ROOT section that puts one word of CODE on logical tine 0: its header, zeros, its manifest entry and
its section, as words of five bytes. -/
def imgHead : List Nat :=
  [0x144454553, 0x149000100, 0x0, 0xff, 0xe1f2d1176b, 0xbcf847422c, 0x40a463e5e6, 0x817d0377f2, 0xf4a033eb2d,
   0x98d84539a1, 0x42e34f96c2, 0x9b7f1afee2, 0x7c4aebe78e, 0xce2b169e0f, 0x5e316b5733, 0x6840b6cbce, 0x6bf551bf37,
   0x2ce1f2d117, 0xe6bcf84742, 0xf240a463e5, 0x2d817d0377, 0xa1f4a033eb, 0xc298d84539, 0xc202037496, 0xf7887f3671,
   0xb26a0f3b59, 0x180238ef96, 0xeb1196f4e8, 0xeb0db800f8, 0xa7d36]
def imgTail : List Nat :=
  [0x100, 0x19, 0x0, 0xb32a9d0000, 0x2ed81c330a, 0x268a38f6dd, 0x4b1a3e7c00, 0xe4e0064493, 0x2c00de6e36, 0x1f69f169c,
   0x100000000, 0x0, 0x0, 0x0, 0x0]
def imgMem : Tbl Word :=
  ((imgHead ++ List.replicate 21 0 ++ imgTail).zipIdx.map fun (e : Nat × Nat) => (rxBase + e.2, wd e.1)).filter
    fun (e : Nat × Word) => decide (e.2 ≠ 0)

/-- The image in the receive area, BOOT_STAT as `v`. -/
def sImg (v : Nat) : State := { st [(pgBoot, 0x010, v)] with mem := imgMem }

theorem seedCheck_congr (s s' : State) (base : Nat) (hm : s.mem = s'.mem) (ho : s.otp = s'.otp)
    (hl : s.boot.lc = s'.boot.lc) :
    seedCheck s base = seedCheck s' base := by
  have h : ∀ i, imgByte s base i = imgByte s' base i := fun i => by unfold imgByte memGet; rw [hm]
  have hb : ∀ i n, imgBytes s base i n = imgBytes s' base i n := fun i n => by unfold imgBytes; simp only [h]
  have hn : ∀ i n, imgNum s base i n = imgNum s' base i n := fun i n => by unfold imgNum; rw [hb]
  have he : ∀ k off, entryAt s base k off = entryAt s' base k off := fun k off => by unfold entryAt; simp only [hn, hb]
  have hes : ∀ n k off, entries s base n k off = entries s' base n k off := by
    intro n
    induction n with
    | zero => intros; rfl
    | succ n ih => intro k off; simp only [entries, he, ih]
  have hs : signedDigest s base = signedDigest s' base := by unfold signedDigest imgNsec; simp only [hb, hn]
  have hk : keyOk s base = keyOk s' base := by unfold keyOk; simp only [hb, hn, ho]
  have hh : headerOk s base = headerOk s' base := by unfold headerOk imgNsec imgZero; simp only [hb, hn]
  have hm' : manifestOk s base = manifestOk s' base := by
    unfold manifestOk imgNsec
    have : entryOk s base = entryOk s' base := by funext k; unfold entryOk imgZero; simp only [hn, he]
    simp only [hn, hes, this]
  unfold seedCheck imgNsec
  simp only [hh, hm', hk, hs, hb, hn, hes, ho, hl]

/-- The image's section as its manifest gives it. -/
def sect0 : Sect := entryAt (sImg 1) rxBase 0 304

def seed0 : Seed := { base := rxBase, total := 329, svn := 0, start := 0, init := 0xFF, sects := [sect0] }

theorem image_good : seedCheck (sImg 1) rxBase = .good seed0 := by decide +kernel
theorem image_section : sectOk (sImg 1) rxBase sect0 = true ∧ sect0.typ = 1 ∧ sect0.off + sect0.len = 329 := by decide +kernel

theorem wit_BootAndGrafts :
    -- the ROM is ready, with a return pending or not
    (let s := sImg 0; s.released = true ∧ s.vcoreLow = false ∧ s.pwr.devStop = false ∧ bootState s = 0 ∧ s.otp.retPending = false) ∧
    (let s := { sImg 0 with otp := { Otp.blank with lc := 2, retPending := true } }; s.otpOp = none ∧ s.otp.lc ≠ 3) ∧
    -- the length is written: too long, header not there yet, a good header, a bad one
    (let s := sImg 1
     bootState s = 1 ∧ bootLocked s = false ∧ 0 ∈ bootSources s.boot.sel ∧ s.boot.seed = none ∧ s.boot.applied = false ∧
      5242880 < getF (wd 5242881) 0 23 ∧ getF (wd 255) 0 23 < 256 ∧ bit (wd 255) 39 = false ∧ 1 ≤ imgNsec s rxBase ∧
      256 + 48 * imgNsec s rxBase ≤ 304 ∧ 304 < sect0.off + sect0.len) ∧
    (1 ∈ bootSources { (sImg 0).boot with sel := 7 }.sel) ∧
    -- two sources in one tick, and in two
    (∀ n ∈ [0, 1], let s := { sImg (1 + 2 ^ 16 + 2 ^ 3 * 2) with now := n, boot := { (sImg 1).boot with sel := 7, lockAt := 0 } }
     bootState s = 1 ∧ bootLocked s = true ∧ regF s pgBoot 0x010 3 2 = 2 ∧ srcBefore s.boot.sel 1 2 = true ∧
      1 ∈ bootSources s.boot.sel ∧ decide (s.boot.lockAt = s.now) = decide (n = 0) ∧ s.boot.seed = none) ∧
    seedCheck (st [(pgBoot, 0x010, 1)]) rxBase = .bad eFORMAT ∧
    -- a launch: the last ROOT section is there
    (let s := let s := sImg (2 + 2 ^ 16); { s with boot := { s.boot with seed := some seed0 } }
     let r := applySect (sect0.len + 1) true (some (imgRange seed0)) (sectWords s rxBase sect0)
       (setBootSect 0 (setReg pgBoot 0x011 (wd 329) s))
     bootState s = 2 ∧ bootLocked s = true ∧ regF s pgBoot 0x010 3 2 = 0 ∧ regF s pgBoot 0x011 0 23 ≤ 329 ∧
      s.boot.next = seed0.start ∧ seed0.sects.length = seed0.start + 1 ∧ r.1 = 0 ∧ bootState r.2 = 2 ∧
      r.2.boot.seed = some seed0 ∧ scionAt r.2 seed0.init = none ∧ r.2.boot.coded = [0]) ∧
    -- SEED_LOAD after the launch
    (let s := sImg 3
     graftBusy s = false ∧ graftBusy (sImg 1) = true ∧ 0x04000000 ≤ rxBase ∧ rxBase + (329 + 4) / 5 ≤ 0x04400000 ∧
      imgNsec s rxBase = 1 ∧ seed0.total = 329) ∧
    -- GRAFT and BOOT_GRAFT_GO
    (let s := sImg 3
     ((31 : BitVec 8).toNat ≤ 31 ∧ 1 ≤ (15 : BitVec 8).toNat ∧ (15 : BitVec 8).toNat ≤ 15) ∧ s.boot.root = none ∧
      scionAt s 31 = none ∧ regGate s .nursery pgBoot 0x013 = .ok ∧ Who.nursery ≠ .graft ∧ bit (wd 31) 5 = false) ∧
    -- the switch of an empty graft at a block boundary
    (∀ r ∈ [false, true], let g := Graft.mk r 0 1 true none [] [] [] []
     let s := let s := sImg 3; { s with pllRuns := true, now := blockTicks s, boot := { s.boot with graft := some g, root := some seed0 } }
     s.boot.graft = some g ∧ s.blkFrom + blockTicks s ≤ s.now + 1 ∧ (gridClk s).isSome = true ∧ g.block = 0 ∧ s.boot.root = some seed0 ∧
      regF s pgBoot 0x014 11 4 = 0) ∧
    -- sections awaited after the launch; the chain as a source of a device that is READY, and of one that is not
    (let s := let s := sImg (3 + 2 ^ 16 + 2 ^ 3 * 2)
       { s with boot := { s.boot with seed := some { seed0 with sects := [sect0, sect0] }, next := 1, sel := 7 } }
     bootLocked s = true ∧ regF s pgBoot 0x010 3 2 = 2 ∧ bootOpen s = true ∧ bootState s ≠ 1) ∧
    (chainReady (sPort 0xE0 0 Port.reset []) = true ∧ chainReady (sImg 1) = false) := by
  refine ⟨?_, ?_, ?_, ?_, ?_, ?_, ?_, ?_, ?_, ?_, ?_, ?_⟩ <;> decide +kernel

theorem wit_SeedChecks :
    seedCheck (sImg 1) rxBase = .good seed0 ∧ seedCheck (sImg 3) rxBase = .good seed0 ∧
    (∀ y ∈ seed0.sects, sectOk (sImg 3) rxBase y = true) ∧ seed0.sects[0]? = some sect0 :=
  ⟨image_good, (seedCheck_congr (sImg 3) (sImg 1) rxBase rfl rfl rfl).trans image_good, fun y hy => by
    rw [List.mem_singleton.mp hy]; exact image_section.1, rfl⟩

theorem wit_StagedGraft :
    let g : Graft := Graft.mk true 0 15 true none [] [] [] []
    let s := { sImg 3 with boot := { (sImg 3).boot with root := some { seed0 with sects := [] } } }
    let r := stageAll 0xFF g (setReg pgBoot 0x014 2 s)
    let v := wd (2 ^ 5 + 2 ^ 30 * 15)
    let r' := stageAll (getF v 0 5) (Graft.mk (bit v 5) (getF v 6 24) (max 1 (getF v 30 4)) false none [] [] [] [])
      (setReg pgBoot 0x014 2 (setReg pgBoot 0x013 (v &&& wd 0x3FFFFFFFF) s))
    inReset s = false ∧ (adminBegin 0x19 s).1 = none ∧ graftBusy s = false ∧ s.boot.root ≠ none ∧ r.1 = 0 ∧ r'.1 = 0 := by decide +kernel

/-! ## Witnesses: the Nursery, security, debug, gauges, resets -/

/-- Tine `t` as `x`, the Nursery's registers as `rs`. -/
def sNurs (t : Nat) (x : Tine) (rs : List (Nat × Nat)) : State := wT t x (st (rs.map fun e => (pgNurs, e.1, e.2)))

/-- WS code's stores. -/
def ws0 : Who := .store 0 true true

theorem wit_NurseryDecisions :
    (let s := { sNurs 142 go [(0x012, 1)] with now := 2 }
     regF s pgNurs 0x012 0 16 ≠ 0 ∧ (logOf s 142).isSome = true ∧ tineUp s 142 = true ∧ tineAliveNow s 142 = false ∧
      (tineAt s 142).lastAlive + 1 + 1 ≤ s.now ∧ (tineAt s 142).retired = false) ∧
    (let s := st []
     regGate s ws0 pgNurs 0x014 = .ok ∧ wsOrGrant s ws0 = true ∧ (143 : BitVec 8).toNat < 144 ∧ 144 ≤ (144 : BitVec 8).toNat ∧
      (tineAt s 143).retired = false ∧ wsOrGrant s .graft = false ∧ regGate s .graft pgNurs 0x014 = .ok) ∧
    -- REINSTATE of a retired tine whose plot has no spare, and has one, and while one is tested
    (let s := sNurs 143 { go with retired := true } [(0x0B4, 2 ^ 15), (0x0AF, 0)]
     regB s pgNurs (0x0B0 + 143 / 32) (143 % 32) = true ∧ s.reinst = none ∧ s.retireQ = [] ∧ spareOf s (143 / 9) = none) ∧
    (let s := sNurs 143 { go with retired := true } [(0x0B4, 2 ^ 15)]; spareOf s (143 / 9) ≠ none) ∧
    (let s := { sNurs 143 { go with retired := true } [(0x0B4, 2 ^ 15), (0x0AF, 0)] with reinst := some 143 }
     s.reinst = some 143 ∧ s.reinstQ = [] ∧ domUp s 0 = true ∧ spareOf s (143 / 9) = none ∧ vacantIn s (143 / 9) = none ∧
      vacantIn (setRegB pgNurs (0x020 + 127) 8 true s) (143 / 9) = some 127) ∧
    -- a replacement by the spare, one without a spare, and the retirement of a spare
    (∀ e ∈ [(142, 0x18F), (142, 0)], let s := { sNurs 142 { go with retired := true } [(0x0AF, e.2)] with retireQ := [(142, 5, 0)] }
      nextRetire s = some (142, 5, 0) ∧ s.leaseHeld = [] ∧ s.reinstQ = [] ∧ domUp s 0 = true ∧ logOf s 142 = some 127 ∧
        spareOf s (142 / 9) = (if e.2 = 0 then none else some 143) ∧ (tineAt s 143).retired = false ∧
        ueIn s (trayBase 142) 0x4000 = false ∧ (tineAt s 142).window = []) ∧
    -- a replacement that restores a checkpoint, and one without a copy
    (let s := { sNurs 142 { go with retired := true } [(0x0AF, 0x18F)] with
        retireQ := [(142, 5, 0)]
        ckpts := [(127, { ckptAt (st []) 127 with cur := some (CkptCopy.mk true true 0 [] []) })] }
     let c := setRegB (pgTine 142) oCKCFG 0 true s
     regB c (pgTine 142) oCKCFG 0 = true ∧ (ckptAt c 127).cur.isSome = true ∧ ueIn c (trayBase 142) 0x4000 = false ∧
      0x04F < 0x050 ∧ 0x04F ∈ cfgOffs ∧ regB s (pgTine 142) oCKCFG 0 = false) ∧
    (let s := { sNurs 143 { go with retired := true } [(0x0AF, 0x18F)] with retireQ := [(143, 5, 0)] }
     nextRetire s = some (143, 5, 0) ∧ logOf s 143 = none ∧ spareOf s (143 / 9) = some 143) ∧
    (let s := (List.range 16).foldl (fun s p => setDom p .stop s) (st []); ∀ p ∈ List.range 16, domUp s p = false) ∧
    (let s := wT 0 go (st [(pgTine 0, oCKCFG, 2 ^ 5 + 2 ^ 4 + 2 ^ 3), (pgTine 0, 0x04C, 2 ^ 15 * 808)])
     Ready s 0 ∧ tLvl s 0 = 0 ∧ ckptWords s 0 = 888 ∧
      888 < ckptWords (setReg (pgTine 0) 0x04C (wd (2 ^ 15 * 809)) s) 0 ∧ bit (wd (2 ^ 39)) 39 = true) ∧
    (∀ c ∈ [none, some (CkptCopy.mk true true 0 [] [])], let s := wT 0 { go with flight := some (.ckpt 0 false c [] [] 2) } (st [])
     (tineAt s 0).flight = some (.ckpt 0 false c [] [] 2) ∧ (tineAt s 0).sb = [] ∧ (tineAt s 0).drain = [] ∧ logOf s 0 = some 0) := by
  refine ⟨?_, ?_, ?_, ?_, ?_, ?_, ?_, ?_, ?_, ?_, ?_⟩ <;> decide +kernel

/-- Both sessions as `x`, OTP as `o` with `op` under way. -/
def sSec (x : Session) (o : Otp) (op : Option OtpOp) : State := { st [] with hostSess := x, probeSess := x, otp := o, otpOp := op }

/-- A level-2 grant with a nonce taken at tick 0 and `n` failures. -/
def sess (n : Nat) : Session := { level := 2, allowStop := true, debugWake := true, nonce := some (List.replicate 32 7, 0), fails := n }

/-- OTP of a production part with a key of each kind. -/
def otp1 : Otp := { Otp.blank with img := [(0, some [])], dbgO := some [], dbgW := some [] }

theorem wit_SessionsAndOtp :
    (∀ n ∈ [7, 8], (sessOf (sSec (sess n) .blank none) true).fails = n) ∧
    (SessReaches false (st []) ∧ SessReaches true { st [] with tap := .dap } ∧ ¬SessReaches true (st []) ∧ ¬SessReaches false State.reset) ∧
    (let s := sSec (sess 0) .blank none
     (sessOf s true).nonce = some (List.replicate 32 7, 0) ∧ s.now < 0 + 1000000 ∧ 0 + 1000000 ≤ { s with now := 1000000 }.now ∧
      (List.replicate 129 (15 : Byte)).length = 129 ∧ numAt (List.replicate 129 15) 0 1 < 16 ∧ lcCeiling s = 2 ∧
      2 ≤ lcCeiling s ∧ s.otp.lc = 0 ∧ numAt (2 :: List.replicate 128 0) 0 1 % 4 = 2) ∧
    (let s := st []; s.hostSess.level ≠ 2) ∧
    (let s := sSec (sess 0) otp1 none
     s.hostSess.level = 2 ∧ s.otpOp = none ∧ lcOk s.otp 1 = true ∧ lcOk s.otp 4 = false ∧
      lcOk { otp1 with lc := 1 } 3 = true ∧ lcOk { otp1 with lc := 2 } 3 = true ∧ otpUsed s.otp 0 = true ∧ otpUsed s.otp 8 = false ∧
      otpStateOk s.otp 8 = true ∧ otpStateOk { otp1 with lc := 1 } 8 = false ∧ otpUsed { otp1 with lc := 1 } 8 = false) ∧
    (let s := { sSec (sess 0) { otp1 with svn := 1 } none with boot := { Boot.reset with svn := 64 } }
     (0 : BitVec 8).toNat < s.otp.svn ∧ s.otp.svn ≤ (64 : BitVec 8).toNat ∧ (64 : BitVec 8).toNat ≤ s.boot.svn ∧
      s.boot.svn < (65 : BitVec 8).toNat ∧ 64 < (65 : BitVec 8).toNat) ∧
    (∀ op ∈ [OtpOp.svn 64, .field 8 (List.replicate 32 1), .field 0 (List.replicate 32 1), .field 7 (List.replicate 6 1), .lifecycle 3],
      (sSec (sess 0) otp1 (some op)).otpOp = some op) ∧
    (let s := st []; regGate s ws0 pgSec 0x015 = .ok ∧ whoWS s ws0 = true ∧ regGate s .graft pgSec 0x015 = .ok ∧ whoWS s .graft = false) := by
  refine ⟨?_, ?_, ?_, ?_, ?_, ?_, ?_, ?_⟩ <;> first | decide +kernel | (unfold SessReaches; decide)

theorem wit_TapAndDebugRequests :
    (∀ l ∈ [0, 1], (sSec .reset { Otp.blank with lc := l } none).otp.lc = l) ∧
    (∀ i ∈ [TapIr.extest, .clamp, .highz, .idcode], { st [] with tap := i }.tap = i) ∧
    (let s := sSec .reset { Otp.blank with lc := 2 } none; s.otp.lc ≠ 0 ∧ s.otp.lc ≠ 1 ∧ s.probeSess.level ≠ 2) ∧
    (let s := st []; (sessOf s true).level = 0) ∧
    (∀ b ∈ [true, false], let s := setDom 15 .stop (sSec { sess 0 with debugWake := b } .blank none)
      (sessOf s false).level ≠ 0 ∧ domSt s (143 / 9) = .stop ∧ (sessOf s false).debugWake = b ∧
        s.dom.all (fun e => decide (e.2 ≠ .stopping)) = true ∧ 15 ∉ s.pwr.want ∧ SessReaches false s) ∧
    -- a request to a domain that is stopping, and an ungranted one to a domain in Stop
    (let s := setDom 15 .stopping (sSec (sess 0) .blank none); (sessOf s false).level ≠ 0 ∧ domSt s (143 / 9) = .stopping) ∧
    (domAsleep (setDom 15 .stop (st [])) 15 = true ∧ domAsleep (st []) 15 = false) ∧
    (∀ h ∈ [HaltKind.no, .host, .probe, .unnamed], let s := wT 143 { go with halt := h } (sSec (sess 0) .blank none)
      (sessOf s true).level = 2 ∧ domSt s (143 / 9) = .run ∧ (tineAt s 143).halt = h ∧ regF s (pgTine 143) oCLOCHE 0 7 = 0 ∧
        owesFault s 143 = false) ∧
    -- an Open grant, a tine in the Walled world
    (let s := setReg (pgTine 143) oTST (wd (2 ^ 29)) (wT 143 { go with halt := .probe } (sSec { sess 0 with level := 1 } .blank none))
     (sessOf s true).level ≠ 0 ∧ (sessOf s true).level ≠ 2 ∧ tW s 143 = true ∧ domSt s (143 / 9) = .run) ∧
    (let s := sSec (sess 0) .blank none
     (sessOf s true).level = 2 ∧ reservedPa (0x041BFFFF : BitVec 34).toNat = false ∧ ueAt s 0x041BFFFF = false ∧
      reservedPa (0x041C0000 : BitVec 34).toNat = true ∧ regionOf 0x041C0000 = .shed false) := by
  refine ⟨?_, ?_, ?_, ?_, ?_, ?_, ?_, ?_, ?_, ?_⟩ <;> first | decide +kernel | (unfold SessReaches; decide +kernel)

/-- Gauge 63 configured as `v`. -/
def sGauge (v : Nat) : State := st [(pgGauge, gBase 63, v), (pgGauge, 7, 0)]

theorem wit_GaugeBins :
    (let s := sGauge (3 + 4 * 6)
     bit (gCfg s 63) 0 = true ∧ (gaugeAt s 63).start ≤ s.now ∧ (-2147483648 : Int) ≤ -2147483648 ∧ 65535 < 65536 ∧
      getF (gCfg s 63) 2 4 = 6 ∧ gaugeHolds s 63 s.now = true ∧ (gaugeAt s 63).tick ≠ some s.now) := by decide +kernel

theorem wit_GaugeConfiguration :
    (let s := sGauge 1
     regGate s .host pgGauge (gBase 63) = .ok ∧ bit (gCfg s 63) 0 = true ∧ getF (wd (4 * 6)) 2 4 ≠ getF (gCfg s 63) 2 4) ∧
    (let s := sGauge 0
     bit (gCfg s 63) 0 = false ∧ getF (wd (1 + 4 * 10 + 64 * 1151)) 6 12 < 1152 ∧ ¬ getF (wd (1 + 4 * 10 + 64 * 1152)) 6 12 < 1152 ∧
      bit (wd (1 + 4 * 10 + 64 * 1151)) 0 = true) ∧
    (let s := { sGauge (1 + 2 ^ 18) with now := 1 }; gaugeEnd s 63 = some 1 ∧ 1 ≤ s.now) := by
  refine ⟨?_, ?_, ?_⟩ <;> decide +kernel

theorem wit_GaugeWindowsAndRecords :
    (∀ n ∈ [0, 1], ∀ l ∈ [[], [(1, (5 : Int), false)]],
     let s := { setGauge 63 { Gauge.reset with late := l } (sGauge (1 + 2 ^ 18)) with now := n, snap := if n = 0 then none else some (1, 0, none) }
     gaugeEnd s 63 = some 1 ∧ s.now = n ∧ (gaugeAt s 63).start ≤ s.now ∧ gaugeHolds s 63 s.now = decide (n = 0) ∧
      (gaugeAt s 63).late = l ∧ 1 < 1 + getF (gCfg s 63) 18 20 ∧
      s.snap = (if n = 0 then none else some (1, 1 - 1, none))) ∧
    (let s := sGauge 0
     regGate s .host pgGauge 0x011 = .ok ∧ s.snap = none ∧ regGate s .host pgGauge 0x020 = .ok ∧ regGate s .host pgGauge 0x017 = .ok ∧
      pllLock s = false ∧ diagBusy s = false ∧ diagBusy { s with snap := some (1, 0, some 1) } = true ∧
      diagBusy { s with snap := some (1, 0, none) } = false) ∧
    ((List.range 64).filter fun i => (2 ^ 63 : BitVec 64).getLsbD i).length = 1 ∧
    -- a snapshot that may close, one whose gauge has a scheduled close before it, and one of the present tick
    (∀ w ∈ [0, 4], let s := { sGauge (1 + 2 ^ 18 * w) with snap := some (2 ^ 63, 4, some (2 ^ 63)), now := 5 }
     s.snap = some (2 ^ 63, 4, some (2 ^ 63)) ∧ 4 < s.now ∧ snapBehind s (2 ^ 63) (4 + 1) = decide (w = 4) ∧ (2 ^ 63).testBit 63 = true ∧
      bit (gCfg s 63) 0 = true ∧ (gaugeAt s 63).base < 4 + 1) ∧
    (∀ n ∈ [none, some 999, some 1000], let s := { st [(pgDev, 0x051, 1)] with dlcal := n, now := 1999 }
     pllLock s = true ∧ dlcalDue s = decide (n ≠ some 1000)) ∧
    (let s := { st [(pgGauge, 0x016, 0)] with frec := [{ seq := 1, tick := 0, kind := 1, src := 0, data := 0 }] }
     s.frec[regF s pgGauge 0x016 0 6]?.isSome = true ∧ s.frec.length ≤ 64) := by
  refine ⟨?_, ?_, ?_, ?_, ?_, ?_⟩ <;> decide +kernel

/-- A line test on Hoe 31 of row 3 in a phase. -/
def lt (p : LinePhase) : LineTest :=
  { opc := 0x22, r := 3, h := 31, args := [], dcl := 500, settle := 1, avg := 1, phase := p, since := 0, cnt := 2, sv := 7,
    si := 3, cnt1 := 2, v1 := 9, i1 := 5, vs := 0, vc := 0, is := 0, ic := 0, broken := none, bytes := [] }

theorem wit_LineTests :
    (let s := sHoe (1 + 2 ^ 33 + 2 ^ 34) (2 ^ 11) Hoe.reset []; diagBusy s = false ∧ lineReady s 3 31 = true ∧
      diagBusy { s with line := some (lt .point) } = true ∧ ¬ ((4 : BitVec 8).toNat < 4) ∧ ¬ ((32 : BitVec 8).toNat < 32)) ∧
    (let s := sHoe 0 0 Hoe.reset [(pgRowp 3, cB 127, 10 + 2 ^ 34)]
     diagBusy s = false ∧ lineReady s 3 31 = false ∧ 128 ≤ (128 : BitVec 8).toNat ∧ (127 : BitVec 8).toNat < 128 ∧ hEn s 3 31 = false ∧ hSheared s 3 31 = false ∧ cEn s 3 127 = true ∧ cFunc s 3 127 = 10) ∧
    (∀ p ∈ [LinePhase.settle1, .avg1, .settle2, .avg2, .point, .running], ∀ n ∈ [999, 1000, 5000],
      let s := { sHoe (1 + 2 ^ 33 + 2 ^ 34) (2 ^ 11) Hoe.reset [] with line := some (lt p), now := n }
      s.line = some (lt p) ∧ (lt p).broken = none ∧ hEn s 3 31 = true ∧ hSheared s 3 31 = false ∧ hRunning s 3 31 = true ∧
        0 < (lt p).cnt ∧ decide (s.now < (lt p).since + 1000 * (lt p).settle) = decide (n = 999) ∧
        decide ((lt p).since + 5000 ≤ s.now) = decide (n = 5000) ∧ (lt p).phase ≠ .terminal ∧ lineReady s 3 31 = true ∧
        regGate s .graft (pgHoe 3) (hB 31 + 0xB) = .ok ∧ domUp s (domRow 3) = true) ∧
    -- a Hoe that is disabled and still ramps, and one that is enabled and does not run
    (∀ e ∈ [(0, 2 ^ 11), (1, 0)], let s := { sHoe (e.1 + 2 ^ 33 + 2 ^ 34) e.2 Hoe.reset [] with line := some (lt .avg1) }
      hEn s 3 31 = decide (e.1 = 1) ∧ hRunning s 3 31 = decide (e.2 ≠ 0) ∧ (lt .avg1).phase ≠ .running) ∧
    (∀ e ∈ [0x21, 0x22], let s := { sHoe 0 0 Hoe.reset [] with line := some { lt .avg1 with broken := some e } }
      s.line = some { lt .avg1 with broken := some e } ∧ 0 < e) ∧
    -- another Hoe's
    ((lt .avg1).r ≠ (0 : Fin 4) ∨ (lt .avg1).h ≠ (31 : Fin 32)) := by
  refine ⟨?_, ?_, ?_, ?_, ?_, ?_⟩ <;> decide +kernel

theorem wit_Resets :
    (∀ n ∈ [99, 100], let s := { st [] with vcoreLow := true, vcoreAt := 0, now := n }
      s.vcoreLow = true ∧ decide (s.vcoreAt + 100 ≤ s.now) = decide (n = 100)) ∧
    (st []).released = true ∧ State.reset.released = false ∧ State.reset.pwr.off = false ∧
    (sPwr 16 .run { Pwr.reset with off := true } []).pwr.off = true ∧ Otp.blank.secret = none := by decide

theorem wit_EveryStepKeepsTheCanonicalForm :
    ((s12 1 2).canonical = true ∧ ∃ s', step (s12 1 2) = .next s') ∧ State.reset.canonical = true :=
  ⟨⟨by decide +kernel, _, rfl⟩, by decide +kernel⟩

theorem wit_OtpNeverGoesBack :
    OtpSound State.reset ∧ OtpSound (sSec (sess 0) otp1 (some (.lifecycle 1))) ∧ OtpSound (sSec (sess 0) otp1 (some (.field 8 []))) ∧
    OtpSound (sSec (sess 0) otp1 (some (.svn 64))) := by
  exact ⟨⟨by decide, trivial⟩, ⟨by decide, show lcOk otp1 1 = true by decide⟩,
    ⟨by decide, show 8 ≤ 8 ∧ otpUsed otp1 8 = false ∧ otpStateOk otp1 8 = true by decide⟩,
    ⟨by decide, show otp1.svn ≤ 64 ∧ 64 ≤ 64 by decide⟩⟩

/-! ## The spec's worked examples -/

/-- The state a command that completes leaves. -/
def aft (r : Res) : State :=
  match r with
  | .next s => s
  | _ => State.reset

/-- Tine 0 with G registers, accumulator 0 and registers of its page. -/
def gA (g : List (Nat × Nat)) (a : Nat) (rs : List (Nat × Nat)) : State :=
  setAcc 0 0 (BitVec.ofNat 96 a) (wT 0 (goG g) (st (rs.map fun e => (pgTine 0, e))))

/-- A command's G register of tine 0. -/
def gOf (i : Gr) (r : Res) : Nat := (getG (aft r) 0 i).toNat

-- Example 2-1
def s21 : State := gA [(4, 0x0800000000), (5, 0xD000000000), (6, 0xF000000000), (7, 0x1000000000)] 9 []
theorem test_example_2_1_product :
    getAcc (aft (execMacDual 0 0 { op := .mpy, an := 0, gx := 4, gy := 5 } { op := .mpy, an := 0, gx := 6, gy := 7 } s21)) 0 0 =
      0xFFFFFD800000000000000000 := by decide +kernel
theorem test_example_2_1_write_back :
    gOf 8 (execWba 0 8 0 38 0 (gA [] 0xFFFFFD800000000000000000 [])) = 0xF600000000 := by decide +kernel

-- Example 2-2
theorem test_example_2_2_norm :
    ([0x0180000000, 0xFE00000000, 0x0040000000, 0].map fun v => gOf 1 (execNorm 0 (.f 1 2) (gA [(2, v)] 0 []))) = [6, 6, 8, 39] := by
  decide +kernel
theorem test_example_2_2_normm : gOf 1 (execNormm 0 (.f 1 2) (gA [(1, 39), (2, 0xFE00000000)] 0 [])) = 6 := by decide +kernel
theorem test_example_2_2_ash :
    ([0x0180000000, 0xFE00000000, 0x0040000000].map fun v => gOf 1 (execAsh 0 (.fi 1 2 6) (gA [(2, v)] 0 []))) =
      [0x6000000000, 0x8000000000, 0x1000000000] := by decide +kernel

-- Example 3-1: the value rounded with each draw
theorem test_example_3_1 :
    roundTo 4 0x15000000000 38 0xC0000000 0 = 6 ∧ roundTo 4 0x15000000000 38 0x40000000 0 = 5 := by decide +kernel

-- Example 3-2
theorem test_example_3_2 :
    let x := shape 0xFA1800000000 38 40 2 2 (wi (-2 ^ 37)) (wd (2 ^ 36)) 0 0x0400000000 0xF800000000 0 0 0
    x.y = 999 ∧ x.e1 = 0xFA00000000 ∧ x.e2 = 0x0400000000 ∧ x.e3 = 0xF800000000 := by decide +kernel

-- Example 3-3
theorem test_example_3_3 : gOf 1 (execRecip 0 1 2 (gA [(2, 0x6000000000)] 0 [])) = 0x2AAAAAC000 := by decide +kernel

-- Examples 4-2 and 4-3
theorem test_example_4_2 : gOf 1 (execCrc8 0 1 2 3 (gA [(2, 0x31), (3, 0x0700000007)] 0 [])) = 0x97 := by decide +kernel
theorem test_example_4_3_brev : gOf 1 (execBrev 0 1 2 5 (gA [(2, 0x40013)] 0 [])) = 0x40019 := by decide +kernel

/-- Indices that the bit-reversed walk of n loads visits from index 0. -/
def walkBr (n : Nat) (a : Word) : List Nat :=
  match n with
  | 0 => []
  | k + 1 => (a.toNat - 0x30000) :: walkBr k (brStep a 1 (wd (4 * 2 ^ 20)))
theorem test_example_4_3_walk : walkBr 6 0x30000 = [0, 8, 4, 12, 2, 10] := by decide +kernel

-- Example 8-1: address, and the DRAM half-trug the word lies in
theorem test_example_8_1 :
    let s := wM [(0x04100001, 0x4001003B)] (wT 0 go (st [(pgTine 0, oXCFG, 0x04100001), (pgTine 0, oTST, 2 ^ 29), (pgDram, 0x010, 3)]))
    -- the walk meets no error in the entry
    (tineXlat 0 0x00042A5B { store := false } { s with walkUps := [.ok] }).1 = .pa 0x100042A5B := by decide +kernel

-- Example 10-1: SX 1, SHIFT +13, widths 24 and 40
theorem test_example_10_1 :
    let m := Move.start [wd (3 * 2 ^ 34 + 2 ^ 37), 0, 0, wd (5 * 2 ^ 34), 0, 0, wd (1 + 2 * 13)] 0
    [0x400000, 0x800000, 0x123456, 0xFFFFFF, 0x7FFFFF].map (convElem m) =
      [0x0800000000, 0xF000000000, 0x02468AC000, 0xFFFFFFE000, 0x0FFFFFE000] := by decide +kernel
theorem test_example_10_1_stream :
    let m := Move.start [wd (3 * 2 ^ 34 + 2 ^ 37), wd (5 * 2 ^ 20), wd (2 ^ 24), wd (5 * 2 ^ 34), 0, 0, 0] 0
    (takeWord 0x7FFFFFFFFF 2 { takeWord 0xFF12345680 1 (takeWord 0x0000400000 0 m) with made := 0 }).sval =
      0x7FFFFFFFFFFF12345680 * 2 ^ 40 + 0x400000 := by decide +kernel

/-- Pops of hopper 12 by logical tine 40. -/
def pops (n : Nat) (s : State) : List Nat :=
  match n with
  | 0 => []
  | k + 1 => let (w, s1) := hopPop 12 (some 40) s; w.toNat :: pops k s1

-- Example 11-1
theorem test_example_11_1 :
    let s := st [(pgHop 12, hopBase 12, 0x14810), (pgHop 12, hopBase 12 + 1, 0x12)]
    let p := [0x8100000000, 0x3200000007, 0x3F00000000, 0x8100000001, 0xF100000002].foldl (fun s w => hopWritePush 12 (wd w) s) s
    pops 5 p = [0xF100000002, 0x8100000000, 0x8100000001, 0x3200000007, 0x0F00000000] ∧
      regF p (pgHop 12) (hopBase 12 + 4) 0 16 = 1 := by decide +kernel

-- Example 12-2
theorem test_example_12_2 :
    let s := st [(pgRowp 0, cB 3 + 2, 0x900000), (pgRowp 0, cB 3 + 3, 0x1000)]
    (cellTrim s 0 3 (-2 ^ 35)).1 = 0xF701000000 ∧ modI 24 (narrowSample 2 0xF701000000 24 0 0).1 = 0xB80800 := by decide +kernel

-- Example 13-1: rising step and width of PWM_A, then of PWM_B
theorem test_example_13_1 : hoeEdges (wd (2 + 4)) (-282) = [653, 1395 - 653, 371, 1677 - 371] := by decide +kernel

-- Example 4-1: the dual-mode MAC, and the compact pair, whose ADD is half 0
theorem test_example_4_1 :
    halfInstr 0 0xF02085931C false =
      some (.macDual 0 0 { op := .mac, an := 0, gx := 4, gy := 5 } { op := .mac, an := 1, gx := 6, gy := 7 }) ∧
    halfInstr 0 0x48FFF10440 false = some (.add 0 (.c 1 2)) ∧ halfInstr 0 0x48FFF10440 true = some (.movi 0 (.c 3 0x3FF)) := by
  decide +kernel

/-- R188's code over the half-trug of six zero words at line 0: no check symbols; one wrong symbol is found wherever it is stored. -/
theorem test_half_trug :
    halfCheck 0 0 (List.replicate 6 0) = (0, 0) ∧
    (∀ p ∈ [4, 33, 34, 35], halfDecode 0 0 (List.replicate 6 0) [(p, 0xA5)] = some (true, List.replicate 6 0)) ∧
    gfEval 1 (halfCode 5 1 ([1, 2, 3, 4, 5, 6].map wd)) = 0 ∧ gfEval 2 (halfCode 5 1 ([1, 2, 3, 4, 5, 6].map wd)) = 0 := by decide +kernel

/-- Table 12-5: left-justified data starts at the edge, I²S data one bit clock later. -/
theorem test_frame_start : (List.range 4).map (fun f => frameDelay (wd (2 ^ 14 * f))) = [1, 0, 1, 0] := by decide

end Sys2Proof.Tests
end

section
/-! SUPPORT. What every command and every step keeps, assembled from the laws of Laws/Keeps*.lean, and the statement about the
canonical form that rests on it. -/

namespace Sys2Proof.Machine

/-- The commands whose effect is on OTP or on the programming under way: those that begin a programming or let it take effect
(R422–R424), and the boot ROM's start, which finishes an entry to RETURNED that is pending (R422). -/
def changesOtp : Instr → Bool
  | .secLifecycle _ | .secSvn _ | .secOtpWrite _ _ | .otpWriteComplete | .bootRomReady _ => true
  | _ => false

/-- Every command completes and keeps the canonical form and the queue; all but those that change OTP keep OTP too. -/
theorem exec_keeps {kz s : State} :
    (c : Instr) → Keeps (!changesOtp c) kz s → ∃ s', exec c s = .next s' ∧ Keeps (!changesOtp c) kz s'
  | .mboxPut w u item, hK => execMboxPut_keeps w u item hK
  | .mboxWithheldWriteAccept u k, hK => execMboxWithheldWriteAccept_keeps u k hK
  | .mboxTake w u, hK => execMboxTake_keeps w u hK
  | .clrDrops w u, hK => execClrDrops_keeps w u hK
  | .blockBoundary, hK => execBlockBoundary_keeps hK
  | .devBlockCfgWrite w v, hK => execDevBlockCfgWrite_keeps w v hK
  | .registerWrite w pg off v, hK => execRegisterWrite_keeps w pg off v hK
  | .counterClear w pg off, hK => execCounterClear_keeps w pg off hK
  | .mov t f, hK => execMov_keeps t f hK
  | .movi t f, hK => execMovi_keeps t f hK
  | .movhi t gd imm, hK => execMovhi_keeps t gd imm hK
  | .add t f, hK => execAdd_keeps t f hK
  | .sub t f, hK => execSub_keeps t f hK
  | .addi t f, hK => execAddi_keeps t f hK
  | .adds t gd ga gb, hK => execAdds_keeps t gd ga gb hK
  | .subs t gd ga gb, hK => execSubs_keeps t gd ga gb hK
  | .and t f, hK => execAnd_keeps t f hK
  | .or t f, hK => execOr_keeps t f hK
  | .xor t f, hK => execXor_keeps t f hK
  | .andn t gd ga gb, hK => execAndn_keeps t gd ga gb hK
  | .andi t gd ga imm, hK => execAndi_keeps t gd ga imm hK
  | .ori t gd ga imm, hK => execOri_keeps t gd ga imm hK
  | .xori t gd ga imm, hK => execXori_keeps t gd ga imm hK
  | .shl t gd ga k, hK => execShl_keeps t gd ga k hK
  | .shr t gd ga k, hK => execShr_keeps t gd ga k hK
  | .ash t f, hK => execAsh_keeps t f hK
  | .rot t gd ga gb, hK => execRot_keeps t gd ga gb hK
  | .min t gd ga gb, hK => execMin_keeps t gd ga gb hK
  | .max t gd ga gb, hK => execMax_keeps t gd ga gb hK
  | .cmp t f, hK => execCmp_keeps t f hK
  | .cmpi t f, hK => execCmpi_keeps t f hK
  | .neg t f, hK => execNeg_keeps t f hK
  | .not t f, hK => execNot_keeps t f hK
  | .abs t f, hK => execAbs_keeps t f hK
  | .norm t f, hK => execNorm_keeps t f hK
  | .normm t f, hK => execNormm_keeps t f hK
  | .log2 t gd ga, hK => execLog2_keeps t gd ga hK
  | .exp2 t gd ga, hK => execExp2_keeps t gd ga hK
  | .recip t gd ga, hK => execRecip_keeps t gd ga hK
  | .rsqrt t gd ga, hK => execRsqrt_keeps t gd ga hK
  | .crc8 t gd gs gp, hK => execCrc8_keeps t gd gs gp hK
  | .crcw t gd gs gp, hK => execCrcw_keeps t gd gs gp hK
  | .par t gd gs w, hK => execPar_keeps t gd gs w hK
  | .brev t gd gs w, hK => execBrev_keeps t gd gs w hK
  | .macDual t fp l0 l1, hK => execMacDual_keeps t fp l0 l1 hK
  | .macQuad t fp p0 p1 gx gy gz gw, hK => execMacQuad_keeps t fp p0 p1 gx gy gz gw hK
  | .macC t op an gx gy fp1, hK => execMacC_keeps t op an gx gy fp1 hK
  | .macm t op fp an ga gb mj mk, hK => execMacm_keeps t op fp an ga gb mj mk hK
  | .clra t f, hK => execClra_keeps t f hK
  | .nega t f, hK => execNega_keeps t f hK
  | .absa t f, hK => execAbsa_keeps t f hK
  | .lda t an g k, hK => execLda_keeps t an g k hK
  | .adda t an am, hK => execAdda_keeps t an am hK
  | .suba t an am, hK => execSuba_keeps t an am hK
  | .asha t an k, hK => execAsha_keeps t an k hK
  | .norma t g an, hK => execNorma_keeps t g an hK
  | .wba t gd an xs code, hK => execWba_keeps t gd an xs code hK
  | .wbaH t gd an xs code, hK => execWbaH_keeps t gd an xs code hK
  | .wbaD t gd an xs code, hK => execWbaD_keeps t gd an xs code hK
  | .ld t f, hK => execLd_keeps t f hK
  | .st t f, hK => execSt_keeps t f hK
  | .ldstC t store gt ga mk, hK => execLdstC_keeps t store gt ga mk hK
  | .ldh t l, hK => execLdh_keeps t l hK
  | .sth t l, hK => execSth_keeps t l hK
  | .ldd t l, hK => execLdd_keeps t l hK
  | .std t l, hK => execStd_keeps t l hK
  | .swap t l, hK => execSwap_keeps t l hK
  | .sva t l, hK => execSva_keeps t l hK
  | .rsa t l, hK => execRsa_keeps t l hK
  | .loadDataReturn t r, hK => execLoadDataReturn_keeps t r hK
  | .hpop t f, hK => execHpop_keeps t f hK
  | .hpush t f, hK => execHpush_keeps t f hK
  | .hpushAccept t, hK => execHpushAccept_keeps t hK
  | .fence t, hK => execFence_keeps t hK
  | .storeBufferDrain t up, hK => execStoreBufferDrain_keeps t up hK
  | .br t off, hK => execBr_keeps t off hK
  | .brc t f, hK => execBrc_keeps t f hK
  | .jmp t ga, hK => execJmp_keeps t ga hK
  | .call t f, hK => execCall_keeps t f hK
  | .nop t, hK => execNop_keeps t hK
  | .wait t, hK => execWait_keeps t hK
  | .cloche t nM1, hK => execCloche_keeps t nM1 hK
  | .sysc t code, hK => execSysc_keeps t code hK
  | .retx t up upF upD latency, hK => execRetx_keeps t up upF upD latency hK
  | .bkpt t, hK => execBkpt_keeps t hK
  | .mfc t g n, hK => execMfc_keeps t g n hK
  | .mtc t g n, hK => execMtc_keeps t g n hK
  | .rep t nM1, hK => execRep_keeps t nM1 hK
  | .repu t nM1, hK => execRepu_keeps t nM1 hK
  | .repr t gs u, hK => execRepr_keeps t gs u hK
  | .loop t count e, hK => execLoop_keeps t count e hK
  | .loopr t gs e, hK => execLoopr_keeps t gs e hK
  | .endl t, hK => execEndl_keeps t hK
  | .faultEntry t up upF upD, hK => execFaultEntry_keeps t up upF upD hK
  | .nursLockTineClr w v, hK => execNursLockTineClr_keeps w v hK
  | .sieveArrival t n, hK => execSieveArrival_keeps t n hK
  | .handlerEntry t up upF upD latency, hK => execHandlerEntry_keeps t up upF upD latency hK
  | .sieveEoi w t v, hK => execSieveEoi_keeps w t v hK
  | .sieveClrpend w t v, hK => execSieveClrpend_keeps w t v hK
  | .sieveRaise w t v, hK => execSieveRaise_keeps w t v hK
  | .sieveCfgWrite w t n v, hK => execSieveCfgWrite_keeps w t n v hK
  | .holdOffEnd t n, hK => execHoldOffEnd_keeps t n hK
  | .sieveTmrCmpWrite w t v, hK => execSieveTmrCmpWrite_keeps w t v hK
  | .timerCompare t, hK => execTimerCompare_keeps t hK
  | .ditherStateWrite w t b v, hK => execDitherStateWrite_keeps w t b v hK
  | .clrE w t n v, hK => execClrE_keeps w t n v hK
  | .interpolatorCalibration r h d1 d2 d3, hK => execInterpolatorCalibration_keeps r h d1 d2 d3 hK
  | .tineXcfgWrite w t v, hK => execTineXcfgWrite_keeps w t v hK
  | .xinv w t all va, hK => execXinv_keeps w t all va hK
  | .tinv w all va, hK => execTinv_keeps w all va hK
  | .shoot w all va, hK => execShoot_keeps w all va hK
  | .shootComplete, hK => execShootComplete_keeps hK
  | .weederStep k ups, hK => execWeederStep_keeps k ups hK
  | .dramRefreshPoll mr4, hK => execDramRefreshPoll_keeps mr4 hK
  | .dramRetrain osc, hK => execDramRetrain_keeps osc hK
  | .cmdFetch c up0 up1, hK => execCmdFetch_keeps c up0 up1 hK
  | .cmdNop c, hK => execCmdNop_keeps c hK
  | .cmdMove c ups, hK => execCmdMove_keeps c ups hK
  | .moveElement c up wup, hK => execMoveElement_keeps c up wup hK
  | .accessReplay c a ups, hK => execAccessReplay_keeps c a ups hK
  | .trellisWriteAck c k up, hK => execTrellisWriteAck_keeps c k up hK
  | .cmdLoop c, hK => execCmdLoop_keeps c hK
  | .cmdEndloop c, hK => execCmdEndloop_keeps c hK
  | .cmdWait c, hK => execCmdWait_keeps c hK
  | .waitComplete c, hK => execWaitComplete_keeps c hK
  | .waitTimeout c, hK => execWaitTimeout_keeps c hK
  | .cmdSignalHopper c, hK => execCmdSignalHopper_keeps c hK
  | .signalPushAccept c, hK => execSignalPushAccept_keeps c hK
  | .cmdSignalSieve c, hK => execCmdSignalSieve_keeps c hK
  | .cmdSignalChannel c, hK => execCmdSignalChannel_keeps c hK
  | .cmdSkip c up, hK => execCmdSkip_keeps c up hK
  | .cmdSuspend c, hK => execCmdSuspend_keeps c hK
  | .cmdResume c, hK => execCmdResume_keeps c hK
  | .cmdPost c, hK => execCmdPost_keeps c hK
  | .postResume c, hK => execPostResume_keeps c hK
  | .cmdChain c, hK => execCmdChain_keeps c hK
  | .cmdPortop c, hK => execCmdPortop_keeps c hK
  | .trchStart w c, hK => execTrchStart_keeps w c hK
  | .trchStop w c, hK => execTrchStop_keeps w c hK
  | .trchSuspend w c, hK => execTrchSuspend_keeps w c hK
  | .trchResume w c, hK => execTrchResume_keeps w c hK
  | .clrsig w c, hK => execClrsig_keeps w c hK
  | .stopCommit c, hK => execStopCommit_keeps c hK
  | .drainComplete c, hK => execDrainComplete_keeps c hK
  | .cringPiWrite w c pi, hK => execCringPiWrite_keeps w c pi hK
  | .sringCiWrite w c ci, hK => execSringCiWrite_keeps w c ci hK
  | .trchOwnWrite w c v, hK => execTrchOwnWrite_keeps w c v hK
  | .trelJournalRead w, hK => execTrelJournalRead_keeps w hK
  | .hopPush w h item, hK => execHopPush_keeps w h item hK
  | .hopCfgWrite w h v, hK => execHopCfgWrite_keeps w h v hK
  | .hopOwnWrite w h v, hK => execHopOwnWrite_keeps w h v hK
  | .hopTailNotice h, hK => execHopTailNotice_keeps h hK
  | .vioMeasure r mv, hK => execVioMeasure_keeps r mv hK
  | .rowSupplyFail r, hK => execRowSupplyFail_keeps r hK
  | .cellCfgWrite w r c v, hK => execCellCfgWrite_keeps w r c v hK
  | .cellEnable w r c, hK => execCellEnable_keeps w r c hK
  | .cellDisable w r c, hK => execCellDisable_keeps w r c hK
  | .cellFifoWrite w r c v, hK => execCellFifoWrite_keeps w r c v hK
  | .portopCellEnable r c, hK => execPortopCellEnable_keeps r c hK
  | .portopCellDisable r c, hK => execPortopCellDisable_keeps r c hK
  | .portopCellFlush r c, hK => execPortopCellFlush_keeps r c hK
  | .gpioSet r c out oe, hK => execGpioSet_keeps r c out oe hK
  | .portopCellThresh r c rx tx, hK => execPortopCellThresh_keeps r c rx tx hK
  | .portopEngineGo r e arg, hK => execPortopEngineGo_keeps r e arg hK
  | .rowcCgWrite w r g v, hK => execRowcCgWrite_keeps w r g v hK
  | .clkerr r g, hK => execClkerr_keeps r g hK
  | .laneInFrame r c bits, hK => execLaneInFrame_keeps r c bits hK
  | .laneOutFrame r c, hK => execLaneOutFrame_keeps r c hK
  | .pdmInSample r c streams, hK => execPdmInSample_keeps r c streams hK
  | .pdmOutSample r c, hK => execPdmOutSample_keeps r c hK
  | .gpioEdge r c level, hK => execGpioEdge_keeps r c level hK
  | .seGo w r e v, hK => execSeGo_keeps w r e v hK
  | .seTransactionEnd r e err count rx, hK => execSeTransactionEnd_keeps r e err count rx hK
  | .hoeEnable w r h, hK => execHoeEnable_keeps w r h hK
  | .hoeStart r h, hK => execHoeStart_keeps r h hK
  | .hoeDisable w r h, hK => execHoeDisable_keeps w r h hK
  | .hoeCfgWrite w r h k v, hK => execHoeCfgWrite_keeps w r h k v hK
  | .carrierPeriod r h pos vs is, hK => execCarrierPeriod_keeps r h pos vs is hK
  | .railCode rail ones, hK => execRailCode_keeps rail ones hK
  | .senseStreamLoss what, hK => execSenseStreamLoss_keeps what hK
  | .fastDetector what f, hK => execFastDetector_keeps what f hK
  | .hoeTrip w r h, hK => execHoeTrip_keeps w r h hK
  | .hoeRearm w r h, hK => execHoeRearm_keeps w r h hK
  | .hoeFlush w r h, hK => execHoeFlush_keeps w r h hK
  | .clrRetry w r h, hK => execClrRetry_keeps w r h hK
  | .shearAutoRetry r h, hK => execShearAutoRetry_keeps r h hK
  | .portopHoeEnable r h, hK => execPortopHoeEnable_keeps r h hK
  | .portopHoeDisable r h, hK => execPortopHoeDisable_keeps r h hK
  | .portopHoeFlush r h, hK => execPortopHoeFlush_keeps r h hK
  | .portopHoeRearm r h, hK => execPortopHoeRearm_keeps r h hK
  | .portopHoeThresh r h tx, hK => execPortopHoeThresh_keeps r h tx hK
  | .inject r h imode, hK => execInject_keeps r h imode hK
  | .railCfgWrite w rail v, hK => execRailCfgWrite_keeps w rail v hK
  | .pcieBar0Access slot a, hK => execPcieBar0Access_keeps slot a hK
  | .heldWriteExpiry, hK => execHeldWriteExpiry_keeps hK
  | .pcieBar2Access n a up, hK => execPcieBar2Access_keeps n a up hK
  | .qspiRead addr n ups, hK => execQspiRead_keeps addr n ups hK
  | .qspiWrite addr ws cut ups, hK => execQspiWrite_keeps addr ws cut ups hK
  | .qspiBadOpcode, hK => execQspiBadOpcode_keeps hK
  | .hostFrameRead f n ups, hK => execHostFrameRead_keeps f n ups hK
  | .hostFrameWrite f ws ups, hK => execHostFrameWrite_keeps f ws ups hK
  | .hostSqdb w q v, hK => execHostSqdb_keeps w q v hK
  | .hostCqdb w q v, hK => execHostCqdb_keeps w q v hK
  | .sqFetch, hK => execSqFetch_keeps hK
  | .handover q, hK => execHandover_keeps q hK
  | .createSq, hK => execCreateSq_keeps hK
  | .deleteSq, hK => execDeleteSq_keeps hK
  | .createCq, hK => execCreateCq_keeps hK
  | .deleteCq, hK => execDeleteCq_keeps hK
  | .hostCpl w q slot status, hK => execHostCpl_keeps w q slot status hK
  | .dataWriteBack q ok, hK => execDataWriteBack_keeps q ok hK
  | .recordPublish q, hK => execRecordPublish_keeps q hK
  | .vectorResend q, hK => execVectorResend_keeps q hK
  | .hostDisable w, hK => execHostDisable_keeps w hK
  | .hostEnable w, hK => execHostEnable_keeps w hK
  | .ethFrameReceive m len fcs etype sid, hK => execEthFrameReceive_keeps m len fcs etype sid hK
  | .gptpMessage m msg offset, hK => execGptpMessage_keeps m msg offset hK
  | .listenerFrame m i1 fmt ch nsr seq tv ts raw sub, hK => execListenerFrame_keeps m i1 fmt ch nsr seq tv ts raw sub hK
  | .listenerPresent m i1 sub, hK => execListenerPresent_keeps m i1 sub hK
  | .talkerFrame m i1 sub, hK => execTalkerFrame_keeps m i1 sub hK
  | .macTransmit m sub tenth psub, hK => execMacTransmit_keeps m sub tenth psub hK
  | .gclCycleStart m, hK => execGclCycleStart_keeps m hK
  | .gclSwap w m, hK => execGclSwap_keeps w m hK
  | .crfTalkerPdu m ev, hK => execCrfTalkerPdu_keeps m ev hK
  | .ethPtpCfgWrite w m v, hK => execEthPtpCfgWrite_keeps w m v hK
  | .ethPtpTimeRead w m sub, hK => execEthPtpTimeRead_keeps w m sub hK
  | .strmCfgWrite w m talk i1 v, hK => execStrmCfgWrite_keeps w m talk i1 v hK
  | .ethQavWrite w m b v, hK => execEthQavWrite_keeps w m b v hK
  | .apllRunWrite w run, hK => execApllRunWrite_keeps w run hK
  | .apllSrcChange w src crfmac, hK => execApllSrcChange_keeps w src crfmac hK
  | .pllLock pherr, hK => execPllLock_keeps pherr hK
  | .pllLoss pherr, hK => execPllLoss_keeps pherr hK
  | .cellReceive p ws, hK => execCellReceive_keeps p ws hK
  | .cellResend p ack, hK => execCellResend_keeps p ack hK
  | .linkRetrain p ok, hK => execLinkRetrain_keeps p ok hK
  | .chainWrite walled ups, hK => execChainWrite_keeps walled ups hK
  | .chainRead walled ups, hK => execChainRead_keeps walled ups hK
  | .chainRdata, hK => execChainRdata_keeps hK
  | .chainEvent, hK => execChainEvent_keeps hK
  | .enum, hK => execEnum_keeps hK
  | .enumEnd, hK => execEnumEnd_keeps hK
  | .enumDone, hK => execEnumDone_keeps hK
  | .portUnconnected p, hK => execPortUnconnected_keeps p hK
  | .routeCell, hK => execRouteCell_keeps hK
  | .chainRouteWrite w v, hK => execChainRouteWrite_keeps w v hK
  | .linkLost, hK => execLinkLost_keeps hK
  | .linkDown p, hK => execLinkDown_keeps p hK
  | .bcast walled up, hK => execBcast_keeps walled up hK
  | .chainBcastDataWrite w v, hK => execChainBcastDataWrite_keeps w v hK
  | .reenum w, hK => execReenum_keeps w hK
  | .wakeUp w, hK => execWakeUp_keeps w hK
  | .wakeDn w, hK => execWakeDn_keeps w hK
  | .chainWakePattern down, hK => execChainWakePattern_keeps down hK
  | .wakeFrame m f, hK => execWakeFrame_keeps m f hK
  | .phyInterruptWake m, hK => execPhyInterruptWake_keeps m hK
  | .bootRomReady trimBad, hK => execBootRomReady_keeps trimBad hK
  | .bootRxlenWrite src v, hK => execBootRxlenWrite_keeps src v hK
  | .seedLoad addr len, hK => execSeedLoad_keeps addr len hK
  | .graft scion tries block, hK => execGraft_keeps scion tries block hK
  | .bootGraftGo w v, hK => execBootGraftGo_keeps w v hK
  | .pwrStop mask, hK => execPwrStop_keeps mask hK
  | .domainDrainComplete, hK => execDomainDrainComplete_keeps hK
  | .domainDrainTimeout src, hK => execDomainDrainTimeout_keeps src hK
  | .domainSwitchOpen, hK => execDomainSwitchOpen_keeps hK
  | .pwrRun mask, hK => execPwrRun_keeps mask hK
  | .pwrRunreq w mask, hK => execPwrRunreq_keeps w mask hK
  | .domainRestored, hK => execDomainRestored_keeps hK
  | .deviceStop, hK => execDeviceStop_keeps hK
  | .deviceWake x, hK => execDeviceWake_keeps x hK
  | .pwrVolt mv mode ack, hK => execPwrVolt_keeps mv mode ack hK
  | .voltStep ack, hK => execVoltStep_keeps ack hK
  | .vreadyRise, hK => execVreadyRise_keeps hK
  | .settleDone, hK => execSettleDone_keeps hK
  | .voltFail, hK => execVoltFail_keeps hK
  | .vdrop, hK => execVdrop_keeps hK
  | .pwrStatus, hK => execPwrStatus_keeps hK
  | .disciplineLoss, hK => execDisciplineLoss_keeps hK
  | .heartbeatStall t, hK => execHeartbeatStall_keeps t hK
  | .nursRetire w t, hK => execNursRetire_keeps w t hK
  | .reinstate w t, hK => execReinstate_keeps w t hK
  | .reinstateTestDone passed, hK => execReinstateTestDone_keeps passed hK
  | .tineReplacement, hK => execTineReplacement_keeps hK
  | .tineCkptGo t full v, hK => execTineCkptGo_keeps t full v hK
  | .ckptCommit t, hK => execCkptCommit_keeps t hK
  | .secChallenge probe nonce, hK => execSecChallenge_keeps probe nonce hK
  | .nonceExpiry probe, hK => execNonceExpiry_keeps probe hK
  | .secRespond probe data, hK => execSecRespond_keeps probe data hK
  | .secClose probe, hK => execSecClose_keeps probe hK
  | .secLifecycle target, hK => execSecLifecycle_keeps target hK
  | .secSvn v, hK => execSecSvn_keeps v hK
  | .secZeroize, hK => execSecZeroize_keeps hK
  | .secOtpWrite field data, hK => execSecOtpWrite_keeps field data hK
  | .secCtrlZero w, hK => execSecCtrlZero_keeps w hK
  | .tapReset, hK => execTapReset_keeps hK
  | .bypass, hK => execBypass_keeps hK
  | .idcode, hK => execIdcode_keeps hK
  | .samplePreload, hK => execSamplePreload_keeps hK
  | .extest, hK => execExtest_keeps hK
  | .clamp, hK => execClamp_keeps hK
  | .highz, hK => execHighz_keeps hK
  | .dap, hK => execDap_keeps hK
  | .debugHalt probe t, hK => execDebugHalt_keeps probe t hK
  | .debugResume probe t, hK => execDebugResume_keeps probe t hK
  | .debugStep probe t, hK => execDebugStep_keeps probe t hK
  | .debugMemoryAccess probe a wr up, hK => execDebugMemoryAccess_keeps probe a wr up hK
  | .debugRegisterAccess probe r wr, hK => execDebugRegisterAccess_keeps probe r wr hK
  | .gaugeCfgWrite w g v, hK => execGaugeCfgWrite_keeps w g v hK
  | .gaugeWindowClose g, hK => execGaugeWindowClose_keeps g hK
  | .gaugeSnap w hi, hK => execGaugeSnap_keeps w hi hK
  | .snapshotClose, hK => execSnapshotClose_keeps hK
  | .gaugeSnapshot mask dlen, hK => execGaugeSnapshot_keeps mask dlen hK
  | .gaugeRecordRead w, hK => execGaugeRecordRead_keeps w hK
  | .gaugeFrecRead w, hK => execGaugeFrecRead_keeps w hK
  | .delayLineCalibration steps, hK => execDelayLineCalibration_keeps steps hK
  | .lineCal r h rref, hK => execLineCal_keeps r h rref hK
  | .lineDcr r h dcl settle avg, hK => execLineDcr_keeps r h dcl settle avg hK
  | .lineImp r h amp f1 f2 n dlen, hK => execLineImp_keeps r h amp f1 f2 n dlen hK
  | .lineClassify r h cmcell rshort ropen, hK => execLineClassify_keeps r h cmcell rshort ropen hK
  | .faultRead first count dlen, hK => execFaultRead_keeps first count dlen hK
  | .faultClear seq, hK => execFaultClear_keeps seq hK
  | .pageCtrlWrite w pg v, hK => execPageCtrlWrite_keeps w pg v hK
  | .pageLock w pg, hK => execPageLock_keeps w pg hK
  | .pageSoftReset w pg, hK => execPageSoftReset_keeps w pg hK
  | .pageIrqClr w pg v, hK => execPageIrqClr_keeps w pg v hK
  | .pageIrqEnWrite w pg v, hK => execPageIrqEnWrite_keeps w pg v hK
  | .pageOwnerWrite w pg walled, hK => execPageOwnerWrite_keeps w pg walled hK
  | .deviceReset, hK => execDeviceReset_keeps hK
  | .aonReset, hK => execAonReset_keeps hK
  | .resetRelease bootsel, hK => execResetRelease_keeps bootsel hK
  | .vcoreUndervoltage, hK => execVcoreUndervoltage_keeps hK
  | .vcoreSupervisorRelease, hK => execVcoreSupervisorRelease_keeps hK
  | .gaugeTickSample g v, hK => execGaugeTickSample_keeps g v hK
  | .disciplineLock, hK => execDisciplineLock_keeps hK
  | .ethLinkUp m, hK => execEthLinkUp_keeps m hK
  | .ethLinkDown m, hK => execEthLinkDown_keeps m hK
  | .syncInterval m sub, hK => execSyncInterval_keeps m sub hK
  | .chainPortTrained p host, hK => execChainPortTrained_keeps p host hK
  | .pcieLinkUp gen lanes, hK => execPcieLinkUp_keeps gen lanes hK
  | .pcieLinkDown, hK => execPcieLinkDown_keeps hK
  | .pcieConfigWrite a, hK => execPcieConfigWrite_keeps a hK
  | .hostReadCompletion q ok bs, hK => execHostReadCompletion_keeps q ok bs hK
  | .completionTimeout q, hK => execCompletionTimeout_keeps q hK
  | .gclEntryStart m, hK => execGclEntryStart_keeps m hK
  | .cellSend p, hK => execCellSend_keeps p hK
  | .perBankRefresh, hK => execPerBankRefresh_keeps hK
  | .lineTestPhaseEnd r h, hK => execLineTestPhaseEnd_keeps r h hK
  | .otpWriteComplete, hK => execOtpWriteComplete_keeps hK

/-- Every step completes and keeps the canonical form, whatever stands in the queue. -/
theorem step_canonical {s s' : State} (hs : s.canonical = true) (hstep : step s = .next s') : s'.canonical = true := by
  unfold step at hstep
  split at hstep
  case h_1 =>
    obtain rfl := Host.Outcome.next.inj hstep
    exact (aonTick_keeps (keeps_refl false s)).canon hs
  case h_2 c rest _ =>
    obtain ⟨s₁, hexec, hkeeps⟩ := exec_keeps c (keeps_refl _ { s with pending := rest })
    obtain rfl : s₁ = s' := Host.Outcome.next.inj (hexec.symm.trans hstep)
    exact hkeeps.canon hs

/-- Settles O58: the tick on an empty queue and each command keep the canonical form. -/
theorem everyStepKeepsTheCanonicalForm : Obligations.EveryStepKeepsTheCanonicalForm :=
  fun _ _ => step_canonical

end Sys2Proof.Machine
end

section
/-! SUPPORT. Plain registers (R11, R69): what a write by access types makes of each bit, and what the register commands do at the
pages where every register from offset 0x010 is plain, with the statement about them. -/

namespace Sys2Proof.Machine

/-! ## Bits under a mask -/

theorem bit_and_not (w m : Word) {b : Nat} (hb : b < 40) : bit (w &&& ~~~m) b = (bit w b && !bit m b) := by
  simp [bit, hb]

/-- Under the mask the new word, elsewhere the old one. -/
theorem bit_merge (m old v : Word) {b : Nat} (hb : b < 40) :
    bit ((old &&& ~~~m) ||| (v &&& m)) b = if bit m b then bit v b else bit old b := by
  have hor : bit ((old &&& ~~~m) ||| (v &&& m)) b = (bit (old &&& ~~~m) b || (bit v b && bit m b)) := by simp [bit]
  rw [hor, bit_and_not old m hb]
  cases bit m b <;> simp

/-- Ones written under the mask clear. -/
theorem bit_clearOnes (m w v : Word) {b : Nat} (hb : b < 40) :
    bit (w &&& ~~~(v &&& m)) b = if bit v b && bit m b then false else bit w b := by
  have hand : bit (v &&& m) b = (bit v b && bit m b) := by simp [bit]
  rw [bit_and_not w _ hb, hand]
  cases bit v b && bit m b <;> simp

/-- What is under the mask clears if `c` holds. -/
theorem bit_clearIf (c : Bool) (m w : Word) {b : Nat} (hb : b < 40) :
    bit (if c then w &&& ~~~m else w) b = if c && bit m b then false else bit w b := by
  cases c with
  | false => simp
  | true => rw [if_pos rfl, bit_and_not w m hb]; cases bit m b <;> simp

/-- The bit that R11 and R69 give a register when `v` is written to it. -/
def plainBit (sp : RegSpec) (old v : Word) (b : Nat) : Bool :=
  if bit v sp.clrBit && bit (wd sp.clr) b then false
  else if bit v b && bit (wd sp.w1c) b then false
  else if bit (wd sp.rw) b then bit v b else bit old b

theorem bit_writeBySpec (sp : RegSpec) (old v : Word) {b : Nat} (hb : b < 40) :
    bit (writeBySpec sp old v) b = plainBit sp old v b := by
  unfold writeBySpec plainBit
  rw [bit_clearIf _ _ _ hb, bit_clearOnes _ _ _ hb, bit_merge _ _ _ hb]

/-! ## The pages whose registers are plain -/

/-- The pages on which every register from offset 0x010 is plain. -/
def PlainPage (k : PageKind) : Prop := k = .pcie ∨ k = .qspi ∨ k = .trel

theorem linkSpec_of_counter {k : PageKind} {off : Nat} (hclr : (linkSpec k off).clr ≠ 0) :
    linkSpec k off = rsCnt (linkSpec k off).clr := by
  unfold linkSpec at hclr
  split at hclr
  · rfl
  · rfl
  · exact absurd rfl hclr

theorem trelSpec_of_counter {off : Nat} (hclr : (trelSpec off).clr ≠ 0) : trelSpec off = rsCnt (trelSpec off).clr := by
  unfold trelSpec at hclr
  split at hclr
  case h_4 => rfl
  all_goals exact absurd rfl hclr

/-- A count register of these pages has the CLR bit 39, and no RW or W1C bits beside its counts. -/
theorem regSpec_of_plain_counter {k : PageKind} {i off : Nat} (hk : PlainPage k) (hoff : 0x010 ≤ off)
    (hclr : (regSpec k i off).clr ≠ 0) : regSpec k i off = rsCnt (regSpec k i off).clr := by
  have hheader : ¬ off < 8 := by omega
  unfold regSpec at hclr ⊢
  rw [if_neg hheader] at hclr ⊢
  obtain rfl | rfl | rfl := hk
  · exact linkSpec_of_counter hclr
  · exact linkSpec_of_counter hclr
  · exact trelSpec_of_counter hclr

/-! ## Register commands there -/

section
variable {s : State} {w : Who} {pg off : Nat} {k : PageKind} {i : Nat}

/-- At a plain page a write stores the register by its access types. -/
theorem regWrite_of_plain (v : Word) (hpg : pageKind pg = some (k, i)) (hk : PlainPage k) (hoff : 0x010 ≤ off) :
    regWrite w pg off v s = setReg pg off (writeBySpec (regSpec k i off) (reg s pg off) v) s := by
  have hboot : pg ≠ pgBoot := by
    rintro rfl
    obtain ⟨rfl, -⟩ : PageKind.boot = k ∧ 0 = i := by simpa [pageKind, pgBoot] using hpg
    simp [PlainPage] at hk
  have hheader : ¬ off < 8 := by omega
  have hunused : ¬ off < 0x10 := by omega
  unfold regWrite regWriteBase
  rw [if_neg (fun h => hboot h.1), hpg]
  obtain rfl | rfl | rfl := hk <;> simp only [hheader, hunused, if_false]

theorem gated_of_ok (f : State → State) (hgate : regGate s w pg off = .ok) : gated w pg off f s = f s := by
  unfold gated
  rw [hgate]

/-- Only the register at `off` of page `pg` may differ between `s` and `s'`. -/
def OnlyReg (pg off : Nat) (s s' : State) : Prop :=
  s' = { s with regs := s'.regs } ∧ ∀ p o, o < 1024 → (p ≠ pg ∨ o ≠ off) → reg s' p o = reg s p o

theorem onlyReg_setReg (v : Word) (hoff : off < 1024) : OnlyReg pg off s (setReg pg off v s) := by
  refine ⟨rfl, fun p o ho hne => ?_⟩
  rw [reg_setReg s v ho hoff, if_neg (by tauto)]

/-- A write that passes its checks stores exactly the register, bit by bit (R11). -/
theorem gatedWrite_of_plain (v : Word) (hpg : pageKind pg = some (k, i)) (hk : PlainPage k) (hoff : 0x010 ≤ off)
    (hlt : off < 1024) (hgate : regGate s w pg off = .ok) :
    OnlyReg pg off s (gatedWrite w pg off v s) ∧
      ∀ b, b < 40 → bit (reg (gatedWrite w pg off v s) pg off) b = plainBit (regSpec k i off) (reg s pg off) v b := by
  rw [gatedWrite, gated_of_ok _ hgate, regWrite_of_plain v hpg hk hoff]
  refine ⟨onlyReg_setReg _ hlt, fun b hb => ?_⟩
  rw [reg_setReg_same, bit_writeBySpec _ _ _ hb]

/-- The write that clears a plain count register has its CLR bit set. -/
theorem bit_clearWord (hpg : pageKind pg = some (k, i)) (hclr : (regSpec k i off).clr ≠ 0) (hbit : (regSpec k i off).clrBit < 40) :
    bit (clearWord s pg off) (regSpec k i off).clrBit = true := by
  unfold clearWord
  rw [hpg]
  dsimp only
  rw [if_neg hclr]
  exact bit_setB_same _ _ hbit

/-- Of a register with counts only, a write with the CLR bit zeroes the counts and nothing else (R69). -/
theorem plainBit_rsCnt {clr : Nat} (old : Word) {v : Word} (b : Nat) (hv : bit v 39 = true) :
    plainBit (rsCnt clr) old v b = (bit old b && !bit (wd clr) b) := by
  have hzero : bit (wd 0) b = false := by simp [bit_wd]
  have hcnt : plainBit (rsCnt clr) old v b =
      if bit v 39 && bit (wd clr) b then false else if bit v b && bit (wd 0) b then false
      else if bit (wd 0) b then bit v b else bit old b := rfl
  rw [hcnt, hv, hzero]
  cases bit (wd clr) b <;> simp

/-- A requester that is no tine writes to a page number without a page in vain (R458). -/
theorem gatedWrite_of_no_page (v : Word) (hpg : pageKind pg = none) (hw : ∀ t, w ≠ .tine t) : gatedWrite w pg off v s = s := by
  have hgate : regGate s w pg off = .hole := by unfold regGate; rw [hpg]
  unfold gatedWrite gated
  rw [hgate]
  cases w with
  | tine t => exact absurd rfl (hw t)
  | _ => rfl

end

/-- Settles O23: each command's write is one write by access types, and that of COUNTER_CLEAR carries the CLR bit. -/
theorem registerAccessTypes : Obligations.RegisterAccessTypes := by
  refine ⟨fun s w pg off v k i hpg hk hoff hgate => ⟨⟨_, rfl, gatedWrite_of_plain v hpg hk hoff off.isLt hgate⟩, fun hclr => ?_⟩,
    fun s w pg off v hpg hw => ⟨_, rfl, gatedWrite_of_no_page v hpg ?_⟩⟩
  case refine_1 =>
    have hcounter : isCounter pg off = true := by simpa [isCounter, hpg] using hclr
    have hspec := regSpec_of_plain_counter hk hoff hclr
    have hlast : (regSpec k i off).clrBit = 39 := by rw [hspec]; rfl
    have hset : bit (clearWord s pg off) 39 = true := hlast ▸ bit_clearWord hpg hclr (by omega)
    obtain ⟨honly, hbits⟩ := gatedWrite_of_plain (clearWord s pg off) hpg hk hoff off.isLt hgate
    refine ⟨_, rfl, ?_⟩
    rw [if_pos hcounter]
    refine ⟨honly, fun b hb => ?_⟩
    rw [hbits b hb, hspec, plainBit_rsCnt _ b hset]
    rfl
  case refine_2 =>
    rintro t rfl
    cases hw

end Sys2Proof.Machine
end

section
/-! SUPPORT. What an arrival changes on its way into the sieves (R160, R175, R176): the members a route takes, a frame for every level
of route, and that the members which the routes select hold the input pending afterwards. -/

namespace Sys2Proof.Machine

/-! ## The members a route takes -/

theorem ringFrom_lt {n start k m : Nat} (hn : 0 < n) (hm : m ∈ ringFrom n start k) : m < n := by
  obtain ⟨i, -, rfl⟩ := List.mem_map.1 hm
  exact Nat.mod_lt _ hn

theorem take_one_cases {α : Type} (l : List α) : l.take 1 = [] ∨ ∃ a ∈ l, l.take 1 = [a] := by
  cases l <;> simp

/-- A route takes members in ascending order (MODE 0), one member, or none. -/
theorem routePick_cases (w : Word) {n : Nat} (last : Nat) (bad idle : Nat → Bool) (hn : 0 < n) :
    (∃ p, routePick w n last bad idle = (List.range n).filter p) ∨ (∃ m, m < n ∧ routePick w n last bad idle = [m]) ∨
      routePick w n last bad idle = [] := by
  have ring : ∀ start (p : Nat → Bool), ((ringFrom n start n).filter p).take 1 = [] ∨
      ∃ m, m < n ∧ ((ringFrom n start n).filter p).take 1 = [m] := fun start p => by
    obtain h | ⟨m, hm, h⟩ := take_one_cases ((ringFrom n start n).filter p)
    · exact .inl h
    · exact .inr ⟨m, ringFrom_lt hn (List.mem_filter.1 hm).1, h⟩
  unfold routePick
  dsimp only
  split
  case h_1 => exact .inl ⟨_, rfl⟩
  case h_2 => exact .inr (ring _ _).symm
  case h_3 =>
    split
    case h_1 k _ hk =>
      have hmem := (List.mem_filter.1 (hk ▸ List.mem_cons_self : k ∈ _)).1
      exact .inr (.inl ⟨k, ringFrom_lt hn (List.mem_filter.1 hmem).1, rfl⟩)
    case h_2 => exact .inr (ring _ _).symm
  case h_4 => split <;> exact .inr (ring _ _).symm

theorem routePick_lt {w : Word} {n last : Nat} {bad idle : Nat → Bool} (hn : 0 < n) {k : Nat}
    (hk : k ∈ routePick w n last bad idle) : k < n := by
  obtain ⟨p, h⟩ | ⟨m, hm, h⟩ | h := routePick_cases w last bad idle hn <;> rw [h] at hk
  · exact List.mem_range.1 (List.mem_filter.1 hk).1
  · rwa [List.mem_singleton.1 hk]
  · cases hk

theorem routePick_nodup (w : Word) {n : Nat} (last : Nat) (bad idle : Nat → Bool) (hn : 0 < n) :
    (routePick w n last bad idle).Nodup := by
  obtain ⟨p, h⟩ | ⟨m, -, h⟩ | h := routePick_cases w last bad idle hn <;> rw [h]
  · exact List.nodup_range.filter p
  · exact List.nodup_singleton m
  · exact List.nodup_nil

/-- A member that a route may take: not excluded, or all are (R176). -/
def routeOk (w : Word) (n : Nat) (bad : Nat → Bool) (k : Nat) : Bool :=
  (List.range n).all (fun k => bit w (8 + k) || bad k) || !(bit w (8 + k) || bad k)

/-- A route looks at its own members only. -/
theorem routePick_congr (w : Word) {n : Nat} (last : Nat) {bad bad' idle idle' : Nat → Bool} (hn : 0 < n)
    (hbad : ∀ k, k < n → bad k = bad' k) (hidle : ∀ k, k < n → idle k = idle' k) :
    routePick w n last bad idle = routePick w n last bad' idle' := by
  have hall : (List.range n).all (fun k => bit w (8 + k) || bad k) = (List.range n).all (fun k => bit w (8 + k) || bad' k) := by
    rw [Bool.eq_iff_iff, List.all_eq_true, List.all_eq_true]
    refine forall₂_congr fun k hk => ?_
    rw [hbad k (List.mem_range.1 hk)]
  have hok : ∀ l : List Nat, (∀ k ∈ l, k < n) → l.filter (routeOk w n bad) = l.filter (routeOk w n bad') :=
    fun l hl => List.filter_congr fun k hk => by rw [routeOk, routeOk, hall, hbad k (hl k hk)]
  have hring : ∀ start, ∀ k ∈ ringFrom n start n, k < n := fun _ _ => ringFrom_lt hn
  unfold routeOk at hok
  unfold routePick
  dsimp only
  rw [hok _ fun k => List.mem_range.1, hok _ (hring _), hok _ (hring _),
    List.filter_congr (q := idle') fun k hk => hidle k (hring _ k (List.mem_filter.1 hk).1)]

theorem routeNow_plot (s : State) {p : Nat} (hp : p < 16) :
    routeNow s p = routePick (reg s (pgPlot p) 0x014) 8 (Tbl.get (fun _ => 0) s.rrLast p)
      (fun k => (physOf s (8 * p + k)).isNone) (slotIdle s p) := by
  simp [routeNow, routeWord, hp]

theorem routeNow_bed (s : State) {b : Nat} (hb : b < 4) :
    routeNow s (16 + b) = routePick (reg s pgDev (0x01C + 8 * b)) 4 (Tbl.get (fun _ => 0) s.rrLast (16 + b))
      (fun _ => false) (fun k => plotIdle s (4 * b + k)) := by
  simp [routeNow, routeWord, show 16 + b < 20 by omega]

theorem routeNow_device (s : State) :
    routeNow s 20 = routePick (reg s pgDev 0x014) 4 (Tbl.get (fun _ => 0) s.rrLast 20) (fun _ => false) (bedIdle s) := by
  simp [routeNow, routeWord]

/-! ## The frame of an arrival -/

/-- Arrivals at tines that `T` picks, by routes of the units that `U` picks, have made `s'` of `s`. -/
structure Arrivals (T U : Nat → Prop) (s s' : State) : Prop where
  fields : s' = { s with regs := s'.regs, tines := s'.tines, rrLast := s'.rrLast }
  pages : ∀ pg off, off < 1024 → pg < 0x100 → (pg ≠ pgNurs ∨ off ≠ 0x016) → reg s' pg off = reg s pg off
  tines : ∀ t, ¬ T t → tineAt s' t = tineAt s t
  routes : ∀ u, ¬ U u → Tbl.get (fun _ => 0) s'.rrLast u = Tbl.get (fun _ => 0) s.rrLast u
  pending : ∀ t n, n < 64 → sievePend s t n = true → sievePend s' t n = true

namespace Arrivals

variable {T U T' U' : Nat → Prop} {s s' s'' : State}

theorem refl (T U : Nat → Prop) (s : State) : Arrivals T U s s :=
  ⟨rfl, fun _ _ _ _ _ => rfl, fun _ _ => rfl, fun _ _ => rfl, fun _ _ _ h => h⟩

theorem mono (h : Arrivals T U s s') (hT : ∀ t, T t → T' t) (hU : ∀ u, U u → U' u) : Arrivals T' U' s s' :=
  ⟨h.fields, h.pages, fun t ht => h.tines t (mt (hT t) ht), fun u hu => h.routes u (mt (hU u) hu), h.pending⟩

/-- Whatever an arrival picks, it is an arrival. -/
theorem any (h : Arrivals T U s s') : Arrivals (fun _ => True) (fun _ => True) s s' :=
  h.mono (fun _ _ => trivial) (fun _ _ => trivial)

theorem trans (h : Arrivals T U s s') (h' : Arrivals T U s' s'') : Arrivals T U s s'' where
  fields := by rw [h'.fields, h.fields]
  pages pg off ho hp hne := (h'.pages pg off ho hp hne).trans (h.pages pg off ho hp hne)
  tines t ht := (h'.tines t ht).trans (h.tines t ht)
  routes u hu := (h'.routes u hu).trans (h.routes u hu)
  pending t n hn hs := h'.pending t n hn (h.pending t n hn hs)

theorem physOf_eq (h : Arrivals T U s s') {l : Nat} (hl : l < 128) : physOf s' l = physOf s l := by
  unfold physOf
  rw [h.pages pgNurs (0x020 + l) (by omega) (by decide) (.inr (by omega))]

theorem domSt_eq (h : Arrivals T U s s') (d : Nat) : domSt s' d = domSt s d := by rw [h.fields]; rfl

theorem tineUp_eq (h : Arrivals T U s s') (t : Nat) : tineUp s' t = tineUp s t := by
  simp only [tineUp, domUp, h.domSt_eq]

theorem chainAddr_eq (h : Arrivals T U s s') : chainAddr s' = chainAddr s := by
  unfold chainAddr regF
  rw [h.pages pgChain 0x011 (by decide) (by decide) (.inl (by decide))]

end Arrivals

/-- Operations done one after another, each an arrival of the same frame. -/
theorem forAll_arrivals {α : Type} {T U : Nat → Prop} {f : α → State → State} {s : State} (l : List α)
    (hstep : ∀ a ∈ l, ∀ x, Arrivals T U s x → Arrivals T U x (f a x)) : Arrivals T U s (forAll l f s) := by
  suffices ∀ x, Arrivals T U s x → Arrivals T U s (forAll l f x) from this s (.refl T U s)
  induction l with
  | nil => exact fun x hx => hx
  | cons a l ih =>
    intro x hx
    exact ih (fun b hb => hstep b (List.mem_cons_of_mem a hb)) _ (hx.trans (hstep a List.mem_cons_self x hx))

/-- Members served one after another, each changing what is its own: a member that has not been served finds its own part as
it stood, and what it then holds pending stays so. -/
theorem forAll_raised {T U : Nat → Nat → Prop} {P : Nat → State → Prop} {f : Nat → State → State} {s : State} {l : List Nat} (hnodup : l.Nodup)
    (hstable : ∀ a x y, Arrivals (fun _ => True) (fun _ => True) x y → P a x → P a y)
    (hstep : ∀ a ∈ l, ∀ x, Arrivals (fun t => ∃ b, b ≠ a ∧ T b t) (fun u => ∃ b, b ≠ a ∧ U b u) s x →
      Arrivals (T a) (U a) x (f a x) ∧ P a (f a x)) :
    ∀ a ∈ l, P a (forAll l f s) := by
  suffices h : ∀ x, Arrivals (fun t => ∃ b, b ∉ l ∧ T b t) (fun u => ∃ b, b ∉ l ∧ U b u) s x →
      Arrivals (fun _ => True) (fun _ => True) x (forAll l f x) ∧ ∀ a ∈ l, P a (forAll l f x) from
    (h s (.refl _ _ s)).2
  induction l with
  | nil => exact fun x _ => ⟨.refl _ _ x, fun a ha => nomatch ha⟩
  | cons a l ih =>
    intro x hx
    obtain ⟨hal, hnodup⟩ := List.nodup_cons.1 hnodup
    obtain ⟨hfirst, hP⟩ := hstep a List.mem_cons_self x
      (hx.mono (fun t ⟨b, hb, h⟩ => ⟨b, fun e => hb (e ▸ List.mem_cons_self), h⟩)
        (fun u ⟨b, hb, h⟩ => ⟨b, fun e => hb (e ▸ List.mem_cons_self), h⟩))
    have hnext : Arrivals (fun t => ∃ b, b ∉ l ∧ T b t) (fun u => ∃ b, b ∉ l ∧ U b u) s (f a x) :=
      (hx.mono (fun t ⟨b, hb, h⟩ => ⟨b, fun e => hb (List.mem_cons_of_mem a e), h⟩)
        (fun u ⟨b, hb, h⟩ => ⟨b, fun e => hb (List.mem_cons_of_mem a e), h⟩)).trans
        (hfirst.mono (fun t h => ⟨a, hal, h⟩) (fun u h => ⟨a, hal, h⟩))
    obtain ⟨hrest, hPs⟩ := ih hnodup (fun b (hb : b ∈ l) => hstep b (List.mem_cons_of_mem a hb)) _ hnext
    refine ⟨hfirst.any.trans hrest, fun b hb => ?_⟩
    obtain rfl | hb := List.mem_cons.1 hb
    · exact hstable b _ _ hrest hP
    · exact hPs b hb

/-! ## Arrivals at a tine -/

/-- A write to a register of tine `t`, other than its pending bits. -/
theorem setReg_arrivals (s : State) {t off : Nat} (v : Word) (hoff : off < 1024) (hlo : off ≠ oPENDLO) (hhi : off ≠ oPENDLO + 1) :
    Arrivals (· = t) (fun _ => False) s (setReg (pgTine t) off v s) where
  fields := rfl
  pages pg o ho hp _ := reg_setReg_page s v (by unfold pgTine; omega) ho hoff
  tines _ _ := rfl
  routes _ _ := rfl
  pending u n hn h := by
    have hne : oPENDLO + n / 32 ≠ off := by unfold oPENDLO at *; omega
    have hlt : oPENDLO + n / 32 < 1024 := by unfold oPENDLO; omega
    unfold sievePend regB
    rwa [reg_setReg s v hlt hoff, if_neg (fun e => hne e.2)]

theorem setEntry_arrivals (s : State) (t : Nat) (e : Option Nat) : Arrivals (· = t) (fun _ => False) s (setEntry t e s) where
  fields := rfl
  pages _ _ _ _ _ := rfl
  tines _ hu := tineAt_modTine_ne s _ hu
  routes _ _ := rfl
  pending _ _ _ h := h

theorem sieveUpdate_arrivals (s : State) (t : Nat) : Arrivals (· = t) (fun _ => False) s (sieveUpdate t s) := by
  unfold sieveUpdate
  split
  case h_1 => exact .refl _ _ s
  case h_2 n _ _ =>
    split
    · exact .refl _ _ s
    · exact setEntry_arrivals s t (some n)
  case h_3 => exact setEntry_arrivals s t none
  case h_4 e n _ _ =>
    have hentry := setEntry_arrivals s t (some n)
    split
    · exact .refl _ _ s
    split
    · exact hentry.trans (setReg_arrivals _ _ (by decide) (by decide) (by decide))
    · exact hentry

theorem sievePend_setPend_same (s : State) (t n : Nat) (b : Bool) : sievePend (setPend t n b s) t n = b := by
  unfold sievePend setPend regB setRegB setRegF
  rw [reg_setReg_same]
  exact bit_setB_same _ b (by omega)

section
variable {n : Nat} (hn : n < 64)
include hn

/-- Setting a pending bit leaves the others. -/
theorem setPend_arrivals (s : State) (t : Nat) : Arrivals (· = t) (fun _ => False) s (setPend t n true s) where
  fields := rfl
  pages pg o ho hp _ := reg_setReg_page s _ (by unfold pgTine; omega) ho (by unfold oPENDLO; omega)
  tines _ _ := rfl
  routes _ _ := rfl
  pending u m hm h := by
    have hlt : ∀ {k : Nat}, k < 64 → oPENDLO + k / 32 < 1024 := fun hk => by unfold oPENDLO; omega
    unfold sievePend setPend regB setRegB setRegF at *
    rw [reg_setReg s _ (hlt hm) (hlt hn)]
    split
    · next he =>
      obtain ⟨ht, ho⟩ := he
      by_cases hb : m % 32 = n % 32
      · rw [hb]
        exact bit_setB_same _ true (by omega)
      · rw [← ht, ← ho]
        exact (bit_setB_ne _ true hb).trans h
    · exact h

theorem raise_arrivals (s : State) (t : Nat) : Arrivals (· = t) (fun _ => False) s (raise t n s) := by
  unfold raise
  split
  · exact (setPend_arrivals hn s t).trans (sieveUpdate_arrivals _ t)
  · exact .refl _ _ s

theorem sievePend_raise {s : State} {t : Nat} (hup : tineUp s t = true) : sievePend (raise t n s) t n = true := by
  unfold raise
  rw [if_pos hup]
  exact (sieveUpdate_arrivals _ t).pending t n hn (sievePend_setPend_same s t n true)

/-! ## Arrivals at a slot -/

theorem raiseLog_arrivals (s : State) (l : Nat) : Arrivals (fun t => physOf s l = some t) (fun _ => False) s (raiseLog n l s) := by
  unfold raiseLog
  split
  · next t ht => exact (raise_arrivals hn s t).mono (fun u hu => hu ▸ ht) (fun _ => id)
  · exact {
      fields := rfl
      pages := fun pg o ho _ hne => by
        unfold bumpF setRegF
        rw [reg_setReg s _ ho (by decide), if_neg (by tauto)]
      tines := fun _ _ => rfl
      routes := fun _ _ => rfl
      pending := fun t m hm h => by
        unfold sievePend regB bumpF setRegF at *
        rwa [reg_setReg_page s _ (by unfold pgTine pgNurs; omega) (by unfold oPENDLO; omega) (by decide)] }

/-- An arrival at a slot is pending at the tine that serves it (R160, R405). -/
theorem slotRaised_raiseLog (s : State) (l : Nat) : SlotRaised n l s (raiseLog n l s) := by
  intro t ht hup
  unfold raiseLog
  rw [ht]
  exact sievePend_raise hn hup

end

/-! ## Arrivals at plots, beds and the device -/

theorem routeNow_plot_lt {s : State} {p k : Nat} (hp : p < 16) (hk : k ∈ routeNow s p) : k < 8 := by
  rw [routeNow_plot s hp] at hk
  exact routePick_lt (by decide) hk

theorem routeNow_bed_lt {s : State} {b k : Nat} (hb : b < 4) (hk : k ∈ routeNow s (16 + b)) : k < 4 := by
  rw [routeNow_bed s hb] at hk
  exact routePick_lt (by decide) hk

theorem routeNow_device_lt {s : State} {b : Nat} (hb : b ∈ routeNow s 20) : b < 4 := by
  rw [routeNow_device] at hb
  exact routePick_lt (by decide) hb

/-- A route that took one member keeps which one it was. -/
theorem noteRR_arrivals (s : State) (u : Nat) (ks : List Nat) : Arrivals (fun _ => False) (· = u) s (noteRR u ks s) := by
  unfold noteRR
  split
  · split
    · next k _ =>
      exact ⟨rfl, fun _ _ _ _ _ => rfl, fun _ _ => rfl, fun v hv => Tbl.get_set_ne (fun _ => 0) s.rrLast (k + 1) hv, fun _ _ _ h => h⟩
    · exact .refl _ _ s
  · exact .refl _ _ s

section
variable {n : Nat} (hn : n < 64)
include hn

/-- An event at a plot reaches tines that serve its slots (R175). -/
theorem raisePlot_arrivals (s : State) {p : Nat} (hp : p < 16) :
    Arrivals (fun t => ∃ l, l < 128 ∧ l / 8 = p ∧ physOf s l = some t) (· = p) s (raisePlot n p s) := by
  have hnote := noteRR_arrivals s p (routeNow s p)
  refine (hnote.mono (fun _ => False.elim) (fun _ => id)).trans (forAll_arrivals _ fun k hk x hx => ?_)
  have hk := routeNow_plot_lt hp hk
  refine (raiseLog_arrivals hn x (8 * p + k)).mono (fun t ht => ⟨8 * p + k, by omega, by omega, ?_⟩) (fun _ => False.elim)
  rwa [← hnote.physOf_eq (by omega), ← hx.physOf_eq (by omega)]

/-- An event at a bed reaches tines that serve slots of its plots (R175). -/
theorem raiseBed_arrivals (s : State) {b : Nat} (hb : b < 4) :
    Arrivals (fun t => ∃ l, l < 128 ∧ l / 32 = b ∧ physOf s l = some t) (fun u => u = 16 + b ∨ u < 16 ∧ u / 4 = b) s
      (raiseBed n b s) := by
  have hnote := noteRR_arrivals s (16 + b) (routeNow s (16 + b))
  refine (hnote.mono (fun _ => False.elim) (fun _ => .inl)).trans (forAll_arrivals _ fun k hk x hx => ?_)
  have hk := routeNow_bed_lt hb hk
  refine (raisePlot_arrivals hn x (by omega)).mono (fun t ⟨l, hl, hlp, ht⟩ => ⟨l, hl, by omega, ?_⟩) (fun u hu => .inr (by omega))
  rwa [← hnote.physOf_eq hl, ← hx.physOf_eq hl]

theorem raiseDev_arrivals (s : State) : Arrivals (fun _ => True) (fun _ => True) s (raiseDev n s) :=
  (noteRR_arrivals s 20 _).any.trans (forAll_arrivals _ fun _ hb x _ => (raiseBed_arrivals hn x (routeNow_device_lt hb)).any)

end

theorem ownPlots_of_arrivals {T U : Nat → Prop} {s x : State} (hown : OwnPlots s) (h : Arrivals T U s x) : OwnPlots x :=
  fun l hl t ht => hown l hl t (h.physOf_eq hl ▸ ht)

/-! ## Routes that no arrival so far has touched -/

section
variable {T U : Nat → Prop} {s x : State} (hown : OwnPlots s) (h : Arrivals T U s x)
include hown h

theorem slotIdle_of_arrivals {p k : Nat} (hp : p < 16) (hk : k < 8) (hT : ∀ t, t / 9 = p → ¬ T t) :
    slotIdle x p k = slotIdle s p k := by
  unfold slotIdle
  rw [h.physOf_eq (by omega)]
  split
  · next t ht =>
    have htine := h.tines t (hT t (by have := hown _ (by omega) t ht; omega))
    simp only [asleep, htine]
  · rfl

theorem routeNow_plot_of_arrivals {p : Nat} (hp : p < 16) (hT : ∀ t, t / 9 = p → ¬ T t) (hU : ¬ U p) :
    routeNow x p = routeNow s p := by
  rw [routeNow_plot x hp, routeNow_plot s hp, h.routes p hU,
    h.pages (pgPlot p) 0x014 (by decide) (by unfold pgPlot; omega) (.inr (by decide))]
  exact routePick_congr _ _ (by decide) (fun k hk => by rw [h.physOf_eq (by omega)])
    fun k hk => slotIdle_of_arrivals hown h hp hk hT

theorem plotIdle_of_arrivals {p : Nat} (hp : p < 16) (hT : ∀ t, t / 9 = p → ¬ T t) : plotIdle x p = plotIdle s p := by
  unfold plotIdle
  rw [Bool.eq_iff_iff, List.any_eq_true, List.any_eq_true]
  exact exists_congr fun k => and_congr_right fun hk => by
    rw [slotIdle_of_arrivals hown h hp (List.mem_range.1 hk) hT]

theorem bedIdle_of_arrivals {b : Nat} (hb : b < 4) (hT : ∀ t, t / 36 = b → ¬ T t) : bedIdle x b = bedIdle s b := by
  unfold bedIdle
  rw [Bool.eq_iff_iff, List.any_eq_true, List.any_eq_true]
  exact exists_congr fun k => and_congr_right fun hk => by
    have := List.mem_range.1 hk
    rw [plotIdle_of_arrivals hown h (by omega) fun t ht => hT t (by omega)]

theorem routeNow_bed_of_arrivals {b : Nat} (hb : b < 4) (hT : ∀ t, t / 36 = b → ¬ T t) (hU : ¬ U (16 + b)) :
    routeNow x (16 + b) = routeNow s (16 + b) := by
  rw [routeNow_bed x hb, routeNow_bed s hb, h.routes _ hU,
    h.pages pgDev (0x01C + 8 * b) (by omega) (by decide) (.inl (by decide))]
  exact routePick_congr _ _ (by decide) (fun _ _ => rfl)
    fun k hk => plotIdle_of_arrivals hown h (by omega) fun t ht => hT t (by omega)

end

/-! ## What the routes select is raised -/

section
variable {n : Nat} {T U : Nat → Prop} {s x y : State}

/-- What a slot's arrival has made pending is so of the state before other arrivals. -/
theorem slotRaised_of_arrivals (h : Arrivals T U s x) {l : Nat} (hl : l < 128) (hx : SlotRaised n l x y) : SlotRaised n l s y :=
  fun t ht hup => hx t (by rwa [h.physOf_eq hl]) (by rwa [h.tineUp_eq])

theorem plotRaised_of_arrivals (hown : OwnPlots s) (h : Arrivals T U s x) {p : Nat} (hp : p < 16) (hT : ∀ t, t / 9 = p → ¬ T t)
    (hU : ¬ U p) (hx : PlotRaised n p x y) : PlotRaised n p s y := by
  intro k hk
  rw [← routeNow_plot_of_arrivals hown h hp hT hU] at hk
  exact slotRaised_of_arrivals h (by have := routeNow_plot_lt hp hk; omega) (hx k hk)

theorem bedRaised_of_arrivals (hown : OwnPlots s) (h : Arrivals T U s x) {b : Nat} (hb : b < 4) (hT : ∀ t, t / 36 = b → ¬ T t)
    (hU : ∀ u, u = 16 + b ∨ u < 16 ∧ u / 4 = b → ¬ U u) (hx : BedRaised n b x y) : BedRaised n b s y := by
  intro k hk
  rw [← routeNow_bed_of_arrivals hown h hb hT (hU _ (.inl rfl))] at hk
  have hk4 := routeNow_bed_lt hb hk
  exact plotRaised_of_arrivals hown h (by omega) (fun t ht => hT t (by omega)) (hU _ (.inr (by omega))) (hx k hk)

theorem devRaised_of_arrivals (hown : OwnPlots s) (h : Arrivals (fun _ => False) U s x) (hU : ∀ u, u ≤ 20 → ¬ U u)
    (hx : DevRaised n x y) : DevRaised n s y := by
  have hroute : routeNow x 20 = routeNow s 20 := by
    rw [routeNow_device x, routeNow_device s, h.routes 20 (hU 20 le_rfl), h.pages pgDev 0x014 (by decide) (by decide) (.inl (by decide))]
    exact routePick_congr _ _ (by decide) (fun _ _ => rfl) fun b hb => bedIdle_of_arrivals hown h hb fun _ _ => id
  intro b hb
  have hb4 := routeNow_device_lt hb
  exact bedRaised_of_arrivals hown h hb4 (fun _ _ => id) (fun u hu => hU u (by omega)) (hx b (hroute ▸ hb))

end

section
variable {n : Nat} (hn : n < 64)
include hn

section
variable {T U : Nat → Prop} {s x y : State}

theorem slotRaised_later {l : Nat} (hx : SlotRaised n l s x) (h : Arrivals T U x y) : SlotRaised n l s y :=
  fun t ht hup => h.pending t n hn (hx t ht hup)

theorem plotRaised_later {p : Nat} (hx : PlotRaised n p s x) (h : Arrivals T U x y) : PlotRaised n p s y :=
  fun k hk => slotRaised_later hn (hx k hk) h

theorem bedRaised_later {b : Nat} (hx : BedRaised n b s x) (h : Arrivals T U x y) : BedRaised n b s y :=
  fun k hk => plotRaised_later hn (hx k hk) h

end

/-- An event at a plot is pending at every member that its route selects (R175, R176). -/
theorem plotRaised_raisePlot (s : State) {p : Nat} (hp : p < 16) : PlotRaised n p s (raisePlot n p s) := by
  have hnote := noteRR_arrivals s p (routeNow s p)
  have hnodup : (routeNow s p).Nodup := by
    rw [routeNow_plot s hp]
    exact routePick_nodup _ _ _ _ (by decide)
  refine forAll_raised (T := fun _ _ => True) (U := fun _ _ => True) (P := fun k => SlotRaised n (8 * p + k) s) hnodup
    (fun k x y h hx => slotRaised_later hn hx h) fun k hk x hx => ⟨(raiseLog_arrivals hn x _).any, ?_⟩
  have hl : 8 * p + k < 128 := by have := routeNow_plot_lt hp hk; omega
  exact slotRaised_of_arrivals (hnote.any.trans hx.any) hl (slotRaised_raiseLog hn x _)

/-- An event at a bed is pending at every member that its route and those of its plots select: the plots share no tine. -/
theorem bedRaised_raiseBed {s : State} (hown : OwnPlots s) {b : Nat} (hb : b < 4) : BedRaised n b s (raiseBed n b s) := by
  have hnote := noteRR_arrivals s (16 + b) (routeNow s (16 + b))
  have hnodup : (routeNow s (16 + b)).Nodup := by
    rw [routeNow_bed s hb]
    exact routePick_nodup _ _ _ _ (by decide)
  refine forAll_raised (T := fun k t => t / 9 = 4 * b + k) (U := fun k u => u = 4 * b + k)
    (P := fun k => PlotRaised n (4 * b + k) s) hnodup (fun k x y h hx => plotRaised_later hn hx h) fun k hk x hx => ?_
  have hp : 4 * b + k < 16 := by have := routeNow_bed_lt hb hk; omega
  have hbefore : Arrivals (fun t => ∃ j, j ≠ k ∧ t / 9 = 4 * b + j) (fun u => u = 16 + b ∨ ∃ j, j ≠ k ∧ u = 4 * b + j) s x :=
    (hnote.mono (fun _ => False.elim) (fun _ => .inl)).trans (hx.mono (fun _ => id) (fun _ => .inr))
  refine ⟨(raisePlot_arrivals hn x hp).mono (fun t ⟨l, hl, hlp, ht⟩ => ?_) (fun _ => id), ?_⟩
  · rw [ownPlots_of_arrivals hown hbefore l hl t ht, hlp]
  · exact plotRaised_of_arrivals hown hbefore hp (fun t ht ⟨j, hj, hjt⟩ => hj (by omega)) (by omega) (plotRaised_raisePlot hn x hp)

/-- An event at the device is pending at every member that its route and those below select: the beds share no tine. -/
theorem devRaised_raiseDev {s : State} (hown : OwnPlots s) : DevRaised n s (raiseDev n s) := by
  have hnote := noteRR_arrivals s 20 (routeNow s 20)
  have hnodup : (routeNow s 20).Nodup := by
    rw [routeNow_device]
    exact routePick_nodup _ _ _ _ (by decide)
  refine forAll_raised (T := fun b t => t / 36 = b) (U := fun b u => u = 16 + b ∨ u < 16 ∧ u / 4 = b)
    (P := fun b => BedRaised n b s) hnodup (fun b x y h hx => bedRaised_later hn hx h) fun b hb x hx => ?_
  have hb := routeNow_device_lt hb
  have hbefore : Arrivals (fun t => ∃ c, c ≠ b ∧ t / 36 = c) (fun u => u = 20 ∨ ∃ c, c ≠ b ∧ (u = 16 + c ∨ u < 16 ∧ u / 4 = c)) s x :=
    (hnote.mono (fun _ => False.elim) (fun _ => .inl)).trans (hx.mono (fun _ => id) (fun _ => .inr))
  refine ⟨(raiseBed_arrivals hn x hb).mono (fun t ⟨l, hl, hlb, ht⟩ => ?_) (fun _ => id), ?_⟩
  · have := ownPlots_of_arrivals hown hbefore l hl t ht
    omega
  · exact bedRaised_of_arrivals hown hbefore hb (fun t ht ⟨c, hc, hct⟩ => hc (by omega)) (fun u hu hne => by omega)
      (bedRaised_raiseBed hn (ownPlots_of_arrivals hown hbefore) hb)

end

end Sys2Proof.Machine
end

section
/-! SUPPORT. Mailboxes (R21–R24): how the registers of a unit's face reach its mailbox, what an accepted item leaves and raises, the
best item of a list, and the statement about them. -/

namespace Sys2Proof.Machine

/-! ## Counts in a register -/

section
variable (s : State) {pg off lo len : Nat} (hfield : lo + len ≤ 40)
include hfield

theorem regF_setRegF_same (v : Nat) : regF (setRegF pg off lo len v s) pg off lo len = v % 2 ^ len := by
  unfold regF setRegF
  rw [reg_setReg_same, getF_setF_same _ v hfield]

/-- A count goes up and stops at its largest value (R69). -/
theorem regF_bumpF_same (n : Nat) : regF (bumpF pg off lo len n s) pg off lo len = min (2 ^ len - 1) (regF s pg off lo len + n) := by
  unfold bumpF satAdd
  have := Nat.two_pow_pos len
  rw [regF_setRegF_same s hfield, Nat.mod_eq_of_lt (by omega)]

end

/-! ## The registers of a unit's face -/

theorem pageKind_plot {p : Nat} (hp : p < 16) : pageKind (pgPlot p) = some (.plot, p) := by
  interval_cases p <;> rfl

/-- The page of a unit's face is a DEV or PLOT page and leads each of its registers back to the unit (Table 1-3). -/
theorem mboxReg_page (u : MUnit) : ∃ k i, (k = .dev ∨ k = .plot) ∧ pageKind (mboxReg u).1 = some (k, i) ∧
    ∀ j, j < 3 → mboxAt k i ((mboxReg u).2 + j) = some (u, j + 1) := by
  cases u with
  | plot p =>
    refine ⟨.plot, p, .inr rfl, pageKind_plot p.isLt, fun j hj => ?_⟩
    interval_cases j <;> simp [mboxReg, mboxAt]
  | slot l =>
    refine ⟨.plot, l / 8, .inr rfl, pageKind_plot (by omega), fun j hj => ?_⟩
    have hoff : 0x019 + 4 * (l.val % 8) + j - 0x018 = 4 * (l.val % 8) + (j + 1) := by omega
    have hslot : 8 * (l.val / 8) + (4 * (l.val % 8) + (j + 1)) / 4 = l.val := by omega
    have hface : (4 * (l.val % 8) + (j + 1)) % 4 = j + 1 := by omega
    simp only [mboxReg, mboxAt, hoff, hslot, hface]
    rw [if_neg (by omega), if_pos (by omega)]
    simp
  | bed b =>
    refine ⟨.dev, 0, .inl rfl, rfl, fun j hj => ?_⟩
    have hoff : 0x019 + 8 * b.val + j - 0x018 = 8 * b.val + (j + 1) := by omega
    have hbed : (8 * b.val + (j + 1)) / 8 = b.val := by omega
    have hface : (8 * b.val + (j + 1)) % 8 = j + 1 := by omega
    simp only [mboxReg, mboxAt, hoff, hbed, hface]
    rw [if_neg (by omega), if_pos (by omega)]
    simp
  | device =>
    refine ⟨.dev, 0, .inl rfl, rfl, fun j hj => ?_⟩
    interval_cases j <;> rfl
  | chain =>
    refine ⟨.dev, 0, .inl rfl, rfl, fun j hj => ?_⟩
    interval_cases j <;> rfl

theorem mboxReg_off (u : MUnit) : 0x010 ≤ (mboxReg u).2 ∧ (mboxReg u).2 + 2 < 1024 := by
  cases u <;> simp only [mboxReg] <;> omega

theorem mboxReg_ne_boot (u : MUnit) : (mboxReg u).1 ≠ pgBoot := by
  cases u <;> simp only [mboxReg, pgPlot, pgDev, pgBoot] <;> omega

/-- A write to a register of a unit's face (R24). -/
theorem regWrite_face (w : Who) (u : MUnit) {j : Nat} (hj : j < 3) (v : Word) (s : State) :
    regWrite w (mboxReg u).1 ((mboxReg u).2 + j) v s = faceWrite w u (j + 1) (mboxReg u).1 ((mboxReg u).2 + j) v s := by
  obtain ⟨k, i, hk, hpage, hat⟩ := mboxReg_page u
  obtain ⟨hlo, -⟩ := mboxReg_off u
  unfold regWrite regWriteBase
  rw [if_neg (fun h => mboxReg_ne_boot u h.1), hpage]
  dsimp only
  rw [if_neg (by omega), if_neg (by omega)]
  obtain rfl | rfl := hk <;> simp only [devWrite, hat j hj]

/-- A read of a register of a unit's face (R24). -/
theorem regRead_face (w : Who) (u : MUnit) {j : Nat} (hj : j < 3) (s : State) :
    regRead w (mboxReg u).1 ((mboxReg u).2 + j) s = faceRead u (j + 1) (mboxReg u).1 ((mboxReg u).2 + j) s := by
  obtain ⟨k, i, hk, hpage, hat⟩ := mboxReg_page u
  obtain ⟨hlo, -⟩ := mboxReg_off u
  unfold regRead
  rw [hpage]
  dsimp only
  rw [if_neg (by omega), if_neg (by omega)]
  obtain rfl | rfl := hk <;> simp only [devRead, hat j hj]

section
variable {s : State} {w : Who} {u : MUnit}

theorem gatedWrite_put (item : Word) (hgate : regGate s w (mboxReg u).1 (mboxReg u).2 = .ok) :
    gatedWrite w (mboxReg u).1 (mboxReg u).2 item s = mboxWrite w u item s := by
  rw [gatedWrite, gated_of_ok _ hgate]
  exact regWrite_face w u (j := 0) (by decide) item s

theorem gatedRead_take (hgate : regGate s w (mboxReg u).1 ((mboxReg u).2 + 1) = .ok) :
    gatedRead w (mboxReg u).1 ((mboxReg u).2 + 1) s = { (mboxTake u s).2 with readData := (mboxTake u s).1 } := by
  unfold gatedRead
  rw [hgate]
  dsimp only
  rw [regRead_face w u (by decide) s]
  rfl

theorem gatedWrite_stat (v : Word) (hv : bit v 31 = true) (hgate : regGate s w (mboxReg u).1 ((mboxReg u).2 + 2) = .ok) :
    gatedWrite w (mboxReg u).1 ((mboxReg u).2 + 2) v s = setRegF (mboxReg u).1 ((mboxReg u).2 + 2) 8 8 0 s := by
  rw [gatedWrite, gated_of_ok _ hgate, regWrite_face w u (by decide) v s]
  exact if_pos hv

end

/-! ## The best item -/

@[simp] theorem dropAt_eq_eraseIdx {α : Type} (l : List α) (k : Nat) : dropAt l k = l.eraseIdx k := by
  induction l generalizing k with
  | nil => rfl
  | cons a l ih => cases k <;> simp [dropAt, ih]

/-- The first item of highest priority stands at position `k` (R21, R251). -/
def IsBest (l : List Word) (k : Nat) (x : Word) : Prop :=
  l[k]? = some x ∧ ∀ (j : Nat) (y : Word), l[j]? = some y → getF y 36 4 ≤ getF x 36 4 ∧ (j < k → getF y 36 4 < getF x 36 4)

/-- In front of a list with a best item, an item of lower priority leaves that one the best. -/
theorem IsBest.cons_of_lt {l : List Word} {k : Nat} {x a : Word} (h : IsBest l k x) (ha : getF a 36 4 < getF x 36 4) :
    IsBest (a :: l) (k + 1) x := by
  refine ⟨h.1, fun j y hy => ?_⟩
  cases j with
  | zero => obtain rfl : a = y := Option.some.inj hy; exact ⟨by omega, fun _ => ha⟩
  | succ j => exact ⟨(h.2 j y hy).1, fun hj => (h.2 j y hy).2 (by omega)⟩

/-- An item before all others of no higher priority is the best. -/
theorem isBest_head {l : List Word} {a : Word} (h : ∀ y ∈ l, getF y 36 4 ≤ getF a 36 4) : IsBest (a :: l) 0 a := by
  refine ⟨rfl, fun j y hy => ⟨?_, fun hj => absurd hj (by omega)⟩⟩
  obtain rfl | hy := List.mem_cons.1 (List.mem_of_getElem? hy)
  · exact le_rfl
  · exact h y hy

theorem IsBest.mem_le {l : List Word} {k : Nat} {x y : Word} (h : IsBest l k x) (hy : y ∈ l) : getF y 36 4 ≤ getF x 36 4 := by
  obtain ⟨j, hj⟩ := List.mem_iff_getElem?.1 hy
  exact (h.2 j y hj).1

/-- A list that is not empty has a best item, and `bestItem` is its position. -/
theorem bestItem_isBest {l : List Word} (hl : l ≠ []) : ∃ k x, bestItem l = some k ∧ IsBest l k x := by
  induction l with
  | nil => exact absurd rfl hl
  | cons a l ih =>
    rw [bestItem]
    by_cases hnil : l = []
    · subst hnil
      exact ⟨0, a, rfl, isBest_head (fun _ hy => nomatch hy)⟩
    · obtain ⟨k, x, hk, hbest⟩ := ih hnil
      simp only [hk, hbest.1, itemPri]
      by_cases hlt : getF a 36 4 < getF x 36 4
      · exact ⟨k + 1, x, if_pos hlt, hbest.cons_of_lt hlt⟩
      · exact ⟨0, a, if_neg hlt, isBest_head fun y hy => (hbest.mem_le hy).trans (by omega)⟩

/-! ## Items of a mailbox -/

theorem mboxNo_injective : Function.Injective mboxNo := by
  intro u v h
  cases u <;> cases v <;> simp [mboxNo, Fin.ext_iff] at h ⊢ <;> omega

section
variable (s : State) (u : MUnit) (l : List Word)

@[simp] theorem mboxItems_setMbox_same : mboxItems (setMbox u l s) u = l := Tbl.get_set_same _ _ _ _

theorem mboxItems_setMbox_ne {v : MUnit} (h : v ≠ u) : mboxItems (setMbox u l s) v = mboxItems s v :=
  Tbl.get_set_ne _ _ _ (mboxNo_injective.ne h)

end

/-! ## Acceptance -/

/-- What an event leaves alone: memory, hoppers, mailboxes and the writes that wait at them. -/
def boxes (s : State) : Tbl Word × Tbl HopQ × Tbl (List Word) × List (Withheld × Nat × Word) := (s.mem, s.hops, s.mbox, s.withheld)

theorem Arrivals.boxes_eq {T U : Nat → Prop} {s s' : State} (h : Arrivals T U s s') : boxes s' = boxes s := by
  rw [h.fields]
  rfl

theorem boxes_portQueue (p : Nat) (c : Cell) (s : State) : boxes (portQueue p c s) = boxes s := by
  unfold portQueue
  split <;> rfl

theorem boxes_cellForward (p : Nat) (c : Cell) (s : State) : boxes (cellForward p c s) = boxes s := by
  unfold cellForward
  split
  · split
    · exact boxes_portQueue p c _
    · exact boxes_portQueue _ _ s
  · split
    · exact boxes_portQueue p c _
    · exact boxes_portQueue p c s

theorem boxes_cellRoute (c : Cell) (s : State) : boxes (cellRoute c s) = boxes s := by
  unfold cellRoute
  split
  · rfl
  · exact boxes_cellForward _ c s

theorem boxes_raiseChain (cls n : Nat) (hn : n < 64) (s : State) : boxes (raiseChain cls n s) = boxes s := by
  have hforAll : ∀ (ks : List Nat) (x : State), boxes (forAll ks (fun k x =>
      if k = chainAddr x then raiseDev n x else cellRoute (mkCell x 4 k cls [eventWord 3 0 n]) x) x) = boxes x := by
    intro ks
    induction ks with
    | nil => exact fun x => rfl
    | cons k ks ih =>
      intro x
      refine (ih _).trans ?_
      dsimp only
      split
      · exact (raiseDev_arrivals hn x).boxes_eq
      · exact boxes_cellRoute _ _
  unfold raiseChain
  split
  · exact (hforAll _ _).trans (noteRR_arrivals _ 21 _).boxes_eq
  · rfl

theorem boxes_mboxEvent (u : MUnit) (s : State) : boxes (mboxEvent u s) = boxes s := by
  cases u with
  | plot p => exact (raisePlot_arrivals (by decide) s p.isLt).boxes_eq
  | slot l => exact (raiseLog_arrivals (by decide) s l).boxes_eq
  | bed b => exact (raiseBed_arrivals (by decide) s b.isLt).boxes_eq
  | device => exact (raiseDev_arrivals (by decide) s).boxes_eq
  | chain => exact boxes_raiseChain 0 63 (by decide) s

/-- An event at the chain whose route selects this device alone is raised on the members of the device (R175). -/
theorem devRaised_raiseChain {n : Nat} (hn : n < 64) {s : State} (hready : chainReady s = true) (hown : OwnPlots s)
    (hroute : routePick (routeWord s 21) (devicesM1 s + 1) (Tbl.get (fun _ => 0) s.rrLast 21) (chainBad s) (chainIdle s) =
      [chainAddr s]) : DevRaised n s (raiseChain 0 n s) := by
  have hnote := noteRR_arrivals { s with free := s.free + 16 } 21 [chainAddr s]
  have hevent : raiseChain 0 n s = raiseDev n (noteRR 21 [chainAddr s] { s with free := s.free + 16 }) := by
    unfold raiseChain
    rw [if_pos hready]
    dsimp only
    rw [hroute]
    exact if_pos hnote.chainAddr_eq.symm
  rw [hevent]
  exact devRaised_of_arrivals (s := { s with free := s.free + 16 }) hown hnote (by decide)
    (devRaised_raiseDev hn (ownPlots_of_arrivals (s := { s with free := s.free + 16 }) hown hnote))

/-- The event of an accepted write is raised on the members that the unit's route selects (R22). -/
theorem mboxRaised_mboxEvent (u : MUnit) (s : State) (hface : u = .chain → chainFaceOn s = true) : MboxRaised u s (mboxEvent u s) := by
  cases u with
  | plot p => exact plotRaised_raisePlot (by decide) s p.isLt
  | slot l => exact slotRaised_raiseLog (by decide) s l
  | bed b => exact fun hown => bedRaised_raiseBed (by decide) hown b.isLt
  | device => exact fun hown => devRaised_raiseDev (by decide) hown
  | chain => exact fun hown hroute => devRaised_raiseChain (by decide) (Bool.and_eq_true_iff.1 (hface rfl)).2 hown hroute

/-- The unit's mailbox holds the item last, its event is raised, and no other mailbox and no memory has changed (R21, R22). -/
structure Accepted (u : MUnit) (item : Word) (s s' : State) : Prop where
  items : mboxItems s' u = mboxItems s u ++ [item]
  others : s'.mem = s.mem ∧ s'.hops = s.hops ∧ ∀ v, v ≠ u → mboxItems s' v = mboxItems s v
  raised : MboxRaised u s s'
  withheld : s'.withheld = s.withheld

theorem mboxAccept_accepted {u : MUnit} (item : Word) {s : State} (hface : u = .chain → chainFaceOn s = true) :
    Accepted u item s (mboxAccept u item s) := by
  have hboxes := boxes_mboxEvent u (setMbox u (mboxItems s u ++ [item]) s)
  simp only [boxes, Prod.mk.injEq] at hboxes
  obtain ⟨hmem, hhops, hmbox, hwithheld⟩ := hboxes
  have hitems : ∀ v, mboxItems (mboxAccept u item s) v = mboxItems (setMbox u (mboxItems s u ++ [item]) s) v :=
    fun v => congrArg (fun m => Tbl.get (fun _ => []) m (mboxNo v)) hmbox
  refine ⟨(hitems u).trans (mboxItems_setMbox_same ..), ⟨hmem, hhops, fun v hv => (hitems v).trans (mboxItems_setMbox_ne _ _ _ hv)⟩,
    ?_, hwithheld⟩
  have hraised := mboxRaised_mboxEvent u (setMbox u (mboxItems s u ++ [item]) s) hface
  cases u <;> exact hraised

/-! ## Discarded writes -/

/-- The unit's drop count has gone up, and nothing else has changed (R23). -/
structure Dropped (u : MUnit) (s s' : State) : Prop where
  items : mboxItems s' u = mboxItems s u
  count : regF s' (mboxReg u).1 ((mboxReg u).2 + 2) 8 8 = min 255 (regF s (mboxReg u).1 ((mboxReg u).2 + 2) 8 8 + 1)
  only : OnlyReg (mboxReg u).1 ((mboxReg u).2 + 2) s s'

theorem mboxDrop_dropped (u : MUnit) (s : State) : Dropped u s (mboxDrop u s) :=
  ⟨rfl, regF_bumpF_same s (by decide) 1, onlyReg_setReg _ (mboxReg_off u).2⟩

/-- A discarded write of the graft engine counts in BOOT_GSTAT.REFUSED too (R373). -/
theorem mboxRefuse_graft (u : MUnit) (s : State) :
    mboxItems (mboxRefuse .graft u s) u = mboxItems s u ∧
      regF (mboxRefuse .graft u s) (mboxReg u).1 ((mboxReg u).2 + 2) 8 8 =
        min 255 (regF s (mboxReg u).1 ((mboxReg u).2 + 2) 8 8 + 1) ∧
      regF (mboxRefuse .graft u s) pgBoot 0x014 15 16 = min 65535 (regF s pgBoot 0x014 15 16 + 1) ∧
      mboxRefuse .graft u s = { s with regs := (mboxRefuse .graft u s).regs } := by
  obtain ⟨-, hcount, -, hkept⟩ := mboxDrop_dropped u s
  have hgraft : mboxRefuse .graft u s = bumpF pgBoot 0x014 15 16 1 (mboxDrop u s) := by simp [mboxRefuse]
  rw [hgraft]
  refine ⟨rfl, ?_, ?_, rfl⟩
  · rw [← hcount]
    unfold regF bumpF setRegF
    rw [reg_setReg_page _ _ (mboxReg_ne_boot u) (mboxReg_off u).2 (by decide)]
  · rw [regF_bumpF_same _ (by decide)]
    unfold regF
    rw [hkept pgBoot 0x014 (by decide) (.inl (mboxReg_ne_boot u).symm)]
    rfl

/-! ## What becomes of a write and of a take -/

section
variable {s : State} {u : MUnit} {item : Word} (hface : u = .chain → chainFaceOn s = true)
include hface

/-- The face of the unit answers. -/
theorem face_answers : ¬(u = .chain ∧ (!chainFaceOn s) = true) := fun ⟨hu, h⟩ => by rw [hface hu] at h; cases h

theorem mboxWrite_of_room (w : Who) (hkind : getF item 32 4 ≠ 15) (hroom : (mboxItems s u).length < 8) :
    mboxWrite w u item s = mboxAccept u item s := by
  unfold mboxWrite mboxOffer
  rw [if_neg (face_answers hface), if_neg hkind, if_pos hroom]

theorem mboxWrite_of_refused {w : Who} (h : getF item 32 4 = 15 ∨ 8 ≤ (mboxItems s u).length ∧ whoLocal w = false) :
    mboxWrite w u item s = mboxRefuse w u s := by
  unfold mboxWrite mboxOffer
  rw [if_neg (face_answers hface)]
  by_cases hkind : getF item 32 4 = 15
  · rw [if_pos hkind]
  · obtain ⟨hfull, hlocal⟩ := h.resolve_left hkind
    rw [if_neg hkind, if_neg (by omega), if_neg (by simp [hlocal])]

/-- A put that the mailbox discards is only counted, but for the graft engine's. -/
theorem gatedWrite_dropped {w : Who} (h : getF item 32 4 = 15 ∨ 8 ≤ (mboxItems s u).length ∧ whoLocal w = false) (hw : w ≠ .graft)
    (hgate : regGate s w (mboxReg u).1 (mboxReg u).2 = .ok) : Dropped u s (gatedWrite w (mboxReg u).1 (mboxReg u).2 item s) := by
  rw [gatedWrite_put item hgate, mboxWrite_of_refused hface h, mboxRefuse, if_neg hw]
  exact mboxDrop_dropped u s

theorem mboxWrite_of_withheld {w : Who} (hkind : getF item 32 4 ≠ 15) (hfull : 8 ≤ (mboxItems s u).length)
    (hlocal : whoLocal w = true) :
    mboxWrite w u item s = { s with withheld := s.withheld ++ [(.direct w, mboxNo u, item)] } := by
  unfold mboxWrite mboxOffer
  rw [if_neg (face_answers hface), if_neg hkind, if_neg (by omega), if_pos hlocal]

/-- A take of an empty mailbox reads the void word (R21). -/
theorem mboxTake_of_empty (h : mboxItems s u = []) : mboxTake u s = (voidWord, s) := by
  unfold mboxTake
  rw [if_neg (face_answers hface), h]
  rfl

/-- A take takes the best item, which alone leaves (R21). -/
theorem mboxTake_of_best {k : Nat} {x : Word} (hk : bestItem (mboxItems s u) = some k) (hx : (mboxItems s u)[k]? = some x) :
    mboxTake u s = (x, setMbox u ((mboxItems s u).eraseIdx k) s) := by
  unfold mboxTake
  rw [if_neg (face_answers hface), hk]
  simp [hx]

end

/-- A withheld write of a direct requester is accepted once there is room and the domain is up (R23). -/
theorem withheldAccept_of_room {s : State} {u : MUnit} {item : Word} {k : Nat} {w : Who}
    (hwait : withheldAt s u k = some (.direct w, mboxNo u, item)) (hroom : (mboxItems s u).length < 8) (hup : mboxUp s u = true) :
    execMboxWithheldWriteAccept u k s =
      .next (mboxAccept u item { s with withheld := s.withheld.erase (.direct w, mboxNo u, item) }) := by
  unfold execMboxWithheldWriteAccept
  rw [hwait]
  simp only [withheldLive, Bool.not_true, Bool.false_eq_true, if_false, hroom, hup, and_self, if_true, withheldDone]

/-- Settles O22: a write and a take go through the unit's face, whose outcomes are told apart by room, kind and requester. -/
theorem mailboxes : Obligations.Mailboxes := by
  intro s w u item hface
  refine ⟨fun hgate => ⟨fun hkind hroom => ?room, fun hkind hw => ?discard, fun hkind hfull hlocal hw => ?full,
    fun h hw => ?graft, fun hkind hfull hlocal => ?withheld⟩, fun hgate => ⟨fun hempty => ?empty, fun hitems => ?take⟩,
    fun hgate => ?clear, fun k x hwait hroom hup => ?accept⟩
  case room =>
    refine ⟨_, rfl, ?_⟩
    rw [gatedWrite_put item hgate, mboxWrite_of_room hface w hkind hroom]
    obtain ⟨hitems, hothers, hraised, -⟩ := mboxAccept_accepted item hface
    exact ⟨hitems, hothers, hraised⟩
  case discard =>
    obtain ⟨hitems, hcount, hfields, hkept⟩ := gatedWrite_dropped hface (.inl hkind) hw hgate
    exact ⟨_, rfl, hitems, hcount, hfields, hkept⟩
  case full =>
    obtain ⟨hitems, hcount, hfields, hkept⟩ := gatedWrite_dropped hface (.inr ⟨hfull, hlocal⟩) hw hgate
    exact ⟨_, rfl, hitems, hcount, hfields, hkept⟩
  case graft =>
    subst hw
    refine ⟨_, rfl, ?_⟩
    rw [gatedWrite_put item hgate, mboxWrite_of_refused hface (h.imp_right fun hfull => ⟨hfull, rfl⟩)]
    exact mboxRefuse_graft u s
  case withheld =>
    refine ⟨_, rfl, ?_⟩
    rw [gatedWrite_put item hgate, mboxWrite_of_withheld hface hkind hfull hlocal]
  case empty =>
    refine ⟨_, rfl, ?_⟩
    rw [gatedRead_take hgate, mboxTake_of_empty hface hempty]
  case take =>
    obtain ⟨k, x, hk, hx, hbest⟩ := bestItem_isBest hitems
    refine ⟨k, x, hx, hbest, _, rfl, ?_⟩
    rw [gatedRead_take hgate, mboxTake_of_best hface hk hx]
    exact ⟨rfl, mboxItems_setMbox_same .., ⟨rfl, rfl, fun v hv => mboxItems_setMbox_ne _ _ _ hv⟩, rfl⟩
  case clear =>
    refine ⟨_, rfl, ?_⟩
    rw [gatedWrite_stat _ (by decide) hgate]
    obtain ⟨hfields, hkept⟩ := onlyReg_setReg (s := s) (pg := (mboxReg u).1)
      (setF (reg s (mboxReg u).1 ((mboxReg u).2 + 2)) 8 8 0) (mboxReg_off u).2
    exact ⟨regF_setRegF_same s (by decide) 0, hfields, hkept⟩
  case accept =>
    refine ⟨_, withheldAccept_of_room hwait hroom hup, ?_⟩
    obtain ⟨hitems, hothers, hraised, hwithheld⟩ :=
      mboxAccept_accepted item (s := { s with withheld := s.withheld.erase (.direct x, mboxNo u, item) }) hface
    refine ⟨hitems, hothers, ?_, hwithheld⟩
    cases u <;> exact hraised

end Sys2Proof.Machine
end

section
/-! SUPPORT. Block boundaries and the block configuration (R29–R32, R298): what the end of the checkpoint windows leaves alone, and
the statement about them. -/

namespace Sys2Proof.Machine

/-! ## What a block boundary leaves alone -/

/-- The DEV page, the grid's clock count, the waits for a boundary, its tick, memory and the graft under way stand as they did. -/
structure KeepsBlock (s s' : State) : Prop where
  dev : ∀ off, off < 1024 → reg s' pgDev off = reg s pgDev off
  clk : s'.pwmClk = s.pwmClk
  armed : s'.cgArm = s.cgArm
  base : s'.blkFrom = s.blkFrom
  mem : s'.mem = s.mem
  boot : s'.boot = s.boot

namespace KeepsBlock

variable {s x y : State}

theorem refl (s : State) : KeepsBlock s s := ⟨fun _ _ => rfl, rfl, rfl, rfl, rfl, rfl⟩

theorem trans (h : KeepsBlock s x) (h' : KeepsBlock x y) : KeepsBlock s y :=
  ⟨fun off ho => (h'.dev off ho).trans (h.dev off ho), h'.clk.trans h.clk, h'.armed.trans h.armed, h'.base.trans h.base,
    h'.mem.trans h.mem, h'.boot.trans h.boot⟩

theorem ite {c : Prop} [Decidable c] (h : KeepsBlock s x) (h' : KeepsBlock s y) : KeepsBlock s (if c then x else y) := by
  split
  · exact h
  · exact h'

end KeepsBlock

theorem waitEvent_keepsBlock (s : State) (line : Nat) : KeepsBlock s (waitEvent line s) := ⟨fun _ _ => rfl, rfl, rfl, rfl, rfl, rfl⟩

theorem setReg_keepsBlock (s : State) {pg off : Nat} (v : Word) (hpg : pg ≠ pgDev) (hoff : off < 1024) :
    KeepsBlock s (setReg pg off v s) :=
  { KeepsBlock.refl s with dev := fun _ ho => reg_setReg_page s v hpg.symm ho hoff }

theorem nursDecide_keepsBlock (s : State) (t cause : Nat) : KeepsBlock s (nursDecide t cause s) := by
  unfold nursDecide
  split
  · exact .refl s
  · exact ⟨fun off ho => (reg_setReg_page (pg := pgNurs) (off := 0x016) _ _ (by decide) ho (by decide)).trans rfl, rfl, rfl, rfl, rfl, rfl⟩

/-- The end of a block window (R32) counts at the tine and the Nursery. -/
theorem ckptWindow_keepsBlock (s : State) (l : Nat) : KeepsBlock s (ckptWindow l s) := by
  have hckpt : ∀ x, KeepsBlock s (setCkpt l x s) := fun x => ⟨fun _ _ => rfl, rfl, rfl, rfl, rfl, rfl⟩
  have hcounts : ∀ (x : State) (t v : Nat), KeepsBlock x (bumpF pgNurs 0x016 24 12 1 (setRegF (pgTine t) oCKSTAT 18 4 v x)) :=
    fun x t v => (setReg_keepsBlock (pg := pgTine t) (off := oCKSTAT) x _ (by unfold pgTine pgDev; omega) (by decide)).trans
      (setReg_keepsBlock (pg := pgNurs) (off := 0x016) _ _ (by decide) (by decide))
  unfold ckptWindow
  dsimp only
  cases physOf s l with
  | none => exact hckpt _
  | some t =>
    have hmissed := fun x v => (hckpt x).trans (hcounts _ t v)
    exact .ite (.ite ((hmissed _ _).trans (nursDecide_keepsBlock _ t 3)) (hmissed _ _)) (hckpt _)

theorem ckptWindows_keepsBlock (l : List Nat) (s : State) : KeepsBlock s (forAll l ckptWindow s) := by
  induction l generalizing s with
  | nil => exact .refl s
  | cons a l ih => exact (ckptWindow_keepsBlock s a).trans (ih _)

/-- Without a graft a boundary switches none (R379). -/
theorem graftBoundary_of_none {s : State} (h : s.boot.graft = none) : graftBoundary s = s := by
  unfold graftBoundary
  rw [h]

/-! ## The grid's boundaries -/

/-- At the 48 kHz base and with the grid running, the boundary lies on the grid's next 48 kHz boundary (R298). -/
theorem gridClk_on_grid {s : State} {t : Nat} (hbase : regB s pgDev 0x048 16 = false) (hon : s.pwmOn = true)
    (ht : gridClk s = some t) : t % 8192 = 0 ∧ s.pwmClk ≤ t := by
  simp only [gridClk, gridBlock, hbase, hon, Bool.not_true, Bool.false_eq_true, if_false] at ht
  split at ht
  · have := Option.some.inj ht
    omega
  · cases ht

/-- The state that the end of a block leaves before the checkpoint windows end (R29, R31, R32). -/
def blockCounted (t : Nat) (s : State) : State :=
  { setRegF pgDev 0x04A 0 32 (s.now % 2 ^ 32) (setReg pgDev 0x049 (reg s pgDev 0x049 + 1) { s with pwmClk := t }) with
    cgArm := [], blkFrom := s.now }

theorem reg_blockCounted_count (t : Nat) (s : State) : reg (blockCounted t s) pgDev 0x049 = reg s pgDev 0x049 + 1 :=
  (reg_setReg_off (setReg pgDev 0x049 (reg s pgDev 0x049 + 1) { s with pwmClk := t }) _ (by decide)).trans (reg_setReg_same _ _ _ _)

theorem regF_blockCounted_tick (t : Nat) (s : State) : regF (blockCounted t s) pgDev 0x04A 0 32 = s.now % 2 ^ 32 :=
  (regF_setRegF_same (setReg pgDev 0x049 (reg s pgDev 0x049 + 1) { s with pwmClk := t }) (by decide) _).trans (Nat.mod_mod _ _)

theorem execBlockBoundary_of_due {s : State} {t : Nat} (hpll : s.pllRuns = true) (hdue : s.blkFrom + blockTicks s ≤ s.now + 1)
    (ht : gridClk s = some t) :
    execBlockBoundary s = .next (graftBoundary (forAll (List.range 128) ckptWindow (waitEvent 0 (blockCounted t s)))) := by
  unfold execBlockBoundary
  rw [if_pos ⟨hpll, hdue, by rw [ht]; rfl⟩, ht]
  rfl

theorem execBlockBoundary_of_not_due {s : State} (h : s.pllRuns = false ∨ s.now + 1 < s.blkFrom + blockTicks s ∨ gridClk s = none) :
    execBlockBoundary s = .next s := by
  unfold execBlockBoundary
  rw [if_neg]
  rintro ⟨hpll, hdue, hgrid⟩
  obtain h | h | h := h
  · rw [h] at hpll; cases hpll
  · omega
  · rw [h] at hgrid; cases hgrid

/-! ## The block configuration -/

theorem gatedWrite_blockCfg {s : State} {w : Who} (v : Word) (hgate : regGate s w pgDev 0x048 = .ok) :
    gatedWrite w pgDev 0x048 v s = blockCfgWrite v s := by
  rw [gatedWrite, gated_of_ok _ hgate]
  rfl

/-- Settles O27: an end of a block that is due is `blockCounted`, which the checkpoint windows' end keeps; one that is not due does
nothing. -/
theorem blockClock : Obligations.BlockClock := by
  refine ⟨fun s hpll hgraft hdue hgrid => ?due, fun s h => ⟨s, execBlockBoundary_of_not_due h, rfl⟩,
    fun s w v hgate => ⟨fun hpll hlen => ?stored, fun h => ?refused⟩⟩
  case due =>
    obtain ⟨t, ht⟩ := Option.ne_none_iff_exists'.1 hgrid
    refine ⟨_, execBlockBoundary_of_due hpll hdue ht, ?_⟩
    have hkept := (waitEvent_keepsBlock (blockCounted t s) 0).trans (ckptWindows_keepsBlock (List.range 128) _)
    generalize forAll (List.range 128) ckptWindow (waitEvent 0 (blockCounted t s)) = s' at hkept ⊢
    obtain ⟨hdev, hclk, harmed, hbase, hmem, hboot⟩ := hkept
    rw [graftBoundary_of_none (by rw [hboot]; exact hgraft)]
    have hclk : s'.pwmClk = t := hclk
    refine ⟨by rw [hclk, ht], fun h48 hon => hclk ▸ gridClk_on_grid h48 hon ht, ?_, ?_, harmed, hbase, hmem⟩
    · rw [hdev 0x049 (by decide), reg_blockCounted_count]
    · rw [regF, hdev 0x04A (by decide)]
      exact regF_blockCounted_tick t s
  case stored =>
    refine ⟨_, rfl, ?_⟩
    rw [gatedWrite_blockCfg v hgate, blockCfgWrite, if_neg (by simp [hpll, hlen])]
    obtain ⟨hfields, hkept⟩ := onlyReg_setReg (s := s) (pg := pgDev) (off := 0x048) (v &&& wd 0x103FF) (by decide)
    exact ⟨reg_setReg_same .., hfields, hkept⟩
  case refused =>
    refine ⟨_, rfl, ?_⟩
    rw [gatedWrite_blockCfg v hgate, blockCfgWrite, if_pos h]
    obtain ⟨hfields, hkept⟩ := onlyReg_setReg (s := s) (pg := pgDev) (off := 0x04A) (setF (reg s pgDev 0x04A) 39 1 (b2n true)) (by decide)
    exact ⟨by unfold regB setRegB setRegF; rw [reg_setReg_same]; exact bit_setB_same _ true (by decide), hfields, hkept⟩

end Sys2Proof.Machine
end

section
/-! SUPPORT. The cells of the chain (R27, R357–R361): the cell that a command performs, cells queued on a port, words written and read
through a chain window, enumeration, routes and broadcasts, and the statement about them. -/

namespace Sys2Proof.Machine

/-! ## The oldest delivered cell -/

section
variable {s : State} {c : Cell} {rest : List Cell} (hcells : s.cellsIn = c :: rest)
include hcells

theorem nextCell_head {typ : Nat} (htyp : c.typ = typ) : nextCell typ s = some (c, { s with cellsIn := rest }) := by
  unfold nextCell
  rw [hcells]
  simp [findPos, htyp, dropAt]

theorem withNumber_head {typ : Nat} (f : Nat → State → State) (htyp : c.typ = typ) (hlive : chainLive s = true) :
    withNumber typ f s = f (getF (cellW c 1) 0 5) { s with cellsIn := rest } := by
  unfold withNumber
  rw [nextCell_head hcells htyp]
  exact if_pos hlive

end

theorem chainLive_of_run {s : State} (hdom : domSt s domLink = .run) (hrel : s.released = true) (hvcore : s.vcoreLow = false) :
    chainLive s = true := by
  simp [chainLive, domUp, inReset, hdom, hrel, hvcore]

/-! ## Cells queued on a port -/

section
variable (p : Nat) (c : Cell) (s : State)

/-- Queueing a cell changes the ports alone. -/
theorem portQueue_eq : ∃ P, portQueue p c s = { s with ports := P } := by
  unfold portQueue
  split
  · exact ⟨_, rfl⟩
  · exact ⟨s.ports, rfl⟩

@[simp] theorem reg_portQueue (pg off : Nat) : reg (portQueue p c s) pg off = reg s pg off := by
  obtain ⟨P, h⟩ := portQueue_eq p c s
  rw [h]
  rfl

@[simp] theorem chainAddr_portQueue : chainAddr (portQueue p c s) = chainAddr s := by simp [chainAddr, regF]

@[simp] theorem portQueue_cellsIn : (portQueue p c s).cellsIn = s.cellsIn := by
  obtain ⟨P, h⟩ := portQueue_eq p c s
  rw [h]

@[simp] theorem portQueue_mem : (portQueue p c s).mem = s.mem := by
  obtain ⟨P, h⟩ := portQueue_eq p c s
  rw [h]

@[simp] theorem chainOver_portQueue : chainOver (portQueue p c s) = chainOver s := by
  obtain ⟨P, h⟩ := portQueue_eq p c s
  rw [h]
  rfl

@[simp] theorem portUp_portQueue (q : Nat) : portUp (portQueue p c s) q = portUp s q := by simp [portUp, regB]

variable {p c s}

/-- A bulk cell goes to the end of its port's queue (R356). -/
theorem portQueue_bulk (hup : portUp s p = true) (hcls : c.cls = 0) :
    (portAt (portQueue p c s) p).bulk = (portAt s p).bulk ++ [c] := by
  simp [portQueue, hup, hcls]

theorem portAt_portQueue_ne {q : Nat} (hq : q ≠ p) : portAt (portQueue p c s) q = portAt s q := by
  unfold portQueue
  split
  · exact portAt_setPort_ne s _ hq
  · rfl

end

/-- A bulk cell that goes out on both ports. -/
theorem portQueue_both {s : State} {c : Cell} {p : Nat} (hcls : c.cls = 0) (hp : p < 2) (hup : portUp s p = true) :
    (portAt (portQueue 0 c (portQueue 1 c s)) p).bulk = (portAt s p).bulk ++ [c] := by
  interval_cases p
  · rw [portQueue_bulk ((portUp_portQueue ..).trans hup) hcls, portAt_portQueue_ne (by decide)]
  · rw [portAt_portQueue_ne (by decide), portQueue_bulk hup hcls]

theorem portQueue_ports (p : Nat) (c : Cell) (s : State) : portQueue p c s = { s with ports := (portQueue p c s).ports } := by
  obtain ⟨P, h⟩ := portQueue_eq p c s
  rw [h]

/-! ## Registers of the CHAIN page -/

section
variable {offs : List Nat} {s x : State} (h : ChainRegsOnly offs s x)
include h

theorem chainRegsOnly_setReg {off : Nat} (v : Word) (hmem : off ∈ offs) (hoff : off < 1024) :
    ChainRegsOnly offs s (setReg pgChain off v x) := by
  intro p o ho hne
  rw [reg_setReg x v ho hoff, if_neg (fun ⟨hp, he⟩ => hne.elim (· hp) (· (he ▸ hmem)))]
  exact h p o ho hne

theorem chainRegsOnly_portQueue (p : Nat) (c : Cell) : ChainRegsOnly offs s (portQueue p c x) :=
  fun q o ho hne => (reg_portQueue p c x q o).trans (h q o ho hne)

end

/-! ## Words of Shed through a chain window -/

section
variable {s : State} {walled store : Bool} {pa : Nat} {b : Bool} (hshed : regionOf pa = .shed b)
include hshed

theorem ownPa_shed (s : State) : ownPa s pa = pa := by
  unfold ownPa
  rw [hshed]

theorem ne_rxlen_of_shed : pa ≠ pageAddr pgBoot 0x011 := by
  rintro rfl
  have hpage : regionOf (pageAddr pgBoot 0x011) = .page pgBoot 0x011 := by decide
  rw [hpage] at hshed
  cases hshed

/-- Shed words are held in words of their own, which a write replaces whole (R189). -/
theorem memCode_shed : memCode pa ≠ 4 := by
  unfold memCode
  rw [hshed]
  cases b <;> decide

/-- An access that passes the checks meets a domain that answers (R182, R390). -/
theorem paOpen_of_outGate (hgate : outGate s (.chainWin walled) store pa = .ok) :
    paHeld s (.chainWin walled) pa = false ∧ paDormant s pa = false := by
  unfold outGate at hgate
  rw [hshed] at hgate
  grind

/-- A write of a word that passes its checks stores it (R182, R360). -/
theorem outWrite_shed (v : Word) (hgate : outGate s (.chainWin walled) true pa = .ok) :
    outWrite (.chainWin walled) pa v .ok s = (.done, memPut pa v s) := by
  obtain ⟨hheld, hdormant⟩ := paOpen_of_outGate hshed hgate
  have hphys : physWrite (.chainWin walled) 0 pa (.word v) .ok s = (.done, memPut pa v s) := by
    simp [physWrite, ownPa_shed hshed, hheld, hdormant, withholds, whoLocal, hshed, memWrite, wholeHalf, needsMerge,
      memCode_shed hshed, memStore, dataWords, forAll]
  unfold outWrite
  simp only [ownPa_shed hshed, hgate, hphys]

theorem srcWrites_shed {src : Nat} (v : Word) {ups : List Upset} (hups : ups.headD .ok = .ok)
    (hgate : outGate s (.chainWin walled) true pa = .ok) (hboot : bootDiscards s src pa = false) :
    srcWrites src (.chainWin walled) [(pa, v)] ups s = (0, memPut pa v s) := by
  have hwrite : srcWrite src (.chainWin walled) pa v .ok s = (.done, memPut pa v s) := by
    unfold srcWrite
    rw [ownPa_shed hshed, if_neg (by rw [hboot]; decide), if_neg (ne_rxlen_of_shed hshed)]
    exact outWrite_shed hshed v hgate
  simp only [srcWrites, hups, hwrite]
  rfl

/-- A read of a word that passes its checks, and that holds no uncorrectable error, answers with it (R182, R360). -/
theorem outReads_shed (hgate : outGate s (.chainWin walled) false pa = .ok) (hue : ueAt s pa = false) :
    outReads (.chainWin walled) [pa] [] s = ([memGet s pa], false, s) := by
  obtain ⟨hheld, hdormant⟩ := paOpen_of_outGate hshed hgate
  have hread : outRead (.chainWin walled) pa .ok s = (.word (memGet s pa), s) := by
    simp [outRead, hgate, physRead, ownPa_shed hshed, hheld, hdormant, hshed, memRead, hue]
  simp [outReads, hread, readWord]

end

/-- One word is written: memory holds it, and only that word and the mark of its error have changed. -/
theorem memPut_written (s : State) (pa : Nat) (v : Word) :
    memGet (memPut pa v s) pa = v ∧ (∀ a, a ≠ pa → memGet (memPut pa v s) a = memGet s a) ∧
      memPut pa v s = { s with mem := (memPut pa v s).mem, ue := (memPut pa v s).ue } :=
  ⟨memGet_memPut_same s pa v, fun _ ha => memGet_memPut_ne s v ha, memPut_fields s pa v⟩

theorem anyHeld_of_ok {s : State} {w : Who} {store : Bool} {pa : Nat} (hgate : outGate s w store pa = .ok) :
    anyHeld s w store [pa] = false := by
  simp [anyHeld, hgate]

/-- A cell's first word names one word, at the address in its low 28 bits (Table 15-3). -/
theorem cellPas_one {c : Cell} {pa : Nat} {l : List Word} (hbody : c.body = wd pa :: l) (hpa : pa < 2 ^ 28) : cellPas c = [pa] := by
  have hlow : getF (wd pa) 0 28 = pa := by rw [getF_wd _ _ _ (by decide)]; omega
  have hcount : getF (wd pa) 28 3 = 0 := by rw [getF_wd _ _ _ (by decide)]; omega
  simp [cellPas, cellW, hbody, hlow, hcount, pasFrom]

theorem getF_tag {tag : Nat} (htag : tag < 2 ^ 16) : getF (wd tag) 0 16 = tag := by
  rw [getF_wd _ _ _ (by decide)]
  omega

/-- An answer to another device goes out on the port toward it, and the read that it answers is no longer remembered (R355). -/
theorem cellRoute_rdata (s : State) {dst tag : Nat} (ws : List Word) (htag : tag < 2 ^ 16) (hdst : dst ≠ chainAddr s) :
    cellRoute (mkCell s 3 dst 0 (wd tag :: ws)) s = portQueue (portToward s dst) (mkCell s 3 dst 0 (wd tag :: ws))
      { s with chainFwd := s.chainFwd.filter fun e => !decide (e.2 = (dst, tag)) } := by
  have hother : (mkCell s 3 dst 0 (wd tag :: ws)).dst ≠ chainAddr s := hdst
  have htyp : (mkCell s 3 dst 0 (wd tag :: ws)).typ = 3 := rfl
  have htagged : getF (cellW (mkCell s 3 dst 0 (wd tag :: ws)) 1) 0 16 = tag := getF_tag htag
  unfold cellRoute cellForward
  rw [if_neg hother, if_neg (fun h => absurd (htyp.symm.trans h.1) (by decide)), if_pos htyp, htagged]
  rfl

section
variable {s : State} {c : Cell} {rest : List Cell} (hcells : s.cellsIn = c :: rest)
include hcells

/-- A WRITE cell of one word of Shed stores it (R360). -/
theorem chainWrite_shed {walled : Bool} {pa : Nat} {v : Word} {b : Bool} (htyp : c.typ = 1) (hbody : c.body = [wd pa, v])
    (hpa : pa < 2 ^ 28) (hshed : regionOf pa = .shed b) (hgate : outGate s (.chainWin walled) true pa = .ok)
    (hboot : bootDiscards s (cellSrc s c) pa = false) :
    chainWrite walled [] s = memPut pa v { s with cellsIn := rest } := by
  have hgate' : outGate { s with cellsIn := rest } (.chainWin walled) true pa = .ok := hgate
  have hwrites := srcWrites_shed (ups := []) (src := cellSrc { s with cellsIn := rest } c) hshed v rfl hgate' hboot
  unfold chainWrite
  rw [nextCell_head hcells htyp]
  dsimp only
  rw [cellPas_one hbody hpa, anyHeld_of_ok hgate', hbody]
  simp only [List.drop_succ_cons, List.drop_zero, List.zip_cons_cons, List.zip_nil_left, hwrites]
  rfl

/-- A BCAST cell that names this device stores its word of Shed (R361). -/
theorem bcastCell_shed {walled : Bool} {b : Bool} (htyp : c.typ = 10) (hover : chainOver s = false)
    (hmask : bit (cellW c 2) (chainAddr s) = true) (hshed : regionOf (getF (cellW c 1) 0 28) = .shed b)
    (hgate : outGate s (.chainWin walled) true (getF (cellW c 1) 0 28) = .ok)
    (hboot : bootDiscards s (cellSrc s c) (getF (cellW c 1) 0 28) = false) :
    bcastCell walled .ok s = memPut (getF (cellW c 1) 0 28) (cellW c 3) { s with cellsIn := rest } := by
  have hgate' : outGate { s with cellsIn := rest } (.chainWin walled) true (getF (cellW c 1) 0 28) = .ok := hgate
  have hwrites := srcWrites_shed (ups := [.ok]) (src := cellSrc { s with cellsIn := rest } c) hshed (cellW c 3) rfl hgate' hboot
  have hmine : ¬(chainOver { s with cellsIn := rest } || !bit (cellW c 2) (chainAddr { s with cellsIn := rest })) = true := by
    have hover' : chainOver { s with cellsIn := rest } = false := hover
    have hmask' : bit (cellW c 2) (chainAddr { s with cellsIn := rest }) = true := hmask
    simp [hover', hmask']
  unfold bcastCell
  rw [nextCell_head hcells htyp]
  dsimp only
  rw [if_neg hmine, anyHeld_of_ok hgate', hwrites]
  rfl

/-- A READ cell of one word of Shed is answered with the word, on the port toward its sender (R360). -/
theorem chainRead_shed {walled : Bool} {pa tag : Nat} {b : Bool} (htyp : c.typ = 2) (hbody : c.body = [wd pa, wd tag])
    (hpa : pa < 2 ^ 28) (htag : tag < 2 ^ 16) (hshed : regionOf pa = .shed b)
    (hgate : outGate s (.chainWin walled) false pa = .ok) (hue : ueAt s pa = false) (hsrc : c.src ≠ chainAddr s) :
    chainRead walled [] s = portQueue (portToward s c.src) (mkCell s 3 c.src 0 [wd tag, memGet s pa])
      { s with cellsIn := rest, chainFwd := s.chainFwd.filter fun e => !decide (e.2 = (c.src, tag)) } := by
  have hgate' : outGate { s with cellsIn := rest } (.chainWin walled) false pa = .ok := hgate
  have hreads := outReads_shed hshed hgate' hue
  have htagged : getF (cellW c 2) 0 16 = tag := by
    simp only [cellW, hbody]
    exact getF_tag htag
  unfold chainRead
  rw [nextCell_head hcells htyp]
  dsimp only
  rw [cellPas_one hbody hpa, anyHeld_of_ok hgate']
  simp only [List.all_cons, List.all_nil, hgate', hreads, htagged, decide_true, Bool.and_true, if_true]
  exact cellRoute_rdata { s with cellsIn := rest } [memGet s pa] htag hsrc

end

/-- An RDATA cell answers the read that its tag names (R360). -/
theorem chainRdata_of_tag {s : State} {c : Cell} {rest : List Cell} {src pa : Nat} (hcells : s.cellsIn = c :: rest) (htyp : c.typ = 3)
    (hok : bit (cellW c 1) 16 = false)
    (hfind : s.chainTags.find? (fun e => decide (e.1 = getF (cellW c 1) 0 16)) = some (getF (cellW c 1) 0 16, src, pa)) :
    chainRdata s = { s with
      cellsIn := rest
      chainTags := s.chainTags.filter (fun e => decide (e.1 ≠ getF (cellW c 1) 0 16))
      chainBack := s.chainBack ++ [(src, pa, some (cellW c 2))] } := by
  unfold chainRdata
  rw [nextCell_head hcells htyp]
  simp [hfind, hok]

/-- An EVENT cell of LEVEL 0 arrives at the tine that serves its slot (R357). -/
theorem chainEvent_slot {s : State} {c : Cell} {rest : List Cell} {n : Nat} (hcells : s.cellsIn = c :: rest) (htyp : c.typ = 4)
    (hlevel : getF (cellW c 1) 0 3 = 0) (hinput : getF (cellW c 1) 14 4 = n) (hbox : bit (cellW c 1) 18 = false) :
    chainEvent s = raiseLog (16 + n) (getF (cellW c 1) 3 11 % 128) { s with cellsIn := rest } := by
  unfold chainEvent
  rw [nextCell_head hcells htyp]
  simp [hlevel, hinput, hbox, raiseUnit]

/-! ## Enumeration -/

/-- The device has taken address `a` (R358). -/
def addressTaken (a : Nat) (s : State) : State := setRegF pgChain 0x011 0 4 a { s with outside := false }

section
variable (s : State) {a : Nat} (ha : a ≤ 15)
include ha

theorem enumCell_inside : enumCell a s =
    if portUp (addressTaken a s) 1 then portQueue 1 (mkCell (addressTaken a s) 5 0 0 [wd (a + 1)]) (addressTaken a s)
    else portQueue 0 (mkCell (addressTaken a s) 6 0 0 [wd (a + 1)]) (addressTaken a s) := if_neg (by omega)

theorem chainAddr_addressTaken : chainAddr (addressTaken a s) = a := by
  refine (regF_setRegF_same _ (by decide) a).trans ?_
  omega

omit ha in
theorem portUp_addressTaken {p : Nat} (hp : p < 2) : portUp (addressTaken a s) p = portUp s p := by
  unfold portUp regB addressTaken setRegF
  rw [reg_setReg_same]
  exact bit_setF_ne _ _ (by omega)

end

/-- An ENUM cell within the chain is an address of the device's own, and goes on to the next member or back to the head (R358). -/
theorem enumCell_enumerated (s : State) {a : Nat} (ha : a ≤ 15) :
    chainAddr (enumCell a s) = a ∧ (enumCell a s).cellsIn = s.cellsIn ∧
      (portUp s 1 = true → (portAt (enumCell a s) 1).bulk = (portAt s 1).bulk ++
        [{ typ := 5, dst := 0, src := a, cls := 0, body := [wd (a + 1)] }]) ∧
      (portUp s 1 = false → portUp s 0 = true → (portAt (enumCell a s) 0).bulk = (portAt s 0).bulk ++
        [{ typ := 6, dst := 0, src := a, cls := 0, body := [wd (a + 1)] }]) ∧
      chainOver (enumCell a s) = false ∧ ChainRegsOnly [0x011] s (enumCell a s) ∧ (enumCell a s).mem = s.mem := by
  have haddr := chainAddr_addressTaken s ha
  have hmk : ∀ typ, mkCell (addressTaken a s) typ 0 0 [wd (a + 1)] =
      { typ := typ, dst := 0, src := a, cls := 0, body := [wd (a + 1)] } := fun typ => by rw [mkCell, haddr]
  have honly : ChainRegsOnly [0x011] s (addressTaken a s) :=
    chainRegsOnly_setReg (x := { s with outside := false }) (fun _ _ _ _ => rfl) _ (by decide) (by decide)
  have hqueued : ∀ p cell, let s' := portQueue p cell (addressTaken a s)
      chainAddr s' = a ∧ s'.cellsIn = s.cellsIn ∧ chainOver s' = false ∧ ChainRegsOnly [0x011] s s' ∧ s'.mem = s.mem := fun p cell =>
    ⟨(chainAddr_portQueue ..).trans haddr, portQueue_cellsIn .., chainOver_portQueue .., chainRegsOnly_portQueue honly p cell,
      portQueue_mem ..⟩
  rw [enumCell_inside s ha, portUp_addressTaken s (by decide), hmk, hmk]
  by_cases hdown : portUp s 1 = true
  · obtain ⟨h, hcells, hover, hregs, hmem⟩ := hqueued 1 { typ := 5, dst := 0, src := a, cls := 0, body := [wd (a + 1)] }
    rw [if_pos hdown]
    exact ⟨h, hcells, fun _ => portQueue_bulk ((portUp_addressTaken s (by decide)).trans hdown) rfl,
      fun hno => absurd hdown (by rw [hno]; decide), hover, hregs, hmem⟩
  · obtain ⟨h, hcells, hover, hregs, hmem⟩ := hqueued 0 { typ := 6, dst := 0, src := a, cls := 0, body := [wd (a + 1)] }
    rw [if_neg hdown]
    exact ⟨h, hcells, fun hyes => absurd hyes hdown,
      fun _ hup => portQueue_bulk ((portUp_addressTaken s (by decide)).trans hup) rfl, hover, hregs, hmem⟩

/-- A seventeenth device stays outside the chain: OVER is set, and its address stands (R358). -/
def leftOutside (s : State) : State := setRegB pgChain 0x011 8 true { s with outside := true }

theorem regB_leftOutside_ne (s : State) {i : Nat} (hi : i ≠ 8) : regB (leftOutside s) pgChain 0x011 i = regB s pgChain 0x011 i := by
  unfold regB leftOutside setRegB setRegF
  rw [reg_setReg_same]
  exact bit_setB_ne _ true hi

theorem enumCell_outside (s : State) {a : Nat} (ha : 15 < a) :
    chainOver (enumCell a s) = true ∧ regB (enumCell a s) pgChain 0x011 8 = true ∧ chainAddr (enumCell a s) = chainAddr s ∧
      (enumCell a s).cellsIn = s.cellsIn ∧ ChainRegsOnly [0x011] s (enumCell a s) ∧
      (portUp s 0 = true → (portAt (enumCell a s) 0).bulk = (portAt s 0).bulk ++ [mkCell s 6 0 0 [wd 16]]) := by
  have hcell : enumCell a s = portQueue 0 (mkCell s 6 0 0 [wd 16]) (leftOutside s) := if_pos ha
  have haddr : chainAddr (leftOutside s) = chainAddr s := by
    unfold chainAddr regF leftOutside setRegB setRegF
    rw [reg_setReg_same]
    exact getF_setB_ne _ true (by decide)
  have hover : regB (leftOutside s) pgChain 0x011 8 = true := by
    unfold regB leftOutside setRegB setRegF
    rw [reg_setReg_same]
    exact bit_setB_same _ true (by decide)
  have honly : ChainRegsOnly [0x011] s (leftOutside s) :=
    chainRegsOnly_setReg (x := { s with outside := true }) (fun _ _ _ _ => rfl) _ (by decide) (by decide)
  rw [hcell]
  refine ⟨chainOver_portQueue .., ?_, (chainAddr_portQueue ..).trans haddr, portQueue_cellsIn .., chainRegsOnly_portQueue honly 0 _,
    fun hup => portQueue_bulk ((regB_leftOutside_ne s (by decide)).trans hup) rfl⟩
  rw [regB, reg_portQueue]
  exact hover

/-- READY with `n` members: what it makes of the CHAIN page (R358). -/
structure Readied (n : Nat) (s s' : State) : Prop where
  ready : chainReady s' = true
  devices : s'.devM1 = n - 1
  map : regF s' pgChain 0x012 0 16 = 2 ^ n - 1
  only : ChainRegsOnly [0x011, 0x012] s s'
  mem : s'.mem = s.mem

theorem setReady_readied (s : State) {n : Nat} (hn : n ≤ 16) : Readied n s (setReady n s) where
  ready := by
    unfold chainReady regB setReady setRegB setRegF
    rw [reg_setReg_same]
    exact bit_setB_same _ true (by decide)
  devices := rfl
  map := by
    have hmap : reg (setReady n s) pgChain 0x012 = reg (setRegF pgChain 0x012 0 16 (2 ^ n - 1) { s with devM1 := n - 1 }) pgChain 0x012 :=
      reg_setReg_off _ _ (by decide)
    have hpow : 2 ^ n ≤ 2 ^ 16 := Nat.pow_le_pow_right (by decide) hn
    unfold regF
    rw [hmap]
    refine (regF_setRegF_same _ (by decide) _).trans (Nat.mod_eq_of_lt ?_)
    have := Nat.two_pow_pos n
    omega
  only := chainRegsOnly_setReg (x := setRegF pgChain 0x012 0 16 (2 ^ n - 1) { s with devM1 := n - 1 })
    (chainRegsOnly_setReg (x := { s with devM1 := n - 1 }) (fun _ _ _ _ => rfl) _ (by decide) (by decide)) _ (by decide) (by decide)
  mem := rfl

theorem Readied.portQueue {n : Nat} {s x : State} (h : Readied n s x) (p : Nat) (c : Cell) : Readied n s (portQueue p c x) := by
  obtain ⟨P, hP⟩ := portQueue_eq p c x
  rw [hP]
  exact ⟨h.ready, h.devices, h.map, h.only, h.mem⟩

theorem headReady_readied {s : State} {n : Nat} (hn : n ≤ 16) (hready : chainReady s = false) : Readied n s (headReady n s) := by
  unfold headReady
  rw [if_neg (by rw [hready]; decide)]
  exact ((setReady_readied s hn).portQueue _ _).portQueue _ _

theorem enumEnd_of_head {s : State} (n : Nat) (hhead : chainHead s = true) :
    (if chainHead s then headReady n s else s) = headReady n s := if_pos hhead

theorem enumDone_of_member {s : State} (n : Nat) (hhead : chainHead s = false) (hover : chainOver s = false) :
    (if chainHead s || chainOver s then s else enumDone n s) = enumDone n s := if_neg (by simp [hhead, hover])

theorem enumDone_of_outside {s : State} (n : Nat) (hover : chainOver s = true) :
    (if chainHead s || chainOver s then s else enumDone n s) = s := if_pos (by simp [hover])

theorem enumDone_readied {s : State} {n : Nat} (hn : n ≤ 16) (hready : chainReady s = false) : Readied n s (enumDone n s) := by
  unfold enumDone
  rw [if_neg (by rw [hready]; decide)]
  exact setReady_readied s hn

/-! ## Lost links -/

/-- The present addresses from `n` on become ABSENT (R359). -/
theorem regB_markAbsent (s : State) {n k : Nat} (hk : k < 16) :
    regB (markAbsent n s) pgChain 0x012 (16 + k) = (regB s pgChain 0x012 (16 + k) || (decide (n ≤ k) && regB s pgChain 0x012 k)) := by
  have hreg : regB (markAbsent n s) pgChain 0x012 (16 + k) =
      (Nat.lor (regF s pgChain 0x012 16 16) (regF s pgChain 0x012 0 16 / 2 ^ n * 2 ^ n)).testBit k := by
    unfold regB
    have hword : reg (markAbsent n s) pgChain 0x012 = setF (reg s pgChain 0x012) 16 16
        (Nat.lor (regF s pgChain 0x012 16 16) (regF s pgChain 0x012 0 16 / 2 ^ n * 2 ^ n)) := reg_setReg_same _ _ _ _
    rw [hword, bit_setF, if_pos (by omega), Nat.add_sub_cancel_left]
    simp [show 16 + k < 40 by omega]
  have hlor : ∀ x y : Nat, (Nat.lor x y).testBit k = (x.testBit k || y.testBit k) := fun x y => Nat.testBit_or x y k
  rw [hreg, hlor, Nat.testBit_mul_two_pow, Nat.testBit_div_two_pow]
  unfold regF regB
  rw [testBit_getF, testBit_getF]
  by_cases hnk : n ≤ k
  · simp [hnk, hk, show k - n + n = k by omega]
  · simp [hnk, hk]

theorem linkLost_member {s : State} {n : Nat} (hn : n < 16) (hhead : chainHead s = false) (hover : chainOver s = false) :
    (if chainOver s ∨ 16 ≤ n then s else linkLost n s) = markAbsent n s := by
  rw [if_neg (by simp [hover, hn]), linkLost, if_neg (by simp [hhead])]

theorem markAbsent_only (s : State) (n : Nat) : ChainRegsOnly [0x012] s (markAbsent n s) :=
  chainRegsOnly_setReg (x := s) (fun _ _ _ _ => rfl) _ (by decide) (by decide)

/-! ## Routes and writes of the chain's registers -/

/-- A member's route word is the head's (R361). -/
theorem routeCell_member {s : State} {c : Cell} {rest : List Cell} (hcells : s.cellsIn = c :: rest) (htyp : c.typ = 8)
    (hhead : chainHead s = false) (hover : chainOver s = false) :
    routeCell s = setReg pgDev 0x044 (cellW c 1 &&& wd 0xFFFFF7) { s with cellsIn := rest } := by
  unfold routeCell
  rw [nextCell_head hcells htyp]
  dsimp only
  rw [if_neg]
  change ¬(chainHead s || chainOver s) = true
  simp [hhead, hover]

theorem gatedWrite_chainRoute {s : State} {w : Who} (v : Word) (hgate : regGate s w pgDev 0x044 = .ok) :
    gatedWrite w pgDev 0x044 v s = chainRouteWrite v s := by
  rw [gatedWrite, gated_of_ok _ hgate]
  rfl

theorem gatedWrite_bcastData {s : State} {w : Who} (v : Word) (hgate : regGate s w pgChain 0x016 = .ok) :
    gatedWrite w pgChain 0x016 v s = bcastWrite v s := by
  rw [gatedWrite, gated_of_ok _ hgate]
  rfl

/-- The head's route word, with a MODE that is defined (R176, R361). -/
def routeStored (v : Word) (s : State) : State :=
  { setReg pgDev 0x044 (v &&& wd 0xFFFFF7) s with rrLast := Tbl.set (fun _ => 0) s.rrLast 21 0 }

theorem reg_routeStored_chain (v : Word) (s : State) {off : Nat} (hoff : off < 1024) :
    reg (routeStored v s) pgChain off = reg s pgChain off := reg_setReg_page s _ (by decide) hoff (by decide)

theorem portUp_routeStored (v : Word) (s : State) (p : Nat) : portUp (routeStored v s) p = portUp s p := by
  rw [portUp, portUp, regB, regB, reg_routeStored_chain v s (by decide)]

/-- The head stores a route word and sends it on (R361). -/
theorem chainRouteWrite_head {s : State} {v : Word} (hhead : chainHead s = true) (hready : chainReady s = true)
    (hmode : getF v 0 3 < 4) :
    chainRouteWrite v s = portQueue 1 (mkCell s 8 0 0 [v &&& wd 0xFFFFF7]) (routeStored v s) := by
  have hstored : routeStore 21 pgDev 0x044 v s = routeStored v s := by
    simp only [routeStore, if_neg (Nat.not_le.2 hmode)]
    rfl
  have hready' : chainReady (routeStored v s) = true := by
    rw [← hready, chainReady, chainReady, regB, regB, reg_routeStored_chain v s (by decide)]
  have hcell : mkCell (routeStored v s) 8 0 0 [reg (routeStored v s) pgDev 0x044] = mkCell s 8 0 0 [v &&& wd 0xFFFFF7] := by
    have hword : reg (routeStored v s) pgDev 0x044 = v &&& wd 0xFFFFF7 := reg_setReg_same s _ _ _
    rw [mkCell, mkCell, hword, chainAddr, chainAddr, regF, regF, reg_routeStored_chain v s (by decide)]
  unfold chainRouteWrite
  rw [if_pos hhead]
  dsimp only
  rw [hstored, if_pos hready', hcell]

/-- A broadcast goes out on each trained port and is delivered here as well (R361). -/
theorem bcastWrite_sent (v : Word) (s : State) :
    let b := mkCell s 10 0 0 [wd (regF s pgChain 0x014 0 28), wd (regF s pgChain 0x015 0 16), v]
    (bcastWrite v s).cellsIn = s.cellsIn ++ [b] ∧
      (∀ p, p < 2 → portUp s p = true → (portAt (bcastWrite v s) p).bulk = (portAt s p).bulk ++ [b]) ∧
      bcastWrite v s = { s with cellsIn := (bcastWrite v s).cellsIn, ports := (bcastWrite v s).ports } := by
  intro b
  have hfields : ∃ P, bcastWrite v s = { s with cellsIn := s.cellsIn ++ [b], ports := P } := by
    obtain ⟨P, hP⟩ := portQueue_eq 1 b { s with cellsIn := s.cellsIn ++ [b] }
    obtain ⟨Q, hQ⟩ := portQueue_eq 0 b (portQueue 1 b { s with cellsIn := s.cellsIn ++ [b] })
    refine ⟨Q, hQ.trans ?_⟩
    rw [hP]
  refine ⟨?_, fun p hp hup => portQueue_both (s := { s with cellsIn := s.cellsIn ++ [b] }) rfl hp hup, ?_⟩ <;>
    obtain ⟨P, hP⟩ := hfields <;> rw [hP]

/-- Settles O29: each command performs the oldest delivered cell of its type, whose effect the lemma of that type says. -/
theorem chainCells : Obligations.ChainCells := by
  intro s c rest hdom hrel hvcore hcells
  have hlive := chainLive_of_run hdom hrel hvcore
  refine ⟨fun walled pa v b htyp hbody hpa hshed hgate hboot => ?write,
    fun walled pa tag b htyp hbody hpa htag hshed hgate hue hsrc hup => ?read,
    fun tag src pa htyp htag hok hfind => ?rdata,
    fun t n htyp hn hlevel hinput hbox ht hup => ?event,
    fun a htyp hword ha => ?enum, fun htyp hword => ?outside,
    fun n hword hpos hn hready => ⟨fun htyp hhead => ?enumEnd, fun htyp hhead hover => ?enumDone⟩,
    fun htyp hhead hover => ?enumDoneOutside, fun htyp hhead hover => ?route,
    fun n htyp hword hn hhead hover => ?lost,
    fun walled pa b htyp hover hword hmask hshed hgate hboot => ?bcast,
    fun w v => ⟨fun hgate hhead hready hup hmode => ?routeWrite, fun hgate => ?bcastWrite⟩⟩
  case write =>
    refine ⟨_, rfl, ?_⟩
    rw [if_pos hlive, chainWrite_shed hcells htyp hbody hpa hshed hgate hboot]
    exact memPut_written { s with cellsIn := rest } pa v
  case read =>
    refine ⟨_, rfl, ?_⟩
    rw [if_pos hlive, chainRead_shed hcells htyp hbody hpa htag hshed hgate hue hsrc]
    exact ⟨portQueue_bulk (s := { s with cellsIn := rest, chainFwd := _ }) hup rfl, portQueue_ports ..⟩
  case rdata =>
    subst htag
    refine ⟨_, rfl, ?_⟩
    rw [if_pos hlive, chainRdata_of_tag hcells htyp hok hfind]
    rfl
  case event =>
    refine ⟨_, rfl, ?_⟩
    rw [if_pos hlive, chainEvent_slot hcells htyp hlevel hinput hbox]
    have hfields := (raiseLog_arrivals (n := 16 + n) (by omega) { s with cellsIn := rest } (getF (cellW c 1) 3 11 % 128)).fields
    refine ⟨slotRaised_raiseLog (by omega) { s with cellsIn := rest } _ t ht hup, ?_, ?_⟩ <;> rw [hfields]
  case enum =>
    refine ⟨_, rfl, ?_⟩
    rw [withNumber_head hcells enumCell htyp hlive, show getF (cellW c 1) 0 5 = a from hword]
    exact enumCell_enumerated { s with cellsIn := rest } ha
  case outside =>
    refine ⟨_, rfl, ?_⟩
    rw [withNumber_head hcells enumCell htyp hlive]
    exact enumCell_outside { s with cellsIn := rest } hword
  case enumEnd =>
    refine ⟨_, rfl, ?_⟩
    rw [withNumber_head hcells _ htyp hlive, show getF (cellW c 1) 0 5 = n from hword]
    dsimp only
    rw [enumEnd_of_head (s := { s with cellsIn := rest }) n hhead]
    obtain ⟨h, hdevices, hmap, honly, hmem⟩ := headReady_readied (s := { s with cellsIn := rest }) hn hready
    exact ⟨h, hdevices, hmap, honly, hmem⟩
  case enumDone =>
    refine ⟨_, rfl, ?_⟩
    rw [withNumber_head hcells _ htyp hlive, show getF (cellW c 1) 0 5 = n from hword]
    dsimp only
    rw [enumDone_of_member (s := { s with cellsIn := rest }) n hhead hover]
    obtain ⟨h, hdevices, hmap, honly, hmem⟩ := enumDone_readied (s := { s with cellsIn := rest }) hn hready
    exact ⟨h, hdevices, hmap, honly, hmem⟩
  case enumDoneOutside =>
    refine ⟨_, rfl, ?_⟩
    rw [withNumber_head hcells _ htyp hlive]
    exact enumDone_of_outside (s := { s with cellsIn := rest }) _ hover
  case route =>
    refine ⟨_, rfl, ?_⟩
    rw [if_pos hlive, routeCell_member hcells htyp hhead hover]
    obtain ⟨hfields, hkept⟩ := onlyReg_setReg (s := { s with cellsIn := rest }) (pg := pgDev) (off := 0x044)
      (cellW c 1 &&& wd 0xFFFFF7) (by decide)
    exact ⟨reg_setReg_same .., hfields, hkept⟩
  case lost =>
    refine ⟨_, rfl, ?_⟩
    rw [withNumber_head hcells _ htyp hlive, show getF (cellW c 1) 0 5 = n from hword]
    dsimp only
    rw [linkLost_member (s := { s with cellsIn := rest }) hn hhead hover]
    exact ⟨fun k hk => regB_markAbsent { s with cellsIn := rest } hk, markAbsent_only { s with cellsIn := rest } n, rfl⟩
  case bcast =>
    subst hword
    refine ⟨_, rfl, ?_⟩
    rw [if_pos hlive, bcastCell_shed hcells htyp hover hmask hshed hgate hboot]
    exact memPut_written { s with cellsIn := rest } _ _
  case routeWrite =>
    refine ⟨_, rfl, ?_⟩
    rw [gatedWrite_chainRoute v hgate, chainRouteWrite_head hhead hready hmode]
    refine ⟨?_, portQueue_bulk ((portUp_routeStored v s 1).trans hup) rfl, ?_⟩
    · rw [reg_portQueue]
      exact reg_setReg_same ..
    · exact portQueue_mem ..
  case bcastWrite =>
    refine ⟨_, rfl, ?_⟩
    rw [gatedWrite_bcastData v hgate]
    exact bcastWrite_sent v s

end Sys2Proof.Machine
end

section
/-! SUPPORT. What an instruction does before its retirement (R41, R49, R96, R116): the updates it is made of, each with what it may
change, and how they go together with the retirement at its end. -/

namespace Sys2Proof.Machine

/-! ## Issue -/

/-- At a ready tine an instruction does what its meaning says at the head of the window. -/
theorem runs_of_ready {c : Instr} {f : State → State} {s : State} {t : TineNo} {P : State → Prop} (hready : Ready s t)
    (hexec : exec c s = .next (issue t c f s)) (hP : P (f s)) : Runs c s P :=
  ⟨_, hexec.trans (congrArg _ (issue_ready hready c f)), hP⟩

/-- A ready tine has no fault to take, nothing in flight and nothing behind it. -/
theorem idle_of_ready {s : State} {t : Nat} (hready : Ready s t) :
    (tineAt s t).fault = none ∧ (tineAt s t).drain = [] ∧ (tineAt s t).flight = none ∧ (tineAt s t).window = [] := by
  have hissue := hready.1
  simp only [canIssue, issueOpen, Bool.and_eq_true, decide_eq_true_eq, List.isEmpty_iff] at hissue
  obtain ⟨⟨⟨⟨⟨⟨-, hfault⟩, -⟩, hdrain⟩, -⟩, hflight⟩, hwindow⟩ := hissue
  exact ⟨hfault, hdrain, hflight, hwindow⟩

theorem flight_of_ready {s : State} {t : Nat} (hready : Ready s t) : (tineAt s t).flight = none :=
  have ⟨_, _, hflight, _⟩ := idle_of_ready hready
  hflight

theorem window_of_ready {s : State} {t : Nat} (hready : Ready s t) : (tineAt s t).window = [] :=
  have ⟨_, _, _, hwindow⟩ := idle_of_ready hready
  hwindow

/-! ## Saturated values -/

theorem satI_eq_clamp (w : Nat) (v : Int) : satI w v = clamp w v := by
  have hpos : 0 < 2 ^ (w - 1) := Nat.two_pow_pos _
  unfold satI clamp
  push_cast
  generalize hp : (2 : Int) ^ (w - 1) = p
  have hp' : 0 < p := by rw [← hp]; exact_mod_cast hpos
  split
  · omega
  · split <;> omega

theorem out96_eq (v : Int) : out96 v = decide (clamp 96 v ≠ v) := by rw [out96, satI_eq_clamp]

theorem sat96_toInt (v : Int) : (sat96 v).toInt = clamp 96 v := by
  rw [sat96, satI_eq_clamp]
  apply BitVec.toInt_ofInt_eq_self <;> norm_num [clamp]

theorem clamp_acc (a : Acc96) : clamp 96 a.toInt = a.toInt := by
  have hlo := BitVec.le_toInt a
  have hhi := BitVec.toInt_lt (x := a)
  norm_num [clamp] at *
  omega

/-! ## Updates before a retirement -/

/-- Between `s` and `a` only tine `t` changed, of its page at most the registers at `offs`, and not its level, its PC, its store
buffer or its translation cache; an empty window stays empty. -/
structure Touches (t : Nat) (offs : List Nat) (s a : State) : Prop where
  only : OnlyTine t s a
  page : ∀ off, off < 1024 → off ∉ offs → reg a (pgTine t) off = reg s (pgTine t) off
  lvl : tLvl a t = tLvl s t
  pc : (tineAt a t).pc = (tineAt s t).pc
  sb : (tineAt a t).sb = (tineAt s t).sb
  xcache : (tineAt a t).xcache = (tineAt s t).xcache
  window : (tineAt s t).window = [] → (tineAt a t).window = []

/-- What touches neither G registers, whose banks begin at 0x2D0, nor accumulators. -/
structure Quiet (t : Nat) (offs : List Nat) (s a : State) : Prop extends Touches t offs s a where
  low : ∀ o ∈ offs, o < 0x2D0
  g : (tineAt a t).g = (tineAt s t).g
  acc : (tineAt a t).acc = (tineAt s t).acc

section
variable {t : Nat} {x y : List Nat} {s a b : State}

theorem Touches.refl (t : Nat) (s : State) : Touches t [] s s :=
  ⟨.refl t s, fun _ _ _ => rfl, rfl, rfl, rfl, rfl, id⟩

theorem Touches.trans (h : Touches t x s a) (k : Touches t y a b) : Touches t (x ++ y) s b where
  only := h.only.trans k.only
  page off ho hn := by
    rw [List.mem_append, not_or] at hn
    exact (k.page off ho hn.2).trans (h.page off ho hn.1)
  lvl := k.lvl.trans h.lvl
  pc := k.pc.trans h.pc
  sb := k.sb.trans h.sb
  xcache := k.xcache.trans h.xcache
  window hw := k.window (h.window hw)

theorem Touches.mono (h : Touches t x s a) (hxy : ∀ o, o ∈ x → o ∈ y) : Touches t y s a :=
  { h with page := fun off ho hn => h.page off ho (fun hx => hn (hxy off hx)) }

theorem Quiet.refl (t : Nat) (s : State) : Quiet t [] s s := ⟨.refl t s, by simp, rfl, rfl⟩

theorem Quiet.trans (h : Quiet t x s a) (k : Quiet t y a b) : Quiet t (x ++ y) s b where
  toTouches := h.toTouches.trans k.toTouches
  low o ho := (List.mem_append.1 ho).elim (h.low o) (k.low o)
  g := k.g.trans h.g
  acc := k.acc.trans h.acc

theorem Quiet.mono (h : Quiet t x s a) (hxy : ∀ o, o ∈ x → o ∈ y) (hlow : ∀ o ∈ y, o < 0x2D0) : Quiet t y s a :=
  { h with toTouches := h.toTouches.mono hxy, low := hlow }

/-- What happens to a tine aside from its registers. -/
theorem Touches.of_tine {f : Tine → Tine} (t : Nat) (s : State)
    (hf : ∀ x, (f x).pc = x.pc ∧ (f x).sb = x.sb ∧ (f x).xcache = x.xcache ∧ (x.window = [] → (f x).window = [])) :
    Touches t [] s (modTine t f s) := by
  obtain ⟨hpc, hsb, hxcache, hwindow⟩ := hf (tineAt s t)
  refine ⟨onlyTine_modTine t f s, fun _ _ _ => rfl, rfl, ?_, ?_, ?_, fun hw => ?_⟩ <;> rw [tineAt_modTine_same]
  · exact hpc
  · exact hsb
  · exact hxcache
  · exact hwindow hw

theorem Quiet.of_tine {f : Tine → Tine} (t : Nat) (s : State)
    (hf : ∀ x, (f x).pc = x.pc ∧ (f x).sb = x.sb ∧ (f x).xcache = x.xcache ∧ (x.window = [] → (f x).window = []))
    (hg : ∀ x, (f x).g = x.g ∧ (f x).acc = x.acc) : Quiet t [] s (modTine t f s) where
  toTouches := .of_tine t s hf
  low := by simp
  g := by rw [tineAt_modTine_same]; exact (hg _).1
  acc := by rw [tineAt_modTine_same]; exact (hg _).2

/-- A register of the page below the banks is written; TST keeps its level. -/
theorem Quiet.of_setReg (t : Nat) {off : Nat} (v : Word) (s : State) (hoff : off < 0x2D0)
    (hlvl : off = oTST → getF v 30 5 = tLvl s t) : Quiet t [off] s (setReg (pgTine t) off v s) where
  only := (side_setReg t off v s (by omega)).only
  page := (side_setReg t off v s (by omega)).page
  lvl := by
    by_cases h : off = oTST
    · subst h
      rw [tLvl, regF, reg_setReg_same]
      exact hlvl rfl
    · rw [tLvl, regF, reg_setReg_off s v (Ne.symm h)]
      rfl
  pc := rfl
  sb := rfl
  xcache := rfl
  window := id
  low := by simpa using hoff
  g := rfl
  acc := rfl

theorem Quiet.forAll {α : Type} {f : α → State → State} {offs : α → List Nat} (h : ∀ e s, Quiet t (offs e) s (f e s)) (l : List α)
    (s : State) : Quiet t (l.flatMap offs) s (forAll l f s) := by
  induction l generalizing s with
  | nil => exact .refl t s
  | cons e l ih => exact (h e s).trans (ih (f e s))

theorem Quiet.getG (h : Quiet t x s a) (i : Gr) : getG a t i = getG s t i := by
  have hi := i.isLt
  unfold Machine.getG
  rw [h.g, bankOff_of_lvl h.lvl]
  split
  · rfl
  · have hlt := bankOff_lt s t (show i.val - 28 < 4 by omega)
    have hge := bankOff_ge s t (i.val - 28)
    exact h.page _ (by omega) fun hm => by have := h.low _ hm; omega

theorem Quiet.getAcc (h : Quiet t x s a) (n : Nat) : getAcc a t n = getAcc s t n := by
  unfold Machine.getAcc
  rw [h.acc]

theorem Touches.gOff (h : Touches t x s a) (i : Gr) : gOff a t i = gOff s t i := by
  unfold Machine.gOff
  rw [bankOff_of_lvl h.lvl]

end

/-- The bank registers lie above every register that the instructions name themselves. -/
theorem lt_gOff {off : Nat} (s : State) (t : Nat) (i : Gr) (h : off < 0x2D0) : off < gOff s t i := by
  have := bankOff_ge s t (i.val - 28)
  unfold gOff
  split <;> omega

/-! ## Writing G registers and accumulators -/

theorem touches_setG (t : Nat) (i : Gr) (v : Word) (s : State) : Touches t [gOff s t i] s (setG t i v s) where
  only := onlyTine_setG s t i v
  page off ho hn := reg_setG_ne s t v (by simpa using hn) ho
  lvl := tLvl_setG s t i v
  pc := (tine_setG s t i v).2.2.2
  sb := (tine_setG s t i v).2.1
  xcache := (tine_setG s t i v).2.2.1
  window := by
    intro hw
    unfold setG
    split
    · rwa [tineAt_modTine_same]
    · exact hw

theorem getAcc_setG (s : State) (t : Nat) (i : Gr) (v : Word) (n : Nat) : getAcc (setG t i v s) t n = getAcc s t n := by
  unfold getAcc
  rw [(tine_setG s t i v).1]

theorem touches_setAcc (t n : Nat) (v : Acc96) (s : State) : Touches t [] s (setAcc t n v s) :=
  .of_tine t s fun _ => ⟨rfl, rfl, rfl, id⟩

theorem getG_setAcc (s : State) (t n : Nat) (v : Acc96) (i : Gr) : getG (setAcc t n v s) t i = getG s t i := by
  unfold getG setAcc bankOff tLvl regF
  rw [tineAt_modTine_same]
  rfl

theorem getAcc_setAcc (s : State) (t n : Nat) (v : Acc96) (m : Nat) :
    getAcc (setAcc t n v s) t m = if m = n then v else getAcc s t m := by
  unfold getAcc setAcc
  rw [tineAt_modTine_same, Tbl.get_set]

/-- The address updates of an access touch the address registers. -/
theorem touches_doUpds (t : Nat) (upds : List (Gr × Word)) (s : State) :
    Touches t (upds.map fun u => gOff s t u.1) s (doUpds t upds s) := by
  induction upds generalizing s with
  | nil => exact .refl t s
  | cons u upds ih =>
    have hu := touches_setG t u.1 u.2 s
    have hrest := ih (setG t u.1 u.2 s)
    simp only [hu.gOff] at hrest
    exact hu.trans hrest

theorem getAcc_doUpds (t : Nat) (upds : List (Gr × Word)) (s : State) (n : Nat) : getAcc (doUpds t upds s) t n = getAcc s t n := by
  induction upds generalizing s with
  | nil => rfl
  | cons u upds ih => exact (ih _).trans (getAcc_setG s t u.1 u.2 n)

theorem getG_doUpds_notMem {upds : List (Gr × Word)} {i : Gr} (h : ∀ u ∈ upds, u.1 ≠ i) (t : Nat) (s : State) :
    getG (doUpds t upds s) t i = getG s t i := by
  induction upds generalizing s with
  | nil => rfl
  | cons u upds ih =>
    rw [List.forall_mem_cons] at h
    exact (ih h.2 _).trans (getG_setG_ne s t u.2 (Ne.symm h.1))

/-- Updates of different registers leave each at its value (R96). -/
theorem getG_doUpds (t : TineNo) {upds : List (Gr × Word)} (hnodup : (upds.map Prod.fst).Nodup) (s : State) (i : Gr) :
    getG (doUpds t upds s) t i = afterUpds s t upds i := by
  unfold afterUpds
  induction upds generalizing s with
  | nil => rfl
  | cons u upds ih =>
    rw [List.map_cons, List.nodup_cons, List.mem_map] at hnodup
    by_cases hi : u.1 = i
    · have hrest : ∀ u' ∈ upds, u'.1 ≠ i := fun u' hu' he => hnodup.1 ⟨u', hu', he.trans hi.symm⟩
      have hstep : getG (doUpds t (u :: upds) s) t i = getG (setG t u.1 u.2 s) t i := getG_doUpds_notMem hrest t _
      rw [hstep, List.find?_cons_of_pos (by simpa using hi), ← hi]
      exact getG_setG_same s t u.1 u.2
    · have hstep := ih hnodup.2 (setG t u.1 u.2 s)
      rw [List.find?_cons_of_neg (by simpa using hi)]
      rw [getG_setG_ne s t u.2 (Ne.symm hi)] at hstep
      exact hstep

theorem nodup_updList (u : Option (Gr × Word)) : ((updList u).map Prod.fst).Nodup := by
  cases u <;> simp [updList]

/-! ## The retirement at the end -/

section
variable {t : Nat} {x y : List Nat} {s a b : State}

theorem getG_retire (t len : Nat) (s : State) (i : Gr) : getG (retire t len s) t i = getG s t i :=
  retire_keepsG (.refl t s) rfl (by simp) i (by simp)

theorem getAcc_retire (t len : Nat) (s : State) (n : Nat) : getAcc (retire t len s) t n = getAcc s t n :=
  retire_keepsAcc (.refl t s) n (by simp)

theorem retire_side (t len : Nat) (s : State) : Retired t [] s (retire t len s) :=
  have ⟨_, _, hretired, _⟩ := retire_plain t len s
  hretired

theorem Retired.after (h : Touches t x s a) (hcount : oRETIRED ∉ x) (k : Retired t y a b) : Retired t (x ++ y) s b where
  only := h.only.trans k.only
  count := by rw [k.count, h.page oRETIRED (by decide) hcount]
  page off ho hn hside := by
    rw [List.mem_append, not_or] at hn
    rw [k.page off ho hn.2 hside, h.page off ho hn.1]
  buffer := k.buffer.trans h.sb
  caches := k.caches.trans h.xcache

theorem Moves.after {len : Nat} (h : Touches t x s a) (hloop : oLSTAT ∉ x) (k : Moves t len a b) : Moves t len s b := fun hs => by
  rw [k ((straight_of_page (h.page oLSTAT (by decide) hloop)).2 hs), h.pc]

theorem Touches.retired (h : Touches t x s a) (hcount : oRETIRED ∉ x) (len : Nat) : Retired t x s (retire t len a) :=
  ((retire_side t len a).after h hcount).mono fun o ho => .inl (by simpa using ho)

theorem Touches.moves (h : Touches t x s a) (hloop : oLSTAT ∉ x) (len : Nat) : Moves t len s (retire t len a) :=
  have ⟨_, _, _, hmoves⟩ := retire_plain t len a
  .after h hloop hmoves

end

/-! ## What is left of the window and of a fault -/

/-- Arbitration changes the chosen entry of a tine and nothing else that it holds. -/
theorem tineAt_sieveUpdate (t : Nat) (s : State) : ∃ e, tineAt (sieveUpdate t s) t = { tineAt s t with entry := e } := by
  unfold sieveUpdate
  split
  · exact ⟨_, rfl⟩
  · split
    · exact ⟨_, rfl⟩
    · exact ⟨_, tineAt_modTine_same ..⟩
  · exact ⟨_, tineAt_modTine_same ..⟩
  · split
    · exact ⟨_, rfl⟩
    · split
      · exact ⟨_, (tineAt_bumpF ..).trans (tineAt_modTine_same ..)⟩
      · exact ⟨_, tineAt_modTine_same ..⟩

/-- A tine that a session has halted (R430). -/
def haltedTine (x : Tine) (pr : Bool) : Tine :=
  { x with halt := if pr then .probe else .host, dreq := .none, flight := none, window := [], fault := none, entry := none }

/-- A held halt is taken, though not while a fault is owed, or at most a step ends. -/
theorem tineAt_haltCheck (t : Nat) (s : State) :
    (∃ d, tineAt (haltCheck t s) t = { tineAt s t with dreq := d }) ∨
      (owesFault s t = false ∧ ∃ pr, tineAt (haltCheck t s) t = haltedTine (tineAt s t) pr) := by
  unfold haltCheck haltHeld
  split
  · split
    · exact .inl ⟨_, tineAt_modTine_same ..⟩
    · exact .inl ⟨_, rfl⟩
  · split
    · split
      · next pr _ h => exact .inr ⟨by simpa using h.2.2, pr, tineAt_modTine_same ..⟩
      · exact .inl ⟨_, rfl⟩
    · exact .inl ⟨_, rfl⟩

theorem tineAt_loopTest (t : Nat) (l : List (BitVec 14)) (n : BitVec 14) (s : State) :
    tineAt (loopTest t l n s).2 t = tineAt s t := by
  unfold loopTest
  extract_lets w ld lc s1
  split
  · split <;> rfl
  · rfl

theorem tineAt_advance (t len : Nat) (s : State) : ∃ p, tineAt (advance t len s) t = { tineAt s t with pc := p } := by
  unfold advance
  extract_lets pc next l s1 back
  have hpc : ∀ (l : List (BitVec 14)) (x : State), tineAt x t = tineAt s t →
      ∃ p, tineAt (setPc t (loopTest t l next x).1 (loopTest t l next x).2) t = { tineAt s t with pc := p } := fun l x hx =>
    ⟨_, by rw [setPc, tineAt_modTine_same, tineAt_loopTest, hx]⟩
  split
  · split
    · exact ⟨_, rfl⟩
    · exact hpc _ s1 rfl
  · exact hpc _ s rfl

/-- A retirement ends with a held halt and with arbitration, of a tine with nothing in flight. -/
theorem retireEnd_eq (t : Nat) (opener : Bool) (s : State) : ∃ x, retireEnd t opener s = sieveUpdate t (haltCheck t x) ∧
    tineAt x t = { tineAt s t with lastAlive := s.now, flight := none, halfdone := false } := by
  refine ⟨_, rfl, ?_⟩
  rw [tineAt_modTine_same]
  cases opener <;> simp [alive]

theorem flight_retireEnd (t : Nat) (opener : Bool) (s : State) : (tineAt (retireEnd t opener s) t).flight = none := by
  obtain ⟨x, heq, hx⟩ := retireEnd_eq t opener s
  obtain ⟨e, he⟩ := tineAt_sieveUpdate t (haltCheck t x)
  rw [heq, he]
  obtain ⟨d, hd⟩ | ⟨-, pr, hd⟩ := tineAt_haltCheck t x <;> rw [hd]
  · rw [hx]
  · rfl

theorem window_retireEnd {t : Nat} {s : State} (opener : Bool) (hw : (tineAt s t).window = []) :
    (tineAt (retireEnd t opener s) t).window = [] := by
  obtain ⟨x, heq, hx⟩ := retireEnd_eq t opener s
  obtain ⟨e, he⟩ := tineAt_sieveUpdate t (haltCheck t x)
  rw [heq, he]
  obtain ⟨d, hd⟩ | ⟨-, pr, hd⟩ := tineAt_haltCheck t x <;> rw [hd]
  · rw [hx]; exact hw
  · rfl

/-- A fault that is to be taken after its instruction's retirement outlasts it (R148). -/
theorem fault_retireEnd {t : Nat} {s : State} (opener : Bool) (hf : faultStands s t = true) :
    (tineAt (retireEnd t opener s) t).fault = (tineAt s t).fault := by
  obtain ⟨x, heq, hx⟩ := retireEnd_eq t opener s
  obtain ⟨e, he⟩ := tineAt_sieveUpdate t (haltCheck t x)
  have howes : owesFault x t = true := by
    have hstands : faultStands x t = true := by
      rw [← hf]
      simp only [faultStands, hx]
    rw [owesFault, hstands, Bool.true_or]
  rw [heq, he]
  obtain ⟨d, hd⟩ | ⟨hno, -⟩ := tineAt_haltCheck t x
  · rw [hd, hx]
  · rw [howes] at hno; cases hno

theorem flight_retire (t len : Nat) (s : State) : (tineAt (retire t len s) t).flight = none := flight_retireEnd ..

theorem window_retire {t : Nat} {s : State} (len : Nat) (hw : (tineAt s t).window = []) :
    (tineAt (retire t len s) t).window = [] := by
  obtain ⟨p, hp⟩ := tineAt_advance t len s
  exact window_retireEnd false (by rw [hp]; exact hw)

end Sys2Proof.Machine
end

section
/-! SUPPORT. Saturation (R41, R48, R49, R52, R69): the sticky flags and counts that a saturating retirement leaves, and the
instructions that write accumulators, with the statements about the MAC instructions and the accumulator operations. -/

namespace Sys2Proof.Machine

/-! ## The sticky flags -/

/-- The bit of TST that saturation flag `k` is (Table 3-1): AOV and WSAT of the accumulators, and GSAT. -/
def satBit (k : Nat) : Nat := if k < 4 then 4 * k + 1 else if k < 8 then 4 * (k - 4) + 2 else 16

/-- The register that counts it (R69). -/
def satOff (k : Nat) : Nat := if k < 4 then oSATA k else if k < 8 then oSATA (k - 4) else oSATG

theorem satBit_le (k : Nat) : satBit k ≤ 16 := by
  unfold satBit
  split
  · omega
  · split <;> omega

theorem satOff_bounds (k : Nat) : oSATA 0 ≤ satOff k ∧ satOff k ≤ oSATG := by
  unfold satOff oSATA oSATG
  split
  · omega
  · split <;> omega

/-- The flags `ks` set in a word. -/
def withSats (ks : List Nat) (w : Word) : Word := forAll ks (fun k w => setB w (satBit k) true) w

theorem lvl_withSats (ks : List Nat) (w : Word) : getF (withSats ks w) 30 5 = getF w 30 5 := by
  unfold withSats
  induction ks generalizing w with
  | nil => rfl
  | cons k ks ih => exact (ih _).trans (getF_setB_ne w true (by have := satBit_le k; omega))

theorem bit_withSats (ks : List Nat) (w : Word) (i : Nat) :
    bit (withSats ks w) i = (bit w i || ks.any fun k => decide (satBit k = i)) := by
  unfold withSats
  induction ks generalizing w with
  | nil => simp [forAll]
  | cons k ks ih =>
    rw [forAll, ih, List.any_cons, ← Bool.or_assoc]
    by_cases hk : satBit k = i
    · subst hk
      rw [bit_setB_same w true (by have := satBit_le k; omega)]
      simp
    · rw [bit_setB_ne w true (Ne.symm hk)]
      simp [hk]

theorem satFlag_eq (t k : Nat) (s : State) : ∃ v, satFlag t k s =
    modTine t (fun x => { x with tsat := Tbl.set (fun _ => 0) x.tsat k (Tbl.get (fun _ => 0) x.tsat k + 1) })
      (setReg (pgTine t) (satOff k) v (setRegB (pgTine t) oTST (satBit k) true s)) := by
  unfold satFlag satOff satBit
  dsimp only
  split
  · exact ⟨_, rfl⟩
  · split <;> exact ⟨_, rfl⟩

theorem satOff_ne_tst (k : Nat) : oTST ≠ satOff k := by
  have hle := (satOff_bounds k).2
  unfold oSATG at hle
  unfold oTST
  omega

/-- A flag set by a retirement changes TST and its counter. -/
theorem quiet_satFlag (t k : Nat) (s : State) : Quiet t [oTST, satOff k] s (satFlag t k s) := by
  obtain ⟨v, heq⟩ := satFlag_eq t k s
  have hle := (satOff_bounds k).2
  unfold oSATG at hle
  rw [heq]
  have htst : Quiet t [oTST] s (setRegB (pgTine t) oTST (satBit k) true s) :=
    .of_setReg t _ s (by decide) fun _ => getF_setB_ne _ true (by have := satBit_le k; omega)
  have hcount := Quiet.of_setReg t v (setRegB (pgTine t) oTST (satBit k) true s) (show satOff k < 0x2D0 by omega)
    (fun h => absurd h.symm (satOff_ne_tst k))
  exact (htst.trans hcount).trans (.of_tine t _ (fun _ => ⟨rfl, rfl, rfl, id⟩) fun _ => ⟨rfl, rfl⟩)

theorem tst_satFlag (t k : Nat) (s : State) :
    reg (satFlag t k s) (pgTine t) oTST = setB (reg s (pgTine t) oTST) (satBit k) true := by
  obtain ⟨v, heq⟩ := satFlag_eq t k s
  rw [heq, reg_modTine, reg_setReg_off _ _ (satOff_ne_tst k)]
  exact reg_setReg_same ..

/-- The flags of a saturating instruction, and its trap, before it retires (R49, R52). -/
def flagged (t : Nat) (ks : List Nat) (s : State) : State := arithTrap t ks (forAll ks (satFlag t) s)

theorem retireSat_eq (t len : Nat) (ks : List Nat) (s : State) : retireSat t len ks s = retire t len (flagged t ks s) := rfl

theorem quiet_recordFault (t : Nat) (f : FaultRec) (s : State) : Quiet t [] s (recordFault t f s) := by
  refine .of_tine t s (fun x => ?_) fun x => ?_
  · split
    · exact ⟨rfl, rfl, rfl, id⟩
    · exact ⟨rfl, rfl, rfl, fun _ => rfl⟩
  · split <;> exact ⟨rfl, rfl⟩

theorem quiet_flagged (t : Nat) (ks : List Nat) (s : State) : Quiet t (oTST :: ks.map satOff) s (flagged t ks s) := by
  have htrap : Quiet t [] (forAll ks (satFlag t) s) (flagged t ks s) := by
    unfold flagged arithTrap
    split
    · exact .refl t _
    · exact quiet_recordFault t _ _
  refine ((Quiet.forAll (quiet_satFlag t) ks s).trans htrap).mono (fun o ho => ?_) fun o ho => ?_
  · simp only [List.append_nil, List.mem_flatMap, List.mem_cons, List.not_mem_nil, or_false] at ho
    obtain ⟨k, hk, rfl | rfl⟩ := ho
    · exact List.mem_cons_self
    · exact List.mem_cons_of_mem _ (List.mem_map_of_mem hk)
  · rw [List.mem_cons, List.mem_map] at ho
    obtain rfl | ⟨k, -, rfl⟩ := ho
    · decide
    · have hle := (satOff_bounds k).2
      unfold oSATG at hle
      omega

theorem tst_flagged (t : Nat) (ks : List Nat) (s : State) :
    reg (flagged t ks s) (pgTine t) oTST = withSats ks (reg s (pgTine t) oTST) := by
  have htrap : reg (flagged t ks s) (pgTine t) oTST = reg (forAll ks (satFlag t) s) (pgTine t) oTST :=
    (side_arithTrap t ks _).page oTST (by decide) (by simp)
  rw [htrap, withSats]
  induction ks generalizing s with
  | nil => rfl
  | cons k ks ih =>
    rw [forAll, forAll, ← tst_satFlag]
    exact ih _ ((side_arithTrap t ks _).page oTST (by decide) (by simp))

/-- No counter steers a retirement. -/
theorem ne_satOff {o : Nat} (ho : o < 0xA4 ∨ 0xA8 < o) (ks : List Nat) : o ∉ ks.map satOff := by
  intro hm
  obtain ⟨k, -, rfl⟩ := List.mem_map.1 hm
  have hb := satOff_bounds k
  unfold oSATA oSATG at hb
  omega

/-! ## Writing accumulators -/

/-- The accumulators of `l` take the totals `tot`, saturated once, and the instruction retires (R41, R42). -/
def accStep (t len : Nat) (tot : Nat → Int) (l : List Nat) (s : State) : State :=
  retireSat t len (l.filter fun n => out96 (tot n)) (forAll l (fun n x => setAcc t n (sat96 (tot n)) x) s)

section
variable (t : TineNo) (len : Nat) (tot : Nat → Int) (l : List Nat) (s : State)

theorem touches_setAccs (t : Nat) : Touches t [] s (forAll l (fun n x => setAcc t n (sat96 (tot n)) x) s) := by
  induction l generalizing s with
  | nil => exact .refl t s
  | cons n l ih => exact (touches_setAcc t n _ s).trans (ih _)

theorem getG_setAccs (t : Nat) (i : Gr) : getG (forAll l (fun n x => setAcc t n (sat96 (tot n)) x) s) t i = getG s t i := by
  induction l generalizing s with
  | nil => rfl
  | cons n l ih => exact (ih _).trans (getG_setAcc s t n _ i)

theorem getAcc_setAccs (t m : Nat) :
    getAcc (forAll l (fun n x => setAcc t n (sat96 (tot n)) x) s) t m = if m ∈ l then sat96 (tot m) else getAcc s t m := by
  induction l generalizing s with
  | nil => simp [forAll]
  | cons n l ih =>
    rw [forAll, ih, getAcc_setAcc]
    by_cases hl : m ∈ l <;> by_cases hn : m = n <;> simp [hl, hn]

theorem getG_accStep (i : Gr) : getG (accStep t len tot l s) t i = getG s t i := by
  rw [accStep, retireSat_eq, getG_retire, (quiet_flagged t _ _).getG, getG_setAccs]

theorem getAcc_accStep (m : Nat) : getAcc (accStep t len tot l s) t m = if m ∈ l then sat96 (tot m) else getAcc s t m := by
  rw [accStep, retireSat_eq, getAcc_retire, (quiet_flagged t _ _).getAcc, getAcc_setAccs]

theorem tst_accStep : reg (accStep t len tot l s) (pgTine t) oTST =
    withSats (l.filter fun n => out96 (tot n)) (reg s (pgTine t) oTST) := by
  rw [accStep, retireSat_eq, tst_retire, tst_flagged, (touches_setAccs tot l s t).page oTST (by decide) (by simp)]

theorem touches_accStep : Touches t (oTST :: (l.filter fun n => out96 (tot n)).map satOff) s
    (flagged t (l.filter fun n => out96 (tot n)) (forAll l (fun n x => setAcc t n (sat96 (tot n)) x) s)) :=
  (touches_setAccs tot l s t).trans (quiet_flagged t _ _).toTouches

theorem satOff_acc {n : Nat} (hn : n < 4) : satOff n = oSATA n := if_pos hn

variable {l}

theorem retired_accStep (hl : ∀ n ∈ l, n < 4) : Retired t (oTST :: l.map oSATA) s (accStep t len tot l s) := by
  refine ((touches_accStep t tot l s).retired ?_ len).mono fun o ho => .inl ?_
  · rw [List.mem_cons, not_or]
    exact ⟨by decide, ne_satOff (by decide) _⟩
  · rw [List.mem_cons, List.mem_map] at ho
    obtain rfl | ⟨n, hn, rfl⟩ := ho
    · exact List.mem_cons_self
    · have hmem := (List.mem_filter.1 hn).1
      rw [satOff_acc (hl n hmem)]
      exact List.mem_cons_of_mem _ (List.mem_map_of_mem hmem)

theorem moves_accStep : Moves t len s (accStep t len tot l s) := by
  refine (touches_accStep t tot l s).moves ?_ len
  rw [List.mem_cons, not_or]
  exact ⟨by decide, ne_satOff (by decide) _⟩

/-- An instruction that writes accumulators and retires: `WroteAcc` says all it does. -/
theorem accStep_wroteAcc (hl : ∀ n ∈ l, n < 4) (hrest : ∀ n, n ∉ l → tot n = (getAcc s t n).toInt) :
    WroteAcc t tot len s (accStep t len tot l s) := by
  have hclamp : ∀ n, n ∉ l → clamp 96 (tot n) = tot n := fun n hn => by rw [hrest n hn, clamp_acc]
  refine ⟨fun n _ => ?_, fun i _ => getG_accStep t len tot l s i, fun i hi => ?_, ?_, moves_accStep t len tot s⟩
  · rw [getAcc_accStep]
    split
    · exact sat96_toInt _
    · next hn => rw [hclamp n hn, hrest n hn]
  · rw [tst_accStep, bit_withSats]
    congr 1
    rw [Bool.eq_iff_iff]
    simp only [List.any_eq_true, List.mem_filter, decide_eq_true_eq, Bool.and_eq_true, out96_eq]
    constructor
    · rintro ⟨k, ⟨hk, hover⟩, rfl⟩
      have hk4 := hl k hk
      have hbit : satBit k = 4 * k + 1 := if_pos hk4
      rw [hbit, show (4 * k + 1) / 4 = k by omega]
      exact ⟨⟨by omega, by omega⟩, hover⟩
    · rintro ⟨⟨hi1, hi16⟩, hover⟩
      have hmem : i / 4 ∈ l := by
        by_contra hn
        exact hover (hclamp _ hn)
      have hbit : satBit (i / 4) = 4 * (i / 4) + 1 := if_pos (hl _ hmem)
      exact ⟨i / 4, ⟨hmem, hover⟩, by omega⟩
  · refine (retired_accStep t len tot s hl).mono fun o ho => .inl ?_
    rw [List.mem_cons, List.mem_map] at ho
    obtain rfl | ⟨n, hn, rfl⟩ := ho
    · exact List.mem_cons_self
    · have := hl n hn
      interval_cases n <;> simp

end

end Sys2Proof.Machine
end

section
/-! SUPPORT. The MAC instructions and the accumulator operations (R38–R42, R53, R55): each is the step of some accumulators to exact
totals, so its statement comes down to what those totals are. -/

namespace Sys2Proof.Machine

/-! ## Totals of products -/

/-- A product as it enters the total of accumulator `n` (R41). -/
def termShare (n : Nat) (x : Term) : Int := if x.an = n then (if x.op = .msu then -x.p else x.p) else 0

/-- The total of an accumulator is its base and the share of every term. -/
theorem macTotal_eq (s : State) (t n : Nat) (ts : List Term) : macTotal s t n ts =
    (if ts.any (fun x => decide (x.an = n) && decide (x.op = .mpy)) then 0 else (getAcc s t n).toInt) +
      (ts.map (termShare n)).sum := by
  have hfold : ∀ (b : Int), (ts.filter fun x => decide (x.an = n)).foldl
      (fun acc x => if x.op = .msu then acc - x.p else acc + x.p) b = b + (ts.map (termShare n)).sum := by
    induction ts with
    | nil => simp
    | cons x ts ih =>
      intro b
      by_cases hn : x.an = n
      · rw [List.filter_cons_of_pos (by simpa using hn), List.foldl_cons, ih, List.map_cons, List.sum_cons, termShare, if_pos hn]
        split <;> ring
      · rw [List.filter_cons_of_neg (by simpa using hn), ih, List.map_cons, List.sum_cons, termShare, if_neg hn, zero_add]
  unfold macTotal
  dsimp only
  rw [hfold, List.any_filter]

theorem mem_macTargets {ts : List Term} {n : Nat} : n ∈ macTargets ts ↔ n < 4 ∧ ∃ x ∈ ts, x.an = n := by
  simp [macTargets]

theorem macTotal_of_notMem (s : State) (t : Nat) {ts : List Term} {n : Nat} (h : ∀ x ∈ ts, x.an ≠ n) :
    macTotal s t n ts = (getAcc s t n).toInt := by
  have hfilter : ts.filter (fun x => decide (x.an = n)) = [] := by simpa [List.filter_eq_nil_iff] using h
  simp [macTotal, hfilter]

theorem macRetire_eq (t : TineNo) (ts : List Term) (len : Nat) (s : State) :
    macRetire t ts len s = accStep t len (fun n => macTotal s t n ts) (macTargets ts) s := rfl

/-- A MAC instruction writes the totals of its terms (R41). -/
theorem macRetire_wroteAcc (t : TineNo) (ts : List Term) (hts : ∀ x ∈ ts, x.an < 4) (len : Nat) (s : State) :
    WroteAcc t (fun n => macTotal s t n ts) len s (macRetire t ts len s) := by
  rw [macRetire_eq]
  refine accStep_wroteAcc t len _ s (fun n hn => (mem_macTargets.1 hn).1) fun n hn => macTotal_of_notMem s t fun x hx he => ?_
  exact hn (mem_macTargets.2 ⟨he ▸ hts x hx, x, hx, he⟩)

/-! ## The terms of the forms -/

theorem laneTerm_an {s : State} {t fp : Nat} {l : Lane} : ∀ x ∈ laneTerm s t fp l, x.an < 4 := by
  intro x hx
  unfold laneTerm at hx
  split at hx
  · cases hx
  · rw [List.mem_singleton.1 hx]
    exact l.an.isLt

theorem pairTerms_an {s : State} {t fp : Nat} {p : Pair} {gx gy : Gr} : ∀ x ∈ pairTerms s t fp p gx gy, x.an < 4 := by
  intro x hx
  unfold pairTerms at hx
  split at hx
  · cases hx
  · simp only [List.mem_cons, List.not_mem_nil, or_false] at hx
    obtain rfl | rfl := hx <;> exact p.an.isLt

theorem laneTerm_mpy (s : State) (t fp n : Nat) (l : Lane) :
    (laneTerm s t fp l).any (fun x => decide (x.an = n) && decide (x.op = .mpy)) = (decide (l.op = .mpy) && decide (l.an.val = n)) := by
  unfold laneTerm
  split
  · next h => simp [h]
  · simp [Bool.and_comm]

theorem pairTerms_mpy (s : State) (t fp n : Nat) (p : Pair) (gx gy : Gr) :
    (pairTerms s t fp p gx gy).any (fun x => decide (x.an = n) && decide (x.op = .mpy)) =
      (decide (p.op = .mpy) && decide (p.an.val = n)) := by
  unfold pairTerms
  split
  · next h => simp [h]
  · simp [Bool.and_comm]

theorem sum_laneTerm (s : State) (t : TineNo) (fp n : Nat) (l : Lane) :
    ((laneTerm s t fp l).map (termShare n)).sum = laneShare s t (psDual fp) n l := by
  unfold laneTerm laneShare
  by_cases hop : l.op = .absent
  · simp [hop]
  · by_cases han : l.an.val = n
    · by_cases hmsu : l.op = .msu <;> simp [termShare, hop, han, hmsu]
    · simp [termShare, hop, han]

/-- The number that a field of bits spells in two's complement (R33). -/
theorem sx_toNat {w : Nat} (x : BitVec (w + 1)) : sx (w + 1) x.toNat = x.toInt := by
  have hlt := x.isLt
  rw [BitVec.toInt_eq_toNat_cond, sx, Nat.mod_eq_of_lt hlt, Nat.add_sub_cancel]
  rw [pow_succ] at *
  generalize 2 ^ w = p at *
  split <;> split <;> omega

theorem sum_pairTerms (s : State) (t : TineNo) (fp n : Nat) (p : Pair) (gx gy : Gr) :
    ((pairTerms s t fp p gx gy).map (termShare n)).sum = pairShare s t (psQuad fp) n p gx gy := by
  have hlo : ∀ g, ((getG s t g).extractLsb' 0 20).toInt = halfLo (getG s t g) := fun g => (sx_toNat _).symm
  have hhi : ∀ g, ((getG s t g).extractLsb' 20 20).toInt = halfHi (getG s t g) := fun g => (sx_toNat _).symm
  unfold pairTerms pairShare
  simp only [hlo, hhi]
  generalize halfLo (getG s t gx) * halfLo (getG s t gy) = a, halfHi (getG s t gx) * halfHi (getG s t gy) = b
  by_cases hop : p.op = .absent
  · simp [hop]
  · by_cases han : p.an.val = n
    · by_cases hmsu : p.op = .msu <;> simp [termShare, hop, han, hmsu] <;> ring
    · simp [termShare, hop, han]

theorem psDual_toNat (fp : BitVec 2) : psDual fp.toNat = if fp = 1 then 2 else 0 := by
  revert fp
  decide

theorem psQuad_toNat (fp : BitVec 2) : psQuad fp.toNat = if fp = 3 then 0 else if fp = 1 then 42 else 40 := by
  revert fp
  decide

/-- The total of the terms of two groups. -/
theorem macTotal_append (s : State) (t : TineNo) (n : Nat) {a b : List Term} {pa pb : Bool} {xa xb : Int}
    (ha : a.any (fun x => decide (x.an = n) && decide (x.op = .mpy)) = pa)
    (hb : b.any (fun x => decide (x.an = n) && decide (x.op = .mpy)) = pb)
    (hxa : (a.map (termShare n)).sum = xa) (hxb : (b.map (termShare n)).sum = xb) :
    macTotal s t n (a ++ b) = macBase s t n (pa || pb) + xa + xb := by
  rw [macTotal_eq, List.any_append, ha, hb, List.map_append, List.sum_append, hxa, hxb, macBase, ← add_assoc]

theorem present_of_or {a b : MacOp} {c : Bool} (h : a ≠ .absent ∨ b ≠ .absent) :
    (decide (a ≠ .absent) || decide (b ≠ .absent) || c) = true := by
  obtain h | h := h <;> simp [h]

/-- Settles O7: each form is `macRetire` on its terms, whose totals are the base and the shares of its lanes or pairs. -/
theorem macAccumulates : Obligations.MacAccumulates := by
  intro s t fp hready
  refine ⟨fun l0 l1 h0 h1 hop => ?dual, fun p0 p1 gx gy gz gw h0 h1 hop => ?quad, fun op an gx gy fp1 hop => ?compact⟩
  case dual =>
    have hwrote := macRetire_wroteAcc t (laneTerm s t fp.toNat l0 ++ laneTerm s t fp.toNat l1)
      (List.forall_mem_append.2 ⟨laneTerm_an, laneTerm_an⟩) 2 s
    simp only [macTotal_append s t _ (laneTerm_mpy ..) (laneTerm_mpy ..) (sum_laneTerm ..) (sum_laneTerm ..), psDual_toNat] at hwrote
    refine runs_of_ready hready rfl ?_
    have hlegal : (laneOk l0 && laneOk l1 &&
        (decide (l0.op ≠ .absent) || decide (l1.op ≠ .absent) || decide (fp.toNat = 0))) = true := by
      rw [h0, h1, present_of_or hop]
      rfl
    rw [if_pos hlegal]
    exact hwrote
  case quad =>
    have hwrote := macRetire_wroteAcc t (pairTerms s t fp.toNat p0 gx gy ++ pairTerms s t fp.toNat p1 gz gw)
      (List.forall_mem_append.2 ⟨pairTerms_an, pairTerms_an⟩) 2 s
    simp only [macTotal_append s t _ (pairTerms_mpy ..) (pairTerms_mpy ..) (sum_pairTerms ..) (sum_pairTerms ..), psQuad_toNat] at hwrote
    refine runs_of_ready hready rfl ?_
    have hlegal : (pairOk p0 gx gy && pairOk p1 gz gw &&
        (decide (p0.op ≠ .absent) || decide (p1.op ≠ .absent) || decide (fp.toNat = 0))) = true := by
      rw [h0, h1, present_of_or hop]
      rfl
    rw [if_pos hlegal]
    exact hwrote
  case compact =>
    have hps : psDual (b2n fp1) = if fp1 then 2 else 0 := by cases fp1 <;> rfl
    have hwrote := macRetire_wroteAcc t (laneTerm s t (b2n fp1) { op := op, an := an, gx := gx, gy := gy }) laneTerm_an 1 s
    simp only [macTotal_eq, laneTerm_mpy, sum_laneTerm, hps] at hwrote
    refine runs_of_ready hready rfl ?_
    rw [if_neg hop]
    exact hwrote

/-! ## Operations on one accumulator -/

/-- An accumulator operation writes its exact result (R42). -/
theorem accRetire_wroteAcc (t : TineNo) (an : Ar) (v : Int) (len : Nat) (s : State) :
    WroteAcc t (fun n => if n = an.val then v else (getAcc s t n).toInt) len s (accRetire t an v len s) := by
  have hstep : accRetire t an v len s =
      accStep t len (fun n => if n = an.val then v else (getAcc s t n).toInt) [an.val] s := by
    unfold accRetire accStep
    by_cases hover : out96 v = true <;> simp [List.filter, hover, forAll]
  rw [hstep]
  refine accStep_wroteAcc t len _ s (fun n hn => ?_) fun n hn => if_neg (by simpa using hn)
  rw [List.mem_singleton.1 hn]
  exact an.isLt

/-- A run of bits that equal `top` ends at the first that differs (R53). -/
theorem runLen_spec (n : Nat) (top : Bool) (k : Nat) : runLen n top k ≤ k ∧
    (∀ j, 1 ≤ j → j ≤ runLen n top k → n.testBit (k - j) = top) ∧
    (runLen n top k < k → n.testBit (k - 1 - runLen n top k) ≠ top) := by
  induction k with
  | zero => exact ⟨Nat.le_refl 0, fun j hj hle => absurd hle (by simp [runLen]; omega), fun h => absurd h (by simp)⟩
  | succ k ih =>
    obtain ⟨hle, hrun, hend⟩ := ih
    by_cases htop : n.testBit k = top
    · have hlen : runLen n top (k + 1) = 1 + runLen n top k := if_pos htop
      rw [hlen]
      refine ⟨by omega, fun j hj hjle => ?_, fun hlt => ?_⟩
      · by_cases h1 : j = 1
        · rw [h1, Nat.add_sub_cancel, htop]
        · rw [show k + 1 - j = k - (j - 1) by omega]
          exact hrun (j - 1) (by omega) (by omega)
      · rw [show k + 1 - 1 - (1 + runLen n top k) = k - 1 - runLen n top k by omega]
        exact hend (by omega)
    · have hlen : runLen n top (k + 1) = 0 := if_neg htop
      rw [hlen]
      exact ⟨by omega, fun j hj hjle => absurd hjle (by omega), fun _ => htop⟩

theorem ashExact_left (v : Int) {k : Int} (hk : 0 ≤ k) : ashExact v k = v * 2 ^ k.toNat := by
  rw [ashExact, if_pos hk]
  push_cast
  rfl

theorem ashExact_right (v : Int) {k : Int} (hk : k < 0) : ashExact v k = v / 2 ^ (-k).toNat := by
  rw [ashExact, if_neg (by omega)]
  push_cast
  rfl

/-- Settles O8: each operation is `accRetire` on its exact result; NORMA counts a run of equal bits. -/
theorem accumulatorOperations : Obligations.AccumulatorOperations := by
  intro s t hready acc only
  have hone : ∀ {an : Ar} {v w : Int} {len : Nat}, v = w →
      WroteAcc t (only an w) len s (accRetire t an v len s) := fun {an v w len} h => h ▸ accRetire_wroteAcc t an v len s
  refine ⟨fun f => ⟨?clra, ?nega, ?absa⟩, fun an am => ⟨?adda, ?suba⟩, fun an g k =>
    ⟨fun hk => ?lda, fun hk hhi => ?left, fun hk hlo => ?right, norm96 (getAcc s t an), ?norma⟩⟩
  case clra => exact runs_of_ready hready rfl (hone rfl)
  case nega => exact runs_of_ready hready rfl (hone rfl)
  case absa =>
    have habs : ∀ v : Int, (v.natAbs : Int) = if v < 0 then -v else v := fun v => by split <;> omega
    exact runs_of_ready hready rfl (hone (habs _))
  case adda => exact runs_of_ready hready rfl (hone rfl)
  case suba => exact runs_of_ready hready rfl (hone rfl)
  case lda =>
    refine runs_of_ready hready rfl ?_
    rw [if_pos hk]
    exact hone (by push_cast; rfl)
  case left =>
    refine runs_of_ready hready rfl ?_
    rw [if_pos ⟨by omega, hhi⟩]
    exact hone (ashExact_left _ hk)
  case right =>
    refine runs_of_ready hready rfl ?_
    rw [if_pos ⟨hlo, by omega⟩]
    exact hone (ashExact_right _ hk)
  case norma =>
    obtain ⟨hle, hrun, hend⟩ := runLen_spec (getAcc s t an).toNat ((getAcc s t an).getLsbD 95) 95
    have hwrote := aluRetire_wroteG t g { val := wd (norm96 (getAcc s t an)), flags := .none } 2 s
    refine ⟨hle, runs_of_ready hready rfl hwrote, fun j hj => ?_, hend⟩
    obtain rfl | hpos := Nat.eq_zero_or_pos j
    · rfl
    · exact hrun j hpos hj

end Sys2Proof.Machine
end

section
/-! SUPPORT. The write-backs (R46, R47, R58, R59, R62, R67): the roundings, the draws of the dither generators, the error history of
the shaper, and what every write-back writes, with the statement about them. -/

namespace Sys2Proof.Machine

/-! ## Rounding -/

theorem roundTo_zero (code : Nat) (v : Int) (a b : Nat) : roundTo code v 0 a b = v := if_pos rfl

/-- At a point above 0 the roundings are those of R58 and R62. -/
theorem roundTo_of_pos (code : Nat) (v : Int) {p : Nat} (hp : p ≠ 0) (a b : Nat) : roundTo code v p a b = roundedAt code v p a b := by
  unfold roundTo roundedAt
  rw [if_neg hp]
  push_cast
  rfl

theorem roundTo_floor (v : Int) (p a b : Nat) : roundTo 0 v p a b = v / 2 ^ p := by
  by_cases hp : p = 0
  · rw [hp, roundTo_zero, pow_zero, Int.ediv_one]
  · exact roundTo_of_pos 0 v hp a b

theorem two_pow_split {p : Nat} (hp : p ≠ 0) : (2 : Int) ^ p = 2 * 2 ^ (p - 1) ∧ (0 : Int) < 2 ^ (p - 1) := by
  obtain ⟨k, rfl⟩ : ∃ k, p = k + 1 := ⟨p - 1, by omega⟩
  exact ⟨by rw [Nat.add_sub_cancel, pow_succ, mul_comm], by positivity⟩

/-- Half up is the floor of the value and a half. -/
theorem roundTo_up (v : Int) (p a b : Nat) :
    roundTo 1 v p a b = if p = 0 then v else (2 * v + 2 ^ p) / (2 * 2 ^ p) := by
  by_cases hp : p = 0
  · rw [hp, roundTo_zero, if_pos rfl]
  · obtain ⟨hsplit, hpos⟩ := two_pow_split hp
    rw [roundTo_of_pos 1 v hp, if_neg hp, roundedAt, hsplit]
    generalize (2 : Int) ^ (p - 1) = h at *
    have hdiv := Int.mul_ediv_add_emod v (2 * h)
    have hlo := Int.emod_nonneg v (show 2 * h ≠ 0 by omega)
    have hhi := Int.emod_lt_of_pos v (show 0 < 2 * h by omega)
    rw [show 2 * v + 2 * h = 2 * (v + h) by ring, Int.mul_ediv_mul_of_pos _ _ (by decide)]
    generalize v / (2 * h) = q at *
    generalize v % (2 * h) = r at *
    symm
    split
    · next hup =>
      rw [Int.ediv_eq_iff_of_pos (by omega)]
      constructor <;> linarith
    · next hdown =>
      rw [Int.ediv_eq_iff_of_pos (by omega)]
      constructor <;> linarith

theorem roundTo_even (v : Int) (p a b : Nat) : roundTo 2 v p a b =
    if 2 * (v % 2 ^ p) > 2 ^ p ∨ (2 * (v % 2 ^ p) = 2 ^ p ∧ v / 2 ^ p % 2 = 1) then v / 2 ^ p + 1 else v / 2 ^ p := by
  by_cases hp : p = 0
  · simp [hp, roundTo_zero]
  · obtain ⟨hsplit, hpos⟩ := two_pow_split hp
    rw [roundTo_of_pos 2 v hp]
    unfold roundedAt
    dsimp only
    refine if_congr (or_congr ?_ (and_congr_left' ?_)) rfl rfl <;> omega

theorem roundTo_odd (v : Int) (p a b : Nat) : roundTo 3 v p a b =
    if v % 2 ^ p = 0 ∨ v / 2 ^ p % 2 = 1 then v / 2 ^ p else v / 2 ^ p + 1 := by
  by_cases hp : p = 0
  · simp [hp, roundTo_zero]
  · exact roundTo_of_pos 3 v hp a b

/-! ## The dither generators -/

theorem setF_getF (w : Word) (lo len : Nat) : setF w lo len (getF w lo len) = w := by
  apply word_ext
  intro i hi
  rw [bit_setF]
  split
  · next hin =>
    rw [testBit_getF, show lo + (i - lo) = i by omega]
    simp [hi, show i - lo < len by omega]
  · rfl

/-- The registers of the generators that a mode uses. -/
def ditherOffs (code : Nat) : List Nat := (if usesA code then [oDTHA] else []) ++ (if usesB code then [oDTHB] else [])

/-- A generator that steps changes its register, and one that does not leaves it. -/
theorem quiet_stepped (t : Nat) {off : Nat} (hoff : off < 0x2D0) (htst : off ≠ oTST) (used : Bool) (f : Nat → Nat) (s : State) :
    Quiet t (if used then [off] else []) s
      (setRegF (pgTine t) off 0 32 (if used then f (regF s (pgTine t) off 0 32) else regF s (pgTine t) off 0 32) s) := by
  have hset := Quiet.of_setReg t
    (setF (reg s (pgTine t) off) 0 32 (if used then f (regF s (pgTine t) off 0 32) else regF s (pgTine t) off 0 32)) s hoff
    fun h => absurd h htst
  cases used with
  | true => exact hset
  | false =>
    refine { hset with page := fun o ho _ => ?_, low := by simp }
    by_cases h : o = off
    · rw [h]
      exact (reg_setReg_same ..).trans (setF_getF ..)
    · exact reg_setReg_off s _ h

/-- What the generators hold after the draws of a mode, which the draws also are (R62). -/
def drawnA (code t : Nat) (s : State) : Nat :=
  if usesA code then drawA (regF s (pgTine t) oDTHA 0 32) else regF s (pgTine t) oDTHA 0 32
def drawnB (code t : Nat) (s : State) : Nat :=
  if usesB code then drawB (regF s (pgTine t) oDTHB 0 32) else regF s (pgTine t) oDTHB 0 32

/-- The state after the draws. -/
def drawn (code t : Nat) (s : State) : State :=
  setRegF (pgTine t) oDTHB 0 32 (drawnB code t s) (setRegF (pgTine t) oDTHA 0 32 (drawnA code t s) s)

theorem dithered_eq (code t : Nat) (s : State) : dithered code t s = (drawnA code t s, drawnB code t s, drawn code t s) := rfl

theorem quiet_drawn (code t : Nat) (s : State) : Quiet t (ditherOffs code) s (drawn code t s) := by
  have hA := quiet_stepped t (off := oDTHA) (by decide) (by decide) (usesA code) drawA s
  have hB := quiet_stepped t (off := oDTHB) (by decide) (by decide) (usesB code) drawB
    (setRegF (pgTine t) oDTHA 0 32 (drawnA code t s) s)
  have hsame : regF (setRegF (pgTine t) oDTHA 0 32 (drawnA code t s) s) (pgTine t) oDTHB 0 32 = regF s (pgTine t) oDTHB 0 32 := by
    rw [regF, reg_setRegF_off s (show oDTHB ≠ oDTHA by decide), regF]
  rw [hsame] at hB
  exact hA.trans hB

theorem regF_drawn (code t : Nat) (s : State) : regF (drawn code t s) (pgTine t) oDTHA 0 32 = drawnA code t s % 2 ^ 32 ∧
    regF (drawn code t s) (pgTine t) oDTHB 0 32 = drawnB code t s % 2 ^ 32 := by
  refine ⟨?_, regF_setRegF_same _ (by decide) _⟩
  rw [drawn, regF, reg_setRegF_off _ (show oDTHA ≠ oDTHB by decide)]
  exact regF_setRegF_same _ (by decide) _

theorem ditherOffs_sub (code : Nat) : ∀ o ∈ ditherOffs code, o = oDTHA ∨ o = oDTHB := by
  intro o ho
  unfold ditherOffs at ho
  rw [List.mem_append] at ho
  obtain ho | ho := ho
  · split at ho
    · exact .inl (List.mem_singleton.1 ho)
    · cases ho
  · split at ho
    · exact .inr (List.mem_singleton.1 ho)
    · cases ho

/-! ## What a write-back writes -/

/-- The registers of the requantizers and of the generators, which a write-back may step. -/
def StepOffs (offs : List Nat) : Prop := ∀ o ∈ offs, 0x80 ≤ o ∧ o < 0xA4

/-- The registers that a write-back writes itself are none of those. -/
theorem notMem_writeOffs {o : Nat} (ho : 0x80 ≤ o ∧ o < 0xA4) (t : TineNo) (gd : Gr) (an : Ar) (s : State) :
    o ∉ [oTST, oSATA an.val, gOff s t gd] ++ [] := by
  have hg := lt_gOff s t gd (show o < 0x2D0 by omega)
  have := an.isLt
  simp only [List.append_nil, List.mem_cons, List.not_mem_nil, or_false, oTST, oSATA]
  omega

theorem notMem_sideOffs {o : Nat} (ho : 0x80 ≤ o ∧ o < 0xA4) : o ∉ sideOffs := by
  simp only [sideOffs, List.mem_cons, List.not_mem_nil, or_false, oLSTAT, oLC, oRETIRED, oCLOCHE, oSCNT]
  omega

/-- A write-back of `y`, to `w` bits, ends with WSAT where it was clamped (R46, R47, R49), after it has written G registers. -/
theorem retireSat_wsat (an : Ar) (w : Nat) (y : Int) {t : TineNo} {x : List Nat} {s a : State} (h : Touches t x s a)
    (hx : ∀ o ∈ x, 0x2D0 ≤ o) :
    let s' := retireSat t 2 (if decide (satI w y ≠ y) then [4 + an.val] else []) a
    (∀ i, getG s' t i = getG a t i) ∧ (∀ n, getAcc s' t n = getAcc a t n) ∧
      reg s' (pgTine t) oTST =
        (if clamp w y ≠ y then setB (reg s (pgTine t) oTST) (4 * an.val + 2) true else reg s (pgTine t) oTST) ∧
      Retired t ([oTST, oSATA an.val] ++ x) s s' ∧ Moves t 2 s s' := by
  have han := an.isLt
  dsimp only
  rw [satI_eq_clamp]
  generalize hks : (if decide (clamp w y ≠ y) then [4 + an.val] else []) = ks
  have hq := quiet_flagged t ks a
  have htouch := h.trans hq.toTouches
  have hsat : ∀ k ∈ ks, satBit k = 4 * an.val + 2 ∧ satOff k = oSATA an.val := by
    intro k hk
    rw [← hks] at hk
    split at hk
    · rw [List.mem_singleton.1 hk, satBit, satOff, if_neg (by omega), if_pos (by omega), if_neg (by omega), if_pos (by omega),
        Nat.add_sub_cancel_left]
      exact ⟨rfl, rfl⟩
    · cases hk
  have hne : ∀ o, o < 0xA4 ∨ 0xA8 < o → o < 0x2D0 → o ≠ oTST → o ∉ x ++ oTST :: ks.map satOff := by
    intro o ho hlow htst hmem
    rw [List.mem_append, List.mem_cons] at hmem
    obtain hm | hm | hm := hmem
    · exact absurd (hx o hm) (by omega)
    · exact htst hm
    · exact ne_satOff ho ks hm
  rw [retireSat_eq]
  refine ⟨fun i => ?_, fun n => ?_, ?_, ?_, htouch.moves (hne _ (by decide) (by decide) (by decide)) 2⟩
  · rw [getG_retire, hq.getG]
  · rw [getAcc_retire, hq.getAcc]
  · rw [tst_retire, tst_flagged, h.page oTST (by decide) fun hm => absurd (hx _ hm) (by decide), ← hks]
    by_cases hover : clamp w y ≠ y
    · have hbit : satBit (4 + an.val) = 4 * an.val + 2 := (hsat _ (by rw [← hks]; simp [hover])).1
      rw [if_pos (by simpa using hover), if_pos hover, ← hbit]
      rfl
    · rw [if_neg (by simpa using hover), if_neg hover]
      rfl
  · refine (htouch.retired (hne _ (by decide) (by decide) (by decide)) 2).mono fun o ho => .inl ?_
    rw [List.mem_append, List.mem_cons, List.mem_map] at ho
    obtain ho | rfl | ⟨k, hk, rfl⟩ := ho
    · exact List.mem_append_right _ ho
    · exact List.mem_cons_self
    · rw [(hsat k hk).2]
      simp

theorem gOff_ge (s : State) (t : Nat) (i : Gr) : 0x2D0 ≤ gOff s t i := lt_gOff s t i (show 0x2CF < 0x2D0 by decide)

/-- The clamped value is written and the instruction retires. -/
theorem retireSat_wroteBack (t : TineNo) (gd : Gr) (an : Ar) (w : Nat) (y : Int) (s : State) :
    WroteBack t gd an w y [] s
      (retireSat t 2 (if decide (satI w y ≠ y) then [4 + an.val] else []) (setG t gd (wi (satI w y)) s)) := by
  obtain ⟨hg, hacc, htst, hret, hmoves⟩ := retireSat_wsat an w y (touches_setG t gd (wi (satI w y)) s)
    (fun o ho => List.mem_singleton.1 ho ▸ gOff_ge s t gd)
  refine ⟨?_, fun i hi => ?_, fun n _ => ?_, htst, hret, hmoves⟩
  · rw [hg, getG_setG_same, satI_eq_clamp]
  · rw [hg, getG_setG_ne s t _ (by simpa using hi)]
  · rw [hacc, getAcc_setG]

/-- A write-back after generators and shaper have stepped. -/
theorem wroteBack_after {t : TineNo} {gd : Gr} {an : Ar} {w : Nat} {y : Int} {offs : List Nat} {s a s' : State}
    (h : Quiet t offs s a) (hoffs : StepOffs offs) (k : WroteBack t gd an w y [] a s') : WroteBack t gd an w y offs s s' := by
  have hctl : ∀ o, ¬(0x80 ≤ o ∧ o < 0xA4) → o ∉ offs := fun o ho hm => ho (hoffs o hm)
  have htst := h.page oTST (by decide) (hctl _ (by decide))
  refine ⟨k.result, fun i hi => (k.others i hi).trans (h.getG i), fun n hn => (k.accs n hn).trans (h.getAcc n), ?_, ?_,
    k.pc.after h.toTouches (hctl _ (by decide))⟩
  · rw [k.flags, htst]
  · have hret := k.retired
    rw [h.gOff] at hret
    refine (hret.after h.toTouches (hctl _ (by decide))).mono fun o ho => .inl ?_
    simp only [List.mem_append, List.not_mem_nil, or_false] at ho ⊢
    exact ho.symm

/-- It leaves what they stepped to. -/
theorem wroteBack_stepped {t : TineNo} {gd : Gr} {an : Ar} {w : Nat} {y : Int} {a s' : State} (k : WroteBack t gd an w y [] a s')
    {o : Nat} (ho : 0x80 ≤ o ∧ o < 0xA4) : reg s' (pgTine t) o = reg a (pgTine t) o :=
  k.retired.page o (by omega) (notMem_writeOffs ho t gd an a) (notMem_sideOffs ho)

/-! ## WBA and WBA_H -/

/-- A write-back with a legal code at the head of the window. -/
def wroteBack (t : TineNo) (gd : Gr) (an : Ar) (xs code w : Nat) (s : State) : State :=
  let r := writeBack t an xs code w s
  retireSat t 2 (if r.2.1 then [4 + an.val] else []) (setG t gd (wi r.1) r.2.2)

/-- What holds of it to 40 and to 20 bits holds of the two instructions. -/
theorem runs_wroteBack {s : State} {t : TineNo} {gd : Gr} {an : Ar} {xs : BitVec 6} {code : BitVec 3} {P : Nat → State → Prop}
    (hready : Ready s t) (hcode : code.toNat ≠ 7) (hP : ∀ w, P w (wroteBack t gd an xs.toNat code.toNat w s)) :
    Runs (.wba t gd an xs code) s (P 40) ∧ Runs (.wbaH t gd an xs code) s (P 20) := by
  constructor
  · refine runs_of_ready hready rfl ?_
    rw [if_neg hcode]
    exact hP 40
  · refine runs_of_ready hready rfl ?_
    rw [if_neg hcode]
    exact hP 20

/-- It writes the rounded value on the state that `writeBack` answers. -/
theorem wroteBack_of_eq {t : TineNo} (gd : Gr) {an : Ar} {xs code w : Nat} {y : Int} {s x : State}
    (hwb : writeBack t an xs code w s = (satI w y, decide (satI w y ≠ y), x)) :
    WroteBack t gd an w y [] x (wroteBack t gd an xs code w s) := by
  unfold wroteBack
  rw [hwb]
  exact retireSat_wroteBack t gd an w y x

/-- A write-back with a rounding code (R58, R62). -/
theorem wroteBack_rounded (t : TineNo) (gd : Gr) (an : Ar) (xs : Nat) {code : Nat} (hcode : code ≠ 6) (w : Nat) (s : State) :
    WroteBack t gd an w (roundTo code (getAcc s t an).toInt xs (drawnA code t s) (drawnB code t s)) (ditherOffs code) s
        (wroteBack t gd an xs code w s) ∧
      regF (wroteBack t gd an xs code w s) (pgTine t) oDTHA 0 32 = drawnA code t s % 2 ^ 32 ∧
      regF (wroteBack t gd an xs code w s) (pgTine t) oDTHB 0 32 = drawnB code t s % 2 ^ 32 := by
  have hback : WroteBack t gd an w (roundTo code (getAcc s t an).toInt xs (drawnA code t s) (drawnB code t s)) [] (drawn code t s)
      (wroteBack t gd an xs code w s) := by
    refine wroteBack_of_eq gd ?_
    unfold writeBack
    rw [if_neg hcode]
    rfl
  have hoffs : StepOffs (ditherOffs code) := fun o ho => by
    obtain rfl | rfl := ditherOffs_sub code o ho <;> decide
  obtain ⟨hA, hB⟩ := regF_drawn code t s
  refine ⟨wroteBack_after (quiet_drawn code t s) hoffs hback, ?_, ?_⟩
  · rw [regF, wroteBack_stepped hback (by decide)]
    exact hA
  · rw [regF, wroteBack_stepped hback (by decide)]
    exact hB

/-! ## The shaper -/

/-- The sum of the error feedback over the order's terms (R67). -/
theorem shapeSum_eq (w : Nat → Word) {n : Nat} (hn : n < 4) :
    shapeSum n (w 1) (w 2) (w 3) (w 4) (w 5) (w 6) = ((List.range n).map fun k => sw (w (1 + k)) * sw (w (4 + k))).sum := by
  interval_cases n <;> simp [shapeSum, List.range_succ, add_assoc]

/-- What the shaper makes of the input `u` that rounds to `y` (R67). -/
theorem shape_eq {v u y : Int} {xs n base da db : Nat} {c1 c2 c3 e1 e2 e3 : Word} (w : Nat)
    (hu : v * (2 ^ (72 - xs) : Nat) + shapeSum n c1 c2 c3 e1 e2 e3 = u) (hy : roundTo base u 72 da db = y) :
    shape v xs w n base c1 c2 c3 e1 e2 e3 da db =
      { y := satI w y, sat := decide (satI w y ≠ y), e1 := if satI w y ≠ y then 0 else wi ((y * 2 ^ 72 - u) / 2 ^ 36),
        e2 := if satI w y ≠ y then 0 else e1, e3 := if satI w y ≠ y then 0 else e2 } := by
  unfold shape satTo
  simp only [hu, hy]
  by_cases hsat : satI w y = y <;> simp [hsat]

/-- The base mode of an accumulator's shaper (R67, R79). -/
def shapeBase (s : State) (t : TineNo) (an : Ar) : Nat := regF s (pgTine t) (oRQ an.val) 2 3

/-- The rounded value of a shaped write-back, before it is clamped. -/
def shapedValue (s : State) (t : TineNo) (an : Ar) (xs : Nat) : Int :=
  roundedAt (shapeBase s t an) (shapedInput s t an (getAcc s t an).toInt xs) 72 (drawnA (shapeBase s t an) t s)
    (drawnB (shapeBase s t an) t s)

/-- The generators and the error history after a shaped write-back to `w` bits (R67). -/
def shapedState (t : TineNo) (an : Ar) (xs w : Nat) (s : State) : State :=
  let y := shapedValue s t an xs
  let u := shapedInput s t an (getAcc s t an).toInt xs
  let rq := oRQ an.val
  setReg (pgTine t) (rq + 6) (if satI w y ≠ y then 0 else reg s (pgTine t) (rq + 5))
    (setReg (pgTine t) (rq + 5) (if satI w y ≠ y then 0 else reg s (pgTine t) (rq + 4))
      (setReg (pgTine t) (rq + 4) (if satI w y ≠ y then 0 else wi ((y * 2 ^ 72 - u) / 2 ^ 36)) (drawn (shapeBase s t an) t s)))

/-- What `writeBack` answers with the shaper. -/
theorem writeBack_shaped (t : TineNo) (an : Ar) (xs w : Nat) (s : State) :
    writeBack t an xs 6 w s = (satI w (shapedValue s t an xs), decide (satI w (shapedValue s t an xs) ≠ shapedValue s t an xs),
      shapedState t an xs w s) := by
  have hsum := shapeSum_eq (fun k => reg s (pgTine t) (oRQ an.val + k)) (getF_lt (reg s (pgTine t) (oRQ an.val)) 0 2)
  have hu : (getAcc s t an).toInt * (2 ^ (72 - xs) : Nat) + shapeSum (getF (reg s (pgTine t) (oRQ an.val)) 0 2)
      (reg s (pgTine t) (oRQ an.val + 1)) (reg s (pgTine t) (oRQ an.val + 2)) (reg s (pgTine t) (oRQ an.val + 3))
      (reg s (pgTine t) (oRQ an.val + 4)) (reg s (pgTine t) (oRQ an.val + 5)) (reg s (pgTine t) (oRQ an.val + 6)) =
      shapedInput s t an (getAcc s t an).toInt xs := by
    rw [hsum, shapedInput]
    push_cast
    rfl
  have hy := roundTo_of_pos (shapeBase s t an) (shapedInput s t an (getAcc s t an).toInt xs) (show 72 ≠ 0 by decide)
    (drawnA (shapeBase s t an) t s) (drawnB (shapeBase s t an) t s)
  unfold writeBack
  rw [if_pos rfl]
  have hbase : getF (reg s (pgTine t) (oRQ an.val)) 2 3 = shapeBase s t an := rfl
  simp only [dithered_eq, hbase]
  rw [shape_eq w hu hy]
  rfl

theorem rq_bounds (an : Ar) {k : Nat} (hk : k ≤ 6) : 0x80 ≤ oRQ an.val + k ∧ oRQ an.val + k < 0xA0 := by
  have := an.isLt
  unfold oRQ
  omega

theorem quiet_shapedState (t : TineNo) (an : Ar) (xs w : Nat) (s : State) :
    Quiet t (ditherOffs (shapeBase s t an) ++ [oRQ an.val + 4] ++ [oRQ an.val + 5] ++ [oRQ an.val + 6]) s (shapedState t an xs w s) := by
  have hset : ∀ (k : Nat) (v : Word) (x : State), k ≤ 6 →
      Quiet t [oRQ an.val + k] x (setReg (pgTine t) (oRQ an.val + k) v x) := fun k v x hk => by
    have hb := rq_bounds an hk
    exact .of_setReg t v x (by omega) fun h => absurd h (by unfold oTST; omega)
  exact (((quiet_drawn _ t s).trans (hset 4 _ _ (by decide))).trans (hset 5 _ _ (by decide))).trans (hset 6 _ _ (by decide))

theorem regF_shapedState (t : TineNo) (an : Ar) (xs w : Nat) (s : State) {off : Nat} (hoff : 0xA0 ≤ off) :
    regF (shapedState t an xs w s) (pgTine t) off 0 32 = regF (drawn (shapeBase s t an) t s) (pgTine t) off 0 32 := by
  have hne : ∀ k, k ≤ 6 → off ≠ oRQ an.val + k := fun k hk => by have := rq_bounds an hk; omega
  rw [regF, shapedState, reg_setReg_off _ _ (hne 6 (by decide)), reg_setReg_off _ _ (hne 5 (by decide)),
    reg_setReg_off _ _ (hne 4 (by decide)), regF]

/-- The error history that a shaped write-back leaves (R67). -/
theorem reg_shapedState (t : TineNo) (an : Ar) (xs w : Nat) (s : State) :
    let y := shapedValue s t an xs
    let u := shapedInput s t an (getAcc s t an).toInt xs
    reg (shapedState t an xs w s) (pgTine t) (oRQ an.val + 4) = (if clamp w y ≠ y then 0 else wi ((y * 2 ^ 72 - u) / 2 ^ 36)) ∧
      reg (shapedState t an xs w s) (pgTine t) (oRQ an.val + 5) = (if clamp w y ≠ y then 0 else reg s (pgTine t) (oRQ an.val + 4)) ∧
      reg (shapedState t an xs w s) (pgTine t) (oRQ an.val + 6) = (if clamp w y ≠ y then 0 else reg s (pgTine t) (oRQ an.val + 5)) := by
  intro y u
  rw [← satI_eq_clamp]
  unfold shapedState
  refine ⟨?_, ?_, reg_setReg_same ..⟩
  · rw [reg_setReg_off _ _ (by omega), reg_setReg_off _ _ (by omega), reg_setReg_same]
  · rw [reg_setReg_off _ _ (by omega), reg_setReg_same]

/-- A shaped write-back (R67). -/
theorem wroteBack_shaped (t : TineNo) (gd : Gr) (an : Ar) (xs w : Nat) (s : State) :
    WroteBack t gd an w (shapedValue s t an xs) [] (shapedState t an xs w s) (wroteBack t gd an xs 6 w s) ∧
      WroteBack t gd an w (shapedValue s t an xs) [oDTHA, oDTHB, oRQ an.val + 4, oRQ an.val + 5, oRQ an.val + 6] s
        (wroteBack t gd an xs 6 w s) := by
  have hback := wroteBack_of_eq gd (writeBack_shaped t an xs w s)
  have h4 := rq_bounds an (k := 4) (by decide)
  have hoffs : StepOffs [oDTHA, oDTHB, oRQ an.val + 4, oRQ an.val + 5, oRQ an.val + 6] := fun o ho => by
    simp only [List.mem_cons, List.not_mem_nil, or_false, oDTHA, oDTHB] at ho
    omega
  refine ⟨hback, wroteBack_after ((quiet_shapedState t an xs w s).mono (fun o ho => ?_) fun o ho => ?_) hoffs hback⟩
  · simp only [List.mem_append, List.mem_singleton] at ho
    obtain ((ho | rfl) | rfl) | rfl := ho
    · obtain rfl | rfl := ditherOffs_sub _ o ho <;> simp
    all_goals simp
  · have := hoffs o ho
    omega

/-! ## WBA_D and refused forms -/

/-- A fault recorded at a ready tine is the tine's fault, and nothing else changes. -/
theorem recordFault_of_ready {s : State} {t : TineNo} (hready : Ready s t) (f : FaultRec) :
    (tineAt (recordFault t f s) t).fault = some f ∧ KeepsG t [] s (recordFault t f s) ∧ KeepsAcc t [] s (recordFault t f s) ∧
      (recordFault t f s).regs = s.regs := by
  refine ⟨?_, fun i _ => (quiet_recordFault t f s).getG i, fun n _ => (quiet_recordFault t f s).getAcc n, rfl⟩
  rw [recordFault, tineAt_modTine_same, (idle_of_ready hready).1]
  rfl

theorem illegal_of_ready {s : State} {t : TineNo} (hready : Ready s t) :
    (tineAt (illegal t s) t).fault.map (·.cause) = some 0x01 ∧ KeepsG t [] s (illegal t s) := by
  obtain ⟨hfault, hg, -, -⟩ := recordFault_of_ready hready (instrFault 0x01 (fetchAt s t (tineAt s t).pc))
  exact ⟨congrArg (Option.map _) hfault, hg⟩

/-- The low and high words of the 80 bits of a double write-back (R47). -/
theorem wd_modI (v : Int) : wd (modI 80 v) = (BitVec.ofInt 80 v).extractLsb' 0 40 ∧
    wd (modI 80 v / 2 ^ 40) = (BitVec.ofInt 80 v).extractLsb' 40 40 := by
  have hn : (BitVec.ofInt 80 v).toNat = modI 80 v := BitVec.toNat_ofInt v
  constructor <;> apply BitVec.eq_of_toNat_eq <;> rw [BitVec.extractLsb'_toNat, hn, wd, BitVec.toNat_ofNat]
  · simp
  · rw [Nat.shiftRight_eq_div_pow]

/-- A double write-back with an even Gd (R47). -/
theorem runs_wbaD {s : State} {t : TineNo} {gd : Gr} (an : Ar) (hready : Ready s t) (heven : gd.val % 2 = 0) :
    let v := (getAcc s t an.val).toInt
    let n := BitVec.ofInt 80 (clamp 80 v)
    let hi : Gr := Fin.ofNat 32 (gd.val + 1)
    Runs (.wbaD t gd an 0 0) s fun s' =>
      getG s' t gd = n.extractLsb' 0 40 ∧ getG s' t hi = n.extractLsb' 40 40 ∧ KeepsG t [gd, hi] s s' ∧ KeepsAcc t [] s s' ∧
      reg s' (pgTine t) oTST =
        (if clamp 80 v ≠ v then setB (reg s (pgTine t) oTST) (4 * an.val + 2) true else reg s (pgTine t) oTST) ∧
      Retired t [oTST, oSATA an.val, gOff s t gd, gOff s t hi] s s' ∧ Moves t 2 s s' := by
  intro v n hi
  have hhi : gd ≠ hi := by
    intro h
    have hval : gd.val = (gd.val + 1) % 32 := congrArg Fin.val h
    omega
  obtain ⟨hlow, hhigh⟩ := wd_modI (satI 80 v)
  have hset := (touches_setG t gd (wd (modI 80 (satI 80 v))) s).trans
    (touches_setG t hi (wd (modI 80 (satI 80 v) / 2 ^ 40)) (setG t gd (wd (modI 80 (satI 80 v))) s))
  rw [(touches_setG t gd (wd (modI 80 (satI 80 v))) s).gOff] at hset
  obtain ⟨hg, hacc, htst, hret, hmoves⟩ := retireSat_wsat an 80 v hset (by simp [gOff_ge])
  refine runs_of_ready hready rfl ?_
  rw [if_neg (by simp [heven])]
  refine ⟨?_, ?_, fun i hi' => ?_, fun m _ => ?_, htst, hret, hmoves⟩
  · refine (hg gd).trans ?_
    rw [getG_setG_ne _ _ _ hhi, getG_setG_same, hlow, satI_eq_clamp]
  · refine (hg hi).trans ?_
    rw [getG_setG_same, hhigh, satI_eq_clamp]
  · simp only [List.mem_cons, List.not_mem_nil, or_false, not_or] at hi'
    refine (hg i).trans ?_
    rw [getG_setG_ne _ _ _ hi'.2, getG_setG_ne _ _ _ hi'.1]
  · refine (hacc m).trans ?_
    rw [getAcc_setG, getAcc_setG]

/-- Any other double write-back is illegal. -/
theorem runs_wbaD_illegal {s : State} {t : TineNo} {gd : Gr} {an : Ar} {xs : BitVec 6} {code : BitVec 3} (hready : Ready s t)
    (hform : gd.val % 2 = 1 ∨ xs ≠ 0 ∨ code ≠ 0) :
    Runs (.wbaD t gd an xs code) s fun s' => (tineAt s' t).fault.map (·.cause) = some 0x01 ∧ KeepsG t [] s s' := by
  have hform' : gd.val % 2 ≠ 0 ∨ xs.toNat ≠ 0 ∨ code.toNat ≠ 0 :=
    hform.imp (fun h => by omega) (Or.imp (fun h h0 => h (BitVec.eq_of_toNat_eq h0)) fun h h0 => h (BitVec.eq_of_toNat_eq h0))
  refine runs_of_ready hready rfl ?_
  rw [if_pos hform']
  exact illegal_of_ready hready

/-! ## The statement -/

/-- A code without draws rounds by a value of its own, and no register steps (R58). -/
theorem wroteBack_plain (t : TineNo) (gd : Gr) (an : Ar) {xs code : Nat} {y : Int} {s : State} (hcode : code < 4)
    (hy : ∀ a b, roundTo code (getAcc s t an).toInt xs a b = y) (w : Nat) :
    WroteBack t gd an w y [] s (wroteBack t gd an xs code w s) := by
  have hback := (wroteBack_rounded t gd an xs (show code ≠ 6 by omega) w s).1
  have hoffs : ditherOffs code = [] := by
    have : code = 0 ∨ code = 1 ∨ code = 2 ∨ code = 3 := by omega
    obtain h | h | h | h := this <;> rw [h] <;> rfl
  rw [hy, hoffs] at hback
  exact hback

/-- Settles O9: the rounding of each code is a lemma on `roundTo`, the draws and the shaper's steps happen before the write-back, and
what the write-back itself writes is `retireSat_wroteBack`. -/
theorem writeBackRounds : Obligations.WriteBackRounds := by
  intro s t gd an xs code hready v d odd even up up' both
  have hxs : (xs = 0) = (xs.toNat = 0) := by
    rw [← BitVec.toNat_inj]
    rfl
  have hboth : ∀ (c : BitVec 3) (P : Nat → State → Prop), c.toNat ≠ 7 →
      (∀ w, P w (wroteBack t gd an xs.toNat c.toNat w s)) → both c P := fun c P hc hP => runs_wroteBack hready hc hP
  have hillegal : both 7 fun _ s' => (tineAt s' t).fault.map (·.cause) = some 0x01 ∧ KeepsG t [] s s' :=
    ⟨runs_of_ready hready rfl (illegal_of_ready hready), runs_of_ready hready rfl (illegal_of_ready hready)⟩
  clear_value both
  refine ⟨?floor, ?up, ?even, ?odd, ?draw, ?draws, ?shaped, hillegal, runs_wbaD an hready, runs_wbaD_illegal hready⟩
  case floor => exact hboth 0 _ (by decide) (wroteBack_plain t gd an (by decide) fun a b => roundTo_floor v _ a b)
  case up =>
    refine hboth 1 _ (by decide) (wroteBack_plain t gd an (by decide) fun a b => (roundTo_up v _ a b).trans ?_)
    simp only [up', up, hxs, d]
  case even => exact hboth 2 _ (by decide) (wroteBack_plain t gd an (by decide) fun a b => roundTo_even v _ a b)
  case odd => exact hboth 3 _ (by decide) (wroteBack_plain t gd an (by decide) fun a b => roundTo_odd v _ a b)
  case draw =>
    intro a
    have ha : drawnA 4 t s = a := if_pos rfl
    have hround : roundTo 4 v xs.toNat (drawnA 4 t s) (drawnB 4 t s) =
        if xs = 0 then v else (v + (drawAlign a xs.toNat : Nat)) / d := by
      simp only [hxs]
      split
      · next h => rw [h, roundTo_zero]
      · next h => rw [roundTo_of_pos 4 v h, ha]; rfl
    refine hboth 4 _ (by decide) fun w => ?_
    obtain ⟨hback, hA, -⟩ := wroteBack_rounded t gd an xs.toNat (code := 4) (by decide) w s
    rw [hround] at hback
    exact ⟨hback, ha ▸ hA⟩
  case draws =>
    intro a b
    have ha : drawnA 5 t s = a := if_pos rfl
    have hb : drawnB 5 t s = b := if_pos rfl
    have hround : roundTo 5 v xs.toNat (drawnA 5 t s) (drawnB 5 t s) =
        if xs = 0 then v else roundedAt 5 v xs.toNat a b := by
      simp only [hxs]
      split
      · next h => rw [h, roundTo_zero]
      · next h => rw [roundTo_of_pos 5 v h, ha, hb]
    refine hboth 5 _ (by decide) fun w => ?_
    obtain ⟨hback, hA, hB⟩ := wroteBack_rounded t gd an xs.toNat (code := 5) (by decide) w s
    rw [hround] at hback
    exact ⟨hback, ha ▸ hA, hb ▸ hB⟩
  case shaped =>
    intro rq base a0 b0 a b u y
    have ha : drawnA (shapeBase s t an) t s = a := by
      simp only [drawnA, usesA, Bool.or_eq_true, decide_eq_true_eq]
      rfl
    have hb : drawnB (shapeBase s t an) t s = b := by
      simp only [drawnB, usesB, decide_eq_true_eq]
      rfl
    have hy : shapedValue s t an xs.toNat = y := by
      rw [shapedValue, ha, hb]
      rfl
    refine hboth 6 _ (by decide) fun w => ?_
    obtain ⟨hlast, hback⟩ := wroteBack_shaped t gd an xs.toNat w s
    obtain ⟨h4, h5, h6⟩ := reg_shapedState t an xs.toNat w s
    obtain ⟨hA, hB⟩ := regF_drawn (shapeBase s t an) t s
    have hstep : ∀ k, k ≤ 6 → reg (wroteBack t gd an xs.toNat 6 w s) (pgTine t) (rq + k) =
        reg (shapedState t an xs.toNat w s) (pgTine t) (rq + k) := fun k hk => by
      have := rq_bounds an hk
      exact wroteBack_stepped hlast (by omega)
    rw [hy] at hback h4 h5 h6
    have hdraw : ∀ off, 0xA0 ≤ off → off < 0xA4 → regF (wroteBack t gd an xs.toNat 6 w s) (pgTine t) off 0 32 =
        regF (drawn (shapeBase s t an) t s) (pgTine t) off 0 32 := fun off hlo hhi => by
      rw [regF, wroteBack_stepped hlast ⟨by omega, hhi⟩]
      exact regF_shapedState t an xs.toNat w s hlo
    rw [← hdraw oDTHA (by decide) (by decide), ha] at hA
    rw [← hdraw oDTHB (by decide) (by decide), hb] at hB
    refine ⟨hback, hA, hB, fun hsat => ?_, fun hsat => ?_⟩
    · rw [if_pos hsat] at h4 h5 h6
      exact ⟨(hstep 4 (by decide)).trans h4, (hstep 5 (by decide)).trans h5, (hstep 6 (by decide)).trans h6⟩
    · rw [if_neg (not_not.2 hsat)] at h4 h5 h6
      exact ⟨(hstep 4 (by decide)).trans h4, (hstep 5 (by decide)).trans h5, (hstep 6 (by decide)).trans h6⟩

end Sys2Proof.Machine
end

section
/-! SUPPORT. Plain words of a tine (R92, R121, R182, R184, R192, R195): words of data trays and Shed that pass the checks of an access,
how a load of them waits and returns, and the statement about RSA, MACM and SWAP. -/

namespace Sys2Proof.Machine

/-! ## Words of data trays and Shed -/

/-- A word of a data tray or of Shed. -/
def PlainPa (pa : Nat) : Prop := (∃ u o, regionOf pa = .dtray u o) ∨ ∃ b, regionOf pa = .shed b

/-- Trays and Shed lie below the register pages (Table 1-6). -/
theorem plainPa_lt {pa : Nat} (h : PlainPa pa) : pa < 0x04400000 := by
  by_contra hge
  have h1 : ¬ pa < 0x10000 := by omega
  have h2 : ¬ (0x01000000 ≤ pa ∧ pa < 0x01000000 + 144 * 0x10000) := by omega
  have h3 : ¬ (0x04000000 ≤ pa ∧ pa < 0x04200000) := by omega
  have h4 : ¬ (0x04200000 ≤ pa ∧ pa < 0x04400000) := by omega
  unfold PlainPa regionOf at h
  simp only [if_neg h1, if_neg h2, if_neg h3, if_neg h4] at h
  split at h
  · split at h <;> simp at h
  · split at h
    · simp at h
    · split at h <;> simp at h

/-- What lies below the register pages is no page, no DRAM and no window of another device. -/
theorem regionOf_low {pa : Nat} (h : pa < 0x08000000) :
    (∀ pg off, regionOf pa ≠ .page pg off) ∧ (∀ l k, regionOf pa ≠ .dram l k) ∧ (∀ c n, regionOf pa ≠ .window c n) := by
  have h1 : ¬ (0x08000000 ≤ pa ∧ pa < 0x08000000 + 0x200 * 0x400) := by omega
  have h2 : ¬ (0x100000000 ≤ pa ∧ pa < 0x140000000) := by omega
  have h3 : ¬ (0x200000000 ≤ pa ∧ pa < 0x300000000) := by omega
  unfold regionOf
  simp only [if_neg h1, if_neg h2, if_neg h3]
  grind

section
variable {pa : Nat} (hlow : pa < 0x08000000)
include hlow

theorem ownPa_low (s : State) : ownPa s pa = pa := by
  unfold ownPa
  split
  · next hreg => exact absurd hreg ((regionOf_low hlow).2.2 _ _)
  · rfl

theorem memCode_low : memCode pa ≠ 4 := by
  unfold memCode
  split
  case h_5 hreg => exact absurd hreg ((regionOf_low hlow).2.1 _ _)
  all_goals decide

theorem eccAddr_low : eccAddr pa = pa := by
  unfold eccAddr
  split
  · next hreg => exact absurd hreg ((regionOf_low hlow).2.1 _ _)
  · rfl

theorem putMbox_low : putMbox pa = none := by
  unfold putMbox
  split
  · next hreg => exact absurd hreg ((regionOf_low hlow).1 _ _)
  · rfl

/-- A word that holds no uncorrectable error is written without a change of the marks. -/
theorem memPut_clean {s : State} (v : Word) (hclean : ueAt s pa = false) :
    memPut pa v s = { s with mem := Tbl.set memDflt s.mem pa v } := by
  have hmarks : s.ue.filter (fun x => decide (x ≠ pa)) = s.ue := by
    rw [ueAt, eccAddr_low hlow] at hclean
    refine List.filter_eq_self.2 fun x hx => ?_
    have hne : x ≠ pa := by
      rintro rfl
      rw [List.contains_eq_mem, decide_eq_false_iff_not] at hclean
      exact hclean hx
    simpa using hne
  unfold memPut ueClear
  rw [if_neg (memCode_low hlow), eccAddr_low hlow]
  exact congrArg (fun u => { s with mem := Tbl.set memDflt s.mem pa v, ue := u }) hmarks

end

/-! ## Translation and checks -/

section
variable {s : State} {t : TineNo} {va pa : Nat}

/-- The checks of an address ask the same of every access to a plain word. -/
theorem addrSub_plain (h : PlainPa pa) (a : Acc) (s : State) : addrSub s a pa = addrSub s { store := true } pa := by
  unfold addrSub
  rw [ownPa_low (by have := plainPa_lt h; omega)]
  obtain ⟨u, o, hreg⟩ | ⟨b, hreg⟩ := h <;> simp [hreg]

theorem pageWorld_plain (h : PlainPa pa) (walled : Bool) (s : State) : pageWorld s walled pa = none := by
  unfold pageWorld
  rw [ownPa_low (by have := plainPa_lt h; omega)]
  obtain ⟨u, o, hreg⟩ | ⟨b, hreg⟩ := h <;> rw [hreg]

theorem physChecks_plain (h : PlainPa pa) (hchecks : addrSub s { store := true } pa = 0) (walled : Bool) (a : Acc) :
    physChecks s walled a false pa = .pa pa := by
  unfold physChecks
  rw [addrSub_plain h a s, hchecks, pageWorld_plain h walled s]
  rfl

/-- Translation reaches the plain word (R192–R196). -/
theorem tineXlat_plain (h : PlainWord s t va pa) (a : Acc) : tineXlat t va a s = (.pa pa, s) := by
  have hphys := physChecks_plain h.region h.checks
  unfold tineXlat
  dsimp only
  obtain ⟨hoff, hwalled, rfl⟩ | ⟨hon, l, hleaf, rfl, hrights⟩ := h.reached
  · have hoff' : bit (reg s (pgTine t) oXCFG) 0 = false := hoff
    rw [hoff', if_pos (by decide), if_pos hwalled, hphys]
  · have hon' : bit (reg s (pgTine t) oXCFG) 0 = true := hon
    rw [hon', if_neg (by decide), hleaf]
    dsimp only
    rw [leafOut, hrights]
    dsimp only
    rw [hphys]

theorem xlatWords_plain {vas pas : List Nat} (h : List.Forall₂ (PlainWord s t) vas pas) (a : Acc) :
    xlatWords t a vas s = (.pas pas, s) := by
  induction h with
  | nil => rfl
  | cons hword _ ih =>
    rw [xlatWords, tineXlat_plain hword]
    dsimp only
    rw [ih, ownPa_low (by have := plainPa_lt hword.region; omega)]

end

/-! ## Reading and writing them -/

/-- A plain word that can be read at once: it holds no uncorrectable error, and its domain answers. -/
structure Awake (s : State) (pa : Nat) : Prop where
  region : PlainPa pa
  clean : ueAt s pa = false
  up : ∀ d, paDom pa = some d → domHeld s d = false ∧ domAsleep s d = false

theorem awake_of_plainWord {s : State} {t : TineNo} {va pa : Nat} (h : PlainWord s t va pa) (hflight : (tineAt s t).flight = none) :
    Awake s pa := by
  refine ⟨h.region, h.clean, fun d hd => ⟨?_, ?_⟩⟩
  · have hfree := h.free
    have hnone : inFlight s (.tine t) pa = false := by simp [inFlight, hflight]
    unfold paHeld at hfree
    rw [hd] at hfree
    simpa [hnone] using hfree
  · have hchecks := h.checks
    have hlow := ownPa_low (pa := pa) (by have := plainPa_lt h.region; omega) s
    unfold addrSub at hchecks
    unfold paDom at hd
    rw [hlow] at hchecks
    by_contra hasleep
    rw [Bool.not_eq_false] at hasleep
    obtain ⟨u, o, hreg⟩ | ⟨b, hreg⟩ := h.region
    all_goals
      simp only [hreg, Option.some.injEq] at hchecks hd
      rw [hd, if_pos hasleep] at hchecks
      cases hchecks

section
variable {s : State} {pa : Nat} (h : Awake s pa)
include h

theorem awake_low : pa < 0x08000000 := by
  have := plainPa_lt h.region
  omega

theorem paHeld_awake (w : Who) : paHeld s w pa = false := by
  unfold paHeld
  split
  · next d hd => rw [(h.up d hd).1, Bool.false_and]
  · rfl

theorem paDormant_awake : paDormant s pa = false := by
  unfold paDormant
  split
  · next d hd => exact (h.up d hd).2
  · rfl

theorem physRead_awake (w : Who) : physRead w pa .ok s = (.word (memGet s pa), s) := by
  have hmem : memRead pa .ok (whoSrc w) s = (.word (memGet s pa), s) := by simp [memRead, h.clean]
  unfold physRead
  simp only [ownPa_low (awake_low h) s, paHeld_awake h w, paDormant_awake h]
  obtain ⟨u, o, hreg⟩ | ⟨b, hreg⟩ := h.region <;> simp [hreg, hmem]

theorem physWaits_awake (w : Who) : physWaits s w pa = false := by
  unfold physWaits
  simp only [ownPa_low (awake_low h) s, paHeld_awake h w]
  obtain ⟨u, o, hreg⟩ | ⟨b, hreg⟩ := h.region <;> rw [hreg] <;> rfl

end

theorem readAll_awake (t : TineNo) (swap : Bool) {s : State} {pas : List Nat} (h : ∀ pa ∈ pas, Awake s pa) (vas : List Nat)
    (got : List Word) : readAll t swap (pas.map .read) vas [] got s = (.words (got ++ pas.map (memGet s)), s) := by
  induction pas generalizing vas got with
  | nil => simp [readAll]
  | cons pa pas ih =>
    rw [List.forall_mem_cons] at h
    rw [List.map_cons, readAll]
    simp only [List.headD_nil, physRead_awake h.1, List.drop_nil]
    rw [ih h.2, List.append_assoc]
    rfl

/-! ## A load of plain words -/

/-- A tine whose load of the words at `pas` is in flight (R115). -/
def loading (t : TineNo) (k : LoadKind) (pas vas : List Nat) (upds : List (Gr × Word)) (len : Nat) (s : State) : State :=
  modTine t (fun x => { x with flight := some (.load k (pas.map .read) vas upds len none) }) s

section
variable {s : State} {t : TineNo} {k : LoadKind} {pas vas : List Nat} {upds : List (Gr × Word)} {len : Nat}

theorem quiet_loading : Quiet t [] s (loading t k pas vas upds len s) :=
  .of_tine t s (fun _ => ⟨rfl, rfl, rfl, id⟩) fun _ => ⟨rfl, rfl⟩

theorem waiting_loading : Waiting t s (loading t k pas vas upds len s) := by
  have hq : Quiet t [] s (loading t k pas vas upds len s) := quiet_loading
  refine ⟨?_, hq.pc, rfl, rfl, hq.getG, hq.getAcc⟩
  rw [loading, tineAt_modTine_same]
  rfl

/-- With an empty store buffer every word of a load comes from memory (R121). -/
theorem fwdAll_of_empty (hsb : (tineAt s t).sb = []) (k : LoadKind) (groups : List (List Nat)) :
    fwdAll s t k groups = groups.map fun _ => Fwd.mem := by
  unfold fwdAll
  refine List.map_congr_left fun g _ => ?_
  rw [hsb]
  split <;> rfl

theorem loadSrcs_mem (groups : List (List Nat)) : loadSrcs (groups.map fun _ => Fwd.mem) groups = groups.flatten.map .read := by
  induction groups with
  | nil => rfl
  | cons g gs ih =>
    rw [List.map_cons, loadSrcs, ih, List.flatten_cons, List.map_append]
    intro ws h
    cases h

theorem physForget_of_none (hchain : NoChainRead s t) : physForget (.tine t) s = s := by
  obtain ⟨htags, hback⟩ := hchain
  have h1 : s.chainTags.filter (fun e => decide (e.2.1 ≠ whoSrc (.tine t))) = s.chainTags :=
    List.filter_eq_self.2 fun e he => decide_eq_true (htags e he)
  have h2 : s.chainBack.filter (fun e => decide (e.1 ≠ whoSrc (.tine t))) = s.chainBack :=
    List.filter_eq_self.2 fun e he => decide_eq_true (hback e he)
  rw [physForget, h1, h2]

/-- A plain word is not asked for through the chain. -/
theorem srcAsk_plain {pa : Nat} (h : PlainPa pa) (t : TineNo) (s : State) : srcAsk t (.read pa) s = s := by
  have hask : physAsk (.tine t) pa s = s := by
    unfold physAsk
    rw [ownPa_low (by have := plainPa_lt h; omega)]
    obtain ⟨u, o, hreg⟩ | ⟨b, hreg⟩ := h <;> rw [hreg]
  unfold srcAsk
  dsimp only
  rw [hask, ite_self]

theorem forAll_srcAsk_plain (h : ∀ pa ∈ pas, PlainPa pa) (t : TineNo) (s : State) : forAll (pas.map .read) (srcAsk t) s = s := by
  induction pas with
  | nil => rfl
  | cons pa pas ih =>
    rw [List.forall_mem_cons] at h
    rw [List.map_cons, forAll, srcAsk_plain h.1, ih h.2]

/-- A load of plain words waits for its data. -/
theorem loadStart_plain {groups : List (List Nat)} (hsb : (tineAt s t).sb = []) (hchain : NoChainRead s t) (hne : groups ≠ [])
    (h : ∀ pa ∈ groups.flatten, PlainPa pa) (k : LoadKind) (vas : List Nat) (upds : List (Gr × Word)) (len : Nat) :
    loadStart t k groups vas upds len none s = loading t k groups.flatten vas upds len s := by
  obtain ⟨g, gs, rfl⟩ := List.exists_cons_of_ne_nil hne
  unfold loadStart
  dsimp only
  rw [fwdAll_of_empty hsb, loadSrcs_mem, physForget_of_none hchain]
  simp only [List.map_cons, List.all_cons, Bool.false_and, Bool.false_eq_true, if_false, List.any_cons, List.any_map]
  have hnone : (decide (Fwd.mem = .wait) || gs.any ((fun f => decide (f = .wait)) ∘ fun _ => Fwd.mem)) = false := by simp
  rw [hnone]
  simp only [Bool.false_eq_true, if_false]
  exact forAll_srcAsk_plain h t _

/-- Its data returns once the words can be read (R115). -/
theorem loadReturn_loading (hsb : (tineAt s t).sb = []) (hdrain : (tineAt s t).drain = []) (h : ∀ pa ∈ pas, Awake s pa)
    (hsplit : splitFirst k vas (pas.map .read) = none) :
    loadReturn t [] (loading t k pas vas upds len s) =
      loadDone t k (pas.map .read) (pas.map (memGet s)) upds len none (loading t k pas vas upds len s) := by
  have htine : tineAt (loading t k pas vas upds len s) t =
      { tineAt s t with flight := some (.load k (pas.map .read) vas upds len none) } := tineAt_modTine_same ..
  have hawake : ∀ pa ∈ pas, Awake (loading t k pas vas upds len s) pa := fun pa hpa =>
    ⟨(h pa hpa).region, (h pa hpa).clean, (h pa hpa).up⟩
  have hover : ∀ half, (pas.map LSrc.read).any (srcOver [] half) = false := fun half => by simp [srcOver]
  have hwaits : (pas.map LSrc.read).any (srcWaits (loading t k pas vas upds len s) t) = false := by
    rw [List.any_map, List.any_eq_false]
    intro pa hpa
    simpa [srcWaits] using physWaits_awake (hawake pa hpa) (.tine t)
  have hread := readAll_awake t (loadSwap k) hawake vas []
  unfold loadReturn
  simp only [htine, hsb, hdrain, hover, hwaits, hsplit, hread, List.isEmpty_nil, List.contains_nil, Bool.not_true, Bool.and_false,
    Bool.or_false, Bool.false_eq_true, if_false, List.nil_append]
  rfl

theorem windowGo_of_empty (h : (tineAt s t).window = []) : windowGo t s = s := by
  unfold windowGo
  simp [h]

/-- What a load whose words are plain does: it waits, and when its data returns it ends as `loadDone` says. -/
theorem runs_load {c : Instr} {f : State → State} {groups : List (List Nat)} {z : State} {P : State → Prop} (hready : Ready s t)
    (hsb : (tineAt s t).sb = []) (hchain : NoChainRead s t) (hexec : exec c s = .next (issue t c f s))
    (hstart : f s = loadStart t k groups vas upds len none s) (hne : groups ≠ [])
    (hplain : ∀ pa ∈ groups.flatten, ∃ va, PlainWord s t va pa) (hsplit : splitFirst k vas (groups.flatten.map .read) = none)
    (hdone : loadDone t k (groups.flatten.map .read) (groups.flatten.map (memGet s)) upds len none
      (loading t k groups.flatten vas upds len s) = z) (hwindow : (tineAt z t).window = []) (hP : P z) :
    Runs c s fun s1 => Waiting t s s1 ∧ Runs (.loadDataReturn t headData) s1 P := by
  obtain ⟨-, hdrain, hflight, -⟩ := idle_of_ready hready
  have hreturn : loadReturn t [] (loading t k groups.flatten vas upds len s) = z :=
    (loadReturn_loading hsb hdrain (fun pa hpa => awake_of_plainWord (hplain pa hpa).choose_spec hflight) hsplit).trans hdone
  have hgo : windowGo t (loadReturn t [] (loading t k groups.flatten vas upds len s)) = z := by
    rw [hreturn, windowGo_of_empty hwindow]
  refine runs_of_ready hready hexec ?_
  rw [hstart, loadStart_plain hsb hchain hne fun pa hpa => (hplain pa hpa).choose_spec.region]
  exact ⟨waiting_loading, z, congrArg _ hgo, hP⟩

end

/-! ## RSA, MACM and SWAP -/

section
variable {t : TineNo} {s a : State} {upds : List (Gr × Word)}

theorem afterUpds_congr (h : ∀ i, getG a t i = getG s t i) (upds : List (Gr × Word)) (i : Gr) :
    afterUpds a t upds i = afterUpds s t upds i := by
  unfold afterUpds
  rw [h]

section
variable (h : Quiet t [] s a)
include h

/-- The address updates of a load, once its data is there. -/
theorem touches_doUpds_quiet : Touches t (upds.map fun u => gOff s t u.1) s (doUpds t upds a) := by
  have hupds := touches_doUpds t upds a
  simp only [h.gOff] at hupds
  exact h.toTouches.trans hupds

theorem getG_doUpds_quiet (hnodup : (upds.map Prod.fst).Nodup) (i : Gr) : getG (doUpds t upds a) t i = afterUpds s t upds i := by
  rw [getG_doUpds t hnodup]
  exact afterUpds_congr h.getG upds i

theorem getAcc_doUpds_quiet (n : Nat) : getAcc (doUpds t upds a) t n = getAcc s t n := by
  rw [getAcc_doUpds]
  exact h.getAcc n

end

/-- No address register's bank register is one that an instruction names itself. -/
theorem notMem_upds {o : Nat} (ho : o < 0x2D0) (upds : List (Gr × Word)) (s : State) (t : Nat) : o ∉ upds.map fun u => gOff s t u.1 := by
  intro hm
  obtain ⟨u, -, hu⟩ := List.mem_map.1 hm
  exact absurd hu (lt_gOff s t u.1 ho).ne'

end

/-- The three words of an image spell the accumulator (R37). -/
theorem accOfImage_eq (w0 w1 w2 : Word) : accOfImage w0 w1 w2 = w2.extractLsb' 0 16 ++ w1 ++ w0 := by
  have h0 := w0.isLt
  have h1 := w1.isLt
  apply BitVec.eq_of_toNat_eq
  rw [BitVec.toNat_append, BitVec.toNat_append, accOfImage, BitVec.toNat_ofNat, BitVec.extractLsb'_toNat, Nat.shiftRight_zero,
    ← Nat.shiftLeft_add_eq_or_of_lt h0, ← Nat.shiftLeft_add_eq_or_of_lt h1, Nat.shiftLeft_eq, Nat.shiftLeft_eq]
  omega

/-- The words of an image whose three words are plain (R37). -/
theorem forall₂_imageVas {s : State} {t : TineNo} {ea : Word} {pa : Nat → Nat}
    (h : ∀ k, k < 3 → PlainWord s t (vaPlus (wordVa ea) k) (pa k)) :
    List.Forall₂ (PlainWord s t) (imageVas ea) [pa 0, pa 1, pa 2] := by
  have hva : vaPlus (wordVa ea) 0 = wordVa ea := Nat.mod_eq_of_lt (getF_lt _ 0 32)
  exact .cons (hva ▸ h 0 (by decide)) (.cons (h 1 (by decide)) (.cons (h 2 (by decide)) .nil))

/-- A load that writes one G register and retires (R96). -/
theorem retire_loaded {t : TineNo} {s a : State} {upds : List (Gr × Word)} (h : Quiet t [] s a) (gt : Gr) (v : Word)
    (hnodup : (upds.map Prod.fst).Nodup) (len : Nat) : Loaded t gt v upds len s (retire t len (setG t gt v (doUpds t upds a))) := by
  have hupds : Touches t (upds.map fun u => gOff s t u.1) s (doUpds t upds a) := touches_doUpds_quiet h
  have hset := touches_setG t gt v (doUpds t upds a)
  rw [hupds.gOff] at hset
  have hall := hupds.trans hset
  have hcalm : ∀ o, o < 0x2D0 → o ∉ (upds.map fun u => gOff s t u.1) ++ [gOff s t gt] := fun o ho hm => by
    rw [List.mem_append, List.mem_singleton] at hm
    exact hm.elim (notMem_upds ho upds s t) (lt_gOff s t gt ho).ne
  refine ⟨?_, fun i hi => ?_, fun n _ => ?_, ?_, (hall.retired (hcalm _ (by decide)) len).mono fun o ho => .inl ?_,
    hall.moves (hcalm _ (by decide)) len⟩
  · rw [getG_retire, getG_setG_same]
  · rw [getG_retire, getG_setG_ne _ _ _ hi, getG_doUpds_quiet h hnodup]
  · rw [getAcc_retire, getAcc_setG, getAcc_doUpds_quiet h]
  · rw [tst_retire, hall.page oTST (by decide) (hcalm _ (by decide))]
  · rw [List.mem_append, List.mem_singleton] at ho
    exact List.mem_cons.2 ho.symm

section
variable {s : State} {t : TineNo} (hready : Ready s t) (hsb : (tineAt s t).sb = []) (hchain : NoChainRead s t)
include hready hsb hchain

/-- RSA of three plain words (R37). -/
theorem runs_rsa {l : LS} {pa : Nat → Nat} (hok : imageOk l = true)
    (hplain : ∀ k, k < 3 → PlainWord s t (vaPlus (wordVa (lsEa s t l).1) k) (pa k)) :
    let w := fun k => memGet s (pa k)
    Runs (.rsa t l) s fun s1 => Waiting t s s1 ∧ Runs (.loadDataReturn t headData) s1 fun s2 =>
      getAcc s2 t l.gt.val = (w 2).extractLsb' 0 16 ++ w 1 ++ w 0 ∧ KeepsAcc t [l.gt.val] s s2 ∧
      (∀ i, getG s2 t i = afterUpds s t (updList (lsEa s t l).2) i) ∧ reg s2 (pgTine t) oTST = reg s (pgTine t) oTST ∧
      Retired t ((updList (lsEa s t l).2).map fun u => gOff s t u.1) s s2 ∧ Moves t 2 s s2 := by
  intro w
  have hlt : l.gt.val < 4 := by
    simp only [imageOk, Bool.and_eq_true, decide_eq_true_eq] at hok
    exact hok.2
  have hfin : (Fin.ofNat 4 l.gt.val : Ar).val = l.gt.val := Nat.mod_eq_of_lt hlt
  have hwords := forall₂_imageVas hplain
  -- the state with the address register moved, and with the accumulator restored
  let x := doUpds t (updList (lsEa s t l).2)
    (loading t (.image (Fin.ofNat 4 l.gt.val)) [pa 0, pa 1, pa 2] (imageVas (lsEa s t l).1) (updList (lsEa s t l).2) 2 s)
  let y := setAcc t (Fin.ofNat 4 l.gt.val : Ar) (accOfImage (w 0) (w 1) (w 2)) x
  have hx : Touches t ((updList (lsEa s t l).2).map fun u => gOff s t u.1) s x := touches_doUpds_quiet quiet_loading
  have hy : Touches t (((updList (lsEa s t l).2).map fun u => gOff s t u.1) ++ []) s y := hx.trans (touches_setAcc t _ _ x)
  rw [List.append_nil] at hy
  have hcalm : ∀ o, o < 0x2D0 → o ∉ (updList (lsEa s t l).2).map fun u => gOff s t u.1 := fun o ho => notMem_upds ho _ s t
  refine runs_load (k := .image (Fin.ofNat 4 l.gt.val)) (groups := [[pa 0, pa 1, pa 2]]) (vas := imageVas (lsEa s t l).1)
    (upds := updList (lsEa s t l).2) (len := 2) (z := retire t 2 y) hready hsb hchain rfl ?_ (by simp) ?_ rfl rfl
    (window_retire 2 (hy.window (window_of_ready hready))) ?_
  · rw [if_pos hok]
    dsimp only
    rw [xlatWords_plain hwords]
  · simp only [List.flatten_cons, List.flatten_nil, List.append_nil, List.forall_mem_cons]
    exact ⟨⟨_, hplain 0 (by decide)⟩, ⟨_, hplain 1 (by decide)⟩, ⟨_, hplain 2 (by decide)⟩, by simp⟩
  · have hacc : ∀ n, getAcc (retire t 2 y) t n = if n = l.gt.val then accOfImage (w 0) (w 1) (w 2) else getAcc s t n := fun n => by
      rw [getAcc_retire, getAcc_setAcc, hfin, getAcc_doUpds_quiet quiet_loading]
    refine ⟨?_, fun n hn => ?_, fun i => ?_, ?_, hy.retired (hcalm _ (by decide)) 2, hy.moves (hcalm _ (by decide)) 2⟩
    · rw [hacc, if_pos rfl, accOfImage_eq]
    · rw [hacc, if_neg (by simpa using hn)]
    · rw [getG_retire, getG_setAcc, getG_doUpds_quiet quiet_loading (nodup_updList _)]
    · rw [tst_retire, hy.page oTST (by decide) (hcalm _ (by decide))]

/-- MACM of two plain words (R99). -/
theorem runs_macm {op : MacOp} {an : Ar} {ga gb : Gr} {pa pb : Nat} (fp : BitVec 2) (mj mk : Fin 8) (hop : op ≠ .absent) (hne : ga ≠ gb)
    (ha : PlainWord s t (wordVa (getG s t ga)) pa) (hb : PlainWord s t (wordVa (getG s t gb)) pb) :
    let p := sw (memGet s pa) * sw (memGet s pb) * 2 ^ (if fp = 1 then 2 else 0)
    let total := if op = .mpy then p else if op = .msu then (getAcc s t an.val).toInt - p else (getAcc s t an.val).toInt + p
    let upds := [(ga, circStep (getG s t ga) 1 (reg s (pgTine t) (oM mj.val))),
                 (gb, circStep (getG s t gb) 1 (reg s (pgTine t) (oM mk.val)))]
    Runs (.macm t op fp an ga gb mj mk) s fun s1 => Waiting t s s1 ∧ Runs (.loadDataReturn t headData) s1 fun s2 =>
      (getAcc s2 t an.val).toInt = clamp 96 total ∧ KeepsAcc t [an.val] s s2 ∧
      (∀ i, getG s2 t i = afterUpds s t upds i) ∧
      Retired t ([oTST, oSATA an.val] ++ upds.map fun u => gOff s t u.1) s s2 ∧ Moves t 2 s s2 := by
  intro p total upds
  have hwords : List.Forall₂ (PlainWord s t) [wordVa (getG s t ga), wordVa (getG s t gb)] [pa, pb] := .cons ha (.cons hb .nil)
  -- the state with the address registers moved, and the one term that the accumulator takes
  let x := doUpds t upds (loading t (.macm op fp an) [pa, pb] [wordVa (getG s t ga), wordVa (getG s t gb)] upds 2 s)
  let term : Term := { op := op, an := an, p := sw (memGet s pa) * sw (memGet s pb) * (2 ^ psDual fp.toNat : Nat) }
  have hx : Touches t (upds.map fun u => gOff s t u.1) s x := touches_doUpds_quiet quiet_loading
  have hnodup : (upds.map Prod.fst).Nodup := by simp [upds, hne]
  have htargets : ∀ n, n ∈ macTargets [term] ↔ n = an.val := fun n => by
    have han := an.isLt
    rw [mem_macTargets]
    simp only [List.mem_singleton, exists_eq_left, term]
    omega
  have htotal : macTotal x t an.val [term] = total := by
    have hp : term.p = p := by
      simp only [term, p, psDual_toNat]
      push_cast
      rfl
    have hacc : getAcc x t an.val = getAcc s t an.val := getAcc_doUpds_quiet quiet_loading _
    rw [macTotal_eq, hacc]
    by_cases hmpy : op = .mpy
    · simp [termShare, term, total, hmpy, ← hp]
    · by_cases hmsu : op = .msu <;> simp [termShare, hp, show term.op = op from rfl, show term.an = an.val from rfl, total, hmpy, hmsu]
      ring
  have hcalm : ∀ o, o < 0x2D0 → o ∉ upds.map fun u => gOff s t u.1 := fun o ho => notMem_upds ho upds s t
  refine runs_load (k := .macm op fp an) (groups := [[pa], [pb]]) (vas := [wordVa (getG s t ga), wordVa (getG s t gb)])
    (upds := upds) (len := 2) (z := accStep t 2 (fun n => macTotal x t n [term]) (macTargets [term]) x) hready hsb
    hchain rfl ?_ (by simp) ?_ rfl rfl (window_retire 2 ((touches_accStep t _ _ x).window (hx.window (window_of_ready hready)))) ?_
  · rw [if_neg (by simp [hne, hop])]
    dsimp only
    rw [xlatWords_plain hwords]
    rfl
  · simp only [List.flatten_cons, List.flatten_nil, List.cons_append, List.nil_append, List.forall_mem_cons]
    exact ⟨⟨_, ha⟩, ⟨_, hb⟩, by simp⟩
  · have hret := retired_accStep t 2 (fun n => macTotal x t n [term]) x (l := macTargets [term]) fun n hn => (mem_macTargets.1 hn).1
    refine ⟨?_, fun n hn => ?_, fun i => ?_, (hret.after hx (hcalm _ (by decide))).mono fun o ho => .inl ?_,
      (moves_accStep t 2 _ x).after hx (hcalm _ (by decide))⟩
    · rw [getAcc_accStep, if_pos ((htargets _).2 rfl), sat96_toInt, htotal]
    · rw [getAcc_accStep, if_neg (by rw [htargets]; simpa using hn), getAcc_doUpds_quiet quiet_loading]
    · rw [getG_accStep, getG_doUpds_quiet quiet_loading hnodup]
    · obtain ho | ho := List.mem_append.1 ho
      · exact List.mem_append_right _ ho
      · obtain rfl | ho := List.mem_cons.1 ho
        · simp
        · obtain ⟨n, hn, rfl⟩ := List.mem_map.1 ho
          simp [(htargets n).1 hn]

/-- SWAP with a plain word (R184): the rest is a load from the state with the new word in memory. -/
theorem runs_swap {l : LS} {pa : Nat} (hok : lsOk l = true) (hplain : PlainWord s t (wordVa (lsEa s t l).1) pa) :
    Runs (.swap t l) s fun s1 => Waiting t s s1 ∧ Runs (.loadDataReturn t headData) s1 fun s2 =>
      memGet s2 pa = getG s t l.gt ∧ (∀ a, a ≠ pa → memGet s2 a = memGet s a) ∧
      Loaded t l.gt (memGet s pa) (updList (lsEa s t l).2) 2 { s with mem := s2.mem } s2 := by
  have hwords : List.Forall₂ (PlainWord s t) [wordVa (lsEa s t l).1] [pa] := .cons hplain .nil
  have hlow : pa < 0x08000000 := by
    have := plainPa_lt hplain.region
    omega
  let m := Tbl.set memDflt s.mem pa (getG s t l.gt)
  let y := loading t (.swap l.gt (getG s t l.gt)) [pa] [wordVa (lsEa s t l).1] (updList (lsEa s t l).2) 2 { s with mem := m }
  have hput : memPut pa (getG s t l.gt) (loading t (.swap l.gt (getG s t l.gt)) [pa] [wordVa (lsEa s t l).1]
      (updList (lsEa s t l).2) 2 s) = y := memPut_clean hlow _ hplain.clean
  have hloaded := retire_loaded (s := { s with mem := m }) (a := y) (t := t) quiet_loading l.gt (memGet s pa)
    (nodup_updList (lsEa s t l).2) 2
  have hmem : (retire t 2 (setG t l.gt (memGet s pa) (doUpds t (updList (lsEa s t l).2) y))).mem = m := by
    rw [hloaded.retired.only.fields]
  have hwindow : (tineAt (setG t l.gt (memGet s pa) (doUpds t (updList (lsEa s t l).2) y)) t).window = [] := by
    have hy : (tineAt y t).window = [] := (quiet_loading.toTouches).window (window_of_ready hready)
    exact (touches_setG t _ _ _).window ((touches_doUpds t _ y).window hy)
  refine runs_load (k := .swap l.gt (getG s t l.gt)) (groups := [[pa]]) (vas := [wordVa (lsEa s t l).1])
    (upds := updList (lsEa s t l).2) (len := 2)
    (z := retire t 2 (setG t l.gt (memGet s pa) (doUpds t (updList (lsEa s t l).2) y))) hready hsb hchain rfl ?_ (by simp) ?_ rfl ?_ (window_retire 2 hwindow) ⟨?_, fun a ha => ?_, ?_⟩
  · rw [if_pos hok]
    dsimp only
    rw [xlatWords_plain hwords]
  · simpa using ⟨_, hplain⟩
  · rw [← hput]
    rfl
  · rw [memGet, hmem, Tbl.get_set_same]
  · rw [memGet, hmem, Tbl.get_set_ne _ _ _ ha, memGet]
  · rw [hmem]
    exact hloaded

end

/-- Settles O11: each load waits, returns with its plain words, and ends as its kind says. -/
theorem accumulatorAndExchangeLoads : Obligations.AccumulatorAndExchangeLoads := fun _ _ hready hsb hchain =>
  ⟨fun _ _ hok hplain => runs_rsa hready hsb hchain hok hplain,
    fun _ fp _ _ _ mj mk _ _ hop hne ha hb => runs_macm hready hsb hchain fp mj mk hop hne ha hb,
    fun _ _ hok hplain => runs_swap hready hsb hchain hok hplain⟩

end Sys2Proof.Machine
end

section
/-! SUPPORT. Stores (R37, R92, R120, R124): how a store of plain words enters the store buffer, and the statement about the stores. -/

namespace Sys2Proof.Machine

/-- The state with entries put at the end of a store buffer (R120). -/
def buffered (t : TineNo) (ents : List StoreEnt) (s : State) : State := modTine t (fun x => { x with sb := x.sb ++ ents }) s

section
variable {s : State} {t : TineNo}

theorem tineAt_buffered (t : TineNo) (ents : List StoreEnt) (s : State) :
    tineAt (buffered t ents s) t = { tineAt s t with sb := (tineAt s t).sb ++ ents } := tineAt_modTine_same ..

theorem getG_buffered (t : TineNo) (ents : List StoreEnt) (s : State) (i : Gr) : getG (buffered t ents s) t i = getG s t i := by
  unfold getG bankOff tLvl regF
  rw [tineAt_buffered]
  rfl

theorem getAcc_buffered (t : TineNo) (ents : List StoreEnt) (s : State) (n : Nat) : getAcc (buffered t ents s) t n = getAcc s t n := by
  unfold getAcc
  rw [tineAt_buffered]

/-- A store at a tine with nothing in flight enters the buffer, and the rest is its retirement. -/
theorem storeRetire_idle (hflight : (tineAt s t).flight = none) (ents : List StoreEnt) (upds : List (Gr × Word)) (len : Nat) :
    storeRetire t ents upds len none s = retire t len (doUpds t upds (buffered t ents s)) := by
  have hsame : modTine t (fun x => { x with sb := x.sb ++ ents, flight := none }) s = buffered t ents s := by
    unfold buffered modTine
    rw [← hflight]
  unfold storeRetire
  dsimp only
  rw [hsame]

/-- The retirement of a store from the state with its entries buffered. -/
theorem stored_retire (t : TineNo) (ents : List StoreEnt) {upds : List (Gr × Word)} (hnodup : (upds.map Prod.fst).Nodup) (len : Nat)
    (s : State) : Stored t ents upds len s (retire t len (doUpds t upds (buffered t ents s))) := by
  have hupds : Touches t (upds.map fun u => gOff s t u.1) (buffered t ents s) (doUpds t upds (buffered t ents s)) :=
    touches_doUpds t upds (buffered t ents s)
  have hcalm : ∀ o, o < 0x2D0 → o ∉ upds.map fun u => gOff s t u.1 := fun o ho => notMem_upds ho upds s t
  have hret := hupds.retired (hcalm oRETIRED (by decide)) len
  have hpc : (tineAt (buffered t ents s) t).pc = (tineAt s t).pc := by rw [tineAt_buffered]
  refine ⟨?_, fun i => ?_, fun n _ => ?_, ?_, hret, fun hstraight => ?_⟩
  · rw [hret.buffer, tineAt_buffered]
  · rw [getG_retire, getG_doUpds t hnodup]
    exact afterUpds_congr (getG_buffered t ents s) upds i
  · rw [getAcc_retire, getAcc_doUpds, getAcc_buffered]
  · rw [tst_retire, hupds.page oTST (by decide) (hcalm oTST (by decide))]
    rfl
  · rw [hupds.moves (hcalm oLSTAT (by decide)) len hstraight, hpc]

/-- An entry that lies in trays or Shed with all its words. -/
def PlainEnt (e : StoreEnt) : Prop := PlainPa e.pa ∧ ∀ d ∈ dataWords e.data, d.1 ≤ 1

theorem plainEnt_word {pa : Nat} (h : PlainPa pa) (v : Word) : PlainEnt (entFor s t pa (.word v)) :=
  ⟨h, by simp [entFor, dataWords]⟩

theorem plainEnt_dbl {pa : Nat} (h : PlainPa pa) (lo hi : Word) : PlainEnt (entFor s t pa (.dbl lo hi)) :=
  ⟨h, by simp [entFor, dataWords]⟩

section
variable {ents : List StoreEnt} (hready : Ready s t) (hroom : (tineAt s t).sb.length + ents.length ≤ 8)
include hready hroom

/-- With room in the buffer a store whose checks passed retires (R120). -/
theorem stored_storeStart {upds : List (Gr × Word)} (hnodup : (upds.map Prod.fst).Nodup) (len : Nat) :
    Stored t ents upds len s (storeStart t ents upds len none s) := by
  unfold storeStart
  rw [if_pos hroom, storeRetire_idle (flight_of_ready hready)]
  exact stored_retire t ents hnodup len s

/-- Trays and Shed hold no request register, so a store to them is no checkpoint request (R410). -/
theorem stored_storeGo {upds : List (Gr × Word)} (hlow : ∀ e ∈ ents, PlainEnt e)
    (hnodup : (upds.map Prod.fst).Nodup) (len : Nat) : Stored t ents upds len s (storeGo t ents upds len s) := by
  have hnone : (entWords ents).find? (fun e => decide (e.1 = pageAddr (pgTine t) oCKGO)) = none := by
    rw [List.find?_eq_none]
    intro w hw
    obtain ⟨ws, hws, hw⟩ := List.mem_flatten.1 hw
    obtain ⟨e, he, rfl⟩ := List.mem_map.1 hws
    obtain ⟨d, hd, rfl⟩ := List.mem_map.1 hw
    have hpa := plainPa_lt (hlow e he).1
    have hle := (hlow e he).2 d hd
    rw [decide_eq_true_eq, pageAddr]
    omega
  unfold storeGo
  rw [hnone]
  exact stored_storeStart hready hroom hnodup len

end

/-! ## Words, half-words, double words and images -/

/-- Both halves of a double word that are plain words pass their checks (R124). -/
theorem dwordCheck_plain {x p0 p1 : Nat} (h0 : PlainWord s t x p0) (h1 : PlainWord s t (vaPlus x 1) p1) (store : Bool) :
    dwordCheck t store x s = (.both p0 p1, s) := by
  have hw0 : List.Forall₂ (PlainWord s t) [x] [p0] := .cons h0 .nil
  have hw1 : List.Forall₂ (PlainWord s t) [vaPlus x 1] [p1] := .cons h1 .nil
  unfold dwordCheck
  dsimp only
  rw [xlatWords_plain hw0]
  dsimp only
  rw [xlatWords_plain hw1]
  rfl

section
variable (hready : Ready s t)
include hready

/-- A word store (R120). -/
theorem stored_storeWord (hroom : (tineAt s t).sb.length < 8) {ea : Word} {pa : Nat} (hplain : PlainWord s t (wordVa ea) pa) (v : Word)
    {upds : List (Gr × Word)} (hnodup : (upds.map Prod.fst).Nodup) (len : Nat) :
    Stored t [entFor s t pa (.word v)] upds len s (storeWord t v ea upds len s) := by
  have hwords : List.Forall₂ (PlainWord s t) [wordVa ea] [pa] := .cons hplain .nil
  unfold storeWord
  rw [xlatWords_plain hwords]
  exact stored_storeGo (ents := [entFor s t pa (.word v)]) hready hroom (by simpa using plainEnt_word hplain.region v) hnodup len

/-- STH (R92, R482). -/
theorem runs_sth {l : LS} {pa : Nat} (hok : lsOk l = true) (hroom : (tineAt s t).sb.length < 8)
    (hplain : PlainWord s t (halfVa (lsEa s t l).1) pa) :
    Runs (.sth t l) s (Stored t [entFor s t pa (.half (bit (lsEa s t l).1 0) ((getG s t l.gt).extractLsb' 0 20))]
      (updList (lsEa s t l).2) 2 s) := by
  have hwords : List.Forall₂ (PlainWord s t) [halfVa (lsEa s t l).1] [pa] := .cons hplain .nil
  refine runs_of_ready hready rfl ?_
  rw [if_pos hok]
  dsimp only
  rw [xlatWords_plain hwords]
  exact stored_storeStart (ents := [entFor s t pa (.half (bit (lsEa s t l).1 0) ((getG s t l.gt).extractLsb' 0 20))]) hready hroom
    (nodup_updList _) 2

/-- STD (R124): an even address takes one entry, an odd one two. -/
theorem runs_std {l : LS} {p0 p1 : Nat} (hok : dwordOk l false = true) (h0 : PlainWord s t (wordVa (lsEa s t l).1) p0)
    (h1 : PlainWord s t (vaPlus (wordVa (lsEa s t l).1) 1) p1) :
    let lo := getG s t l.gt
    let hi := getG s t (gtNext l)
    (wordVa (lsEa s t l).1 % 2 = 0 → (tineAt s t).sb.length < 8 →
      Runs (.std t l) s (Stored t [entFor s t p0 (.dbl lo hi)] (updList (lsEa s t l).2) 2 s)) ∧
    (wordVa (lsEa s t l).1 % 2 = 1 → (tineAt s t).sb.length < 7 →
      Runs (.std t l) s (Stored t [entFor s t p0 (.word lo), entFor s t p1 (.word hi)] (updList (lsEa s t l).2) 2 s)) := by
  intro lo hi
  have hexec : exec (.std t l) s = .next (if wordVa (lsEa s t l).1 % 2 = 1 then
      storeStart t [entFor s t p0 (.word lo), entFor s t p1 (.word hi)] (updList (lsEa s t l).2) 2 none s
      else storeGo t [entFor s t p0 (.dbl lo hi)] (updList (lsEa s t l).2) 2 s) := by
    rw [exec, execStd]
    dsimp only
    rw [issueDword, hready.1, hready.2, hok, dwordCheck_plain h0 h1]
    rfl
  refine ⟨fun heven hroom => ⟨_, hexec, ?_⟩, fun hodd hroom => ⟨_, hexec, ?_⟩⟩
  · rw [if_neg (by omega)]
    exact stored_storeGo (ents := [entFor s t p0 (.dbl lo hi)]) hready hroom (by simpa using plainEnt_dbl h0.region lo hi)
      (nodup_updList _) 2
  · rw [if_pos hodd]
    exact stored_storeStart (ents := [entFor s t p0 (.word lo), entFor s t p1 (.word hi)]) hready
      (Nat.succ_le_succ hroom) (nodup_updList _) 2

/-- SVA of an accumulator to three plain words (R37): the double word stands at the even address. -/
theorem runs_sva {l : LS} {pa : Nat → Nat} (hok : imageOk l = true) (hroom : (tineAt s t).sb.length < 7)
    (hplain : ∀ k, k < 3 → PlainWord s t (vaPlus (wordVa (lsEa s t l).1) k) (pa k)) :
    let a := getAcc s t l.gt.val
    let w0 : Word := a.extractLsb' 0 40
    let w1 : Word := a.extractLsb' 40 40
    let w2 : Word := (a.extractLsb' 80 16).signExtend 40
    Runs (.sva t l) s (Stored t
      (if wordVa (lsEa s t l).1 % 2 = 0 then [entFor s t (pa 0) (.dbl w0 w1), entFor s t (pa 2) (.word w2)]
       else [entFor s t (pa 0) (.word w0), entFor s t (pa 1) (.dbl w1 w2)]) (updList (lsEa s t l).2) 2 s) := by
  intro a w0 w1 w2
  have h0 := (hplain 0 (by decide)).region
  have h1 := (hplain 1 (by decide)).region
  have h2 := (hplain 2 (by decide)).region
  refine runs_of_ready hready rfl ?_
  rw [if_pos hok]
  dsimp only
  rw [xlatWords_plain (forall₂_imageVas hplain)]
  refine stored_storeGo (ents := if wordVa (lsEa s t l).1 % 2 = 0
    then [entFor s t (pa 0) (.dbl w0 w1), entFor s t (pa 2) (.word w2)]
    else [entFor s t (pa 0) (.word w0), entFor s t (pa 1) (.dbl w1 w2)]) hready ?_ ?_ (nodup_updList _) 2
  · split <;> exact Nat.succ_le_succ hroom
  · split
    · simpa using ⟨plainEnt_dbl h0 w0 w1, plainEnt_word h2 w2⟩
    · simpa using ⟨plainEnt_word h0 w0, plainEnt_dbl h1 w1 w2⟩

end

/-- Settles O12: each store's entries pass their checks, have room, and enter the buffer as it retires. -/
theorem storesEnterTheBuffer : Obligations.StoresEnterTheBuffer := fun s t hready => by
  refine ⟨fun f pa hok hroom hplain => ?_, fun gt ga mk pa hroom hplain => ?_,
    fun l pa hok hroom hplain => runs_sth hready hok hroom hplain, fun l p0 p1 hok h0 h1 => runs_std hready hok h0 h1, fun l pa hok hroom hplain => runs_sva hready hok hroom hplain⟩
  · refine runs_of_ready hready rfl ?_
    rw [if_pos hok]
    exact stored_storeWord hready hroom hplain _ (nodup_updList _) _
  · refine runs_of_ready hready rfl ?_
    dsimp only
    rw [if_pos rfl]
    exact stored_storeWord hready hroom hplain _ (by simp) _

end

end Sys2Proof.Machine
end

section
/-! SUPPORT. The store buffer's drain (R35, R114, R120, R122, R184, R189): the write that an entry for trays or Shed makes, what leaves the
buffer and what waits for that, and the statement about STORE_BUFFER_DRAIN and FENCE. -/

namespace Sys2Proof.Machine

/-! ## The write of an entry -/

/-- The half that is written holds the new value (R35). -/
theorem extract_mergeHalf_same (old : Word) (hi : Bool) (v : BitVec 20) :
    (mergeHalf old hi v).extractLsb' (if hi then 20 else 0) 20 = v := by
  apply BitVec.eq_of_toNat_eq
  cases hi
  · exact (getF_setF_same old (lo := 0) v.toNat (by decide)).trans (Nat.mod_eq_of_lt v.isLt)
  · exact (getF_setF_same old (lo := 20) v.toNat (by decide)).trans (Nat.mod_eq_of_lt v.isLt)

/-- The other half stays. -/
theorem extract_mergeHalf_other (old : Word) (hi : Bool) (v : BitVec 20) :
    (mergeHalf old hi v).extractLsb' (if hi then 0 else 20) 20 = old.extractLsb' (if hi then 0 else 20) 20 := by
  apply BitVec.eq_of_toNat_eq
  cases hi
  · exact getF_setF_ne old v.toNat (.inr (by decide))
  · exact getF_setF_ne old v.toNat (.inl (by decide))

/-- The write of a word that holds no uncorrectable error changes memory only. -/
theorem memPut_of_clean {s : State} {pa : Nat} (hlow : pa < 0x08000000) (v : Word) (hclean : ueAt s pa = false) :
    memPut pa v s = { s with mem := (memPut pa v s).mem } := by
  rw [memPut_clean hlow v hclean]

section
variable {s : State} {t : TineNo} {e : StoreEnt} (h : CanDrain s t e)
include h

theorem plainEnt_of_canDrain : PlainEnt e := by
  obtain ⟨-, hregion, -, hdata, -, -⟩ := h
  refine ⟨hregion, ?_⟩
  split at hdata
  · next heq => simp [heq, dataWords]
  · exact hdata.elim
  · next hdbl hrun =>
    cases heq : e.data with
    | word v => simp [dataWords]
    | dbl lo hi => exact absurd heq (hdbl lo hi)
    | half hi v => simp [dataWords]
    | run ws => exact absurd heq (hrun ws)

/-- The words of an entry that may drain lie in trays or Shed, so none of them waits at a mailbox. -/
theorem withholds_canDrain : withholds s (.store t e.walled e.sup) e.pa e.data = none := by
  obtain ⟨hplain, hoff⟩ := plainEnt_of_canDrain h
  have hpa := plainPa_lt hplain
  unfold withholds
  rw [if_neg (by simp [whoLocal])]
  refine List.findSome?_eq_none_iff.2 fun d hd => ?_
  have hle := hoff d hd
  rw [putMbox_low (by omega)]

theorem memWrite_canDrain (src : Nat) : memWrite src e.pa e.data .ok s = (.done, memStore e.pa e.data s) := by
  obtain ⟨-, hregion, hclean, hdata, -, -⟩ := h
  have hpa : e.pa < 0x08000000 := by
    have := plainPa_lt hregion
    omega
  unfold memWrite
  rw [if_neg (by decide)]
  cases heq : e.data with
  | word v => simp [wholeHalf, needsMerge, memCode_low hpa]
  | dbl lo hi => simp [wholeHalf, needsMerge, memCode_low hpa]
  | half hi v => simp [wholeHalf, needsMerge, memRead, hclean]
  | run ws =>
    rw [heq] at hdata
    exact hdata.elim

theorem physWrite_canDrain : physWrite (.store t e.walled e.sup) 0 e.pa e.data .ok s = (.done, memStore e.pa e.data s) := by
  have hwrite := memWrite_canDrain h (whoSrc (.store t e.walled e.sup))
  have hwithholds := withholds_canDrain h
  obtain ⟨-, hregion, -, -, hfree, hup⟩ := h
  have hlow := ownPa_low (pa := e.pa) (by have := plainPa_lt hregion; omega) s
  unfold physWrite
  rw [hlow]
  dsimp only
  rw [hfree, hup, hwithholds]
  obtain ⟨u, o, hreg⟩ | ⟨b, hreg⟩ := hregion <;> rw [hreg] <;> exact hwrite

/-- It changes memory and nothing else. -/
theorem memStore_canDrain : memStore e.pa e.data s = { s with mem := (memStore e.pa e.data s).mem } := by
  obtain ⟨-, hregion, hclean, hdata, -, -⟩ := h
  have hpa := plainPa_lt hregion
  cases heq : e.data with
  | word v => exact memPut_of_clean (by omega) v hclean
  | half hi v => exact memPut_of_clean (by omega) _ hclean
  | dbl lo hi =>
    rw [heq] at hdata
    have hlo := memPut_of_clean (by omega) lo hclean
    have hclean' : ueAt (memPut e.pa lo s) (e.pa + 1) = false := by
      rw [hlo]
      exact hdata.2
    exact (memPut_of_clean (by omega) hi hclean').trans
      (congrArg (fun x : State => { x with mem := (memPut (e.pa + 1) hi (memPut e.pa lo s)).mem }) hlo)
  | run ws =>
    rw [heq] at hdata
    exact hdata.elim

/-- The entry's own words are in memory, and no other word has changed. -/
theorem drained_memStore {s' : State} (hmem : s'.mem = (memStore e.pa e.data s).mem) : Drained s e s' := by
  have hget : ∀ a, memGet s' a = memGet (memStore e.pa e.data s) a := fun a => by rw [memGet, hmem, memGet]
  obtain ⟨-, -, -, hdata, -, -⟩ := h
  unfold Drained
  simp only [hget]
  cases heq : e.data with
  | word v => exact ⟨memGet_memPut_same s e.pa v, fun a ha => memGet_memPut_ne s v ha⟩
  | dbl lo hi =>
    refine ⟨?_, memGet_memPut_same _ (e.pa + 1) hi, fun a h0 h1 => ?_⟩
    · exact (memGet_memPut_ne _ hi (by omega)).trans (memGet_memPut_same s e.pa lo)
    · exact (memGet_memPut_ne _ hi h1).trans (memGet_memPut_ne s lo h0)
  | half hi v =>
    have hput : memGet (memPut e.pa (mergeHalf (memGet s e.pa) hi v) s) e.pa = mergeHalf (memGet s e.pa) hi v := memGet_memPut_same ..
    refine ⟨?_, ?_, fun a ha => memGet_memPut_ne s _ ha⟩
    · dsimp only [memStore]
      rw [hput, extract_mergeHalf_same]
    · dsimp only [memStore]
      rw [hput, extract_mergeHalf_other]
  | run ws =>
    rw [heq] at hdata
    exact hdata.elim

end

/-! ## The entry leaves the buffer -/

/-- The state in which the oldest entry has been written and has left the buffer. -/
def popped (t : TineNo) (e : StoreEnt) (s : State) : State :=
  modTine t (fun x => { x with sb := x.sb.drop 1 }) { s with mem := (memStore e.pa e.data s).mem }

section
variable {s : State} {t : TineNo} {e : StoreEnt} {rest : List StoreEnt} (hsb : (tineAt s t).sb = e :: rest)
include hsb

theorem tineAt_popped : tineAt (popped t e s) t = { tineAt s t with sb := rest } := by
  have htine : tineAt (popped t e s) t = { tineAt s t with sb := (tineAt s t).sb.drop 1 } := tineAt_modTine_same ..
  rw [htine, hsb]
  rfl

theorem drainOldest_canDrain (h : CanDrain s t e) : drainOldest t .ok s = storeNext t (popped t e s) := by
  unfold drainOldest
  rw [hsb]
  dsimp only
  rw [if_neg (by rw [h.1]; decide), physWrite_canDrain h]
  dsimp only
  rw [memStore_canDrain h]
  rfl

/-- With nothing in flight, or with a FENCE before more entries, the drain ends there. -/
theorem storeNext_popped (h : (tineAt s t).flight = none ∨ ((tineAt s t).flight = some .fence ∧ rest ≠ [])) :
    storeNext t (popped t e s) = popped t e s := by
  unfold storeNext
  rw [tineAt_popped hsb]
  obtain hflight | ⟨hflight, hrest⟩ := h
  · simp [hflight]
  · simp [hflight, hrest]

/-- The last entry under a FENCE retires it (R122). -/
theorem storeNext_popped_fence (hflight : (tineAt s t).flight = some .fence) (hdrain : (tineAt s t).drain = []) (hrest : rest = []) :
    storeNext t (popped t e s) = retire t 1 (popped t e s) := by
  unfold storeNext
  rw [tineAt_popped hsb]
  simp [hflight, hdrain, hrest]

theorem runs_drain (hwindow : (tineAt s t).window = []) (h : CanDrain s t e)
    (hflight : (tineAt s t).flight = none ∨ ((tineAt s t).flight = some .fence ∧ rest ≠ [])) :
    Runs (.storeBufferDrain t .ok) s fun s' =>
      s' = { s with tines := s'.tines, mem := s'.mem } ∧
      (∀ u, u ≠ t.val → tineAt s' u = tineAt s u) ∧ tineAt s' t = { tineAt s t with sb := rest } ∧ Drained s e s' := by
  have hgo : windowGo t (drainOldest t .ok s) = popped t e s := by
    rw [drainOldest_canDrain hsb h, storeNext_popped hsb hflight, windowGo_of_empty (by rw [tineAt_popped hsb]; exact hwindow)]
  exact ⟨popped t e s, congrArg _ hgo, rfl, fun u hu => tineAt_modTine_ne _ _ hu, tineAt_popped hsb, drained_memStore h rfl⟩

theorem runs_drain_fence (hwindow : (tineAt s t).window = []) (h : CanDrain s t e) (hflight : (tineAt s t).flight = some .fence)
    (hdrain : (tineAt s t).drain = []) (hrest : rest = []) :
    Runs (.storeBufferDrain t .ok) s fun s' =>
      Drained s e s' ∧ (tineAt s' t).sb = [] ∧ (tineAt s' t).flight = none ∧ KeepsG t [] s s' ∧ KeepsAcc t [] s s' ∧
      reg s' (pgTine t) oRETIRED = reg s (pgTine t) oRETIRED + 1 ∧ Moves t 1 s s' := by
  have htine := tineAt_popped hsb
  have hgo : windowGo t (drainOldest t .ok s) = retire t 1 (popped t e s) := by
    rw [drainOldest_canDrain hsb h, storeNext_popped_fence hsb hflight hdrain hrest,
      windowGo_of_empty (window_retire 1 (by rw [htine]; exact hwindow))]
  obtain ⟨-, -, hret, hmoves⟩ := retire_plain t 1 (popped t e s)
  refine ⟨retire t 1 (popped t e s), congrArg _ hgo, drained_memStore h ?_, ?_, flight_retire .., fun i _ => ?_, fun n _ => ?_,
    hret.count, fun hstraight => ?_⟩
  · rw [hret.only.fields]
    rfl
  · rw [hret.buffer, htine, hrest]
  · rw [getG_retire]
    unfold getG bankOff tLvl regF
    rw [htine]
    rfl
  · rw [getAcc_retire]
    unfold getAcc
    rw [htine]
  · rw [hmoves hstraight, htine]

end

/-- FENCE (R122). -/
theorem runs_fence {s : State} {t : TineNo} (hready : Ready s t) :
    ((tineAt s t).sb = [] → Runs (.fence t) s fun s' =>
      Retired t [] s s' ∧ KeepsG t [] s s' ∧ KeepsAcc t [] s s' ∧ Moves t 1 s s') ∧
    ((tineAt s t).sb ≠ [] → Runs (.fence t) s fun s' =>
      (tineAt s' t).flight = some .fence ∧ s' = { s with tines := s'.tines } ∧ (tineAt s' t).sb = (tineAt s t).sb) := by
  refine ⟨fun hsb => runs_of_ready hready rfl ?_, fun hsb => runs_of_ready hready rfl ?_⟩
  · rw [if_pos (by rw [hsb]; rfl)]
    obtain ⟨hg, hacc, hret, hmoves⟩ := retire_plain t 1 s
    exact ⟨hret, hg, hacc, hmoves⟩
  · rw [if_neg (by simpa using hsb), tineAt_modTine_same]
    exact ⟨rfl, rfl, rfl⟩

/-- Settles O13: the entry's write changes its own words, and a FENCE waits for the last entry. -/
theorem drainWritesMemoryInOrder : Obligations.DrainWritesMemoryInOrder :=
  ⟨fun _ _ _ _ hsb hwindow hcan => ⟨runs_drain hsb hwindow hcan, runs_drain_fence hsb hwindow hcan⟩,
    fun _ _ hready => runs_fence hready⟩

end Sys2Proof.Machine
end

section
/-! SUPPORT. The system instructions (R48, R51, R84, R85, R144, R148, R156, R167, R430): opening a cloche, retirements that a fault or a halt
follows, sleeping, the control registers, and the statement about them. -/

namespace Sys2Proof.Machine

section
variable {s : State} {t : TineNo}

/-! ## CLOCHE -/

/-- The instruction that opens a cloche is not counted in it (R156). -/
theorem side_retireEnd_opener (t : Nat) (s : State) : Side t [oRETIRED, oSCNT] s (retireEnd t true s) := by
  unfold retireEnd
  extract_lets s1 n s2
  have h1 : Side t [oRETIRED] s s1 := ((side_setReg t oRETIRED _ s (by decide)).trans (side_alive t _)).mono (by simp)
  have h2 := side_modTine t (fun x => { x with flight := none, halfdone := false }) s1 fun _ => ⟨rfl, rfl, rfl, rfl⟩
  exact ((h1.trans h2).trans ((side_haltCheck t _).trans (side_sieveUpdate t _))).mono (by simp)

/-- G registers stay while only registers that a retirement changes do. -/
theorem keepsG_of_side {t : Nat} {offs : List Nat} {s a : State} (h : Side t offs s a)
    (hoffs : ∀ o ∈ offs, o ∈ loopOffs ++ [oRETIRED, oCLOCHE, oSCNT]) : KeepsG t [] s a := fun i _ =>
  getG_of_side h (lvl_of_tst (h.page oTST (by decide) fun hm => absurd (hoffs _ hm) (by decide))) i fun _ hk hm =>
    bank_notMem s t hk (List.mem_append_right _ (hoffs _ hm))

theorem runs_cloche (hready : Ready s t) (n : BitVec 6) (hclosed : regF s (pgTine t) oCLOCHE 0 7 = 0) :
    Runs (.cloche t n) s fun s' =>
      regF s' (pgTine t) oCLOCHE 0 7 = n.toNat + 1 ∧ Retired t [] s s' ∧ KeepsG t [] s s' ∧ Moves t 1 s s' := by
  let a := setReg (pgTine t) oCLOCHE (wd (n.toNat + 1)) s
  have ha : Side t [oCLOCHE] s a := side_setReg t oCLOCHE _ s (by decide)
  have hadvance := side_advance t 1 a
  have hall := (ha.trans hadvance).trans (side_retireEnd_opener t (advance t 1 a))
  refine runs_of_ready hready rfl ?_
  simp only [hclosed, decide_true, openCloche, if_true]
  refine ⟨?_, (retired_of_side true (ha.trans hadvance) (by decide)).mono (by decide), keepsG_of_side hall (by decide),
    fun hstraight => ?_⟩
  · rw [regF, (side_retireEnd_opener t _).page oCLOCHE (by decide) (by decide), hadvance.page oCLOCHE (by decide) (by decide),
      reg_setReg_same, getF_wd _ _ _ (by decide)]
    have hn := n.isLt
    omega
  · have hs : Straight a t := (straight_of_page (ha.page oLSTAT (by decide) (by decide))).2 hstraight
    rw [pc_retireEnd, advance_straight hs, setPc, tineAt_modTine_same]
    rfl

/-! ## SYSC, BKPT and WAIT -/

/-- What happens to a tine after its retirement, aside from its registers. -/
theorem Retired.touched {t : Nat} {offs : List Nat} {s a b : State} (h : Retired t offs s a) (k : Touches t [] a b) :
    Retired t offs s b where
  only := h.only.trans k.only
  count := (k.page oRETIRED (by decide) (by simp)).trans h.count
  page off ho hn hs := (k.page off ho (by simp)).trans (h.page off ho hn hs)
  buffer := k.sb.trans h.buffer
  caches := k.xcache.trans h.caches

theorem Moves.touched {t len : Nat} {s a b : State} (h : Moves t len s a) (k : Touches t [] a b) : Moves t len s b :=
  fun hstraight => k.pc.trans (h hstraight)

/-- A fault that is taken after the retirement of its instruction stands after it (R148). -/
theorem fault_retire {t len : Nat} {s : State} {f : FaultRec} (hf : (tineAt s t).fault = some f) (hafter : f.after = true) :
    (tineAt (retire t len s) t).fault = some f := by
  obtain ⟨p, hp⟩ := tineAt_advance t len s
  have hstill : (tineAt (advance t len s) t).fault = some f := by rw [hp]; exact hf
  have hstands : faultStands (advance t len s) t = true := by
    unfold faultStands
    rw [hstill]
    simp [hafter]
  exact (fault_retireEnd false hstands).trans hstill

theorem runs_sysc (hready : Ready s t) (code : BitVec 8) : Runs (.sysc t code) s fun s' =>
    (∃ f, (tineAt s' t).fault = some f ∧ f.cause = 0x04 ∧ f.info = wd code.toNat ∧ f.after = true) ∧
    Retired t [] s s' ∧ KeepsG t [] s s' ∧ Moves t 1 s s' := by
  let f : FaultRec := { instrFault 0x04 (wd code.toNat) with after := true }
  have hquiet := quiet_recordFault t f s
  refine runs_of_ready hready rfl ⟨⟨f, fault_retire (recordFault_of_ready hready f).1 rfl, rfl, rfl, rfl⟩, ?_, fun i _ => ?_, ?_⟩
  · exact hquiet.retired (by simp) 1
  · exact (getG_retire ..).trans (hquiet.getG i)
  · exact hquiet.moves (by simp) 1

theorem quiet_haltNow (t : Nat) (probe : Bool) (s : State) : Quiet t [] s (haltNow t probe s) :=
  .of_tine t s (fun _ => ⟨rfl, rfl, rfl, fun _ => rfl⟩) fun _ => ⟨rfl, rfl⟩

theorem halt_haltNow (t : Nat) (probe : Bool) (s : State) :
    (tineAt (haltNow t probe s) t).halt = if probe then .probe else .host := by rw [haltNow, tineAt_modTine_same]

theorem runs_bkpt (hready : Ready s t) : Runs (.bkpt t) s fun s' => Retired t [] s s' ∧ KeepsG t [] s s' ∧ Moves t 1 s s' ∧
    (grantCovers s true t = true → (tineAt s' t).halt = .probe) ∧
    (grantCovers s true t = false → grantCovers s false t = true → (tineAt s' t).halt = .host) := by
  obtain ⟨hg, -, hret, hmoves⟩ := retire_plain t 1 s
  have halted : ∀ pr, Retired t [] s (haltNow t pr (retire t 1 s)) ∧ KeepsG t [] s (haltNow t pr (retire t 1 s)) ∧
      Moves t 1 s (haltNow t pr (retire t 1 s)) := fun pr =>
    have hquiet := quiet_haltNow t pr (retire t 1 s)
    ⟨hret.touched hquiet.toTouches, fun i hi => (hquiet.getG i).trans (hg i hi), hmoves.touched hquiet.toTouches⟩
  refine runs_of_ready hready rfl ?_
  dsimp only
  unfold bkptFor
  cases hprobe : grantCovers s true t with
  | true =>
    obtain ⟨hr, hk, hm⟩ := halted true
    exact ⟨hr, hk, hm, fun _ => halt_haltNow .., by simp⟩
  | false =>
    cases hhost : grantCovers s false t with
    | true =>
      obtain ⟨hr, hk, hm⟩ := halted false
      exact ⟨hr, hk, hm, by simp, fun _ _ => halt_haltNow ..⟩
    | false => exact ⟨hret, hg, hmoves, by simp, by simp⟩

theorem runs_wait (hready : Ready s t) (hnohalt : ∀ pr, (tineAt s t).dreq ≠ .halt pr) : Runs (.wait t) s fun s' =>
    (tineAt s' t).flight = some .wait ∧ (tineAt s' t).pc = (tineAt s t).pc ∧ reg s' (pgTine t) oCLOCHE = 0 ∧ KeepsG t [] s s' ∧
    KeepsAcc t [] s s' ∧ reg s' (pgTine t) oRETIRED = reg s (pgTine t) oRETIRED ∧ OnlyTine t s s' := by
  let a := modTine t (fun x => { x with flight := some .wait }) (setReg (pgTine t) oCLOCHE 0 s)
  have ha : Side t ([oCLOCHE] ++ []) s a :=
    (side_setReg t oCLOCHE 0 s (by decide)).trans (side_modTine t _ _ fun _ => ⟨rfl, rfl, rfl, rfl⟩)
  have hall := ha.trans (side_sieveUpdate t a)
  have htine : tineAt a t = { tineAt s t with flight := some .wait } := tineAt_modTine_same ..
  obtain ⟨e, he⟩ := tineAt_sieveUpdate t a
  have hheld : haltHeld t (sieveUpdate t a) = sieveUpdate t a := by
    unfold haltHeld
    split
    · next pr hdreq =>
      rw [he, htine] at hdreq
      exact absurd hdreq (hnohalt pr)
    · rfl
  refine runs_of_ready hready rfl ?_
  rw [hheld, he, htine]
  refine ⟨rfl, rfl, ?_, keepsG_of_side hall (by decide), fun n _ => getAcc_of_side hall n,
    hall.page oRETIRED (by decide) (by decide), hall.only⟩
  rw [(side_sieveUpdate t a).page oCLOCHE (by decide) (by decide)]
  exact reg_setReg_same ..

/-! ## Control registers -/

/-- What needs the supervisor (R144). -/
theorem ctlPriv_iff (s : State) (t n : Nat) (w : Bool) : ctlPriv s t n w = true ↔
    (tS s t = false ∧ ((0x100 ≤ n ∧ n < 0x180) ∨ (0x200 ≤ n ∧ n < 0x300) ∨ (w = true ∧ n = 0x041))) := by
  simp only [ctlPriv, Bool.and_eq_true, Bool.or_eq_true, Bool.not_eq_true', decide_eq_true_eq, or_assoc]

theorem ctlPriv_free {n : Nat} (h : (n < 0x100 ∧ n ≠ 0x041) ∨ 0x300 ≤ n) (s : State) (t : Nat) (w : Bool) :
    ctlPriv s t n w = false := by
  rw [← Bool.not_eq_true, ctlPriv_iff]
  rintro ⟨-, hn | hn | ⟨-, hn⟩⟩ <;> omega

/-- An instruction without its privilege leaves its fault and nothing else. -/
theorem privFault_of_ready (hready : Ready s t) :
    (tineAt (privFault t s) t).fault.map (·.cause) = some 0x02 ∧ KeepsG t [] s (privFault t s) ∧ KeepsAcc t [] s (privFault t s) ∧
      (privFault t s).regs = s.regs := by
  obtain ⟨hfault, hrest⟩ := recordFault_of_ready hready (instrFault 0x02 (fetchAt s t (tineAt s t).pc))
  exact ⟨congrArg (Option.map _) hfault, hrest⟩

/-- MFC with its privilege (R84). -/
theorem runs_mfc (hready : Ready s t) (g : Gr) {n : BitVec 10} (hpriv : ctlPriv s t n.toNat false = false) :
    Runs (.mfc t g n) s (WroteG t g (ctlRead s t n.toNat) .none false 2 s) := by
  refine runs_of_ready hready rfl ?_
  rw [hpriv, if_neg Bool.false_ne_true]
  exact aluRetire_wroteG t g { val := ctlRead s t n.toNat, flags := .none } 2 s

/-- The number of a modulo register in MFC and MTC. -/
theorem toNat_modNo (k : Fin 8) : (BitVec.ofNat 10 (oM k.val - 0x80)).toNat = 0x48 + k.val := by
  have hk := k.isLt
  unfold oM
  rw [BitVec.toNat_ofNat]
  omega

theorem ctlPriv_modNo (k : Fin 8) (s : State) (t : Nat) (w : Bool) :
    ctlPriv s t (BitVec.ofNat 10 (oM k.val - 0x80)).toNat w = false := by
  have hk := k.isLt
  rw [toNat_modNo]
  exact ctlPriv_free (by omega) s t w

theorem ctlRead_modNo (k : Fin 8) (s : State) (t : Nat) :
    ctlRead s t (BitVec.ofNat 10 (oM k.val - 0x80)).toNat = reg s (pgTine t) (oM k.val) := by
  fin_cases k <;> rfl

theorem ctlWrite_modNo (k : Fin 8) (v : Word) (s : State) (t : TineNo) :
    ctlWrite t (BitVec.ofNat 10 (oM k.val - 0x80)).toNat v s =
      setReg (pgTine t) (oM k.val) (writeBySpec (rsRw 0x1FFFFFF 0) (reg s (pgTine t) (oM k.val)) v) s := by
  fin_cases k <;> rfl

/-- A plain register takes the bits that it has (R11). -/
theorem getF_writeBySpec_rsRw (old v : Word) {n : Nat} (hn : n ≤ 40) :
    getF (writeBySpec (rsRw (2 ^ n - 1) 0) old v) 0 n = getF v 0 n := by
  apply Nat.eq_of_testBit_eq
  intro i
  rw [testBit_getF, testBit_getF]
  by_cases hi : i < n
  · have h40 : i < 40 := by omega
    have hrw : bit (wd (2 ^ n - 1)) (0 + i) = true := by simp [bit_wd, hi, h40]
    have hplain : plainBit (rsRw (2 ^ n - 1) 0) old v (0 + i) = bit v (0 + i) := by
      unfold plainBit rsRw
      simp [bit_wd, hi, h40]
    rw [bit_writeBySpec _ _ _ (by omega), hplain]
  · simp [hi]

/-- MTC with its privilege to a register below the banks that no retirement changes (R85). -/
theorem runs_mtc (hready : Ready s t) (g : Gr) {n : BitVec 10} {off : Nat} {v : Word} (hpriv : ctlPriv s t n.toNat true = false)
    (hwrite : ctlWrite t n.toNat (getG s t g) s = setReg (pgTine t) off v s) (hquiet : Quiet t [off] s (setReg (pgTine t) off v s))
    (hoff : off ∉ loopOffs ++ [oRETIRED, oCLOCHE, oSCNT]) :
    Runs (.mtc t g n) s fun s' => reg s' (pgTine t) off = v ∧ Retired t [off] s s' ∧ KeepsG t [] s s' ∧ KeepsAcc t [] s s' ∧
      Moves t 2 s s' := by
  have hlow : off < 0x2D0 := hquiet.low off (by simp)
  have hcalm : ∀ o ∈ loopOffs ++ [oRETIRED, oCLOCHE, oSCNT], o ∉ [off] := fun o ho hm => hoff (List.mem_singleton.1 hm ▸ ho)
  refine runs_of_ready hready rfl ?_
  rw [hpriv, if_neg Bool.false_ne_true, hwrite]
  refine ⟨?_, hquiet.retired (hcalm _ (by decide)) 2, fun i _ => ?_, fun m _ => ?_, hquiet.moves (hcalm _ (by decide)) 2⟩
  · rw [(side_retire t 2 _).page off (by omega) hoff, reg_setReg_same]
  · exact (getG_retire ..).trans (hquiet.getG i)
  · exact (getAcc_retire ..).trans (hquiet.getAcc m)

theorem runs_mtc_modNo (hready : Ready s t) (g : Gr) (k : Fin 8) :
    Runs (.mtc t g (BitVec.ofNat 10 (oM k.val - 0x80))) s fun s' =>
      getF (reg s' (pgTine t) (oM k.val)) 0 25 = getF (getG s t g) 0 25 ∧ Retired t [oM k.val] s s' ∧ KeepsG t [] s s' ∧
      KeepsAcc t [] s s' ∧ Moves t 2 s s' := by
  have hk := k.isLt
  have hcalm : ∀ k : Fin 8, oM k.val ∉ loopOffs ++ [oRETIRED, oCLOCHE, oSCNT] := by decide
  have hquiet := Quiet.of_setReg t (writeBySpec (rsRw 0x1FFFFFF 0) (reg s (pgTine t) (oM k.val)) (getG s t g)) s
    (show oM k.val < 0x2D0 by unfold oM; omega) fun h => by unfold oM oTST at h; omega
  obtain ⟨s', hexec, hvalue, hrest⟩ := runs_mtc hready g (ctlPriv_modNo k s t true) (ctlWrite_modNo k _ s t) hquiet (hcalm k)
  refine ⟨s', hexec, ?_, hrest⟩
  rw [hvalue]
  exact getF_writeBySpec_rsRw _ _ (n := 25) (by decide)

/-! ## TST -/

/-- What MTC leaves in TST (R48, R51): flags that ones clear, condition flags, and ATE for the supervisor. -/
def tstWritten (super : Bool) (old v : Word) : Word :=
  if super then writeBySpec (tineSpec oTST) old v else setF (writeBySpec (tineSpec oTST) old v) 17 1 (getF old 17 1)

theorem ctlWrite_tst (v : Word) (s : State) (t : TineNo) :
    ctlWrite t (0x040 : BitVec 10).toNat v s = setReg (pgTine t) oTST (tstWritten (tS s t) (reg s (pgTine t) oTST) v) s := rfl

/-- The sticky flags and the writable bits of TST (Table 3-1). -/
theorem tst_masks : ∀ i < 40, bit (wd 0x16666) i = decide (i ∈ [1, 2, 5, 6, 9, 10, 13, 14, 16]) ∧
    bit (wd 0xF20000) i = decide (i = 17 ∨ (20 ≤ i ∧ i ≤ 23)) := by decide

theorem plainBit_tst (old v : Word) {i : Nat} (hi : i < 40) : plainBit (tineSpec oTST) old v i =
    (if i ∈ [1, 2, 5, 6, 9, 10, 13, 14, 16] then (bit old i && !bit v i)
     else if i = 17 ∨ (20 ≤ i ∧ i ≤ 23) then bit v i else bit old i) := by
  obtain ⟨hsticky, hrw⟩ := tst_masks i hi
  have hspec : tineSpec oTST = { rst := 0x0030000000, rw := 0xF20000, w1c := 0x16666 } := rfl
  have hclr : bit (wd 0) i = false := by simp [bit_wd]
  unfold plainBit
  rw [hspec]
  simp only [hsticky, hrw, hclr, Bool.and_false, Bool.false_eq_true, if_false]
  by_cases hmem : i ∈ [1, 2, 5, 6, 9, 10, 13, 14, 16]
  · have hnot : ¬ (i = 17 ∨ (20 ≤ i ∧ i ≤ 23)) := by
      simp only [List.mem_cons, List.not_mem_nil, or_false] at hmem
      omega
    rw [if_pos hmem, decide_eq_true hmem, decide_eq_false hnot]
    cases bit v i <;> simp
  · simp [hmem]

theorem bit_tstWritten (super : Bool) (old v : Word) {i : Nat} (hi : i < 40) : bit (tstWritten super old v) i =
    (if i ∈ [1, 2, 5, 6, 9, 10, 13, 14, 16] then (bit old i && !bit v i)
     else if 20 ≤ i ∧ i ≤ 23 then bit v i
     else if i = 17 ∧ super = true then bit v i else bit old i) := by
  have hplain := (bit_writeBySpec (tineSpec oTST) old v hi).trans (plainBit_tst old v hi)
  unfold tstWritten
  by_cases hate : i = 17
  · subst hate
    cases super
    · rw [if_neg Bool.false_ne_true, bit_setF, if_pos (by decide), testBit_getF]
      simp
    · rw [if_pos rfl, hplain]
      simp
  · have hboth : bit (if super then writeBySpec (tineSpec oTST) old v
        else setF (writeBySpec (tineSpec oTST) old v) 17 1 (getF old 17 1)) i = bit (writeBySpec (tineSpec oTST) old v) i := by
      cases super
      · exact bit_setF_ne _ _ (by omega)
      · rfl
    rw [hboth, hplain]
    simp only [hate, false_or, false_and, if_false]

/-- The level is no bit that a write changes. -/
theorem lvl_tstWritten (super : Bool) (old v : Word) : getF (tstWritten super old v) 30 5 = getF old 30 5 := by
  apply Nat.eq_of_testBit_eq
  intro i
  rw [testBit_getF, testBit_getF]
  by_cases hi : i < 5
  · have hmem : 30 + i ∉ [1, 2, 5, 6, 9, 10, 13, 14, 16] := by
      simp only [List.mem_cons, List.not_mem_nil, or_false]
      omega
    rw [bit_tstWritten super old v (by omega), if_neg hmem, if_neg (by omega), if_neg (by omega)]
  · simp [hi]

theorem runs_mtc_tst (hready : Ready s t) (g : Gr) : Runs (.mtc t g 0x040) s fun s' =>
    let old := reg s (pgTine t) oTST
    let v := getG s t g
    (∀ i, i < 40 → bit (reg s' (pgTine t) oTST) i =
      (if i ∈ [1, 2, 5, 6, 9, 10, 13, 14, 16] then (bit old i && !bit v i)
       else if 20 ≤ i ∧ i ≤ 23 then bit v i
       else if i = 17 ∧ tS s t = true then bit v i else bit old i)) ∧
    Retired t [oTST] s s' ∧ KeepsG t [] s s' ∧ KeepsAcc t [] s s' ∧ Moves t 2 s s' := by
  have hquiet := Quiet.of_setReg t (tstWritten (tS s t) (reg s (pgTine t) oTST) (getG s t g)) s (off := oTST) (by decide)
    fun _ => lvl_tstWritten ..
  obtain ⟨s', hexec, hvalue, hrest⟩ := runs_mtc hready g (n := 0x040) (ctlPriv_free (by decide) s t true) (ctlWrite_tst _ s t) hquiet
    (by decide)
  refine ⟨s', hexec, fun i hi => ?_, hrest⟩
  rw [hvalue, bit_tstWritten _ _ _ hi]

end

/-- Settles O17: each system instruction with its effect, and the three that stop without their privilege. -/
theorem systemInstructions : Obligations.SystemInstructions := fun s t hready => by
  refine ⟨runs_cloche hready, runs_sysc hready, runs_bkpt hready, runs_wait hready, fun g n hpriv => runs_mfc hready g hpriv,
    fun g n hn => ?_, fun g k => ?_, runs_mtc_modNo hready, runs_mtc_tst hready, ⟨fun g n hpriv => ?_, fun g n hpriv => ?_,
    fun up upF upD lat huser => ?_⟩, fun n w => ctlPriv_iff s t n.toNat w⟩
  · have hzero : ctlRead s t n.toNat = 0 := if_pos hn
    rw [← hzero]
    exact runs_mfc hready g (ctlPriv_free (by omega) s t false)
  · rw [← ctlRead_modNo]
    exact runs_mfc hready g (ctlPriv_modNo k s t false)
  · refine runs_of_ready hready rfl ?_
    rw [if_pos hpriv]
    exact privFault_of_ready hready
  · refine runs_of_ready hready rfl ?_
    rw [if_pos hpriv]
    exact privFault_of_ready hready
  · refine runs_of_ready hready rfl ?_
    dsimp only
    rw [huser, if_pos Bool.not_false]
    exact privFault_of_ready hready

end Sys2Proof.Machine
end

section
/-! SUPPORT. The transcendental steps (R72, Table 3-6): bounds of the rounded quotient, the square root by bits, the exact points of
LOG2 and EXP2, and the statement about the four instructions. -/

namespace Sys2Proof.Machine

/-! ## The rounded quotient (R58) -/

/-- Rounding a quotient stays within the integers that bound it. -/
theorem rheDiv_bounds {n lo hi : Int} {d : Nat} (hd : 0 < d) (hlo : lo * d ≤ n) (hhi : n ≤ hi * d) :
    lo ≤ rheDiv n d ∧ rheDiv n d ≤ hi := by
  have hpos : (0 : Int) < d := by exact_mod_cast hd
  have hfloor : lo ≤ n / d := (Int.le_ediv_iff_mul_le hpos).2 hlo
  have hsplit := Int.mul_ediv_add_emod n d
  have hrest := Int.emod_nonneg n hpos.ne'
  have htop : n / d < hi ∨ (n / d = hi ∧ n % d = 0) := by
    rcases lt_trichotomy (n / d) hi with hlt | heq | hgt
    · exact .inl hlt
    · rw [heq, mul_comm] at hsplit
      exact .inr ⟨heq, by omega⟩
    · have := Int.ediv_le_ediv hpos hhi
      rw [Int.mul_ediv_cancel _ hpos.ne'] at this
      omega
  unfold rheDiv
  dsimp only
  split_ifs <;> omega

/-- An exact quotient is not rounded. -/
theorem rheDiv_exact (q : Int) {d : Nat} (hd : 0 < d) : rheDiv (q * d) d = q := by
  have ⟨hlo, hhi⟩ := rheDiv_bounds hd (le_refl (q * d)) (le_refl (q * d))
  omega

/-! ## LOG2 -/

/-- A mantissa of 1 has a logarithm of 0. -/
theorem log2Bits_one (k acc : Nat) : log2Bits k (2 ^ 192) acc = (acc * 2 ^ k, 2 ^ 192) := by
  induction k generalizing acc with
  | zero => simp [log2Bits]
  | succ k ih =>
    have hsquare : 2 ^ 192 * 2 ^ 192 / 2 ^ 192 = 2 ^ 192 := by norm_num
    have hbelow : ¬ 2 ^ 193 ≤ 2 ^ 192 := by norm_num
    rw [log2Bits]
    simp only [hsquare, if_neg hbelow, ih]
    rw [pow_succ]
    congr 1
    ring

/-- `k` more bits follow those found. -/
theorem log2Bits_lt (k x acc : Nat) : (log2Bits k x acc).1 < (acc + 1) * 2 ^ k := by
  induction k generalizing x acc with
  | zero => simp [log2Bits]
  | succ k ih =>
    have hdouble : (2 * acc + 1 + 1) * 2 ^ k = (acc + 1) * 2 ^ (k + 1) := by ring
    have heven : (2 * acc + 1) * 2 ^ k ≤ (2 * acc + 1 + 1) * 2 ^ k := by gcongr; omega
    rw [log2Bits]
    split
    · exact hdouble ▸ ih _ _
    · exact hdouble ▸ (ih _ _).trans_le heven

/-- The logarithm of a mantissa `x` with exponent `e` on the grid of LOG2, rounded. -/
def log2At (e : Int) (x : Nat) : Int :=
  let found := log2Bits 90 x 0
  rheDiv (e * (2 ^ 91 : Nat) + (2 * found.1 + b2n (decide (found.2 ≠ 2 ^ 192)) : Nat)) (2 ^ 63)

theorem log2Grid_of_ge {n : Nat} (h : 2 ^ 38 ≤ n) : log2Grid n = log2At 0 (n * 2 ^ 154) := by
  unfold log2Grid log2At
  simp only [decide_eq_true h, if_true]

theorem log2Grid_of_lt {n : Nat} (h : n < 2 ^ 38) : log2Grid n = log2At (-1) (n * 2 ^ 155) := by
  unfold log2Grid log2At
  simp only [decide_eq_false (Nat.not_le.2 h), Bool.false_eq_true, if_false]

theorem log2At_bounds {e : Int} (he : e = 0 ∨ e = -1) (x : Nat) : -(2 ^ 28) ≤ log2At e x ∧ log2At e x ≤ 2 ^ 28 := by
  have hbits := log2Bits_lt 90 x 0
  have hsticky : b2n (decide ((log2Bits 90 x 0).2 ≠ 2 ^ 192)) ≤ 1 := by unfold b2n; split <;> decide
  unfold log2At
  dsimp only
  generalize b2n (decide ((log2Bits 90 x 0).2 ≠ 2 ^ 192)) = sticky at *
  generalize (log2Bits 90 x 0).1 = f at *
  obtain rfl | rfl := he <;> apply rheDiv_bounds (by norm_num) <;> push_cast <;> omega

theorem log2At_one (e : Int) : log2At e (2 ^ 192) = e * 2 ^ 28 := by
  have hexact : e * (2 ^ 91 : Nat) = e * 2 ^ 28 * (2 ^ 63 : Nat) := by push_cast; ring
  have hfound : 2 * (0 * 2 ^ 90) + b2n (decide (2 ^ 192 ≠ 2 ^ 192)) = 0 := by simp [b2n]
  unfold log2At
  rw [log2Bits_one]
  dsimp only
  rw [hfound, Nat.cast_zero, add_zero, hexact]
  exact rheDiv_exact _ (by norm_num)

/-- A logarithm on the domain of LOG2 lies between −1 and 1. -/
theorem log2Grid_bounds (n : Nat) : -(2 ^ 28) ≤ log2Grid n ∧ log2Grid n ≤ 2 ^ 28 := by
  rcases Nat.lt_or_ge n (2 ^ 38) with hlt | hge
  · rw [log2Grid_of_lt hlt]
    exact log2At_bounds (.inr rfl) _
  · rw [log2Grid_of_ge hge]
    exact log2At_bounds (.inl rfl) _

theorem log2Grid_one : log2Grid (2 ^ 38) = 0 := by
  rw [log2Grid_of_ge le_rfl, ← pow_add]
  exact (log2At_one 0).trans (zero_mul _)

theorem log2Grid_half : log2Grid (2 ^ 37) = -(2 ^ 28) := by
  rw [log2Grid_of_lt (by norm_num), ← pow_add]
  exact (log2At_one (-1)).trans (neg_one_mul _)

/-! ## EXP2 -/

/-- Without fraction bits no constant enters the product. -/
theorem exp2Prod_zero (k c acc : Nat) : exp2Prod k c 0 acc = acc := by
  induction k generalizing c with
  | zero => rfl
  | succ k ih =>
    rw [exp2Prod]
    simpa using ih _

/-- At an integer the power is exact. -/
theorem exp2Grid_integer {i : Nat} (hi : i ≤ 28) : exp2Grid (-(i : Int) * 2 ^ 38) = 2 ^ (28 - i) := by
  have hfraction : -(i : Int) * 2 ^ 38 % ((2 ^ 38 : Nat) : Int) = 0 := by push_cast; exact Int.mul_emod_left _ _
  have hwhole : -(i : Int) * 2 ^ 38 / ((2 ^ 38 : Nat) : Int) = -i := by push_cast; exact Int.mul_ediv_cancel _ (by norm_num)
  have hpower : 2 * 2 ^ 192 = 2 ^ (28 - i) * 2 ^ (165 + i) := by
    rw [← pow_add, show 28 - i + (165 + i) = 193 by omega]
    norm_num
  unfold exp2Grid
  simp only [hfraction, hwhole, Int.toNat_zero, exp2Prod_zero, if_true, neg_neg, Int.toNat_natCast]
  rw [hpower, Nat.cast_mul, rheDiv_exact _ (by positivity)]
  push_cast
  rfl

/-! ## RSQRT -/

/-- The root found bit by bit is the largest whose square is not above `n`. -/
theorem isqrtBits_spec {n : Nat} (k r : Nat) (hlo : r * r ≤ n) (hhi : n < (r + 2 ^ k) * (r + 2 ^ k)) :
    isqrtBits n k r * isqrtBits n k r ≤ n ∧ n < (isqrtBits n k r + 1) * (isqrtBits n k r + 1) := by
  induction k generalizing r with
  | zero => exact ⟨hlo, hhi⟩
  | succ k ih =>
    rw [isqrtBits]
    split
    · next hle => exact ih _ hle (by rwa [pow_succ, mul_two, ← add_assoc] at hhi)
    · next hgt => exact ih _ hlo (by omega)

/-- Half the root of four times the quotient, rounded, is nearest to the root itself. -/
theorem rsqrt_nearest {n y : Nat} (hlo : 2 ^ 37 ≤ n) (hhi : n < 2 ^ 39) (hy : y = (isqrt 46 (2 ^ 88 / n) + 1) / 2) :
    (2 * (y : Int) - 1) ^ 2 * n ≤ 2 ^ 88 ∧ 2 ^ 88 ≤ (2 * (y : Int) + 1) ^ 2 * n := by
  have hpos : 0 < n := by omega
  have hsmall : 2 ^ 88 / n < (0 + 2 ^ 46) * (0 + 2 ^ 46) :=
    (Nat.div_le_div_left hlo (by norm_num)).trans_lt (by norm_num)
  obtain ⟨hbelow, habove⟩ := isqrtBits_spec 46 0 (Nat.zero_le _) hsmall
  have hroot : isqrtBits (2 ^ 88 / n) 46 0 = isqrt 46 (2 ^ 88 / n) := rfl
  rw [hroot] at hbelow habove
  generalize isqrt 46 (2 ^ 88 / n) = r at *
  have hbounds : 2 * y - 1 ≤ r ∧ r ≤ 2 * y ∧ 0 < y := by
    have hr : 0 < r := by
      have hmin : 2 ^ 88 / 2 ^ 39 ≤ 2 ^ 88 / n := Nat.div_le_div_left hhi.le hpos
      rcases Nat.eq_zero_or_pos r with hzero | hr
      · rw [hzero] at habove
        omega
      · exact hr
    omega
  have hfloor := Nat.div_mul_le_self (2 ^ 88) n
  have hceil := Nat.lt_div_mul_add hpos (a := 2 ^ 88)
  constructor
  · have hle : (2 * y - 1) ^ 2 * n ≤ 2 ^ 88 := calc
      (2 * y - 1) ^ 2 * n ≤ r * r * n := by rw [sq]; gcongr <;> omega
      _ ≤ 2 ^ 88 / n * n := by gcongr
      _ ≤ 2 ^ 88 := hfloor
    have hcast : 2 * (y : Int) - 1 = ((2 * y - 1 : Nat) : Int) := by omega
    rw [hcast]
    exact_mod_cast hle
  · have hge : 2 ^ 88 ≤ (2 * y + 1) ^ 2 * n := calc
      2 ^ 88 ≤ (2 ^ 88 / n + 1) * n := by rw [add_mul, one_mul]; exact hceil.le
      _ ≤ (r + 1) * (r + 1) * n := by gcongr; omega
      _ ≤ (2 * y + 1) ^ 2 * n := by rw [sq]; gcongr <;> omega
    exact_mod_cast hge

/-! ## The statement -/

/-- An instruction of one source writes its result and retires. -/
theorem runs_aluUn {c : Instr} {op : Word → AluOut} {s : State} {t : TineNo} {gd ga : Gr} (hready : Ready s t)
    (hexec : exec c s = .next (aluUn c op t (.f gd ga) s)) :
    Runs c s (WroteG t gd (op (getG s t ga)).val (op (getG s t ga)).flags (op (getG s t ga)).gsat 2 s) :=
  runs_of_ready hready hexec (aluRetire_wroteG t gd _ 2 s)

theorem sw_bounds (a : Word) : -(2 ^ 39) ≤ sw a ∧ sw a < 2 ^ 39 := ⟨BitVec.le_toInt a, BitVec.toInt_lt⟩

/-- LOG2: the values of Table 3-6. -/
theorem runs_log2 {s : State} {t : TineNo} (hready : Ready s t) (gd ga : Gr) :
    let n := sw (getG s t ga)
    ∃ r g, Runs (.log2 t gd ga) s (WroteG t gd r .none g 2 s) ∧ (g = decide (n < 2 ^ 37)) ∧
      (n < 2 ^ 37 → r = wd 0x8000000000) ∧ (n = 2 ^ 38 → r = 0) ∧ (n = 2 ^ 37 → r = wi (-(2 ^ 38))) ∧
      (2 ^ 37 ≤ n → ∃ k : Int, r = wi (k * 2 ^ 10) ∧ -(2 ^ 28) ≤ k ∧ k ≤ 2 ^ 28) := by
  intro n
  have hruns := runs_aluUn hready (c := .log2 t gd ga) (op := aluLog2) (gd := gd) (ga := ga) rfl
  unfold aluLog2 at hruns
  dsimp only at hruns
  split at hruns
  · next hlow =>
    refine ⟨_, _, hruns, (decide_eq_true hlow).symm, fun _ => rfl, ?_, ?_, ?_⟩ <;> intro h <;> exfalso <;> omega
  · next hdomain =>
    refine ⟨_, _, hruns, (decide_eq_false hdomain).symm, fun h => absurd h hdomain, fun h => ?_, fun h => ?_, fun _ => ?_⟩
    · have hone : (sw (getG s t ga)).toNat = 2 ^ 38 := by omega
      show wi (log2Grid (sw (getG s t ga)).toNat * 2 ^ 10) = 0
      rw [hone, log2Grid_one]
      rfl
    · have hhalf : (sw (getG s t ga)).toNat = 2 ^ 37 := by omega
      show wi (log2Grid (sw (getG s t ga)).toNat * 2 ^ 10) = _
      rw [hhalf, log2Grid_half]
      norm_num
    · exact ⟨_, rfl, log2Grid_bounds _⟩

/-- EXP2: the values of Table 3-6. -/
theorem runs_exp2 {s : State} {t : TineNo} (hready : Ready s t) (gd ga : Gr) :
    let n := sw (getG s t ga)
    ∃ r g, Runs (.exp2 t gd ga) s (WroteG t gd r .none g 2 s) ∧ (g = decide (2 ^ 38 ≤ n)) ∧
      (2 ^ 38 ≤ n → r = wd 0x7FFFFFFFFF) ∧ (n = 0 → r = wi (2 ^ 38)) ∧ (n = -(2 ^ 38) → r = wi (2 ^ 37)) ∧
      (n = -(2 ^ 39) → r = wi (2 ^ 36)) ∧ (n < 2 ^ 38 → r = wd 0x7FFFFFFFFF ∨ ∃ k : Int, r = wi (k * 2 ^ 10)) := by
  intro n
  have hruns := runs_aluUn hready (c := .exp2 t gd ga) (op := aluExp2) (gd := gd) (ga := ga) rfl
  by_cases hsat : 2 ^ 38 ≤ n
  · have hop : aluExp2 (getG s t ga) = trSat 0x7FFFFFFFFF := if_pos hsat
    rw [hop] at hruns
    refine ⟨_, _, hruns, (decide_eq_true hsat).symm, fun _ => rfl, ?_, ?_, ?_, ?_⟩ <;> intro h <;> exfalso <;> omega
  · have hop : aluExp2 (getG s t ga) = trOut (if exp2Grid n = 2 ^ 29 then 0x7FFFFFFFFF else exp2Grid n * 2 ^ 10) := by
      unfold aluExp2
      dsimp only
      rw [if_neg hsat, apply_ite trOut]
    -- at an integer `-i` the power is 2^(28 - i) on the grid, below the largest
    have hinteger : ∀ i : Nat, i ≤ 2 → n = -(i : Int) * 2 ^ 38 →
        (if exp2Grid n = 2 ^ 29 then 0x7FFFFFFFFF else exp2Grid n * 2 ^ 10) = 2 ^ (38 - i) := fun i hi hn => by
      rw [hn, exp2Grid_integer (by omega)]
      interval_cases i <;> norm_num
    rw [hop] at hruns
    refine ⟨_, _, hruns, (decide_eq_false hsat).symm, fun h => absurd h hsat, fun h => ?_, fun h => ?_, fun h => ?_, fun _ => ?_⟩
    · exact congrArg wi (hinteger 0 (by decide) (by omega))
    · exact congrArg wi (hinteger 1 (by decide) (by omega))
    · exact congrArg wi (hinteger 2 (by decide) (by omega))
    · show wi (if exp2Grid n = 2 ^ 29 then 0x7FFFFFFFFF else exp2Grid n * 2 ^ 10) = _ ∨ _
      split
      · exact .inl rfl
      · exact .inr ⟨_, rfl⟩

/-- RECIP: the values of Table 3-6. -/
theorem runs_recip {s : State} {t : TineNo} (hready : Ready s t) (gd ga : Gr) :
    let n := sw (getG s t ga)
    ∃ r g, Runs (.recip t gd ga) s (WroteG t gd r .none g 2 s) ∧ (g = decide (-(2 ^ 38) < n ∧ n < 2 ^ 38)) ∧
      (0 ≤ n → n < 2 ^ 38 → r = wd 0x7FFFFFFFFF) ∧ (-(2 ^ 38) < n → n < 0 → r = wd 0x8000000000) ∧
      (2 ^ 38 ≤ n → r = wi (rheDiv (2 ^ 62) n.toNat * 2 ^ 14)) ∧
      (n ≤ -(2 ^ 38) → r = wi (-(rheDiv (2 ^ 62) (-n).toNat) * 2 ^ 14)) := by
  intro n
  have hruns := runs_aluUn hready (c := .recip t gd ga) (op := aluRecip) (gd := gd) (ga := ga) rfl
  unfold aluRecip at hruns
  dsimp only at hruns
  split at hruns
  · next hpos =>
    refine ⟨_, _, hruns, (decide_eq_true (by omega)).symm, fun _ _ => rfl, ?_, ?_, ?_⟩ <;> intros <;> exfalso <;> omega
  · split at hruns
    · next hneg =>
      refine ⟨_, _, hruns, (decide_eq_true (by omega)).symm, ?_, fun _ _ => rfl, ?_, ?_⟩ <;> intros <;> exfalso <;> omega
    · next hpos hneg =>
      refine ⟨_, _, hruns, (decide_eq_false (by omega)).symm, ?_, ?_, fun h => ?_, fun h => ?_⟩
      · intros; exfalso; omega
      · intros; exfalso; omega
      · rw [if_neg (by omega), show (sw (getG s t ga)).natAbs = n.toNat by omega]
        rfl
      · rw [if_pos (by omega), show (sw (getG s t ga)).natAbs = (-n).toNat by omega]
        rfl

/-- RSQRT: the values of Table 3-6. -/
theorem runs_rsqrt {s : State} {t : TineNo} (hready : Ready s t) (gd ga : Gr) :
    let n := sw (getG s t ga)
    ∃ r g, Runs (.rsqrt t gd ga) s (WroteG t gd r .none g 2 s) ∧ (g = decide (n < 2 ^ 37)) ∧
      (n < 0 → r = 0) ∧ (0 ≤ n → n < 2 ^ 37 → r = wd 0x7FFFFFFFFF) ∧
      (2 ^ 37 ≤ n → ∃ y : Nat, r = wd (y * 2 ^ 14) ∧ (2 * (y : Int) - 1) ^ 2 * n ≤ 2 ^ 88 ∧
        2 ^ 88 ≤ (2 * (y : Int) + 1) ^ 2 * n) := by
  intro n
  have hruns := runs_aluUn hready (c := .rsqrt t gd ga) (op := aluRsqrt) (gd := gd) (ga := ga) rfl
  unfold aluRsqrt at hruns
  dsimp only at hruns
  split at hruns
  · next hneg =>
    refine ⟨_, _, hruns, (decide_eq_true (by omega)).symm, fun _ => rfl, ?_, ?_⟩ <;> intros <;> exfalso <;> omega
  · split at hruns
    · next hneg hlow =>
      refine ⟨_, _, hruns, (decide_eq_true hlow).symm, fun h => absurd h hneg, fun _ _ => rfl, ?_⟩
      intros; exfalso; omega
    · next hneg hdomain =>
      refine ⟨_, _, hruns, (decide_eq_false hdomain).symm, fun h => absurd h hneg, fun _ h => absurd h hdomain, fun h => ?_⟩
      have hvalue : n = (n.toNat : Int) := by omega
      have hnearest := rsqrt_nearest (n := n.toNat) (by omega) (by have := sw_bounds (getG s t ga); omega) rfl
      refine ⟨_, ?_, by rw [hvalue]; exact hnearest⟩
      have hword : ∀ y : Nat, wi ((y : Int) * 2 ^ 14) = wd (y * 2 ^ 14) := fun y => by
        rw [wi, wd, ← BitVec.ofInt_natCast]
        push_cast
        rfl
      exact hword _

/-- Settles O6: each of the four writes the word that Table 3-6 gives for its source. -/
theorem transcendentalInstructions : Obligations.TranscendentalInstructions := fun _ _ gd ga hready =>
  ⟨runs_log2 hready gd ga, runs_exp2 hready gd ga, runs_recip hready gd ga, runs_rsqrt hready gd ga⟩

end Sys2Proof.Machine
end

section
/-! SUPPORT. The state after reset (R64, R224, R258, R365, R386, R448), and the statement about it. -/

namespace Sys2Proof.Machine

/-- After reset a register reads as its page's table gives it. -/
theorem reg_reset {pg off : Nat} {k : PageKind} {i : Nat} (hpg : pageKind pg = some (k, i)) (hoff : off < 1024) :
    reg State.reset pg off = wd (regSpec k i off).rst := by
  show regReset (regKey pg off) = _
  have hpage : regKey pg off / 1024 = pg := by unfold regKey; omega
  have hoffset : regKey pg off % 1024 = off := by unfold regKey; omega
  rw [regReset, hpage, hoffset, hpg]

theorem pageKind_tine (t : TineNo) : pageKind (pgTine t) = some (PageKind.tine, t.val) := by
  have ht := t.isLt
  unfold pageKind pgTine
  simp (disch := omega) only [if_neg, if_pos]
  simp

theorem pageKind_trch {c : Nat} (hc : c < 128) : pageKind (pgTrch c) = some (.trch, c / 32) := by
  have : c / 32 < 4 := by omega
  unfold pgTrch
  interval_cases c / 32 <;> rfl

theorem pageKind_hop {h : Nat} (hh : h < 256) : pageKind (pgHop h) = some (.hop, h / 128) := by
  have : h / 128 < 2 := by omega
  unfold pgHop
  interval_cases h / 128 <;> rfl

/-- A channel is IDLE after reset (R224). -/
theorem chState_reset {c : Nat} (hc : c < 128) : chState State.reset c = 0 := by
  have hbase : chBase c + 1 = 0x100 + (0x18 * (c % 32) + 1) := by unfold chBase; omega
  have hlow : ¬ 0x100 + (0x18 * (c % 32) + 1) < 8 := by omega
  have hplace : (0x18 * (c % 32) + 1) % 0x18 = 1 := by omega
  have hspec : (regSpec .trch (c / 32) (chBase c + 1)).rst = 0 := by
    rw [hbase, regSpec, if_neg hlow]
    simp only [trchSpec, Nat.le_add_right, if_true, Nat.add_sub_cancel_left, hplace]
    rfl
  show getF (reg State.reset (pgTrch c) (chBase c + 1)) 0 3 = 0
  rw [reg_reset (pageKind_trch hc) (by unfold chBase; omega), hspec]
  rfl

/-- No hopper but 254 and 255 is allocated after reset (R255, R258). -/
theorem hopSlots_reset {h : Nat} (hh : h < 254) : hopSlots State.reset h = 0 := by
  have hbase : hopBase h = 0x080 + 7 * (h % 128) := rfl
  have hlow : ¬ 0x080 + 7 * (h % 128) < 8 := by omega
  have hplain : ¬ (h / 128 = 1 ∧ 126 ≤ 7 * (h % 128) / 7) := by omega
  have hplace : 7 * (h % 128) % 7 = 0 := by omega
  have hspec : (regSpec .hop (h / 128) (hopBase h)).rst = 0 := by
    rw [hbase, regSpec, if_neg hlow]
    simp only [hopSpec, Nat.le_add_right, if_true, Nat.add_sub_cancel_left, hplace, if_neg hplain]
    rfl
  show getF (reg State.reset (pgHop h) (hopBase h)) 0 11 = 0
  rw [reg_reset (pageKind_hop (by omega)) (by unfold hopBase; omega), hspec]
  rfl

/-- Settles O60: with nothing written, each register reads as its page's table gives it. -/
theorem resetState : Obligations.ResetState :=
  have otpSound : OtpSound State.reset := ⟨Nat.zero_le 3, trivial⟩
  have tines : ∀ t : TineNo, reg State.reset (pgTine t) oDTHA = wd 0x12345679 ∧
      reg State.reset (pgTine t) oDTHB = wd 0x87654321 ∧ (tineAt State.reset t).halt ≠ .no := fun t =>
    ⟨reg_reset (pageKind_tine t) (by decide), reg_reset (pageKind_tine t) (by decide), HaltKind.noConfusion⟩
  ⟨rfl, otpSound, rfl, fun _ => rfl, rfl, rfl, rfl, fun _ hc => chState_reset hc, rfl, rfl, fun _ hh => hopSlots_reset hh,
    fun _ => rfl, rfl, rfl, tines, rfl⟩

end Sys2Proof.Machine
end

section
/-! SUPPORT. The tine timer (R172): the armed periodic timer of period 2^31, whose compare no multiple of the period takes out of the
past, and the refutation of the statement about the timer, whose frame leaves no room for the free value it then takes. -/

namespace Sys2Proof.Machine

/-- After reset tine 0's timer is armed for tick 0, which has begun, with period 2^31. -/
def halfTurnTimer : State :=
  setReg (pgTine 0) oTPER (wd (2 ^ 31)) (setReg (pgTine 0) oSSTAT (wd (2 ^ 21 + 0x10)) State.reset)

/-- Its compare is a free value (assumption 101), and so counts as one drawn. -/
theorem free_tmrFire_halfTurn : (tmrFire 0 halfTurnTimer).free = halfTurnTimer.free + 1 := by decide

/-- Refutes O21: with PER = 2^31 the compare tick after a firing at its own tick lies in the past, as does every later one, so
TIMER_COMPARE takes a free value for it (assumption 101) and advances the count of free values, which SieveFrame keeps. -/
theorem not_timerDitherAndLock : ¬ Obligations.TimerDitherAndLock := by
  intro h
  obtain ⟨-, hcompare, -⟩ := h.1 halfTurnTimer 0 .graft 0
  obtain ⟨s', hexec, -, -, -, hframe⟩ := hcompare (by decide) (by decide) (by decide)
  have hfire : exec (.timerCompare 0) halfTurnTimer = .next (tmrFire 0 halfTurnTimer) :=
    congrArg Host.Outcome.next (if_pos (by decide))
  obtain rfl : tmrFire 0 halfTurnTimer = s' := Host.Outcome.next.inj (hfire.symm.trans hexec)
  have hfree : (tmrFire 0 halfTurnTimer).free = halfTurnTimer.free := (congrArg State.free hframe.only.fields :)
  rw [free_tmrFire_halfTurn] at hfree
  exact Nat.succ_ne_self _ hfree

end Sys2Proof.Machine
end

section
/-! SUPPORT. Rows and their event routes (R287): raising the routes of a row is an arrival at tines and changes nothing else, and the
frame that the statements about rows share. -/

namespace Sys2Proof.Machine

/-! ## The event routes of a row are arrivals -/

theorem raiseUnit_arrivals {n : Nat} (hn : n < 64) (level unit : Nat) (s : State) :
    Arrivals (fun _ => True) (fun _ => True) s (raiseUnit level unit n s) := by
  unfold raiseUnit
  split
  · exact (raiseLog_arrivals hn s _).any
  · exact (raisePlot_arrivals hn s (Nat.mod_lt _ (by decide))).any
  · exact (raiseBed_arrivals hn s (Nat.mod_lt _ (by decide))).any
  · exact raiseDev_arrivals hn s
  · exact .refl _ _ s

theorem evrRaise_arrivals (r k : Nat) (s : State) : Arrivals (fun _ => True) (fun _ => True) s (evrRaise r k s) := by
  have hinput := getF_lt (reg s (pgRowc r) (0x040 + k)) 12 4
  exact raiseUnit_arrivals (by omega) _ _ s

theorem rowRoutes_arrivals (r : Nat) (s0 s : State) : Arrivals (fun _ => True) (fun _ => True) s (rowRoutes r s0 s) := by
  refine forAll_arrivals _ fun k _ x _ => ?_
  split
  · exact evrRaise_arrivals r k x
  · exact .refl _ _ x

/-- A change of a row that raises no level it watches. -/
theorem rowRoutes_of_levels {r : Nat} {s0 s : State} (h : ∀ k, k < 16 → evrLevel s r k = evrLevel s0 r k) : rowRoutes r s0 s = s := by
  suffices ∀ (l : List Nat), (∀ k ∈ l, k < 16) → ∀ x : State,
      forAll l (fun k x => if !evrLevel s0 r k && evrLevel s r k then evrRaise r k x else x) x = x from
    this _ (fun k => List.mem_range.1) s
  intro l
  induction l with
  | nil => exact fun _ x => rfl
  | cons k l ih =>
    intro hl x
    rw [forAll, h k (hl k List.mem_cons_self), Bool.not_and_self, if_neg Bool.false_ne_true]
    exact ih (fun j hj => hl j (List.mem_cons_of_mem k hj)) x

theorem withRow_arrivals (r : Nat) (f : State → State) (s : State) :
    Arrivals (fun _ => True) (fun _ => True) (f s) (withRow r f s) := rowRoutes_arrivals r s (f s)

theorem withRow_of_eq {r : Nat} {f : State → State} {s : State} (h : f s = s) : withRow r f s = s := by
  unfold withRow
  rw [h]
  exact rowRoutes_of_levels fun _ _ => rfl

/-! ## The frame of a row -/

section
variable {pgs : List Nat} {s s' s'' : State}

theorem rowFrame_refl (pgs : List Nat) (s : State) : RowFrame pgs s s :=
  ⟨rfl, rfl, rfl, rfl, fun _ _ _ _ _ _ => rfl⟩

theorem rowFrame_trans (h : RowFrame pgs s s') (h' : RowFrame pgs s' s'') : RowFrame pgs s s'' := by
  obtain ⟨hmem, hchans, hhops, hmbox, hregs⟩ := h
  obtain ⟨hmem', hchans', hhops', hmbox', hregs'⟩ := h'
  exact ⟨hmem'.trans hmem, hchans'.trans hchans, hhops'.trans hhops, hmbox'.trans hmbox,
    fun p o ho hp hpg hne => (hregs' p o ho hp hpg hne).trans (hregs p o ho hp hpg hne)⟩

theorem rowFrame_of_arrivals {T U : Nat → Prop} (h : Arrivals T U s s') : RowFrame pgs s s' :=
  ⟨(congrArg State.mem h.fields :), (congrArg State.chans h.fields :), (congrArg State.hops h.fields :), (congrArg State.mbox h.fields :),
    fun p o ho hp _ hne => h.pages p o ho hp hne⟩

theorem rowFrame_setReg {pg off : Nat} (hpg : pg ∈ pgs) (hoff : off < 1024) (v : Word) (s : State) :
    RowFrame pgs s (setReg pg off v s) :=
  ⟨rfl, rfl, rfl, rfl, fun _ _ ho _ hp _ => reg_setReg_page s v (fun he => hp (he ▸ hpg)) ho hoff⟩

/-- A row's change and its event routes keep the frame of the change. -/
theorem rowFrame_withRow {r : Nat} {f : State → State} (h : RowFrame pgs s (f s)) : RowFrame pgs s (withRow r f s) :=
  rowFrame_trans h (rowFrame_of_arrivals (withRow_arrivals r f s))

end

end Sys2Proof.Machine
end

section
/-! SUPPORT. Sense cells without a FIFO (R283): a state in which such a cell takes its first sample, and the refutation of the
statement about cells' frames, whose frame leaves no room for the cell's RUNNING bit. -/

namespace Sys2Proof.Machine

/-- Row 3 after reset, its clock group 0 a PDM master that runs, its cell 127 an enabled sense cell without a FIFO. -/
def senseRow : State :=
  { setReg (pgRowp 3) (cB 127) (wd (10 + 2 ^ 34)) (setReg (pgRowc 3) 0x018 (wd 3) State.reset) with pllRuns := true }

/-- The first sample of a cell sets RUNNING in its CELL_STAT. -/
theorem started_pdmInSample {s : State} {r : Fin 4} {c : Fin 128} {bits : List BitStream} (hticks : cellTicks s r c 10 = true)
    (hdepth : cDepth s r c = 0) (hbits : bits.length = if getF (cCfg s r c) 10 2 = 2 then 2 else 1)
    (hsettle : (cellAt s r c).settle = 0) (hfunc : cFunc s r c = 10) :
    ∃ s', exec (.pdmInSample r c bits) s = .next s' ∧ regB s' (pgRowp r) (cB c + 4) 16 = true := by
  refine ⟨_, congrArg Host.Outcome.next ((if_pos (by simp [hticks, hbits])).trans (if_neg (by omega))), ?_⟩
  unfold regB
  rw [(withRow_arrivals _ _ s).pages _ _ (by unfold cB; omega) (by unfold pgRowp; omega) (.inl (by unfold pgRowp pgNurs; omega)),
    if_pos ⟨hfunc, hdepth⟩]
  unfold cellStarted setRegB setRegF
  rw [reg_setReg_same]
  exact bit_setB_same _ true (by decide)

/-- Refutes O39: a sense cell without a FIFO that takes its first sample sets RUNNING in CELL_STAT (Table 12-12), a register of the row's
page that the statement's frame for such a sample, which names no page, keeps. -/
theorem not_cellFrames : ¬ Obligations.CellFrames := by
  intro h
  let r : Fin 4 := 3
  let c : Fin 128 := 127
  obtain ⟨-, -, hsense, -⟩ := h.1 senseRow r c
  have hticks : cellTicks senseRow r c 10 = true := by decide
  have hdepth : cDepth senseRow r c = 0 := by decide
  have hfunc : cFunc senseRow r c = 10 := by decide
  have hsettle : (cellAt senseRow r c).settle = 0 := by decide
  have hone : [([] : BitStream)].length = if getF (cCfg senseRow r c) 10 2 = 2 then 2 else 1 := by decide
  obtain ⟨s', hexec, -, -, -, -, -, -, hframe⟩ := hsense [[]] hticks hdepth hone hsettle
  obtain ⟨x, hexec', hstarted⟩ := started_pdmInSample hticks hdepth hone hsettle hfunc
  obtain rfl : x = s' := Host.Outcome.next.inj (hexec'.symm.trans hexec)
  have hclear : regB senseRow (pgRowp r) (cB c + 4) 16 = false := by decide
  unfold regB at hstarted hclear
  rw [hframe _ _ (by decide) (by decide) (by decide) (by decide), hclear] at hstarted
  exact Bool.false_ne_true hstarted

end Sys2Proof.Machine
end

section
/-! SUPPORT. The launch (R375): a state whose list of tines with code names a number that is no logical tine's, and the refutation of
the statement about boot and grafts, which claims the launch of every number of the list. -/

namespace Sys2Proof.Machine

/-- An image of one ROOT section, which holds DONE and nothing else: ten zero bytes. -/
def doneSect : Sect :=
  { typ := 1, id := 0, be := false, len := 10, store := 0, digest := sha256 (List.replicate 10 0), off := 0 }
def doneSeed : Seed := { base := rxBase, total := 10, svn := 0, start := 0, init := 0xFF, sects := [doneSect] }

/-- The number whose word of the Nursery's map lies, by its page and offset, where TINE_BANK of tine 0 does. -/
def strayTine : Nat := regKey (pgTine 0) 0x047 - regKey pgNurs 0x020

/-- The image's last section is awaited from the quad-SPI source, and tine 0 and the stray number have code. -/
def strayCoded : State :=
  let s := setReg pgBoot 0x010 (wd (2 + 2 ^ 16)) (setReg (pgTine 0) 0x047 (wd 2) State.reset)
  { s with boot := { s.boot with seed := some doneSeed, next := 0, coded := [0, strayTine] } }

/-- What the records of the section leave: the same state with BOOT_RXLEN written. -/
def strayApplied : Nat × State :=
  applySect (doneSect.len + 1) true (some (imgRange doneSeed)) (sectWords strayCoded rxBase doneSect)
    (setBootSect doneSeed.start (setReg pgBoot 0x011 (wd 10 &&& wd 0x80007FFFFF) strayCoded))

/-- The stray number is mapped to tine 2 until tine 0's launch writes TINE_BANK, and the launch leaves tine 2 as it was. -/
theorem strayTine_mapped : strayTine ∈ strayApplied.2.boot.coded ∧ physOf strayApplied.2 strayTine = some 2 := by decide +kernel

theorem halt_rxlenWrite_strayCoded : (tineAt (rxlenWrite 0 (wd 10) strayCoded) 2).halt = .unnamed := by decide +kernel

/-- Refutes O49: at a launch with `coded` = [0, 258087] the last number stands for tine 2 before the launch and for tine 3 once tine 0
has been started on bank 1, so tine 2 does not start. No record names a logical tine above 127 (Table 16-4): the statement's launch lacks
the premise that `coded` holds logical tines. -/
theorem not_bootAndGrafts : ¬ Obligations.BootAndGrafts := by
  intro h
  let src : Fin 4 := 0
  obtain ⟨-, -, -, hready⟩ := h.2.1 strayCoded src (wd 10)
  obtain ⟨-, -, hlaunch⟩ := hready (by decide)
  have hexec := hlaunch doneSeed doneSect strayApplied.2 (by decide) (by decide) (by decide) (by decide) (by decide) (by decide) rfl rfl
    (by decide) rfl (by decide) rfl (by decide +kernel) rfl
    (Prod.ext (show strayApplied.1 = 0 by decide +kernel) rfl) (by decide +kernel) (by decide +kernel) (by decide +kernel)
  obtain ⟨s', hnext, -, -, -, hstarts⟩ := hexec
  obtain rfl : rxlenWrite 0 (wd 10) strayCoded = s' := Host.Outcome.next.inj hnext
  obtain ⟨hhalt, -⟩ := hstarts strayTine 2 strayTine_mapped.1 strayTine_mapped.2
  rw [halt_rxlenWrite_strayCoded] at hhalt
  exact absurd hhalt (by decide)

end Sys2Proof.Machine
end

section
/-! SUPPORT. Hoes (R307–R316): what the operations of a Hoe do to its registers and to what it keeps beside them: configuration,
enables, disables, and the operations that a PORTOP names. -/

namespace Sys2Proof.Machine

/-! ## The registers of a Hoe -/

section
variable {r h k : Nat}

theorem hoeReg_lt (hh : h < 32) (hk : k < 0x18) : hB h + k < 1024 := by
  unfold hB
  omega

theorem pgHoe_lt (hr : r < 4) : pgHoe r < 0x100 := by
  unfold pgHoe
  omega

/-- Hoe `h` of row `r` has the same registers and the same state beside them in both states. -/
structure SameHoe (r h : Nat) (s s' : State) : Prop where
  regs : ∀ k, k < 0x18 → reg s' (pgHoe r) (hB h + k) = reg s (pgHoe r) (hB h + k)
  state : hoeAt s' r h = hoeAt s r h

namespace SameHoe

variable {s s' : State} (hsame : SameHoe r h s s')
include hsame

theorem hCfg_eq : hCfg s' r h = hCfg s r h := hsame.regs 0 (by decide)
theorem hEn_eq : hEn s' r h = hEn s r h := congrArg (bit · 0) hsame.hCfg_eq
theorem regB_eq (hk : k < 0x18) (i : Nat) : regB s' (pgHoe r) (hB h + k) i = regB s (pgHoe r) (hB h + k) i :=
  congrArg (bit · i) (hsame.regs k hk)
theorem regF_eq (hk : k < 0x18) (lo len : Nat) : regF s' (pgHoe r) (hB h + k) lo len = regF s (pgHoe r) (hB h + k) lo len :=
  congrArg (getF · lo len) (hsame.regs k hk)
theorem hDepth_eq : hDepth s' r h = hDepth s r h := congrArg (16 * ·) (hsame.regF_eq (by decide) 0 7)
theorem hRunning_eq : hRunning s' r h = hRunning s r h := hsame.regB_eq (by decide) 11
theorem hSheared_eq : hSheared s' r h = hSheared s r h := hsame.regB_eq (by decide) 12

theorem hoeOut_eq (pin : Nat) : hoeOut s' r h pin = hoeOut s r h pin := by
  unfold hoeOut
  rw [hsame.hSheared_eq, hsame.hRunning_eq, hsame.hCfg_eq, hsame.state]

end SameHoe

theorem Arrivals.sameHoe {T U : Nat → Prop} {s s' : State} (harr : Arrivals T U s s') (hr : r < 4) (hh : h < 32) : SameHoe r h s s' where
  regs k hk := harr.pages _ _ (hoeReg_lt hh hk) (pgHoe_lt hr) (.inl (by unfold pgHoe pgNurs; omega))
  state := by rw [harr.fields]; rfl

theorem Arrivals.fifo_eq {T U : Nat → Prop} {s s' : State} (harr : Arrivals T U s s') : s'.fifo = s.fifo :=
  (congrArg State.fifo harr.fields :)

theorem Arrivals.out_eq {T U : Nat → Prop} {s s' : State} (harr : Arrivals T U s s') : s'.out = s.out :=
  (congrArg State.out harr.fields :)

end

/-! ## Frames of the operations of a Hoe -/

section
variable {pgs : List Nat} {r h : Nat} (s : State)

theorem rowFrame_hoeReg {k : Nat} (hpg : pgHoe r ∈ pgs) (hh : h < 32) (hk : k < 0x18) (v : Word) :
    RowFrame pgs s (setReg (pgHoe r) (hB h + k) v s) := rowFrame_setReg hpg (hoeReg_lt hh hk) v s

theorem rowFrame_hoeRegF {k : Nat} (hpg : pgHoe r ∈ pgs) (hh : h < 32) (hk : k < 0x18) (lo len v : Nat) :
    RowFrame pgs s (setRegF (pgHoe r) (hB h + k) lo len v s) := rowFrame_hoeReg s hpg hh hk _

theorem rowFrame_hoeBump {k : Nat} (hpg : pgHoe r ∈ pgs) (hh : h < 32) (hk : k < 0x18) (lo len n : Nat) :
    RowFrame pgs s (bumpF (pgHoe r) (hB h + k) lo len n s) := rowFrame_hoeRegF s hpg hh hk lo len _

theorem rowFrame_setG23 (hpg : pgHoe r ∈ pgs) (hh : h < 32) (g : Nat) : RowFrame pgs s (setG23 r h g s) :=
  rowFrame_hoeReg (setHoe r h { hoeAt s r h with g := g } s) hpg hh (by decide) _

/-- What a Hoe keeps beside its registers lies outside the frame. -/
theorem rowFrame_setHoe (x : Hoe) : RowFrame pgs s (setHoe r h x s) := rowFrame_refl pgs s

theorem rowFrame_setFifo (k : Nat) (l : List Word) : RowFrame pgs s (setFifo k l s) := rowFrame_refl pgs s

theorem rowFrame_frecAmend (p : FrecEnt → Bool) (data : Word) : RowFrame pgs s (frecAmend p data s) := rowFrame_refl pgs s

/-- An entry of the fault record changes the record and its registers in the Gauge page. -/
theorem rowFrame_frecAdd (hpg : pgGauge ∈ pgs) (kind src : Nat) (data : Word) : RowFrame pgs s (frecAdd kind src data s) := by
  have hset : ∀ (off : Nat) (v : Word) (x : State), off < 1024 → RowFrame pgs x (setReg pgGauge off v x) :=
    fun off v x hoff => rowFrame_setReg hpg hoff v x
  unfold frecAdd
  extract_lets seq ent full l s1 s2 s3
  have h3 : RowFrame pgs s s3 := rowFrame_trans (hset 0x014 _ s1 (by decide)) (hset 0x014 _ s2 (by decide))
  split
  · exact rowFrame_trans h3 (hset 0x015 _ s3 (by decide))
  · exact h3

theorem reg_frecAdd {pg off : Nat} (hpg : pg ≠ pgGauge) (hoff : off < 1024) (kind src : Nat) (data : Word) :
    reg (frecAdd kind src data s) pg off = reg s pg off := by
  have hset : ∀ (o : Nat) (v : Word) (x : State), o < 1024 → reg (setReg pgGauge o v x) pg off = reg x pg off :=
    fun o v x ho => reg_setReg_page x v hpg hoff ho
  unfold frecAdd
  extract_lets seq ent full l s1 s2 s3
  have h3 : reg s3 pg off = reg s pg off := (hset 0x014 _ s2 (by decide)).trans (hset 0x014 _ s1 (by decide))
  split
  · exact (hset 0x015 _ s3 (by decide)).trans h3
  · exact h3

end

/-! ## Flags of HOE_STAT -/

section
variable {r h : Nat} (s : State)

theorem regB_hFlag_same {i : Nat} (hi : i < 40) (v : Bool) : regB (hFlag r h i v s) (pgHoe r) (hB h + 0xC) i = v := by
  unfold hFlag regB setRegB setRegF
  rw [reg_setReg_same]
  exact bit_setB_same _ v hi

theorem regB_hFlag_ne {i j : Nat} (hne : j ≠ i) (v : Bool) :
    regB (hFlag r h i v s) (pgHoe r) (hB h + 0xC) j = regB s (pgHoe r) (hB h + 0xC) j := by
  unfold hFlag regB setRegB setRegF
  rw [reg_setReg_same]
  exact bit_setB_ne _ v hne

theorem hEn_hFlag (i : Nat) (v : Bool) : hEn (hFlag r h i v s) r h = hEn s r h :=
  congrArg (bit · 0) (reg_setRegB_off s (off := hB h + 0xC) v (by omega))

theorem rowFrame_hFlag (hh : h < 32) (i : Nat) (v : Bool) : RowFrame [pgHoe r] s (hFlag r h i v s) :=
  rowFrame_hoeReg s (by simp) hh (by decide) _

theorem hoeOut_of_idle (hidle : hRunning s r h = false) : hoeOut s r h 2 = .low := by
  unfold hoeOut
  simp [hidle]

theorem hoeOut_of_sheared (hlatch : hSheared s r h = true) (pin : Nat) : hoeOut s r h pin = .low := if_pos hlatch

end

/-! ## A register written with what it holds -/

/-- Every register reads the same, and nothing beside the registers has changed. -/
structure SameRead (s s' : State) : Prop where
  fields : s' = { s with regs := s'.regs }
  regs : ∀ p o, reg s' p o = reg s p o

theorem sameRead_setReg (s : State) (pg off : Nat) : SameRead s (setReg pg off (reg s pg off) s) where
  fields := rfl
  regs p o := by
    by_cases hkey : regKey p o = regKey pg off
    · unfold reg setReg
      rw [hkey]
      exact Tbl.get_set_same _ _ _ _
    · exact reg_setReg_key s _ hkey

namespace SameRead

variable {s s' : State} (hsame : SameRead s s')
include hsame

theorem sameHoe (r h : Nat) : SameHoe r h s s' where
  regs _ _ := hsame.regs _ _
  state := by rw [hsame.fields]; rfl

theorem fifo_eq : s'.fifo = s.fifo := (congrArg State.fifo hsame.fields :)

theorem rowFrame (pgs : List Nat) : RowFrame pgs s s' :=
  ⟨(congrArg State.mem hsame.fields :), (congrArg State.chans hsame.fields :), (congrArg State.hops hsame.fields :),
    (congrArg State.mbox hsame.fields :), fun p o _ _ _ _ => hsame.regs p o⟩

theorem hoeCanEnable_eq (r h : Nat) : hoeCanEnable s' r h = hoeCanEnable s r h := by
  have hdom (d : Nat) : domSt s' d = domSt s d := by rw [hsame.fields]; rfl
  have hsense (cfg : Word) (c : Nat) : hoeSenseOk s' r cfg c = hoeSenseOk s r cfg c := by
    unfold hoeSenseOk cEn cFunc cgW cCfg
    simp only [hsame.regs]
  unfold hoeCanEnable vioOk hDepth hSheared hCfg regB regF
  simp only [hsame.regs, hdom, hsense]

end SameRead

/-! ## Enable and disable -/

section
variable {r h : Nat} {s s1 : State}

/-- An enable has set EN (R308). -/
def HoeEnabled (r h : Nat) (s s' : State) : Prop := hEn s' r h = true ∧ s'.fifo = s.fifo ∧ RowFrame [pgHoe r] s s'

/-- A disable has cleared EN: a running Hoe ramps down, and any other has stopped (R309). -/
def HoeDisabled (r h : Nat) (s s' : State) : Prop :=
  hEn s' r h = false ∧ s'.fifo = s.fifo ∧ RowFrame [pgHoe r] s s' ∧
    (hRunning s r h = true → hSheared s r h = false → (hoeAt s' r h).stopping = true ∧ hRunning s' r h = true) ∧
    (hRunning s r h = false ∨ hSheared s r h = true → hRunning s' r h = false ∧ hoeOut s' r h 2 = .low)

theorem hoeTryEnable_of_can (hoff : hEn s r h = false) (hcan : hoeCanEnable s r h = true) :
    hoeTryEnable r h s = (true, setHoe r h { hoeAt s r h with stopping := false } (setRegB (pgHoe r) (hB h) 0 true s)) := by
  unfold hoeTryEnable
  rw [if_neg (by simp [hoff]), if_pos hcan]

theorem hoeTryEnable_of_cannot (hoff : hEn s r h = false) (hcannot : hoeCanEnable s r h = false) :
    hoeTryEnable r h s = (false, hFlag r h 22 true s) := by
  unfold hoeTryEnable
  rw [if_neg (by simp [hoff]), if_neg (by simp [hcannot])]

section
variable (hr : r < 4) (hh : h < 32) (s0 : State)
include hr hh

theorem HoeEnabled.rowRoutes {x : State} (hx : HoeEnabled r h s x) : HoeEnabled r h s (rowRoutes r s0 x) := by
  obtain ⟨hen, hfifo, hframe⟩ := hx
  have harr := rowRoutes_arrivals r s0 x
  exact ⟨(harr.sameHoe hr hh).hEn_eq.trans hen, harr.fifo_eq.trans hfifo, rowFrame_trans hframe (rowFrame_of_arrivals harr)⟩

theorem HoeDisabled.rowRoutes {x : State} (hx : HoeDisabled r h s x) : HoeDisabled r h s (rowRoutes r s0 x) := by
  obtain ⟨hen, hfifo, hframe, hramp, hstop⟩ := hx
  have harr := rowRoutes_arrivals r s0 x
  have hsame := harr.sameHoe hr hh
  refine ⟨hsame.hEn_eq.trans hen, harr.fifo_eq.trans hfifo, rowFrame_trans hframe (rowFrame_of_arrivals harr), ?_, ?_⟩
  · rw [hsame.state, hsame.hRunning_eq]
    exact hramp
  · rw [hsame.hRunning_eq, hsame.hoeOut_eq]
    exact hstop

end

section
variable (hh : h < 32) (hsame : SameRead s s1)
include hh hsame

theorem hoeEnabled_hoeTryEnable (hoff : hEn s r h = false) (hcan : hoeCanEnable s r h = true) :
    HoeEnabled r h s (hoeTryEnable r h s1).2 := by
  rw [hoeTryEnable_of_can ((hsame.sameHoe r h).hEn_eq.trans hoff) ((hsame.hoeCanEnable_eq r h).trans hcan)]
  refine ⟨?_, hsame.fifo_eq, rowFrame_trans (hsame.rowFrame _) (rowFrame_hoeReg s1 (k := 0) (by simp) hh (by decide) _)⟩
  unfold hEn hCfg setRegB setRegF
  rw [reg_setHoe, reg_setReg_same]
  exact bit_setB_same _ true (by decide)

end

/-- The end of a speaker-line test on the Hoe changes the test and the Hoe's IMODE, nothing else. -/
theorem lineBreak_fields (st : Nat) (s : State) :
    lineBreak r h st s = { s with regs := (lineBreak r h st s).regs, line := (lineBreak r h st s).line } := by
  unfold lineBreak
  split
  · split <;> rfl
  · rfl

theorem reg_lineBreak {k : Nat} (hk : k ≠ 7) (st : Nat) (s : State) :
    reg (lineBreak r h st s) (pgHoe r) (hB h + k) = reg s (pgHoe r) (hB h + k) := by
  unfold lineBreak
  split
  · split
    · exact reg_setReg_off _ _ (by omega)
    · rfl
  · rfl

theorem rowFrame_lineBreak {pgs : List Nat} (hpg : pgHoe r ∈ pgs) (hh : h < 32) (st : Nat) (s : State) :
    RowFrame pgs s (lineBreak r h st s) := by
  unfold lineBreak
  split
  · split
    · exact rowFrame_hoeReg (s := { s with line := _ }) hpg hh (by decide) 0
    · exact rowFrame_refl _ s
  · exact rowFrame_refl _ s

/-- A disable up to the stop or the ramp: EN is clear. -/
def hoeSwitchedOff (r h : Nat) (s : State) : State := lineBreak r h 0x0022 (setRegB (pgHoe r) (hB h) 0 false s)

theorem hoeDisable_eq (s : State) : hoeDisable r h s =
    if hRunning s r h ∧ !hSheared s r h then
      setHoe r h { hoeAt (hoeSwitchedOff r h s) r h with stopping := true } (hoeSwitchedOff r h s)
    else hoeStop r h (hoeSwitchedOff r h s) := rfl

theorem hEn_hoeSwitchedOff (s : State) : hEn (hoeSwitchedOff r h s) r h = false := by
  have hcfg : hCfg (hoeSwitchedOff r h s) r h = setB (hCfg s r h) 0 false :=
    (reg_lineBreak (k := 0) (by decide) _ _).trans (reg_setReg_same ..)
  unfold hEn
  rw [hcfg]
  exact bit_setB_same _ false (by decide)

theorem hRunning_hoeSwitchedOff (s : State) : hRunning (hoeSwitchedOff r h s) r h = hRunning s r h := by
  unfold hRunning regB hoeSwitchedOff
  rw [reg_lineBreak (by decide), reg_setRegB_off s false (by omega)]

theorem rowFrame_hoeSwitchedOff (hh : h < 32) (s : State) : RowFrame [pgHoe r] s (hoeSwitchedOff r h s) :=
  rowFrame_trans (rowFrame_hoeReg s (k := 0) (by simp) hh (by decide) _) (rowFrame_lineBreak (by simp) hh _ _)

theorem fifo_hoeSwitchedOff (s : State) : (hoeSwitchedOff r h s).fifo = s.fifo := by
  unfold hoeSwitchedOff
  rw [lineBreak_fields]
  rfl

theorem hEn_hoeStop (s : State) : hEn (hoeStop r h s) r h = hEn s r h := hEn_hFlag (setHoe r h _ s) 11 false

theorem hRunning_hoeStop (s : State) : hRunning (hoeStop r h s) r h = false :=
  regB_hFlag_same (setHoe r h _ s) (i := 11) (by decide) false

theorem rowFrame_hoeStop (hh : h < 32) (s : State) : RowFrame [pgHoe r] s (hoeStop r h s) :=
  rowFrame_hFlag (setHoe r h _ s) hh 11 false

theorem hoeDisabled_hoeDisable (hh : h < 32) (hsame : SameRead s s1) : HoeDisabled r h s (hoeDisable r h s1) := by
  have hhoe := hsame.sameHoe r h
  have hfifo := (fifo_hoeSwitchedOff (r := r) (h := h) s1).trans hsame.fifo_eq
  have hframe := rowFrame_trans (hsame.rowFrame [pgHoe r]) (rowFrame_hoeSwitchedOff hh s1)
  rw [hoeDisable_eq, hhoe.hRunning_eq, hhoe.hSheared_eq]
  split
  · next hramps =>
    simp only [Bool.not_eq_eq_eq_not, Bool.not_true] at hramps
    refine ⟨hEn_hoeSwitchedOff s1, hfifo, hframe, fun _ _ => ⟨by simp, ?_⟩, fun hor => ?_⟩
    · exact (hRunning_hoeSwitchedOff s1).trans (hhoe.hRunning_eq.trans hramps.1)
    · simp [hramps] at hor
  · next hstops =>
    have hidle := hRunning_hoeStop (r := r) (h := h) (hoeSwitchedOff r h s1)
    refine ⟨(hEn_hoeStop _).trans (hEn_hoeSwitchedOff s1), hfifo, rowFrame_trans hframe (rowFrame_hoeStop hh _),
      fun hrun hclear => ?_, fun _ => ⟨hidle, hoeOut_of_idle _ hidle⟩⟩
    simp [hrun, hclear] at hstops

end

/-! ## Writes of HOE_CFG -/

theorem and_mask_of_getF {v : Word} {n : Nat} (hv : getF v n (40 - n) = 0) : v &&& wd (2 ^ n - 1) = v := by
  refine word_ext fun i hi => ?_
  have hand : bit (v &&& wd (2 ^ n - 1)) i = (bit v i && bit (wd (2 ^ n - 1)) i) := BitVec.getLsbD_and
  rw [hand, bit_wd, Nat.testBit_two_pow_sub_one]
  by_cases hin : i < n
  · simp [hi, hin]
  · have htop := testBit_getF v n (40 - n) (i - n)
    rw [hv, Nat.zero_testBit, Nat.add_sub_cancel' (by omega)] at htop
    simpa [hin, show i - n < 40 - n by omega] using htop.symm

theorem setB_setB (v : Word) (i : Nat) (b c : Bool) : setB (setB v i b) i c = setB v i c := by
  refine word_ext fun j hj => ?_
  by_cases hij : j = i
  · rw [hij, bit_setB_same _ _ (hij ▸ hj), bit_setB_same _ _ (hij ▸ hj)]
  · rw [bit_setB_ne _ _ hij, bit_setB_ne _ _ hij, bit_setB_ne _ _ hij]

theorem setB_bit (v : Word) (i : Nat) : setB v i (bit v i) = v := by
  refine word_ext fun j hj => ?_
  by_cases hij : j = i
  · rw [hij, bit_setB_same _ _ (hij ▸ hj)]
  · rw [bit_setB_ne _ _ hij]

/-- A refused write sets CFG_REFUSED and changes nothing else (R307). -/
def HoeFlagged (r h : Nat) (s s' : State) : Prop :=
  regB s' (pgHoe r) (hB h + 0xC) 22 = true ∧ s' = { s with regs := s'.regs } ∧ RowFrame [pgHoe r] s s'

/-- A write of HOE_CFG that is not refused, up to what its EN asks for: another carrier takes the Hoe off its grid, and the fields
are stored. -/
def hoeStored (r h : Nat) (v : Word) (s : State) : State :=
  setReg (pgHoe r) (hB h) (setB (v &&& wd 0x7FFFFFFFF) 0 (hEn s r h))
    (if getF v 2 2 = getF (hCfg s r h) 2 2 then s else setHoe r h { hoeAt s r h with grid := none } s)

section
variable {r h : Nat} {s : State} {v : Word}

theorem hoeFlagged_hFlag (hh : h < 32) : HoeFlagged r h s (hFlag r h 22 true s) :=
  ⟨regB_hFlag_same s (by decide) true, rfl, rowFrame_hFlag s hh 22 true⟩

theorem hoeCfgWrite_of_static (hen : hEn s r h = true) (hstatic : hoeStatic v ≠ hoeStatic (hCfg s r h)) :
    hoeCfgWrite r h v s = hFlag r h 22 true s := by
  unfold hEn at hen
  unfold hoeCfgWrite
  rw [if_pos (by simp [hen, hstatic])]

theorem hoeCfgWrite_of_ok (hstatic : hEn s r h = true → hoeStatic v = hoeStatic (hCfg s r h)) (hcodes : hoeCodesOk v = true)
    (hhr : hrOk v (reg s (pgHoe r) (hB h + 5)) = true) (hloop : loopOk v (reg s (pgHoe r) (hB h + 4)) = true) :
    hoeCfgWrite r h v s = rowRoutes r s (
      if bit v 0 then (hoeTryEnable r h (hoeStored r h v s)).2
      else if hEn s r h then hoeDisable r h (hoeStored r h v s) else hoeStored r h v s) := by
  unfold hEn at hstatic
  unfold hoeCfgWrite
  rw [if_neg (by simpa [hcodes, hhr, hloop] using hstatic)]
  rfl

theorem hCfg_hoeStored (hoff : hEn s r h = false) (hv : bit v 0 = false) (hres : getF v 35 5 = 0) :
    hCfg (hoeStored r h v s) r h = v := by
  unfold hCfg hoeStored
  rw [reg_setReg_same, show wd 0x7FFFFFFFF = wd (2 ^ 35 - 1) from rfl, and_mask_of_getF hres, hoff, ← hv, setB_bit]


theorem rowFrame_hoeStored (hh : h < 32) : RowFrame [pgHoe r] s (hoeStored r h v s) := by
  unfold hoeStored
  split
  · exact rowFrame_hoeReg s (k := 0) (by simp) hh (by decide) _
  · exact rowFrame_hoeReg (setHoe r h _ s) (k := 0) (by simp) hh (by decide) _

theorem fifo_hoeStored : (hoeStored r h v s).fifo = s.fifo := by
  unfold hoeStored
  split <;> rfl

/-- The present fields of a Hoe are ones that a write of HOE_CFG may store, its reserved bits 0. -/
def HoeSound (s : State) (r h : Nat) : Prop :=
  hoeCodesOk (hCfg s r h) = true ∧ hrOk (hCfg s r h) (reg s (pgHoe r) (hB h + 5)) = true ∧
    loopOk (hCfg s r h) (reg s (pgHoe r) (hB h + 4)) = true ∧ getF (hCfg s r h) 35 5 = 0

/-- A write of the present fields stores what stood there, whatever EN it asks for. -/
theorem hoeStored_of_present (b : Bool) (hres : getF (hCfg s r h) 35 5 = 0) :
    hoeStored r h (setB (hCfg s r h) 0 b) s = setReg (pgHoe r) (hB h) (reg s (pgHoe r) (hB h)) s := by
  have hres' : getF (setB (hCfg s r h) 0 b) 35 5 = 0 := (getF_setB_ne _ _ (by decide)).trans hres
  unfold hoeStored
  rw [if_pos (getF_setB_ne _ _ (by decide)), show wd 0x7FFFFFFFF = wd (2 ^ 35 - 1) from rfl, and_mask_of_getF hres', setB_setB]
  unfold hEn
  rw [setB_bit]
  rfl

theorem hoeCfgWrite_present (hsound : HoeSound s r h) (b : Bool) : hoeCfgWrite r h (setB (hCfg s r h) 0 b) s =
    rowRoutes r s (
      if b then (hoeTryEnable r h (setReg (pgHoe r) (hB h) (reg s (pgHoe r) (hB h)) s)).2
      else if hEn s r h then hoeDisable r h (setReg (pgHoe r) (hB h) (reg s (pgHoe r) (hB h)) s)
      else setReg (pgHoe r) (hB h) (reg s (pgHoe r) (hB h)) s) := by
  obtain ⟨hcodes, hhr, hloop, hres⟩ := hsound
  have hfield (lo len : Nat) (hlo : 0 < lo) : getF (setB (hCfg s r h) 0 b) lo len = getF (hCfg s r h) lo len :=
    getF_setB_ne _ _ (.inr hlo)
  rw [hoeCfgWrite_of_ok, hoeStored_of_present b hres, bit_setB_same _ _ (by decide)]
  · unfold hoeStatic
    simp [hfield]
  · unfold hoeCodesOk at *
    simpa [hfield] using hcodes
  · unfold hrOk qmax at *
    simpa [hfield] using hhr
  · unfold loopOk at *
    simpa [hfield] using hloop

end

section
variable {s : State} {w : Who} {r : Fin 4} {h : Fin 32}

section
variable (hgate : regGate s w (pgHoe r) (hB h) = .ok)
include hgate

theorem runs_hoeCfgWrite {v : Word} (hoff : hEn s r h = false) (hv : bit v 0 = false) (hcodes : hoeCodesOk v = true)
    (hhr : hrOk v (reg s (pgHoe r) (hB h + 5)) = true) (hloop : loopOk v (reg s (pgHoe r) (hB h + 4)) = true)
    (hres : getF v 35 5 = 0) : Runs (.hoeCfgWrite w r h 0 v) s fun s' =>
      hCfg s' r h = v ∧ s'.fifo = s.fifo ∧ RowFrame [pgHoe r] s s' := by
  have hwrite : hoeCfgWrite r h v s = rowRoutes r s (hoeStored r h v s) := by
    rw [hoeCfgWrite_of_ok (by simp [hoff]) hcodes hhr hloop, if_neg (by simp [hv]), if_neg (by simp [hoff])]
  have harr := rowRoutes_arrivals r s (hoeStored r h v s)
  refine ⟨_, congrArg Host.Outcome.next ((gated_of_ok _ hgate).trans hwrite), ?_, harr.fifo_eq.trans fifo_hoeStored,
    rowFrame_trans (rowFrame_hoeStored h.isLt) (rowFrame_of_arrivals harr)⟩
  exact (harr.sameHoe r.isLt h.isLt).hCfg_eq.trans (hCfg_hoeStored hoff hv hres)

theorem runs_hoeCfgWrite_flagged {v : Word} (hen : hEn s r h = true) (hv : getF v 1 13 ≠ getF (hCfg s r h) 1 13) :
    Runs (.hoeCfgWrite w r h 0 v) s (HoeFlagged r h s) := by
  have hwrite := hoeCfgWrite_of_static hen (v := v) fun he => hv (congrArg Prod.fst he)
  exact ⟨_, congrArg Host.Outcome.next ((gated_of_ok _ hgate).trans hwrite), hoeFlagged_hFlag h.isLt⟩

variable (hsound : HoeSound s r h)
include hsound

theorem runs_hoeEnable (hoff : hEn s r h = false) (hcan : hoeCanEnable s r h = true) :
    Runs (.hoeEnable w r h) s (HoeEnabled r h s) :=
  ⟨_, congrArg Host.Outcome.next ((gated_of_ok _ hgate).trans (hoeCfgWrite_present hsound true)),
    (hoeEnabled_hoeTryEnable h.isLt (sameRead_setReg s _ _) hoff hcan).rowRoutes r.isLt h.isLt s⟩

theorem runs_hoeEnable_refused (hoff : hEn s r h = false) (hcannot : hoeCanEnable s r h = false) :
    Runs (.hoeEnable w r h) s fun s' =>
      hEn s' r h = false ∧ regB s' (pgHoe r) (hB h + 0xC) 22 = true ∧ RowFrame [pgHoe r] s s' := by
  have hsame := sameRead_setReg s (pgHoe r) (hB h)
  have hen := (hsame.sameHoe r h).hEn_eq.trans hoff
  have hrefused := congrArg Prod.snd (hoeTryEnable_of_cannot hen ((hsame.hoeCanEnable_eq r h).trans hcannot))
  have hwrite := (hoeCfgWrite_present hsound true).trans (congrArg (rowRoutes r s) hrefused)
  have harr := rowRoutes_arrivals r s (hFlag r h 22 true (setReg (pgHoe r) (hB h) (reg s (pgHoe r) (hB h)) s))
  have hhoe := harr.sameHoe r.isLt h.isLt
  refine ⟨_, congrArg Host.Outcome.next ((gated_of_ok _ hgate).trans hwrite), ?_, ?_, ?_⟩
  · exact hhoe.hEn_eq.trans ((hEn_hFlag _ 22 true).trans hen)
  · exact (hhoe.regB_eq (by decide) 22).trans (regB_hFlag_same _ (by decide) true)
  · exact rowFrame_trans (hsame.rowFrame _) (rowFrame_trans (rowFrame_hFlag _ h.isLt 22 true) (rowFrame_of_arrivals harr))

theorem runs_hoeDisable (hen : hEn s r h = true) : Runs (.hoeDisable w r h) s (HoeDisabled r h s) := by
  refine ⟨_, congrArg Host.Outcome.next ((gated_of_ok _ hgate).trans (hoeCfgWrite_present hsound false)), ?_⟩
  rw [if_neg Bool.false_ne_true, if_pos hen]
  exact (hoeDisabled_hoeDisable h.isLt (sameRead_setReg s _ _)).rowRoutes r.isLt h.isLt s

end

/-! ## PORTOPs (R316) -/

theorem reg_hFlag_page {i p o : Nat} (b : Bool) (hp : p ≠ pgHoe r) (ho : o < 1024) : reg (hFlag r h i b s) p o = reg s p o :=
  reg_setReg_page s _ hp ho (hoeReg_lt h.isLt (by decide))

theorem bit_reg_hFlag_ne {i j : Nat} (b : Bool) (o : Nat) (hne : j ≠ i) :
    bit (reg (hFlag r h i b s) (pgHoe r) o) j = bit (reg s (pgHoe r) o) j := by
  by_cases ho : o = hB h + 0xC
  · rw [ho]
    exact regB_hFlag_ne s hne b
  · exact congrArg (bit · j) (reg_setReg_off s _ ho)

theorem hCfg_hFlag (i k : Nat) (b : Bool) : hCfg (hFlag r h i b s) r k = hCfg s r k :=
  reg_setReg_off s _ (by unfold hB; omega)

theorem hoeErr_hFlag_refused (k : Nat) : hoeErr (hFlag r h 22 true s) r k = hoeErr s r k := by
  unfold hoeErr
  simp only [bit_reg_hFlag_ne true _ (show 12 ≠ 22 by decide), bit_reg_hFlag_ne true _ (show 18 ≠ 22 by decide),
    bit_reg_hFlag_ne true _ (show 21 ≠ 22 by decide)]

theorem hoeLimit_hFlag_refused (k : Nat) : hoeLimit (hFlag r h 22 true s) r k = hoeLimit s r k := by
  unfold hoeLimit regB
  rw [bit_reg_hFlag_ne true _ (by decide)]
  rfl

theorem hoeRailLow_hFlag (k : Nat) : hoeRailLow (hFlag r h 22 true s) r k = hoeRailLow s r k := by
  have hrail := getF_lt (hCfg s r k) 10 4
  unfold hoeRailLow regB
  rw [hCfg_hFlag, reg_hFlag_page true (by unfold pgRail pgHoe; omega) (by omega)]

/-- CFG_REFUSED is part of no event level. -/
theorem unitEvent_hFlag_refused {u : Nat} (hu : u < 256) (evt : Nat) :
    unitEvent (hFlag r h 22 true s) r u evt = unitEvent s r u evt := by
  have hrowp (o : Nat) (ho : o < 1024) : reg (hFlag r h 22 true s) (pgRowp r) o = reg s (pgRowp r) o :=
    reg_hFlag_page true (by unfold pgRowp pgHoe; omega) ho
  have hrowc (o : Nat) (ho : o < 1024) : reg (hFlag r h 22 true s) (pgRowc r) o = reg s (pgRowc r) o :=
    reg_hFlag_page true (by unfold pgRowc pgHoe; omega) ho
  unfold unitEvent
  split
  case isTrue hcell =>
    have hcfg : cCfg (hFlag r h 22 true s) r u = cCfg s r u := hrowp _ (by unfold cB; omega)
    have herr : cellErr (hFlag r h 22 true s) r u = cellErr s r u := by
      unfold cellErr cgErr regB
      rw [hcfg, hrowp _ (by unfold cB; omega), hrowc _ (by decide)]
    unfold cFunc
    rw [hcfg, herr, hrowp _ (by unfold cB; omega)]
    rfl
  split
  case isTrue hhoe =>
    simp only [hoeErr_hFlag_refused, hoeLimit_hFlag_refused, hoeRailLow_hFlag]
    rfl
  split
  case isTrue heng => rw [hrowc _ (by unfold seB; omega)]
  rfl

/-- No route of the row watches CFG_REFUSED. -/
theorem evrLevel_hFlag_refused {k : Nat} (hk : k < 16) : evrLevel (hFlag r h 22 true s) r k = evrLevel s r k := by
  have hunit := getF_lt (reg s (pgRowc r) (0x040 + k)) 0 8
  unfold evrLevel
  rw [reg_hFlag_page true (by unfold pgRowc pgHoe; omega) (by omega)]
  simp only [unitEvent_hFlag_refused hunit]

theorem rowRoutes_hFlag_refused : rowRoutes r s (hFlag r h 22 true s) = hFlag r h 22 true s :=
  rowRoutes_of_levels fun _ => evrLevel_hFlag_refused

end

/-- A FLUSH has emptied the input FIFO of the Hoe, and no other FIFO has changed (R309). -/
def HoeFlushed (r h : Nat) (s s' : State) : Prop :=
  fifoAt s' (unitKey r (128 + h)) = [] ∧ (∀ k, k ≠ unitKey r (128 + h) → fifoAt s' k = fifoAt s k) ∧ RowFrame [] s s'

/-- A REARM has been accepted (R314). -/
def HoeRearmed (r h : Nat) (s s' : State) : Prop :=
  hoeAt s' r h = { hoeAt s r h with rearm := true, retryAt := none } ∧ s' = { s with hoes := s'.hoes }

section
variable {s : State} {r h : Nat}

theorem hoeFlush_of_off (hoff : hEn s r h = false) :
    hoeFlush r h s = (true, withRow r (setFifo (unitKey r (128 + h)) []) s) := if_neg (by simp [hoff])

theorem hoeFlushed_withRow (r h : Nat) : HoeFlushed r h s (withRow r (setFifo (unitKey r (128 + h)) []) s) := by
  have harr := withRow_arrivals r (setFifo (unitKey r (128 + h)) []) s
  have hfifo (k : Nat) : fifoAt (withRow r (setFifo (unitKey r (128 + h)) []) s) k = fifoAt (setFifo (unitKey r (128 + h)) [] s) k :=
    congrArg (Tbl.get (fun _ => []) · k) harr.fifo_eq
  refine ⟨?_, fun k hk => ?_, rowFrame_withRow (rowFrame_setFifo s _ _)⟩
  · rw [hfifo, fifoAt_setFifo_same]
  · rw [hfifo, fifoAt_setFifo_ne s _ hk]

theorem hoeRearm_of_may (hlatch : hSheared s r h = true) (hcause : causePresent s r h = false)
    (htick : (hoeAt s r h).tripAt ≠ s.now) :
    hoeRearm r h s = (true, setHoe r h { hoeAt s r h with rearm := true, retryAt := none } s) :=
  if_pos (by simp [hlatch, hcause, htick])

theorem hoeRearm_of_may_not (hnot : hSheared s r h = false ∨ causePresent s r h = true ∨ (hoeAt s r h).tripAt = s.now) :
    hoeRearm r h s = (false, s) :=
  if_neg (by rcases hnot with hlatch | hcause | htick <;> simp [*])

theorem hoeRearmed_setHoe (r h : Nat) :
    HoeRearmed r h s (setHoe r h { hoeAt s r h with rearm := true, retryAt := none } s) := ⟨hoeAt_setHoe_same .., rfl⟩

end

section
variable {s : State} {r : Fin 4} {h : Fin 32} (hup : domUp s (domRow r) = true)
include hup

theorem atRow_of_up (f : State → Bool × State) : atRow r f s = (f s).2 := if_pos hup

theorem runs_portopHoeEnable (hoff : hEn s r h = false) (hcan : hoeCanEnable s r h = true) :
    Runs (.portopHoeEnable r h) s (HoeEnabled r h s) :=
  ⟨_, congrArg Host.Outcome.next (atRow_of_up hup _),
    (hoeEnabled_hoeTryEnable h.isLt ⟨rfl, fun _ _ => rfl⟩ hoff hcan).rowRoutes r.isLt h.isLt s⟩

theorem runs_portopHoeEnable_refused (hoff : hEn s r h = false) (hcannot : hoeCanEnable s r h = false) :
    Runs (.portopHoeEnable r h) s (HoeFlagged r h s) := by
  have hrefused := congrArg (fun x => rowRoutes r s x.2) (hoeTryEnable_of_cannot hoff hcannot)
  exact ⟨_, congrArg Host.Outcome.next ((atRow_of_up hup _).trans (hrefused.trans rowRoutes_hFlag_refused)), hoeFlagged_hFlag h.isLt⟩

theorem runs_portopHoeDisable (hen : hEn s r h = true) : Runs (.portopHoeDisable r h) s (HoeDisabled r h s) :=
  ⟨_, congrArg Host.Outcome.next ((atRow_of_up hup _).trans (if_pos hen)),
    (hoeDisabled_hoeDisable h.isLt ⟨rfl, fun _ _ => rfl⟩).rowRoutes r.isLt h.isLt s⟩

theorem runs_portopHoeFlush (hoff : hEn s r h = false) : Runs (.portopHoeFlush r h) s (HoeFlushed r h s) :=
  ⟨_, congrArg Host.Outcome.next ((atRow_of_up hup _).trans (congrArg Prod.snd (hoeFlush_of_off hoff))), hoeFlushed_withRow r h⟩

theorem runs_portopHoeRearm (hlatch : hSheared s r h = true) (hcause : causePresent s r h = false)
    (htick : (hoeAt s r h).tripAt ≠ s.now) : Runs (.portopHoeRearm r h) s (HoeRearmed r h s) :=
  ⟨_, congrArg Host.Outcome.next ((atRow_of_up hup _).trans (congrArg Prod.snd (hoeRearm_of_may hlatch hcause htick))),
    hoeRearmed_setHoe r h⟩

theorem runs_portopHoeThresh {tx : BitVec 11} (htx : tx.toNat ≤ hDepth s r h) : Runs (.portopHoeThresh r h tx) s fun s' =>
    regF s' (pgHoe r) (hB h + 1) 7 11 = tx.toNat ∧ hDepth s' r h = hDepth s r h ∧ RowFrame [pgHoe r] s s' := by
  have hthresh : hoeThresh r h (tx.toNat % 2 ^ 11) s = (true, withRow r (setRegF (pgHoe r) (hB h + 1) 7 11 tx.toNat) s) := by
    rw [Nat.mod_eq_of_lt tx.isLt]
    exact if_neg (by omega)
  have hsame := (withRow_arrivals r (setRegF (pgHoe r) (hB h + 1) 7 11 tx.toNat) s).sameHoe r.isLt h.isLt
  refine ⟨_, congrArg Host.Outcome.next ((atRow_of_up hup _).trans (congrArg Prod.snd hthresh)), ?_, ?_, ?_⟩
  · rw [hsame.regF_eq (by decide), regF_setRegF_same s (by decide), Nat.mod_eq_of_lt tx.isLt]
  · rw [hsame.hDepth_eq]
    unfold hDepth regF setRegF
    rw [reg_setReg_same, getF_setF_ne _ _ (by decide)]
  · exact rowFrame_withRow (rowFrame_hoeReg s (by simp) h.isLt (by decide) _)

theorem runs_inject {m : BitVec 2} (hm : m.toNat < 3) (hline : lineOwns s r h = false) : Runs (.inject r h m) s fun s' =>
    reg s' (pgHoe r) (hB h + 7) = wd m.toNat ∧ s' = { s with regs := s'.regs } ∧
      (∀ p o, o < 1024 → (p ≠ pgHoe r ∨ o ≠ hB h + 7) → reg s' p o = reg s p o) := by
  have hmode : hoeInject r h (m.toNat % 4) s = (true, setReg (pgHoe r) (hB h + 7) (wd m.toNat) s) := by
    rw [Nat.mod_eq_of_lt m.isLt]
    exact if_neg (by simp [hline, hm.ne])
  have hinject : portopHoe r h 5 m.toNat s = (true, (hoeInject r h (m.toNat % 4) s).2) :=
    if_pos (by rwa [Nat.mod_eq_of_lt m.isLt])
  rw [hmode] at hinject
  obtain ⟨hfields, hregs⟩ := onlyReg_setReg (s := s) (pg := pgHoe r) (wd m.toNat) (hoeReg_lt h.isLt (k := 7) (by decide))
  exact ⟨_, congrArg Host.Outcome.next ((atRow_of_up hup _).trans (congrArg Prod.snd hinject)), reg_setReg_same .., hfields, hregs⟩

end

end Sys2Proof.Machine
end

section
/-! SUPPORT. Hoes (R307–R316): start, trip, rearm, flush, retry and calibration, and the statement about the commands of a Hoe. -/

namespace Sys2Proof.Machine

/-! ## Start -/

section
variable {s : State} {r : Fin 4} {h : Fin 32}

theorem hoeOut_of_running (hrun : hRunning s r h = true) (hclear : hSheared s r h = false) : hoeOut s r h 2 = .high := by
  simp [hoeOut, hclear, hrun]

theorem hoeAt_setG23 (r h g : Nat) (s : State) : hoeAt (setG23 r h g s) r h = { hoeAt s r h with g := g } := by
  unfold setG23
  rw [hoeAt_setReg, hoeAt_setHoe_same]

/-- A start up to its flag: the loop and the limiter begin at zero (R308). -/
def hoeStarted (r h : Nat) (s : State) : State :=
  setG23 r h 0 (setHoe r h { hoeAt s r h with
    stopping := false, i1 := 0, i2 := 0, e1 := 0, e2 := 0, imode := 0, x := 0,
    lord := getF (hCfg s r h) 14 2, qord := getF (hCfg s r h) 16 2 } s)

theorem hoeStart_eq (r h : Nat) (s : State) :
    hoeStart r h s = emit (.other "hoe-start" [r, h]) (hFlag r h 11 true (hoeStarted r h s)) := rfl

theorem hRunning_hoeStart (r h : Nat) (s : State) : hRunning (hoeStart r h s) r h = true := by
  rw [hoeStart_eq]
  exact regB_hFlag_same (hoeStarted r h s) (by decide) true

theorem hSheared_hoeStart (r h : Nat) (s : State) : hSheared (hoeStart r h s) r h = hSheared s r h := by
  have hstat : reg (hoeStarted r h s) (pgHoe r) (hB h + 0xC) = reg s (pgHoe r) (hB h + 0xC) := reg_setReg_off _ _ (by omega)
  rw [hoeStart_eq]
  exact (regB_hFlag_ne (hoeStarted r h s) (by decide) true).trans (congrArg (bit · 12) hstat)

theorem rowFrame_hoeStart {r h : Nat} (hh : h < 32) (s : State) : RowFrame [pgHoe r] s (hoeStart r h s) := by
  have hstarted : RowFrame [pgHoe r] s (hoeStarted r h s) := rowFrame_setG23 (setHoe r h _ s) (by simp) hh 0
  rw [hoeStart_eq]
  exact rowFrame_trans hstarted (rowFrame_hFlag (hoeStarted r h s) hh 11 true)

theorem hoeAt_hoeStart (r h : Nat) (s : State) : hoeAt (hoeStart r h s) r h = { hoeAt s r h with
    stopping := false, i1 := 0, i2 := 0, e1 := 0, e2 := 0, imode := 0, x := 0, g := 0,
    lord := getF (hCfg s r h) 14 2, qord := getF (hCfg s r h) 16 2 } := by
  rw [hoeStart_eq]
  exact (hoeAt_setG23 r h 0 _).trans (by rw [hoeAt_setHoe_same])

theorem runs_hoeStart (hmay : hoeMayStart s r h = true) : Runs (.hoeStart r h) s fun s' =>
    hRunning s' r h = true ∧ hoeOut s' r h 2 = .high ∧ s'.out = s.out ++ [.other "hoe-start" [r.val, h.val]] ∧
      (hoeAt s' r h).g = 0 ∧ (hoeAt s' r h).i1 = 0 ∧ (hoeAt s' r h).i2 = 0 ∧ (hoeAt s' r h).e1 = 0 ∧ (hoeAt s' r h).e2 = 0 ∧
      RowFrame [pgHoe r] s s' := by
  have hclear : hSheared s r h = false := by
    unfold hoeMayStart at hmay
    simp only [Bool.and_eq_true, Bool.not_eq_true'] at hmay
    tauto
  have harr := withRow_arrivals r (hoeStart r h) s
  have hsame := harr.sameHoe r.isLt h.isLt
  have hrun := hRunning_hoeStart r h s
  refine ⟨_, congrArg Host.Outcome.next (if_pos hmay), hsame.hRunning_eq.trans hrun, ?_, harr.out_eq, ?_⟩
  · rw [hsame.hoeOut_eq, hoeOut_of_running hrun ((hSheared_hoeStart r h s).trans hclear)]
  · rw [hsame.state, hoeAt_hoeStart]
    exact ⟨rfl, rfl, rfl, rfl, rfl, rowFrame_withRow (rowFrame_hoeStart h.isLt s)⟩

end

/-! ## Trips -/

section
variable {r h : Nat} {s : State}

/-- The Hoe of a trip: the latch with its cause, the loop and the limiter at zero, and the Hoe at rest (R312). -/
def shearLatched (r h cause : Nat) (s : State) : State :=
  setG23 r h 0 (setHoe r h { hoeAt s r h with
    i1 := 0, i2 := 0, e1 := 0, e2 := 0, stopping := false, rearm := false, retryAt := retryEnd s r h cause,
    tripAt := s.now, tripBy := [cause] } (setRegF (pgHoe r) (hB h + 0xC) 11 5 (2 + 4 * cause) s))

theorem shearTrip_of_clear (hclear : hSheared s r h = false) (cause : Nat) : shearTrip r h cause s =
    emit (.other "shear" [r, h]) (frecAdd 3 (0x300 + r) (shearData h cause)
      (lineBreak r h 0x0021 (shearCount r h cause (shearLatched r h cause s)))) := if_neg (by simp [hclear])

theorem stat_shearLatched (cause : Nat) : reg (shearLatched r h cause s) (pgHoe r) (hB h + 0xC) =
    setF (reg s (pgHoe r) (hB h + 0xC)) 11 5 (2 + 4 * cause) := by
  unfold shearLatched setG23 setRegF
  rw [reg_setReg_off _ _ (by omega), reg_setHoe, reg_setHoe, reg_setReg_same]

theorem reg_shearLatched {k : Nat} (hstat : k ≠ 0xC) (hgain : k ≠ 0xF) (cause : Nat) :
    reg (shearLatched r h cause s) (pgHoe r) (hB h + k) = reg s (pgHoe r) (hB h + k) := by
  unfold shearLatched setG23 setRegF
  rw [reg_setReg_off _ _ (by omega), reg_setHoe, reg_setHoe, reg_setReg_off _ _ (by omega)]

theorem hoeAt_shearLatched (cause : Nat) : hoeAt (shearLatched r h cause s) r h = { hoeAt s r h with
    i1 := 0, i2 := 0, e1 := 0, e2 := 0, stopping := false, rearm := false, retryAt := retryEnd s r h cause,
    tripAt := s.now, tripBy := [cause], g := 0 } :=
  (hoeAt_setG23 r h 0 _).trans (by rw [hoeAt_setHoe_same])

theorem rowFrame_shearLatched {pgs : List Nat} (hpg : pgHoe r ∈ pgs) (hh : h < 32) (cause : Nat) :
    RowFrame pgs s (shearLatched r h cause s) :=
  rowFrame_trans (rowFrame_hoeRegF s hpg hh (by decide) 11 5 (2 + 4 * cause)) (rowFrame_setG23 (setHoe r h _ _) hpg hh 0)

theorem frecAdd_hoes (kind src : Nat) (data : Word) (s : State) : (frecAdd kind src data s).hoes = s.hoes := by
  unfold frecAdd
  extract_lets seq ent full l s1 s2 s3
  split <;> rfl

/-- A software trip counts in SW_CNT. -/
theorem shearCount_sw (r h : Nat) (s : State) : shearCount r h 5 s = bumpF (pgHoe r) (hB h + 0xE) 32 7 1 s := rfl

section
variable (hclear : hSheared s r h = false)
include hclear

theorem hoeAt_shearTrip_sw : hoeAt (shearTrip r h 5 s) r h = hoeAt (shearLatched r h 5 s) r h := by
  rw [shearTrip_of_clear hclear]
  unfold hoeAt
  rw [emit_hoes, frecAdd_hoes, lineBreak_fields]
  rfl

variable (hh : h < 32)
include hh

theorem rowFrame_shearTrip_sw : RowFrame [pgHoe r, pgGauge] s (shearTrip r h 5 s) := by
  have hpg : pgHoe r ∈ [pgHoe r, pgGauge] := List.mem_cons_self
  rw [shearTrip_of_clear hclear, shearCount_sw]
  refine rowFrame_trans (rowFrame_shearLatched hpg hh 5) (rowFrame_trans (rowFrame_hoeBump _ hpg hh (k := 0xE) (by decide) 32 7 1) ?_)
  exact rowFrame_trans (rowFrame_lineBreak hpg hh 0x0021 _) (rowFrame_frecAdd _ (by simp) _ _ _)

variable (hr : r < 4)
include hr

theorem reg_shearTrip_sw {k : Nat} (hk : k < 0x18) (hmode : k ≠ 7) (hcount : k ≠ 0xE) :
    reg (shearTrip r h 5 s) (pgHoe r) (hB h + k) = reg (shearLatched r h 5 s) (pgHoe r) (hB h + k) := by
  rw [shearTrip_of_clear hclear, reg_emit, reg_frecAdd _ (by unfold pgHoe pgGauge; omega) (hoeReg_lt hh hk), reg_lineBreak hmode,
    shearCount_sw, reg_bumpF_off _ (by omega)]

theorem swCount_shearTrip_sw : regF (shearTrip r h 5 s) (pgHoe r) (hB h + 0xE) 32 7 =
    min 127 (regF s (pgHoe r) (hB h + 0xE) 32 7 + 1) := by
  have hcount := regF_bumpF_same (shearLatched r h 5 s) (pg := pgHoe r) (off := hB h + 0xE) (lo := 32) (len := 7) (by decide) 1
  unfold regF at hcount ⊢
  rw [shearTrip_of_clear hclear, reg_emit, reg_frecAdd _ (by unfold pgHoe pgGauge; omega) (hoeReg_lt hh (by decide)),
    reg_lineBreak (by decide), shearCount_sw, hcount, reg_shearLatched (by decide) (by decide)]
  rfl

end
end

/-- A field within the one replaced reads as its part of what was put in. -/
theorem getF_setF_within (w : Word) {lo len a n v : Nat} (ha : a + n ≤ len) (hlen : lo + len ≤ 40) :
    getF (setF w lo len v) (lo + a) n = v / 2 ^ a % 2 ^ n := by
  refine Nat.eq_of_testBit_eq fun i => ?_
  rw [testBit_getF, bit_setF, Nat.testBit_mod_two_pow, Nat.testBit_div_two_pow]
  by_cases hi : i < n
  · rw [if_pos (by omega), show lo + a + i - lo = i + a by omega, decide_eq_true (show lo + a + i < 40 by omega), Bool.true_and]
  · simp [hi]

section
variable {s : State} {r h : Nat}

/-- A further software cause in the tick of a trip: the lowest cause is recorded, and the cause is among the trip's. -/
def shearCauses (r h : Nat) (s : State) : State :=
  setRegF (pgHoe r) (hB h + 0xC) 13 3 (min 5 (regF s (pgHoe r) (hB h + 0xC) 13 3)) (setHoe r h { hoeAt s r h with
    tripBy := 5 :: (hoeAt s r h).tripBy, retryAt := retryEnd s r h (min 5 (regF s (pgHoe r) (hB h + 0xC) 13 3)) } s)

/-- It is counted. -/
def shearNoted (r h : Nat) (s : State) : State := bumpF (pgHoe r) (hB h + 0xE) 32 7 1 (shearCauses r h s)

theorem stat_shearNoted : reg (shearNoted r h s) (pgHoe r) (hB h + 0xC) =
    setF (reg s (pgHoe r) (hB h + 0xC)) 13 3 (min 5 (regF s (pgHoe r) (hB h + 0xC) 13 3)) :=
  (reg_bumpF_off _ (by omega)).trans (reg_setReg_same ..)

theorem swCount_shearNoted :
    regF (shearNoted r h s) (pgHoe r) (hB h + 0xE) 32 7 = min 127 (regF s (pgHoe r) (hB h + 0xE) 32 7 + 1) := by
  have hcount : reg (shearCauses r h s) (pgHoe r) (hB h + 0xE) = reg s (pgHoe r) (hB h + 0xE) :=
    reg_setRegF_off (setHoe r h _ s) (by omega)
  refine (regF_bumpF_same _ (by decide) 1).trans ?_
  unfold regF
  rw [hcount]
  rfl

theorem rowFrame_shearNoted (hh : h < 32) : RowFrame [pgHoe r] s (shearNoted r h s) :=
  rowFrame_trans (s' := shearCauses r h s) (rowFrame_hoeRegF (setHoe r h _ s) (by simp) hh (by decide) _ _ _)
    (rowFrame_hoeBump _ (by simp) hh (by decide) _ _ _)

/-- A further software trip amends the fault record's entries of the trip beside that (R449). -/
theorem shearTrip_again (hh : h < 32) (hlatch : hSheared s r h = true) (hmore : shearMore s r h 5 = true) :
    (∀ k, reg (shearTrip r h 5 s) (pgHoe r) (hB h + k) = reg (shearNoted r h s) (pgHoe r) (hB h + k)) ∧
      (shearTrip r h 5 s).fifo = s.fifo ∧ (shearTrip r h 5 s).out = s.out ∧ RowFrame [pgHoe r] s (shearTrip r h 5 s) := by
  obtain ⟨p, data, htrip⟩ : ∃ p data, shearTrip r h 5 s = frecAmend p data (shearNoted r h s) :=
    ⟨_, _, (if_pos hlatch).trans (if_pos hmore)⟩
  rw [htrip]
  exact ⟨fun _ => rfl, rfl, rfl, rowFrame_trans (rowFrame_shearNoted hh) (rowFrame_frecAmend _ p data)⟩

end

/-! ## HOE_CTRL -/

section
variable {s : State} {w : Who} {r : Fin 4} {h : Fin 32} (hgate : regGate s w (pgHoe r) (hB h + 0xB) = .ok)
include hgate

theorem runs_hoeTrip (hclear : hSheared s r h = false) : Runs (.hoeTrip w r h) s fun s' =>
    hSheared s' r h = true ∧ hRunning s' r h = false ∧ regF s' (pgHoe r) (hB h + 0xC) 13 3 = 5 ∧ (hoeAt s' r h).g = 0 ∧
      (hoeAt s' r h).i1 = 0 ∧ (hoeAt s' r h).i2 = 0 ∧ (hoeAt s' r h).e1 = 0 ∧ (hoeAt s' r h).e2 = 0 ∧
      regF s' (pgHoe r) (hB h + 0xE) 32 7 = min 127 (regF s (pgHoe r) (hB h + 0xE) 32 7 + 1) ∧ hEn s' r h = hEn s r h ∧
      (∀ pin, hoeOut s' r h pin = .low) ∧ RowFrame [pgHoe r, pgGauge] s s' := by
  have hwrite : hoeCtrlWrite r h (wd 2) s = withRow r (shearTrip r h 5) s := rfl
  have hsame := (withRow_arrivals r (shearTrip r h 5) s).sameHoe r.isLt h.isLt
  have hstat : reg (withRow r (shearTrip r h 5) s) (pgHoe r) (hB h + 0xC) = setF (reg s (pgHoe r) (hB h + 0xC)) 11 5 22 :=
    (hsame.regs 0xC (by decide)).trans
      ((reg_shearTrip_sw hclear h.isLt r.isLt (by decide) (by decide) (by decide)).trans (stat_shearLatched 5))
  have hlatch : hSheared (withRow r (shearTrip r h 5) s) r h = true := by
    unfold hSheared regB
    rw [hstat, bit_setF]
    rfl
  have hcfg := (reg_shearTrip_sw hclear h.isLt r.isLt (k := 0) (by decide) (by decide) (by decide)).trans
    (reg_shearLatched (by decide) (by decide) 5)
  refine ⟨_, congrArg Host.Outcome.next ((gated_of_ok _ hgate).trans hwrite), hlatch, ?_, ?_, ?_⟩
  · unfold hRunning regB
    rw [hstat, bit_setF]
    rfl
  · unfold regF
    rw [hstat]
    exact getF_setF_within _ (a := 2) (by decide) (by decide)
  · rw [hsame.state, hoeAt_shearTrip_sw hclear, hoeAt_shearLatched]
    refine ⟨rfl, rfl, rfl, rfl, rfl, ?_, ?_, hoeOut_of_sheared _ hlatch, rowFrame_withRow (rowFrame_shearTrip_sw hclear h.isLt)⟩
    · exact (hsame.regF_eq (by decide) 32 7).trans (swCount_shearTrip_sw hclear h.isLt r.isLt)
    · exact hsame.hEn_eq.trans (congrArg (bit · 0) hcfg)

/-- A latched Hoe counts no further software trip but one in the tick of the trip (R312, assumption 119). -/
theorem runs_hoeTrip_latched (hlatch : hSheared s r h = true) (hmore : shearMore s r h 5 = false) :
    Runs (.hoeTrip w r h) s fun s' => s' = s := by
  have htrip : shearTrip r h 5 s = s := by
    unfold shearTrip shearAlso
    rw [if_pos hlatch, if_neg (by simp [hmore])]
  exact ⟨_, congrArg Host.Outcome.next (gated_of_ok _ hgate), withRow_of_eq htrip⟩

theorem runs_hoeTrip_again (hlatch : hSheared s r h = true) (hmore : shearMore s r h 5 = true) :
    Runs (.hoeTrip w r h) s fun s' =>
      regF s' (pgHoe r) (hB h + 0xE) 32 7 = min 127 (regF s (pgHoe r) (hB h + 0xE) 32 7 + 1) ∧
        regF s' (pgHoe r) (hB h + 0xC) 13 3 = min 5 (regF s (pgHoe r) (hB h + 0xC) 13 3) ∧ hSheared s' r h = true ∧
        s'.fifo = s.fifo ∧ s'.out = s.out ∧ RowFrame [pgHoe r] s s' := by
  have harr := withRow_arrivals r (shearTrip r h 5) s
  have hsame := harr.sameHoe r.isLt h.isLt
  obtain ⟨hregs, hfifo, hout, hframe⟩ := shearTrip_again h.isLt hlatch hmore
  have hstat := (hsame.regs 0xC (by decide)).trans ((hregs 0xC).trans stat_shearNoted)
  refine ⟨_, congrArg Host.Outcome.next (gated_of_ok _ hgate), ?_, ?_, ?_, harr.fifo_eq.trans hfifo, harr.out_eq.trans hout,
    rowFrame_withRow hframe⟩
  · exact (hsame.regF_eq (by decide) 32 7).trans ((congrArg (getF · 32 7) (hregs 0xE)).trans swCount_shearNoted)
  · refine (congrArg (getF · 13 3) hstat).trans ((getF_setF_same _ _ (by decide)).trans (Nat.mod_eq_of_lt ?_))
    omega
  · exact (congrArg (bit · 12) hstat).trans ((bit_setF_ne _ _ (by decide)).trans hlatch)

theorem runs_hoeRearm (hlatch : hSheared s r h = true) (hcause : causePresent s r h = false)
    (htick : (hoeAt s r h).tripAt ≠ s.now) : Runs (.hoeRearm w r h) s (HoeRearmed r h s) :=
  ⟨_, congrArg Host.Outcome.next ((gated_of_ok _ hgate).trans (congrArg Prod.snd (hoeRearm_of_may hlatch hcause htick))),
    hoeRearmed_setHoe r h⟩

theorem runs_hoeRearm_refused (hnot : hSheared s r h = false ∨ causePresent s r h = true ∨ (hoeAt s r h).tripAt = s.now) :
    Runs (.hoeRearm w r h) s fun s' => s' = s :=
  ⟨_, congrArg Host.Outcome.next (gated_of_ok _ hgate), congrArg Prod.snd (hoeRearm_of_may_not hnot)⟩

theorem runs_hoeFlush (hoff : hEn s r h = false) : Runs (.hoeFlush w r h) s (HoeFlushed r h s) :=
  ⟨_, congrArg Host.Outcome.next ((gated_of_ok _ hgate).trans (congrArg Prod.snd (hoeFlush_of_off hoff))), hoeFlushed_withRow r h⟩

theorem runs_hoeFlush_refused (hen : hEn s r h = true) : Runs (.hoeFlush w r h) s fun s' => s' = s :=
  ⟨_, congrArg Host.Outcome.next (gated_of_ok _ hgate), congrArg Prod.snd (if_pos hen)⟩

theorem runs_clrRetry : Runs (.clrRetry w r h) s fun s' =>
    regF s' (pgHoe r) (hB h + 0xC) 24 3 = 0 ∧ hSheared s' r h = hSheared s r h ∧ s' = { s with regs := s'.regs } ∧
      (∀ p o, o < 1024 → (p ≠ pgHoe r ∨ o ≠ hB h + 0xC) → reg s' p o = reg s p o) := by
  have hwrite : hoeCtrlWrite r h (wd 8) s = setRegF (pgHoe r) (hB h + 0xC) 24 3 0 s := rfl
  obtain ⟨hfields, hregs⟩ := onlyReg_setReg (s := s) (pg := pgHoe r) (setF (reg s (pgHoe r) (hB h + 0xC)) 24 3 0)
    (hoeReg_lt h.isLt (k := 0xC) (by decide))
  refine ⟨_, congrArg Host.Outcome.next ((gated_of_ok _ hgate).trans hwrite), regF_setRegF_same s (by decide) 0, ?_, hfields, hregs⟩
  unfold hSheared regB setRegF
  rw [reg_setReg_same, bit_setF_ne _ _ (by decide)]

end

/-! ## The retry attempt -/

/-- The attempt of a trip's window has been counted (R314, assumption 80). -/
def shearRetried (r h : Nat) (s : State) : State :=
  bumpF (pgHoe r) (hB h + 0xC) 24 3 1 (setHoe r h { hoeAt s r h with retryAt := none } s)

section
variable {r h : Nat} {s : State}

theorem hoeAt_shearRetried : hoeAt (shearRetried r h s) r h = { hoeAt s r h with retryAt := none } := hoeAt_setHoe_same ..

theorem hSheared_shearRetried : hSheared (shearRetried r h s) r h = hSheared s r h := by
  unfold hSheared regB shearRetried bumpF setRegF
  rw [reg_setReg_same, bit_setF_ne _ _ (by decide), reg_setHoe]

theorem causePresent_shearRetried (hr : r < 4) (hh : h < 32) : causePresent (shearRetried r h s) r h = causePresent s r h := by
  have hcfg : hCfg (shearRetried r h s) r h = hCfg s r h := reg_bumpF_off (setHoe r h _ s) (by omega)
  have hrail := getF_lt (hCfg s r h) 10 4
  have hfault (k : Nat) (hk : k < 16) : regB (shearRetried r h s) pgRail (rB k + 2) 19 = regB s pgRail (rB k + 2) 19 :=
    congrArg (bit · 19) (reg_setReg_page (setHoe r h _ s) _ (by unfold pgRail pgHoe; omega) (by unfold rB; omega)
      (hoeReg_lt hh (by decide)))
  unfold causePresent
  simp only [hcfg, hoeAt_shearRetried, hfault _ hrail]
  rfl

theorem retries_shearRetried (hless : regF s (pgHoe r) (hB h + 0xC) 24 3 < 7) :
    regF (shearRetried r h s) (pgHoe r) (hB h + 0xC) 24 3 = regF s (pgHoe r) (hB h + 0xC) 24 3 + 1 :=
  (regF_bumpF_same (setHoe r h _ s) (by decide) 1).trans (min_eq_right (a := 7) hless)

theorem rowFrame_shearRetried (hh : h < 32) : RowFrame [pgHoe r] s (shearRetried r h s) :=
  rowFrame_hoeBump (setHoe r h _ s) (by simp) hh (by decide) 24 3 1

end

theorem runs_shearAutoRetry {s : State} {r : Fin 4} {h : Fin 32} {e : Nat} (hretry : (hoeAt s r h).retryAt = some e) (he : e ≤ s.now)
    (htick : (hoeAt s r h).tripAt ≠ s.now) (hlatch : hSheared s r h = true)
    (hless : regF s (pgHoe r) (hB h + 0xC) 24 3 < getF (hoeAt s r h).shear 6 3) : Runs (.shearAutoRetry r h) s fun s' =>
      regF s' (pgHoe r) (hB h + 0xC) 24 3 = regF s (pgHoe r) (hB h + 0xC) 24 3 + 1 ∧ (hoeAt s' r h).retryAt = none ∧
        (causePresent s r h = false → (hoeAt s' r h).rearm = true) ∧ RowFrame [pgHoe r] s s' := by
  have hexec : exec (.shearAutoRetry r h) s = .next (hoeRearm r h (shearRetried r h s)).2 := by
    change execShearAutoRetry r h s = _
    unfold execShearAutoRetry
    simp only [hretry]
    rw [if_pos he, if_pos ⟨hlatch, hless⟩]
    rfl
  have hcount := retries_shearRetried (hless.trans_le (Nat.le_of_lt_succ (getF_lt (hoeAt s r h).shear 6 3)))
  have hcause := causePresent_shearRetried (s := s) r.isLt h.isLt
  refine ⟨_, hexec, ?_⟩
  cases hpresent : causePresent s r h with
  | true =>
    rw [hoeRearm_of_may_not (.inr (.inl (hcause.trans hpresent)))]
    exact ⟨hcount, congrArg Hoe.retryAt hoeAt_shearRetried, nofun, rowFrame_shearRetried h.isLt⟩
  | false =>
    have htick' : (hoeAt (shearRetried r h s) r h).tripAt ≠ s.now := by rwa [hoeAt_shearRetried]
    rw [hoeRearm_of_may (hSheared_shearRetried.trans hlatch) (hcause.trans hpresent) htick', hoeAt_setHoe_same]
    exact ⟨hcount, rfl, fun _ => rfl, rowFrame_trans (rowFrame_shearRetried h.isLt) (rowFrame_setHoe _ _)⟩

/-! ## Calibration (R77) -/

/-- The moves of a calibration by the directions `ds`, and the taps they leave. -/
def tapMoves (cur ds : List Nat) : List (Nat × Option Nat) := (cur.zip ds).map fun p => (p.1, tapMove p.1 p.2)
def tapsMoved (cur ds : List Nat) : List Nat := (tapMoves cur ds).map fun m => m.2.getD m.1

theorem tapMove_getD (t : Nat) (d : Fin 3) :
    (tapMove t d).getD t = if d = 1 then (if t < 63 then t + 1 else t) else if d = 2 then t - 1 else t := by
  match d with
  | 0 => rfl
  | 1 =>
    change Option.getD (if t < 63 then some (t + 1) else none) t = if t < 63 then t + 1 else t
    split <;> rfl
  | 2 =>
    change Option.getD (if 0 < t then some (t - 1) else none) t = t - 1
    split
    · rfl
    · next h0 => exact (by omega : t = t - 1)

theorem getElem?_tapsMoved {cur : List Nat} {ds : List (Fin 3)} {i t : Nat} {d : Fin 3} (ht : cur[i]? = some t) (hd : ds[i]? = some d) :
    (tapsMoved cur (ds.map Fin.val))[i]? = some (if d = 1 then (if t < 63 then t + 1 else t) else if d = 2 then t - 1 else t) := by
  have hdir : (ds.map Fin.val)[i]? = some d.val := by rw [List.getElem?_map, hd, Option.map_some]
  have hzip : (cur.zip (ds.map Fin.val))[i]? = some (t, d.val) := List.getElem?_zip_eq_some.2 ⟨ht, hdir⟩
  unfold tapsMoved tapMoves
  rw [List.getElem?_map, List.getElem?_map, hzip, Option.map_some, Option.map_some, tapMove_getD]

theorem length_tapsMoved (cur ds : List Nat) : (tapsMoved cur ds).length = min cur.length ds.length := by
  unfold tapsMoved tapMoves
  rw [List.length_map, List.length_map, List.length_zip]

section
variable {s : State} {r : Fin 4} {h : Fin 32} {d1 d2 d3 : Fin 3}

/-- The Hoe of a calibration: its next taps, and the window in which it has calibrated. -/
def hoeCalibrated (s : State) (r h : Nat) (ds : List Nat) : State :=
  setHoe r h { hoeAt s r h with
    tapsNext := some (tapsMoved (tapsOf s r h (hoeAt s r h).tapsNext) ds), calWin := some (s.now / 1000) } s

/-- A tap that its range stops sets CALF beside that. -/
def calibrated (s : State) (r h : Nat) (ds : List Nat) : State :=
  if (tapMoves (tapsOf s r h (hoeAt s r h).tapsNext) ds).any (fun m => m.2.isNone) then
    withRow r (hFlag r h 21 true) (hoeCalibrated s r h ds)
  else hoeCalibrated s r h ds

theorem hoeAt_calibrated (ds : List Nat) : hoeAt (calibrated s r h ds) r h = { hoeAt s r h with
    tapsNext := some (tapsMoved (tapsOf s r h (hoeAt s r h).tapsNext) ds), calWin := some (s.now / 1000) } := by
  have hhoe := hoeAt_setHoe_same s r h { hoeAt s r h with
    tapsNext := some (tapsMoved (tapsOf s r h (hoeAt s r h).tapsNext) ds), calWin := some (s.now / 1000) }
  unfold calibrated
  split
  · exact ((withRow_arrivals r (hFlag r h 21 true) _).sameHoe r.isLt h.isLt).state.trans hhoe
  · exact hhoe

theorem rowFrame_calibrated (ds : List Nat) : RowFrame [pgHoe r] s (calibrated s r h ds) := by
  have hset : RowFrame [pgHoe r] s (hoeCalibrated s r h ds) := rowFrame_setHoe s _
  unfold calibrated
  split
  · exact rowFrame_trans hset (rowFrame_withRow (rowFrame_hFlag _ h.isLt 21 true))
  · exact hset

theorem exec_interpolatorCalibration (hup : domUp s (domRow r) = true) (hpwm : pwmRuns s = true)
    (hwin : (hoeAt s r h).calWin ≠ some (s.now / 1000)) :
    exec (.interpolatorCalibration r h d1 d2 d3) s = .next (calibrated s r h [d1.val, d2.val, d3.val]) :=
  congrArg Host.Outcome.next (if_pos ⟨hup, hpwm, hwin⟩)

theorem runs_interpolatorCalibration (hup : domUp s (domRow r) = true) (hpwm : pwmRuns s = true)
    (hwin : (hoeAt s r h).calWin ≠ some (s.now / 1000)) {cur : List Nat}
    (hcur : tapsOf s r h (hoeAt s r h).tapsNext = cur) (hlen : cur.length = 3) :
    Runs (.interpolatorCalibration r h d1 d2 d3) s fun s' =>
      (hoeAt s' r h).taps = (hoeAt s r h).taps ∧ (hoeAt s' r h).calWin = some (s.now / 1000) ∧
        (∃ l, (hoeAt s' r h).tapsNext = some l ∧ l.length = 3 ∧
          (∀ (i : Nat) (t : Nat) (d : Fin 3), cur[i]? = some t → [d1, d2, d3][i]? = some d →
            l[i]? = some (if d = 1 then (if t < 63 then t + 1 else t) else if d = 2 then t - 1 else t))) ∧
        RowFrame [pgHoe r] s s' := by
  subst hcur
  have hhoe := hoeAt_calibrated (s := s) (r := r) (h := h) [d1.val, d2.val, d3.val]
  refine ⟨_, exec_interpolatorCalibration hup hpwm hwin, (congrArg Hoe.taps hhoe :), (congrArg Hoe.calWin hhoe :),
    ⟨_, (congrArg Hoe.tapsNext hhoe :), ?_, fun i t d ht hd => getElem?_tapsMoved (ds := [d1, d2, d3]) ht hd⟩, rowFrame_calibrated _⟩
  rw [length_tapsMoved, hlen]
  rfl

/-- One calibration in a window. -/
theorem runs_interpolatorCalibration_again (hwin : (hoeAt s r h).calWin = some (s.now / 1000)) :
    Runs (.interpolatorCalibration r h d1 d2 d3) s fun s' => s' = s :=
  ⟨_, rfl, if_neg fun hcond => hcond.2.2 hwin⟩

end

/-- Settles O40: each command of a Hoe by the branch of the model that its premises select; every change of a row raises event
routes, which only arrive at tines. -/
theorem hoeControl : Obligations.HoeControl := by
  intro s w r h
  have htaps : (match (hoeAt s r h).tapsNext with
      | some l => l
      | none => (List.range 3).map fun k => (trimAt s (48 + 3 * (32 * r + h) + k)).toNat) = tapsOf s r h (hoeAt s r h).tapsNext := by
    unfold tapsOf
    cases (hoeAt s r h).tapsNext <;> rfl
  refine ⟨fun hgate => ⟨fun v => runs_hoeCfgWrite hgate, fun v => runs_hoeCfgWrite_flagged hgate, runs_hoeEnable hgate,
      runs_hoeEnable_refused hgate, runs_hoeDisable hgate⟩,
    fun hup => ⟨runs_portopHoeEnable hup, runs_portopHoeEnable_refused hup, runs_portopHoeDisable hup, runs_portopHoeFlush hup,
      runs_portopHoeRearm hup, fun tx => runs_portopHoeThresh hup, fun m => runs_inject hup⟩,
    runs_hoeStart,
    fun hgate => ⟨runs_hoeTrip hgate, fun hlatch => ⟨fun hnot => ?_, fun hnow hfresh => ?_⟩, runs_hoeRearm hgate,
      runs_hoeRearm_refused hgate, runs_hoeFlush hgate, runs_hoeFlush_refused hgate, runs_clrRetry hgate⟩,
    fun e => runs_shearAutoRetry,
    fun d1 d2 d3 hup hpwm => ⟨fun hwin => runs_interpolatorCalibration hup hpwm hwin htaps.symm, runs_interpolatorCalibration_again⟩⟩
  · refine runs_hoeTrip_latched hgate hlatch ?_
    unfold shearMore
    rcases hnot with hnow | hcounted
    · simp [hnow]
    · simp [hcounted]
  · refine runs_hoeTrip_again hgate hlatch ?_
    unfold shearMore
    simp [hnow, hfresh]

end Sys2Proof.Machine
end

section
/-! SUPPORT. The integer instructions (R53–R55, R83, R98, R109–R111): each is one `AluOut`, and its statement comes down to which word and
which flags that is. -/

namespace Sys2Proof.Machine

/-! ## Overflow and saturation -/

/-- An integer lies outside 40 bits exactly where the clamp changes it (R83). -/
theorem out40_eq_clamp (v : Int) : out40 v = decide (clamp 40 v ≠ v) := by
  rw [Bool.eq_iff_iff, out40, Bool.or_eq_true, decide_eq_true_eq, decide_eq_true_eq, decide_eq_true_eq]
  norm_num [clamp]
  omega

theorem out40_eq_range (v : Int) : out40 v = decide (v < -2 ^ 39 ∨ 2 ^ 39 - 1 < v) := by
  rw [out40, Bool.decide_or]
  exact congrArg _ (decide_eq_decide.2 Int.sub_one_lt_iff.symm)

/-! ## Results and flags of Table 4-9 -/

section
variable (a b : Word)

theorem aluAdd_eq : aluAdd a b = ⟨a + b, .zncv (decide (a + b = 0)) (bit (a + b) 39) (decide (2 ^ 40 ≤ a.toNat + b.toNat))
    (decide (sw a + sw b < -2 ^ 39 ∨ 2 ^ 39 - 1 < sw a + sw b)), false⟩ := by
  rw [aluAdd, out40_eq_range, carryAdd]

theorem aluSub_eq : aluSub a b = ⟨a - b, .zncv (decide (a - b = 0)) (bit (a - b) 39) (decide (b.toNat ≤ a.toNat))
    (decide (sw a - sw b < -2 ^ 39 ∨ 2 ^ 39 - 1 < sw a - sw b)), false⟩ := by
  rw [aluSub, out40_eq_range, carrySub]

/-- NEG is 0 − Ga: no borrow exactly at 0, and overflow exactly at −2^39 (R83). -/
theorem aluNeg_eq : aluSub 0 a = ⟨0 - a, .zncv (decide (0 - a = 0)) (bit (0 - a) 39) (decide (a = 0)) (decide (sw a = -2 ^ 39)), false⟩ := by
  have hzero : a.toNat ≤ (0 : Word).toNat ↔ a = 0 := by
    rw [show (0 : Word).toNat = 0 from rfl, Nat.le_zero]
    exact ⟨fun h => BitVec.eq_of_toNat_eq h, fun h => h ▸ rfl⟩
  have hmin : (sw 0 - sw a < -2 ^ 39 ∨ 2 ^ 39 - 1 < sw 0 - sw a) ↔ sw a = -2 ^ 39 := by
    have hbounds := sw_bounds a
    rw [show sw 0 = 0 from rfl]
    omega
  simp only [aluSub_eq, hzero, hmin]

theorem aluAdds_eq : aluAdds a b = ⟨wi (clamp 40 (sw a + sw b)), .zncv (decide (wi (clamp 40 (sw a + sw b)) = 0))
    (bit (wi (clamp 40 (sw a + sw b))) 39) (decide (2 ^ 40 ≤ a.toNat + b.toNat)) (decide (clamp 40 (sw a + sw b) ≠ sw a + sw b)),
    decide (clamp 40 (sw a + sw b) ≠ sw a + sw b)⟩ := by
  rw [aluAdds, out40_eq_clamp, satI_eq_clamp, carryAdd]

theorem aluSubs_eq : aluSubs a b = ⟨wi (clamp 40 (sw a - sw b)), .zncv (decide (wi (clamp 40 (sw a - sw b)) = 0))
    (bit (wi (clamp 40 (sw a - sw b))) 39) (decide (b.toNat ≤ a.toNat)) (decide (clamp 40 (sw a - sw b) ≠ sw a - sw b)),
    decide (clamp 40 (sw a - sw b) ≠ sw a - sw b)⟩ := by
  rw [aluSubs, out40_eq_clamp, satI_eq_clamp, carrySub]

theorem aluMin_eq : aluMin a b = aluLogic (if sw b < sw a then b else a) := by
  rw [aluMin, ← ite_not]
  simp only [not_le]

theorem aluMax_eq : aluMax a b = aluLogic (if sw b < sw a then a else b) := by
  rw [aluMax, ← ite_not]
  simp only [not_le]

/-- The most negative word. -/
theorem sw_eq_min_iff : sw a = -2 ^ 39 ↔ a = wd 0x8000000000 := by
  constructor
  · intro h
    exact BitVec.eq_of_toInt_eq (h.trans (by decide))
  · rintro rfl
    decide

/-- ABS saturates at −2^39 and nowhere else (R98). -/
theorem aluAbs_eq : aluAbs a =
    let ab := if sw a = -2 ^ 39 then wd 0x7FFFFFFFFF else wi (sw a).natAbs
    ⟨ab, .zncv (decide (ab = 0)) (bit ab 39) false false, decide (sw a = -2 ^ 39)⟩ := by
  unfold aluAbs
  by_cases h : a = wd 0x8000000000
  · simp [if_pos h, (sw_eq_min_iff a).2 h, flagsZN]
  · have hmin : sw a ≠ -2 ^ 39 := mt (sw_eq_min_iff a).1 h
    have habs : (if bit a 39 then -a else a) = wi (sw a).natAbs := by
      have hbit : bit a 39 = decide (sw a < 0) := by
        rw [bit, sw, ← BitVec.msb_eq_toInt]
        rfl
      have hself : wi (sw a) = a := BitVec.ofInt_toInt
      rw [hbit]
      by_cases hneg : sw a < 0
      · rw [if_pos (by simpa using hneg), Int.ofNat_natAbs_of_nonpos hneg.le, wi, BitVec.ofInt_neg]
        exact congrArg _ hself.symm
      · rw [if_neg (by simpa using hneg), Int.natAbs_of_nonneg (by omega), hself]
    rw [if_neg h, habs]
    dsimp only
    rw [if_neg hmin, decide_eq_false hmin]
    rfl

/-- SHL of any amount: from 40 on no bit is left (R98). -/
theorem aluShl_eq (k : Nat) : aluShl a k = aluLogic (wd (a.toNat * 2 ^ k)) := by
  unfold aluShl
  refine congrArg _ (BitVec.eq_of_toNat_eq ?_)
  rw [wd, BitVec.toNat_ofNat]
  split
  · next hk =>
    obtain ⟨j, rfl⟩ := Nat.exists_eq_add_of_le hk
    rw [pow_add, ← mul_assoc, mul_right_comm, Nat.mul_mod_left]
    rfl
  · rw [BitVec.toNat_shiftLeft, Nat.shiftLeft_eq]

theorem aluShr_eq (k : Nat) : aluShr a k = aluLogic (wd (a.toNat / 2 ^ k)) := by
  have hlt := a.isLt
  unfold aluShr
  refine congrArg _ (BitVec.eq_of_toNat_eq ?_)
  rw [wd, BitVec.toNat_ofNat, Nat.mod_eq_of_lt (lt_of_le_of_lt (Nat.div_le_self _ _) hlt)]
  split
  · next hk =>
    rw [Nat.div_eq_of_lt (lt_of_lt_of_le hlt (Nat.pow_le_pow_right (by decide) hk))]
    rfl
  · rw [BitVec.toNat_ushiftRight, Nat.shiftRight_eq_div_pow]

theorem aluAsh_eq (k : Int) : aluAsh a k =
    let e : Int := if 0 ≤ k then sw a * 2 ^ k.toNat else sw a / 2 ^ (-k).toNat
    ⟨wi (clamp 40 e), .zncv (decide (wi (clamp 40 e) = 0)) (bit (wi (clamp 40 e)) 39) false false, decide (clamp 40 e ≠ e)⟩ := by
  simp [aluAsh, ashExact, satI_eq_clamp, out40_eq_clamp, flagsZN]

end

/-! ## The instructions -/

section
variable {c : Instr} {f : State → State} {s : State} {t : TineNo} {gd : Gr} {len : Nat} {v : Word} {fl : FlagSet} {g : Bool}

/-- An instruction whose meaning is one `aluRetire` writes its result and retires. -/
theorem runs_alu {r : AluOut} (hready : Ready s t) (hexec : exec c s = .next (issue t c f s)) (hf : f s = aluRetire t gd r len s)
    (hr : r = ⟨v, fl, g⟩) : Runs c s (WroteG t gd v fl g len s) := by
  refine runs_of_ready hready hexec ?_
  rw [hf]
  subst hr
  exact aluRetire_wroteG t gd ⟨v, fl, g⟩ len s

end

/-- Settles O2: each instruction is one `AluOut` of its two operands, whose word and flags the equations above give. -/
theorem aluTwoRegister : Obligations.AluTwoRegister := fun _ _ hready =>
  ⟨fun _ => ⟨runs_alu hready rfl rfl (aluAdd_eq ..), runs_alu hready rfl rfl (aluSub_eq ..), runs_alu hready rfl rfl rfl,
      runs_alu hready rfl rfl rfl, runs_alu hready rfl rfl rfl⟩,
    fun _ _ _ => ⟨runs_alu hready rfl rfl (aluAdds_eq ..), runs_alu hready rfl rfl (aluSubs_eq ..), runs_alu hready rfl rfl rfl,
      runs_alu hready rfl rfl rfl, runs_alu hready rfl rfl (aluMin_eq ..), runs_alu hready rfl rfl (aluMax_eq ..)⟩⟩

/-- NORM and NORMM rest on the run of bits equal to the sign (R53, R54). -/
theorem norm40_spec (a : Word) : norm40 a ≤ 39 ∧ (∀ j, j ≤ norm40 a → bit a (39 - j) = bit a 39) ∧
    (norm40 a < 39 → bit a (38 - norm40 a) ≠ bit a 39) := by
  obtain ⟨hle, hrun, hend⟩ := runLen_spec a.toNat (bit a 39) 39
  refine ⟨hle, fun j hj => ?_, hend⟩
  cases j with
  | zero => rfl
  | succ j => exact hrun (j + 1) (by omega) hj

/-- MOVHI replaces the high 22 bits (R98). -/
theorem extract_movhi (w : Word) (imm : BitVec 22) :
    (setF w 18 22 imm.toNat).extractLsb' 18 22 = imm ∧ (setF w 18 22 imm.toNat).extractLsb' 0 18 = w.extractLsb' 0 18 := by
  refine ⟨BitVec.eq_of_toNat_eq ?_, BitVec.eq_of_toNat_eq (getF_setF_ne w _ (by decide))⟩
  exact (getF_setF_same w _ (by decide)).trans (Nat.mod_eq_of_lt imm.isLt)

/-- Settles O3: as O2, with the equations of the one-source and shift instructions. -/
theorem aluImmediateAndMove : Obligations.AluImmediateAndMove := by
  intro s t hready
  refine ⟨fun f => ?oneSource, fun f => ⟨runs_alu hready rfl rfl rfl, runs_alu hready rfl rfl (aluAdd_eq ..)⟩,
    fun gd ga imm => ?immediate, fun gd ga k => ⟨runs_alu hready rfl rfl (aluShl_eq ..), runs_alu hready rfl rfl (aluShr_eq ..)⟩,
    fun f gd a k len hform => ?ash⟩
  case oneSource =>
    obtain ⟨hle, hrun, hend⟩ := norm40_spec (unA s t f)
    exact ⟨runs_alu hready rfl rfl rfl, runs_alu hready rfl rfl (aluNeg_eq _), runs_alu hready rfl rfl rfl,
      runs_alu hready rfl rfl (aluAbs_eq _), norm40 (unA s t f), hle, runs_alu hready rfl rfl rfl, hrun, hend,
      runs_alu hready rfl rfl rfl⟩
  case immediate =>
    exact ⟨⟨_, runs_alu hready rfl rfl rfl, extract_movhi _ imm⟩, runs_alu hready rfl rfl rfl, runs_alu hready rfl rfl rfl,
      runs_alu hready rfl rfl rfl⟩
  case ash =>
    refine runs_alu (r := aluAsh a k) hready rfl ?_ (aluAsh_eq a k)
    rw [hform]

/-- Settles O4: a compare stores the flags of the difference and retires. -/
theorem comparesSetFlagsOnly : Obligations.ComparesSetFlagsOnly := by
  intro s t hready done
  have compared : ∀ {c : Instr} {f : State → State} {a b : Word} {len : Nat}, exec c s = .next (issue t c f s) →
      f s = cmpRetire t (aluSub a b) len s → Runs c s (done a b len) := fun {c f a b len} hexec hf => by
    refine runs_of_ready hready hexec ?_
    have hflags := cmpRetire_flags t (aluSub a b) len s
    rw [← hf, aluSub_eq] at hflags
    exact hflags
  exact ⟨fun _ => compared rfl rfl, fun _ => compared rfl rfl⟩

/-! ## Signatures (R109–R111) -/

/-- CRCW takes the four bytes one after the other, in the order that REFL chooses (R110). -/
theorem aluCrcw_eq (gd gs gp : Word) :
    let n := getF gp 32 5 + 1
    let crc0 := gd.toNat % 2 ^ n
    let one := fun (c i : Nat) => crcByte n (getF gp 0 32) (bit gp 38) c (getF gs (8 * i) 8)
    aluCrcw gd gs gp =
      ⟨wd (if bit gp 38 then one (one (one (one crc0 0) 1) 2) 3 else one (one (one (one crc0 3) 2) 1) 0), .none, false⟩ := by
  intro n crc0 one
  cases hrefl : bit gp 38 <;> simp [aluCrcw, one, n, crc0, hrefl]

/-- The parity of the low `w` bits is that of the number of ones among them (R111). -/
theorem parity_eq (w n : Nat) : parity w n = ((List.range w).filter fun i => n.testBit i).length % 2 := by
  induction w generalizing n with
  | zero => rfl
  | succ k ih =>
    have hrest : (((List.range k).map Nat.succ).filter fun i => n.testBit i).length =
        ((List.range k).filter fun i => (n / 2).testBit i).length := by
      rw [List.filter_map, List.length_map]
      simp only [Function.comp_def, Nat.testBit_succ]
    rw [parity, ih, List.range_succ_eq_map, List.filter_cons, Nat.testBit_zero]
    split
    · next hodd =>
      rw [decide_eq_true_eq] at hodd
      rw [List.length_cons, hrest, hodd]
      omega
    · next heven =>
      rw [decide_eq_true_eq] at heven
      rw [hrest]
      omega

theorem aluPar_eq (v : Word) (w : Nat) :
    aluPar v w = ⟨wd (b2n (decide (parity w v.toNat = 1))), .z (!decide (parity w v.toNat = 1)), false⟩ := by
  unfold aluPar
  rw [parity_eq]
  obtain h | h := Nat.mod_two_eq_zero_or_one ((List.range w).filter fun i => v.toNat.testBit i).length <;> rw [h] <;> rfl

theorem brevN_lt (w x : Nat) : brevN w x < 2 ^ w := by
  induction w generalizing x with
  | zero => exact Nat.one_pos
  | succ k ih =>
    have hlow := ih (x / 2)
    have hbit := Nat.mod_lt x (show 0 < 2 by decide)
    rw [brevN, pow_succ]
    nlinarith

/-- Bit `i` of the reversal of `w` bits is bit `w` − 1 − `i` (R95, R111). -/
theorem testBit_brevN {w i : Nat} (x : Nat) (hi : i < w) : (brevN w x).testBit i = x.testBit (w - 1 - i) := by
  induction w generalizing x with
  | zero => cases hi
  | succ k ih =>
    rw [brevN, mul_comm, Nat.testBit_two_pow_mul_add _ (brevN_lt k _)]
    split
    · next hlt =>
      rw [ih _ hlt, ← Nat.testBit_succ]
      congr 1
      omega
    · next hge =>
      obtain rfl : i = k := by omega
      simp

theorem bit_brev (v : Word) {w : Nat} (hw : w ≤ 40) (i : Nat) :
    bit (setF v 0 w (brevN w (v.toNat % 2 ^ w))) i = if i < w then bit v (w - 1 - i) else bit v i := by
  rw [bit_setF, Nat.zero_add, Nat.sub_zero]
  by_cases hi : i < w
  · have hlow : w - 1 - i < w := by omega
    have h40 : i < 40 := by omega
    simp only [hi, h40, Nat.zero_le, true_and, if_true, decide_true, Bool.true_and, testBit_brevN _ hi, Nat.testBit_mod_two_pow, hlow]
    rfl
  · simp [hi]

/-- Settles O5: each is one `AluOut`; the parity and the reversal are told bit by bit. -/
theorem signatureInstructions : Obligations.SignatureInstructions := by
  intro s t gd gs gp w hready p v n poly refl crc0 one
  refine ⟨fun h37 h39 => ?crc, fun hreserved => ?illegal, fun hlo hhi => ?bits⟩
  case crc =>
    have hlegal : ¬ (bit p 37 || bit p 39) = true := by simp [h37, h39]
    exact ⟨runs_alu hready rfl (if_neg hlegal) rfl, runs_alu hready rfl (if_neg hlegal) (aluCrcw_eq ..)⟩
  case illegal =>
    have hillegal : (bit p 37 || bit p 39) = true := by simpa using hreserved
    exact ⟨runs_of_ready hready rfl (by rw [if_pos hillegal]; exact illegal_of_ready hready),
      runs_of_ready hready rfl (by rw [if_pos hillegal]; exact illegal_of_ready hready)⟩
  case bits =>
    have hwidth : widthOk w = true := by simp [widthOk, hlo, hhi]
    refine ⟨⟨decide (parity w.toNat v.toNat = 1), runs_alu hready rfl (if_pos hwidth) (aluPar_eq ..), ?_⟩,
      _, runs_alu hready rfl (if_pos hwidth) rfl, fun i hi => ?_, fun i hi => ?_⟩
    · rw [decide_eq_true_eq, parity_eq]
      rfl
    · exact (bit_brev v hhi i).trans (if_pos hi)
    · exact (bit_brev v hhi i).trans (if_neg (by omega))

end Sys2Proof.Machine
end

section
/-! SUPPORT. Branches and calls (R86, R97, R98): how a retirement goes on at a target, with or without a link, and the statement about
them. -/

namespace Sys2Proof.Machine

/-! ## Transfers of control -/

section
variable {t : TineNo} {s a : State} {offs : List Nat}

theorem side_retireTo (t : Nat) (target : BitVec 14) (s : State) :
    Side t [oRETIRED, oCLOCHE, oSCNT] s (retireTo t target s) :=
  ((side_setPc t target s).trans (side_retireEnd t false _)).mono (by simp)

theorem getG_retireTo (t : Nat) (target : BitVec 14) (s : State) (i : Gr) : getG (retireTo t target s) t i = getG s t i :=
  keepsG_of_side (side_retireTo t target s) (by decide) i (by simp)

/-- A transfer of control, after updates that touch bank registers at most (R97, R98). -/
theorem jumped_retireTo (h : Touches t offs s a) (hoffs : ∀ o ∈ offs, 0x2D0 ≤ o) (hacc : ∀ n, getAcc a t n = getAcc s t n)
    (target : BitVec 14) : Jumped t target s (retireTo t target a) ∧ Retired t offs s (retireTo t target a) := by
  have hside := side_retireTo t target a
  have hcalm : ∀ o, o < 0x2D0 → o ∉ offs := fun o ho hm => absurd (hoffs o hm) (by omega)
  refine ⟨⟨?_, fun n _ => (getAcc_of_side hside n).trans (hacc n), ?_, ?_⟩, ?_⟩
  · rw [retireTo, pc_retireEnd, setPc, tineAt_modTine_same]
  · rw [hside.page oTST (by decide) (by decide), h.page oTST (by decide) (hcalm _ (by decide))]
  · rw [hside.page oLSTAT (by decide) (by decide), h.page oLSTAT (by decide) (hcalm _ (by decide))]
  · have hretired : Retired t [] a (retireTo t target a) := retired_of_side false (side_setPc t target a) (by simp)
    exact (hretired.after h (hcalm _ (by decide))).mono fun o ho => .inl (by simpa using ho)

/-- A transfer of control that writes no register. -/
theorem jumps (t : TineNo) (target : BitVec 14) (s : State) : Jumped t target s (retireTo t target s) ∧
    KeepsG t [] s (retireTo t target s) ∧ Retired t [] s (retireTo t target s) :=
  have ⟨hjumped, hretired⟩ := jumped_retireTo (Touches.refl t s) (by simp) (fun _ => rfl) target
  ⟨hjumped, fun i _ => getG_retireTo t target s i, hretired⟩

/-- A transfer of control with a link (R98). -/
theorem jumps_link (t : TineNo) (target : BitVec 14) (gl : Gr) (link : Word) (s : State) :
    Jumped t target s (retireTo t target (setG t gl link s)) ∧ getG (retireTo t target (setG t gl link s)) t gl = link ∧
      KeepsG t [gl] s (retireTo t target (setG t gl link s)) ∧ Retired t [gOff s t gl] s (retireTo t target (setG t gl link s)) := by
  obtain ⟨hjumped, hretired⟩ := jumped_retireTo (touches_setG t gl link s) (by simp [gOff_ge]) (getAcc_setG s t gl link) target
  refine ⟨hjumped, ?_, fun i hi => ?_, hretired⟩
  · rw [getG_retireTo, getG_setG_same]
  · rw [getG_retireTo, getG_setG_ne _ _ _ (by simpa using hi)]

/-- G0 to G27 have no register in the page (R143). -/
theorem Retired.of_unbanked {gl : Gr} (h : Retired t [gOff s t gl] s a) (hgl : gl.val < 28) : Retired t [] s a :=
  { h with page := fun off ho _ hs => h.page off ho (by simp [gOff, hgl]; omega) hs }

/-- The condition of a BRC is that of R97 on the flags of TST. -/
theorem runs_brc {c : Instr} {f : State → State} {k : BitVec 4} {target : BitVec 14} {len : Nat} (hready : Ready s t) (hk : k ≠ 15)
    (hexec : exec c s = .next (issue t c f s))
    (hf : f s = if k.toNat = 15 then illegal t s else if condNow s t k then retireTo t target s else retire t len s) :
    Runs c s fun s' => Retired t [] s s' ∧ KeepsG t [] s s' ∧ reg s' (pgTine t) oTST = reg s (pgTine t) oTST ∧
      (if condNow s t k then Jumped t target s s' else Moves t len s s') := by
  have hlegal : ¬ k.toNat = 15 := fun h => hk (BitVec.eq_of_toNat_eq h)
  refine runs_of_ready hready hexec ?_
  rw [hf, if_neg hlegal]
  split
  · obtain ⟨hjumped, hg, hretired⟩ := jumps t target s
    exact ⟨hretired, hg, hjumped.flags, hjumped⟩
  · obtain ⟨hg, -, hretired, hmoves⟩ := retire_plain t len s
    exact ⟨hretired, hg, tst_retire .., hmoves⟩

end

/-- Settles O15: each form either retires to its target, with or without a link, or goes on as a NOP does. -/
theorem branchesAndCalls : Obligations.BranchesAndCalls := by
  intro s t hready pc z n c v holds
  refine ⟨fun off => ?br, fun ga => ?jmp, fun ga => ?callC, fun gl target => ?callF, fun k off hk => ?brcC, fun k target hk => ?brcF, ?nop⟩
  case br => exact runs_of_ready hready rfl (jumps t _ s)
  case jmp => exact runs_of_ready hready rfl (jumps t _ s)
  case callC =>
    obtain ⟨hjumped, hlink, hg, hretired⟩ := jumps_link t ((getG s t ga).setWidth 14) (Fin.ofNat 32 27) ((pc + 1).setWidth 40) s
    exact runs_of_ready hready rfl ⟨hjumped, hlink, hg, hretired.of_unbanked (by decide)⟩
  case callF => exact runs_of_ready hready rfl (jumps_link t target gl ((pc + 2).setWidth 40) s)
  case brcC => exact runs_brc hready hk rfl rfl
  case brcF => exact runs_brc hready hk rfl rfl
  case nop =>
    obtain ⟨hg, hacc, hretired, hmoves⟩ := retire_plain t 1 s
    exact runs_of_ready hready rfl ⟨hretired, hg, hacc, hmoves⟩

end Sys2Proof.Machine
end

section
/-! SUPPORT. Loops and repeats (R101, R104–R106): where a retirement goes on, loops back, ends a level or stays in place, and the
statement about them. -/

namespace Sys2Proof.Machine

/-! ## The four ways of a retirement (R101, R106) -/

/-- LD of LSTAT: the loop levels in use (Table 4-13). -/
abbrev loopLevels (s : State) (t : Nat) : Nat := getF (reg s (pgTine t) oLSTAT) 0 3

/-- FLOOR of LSTAT. -/
abbrev loopFloor (s : State) (t : Nat) : Nat := getF (reg s (pgTine t) oLSTAT) 3 3

theorem loopLevels_lt (s : State) (t : Nat) : loopLevels s t < 8 := getF_lt _ 0 3

/-- The instruction at PC is the last of the innermost level above the floor (R106). -/
def AtLoopEnd (s : State) (t : Nat) : Prop :=
  loopFloor s t < loopLevels s t ∧ loopLevels s t ≤ 4 ∧ regF s (pgTine t) (oLE (loopLevels s t - 1)) 0 14 = (tineAt s t).pc.toNat

section
variable {s : State} {t : Nat} (len : Nat)

/-- In a repeat that has not ended the PC stays (R101). -/
theorem advance_repeat (hrep : bit (reg s (pgTine t) oLSTAT) 20 = true) (hmore : 1 < getF (reg s (pgTine t) oLSTAT) 6 13) :
    advance t len s = setRegF (pgTine t) oLSTAT 6 13 (getF (reg s (pgTine t) oLSTAT) 6 13 - 1) s := by
  unfold advance
  dsimp only
  rw [if_pos hrep, if_pos hmore]

variable (hrep : bit (reg s (pgTine t) oLSTAT) 20 = false)
include hrep

theorem advance_loopTest : advance t len s =
    setPc t (loopTest t [(tineAt s t).pc] ((tineAt s t).pc + BitVec.ofNat 14 len) s).1
      (loopTest t [(tineAt s t).pc] ((tineAt s t).pc + BitVec.ofNat 14 len) s).2 := by
  unfold advance
  dsimp only
  rw [if_neg (by simp [hrep])]

/-- Elsewhere than at a loop's end the PC moves past the instruction. -/
theorem advance_next (hend : ¬ AtLoopEnd s t) : advance t len s = setPc t ((tineAt s t).pc + BitVec.ofNat 14 len) s := by
  rw [advance_loopTest len hrep]
  unfold loopTest
  dsimp only
  rw [if_neg fun h => hend ⟨h.1, h.2.1, by simpa using h.2.2⟩]

variable (hend : AtLoopEnd s t)
include hend

/-- At a loop's end the count goes down; while it is not 0 the loop goes on at its start (R106). -/
theorem advance_loopBack (hlc : reg s (pgTine t) (oLC (loopLevels s t - 1)) - 1 ≠ 0) : advance t len s =
    setPc t (BitVec.ofNat 14 (regF s (pgTine t) (oLS (loopLevels s t - 1)) 0 14))
      (setReg (pgTine t) (oLC (loopLevels s t - 1)) (reg s (pgTine t) (oLC (loopLevels s t - 1)) - 1) s) := by
  rw [advance_loopTest len hrep]
  unfold loopTest
  dsimp only
  rw [if_pos ⟨hend.1, hend.2.1, by simpa using hend.2.2⟩, if_pos hlc]

/-- With the count at 0 the level ends (R106). -/
theorem advance_loopDone (hlc : reg s (pgTine t) (oLC (loopLevels s t - 1)) - 1 = 0) : advance t len s =
    setPc t ((tineAt s t).pc + BitVec.ofNat 14 len) (setRegF (pgTine t) oLSTAT 0 3 (loopLevels s t - 1)
      (setReg (pgTine t) (oLC (loopLevels s t - 1)) 0 s)) := by
  rw [advance_loopTest len hrep]
  unfold loopTest
  dsimp only
  rw [if_pos ⟨hend.1, hend.2.1, by simpa using hend.2.2⟩, hlc]
  rfl

end

/-! ## What is seen after a retirement -/

section
variable {s : State} {t : Nat} {len : Nat}

theorem pc_retire (t len : Nat) (s : State) : (tineAt (retire t len s) t).pc = (tineAt (advance t len s) t).pc := pc_retireEnd ..

/-- Registers that no retirement changes once the PC has moved. -/
theorem reg_retire_advance {off : Nat} (hoff : off < 1024) (hne : off ∉ [oRETIRED, oCLOCHE, oSCNT]) :
    reg (retire t len s) (pgTine t) off = reg (advance t len s) (pgTine t) off :=
  (side_retireEnd t false _).page off hoff hne

@[simp] theorem pc_setPc (t : Nat) (a : BitVec 14) (s : State) : (tineAt (setPc t a s) t).pc = a := by
  rw [setPc, tineAt_modTine_same]

@[simp] theorem reg_setPc (t : Nat) (a : BitVec 14) (s : State) (pg off : Nat) : reg (setPc t a s) pg off = reg s pg off := rfl

end

/-! ## Loops (R105, R106) -/

section
variable {s : State} {t : TineNo}

/-- LOOP and LOOPR with a count begin a level (R105). -/
def loopBegun (t : TineNo) (c : Word) (e : BitVec 13) (s : State) : State :=
  setRegF (pgTine t) oLSTAT 0 3 (loopLevels s t + 1) (setReg (pgTine t) (oLC (loopLevels s t)) c
    (setReg (pgTine t) (oLE (loopLevels s t)) (((tineAt s t).pc + e.setWidth 14).setWidth 40)
      (setReg (pgTine t) (oLS (loopLevels s t)) ((pcNext s t 2).setWidth 40) s)))

theorem startLoop_eq {c : Word} {e : BitVec 13} (he : 2 ≤ e.toNat) (hld : loopLevels s t < 4) (hc : c ≠ 0) :
    startLoop t c e s = retire t 2 (loopBegun t c e s) := by
  unfold startLoop regF
  dsimp only
  rw [if_neg (by omega), if_neg hc, if_neg (show ¬ 4 ≤ loopLevels s t by omega)]
  rfl

theorem getF_setWidth (a : BitVec 14) : getF (a.setWidth 40) 0 14 = a.toNat := by
  have ha := a.isLt
  rw [getF, BitVec.extractLsb'_toNat, BitVec.toNat_setWidth]
  omega

section
variable (c : Word) (e : BitVec 13) (hld : loopLevels s t < 4)
include hld

/-- What a new level leaves alone. -/
theorem quiet_loopBegun :
    Quiet t [oLS (loopLevels s t), oLE (loopLevels s t), oLC (loopLevels s t), oLSTAT] s (loopBegun t c e s) := by
  have hcalm : ∀ {o : Nat}, oLS 0 ≤ o → o < 0x2D0 → ∀ (v : Word) (x : State), Quiet t [o] x (setReg (pgTine t) o v x) :=
    fun hlo hhi v x => .of_setReg t v x hhi fun h => absurd (h ▸ hlo) (by decide)
  exact (((hcalm (by unfold oLS; omega) (by unfold oLS; omega) _ _).trans
    (hcalm (by unfold oLS oLE; omega) (by unfold oLE; omega) _ _)).trans
    (hcalm (by unfold oLS oLC; omega) (by unfold oLC; omega) _ _)).trans (.of_setReg t _ _ (by decide) fun h => absurd h (by decide))

/-- The registers of a new level (R105). -/
theorem reg_loopBegun :
    reg (loopBegun t c e s) (pgTine t) oLSTAT = setF (reg s (pgTine t) oLSTAT) 0 3 (loopLevels s t + 1) ∧
    reg (loopBegun t c e s) (pgTine t) (oLC (loopLevels s t)) = c ∧
    reg (loopBegun t c e s) (pgTine t) (oLE (loopLevels s t)) = ((tineAt s t).pc + e.setWidth 14).setWidth 40 ∧
    reg (loopBegun t c e s) (pgTine t) (oLS (loopLevels s t)) = (pcNext s t 2).setWidth 40 := by
  unfold loopBegun setRegF oLC oLE oLS oLSTAT
  refine ⟨?_, ?_, ?_, ?_⟩
  · rw [reg_setReg_same, reg_setReg_off _ _ (by omega), reg_setReg_off _ _ (by omega), reg_setReg_off _ _ (by omega)]
  · rw [reg_setReg_off _ _ (by omega), reg_setReg_same]
  · rw [reg_setReg_off _ _ (by omega), reg_setReg_off _ _ (by omega), reg_setReg_same]
  · rw [reg_setReg_off _ _ (by omega), reg_setReg_off _ _ (by omega), reg_setReg_off _ _ (by omega), reg_setReg_same]

variable {e}

/-- A new level does not end at the instruction that begins it (R105, R106). -/
theorem not_atLoopEnd_loopBegun (he : 2 ≤ e.toNat) : ¬ AtLoopEnd (loopBegun t c e s) t := by
  obtain ⟨hlstat, -, hle, -⟩ := reg_loopBegun c e hld
  rintro ⟨-, -, hend⟩
  have hlevels : loopLevels (loopBegun t c e s) t = loopLevels s t + 1 := by
    rw [loopLevels, hlstat, getF_setF_same _ _ (by decide)]
    omega
  have hpc : (tineAt (loopBegun t c e s) t).pc = (tineAt s t).pc := (quiet_loopBegun c e hld).pc
  rw [hlevels, Nat.add_sub_cancel, regF, hle, getF_setWidth, hpc] at hend
  have hsum := BitVec.eq_of_toNat_eq hend
  have he' := e.isLt
  bv_omega

end

/-- LOOP and LOOPR with a count (R105). -/
theorem begun_startLoop {c : Word} {e : BitVec 13} (he : 2 ≤ e.toNat) (hld : loopLevels s t < 4) (hc : c ≠ 0)
    (hrep : bit (reg s (pgTine t) oLSTAT) 20 = false) :
    let ld := loopLevels s t
    let pc := (tineAt s t).pc
    let s' := startLoop t c e s
    regF s' (pgTine t) oLSTAT 0 3 = ld + 1 ∧ reg s' (pgTine t) (oLC ld) = c ∧
      reg s' (pgTine t) (oLE ld) = (pc + e.setWidth 14).setWidth 40 ∧ reg s' (pgTine t) (oLS ld) = (pc + 2).setWidth 40 ∧
      (tineAt s' t).pc = pc + 2 ∧ KeepsG t [] s s' ∧ KeepsAcc t [] s s' ∧ Retired t [oLE ld, oLS ld] s s' := by
  intro ld pc s'
  let y := loopBegun t c e s
  have hs' : s' = retire t 2 y := startLoop_eq he hld hc
  obtain ⟨hlstat, hlc, hle, hls⟩ := reg_loopBegun c e hld
  have hquiet := quiet_loopBegun c e hld
  have hrep' : bit (reg y (pgTine t) oLSTAT) 20 = false := by rw [hlstat, bit_setF_ne _ _ (by decide), hrep]
  have hadvance : advance t 2 y = setPc t ((tineAt y t).pc + 2) y := advance_next 2 hrep' (not_atLoopEnd_loopBegun c hld he)
  have hreg : ∀ off, off < 1024 → off ∉ [oRETIRED, oCLOCHE, oSCNT] → reg (retire t 2 y) (pgTine t) off = reg y (pgTine t) off :=
    fun off hoff hne => by rw [reg_retire_advance hoff hne, hadvance, reg_setPc]
  have hpc : (tineAt y t).pc = pc := hquiet.pc
  have hoffs : ∀ d, d < 4 → (oLC d < 1024 ∧ oLC d ∉ [oRETIRED, oCLOCHE, oSCNT]) ∧ (oLE d < 1024 ∧ oLE d ∉ [oRETIRED, oCLOCHE, oSCNT]) ∧
      (oLS d < 1024 ∧ oLS d ∉ [oRETIRED, oCLOCHE, oSCNT]) ∧ oRETIRED ∉ [oLS d, oLE d, oLC d, oLSTAT] ∧ oLC d ∈ sideOffs := by decide
  obtain ⟨⟨hc1, hc2⟩, ⟨he1, he2⟩, ⟨hs1, hs2⟩, hcount, hside⟩ := hoffs ld hld
  rw [hs']
  refine ⟨?_, (hreg _ hc1 hc2).trans hlc, (hreg _ he1 he2).trans hle, (hreg _ hs1 hs2).trans hls, ?_,
    fun i _ => (getG_retire ..).trans (hquiet.getG i), fun n _ => (getAcc_retire ..).trans (hquiet.getAcc n),
    (hquiet.retired hcount 2).mono fun o ho => ?_⟩
  · rw [regF, hreg _ (by decide) (by decide), hlstat, getF_setF_same _ _ (by decide)]
    omega
  · rw [pc_retire, hadvance, pc_setPc, hpc]
  · simp only [List.mem_cons, List.not_mem_nil, or_false] at ho
    obtain rfl | rfl | rfl | rfl := ho
    · exact .inl (List.mem_cons_of_mem _ List.mem_cons_self)
    · exact .inl List.mem_cons_self
    · exact .inr hside
    · exact .inr (by decide)

/-- ENDL leaves a level above the floor (R106). -/
theorem endl_retire (hfloor : loopFloor s t < loopLevels s t) (hrep : bit (reg s (pgTine t) oLSTAT) 20 = false)
    (hend : loopLevels s t - 1 ≤ loopFloor s t ∨ regF s (pgTine t) (oLE (loopLevels s t - 2)) 0 14 ≠ (tineAt s t).pc.toNat) :
    let s' := retire t 1 (setRegF (pgTine t) oLSTAT 0 3 (loopLevels s t - 1) s)
    regF s' (pgTine t) oLSTAT 0 3 = loopLevels s t - 1 ∧ Retired t [] s s' ∧ KeepsG t [] s s' ∧
      (tineAt s' t).pc = (tineAt s t).pc + 1 := by
  let y := setRegF (pgTine t) oLSTAT 0 3 (loopLevels s t - 1) s
  have hquiet : Quiet t [oLSTAT] s y := .of_setReg t _ s (by decide) fun h => absurd h (by decide)
  have hlstat : reg y (pgTine t) oLSTAT = setF (reg s (pgTine t) oLSTAT) 0 3 (loopLevels s t - 1) := reg_setReg_same ..
  have hlevels : loopLevels y t = loopLevels s t - 1 := by
    have hlt := loopLevels_lt s t
    rw [loopLevels, hlstat, getF_setF_same _ _ (by decide)]
    exact Nat.mod_eq_of_lt (by omega)
  have hend' : ¬ AtLoopEnd y t := by
    rintro ⟨hlo, -, hle⟩
    rw [hlevels, loopFloor, hlstat, getF_setF_ne _ _ (by decide)] at hlo
    have hoff : oLE (loopLevels s t - 2) < 1024 ∧ oLE (loopLevels s t - 2) ≠ oLSTAT := by
      have hlt := loopLevels_lt s t
      unfold oLE oLSTAT
      omega
    rw [hlevels, Nat.sub_sub, hquiet.pc, regF, hquiet.page _ hoff.1 (by simpa using hoff.2)] at hle
    exact hend.elim (fun h => absurd hlo (not_lt.2 h)) fun h => h hle
  have hadvance : advance t 1 y = setPc t ((tineAt y t).pc + 1) y :=
    advance_next 1 (by rw [hlstat, bit_setF_ne _ _ (by decide), hrep]) hend'
  refine ⟨?_, (hquiet.retired (by decide) 1).mono (by decide), fun i _ => (getG_retire ..).trans (hquiet.getG i), ?_⟩
  · rw [regF, reg_retire_advance (by decide) (by decide), hadvance, reg_setPc]
    exact hlevels
  · rw [pc_retire, hadvance, pc_setPc, hquiet.pc]

/-- A NOP at a loop's end (R106). -/
theorem nop_loopEnd (hrep : bit (reg s (pgTine t) oLSTAT) 20 = false) (hend : AtLoopEnd s t) :
    let s' := retire t 1 s
    let ld := loopLevels s t
    let lc := reg s (pgTine t) (oLC (ld - 1)) - 1
    reg s' (pgTine t) (oLC (ld - 1)) = lc ∧
      (lc ≠ 0 → (tineAt s' t).pc.toNat = regF s (pgTine t) (oLS (ld - 1)) 0 14 ∧ regF s' (pgTine t) oLSTAT 0 3 = ld) ∧
      (lc = 0 → (tineAt s' t).pc = (tineAt s t).pc + 1 ∧ regF s' (pgTine t) oLSTAT 0 3 = ld - 1) := by
  intro s' ld lc
  have ⟨hfloor, hle4, _⟩ := hend
  have hoffs : ∀ d, d < 4 → oLC d < 1024 ∧ oLC d ∉ [oRETIRED, oCLOCHE, oSCNT] ∧ oLC d ≠ oLSTAT := by decide
  obtain ⟨hlt, hnotin, hne⟩ := hoffs (ld - 1) (by omega)
  have hreg : ∀ off, off < 1024 → off ∉ [oRETIRED, oCLOCHE, oSCNT] → reg s' (pgTine t) off = reg (advance t 1 s) (pgTine t) off :=
    fun _ h h' => reg_retire_advance h h'
  have hpc : (tineAt s' t).pc = (tineAt (advance t 1 s) t).pc := pc_retire ..
  by_cases hlc : lc = 0
  · have hadvance := advance_loopDone 1 hrep hend hlc
    rw [hadvance] at hreg hpc
    refine ⟨?_, fun h => absurd hlc h, fun _ => ⟨by simpa using hpc, ?_⟩⟩
    · rw [hreg _ hlt hnotin, hlc, reg_setPc]
      exact (reg_setReg_off _ _ hne).trans (reg_setReg_same ..)
    · rw [regF, hreg _ (by decide) (by decide), reg_setPc, setRegF, reg_setReg_same, getF_setF_same _ _ (by decide)]
      exact Nat.mod_eq_of_lt (show ld - 1 < 8 by omega)
  · have hadvance := advance_loopBack 1 hrep hend hlc
    rw [hadvance] at hreg hpc
    refine ⟨?_, fun _ => ⟨?_, ?_⟩, fun h => absurd h hlc⟩
    · rw [hreg _ hlt hnotin, reg_setPc, reg_setReg_same]
    · rw [hpc, pc_setPc, BitVec.toNat_ofNat]
      exact Nat.mod_eq_of_lt (getF_lt _ 0 14)
    · rw [regF, hreg _ (by decide) (by decide), reg_setPc, reg_setReg_off _ _ hne.symm]

/-! ## Repeats (R101, R104) -/

/-- A repeat begins: RC counts it and RA is set; with U a cloche opens over it (R101, R104). -/
theorem begun_startRep {n len : Nat} (u : Bool) (hlegal : nextForbidden s t (pcNext s t len) = false) (hn : n < 2 ^ 13) :
    let s' := startRep t n u len s
    regF s' (pgTine t) oLSTAT 6 13 = n ∧ regB s' (pgTine t) oLSTAT 20 = true ∧ (tineAt s' t).pc = pcNext s t len ∧
      Retired t [] s s' ∧ KeepsG t [] s s' ∧
      (u = true → n < 2 ^ 7 → regF s (pgTine t) oCLOCHE 0 7 = 0 → regF s' (pgTine t) oCLOCHE 0 7 = n) := by
  intro s'
  let l := setF (setF (reg s (pgTine t) oLSTAT) 6 13 n) 19 2 (b2n u + 2)
  let s1 := setReg (pgTine t) oLSTAT l s
  let s2 := if u then openCloche t n s1 else s1
  let s3 := modTine t (fun x => { x with repLen := Tbl.set (fun _ => 1) x.repLen (tLvl s t) len }) s2
  let s4 := setPc t (pcNext s t len) s3
  let opens := u && decide (regF s (pgTine t) oCLOCHE 0 7 = 0)
  have hs' : s' = retireEnd t opens s4 := by
    show startRep t n u len s = _
    unfold startRep
    rw [if_neg (by simp [hlegal])]
  have h1 : Side t [oLSTAT] s s1 := side_setReg t oLSTAT l s (by decide)
  have h2 : Side t [oCLOCHE] s1 s2 :=
    side_ite _ (fun _ => side_ite _ (fun _ => side_setReg t oCLOCHE _ s1 (by decide)) fun _ => (Side.refl t s1).mono (by simp))
      fun _ => (Side.refl t s1).mono (by simp)
  have h3 : Side t [] s2 s3 := side_modTine t _ s2 fun _ => ⟨rfl, rfl, rfl, rfl⟩
  have h4 : Side t [] s2 s4 := h3.trans (side_setPc t _ s3)
  have hbegun : Side t [oLSTAT, oCLOCHE] s s4 := (h1.trans h2).trans h4
  have hend := side_retireEnd t opens s4
  have hlstat : reg s' (pgTine t) oLSTAT = l := by
    rw [hs', hend.page oLSTAT (by decide) (by decide), (h2.trans h4).page oLSTAT (by decide) (by decide)]
    exact reg_setReg_same ..
  refine ⟨?_, ?_, ?_, ?_, ?_, fun hu hn7 hclosed => ?_⟩
  · rw [regF, hlstat, getF_setF_ne _ _ (by decide), getF_setF_same _ _ (by decide), Nat.mod_eq_of_lt hn]
  · rw [regB, hlstat, bit_setF]
    cases u <;> rfl
  · rw [hs', pc_retireEnd, pc_setPc]
  · rw [hs']
    exact (retired_of_side opens hbegun (by decide)).mono (by decide)
  · rw [hs']
    exact keepsG_of_side (hbegun.trans hend) (by decide)
  · have hopens : opens = true := by simp [opens, hu, hclosed]
    have hs2 : s2 = setReg (pgTine t) oCLOCHE (wd n) s1 := by
      show (if u then openCloche t n s1 else s1) = _
      rw [if_pos hu, openCloche, if_pos]
      rw [regF, h1.page oCLOCHE (by decide) (by decide)]
      exact hclosed
    rw [hs', hopens, regF, (side_retireEnd_opener t s4).page oCLOCHE (by decide) (by decide), h4.page oCLOCHE (by decide) (by simp), hs2,
      reg_setReg_same, getF_wd _ _ _ (by decide), pow_zero, Nat.div_one, Nat.mod_eq_of_lt hn7]

end

/-- Settles O16: a level begun or left, a repeat begun, and the four ways a retirement goes on. -/
theorem loopsRepeat : Obligations.LoopsRepeat := by
  intro s t hready pc ls ld floor plain
  refine ⟨fun e he hld hrep => ?loop, fun hfloor hld4 hrep hend => ?endl, fun n hlegal => ?rep, fun g u hpos hmax hlegal => ?repr,
    fun hrep hfloor hld4 hend => ?loopBack, fun hrep hmore => ?repeated, fun hplain => ?plain⟩
  case loop =>
    refine ⟨fun n hn => runs_of_ready hready rfl (begun_startLoop he hld ?_ hrep),
      fun g hg => runs_of_ready hready rfl (begun_startLoop he hld hg hrep)⟩
    intro hzero
    exact hn (by bv_omega)
  case endl =>
    have hleave : (if floor < ld then setRegF (pgTine t) oLSTAT 0 3 (ld - 1) s else s) = setRegF (pgTine t) oLSTAT 0 3 (ld - 1) s :=
      if_pos hfloor
    have hdone := endl_retire hfloor hrep hend
    rw [← hleave] at hdone
    exact runs_of_ready hready rfl hdone
  case rep =>
    have hn := n.isLt
    refine ⟨?_, fun hn64 hclosed => ?_⟩
    · obtain ⟨hrc, hra, hpc, hretired, hg, -⟩ := begun_startRep (n := n.toNat + 1) (len := 1) false hlegal (by omega)
      exact runs_of_ready hready rfl ⟨hrc, hra, hpc, hretired, hg⟩
    · obtain ⟨hrc, hra, hpc, hretired, hg, hcloche⟩ := begun_startRep (n := n.toNat + 1) (len := 1) true hlegal (by omega)
      refine runs_of_ready hready rfl ?_
      rw [if_neg (by omega)]
      exact ⟨hrc, hra, hcloche rfl (by omega) hclosed, hpc, hretired, hg⟩
  case repr =>
    have hlt : (getG s t g).toNat < 2 ^ 13 := by split at hmax <;> omega
    obtain ⟨hrc, hra, hpc, hretired, hg, -⟩ := begun_startRep (n := (getG s t g).toNat) (len := 2) u hlegal hlt
    refine runs_of_ready hready rfl ?_
    rw [if_neg (by omega), if_pos hpos]
    exact ⟨hrc, hra, hpc, hretired, hg⟩
  case loopBack => exact runs_of_ready hready rfl (nop_loopEnd hrep ⟨hfloor, hld4, hend⟩)
  case repeated =>
    refine runs_of_ready hready rfl ⟨?_, ?_⟩
    · rw [pc_retire, advance_repeat 1 hrep hmore]
      rfl
    · rw [regF, reg_retire_advance (by decide) (by decide), advance_repeat 1 hrep hmore, setRegF, reg_setReg_same,
        getF_setF_same _ _ (by decide)]
      have hlt := getF_lt (reg s (pgTine t) oLSTAT) 6 13
      exact Nat.mod_eq_of_lt (by omega)
  case plain =>
    obtain ⟨hrep, hnot⟩ := hplain
    have hadvance : advance t 1 s = setPc t (pc + 1) s := advance_next 1 hrep fun h => hnot ⟨h.1, h.2.2⟩
    refine runs_of_ready hready rfl ⟨?_, ?_⟩
    · rw [pc_retire, hadvance, pc_setPc]
    · rw [reg_retire_advance (by decide) (by decide), hadvance, reg_setPc]

end Sys2Proof.Machine
end

section
/-! SUPPORT. Loads of words, half-words and double words (R92–R96, R115, R124–R126): what each writes once its data returned, the two
returns of a double word at an odd address, and the statement about them. -/

namespace Sys2Proof.Machine

/-- The head's data returns, with nothing behind it. -/
theorem runs_headData {x z : State} {t : TineNo} {P : State → Prop} (hreturn : loadReturn t [] x = z)
    (hwindow : (tineAt z t).window = []) (hP : P z) : Runs (.loadDataReturn t headData) x P := by
  have hgo : windowGo t (loadReturn t [] x) = z := by rw [hreturn, windowGo_of_empty hwindow]
  exact ⟨z, congrArg Host.Outcome.next hgo, hP⟩

/-! ## Loads of one register -/

section
variable {s : State} {t : TineNo} (hready : Ready s t) (hsb : (tineAt s t).sb = []) (hchain : NoChainRead s t)
include hready hsb hchain

/-- A load of one plain word that writes one G register. -/
theorem runs_loadOne {c : Instr} {f : State → State} {k : LoadKind} {gt : Gr} {va pa : Nat} {upds : List (Gr × Word)} {len : Nat}
    {v : Word} (hexec : exec c s = .next (issue t c f s)) (hstart : f s = loadStart t k [[pa]] [va] upds len none s)
    (hplain : PlainWord s t va pa) (hsplit : splitFirst k [va] [.read pa] = none)
    (hdone : ∀ x, loadDone t k [.read pa] [memGet s pa] upds len none x = retire t len (setG t gt v (doUpds t upds x)))
    (hnodup : (upds.map Prod.fst).Nodup) :
    Runs c s fun s1 => Waiting t s s1 ∧ Runs (.loadDataReturn t headData) s1 (Loaded t gt v upds len s) := by
  have hquiet : Quiet t [] s (loading t k [pa] [va] upds len s) := quiet_loading
  refine runs_load (groups := [[pa]]) hready hsb hchain hexec hstart (by simp) (by simpa using ⟨va, hplain⟩) hsplit (hdone _)
    (window_retire len ?_) (retire_loaded hquiet gt v hnodup len)
  exact (touches_setG t gt v _).window ((touches_doUpds t upds _).window (hquiet.window (window_of_ready hready)))

/-- A word load (R92). -/
theorem runs_loadWord {c : Instr} {f : State → State} {gt : Gr} {ea : Word} {pa : Nat} {upds : List (Gr × Word)} {len : Nat}
    (hexec : exec c s = .next (issue t c f s)) (hstart : f s = loadWord t gt ea upds len s) (hplain : PlainWord s t (wordVa ea) pa)
    (hnodup : (upds.map Prod.fst).Nodup) :
    Runs c s fun s1 => Waiting t s s1 ∧ Runs (.loadDataReturn t headData) s1 (Loaded t gt (memGet s pa) upds len s) := by
  have hwords : List.Forall₂ (PlainWord s t) [wordVa ea] [pa] := .cons hplain .nil
  refine runs_loadOne (k := .word gt) hready hsb hchain hexec (hstart.trans ?_) hplain rfl (fun _ => rfl) hnodup
  unfold loadWord
  rw [xlatWords_plain hwords]

theorem runs_ld {f : LdSt} {pa : Nat} (hok : ldstOk f = true) (hplain : PlainWord s t (wordVa (ldstEa s t f).1) pa) :
    Runs (.ld t f) s fun s1 => Waiting t s s1 ∧ Runs (.loadDataReturn t headData) s1
      (Loaded t (ldstGt f) (memGet s pa) (updList (ldstEa s t f).2) (ldstLen f) s) :=
  runs_loadWord hready hsb hchain rfl (if_pos hok) hplain (nodup_updList _)

/-- LDH: the half that EA names, sign-extended (R92). -/
theorem runs_ldh {l : LS} {pa : Nat} (hok : lsOk l = true) (hplain : PlainWord s t (halfVa (lsEa s t l).1) pa) :
    let w := memGet s pa
    let h : BitVec 20 := if bit (lsEa s t l).1 0 then w.extractLsb' 20 20 else w.extractLsb' 0 20
    Runs (.ldh t l) s fun s1 => Waiting t s s1 ∧
      Runs (.loadDataReturn t headData) s1 (Loaded t l.gt (h.signExtend 40) (updList (lsEa s t l).2) 2 s) := by
  intro w h
  have hwords : List.Forall₂ (PlainWord s t) [halfVa (lsEa s t l).1] [pa] := .cons hplain .nil
  have hval : wi (if halfSel (lsEa s t l).1 then halfHi w else halfLo w) = h.signExtend 40 := by
    have hlo : halfLo w = (w.extractLsb' 0 20).toInt := sx_toNat _
    have hhi : halfHi w = (w.extractLsb' 20 20).toInt := sx_toNat _
    rw [hlo, hhi, ← apply_ite BitVec.toInt]
    rfl
  refine runs_loadOne (k := .half l.gt (halfSel (lsEa s t l).1)) hready hsb hchain rfl ?_ hplain rfl (fun _ => by rw [← hval]; rfl)
    (nodup_updList _)
  rw [if_pos hok]
  dsimp only
  rw [xlatWords_plain hwords]

end

/-! ## Double words (R124, R125) -/

/-- A double word has been loaded: both registers hold their halves, the address register has moved (R96, R124). -/
def LoadedPair (t : TineNo) (l : LS) (w0 w1 : Word) (upds : List (Gr × Word)) (s s' : State) : Prop :=
  getG s' t l.gt = w0 ∧ getG s' t (gtNext l) = w1 ∧ (∀ i, i ≠ l.gt → i ≠ gtNext l → getG s' t i = afterUpds s t upds i) ∧
    KeepsAcc t [] s s' ∧ reg s' (pgTine t) oTST = reg s (pgTine t) oTST ∧
    Retired t ([gOff s t l.gt, gOff s t (gtNext l)] ++ upds.map fun u => gOff s t u.1) s s' ∧ Moves t 2 s s'

/-- A legal double word names two registers (R124). -/
theorem gt_ne_gtNext {l : LS} {load : Bool} (hok : dwordOk l load = true) : l.gt ≠ gtNext l := by
  simp only [dwordOk, Bool.and_eq_true, decide_eq_true_eq] at hok
  obtain ⟨⟨heven, -⟩, -⟩ := hok
  intro he
  have hval : l.gt.val = (l.gt.val + 1) % 32 := congrArg Fin.val he
  omega

section
variable {s a : State} {t : TineNo} {l : LS} {upds : List (Gr × Word)}

theorem loadedPair_retire (h : Quiet t [] s a) (hne : l.gt ≠ gtNext l) (hnodup : (upds.map Prod.fst).Nodup) (w0 w1 : Word) :
    LoadedPair t l w0 w1 upds s (retire t 2 (setG t (gtNext l) w1 (setG t l.gt w0 (doUpds t upds a)))) := by
  have hupds : Touches t (upds.map fun u => gOff s t u.1) s (doUpds t upds a) := touches_doUpds_quiet h
  have hlow := touches_setG t l.gt w0 (doUpds t upds a)
  have hhigh := touches_setG t (gtNext l) w1 (setG t l.gt w0 (doUpds t upds a))
  rw [hlow.gOff, hupds.gOff] at hhigh
  rw [hupds.gOff] at hlow
  have hall : Touches t ([gOff s t l.gt, gOff s t (gtNext l)] ++ upds.map fun u => gOff s t u.1) s
      (setG t (gtNext l) w1 (setG t l.gt w0 (doUpds t upds a))) :=
    ((hupds.trans hlow).trans hhigh).mono fun o ho => by
      simp only [List.mem_append, List.mem_cons, List.not_mem_nil, or_false] at ho ⊢
      tauto
  have hcalm : ∀ o, o < 0x2D0 → o ∉ [gOff s t l.gt, gOff s t (gtNext l)] ++ upds.map fun u => gOff s t u.1 := fun o ho hm => by
    simp only [List.mem_append, List.mem_cons, List.not_mem_nil, or_false] at hm
    obtain (hm | hm) | hm := hm
    · exact (lt_gOff s t l.gt ho).ne hm
    · exact (lt_gOff s t (gtNext l) ho).ne hm
    · exact notMem_upds ho upds s t hm
  refine ⟨?_, ?_, fun i hi hi' => ?_, fun n _ => ?_, ?_, hall.retired (hcalm _ (by decide)) 2, hall.moves (hcalm _ (by decide)) 2⟩
  · rw [getG_retire, getG_setG_ne _ _ _ hne, getG_setG_same]
  · rw [getG_retire, getG_setG_same]
  · rw [getG_retire, getG_setG_ne _ _ _ hi', getG_setG_ne _ _ _ hi, getG_doUpds_quiet h hnodup]
  · rw [getAcc_retire, getAcc_setG, getAcc_setG, getAcc_doUpds_quiet h]
  · rw [tst_retire, hall.page oTST (by decide) (hcalm _ (by decide))]

end

/-- A tine that has the first half of a split load and waits for the second (R125). -/
def halfLoaded (t : TineNo) (gt : Gr) (w0 : Word) (p1 : Nat) (vas : List Nat) (upds : List (Gr × Word)) (s : State) : State :=
  modTine t (fun x => { x with flight := some (.load (.dbl gt) [.have' w0, .read p1] vas upds 2 none) }) s

theorem awake_modTine {s : State} {pa : Nat} (h : Awake s pa) (t : Nat) (f : Tine → Tine) : Awake (modTine t f s) pa :=
  ⟨h.region, h.clean, h.up⟩

section
variable {x : State} {t : TineNo} {gt : Gr} {p1 : Nat} {vas : List Nat} {upds : List (Gr × Word)} (hsb : (tineAt x t).sb = [])
  (hdrain : (tineAt x t).drain = []) (h1 : Awake x p1)
include hsb hdrain h1

/-- The first half of a split load returns by itself (R125). -/
theorem loadReturn_firstHalf {p0 v : Nat} (h0 : Awake x p0) (hodd : v % 2 = 1)
    (hflight : (tineAt x t).flight = some (.load (.dbl gt) [.read p0, .read p1] (v :: vas) upds 2 none)) :
    loadReturn t [] x = halfLoaded t gt (memGet x p0) p1 (v :: vas) upds x := by
  have hsplit : splitFirst (.dbl gt) (v :: vas) [.read p0, .read p1] = some (p0, p1) := if_pos hodd
  have hwaits : [LSrc.read p0, .read p1].any (srcWaits x t) = false := by simp [srcWaits, physWaits_awake h0, physWaits_awake h1]
  have hover : [LSrc.read p0, .read p1].any (srcOver [] none) = false := by simp [srcOver]
  unfold loadReturn
  simp only [hflight, hsb, hdrain, hover, hwaits, hsplit, loadHalf, loadSwap, physRead_awake h0, List.isEmpty_nil, List.contains_nil,
    List.headD_nil, Bool.not_true, Bool.and_false, Bool.or_false, Bool.false_eq_true, if_false]
  rfl

/-- The second half of a split load returns (R125). -/
theorem loadReturn_secondHalf {w0 : Word}
    (hflight : (tineAt x t).flight = some (.load (.dbl gt) [.have' w0, .read p1] vas upds 2 none)) :
    loadReturn t [] x = loadDone t (.dbl gt) [.have' w0, .read p1] [w0, memGet x p1] upds 2 none x := by
  have hsplit : splitFirst (.dbl gt) vas [.have' w0, .read p1] = none := by cases vas <;> rfl
  have hwaits : [LSrc.have' w0, .read p1].any (srcWaits x t) = false := by simp [srcWaits, physWaits_awake h1]
  have hover : [LSrc.have' w0, .read p1].any (srcOver [] none) = false := by simp [srcOver]
  unfold loadReturn
  simp only [hflight, hsb, hdrain, hover, hwaits, hsplit, loadHalf, loadSwap, readAll, physRead_awake h1, List.isEmpty_nil,
    List.contains_nil, List.headD_nil, Bool.not_true, Bool.and_false, Bool.or_false, Bool.false_eq_true, if_false, List.nil_append]
  rfl

end

section
variable {s : State} {t : TineNo} (hready : Ready s t) (hsb : (tineAt s t).sb = []) (hchain : NoChainRead s t)
include hready hsb hchain

/-- LDD: at an even address both words return together, at an odd one after the other (R124, R125). -/
theorem runs_ldd {l : LS} {p0 p1 : Nat} (hok : dwordOk l true = true) (h0 : PlainWord s t (wordVa (lsEa s t l).1) p0)
    (h1 : PlainWord s t (vaPlus (wordVa (lsEa s t l).1) 1) p1) :
    Runs (.ldd t l) s fun s1 => Waiting t s s1 ∧
      (wordVa (lsEa s t l).1 % 2 = 0 → Runs (.loadDataReturn t headData) s1
        (LoadedPair t l (memGet s p0) (memGet s p1) (updList (lsEa s t l).2) s)) ∧
      (wordVa (lsEa s t l).1 % 2 = 1 → Runs (.loadDataReturn t headData) s1 fun s2 => Waiting t s s2 ∧
        Runs (.loadDataReturn t headData) s2 (LoadedPair t l (memGet s p0) (memGet s p1) (updList (lsEa s t l).2) s)) := by
  obtain ⟨-, hdrain, hflight, hwindow⟩ := idle_of_ready hready
  have hawake0 : Awake s p0 := awake_of_plainWord h0 hflight
  have hawake1 : Awake s p1 := awake_of_plainWord h1 hflight
  let upds := updList (lsEa s t l).2
  let vas := [wordVa (lsEa s t l).1, vaPlus (wordVa (lsEa s t l).1) 1]
  let x := loading t (.dbl l.gt) [p0, p1] vas upds 2 s
  let y := halfLoaded t l.gt (memGet s p0) p1 vas upds x
  have hexec : exec (.ldd t l) s = .next x := by
    have hstart := loadStart_plain (groups := [[p0, p1]]) hsb hchain (by simp) (by simp [hawake0.region, hawake1.region]) (.dbl l.gt)
      vas upds 2
    rw [exec, execLdd]
    dsimp only
    rw [issueDword, hready.1, hready.2, hok, dwordCheck_plain h0 h1]
    exact congrArg _ hstart
  have hx : Quiet t [] s x := quiet_loading
  have hy : Quiet t [] s y := hx.trans (.of_tine t x (fun _ => ⟨rfl, rfl, rfl, id⟩) fun _ => ⟨rfl, rfl⟩)
  have ends : ∀ z, Quiet t [] s z → loadReturn t [] z =
      retire t 2 (setG t (gtNext l) (memGet s p1) (setG t l.gt (memGet s p0) (doUpds t upds z))) →
      Runs (.loadDataReturn t headData) z (LoadedPair t l (memGet s p0) (memGet s p1) upds s) := fun z hz hreturn => by
    have hempty := window_retire 2 ((touches_setG t (gtNext l) (memGet s p1) _).window
      ((touches_setG t l.gt (memGet s p0) _).window ((touches_doUpds t upds z).window (hz.window hwindow))))
    exact runs_headData hreturn hempty (loadedPair_retire hz (gt_ne_gtNext hok) (nodup_updList _) _ _)
  have hxtine : tineAt x t = { tineAt s t with flight := some (.load (.dbl l.gt) [.read p0, .read p1] vas upds 2 none) } :=
    tineAt_modTine_same ..
  have hytine : tineAt y t = { tineAt x t with flight := some (.load (.dbl l.gt) [.have' (memGet s p0), .read p1] vas upds 2 none) } :=
    tineAt_modTine_same ..
  have hxflight : (tineAt x t).flight = some (.load (.dbl l.gt) [.read p0, .read p1] vas upds 2 none) := congrArg Tine.flight hxtine
  have hyflight : (tineAt y t).flight = some (.load (.dbl l.gt) [.have' (memGet s p0), .read p1] vas upds 2 none) :=
    congrArg Tine.flight hytine
  have hxdrain : (tineAt x t).drain = [] := (congrArg Tine.drain hxtine).trans hdrain
  have hydrain : (tineAt y t).drain = [] := (congrArg Tine.drain hytine).trans hxdrain
  refine ⟨x, hexec, waiting_loading, fun hva => ends x hx ?_, fun hva => runs_headData (z := y) ?_ ?_ ⟨?_, ends y hy ?_⟩⟩
  · refine loadReturn_loading hsb hdrain (by simp [hawake0, hawake1]) (if_neg ?_)
    omega
  · exact loadReturn_firstHalf (hx.sb.trans hsb) hxdrain (awake_modTine hawake1 t _) (awake_modTine hawake0 t _) hva hxflight
  · exact hy.window hwindow
  · exact ⟨by rw [hyflight]; rfl, hy.pc, rfl, rfl, hy.getG, hy.getAcc⟩
  · exact loadReturn_secondHalf (hy.sb.trans hsb) hydrain (awake_modTine (awake_modTine hawake1 t _) t _) hyflight

end

/-- Settles O10: each load waits, and its data goes where its kind says; a split double word waits once more. -/
theorem loadsReadMemory : Obligations.LoadsReadMemory := fun _ _ hready hsb hchain =>
  ⟨fun _ _ hok hplain => runs_ld hready hsb hchain hok hplain,
    fun _ _ _ _ hplain => runs_loadWord hready hsb hchain rfl rfl hplain (by simp),
    fun _ _ hok hplain => runs_ldh hready hsb hchain hok hplain,
    fun _ _ _ hok h0 h1 => runs_ldd hready hsb hchain hok h0 h1⟩

end Sys2Proof.Machine
end

section
/-! SUPPORT. The hopper instructions (R100, R123, R252, R253, R255, R260): what a pop and an accepted push change, what the notice of a
push leaves alone of a tine, a push that waits, and the statement about them. -/

namespace Sys2Proof.Machine

/-! ## What an event leaves alone of a tine -/

/-- The registers of a tine that an arrival may change: the pending bits and the takeover count (R160, R168). -/
def noticeOffs : List Nat := [oPENDLO, oPENDLO + 1, oSCNT]

/-- Whatever arrivals made `s'` of `s`, tine `t` holds what it held but for the entry chosen, and so does its page but for the
registers above. -/
structure Noticed (t : Nat) (s s' : State) : Prop where
  tine : ∃ e, tineAt s' t = { tineAt s t with entry := e }
  page : ∀ off, off < 1024 → off ∉ noticeOffs → reg s' (pgTine t) off = reg s (pgTine t) off

section
variable {t : Nat} {s x y : State}

theorem Noticed.refl (t : Nat) (s : State) : Noticed t s s := ⟨⟨_, rfl⟩, fun _ _ _ => rfl⟩

theorem Noticed.trans (h : Noticed t s x) (k : Noticed t x y) : Noticed t s y := by
  obtain ⟨e, he⟩ := h.tine
  obtain ⟨e', he'⟩ := k.tine
  exact ⟨⟨e', by rw [he', he]⟩, fun off ho hn => (k.page off ho hn).trans (h.page off ho hn)⟩

/-- A change of one tine, its own or another's. -/
theorem Noticed.of_side {u : Nat} {offs : List Nat} (h : Side u offs s x) (hoffs : ∀ o ∈ offs, o ∈ noticeOffs)
    (hentry : ∃ e, tineAt x u = { tineAt s u with entry := e }) (t : Nat) : Noticed t s x := by
  by_cases hu : t = u
  · subst hu
    exact ⟨hentry, fun off ho hn => h.page off ho (mt (hoffs off) hn)⟩
  · exact ⟨⟨_, h.only.tines t hu⟩, fun off ho _ => h.only.pages _ off ho (by unfold pgTine; omega)⟩

theorem noticed_raise {n : Nat} (hn : n < 64) (t u : Nat) (s : State) : Noticed t s (raise u n s) := by
  have hoff : ∀ k, k < 2 → oPENDLO + k ∈ noticeOffs := by decide
  have hpend : Side u [oPENDLO + n / 32] s (setPend u n true s) := side_setReg u _ _ s (by unfold oPENDLO; omega)
  unfold raise
  split
  · exact (Noticed.of_side hpend (by simpa using hoff (n / 32) (by omega)) ⟨_, rfl⟩ t).trans
      (.of_side (side_sieveUpdate u _) (by simp [noticeOffs]) (tineAt_sieveUpdate u _) t)
  · exact .refl t s

/-- An event is made of arrivals at tines, of losses at vacant slots, and of notes of the members chosen (R175, R176, R405). -/
theorem raiseUnit_induction {P : State → Prop} {n : Nat} (hraise : ∀ u x, P x → P (raise u n x))
    (hlost : ∀ x, P x → P (bumpF pgNurs 0x016 12 12 1 x)) (hnote : ∀ u ks x, P x → P (noteRR u ks x)) (level unit : Nat) {s : State}
    (h : P s) : P (raiseUnit level unit n s) := by
  have hall : ∀ (f : Nat → State → State), (∀ k x, P x → P (f k x)) → ∀ (l : List Nat) (x : State), P x → P (forAll l f x) :=
    fun f hf l => by
      induction l with
      | nil => exact fun _ hx => hx
      | cons a l ih => exact fun x hx => ih _ (hf a x hx)
  have hlog : ∀ l x, P x → P (raiseLog n l x) := fun l x hx => by
    unfold raiseLog
    split
    · exact hraise _ x hx
    · exact hlost x hx
  have hplot : ∀ p x, P x → P (raisePlot n p x) := fun p x hx => hall _ (fun k y hy => hlog _ y hy) _ _ (hnote p _ x hx)
  have hbed : ∀ b x, P x → P (raiseBed n b x) := fun b x hx => hall _ (fun k y hy => hplot _ y hy) _ _ (hnote (16 + b) _ x hx)
  unfold raiseUnit
  split
  · exact hlog _ s h
  · exact hplot _ s h
  · exact hbed _ s h
  · exact hall _ hbed _ _ (hnote 20 _ s h)
  · exact h

theorem noticed_raiseUnit {n : Nat} (hn : n < 64) (t level unit : Nat) (s : State) : Noticed t s (raiseUnit level unit n s) := by
  refine raiseUnit_induction (P := Noticed t s) (fun u x hx => hx.trans (noticed_raise hn t u x)) (fun x hx => hx.trans ⟨⟨_, rfl⟩, ?_⟩)
    (fun u ks x hx => hx.trans ?_) level unit (.refl t s)
  · exact fun off ho _ => reg_setReg_page x _ (by unfold pgTine pgNurs; omega) ho (by decide)
  · unfold noteRR
    split
    · split <;> exact ⟨⟨_, rfl⟩, fun _ _ _ => rfl⟩
    · exact .refl t x

section
variable (h : Noticed t s x)
include h

theorem Noticed.getG (i : Gr) : getG x t i = getG s t i := by
  obtain ⟨e, he⟩ := h.tine
  have hlvl : tLvl x t = tLvl s t := lvl_of_tst (h.page oTST (by decide) (by decide))
  unfold Machine.getG
  rw [he, bankOff_of_lvl hlvl]
  split
  · rfl
  · have hi := i.isLt
    have hlt := bankOff_lt s t (show i.val - 28 < 4 by omega)
    have hge := bankOff_ge s t (i.val - 28)
    refine h.page _ (by omega) fun hm => ?_
    simp only [noticeOffs, oPENDLO, oSCNT, List.mem_cons, List.not_mem_nil, or_false] at hm
    omega

theorem Noticed.getAcc (n : Nat) : getAcc x t n = getAcc s t n := by
  obtain ⟨e, he⟩ := h.tine
  unfold Machine.getAcc
  rw [he]

end

end

/-! ## Pops and accepted pushes -/

/-- A value offered to the gauges changes nothing but them (R437). -/
theorem gaugeTake_eq (qty src : Nat) (v : Int) (clipped : Bool) (s : State) :
    ∃ g, gaugeTake qty src v clipped s = { s with gauges := g } := by
  have hoffer : ∀ k x, ∃ g, gaugeOffer qty src v clipped k x = { x with gauges := g } := fun k x => by
    unfold gaugeOffer
    dsimp only
    split
    · split <;> exact ⟨_, rfl⟩
    · exact ⟨_, rfl⟩
  unfold gaugeTake
  generalize List.range 64 = l
  induction l generalizing s with
  | nil => exact ⟨_, rfl⟩
  | cons k l ih =>
    obtain ⟨g, hg⟩ := hoffer k s
    obtain ⟨g', hg'⟩ := ih (gaugeOffer qty src v clipped k s)
    exact ⟨g', by rw [forAll, hg', hg]⟩

/-- A pop takes its item out of one hopper; gauges see the new depth (R252, R261, R262). -/
theorem popDone_eq (h : Nat) (item : Word) (l : Option Nat) (items : List Word) (back : List (Word × Nat)) (s : State) :
    ∃ g q, popDone h item l items back s = { setHop h q s with gauges := g } ∧ q.items = items ∧ q.back = back ∧
      q.retained.length ≤ (hopAt s h).retained.length + 1 := by
  unfold popDone
  extract_lets q depth tail ret
  obtain ⟨g, hg⟩ := gaugeTake_eq 4 h (depth : Nat) false (setHop h { items := items, retained := ret, back := back, tailEnd := tail } s)
  refine ⟨g, _, hg, rfl, rfl, ?_⟩
  show ret.length ≤ _
  simp only [ret]
  split
  · rw [List.length_append]
    rfl
  · exact Nat.le_succ _

/-- The notice of a push is an event or nothing (R260). -/
theorem hopNotice_cases (h before : Nat) (s : State) :
    hopNotice h before s = s ∨ ∃ level unit n, n < 64 ∧ hopNotice h before s = raiseUnit level unit n s := by
  unfold hopNotice
  extract_lets n c thr fire
  split
  · have hn := getF_lt n 2 4
    exact .inr ⟨_, _, _, by omega, rfl⟩
  · exact .inl rfl

/-- The notice of a push leaves the tines' operands, memory and the hoppers as they are. -/
theorem hopNotice_spec (h before : Nat) (s : State) : (∀ t, Noticed t s (hopNotice h before s)) ∧
    (hopNotice h before s).mem = s.mem ∧ (hopNotice h before s).hops = s.hops := by
  obtain hnone | ⟨level, unit, n, hn, hevent⟩ := hopNotice_cases h before s
  · rw [hnone]
    exact ⟨fun t => .refl t s, rfl, rfl⟩
  · rw [hevent]
    have hboxes := (raiseUnit_arrivals hn level unit s).boxes_eq
    simp only [boxes, Prod.mk.injEq] at hboxes
    obtain ⟨hmem, hhops, -, -⟩ := hboxes
    exact ⟨fun t => noticed_raiseUnit hn t level unit s, hmem, hhops⟩

/-- An accepted push appends its item to one hopper; its notice arrives at tines (R252, R260). -/
theorem hopAccept_spec (h : Nat) (item : Word) (s : State) : (∀ t, Noticed t s (hopAccept h item s)) ∧
    (hopAccept h item s).mem = s.mem ∧ ∃ e, (hopAccept h item s).hops =
      (setHop h { hopAt s h with items := (hopAt s h).items ++ [item], tailEnd := e } s).hops := by
  unfold hopAccept
  extract_lets q before tail s1
  obtain ⟨g, hg⟩ := gaugeTake_eq 4 h (before + 1 : Nat) false s1
  rw [hg]
  have hplain : ∀ t, Noticed t s { s1 with gauges := g } := fun t => ⟨⟨_, rfl⟩, fun _ _ _ => rfl⟩
  obtain ⟨hnoticed, hmem, hhops⟩ := hopNotice_spec h before { s1 with gauges := g }
  exact ⟨fun t => (hplain t).trans (hnoticed t), hmem, tail, hhops⟩

/-! ## The instructions -/

section
variable {s : State} {t : TineNo}

theorem domHeld_of_run {d : Nat} (h : domSt s d = .run) : domHeld s d = false := by simp [domHeld, h]

/-- A word taken from a hopper is written and the instruction retires. -/
theorem loaded_popped (t : TineNo) (g : Gr) (w : Word) (len : Nat) (y : State) :
    Loaded t g w [] len y (retire t len (setG t g w y)) ∧ (retire t len (setG t g w y)).hops = y.hops ∧
      (retire t len (setG t g w y)).mem = y.mem := by
  have hloaded : Loaded t g w [] len y (retire t len (setG t g w y)) := retire_loaded (.refl t y) g w (by simp) len
  exact ⟨hloaded, by rw [hloaded.retired.only.fields], by rw [hloaded.retired.only.fields]⟩

section
variable (hready : Ready s t) (hrun : domSt s domTrel = .run) {f : HopForm}
include hready hrun

/-- HPOP of an empty hopper (R253). -/
theorem runs_hpop_empty (hmay : hopFault s t (hopNo s t f) true = none) (hback : (hopAt s (hopNo s t f)).back = [])
    (hitems : (hopAt s (hopNo s t f)).items = []) :
    Runs (.hpop t f) s fun s' => getG s' t (hopG f) = voidWord ∧ KeepsG t [hopG f] s s' ∧ KeepsAcc t [] s s' ∧
      s'.hops = s.hops ∧ Retired t [gOff s t (hopG f)] s s' ∧ Moves t (hopLen f) s s' := by
  obtain ⟨hloaded, hhops, -⟩ := loaded_popped t (hopG f) voidWord (hopLen f) s
  have hpop : hopPop (hopNo s t f) (logOf s t) s = (voidWord, s) := by simp [hopPop, hback, hitems, findPos, bestItem]
  refine runs_of_ready hready rfl ?_
  dsimp only
  rw [hmay]
  dsimp only
  rw [domHeld_of_run hrun, if_neg Bool.false_ne_true, hpop]
  exact ⟨hloaded.result, fun i hi => hloaded.others i (by simpa using hi), hloaded.accs, hhops, hloaded.retired, hloaded.pc⟩

/-- HPOP takes the best item (R252). -/
theorem runs_hpop_best (hmay : hopFault s t (hopNo s t f) true = none) (hback : (hopAt s (hopNo s t f)).back = [])
    (hitems : (hopAt s (hopNo s t f)).items ≠ []) :
    let h := hopNo s t f
    let q := hopAt s h
    ∃ k w, IsBest q.items k w ∧ Runs (.hpop t f) s fun s' => getG s' t (hopG f) = w ∧ KeepsG t [hopG f] s s' ∧ KeepsAcc t [] s s' ∧
      (hopAt s' h).items = q.items.eraseIdx k ∧ (hopAt s' h).retained.length ≤ q.retained.length + 1 ∧
      (∀ j, j ≠ h → hopAt s' j = hopAt s j) ∧ s'.mem = s.mem ∧
      reg s' (pgTine t) oRETIRED = reg s (pgTine t) oRETIRED + 1 ∧ Moves t (hopLen f) s s' := by
  intro h q
  obtain ⟨k, w, hk, hbest⟩ := bestItem_isBest hitems
  obtain ⟨g, x, hy, hxitems, -, hxret⟩ := popDone_eq h w (logOf s t) (q.items.eraseIdx k) q.back s
  have hpop : hopPop h (logOf s t) s = (w, { setHop h x s with gauges := g }) := by
    rw [← hy]
    simp [hopPop, q, h, hback, findPos, hk, hbest.1]
  obtain ⟨hloaded, hhops, hmem⟩ := loaded_popped t (hopG f) w (hopLen f) { setHop h x s with gauges := g }
  have hhop : ∀ j, hopAt (retire t (hopLen f) (setG t (hopG f) w { setHop h x s with gauges := g })) j = hopAt (setHop h x s) j :=
    fun j => by rw [hopAt, hhops]; rfl
  refine ⟨k, w, hbest, runs_of_ready hready rfl ?_⟩
  dsimp only
  rw [hmay]
  dsimp only
  rw [domHeld_of_run hrun, if_neg Bool.false_ne_true, hpop]
  refine ⟨hloaded.result, fun i hi => hloaded.others i (by simpa using hi), hloaded.accs, ?_, ?_, fun j hj => ?_, hmem,
    hloaded.retired.count, hloaded.pc⟩
  · rw [hhop, hopAt_setHop_same, hxitems]
  · rw [hhop, hopAt_setHop_same]
    exact hxret
  · rw [hhop, hopAt_setHop_ne _ _ hj]

/-- HPUSH at a tine that may push comes to the offer of its item (R100). -/
theorem runs_hpush {P : State → Prop} (hmay : hopFault s t (hopNo s t f) false = none)
    (hP : P (tinePush t (hopNo s t f) (getG s t (hopG f)) (hopLen f) s)) : Runs (.hpush t f) s P := by
  refine runs_of_ready hready rfl ?_
  dsimp only
  rw [hmay]
  dsimp only
  rwa [domHeld_of_run hrun, if_neg Bool.false_ne_true]

end

/-- What an accepted push of a tine leaves behind (R100, R252). -/
structure Pushed (t : TineNo) (h : Nat) (item : Word) (s s' : State) : Prop where
  items : (hopAt s' h).items = (hopAt s h).items ++ [item]
  back : (hopAt s' h).back = (hopAt s h).back
  retained : (hopAt s' h).retained = (hopAt s h).retained
  others : ∀ j, j ≠ h → hopAt s' j = hopAt s j
  mem : s'.mem = s.mem
  regs : KeepsG t [] s s'
  accs : KeepsAcc t [] s s'
  count : reg s' (pgTine t) oRETIRED = reg s (pgTine t) oRETIRED + 1

/-- A push to a hopper with room appends and retires. -/
theorem tinePush_room {h : Nat} {item : Word} (hslots : 0 < hopSlots s h) (hkind : getF item 32 4 ≠ 15) (hroom : hopFull s h = false)
    (len : Nat) : tinePush t h item len s = retire t len (hopAccept h item s) := by
  unfold tinePush hopOffer
  rw [if_neg (by omega), if_neg hkind, hroom]
  rfl

/-- A push to a full hopper waits in flight. -/
theorem tinePush_full {h : Nat} {item : Word} (hflight : (tineAt s t).flight = none) (hkind : getF item 32 4 ≠ 15)
    (hfull : hopFull s h = true) (len : Nat) : tinePush t h item len s =
      haltHeld t (sieveUpdate t (modTine t (fun x => { x with flight := some (.hpush item h len) }) (setReg (pgTine t) oCLOCHE 0 s))) := by
  have hslots : 0 < hopSlots s h := by
    simp only [hopFull, Bool.and_eq_true, decide_eq_true_eq] at hfull
    exact hfull.1
  unfold tinePush hopOffer
  rw [if_neg (by omega), if_neg hkind, if_pos hfull]
  dsimp only
  rw [hflight]
  rfl

theorem pushed_retire (t : TineNo) (h : Nat) (item : Word) (len : Nat) (s : State) :
    Pushed t h item s (retire t len (hopAccept h item s)) := by
  obtain ⟨hnoticed, hmem, e, hhops⟩ := hopAccept_spec h item s
  have hret := retire_side t len (hopAccept h item s)
  have hhop : ∀ j, hopAt (retire t len (hopAccept h item s)) j =
      hopAt (setHop h { hopAt s h with items := (hopAt s h).items ++ [item], tailEnd := e } s) j := fun j => by
    rw [hopAt, hret.only.fields]
    exact congrArg (fun m => Tbl.get hopDflt m j) hhops
  refine ⟨?_, ?_, ?_, fun j hj => ?_, ?_, fun i _ => ?_, fun n _ => ?_, ?_⟩
  · rw [hhop, hopAt_setHop_same]
  · rw [hhop, hopAt_setHop_same]
  · rw [hhop, hopAt_setHop_same]
  · rw [hhop, hopAt_setHop_ne _ _ hj]
  · rw [hret.only.fields]
    exact hmem
  · rw [getG_retire, (hnoticed t).getG]
  · rw [getAcc_retire, (hnoticed t).getAcc]
  · rw [hret.count, (hnoticed t).page oRETIRED (by decide) (by decide)]

/-- What a tine does that must wait: it ends its cloche and gives events their turn (R100). -/
theorem waits_sieveUpdate (fl : Flight) (hnohalt : ∀ pr, (tineAt s t).dreq ≠ .halt pr) :
    let s' := haltHeld t (sieveUpdate t (modTine t (fun x => { x with flight := some fl }) (setReg (pgTine t) oCLOCHE 0 s)))
    (tineAt s' t).flight = some fl ∧ reg s' (pgTine t) oCLOCHE = 0 ∧ s'.hops = s.hops ∧
      reg s' (pgTine t) oRETIRED = reg s (pgTine t) oRETIRED ∧ (tineAt s' t).pc = (tineAt s t).pc := by
  let a := modTine t (fun x => { x with flight := some fl }) (setReg (pgTine t) oCLOCHE 0 s)
  have ha : Side t ([oCLOCHE] ++ []) s a :=
    (side_setReg t oCLOCHE 0 s (by decide)).trans (side_modTine t _ _ fun _ => ⟨rfl, rfl, rfl, rfl⟩)
  have hall := ha.trans (side_sieveUpdate t a)
  have htine : tineAt a t = { tineAt s t with flight := some fl } := tineAt_modTine_same ..
  obtain ⟨e, he⟩ := tineAt_sieveUpdate t a
  have hheld : haltHeld t (sieveUpdate t a) = sieveUpdate t a := by
    unfold haltHeld
    split
    · next pr hdreq =>
      rw [he, htine] at hdreq
      exact absurd hdreq (hnohalt pr)
    · rfl
  intro s'
  have hs' : s' = sieveUpdate t a := hheld
  rw [hs', he, htine]
  refine ⟨rfl, ?_, by rw [hall.only.fields], hall.page oRETIRED (by decide) (by decide), rfl⟩
  rw [(side_sieveUpdate t a).page oCLOCHE (by decide) (by decide)]
  exact reg_setReg_same ..

end

/-- Settles O14: a pop and a push by what becomes of them, and a waiting push that meets room. -/
theorem hopperInstructions : Obligations.HopperInstructions := by
  refine ⟨fun s t f hready hrun => ?ready, fun s t item h len hflight hwindow hmay hrun hslots hkind hroom => ?waiting⟩
  case ready =>
    intro h q
    refine ⟨runs_hpop_empty hready hrun, fun hmay hback hitems => ?best, fun hmay hslots hkind hroom => ?push,
      fun hmay hkind hfull hnohalt => ?full⟩
    case best =>
      obtain ⟨k, w, ⟨hk, hpri⟩, hruns⟩ := runs_hpop_best hready hrun hmay hback hitems
      exact ⟨k, w, hk, hpri, hruns⟩
    case push =>
      obtain ⟨hitems, hback, hretained, hothers, hmem, hregs, haccs, hcount⟩ := pushed_retire t h (getG s t (hopG f)) (hopLen f) s
      refine runs_hpush hready hrun hmay ?_
      rw [tinePush_room hslots hkind hroom]
      exact ⟨hitems, hback, hretained, hothers, hmem, hregs, haccs, hcount⟩
    case full =>
      refine runs_hpush hready hrun hmay ?_
      rw [tinePush_full (flight_of_ready hready) hkind hfull]
      exact waits_sieveUpdate _ hnohalt
  case waiting =>
    have hagain : pushAgain t s = if (tineAt s t).drain = [] then retire t len (hopAccept h item s) else s := by
      simp only [pushAgain, hflight, hmay, domHeld_of_run hrun, tinePush_room hslots hkind hroom, Bool.false_or, Bool.not_eq_true',
        List.isEmpty_eq_false_iff, ite_not]
    refine ⟨fun hdrain => ?_, fun hdrain => ⟨s, ?_, rfl⟩⟩
    · rw [if_pos hdrain] at hagain
      obtain ⟨e, he⟩ := ((hopAccept_spec h item s).1 t).tine
      have hgo : windowGo t (pushAgain t s) = retire t len (hopAccept h item s) := by
        rw [hagain]
        exact windowGo_of_empty (window_retire len (by rw [he]; exact hwindow))
      have hpushed := pushed_retire t h item len s
      exact ⟨_, congrArg Host.Outcome.next hgo, hpushed.items, hpushed.others, hpushed.mem, flight_retire .., hpushed.count⟩
    · rw [if_neg hdrain] at hagain
      have hgo : windowGo t (pushAgain t s) = s := by rw [hagain, windowGo_of_empty hwindow]
      exact congrArg Host.Outcome.next hgo

end Sys2Proof.Machine
end

section
/-! SUPPORT. Fault entry (R117, R148–R151): what the entry into a fault level changes, which state it saves and records, and the third
fault, with the statement about them. -/

namespace Sys2Proof.Machine

/-! ## What an entry may change -/

/-- Between `s` and `s'` memory, the other tines, and the G registers and accumulators of tine `t` are as they were, and so is its
page but for the registers at `offs`. -/
structure Entering (t : Nat) (offs : List Nat) (s s' : State) : Prop where
  mem : s'.mem = s.mem
  others : ∀ u, u ≠ t → tineAt s' u = tineAt s u
  page : ∀ off, off < 1024 → off ∉ offs → reg s' (pgTine t) off = reg s (pgTine t) off
  g : (tineAt s' t).g = (tineAt s t).g
  acc : (tineAt s' t).acc = (tineAt s t).acc

section
variable {t : Nat} {x y : List Nat} {s a b : State}

theorem Entering.trans (h : Entering t x s a) (k : Entering t y a b) : Entering t (x ++ y) s b where
  mem := k.mem.trans h.mem
  others u hu := (k.others u hu).trans (h.others u hu)
  page off ho hn := by
    rw [List.mem_append, not_or] at hn
    exact (k.page off ho hn.2).trans (h.page off ho hn.1)
  g := k.g.trans h.g
  acc := k.acc.trans h.acc

theorem Side.entering (h : Side t x s a) : Entering t x s a where
  mem := by rw [h.only.fields]
  others := h.only.tines
  page := h.page
  g := h.g
  acc := h.acc

end

/-- The registers of save set `k` (Table 6-2). -/
def saveOffs (k : Nat) : List Nat := [oSPC k, oSST k, oSLS k]

theorem side_saveSet (t : Nat) {k : Nat} (hk : k < 18) (spc sst sls : Word) (s : State) :
    Side t (saveOffs k) s (saveSet t k spc sst sls s) := by
  have hspc := side_setReg t (oSPC k) spc s (by unfold oSPC; omega)
  have hsst := side_setReg t (oSST k) sst (setReg (pgTine t) (oSPC k) spc s) (by unfold oSST; omega)
  exact (hspc.trans hsst).trans (side_setReg t (oSLS k) sls _ (by unfold oSLS; omega))

/-- A save set holds what was written to it. -/
theorem reg_saveSet (t k : Nat) (spc sst sls : Word) (s : State) :
    reg (saveSet t k spc sst sls s) (pgTine t) (oSPC k) = spc ∧ reg (saveSet t k spc sst sls s) (pgTine t) (oSST k) = sst ∧
      reg (saveSet t k spc sst sls s) (pgTine t) (oSLS k) = sls := by
  have hpc : oSPC k ≠ oSST k ∧ oSPC k ≠ oSLS k ∧ oSST k ≠ oSLS k := by
    unfold oSPC oSST oSLS
    omega
  unfold saveSet
  refine ⟨?_, ?_, reg_setReg_same ..⟩
  · rw [reg_setReg_off _ _ hpc.2.1, reg_setReg_off _ _ hpc.1, reg_setReg_same]
  · rw [reg_setReg_off _ _ hpc.2.2, reg_setReg_same]

/-! ## The fault record (Table 6-7) -/

/-- The registers of the record of F (0) or D (1). -/
def recordOffs (d : Nat) : List Nat := [0x2C8 + 4 * d, 0x2C8 + 4 * d + 1, 0x2C8 + 4 * d + 2]

/-- The first word of a fault record. -/
def recordHead (d : Nat) (c : FaultCtx) (lvl : Nat) (w su : Bool) : Word :=
  wd (c.cause + c.sub * 2 ^ 8 + lvl * 2 ^ 16 + b2n w * 2 ^ 21 + b2n su * 2 ^ 22 + b2n c.phys * 2 ^ 23 +
    b2n c.entry * 2 ^ 24 + (if d = 1 then c.prev else 0) * 2 ^ 32)

theorem cause_recordHead (d : Nat) (c : FaultCtx) (lvl : Nat) (w su : Bool) :
    getF (recordHead d c lvl w su) 0 8 = c.cause % 256 := by
  rw [recordHead, getF_wd _ _ _ (by decide)]
  omega

theorem left_recordHead {c : FaultCtx} {lvl : Nat} (hcause : c.cause < 256) (hsub : c.sub < 256) (hlvl : lvl < 32) (d : Nat) (w su : Bool) :
    getF (recordHead d c lvl w su) 16 5 = lvl ∧ bit (recordHead d c lvl w su) 21 = w ∧ bit (recordHead d c lvl w su) 22 = su := by
  have hle : ∀ b, b2n b ≤ 1 := by decide
  have hone : ∀ b, b2n b = 1 ↔ b = true := by decide
  have hw := hle w
  have hsu := hle su
  rw [recordHead, getF_wd _ _ _ (by decide), bit_wd, bit_wd, Nat.testBit_eq_decide_div_mod_eq, Nat.testBit_eq_decide_div_mod_eq]
  refine ⟨by omega, ?_, ?_⟩ <;> rw [Bool.eq_iff_iff, Bool.and_eq_true, decide_eq_true_eq, decide_eq_true_eq, ← hone] <;> omega

theorem entering_faultRecord (t : Nat) {d : Nat} (hd : d < 2) (c : FaultCtx) (lvl : Nat) (w su : Bool) (s : State) :
    Entering t (recordOffs d) s (faultRecord t d c lvl w su s) := by
  have hdrawn : Entering t [] s { s with free := s.free + 1 + 1 } := ⟨rfl, fun _ _ => rfl, fun _ _ _ => rfl, rfl, rfl⟩
  have hset := fun k v x (hk : k < 3) => (side_setReg t (0x2C8 + 4 * d + k) v x (by omega)).entering
  exact ((hdrawn.trans (hset 0 _ _ (by decide))).trans (hset 1 _ _ (by decide))).trans (hset 2 _ _ (by decide))

theorem reg_faultRecord (t d : Nat) (c : FaultCtx) (lvl : Nat) (w su : Bool) (s : State) :
    reg (faultRecord t d c lvl w su s) (pgTine t) (0x2C8 + 4 * d) = recordHead d c lvl w su := by
  unfold faultRecord
  dsimp only
  rw [reg_setReg_off _ _ (by omega), reg_setReg_off _ _ (by omega), reg_setReg_same]
  rfl

/-! ## The level entered -/

theorem side_abandon (t : Nat) (s : State) : Side t [] s (abandon t s) := side_modTine t _ s fun _ => ⟨rfl, rfl, rfl, rfl⟩

theorem side_enterLevel (t lvl : Nat) (w : Bool) (pc : Nat) (s : State) :
    Side t [oLSTAT, oTST, oCLOCHE] s (enterLevel t lvl w pc s) := by
  unfold enterLevel
  extract_lets s1 s2 s3
  have h1 : Side t [oLSTAT] s s1 := side_setReg t oLSTAT _ s (by decide)
  have h2 : Side t [oTST] s1 s2 := side_setReg t oTST _ s1 (by decide)
  have h3 : Side t [oCLOCHE] s2 s3 := side_setReg t oCLOCHE 0 s2 (by decide)
  exact ((h1.trans h2).trans h3).trans ((side_abandon t s3).trans (side_modTine t _ _ fun _ => ⟨rfl, rfl, rfl, rfl⟩))

/-- The tine stands at the handler as supervisor of the level, with no repeat and no cloche in force (R145, R108). -/
theorem entered_enterLevel (t : TineNo) {lvl : Nat} (hlvl : lvl < 32) (w : Bool) (pc : Nat) (s : State) :
    Entered t lvl w pc (enterLevel t lvl w pc s) := by
  have htst : reg (enterLevel t lvl w pc s) (pgTine t) oTST =
      setF (setF (setF (reg s (pgTine t) oTST) 28 1 1) 29 1 (b2n w)) 30 5 lvl := by
    simp [enterLevel, abandon, entryLstat, reg_setReg_off, oCLOCHE, oTST, oLSTAT]
  have hlstat : reg (enterLevel t lvl w pc s) (pgTine t) oLSTAT =
      wd (getF (reg s (pgTine t) oLSTAT) 0 3 + 8 * getF (reg s (pgTine t) oLSTAT) 0 3) := by
    simp [enterLevel, abandon, entryLstat, reg_setReg_off, oCLOCHE, oTST, oLSTAT]
  have hdepth := getF_lt (reg s (pgTine t) oLSTAT) 0 3
  refine ⟨?_, ?_, ?_, ?_, ⟨?_, ?_⟩, ?_⟩
  · rw [tLvl, regF, htst, getF_setF_same _ _ (by decide)]
    exact Nat.mod_eq_of_lt hlvl
  · rw [tW, regB, htst, bit_setF_ne _ _ (by decide)]
    exact bit_setB_same _ w (by decide)
  · rw [tS, regB, htst, bit_setF_ne _ _ (by decide), bit_setF_ne _ _ (by decide)]
    exact bit_setB_same _ true (by decide)
  · simp [enterLevel]
  · rw [regF, hlstat, getF_wd _ _ _ (by decide), Nat.div_eq_of_lt (by omega), Nat.zero_mod]
  · rw [regB, hlstat, bit_wd, Nat.testBit_lt_two_pow (by omega), Bool.and_false]
  · simp [enterLevel, abandon]

/-- A halt that a session holds is taken at the boundary, or nothing happens. -/
theorem quiet_haltHeld (t : Nat) (s : State) : Quiet t [] s (haltHeld t s) := by
  unfold haltHeld
  split
  · split
    · exact quiet_haltNow t _ s
    · exact .refl t s
  · exact .refl t s

/-- What a halt that is taken leaves is still the level entered. -/
theorem entered_haltHeld {t : TineNo} {lvl pc : Nat} {w : Bool} {s : State} (h : Entered t lvl w pc s) :
    Entered t lvl w pc (haltHeld t s) := by
  have hquiet := quiet_haltHeld t s
  have hpage : ∀ off, off < 1024 → reg (haltHeld t s) (pgTine t) off = reg s (pgTine t) off :=
    fun off ho => hquiet.page off ho (by simp)
  obtain ⟨hlevel, hworld, hsuper, haddr, ⟨hrep, hrun⟩, hcloche⟩ := h
  exact ⟨hquiet.lvl.trans hlevel, (congrArg (bit · 29) (hpage oTST (by decide))).trans hworld,
    (congrArg (bit · 28) (hpage oTST (by decide))).trans hsuper, hquiet.pc.trans haddr,
    ⟨(congrArg (getF · 6 13) (hpage oLSTAT (by decide))).trans hrep, (congrArg (bit · 20) (hpage oLSTAT (by decide))).trans hrun⟩,
    (hpage oCLOCHE (by decide)).trans hcloche⟩

/-! ## Entry into F and D -/

/-- Save set `k` holds the state that `s` was in (R142). -/
def StateSaved (t : TineNo) (k : Nat) (s s' : State) : Prop :=
  regF s' (pgTine t) (oSPC k) 0 14 = (tineAt s t).pc.toNat ∧
  regF s' (pgTine t) (oSST k) 20 4 = getF (reg s (pgTine t) oTST) 20 4 ∧ regF s' (pgTine t) (oSST k) 28 1 = b2n (tS s t) ∧
  regF s' (pgTine t) (oSST k) 29 1 = b2n (tW s t) ∧ regF s' (pgTine t) (oSST k) 30 5 = tLvl s t ∧
  reg s' (pgTine t) (oSLS k) = reg s (pgTine t) oLSTAT

/-- Memory, G0 to G27, the accumulators and the other tines are as they were. -/
def OperandsKept (t : TineNo) (s s' : State) : Prop :=
  s'.mem = s.mem ∧ (∀ i : Gr, i.val < 28 → getG s' t i = getG s t i) ∧ KeepsAcc t [] s s' ∧
    (∀ u, u ≠ t.val → tineAt s' u = tineAt s u)

theorem Entering.operandsKept {t : TineNo} {offs : List Nat} {s s' : State} (h : Entering t offs s s') : OperandsKept t s s' := by
  refine ⟨h.mem, fun i hi => ?_, fun n _ => ?_, h.others⟩
  · rw [getG, getG, if_pos hi, if_pos hi, h.g]
  · rw [getAcc, getAcc, h.acc]

/-- The fields of the status that an entry saves (R142). -/
theorem fields_sstNow (s : State) (t : Nat) (half : Bool) :
    getF (sstNow s t half) 20 4 = getF (reg s (pgTine t) oTST) 20 4 ∧ getF (sstNow s t half) 28 1 = b2n (tS s t) ∧
      getF (sstNow s t half) 29 1 = b2n (tW s t) ∧ getF (sstNow s t half) 30 5 = tLvl s t := by
  have hfield : ∀ lo len, getF (reg s (pgTine t) oTST) lo len = (reg s (pgTine t) oTST).toNat / 2 ^ lo % 2 ^ len := fun lo len => by
    rw [getF, BitVec.extractLsb'_toNat, Nat.shiftRight_eq_div_pow]
  have hbit : ∀ i, b2n (regB s (pgTine t) oTST i) = (reg s (pgTine t) oTST).toNat / 2 ^ i % 2 := fun i => by
    rw [regB, bit, BitVec.getLsbD, Nat.testBit_eq_decide_div_mod_eq, b2n]
    split <;> simp_all
  have hhalf : b2n half ≤ 1 := by cases half <;> decide
  rw [tS, tW, hbit, hbit, tLvl, regF]
  unfold sstNow
  simp only [getF_wd _ _ _ (show 20 + 4 ≤ 40 by decide), getF_wd _ _ _ (show 28 + 1 ≤ 40 by decide),
    getF_wd _ _ _ (show 29 + 1 ≤ 40 by decide), getF_wd _ _ _ (show 30 + 5 ≤ 40 by decide), hfield]
  generalize (reg s (pgTine t) oTST).toNat = n
  refine ⟨?_, ?_, ?_, ?_⟩ <;> omega

/-- The entry into F (0) or D (1) at a handler. -/
def faultEntered (t d : Nat) (c : FaultCtx) (w : Bool) (pc : Nat) (spc sst sls : Word) (s : State) : State :=
  haltHeld t (enterLevel t (17 + d) w pc (bumpF (pgTine t) oFLT (16 * d) 16 1
    (faultRecord t d c (tLvl s t) (tW s t) (tS s t) (saveSet t (16 + d) spc sst sls s))))

/-- What an entry into F or D changes once it has written its save set and its record. -/
def levelOffs : List Nat := [oFLT, oLSTAT, oTST, oCLOCHE]

/-- Save sets, records and the registers above lie apart. -/
theorem apart_of_entry : ∀ d < 2, (∀ o ∈ saveOffs (16 + d), o < 1024 ∧ o ∉ recordOffs d ++ levelOffs) ∧
    0x2C8 + 4 * d ∉ levelOffs := by
  decide

/-- An entry into F or D stands in its level, has saved and recorded the state it left, and changes no operands (R148–R150). -/
theorem faultEntered_spec (t : TineNo) {d : Nat} (hd : d < 2) (c : FaultCtx) (w half : Bool) (pc : Nat) (s : State) :
    let s' := faultEntered t d c w pc (wd (tineAt s t).pc.toNat) (sstNow s t half) (reg s (pgTine t) oLSTAT) s
    Entered t (17 + d) w pc s' ∧ StateSaved t (16 + d) s s' ∧ OperandsKept t s s' ∧
      reg s' (pgTine t) (0x2C8 + 4 * d) = recordHead d c (tLvl s t) (tW s t) (tS s t) := by
  intro s'
  let x1 := saveSet t (16 + d) (wd (tineAt s t).pc.toNat) (sstNow s t half) (reg s (pgTine t) oLSTAT) s
  let x2 := faultRecord t d c (tLvl s t) (tW s t) (tS s t) x1
  let x3 := bumpF (pgTine t) oFLT (16 * d) 16 1 x2
  let x4 := enterLevel t (17 + d) w pc x3
  have hsave : Entering t (saveOffs (16 + d)) s x1 := (side_saveSet t (by omega) _ _ _ s).entering
  have hrecord : Entering t (recordOffs d) x1 x2 := entering_faultRecord t hd ..
  have hquiet := quiet_haltHeld t x4
  have hheld : Entering t [] x4 s' := (Side.mk hquiet.only hquiet.page hquiet.g hquiet.acc hquiet.sb hquiet.xcache).entering
  have hlevel : Entering t levelOffs x2 s' :=
    (side_setReg t oFLT _ x2 (by decide)).entering.trans ((side_enterLevel t (17 + d) w pc x3).entering.trans hheld)
  obtain ⟨hsaved, hhead⟩ := apart_of_entry d hd
  obtain ⟨hspc, hsst, hsls⟩ := reg_saveSet t (16 + d) (wd (tineAt s t).pc.toNat) (sstNow s t half) (reg s (pgTine t) oLSTAT) s
  have hkeep : ∀ o ∈ saveOffs (16 + d), reg s' (pgTine t) o = reg x1 (pgTine t) o := fun o ho =>
    (hrecord.trans hlevel).page o (hsaved o ho).1 (hsaved o ho).2
  obtain ⟨hflags, hsuper, hworld, hlvl⟩ := fields_sstNow s t half
  refine ⟨entered_haltHeld (entered_enterLevel t (lvl := 17 + d) (by omega) w pc x3), ⟨?_, ?_, ?_, ?_, ?_, ?_⟩,
    (hsave.trans (hrecord.trans hlevel)).operandsKept, ?_⟩
  · rw [regF, hkeep _ (by simp [saveOffs]), hspc, getF_wd _ _ _ (by decide)]
    have := (tineAt s t).pc.isLt
    omega
  · rw [regF, hkeep _ (by simp [saveOffs]), hsst, hflags]
  · rw [regF, hkeep _ (by simp [saveOffs]), hsst, hsuper]
  · rw [regF, hkeep _ (by simp [saveOffs]), hsst, hworld]
  · rw [regF, hkeep _ (by simp [saveOffs]), hsst, hlvl]
  · rw [hkeep _ (by simp [saveOffs]), hsls]
  · rw [hlevel.page _ (by omega) hhead]
    exact reg_faultRecord ..

/-- A valid vector word that is read without an error gives its handler (R146). -/
theorem vectorRead_valid {t index : Nat} {w : Bool} {s : State} (hvalid : bit (memGet s (vectorPa s t w index)) 39 = true)
    (hue : ueAt s (vectorPa s t w index) = false) :
    vectorRead t w index .ok s = (some (getF (memGet s (vectorPa s t w index)) 0 14), s) := by
  simp [vectorRead, memRead, hue, hvalid]

theorem takeFault_below {t : Nat} {c : FaultCtx} {w : Bool} {s : State} (spc sst : Word) (hlvl : tLvl s t < 17)
    (hvalid : bit (memGet s (vectorPa s t w 64)) 39 = true) (hue : ueAt s (vectorPa s t w 64) = false) :
    takeFault t c w spc sst .ok .ok s =
      faultEntered t 0 c w (getF (memGet s (vectorPa s t w 64)) 0 14) spc sst (reg s (pgTine t) oLSTAT) s := by
  unfold takeFault
  rw [if_neg (by omega), if_neg (by omega), vectorRead_valid hvalid hue]
  rfl

theorem takeFault_inF {t : Nat} {c : FaultCtx} {s : State} (w : Bool) (spc sst : Word) (hlvl : tLvl s t = 17)
    (hvalid : bit (memGet s (vectorPa s t (tW s t) 65)) 39 = true) (hue : ueAt s (vectorPa s t (tW s t) 65) = false) :
    takeFault t c w spc sst .ok .ok s =
      faultEntered t 1 c (tW s t) (getF (memGet s (vectorPa s t (tW s t) 65)) 0 14) spc sst (reg s (pgTine t) oLSTAT) s := by
  unfold takeFault enterD
  rw [if_neg (by omega), if_pos hlvl, vectorRead_valid hvalid hue]
  rfl

/-! ## The third fault (R151) -/

/-- A new entry stands last in the fault record, whose registers count it (R448). -/
theorem frecAdd_eq (kind src : Nat) (data : Word) (s : State) : ∃ regs l e,
    frecAdd kind src data s = { s with regs := regs, frec := l ++ [e] } ∧ e.kind = kind ∧ e.src = src ∧ e.data = data := by
  unfold frecAdd
  dsimp only
  split <;> exact ⟨_, _, _, rfl, rfl, rfl, rfl⟩

/-- With LOCKUP set the third fault locks the tine and enters the fault record. -/
theorem thirdFault_locks {s : State} (t : Nat) (hlockup : regB s pgNurs 0x010 0 = true) :
    (tineAt (thirdFault t s) t).locked = true ∧ (thirdFault t s).mem = s.mem ∧
      ∃ e ∈ (thirdFault t s).frec, e.kind = 5 ∧ e.src = t := by
  unfold thirdFault
  extract_lets s0 s1 s2 s3
  rw [if_pos hlockup]
  have hlocked : (tineAt s3 t).locked = true ∧ s3.mem = s.mem := by
    have hs2 : (tineAt s2 t).locked = true := congrArg Tine.locked (tineAt_modTine_same s0 t fun x => { x with locked := true })
    simp only [s3]
    split <;> exact ⟨hs2, rfl⟩
  obtain ⟨regs, l, e, hadd, hkind, hsrc, -⟩ := frecAdd_eq 5 t 0 s3
  rw [hadd]
  exact ⟨hlocked.1, hlocked.2, e, List.mem_append_right _ (List.mem_singleton_self e), hkind, hsrc⟩

/-! ## The statement -/

/-- With no drain error reported a recorded fault is taken (R117, R123). -/
theorem exec_faultEntry {s : State} {t : TineNo} {f : FaultRec} (hgoes : tineGoes (tineAt s t) = true)
    (hlocked : (tineAt s t).locked = false) (hretired : (tineAt s t).retired = false) (hup : tineUp s t = true)
    (hfault : (tineAt s t).fault = some f) (hdrain : (tineAt s t).drain = []) :
    exec (.faultEntry t .ok .ok .ok) s = .next (takeRecorded t f .ok .ok s) := by
  show execFaultEntry t .ok .ok .ok s = _
  unfold execFaultEntry
  simp [hgoes, hlocked, hretired, hup, hfault, hdrain]

/-- A fault enters F in the world of the tine; a SYSC code from 0x80 on enters it Walled (R148). -/
theorem faultWorld_eq (s : State) (t : Nat) (f : FaultRec) :
    faultWorld s t f = if f.cause = 0x04 then (decide (0x80 ≤ getF f.info 0 8) || tW s t) else tW s t := by
  unfold faultWorld
  split
  · by_cases h : 0x80 ≤ getF f.info 0 8 <;> simp [h]
  · rfl

/-- Settles O18: a fault below F enters F and one in F enters D by one lemma of both levels; one in D is the third fault. -/
theorem faultsEnterTheFaultLevel : Obligations.FaultsEnterTheFaultLevel := by
  intro s t f hgoes hlocked hretired hup hfault hdrain
  have hexec := exec_faultEntry hgoes hlocked hretired hup hfault hdrain
  refine ⟨?below, ?inF, ?inD⟩
  case below =>
    rintro hlvl v rfl hvalid hue
    rw [← faultWorld_eq] at hvalid hue ⊢
    rw [takeRecorded, takeFault_below _ _ hlvl hvalid hue] at hexec
    obtain ⟨hentered, hsaved, hkept, hhead⟩ := faultEntered_spec t (d := 0) (by decide) _ (faultWorld s t f) _ _ s
    refine ⟨_, hexec, hentered, hsaved, hkept, (congrArg (getF · 0 8) hhead).trans (cause_recordHead ..), fun hcause hsub => ?_⟩
    rw [regF, regB, regB, hhead]
    exact left_recordHead hcause hsub (by omega) 0 _ _
  case inF =>
    rintro hlvl v rfl hvalid hue
    rw [takeRecorded, takeFault_inF _ _ _ hlvl hvalid hue] at hexec
    obtain ⟨hentered, hsaved, hkept, hhead⟩ := faultEntered_spec t (d := 1) (by decide) _ (tW s t) _ _ s
    exact ⟨_, hexec, hentered, hsaved, hkept, (congrArg (getF · 0 8) hhead).trans (cause_recordHead ..)⟩
  case inD =>
    intro hlvl hlockup
    rw [takeRecorded, takeFault, if_pos hlvl] at hexec
    exact ⟨_, hexec, thirdFault_locks t hlockup⟩

end Sys2Proof.Machine
end

section
/-! SUPPORT. The core voltage and the AON time base (R128, R130, R397–R403): what the parts of a voltage change do to the sequencer and
its registers, how a change begins, ends and fails, and the statement about them. -/

namespace Sys2Proof.Machine

/-! ## Bits and fields of a register after a write -/

section
variable (s : State) {pg off i : Nat}

@[simp] theorem regB_setRegB_same (b : Bool) (hi : i < 40) : regB (setRegB pg off i b s) pg off i = b := by
  unfold regB setRegB setRegF
  rw [reg_setReg_same]
  exact bit_setB_same _ b hi

@[simp] theorem regB_setRegB_ne {j : Nat} (b : Bool) (h : j ≠ i) : regB (setRegB pg off i b s) pg off j = regB s pg off j := by
  unfold regB setRegB setRegF
  rw [reg_setReg_same]
  exact bit_setB_ne _ b h

@[simp] theorem regF_setRegB_ne {lo len : Nat} (b : Bool) (h : lo + len ≤ i ∨ i + 1 ≤ lo) :
    regF (setRegB pg off i b s) pg off lo len = regF s pg off lo len := by
  unfold regF setRegB setRegF
  rw [reg_setReg_same]
  exact getF_setB_ne _ b h

@[simp] theorem regF_setRegF_ne {lo len a n : Nat} (v : Nat) (h : a + n ≤ lo ∨ lo + len ≤ a) :
    regF (setRegF pg off lo len v s) pg off a n = regF s pg off a n := by
  unfold regF setRegF
  rw [reg_setReg_same, getF_setF_ne _ v h]

@[simp] theorem regB_bumpF_ne {lo len j : Nat} (n : Nat) (h : j < lo ∨ lo + len ≤ j) :
    regB (bumpF pg off lo len n s) pg off j = regB s pg off j := by
  unfold regB bumpF setRegF
  rw [reg_setReg_same, bit_setF_ne _ _ h]

end

theorem OnlyReg.trans {pg off : Nat} {a b c : State} (h : OnlyReg pg off a b) (k : OnlyReg pg off b c) : OnlyReg pg off a c := by
  obtain ⟨hf, hr⟩ := h
  obtain ⟨kf, kr⟩ := k
  exact ⟨by rw [kf, hf], fun p o ho hne => (kr p o ho hne).trans (hr p o ho hne)⟩

theorem onlyReg_setRegB {pg off : Nat} (i : Nat) (b : Bool) (s : State) (hoff : off < 1024) : OnlyReg pg off s (setRegB pg off i b s) :=
  onlyReg_setReg _ hoff

theorem regB_modPwr (f : Pwr → Pwr) (s : State) (pg off i : Nat) : regB (modPwr f s) pg off i = regB s pg off i := rfl

/-! ## The ends of admin commands, events and PMBus transactions -/

section
variable (s : State)

/-- An admin command without data for the host notes its outcome; beside it only its queue entry changes (R332, R333). -/
theorem adminFinish_eq (e : Option (Nat × HSlot)) (opc status result : Nat) :
    ∃ q, adminFinish e opc status result [] s = { s with adminLast := (opc, status, result), hq := q } := by
  cases e <;> exact ⟨_, rfl⟩

theorem adminDone_eq (opc status result : Nat) :
    ∃ q, adminDone opc status result [] s = { s with adminLast := (opc, status, result), hq := q } := adminFinish_eq s _ opc status result

theorem adminEnd_eq (entry : Option Nat) (opc status result : Nat) :
    ∃ q, adminEnd entry opc status result s = { s with adminLast := (opc, status, result), hq := q } :=
  adminFinish_eq s _ opc status result

theorem adminBegin_eq (opc : Nat) : ∃ e q, adminBegin opc s = (e, { s with hq := q }) := by
  unfold adminBegin
  split <;> exact ⟨_, _, rfl⟩

/-- A power event is an arrival at tines, or nothing (R402). -/
theorem powerEvent_arrivals (k : Nat) : Arrivals (fun _ => True) (fun _ => True) s (powerEvent k s) := by
  unfold powerEvent
  dsimp only
  split
  · exact raiseUnit_arrivals (by decide) _ _ s
  · exact .refl _ _ s

theorem reg_powerEvent {pg off : Nat} (hpg : pg < 0x100) (hnurs : pg ≠ pgNurs) (hoff : off < 1024) (k : Nat) :
    reg (powerEvent k s) pg off = reg s pg off := (powerEvent_arrivals s k).pages pg off hoff hpg (.inl hnurs)

end

/-! ## The band (R128, R130) -/

/-- Band `b` is in force: VTARGET.BAND, the cap of the tines and that of the Trellis. -/
def BandIs (b : Nat) (s : State) : Prop :=
  regF s pgPwr 0x016 10 4 = b ∧ s.bandCap = tineCap b ∧ regF s pgTrel 0x031 0 8 = trelCap b

theorem bandOf_le (mv : Nat) : bandOf mv ≤ 8 := by
  unfold bandOf
  repeat' split
  all_goals decide

theorem bandIs_setBand {b : Nat} (hb : b ≤ 8) (s : State) : BandIs b (setBand b s) := by
  have htrel : ∀ b ≤ 8, trelCap b % 2 ^ 8 = trelCap b := by decide
  unfold setBand
  refine ⟨?_, rfl, ?_⟩
  · rw [regF, setRegF, reg_setReg_page _ _ (by decide) (by decide) (by decide)]
    exact (regF_setRegF_same _ (by decide) b).trans (Nat.mod_eq_of_lt (by omega))
  · rw [regF_setRegF_same _ (by decide), htrel b hb]

/-- A new band leaves the rest of VTARGET and the other registers of the sequencer. -/
theorem reg_setBand {off : Nat} (hoff : off < 1024) (hne : off ≠ 0x016) (b : Nat) (s : State) :
    reg (setBand b s) pgPwr off = reg s pgPwr off := by
  unfold setBand setRegF
  rw [reg_setReg_page _ _ (by decide) hoff (by decide), reg_setReg_off _ _ hne]
  rfl

theorem target_setBand (b : Nat) (s : State) : regF (setBand b s) pgPwr 0x016 0 10 = regF s pgPwr 0x016 0 10 := by
  unfold setBand
  rw [regF, setRegF, reg_setReg_page _ _ (by decide) (by decide) (by decide)]
  exact regF_setRegF_ne _ b (by decide)

/-! ## The ends of a voltage change -/

/-- A change that was under way at `s` has failed (R399). -/
structure VoltFails (s s' : State) : Prop where
  pwr : s'.pwr = { s.pwr with volt := none }
  mem : s'.mem = s.mem
  cap : s'.bandCap = s.bandCap
  out : s'.out = s.out ++ [pmbusOut s [0x79]]
  admin : s'.adminLast = (0x13, 0x0014, regF s pgPwr 0x016 0 14)
  busy : regB s' pgPwr 0x017 0 = false
  flag : regB s' pgPwr 0x017 2 = true
  regs : ∀ p o, o < 1024 → (p ≠ pgPwr ∨ o ≠ 0x017) → reg s' p o = reg s p o

theorem voltFail_fails (s : State) : VoltFails s (voltFail s) := by
  let x := setRegB pgPwr 0x017 0 false (setRegB pgPwr 0x017 2 true (modPwr (fun x => { x with volt := none }) s))
  have hother : ∀ p o, o < 1024 → (p ≠ pgPwr ∨ o ≠ 0x017) → reg x p o = reg s p o :=
    ((onlyReg_setRegB 2 true (modPwr (fun x => { x with volt := none }) s) (by decide)).trans (onlyReg_setRegB 0 false _ (by decide))).2
  have haddr : reg x pgPwr 0x015 = reg s pgPwr 0x015 := hother _ _ (by decide) (.inr (by decide))
  obtain ⟨q, hend⟩ := adminEnd_eq (pmbus [0x79] x) (s.pwr.volt.bind (·.entry)) 0x13 0x0014 (regF s pgPwr 0x016 0 14)
  have hfail : voltFail s = _ := hend
  have hreg : ∀ p o, reg (voltFail s) p o = reg x p o := fun p o => by rw [hfail]; rfl
  refine ⟨by rw [hfail]; rfl, by rw [hfail]; rfl, by rw [hfail]; rfl, ?_, by rw [hfail], ?_, ?_,
    fun p o ho hne => (hreg p o).trans (hother p o ho hne)⟩
  · rw [hfail]
    show s.out ++ [pmbusOut x [0x79]] = _
    rw [pmbusOut, pmbusOut, regF, regF, haddr]
    rfl
  · rw [regB, hreg]
    exact regB_setRegB_same _ false (by decide)
  · rw [regB, hreg]
    exact (regB_setRegB_ne _ false (by decide)).trans (regB_setRegB_same _ true (by decide))

/-- A change has failed at the set point and with the memory of `s`. -/
def ChangeFailed (s s' : State) : Prop :=
  s'.pwr.volt = none ∧ regB s' pgPwr 0x017 0 = false ∧ regB s' pgPwr 0x017 2 = true ∧ s'.adminLast.1 = 0x13 ∧
    s'.adminLast.2.1 = 0x0014 ∧ s'.pwr.mv = s.pwr.mv ∧ s'.mem = s.mem

theorem VoltFails.changeFailed {s x s' : State} (h : VoltFails x s') (hmv : x.pwr.mv = s.pwr.mv) (hmem : x.mem = s.mem) :
    ChangeFailed s s' :=
  ⟨by rw [h.pwr], h.busy, h.flag, by rw [h.admin], by rw [h.admin], by rw [h.pwr, ← hmv], h.mem.trans hmem⟩

/-- A change to `m` mV that was under way at `s` has completed (R398). -/
structure VoltEnds (m : Nat) (s s' : State) : Prop where
  pwr : s'.pwr = { s.pwr with volt := none }
  mem : s'.mem = s.mem
  band : BandIs (bandOf m) s'
  busy : regB s' pgPwr 0x017 0 = false
  target : regF s' pgPwr 0x016 0 10 = regF s pgPwr 0x016 0 10
  admin : s'.adminLast = (0x13, 0, regF s' pgPwr 0x016 0 14)

theorem voltDone_ends (m : Nat) (s : State) : VoltEnds m s (voltDone m s) := by
  let x := setRegB pgPwr 0x017 0 false (modPwr (fun x => { x with volt := none }) s)
  let y := setBand (bandOf m) x
  obtain ⟨hband, hcap, htrel⟩ := bandIs_setBand (bandOf_le m) x
  obtain ⟨q, hend⟩ := adminEnd_eq y (s.pwr.volt.bind (·.entry)) 0x13 0 (regF y pgPwr 0x016 0 14)
  have hdone : voltDone m s = powerEvent 1 { y with adminLast := (0x13, 0, regF y pgPwr 0x016 0 14), hq := q } :=
    congrArg (powerEvent 1) hend
  rw [hdone]
  generalize hz : ({ y with adminLast := (0x13, 0, regF y pgPwr 0x016 0 14), hq := q } : State) = z
  have hreg : ∀ p o, reg z p o = reg y p o := fun p o => by rw [← hz]; rfl
  have hfields := (powerEvent_arrivals z 1).fields
  have hpwr : ∀ o, o < 1024 → reg (powerEvent 1 z) pgPwr o = reg y pgPwr o := fun o ho =>
    (reg_powerEvent z (by decide) (by decide) ho 1).trans (hreg _ _)
  have htrel' : reg (powerEvent 1 z) pgTrel 0x031 = reg y pgTrel 0x031 :=
    (reg_powerEvent z (by decide) (by decide) (by decide) 1).trans (hreg _ _)
  refine ⟨?_, ?_, ⟨?_, ?_, ?_⟩, ?_, ?_, ?_⟩
  · rw [hfields, ← hz]; rfl
  · rw [hfields, ← hz]; rfl
  · rw [regF, hpwr _ (by decide)]; exact hband
  · rw [hfields, ← hz]; exact hcap
  · rw [regF, htrel']; exact htrel
  · rw [regB, hpwr _ (by decide), reg_setBand (by decide) (by decide)]
    exact regB_setRegB_same _ false (by decide)
  · rw [regF, hpwr _ (by decide)]
    exact (target_setBand _ x).trans (congrArg (getF · 0 10) (reg_setRegB_off (modPwr _ s) false (by decide)))
  · rw [regF, hpwr _ (by decide), hfields, ← hz]
    rfl

/-- A change to `mv` mV has completed at the set point and with the memory of `s`. -/
def ChangeEnded (mv : Nat) (s s' : State) : Prop :=
  s'.pwr.volt = none ∧ s'.pwr.mv = s.pwr.mv ∧ regB s' pgPwr 0x017 0 = false ∧ BandIs (bandOf mv) s' ∧
    AdminEnds 0x13 0 (regF s' pgPwr 0x016 0 14) s s'

theorem VoltEnds.changeEnded {m : Nat} {s x s' : State} (h : VoltEnds m x s') (hmv : x.pwr.mv = s.pwr.mv) (hmem : x.mem = s.mem) :
    ChangeEnded m s s' :=
  ⟨by rw [h.pwr], by rw [h.pwr, ← hmv], h.busy, h.band, h.admin, h.mem.trans hmem⟩

/-! ## The beginning of a voltage change (R398) -/

/-- Of a change to `m` mV a lower band is in force at once, while a higher one waits. -/
def Lowered (m : Nat) (s x : State) : Prop :=
  (m < s.pwr.mv → BandIs (bandOf m) x) ∧
    (s.pwr.mv ≤ m → x.bandCap = s.bandCap ∧ bandNow x = bandNow s ∧ reg x pgTrel 0x031 = reg s pgTrel 0x031)

/-- A state whose registers and cap of the band are those of `x` has its band. -/
theorem Lowered.of_reads {m : Nat} {s x y : State} (h : Lowered m s x) (hcap : y.bandCap = x.bandCap)
    (htarget : reg y pgPwr 0x016 = reg x pgPwr 0x016) (htrel : reg y pgTrel 0x031 = reg x pgTrel 0x031) : Lowered m s y := by
  unfold Lowered BandIs bandNow regF at *
  rwa [hcap, htarget, htrel]

/-- A change to `m` mV, asked for at `s`, has begun: no step has been sent, and `mode` is what is known of VOUT_MODE. -/
structure VoltBegun (m : Nat) (mode e : Option Nat) (s x : State) : Prop where
  pwr : x.pwr = { s.pwr with volt := some { target := m, sent := none, phase := .step, entry := e }, mode := mode }
  mem : x.mem = s.mem
  now : x.now = s.now
  target : regF x pgPwr 0x016 0 10 = m
  busy : regB x pgPwr 0x017 0 = true
  ready : regB x pgPwr 0x017 1 = regB s pgPwr 0x017 1
  lowered : Lowered m s x

/-- The target and CHANGING are set, whatever has become of the admin queue. -/
def voltTargeted (m : Nat) (q : Tbl HQ) (s : State) : State :=
  setRegB pgPwr 0x017 0 true (setRegF pgPwr 0x016 0 10 m { s with hq := q })

/-- The state in which a change begins. -/
def voltBegun (m : Nat) (q : Tbl HQ) (e : Option Nat) (s : State) : State :=
  modPwr (fun x => { x with volt := some { target := m, sent := none, phase := .step, entry := e } })
    (if m < s.pwr.mv then setBand (bandOf m) (voltTargeted m q s) else voltTargeted m q s)

section
variable (s : State) (q : Tbl HQ) {m : Nat}

theorem vtarget_voltTargeted : reg (voltTargeted m q s) pgPwr 0x016 = setF (reg s pgPwr 0x016) 0 10 m :=
  (reg_setRegB_off _ true (by decide)).trans (reg_setReg_same ..)

theorem target_voltTargeted (hm : m < 1024) : regF (voltTargeted m q s) pgPwr 0x016 0 10 = m := by
  rw [regF, vtarget_voltTargeted, getF_setF_same _ _ (by decide)]
  exact Nat.mod_eq_of_lt hm

theorem bandNow_voltTargeted : bandNow (voltTargeted m q s) = bandNow s := by
  rw [bandNow, regF, vtarget_voltTargeted, getF_setF_ne _ _ (by decide)]
  rfl

theorem ready_voltTargeted : regB (voltTargeted m q s) pgPwr 0x017 1 = regB s pgPwr 0x017 1 := by
  refine (regB_setRegB_ne _ true (by decide)).trans ?_
  rw [regB, reg_setRegF_off _ (by decide)]
  rfl

theorem trel_voltTargeted : reg (voltTargeted m q s) pgTrel 0x031 = reg s pgTrel 0x031 :=
  (reg_setReg_page _ _ (by decide) (by decide) (by decide)).trans (reg_setReg_page _ _ (by decide) (by decide) (by decide))

/-- A lower target brings its band with it. -/
theorem lowered_voltTargeted : Lowered m s (if m < s.pwr.mv then setBand (bandOf m) (voltTargeted m q s) else voltTargeted m q s) := by
  split
  · next hlow => exact ⟨fun _ => bandIs_setBand (bandOf_le m) _, fun h => absurd h (by omega)⟩
  · next hlow => exact ⟨fun h => absurd h hlow, fun _ => ⟨rfl, bandNow_voltTargeted s q, trel_voltTargeted s q⟩⟩

theorem voltBegun_begun (hm : m < 1024) (e : Option Nat) : VoltBegun m s.pwr.mode e s (voltBegun m q e s) := by
  have hbusy : regB (voltTargeted m q s) pgPwr 0x017 0 = true := regB_setRegB_same _ true (by decide)
  have hlowered := lowered_voltTargeted s q (m := m)
  unfold voltBegun
  generalize hy : (if m < s.pwr.mv then setBand (bandOf m) (voltTargeted m q s) else voltTargeted m q s) = y at hlowered
  have hsame : (y.pwr = s.pwr ∧ y.mem = s.mem ∧ y.now = s.now) ∧
      regF y pgPwr 0x016 0 10 = regF (voltTargeted m q s) pgPwr 0x016 0 10 ∧
      reg y pgPwr 0x017 = reg (voltTargeted m q s) pgPwr 0x017 := by
    rw [← hy]
    split
    · exact ⟨⟨rfl, rfl, rfl⟩, target_setBand _ _, reg_setBand (by decide) (by decide) _ _⟩
    · exact ⟨⟨rfl, rfl, rfl⟩, rfl, rfl⟩
  obtain ⟨⟨hpwr, hmem, hnow⟩, htarget, hstat⟩ := hsame
  exact ⟨by rw [modPwr, hpwr], hmem, hnow, htarget.trans (target_voltTargeted s q hm), (congrArg (bit · 0) hstat).trans hbusy,
    (congrArg (bit · 1) hstat).trans (ready_voltTargeted s q), hlowered⟩

end

theorem VoltBegun.pmbus {m : Nat} {mode e : Option Nat} {s x : State} (h : VoltBegun m mode e s x) (ws : List Nat) :
    VoltBegun m mode e s (pmbus ws x) :=
  ⟨h.pwr, h.mem, h.now, h.target, h.busy, h.ready, h.lowered⟩

theorem VoltBegun.knows {m : Nat} {mode e : Option Nat} {s x : State} (h : VoltBegun m mode e s x) (k : Option Nat) :
    VoltBegun m k e s (modPwr (fun y => { y with mode := k }) x) :=
  ⟨by rw [modPwr, h.pwr], h.mem, h.now, h.target, h.busy, h.ready, h.lowered⟩

/-! ## PWR_VOLT (R398, R399) -/

/-- The answer to the read of VOUT_MODE lets a change begin, or is known already (R397). -/
def ModeReads (s : State) (mode : BitVec 8) (ack : Bool) : Prop :=
  s.pwr.mode.isSome = true ∨ (ack = true ∧ voutModeOk mode.toNat = true)

/-- What is known of VOUT_MODE after its read. -/
def modeAfter (s : State) (mode : BitVec 8) : Option Nat := if s.pwr.mode.isSome then s.pwr.mode else some (32 - mode.toNat % 32)

section
variable {s : State} {mv : BitVec 16} (mode : BitVec 8) (ack : Bool)

theorem pwrInUse_iff : pwrInUse s = true ↔ s.pwr.cmd.isSome = true ∨ s.pwr.runs ≠ [] ∨ s.pwr.volt.isSome = true := by
  simp [pwrInUse, or_assoc]

/-- A command that is refused ends with its status and leaves the sequencer and the band. -/
def VoltRefused (status : Nat) (s s' : State) : Prop :=
  AdminEnds 0x13 status (getF (reg s pgPwr 0x016) 0 14) s s' ∧ s'.pwr = s.pwr ∧ s'.bandCap = s.bandCap ∧
    regF s' pgPwr 0x016 0 14 = getF (reg s pgPwr 0x016) 0 14

theorem adminDone_refused (status : Nat) (s : State) :
    VoltRefused status s (adminDone 0x13 status (getF (reg s pgPwr 0x016) 0 14) [] s) := by
  obtain ⟨q, hdone⟩ := adminDone_eq s 0x13 status (getF (reg s pgPwr 0x016) 0 14)
  rw [hdone]
  exact ⟨⟨rfl, rfl⟩, rfl, rfl, rfl⟩

theorem runs_pwrVolt_range (hon : inReset s = false) (hout : mv.toNat < 450 ∨ 950 < mv.toNat) :
    Runs (.pwrVolt mv mode ack) s (VoltRefused 0x0012 s) := by
  refine ⟨_, ?_, adminDone_refused 0x0012 s⟩
  show execPwrVolt mv mode ack s = _
  simp only [execPwrVolt, hon, hout, Bool.false_eq_true, if_false, if_true]

section
variable (hon : inReset s = false) (hlow : 450 ≤ mv.toNat) (hhigh : mv.toNat ≤ 950)
include hon hlow hhigh

theorem runs_pwrVolt_busy (hbusy : s.pwr.cmd.isSome = true ∨ s.pwr.runs ≠ [] ∨ s.pwr.volt.isSome = true) :
    Runs (.pwrVolt mv mode ack) s (VoltRefused 0x0015 s) := by
  refine ⟨_, ?_, adminDone_refused 0x0015 s⟩
  have hin : ¬ (mv.toNat < 450 ∨ 950 < mv.toNat) := by omega
  show execPwrVolt mv mode ack s = _
  simp only [execPwrVolt, hon, hin, pwrInUse_iff.2 hbusy, Bool.false_eq_true, if_false, if_true]

variable (hidle : ¬ (s.pwr.cmd.isSome = true ∨ s.pwr.runs ≠ [] ∨ s.pwr.volt.isSome = true))
include hidle

/-- The audio PLL keeps the voltage from going below 700 mV; the refusal is counted and recorded (R399, assumption 82). -/
theorem runs_pwrVolt_pll (hbelow : mv.toNat < 700) (hpll : apllOn s = true) :
    Runs (.pwrVolt mv mode ack) s fun s' => VoltRefused 0x0013 s s' ∧
      regF s' pgPwr 0x014 0 12 = min 4095 (regF s pgPwr 0x014 0 12 + 1) ∧ regF s' pgPwr 0x013 15 4 = 14 := by
  let x := refuseRec { reason := 14, src := 0x350, dom := 0 } false s
  let y := bumpF pgPwr 0x014 0 12 1 x
  obtain ⟨q, hdone⟩ := adminDone_eq y 0x13 0x0013 (getF (reg s pgPwr 0x016) 0 14)
  have hin : ¬ (mv.toNat < 450 ∨ 950 < mv.toNat) := by omega
  have hexec : exec (.pwrVolt mv mode ack) s = .next (adminDone 0x13 0x0013 (getF (reg s pgPwr 0x016) 0 14) [] y) := by
    show execPwrVolt mv mode ack s = _
    simp only [execPwrVolt, hon, hin, mt pwrInUse_iff.1 hidle, hbelow, hpll, and_self, Bool.false_eq_true, if_false, if_true, x, y]
  have hkept : ∀ o, o ≠ 0x013 → o ≠ 0x014 → reg y pgPwr o = reg s pgPwr o := fun o h3 h4 =>
    (reg_bumpF_off x h4).trans (reg_setReg_off s _ h3)
  refine ⟨_, hexec.trans (congrArg _ hdone), ⟨⟨rfl, rfl⟩, rfl, rfl, ?_⟩, ?_, ?_⟩
  · exact congrArg (getF · 0 14) (hkept 0x016 (by decide) (by decide))
  · refine (regF_bumpF_same x (by decide) 1).trans ?_
    rw [regF, regF]
    exact congrArg (fun w => min 4095 (getF w 0 12 + 1)) (reg_setReg_off s _ (by decide))
  · have hrec : reg y pgPwr 0x013 = reg x pgPwr 0x013 := reg_bumpF_off x (by decide)
    have hx : reg x pgPwr 0x013 = wd (0x350 + 2 ^ 10 * 0 + 2 ^ 15 * 14 + 2 ^ 19 * b2n false + 2 ^ 20 * (s.now % 2 ^ 20)) :=
      reg_setReg_same ..
    show getF (reg y pgPwr 0x013) 15 4 = 14
    rw [hrec, hx, getF_wd _ _ _ (by decide)]
    simp only [b2n]
    omega

variable (hpll : 700 ≤ mv.toNat ∨ apllOn s = false)
include hpll

theorem exec_pwrVolt_begun : ∃ q e, exec (.pwrVolt mv mode ack) s = .next (
    if s.pwr.mode = none ∧ (!ack ∨ !voutModeOk mode.toNat) then voltFail (pmbus [0x20] (voltBegun mv.toNat q e s))
    else
      let x := if s.pwr.mode.isSome then voltBegun mv.toNat q e s
        else pmbus [0x20] (modPwr (fun x => { x with mode := some (32 - mode.toNat % 32) }) (voltBegun mv.toNat q e s))
      if mv.toNat = s.pwr.mv then voltHere mv.toNat x else x) := by
  obtain ⟨e, q, hbegin⟩ := adminBegin_eq s 0x13
  have hin : ¬ (mv.toNat < 450 ∨ 950 < mv.toNat) := by omega
  have hfree : ¬ (mv.toNat < 700 ∧ apllOn s = true) := by
    rintro ⟨hbelow, hlock⟩
    obtain h | h := hpll
    · omega
    · rw [h] at hlock; cases hlock
  refine ⟨q, e, ?_⟩
  show execPwrVolt mv mode ack s = _
  unfold execPwrVolt
  simp only [hon, hin, mt pwrInUse_iff.1 hidle, hfree, hbegin, Bool.false_eq_true, if_false]
  rfl

/-- Without an answer that gives VOUT_MODE the change has begun and fails (R399). -/
theorem exec_pwrVolt_unread (hreads : ¬ ModeReads s mode ack) :
    ∃ e x, VoltBegun mv.toNat s.pwr.mode e s x ∧ exec (.pwrVolt mv mode ack) s = .next (voltFail x) := by
  obtain ⟨q, e, hexec⟩ := exec_pwrVolt_begun mode ack hon hlow hhigh hidle hpll
  refine ⟨e, _, (voltBegun_begun s q (by omega) e).pmbus [0x20], ?_⟩
  rw [hexec, if_pos ?_]
  unfold ModeReads at hreads
  rw [not_or, not_and_or] at hreads
  simpa using hreads

theorem exec_pwrVolt_read (hreads : ModeReads s mode ack) :
    ∃ e x, VoltBegun mv.toNat (modeAfter s mode) e s x ∧
      exec (.pwrVolt mv mode ack) s = .next (if mv.toNat = s.pwr.mv then voltHere mv.toNat x else x) := by
  obtain ⟨q, e, hexec⟩ := exec_pwrVolt_begun mode ack hon hlow hhigh hidle hpll
  have hbegun := voltBegun_begun s q (show mv.toNat < 1024 by omega) e
  refine ⟨e, if s.pwr.mode.isSome then voltBegun mv.toNat q e s
        else pmbus [0x20] (modPwr (fun x => { x with mode := some (32 - mode.toNat % 32) }) (voltBegun mv.toNat q e s)), ?_, ?_⟩
  · unfold modeAfter
    split
    · exact hbegun
    · exact (hbegun.knows _).pmbus _
  · rw [hexec, if_neg ?_]
    rintro ⟨hnone, hbad⟩
    obtain hknown | ⟨hack, hok⟩ := hreads
    · rw [hnone] at hknown; cases hknown
    · simp [hack, hok] at hbad

theorem runs_pwrVolt_unread (hreads : ¬ ModeReads s mode ack) : Runs (.pwrVolt mv mode ack) s fun s' =>
    ChangeFailed s s' ∧ regF s' pgPwr 0x016 0 10 = mv.toNat ∧ Lowered mv.toNat s s' := by
  obtain ⟨e, x, hx, hexec⟩ := exec_pwrVolt_unread mode ack hon hlow hhigh hidle hpll hreads
  have hf := voltFail_fails x
  have htarget := hf.regs pgPwr 0x016 (by decide) (.inr (by decide))
  refine ⟨_, hexec, hf.changeFailed (by rw [hx.pwr]) hx.mem,
    (congrArg (getF · 0 10) htarget).trans hx.target, hx.lowered.of_reads hf.cap htarget (hf.regs _ _ (by decide) (.inl (by decide)))⟩

variable (hreads : ModeReads s mode ack)
include hreads

/-- At the set point, with no band to raise, the change is over at once. -/
theorem runs_pwrVolt_here (hhere : mv.toNat = s.pwr.mv) (hband : bandNow s ≤ bandOf mv.toNat) :
    Runs (.pwrVolt mv mode ack) s fun s' =>
      ChangeEnded mv.toNat s s' ∧ s'.pwr.mode = modeAfter s mode ∧ regF s' pgPwr 0x016 0 10 = mv.toNat := by
  obtain ⟨e, x, hx, hexec⟩ := exec_pwrVolt_read mode ack hon hlow hhigh hidle hpll hreads
  obtain ⟨-, hnow, -⟩ := hx.lowered.2 (by omega)
  have hdone := voltDone_ends mv.toNat x
  rw [if_pos hhere, voltHere, if_neg (by omega)] at hexec
  exact ⟨_, hexec, hdone.changeEnded (by rw [hx.pwr]) hx.mem,
    by rw [hdone.pwr, hx.pwr], hdone.target.trans hx.target⟩

/-- At the set point a band that rises waits for VREADY and the settle time all the same (R130). -/
theorem runs_pwrVolt_raise (hhere : mv.toNat = s.pwr.mv) (hband : bandOf mv.toNat < bandNow s) :
    Runs (.pwrVolt mv mode ack) s fun s' => Lowered mv.toNat s s' ∧ s'.pwr.mode = modeAfter s mode ∧ regB s' pgPwr 0x017 0 = true ∧
      ∃ e, s'.pwr.volt = some { target := mv.toNat, sent := some s.now, phase := if regB s pgPwr 0x017 1 then .settle s.now else .ready,
                                entry := e } := by
  obtain ⟨e, x, hx, hexec⟩ := exec_pwrVolt_read mode ack hon hlow hhigh hidle hpll hreads
  obtain ⟨-, hnow, -⟩ := hx.lowered.2 (by omega)
  rw [if_pos hhere, voltHere, if_pos (by omega), hx.now, hx.ready] at hexec
  refine ⟨_, hexec, hx.lowered, ?_, hx.busy, e, ?_⟩ <;> rw [modPwr, hx.pwr]
  rfl

/-- Elsewhere the steps toward the target begin. -/
theorem runs_pwrVolt_steps (hthere : mv.toNat ≠ s.pwr.mv) : Runs (.pwrVolt mv mode ack) s fun s' =>
    regF s' pgPwr 0x016 0 10 = mv.toNat ∧ s'.pwr.mode = modeAfter s mode ∧ regB s' pgPwr 0x017 0 = true ∧ s'.pwr.mv = s.pwr.mv ∧
      s'.mem = s.mem ∧ Lowered mv.toNat s s' ∧
      ∃ e, s'.pwr.volt = some { target := mv.toNat, sent := none, phase := .step, entry := e } := by
  obtain ⟨e, x, hx, hexec⟩ := exec_pwrVolt_read mode ack hon hlow hhigh hidle hpll hreads
  rw [if_neg hthere] at hexec
  exact ⟨x, hexec, hx.target, by rw [hx.pwr], hx.busy, by rw [hx.pwr], hx.mem, hx.lowered, e, by rw [hx.pwr]⟩

end
end

/-! ## Steps (R397, R398) -/

section
variable {s : State} {v : Volt}

/-- `code` is one of the two neighbours of the ULINEAR16 code of `n` mV (R397, assumption 10). -/
def CodeOf (s : State) (n code : Nat) : Prop :=
  code * 1000 < n * 2 ^ s.pwr.mode.getD 8 + 1000 ∧ n * 2 ^ s.pwr.mode.getD 8 < code * 1000 + 1000

theorem voutCode_spec (n : Nat) (s : State) : ∃ code free, CodeOf s n code ∧ voutCode n s = (code, { s with free := free }) := by
  have hle : ∀ b, b2n b ≤ 1 := by decide
  have hb := hle (Config.freeBit s.free)
  unfold voutCode CodeOf
  generalize n * 2 ^ s.pwr.mode.getD 8 = k
  by_cases hwhole : k % 1000 = 0
  · exact ⟨k / 1000, s.free, ⟨by omega, by omega⟩, if_pos hwhole⟩
  · exact ⟨k / 1000 + b2n (Config.freeBit s.free), s.free + 1, ⟨by omega, by omega⟩, if_neg hwhole⟩

/-- The set point of a step has been sent. -/
def stepSent (code free : Nat) (s : State) : State :=
  modPwr (fun x => { x with stepAt := some s.now }) (pmbus [0x21, code] { s with free := free })

section
variable (hv : s.pwr.volt = some v) (hphase : v.phase = .step) (hready : regB s pgPwr 0x017 1 = true) (hon : s.pwr.off = false)
  (hdue : ∀ t, s.pwr.stepAt = some t → t + 1000 ≤ s.now)
include hv hphase hready hon hdue

theorem exec_voltStep (ack : Bool) : ∃ code free, CodeOf s (voltNext s.pwr.mv v.target) code ∧
    exec (.voltStep ack) s = .next (
      if !ack then voltFail (stepSent code free s)
      else setRegB pgPwr 0x017 1 false (modPwr (fun x => { x with
        mv := voltNext s.pwr.mv v.target, volt := some { v with sent := some s.now, phase := .ready } }) (stepSent code free s))) := by
  obtain ⟨code, free, hof, hcode⟩ := voutCode_spec (voltNext s.pwr.mv v.target) s
  refine ⟨code, free, hof, ?_⟩
  show execVoltStep ack s = _
  unfold execVoltStep
  cases hat : s.pwr.stepAt with
  | none =>
    simp only [hv, hphase, hready, hon, hcode, Bool.not_false, and_self, if_true]
    rfl
  | some t =>
    simp only [hv, hphase, hready, hon, hcode, decide_eq_true (hdue t hat), Bool.not_false, and_self, if_true]
    rfl

theorem runs_voltStep_ack : Runs (.voltStep true) s fun s' => s'.pwr.mv = voltNext s.pwr.mv v.target ∧ s'.pwr.stepAt = some s.now ∧
    (∃ code, CodeOf s (voltNext s.pwr.mv v.target) code ∧ s'.out = s.out ++ [pmbusOut s [0x21, code]]) ∧
    regB s' pgPwr 0x017 1 = false ∧ s'.pwr.volt = some { v with sent := some s.now, phase := .ready } ∧
    s' = { s with pwr := s'.pwr, out := s'.out, regs := s'.regs, free := s'.free } := by
  obtain ⟨code, free, hof, hexec⟩ := exec_voltStep hv hphase hready hon hdue true
  rw [if_neg (by decide)] at hexec
  exact ⟨_, hexec, rfl, rfl, ⟨code, hof, rfl⟩, regB_setRegB_same _ false (by decide), rfl, rfl⟩

theorem runs_voltStep_nack : Runs (.voltStep false) s fun s' => ChangeFailed s s' ∧ s'.pwr.stepAt = some s.now ∧
    ∃ code, CodeOf s (voltNext s.pwr.mv v.target) code ∧
      s'.out = s.out ++ [pmbusOut s [0x21, code], pmbusOut s [0x79]] := by
  obtain ⟨code, free, hof, hexec⟩ := exec_voltStep hv hphase hready hon hdue false
  rw [if_pos (Bool.not_false)] at hexec
  have hf := voltFail_fails (stepSent code free s)
  have hout : (voltFail (stepSent code free s)).out = s.out ++ [pmbusOut s [0x21, code]] ++ [pmbusOut s [0x79]] := hf.out
  exact ⟨_, hexec, hf.changeFailed rfl rfl, by rw [hf.pwr]; rfl, code, hof, by rw [hout, List.append_assoc]; rfl⟩

end

/-- Steps are at least 1 ms apart (R398). -/
theorem runs_voltStep_early {t : Nat} (hat : s.pwr.stepAt = some t) (hearly : s.now < t + 1000) (ack : Bool) :
    Runs (.voltStep ack) s fun s' => s' = s := by
  refine ⟨s, ?_, rfl⟩
  show execVoltStep ack s = _
  have hlate : ¬ t + 1000 ≤ s.now := by omega
  unfold execVoltStep
  cases s.pwr.volt with
  | none => rfl
  | some v => simp [hat, hlate]

/-! ## VREADY (R396, R398–R400) -/

/-- The pin has risen; `volt` is the change that is under way then. -/
def VreadyRises (volt : Option Volt) (s s' : State) : Prop :=
  regB s' pgPwr 0x017 1 = true ∧ s' = { s with
    pwr := { s.pwr with wake := if s.pwr.wake = some .ready then some (.settle s.now) else s.pwr.wake, volt := volt }, regs := s'.regs }

theorem runs_vreadyRise_off (hoff : s.pwr.off = true) (hwake : s.pwr.wake = none) : Runs .vreadyRise s fun s' => s' = s :=
  ⟨s, congrArg Host.Outcome.next (if_pos ⟨hoff, hwake⟩), rfl⟩

/-- VREADY is high, and the settle time of a wake that awaited it begins. -/
def vreadyHigh (s : State) : State :=
  modPwr (fun x => { x with wake := if x.wake = some .ready then some (.settle s.now) else x.wake }) (setRegB pgPwr 0x017 1 true s)

theorem ready_vreadyHigh (s : State) : regB (vreadyHigh s) pgPwr 0x017 1 = true :=
  (regB_modPwr ..).trans (regB_setRegB_same _ true (by decide))

section
variable (hon : s.pwr.off = false ∨ s.pwr.wake ≠ none)
include hon

theorem not_vcoreOff : ¬ (s.pwr.off = true ∧ s.pwr.wake = none) := by
  rintro ⟨hoff, hwake⟩
  simp [hoff, hwake] at hon

theorem runs_vreadyRise_none (hnone : s.pwr.volt = none) : Runs .vreadyRise s (VreadyRises none s) := by
  refine ⟨vreadyHigh s, congrArg Host.Outcome.next ((if_neg (not_vcoreOff hon)).trans ?_), ready_vreadyHigh s, ?_⟩
  · rw [hnone]
    rfl
  · rw [← hnone]
    rfl

theorem runs_vreadyRise_some (hv : s.pwr.volt = some v) : Runs .vreadyRise s (VreadyRises (some
    (if v.phase = .ready then { v with phase := if v.target = s.pwr.mv then .settle s.now else .step } else v)) s) := by
  by_cases hphase : v.phase = .ready
  · refine ⟨modPwr (fun x => { x with volt := some { v with phase := if v.target = x.mv then .settle s.now else .step } })
      (vreadyHigh s), congrArg Host.Outcome.next ((if_neg (not_vcoreOff hon)).trans ?_), (regB_modPwr ..).trans (ready_vreadyHigh s), ?_⟩
    · rw [hv]
      exact if_pos hphase
    · rw [if_pos hphase]
      rfl
  · refine ⟨vreadyHigh s, congrArg Host.Outcome.next ((if_neg (not_vcoreOff hon)).trans ?_), ready_vreadyHigh s, ?_⟩
    · rw [hv]
      exact if_neg hphase
    · rw [if_neg hphase, ← hv]
      rfl

end

/-- VREADY absent for VTO ms ends the change; before that nothing happens (R399). -/
theorem runs_voltFail (hv : s.pwr.volt = some v) (hphase : v.phase = .ready) {t : Nat} (hsent : v.sent = some t) :
    (t + 1000 * max 1 (regF s pgPwr 0x015 16 8) ≤ s.now → Runs .voltFail s (ChangeFailed s)) ∧
      (s.now < t + 1000 * max 1 (regF s pgPwr 0x015 16 8) → Runs .voltFail s fun s' => s' = s) := by
  have hexec : exec .voltFail s = .next (if t + 1000 * max 1 (regF s pgPwr 0x015 16 8) ≤ s.now then voltFail s else s) := by
    show execVoltFail s = _
    unfold execVoltFail
    simp [hv, hphase, hsent]
  constructor <;> intro h
  · rw [if_pos h] at hexec
    exact ⟨_, hexec, (voltFail_fails s).changeFailed rfl rfl⟩
  · rw [if_neg (by omega)] at hexec
    exact ⟨_, hexec, rfl⟩

/-- A fall of VREADY outside a change counts, enters the fault record and raises its event (R400, R449). -/
theorem runs_vdrop (hnone : s.pwr.volt = none) (hon : s.pwr.off = false) (hready : regB s pgPwr 0x017 1 = true) :
    Runs .vdrop s fun s' => regB s' pgPwr 0x017 1 = false ∧ regB s' pgPwr 0x017 3 = true ∧
      (∃ e, s'.frec.getLast? = some e ∧ e.kind = 6 ∧ e.src = 0x350 ∧ e.data = wd (regF s pgPwr 0x016 0 10)) ∧
      regF s' pgPwr 0x014 24 12 = min 4095 (regF s pgPwr 0x014 24 12 + 1) ∧ s'.pwr = s.pwr ∧ s'.mem = s.mem := by
  let x := setRegB pgPwr 0x017 3 true (setRegB pgPwr 0x017 1 false s)
  let y := bumpF pgPwr 0x014 24 12 1 x
  let z := frecAdd 6 0x350 (wd (regF s pgPwr 0x016 0 10)) y
  have hexec : exec .vdrop s = .next (powerEvent 2 z) := by
    refine congrArg Host.Outcome.next (if_pos ⟨?_, hready, ?_⟩)
    · rw [hnone]; rfl
    · rw [hon]; rfl
  obtain ⟨regs, l, e, hadd, hkind, hsrc, hdata⟩ := frecAdd_eq 6 0x350 (wd (regF s pgPwr 0x016 0 10)) y
  have hz : z = { y with regs := regs, frec := l ++ [e] } := hadd
  have hfields := (powerEvent_arrivals z 2).fields
  have hpwr : ∀ o, o < 1024 → reg (powerEvent 2 z) pgPwr o = reg y pgPwr o := fun o ho =>
    (reg_powerEvent z (by decide) (by decide) ho 2).trans (reg_frecAdd y (by decide) ho ..)
  have hstat : reg y pgPwr 0x017 = reg x pgPwr 0x017 := reg_bumpF_off x (by decide)
  have hcount : reg x pgPwr 0x014 = reg s pgPwr 0x014 := (reg_setRegB_off _ true (by decide)).trans (reg_setRegB_off _ false (by decide))
  refine ⟨_, hexec, ?_, ?_, ⟨e, ?_, hkind, hsrc, hdata⟩, ?_, ?_, ?_⟩
  · rw [regB, hpwr _ (by decide), hstat]
    exact (regB_setRegB_ne _ true (by decide)).trans (regB_setRegB_same _ false (by decide))
  · rw [regB, hpwr _ (by decide), hstat]
    exact regB_setRegB_same _ true (by decide)
  · rw [hfields, hz]
    exact List.getLast?_concat
  · rw [regF, hpwr _ (by decide)]
    refine (regF_bumpF_same x (by decide) 1).trans ?_
    rw [regF, hcount]
    rfl
  · rw [hfields, hz]; rfl
  · rw [hfields, hz]; rfl

/-! ## The settle time (R396, R398) -/

/-- After the settle time of a wake VCORE is on, and the restore begins. -/
theorem runs_settleDone_wake {t : Nat} (hwake : s.pwr.wake = some (.settle t)) :
    (s.now < t + regF s pgPwr 0x015 8 8 → Runs .settleDone s fun s' => s' = s) ∧
      (t + regF s pgPwr 0x015 8 8 ≤ s.now → Runs .settleDone s fun s' =>
        s'.pwr.off = false ∧ s'.pwr.wake = none ∧ s'.mem = s.mem ∧ s'.regs = s.regs) := by
  have hexec : exec .settleDone s = .next (if t + regF s pgPwr 0x015 8 8 ≤ s.now then
      restoreNext (modPwr (fun x => { x with wake := none, off := false }) s) else s) := by
    show execSettleDone s = _
    unfold execSettleDone
    simp [hwake, settled]
  constructor <;> intro h
  · rw [if_neg (by omega)] at hexec
    exact ⟨_, hexec, rfl⟩
  · rw [if_pos h] at hexec
    refine ⟨_, hexec, ?_⟩
    unfold restoreNext
    split
    · exact ⟨rfl, rfl, rfl, rfl⟩
    · split <;> exact ⟨rfl, rfl, rfl, rfl⟩

/-- After the settle time of a voltage change the change is over. -/
theorem runs_settleDone_volt {t : Nat} (hwake : ∀ u, s.pwr.wake ≠ some (.settle u)) (hv : s.pwr.volt = some v)
    (hphase : v.phase = .settle t) :
    (s.now < t + regF s pgPwr 0x015 8 8 → Runs .settleDone s fun s' => s' = s) ∧
      (t + regF s pgPwr 0x015 8 8 ≤ s.now → Runs .settleDone s (ChangeEnded v.target s)) := by
  have hexec : exec .settleDone s = .next (if t + regF s pgPwr 0x015 8 8 ≤ s.now then voltDone v.target s else s) := by
    show execSettleDone s = _
    unfold execSettleDone
    rw [hv]
    cases hw : s.pwr.wake with
    | none => simp [hphase, settled]
    | some p =>
      cases p with
      | settle u => exact absurd hw (hwake u)
      | _ => simp [hphase, settled]
  constructor <;> intro h
  · rw [if_neg (by omega)] at hexec
    exact ⟨_, hexec, rfl⟩
  · rw [if_pos h] at hexec
    exact ⟨_, hexec, (voltDone_ends v.target s).changeEnded rfl rfl⟩

end

/-! ## PWR_STATUS and the discipline (R401, R403) -/

theorem runs_pwrStatus (s : State) :
    Runs .pwrStatus s fun s' => AdminEnds 0x14 0 (pwrState s) s s' ∧ s'.pwr = s.pwr ∧ s'.dom = s.dom := by
  obtain ⟨q, hdone⟩ := adminDone_eq s 0x14 0 (pwrState s)
  exact ⟨_, congrArg Host.Outcome.next hdone, ⟨rfl, rfl⟩, rfl, rfl⟩

theorem runs_disciplineLock (s : State) :
    (regB s pgAon 0x010 0 = true → Runs .disciplineLock s fun s' => regB s' pgAon 0x011 0 = true ∧ OnlyReg pgAon 0x011 s s') ∧
      (regB s pgAon 0x010 0 = false → Runs .disciplineLock s fun s' => s' = s) := by
  refine ⟨fun h => ⟨_, congrArg Host.Outcome.next (if_pos h), regB_setRegB_same _ true (by decide),
    onlyReg_setRegB 0 true s (by decide)⟩,
    fun h => ⟨_, congrArg Host.Outcome.next (if_neg ?_), rfl⟩⟩
  rw [h]
  exact Bool.false_ne_true

theorem runs_disciplineLoss (s : State) :
    (regB s pgAon 0x011 0 = true → Runs .disciplineLoss s fun s' => regB s' pgAon 0x011 0 = false ∧
      regF s' pgAon 0x011 8 8 = min 255 (regF s pgAon 0x011 8 8 + 1) ∧ OnlyReg pgAon 0x011 s s') ∧
      (regB s pgAon 0x011 0 = false → Runs .disciplineLoss s fun s' => s' = s) := by
  refine ⟨fun h => ⟨_, congrArg Host.Outcome.next (if_pos h), ?_, ?_, ?_⟩,
    fun h => ⟨_, congrArg Host.Outcome.next (if_neg ?_), rfl⟩⟩
  · exact (regB_bumpF_ne _ 1 (by decide)).trans (regB_setRegB_same _ false (by decide))
  · refine (regF_bumpF_same _ (by decide) 1).trans ?_
    rw [regF_setRegB_ne _ false (by decide)]
    rfl
  · exact (onlyReg_setRegB 0 false s (by decide)).trans (onlyReg_setReg _ (by decide))
  · rw [h]
    exact Bool.false_ne_true

/-! ## The statement -/

/-- Settles O48: each command by the branch of the model that its premises select. -/
theorem voltageAndTimeBase : Obligations.VoltageAndTimeBase := by
  intro s
  refine ⟨fun hreset mv mode ack => ⟨s, congrArg Host.Outcome.next (if_pos hreset), rfl⟩,
    fun hon mv mode ack => ⟨runs_pwrVolt_range mode ack hon, fun hlow hhigh => ?volt⟩,
    fun v hv hphase hready hon hdue => ⟨runs_voltStep_ack hv hphase hready hon hdue, runs_voltStep_nack hv hphase hready hon hdue⟩,
    fun t hat hearly ack => runs_voltStep_early hat hearly ack,
    ⟨runs_vreadyRise_off, fun hon => ⟨runs_vreadyRise_none hon, fun v hv => runs_vreadyRise_some hon hv⟩⟩,
    fun v hv hphase t hsent => runs_voltFail hv hphase hsent, fun hnone hon hready => runs_vdrop hnone hon hready,
    fun t hwake => runs_settleDone_wake hwake, fun v t hwake hv hphase => runs_settleDone_volt hwake hv hphase, runs_pwrStatus s,
    (runs_disciplineLock s).1, (runs_disciplineLock s).2, (runs_disciplineLoss s).1, (runs_disciplineLoss s).2⟩
  case volt =>
    refine ⟨runs_pwrVolt_busy mode ack hon hlow hhigh, runs_pwrVolt_pll mode ack hon hlow hhigh, fun hidle hpll => ⟨?_, ?_, ?_, ?_⟩⟩
    · exact runs_pwrVolt_unread mode ack hon hlow hhigh hidle hpll
    · exact runs_pwrVolt_here mode ack hon hlow hhigh hidle hpll
    · exact runs_pwrVolt_raise mode ack hon hlow hhigh hidle hpll
    · exact runs_pwrVolt_steps mode ack hon hlow hhigh hidle hpll

end Sys2Proof.Machine
end

section
/-! SUPPORT. The event sieve (R138, R160, R161, R165, R166, R169, R173): what arbitration leaves alone, how a write reaches a register of
the sieve, the parts of a word that a write copies, and the statement about the inputs and the running record. -/

namespace Sys2Proof.Machine

/-! ## Parts of a word -/

/-- A field is its bits. -/
theorem getF_congr {v w : Word} {lo len : Nat} (h : ∀ i, lo ≤ i → i < lo + len → bit v i = bit w i) :
    getF v lo len = getF w lo len := by
  refine Nat.eq_of_testBit_eq fun i => ?_
  rw [testBit_getF, testBit_getF]
  by_cases hi : i < len
  · rw [h (lo + i) (by omega) (by omega)]
  · simp [hi]

/-- A field copied from another word brings that word's bits. -/
theorem bit_setF_getF (w v : Word) (lo len i : Nat) :
    bit (setF w lo len (getF v lo len)) i = if lo ≤ i ∧ i < lo + len then bit v i else bit w i := by
  rw [bit_setF]
  split
  · next h =>
    rw [testBit_getF, show lo + (i - lo) = i by omega, decide_eq_true (show i - lo < len by omega), Bool.true_and]
    by_cases h40 : i < 40
    · simp [h40]
    · rw [bit_ge v (by omega), Bool.and_false]
  · rfl

theorem getF_setF_getF_within (w v : Word) {lo len a n : Nat} (hlo : lo ≤ a) (hhi : a + n ≤ lo + len) :
    getF (setF w lo len (getF v lo len)) a n = getF v a n :=
  getF_congr fun i hi hn => by rw [bit_setF_getF, if_pos (by omega)]

/-! ## Arbitration -/

theorem quiet_setEntry (t : Nat) (e : Option Nat) (s : State) : Quiet t [] s (setEntry t e s) :=
  .of_tine t s (fun _ => ⟨rfl, rfl, rfl, id⟩) fun _ => ⟨rfl, rfl⟩

/-- The counts of takeovers and of abandoned entries share a register (R168, R169). -/
theorem quiet_sieveCount (t lo len n : Nat) (s : State) : Quiet t [oSCNT] s (bumpF (pgTine t) oSCNT lo len n s) :=
  .of_setReg t _ s (by decide) fun h => absurd h (by decide)

theorem quiet_sieveUpdate (t : Nat) (s : State) : Quiet t [oSCNT] s (sieveUpdate t s) := by
  have hentry : ∀ e, Quiet t [oSCNT] s (setEntry t e s) := fun e => (quiet_setEntry t e s).mono (by simp) (by decide)
  have hsame : Quiet t [oSCNT] s s := (Quiet.refl t s).mono (by simp) (by decide)
  unfold sieveUpdate
  split
  · exact hsame
  · split
    · exact hsame
    · exact hentry _
  · exact hentry _
  · split
    · exact hsame
    split
    · exact (quiet_setEntry t _ s).trans (quiet_sieveCount t 0 16 1 _)
    · exact hentry _

theorem quiet_sieveAbandon (t : Nat) (s : State) : Quiet t [oSCNT] s (sieveAbandon t s) :=
  (((quiet_setEntry t none s).trans (quiet_sieveCount t 16 16 1 _)).trans (quiet_sieveUpdate t _)).mono (by simp) (by decide)

/-- A change at the sieve's registers `offs`, followed by arbitration, meets the frame of the sieve's commands. -/
theorem Quiet.sieveFrame {t : TineNo} {offs : List Nat} {s a b : State} (h : Quiet t offs s a) (k : Quiet t [oSCNT] a b) :
    SieveFrame t offs s b := by
  have hall := h.trans k
  refine ⟨hall.only, fun off ho hn hcount => hall.page off ho ?_, ⟨hall.getG, fun n _ => hall.getAcc n⟩, hall.pc⟩
  simpa [hn] using hcount

/-- A register of the sieve reads after arbitration as before it. -/
theorem Quiet.reg_sieve {t : Nat} {a b : State} (k : Quiet t [oSCNT] a b) {off : Nat} (hoff : off < 1024) (hne : off ≠ oSCNT) :
    reg b (pgTine t) off = reg a (pgTine t) off :=
  k.page off hoff (by simpa using hne)

theorem Quiet.sievePend {t : Nat} {a b : State} (k : Quiet t [oSCNT] a b) {n : Nat} (hn : n < 64) : sievePend b t n = sievePend a t n := by
  unfold Machine.sievePend regB
  rw [k.reg_sieve (by unfold oPENDLO; omega) (by unfold oPENDLO oSCNT; omega)]

/-! ## Pending bits -/

theorem quiet_setPend (t : Nat) {n : Nat} (hn : n < 64) (b : Bool) (s : State) : Quiet t [oPENDLO + n / 32] s (setPend t n b s) :=
  .of_setReg t _ s (by unfold oPENDLO; omega) fun h => absurd h (by unfold oPENDLO oTST; omega)

theorem sievePend_setPend_ne (s : State) (t : Nat) {m n : Nat} (b : Bool) (h : m ≠ n) :
    sievePend (setPend t n b s) t m = sievePend s t m := by
  unfold sievePend setPend
  by_cases hword : m / 32 = n / 32
  · rw [hword, regB_setRegB_ne s b (by omega)]
  · rw [regB, reg_setRegB_off s b (by omega)]
    rfl

/-- A pending bit written and arbitration after it (R160). -/
theorem sievePend_written {t : TineNo} {n : Nat} (hn : n < 64) (b : Bool) {s s' : State} (k : Quiet t [oSCNT] (setPend t n b s) s') :
    sievePend s' t n = b ∧ (∀ m, m < 64 → m ≠ n → sievePend s' t m = sievePend s t m) ∧
      SieveFrame t [oPENDLO + n / 32] s s' := by
  refine ⟨(k.sievePend hn).trans (sievePend_setPend_same s t n b), fun m hm hne => ?_, (quiet_setPend t hn b s).sieveFrame k⟩
  exact (k.sievePend hm).trans (sievePend_setPend_ne s t b hne)

theorem sievePend_raised {t : TineNo} {n : Nat} (hn : n < 64) {s : State} (hup : tineUp s t = true) :
    sievePend (raise t n s) t n = true ∧ (∀ m, m < 64 → m ≠ n → sievePend (raise t n s) t m = sievePend s t m) ∧
      SieveFrame t [oPENDLO + n / 32] s (raise t n s) := by
  have heq : raise t n s = sieveUpdate t (setPend t n true s) := if_pos hup
  rw [heq]
  exact sievePend_written hn true (quiet_sieveUpdate t _)

theorem sievePend_cleared {t : TineNo} {n : Nat} (hn : n < 64) (hfault : n ≠ 60) (s : State) :
    sievePend (sieveClrPend t n s) t n = false ∧ (∀ m, m < 64 → m ≠ n → sievePend (sieveClrPend t n s) t m = sievePend s t m) ∧
      SieveFrame t [oPENDLO + n / 32] s (sieveClrPend t n s) := by
  refine sievePend_written hn false ?_
  unfold sieveClrPend
  rw [if_neg hfault]
  dsimp only
  split
  · exact quiet_sieveAbandon t _
  · exact quiet_sieveUpdate t _

/-! ## Writes of the sieve's registers -/

/-- A write that its requester may make reaches the register, by MTC or by the memory path (R85, R138). -/
theorem tineCmdWrite_of_writes {s : State} {w : Who} {t : TineNo} {off : Nat} (h : Writes s w t off) (hlo : 0x80 ≤ off)
    (hhi : off < 0x280) (v : Word) : tineCmdWrite w t off v s = tineRegWrite w t off v s := by
  obtain ⟨hself, hother⟩ := h
  have hworld : isWorldReg off = false := by simp [isWorldReg, hhi]
  have hnumber : off - 0x80 + 0x80 = off := by omega
  unfold tineCmdWrite
  rw [Fin.ofNat_val_eq_self]
  by_cases hw : w = .tine t
  · rw [if_pos hw, hself hw, if_neg Bool.false_ne_true, ctlWrite, if_neg (by omega), hnumber, hworld, hw]
    rfl
  · rw [if_neg hw, gated_of_ok _ (hother hw), tinePageWrite, hworld]
    rfl

theorem tineRegWrite_cfg (w : Who) (t : Nat) (n : Fin 64) (v : Word) (s : State) :
    tineRegWrite w t (oSCFG n) v s = sieveCfgWrite w (!whoWalled s w) t n v s := by
  have hn := n.isLt
  have hnumber : oSCFG n - 0x1C0 = n := by unfold oSCFG; omega
  unfold tineRegWrite
  rw [if_neg (by unfold oSCFG; omega), if_pos (by unfold oSCFG; omega), hnumber]

/-! ## Configuration (R161, R165, R169) -/

/-- The word that a write of SIEVE_CFGn stores: the owner bit is the written one or stays. -/
def cfgWord (owns : Bool) (old v : Word) : Word := setF (setF 0 0 16 (getF v 0 16)) 5 1 (if owns then getF v 5 1 else getF old 5 1)

theorem getF_cfgWord (owns : Bool) (old v : Word) {lo len : Nat} (hlen : lo + len ≤ 16) (hapart : lo + len ≤ 5 ∨ 6 ≤ lo) :
    getF (cfgWord owns old v) lo len = getF v lo len := by
  rw [cfgWord, getF_setF_ne _ _ hapart, getF_setF_getF_within _ _ (by omega) (by omega)]

theorem owner_cfgWord (owns : Bool) (old v : Word) : bit (cfgWord owns old v) 5 = if owns then bit v 5 else bit old 5 := by
  cases owns <;> exact (bit_setF_getF ..).trans (if_pos (by omega))

/-- A write of SIEVE_CFGn stores its word and ends with arbitration. -/
theorem quiet_sieveCfgWrite {s : State} {w : Who} {fromOpen : Bool} {t n : Nat} (hfault : n ≠ 60)
    (hopen : (fromOpen && inWalled s t n) = false) (v : Word) :
    Quiet t [oSCNT] (setReg (pgTine t) (oSCFG n) (cfgWord (cfgOwnerOk s w t n) (reg s (pgTine t) (oSCFG n)) v) s)
      (sieveCfgWrite w fromOpen t n v s) := by
  have hmay : ¬ (n = 60 ∨ (fromOpen = true ∧ bit (reg s (pgTine t) (oSCFG n)) 5 = true)) := by
    rintro (h | ⟨hsup, howner⟩)
    · exact hfault h
    · rw [Bool.and_eq_false_iff] at hopen
      exact hopen.elim (by simp [hsup]) (by simp [inWalled, regB, howner])
  unfold sieveCfgWrite
  extract_lets old v1 s1
  rw [if_neg hmay]
  split
  · exact quiet_sieveAbandon t _
  · exact quiet_sieveUpdate t _

/-! ## The running record (R164, R165) -/

/-- A register below the banks, other than TST, is written. -/
theorem quiet_setReg (t : Nat) {off : Nat} (v : Word) (s : State) (hlow : off < 0x2D0) (htst : off ≠ oTST) :
    Quiet t [off] s (setReg (pgTine t) off v s) :=
  .of_setReg t v s hlow fun h => absurd h htst

/-- The record after a pop: the top of the stack and one entry less. -/
def recordPopped (st top : Word) : Word := setF (setF st 0 13 (getF top 0 13)) 13 5 (getF st 13 5 - 1)

theorem fields_recordPopped (st top : Word) : getF (recordPopped st top) 0 13 = getF top 0 13 ∧
    getF (recordPopped st top) 13 5 = getF st 13 5 - 1 := by
  have hlt := getF_lt st 13 5
  unfold recordPopped
  rw [getF_setF_ne _ _ (by omega), getF_setF_getF_within _ _ (by omega) (by omega), getF_setF_same _ _ (by decide)]
  exact ⟨rfl, Nat.mod_eq_of_lt (by omega)⟩

/-- With an input's handler running, SIEVE_EOI pops its record (R165); the popped entry reads 0 (assumption 143). -/
theorem sieveEoi_pops {s : State} {t : TineNo} {fromOpen : Bool} (hbase : bit (reg s (pgTine t) oSSTAT) 4 = false)
    (hopen : (fromOpen && bit (reg s (pgTine t) oSSTAT) 5) = false)
    (hmax : getF (reg s (pgTine t) oSSTAT) 13 5 ≤ 16) :
    let d := getF (reg s (pgTine t) oSSTAT) 13 5
    let s' := sieveEoi fromOpen t s
    getF (reg s' (pgTine t) oSSTAT) 0 13 = getF (reg s (pgTine t) (oSTK (d - 1))) 0 13 ∧
      getF (reg s' (pgTine t) oSSTAT) 13 5 = d - 1 ∧ reg s' (pgTine t) (oSTK (d - 1)) = 0 ∧
      SieveFrame t [oSSTAT, oSTK (d - 1)] s s' := by
  intro d s'
  have heq : s' = sieveUpdate t (recPop t s) := by
    simp only [s', sieveEoi, hbase, hopen, Bool.false_eq_true, if_false]
  have hbounds : 0x190 ≤ oSTK (d - 1) ∧ oSTK (d - 1) < 0x1A0 := by
    have : d ≤ 16 := hmax
    unfold oSTK
    omega
  have hstk : oSTK (d - 1) ≠ oSSTAT ∧ oSTK (d - 1) ≠ oTST ∧ oSTK (d - 1) ≠ oSCNT := by
    unfold oSSTAT oTST oSCNT
    omega
  have hstat : reg (recPop t s) (pgTine t) oSSTAT = recordPopped (reg s (pgTine t) oSSTAT) (reg s (pgTine t) (oSTK (d - 1))) := by
    unfold recPop
    dsimp only
    rw [reg_setReg_off _ _ hstk.1.symm, reg_setReg_same]
    rfl
  have hpop : Quiet t [oSSTAT, oSTK (d - 1)] s (recPop t s) :=
    (quiet_setReg t _ s (by decide) (by decide)).trans (quiet_setReg t 0 _ (by omega) hstk.2.1)
  have hupdate := quiet_sieveUpdate t (recPop t s)
  obtain ⟨htop, hdepth⟩ := fields_recordPopped (reg s (pgTine t) oSSTAT) (reg s (pgTine t) (oSTK (d - 1)))
  rw [heq]
  refine ⟨?_, ?_, ?_, hpop.sieveFrame hupdate⟩
  · rw [hupdate.reg_sieve (by decide) (by decide), hstat, htop]
  · rw [hupdate.reg_sieve (by decide) (by decide), hstat, hdepth]
  · rw [hupdate.reg_sieve (by omega) hstk.2.2]
    exact reg_setReg_same ..

/-! ## The commands -/

section
variable {s : State} {t : TineNo} {w : Who} {v : Word}

/-- A write that raises reaches the tine that makes it (R173, assumption 104). -/
theorem exec_sieveRaise_tine {p : TineNo} (hw : w = .tine p ∨ ∃ wl su, w = .store p wl su) (hwrites : Writes s w t oRAISE)
    (hset : bit v 39 = true) : exec (.sieveRaise w t v) s = .next (raise p 63 s) := by
  refine congrArg Host.Outcome.next ((tineCmdWrite_of_writes hwrites (by decide) (by decide) v).trans ((if_pos hset).trans ?_))
  obtain rfl | ⟨wl, su, rfl⟩ := hw <;> rfl

/-- A requester that is no tine raises nothing (assumption 104). -/
theorem exec_sieveRaise_other (hw : ∀ p wl su, w ≠ .tine p ∧ w ≠ .store p wl su) (hwrites : Writes s w t oRAISE) :
    exec (.sieveRaise w t v) s = .next s := by
  refine congrArg Host.Outcome.next ((tineCmdWrite_of_writes hwrites (by decide) (by decide) v).trans ?_)
  show (if bit v 39 = true then _ else s) = s
  split
  · cases w with
    | tine p => exact absurd rfl (hw p false false).1
    | store p wl su => exact absurd rfl (hw p wl su).2
    | _ => rfl
  · rfl

theorem exec_sieveClrpend (hwrites : Writes s w t oCLRPEND) (hset : bit v 39 = true)
    (hopen : (!whoWalled s w && inWalled s t (getF v 0 6)) = false) :
    exec (.sieveClrpend w t v) s = .next (sieveClrPend t (getF v 0 6) s) :=
  congrArg Host.Outcome.next ((tineCmdWrite_of_writes hwrites (by decide) (by decide) v).trans (if_pos (by rw [hset, hopen]; rfl)))

theorem exec_sieveEoi (hwrites : Writes s w t oEOI) : exec (.sieveEoi w t v) s = .next (sieveEoi (!whoWalled s w) t s) :=
  congrArg Host.Outcome.next (tineCmdWrite_of_writes hwrites (by decide) (by decide) v)

theorem exec_sieveCfgWrite {n : Fin 64} (hwrites : Writes s w t (oSCFG n)) :
    exec (.sieveCfgWrite w t n v) s = .next (sieveCfgWrite w (!whoWalled s w) t n v s) := by
  have hn := n.isLt
  refine congrArg Host.Outcome.next ((tineCmdWrite_of_writes hwrites ?_ ?_ v).trans (tineRegWrite_cfg w t n v s)) <;> unfold oSCFG <;> omega

theorem runs_sieveEoi_spurious (hwrites : Writes s w t oEOI) (hbase : bit (reg s (pgTine t) oSSTAT) 4 = true) :
    Runs (.sieveEoi w t v) s fun s' =>
      reg s' (pgTine t) oSSTAT = setB (reg s (pgTine t) oSSTAT) 18 true ∧ SieveFrame t [oSSTAT] s s' := by
  refine ⟨_, (exec_sieveEoi hwrites).trans (congrArg _ (if_pos hbase)), reg_setReg_same .., ?_⟩
  exact (quiet_setReg t _ s (by decide) (by decide)).sieveFrame ((Quiet.refl t _).mono (by simp) (by decide))

theorem runs_sieveCfgWrite {n : Fin 64} (hfault : n.val ≠ 60) (hwrites : Writes s w t (oSCFG n))
    (hopen : (!whoWalled s w && inWalled s t n) = false) : Runs (.sieveCfgWrite w t n v) s fun s' =>
      getF (reg s' (pgTine t) (oSCFG n)) 0 5 = getF v 0 5 ∧ getF (reg s' (pgTine t) (oSCFG n)) 6 10 = getF v 6 10 ∧
      inWalled s' t n = (if walledWriter s w && decide (w ≠ .graft ∧ w ≠ .nursery) && !sievePend s t n && !inActive s t n then bit v 5
        else inWalled s t n) ∧
      SieveFrame t [oSCFG n] s s' := by
  have hn := n.isLt
  have hbounds : 0x1C0 ≤ oSCFG n ∧ oSCFG n < 0x200 := by unfold oSCFG; omega
  have hupdate := quiet_sieveCfgWrite (w := w) hfault hopen v
  have hword := hupdate.reg_sieve (off := oSCFG n) (by omega) (by unfold oSCNT; omega)
  rw [reg_setReg_same] at hword
  have howner : cfgOwnerOk s w t n =
      (walledWriter s w && decide (w ≠ .graft ∧ w ≠ .nursery) && !sievePend s t n && !inActive s t n) := by
    simp only [cfgOwnerOk, ownerWriter, Bool.decide_and, Bool.and_assoc]
  refine ⟨_, exec_sieveCfgWrite hwrites, ?_, ?_, ?_, (quiet_setReg t _ s (by omega) (by unfold oTST; omega)).sieveFrame hupdate⟩
  · rw [hword, getF_cfgWord _ _ _ (by decide) (by decide)]
  · rw [hword, getF_cfgWord _ _ _ (by decide) (by decide)]
  · rw [inWalled, regB, hword, owner_cfgWord, howner]
    rfl

/-- A window that has ended is forgotten, and the input is considered again (R166). -/
theorem runs_holdOffEnd {n : Fin 64} (hended : Tbl.get (fun _ => 0) (tineAt s t).hold n ≤ s.now) : Runs (.holdOffEnd t n) s fun s' =>
    Tbl.get (fun _ => 0) (tineAt s' t).hold n = 0 ∧
      (∀ m, m ≠ n.val → Tbl.get (fun _ => 0) (tineAt s' t).hold m = Tbl.get (fun _ => 0) (tineAt s t).hold m) ∧
      SieveFrame t [] s s' := by
  let a := modTine t (fun x => { x with hold := Tbl.set (fun _ => 0) x.hold n 0 }) s
  have hforget : Quiet t [] s a := .of_tine t s (fun _ => ⟨rfl, rfl, rfl, id⟩) fun _ => ⟨rfl, rfl⟩
  have hhold : (tineAt (sieveUpdate t a) t).hold = Tbl.set (fun _ => 0) (tineAt s t).hold n 0 := by
    obtain ⟨e, he⟩ := tineAt_sieveUpdate t a
    rw [he, tineAt_modTine_same]
  refine ⟨_, congrArg Host.Outcome.next (if_pos hended), ?_, fun m hm => ?_, hforget.sieveFrame (quiet_sieveUpdate t a)⟩
  · rw [hhold, Tbl.get_set_same]
  · rw [hhold, Tbl.get_set_ne _ _ _ hm]

end

/-- Settles O20: each command changes its register, its record or its window by the model's own operation, and arbitration after it
changes the chosen entry and the takeover count only. -/
theorem sieveInputs : Obligations.SieveInputs := by
  intro s t w v openW
  refine ⟨fun n hup => ⟨_, rfl, sievePend_raised n.isLt hup⟩, fun p hw hup hwrites hset => ?raise,
    fun hw hwrites => ⟨s, exec_sieveRaise_other hw hwrites, rfl⟩, fun hwrites hset hfault hopen => ?clear,
    runs_sieveEoi_spurious, fun hwrites hbase hopen _ hmax => ⟨_, exec_sieveEoi hwrites, sieveEoi_pops hbase hopen hmax⟩,
    fun n hfault hwrites hopen => runs_sieveCfgWrite hfault hwrites hopen, fun n hended => runs_holdOffEnd hended⟩
  case raise =>
    obtain ⟨hpend, hothers, hframe⟩ := sievePend_raised (n := 63) (by decide) hup
    exact ⟨_, exec_sieveRaise_tine hw hwrites hset, hpend, fun m hm => hothers m (by omega) (by omega), hframe⟩
  case clear => exact ⟨_, exec_sieveClrpend hwrites hset hopen, sievePend_cleared (getF_lt v 0 6) hfault s⟩

end Sys2Proof.Machine
end

section
/-! SUPPORT. Handler entries and returns (R145, R152, R154, R160, R164, R166): the commit of a chosen entry step by step, what RETX
restores from a save set, and the statement about both. -/

namespace Sys2Proof.Machine

/-! ## What both end with -/

/-- A halt or the end of a step is taken, or nothing happens. -/
theorem quiet_haltCheck (t : Nat) (s : State) : Quiet t [] s (haltCheck t s) := by
  unfold haltCheck
  split
  · split
    · exact .of_tine t s (fun _ => ⟨rfl, rfl, rfl, id⟩) fun _ => ⟨rfl, rfl⟩
    · exact .refl t s
  · exact quiet_haltHeld t s

theorem Quiet.entering {t : Nat} {offs : List Nat} {s a : State} (h : Quiet t offs s a) : Entering t offs s a :=
  (Side.mk h.only h.page h.g h.acc h.sb h.xcache).entering

/-- Arbitration leaves the level entered. -/
theorem entered_of_quiet {t : TineNo} {lvl pc : Nat} {w : Bool} {s a : State} (h : Entered t lvl w pc s) (hquiet : Quiet t [oSCNT] s a) :
    Entered t lvl w pc a := by
  obtain ⟨hlevel, hworld, hsuper, haddr, ⟨hrep, hrun⟩, hcloche⟩ := h
  have hpage : ∀ off, off < 1024 → off ≠ oSCNT → reg a (pgTine t) off = reg s (pgTine t) off :=
    fun off ho hne => hquiet.reg_sieve ho hne
  have htst := hpage oTST (by decide) (by decide)
  have hlstat := hpage oLSTAT (by decide) (by decide)
  exact ⟨hquiet.lvl.trans hlevel, (congrArg (bit · 29) htst).trans hworld, (congrArg (bit · 28) htst).trans hsuper,
    hquiet.pc.trans haddr, ⟨(congrArg (getF · 6 13) hlstat).trans hrep, (congrArg (bit · 20) hlstat).trans hrun⟩,
    (hpage oCLOCHE (by decide) (by decide)).trans hcloche⟩

/-! ## The running record -/

/-- A pushed record names its input and its priority (R164). -/
theorem fields_recPush (t : Nat) {p : Nat} (hp : p < 16) (w : Bool) (n : Nat) (s : State) :
    getF (reg (recPush t p w n s) (pgTine t) oSSTAT) 6 6 = n % 64 ∧ getF (reg (recPush t p w n s) (pgTine t) oSSTAT) 0 4 = p := by
  have hw : b2n w ≤ 1 := by cases w <;> decide
  have hpart : ∀ (st : Word) (d a len : Nat), a + len ≤ 13 →
      getF (setF (setF st 0 13 (recWord p w n)) 13 5 d) a len = recWord p w n / 2 ^ a % 2 ^ len := fun st d a len h => by
    have hwithin := getF_setF_within st (lo := 0) (v := recWord p w n) h (by decide)
    rw [Nat.zero_add] at hwithin
    rw [getF_setF_ne _ _ (by omega), hwithin]
  unfold recPush
  dsimp only
  rw [reg_setReg_same, hpart _ _ 6 6 (by decide), hpart _ _ 0 4 (by decide), recWord]
  omega

theorem side_recPush (t p n : Nat) (w : Bool) (s : State) :
    Side t [oSTK (getF (reg s (pgTine t) oSSTAT) 13 5), oSSTAT] s (recPush t p w n s) := by
  have hdepth := getF_lt (reg s (pgTine t) oSSTAT) 13 5
  exact (side_setReg t _ _ s (by unfold oSTK; omega)).trans (side_setReg t oSSTAT _ _ (by decide))

/-! ## The commit of an entry (R145) -/

/-- What an entry changes once its record is made. -/
def enteredOffs : List Nat := [oLSTAT, oTST, oCLOCHE, oSCNT]

theorem saveOffs_bounds {k : Nat} (hk : k < 18) : ∀ o ∈ saveOffs k, 0x280 ≤ o ∧ o < 0x2C8 := by
  intro o ho
  simp only [saveOffs, oSPC, oSST, oSLS, List.mem_cons, List.not_mem_nil, or_false] at ho
  omega

/-- Save sets, pending bits, the record and what an entry changes after it lie apart. -/
theorem commitOffs_apart {n d : Nat} (hn : n < 64) (hd : d < 32) :
    oPENDLO + n / 32 ∉ [oSTK d, oSSTAT] ++ enteredOffs ∧
      ∀ o, 0x280 ≤ o → o < 0x2C8 → o ∉ [oPENDLO + n / 32] ++ ([oSTK d, oSSTAT] ++ enteredOffs) := by
  simp only [enteredOffs, oPENDLO, oSTK, oSSTAT, oLSTAT, oTST, oCLOCHE, oSCNT, List.mem_append, List.mem_cons, List.not_mem_nil,
    or_false]
  exact ⟨by omega, fun o hlo hhi => by omega⟩

/-- A committed entry stands in its level, has cleared its pending bit, saved what it was given and made its record (R145, R160,
R164). -/
theorem commitEntry_spec (t : TineNo) {n : Nat} (hn : n < 64) (pc : Nat) (spc sst sls : Word) (s : State) :
    let p := inPri s t n
    let s' := commitEntry t n pc spc sst sls s
    Entered t (p + 1) (inWalled s t n) pc s' ∧ sievePend s' t n = false ∧
      (reg s' (pgTine t) (oSPC p) = spc ∧ reg s' (pgTine t) (oSST p) = sst ∧ reg s' (pgTine t) (oSLS p) = sls) ∧
      (getF (reg s' (pgTine t) oSSTAT) 6 6 = n % 64 ∧ getF (reg s' (pgTine t) oSSTAT) 0 4 = p) ∧ OperandsKept t s s' := by
  intro p s'
  have hp : p < 16 := getF_lt _ 0 4
  let x1 := saveSet t p spc sst sls s
  let x2 := setPend t n false x1
  let x3 := recPush t p (inWalled s t n) n x2
  let h := regF s (pgTine t) (oSCFG n) 6 10
  let x4 := if h = 0 then x3 else modTine t (fun x => { x with hold := Tbl.set (fun _ => 0) x.hold n (s.now + h) }) x3
  let x5 := enterLevel t (p + 1) (inWalled s t n) pc x4
  let d := getF (reg x2 (pgTine t) oSSTAT) 13 5
  have hd : d < 32 := getF_lt _ 13 5
  have hsave : Entering t (saveOffs p) s x1 := (side_saveSet t (by omega) spc sst sls s).entering
  have hpend : Entering t [oPENDLO + n / 32] x1 x2 := (quiet_setPend t hn false x1).entering
  have hrecord : Entering t [oSTK d, oSSTAT] x2 x3 := (side_recPush t p n _ x2).entering
  have hhold : Entering t [] x3 x4 := by
    simp only [x4]
    split
    · exact (Side.refl t x3).entering
    · exact Side.entering (side_modTine t _ x3 fun _ => ⟨rfl, rfl, rfl, rfl⟩)
  have hend : Quiet t [oSCNT] x5 s' := (quiet_sieveUpdate t x5).trans (quiet_haltCheck t _)
  have hlevel : Entering t enteredOffs x3 s' := (hhold.trans (side_enterLevel t (p + 1) _ pc x4).entering).trans hend.entering
  obtain ⟨hpendApart, hsaveApart⟩ := commitOffs_apart hn hd
  have hsaved : ∀ o ∈ saveOffs p, reg s' (pgTine t) o = reg x1 (pgTine t) o := fun o ho => by
    obtain ⟨hlo, hhi⟩ := saveOffs_bounds (show p < 18 by omega) o ho
    exact (hpend.trans (hrecord.trans hlevel)).page o (by omega) (hsaveApart o hlo hhi)
  have hcleared : reg s' (pgTine t) (oPENDLO + n / 32) = reg x2 (pgTine t) (oPENDLO + n / 32) :=
    (hrecord.trans hlevel).page _ (by unfold oPENDLO; omega) hpendApart
  have hstat : reg s' (pgTine t) oSSTAT = reg x3 (pgTine t) oSSTAT := hlevel.page oSSTAT (by decide) (by decide)
  obtain ⟨hspc, hsst, hsls⟩ := reg_saveSet t p spc sst sls s
  refine ⟨entered_of_quiet (entered_enterLevel t (by omega) _ pc x4) hend, ?_, ⟨?_, ?_, ?_⟩, ?_,
    (hsave.trans (hpend.trans (hrecord.trans hlevel))).operandsKept⟩
  · rw [sievePend, regB, hcleared]
    exact sievePend_setPend_same x1 t n false
  · rw [hsaved _ (by simp [saveOffs]), hspc]
  · rw [hsaved _ (by simp [saveOffs]), hsst]
  · rw [hsaved _ (by simp [saveOffs]), hsls]
  · rw [hstat]
    exact fields_recPush t hp _ n x2

/-- A save set that was given the present state holds it (R142). -/
theorem stateSaved_of_regs {t : TineNo} {k : Nat} {half : Bool} {s s' : State}
    (hspc : reg s' (pgTine t) (oSPC k) = wd (tineAt s t).pc.toNat) (hsst : reg s' (pgTine t) (oSST k) = sstNow s t half)
    (hsls : reg s' (pgTine t) (oSLS k) = reg s (pgTine t) oLSTAT) : StateSaved t k s s' := by
  obtain ⟨hflags, hsuper, hworld, hlvl⟩ := fields_sstNow s t half
  unfold StateSaved regF
  rw [hspc, hsst]
  refine ⟨?_, hflags, hsuper, hworld, hlvl, hsls⟩
  have := (tineAt s t).pc.isLt
  rw [getF_wd _ _ _ (by decide)]
  omega

/-- The latency of an entry goes to the gauges and to nothing else (R437). -/
theorem latencyGauge_eq (t latency : Nat) (s : State) : ∃ g, latencyGauge t latency s = { s with gauges := g } := by
  unfold latencyGauge
  split
  · exact gaugeTake_eq ..
  · exact ⟨_, rfl⟩

theorem entered_gauges {t : TineNo} {lvl pc : Nat} {w : Bool} {s : State} (h : Entered t lvl w pc s) (g : Tbl Gauge) :
    Entered t lvl w pc { s with gauges := g } := ⟨h.level, h.world, h.super, h.addr, h.noRepeat, h.noCloche⟩

/-- Awake and owing no fault, the tine commits its chosen entry from the state it is in (R145, R149). -/
theorem exec_handlerEntry {s : State} {t : TineNo} {n : Nat} (lat : Nat) (hentry : (tineAt s t).entry = some n)
    (howes : owesFault s t = false) (hawake : asleep s t = false)
    (hvalid : bit (memGet s (vectorPa s t (inWalled s t n) n)) 39 = true) (hue : ueAt s (vectorPa s t (inWalled s t n) n) = false) :
    ∃ g, exec (.handlerEntry t .ok .ok .ok lat) s =
      .next { commitEntry t n (getF (memGet s (vectorPa s t (inWalled s t n) n)) 0 14) (wd (tineAt s t).pc.toNat)
        (sstNow s t (tineAt s t).halfdone) (reg s (pgTine t) oLSTAT) s with gauges := g } := by
  have hstands : faultStands s t = false := (Bool.or_eq_false_iff.1 howes).1
  obtain ⟨g, hg⟩ := latencyGauge_eq t lat (commitEntry t n (getF (memGet s (vectorPa s t (inWalled s t n) n)) 0 14)
    (wd (tineAt s t).pc.toNat) (sstNow s t (tineAt s t).halfdone) (reg s (pgTine t) oLSTAT) s)
  refine ⟨g, congrArg Host.Outcome.next ?_⟩
  rw [entryCommit, hentry]
  dsimp only
  rw [hstands, if_neg Bool.false_ne_true, vectorRead_valid hvalid hue]
  dsimp only
  rw [hawake, if_neg Bool.false_ne_true, hg]

/-! ## RETX (R152) -/

/-- The count of retired instructions. -/
theorem retired_counted (t : Nat) (s : State) :
    reg (alive t (wrapF (pgTine t) oRETIRED 0 40 1 s)) (pgTine t) oRETIRED = reg s (pgTine t) oRETIRED + 1 := by
  rw [alive, reg_modTine, wrapF, setRegF, reg_setReg_same, setF_whole, regF]
  refine BitVec.eq_of_toNat_eq ?_
  simp [getF, wd]

/-- TST with the flags and the mode, world and level of a saved status. -/
def tstRestored (tst new : Word) : Word := setF (setF tst 20 4 (getF new 20 4)) 28 7 (getF new 28 7)

theorem fields_tstRestored (tst new : Word) : getF (tstRestored tst new) 30 5 = getF new 30 5 ∧
    bit (tstRestored tst new) 29 = bit new 29 ∧ bit (tstRestored tst new) 28 = bit new 28 ∧
    getF (tstRestored tst new) 20 4 = getF new 20 4 := by
  have hmode : ∀ i, 28 ≤ i → i < 28 + 7 → bit (tstRestored tst new) i = bit new i := fun i hlo hhi =>
    (bit_setF_getF ..).trans (if_pos ⟨hlo, hhi⟩)
  refine ⟨getF_setF_getF_within _ _ (by decide) (by decide), hmode 29 (by decide) (by decide), hmode 28 (by decide) (by decide), ?_⟩
  rw [tstRestored, getF_setF_ne _ _ (by decide), getF_setF_getF_within _ _ (by decide) (by decide)]

/-- A return brings back the PC, status and loop state of the save set, and changes no operands (R152). -/
theorem retxRestore_spec (t : TineNo) (k : Nat) (new : Word) (s : State) :
    let s' := retxRestore t k new s
    (tineAt s' t).pc.toNat = regF s (pgTine t) (oSPC k) 0 14 ∧
      reg s' (pgTine t) oTST = tstRestored (reg s (pgTine t) oTST) new ∧ reg s' (pgTine t) oLSTAT = reg s (pgTine t) (oSLS k) ∧
      (tineAt s' t).halfdone = bit new 35 ∧ reg s' (pgTine t) oRETIRED = reg s (pgTine t) oRETIRED + 1 ∧ OperandsKept t s s' := by
  intro s'
  let x1 := setReg (pgTine t) oTST (tstRestored (reg s (pgTine t) oTST) new) s
  let x2 := setReg (pgTine t) oLSTAT (reg s (pgTine t) (oSLS k)) x1
  let x3 := setReg (pgTine t) oCLOCHE 0 x2
  let x4 := alive t (wrapF (pgTine t) oRETIRED 0 40 1 x3)
  let x5 := modTine t (fun x => { x with
    pc := BitVec.ofNat 14 (regF s (pgTine t) (oSPC k) 0 14), flight := none, window := [], halfdone := bit new 35 }) x4
  have h1 : Side t [oTST] s x1 := side_setReg t oTST _ s (by decide)
  have h2 : Side t [oLSTAT] x1 x2 := side_setReg t oLSTAT _ x1 (by decide)
  have h3 : Side t [oCLOCHE] x2 x3 := side_setReg t oCLOCHE 0 x2 (by decide)
  have h4 : Side t [oRETIRED] x3 x4 := (side_setReg t oRETIRED _ x3 (by decide)).trans (side_alive t _)
  have h5 : Side t [] x4 x5 := side_modTine t _ x4 fun _ => ⟨rfl, rfl, rfl, rfl⟩
  have hend : Side t [oSCNT] x5 s' := (side_haltCheck t x5).trans (side_sieveUpdate t _)
  have h35 := h3.trans (h4.trans (h5.trans hend))
  have htine : (tineAt s' t).halfdone = (tineAt x5 t).halfdone := by
    obtain ⟨e, he⟩ := tineAt_sieveUpdate t (haltCheck t x5)
    have hheld : (tineAt (haltCheck t x5) t).halfdone = (tineAt x5 t).halfdone := by
      obtain ⟨d, hd⟩ | ⟨-, pr, hd⟩ := tineAt_haltCheck t x5
      · rw [hd]
      · rw [hd, haltedTine]
    exact (congrArg Tine.halfdone he).trans hheld
  refine ⟨?_, ?_, ?_, ?_, ?_, (h1.trans (h2.trans h35)).entering.operandsKept⟩
  · have hpc : (tineAt s' t).pc = (tineAt x5 t).pc := (pc_sieveUpdate ..).trans (pc_haltCheck ..)
    rw [hpc, tineAt_modTine_same, BitVec.toNat_ofNat]
    exact Nat.mod_eq_of_lt (getF_lt _ 0 14)
  · rw [(h2.trans h35).page oTST (by decide) (by decide)]
    exact reg_setReg_same ..
  · rw [h35.page oLSTAT (by decide) (by decide)]
    exact reg_setReg_same ..
  · rw [htine, tineAt_modTine_same]
  · rw [(h5.trans hend).page oRETIRED (by decide) (by decide), retired_counted,
      (h1.trans (h2.trans h3)).page oRETIRED (by decide) (by decide)]

/-- A supervisor returns to a lower level, and to the Walled world only from it, unless an input chains (R152–R154). -/
theorem exec_retx {s : State} {t : TineNo} (lat : Nat) (hready : Ready s t) (hsuper : tS s t = true) (hlvl : 0 < tLvl s t)
    (hlower : getF (reg s (pgTine t) (oSST (tLvl s t - 1))) 30 5 < tLvl s t)
    (hworld : bit (reg s (pgTine t) (oSST (tLvl s t - 1))) 29 = true → tW s t = true)
    (hbest : retxBest s t (reg s (pgTine t) (oSST (tLvl s t - 1))) = none) :
    exec (.retx t .ok .ok .ok lat) s = .next (retxRestore t (tLvl s t - 1) (reg s (pgTine t) (oSST (tLvl s t - 1))) s) := by
  refine congrArg Host.Outcome.next ((issue_ready hready _ _).trans ?_)
  have hchecked : ¬ (tLvl s t ≤ getF (reg s (pgTine t) (oSST (tLvl s t - 1))) 30 5 ∨
      (bit (reg s (pgTine t) (oSST (tLvl s t - 1))) 29 && !tW s t) = true) := by
    rintro (h | h)
    · omega
    · rw [Bool.and_eq_true] at h
      simp [hworld h.1] at h
  dsimp only
  rw [hsuper, if_neg (by decide), if_neg (by omega), if_neg hchecked, hbest]

/-! ## The statement -/

/-- Settles O19: an entry's parts and a return's parts by what each changes; what neither names is kept. -/
theorem handlerEntriesAndReturns : Obligations.HandlerEntriesAndReturns := by
  intro s t kept
  refine ⟨fun n v lat hentry howes hawake _ hv hvalid hue => ?entry, fun lat hready hsuper hlvl => ?retx⟩
  case entry =>
    subst hv
    obtain ⟨g, hexec⟩ := exec_handlerEntry lat hentry howes hawake hvalid hue
    obtain ⟨hentered, hpend, ⟨hspc, hsst, hsls⟩, ⟨hinput, hprio⟩, hkept⟩ := commitEntry_spec t n.isLt
      (getF (memGet s (vectorPa s t (inWalled s t n) n)) 0 14) (wd (tineAt s t).pc.toNat) (sstNow s t (tineAt s t).halfdone)
      (reg s (pgTine t) oLSTAT) s
    obtain ⟨hpc, hflags, -, hworld, hlevel, hloop⟩ := stateSaved_of_regs hspc hsst hsls
    refine ⟨_, hexec, ?_⟩
    generalize commitEntry t n _ _ _ _ s = x at hentered hpend hpc hflags hlevel hworld hloop hinput hprio hkept
    exact ⟨entered_gauges hentered g, hpend, hpc, hflags, hlevel, hworld, hloop, hinput, hprio, hkept⟩
  case retx =>
    intro k new hlower hworld hbest _
    obtain ⟨hpc, htst, hlstat, hhalf, hcount, hkept⟩ := retxRestore_spec t k new s
    obtain ⟨hlevel, hwalled, hsup, hflags⟩ := fields_tstRestored (reg s (pgTine t) oTST) new
    refine ⟨_, exec_retx lat hready hsuper hlvl hlower hworld hbest, hpc, ?_, ?_, ?_, ?_, hlstat, hhalf, hcount, hkept⟩
    · rw [tLvl, regF, htst, hlevel]
    · rw [tW, regB, htst, hwalled]
    · rw [tS, regB, htst, hsup]
    · rw [regF, htst, hflags]

end Sys2Proof.Machine
end

section
/-! SUPPORT. The page header (R138, R452–R456): the registers that a soft reset puts back, what PAGE_CTRL stores, and the statement
about the header commands. -/

namespace Sys2Proof.Machine

/-! ## The soft reset (R454) -/

/-- A register's word after a soft reset. -/
def srstWord (k : PageKind) (i off : Nat) (old : Word) : Word :=
  (old &&& ~~~(wd (srstMask k i off))) ||| (wd (regSpec k i off).rst &&& wd (srstMask k i off))

/-- A mask without bits leaves the word. -/
theorem srstWord_of_zero {k : PageKind} {i off : Nat} (h : wd (srstMask k i off) = 0) (old : Word) : srstWord k i off old = old :=
  word_ext fun b hb => by rw [srstWord, h, bit_merge _ _ _ hb]; simp [bit]

/-- PAGE_CTRL and PAGE_IRQ_RAW hold no W1C bits and no counters. -/
theorem srstMask_header (k : PageKind) (i : Nat) : srstMask k i 2 = 0 ∧ srstMask k i 4 = 0 := by
  simp [srstMask, regSpec, headerSpec, rsRw]

section
variable {k : PageKind} {i pg : Nat}

theorem reg_srstReg (s : State) {off p o : Nat} (hoff : off < 1024) (ho : o < 1024) : reg (srstReg k i pg off s) p o =
    if p = pg ∧ o = off then srstWord k i off (reg s pg off) else reg s p o := by
  unfold srstReg
  dsimp only
  by_cases hmask : wd (srstMask k i off) = 0
  · rw [if_pos hmask, srstWord_of_zero hmask]
    split
    · next h => rw [h.1, h.2]
    · rfl
  · rw [if_neg hmask]
    exact reg_setReg s _ ho hoff

/-- Each register that a list names once is put back once. -/
theorem reg_forAll_srstReg {l : List Nat} (hnodup : l.Nodup) (hl : ∀ off ∈ l, off < 1024) (s : State) {p o : Nat} (ho : o < 1024) :
    reg (forAll l (srstReg k i pg) s) p o = if p = pg ∧ o ∈ l then srstWord k i o (reg s pg o) else reg s p o := by
  induction l generalizing s with
  | nil => simp [forAll]
  | cons off l ih =>
    obtain ⟨hnotMem, hnodup⟩ := List.nodup_cons.1 hnodup
    obtain ⟨hoff, hl⟩ := List.forall_mem_cons.1 hl
    rw [forAll, ih hnodup hl, reg_srstReg s hoff ho, reg_srstReg s hoff ho]
    by_cases hpage : p = pg
    · subst hpage
      by_cases hsame : o = off
      · subst hsame
        simp [hnotMem]
      · simp [hsame]
    · simp [hpage]

theorem fields_forAll_srstReg (l : List Nat) (s : State) : ∃ r, forAll l (srstReg k i pg) s = { s with regs := r } := by
  induction l generalizing s with
  | nil => exact ⟨_, rfl⟩
  | cons off l ih =>
    obtain ⟨r, hr⟩ : ∃ r, srstReg k i pg off s = { s with regs := r } := by
      unfold srstReg
      dsimp only
      split <;> exact ⟨_, rfl⟩
    obtain ⟨r', hr'⟩ := ih (srstReg k i pg off s)
    exact ⟨r', by rw [forAll, hr', hr]⟩

/-- Between `s` and `s'` only what the Ethernet pages keep of their streams changed. -/
def OnlyStreams (s s' : State) : Prop := s' = { s with strms := s'.strms }

theorem OnlyStreams.refl (s : State) : OnlyStreams s s := rfl

theorem onlyStreams_setStrm (n : Nat) (x : Strm) (s : State) : OnlyStreams s (setStrm n x s) := rfl

theorem onlyStreams_forAll {f : Nat → State → State} (hf : ∀ j s, OnlyStreams s (f j s)) (l : List Nat) (s : State) :
    OnlyStreams s (forAll l f s) := by
  unfold OnlyStreams at *
  induction l generalizing s with
  | nil => rfl
  | cons j l ih => rw [forAll, ih, hf]

/-- The registers that a soft reset puts back; beside them it changes the counters of an Ethernet page's streams at most. -/
def srstRegs (k : PageKind) (i pg : Nat) (s : State) : State := forAll (List.range 1024) (srstReg k i pg) (setReg pg 4 0 s)

theorem onlyStreams_pageSrst (s : State) : OnlyStreams (srstRegs k i pg s) (pageSrst k i pg s) := by
  unfold pageSrst
  change OnlyStreams _ (if k = .eth then forAll (List.range 128) _ (srstRegs k i pg s) else srstRegs k i pg s)
  split
  · exact onlyStreams_forAll (fun _ _ => onlyStreams_setStrm ..) _ _
  · exact .refl _

theorem reg_srstRegs (s : State) {p o : Nat} (ho : o < 1024) : reg (srstRegs k i pg s) p o =
    if p = pg then srstWord k i o (if o = 4 then 0 else reg s pg o) else reg s p o := by
  rw [srstRegs, reg_forAll_srstReg List.nodup_range (fun off h => List.mem_range.1 h) _ ho, reg_setReg s 0 ho (by decide),
    reg_setReg s 0 ho (by decide)]
  by_cases hpage : p = pg <;> simp [hpage, ho]

section
variable {s x y : State} (h : OnlyStreams x y)
include h

theorem OnlyStreams.reg (p o : Nat) : reg y p o = reg x p o := by
  rw [show y = _ from h]
  rfl

theorem OnlyStreams.kept : y.mem = x.mem ∧ y.tines = x.tines := by
  rw [show y = _ from h]
  exact ⟨rfl, rfl⟩

end

theorem reg_pageSrst (s : State) {p o : Nat} (ho : o < 1024) : reg (pageSrst k i pg s) p o =
    if p = pg then srstWord k i o (if o = 4 then 0 else reg s pg o) else reg s p o :=
  ((onlyStreams_pageSrst s).reg p o).trans (reg_srstRegs s ho)

theorem kept_pageSrst (s : State) : (pageSrst k i pg s).mem = s.mem ∧ (pageSrst k i pg s).tines = s.tines := by
  obtain ⟨r, hr⟩ : ∃ r, srstRegs k i pg s = { setReg pg 4 0 s with regs := r } := fields_forAll_srstReg _ _
  obtain ⟨hmem, htines⟩ := (onlyStreams_pageSrst (k := k) (i := i) (pg := pg) s).kept
  rw [hmem, htines, hr]
  exact ⟨rfl, rfl⟩

theorem reg_pageSrst_ctrl (s : State) : reg (pageSrst k i pg s) pg 2 = reg s pg 2 := by
  rw [reg_pageSrst s (by decide), if_pos rfl, if_neg (by decide)]
  exact srstWord_of_zero (by rw [(srstMask_header k i).1]; rfl) _

theorem reg_pageSrst_raw (s : State) : reg (pageSrst k i pg s) pg 4 = 0 := by
  rw [reg_pageSrst s (by decide), if_pos rfl, if_pos rfl]
  exact srstWord_of_zero (by rw [(srstMask_header k i).2]; rfl) _

end

/-! ## PAGE_CTRL (R454, R455) -/

/-- The bits of PAGE_CTRL. -/
theorem bit_ctrlMask {b : Nat} (hb : b < 23) : bit (wd 0x7FFFFD) b = decide (b ≠ 1) := by
  revert b
  decide

theorem bit_ctrlNext (old v : Word) {b : Nat} (hb : b < 23) (hrst : b ≠ 1) : bit (ctrlNext old v) b =
    if b = 2 then bit old 2 || bit v 2
    else if 254 ≤ getF v 3 8 ∧ 3 ≤ b ∧ b < 11 then bit old b else bit v b := by
  have hmask : bit (v &&& wd 0x7FFFFD) b = bit v b := by
    have hand : bit (v &&& wd 0x7FFFFD) b = (bit v b && bit (wd 0x7FFFFD) b) := by simp [bit]
    rw [hand, bit_ctrlMask hb, decide_eq_true hrst, Bool.and_true]
  have hlock : bit (setB (v &&& wd 0x7FFFFD) 2 (bit old 2 || bit v 2)) b = if b = 2 then bit old 2 || bit v 2 else bit v b := by
    split
    · next h => rw [h, bit_setB_same _ _ (by decide)]
    · next h => rw [bit_setB_ne _ _ h, hmask]
  unfold ctrlNext
  dsimp only
  by_cases hres : 254 ≤ getF v 3 8
  · rw [if_pos hres, bit_setF_getF, hlock]
    by_cases hhop : 3 ≤ b ∧ b < 11
    · rw [if_pos hhop, if_neg (by omega), if_pos ⟨hres, hhop⟩]
    · rw [if_neg hhop, if_neg (show ¬ (254 ≤ getF v 3 8 ∧ 3 ≤ b ∧ b < 11) from fun h => hhop h.2)]
  · rw [if_neg hres, hlock, if_neg (show ¬ (254 ≤ getF v 3 8 ∧ 3 ≤ b ∧ b < 11) from fun h => hres h.1)]

/-- The fields of PAGE_CTRL after a write. -/
theorem fields_ctrlNext (old v : Word) : bit (ctrlNext old v) 0 = bit v 0 ∧ bit (ctrlNext old v) 2 = (bit old 2 || bit v 2) ∧
    (getF v 3 8 < 254 → getF (ctrlNext old v) 3 8 = getF v 3 8) ∧
    (254 ≤ getF v 3 8 → getF (ctrlNext old v) 3 8 = getF old 3 8) ∧ getF (ctrlNext old v) 11 12 = getF v 11 12 := by
  refine ⟨?_, ?_, fun h => getF_congr fun b hlo hhi => ?_, fun h => getF_congr fun b hlo hhi => ?_, getF_congr fun b hlo hhi => ?_⟩
  · rw [bit_ctrlNext _ _ (by decide) (by decide), if_neg (by decide), if_neg (by omega)]
  · rw [bit_ctrlNext _ _ (by decide) (by decide), if_pos rfl]
  · rw [bit_ctrlNext _ _ (by omega) (by omega), if_neg (by omega), if_neg (by omega)]
  · rw [bit_ctrlNext _ _ (by omega) (by omega), if_neg (by omega), if_pos (by omega)]
  · rw [bit_ctrlNext _ _ (by omega) (by omega), if_neg (by omega), if_neg (by omega)]

/-- The state in which PAGE_CTRL is stored: after the soft reset, where the write asks for one. -/
def ctrlBase (k : PageKind) (i pg : Nat) (v : Word) (s : State) : State := if bit v 1 then pageSrst k i pg s else s

section
variable {k : PageKind} {i pg : Nat} {v : Word} {s : State} {w : Who}

theorem reg_ctrlBase (s : State) : reg (ctrlBase k i pg v s) pg 2 = reg s pg 2 := by
  unfold ctrlBase
  split
  · exact reg_pageSrst_ctrl s
  · rfl

/-- Only a Walled writer's write takes effect (R454). -/
theorem pageCtrlWrite_open (hw : walledWriter s w = false) : pageCtrlWrite w k i pg v s = s := by
  unfold pageCtrlWrite
  rw [hw]
  rfl

theorem pageCtrlWrite_locked (hw : walledWriter s w = true) (hlock : pageLocked s pg = true) :
    pageCtrlWrite w k i pg v s = ctrlBase k i pg v s := by
  unfold pageCtrlWrite
  rw [hw, hlock]
  rfl

/-- A write that does not enable the page's interrupts delivers none. -/
theorem pageCtrlWrite_stores (hw : walledWriter s w = true) (hlock : pageLocked s pg = false)
    (hen : bit (reg s pg 2) 0 = true ∨ bit v 0 = false) :
    pageCtrlWrite w k i pg v s = setReg pg 2 (ctrlNext (reg s pg 2) v) (ctrlBase k i pg v s) := by
  have hno : (!bit (reg s pg 2) 0 && bit v 0) = false := by
    obtain h | h := hen <;> simp [h]
  have hold := reg_ctrlBase (k := k) (i := i) (pg := pg) (v := v) s
  unfold ctrlBase at hold ⊢
  unfold pageCtrlWrite
  rw [hw, hlock]
  dsimp only
  rw [hold, hno]
  rfl

/-- A write that leaves the enable as it stands: of the state that the soft reset leaves, PAGE_CTRL alone may change. -/
theorem onlyReg_pageCtrlWrite (hw : walledWriter s w = true) (hen : bit v 0 = bit (reg s pg 2) 0) :
    OnlyReg pg 2 (ctrlBase k i pg v s) (pageCtrlWrite w k i pg v s) := by
  cases hlock : pageLocked s pg with
  | true =>
    rw [pageCtrlWrite_locked hw hlock]
    exact ⟨rfl, fun _ _ _ _ => rfl⟩
  | false =>
    rw [pageCtrlWrite_stores hw hlock (by rw [hen]; exact Bool.eq_false_or_eq_true _)]
    exact onlyReg_setReg _ (by decide)

end

/-! ## The header commands -/

section
variable {k : PageKind} {i pg : Nat} {v : Word} {s : State} {w : Who}

/-- A write to the header of a page that its requester reaches. -/
theorem gatedWrite_header {off : Nat} (hpg : pageKind pg = some (k, i)) (hoff : off < 8) (hgate : regGate s w pg off = .ok) (v : Word) :
    gatedWrite w pg off v s = headerWrite w k i pg off v s := by
  rw [gatedWrite, gated_of_ok _ hgate, regWrite, if_neg (by omega), regWriteBase, hpg]
  exact if_pos hoff

/-- The bits of the defined interrupts (R453). -/
theorem bit_irqMask (n : Nat) {b : Nat} (hb : b < 40) (v : Word) : bit (v &&& wd (2 ^ n - 1)) b = (bit v b && decide (b < n)) := by
  have hand : bit (v &&& wd (2 ^ n - 1)) b = (bit v b && bit (wd (2 ^ n - 1)) b) := by simp [bit]
  rw [hand, bit_wd, Nat.testBit_two_pow_sub_one, decide_eq_true hb, Bool.true_and]

theorem exec_pageCtrlWrite {pg : Fin 512} (hpg : pageKind pg = some (k, i)) (hgate : regGate s w pg 2 = .ok) (v : Word) :
    exec (.pageCtrlWrite w pg v) s = .next (pageCtrlWrite w k i pg v s) :=
  congrArg Host.Outcome.next (gatedWrite_header hpg (by decide) hgate v)

theorem exec_pageLock {pg : Fin 512} (hpg : pageKind pg = some (k, i)) (hgate : regGate s w pg 2 = .ok) :
    exec (.pageLock w pg) s = .next (pageCtrlWrite w k i pg (setB (reg s pg 2) 2 true) s) :=
  exec_pageCtrlWrite hpg hgate _

theorem exec_pageSoftReset {pg : Fin 512} (hpg : pageKind pg = some (k, i)) (hgate : regGate s w pg 2 = .ok) :
    exec (.pageSoftReset w pg) s = .next (pageCtrlWrite w k i pg (setB (reg s pg 2) 1 true) s) :=
  exec_pageCtrlWrite hpg hgate _

/-- LOCK once set stays set, and setting it leaves EN and IHOP (R454). -/
theorem locked_pageCtrlWrite (hw : walledWriter s w = true) : let s' := pageCtrlWrite w k i pg (setB (reg s pg 2) 2 true) s
    pageLocked s' pg = true ∧ bit (reg s' pg 2) 0 = bit (reg s pg 2) 0 ∧ getF (reg s' pg 2) 3 8 = getF (reg s pg 2) 3 8 := by
  intro s'
  let v := setB (reg s pg 2) 2 true
  have hen : bit v 0 = bit (reg s pg 2) 0 := bit_setB_ne _ _ (by decide)
  have hhop : getF v 3 8 = getF (reg s pg 2) 3 8 := getF_setB_ne _ _ (by decide)
  cases hlock : pageLocked s pg with
  | true =>
    have hctrl : reg s' pg 2 = reg s pg 2 := by
      simp only [s']
      rw [pageCtrlWrite_locked hw hlock, reg_ctrlBase]
    rw [pageLocked, regB, hctrl]
    exact ⟨hlock, rfl, rfl⟩
  | false =>
    have hctrl : reg s' pg 2 = ctrlNext (reg s pg 2) v := by
      simp only [s']
      rw [pageCtrlWrite_stores hw hlock (by rw [bit_setB_ne _ _ (by decide)]; exact Bool.eq_false_or_eq_true _), reg_setReg_same]
    obtain ⟨hbit0, hbit2, htakes, hkeeps, -⟩ := fields_ctrlNext (reg s pg 2) v
    rw [pageLocked, regB, hctrl]
    refine ⟨?_, hbit0.trans hen, ?_⟩
    · rw [hbit2, bit_setB_same _ _ (by decide), Bool.or_true]
    · obtain h | h := Nat.lt_or_ge (getF v 3 8) 254
      · rw [htakes h, hhop]
      · exact hkeeps h

/-- A soft reset puts back the W1C bits and counters of the page, and clears RAW (R454). -/
theorem reset_pageCtrlWrite (hw : walledWriter s w = true) : let s' := pageCtrlWrite w k i pg (setB (reg s pg 2) 1 true) s
    reg s' pg 4 = 0 ∧ s'.mem = s.mem ∧ s'.tines = s.tines ∧
      (∀ o, 8 ≤ o → o < 1024 → reg s' pg o = srstWord k i o (reg s pg o)) ∧
      (∀ p o, o < 1024 → p ≠ pg → reg s' p o = reg s p o) := by
  intro s'
  have hbase : ctrlBase k i pg (setB (reg s pg 2) 1 true) s = pageSrst k i pg s := if_pos (bit_setB_same _ _ (by decide))
  obtain ⟨hfields, hregs⟩ : OnlyReg pg 2 (pageSrst k i pg s) s' :=
    hbase ▸ onlyReg_pageCtrlWrite hw (bit_setB_ne _ _ (by decide))
  obtain ⟨hmem, htines⟩ := kept_pageSrst (k := k) (i := i) (pg := pg) s
  refine ⟨?_, (congrArg State.mem hfields).trans hmem, (congrArg State.tines hfields).trans htines, fun o hlo hhi => ?_,
    fun p o ho hp => ?_⟩
  · rw [hregs _ _ (by decide) (.inr (by decide)), reg_pageSrst_raw]
  · rw [hregs _ _ hhi (.inr (by omega)), reg_pageSrst s hhi, if_pos rfl, if_neg (by omega)]
  · rw [hregs _ _ ho (.inl hp), reg_pageSrst s ho, if_neg hp]

theorem exec_pageIrqClr {pg : Fin 512} (hpg : pageKind pg = some (k, i)) (hgate : regGate s w pg 6 = .ok) (v : Word) :
    exec (.pageIrqClr w pg v) s = .next (pageIrqClrWrite k pg v s) :=
  congrArg Host.Outcome.next (gatedWrite_header hpg (by decide) hgate v)

/-- With EN = 0, or P nonzero before, the write of PAGE_IRQ_EN delivers nothing (R455). -/
theorem exec_pageIrqEnWrite {pg : Fin 512} (hpg : pageKind pg = some (k, i)) (hgate : regGate s w pg 5 = .ok)
    (hnurs : k = .nurs → walledWriter s w = true) (hquiet : regB s pg 2 0 = false ∨ pageP s pg ≠ 0) (v : Word) :
    exec (.pageIrqEnWrite w pg v) s = .next (setReg pg 5 (v &&& wd (2 ^ pageNirq k - 1)) s) := by
  refine congrArg Host.Outcome.next ((gatedWrite_header hpg (by decide) hgate v).trans ?_)
  have hmay : ¬ (k = .nurs ∧ (!walledWriter s w) = true) := fun h => by
    rw [hnurs h.1] at h
    exact Bool.false_ne_true h.2
  have hen : regB (setReg pg 5 (v &&& wd (2 ^ pageNirq k - 1)) s) pg 2 0 = regB s pg 2 0 := by
    rw [regB, reg_setReg_off _ _ (by decide)]
    rfl
  show (if k = .nurs ∧ (!walledWriter s w) = true then s else pageIrqEnWrite k pg v s) = _
  rw [if_neg hmay, pageIrqEnWrite, hen, if_neg]
  rintro ⟨hzero, -, hset⟩
  obtain h | h := hquiet
  · rw [h] at hset
    exact Bool.false_ne_true hset
  · exact h hzero

theorem exec_pageOwnerWrite {pg : Fin 512} (hpg : pageKind pg = some (k, i)) (hgate : regGate s w pg 7 = .ok) (x : Bool) :
    exec (.pageOwnerWrite w pg x) s = .next (pageOwnerWrite w k pg (wd (b2n x)) s) :=
  congrArg Host.Outcome.next (gatedWrite_header hpg (by decide) hgate _)

end

/-- Settles O24: each command is the header's own write; those of PAGE_CTRL go by who writes and whether LOCK is set. -/
theorem pageHeaders : Obligations.PageHeaders := by
  intro s w pg v k i hpg n onlyAt
  refine ⟨fun hgate hw hlock hnorst hen => ?stored, fun hgate hw hlock hnorst => ?locked,
    fun hw hgate => ⟨s, (exec_pageCtrlWrite hpg hgate v).trans (congrArg _ (pageCtrlWrite_open hw)), rfl⟩,
    fun hw hgate => ⟨⟨s, (exec_pageLock hpg hgate).trans (congrArg _ (pageCtrlWrite_open hw)), rfl⟩,
      ⟨s, (exec_pageSoftReset hpg hgate).trans (congrArg _ (pageCtrlWrite_open hw)), rfl⟩⟩,
    fun hgate hw => ⟨_, exec_pageLock hpg hgate, locked_pageCtrlWrite hw⟩,
    fun hgate hw => ⟨_, exec_pageSoftReset hpg hgate, reset_pageCtrlWrite hw⟩,
    fun hgate => ⟨_, exec_pageIrqClr hpg hgate v, onlyReg_setReg _ (by decide), fun b hb => ?cleared⟩,
    fun hgate hnurs hquiet => ⟨_, exec_pageIrqEnWrite hpg hgate hnurs hquiet v, onlyReg_setReg _ (by decide), fun b hb => ?enabled⟩,
    fun x hgate => ⟨_, exec_pageOwnerWrite hpg hgate x, ?owner⟩⟩
  case stored =>
    have hbase : ctrlBase k i pg v s = s := if_neg (by rw [hnorst]; exact Bool.false_ne_true)
    obtain ⟨hbit0, hbit2, hhop, hhopKept, hirq⟩ := fields_ctrlNext (reg s pg 2) v
    have hstores : pageCtrlWrite w k i pg v s = setReg pg 2 (ctrlNext (reg s pg 2) v) s := by
      rw [pageCtrlWrite_stores hw hlock hen, hbase]
    refine ⟨_, (exec_pageCtrlWrite hpg hgate v).trans (congrArg _ hstores), onlyReg_setReg _ (by decide), ?_⟩
    rw [reg_setReg_same]
    refine ⟨hbit0, hbit2.trans ?_, hhop, hhopKept, hirq⟩
    rw [show bit (reg s pg 2) 2 = false from hlock, Bool.false_or]
  case locked =>
    have hbase : ctrlBase k i pg v s = s := if_neg (by rw [hnorst]; exact Bool.false_ne_true)
    exact ⟨s, (exec_pageCtrlWrite hpg hgate v).trans (congrArg _ ((pageCtrlWrite_locked hw hlock).trans hbase)), rfl⟩
  case cleared =>
    rw [pageIrqClrWrite, reg_setReg_same, bit_and_not _ _ hb, bit_irqMask _ hb]
  case enabled => rw [reg_setReg_same, bit_irqMask _ hb]
  case owner =>
    unfold pageOwnerWrite
    split
    · refine ⟨onlyReg_setReg _ (by decide), (regB_setRegB_same s _ (by decide)).trans ?_⟩
      cases x <;> rfl
    · rfl

end Sys2Proof.Machine
end

section
/-! SUPPORT. Translation caches (R196, R200): what an invalidation leaves of a cache, how the writes of XCFG, XINV, TINV and SHOOT
come to one, and the statement about them. -/

namespace Sys2Proof.Machine

/-! ## One change after another -/

section
variable {f : Nat → State → State}

/-- What each change of a list keeps, the list keeps. -/
theorem forAll_preserves {P : State → Prop} {l : List Nat} (hf : ∀ t ∈ l, ∀ x, P x → P (f t x)) {s : State} (hs : P s) :
    P (forAll l f s) := by
  induction l generalizing s with
  | nil => exact hs
  | cons t l ih =>
    obtain ⟨hhead, htail⟩ := List.forall_mem_cons.1 hf
    exact ih htail (hhead s hs)

/-- Changes that each reach one tine: a tine that the list names once comes out as its own change alone makes it. -/
theorem tineAt_forAll_of_mem {R : Tine → Tine → Prop} (hown : ∀ t x, R (tineAt x t) (tineAt (f t x) t))
    (hother : ∀ t u x, u ≠ t → tineAt (f t x) u = tineAt x u) {l : List Nat} (hnodup : l.Nodup) {u : Nat} (hu : u ∈ l) (s : State) :
    R (tineAt s u) (tineAt (forAll l f s) u) := by
  induction l generalizing s with
  | nil => cases hu
  | cons t l ih =>
    obtain ⟨hnotMem, hnodup⟩ := List.nodup_cons.1 hnodup
    rw [forAll]
    by_cases hsame : u = t
    · subst hsame
      have hrest : tineAt (forAll l f (f u s)) u = tineAt (f u s) u :=
        forAll_preserves (P := fun x => tineAt x u = tineAt (f u s) u)
          (fun t ht x hx => (hother t u x (fun h => hnotMem (h ▸ ht))).trans hx) rfl
      rw [hrest]
      exact hown u s
    · have hrest := ih hnodup (List.mem_of_ne_of_mem hsame hu) (f t s)
      rwa [hother t u s hsame] at hrest

end

/-! ## The word of an invalidation -/

section
variable (all : Bool) (va : BitVec 20)

theorem go_invWord : bit (invWord all va) 39 = true := by
  have hva := va.isLt
  rw [invWord, bit_wd, Nat.testBit_eq_decide_div_mod_eq]
  cases all <;> simp only [b2n] <;> simp <;> omega

theorem all_invWord : bit (invWord all va) 38 = all := by
  have hva := va.isLt
  rw [invWord, bit_wd, Nat.testBit_eq_decide_div_mod_eq]
  cases all <;> simp only [b2n] <;> simp <;> omega

theorem page_invWord : getF (invWord all va) 12 20 = va.toNat := by
  have hva := va.isLt
  rw [invWord, getF_wd _ _ _ (by decide)]
  cases all <;> simp only [b2n] <;> simp <;> omega

end

/-! ## Caches of tines -/

/-- Of the tines only `t` changed, and of it only its cache, to `c`. -/
def CacheIs (t : Nat) (c : List XLeaf) (s s' : State) : Prop :=
  tineAt s' t = { tineAt s t with xcache := c } ∧ ∀ u, u ≠ t → tineAt s' u = tineAt s u

theorem cacheIs_tineInval (t : Nat) (all : Bool) (page : Nat) (s : State) :
    CacheIs t (cacheKeep all page (tineAt s t).xcache) s (tineInval t all page s) :=
  ⟨tineAt_modTine_same .., fun _ hu => tineAt_modTine_ne s _ hu⟩

/-- Invalidations of the tines that a list names change caches of tines only. -/
theorem fields_forAll_tineInval (all : Bool) (page : Nat) (l : List Nat) (s : State) :
    let s' := forAll l (fun t x => tineInval t all page x) s
    s' = { s with tines := s'.tines } :=
  forAll_preserves (P := fun x => x = { s with tines := x.tines })
    (fun t _ x hx => show tineInval t all page x = { s with tines := (tineInval t all page x).tines } by
      conv_lhs => rw [hx]
      rfl) rfl

theorem xcache_forAll_tineInval (all : Bool) (page : Nat) {l : List Nat} (hnodup : l.Nodup) {u : Nat} (hu : u ∈ l) (s : State) :
    tineAt (forAll l (fun t x => tineInval t all page x) s) u =
      { tineAt s u with xcache := cacheKeep all page (tineAt s u).xcache } :=
  tineAt_forAll_of_mem (R := fun a b => b = { a with xcache := cacheKeep all page a.xcache })
    (fun t x => (cacheIs_tineInval t all page x).1) (fun t u x hu => (cacheIs_tineInval t all page x).2 u hu) hnodup hu s

/-! ## The writes -/

section
variable {s : State} {w : Who} {t : TineNo}

/-- A write by the memory path of a tine's register outside the registers of its worlds. -/
theorem gatedWrite_tine {off : Nat} (hlo : 0x10 ≤ off) (hhi : off < 0x280) (hgate : regGate s w (pgTine t) off = .ok) (v : Word) :
    gatedWrite w (pgTine t) off v s = tineRegWrite w t off v s := by
  have hboot : pgTine t ≠ pgBoot := by unfold pgTine pgBoot; omega
  have hworld : isWorldReg off = false := by simp [isWorldReg, hhi]
  rw [gatedWrite, gated_of_ok _ hgate, regWrite, if_neg (fun h => hboot h.1), regWriteBase, pageKind_tine t]
  dsimp only
  rw [if_neg (by omega), if_neg (by omega), tinePageWrite, hworld]
  rfl

/-- The owner of the page asks a Walled writer of it (R200). -/
def MayInvalidate (s : State) (w : Who) (t : TineNo) : Prop := regB s (pgTine t) 7 0 = true → walledWriter s w = true

theorem not_refused (hmay : MayInvalidate s w t) : ¬ (regB s (pgTine t) 7 0 && !walledWriter s w) = true := by
  intro h
  rw [Bool.and_eq_true] at h
  rw [hmay h.1] at h
  exact Bool.false_ne_true h.2

theorem tineRegWrite_xcfg (hmay : MayInvalidate s w t) (v : Word) : tineRegWrite w t oXCFG v s = xcfgWrite t v s :=
  if_neg (not_refused hmay)

theorem tineRegWrite_xinv (hmay : MayInvalidate s w t) (v : Word) : tineRegWrite w t oXINV v s = xinvWrite t v s :=
  if_neg (not_refused hmay)

theorem xinvWrite_invWord (t : Nat) (all : Bool) (va : BitVec 20) (s : State) :
    xinvWrite t (invWord all va) s = tineInval t all va.toNat s := by
  rw [xinvWrite, if_pos (go_invWord all va), all_invWord, page_invWord]

theorem exec_tineXcfgWrite (hgate : regGate s w (pgTine t) oXCFG = .ok) (hmay : MayInvalidate s w t) (v : Word) :
    exec (.tineXcfgWrite w t v) s = .next (xcfgWrite t v s) :=
  congrArg Host.Outcome.next ((gatedWrite_tine (by decide) (by decide) hgate v).trans (tineRegWrite_xcfg hmay v))

theorem exec_xinv (hgate : regGate s w (pgTine t) oXINV = .ok) (hmay : MayInvalidate s w t) (all : Bool) (va : BitVec 20) :
    exec (.xinv w t all va) s = .next (tineInval t all va.toNat s) :=
  congrArg Host.Outcome.next ((gatedWrite_tine (by decide) (by decide) hgate _).trans
    ((tineRegWrite_xinv hmay _).trans (xinvWrite_invWord t all va s)))

end

section
variable {s : State} {w : Who} (all : Bool) (va : BitVec 20)

theorem gatedWrite_xlat {off : Nat} (hlo : 0x10 ≤ off) (hgate : regGate s w pgXlat off = .ok) (v : Word) :
    gatedWrite w pgXlat off v s = xlatWrite off v s := by
  rw [gatedWrite, gated_of_ok _ hgate, regWrite, if_neg (fun h => absurd h.1 (by decide)), regWriteBase,
    show pageKind pgXlat = some (.xlat, 0) from rfl]
  dsimp only
  rw [if_neg (by omega), if_neg (by omega)]

theorem exec_tinv (hgate : regGate s w pgXlat 0x011 = .ok) :
    exec (.tinv w all va) s = .next { s with xcache := cacheKeep all va.toNat s.xcache } := by
  refine congrArg Host.Outcome.next ((gatedWrite_xlat (by decide) hgate _).trans ?_)
  simp only [xlatWrite, go_invWord, all_invWord, page_invWord, if_true]

/-- XLAT_SHOOT while a shootdown is under way. -/
def shootWord : Word := setB (invWord all va &&& wd 0x40FFFFF000) 0 true

theorem exec_shoot (hgate : regGate s w pgXlat 0x012 = .ok) (hidle : regB s pgXlat 0x012 0 = false) :
    exec (.shoot w all va) s = .next (setReg pgXlat 0x012 (shootWord all va) s) := by
  refine congrArg Host.Outcome.next ((gatedWrite_xlat (by decide) hgate _).trans ?_)
  simp only [xlatWrite, shootWrite, go_invWord, hidle, Bool.not_false, Bool.and_self, if_true]
  rfl

theorem busy_shootWord : bit (shootWord all va) 0 = true := bit_setB_same _ true (by decide)

/-- The mask that XLAT_SHOOT stores holds ALL and VA_PAGE. -/
theorem bit_shootWord {i : Nat} (hi : i = 38 ∨ 12 ≤ i ∧ i < 32) : bit (shootWord all va) i = bit (invWord all va) i := by
  have hmask : ∀ i < 40, (i = 38 ∨ 12 ≤ i ∧ i < 32) → bit (wd 0x40FFFFF000) i = true := by decide
  rw [shootWord, bit_setB_ne _ true (by omega)]
  have hand : bit (invWord all va &&& wd 0x40FFFFF000) i = (bit (invWord all va) i && bit (wd 0x40FFFFF000) i) := by simp [bit]
  rw [hand, hmask i (by omega) hi, Bool.and_true]

theorem all_shootWord : bit (shootWord all va) 38 = all := (bit_shootWord all va (.inl rfl)).trans (all_invWord all va)

theorem page_shootWord : getF (shootWord all va) 12 20 = va.toNat :=
  (getF_congr fun _ hlo hhi => bit_shootWord all va (.inr ⟨hlo, by omega⟩)).trans (page_invWord all va)

/-- Once the tines' caches have applied a shootdown, the Trellis' cache applies it and XLAT_SHOOT reads 0. -/
def shot (y : State) : State := setReg pgXlat 0x012 0 { y with xcache := cacheKeep all va.toNat y.xcache }

theorem shootDone_of_shootWord (hword : reg s pgXlat 0x012 = shootWord all va) :
    shootDone s = shot all va (forAll (List.range 144) (fun t x => tineInval t all va.toNat x) s) := by
  unfold shootDone
  dsimp only
  rw [hword, if_pos (busy_shootWord all va), all_shootWord, page_shootWord]
  rfl

/-- The caches and the rest of the device after a shootdown whose invalidations of tines made `y` of `s1`. -/
theorem caches_shot {s s1 y : State} (hs1 : s1 = { s with regs := s1.regs }) (hy : y = { s1 with tines := y.tines })
    (htines : ∀ u, u < 144 → tineAt y u = { tineAt s1 u with xcache := cacheKeep all va.toNat (tineAt s1 u).xcache }) :
    let s' := shot all va y
    regB s' pgXlat 0x012 0 = false ∧ s'.xcache = cacheKeep all va.toNat s.xcache ∧
      (∀ u, u < 144 → tineAt s' u = { tineAt s u with xcache := cacheKeep all va.toNat (tineAt s u).xcache }) ∧
      s' = { s with tines := s'.tines, regs := s'.regs, xcache := s'.xcache } := by
  have htine : ∀ u, tineAt s1 u = tineAt s u := fun u => by rw [hs1]; rfl
  refine ⟨?_, ?_, fun u hu => (htines u hu).trans (by rw [htine]), ?_⟩
  · rw [regB, shot, reg_setReg_same]
    rfl
  · rw [hy, hs1]
    rfl
  · rw [hy, hs1]
    rfl

end

/-! ## The statement -/

/-- Settles O25: each write comes to `cacheKeep` of the caches it names, and a shootdown's word holds what its end applies. -/
theorem translationCaches : Obligations.TranslationCaches := by
  refine ⟨fun s w t v hgate hmay => ⟨_, exec_tineXcfgWrite hgate hmay v, ?xcfg⟩, ?invalidations⟩
  case xcfg =>
    let s1 := setReg (pgTine t) oXCFG (v &&& wd 0x3FFFFC001) s
    obtain ⟨hcache, hothers⟩ := cacheIs_tineInval t true 0 s1
    exact ⟨reg_setReg_same .., hcache, hothers, rfl, (onlyReg_setReg _ (by decide)).2⟩
  case invalidations =>
    intro s w t all va keep
    refine ⟨fun hgate hmay => ⟨_, exec_xinv hgate hmay all va, rfl, cacheIs_tineInval t all va.toNat s⟩,
      fun hgate => ⟨_, exec_tinv all va hgate, rfl⟩,
      fun hgate hidle => ⟨_, exec_shoot all va hgate hidle, ?busy, rfl, ?shot⟩⟩
    case busy =>
      rw [regB, reg_setReg_same]
      exact busy_shootWord all va
    case shot =>
      let s1 := setReg pgXlat 0x012 (shootWord all va) s
      have hdone := shootDone_of_shootWord all va (s := s1) (reg_setReg_same ..)
      exact ⟨_, congrArg Host.Outcome.next hdone, caches_shot all va (s1 := s1) rfl
        (fields_forAll_tineInval all va.toNat (List.range 144) s1) fun u hu =>
          xcache_forAll_tineInval all va.toNat List.nodup_range (List.mem_range.2 hu) s1⟩

end Sys2Proof.Machine
end

section
/-! SUPPORT. The walks of the Weeder and the upkeep of DRAM (R185, R198, R199): a step of the Shed walk over clean words, and the
statement about the commands. -/

namespace Sys2Proof.Machine

/-! ## The walk of Shed -/

section
variable {s : State}

theorem weedRead_of_clean (hclean : s.ue = []) (pa : Nat) : weedRead pa .ok s = s := by
  have hmark : ueAt s pa = false := by rw [ueAt, hclean]; rfl
  unfold weedRead
  rw [if_neg (by simp [hmark])]

variable (ha : domSt s domShda = .run) (hb : domSt s domShdb = .run)
include ha hb

theorem weedUp_shed (pos : Nat) : weedUp s 1 pos = true := by
  show domUp s (if pos < 0x200000 then domShda else domShdb) = true
  split
  · simp [domUp, ha]
  · simp [domUp, hb]

/-- Within Shed the walk skips nothing. -/
theorem weedSeek_shed {pos : Nat} (hpos : pos < 0x400000) (fuel passes : Nat) :
    weedSeek (fuel + 1) s 1 pos passes = some (pos, passes) := by
  have hrange : ¬ weedRange s 1 ≤ pos := Nat.not_le.2 hpos
  rw [weedSeek, if_neg hrange, if_pos (weedUp_shed ha hb pos)]

/-- A burst that stays within Shed reads one word after the other. -/
theorem weedPlaces_shed (hclean : s.ue = []) {n pos : Nat} (hend : pos + n ≤ 0x400000) (passes : Nat) :
    weedPlaces n 1 pos passes [] s = (pos + n, passes, s) := by
  induction n generalizing pos with
  | zero => rfl
  | succ n ih =>
    have hread : forAll ((weedPas 1 pos).zip ([] ++ List.replicate (weedPas 1 pos).length .ok)) (fun e x => weedRead e.1 e.2 x) s = s :=
      weedRead_of_clean hclean _
    rw [weedPlaces, weedSeek_shed ha hb (by omega)]
    dsimp only
    rw [hread, List.drop_nil, ih (by omega), Nat.add_right_comm]
    rfl

end

/-- The progress register of a walk. -/
def walkWord (pos passes : Nat) : Word := wd (pos * 2 ^ 14 + passes)

theorem fields_walkWord {pos passes : Nat} (hpos : pos < 2 ^ 26) (hpasses : passes < 2 ^ 14) :
    getF (walkWord pos passes) 14 26 = pos ∧ getF (walkWord pos passes) 0 14 = passes := by
  unfold walkWord
  rw [getF_wd _ _ _ (by decide), getF_wd _ _ _ (by decide)]
  constructor <;> omega

/-- The tick at which the walk of Shed is due again is set. -/
def walkDue (at' : Nat) (s : State) : State :=
  { s with memCtl := { s.memCtl with walk := Tbl.set (fun _ => 0) s.memCtl.walk 1 at' } }

/-- A due step of the walk of Shed on clean words moves its position by its burst. -/
theorem weedStep_shed {s : State} (hclean : s.ue = []) (ha : domSt s domShda = .run) (hb : domSt s domShdb = .run)
    (hen : regB s pgShed 0x013 0 = true) (hdue : Tbl.get (fun _ => 0) s.memCtl.walk 1 ≤ s.now)
    (hend : regF s pgShed 0x015 14 26 + (regF s pgShed 0x013 1 4 + 1) < 0x400000) :
    weedStep 1 [] s =
      setReg pgShed 0x015 (walkWord (regF s pgShed 0x015 14 26 + (regF s pgShed 0x013 1 4 + 1)) (regF s pgShed 0x015 0 14))
        (walkDue (s.now + max 1 (regF s pgShed 0x013 5 10)) s) := by
  have hgo : ¬ ((!bit (reg s pgShed 0x013) 0) = true ∨ s.now < Tbl.get (fun _ => 0) s.memCtl.walk 1) := by
    rw [show bit (reg s pgShed 0x013) 0 = true from hen]
    simpa using hdue
  have hwrap : ¬ weedRange s 1 ≤ regF s pgShed 0x015 14 26 + (regF s pgShed 0x013 1 4 + 1) := Nat.not_le.2 hend
  have hpasses := getF_lt (reg s pgShed 0x015) 0 14
  have hplaces : weedPlaces (getF (reg s pgShed 0x013) 1 4 + 1) 1 (getF (reg s pgShed 0x015) 14 26) (getF (reg s pgShed 0x015) 0 14) [] s =
      (regF s pgShed 0x015 14 26 + (regF s pgShed 0x013 1 4 + 1), getF (reg s pgShed 0x015) 0 14, s) :=
    weedPlaces_shed ha hb hclean (Nat.le_of_lt hend) _
  unfold weedStep
  simp only [weedRegs]
  rw [if_neg hgo, hplaces]
  dsimp only
  rw [if_neg hwrap, decide_eq_false hwrap, show min 0x3FFF (getF (reg s pgShed 0x015) 0 14 + b2n false) = regF s pgShed 0x015 0 14 from
    Nat.min_eq_right (Nat.le_of_lt_succ hpasses)]
  rfl

/-! ## The statement -/

theorem dramLive_of_run {s : State} (hfit : regF s pgDram 0x010 0 2 ≠ 0) (hlink : domSt s domLink = .run) : dramLive s = true := by
  simp [dramLive, domUp, hfit, hlink]

/-- Settles O26: clean words leave the state to the walk's own registers, and each DRAM command asks for a live controller. -/
theorem memoryUpkeep : Obligations.MemoryUpkeep := by
  refine ⟨fun s hclean ha hb hen hdue hend => ?walk, fun s hfit hlink => ?dram⟩
  case walk =>
    have hexec : execWeederStep 1 [] s = .next (weedStep 1 [] s) := congrArg Host.Outcome.next (if_neg (by simp))
    obtain ⟨hpos, hpasses⟩ := fields_walkWord (pos := regF s pgShed 0x015 14 26 + (regF s pgShed 0x013 1 4 + 1))
      (passes := regF s pgShed 0x015 0 14) (by omega) (getF_lt _ _ _)
    refine ⟨_, hexec.trans (congrArg _ (weedStep_shed hclean ha hb hen hdue hend)), ?_, ?_, rfl, Tbl.get_set_same ..,
      (onlyReg_setReg _ (by decide)).2⟩
    · rw [regF, reg_setReg_same]
      exact hpos
    · rw [regF, reg_setReg_same]
      exact hpasses
  case dram =>
    have hlive := dramLive_of_run hfit hlink
    exact ⟨fun m hnow => ⟨_, congrArg Host.Outcome.next (if_pos ⟨hlive, hnow⟩), rfl⟩,
      fun o hnow => ⟨_, congrArg Host.Outcome.next (if_pos ⟨hlive, hnow⟩), rfl⟩,
      ⟨_, congrArg Host.Outcome.next (if_pos hlive), rfl⟩⟩

end Sys2Proof.Machine
end

section
/-! SUPPORT. Run requests (R391–R393, R396): what the abort of a stop, a request for one domain and the start of a restore do to the
domains and to those wanted, and that a request asks for every domain it names. -/

namespace Sys2Proof.Machine

/-! ## What the ends of commands and events leave alone -/

/-- The domains, the sequencer and the debug requests that wait are as they were. -/
structure SamePower (s s' : State) : Prop where
  dom : s'.dom = s.dom
  pwr : s'.pwr = s.pwr
  held : s'.dbgHeld = s.dbgHeld

section
variable {s x y : State}

theorem SamePower.refl (s : State) : SamePower s s := ⟨rfl, rfl, rfl⟩

theorem SamePower.trans (h : SamePower s x) (k : SamePower x y) : SamePower s y :=
  ⟨k.dom.trans h.dom, k.pwr.trans h.pwr, k.held.trans h.held⟩

theorem SamePower.domSt (h : SamePower s x) (d : Nat) : domSt x d = domSt s d := by rw [Machine.domSt, h.dom]; rfl

theorem SamePower.modPwr (h : SamePower s x) (f : Pwr → Pwr) : SamePower (modPwr f s) (Machine.modPwr f x) :=
  ⟨h.dom, congrArg f h.pwr, h.held⟩

theorem samePower_powerEvent (k : Nat) (s : State) : SamePower s (powerEvent k s) := by
  have hfields := (powerEvent_arrivals s k).fields
  exact ⟨by rw [hfields], by rw [hfields], by rw [hfields]⟩

theorem samePower_pwrEnd (entry : Option Nat) (opc status result : Nat) (s : State) : SamePower s (pwrEnd entry opc status result s) := by
  obtain ⟨q, hend⟩ := adminEnd_eq s entry opc status result
  refine SamePower.trans ?_ (samePower_powerEvent 0 _)
  rw [hend]
  exact ⟨rfl, rfl, rfl⟩

end

/-! ## Aborts (R391) -/

/-- With no other stop command waiting an abort leaves the sequencer without one, and the domains alone. -/
theorem samePower_cmdAbort {s : State} (hq : s.pwr.cmdQ = []) (r : Refuser) (c : PwrCmd) :
    SamePower (modPwr (fun x => { x with stopping := none, cmd := none, cmdQ := [] }) s) (cmdAbort r c s) := by
  let x := bumpF pgPwr 0x014 12 12 1 (refuseRec r true (modPwr (fun x => { x with stopping := none, cmd := none }) s))
  have hevent : SamePower x (powerEvent 3 x) := samePower_powerEvent 3 x
  have hends : ∀ y, SamePower x y → SamePower (modPwr (fun x => { x with stopping := none, cmd := none, cmdQ := [] }) s)
      (modPwr (fun x => { x with cmd := none, cmdQ := [] }) y) := fun y hy =>
    SamePower.trans (x := modPwr (fun x => { x with cmd := none, cmdQ := [] }) x) ⟨rfl, rfl, rfl⟩ (hy.modPwr _)
  unfold cmdAbort
  dsimp only
  rw [hq, stopRun]
  split
  · exact hends _ hevent
  · exact hends _ (hevent.trans (samePower_pwrEnd ..))

/-! ## Requests, domain by domain (R392, R393) -/

/-- The domains `ds` have been asked for: one that was stopping before its commit point runs again, and one in or past Stop is
wanted; a state whose sequencer agrees with its domains still does. -/
structure Asked (ds : List Nat) (s x : State) : Prop where
  agree : StopsAgree x
  doms : ∀ e, domSt x e = if e ∈ ds ∧ domSt s e = .stopping then .run else domSt s e
  wanted : ∀ e ∈ ds, domSt s e = .stop ∨ domSt s e = .closing → e ∈ x.pwr.want
  more : ∀ e ∈ s.pwr.want, e ∈ x.pwr.want
  held : x.dbgHeld = s.dbgHeld

theorem mem_insSorted {l : List Nat} {a b : Nat} : b ∈ insSorted l a ↔ b = a ∨ b ∈ l := by
  induction l with
  | nil => simp [insSorted]
  | cons c l ih =>
    unfold insSorted
    split
    · simp
    · split
      · next h => simp [h]
      · simp [ih, or_left_comm]

section
variable {s x y : State}

theorem Asked.trans {ds es : List Nat} (h : Asked ds s x) (k : Asked es x y) : Asked (ds ++ es) s y where
  agree := k.agree
  doms e := by
    rw [k.doms, h.doms]
    by_cases hd : e ∈ ds <;> by_cases he : e ∈ es <;> by_cases hs : domSt s e = .stopping <;> simp [hd, he, hs]
  wanted e he hstop := by
    obtain hd | he := List.mem_append.1 he
    · exact k.more e (h.wanted e hd hstop)
    · refine k.wanted e he ?_
      rw [h.doms, if_neg (by rintro ⟨-, hs⟩; rw [hs] at hstop; simp at hstop)]
      exact hstop
  more e he := k.more e (h.more e he)
  held := k.held.trans h.held

/-- Nothing is asked for, and no stopping domain has been left behind. -/
theorem asked_nil (hagree : StopsAgree x) (hdom : ∀ e, domSt x e = domSt s e) (hwant : x.pwr.want = s.pwr.want)
    (hheld : x.dbgHeld = s.dbgHeld) : Asked [] s x :=
  ⟨hagree, fun e => by simp [hdom], by simp, fun e he => hwant ▸ he, hheld⟩

theorem asked_cmdAbort {c : PwrCmd} (r : Refuser) (hq : s.pwr.cmdQ = []) (hnone : ∀ e, domSt s e ≠ .stopping) :
    Asked [] s (cmdAbort r c s) := by
  have hsame := samePower_cmdAbort hq r c
  have hdom : ∀ e, domSt (cmdAbort r c s) e = domSt s e := hsame.domSt
  exact asked_nil ⟨fun e he => absurd ((hdom e).symm.trans he) (hnone e), by rw [hsame.pwr]; rfl⟩ hdom
    (by rw [hsame.pwr]; rfl) hsame.held

/-- A device Stop that waits for LINK is taken away while no domain is stopping. -/
theorem asked_linkStays (hagree : StopsAgree s) (src : Nat) : Asked [] s (linkStays src s) := by
  have hsame : Asked [] s s := asked_nil hagree (fun _ => rfl) rfl rfl
  unfold linkStays
  split
  · split
    · next h =>
      rw [Bool.and_eq_true, Option.isNone_iff_eq_none] at h
      refine asked_cmdAbort _ hagree.2 fun e he => ?_
      obtain ⟨-, t, ht⟩ := hagree.1 e he
      rw [h.2] at ht
      cases ht
    · exact hsame
  · exact hsame

theorem asked_stopAbort {d : Nat} (hagree : StopsAgree s) (hd : domSt s d = .stopping) (r : Refuser) :
    Asked [d] s (stopAbort r s) := by
  obtain ⟨hagree, hq⟩ := hagree
  obtain ⟨hcmd, t, hstopping⟩ := hagree d hd
  obtain ⟨c, hc⟩ := Option.isSome_iff_exists.1 hcmd
  have heq : stopAbort r s = cmdAbort r c (setDom d .run s) := by
    unfold stopAbort
    rw [hstopping, hc]
  have hone : ∀ e, domSt s e = .stopping → e = d := fun e he => by
    obtain ⟨-, t', ht'⟩ := hagree e he
    rw [hstopping] at ht'
    cases ht'
    rfl
  have hrun : ∀ e, domSt (setDom d .run s) e ≠ .stopping := fun e he => by
    rw [domSt_setDom] at he
    split at he
    · cases he
    · next hne => exact hne (hone e he)
  have hasked : Asked [] (setDom d .run s) (stopAbort r s) := heq ▸ asked_cmdAbort r hq hrun
  refine ⟨hasked.agree, fun e => ?_, fun e he hstop => ?_, hasked.more, hasked.held⟩
  · rw [hasked.doms, domSt_setDom]
    by_cases he : e = d
    · simp [he, hd]
    · simp [he]
  · rw [List.mem_singleton.1 he, hd] at hstop
    simp at hstop

theorem asked_runOne (hagree : StopsAgree s) (src d : Nat) : Asked [d] s (runOne src d s) := by
  have hquiet : domSt s d ≠ .stopping → ∀ e, domSt s e = if e ∈ [d] ∧ domSt s e = .stopping then .run else domSt s e := fun hd e => by
    rw [if_neg]
    rintro ⟨he, hs⟩
    exact hd (List.mem_singleton.1 he ▸ hs)
  have hup : domSt s d = .run ∨ domSt s d = .restoring → Asked [d] s s := fun hd =>
    ⟨hagree, hquiet (by rintro h; simp [h] at hd), fun e he hstop => by
      rw [List.mem_singleton.1 he] at hstop
      obtain h | h := hd <;> simp [h] at hstop, fun _ he => he, rfl⟩
  have hdown : domSt s d ≠ .stopping → Asked [d] s (modPwr (fun x => { x with want := insSorted x.want d }) s) := fun hd =>
    ⟨hagree, hquiet hd, fun e he _ => mem_insSorted.2 (.inl (List.mem_singleton.1 he)), fun e he => mem_insSorted.2 (.inr he), rfl⟩
  unfold runOne
  split
  · next h => exact hup (.inl h)
  · next h => exact hup (.inr h)
  · next h => exact asked_stopAbort hagree h _
  · next h => exact hdown (by simp [h])
  · next h => exact hdown (by simp [h])

theorem asked_forAll_runOne (hagree : StopsAgree s) (src : Nat) (ds : List Nat) : Asked ds s (forAll ds (runOne src) s) := by
  induction ds generalizing s with
  | nil => exact asked_nil hagree (fun _ => rfl) rfl rfl
  | cons d ds ih =>
    have hone := asked_runOne hagree src d
    exact hone.trans (ih hone.agree)

/-! ## Restores begin (R394, R396) -/

/-- A wanted domain in Stop may have begun its restore. -/
structure RestoreBegins (s x : State) : Prop where
  doms : ∀ e, domSt s e ≠ .stop → domSt x e = domSt s e
  wanted : ∀ e ∈ s.pwr.want, e ∈ x.pwr.want ∨ domSt x e = .restoring
  held : x.dbgHeld = s.dbgHeld

theorem restoreBegins_vcoreOn (s : State) : RestoreBegins s (vcoreOn s) := by
  unfold vcoreOn
  split
  · unfold operation
    dsimp only
    split <;> exact ⟨fun _ _ => rfl, fun _ he => .inl he, rfl⟩
  · exact ⟨fun _ _ => rfl, fun _ he => .inl he, rfl⟩

theorem restoreBegins_restoreNext (s : State) : RestoreBegins s (restoreNext s) := by
  have hsame : RestoreBegins s s := ⟨fun _ _ => rfl, fun _ he => .inl he, rfl⟩
  unfold restoreNext
  split
  · exact hsame
  · split
    · next d hfind =>
      have hfound := List.find?_some hfind
      have hstop : domSt s d = .stop := of_decide_eq_true (Bool.and_eq_true_iff.1 hfound).2
      refine ⟨fun e he => domSt_setDom_ne _ _ (fun h => he (h ▸ hstop)), fun e he => ?_, rfl⟩
      by_cases hed : e = d
      · exact .inr (hed ▸ domSt_setDom_same ..)
      · exact .inl (List.mem_filter.2 ⟨he, decide_eq_true hed⟩)
    · exact hsame

theorem RestoreBegins.trans (h : RestoreBegins s x) (k : RestoreBegins x y) : RestoreBegins s y where
  doms e he := (k.doms e (by rwa [h.doms e he])).trans (h.doms e he)
  wanted e he := by
    obtain hmem | hrest := h.wanted e he
    · exact k.wanted e hmem
    · exact .inr ((k.doms e (by simp [hrest])).trans hrest)
  held := k.held.trans h.held

/-- What is asked for and may then restore is what a Run request comes to. -/
theorem Asked.runAsked {ds : List Nat} (h : Asked ds s x) (k : RestoreBegins x y) : RunAsked ds s y where
  up e _ hup := by
    have hx : domSt x e = domSt s e := by
      rw [h.doms, if_neg]
      rintro ⟨-, hs⟩
      simp [hs] at hup
    rw [← hx]
    exact k.doms e (by obtain hs | hs := hup <;> simp [hx, hs])
  back e he hs := by
    have hx : domSt x e = .run := by rw [h.doms, if_pos ⟨he, hs⟩]
    rw [k.doms e (by simp [hx]), hx]
  down e he hs := k.wanted e (h.wanted e he hs)
  others e he hs := by
    have hx : domSt x e = domSt s e := by rw [h.doms, if_neg fun hmem => he hmem.1]
    rw [k.doms e (by rwa [hx]), hx]

end

/-! ## The request -/

/-- A Run request asks for the domains it names and for those they depend on; the debug requests that wait go on waiting. -/
theorem runAsked_runRequest {s : State} (hagree : StopsAgree s) (src : Nat) {mask : Nat} (hmask : mask ≠ 0) :
    RunAsked (withDeps mask) s (runRequest src mask s) ∧ (runRequest src mask s).dbgHeld = s.dbgHeld := by
  have hlink := asked_linkStays hagree src
  have hasked : Asked (withDeps mask) s _ := hlink.trans (asked_forAll_runOne hlink.agree src (withDeps mask))
  have hbegins := (restoreBegins_vcoreOn (forAll (withDeps mask) (runOne src) (linkStays src s))).trans (restoreBegins_restoreNext _)
  rw [runRequest, if_neg hmask]
  exact ⟨hasked.runAsked hbegins, hbegins.held.trans hasked.held⟩

end Sys2Proof.Machine
end

section
/-! SUPPORT. The end of a session's grant (R427) and the TAP's instructions (R428). -/

namespace Sys2Proof.Machine

/-! ## The tines of a session resume -/

/-- Which session has halted a tine. -/
def haltedBy (probe : Bool) : HaltKind := if probe then .probe else .host

/-- One tine at the end of a session: halted by it, it resumes; a request it holds is withdrawn. -/
def resumeOne (probe : Bool) (t : Nat) (x : State) : State :=
  if (tineAt x t).halt = haltedBy probe then
    sieveUpdate t (alive t (modTine t (fun y => { y with halt := .no, dreq := .none }) x))
  else if (tineAt x t).dreq = .halt probe ∨ (tineAt x t).dreq = .step probe then
    modTine t (fun y => { y with dreq := .none }) x
  else x

/-- Nothing of the session is left on a tine that was `a` and is `b`. -/
def Released (probe : Bool) (a b : Tine) : Prop :=
  (a.halt = haltedBy probe → b.halt = .no) ∧ (a.dreq = .halt probe ∨ a.dreq = .step probe → b.dreq = .none)

section
variable (probe : Bool) (t : Nat) (s : State)

theorem onlyTine_resumeOne : OnlyTine t s (resumeOne probe t s) := by
  unfold resumeOne
  split
  · exact ((onlyTine_modTine t _ s).trans (side_alive t _).only).trans (side_sieveUpdate t _).only
  · split
    · exact onlyTine_modTine t _ s
    · exact .refl t s

/-- A tine that resumes: only the entry chosen is open. -/
theorem tineAt_resumed (f : Tine → Tine) : ∃ e, tineAt (sieveUpdate t (alive t (modTine t f s))) t =
    { f (tineAt s t) with lastAlive := s.now, entry := e } := by
  obtain ⟨e, he⟩ := tineAt_sieveUpdate t (alive t (modTine t f s))
  exact ⟨e, by rw [he, alive, tineAt_modTine_same, tineAt_modTine_same]; rfl⟩

theorem released_resumeOne : Released probe (tineAt s t) (tineAt (resumeOne probe t s) t) := by
  unfold resumeOne Released
  split
  · obtain ⟨e, he⟩ := tineAt_resumed t s fun y => { y with halt := .no, dreq := .none }
    rw [he]
    exact ⟨fun _ => rfl, fun _ => rfl⟩
  · next hhalt =>
    split
    · rw [tineAt_modTine_same]
      exact ⟨fun h => absurd h hhalt, fun _ => rfl⟩
    · next hreq => exact ⟨fun h => absurd h hhalt, fun h => absurd h hreq⟩

end

theorem resumeAll_eq (probe : Bool) (s : State) : resumeAll probe s = forAll (List.range 144) (resumeOne probe) s := rfl

theorem fields_resumeAll (probe : Bool) (s : State) :
    resumeAll probe s = { s with tines := (resumeAll probe s).tines, regs := (resumeAll probe s).regs } :=
  forAll_preserves (f := resumeOne probe) (P := fun x => x = { s with tines := x.tines, regs := x.regs })
    (fun t _ x hx => (onlyTine_resumeOne probe t x).fields.trans (congrArg
      (fun y : State => { y with tines := (resumeOne probe t x).tines, regs := (resumeOne probe t x).regs }) hx)) rfl

theorem released_resumeAll (probe : Bool) (s : State) {t : Nat} (ht : t < 144) :
    Released probe (tineAt s t) (tineAt (resumeAll probe s) t) := by
  rw [resumeAll_eq]
  exact tineAt_forAll_of_mem (R := Released probe) (released_resumeOne probe)
    (fun t _ x hu => (onlyTine_resumeOne probe t x).tines _ hu) List.nodup_range (List.mem_range.2 ht) s

/-- The end of a session's grant (R427). -/
theorem grantEnded_sessEnd (probe : Bool) (s : State) : GrantEnded probe s (sessEnd probe s) := by
  let x := setSess probe { sessOf s probe with level := 0, allowStop := false, debugWake := false } s
  have hend : sessEnd probe s = resumeAll probe x := rfl
  have htine : ∀ t, tineAt x t = tineAt s t := fun t => by cases probe <;> rfl
  have hreleased : ∀ t, t < 144 → Released probe (tineAt s t) (tineAt (resumeAll probe x) t) := fun t ht => by
    rw [← htine]
    exact released_resumeAll probe x ht
  rw [hend]
  refine ⟨?_, fun t ht => (hreleased t ht).1, fun t ht => (hreleased t ht).2, ?_⟩
  · rw [fields_resumeAll]
    cases probe <;> exact ⟨rfl, rfl, rfl⟩
  · rw [fields_resumeAll]
    cases probe <;> rfl

/-! ## The TAP -/

theorem grantEnded_tapReset (s : State) : GrantEnded true s (sessEnd true (setTap .idcode s)) := by
  obtain ⟨hnone, hresumes, hwithdrawn, hmem⟩ := grantEnded_sessEnd true (setTap .idcode s)
  exact ⟨hnone, hresumes, hwithdrawn, hmem⟩

theorem tap_tapReset (s : State) : (sessEnd true (setTap .idcode s)).tap = .idcode := by
  have hfields : sessEnd true (setTap .idcode s) = _ := fields_resumeAll true _
  rw [hfields]
  rfl

/-- Pin instructions act as themselves where the lifecycle or the grant permits it, and else as BYPASS (R428). -/
theorem tapActs_cases (s : State) :
    let may := s.otp.lc = 0 ∨ s.otp.lc = 1 ∨ s.probeSess.level = 2
    (s.tap = .extest ∨ s.tap = .clamp ∨ s.tap = .highz → (may → tapActs s = s.tap) ∧ (¬may → tapActs s = .bypass)) ∧
      (s.tap ≠ .extest → s.tap ≠ .clamp → s.tap ≠ .highz → tapActs s = s.tap) := by
  intro may
  have hmay : tapPins s = true ↔ may := by
    rw [tapPins, Bool.or_eq_true, decide_eq_true_eq, decide_eq_true_eq]
    omega
  have hpin : ∀ i : TapIr, (may → (if tapPins s = true then i else .bypass) = i) ∧
      (¬may → (if tapPins s = true then i else .bypass) = .bypass) := fun i =>
    ⟨fun h => if_pos (hmay.2 h), fun h => if_neg (mt hmay.1 h)⟩
  refine ⟨?_, fun hextest hclamp hhighz => ?_⟩
  · unfold tapActs
    rintro (h | h | h) <;> rw [h] <;> exact hpin _
  · unfold tapActs
    split
    · next h => exact absurd h hextest
    · next h => exact absurd h hclamp
    · next h => exact absurd h hhighz
    · rfl

end Sys2Proof.Machine
end

section
/-! SUPPORT. Debug requests (R181, R425, R427–R432): when one reaches the device, answers or waits, what it does to a tine, to its
registers and to a word of Shed, and the statement about the TAP and the requests. -/

namespace Sys2Proof.Machine

/-! ## Requests that reach the device -/

section
variable {s s' : State} {probe : Bool} {op : DbgOp} {c : Instr} {P : State → Prop}

theorem sessReaches_iff : SessReaches probe s ↔ ¬ (inReset s || (probe && decide (s.tap ≠ .dap))) = true := by
  unfold SessReaches
  cases probe <;> simp

theorem runs_unreached (hexec : exec c s = dbgRequest probe op s) (h : ¬SessReaches probe s) : Runs c s fun s' => s' = s :=
  ⟨s, hexec.trans (congrArg Host.Outcome.next (if_pos (not_not.1 (mt sessReaches_iff.2 h)))), rfl⟩

theorem dbgRequest_of_reaches (h : SessReaches probe s) {r : DbgRes} (hdo : dbgDo probe op s = r) : dbgRequest probe op s =
    .next (if r.1 then { r.2 with dbgHeld := r.2.dbgHeld ++ [{ probe := probe, grant := sessOf s probe, op := op }] } else r.2) := by
  subst hdo
  exact congrArg Host.Outcome.next (if_neg (sessReaches_iff.1 h))

/-- A request that has its answer. -/
theorem runs_answered (hexec : exec c s = dbgRequest probe op s) (h : SessReaches probe s) (hdo : dbgDo probe op s = (false, s'))
    (hP : P s') : Runs c s P :=
  ⟨s', hexec.trans (dbgRequest_of_reaches h hdo), hP⟩

/-- A request that waits is held with the grant it came under. -/
theorem runs_waits (hexec : exec c s = dbgRequest probe op s) (h : SessReaches probe s) (hdo : dbgDo probe op s = (true, s'))
    (hP : P { s' with dbgHeld := s'.dbgHeld ++ [{ probe := probe, grant := sessOf s probe, op := op }] }) : Runs c s P :=
  ⟨_, hexec.trans (dbgRequest_of_reaches h hdo), hP⟩

end

/-! ## What a request needs of its grant and its domain (R425, R429, R431) -/

section
variable {s : State} {probe : Bool} {op : String} {d : Nat} {f : State → DbgRes}

theorem dbgAt_ungranted (h : (sessOf s probe).level = 0) (d : Option Nat) : dbgAt probe op d f s = dbgEnd probe op 1 [] s := if_pos h

section
variable (h : (sessOf s probe).level ≠ 0)
include h

theorem dbgAt_run (hd : domSt s d = .run) : dbgAt probe op (some d) f s = f s := by
  rw [dbgAt, if_neg h, hd]

theorem dbgAt_stopping (hd : domSt s d = .stopping) : dbgAt probe op (some d) f s = (true, s) := by
  rw [dbgAt, if_neg h, hd]

theorem dbgAt_dormant (hd : domSt s d = .stop) (hwake : (sessOf s probe).debugWake = false) :
    dbgAt probe op (some d) f s = dbgEnd probe op 3 [] s := by
  rw [dbgAt, if_neg h, hd]
  exact if_neg (by rw [hwake]; exact Bool.false_ne_true)

/-- Under DEBUG_WAKE a domain in Stop that no Run request has named yet is asked for. -/
theorem dbgAt_wakes (hd : domSt s d = .stop) (hwake : (sessOf s probe).debugWake = true) (hwant : d ∉ s.pwr.want) :
    dbgAt probe op (some d) f s = (true, runRequest 0x320 (2 ^ d) s) := by
  have hask : dbgWake d s = runRequest 0x320 (2 ^ d) s := if_neg (by simp [hwant, hd])
  rw [dbgAt, if_neg h, hd, ← hask]
  exact if_pos hwake

theorem dbgRegAt_granted (d : Option Nat) : dbgRegAt probe d f s = dbgAt probe "reg" d f s := if_neg h

end

theorem dbgRegAt_ungranted (h : (sessOf s probe).level = 0) (d : Nat) :
    dbgRegAt probe (some d) f s = dbgEnd probe "reg" (if domAsleep s d then 3 else 1) [] s := if_pos h

theorem dbgMem_ungranted (h : (sessOf s probe).level = 0) (a : DbgAddr) (wr : Option Word) (up : Upset) :
    dbgMem probe a wr up s = dbgEnd probe "mem" 1 [] s := by
  cases a
  · rw [dbgMem, dbgAt_ungranted h]
  · rw [dbgMem, dbgAt_ungranted h]

/-- The modes that a session's grant covers. -/
theorem grantCovers_iff (t : Nat) :
    grantCovers s probe t = true ↔ (sessOf s probe).level = 2 ∨ ((sessOf s probe).level = 1 ∧ tW s t = false) := by
  unfold grantCovers sessOf
  cases probe <;> simp

end

section
variable {s : State} {probe : Bool} {t : TineNo}

theorem dbgDo_halt : dbgDo probe (.halt t) s = dbgAt probe "halt" (some (t.val / 9)) (dbgHalt probe t) s := rfl

theorem dbgDo_resume : dbgDo probe (.resume t) s = dbgAt probe "resume" (some (t.val / 9)) (dbgResume probe t) s := rfl

theorem dbgDo_step : dbgDo probe (.step t) s = dbgAt probe "step" (some (t.val / 9)) (dbgStep probe t) s := rfl

theorem dbgDo_g (i : Gr) (wr : Option Word) : dbgDo probe (.reg (.g t i) wr) s =
    dbgRegAt probe (some (t.val / 9)) (dbgTine probe t (fun s => getG s t i) (fun v => setG t i v) wr) s := rfl

end

/-! ## Halt, resume and step (R430) -/

/-- Request `op` was answered and made tine `t` what `y` is. -/
def MadeTine (probe : Bool) (op : String) (t : Nat) (y : Tine) (s s' : State) : Prop :=
  tineAt s' t = y ∧ (∀ u, u ≠ t → tineAt s' u = tineAt s u) ∧ s'.out = s.out ++ [.other op [b2n probe, 0]] ∧
    s' = { s with tines := s'.tines, regs := s'.regs, out := s'.out }

section
variable {s : State} {probe : Bool} {t : Nat}

theorem madeTine_modTine (op : String) (f : Tine → Tine) :
    MadeTine probe op t (f (tineAt s t)) s (dbgAnswer probe op 0 [] (modTine t f s)) :=
  ⟨tineAt_modTine_same .., fun _ hu => tineAt_modTine_ne s f hu, rfl, rfl⟩

/-- A halt is asked of the tine. -/
def haltAsked (probe : Bool) (t : Nat) (s : State) : State := modTine t (fun x => { x with dreq := .halt probe }) s

/-- A request is as good as a held one between two retirements. -/
theorem haltCheck_haltAsked : haltCheck t (haltAsked probe t s) =
    if regF s (pgTine t) oCLOCHE 0 7 = 0 ∧ grantCovers s probe t ∧ !owesFault s t then haltNow t probe (haltAsked probe t s)
    else haltAsked probe t s := by
  have hreq : (tineAt (haltAsked probe t s) t).dreq = .halt probe := by rw [haltAsked, tineAt_modTine_same]
  have howes : owesFault (haltAsked probe t s) t = owesFault s t := by
    simp only [owesFault, faultStands, haltAsked, tineAt_modTine_same]
  rw [haltCheck, hreq]
  dsimp only
  rw [haltHeld, hreq]
  dsimp only
  rw [howes]
  rfl

theorem dbgHalt_halted (h : (tineAt s t).halt ≠ .no) : dbgHalt probe t s = dbgEnd probe "halt" 0 [] s :=
  congrArg (dbgEnd probe "halt" 0 []) (if_neg h)

theorem dbgHalt_running (h : (tineAt s t).halt = .no) :
    dbgHalt probe t s = dbgEnd probe "halt" 0 [] (haltCheck t (haltAsked probe t s)) :=
  congrArg (dbgEnd probe "halt" 0 []) (if_pos h)

/-- A halt that can be taken at once. -/
theorem madeTine_halt (hcovers : grantCovers s probe t = true) (hcloche : regF s (pgTine t) oCLOCHE 0 7 = 0)
    (howes : owesFault s t = false) : MadeTine probe "halt" t (haltedTine (tineAt s t) probe) s
      (dbgAnswer probe "halt" 0 [] (haltCheck t (haltAsked probe t s))) := by
  rw [haltCheck_haltAsked, if_pos ⟨hcloche, hcovers, by rw [howes]; rfl⟩]
  refine ⟨?_, fun u hu => ?_, rfl, rfl⟩
  · show tineAt (haltNow t probe (haltAsked probe t s)) t = _
    rw [haltNow, tineAt_modTine_same, haltAsked, tineAt_modTine_same]
    rfl
  · show tineAt (haltNow t probe (haltAsked probe t s)) u = _
    rw [haltNow, tineAt_modTine_ne _ _ hu, haltAsked, tineAt_modTine_ne _ _ hu]

/-- A halt that is held. -/
theorem madeTine_haltHeld
    (h : ¬ (grantCovers s probe t = true ∧ regF s (pgTine t) oCLOCHE 0 7 = 0 ∧ owesFault s t = false)) :
    MadeTine probe "halt" t { tineAt s t with dreq := .halt probe } s
      (dbgAnswer probe "halt" 0 [] (haltCheck t (haltAsked probe t s))) := by
  rw [haltCheck_haltAsked, if_neg fun ⟨hcloche, hcovers, howes⟩ => h ⟨hcovers, hcloche, by simpa using howes⟩]
  exact madeTine_modTine "halt" _

theorem dbgHalted_iff : dbgHalted s t = true ↔ (tineAt s t).halt = .host ∨ (tineAt s t).halt = .probe := by simp [dbgHalted]

theorem dbgResume_uncovered (h : grantCovers s probe t = false) : dbgResume probe t s = dbgEnd probe "resume" 2 [] s :=
  if_pos (by rw [h]; rfl)

/-- A halted tine resumed. -/
def resumed (t : Nat) (s : State) : State :=
  sieveUpdate t (alive t (modTine t (fun x => { x with dreq := .none, halt := if dbgHalted s t then .no else x.halt }) s))

theorem dbgResume_covered (h : grantCovers s probe t = true) :
    dbgResume probe t s = dbgEnd probe "resume" 0 [] (resumed t s) :=
  if_neg (by rw [h]; exact Bool.false_ne_true)

theorem onlyTine_resumed : OnlyTine t s (resumed t s) :=
  ((onlyTine_modTine t _ s).trans (side_alive t _).only).trans (side_sieveUpdate t _).only

theorem dbgStep_unhalted (h : dbgHalted s t = false) : dbgStep probe t s = dbgEnd probe "step" 5 [] s := if_pos (by rw [h]; rfl)

section
variable (hhalted : dbgHalted s t = true)
include hhalted

theorem tineAt_resumed_halted : ∃ e, tineAt (resumed t s) t =
    { tineAt s t with dreq := .none, halt := .no, lastAlive := s.now, entry := e } := by
  obtain ⟨e, he⟩ := tineAt_resumed t s fun x => { x with dreq := .none, halt := if dbgHalted s t then .no else x.halt }
  exact ⟨e, by rw [resumed, he, hhalted]; rfl⟩

theorem dbgStep_uncovered (h : grantCovers s probe t = false) : dbgStep probe t s = dbgEnd probe "step" 2 [] s :=
  (if_neg (by rw [hhalted]; exact Bool.false_ne_true)).trans (if_pos (by rw [h]; rfl))

theorem dbgStep_covered (h : grantCovers s probe t = true) :
    dbgStep probe t s = dbgEnd probe "step" 0 [] (modTine t (fun x => { x with dreq := .step probe }) s) :=
  (if_neg (by rw [hhalted]; exact Bool.false_ne_true)).trans (if_neg (by rw [h]; exact Bool.false_ne_true))

end

/-! ## Registers of a tine (R429) -/

variable {rd : State → Word} {f : Word → State → State}

theorem dbgTine_running (h : (tineAt s t).halt = .no) (wr : Option Word) : dbgTine probe t rd f wr s = dbgEnd probe "reg" 5 [] s :=
  if_pos h

section
variable (hhalt : (tineAt s t).halt ≠ .no) (hcovers : grantCovers s probe t = true)
include hhalt hcovers

theorem dbgTine_write (v : Word) : dbgTine probe t rd f (some v) s = dbgEnd probe "reg" 0 [] (f v s) :=
  (if_neg hhalt).trans (if_neg (by rw [hcovers]; exact Bool.false_ne_true))

theorem dbgTine_read : dbgTine probe t rd f none s = dbgEnd probe "reg" 0 [(rd s).toNat] { s with readData := rd s } :=
  (if_neg hhalt).trans (if_neg (by rw [hcovers]; exact Bool.false_ne_true))

end

/-- An answer aside, only the tine changed. -/
theorem OnlyTine.answered {x : State} (h : OnlyTine t s x) (probe : Bool) (op : String) (status : Nat) (ns : List Nat) :
    OnlyTine t s { dbgAnswer probe op status ns x with out := s.out } := by
  have hsame : ({ dbgAnswer probe op status ns x with out := s.out } : State) = x := by
    rw [h.fields]
    rfl
  rwa [hsame]

end

/-! ## Words of Shed (R181, R429, R432) -/

section
variable {s : State} {probe : Bool} {pa : Nat} (hreg : regionOf pa = .shed false)
include hreg

theorem plainPa_shed : PlainPa pa := .inr ⟨_, hreg⟩

theorem low_shed : pa < 0x08000000 := by
  have := plainPa_lt (plainPa_shed hreg)
  omega

theorem paDom_shed : paDom (ownPa s pa) = some domShda := by
  rw [ownPa_low (low_shed hreg), paDom, hreg]
  rfl

variable (hrun : domSt s domShda = .run)
include hrun

theorem addrSub_shed (hres : reservedPa pa = false) : addrSub s { store := true } pa = 0 := by
  have hasleep : domAsleep s domShda = false := by simp [domAsleep, hrun]
  simp [addrSub, ownPa_low (low_shed hreg), hreg, hasleep, hres]

theorem awake_shed (hclean : ueAt s pa = false) : Awake s pa :=
  ⟨plainPa_shed hreg, hclean, fun d hd => by
    rw [← ownPa_low (low_shed hreg) s, paDom_shed hreg] at hd
    cases hd
    exact ⟨domHeld_of_run hrun, by simp [domAsleep, hrun]⟩⟩

variable (hlevel : (sessOf s probe).level = 2)
include hlevel

omit hrun in
/-- Under a Walled grant no word of Shed is fenced. -/
theorem whoFenced_walled : whoFenced s (dbgWho probe) pa = false := by
  have hlow := low_shed hreg
  have hkeys : pa ≠ pageAddr pgSec 0x019 := by
    unfold pageAddr
    omega
  cases probe
  · have hhost : s.hostSess.level = 2 := hlevel
    simp [dbgWho, whoFenced, hhost, hkeys]
  · have hprobe : s.probeSess.level = 2 := hlevel
    simp [dbgWho, whoFenced, hprobe, hkeys]

/-- A request for a word of Shed under a Walled grant. -/
theorem dbgMem_shed {a : BitVec 34} (ha : a.toNat = pa) (wr : Option Word) (up : Upset) :
    dbgMem probe (.phys a) wr up s = dbgPhys probe pa wr up s := by
  subst ha
  rw [dbgMem, paDom_shed hreg, dbgAt_run (by omega) hrun]
  exact if_pos hlevel

omit hrun hlevel in
/-- The Nursery's reserved region answers no session. -/
theorem dbgPhys_reserved (hres : reservedPa pa = true) (wr : Option Word) (up : Upset) :
    dbgPhys probe pa wr up s = dbgFenced probe "mem" s :=
  if_pos (by rw [ownPa_low (low_shed hreg), hres]; rfl)

theorem dbgPhys_shed (hres : reservedPa pa = false) (wr : Option Word) (up : Upset) :
    dbgPhys probe pa wr up s = dbgTouch probe pa wr up s := by
  unfold dbgPhys
  dsimp only
  rw [ownPa_low (low_shed hreg), hres, whoFenced_walled hreg hlevel, if_neg (by simp),
    physChecks_plain (plainPa_shed hreg) (addrSub_shed hreg hrun hres)]

end

section
variable {s : State} {probe : Bool} {pa : Nat} (h : Awake s pa)
include h

theorem dbgTouch_read : dbgTouch probe pa none .ok s =
    dbgEnd probe "mem" 0 [(memGet s pa).toNat] { s with readData := memGet s pa } := by
  unfold dbgTouch
  dsimp only
  rw [physWaits_awake h, if_neg Bool.false_ne_true, physRead_awake h]

/-- A session's write is withheld nowhere and replaces the word. -/
theorem physWrite_session (v : Word) : physWrite (dbgWho probe) 0 pa (.word v) .ok s = (.done, memPut pa v s) := by
  have hlow := awake_low h
  have hmerge : needsMerge pa (.word v) = false := by simp [needsMerge, memCode_low hlow]
  have hwrite : memWrite (whoSrc (dbgWho probe)) pa (.word v) .ok s = (.done, memPut pa v s) := by
    unfold memWrite
    rw [if_neg (by simp), hmerge]
    rfl
  have hnone : withholds s (dbgWho probe) pa (.word v) = none := by cases probe <;> rfl
  unfold physWrite
  simp only [ownPa_low hlow s, paHeld_awake h, paDormant_awake h, hnone]
  obtain ⟨u, o, hreg⟩ | ⟨b, hreg⟩ := h.region <;> simp [hreg, hwrite]

theorem dbgTouch_write (v : Word) : dbgTouch probe pa (some v) .ok s = dbgEnd probe "mem" 0 [] (memPut pa v s) := by
  unfold dbgTouch
  dsimp only
  rw [physWrite_session h]

end

/-! ## Requests to a tine whose domain runs -/

section
variable {s s' : State} {probe : Bool} {t : TineNo} {c : Instr} {op : DbgOp} {name : String} {f : State → DbgRes} {P : State → Prop}
variable (hreach : SessReaches probe s) (hsome : (sessOf s probe).level ≠ 0) (hrun : domSt s (t.val / 9) = .run)
include hreach hsome hrun

theorem runs_running (hexec : exec c s = dbgRequest probe op s) (hdo : dbgDo probe op s = dbgAt probe name (some (t.val / 9)) f s)
    (hf : f s = (false, s')) (hP : P s') : Runs c s P :=
  runs_answered hexec hreach (hdo.trans ((dbgAt_run hsome hrun).trans hf)) hP

theorem runs_debugResume (hcovers : grantCovers s probe t = true) (hhalted : dbgHalted s t = true) :
    Runs (.debugResume probe t) s fun s' => (tineAt s' t).halt = .no ∧ (tineAt s' t).dreq = .none ∧
      (tineAt s' t).pc = (tineAt s t).pc ∧ (∀ u, u ≠ t.val → tineAt s' u = tineAt s u) ∧ s'.mem = s.mem := by
  obtain ⟨e, he⟩ := tineAt_resumed_halted hhalted
  have honly : OnlyTine t.val s (resumed t s) := onlyTine_resumed
  have htine : tineAt (dbgAnswer probe "resume" 0 [] (resumed t s)) t = _ := he
  refine runs_running hreach hsome hrun rfl rfl (dbgResume_covered hcovers) ⟨?_, ?_, ?_, honly.tines, ?_⟩
  · rw [htine]
  · rw [htine]
  · rw [htine]
  · show (resumed t s).mem = s.mem
    rw [honly.fields]

variable (hhalt : (tineAt s t).halt ≠ .no) (hcovers : grantCovers s probe t = true)
include hhalt hcovers

theorem runs_debugRegister_read (i : Gr) : Runs (.debugRegisterAccess probe (.g t i) none) s fun s' => s'.readData = getG s t i ∧
    s' = { s with readData := s'.readData, out := s.out ++ [.other "reg" [b2n probe, 0, (getG s t i).toNat]] } :=
  runs_running hreach hsome hrun rfl (dbgRegAt_granted hsome _) (dbgTine_read hhalt hcovers) ⟨rfl, rfl⟩

theorem runs_debugRegister_write (i : Gr) (v : Word) : Runs (.debugRegisterAccess probe (.g t i) (some v)) s fun s' =>
    getG s' t i = v ∧ KeepsG t [i] s s' ∧ OnlyTine t s { s' with out := s.out } :=
  runs_running hreach hsome hrun rfl (dbgRegAt_granted hsome _) (dbgTine_write hhalt hcovers v)
    ⟨getG_setG_same .., fun _ hj => getG_setG_ne s t v (by simpa using hj), (onlyTine_setG s t i v).answered ..⟩

theorem runs_debugRegister_pc (v : Word) : Runs (.debugRegisterAccess probe (.pc t) (some v)) s fun s' =>
    (tineAt s' t).pc = BitVec.ofNat 14 v.toNat ∧ KeepsG t [] s s' :=
  runs_running hreach hsome hrun rfl (dbgRegAt_granted hsome _) (dbgTine_write hhalt hcovers v)
    ⟨pc_setPc .., fun i _ => getG_of_side (side_setPc t _ s) rfl i (by simp)⟩

end

/-! ## The statement -/

/-- Settles O52: each request is decided by its session, its domain and the grant, and then by the state of the tine or the word. -/
theorem tapAndDebugRequests : Obligations.TapAndDebugRequests := by
  refine ⟨fun s => ⟨⟨_, rfl, tap_tapReset s, grantEnded_tapReset s⟩, rfl, rfl, rfl, rfl, rfl, rfl, rfl, tapActs_cases s⟩, ?_⟩
  intro s probe t up wr x d mine onTine waits
  refine ⟨fun hnot => ?unreached, fun hreach => ⟨fun hnone => ?ungranted,
      fun hsome hstop hwake => ?dormant, fun hsome hstopping => ?stopping, fun hsome hstop hwake hagree hwant => ?wakes,
      ?running, fun pa v hwalled hreg hrun => ⟨fun hres hclean => ?word, fun hres => ?reserved⟩⟩⟩
  case unreached =>
    exact ⟨runs_unreached rfl hnot, runs_unreached rfl hnot, runs_unreached rfl hnot, fun _ => runs_unreached rfl hnot,
      fun _ => runs_unreached rfl hnot⟩
  case ungranted =>
    exact ⟨runs_answered rfl hreach (dbgDo_halt.trans (dbgAt_ungranted hnone _)) rfl,
      runs_answered rfl hreach (dbgDo_resume.trans (dbgAt_ungranted hnone _)) rfl,
      runs_answered rfl hreach (dbgDo_step.trans (dbgAt_ungranted hnone _)) rfl,
      fun a => runs_answered rfl hreach (dbgMem_ungranted hnone a wr up) rfl,
      fun i => runs_answered rfl hreach ((dbgDo_g i wr).trans (dbgRegAt_ungranted hnone _)) rfl⟩
  case dormant =>
    exact ⟨runs_answered rfl hreach (dbgDo_halt.trans (dbgAt_dormant hsome hstop hwake)) rfl,
      runs_answered rfl hreach (dbgDo_resume.trans (dbgAt_dormant hsome hstop hwake)) rfl,
      runs_answered rfl hreach (dbgDo_step.trans (dbgAt_dormant hsome hstop hwake)) rfl⟩
  case stopping =>
    exact ⟨runs_waits rfl hreach (dbgDo_halt.trans (dbgAt_stopping hsome hstopping)) ⟨rfl, rfl⟩,
      runs_waits rfl hreach (dbgDo_resume.trans (dbgAt_stopping hsome hstopping)) ⟨rfl, rfl⟩,
      runs_waits rfl hreach (dbgDo_step.trans (dbgAt_stopping hsome hstopping)) ⟨rfl, rfl⟩,
      fun i => runs_waits rfl hreach ((dbgDo_g i wr).trans ((dbgRegAt_granted hsome _).trans (dbgAt_stopping hsome hstopping))) ⟨rfl, rfl⟩⟩
  case wakes =>
    obtain ⟨hasked, hheld⟩ := runAsked_runRequest hagree 0x320 (mask := 2 ^ d) (by positivity)
    exact runs_waits rfl hreach (dbgDo_halt.trans <| dbgAt_wakes hsome hstop hwake hwant)
      ⟨⟨hasked.up, hasked.back, hasked.down, hasked.others⟩, congrArg (· ++ _) hheld⟩
  case running =>
    intro hsome hrun covered between halted
    have hcovers : grantCovers s probe t = true ↔ covered := grantCovers_iff t.val
    have hhalted : dbgHalted s t = true ↔ halted := dbgHalted_iff
    refine ⟨fun hno hcov ⟨hcloche, howes⟩ => ?taken, fun hhalt => ?already, fun hno hnot => ?kept, fun hnot => ?uncovered,
      fun hcov hhalt => ?goesOn, fun hno => ?unhalted, fun hhalt hcov i v => ?registers⟩
    case taken =>
      exact runs_running hreach hsome hrun rfl dbgDo_halt (dbgHalt_running hno) (madeTine_halt (hcovers.2 hcov) hcloche howes)
    case already => exact runs_running hreach hsome hrun rfl dbgDo_halt (dbgHalt_halted hhalt) rfl
    case kept =>
      exact runs_running hreach hsome hrun rfl dbgDo_halt (dbgHalt_running hno)
        (madeTine_haltHeld fun ⟨hcov, hbetween⟩ => hnot ⟨hcovers.1 hcov, hbetween⟩)
    case uncovered =>
      have hno : grantCovers s probe t = false := by simpa using mt hcovers.1 hnot
      exact ⟨runs_running hreach hsome hrun rfl dbgDo_resume (dbgResume_uncovered hno) rfl, fun hhalt =>
        runs_running hreach hsome hrun rfl dbgDo_step (dbgStep_uncovered (hhalted.2 hhalt) hno) rfl⟩
    case goesOn =>
      exact ⟨runs_debugResume hreach hsome hrun (hcovers.2 hcov) (hhalted.2 hhalt), runs_running hreach hsome hrun rfl dbgDo_step
        (dbgStep_covered (hhalted.2 hhalt) (hcovers.2 hcov)) (madeTine_modTine "step" _)⟩
    case unhalted =>
      have hnot : dbgHalted s t = false := by simp [dbgHalted, hno]
      exact ⟨runs_running hreach hsome hrun rfl dbgDo_step (dbgStep_unhalted hnot) rfl, fun i =>
        runs_running hreach hsome hrun rfl ((dbgDo_g i wr).trans (dbgRegAt_granted hsome _)) (dbgTine_running hno wr) rfl⟩
    case registers =>
      exact ⟨runs_debugRegister_read hreach hsome hrun hhalt (hcovers.2 hcov) i,
        runs_debugRegister_write hreach hsome hrun hhalt (hcovers.2 hcov) i v,
        runs_debugRegister_pc hreach hsome hrun hhalt (hcovers.2 hcov) v,
        runs_running hreach hsome hrun rfl (dbgRegAt_granted hsome _) (dbgTine_read hhalt (hcovers.2 hcov)) rfl⟩
  case word =>
    have hawake := awake_shed hreg hrun hclean
    have hmem : ∀ wr, dbgMem probe (.phys pa) wr .ok s = dbgTouch probe pa.toNat wr .ok s := fun wr =>
      (dbgMem_shed hreg hrun hwalled rfl wr .ok).trans (dbgPhys_shed hreg hrun hwalled hres wr .ok)
    refine ⟨runs_answered rfl hreach ((hmem none).trans (dbgTouch_read hawake)) ⟨rfl, rfl⟩,
      runs_answered rfl hreach ((hmem (some v)).trans (dbgTouch_write hawake v)) ⟨memGet_memPut_same .., fun a ha =>
        memGet_memPut_ne s v ha, ?_⟩⟩
    show emit _ (memPut pa.toNat v s) = _
    rw [memPut_fields]
    rfl
  case reserved =>
    exact runs_answered rfl hreach ((dbgMem_shed hreg hrun hwalled rfl _ _).trans (dbgPhys_reserved hreg hres _ _))
      ⟨rfl, regF_bumpF_same s (by decide) 1⟩

end Sys2Proof.Machine
end

section
/-! SUPPORT. Trellis channels (R201, R202, R206, R207, R218, R224–R226): the laws of a channel's own registers and record, the frames of what
acts on one channel and of what acts beside all of them, and how a channel goes on at the end of its command. -/

namespace Sys2Proof.Machine

/-! ## The registers of a channel -/

/-- Register `k` of a channel's block lies in its page (R201). -/
theorem chBase_add_lt (c : Nat) {k : Nat} (hk : k < 0x18) : chBase c + k < 1024 := by
  unfold chBase
  omega

theorem pgTrch_range {c : Nat} (hc : c < 128) : 0x00A ≤ pgTrch c ∧ pgTrch c < 0x00E := by
  unfold pgTrch
  omega

/-- The blocks of two channels lie apart. -/
theorem chReg_apart {t c j k : Nat} (hj : j < 0x18) (hk : k < 0x18) (hne : t ≠ c) :
    pgTrch t ≠ pgTrch c ∨ chBase t + j ≠ chBase c + k := by
  unfold pgTrch chBase
  omega

section
variable (s : State) (c : Nat)

@[simp] theorem chR_setChR_same (k : Nat) (v : Word) : chR (setChR c k v s) c k = v := reg_setReg_same s _ _ v

theorem chR_setChR_ne {j k : Nat} (v : Word) (h : j ≠ k) : chR (setChR c k v s) c j = chR s c j :=
  reg_setReg_off s v (by omega)

theorem chR_setChF_same (k lo len v : Nat) : chR (setChF c k lo len v s) c k = setF (chR s c k) lo len v :=
  reg_setReg_same s _ _ _

theorem chR_setChF_ne {j k : Nat} (lo len v : Nat) (h : j ≠ k) : chR (setChF c k lo len v s) c j = chR s c j :=
  reg_setReg_off s _ (by omega)

theorem chR_setStat_same (b : Nat) (v : Bool) : chR (setStat c b v s) c 1 = setB (chR s c 1) b v := reg_setReg_same s _ _ _

theorem chR_setStat_ne {j : Nat} (b : Nat) (v : Bool) (h : j ≠ 1) : chR (setStat c b v s) c j = chR s c j :=
  reg_setReg_off s _ (by omega)

theorem chR_setChState_same (v : Nat) : chR (setChState c v s) c 1 = setF (chR s c 1) 0 3 v := reg_setReg_same s _ _ _

theorem chR_setChState_ne {j : Nat} (v : Nat) (h : j ≠ 1) : chR (setChState c v s) c j = chR s c j :=
  reg_setReg_off s _ (by omega)

theorem chR_setCpc_same (v : Nat) : chR (setCpc c v s) c 5 = wd (v % 2 ^ 32) := reg_setReg_same s _ _ _

theorem chR_setCpc_ne {j : Nat} (v : Nat) (h : j ≠ 5) : chR (setCpc c v s) c j = chR s c j :=
  reg_setReg_off s _ (by omega)

@[simp] theorem chR_modChan (t : Nat) (f : Chan → Chan) (j : Nat) : chR (modChan t f s) c j = chR s c j := rfl
@[simp] theorem chR_setPhase (t : Nat) (p : ChPhase) (j : Nat) : chR (setPhase t p s) c j = chR s c j := rfl

@[simp] theorem chanAt_setChR (t k : Nat) (v : Word) : chanAt (setChR t k v s) c = chanAt s c := rfl
@[simp] theorem chanAt_setChF (t k lo len v : Nat) : chanAt (setChF t k lo len v s) c = chanAt s c := rfl
@[simp] theorem chanAt_setStat (t b : Nat) (v : Bool) : chanAt (setStat t b v s) c = chanAt s c := rfl
@[simp] theorem chanAt_setChState (t v : Nat) : chanAt (setChState t v s) c = chanAt s c := rfl
@[simp] theorem chanAt_setCpc (t v : Nat) : chanAt (setCpc t v s) c = chanAt s c := rfl
@[simp] theorem chanAt_setPhase_same (p : ChPhase) : chanAt (setPhase c p s) c = { chanAt s c with phase := p } :=
  chanAt_modChan_same ..

end

end Sys2Proof.Machine

open Sys2Proof Sys2Proof.Machine

/-! ## Only one channel changes -/

namespace ChOnly

variable {c k : Nat} {ks ks' : List Nat} {s x y : State}

theorem refl (c : Nat) (ks : List Nat) (s : State) : ChOnly c ks s s := ⟨rfl, fun _ _ => rfl, fun _ _ _ _ => rfl⟩

theorem trans (h : ChOnly c ks s x) (h' : ChOnly c ks x y) : ChOnly c ks s y := by
  obtain ⟨hfields, hchans, hregs⟩ := h
  obtain ⟨hfields', hchans', hregs'⟩ := h'
  refine ⟨by rw [hfields', hfields], fun d hd => (hchans' d hd).trans (hchans d hd), fun p o ho hne => ?_⟩
  exact (hregs' p o ho hne).trans (hregs p o ho hne)

theorem mono (h : ChOnly c ks s x) (hsub : ∀ j ∈ ks, j ∈ ks') : ChOnly c ks' s x :=
  ⟨h.1, h.2.1, fun p o ho hne => h.2.2 p o ho (hne.imp_right fun hall j hj => hall j (hsub j hj))⟩

theorem setChR (h : ChOnly c ks s x) (hmem : k ∈ ks) (hk : k < 0x18) (v : Word) : ChOnly c ks s (setChR c k v x) := by
  refine h.trans ⟨rfl, fun _ _ => rfl, fun p o ho hne => ?_⟩
  refine (reg_setReg x v ho (chBase_add_lt c hk)).trans (if_neg fun ⟨hp, heq⟩ => ?_)
  exact hne.elim (absurd hp) fun hall => hall k hmem heq

theorem setChF (h : ChOnly c ks s x) (hmem : k ∈ ks) (hk : k < 0x18) (lo len v : Nat) :
    ChOnly c ks s (setChF c k lo len v x) := h.setChR hmem hk _

theorem setStat (h : ChOnly c ks s x) (hmem : 1 ∈ ks) (b : Nat) (v : Bool) : ChOnly c ks s (setStat c b v x) :=
  h.setChR hmem (by decide) _

theorem setChState (h : ChOnly c ks s x) (hmem : 1 ∈ ks) (v : Nat) : ChOnly c ks s (setChState c v x) :=
  h.setChR hmem (by decide) _

theorem setCpc (h : ChOnly c ks s x) (hmem : 5 ∈ ks) (v : Nat) : ChOnly c ks s (setCpc c v x) := h.setChR hmem (by decide) _

theorem setChan (h : ChOnly c ks s x) (z : Chan) : ChOnly c ks s (setChan c z x) :=
  h.trans ⟨rfl, fun _ hd => chanAt_setChan_ne x z hd, fun _ _ _ _ => rfl⟩

theorem modChan (h : ChOnly c ks s x) (f : Chan → Chan) : ChOnly c ks s (modChan c f x) := h.setChan _

theorem mem (h : ChOnly c ks s x) : x.mem = s.mem := by rw [h.1]

theorem hops (h : ChOnly c ks s x) : x.hops = s.hops := by rw [h.1]

theorem fifo (h : ChOnly c ks s x) : x.fifo = s.fifo := by rw [h.1]

theorem chan_ne (h : ChOnly c ks s x) {t : Nat} (ht : t ≠ c) : chanAt x t = chanAt s t := h.2.1 t ht

/-- Every register of another channel stands. -/
theorem chR_ne (h : ChOnly c ks s x) (hks : ∀ k ∈ ks, k < 0x18) {t j : Nat} (ht : t ≠ c) (hj : j < 0x18) :
    chR x t j = chR s t j := by
  refine h.2.2 _ _ (chBase_add_lt t hj) ?_
  by_cases hp : pgTrch t = pgTrch c
  · refine .inr fun k hk => ?_
    have := chReg_apart hj (hks k hk) ht
    tauto
  · exact .inl hp

/-- A register of the channel that is not listed stands. -/
theorem chR_same (h : ChOnly c ks s x) {j : Nat} (hj : j < 0x18) (hmem : j ∉ ks) : chR x c j = chR s c j := by
  refine h.2.2 _ _ (chBase_add_lt c hj) (.inr fun k hk heq => hmem ?_)
  obtain rfl : j = k := by omega
  exact hk

/-- A register of a page that is no channel page stands. -/
theorem reg_page (h : ChOnly c ks s x) {p o : Nat} (ho : o < 1024) (hp : p ≠ pgTrch c) : reg x p o = reg s p o :=
  h.2.2 p o ho (.inl hp)

end ChOnly

namespace Sys2Proof.Machine

/-! ## What acts beside the channels -/

/-- The registers that reports, events and walks leave alone: those of the channels, the translation root, and all of the TREL page
but its status and its RAW bits. -/
def AsideReg (p o : Nat) : Prop :=
  o < 1024 ∧ (p = pgXlat ∧ o = 0x010 ∨ (0x00A ≤ p ∧ p < 0x00E) ∨ p = pgTrel ∧ o ≠ 3 ∧ o ≠ 4)

/-- Nothing that a channel's command goes by has changed: memory, channels, domains, and the registers above; what TREL has reported
stays reported. -/
structure Aside (s s' : State) : Prop where
  mem : s'.mem = s.mem
  chans : s'.chans = s.chans
  dom : s'.dom = s.dom
  regs : ∀ p o, AsideReg p o → reg s' p o = reg s p o
  raw : ∀ n, regB s pgTrel 4 n = true → regB s' pgTrel 4 n = true

namespace Aside

variable {s x y : State}

theorem refl (s : State) : Aside s s := ⟨rfl, rfl, rfl, fun _ _ _ => rfl, fun _ => id⟩

theorem trans (h : Aside s x) (h' : Aside x y) : Aside s y :=
  ⟨h'.mem.trans h.mem, h'.chans.trans h.chans, h'.dom.trans h.dom, fun p o ho => (h'.regs p o ho).trans (h.regs p o ho),
    fun n hn => h'.raw n (h.raw n hn)⟩

theorem setReg (h : Aside s x) {pg off : Nat} (v : Word) (hoff : off < 1024) (hout : ¬ AsideReg pg off)
    (hraw : pg ≠ pgTrel ∨ off ≠ 4) : Aside s (setReg pg off v x) := by
  refine h.trans ⟨rfl, rfl, rfl, fun p o ho => ?_, fun n hn => ?_⟩
  · rw [reg_setReg x v ho.1 hoff, if_neg]
    rintro ⟨rfl, rfl⟩
    exact hout ho
  · rwa [regB, reg_setReg x v (by decide) hoff, if_neg (by omega)]

theorem of_arrivals {T U : Nat → Prop} (h : Arrivals T U s x) : Aside s x := by
  refine ⟨by rw [h.fields], by rw [h.fields], by rw [h.fields], fun p o ho => ?_, fun n hn => ?_⟩
  · obtain ⟨hlt, hpage⟩ := ho
    have hp : p < 0x100 ∧ p ≠ pgNurs := by
      simp only [pgXlat, pgTrel, pgNurs] at hpage ⊢
      omega
    exact h.pages p o hlt hp.1 (.inl hp.2)
  · rwa [regB, h.pages pgTrel 4 (by decide) (by decide) (.inl (by decide))]

variable (h : Aside s x)
include h

theorem chanAt_eq (c : Nat) : chanAt x c = chanAt s c := by rw [chanAt, h.chans, chanAt]

theorem chR_eq {c k : Nat} (hc : c < 128) (hk : k < 0x18) : chR x c k = chR s c k :=
  h.regs _ _ ⟨chBase_add_lt c hk, .inr (.inl (pgTrch_range hc))⟩

end Aside

/-- Updates outside memory, channels, domains and registers are beside the channels. -/
theorem aside_of_eq {s x : State} (hmem : x.mem = s.mem) (hchans : x.chans = s.chans) (hdom : x.dom = s.dom) (hregs : x.regs = s.regs) :
    Aside s x := by
  have hreg : ∀ p o, reg x p o = reg s p o := fun p o => by rw [reg, hregs, reg]
  exact ⟨hmem, hchans, hdom, fun p o _ => hreg p o, fun n hn => by rwa [regB, hreg]⟩

/-- A hopper's registers are beside the channels. -/
theorem hopPage_aside {h : Nat} (hh : h < 256) (o : Nat) : ¬ AsideReg (pgHop h) o ∧ pgHop h ≠ pgTrel := by
  unfold AsideReg pgHop pgXlat pgTrel
  omega

theorem hopReg_lt (h : Nat) {k : Nat} (hk : k < 7) : hopBase h + k < 1024 := by
  unfold hopBase
  omega

/-- An accepted push reaches gauges and, by its notice, tines (R252, R260). -/
theorem hopAccept_aside (h : Nat) (item : Word) (s : State) : Aside s (hopAccept h item s) := by
  unfold hopAccept
  extract_lets q before tail s1
  obtain ⟨g, hg⟩ := gaugeTake_eq 4 h (before + 1 : Nat) false s1
  rw [hg]
  have hpush : Aside s { s1 with gauges := g } := aside_of_eq rfl rfl rfl rfl
  obtain hnone | ⟨level, unit, n, hn, hevent⟩ := hopNotice_cases h before { s1 with gauges := g }
  · rw [hnone]
    exact hpush
  · rw [hevent]
    exact hpush.trans (.of_arrivals (raiseUnit_arrivals hn level unit _))

theorem hopDrop_aside {h : Nat} (hh : h < 256) {s x : State} (hx : Aside s x) : Aside s (hopDrop h x) :=
  hx.setReg _ (hopReg_lt h (by decide)) (hopPage_aside hh _).1 (.inl (hopPage_aside hh 0).2)

theorem hopOffer_aside {h : Nat} (hh : h < 256) (item : Word) (s : State) : Aside s (hopOffer h item s).2 := by
  unfold hopOffer
  split
  · exact .refl s
  split
  · exact hopDrop_aside hh (.refl s)
  split
  · exact .refl s
  · exact hopAccept_aside h item s

theorem msixSend_aside (v : Nat) (s : State) : Aside s (msixSend v s) := by
  unfold msixSend
  split
  · exact .refl s
  split <;> exact aside_of_eq rfl rfl rfl rfl

/-- The pages whose reports are beside the channels: TREL, and those that hold none of the registers above. -/
def AsidePage (pg : Nat) : Prop := pg = pgTrel ∨ pg ≠ pgTrel ∧ ∀ o, ¬ AsideReg pg o

/-- A page delivers to a hopper and to the host (R455). -/
theorem pageDeliver_aside {pg : Nat} (hpg : AsidePage pg) (s : State) : Aside s (pageDeliver pg s) := by
  have hstat : ¬ AsideReg pg 3 := by
    obtain rfl | ⟨-, h⟩ := hpg
    · simp [AsideReg, pgTrel, pgXlat]
    · exact h 3
  have hhop : getF (reg s pg 2) 3 8 < 256 := getF_lt (reg s pg 2) 3 8
  unfold pageDeliver
  extract_lets c s1
  have hs1 : Aside s s1 := by
    simp only [s1]
    split
    · have hoffer := hopOffer_aside hhop (wd (getF c 12 4 * 2 ^ 36 + 2 * 2 ^ 32 + pg % 512)) s
      split
      · next s' heq => rw [heq] at hoffer; exact hoffer
      · next s' heq => rw [heq] at hoffer; exact hoffer
      · next s' _ _ heq =>
        rw [heq] at hoffer
        exact (hopDrop_aside hhop hoffer).setReg _ (by decide) hstat (.inr (by decide))
    · exact .refl s
  split
  · exact hs1.trans (msixSend_aside _ _)
  · exact hs1

/-- The RAW bit of a report. -/
theorem setRaw_aside {pg : Nat} (hpg : AsidePage pg) (n : Nat) (s : State) : Aside s (setRegB pg 4 n true s) := by
  obtain rfl | ⟨hne, hout⟩ := hpg
  · refine ⟨rfl, rfl, rfl, fun p o ho => ?_, fun m hm => ?_⟩
    · refine (reg_setReg s _ ho.1 (by decide)).trans (if_neg ?_)
      rintro ⟨rfl, rfl⟩
      simp [AsideReg, pgTrel, pgXlat] at ho
    · have hbit : regB (setRegB pgTrel 4 n true s) pgTrel 4 m = bit (setB (reg s pgTrel 4) n true) m :=
        congrArg (bit · m) (reg_setReg_same s pgTrel 4 _)
      have hlt : m < 40 := by
        by_contra hge
        rw [regB, bit_ge _ (by omega)] at hm
        cases hm
      rw [hbit]
      obtain rfl | hmn := eq_or_ne m n
      · exact bit_setB_same _ true hlt
      · exact (bit_setB_ne _ true hmn).trans hm
  · exact (Aside.refl s).setReg _ (by decide) (hout 4) (.inl hne)

theorem pageIrq_aside {pg : Nat} (hpg : AsidePage pg) (n : Nat) (s : State) : Aside s (pageIrq pg n s) := by
  unfold pageIrq
  extract_lets before s1
  have hraw : Aside s s1 := setRaw_aside hpg n s
  split
  · exact hraw.trans (pageDeliver_aside hpg s1)
  · exact hraw

/-- A report of TREL stands in its RAW bits (R455). -/
theorem pageIrq_raw {n : Nat} (hn : n < 40) (s : State) : regB (pageIrq pgTrel n s) pgTrel 4 n = true := by
  have hset : regB (setRegB pgTrel 4 n true s) pgTrel 4 n = true :=
    (congrArg (bit · n) (reg_setReg_same s pgTrel 4 _)).trans (bit_setB_same _ true hn)
  unfold pageIrq
  extract_lets before s1
  split
  · exact (pageDeliver_aside (.inl rfl) s1).raw n hset
  · exact hset

end Sys2Proof.Machine
end

section
/-! SUPPORT. The end of a channel's command (R206, R207, R209, R211, R218, R224, R225): how a channel is suspended, settles on its ring and
goes on, what a program error leaves, and the frames that the statements about channels share. -/

namespace Sys2Proof.Machine

/-! ## Suspending -/

section
variable (c cause : Nat) (s : State)

theorem chSuspend_only : ChOnly c [1] (chForget c (unhold c s)) (chSuspend c cause s) := by
  unfold chSuspend
  exact ((ChOnly.refl c [1] _).setChF (k := 1) (by simp) (by decide) _ _ _ |>.setStat (by simp) _ _).modChan _

theorem chSuspend_mem : (chSuspend c cause s).mem = s.mem := (chSuspend_only c cause s).mem

theorem chSuspend_hops : (chSuspend c cause s).hops = s.hops := (chSuspend_only c cause s).hops

/-- STATE and SCAUSE of a suspended channel (R224). -/
theorem chR_chSuspend_stat : chR (chSuspend c cause s) c 1 = setB (setF (chR s c 1) 0 6 (3 + 8 * cause)) 10 false := by
  have hstat : chR (setChF c 1 0 6 (3 + 8 * cause) (chForget c (unhold c s))) c 1 = setF (chR s c 1) 0 6 (3 + 8 * cause) :=
    chR_setChF_same ..
  exact (chR_setStat_same _ c 10 false).trans (by rw [hstat])

theorem chR_chSuspend {j : Nat} (hj : j < 0x18) (hne : j ≠ 1) : chR (chSuspend c cause s) c j = chR s c j :=
  (chSuspend_only c cause s).chR_same hj (by simpa using hne)

theorem chanAt_chSuspend : ∃ j, chanAt (chSuspend c cause s) c =
    { chanAt s c with prev := chState s c, errStop := false, resuming := false, journal := j } :=
  ⟨_, chanAt_modChan_same ..⟩

/-- The state of a suspended channel and its cause. -/
theorem chState_chSuspend {cause : Nat} (hcause : cause < 8) :
    chState (chSuspend c cause s) c = 3 ∧ chF (chSuspend c cause s) c 1 3 3 = cause ∧ bit (chR (chSuspend c cause s) c 1) 10 = false := by
  have hword : ∀ lo len, lo + len ≤ 6 →
      getF (chR (chSuspend c cause s) c 1) lo len = (3 + 8 * cause) / 2 ^ lo % 2 ^ len := fun lo len hle => by
    rw [chR_chSuspend_stat, getF_setB_ne _ _ (.inl (by omega)), ← Nat.zero_add lo, getF_setF_within _ hle (by decide), Nat.zero_add]
  refine ⟨(hword 0 3 (by decide)).trans (by omega), (hword 3 3 (by decide)).trans (by omega), ?_⟩
  rw [chR_chSuspend_stat]
  exact bit_setB_same _ false (by decide)

end

/-! ## The ring -/

/-- The registers that say where a ring's entries lie, and the address that a START found (R207). -/
def RingAlike (c : Nat) (s x : State) : Prop :=
  (chanAt x c).base = (chanAt s c).base ∧ ∀ k ∈ [2, 6, 7, 8], chR x c k = chR s c k

section
variable {c : Nat} {s x y : State}

theorem RingAlike.trans (h : RingAlike c s x) (h' : RingAlike c x y) : RingAlike c s y :=
  ⟨h'.1.trans h.1, fun k hk => (h'.2 k hk).trans (h.2 k hk)⟩

theorem RingAlike.of_only {ks : List Nat} (h : ChOnly c ks s x) (hks : ∀ k ∈ [2, 6, 7, 8], k ∉ ks)
    (hbase : (chanAt x c).base = (chanAt s c).base) : RingAlike c s x :=
  ⟨hbase, fun k hk => h.chR_same (by simp only [List.mem_cons, List.not_mem_nil, or_false] at hk; omega) (hks k hk)⟩

theorem RingAlike.of_aside (hc : c < 128) (h : Aside s x) : RingAlike c s x :=
  ⟨by rw [h.chanAt_eq], fun k hk => h.chR_eq hc (by simp only [List.mem_cons, List.not_mem_nil, or_false] at hk; omega)⟩

section
variable (h : RingAlike c s x)
include h

theorem RingAlike.ring : chRing x c = chRing s c := by rw [chRing, h.2 2 (by simp), chRing]
theorem RingAlike.hole : cmd12 x c = cmd12 s c := by rw [cmd12, h.2 2 (by simp), cmd12]
theorem RingAlike.size : ringSize x c = ringSize s c := by rw [ringSize, chF, h.2 6 (by simp), ringSize, chF]
theorem RingAlike.pi : ringPi x c = ringPi s c := by rw [ringPi, chF, h.2 7 (by simp), ringPi, chF]
theorem RingAlike.ci : ringCi x c = ringCi s c := by rw [ringCi, chF, h.2 8 (by simp), ringCi, chF]
theorem RingAlike.slot (i : Nat) : ringSlot x c i = ringSlot s c i := by rw [ringSlot, h.hole, h.1, ringSlot]

end

end

/-- How many passed-over entries the ring holds, and where CI then stands (R218). -/
def ringHave (s : State) (c : Nat) : Nat :=
  min ((ringPi s c + max 1 (ringSize s c) - ringCi s c) % max 1 (ringSize s c)) (chanAt s c).skip

def ringAt (s : State) (c : Nat) : Nat := (ringCi s c + ringHave s c) % max 1 (ringSize s c)

/-- The entries that SKIP passes over are consumed (R218). -/
def ringPass (c : Nat) (s : State) : State :=
  setCpc c (ringSlot s c (ringAt s c)) (setChR c 8 (wd (ringAt s c)) (modChan c (fun x => { x with skip := x.skip - ringHave s c }) s))

theorem ringSize_le (s : State) (c : Nat) : max 1 (ringSize s c) < 2 ^ 16 :=
  max_lt (by decide) (getF_lt _ _ _)

theorem ringAt_lt (s : State) (c : Nat) : ringAt s c < 2 ^ 16 :=
  (Nat.mod_lt _ (by omega)).trans (ringSize_le s c)

/-- In linear mode, inside a command, and where a channel neither runs nor waits, the ring has no say. -/
theorem ringSettle_idle {c : Nat} {s : State}
    (h : chRing s c = false ∨ (chanAt s c).phase ≠ .next ∨ chState s c ≠ 1 ∧ chState s c ≠ 2) : ringSettle c s = s := by
  unfold ringSettle
  rw [if_pos]
  rcases h with h | h | h
  · exact .inl (by simp [h])
  · exact .inr (.inl h)
  · exact .inr (.inr h)

theorem ringSettle_ring {c : Nat} {s : State} (hring : chRing s c = true) (hphase : (chanAt s c).phase = .next)
    (hstate : chState s c = 1 ∨ chState s c = 2) :
    ringSettle c s = if ringAt s c = ringPi s c then
        (if chState s c = 1 then setChF c 1 30 4 15 (setChState c 2 (ringPass c s)) else ringPass c s)
      else if chState s c = 2 then setChF c 1 30 4 0 (setChState c 1 (ringPass c s)) else ringPass c s := by
  unfold ringSettle
  rw [if_neg (by simp [hring, hphase]; omega)]
  rfl

section
variable (c : Nat) (s : State)

theorem ringPass_only : ChOnly c [1, 5, 8] s (ringPass c s) :=
  ((ChOnly.refl c [1, 5, 8] s).modChan _ |>.setChR (by simp) (by decide) _).setCpc (by simp) _

theorem chanAt_ringPass : chanAt (ringPass c s) c = { chanAt s c with skip := (chanAt s c).skip - ringHave s c } := by
  rw [ringPass, chanAt_setCpc, chanAt_setChR, chanAt_modChan_same]

theorem ringCi_ringPass : ringCi (ringPass c s) c = ringAt s c := by
  have hlt := ringAt_lt s c
  rw [ringCi, chF, ringPass, chR_setCpc_ne _ _ _ (by decide), chR_setChR_same, getF_wd _ _ _ (by decide)]
  omega

theorem walkAt_lt (hole : Bool) (a i : Nat) : walkAt hole a i < 2 ^ 32 := by
  unfold walkAt
  extract_lets k b j
  split <;> exact Nat.mod_lt _ (by decide)

/-- CPC reads as it was set (R206). -/
theorem chCpc_setCpc (v : Nat) : chCpc (setCpc c v s) c = v % 2 ^ 32 := by
  rw [chCpc, chF, chR_setCpc_same, getF_wd _ _ _ (by decide)]
  omega

theorem chCpc_ringPass : chCpc (ringPass c s) c = ringSlot s c (ringAt s c) := by
  rw [ringPass, chCpc_setCpc]
  exact Nat.mod_eq_of_lt (walkAt_lt _ _ _)

theorem stat_ringPass : chR (ringPass c s) c 1 = chR s c 1 := by
  rw [ringPass, chR_setCpc_ne _ _ _ (by decide), chR_setChR_ne _ _ _ (by decide)]
  rfl

end

/-- A ring that settles consumes what SKIP passes over and leaves the channel waiting on an empty ring, running on another
(R207, R218). -/
structure Settled (c : Nat) (s s' : State) : Prop where
  only : ChOnly c [1, 5, 8] s s'
  chan : ∃ k, chanAt s' c = { chanAt s c with skip := k }
  ci : ringCi s' c = ringAt s c
  cpc : chCpc s' c = ringSlot s c (ringAt s c)
  state : chState s' c = if ringAt s c = ringPi s c then 2 else 1
  stat : ∀ i, 3 ≤ i → i < 30 → bit (chR s' c 1) i = bit (chR s c 1) i

theorem settled_ringPass {c : Nat} {s : State} (hstate : chState s c = if ringAt s c = ringPi s c then 2 else 1) :
    Settled c s (ringPass c s) :=
  ⟨ringPass_only c s, ⟨_, chanAt_ringPass c s⟩, ringCi_ringPass c s, chCpc_ringPass c s,
    by rw [chState, chF, stat_ringPass, ← hstate, chState, chF], fun i _ _ => by rw [stat_ringPass]⟩

/-- STATE and the kind of the wait are put last. -/
theorem settled_marked {c : Nat} {s : State} {st kind : Nat} (hst : st = if ringAt s c = ringPi s c then 2 else 1) :
    Settled c s (setChF c 1 30 4 kind (setChState c st (ringPass c s))) := by
  have hword : chR (setChF c 1 30 4 kind (setChState c st (ringPass c s))) c 1 = setF (setF (chR s c 1) 0 3 st) 30 4 kind := by
    rw [chR_setChF_same, chR_setChState_same, stat_ringPass]
  have hother : ∀ j, j ≠ 1 → chR (setChF c 1 30 4 kind (setChState c st (ringPass c s))) c j = chR (ringPass c s) c j :=
    fun j hj => by rw [chR_setChF_ne _ _ _ _ _ hj, chR_setChState_ne _ _ _ hj]
  refine ⟨(ringPass_only c s |>.setChState (by simp) _).setChF (by simp) (by decide) _ _ _, ⟨_, chanAt_ringPass c s⟩, ?_, ?_, ?_, ?_⟩
  · rw [ringCi, chF, hother 8 (by decide)]
    exact ringCi_ringPass c s
  · rw [chCpc, chF, hother 5 (by decide)]
    exact chCpc_ringPass c s
  · have hlt : st < 8 := by split at hst <;> omega
    rw [chState, chF, hword, getF_setF_ne _ _ (by decide), getF_setF_same _ _ (by decide), ← hst]
    exact Nat.mod_eq_of_lt hlt
  · intro i hlo hhi
    rw [hword, bit_setF_ne _ _ (by omega), bit_setF_ne _ _ (by omega)]

theorem ringSettle_settled {c : Nat} {s : State} (hring : chRing s c = true) (hphase : (chanAt s c).phase = .next)
    (hstate : chState s c = 1 ∨ chState s c = 2) : Settled c s (ringSettle c s) := by
  rw [ringSettle_ring hring hphase hstate]
  split
  case isTrue hempty =>
    split
    · exact settled_marked (if_pos hempty).symm
    · exact settled_ringPass (by rw [if_pos hempty]; omega)
  case isFalse hleft =>
    split
    · exact settled_marked (if_neg hleft).symm
    · exact settled_ringPass (by rw [if_neg hleft]; omega)

/-! ## Going on -/

/-- The registers that a channel's going on may change. -/
def goRegs (s : State) (c : Nat) : List Nat := if chRing s c then [1, 5, 8] else [1, 5]

/-- The channel has gone on to its next command: at `next`, or in ring mode past the entry and `skip` more. -/
structure Moved (c next skip : Nat) (s s' : State) : Prop where
  only : ChOnly c (goRegs s c) s s'
  chan : ∃ k bar, chanAt s' c =
    { chanAt s c with phase := .next, tries := 0, retry := false, replays := 0, bar := bar, skip := k }
  stat : ∀ i, 3 ≤ i → i < 30 → bit (chR s' c 1) i = bit (chR s c 1) i
  linear : chRing s c = false → chCpc s' c = next % 2 ^ 32 ∧ chState s' c = 1
  ring : chRing s c = true →
    let n := max 1 (ringSize s c)
    let i := (ringCi s c + 1) % n
    let ci := (i + min ((ringPi s c + n - i) % n) skip) % n
    ringCi s' c = ci ∧ chCpc s' c = ringSlot s c ci ∧ chState s' c = (if ci = ringPi s c then 2 else 1)

section
variable {c next skip : Nat} {s x s' : State}

theorem goRegs_lt {k : Nat} (hk : k ∈ goRegs s c) : k < 0x18 := by
  unfold goRegs at hk
  split at hk <;> simp only [List.mem_cons, List.not_mem_nil, or_false] at hk <;> omega

theorem goRegs_sub (s : State) (c : Nat) : ∀ k ∈ goRegs s c, k ∈ [1, 5, 8] := by
  intro k hk
  unfold goRegs at hk
  split at hk
  · exact hk
  · simp only [List.mem_cons, List.not_mem_nil, or_false] at hk ⊢
    tauto

theorem goRegs_linear (h : chRing s c = false) : goRegs s c = [1, 5] := by simp [goRegs, h]

namespace Moved

variable (h : Moved c next skip s s')
include h

/-- Of the status word only the state and the kind of the wait may differ. -/
theorem statF {lo len : Nat} (hlo : 3 ≤ lo) (hhi : lo + len ≤ 30) : chF s' c 1 lo len = chF s c 1 lo len :=
  getF_congr fun i hi hi' => h.stat i (by omega) (by omega)

theorem finished (hgood : bit (chR s c 1) 12 = false) : Finished c next skip s s' := by
  obtain ⟨k, bar, hchan⟩ := h.chan
  exact ⟨by rw [hchan], (h.stat 12 (by decide) (by decide)).trans hgood, h.linear, h.ring⟩

theorem state : chState s' c = 1 ∨ chState s' c = 2 := by
  cases hring : chRing s c with
  | false => exact .inl (h.linear hring).2
  | true =>
    rw [(h.ring hring).2.2]
    split
    · exact .inr rfl
    · exact .inl rfl

end Moved

/-- A statement about the channel's going on that holds from a later state holds from an earlier one with the same ring. -/
theorem finished_of_alike (hsame : RingAlike c s x) (h : Finished c next skip x s') : Finished c next skip s s' := by
  refine ⟨h.phase, h.good, fun hring => h.linear (hsame.ring.trans hring), fun hring => ?_⟩
  have hrest := h.ring (hsame.ring.trans hring)
  simp only [hsame.size, hsame.ci, hsame.pi, hsame.slot] at hrest
  exact hrest

end

/-- The channel's record at the end of a command. -/
def cmdOver (c : Nat) (s : State) : State :=
  setChan c { chanAt s c with phase := .next, tries := 0, retry := false, replays := 0, bar := bit (chanAt s c).w0 5 } s

/-- The ring index after this entry (R207). -/
def ringNextCi (s : State) (c : Nat) : Nat := (ringCi s c + 1) % max 1 (ringSize s c)

/-- The entry of the command is consumed (R207). -/
def ringNext (c : Nat) (s : State) : State :=
  setCpc c (ringSlot s c (ringNextCi s c)) (setChR c 8 (wd (ringNextCi s c)) (cmdOver c s))

/-- What ends a command but for a pending suspend. -/
def chMoveOn (c : Nat) (s : State) : State :=
  if chRing s c then ringSettle c (ringNext c s) else setCpc c (chanAt s c).nextPc (cmdOver c s)

section
variable {c : Nat} {s : State}

theorem chFinish_running (hstate : chState s c ≠ 5) : chFinish c s = chBoundary c (chMoveOn c s) := by
  unfold chFinish chMoveOn ringNext ringNextCi cmdOver
  simp only [hstate, decide_false, Bool.false_eq_true, if_false]
  split <;> rfl

theorem chBoundary_quiet (hquiet : bit (chR s c 1) 10 = false) : chBoundary c s = s := by
  unfold chBoundary
  rw [if_neg (by simp [hquiet])]

theorem ringNext_only (c : Nat) (s : State) : ChOnly c [1, 5, 8] s (ringNext c s) :=
  ((ChOnly.refl c [1, 5, 8] s).setChan _ |>.setChR (by simp) (by decide) _).setCpc (by simp) _

theorem chanAt_ringNext (c : Nat) (s : State) : chanAt (ringNext c s) c =
    { chanAt s c with phase := .next, tries := 0, retry := false, replays := 0, bar := bit (chanAt s c).w0 5 } := by
  rw [ringNext, chanAt_setCpc, chanAt_setChR]
  exact chanAt_setChan_same ..

theorem stat_ringNext (c : Nat) (s : State) : chR (ringNext c s) c 1 = chR s c 1 := by
  rw [ringNext, chR_setCpc_ne _ _ _ (by decide), chR_setChR_ne _ _ _ (by decide)]
  rfl

theorem ringCi_ringNext (c : Nat) (s : State) : ringCi (ringNext c s) c = ringNextCi s c := by
  have hlt : ringNextCi s c < max 1 (ringSize s c) := Nat.mod_lt _ (by omega)
  have := ringSize_le s c
  rw [ringCi, chF, ringNext, chR_setCpc_ne _ _ _ (by decide), chR_setChR_same, getF_wd _ _ _ (by decide)]
  omega

/-- The registers of the ring but CI stand. -/
theorem chR_ringNext (s : State) {k : Nat} (hk : k < 0x18) (hne : k ∉ [1, 5, 8]) : chR (ringNext c s) c k = chR s c k :=
  (ringNext_only c s).chR_same hk hne

theorem ringAt_ringNext (c : Nat) (s : State) : ringAt (ringNext c s) c = (ringNextCi s c +
    min ((ringPi s c + max 1 (ringSize s c) - ringNextCi s c) % max 1 (ringSize s c)) (chanAt s c).skip) % max 1 (ringSize s c) := by
  have hsize : ringSize (ringNext c s) c = ringSize s c := by rw [ringSize, chF, chR_ringNext s (by decide) (by decide), ringSize, chF]
  have hpi : ringPi (ringNext c s) c = ringPi s c := by rw [ringPi, chF, chR_ringNext s (by decide) (by decide), ringPi, chF]
  simp only [ringAt, ringHave, ringCi_ringNext, hsize, hpi, chanAt_ringNext]

/-- In ring mode the channel goes past its entry, and past what SKIP passes over (R207, R218). -/
theorem chMoveOn_ring (hstate : chState s c = 1) (hring : chRing s c = true) :
    Moved c (chanAt s c).nextPc (chanAt s c).skip s (ringSettle c (ringNext c s)) := by
  have hsettled : Settled c (ringNext c s) (ringSettle c (ringNext c s)) :=
    ringSettle_settled (by rw [chRing, chR_ringNext s (by decide) (by decide)]; exact hring) (by rw [chanAt_ringNext])
      (.inl (by rw [chState, chF, stat_ringNext]; exact hstate))
  have hslot : ∀ i, ringSlot (ringNext c s) c i = ringSlot s c i := fun i => by
    rw [ringSlot, cmd12, chR_ringNext s (by decide) (by decide), chanAt_ringNext, ringSlot, cmd12]
  have hpi : ringPi (ringNext c s) c = ringPi s c := by rw [ringPi, chF, chR_ringNext s (by decide) (by decide), ringPi, chF]
  have hlist : goRegs s c = [1, 5, 8] := by simp [goRegs, hring]
  have hat := ringAt_ringNext c s
  obtain ⟨k, hk⟩ := hsettled.chan
  refine ⟨hlist ▸ (ringNext_only c s).trans hsettled.only, ⟨k, _, by rw [hk, chanAt_ringNext]⟩, fun i hlo hhi => ?_,
    fun hlinear => absurd (hring.symm.trans hlinear) (by decide), fun _ => ⟨hsettled.ci.trans hat, ?_, ?_⟩⟩
  · rw [hsettled.stat i hlo hhi, stat_ringNext]
  · rw [hsettled.cpc, hslot, hat]
    rfl
  · rw [hsettled.state, hpi, hat]
    rfl

/-- In linear mode it goes to its next command (R206). -/
theorem chMoveOn_linear (hstate : chState s c = 1) (hring : chRing s c = false) :
    Moved c (chanAt s c).nextPc (chanAt s c).skip s (setCpc c (chanAt s c).nextPc (cmdOver c s)) := by
  have hstat : chR (setCpc c (chanAt s c).nextPc (cmdOver c s)) c 1 = chR s c 1 := chR_setCpc_ne _ _ _ (by decide)
  refine ⟨?_, ⟨(chanAt s c).skip, _, chanAt_setChan_same s c _⟩, fun i _ _ => by rw [hstat], fun _ => ⟨chCpc_setCpc c _ _, ?_⟩,
    fun hr => absurd (hring.symm.trans hr) (by decide)⟩
  · rw [goRegs_linear hring]
    exact ((ChOnly.refl c [1, 5] s).setChan _).setCpc (by simp) _
  · rw [chState, chF, hstat]
    exact hstate

theorem chMoveOn_moved (hstate : chState s c = 1) : Moved c (chanAt s c).nextPc (chanAt s c).skip s (chMoveOn c s) := by
  unfold chMoveOn
  split
  · next hring => exact chMoveOn_ring hstate hring
  · next hring => exact chMoveOn_linear hstate (by simpa using hring)

/-- A running channel with no suspend pending goes on. -/
theorem chFinish_moved (hstate : chState s c = 1) (hquiet : bit (chR s c 1) 10 = false) :
    Moved c (chanAt s c).nextPc (chanAt s c).skip s (chFinish c s) := by
  have h := chMoveOn_moved hstate
  rw [chFinish_running (by omega), chBoundary_quiet ((h.stat 10 (by decide) (by decide)).trans hquiet)]
  exact h

end

/-! ## The end of a command -/

section
variable {c st : Nat} {s : State}

theorem chState_setStat (b : Nat) (v : Bool) (hb : 3 ≤ b) : chState (setStat c b v s) c = chState s c := by
  rw [chState, chF, chR_setStat_same, getF_setB_ne _ _ (.inl (by omega)), chState, chF]

theorem chDone_plain (hplain : bit (chanAt s c).w0 6 = false) (hst : st ≠ 3) :
    chDone c st s = chFinish c (setStat c 12 false s) := by
  unfold chDone
  exact if_neg (by simp [hplain, hst])

/-- A running channel whose command is done, with no status half asked for and no suspend pending, goes on. -/
theorem chDone_moved (hplain : bit (chanAt s c).w0 6 = false) (hst : st ≠ 3) (hstate : chState s c = 1)
    (hquiet : bit (chR s c 1) 10 = false) :
    Moved c (chanAt s c).nextPc (chanAt s c).skip (setStat c 12 false s) (chDone c st s) := by
  rw [chDone_plain hplain hst]
  refine chFinish_moved ((chState_setStat 12 false (by decide)).trans hstate) ?_
  rw [chR_setStat_same, bit_setB_ne _ _ (by decide)]
  exact hquiet

end

/-- The command is done and the channel has gone on; of its status word only STATE, bit 12 and the kind of the wait have changed. -/
structure Done (c : Nat) (s s' : State) : Prop where
  fin : Finished c (chanAt s c).nextPc (chanAt s c).skip s s'
  only : ChOnly c (goRegs s c) s s'
  stat : ∀ i, 3 ≤ i → i < 30 → i ≠ 12 → bit (chR s' c 1) i = bit (chR s c 1) i
  chan : ∃ k bar, chanAt s' c =
    { chanAt s c with phase := .next, tries := 0, retry := false, replays := 0, bar := bar, skip := k }

theorem ringAlike_setStat (c b : Nat) (v : Bool) (s : State) : RingAlike c s (setStat c b v s) :=
  .of_only ((ChOnly.refl c [1] s).setStat (by simp) b v) (by decide) rfl

/-- A running channel that will go on when its command ends: no suspend is pending, and no status half is asked for. -/
structure Going (c : Nat) (s : State) : Prop where
  state : chState s c = 1
  quiet : bit (chR s c 1) 10 = false
  plain : bit (chanAt s c).w0 6 = false

theorem one_mem_goRegs (s : State) (c : Nat) : 1 ∈ goRegs s c := by
  unfold goRegs
  split <;> simp

theorem chDone_done {c st : Nat} {s : State} (h : Going c s) (hst : st ≠ 3) : Done c s (chDone c st s) := by
  have h := chDone_moved h.plain hst h.state h.quiet
  have hring := ringAlike_setStat c 12 false s
  have hregs : goRegs (setStat c 12 false s) c = goRegs s c := by rw [goRegs, hring.ring, goRegs]
  have hgood : bit (chR (setStat c 12 false s) c 1) 12 = false := by
    rw [chR_setStat_same]
    exact bit_setB_same _ false (by decide)
  refine ⟨finished_of_alike hring (h.finished hgood), ?_, fun i hlo hhi hne => ?_, h.chan⟩
  · exact ((ChOnly.refl c _ s).setStat (one_mem_goRegs s c) 12 false).trans (hregs ▸ h.only)
  · rw [h.stat i hlo hhi, chR_setStat_same, bit_setB_ne _ _ hne]

namespace Done

variable {c : Nat} {s s' : State} (h : Done c s s')
include h

theorem statF {lo len : Nat} (hlo : 3 ≤ lo) (hhi : lo + len ≤ 30) (hne : lo + len ≤ 12 ∨ 13 ≤ lo) :
    chF s' c 1 lo len = chF s c 1 lo len :=
  getF_congr fun i hi hi' => h.stat i (by omega) (by omega) (by omega)

theorem only' : ChOnly c [1, 5, 8] s s' := h.only.mono (goRegs_sub s c)

/-- A register of another channel stands. -/
theorem chR_ne {t j : Nat} (ht : t ≠ c) (hj : j < 0x18) : chR s' t j = chR s t j :=
  h.only.chR_ne (fun _ => goRegs_lt) ht hj

end Done

/-! ## What is done before a command ends -/

/-- Channel `c` is in state `x` as it is in `s`, as far as the end of its command goes. -/
structure Prepared (c : Nat) (s x : State) : Prop where
  state : chState x c = chState s c
  quiet : bit (chR x c 1) 10 = bit (chR s c 1) 10
  word : (chanAt x c).w0 = (chanAt s c).w0
  ring : RingAlike c s x

namespace Prepared

variable {s x : State} {c k : Nat}

theorem refl (c : Nat) (s : State) : Prepared c s s := ⟨rfl, rfl, rfl, rfl, fun _ _ => rfl⟩

/-- What leaves the channel and its registers alone. -/
theorem of_same (hchan : chanAt x c = chanAt s c) (hregs : ∀ k, k < 0x18 → chR x c k = chR s c k) : Prepared c s x :=
  ⟨by rw [chState, chF, hregs 1 (by decide), chState, chF], by rw [hregs 1 (by decide)], by rw [hchan], by rw [hchan], fun k hk =>
    hregs k (by simp only [List.mem_cons, List.not_mem_nil, or_false] at hk; omega)⟩

theorem of_aside (hc : c < 128) (h : Aside s x) : Prepared c s x := .of_same (h.chanAt_eq c) fun _ hk => h.chR_eq hc hk

/-- A change of what the channel remembers. -/
theorem modChan (h : Prepared c s x) {f : Chan → Chan} (hword : (f (chanAt x c)).w0 = (chanAt x c).w0)
    (hbase : (f (chanAt x c)).base = (chanAt x c).base) : Prepared c s (modChan c f x) :=
  ⟨h.state, h.quiet, by rw [chanAt_modChan_same, hword, h.word],
    h.ring.trans ⟨by rw [chanAt_modChan_same, hbase], fun _ _ => rfl⟩⟩

/-- A register that holds neither the state nor the ring. -/
theorem setChR (h : Prepared c s x) (hfree : k ∉ [1, 2, 6, 7, 8]) (v : Word) : Prepared c s (setChR c k v x) := by
  have hkeep : ∀ j ∈ [1, 2, 6, 7, 8], chR (Machine.setChR c k v x) c j = chR x c j := fun j hj =>
    chR_setChR_ne x c v fun hjk => hfree (hjk ▸ hj)
  refine ⟨?_, ?_, h.word, h.ring.trans ⟨rfl, fun j hj => hkeep j (List.mem_cons_of_mem 1 hj)⟩⟩
  · rw [chState, chF, hkeep 1 (by simp), ← h.state, chState, chF]
  · rw [hkeep 1 (by simp), h.quiet]

/-- A field of the status word beside the state and the pending suspend. -/
theorem setStatF (h : Prepared c s x) {lo len : Nat} (hlo : 3 ≤ lo) (hne : lo + len ≤ 10 ∨ 11 ≤ lo) (v : Nat) :
    Prepared c s (setChF c 1 lo len v x) := by
  have hstat : chR (setChF c 1 lo len v x) c 1 = setF (chR x c 1) lo len v := chR_setChF_same ..
  refine ⟨?_, ?_, h.word, h.ring.trans ⟨rfl, fun j hj => ?_⟩⟩
  · rw [chState, chF, hstat, getF_setF_ne _ _ (.inl (by omega)), ← h.state, chState, chF]
  · rw [hstat, bit_setF_ne _ _ (by omega), h.quiet]
  · refine chR_setChF_ne _ _ _ _ _ ?_
    rintro rfl
    simp at hj

theorem setStat (h : Prepared c s x) {b : Nat} (hb : 3 ≤ b) (hne : b ≠ 10) (v : Bool) : Prepared c s (setStat c b v x) :=
  h.setStatF (lo := b) (len := 1) hb (by omega) _

theorem fltClear (h : Prepared c s x) : Prepared c s (fltClear c x) := by
  unfold Machine.fltClear
  exact h.modChan rfl rfl

variable (h : Prepared c s x)
include h

theorem going (hgo : Going c s) : Going c x := ⟨h.state.trans hgo.state, h.quiet.trans hgo.quiet, h.word ▸ hgo.plain⟩

/-- The command completes. -/
theorem done (hgo : Going c s) : Done c x (chDone c 1 x) := chDone_done (h.going hgo) (by decide)

theorem goRegs_eq : goRegs x c = goRegs s c := by rw [goRegs, h.ring.ring, goRegs]

/-- The completion goes on from where the command began. -/
theorem finished {s' : State} (hdone : Done c x s') {next skip : Nat} (hnext : (chanAt x c).nextPc = next)
    (hskip : (chanAt x c).skip = skip) : Finished c next skip s s' :=
  finished_of_alike h.ring (hnext ▸ hskip ▸ hdone.fin)

/-- What the completion changes beside what was prepared. -/
theorem only {s' : State} {ks : List Nat} (hx : ChOnly c ks s x) (hdone : Done c x s') {ks' : List Nat}
    (hsub : ∀ k ∈ ks, k ∈ ks') (hgo : ∀ k ∈ goRegs s c, k ∈ ks') : ChOnly c ks' s s' :=
  (hx.mono hsub).trans (hdone.only.mono (h.goRegs_eq ▸ hgo))

end Prepared

/-! ## Program errors -/

theorem asidePage_trel : AsidePage pgTrel := .inl rfl

/-- A program error suspends the channel at its command, whatever the channel was doing (R211). -/
theorem progErr_spec {c code : Nat} (hc : c < 128) (hcode : code < 32) (s : State) : ProgErr c code s (progErr c code s) := by
  unfold progErr
  extract_lets s1
  set x := modChan c (fun x => { x with phase := .next, tries := 0, retry := false }) s1
  have haside := pageIrq_aside asidePage_trel 0 x
  have hR : ∀ k, k < 0x18 → chR (pageIrq pgTrel 0 x) c k = chR s1 c k := fun k hk => (haside.chR_eq hc hk).trans (chR_modChan ..)
  have hstat : chR s1 c 1 = setF (chR (chSuspend c 5 s) c 1) 17 5 code := chR_setChF_same ..
  obtain ⟨hstate, hcause, -⟩ := chState_chSuspend c s (cause := 5) (by decide)
  refine ⟨⟨?_, ?_, ?_⟩, ⟨?_, ?_⟩, pageIrq_raw (by decide) x, ?_⟩
  · rw [chState, chF, hR 1 (by decide), hstat, getF_setF_ne _ _ (by decide)]
    exact hstate
  · rw [chF, hR 1 (by decide), hstat, getF_setF_ne _ _ (by decide)]
    exact hcause
  · rw [chF, hR 1 (by decide), hstat, getF_setF_same _ _ (by decide)]
    exact Nat.mod_eq_of_lt hcode
  · rw [chCpc, chF, hR 5 (by decide), chCpc, chF, chR_setChF_ne _ _ _ _ _ (by decide), chR_chSuspend _ _ _ (by decide) (by decide)]
  · rw [haside.chanAt_eq, chanAt_modChan_same]
  · rw [haside.mem]
    exact chSuspend_mem c 5 s

/-- A program error from a later state with the same memory and CPC. -/
theorem progErr_of_same {c code : Nat} {s x s' : State} (hmem : x.mem = s.mem) (hcpc : chCpc x c = chCpc s c)
    (h : ProgErr c code x s') : ProgErr c code s s' :=
  ⟨h.state, ⟨h.place.1.trans hcpc, h.place.2⟩, h.report, h.memory.trans hmem⟩

end Sys2Proof.Machine
end

section
/-! SUPPORT. The fetch of a channel's command (R205, R208, R209, R211, R244): words of Shed that a channel reaches untranslated, what a
fetched command leaves, and the statement about CMD_FETCH and the replay of a fetch. -/

namespace Sys2Proof.Machine

/-! ## Plain words of a channel -/

section
variable {s x : State} {c va : Nat}

theorem addrSub_shed_run {b : Bool} (hreg : regionOf va = .shed b) (hrun : domSt s (if b then domShdb else domShda) = .run)
    (hres : reservedPa va = false) {a : Acc} (hswap : a.swap = false) : addrSub s a va = 0 := by
  have hasleep : domAsleep s (if b then domShdb else domShda) = false := by simp [domAsleep, hrun]
  simp [addrSub, ownPa_shed hreg, hreg, hasleep, hres, hswap]

/-- A plain word passes the checks of every access but a swap (R181–R184, R197). -/
theorem chanXlat_plain (h : ChPlain s c va) {a : Acc} (hswap : a.swap = false) (fetch : Bool) :
    chanXlat c va a fetch s = (.pa va, s) := by
  obtain ⟨hoff, hwalled, hres, b, hreg, hrun⟩ := h
  have hspace : cmdSpace (ownPa s va) = true := by rw [ownPa_shed hreg, cmdSpace, hreg]
  have hphys : physChecks s true a fetch va = .pa va := by
    unfold physChecks
    rw [hspace, Bool.not_true, Bool.and_false, if_neg Bool.false_ne_true, addrSub_shed_run hreg hrun hres hswap,
      pageWorld_plain (.inr ⟨b, hreg⟩)]
    rfl
  have howner : regB s (pgTrch c) (chBase c + 3) 0 = true := hwalled
  unfold chanXlat
  simp only [hoff, howner, Bool.not_false, if_true, hphys]

theorem ownPa_chPlain (h : ChPlain s c va) (x : State) : ownPa x va = va := by
  obtain ⟨-, -, -, b, hreg, -⟩ := h
  exact ownPa_shed hreg x

/-- A plain word stays so beside a channel's own doings. -/
theorem chPlain_of_same (h : ChPlain s c va) (hxlat : reg x pgXlat 0x010 = reg s pgXlat 0x010) (hown : chR x c 3 = chR s c 3)
    (hdom : x.dom = s.dom) : ChPlain x c va := by
  obtain ⟨hoff, hwalled, hres, b, hreg, hrun⟩ := h
  refine ⟨by rw [hxlat]; exact hoff, by rw [chWalled, hown]; exact hwalled, hres, b, hreg, ?_⟩
  rw [domSt, hdom]
  exact hrun

theorem chPlain_of_only {d : Nat} {ks : List Nat} (h : ChPlain s c va) (hx : ChOnly d ks s x) (hd : d < 128)
    (hown : chR x c 3 = chR s c 3) : ChPlain x c va :=
  chPlain_of_same h (hx.reg_page (by decide) (by have := pgTrch_range hd; unfold pgXlat; omega)) hown (by rw [hx.1])

theorem chPlain_of_aside (h : ChPlain s c va) (hc : c < 128) (hx : Aside s x) : ChPlain x c va :=
  chPlain_of_same h (hx.regs _ _ ⟨by decide, .inl ⟨rfl, rfl⟩⟩) (hx.chR_eq hc (by decide)) hx.dom

theorem awake_chPlain (h : ChPlain s c va) (hclean : ueAt s va = false) : Awake s va := by
  obtain ⟨-, -, -, b, hreg, hrun⟩ := h
  have hlow := ownPa_shed hreg s
  refine ⟨.inr ⟨b, hreg⟩, hclean, fun d hd => ?_⟩
  rw [paDom, hreg] at hd
  obtain rfl : (if b then domShdb else domShda) = d := Option.some.inj hd
  exact ⟨domHeld_of_run hrun, by simp [domAsleep, hrun]⟩

/-- A channel reads a plain clean word at once (R205, R244). -/
theorem chRead_plain {w : Word} (h : ChReads s c va w) (fetch : Bool) : chRead c va .ok fetch s = (.word w va, s) := by
  obtain ⟨hplain, hclean, hown, rfl⟩ := h
  have hawake := awake_chPlain hplain hclean
  have hxlat := chanXlat_plain hplain (a := { store := false }) rfl fetch
  unfold chRead
  simp only [hxlat, ownPa_chPlain hplain, hown, physWaits_awake hawake, physRead_awake hawake,
    Bool.false_eq_true, if_false, reduceCtorEq]

end

/-- A word that a channel reads it reads after a change of what it remembers. -/
theorem chReads_of_same {s x : State} {c va : Nat} {w : Word} (h : ChReads s c va w) (hxlat : reg x pgXlat 0x010 = reg s pgXlat 0x010)
    (hown : chR x c 3 = chR s c 3) (hdom : x.dom = s.dom) (hmem : x.mem = s.mem) (hue : x.ue = s.ue)
    (houtst : (chanAt x c).outst = (chanAt s c).outst) : ChReads x c va w := by
  obtain ⟨hplain, hclean, hfree, hword⟩ := h
  refine ⟨chPlain_of_same hplain hxlat hown hdom, ?_, ?_, ?_⟩
  · rw [ueAt, hue]
    exact hclean
  · rw [ownWrite?, houtst]
    exact hfree
  · rw [memGet, hmem]
    exact hword

/-! ## The fetched command -/

section
variable {c : Nat} {s : State}

theorem fltClear_only (c : Nat) (ks : List Nat) (s : State) : ChOnly c ks s (fltClear c s) := by
  unfold fltClear
  exact (ChOnly.refl c ks s).modChan _

/-- What an access that succeeds leaves of its channel's record (R247, R248). -/
theorem chanAt_fltClear (c : Nat) (s : State) : ∃ j r, chanAt (fltClear c s) c =
    { chanAt s c with journal := j, resuming := r, tries := 0, retry := false } := ⟨_, _, chanAt_modChan_same ..⟩

/-- A fetch reads both words (R205). -/
theorem chFetch_plain {w0 w1 : Word} (hslot : slotOk (cmd12 s c) (chCpc s c) = true)
    (hbase : chRing s c = true → slotOk (cmd12 s c) (chanAt s c).base = true) (h0 : ChReads s c (chCpc s c) w0)
    (h1 : ChReads s c (chCpc s c + 1) w1) : chFetch c .ok .ok s = chGot c w0 w1 s := by
  have hplaced : ¬ ((!slotOk (cmd12 s c) (chCpc s c)) = true ∨
      chRing s c = true ∧ (!slotOk (cmd12 s c) (chanAt s c).base) = true) := by
    rintro (h | ⟨hring, h⟩)
    · simp [hslot] at h
    · simp [hbase hring] at h
  unfold chFetch
  simp only [if_neg hplaced, chRead_plain h0, chRead_plain h1]

theorem chFetch_misplaced (up0 up1 : Upset) (h : ¬ (slotOk (cmd12 s c) (chCpc s c) = true ∧
    (chRing s c = true → slotOk (cmd12 s c) (chanAt s c).base = true))) : chFetch c up0 up1 s = progErr c 6 s := by
  unfold chFetch
  refine if_pos ?_
  by_contra hnot
  refine h ⟨by_contra fun hs => hnot (.inl (by simpa using hs)), fun hring => by_contra fun hb => hnot (.inr ⟨hring, by simpa using hb⟩)⟩

section
variable {w0 w1 : Word}

/-- A command that is marked BAD is passed over outside strict mode (R209). -/
theorem chGot_bad (hbad : getF w1 20 2 = 2) (hstrict : bit (chR s c 2) 3 = false) (hstate : chState s c = 1)
    (hquiet : bit (chR s c 1) 10 = false) :
    Finished c (walkNext (cmd12 s c) (chCpc s c)) (chanAt s c).skip s (chGot c w0 w1 s) ∧
      ChOnly c [1, 5, 8] s (chGot c w0 w1 s) ∧ (chanAt (chGot c w0 w1 s) c).replays = 0 := by
  have hgot : chGot c w0 w1 s = chSkipBad c (fltClear c s) := if_pos ⟨hbad, by simpa [fltClear] using hstrict⟩
  obtain ⟨j, r, hflt⟩ := chanAt_fltClear c s
  set x := setStat c 12 false (modChan c (fun x => { x with w0 := 0, nextPc := walkNext (cmd12 s c) (chCpc s c) }) (fltClear c s))
    with hx
  have hfinish : chGot c w0 w1 s = chFinish c x := hgot
  have hx_only : ChOnly c [1] s x := ((fltClear_only c [1] s).modChan _).setStat (by simp) 12 false
  have hx_chan : chanAt x c = { chanAt (fltClear c s) c with w0 := 0, nextPc := walkNext (cmd12 s c) (chCpc s c) } := by
    rw [hx, chanAt_setStat, chanAt_modChan_same]
  have hstat : chR x c 1 = setB (chR s c 1) 12 false := chR_setStat_same ..
  have hmoved : Moved c (chanAt x c).nextPc (chanAt x c).skip x (chFinish c x) := by
    refine chFinish_moved ?_ ?_
    · rw [chState, chF, hstat, getF_setB_ne _ _ (by decide)]
      exact hstate
    · rw [hstat, bit_setB_ne _ _ (by decide)]
      exact hquiet
  have hsame : RingAlike c s x := .of_only hx_only (by decide) (by rw [hx_chan, hflt])
  have hgood : bit (chR x c 1) 12 = false := by
    rw [hstat]
    exact bit_setB_same _ false (by decide)
  have hfin := finished_of_alike hsame (hmoved.finished hgood)
  rw [hx_chan, hflt] at hfin
  obtain ⟨k, bar, hchan⟩ := hmoved.chan
  rw [hfinish]
  refine ⟨hfin, (hx_only.mono (by simp)).trans (hmoved.only.mono (goRegs_sub x c)), by rw [hchan]⟩

/-- Any other command is taken, with the address of the next, and its form is checked (R208, R211). -/
def chTaken (c : Nat) (w0 w1 : Word) (s : State) : State :=
  modChan c (fun x => { x with
    phase := .got w0 w1, w0 := w0, nextPc := walkNext (cmd12 s c) (chCpc s c), cfg := chR s c 2 }) (fltClear c s)

theorem chGot_taken (h : getF w1 20 2 ≠ 2 ∨ bit (chR s c 2) 3 = true) :
    chGot c w0 w1 s =
      let e := formErr (chRing s c) (w0.toNat + 2 ^ 40 * w1.toNat)
      if e = 0 then chTaken c w0 w1 s else progErr c e (chTaken c w0 w1 s) := by
  refine if_neg ?_
  rintro ⟨hbad, hstrict⟩
  obtain h | h := h
  · exact h hbad
  · have hstrict : (!bit (chR s c 2) 3) = true := hstrict
    rw [h] at hstrict
    exact Bool.false_ne_true hstrict

theorem chTaken_only (ks : List Nat) (w0 w1 : Word) (s : State) : ChOnly c ks s (chTaken c w0 w1 s) :=
  (fltClear_only c ks s).modChan _

theorem chanAt_chTaken (w0 w1 : Word) (s : State) : ∃ j r, chanAt (chTaken c w0 w1 s) c = { chanAt s c with
    journal := j, resuming := r, tries := 0, retry := false, phase := .got w0 w1, w0 := w0
    nextPc := walkNext (cmd12 s c) (chCpc s c), cfg := chR s c 2 } := by
  obtain ⟨j, r, h⟩ := chanAt_fltClear c s
  exact ⟨j, r, by rw [chTaken, chanAt_modChan_same, h]⟩

theorem formErr_lt (ring : Bool) (cmd : Nat) : formErr ring cmd < 32 := by
  unfold formErr
  extract_lets op
  split
  · decide
  split
  · decide
  split
  · decide
  split <;> decide

end

end

theorem chRuns_state {s : State} {c : Nat} (h : chRuns s c = true) : chState s c = 1 := by
  simp only [chRuns, Bool.and_eq_true, decide_eq_true_eq] at h
  exact h.1.2

/-- CMD_FETCH fetches when the channel is ready (R205). -/
theorem exec_cmdFetch {s : State} {c : Fin 128} (hready : fetchReady s c = true) (hruns : chRuns s c = true) (up0 up1 : Upset) :
    exec (.cmdFetch c up0 up1) s = .next (chFetch c up0 up1 s) :=
  congrArg Host.Outcome.next (if_pos (by rw [hruns, hready]; rfl))

/-! ## The replay of a fetch -/

/-- The channel as its replay begins: the replay counts for the command and in TREL (R244). -/
def fetchReplayed (c : Nat) (s : State) : State := replayCount c (modChan c (fun x => { x with retry := false }) s)

section
variable {s : State} {c : Nat}

theorem exec_accessReplay_fetch {c : Fin 128} (hphase : (chanAt s c).phase = .next) (hretry : (chanAt s c).retry = true)
    (hstate : chState s c = 1) (hup : domUp s domTrel = true) :
    exec (.accessReplay c .current [.ok, .ok]) s = .next (chFetch c .ok .ok (fetchReplayed c s)) := by
  refine congrArg Host.Outcome.next ((if_pos ⟨hretry, hstate, hup⟩).trans ?_)
  unfold replayCurrent
  rw [hphase]
  rfl

theorem chanAt_fetchReplayed (hphase : (chanAt s c).phase = .next) : chanAt (fetchReplayed c s) c =
    { chanAt s c with retry := false, replays := min 255 ((chanAt s c).replays + 1) } := by
  rw [fetchReplayed, replayCount, chanAt_bumpF, chanAt_modChan_same, chanAt_modChan_same, hphase, satAdd]
  exact congrArg (fun p => { chanAt s c with retry := false, replays := min 255 ((chanAt s c).replays + 1), phase := p }) hphase.symm

theorem chR_fetchReplayed (hc : c < 128) {k : Nat} (hk : k < 0x18) : chR (fetchReplayed c s) c k = chR s c k :=
  reg_setReg_page _ _ (by have := pgTrch_range hc; unfold pgTrel; omega) (chBase_add_lt c hk) (by decide)

/-- The replay has been counted in TREL_REPLAY_CNT. -/
theorem replays_fetchReplayed : regF (fetchReplayed c s) pgTrel 0x032 0 16 = min 65535 (regF s pgTrel 0x032 0 16 + 1) := by
  have hset : regF (fetchReplayed c s) pgTrel 0x032 0 16 = satAdd (2 ^ 16 - 1) (regF s pgTrel 0x032 0 16) 1 % 2 ^ 16 :=
    (congrArg (getF · 0 16) (reg_setReg_same ..)).trans (getF_setF_same _ _ (by decide))
  rw [hset, satAdd]
  omega

theorem chReads_fetchReplayed (hc : c < 128) {va : Nat} {w : Word} (hphase : (chanAt s c).phase = .next) (h : ChReads s c va w) :
    ChReads (fetchReplayed c s) c va w :=
  chReads_of_same h (reg_setReg_page _ _ (by decide) (by decide) (by decide)) (chR_fetchReplayed hc (by decide)) rfl rfl rfl
    (by rw [chanAt_fetchReplayed hphase])

/-- A count of replays that no channel's register holds stands. -/
theorem replayCnt_of_only {x : State} {ks : List Nat} (hc : c < 128) (h : ChOnly c ks s x) :
    regF x pgTrel 0x032 0 16 = regF s pgTrel 0x032 0 16 := by
  rw [regF, h.reg_page (by decide) (by have := pgTrch_range hc; unfold pgTrel; omega), regF]

/-- A program error counts no replay. -/
theorem replayCnt_progErr (hc : c < 128) (code : Nat) (s : State) :
    regF (progErr c code s) pgTrel 0x032 0 16 = regF s pgTrel 0x032 0 16 := by
  unfold progErr
  extract_lets s1
  have honly : ChOnly c [1] (chForget c (unhold c s)) s1 := (chSuspend_only c 5 s).setChF (by simp) (by decide) _ _ _
  rw [regF, (pageIrq_aside asidePage_trel 0 _).regs _ _ ⟨by decide, .inr (.inr (by decide))⟩]
  exact replayCnt_of_only (s := chForget c (unhold c s)) hc (honly.modChan _)

end

/-- A program error of the fetched command leaves memory and CPC. -/
theorem progErr_chTaken {s : State} {c code : Nat} (hc : c < 128) (hcode : code < 32) (w0 w1 : Word) :
    ProgErr c code s (progErr c code (chTaken c w0 w1 s)) :=
  progErr_of_same (chTaken_only [] w0 w1 s).mem rfl (progErr_spec hc hcode _)

section
variable {s : State} {c : Nat} (hc : c < 128) (hphase : (chanAt s c).phase = .next)
include hc hphase

/-- What the replay begins with stands as the fetch needs it. -/
theorem ringAlike_fetchReplayed : RingAlike c s (fetchReplayed c s) :=
  ⟨by rw [chanAt_fetchReplayed hphase], fun k hk =>
    chR_fetchReplayed hc (by simp only [List.mem_cons, List.not_mem_nil, or_false] at hk; omega)⟩

omit hphase in
theorem chCpc_fetchReplayed : chCpc (fetchReplayed c s) c = chCpc s c := by
  rw [chCpc, chF, chR_fetchReplayed hc (by decide), chCpc, chF]

theorem placed_fetchReplayed :
    (slotOk (cmd12 (fetchReplayed c s) c) (chCpc (fetchReplayed c s) c) = true ∧
      (chRing (fetchReplayed c s) c = true → slotOk (cmd12 (fetchReplayed c s) c) (chanAt (fetchReplayed c s) c).base = true)) ↔
    (slotOk (cmd12 s c) (chCpc s c) = true ∧ (chRing s c = true → slotOk (cmd12 s c) (chanAt s c).base = true)) := by
  have hsame := ringAlike_fetchReplayed hc hphase
  rw [hsame.hole, hsame.ring, hsame.1, chCpc_fetchReplayed hc]

omit hphase in
/-- A program error in the replay is one at the channel's command, and the replay counts. -/
theorem replayErr {code : Nat} {s' : State} (h : ProgErr c code (fetchReplayed c s) s')
    (hcnt : regF s' pgTrel 0x032 0 16 = regF (fetchReplayed c s) pgTrel 0x032 0 16) :
    ProgErr c code s s' ∧ regF s' pgTrel 0x032 0 16 = min 65535 (regF s pgTrel 0x032 0 16 + 1) :=
  have hmem : (fetchReplayed c s).mem = s.mem := rfl
  ⟨progErr_of_same hmem (chCpc_fetchReplayed hc) h, hcnt.trans replays_fetchReplayed⟩

variable {w0 w1 : Word} (h0 : ChReads s c (chCpc s c) w0) (h1 : ChReads s c (chCpc s c + 1) w1)
include h0 h1

/-- The replay reads both words too (R244). -/
theorem chFetch_fetchReplayed
    (hplaced : slotOk (cmd12 s c) (chCpc s c) = true ∧ (chRing s c = true → slotOk (cmd12 s c) (chanAt s c).base = true)) :
    chFetch c .ok .ok (fetchReplayed c s) = chGot c w0 w1 (fetchReplayed c s) := by
  obtain ⟨hslot, hbase⟩ := (placed_fetchReplayed hc hphase).2 hplaced
  have hcpc := chCpc_fetchReplayed (s := s) hc
  exact chFetch_plain hslot hbase (hcpc ▸ chReads_fetchReplayed hc hphase h0) (hcpc ▸ chReads_fetchReplayed hc hphase h1)

omit h0 h1

/-- What a replay that reads the command leaves of it. -/
theorem chGot_fetchReplayed (hstate : chState s c = 1) (hquiet : bit (chR s c 1) 10 = false) :
    let next := walkNext (cmd12 s c) (chCpc s c)
    let e := formErr (chRing s c) (w0.toNat + 2 ^ 40 * w1.toNat)
    let s' := chGot c w0 w1 (fetchReplayed c s)
    let counted := regF s' pgTrel 0x032 0 16 = min 65535 (regF s pgTrel 0x032 0 16 + 1)
    (getF w1 20 2 = 2 → bit (chR s c 2) 3 = false →
      Finished c next (chanAt s c).skip s s' ∧ counted ∧ (chanAt s' c).replays = 0 ∧ s'.mem = s.mem) ∧
    (getF w1 20 2 ≠ 2 ∨ bit (chR s c 2) 3 = true → e ≠ 0 → ProgErr c e s s' ∧ counted) ∧
    (getF w1 20 2 ≠ 2 ∨ bit (chR s c 2) 3 = true → e = 0 → (chanAt s' c).phase = .got w0 w1 ∧ (chanAt s' c).retry = false ∧
      (chanAt s' c).replays = min 255 ((chanAt s c).replays + 1) ∧ counted ∧ s'.mem = s.mem) := by
  intro next e s' counted
  have hsame := ringAlike_fetchReplayed hc hphase
  have hchan := chanAt_fetchReplayed hphase
  have hR : ∀ k, k < 0x18 → chR (fetchReplayed c s) c k = chR s c k := fun k hk => chR_fetchReplayed hc hk
  have hmem : (fetchReplayed c s).mem = s.mem := rfl
  have htake := chTaken_only (c := c) [] w0 w1 (fetchReplayed c s)
  have htaken : getF w1 20 2 ≠ 2 ∨ bit (chR s c 2) 3 = true →
      s' = if e = 0 then chTaken c w0 w1 (fetchReplayed c s) else progErr c e (chTaken c w0 w1 (fetchReplayed c s)) := fun hkeep => by
    rw [← hR 2 (by decide)] at hkeep
    simp only [s', e, chGot_taken hkeep, hsame.ring]
  refine ⟨fun hbad hstrict => ?_, fun hkeep hne => ?_, fun hkeep hzero => ?_⟩
  · rw [← hR 2 (by decide)] at hstrict
    rw [← hR 1 (by decide)] at hquiet
    obtain ⟨hfin, honly, hzero⟩ := chGot_bad (w0 := w0) hbad hstrict
      (by rw [chState, chF, hR 1 (by decide)]; exact hstate) hquiet
    rw [hsame.hole, chCpc_fetchReplayed hc, hchan] at hfin
    exact ⟨finished_of_alike hsame hfin, (replayCnt_of_only hc honly).trans replays_fetchReplayed, hzero, honly.mem.trans hmem⟩
  · simp only [counted]
    rw [htaken hkeep, if_neg hne]
    exact replayErr hc (progErr_chTaken hc (formErr_lt _ _) w0 w1) ((replayCnt_progErr hc e _).trans (replayCnt_of_only hc htake))
  · obtain ⟨j, r, htook⟩ := chanAt_chTaken (c := c) w0 w1 (fetchReplayed c s)
    simp only [counted]
    rw [htaken hkeep, if_pos hzero, htook, hchan]
    exact ⟨rfl, rfl, rfl, (replayCnt_of_only hc htake).trans replays_fetchReplayed, htake.mem.trans hmem⟩

end

/-- Settles O31: the fetch and its replay read both words; a mark, the place or the form may end the command there. -/
theorem channelFetches : Obligations.ChannelFetches := by
  intro s c w0 w1 a cmd next e strict placed hphase hquiet
  have hc := c.isLt
  refine ⟨fun hready hruns ⟨hslot, hbase⟩ h0 h1 => ⟨?bad, ?taken⟩, ?misplaced, fun hstate hup hretry => ?replay⟩
  case bad =>
    intro hbad hstrict
    refine ⟨_, exec_cmdFetch hready hruns .ok .ok, ?_⟩
    rw [chFetch_plain hslot hbase h0 h1]
    obtain ⟨hfin, honly, -⟩ := chGot_bad (w0 := w0) hbad hstrict (chRuns_state hruns) hquiet
    exact ⟨hfin, honly⟩
  case taken =>
    intro hkeep
    have hexec : exec (.cmdFetch c .ok .ok) s = .next (if e = 0 then chTaken c w0 w1 s else progErr c e (chTaken c w0 w1 s)) := by
      rw [exec_cmdFetch hready hruns, chFetch_plain hslot hbase h0 h1, chGot_taken hkeep]
    refine ⟨fun hne => ⟨_, hexec, ?_⟩, fun hzero => ⟨_, hexec, ?_⟩⟩
    · rw [if_neg hne]
      exact progErr_chTaken hc (formErr_lt _ _) w0 w1
    · obtain ⟨j, r, hchan⟩ := chanAt_chTaken (c := c) w0 w1 s
      rw [if_pos hzero, hchan]
      exact ⟨rfl, rfl, rfl, chTaken_only [] w0 w1 s⟩
  case misplaced =>
    intro hready hruns hnot
    refine ⟨_, exec_cmdFetch hready hruns .ok .ok, ?_⟩
    rw [chFetch_misplaced _ _ hnot]
    exact progErr_spec hc (by decide) s
  case replay =>
    have hexec := exec_accessReplay_fetch hphase hretry hstate hup
    refine ⟨fun hnot => ⟨_, hexec, ?_⟩, fun hplaced h0 h1 => ?_⟩
    · rw [chFetch_misplaced _ _ (mt (placed_fetchReplayed hc hphase).1 hnot)]
      exact replayErr hc (progErr_spec hc (by decide) _) (replayCnt_progErr hc 6 _)
    · rw [chFetch_fetchReplayed hc hphase h0 h1 hplaced] at hexec
      obtain ⟨hbad, herr, htaken⟩ := chGot_fetchReplayed hc hphase (w0 := w0) (w1 := w1) hstate hquiet
      exact ⟨fun h h' => ⟨_, hexec, hbad h h'⟩, fun h h' => ⟨_, hexec, herr h h'⟩, fun h h' => ⟨_, hexec, htaken h h'⟩⟩

end Sys2Proof.Machine
end

section
/-! SUPPORT. The control commands of a channel (R208, R209, R213, R218, R222): what a fetched command begins from, how a loop level opens,
goes round and closes, and the statement about NOP, LOOP, ENDLOOP, CHAIN and SKIP. -/

namespace Sys2Proof.Machine

/-! ## A command that begins -/

section
variable {s : State} {c : Nat}

/-- Bit 6 of a command, which asks for the status half, is bit 6 of its first word (R209). -/
theorem cf_stat (w0 w1 : Word) : cf (w0.toNat + 2 ^ 40 * w1.toNat) 6 1 = b2n (bit w0 6) := by
  have hbit : getF w0 6 1 = b2n (bit w0 6) := by
    refine Nat.eq_of_testBit_eq fun i => ?_
    rw [testBit_getF]
    obtain rfl | hi := Nat.eq_zero_or_pos i
    · cases bit w0 6 <;> rfl
    · rw [decide_eq_false (by omega), Bool.false_and]
      cases bit w0 6
      · simp [b2n]
      · exact (Nat.testBit_lt_two_pow (Nat.one_lt_two_pow (by omega))).symm
  have hsplit : getF w0 6 1 = w0.toNat / 2 ^ 6 % 2 ^ 1 := by
    rw [getF, BitVec.extractLsb'_toNat, Nat.shiftRight_eq_div_pow]
  rw [← hbit, hsplit, cf]
  omega

variable {cmd : Nat} (h : Begun s c cmd)
include h

theorem begun_state : chState s c = 1 := chRuns_state h.runs

theorem begun_plain : bit (chanAt s c).w0 6 = false := by
  obtain ⟨w0, w1, -, hw0, rfl⟩ := h.got
  have hzero := h.plain
  rw [cf_stat] at hzero
  rw [hw0]
  cases hb : bit w0 6
  · rfl
  · simp [hb, b2n] at hzero

/-- A command begins that is the one fetched. -/
theorem withCmd_begun {op : Nat} (hop : cf cmd 0 5 = op) (f : Nat → State → State) : withCmd c op none f s = f cmd s := by
  obtain ⟨w0, w1, hphase, -, rfl⟩ := h.got
  unfold withCmd
  rw [hphase]
  dsimp only
  rw [h.runs, hop]
  simp

/-- Of a SIGNAL, the kind is the one fetched too. -/
theorem withCmd_signal {sub : Nat} (hop : cf cmd 0 5 = 5) (hsub : cf cmd 8 3 = sub) (f : Nat → State → State) :
    withCmd c 5 (some sub) f s = f cmd s := by
  obtain ⟨w0, w1, hphase, -, rfl⟩ := h.got
  unfold withCmd
  rw [hphase]
  dsimp only
  rw [h.runs, hop, hsub]
  simp

theorem begun_going : Going c s := ⟨begun_state h, h.quiet, begun_plain h⟩

end

/-! ## Loops -/

section
variable {s : State} {c : Fin 128} {cmd : Nat} (h : Begun s c cmd)
include h

/-- NOP does nothing but go on (R208). -/
theorem runs_cmdNop (hop : cf cmd 0 5 = 0) : Runs (.cmdNop c) s fun s' =>
    Finished c (chanAt s c).nextPc (chanAt s c).skip s s' ∧ ChOnly c [1, 5, 8] s s' ∧ chLd s' c = chLd s c := by
  have hdone := chDone_done (st := 1) (begun_going h) (by decide)
  exact ⟨_, congrArg Host.Outcome.next (withCmd_begun h hop _), hdone.fin, hdone.only', hdone.statF (by decide) (by decide) (by decide)⟩

/-- LOOP opens a level with the address of its body and its count (R213). -/
theorem runs_cmdLoop (hop : cf cmd 0 5 = 2) (hdepth : chLd s c < 4) :
    let d := chLd s c
    Runs (.cmdLoop c) s fun s' => Finished c (chanAt s c).nextPc (chanAt s c).skip s s' ∧ chLd s' c = d + 1 ∧
      chF s' c (0x10 + 2 * d) 0 32 = (chanAt s c).nextPc % 2 ^ 32 ∧ chF s' c (0x11 + 2 * d) 0 24 = cf cmd 8 24 ∧
      bit (chR s' c (0x11 + 2 * d)) 24 = decide (cf cmd 8 24 = 0) ∧
      ChOnly c [1, 5, 8, 0x10 + 2 * d, 0x11 + 2 * d] s s' := by
  intro d
  have hcount : cf cmd 8 24 < 2 ^ 24 := Nat.mod_lt _ (by decide)
  set count := wd (cf cmd 8 24 + 2 ^ 24 * b2n (decide (cf cmd 8 24 = 0)))
  set x := setChF c 1 6 3 (d + 1) (setChR c (0x11 + 2 * d) count (setChR c (0x10 + 2 * d) (wd (chanAt s c).nextPc) s)) with hx
  have hprep : Prepared c s x :=
    ((Prepared.refl c s).setChR (by simp; omega) _ |>.setChR (by simp; omega) _).setStatF (by decide) (by decide) _
  have honly : ChOnly c [1, 0x10 + 2 * d, 0x11 + 2 * d] s x :=
    ((ChOnly.refl c _ s).setChR (by simp) (by omega) _ |>.setChR (by simp) (by omega) _).setChF (by simp) (by decide) _ _ _
  have hdone := hprep.done (begun_going h)
  have hlevel : ∀ j, j < 0x18 → 0x10 ≤ j → chR (chDone c 1 x) c j = chR x c j := fun j hj hge =>
    hdone.only'.chR_same hj (by simp; omega)
  have hbody : chR x c (0x10 + 2 * d) = wd (chanAt s c).nextPc := by
    rw [hx, chR_setChF_ne _ _ _ _ _ (by omega), chR_setChR_ne _ _ _ (by omega), chR_setChR_same]
  have hword : chR x c (0x11 + 2 * d) = count := by
    rw [hx, chR_setChF_ne _ _ _ _ _ (by omega), chR_setChR_same]
  refine ⟨chDone c 1 x, ?_, hprep.finished hdone rfl rfl, ?_, ?_, ?_, ?_, hprep.only honly hdone (by simp) ?_⟩
  · refine congrArg Host.Outcome.next ((withCmd_begun h hop _).trans (if_neg ?_))
    omega
  · rw [chLd, hdone.statF (by decide) (by decide) (by decide), chF, hx, chR_setChF_same, getF_setF_same _ _ (by decide)]
    omega
  · rw [chF, hlevel _ (by omega) (by omega), hbody, getF_wd _ _ _ (by decide), pow_zero, Nat.div_one]
  · rw [chF, hlevel _ (by omega) (by omega), hword, getF_wd _ _ _ (by decide), pow_zero, Nat.div_one, Nat.add_mul_mod_self_left,
      Nat.mod_eq_of_lt hcount]
  · rw [hlevel _ (by omega) (by omega), hword, bit_wd, Nat.add_comm, Nat.testBit_two_pow_mul_add _ hcount]
    cases decide (cf cmd 8 24 = 0) <;> rfl
  · intro k hk
    have := goRegs_sub s c k hk
    simp only [List.mem_cons, List.not_mem_nil, or_false] at this ⊢
    tauto

/-- A loop deeper than four levels is a program error (R213). -/
theorem runs_cmdLoop_deep (hop : cf cmd 0 5 = 2) (hdepth : 4 ≤ chLd s c) : Runs (.cmdLoop c) s (ProgErr c 3 s) :=
  ⟨_, congrArg Host.Outcome.next ((withCmd_begun h hop _).trans (if_pos hdepth)), progErr_spec c.isLt (by decide) s⟩

/-! ## Jumps -/

omit h in
theorem prepared_chJump {x : State} (hx : Prepared c s x) (a : Nat) : Prepared c s (chJump c a x) := hx.modChan rfl rfl

/-- In linear mode the channel goes on where it is sent (R206, R213, R222). -/
theorem linear_jump {ks : List Nat} {x : State} (hx : Prepared c s x) (hxonly : ChOnly c ks s x) (hring : chRing s c = false) {a : Nat}
    (ha : a < 2 ^ 32) :
    let s' := chDone c 1 (chJump c a x)
    chCpc s' c = a ∧ chState s' c = 1 ∧ (chanAt s' c).phase = .next ∧ chLd s' c = chLd x c ∧
      (∀ k, k < 0x18 → k ∉ [1, 5] → chR s' c k = chR x c k) ∧
      (∀ ks', (∀ k ∈ ks, k ∈ ks') → 1 ∈ ks' → 5 ∈ ks' → ChOnly c ks' s s') := by
  have hprep := prepared_chJump hx a
  have hdone := hprep.done (begun_going h)
  have hlinear : chRing (chJump c a x) c = false := hprep.ring.ring.trans hring
  obtain ⟨hcpc, hstate⟩ := hdone.fin.linear hlinear
  have hnext : (chanAt (chJump c a x) c).nextPc = a := congrArg Chan.nextPc (chanAt_modChan_same ..)
  refine ⟨by rw [hcpc, hnext, Nat.mod_eq_of_lt ha], hstate, hdone.fin.phase, ?_, fun k hk hne => ?_, fun ks' hsub h1 h5 => ?_⟩
  · exact hdone.statF (by decide) (by decide) (by decide)
  · exact hdone.only.chR_same hk (goRegs_linear hlinear ▸ hne)
  · refine hprep.only (hxonly.modChan _) hdone hsub fun k hk => ?_
    rw [goRegs_linear hring] at hk
    obtain rfl | rfl : k = 1 ∨ k = 5 := by simpa using hk
    · exact h1
    · exact h5

/-- ENDLOOP outside a loop is a program error (R213). -/
theorem runs_cmdEndloop_none (hop : cf cmd 0 5 = 3) (hdepth : chLd s c = 0) : Runs (.cmdEndloop c) s (ProgErr c 4 s) :=
  ⟨_, congrArg Host.Outcome.next ((withCmd_begun h hop _).trans (if_pos hdepth)), progErr_spec c.isLt (by decide) s⟩

/-- ENDLOOP goes back for ever, goes back for a further pass, or closes its level after the last (R213). -/
theorem runs_cmdEndloop (hop : cf cmd 0 5 = 3) (hopen : 0 < chLd s c) (hdepth : chLd s c ≤ 4) (hring : chRing s c = false) :
    let d := chLd s c
    let k := 0x11 + 2 * (d - 1)
    let body := chF s c (k - 1) 0 32
    (bit (chR s c k) 24 = true → Runs (.cmdEndloop c) s fun s' => chCpc s' c = body ∧ chLd s' c = d ∧
      (chanAt s' c).phase = .next ∧ ChOnly c [1, 5] s s') ∧
    (bit (chR s c k) 24 = false → 1 < chF s c k 0 24 → Runs (.cmdEndloop c) s fun s' => chCpc s' c = body ∧ chLd s' c = d ∧
      chF s' c k 0 24 = chF s c k 0 24 - 1 ∧ (chanAt s' c).phase = .next ∧ ChOnly c [1, 5, k] s s') ∧
    (bit (chR s c k) 24 = false → chF s c k 0 24 = 1 → Runs (.cmdEndloop c) s fun s' =>
      chCpc s' c = (chanAt s c).nextPc % 2 ^ 32 ∧ chLd s' c = d - 1 ∧ (chanAt s' c).phase = .next ∧ ChOnly c [1, 5, k] s s') := by
  intro d k body
  have hlast : d - 1 < 4 := by omega
  have hk : k < 0x18 ∧ 0x11 ≤ k := by omega
  have hcount : chF s c k 0 24 < 2 ^ 24 := getF_lt _ _ _
  have hplace : k - 1 = 0x10 + 2 * (d - 1) := by omega
  have hbody : body < 2 ^ 32 := getF_lt _ _ _
  have hexec : ∀ s', endloopCmd c s = s' → exec (.cmdEndloop c) s = .next s' := fun s' he =>
    congrArg Host.Outcome.next ((withCmd_begun h hop _).trans he)
  have hfree : k ∉ [1, 2, 6, 7, 8] := by simp; omega
  -- the count of the level after this pass
  set x := setChF c k 0 24 (chF s c k 0 24 - 1) s with hx
  have hprep : Prepared c s x := (Prepared.refl c s).setChR hfree _
  have honly : ChOnly c [1, k] s x := (ChOnly.refl c _ s).setChF (by simp) hk.1 _ _ _
  have hbody_x : chF x c (0x10 + 2 * (d - 1)) 0 32 = body := by
    rw [chF, hx, chR_setChF_ne _ _ _ _ _ (by omega), ← hplace]
    rfl
  have hleft : chF x c k 0 24 = chF s c k 0 24 - 1 := by
    rw [chF, hx, chR_setChF_same, getF_setF_same _ _ (by decide)]
    omega
  refine ⟨fun hever => ?_, fun hcounted hmore => ?_, fun hcounted hone => ?_⟩
  · obtain ⟨hcpc, -, hphase, hld, -, honly⟩ := linear_jump h (.refl c s) (ChOnly.refl c [] s) hring hbody
    refine ⟨chDone c 1 (chJump c body s), hexec _ ?_, hcpc, hld, hphase, honly _ (by simp) (by simp) (by simp)⟩
    unfold endloopCmd
    rw [if_neg (by omega)]
    refine (if_pos hever).trans ?_
    rw [← hplace]
  · obtain ⟨hcpc, -, hphase, hld, hkeep, hjump⟩ := linear_jump h hprep honly hring hbody
    refine ⟨chDone c 1 (chJump c body x), hexec _ ?_, hcpc, ?_, ?_, hphase, hjump _ (by simp) (by simp) (by simp)⟩
    · unfold endloopCmd
      rw [if_neg (by omega)]
      refine (if_neg (by rw [hcounted]; decide)).trans ((if_pos (show chF s c k 0 24 - 1 ≠ 0 by omega)).trans ?_)
      exact congrArg (fun a => chDone c 1 (chJump c a x)) hbody_x
    · rw [hld, chLd, chF, hx, chR_setChF_ne _ _ _ _ _ (by omega)]
      rfl
    · rw [chF, hkeep k hk.1 (by simp; omega)]
      exact hleft
  · set y := setChF c 1 6 3 (d - 1) x with hy
    have hprep_y : Prepared c s y := hprep.setStatF (by decide) (by decide) _
    have hdone := hprep_y.done (begun_going h)
    refine ⟨chDone c 1 y, hexec _ ?_, (hdone.fin.linear (hprep_y.ring.ring.trans hring)).1, ?_, hdone.fin.phase,
      hprep_y.only (honly.setChF (by simp) (by decide) _ _ _) hdone (by simp) fun j hj => ?_⟩
    · unfold endloopCmd
      rw [if_neg (by omega)]
      exact (if_neg (by rw [hcounted]; decide)).trans (if_neg (show ¬ chF s c k 0 24 - 1 ≠ 0 by omega))
    · rw [chLd, hdone.statF (by decide) (by decide) (by decide), chF, hy, chR_setChF_same, getF_setF_same _ _ (by decide)]
      omega
    · rw [goRegs_linear hring] at hj
      simp only [List.mem_cons, List.not_mem_nil, or_false] at hj ⊢
      tauto

/-- CHAIN goes to its target with no loop open; a misplaced one is a program error (R222). -/
theorem runs_cmdChain (hop : cf cmd 0 5 = 0xA) (hring : chRing s c = false) :
    (slotOk (cmd12 s c) (cf cmd 12 32) = true → Runs (.cmdChain c) s fun s' => chCpc s' c = cf cmd 12 32 ∧ chLd s' c = 0 ∧
      (chanAt s' c).phase = .next ∧ chState s' c = 1 ∧ ChOnly c [1, 5] s s') ∧
    (slotOk (cmd12 s c) (cf cmd 12 32) = false → Runs (.cmdChain c) s (ProgErr c 6 s)) := by
  have hexec : exec (.cmdChain c) s = .next (chainCmd c cmd s) := congrArg Host.Outcome.next (withCmd_begun h hop _)
  refine ⟨fun hok => ⟨_, hexec, ?_⟩, fun hbad => ⟨_, hexec, ?_⟩⟩
  · have hprep : Prepared c s (setChF c 1 6 3 0 s) := (Prepared.refl c s).setStatF (by decide) (by decide) 0
    have hxonly : ChOnly c [1] s (setChF c 1 6 3 0 s) := (ChOnly.refl c _ s).setChF (by simp) (by decide) 6 3 0
    obtain ⟨hcpc, hstate, hphase, hld, -, honly⟩ := linear_jump h hprep hxonly hring (a := cf cmd 12 32) (Nat.mod_lt _ (by decide))
    rw [show chainCmd c cmd s = chDone c 1 (chJump c (cf cmd 12 32) (setChF c 1 6 3 0 s)) from if_pos hok]
    refine ⟨hcpc, hld.trans ?_, hphase, hstate, honly _ (by simp) (by simp) (by simp)⟩
    rw [chLd, chF, chR_setChF_same, getF_setF_same _ _ (by decide)]
    rfl
  · rw [show chainCmd c cmd s = progErr c 6 s from if_neg (by simp [hbad])]
    exact progErr_spec c.isLt (by decide) s

/-! ## SKIP -/

/-- A SKIP whose condition is known goes on past its count of commands, or at the next (R218). -/
theorem skipEnd_finished {x : State} (hx : Prepared c s x) (hxonly : ChOnly c [] s x) (hnext : (chanAt x c).nextPc = (chanAt s c).nextPc)
    (hskip : (chanAt x c).skip = (chanAt s c).skip) (n : Nat) (holds : Bool) :
    Finished c (if holds && decide (n ≠ 0) then walkAt (cmd12 s c) (chCpc s c) (n + 1) else (chanAt s c).nextPc)
      (if holds && decide (n ≠ 0) then n else (chanAt s c).skip) s (skipEnd c n holds x) ∧
      ChOnly c [1, 5, 8] s (skipEnd c n holds x) := by
  have hgo : ∀ k ∈ goRegs s c, k ∈ [1, 5, 8] := goRegs_sub s c
  have hnone : ∀ k ∈ ([] : List Nat), k ∈ [1, 5, 8] := fun _ hk => nomatch hk
  unfold skipEnd
  split
  case isFalse =>
    have hdone := hx.done (begun_going h)
    exact ⟨hx.finished hdone hnext hskip, hx.only hxonly hdone hnone hgo⟩
  case isTrue =>
    rw [hx.ring.ring]
    split
    case isTrue hring =>
      have hy : Prepared c s (modChan c (fun x => { x with skip := n }) x) := hx.modChan rfl rfl
      have hdone := hy.done (begun_going h)
      have hchan := chanAt_modChan_same x c (fun x => { x with skip := n })
      have hfin := hy.finished hdone rfl (congrArg Chan.skip hchan)
      exact ⟨⟨hfin.phase, hfin.good, fun hl => absurd (hring.symm.trans hl) (by decide), hfin.ring⟩,
        hy.only (hxonly.modChan _) hdone hnone hgo⟩
    case isFalse hring =>
      have htarget : walkAt (cmd12 x c) (chCpc x c) (n + 1) = walkAt (cmd12 s c) (chCpc s c) (n + 1) := by
        rw [hx.ring.hole, chCpc, chF, hxonly.chR_same (by decide) (by simp), chCpc, chF]
      rw [htarget]
      have hy := prepared_chJump hx (walkAt (cmd12 s c) (chCpc s c) (n + 1))
      have hdone := hy.done (begun_going h)
      have hchan := chanAt_modChan_same x c (fun z => { z with nextPc := walkAt (cmd12 s c) (chCpc s c) (n + 1) })
      have hfin := hy.finished hdone (congrArg Chan.nextPc hchan) rfl
      exact ⟨⟨hfin.phase, hfin.good, hfin.linear, fun hr => absurd hr hring⟩, hy.only (hxonly.modChan _) hdone hnone hgo⟩

omit h in
/-- SKIP 7 and 8 compare the word that they read (R218). -/
theorem skipRead_word {arg : Nat} {w : Word} (hw : ChReads s c arg w) (cond n : Nat) :
    skipRead c cond n arg .ok s =
      let eq := decide ((w &&& chR s c 0xE) = (chR s c 0xD &&& chR s c 0xE))
      skipEnd c n (if cond = 7 then eq else !eq) (fltClear c s) := by
  unfold skipRead
  rw [chRead_plain hw]

/-- SKIP under each of its conditions (R218, Table 9-9). -/
theorem runs_cmdSkip (hop : cf cmd 0 5 = 6) (hform : skipErr (cf cmd 8 4) (cf cmd 18 32) = 0) :
    let cond := cf cmd 8 4
    let n := cf cmd 12 6
    let arg := cf cmd 18 32
    let ends := fun holds : Bool => Runs (.cmdSkip c .ok) s fun s' =>
      Finished c (if holds && decide (n ≠ 0) then walkAt (cmd12 s c) (chCpc s c) (n + 1) else (chanAt s c).nextPc)
        (if holds && decide (n ≠ 0) then n else (chanAt s c).skip) s s' ∧ ChOnly c [1, 5, 8] s s'
    (cond = 0 → ends true) ∧
    (cond = 1 → ends (bit (chR s c 1) 11)) ∧
    (cond = 2 → ends (!bit (chR s c 1) 11)) ∧
    (cond = 3 → hopBad s c arg = 0 → ends (decide (hopDepth s arg = 0))) ∧
    (cond = 4 → hopBad s c arg = 0 → ends (decide (hopDepth s arg ≠ 0))) ∧
    (cond = 5 → ends (decide (arg ≤ sigCnt s c))) ∧
    (cond = 6 → ends (bit (chR s c 1) 12)) ∧
    (∀ w, ChReads s c arg w →
      let eq := decide ((w &&& chR s c 0xE) = (chR s c 0xD &&& chR s c 0xE))
      (cond = 7 → ends eq) ∧ (cond = 8 → ends (!eq))) := by
  intro cond n arg ends
  have hcmd : exec (.cmdSkip c .ok) s = .next (skipCmd c .ok cmd s) := congrArg Host.Outcome.next (withCmd_begun h hop _)
  have hends : ∀ holds, skipCmd c .ok cmd s = skipEnd c n holds s → ends holds := fun holds he =>
    ⟨_, hcmd.trans (congrArg _ he), skipEnd_finished h (.refl c s) (ChOnly.refl c [] s) rfl rfl n holds⟩
  have hform : ¬ skipErr cond arg ≠ 0 := not_not.2 hform
  -- under a condition that reads the hopper
  have hhop : ∀ holds, (cond = 3 ∨ cond = 4) → hopBad s c arg = 0 → (decide (hopDepth s arg = 0) == decide (cond = 3)) = holds →
      ends holds := fun holds hcond hbad hholds => hends _ <| by
    unfold skipCmd
    refine (if_neg hform).trans ?_
    have hcond' : cf cmd 8 4 = 3 ∨ cf cmd 8 4 = 4 := hcond
    have hbad' : hopBad s c (cf cmd 18 32) = 0 := hbad
    subst hholds
    rcases hcond' with he | he <;> simp [he, hbad', cond, n, arg]
  refine ⟨fun he => hends _ ?_, fun he => hends _ ?_, fun he => hends _ ?_, fun he hbad => ?_, fun he hbad => ?_,
    fun he => hends _ ?_, fun he => hends _ ?_, fun w hw => ?_⟩
  case refine_4 => exact hhop _ (.inl he) hbad (by simp [he])
  case refine_5 => exact hhop _ (.inr he) hbad (by simp [he])
  case refine_8 =>
    obtain ⟨j, r, hflt⟩ := chanAt_fltClear c s
    have hread : ∀ holds, cond = 7 ∨ cond = 8 →
        (if cond = 7 then decide ((w &&& chR s c 0xE) = (chR s c 0xD &&& chR s c 0xE))
          else !decide ((w &&& chR s c 0xE) = (chR s c 0xD &&& chR s c 0xE))) = holds → ends holds := fun holds hcond hholds => by
      refine ⟨skipEnd c n holds (fltClear c s), hcmd.trans (congrArg _ ?_), skipEnd_finished h (Prepared.refl c s).fltClear
        (fltClear_only c [] s) (by rw [hflt]) (by rw [hflt]) n holds⟩
      have hskip : skipCmd c .ok cmd s = skipRead c cond n arg .ok s := by
        have hcond' : cf cmd 8 4 = 7 ∨ cf cmd 8 4 = 8 := hcond
        unfold skipCmd
        refine (if_neg hform).trans ?_
        simp only [cond]
        rcases hcond' with he | he <;> simp only [he] <;> rfl
      rw [hskip, skipRead_word hw, ← hholds]
    exact ⟨fun he => hread _ (.inl he) (if_pos he), fun he => hread _ (.inr he) (if_neg (by omega))⟩
  all_goals
    have he' : cf cmd 8 4 = _ := he
    unfold skipCmd
    refine (if_neg hform).trans ?_
    simp only [he']
    rfl

end

/-- Settles O32: each command is one change of its own channel's loop levels or program counter, and the channel goes on. -/
theorem channelControlCommands : Obligations.ChannelControlCommands := by
  intro s c cmd h next fin d
  refine ⟨runs_cmdNop h, runs_cmdLoop h, runs_cmdLoop_deep h, runs_cmdEndloop_none h, runs_cmdEndloop h, runs_cmdChain h,
    runs_cmdSkip h⟩

end Sys2Proof.Machine
end

section
/-! SUPPORT. Signals and requests among channels (R211, R217, R219, R223, R225, R247): the writes that a RESUME issues again, a push that
waits, an event, a count of signals and a suspend of another channel, and the statement about SIGNAL, SUSPEND, RESUME and PORTOP. -/

namespace Sys2Proof.Machine

/-! ## A RESUME -/

theorem setAt_eq_set {α : Type} (l : List α) (i : Nat) (a : α) : setAt l i a = l.set i a := by
  induction l generalizing i with
  | nil => rfl
  | cons b l ih =>
    cases i with
    | zero => rfl
    | succ i => exact congrArg (b :: ·) (ih i)

theorem forAll_append {α σ : Type} (l m : List α) (f : α → σ → σ) (s : σ) : forAll (l ++ m) f s = forAll m f (forAll l f s) := by
  induction l generalizing s with
  | nil => rfl
  | cons a l ih => exact ih (f a s)

/-- The first `n` writes of a list are on their way, and the others are as they were. -/
structure Reissued (n : Nat) (l l' : List ChWrite) : Prop where
  length : l'.length = l.length
  done : ∀ k y, k < n → l'[k]? = some y → y.held ≠ 2
  left : ∀ k, n ≤ k → l'[k]? = l[k]?

section
variable {s x : State} {t : Nat}

/-- A write that an error holds sets out again, where its address passes the checks as before (R195, R247). -/
theorem reissue_plain (hstate : chState x t ≠ 3) (hplain : ∀ y ∈ (chanAt x t).outst, y.held = 2 → ChPlain x t y.va) (k : Nat)
    {l : List ChWrite} (h : Reissued k l (chanAt x t).outst) :
    ∃ o, Reissued (k + 1) l o ∧ ChOnly t [] x (reissue t k x) ∧ (∀ j, chR (reissue t k x) t j = chR x t j) ∧
      chanAt (reissue t k x) t = { chanAt x t with outst := o } := by
  have hsame : ∀ o, (∀ y, o[k]? = some y → y.held ≠ 2) → o.length = (chanAt x t).outst.length →
      (∀ j, j ≠ k → o[j]? = (chanAt x t).outst[j]?) → Reissued (k + 1) l o := fun o hk hlen hothers => by
    refine ⟨hlen.trans h.length, fun j y hj hy => ?_, fun j hj => (hothers j (by omega)).trans (h.left j (by omega))⟩
    obtain rfl | hne := eq_or_ne j k
    · exact hk y hy
    · exact h.done j y (by omega) (hothers j hne ▸ hy)
  unfold reissue
  split
  case h_2 hnone =>
    exact ⟨(chanAt x t).outst, hsame _ (fun y hy => by rw [hnone] at hy; cases hy) rfl fun _ _ => rfl, .refl t [] x, fun _ => rfl, rfl⟩
  case h_1 w hw =>
    split
    case isTrue hnot =>
      refine ⟨(chanAt x t).outst, hsame _ (fun y hy => ?_) rfl fun _ _ => rfl, .refl t [] x, fun _ => rfl, rfl⟩
      obtain rfl : w = y := Option.some.inj (hw.symm.trans hy)
      exact hnot.resolve_right hstate
    case isFalse hheld =>
      have hheld : w.held = 2 := by_contra fun hne => hheld (.inl hne)
      have hmem : w ∈ (chanAt x t).outst := List.mem_of_getElem? hw
      rw [chanXlat_plain (hplain w hmem hheld) rfl]
      dsimp only
      refine ⟨_, hsame _ (fun y hy => ?_) ?_ fun j hj => ?_, (ChOnly.refl t [] x).modChan _, fun _ => rfl, chanAt_modChan_same ..⟩
      · rw [setAt_eq_set, List.getElem?_set_self (List.getElem?_eq_some_iff.1 hw).1] at hy
        rw [← Option.some.inj hy]
        simp
      · rw [setAt_eq_set, List.length_set]
      · rw [setAt_eq_set, List.getElem?_set_ne (Ne.symm hj)]

/-- All held writes set out again, one after another. -/
theorem reissue_all (ht : t < 128) (hstate : chState s t ≠ 3) (hplain : ∀ y ∈ (chanAt s t).outst, y.held = 2 → ChPlain s t y.va) (n : Nat) :
    let s' := forAll (List.range n) (reissue t) s
    ∃ o, Reissued n (chanAt s t).outst o ∧ ChOnly t [] s s' ∧ (∀ j, chR s' t j = chR s t j) ∧
      chanAt s' t = { chanAt s t with outst := o } := by
  induction n with
  | zero => exact ⟨_, ⟨rfl, fun _ _ h => absurd h (Nat.not_lt_zero _), fun _ _ => rfl⟩, .refl t [] s, fun _ => rfl, rfl⟩
  | succ n ih =>
    obtain ⟨o, ho, honly, hR, hchan⟩ := ih
    rw [List.range_succ, forAll_append]
    set x := forAll (List.range n) (reissue t) s
    have hout : (chanAt x t).outst = o := by rw [hchan]
    have hplain_x : ∀ y ∈ (chanAt x t).outst, y.held = 2 → ChPlain x t y.va := fun y hy hheld => by
      rw [hout] at hy
      obtain ⟨k, hk⟩ := List.mem_iff_getElem?.1 hy
      have hleft : n ≤ k := by_contra fun hlt => ho.done k y (by omega) hk hheld
      exact chPlain_of_only (hplain y (List.mem_of_getElem? (ho.left k hleft ▸ hk)) hheld) honly ht (hR 3)
    obtain ⟨o', ho', honly', hR', hchan'⟩ := reissue_plain (l := (chanAt s t).outst) (by rw [chState, chF, hR 1]; exact hstate) hplain_x n
      (hout ▸ ho)
    exact ⟨o', ho', honly.trans honly', fun j => (hR' j).trans (hR j), by rw [forAll, forAll, hchan', hchan]⟩

/-- Where nothing of the channel can end and the ring has no say, RUN or WAITING is all there is to it. -/
theorem chGoOn_settled (h : ChSettled s t) : chGoOn t s = s := by
  obtain ⟨hmove, hstatus, hring⟩ := h
  unfold chGoOn
  split
  case h_1 st cause hphase => exact absurd hphase (hstatus st cause)
  case h_2 m hphase =>
    obtain ⟨hgood, hopen⟩ := hmove m hphase
    unfold moveEnd
    rw [hphase]
    simp [hgood, hopen]
  case h_3 hmove hstatus => exact ringSettle_idle (hring.imp_right .inl)

theorem chSettled_of_same (h : ChSettled s t) (hphase : (chanAt x t).phase = (chanAt s t).phase) (hring : chRing x t = chRing s t) :
    ChSettled x t := by
  unfold ChSettled
  rw [hphase, hring]
  exact h

/-- RESUME restores what a suspended channel was (R211, R219, R247). -/
theorem reqResume_suspended (ht : t < 128) (hstate : chState s t = 3) (hcause : chF s t 1 3 3 ≠ 5) (hsettled : ChSettled s t)
    (hprev : (chanAt s t).prev = 1 ∨ (chanAt s t).prev = 2) (hplain : ∀ y ∈ (chanAt s t).outst, y.held = 2 → ChPlain s t y.va) :
    let s' := reqResume t s
    chState s' t = (chanAt s t).prev ∧ chF s' t 1 3 3 = 0 ∧ (chanAt s' t).phase = (chanAt s t).phase ∧
      (∀ y ∈ (chanAt s' t).outst, y.held ≠ 2) ∧ ChOnly t [1] s s' := by
  set x := setChF t 1 0 6 (chanAt s t).prev (modChan t (fun x => { x with resuming := x.journal.flt }) s) with hx
  have hx_only : ChOnly t [1] s x := ((ChOnly.refl t _ s).modChan _).setChF (by simp) (by decide) _ _ _
  have hx_chan : chanAt x t = { chanAt s t with resuming := (chanAt s t).journal.flt } := by rw [hx, chanAt_setChF, chanAt_modChan_same]
  have hword : chR x t 1 = setF (chR s t 1) 0 6 (chanAt s t).prev := chR_setChF_same ..
  have hlow : getF (chR x t 1) 0 6 = (chanAt s t).prev := by
    rw [hword, getF_setF_same _ _ (by decide)]
    omega
  have hfield : ∀ lo, lo + 3 ≤ 6 → chF x t 1 lo 3 = (chanAt s t).prev / 2 ^ lo % 8 := fun lo hlo => by
    rw [chF, hword, ← Nat.zero_add lo, getF_setF_within _ hlo (by decide), Nat.zero_add]
    rfl
  have hx_state : chState x t = (chanAt s t).prev := (hfield 0 (by decide)).trans (by omega)
  have hx_cause : chF x t 1 3 3 = 0 := (hfield 3 (by decide)).trans (by omega)
  have hx_plain : ∀ y ∈ (chanAt x t).outst, y.held = 2 → ChPlain x t y.va := fun y hy hheld => by
    rw [hx_chan] at hy
    exact chPlain_of_only (hplain y hy hheld) hx_only ht (hx_only.chR_same (by decide) (by simp))
  obtain ⟨o, ho, honly, hR, hchan⟩ := reissue_all (s := x) ht (by omega) hx_plain (chanAt s t).outst.length
  set y := forAll (List.range (chanAt s t).outst.length) (reissue t) x
  have hy_state : chState y t = (chanAt s t).prev := by rw [chState, chF, hR 1, ← hx_state, chState, chF]
  have hy_phase : (chanAt y t).phase = (chanAt s t).phase := by rw [hchan, hx_chan]
  have hy_ring : chRing y t = chRing s t := by
    rw [chRing, hR 2, hx_only.chR_same (by decide) (by simp), chRing]
  have hlast : reqResume t s = y := by
    unfold reqResume
    rw [hstate]
    dsimp only
    rw [if_neg hcause]
    exact (if_neg (show ¬ chState y t = 3 by omega)).trans (chGoOn_settled (chSettled_of_same hsettled hy_phase hy_ring))
  rw [hlast]
  refine ⟨hy_state, by rw [chF, hR 1]; exact hx_cause, hy_phase, fun w hw => ?_, hx_only.trans (honly.mono (by simp))⟩
  rw [hchan] at hw
  obtain ⟨k, hk⟩ := List.mem_iff_getElem?.1 hw
  refine ho.done k w ?_ hk
  have hlt := (List.getElem?_eq_some_iff.1 hk).1
  rw [ho.length, hx_chan] at hlt
  exact hlt

end

end Sys2Proof.Machine
end

section
/-! SUPPORT. The commands by which a channel acts on others (R217, R219, R223): a push, an event, a count of signals, a suspend, a
resume and an operation at a unit each leave the channel's own state as its completion needs it; and the statement about them. -/

namespace Sys2Proof.Machine

section
variable {s x : State} {c : Nat}

/-- A command that leaves its own channel as it was goes on from where it began. -/
theorem completes_beside (hgo : Going c s) (hx : Prepared c s x) (hchan : chanAt x c = chanAt s c) :
    Done c x (chDone c 1 x) ∧ Finished c (chanAt s c).nextPc (chanAt s c).skip s (chDone c 1 x) := by
  have hdone := hx.done hgo
  exact ⟨hdone, hx.finished hdone (by rw [hchan]) (by rw [hchan])⟩

/-- What another channel's command changes there. -/
theorem Prepared.of_other {t : Nat} {ks : List Nat} (h : ChOnly t ks s x) (hks : ∀ k ∈ ks, k < 0x18) (hne : t ≠ c) : Prepared c s x :=
  .of_same (h.chan_ne hne.symm) fun _ hk => h.chR_ne hks hne.symm hk

/-- A bit of any channel's status word but those that a completion writes. -/
theorem Done.stat_any {s' : State} (h : Done c s s') (t : Nat) {i : Nat} (hlo : 3 ≤ i) (hhi : i < 30) (hne : i ≠ 12) :
    bit (chR s' t 1) i = bit (chR s t 1) i := by
  obtain rfl | hother := eq_or_ne t c
  · exact h.stat i hlo hhi hne
  · rw [h.chR_ne hother (by decide)]

theorem Done.statF_any {s' : State} (h : Done c s s') (t : Nat) {lo len : Nat} (hlo : 3 ≤ lo) (hhi : lo + len ≤ 30)
    (hne : lo + len ≤ 12 ∨ 13 ≤ lo) : chF s' t 1 lo len = chF s t 1 lo len :=
  getF_congr fun i hi hi' => h.stat_any t (by omega) (by omega) (by omega)

/-! ## A push (R217, R252) -/

/-- An item that its hopper takes is pushed, and the command completes. -/
theorem signalPush_accepted (hc : c < 128) (hgo : Going c s) {h : Nat} {item : Word} (hslots : hopSlots s h ≠ 0)
    (hkind : getF item 32 4 ≠ 15) (hroom : hopFull s h = false) :
    let s' := signalPush c h item s
    Finished c (chanAt s c).nextPc (chanAt s c).skip s s' ∧ s'.mem = s.mem ∧ (hopAt s' h).items = (hopAt s h).items ++ [item] ∧
      ∀ g, g ≠ h → hopAt s' g = hopAt s g := by
  have hpush : signalPush c h item s = chDone c 1 (hopAccept h item s) := by
    unfold signalPush hopOffer
    rw [if_neg hslots, if_neg hkind, if_neg (by simp [hroom])]
  have haside := hopAccept_aside h item s
  obtain ⟨hdone, hfin⟩ := completes_beside hgo (.of_aside hc haside) (haside.chanAt_eq c)
  obtain ⟨-, hmem, e, hhops⟩ := hopAccept_spec h item s
  have hhop : ∀ g, hopAt (chDone c 1 (hopAccept h item s)) g =
      hopAt (setHop h { hopAt s h with items := (hopAt s h).items ++ [item], tailEnd := e } s) g := fun g => by
    rw [hopAt, hdone.only.hops, hhops]
    rfl
  rw [hpush]
  refine ⟨hfin, hdone.only.mem.trans hmem, ?_, fun g hg => ?_⟩
  · rw [hhop, hopAt_setHop_same]
  · rw [hhop, hopAt_setHop_ne _ _ hg]

/-- At a full hopper the push waits. -/
theorem signalPush_full (hquiet : bit (chR s c 1) 10 = false) {h : Nat} {item : Word} (hslots : hopSlots s h ≠ 0)
    (hkind : getF item 32 4 ≠ 15) (hfull : hopFull s h = true) : signalPush c h item s = setPhase c (.push h item) s := by
  unfold signalPush hopOffer
  rw [if_neg hslots, if_neg hkind, if_pos hfull]
  exact chBoundary_quiet (hquiet.symm ▸ rfl)

theorem setPhase_only (c : Nat) (ks : List Nat) (p : ChPhase) (s : State) : ChOnly c ks s (setPhase c p s) := by
  unfold setPhase
  exact (ChOnly.refl c ks s).modChan _

/-! ## A count of signals (R217) -/

theorem sigAdd_only (t n : Nat) (s : State) : ChOnly t [1] s (sigAdd t n s) := by
  have hcount := (ChOnly.refl t [1] s).setChF (k := 1) (by simp) (by decide) 22 8 (min 255 (sigCnt s t + n))
  unfold sigAdd
  extract_lets v s1
  split
  · exact hcount.setStat (by simp) _ _
  · exact hcount

theorem chanAt_sigAdd (t n d : Nat) (s : State) : chanAt (sigAdd t n s) d = chanAt s d := by
  unfold sigAdd
  extract_lets v s1
  split <;> simp [s1]

theorem prepared_sigAdd (t n : Nat) (s : State) : Prepared c s (sigAdd t n s) := by
  obtain rfl | hne := eq_or_ne t c
  · have hcount := (Prepared.refl t s).setStatF (lo := 22) (len := 8) (by decide) (by decide) (min 255 (sigCnt s t + n))
    unfold sigAdd
    extract_lets v s1
    split
    · exact hcount.setStat (by decide) (by decide) _
    · exact hcount
  · exact .of_other (sigAdd_only t n s) (by simp) hne

/-- The count stops at 255, with its overflow flag. -/
theorem sigAdd_count (t n : Nat) (s : State) : sigCnt (sigAdd t n s) t = min 255 (sigCnt s t + n) ∧
    (bit (chR (sigAdd t n s) t 1) 16 = true ↔ bit (chR s t 1) 16 = true ∨ 255 < sigCnt s t + n) := by
  have hcount : chR (setChF t 1 22 8 (min 255 (sigCnt s t + n)) s) t 1 = setF (chR s t 1) 22 8 (min 255 (sigCnt s t + n)) :=
    chR_setChF_same ..
  have hfield : getF (setF (chR s t 1) 22 8 (min 255 (sigCnt s t + n))) 22 8 = min 255 (sigCnt s t + n) := by
    rw [getF_setF_same _ _ (by decide)]
    omega
  unfold sigAdd
  extract_lets v s1
  split
  case isTrue hover =>
    have hword : chR (setStat t 16 true s1) t 1 = setB (setF (chR s t 1) 22 8 (min 255 v)) 16 true :=
      (chR_setStat_same ..).trans (by rw [hcount])
    rw [sigCnt, chF, hword, getF_setB_ne _ _ (.inr (by decide)), bit_setB_same _ _ (by decide)]
    exact ⟨hfield, iff_of_true rfl (.inr hover)⟩
  case isFalse hfits =>
    rw [sigCnt, chF, hcount]
    exact ⟨hfield, by rw [bit_setF_ne _ _ (by decide), or_iff_left hfits]⟩

/-! ## A suspend of another channel (R219) -/

/-- A channel that waits is suspended at once. -/
theorem reqSuspend_waiting {t cause : Nat} (hstate : chState s t = 2) : reqSuspend t cause s = chSuspend t cause s := by
  unfold reqSuspend
  rw [hstate]
  rfl

/-- The suspend of one channel leaves every other as it was. -/
theorem chSuspend_prepared {t cause : Nat} (hne : t ≠ c) (s : State) :
    Prepared c s (chSuspend t cause s) ∧ chanAt (chSuspend t cause s) c = chanAt s c := by
  have honly := chSuspend_only t cause s
  exact ⟨.of_same (honly.chan_ne hne.symm) fun _ hk => honly.chR_ne (by simp) hne.symm hk, honly.chan_ne hne.symm⟩

/-- A suspend asked for by the channel itself takes effect after the command (R219, R225). -/
theorem chDone_suspending (hplain : bit (chanAt s c).w0 6 = false) (hstate : chState s c = 1) (hask : bit (chR s c 1) 10 = true)
    (hcause : (chanAt s c).suspCause < 8) :
    let s' := chDone c 1 s
    chState s' c = 3 ∧ chF s' c 1 3 3 = (chanAt s c).suspCause ∧ (chanAt s' c).phase = .next ∧
      (chRing s c = false → chCpc s' c = (chanAt s c).nextPc % 2 ^ 32) ∧ s'.mem = s.mem ∧ s'.hops = s.hops := by
  set y := setStat c 12 false s with hy
  have hword : chR y c 1 = setB (chR s c 1) 12 false := chR_setStat_same ..
  have hy_only : ChOnly c [1] s y := (ChOnly.refl c [1] s).setStat (by simp) _ _
  have hy_state : chState y c = 1 := (chState_setStat 12 false (by decide)).trans hstate
  have hmoved := chMoveOn_moved hy_state
  obtain ⟨k, bar, hchan⟩ := hmoved.chan
  have hbit : bit (chR (chMoveOn c y) c 1) 10 = true := by
    rw [hmoved.stat 10 (by decide) (by decide), hword, bit_setB_ne _ _ (by decide)]
    exact hask
  have hend : chDone c 1 s = chSuspend c (chanAt s c).suspCause (chMoveOn c y) := by
    rw [chDone_plain hplain (by decide), chFinish_running (by rw [hy_state]; decide), chBoundary, if_pos ⟨hbit, hmoved.state⟩, hchan]
    rfl
  obtain ⟨hst, hcs, -⟩ := chState_chSuspend c (chMoveOn c y) hcause
  obtain ⟨j, hlast⟩ := chanAt_chSuspend c (chanAt s c).suspCause (chMoveOn c y)
  have hring : chRing y c = chRing s c := (ringAlike_setStat c 12 false s).ring
  rw [hend]
  refine ⟨hst, hcs, by rw [hlast, hchan], fun hlin => ?_, ?_, ?_⟩
  · rw [chCpc, chF, chR_chSuspend _ _ _ (by decide) (by decide)]
    exact (hmoved.linear (hring.trans hlin)).1
  · rw [chSuspend_mem, hmoved.only.mem, hy_only.mem]
  · rw [chSuspend_hops, hmoved.only.hops, hy_only.hops]

/-! ## An operation at a GPIO cell (R223, Table 12-8) -/

/-- GPIO_SET writes the cell's output and its enable. -/
theorem gpioSet_spec {r u : Nat} (hu : u < 128) (out oe : Bool) (hfunc : cFunc s r u = 1) :
    ∃ x, gpioSet r u out oe s = (true, x) ∧ regB x (pgRowc r) (0x028 + u / 32) (u % 32) = out ∧
      regB x (pgRowc r) (0x02C + u / 32) (u % 32) = oe ∧ x = { s with regs := x.regs } ∧
      ∀ p o, o < 1024 → p ≠ pgRowc r → reg x p o = reg s p o := by
  set y := setRegB (pgRowc r) (0x028 + u / 32) (u % 32) out s with hy
  refine ⟨setRegB (pgRowc r) (0x02C + u / 32) (u % 32) oe y, if_pos hfunc, ?_, regB_setRegB_same y oe (by omega), rfl,
    fun p o ho hp => ?_⟩
  · have hkeep : reg (setRegB (pgRowc r) (0x02C + u / 32) (u % 32) oe y) (pgRowc r) (0x028 + u / 32) = reg y (pgRowc r) (0x028 + u / 32) :=
      reg_setReg_off y _ (by omega)
    rw [regB, hkeep]
    exact regB_setRegB_same s out (by omega)
  · exact (reg_setReg_page y _ hp ho (by omega)).trans (reg_setReg_page s _ hp ho (by omega))

end

/-! ## The commands -/

section
variable {s : State} {c : Fin 128} {cmd : Nat} (h : Begun s c cmd)
include h

/-- SIGNAL HOPPER (R217). -/
theorem runs_cmdSignalHopper {q : Nat} {item : Word} (hslots : hopSlots s q ≠ 0) (hkind : getF item 32 4 ≠ 15) (hop : cf cmd 0 5 = 5)
    (hsub : cf cmd 8 3 = 0) (hq : cf cmd 11 8 = q) (hitem : wd (cf cmd 19 40) = item) (hgood : hopBad s c q = 0) :
    (hopFull s q = false → Runs (.cmdSignalHopper c) s fun s' => Finished c (chanAt s c).nextPc (chanAt s c).skip s s' ∧
      s'.mem = s.mem ∧ (hopAt s' q).items = (hopAt s q).items ++ [item] ∧ (∀ g, g ≠ q → hopAt s' g = hopAt s g)) ∧
    (hopFull s q = true → Runs (.cmdSignalHopper c) s fun s' => (chanAt s' c).phase = .push q item ∧ ChOnly c [] s s') := by
  have hexec : exec (.cmdSignalHopper c) s = .next (signalPush c q item s) := by
    refine congrArg Host.Outcome.next ((withCmd_signal h hop hsub _).trans ?_)
    unfold signalHopper
    rw [hq, hitem]
    dsimp only
    rw [hgood]
    rfl
  refine ⟨fun hroom => ⟨_, hexec, signalPush_accepted c.isLt (begun_going h) hslots hkind hroom⟩, fun hfull => ⟨_, hexec, ?_⟩⟩
  rw [signalPush_full h.quiet hslots hkind hfull]
  exact ⟨by rw [chanAt_setPhase_same], setPhase_only c [] _ s⟩

/-- SIGNAL SIEVE at a tine of this device (R217). -/
theorem runs_cmdSignalSieve {u t : Nat} (hop : cf cmd 0 5 = 5) (hsub : cf cmd 8 3 = 1) (hlevel : cf cmd 11 3 = 0)
    (hunit : cf cmd 14 11 = 128 * chainAddr s + u) (hu : u < 128) (hphys : physOf s u = some t) (hup : tineUp s t = true)
    (hdom : domUp s (u / 8) = true) : Runs (.cmdSignalSieve c) s fun s' =>
      Finished c (chanAt s c).nextPc (chanAt s c).skip s s' ∧ sievePend s' t (16 + cf cmd 25 4) = true ∧ s'.mem = s.mem ∧
      s'.hops = s.hops := by
  have hn : 16 + cf cmd 25 4 < 64 := by
    have : cf cmd 25 4 < 16 := Nat.mod_lt _ (by decide)
    omega
  have hchain : (128 * chainAddr s + u) / 128 = chainAddr s ∧ (128 * chainAddr s + u) % 128 = u ∧ chainAddr s < 16 :=
    ⟨by omega, by omega, getF_lt _ _ _⟩
  have harrive := raise_arrivals hn s t
  obtain ⟨hdone, hfin⟩ := completes_beside (begun_going h) (.of_aside c.isLt (.of_arrivals harrive)) ((Aside.of_arrivals harrive).chanAt_eq c)
  refine ⟨chDone c 1 (raise t (16 + cf cmd 25 4) s), congrArg Host.Outcome.next ((withCmd_signal h hop hsub _).trans ?_), hfin, ?_, ?_, ?_⟩
  · obtain ⟨hquot, hrem, hlt⟩ := hchain
    unfold signalSieve
    rw [hlevel, hunit]
    dsimp only
    rw [if_neg (by decide), if_neg (by decide)]
    unfold signalUnit
    simp only [levelUnits, hquot, hrem]
    rw [if_neg (by omega), if_pos trivial, if_neg (by simp [unitDormant, hdom])]
    simp only [raiseUnit, raiseLog, Nat.mod_eq_of_lt hu, hphys]
  · rw [sievePend, regB, hdone.only.reg_page (by unfold oPENDLO; omega) (by have := pgTrch_range c.isLt; unfold pgTine; omega)]
    exact sievePend_raise hn hup
  · rw [hdone.only.mem, harrive.fields]
  · rw [hdone.only.hops, harrive.fields]

/-- SIGNAL CHANNEL (R217). -/
theorem runs_cmdSignalChannel {t : Nat} (hop : cf cmd 0 5 = 5) (hsub : cf cmd 8 3 = 2) (ht : cf cmd 11 7 = t) (hn : cf cmd 18 8 ≠ 0)
    (hgood : chanBad s c t = 0) : Runs (.cmdSignalChannel c) s fun s' =>
      Finished c (chanAt s c).nextPc (chanAt s c).skip s s' ∧ sigCnt s' t = min 255 (sigCnt s t + cf cmd 18 8) ∧
      (bit (chR s' t 1) 16 = true ↔ bit (chR s t 1) 16 = true ∨ 255 < sigCnt s t + cf cmd 18 8) ∧
      (∀ d, d ≠ c.val → d < 128 → chanAt s' d = chanAt s d) ∧ s'.mem = s.mem ∧ s'.hops = s.hops := by
  obtain ⟨hdone, hfin⟩ := completes_beside (begun_going h) (prepared_sigAdd t (cf cmd 18 8) s) (chanAt_sigAdd ..)
  obtain ⟨hcount, hover⟩ := sigAdd_count t (cf cmd 18 8) s
  have honly := sigAdd_only t (cf cmd 18 8) s
  refine ⟨chDone c 1 (sigAdd t (cf cmd 18 8) s), congrArg Host.Outcome.next ((withCmd_signal h hop hsub _).trans ?_), hfin,
    (hdone.statF_any t (by decide) (by decide) (by decide)).trans hcount, ?_, fun d hd _ => ?_, ?_, ?_⟩
  · unfold signalChannel
    rw [ht]
    dsimp only
    rw [if_neg hn, hgood]
    rfl
  · rw [hdone.stat_any t (by decide) (by decide) (by decide)]
    exact hover
  · rw [hdone.only.chan_ne hd, chanAt_sigAdd]
  · rw [hdone.only.mem, honly.mem]
  · rw [hdone.only.hops, honly.hops]

/-- SUSPEND of the channel itself (R219, R225). -/
theorem runs_cmdSuspend_self (hop : cf cmd 0 5 = 7) (hself : cf cmd 8 1 = 1) (hzero : cf cmd 9 7 = 0) : Runs (.cmdSuspend c) s fun s' =>
    chState s' c = 3 ∧ chF s' c 1 3 3 = 1 ∧ (chanAt s' c).phase = .next ∧
      (chRing s c = false → chCpc s' c = (chanAt s c).nextPc % 2 ^ 32) ∧ s'.mem = s.mem ∧ s'.hops = s.hops := by
  set x := setStat c 10 true (modChan c (fun x => { x with suspCause := 1 }) s) with hx
  have hx_only : ChOnly c [1] s x := ((ChOnly.refl c [1] s).modChan _).setStat (by simp) _ _
  have hx_chan : chanAt x c = { chanAt s c with suspCause := 1 } := by rw [hx, chanAt_setStat, chanAt_modChan_same]
  have hx_ring : RingAlike c s x := .of_only hx_only (by decide) (by rw [hx_chan])
  have hask : bit (chR x c 1) 10 = true := (congrArg (bit · 10) (chR_setStat_same ..)).trans (bit_setB_same _ _ (by decide))
  have hcauses : (chanAt x c).suspCause < 8 := by
    rw [hx_chan]
    exact (by decide : 1 < 8)
  have hstate : chState x c = 1 := (chState_setStat 10 true (by decide)).trans (show chState s c = 1 from begun_state h)
  have hplain : bit (chanAt x c).w0 6 = false := by
    rw [hx_chan]
    exact begun_plain h
  obtain ⟨hst, hcause, hphase, hcpc, hmem, hhops⟩ := chDone_suspending hplain hstate hask hcauses
  rw [hx_chan] at hcause hcpc
  refine ⟨chDone c 1 x, congrArg Host.Outcome.next ((withCmd_begun h hop _).trans ?_), hst, hcause, hphase, ?_, hmem.trans hx_only.mem,
    hhops.trans hx_only.hops⟩
  · unfold suspendCmd
    rw [hself, hzero]
    rfl
  · rw [← hx_ring.ring]
    exact hcpc

/-- SUSPEND and RESUME of another channel (R211, R219). -/
theorem runs_cmdSuspend_other {t : Nat} (ht : cf cmd 9 7 = t) (hne : t ≠ c.val) (hgood : chanBad s c t = 0) :
    (cf cmd 0 5 = 7 → cf cmd 8 1 = 0 → chState s t = 2 → Runs (.cmdSuspend c) s fun s' =>
      Finished c (chanAt s c).nextPc (chanAt s c).skip s s' ∧
      chState s' t = 3 ∧ chF s' t 1 3 3 = 2 ∧ (chanAt s' t).prev = 2 ∧ s'.mem = s.mem ∧ s'.hops = s.hops) ∧
    (cf cmd 0 5 = 8 → chState s t = 3 → chF s t 1 3 3 ≠ 5 → ChSettled s t → ((chanAt s t).prev = 1 ∨ (chanAt s t).prev = 2) →
      (∀ y ∈ (chanAt s t).outst, y.held = 2 → ChPlain s t y.va) → Runs (.cmdResume c) s fun s' =>
      Finished c (chanAt s c).nextPc (chanAt s c).skip s s' ∧
      chState s' t = (chanAt s t).prev ∧ chF s' t 1 3 3 = 0 ∧ s'.mem = s.mem ∧ s'.hops = s.hops) := by
  have ht128 : t < 128 := ht ▸ Nat.mod_lt _ (by decide)
  refine ⟨fun hop hother hstate => ?_, fun hop hstate hcause hsettled hprev hplain => ?_⟩
  · obtain ⟨hprep, hchan⟩ := chSuspend_prepared (cause := 2) hne s
    obtain ⟨hdone, hfin⟩ := completes_beside (begun_going h) hprep hchan
    obtain ⟨hst, hcs, -⟩ := chState_chSuspend t s (cause := 2) (by decide)
    obtain ⟨j, hlast⟩ := chanAt_chSuspend t 2 s
    have hstat := hdone.chR_ne hne (j := 1) (by decide)
    refine ⟨chDone c 1 (chSuspend t 2 s), congrArg Host.Outcome.next ((withCmd_begun h hop _).trans ?_), hfin, ?_, ?_, ?_, ?_, ?_⟩
    · unfold suspendCmd
      rw [ht, hother]
      dsimp only
      rw [if_neg (by decide), hgood, reqSuspend_waiting hstate]
      rfl
    · rw [chState, chF, hstat]
      exact hst
    · rw [chF, hstat]
      exact hcs
    · rw [hdone.only.chan_ne hne, hlast]
      exact hstate
    · rw [hdone.only.mem, chSuspend_mem]
    · rw [hdone.only.hops, chSuspend_hops]
  · obtain ⟨hst, hcs, -, -, honly⟩ := reqResume_suspended ht128 hstate hcause hsettled hprev hplain
    obtain ⟨hdone, hfin⟩ := completes_beside (begun_going h) (.of_other honly (by simp) hne) (honly.chan_ne hne.symm)
    have hstat := hdone.chR_ne hne (j := 1) (by decide)
    refine ⟨chDone c 1 (reqResume t s), congrArg Host.Outcome.next ((withCmd_begun h hop _).trans ?_), hfin, ?_, ?_, ?_, ?_⟩
    · unfold resumeCmd
      rw [ht, hgood]
      rfl
    · rw [chState, chF, hstat]
      exact hst
    · rw [chF, hstat]
      exact hcs
    · rw [hdone.only.mem, honly.mem]
    · rw [hdone.only.hops, honly.hops]

/-- PORTOP GPIO_SET (R223). -/
theorem runs_cmdPortop_gpioSet {r u : Nat} (hop : cf cmd 0 5 = 0xB) (hr : cf cmd 8 2 = r) (hu : cf cmd 10 8 = u) (hcell : u < 128)
    (hrun : domSt s (domRow r) = .run) (hgood : unitBad s c r u = 0) (hset : cf cmd 18 4 = 3) (harg : cf cmd 22 33 < 4)
    (hfunc : cFunc s r u = 1) : Runs (.cmdPortop c) s fun s' => Finished c (chanAt s c).nextPc (chanAt s c).skip s s' ∧
      regB s' (pgRowc r) (0x028 + u / 32) (u % 32) = decide (cf cmd 22 33 % 2 = 1) ∧
      regB s' (pgRowc r) (0x02C + u / 32) (u % 32) = decide (cf cmd 22 33 / 2 = 1) ∧ s'.mem = s.mem ∧ s'.fifo = s.fifo := by
  have hr4 : r < 4 := hr ▸ Nat.mod_lt _ (by decide)
  obtain ⟨x, hgpio, hout, hoe, hfields, hpages⟩ := gpioSet_spec hcell (decide (cf cmd 22 33 % 2 = 1))
    (decide (cf cmd 22 33 / 2 % 2 = 1)) hfunc
  have hpg : ∀ t, t < 128 → pgTrch t ≠ pgRowc r := fun t ht => by
    have := pgTrch_range ht
    unfold pgRowc
    omega
  have hchan : chanAt x c = chanAt s c := by rw [hfields]; rfl
  obtain ⟨hdone, hfin⟩ := completes_beside (begun_going h)
    (.of_same hchan fun k hk => hpages _ _ (chBase_add_lt c hk) (hpg c c.isLt)) hchan
  have hunit : portopUnit r u 3 (cf cmd 22 33) s = (true, x) := (if_pos hcell).trans hgpio
  have hkeep : ∀ o, o < 1024 → reg (chDone c 1 x) (pgRowc r) o = reg x (pgRowc r) o := fun o ho =>
    hdone.only.reg_page ho (hpg c c.isLt).symm
  refine ⟨chDone c 1 x, congrArg Host.Outcome.next ((withCmd_begun h hop _).trans ?_), hfin, ?_, ?_, ?_, ?_⟩
  · unfold portopCmd
    rw [hr, hu, hset]
    dsimp only
    rw [if_neg (by omega), if_neg (by simp [domHeld_of_run hrun]), hgood]
    rw [hunit]
    rfl
  · rw [regB, hkeep _ (by omega)]
    exact hout
  · rw [regB, hkeep _ (by omega)]
    exact hoe.trans (by rw [show cf cmd 22 33 / 2 % 2 = cf cmd 22 33 / 2 by omega])
  · rw [hdone.only.mem, hfields]
  · rw [hdone.only.fifo, hfields]

end

/-- Settles O33: each of these commands acts beside its own channel, or on a part of its status word that its completion keeps. -/
theorem channelSignals : Obligations.ChannelSignals := by
  refine ⟨?_, ?_⟩
  · intro s c q item hslots hkind hq pushed
    refine ⟨fun cmd h hop hsub hq hitem hgood => runs_cmdSignalHopper h hslots hkind hop hsub hq hitem hgood,
      fun hphase hruns hquiet hplain hroom => ⟨_, congrArg Host.Outcome.next ?_,
        signalPush_accepted c.isLt ⟨chRuns_state hruns, hquiet, hplain⟩ hslots hkind hroom⟩⟩
    rw [hphase]
    exact if_pos hruns
  · intro s c cmd h fin
    exact ⟨fun _ _ => runs_cmdSignalSieve h, fun _ => runs_cmdSignalChannel h, runs_cmdSuspend_self h, fun _ => runs_cmdSuspend_other h,
      fun _ _ => runs_cmdPortop_gpioSet h⟩

end Sys2Proof.Machine
end

section
/-! SUPPORT. The waits of a channel (R209, R214, R215): what a WAIT leaves when it goes on, while it waits and at the end of its window,
the status half that a command owes, and the statement about WAIT. -/

namespace Sys2Proof.Machine

section
variable {s : State} {c : Nat}

/-! ## The status half (R209) -/

/-- A status half at a plain word sets out. -/
theorem statusIssue_plain {st cause : Nat} (h : ChPlain s c ((chCpc s c + 1) % 2 ^ 32)) :
    let w := chWriteNew s c 2 ((chCpc s c + 1) % 2 ^ 32) ((chCpc s c + 1) % 2 ^ 32) 0 0 (statusHalf st cause (chanAt s c).replays)
    w.pa = (chCpc s c + 1) % 2 ^ 32 ∧ chanAt (statusIssue c st cause s) c =
      { chanAt s c with phase := .stated, outst := (chanAt s c).outst ++ [w] } ∧
      ChOnly c [] s (statusIssue c st cause s) ∧ ∀ k, chR (statusIssue c st cause s) c k = chR s c k := by
  have hxlat := chanXlat_plain h (a := { store := true, half := true }) rfl false
  unfold statusIssue
  simp only [hxlat]
  refine ⟨ownPa_chPlain h s, ?_, ((ChOnly.refl c [] s).modChan _).modChan _, fun _ => rfl⟩
  rw [chanAt_modChan_same, chIssue, chanAt_modChan_same]

/-! ## A wait that ends (R214, R215) -/

/-- The channel as its wait ends: it runs, and the kind of the wait and TO are put back. -/
def waitEnded (c : Nat) (late : Bool) (s : State) : State := setStat c 11 late (setChF c 1 30 4 0 (setChState c 1 s))

theorem waitEnded_only (c : Nat) (late : Bool) (s : State) : ChOnly c [1] s (waitEnded c late s) :=
  ((ChOnly.refl c [1] s).setChState (by simp) 1 |>.setChF (by simp) (by decide) _ _ _).setStat (by simp) _ _

theorem chR_waitEnded (c : Nat) (late : Bool) (s : State) :
    chR (waitEnded c late s) c 1 = setB (setF (setF (chR s c 1) 0 3 1) 30 4 0) 11 late := by
  rw [waitEnded, chR_setStat_same, chR_setChF_same, chR_setChState_same]

theorem chState_waitEnded (c : Nat) (late : Bool) (s : State) : chState (waitEnded c late s) c = 1 := by
  rw [chState, chF, chR_waitEnded, getF_setB_ne _ _ (.inl (by decide)), getF_setF_ne _ _ (by decide), getF_setF_same _ _ (by decide)]
  rfl

theorem bit_waitEnded (late : Bool) {i : Nat} (hlo : 3 ≤ i) (hhi : i < 30) (hne : i ≠ 11) :
    bit (chR (waitEnded c late s) c 1) i = bit (chR s c 1) i := by
  rw [chR_waitEnded, bit_setB_ne _ _ hne, bit_setF_ne _ _ (by omega), bit_setF_ne _ _ (by omega)]

theorem to_waitEnded (c : Nat) (late : Bool) (s : State) : bit (chR (waitEnded c late s) c 1) 11 = late := by
  rw [chR_waitEnded]
  exact bit_setB_same _ _ (by decide)

/-- A wait that is over goes on, with TO clear. -/
theorem waitEnded_done {x : State} (hx : ChOnly c [1] s x) (hchan : chanAt x c = chanAt s c) (hquiet : bit (chR x c 1) 10 = false)
    (hplain : bit (chanAt s c).w0 6 = false) :
    let s' := chDone c 1 (waitEnded c false x)
    Finished c (chanAt s c).nextPc (chanAt s c).skip s s' ∧ bit (chR s' c 1) 11 = false ∧ sigCnt s' c = sigCnt x c ∧
      ChOnly c [1, 5, 8] s s' := by
  have honly := hx.trans (waitEnded_only c false x)
  have hsame : chanAt (waitEnded c false x) c = chanAt s c := hchan
  have hgo : Going c (waitEnded c false x) :=
    ⟨chState_waitEnded .., (bit_waitEnded false (by decide) (by decide) (by decide)).trans hquiet, hsame ▸ hplain⟩
  have hdone := chDone_done hgo (st := 1) (by decide)
  have hfin := finished_of_alike (.of_only honly (by decide) (by rw [hsame])) hdone.fin
  refine ⟨hsame ▸ hfin, ?_, ?_, (honly.mono (by simp)).trans hdone.only'⟩
  · rw [hdone.stat 11 (by decide) (by decide) (by decide)]
    exact to_waitEnded ..
  · rw [sigCnt, hdone.statF (by decide) (by decide) (by decide)]
    exact getF_congr fun i hi hi' => bit_waitEnded false (by omega) (by omega) (by omega)

/-- A WAIT whose condition holds goes on; a count of signals takes its amount. -/
theorem waitDone_spec (hquiet : bit (chR s c 1) 10 = false) (hplain : bit (chanAt s c).w0 6 = false) (kind arg : Nat) :
    let s' := waitDone c kind arg s
    Finished c (chanAt s c).nextPc (chanAt s c).skip s s' ∧ bit (chR s' c 1) 11 = false ∧
      sigCnt s' c = (if kind = 6 then sigCnt s c - arg else sigCnt s c) ∧ ChOnly c [1, 5, 8] s s' := by
  by_cases hkind : kind = 6
  · have hlt : sigCnt s c < 256 := getF_lt _ _ _
    have hword : chR (setChF c 1 22 8 (sigCnt s c - arg) s) c 1 = setF (chR s c 1) 22 8 (sigCnt s c - arg) := chR_setChF_same ..
    have hcount : sigCnt (setChF c 1 22 8 (sigCnt s c - arg) s) c = sigCnt s c - arg := by
      rw [sigCnt, chF, hword, getF_setF_same _ _ (by decide)]
      omega
    have hdone : waitDone c kind arg s = chDone c 1 (waitEnded c false (setChF c 1 22 8 (sigCnt s c - arg) s)) := by
      rw [waitDone, if_pos hkind, waitEnded]
    have hquiet_x : bit (chR (setChF c 1 22 8 (sigCnt s c - arg) s) c 1) 10 = false := by
      rw [hword, bit_setF_ne _ _ (by decide)]
      exact hquiet
    obtain ⟨hfin, hto, hsig, honly⟩ :=
      waitEnded_done ((ChOnly.refl c [1] s).setChF (by simp) (by decide) _ _ _) rfl hquiet_x hplain
    rw [hdone, if_pos hkind]
    exact ⟨hfin, hto, hsig.trans hcount, honly⟩
  · have hdone : waitDone c kind arg s = chDone c 1 (waitEnded c false s) := by rw [waitDone, if_neg hkind, waitEnded]
    rw [hdone, if_neg hkind]
    exact waitEnded_done (.refl c [1] s) rfl hquiet hplain

/-- A WAIT whose condition does not hold waits, and its kind shows. -/
theorem waitBegin_waits {kind : Nat} (hkind : kind < 16) {arg : Nat} (hnot : waitHolds s c kind arg false = false) (timeout : Nat) :
    let s' := waitBegin c kind arg timeout s
    (chanAt s' c).phase = .wait kind arg s.now timeout false ∧ chState s' c = 2 ∧ chF s' c 1 30 4 = kind ∧ ChOnly c [1] s s' := by
  set x := setPhase c (.wait kind arg s.now timeout false) s with hx
  have hbegin : waitBegin c kind arg timeout s = setChF c 1 30 4 kind (setChState c 2 x) := if_neg (by simp [hnot])
  have hword : chR (setChF c 1 30 4 kind (setChState c 2 x)) c 1 = setF (setF (chR s c 1) 0 3 2) 30 4 kind := by
    rw [chR_setChF_same, chR_setChState_same, hx, chR_setPhase]
  rw [hbegin]
  refine ⟨?_, ?_, ?_, (setPhase_only c [1] _ s |>.setChState (by simp) 2).setChF (by simp) (by decide) _ _ _⟩
  · rw [chanAt_setChF, chanAt_setChState, hx, chanAt_setPhase_same]
  · rw [chState, chF, hword, getF_setF_ne _ _ (by decide), getF_setF_same _ _ (by decide)]
    rfl
  · rw [chF, hword, getF_setF_same _ _ (by decide)]
    exact Nat.mod_eq_of_lt hkind

/-- At the end of its window a WAIT sets TO and owes a status half with ST = TIMEOUT. -/
theorem waitTimeout_spec (hplain : ChPlain s c ((chCpc s c + 1) % 2 ^ 32)) (hc : c < 128) :
    let s' := chDone c 3 (waitEnded c true s)
    (chanAt s' c).phase = .stated ∧ chState s' c = 1 ∧ bit (chR s' c 1) 11 = true ∧
      (∃ x, (chanAt s' c).outst = (chanAt s c).outst ++ [x] ∧ x.kind = 2 ∧ x.pa = (chCpc s c + 1) % 2 ^ 32 ∧
        ∃ d : BitVec 20, x.data = .half true d ∧ d.toNat % 4 = 3) ∧ ChOnly c [1] s s' := by
  set y := setStat c 12 false (waitEnded c true s) with hy
  have hy_only : ChOnly c [1] s y := (waitEnded_only c true s).setStat (by simp) _ _
  have hend : chDone c 3 (waitEnded c true s) = statusIssue c 3 0 y := if_pos (.inr rfl)
  have hcpc : chCpc y c = chCpc s c := by rw [chCpc, chF, hy_only.chR_same (by decide) (by simp), chCpc, chF]
  have hstat : chR y c 1 = setB (chR (waitEnded c true s) c 1) 12 false := chR_setStat_same ..
  obtain ⟨hpa, hchan, honly, hregs⟩ := statusIssue_plain (s := y) (c := c) (st := 3) (cause := 0)
    (hcpc.symm ▸ chPlain_of_only hplain hy_only hc (hy_only.chR_same (by decide) (by simp)))
  rw [hend]
  refine ⟨by rw [hchan], ?_, ?_, ⟨_, by rw [hchan]; rfl, rfl, by rw [hpa, hcpc], _, rfl, ?_⟩, hy_only.trans (honly.mono (by simp))⟩
  · rw [chState, chF, hregs, hstat, getF_setB_ne _ _ (.inl (by decide))]
    exact chState_waitEnded ..
  · rw [hregs, hstat, bit_setB_ne _ _ (by decide)]
    exact to_waitEnded ..
  · rw [BitVec.toNat_ofNat]
    omega

end

/-- Settles O34: a wait ends by putting its marks back and completing, or keeps the channel waiting with its kind shown. -/
theorem channelWaits : Obligations.ChannelWaits := by
  intro s c kind arg goesOn
  refine ⟨fun cmd h hop hkind hform hgood harg => ?_, fun start timeout seen hphase hlt hstate hup hquiet => ⟨?_, ?_⟩⟩
  · have hexec : exec (.cmdWait c) s = .next (waitBegin c kind arg (cf cmd 44 16) s) := by
      refine congrArg Host.Outcome.next ((withCmd_begun h hop _).trans ?_)
      unfold waitCmd
      rw [hkind]
      dsimp only
      rw [hform, hgood, harg]
      rfl
    refine ⟨fun hholds => ⟨_, hexec, ?_⟩, fun hnot => ⟨_, hexec, waitBegin_waits (hkind ▸ Nat.mod_lt _ (by decide)) hnot _⟩⟩
    rw [show waitBegin c kind arg (cf cmd 44 16) s = waitDone c kind arg s from if_pos hholds]
    exact waitDone_spec h.quiet (begun_plain h) kind arg
  · intro hplain hwindow hholds
    have hopen : waitOver s start timeout = false := by
      rw [waitOver, Bool.and_eq_false_iff, decide_eq_false_iff_not, decide_eq_false_iff_not]
      omega
    refine ⟨waitDone c kind arg s, congrArg Host.Outcome.next ?_, waitDone_spec hquiet hplain kind arg⟩
    rw [hphase]
    exact if_pos ⟨hstate, hup, by rw [hopen]; rfl, hholds⟩
  · intro htimed hover hplain
    have hclosed : waitOver s start timeout = true := by
      rw [waitOver, Bool.and_eq_true, decide_eq_true_eq, decide_eq_true_eq]
      exact ⟨htimed, hover⟩
    refine ⟨chDone c 3 (waitEnded c true s), congrArg Host.Outcome.next ?_, waitTimeout_spec hplain c.isLt⟩
    rw [hphase]
    exact if_pos ⟨hstate, hup, hclosed⟩

end Sys2Proof.Machine
end

section
/-! SUPPORT. A channel's posts and the outcomes of its writes (R209, R210, R220, R221, R241, R246): the entry of the status ring, what an
acknowledged write stores and what it ends, and the statement about POST and TRELLIS_WRITE_ACK. -/

namespace Sys2Proof.Machine

/-! ## A POST (R220, R221) -/

section
variable {s : State} {c : Nat}

/-- An entry whose two words are plain sets out, word by word. -/
theorem postWrite_plain {tag sel imm : Nat} :
    let va := walkAt (bit (chR s c 2) 2) (chF s c 9 0 32) (chF s c 0xB 0 16)
    let value := match sel with
      | 0 => imm
      | 1 => regF s pgDev 0x049 0 25
      | 2 => ringCi s c
      | 3 => if chLd s c = 0 then 0 else chF s c (0x11 + 2 * (chLd s c - 1)) 0 24
      | _ => sigCnt s c
    let s' := postWrite c tag sel imm s
    ChPlain s c va → ChPlain s c ((va + 1) % 2 ^ 32) → (chanAt s' c).phase = .posted ∧ ChOnly c [] s s' ∧
      ∃ x y, (chanAt s' c).outst = (chanAt s c).outst ++ [x, y] ∧ x.kind = 1 ∧ y.kind = 1 ∧ x.pa = va ∧ y.pa = (va + 1) % 2 ^ 32 ∧
        x.data = .word (wd (value % 2 ^ 25 + 2 ^ 27 * b2n (bit (chR s c 1) 11) + 2 ^ 28 * b2n (bit (chR s c 1) 13) +
          2 ^ 29 * tag + 2 ^ 33 * c)) ∧
        y.data = .word (wd (s.now % 2 ^ 32 + 2 ^ 32 * (chanAt s c).posts)) := by
  intro va value s' h0 h1
  set x := chWriteNew s c 1 va va 0 0 (.word (wd (value % 2 ^ 25 + 2 ^ 27 * b2n (bit (chR s c 1) 11) +
    2 ^ 28 * b2n (bit (chR s c 1) 13) + 2 ^ 29 * tag + 2 ^ 33 * c)))
  set y := chWriteNew s c 1 ((va + 1) % 2 ^ 32) ((va + 1) % 2 ^ 32) 0 0 (.word (wd (s.now % 2 ^ 32 + 2 ^ 32 * (chanAt s c).posts)))
  have hissue : s' = setPhase c .posted (chIssue c y (chIssue c x s)) := by
    have hxlat0 := chanXlat_plain h0 (a := { store := true }) rfl false
    have hxlat1 := chanXlat_plain h1 (a := { store := true }) rfl false
    simp only [va] at hxlat0 hxlat1
    simp only [s', postWrite, hxlat0, hxlat1]
    rfl
  have hfirst : ChOnly c [] s (chIssue c x s) := (ChOnly.refl c [] s).modChan _
  have hboth : ChOnly c [] s (chIssue c y (chIssue c x s)) := hfirst.modChan _
  have hchan : chanAt (chIssue c y (chIssue c x s)) c = { chanAt s c with outst := ((chanAt s c).outst ++ [x]) ++ [y] } := by
    rw [chIssue, chanAt_modChan_same, chIssue, chanAt_modChan_same]
  rw [hissue, chanAt_setPhase_same, hchan]
  refine ⟨rfl, hboth.trans (setPhase_only c [] _ _), x, y, by rw [List.append_assoc]; rfl, rfl, rfl, ownPa_chPlain h0 s, ownPa_chPlain h1 s,
    rfl, rfl⟩

/-- A full ring holds the command, counts it and reports it (R221). -/
theorem postHeld_spec (hc : c < 128) (hquiet : bit (chR s c 1) 10 = false) (tag sel imm : Nat) :
    let s' := chBoundary c (setPhase c (.post tag sel imm) (pageIrq pgTrel 2 (bumpF (pgTrch c) (chBase c + 0xF) 16 16 1 s)))
    (chanAt s' c).phase = .post tag sel imm ∧ regB s' pgTrel 4 2 = true ∧
      chF s' c 0xF 16 16 = min 65535 (chF s c 0xF 16 16 + 1) ∧ s'.mem = s.mem := by
  set x := bumpF (pgTrch c) (chBase c + 0xF) 16 16 1 s with hx
  have haside := pageIrq_aside asidePage_trel 2 x
  have hstat : bit (chR (setPhase c (.post tag sel imm) (pageIrq pgTrel 2 x)) c 1) 10 = false := by
    rw [chR_setPhase, haside.chR_eq hc (by decide)]
    exact (congrArg (bit · 10) (chR_setChF_ne s c 16 16 _ (by decide))).trans hquiet
  have hcount : chF x c 0xF 16 16 = min 65535 (chF s c 0xF 16 16 + 1) := by
    have hset : chF x c 0xF 16 16 = satAdd (2 ^ 16 - 1) (chF s c 0xF 16 16) 1 % 2 ^ 16 :=
      (congrArg (getF · 16 16) (chR_setChF_same ..)).trans (getF_setF_same _ _ (by decide))
    rw [hset, satAdd]
    omega
  rw [chBoundary_quiet hstat]
  refine ⟨by rw [chanAt_setPhase_same], pageIrq_raw (by decide) x, ?_, haside.mem⟩
  rw [chF, chR_setPhase, haside.chR_eq hc (by decide)]
  exact hcount

/-! ## An acknowledged write (R210) -/

/-- A word of Shed in Run takes a channel's word, or the half of a clean word. -/
theorem physWrite_channel {pa : Nat} {b : Bool} {d : StoreData} (hreg : regionOf pa = .shed b)
    (hrun : domSt s (if b then domShdb else domShda) = .run)
    (hdata : (∃ v, d = .word v) ∨ (∃ hi v, d = .half hi v) ∧ ueAt s pa = false) (cls : Nat) :
    physWrite (chWho c) cls pa d .ok s = (.done, memStore pa d s) := by
  have hdom : paDom pa = some (if b then domShdb else domShda) := by rw [paDom, hreg]
  have hheld : paHeld s (chWho c) pa = false := by simp [paHeld, hdom, domHeld_of_run hrun]
  have hup : paDormant s pa = false := by simp [paDormant, hdom, domAsleep, hrun]
  have hlow : pa < 0x08000000 := (plainPa_lt (.inr ⟨b, hreg⟩)).trans (by decide)
  have hfree : withholds s (chWho c) pa d = none := by
    unfold withholds
    rw [if_neg (by simp [whoLocal, chWho])]
    rcases hdata with ⟨v, rfl⟩ | ⟨⟨hi, v, rfl⟩, -⟩
    · simp [dataWords, putMbox_low hlow]
    · rfl
  have hwrite : memWrite (whoSrc (chWho c)) pa d .ok s = (.done, memStore pa d s) := by
    unfold memWrite
    rw [if_neg (by decide)]
    rcases hdata with ⟨v, rfl⟩ | ⟨⟨hi, v, rfl⟩, hclean⟩
    · simp [wholeHalf, needsMerge, memCode_low hlow]
    · simp [wholeHalf, needsMerge, memRead, hclean]
  unfold physWrite
  rw [ownPa_shed hreg]
  dsimp only
  rw [hheld, hup, hfree, hreg]
  exact hwrite

/-- What an acknowledged write leaves before anything ends by it: its data is stored, it is off the list, and an error that had held it
is over (R247). -/
structure Acked (c k : Nat) (x : ChWrite) (s z : State) : Prop where
  chan : chanAt z c = { chanAt s c with
    outst := (chanAt s c).outst.eraseIdx k
    journal := if x.resumed = true ∧ (chanAt s c).journal.mv = x.mv then { (chanAt s c).journal with flt := false }
      else (chanAt s c).journal }
  others : ∀ d, d ≠ c → chanAt z d = chanAt s d
  mem : z.mem = (memStore x.pa x.data s).mem
  fields : z = { s with mem := z.mem, ue := z.ue, chans := z.chans }

/-- The state in which an acknowledged write of a MOVE or a POST comes to what it ends. -/
def ackState (c k : Nat) (x : ChWrite) (s : State) : State :=
  resumedOk c x (modChan c (fun y => { y with outst := dropAt y.outst k }) (memStore x.pa x.data s))

theorem memStore_fields (pa : Nat) {d : StoreData} (hdata : (∃ v, d = .word v) ∨ ∃ hi v, d = .half hi v) (s : State) :
    memStore pa d s = { s with mem := (memStore pa d s).mem, ue := (memStore pa d s).ue } := by
  rcases hdata with ⟨v, rfl⟩ | ⟨hi, v, rfl⟩
  · exact memPut_fields s pa v
  · exact memPut_fields s pa _

theorem ackState_acked {k : Nat} {x : ChWrite} (hkind : x.kind ≠ 5) (hdata : (∃ v, x.data = .word v) ∨ ∃ hi v, x.data = .half hi v) :
    Acked c k x s (ackState c k x s) := by
  have hstore := memStore_fields x.pa hdata s
  set y := modChan c (fun y => { y with outst := dropAt y.outst k }) (memStore x.pa x.data s) with hy
  have hput : chanAt (memStore x.pa x.data s) = chanAt s := by rw [hstore]; rfl
  have hy_chan : chanAt y c = { chanAt s c with outst := (chanAt s c).outst.eraseIdx k } := by
    rw [hy, chanAt_modChan_same, dropAt_eq_eraseIdx, hput]
  have hy_others : ∀ d, d ≠ c → chanAt y d = chanAt s d := fun d hd => by
    rw [hy, modChan, chanAt_setChan_ne _ _ hd, hput]
  have hy_fields : y = { s with mem := y.mem, ue := y.ue, chans := y.chans } := by
    rw [hy, modChan, setChan, hstore]
  have hlast : ackState c k x s = resumedOk c x y := rfl
  rw [hlast]
  unfold resumedOk
  dsimp only
  by_cases hres : x.resumed = true
  · rw [if_pos hres]
    refine ⟨?_, fun d hd => ?_, rfl, ?_⟩
    · rw [chanAt_modChan_same, hy_chan]
      simp [hres, hkind]
    · rw [modChan, chanAt_setChan_ne _ _ hd]
      exact hy_others d hd
    · rw [modChan, setChan, hy_fields]
  · rw [if_neg hres]
    exact ⟨by rw [hy_chan]; simp [hres], hy_others, rfl, hy_fields⟩

namespace Acked

variable {k : Nat} {x : ChWrite} {z : State} (h : Acked c k x s z)
include h

theorem chR_eq (t j : Nat) : chR z t j = chR s t j := by rw [h.fields]; rfl

theorem chF_eq (t j lo len : Nat) : chF z t j lo len = chF s t j lo len := by rw [chF, h.chR_eq, chF]

theorem prepared : Prepared c s z :=
  ⟨h.chF_eq .., by rw [h.chR_eq], by rw [h.chan], by rw [h.chan], fun _ _ => h.chR_eq ..⟩

/-- The acknowledged word is in memory, and no other word has changed. -/
theorem stored {v : Word} (hdata : x.data = .word v) : memGet z x.pa = v ∧ ∀ a, a ≠ x.pa → memGet z a = memGet s a := by
  have hget : ∀ a, memGet z a = memGet (memPut x.pa v s) a := fun a => by
    rw [memGet, h.mem, hdata]
    rfl
  simp only [hget]
  exact ⟨memGet_memPut_same s x.pa v, fun a ha => memGet_memPut_ne s v ha⟩

/-- The acknowledged upper half is in memory, and nothing else has changed (R35). -/
theorem stored_half {v : BitVec 20} (hdata : x.data = .half true v) : getF (memGet z x.pa) 20 20 = v.toNat ∧
    getF (memGet z x.pa) 0 20 = getF (memGet s x.pa) 0 20 ∧ ∀ a, a ≠ x.pa → memGet z a = memGet s a := by
  have hget : ∀ a, memGet z a = memGet (memPut x.pa (mergeHalf (memGet s x.pa) true v) s) a := fun a => by
    rw [memGet, h.mem, hdata]
    rfl
  simp only [hget, memGet_memPut_same]
  exact ⟨congrArg BitVec.toNat (extract_mergeHalf_same (memGet s x.pa) true v),
    congrArg BitVec.toNat (extract_mergeHalf_other (memGet s x.pa) true v), fun a ha => memGet_memPut_ne s _ ha⟩

end Acked

/-! ## What an acknowledged write ends -/

variable {k : Nat} {x : ChWrite} {z : State}

/-- While its MOVE has more to make, an acknowledged element ends nothing. -/
theorem moveEnd_more (h : ∀ m, (chanAt z c).phase = .move m → m.bad = false ∧ moveOver m = false) : moveEnd c z = z := by
  unfold moveEnd
  split
  · next m hphase =>
    obtain ⟨hgood, hmore⟩ := h m hphase
    simp [hgood, hmore]
  · rfl

/-- With its last write acknowledged and every element made, a MOVE is finished (R210). -/
theorem moveEnd_over {m : Move} (hphase : (chanAt z c).phase = .move m) (hgood : m.bad = false) (hover : moveOver m = true)
    (hnone : ∀ y ∈ (chanAt z c).outst, y.kind ≠ 0) (hgo : Going c z) :
    Finished c (chanAt z c).nextPc (chanAt z c).skip z (moveEnd c z) ∧ (moveEnd c z).mem = z.mem := by
  have hopen : ((chanAt z c).outst.any fun x => decide (x.kind = 0)) = false := by simpa using hnone
  have hend : moveEnd c z = chDone c 1 (moveLeave c false false z) := by
    unfold moveEnd
    rw [hphase]
    simp [hgo.state, hgood, hover, hopen]
  have hbare : Prepared c z (unhold c z) := .of_same rfl fun _ _ => rfl
  have hprep : Prepared c z (moveLeave c false false z) := hbare.modChan rfl rfl
  have hchan : (chanAt (moveLeave c false false z) c).nextPc = (chanAt z c).nextPc ∧
      (chanAt (moveLeave c false false z) c).skip = (chanAt z c).skip := by
    unfold moveLeave
    rw [chanAt_modChan_same]
    exact ⟨rfl, rfl⟩
  have hdone := hprep.done hgo
  rw [hend]
  exact ⟨hprep.finished hdone hchan.1 hchan.2, hdone.only.mem⟩

/-- A MOVE that is over is kept while another of its writes is out. -/
theorem tailEnd_more {mv : Nat} (h : ∃ y ∈ (chanAt z c).outst, y.kind = 4 ∧ y.mv = mv) : tailEnd c mv z = z :=
  if_pos (by simpa using h)

/-- With its last write acknowledged it is forgotten, where it was not BAD (R246, assumptions 40, 113). -/
theorem tailEnd_last {mv : Nat} (h : ¬ ∃ y ∈ (chanAt z c).outst, y.kind = 4 ∧ y.mv = mv)
    (hgood : ∀ e ∈ (chanAt z c).ended, e.mv = mv → e.bad = false) :
    tailEnd c mv z = modChan c (fun x => { x with ended := x.ended.filter fun e => decide (e.mv ≠ mv) }) z := by
  unfold tailEnd
  refine (if_neg (by simpa using h)).trans ?_
  split
  · next e hfind =>
    have hmv : e.mv = mv := by simpa using List.find?_some hfind
    simp [hgood e (List.mem_of_find?_eq_some hfind) hmv]
  · rfl

/-- Both words of an entry are acknowledged: it is published and the POST is done (R220). -/
theorem postPublish_spec (hgo : Going c z) :
    let s' := postPublish c z
    s'.mem = z.mem ∧ chF s' c 0xB 0 16 = (chF z c 0xB 0 16 + 1) % max 1 (chF z c 0xA 0 16) ∧
      (chanAt s' c).posts = ((chanAt z c).posts + 1) % 256 ∧ (chanAt s' c).outst = (chanAt z c).outst ∧
      Finished c (chanAt z c).nextPc (chanAt z c).skip z s' := by
  set n := max 1 (chF z c 0xA 0 16) with hn
  set y := setChR c 0xB (wd ((chF z c 0xB 0 16 + 1) % n)) (modChan c (fun x => { x with posts := (x.posts + 1) % 256 }) z) with hy
  have hend : postPublish c z = chDone c 1 (fltClear c y) := if_neg (by rw [hgo.state]; decide)
  have hprep : Prepared c z (fltClear c y) := (((Prepared.refl c z).modChan rfl rfl).setChR (by decide) _).fltClear
  have hdone := hprep.done hgo
  obtain ⟨j, r, hflt⟩ := chanAt_fltClear c y
  have hchan : chanAt y c = { chanAt z c with posts := ((chanAt z c).posts + 1) % 256 } := by rw [hy, chanAt_setChR, chanAt_modChan_same]
  obtain ⟨sk, bar, hlast⟩ := hdone.chan
  have hcount : chF y c 0xB 0 16 = (chF z c 0xB 0 16 + 1) % n := by
    have hlt : (chF z c 0xB 0 16 + 1) % n < 2 ^ 16 := (Nat.mod_lt _ (by omega)).trans (max_lt (by decide) (getF_lt _ _ _))
    rw [chF, hy, chR_setChR_same, getF_wd _ _ _ (by decide)]
    omega
  rw [hend]
  refine ⟨hdone.only.mem, ?_, by rw [hlast, hflt, hchan], by rw [hlast, hflt, hchan], hprep.finished hdone ?_ ?_⟩
  · rw [chF, hdone.only'.chR_same (by decide) (by decide)]
    exact hcount
  · rw [hflt, hchan]
  · rw [hflt, hchan]

/-! ## TRELLIS_WRITE_ACK (R210) -/

/-- What an acknowledged write ends, once it is off the list. -/
def ackEnds (c : Nat) (x : ChWrite) (z : State) : State :=
  match x.kind with
  | 0 => moveEnd c z
  | 1 => if (chanAt z c).phase = .posted ∧ !((chanAt z c).outst.any fun w => decide (w.kind = 1)) then postPublish c z else z
  | 2 => if (chanAt z c).phase = .stated then chFinish c (fltClear c z) else z
  | 4 => tailEnd c x.mv z
  | _ => z

end

/-- Write `k` of channel `c` may be acknowledged, at a word of Shed in Run. -/
structure AckReady (s : State) (c : Fin 128) (k : Nat) (x : ChWrite) (b : Bool) : Prop where
  up : domUp s domTrel = true
  write : (chanAt s c).outst[k]? = some x
  free : x.held = 0
  order : inOrder (chanAt s c).outst k x = true
  region : regionOf x.pa = .shed b
  run : domSt s (if b then domShdb else domShda) = .run

section
variable {s : State} {c : Fin 128} {k : Nat} {x : ChWrite} {b : Bool} (h : AckReady s c k x b)
include h

/-- The write is performed, and what it ends is left. -/
theorem exec_writeAck (hdata : (∃ v, x.data = .word v) ∨ (∃ hi v, x.data = .half hi v) ∧ ueAt s x.pa = false) :
    exec (.trellisWriteAck c k .ok) s = .next (ackEnds c x (ackState c k x s)) := by
  have hphys := physWrite_channel (c := c) h.region h.run hdata x.cls
  refine congrArg Host.Outcome.next ((if_pos h.up).trans ?_)
  unfold writeOutcome
  rw [h.write]
  dsimp only
  rw [if_neg (by simp [h.free, h.order]), if_neg (by decide), hphys]
  rfl

variable {v : Word} (hdata : x.data = .word v)
include hdata

/-- A word of a finished POST, an element with more to come, and an element of a MOVE that is over with more writes out end nothing. -/
theorem runs_writeAck_idle
    (hcase : x.kind = 3 ∨ (x.kind = 0 ∧ ∀ m, (chanAt s c).phase = .move m → m.bad = false ∧ moveOver m = false) ∨
      (x.kind = 4 ∧ ∃ y ∈ (chanAt s c).outst.eraseIdx k, y.kind = 4 ∧ y.mv = x.mv)) :
    Runs (.trellisWriteAck c k .ok) s fun s' => (memGet s' x.pa = v ∧ ∀ a, a ≠ x.pa → memGet s' a = memGet s a) ∧
      chanAt s' c = { chanAt s c with
        outst := (chanAt s c).outst.eraseIdx k
        journal := if x.resumed = true ∧ (chanAt s c).journal.mv = x.mv then { (chanAt s c).journal with flt := false }
          else (chanAt s c).journal } ∧
      (∀ d, d ≠ c.val → chanAt s' d = chanAt s d) ∧ s' = { s with mem := s'.mem, ue := s'.ue, chans := s'.chans } := by
  have hack : Acked c k x s (ackState c k x s) := ackState_acked (by omega) (.inl ⟨v, hdata⟩)
  have hidle : ackEnds c x (ackState c k x s) = ackState c k x s := by
    unfold ackEnds
    obtain hkind | ⟨hkind, hmore⟩ | ⟨hkind, hmore⟩ := hcase
    · rw [hkind]
      rfl
    · rw [hkind]
      exact moveEnd_more (by rw [hack.chan]; exact hmore)
    · rw [hkind]
      exact tailEnd_more (by rw [hack.chan]; exact hmore)
  exact ⟨_, (exec_writeAck h (.inl ⟨v, hdata⟩)).trans (congrArg _ hidle), hack.stored hdata, hack.chan, hack.others, hack.fields⟩

/-- The last element of a MOVE that is over and was not BAD (assumptions 40, 113). -/
theorem runs_writeAck_tail (hkind : x.kind = 4) (hlast : ¬ ∃ y ∈ (chanAt s c).outst.eraseIdx k, y.kind = 4 ∧ y.mv = x.mv)
    (hgood : ∀ e ∈ (chanAt s c).ended, e.mv = x.mv → e.bad = false) :
    Runs (.trellisWriteAck c k .ok) s fun s' => (memGet s' x.pa = v ∧ ∀ a, a ≠ x.pa → memGet s' a = memGet s a) ∧
      chanAt s' c = { chanAt s c with
        outst := (chanAt s c).outst.eraseIdx k
        journal := if x.resumed = true ∧ (chanAt s c).journal.mv = x.mv then { (chanAt s c).journal with flt := false }
          else (chanAt s c).journal
        ended := (chanAt s c).ended.filter fun e => decide (e.mv ≠ x.mv) } := by
  have hack : Acked c k x s (ackState c k x s) := ackState_acked (by omega) (.inl ⟨v, hdata⟩)
  have hend := tailEnd_last (z := ackState c k x s) (c := c) (mv := x.mv) (by rw [hack.chan]; exact hlast) (by rw [hack.chan]; exact hgood)
  have hforget : ackEnds c x (ackState c k x s) = tailEnd c x.mv (ackState c k x s) := by
    rw [ackEnds, hkind]
    rfl
  refine ⟨_, (exec_writeAck h (.inl ⟨v, hdata⟩)).trans (congrArg _ (hforget.trans hend)), hack.stored hdata, ?_⟩
  rw [chanAt_modChan_same, hack.chan]

/-- The last element of the MOVE under way finishes it (R210). -/
theorem runs_writeAck_move {m : Move} (hkind : x.kind = 0) (hlast : ∀ y ∈ (chanAt s c).outst.eraseIdx k, y.kind ≠ 0)
    (hphase : (chanAt s c).phase = .move m) (hgood : m.bad = false) (hover : moveOver m = true) (hgo : Going c s) :
    Runs (.trellisWriteAck c k .ok) s fun s' => (memGet s' x.pa = v ∧ ∀ a, a ≠ x.pa → memGet s' a = memGet s a) ∧
      Finished c (chanAt s c).nextPc (chanAt s c).skip s s' := by
  have hack : Acked c k x s (ackState c k x s) := ackState_acked (by omega) (.inl ⟨v, hdata⟩)
  obtain ⟨hfin, hmem⟩ := moveEnd_over (z := ackState c k x s) (by rw [hack.chan]; exact hphase) hgood hover
    (by rw [hack.chan]; exact hlast) (hack.prepared.going hgo)
  have hget : ∀ a, memGet (moveEnd c (ackState c k x s)) a = memGet (ackState c k x s) a := fun a => by rw [memGet, hmem, memGet]
  have hmove : ackEnds c x (ackState c k x s) = moveEnd c (ackState c k x s) := by
    rw [ackEnds, hkind]
    rfl
  refine ⟨_, (exec_writeAck h (.inl ⟨v, hdata⟩)).trans (congrArg _ hmove), ?_, finished_of_alike hack.prepared.ring ?_⟩
  · simp only [hget]
    exact hack.stored hdata
  · rw [hack.chan] at hfin
    exact hfin

/-- The last word of a POST publishes its entry (R220). -/
theorem runs_writeAck_post (hkind : x.kind = 1) (hphase : (chanAt s c).phase = .posted)
    (hlast : ∀ y ∈ (chanAt s c).outst.eraseIdx k, y.kind ≠ 1) (hgo : Going c s) :
    Runs (.trellisWriteAck c k .ok) s fun s' => (memGet s' x.pa = v ∧ ∀ a, a ≠ x.pa → memGet s' a = memGet s a) ∧
      chF s' c 0xB 0 16 = (chF s c 0xB 0 16 + 1) % max 1 (chF s c 0xA 0 16) ∧
      (chanAt s' c).posts = ((chanAt s c).posts + 1) % 256 ∧ (chanAt s' c).outst = (chanAt s c).outst.eraseIdx k ∧
      Finished c (chanAt s c).nextPc (chanAt s c).skip s s' := by
  have hack : Acked c k x s (ackState c k x s) := ackState_acked (by omega) (.inl ⟨v, hdata⟩)
  obtain ⟨hmem, hpi, hposts, houtst, hfin⟩ := postPublish_spec (hack.prepared.going hgo)
  have hget : ∀ a, memGet (postPublish c (ackState c k x s)) a = memGet (ackState c k x s) a := fun a => by rw [memGet, hmem, memGet]
  have hpost : ackEnds c x (ackState c k x s) = postPublish c (ackState c k x s) := by
    rw [ackEnds, hkind, hack.chan]
    exact if_pos ⟨hphase, by simpa using hlast⟩
  rw [hack.chan] at hposts houtst hfin
  rw [hack.chF_eq, hack.chF_eq] at hpi
  refine ⟨_, (exec_writeAck h (.inl ⟨v, hdata⟩)).trans (congrArg _ hpost), ?_, hpi, hposts, houtst, finished_of_alike hack.prepared.ring hfin⟩
  simp only [hget]
  exact hack.stored hdata

omit hdata in
/-- The status half finishes its command (R209). -/
theorem runs_writeAck_status {d : BitVec 20} (hstate : chState s c = 1) (hquiet : bit (chR s c 1) 10 = false)
    (hmark : bit (chR s c 1) 12 = false) (hdata : x.data = .half true d) (hkind : x.kind = 2) (hphase : (chanAt s c).phase = .stated)
    (hclean : ueAt s x.pa = false) :
    Runs (.trellisWriteAck c k .ok) s fun s' => getF (memGet s' x.pa) 20 20 = d.toNat ∧
      getF (memGet s' x.pa) 0 20 = getF (memGet s x.pa) 0 20 ∧ (∀ a, a ≠ x.pa → memGet s' a = memGet s a) ∧
      (chanAt s' c).outst = (chanAt s c).outst.eraseIdx k ∧ Finished c (chanAt s c).nextPc (chanAt s c).skip s s' := by
  have hack : Acked c k x s (ackState c k x s) := ackState_acked (by omega) (.inr ⟨true, d, hdata⟩)
  obtain ⟨j, r, hflt⟩ := chanAt_fltClear c (ackState c k x s)
  have hprep := hack.prepared.fltClear
  have hstat : chR (fltClear c (ackState c k x s)) c 1 = chR s c 1 := (chR_modChan ..).trans (hack.chR_eq ..)
  have hmoved : Moved c _ _ (fltClear c (ackState c k x s)) (chFinish c (fltClear c (ackState c k x s))) :=
    chFinish_moved (hprep.state.trans hstate) (hprep.quiet.trans hquiet)
  have hmem : (chFinish c (fltClear c (ackState c k x s))).mem = (ackState c k x s).mem := hmoved.only.mem
  have hget : ∀ a, memGet (chFinish c (fltClear c (ackState c k x s))) a = memGet (ackState c k x s) a := fun a => by
    rw [memGet, hmem, memGet]
  have hend : ackEnds c x (ackState c k x s) = chFinish c (fltClear c (ackState c k x s)) := by
    rw [ackEnds, hkind, hack.chan]
    exact if_pos hphase
  obtain ⟨sk, bar, hlast⟩ := hmoved.chan
  have hfin := finished_of_alike hprep.ring (hmoved.finished (by rw [hstat]; exact hmark))
  rw [hflt, hack.chan] at hfin
  obtain ⟨hnew, hold, hothers⟩ := hack.stored_half hdata
  refine ⟨_, (exec_writeAck h (.inr ⟨⟨true, d, hdata⟩, hclean⟩)).trans (congrArg _ hend), ?_, ?_, fun a ha => ?_, ?_, hfin⟩
  · rw [hget]
    exact hnew
  · rw [hget]
    exact hold
  · rw [hget]
    exact hothers a ha
  · rw [hlast, hflt, hack.chan]

end

/-- POST and POST_RESUME (R220, R221). -/
theorem runs_post {s : State} {c : Fin 128} {tag sel imm : Nat} (hsel : sel < 5) {issued : State → Prop}
    (hissue : issued (postWrite c tag sel imm s)) :
    let full := (chF s c 0xB 0 16 + 1) % max 1 (chF s c 0xA 0 16) = chF s c 0xC 0 16
    (∀ cmd, Begun s c cmd → cf cmd 0 5 = 9 → cf cmd 8 4 = tag → cf cmd 12 3 = sel → cf cmd 15 25 = imm →
      2 ≤ chF s c 0xA 0 16 → chF s c 9 0 32 % 2 = 0 →
      (¬full → Runs (.cmdPost c) s issued) ∧
      (full → Runs (.cmdPost c) s fun s' => (chanAt s' c).phase = .post tag sel imm ∧ regB s' pgTrel 4 2 = true ∧
        chF s' c 0xF 16 16 = min 65535 (chF s c 0xF 16 16 + 1) ∧ s'.mem = s.mem)) ∧
    ((chanAt s c).phase = .post tag sel imm → chRuns s c = true → ¬full → Runs (.postResume c) s issued) := by
  intro full
  have hroom : ¬ full → sringFull s c = false := fun h => decide_eq_false h
  refine ⟨fun cmd h hop htag hsel' himm hsize heven => ?_, fun hphase hruns hnot => ⟨_, congrArg Host.Outcome.next ?_, hissue⟩⟩
  · have hexec : exec (.cmdPost c) s = .next (postCmd c cmd s) := congrArg Host.Outcome.next (withCmd_begun h hop _)
    have hpost : postCmd c cmd s = if sringFull s c then
        chBoundary c (setPhase c (.post tag sel imm) (pageIrq pgTrel 2 (bumpF (pgTrch c) (chBase c + 0xF) 16 16 1 s)))
        else postWrite c tag sel imm s := by
      unfold postCmd
      rw [hsel', htag, himm]
      exact (if_neg (by omega)).trans (if_neg (by omega))
    refine ⟨fun hnot => ⟨_, hexec, ?_⟩, fun hfull => ⟨_, hexec, ?_⟩⟩
    · rw [hpost, hroom hnot]
      exact hissue
    · rw [hpost, show sringFull s c = true from decide_eq_true hfull]
      exact postHeld_spec c.isLt h.quiet tag sel imm
  · rw [hphase]
    exact if_pos (by rw [hruns, hroom hnot]; rfl)

/-- Settles O35: each outcome is the stored word, with what it ends performed from the channel as the word left it. -/
theorem channelPostsAndWrites : Obligations.ChannelPostsAndWrites := by
  refine ⟨?_, ?_⟩
  · intro s c tag sel imm hsel va value issued full h0 h1
    exact runs_post hsel (postWrite_plain h0 h1)
  · intro s c k x b hup hwrite hheld horder hreg hrun left more record stored
    have h : AckReady s c k x b := ⟨hup, hwrite, hheld, horder, hreg, hrun⟩
    refine ⟨fun v hdata hcase => runs_writeAck_idle h hdata ?_, fun v hdata hkind hlast hgood => ?_,
      fun v m hdata hkind hlast hphase hgood hover hstate hplain hquiet => ?_, fun hruns hquiet hplain v hdata hkind hphase hlast => ?_,
      fun d => runs_writeAck_status h⟩
    · refine hcase.imp_right (Or.imp_right fun ⟨hkind, y, hy, hy4, hmv⟩ => ⟨hkind, y, hy, hy4, hmv rfl⟩)
    · exact runs_writeAck_tail h hdata hkind (fun ⟨y, hy, hy4, hmv⟩ => hlast ⟨y, hy, hy4, fun _ => hmv⟩) hgood
    · exact runs_writeAck_move h hdata hkind (fun y hy h0 => hlast ⟨y, hy, h0, fun h => nomatch h⟩) hphase hgood hover
        ⟨hstate, hquiet, hplain⟩
    · exact runs_writeAck_post h hdata hkind hphase hlast ⟨chRuns_state hruns, hquiet, hplain⟩

end Sys2Proof.Machine
end

section
/-! SUPPORT. The commit of a STOP (R193, R196, R209, R212, R226, R246, R486): a translation walk and its errors are beside the channels,
and what a stopping channel keeps, marks and still owes. -/

namespace Sys2Proof.Machine

/-! ## A translation walk (R190, R193, R196) -/

theorem asidePage_shed : AsidePage pgShed := by
  refine .inr ⟨by decide, fun o => ?_⟩
  simp [AsideReg, pgShed, pgXlat, pgTrel]

theorem asideReg_gauge (o : Nat) : ¬ AsideReg pgGauge o := by simp [AsideReg, pgGauge, pgXlat, pgTrel]

section
variable {s : State}

theorem frecAdd_aside (kind src : Nat) (data : Word) (s : State) : Aside s (frecAdd kind src data s) := by
  have hset : ∀ {x y : State} (o : Nat) (v : Word), o < 1024 → Aside x y → Aside x (setReg pgGauge o v y) := fun o v ho h =>
    h.setReg v ho (asideReg_gauge o) (.inl (by decide))
  unfold frecAdd
  extract_lets seq ent full l s1 s2 s3
  have h3 : Aside s s3 := hset 0x014 _ (by decide) (hset 0x014 _ (by decide) (aside_of_eq rfl rfl rfl rfl))
  split
  · exact hset 0x015 _ (by decide) h3
  · exact h3

section
variable {pa : Nat} {b : Bool} (hreg : regionOf pa = .shed b)
include hreg

/-- An error in Shed is counted, recorded and reported at the SHED page (R190, R191). -/
theorem eccEvent_aside (isUe weeder : Bool) (src : Nat) (s : State) : Aside s (eccEvent pa isUe weeder src s) := by
  have hpg : (if memCode pa = 4 then pgDram else pgShed) = pgShed := if_neg (memCode_shed hreg)
  have hset : ∀ {x y : State} (o : Nat) (v : Word), o < 1024 → Aside x y → Aside x (setReg pgShed o v y) := fun o v ho h =>
    h.setReg v ho (by simp [AsideReg, pgShed, pgXlat, pgTrel]) (.inl (by decide))
  have hlast : ∀ x y, Aside x y → Aside x (eccLast pgShed pa isUe weeder y) := fun x y h => by
    unfold eccLast
    rw [show (if pgShed = pgDram then 0x012 else 0x011) = 0x011 from if_neg (by decide)]
    extract_lets old
    split
    · exact h
    · exact hset _ _ (by decide) h
  unfold eccEvent
  simp only [hpg, hreg]
  rw [show (if pgShed = pgDram then 0x011 else 0x010) = 0x010 from if_neg (by decide)]
  have h1 : ∀ lo, Aside s (eccLast pgShed pa isUe weeder (bumpF pgShed 0x010 lo 16 1 s)) := fun lo =>
    hlast _ _ (hset _ _ (by decide) (.refl s))
  split
  · exact ((h1 16).trans (pageIrq_aside asidePage_shed 0 _)).trans (frecAdd_aside _ _ _ _)
  · exact h1 0

theorem memRead_aside (up : Upset) (src : Nat) (s : State) : Aside s (memRead pa up src s).2 := by
  have hue : Aside s (eccEvent pa true false src (ueMark pa s)) :=
    (aside_of_eq rfl rfl rfl rfl : Aside s (ueMark pa s)).trans (eccEvent_aside hreg true false src _)
  unfold memRead
  split
  · exact .refl s
  split
  · exact hue
  split
  · exact eccEvent_aside hreg false false src s
  · next errs _ _ =>
    have hsym : symRead pa errs false src s = (true, s) := by
      unfold symRead
      rw [hreg]
    rw [hsym]
    exact .refl s
  · exact .refl s

end

theorem tableUpset_aside (s : State) : Aside s (tableUpset s).2 := by
  unfold tableUpset
  split <;> exact aside_of_eq rfl rfl rfl rfl

/-- A table word is read from Shed. -/
theorem tableRead_aside {pa : Nat} (hok : tableOk pa = true) (src : Nat) (s : State) : Aside s (tableRead src pa s).2 := by
  unfold tableOk at hok
  split at hok
  case h_2 => cases hok
  case h_1 b hreg =>
    have hread := (tableUpset_aside s).trans (memRead_aside hreg (tableUpset s).1 src (tableUpset s).2)
    unfold tableRead
    dsimp only
    split
    · next heq => rw [heq] at hread; exact hread
    · next heq => rw [heq] at hread; exact hread

theorem xlatWalk_aside (src : Nat) (tineReq : Bool) (root v : Nat) (s : State) : Aside s (xlatWalk src tineReq root v s).2 := by
  unfold xlatWalk
  extract_lets a1
  split
  · exact .refl s
  · next hok1 =>
    have hread1 := tableRead_aside (by simpa using hok1) src s
    split
    · next heq => rw [heq] at hread1; exact hread1
    · next e s1 heq =>
      rw [heq] at hread1
      split
      · exact hread1
      · next a2 _ =>
        split
        · exact hread1
        · next hok2 =>
          have hread2 := tableRead_aside (by simpa using hok2) src s1
          split
          · next heq2 => rw [heq2] at hread2; exact hread1.trans hread2
          · next heq2 => rw [heq2] at hread2; exact hread1.trans hread2

theorem cacheInsert_aside (size : Nat) (l : XLeaf) (c : List XLeaf) (s : State) : Aside s (cacheInsert size l c s).2 := by
  unfold cacheInsert
  split <;> exact aside_of_eq rfl rfl rfl rfl

/-- A channel's translation is beside the channels. -/
theorem chanXlat_aside (c v : Nat) (a : Acc) (fetch : Bool) (s : State) : Aside s (chanXlat c v a fetch s).2 := by
  unfold chanXlat
  extract_lets cfg w
  split
  · exact .refl s
  split
  · exact .refl s
  have hwalk := xlatWalk_aside (0x100 + c) false (getF cfg 14 20) v s
  split
  · next heq => rw [heq] at hwalk; exact hwalk
  · next l s0 heq =>
    rw [heq] at hwalk
    have hinsert := cacheInsert_aside 64 l s.xcache s0
    exact (hwalk.trans hinsert).trans (aside_of_eq rfl rfl rfl rfl)

end

/-! ## The status half of a command that is over (R209, R486) -/

section
variable {s : State} {c : Nat}

/-- At a plain word it sets out. -/
theorem lateStatus_plain {cmd st cause replays : Nat} (h : ChPlain s c ((cmd + 1) % 2 ^ 32)) :
    ∃ w, lateStatus c cmd st cause replays s = chIssue c w s ∧ w.pa = (cmd + 1) % 2 ^ 32 ∧ w.data = statusHalf st cause replays := by
  have hxlat := chanXlat_plain h (a := { store := true, half := true }) rfl false
  refine ⟨chWriteNew s c 5 ((cmd + 1) % 2 ^ 32) ((cmd + 1) % 2 ^ 32) 0 0 (statusHalf st cause replays), ?_, ownPa_chPlain h s, rfl⟩
  unfold lateStatus
  simp only [hxlat]

/-- An error of a channel that a STOP has ended is reported and changes none of its registers (R245). -/
theorem chError_draining (hc : c < 128) (hstate : chState s c = 5) (j : Journal) :
    (chError c j s).mem = s.mem ∧ ∀ k, k < 0x18 → chR (chError c j s) c k = chR s c k := by
  have hpg : ∀ (n : Nat) (x : State), Aside x (pageIrq pgTrel n x) := pageIrq_aside asidePage_trel
  have hnone : ¬ (chState s c = 1 ∨ chState s c = 2) := by omega
  unfold chError
  extract_lets self s1
  have haside := hpg (if chWalled s c = true then 4 else 3) (modChan c (fun x => { x with journal := j, retry := false, tries := 0 }) s1)
  have hs1 : s1 = modChan c (fun x => { x with errStop := decide (chState s c = 4) }) s := if_neg hnone
  exact ⟨haside.mem.trans (by rw [hs1]; rfl), fun k hk => (haside.chR_eq hc hk).trans (by rw [hs1]; rfl)⟩

/-- After the commit of a STOP a status half changes no register of its channel, even where a fault stops it. -/
theorem lateStatus_draining (hc : c < 128) (hstate : chState s c = 5) (cmd st cause replays : Nat) :
    let s' := lateStatus c cmd st cause replays s
    s'.mem = s.mem ∧ ∀ k, k < 0x18 → chR s' c k = chR s c k := by
  have haside := chanXlat_aside c ((cmd + 1) % 2 ^ 32) { store := true, half := true } false s
  intro s'
  simp only [s']
  unfold lateStatus
  extract_lets va half
  split
  · next a s1 heq =>
    rw [heq] at haside
    exact ⟨haside.mem, fun k hk => haside.chR_eq hc hk⟩
  · next cs sb info s1 heq =>
    rw [heq] at haside
    have hstate1 : chState s1 c = 5 := by
      rw [chState, chF, haside.chR_eq hc (by decide)]
      exact hstate
    dsimp only
    rw [if_pos hstate]
    obtain ⟨hmem, hregs⟩ := chError_draining hc hstate1
      (accJournal ((va + 2 ^ 32 - 1) % 2 ^ 32) true cs sb va)
    exact ⟨hmem.trans haside.mem, fun k hk => (hregs k hk).trans (haside.chR_eq hc hk)⟩

/-! ## The marks of a BAD command (R212) -/

/-- A channel with the marks of its last command: BAD ones are marked, counted and reported, the others leave it as it was. -/
structure Marked (c : Nat) (bad : Bool) (y z : State) : Prop where
  mem : z.mem = y.mem
  chan : chanAt z c = chanAt y c
  stat : ∀ i, i ≠ 12 → i ≠ 13 → bit (chR z c 1) i = bit (chR y c 1) i
  marks : bad = true → bit (chR z c 1) 13 = true ∧ chF z c 0xF 0 16 = min 65535 (chF y c 0xF 0 16 + 1)
  plain : ∀ va, ChPlain y c va → ChPlain z c va

theorem badMark_marked (hc : c < 128) (s : State) : Marked c true s (badMark c s) := by
  set x := setStat c 12 true (setStat c 13 true s) with hx
  set y := bumpF (pgTrch c) (chBase c + 0xF) 0 16 1 x with hy
  have hx_word : chR x c 1 = setB (setB (chR s c 1) 13 true) 12 true := (chR_setStat_same ..).trans (by rw [chR_setStat_same])
  have hx_count : chR x c 0xF = chR s c 0xF := by rw [hx, chR_setStat_ne _ _ _ _ (by decide), chR_setStat_ne _ _ _ _ (by decide)]
  have hy_word : chR y c 1 = chR x c 1 := chR_setChF_ne x c 0 16 _ (by decide)
  have hx_only : ChOnly c [1, 0xF] s x := ((ChOnly.refl c _ s).setStat (by simp) 13 true).setStat (by simp) 12 true
  have hy_only : ChOnly c [1, 0xF] s y := hx_only.setChF (k := 0xF) (by simp) (by decide) 0 16 _
  have haside : Aside y (badMark c s) := pageIrq_aside asidePage_trel 1 y
  have hcount : chF y c 0xF 0 16 = min 65535 (chF s c 0xF 0 16 + 1) := by
    have hset : chF y c 0xF 0 16 = satAdd (2 ^ 16 - 1) (chF x c 0xF 0 16) 1 % 2 ^ 16 :=
      (congrArg (getF · 0 16) (chR_setChF_same ..)).trans (getF_setF_same _ _ (by decide))
    rw [hset, satAdd, chF, hx_count, ← chF]
    omega
  refine ⟨haside.mem.trans hy_only.mem, ?_, fun i h12 h13 => ?_, fun _ => ⟨?_, ?_⟩, fun va hva => ?_⟩
  · rw [haside.chanAt_eq, hy, chanAt_bumpF, hx, chanAt_setStat, chanAt_setStat]
  · rw [haside.chR_eq hc (by decide), hy_word, hx_word, bit_setB_ne _ _ h12, bit_setB_ne _ _ h13]
  · rw [haside.chR_eq hc (by decide), hy_word, hx_word, bit_setB_ne _ _ (by decide)]
    exact bit_setB_same _ _ (by decide)
  · rw [chF, haside.chR_eq hc (by decide)]
    exact hcount
  · exact chPlain_of_aside (chPlain_of_only hva hy_only hc (hy_only.chR_same (by decide) (by simp))) hc haside

theorem marked_refl (c : Nat) (s : State) : Marked c false s s :=
  ⟨rfl, rfl, fun _ _ _ => rfl, fun h => (nomatch h), fun _ => id⟩

/-! ## The commit (R226) -/

/-- What a stopping channel forgets, but for its status word: its MOVE is over, and what an error holds is dropped. -/
def stopLeft (c : Nat) (s : State) : State :=
  let keep := match (chanAt s c).phase with | .posted | .stated => true | _ => false
  let bad := moveBad (chanAt s c)
  let s0 := chForget c (modChan c (fun x => { x with outst := x.outst.filter fun w => decide (w.held ≠ 2) }) s)
  modChan c (fun x => { x with
    phase := if keep then x.phase else .next
    skip := if keep then x.skip else 0
    ended := x.ended.filter fun e => x.outst.any fun w => decide (w.kind = 4) && decide (w.mv = e.mv)
    retry := false, tries := 0, errStop := false, resuming := false }) (moveLeave c bad bad s0)

/-- What the commit of a STOP makes of its channel before the marks of the command that it ends. -/
def stopBase (c : Nat) (s : State) : State := setChF c 1 30 4 0 (setChF c 1 0 6 5 (setStat c 10 false (stopLeft c s)))

theorem stopCommit_eq (c : Nat) (s : State) :
    stopCommit c s = stopMarks c (moveBad (chanAt s c)) (statusDue s c) (chanAt s c).replays (stopBase c s) := rfl

theorem stopLeft_fields (c : Nat) (s : State) : (stopLeft c s).regs = s.regs ∧ (stopLeft c s).mem = s.mem ∧
    (stopLeft c s).hops = s.hops ∧ (stopLeft c s).dom = s.dom := by
  simp only [stopLeft, moveLeave, modChan, setChan_regs, setChan_mem, setChan_hops, setChan_dom, unhold, chForget, and_self]

theorem reg_stopLeft (c : Nat) (s : State) (p o : Nat) : reg (stopLeft c s) p o = reg s p o := by
  rw [reg, (stopLeft_fields c s).1, reg]

/-- Its outstanding writes go on, but for those that an error holds. -/
theorem outst_stopLeft (c : Nat) (s : State) : (chanAt (stopLeft c s) c).outst.map (fun y => (y.pa, y.data)) =
    ((chanAt s c).outst.filter fun y => decide (y.held ≠ 2)).map fun y => (y.pa, y.data) := by
  set x := chForget c (modChan c (fun x => { x with outst := x.outst.filter fun w => decide (w.held ≠ 2) }) s) with hx
  have hheld : (chanAt x c).outst = (chanAt s c).outst.filter fun w => decide (w.held ≠ 2) :=
    congrArg Chan.outst (chanAt_modChan_same s c fun x => { x with outst := x.outst.filter fun w => decide (w.held ≠ 2) })
  have hbase : (chanAt (stopLeft c s) c).outst =
      (chanAt x c).outst.map fun w => if w.kind = 0 then { w with kind := 4 } else w := by
    unfold stopLeft
    rw [chanAt_modChan_same, moveLeave, chanAt_modChan_same]
    rfl
  rw [hbase, hheld, List.map_map]
  refine List.map_congr_left fun w _ => ?_
  dsimp only [Function.comp_apply]
  split <;> rfl

theorem stopBase_only (c : Nat) (s : State) : ChOnly c [1] (stopLeft c s) (stopBase c s) :=
  ((ChOnly.refl c [1] (stopLeft c s)).setStat (by simp) 10 false |>.setChF (k := 1) (by simp) (by decide) 0 6 5).setChF (k := 1)
    (by simp) (by decide) 30 4 0

theorem chR_stopBase_stat (c : Nat) (s : State) :
    chR (stopBase c s) c 1 = setF (setF (setB (chR s c 1) 10 false) 0 6 5) 30 4 0 := by
  rw [stopBase, chR_setChF_same, chR_setChF_same, chR_setStat_same]
  exact congrArg (fun w => setF (setF (setB w 10 false) 0 6 5) 30 4 0) (reg_stopLeft ..)

theorem chR_stopBase (c : Nat) (s : State) {k : Nat} (hk : k < 0x18) (hne : k ≠ 1) : chR (stopBase c s) c k = chR s c k :=
  ((stopBase_only c s).chR_same hk (by simpa using hne)).trans (reg_stopLeft ..)

theorem stopBase_mem (c : Nat) (s : State) : (stopBase c s).mem = s.mem :=
  (stopBase_only c s).mem.trans (stopLeft_fields c s).2.1

/-- The channel is draining, with no suspend pending and no wait shown. -/
theorem stopBase_stat (c : Nat) (s : State) : chState (stopBase c s) c = 5 ∧ bit (chR (stopBase c s) c 1) 10 = false ∧
    chF (stopBase c s) c 1 30 4 = 0 := by
  refine ⟨?_, ?_, ?_⟩
  · rw [chState, chF, chR_stopBase_stat, getF_setF_ne _ _ (by decide)]
    exact getF_setF_within (lo := 0) (a := 0) _ (by decide) (by decide)
  · rw [chR_stopBase_stat, bit_setF_ne _ _ (by decide), bit_setF_ne _ _ (by decide)]
    exact bit_setB_same _ _ (by decide)
  · rw [chF, chR_stopBase_stat, getF_setF_same _ _ (by decide)]
    rfl

theorem chPlain_stopBase {va : Nat} (hc : c < 128) (h : ChPlain s c va) : ChPlain (stopBase c s) c va := by
  have hleft : ChPlain (stopLeft c s) c va := chPlain_of_same h (reg_stopLeft ..) (reg_stopLeft ..) (stopLeft_fields c s).2.2.2
  exact chPlain_of_only hleft (stopBase_only c s) hc ((stopBase_only c s).chR_same (by decide) (by simp))

/-- A channel whose STOP has committed drains; the command that it ends gets its marks (R212, R226). -/
structure Stopped (c : Nat) (s s' : State) : Prop where
  state : chState s' c = 5
  quiet : bit (chR s' c 1) 10 = false
  wait : chF s' c 1 30 4 = 0
  mem : s'.mem = s.mem
  marks : moveBad (chanAt s c) = true → bit (chR s' c 1) 13 = true ∧ chF s' c 0xF 0 16 = min 65535 (chF s c 0xF 0 16 + 1)

/-- The stopping channel with the marks of its last command, before a status half that is still due. -/
def stopMarked (c : Nat) (s : State) : State := if moveBad (chanAt s c) = true then badMark c (stopBase c s) else stopBase c s

theorem stopMarked_marked (hc : c < 128) (s : State) : Marked c (moveBad (chanAt s c)) (stopBase c s) (stopMarked c s) := by
  unfold stopMarked
  split
  · next hbad => exact hbad ▸ badMark_marked hc (stopBase c s)
  · next hgood => exact (Bool.not_eq_true _ ▸ hgood : moveBad (chanAt s c) = false) ▸ marked_refl c (stopBase c s)

theorem chCpc_stopBase (c : Nat) (s : State) : chCpc (stopBase c s) c = chCpc s c := by
  rw [chCpc, chF, chR_stopBase c s (by decide) (by decide), chCpc, chF]

theorem stopCommit_none (hdue : statusDue s c = none) : stopCommit c s = stopMarked c s := by
  rw [stopCommit_eq, hdue, stopMarks, stopMarked]

theorem stopCommit_some {ts cause : Nat} (hdue : statusDue s c = some (ts, cause)) :
    stopCommit c s = lateStatus c (chCpc s c) ts cause (chanAt s c).replays (stopMarked c s) := by
  rw [stopCommit_eq, hdue, stopMarks, chCpc_stopBase, stopMarked]

/-- What has the registers of the marked channel is stopped. -/
theorem stopped_of_marked {s' : State} (hc : c < 128) (hmem : s'.mem = (stopMarked c s).mem)
    (hregs : ∀ k, k < 0x18 → chR s' c k = chR (stopMarked c s) c k) : Stopped c s s' := by
  have hz := stopMarked_marked hc s
  obtain ⟨hstate, hquiet, hwait⟩ := stopBase_stat c s
  have hstat : ∀ i, i ≠ 12 → i ≠ 13 → bit (chR s' c 1) i = bit (chR (stopBase c s) c 1) i := fun i h12 h13 => by
    rw [hregs 1 (by decide), hz.stat i h12 h13]
  refine ⟨?_, (hstat 10 (by decide) (by decide)).trans hquiet, ?_, (hmem.trans hz.mem).trans (stopBase_mem c s), fun hbad => ?_⟩
  · rw [← hstate]
    exact getF_congr fun i hlo hhi => hstat i (by omega) (by omega)
  · rw [← hwait]
    exact getF_congr fun i hlo hhi => hstat i (by omega) (by omega)
  · obtain ⟨hmark, hcount⟩ := hz.marks hbad
    have hbase : chF (stopBase c s) c 0xF 0 16 = chF s c 0xF 0 16 := by rw [chF, chR_stopBase c s (by decide) (by decide), chF]
    rw [hbase] at hcount
    exact ⟨by rw [hregs 1 (by decide)]; exact hmark, by rw [chF, hregs 0xF (by decide)]; exact hcount⟩

theorem stopCommit_stopped (hc : c < 128) (s : State) : Stopped c s (stopCommit c s) := by
  have hmarked : Stopped c s (stopMarked c s) := stopped_of_marked hc rfl fun _ _ => rfl
  cases hdue : statusDue s c with
  | none =>
    rw [stopCommit_none hdue]
    exact hmarked
  | some due =>
    obtain ⟨ts, cause⟩ := due
    obtain ⟨hmem, hregs⟩ := lateStatus_draining hc hmarked.state (chCpc s c) ts cause (chanAt s c).replays
    rw [stopCommit_some hdue]
    exact stopped_of_marked hc hmem hregs

/-- The writes on their way are those that were, but for what an error holds. -/
theorem outst_stopMarked (hc : c < 128) (s : State) : (chanAt (stopMarked c s) c).outst.map (fun y => (y.pa, y.data)) =
    ((chanAt s c).outst.filter fun y => decide (y.held ≠ 2)).map fun y => (y.pa, y.data) := by
  rw [(stopMarked_marked hc s).chan]
  exact outst_stopLeft c s

/-- A status half that is due sets out after them (R212). -/
theorem outst_stopCommit_some {ts cause : Nat} (hc : c < 128) (hdue : statusDue s c = some (ts, cause))
    (hplain : ChPlain s c ((chCpc s c + 1) % 2 ^ 32)) :
    (chanAt (stopCommit c s) c).outst.map (fun y => (y.pa, y.data)) =
      ((chanAt s c).outst.filter fun y => decide (y.held ≠ 2)).map (fun y => (y.pa, y.data)) ++
        [((chCpc s c + 1) % 2 ^ 32, .half true (BitVec.ofNat 20 (ts + 4 * cause + 2 ^ 8 * (chanAt s c).replays)))] := by
  obtain ⟨w, hissue, hpa, hdata⟩ := lateStatus_plain (cmd := chCpc s c) (st := ts) (cause := cause) (replays := (chanAt s c).replays)
    ((stopMarked_marked hc s).plain _ (chPlain_stopBase hc hplain))
  rw [stopCommit_some hdue, hissue, chIssue, chanAt_modChan_same]
  dsimp only
  rw [List.map_append, List.map_singleton, hpa, hdata, outst_stopMarked hc]
  rfl

/-- With no MOVE marked BAD and no status half due, no hopper changes. -/
theorem stopCommit_hops (hgood : moveBad (chanAt s c) = false) (hdue : statusDue s c = none) : (stopCommit c s).hops = s.hops := by
  rw [stopCommit_none hdue, stopMarked, hgood]
  exact (stopBase_only c s).hops.trans (stopLeft_fields c s).2.2.1

end

end Sys2Proof.Machine
end

section
/-! SUPPORT. Requests to a channel and its registers (R207, R217, R225–R231, R249): what each request makes of a channel in each state, how
a written ring index, lease field or owner reads, the journal that a read latches, and the statement about them. -/

namespace Sys2Proof.Machine

section
variable {s : State} {c : Nat}

/-! ## Marks of the status word -/

/-- A mark beside the state stands as it was set. -/
theorem marked_setStat (b : Nat) (hlo : 3 ≤ b) (hhi : b < 40) (v : Bool) : bit (chR (setStat c b v s) c 1) b = v ∧
    chState (setStat c b v s) c = chState s c ∧ ChOnly c [1] s (setStat c b v s) := by
  refine ⟨?_, chState_setStat b v hlo, (ChOnly.refl c [1] s).setStat (by simp) b v⟩
  rw [chR_setStat_same]
  exact bit_setB_same _ v hhi

/-- A state that is set reads so, and the rest of the status word stands. -/
theorem chState_setChState {v : Nat} (hv : v < 8) : chState (setChState c v s) c = v ∧
    (∀ i, 3 ≤ i → bit (chR (setChState c v s) c 1) i = bit (chR s c 1) i) ∧ ChOnly c [1] s (setChState c v s) := by
  refine ⟨?_, fun i hi => ?_, (ChOnly.refl c [1] s).setChState (by simp) v⟩
  · rw [chState, chF, chR_setChState_same, getF_setF_same _ _ (by decide)]
    exact Nat.mod_eq_of_lt hv
  · rw [chR_setChState_same, bit_setF_ne _ _ (by omega)]

/-! ## START (R227) -/

/-- A linear channel that may start runs from TRCH_START. -/
theorem tryStart_linear (hring : chRing s c = false) (hslot : slotOk (cmd12 s c) (chF s c 4 0 32) = true) :
    let s' := tryStart c s
    chState s' c = 1 ∧ chCpc s' c = chF s c 4 0 32 ∧ chLd s' c = 0 ∧ chF s' c 1 3 3 = 0 ∧ (chanAt s' c).phase = .next ∧
      (chanAt s' c).outst = (chanAt s c).outst ∧ bit (chR s' c 1) 9 = false ∧ ChOnly c [1, 5] s s' := by
  have hok : startOk s c = true := by rw [startOk, hring]; exact hslot
  set x := modChan c (fun x => { x with
    phase := .next, base := chF s c 4 0 32, bar := false, skip := 0, tries := 0, retry := false, replays := 0
    errStop := false, resuming := false })
    (setChR c 1 (setF (setF (setF (setF (chR s c 1) 0 9 1) 9 4 0) 17 5 0) 30 4 0) s) with hx
  have hstart : tryStart c s = setCpc c (chF s c 4 0 32) x := by
    rw [tryStart, if_pos hok, chStart]
    exact if_neg (by simp [hring])
  have hword : chR (setCpc c (chF s c 4 0 32) x) c 1 = setF (setF (setF (setF (chR s c 1) 0 9 1) 9 4 0) 17 5 0) 30 4 0 := by
    rw [chR_setCpc_ne _ _ _ (by decide), hx, chR_modChan, chR_setChR_same]
  have hlow : ∀ a n, a + n ≤ 9 → chF (setCpc c (chF s c 4 0 32) x) c 1 a n = 1 / 2 ^ a % 2 ^ n := fun a n ha => by
    rw [chF, hword, getF_setF_ne _ _ (.inl (by omega)), getF_setF_ne _ _ (.inl (by omega)), getF_setF_ne _ _ (.inl (by omega)),
      ← Nat.zero_add a, getF_setF_within _ (by omega) (by decide), Nat.zero_add]
  have hchan : chanAt (setCpc c (chF s c 4 0 32) x) c = { chanAt s c with
      phase := .next, base := chF s c 4 0 32, bar := false, skip := 0, tries := 0, retry := false, replays := 0
      errStop := false, resuming := false } := by
    rw [chanAt_setCpc, hx, chanAt_modChan_same, chanAt_setChR]
  rw [hstart]
  refine ⟨hlow 0 3 (by decide), ?_, hlow 6 3 (by decide), hlow 3 3 (by decide), by rw [hchan], by rw [hchan], ?_, ?_⟩
  · rw [chCpc_setCpc]
    exact Nat.mod_eq_of_lt (getF_lt _ _ _)
  · rw [hword, bit_setF_ne _ _ (by decide), bit_setF_ne _ _ (by decide), bit_setF, if_pos (by decide)]
    rfl
  · exact ((ChOnly.refl c [1, 5] s).setChR (by simp) (by decide) _ |>.modChan _).setCpc (by simp) _

/-- START where the slot at TRCH_START is misplaced is refused. -/
theorem reqStart_misplaced (hstate : chState s c = 0) (hring : chRing s c = false)
    (hslot : slotOk (cmd12 s c) (chF s c 4 0 32) = false) : reqStart c s = setStat c 14 true s := by
  have hbad : startOk s c = false := by rw [startOk, hring]; exact hslot
  unfold reqStart
  rw [hstate]
  exact if_neg (by simp [hbad])

/-- START of a stopping channel goes on where it was. -/
theorem reqStart_stopping (hstate : chState s c = 4) (hprev : (chanAt s c).prev < 8) (hstop : (chanAt s c).errStop = false)
    (hsettled : ChSettled s c) : chState (reqStart c s) c = (chanAt s c).prev ∧ ChOnly c [1] s (reqStart c s) := by
  obtain ⟨hst, -, honly⟩ := chState_setChState (s := s) (c := c) hprev
  have hstart : reqStart c s = setChState c (chanAt s c).prev s := by
    unfold reqStart
    rw [hstate]
    dsimp only
    rw [if_neg (by simp [hstop])]
    exact chGoOn_settled (chSettled_of_same hsettled rfl (by rw [chRing, chR_setChState_ne _ _ _ (by decide), chRing]))
  rw [hstart]
  exact ⟨hst, honly⟩

/-- Where an error struck meanwhile it suspends (R245). -/
theorem reqStart_struck (hstate : chState s c = 4) (hprev : (chanAt s c).prev < 8) (hstop : (chanAt s c).errStop = true) :
    let s' := reqStart c s
    chState s' c = 3 ∧ chF s' c 1 3 3 = 4 ∧ (chanAt s' c).prev = (chanAt s c).prev ∧ s'.mem = s.mem := by
  obtain ⟨hst, -, honly⟩ := chState_setChState (s := s) (c := c) hprev
  have hstart : reqStart c s = chSuspend c 4 (setChState c (chanAt s c).prev s) := by
    unfold reqStart
    rw [hstate]
    exact if_pos hstop
  obtain ⟨hsus, hcause, -⟩ := chState_chSuspend c (setChState c (chanAt s c).prev s) (cause := 4) (by decide)
  obtain ⟨j, hchan⟩ := chanAt_chSuspend c 4 (setChState c (chanAt s c).prev s)
  rw [hstart]
  exact ⟨hsus, hcause, by rw [hchan]; exact hst, (chSuspend_mem ..).trans honly.mem⟩

/-- START of a draining channel is remembered. -/
theorem reqStart_draining (hstate : chState s c = 5) : reqStart c s = setStat c 9 true s := by
  unfold reqStart
  rw [hstate]
  rfl

/-- START of a channel that is under way is refused. -/
theorem reqStart_busy (hstate : chState s c ∈ [1, 2, 3]) : reqStart c s = setStat c 14 true s := by
  simp only [List.mem_cons, List.not_mem_nil, or_false] at hstate
  unfold reqStart
  obtain h | h | h := hstate <;> rw [h] <;> rfl

/-! ## STOP, SUSPEND and RESUME (R225, R226) -/

/-- STOP between two commands takes effect after the access under way. -/
theorem reqStop_running (hstate : chState s c = 1) (hphase : (chanAt s c).phase = .next ∨ ∃ a b, (chanAt s c).phase = .got a b) :
    let s' := reqStop c s
    chState s' c = 4 ∧ bit (chR s' c 1) 10 = bit (chR s c 1) 10 ∧ (chanAt s' c).prev = 1 ∧ ChOnly c [1] s s' := by
  set x := modChan c (fun x => { x with prev := 1 }) s with hx
  obtain ⟨hst, hbits, honly⟩ := chState_setChState (s := x) (c := c) (v := 4) (by decide)
  have hheld : moveHeld s c = false := by
    unfold moveHeld
    obtain h | ⟨a, b, h⟩ := hphase <;> rw [h]
  have hstop : reqStop c s = setChState c 4 x := by
    unfold reqStop
    rw [hstate]
    obtain h | ⟨a, b, h⟩ := hphase <;> simp [h, hheld, hx]
  rw [hstop]
  refine ⟨hst, hbits 10 (by decide), ?_, ((ChOnly.refl c [1] s).modChan _).trans honly⟩
  rw [chanAt_setChState, hx, chanAt_modChan_same]

theorem reqStop_halted (hstate : chState s c = 2 ∨ chState s c = 3) : reqStop c s = stopCommit c s := by
  unfold reqStop
  obtain h | h := hstate <;> rw [h] <;> rfl

/-- A channel that a SUSPEND stops at once shows its cause and what it was. -/
theorem suspended_spec (s : State) (c : Nat) {cause : Nat} (hcause : cause < 8) :
    let s' := chSuspend c cause s
    chState s' c = 3 ∧ chF s' c 1 3 3 = cause ∧ (chanAt s' c).prev = chState s c ∧ s'.mem = s.mem := by
  obtain ⟨hst, hcs, -⟩ := chState_chSuspend c s hcause
  obtain ⟨j, hchan⟩ := chanAt_chSuspend c cause s
  exact ⟨hst, hcs, by rw [hchan], chSuspend_mem c cause s⟩

/-- At a boundary and between elements SUSPEND stops the channel. -/
theorem reqSuspend_boundary {cause : Nat} (hstate : chState s c = 1) (hphase : (chanAt s c).phase = .next ∨ ∃ m, (chanAt s c).phase = .move m)
    (hretry : (chanAt s c).retry = false) : reqSuspend c cause s = chSuspend c cause s := by
  unfold reqSuspend
  rw [hstate]
  obtain h | ⟨m, h⟩ := hphase <;> simp [h, hretry]

/-- Inside another command it is pending. -/
theorem reqSuspend_pending {cause : Nat} (hstate : chState s c = 1) (hphase : ∃ a b, (chanAt s c).phase = .got a b) :
    chState (reqSuspend c cause s) c = 1 ∧ bit (chR (reqSuspend c cause s) c 1) 10 = true ∧ ChOnly c [1] s (reqSuspend c cause s) := by
  obtain ⟨a, b, h⟩ := hphase
  have hpend : reqSuspend c cause s = setStat c 10 true (setChan c { chanAt s c with suspCause := cause } s) := by
    unfold reqSuspend
    rw [hstate]
    simp [h]
  obtain ⟨hbit, hst, honly⟩ := marked_setStat (s := setChan c { chanAt s c with suspCause := cause } s) (c := c) 10 (by decide) (by decide) true
  rw [hpend]
  exact ⟨hst.trans hstate, hbit, ((ChOnly.refl c [1] s).setChan _).trans honly⟩

theorem reqResume_running (hstate : chState s c = 1) : reqResume c s = setStat c 10 false s := by
  unfold reqResume
  rw [hstate]
  rfl

/-- A program error is not resumed (R211). -/
theorem reqResume_progErr (hstate : chState s c = 3) (hcause : chF s c 1 3 3 = 5) : reqResume c s = s := by
  unfold reqResume
  rw [hstate]
  exact if_pos hcause

/-- CLRSIG zeroes the count (R217). -/
theorem clrSig_spec (s : State) (c : Nat) : sigCnt (clrSig c s) c = 0 ∧ chState (clrSig c s) c = chState s c ∧ ChOnly c [1] s (clrSig c s) := by
  have hword : chR (clrSig c s) c 1 = setF (chR s c 1) 22 8 0 := chR_setChF_same ..
  refine ⟨?_, ?_, (ChOnly.refl c [1] s).setChF (k := 1) (by simp) (by decide) _ _ _⟩
  · rw [sigCnt, chF, hword, getF_setF_same _ _ (by decide)]
    rfl
  · rw [chState, chF, hword, getF_setF_ne _ _ (by decide), chState, chF]

/-! ## Registers (R207, R230) -/

/-- A free ring index register reads as it was written. -/
theorem ringPi_setChR (s : State) (c : Nat) (pi : BitVec 16) : ringPi (setChR c 7 (wd pi.toNat) s) c = pi.toNat := by
  have := pi.isLt
  rw [ringPi, chF, chR_setChR_same, getF_wd _ _ _ (by decide)]
  omega

theorem ringSettle_only (c : Nat) (s : State) : ChOnly c [1, 5, 8] s (ringSettle c s) ∧ ∀ k, k < 0x18 → k ∉ [1, 5, 8] →
    chR (ringSettle c s) c k = chR s c k := by
  have honly : ChOnly c [1, 5, 8] s (ringSettle c s) := by
    by_cases hsay : chRing s c = false ∨ (chanAt s c).phase ≠ .next ∨ chState s c ≠ 1 ∧ chState s c ≠ 2
    · rw [ringSettle_idle hsay]
      exact .refl c _ s
    · push Not at hsay
      obtain ⟨hring, hphase, hstate⟩ := hsay
      exact (ringSettle_settled (by simpa using hring) hphase (by omega)).only
  exact ⟨honly, fun k hk hne => honly.chR_same hk hne⟩

/-- A waiting ring that is given a command runs (R207). -/
theorem ringSettle_filled (hring : chRing s c = true) (hstate : chState s c = 2) (hphase : (chanAt s c).phase = .next)
    (hskip : (chanAt s c).skip = 0) (hci : ringCi s c < ringSize s c) (hne : ringPi s c ≠ ringCi s c) :
    chState (ringSettle c s) c = 1 ∧ chF (ringSettle c s) c 1 30 4 = 0 := by
  have hat : ringAt s c = ringCi s c := by
    rw [ringAt, ringHave, hskip, Nat.min_zero, Nat.add_zero]
    exact Nat.mod_eq_of_lt (by omega)
  have hfilled : ringAt s c ≠ ringPi s c := by omega
  refine ⟨?_, ?_⟩
  · rw [(ringSettle_settled hring hphase (.inr hstate)).state, if_neg hfilled]
  · rw [ringSettle_ring hring hphase (.inr hstate), if_neg hfilled, if_pos hstate, chF, chR_setChF_same, getF_setF_same _ _ (by decide)]
    rfl

/-- CRING_PI (R207). -/
theorem cringPi_spec (s : State) (c : Nat) (pi : BitVec 16) :
    let s' := ringSettle c (setChR c 7 (wd pi.toNat) s)
    ringPi s' c = pi.toNat ∧
      (chRing s c = true → chState s c = 2 → (chanAt s c).phase = .next → (chanAt s c).skip = 0 → ringCi s c < ringSize s c →
        pi.toNat ≠ ringCi s c → chState s' c = 1 ∧ chF s' c 1 30 4 = 0) ∧ ChOnly c [1, 5, 7, 8] s s' := by
  set x := setChR c 7 (wd pi.toNat) s with hx
  obtain ⟨honly, hregs⟩ := ringSettle_only c x
  have hkeep : ∀ k, k ≠ 7 → chR x c k = chR s c k := fun k hk => chR_setChR_ne _ _ _ hk
  have hpi : ringPi x c = pi.toNat := ringPi_setChR s c pi
  refine ⟨?_, fun hring hstate hphase hskip hci hne => ?_, ?_⟩
  · rw [ringPi, chF, hregs 7 (by decide) (by decide)]
    exact hpi
  · refine ringSettle_filled ?_ ?_ hphase hskip ?_ ?_
    · rw [chRing, hkeep 2 (by decide)]
      exact hring
    · rw [chState, chF, hkeep 1 (by decide)]
      exact hstate
    · rw [ringCi, chF, hkeep 8 (by decide), ringSize, chF, hkeep 6 (by decide)]
      exact hci
    · rw [hpi, ringCi, chF, hkeep 8 (by decide)]
      exact hne
  · exact ((ChOnly.refl c [1, 5, 7, 8] s).setChR (by simp) (by decide) _).trans (honly.mono (by simp))

/-- SRING_CI is a field of 16 bits that a write stores (Table 9-15). -/
theorem trchSpec_sringCi (c : Nat) : trchSpec (chBase c + 0xC) = rsRw 0xFFFF 0 := by
  have hoff : (chBase c + 0xC - 0x100) % 0x18 = 0xC := by
    unfold chBase
    omega
  unfold trchSpec
  rw [if_pos (by unfold chBase; omega), hoff]
  rfl

theorem sringCi_spec (s : State) (c : Nat) (ci : BitVec 16) :
    let s' := setChR c 0xC (writeBySpec (trchSpec (chBase c + 0xC)) (chR s c 0xC) (wd ci.toNat)) s
    chF s' c 0xC 0 16 = ci.toNat ∧ ChOnly c [0xC] s s' := by
  refine ⟨?_, (ChOnly.refl c [0xC] s).setChR (by simp) (by decide) _⟩
  rw [chF, chR_setChR_same, trchSpec_sringCi]
  have hbits : getF (writeBySpec (rsRw 0xFFFF 0) (chR s c 0xC) (wd ci.toNat)) 0 16 = getF (wd ci.toNat) 0 16 := by
    refine getF_congr fun i _ hi => ?_
    have hmask : bit (wd 0xFFFF) i = true := by
      rw [bit_wd, show 0xFFFF = 2 ^ 16 - 1 from rfl, Nat.testBit_two_pow_sub_one]
      simp
      omega
    have hnone : bit (wd 0) i = false := by
      rw [bit_wd]
      simp
    rw [bit_writeBySpec _ _ _ (by omega)]
    simp [plainBit, rsRw, hmask, hnone]
  rw [hbits, getF_wd _ _ _ (by decide)]
  have := ci.isLt
  omega

/-- A write of an owner and its lease (R230). -/
theorem bit_ownWrite (s : State) (w : Who) (wOk : Bool) (old v : Word) (i : Nat) : bit (ownWrite s w wOk old v) i =
    if (if i = 0 then ownerWriter s w = true ∧ wOk = true else walledWriter s w = true ∧ i < 10) then bit v i else bit old i := by
  have hlease : bit (if walledWriter s w = true then setF old 1 9 (getF v 1 9) else old) i =
      if walledWriter s w = true ∧ 1 ≤ i ∧ i < 10 then bit v i else bit old i := by
    split
    · next hw => rw [bit_setF_getF]; simp [hw]
    · next hw => simp [hw]
  unfold ownWrite
  extract_lets v1
  by_cases hown : (wOk && ownerWriter s w) = true
  · obtain ⟨hok, how⟩ := Bool.and_eq_true_iff.1 hown
    rw [if_pos hown, bit_setF_getF]
    obtain rfl | hi := Nat.eq_zero_or_pos i
    · simp [hok, how]
    · rw [if_neg (by omega), show bit v1 i = _ from hlease]
      simp [show i ≠ 0 by omega, show 1 ≤ i by omega]
  · rw [if_neg hown, show bit v1 i = _ from hlease]
    obtain rfl | hi := Nat.eq_zero_or_pos i
    · have hnot : ¬ (ownerWriter s w = true ∧ wOk = true) := fun h => hown (by rw [h.1, h.2]; rfl)
      simp [hnot]
    · simp [show i ≠ 0 by omega, show 1 ≤ i by omega]

/-! ## The journal (R231, R249) -/

theorem forAll_setReg (pg base : Nat) (f : Nat → Word) (s : State) (n : Nat) (hn : base + n ≤ 1024) :
    let s' := forAll (List.range n) (fun k x => setReg pg (base + k) (f k) x) s
    s' = { s with regs := s'.regs } ∧ (∀ k, k < n → reg s' pg (base + k) = f k) ∧
      ∀ p o, o < 1024 → (p ≠ pg ∨ o < base ∨ base + n ≤ o) → reg s' p o = reg s p o := by
  induction n with
  | zero => exact ⟨rfl, fun _ h => absurd h (Nat.not_lt_zero _), fun _ _ _ _ => rfl⟩
  | succ n ih =>
    obtain ⟨hfields, hset, hothers⟩ := ih (by omega)
    rw [List.range_succ, forAll_append]
    set x := forAll (List.range n) (fun k x => setReg pg (base + k) (f k) x) s
    refine ⟨?_, fun k hk => ?_, fun p o ho hne => ?_⟩
    · rw [forAll, forAll, setReg, hfields]
    · obtain rfl | hlt := Nat.eq_or_lt_of_le (Nat.le_of_lt_succ hk)
      · exact reg_setReg_same x pg (base + k) (f k)
      · exact (reg_setReg_off x (f n) (by omega)).trans (hset k hlt)
    · refine ((reg_setReg x (f n) ho (by omega)).trans (if_neg (by omega))).trans (hothers p o ho (by omega))

end

/-! ## The requests -/

section
variable {s : State} {w : Who} {c : Fin 128} {P : State → Prop} (hmay : c.val < 127 ∨ w = .nursery)
include hmay

/-- Channel 127 takes no write but the Nursery's (R202). -/
theorem not_reserved : ¬ (c.val = 127 ∧ w ≠ .nursery) := by
  rintro ⟨hc, hw⟩
  obtain h | h := hmay
  · omega
  · exact hw h

section
variable (hgate : regGate s w (pgTrch c) (chBase c) = .ok)
include hgate

theorem trchReq_ctrl (b : Nat) : trchReq w c b s = .next (trchCtrl c (wd (2 ^ b)) s) :=
  congrArg Host.Outcome.next ((gated_of_ok _ hgate).trans (if_neg (not_reserved hmay)))

theorem runs_trchStart (hP : P (reqStart c s)) : Runs (.trchStart w c) s P := ⟨_, trchReq_ctrl hmay hgate 0, hP⟩
theorem runs_trchStop (hP : P (reqStop c s)) : Runs (.trchStop w c) s P := ⟨_, trchReq_ctrl hmay hgate 1, hP⟩
theorem runs_trchSuspend (hP : P (reqSuspend c 3 s)) : Runs (.trchSuspend w c) s P := ⟨_, trchReq_ctrl hmay hgate 2, hP⟩
theorem runs_trchResume (hP : P (reqResume c s)) : Runs (.trchResume w c) s P := ⟨_, trchReq_ctrl hmay hgate 3, hP⟩
theorem runs_clrsig (hP : P (clrSig c s)) : Runs (.clrsig w c) s P := ⟨_, trchReq_ctrl hmay hgate 4, hP⟩

/-- START of an idle linear channel runs it or is refused (R227). -/
theorem runs_trchStart_idle (hst : chState s c = 0) (hring : chRing s c = false) :
    (slotOk (cmd12 s c) (chF s c 4 0 32) = true → Runs (.trchStart w c) s fun s' => chState s' c = 1 ∧
      chCpc s' c = chF s c 4 0 32 ∧ chLd s' c = 0 ∧ chF s' c 1 3 3 = 0 ∧ (chanAt s' c).phase = .next ∧
      (chanAt s' c).outst = (chanAt s c).outst ∧ ChOnly c [1, 5] s s') ∧
    (slotOk (cmd12 s c) (chF s c 4 0 32) = false → Runs (.trchStart w c) s fun s' => bit (chR s' c 1) 14 = true ∧
      chState s' c = 0 ∧ ChOnly c [1] s s') := by
  refine ⟨fun hslot => runs_trchStart hmay hgate ?_, fun hslot => runs_trchStart hmay hgate ?_⟩
  · obtain ⟨hrun, hcpc, hld, hcause, hphase, houtst, -, honly⟩ := tryStart_linear hring hslot
    have hstart : reqStart c s = tryStart c s := by
      unfold reqStart
      rw [hst]
      rfl
    rw [hstart]
    exact ⟨hrun, hcpc, hld, hcause, hphase, houtst, honly⟩
  · rw [reqStart_misplaced hst hring hslot]
    obtain ⟨hbit, hstate, honly⟩ := marked_setStat (s := s) (c := c) 14 (by decide) (by decide) true
    exact ⟨hbit, hstate.trans hst, honly⟩

/-- STOP drains a waiting or suspended channel (R212, R226). -/
theorem runs_trchStop_halted (hst : chState s c = 2 ∨ chState s c = 3) :
    let left := ((chanAt s c).outst.filter fun y => decide (y.held ≠ 2)).map fun y => (y.pa, y.data)
    let stopped := fun s' : State => chState s' c = 5 ∧ bit (chR s' c 1) 10 = false ∧ s'.mem = s.mem ∧
      (moveBad (chanAt s c) = true → bit (chR s' c 1) 13 = true ∧ chF s' c 0xF 0 16 = min 65535 (chF s c 0xF 0 16 + 1))
    (statusDue s c = none → Runs (.trchStop w c) s fun s' => stopped s' ∧
      (chanAt s' c).outst.map (fun y => (y.pa, y.data)) = left) ∧
    (∀ ts cause, statusDue s c = some (ts, cause) → ChPlain s c ((chCpc s c + 1) % 2 ^ 32) → Runs (.trchStop w c) s fun s' =>
      stopped s' ∧ (chanAt s' c).outst.map (fun y => (y.pa, y.data)) = left ++
        [((chCpc s c + 1) % 2 ^ 32, .half true (BitVec.ofNat 20 (ts + 4 * cause + 2 ^ 8 * (chanAt s c).replays)))]) := by
  intro left stopped
  have hstop : stopped (stopCommit c s) := by
    obtain ⟨hstate, hquiet, -, hmem, hmarks⟩ := stopCommit_stopped c.isLt s
    exact ⟨hstate, hquiet, hmem, hmarks⟩
  refine ⟨fun hdue => runs_trchStop hmay hgate ?_, fun ts cause hdue hplain => runs_trchStop hmay hgate ?_⟩
  · rw [reqStop_halted hst]
    exact ⟨hstop, by rw [stopCommit_none hdue]; exact outst_stopMarked c.isLt s⟩
  · rw [reqStop_halted hst]
    exact ⟨hstop, outst_stopCommit_some c.isLt hdue hplain⟩

end

/-- A write of CRING_PI stores an index inside the ring, and another does nothing (R207). -/
theorem runs_cringPiWrite (pi : BitVec 16) (hgate : regGate s w (pgTrch c) (chBase c + 7) = .ok) :
    (ringSize s c ≤ pi.toNat → Runs (.cringPiWrite w c pi) s fun s' => s' = s) ∧
    (pi.toNat < ringSize s c → Runs (.cringPiWrite w c pi) s fun s' => ringPi s' c = pi.toNat ∧
      (chRing s c = true → chState s c = 2 → (chanAt s c).phase = .next → (chanAt s c).skip = 0 → ringCi s c < ringSize s c →
        pi.toNat ≠ ringCi s c → chState s' c = 1 ∧ chF s' c 1 30 4 = 0) ∧ ChOnly c [1, 5, 7, 8] s s') := by
  have hfield : getF (wd pi.toNat) 0 16 = pi.toNat := by
    have := pi.isLt
    rw [getF_wd _ _ _ (by decide)]
    omega
  have hexec : exec (.cringPiWrite w c pi) s = .next (if pi.toNat < ringSize s c then
      ringSettle c (setChR c 7 (wd pi.toNat) s) else s) := by
    refine congrArg Host.Outcome.next ((gated_of_ok _ hgate).trans ((if_neg (not_reserved hmay)).trans ?_))
    dsimp only
    rw [hfield]
    rfl
  refine ⟨fun hsize => ⟨s, hexec.trans (congrArg _ (if_neg (by omega))), rfl⟩, fun hsize => ?_⟩
  exact ⟨_, hexec.trans (congrArg _ (if_pos hsize)), cringPi_spec s c pi⟩

/-- A write of OWN (R230). -/
theorem runs_trchOwnWrite (v : Word) (hgate : regGate s w (pgTrch c) (chBase c + 3) = .ok) :
    Runs (.trchOwnWrite w c v) s fun s' => ChOnly c [3] s s' ∧ ∀ i, i < 40 → bit (chR s' c 3) i =
      (if (if i = 0 then ownerWriter s w = true ∧ chState s c = 0 ∧ c.val ≠ 127 else walledWriter s w = true ∧ i < 10) then bit v i
       else bit (chR s c 3) i) := by
  refine ⟨trchOwn w c v s, congrArg Host.Outcome.next ((gated_of_ok _ hgate).trans (if_neg (not_reserved hmay))), ?_, fun i _ => ?_⟩
  · exact (ChOnly.refl c [3] s).setChR (by simp) (by decide) _
  · rw [trchOwn, chR_setChR_same, bit_ownWrite]
    refine if_congr ?_ rfl rfl
    simp only [Bool.and_eq_true, decide_eq_true_eq]

end

/-- Channel 127 takes no START but the Nursery's (R202). -/
theorem runs_trchStart_reserved {s : State} {w : Who} (hw : w ≠ .nursery) (hgate : regGate s w (pgTrch 127) (chBase 127) = .ok) :
    Runs (.trchStart w 127) s fun s' => s' = s :=
  ⟨s, congrArg Host.Outcome.next ((gated_of_ok _ hgate).trans (if_pos ⟨rfl, hw⟩)), rfl⟩

/-- STOP_COMMIT and DRAIN_COMPLETE (R226, R227). -/
theorem runs_stopCommit {s : State} {c : Fin 128} (hup : domUp s domTrel = true) (hstate : chState s c = 4) :
    Runs (.stopCommit c) s fun s' => chState s' c = 5 ∧ bit (chR s' c 1) 10 = false ∧ chF s' c 1 30 4 = 0 ∧ s'.mem = s.mem ∧
      (moveBad (chanAt s c) = false → statusDue s c = none → s'.hops = s.hops) := by
  obtain ⟨hst, hquiet, hwait, hmem, -⟩ := stopCommit_stopped c.isLt s
  exact ⟨_, congrArg Host.Outcome.next (if_pos ⟨hstate, hup⟩), hst, hquiet, hwait, hmem, stopCommit_hops⟩

theorem runs_drainComplete {s : State} {c : Fin 128} (hup : domUp s domTrel = true) (hstate : chState s c = 5)
    (hdone : (chanAt s c).outst = []) :
    (bit (chR s c 1) 9 = false → Runs (.drainComplete c) s fun s' => chState s' c = 0 ∧ ChOnly c [1] s s') ∧
    (bit (chR s c 1) 9 = true → chRing s c = false → slotOk (cmd12 s c) (chF s c 4 0 32) = true →
      Runs (.drainComplete c) s fun s' => chState s' c = 1 ∧ chCpc s' c = chF s c 4 0 32 ∧ bit (chR s' c 1) 9 = false ∧
        ChOnly c [1, 5] s s') := by
  obtain ⟨hidle, -, honly⟩ := chState_setChState (s := s) (c := c) (v := 0) (by decide)
  have hready : chState s c = 5 ∧ (chanAt s c).outst.isEmpty = true ∧ domUp s domTrel = true := ⟨hstate, by rw [hdone]; rfl, hup⟩
  have hexec : exec (.drainComplete c) s = .next (if bit (chR s c 1) 9 = true then
      tryStart c (setStat c 9 false (setChState c 0 s)) else setChState c 0 s) :=
    congrArg Host.Outcome.next (if_pos hready)
  refine ⟨fun hnone => ⟨_, hexec.trans (congrArg _ (if_neg (by simp [hnone]))), hidle, honly⟩, fun hkept hring hslot => ?_⟩
  have hx : ChOnly c [1] s (setStat c 9 false (setChState c 0 s)) := honly.setStat (by simp) _ _
  have hkeep : ∀ k, k < 0x18 → k ≠ 1 → chR (setStat c 9 false (setChState c 0 s)) c k = chR s c k := fun k hk hne =>
    hx.chR_same hk (by simpa using hne)
  have hsame : chF (setStat c 9 false (setChState c 0 s)) c 4 0 32 = chF s c 4 0 32 := by rw [chF, hkeep 4 (by decide) (by decide), chF]
  obtain ⟨hst, hcpc, -, -, -, -, hbit, honly'⟩ := tryStart_linear (s := setStat c 9 false (setChState c 0 s)) (c := c)
    (by rw [chRing, hkeep 2 (by decide) (by decide)]; exact hring)
    (by rw [cmd12, hkeep 2 (by decide) (by decide), hsame]; exact hslot)
  exact ⟨_, hexec.trans (congrArg _ (if_pos hkept)), hst, hcpc.trans hsame, hbit, (hx.mono (by simp)).trans honly'⟩

/-- A read of the journal answers its word 0 and latches the others (R231, R249). -/
theorem runs_trelJournalRead {s : State} {w : Who} (hgate : regGate s w pgTrel 0x020 = .ok) :
    let c := regF s pgTrel 0x018 0 7
    let j := (chanAt s c).journal
    Runs (.trelJournalRead w) s fun s' => s'.jsel = c ∧
      s'.readData = (if chWalled s c = false ∨ whoWalled s w = true then
        wd (j.cmd + 2 ^ 32 * b2n j.valid + 2 ^ 33 * b2n j.flt) else 0) ∧
      (∀ k, 1 ≤ k → k ≤ 9 → reg s' pgTrel (0x020 + k) = journalWord j k) ∧
      s' = { s with jsel := c, readData := s'.readData, regs := s'.regs } ∧
      (∀ p o, o < 1024 → (p ≠ pgTrel ∨ o < 0x021 ∨ 0x029 < o) → reg s' p o = reg s p o) := by
  intro c j
  obtain ⟨hfields, hset, hothers⟩ := forAll_setReg pgTrel 0x021 (fun k => journalWord j (k + 1)) { s with jsel := c } 9 (by decide)
  set y := forAll (List.range 9) (fun k x => setReg pgTrel (0x021 + k) (journalWord j (k + 1)) x) { s with jsel := c }
  have hread : gatedRead w pgTrel 0x020 s =
      { y with readData := if journalSeen s w c then journalWord j 0 else 0 } := by
    unfold gatedRead
    rw [hgate]
    rfl
  refine ⟨_, congrArg Host.Outcome.next hread, by rw [hfields], ?_, fun k hlo hhi => ?_, by rw [hfields], fun p o ho hne => ?_⟩
  · have hseen : journalSeen s w c = true ↔ chWalled s c = false ∨ whoWalled s w = true := by simp [journalSeen]
    exact if_congr hseen rfl rfl
  · have h := hset (k - 1) (by omega)
    rw [show 0x021 + (k - 1) = 0x020 + k by omega, show k - 1 + 1 = k by omega] at h
    exact h
  · exact hothers p o ho (by omega)

/-- Settles O37: each request is one change of its channel, which its state selects; a STOP's commit is followed to the status half that it
owes, even where a translation walk stops it. -/
theorem channelRequests : Obligations.ChannelRequests := by
  refine ⟨?_, fun s w hw hgate => runs_trchStart_reserved hw hgate,
    fun s c hup => ⟨runs_stopCommit hup, runs_drainComplete hup⟩, fun s w => runs_trelJournalRead⟩
  intro s w c hmay st x
  refine ⟨fun hgate => ⟨?_, ?_, ?_, ?_, ?_, ?_, ?_, ?_, ?_, ?_, ?_, ?_, ?_, ?_⟩, fun pi hgate => runs_cringPiWrite hmay pi hgate,
    fun ci hgate => ?_, fun v hgate => runs_trchOwnWrite hmay v hgate⟩
  -- START
  · exact runs_trchStart_idle hmay hgate
  · exact fun hst hprev hstop hsettled => runs_trchStart hmay hgate (reqStart_stopping hst hprev hstop hsettled)
  · exact fun hst hprev hstop => runs_trchStart hmay hgate (reqStart_struck hst hprev hstop)
  · intro hst
    refine runs_trchStart hmay hgate ?_
    rw [reqStart_draining hst]
    obtain ⟨hbit, hstate, honly⟩ := marked_setStat (s := s) (c := c) 9 (by decide) (by decide) true
    exact ⟨hbit, hstate.trans hst, honly⟩
  · intro hst
    refine runs_trchStart hmay hgate ?_
    rw [reqStart_busy hst]
    exact marked_setStat 14 (by decide) (by decide) true
  -- STOP
  · exact fun hst hphase => runs_trchStop hmay hgate (reqStop_running hst hphase)
  · intro hst left at' stopped
    obtain ⟨hnone, hsome⟩ := runs_trchStop_halted hmay hgate hst
    exact ⟨hnone, hsome⟩
  -- SUSPEND
  · intro hst hphase hretry
    refine runs_trchSuspend hmay hgate ?_
    rw [reqSuspend_boundary hst hphase hretry]
    obtain ⟨hstate, hcause, hprev, hmem⟩ := suspended_spec s c (cause := 3) (by decide)
    exact ⟨hstate, hcause, hprev.trans hst, hmem⟩
  · exact fun hst hphase => runs_trchSuspend hmay hgate (reqSuspend_pending hst hphase)
  · intro hst
    refine runs_trchSuspend hmay hgate ?_
    rw [reqSuspend_waiting hst]
    obtain ⟨hstate, hcause, hprev, hmem⟩ := suspended_spec s c (cause := 3) (by decide)
    exact ⟨hstate, hcause, hprev.trans hst, hmem⟩
  -- RESUME and CLRSIG
  · intro hst
    refine runs_trchResume hmay hgate ?_
    rw [reqResume_running hst]
    obtain ⟨hbit, hstate, honly⟩ := marked_setStat (s := s) (c := c) 10 (by decide) (by decide) false
    exact ⟨hstate.trans hst, hbit, honly⟩
  · exact fun hst hcause hsettled hprev hplain =>
      runs_trchResume hmay hgate (reqResume_suspended c.isLt hst hcause hsettled hprev hplain)
  · exact fun hst hcause => runs_trchResume hmay hgate (reqResume_progErr hst hcause)
  · exact runs_clrsig hmay hgate (clrSig_spec s c)
  -- SRING_CI
  · exact ⟨_, congrArg Host.Outcome.next ((gated_of_ok _ hgate).trans (if_neg (not_reserved hmay))), sringCi_spec s c ci⟩

end Sys2Proof.Machine
end
